-- ==== Sys2Proof/Word.lean ====
section
/-! DEFINITION. The machine word of the DN4810 and the plain abbreviations every file uses.
The spec: "A word is 64 bits. Bit 0 is the least significant bit." (00_scope.md). -/

namespace Sys2Proof

/-- A register or Groundsheet word (00_scope.md, "Numbers and units"). -/
abbrev Word := BitVec 64

/-- One byte. -/
abbrev Byte := BitVec 8

/-- Sparse data by key: the pairs whose value differs from what an unlisted key reads as, keys strictly
rising. The operations, which keep that form, are in Machine/Ops.lean. -/
abbrev SMap (α : Type) := List (Nat × α)

end Sys2Proof
end

