-- ==== Sys2Proof/Syntax.lean ====
section
/-! DEFINITION. The commands of the DN4810: one constructor of `Instr` per row of spec/opcode_table.json,
with the operands the spec gives the event (what the outside world supplies: a master and its data, or what
the slice measures on the air), and the types of those operands. -/

namespace Sys2Proof

/-- A bus master of R320: 0 SPI, 1 PF0, 2 and 3 the pitch 0 endpoint on ETH0 and ETH1, 4 + p − 1 for pitch p. -/
abbrev Master := Fin 12

/-- A privileged master (R284): SPI, PF0, or the pitch 0 endpoint on ETH0 or ETH1. -/
abbrev PMaster := Fin 4

/-- The two kinds of slice, each with one spare (R27). -/
inductive Kind where
  | hf | uhf
  deriving DecidableEq, Repr

/-- What one port's receiver gives in one window, in 1/2,048: its complex baseband input, and the complex drive of each of the
port's four neighbours in the same window, as the carrier group brings them (R85, R86). -/
structure Sample where
  x : Int × Int
  drive : List (Int × Int)
  deriving DecidableEq, Repr

/-- One component of a reply, a reply that the receiver can tell apart (R104): the measured start in fc after time zero
(HF), or in ticks after the end of the command (UHF, R216), and the modulated half-bit of its start bit at
each member of the group; one entry without GROUP. Of a Wide Reply, which has no start bit, `bins` gives the bins of the eight
subcarriers at each member (R162, R170). -/
structure Component where
  offset : Nat
  amps : List Sample
  bins : List (List Sample)
  deriving DecidableEq, Repr

/-- What the receiver measures at a reply start (R90, R91, R104, R171, R206). -/
structure StartObs where
  comps : List Component
  /-- Amplitude of the noise floor, in the unit of the components. -/
  noise : Nat
  /-- Carrier phase measured at each member of the group, in steps of 1.40625° (R83). -/
  phases : List (BitVec 8)
  rssi : BitVec 8
  /-- Gain that the AGC has set in the quiet interval (R90). -/
  gain : BitVec 3
  /-- Peak sample magnitude over the 16 fc after the detection, of a full scale of 2,048 (R171). -/
  peak : Nat
  /-- The two aerial metrics (R206); HF replies leave them at 0. -/
  metricA : BitVec 8
  metricB : BitVec 8
  /-- A sample of training symbol 0 reached full scale before the AGC step (R171). -/
  fullScale : Bool
  deriving DecidableEq, Repr

/-- Where a reply's modulation ended against the length the DN4810 expects (R110, row 6). -/
inductive LenObs where
  | exact | short | long
  deriving DecidableEq, Repr

/-- What the framer has received when an exchange ends (R104 to R112, R143 to R149). Of a Krovrel Narrow Reply the half-bits
say all; the other fields serve the protocols whose frames the standards of R12 lay out. -/
structure ReplyObs where
  /-- The half-bits of the bits received, start bit included, of a Krovrel reply, or of the UID and BCC bits of a Type A
  anticollision reply: the subcarrier over the central windows, first half then second, at each member of the group (R91,
  R107). -/
  halves : List (List Sample × List Sample)
  /-- A coding or parity error was found in the reply. -/
  fault : Bool
  len : LenObs
  /-- Number of flagged (colliding) bits (R91). -/
  flags : Nat
  /-- UID bit of the first flag, none when it lies on the start bit, a CRC bit or another field (R108). -/
  flagUid : Option Nat
  /-- Identifier carried by the reply, with its length in bytes. -/
  ident : BitVec 128
  identLen : Nat
  /-- Bits past the first 128 of an EPC longer than that (R150), in the order of the message words of R314. -/
  identRest : List Bool
  /-- The tag status byte (R122). -/
  status : BitVec 8
  /-- Data units of the payload; of an ATS, an ATQB or an ISO/IEC 14443-4 block its bytes, the first one first, one to a
  unit. -/
  data : List (BitVec 32)
  /-- The session MAC field received (R128). -/
  mac : BitVec 32
  /-- SAK of a Type A SELECT, or a protocol-level status of the ISO and Gen2 procedures: 0 is success. -/
  code : BitVec 8
  /-- Number of bits of the reply, for HF_FRAME (R318). -/
  bits : Nat
  /-- Tick in which the last bit of the reply ended (R23, R316). -/
  endedAt : Nat
  deriving DecidableEq, Repr

/-- What stands at the end of U (R43): whether the reply is still arriving, and what of it has come. -/
structure LateObs where
  arriving : Bool
  reply : ReplyObs
  deriving DecidableEq, Repr

/-- A head measurement: magnitude of Z in 0.1 Ω (HF) or return loss in 0.1 dB (UHF), and the phase in steps
of 1.40625° (R92, R98, R210). -/
structure HeadObs where
  mag : Nat
  phase : BitVec 8
  deriving DecidableEq, Repr

/-- The bins of a Wide Reply up to the end of the sync window (R172): of training symbol 0 what the samples before the step
of the fast AGC and after it contribute (R171), of training symbol 1, and of the sync symbol; each the eight bins at each
member of the group. -/
structure WideObs where
  before : List (List Sample)
  after : List (List Sample)
  train : List (List Sample)
  sync : List (List Sample)
  deriving DecidableEq, Repr

/-- The carrier that an Awning slice recovers (R222): its complex amplitude before cancellation, in 1/2,048 as for R86, what the
modulation leaves of the drives of the port's neighbours, of 2,048, the amplitude of the noise floor in the same unit, its distance from 13.56 MHz in Hz, and the
periods for which it has lain there. -/
structure CarrierObs where
  x : Int × Int
  left : List Nat
  noise : Nat
  offHz : Int
  periods : Nat
  deriving DecidableEq, Repr

/-- What the slice measures at the end of a timed transition, and in CARRIER (R72 to R74, R189, R203, R210). -/
structure SliceObs where
  head : HeadObs
  /-- Delivered power in mW (HF) or measured tx code (UHF). -/
  power : BitVec 16
  /-- The SJC has converged, and its rejection in dB (R203). -/
  sjcConverged : Bool
  rejDb : BitVec 8
  /-- The SJC vector w (R202), as UHA_SJC_SEEDb lays it out. -/
  sjcW : Word
  deriving DecidableEq, Repr

/-- One host write to a register (R295, R320): the master, the byte offset in its view, 4 or 8 bytes (other sizes
are BAD_SIZE, R289), and the data (the low 32 bits of it for a 4-byte write). -/
structure HostWrite where
  master : Master
  off : Nat
  size : Nat
  data : Word
  deriving DecidableEq, Repr

/-- An inbound Ethernet frame as HIF sees it (R300 to R302). -/
structure Datagram where
  dstMac : BitVec 48
  dstIp : BitVec 32
  dstUdp : BitVec 16
  srcMac : BitVec 48
  srcIp : BitVec 32
  srcUdp : BitVec 16
  /-- A VLAN tag, IPv4 options, a fragment or a wrong checksum (R300). -/
  malformed : Bool
  /-- The UDP payload as 64-bit words, least significant byte first (R301). -/
  words : List Word
  deriving DecidableEq, Repr

/-- A Guyline BEACON as received or sent (R374). -/
structure BeaconFrame where
  src : BitVec 5
  siteTime : Word
  epoch : BitVec 32
  number : BitVec 32
  nextTicks : BitVec 32
  roll : BitVec 32
  /-- Grants of lanes 0 to 63: a node ID, or 0xFF for free. -/
  grants : List Byte
  deriving DecidableEq, Repr

/-- What a node finds on the Guyline bus as it starts a frame (R375): no transition for 300 ns and every bit read back as driven;
a transition within 300 ns; a bit that reads back other than driven, which makes the frame void. -/
inductive BusSeen where
  | idle | busy | mismatch
  deriving DecidableEq, Repr

/-- A Guyline ACK as received or sent (R374). -/
structure AckFrame where
  src : BitVec 5
  siteTime : BitVec 32
  number : BitVec 16
  lanes : Word
  masterOk : Bool
  deriving DecidableEq, Repr

/-- The reset sources of R354. -/
inductive Cause where
  | por | brownout | wake | resetPin | watchdog | eccCritical | software | thermal
  deriving DecidableEq, Repr

/-- The two runs of a slice's start-up calibration (R335): quantities and settling terms, and the headroom (R342). -/
structure CalRun where
  slice : Nat
  a : List Int
  b : List Int
  headroom : Int
  deriving DecidableEq, Repr

/-- What the outside gives a step of the reset sequence (R357, R358): what it drives on GP0 to GP3, none where nothing is fitted
(R421), whether the flash has valid
SFDP, the I2C EEPROM's words, and the start-up calibration of the slices (R335). -/
structure BootInput where
  straps : List (Option Bool)
  sfdp : Bool
  eeprom : List Word
  cal : List CalRun
  deriving DecidableEq, Repr

/-- A level that the outside gives a ball, or an open wire (R420). -/
inductive Wire where
  | low | high | floating
  deriving DecidableEq, Repr

/-- A new level of a ball, and the ticks for which the ball has held it (R389). -/
structure EdgeObs where
  level : Bool
  held : Nat
  deriving DecidableEq, Repr

/-- The registers CHKn_CFG, CHKn_POLY, CHKn_INIT and CHKn_XOROUT (R253). -/
inductive ChkReg where
  | cfg | poly | init | xorout
  deriving DecidableEq, Repr

/-- A frame from a phone that carries no data: the instance it reaches, and the CRC_A field received (R248, R231). -/
structure PiccFrame where
  inst : Fin 4
  crc : BitVec 16
  deriving DecidableEq, Repr

/-- One I-block of an APDU from a phone (R225): its INF field and the CRC_A field received. -/
structure IBlock where
  inf : List Byte
  crc : BitVec 16
  deriving DecidableEq, Repr

/-- The commands: one constructor per row of spec/opcode_table.json, in the table's order. `blocks` are the I-blocks that an
APDU came in, the last one last (R225). -/
inductive Instr where
  | majorCycleBoundary
  | planStart
  | schSwap (m : PMaster)
  | schCancel (m : PMaster)
  | schRunWrite (m : PMaster) (run : Bool)
  | planCheckDone
  | stakeStart (idx : Nat)
  | triggerRunStart (port : Nat)
  | exchangeStart (port : Nat)
  | replyStartDetected (port : Nat) (obs : StartObs)
  | checkVerdict (port : Nat) (span : List Bool) (field : Word)
  | exchangeEnd (port : Nat) (r : ReplyObs)
  | exchangeTimeout (port : Nat) (o : LateObs)
  | budgetEntryExpired (pitch : Nat) (uid : BitVec 128)
  | stakeTailStart (port : Nat)
  | stakeEnd (port : Nat)
  | hfStateTransitionDone (slice : Nat) (obs : SliceObs)
  | uhfStateTransitionDone (slice : Nat) (obs : SliceObs)
  | loadMonitorSample (port : Nat) (obs : HeadObs)
  | uhfGammaSample (port : Nat) (obs : SliceObs)
  | headRetryExpired (port : Nat)
  | cancelAdapt (port : Nat) (x : Int × Int) (left : List Nat)
  | cancelReload (m : PMaster) (port : Nat)
  | wideSyncEnd (port : Nat) (obs : WideObs)
  | wideSymbolWindowEnd (port : Nat) (bins : List (List Sample))
  | wrdCodewordStart (dec : Fin 2)
  | wrdCodewordDone (dec : Fin 2)
  | synthLockTimeout (port : Nat)
  | channelChangeDone (port : Nat) (obs : SliceObs)
  | txTimeout (port : Nat)
  | paSequenceStep (port : Nat)
  | paFault (port : Nat) (low : Bool)
  | paFaultClear (m : PMaster) (port : Nat)
  | uhaPaCfgWrite (m : PMaster) (port : Nat) (v : Word)
  | coexLeadStart (idx : Nat)
  | coexWaitExpired (port : Nat)
  | cxGntRise
  | cxGntFall
  | cxReqRise (pri : Bool)
  | cxReqFall (pri : Bool)
  | rfInhibit (a b : Wire)
  | rfInhibitRelease (a b : Wire)
  | uhfStandbyRestored
  | rfoffSample
  | powerWindow (mw : BitVec 32)
  | pwrCeilWrite (m : PMaster) (v : Word)
  | pwrHfRailWrite (m : PMaster) (v : Word)
  | triggerEdge (t : Fin 16) (o : EdgeObs)
  | triggerSw (m : PMaster) (t : Fin 16)
  | gpioCfgWrite (m : PMaster) (n : Fin 64) (v : Word)
  | gpioSet (m : PMaster) (v : Word)
  | gpioClr (m : PMaster) (v : Word)
  | awningFieldDetect (inst : Fin 4) (obs : CarrierObs)
  | awningFieldLost (inst : Fin 4) (absent : Nat)
  | awningSeamHoldExpired (inst : Fin 4)
  | reqa (inst : Fin 4)
  | wupa (inst : Fin 4)
  | anticollision (inst : Fin 4) (level : Nat) (known : List Bool)
  | select (f : PiccFrame) (level : Nat) (uid : List Byte)
  | hlta (f : PiccFrame)
  | rats (f : PiccFrame) (fsdi : Nat) (cid : Nat)
  | pps (f : PiccFrame) (dsi : Nat) (dri : Nat)
  | rAck (f : PiccFrame) (block : Bool)
  | rNak (f : PiccFrame) (block : Bool)
  | sDeselect (f : PiccFrame)
  | selectByName (inst : Fin 4) (aid : List Byte) (blocks : List IBlock)
  | selectByFileId (inst : Fin 4) (id : BitVec 16) (blocks : List IBlock)
  | readBinary (inst : Fin 4) (offset : Nat) (le : Nat) (blocks : List IBlock)
  | updateBinary (inst : Fin 4) (offset : Nat) (data : List Byte) (blocks : List IBlock)
  | verify (inst : Fin 4) (data : List Byte) (blocks : List IBlock)
  | pinLockExpired (inst : Fin 4)
  | awningCommit (m : Master) (inst : Fin 4) (v : Word)
  | awningCommitApply (inst : Fin 4)
  | watchRound
  | lanternConfirmPing (e : Fin 4)
  | lanternPingDone (e : Fin 4) (amp : BitVec 12) (phase : BitVec 8)
  | wakeCardClear (m : PMaster)
  | presenceSweep (idx : Nat)
  | chkHostRunStart (m : PMaster) (n : Fin 48) (v : Word)
  | chkHostRunDone (n : Fin 48)
  | chkCfgWrite (m : PMaster) (n : Fin 48) (r : ChkReg) (v : Word)
  | scrubVisit (word : Nat) (upset : Word)
  | eccInjectArm (m : PMaster) (v : Word)
  | groundsheetWrite (m : Master) (off : Nat) (bytes : List Byte)
  | bufAlloc (m : Master) (p : Fin 9)
  | bufFree (m : Master) (p : Fin 9) (v : Word)
  | fifoPush (m : Master) (n : Fin 64) (v : Word)
  | fifoPop (m : Master) (n : Fin 64) (v : Word)
  | fifoFlush (m : PMaster) (n : Fin 64)
  | heldPacketCommit (n : Fin 64)
  | wheelTurnStart (wait : BitVec 16) (target : BitVec 5)
  | rrWaitClear (m : PMaster)
  | krvReq (n : Fin 64)
  | hfFrame (n : Fin 64)
  | hfApdu (n : Fin 64)
  | gen2Req (n : Fin 64)
  | requestStart (port : Nat)
  | requestWaitExpired (pitch : Nat) (port : Nat)
  | keyLoad (p : Fin 9) (v : Word)
  | secKeyLoad (m : PMaster) (v : Word)
  | registerWrite (ws : List HostWrite)
  | lowerHalfRead (m : Master) (off : Nat)
  | upperHalfWrite (m : Master) (off : Nat) (data : BitVec 32)
  | perst
  | ringWrite (m : Master) (n : Fin 64) (v : Word)
  | ringDeliver (n : Fin 64)
  | doorbell (m : Master) (n : Fin 64) (v : Word)
  | requestFetchDone (n : Fin 64) (ok : Bool) (words : List Word)
  | msixUnmask (fn : Fin 9) (vec : Fin 64)
  | ethDatagramRx (x : Fin 2) (d : Datagram)
  | regRead (p : Fin 9)
  | regWrite (p : Fin 9)
  | ack (p : Fin 9)
  | ethSourceEntryExpired (ip : BitVec 32)
  | ethTransmit (p : Fin 9) (x : Fin 2)
  | ethRetxTimeout (p : Fin 9)
  | spiWrite (addr : Nat) (words : List Word) (crc : BitVec 32)
  | spiRead (addr : Nat) (count : Nat)
  | spiStatus
  | challenge
  | unlock (tag : Word)
  | lock
  | spiUnlockBlockExpired
  | rotationDue (k : Kind)
  | rotate (m : PMaster) (v : Word)
  | spareHandover (k : Kind)
  | spareReturn (k : Kind)
  | checkpoint (port : Nat) (live : List Word)
  | spareTransferDone (k : Kind) (live : List Word)
  | calCompare (k : Kind) (a b : List Int) (headroom : Int)
  | sliceFailed (slice : Nat) (cause : Fin 7)
  | linkFail (die : Fin 6)
  | correctionSlew (slice : Nat)
  | ageMeasure (counts : List (Nat × Nat))
  | avs (mu : Int)
  | ageSummary
  | logRateWindowEnd (type : BitVec 8)
  | enterHibernate (m : PMaster)
  | enterWatch (m : PMaster)
  | lowPowerEntryDone
  | wake
  | rtcAlarm
  | por
  | brownout
  | resetPin
  | watchdog
  | software (m : PMaster) (v : Word)
  | thermal
  | blockReset (m : PMaster) (v : Word)
  | imageTimeout
  | restage (m : PMaster)
  | cfgStage (m : PMaster) (w : Word)
  | load (m : PMaster)
  | flashRead (m : PMaster) (addr : BitVec 32)
  | flashProgram (m : PMaster) (addr : BitVec 32)
  | flashErase (m : PMaster) (addr : BitVec 32)
  | flashCmdDone (good : Bool)
  | logbookWrite (good : Bool)
  | logbookErase
  | beacon (f : BeaconFrame)
  | beaconTransmit (bus : BusSeen)
  | guylineAck (f : AckFrame)
  | ackSlot (bus : BusSeen)
  | masterTimeout
  | beaconRetry
  | laneGrantStart
  | laneDeadline
  | tracePortOut
  | tapReset
  | extest
  | idcode
  | samplePreload
  | extestPulse
  | extestTrain
  | highz
  | clamp
  | bypass
  | endOfCause (c : Cause)
  | resetSequenceStepDone (i : BootInput)
  | reservedTypeRequest (n : Fin 64)
  | otherInsApdu (inst : Fin 4) (ins : Byte) (p1p2 : BitVec 16) (blocks : List IBlock)
  | cxPriRise
  | ethLinkDown (x : Fin 2)
  | ethLinkUp (x : Fin 2) (speed : BitVec 3)
  | groundsheetRead (m : Master) (off : Nat) (n : Nat)
  | guylineFrameCrcFail (type src : Byte) (rest : List Byte)
  | vfEnableWrite (numVfs : BitVec 16) (enable : Bool)
  deriving DecidableEq, Repr

end Sys2Proof
end

