-- ==== Sys2Proof/Config.lean ====
section
/-! DEFINITION. What one implementation fixes, and the values the manual leaves open: the free values. A free value
is an opaque constant with no body; no proof can see what it is, so a claim is true whatever it is. -/

namespace Sys2Proof

/-- A free word for the n-th draw of the machine: whatever the spec leaves undefined or draws from the entropy
source (the counter `State.fresh` counts the draws). See notes/assumptions/2.md. -/
opaque Config.freeWord : Nat → Word

/-- A free natural number for the n-th draw: choices the spec leaves open (which buffer heads a free list,
R262; which entry an unordered choice takes). See notes/assumptions/2.md. -/
opaque Config.freeNat : Nat → Nat

/-- The key-encryption key fused into the DN4810 (R362), its first byte in bits [7:0]. See notes/assumptions/3.md. -/
opaque Config.kek : BitVec 256

/-- The fused key hash (R363), as the number whose most significant byte comes first. See notes/assumptions/3.md. -/
opaque Config.keyHash : BitVec 256

/-- The device serial that the fuses hold, which FACTORY word 0 must carry (R361, R363).
See notes/assumptions/3.md. -/
opaque Config.deviceSerial : Word

/-- Bruarfort's PCIe vendor identifier and JEDEC manufacturer identity (R293, R398), which the manual does not
print. See notes/assumptions/3.md. -/
opaque Config.vendorId : BitVec 16
opaque Config.jedecId : BitVec 11

/-- The trace port is fitted in the package (the TRACE entry of R408 shows it; the manual gives no value).
See notes/assumptions/3.md. -/
opaque Config.tracePortFitted : Bool

/-- The factory value of a slice's correction quantity (R335, R336) as a FACTORY record holds it: the manual does not give the
layout of the record past word 0. See notes/assumptions/3.md. -/
opaque Config.factoryValue : List Word → Nat → Nat → Int

/-- The live state that HLT loads from a slot for a port (R327): with the port's spare path offset added when the spare
takes it (`true`), removed when its own slice does. HLT measures the offset, and the manual gives neither its value nor
the word that holds it. See notes/assumptions/3.md. -/
opaque Config.loadLive : Nat → Bool → List Word → List Word

/-- The seed of the self-jammer canceller that HLT gives the spare for a port's own seed (R204): corrected by the spare path
offset of the port, which stands in the live state that the spare holds for it (R323); the manual gives neither its place nor the
correction. See notes/assumptions/3.md. -/
opaque Config.sjcOffset : List Word → Nat → Word → Word

/-- Power that the spare drives for each 10,000 that reach a port (R28, R73): HLT makes up the loss of its path, which it measures.
See notes/assumptions/3.md. -/
opaque Config.spareLoss : Nat → Nat

/-- Which of its two neighbours a value between two codes is taken for (R174, R176, R183): the manual states no rounding.
See notes/assumptions/91.md. -/
opaque Config.roundUp : Rat → Bool

/-- Calibrated ratio of the gains of two gain codes of a slice, in 1/65,536 (R171). See notes/assumptions/91.md. -/
opaque Config.gainRatio : Nat → Nat → Nat → Nat

/-- The receiver noise floor of the slices that receive together as their calibration gives it, 16 σ² less 1, in the unit of the
bins (R172). See notes/assumptions/91.md. -/
opaque Config.wideFloor : List Nat → Nat

/-- The mean energy of the bins, less 1, that a power of 0 dBm at the port gives in the slices that receive together at gain
code 0 (R173): a calibrated value. See notes/assumptions/91.md. -/
opaque Config.wideRef : List Nat → Nat

/-- The corrections and settling terms that two agreeing runs give (R335, R336): the manual does not say which of the two
values, or what mean of them, is taken. See notes/assumptions/3.md. -/
opaque Config.calResult : List Int → List Int → List Int

/-- The start-up words of a port's live state (R327), whose layout the manual does not give.
See notes/assumptions/3.md. -/
opaque Config.startLive : Nat → List Word

end Sys2Proof
end

