-- ==== Sys2Proof/Machine/Crypto.lean ====
section
/-! DEFINITION. The cryptography that the manual names by its standards (R12): AES with keys of 128 and 256 bits (FIPS 197),
AES-CMAC (NIST SP 800-38B), AES key unwrap (NIST SP 800-38F KW), SHA-256 (FIPS 180-4), and the verification of ECDSA on
P-256 (FIPS 186-5). Byte strings run first byte first; a bit vector holds its first byte in bits [7:0] (R99). -/

namespace Sys2Proof.Machine

/-- The n bytes of a value, least significant first (R99). -/
def bytesOf (n : Nat) (v : Nat) : List Byte := (List.range n).map fun i => BitVec.ofNat 8 (v / 2 ^ (8 * i))

/-- The value of a byte string, its first byte least significant. -/
def leNat (l : List Nat) : Nat := l.foldr (fun b a => b + 256 * a) 0

/-- The value of a byte string, its first byte most significant. -/
def beNat (l : List Nat) : Nat := l.foldl (fun a b => 256 * a + b) 0

/-- n bytes of a value, most significant first. -/
def beBytes (n v : Nat) : List Nat := (List.range n).map fun i => v / 256 ^ (n - 1 - i) % 256

def xorBytes (a b : List Nat) : List Nat := List.zipWith (· ^^^ ·) a b

/-! ### AES (FIPS 197) -/

/-- The S-box, 32 entries a row, entry 32r + i in byte i of row r. -/
def sboxRow (i : Nat) : Nat :=
  match i with
  | 0 => 0xC072A49CAFA2D4ADF04759FA7DC982CA76ABD7FE2B670130C56F6BF27B777C63
  | 1 => 0x75B227EBE28012079A059618C323C7041531D871F1E5A534CCF73F362693FDB7
  | 2 => 0xCF584C4A39BECB6A5BB1FC20ED00D153842FE329B3D63B52A05A6E1B1A2C8309
  | 3 => 0xD2F3FF1021DAB6BCF5389D928F40A351A89F3C507F02F94585334D43FBAAEFD0
  | 4 => 0xDB0B5EDE14B8EE4688902A22DC4F816073195D643D7EA7C41744975FEC130CCD
  | 5 => 0x08AE7A65EAF4566CA94ED58D6D37C8E779E4959162ACD3C25C2406490A3A32E0
  | 6 => 0x9E1DC186B95735610EF6034866B53E708A8BBD4B1F74DDE8C6B4A61C2E2578BA
  | _ => 0x16BB54B00F2D99416842E6BF0D89A18CDF2855CEE9871E9B948ED9691198F8E1

/-- The inverse S-box, laid out alike. -/
def invSboxRow (i : Nat) : Nat :=
  match i with
  | 0 => 0xCBE9DEC444438E3487FF2F9B8239E37CFBD7F3819EA340BF38A53630D56A0952
  | 1 => 0x25D18B6D49A25B76B224D92866A12E084EC3FA420B954CEE3D23C2A632947B54
  | 2 => 0x849D8DA75746155EDAB9EDFD5048706C92B6655DCC5CA4D41698688664F6F872
  | 3 => 0x6B8A130103BDAFC1020F3FCA8F1E2CD00645B3B80558E4F70AD3BC8C00ABD890
  | 4 => 0x6EDF751CE837F9E28535ADE72274AC9673E6B4F0CECFF297EADC674F4111913A
  | 5 => 0xF45ACD78FEC0DB9A2079D2C64B3E56FC1BBE18AA0E62B76F89C5291D711AF147
  | 6 => 0xEF9CC9939F7AE52D0D4AB519A97F51605FEC8027591012B131C7078833A8DD1F
  | _ => 0x7D0C2155631469E126D677BA7E042B17619953833CBBEBC8B0F52AAE4D3BE0A0

def sbox (b : Nat) : Nat := sboxRow (b / 32) / 2 ^ (8 * (b % 32)) % 256
def invSbox (b : Nat) : Nat := invSboxRow (b / 32) / 2 ^ (8 * (b % 32)) % 256

/-- Multiplication by x in GF(2^8). -/
def xtime (a : Nat) : Nat := if a < 128 then 2 * a else (2 * a) ^^^ 0x11B

/-- Multiplication in GF(2^8) by a constant below 16. -/
def gfMul (k a : Nat) : Nat :=
  (if k % 2 = 1 then a else 0) ^^^ (if k / 2 % 2 = 1 then xtime a else 0) ^^^
  (if k / 4 % 2 = 1 then xtime (xtime a) else 0) ^^^ (if k / 8 % 2 = 1 then xtime (xtime (xtime a)) else 0)

/-- The words of the key schedule, newest first: `n` more from word i on, for a key of nk words. -/
def keySchedule (nk : Nat) : Nat → Nat → List (List Nat) → List (List Nat)
  | 0, _, ws => ws
  | n + 1, i, ws =>
    let t := ws.headD []
    let u :=
      if i % nk = 0 then
        xorBytes ((List.append (t.drop 1) (t.take 1)).map sbox)
          [(List.range (i / nk - 1)).foldl (fun a _ => xtime a) 1, 0, 0, 0]
      else if nk = 8 ∧ i % 8 = 4 then t.map sbox
      else t
    keySchedule nk n (i + 1) (xorBytes (ws.getD (nk - 1) []) u :: ws)

/-- The round keys of a key of 16 or 32 bytes, in order. -/
def roundKeys (key : List Nat) : List (List Nat) :=
  let nk := key.length / 4
  let own : List (List Nat) := ((List.range nk).map fun i => (key.drop (4 * i)).take 4).reverse
  let ws := (keySchedule nk (3 * nk + 28) nk own).reverse
  (List.range (nk + 7)).map fun r => ((ws.drop (4 * r)).take 4).flatten

/-- Row r of the state moves by r columns to the left. -/
def shiftRows (l : List Nat) : List Nat := (List.range 16).map fun i => l.getD ((i + 4 * (i % 4)) % 16) 0
def invShiftRows (l : List Nat) : List Nat := (List.range 16).map fun i => l.getD ((i + 12 * (i % 4)) % 16) 0

/-- Each column times the circulant matrix of four constants. -/
def mixWith (m : List Nat) (l : List Nat) : List Nat :=
  (List.range 16).map fun i => (List.range 4).foldl
    (fun a k => a ^^^ gfMul (m.getD k 0) (l.getD (4 * (i / 4) + (i + k) % 4) 0)) 0
def mixColumns : List Nat → List Nat := mixWith [2, 3, 1, 1]
def invMixColumns : List Nat → List Nat := mixWith [14, 11, 13, 9]

/-- The rounds of the cipher under the round keys left; the last one mixes no columns. -/
def aesRounds : List (List Nat) → List Nat → List Nat
  | [], l => l
  | [k], l => xorBytes (shiftRows (l.map sbox)) k
  | k :: k' :: ks, l => aesRounds (k' :: ks) (xorBytes (mixColumns (shiftRows (l.map sbox))) k)

/-- AES of a block of 16 bytes. -/
def aesBytes (key block : List Nat) : List Nat :=
  match roundKeys key with
  | [] => block
  | k :: ks => aesRounds ks (xorBytes block k)

/-- The rounds of the inverse cipher under the round keys left, the last round key first. -/
def invRounds : List (List Nat) → List Nat → List Nat
  | [], l => l
  | [k], l => xorBytes ((invShiftRows l).map invSbox) k
  | k :: k' :: ks, l => invRounds (k' :: ks) (invMixColumns (xorBytes ((invShiftRows l).map invSbox) k))

/-- The inverse cipher. -/
def aesInvBytes (key block : List Nat) : List Nat :=
  match (roundKeys key).reverse with
  | [] => block
  | k :: ks => invRounds ks (xorBytes block k)

/-- AES under a key of 16 or 32 bytes (R12, R127). -/
def aes (key : List Byte) (block : BitVec 128) : BitVec 128 :=
  BitVec.ofNat 128 (leNat (aesBytes (key.map (·.toNat)) ((bytesOf 16 block.toNat).map (·.toNat))))

/-! ### CMAC (NIST SP 800-38B) -/

/-- Doubling of a subkey. -/
def cmacDouble (l : List Nat) : List Nat :=
  let v := beNat l
  beBytes 16 (if v < 2 ^ 127 then 2 * v else (2 * v % 2 ^ 128) ^^^ 0x87)

/-- The chain over `n` blocks of a message whose last one is masked already. -/
def cmacChain (key : List Nat) : Nat → List Nat → List Nat → List Nat
  | 0, x, _ => x
  | n + 1, x, m => cmacChain key n (aesBytes key (xorBytes x (m.take 16))) (m.drop 16)

/-- AES-CMAC of bytes. -/
def cmacBytes (key msg : List Nat) : List Nat :=
  let k1 := cmacDouble (aesBytes key (List.replicate 16 0))
  let n := max 1 ((msg.length + 15) / 16)
  let front := msg.take (16 * (n - 1))
  let last := msg.drop (16 * (n - 1))
  let tail :=
    if last.length = 16 then xorBytes last k1
    else xorBytes (List.append last (0x80 :: List.replicate (15 - last.length) 0)) (cmacDouble k1)
  cmacChain key n (List.replicate 16 0) (List.append front tail)

/-- AES-CMAC under a key of 16 or 32 bytes (R128, R301, R307), its first byte in bits [7:0]. -/
def cmac (key msg : List Byte) : BitVec 128 :=
  BitVec.ofNat 128 (leNat (cmacBytes (key.map (·.toNat)) (msg.map (·.toNat))))

/-! ### Key unwrap (NIST SP 800-38F, KW) -/

/-- Step t of the unwrapping of n half-blocks: A and the half-blocks R. -/
def unwrapStep (kek : List Nat) (n t : Nat) (x : List Nat × List (List Nat)) : List Nat × List (List Nat) :=
  let i := (t - 1) % n
  let b := aesInvBytes kek (List.append (xorBytes x.1 (beBytes 8 t)) (x.2.getD i []))
  (b.take 8, x.2.set i (b.drop 8))

/-- The key in 40 bytes of key wrap under the fused key-encryption key, none when the integrity check fails (R361, R363). -/
def unwrap (ws : List Word) : Option (BitVec 256) :=
  let l := (ws.take 5).flatMap fun w => (bytesOf 8 w.toNat).map (·.toNat)
  let kek := (bytesOf 32 Config.kek.toNat).map (·.toNat)
  let own : List (List Nat) := (List.range 4).map fun i => (l.drop (8 + 8 * i)).take 8
  let r := (List.range 24).foldl (fun x j => unwrapStep kek 4 (24 - j) x) (l.take 8, own)
  if r.1 = List.replicate 8 0xA6 then some (BitVec.ofNat 256 (leNat r.2.flatten)) else none

/-! ### SHA-256 (FIPS 180-4) -/

def shaK : List Nat :=
  [0x428A2F98, 0x71374491, 0xB5C0FBCF, 0xE9B5DBA5, 0x3956C25B, 0x59F111F1, 0x923F82A4, 0xAB1C5ED5] ++
  [0xD807AA98, 0x12835B01, 0x243185BE, 0x550C7DC3, 0x72BE5D74, 0x80DEB1FE, 0x9BDC06A7, 0xC19BF174] ++
  [0xE49B69C1, 0xEFBE4786, 0x0FC19DC6, 0x240CA1CC, 0x2DE92C6F, 0x4A7484AA, 0x5CB0A9DC, 0x76F988DA] ++
  [0x983E5152, 0xA831C66D, 0xB00327C8, 0xBF597FC7, 0xC6E00BF3, 0xD5A79147, 0x06CA6351, 0x14292967] ++
  [0x27B70A85, 0x2E1B2138, 0x4D2C6DFC, 0x53380D13, 0x650A7354, 0x766A0ABB, 0x81C2C92E, 0x92722C85] ++
  [0xA2BFE8A1, 0xA81A664B, 0xC24B8B70, 0xC76C51A3, 0xD192E819, 0xD6990624, 0xF40E3585, 0x106AA070] ++
  [0x19A4C116, 0x1E376C08, 0x2748774C, 0x34B0BCB5, 0x391C0CB3, 0x4ED8AA4A, 0x5B9CCA4F, 0x682E6FF3] ++
  [0x748F82EE, 0x78A5636F, 0x84C87814, 0x8CC70208, 0x90BEFFFA, 0xA4506CEB, 0xBEF9A3F7, 0xC67178F2]

def shaInit : List Nat := [0x6A09E667, 0xBB67AE85, 0x3C6EF372, 0xA54FF53A, 0x510E527F, 0x9B05688C, 0x1F83D9AB, 0x5BE0CD19]

/-- Rotation of a 32-bit word to the right. -/
def rotr (n x : Nat) : Nat := x / 2 ^ n + x % 2 ^ n * 2 ^ (32 - n)

/-- The message schedule, newest word first: `n` more words. -/
def shaSchedule : Nat → List Nat → List Nat
  | 0, ws => ws
  | n + 1, ws =>
    let w (i : Nat) : Nat := ws.getD (i - 1) 0
    let s0 := rotr 7 (w 15) ^^^ rotr 18 (w 15) ^^^ (w 15 / 2 ^ 3)
    let s1 := rotr 17 (w 2) ^^^ rotr 19 (w 2) ^^^ (w 2 / 2 ^ 10)
    shaSchedule n ((w 16 + s0 + w 7 + s1) % 2 ^ 32 :: ws)

/-- One round on the working variables a to h. -/
def shaRound (v : List Nat) (kw : Nat) : List Nat :=
  let x (i : Nat) : Nat := v.getD i 0
  let s1 := rotr 6 (x 4) ^^^ rotr 11 (x 4) ^^^ rotr 25 (x 4)
  let ch := (x 4 &&& x 5) ^^^ ((2 ^ 32 - 1 - x 4) &&& x 6)
  let t1 := x 7 + s1 + ch + kw
  let s0 := rotr 2 (x 0) ^^^ rotr 13 (x 0) ^^^ rotr 22 (x 0)
  let maj := (x 0 &&& x 1) ^^^ (x 0 &&& x 2) ^^^ (x 1 &&& x 2)
  [(t1 + s0 + maj) % 2 ^ 32, x 0, x 1, x 2, (x 3 + t1) % 2 ^ 32, x 4, x 5, x 6]

/-- The hash value after `n` blocks of 64 bytes. -/
def shaBlocks : Nat → List Nat → List Nat → List Nat
  | 0, h, _ => h
  | n + 1, h, m =>
    let own : List Nat := ((List.range 16).map fun i => beNat ((m.drop (4 * i)).take 4)).reverse
    let ws := (shaSchedule 48 own).reverse
    let v := (List.zipWith (· + ·) shaK ws).foldl shaRound h
    shaBlocks n ((List.zipWith (· + ·) h v).map (· % 2 ^ 32)) (m.drop 64)

/-- SHA-256 of bytes, as the number whose most significant byte is sent first. -/
def sha256 (m : List Nat) : Nat :=
  let n := m.length
  let pad : List Nat := 0x80 :: List.append (List.replicate ((119 - n % 64) % 64) 0) (beBytes 8 (8 * n))
  (shaBlocks ((n + 72) / 64) shaInit (List.append m pad)).foldl (fun a w => a * 2 ^ 32 + w) 0

/-- The bytes of words, least significant byte of each first. -/
def wordBytes (ws : List Word) : List Nat := ws.flatMap fun w => (bytesOf 8 w.toNat).map (·.toNat)

/-- SHA-256 of the key words Qx ‖ Qy is the fused key hash (R363). -/
def keyHashOk (key : List Word) : Bool := decide (sha256 (wordBytes key) = Config.keyHash.toNat)

/-! ### ECDSA on P-256 (FIPS 186-5) -/

def p256 : Nat := 2 ^ 256 - 2 ^ 224 + 2 ^ 192 + 2 ^ 96 - 1
def p256n : Nat := 0xFFFFFFFF00000000FFFFFFFFFFFFFFFFBCE6FAADA7179E84F3B9CAC2FC632551
def p256b : Nat := 0x5AC635D8AA3A93E7B3EBBD55769886BC651D06B0CC53B0F63BCE3C3E27D2604B
def p256g : Nat × Nat :=
  (0x6B17D1F2E12C4247F8BCE6E563A440F277037D812DEB33A0F4A13945D898C296,
   0x4FE342E2FE1A7F9B8EE7EB4A7C0F9E162BCE33576B315ECECBB6406837BF51F5)

/-- b to the power e modulo m, over the `n` low bits of e. -/
def powMod (m b : Nat) : Nat → Nat → Nat
  | 0, _ => 1 % m
  | n + 1, e => let h := powMod m b n (e / 2); h * h * (if e % 2 = 1 then b else 1) % m

/-- The inverse modulo a prime. -/
def invMod (m a : Nat) : Nat := powMod m (a % m) 256 (m - 2)

/-- Addition of points of the curve; none is the point at infinity. -/
def ecAdd : Option (Nat × Nat) → Option (Nat × Nat) → Option (Nat × Nat)
  | none, b => b
  | a, none => a
  | some (x1, y1), some (x2, y2) =>
    if x1 = x2 ∧ (y1 + y2) % p256 = 0 then none
    else
      let l :=
        if x1 = x2 then (3 * x1 * x1 + (p256 - 3)) * invMod p256 (2 * y1) % p256
        else (y2 + (p256 - y1)) * invMod p256 (x2 + (p256 - x1)) % p256
      let x3 := (l * l + (p256 - x1) + (p256 - x2)) % p256
      some (x3, (l * (x1 + (p256 - x3)) + (p256 - y1)) % p256)

/-- k times a point, over the `n` low bits of k. -/
def ecMul (a : Option (Nat × Nat)) : Nat → Nat → Option (Nat × Nat)
  | 0, _ => none
  | n + 1, k => let h := ecMul a n (k / 2); let d := ecAdd h h; if k % 2 = 1 then ecAdd d a else d

/-- A public key: a point of the curve, its coordinates in range. -/
def onCurve (q : Nat × Nat) : Bool :=
  decide (q.1 < p256) && decide (q.2 < p256) &&
  decide (q.2 * q.2 % p256 = (q.1 * q.1 * q.1 + (p256 - 3) * q.1 + p256b) % p256)

/-- The signature (r, s) of a digest under a public key verifies. -/
def ecdsaOk (digest : Nat) (q rs : Nat × Nat) : Bool :=
  onCurve q && decide (1 ≤ rs.1) && decide (rs.1 < p256n) && decide (1 ≤ rs.2) && decide (rs.2 < p256n) &&
  (let w := invMod p256n rs.2
   match ecAdd (ecMul (some p256g) 256 (digest * w % p256n)) (ecMul (some q) 256 (rs.1 * w % p256n)) with
   | none => false
   | some (x, _) => decide (x % p256n = rs.1))

/-- Two big-endian numbers of 32 bytes each, first byte in bits [7:0] of the first word (R361). -/
def twoNumbers (ws : List Word) : Nat × Nat := (beNat ((wordBytes ws).take 32), beNat (((wordBytes ws).drop 32).take 32))

/-- ECDSA P-256 over the SHA-256 of the image's signed words, with the key and the signature (R363). -/
def signatureOk (signed key sig : List Word) : Bool :=
  ecdsaOk (sha256 (wordBytes signed)) (twoNumbers key) (twoNumbers sig)

end Sys2Proof.Machine
end

