-- ==== Sys2Proof/Machine/State.lean ====
section
/-! DEFINITION. The state of the DN4810 as plain data: everything the manual gives the part (INVENTORY.md lists it
with the rule that names each piece), the queue of waiting commands, and the state right after reset.
Registers live in `regs`, keyed by their byte offset in PF0 BAR0 (Machine/Regs.lean gives their fields, access
codes and reset values); Groundsheet lives in `mem`, one byte per cell. -/

namespace Sys2Proof.Machine

/-- Why a step stops with a fault.
`noSuchResource`: raised by a meaning whose operand names a port, slice or entry that R9, R13 or the register map
does not assign (`Instr.wf` is false); safe, because such an event cannot come about on the part. -/
inductive Fault where
  | noSuchResource
  deriving DecidableEq, Repr

/-- Why a step is refused.
`notModelled`: raised by an arm of `exec` whose command has no meaning yet; safe. -/
inductive Refusal where
  | notModelled (mnemonic : String)
  deriving DecidableEq, Repr

/-! ### Clocks, power and boot -/

/-- Site time and epoch (R5), the always-on tick count from which PWR_RTC is read (R353), and the epoch copy in the
always-on domain (R369). -/
structure Clock where
  site : Nat
  aon : Nat
  epoch : BitVec 32
  aonEpoch : BitVec 32
  deriving DecidableEq, Repr

/-- The power states of R351. -/
inductive PowerState where
  | off | hibernate | watch | ready | run
  deriving DecidableEq, Repr

/-- A reset sequence under way (R355, R357): cold or warm, the last step completed, whether step 4 has zeroed
Groundsheet, the causes that still hold it, the start-up calibration (R335), the epoch chosen at step 5 (R369), and
whether the flash has valid SFDP (R360). -/
structure ResetSeq where
  cold : Bool
  step : Nat
  zeroed : Bool
  held : List Cause
  cal : List CalRun
  epoch : BitVec 32
  sfdp : Bool
  /-- Step 3 samples the straps (R358). -/
  samples : Bool
  /-- The tick of the always-on counter in which the sequence started, and the sources active in it (R354). -/
  at_ : Nat
  causes : List Cause
  deriving DecidableEq, Repr

/-- Power and boot (R351 to R364). -/
structure Boot where
  power : PowerState
  seq : Option ResetSeq
  /-- The low-power state being entered (R352), none when no entry is under way. -/
  entering : Option PowerState
  /-- An image has been applied since the reset (R362). -/
  applied : Bool
  /-- Only the CAP, RST and CFG windows respond (R364). -/
  windowsOnly : Bool
  /-- The staging area: the image that step 6 reads, or the words staged by a host, in order (R357, R364). -/
  staged : List Word
  /-- The image read and checked by step 6, with its source code (CFG_STATUS.source), or the failure code. -/
  image : Option (List Word × Nat)
  /-- The FACTORY record applied (R361), whose word 0 is the device serial. -/
  factory : List Word
  /-- The rollback floor of the newest EPOCH record (R363). -/
  floor : BitVec 32
  rstoutN : Bool
  /-- Boundary scan holds the balls until RESET_PIN or a cold reset (R400). -/
  scanHeld : Bool
  /-- The flash command that runs: op and address (R370). -/
  flashCmd : Option (Nat × Nat)
  deriving DecidableEq, Repr

/-! ### Groundsheet pool and packet FIFOs -/

/-- The buffer states of R261. -/
inductive BufState where
  | free | held | writing | queued
  deriving DecidableEq, Repr

/-- A packet descriptor in a FIFO (R265, R268): its chain of buffers, first to last, its length in words, and its place in the order
of the appends: the tick, and the cycle within it (R310). -/
structure Packet where
  chain : List Nat
  length : Nat
  at_ : Nat
  cycle : Nat
  deriving DecidableEq, Repr

/-- A packet FIFO (R265 to R270): the committed packets, oldest first, and the held REQUEST_DONE packets as words
with the sequence number each has taken. -/
structure Fifo where
  packets : List Packet
  held : List (List Word)
  deriving DecidableEq, Repr

/-! ### Slices and ports -/

/-- HF slice states (R71) and UHF slice states (R188), in one type: a slice of one kind only takes its own. -/
inductive SliceState where
  | off
  -- HF
  | quiet | armed | rampUp | field | rampDown | hfListen | hfCal | ping
  -- UHF
  | standby | synth | listen | uRampUp | carrier | uRampDown | hop | cal
  deriving DecidableEq, Repr

/-- The amplitude of a field or carrier while it moves (R75, R192): the level it left, the level it goes to, of 1,023, the
tick it left and the ticks it takes. -/
structure Ramp where
  from_ : Nat
  goal : Nat
  at_ : Nat
  ticks : Nat
  deriving DecidableEq, Repr

/-- The drive of an HF slice in amplitude and phase (R81): the vector that it left, the one it goes to over 128 fc from a tick
(R82), each as the amplitude code times its phasor in 1/2^24. -/
structure Vec where
  from_ : Int × Int
  goal : Int × Int
  at_ : Nat
  deriving DecidableEq, Repr

/-- A physical slice: the power in 1/3,969 mW that it drives at amplitude code 63 and its drive (R73, R81), the tick in which its
field last went off (R86), its amplitude, its state, the states it still has to pass through (R72, R189) and the tick from which the
next transition may complete, its corrections and slew target with the tick of the last slew (R323, R339), the live
port state that HLT loaded into it last (R327), whether it has failed (R330), and the site time of the last update of the status
that it reports (R26), which HFA_SAMPLE_TIME and UHA_SAMPLE_TIME read. -/
structure Slice where
  power : Nat
  vec : Vec
  droveAt : Option Nat
  ramp : Ramp
  st : SliceState
  path : List SliceState
  due : Nat
  corr : List Int
  target : List Int
  slewAt : Option Nat
  /-- Settling terms that its last agreeing calibration gave, in the order of R346, with its derate addition; none yet (R343). -/
  terms : List Nat
  live : List Word
  failed : Bool
  /-- The tick of its failure (R331). -/
  failedAt : Nat
  sampled : Nat
  /-- The tick from which the dwell that a UHF slice shows counts (R26, R219). -/
  dwellAt : Nat
  deriving DecidableEq, Repr

/-- A port (R9): served by the spare or by its own slice (R27), in or out of service and why, head retry deadline
(R95), consecutive bad load samples (R94), dwell and carrier-on start (R197, R200), the entry last used and the
permutation per channel table (R195, R196), host writes to seeds and coefficients since the stake began (R88, R202),
last aerial (R206), PA sequence (R207), the PA fault pin (R208), the channel code in use (R193), and the tick at which a front
ended without convergence (R203). -/
structure Port where
  covered : Bool
  /-- Out of service because its slice failed uncovered (R29), or a PA fault (R208). -/
  out : Bool
  paFault : Bool
  retryUntil : Option Nat
  /-- The retry timer has expired; the next measurement decides (R95). -/
  deciding : Bool
  badSamples : Nat
  /-- Tick of the first of them (R95). -/
  badSince : Nat
  chanStart : Nat
  dwellStart : Nat
  /-- The held carrier timed out; stakes that continue it give TX_TIMEOUT (R200). -/
  timedOut : Bool
  hopPos : SMap Nat
  hopPerm : SMap (List Nat)
  hopLen : SMap Nat
  coefWritten : Bool
  seedsWritten : List Nat
  reloadCoef : Bool
  aerial : Bool
  /-- Next step of the PA sequence of R207, none when it is not running. -/
  paStep : Option Nat
  paSince : Nat
  faultLow : Bool
  /-- PA pins as driven: BIAS, EN, MODE (R207). -/
  paPins : BitVec 3
  /-- SJC vector in use, as UHA_SJC_SEEDb lays it out, and whether it converged (R202). -/
  sjcW : Word
  sjcConverged : Bool
  chan : Nat
  /-- Table and entry of the channel in use, whose cap holds (R191). -/
  entry : Nat × Nat
  sjcLate : Option Nat
  /-- FIELD_HOLD: the stake that set the hold keeps the field; its power, pitch and settings (R46, R77). -/
  hold : Option (List Word)
  deriving DecidableEq, Repr

/-! ### The plan engine -/

/-- A check of the plan checker under way (R50, R65, R68): the bank, and whether it is the check at load. -/
structure Check where
  bank : Bool
  atLoad : Bool
  deriving DecidableEq, Repr

/-- A trigger latch of R63 and R390, per pair of trigger and port, with the edges it has absorbed. Port 255 keeps the
edges that came before a plan was loaded (R366). -/
structure TrigLatch where
  trig : Nat
  port : Nat
  latched : Bool
  count : Nat
  deriving DecidableEq, Repr

/-- SCH (R32 to R70). -/
structure Sch where
  /-- Index of the next stake of the cycle to start (R40). -/
  next : Nat
  check : Option Check
  /-- Tick at which the first major cycle is due (R68). -/
  startAt : Option Nat
  /-- First tick at which the pending plan may become active (R65). -/
  swapAt : Option Nat
  /-- Site time of the last cycle boundary, for the WATCHDOG (R354). -/
  lastBoundary : Nat
  latches : List TrigLatch
  /-- Ports that have had RAIL_LIMIT, and DERATE_CAP, in this cycle (R74, R342). -/
  railPorts : List Nat
  /-- Stakes that HFA_RAIL_LIMIT_CNT has counted in this cycle (R74). -/
  railStakes : List Nat
  capPorts : List Nat
  /-- The reason REPLAN is raised (R55). -/
  replan : Bool
  deriving DecidableEq, Repr

/-- The reader commands the DN4810 puts on the air: Krovrel (R114), Gen2 (R215), ISO/IEC (R145 to R149), a host
frame or APDU (R313), and a Lantern ping (R242). -/
inductive Cmd where
  /-- BEGIN with its flags and its mask (R114). -/
  | kBegin (slotted : Bool) (q : Nat) (target : Bool) (maskAddr : BitVec 16) (maskLen : Nat) (mask : Word)
  | kWalk (l : Nat) (v : Word)
  | kNextSlot
  | kReround (q : Nat)
  | kSelect (uid : Word)
  | kSleep (mark : Bool)
  | kRead (addr : BitVec 16) (n : Nat)
  | kReadWide (addr : BitVec 16) (m : Nat)
  | kProgram (addr : BitVec 16) (data : BitVec 32)
  | kErase (addr : BitVec 16)
  | kLock (addr : BitVec 16)
  | kPassword (cover : BitVec 32)
  | kAuth1 (keyId : Nat) (rc : Word)
  | kAuth2 (t2 : BitVec 128)
  | kGetInfo
  /-- Select: target, action, bank, bit pointer, length and mask (R217, R218). -/
  | gSelect (target action bank ptr len : Nat) (mask : BitVec 128)
  /-- Query: Q, target flag, session, Sel (R143). -/
  | gQuery (q : Nat) (target : Bool) (session sel : Nat)
  | gQueryAdjust (up : Bool)
  | gQueryRep
  | gAck
  | gReqRn
  /-- NAK (R215): FRM has its frame; no rule has SNG send it. -/
  | gNak
  /-- Access: the password under the cover of the tag's RN16 (R215). -/
  | gAccess (cover : BitVec 32)
  /-- An operation of R314: op, bank, word pointer, words or Lock payload, and its data, under the cover code where the
  standard has one. -/
  | gOp (op bank ptr n : Nat) (data : List (BitVec 16))
  | aReqa (wake : Bool)
  | aAnticoll (level : Nat) (bits : List Bool)
  /-- SELECT of a cascade level with the four UID bytes and BCC (R146). -/
  | aSelect (level : Nat) (uid : List Byte)
  | aHlta
  | aRats (fsdi cid : Nat)
  | aPps (cid rate : Nat)
  | aDeselect
  /-- REQB or WUPB with 2^k slots and the AFI, 0 for every family (R145, R147). -/
  | bReq (wake : Bool) (k : Nat) (afi : Byte)
  | bMarker (n : Nat)
  | bHltb (pupi : BitVec 32)
  | bAttrib (pupi : BitVec 32) (cid rate : Nat)
  | vInventory (mask : Word) (len : Nat) (sixteen : Bool) (afi : Option Byte)
  | vSlot (n : Nat)
  /-- SENSF_REQ with 2^k slots (R149). -/
  | fSensf (k : Nat) (sys : BitVec 16) (req : Nat)
  | fSlot (n : Nat)
  /-- ATR_REQ and RLS_REQ to an NFCID2, with DID 0 (R145). -/
  | fAtr (nfcid : Word)
  | fRls
  | frame
  /-- ISO/IEC 14443-4 blocks (R97): an I-block, an R-block and an S(WTX) response. -/
  | iBlock (bn chain : Bool) (inf : List Byte)
  | rBlock (nak bn : Bool)
  | sWtx (wtxm : Nat)
  /-- A Lantern ping of so many µs (R47, R236). -/
  | ping (us : Nat)
  deriving DecidableEq, Repr

/-- A cell of a Krovrel command (R100). -/
inductive Cell where
  | zero | one | empty
  deriving DecidableEq, Repr

/-- What the receiver has latched of a reply start (R90, R104, R108, R206): the measured start of the strongest component
seen, whether a component that is seen is off-time, whether the total power reaches the trust level, and the RSSI, gain and
aerial. -/
structure Latched where
  offset : Nat
  offTime : Bool
  clear : Bool
  /-- Amplitude of the noise floor. -/
  noise : Nat
  /-- Carrier phases of the members of a group (R83). -/
  phases : List (BitVec 8)
  rssi : BitVec 8
  gain : BitVec 3
  /-- Gain before the fast AGC of a Wide Reply (R171). -/
  startGain : BitVec 3
  aerial : Bool
  metricA : BitVec 8
  metricB : BitVec 8
  deriving DecidableEq, Repr

/-- The exchange classes of R110. -/
inductive XClass where
  | cut | silent | skewed | collided | garbled | shortLong | received
  deriving DecidableEq, Repr

/-- The status codes of R432. -/
inductive Status where
  | ok | noTag | timingSkew | crcFail | badLength | decodeFail | tagError | notErased | authFail | lockedOut
  | collisionUnresolved | abandoned | inhibited | headAbsent | coexDenied | txTimeout | sliceSuspect | tooLong
  | badParam | queueFull
  deriving DecidableEq, Repr

/-- Progress of a Wide Reply in the running exchange (R171 to R183). -/
structure Wide where
  syncDone : Bool
  /-- ρ (R173). -/
  rho : Rat
  /-- The taps Ĥ of the eight subcarriers times 2√2, and σ̂² times 16 (R172). -/
  taps : List (Rat × Rat)
  sigma : Rat
  /-- Mean energy of the training symbols used (R175). -/
  energy : Rat
  rssi : BitVec 8
  snr : List (BitVec 8)
  /-- Mean of the eight SNR in dB (R183). -/
  snrMean : BitVec 8
  /-- Subcarriers whose likelihoods are 0 for the whole reply (R174). -/
  erased : List Bool
  /-- Likelihoods in the input buffer: of the codewords not yet decoded, in the order of the bits (R169, R174, R178). -/
  llr : List Int
  /-- Symbol windows ended after the sync symbol, and whether the reply ended early (R175). -/
  symbols : Nat
  early : Bool
  singleTrain : Bool
  /-- Codewords decoded: converged, iterations, flips, info bits (R176, R183). -/
  done : List (Bool × Nat × Nat × BitVec 832)
  deriving DecidableEq, Repr

/-- An exchange in progress on a slice (R43). -/
structure Exch where
  start : Nat
  limit : Nat
  cmd : Cmd
  seen : Option Latched
  verdict : Option Bool
  /-- The command's frame ends so many fc after the start, ticks on UHF: time zero of R101, from which the reply start counts. -/
  zero : Nat
  /-- The bits that the check unit was fed and the CRC field it compared with (R248). -/
  fed : List Bool
  /-- The step of 16 fc of the quiet interval in which the coefficients of a port last moved (R87). -/
  adapted : SMap Nat
  wide : Wide
  deriving DecidableEq, Repr

/-- The action on an identified tag that SNG is carrying out (R437, R146 to R149, R217), and a host request's
sequence of exchanges (R130, R218, R313): the commands still to send and what has come back. -/
structure Action where
  ident : BitVec 128
  identLen : Nat
  todo : List Cmd
  status : Status
  tagStatus : BitVec 8
  cls : Nat
  selected : Bool
  isRead : Bool
  data : List (BitVec 32)
  quality : List Word
  rn16 : BitVec 16
  rc : Word
  tc : Word
  key : BitVec 256
  /-- Frame counter of the session and the session key (R128), none outside SECURED. -/
  session : Option (Nat × BitVec 256)
  repeats : Nat
  replyBits : Nat
  /-- Outcome of the attempts that are to be repeated: the status and class of the last one (R182). -/
  tried : Option (Status × Nat)
  /-- ISO/IEC 14443-4 (R97): block number, repetitions of the block under way, what of the APDU is still to send, what has
  come back, and the card's FSC. -/
  bn : Bool
  sends : Nat
  apduOut : List Byte
  apduIn : List Byte
  fsc : Nat
  /-- Exchanges of the action that have ended. -/
  count : Nat
  /-- Identified by the SELECT of R135, not by an arbitration reply. -/
  pairSel : Bool
  untracked : Bool
  part : Bool
  deriving DecidableEq, Repr

/-- The singulation engine of a stake (R134 to R149): the tree walk's stack (top first), slotted rounds, the Gen2 Q
algorithm, the ISO/IEC procedures, and the polarity of R141. -/
structure Walk where
  /-- The command SNG has decided to send next, none when the stake starts no further exchange of its own. -/
  next : Option Cmd
  slotted : Bool
  /-- Reports of the rest of the walk carry the flag slotted (R138). -/
  slottedFlag : Bool
  /-- The entry in hand, and the entries pushed under it, top first (R134, R137). -/
  cur : Option (Word × Nat)
  stack : List (Word × Nat)
  q : Nat
  slot : Nat
  collided : Nat
  repeats : Nat
  pol : Bool
  identified : Bool
  emptyReported : Bool
  /-- UIDs still to be acted on after a flag at UID bit 63 (R135). -/
  pair : List Word
  /-- The exchange after a resumption whose class is discarded (R142). -/
  resumeBegin : Bool
  windows : Nat
  qfp : Int
  empties : Nat
  target : Bool
  level : Nat
  known : List Bool
  /-- UID bytes of the cascade levels selected (R146). -/
  uid : List Byte
  isoStack : List (Word × Nat × BitVec 16)
  rounds : Nat
  finished : Bool
  /-- A command of the walk has gone out (R57). -/
  started : Bool
  /-- The RN16 of the slot's reply, which ACK names (R144). -/
  rn16 : BitVec 16
  /-- Target and mask of the record that the walk was resumed from (R142). -/
  origin : Option (Bool × BitVec 16 × Nat × Word)
  deriving DecidableEq, Repr

/-- What a stake is doing. -/
inductive Phase where
  | dispatched | waiting | idle | front | active | tail
  deriving DecidableEq, Repr

/-- A host request queued or running (R59 to R61, R130, R218, R313). -/
structure Request where
  pitch : Nat
  port : Nat
  type : Nat
  words : List Word
  commitAt : Nat
  /-- Cycle boundaries passed since it was taken (R61). -/
  cycles : Nat
  deriving DecidableEq, Repr

/-- A stake of a plan: its index and its words (R34). -/
structure Stake where
  idx : Nat
  w0 : Word
  w1 : Word
  w2 : Word
  w3 : Word
  deriving DecidableEq, Repr

/-- A stake in its active ticks (R40): its fields and block as SCH handed them over, the registers and keys it runs
on (R25, R291), and its progress. -/
structure Run where
  stake : Stake
  /-- Template whose work it runs: the inner template of TRIGGER_INV (R63). -/
  inner : Nat
  /-- Site time of S, of the first tick after the active ticks (a FIELD_HOLD extension included, R40), and of the tail. -/
  start : Nat
  stop : Nat
  tailAt : Nat
  block : List Word
  cfg : SMap Word
  keys : SMap (BitVec 256)
  phase : Phase
  /-- The stake performs no radio action, and gives this status (R39, R69, R95, R200, R208, R331, R380). -/
  inert : Option Status
  /-- The field was on already at S (R46). -/
  onHold : Bool
  readyAt : Nat
  exch : Option Exch
  exchCount : Nat
  /-- Exchanges of the stakes that this one continues under FIELD_HOLD (R82). -/
  setBase : Nat
  lastStatus : Status
  walk : Walk
  action : Option Action
  request : Option Request
  absorbed : Nat
  /-- Tick in which a TRIGGER_INV stake started its work (R390). -/
  workAt : Option Nat
  missing : List Nat
  detuned : Bool
  sjcLow : Bool
  /-- The reply last seen on the port, for the reports of the stake (R316). -/
  lastSeen : Option Latched
  /-- Tick in which the last bit of that reply ended (R23, R316). -/
  lastBit : Nat
  /-- A neighbour drove while that reply arrived (R86). -/
  nb : Bool
  /-- Its first flagged UID bit, whether that flag is trusted, and the number of flagged bits (R108). -/
  flagged : Nat × Bool × Nat
  deriving DecidableEq, Repr

/-- A save record (R57): its key, the walk state, and the report FIFO of the block it came from. -/
structure SaveRecord where
  port : Nat
  pitch : Nat
  template : Nat
  walk : Walk
  /-- Target of the walk, and mask of BEGIN: address, length, bits (R142). -/
  target : Bool
  mask : BitVec 16 × Nat × Word
  heldField : Bool
  fifo : Nat
  deriving DecidableEq, Repr

/-! ### SEC -/

/-- A failure budget entry (R126), keyed by pitch and UID or EPC. -/
structure BudgetEntry where
  pitch : Nat
  ident : BitVec 128
  fails : Nat
  openedAt : Nat
  deriving DecidableEq, Repr

/-- SEC: the 64 key slots (R291, R365) and which of them hold 256 bits, the keys they held before the last load with their
lengths and the tick of that load (R292),
the budget table (R126), and the pending key data of SEC_KEY_DATA (index i) and of each pitch (index 4 + 4p + i). -/
structure Sec where
  keys : SMap (BitVec 256)
  long : SMap Bool
  prev : SMap (BitVec 256 × Bool × Nat)
  budget : List BudgetEntry
  keyData : SMap Word
  deriving DecidableEq, Repr

/-! ### WRD and CHK -/

/-- A WRD decoder (R176 to R178): the port whose codeword it decodes, and the codewords done of the reply. -/
structure Decoder where
  port : Option Nat
  cw : Nat
  deriving DecidableEq, Repr

/-- A host run of a check unit (R250): CHKn_RUN at the start, and the tick of the start. -/
structure HostRun where
  run : Word
  at_ : Nat
  /-- The words of the range as last seen, and as they stood before each change since the start, oldest first. -/
  words : List Word
  past : List (List Word)
  /-- How many stores of this tick came before the start. -/
  from_ : Nat
  /-- The tick of the last start written while it runs, and whether a claim has begun in this tick (R251). -/
  tried : Option Nat
  claimed : Bool
  deriving DecidableEq, Repr

/-! ### Awning and Lantern -/

/-- The PICC states of AWN_STATUSn.picc_state (R235). -/
inductive PiccState where
  | powerOff | idle | ready | active | protocol | halt
  deriving DecidableEq, Repr

/-- An Awning instance (R221 to R235). -/
structure Awning where
  /-- Port of the AWNING_LISTEN stake that listens for it, or whose session is held. -/
  port : Option Nat
  field : Bool
  picc : PiccState
  /-- A PICC session is open (R223). -/
  session : Bool
  /-- The PICC was in HALT before READY or ACTIVE (WUPA wakes it). -/
  halted : Bool
  /-- Cascade level resolved so far (R225). -/
  level : Nat
  randomUid : BitVec 32
  cid : Nat
  fsd : Nat
  appSelected : Bool
  /-- 0 none, 1 CC file, 2 NDEF file (R227). -/
  file : Nat
  /-- Field log: offset and data of each entry, in order (R230). -/
  log : List (Nat × List Byte)
  /-- Last answer of the PICC, which R(NAK) repeats (R225), and the block number. -/
  last : List Byte
  block : Bool
  /-- Rest of a chained answer still to send (R225). -/
  chain : List Byte
  /-- End of the seam hold (R223). -/
  holdUntil : Option Nat
  /-- End of a PIN lockout (R234). -/
  lockUntil : Option Nat
  /-- Event FIFO of the block of the stake that listened last (R221), 255 before the first one. -/
  fifo : Nat
  /-- First tick after the apply of a host commit, in which the PICC answers no frame (R226, R232). -/
  applyUntil : Nat
  deriving DecidableEq, Repr

/-- What a ping takes of the registers when it starts (R243): LNT_CFG, LNT_PORTn and LNT_BASEn of its entry, and the tick. -/
structure PingLatch where
  cfg : Word
  port : Word
  base : Word
  at_ : Nat
  deriving DecidableEq, Repr

/-- Lantern (R236 to R242): detected pings running (or undetected ones while NEAR) per entry, the pings a WATCH round
still has to make, the entry whose burst runs in WATCH, the always-on words (LNT_CFG, then LNT_PORTn, LNT_BASEn and
LNT_LASTn of the four entries, R240), the entries whose first ping sets the baseline, and the always-on tick of the next
round. -/
structure Lantern where
  runs : SMap Nat
  queue : List Nat
  /-- Entries to be pinged again, with the always-on tick of it (R239). -/
  confirm : List (Nat × Nat)
  burst : Option Nat
  aon : List Word
  rebase : List Nat
  roundAt : Nat
  /-- The pings under way, by entry. -/
  pings : SMap PingLatch
  deriving DecidableEq, Repr

/-! ### Hosts -/

/-- A completion of a host access: the data words, whether a word was uncorrectable (poisoned), and whether the access
was unsupported (R290, R295, R409). -/
structure Resp where
  data : List Word
  ue : Bool
  bad : Bool
  deriving DecidableEq, Repr

/-- A message that HIF handles itself: the port it came in on, the buffers that hold it as WRITING, and its words (R265, R304). -/
structure Inbound where
  src : Nat
  chain : List Nat
  words : List Word
  deriving DecidableEq, Repr

/-- An Ethernet endpoint (R301 to R305): the highest inbound count accepted, the next outbound count, packets sent and
not acknowledged of each FIFO, sends so far and the tick of the last send, and the last EPOCH answer. -/
structure Endpoint where
  inHigh : Nat
  outNext : Nat
  /-- (FIFO, packets of it sent and unacknowledged), and the number of sends of the window. -/
  flight : SMap Nat
  sends : Nat
  lastTx : Nat
  epochAt : Option Nat
  /-- Messages that HIF handles itself, not yet executed (R304, R315). -/
  inbox : List Inbound
  /-- Port of the last datagram sent. -/
  port : Nat
  deriving DecidableEq, Repr

/-- A source entry of R303. -/
structure Source where
  ip : BitVec 32
  fails : Nat
  openedAt : Nat
  blockedAt : Option Nat
  deriving DecidableEq, Repr

/-- The SPI target beside its registers (R306, R307). -/
structure Spi where
  nonce : Option Word
  lastFailed : Bool
  blockedAt : Option Nat
  intN : Bool
  deriving DecidableEq, Repr

/-- A HEALTH packet of a reset sequence (R344): port, status, reason, detail and data. -/
structure EarlyHealth where
  port : Nat
  status : Status
  reason : Nat
  detail : Nat
  data : List Word
  deriving DecidableEq, Repr

/-- HIF (R293 to R308). -/
structure Hif where
  /-- Producer and consumer index of each ring (R296). -/
  ringP : SMap Nat
  ringC : SMap Nat
  /-- Doorbells of dir 1 FIFOs whose fetch is under way, in order: FIFO and host address (R299). -/
  fetches : List (Nat × Word)
  eps : SMap Endpoint
  sources : List Source
  spi : Spi
  numVfs : Nat
  vfEnable : Bool
  pcieUp : Bool
  /-- The MSI-X tables of the functions, two words per vector, keyed 128 × function + 2 × vector + word: the address, and
  the data with the mask bit at bit 32; a word that nothing has written is masked and zero (R293, R298). -/
  msixTab : SMap Word
  /-- Pending vectors, keyed 64 × function + vector (R298). -/
  msixPend : SMap Bool
  /-- HEALTH packets of a reset sequence, oldest first: they wait for READY, the first packet of an epoch (R319). -/
  early : List EarlyHealth
  deriving DecidableEq, Repr

/-- PIT beside its registers: the read snapshots and write stages of R413 and R414 per master (tag, upper half), and
PIT_PT_PAGE and the stored part of PIT_KEY_CMD of each pitch (R285, R321). -/
structure Pit where
  snap : SMap (Nat × BitVec 32)
  stage : SMap (Nat × BitVec 32)
  ptPage : SMap (BitVec 2)
  keyCmd : SMap Word
  /-- Entries that the capability list of a pitch has had since step 7 (R407): 1 HF, 2 UHF, 4 AWNING, 8 HOST_ETH. -/
  caps : SMap Nat
  deriving DecidableEq, Repr

/-! ### HLT -/

/-- A checkpoint slot as Groundsheet holds it (R328): words 0 to 31, of which word 31 is the commit word. -/
structure Slot where
  words : List Word
  deriving DecidableEq, Repr

/-- A handover, return or cover under way (R327): the port, whether the spare is the incoming slice, its start, whether
it covers a failure (R331), and the tick at which its outgoing slice failed within it (R329). -/
structure Transfer where
  port : Nat
  toSpare : Bool
  start : Nat
  cover : Bool
  fellAt : Option Nat
  deriving DecidableEq, Repr

/-- A rotation under way (R325): the slice, whether its calibration is done, and the ticks the handover and the
calibration stake began. -/
structure Rotation where
  slice : Nat
  handed : Bool
  handedAt : Nat
  calibrated : Bool
  calAt : Option Nat
  deriving DecidableEq, Repr

/-- Rotation and cover of one kind (R324 to R334). -/
structure Rotor where
  dueAt : Nat
  lastStart : Nat
  due : Bool
  rot : Option Rotation
  xfer : Option Transfer
  waiting : List Nat
  spareFailed : Bool
  deriving DecidableEq, Repr

/-- A logbook record waiting to be written: type and payload words 2 to 6 (R345, R367), with tries so far. -/
structure LogRec where
  type : BitVec 8
  payload : List Word
  tries : Nat
  deriving DecidableEq, Repr

/-- HLT and the logbook (R323 to R346, R367 to R369). -/
structure Hlt where
  hf : Rotor
  uhf : Rotor
  /-- Generation of each port's last checkpoint; the slots themselves stand in Groundsheet (R328). -/
  gens : SMap (BitVec 32)
  /-- Records waiting, oldest first; records of types 0x42 and 0x43 deferred to their window's end (R345). -/
  logQueue : List LogRec
  deferred : List LogRec
  lastLog : SMap Nat
  avsLimitAt : Option Nat
  /-- Periods of site time of 10 s, of 10 ms and of 24 h whose measurement, step or record is done (R340, R341, R345). -/
  ageDone : Nat
  avsDone : Nat
  summaryDone : Nat
  /-- Sequence of the next logbook record, the next slot of the logbook, and the sector being erased (R368). -/
  logSeq : BitVec 32
  logSlot : Nat
  epochDue : Bool
  deriving DecidableEq, Repr

/-! ### Cabinet -/

/-- The last valid BEACON a Guyline node heard or sent (R377, R379). -/
structure LastBeacon where
  src : Nat
  /-- Site time at the end of the delimiter, and at the end of the frame. -/
  at_ : Nat
  endAt : Nat
  nextTicks : Nat
  number : BitVec 32
  grants : List Byte
  deriving DecidableEq, Repr

/-- The latest ACK of a node (R378): its lanes, its master_ok, the tick it was heard, and the BEACON periods since in which none
came. -/
structure AckInfo where
  lanes : Word
  masterOk : Bool
  heardAt : Nat
  missed : Nat
  deriving DecidableEq, Repr

/-- GUY beside its registers (R372 to R382). -/
structure Guy where
  last : Option LastBeacon
  enabledAt : Nat
  number : BitVec 32
  acks : SMap AckInfo
  /-- Tick of the ACK slot to answer (R376). -/
  ackAt : Option Nat
  /-- Tick from which the lanes granted by the last BEACON are held, and those lanes (R379). -/
  grantAt : Option (Nat × Word)
  /-- Tick from which a solo node holds the lanes of GUY_LANE_REQ (R381). -/
  soloAt : Option Nat
  /-- The node's next BEACON is its first as a new master: the timeout, a retry or a takeover makes it one (R377). -/
  newMaster : Bool
  /-- Next BEACON of this node: due tick (cycle start, retry or takeover, R376, R377). -/
  txAt : Option Nat
  retryAt : Option Nat
  deriving DecidableEq, Repr

/-- CXP beside its registers (R211 to R214): wire levels, the stakes in their lead interval, and whether the other
radio's request waits for the grant. -/
structure Cxp where
  req : Bool
  pri : Bool
  gnt : Bool
  lead : List Nat
  waiting : Bool
  /-- Stakes whose protect interval CX_PRI has overridden, while the interval lasts (R214). -/
  overridden : List Nat
  deriving DecidableEq, Repr

/-- CAB beside its registers (R383 to R392): the filtered inhibit channels (true indicates inhibit), the tick of the
inhibit's release while UHF slices return to STANDBY, the levels the outside drives on the GPIO balls, the holdoff
end of each trigger, and the end of the CYCLE_PULSE. -/
structure Cab where
  a : Bool
  b : Bool
  restoreAt : Option Nat
  /-- Levels that a ball was last seen to take from outside, none where it is left to its pull. -/
  ext : SMap Bool
  /-- Levels that balls with a function of the DN4810's own hold over a warm reset, up to step 7 (R356). -/
  held : SMap Bool
  holdoff : SMap Nat
  pulseUntil : Nat
  deriving DecidableEq, Repr

/-- A trace record in TRL's buffer (R393, R395), and whether the ring has taken it (R396). -/
structure TraceRec where
  w0 : Word
  w1 : Word
  rung : Bool
  deriving DecidableEq, Repr

/-- TRL beside its registers: the buffer, oldest first, and records dropped since the last LOST record (R395). -/
structure Trl where
  buf : List TraceRec
  lost : Nat
  deriving DecidableEq, Repr

/-- The instructions of the TAP (R398). -/
inductive TapInstr where
  | extest | idcode | samplePreload | extestPulse | extestTrain | highz | clamp | bypass
  deriving DecidableEq, Repr

/-- The TAP (R398 to R400): the current instruction, the register it selects (0 boundary, 1 IDCODE, 2 bypass), and the
396 cells of the boundary register. -/
structure Tap where
  ir : TapInstr
  boundary : BitVec 396
  deriving DecidableEq, Repr

/-- What the part has put out, newest first: what goes on the air, on a link or on a ball. -/
inductive Emission where
  /-- A command on a port, with amplitude and phase code of each port of its group (R81), none on HF without GROUP, and on UHF
  with the ball that transmits, 0 UHn_ANTA and 1 UHn_PADRV, and its level as a tx_pwr code (R190, R191); of a Krovrel command the cell in fc and the cells of its frame (R100, R101), of a Gen2 command and a host frame the bits with their CRC (R215, R313). -/
  | air (port : Nat) (c : Cmd) (drives : List (Nat × Nat)) (cell : Nat) (cells : List Cell)
  /-- An answer of the PICC of an instance, at a depth of load modulation (R225). -/
  | picc (inst depth : Nat) (bytes : List Byte)
  | msix (fn vec : Nat) (addr : Word) (data : BitVec 32)
  | pcieWrite (addr : Word) (words : List Word)
  | eth (x : Nat) (mac : BitVec 48) (ip : BitVec 32) (udp : BitVec 16) (words : List Word)
  | spi (bytes : List Byte)
  /-- A Guyline frame, preamble to CRC (R373). -/
  | guyFrame (bytes : List Byte)
  | trc (bytes : List Byte)
  /-- Bits on TDO, the first one first (R398, R399). -/
  | tdo (bits : List Bool)
  /-- What boundary scan drives on the balls with an output cell, in the order of R399, none high-impedance (R398). -/
  | scan (drives : List (Option Bool))
  deriving DecidableEq, Repr

/-- A key slot as it stood before the loads of a tick: the key, whether it has 256 bits, and the key before it with its length
and the tick of its own load (R291, R292). -/
structure OldKey where
  key : BitVec 256
  long : Bool
  prev : Option (BitVec 256 × Bool × Nat)
  deriving DecidableEq, Repr

/-- What R6, R25 and R433 need to know of the present tick: the registers that a host has written in it, with the word each
held before the first of those writes, and the bits that the DN4810 has set in it. -/
structure Tick where
  wrote : SMap Word
  raised : SMap Word
  /-- Key slots that a host has loaded in it, each as it stood before. -/
  keys : SMap OldKey
  /-- Ports whose reload of coefficients a host has asked for in it, each with whether one was due before (R25, R88). -/
  reloads : SMap Bool
  /-- A host's flash command has started in it: a logbook write of the same tick goes first (R368). -/
  flash : Bool
  /-- The Groundsheet words stored to in it, newest first: the index of the word, and the word as it stood before (R250). -/
  stores : List (Nat × Word)
  /-- The parameter writes that a unit has refused in it because its run was in progress: cfg_refused as it stood before the first,
  and the writes in order (R251). -/
  late : SMap (Bool × List (ChkReg × Word))
  /-- How many cycles in which hosts write or HIF pushes it has had (R310). -/
  cycle : Nat
  deriving DecidableEq, Repr

/-- The state of the DN4810. -/
structure State where
  /-- Commands that wait, first in, first out. -/
  pending : List Instr
  clock : Clock
  tick : Tick
  regs : SMap Word
  mem : SMap Byte
  /-- Bits in error of Groundsheet words, keyed by word index (R256). -/
  ecc : SMap Word
  bufs : SMap BufState
  fifos : SMap Fifo
  boot : Boot
  sch : Sch
  runs : List Run
  ports : SMap Port
  slices : SMap Slice
  records : List SaveRecord
  /-- Polarity of R141 per port and key (port, pitch, template) that is true. -/
  polarity : List (Nat × Nat × Nat)
  requests : List Request
  sec : Sec
  decoders : SMap Decoder
  hostRuns : SMap HostRun
  awning : SMap Awning
  lantern : Lantern
  hif : Hif
  pit : Pit
  hlt : Hlt
  /-- Flash bytes; an unlisted byte reads 0xFF, erased (R360, R368). -/
  flash : SMap Byte
  guy : Guy
  cxp : Cxp
  cab : Cab
  trl : Trl
  tap : Tap
  /-- Wheel entries assigned: key 1,024 × target + entry, value what Run.wheelTag gives the stake (R275). -/
  wheel : SMap Nat
  /-- Last read completion of each master. -/
  resp : SMap Resp
  /-- MODEL: what the part has put out, newest first (no state of the part). -/
  out : List Emission
  /-- MODEL: draws of free values so far (no state of the part). -/
  fresh : Nat
  deriving DecidableEq, Repr

/-! ### Default values: what an unlisted key reads as -/

/-- A slice that is unlisted: unpowered, never calibrated (R71, R188, R335). -/
def Slice.dflt : Slice :=
  { power := 0, vec := { from_ := (0, 0), goal := (0, 0), at_ := 0 }, droveAt := none
    ramp := { from_ := 0, goal := 0, at_ := 0, ticks := 0 }, st := .off, path := [], due := 0, corr := [], target := [], slewAt := none, terms := [], live := [],
    failed := false, failedAt := 0, sampled := 0, dwellAt := 0 }

/-- A port that is unlisted: served by its own slice and in service (HFA_STATE reset values). -/
def Port.dflt : Port :=
  { covered := false, out := false, paFault := false, retryUntil := none, deciding := false, badSamples := 0, badSince := 0,
    chanStart := 0, dwellStart := 0, timedOut := false, hopPos := [], hopPerm := [], hopLen := [],
    coefWritten := false, seedsWritten := [], reloadCoef := false, aerial := false, paStep := none, paSince := 0,
    faultLow := false, paPins := 0, sjcW := 0, sjcConverged := false, chan := 0, entry := (0, 0), sjcLate := none, hold := none }

/-- A tick in which nothing has happened yet. -/
def Tick.dflt : Tick := { wrote := [], raised := [], keys := [], reloads := [], flash := false, stores := [], late := [], cycle := 0 }

def HostRun.dflt : HostRun := { run := 0, at_ := 0, words := [], past := [], from_ := 0, tried := none, claimed := false }

def Fifo.dflt : Fifo := { packets := [], held := [] }

def Awning.dflt : Awning :=
  { port := none, field := false, picc := .powerOff, session := false, halted := false, level := 0, randomUid := 0,
    cid := 0, fsd := 16, appSelected := false, file := 0, log := [], last := [], block := false, chain := [],
    holdUntil := none, lockUntil := none, fifo := 255, applyUntil := 0 }

def Endpoint.dflt : Endpoint :=
  { inHigh := 0, outNext := 1, flight := [], sends := 0, lastTx := 0, epochAt := none, inbox := [], port := 0 }

def Rotor.dflt : Rotor :=
  { dueAt := 0, lastStart := 0, due := false, rot := none, xfer := none, waiting := [], spareFailed := false }

def Wide.dflt : Wide :=
  { syncDone := false, rho := 0, taps := [], sigma := 0, energy := 0, rssi := 0, snr := [], snrMean := 0, erased := [],
    llr := [], symbols := 0, early := false, singleTrain := false, done := [] }

def Walk.dflt : Walk :=
  { next := none, slotted := false, slottedFlag := false, cur := none, stack := [], q := 0, slot := 0, collided := 0,
    repeats := 0, pol := false, identified := false, emptyReported := false, pair := [], resumeBegin := false,
    windows := 0, qfp := 0, empties := 0, target := false, level := 1, known := [], uid := [], isoStack := [], rounds := 0,
    finished := false, started := false, rn16 := 0, origin := none }

def Sch.dflt : Sch :=
  { next := 0, check := none, startAt := none, swapAt := none, lastBoundary := 0, latches := [], railPorts := [], railStakes := [],
    capPorts := [], replan := false }

def Lantern.dflt : Lantern :=
  { runs := [], queue := [], confirm := [], burst := none, aon := [], rebase := [], roundAt := 0, pings := [] }

def Spi.dflt : Spi := { nonce := none, lastFailed := false, blockedAt := none, intN := true }

def Hif.dflt : Hif :=
  { ringP := [], ringC := [], fetches := [], eps := [], sources := [], spi := Spi.dflt, numVfs := 0,
    vfEnable := false, pcieUp := false, msixTab := [], msixPend := [], early := [] }

def Hlt.dflt : Hlt :=
  { hf := Rotor.dflt, uhf := Rotor.dflt, gens := [], logQueue := [], deferred := [], lastLog := [],
    avsLimitAt := none, ageDone := 0, avsDone := 0, summaryDone := 0, logSeq := 0, logSlot := 0, epochDue := false }

def Guy.dflt : Guy :=
  { last := none, enabledAt := 0, number := 0, acks := [], ackAt := none, grantAt := none, soloAt := none,
    newMaster := false, txAt := none, retryAt := none }

def Cxp.dflt : Cxp := { req := false, pri := false, gnt := false, lead := [], waiting := false, overridden := [] }

/-- The machine right after reset: VIN has just become valid, and the reset sequence of a POR stands at step 1
(R354, R357). Every register reads its reset value (R410), `regs` lists RST_CAUSE alone, Groundsheet lists nothing,
and the queue is empty. -/
def State.reset : State :=
  { pending := []
    clock := { site := 0, aon := 0, epoch := 0, aonEpoch := 0 }
    tick := Tick.dflt
    regs := [(0x030000, 1)]
    mem := []
    ecc := []
    bufs := []
    fifos := []
    boot := { power := .ready, seq := some { cold := true, step := 1, zeroed := false, held := [], cal := [], epoch := 0, sfdp := false, samples := true, at_ := 0, causes := [.por] },
              entering := none, applied := false, windowsOnly := false, staged := [], image := none, factory := [],
              floor := 0, rstoutN := false, scanHeld := false, flashCmd := none }
    sch := Sch.dflt
    runs := []
    ports := []
    slices := []
    records := []
    polarity := []
    requests := []
    sec := { keys := [], long := [], prev := [], budget := [], keyData := [] }
    decoders := []
    hostRuns := []
    awning := []
    lantern := Lantern.dflt
    hif := Hif.dflt
    pit := { snap := [], stage := [], ptPage := [], keyCmd := [], caps := [] }
    hlt := Hlt.dflt
    flash := []
    guy := Guy.dflt
    cxp := Cxp.dflt
    cab := { a := false, b := false, restoreAt := none, ext := [], held := [], holdoff := [], pulseUntil := 0 }
    trl := { buf := [], lost := 0 }
    tap := { ir := .idcode, boundary := 0 }
    wheel := []
    resp := []
    out := []
    fresh := 0 }

end Sys2Proof.Machine
end

