-- ==== Sys2Proof/Machine/Regs.lean ====
section
/-! DEFINITION. The register map of PF0 BAR0 as data: every register of the manual with its offset, its fields, the
access code of each field (R6) and its reset value (R410). A field whose reset is "image", "strap" or computed reads
zero here from step 1; the operations that load it are in the other files. Offsets and fields are those of the
register tables named at each row. -/

namespace Sys2Proof.Machine

/-- The access codes of R6. -/
inductive Acc where
  | rw | ro | w1c | wo | sc | rwl
  deriving DecidableEq, Repr

/-- A bit range [hi:lo]. -/
abbrev Fld := Nat × Nat

/-- A family of registers: `base + i · s1 + j · s2` for `i < n1` and `j < n2`, and its fields with access code and
reset value. Bits in no field are the "—" bits of R7. -/
structure RegDesc where
  base : Nat
  n1 : Nat
  s1 : Nat
  n2 : Nat
  s2 : Nat
  fields : List (Fld × Acc × Nat)
  deriving DecidableEq, Repr

/-- Offset of register i of a family of n; an index past the family gives the hole at the end of the block window
(R409: such an offset reads zero). -/
def famOff (base n stride i : Nat) : Nat := if i < n then base + i * stride else base / 65536 * 65536 + 65528

/-- Offset of register (i, j) of a family of n × m. -/
def famOff2 (base n s1 m s2 i j : Nat) : Nat :=
  if i < n ∧ j < m then base + i * s1 + j * s2 else base / 65536 * 65536 + 65528

/-! ### Register offsets in PF0 BAR0 -/

/-- PWR_CTRL (R371, 13). -/
def R.pwrCtrl : Nat := 0x010000
/-- PWR_STATUS (R371, 13). -/
def R.pwrStatus : Nat := 0x010008
/-- PWR_CEIL (R371, 13). -/
def R.pwrCeil : Nat := 0x010010
/-- PWR_HF_RAIL (R371, 13). -/
def R.pwrHfRail : Nat := 0x010018
/-- PWR_OVER_CNT (R371, 13). -/
def R.pwrOverCnt : Nat := 0x010020
/-- PWR_RTC (R371, 13). -/
def R.pwrRtc : Nat := 0x010028
/-- PWR_RTC_ALARM (R371, 13). -/
def R.pwrRtcAlarm : Nat := 0x010030
/-- CLK_SITE_TIME (R371, 13). -/
def R.clkSiteTime : Nat := 0x020000
/-- RST_CAUSE (R371, 13). -/
def R.rstCause : Nat := 0x030000
/-- RST_CTRL (R371, 13). -/
def R.rstCtrl : Nat := 0x030008
/-- RST_STRAPS (R371, 13). -/
def R.rstStraps : Nat := 0x030010
/-- CFG_STATUS (R371, 13). -/
def R.cfgStatus : Nat := 0x040000
/-- CFG_CTRL (R371, 13). -/
def R.cfgCtrl : Nat := 0x040008
/-- CFG_STAGE (R371, 13). -/
def R.cfgStage : Nat := 0x040010
/-- CFG_STAGE_PTR (R371, 13). -/
def R.cfgStagePtr : Nat := 0x040018
/-- CFG_FLASH_CMD (R371, 13). -/
def R.cfgFlashCmd : Nat := 0x040020
/-- CFG_FLASH_STATUS (R371, 13). -/
def R.cfgFlashStatus : Nat := 0x040028
/-- CFG_FLASH_DATAi (R371, 13). -/
def R.cfgFlashData (i : Nat) : Nat := famOff 0x040040 8 0x8 i
/-- SCH_CTRL (R70, 02). -/
def R.schCtrl : Nat := 0x050000
/-- SCH_STATUS (R70, 02). -/
def R.schStatus : Nat := 0x050008
/-- SCH_CHECK_RESULT (R70, 02). -/
def R.schCheckResult : Nat := 0x050010
/-- SCH_CYCLE_TICKS (R70, 02). -/
def R.schCycleTicks : Nat := 0x050018
/-- SCH_CYCLE_CNT (R70, 02). -/
def R.schCycleCnt : Nat := 0x050020
/-- SCH_CYCLE_START (R70, 02). -/
def R.schCycleStart : Nat := 0x050028
/-- SCH_PEAK_MW (R70, 02). -/
def R.schPeakMw : Nat := 0x050030
/-- SCH_BASE_MW (R70, 02). -/
def R.schBaseMw : Nat := 0x050038
/-- SCH_SEAM_MIN (R70, 02). -/
def R.schSeamMin : Nat := 0x050040
/-- SCH_WHEEL_LIMIT (R70, 02). -/
def R.schWheelLimit : Nat := 0x050048
/-- SCH_RESERVE_ALERT (R70, 02). -/
def R.schReserveAlert : Nat := 0x050050
/-- SCH_RESERVE_MIN (R70, 02). -/
def R.schReserveMin : Nat := 0x050058
/-- SCH_REQ_WAIT (R70, 02). -/
def R.schReqWait : Nat := 0x050060
/-- SCH_OVERRUN_CNT (R70, 02). -/
def R.schOverrunCnt : Nat := 0x050068
/-- SCH_PLAN_ID (R70, 02). -/
def R.schPlanId : Nat := 0x050070
/-- HFA_STATE (slice n) (R98, 03). -/
def R.hfaState (i : Nat) : Nat := famOff 0x080000 33 0x1000 i
/-- HFA_DRIVE_STATUS (slice n) (R98, 03). -/
def R.hfaDriveStatus (i : Nat) : Nat := famOff 0x080008 33 0x1000 i
/-- HFA_HEAD_STATUS (slice n) (R98, 03). -/
def R.hfaHeadStatus (i : Nat) : Nat := famOff 0x080010 33 0x1000 i
/-- HFA_RX_STATUS (slice n) (R98, 03). -/
def R.hfaRxStatus (i : Nat) : Nat := famOff 0x080018 33 0x1000 i
/-- HFA_SAMPLE_TIME (slice n) (R98, 03). -/
def R.hfaSampleTime (i : Nat) : Nat := famOff 0x080020 33 0x1000 i
/-- HFA_CANCEL_CFG (slice n) (R98, 03). -/
def R.hfaCancelCfg (i : Nat) : Nat := famOff 0x080028 33 0x1000 i
/-- HFA_CANCEL_COEFi (slice n) (R98, 03). -/
def R.hfaCancelCoef (i j : Nat) : Nat := famOff2 0x080030 33 0x1000 4 0x8 i j
/-- HFA_HEAD_CFG (R98, 03). -/
def R.hfaHeadCfg : Nat := 0x0A8000
/-- HFA_RAIL_LIMIT_CNT (R98, 03). -/
def R.hfaRailLimitCnt : Nat := 0x0A8008
/-- UHA_STATE (slice s) (R219, 07). -/
def R.uhaState (i : Nat) : Nat := famOff 0x0B0000 17 0x1000 i
/-- UHA_TX_STATUS (slice s) (R219, 07). -/
def R.uhaTxStatus (i : Nat) : Nat := famOff 0x0B0008 17 0x1000 i
/-- UHA_HEAD_STATUS (slice s) (R219, 07). -/
def R.uhaHeadStatus (i : Nat) : Nat := famOff 0x0B0010 17 0x1000 i
/-- UHA_RX_STATUS (slice s) (R219, 07). -/
def R.uhaRxStatus (i : Nat) : Nat := famOff 0x0B0018 17 0x1000 i
/-- UHA_SAMPLE_TIME (slice s) (R219, 07). -/
def R.uhaSampleTime (i : Nat) : Nat := famOff 0x0B0020 17 0x1000 i
/-- UHA_SJC_STATUS (slice s) (R219, 07). -/
def R.uhaSjcStatus (i : Nat) : Nat := famOff 0x0B0028 17 0x1000 i
/-- UHA_PA_CFG (slice s) (R219, 07). -/
def R.uhaPaCfg (i : Nat) : Nat := famOff 0x0B0030 17 0x1000 i
/-- UHA_PA_STATUS (slice s) (R219, 07). -/
def R.uhaPaStatus (i : Nat) : Nat := famOff 0x0B0038 17 0x1000 i
/-- UHA_HOP_STATE (slice s) (R219, 07). -/
def R.uhaHopState (i : Nat) : Nat := famOff 0x0B0040 17 0x1000 i
/-- UHA_SJC_SEEDb (slice s) (R219, 07). -/
def R.uhaSjcSeed (i j : Nat) : Nat := famOff2 0x0B0400 17 0x1000 64 0x8 i j
/-- UHA_TX_TIMEOUT (R219, 07). -/
def R.uhaTxTimeout : Nat := 0x0C8000
/-- UHA_HEAD_CFG (R219, 07). -/
def R.uhaHeadCfg : Nat := 0x0C8008
/-- UHA_TXTO_CNT (R219, 07). -/
def R.uhaTxtoCnt : Nat := 0x0C8010
/-- UHA_CHT_LEN (R219, 07). -/
def R.uhaChtLen : Nat := 0x0C8018
/-- UHA_CHTt_i (R219, 07). -/
def R.uhaCht (i j : Nat) : Nat := famOff2 0x0C9000 8 0x200 64 0x8 i j
/-- FRM_KRV_CFG (R133, 04). -/
def R.frmKrvCfg : Nat := 0x0D0400
/-- FRM_KRV_SKEW_CNT (R133, 04). -/
def R.frmKrvSkewCnt : Nat := 0x0D0408
/-- SNG_WALK_CFG (R159, 05). -/
def R.sngWalkCfg : Nat := 0x0E0000
/-- SNG_SLOT_CFG (R159, 05). -/
def R.sngSlotCfg : Nat := 0x0E0008
/-- SNG_FALLBACK_CNT (R159, 05). -/
def R.sngFallbackCnt : Nat := 0x0E0010
/-- SNG_RECORD_DROP_CNT (R159, 05). -/
def R.sngRecordDropCnt : Nat := 0x0E0018
/-- SNG_PT_REGIONp (R159, 05). -/
def R.sngPtRegion (i : Nat) : Nat := famOff 0x0E0100 9 0x20 i
/-- SNG_PT_CFGp (R159, 05). -/
def R.sngPtCfg (i : Nat) : Nat := famOff 0x0E0108 9 0x20 i
/-- SNG_PT_STATUSp (R159, 05). -/
def R.sngPtStatus (i : Nat) : Nat := famOff 0x0E0110 9 0x20 i
/-- WRD_CFG (R187, 06). -/
def R.wrdCfg : Nat := 0x0F0000
/-- WRD_STATUS (R187, 06). -/
def R.wrdStatus : Nat := 0x0F0008
/-- WRD_CW_CNT (R187, 06). -/
def R.wrdCwCnt : Nat := 0x0F0010
/-- WRD_CW_FAIL_CNT (R187, 06). -/
def R.wrdCwFailCnt : Nat := 0x0F0018
/-- WRD_SYNC_FAIL_CNT (R187, 06). -/
def R.wrdSyncFailCnt : Nat := 0x0F0020
/-- CHKn_CFG (R253, 09). -/
def R.chkCfg (i : Nat) : Nat := famOff 0x100000 48 0x40 i
/-- CHKn_POLY (R253, 09). -/
def R.chkPoly (i : Nat) : Nat := famOff 0x100008 48 0x40 i
/-- CHKn_INIT (R253, 09). -/
def R.chkInit (i : Nat) : Nat := famOff 0x100010 48 0x40 i
/-- CHKn_XOROUT (R253, 09). -/
def R.chkXorout (i : Nat) : Nat := famOff 0x100018 48 0x40 i
/-- CHKn_RUN (R253, 09). -/
def R.chkRun (i : Nat) : Nat := famOff 0x100020 48 0x40 i
/-- CHKn_RESULT (R253, 09). -/
def R.chkResult (i : Nat) : Nat := famOff 0x100028 48 0x40 i
/-- CHKn_STATUS (R253, 09). -/
def R.chkStatus (i : Nat) : Nat := famOff 0x100030 48 0x40 i
/-- CHK_FAIL_CNT (R253, 09). -/
def R.chkFailCnt : Nat := 0x101000
/-- GSH_ECC_STATUS (R279, 10). -/
def R.gshEccStatus : Nat := 0x110000
/-- GSH_ECC_CE_CNT (R279, 10). -/
def R.gshEccCeCnt : Nat := 0x110008
/-- GSH_ECC_UE_CNT (R279, 10). -/
def R.gshEccUeCnt : Nat := 0x110010
/-- GSH_SCRUB_CFG (R279, 10). -/
def R.gshScrubCfg : Nat := 0x110018
/-- GSH_ECC_INJECT (R279, 10). -/
def R.gshEccInject : Nat := 0x110020
/-- GSH_BUF_RANGEp (R279, 10). -/
def R.gshBufRange (i : Nat) : Nat := famOff 0x110100 9 0x20 i
/-- GSH_BUF_ALLOCp (R279, 10). -/
def R.gshBufAlloc (i : Nat) : Nat := famOff 0x110108 9 0x20 i
/-- GSH_BUF_FREEp (R279, 10). -/
def R.gshBufFree (i : Nat) : Nat := famOff 0x110110 9 0x20 i
/-- GSH_BUF_STATUSp (R279, 10). -/
def R.gshBufStatus (i : Nat) : Nat := famOff 0x110118 9 0x20 i
/-- GSH_FIFOn_CFG (R279, 10). -/
def R.gshFifoCfg (i : Nat) : Nat := famOff 0x111000 64 0x40 i
/-- GSH_FIFOn_STATUS (R279, 10). -/
def R.gshFifoStatus (i : Nat) : Nat := famOff 0x111008 64 0x40 i
/-- GSH_FIFOn_HEAD (R279, 10). -/
def R.gshFifoHead (i : Nat) : Nat := famOff 0x111010 64 0x40 i
/-- GSH_FIFOn_PUSH (R279, 10). -/
def R.gshFifoPush (i : Nat) : Nat := famOff 0x111018 64 0x40 i
/-- GSH_FIFOn_POP (R279, 10). -/
def R.gshFifoPop (i : Nat) : Nat := famOff 0x111020 64 0x40 i
/-- GSH_FIFOn_CTRL (R279, 10). -/
def R.gshFifoCtrl (i : Nat) : Nat := famOff 0x111028 64 0x40 i
/-- GSH_FIFOn_SEQ (R279, 10). -/
def R.gshFifoSeq (i : Nat) : Nat := famOff 0x111030 64 0x40 i
/-- RDP_WHEEL_USEt (R280, 10). -/
def R.rdpWheelUse (i : Nat) : Nat := famOff 0x120000 20 0x8 i
/-- RDP_RR_WAIT (R280, 10). -/
def R.rdpRrWait : Nat := 0x120100
/-- HIF_ETHx_MAC (R322, 11). -/
def R.hifEthMac (i : Nat) : Nat := famOff 0x130000 2 0x40 i
/-- HIF_ETHx_IP (R322, 11). -/
def R.hifEthIp (i : Nat) : Nat := famOff 0x130008 2 0x40 i
/-- HIF_ETHx_CFG (R322, 11). -/
def R.hifEthCfg (i : Nat) : Nat := famOff 0x130010 2 0x40 i
/-- HIF_ETHx_STATUS (R322, 11). -/
def R.hifEthStatus (i : Nat) : Nat := famOff 0x130018 2 0x40 i
/-- HIF_EPp_CFG (R322, 11). -/
def R.hifEpCfg (i : Nat) : Nat := famOff 0x130100 9 0x20 i
/-- HIF_EPp_PEER (R322, 11). -/
def R.hifEpPeer (i : Nat) : Nat := famOff 0x130108 9 0x20 i
/-- HIF_EPp_PEER_MAC (R322, 11). -/
def R.hifEpPeerMac (i : Nat) : Nat := famOff 0x130110 9 0x20 i
/-- HIF_EPp_STATUS (R322, 11). -/
def R.hifEpStatus (i : Nat) : Nat := famOff 0x130118 9 0x20 i
/-- HIF_ETH_AUTH (R322, 11). -/
def R.hifEthAuth : Nat := 0x130400
/-- HIF_SPI_CFG (R322, 11). -/
def R.hifSpiCfg : Nat := 0x130500
/-- HIF_SPI_INT_MASK (R322, 11). -/
def R.hifSpiIntMask : Nat := 0x130508
/-- HIF_SPI_STATUS (R322, 11). -/
def R.hifSpiStatus : Nat := 0x130510
/-- HIF_RINGn (R322, 11). -/
def R.hifRing (i : Nat) : Nat := famOff 0x131000 64 0x8 i
/-- PIT_CFGp (R321, 11). -/
def R.pitCfg (i : Nat) : Nat := famOff 0x140000 9 0x1000 i
/-- PIT_PORTSp (R321, 11). -/
def R.pitPorts (i : Nat) : Nat := famOff 0x140008 9 0x1000 i
/-- PIT_KEYSp (R321, 11). -/
def R.pitKeys (i : Nat) : Nat := famOff 0x140010 9 0x1000 i
/-- PIT_REGIONp (R321, 11). -/
def R.pitRegion (i : Nat) : Nat := famOff 0x140018 9 0x1000 i
/-- PIT_STATUSp (R321, 11). -/
def R.pitStatus (i : Nat) : Nat := famOff 0x140020 9 0x1000 i
/-- PIT_VIOL_IDX (R321, 11). -/
def R.pitViolIdx : Nat := 0x149000
/-- PIT_CONTEND (R321, 11). -/
def R.pitContend : Nat := 0x149008
/-- PIT_VIOL_RECi (word j) (R321, 11). -/
def R.pitViolRec (i j : Nat) : Nat := famOff2 0x149100 64 0x10 2 0x8 i j
/-- SEC_KEY_LOAD (R371, 13). -/
def R.secKeyLoad : Nat := 0x150000
/-- SEC_KEY_DATAi (R371, 13). -/
def R.secKeyData (i : Nat) : Nat := famOff 0x150008 4 0x8 i
/-- SEC_KRV_BUDGET (R133, 04). -/
def R.secKrvBudget : Nat := 0x150800
/-- SEC_KRV_BUDGET_STATUS (R133, 04). -/
def R.secKrvBudgetStatus : Nat := 0x150808
/-- AWN_CFG (R235, 08). -/
def R.awnCfg : Nat := 0x160000
/-- AWN_IMGn (R235, 08). -/
def R.awnImg (i : Nat) : Nat := famOff 0x160100 4 0x20 i
/-- AWN_CTRLn (R235, 08). -/
def R.awnCtrl (i : Nat) : Nat := famOff 0x160108 4 0x20 i
/-- AWN_STATUSn (R235, 08). -/
def R.awnStatus (i : Nat) : Nat := famOff 0x160110 4 0x20 i
/-- LNT_CFG (R243, 08). -/
def R.lntCfg : Nat := 0x170000
/-- LNT_STATUS (R243, 08). -/
def R.lntStatus : Nat := 0x170008
/-- LNT_PORTn (R243, 08). -/
def R.lntPort (i : Nat) : Nat := famOff 0x170100 4 0x20 i
/-- LNT_BASEn (R243, 08). -/
def R.lntBase (i : Nat) : Nat := famOff 0x170108 4 0x20 i
/-- LNT_LASTn (R243, 08). -/
def R.lntLast (i : Nat) : Nat := famOff 0x170110 4 0x20 i
/-- HLT_CFG (R346, 12). -/
def R.hltCfg : Nat := 0x180000
/-- HLT_CTRL (R346, 12). -/
def R.hltCtrl : Nat := 0x180008
/-- HLT_SPARE_HF, HLT_SPARE_UHF (R346, 12). -/
def R.hltSpare (i : Nat) : Nat := famOff 0x180010 2 0x8 i
/-- HLT_AVS (R346, 12). -/
def R.hltAvs : Nat := 0x180020
/-- HLT_DERATE_CFG (R346, 12). -/
def R.hltDerateCfg : Nat := 0x180028
/-- HLT_AGEm (R346, 12). -/
def R.hltAge (i : Nat) : Nat := famOff 0x180100 8 0x8 i
/-- HLT_SLICEn_STATUS (R346, 12). -/
def R.hltSliceStatus (i : Nat) : Nat := famOff 0x181000 81 0x20 i
/-- HLT_TERMSn_A (R346, 12). -/
def R.hltTermsA (i : Nat) : Nat := famOff 0x181008 81 0x20 i
/-- HLT_TERMSn_B (R346, 12). -/
def R.hltTermsB (i : Nat) : Nat := famOff 0x181010 81 0x20 i
/-- HLT_CALTIMEn (R346, 12). -/
def R.hltCalTime (i : Nat) : Nat := famOff 0x181018 81 0x20 i
/-- GUY_CFG (R401, 14). -/
def R.guyCfg : Nat := 0x190000
/-- GUY_STATUS (R401, 14). -/
def R.guyStatus : Nat := 0x190008
/-- GUY_SYNC (R401, 14). -/
def R.guySync : Nat := 0x190010
/-- GUY_LANE_REQ (R401, 14). -/
def R.guyLaneReq : Nat := 0x190018
/-- GUY_LANE_HELD (R401, 14). -/
def R.guyLaneHeld : Nat := 0x190020
/-- GUY_PORT_LANEi (R401, 14). -/
def R.guyPortLane (i : Nat) : Nat := famOff 0x190100 6 0x8 i
/-- CXP_CFG (R220, 07). -/
def R.cxpCfg : Nat := 0x1A0000
/-- CXP_STATUS (R220, 07). -/
def R.cxpStatus : Nat := 0x1A0008
/-- CXP_CLASSn (R220, 07). -/
def R.cxpClass (i : Nat) : Nat := famOff 0x1A0108 15 0x8 i
/-- CAB_RFOFF_CFG (R402, 14). -/
def R.cabRfoffCfg : Nat := 0x1B0000
/-- CAB_RFOFF_STATUS (R402, 14). -/
def R.cabRfoffStatus : Nat := 0x1B0008
/-- CAB_GPIO_IN (R402, 14). -/
def R.cabGpioIn : Nat := 0x1B0010
/-- CAB_GPIO_OUT (R402, 14). -/
def R.cabGpioOut : Nat := 0x1B0018
/-- CAB_GPIO_SET (R402, 14). -/
def R.cabGpioSet : Nat := 0x1B0020
/-- CAB_GPIO_CLR (R402, 14). -/
def R.cabGpioClr : Nat := 0x1B0028
/-- CAB_TRIG_LATCH (R402, 14). -/
def R.cabTrigLatch : Nat := 0x1B0030
/-- CAB_GPIOn_CFG (R402, 14). -/
def R.cabGpioCfg (i : Nat) : Nat := famOff 0x1B0100 64 0x8 i
/-- CAB_TRIGt (R402, 14). -/
def R.cabTrig (i : Nat) : Nat := famOff 0x1B0400 16 0x8 i
/-- TRL_CFG (R403, 14). -/
def R.trlCfg : Nat := 0x1C0000
/-- TRL_WPTR (R403, 14). -/
def R.trlWptr : Nat := 0x1C0008
/-- TRL_LOST (R403, 14). -/
def R.trlLost : Nat := 0x1C0010

/-! ### Fields -/

def F.pwrCtrl.enter : Fld := (8, 8)
def F.pwrCtrl.target : Fld := (1, 0)
def F.pwrStatus.inputMw : Fld := (63, 32)
def F.pwrStatus.over : Fld := (3, 3)
def F.pwrStatus.state : Fld := (2, 0)
def F.pwrCeil.ceilMw : Fld := (15, 0)
def F.pwrHfRail.haDv : Fld := (15, 8)
def F.pwrHfRail.hbDv : Fld := (7, 0)
def F.pwrOverCnt.count : Fld := (31, 0)
def F.pwrRtc.seconds : Fld := (31, 0)
def F.pwrRtcAlarm.alarm : Fld := (31, 0)
def F.clkSiteTime.time : Fld := (63, 0)
def F.rstCause.cause : Fld := (7, 0)
def F.rstCtrl.key : Fld := (63, 48)
def F.rstCtrl.swReset : Fld := (16, 16)
def F.rstCtrl.blockRefused : Fld := (8, 8)
def F.rstCtrl.block : Fld := (7, 0)
def F.rstStraps.clksel : Fld := (3, 2)
def F.rstStraps.bootsel : Fld := (1, 0)
def F.cfgStatus.serial : Fld := (63, 32)
def F.cfgStatus.logFail : Fld := (10, 10)
def F.cfgStatus.noLog : Fld := (9, 9)
def F.cfgStatus.locked : Fld := (8, 8)
def F.cfgStatus.source : Fld := (7, 6)
def F.cfgStatus.result : Fld := (3, 0)
def F.cfgCtrl.restage : Fld := (1, 1)
def F.cfgCtrl.load : Fld := (0, 0)
def F.cfgStage.word : Fld := (63, 0)
def F.cfgStagePtr.words : Fld := (19, 0)
def F.cfgFlashCmd.go : Fld := (63, 63)
def F.cfgFlashCmd.op : Fld := (57, 56)
def F.cfgFlashCmd.addr : Fld := (31, 0)
def F.cfgFlashStatus.regionRefused : Fld := (4, 4)
def F.cfgFlashStatus.cmdRefused : Fld := (3, 3)
def F.cfgFlashStatus.verifyFail : Fld := (2, 2)
def F.cfgFlashStatus.notBlank : Fld := (1, 1)
def F.cfgFlashStatus.busy : Fld := (0, 0)
def F.cfgFlashData.data : Fld := (63, 0)
def F.schCtrl.cancel : Fld := (2, 2)
def F.schCtrl.swap : Fld := (1, 1)
def F.schCtrl.run : Fld := (0, 0)
def F.schStatus.ceilRefused : Fld := (7, 7)
def F.schStatus.bankWrite : Fld := (6, 6)
def F.schStatus.replan : Fld := (5, 5)
def F.schStatus.activeBank : Fld := (4, 4)
def F.schStatus.swapPending : Fld := (3, 3)
def F.schStatus.checking : Fld := (2, 2)
def F.schStatus.running : Fld := (1, 1)
def F.schStatus.loaded : Fld := (0, 0)
def F.schCheckResult.offset : Fld := (63, 32)
def F.schCheckResult.stake : Fld := (20, 8)
def F.schCheckResult.code : Fld := (7, 0)
def F.schCycleTicks.ticks : Fld := (31, 0)
def F.schCycleCnt.count : Fld := (63, 0)
def F.schCycleStart.start : Fld := (63, 0)
def F.schPeakMw.offset : Fld := (47, 16)
def F.schPeakMw.peak : Fld := (15, 0)
def F.schBaseMw.base : Fld := (15, 0)
def F.schSeamMin.seam : Fld := (23, 0)
def F.schWheelLimit.limit : Fld := (10, 0)
def F.schReserveAlert.alert : Fld := (7, 0)
def F.schReserveMin.stake : Fld := (28, 16)
def F.schReserveMin.reserve : Fld := (15, 0)
def F.schReqWait.cycles : Fld := (3, 0)
def F.schOverrunCnt.count : Fld := (31, 0)
def F.schPlanId.pending : Fld := (63, 32)
def F.schPlanId.active : Fld := (31, 0)
def F.hfaState.template : Fld := (23, 16)
def F.hfaState.slice : Fld := (15, 8)
def F.hfaState.covered : Fld := (5, 5)
def F.hfaState.inService : Fld := (4, 4)
def F.hfaState.state : Fld := (3, 0)
def F.hfaDriveStatus.railLimit : Fld := (40, 40)
def F.hfaDriveStatus.zPhase : Fld := (39, 32)
def F.hfaDriveStatus.zMag : Fld := (31, 16)
def F.hfaDriveStatus.powerMw : Fld := (15, 0)
def F.hfaHeadStatus.retryLeftMs : Fld := (55, 40)
def F.hfaHeadStatus.zPhase : Fld := (39, 32)
def F.hfaHeadStatus.zMag : Fld := (31, 16)
def F.hfaHeadStatus.changed : Fld := (4, 4)
def F.hfaHeadStatus.cls : Fld := (2, 0)
def F.hfaRxStatus.gain : Fld := (10, 8)
def F.hfaRxStatus.rssi : Fld := (7, 0)
def F.hfaSampleTime.time : Fld := (63, 0)
def F.hfaCancelCfg.reload : Fld := (6, 6)
def F.hfaCancelCfg.muShift : Fld := (5, 2)
def F.hfaCancelCfg.adapt : Fld := (1, 1)
def F.hfaCancelCfg.enable : Fld := (0, 0)
def F.hfaCancelCoef.neighbour : Fld := (39, 32)
def F.hfaCancelCoef.im : Fld := (27, 16)
def F.hfaCancelCoef.re : Fld := (11, 0)
def F.hfaHeadCfg.retryMs : Fld := (13, 0)
def F.hfaRailLimitCnt.count : Fld := (31, 0)
def F.uhaState.template : Fld := (23, 16)
def F.uhaState.slice : Fld := (15, 8)
def F.uhaState.covered : Fld := (5, 5)
def F.uhaState.inService : Fld := (4, 4)
def F.uhaState.state : Fld := (3, 0)
def F.uhaTxStatus.dwellMs : Fld := (47, 32)
def F.uhaTxStatus.tx : Fld := (23, 16)
def F.uhaTxStatus.ch : Fld := (12, 0)
def F.uhaHeadStatus.retryLeftMs : Fld := (55, 40)
def F.uhaHeadStatus.zPhase : Fld := (39, 32)
def F.uhaHeadStatus.zMag : Fld := (31, 16)
def F.uhaHeadStatus.changed : Fld := (4, 4)
def F.uhaHeadStatus.cls : Fld := (2, 0)
def F.uhaRxStatus.metricB : Fld := (31, 24)
def F.uhaRxStatus.metricA : Fld := (23, 16)
def F.uhaRxStatus.aerial : Fld := (8, 8)
def F.uhaRxStatus.rssi : Fld := (7, 0)
def F.uhaSampleTime.time : Fld := (63, 0)
def F.uhaSjcStatus.sjcLow : Fld := (9, 9)
def F.uhaSjcStatus.converged : Fld := (8, 8)
def F.uhaSjcStatus.rejDb : Fld := (7, 0)
def F.uhaPaCfg.gainQdb : Fld := (39, 32)
def F.uhaPaCfg.active : Fld := (26, 24)
def F.uhaPaCfg.safe : Fld := (22, 20)
def F.uhaPaCfg.d3Us : Fld := (19, 15)
def F.uhaPaCfg.d2Us : Fld := (14, 10)
def F.uhaPaCfg.d1Us : Fld := (9, 5)
def F.uhaPaCfg.ext : Fld := (0, 0)
def F.uhaPaStatus.faultPin : Fld := (2, 2)
def F.uhaPaStatus.cfgRefused : Fld := (1, 1)
def F.uhaPaStatus.fault : Fld := (0, 0)
def F.uhaHopState.pos7 : Fld := (47, 42)
def F.uhaHopState.pos6 : Fld := (41, 36)
def F.uhaHopState.pos5 : Fld := (35, 30)
def F.uhaHopState.pos4 : Fld := (29, 24)
def F.uhaHopState.pos3 : Fld := (23, 18)
def F.uhaHopState.pos2 : Fld := (17, 12)
def F.uhaHopState.pos1 : Fld := (11, 6)
def F.uhaHopState.pos0 : Fld := (5, 0)
def F.uhaSjcSeed.valid : Fld := (32, 32)
def F.uhaSjcSeed.im : Fld := (27, 16)
def F.uhaSjcSeed.re : Fld := (11, 0)
def F.uhaTxTimeout.limitMs : Fld := (11, 0)
def F.uhaHeadCfg.retryMs : Fld := (13, 0)
def F.uhaTxtoCnt.count : Fld := (31, 0)
def F.uhaChtLen.len7 : Fld := (62, 56)
def F.uhaChtLen.len6 : Fld := (54, 48)
def F.uhaChtLen.len5 : Fld := (46, 40)
def F.uhaChtLen.len4 : Fld := (38, 32)
def F.uhaChtLen.len3 : Fld := (30, 24)
def F.uhaChtLen.len2 : Fld := (22, 16)
def F.uhaChtLen.len1 : Fld := (14, 8)
def F.uhaChtLen.len0 : Fld := (6, 0)
def F.uhaCht.cap : Fld := (23, 16)
def F.uhaCht.ch : Fld := (12, 0)
def F.frmKrvCfg.secureRepeat : Fld := (4, 4)
def F.frmKrvCfg.trustMarginDb : Fld := (3, 0)
def F.frmKrvSkewCnt.count : Fld := (31, 0)
def F.sngWalkCfg.maxWindows : Fld := (19, 12)
def F.sngWalkCfg.garbleRetry : Fld := (11, 8)
def F.sngWalkCfg.alternate : Fld := (1, 1)
def F.sngWalkCfg.confirm : Fld := (0, 0)
def F.sngSlotCfg.schoute : Fld := (31, 16)
def F.sngSlotCfg.qMax : Fld := (11, 8)
def F.sngSlotCfg.qMin : Fld := (3, 0)
def F.sngFallbackCnt.count : Fld := (31, 0)
def F.sngRecordDropCnt.count : Fld := (31, 0)
def F.sngPtRegion.size : Fld := (50, 32)
def F.sngPtRegion.first : Fld := (17, 0)
def F.sngPtCfg.eventFifo : Fld := (61, 56)
def F.sngPtCfg.arriveN : Fld := (55, 52)
def F.sngPtCfg.departMs : Fld := (31, 0)
def F.sngPtStatus.untracked : Fld := (63, 32)
def F.sngPtStatus.full : Fld := (31, 31)
def F.sngPtStatus.badRegion : Fld := (30, 30)
def F.sngPtStatus.inUse : Fld := (18, 0)
def F.wrdCfg.norm : Fld := (19, 16)
def F.wrdCfg.eraseSnr : Fld := (15, 8)
def F.wrdCfg.syncMin : Fld := (7, 0)
def F.wrdStatus.dec1Busy : Fld := (31, 31)
def F.wrdStatus.dec1Cw : Fld := (28, 24)
def F.wrdStatus.dec1Port : Fld := (21, 16)
def F.wrdStatus.dec0Busy : Fld := (15, 15)
def F.wrdStatus.dec0Cw : Fld := (12, 8)
def F.wrdStatus.dec0Port : Fld := (5, 0)
def F.wrdCwCnt.count : Fld := (31, 0)
def F.wrdCwFailCnt.count : Fld := (31, 0)
def F.wrdSyncFailCnt.count : Fld := (31, 0)
def F.chkCfg.refout : Fld := (9, 9)
def F.chkCfg.refin : Fld := (8, 8)
def F.chkCfg.width : Fld := (6, 0)
def F.chkPoly.value : Fld := (63, 0)
def F.chkInit.value : Fld := (63, 0)
def F.chkXorout.value : Fld := (63, 0)
def F.chkRun.start : Fld := (63, 63)
def F.chkRun.length : Fld := (55, 32)
def F.chkRun.addr : Fld := (24, 0)
def F.chkResult.value : Fld := (63, 0)
def F.chkStatus.results : Fld := (63, 32)
def F.chkStatus.port : Fld := (23, 16)
def F.chkStatus.claimed : Fld := (6, 6)
def F.chkStatus.runAborted : Fld := (5, 5)
def F.chkStatus.cfgRefused : Fld := (4, 4)
def F.chkStatus.runRefused : Fld := (3, 3)
def F.chkStatus.pass : Fld := (2, 2)
def F.chkStatus.empty : Fld := (1, 1)
def F.chkStatus.busy : Fld := (0, 0)
def F.chkFailCnt.count : Fld := (31, 0)
def F.gshEccStatus.addr : Fld := (56, 32)
def F.gshEccStatus.bank : Fld := (11, 8)
def F.gshEccStatus.planUe : Fld := (2, 2)
def F.gshEccStatus.ue : Fld := (1, 1)
def F.gshEccStatus.ce : Fld := (0, 0)
def F.gshEccCeCnt.count : Fld := (31, 0)
def F.gshEccUeCnt.count : Fld := (31, 0)
def F.gshScrubCfg.enable : Fld := (16, 16)
def F.gshScrubCfg.periodS : Fld := (15, 0)
def F.gshEccInject.arm : Fld := (63, 63)
def F.gshEccInject.addr : Fld := (56, 32)
def F.gshEccInject.kind : Fld := (1, 0)
def F.gshBufRange.count : Fld := (48, 32)
def F.gshBufRange.first : Fld := (15, 0)
def F.gshBufAlloc.valid : Fld := (63, 63)
def F.gshBufAlloc.buffer : Fld := (15, 0)
def F.gshBufFree.buffer : Fld := (15, 0)
def F.gshBufStatus.free : Fld := (48, 32)
def F.gshBufStatus.doubleFree : Fld := (31, 16)
def F.gshBufStatus.badRange : Fld := (2, 2)
def F.gshBufStatus.queuedFree : Fld := (1, 1)
def F.gshBufStatus.allocEmpty : Fld := (0, 0)
def F.gshFifoCfg.enable : Fld := (63, 63)
def F.gshFifoCfg.pitch : Fld := (59, 56)
def F.gshFifoCfg.dir : Fld := (52, 52)
def F.gshFifoCfg.hif : Fld := (51, 51)
def F.gshFifoCfg.depth : Fld := (45, 32)
def F.gshFifoStatus.dropped : Fld := (63, 32)
def F.gshFifoStatus.full : Fld := (31, 31)
def F.gshFifoStatus.overrun : Fld := (30, 30)
def F.gshFifoStatus.pushRefused : Fld := (29, 29)
def F.gshFifoStatus.popRefused : Fld := (28, 28)
def F.gshFifoStatus.held : Fld := (27, 27)
def F.gshFifoStatus.ueDrop : Fld := (26, 26)
def F.gshFifoStatus.depth : Fld := (13, 0)
def F.gshFifoHead.valid : Fld := (63, 63)
def F.gshFifoHead.length : Fld := (44, 32)
def F.gshFifoHead.first : Fld := (15, 0)
def F.gshFifoPush.length : Fld := (44, 32)
def F.gshFifoPush.first : Fld := (15, 0)
def F.gshFifoPop.free : Fld := (63, 63)
def F.gshFifoPop.first : Fld := (15, 0)
def F.gshFifoCtrl.flush : Fld := (0, 0)
def F.gshFifoSeq.seq : Fld := (31, 0)
def F.rdpWheelUse.peak : Fld := (26, 16)
def F.rdpWheelUse.assigned : Fld := (10, 0)
def F.rdpRrWait.clear : Fld := (63, 63)
def F.rdpRrWait.target : Fld := (20, 16)
def F.rdpRrWait.maxCycles : Fld := (15, 0)
def F.hifEthMac.mac : Fld := (47, 0)
def F.hifEthIp.udp : Fld := (47, 32)
def F.hifEthIp.ip : Fld := (31, 0)
def F.hifEthCfg.enable : Fld := (16, 16)
def F.hifEthCfg.mtu : Fld := (13, 0)
def F.hifEthStatus.dropped : Fld := (63, 32)
def F.hifEthStatus.speed : Fld := (2, 0)
def F.hifEpCfg.enable : Fld := (63, 63)
def F.hifEpCfg.ports : Fld := (57, 56)
def F.hifEpCfg.keySlot : Fld := (53, 48)
def F.hifEpCfg.reqFifo : Fld := (45, 40)
def F.hifEpCfg.retxMs : Fld := (23, 16)
def F.hifEpCfg.window : Fld := (7, 0)
def F.hifEpPeer.udp : Fld := (47, 32)
def F.hifEpPeer.ip : Fld := (31, 0)
def F.hifEpPeerMac.mac : Fld := (47, 0)
def F.hifEpStatus.lost : Fld := (63, 32)
def F.hifEpStatus.waiting : Fld := (31, 16)
def F.hifEpStatus.peerLost : Fld := (0, 0)
def F.hifEthAuth.fail : Fld := (63, 32)
def F.hifEthAuth.blocked : Fld := (6, 0)
def F.hifSpiCfg.keySlot : Fld := (13, 8)
def F.hifSpiCfg.auth : Fld := (0, 0)
def F.hifSpiIntMask.mask : Fld := (63, 0)
def F.hifSpiStatus.failed : Fld := (15, 8)
def F.hifSpiStatus.blocked : Fld := (1, 1)
def F.hifSpiStatus.locked : Fld := (0, 0)
def F.hifRing.base : Fld := (63, 12)
def F.hifRing.irq : Fld := (11, 11)
def F.hifRing.vector : Fld := (10, 5)
def F.hifRing.size : Fld := (4, 1)
def F.hifRing.ring : Fld := (0, 0)
def F.pitCfg.enable : Fld := (63, 63)
def F.pitCfg.doneFifo : Fld := (61, 56)
def F.pitCfg.eth : Fld := (49, 49)
def F.pitCfg.pcie : Fld := (48, 48)
def F.pitPorts.ports : Fld := (47, 0)
def F.pitKeys.keys : Fld := (63, 0)
def F.pitRegion.size : Fld := (39, 32)
def F.pitRegion.base : Fld := (7, 0)
def F.pitStatus.violations : Fld := (63, 32)
def F.pitStatus.portsLost : Fld := (3, 3)
def F.pitStatus.keysLost : Fld := (2, 2)
def F.pitStatus.badRegion : Fld := (1, 1)
def F.pitStatus.vfEnabled : Fld := (0, 0)
def F.pitViolIdx.index : Fld := (31, 0)
def F.pitContend.count : Fld := (63, 32)
def F.pitContend.master : Fld := (3, 0)
def F.pitViolRec.word : Fld := (63, 0)
def F.secKeyLoad.go : Fld := (63, 63)
def F.secKeyLoad.len256 : Fld := (8, 8)
def F.secKeyLoad.slot : Fld := (5, 0)
def F.secKeyData.data : Fld := (63, 0)
def F.secKrvBudget.windowS : Fld := (31, 16)
def F.secKrvBudget.attempts : Fld := (3, 0)
def F.secKrvBudgetStatus.refused : Fld := (63, 32)
def F.secKrvBudgetStatus.full : Fld := (13, 13)
def F.secKrvBudgetStatus.inUse : Fld := (12, 0)
def F.awnCfg.seamHoldMs : Fld := (55, 48)
def F.awnCfg.detectDb : Fld := (39, 32)
def F.awnCfg.pinLockS : Fld := (31, 16)
def F.awnCfg.pinTries : Fld := (3, 0)
def F.awnImg.enable : Fld := (63, 63)
def F.awnImg.pitch : Fld := (59, 56)
def F.awnImg.pinSlot : Fld := (53, 48)
def F.awnImg.base32k : Fld := (9, 0)
def F.awnCtrl.expectGen : Fld := (63, 32)
def F.awnCtrl.force : Fld := (1, 1)
def F.awnCtrl.commit : Fld := (0, 0)
def F.awnStatus.gen : Fld := (63, 32)
def F.awnStatus.lockLeftS : Fld := (31, 16)
def F.awnStatus.triesLeft : Fld := (15, 12)
def F.awnStatus.piccState : Fld := (11, 9)
def F.awnStatus.field_ : Fld := (8, 8)
def F.awnStatus.logFull : Fld := (7, 7)
def F.awnStatus.hostWriteDropped : Fld := (6, 6)
def F.awnStatus.conflict : Fld := (5, 5)
def F.awnStatus.commitPending : Fld := (4, 4)
def F.awnStatus.badRegion : Fld := (3, 3)
def F.awnStatus.verified : Fld := (2, 2)
def F.awnStatus.imageBad : Fld := (1, 1)
def F.lntCfg.rebase : Fld := (17, 17)
def F.lntCfg.confirm : Fld := (16, 16)
def F.lntCfg.intervalMs : Fld := (15, 0)
def F.lntStatus.pings : Fld := (63, 32)
def F.lntStatus.wakeEntries : Fld := (11, 8)
def F.lntStatus.wakeCard : Fld := (0, 0)
def F.lntPort.watch : Fld := (63, 63)
def F.lntPort.port : Fld := (47, 40)
def F.lntPort.pingUs : Fld := (37, 32)
def F.lntPort.thrAmp : Fld := (27, 16)
def F.lntPort.thrPhase : Fld := (15, 8)
def F.lntPort.trackShift : Fld := (3, 0)
def F.lntBase.valid : Fld := (63, 63)
def F.lntBase.amp : Fld := (43, 32)
def F.lntBase.phase : Fld := (7, 0)
def F.lntLast.valid : Fld := (63, 63)
def F.lntLast.near : Fld := (62, 62)
def F.lntLast.amp : Fld := (43, 32)
def F.lntLast.phase : Fld := (7, 0)
def F.hltCfg.rotPeriodS : Fld := (63, 48)
def F.hltCfg.disagreeMax : Fld := (47, 44)
def F.hltCfg.stepMode : Fld := (43, 43)
def F.hltCfg.rotUhf : Fld := (42, 42)
def F.hltCfg.rotHf : Fld := (41, 41)
def F.hltCtrl.rotate : Fld := (63, 63)
def F.hltCtrl.id : Fld := (7, 0)
def F.hltSpare.port : Fld := (63, 56)
def F.hltSpare.reason : Fld := (49, 48)
def F.hltSpare.waiting : Fld := (15, 8)
def F.hltSpare.next : Fld := (7, 0)
def F.hltAvs.atLimit : Fld := (56, 56)
def F.hltAvs.hi : Fld := (55, 48)
def F.hltAvs.lo : Fld := (47, 40)
def F.hltAvs.muPpm : Fld := (39, 16)
def F.hltAvs.codeMax : Fld := (15, 8)
def F.hltAvs.code : Fld := (7, 0)
def F.hltDerateCfg.enable : Fld := (8, 8)
def F.hltDerateCfg.headroomDb : Fld := (7, 0)
def F.hltAge.valid : Fld := (63, 63)
def F.hltAge.degrPpm : Fld := (23, 0)
def F.hltSliceStatus.cals : Fld := (63, 32)
def F.hltSliceStatus.headroom : Fld := (31, 16)
def F.hltSliceStatus.disagree : Fld := (15, 12)
def F.hltSliceStatus.cause : Fld := (11, 8)
def F.hltSliceStatus.derate : Fld := (7, 6)
def F.hltSliceStatus.slewing : Fld := (5, 5)
def F.hltSliceStatus.state : Fld := (2, 0)
def F.hltTermsA.terms : Fld := (63, 0)
def F.hltTermsB.terms : Fld := (63, 0)
def F.hltCalTime.time : Fld := (63, 0)
def F.guyCfg.nodeId : Fld := (12, 8)
def F.guyCfg.term : Fld := (3, 3)
def F.guyCfg.solo : Fld := (2, 2)
def F.guyCfg.masterOk : Fld := (1, 1)
def F.guyCfg.enable : Fld := (0, 0)
def F.guyStatus.roll : Fld := (63, 32)
def F.guyStatus.crcErr : Fld := (31, 16)
def F.guyStatus.collisions : Fld := (15, 10)
def F.guyStatus.isMaster : Fld := (9, 9)
def F.guyStatus.idClash : Fld := (8, 8)
def F.guyStatus.soloActive : Fld := (7, 7)
def F.guyStatus.beaconOk : Fld := (6, 6)
def F.guyStatus.master : Fld := (4, 0)
def F.guySync.diff : Fld := (63, 0)
def F.guyLaneReq.lanes : Fld := (63, 0)
def F.guyLaneHeld.lanes : Fld := (63, 0)
def F.guyPortLane.bound7 : Fld := (63, 63)
def F.guyPortLane.lane7 : Fld := (61, 56)
def F.guyPortLane.bound6 : Fld := (55, 55)
def F.guyPortLane.lane6 : Fld := (53, 48)
def F.guyPortLane.bound5 : Fld := (47, 47)
def F.guyPortLane.lane5 : Fld := (45, 40)
def F.guyPortLane.bound4 : Fld := (39, 39)
def F.guyPortLane.lane4 : Fld := (37, 32)
def F.guyPortLane.bound3 : Fld := (31, 31)
def F.guyPortLane.lane3 : Fld := (29, 24)
def F.guyPortLane.bound2 : Fld := (23, 23)
def F.guyPortLane.lane2 : Fld := (21, 16)
def F.guyPortLane.bound1 : Fld := (15, 15)
def F.guyPortLane.lane1 : Fld := (13, 8)
def F.guyPortLane.bound0 : Fld := (7, 7)
def F.guyPortLane.lane0 : Fld := (5, 0)
def F.cxpCfg.finishUs : Fld := (17, 2)
def F.cxpCfg.mode : Fld := (1, 0)
def F.cxpStatus.wires : Fld := (34, 32)
def F.cxpStatus.overridden : Fld := (31, 16)
def F.cxpStatus.denied : Fld := (15, 0)
def F.cxpClass.yield : Fld := (3, 3)
def F.cxpClass.protect : Fld := (2, 2)
def F.cxpClass.pri : Fld := (1, 1)
def F.cxpClass.enable : Fld := (0, 0)
def F.cabRfoffCfg.discMs : Fld := (9, 0)
def F.cabRfoffStatus.inhibits : Fld := (63, 32)
def F.cabRfoffStatus.discCount : Fld := (21, 8)
def F.cabRfoffStatus.discSeen : Fld := (4, 4)
def F.cabRfoffStatus.latched : Fld := (3, 3)
def F.cabRfoffStatus.inhibit : Fld := (2, 2)
def F.cabRfoffStatus.bInhibit : Fld := (1, 1)
def F.cabRfoffStatus.aInhibit : Fld := (0, 0)
def F.cabGpioIn.levels : Fld := (63, 0)
def F.cabGpioOut.out : Fld := (63, 0)
def F.cabGpioSet.set : Fld := (63, 0)
def F.cabGpioClr.clr : Fld := (63, 0)
def F.cabTrigLatch.latched : Fld := (15, 0)
def F.cabGpioCfg.pull : Fld := (7, 6)
def F.cabGpioCfg.func : Fld := (2, 0)
def F.cabTrig.edges : Fld := (63, 48)
def F.cabTrig.sw : Fld := (32, 32)
def F.cabTrig.holdoffMs : Fld := (31, 16)
def F.cabTrig.filterUs : Fld := (15, 8)
def F.cabTrig.edge : Fld := (7, 6)
def F.cabTrig.pin : Fld := (5, 0)
def F.trlCfg.mask : Fld := (28, 16)
def F.trlCfg.stopFull : Fld := (2, 2)
def F.trlCfg.port : Fld := (1, 1)
def F.trlCfg.enable : Fld := (0, 0)
def F.trlWptr.stopped : Fld := (63, 63)
def F.trlWptr.wraps : Fld := (47, 16)
def F.trlWptr.next : Fld := (15, 0)
def F.trlLost.count : Fld := (31, 0)

/-! ### The map -/

/-- Rows of the register map, part 0. -/
def regRows0 : List RegDesc :=
  [ { base := 0x010000, n1 := 1, s1 := 0x0, n2 := 1, s2 := 0x0, fields :=
      [(F.pwrCtrl.enter, .sc, 0x0),
       (F.pwrCtrl.target, .rw, 0x0)] },
    { base := 0x010008, n1 := 1, s1 := 0x0, n2 := 1, s2 := 0x0, fields :=
      [(F.pwrStatus.inputMw, .ro, 0x0),
       (F.pwrStatus.over, .w1c, 0x0),
       (F.pwrStatus.state, .ro, 0x3)] },
    { base := 0x010010, n1 := 1, s1 := 0x0, n2 := 1, s2 := 0x0, fields :=
      [(F.pwrCeil.ceilMw, .rw, 0x4E20)] },
    { base := 0x010018, n1 := 1, s1 := 0x0, n2 := 1, s2 := 0x0, fields :=
      [(F.pwrHfRail.haDv, .rwl, 0x78),
       (F.pwrHfRail.hbDv, .rwl, 0x78)] },
    { base := 0x010020, n1 := 1, s1 := 0x0, n2 := 1, s2 := 0x0, fields :=
      [(F.pwrOverCnt.count, .ro, 0x0)] },
    { base := 0x010028, n1 := 1, s1 := 0x0, n2 := 1, s2 := 0x0, fields :=
      [(F.pwrRtc.seconds, .ro, 0x0)] },
    { base := 0x010030, n1 := 1, s1 := 0x0, n2 := 1, s2 := 0x0, fields :=
      [(F.pwrRtcAlarm.alarm, .rw, 0x0)] },
    { base := 0x020000, n1 := 1, s1 := 0x0, n2 := 1, s2 := 0x0, fields :=
      [(F.clkSiteTime.time, .ro, 0x0)] },
    { base := 0x030000, n1 := 1, s1 := 0x0, n2 := 1, s2 := 0x0, fields :=
      [(F.rstCause.cause, .ro, 0x0)] },
    { base := 0x030008, n1 := 1, s1 := 0x0, n2 := 1, s2 := 0x0, fields :=
      [(F.rstCtrl.key, .wo, 0x0),
       (F.rstCtrl.swReset, .wo, 0x0),
       (F.rstCtrl.blockRefused, .w1c, 0x0),
       (F.rstCtrl.block, .sc, 0x0)] },
    { base := 0x030010, n1 := 1, s1 := 0x0, n2 := 1, s2 := 0x0, fields :=
      [(F.rstStraps.clksel, .ro, 0x0),
       (F.rstStraps.bootsel, .ro, 0x0)] },
    { base := 0x040000, n1 := 1, s1 := 0x0, n2 := 1, s2 := 0x0, fields :=
      [(F.cfgStatus.serial, .ro, 0x0),
       (F.cfgStatus.logFail, .ro, 0x0),
       (F.cfgStatus.noLog, .ro, 0x0),
       (F.cfgStatus.locked, .ro, 0x0),
       (F.cfgStatus.source, .ro, 0x0),
       (F.cfgStatus.result, .ro, 0x0)] },
    { base := 0x040008, n1 := 1, s1 := 0x0, n2 := 1, s2 := 0x0, fields :=
      [(F.cfgCtrl.restage, .sc, 0x0),
       (F.cfgCtrl.load, .sc, 0x0)] },
    { base := 0x040010, n1 := 1, s1 := 0x0, n2 := 1, s2 := 0x0, fields :=
      [(F.cfgStage.word, .wo, 0x0)] },
    { base := 0x040018, n1 := 1, s1 := 0x0, n2 := 1, s2 := 0x0, fields :=
      [(F.cfgStagePtr.words, .ro, 0x0)] },
    { base := 0x040020, n1 := 1, s1 := 0x0, n2 := 1, s2 := 0x0, fields :=
      [(F.cfgFlashCmd.go, .sc, 0x0),
       (F.cfgFlashCmd.op, .rw, 0x0),
       (F.cfgFlashCmd.addr, .rw, 0x0)] },
    { base := 0x040028, n1 := 1, s1 := 0x0, n2 := 1, s2 := 0x0, fields :=
      [(F.cfgFlashStatus.regionRefused, .w1c, 0x0),
       (F.cfgFlashStatus.cmdRefused, .w1c, 0x0),
       (F.cfgFlashStatus.verifyFail, .w1c, 0x0),
       (F.cfgFlashStatus.notBlank, .w1c, 0x0),
       (F.cfgFlashStatus.busy, .ro, 0x0)] },
    { base := 0x040040, n1 := 8, s1 := 0x8, n2 := 1, s2 := 0x0, fields :=
      [(F.cfgFlashData.data, .rw, 0x0)] },
    { base := 0x050000, n1 := 1, s1 := 0x0, n2 := 1, s2 := 0x0, fields :=
      [(F.schCtrl.cancel, .sc, 0x0),
       (F.schCtrl.swap, .sc, 0x0),
       (F.schCtrl.run, .rw, 0x0)] },
    { base := 0x050008, n1 := 1, s1 := 0x0, n2 := 1, s2 := 0x0, fields :=
      [(F.schStatus.ceilRefused, .w1c, 0x0),
       (F.schStatus.bankWrite, .w1c, 0x0),
       (F.schStatus.replan, .w1c, 0x0),
       (F.schStatus.activeBank, .ro, 0x0),
       (F.schStatus.swapPending, .ro, 0x0),
       (F.schStatus.checking, .ro, 0x0),
       (F.schStatus.running, .ro, 0x0),
       (F.schStatus.loaded, .ro, 0x0)] } ]
/-- Rows of the register map, part 1. -/
def regRows1 : List RegDesc :=
  [ { base := 0x050010, n1 := 1, s1 := 0x0, n2 := 1, s2 := 0x0, fields :=
      [(F.schCheckResult.offset, .ro, 0x0),
       (F.schCheckResult.stake, .ro, 0x0),
       (F.schCheckResult.code, .ro, 0x0)] },
    { base := 0x050018, n1 := 1, s1 := 0x0, n2 := 1, s2 := 0x0, fields :=
      [(F.schCycleTicks.ticks, .ro, 0x0)] },
    { base := 0x050020, n1 := 1, s1 := 0x0, n2 := 1, s2 := 0x0, fields :=
      [(F.schCycleCnt.count, .ro, 0x0)] },
    { base := 0x050028, n1 := 1, s1 := 0x0, n2 := 1, s2 := 0x0, fields :=
      [(F.schCycleStart.start, .ro, 0x0)] },
    { base := 0x050030, n1 := 1, s1 := 0x0, n2 := 1, s2 := 0x0, fields :=
      [(F.schPeakMw.offset, .ro, 0x0),
       (F.schPeakMw.peak, .ro, 0x0)] },
    { base := 0x050038, n1 := 1, s1 := 0x0, n2 := 1, s2 := 0x0, fields :=
      [(F.schBaseMw.base, .rwl, 0xA8C)] },
    { base := 0x050040, n1 := 1, s1 := 0x0, n2 := 1, s2 := 0x0, fields :=
      [(F.schSeamMin.seam, .rwl, 0x190)] },
    { base := 0x050048, n1 := 1, s1 := 0x0, n2 := 1, s2 := 0x0, fields :=
      [(F.schWheelLimit.limit, .rwl, 0x380)] },
    { base := 0x050050, n1 := 1, s1 := 0x0, n2 := 1, s2 := 0x0, fields :=
      [(F.schReserveAlert.alert, .rwl, 0x40)] },
    { base := 0x050058, n1 := 1, s1 := 0x0, n2 := 1, s2 := 0x0, fields :=
      [(F.schReserveMin.stake, .ro, 0x0),
       (F.schReserveMin.reserve, .ro, 0x0)] },
    { base := 0x050060, n1 := 1, s1 := 0x0, n2 := 1, s2 := 0x0, fields :=
      [(F.schReqWait.cycles, .rwl, 0x4)] },
    { base := 0x050068, n1 := 1, s1 := 0x0, n2 := 1, s2 := 0x0, fields :=
      [(F.schOverrunCnt.count, .ro, 0x0)] },
    { base := 0x050070, n1 := 1, s1 := 0x0, n2 := 1, s2 := 0x0, fields :=
      [(F.schPlanId.pending, .ro, 0x0),
       (F.schPlanId.active, .ro, 0x0)] },
    { base := 0x080000, n1 := 33, s1 := 0x1000, n2 := 1, s2 := 0x0, fields :=
      [(F.hfaState.template, .ro, 0x0),
       (F.hfaState.slice, .ro, 0x0),
       (F.hfaState.covered, .ro, 0x0),
       (F.hfaState.inService, .ro, 0x1),
       (F.hfaState.state, .ro, 0x0)] },
    { base := 0x080008, n1 := 33, s1 := 0x1000, n2 := 1, s2 := 0x0, fields :=
      [(F.hfaDriveStatus.railLimit, .w1c, 0x0),
       (F.hfaDriveStatus.zPhase, .ro, 0x0),
       (F.hfaDriveStatus.zMag, .ro, 0x0),
       (F.hfaDriveStatus.powerMw, .ro, 0x0)] },
    { base := 0x080010, n1 := 33, s1 := 0x1000, n2 := 1, s2 := 0x0, fields :=
      [(F.hfaHeadStatus.retryLeftMs, .ro, 0x0),
       (F.hfaHeadStatus.zPhase, .ro, 0x0),
       (F.hfaHeadStatus.zMag, .ro, 0x0),
       (F.hfaHeadStatus.changed, .w1c, 0x0),
       (F.hfaHeadStatus.cls, .ro, 0x0)] },
    { base := 0x080018, n1 := 33, s1 := 0x1000, n2 := 1, s2 := 0x0, fields :=
      [(F.hfaRxStatus.gain, .ro, 0x0),
       (F.hfaRxStatus.rssi, .ro, 0x0)] },
    { base := 0x080020, n1 := 33, s1 := 0x1000, n2 := 1, s2 := 0x0, fields :=
      [(F.hfaSampleTime.time, .ro, 0x0)] },
    { base := 0x080028, n1 := 33, s1 := 0x1000, n2 := 1, s2 := 0x0, fields :=
      [(F.hfaCancelCfg.reload, .sc, 0x0),
       (F.hfaCancelCfg.muShift, .rw, 0x8),
       (F.hfaCancelCfg.adapt, .rw, 0x1),
       (F.hfaCancelCfg.enable, .rw, 0x1)] },
    { base := 0x080030, n1 := 33, s1 := 0x1000, n2 := 4, s2 := 0x8, fields :=
      [(F.hfaCancelCoef.neighbour, .ro, 0x0),
       (F.hfaCancelCoef.im, .rw, 0x0),
       (F.hfaCancelCoef.re, .rw, 0x0)] } ]
/-- Rows of the register map, part 2. -/
def regRows2 : List RegDesc :=
  [ { base := 0x0A8000, n1 := 1, s1 := 0x0, n2 := 1, s2 := 0x0, fields :=
      [(F.hfaHeadCfg.retryMs, .rwl, 0x3E8)] },
    { base := 0x0A8008, n1 := 1, s1 := 0x0, n2 := 1, s2 := 0x0, fields :=
      [(F.hfaRailLimitCnt.count, .ro, 0x0)] },
    { base := 0x0B0000, n1 := 17, s1 := 0x1000, n2 := 1, s2 := 0x0, fields :=
      [(F.uhaState.template, .ro, 0x0),
       (F.uhaState.slice, .ro, 0x0),
       (F.uhaState.covered, .ro, 0x0),
       (F.uhaState.inService, .ro, 0x1),
       (F.uhaState.state, .ro, 0x0)] },
    { base := 0x0B0008, n1 := 17, s1 := 0x1000, n2 := 1, s2 := 0x0, fields :=
      [(F.uhaTxStatus.dwellMs, .ro, 0x0),
       (F.uhaTxStatus.tx, .ro, 0x0),
       (F.uhaTxStatus.ch, .ro, 0x0)] },
    { base := 0x0B0010, n1 := 17, s1 := 0x1000, n2 := 1, s2 := 0x0, fields :=
      [(F.uhaHeadStatus.retryLeftMs, .ro, 0x0),
       (F.uhaHeadStatus.zPhase, .ro, 0x0),
       (F.uhaHeadStatus.zMag, .ro, 0x0),
       (F.uhaHeadStatus.changed, .w1c, 0x0),
       (F.uhaHeadStatus.cls, .ro, 0x0)] },
    { base := 0x0B0018, n1 := 17, s1 := 0x1000, n2 := 1, s2 := 0x0, fields :=
      [(F.uhaRxStatus.metricB, .ro, 0x0),
       (F.uhaRxStatus.metricA, .ro, 0x0),
       (F.uhaRxStatus.aerial, .ro, 0x0),
       (F.uhaRxStatus.rssi, .ro, 0x0)] },
    { base := 0x0B0020, n1 := 17, s1 := 0x1000, n2 := 1, s2 := 0x0, fields :=
      [(F.uhaSampleTime.time, .ro, 0x0)] },
    { base := 0x0B0028, n1 := 17, s1 := 0x1000, n2 := 1, s2 := 0x0, fields :=
      [(F.uhaSjcStatus.sjcLow, .w1c, 0x0),
       (F.uhaSjcStatus.converged, .ro, 0x0),
       (F.uhaSjcStatus.rejDb, .ro, 0x0)] },
    { base := 0x0B0030, n1 := 17, s1 := 0x1000, n2 := 1, s2 := 0x0, fields :=
      [(F.uhaPaCfg.gainQdb, .rwl, 0x0),
       (F.uhaPaCfg.active, .rwl, 0x7),
       (F.uhaPaCfg.safe, .rwl, 0x0),
       (F.uhaPaCfg.d3Us, .rwl, 0x5),
       (F.uhaPaCfg.d2Us, .rwl, 0xA),
       (F.uhaPaCfg.d1Us, .rwl, 0xA),
       (F.uhaPaCfg.ext, .rwl, 0x0)] },
    { base := 0x0B0038, n1 := 17, s1 := 0x1000, n2 := 1, s2 := 0x0, fields :=
      [(F.uhaPaStatus.faultPin, .ro, 0x0),
       (F.uhaPaStatus.cfgRefused, .w1c, 0x0),
       (F.uhaPaStatus.fault, .w1c, 0x0)] },
    { base := 0x0B0040, n1 := 17, s1 := 0x1000, n2 := 1, s2 := 0x0, fields :=
      [(F.uhaHopState.pos7, .ro, 0x0),
       (F.uhaHopState.pos6, .ro, 0x0),
       (F.uhaHopState.pos5, .ro, 0x0),
       (F.uhaHopState.pos4, .ro, 0x0),
       (F.uhaHopState.pos3, .ro, 0x0),
       (F.uhaHopState.pos2, .ro, 0x0),
       (F.uhaHopState.pos1, .ro, 0x0),
       (F.uhaHopState.pos0, .ro, 0x0)] },
    { base := 0x0B0400, n1 := 17, s1 := 0x1000, n2 := 64, s2 := 0x8, fields :=
      [(F.uhaSjcSeed.valid, .rw, 0x0),
       (F.uhaSjcSeed.im, .rw, 0x0),
       (F.uhaSjcSeed.re, .rw, 0x0)] },
    { base := 0x0C8000, n1 := 1, s1 := 0x0, n2 := 1, s2 := 0x0, fields :=
      [(F.uhaTxTimeout.limitMs, .rwl, 0x190)] },
    { base := 0x0C8008, n1 := 1, s1 := 0x0, n2 := 1, s2 := 0x0, fields :=
      [(F.uhaHeadCfg.retryMs, .rwl, 0x3E8)] },
    { base := 0x0C8010, n1 := 1, s1 := 0x0, n2 := 1, s2 := 0x0, fields :=
      [(F.uhaTxtoCnt.count, .ro, 0x0)] },
    { base := 0x0C8018, n1 := 1, s1 := 0x0, n2 := 1, s2 := 0x0, fields :=
      [(F.uhaChtLen.len7, .rw, 0x0),
       (F.uhaChtLen.len6, .rw, 0x0),
       (F.uhaChtLen.len5, .rw, 0x0),
       (F.uhaChtLen.len4, .rw, 0x0),
       (F.uhaChtLen.len3, .rw, 0x0),
       (F.uhaChtLen.len2, .rw, 0x0),
       (F.uhaChtLen.len1, .rw, 0x0),
       (F.uhaChtLen.len0, .rw, 0x0)] },
    { base := 0x0C9000, n1 := 8, s1 := 0x200, n2 := 64, s2 := 0x8, fields :=
      [(F.uhaCht.cap, .rw, 0x84),
       (F.uhaCht.ch, .rw, 0x0)] },
    { base := 0x0D0400, n1 := 1, s1 := 0x0, n2 := 1, s2 := 0x0, fields :=
      [(F.frmKrvCfg.secureRepeat, .rw, 0x1),
       (F.frmKrvCfg.trustMarginDb, .rw, 0x6)] },
    { base := 0x0D0408, n1 := 1, s1 := 0x0, n2 := 1, s2 := 0x0, fields :=
      [(F.frmKrvSkewCnt.count, .ro, 0x0)] },
    { base := 0x0E0000, n1 := 1, s1 := 0x0, n2 := 1, s2 := 0x0, fields :=
      [(F.sngWalkCfg.maxWindows, .rw, 0x10),
       (F.sngWalkCfg.garbleRetry, .rw, 0x2),
       (F.sngWalkCfg.alternate, .rw, 0x1),
       (F.sngWalkCfg.confirm, .rw, 0x1)] } ]
/-- Rows of the register map, part 3. -/
def regRows3 : List RegDesc :=
  [ { base := 0x0E0008, n1 := 1, s1 := 0x0, n2 := 1, s2 := 0x0, fields :=
      [(F.sngSlotCfg.schoute, .rw, 0x990),
       (F.sngSlotCfg.qMax, .rw, 0xF),
       (F.sngSlotCfg.qMin, .rw, 0x0)] },
    { base := 0x0E0010, n1 := 1, s1 := 0x0, n2 := 1, s2 := 0x0, fields :=
      [(F.sngFallbackCnt.count, .ro, 0x0)] },
    { base := 0x0E0018, n1 := 1, s1 := 0x0, n2 := 1, s2 := 0x0, fields :=
      [(F.sngRecordDropCnt.count, .ro, 0x0)] },
    { base := 0x0E0100, n1 := 9, s1 := 0x20, n2 := 1, s2 := 0x0, fields :=
      [(F.sngPtRegion.size, .rwl, 0x0),
       (F.sngPtRegion.first, .rwl, 0x0)] },
    { base := 0x0E0108, n1 := 9, s1 := 0x20, n2 := 1, s2 := 0x0, fields :=
      [(F.sngPtCfg.eventFifo, .rwl, 0x0),
       (F.sngPtCfg.arriveN, .rw, 0x1),
       (F.sngPtCfg.departMs, .rw, 0x1388)] },
    { base := 0x0E0110, n1 := 9, s1 := 0x20, n2 := 1, s2 := 0x0, fields :=
      [(F.sngPtStatus.untracked, .ro, 0x0),
       (F.sngPtStatus.full, .w1c, 0x0),
       (F.sngPtStatus.badRegion, .ro, 0x0),
       (F.sngPtStatus.inUse, .ro, 0x0)] },
    { base := 0x0F0000, n1 := 1, s1 := 0x0, n2 := 1, s2 := 0x0, fields :=
      [(F.wrdCfg.norm, .rw, 0xC),
       (F.wrdCfg.eraseSnr, .rw, 0x4),
       (F.wrdCfg.syncMin, .rw, 0x80)] },
    { base := 0x0F0008, n1 := 1, s1 := 0x0, n2 := 1, s2 := 0x0, fields :=
      [(F.wrdStatus.dec1Busy, .ro, 0x0),
       (F.wrdStatus.dec1Cw, .ro, 0x0),
       (F.wrdStatus.dec1Port, .ro, 0x3F),
       (F.wrdStatus.dec0Busy, .ro, 0x0),
       (F.wrdStatus.dec0Cw, .ro, 0x0),
       (F.wrdStatus.dec0Port, .ro, 0x3F)] },
    { base := 0x0F0010, n1 := 1, s1 := 0x0, n2 := 1, s2 := 0x0, fields :=
      [(F.wrdCwCnt.count, .ro, 0x0)] },
    { base := 0x0F0018, n1 := 1, s1 := 0x0, n2 := 1, s2 := 0x0, fields :=
      [(F.wrdCwFailCnt.count, .ro, 0x0)] },
    { base := 0x0F0020, n1 := 1, s1 := 0x0, n2 := 1, s2 := 0x0, fields :=
      [(F.wrdSyncFailCnt.count, .ro, 0x0)] },
    { base := 0x100000, n1 := 48, s1 := 0x40, n2 := 1, s2 := 0x0, fields :=
      [(F.chkCfg.refout, .rw, 0x0),
       (F.chkCfg.refin, .rw, 0x0),
       (F.chkCfg.width, .rw, 0x10)] },
    { base := 0x100008, n1 := 48, s1 := 0x40, n2 := 1, s2 := 0x0, fields :=
      [(F.chkPoly.value, .rw, 0x0)] },
    { base := 0x100010, n1 := 48, s1 := 0x40, n2 := 1, s2 := 0x0, fields :=
      [(F.chkInit.value, .rw, 0x0)] },
    { base := 0x100018, n1 := 48, s1 := 0x40, n2 := 1, s2 := 0x0, fields :=
      [(F.chkXorout.value, .rw, 0x0)] },
    { base := 0x100020, n1 := 48, s1 := 0x40, n2 := 1, s2 := 0x0, fields :=
      [(F.chkRun.start, .sc, 0x0),
       (F.chkRun.length, .rw, 0x0),
       (F.chkRun.addr, .rw, 0x0)] },
    { base := 0x100028, n1 := 48, s1 := 0x40, n2 := 1, s2 := 0x0, fields :=
      [(F.chkResult.value, .ro, 0x0)] },
    { base := 0x100030, n1 := 48, s1 := 0x40, n2 := 1, s2 := 0x0, fields :=
      [(F.chkStatus.results, .ro, 0x0),
       (F.chkStatus.port, .ro, 0xFF),
       (F.chkStatus.claimed, .ro, 0x0),
       (F.chkStatus.runAborted, .w1c, 0x0),
       (F.chkStatus.cfgRefused, .w1c, 0x0),
       (F.chkStatus.runRefused, .w1c, 0x0),
       (F.chkStatus.pass, .ro, 0x0),
       (F.chkStatus.empty, .ro, 0x0),
       (F.chkStatus.busy, .ro, 0x0)] },
    { base := 0x101000, n1 := 1, s1 := 0x0, n2 := 1, s2 := 0x0, fields :=
      [(F.chkFailCnt.count, .ro, 0x0)] },
    { base := 0x110000, n1 := 1, s1 := 0x0, n2 := 1, s2 := 0x0, fields :=
      [(F.gshEccStatus.addr, .ro, 0x0),
       (F.gshEccStatus.bank, .ro, 0x0),
       (F.gshEccStatus.planUe, .w1c, 0x0),
       (F.gshEccStatus.ue, .w1c, 0x0),
       (F.gshEccStatus.ce, .w1c, 0x0)] } ]
/-- Rows of the register map, part 4. -/
def regRows4 : List RegDesc :=
  [ { base := 0x110008, n1 := 1, s1 := 0x0, n2 := 1, s2 := 0x0, fields :=
      [(F.gshEccCeCnt.count, .ro, 0x0)] },
    { base := 0x110010, n1 := 1, s1 := 0x0, n2 := 1, s2 := 0x0, fields :=
      [(F.gshEccUeCnt.count, .ro, 0x0)] },
    { base := 0x110018, n1 := 1, s1 := 0x0, n2 := 1, s2 := 0x0, fields :=
      [(F.gshScrubCfg.enable, .rw, 0x1),
       (F.gshScrubCfg.periodS, .rw, 0x3C)] },
    { base := 0x110020, n1 := 1, s1 := 0x0, n2 := 1, s2 := 0x0, fields :=
      [(F.gshEccInject.arm, .sc, 0x0),
       (F.gshEccInject.addr, .rw, 0x0),
       (F.gshEccInject.kind, .rw, 0x0)] },
    { base := 0x110100, n1 := 9, s1 := 0x20, n2 := 1, s2 := 0x0, fields :=
      [(F.gshBufRange.count, .rwl, 0x0),
       (F.gshBufRange.first, .rwl, 0x0)] },
    { base := 0x110108, n1 := 9, s1 := 0x20, n2 := 1, s2 := 0x0, fields :=
      [(F.gshBufAlloc.valid, .ro, 0x0),
       (F.gshBufAlloc.buffer, .ro, 0x0)] },
    { base := 0x110110, n1 := 9, s1 := 0x20, n2 := 1, s2 := 0x0, fields :=
      [(F.gshBufFree.buffer, .wo, 0x0)] },
    { base := 0x110118, n1 := 9, s1 := 0x20, n2 := 1, s2 := 0x0, fields :=
      [(F.gshBufStatus.free, .ro, 0x0),
       (F.gshBufStatus.doubleFree, .ro, 0x0),
       (F.gshBufStatus.badRange, .ro, 0x0),
       (F.gshBufStatus.queuedFree, .w1c, 0x0),
       (F.gshBufStatus.allocEmpty, .w1c, 0x0)] },
    { base := 0x111000, n1 := 64, s1 := 0x40, n2 := 1, s2 := 0x0, fields :=
      [(F.gshFifoCfg.enable, .rwl, 0x0),
       (F.gshFifoCfg.pitch, .rwl, 0x0),
       (F.gshFifoCfg.dir, .rwl, 0x0),
       (F.gshFifoCfg.hif, .rwl, 0x0),
       (F.gshFifoCfg.depth, .rwl, 0x0)] },
    { base := 0x111008, n1 := 64, s1 := 0x40, n2 := 1, s2 := 0x0, fields :=
      [(F.gshFifoStatus.dropped, .ro, 0x0),
       (F.gshFifoStatus.full, .ro, 0x0),
       (F.gshFifoStatus.overrun, .w1c, 0x0),
       (F.gshFifoStatus.pushRefused, .w1c, 0x0),
       (F.gshFifoStatus.popRefused, .w1c, 0x0),
       (F.gshFifoStatus.held, .ro, 0x0),
       (F.gshFifoStatus.ueDrop, .w1c, 0x0),
       (F.gshFifoStatus.depth, .ro, 0x0)] },
    { base := 0x111010, n1 := 64, s1 := 0x40, n2 := 1, s2 := 0x0, fields :=
      [(F.gshFifoHead.valid, .ro, 0x0),
       (F.gshFifoHead.length, .ro, 0x0),
       (F.gshFifoHead.first, .ro, 0x0)] },
    { base := 0x111018, n1 := 64, s1 := 0x40, n2 := 1, s2 := 0x0, fields :=
      [(F.gshFifoPush.length, .wo, 0x0),
       (F.gshFifoPush.first, .wo, 0x0)] },
    { base := 0x111020, n1 := 64, s1 := 0x40, n2 := 1, s2 := 0x0, fields :=
      [(F.gshFifoPop.free, .wo, 0x0),
       (F.gshFifoPop.first, .wo, 0x0)] },
    { base := 0x111028, n1 := 64, s1 := 0x40, n2 := 1, s2 := 0x0, fields :=
      [(F.gshFifoCtrl.flush, .sc, 0x0)] },
    { base := 0x111030, n1 := 64, s1 := 0x40, n2 := 1, s2 := 0x0, fields :=
      [(F.gshFifoSeq.seq, .ro, 0x0)] },
    { base := 0x120000, n1 := 20, s1 := 0x8, n2 := 1, s2 := 0x0, fields :=
      [(F.rdpWheelUse.peak, .ro, 0x0),
       (F.rdpWheelUse.assigned, .ro, 0x0)] },
    { base := 0x120100, n1 := 1, s1 := 0x0, n2 := 1, s2 := 0x0, fields :=
      [(F.rdpRrWait.clear, .sc, 0x0),
       (F.rdpRrWait.target, .ro, 0x0),
       (F.rdpRrWait.maxCycles, .ro, 0x0)] },
    { base := 0x130000, n1 := 2, s1 := 0x40, n2 := 1, s2 := 0x0, fields :=
      [(F.hifEthMac.mac, .rwl, 0x0)] },
    { base := 0x130008, n1 := 2, s1 := 0x40, n2 := 1, s2 := 0x0, fields :=
      [(F.hifEthIp.udp, .rwl, 0xB87A),
       (F.hifEthIp.ip, .rwl, 0x0)] },
    { base := 0x130010, n1 := 2, s1 := 0x40, n2 := 1, s2 := 0x0, fields :=
      [(F.hifEthCfg.enable, .rwl, 0x0),
       (F.hifEthCfg.mtu, .rwl, 0x5DC)] } ]
/-- Rows of the register map, part 5. -/
def regRows5 : List RegDesc :=
  [ { base := 0x130018, n1 := 2, s1 := 0x40, n2 := 1, s2 := 0x0, fields :=
      [(F.hifEthStatus.dropped, .ro, 0x0),
       (F.hifEthStatus.speed, .ro, 0x0)] },
    { base := 0x130100, n1 := 9, s1 := 0x20, n2 := 1, s2 := 0x0, fields :=
      [(F.hifEpCfg.enable, .rwl, 0x0),
       (F.hifEpCfg.ports, .rwl, 0x0),
       (F.hifEpCfg.keySlot, .rwl, 0x0),
       (F.hifEpCfg.reqFifo, .rwl, 0x0),
       (F.hifEpCfg.retxMs, .rw, 0x14),
       (F.hifEpCfg.window, .rw, 0x40)] },
    { base := 0x130108, n1 := 9, s1 := 0x20, n2 := 1, s2 := 0x0, fields :=
      [(F.hifEpPeer.udp, .rw, 0x0),
       (F.hifEpPeer.ip, .rw, 0x0)] },
    { base := 0x130110, n1 := 9, s1 := 0x20, n2 := 1, s2 := 0x0, fields :=
      [(F.hifEpPeerMac.mac, .rw, 0x0)] },
    { base := 0x130118, n1 := 9, s1 := 0x20, n2 := 1, s2 := 0x0, fields :=
      [(F.hifEpStatus.lost, .ro, 0x0),
       (F.hifEpStatus.waiting, .ro, 0x0),
       (F.hifEpStatus.peerLost, .w1c, 0x0)] },
    { base := 0x130400, n1 := 1, s1 := 0x0, n2 := 1, s2 := 0x0, fields :=
      [(F.hifEthAuth.fail, .ro, 0x0),
       (F.hifEthAuth.blocked, .ro, 0x0)] },
    { base := 0x130500, n1 := 1, s1 := 0x0, n2 := 1, s2 := 0x0, fields :=
      [(F.hifSpiCfg.keySlot, .rwl, 0x0),
       (F.hifSpiCfg.auth, .rwl, 0x0)] },
    { base := 0x130508, n1 := 1, s1 := 0x0, n2 := 1, s2 := 0x0, fields :=
      [(F.hifSpiIntMask.mask, .rw, 0x0)] },
    { base := 0x130510, n1 := 1, s1 := 0x0, n2 := 1, s2 := 0x0, fields :=
      [(F.hifSpiStatus.failed, .ro, 0x0),
       (F.hifSpiStatus.blocked, .ro, 0x0),
       (F.hifSpiStatus.locked, .ro, 0x0)] },
    { base := 0x131000, n1 := 64, s1 := 0x8, n2 := 1, s2 := 0x0, fields :=
      [(F.hifRing.base, .rw, 0x0),
       (F.hifRing.irq, .rw, 0x0),
       (F.hifRing.vector, .rw, 0x0),
       (F.hifRing.size, .rw, 0x0),
       (F.hifRing.ring, .rw, 0x0)] },
    { base := 0x140000, n1 := 9, s1 := 0x1000, n2 := 1, s2 := 0x0, fields :=
      [(F.pitCfg.enable, .rwl, 0x0),
       (F.pitCfg.doneFifo, .rwl, 0x0),
       (F.pitCfg.eth, .rwl, 0x0),
       (F.pitCfg.pcie, .rwl, 0x0)] },
    { base := 0x140008, n1 := 9, s1 := 0x1000, n2 := 1, s2 := 0x0, fields :=
      [(F.pitPorts.ports, .rwl, 0x0)] },
    { base := 0x140010, n1 := 9, s1 := 0x1000, n2 := 1, s2 := 0x0, fields :=
      [(F.pitKeys.keys, .rwl, 0x0)] },
    { base := 0x140018, n1 := 9, s1 := 0x1000, n2 := 1, s2 := 0x0, fields :=
      [(F.pitRegion.size, .rwl, 0x0),
       (F.pitRegion.base, .rwl, 0x0)] },
    { base := 0x140020, n1 := 9, s1 := 0x1000, n2 := 1, s2 := 0x0, fields :=
      [(F.pitStatus.violations, .ro, 0x0),
       (F.pitStatus.portsLost, .ro, 0x0),
       (F.pitStatus.keysLost, .ro, 0x0),
       (F.pitStatus.badRegion, .ro, 0x0),
       (F.pitStatus.vfEnabled, .ro, 0x0)] },
    { base := 0x149000, n1 := 1, s1 := 0x0, n2 := 1, s2 := 0x0, fields :=
      [(F.pitViolIdx.index, .ro, 0x0)] },
    { base := 0x149008, n1 := 1, s1 := 0x0, n2 := 1, s2 := 0x0, fields :=
      [(F.pitContend.count, .ro, 0x0),
       (F.pitContend.master, .ro, 0x0)] },
    { base := 0x149100, n1 := 64, s1 := 0x10, n2 := 2, s2 := 0x8, fields :=
      [(F.pitViolRec.word, .ro, 0x0)] },
    { base := 0x150000, n1 := 1, s1 := 0x0, n2 := 1, s2 := 0x0, fields :=
      [(F.secKeyLoad.go, .sc, 0x0),
       (F.secKeyLoad.len256, .rw, 0x0),
       (F.secKeyLoad.slot, .rw, 0x0)] },
    { base := 0x150008, n1 := 4, s1 := 0x8, n2 := 1, s2 := 0x0, fields :=
      [(F.secKeyData.data, .wo, 0x0)] } ]
/-- Rows of the register map, part 6. -/
def regRows6 : List RegDesc :=
  [ { base := 0x150800, n1 := 1, s1 := 0x0, n2 := 1, s2 := 0x0, fields :=
      [(F.secKrvBudget.windowS, .rwl, 0x258),
       (F.secKrvBudget.attempts, .rwl, 0x2)] },
    { base := 0x150808, n1 := 1, s1 := 0x0, n2 := 1, s2 := 0x0, fields :=
      [(F.secKrvBudgetStatus.refused, .ro, 0x0),
       (F.secKrvBudgetStatus.full, .w1c, 0x0),
       (F.secKrvBudgetStatus.inUse, .ro, 0x0)] },
    { base := 0x160000, n1 := 1, s1 := 0x0, n2 := 1, s2 := 0x0, fields :=
      [(F.awnCfg.seamHoldMs, .rw, 0x5),
       (F.awnCfg.detectDb, .rw, 0xC),
       (F.awnCfg.pinLockS, .rwl, 0x12C),
       (F.awnCfg.pinTries, .rwl, 0x3)] },
    { base := 0x160100, n1 := 4, s1 := 0x20, n2 := 1, s2 := 0x0, fields :=
      [(F.awnImg.enable, .rwl, 0x0),
       (F.awnImg.pitch, .rwl, 0x0),
       (F.awnImg.pinSlot, .rwl, 0x0),
       (F.awnImg.base32k, .rwl, 0x0)] },
    { base := 0x160108, n1 := 4, s1 := 0x20, n2 := 1, s2 := 0x0, fields :=
      [(F.awnCtrl.expectGen, .rw, 0x0),
       (F.awnCtrl.force, .rw, 0x0),
       (F.awnCtrl.commit, .sc, 0x0)] },
    { base := 0x160110, n1 := 4, s1 := 0x20, n2 := 1, s2 := 0x0, fields :=
      [(F.awnStatus.gen, .ro, 0x0),
       (F.awnStatus.lockLeftS, .ro, 0x0),
       (F.awnStatus.triesLeft, .ro, 0x3),
       (F.awnStatus.piccState, .ro, 0x0),
       (F.awnStatus.field_, .ro, 0x0),
       (F.awnStatus.logFull, .w1c, 0x0),
       (F.awnStatus.hostWriteDropped, .w1c, 0x0),
       (F.awnStatus.conflict, .w1c, 0x0),
       (F.awnStatus.commitPending, .ro, 0x0),
       (F.awnStatus.badRegion, .ro, 0x0),
       (F.awnStatus.verified, .ro, 0x0),
       (F.awnStatus.imageBad, .w1c, 0x0)] },
    { base := 0x170000, n1 := 1, s1 := 0x0, n2 := 1, s2 := 0x0, fields :=
      [(F.lntCfg.rebase, .rw, 0x0),
       (F.lntCfg.confirm, .rw, 0x1),
       (F.lntCfg.intervalMs, .rw, 0xFA)] },
    { base := 0x170008, n1 := 1, s1 := 0x0, n2 := 1, s2 := 0x0, fields :=
      [(F.lntStatus.pings, .ro, 0x0),
       (F.lntStatus.wakeEntries, .ro, 0x0),
       (F.lntStatus.wakeCard, .w1c, 0x0)] },
    { base := 0x170100, n1 := 4, s1 := 0x20, n2 := 1, s2 := 0x0, fields :=
      [(F.lntPort.watch, .rw, 0x0),
       (F.lntPort.port, .rwl, 0x0),
       (F.lntPort.pingUs, .rw, 0x8),
       (F.lntPort.thrAmp, .rw, 0x40),
       (F.lntPort.thrPhase, .rw, 0x4),
       (F.lntPort.trackShift, .rw, 0x6)] },
    { base := 0x170108, n1 := 4, s1 := 0x20, n2 := 1, s2 := 0x0, fields :=
      [(F.lntBase.valid, .rw, 0x0),
       (F.lntBase.amp, .rw, 0x0),
       (F.lntBase.phase, .rw, 0x0)] },
    { base := 0x170110, n1 := 4, s1 := 0x20, n2 := 1, s2 := 0x0, fields :=
      [(F.lntLast.valid, .ro, 0x0),
       (F.lntLast.near, .ro, 0x0),
       (F.lntLast.amp, .ro, 0x0),
       (F.lntLast.phase, .ro, 0x0)] },
    { base := 0x180000, n1 := 1, s1 := 0x0, n2 := 1, s2 := 0x0, fields :=
      [(F.hltCfg.rotPeriodS, .rwl, 0x78),
       (F.hltCfg.disagreeMax, .rwl, 0x3),
       (F.hltCfg.stepMode, .rw, 0x0),
       (F.hltCfg.rotUhf, .rwl, 0x0),
       (F.hltCfg.rotHf, .rwl, 0x0)] },
    { base := 0x180008, n1 := 1, s1 := 0x0, n2 := 1, s2 := 0x0, fields :=
      [(F.hltCtrl.rotate, .sc, 0x0),
       (F.hltCtrl.id, .rw, 0x0)] },
    { base := 0x180010, n1 := 2, s1 := 0x8, n2 := 1, s2 := 0x0, fields :=
      [(F.hltSpare.port, .ro, 0xFF),
       (F.hltSpare.reason, .ro, 0x0),
       (F.hltSpare.waiting, .ro, 0x0),
       (F.hltSpare.next, .ro, 0x0)] },
    { base := 0x180020, n1 := 1, s1 := 0x0, n2 := 1, s2 := 0x0, fields :=
      [(F.hltAvs.atLimit, .w1c, 0x0),
       (F.hltAvs.hi, .rwl, 0x32),
       (F.hltAvs.lo, .rwl, 0x14),
       (F.hltAvs.muPpm, .ro, 0x0),
       (F.hltAvs.codeMax, .ro, 0x0),
       (F.hltAvs.code, .ro, 0x1C)] },
    { base := 0x180028, n1 := 1, s1 := 0x0, n2 := 1, s2 := 0x0, fields :=
      [(F.hltDerateCfg.enable, .rwl, 0x1),
       (F.hltDerateCfg.headroomDb, .rwl, 0xA)] },
    { base := 0x180100, n1 := 8, s1 := 0x8, n2 := 1, s2 := 0x0, fields :=
      [(F.hltAge.valid, .ro, 0x0),
       (F.hltAge.degrPpm, .ro, 0x0)] },
    { base := 0x181000, n1 := 81, s1 := 0x20, n2 := 1, s2 := 0x0, fields :=
      [(F.hltSliceStatus.cals, .ro, 0x0),
       (F.hltSliceStatus.headroom, .ro, 0x0),
       (F.hltSliceStatus.disagree, .ro, 0x0),
       (F.hltSliceStatus.cause, .ro, 0x0),
       (F.hltSliceStatus.derate, .ro, 0x0),
       (F.hltSliceStatus.slewing, .ro, 0x0),
       (F.hltSliceStatus.state, .ro, 0x0)] },
    { base := 0x181008, n1 := 81, s1 := 0x20, n2 := 1, s2 := 0x0, fields :=
      [(F.hltTermsA.terms, .ro, 0x0)] },
    { base := 0x181010, n1 := 81, s1 := 0x20, n2 := 1, s2 := 0x0, fields :=
      [(F.hltTermsB.terms, .ro, 0x0)] } ]
/-- Rows of the register map, part 7. -/
def regRows7 : List RegDesc :=
  [ { base := 0x181018, n1 := 81, s1 := 0x20, n2 := 1, s2 := 0x0, fields :=
      [(F.hltCalTime.time, .ro, 0x0)] },
    { base := 0x190000, n1 := 1, s1 := 0x0, n2 := 1, s2 := 0x0, fields :=
      [(F.guyCfg.nodeId, .rwl, 0x0),
       (F.guyCfg.term, .rwl, 0x0),
       (F.guyCfg.solo, .rw, 0x0),
       (F.guyCfg.masterOk, .rwl, 0x0),
       (F.guyCfg.enable, .rwl, 0x0)] },
    { base := 0x190008, n1 := 1, s1 := 0x0, n2 := 1, s2 := 0x0, fields :=
      [(F.guyStatus.roll, .ro, 0x0),
       (F.guyStatus.crcErr, .ro, 0x0),
       (F.guyStatus.collisions, .ro, 0x0),
       (F.guyStatus.isMaster, .ro, 0x0),
       (F.guyStatus.idClash, .w1c, 0x0),
       (F.guyStatus.soloActive, .ro, 0x0),
       (F.guyStatus.beaconOk, .ro, 0x0),
       (F.guyStatus.master, .ro, 0x0)] },
    { base := 0x190010, n1 := 1, s1 := 0x0, n2 := 1, s2 := 0x0, fields :=
      [(F.guySync.diff, .ro, 0x0)] },
    { base := 0x190018, n1 := 1, s1 := 0x0, n2 := 1, s2 := 0x0, fields :=
      [(F.guyLaneReq.lanes, .rw, 0x0)] },
    { base := 0x190020, n1 := 1, s1 := 0x0, n2 := 1, s2 := 0x0, fields :=
      [(F.guyLaneHeld.lanes, .ro, 0x0)] },
    { base := 0x190100, n1 := 6, s1 := 0x8, n2 := 1, s2 := 0x0, fields :=
      [(F.guyPortLane.bound7, .rwl, 0x0),
       (F.guyPortLane.lane7, .rwl, 0x0),
       (F.guyPortLane.bound6, .rwl, 0x0),
       (F.guyPortLane.lane6, .rwl, 0x0),
       (F.guyPortLane.bound5, .rwl, 0x0),
       (F.guyPortLane.lane5, .rwl, 0x0),
       (F.guyPortLane.bound4, .rwl, 0x0),
       (F.guyPortLane.lane4, .rwl, 0x0),
       (F.guyPortLane.bound3, .rwl, 0x0),
       (F.guyPortLane.lane3, .rwl, 0x0),
       (F.guyPortLane.bound2, .rwl, 0x0),
       (F.guyPortLane.lane2, .rwl, 0x0),
       (F.guyPortLane.bound1, .rwl, 0x0),
       (F.guyPortLane.lane1, .rwl, 0x0),
       (F.guyPortLane.bound0, .rwl, 0x0),
       (F.guyPortLane.lane0, .rwl, 0x0)] },
    { base := 0x1A0000, n1 := 1, s1 := 0x0, n2 := 1, s2 := 0x0, fields :=
      [(F.cxpCfg.finishUs, .rwl, 0x64),
       (F.cxpCfg.mode, .rwl, 0x0)] },
    { base := 0x1A0008, n1 := 1, s1 := 0x0, n2 := 1, s2 := 0x0, fields :=
      [(F.cxpStatus.wires, .ro, 0x0),
       (F.cxpStatus.overridden, .ro, 0x0),
       (F.cxpStatus.denied, .ro, 0x0)] },
    { base := 0x1A0108, n1 := 15, s1 := 0x8, n2 := 1, s2 := 0x0, fields :=
      [(F.cxpClass.yield, .rwl, 0x0),
       (F.cxpClass.protect, .rwl, 0x0),
       (F.cxpClass.pri, .rwl, 0x0),
       (F.cxpClass.enable, .rwl, 0x0)] },
    { base := 0x1B0000, n1 := 1, s1 := 0x0, n2 := 1, s2 := 0x0, fields :=
      [(F.cabRfoffCfg.discMs, .rwl, 0x64)] },
    { base := 0x1B0008, n1 := 1, s1 := 0x0, n2 := 1, s2 := 0x0, fields :=
      [(F.cabRfoffStatus.inhibits, .ro, 0x0),
       (F.cabRfoffStatus.discCount, .ro, 0x0),
       (F.cabRfoffStatus.discSeen, .w1c, 0x0),
       (F.cabRfoffStatus.latched, .ro, 0x0),
       (F.cabRfoffStatus.inhibit, .ro, 0x0),
       (F.cabRfoffStatus.bInhibit, .ro, 0x0),
       (F.cabRfoffStatus.aInhibit, .ro, 0x0)] },
    { base := 0x1B0010, n1 := 1, s1 := 0x0, n2 := 1, s2 := 0x0, fields :=
      [(F.cabGpioIn.levels, .ro, 0x0)] },
    { base := 0x1B0018, n1 := 1, s1 := 0x0, n2 := 1, s2 := 0x0, fields :=
      [(F.cabGpioOut.out, .rw, 0x0)] },
    { base := 0x1B0020, n1 := 1, s1 := 0x0, n2 := 1, s2 := 0x0, fields :=
      [(F.cabGpioSet.set, .wo, 0x0)] },
    { base := 0x1B0028, n1 := 1, s1 := 0x0, n2 := 1, s2 := 0x0, fields :=
      [(F.cabGpioClr.clr, .wo, 0x0)] },
    { base := 0x1B0030, n1 := 1, s1 := 0x0, n2 := 1, s2 := 0x0, fields :=
      [(F.cabTrigLatch.latched, .ro, 0x0)] },
    { base := 0x1B0100, n1 := 64, s1 := 0x8, n2 := 1, s2 := 0x0, fields :=
      [(F.cabGpioCfg.pull, .rw, 0x0),
       (F.cabGpioCfg.func, .rw, 0x0)] },
    { base := 0x1B0400, n1 := 16, s1 := 0x8, n2 := 1, s2 := 0x0, fields :=
      [(F.cabTrig.edges, .ro, 0x0),
       (F.cabTrig.sw, .sc, 0x0),
       (F.cabTrig.holdoffMs, .rw, 0x0),
       (F.cabTrig.filterUs, .rw, 0x0),
       (F.cabTrig.edge, .rw, 0x0),
       (F.cabTrig.pin, .rw, 0x0)] },
    { base := 0x1C0000, n1 := 1, s1 := 0x0, n2 := 1, s2 := 0x0, fields :=
      [(F.trlCfg.mask, .rw, 0x1FFE),
       (F.trlCfg.stopFull, .rw, 0x0),
       (F.trlCfg.port, .rw, 0x0),
       (F.trlCfg.enable, .rw, 0x0)] } ]
/-- Rows of the register map, part 8. -/
def regRows8 : List RegDesc :=
  [ { base := 0x1C0008, n1 := 1, s1 := 0x0, n2 := 1, s2 := 0x0, fields :=
      [(F.trlWptr.stopped, .ro, 0x0),
       (F.trlWptr.wraps, .ro, 0x0),
       (F.trlWptr.next, .ro, 0x0)] },
    { base := 0x1C0010, n1 := 1, s1 := 0x0, n2 := 1, s2 := 0x0, fields :=
      [(F.trlLost.count, .ro, 0x0)] } ]

/-- The register map. -/
def regMap : List RegDesc :=
  regRows0 ++ regRows1 ++ regRows2 ++ regRows3 ++ regRows4 ++ regRows5 ++ regRows6 ++ regRows7 ++ regRows8

/-- Does the family hold the register at offset `off`? -/
def RegDesc.holds (d : RegDesc) (off : Nat) : Bool :=
  d.base ≤ off &&
    let x := off - d.base
    if d.n1 ≤ 1 then x == 0
    else
      let i := x / d.s1
      let y := x % d.s1
      i < d.n1 && (if d.n2 ≤ 1 then y == 0 else y % d.s2 == 0 && y / d.s2 < d.n2)

/-- The row of the register at a byte offset of PF0 BAR0, none in a hole of the map (R409). HLT has no registers for the
identifiers 33 to 63, which R9 does not assign (R346). -/
def regAt (off : Nat) : Option RegDesc :=
  if 0x181000 + 33 * 0x20 ≤ off ∧ off < 0x181000 + 64 * 0x20 then none
  else regMap.find? (fun d => d.holds off)

/-- The word whose bits [hi:lo] are all ones. -/
def Fld.mask (f : Fld) : Word := BitVec.ofNat 64 ((2 ^ (f.1 + 1 - f.2) - 1) * 2 ^ f.2)

/-- Bits [hi:lo] of a word, as a number. -/
def Word.get (w : Word) (f : Fld) : Nat := w.toNat / 2 ^ f.2 % 2 ^ (f.1 + 1 - f.2)

/-- The word with bits [hi:lo] replaced by the low bits of a number. -/
def Word.put (w : Word) (f : Fld) (v : Nat) : Word :=
  (w &&& ~~~f.mask) ||| BitVec.ofNat 64 (v % 2 ^ (f.1 + 1 - f.2) * 2 ^ f.2)

/-- The reset word of a row (R410). -/
def RegDesc.reset (d : RegDesc) : Word :=
  d.fields.foldl (fun w x => Word.put w x.1 x.2.2) 0

/-- Mask of the bits whose fields have one of the access codes given. -/
def RegDesc.accMask (d : RegDesc) (p : Acc → Bool) : Word :=
  d.fields.foldl (fun w x => if p x.2.1 then w ||| x.1.mask else w) 0

/-- What a register that nothing has written since the reset reads as (R410): its reset word, 0 in a hole. -/
def resetWord (off : Nat) : Word :=
  match regAt off with
  | some d => d.reset
  | none => 0

end Sys2Proof.Machine
end

