-- ==== Sys2Proof/Machine/Update.lean ====
section
/-! DEFINITION. One named update per field of State: every meaning changes the state through these. -/

namespace Sys2Proof.Machine

def State.setPending (s : State) (v : List Instr) : State := { s with pending := v }
def State.setClock (s : State) (v : Clock) : State := { s with clock := v }
def State.setTick (s : State) (v : Tick) : State := { s with tick := v }
def State.setRegs (s : State) (v : SMap Word) : State := { s with regs := v }
def State.setMem (s : State) (v : SMap Byte) : State := { s with mem := v }
def State.setEcc (s : State) (v : SMap Word) : State := { s with ecc := v }
def State.setBufs (s : State) (v : SMap BufState) : State := { s with bufs := v }
def State.setFifos (s : State) (v : SMap Fifo) : State := { s with fifos := v }
def State.setBoot (s : State) (v : Boot) : State := { s with boot := v }
def State.setSch (s : State) (v : Sch) : State := { s with sch := v }
def State.setRuns (s : State) (v : List Run) : State := { s with runs := v }
def State.setPorts (s : State) (v : SMap Port) : State := { s with ports := v }
def State.setSlices (s : State) (v : SMap Slice) : State := { s with slices := v }
def State.setRecords (s : State) (v : List SaveRecord) : State := { s with records := v }
def State.setPolarity (s : State) (v : List (Nat × Nat × Nat)) : State := { s with polarity := v }
def State.setRequests (s : State) (v : List Request) : State := { s with requests := v }
def State.setSec (s : State) (v : Sec) : State := { s with sec := v }
def State.setDecoders (s : State) (v : SMap Decoder) : State := { s with decoders := v }
def State.setHostRuns (s : State) (v : SMap HostRun) : State := { s with hostRuns := v }
def State.setAwning (s : State) (v : SMap Awning) : State := { s with awning := v }
def State.setLantern (s : State) (v : Lantern) : State := { s with lantern := v }
def State.setHif (s : State) (v : Hif) : State := { s with hif := v }
def State.setPit (s : State) (v : Pit) : State := { s with pit := v }
def State.setHlt (s : State) (v : Hlt) : State := { s with hlt := v }
def State.setFlash (s : State) (v : SMap Byte) : State := { s with flash := v }
def State.setGuy (s : State) (v : Guy) : State := { s with guy := v }
def State.setCxp (s : State) (v : Cxp) : State := { s with cxp := v }
def State.setCab (s : State) (v : Cab) : State := { s with cab := v }
def State.setTrl (s : State) (v : Trl) : State := { s with trl := v }
def State.setTap (s : State) (v : Tap) : State := { s with tap := v }
def State.setWheel (s : State) (v : SMap Nat) : State := { s with wheel := v }
def State.setResp (s : State) (v : SMap Resp) : State := { s with resp := v }
def State.setOut (s : State) (v : List Emission) : State := { s with out := v }
def State.setFresh (s : State) (v : Nat) : State := { s with fresh := v }

end Sys2Proof.Machine
end

