-- ==== Sys2Proof/WellFormed.lean ====
section
/-! DEFINITION. When a command is well formed: its operand names a port, slice, stake or entry that the manual assigns
(R9, R13, R32, R151, R254, R280). A meaning faults with `noSuchResource` on a command that is not. -/

namespace Sys2Proof

/-- R9: HF0 to HF31. -/
def isHfPort (n : Nat) : Bool := decide (n < 32)

/-- R9: UH0 to UH15. -/
def isUhfPort (n : Nat) : Bool := decide (64 ≤ n) && decide (n < 80)

/-- R9: an identifier of a port. -/
def isPort (n : Nat) : Bool := isHfPort n || isUhfPort n

/-- R9: an HF slice, spare included. -/
def isHfSlice (n : Nat) : Bool := decide (n ≤ 32)

/-- R9: a UHF slice, spare included. -/
def isUhfSlice (n : Nat) : Bool := decide (64 ≤ n) && decide (n ≤ 80)

/-- R9: a slice of either kind. -/
def isSlice (n : Nat) : Bool := isHfSlice n || isUhfSlice n

/-- The operands of a command name resources that exist. -/
def Instr.wf : Instr → Bool
  | .majorCycleBoundary => true
  | .planStart => true
  | .schSwap _ => true
  | .schCancel _ => true
  | .schRunWrite _ _ => true
  | .planCheckDone => true
  | .stakeStart idx => decide (idx < 8192)
  | .triggerRunStart port => isPort port
  | .exchangeStart port => isPort port
  | .replyStartDetected port _ => isPort port
  | .checkVerdict port _ _ => isPort port
  | .exchangeEnd port _ => isPort port
  | .exchangeTimeout port _ => isPort port
  | .budgetEntryExpired pitch _ => decide (pitch ≤ 8)
  | .stakeTailStart port => isSlice port
  | .stakeEnd port => isSlice port
  | .hfStateTransitionDone slice _ => isHfSlice slice
  | .uhfStateTransitionDone slice _ => isUhfSlice slice
  | .loadMonitorSample port _ => isHfPort port
  | .uhfGammaSample port _ => isUhfPort port
  | .headRetryExpired port => isPort port
  | .cancelAdapt port _ _ => isHfPort port
  | .cancelReload _ port => isHfSlice port
  | .wideSyncEnd port _ => isHfPort port
  | .wideSymbolWindowEnd port _ => isHfPort port
  | .wrdCodewordStart _ => true
  | .wrdCodewordDone _ => true
  | .synthLockTimeout port => isUhfPort port
  | .channelChangeDone port _ => isUhfPort port
  | .txTimeout port => isUhfPort port
  | .paSequenceStep port => isUhfPort port
  | .paFault port _ => isUhfPort port
  | .paFaultClear _ port => isUhfSlice port
  | .uhaPaCfgWrite _ port _ => isUhfSlice port
  | .coexLeadStart idx => decide (idx < 8192)
  | .coexWaitExpired port => isPort port
  | .cxGntRise => true
  | .cxGntFall => true
  | .cxReqRise _ => true
  | .cxReqFall _ => true
  | .rfInhibit _ _ => true
  | .rfInhibitRelease _ _ => true
  | .uhfStandbyRestored => true
  | .rfoffSample => true
  | .powerWindow _ => true
  | .pwrCeilWrite _ _ => true
  | .pwrHfRailWrite _ _ => true
  | .triggerEdge _ _ => true
  | .triggerSw _ _ => true
  | .gpioCfgWrite _ _ _ => true
  | .gpioSet _ _ => true
  | .gpioClr _ _ => true
  | .awningFieldDetect _ _ => true
  | .awningFieldLost _ _ => true
  | .awningSeamHoldExpired _ => true
  | .reqa _ => true
  | .wupa _ => true
  | .anticollision _ _ _ => true
  | .select _ _ _ => true
  | .hlta _ => true
  | .rats _ _ _ => true
  | .pps _ _ _ => true
  | .rAck _ _ => true
  | .rNak _ _ => true
  | .sDeselect _ => true
  | .selectByName _ _ _ => true
  | .selectByFileId _ _ _ => true
  | .readBinary _ _ _ _ => true
  | .updateBinary _ _ _ _ => true
  | .verify _ _ _ => true
  | .pinLockExpired _ => true
  | .awningCommit _ _ _ => true
  | .awningCommitApply _ => true
  | .watchRound => true
  | .lanternConfirmPing _ => true
  | .lanternPingDone _ _ _ => true
  | .wakeCardClear _ => true
  | .presenceSweep idx => decide (idx < 262144)
  | .chkHostRunStart _ _ _ => true
  | .chkHostRunDone _ => true
  | .chkCfgWrite _ _ _ _ => true
  | .scrubVisit word _ => decide (word < 4194304)
  | .eccInjectArm _ _ => true
  | .groundsheetWrite _ _ _ => true
  | .bufAlloc _ _ => true
  | .bufFree _ _ _ => true
  | .fifoPush _ _ _ => true
  | .fifoPop _ _ _ => true
  | .fifoFlush _ _ => true
  | .heldPacketCommit _ => true
  | .wheelTurnStart _ target => decide (target.toNat < 20)
  | .rrWaitClear _ => true
  | .krvReq _ => true
  | .hfFrame _ => true
  | .hfApdu _ => true
  | .gen2Req _ => true
  | .requestStart port => isPort port
  | .requestWaitExpired pitch port => decide (pitch ≤ 8) && isPort port
  | .keyLoad _ _ => true
  | .secKeyLoad _ _ => true
  | .registerWrite _ => true
  | .lowerHalfRead _ _ => true
  | .upperHalfWrite _ _ _ => true
  | .perst => true
  | .ringWrite _ _ _ => true
  | .ringDeliver _ => true
  | .doorbell _ _ _ => true
  | .requestFetchDone _ _ _ => true
  | .msixUnmask _ _ => true
  | .ethDatagramRx _ _ => true
  | .regRead _ => true
  | .regWrite _ => true
  | .ack _ => true
  | .ethSourceEntryExpired _ => true
  | .ethTransmit _ _ => true
  | .ethRetxTimeout _ => true
  | .spiWrite _ _ _ => true
  | .spiRead _ _ => true
  | .spiStatus => true
  | .challenge => true
  | .unlock _ => true
  | .lock => true
  | .spiUnlockBlockExpired => true
  | .rotationDue _ => true
  | .rotate _ _ => true
  | .spareHandover _ => true
  | .spareReturn _ => true
  | .checkpoint port _ => isPort port
  | .spareTransferDone _ _ => true
  | .calCompare _ _ _ _ => true
  | .sliceFailed slice _ => isSlice slice
  | .linkFail _ => true
  | .correctionSlew slice => isSlice slice
  | .ageMeasure _ => true
  | .avs _ => true
  | .ageSummary => true
  | .logRateWindowEnd _ => true
  | .enterHibernate _ => true
  | .enterWatch _ => true
  | .lowPowerEntryDone => true
  | .wake => true
  | .rtcAlarm => true
  | .por => true
  | .brownout => true
  | .resetPin => true
  | .watchdog => true
  | .software _ _ => true
  | .thermal => true
  | .blockReset _ _ => true
  | .imageTimeout => true
  | .restage _ => true
  | .cfgStage _ _ => true
  | .load _ => true
  | .flashRead _ _ => true
  | .flashProgram _ _ => true
  | .flashErase _ _ => true
  | .flashCmdDone _ => true
  | .logbookWrite _ => true
  | .logbookErase => true
  | .beacon _ => true
  | .beaconTransmit _ => true
  | .guylineAck _ => true
  | .ackSlot _ => true
  | .masterTimeout => true
  | .beaconRetry => true
  | .laneGrantStart => true
  | .laneDeadline => true
  | .tracePortOut => true
  | .tapReset => true
  | .extest => true
  | .idcode => true
  | .samplePreload => true
  | .extestPulse => true
  | .extestTrain => true
  | .highz => true
  | .clamp => true
  | .bypass => true
  | .endOfCause _ => true
  | .resetSequenceStepDone _ => true
  | .reservedTypeRequest _ => true
  | .otherInsApdu _ _ _ _ => true
  | .cxPriRise => true
  | .ethLinkDown _ => true
  | .ethLinkUp _ _ => true
  | .groundsheetRead _ _ _ => true
  | .guylineFrameCrcFail _ _ _ => true
  | .vfEnableWrite _ _ => true

end Sys2Proof
end

