-- ==== Sys2Proof/Machine/Ops.lean ====
section
/-! DEFINITION. The named operations every meaning is built from: sparse maps in canonical form, registers and their
fields, Groundsheet bytes and words, ownership of ports, keys, regions and buffers, packets and their FIFOs, violation
records, trace records, and the messages of the DN4810. -/

namespace Sys2Proof.Machine

/-! ### Sparse maps -/

/-- The value at a key, `d` for an unlisted key. -/
def SMap.look {α : Type} (d : α) : List (Nat × α) → Nat → α
  | [], _ => d
  | (k, v) :: m, q => if q = k then v else SMap.look d m q

/-- The listed value at a key. -/
def SMap.find {α : Type} : List (Nat × α) → Nat → Option α
  | [], _ => none
  | (k, v) :: m, q => if q = k then some v else SMap.find m q

/-- List a value at a key, keys kept strictly rising. -/
def SMap.ins {α : Type} (q : Nat) (x : α) : List (Nat × α) → List (Nat × α)
  | [] => [(q, x)]
  | (k, v) :: m => if q < k then (q, x) :: (k, v) :: m else if q = k then (q, x) :: m else (k, v) :: SMap.ins q x m

/-- Drop a key. -/
def SMap.del {α : Type} (q : Nat) : List (Nat × α) → List (Nat × α)
  | [] => []
  | (k, v) :: m => if q = k then SMap.del q m else (k, v) :: SMap.del q m

/-- Write the value of a key: a value equal to what the unlisted key reads as is not listed. -/
def SMap.put {α : Type} [DecidableEq α] (d : α) (m : List (Nat × α)) (q : Nat) (x : α) : List (Nat × α) :=
  if x = d then SMap.del q m else SMap.ins q x m

/-- The keys rise strictly from `lo`. -/
def SMap.rising {α : Type} (lo : Nat) : List (Nat × α) → Bool
  | [] => true
  | (k, _) :: m => decide (lo ≤ k) && SMap.rising (k + 1) m

/-- The canonical form: strictly rising keys, and no entry equal to what its unlisted key reads as. -/
def SMap.wf {α : Type} [DecidableEq α] (d : Nat → α) (m : List (Nat × α)) : Bool :=
  SMap.rising 0 m && m.all (fun x => decide (x.2 ≠ d x.1))

/-! ### Time, registers and fields -/

/-- Site time (R5). -/
def State.now (s : State) : Nat := s.clock.site

/-- The word a register holds (R6, R410). -/
def State.reg (s : State) (off : Nat) : Word := SMap.look (resetWord off) s.regs off

/-- Store a whole register word. -/
def State.setReg (s : State) (off : Nat) (w : Word) : State := s.setRegs (SMap.put (resetWord off) s.regs off w)

/-- A field of a register. -/
def State.fld (s : State) (off : Nat) (f : Fld) : Nat := Word.get (s.reg off) f

/-- A one-bit field. -/
def State.bit (s : State) (off : Nat) (f : Fld) : Bool := decide (s.fld off f ≠ 0)

/-- Replace a field of a register. -/
def State.setFld (s : State) (off : Nat) (f : Fld) (v : Nat) : State := s.setReg off (Word.put (s.reg off) f v)

/-- Note that the DN4810 sets a bit in this tick: a write of the same tick does not clear it (R6). -/
def State.noteRaised (s : State) (off : Nat) (f : Fld) (b : Bool) : State :=
  if b then
    s.setTick { s.tick with raised := SMap.put 0 s.tick.raised off (Word.put (SMap.look 0 s.tick.raised off) f 1) }
  else s

/-- Replace a one-bit field. -/
def State.setBit (s : State) (off : Nat) (f : Fld) (b : Bool) : State := (s.setFld off f b.toNat).noteRaised off f b

/-- Largest value of a field. -/
def Fld.top (f : Fld) : Nat := 2 ^ (f.1 + 1 - f.2) - 1

/-- Count up; wrapping, as `Word.put` takes the value modulo the field (R415). -/
def State.bump (s : State) (off : Nat) (f : Fld) : State := s.setFld off f (s.fld off f + 1)

/-- Count up by n, staying at the maximum (R415). -/
def State.bumpSat (s : State) (off : Nat) (f : Fld) (n : Nat) : State :=
  s.setFld off f (min (Fld.top f) (s.fld off f + n))

/-- A register, and a field of it, as a stake's configuration snapshot holds it (R25). -/
def Run.reg (r : Run) (off : Nat) : Word := SMap.look (resetWord off) r.cfg off
def Run.fld (r : Run) (off : Nat) (f : Fld) : Nat := Word.get (r.reg off) f

def Run.bit (r : Run) (off : Nat) (f : Fld) : Bool := decide (r.fld off f ≠ 0)

/-- Configuration lock (R6, R371). -/
def State.locked (s : State) : Bool := s.bit R.cfgStatus F.cfgStatus.locked

/-- The part is in READY or RUN: no reset sequence runs and power is up (R351). -/
def State.up (s : State) : Bool :=
  s.boot.seq.isNone && (decide (s.boot.power = .ready) || decide (s.boot.power = .run))

/-- An RF inhibit holds (R383). -/
def State.inhibited (s : State) : Bool := s.bit R.cabRfoffStatus F.cabRfoffStatus.inhibit

/-- A plan runs (R351). -/
def State.running (s : State) : Bool := s.bit R.schStatus F.schStatus.running

/-- What a host write leaves in a register (R6, R7): rw bits, and rwl bits before lock, take the data; a 1 written to a
w1c bit clears it; the rest keep their value. Actions of sc and wo fields are the register's own. -/
def mergeWrite (locked : Bool) (d : RegDesc) (old data : Word) : Word :=
  let rw := d.accMask fun a => decide (a = .rw) || (decide (a = .rwl) && !locked)
  let w1c := d.accMask fun a => decide (a = .w1c)
  ((old &&& ~~~rw) ||| (data &&& rw)) &&& ~~~(data &&& w1c)

/-- Keep the word that a register held before the first host write of this tick (R25). -/
def State.noteWrote (s : State) (off : Nat) : State :=
  match SMap.find s.tick.wrote off with
  | some _ => s
  | none => s.setTick { s.tick with wrote := SMap.ins off (s.reg off) s.tick.wrote }

/-- The data of a host write, without the ones to w1c bits that the DN4810 has set in this tick (R6, R433). -/
def State.taken (s : State) (d : RegDesc) (off : Nat) (data : Word) : Word :=
  data &&& ~~~((d.accMask fun a => decide (a = .w1c)) &&& SMap.look 0 s.tick.raised off)

/-- The write of a register by a host, its rwl fields locked or not (R6). -/
def State.writeReg (s : State) (locked : Bool) (off : Nat) (data : Word) : State :=
  match regAt off with
  | none => s
  | some d => (s.noteWrote off).setReg off (mergeWrite locked d (s.reg off) (s.taken d off data))

/-- The plain write of a register by a host (R6). -/
def State.hostWrite (s : State) (off : Nat) (data : Word) : State := s.writeReg s.locked off data

/-- The registers as a stake that starts now takes them: a write of this tick takes effect at the next start (R25). -/
def State.cfgNow (s : State) : SMap Word :=
  s.tick.wrote.foldl (fun m x => SMap.put (resetWord x.1) m x.1 x.2) s.regs

/-- A register as what happens in steps 1 to 3 of a tick finds it: as it stood before the host writes of the tick (R433). -/
def State.cfgReg (s : State) (off : Nat) : Word := (SMap.find s.tick.wrote off).getD (s.reg off)

def State.cfg (s : State) (off : Nat) (f : Fld) : Nat := Word.get (s.cfgReg off) f

def State.cfgBit (s : State) (off : Nat) (f : Fld) : Bool := decide (s.cfg off f ≠ 0)

/-- The DN4810 sets a configuration register in step 3 of a tick: a host write of the same tick comes after it (R433). -/
def State.setCfg (s : State) (off : Nat) (w : Word) : State :=
  match SMap.find s.tick.wrote off with
  | none => s.setReg off w
  | some _ => s.setTick { s.tick with wrote := SMap.ins off w s.tick.wrote }

/-- The key of a slot and its length as the checks and the stake starts of a tick take it: a load of the same tick comes
after them (R291, R292). -/
def State.checkKey (s : State) (slot : Nat) : BitVec 256 × Bool :=
  match SMap.find s.tick.keys slot with
  | some x => (x.key, x.long)
  | none => (SMap.look 0 s.sec.keys slot, SMap.look false s.sec.long slot)

/-- The keys as a stake that starts now takes them (R291). -/
def State.keysNow (s : State) : SMap (BitVec 256) :=
  s.tick.keys.foldl (fun m x => SMap.put 0 m x.1 x.2.key) s.sec.keys

/-- The key that a slot held before the one that the checks of this tick take, with the tick of the load (R292). -/
def State.prevKey (s : State) (slot : Nat) : Option (BitVec 256 × Bool × Nat) :=
  match SMap.find s.tick.keys slot with
  | some x => x.prev
  | none => SMap.find s.sec.prev slot

/-- Clamp to limits: "values outside act as the nearer limit". -/
def clamp (lo hi v : Nat) : Nat := max lo (min hi v)

/-- Ticks in a number of milliseconds, microseconds and seconds (40 MHz). -/
def msTicks (n : Nat) : Nat := 40000 * n
def usTicks (n : Nat) : Nat := 40 * n
def sTicks (n : Nat) : Nat := 40000000 * n

/-- Whole ticks that hold a duration in fc, rounded up (R3). -/
def fcTicks (n : Nat) : Nat := (n * 1000 + 338) / 339

/-! ### Ports, slices, emissions and free values -/

def State.port (s : State) (p : Nat) : Port := SMap.look Port.dflt s.ports p
def State.setPort (s : State) (p : Nat) (x : Port) : State := s.setPorts (SMap.put Port.dflt s.ports p x)
def State.modPort (s : State) (p : Nat) (f : Port → Port) : State := s.setPort p (f (s.port p))
def State.slice (s : State) (n : Nat) : Slice := SMap.look Slice.dflt s.slices n
def State.setSlice (s : State) (n : Nat) (x : Slice) : State := s.setSlices (SMap.put Slice.dflt s.slices n x)
def State.modSlice (s : State) (n : Nat) (f : Slice → Slice) : State := s.setSlice n (f (s.slice n))
def State.fifo (s : State) (n : Nat) : Fifo := SMap.look Fifo.dflt s.fifos n
def State.setFifo (s : State) (n : Nat) (x : Fifo) : State := s.setFifos (SMap.put Fifo.dflt s.fifos n x)

/-- The kind of a port or slice identifier. -/
def isHf (n : Nat) : Bool := isHfSlice n



/-- The spare of a kind (R9, R27), and its registers. -/
def spareOf (k : Kind) : Nat := match k with | .hf => 32 | .uhf => 80
def kindOf (n : Nat) : Kind := if isHf n then .hf else .uhf

/-- The port is in service (R29, R95, R208). -/
def State.inService (s : State) (p : Nat) : Bool :=
  let x := s.port p
  !x.out && !x.paFault && x.retryUntil.isNone && !x.deciding

/-- The slice that serves a port now (R11, R27). -/
def State.server (s : State) (p : Nat) : Nat := if (s.port p).covered then spareOf (kindOf p) else p

/-- Index of a UHF port's registers. -/
def uhfIdx (p : Nat) : Nat := p - 64

/-- Put something on the air, on a link or on a ball. -/
def State.emit (s : State) (e : Emission) : State := s.setOut (e :: s.out)

/-- Use up n free draws (notes/assumptions/2.md). -/
def State.skip (s : State) (n : Nat) : State := s.setFresh (s.fresh + n)

/-- Fold an update over a list. -/
def State.each {α : Type} (s : State) (l : List α) (f : State → α → State) : State := l.foldl f s

/-! ### Groundsheet bytes and words -/

/-- Byte at a Groundsheet address; unlisted bytes read zero (R260). -/
def State.byte (s : State) (a : Nat) : Byte := SMap.look 0 s.mem a

def State.setByte (s : State) (a : Nat) (b : Byte) : State := s.setMem (SMap.put 0 s.mem a b)

/-- Bytes of a word, least significant first (notes/assumptions/11.md). -/
def Word.bytes (w : Word) : List Byte := (List.range 8).map fun i => BitVec.ofNat 8 (w.toNat / 2 ^ (8 * i))

/-- The word that bytes spell, least significant first. -/
def wordOfBytes (l : List Byte) : Word := BitVec.ofNat 64 (l.foldr (fun b n => b.toNat + 256 * n) 0)

/-- The intended word that holds byte address a (its 8-byte aligned word). -/
def State.word (s : State) (a : Nat) : Word := wordOfBytes ((List.range 8).map fun i => s.byte (a / 8 * 8 + i))

/-- Write bytes from an address on. -/
def State.setBytes (s : State) (a : Nat) : List Byte → State
  | [] => s
  | b :: l => State.setBytes (s.setByte a b) (a + 1) l

/-- The bits in error of the word that holds address a (R256). -/
def State.upset (s : State) (a : Nat) : Word := SMap.look 0 s.ecc (a / 8)
def State.setUpset (s : State) (a : Nat) (w : Word) : State := s.setEcc (SMap.put 0 s.ecc (a / 8) w)

/-- Number of ones of a word. -/
def ones (w : Word) : Nat := (List.range 64).countP fun i => w.getLsbD i

/-- The word has two or more bits in error (R256). -/
def State.isUe (s : State) (a : Nat) : Bool := decide (2 ≤ ones (s.upset a))

/-- The bits that GSH_ECC_INJECT flips in a full write to address a (R280's table), 0 when not armed for it. -/
def State.injectMask (s : State) (a : Nat) : Word :=
  if s.bit R.gshEccInject F.gshEccInject.arm ∧ s.fld R.gshEccInject F.gshEccInject.addr / 8 = a / 8 then
    (if s.fld R.gshEccInject F.gshEccInject.kind = 1 then 1
     else if s.fld R.gshEccInject F.gshEccInject.kind = 2 then 3 else 0)
  else 0

/-- The injector is armed for the word of address a. -/
def State.injectHits (s : State) (a : Nat) : Bool :=
  s.bit R.gshEccInject F.gshEccInject.arm && decide (s.fld R.gshEccInject F.gshEccInject.addr / 8 = a / 8)

/-- Keep the word of address a as it stands before a store of this tick (R250). -/
def State.noteStore (s : State) (a : Nat) : State :=
  s.setTick { s.tick with stores := (a / 8, s.word a) :: s.tick.stores }

/-- A full 64-bit write: it replaces the word and its check bits (R258), with the error that the injector puts there. -/
def State.setWord (s : State) (a : Nat) (w : Word) : State :=
  let s1 := ((s.noteStore a).setBytes (a / 8 * 8) (Word.bytes w)).setUpset a (s.injectMask a)
  if s.injectHits a then s1.setBit R.gshEccInject F.gshEccInject.arm false else s1

/-- Write words from an aligned address on. -/
def State.setWords (s : State) (a : Nat) : List Word → State
  | [] => s
  | w :: l => State.setWords (s.setWord a w) (a + 8) l

/-- Read n words from an aligned address on, as intended. -/
def State.words (s : State) (a n : Nat) : List Word := (List.range n).map fun i => s.word (a + 8 * i)

/-- Any word of n from an address on is uncorrectable. -/
def State.anyUe (s : State) (a n : Nat) : Bool := (List.range n).any fun i => s.isUe (a + 8 * i)

/-! ### What a pitch owns (R281 to R283) -/

/-- Bit of a port in PIT_PORTSp. -/
def portBit (p : Nat) : Nat := if p < 32 then p else p - 32

/-- PIT_PORTSp names the port. -/
def State.namesPort (s : State) (q p : Nat) : Bool :=
  isPort p && decide (s.fld (R.pitPorts q) (47, 0) / 2 ^ portBit p % 2 = 1)

/-- PIT_KEYSp names the key slot. -/
def State.namesKey (s : State) (q k : Nat) : Bool :=
  decide (k < 64) && decide (s.fld (R.pitKeys q) (63, 0) / 2 ^ k % 2 = 1)

/-- Pitch q owns the port: it names it and no lower pitch does (R282). -/
def State.ownsPort (s : State) (q p : Nat) : Bool :=
  decide (q ≤ 8) && s.namesPort q p && (List.range q).all fun l => !s.namesPort l p

/-- Pitch q owns the key slot (R282). -/
def State.ownsKey (s : State) (q k : Nat) : Bool :=
  decide (q ≤ 8) && s.namesKey q k && (List.range q).all fun l => !s.namesKey l k

/-- PIT_PORTSp and PIT_KEYSp after R282, as words. -/
def State.ownPorts (s : State) (q : Nat) : Word :=
  (List.range q).foldl (fun w l => w &&& ~~~s.reg (R.pitPorts l)) (s.reg (R.pitPorts q))
def State.ownKeys (s : State) (q : Nat) : Word :=
  (List.range q).foldl (fun w l => w &&& ~~~s.reg (R.pitKeys l)) (s.reg (R.pitKeys q))

/-- The pitch that owns a port, none when no pitch names it. -/
def State.pitchOfPort (s : State) (p : Nat) : Option Nat := (List.range 9).find? fun q => s.namesPort q p

/-- Half-open ranges overlap. -/
def meets (a b : Nat × Nat) : Bool := decide (a.1 < b.2) && decide (b.1 < a.2)

/-- Half-open range a lies within b. -/
def inside (a b : Nat × Nat) : Bool := decide (b.1 ≤ a.1) && decide (a.2 ≤ b.2)

/-- The region PIT_REGIONp names, in bytes (R321). -/
def State.rawRegion (s : State) (q : Nat) : Nat × Nat :=
  (s.fld (R.pitRegion q) F.pitRegion.base * 65536,
   (s.fld (R.pitRegion q) F.pitRegion.base + s.fld (R.pitRegion q) F.pitRegion.size) * 65536)

/-- The valid regions of pitches 1 to n, in ascending order (R282): within the pool area, overlapping no valid region of
a lower pitch. -/
def State.regionsTo (s : State) : Nat → List (Nat × Nat × Nat)
  | 0 => []
  | n + 1 =>
    let l := State.regionsTo s n
    let r := s.rawRegion (n + 1)
    if r.2 ≤ 0x01000000 ∧ r.1 < r.2 ∧ !l.any (fun x => meets x.2 r) then l ++ [(n + 1, r)] else l

/-- Region of a pitch in bytes, empty where it acts as size 0 (R282); the whole pool area for pitch 0 (R283). -/
def State.region (s : State) (q : Nat) : Nat × Nat :=
  if q = 0 then (0, 0x01000000)
  else match (s.regionsTo 8).find? (fun x => x.1 = q) with
    | some x => x.2
    | none => (0, 0)

/-- The region of pitch q is refused (PIT_STATUSp.bad_region). -/
def State.badRegion (s : State) (q : Nat) : Bool :=
  decide (q ≠ 0) && decide ((s.rawRegion q).1 < (s.rawRegion q).2) && decide (s.region q = (0, 0))

/-- Region of an Awning instance: 32 KiB at base_32k (R235). -/
def State.awnRegion (s : State) (i : Nat) : Nat × Nat :=
  (s.fld (R.awnImg i) F.awnImg.base32k * 32768, s.fld (R.awnImg i) F.awnImg.base32k * 32768 + 32768)

/-- Owning pitch of an Awning instance. -/
def State.awnPitch (s : State) (i : Nat) : Nat := s.fld (R.awnImg i) F.awnImg.pitch

/-- The region of the instance lies outside its pitch's region (AWN_STATUSn.bad_region). -/
def State.awnBadRegion (s : State) (i : Nat) : Bool :=
  !(decide (1 ≤ s.awnPitch i) && decide (s.awnPitch i ≤ 8) && inside (s.awnRegion i) (s.region (s.awnPitch i)))

/-- The instance is enabled and not disabled by its region (R235). -/
def State.awnOn (s : State) (i : Nat) : Bool :=
  decide (i < 4) && s.bit (R.awnImg i) F.awnImg.enable && !s.awnBadRegion i

/-- The enabled instance whose region holds a Groundsheet byte. -/
def State.awnAt (s : State) (a : Nat) : Option Nat :=
  (List.range 4).find? fun i => s.awnOn i && inside (a, a + 1) (s.awnRegion i)

/-- The buffers GSH_BUF_RANGEp names. -/
def State.rawRange (s : State) (q : Nat) : Nat × Nat :=
  (s.fld (R.gshBufRange q) F.gshBufRange.first,
   s.fld (R.gshBufRange q) F.gshBufRange.first + s.fld (R.gshBufRange q) F.gshBufRange.count)

/-- The valid ranges of pitches 0 to n − 1, in ascending order (R261). -/
def State.rangesTo (s : State) : Nat → List (Nat × Nat × Nat)
  | 0 => []
  | n + 1 =>
    let l := State.rangesTo s n
    let r := s.rawRange n
    let bytes := (r.1 * 256, r.2 * 256)
    if inside bytes (s.region n) ∧ r.1 < r.2 ∧ !l.any (fun x => meets x.2 r) ∧
        !(List.range 4).any (fun i => s.awnOn i && meets bytes (s.awnRegion i)) then l ++ [(n, r)] else l

/-- The valid buffer range of a pitch, none where it acts as count 0 (R261). -/
def State.range (s : State) (q : Nat) : Option (Nat × Nat) :=
  ((s.rangesTo 9).find? fun x => x.1 = q).map (·.2)

/-- The range of pitch q is refused (GSH_BUF_STATUSp.bad_range). -/
def State.badRange (s : State) (q : Nat) : Bool :=
  decide ((s.rawRange q).1 < (s.rawRange q).2) && (s.range q).isNone

/-- Buffer b lies in the valid range of pitch q. -/
def State.inRange (s : State) (q b : Nat) : Bool :=
  match s.range q with
  | some r => decide (r.1 ≤ b) && decide (b < r.2)
  | none => false

/-- The pitch whose valid range holds buffer b. -/
def State.bufPitch (s : State) (b : Nat) : Option Nat := (List.range 9).find? fun q => s.inRange q b

/-- FIFO n belongs to a pitch: enabled, and its pitch at most 8 (R269). -/
def State.fifoOn (s : State) (n : Nat) : Bool :=
  decide (n < 64) && s.bit (R.gshFifoCfg n) F.gshFifoCfg.enable && decide (s.fld (R.gshFifoCfg n) F.gshFifoCfg.pitch ≤ 8)

def State.fifoPitch (s : State) (n : Nat) : Nat := s.fld (R.gshFifoCfg n) F.gshFifoCfg.pitch
def State.fifoDir1 (s : State) (n : Nat) : Bool := s.bit (R.gshFifoCfg n) F.gshFifoCfg.dir

/-- hif of the FIFO; with dir 1 it acts as 0. -/
def State.fifoHif (s : State) (n : Nat) : Bool := s.bit (R.gshFifoCfg n) F.gshFifoCfg.hif && !s.fifoDir1 n

/-- depth of the FIFO: 16 to 8,192. -/
def State.fifoDepth (s : State) (n : Nat) : Nat := clamp 16 8192 (s.fld (R.gshFifoCfg n) F.gshFifoCfg.depth)

def State.ownsFifo (s : State) (q n : Nat) : Bool := s.fifoOn n && decide (s.fifoPitch n = q)

/-- FIFO n holds depth packets (R269). -/
def State.fifoFull (s : State) (n : Nat) : Bool := decide (s.fifoDepth n ≤ (s.fifo n).packets.length)

/-- Pitch in use; always for pitch 0 (R321). -/
def State.pitchOn (s : State) (q : Nat) : Bool :=
  decide (q = 0) || (decide (q ≤ 8) && s.bit (R.pitCfg q) F.pitCfg.enable)

/-- The master's pitch: 0 for the privileged masters (R284, R320). -/
def masterPitch (m : Master) : Nat := if m.val < 4 then 0 else m.val - 3

/-- The master of a privileged operand. -/
def PMaster.master (m : PMaster) : Master := ⟨m.val, by omega⟩

/-! ### The buffer pool -/

def State.buf (s : State) (b : Nat) : BufState := SMap.look .free s.bufs b
def State.setBuf (s : State) (b : Nat) (x : BufState) : State := s.setBufs (SMap.put .free s.bufs b x)
def State.setBufList (s : State) (l : List Nat) (x : BufState) : State := s.each l fun s b => s.setBuf b x

/-- The FREE buffers of a pitch (R261). -/
def State.freeBufs (s : State) (q : Nat) : List Nat :=
  match s.range q with
  | none => []
  | some r => ((List.range (r.2 - r.1)).map (· + r.1)).filter fun b => s.buf b = .free

/-- Take one element of a list: the head of a free list, whose order the manual leaves open (notes/assumptions/8.md). -/
def pick (n : Nat) : List Nat → Option Nat
  | [] => none
  | [b] => some b
  | b :: l => some ((b :: l).getD (Config.freeNat n % (l.length + 1)) b)

/-- Take n buffers off a free list, in the order they are taken. -/
def pickMany (seed : Nat) : Nat → List Nat → Option (List Nat)
  | 0, _ => some []
  | n + 1, l =>
    match pick (seed + n) l with
    | none => none
    | some b => (pickMany seed n (l.filter (· ≠ b))).map (b :: ·)

/-- Number of buffers of a packet of n words (R264). -/
def chainLen (n : Nat) : Nat := (n + 30) / 31

/-- The link word (R264). -/
def linkWord (next : Option Nat) : Word :=
  match next with
  | none => 0x10000
  | some b => BitVec.ofNat 64 b

/-- The 32 words of one buffer of a chain: its packet words, unused words (undefined, R264), the link word. -/
def bufWords (seed : Nat) (ws : List Word) (next : Option Nat) : List Word :=
  ws.take 31 ++ ((List.range (31 - ws.length)).map fun i => Config.freeWord (seed + i)) ++ [linkWord next]

/-- Write the words of a packet into its chain (R264). -/
def State.writeChain (s : State) : List Nat → List Word → State
  | [], _ => s
  | b :: l, ws =>
    State.writeChain ((s.setWords (256 * b) (bufWords s.fresh ws l.head?)).skip (31 - ws.length)) l (ws.drop 31)

/-- The words of a packet, from its chain (R264). -/
def State.readChain (s : State) : List Nat → Nat → List Word
  | [], _ => []
  | b :: l, n => s.words (256 * b) (min n 31) ++ State.readChain s l (n - 31)

/-- A word of the packet is uncorrectable (R257). -/
def State.chainUe (s : State) : List Nat → Nat → Bool
  | [], _ => false
  | b :: l, n => s.anyUe (256 * b) (min n 31) || s.isUe (256 * b + 248) || State.chainUe s l (n - 31)

/-- The chain a host has linked from its first buffer: at most `fuel` buffers, up to the one whose last is 1 (R266). -/
def State.walkChain (s : State) : Nat → Nat → List Nat
  | 0, _ => []
  | fuel + 1, b =>
    let w := s.word (256 * b + 248)
    if w.getLsbD 16 then [b] else b :: State.walkChain s fuel (w.toNat % 65536)

/-! ### INT_N and MSI-X -/

/-- A bit of HIF_SPI_INT_MASK whose FIFO is a pitch 0 FIFO with hif 0 that holds a packet (R308). -/
def State.intWanted (s : State) : Bool :=
  (List.range 64).any fun n =>
    (s.reg R.hifSpiIntMask).getLsbD n && s.ownsFifo 0 n && !s.fifoHif n && !(s.fifo n).packets.isEmpty

/-- Drive INT_N (R308). -/
def State.driveInt (s : State) : State :=
  s.setHif { s.hif with spi := { s.hif.spi with intN := !s.intWanted } }

/-- Virtual function p is present (R293). -/
def State.vfOn (s : State) (q : Nat) : Bool :=
  decide (1 ≤ q) && decide (q ≤ 8) && decide (q ≤ s.hif.numVfs) && s.hif.vfEnable && s.bit (R.pitCfg q) F.pitCfg.enable &&
  s.bit (R.pitCfg q) F.pitCfg.pcie && s.hif.pcieUp

/-- The PCIe function of a pitch is present: PF0 for pitch 0 (R293). -/
def State.fnOn (s : State) (q : Nat) : Bool := if q = 0 then s.hif.pcieUp else s.vfOn q

/-- What a word of an MSI-X table reads as before anything has written it: an odd word has the mask bit, bit 32, set
(notes/assumptions/32.md). -/
def msixReset (k : Nat) : Word := if k % 2 = 1 then 0x100000000 else 0

/-- Word k of the MSI-X tables. -/
def State.msixWord (s : State) (k : Nat) : Word := SMap.look (msixReset k) s.hif.msixTab k

/-- The message of a function's vector goes out. -/
def State.msixSend (s : State) (fn vec : Nat) : State :=
  s.emit (.msix fn vec (s.msixWord (128 * fn + 2 * vec)) ((s.msixWord (128 * fn + 2 * vec + 1)).setWidth 32))

/-- Send an MSI-X message of a function's vector, or set its pending bit while it is masked (R298). -/
def State.msi (s : State) (fn vec : Nat) : State :=
  if !s.fnOn fn then s
  else if (s.msixWord (128 * fn + 2 * vec + 1)).getLsbD 32 then
    s.setHif { s.hif with msixPend := SMap.put false s.hif.msixPend (64 * fn + vec) true }
  else s.msixSend fn vec

/-- The message that follows a commit (no ring) or a delivery (ring), when irq is 1 (R298). -/
def State.fifoMsi (s : State) (n : Nat) (ring : Bool) : State :=
  if s.bit (R.hifRing n) F.hifRing.irq ∧ s.bit (R.hifRing n) F.hifRing.ring = ring then
    s.msi (s.fifoPitch n) (s.fld (R.hifRing n) F.hifRing.vector)
  else s

/-! ### Commits, drops and held packets (R265 to R273) -/

/-- Put the sequence number into word 0 (R265). -/
def seqWords (seq : Nat) : List Word → List Word
  | [] => []
  | w :: l => Word.put w (31, 0) seq :: l

/-- Take the next sequence number (R265, R278). -/
def State.nextSeq (s : State) (n : Nat) : Nat := s.fld (R.gshFifoSeq n) F.gshFifoSeq.seq
def State.takeSeq (s : State) (n : Nat) : State := s.bump (R.gshFifoSeq n) F.gshFifoSeq.seq

/-- Room for a packet of n words in the FIFO and its pitch's free list. -/
def State.chainFor (s : State) (n len : Nat) : Option (List Nat) :=
  if s.fifoFull n then none else pickMany s.fresh (chainLen len) (s.freeBufs (s.fifoPitch n))

/-- The descriptor of a packet that is appended now. -/
def State.descriptor (s : State) (chain : List Nat) (len : Nat) : Packet :=
  { chain := chain, length := len, at_ := s.now, cycle := s.tick.cycle }

/-- Another cycle of the tick, in which hosts write or HIF pushes. -/
def State.newCycle (s : State) : State := s.setTick { s.tick with cycle := s.tick.cycle + 1 }

/-- Write the words into the chain, make it QUEUED and append the descriptor (R265). -/
def State.append (s : State) (n : Nat) (chain : List Nat) (ws : List Word) : State :=
  let s1 := ((s.skip chain.length).writeChain chain ws).setBufList chain .queued
  let s2 := s1.setFifo n { s1.fifo n with packets := (s1.fifo n).packets ++ [s.descriptor chain ws.length] }
  (s2.fifoMsi n false).driveInt

/-- A packet is dropped: counted, overrun set (R269). -/
def State.dropPacket (s : State) (n : Nat) : State :=
  (s.bump (R.gshFifoStatus n) F.gshFifoStatus.dropped).setBit (R.gshFifoStatus n) F.gshFifoStatus.overrun true

/-- A DN4810 producer commits a packet other than a REQUEST_DONE (R265, R269, R270). -/
def State.commit (s : State) (n : Nat) (ws : List Word) : State :=
  if !s.fifoOn n || s.fifoDir1 n then s
  else
    let ws' := seqWords (s.nextSeq n) ws
    let s1 := s.takeSeq n
    if !(s.fifo n).held.isEmpty then s1.dropPacket n
    else match s1.chainFor n ws.length with
      | none => s1.dropPacket n
      | some c => s1.append n c ws'

/-- A REQUEST_DONE is committed, or held with its sequence number taken (R270). -/
def State.commitDone (s : State) (n : Nat) (ws : List Word) : State :=
  if !s.fifoOn n || s.fifoDir1 n then s
  else
    let ws' := seqWords (s.nextSeq n) ws
    let s1 := s.takeSeq n
    if !(s.fifo n).held.isEmpty then s1.setFifo n { s1.fifo n with held := (s1.fifo n).held ++ [ws'] }
    else match s1.chainFor n ws.length with
      | none => s1.setFifo n { s1.fifo n with held := (s1.fifo n).held ++ [ws'] }
      | some c => s1.append n c ws'

/-- Remove the head packet; its buffers take a state (R268). -/
def State.popHead (s : State) (n : Nat) (st : BufState) : State :=
  match (s.fifo n).packets with
  | [] => s
  | p :: l => ((s.setFifo n { s.fifo n with packets := l }).setBufList p.chain st).driveInt

/-! ### Messages (R309, R316 to R319) -/

/-- Word of [63:56], [55:48], [47:32] and [31:0]. -/
def word4 (a b c d : Nat) : Word :=
  BitVec.ofNat 64 (a % 256 * 2 ^ 56 + b % 256 * 2 ^ 48 + c % 65536 * 2 ^ 32 + d % 2 ^ 32)

/-- Two 32-bit halves, upper first. -/
def word2 (hi lo : Nat) : Word := BitVec.ofNat 64 (hi % 2 ^ 32 * 2 ^ 32 + lo % 2 ^ 32)

/-- A packet of the DN4810: header of R309 with the current epoch, then the body. -/
def State.packet (s : State) (type pitch : Nat) (tag : Nat) (body : List Word) : List Word :=
  word4 type pitch (body.length + 2) 0 :: word2 s.clock.epoch.toNat tag :: body

/-- Code of a status (R432). -/
def Status.code : Status → Nat
  | .ok => 0x00 | .noTag => 0x01 | .timingSkew => 0x02 | .crcFail => 0x03 | .badLength => 0x04 | .decodeFail => 0x05
  | .tagError => 0x06 | .notErased => 0x07 | .authFail => 0x08 | .lockedOut => 0x09 | .collisionUnresolved => 0x0A
  | .abandoned => 0x10 | .inhibited => 0x11 | .headAbsent => 0x12 | .coexDenied => 0x13 | .txTimeout => 0x14
  | .sliceSuspect => 0x15 | .tooLong => 0x16 | .badParam => 0x20 | .queueFull => 0x21

/-- An EVENT packet to a FIFO of a pitch (R319). -/
def State.event (s : State) (fifo pitch port : Nat) (st : Status) (reason detail : Nat) (data : List Word) : State :=
  s.commit fifo (s.packet 0x30 pitch 0 (word4 port st.code reason detail :: BitVec.ofNat 64 s.now :: data))

/-- Event FIFO of a pitch (SNG_PT_CFGp), none when the pitch does not own it or it has dir 1 (R159, R344). -/
def State.eventFifo (s : State) (q : Nat) : Option Nat :=
  let n := s.fld (R.sngPtCfg q) F.sngPtCfg.eventFifo
  if s.ownsFifo q n ∧ !s.fifoDir1 n then some n else none

/-- An EVENT packet to a pitch's event FIFO. -/
def State.pitchEvent (s : State) (q port : Nat) (st : Status) (reason detail : Nat) (data : List Word) : State :=
  match s.eventFifo q with
  | some n => s.event n q port st reason detail data
  | none => s

/-- A HEALTH packet to pitch 0's event FIFO (R344). Before READY, while RSTOUT_N is low (R356), it waits for the READY packet
(R319, notes/assumptions/50.md). -/
def State.health (s : State) (port : Nat) (st : Status) (reason detail : Nat) (data : List Word) : State :=
  if !s.boot.rstoutN then
    let x : EarlyHealth := { port := port, status := st, reason := reason, detail := detail, data := data }
    s.setHif { s.hif with early := s.hif.early ++ [x] }
  else match s.eventFifo 0 with
  | some n => s.commit n (s.packet 0x31 0 0 (word4 port st.code reason detail :: BitVec.ofNat 64 s.now :: data))
  | none => s

/-- The done FIFO of a pitch, none when requests are disabled (R321, PIT_CFGp). -/
def State.doneFifo (s : State) (q : Nat) : Option Nat :=
  let n := s.fld (R.pitCfg q) F.pitCfg.doneFifo
  if s.ownsFifo q n ∧ !s.fifoDir1 n then some n else none

/-! ### Violation records (R289, R290) -/

/-- Write a violation record for pitch 0. -/
def State.violation (s : State) (q : Nat) (m : Nat) (kind detail : Nat) : State :=
  let i := s.fld R.pitViolIdx F.pitViolIdx.index % 64
  let s1 := s.setReg (R.pitViolRec i 0) (BitVec.ofNat 64 s.now)
  let s2 := s1.setReg (R.pitViolRec i 1)
    (BitVec.ofNat 64 (q % 16 * 2 ^ 60 + m % 16 * 2 ^ 56 + kind % 256 * 2 ^ 48 + detail % 2 ^ 48))
  let s3 := s2.bump R.pitViolIdx F.pitViolIdx.index
  s3.bumpSat (R.pitStatus q) F.pitStatus.violations 1

/-! ### Trace (R393 to R396) -/

/-- Write a record to the ring (R393). -/
def State.traceRing (s : State) (t : TraceRec) : State :=
  if s.bit R.trlWptr F.trlWptr.stopped then s
  else
    let i := s.fld R.trlWptr F.trlWptr.next
    let s1 := s.setWords (0x01F00000 + 16 * i) [t.w0, t.w1]
    if i < 65535 then s1.setFld R.trlWptr F.trlWptr.next (i + 1)
    else if s.bit R.trlCfg F.trlCfg.stopFull then s1.setBit R.trlWptr F.trlWptr.stopped true
    else (s1.setFld R.trlWptr F.trlWptr.next 0).bump R.trlWptr F.trlWptr.wraps

def traceRec (now type src detail : Nat) : TraceRec :=
  { w0 := BitVec.ofNat 64 now
    w1 := BitVec.ofNat 64 (type % 256 * 2 ^ 56 + src % 256 * 2 ^ 48 + detail % 2 ^ 48)
    rung := false }

/-- Place of a record among those of its tick (R395): by type, a LOST record before the record that it precedes
(notes/assumptions/98.md). -/
def TraceRec.place (t : TraceRec) : Nat := if Word.get t.w1 (63, 56) = 0x0B then 0 else Word.get t.w1 (63, 56)

/-- A record takes its place in the buffer: after those of earlier ticks, in type order among those of its own (R395). -/
def traceIn (t : TraceRec) : List TraceRec → List TraceRec
  | [] => [t]
  | x :: l => if x.w0 = t.w0 ∧ !x.rung ∧ t.place < x.place then t :: x :: l else x :: traceIn t l

/-- A record enters the buffer when room is left; one that finds it full is dropped and counted (R395). -/
def State.tracePush (s : State) (t : TraceRec) : State :=
  if 64 ≤ s.trl.buf.length then
    (s.setTrl { s.trl with lost := s.trl.lost + 1 }).bumpSat R.trlLost F.trlLost.count 1
  else s.setTrl { s.trl with buf := traceIn t s.trl.buf }

/-- A LOST record precedes the next record when room has returned (R395). -/
def State.traceLost (s : State) : State :=
  if s.trl.lost = 0 ∨ 64 ≤ s.trl.buf.length then s
  else (s.setTrl { s.trl with lost := 0 }).tracePush (traceRec s.now 0x0B 0xFF s.trl.lost)

/-- The ring takes the records that it has not taken yet, at the end of a tick; with TRL_CFG.port a record stays in the buffer
until the port has taken it too (R395, R396). -/
def State.traceFlow (s : State) : State :=
  let s1 := s.each (s.trl.buf.filter fun t => !t.rung) State.traceRing
  s1.setTrl { s1.trl with
    buf := if s.bit R.trlCfg F.trlCfg.port then s.trl.buf.map fun t => { t with rung := true } else [] }

/-- A trace record of an event (R393, R394), from READY on and not in a low-power state (R397). READY and LOST records are always
written while trace is enabled. -/
def State.trace (s : State) (type src detail : Nat) : State :=
  if s.up ∧ s.boot.applied ∧ s.bit R.trlCfg F.trlCfg.enable ∧
      (type = 10 ∨ type = 11 ∨ s.fld R.trlCfg F.trlCfg.mask / 2 ^ type % 2 = 1) then
    s.traceLost.tracePush (traceRec s.now type src detail)
  else s

end Sys2Proof.Machine
end

