-- ==== Sys2Proof/Machine/Balls.lean ====
section
/-! DEFINITION. The balls GP0 to GP63 and HOST_WAKE_N: the level of each, in operation (R391, R392), during a reset sequence
(R356, R420, R421) and under boundary scan (R399, R400). -/

namespace Sys2Proof.Machine

/-- The field or carrier of the slice is on or moving. -/
def SliceState.hot (x : SliceState) : Bool :=
  match x with
  | .rampUp => true | .field => true | .rampDown => true | .uRampUp => true | .carrier => true | .uRampDown => true
  | .hop => true | _ => false

/-- Some slice is in a state that FIELD_ACTIVE shows. -/
def State.fieldActive (s : State) : Bool := s.slices.any fun x => x.2.st.hot || decide (x.2.st = .ping)

/-- The reset sequence has not reached step 7, where the balls take the functions of the image: cold or warm (R356). -/
def State.bootBalls (s : State) : Option Bool :=
  match s.boot.seq with
  | some q => if q.step < 7 then some q.cold else none
  | none => none

/-- Level of ball n when the DN4810 does not drive it: what the outside was seen to give, else its pull; without
either it is free. After a cold reset every ball has its weak pull-down (R356). -/
def State.ballOpen (s : State) (n : Nat) : Bool :=
  match SMap.find s.cab.ext n with
  | some b => b
  | none =>
    if s.bootBalls = some true then false
    else match s.cfg (R.cabGpioCfg n) F.cabGpioCfg.pull with
      | 1 => false
      | 2 => true
      | _ => decide (Config.freeNat (s.fresh + n) % 2 = 1)

/-- Function of ball n: a write of CAB_GPIOn_CFG takes effect one tick later (R392). -/
def State.ballFunc (s : State) (n : Nat) : Nat := s.cfg (R.cabGpioCfg n) F.cabGpioCfg.func

/-- Cells of ball n in the boundary register: input, output, enable, after those of CX_GNT, CX_PRI and CX_REQ (R399). -/
def gpCell (n : Nat) : Nat := 9 + 3 * n

/-- What the boundary register drives on the ball with output cell `out` and the enable cell after it: none where it leaves the ball
open, and none at all under an instruction that does not have the balls (R398). -/
def State.scanDrive (s : State) (out : Nat) : Option (Option Bool) :=
  match s.tap.ir with
  | .extest | .extestPulse | .extestTrain | .clamp =>
    some (if s.tap.boundary.getLsbD (out + 1) then some (s.tap.boundary.getLsbD out) else none)
  | .highz => some none
  | _ => none

/-- The level that boundary scan gives a ball, `open_` where it leaves it open; none under the other instructions. -/
def State.scanLevel (s : State) (out : Nat) (open_ : Bool) : Option Bool := (s.scanDrive out).map fun d => d.getD open_

/-- What the boundary register makes of ball n under an instruction that has the balls, none under the others (R398). -/
def State.ballScan (s : State) (n : Nat) : Option Bool := s.scanLevel (gpCell n + 1) (s.ballOpen n)

/-- The level that the DN4810 itself drives on ball n, none where it leaves the ball to the outside and its pull. -/
def State.ballDriven (s : State) (n : Nat) : Option Bool :=
  let out := (s.reg R.cabGpioOut).getLsbD n
  if s.bootBalls = some true then none
  else match s.ballFunc n with
    | 1 => some out
    | 2 => if out then none else some false
    | 3 => some (if s.bootBalls.isSome then SMap.look false s.cab.held n else decide (s.now < s.cab.pulseUntil))
    | 4 => some (if s.bootBalls.isSome then SMap.look false s.cab.held n else s.fieldActive)
    | 5 => some (if s.bootBalls.isSome then SMap.look false s.cab.held n else s.inhibited)
    | _ => none

/-- Level of ball n. -/
def State.ballLevel (s : State) (n : Nat) : Bool :=
  match s.ballScan n with
  | some b => b
  | none => (s.ballDriven n).getD (s.ballOpen n)

/-- The levels that a warm reset holds on the balls whose function follows the logic (R356); a restart of the sequence holds them
on. -/
def State.heldBalls (s : State) : SMap Bool :=
  ((List.range 64).filter fun n => decide (s.ballFunc n ∈ ([3, 4, 5] : List Nat))).foldl
    (fun m n => SMap.put false m n ((s.ballDriven n).getD false)) []

/-- HOST_WAKE_N, open-drain from the always-on domain: low while LNT_STATUS.wake_card is 1, also in a reset sequence (R239, R356,
R419). -/
def State.hostWakeN (s : State) : Bool := !s.bit R.lntStatus F.lntStatus.wakeCard

end Sys2Proof.Machine
end

