-- ==== Sys2Proof/Machine/Pings.lean ====
section
/-! DEFINITION. The words of Lantern (R240, R243), and what a ping takes of them when it starts. -/

namespace Sys2Proof.Machine

/-! ### The registers, or their always-on copies (R240) -/

/-- Word of LNT: 0 LNT_CFG, 1 to 4 LNT_PORTn, 5 to 8 LNT_BASEn, 9 to 12 LNT_LASTn. -/
def lntReg (k : Nat) : Nat :=
  if k = 0 then R.lntCfg else if k < 5 then R.lntPort (k - 1) else if k < 9 then R.lntBase (k - 5) else R.lntLast (k - 9)

/-- Lantern runs from the always-on copies. -/
def State.watching (s : State) : Bool := decide (s.boot.power = .watch)

def State.lnt (s : State) (k : Nat) : Word := if s.watching then s.lantern.aon.getD k 0 else s.reg (lntReg k)

def State.setLnt (s : State) (k : Nat) (w : Word) : State :=
  if s.watching then s.setLantern { s.lantern with aon := s.lantern.aon.set k w } else s.setReg (lntReg k) w

/-- Port of an entry, none when it is disabled. -/
def State.lntPort (s : State) (e : Nat) : Option Nat :=
  let p := Word.get (s.lnt (1 + e)) F.lntPort.port
  if p < 32 then some p else none

def State.lntNear (s : State) (e : Nat) : Bool := decide (Word.get (s.lnt (9 + e)) F.lntLast.near = 1)

/-- The entry whose port is that of a stake. -/
def State.entryOf (s : State) (p : Nat) : Option Nat := (List.range 4).find? fun e => s.lntPort e = some p

/-- A ping of an entry starts: it takes the words as they stand, of those written in this tick the ones from before the write
(R242, R243). `at_` is the tick of the clock that its burst is counted on. -/
def State.latchPing (s : State) (e at_ : Nat) : State :=
  let word (k : Nat) : Word := if s.watching then s.lnt k else s.cfgReg (lntReg k)
  s.setLantern { s.lantern with
    pings := SMap.ins e { cfg := word 0, port := word (1 + e), base := word (5 + e), at_ := at_ } s.lantern.pings }

end Sys2Proof.Machine
end

