-- ==== Sys2Proof/Machine/Operands.lean ====
section
/-! DEFINITION. The operand forms of the plan: its header, the four words of a stake (R34 to R39), the words of a
parameter block (R41), and the template table (R44). -/

namespace Sys2Proof.Machine

/-- First Groundsheet byte of a plan bank (R32): false for A, true for B. -/
def bankBase (b : Bool) : Nat := if b then 0x01D00000 else 0x01C00000

/-- The active bank (R70). -/
def State.activeBank (s : State) : Bool := s.bit R.schStatus F.schStatus.activeBank

def Stake.start (k : Stake) : Nat := Word.get k.w0 (63, 24)
def Stake.dur (k : Stake) : Nat := Word.get k.w0 (23, 0)
def Stake.template (k : Stake) : Nat := Word.get k.w1 (63, 56)
def Stake.pitch (k : Stake) : Nat := Word.get k.w1 (55, 48)
def Stake.port (k : Stake) : Nat := Word.get k.w1 (47, 40)
def Stake.flags (k : Stake) : Nat := Word.get k.w1 (39, 32)
def Stake.param (k : Stake) : Nat := Word.get k.w1 (31, 0)
def Stake.decoder (k : Stake) : Nat := Word.get k.w2 (49, 48)
def Stake.chkMask (k : Stake) : Nat := Word.get k.w2 (47, 0)
def Stake.coexClass (k : Stake) : Nat := Word.get k.w3 (51, 48)
def Stake.denyWait (k : Stake) : Bool := decide (Word.get k.w3 (52, 52) = 1)
/-- The lead time in ticks (R39). -/
def Stake.lead (k : Stake) : Nat := 400 * Word.get k.w3 (63, 56)
def Stake.wheelTarget (k : Stake) : Nat := Word.get k.w3 (47, 43)
def Stake.wheelCount (k : Stake) : Nat := Word.get k.w3 (42, 32)
def Stake.guard (k : Stake) : Nat := Word.get k.w3 (31, 16)
def Stake.power (k : Stake) : Nat := Word.get k.w3 (15, 0)

/-- The flags of R36. -/
def Stake.hold (k : Stake) : Bool := decide (k.flags % 2 = 1)
def Stake.resumable (k : Stake) : Bool := decide (k.flags / 2 % 2 = 1)
def Stake.group (k : Stake) : Bool := decide (k.flags / 4 % 2 = 1)
def Stake.reportEmpty (k : Stake) : Bool := decide (k.flags / 8 % 2 = 1)

/-- The ports a stake claims (R36, R80). -/
def Stake.ports (k : Stake) : List Nat :=
  if k.group then [k.port, k.port + 1, k.port + 2, k.port + 3] else [k.port]

/-- Word i of the plan in a bank. -/
def State.planWord (s : State) (b : Bool) (i : Nat) : Word := s.word (bankBase b + 8 * i)

def State.planCount (s : State) (b : Bool) : Nat := Word.get (s.planWord b 0) (15, 0)
def State.planCycle (s : State) (b : Bool) : Nat := Word.get (s.planWord b 1) (31, 0)
def State.planLen (s : State) (b : Bool) : Nat := Word.get (s.planWord b 2) (63, 32)
def State.planId (s : State) (b : Bool) : Nat := Word.get (s.planWord b 2) (31, 0)

/-- Stake i of a bank (R34). -/
def State.stakeAt (s : State) (b : Bool) (i : Nat) : Stake :=
  { idx := i, w0 := s.planWord b (4 + 4 * i), w1 := s.planWord b (5 + 4 * i), w2 := s.planWord b (6 + 4 * i)
    w3 := s.planWord b (7 + 4 * i) }

/-- The stakes of a bank in index order. -/
def State.stakes (s : State) (b : Bool) : List Stake := (List.range (s.planCount b)).map (s.stakeAt b)

/-- The template has no parameter block (R47). -/
def blockless (t : Nat) : Bool := decide (t = 0x20) || decide (t = 0x3F)

/-- The parameter block of a stake (R41), empty where the template has none. -/
def State.blockOf (s : State) (b : Bool) (k : Stake) : List Word :=
  if blockless k.template then []
  else (List.range (Word.get (s.planWord b k.param) (63, 48))).map fun i => s.planWord b (k.param + i)

/-- A field of word i of a block. -/
def bf (b : List Word) (i hi lo : Nat) : Nat := Word.get (b.getD i 0) (hi, lo)

/-- The common words of R41. -/
def blkFifo (b : List Word) : Nat := bf b 0 39 32
def blkInner (b : List Word) : Nat := bf b 0 15 8
def blkTrig (b : List Word) : Nat := bf b 0 3 0
def blkU (b : List Word) : Nat := bf b 1 23 0

/-- The template whose work a block describes: the inner one of TRIGGER_INV (R41). -/
def innerOf (t : Nat) (b : List Word) : Nat := if t = 0x30 then blkInner b else t

/-- HF inventory templates, whose blocks share R78. -/
def hfTemplate (t : Nat) : Bool :=
  decide (t ∈ ([0x01, 0x02, 0x03, 0x04, 0x05, 0x08, 0x09] : List Nat))
def uhfTemplate (t : Nat) : Bool := decide (t ∈ ([0x10, 0x11, 0x12] : List Nat))

/-- Templates that raise a field (R49, HOLD). -/
def raisesField (t : Nat) : Bool :=
  decide (t ∈ ([0x01, 0x02, 0x03, 0x04, 0x05, 0x08, 0x09, 0x10, 0x11, 0x30] : List Nat))

/-- R44: a template and a port it is allowed on. -/
def templateAllows (t p : Nat) : Bool :=
  if t ∈ ([0x01, 0x02, 0x03, 0x04, 0x05, 0x08, 0x09, 0x0A, 0x0B] : List Nat) then isHfPort p
  else if t ∈ ([0x10, 0x11, 0x12] : List Nat) then isUhfPort p
  else if t = 0x20 then decide (p = 32) || decide (p = 80)
  else if t ∈ ([0x21, 0x30, 0x3F] : List Nat) then isPort p
  else false

/-- R41: an inner template, and the ports R44 gives it. -/
def innerAllows (t p : Nat) : Bool :=
  decide (t ∈ ([0x01, 0x02, 0x03, 0x04, 0x05, 0x08, 0x10] : List Nat)) && templateAllows t p

/-- The ramp of a block, in ticks: 40 r (R44). -/
def blkRamp (t : Nat) (b : List Word) : Nat := 40 * (if uhfTemplate t then bf b 2 55 48 else bf b 2 47 40)

/-- The fixed length of CAL_SLICE and HEAD_CHECK (R44). -/
def fixedLen (t p : Nat) : Nat :=
  if t = 0x20 then (if p = 32 then 164000 else 404000) else (if isHfPort p then 2400 else 8000)

/-- The nominal front F of R44 with the field off, in ticks (`t` the inner template). -/
def frontOf (t : Nat) (b : List Word) (group : Bool) : Nat :=
  let g := if group then 400 else 0
  if t = 0x01 ∨ t = 0x08 then blkRamp t b + 800 + 12000 + g
  else if t = 0x02 ∨ t = 0x03 ∨ t = 0x05 then blkRamp t b + 800 + 204000 + g
  else if t = 0x04 then blkRamp t b + 800 + 40000 + g
  else if t = 0x0A then 200
  else if t = 0x10 ∨ t = 0x11 then 3800 + 1200 + blkRamp t b + 800
  else if t = 0x12 then 3800 + 400
  else 0

/-- The tail T of R44 and R46: with FIELD_HOLD at its end 248, with RESUMABLE 80 more. -/
def tailOf (t : Nat) (b : List Word) (hold resumable : Bool) : Nat :=
  (if hold then 248
   else if hfTemplate t then blkRamp t b + 248
   else if t = 0x10 ∨ t = 0x11 then blkRamp t b + 200 + 248
   else if t = 0x12 then 200 + 248
   else if t = 0x0A ∨ t = 0x0B then 248
   else 0) + (if resumable then 80 else 0)

/-- Front of a host request by its message type (R44, row 0x09): 12,000 for Krovrel, 204,000 for ISO/IEC 14443 and
18092, 40,000 for ISO/IEC 15693. -/
def requestGuard (type proto : Nat) : Nat :=
  if type = 0x01 then 12000 else if proto = 4 then 40000 else 204000

end Sys2Proof.Machine
end

