-- ==== Sys2Proof/Machine/Checker.lean ====
section
/-! DEFINITION. The plan checker of R49 to R51 and R53: two passes over a bank, the first failure with its code, stake
and offset, and the peak window of a plan that passes. -/

namespace Sys2Proof.Machine

/-- A result of the checker: code, stake index, offset (R50). -/
structure Verdict where
  code : Nat
  stake : Nat
  offset : Nat
  deriving DecidableEq, Repr

/-- A used field within its range. -/
def within (lo hi v : Nat) : Bool := decide (lo ≤ v) && decide (v ≤ hi)

/-! ### Pass 1: the header (codes 0x01 to 0x03) -/

/-- The code of the header. -/
def State.headerCode (s : State) (b : Bool) : Nat :=
  let w0 := s.planWord b 0
  let w1 := s.planWord b 1
  let n := s.planCount b
  let len := s.planLen b
  let c := s.planCycle b
  if Word.get w0 (63, 32) ≠ 0x53504C4E ∨ Word.get w0 (31, 16) ≠ 1 ∨ Word.get w1 (63, 32) ≠ 0 ∨ s.planWord b 3 ≠ 0 ∨
      131072 < len then 0x01
  else if !within 40000 40000000 c ∨ c % 400 ≠ 0 then 0x02
  else if n = 0 ∨ 8192 < n ∨ len < 4 * n + 4 then 0x03
  else 0

/-! ### Pass 1: parameter blocks (code 0x0A) -/

/-- R78 and R97: the modulation index of a protocol of R150. -/
def modOk (proto m : Nat) : Bool :=
  if proto = 2 then decide (m = 0xFF)
  else if proto = 3 then within 16 28 m
  else if proto = 4 then decide (m = 20) || decide (m = 0xFF)
  else if proto = 5 then within 16 60 m
  else within 16 60 m || decide (m = 0xFF)

/-- R78: the words 2 to 7 of an HF block. `rates` is false for 0x09 (R435). -/
def hfBlockOk (t : Nat) (group : Bool) (b : List Word) : Bool :=
  within 50 1500 (bf b 2 63 48) && within 5 200 (bf b 2 47 40) &&
  modOk (if 0x02 ≤ t ∧ t ≤ 0x05 then t else 1) (bf b 2 39 32) && decide (bf b 2 23 18 = 0) &&
  within 7 4096 (bf b 2 15 0) && within 4 8192 (bf b 3 63 48) && within 64 16777215 (bf b 3 47 24) &&
  within 6 30 (bf b 3 15 11) && (if group then within 0 4 (bf b 3 10 8) else decide (bf b 3 10 8 = 0)) &&
  decide (bf b 3 7 6 ≠ 3) && decide (bf b 3 5 0 = 0) &&
  (if group then
     within 1 4 (bf b 4 63 56) && decide (bf b 5 63 56 = 0) && decide (bf b 6 63 56 = 0) &&
     decide (bf b 7 63 56 = 0) &&
     (List.range 4).all fun i => decide (i < bf b 4 63 56) || decide (bf b (4 + i) 55 0 = 0)
   else (List.range 4).all fun i => decide (b.getD (4 + i) 0 = 0)) &&
  -- R79 and R105: rate codes
  (if t = 0x02 ∨ t = 0x03 then within 0 3 (bf b 2 31 28) && within 0 3 (bf b 2 27 24)
   else if t = 0x04 then within 0 1 (bf b 2 31 28) && within 0 3 (bf b 2 27 24)
   else if t = 0x05 then within 1 2 (bf b 2 31 28) && decide (bf b 2 27 24 = bf b 2 31 28)
   else if t = 0x01 ∨ t = 0x08 then
     decide (bf b 3 47 24 = 2080) && decide (bf b 2 39 32 = 0xFF) && within 0 1 (bf b 2 31 28) &&
     decide (bf b 2 27 24 = if t = 0x08 then 1 else 0)
   else true)

/-- A mask word has no bit at or above its length. -/
def maskOk (len : Nat) (w : Word) : Bool := decide (w.toNat < 2 ^ len)

/-- R131 and R184: words 8 to 10 of a Krovrel block; `wide` for template 0x08. -/
def krovrelOk (s : State) (pitch : Nat) (wide : Bool) (b : List Word) : Bool :=
  let action := bf b 8 47 40
  let keyed := if wide then decide (action = 1) else decide (2 ≤ action)
  within 0 1 (bf b 8 63 56) && decide (bf b 8 48 48 = 0) && decide (bf b 8 5 0 = 0) &&
  (if wide then within 0 1 action && within 1 16 (bf b 8 20 16) && decide (bf b 8 23 21 = 0) &&
      decide (bf b 8 7 6 = 0)
   else within 0 3 action &&
      (if action = 0 then decide (bf b 8 39 24 = 0) && decide (bf b 8 23 16 = 0) else within 1 16 (bf b 8 23 16)) &&
      (decide (action = 3) || decide (bf b 8 7 6 = 0))) &&
  (if keyed then decide (bf b 8 15 8 < 64) && s.ownsKey pitch (bf b 8 15 8) else decide (bf b 8 15 8 = 0)) &&
  within 0 64 (bf b 9 47 40) && decide (bf b 9 39 0 = 0) && maskOk (bf b 9 47 40) (b.getD 10 0)

/-- R184 and R185: word 11 of a Wide Reply block, against the stake's claims. -/
def wideWordOk (k : Stake) (b : List Word) : Bool :=
  within 1 16 (bf b 11 63 59) && within 0 47 (bf b 11 54 49) && within 0 47 (bf b 11 48 43) &&
  decide (bf b 11 42 0 = 0) && decide (k.decoder ≠ 0) && decide (k.wheelTarget = 18) && decide (1 ≤ k.wheelCount) &&
  decide (k.chkMask / 2 ^ bf b 11 54 49 % 2 = 1) && decide (k.chkMask / 2 ^ bf b 11 48 43 % 2 = 1) &&
  decide (bf b 11 54 49 ≠ bf b 11 48 43) && decide (bf b 3 7 6 = 0)

/-- R145: words 8 to 11 of the blocks of 0x02 to 0x05. -/
def isoOk (t : Nat) (b : List Word) : Bool :=
  let action := bf b 8 63 56
  let used (c : Bool) (ok : Bool) (v : Nat) : Bool := if c then ok else decide (v = 0)
  within 0 1 action && !(decide (t = 0x04) && decide (action = 1)) &&
  used (decide (t = 0x02) || decide (t = 0x03)) true (bf b 8 55 55) &&
  (if t = 0x03 ∨ t = 0x05 then within 0 4 (bf b 8 54 52)
   else if t = 0x04 then decide (bf b 8 54 52 = 0) || decide (bf b 8 54 52 = 4) else decide (bf b 8 54 52 = 0)) &&
  used (decide (t = 0x03) || decide (t = 0x04)) true (bf b 8 51 44) &&
  used (decide (t = 0x03) || decide (t = 0x04)) true (bf b 8 43 43) &&
  used (decide (t = 0x04)) (within 0 60 (bf b 8 42 36)) (bf b 8 42 36) &&
  used (decide (t = 0x02) && decide (action = 1)) (within 0 8 (bf b 8 35 32)) (bf b 8 35 32) &&
  used ((decide (t = 0x02) || decide (t = 0x03)) && decide (action = 1)) (within 0 14 (bf b 8 31 28)) (bf b 8 31 28) &&
  used (decide (t = 0x05)) true (bf b 8 27 12) && used (decide (t = 0x05)) (within 0 2 (bf b 8 11 4)) (bf b 8 11 4) &&
  decide (bf b 8 3 0 = 0) && (if t = 0x04 then maskOk (bf b 8 42 36) (b.getD 9 0) else decide (b.getD 9 0 = 0)) &&
  decide (b.getD 10 0 = 0) && decide (b.getD 11 0 = 0)

/-- R216: RTcal in units of 6.25 ns and the rounded TRcal in units of 25 ns. -/
def rtcal4 (tari data1 : Nat) : Nat := (if tari = 0 then 250 else if tari = 1 then 500 else 1000) * (10 + data1)
def trcal (dr blf : Nat) : Nat :=
  if dr = 0 then (2 * 320000 + blf) / (2 * blf) else (2 * 2560000 + 3 * blf) / (6 * blf)

/-- R216: the rounded TRcal lies within 1.1 to 3 times RTcal. -/
def trcalOk (b : List Word) : Bool :=
  let r := rtcal4 (bf b 2 47 46) (bf b 2 45 44)
  let t := trcal (bf b 2 41 41) (bf b 2 39 30)
  decide (11 * r ≤ 40 * t) && decide (4 * t ≤ 3 * r)

/-- Length of channel table t (R193). -/
def State.chtLen (s : State) (t : Nat) : Nat := min 64 (s.fld R.uhaChtLen (8 * t + 6, 8 * t))

/-- R193: a table a stake may name. -/
def State.tableOk (s : State) (t : Nat) : Bool :=
  decide (s.chtLen t ≠ 0) && (List.range (s.chtLen t)).all fun i => decide (s.fld (R.uhaCht t i) F.uhaCht.ch ≤ 4800)

/-- R217: the blocks of 0x10, 0x11 and 0x12 (`t` the inner template). -/
def uhfBlockOk (s : State) (t : Nat) (k : Stake) (b : List Word) : Bool :=
  let listen := decide (t = 0x12)
  let inv := decide (t = 0x10)
  let zero (i hi lo : Nat) : Bool := decide (bf b i hi lo = 0)
  let hop := bf b 4 60 59
  let ext := s.bit (R.uhaPaCfg (uhfIdx k.port)) F.uhaPaCfg.ext
  -- word 2
  (if listen then zero 2 63 56 && zero 2 55 48 && zero 2 40 40 && zero 2 29 29
   else within 0 (if ext then 180 else 132) (bf b 2 63 56) && within 2 40 (bf b 2 55 48)) &&
  decide (bf b 2 47 46 ≠ 3) && decide (bf b 2 45 44 ≠ 3) && within 40 640 (bf b 2 39 30) && zero 2 28 0 && trcalOk b &&
  -- word 3
  (if listen then decide (b.getD 3 0 = 0)
   else within 1 4000 (bf b 3 63 48) && within 1 8000 (bf b 3 47 32) && within 1 1000 (bf b 3 31 16) &&
     within 1 1000 (bf b 3 15 0)) &&
  -- word 4
  s.tableOk (bf b 4 63 61) && decide (hop ≠ 3) &&
  (if hop = 0 then decide (bf b 4 58 53 < s.chtLen (bf b 4 63 61)) else zero 4 58 53) && zero 4 52 48 &&
  (if listen ∨ hop = 0 then zero 4 47 32 else within 1 4000 (bf b 4 47 32)) && decide (bf b 4 31 30 ≠ 3) &&
  (if listen then zero 4 29 24
   else within 0 47 (bf b 4 29 24) && decide (k.chkMask / 2 ^ bf b 4 29 24 % 2 = 1)) &&
  (decide (bf b 4 31 30 = 2) || zero 4 23 16) && zero 4 15 0 &&
  -- words 5 to 7
  (if listen then decide (b.getD 5 0 = 0) && decide (b.getD 6 0 = 0) && decide (b.getD 7 0 = 0)
   else if bf b 5 63 63 = 1 then
     within 0 4 (bf b 5 62 60) && within 1 3 (bf b 5 56 55) && within 0 128 (bf b 5 54 47) && zero 5 46 0 &&
     (if inv then maskOk (min 64 (bf b 5 54 47)) (b.getD 6 0) && maskOk (bf b 5 54 47 - 64) (b.getD 7 0)
      else decide (b.getD 6 0 = 0) && decide (b.getD 7 0 = 0))
   else decide (b.getD 5 0 = 0) && decide (b.getD 6 0 = 0) && decide (b.getD 7 0 = 0)) &&
  -- words 8 to 11
  (if inv then
     within 1 8 (bf b 8 59 56) && decide (bf b 8 49 46 ≤ bf b 8 45 42) && zero 8 41 0 && within 0 2 (bf b 9 63 56) &&
     (if bf b 9 63 56 = 0 then zero 9 55 54 && zero 9 53 32 && zero 9 31 24 else within 1 32 (bf b 9 31 24)) &&
     (if bf b 9 63 56 = 2 then decide (bf b 9 23 16 < 64) && s.ownsKey k.pitch (bf b 9 23 16) else zero 9 23 16) &&
     zero 9 15 0
   else decide (b.getD 8 0 = 0) && decide (b.getD 9 0 = 0)) &&
  decide (b.getD 10 0 = 0) && decide (b.getD 11 0 = 0)

/-- R186: words 8 to 11 of a 12-word HF_HOST_REQ block. -/
def hostWordsOk (b : List Word) : Bool :=
  decide (b.getD 8 0 = 0) && decide (b.getD 9 0 = 0) && decide (b.getD 10 0 = 0) &&
  within 1 16 (bf b 11 63 59) && within 0 47 (bf b 11 54 49) && within 0 47 (bf b 11 48 43) &&
  decide (bf b 11 56 55 = 0) && decide (bf b 11 42 0 = 0)

/-- R221: an AWNING_LISTEN block, against the earlier stakes of the plan. -/
def awningOk (s : State) (bank : Bool) (earlier : List Stake) (k : Stake) (b : List Word) : Bool :=
  let i := bf b 2 63 62
  s.awnOn i && decide (s.awnPitch i = k.pitch) && within 0 47 (bf b 2 61 56) &&
  decide (k.chkMask / 2 ^ bf b 2 61 56 % 2 = 1) && within 8 63 (bf b 2 55 50) && decide (bf b 2 49 0 = 0) &&
  decide (b.getD 3 0 = 0) &&
  earlier.all fun e => !(decide (e.template = 0x0A) && decide (e.port ≠ k.port) &&
    decide (bf (s.blockOf bank e) 2 63 62 = i))

/-- The block of a stake passes (code 0x0A). DESIGN CHOICE (notes/assumptions/71.md): p of a LANTERN_PING block is the value of its
6-bit field, so 0 fails and 64 cannot be written (R47). -/
def State.paramOk (s : State) (bank : Bool) (earlier : List Stake) (k : Stake) : Bool :=
  let len := Word.get (s.planWord bank k.param) (63, 48)
  let b := s.blockOf bank k
  let t := innerOf k.template b
  let n := s.planCount bank
  blockless k.template ||
  (decide (4 * n + 4 ≤ k.param) && decide (k.param < s.planLen bank) && within 2 256 len &&
   decide (k.param + len ≤ s.planLen bank) && decide (bf b 0 47 40 = k.template) &&
   decide (blkFifo b < 64) && s.ownsFifo k.pitch (blkFifo b) && !s.fifoDir1 (blkFifo b) && decide (bf b 0 7 4 = 0) &&
   (if k.template = 0x30 then innerAllows t k.port else decide (bf b 0 15 8 = 0) && decide (bf b 0 3 0 = 0)) &&
   decide (bf b 1 63 24 = 0) &&
   (if t = 0x0B ∨ t = 0x12 ∨ t = 0x21 then true else decide (k.chkMask ≠ 0)) &&
   (if t = 0x21 then decide (len = 2) && decide (bf b 0 31 16 = 0) && decide (blkU b = 0)
    else if t = 0x0B then
      decide (len = 3) && within 1 64 (bf b 2 5 0) && decide (bf b 2 63 6 = 0) &&
      (List.range 4).any fun e => decide (s.fld (R.lntPort e) F.lntPort.port = k.port)
    else if t = 0x0A then decide (len = 4) && awningOk s bank earlier k b
    else if t = 0x09 then
      (decide (len = 8) || decide (len = 12)) && hfBlockOk t k.group b && (decide (len = 8) || hostWordsOk b)
    else if t = 0x01 then
      decide (len = 12) && hfBlockOk t k.group b && krovrelOk s k.pitch false b && decide (b.getD 11 0 = 0)
    else if t = 0x08 then
      decide (len = 12) && hfBlockOk t k.group b && krovrelOk s k.pitch true b && wideWordOk k b
    else if t ∈ ([0x02, 0x03, 0x04, 0x05] : List Nat) then decide (len = 12) && hfBlockOk t k.group b && isoOk t b
    else decide (len = 12) && uhfBlockOk s t k b))

/-! ### Pass 1: stakes (codes 0x04 to 0x0F) -/

/-- The next stake on the port of a stake in the same cycle. -/
def nextOnPort (l : List Stake) (k : Stake) : Option Stake :=
  l.find? fun x => decide (k.idx < x.idx) && decide (k.port ∈ x.ports)

/-- Pitch rules of code 0x08 for one port. -/
def State.pitchOk (s : State) (k : Stake) (p : Nat) : Bool :=
  if k.pitch = 0 then s.ownsPort 0 p || decide (k.template = 0x21) || decide (k.template = 0x3F)
  else s.ownsPort k.pitch p

/-- The first code from 0x04 to 0x0F that a stake fails, 0 when it passes (R49, R50). -/
def State.stakeCode (s : State) (bank : Bool) (all earlier : List Stake) (k : Stake) : Nat :=
  let t := k.template
  let ordered := match earlier.getLast? with
    | none => true
    | some e => decide (e.start < k.start) || (decide (e.start = k.start) && decide (e.port ≤ k.port))
  if !ordered then 0x04
  else if k.dur = 0 ∨ s.planCycle bank < k.start + k.dur then 0x05
  else if !templateAllows t k.port then 0x06
  else if !isSlice k.port ∨ ((k.port = 32 ∨ k.port = 80) ∧ t ≠ 0x20) then 0x07
  else if !s.pitchOn k.pitch ∨ 8 < k.pitch ∨ (t = 0x20 ∧ k.pitch ≠ 0) ∨
      (isPort k.port ∧ !(if k.group ∧ k.port % 4 = 0 ∧ isHfPort k.port then k.ports else [k.port]).all (s.pitchOk k))
      then 0x08
  else if Word.get k.w1 (39, 36) ≠ 0 ∨ Word.get k.w2 (63, 50) ≠ 0 ∨ k.decoder = 3 ∨ 20 ≤ k.wheelTarget ∨
      1024 < k.wheelCount ∨ Word.get k.w3 (55, 53) ≠ 0 ∨ (blockless t ∧ k.param ≠ 0) then 0x09
  else if !s.paramOk bank earlier k then 0x0A
  else if k.hold ∧ (!raisesField t ∨ !(match nextOnPort all k with
      | none => false
      | some x => decide (x.pitch = k.pitch) && raisesField x.template)) then 0x0B
  else if k.group ∧ (!isHfPort k.port ∨ k.port % 4 ≠ 0 ∨
      t ∉ ([0x01, 0x02, 0x03, 0x04, 0x05, 0x08, 0x30] : List Nat)) then 0x0C
  else if (t = 0x20 ∨ t = 0x21) ∧ k.dur < fixedLen t k.port + k.guard then 0x0D
  else if t = 0x0A ∧ 4 < (((earlier ++ [k]).filter (·.template = 0x0A)).map (·.port)).dedup.length then 0x0E
  else if k.coexClass ≠ 0 ∧
      (!within 1 2 (s.fld R.cxpCfg F.cxpCfg.mode) ∨ !s.bit (R.cxpClass (k.coexClass - 1)) F.cxpClass.enable) then 0x0F
  else 0

/-- Stakes in index order, each against those before it; the first failure. -/
def State.stakesVerdict (s : State) (bank : Bool) (all : List Stake) : List Stake → List Stake → Option Verdict
  | _, [] => none
  | earlier, k :: l =>
    let c := s.stakeCode bank all earlier k
    if c ≠ 0 then some { code := c, stake := k.idx, offset := k.start }
    else State.stakesVerdict s bank all (earlier ++ [k]) l

/-! ### Pass 2: the sweep (codes 0x10 to 0x14) and seams (0x15) -/

/-- First tick after the stake's active ticks, its FIELD_HOLD extension included (R40, R46). -/
def activeEnd (all : List Stake) (k : Stake) : Nat :=
  if k.hold then match nextOnPort all k with
    | some x => max x.start (k.start + k.dur)
    | none => k.start + k.dur
  else k.start + k.dur

/-- The first tick that two stakes share, none when they do not overlap (R40). -/
def sharedTick (all : List Stake) (a b : Stake) : Option Nat :=
  if a.start < activeEnd all b ∧ b.start < activeEnd all a then some (max a.start b.start) else none

/-- The codes 0x10 to 0x12 that a pair of overlapping stakes fails. -/
def pairCodes (a b : Stake) : List Nat :=
  (if a.ports.any (· ∈ b.ports) then [0x10] else []) ++ (if (a.chkMask &&& b.chkMask) ≠ 0 then [0x11] else []) ++
  (if a.decoder ≠ 0 ∧ a.decoder = b.decoder then [0x12] else [])

/-- Failures of pairs: offset, code, lower index. -/
def pairFails (all : List Stake) : List Verdict :=
  all.flatMap fun a => (all.filter (a.idx < ·.idx)).flatMap fun b =>
    match sharedTick all a b with
    | none => []
    | some t => (pairCodes a b).map fun c => { code := c, stake := a.idx, offset := t }

/-- Lowest index of the stakes active on a span of ticks. -/
def firstActive (all : List Stake) (lo hi : Nat) : Nat :=
  match all.find? fun k => decide (k.start < hi) && decide (lo < activeEnd all k) with
  | some k => k.idx
  | none => 0

/-- Wheel entries of the stakes active on a target at a tick (R38, code 0x13). -/
def wheelSum (all : List Stake) (target t : Nat) : Nat :=
  ((all.filter fun k => decide (k.wheelTarget = target) && decide (k.start ≤ t) && decide (t < activeEnd all k)).map
    (·.wheelCount)).sum

def State.wheelFails (s : State) (all : List Stake) : List Verdict :=
  (all.filter fun k => decide (s.fld R.schWheelLimit F.schWheelLimit.limit < wheelSum all k.wheelTarget k.start)).map
    fun k => { code := 0x13, stake := firstActive all k.start (k.start + 1), offset := k.start }

/-- The ceiling in force (R371: 5,000 to 45,000 mW). -/
def State.ceil (s : State) : Nat := clamp 5000 45000 (s.fld R.pwrCeil F.pwrCeil.ceilMw)

/-- Sum of power window w (R51). -/
def State.windowSum (s : State) (all : List Stake) (w : Nat) : Nat :=
  s.fld R.schBaseMw F.schBaseMw.base +
    ((all.filter fun k => decide (k.start < 400 * w + 400) && decide (400 * w < activeEnd all k)).map (·.power)).sum

/-- The windows in which a sum can rise: the first one, and those in which a stake starts. -/
def riseWindows (all : List Stake) : List Nat := 0 :: all.map (·.start / 400)

def State.powerFails (s : State) (all : List Stake) : List Verdict :=
  ((riseWindows all).filter fun w => decide (s.ceil < s.windowSum all w)).map
    fun w => { code := 0x14, stake := firstActive all (400 * w) (400 * w + 400), offset := 400 * w }

/-- The verdict that R50 reports first: lowest offset, then lowest code, then lowest stake. -/
def Verdict.before (a b : Verdict) : Bool :=
  decide (a.offset < b.offset) || (decide (a.offset = b.offset) &&
    (decide (a.code < b.code) || (decide (a.code = b.code) && decide (a.stake ≤ b.stake))))

def firstVerdict : List Verdict → Option Verdict
  | [] => none
  | v :: l => match firstVerdict l with
    | none => some v
    | some u => if v.before u then some v else some u

/-- Active spans of a port in start order. -/
def spansOf (all : List Stake) (p : Nat) : List (Nat × Nat) :=
  (all.filter fun k => decide (p ∈ k.ports)).map fun k => (k.start, activeEnd all k)

/-- Longest gap between spans, the one round the cycle boundary included (R53). -/
def longestGap (cycle : Nat) : List (Nat × Nat) → Nat
  | [] => cycle
  | l@((a, _) :: _) =>
    let rec go : List (Nat × Nat) → Nat
      | [] => 0
      | [(_, e)] => cycle - e + a
      | (_, e) :: (b, f) :: r => max (b - e) (go ((b, f) :: r))
    go l

/-- Rotation of the port's kind is enabled (R346). -/
def State.rotOn (s : State) (p : Nat) : Bool :=
  if isHf p then s.bit R.hltCfg F.hltCfg.rotHf else s.bit R.hltCfg F.hltCfg.rotUhf

/-- Seam length asked of a port (R49, code 0x15). -/
def State.seamMin (s : State) : Nat := max 1 (s.fld R.schSeamMin F.schSeamMin.seam)

/-- The lowest port that lacks a seam (code 0x15). -/
def State.seamFail (s : State) (cycle : Nat) (all : List Stake) : Option Verdict :=
  match (List.range 80).find? fun p => isPort p && s.rotOn p && !(spansOf all p).isEmpty &&
      decide (longestGap cycle (spansOf all p) < s.seamMin) with
  | none => none
  | some p => some { code := 0x15, offset := 0,
                     stake := match all.find? fun k => decide (p ∈ k.ports) with
                       | some k => k.idx
                       | none => 0 }

/-- The plan checker on a bank: PASS is code 0 (R49, R50). -/
def State.checkPlan (s : State) (bank : Bool) : Verdict :=
  let h := s.headerCode bank
  if h ≠ 0 then { code := h, stake := 0, offset := 0 }
  else
    let all := s.stakes bank
    match s.stakesVerdict bank all [] all with
    | some v => v
    | none =>
      match firstVerdict (pairFails all ++ s.wheelFails all ++ s.powerFails all) with
      | some v => v
      | none => (s.seamFail (s.planCycle bank) all).getD { code := 0, stake := 0, offset := 0 }

/-- The largest window sum of a plan and the first window that reaches it (R51). -/
def State.peak (s : State) (bank : Bool) : Nat × Nat :=
  let all := s.stakes bank
  (riseWindows all).foldl (fun m w =>
    let x := s.windowSum all w
    if m.1 < x ∨ (m.1 = x ∧ 400 * w < m.2) then (x, 400 * w) else m) (0, 0)

end Sys2Proof.Machine
end

