-- ==== Sys2Proof/Machine/Ecc.lean ====
section
/-! DEFINITION. Recording errors of Groundsheet words (R256). -/

namespace Sys2Proof.Machine

/-- GSH_ECC_STATUS takes the address of the error. -/
def State.eccAt (s : State) (a : Nat) : State :=
  (s.setFld R.gshEccStatus F.gshEccStatus.addr (a / 8 * 8)).setFld R.gshEccStatus F.gshEccStatus.bank (a / 0x200000)

/-- A corrected error is counted and recorded. -/
def State.recordCe (s : State) (a : Nat) : State :=
  ((s.eccAt a).setBit R.gshEccStatus F.gshEccStatus.ce true).bump R.gshEccCeCnt F.gshEccCeCnt.count

/-- An uncorrectable error is counted and recorded. -/
def State.recordUe (s : State) (a : Nat) : State :=
  ((s.eccAt a).setBit R.gshEccStatus F.gshEccStatus.ue true).bump R.gshEccUeCnt F.gshEccUeCnt.count

/-- A single error of a word is corrected and written back (R256). -/
def State.correct (s : State) (a : Nat) : State :=
  if ones (s.upset a) = 1 then (s.recordCe a).setUpset a 0 else s

/-- A read of the word that holds an address: corrected, or recorded as uncorrectable (R256). -/
def State.touch (s : State) (a : Nat) : State := if s.isUe a then s.recordUe a else s.correct a

/-- Bytes are written within one word (R256, R258). -/
def State.storeBytes (s : State) (a : Nat) (l : List Byte) : State :=
  if l.length = 8 then s.setWord a (wordOfBytes l)
  else if s.isUe a then s.bump R.gshEccUeCnt F.gshEccUeCnt.count
  else ((s.correct a).noteStore a).setBytes a l

/-- Bytes from an address on, word by word; `n` bounds the number of words. -/
def State.storeRun (s : State) (a : Nat) : Nat → List Byte → State
  | 0, _ => s
  | _ + 1, [] => s
  | n + 1, b :: l =>
    let k := 8 - a % 8
    State.storeRun (s.storeBytes a ((b :: l).take k)) (a + k) n ((b :: l).drop k)

/-- A word that the DN4810 reads: corrected, or recorded and then free (R256). -/
def State.loadWord (s : State) (a : Nat) : State × Word :=
  if s.isUe a then ((s.recordUe a).skip 1, Config.freeWord s.fresh) else (s.correct a, s.word a)

/-- n words from an address on. -/
def State.loadWords (s : State) (a : Nat) : Nat → State × List Word
  | 0 => (s, [])
  | n + 1 =>
    let x := s.loadWord a
    let y := State.loadWords x.1 (a + 8) n
    (y.1, x.2 :: y.2)

/-- The reads of a list of words. -/
def State.touchAll (s : State) (l : List Nat) : State := s.each l State.touch

/-- The addresses of the words of a packet and of its link words (R264). -/
def chainAddrs : List Nat → Nat → List Nat
  | [], _ => []
  | b :: l, n =>
    let here : List Nat := (List.range (min n 31)).map fun i => 256 * b + 8 * i
    [here, [256 * b + 248], chainAddrs l (n - 31)].flatten

/-- The words of a byte range that have bits in error. -/
def State.errsIn (s : State) (lo hi : Nat) : List Nat :=
  (s.ecc.filter fun x => decide (lo / 8 ≤ x.1) && decide (8 * x.1 < hi)).map fun x => 8 * x.1

/-- The first uncorrectable word of a byte range. -/
def State.ueIn (s : State) (lo hi : Nat) : Option Nat := (s.errsIn lo hi).find? s.isUe

end Sys2Proof.Machine
end

