-- ==== Sys2Proof/Machine/Runs.lean ====
section
/-! DEFINITION. The stakes in their active ticks and the slices that serve them: looking them up, changing them, and the
state transitions of R72 and R189. -/

namespace Sys2Proof.Machine

def Run.port (r : Run) : Nat := r.stake.port
def Run.pitch (r : Run) : Nat := r.stake.pitch
def Run.template (r : Run) : Nat := r.stake.template

/-- GROUP on HF, HEAD_CHECK on UHF: what changes the settling of a front (R44, R210). -/
def Run.alt (r : Run) : Bool := if isHfPort r.port then r.stake.group else decide (r.template = 0x21)

/-- The running stake that claims a port (R36, R40). -/
def State.runAt (s : State) (p : Nat) : Option Run := s.runs.find? fun r => decide (p ∈ r.stake.ports)

/-- Replace a running stake. -/
def State.putRun (s : State) (r : Run) : State :=
  s.setRuns (s.runs.map fun x => if x.stake.idx = r.stake.idx then r else x)

/-- End a running stake. -/
def State.dropRun (s : State) (r : Run) : State := s.setRuns (s.runs.filter fun x => decide (x.stake.idx ≠ r.stake.idx))

/-- Change the running stake on a port. -/
def State.modRun (s : State) (p : Nat) (f : Run → Run) : State :=
  match s.runAt p with
  | none => s
  | some r => s.putRun (f r)

/-- Group setting of the next exchange (R82). -/
def Run.setting (r : Run) : Nat :=
  if r.stake.group then (r.setBase + r.exchCount) % max 1 (bf r.block 4 63 56) else 0

/-- Amplitude code of a port in the group setting of the stake (R81), 0 of a member that takes no part (R84). -/
def Run.ampOf (r : Run) (p : Nat) : Nat :=
  if !r.stake.group then 63
  else if p ∈ r.missing then 0
  else bf r.block (4 + r.setting) (14 * (p % 4) + 5) (14 * (p % 4))

/-- Phase code of a port in the group setting, in steps of 1.40625° (R81). -/
def Run.phaseOf (r : Run) (p : Nat) : Nat :=
  if r.stake.group then bf r.block (4 + r.setting) (14 * (p % 4) + 13) (14 * (p % 4) + 6) else 0

/-- Power in 1/3,969 mW that a block sets on member i of its stake in a group setting (R73, R81); 20 mW in HEAD_CHECK (R93). -/
def blkPower (t : Nat) (group : Bool) (b : List Word) (set i : Nat) : Nat :=
  let amp := if group then bf b (4 + set) (14 * i + 5) (14 * i) else 63
  if t = 0x21 then 20 * 3969 else bf b 2 63 48 * (amp * amp)

/-- The largest of the settings of a block. -/
def blkPeak (t : Nat) (group : Bool) (b : List Word) (i : Nat) : Nat :=
  ((List.range (if group then max 1 (bf b 4 63 56) else 1)).map fun set => blkPower t group b set i).foldl max 0

/-- Power in 1/3,969 mW that the stake sets on a port (R73, R81, R84). -/
def Run.power (r : Run) (p : Nat) : Nat :=
  if p ∈ r.missing then 0 else blkPower r.template r.stake.group r.block r.setting (p % 4)

/-- Power in 1/3,969 mW of amplitude code 63 in the stake. -/
def Run.fullPower (r : Run) : Nat := blkPower r.template false r.block 0 0

/-- Amplitude and phase codes of the four ports of a group stake in its setting (R81), none without GROUP. -/
def Run.drives (r : Run) : List (Nat × Nat) :=
  if r.stake.group then r.stake.ports.map fun p => (r.ampOf p, r.phaseOf p) else []

/-- The members that receive, as offsets from the stake's port (R83): the one that rx_sel names, or all that take part with
rx_sel 4 or when the one it names is missing (R84). -/
def Run.rxMembers (r : Run) : List Nat :=
  if !r.stake.group then [0]
  else if bf r.block 3 10 8 < 4 ∧ r.port + bf r.block 3 10 8 ∉ r.missing then [bf r.block 3 10 8]
  else (List.range 4).filter fun i => decide (r.port + i ∉ r.missing)

/-- The ports whose receivers serve the stake. -/
def Run.rxPorts (r : Run) : List Nat := r.rxMembers.map (r.port + ·)

/-- The slices that serve a stake's ports, the members that take no part left out (R84). -/
def State.slicesOf (s : State) (r : Run) : List Nat :=
  (r.stake.ports.filter fun p => decide (p ∉ r.missing)).map s.server

/-- Derate step of a slice (R342). -/
def State.derate (s : State) (n : Nat) : Nat := s.fld (R.hltSliceStatus n) F.hltSliceStatus.derate

/-- Ticks of a transition (R72, R189, R342): `ramp` in ticks, `d` the derate step. `alt` is a GROUP stake on HF, which
adds its alignment (R44), and a HEAD_CHECK on UHF, which does not wait for the SJC (R210). HLT takes a slice for its runs 16 ticks after S (R335). -/
def delayOf (a b : SliceState) (ramp d : Nat) (alt : Bool) : Nat :=
  match a, b with
  | .off, .quiet => 4000
  | .quiet, .armed => 800 + 200 * d + (if alt then 400 else 0)
  | .rampUp, .field => ramp
  | .rampDown, .armed => ramp
  | .armed, .quiet => 40
  | .quiet, .hfListen => 200
  | .hfListen, .quiet => 40
  | .off, .standby => 7200
  | .standby, .synth => 3800
  | .synth, .listen => 400
  | .synth, .uRampUp => 1200
  | .uRampUp, .carrier => if alt then ramp else ramp + 800 + 400 * d
  | .hop, .carrier => 6000
  | .uRampDown, .synth => ramp
  | .synth, .standby => 200
  | .listen, .standby => 200
  | .hfCal, .quiet => 80
  | .cal, .standby => 80
  | _, .off => 200
  | _, .hfCal => 16
  | _, .cal => 16
  | _, _ => 0

/-! ### Ramps (R75, R192) -/

/-- sin(π/2 · n/d) for n ≤ d, in 1/2^24, by its Taylor series to x⁹. -/
def quarterSin (n d : Nat) : Nat :=
  let one : Int := 2 ^ 24
  let x : Int := (n : Int) * 355 * one / ((d : Int) * 226)
  let fall (k r : Int) : Int := one - x * x / one * r / one / k
  (x * fall 6 (fall 20 (fall 42 (fall 72 one))) / one).toNat

/-- sin of a phase code, in steps of 1.40625° (R81), in 1/2^24. -/
def codeSin (c : Nat) : Int :=
  let k := c % 64
  match c / 64 % 4 with
  | 0 => quarterSin k 64
  | 1 => quarterSin (64 - k) 64
  | 2 => -(quarterSin k 64 : Int)
  | _ => -(quarterSin (64 - k) 64 : Int)

/-- The phasor of a phase code, in 1/2^24. -/
def phasor (c : Nat) : Int × Int := (codeSin (c + 64), codeSin c)

/-- Product of complex integers, and the conjugate. -/
def cmul (a b : Int × Int) : Int × Int := (a.1 * b.1 - a.2 * b.2, a.1 * b.2 + a.2 * b.1)
def conj (a : Int × Int) : Int × Int := (a.1, -a.2)
def norm2 (a : Int × Int) : Int := a.1 * a.1 + a.2 * a.2

/-- The square root of a number below 2^32, rounded down. -/
def root (n : Nat) : Nat := (List.range 16).reverse.foldl (fun a i => if (a + 2 ^ i) * (a + 2 ^ i) ≤ n then a + 2 ^ i else a) 0

/-- How far a raised cosine has come, of 1,023: (1 − cos(π n / d)) / 2 to the nearest of the 1,024 levels
(notes/assumptions/84.md). -/
def raised (n d : Nat) : Nat :=
  if d ≤ n then 1023 else (1023 * quarterSin n d ^ 2 + 2 ^ 47) / 2 ^ 48

/-- How far into a ramp the amplitude shown answers to: it is updated every 8 fc on HF, every tick on UHF. In 1/339 tick on HF,
where 1 fc is 1,000 of them (R4), and in ticks on UHF. -/
def rampStep (hf : Bool) (t : Nat) : Nat := if hf then t * 339 / 8000 * 8000 else t

/-- Length of a ramp in the unit of `rampStep`. -/
def rampSpan (hf : Bool) (t : Nat) : Nat := if hf then 339 * t else t

/-- The level of a ramp at a tick, of 1,023. -/
def Ramp.level (x : Ramp) (hf : Bool) (now : Nat) : Nat :=
  let k := raised (rampStep hf (now - x.at_)) (rampSpan hf x.ticks)
  if x.from_ ≤ x.goal then x.from_ + (x.goal - x.from_) * k / 1023 else x.from_ - (x.from_ - x.goal) * k / 1023

/-- A ramp that rests at a level. -/
def Ramp.rest (v : Nat) : Ramp := { from_ := v, goal := v, at_ := 0, ticks := 0 }

/-- A drive at a tick: linear in I and Q over the 128 fc of a change of setting (R82). -/
def Vec.value (v : Vec) (now : Nat) : Int × Int :=
  let k : Int := (min 128000 (339 * (now - v.at_)) : Nat)
  (v.from_.1 + (v.goal.1 - v.from_.1) * k / 128000, v.from_.2 + (v.goal.2 - v.from_.2) * k / 128000)

/-- A drive that rests. -/
def Vec.rest (v : Int × Int) : Vec := { from_ := v, goal := v, at_ := 0 }

/-- The drive of an amplitude and a phase code (R81). -/
def driveVec (amp phase : Nat) : Int × Int := ((amp : Int) * (phasor phase).1, (amp : Int) * (phasor phase).2)

/-- The level of a slice's field or carrier at a tick: a channel change ends in an up-ramp of 600 ticks, 1,400 before it is
due (R198). -/
def Slice.level (x : Slice) (hf : Bool) (now : Nat) : Nat :=
  if x.st = .hop ∧ x.due ≤ now + 1400 then
    Ramp.level { from_ := 0, goal := 1023, at_ := x.due - 1400, ticks := 600 } hf now
  else x.ramp.level hf now

/-- The ramp of a slice that takes a state at a tick: up from where it stands, down from where it stands, the full level, or
none. -/
def Slice.rampIn (x : Slice) (hf : Bool) (st : SliceState) (ticks at_ : Nat) : Ramp :=
  match st with
  | .rampUp | .uRampUp => { from_ := x.level hf at_, goal := 1023, at_ := at_, ticks := ticks }
  | .rampDown | .uRampDown => { from_ := x.level hf at_, goal := 0, at_ := at_, ticks := ticks }
  | .hop => { from_ := x.level hf at_, goal := 0, at_ := at_, ticks := 600 }
  | .field | .carrier => Ramp.rest 1023
  | _ => Ramp.rest 0

/-- A slice takes a state at a tick, and reports it (R26). A change of setting under way stops where a down-ramp begins (R82). -/
def Slice.take (x : Slice) (hf : Bool) (st : SliceState) (ticks at_ : Nat) : Slice :=
  { x with st := st, path := [], ramp := x.rampIn hf st ticks at_, sampled := at_
           vec := if st = .rampDown then Vec.rest (x.vec.value at_) else x.vec
           droveAt := if x.st.hot ∧ !st.hot then some at_ else x.droveAt }

/-- Send a slice on its way through a list of states from a tick on; a transition of no length is taken at once. -/
def State.sendFrom (s : State) (n : Nat) (ramp from_ : Nat) (alt : Bool) : List SliceState → State
  | [] => s.modSlice n fun x => { x with path := [] }
  | st :: l =>
    let d := delayOf (s.slice n).st st ramp (s.derate n) alt
    if d = 0 then State.sendFrom (s.modSlice n fun x => x.take (isHf n) st ramp from_) n ramp from_ alt l
    else s.modSlice n fun x => { x with path := st :: l, due := from_ + d }

/-- The first transition under way completes: the slice takes its state and starts the next one. -/
def State.arrive (s : State) (n : Nat) (ramp : Nat) (alt : Bool) : State :=
  match (s.slice n).path with
  | [] => s
  | st :: l => State.sendFrom (s.modSlice n fun x => x.take (isHf n) st ramp s.now) n ramp s.now alt l

/-- A transition of the slice is due (notes/assumptions/7.md). -/
def State.sliceDue (s : State) (n : Nat) : Bool :=
  !(s.slice n).path.isEmpty && decide ((s.slice n).due ≤ s.now)

/-- Put a slice into a state at once. -/
def State.sliceTo (s : State) (n : Nat) (st : SliceState) : State :=
  s.modSlice n fun x => x.take (isHf n) st 0 s.now

/-- A slice updates a status that it reports (R26). -/
def State.stamp (s : State) (n : Nat) : State := s.modSlice n fun x => { x with sampled := s.now }

/-- The slice takes exchanges: FIELD or CARRIER (R71, R188). -/
def SliceState.ready (x : SliceState) : Bool :=
  match x with
  | .field => true | .carrier => true | _ => false

/-- Ramp of a running stake, in ticks. -/
def Run.ramp (r : Run) : Nat := blkRamp r.inner r.block

/-- The path down from where a slice stands to rest: QUIET on HF, STANDBY on UHF (R72, R189). -/
def downPath (x : SliceState) : List SliceState :=
  match x with
  | .rampUp => [.rampDown, .armed, .quiet]
  | .field => [.rampDown, .armed, .quiet]
  | .rampDown => [.armed, .quiet]
  | .armed => [.quiet]
  | .hfListen => [.quiet]
  | .hfCal => [.quiet]
  | .ping => [.quiet]
  | .uRampUp => [.uRampDown, .synth, .standby]
  | .carrier => [.uRampDown, .synth, .standby]
  -- R189 gives HOP no way to STANDBY: as from CARRIER (notes/assumptions/85.md)
  | .hop => [.uRampDown, .synth, .standby]
  | .uRampDown => [.synth, .standby]
  | .synth => [.standby]
  | .listen => [.standby]
  | .cal => [.standby]
  | _ => []

/-- CAL of a slice's kind, and where it rests (R71, R188). -/
def calState (n : Nat) : SliceState := if isHf n then .hfCal else .cal
def sliceRest (n : Nat) : SliceState := if isHf n then .quiet else .standby

/-- HLT_SLICEn_STATUS.state: 0 IN_SERVICE, 1 ON_LOAD, 2 FAILED, 3 FREE. -/
def State.sliceShow (s : State) (n st : Nat) : State := s.setFld (R.hltSliceStatus n) F.hltSliceStatus.state st
def State.onLoad (s : State) (n : Nat) : Bool := decide (s.fld (R.hltSliceStatus n) F.hltSliceStatus.state = 1)

/-- Send a slice to rest. -/
def State.restSlice (s : State) (n ramp : Nat) : State :=
  if (s.slice n).path.head? = some .off then s else s.sendFrom n ramp s.now false (downPath (s.slice n).st)

/-- The slice that serves a port stays in OFF: it has failed, its amplifier has (R208), or it is a UHF slice under an RF
inhibit (R188). While a head's retry timer runs it rests in QUIET or STANDBY, from where a HEAD_CHECK can start
(notes/assumptions/86.md). -/
def State.staysOff (s : State) (p n : Nat) : Bool :=
  (s.slice n).failed || (s.port p).paFault || (s.port p).out || (!isHf n && s.inhibited)

/-- Put the slice that serves a port to rest at the end of a stake: back from OFF to QUIET or STANDBY unless it stays there. -/
def State.settleSlice (s : State) (p ramp : Nat) : State :=
  let n := s.server p
  let rest : SliceState := if isHf n then .quiet else .standby
  if (s.slice n).st = .off then (if s.staysOff p n then s else s.sendFrom n ramp s.now false [rest])
  else if (s.slice n).path = [.off] then
    (if s.staysOff p n then s else s.modSlice n fun x => { x with path := [.off, rest] })
  else s.restSlice n ramp

/-- The running stake claims check unit n now (R249). -/
def State.chkClaimed (s : State) (n : Nat) : Bool :=
  s.runs.any fun r => decide (r.stake.chkMask / 2 ^ n % 2 = 1)

/-- A stake runs that still has its own radio action (R15). -/
def Run.live (r : Run) : Bool := r.inert.isNone && decide (r.phase ≠ .tail)

end Sys2Proof.Machine
end

