-- ==== Sys2Proof/Machine/Reports.lean ====
section
/-! DEFINITION. What SNG reports: the presence tables (R150 to R158), TAG_REPORT and REQUEST_DONE packets (R316, R318),
and the failure budget of SEC (R126). -/

namespace Sys2Proof.Machine

/-! ### The presence table -/

/-- The entries SNG_PT_REGIONp names. -/
def State.rawTable (s : State) (q : Nat) : Nat × Nat :=
  (s.fld (R.sngPtRegion q) F.sngPtRegion.first,
   s.fld (R.sngPtRegion q) F.sngPtRegion.first + s.fld (R.sngPtRegion q) F.sngPtRegion.size)

/-- The valid tables of pitches 0 to n − 1 (R159: within the table area, overlapping no lower valid one). -/
def State.tablesTo (s : State) : Nat → List (Nat × Nat × Nat)
  | 0 => []
  | n + 1 =>
    let l := State.tablesTo s n
    let r := s.rawTable n
    if r.2 ≤ 262144 ∧ r.1 < r.2 ∧ !l.any (fun x => meets x.2 r) then l ++ [(n, r)] else l

/-- The table of a pitch, empty where it acts as size 0. -/
def State.table (s : State) (q : Nat) : Nat × Nat :=
  match (s.tablesTo 9).find? fun x => x.1 = q with
  | some x => x.2
  | none => (0, 0)

def State.badTable (s : State) (q : Nat) : Bool :=
  decide ((s.rawTable q).1 < (s.rawTable q).2) && decide (s.table q = (0, 0))

/-- The pitch whose table holds entry i. -/
def State.tablePitch (s : State) (i : Nat) : Option Nat :=
  (List.range 9).find? fun q => decide ((s.table q).1 ≤ i) && decide (i < (s.table q).2)

/-- First byte of entry i of the 262,144 (R151). -/
def entryAddr (i : Nat) : Nat := 0x01400000 + 32 * (i % 262144)

/-- Fields of word 3 of an entry (R151). -/
def E.reads : Fld := (63, 48)
def E.port : Fld := (47, 40)
def E.proto : Fld := (39, 36)
def E.state : Fld := (35, 34)
def E.len : Fld := (33, 24)
def E.rssi : Fld := (23, 16)
def E.ver : Fld := (15, 8)

def State.entryW (s : State) (i w : Nat) : Word := s.word (entryAddr i + 8 * w)
def State.entryFld (s : State) (i : Nat) (f : Fld) : Nat := Word.get (s.entryW i 3) f

/-- Entry i is uncorrectable (R257). -/
def State.entryUe (s : State) (i : Nat) : Bool := s.anyUe (entryAddr i) 4

/-- A presence key (R150): protocol, identifier, and its length in bytes. -/
structure PKey where
  proto : Nat
  ident : BitVec 128
  len : Nat
  deriving DecidableEq, Repr

/-- Entry i holds the key. -/
def State.entryHas (s : State) (i : Nat) (k : PKey) : Bool :=
  decide (s.entryFld i E.state ≠ 0) && !s.entryUe i && decide (s.entryFld i E.proto = k.proto) &&
  decide (s.entryFld i E.len = k.len - 1) && decide (s.entryW i 0 = k.ident.setWidth 64) &&
  decide (s.entryW i 1 = (k.ident >>> 64).setWidth 64)

/-- Update an entry in the three writes of R152: word 3 with ver odd, words 0 to 2, and word 3 with its new fields and ver
advanced by 2. -/
def State.writeEntry (s : State) (i : Nat) (ws : List Word) (w3 : Word) : State :=
  let ver := s.entryFld i E.ver
  let odd := Word.put (s.entryW i 3) E.ver ((ver + 1) % 256)
  ((s.setWord (entryAddr i + 24) odd).setWords (entryAddr i) (ws.take 3)).setWord (entryAddr i + 24)
    (Word.put w3 E.ver ((ver + 2) % 256))

/-- An entry takes a key, the time of its last read, and the fields of word 3. -/
def State.putEntry (s : State) (i : Nat) (k : PKey) (seen : Nat) (w3 : Word) : State :=
  s.writeEntry i [k.ident.setWidth 64, (k.ident >>> 64).setWidth 64, BitVec.ofNat 64 seen] w3

/-- Free an entry; its other fields stay (notes/assumptions/13.md). -/
def State.freeEntry (s : State) (q i : Nat) : State :=
  (s.writeEntry i [s.entryW i 0, s.entryW i 1, s.entryW i 2] (Word.put (s.entryW i 3) E.state 0)).setFld (R.sngPtStatus q)
    F.sngPtStatus.inUse (s.fld (R.sngPtStatus q) F.sngPtStatus.inUse - 1)

/-- The entries of a table that are CANDIDATE or PRESENT: the byte of word 3 that holds their state lies 28 bytes on. -/
def State.tableUse (s : State) (t : Nat × Nat) : Nat :=
  (s.mem.filter fun c => decide (entryAddr t.1 ≤ c.1) && decide (c.1 < 0x01400000 + 32 * t.2) && decide (c.1 % 32 = 28) &&
    decide (c.2.toNat / 4 % 4 ≠ 0)).length

/-- in_use of every pitch after a region has changed (R159). -/
def State.countTables (s : State) : State :=
  s.each (List.range 9) fun s q => s.setFld (R.sngPtStatus q) F.sngPtStatus.inUse (s.tableUse (s.table q))

/-- Ticks of depart_ms of a pitch (R159). -/
def State.depart (s : State) (q : Nat) : Nat := msTicks (clamp 100 3600000 (s.fld (R.sngPtCfg q) F.sngPtCfg.departMs))
def State.arriveN (s : State) (q : Nat) : Nat := max 1 (s.cfg (R.sngPtCfg q) F.sngPtCfg.arriveN)

/-- Word 2 of ARRIVAL and DEPARTURE (R317). -/
def presenceWord (port proto len reads : Nat) : Word :=
  BitVec.ofNat 64 (port % 256 * 2 ^ 56 + proto % 16 * 2 ^ 44 + len % 256 * 2 ^ 32 + reads % 65536 * 2 ^ 16)

/-- Commit an ARRIVAL (0x22) or a DEPARTURE (0x23) of an entry to the pitch's event FIFO (R317). -/
def State.presencePacket (s : State) (q type i : Nat) : State :=
  match s.eventFifo q with
  | none => s
  | some n =>
    s.commit n (s.packet type q 0
      [presenceWord (s.entryFld i E.port) (s.entryFld i E.proto) (s.entryFld i E.len + 1) (s.entryFld i E.reads),
       s.entryW i 2, s.entryW i 0, s.entryW i 1])

/-- An entry that SNG has read and found uncorrectable becomes FREE, without a packet (R257). -/
def State.ueEntry (s : State) (q i : Nat) : State := if s.entryFld i E.state = 0 then s else s.freeEntry q i

/-- SNG reads entries lo to hi − 1 of a table: single errors are corrected, and uncorrectable entries become FREE (R256, R257). -/
def State.readEntries (s : State) (q lo hi : Nat) : State :=
  let hits := s.errsIn (entryAddr lo) (0x01400000 + 32 * hi)
  let bad := ((hits.filter s.isUe).map fun a => (a - 0x01400000) / 32).dedup
  (s.touchAll hits).each bad fun s i => s.ueEntry q i

/-- SNG looks a key up: it reads the entries of the pitch's table in ascending order, up to the one that holds the key
(notes/assumptions/102.md). -/
def State.lookTable (s : State) (q : Nat) (k : PKey) : State :=
  let t := s.table q
  match ((List.range (t.2 - t.1)).map (· + t.1)).find? fun i => s.entryHas i k with
  | some i => s.readEntries q t.1 (i + 1)
  | none => if t.1 < t.2 then s.readEntries q t.1 t.2 else s

/-- A counted read, the table having been read (R153, R155, R157): the state, and whether the key has an entry. -/
def State.countEntry (s : State) (q port : Nat) (k : PKey) (rssi : Nat) : State × Bool :=
  let t := s.table q
  let idx := (List.range (t.2 - t.1)).map (· + t.1)
  let w3 (reads st : Nat) : Word :=
    Word.put (Word.put (Word.put (Word.put (Word.put (Word.put 0 E.reads (min 0xFFFF reads)) E.port port) E.proto k.proto)
      E.state st) E.len (k.len - 1)) E.rssi rssi
  match idx.find? fun i => s.entryHas i k with
  | some i =>
    let seen := (s.entryW i 2).toNat
    let cand := decide (s.entryFld i E.state = 1)
    let reads := if cand ∧ seen + s.depart q < s.now then 1 else s.entryFld i E.reads + 1
    let again := decide (seen = s.now) && decide (s.entryFld i E.port ≠ port)
    if cand ∧ s.arriveN q ≤ reads ∧ !again then
      ((s.putEntry i k s.now (w3 reads 2)).presencePacket q 0x22 i, true)
    else (s.putEntry i k s.now (w3 reads (s.entryFld i E.state)), true)
  | none =>
    match idx.find? fun i => decide (s.entryFld i E.state = 0) with
    | some i =>
      let s1 := s.bump (R.sngPtStatus q) F.sngPtStatus.inUse
      if s.arriveN q ≤ 1 then ((s1.putEntry i k s.now (w3 1 2)).presencePacket q 0x22 i, true)
      else (s1.putEntry i k s.now (w3 1 1), true)
    | none =>
      ((s.setBit (R.sngPtStatus q) F.sngPtStatus.full true).bumpSat (R.sngPtStatus q) F.sngPtStatus.untracked 1, false)

/-- A counted read. -/
def State.countRead (s : State) (q port : Nat) (k : PKey) (rssi : Nat) : State × Bool :=
  (s.lookTable q k).countEntry q port k rssi

/-- The sweeper visits entry i (R154), and frees an uncorrectable one without a packet (R256, R257). -/
def State.sweep (s : State) (i : Nat) : State :=
  match s.tablePitch i with
  | none => s
  | some q =>
    let s1 := s.touchAll ((List.range 4).map fun w => entryAddr i + 8 * w)
    if s.entryUe i then s1.ueEntry q i
    else if s1.entryFld i E.state = 0 ∨ s1.now ≤ (s1.entryW i 2).toNat + s1.depart q then s1
    else if s1.entryFld i E.state = 2 then (s1.presencePacket q 0x23 i).freeEntry q i
    else s1.freeEntry q i

/-! ### TAG_REPORT and REQUEST_DONE -/

/-- Two 32-bit units per word, the first in the lower half (R316). -/
def packUnits : List (BitVec 32) → List Word
  | [] => []
  | [a] => [a.setWidth 64]
  | a :: b :: l => word2 b.toNat a.toNat :: packUnits l

/-- Protocol code of an inner template (R150). -/
def protoOf (t : Nat) : Nat :=
  if t = 0x02 then 2 else if t = 0x03 then 3 else if t = 0x04 then 4 else if t = 0x05 then 5
  else if uhfTemplate t then 0 else 1

/-- What a TAG_REPORT says beside what its stake gives. -/
structure TagInfo where
  status : Status
  cls : Nat
  ident : BitVec 128
  identLen : Nat
  tagStatus : BitVec 8
  data : List (BitVec 32)
  quality : List Word
  untracked : Bool
  part : Bool

/-- A report without an identifier. -/
def TagInfo.bare (st : Status) (cls : Nat) : TagInfo :=
  { status := st, cls := cls, ident := 0, identLen := 0, tagStatus := 0, data := [], quality := [], untracked := false
    part := false }

/-- The neighbours of an HF port (R85). -/
def neighbours (p : Nat) : List Nat :=
  (if 2 ≤ p then [p - 2] else []) ++ (if 1 ≤ p then [p - 1] else []) ++ [p + 1, p + 2].filter (· < 32)

/-- Neighbour j of an HF port, none where it does not exist (R85). -/
def neighbourAt (p j : Nat) : Option Nat :=
  if j = 0 then (if 2 ≤ p then some (p - 2) else none)
  else if j = 1 then (if 1 ≤ p then some (p - 1) else none)
  else if j = 2 then (if p + 1 < 32 then some (p + 1) else none)
  else (if p + 2 < 32 then some (p + 2) else none)

/-- A port drives: its field is on or moving, and not as a group member of amplitude 0, which stays in ARMED (R71, R81). -/
def State.drives (s : State) (p : Nat) : Bool :=
  (s.slice (s.server p)).st.hot && !(match s.runAt p with
    | some r => r.stake.group && decide (r.ampOf p = 0)
    | none => false)

/-- A port drives, or has driven since a tick. -/
def State.droveSince (s : State) (t p : Nat) : Bool :=
  s.drives p || (match (s.slice (s.server p)).droveAt with
    | some u => decide (t ≤ u)
    | none => false)

/-- nb_active: a neighbour of a receiving port whose cancellation is enabled has driven since a tick (R86). -/
def State.nbActive (s : State) (r : Run) (t : Nat) : Bool :=
  isHfPort r.port && r.rxPorts.any fun p => r.bit (R.hfaCancelCfg p) F.hfaCancelCfg.enable && (neighbours p).any (s.droveSince t)

/-! ### Cancellation (R85, R86) -/

/-- The 12-bit parts of a coefficient. -/
def coefPart (w : Word) (f : Fld) : Int := (BitVec.ofNat 12 (Word.get w f)).toInt

/-- Running coefficient j of a port (R25, R85). -/
def Run.coef (r : Run) (p j : Nat) : Int × Int :=
  let w := SMap.look (resetWord (R.hfaCancelCoef p j)) r.cfg (R.hfaCancelCoef p j)
  (coefPart w F.hfaCancelCoef.re, coefPart w F.hfaCancelCoef.im)

/-- The drive of an HF port at a tick, in 1/2,048 of a carrier of 1,500 mW (notes/assumptions/24.md): its power, its group
setting and its ramp, and `left` of 2,048 what modulation leaves of it while an exchange runs on the port (R86). -/
def State.driveNow (s : State) (p left : Nat) : Int × Int :=
  let x := s.slice (s.server p)
  let v := x.vec.value s.now
  let busy := match s.runAt p with
    | some r => r.exch.isSome
    | none => false
  let a : Int := (root (2048 * 2048 * x.power / (1500 * 3969)) * x.level true s.now * (if busy then min 2048 left else 2048) : Nat)
  let d : Int := 63 * 2 ^ 24 * 1023 * 2048
  (v.1 * a / d, v.2 * a / d)

/-- The drive of neighbour j of a port, as the carrier group brings it: zero of a neighbour that does not drive (R85, R86). -/
def State.driveOf (s : State) (p : Nat) (left : List Nat) (j : Nat) : Int × Int :=
  match neighbourAt p j with
  | some q => if s.drives q then s.driveNow q (left.getD j 2048) else (0, 0)
  | none => (0, 0)

/-- y = x − Σ c · d in 1/2,048², with x and d in 1/2,048; without enable y is x (R86, notes/assumptions/24.md). -/
def Run.cancelled (r : Run) (p : Nat) (x : Int × Int) (d : Nat → Int × Int) : Int × Int :=
  if r.bit (R.hfaCancelCfg p) F.hfaCancelCfg.enable then
    (List.range 4).foldl (fun y j => let z := cmul (r.coef p j) (d j); (y.1 - z.1, y.2 - z.2)) (2048 * x.1, 2048 * x.2)
  else (2048 * x.1, 2048 * x.2)

/-- A window of a receiver after cancellation (R86). -/
def Run.clean (r : Run) (p : Nat) (w : Sample) : Int × Int :=
  r.cancelled p w.x fun j => if (neighbourAt p j).isSome then w.drive.getD j (0, 0) else (0, 0)

/-- Turn a value back by a phase code (R83). -/
def turnBack (y : Int × Int) (code : Nat) : Int × Int :=
  let z := cmul y (conj (phasor code))
  (z.1 / 2 ^ 24, z.2 / 2 ^ 24)

/-- One window as the receivers of a stake give it together, each after cancellation: the member that receives, or the members,
aligned by their measured carrier phases and summed with equal gain (R83). -/
def Run.received (r : Run) (phases : List (BitVec 8)) (l : List Sample) : Int × Int :=
  let one (i : Nat) : Int × Int := match l[i]? with
    | some w => r.clean (r.port + i) w
    | none => (0, 0)
  match r.rxMembers with
  | [i] => one i
  | sel => sel.foldl (fun a i => let y := turnBack (one i) (phases.getD i 0).toNat; (a.1 + y.1, a.2 + y.2)) (0, 0)

/-- The energy of a window as the receivers of a stake give it together, in 1/2,048⁴. -/
def Run.energy (r : Run) (phases : List (BitVec 8)) (l : List Sample) : Nat := (norm2 (r.received phases l)).toNat

/-- Energy of the bins of a symbol. -/
def energyOf (y : List (Int × Int)) : Int := (y.map norm2).sum

/-- The bins of a symbol as the receivers of a stake give them together (R83, R86), in 1/2,048². -/
def Run.bins (r : Run) (phases : List (BitVec 8)) (l : List (List Sample)) : List (Int × Int) :=
  (List.range 8).map fun k => r.received phases (l.map fun m => m.getD k { x := (0, 0), drive := [] })

/-- The energy of a component of a reply start: of the modulated half-bit of its start bit (R91, R104), of a Wide Reply that of the eight
subcarriers together (R170). -/
def Run.compEnergy (r : Run) (wide : Bool) (phases : List (BitVec 8)) (k : Component) : Nat :=
  if wide then (energyOf (r.bins phases k.bins)).toNat else r.energy phases k.amps

/-- Word 4 of a TAG_REPORT (R316). -/
def State.reportWord4 (s : State) (r : Run) (i : TagInfo) : Word :=
  let o := r.lastSeen
  let rssi := match o with
    | some x => x.rssi.toNat
    | none => 0
  let gain := match o with
    | some x => x.gain.toNat
    | none => 0
  let aerial := match o with
    | some x => x.aerial
    | none => false
  let off := match o with
    | some x => (x.offset + 256 - 2048 % 256) % 256
    | none => 0
  let flags := r.walk.slottedFlag.toNat + 2 * (decide (r.missing ≠ [])).toNat + 4 * r.nb.toNat
    + 8 * r.detuned.toNat + 16 * i.untracked.toNat + 32 * r.sjcLow.toNat + 64 * (s.port r.port).covered.toNat
    + 128 * (decide (i.quality ≠ [])).toNat + 256 * i.part.toNat
  BitVec.ofNat 64 (rssi * 2 ^ 56 + gain * 2 ^ 53 + aerial.toNat * 2 ^ 52
    + (if protoOf r.inner = 1 then off else 0) * 2 ^ 44 + r.flagged.1 % 64 * 2 ^ 38 + r.flagged.2.1.toNat * 2 ^ 37
    + min 31 r.absorbed * 2 ^ 32 + flags)

/-- The time of a report (R23, R316): the tick in which the last bit of the stake's last reply ended; without one, that of
the commit (notes/assumptions/83.md). -/
def State.reportTime (s : State) (r : Run) : Nat := if r.lastSeen.isSome then r.lastBit else s.now

/-- A TAG_REPORT of a stake (R316), to the report FIFO of its block. The metrics of R206 and the number of flagged bits of
R108 have no field in it. -/
def State.tagReport (s : State) (r : Run) (i : TagInfo) : State :=
  let w2 := BitVec.ofNat 64 (r.port % 256 * 2 ^ 56 + i.status.code * 2 ^ 48 + protoOf r.inner * 2 ^ 44
    + i.cls % 16 * 2 ^ 40 + i.identLen % 256 * 2 ^ 32 + i.tagStatus.toNat * 2 ^ 24 + r.template * 2 ^ 16
    + i.data.length % 65536)
  s.commit (blkFifo r.block) (s.packet 0x21 r.pitch 0
    ([w2, BitVec.ofNat 64 (s.reportTime r), s.reportWord4 r i, i.ident.setWidth 64, (i.ident >>> 64).setWidth 64]
      ++ packUnits i.data ++ i.quality))

/-- A REQUEST_DONE (R318) to the pitch's done FIFO, and the REQUEST trace record (R394). -/
def State.requestDone (s : State) (q port : Nat) (st : Status) (type exch : Nat) (hdr0 hdr1 : Word) (ue : Bool)
    (replyBits d : Nat) (body : List Word) : State :=
  let w2 := BitVec.ofNat 64 (port % 256 * 2 ^ 56 + st.code * 2 ^ 48 + type % 256 * 2 ^ 40 + exch % 256 * 2 ^ 32
    + Word.get hdr0 (31, 0))
  let w4 := BitVec.ofNat 64 (replyBits % 65536 * 2 ^ 32 + ue.toNat * 2 ^ 16 + d % 65536)
  let s1 := match s.doneFifo q with
    | none => s
    | some n => s.commitDone n (s.packet 0x24 q (Word.get hdr1 (31, 0)) ([w2, BitVec.ofNat 64 s.now, w4] ++ body))
  s1.trace 0x04 port (q % 256 * 2 ^ 40 + st.code * 2 ^ 32 + Word.get hdr0 (31, 0))

/-! ### The failure budget (R126) -/

def State.budgetEntry (s : State) (q : Nat) (id : BitVec 128) : Option BudgetEntry :=
  s.sec.budget.find? fun e => decide (e.pitch = q) && decide (e.ident = id)

/-- SEC_KRV_BUDGET.attempts as a stake has it (R25); 0 forbids PASSWORD and AUTH_1 (R133). -/
def Run.attempts (r : Run) : Nat := r.fld R.secKrvBudget F.secKrvBudget.attempts

/-- No PASSWORD or AUTH_1 goes out for the pair in a stake that allows it n attempts: its entry is spent, or it has none and the
table is full. -/
def State.budgetSpent (s : State) (n q : Nat) (id : BitVec 128) : Bool :=
  match s.budgetEntry q id with
  | some e => decide (n ≤ e.fails)
  | none => decide (4096 ≤ s.sec.budget.length) || decide (n = 0)

def State.setBudget (s : State) (l : List BudgetEntry) : State :=
  (s.setSec { s.sec with budget := l }).setFld R.secKrvBudgetStatus F.secKrvBudgetStatus.inUse l.length

/-- A LOCKED_OUT exchange: counted, and full shown when the table holds no room (R126). -/
def State.budgetRefuse (s : State) (q : Nat) (id : BitVec 128) : State :=
  let s1 := s.bumpSat R.secKrvBudgetStatus F.secKrvBudgetStatus.refused 1
  if (s.budgetEntry q id).isSome ∨ s.sec.budget.length < 4096 then s1
  else s1.setBit R.secKrvBudgetStatus F.secKrvBudgetStatus.full true

/-- A failure opens an entry or counts in it. DESIGN CHOICE (notes/assumptions/77.md): a counted failure of a pair without an
entry that finds the table full leaves no entry and sets full. -/
def State.budgetFail (s : State) (q : Nat) (id : BitVec 128) : State :=
  match s.budgetEntry q id with
  | some _ => s.setBudget (s.sec.budget.map fun e =>
      if e.pitch = q ∧ e.ident = id then { e with fails := e.fails + 1 } else e)
  | none =>
    if s.sec.budget.length < 4096 then
      s.setBudget (s.sec.budget ++ [{ pitch := q, ident := id, fails := 1, openedAt := s.now }])
    else s.setBit R.secKrvBudgetStatus F.secKrvBudgetStatus.full true

/-- A success clears the entry, and so does the end of its window. -/
def State.budgetClear (s : State) (q : Nat) (id : BitVec 128) : State :=
  s.setBudget (s.sec.budget.filter fun e => !(decide (e.pitch = q) && decide (e.ident = id)))

end Sys2Proof.Machine
end

