-- ==== Sys2Proof/Machine/Flags.lean ====
section
/-! DEFINITION. Every verdict, class and status the manual computes: the CRC of the check units (R244 to R248), the
exchange classes (R104, R108, R110, R180), the tag status codes (R122), the head classes (R92, R210), and the parity
checks of the Wide Reply code (R167, R176). -/

namespace Sys2Proof.Machine

/-! ### CRC (R244 to R247) -/

/-- One input bit of R244. -/
def crcBit (w poly reg : Nat) (b : Bool) : Nat :=
  let fb := b != decide (reg / 2 ^ (w - 1) % 2 = 1)
  let r := reg * 2 % 2 ^ w
  if fb then r ^^^ poly else r

/-- Bit i moves to bit w − 1 − i. -/
def reflectW (w v : Nat) : Nat :=
  (List.range w).foldl (fun a i => if v / 2 ^ i % 2 = 1 then a + 2 ^ (w - 1 - i) else a) 0

/-- Parameters of a computation (R244). -/
structure CrcCfg where
  w : Nat
  poly : Nat
  init : Nat
  refin : Bool
  refout : Bool
  xorout : Nat
  deriving DecidableEq, Repr

/-- The result of R244; bits of poly, init and xorout at and above w are ignored (R251). -/
def crcOf (c : CrcCfg) (bits : List Bool) : Nat :=
  let reg := bits.foldl (crcBit c.w (c.poly % 2 ^ c.w)) (c.init % 2 ^ c.w)
  (if c.refout then reflectW c.w reg else reg) ^^^ (c.xorout % 2 ^ c.w)

/-- Input order of bytes in a host run (R245). -/
def byteBits (refin : Bool) (b : Byte) : List Bool :=
  if refin then (List.range 8).map fun i => b.getLsbD i else (List.range 8).map fun i => b.getLsbD (7 - i)

/-- The presets of R247. -/
def presetKrovrel : CrcCfg := { w := 16, poly := 0x2F15, init := 0xFFFF, refin := true, refout := true, xorout := 0 }
def presetCrc32c : CrcCfg :=
  { w := 32, poly := 0x1EDC6F41, init := 0xFFFFFFFF, refin := true, refout := true, xorout := 0xFFFFFFFF }
def presetCrcA : CrcCfg := { w := 16, poly := 0x1021, init := 0xC6C6, refin := true, refout := true, xorout := 0 }
def presetCrcB : CrcCfg := { w := 16, poly := 0x1021, init := 0xFFFF, refin := true, refout := true, xorout := 0xFFFF }
def presetFelica : CrcCfg := { w := 16, poly := 0x1021, init := 0, refin := false, refout := false, xorout := 0 }
def presetGen2 : CrcCfg :=
  { w := 16, poly := 0x1021, init := 0xFFFF, refin := false, refout := false, xorout := 0xFFFF }

/-- CRC-32C of bytes (R165). -/
def crc32c (l : List Byte) : Nat := crcOf presetCrc32c (l.flatMap (byteBits true))

/-- CRC-32C of words, least significant byte first. -/
def crc32cWords (l : List Word) : Nat := crc32c (l.flatMap Word.bytes)

/-! ### Exchange classes -/

/-- Class code of R110. -/
def XClass.code : XClass → Nat
  | .cut => 1 | .silent => 2 | .skewed => 3 | .collided => 4 | .garbled => 5 | .shortLong => 6 | .received => 7

/-! ### Detection and collisions (R91, R104, R107 to R109) -/

/-- An energy lies at least `db` dB above another: 10 log10 (a / n) ≥ db. -/
def dbAbove (db a n : Nat) : Bool := decide (0 < a) && decide (10 ^ db * n ^ 10 ≤ a ^ 10)

/-- The weaker amplitude is at least (col + 1) ÷ 16 of the stronger (R91), of energies. -/
def near (col weak strong : Nat) : Bool := decide ((col + 1) ^ 2 * strong ≤ 256 * weak)

/-- The energy of a noise floor whose amplitude comes in 1/2,048, in the unit of `Run.energy`. -/
def noiseEnergy (n : Nat) : Nat := (2048 * n) ^ 2

/-- The half-bits of a reply as the demodulator compares them, up to the first bit that is not detected (R91, R107); `e` gives
the energy of a window. -/
def halfBits (e : List Sample → Nat) (thr noise : Nat) (l : List (List Sample × List Sample)) : List (Nat × Nat) :=
  (l.map fun h => (e h.1, e h.2)).takeWhile fun h => dbAbove thr (max h.1 h.2) (noiseEnergy noise)

/-- A bit is 1 when its first half carries the subcarrier (R106). -/
def halfBit (h : Nat × Nat) : Bool := decide (h.2 < h.1)

/-- The bit is flagged as colliding (R91). -/
def halfFlag (col : Nat) (h : Nat × Nat) : Bool := near col (min h.1 h.2) (max h.1 h.2)

/-- The positions of the flagged bits, lowest first. -/
def flagsOf (col : Nat) (l : List (Nat × Nat)) : List Nat :=
  (List.range l.length).filter fun i => halfFlag col (l.getD i (0, 0))

/-- A code next to a value: the value where it is a whole one, else one of its two neighbours (notes/assumptions/91.md). -/
def quant (x : Rat) : Int := if x.den = 1 ∨ !Config.roundUp x then x.floor else x.floor + 1

/-- The value of bits sent least significant first (R99). -/
def bitsVal : List Bool → Nat
  | [] => 0
  | b :: l => b.toNat + 2 * bitsVal l

/-- A component of a reply start is seen (R91, R104, R109): above the threshold, and not captured by the strongest. -/
def compSeen (e : Component → Nat) (thr col noise strongest : Nat) (c : Component) : Bool :=
  dbAbove thr (e c) (noiseEnergy noise) && near col (e c) strongest

/-- The components of a reply start that are seen. -/
def seenComps (e : Component → Nat) (thr col : Nat) (o : StartObs) : List Component :=
  let top := (o.comps.map e).foldl max 0
  o.comps.filter (compSeen e thr col o.noise top)

/-- The strongest of the components, the first of equal ones. -/
def strongest (e : Component → Nat) : List Component → Option Component
  | [] => none
  | c :: l => match strongest e l with
    | none => some c
    | some d => if e c < e d then some d else some c

/-- The total power of all components reaches `db` dB above the noise floor (R90, R108). -/
def totalAbove (e : Component → Nat) (db : Nat) (o : StartObs) : Bool :=
  decide (10 ^ db * noiseEnergy o.noise ^ 10 ≤ ((o.comps.map e).sum) ^ 10)

/-- The first flag is trusted (R108): `arb` is the prefix length of an arbitration exchange. -/
def flagTrusted (o : Latched) (r : ReplyObs) (arb : Option Nat) : Bool :=
  !o.offTime && o.clear && decide (0 < r.flags) &&
  (match arb, r.flagUid with
   | some l, some j => decide (l ≤ j) && decide (j < 64)
   | _, _ => false)

/-- The class of an exchange with a Narrow Reply: the first row of R110 that applies. -/
def classify (seen : Option Latched) (verdict : Option Bool) (r : ReplyObs) (arb : Option Nat) : XClass :=
  match seen with
  | none => .silent
  | some o =>
    if o.offTime then .skewed
    else if flagTrusted o r arb then .collided
    else if r.len ≠ .exact then .shortLong
    else if 0 < r.flags ∨ r.fault = true ∨ verdict ≠ some true then .garbled
    else .received

/-- Status of a class that was not RECEIVED (R110). The table gives COLLIDED no status, since the walk descends on it;
DESIGN CHOICE (notes/assumptions/79.md): CRC_FAIL, as for the flags of row 5. -/
def XClass.status : XClass → Status
  | .cut => .abandoned | .silent => .noTag | .skewed => .timingSkew | .collided => .crcFail | .garbled => .crcFail
  | .shortLong => .badLength | .received => .ok

/-- Report status of a tag status byte (R122). -/
def tagStatus (b : BitVec 8) : Status :=
  if b = 0 then .ok else if b = 3 then .notErased else if b = 6 ∨ b = 7 then .authFail else .tagError

/-! ### Head classes -/

/-- R92: |Z| in 0.1 Ω, the phase in steps of 1.40625° (30° is 21.3 steps). -/
def hfHead (o : HeadObs) : Nat :=
  let ph := o.phase.toInt
  if 250 ≤ o.mag ∧ o.mag ≤ 1000 ∧ -21 ≤ ph ∧ ph ≤ 21 then 1
  else if 10000 < o.mag then 3
  else if o.mag < 50 then 4
  else 2

/-- R210: return loss in 0.1 dB, the phase of Γ (90° is 64 steps). -/
def uhfHead (o : HeadObs) : Nat :=
  let ph := o.phase.toInt
  if 100 ≤ o.mag then 1
  else if 30 ≤ o.mag then 2
  else if -64 ≤ ph ∧ ph ≤ 64 then 3
  else 4

/-- ABSENT or SHORT (R94). -/
def headGone (c : Nat) : Bool := decide (c = 3) || decide (c = 4)

def headClass (p : Nat) (o : HeadObs) : Nat := if isHf p then hfHead o else uhfHead o

/-! ### The Wide Reply code (R167, R176) -/

/-- The shift of info entry (r, c) of the base matrix. -/
def infoShift (r c : Nat) : Nat :=
  ((r + 17) * c + (if r = 0 then 0 else if r = 1 then 20 else if r = 2 then 44 else 11) + 5) % 52

/-- The row of the base matrix: column and shift of each entry that is not −. -/
def baseRow (r : Nat) : List (Nat × Nat) :=
  (List.range 16).map (fun c => (c, infoShift r c)) ++
  (if r = 0 then [(16, 1), (17, 0)] else if r = 1 then [(17, 0), (18, 0)]
   else if r = 2 then [(16, 0), (18, 0), (19, 0)] else [(16, 1), (19, 0)])

/-- Check i of block row r: row i of a block shifted by s has its 1 in column (i + s) mod 52. -/
def parityOk (v : BitVec 1040) (r i : Nat) : Bool :=
  !((baseRow r).foldl (fun a x => a != v.getLsbD (52 * x.1 + (i + x.2) % 52)) false)

/-- The hard decisions satisfy all 208 checks of H (R176). -/
def converged (v : BitVec 1040) : Bool :=
  (List.range 4).all fun r => (List.range 52).all fun i => parityOk v r i

end Sys2Proof.Machine
end

