-- ==== Sys2Proof/Machine/Singulate.lean ====
section
/-! DEFINITION. What SNG decides after every exchange: the Krovrel tree walk and slotted rounds (R134 to R142), the Gen2
Q algorithm (R144), the ISO/IEC procedures (R146 to R149), and the action on an identified tag (R437, R217). -/

namespace Sys2Proof.Machine

/-! ### Settings of a running stake -/

def Run.walkFld (r : Run) (f : Fld) : Nat := r.fld R.sngWalkCfg f
def Run.garbleRetry (r : Run) : Nat := r.walkFld F.sngWalkCfg.garbleRetry
def Run.confirm (r : Run) : Bool := decide (r.walkFld F.sngWalkCfg.confirm ≠ 0)
def Run.alternate (r : Run) : Bool := decide (r.walkFld F.sngWalkCfg.alternate ≠ 0)
def Run.slotFld (r : Run) (f : Fld) : Nat := r.fld R.sngSlotCfg f

/-- The key of R57 and R141: port, pitch, template. -/
def Run.key (r : Run) : Nat × Nat × Nat := (r.port, r.pitch, r.template)

/-- The polarity bit that a walk of the stake uses (R141). DESIGN CHOICE (notes/assumptions/107.md): it outlives the save record of its
key. -/
def State.polOf (s : State) (r : Run) : Bool := r.alternate && decide (r.key ∈ s.polarity)

/-- Flip the polarity bit of a key. -/
def State.flipPol (s : State) (k : Nat × Nat × Nat) : State :=
  s.setPolarity (if k ∈ s.polarity then s.polarity.filter (· ≠ k) else k :: s.polarity)

/-- Smallest Q, at most 15, with 2^Q ≥ n. -/
def smallestQ (n : Nat) : Nat :=
  match (List.range 16).find? fun q => decide (n ≤ 2 ^ q) with
  | some q => q
  | none => 15

/-! ### Starting a walk -/

/-- A Krovrel template, with the tree walk. -/
def krovrelInner (t : Nat) : Bool := decide (t = 0x01) || decide (t = 0x08)

/-- BEGIN with the mask of a block (R131, R134). -/
def blkBegin (b : List Word) (slotted : Bool) (q : Nat) (target : Bool) : Cmd :=
  .kBegin slotted q target (BitVec.ofNat 16 (bf b 9 63 48)) (bf b 9 47 40) (b.getD 10 0)

/-- The MARK value that a block's BEGIN joins (R131). -/
def blkTarget (b : List Word) : Bool := decide (bf b 8 51 51 = 1)

/-- The AFI that a block sends, none with afi_en 0 (R145). -/
def blkAfi (b : List Word) : Option Byte := if bf b 8 43 43 = 1 then some (BitVec.ofNat 8 (bf b 8 51 44)) else none

/-- REQB and WUPB: without afi_en the AFI is 0, which every family answers (R145). -/
def blkReqb (b : List Word) (wake : Bool) (k : Nat) : Cmd := .bReq wake k ((blkAfi b).getD 0)

/-- An inventory of ISO/IEC 15693 with the AFI of a block. -/
def blkInventory (b : List Word) (mask : Word) (len : Nat) (sixteen : Bool) : Cmd := .vInventory mask len sixteen (blkAfi b)

/-- SENSF_REQ with a block's system and request codes (R145, R149). -/
def blkSensf (b : List Word) (k : Nat) : Cmd := .fSensf k (BitVec.ofNat 16 (bf b 8 27 12)) (bf b 8 11 4)

/-- The bit pointer of every Select (R217). -/
def selectPtr (bank : Nat) : Nat := if bank = 1 then 0x20 else 0

/-- The Select of a block (R217). -/
def blkSelect (b : List Word) : Cmd :=
  .gSelect (bf b 5 62 60) (bf b 5 59 57) (bf b 5 56 55) (selectPtr (bf b 5 56 55)) (bf b 5 54 47)
    (BitVec.ofNat 128 ((b.getD 6 0).toNat + (b.getD 7 0).toNat * 2 ^ 64))

/-- The Query of a block: session and Sel of word 8 (R143). -/
def blkQuery (b : List Word) (q : Nat) (target : Bool) : Cmd := .gQuery q target (bf b 8 55 54) (bf b 8 51 50)

/-- The first command of a fresh walk (R134, R138, R144 to R149). -/
def firstCmd (t : Nat) (b : List Word) (pol : Bool) (w : Walk) : Cmd :=
  if krovrelInner t then blkBegin b w.slotted w.q (blkTarget b != pol)
  else if t = 0x02 then .aReqa (decide (bf b 8 55 55 = 1))
  else if t = 0x03 then blkReqb b (decide (bf b 8 55 55 = 1)) w.q
  else if t = 0x04 then blkInventory b (b.getD 9 0) (bf b 8 42 36) (decide (bf b 8 54 52 = 4))
  else if t = 0x05 then blkSensf b w.q
  else if bf b 5 63 63 = 1 then blkSelect b
  else blkQuery b w.q w.target

/-- The walk state at the start of a fresh walk. -/
def freshWalk (t : Nat) (b : List Word) (pol identified empty : Bool) : Walk :=
  let slotted := krovrelInner t && decide (bf b 8 63 56 = 1)
  let q := if krovrelInner t then bf b 8 55 52 else if t = 0x10 then bf b 8 63 60 else bf b 8 54 52
  let w : Walk := { Walk.dflt with
    slotted := slotted, slottedFlag := slotted, cur := if slotted then none else some (0, 0), q := q, pol := pol,
    identified := identified, emptyReported := empty, qfp := 16 * (q : Int),
    target := decide (t = 0x10) && decide (bf b 8 53 53 = 1),
    isoStack := if t = 0x04 then [(b.getD 9 0, bf b 8 42 36, 0)] else [] }
  { w with next := some (firstCmd t b pol w) }

/-- A walk completes (R141): REPORT_EMPTY, the polarity, and a fresh walk in the same stake. -/
def State.completeWalk (s : State) (r : Run) : State :=
  let empty := r.stake.reportEmpty && !r.walk.identified && !r.walk.emptyReported
  let s1 := if empty then s.tagReport r (TagInfo.bare .noTag (if krovrelInner r.inner then 2 else 0)) else s
  let s2 := if r.alternate then s1.flipPol r.key else s1
  let w := freshWalk r.inner r.block (s2.polOf r) r.walk.identified (r.walk.emptyReported || empty)
  s2.putRun { r with walk := w }

/-- A walk ends with a report and starts no further one in the stake (R134), or a fresh one (R146 to R148). DESIGN CHOICE
(notes/assumptions/120.md): a walk that ends with COLLISION_UNRESOLVED is not complete, so it gives no NO_TAG and leaves pol. -/
def State.reportEnd (s : State) (r : Run) (st : Status) (again : Bool) : State :=
  let s1 := s.tagReport r (TagInfo.bare st 0)
  let w :=
    if again then freshWalk r.inner r.block (s1.polOf r) r.walk.identified r.walk.emptyReported
    else { r.walk with next := none, finished := true }
  s1.putRun { r with walk := w }

/-! ### The tree walk and slotted rounds -/

/-- Send the WALK of the entry in hand, take the top entry, or complete (R134). -/
def State.topEntry (s : State) (r : Run) : State :=
  let go (e : Word × Nat) (rest : List (Word × Nat)) : State :=
    s.putRun { r with walk := { r.walk with cur := some e, stack := rest, next := some (.kWalk e.2 e.1), repeats := 0 } }
  match r.walk.cur, r.walk.stack with
  | some e, l => go e l
  | none, e :: l => go e l
  | none, [] => s.completeWalk r

/-- Pop the entry. -/
def Run.pop (r : Run) : Run := { r with walk := { r.walk with cur := none, repeats := 0 } }

/-- Entries of the walk: those pushed, and the one in hand. -/
def Walk.entries (w : Walk) : Nat := w.stack.length + w.cur.isSome.toNat

/-- R138: leave the tree for slotted rounds. DESIGN CHOICE (notes/assumptions/78.md): the entry in hand, whose exchange
failed, counts among the stack entries of Q_fb. -/
def State.fallback (s : State) (r : Run) : State :=
  let q := max (bf r.block 8 55 52) (smallestQ (r.walk.entries + 2))
  (s.bump R.sngFallbackCnt F.sngFallbackCnt.count).putRun { r with walk := { r.walk with
    slotted := true, slottedFlag := true, cur := none, stack := [], q := q, slot := 0, collided := 0, repeats := 0,
    next := some (.kReround q) } }

/-- The next slot, or the end of the frame (R139, R140); `col` when this slot was collided. -/
def State.nextSlot (s : State) (r : Run) (col : Bool) : State :=
  let c := r.walk.collided + col.toNat
  let n := r.walk.slot + 1
  if n < 2 ^ r.walk.q then
    s.putRun { r with walk := { r.walk with slot := n, collided := c, next := some .kNextSlot } }
  else if c = 0 then s.completeWalk r
  else
    let sch := r.slotFld F.sngSlotCfg.schoute
    let est := (c * (if sch = 0 then 1024 else sch) + 1023) / 1024
    let lo := r.slotFld F.sngSlotCfg.qMin
    let q := clamp lo (max lo (r.slotFld F.sngSlotCfg.qMax)) (smallestQ est)
    s.putRun { r with walk := { r.walk with slot := 0, collided := 0, q := q, next := some (.kReround q) } }

/-- The prefix that a trusted flag at UID bit j leaves: bits below j as decoded, those below L from the entry. -/
def flagPrefix (v : Word) (l j : Nat) (ident : BitVec 128) : Word :=
  BitVec.ofNat 64 ((v.toNat % 2 ^ l + ident.toNat % 2 ^ 64 / 2 ^ l * 2 ^ l) % 2 ^ j)

/-! ### The action on an identified tag -/

/-- An action with nothing done yet. -/
def Action.fresh (ident : BitVec 128) (len : Nat) (todo : List Cmd) (pair : Bool) : Action :=
  { ident := ident, identLen := len, todo := todo, status := .ok, tagStatus := 0, cls := 7, selected := false
    isRead := false, data := [], quality := [], rn16 := 0, rc := 0, tc := 0, key := 0, session := none, repeats := 0
    replyBits := 0, tried := none, bn := false, sends := 0, apduOut := [], apduIn := [], fsc := 16
    count := 0, pairSel := pair, untracked := false, part := false }

/-- The commands of a block's action (R437, R145, R217); `uid` is the identifier, its first byte in bits [7:0]. -/
def blockAction (t : Nat) (b : List Word) (pol : Bool) (uid : Word) : List Cmd :=
  let a := bf b 8 47 40
  let addr := BitVec.ofNat 16 (bf b 8 39 24)
  let sleep : List Cmd := if bf b 8 50 50 = 1 then [.kSleep (decide (bf b 8 49 49 = 1) != pol)] else []
  let key : List Cmd := if t = 0x08 then (if a = 0 then [] else [.kPassword 0])
    else if a = 2 then [.kPassword 0] else if a = 3 then [.kAuth1 (bf b 8 7 6) 0, .kAuth2 0] else []
  let read : List Cmd := if t = 0x08 then [.kReadWide addr (bf b 8 20 16)]
    else if a = 0 then [] else [.kRead addr (bf b 8 23 16)]
  if krovrelInner t then [[Cmd.kSelect uid], key, read, sleep].flatten
  else if t = 0x02 then (if bf b 8 63 56 = 0 then [.aHlta] else [.aRats (bf b 8 35 32) (bf b 8 31 28), .aDeselect])
  else if t = 0x03 then
    (if bf b 8 63 56 = 0 then [.bHltb (uid.setWidth 32)] else [.bAttrib (uid.setWidth 32) (bf b 8 31 28) 0, .aDeselect])
  else if t = 0x04 then []
  else if t = 0x05 then (if bf b 8 63 56 = 0 then [] else [.fAtr uid, .fRls])
  else if bf b 9 63 56 = 0 then []
  else [[Cmd.gReqRn], if bf b 9 63 56 = 1 then [] else [.gAccess 0],
    [.gOp 0 (bf b 9 55 54) (bf b 9 53 32) (bf b 9 31 24) []]].flatten

/-- The action that a stake's block carries out on a tag, with the key of its slot (R124, R127, R217, R437). -/
def Run.blockAct (r : Run) (ident : BitVec 128) (len : Nat) (pol : Bool) (uid : Word) (pair : Bool) : Action :=
  let slot := if uhfTemplate r.inner then bf r.block 9 23 16 else bf r.block 8 15 8
  { Action.fresh ident len (blockAction r.inner r.block pol uid) pair with key := SMap.look 0 r.keys (slot % 64) }

/-- The key of an identifier in the presence table; an EPC beyond 128 bits by its first 96 bits and the CRC-32C of the
rest (R150). -/
def epcIdent (ident : BitVec 128) (rest : List Bool) : BitVec 128 :=
  if rest = [] then ident
  else
    let l := ((List.range 32).map fun i => ident.getLsbD (96 + i)) ++ rest
    BitVec.ofNat 128 (ident.toNat % 2 ^ 96 + crcOf presetCrc32c l * 2 ^ 96)

def keyOf (t : Nat) (o : ReplyObs) : PKey :=
  { proto := protoOf t, ident := epcIdent o.ident o.identRest
    len := if o.identRest = [] then o.identLen else 16 }

/-- RSSI that a report carries now. -/
def Run.rssi (r : Run) : Nat :=
  match r.lastSeen with
  | some x => x.rssi.toNat
  | none => 0

/-! ### After each exchange of the procedure -/

/-- After the action, or after a slot with nothing to act on, in rounds of Type B and ISO/IEC 18092 (R147, R149):
`walk.empties` counts the replies of the round. DESIGN CHOICE (notes/assumptions/82.md): the REQB after a round with replies
and no collision goes back to the slot code of the block. -/
def State.isoRound (s : State) (r : Run) (col : Bool) : State :=
  let w := r.walk
  let c := w.collided + col.toNat
  let n := w.slot + 1
  let typeB := decide (r.inner = 0x03)
  if n < 2 ^ w.q then
    s.putRun { r with walk := { w with slot := n, collided := c,
                                       next := some (if typeB then .bMarker (n + 1) else .fSlot n) } }
  else
    let again (k rounds : Nat) : State :=
      s.putRun { r with walk := { w with slot := 0, collided := 0, empties := 0, q := k, rounds := rounds,
                                         next := some (if typeB then blkReqb r.block false k else blkSensf r.block k) } }
    if c ≠ 0 then
      (if w.q < 4 then again (w.q + 1) w.rounds
       else if typeB ∧ r.garbleRetry ≤ w.rounds then s.reportEnd r .collisionUnresolved true
       else again 4 (w.rounds + 1))
    else if typeB ∧ w.empties ≠ 0 then again (bf r.block 8 54 52) 0
    else s.completeWalk r

/-- The stack of an ISO/IEC 15693 walk after a descent on the lowest pending slot of its top entry, entries with an empty map
popped first (R148). -/
def isoNext : List (Word × Nat × BitVec 16) → Option ((Word × Nat) × List (Word × Nat × BitVec 16))
  | [] => none
  | (m, l, p) :: rest =>
    match (List.range 16).find? fun i => p.getLsbD i with
    | none => isoNext rest
    | some i =>
      let v : Word := BitVec.ofNat 64 (m.toNat % 2 ^ l + i * 2 ^ l)
      some ((v, l + 4), (v, l + 4, 0#16) :: (m, l, p &&& ~~~(1#16 <<< i)) :: rest)

/-- The next step of an ISO/IEC 15693 walk once an entry's slots have ended (R148). DESIGN CHOICE (notes/assumptions/121.md): the
inventory after a descent has 16 slots whatever slots_k is. -/
def State.isoDescend (s : State) (r : Run) : State :=
  match isoNext r.walk.isoStack with
  | none => s.completeWalk r
  | some (e, l) =>
    s.putRun { r with walk := { r.walk with isoStack := l, slot := 0, next := some (blkInventory r.block e.1 e.2 true) } }

/-- After a slot of an ISO/IEC 15693 inventory (R148): one slot, or the next of 16. -/
def State.isoSlot (s : State) (r : Run) (sixteen : Bool) : State :=
  if sixteen ∧ r.walk.slot + 1 < 16 then
    s.putRun { r with walk := { r.walk with slot := r.walk.slot + 1, next := some (.vSlot (r.walk.slot + 1)) } }
  else s.isoDescend r

/-- The Q algorithm after a slot (R144). DESIGN CHOICE (notes/assumptions/80.md): the Query of the next round keeps Q and Qfp
as the round left them. -/
def State.gen2Slot (s : State) (r : Run) (empty col : Bool) : State :=
  let b := r.block
  let w := r.walk
  let c : Int := bf b 8 59 56
  let e := if empty then w.empties + 1 else 0
  let qfp : Int := if empty then max (16 * (bf b 8 49 46 : Int)) (w.qfp - c)
    else if col then min (16 * (bf b 8 45 42 : Int)) (w.qfp + c) else w.qfp
  let rnd := ((qfp + 8) / 16).toNat
  if max 4 (2 ^ w.q) ≤ e then
    let t := w.target != decide (bf b 8 52 52 = 1)
    let w1 : Walk := { w with qfp := qfp, empties := 0, target := t, windows := 0 }
    let s1 := s.completeWalk { r with walk := w1 }
    s1.modRun r.port fun x => { x with walk := { w1 with
      identified := x.walk.identified, emptyReported := x.walk.emptyReported
      next := some (if bf b 5 63 63 = 1 then blkSelect b else blkQuery b w.q t) } }
  else if w.q < rnd then
    s.putRun { r with walk := { w with qfp := qfp, q := w.q + 1, empties := 0, next := some (.gQueryAdjust true) } }
  else if rnd < w.q then
    s.putRun { r with walk := { w with qfp := qfp, q := w.q - 1, empties := 0, next := some (.gQueryAdjust false) } }
  else s.putRun { r with walk := { w with qfp := qfp, empties := e, next := some .gQueryRep } }

/-- What follows once the action on a tag is over. -/
def State.walkOn (s : State) (r : Run) (paired : Bool) : State :=
  if krovrelInner r.inner then
    (match r.walk.pair with
     | u :: l =>
       -- the second UID of R135
       let r1 : Run := { r with walk := { r.walk with pair := l } }
       s.putRun { r1 with action := some (r.blockAct (u.setWidth 128) 8 (s.polOf r) u true) }
     | [] =>
       if r.walk.slotted then s.nextSlot r false
       else if r.confirm ∧ !paired then s.topEntry r
       else s.topEntry r.pop)
  else if r.inner = 0x02 then
    s.putRun { r with walk := { r.walk with level := 1, known := [], repeats := 0, next := some (.aReqa false) } }
  else if r.inner = 0x03 ∨ r.inner = 0x05 then s.isoRound r false
  else if r.inner = 0x04 then
    (if r.walk.slotted then s.isoSlot r true else s.isoDescend r)
  else s.gen2Slot r false false

/-- The data words that the report of an action carries, and whether they are partial data: with a Wide Reply, a status other
than OK carries them with partial alone (R181). -/
def Run.reportData (r : Run) (a : Action) : List (BitVec 32) × Bool :=
  let soft := decide (a.status = .decodeFail) || decide (a.status = .crcFail) || decide (a.status = .badLength)
  if r.inner ≠ 0x08 ∨ a.status = .ok then (a.data, false)
  else if a.part ∨ (a.isRead ∧ bf r.block 11 57 57 = 1 ∧ soft) then (a.data, true)
  else ([], false)

/-- The TAG_REPORT of an action (R436). -/
def State.actionReport (s : State) (r : Run) (a : Action) : State :=
  s.tagReport r { status := a.status, cls := if krovrelInner r.inner then a.cls else 0, ident := a.ident
                  identLen := a.identLen, tagStatus := a.tagStatus, data := (r.reportData a).1, quality := a.quality
                  untracked := a.untracked, part := (r.reportData a).2 }

/-- An action has ended: its report, and what follows; the SELECT of R135 that failed reports nothing. A Type A activation
that garble_retry repetitions did not bring through ends the walk (R146). -/
def State.finishTag (s : State) (r : Run) (a : Action) : State :=
  let r1 : Run := { r with action := none }
  let s1 := if a.pairSel ∧ !a.selected then s else s.actionReport r1 a
  if r.inner = 0x02 ∧ a.status = .collisionUnresolved then
    s1.putRun { r1 with walk := freshWalk r.inner r.block (s1.polOf r1) r.walk.identified r.walk.emptyReported }
  else s1.walkOn r1 a.pairSel

/-- A tag is identified by a counted read (R153), and its action begins; an action without an exchange ends at once (R436). -/
def State.identify (s : State) (r : Run) (o : ReplyObs) (uid : Word) : State :=
  let c := s.countRead r.pitch r.port (keyOf r.inner o) r.rssi
  let a : Action := { r.blockAct (keyOf r.inner o).ident (keyOf r.inner o).len (c.1.polOf r) uid false with
                      untracked := !c.2, rn16 := r.walk.rn16 }
  let r1 : Run := { r with walk := { r.walk with identified := true } }
  if a.todo = [] then c.1.finishTag r1 a else c.1.putRun { r1 with action := some a }

/-- After a Krovrel arbitration exchange: the table of R134, and R139 in slotted mode. -/
def State.krovrelEnd (s : State) (r : Run) (c : Cmd) (cls : XClass) (o : ReplyObs) : State :=
  let w := r.walk
  if w.slotted then
    (match cls with
     | .silent => s.nextSlot r false
     | .received => s.identify r o (o.ident.setWidth 64)
     | _ => s.nextSlot r true)
  else if w.resumeBegin then
    (if cls = .silent then s.completeWalk { r with walk := { w with resumeBegin := false } }
     else s.topEntry { r with walk := { w with resumeBegin := false } })
  else
    match cls with
    | .silent => s.topEntry r.pop
    | .received => s.identify r o (o.ident.setWidth 64)
    | .collided =>
      (match o.flagUid, w.cur with
       | some j, some (v, l) =>
         let p := flagPrefix v l j o.ident
         if j = 63 then
           -- R135: both UIDs are known; the entry leaves the stack when both have been acted on
           let w1 : Walk := { w with repeats := 0, pair := [p ||| BitVec.ofNat 64 (2 ^ 63)] }
           let r1 : Run := { r with walk := w1 }
           s.putRun { r1 with action := some (r.blockAct (p.setWidth 128) 8 (s.polOf r) p true) }
         else
           s.topEntry { r with walk := { w with
             repeats := 0, cur := some (p, j + 1), stack := (p ||| BitVec.ofNat 64 (2 ^ j), j + 1) :: w.stack } }
       | _, _ => s.fallback r)
    | .garbled | .shortLong =>
      if r.garbleRetry ≤ w.repeats then s.fallback r
      else
        match w.cur with
        | some (v, l) => s.putRun { r with walk := { w with repeats := w.repeats + 1, next := some (.kWalk l v) } }
        | none => s.putRun { r with walk := { w with repeats := w.repeats + 1, next := some c } }
    | .skewed => s.fallback r
    | .cut => s.putRun r

/-- Repeat a Type A command up to garble_retry times, then end with COLLISION_UNRESOLVED (R146). -/
def State.retryA (s : State) (r : Run) (c : Cmd) : State :=
  if r.garbleRetry ≤ r.walk.repeats then s.reportEnd r .collisionUnresolved true
  else s.putRun { r with walk := { r.walk with repeats := r.walk.repeats + 1, next := some c } }

/-- The four UID bytes of a cascade level and their BCC, from the bits of an ANTICOLLISION reply. -/
def levelBytes (o : ReplyObs) : List Byte := bytesOf 5 o.ident.toNat

/-- The UID bytes that a cascade level gives: all four of the last one, the three after the cascade tag of an earlier one. -/
def levelUid (l : List Byte) (more : Bool) : List Byte := if more then (l.take 4).drop 1 else l.take 4

/-- After an exchange of the Type A procedure (R146). DESIGN CHOICE (notes/assumptions/81.md): an ANTICOLLISION or a SELECT
that nothing answers completes the walk. DESIGN CHOICE (notes/assumptions/109.md): an ATQA with flagged bits is an ATQA. -/
def State.typeAEnd (s : State) (r : Run) (c : Cmd) (cls : XClass) (o : ReplyObs) : State :=
  let w := r.walk
  let go (lvl : Nat) (known : List Bool) (uid : List Byte) (n : Cmd) : State :=
    s.putRun { r with walk := { w with level := lvl, known := known, uid := uid, repeats := 0, next := some n } }
  match c with
  | .aReqa _ =>
    if cls = .silent then s.completeWalk r
    else if cls = .shortLong ∨ o.fault = true then s.retryA r c
    else go 1 [] [] (.aAnticoll 1 [])
  | .aAnticoll lvl known =>
    if cls = .silent then s.completeWalk r
    else if cls = .shortLong then s.retryA r c
    else if o.flags = 0 then (if o.fault = true then s.retryA r c else go lvl known w.uid (.aSelect lvl (levelBytes o)))
    else (match o.flagUid with
      | none => s.retryA r c
      | some j =>
        let k := ((List.range j).map fun i => o.ident.getLsbD i) ++ [true]
        go lvl k w.uid (.aAnticoll lvl k))
  | .aSelect lvl l =>
    let more := o.code.getLsbD 2 && decide (lvl < 3)
    let uid := w.uid ++ levelUid l more
    if cls = .silent then s.completeWalk r
    else if cls ≠ .received then s.retryA r c
    else if more then go (lvl + 1) [] uid (.aAnticoll (lvl + 1) [])
    else
      let v := leNat (uid.map (·.toNat))
      s.identify r { o with ident := BitVec.ofNat 128 v, identLen := uid.length, identRest := [] } (BitVec.ofNat 64 v)
  | _ => s.putRun r

/-- After an exchange of a slotted procedure: Type B or ISO/IEC 18092 (R147, R149). -/
def State.isoEnd (s : State) (r : Run) (cls : XClass) (o : ReplyObs) : State :=
  if cls = .silent then s.isoRound r false
  else if cls = .received then
    s.identify { r with walk := { r.walk with empties := r.walk.empties + 1 } } o (o.ident.setWidth 64)
  else s.isoRound { r with walk := { r.walk with empties := r.walk.empties + 1 } } true

/-- After a slot of an ISO/IEC 15693 inventory (R148). DESIGN CHOICE (notes/assumptions/110.md): a collision at a length of 61 to 63 is
reported as one at 60. DESIGN CHOICE (notes/assumptions/122.md): COLLISION_UNRESOLVED is reported once for each collided slot, without
the mask. -/
def State.vEnd (s : State) (r : Run) (c : Cmd) (cls : XClass) (o : ReplyObs) : State :=
  let single := match c with
    | .vInventory _ _ false _ => true
    | _ => false
  if cls = .received then s.identify r o (o.ident.setWidth 64)
  else if cls = .silent then (if single then s.isoDescend r else s.isoSlot r true)
  else
    match r.walk.isoStack with
    | [] => s.completeWalk r
    | (m, l, p) :: rest =>
      if single then
        s.putRun { r with walk := { r.walk with slot := 0, next := some (blkInventory r.block m l true) } }
      else if 60 ≤ l then
        (s.tagReport r (TagInfo.bare .collisionUnresolved 0)).isoSlot r true
      else
        s.isoSlot { r with walk := { r.walk with isoStack := (m, l, p ||| (1#16 <<< r.walk.slot)) :: rest } } true

/-- After an exchange of the Gen2 inventory (R144). -/
def State.gen2End (s : State) (r : Run) (c : Cmd) (cls : XClass) (o : ReplyObs) : State :=
  match c with
  | .gSelect _ _ _ _ _ _ => s.putRun { r with walk := { r.walk with next := some (blkQuery r.block r.walk.q r.walk.target) } }
  | .gAck =>
    if cls = .received then s.identify r o (o.ident.setWidth 64)
    else s.gen2Slot r false true
  | _ =>
    if cls = .silent then s.gen2Slot r true false
    else if cls = .received then
      s.putRun { r with walk := { r.walk with next := some .gAck, rn16 := (o.data.getD 0 0).setWidth 16 } }
    else s.gen2Slot r false true

/-- After an exchange of the inventory procedure of a stake. -/
def State.walkEnd (s : State) (r : Run) (c : Cmd) (cls : XClass) (o : ReplyObs) : State :=
  if krovrelInner r.inner then s.krovrelEnd r c cls o
  else if r.inner = 0x02 then s.typeAEnd r c cls o
  else if r.inner = 0x03 ∨ r.inner = 0x05 then s.isoEnd r cls o
  else if r.inner = 0x04 then s.vEnd r c cls o
  else s.gen2End r c cls o

/-! ### The exchanges of an action -/

/-- X ‖ Y of two 64-bit values, first byte sent in bits [7:0] (R99, R127). -/
def join64 (x y : Word) : BitVec 128 := BitVec.ofNat 128 (x.toNat + y.toNat * 2 ^ 64)

/-- The session key of R128. -/
def sessionKey (k : BitVec 256) (rc tc : Word) : BitVec 256 :=
  (cmac (bytesOf 16 k.toNat) ([0x4B, 0x53] ++ bytesOf 8 rc.toNat ++ bytesOf 8 tc.toNat)).setWidth 256

/-- The MAC of a reply of the session verifies (R128). -/
def replyMacOk (ks : BitVec 256) (n : Nat) (o : ReplyObs) : Bool :=
  let body := bytesOf 1 o.status.toNat ++ o.data.flatMap fun u => bytesOf 4 u.toNat
  decide (o.mac = (cmac (bytesOf 16 ks.toNat) (bytesOf 4 n ++ [0x01] ++ body)).setWidth 32)

/-- PASSWORD, AUTH_1 and AUTH_2, which the budget of R126 counts; Gen2 Access and Kill count with them (R215). -/
def Cmd.keyed : Cmd → Bool
  | .kPassword _ => true | .kAuth1 _ _ => true | .kAuth2 _ => true | .gAccess _ => true | .gOp 5 _ _ _ _ => true
  | _ => false

def Cmd.isSleep : Cmd → Bool
  | .kSleep _ => true | _ => false

/-- T1 of an AUTH_1 reply matches AES_K(RC ‖ TC): units 0 and 1 are TC, 2 to 5 are T1 (R127). -/
def authT1Ok (a : Action) (o : ReplyObs) : Bool :=
  let u (i : Nat) : Nat := (o.data.getD i 0).toNat
  let tc : Word := word2 (u 1) (u 0)
  decide (aes (bytesOf 16 a.key.toNat) (join64 a.rc tc) =
    BitVec.ofNat 128 (u 2 + u 3 * 2 ^ 32 + u 4 * 2 ^ 64 + u 5 * 2 ^ 96))

/-- The info bytes decoded, in order (R164). -/
def Wide.bytes (w : Wide) : List Byte :=
  w.done.flatMap fun d => (List.range 104).map fun i => BitVec.ofNat 8 (d.2.2.2.toNat / 2 ^ (8 * i))

/-- Class of a READ_WIDE exchange and its status (R180), from what WRD has decoded. -/
def wideOutcome (syncMin : Nat) (x : Exch) (addr : BitVec 16) (m : Nat) : XClass × Status :=
  let w := x.wide
  let info := w.bytes
  match x.seen with
  | none => (.silent, .noTag)
  | some o =>
    if o.offTime then (.skewed, .timingSkew)
    else if (syncMin ≠ 0 ∧ 256 * w.rho < syncMin) ∨ !w.syncDone then (.garbled, .decodeFail)
    else if w.early then (.shortLong, .badLength)
    else if w.done.length ≠ m ∨ w.done.any (fun d => !d.1) then (.garbled, .decodeFail)
    else if x.verdict ≠ some true then (.garbled, .crcFail)
    else if info.getD 0 1 ≠ 0 ∨ info.getD 1 0 ≠ BitVec.ofNat 8 m ∨ info.getD 2 0 ≠ addr.setWidth 8 ∨
        info.getD 3 0 ≠ (addr >>> 8).setWidth 8 then (.garbled, .tagError)
    else (.received, .ok)

/-- The data words of the codewords decoded: bytes 4 on, without the CRC of a whole reply (R164, R181). -/
def Wide.dataWords (w : Wide) (m : Nat) : List (BitVec 32) :=
  let b := w.bytes
  let n := min (26 * m - 2) (b.length / 4 - 1)
  (List.range n).map fun i => BitVec.ofNat 32
    ((b.getD (4 + 4 * i) 0).toNat + (b.getD (5 + 4 * i) 0).toNat * 2 ^ 8 + (b.getD (6 + 4 * i) 0).toNat * 2 ^ 16
      + (b.getD (7 + 4 * i) 0).toNat * 2 ^ 24)

/-- The quality block (R183). A ρ between two steps takes one of the two codes (notes/assumptions/91.md). -/
def qualityBlock (x : Exch) (m attempt : Nat) : List Word :=
  let w := x.wide
  let snr := w.snr.map (·.toNat)
  let q : Nat := if w.rho ≤ 0 then 0 else min 255 (quant (256 * w.rho)).toNat
  let gain := match x.seen with
    | some o => o.gain.toNat
    | none => 0
  let off := match x.seen with
    | some o => (o.offset + 256 - 2048 % 256) % 256
    | none => 0
  let failed := (w.done.filter fun d => !d.1).length
  let w0 := w.rssi.toNat * 2 ^ 56 + gain * 2 ^ 53 + off * 2 ^ 40 + q * 2 ^ 32 + snr.foldl min 255 * 2 ^ 24
    + w.snrMean.toNat * 2 ^ 16 + m % 32 * 2 ^ 11 + failed * 2 ^ 6 + w.singleTrain.toNat * 2 ^ 5
    + (w.erased.any id).toNat * 2 ^ 4 + attempt % 4 * 2 ^ 2
  let w1 := (List.range 8).foldl (fun a i => a + snr.getD i 0 % 256 * 2 ^ (8 * i)) 0
  let cw (c : Nat) : Nat := match w.done[c]? with
    | some d => d.1.toNat * 2 ^ 15 + min 31 d.2.1 * 2 ^ 10 + min 1023 d.2.2.1
    | none => 0
  [BitVec.ofNat 64 w0, BitVec.ofNat 64 w1] ++ (List.range 4).map fun j =>
    BitVec.ofNat 64 (cw (4 * j) + cw (4 * j + 1) * 2 ^ 16 + cw (4 * j + 2) * 2 ^ 32 + cw (4 * j + 3) * 2 ^ 48)

/-- The quality block of an exchange: that of a READ_WIDE that reached its sync symbol, the old one of another command. -/
def Exch.quality (x : Exch) (a : Action) : List Word :=
  match x.cmd with
  | .kReadWide _ m => if x.wide.syncDone then qualityBlock x m a.repeats else []
  | _ => a.quality

/-- The action as its exchange leaves it: class, status, data and what is still to send. -/
structure ActStep where
  act : Action
  status : Status
  budget : Option Bool

/-- Commands whose reply carries no CRC, or that have none (R144, R146). -/
def Cmd.unchecked : Cmd → Bool
  | .gSelect _ _ _ _ _ _ => true | .gQuery _ _ _ _ => true | .gQueryAdjust _ => true | .gQueryRep => true
  | .aReqa _ => true | .aAnticoll _ _ => true | .aHlta => true | _ => false

/-! ### ISO/IEC 14443-4 (R97, R313) -/

/-- FSC of a code of the standard, at most 256 (notes/assumptions/87.md). -/
def fscOf (code : Nat) : Nat := ([16, 24, 32, 40, 48, 64, 96, 128] : List Nat).getD code 256

/-- Bytes of a reply that gives them one to a unit. -/
def replyBytes (o : ReplyObs) : List Byte := o.data.map fun u => u.setWidth 8

/-- FSCI and FWI that a card states: in T0 and TB of an ATS, in the protocol bytes of an ATQB; without TB the FWI is 4
(notes/assumptions/87.md). -/
def cardLimits (c : Cmd) (o : ReplyObs) : Nat × Nat :=
  let b (i : Nat) : Nat := ((replyBytes o).getD i 0).toNat
  match c with
  | .bReq _ _ _ => (b 10 / 16, b 11 / 16)
  | _ =>
    let tb := 2 + b 1 / 16 % 2
    (b 1 % 16, if b 1 / 32 % 2 = 1 then b tb / 16 else 4)

/-- The guard time of SFGI after an ATS, in fc, none for 0 and 15 (R97; notes/assumptions/87.md). -/
def frameGuard (o : ReplyObs) : Nat :=
  let b (i : Nat) : Nat := ((replyBytes o).getD i 0).toNat
  let sfgi := if b 1 / 32 % 2 = 1 then b (2 + b 1 / 16 % 2) % 16 else 0
  if sfgi = 0 ∨ sfgi = 15 then 0 else 4096 * 2 ^ sfgi

/-- PCB and information field of a block; a CID byte is passed over (notes/assumptions/87.md). -/
def replyBlock (o : ReplyObs) : Nat × List Byte :=
  let pcb := ((replyBytes o).headD 0).toNat
  (pcb, (replyBytes o).drop (if pcb / 8 % 2 = 1 then 2 else 1))

/-- The information field of the next I-block: FSC less PCB, CID and CRC. -/
def Action.chunk (a : Action) : List Byte := a.apduOut.take (a.fsc - 4)

/-- The next I-block of the APDU. -/
def Action.iBlock (a : Action) : Cmd := .iBlock a.bn (decide (a.chunk.length < a.apduOut.length)) a.chunk

/-- Bytes four to a unit, the first one lowest. -/
def unitsOf (l : List Byte) : List (BitVec 32) :=
  (List.range ((l.length + 3) / 4)).map fun i => BitVec.ofNat 32 (leNat (((l.drop (4 * i)).take 4).map (·.toNat)))

/-- Put a command before what follows the one that has ended. -/
def Action.sendNext (a : Action) (c : Cmd) : Action := { a with todo := c :: a.todo.drop 1 }

/-- A block of the card has come (R97): the next block of a chain, the end of the exchange, or a status. -/
def Action.blockIn (a : Action) (most : Nat) (o : ReplyObs) : Action × Status :=
  let pcb := (replyBlock o).1
  let odd := decide (pcb % 2 = 1)
  if pcb / 64 = 0 then
    -- an I-block: the APDU must have gone out whole, and the block number must be the one in turn
    if odd ≠ a.bn ∨ a.chunk.length < a.apduOut.length then (a, .tagError)
    else
      let a1 : Action := { a with apduIn := a.apduIn ++ (replyBlock o).2, bn := !a.bn, sends := 0 }
      if most < a1.apduIn.length then (a1, .badLength)
      else if pcb / 16 % 2 = 1 then (a1.sendNext (.rBlock false a1.bn), .ok)
      else ({ a1 with todo := a.todo.drop 1, data := unitsOf a1.apduIn }, .ok)
  else if pcb / 64 = 2 ∧ pcb / 16 % 2 = 0 then
    -- R(ACK): of the block in turn the chain goes on, of another it is sent again
    if odd = a.bn ∧ a.chunk.length < a.apduOut.length then
      let a1 : Action := { a with apduOut := a.apduOut.drop (a.fsc - 4), bn := !a.bn, sends := 0 }
      (a1.sendNext a1.iBlock, .ok)
    else (a.sendNext a.iBlock, .ok)
  else if pcb / 16 = 15 then (a.sendNext (.sWtx (((replyBlock o).2.headD 0).toNat % 64)), .ok)
  else (a, .tagError)

/-- A command of the block protocol. -/
def Cmd.isBlock : Cmd → Bool
  | .iBlock _ _ _ => true | .rBlock _ _ => true | .sWtx _ => true | _ => false

/-- What answers a block that is missing or bad (R97): R(ACK) again while the card chains, R(NAK) otherwise, S(DESELECT)
again. -/
def Cmd.again (c : Cmd) (a : Action) : Cmd :=
  match c with
  | .rBlock false b => .rBlock false b
  | .aDeselect => .aDeselect
  | _ => .rBlock true a.bn

/-! ### The exchanges of an action -/

/-- Status of an exchange of an action that is not a Wide Reply. -/
def cmdStatus (a : Action) (c : Cmd) (cls : XClass) (o : ReplyObs) (macOk : Bool) : Status :=
  match c with
  -- no reply is expected
  | .aHlta => .ok
  | .gSelect _ _ _ _ _ _ => .ok
  -- several cards may answer at once
  | .aReqa _ => if cls = .silent ∨ cls = .shortLong then cls.status else .ok
  -- code is the SAK
  | .aSelect _ _ => if cls = .received then .ok else cls.status
  | .kAuth1 _ _ =>
    if cls ≠ .received then cls.status
    else if o.status ≠ 0 then tagStatus o.status
    else if authT1Ok a o then .ok else .authFail
  | _ =>
    if cls ≠ .received then cls.status
    else if !macOk then .authFail
    else if o.status ≠ 0 then tagStatus o.status
    else if o.code ≠ 0 then .tagError
    else .ok

/-- The MAC of a reply verifies (R128, R129): in a session, and in an OK reply to AUTH_2. -/
def Action.macOk (a : Action) (c : Cmd) (o : ReplyObs) : Bool :=
  match c, a.session with
  | .kAuth2 _, none => decide (o.status ≠ 0) || replyMacOk (sessionKey a.key a.rc a.tc) 0 o
  | _, some (n, ks) => replyMacOk ks n o
  | _, none => true

/-- What an exchange means for the failure budget (R126): a success, a failure, or neither. -/
def budgetOutcome (c : Cmd) (cls : XClass) (st : Status) (o : ReplyObs) : Option Bool :=
  let denied := decide (cls = .received) && (decide (o.status = 6) || decide (o.status = 7))
  if !c.keyed then none
  else if st = .ok then (match c with
    | .kAuth1 _ _ => none
    | _ => some true)
  else if cls ≠ .received ∨ denied ∨ (o.status = 0 ∧ st = .authFail) then some false
  else none

/-- What an exchange that ended OK leaves in its action. `most` is the largest response of an HF_APDU, `fwi` its fwi_max. -/
def Action.took (a : Action) (x : Exch) (o : ReplyObs) (most fwi : Nat) : Action × Status :=
  let a1 : Action := { a with todo := a.todo.drop 1, repeats := 0, sends := 0, tried := none, quality := x.quality a }
  match x.cmd with
  | .kSelect _ => ({ a1 with selected := true, rn16 := (o.data.getD 0 0).setWidth 16 }, .ok)
  | .kRead _ _ => ({ a1 with isRead := true, data := o.data }, .ok)
  | .kReadWide _ m => ({ a1 with isRead := true, part := false, data := x.wide.dataWords m }, .ok)
  | .kGetInfo => ({ a1 with data := o.data }, .ok)
  | .kAuth1 _ _ => ({ a1 with tc := word2 (o.data.getD 1 0).toNat (o.data.getD 0 0).toNat }, .ok)
  | .kAuth2 _ => ({ a1 with session := some (0, sessionKey a.key a.rc a.tc) }, .ok)
  | .gQuery _ _ _ _ => ({ a1 with rn16 := (o.data.getD 0 0).setWidth 16 }, .ok)
  | .gReqRn => ({ a1 with rn16 := (o.data.getD 0 0).setWidth 16 }, .ok)
  | .gOp _ _ _ _ _ => ({ a1 with isRead := true, data := o.data }, .ok)
  | .frame => ({ a1 with data := o.data, replyBits := o.bits }, .ok)
  | .aRats _ _ =>
    let k := cardLimits x.cmd o
    let a2 : Action := { a1 with fsc := fscOf k.1 }
    if fwi < k.2 then (a2, .tagError)
    else (match a2.todo with
      | .iBlock _ _ _ :: l => { a2 with todo := a2.iBlock :: l }
      | _ => a2, .ok)
  | .bReq _ _ _ =>
    let k := cardLimits x.cmd o
    if fwi < k.2 then (a1, .tagError) else ({ a1 with fsc := fscOf k.1 }, .ok)
  | .bAttrib _ _ _ =>
    (match a1.todo with
      | .iBlock _ _ _ :: l => { a1 with todo := a1.iBlock :: l }
      | _ => a1, .ok)
  | .aPps _ _ =>
    (match a1.todo with
      | .iBlock _ _ _ :: l => { a1 with todo := a1.iBlock :: l }
      | _ => a1, .ok)
  | .iBlock _ _ _ => { a with tried := none }.blockIn most o
  | .rBlock _ _ => { a with tried := none }.blockIn most o
  | .sWtx _ => { a with tried := none }.blockIn most o
  | _ => (a1, .ok)

/-- The command that the action sends again after an exchange that failed, none when it does not: a READ_WIDE of an inventory
(R182), a frame of a session (R129), a block of an HF_APDU (R97), a Type A activation (R146). -/
def Run.repeats (r : Run) (a : Action) (c : Cmd) (cls : XClass) (inv : Bool) : Option Cmd :=
  let lost := decide (cls = .silent) || decide (cls = .garbled)
  let bad := decide (cls = .garbled) || decide (cls = .shortLong)
  match c with
  | .kReadWide _ _ =>
    if inv && (lost || decide (cls = .shortLong)) && decide (a.repeats < bf r.block 11 56 55) then some c else none
  | _ =>
    if a.session.isSome then
      (if r.bit R.frmKrvCfg F.frmKrvCfg.secureRepeat && decide (a.repeats = 0) && lost then some c else none)
    else if !inv && (c.isBlock || decide (c = .aDeselect)) then
      (if (lost || bad) && decide (a.sends < bf r.block 2 17 16) then some (c.again a) else none)
    else if inv && decide (r.inner = 0x02) && bad && decide (a.repeats < r.garbleRetry) then some c
    else none

/-- The data of a READ_WIDE that failed, kept with partial 1 (R181). -/
def Run.partOf (r : Run) (x : Exch) (st : Status) (a : Action) : Action :=
  match x.cmd with
  | .kReadWide _ m =>
    if bf r.block 11 57 57 = 1 ∧ (st = .decodeFail ∨ st = .crcFail ∨ st = .badLength) then
      { a with data := x.wide.dataWords m, part := true }
    else { a with data := [], part := false }
  | _ => a

/-- One exchange of an action has ended (R437, R130, R122 to R129) with a class: `inv` in an inventory stake, `wst` the
status of a READ_WIDE (R180). DESIGN CHOICE (notes/assumptions/123.md): the S(DESELECT) or RLS_REQ after a RATS, ATTRIB or ATR_REQ that
failed is not sent. -/
def actStep (r : Run) (a : Action) (x : Exch) (cls : XClass) (wst : Status) (o : ReplyObs) (inv : Bool) : ActStep :=
  let macOk := a.macOk x.cmd o
  let st0 : Status := match x.cmd with
    | .kReadWide _ _ => wst
    | c => cmdStatus a c cls o macOk
  let budget := budgetOutcome x.cmd cls st0 o
  let a0 : Action := { a with count := a.count + 1, cls := cls.code }
  let ws := match r.request with
    | some q => q.words
    | none => []
  let t : Action × Status := if st0 = .ok then a0.took x o (bf ws 2 31 16) (if inv then 15 else bf ws 2 37 34) else (a0, st0)
  if t.2 = .ok then { act := t.1, status := .ok, budget := budget }
  else
    match r.repeats a x.cmd cls inv with
    | some c =>
      { act := { r.partOf x t.2 (a0.sendNext c) with
          repeats := a.repeats + 1, sends := a.sends + 1, tried := some (t.2, cls.code), quality := x.quality a }
        status := t.2, budget := budget }
    | none =>
      let st := if inv ∧ r.inner = 0x02 ∧ (cls = .garbled ∨ cls = .shortLong) then Status.collisionUnresolved else t.2
      { act := { r.partOf x st t.1 with
          status := if a.status = .ok then st else a.status
          tagStatus := if a.status = .ok ∧ cls = .received then o.status else a.tagStatus
          todo := if inv ∧ a.selected then a.todo.drop 1 |>.filter Cmd.isSleep else []
          session := if cls = .received ∧ !macOk then none else a.session
          repeats := 0, tried := none, quality := x.quality a }
        status := st, budget := budget }

/-- Count the outcome in the budget of R126. -/
def State.budgetNote (s : State) (q : Nat) (id : BitVec 128) : Option Bool → State
  | none => s
  | some true => s.budgetClear q id
  | some false => s.budgetFail q id

end Sys2Proof.Machine
end

