-- ==== Sys2Proof/Machine/Frames.lean ====
section
/-! DEFINITION. The operand forms of a host request (R309 to R314), the frames of the Krovrel commands (R114), and the
time U of each exchange and of each request (R44, R45, R130, R313). -/

namespace Sys2Proof.Machine

/-! ### Krovrel frames (R111 to R114) -/

/-- Cells of a command; `sec` the tag is SECURED. -/
def krvCells (sec : Bool) : Cmd → Nat
  | .kBegin _ _ _ _ len _ => 60 + 8 * ((len + 7) / 8)
  | .kWalk l _ => 36 + 8 * ((l + 7) / 8)
  | .kNextSlot => 28
  | .kReround _ => 36
  | .kSelect _ => 92
  | .kSleep _ => if sec then 68 else 36
  | .kRead _ _ => if sec then 84 else 52
  | .kReadWide _ _ => 52
  | .kProgram _ _ => if sec then 108 else 76
  | .kErase _ => if sec then 76 else 44
  | .kLock _ => if sec then 76 else 44
  | .kPassword _ => 60
  | .kAuth1 _ _ => 100
  | .kAuth2 _ => 156
  | .kGetInfo => if sec then 60 else 28
  | _ => 0

/-- Bits of the reply to a command, the start bit included. -/
def krvBits (sec : Bool) : Cmd → Nat
  | .kBegin _ _ _ _ _ _ => 81
  | .kWalk l _ => 81 - l
  | .kNextSlot => 81
  | .kReround _ => 81
  | .kSelect _ => 41
  | .kSleep _ => if sec then 57 else 25
  | .kRead _ n => 32 * n + (if sec then 57 else 25)
  | .kProgram _ _ => if sec then 57 else 25
  | .kErase _ => if sec then 57 else 25
  | .kLock _ => if sec then 57 else 25
  | .kPassword _ => 25
  | .kAuth1 _ _ => 217
  | .kAuth2 _ => 57
  | .kGetInfo => if sec then 121 else 89
  | _ => 0

/-- A Krovrel command. -/
def Cmd.krovrel (c : Cmd) : Bool := decide (krvCells false c ≠ 0)

/-- An arbitration command, with the prefix length of R112. -/
def Cmd.arb : Cmd → Option Nat
  | .kBegin _ _ _ _ _ _ => some 0 | .kWalk l _ => some l | .kNextSlot => some 0 | .kReround _ => some 0 | _ => none

/-- The flags of BEGIN (R114): target, mode, and the Q of slotted mode. -/
def beginFlags (slotted : Bool) (q : Nat) (target : Bool) : Nat :=
  target.toNat + 2 * slotted.toNat + (if slotted then 16 * q else 0)

/-- Opcode and fields of a command (R111, R114), each field least significant byte first (R99). -/
def krvBody : Cmd → List Byte
  | .kBegin slotted q target addr len mask =>
    [0x10, BitVec.ofNat 8 (beginFlags slotted q target)] ++ bytesOf 2 addr.toNat ++ [BitVec.ofNat 8 len] ++
      bytesOf ((len + 7) / 8) (mask.toNat % 2 ^ len)
  | .kWalk l v => [0x11, BitVec.ofNat 8 l] ++ bytesOf ((l + 7) / 8) (v.toNat % 2 ^ l)
  | .kNextSlot => [0x12]
  | .kReround q => [0x13, BitVec.ofNat 8 q]
  | .kSelect uid => 0x14 :: bytesOf 8 uid.toNat
  | .kSleep mark => [0x15, BitVec.ofNat 8 mark.toNat]
  | .kRead addr n => 0x20 :: (bytesOf 2 addr.toNat ++ [BitVec.ofNat 8 n])
  | .kReadWide addr m => 0x21 :: (bytesOf 2 addr.toNat ++ [BitVec.ofNat 8 m])
  | .kProgram addr d => 0x22 :: (bytesOf 2 addr.toNat ++ bytesOf 4 d.toNat)
  | .kErase addr => 0x23 :: bytesOf 2 addr.toNat
  | .kLock addr => 0x24 :: bytesOf 2 addr.toNat
  | .kPassword cover => 0x30 :: bytesOf 4 cover.toNat
  | .kAuth1 k rc => [0x31, BitVec.ofNat 8 k] ++ bytesOf 8 rc.toNat
  | .kAuth2 t2 => 0x32 :: bytesOf 16 t2.toNat
  | .kGetInfo => [0x40]
  | _ => []

/-- The bytes of a frame between SOF and EOF: opcode, fields, the session MAC, CRC-16 (R111, R128). -/
def krvBytes (session : Option (Nat × BitVec 256)) (c : Cmd) : List Byte :=
  let body := krvBody c
  let mac : List Byte := match session with
    | some (n, ks) => bytesOf 4 (cmac (bytesOf 16 ks.toNat) (bytesOf 4 n ++ [0x00] ++ body)).toNat
    | none => []
  body ++ mac ++ bytesOf 2 (crcOf presetKrovrel ((body ++ mac).flatMap (byteBits true)))

/-- The cells of a frame (R100, R101): SOF, the bytes least significant bit first, EOF. -/
def krvFrame (session : Option (Nat × BitVec 256)) (c : Cmd) : List Cell :=
  [.zero, .empty] ++ ((krvBytes session c).flatMap (byteBits true)).map (fun b => if b then Cell.one else Cell.zero) ++
    [.empty, .zero]

/-- The pause of a cell of c fc (R100): where it starts in the cell and how long it lasts, none in an EMPTY cell. -/
def Cell.pause (c : Nat) : Cell → Option (Nat × Nat)
  | .zero => some (0, 3 * c / 8)
  | .one => some (c / 2, 3 * c / 8)
  | .empty => none

/-- The pauses of a frame, in fc from its start: the carrier is off from the first of a pair to the second. -/
def framePauses (c : Nat) (l : List Cell) : List (Nat × Nat) :=
  (List.range l.length).filterMap fun i => ((l.getD i .empty).pause c).map fun p => (c * i + p.1, c * i + p.1 + p.2)

/-- Time zero of the reply: the end of the last pause (R101). -/
def frameZero (c : Nat) (l : List Cell) : Nat := ((framePauses c l).getLast?.map (·.2)).getD 0

/-- Bit periods of n bytes with their CRC in a frame of ISO/IEC 14443: Type A with start, parity and end of frame, Type B with
SOF, EOF and the start and stop bits (notes/assumptions/87.md). -/
def isoFrame (typeB : Bool) (n : Nat) : Nat := if typeB then 22 + 10 * n else 3 + 9 * n

/-- Bit periods of a frame of the ISO/IEC procedures, start, parity and end of frame counted, as their standards lay them out
(notes/assumptions/87.md); the blocks of ISO/IEC 14443-4 as Type A sends them. -/
def isoBits : Cmd → Nat
  | .aReqa _ => 10
  | .aAnticoll _ known => 3 + 18 + 9 * (known.length / 8) + known.length % 8
  | .aSelect _ _ => isoFrame false 9
  | .aHlta => isoFrame false 4
  | .aRats _ _ => isoFrame false 4
  | .aPps _ _ => isoFrame false 5
  | .aDeselect => isoFrame false 4
  | .iBlock _ _ inf => isoFrame false (4 + inf.length)
  | .rBlock _ _ => isoFrame false 4
  | .sWtx _ => isoFrame false 5
  | .bReq _ _ _ => isoFrame true 5
  | .bMarker _ => isoFrame true 3
  | .bHltb _ => isoFrame true 7
  | .bAttrib _ _ _ => isoFrame true 11
  | .vInventory _ len _ afi => 2 + 8 * (5 + afi.isSome.toNat + (len + 7) / 8)
  | .vSlot _ => 1
  | .fSensf _ _ _ => 64 + 8 * 8
  | .fSlot _ => 0
  | .fAtr _ => 64 + 8 * 19
  | .fRls => 64 + 8 * 6
  | _ => 0

/-! ### Gen2 frames (R215; notes/assumptions/96.md) -/

/-- The n low bits of a number, most significant first. -/
def msbBits (n v : Nat) : List Bool := (List.range n).map fun i => decide (v / 2 ^ (n - 1 - i) % 2 = 1)

/-- An extensible bit vector: seven bits a byte, most significant first, each byte but the last with its top bit set. -/
def ebv (v : Nat) : List Bool :=
  let more (k : Nat) : List Bool := if v < 2 ^ (7 * k) then [] else true :: msbBits 7 (v / 2 ^ (7 * k))
  [more 3, more 2, more 1, false :: msbBits 7 v].flatten

/-- The CRC-5 of Query. -/
def presetCrc5 : CrcCfg := { w := 5, poly := 0x09, init := 0x09, refin := false, refout := false, xorout := 0 }

/-- Bits and their CRC-16 after them. -/
def withCrc16 (l : List Bool) : List Bool := l ++ msbBits 16 (crcOf presetGen2 l)

/-- The frame of an Access or Kill half and of an operation: its code, its fields, the handle, and the CRC-16. -/
def handleFrame (code : Nat) (rn : BitVec 16) (fields : List Bool) : List Bool :=
  withCrc16 ([msbBits 8 code, fields, msbBits 16 rn.toNat].flatten)

/-- The bits of a Gen2 command with its CRC, of the frames of one command one after the other: `b` the stake's block with DR, M,
TRext and the session (R143, R217), `rn` the RN16 or handle of the tag. -/
def gen2Bits (b : List Word) (rn : BitVec 16) : Cmd → List Bool
  | .gSelect target action bank ptr len mask =>
    withCrc16 ([msbBits 4 0xA, msbBits 3 target, msbBits 3 action, msbBits 2 bank, ebv ptr, msbBits 8 len,
      (List.range len).map fun i => mask.getLsbD i, [false]].flatten)
  | .gQuery q target session sel =>
    let l := [msbBits 4 0x8, msbBits 1 (bf b 2 41 41), msbBits 2 (bf b 2 43 42), msbBits 1 (bf b 2 40 40), msbBits 2 sel,
      msbBits 2 session, [target], msbBits 4 q].flatten
    l ++ msbBits 5 (crcOf presetCrc5 l)
  | .gQueryAdjust up => [msbBits 4 0x9, msbBits 2 (bf b 8 55 54), msbBits 3 (if up then 6 else 3)].flatten
  | .gQueryRep => [msbBits 2 0, msbBits 2 (bf b 8 55 54)].flatten
  | .gAck => msbBits 2 1 ++ msbBits 16 rn.toNat
  | .gNak => msbBits 8 0xC0
  | .gReqRn => handleFrame 0xC1 rn []
  | .gAccess cover => [0, 1].flatMap fun i => handleFrame 0xC6 rn (msbBits 16 (cover.toNat / 2 ^ (16 * i)))
  | .gOp 0 bank ptr n _ => handleFrame 0xC2 rn [msbBits 2 bank, ebv ptr, msbBits 8 n].flatten
  | .gOp 1 bank ptr _ data => (List.range data.length).flatMap fun i =>
      handleFrame 0xC3 rn [msbBits 2 bank, ebv (ptr + i), msbBits 16 (data.getD i 0).toNat].flatten
  | .gOp 2 bank ptr n data =>
    handleFrame 0xC7 rn [msbBits 2 bank, ebv ptr, msbBits 8 n, data.flatMap fun d => msbBits 16 d.toNat].flatten
  | .gOp 3 bank ptr n _ => handleFrame 0xC8 rn [msbBits 2 bank, ebv ptr, msbBits 8 n].flatten
  | .gOp 4 _ _ _ data => handleFrame 0xC5 rn (msbBits 20 ((data.getD 0 0).toNat + (data.getD 1 0).toNat * 2 ^ 16))
  | .gOp _ _ _ _ data => data.flatMap fun d => handleFrame 0xC4 rn (msbBits 16 d.toNat ++ msbBits 3 0)
  | _ => []

/-- Ticks of a Gen2 command on the air (R215, R216; notes/assumptions/96.md): PIE symbols of Tari and data-1 after a delimiter of
12.5 µs, a data-0 and RTcal, with TRcal before a Query; counted in 6.25 ns and rounded up. -/
def gen2Ticks (b : List Word) (query : Bool) (bits : List Bool) : Nat :=
  let tari := if bf b 2 47 46 = 0 then 1000 else if bf b 2 47 46 = 1 then 2000 else 4000
  let one := tari * (6 + bf b 2 45 44) / 4
  let head := 2000 + tari + rtcal4 (bf b 2 47 46) (bf b 2 45 44) + (if query then 4 * trcal (bf b 2 41 41) (bf b 2 39 30) else 0)
  (head + (bits.map fun x => if x then one else tari).sum + 3) / 4

/-- The cell of a block, in fc (R100, R105). -/
def blkCell (b : List Word) : Nat := if bf b 2 31 28 = 0 then 64 else 32

/-- U of one Krovrel exchange with its own frames (R44). -/
def krvTicks (b : List Word) (sec : Bool) (c : Cmd) : Nat :=
  match c with
  | .kReadWide _ m => fcTicks (blkCell b * 52 + 2052 + 72 * (3 + 65 * m) + 128) + 160
  | _ => fcTicks (blkCell b * krvCells sec c + 2052 + 64 * krvBits sec c + 128) + 40

/-! ### Messages from a host -/

def reqType (ws : List Word) : Nat := bf ws 0 63 56
def reqPort (ws : List Word) : Nat := bf ws 2 63 56
/-- KRV_REQ and GEN2_REQ: op, and the key slot (R312, R314). -/
def reqOp (ws : List Word) : Nat := bf ws 2 55 52
def reqLevel (ws : List Word) : Nat := bf ws 2 51 50
def reqKey (ws : List Word) : Nat := bf ws 2 47 40
def reqN (ws : List Word) : Nat := bf ws 2 39 32
def reqAddr (ws : List Word) : BitVec 16 := BitVec.ofNat 16 (bf ws 2 31 16)
/-- HF_FRAME and HF_APDU: protocol (R313). -/
def reqProto (ws : List Word) : Nat := if reqType ws = 0x01 then 1 else bf ws 2 55 52
def reqWide (ws : List Word) : Bool := decide (reqType ws = 0x01) && decide (reqOp ws = 1)

/-- Words of the EPC and of the data of a GEN2_REQ (R314). -/
def reqEpcLen (ws : List Word) : Nat := bf ws 3 60 56
def reqDataLen (ws : List Word) : Nat := if reqOp ws = 1 ∨ reqOp ws = 2 then reqN ws else 0

/-- The length that a message's type and fields give it, none for other types (R312 to R314). -/
def reqLen (ws : List Word) : Option Nat :=
  let t := reqType ws
  if t = 0x01 then some 5
  else if t = 0x02 then some (4 + ((bf ws 2 31 16 + 7) / 8 + 7) / 8)
  else if t = 0x03 then some (5 + (bf ws 2 15 0 + 7) / 8)
  else if t = 0x04 then some (4 + (reqEpcLen ws + 3) / 4 + (reqDataLen ws + 3) / 4)
  else none

/-- R310: a length outside 3 to 72 words, against the header, or wrong for the type and fields. -/
def reqLenOk (ws : List Word) : Bool :=
  within 3 72 ws.length && decide (bf ws 0 47 32 = ws.length) &&
  (match reqLen ws with
   | some n => decide (ws.length = n)
   | none => true)

/-- R79: rate codes of a protocol. -/
def ratesOk (proto down up : Nat) : Bool :=
  if proto = 4 then within 0 1 down && within 0 3 up
  else if proto = 5 then within 1 2 down && decide (up = down)
  else within 0 3 down && within 0 3 up

/-- The slots of 16 bits from word i on, n of them used, hold zero past the n-th. -/
def slotsOk (ws : List Word) (i n : Nat) : Bool :=
  n % 4 = 0 || decide (Word.get (ws.getD (i + n / 4) 0) (63, 16 * (n % 4)) = 0)

/-- The fields of a request lie within R312 to R314; reserved types fail. -/
def reqFieldsOk (ws : List Word) : Bool :=
  let t := reqType ws
  if t = 0x01 then
    within 0 6 (reqOp ws) && within 0 2 (reqLevel ws) && !(decide (reqOp ws = 1) && decide (reqLevel ws = 2)) &&
    (decide (reqLevel ws = 2) || decide (bf ws 2 49 48 = 0)) && (decide (reqLevel ws ≠ 0) || decide (reqKey ws = 0)) &&
    (if reqOp ws = 0 ∨ reqOp ws = 1 then within 1 16 (reqN ws)
     else if reqOp ws = 5 then within 0 1 (reqN ws) else decide (reqN ws = 0)) &&
    decide (bf ws 2 15 0 = 0) && decide (bf ws 4 63 32 = 0) && (decide (reqOp ws = 2) || decide (bf ws 4 31 0 = 0))
  else if t = 0x02 then
    within 2 5 (reqProto ws) && ratesOk (reqProto ws) (bf ws 2 51 48) (bf ws 2 47 44) &&
    modOk (reqProto ws) (bf ws 2 43 36) && decide (bf ws 2 34 32 = 0) &&
    within 7 4096 (bf ws 2 31 16) && within 4 8192 (bf ws 2 15 0) && decide (bf ws 3 63 24 = 0) &&
    within 64 16777215 (bf ws 3 23 0)
  else if t = 0x03 then
    within 2 3 (reqProto ws) &&
    (if reqProto ws = 3 then decide (bf ws 2 51 48 = 4)
     else decide (bf ws 2 51 48 ∈ ([4, 7, 10] : List Nat))) &&
    within 0 8 (bf ws 2 45 42) && within 0 14 (bf ws 2 41 38) && within 0 14 (bf ws 2 37 34) &&
    decide (bf ws 2 33 32 = 0) && within 2 1024 (bf ws 2 31 16) && within 4 261 (bf ws 2 15 0)
  else if t = 0x04 then
    within 0 5 (reqOp ws) && decide (bf ws 2 48 48 = 0) && decide (bf ws 2 31 22 = 0) &&
    (if reqOp ws = 0 then within 1 32 (reqN ws) else if reqOp ws ≤ 3 then within 1 16 (reqN ws)
     else decide (reqN ws = 0)) &&
    decide (bf ws 3 63 61 = 0) && decide (bf ws 3 55 20 = 0) && within 1 31 (reqEpcLen ws) &&
    slotsOk ws 4 (reqEpcLen ws) && slotsOk ws (4 + (reqEpcLen ws + 3) / 4) (reqDataLen ws)
  else false

/-- The request uses a SEC key slot (R312, R314). -/
def reqKeyed (ws : List Word) : Bool :=
  let t := reqType ws
  if t = 0x01 then decide (reqLevel ws ≠ 0)
  else if t = 0x04 then decide (bf ws 2 49 49 = 1) || decide (reqOp ws = 5) else false

/-- The EPC of a GEN2_REQ: its first 128 bits, the rest, and its length in bytes (R314). -/
def reqEpc (ws : List Word) : BitVec 128 × List Bool :=
  let n := 16 * reqEpcLen ws
  (BitVec.ofNat 128 (((bf ws 4 63 0) + (bf ws 5 63 0) * 2 ^ 64) % 2 ^ n),
   (List.range (n - 128)).map fun i => (ws.getD (6 + i / 64) 0).getLsbD (i % 64))

/-- The identifier a request names, as the failure budget keys it (R126, R150). -/
def reqIdent (ws : List Word) : BitVec 128 :=
  if reqType ws = 0x01 then (ws.getD 3 0).setWidth 128
  else if reqType ws = 0x04 then epcIdent (reqEpc ws).1 (reqEpc ws).2
  else 0

/-- The operation of a KRV_REQ. -/
def krvOp (ws : List Word) : Cmd :=
  let n := reqN ws
  let a := reqAddr ws
  match reqOp ws with
  | 0 => .kRead a n
  | 1 => .kReadWide a n
  | 2 => .kProgram a (BitVec.ofNat 32 (bf ws 4 31 0))
  | 3 => .kErase a
  | 4 => .kLock a
  | 5 => .kSleep (decide (n = 1))
  | _ => .kGetInfo

/-- What brings the tag of a KRV_REQ to its level (R130). -/
def krvAuth (ws : List Word) : List Cmd :=
  match reqLevel ws with
  | 0 => []
  | 1 => [.kPassword 0]
  | _ => [.kAuth1 (bf ws 2 49 48) 0, .kAuth2 0]

/-- Bytes of an HF_APDU: its UID, and its APDU (R313). -/
def apduUid (ws : List Word) : List Byte := (bytesOf 16 ((bf ws 3 63 0) + (bf ws 4 63 0) * 2 ^ 64)).take (bf ws 2 51 48)
def apduBytes (ws : List Word) : List Byte := ((ws.drop 5).flatMap Word.bytes).take (bf ws 2 15 0)

/-- The four bytes that SELECT sends at a cascade level: three after the cascade tag 0x88 on a level that is not the last
(notes/assumptions/87.md). -/
def levelOf (uid : List Byte) (lvl : Nat) : List Byte :=
  let l := uid.drop (3 * (lvl - 1))
  let four := if 4 < l.length then 0x88 :: l.take 3 else l.take 4
  four ++ [four.foldl (· ^^^ ·) 0]

/-- The selection and activation of the card of an HF_APDU (R146, R147, R313). -/
def apduSelect (ws : List Word) : List Cmd :=
  let uid := apduUid ws
  let cid := bf ws 2 41 38
  let rate := bf ws 2 47 46
  let lv2 : List Cmd := if 4 < uid.length then [.aSelect 2 (levelOf uid 2)] else []
  let lv3 : List Cmd := if 7 < uid.length then [.aSelect 3 (levelOf uid 3)] else []
  let pps : List Cmd := if rate = 0 then [] else [.aPps cid rate]
  if reqProto ws = 3 then [.bReq true 0 0, .bAttrib (BitVec.ofNat 32 (leNat (uid.map (·.toNat)))) cid rate]
  else [[Cmd.aReqa true, .aSelect 1 (levelOf uid 1)], lv2, lv3, [.aRats (bf ws 2 45 42) cid], pps].flatten

/-- Words of a tag's memory as a Select mask names their bits: each word from its most significant bit on
(notes/assumptions/96.md). -/
def selectMask (words : BitVec 128) : BitVec 128 :=
  (List.range 128).foldl (fun (m : BitVec 128) i => if words.getLsbD (i / 16 * 16 + (15 - i % 16)) then m ||| (1#128 <<< i) else m) 0#128

/-- Select i of a GEN2_REQ: SL, bank 1, 128 bits of the EPC (R218). -/
def reqSelect (ws : List Word) (i : Nat) : Cmd :=
  let len := min 128 (16 * reqEpcLen ws - 128 * i)
  .gSelect 4 (if i = 0 then 0 else 2) 1 (0x20 + 128 * i) len
    (selectMask (BitVec.ofNat 128 (((bf ws (4 + 2 * i) 63 0) + (bf ws (5 + 2 * i) 63 0) * 2 ^ 64) % 2 ^ len)))

/-- 16-bit data word i of a GEN2_REQ (R314). -/
def reqData (ws : List Word) (i : Nat) : BitVec 16 :=
  let k := 4 + (reqEpcLen ws + 3) / 4 + i / 4
  BitVec.ofNat 16 (bf ws k (16 * (i % 4) + 15) (16 * (i % 4)))

/-- The operation of a GEN2_REQ with its data; of Lock, its payload (R314). -/
def reqOper (ws : List Word) : Cmd :=
  let data := if reqOp ws = 4 then [BitVec.ofNat 16 (bf ws 3 15 0), BitVec.ofNat 16 (bf ws 3 19 16)]
    else (List.range (reqDataLen ws)).map (reqData ws)
  .gOp (reqOp ws) (bf ws 2 51 50) (bf ws 2 21 0) (reqN ws) data

/-- The exchanges of a request, in order (R130, R218, R313). DESIGN CHOICE (notes/assumptions/126.md): the Query of a GEN2_REQ names
session S0 and target A, and word 5 of the block adds no Select of its own. -/
def reqCmds (ws : List Word) : List Cmd :=
  let t := reqType ws
  let selects : List Cmd := (List.range ((reqEpcLen ws + 7) / 8)).map (reqSelect ws)
  let access : List Cmd := if bf ws 2 49 49 = 1 then [.gAccess 0] else []
  if t = 0x01 then .kSelect (ws.getD 3 0) :: List.append (krvAuth ws) [krvOp ws]
  else if t = 0x02 then [.frame]
  else if t = 0x03 then List.append (apduSelect ws) [.iBlock false false [], .aDeselect]
  else [selects, [.gQuery 0 false 0 3, .gAck, .gReqRn], access, [reqOper ws]].flatten

/-! ### U of a request -/

/-- Bit periods of R45: downlink and reply. -/
def bitPeriods (proto down up : Nat) : Nat × Nat :=
  if proto = 4 then (if down = 0 then 256 else 1024, if up = 0 then 512 else if up = 1 then 2048 else
    if up = 2 then 508 else 2032)
  else if proto = 5 then (if down = 1 then 64 else 32, if up = 1 then 64 else 32)
  else (128 / 2 ^ down, 128 / 2 ^ up)

/-- The command comes after AUTH_2 in a list of commands that ends in SECURED. -/
def secured (ws : List Word) : Cmd → Bool
  | .kSelect _ => false
  | .kAuth1 _ _ => false
  | .kAuth2 _ => false
  | _ => decide (reqType ws = 0x01) && decide (reqLevel ws = 2)

/-- The preset of an ISO/IEC protocol (R247). -/
def isoPreset (proto : Nat) : CrcCfg :=
  if proto = 2 then presetCrcA else if proto = 5 then presetFelica else presetCrcB

/-- The bits of an HF_FRAME: those the host gives, then the CRC of its protocol when crc is 1, as the bytes go on the air
(R313; the orders in and of the bytes are the standards', notes/assumptions/87.md). -/
def frameBits (ws : List Word) : List Bool :=
  let lsb := decide (reqProto ws ≠ 5)
  let l := (((ws.drop 4).flatMap Word.bytes).flatMap (byteBits lsb)).take (bf ws 2 31 16)
  let crc := bytesOf 2 (crcOf (isoPreset (reqProto ws)) l)
  if bf ws 2 35 35 = 1 then l ++ (if lsb then crc else crc.reverse).flatMap (byteBits lsb) else l

/-- Bit periods of an HF_FRAME on the air, b_d of its U: the host's bits and the CRC of crc 1, with the start, parity and end periods
of its protocol (R43, R313), as in `isoBits` (notes/assumptions/87.md). Its largest reply is b_u as it stands. -/
def frameDown (ws : List Word) : Nat :=
  let n := bf ws 2 31 16 + 16 * bf ws 2 35 35
  match reqProto ws with
  | 2 => 3 + n + n / 8
  | 3 => 22 + 10 * ((n + 7) / 8)
  | 4 => 2 + n
  | _ => 64 + n

/-- Downlink and reply bit periods of a command of an HF_APDU: it is activated at 106 kbit/s, and its blocks follow at the rate
of PPS or ATTRIB (R97, R313). -/
def apduPeriods (ws : List Word) (c : Cmd) : Nat × Nat :=
  let p := 128 / 2 ^ (if c.isBlock || decide (c = .aDeselect) then bf ws 2 47 46 else 0)
  (p, p)

/-- Bit periods of a command of an HF_APDU. -/
def apduDown (ws : List Word) (c : Cmd) : Nat :=
  let b := decide (reqProto ws = 3)
  match c with
  | .iBlock _ _ inf => isoFrame b (4 + inf.length)
  | .rBlock _ _ => isoFrame b 4
  | .sWtx _ => isoFrame b 5
  | .aDeselect => isoFrame b 4
  | c => isoBits c

/-- Frame size that the reader of an HF_APDU announces (R313). -/
def apduFsd (ws : List Word) : Nat := fscOf (bf ws 2 45 42)

/-- Bit periods of the longest reply to a command of an HF_APDU (notes/assumptions/87.md). -/
def apduUp (ws : List Word) (c : Cmd) : Nat :=
  let b := decide (reqProto ws = 3)
  match c with
  | .aReqa _ => isoFrame false 2
  | .aSelect _ _ => isoFrame false 3
  | .aPps _ _ => isoFrame false 3
  | .aDeselect => isoFrame b 4
  | .bReq _ _ _ => isoFrame true 14
  | .bAttrib _ _ _ => isoFrame true 3
  | _ => isoFrame b (apduFsd ws)

/-- The FWT of fwi_max, in fc, and a multiple of it after S(WTX) (R313; notes/assumptions/87.md). -/
def apduWait (ws : List Word) (c : Cmd) : Nat :=
  4096 * 2 ^ bf ws 2 37 34 * (match c with
    | .sWtx n => max 1 n
    | _ => 1)

/-- U of one exchange of a request, in a stake's block (R44, R130, R217, R313). -/
def reqCmdTicks (b : List Word) (ws : List Word) (c : Cmd) : Nat :=
  let t := reqType ws
  if t = 0x01 then krvTicks b (secured ws c) c
  else if t = 0x02 then
    let p := bitPeriods (reqProto ws) (bf ws 2 51 48) (bf ws 2 47 44)
    fcTicks (p.1 * frameDown ws + bf ws 3 23 0 + p.2 * bf ws 2 15 0 + 128) + 40
  else if t = 0x03 then
    let p := apduPeriods ws c
    fcTicks (p.1 * apduDown ws c + apduWait ws c + p.2 * apduUp ws c + 128) + 40
  else 40 * (bf b 3 63 48 + bf b 3 31 16 + bf b 3 47 32 + bf b 3 15 0)

/-- A list in pieces of n, the last one shorter; `fuel` bounds their number. -/
def piecesOf (n : Nat) : Nat → List Byte → List (List Byte)
  | 0, _ => []
  | fuel + 1, l => if l = [] then [] else l.take n :: piecesOf n fuel (l.drop n)

/-- The exchanges that U of an HF_APDU counts (R313): the activation, the APDU in blocks of a card with an FSC of 16 bytes, the
largest response in blocks of fsdi, and S(DESELECT). -/
def apduPlan (ws : List Word) : List Cmd :=
  let out := (piecesOf 12 (apduBytes ws).length (apduBytes ws)).map fun c => Cmd.iBlock false false c
  let room := apduFsd ws - 4
  let more := (bf ws 2 31 16 + room - 1) / room - 1
  [apduSelect ws, out, List.replicate more (.rBlock false false), [.aDeselect]].flatten

/-- U of a request: the sum over its exchanges (R59, R130, R313). -/
def reqTicks (b : List Word) (ws : List Word) : Nat :=
  ((if reqType ws = 0x03 then apduPlan ws else reqCmds ws).map (reqCmdTicks b ws)).sum

/-- Front of a request in a stake whose field is off (R44, R62). -/
def reqFront (b : List Word) (ws : List Word) : Nat :=
  if reqType ws = 0x04 then frontOf 0x11 b false
  else blkRamp 0x09 b + 800 + requestGuard (reqType ws) (reqProto ws)

/-! ### Matching stakes (R59 to R61, R186, R435) -/

/-- Template that serves a request (R311). -/
def hostTemplate (ws : List Word) : Nat := if reqType ws = 0x04 then 0x11 else 0x09

/-- R435: the stake's block serves Krovrel requests. -/
def krvBlock (b : List Word) : Bool :=
  decide (bf b 3 47 24 = 2080) && decide (bf b 2 39 32 = 0xFF) && within 0 1 (bf b 2 31 28)

/-- A stake serves a request of a pitch (R59, R186, R435). -/
def serves (k : Stake) (b : List Word) (q : Nat) (ws : List Word) : Bool :=
  decide (k.template = hostTemplate ws) && decide (k.pitch = q) && decide (k.port = reqPort ws) &&
  (decide (reqType ws ≠ 0x01) || krvBlock b) && (!reqWide ws || (decide (b.length = 12) && wideWordOk k b))

/-- The stakes of the active plan, none when no bank holds a plan that passed. -/
def State.planStakes (s : State) : List Stake :=
  if s.bit R.schStatus F.schStatus.loaded then s.stakes s.activeBank else []

/-- The previous stake on the port in the same cycle holds the field (R46). -/
def heldBefore (all : List Stake) (k : Stake) : Bool :=
  match (all.filter fun x => decide (x.idx < k.idx) && decide (k.port ∈ x.ports)).getLast? with
  | some x => x.hold
  | none => false

/-- The stakes of the plan that serve a request. -/
def State.matching (s : State) (q : Nat) (ws : List Word) : List Stake :=
  s.planStakes.filter fun k => serves k (s.blockOf s.activeBank k) q ws

/-- The request fits no whole stake that serves it: TOO_LONG at once (R60). -/
def State.tooLong (s : State) (q : Nat) (ws : List Word) : Bool :=
  let m := s.matching q ws
  !m.isEmpty && m.all fun k =>
    let b := s.blockOf s.activeBank k
    let f := if heldBefore s.planStakes k then 0 else reqFront b ws
    decide (k.dur < 16 + f + reqTicks b ws + tailOf k.template b k.hold k.resumable + k.guard)

end Sys2Proof.Machine
end

