-- ==== Sys2Proof/Machine/Radio.lean ====
section
/-! DEFINITION. What a stake does with its slices: raising and lowering fields and carriers (R44, R72, R189, R192), the
channel of a UHF port (R193 to R198), and the seeds of the self-jammer canceller (R202, R204). -/

namespace Sys2Proof.Machine

/-! ### Channels and seeds of a UHF port -/

/-- Seed bin of a channel code (R202): 1.875 MHz is 75 steps of 25 kHz. -/
def seedBin (ch : Nat) : Nat := min 63 (ch / 75)

/-- Channel code in use on a UHF port. -/
def State.chanOf (s : State) (p : Nat) : Nat := (s.port p).chan

/-- A UHF slice shows the channel of its port (R219). -/
def State.showChan (s : State) (n p : Nat) : State := s.setFld (R.uhaTxStatus (uhfIdx n)) F.uhaTxStatus.ch (s.chanOf p)

/-- A UHF port takes the channel of an entry of a table, and the slice that serves it shows it with the time; one in OFF keeps what
it shows (R26, R193, R219). -/
def State.setChan (s : State) (r : Run) (t e : Nat) : State :=
  let n := s.server r.port
  let s1 := s.modPort r.port fun x => { x with chan := r.fld (R.uhaCht t e) F.uhaCht.ch, entry := (t, e) }
  if (s.slice n).st = .off then s1 else (s1.showChan n r.port).stamp n

/-- At a down-ramp or a channel change the vector in use, as it has adapted, returns to the seed of its bin (R202): not
unconverged, not on the spare, and not over a host's write since the stake started. -/
def State.sjcSave (s : State) (p : Nat) : State :=
  let x := s.port p
  let b := seedBin (s.chanOf p)
  if !x.sjcConverged ∨ x.covered ∨ b ∈ x.seedsWritten then s
  else s.setReg (R.uhaSjcSeed (uhfIdx p) b) (Word.put (x.sjcW &&& 0x0FFF0FFF) F.uhaSjcSeed.valid 1)

/-- The seed of a bin as a stake takes it: a host's write of it since the stake started waits for the next one (R25, R219). -/
def State.seedOf (s : State) (r : Run) (b : Nat) : Word :=
  let off := R.uhaSjcSeed (uhfIdx r.port) b
  if b ∈ (s.port r.port).seedsWritten then SMap.look (resetWord off) r.cfg off else s.reg off

/-- SJC convergence starts from the seed of the channel's bin, 0 without one; on the spare HLT corrects that seed by the spare
path offset it has measured (R202, R204). -/
def State.sjcLoad (s : State) (r : Run) : State :=
  let w := s.seedOf r (seedBin (s.chanOf r.port))
  let w1 := if Word.get w F.uhaSjcSeed.valid = 1 then Word.put w F.uhaSjcSeed.valid 0 else 0
  if (s.port r.port).covered then
    s.modPort r.port fun x => { x with
      sjcW := Config.sjcOffset (s.slice (s.server r.port)).live r.port w1, sjcConverged := false }
  else s.modPort r.port fun x => { x with sjcW := w1, sjcConverged := false }

/-- A permutation of n table entries whose first entry differs from `last` when n is 2 or more (R195). -/
def drawPass (seed n : Nat) (last : Option Nat) : List Nat :=
  let all := List.range n
  let firsts := if n < 2 then all else all.filter fun e => decide (some e ≠ last)
  match pick seed firsts with
  | none => []
  | some e => match pickMany (seed + 1) (n - 1) (all.filter (· ≠ e)) with
    | none => [e]
    | some l => e :: l

/-- Field of UHA_HOP_STATE for table t (R219). -/
def hopField (t : Nat) : Fld := (6 * t + 5, 6 * t)

/-- Tune a port to an entry of a table, which is now the entry last used: the channel in use, and the position shown (R195,
R196). -/
def State.tune (s : State) (r : Run) (t e pos : Nat) : State :=
  ((s.modPort r.port fun x => { x with hopPos := SMap.ins t e x.hopPos }).setChan r t e).setFld
    (R.uhaHopState (uhfIdx r.port)) (hopField t) pos

/-- Length of a table as the stake sees it (R193, R25). -/
def Run.chtLen (r : Run) (t : Nat) : Nat := min 64 (r.fld R.uhaChtLen (8 * t + 6, 8 * t))

/-- A table whose length has changed since the last stake on the port starts from entry 0 again (R196). -/
def State.hopLength (s : State) (r : Run) (t : Nat) : State :=
  let n := r.chtLen t
  if SMap.look n (s.port r.port).hopLen t = n then s.modPort r.port fun x => { x with hopLen := SMap.ins t n x.hopLen }
  else
    (s.modPort r.port fun x => { x with
      hopLen := SMap.ins t n x.hopLen, hopPos := SMap.del t x.hopPos, hopPerm := SMap.del t x.hopPerm }).setFld
      (R.uhaHopState (uhfIdx r.port)) (hopField t) 0

/-- The lengths of the eight tables at the start of a stake on a UHF port. -/
def State.hopLengths (s : State) (r : Run) : State :=
  if isUhfPort r.port then s.each (List.range 8) fun s t => s.hopLength r t else s

/-- Draw a new permutation of a table and take its first entry, which differs from the last one of the pass before (R195). -/
def State.newPass (s : State) (r : Run) (t : Nat) (last : Option Nat) : State :=
  let n := r.chtLen t
  let l := drawPass s.fresh n last
  ((s.modPort r.port fun y => { y with hopPerm := SMap.ins t l y.hopPerm }).skip (n + 1)).tune r t (l.getD 0 0) 0

/-- Take the next entry of the stake's table under its hop mode: after the entry last used on the port, in the order of the
table or of the permutation (R195, R196). DESIGN CHOICE (notes/assumptions/112.md): with none used yet, SEQUENCE takes entry 0. -/
def State.nextChannel (s : State) (r : Run) : State :=
  let t := bf r.block 4 63 61
  let hop := bf r.block 4 60 59
  let x := s.port r.port
  if hop = 0 then s.tune r t (bf r.block 4 58 53) (bf r.block 4 58 53)
  else if hop = 1 then
    let e := match SMap.find x.hopPos t with
      | none => 0
      | some k => if k + 1 < r.chtLen t then k + 1 else 0
    s.tune r t e e
  else
    let perm := SMap.look [] x.hopPerm t
    match SMap.find x.hopPos t with
    | none => s.newPass r t none
    | some e =>
      let k := perm.idxOf e + 1
      if k < perm.length then s.tune r t (perm.getD k 0) k else s.newPass r t perm.getLast?

/-! ### Transmit power (R190, R191) -/

/-- The amplifier mode of a port as the stake has it (R190). -/
def Run.paExt (r : Run) : Bool := r.bit (R.uhaPaCfg (uhfIdx r.port)) F.uhaPaCfg.ext

/-- Amplifier gain in 0.25 dB. -/
def Run.paGain (r : Run) : Nat := r.fld (R.uhaPaCfg (uhfIdx r.port)) F.uhaPaCfg.gainQdb

/-- Power cap of a slice as a tx_pwr code: derating, and the drive limit with an external amplifier (R191, R342). -/
def State.txCap (s : State) (r : Run) (n : Nat) : Nat :=
  if r.paExt then 80 + r.paGain - 4 * s.derate n else 132 - 4 * s.derate n

/-- Power cap of the channel in use (R191). -/
def State.chanCap (s : State) (r : Run) : Nat :=
  r.fld (R.uhaCht (s.port r.port).entry.1 (s.port r.port).entry.2) F.uhaCht.cap

/-- Transmit power as a tx_pwr code: the lowest of the stake's, the channel's cap and the slice's (R191, R342); −10 dBm in a
HEAD_CHECK, at UHn_PADRV with ext (R210). -/
def State.txPower (s : State) (r : Run) : Nat :=
  if r.template = 0x21 then (if r.paExt then r.paGain else 0)
  else min (bf r.block 2 63 56) (min (s.chanCap r) (s.txCap r (s.server r.port)))

/-- What the slices drive in an exchange: the codes of a group (R81); on UHF the ball that transmits and its level, which is the
set power minus the amplifier's gain with ext (R190). -/
def State.airDrives (s : State) (r : Run) : List (Nat × Nat) :=
  if isHfPort r.port then r.drives
  else if r.paExt then [(1, s.txPower r - r.paGain)]
  else [(0, s.txPower r)]

/-! ### The pins of an external amplifier (R207) -/

/-- UHA_PA_CFG of a port as its amplifier is driven: that of the running stake, else the register (R25). -/
def State.paWord (s : State) (p : Nat) : Word :=
  match s.runAt p with
  | some r => SMap.look (resetWord (R.uhaPaCfg (uhfIdx p))) r.cfg (R.uhaPaCfg (uhfIdx p))
  | none => s.cfgReg (R.uhaPaCfg (uhfIdx p))

/-- The amplifier mode of a port. -/
def State.paExt (s : State) (p : Nat) : Bool := decide (Word.get (s.paWord p) F.uhaPaCfg.ext = 1)

/-- The active and safe levels of the pins: BIAS, EN, MODE. -/
def State.paActive (s : State) (p : Nat) : BitVec 3 := BitVec.ofNat 3 (Word.get (s.paWord p) F.uhaPaCfg.active)
def State.paSafe (s : State) (p : Nat) : BitVec 3 := BitVec.ofNat 3 (Word.get (s.paWord p) F.uhaPaCfg.safe)

/-- Pins take the levels of a word where the mask is 1. -/
def maskPins (old new mask : BitVec 3) : BitVec 3 := (old &&& ~~~mask) ||| (new &&& mask)

/-- Set the pins under a mask. -/
def State.setPins (s : State) (p : Nat) (v mask : BitVec 3) : State :=
  s.modPort p fun x => { x with paPins := maskPins x.paPins v mask }

/-- Every pin to its safe level; a sequence under way ends. -/
def State.pinsSafe (s : State) (p : Nat) : State :=
  s.modPort p fun x => { x with paPins := s.paSafe p, paStep := none }

/-! ### Fronts -/

/-- Guard time of an inner template after the field is up (R44); a request's own (R62). -/
def Run.guardTime (r : Run) : Nat :=
  match r.request with
  | some q => if reqType q.words = 0x04 then 0 else requestGuard (reqType q.words) (reqProto q.words)
  | none =>
    if r.inner = 0x01 ∨ r.inner = 0x08 then 12000
    else if r.inner = 0x04 then 40000
    else if r.inner = 0x02 ∨ r.inner = 0x03 ∨ r.inner = 0x05 then 204000
    else 0

/-- Ramp of a stake's field: 5 µs on HF and 2 µs on UHF in HEAD_CHECK (R93, R210). -/
def Run.rampTicks (r : Run) : Nat :=
  if r.template = 0x21 then (if isHfPort r.port then 200 else 80) else r.ramp

/-- The states a slice passes through to the stake's work (R44, R72, R189); a group member of amplitude 0 stays in ARMED
(R81). -/
def upPath (inner : Nat) (hf driven : Bool) (st : SliceState) : List SliceState :=
  let wake : List SliceState :=
    if st = .off ∨ st = .hfCal ∨ st = .cal then [if hf then .quiet else .standby] else []
  let work : List SliceState :=
    if inner = 0x0A then [.hfListen]
    else if inner = 0x12 then [.synth, .listen]
    else if !driven then [.armed]
    else if hf then [.armed, .rampUp, .field]
    else [.synth, .uRampUp, .carrier]
  wake ++ work

/-- The port of the stake that a slice serves, the stake's own for a slice that serves none. -/
def State.memberOf (s : State) (r : Run) (n : Nat) : Nat :=
  (r.stake.ports.find? fun p => decide (s.server p = n)).getD r.port

/-- Power cap of a derated HF slice in mW (R342). -/
def hfCap (d : Nat) : Nat := if d = 0 then 1500 else if d = 1 then 1200 else if d = 2 then 960 else 768

/-- The cap of a slice in 1/3,969 mW. -/
def State.capOf (s : State) (n : Nat) : Nat := 3969 * hfCap (s.derate n)

/-- The largest power in 1/3,969 mW that any stake sets on a port (R74): the stakes of the active plan, and the one that runs. -/
def State.portPeak (s : State) (r : Run) (p : Nat) : Nat :=
  ((s.planStakes.filter fun k => decide (p ∈ k.ports) && (raisesField k.template || decide (k.template = 0x21))).map fun k =>
    blkPeak k.template k.group (s.blockOf s.activeBank k) (p % 4)).foldl max (blkPeak r.template r.stake.group r.block (p % 4))

/-- Rail of the die that a slice lies on, in 0.1 V (R74, R349): HA has slices 0 to 15 and the spare, HB the others (R13). -/
def State.railDv (s : State) (n : Nat) : Nat :=
  clamp 50 240 (s.cfg R.pwrHfRail (if n < 16 ∨ n = 32 then F.pwrHfRail.haDv else F.pwrHfRail.hbDv))

/-- What the slice of a port drives for each 10,000 that the port delivers: on the spare HLT makes up the loss of its path, at most
0.3 dB (R28, R73). -/
def State.pathLoss (s : State) (p : Nat) : Nat := if (s.port p).covered then clamp 10000 10716 (Config.spareLoss p) else 10000

/-- Power that a slice drives so that a port delivers a power, both in 1/3,969 mW. -/
def State.driven (s : State) (p w : Nat) : Nat := (s.pathLoss p * w + 9999) / 10000

/-- The rail allows the driven power into an impedance in 0.1 Ω: at least V_min = 1.25 · π/4 · √(2 P |Z|) (R74), with π² as
126,025/12,769 (notes/assumptions/84.md). -/
def railAllows (dv w z : Nat) : Bool := decide (126025 * w * z ≤ 12769 * 512 * 3969 * (dv * dv))

/-- The highest power that a rail allows, in 1/3,969 mW (R74). -/
def railMost (dv z : Nat) : Nat := 12769 * 512 * 3969 * (dv * dv) / (126025 * max 1 z)

/-- The rail of a port's slice falls short of V_min for the largest power that any stake sets on the port (R74). -/
def State.railShort (s : State) (r : Run) (n p z : Nat) : Bool :=
  !railAllows (s.railDv n) (s.driven p (min (s.portPeak r p) (s.capOf n))) z

/-- The power that a slice sets for a stake on a port (R73, R74, R342): the stake's, at most the cap, and at most what a rail
that falls short allows. -/
def State.setPower (s : State) (r : Run) (n p z : Nat) : Nat :=
  let w := min (r.power p) (s.capOf n)
  if s.railShort r n p z then min w (10000 * railMost (s.railDv n) z / s.pathLoss p) else w

/-- A drive at a part of its power: its amplitude is the root of it, in 1/1,024. -/
def scaleDrive (v : Int × Int) (part whole : Nat) : Int × Int :=
  if whole ≤ part then v else (v.1 * root (2 ^ 20 * part / whole) / 1024, v.2 * root (2 ^ 20 * part / whole) / 1024)

/-- |Z| of the head that the load monitor of a slice has measured last, in 0.1 Ω. -/
def State.lastMag (s : State) (n : Nat) : Nat := s.fld (R.hfaDriveStatus n) F.hfaDriveStatus.zMag

/-- The drive of a slice in a stake's setting (R81), less what the cap and the rail take from it (R74, R342). -/
def State.driveGoal (s : State) (r : Run) (n z : Nat) : Int × Int :=
  let p := s.memberOf r n
  scaleDrive (driveVec (r.ampOf p) (r.phaseOf p)) (s.setPower r n p z) (r.power p)

/-- The slice of a port takes the drive of a stake's setting, at once before the field rises, or over 128 fc (R81, R82). -/
def State.takeDrive (s : State) (r : Run) (n : Nat) (slew : Bool) : State :=
  let v := s.driveGoal r n (s.lastMag n)
  s.modSlice n fun x => { x with
    power := r.fullPower
    vec := if slew then { from_ := x.vec.value s.now, goal := v, at_ := s.now } else Vec.rest v }

/-- The driver follows a head that it measures (R73): its drive is the one for that |Z|. -/
def State.regulate (s : State) (r : Run) (n z : Nat) : State :=
  let v := s.driveGoal r n z
  s.modSlice n fun x => { x with vec := if x.vec.value s.now = x.vec.goal then Vec.rest v else { x.vec with goal := v } }

/-- The channel of a UHF stake that starts its front: the next one of its table, or entry 0 of table 0 in a HEAD_CHECK
(R195, R210). -/
def State.frontChannel (s : State) (r : Run) : State :=
  if isHfPort r.port then s
  else if r.template = 0x21 then s.setChan r 0 0
  else s.nextChannel r

/-- The stake's slices start its front at a tick (R40, R62, R64), with its power and its first setting (R81); the samples of R94
start afresh. -/
def State.startFront (s : State) (r : Run) (from_ : Nat) : State :=
  ((((s.frontChannel r).each ((s.slicesOf r).filter isHf) fun s n => s.takeDrive r n false).each r.stake.ports fun s p => s.modPort p fun x => { x with badSamples := 0 }).each (s.slicesOf r) fun s n =>
    s.sendFrom n r.rampTicks from_ r.alt (upPath r.inner (isHf n) (decide (r.ampOf (s.memberOf r n) ≠ 0)) (s.slice n).st)).putRun
      { r with phase := .front }

/-- The slice stands at a setting: nothing is under way but the slew to amplitude 0 (R82). -/
def Slice.settled (x : Slice) : Bool := x.path.isEmpty || (decide (x.st = .field) && decide (x.path = [.armed]))

/-- Every slice of the stake is in FIELD or CARRIER, or with amplitude 0 in ARMED or on its way there (R81, R82). -/
def State.fieldUp (s : State) (r : Run) : Bool :=
  !(s.slicesOf r).isEmpty && (s.slicesOf r).all fun n => (s.slice n).settled &&
    (if r.ampOf (s.memberOf r n) = 0 ∧ isHf n then (s.slice n).st.ready || decide ((s.slice n).st = .armed)
     else (s.slice n).path.isEmpty && (s.slice n).st.ready)

/-! ### What the drivers show (R73, R74, R81, R342) -/

/-- HEALTH at most once per port and major cycle (R74, R342). -/
def State.railHealth (s : State) (p : Nat) : State :=
  if p ∈ s.sch.railPorts then s
  else (s.setSch { s.sch with railPorts := p :: s.sch.railPorts }).health p .ok 0x010D 0 []
def State.capHealth (s : State) (p cap : Nat) : State :=
  if p ∈ s.sch.capPorts then s
  else (s.setSch { s.sch with capPorts := p :: s.sch.capPorts }).health p .ok 0x010A cap []

/-- Delivered power in mW as the load monitor shows it: measured, and held about the set power into a head of class PRESENT,
within ±0.5 dB, on the spare within ±0.25 dB (R28, R73). `w` is the set power in 1/3,969 mW. -/
def State.delivered (s : State) (p w : Nat) (o : SliceObs) : Nat :=
  if hfHead o.head ≠ 1 then o.power.toNat
  else
    let lo := if (s.port p).covered then 944061 else 891251
    let hi := if (s.port p).covered then 1059253 else 1122018
    clamp (lo * w / 3969000000) ((hi * w + 3968999999) / 3969000000) o.power.toNat

/-- The driver shows what it measures of a field that has come up or taken another setting (R73, R98). -/
def State.driveShown (s : State) (r : Run) (n p : Nat) (o : SliceObs) : State :=
  (s.setReg (R.hfaDriveStatus n) (Word.put (Word.put (Word.put (s.reg (R.hfaDriveStatus n)) F.hfaDriveStatus.powerMw
    (s.delivered p (s.setPower r n p o.head.mag) o)) F.hfaDriveStatus.zMag (min 0xFFFF o.head.mag)) F.hfaDriveStatus.zPhase
    o.head.phase.toNat)).stamp n

/-- A rail that falls short is shown, the stake counted once, and pitch 0 told once per port and cycle (R74). -/
def State.railLimited (s : State) (r : Run) (n p : Nat) : State :=
  let s1 := s.setBit (R.hfaDriveStatus n) F.hfaDriveStatus.railLimit true
  let s2 := if r.stake.idx ∈ s.sch.railStakes then s1
    else (s1.setSch { s1.sch with railStakes := r.stake.idx :: s1.sch.railStakes }).bumpSat R.hfaRailLimitCnt F.hfaRailLimitCnt.count 1
  s2.railHealth p

/-- What a setting runs into at a head: the rail, and the cap of its slice (R74, R342). -/
def State.driveTold (s : State) (r : Run) (n p z : Nat) : State :=
  let s1 := if s.railShort r n p z then s.railLimited r n p else s
  if s.capOf n < r.power p then s1.capHealth p (hfCap (s.derate n)) else s1

/-- What the driver shows and reports of a setting (R74, R98, R342). -/
def State.showDrive (s : State) (r : Run) (n p : Nat) (o : SliceObs) : State :=
  ((s.regulate r n o.head.mag).driveShown r n p o).driveTold r n p o.head.mag

/-- A slice that drives nothing delivers nothing (R81, R98). -/
def State.driveNone (s : State) (n : Nat) : State := s.setFld (R.hfaDriveStatus n) F.hfaDriveStatus.powerMw 0

/-- The slice drives a setting of its own in FIELD, and does not leave it (R71, R81). -/
def State.driving (s : State) (n : Nat) : Bool := isHf n && decide ((s.slice n).st = .field) && (s.slice n).path.isEmpty

/-- A stake finds its field on: what that field runs into counts for the stake as well (R46, R74, R342). -/
def State.heldDrive (s : State) (r : Run) : State :=
  s.each ((s.slicesOf r).filter s.driving) fun s n => s.driveTold r n (s.memberOf r n) (s.lastMag n)

/-- What the load monitor gives between measurements: the head as it was last measured, and a power that no rule states
(notes/assumptions/97.md). -/
def State.lastObs (s : State) (n : Nat) : SliceObs :=
  { head := { mag := s.lastMag n
              phase := BitVec.ofNat 8 (s.fld (R.hfaDriveStatus n) F.hfaDriveStatus.zPhase) }
    power := (Config.freeWord s.fresh).setWidth 16, sjcConverged := false, rejDb := 0, sjcW := 0 }

/-- The load monitor has measured another |Z| than before, `z0`, on a field that is up: the driver follows it, and the test of R74 is
made again. -/
def State.remeasured (s : State) (r : Run) (n p z0 : Nat) (o : HeadObs) : State :=
  if !s.driving n then s
  else
    let s1 := (s.regulate r n o.mag).driveTold r n p o.mag
    if s.setPower r n p o.mag = s.setPower r n p z0 then s1
    else (s1.driveShown r n p { s1.lastObs n with head := o }).skip 1

/-- A driver takes up the next setting of its group: its drive moves over 128 fc (R82), to amplitude 0 on the way to ARMED, to any
other in FIELD (R81), and it shows the power of the setting (R74, R342). -/
def State.nextSetting (s : State) (r : Run) (n : Nat) : State :=
  let st := (s.slice n).st
  if !(s.slice n).settled ∨ (st ≠ .field ∧ st ≠ .armed) then s
  else
    let s1 := s.takeDrive r n true
    if r.ampOf (s.memberOf r n) = 0 then
      (if st = .field then s1.modSlice n fun x => { x with path := [.armed], due := s1.now + fcTicks 128 } else s1).driveNone n
    else
      let s2 := if st = .armed then s1.sliceTo n .field else s1.modSlice n fun x => { x with path := [] }
      (s2.showDrive r n (s2.memberOf r n) (s2.lastObs n)).skip 1

/-- The drivers of a group take up the setting of the next exchange (R82). -/
def State.driveSetting (s : State) (r : Run) : State :=
  if !r.stake.group ∨ bf r.block 4 63 56 < 2 then s else s.each (s.slicesOf r) fun s n => s.nextSetting r n

/-! ### Tails, channel changes, and going dark -/

/-- A UHF carrier that is about to fall with its ramp gives its vector back; one that is on its way to OFF has none (R202). -/
def State.sjcDown (s : State) (n p : Nat) : State :=
  if (s.slice n).st = .carrier ∧ (s.slice n).path.head? ≠ some .off then s.sjcSave p else s

/-- Lower the stake's fields or carriers to rest with their ramp (R72, R189). -/
def State.lowerField (s : State) (r : Run) (ramp : Nat) : State :=
  s.each r.stake.ports fun s p =>
    let n := s.server p
    (if isHf n then s else s.sjcDown n p).restSlice n ramp

/-- The carrier of a port is on its channel from a tick on: its dwell, which the slice shows, and its time on the channel count from
there (R197, R200, R219). -/
def State.startDwell (s : State) (n p at_ : Nat) : State :=
  (s.modSlice n fun x => { x with dwellAt := at_ }).modPort p fun x => { x with chanStart := at_, dwellStart := at_ }

/-- A channel change starts (R197, R198): the vector is saved, the next entry taken. -/
def State.startHop (s : State) (r : Run) : State :=
  let n := s.server r.port
  let s1 := (s.sjcSave r.port).nextChannel r
  (s1.modSlice n fun x => { x.take false .hop 600 s.now with path := [.carrier], due := s.now + 6000 }).startDwell n r.port
    (s.now + 4600)

/-- Send a slice to OFF without a ramp (R72, R189). -/
def State.darkSlice (s : State) (n : Nat) : State := s.sendFrom n 0 s.now false [.off]

/-- The vector and the drive a hold keeps: words 2 and 4 to 7 of the block, and the exchanges so far (R77, R82). -/
def Run.held (r : Run) : List Word :=
  [r.block.getD 2 0, r.block.getD 4 0, r.block.getD 5 0, r.block.getD 6 0, r.block.getD 7 0,
   BitVec.ofNat 64 (r.setBase + r.exchCount)]

/-- The block of a stake that continues a held field (R77): power and group settings are those of the hold. -/
def heldBlock (hf : Bool) (held b : List Word) : List Word :=
  let pw : Fld := if hf then (63, 48) else (63, 56)
  (List.range b.length).map fun i =>
    if i = 2 then Word.put (b.getD 2 0) pw (Word.get (held.getD 0 0) pw)
    else if hf ∧ 4 ≤ i ∧ i ≤ 7 then held.getD (i - 3) 0
    else b.getD i 0

end Sys2Proof.Machine
end

