-- ==== Sys2Proof/Machine/Reset.lean ====
section
/-! DEFINITION. Taking a reset (R354 to R356, R410, R411): the shared operation of every reset source. What a later
step of the sequence does is in Machine/Boot.lean. -/

namespace Sys2Proof.Machine

/-- Bit of RST_CAUSE of a source (R354). -/
def causeBit : Cause → Nat
  | .por => 0 | .brownout => 1 | .wake => 2 | .resetPin => 3
  | .watchdog => 4 | .eccCritical => 5 | .software => 6 | .thermal => 7

/-- POR, BROWNOUT and WAKE are cold (R354). -/
def causeCold : Cause → Bool
  | .por => true | .brownout => true | .wake => true | _ => false

/-- Sources that hold the DN4810 until they end (R354). -/
def causeHolds : Cause → Bool
  | .brownout => true | .resetPin => true | .thermal => true | _ => false

/-- The restart of R355 is cold when the new source is, or when the interrupted sequence was cold and had not completed
the Groundsheet zeroing. -/
def State.resetCold (s : State) (c : Cause) : Bool :=
  causeCold c || (match s.boot.seq with
    | some q => q.cold && !q.zeroed
    | none => false)

/-- Straps are sampled again after POR, BROWNOUT, WAKE and RESET_PIN (R358). -/
def causeSamples : Cause → Bool
  | .watchdog => false | .eccCritical => false | .software => false | .thermal => false | _ => true

/-- The sequence that starts now samples the straps: for its own source, or in place of the one it interrupts before step 3
(R355, R358). -/
def State.strapsDue (s : State) (c : Cause) : Bool :=
  causeSamples c || (match s.boot.seq with
    | some q => q.samples && decide (q.step < 3)
    | none => false)

/-- RST_CAUSE: the source, and those that still hold the part (R354). -/
def causeBits (l : List Cause) : Word :=
  l.foldl (fun w c => w ||| BitVec.ofNat 64 (2 ^ causeBit c)) 0

/-- Sources that hold the part after cause c. -/
def State.heldBy (s : State) (c : Cause) : List Cause :=
  let old := match s.boot.seq with
    -- VIN is valid at a POR
    | some q => if c = .por then q.held.filter (· ≠ .brownout) else q.held
    | none => []
  if causeHolds c ∧ c ∉ old then old ++ [c] else old

/-- The sources active in the tick in which the sequence starts: this one, those that hold the part, and those of a
sequence that started in this very tick (R354). -/
def State.causesNow (s : State) (c : Cause) : List Cause :=
  let same := match s.boot.seq with
    | some q => if q.at_ = s.clock.aon then q.causes else []
    | none => []
  (c :: (s.heldBy c ++ same)).dedup

/-- The registers whose words survive a reset (R411), with their words after it. -/
def State.keptRegs (s : State) (c : Cause) : List (Nat × Word) :=
  let cold := s.resetCold c
  let w (off : Nat) : Nat × Word := (off, s.reg off)
  [(R.rstCause, causeBits (s.causesNow c))]
  ++ (if c = .por then [] else [w R.rstStraps])
  ++ (if c = .por then [] else
      [w R.pwrRtcAlarm,
       (R.cabRfoffStatus, Word.put 0 F.cabRfoffStatus.latched (s.fld R.cabRfoffStatus F.cabRfoffStatus.latched)),
       (R.lntStatus, Word.put (Word.put 0 F.lntStatus.wakeCard (s.fld R.lntStatus F.lntStatus.wakeCard))
          F.lntStatus.wakeEntries (s.fld R.lntStatus F.lntStatus.wakeEntries))])
  ++ (if cold then [] else
      [(R.lntStatus, Word.put (Word.put (Word.put 0 F.lntStatus.wakeCard (s.fld R.lntStatus F.lntStatus.wakeCard))
          F.lntStatus.wakeEntries (s.fld R.lntStatus F.lntStatus.wakeEntries))
          F.lntStatus.pings (s.fld R.lntStatus F.lntStatus.pings)),
       (R.hltAvs, Word.put (resetWord R.hltAvs) F.hltAvs.codeMax (s.fld R.hltAvs F.hltAvs.codeMax)),
       w R.cabGpioOut, w R.cxpCfg]
      ++ (List.range 64).map (fun n => w (R.cabGpioCfg n))
      ++ (List.range 17).map (fun n => w (R.uhaPaCfg n)))

/-- Store a list of register words. -/
def State.setRegList (s : State) (l : List (Nat × Word)) : State := s.each l fun s x => s.setReg x.1 x.2

/-- Balls are inputs with their weak pull-down until step 7 (R356, R420). -/
def State.pullDown (s : State) (l : List Nat) : State :=
  s.setRegList (l.map fun n => (R.cabGpioCfg n, Word.put 0 F.cabGpioCfg.pull 1))

/-- A warm restart of a cold sequence that no image has reached holds the weak pull-downs of every ball (R355, R356). -/
def State.holdPulls (s : State) (held : Bool) : State := if held then s.pullDown (List.range 64) else s

/-- After RESET_PIN, GP0 to GP3 are inputs with weak pull-down until step 7 (R356, R358). -/
def State.releaseStraps (s : State) (c : Cause) : State :=
  if c = .resetPin then
    (s.pullDown (List.range 4)).setCab { s.cab with
      ext := [0, 1, 2, 3].foldl (fun m n => SMap.del n m) s.cab.ext }
  else s

/-- CAB monitors the inhibit balls throughout (R356): the live bits of CAB_RFOFF_STATUS. -/
def State.showInhibit (s : State) : State :=
  ((s.setBit R.cabRfoffStatus F.cabRfoffStatus.aInhibit s.cab.a).setBit R.cabRfoffStatus F.cabRfoffStatus.bInhibit
    s.cab.b).setBit R.cabRfoffStatus F.cabRfoffStatus.inhibit
      (s.cab.a || s.cab.b || s.bit R.cabRfoffStatus F.cabRfoffStatus.latched)

/-- Ports after a reset: their live state is gone; PAn_FAULT_N keeps its level, and after a warm reset the PA pins hold
UHA_PA_CFG.safe (R209, R356). -/
def State.resetPorts (s : State) (cold : Bool) : SMap Port :=
  (List.range 16).foldl (fun m i =>
    SMap.put Port.dflt m (64 + i) { Port.dflt with
      faultLow := (s.port (64 + i)).faultLow
      paPins := if cold then 0 else BitVec.ofNat 3 (s.fld (R.uhaPaCfg i) F.uhaPaCfg.safe) }) []

/-- A Groundsheet byte of the presence tables, which every reset clears (R158). -/
def inPresence (a : Nat) : Bool := decide (0x01400000 ≤ a) && decide (a < 0x01C00000)

/-- Every piece of logic at its reset value, and the sequence at step 1 (R354, R355, R410). Save records stay until
READY, where they are discarded with their EVENTs (R58, R273; notes/assumptions/12.md). -/
def State.logicReset (s : State) (c : Cause) : State :=
  let cold := s.resetCold c
  { State.reset with
    pending := s.pending
    clock := { site := 0, aon := if c = .por then 0 else s.clock.aon, epoch := s.clock.epoch
               aonEpoch := if c = .por then 0 else s.clock.aonEpoch }
    regs := []
    mem := s.mem.filter fun x => !inPresence x.1
    ecc := s.ecc.filter fun x => !inPresence (8 * x.1)
    ports := s.resetPorts cold
    records := s.records
    boot := { State.reset.boot with
              seq := some { cold := cold, step := 1, zeroed := false, held := s.heldBy c, cal := [], epoch := 0, sfdp := false
                            samples := s.strapsDue c
                            at_ := if c = .por then 0 else s.clock.aon, causes := s.causesNow c }
              scanHeld := s.boot.scanHeld && !cold && !decide (c = .resetPin) }
    lantern := { Lantern.dflt with aon := if c = .por then [] else s.lantern.aon }
    cxp := if cold then Cxp.dflt else { Cxp.dflt with req := s.cxp.req, pri := s.cxp.pri, gnt := s.cxp.gnt }
    cab := { s.cab with restoreAt := none, held := if cold then [] else s.heldBalls, holdoff := [], pulseUntil := 0 }
    flash := s.flash
    tap := if c = .por then State.reset.tap else s.tap
    out := s.out
    fresh := s.fresh }

/-- A reset source is taken (R354, R355): the logic is reset, and the registers that outlast the reset keep their values. -/
def State.takeReset (s : State) (c : Cause) : State :=
  ((((s.logicReset c).setRegList (s.keptRegs c)).holdPulls (decide (s.bootBalls = some true) && !s.resetCold c)).releaseStraps
    c).showInhibit

/-- An ECC_CRITICAL warm reset (R257, R30). -/
def State.eccCritical (s : State) : State := s.takeReset .eccCritical

end Sys2Proof.Machine
end

