-- ==== Sys2Proof/Machine/Exchange.lean ====
section
/-! DEFINITION. Exchanges: starting one (R43, R132, R126, R197), what the receiver latches (R104, R90, R206), the
verdict of the check unit (R248, R249), the end of an exchange and its class (R110, R180), cuts and the tail (R42), and
the failure budget's expiry (R126). -/

namespace Sys2Proof.Machine

/-! ### What runs next -/

/-- The command that the stake's next exchange would send. -/
def Run.nextCmd (r : Run) : Option Cmd :=
  match r.action with
  | some a => a.todo.head?
  | none => if r.request.isSome then none else r.walk.next

/-- U of an exchange (R41, R43): the block's, or the request's own. -/
def Run.exchTicks (r : Run) (c : Cmd) : Nat :=
  match r.request with
  | some q => reqCmdTicks r.block q.words c
  | none => blkU r.block

/-- The slice can send now: the front is over, no exchange runs, and every slice of the stake has its field. -/
def State.maySend (s : State) (r : Run) : Bool :=
  s.up && r.inert.isNone && decide (r.phase = .active) && r.exch.isNone && decide (r.readyAt ≤ s.now) && s.fieldUp r

/-- The action holds a session (R128). -/
def Action.secured (a : Action) : Bool := a.session.isSome

/-- The next frame of the action is sent in SECURED. -/
def Run.secured (r : Run) : Bool :=
  match r.action with
  | some a => a.secured
  | none => false

/-- The command's frame exceeds b_d: of a Krovrel command (R132), and of an ISO/IEC inventory (R97). -/
def Run.frameTooLong (r : Run) (c : Cmd) : Bool :=
  if c.krovrel then decide (bf r.block 2 15 0 < krvCells r.secured c)
  else isHfPort r.port && r.request.isNone && decide (bf r.block 2 15 0 < isoBits c)

/-- Pitch and identifier of the failure budget (R126). -/
def Run.budgetKey (r : Run) : Nat × BitVec 128 :=
  (r.pitch, match r.action with
    | some a => a.ident
    | none => 0)

/-- The exchange would end past the dwell of a hopping stake (R197). -/
def State.dwellOver (s : State) (r : Run) (u : Nat) : Bool :=
  uhfTemplate r.inner && decide (bf r.block 4 60 59 ≠ 0) &&
  decide ((s.port r.port).dwellStart + msTicks (bf r.block 4 47 32) < s.now + u)

/-! ### Ending work -/

/-- The decoder that the stake claims is free again (R180). -/
def State.freeDecoder (s : State) (r : Run) : State :=
  if r.stake.decoder = 1 then
    (s.setBit R.wrdStatus F.wrdStatus.dec0Busy false).setDecoders (SMap.del 0 s.decoders)
  else if r.stake.decoder = 2 then
    (s.setBit R.wrdStatus F.wrdStatus.dec1Busy false).setDecoders (SMap.del 1 s.decoders)
  else s

/-- EXCHANGE trace record (R394). -/
def State.traceExch (s : State) (r : Run) (c : Option Cmd) (cls : XClass) (st : Status) : State :=
  let k := match c with
    | some x => if x.krovrel then cls.code else 0
    | none => 0
  s.trace 0x03 r.port (k * 2 ^ 40 + st.code * 2 ^ 32)

/-- End of a request: its REQUEST_DONE (R61, R318), with the index of the exchange that ended it. -/
def State.finishRequest (s : State) (r : Run) (q : Request) (a : Action) : State :=
  (s.requestDone q.pitch q.port a.status (reqType q.words) (a.count - 1) (q.words.getD 0 0) (q.words.getD 1 0) false
    a.replyBits a.data.length (packUnits a.data ++ a.quality)).putRun { r with request := none, action := none }

/-- Status and class that work in progress ends with when its stake's tail or a cut ends it: those of its last attempt when a
repetition was still to come (R182). -/
def Action.ended (a : Action) (st : Status) (cut : Bool) : Action :=
  let t := if cut then (st, 1) else a.tried.getD (st, a.cls)
  { a with status := if a.status = .ok then t.1 else a.status
           cls := if cut then 1 else t.2, count := a.count + cut.toNat }

/-- Work in progress on a stake ends with a status without an exchange of its own: the report of R436, or the
REQUEST_DONE of R61. `cut` when an exchange was running. -/
def State.endWork (s : State) (r : Run) (st : Status) (cut : Bool) : State :=
  let cls := if cut ∧ krovrelInner r.inner then 1 else 0
  match r.action with
  | some a =>
    let a1 := a.ended st cut
    (match r.request with
     | some q => s.finishRequest r q a1
     | none =>
       let r1 : Run := { r with action := none }
       (if !(a.pairSel && !a.selected) then s.actionReport r1 a1
        else if cut then s.tagReport r1 (TagInfo.bare st cls) else s).putRun r1)
  | none => (if cut ∧ innerAllows r.inner r.port then s.tagReport r (TagInfo.bare st cls) else s).putRun r

/-- What the cut of an exchange leaves in its action: of a READ_WIDE the quality block once its sync symbol has come, and no
data (R181, R183). -/
def Action.cut (a : Action) (x : Exch) : Action :=
  match x.cmd with
  | .kReadWide _ _ => { a with quality := x.quality a, data := [], part := false }
  | _ => a

/-- What the cut of an exchange of the procedure itself leaves in its walk: the command that opens a frame of slots is still to
send (R142). -/
def Walk.cut (w : Walk) (own : Bool) (c : Cmd) : Walk :=
  match own, c with
  | true, .kBegin _ _ _ _ _ _ => { w with next := some c }
  | true, .kReround _ => { w with next := some c }
  | _, _ => w

/-- The tick in which the reply of an exchange began. -/
def Exch.replyAt (x : Exch) (l : Latched) : Nat := x.start + (x.zero + l.offset) * 1000 / 339

/-- A neighbour has driven while the reply of an exchange arrived (R86). -/
def State.nbSeen (s : State) (r : Run) (x : Exch) : Bool :=
  match x.seen with
  | some l => r.nb || s.nbActive r (x.replyAt l)
  | none => r.nb

/-- A stake after the cut of an exchange: counted (R82), and what its reports say of the last reply, which an exchange cut before its
reply leaves as it was (R316). -/
def State.runCut (s : State) (r : Run) (x : Exch) (st : Status) : Run :=
  let r1 : Run := { r with
    exch := none, exchCount := r.exchCount + 1, lastStatus := st, action := r.action.map fun a => a.cut x
    walk := r.walk.cut r.action.isNone x.cmd }
  if x.seen.isNone then r1
  else { r1 with lastSeen := x.seen, lastBit := s.now, nb := s.nbSeen r x, flagged := (0, false, 0) }

/-- Cut whatever runs on a stake (R42, R43): a running exchange is counted, classed CUT and reported, and a group takes its next
setting (R82). DESIGN CHOICE (notes/assumptions/115.md): a cut in the very tick in which the exchange starts comes before the first
cell of its command, and is no failure of R126. -/
def State.cutExch (s : State) (r : Run) (st : Status) : State :=
  match r.exch with
  | none => s.endWork r st false
  | some x =>
    let s1 := (s.bumpSat R.schOverrunCnt F.schOverrunCnt.count 1).traceExch r (some x.cmd) .cut st
    let s2 := if x.cmd.keyed ∧ x.start < s.now then s1.budgetNote r.budgetKey.1 r.budgetKey.2 (some false) else s1
    let r1 := s.runCut r x st
    ((s2.freeDecoder r).driveSetting r1).endWork r1 st true

/-- The stake performs no further radio action, and gives a status (R69, R94, R200, R208, R213, R331). -/
def State.stopRadio (s : State) (r : Run) (st : Status) : State :=
  (s.cutExch r st).modRun r.port fun x => { x with inert := some st, lastStatus := st }

/-! ### The tail (R42, R57) -/

/-- Walk state is left to save (R57): the walk has begun and has not been ended by R134. -/
def Run.walkLeft (r : Run) : Bool :=
  innerAllows r.inner r.port && !r.walk.finished && r.walk.started

/-- The target and the mask that a walk began with: those of the record that it was resumed from, else of the block (R142). -/
def Run.origin (r : Run) : Bool × BitVec 16 × Nat × Word :=
  r.walk.origin.getD
    (blkTarget r.block != r.walk.pol, BitVec.ofNat 16 (bf r.block 9 63 48), bf r.block 9 47 40, r.block.getD 10 0)

/-- The save record of a stake (R57, R142): the walk without UIDs still to be acted on, its target and its mask. -/
def Run.record (r : Run) : SaveRecord :=
  { port := r.port, pitch := r.pitch, template := r.template, walk := { r.walk with pair := [] }
    target := r.origin.1, mask := r.origin.2
    heldField := r.stake.hold, fifo := blkFifo r.block }

/-- Save the walk of a RESUMABLE stake that has worked in the record of its key, which is gone when nothing is left of it
(R57); a walk whose head was lost is not saved (R94). -/
def State.saveWalk (s : State) (r : Run) : State :=
  let others := s.records.filter fun x => !(decide (x.port = r.port) && decide (x.pitch = r.pitch) &&
    decide (x.template = r.template))
  if !r.stake.resumable ∨ (r.phase ≠ .front ∧ r.phase ≠ .active) then s
  else if r.walkLeft ∧ r.inert ≠ some .headAbsent then
    s.setRecords (others ++ [r.record])
  else s.setRecords others

/-- What becomes of a phase at the tail: a stake that still waits for the grant waits no longer (R39, R380). -/
def Phase.atTail : Phase → Phase
  | .front => .tail | .active => .tail | .waiting => .idle | x => x

/-- The slice begins the stake's tail: what runs is cut, the walk saved, and the field lowered unless the stake holds
it (R42, R46, R57). -/
def State.beginTail (s : State) (r : Run) : State :=
  let s1 := s.cutExch r (r.inert.getD .abandoned)
  match s1.runAt r.port with
  | none => s1
  | some r1 =>
    let phase := r1.phase.atTail
    let s2 := (s1.saveWalk r1).putRun { r1 with phase := phase }
    if r1.stake.hold ∧ r1.inert.isNone ∧ s2.fieldUp r1 then
      s2.each (r1.stake.ports.filter fun p => decide (p ∉ r1.missing)) fun s p =>
        s.modPort p fun x => { x with hold := some r1.held }
    else s2.lowerField r1 r1.rampTicks

/-! ### An exchange that is not sent (R126, R132, R134) -/

/-- The command is not sent: TOO_LONG or LOCKED_OUT, and no air time. -/
def State.notSent (s : State) (r : Run) (c : Cmd) (st : Status) : State :=
  let s1 := s.traceExch r none .silent st
  let r1 : Run := { r with lastStatus := st }
  match r.action with
  | some a =>
    let rest := if r.request.isNone ∧ a.selected then (a.todo.drop 1).filter Cmd.isSleep else []
    let a1 : Action := { a with todo := rest, status := if a.status = .ok then st else a.status
                                count := a.count + 1, repeats := 0 }
    (match r.request with
     | some q => s1.finishRequest r1 q a1
     | none => if rest = [] then s1.finishTag r1 a1 else s1.putRun { r1 with action := some a1 })
  | none =>
    match c with
    | .kWalk _ _ => s1.fallback r1
    | _ => s1.reportEnd r1 st false

/-! ### Sending -/

/-- Two 16-bit halves under the same cover. -/
def coverBoth (rn : BitVec 16) : BitVec 32 := BitVec.ofNat 32 (rn.toNat + rn.toNat * 2 ^ 16)

/-- The frame as it goes on the air: the cover of R124 and R215 (notes/assumptions/88.md), RC of R127 and T2, and the action
with what it remembers. A repetition of a frame of a session is the same frame (R129). -/
def State.fillCmd (s : State) (a : Action) (c : Cmd) : Cmd × Action × Nat :=
  let a1 : Action := match a.session with
    | some (n, ks) => if a.repeats = 0 then { a with session := some (n + 1, ks) } else a
    | none => a
  match c with
  | .kPassword _ => (.kPassword (a.key.setWidth 32 ^^^ coverBoth a.rn16), a1, 0)
  | .kAuth1 k _ =>
    let rc := Config.freeWord s.fresh
    (.kAuth1 k rc, { a1 with rc := rc }, 1)
  | .kAuth2 _ => (.kAuth2 (aes (bytesOf 16 a.key.toNat) (join64 a.tc a.rc)), a1, 0)
  | .gAccess _ => (.gAccess (a.key.setWidth 32 ^^^ coverBoth a.rn16), a1, 0)
  | .gOp 1 bank ptr n data => (.gOp 1 bank ptr n (data.map (· ^^^ a.rn16)), a1, 0)
  | .gOp 5 bank ptr n _ =>
    let k := (a.key >>> 32).setWidth 32 ^^^ coverBoth a.rn16
    (.gOp 5 bank ptr n [k.setWidth 16, (k >>> 16).setWidth 16], a1, 0)
  | c => (c, a1, 0)

/-- A Lantern ping. -/
def Cmd.isPing : Cmd → Bool
  | .ping _ => true | _ => false

/-- A bit on the air as a cell. -/
def bitCell (b : Bool) : Cell := if b then .one else .zero

/-- What FRM puts on the air for a command: the cells of a Krovrel frame (R101), and the bits of a Gen2 frame (R215) and of an
HF_FRAME (R313), each with its CRC. -/
def Run.airCells (r : Run) (c : Cmd) : List Cell :=
  let session := r.action.bind fun a => a.session
  let rn := match r.action with
    | some a => a.rn16
    | none => r.walk.rn16
  if c.krovrel then krvFrame session c
  else match c, r.request with
    | .frame, some q => (frameBits q.words).map bitCell
    | c, _ => (gen2Bits r.block rn c).map bitCell

/-- Downlink bit period of an exchange, in fc (R45): a host frame and an APDU have their own rates (R313). -/
def Run.downPeriod (r : Run) (c : Cmd) : Nat :=
  match r.request with
  | some q =>
    if reqType q.words = 0x02 then (bitPeriods (reqProto q.words) (bf q.words 2 51 48) 0).1
    else if reqType q.words = 0x03 then (apduPeriods q.words c).1 else 128
  | none => (bitPeriods r.inner (bf r.block 2 31 28) 0).1

/-- A Query. -/
def Cmd.isQuery : Cmd → Bool
  | .gQuery _ _ _ _ => true | _ => false

/-- The end of a command's frame after the start of the exchange: time zero of R101, in fc, and in ticks on UHF. -/
def Run.zeroOf (r : Run) (c : Cmd) (cells : List Cell) : Nat :=
  if c.krovrel then frameZero (blkCell r.block) cells
  else if !isHfPort r.port then gen2Ticks r.block c.isQuery (cells.map fun x => decide (x = .one))
  else r.downPeriod c * (match c, r.request with
    | .frame, some q => frameDown q.words
    | c, some q => apduDown q.words c
    | c, none => isoBits c)

/-- The exchange of a command that starts now. -/
def State.newExch (s : State) (r : Run) (c : Cmd) (u : Nat) (cells : List Cell) : Exch :=
  { start := s.now, limit := s.now + u, cmd := c, seen := none, verdict := none, zero := r.zeroOf c cells, fed := []
    adapted := []
    wide := Wide.dflt }

/-- Start the exchange: the command goes on the air. -/
def State.send (s : State) (r : Run) (c : Cmd) (u : Nat) : State :=
  let cell := if c.krovrel then blkCell r.block else 0
  match r.action with
  | some a =>
    let f := s.fillCmd a c
    let cells := Run.airCells { r with action := some f.2.1 } f.1
    ((s.skip f.2.2).emit (.air r.port f.1 (s.airDrives r) cell cells)).putRun
      { r with exch := some (s.newExch r f.1 u cells), action := some f.2.1 }
  | none =>
    let w : Walk := { r.walk with next := none, started := true, slotted := match c with
      | .vInventory _ _ b _ => b
      | _ => r.walk.slotted }
    (s.emit (.air r.port c (s.airDrives r) cell (r.airCells c))).putRun
      { r with exch := some (s.newExch r c u (r.airCells c)), walk := w }

/-- The ping of a LANTERN_PING stake: p µs of its block (R47). -/
def Run.pingCmd (r : Run) : Cmd := .ping (bf r.block 2 5 0)

/-- An exchange of a LANTERN_PING stake is one ping of the entry that names its port (R236, R242): the slice shows PING until the
burst ends. -/
def State.pingStart (s : State) (r : Run) : State :=
  let u := blkU r.block
  if !s.up || r.inert.isSome || decide (r.phase ≠ .active) || r.exch.isSome || decide (s.now < r.readyAt) ||
      decide ((s.slice (s.server r.port)).st ≠ .quiet) || decide (r.tailAt < s.now + u) then s
  else
    let s1 := match s.entryOf r.port with
      | none => s
      | some e => s.latchPing e s.now
    ((s1.sliceTo (s.server r.port) .ping).emit (.air r.port r.pingCmd [] 0 [])).putRun
      { r with exch := some (s.newExch r r.pingCmd u []) }

/-- A ping is over: its exchange ends (R236). -/
def State.pingOver (s : State) (r : Run) : State :=
  ((s.traceExch r (some r.pingCmd) .silent .ok).sliceTo (s.server r.port) .quiet).putRun
    { r with exch := none, exchCount := r.exchCount + 1, lastStatus := .ok }

/-- The stake's next exchange would end past its dwell, and a channel change fits before the tail (R197). -/
def State.hopNow (s : State) (r : Run) : Bool :=
  match r.nextCmd with
  | none => false
  | some c => s.maySend r && s.dwellOver r (r.exchTicks c) && decide (s.now + 6000 + r.exchTicks c ≤ r.tailAt)

/-- EXCHANGE_START (R43): the slice starts the next exchange of the stake on a port when t + U fits before the tail. -/
def State.exchangeStart (s : State) (p : Nat) : State :=
  match s.runAt p with
  | none => s
  | some r =>
    if r.inner = 0x0B then s.pingStart r else
    match r.nextCmd with
    | none => s
    | some c =>
      let u := r.exchTicks c
      let auth2 := match c with
        | .kAuth2 _ => true
        | _ => false
      if !s.maySend r ∨ r.tailAt < s.now + u then s
      else if r.frameTooLong c then s.notSent r c .tooLong
      else if c.keyed ∧ !auth2 ∧ s.budgetSpent r.attempts r.budgetKey.1 r.budgetKey.2 then
        (s.budgetRefuse r.budgetKey.1 r.budgetKey.2).notSent r c .lockedOut
      else if s.dwellOver r u then
        (if s.now + 6000 + u ≤ r.tailAt then s.startHop r else s.beginTail r)
      else s.send r c u

/-! ### The reply start -/

/-- The aerial of a reply (R205, R206): the better metric by more than half of div_hyst, else the one of the last reply;
a metric of 0 means the preamble was not detected there. -/
def aerialOf (div hyst : Nat) (last : Bool) (a b : Nat) : Bool :=
  if div = 0 then false
  else if div = 1 then true
  else if b = 0 ∧ a ≠ 0 then false
  else if a = 0 ∧ b ≠ 0 then true
  else if b * 2 + hyst < a * 2 then false
  else if a * 2 + hyst < b * 2 then true
  else last

/-- Detection threshold and collision level of an HF block (R78); a UHF reply is detected by its preamble. -/
def Run.thr (r : Run) : Nat := bf r.block 3 15 11
def Run.col (r : Run) : Nat := bf r.block 3 19 16

/-- First and last reply start that the DN4810 waits for, in the unit of `Component.offset`: the search window of R104, t_w of
R78 or R313, 302 µs × 2^fwi_max for the blocks of an HF_APDU (notes/assumptions/87.md), t1_us of R216. -/
def Run.replyWait (r : Run) (c : Cmd) : Nat × Nat :=
  if c.krovrel then (2016, 2080)
  else if !isHfPort r.port then (0, 40 * bf r.block 3 31 16)
  else match r.request with
    | none => (0, bf r.block 3 47 24)
    | some q =>
      if reqType q.words = 0x02 then (0, bf q.words 3 23 0)
      else (0, apduWait q.words c)

/-- A READ_WIDE. -/
def Cmd.isWide : Cmd → Bool
  | .kReadWide _ _ => true | _ => false

/-- The components of a reply start that the receiver sees (R91, R104, R109, R170, R216). -/
def Run.seenStart (r : Run) (c : Cmd) (o : StartObs) : List Component :=
  let w := r.replyWait c
  let l := o.comps.filter fun k => within w.1 w.2 k.offset
  if isHfPort r.port then seenComps (r.compEnergy c.isWide o.phases) r.thr r.col { o with comps := l } else l

/-- Gain code that the fast AGC of a Wide Reply takes (R171): of 0 dB to 42 dB the one that brings the peak nearest −8 dBFS,
which with steps of 6 dB is the highest that leaves it at −5 dBFS or less, and so at most −2 dBFS. DESIGN CHOICE
(notes/assumptions/111.md): 0 dB where no code meets the rule. -/
def fastGain (peak from_ : Nat) : Nat :=
  match (List.range 8).reverse.find? fun g => decide (peak ^ 20 * 10 ^ (6 * g + 5) ≤ 2048 ^ 20 * 10 ^ (6 * from_)) with
  | some g => g
  | none => 0

/-- The gain of a reply: the AGC's, held from the detection, or fixed for the stake (R90, R171). -/
def Run.gainOf (r : Run) (c : Cmd) (o : StartObs) : BitVec 3 :=
  if bf r.block 3 23 23 ≠ 1 then BitVec.ofNat 3 (bf r.block 3 22 20)
  else if c.isWide then BitVec.ofNat 3 (fastGain o.peak o.gain.toNat)
  else o.gain

/-- What the receiver latches of a reply start whose strongest component is `top` (R90, R104, R108, R206). -/
def State.latch (s : State) (r : Run) (c : Cmd) (o : StartObs) (top : Component) : Latched :=
  let hf := isHfPort r.port
  { offset := top.offset
    offTime := c.krovrel && (r.seenStart c o).any fun k => !within 2044 2052 k.offset
    clear := totalAbove (r.compEnergy c.isWide o.phases) (r.thr + r.fld R.frmKrvCfg F.frmKrvCfg.trustMarginDb) o
    noise := o.noise, phases := o.phases, rssi := o.rssi, gain := if hf then r.gainOf c o else o.gain
    startGain := if hf ∧ bf r.block 3 23 23 ≠ 1 then r.gainOf c o else o.gain
    aerial := !hf && aerialOf (bf r.block 4 31 30) (bf r.block 4 23 16) (s.port r.port).aerial o.metricA.toNat
      o.metricB.toNat
    metricA := o.metricA, metricB := o.metricB }

/-- Show a reply in the status registers of the slices that receive for the stake (R26, R98, R219). -/
def State.showReply (s : State) (r : Run) (o : Latched) : State :=
  if isHfPort r.port then
    s.each (r.rxPorts.map s.server) fun s n =>
      (s.setReg (R.hfaRxStatus n) (Word.put (Word.put 0 F.hfaRxStatus.rssi o.rssi.toNat) F.hfaRxStatus.gain o.gain.toNat)
        ).stamp n
  else
    let i := uhfIdx (s.server r.port)
    let w := Word.put (Word.put (Word.put (Word.put 0 F.uhaRxStatus.rssi o.rssi.toNat) F.uhaRxStatus.aerial
      o.aerial.toNat) F.uhaRxStatus.metricA o.metricA.toNat) F.uhaRxStatus.metricB o.metricB.toNat
    ((s.setReg (R.uhaRxStatus i) w).stamp (s.server r.port)).modPort r.port fun x =>
      { x with aerial := o.aerial }

/-- The end of the wait of an exchange whose reply has started: a UHF reply has t1_us + t_rep_us after the command (R216). -/
def State.replyLimit (s : State) (r : Run) (x : Exch) (l : Latched) : Nat :=
  if isHfPort r.port then x.limit
  else min x.limit (s.now - l.offset + 40 * (bf r.block 3 31 16 + bf r.block 3 47 32))

/-- REPLY_START_DETECTED (R104): a component that is seen, within the wait, once per exchange. -/
def State.replyStart (s : State) (p : Nat) (o : StartObs) : State :=
  match s.runAt p with
  | none => s
  | some r =>
    match r.exch with
    | none => s
    | some x =>
      if x.seen.isSome ∨ x.cmd.isPing = true ∨ s.now < x.start ∨ x.limit < s.now then s
      else match strongest (r.compEnergy x.cmd.isWide o.phases) (r.seenStart x.cmd o) with
        | none => s
        | some top =>
          let l := s.latch r x.cmd o top
          let wide := x.cmd.isWide
          let w : Wide := { x.wide with singleTrain := wide && o.fullScale && decide (bf r.block 3 23 23 = 1) }
          let s1 := if wide then s else s.showReply r l
          s1.putRun { r with nb := s.nbActive r s.now
                             exch := some { x with seen := some l, wide := w, limit := s.replyLimit r x l } }

/-! ### The verdict of the check unit (R244 to R249) -/

/-- The lowest set bit of a claim. -/
def lowestUnit (mask : Nat) : Nat :=
  match (List.range 48).find? fun n => decide (mask / 2 ^ n % 2 = 1) with
  | some n => n
  | none => 0

/-- The unit that checks an exchange of the stake (R249). -/
def Run.unit (r : Run) (wide : Bool) : Nat :=
  let word11 := decide (r.inner = 0x08) ||
    (decide (r.inner = 0x09) && decide (r.block.length = 12) && wideWordOk r.stake r.block)
  if word11 then (if wide then bf r.block 11 48 43 else bf r.block 11 54 49)
  else if uhfTemplate r.inner then bf r.block 4 29 24
  else lowestUnit r.stake.chkMask

/-- The preset of an exchange's protocol (R247); none when the exchange is not checked. -/
def Run.preset (r : Run) (c : Cmd) : Option CrcCfg :=
  if c.unchecked then none
  else
    match r.request with
    | some q =>
      let t := reqType q.words
      if t = 0x01 then some presetKrovrel
      else if t = 0x04 then some presetGen2
      else if t = 0x02 ∧ bf q.words 2 35 35 = 0 then none
      else some (isoPreset (reqProto q.words))
    | none =>
      if krovrelInner r.inner then some presetKrovrel
      else if uhfTemplate r.inner then some presetGen2
      else some (isoPreset r.inner)

/-- A result of a unit in a stake, in one update (R252). -/
def State.chkResult (s : State) (n : Nat) (port result : Nat) (pass empty : Bool) : State :=
  let st := s.reg (R.chkStatus n)
  let w := Word.put (Word.put (Word.put (Word.put st F.chkStatus.results (Word.get st F.chkStatus.results + 1))
    F.chkStatus.port port) F.chkStatus.pass pass.toNat) F.chkStatus.empty empty.toNat
  let s1 := (s.setReg (R.chkResult n) (BitVec.ofNat 64 result)).setReg (R.chkStatus n) w
  if pass then s1 else s1.bump R.chkFailCnt F.chkFailCnt.count

/-- The UID prefix that FRM feeds before an arbitration reply (R112, R248). -/
def prefixBits : Cmd → List Bool
  | .kWalk l v => (List.range l).map fun i => v.getLsbD i
  | _ => []

/-- CHECK_VERDICT: the claimed unit compares its result over the span with the CRC field received; a Wide Reply's when
all its codewords have converged (R179, R248). -/
def State.checkVerdict (s : State) (p : Nat) (span : List Bool) (field : Word) : State :=
  match s.runAt p with
  | none => s
  | some r =>
    match r.exch with
    | none => s
    | some x =>
      if x.seen.isNone ∨ x.verdict.isSome then s
      else
        match x.cmd with
        | .kReadWide _ m =>
          if x.wide.done.length ≠ m ∨ x.wide.done.any (fun d => !d.1) then s
          else
            let b := x.wide.bytes
            let n := 104 * m - 4
            let result := crc32c (b.take n)
            let stored := (b.drop n).foldr (fun y a => y.toNat + 256 * a) 0
            let pass := decide (result = stored)
            (s.chkResult (r.unit true) r.port result pass false).putRun
              { r with exch := some { x with verdict := some pass } }
        | c =>
          match r.preset c with
          | none => s
          | some cfg =>
            let result := crcOf cfg (List.append (prefixBits c) span)
            let pass := !span.isEmpty && decide (result = field.toNat)
            (s.chkResult (r.unit false) r.port result pass (span.isEmpty && (prefixBits c).isEmpty)).putRun
              { r with exch := some { x with verdict := some pass
                                             fed := span ++ (List.range cfg.w).map fun i => field.getLsbD i } }

/-! ### The end of an exchange -/

/-- Where a reply of n bits ended against the length expected; the DN4810 ends it at b_u bits (R110, R132). -/
def lenOf (n want most : Nat) : LenObs := if most < n then .long else if n < want then .short else if want < n then .long else .exact

/-- The half-bits of a reply as the receivers of the stake compare them. -/
def Run.halves (r : Run) (x : Exch) (o : ReplyObs) : List (Nat × Nat) :=
  match x.seen with
  | none => []
  | some l => halfBits (r.energy l.phases) r.thr l.noise o.halves

/-- A Krovrel Narrow Reply as FRM reads it (R106 to R112): its length, its flags, and its fields, each least significant bit
first after the start bit. The reply ends at b_u bits (R132). DESIGN CHOICE (notes/assumptions/106.md): an error reply in a session,
MAC_FAIL among them, has 57 bits with its MAC. DESIGN CHOICE (notes/assumptions/119.md): a start bit that reads 0 without a flag makes
the reply GARBLED. -/
def Run.readKrv (r : Run) (x : Exch) (o : ReplyObs) : ReplyObs :=
  let most := bf r.block 3 63 48
  let all := r.halves x o
  let h := all.take most
  let bits := (h.map halfBit).drop 1
  let fl := flagsOf r.col h
  let o1 : ReplyObs := { o with
    fault := !(h.headD (0, 1)).2 < (h.headD (0, 1)).1, flags := fl.length, flagUid := none, bits := h.length }
  match x.cmd.arb with
  | some k =>
    let uid := List.append (prefixBits x.cmd) (bits.take (64 - k))
    { o1 with len := lenOf all.length (81 - k) most, ident := BitVec.ofNat 128 (bitsVal uid), identLen := 8, identRest := []
              status := 0, data := [], mac := 0, code := 0
              flagUid := match fl.head? with
                | some i => if 1 ≤ i ∧ i ≤ 64 - k then some (k + i - 1) else none
                | none => none }
  | none =>
    let status := bitsVal (bits.take 8)
    let macBits := if r.secured ∨ (krvCells false x.cmd = 156 ∧ status = 0) then 32 else 0
    let want := if status ≠ 0 then (if r.secured then 57 else 25) else krvBits r.secured x.cmd
    let body := bits.drop 8
    let n := body.length - 16 - macBits
    { o1 with len := lenOf all.length want most, ident := 0, identLen := 0, identRest := [], status := BitVec.ofNat 8 status
              data := (List.range ((n + 31) / 32)).map fun i =>
                BitVec.ofNat 32 (bitsVal (((body.take n).drop (32 * i)).take 32))
              mac := BitVec.ofNat 32 (bitsVal ((body.drop n).take macBits)), code := 0 }

/-- A Type A anticollision reply as FRM reads it (R91, R146): the UID and BCC bits after the known ones. -/
def Run.readAnticoll (r : Run) (x : Exch) (known : List Bool) (o : ReplyObs) : ReplyObs :=
  let all := r.halves x o
  let h := all.take (bf r.block 3 63 48)
  let fl := flagsOf r.col h
  let v := bitsVal (List.append known (h.map halfBit))
  { o with len := lenOf (known.length + all.length) 40 (known.length + bf r.block 3 63 48), flags := fl.length
           fault := o.fault || (decide (fl = []) && decide ((bytesOf 5 v).foldl (· ^^^ ·) 0 ≠ 0))
           ident := BitVec.ofNat 128 v, identLen := 4, identRest := [], bits := h.length
           flagUid := match fl.head? with
             | some i => if known.length + i < 32 then some (known.length + i) else none
             | none => none }

/-- The longest reply of an exchange of another protocol on HF (R97, R313), none where it has no bound of its own. -/
def Run.mostBits (r : Run) : Option Nat :=
  if !isHfPort r.port then none
  else match r.request with
    | none => some (bf r.block 3 63 48)
    | some q => if reqType q.words = 0x02 then some (bf q.words 2 15 0) else none

/-- A reply as FRM reads it. -/
def Run.read (r : Run) (x : Exch) (o : ReplyObs) : ReplyObs :=
  match x.cmd with
  | .kReadWide _ _ => o
  | .aAnticoll _ known => r.readAnticoll x known o
  | c =>
    if c.krovrel then r.readKrv x o
    else match r.mostBits with
      | some n => if n < o.bits then { o with len := .long } else o
      | none => o

/-- The verdict on a Krovrel reply: that of the check unit when it was fed the bits the reply has. -/
def Run.judged (r : Run) (x : Exch) (o : ReplyObs) : Option Bool :=
  if x.fed = ((r.halves x o).map halfBit).drop 1 then x.verdict else some false

/-- Class of an exchange that has ended, and the status of a READ_WIDE (R110, R180). -/
def Run.outcome (r : Run) (x : Exch) (o : ReplyObs) : XClass × Status :=
  match x.cmd with
  | .kReadWide addr m => wideOutcome (r.fld R.wrdCfg F.wrdCfg.syncMin) x addr m
  | c =>
    let verdict := if (r.preset c).isNone then some true else if c.krovrel then r.judged x o else x.verdict
    let k := classify x.seen verdict (r.read x o) c.arb
    (k, k.status)

/-- The request's EPC against the one in the reply to ACK (R218). -/
def epcDiffers (q : Request) (c : Cmd) (o : ReplyObs) : Bool :=
  match c with
  | .gAck => !(decide ((reqEpc q.words).1 = o.ident) && decide ((reqEpc q.words).2 = o.identRest) &&
      decide (2 * reqEpcLen q.words = o.identLen))
  | _ => false

/-- After an exchange of a request (R130, R218, R313): the next one, or the REQUEST_DONE. -/
def State.requestStep (s : State) (r : Run) (q : Request) (a : Action) (x : Exch) (k : XClass × Status) (o : ReplyObs) :
    State :=
  let t := actStep r a x k.1 k.2 o false
  let wrong := decide (k.1 = .received) && epcDiffers q x.cmd o
  let a1 : Action := if wrong then { t.act with status := .noTag, todo := [] } else t.act
  let s1 := (s.budgetNote r.budgetKey.1 r.budgetKey.2 t.budget).traceExch r (some x.cmd) k.1
    (if wrong then .noTag else t.status)
  let r1 : Run := { r with lastStatus := if wrong then .noTag else t.status }
  if a1.todo = [] then s1.finishRequest r1 q a1 else s1.putRun { r1 with action := some a1 }

/-- The counted read of R135: a SELECT that ends OK identifies its tag. -/
def State.pairRead (s : State) (r : Run) (a : Action) (x : Exch) : State × Bool :=
  match x.cmd with
  | .kSelect _ =>
    if a.pairSel ∧ a.selected then s.countRead r.pitch r.port { proto := protoOf r.inner, ident := a.ident, len := 8 } r.rssi
    else (s, !a.untracked)
  | _ => (s, !a.untracked)

/-- After an exchange of the action on a tag in an inventory stake (R437, R135). -/
def State.tagStep (s : State) (r : Run) (a : Action) (x : Exch) (k : XClass × Status) (o : ReplyObs) : State :=
  let t := actStep r a x k.1 k.2 o true
  let s1 := (s.budgetNote r.budgetKey.1 r.budgetKey.2 t.budget).traceExch r (some x.cmd) k.1 t.status
  let c := s1.pairRead r t.act x
  let a1 : Action := { t.act with untracked := !c.2 }
  let found := a1.pairSel && a1.selected
  let r1 : Run := { r with lastStatus := t.status, walk := { r.walk with identified := r.walk.identified || found } }
  if a1.todo = [] then c.1.finishTag r1 a1 else c.1.putRun { r1 with action := some a1 }

/-- Three tag-link periods of a UHF block, in ticks (R216). -/
def linkGap (b : List Word) : Nat :=
  let t := trcal (bf b 2 41 41) (bf b 2 39 30)
  if bf b 2 41 41 = 0 then (3 * t + 7) / 8 else (9 * t + 63) / 64

/-- First tick of the next command after an exchange: 128 fc for a change of the group setting (R82), at least 3 Tpri after
a UHF reply (R216), and the guard time that an ATS states (R97). -/
def State.gapAfter (s : State) (r : Run) (x : Exch) (o : ReplyObs) (ended : Nat) : Nat :=
  let guard := match x.cmd with
    | .aRats _ _ => if x.seen.isSome then ended + fcTicks (frameGuard o) else 0
    | _ => 0
  if r.stake.group ∧ 2 ≤ bf r.block 4 63 56 then max (max r.readyAt guard) (s.now + fcTicks 128)
  else if !isHfPort r.port ∧ x.seen.isSome then max r.readyAt (ended + linkGap r.block)
  else max r.readyAt guard

/-- The first flag of a Krovrel reply, whether it is trusted, and how many there are (R108). -/
def Exch.flagsSeen (x : Exch) (o : ReplyObs) : Nat × Bool × Nat :=
  match x.seen with
  | some l => if x.cmd.krovrel ∧ !x.cmd.isWide then (o.flagUid.getD 0, flagTrusted l o x.cmd.arb, o.flags) else (0, false, 0)
  | none => (0, false, 0)

/-- The stake after an exchange: counted, and what its reports say of the last reply, which a silent exchange leaves as it was
(R316). -/
def State.runAfter (s : State) (r : Run) (x : Exch) (o : ReplyObs) : Run :=
  let ended := max x.start (min o.endedAt s.now)
  let r1 : Run := { r with exch := none, exchCount := r.exchCount + 1, readyAt := s.gapAfter r x o ended }
  if x.seen.isNone then r1 else { r1 with lastSeen := x.seen, lastBit := ended, flagged := x.flagsSeen o, nb := s.nbSeen r x }

/-- An exchange is over with a class (R110): counted, traced, and handed to SNG or to the request. -/
def State.closeExch (s : State) (r : Run) (x : Exch) (k : XClass × Status) (o : ReplyObs) : State :=
  let r1 := s.runAfter r x o
  let s0 := if x.cmd.krovrel ∧ k.1 = .skewed then s.bump R.frmKrvSkewCnt F.frmKrvSkewCnt.count else s
  let s1 := (s0.freeDecoder r1).driveSetting r1
  match r.action with
  | some a =>
    (match r.request with
     | some q => s1.requestStep r1 q a x k o
     | none => s1.tagStep r1 a x k o)
  | none => (s1.traceExch r1 (some x.cmd) k.1 k.2).walkEnd { r1 with lastStatus := k.2 } x.cmd k.1 o

/-- The allowance of an exchange whose medium was withdrawn is over: it is cut (R213). -/
def Run.allowanceOver (r : Run) (now : Nat) : Bool := decide (r.inert = some .coexDenied) && decide (r.tailAt < now)

/-- No reply is expected to a command. -/
def Cmd.unanswered : Cmd → Bool
  | .gSelect _ _ _ _ _ _ => true | .gNak => true | .aHlta => true | _ => false

/-- The wait for a reply is over: it is counted in fc on the carrier from time zero (R4, R104, R216). -/
def State.waitOver (s : State) (r : Run) (x : Exch) : Bool :=
  let w := (r.replyWait x.cmd).2
  if isHfPort r.port then decide (1000 * (x.zero + w) ≤ 339 * (s.now - x.start)) else decide (x.start + x.zero + w ≤ s.now)

/-- EXCHANGE_END (R110): the exchange on a port ends before it has lasted U: with its reply, or without one when the wait for it
is over. -/
def State.exchangeEnd (s : State) (p : Nat) (o : ReplyObs) : State :=
  match s.runAt p with
  | none => s
  | some r =>
    match r.exch with
    | none => s
    | some x =>
      if x.limit < s.now ∨ x.cmd.isPing = true ∨ r.allowanceOver s.now = true ∨
          (x.seen.isNone ∧ !x.cmd.unanswered ∧ !s.waitOver r x) then s
      else s.closeExch r x (r.outcome x o) (r.read x o)

/-- Class of an exchange that has lasted U (R43, R110, R180): a reply that is still arriving gives BAD_LENGTH, unless an
earlier row of the table applies; `o` is the reply as FRM has read it so far. -/
def Run.timedOut (r : Run) (x : Exch) (arriving : Bool) (o : ReplyObs) : XClass × Status :=
  match x.cmd with
  | .kReadWide addr m =>
    let least := r.fld R.wrdCfg F.wrdCfg.syncMin
    let lost := x.wide.syncDone && decide (least ≠ 0) && decide (256 * x.wide.rho < least)
    let off := match x.seen with
      | some l => l.offTime
      | none => true
    if arriving ∧ off = false ∧ lost = false ∧ (x.wide.done.all fun d => d.1) = true then (.shortLong, .badLength)
    else wideOutcome least x addr m
  | c =>
    let k := classify x.seen none o c.arb
    (k, k.status)

/-- EXCHANGE_TIMEOUT (R43): an exchange that has lasted U ticks ends. -/
def State.exchangeTimeout (s : State) (p : Nat) (o : LateObs) : State :=
  match s.runAt p with
  | none => s
  | some r =>
    match r.exch with
    | none => s
    | some x =>
      if s.now < x.limit ∨ r.allowanceOver s.now = true then s
      else if x.cmd.isPing then s.pingOver r
      else
        let read : ReplyObs := { r.read x o.reply with len := .long }
        s.closeExch r x (r.timedOut x o.arriving read) read

/-- BUDGET_ENTRY_EXPIRED (R126): the entry clears window_s seconds of site time after it opened. -/
def State.budgetExpire (s : State) (q : Nat) (id : BitVec 128) : State :=
  match s.budgetEntry q id with
  | none => s
  | some e =>
    if e.openedAt + sTicks (max 60 (s.cfg R.secKrvBudget F.secKrvBudget.windowS)) ≤ s.now then s.budgetClear q id else s

/-- The medium was withdrawn, and the exchange that could complete is over (R213). -/
def Run.mediumOver (r : Run) : Bool :=
  decide (r.inert = some .coexDenied) && decide (r.phase = .active) && r.exch.isNone

/-- A stake gives COEX_DENIED: counted (R214). -/
def State.countDenied (s : State) : State := s.bumpSat R.cxpStatus F.cxpStatus.denied 1

/-- STAKE_TAIL_START (R42): at S + D − T; after a withdrawn grant or lane, when the exchange that could complete is over,
or its allowance (R213, R380). -/
def State.tailStart (s : State) (p : Nat) : State :=
  match s.runAt p with
  | none => s
  | some r =>
    if r.phase = .tail then s
    else if r.mediumOver then s.beginTail r
    else if s.now < r.tailAt then s
    else if r.inert = some .coexDenied ∧ r.exch.isSome then s.countDenied.beginTail r
    else s.beginTail r

/-! ### The commands -/

def execExchangeStart (port : Nat) (s : State) : Host.Outcome State Fault Refusal :=
  if isPort port then .next (s.exchangeStart port) else .fault .noSuchResource

def execReplyStartDetected (port : Nat) (obs : StartObs) (s : State) : Host.Outcome State Fault Refusal :=
  if isPort port then .next (s.replyStart port obs) else .fault .noSuchResource

def execCheckVerdict (port : Nat) (span : List Bool) (field : Word) (s : State) : Host.Outcome State Fault Refusal :=
  if isPort port then .next (s.checkVerdict port span field) else .fault .noSuchResource

def execExchangeEnd (port : Nat) (r : ReplyObs) (s : State) : Host.Outcome State Fault Refusal :=
  if isPort port then .next (s.exchangeEnd port r) else .fault .noSuchResource

def execExchangeTimeout (port : Nat) (o : LateObs) (s : State) : Host.Outcome State Fault Refusal :=
  if isPort port then .next (s.exchangeTimeout port o) else .fault .noSuchResource

def execBudgetEntryExpired (pitch : Nat) (uid : BitVec 128) (s : State) : Host.Outcome State Fault Refusal :=
  if pitch ≤ 8 then .next (s.budgetExpire pitch uid) else .fault .noSuchResource

def execStakeTailStart (port : Nat) (s : State) : Host.Outcome State Fault Refusal :=
  if isSlice port then .next (s.tailStart port) else .fault .noSuchResource

end Sys2Proof.Machine
end

