-- ==== Sys2Proof/Machine/Medium.lean ====
section
/-! DEFINITION. Who may use the medium: the coexistence wires of CXP (R39, R211 to R214) and the Guyline lanes of ports
(R378 to R380), and what a stake does when the medium is withdrawn (R213). -/

namespace Sys2Proof.Machine

/-! ### Coexistence (R211 to R214) -/

/-- Mode of CXP: 0 OFF, 1 REQUESTER, 2 ARBITER; 3 acts as OFF (R211). -/
def State.cxpMode (s : State) : Nat := if s.cfg R.cxpCfg F.cxpCfg.mode = 3 then 0 else s.cfg R.cxpCfg F.cxpCfg.mode

/-- The mode that a running stake goes by (R25). -/
def Run.cxpMode (r : Run) : Nat := if r.fld R.cxpCfg F.cxpCfg.mode = 3 then 0 else r.fld R.cxpCfg F.cxpCfg.mode

/-- A bit of the class of a running stake, as it had it at S (R25); class 0 has none. -/
def Run.classBit (r : Run) (f : Fld) : Bool :=
  decide (1 ≤ r.stake.coexClass) && r.bit (R.cxpClass (r.stake.coexClass - 1)) f

/-- A bit of the class of a stake that does not run yet; class 0 has none. -/
def State.classBit (s : State) (k : Stake) (f : Fld) : Bool :=
  decide (1 ≤ k.coexClass) && s.cfgBit (R.cxpClass (k.coexClass - 1)) f

/-- Stake i of the active plan. -/
def State.planStake (s : State) (i : Nat) : Stake := s.stakeAt s.activeBank i

/-- First tick after the current cycle. -/
def State.cycleEnd (s : State) : Nat :=
  s.fld R.schCycleStart F.schCycleStart.start + s.fld R.schCycleTicks F.schCycleTicks.ticks

/-- Tick at which the lead interval of a stake of the plan begins (R39, R212): before its S in this cycle, or in the next one
when it has run in this. -/
def State.leadAt (s : State) (k : Stake) : Nat :=
  (if s.sch.next ≤ k.idx then s.fld R.schCycleStart F.schCycleStart.start else s.cycleEnd) + k.start - k.lead

/-- The pending plan becomes active at the end of this cycle (R65). -/
def State.swapsNext (s : State) : Bool :=
  match s.sch.swapAt with
  | none => false
  | some t => decide (t ≤ s.cycleEnd)

/-- The lead interval of a stake is served: one that reaches back across the cycle start is not served across a swap or a
stop (R212). -/
def State.leadServed (s : State) (k : Stake) : Bool :=
  decide (s.sch.next ≤ k.idx) || (decide (k.start < k.lead) && !s.swapsNext && s.bit R.schCtrl F.schCtrl.run &&
    s.boot.entering.isNone)

/-- A stake without a field to lower: it has raised none, or its template listens or pings (R39, R47, R212). -/
def Run.rampless (r : Run) : Bool :=
  match r.phase with
  | .front => false
  | .active => false
  | .tail => decide (r.inner = 0x0A) || decide (r.inner = 0x0B) || decide (r.inner = 0x12)
  | _ => true

/-- A running stake still has the medium: until its down-ramp ends, or until S + D when it has none (R212). -/
def State.onMedium (s : State) (r : Run) : Bool :=
  if r.rampless then decide (s.now < r.start + r.stake.dur)
  else decide (r.phase ≠ .tail) || (s.slicesOf r).any fun n => (s.slice n).st.hot

/-- The stakes in their lead interval, and the running ones that have the medium, with a class (R212). -/
def State.leads (s : State) : List Stake := (s.cxp.lead.map s.planStake).filter fun k => decide (1 ≤ k.coexClass)
def State.onAir (s : State) : List Run := s.runs.filter fun r => decide (1 ≤ r.stake.coexClass) && s.onMedium r

/-- CXP_STATUS.wires shows the levels. -/
def State.showWires (s : State) : State :=
  s.setFld R.cxpStatus F.cxpStatus.wires (s.cxp.req.toNat + 2 * s.cxp.pri.toNat + 4 * s.cxp.gnt.toNat)

/-- The protect stakes in their lead interval or active (R40, R214). -/
def State.protecting (s : State) : List Stake :=
  (s.leads.filter fun k => s.classBit k F.cxpClass.protect) ++
    ((s.runs.filter fun r => r.classBit F.cxpClass.protect).map (·.stake))

/-- The lead interval of a protect stake begins in this tick: a request that rises in it waits (R214). -/
def State.protectDue (s : State) : Bool :=
  s.running && s.planStakes.any fun k => s.classBit k F.cxpClass.protect && decide (k.idx ∉ s.cxp.lead) &&
    s.leadServed k && decide (s.leadAt k = s.now)

/-- The stake has the grant, or needs none (R25, R212, R214). -/
def State.granted (s : State) (r : Run) : Bool :=
  if r.stake.coexClass = 0 then true
  else if r.cxpMode = 1 then s.cxp.gnt
  else if r.cxpMode = 2 then !(s.cxp.gnt && r.classBit F.cxpClass.yield)
  else true

/-! ### Lanes (R378 to R380) -/

/-- GUY_PORT_LANE byte of a port: register and byte. -/
def laneSlot (p : Nat) : Nat × Nat := if p < 64 then (p / 8, p % 8) else (4 + (p - 64) / 8, p % 8)

/-- The byte of a port in GUY_PORT_LANE, and the lane that such a byte binds it to. -/
def laneFld (p : Nat) : Fld := (8 * (laneSlot p).2 + 7, 8 * (laneSlot p).2)
def laneIn (b : Nat) : Option Nat := if 128 ≤ b then some (b % 64) else none

/-- The lane a port is bound to, for a stake that starts and for one that runs (R25). -/
def State.laneOf (s : State) (p : Nat) : Option Nat := laneIn (s.cfg (R.guyPortLane (laneSlot p).1) (laneFld p))
def Run.laneOf (r : Run) (p : Nat) : Option Nat := laneIn (r.fld (R.guyPortLane (laneSlot p).1) (laneFld p))

/-- The templates that obey the lane of their port (R380). -/
def obeysLane (t : Nat) : Bool :=
  decide (t ∈ ([0x01, 0x02, 0x03, 0x04, 0x05, 0x08, 0x09, 0x10, 0x11, 0x30] : List Nat))

/-- Every lane that binds a port of the stake is held. -/
def State.laneOk (s : State) (k : Stake) : Bool :=
  !obeysLane k.template || k.ports.all fun p => match s.laneOf p with
    | none => true
    | some l => (s.reg R.guyLaneHeld).getLsbD l

/-! ### The medium is withdrawn (R213, R380) -/

/-- A stake whose template is an inventory, or whose inner one is (R436). -/
def Run.inventory (r : Run) : Bool := innerAllows r.inner r.port

/-- The report of a stake that performs no radio action (notes/assumptions/22.md). -/
def State.inertReport (s : State) (r : Run) (st : Status) : State :=
  if r.inventory then s.tagReport r (TagInfo.bare st 0) else s

/-- The grant or the lane of a running stake is withdrawn: an exchange has `finish` µs to complete, this tick included, the stake enters its
tail, and before the end of the front it gives COEX_DENIED. A field held past the tail ends there (R380). -/
def State.mediumLost (s : State) (r : Run) (finish : Nat) : State :=
  if r.phase = .tail then
    (if (s.port r.port).hold.isSome then
      (s.each r.stake.ports fun s p => s.modPort p fun x => { x with hold := none }).lowerField r r.rampTicks
     else s)
  else if r.inert.isSome then s
  else
    let r1 : Run := { r with inert := some .coexDenied }
    if r.exch.isSome then s.putRun { r1 with tailAt := min r.tailAt (s.now + usTicks finish) }
    else if r.phase = .active then (s.putRun r1).beginTail r1
    else
      let r2 : Run := { r1 with lastStatus := .coexDenied }
      let s1 := (s.putRun r2).countDenied
      (if r.template = 0x30 ∧ r.phase ≠ .front then s1 else s1.inertReport r2 .coexDenied).beginTail r2

/-- CXP takes the medium from running stakes: an exchange may end within finish_us (R25, R213). -/
def State.takeMedium (s : State) (l : List Run) : State :=
  s.each l fun s r =>
    match s.runAt r.port with
    | none => s
    | some x => s.mediumLost x (x.fld R.cxpCfg F.cxpCfg.finishUs)

/-- A grant given takes the medium from the stakes of yield classes (R214). -/
def State.yieldAll (s : State) : State :=
  s.takeMedium (s.onAir.filter fun r => r.classBit F.cxpClass.yield && decide (r.cxpMode = 2))

/-- Count the protect intervals that CX_PRI has overridden, each once (R214, R220). -/
def State.countOverridden (s : State) : State :=
  let l := s.protecting.map (·.idx)
  let new := if s.cxp.gnt ∧ s.cxp.pri then l.filter fun i => decide (i ∉ s.cxp.overridden) else []
  (s.bumpSat R.cxpStatus F.cxpStatus.overridden new.length).setCxp
    { s.cxp with overridden := (s.cxp.overridden.filter fun i => decide (i ∈ l)) ++ new }

/-- Drive the outputs of CXP from the stakes and the other radio's wires (R211, R212, R214). Until step 7 of a reset sequence the
balls hold their state (R356). -/
def State.driveCxp (s : State) : State :=
  if s.bootBalls.isSome then s.showWires
  else if s.cxpMode = 1 then
    (s.setCxp { s.cxp with
      req := !s.leads.isEmpty || !s.onAir.isEmpty
      pri := (s.leads.any fun k => s.classBit k F.cxpClass.pri) || s.onAir.any fun r => r.classBit F.cxpClass.pri }).showWires
  else if s.cxpMode = 2 then
    if !s.cxp.req then (s.setCxp { s.cxp with gnt := false, waiting := false }).showWires.countOverridden
    else if s.cxp.gnt then s.showWires.countOverridden
    else if s.cxp.pri = true ∨ (s.protecting.isEmpty && !s.protectDue) = true then
      (s.setCxp { s.cxp with gnt := true, waiting := false }).showWires.countOverridden.yieldAll
    else (s.setCxp { s.cxp with waiting := true }).showWires.countOverridden
  else (s.setCxp { s.cxp with req := false, pri := false }).showWires

/-- The wires follow a stake without a down-ramp whose S + D has come, also while the field it would have held extends it
(R212). -/
def State.cxTick (s : State) : State :=
  if s.runs.any fun r => r.rampless && decide (s.now = r.start + r.stake.dur) then s.driveCxp else s

/-- A protect interval begins: the grant falls, unless CX_PRI overrides it (R214). -/
def State.protectStart (s : State) (k : Stake) : State :=
  if s.cxpMode = 2 ∧ s.classBit k F.cxpClass.protect = true ∧ s.cxp.gnt = true ∧ s.cxp.pri = false then
    (s.setCxp { s.cxp with gnt := false, waiting := s.cxp.req }).showWires
  else s

end Sys2Proof.Machine
end

