-- ==== Sys2Proof/Machine/Cover.lean ====
section
/-! DEFINITION. What HLT keeps of the spares (R324 to R334): the rotation and the cover of each kind, the seams of a port
(R53), a slice that fails (R329 to R333), the measured settling terms and the reserve of the plan (R55, R343), and the
logbook records that wait to be written (R345, R367). -/

namespace Sys2Proof.Machine

/-! ### Logbook records waiting (R345) -/

/-- A record for the logbook; types 0x42 and 0x43 at most once per 60 s, the newest one deferred. -/
def State.logRec (s : State) (type : BitVec 8) (payload : List Word) : State :=
  let rec_ : LogRec := { type := type, payload := payload, tries := 0 }
  let limited := decide (type = 0x42) || decide (type = 0x43)
  let soon : Bool := match SMap.find s.hlt.lastLog type.toNat with
    | none => false
    | some t => decide (s.now < t + sTicks 60)
  if limited && soon then
    let rest := s.hlt.deferred.filter fun x => decide (x.type ≠ type)
    s.setHlt { s.hlt with deferred := rest ++ [rec_] }
  else
    let log := if limited then SMap.ins type.toNat s.now s.hlt.lastLog else s.hlt.lastLog
    s.setHlt { s.hlt with logQueue := s.hlt.logQueue ++ [rec_], lastLog := log }

/-! ### Rotors -/

def State.rotor (s : State) (k : Kind) : Rotor := match k with
  | .hf => s.hlt.hf
  | .uhf => s.hlt.uhf

def State.setRotor (s : State) (k : Kind) (x : Rotor) : State := match k with
  | .hf => s.setHlt { s.hlt with hf := x }
  | .uhf => s.setHlt { s.hlt with uhf := x }

/-- Index of HLT_SPARE and of a kind's slices. -/
def kindIdx : Kind → Nat
  | .hf => 0
  | .uhf => 1

/-- The slices of a kind in rotation order, the spare last (R324). -/
def kindSlices : Kind → List Nat
  | .hf => List.range 33
  | .uhf => (List.range 17).map (· + 64)

/-- HLT_SPARE of the kind. -/
def State.spareReg (s : State) (k : Kind) (f : Fld) : Nat := s.fld (R.hltSpare (kindIdx k)) f
def State.setSpare (s : State) (k : Kind) (f : Fld) (v : Nat) : State := s.setFld (R.hltSpare (kindIdx k)) f v

/-- The port that the spare covers, and why: 0 free, 1 rotation, 2 failure cover, 3 spare failed (R346). -/
def State.coveredPort (s : State) (k : Kind) : Option Nat :=
  if s.spareReg k F.hltSpare.port = 0xFF then none else some (s.spareReg k F.hltSpare.port)
def State.spareReason (s : State) (k : Kind) : Nat := s.spareReg k F.hltSpare.reason

/-- The spare takes a port, or is free again. -/
def State.showSpare (s : State) (k : Kind) (port reason : Nat) : State :=
  (s.setSpare k F.hltSpare.port port).setSpare k F.hltSpare.reason reason

def State.setWaiting (s : State) (k : Kind) (l : List Nat) : State :=
  (s.setRotor k { s.rotor k with waiting := l }).setSpare k F.hltSpare.waiting l.length

/-- A slice stands on its calibration load: CAL, which the port switch matrix takes `wait` ticks for; a UHF slice that an RF
inhibit keeps in OFF stays there until the inhibit is over (R27, R71, R72, R188, R325). -/
def State.toLoad (s : State) (n wait : Nat) : State :=
  let s1 := s.sliceShow n 1
  if !isHf n ∧ s.inhibited then s1
  else if wait = 0 then s1.sliceTo n (calState n)
  else s1.modSlice n fun x => { x with path := [calState n], due := s.now + wait }

/-- A slice leaves its load: to rest (R71, R72), in service again or, a spare, free. A UHF slice that an RF inhibit keeps in OFF stays
there (R188). -/
def State.offLoad (s : State) (k : Kind) (n : Nat) : State :=
  if (s.slice n).failed then s
  else (if ((s.slice n).st = calState n ∨ (s.slice n).path = [calState n]) ∧ (isHf n ∨ !s.inhibited) then s.sendFrom n 0 s.now false [sliceRest n]
    else s).sliceShow n (if n = spareOf k then 3 else 0)

/-! ### Seams (R53) -/

/-- The gap between spans that holds an offset, as its start and end in absolute ticks. -/
def gapAt (c0 cycle t : Nat) (spans : List (Nat × Nat)) : Option (Nat × Nat) :=
  if spans.any fun x => decide (x.1 ≤ t) && decide (t < x.2) then none
  else
    let before := (spans.filter fun x => decide (x.2 ≤ t)).map (·.2)
    let after := (spans.filter fun x => decide (t < x.1)).map (·.1)
    let a := if before.isEmpty then c0 + (spans.map (·.2)).foldl max 0 - cycle else c0 + before.foldl max 0
    let b := match after.min? with
      | some x => c0 + x
      | none => c0 + cycle + ((spans.map (·.1)).min?).getD cycle
    some (a, b)

/-- The seam of a port that runs now. While no plan runs, every tick is one. -/
def State.seamNow (s : State) (p : Nat) : Option (Nat × Nat) :=
  if s.running then
    let c0 := s.fld R.schCycleStart F.schCycleStart.start
    gapAt c0 (s.planCycle s.activeBank) (s.now - c0) (spansOf s.planStakes p)
  else some (s.sch.lastBoundary, s.now + sTicks 1)

/-- A qualifying seam of a port that began at or after a tick and leaves room for a transfer (R325, R326). -/
def State.qualifies (s : State) (p since : Nat) : Bool :=
  match s.seamNow p with
  | none => false
  | some (a, b) => decide (max s.seamMin 240 ≤ b - a) && decide (s.now + 240 ≤ b) && decide (since ≤ a)

/-- The active plan holds stakes on a port, and CAL_SLICE stakes of a kind. -/
def State.planHasPort (s : State) (p : Nat) : Bool := s.planStakes.any fun k => decide (p ∈ k.ports)
def State.planHasCal (s : State) (k : Kind) : Bool :=
  s.planStakes.any fun x => decide (x.template = 0x20) && decide (x.port = spareOf k)

/-! ### Ports out of service, and failures (R29, R330 to R333) -/

/-- A port goes out of service (R29): PORT_OUT. -/
def State.portOut (s : State) (p : Nat) : State :=
  if (s.port p).out then s
  else (s.modPort p fun x => { x with out := true }).health p .ok 0x0104 0 []

/-- A port returns to service: PORT_BACK. -/
def State.portBack (s : State) (p : Nat) : State :=
  if (s.port p).out then (s.modPort p fun x => { x with out := false }).health p .ok 0x0105 0 [] else s

/-- A rotation ends early: its port returns at the next qualifying seam that begins from now on, with the slice's
previous corrections, a handover that is under way being completed first (R331, R333, R334). -/
def State.endRotation (s : State) (k : Kind) : State :=
  let x := s.rotor k
  match x.rot with
  | none => s
  | some r =>
    let moving : Bool := match x.xfer with
      | some t => decide (t.port = r.slice)
      | none => false
    if s.coveredPort k = some r.slice ∨ moving then
      s.setRotor k { x with rot := some { r with calibrated := true, calAt := some s.now } }
    else (if r.handed ∨ r.slice = spareOf k then s.offLoad k r.slice else s).setRotor k { x with rot := none }

/-! ### Checkpoint slots (R323, R327, R328) -/

/-- First byte of slot A (2·port) or B (2·port + 1) of a port in the internal area (notes/assumptions/99.md). -/
def ckAddr (i : Nat) : Nat := 0x01000000 + 256 * (i % 256)

def State.ckSlot (s : State) (i : Nat) : Slot := { words := s.words (ckAddr i) 32 }
def State.ckGen (s : State) (p : Nat) : BitVec 32 := SMap.look 0 s.hlt.gens p

/-- Generation of a slot, and whether its commit word matches. -/
def Slot.gen (x : Slot) : Nat := Word.get (x.words.getD 31 0) (63, 32)
def Slot.valid (x : Slot) : Bool :=
  decide (x.words.length = 32) && decide (Word.get (x.words.getD 31 0) (31, 0) = crc32cWords (x.words.take 31))

/-- A slot is valid: its commit word matches, and no word of it is uncorrectable. -/
def State.ckValid (s : State) (i : Nat) : Bool := (s.ckSlot i).valid && !s.anyUe (ckAddr i) 32

/-- The words of a slot for a live state, a site time and a generation. -/
def slotWords (live : List Word) (time gen : Nat) : List Word :=
  let body : List Word := List.append ((List.range 30).map fun i => live.getD i 0) [BitVec.ofNat 64 time]
  List.append body [word2 gen (crc32cWords body)]

def State.putCkSlot (s : State) (i : Nat) (ws : List Word) : State := s.setWords (ckAddr i) ws

/-- The slot of a port that its next checkpoint overwrites: the one that is not of its last generation. -/
def State.olderSlot (s : State) (p : Nat) : Nat :=
  if (s.ckSlot (2 * p)).gen = (s.ckGen p).toNat then 2 * p + 1 else 2 * p

/-- The port's live state goes into its older slot, under its next generation. -/
def State.saveSlot (s : State) (p time : Nat) (live : List Word) : State :=
  let g := s.ckGen p
  let s1 := s.putCkSlot (s.olderSlot p) (slotWords live time (g + 1).toNat)
  s1.setHlt { s1.hlt with gens := SMap.put 0 s1.hlt.gens p (g + 1) }

/-- A write of the older slot stops part way: its words are free, and its old commit word no longer matches them. -/
def State.breakSlot (s : State) (p : Nat) : State :=
  let i := s.olderSlot p
  let body : List Word := (List.range 31).map fun k => Config.freeWord (s.fresh + k)
  (s.skip 31).putCkSlot i (List.append body [word2 (s.ckSlot i).gen (2 ^ 32 - 1 - crc32cWords body)])

/-- The valid slot with the higher generation (R278). -/
def State.bestSlot (s : State) (p : Nat) : Option Slot :=
  let a := s.ckSlot (2 * p)
  let b := s.ckSlot (2 * p + 1)
  if s.ckValid (2 * p) ∧ s.ckValid (2 * p + 1) then
    (if (BitVec.ofNat 32 a.gen - BitVec.ofNat 32 b.gen).toNat < 2 ^ 31 then some a else some b)
  else if s.ckValid (2 * p) then some a
  else if s.ckValid (2 * p + 1) then some b
  else none

/-- HFA_HEAD_STATUS or UHA_HEAD_STATUS of a port. -/
def headReg (p : Nat) : Nat := if isHfPort p then R.hfaHeadStatus p else R.uhaHeadStatus (uhfIdx p)
def headFld (p : Nat) (hf uhf : Fld) : Fld := if isHfPort p then hf else uhf

/-- The live state of a port (R323): the head measurement and the last aerial stand in State, and `live` brings what the slice
holds beside them. Words 0 and 1 are theirs (notes/assumptions/99.md). -/
def State.liveWords (s : State) (p : Nat) (live : List Word) : List Word :=
  (List.range 30).map fun i =>
    if i = 0 then s.reg (headReg p)
    else if i = 1 then Word.put (live.getD 1 0) (0, 0) (s.port p).aerial.toNat
    else live.getD i 0

/-- The last head measurement of a live state is the port's again. -/
def State.headBack (s : State) (p : Nat) (w : Word) : State :=
  [F.hfaHeadStatus.zMag, F.hfaHeadStatus.zPhase, F.hfaHeadStatus.cls].foldl
    (fun s f => s.setFld (headReg p) f (Word.get w f)) s

/-- A transfer is given up: its slot is written by 80 ticks, with what the outgoing slice held, and one whose write stops part way
is no valid slot (R327, R328). -/
def State.dropXfer (s : State) (k : Kind) : State :=
  match (s.rotor k).xfer with
  | none => s
  | some t =>
    let u := t.fellAt.getD s.now
    let free : List Word := (List.range 30).map fun i => Config.freeWord (s.fresh + i)
    let s1 := if t.start + 80 < u then (s.skip 30).saveSlot t.port t.start (s.liveWords t.port free)
      else if t.start + 40 ≤ u then s.breakSlot t.port
      else s
    s1.setRotor k { s1.rotor k with xfer := none }

/-! ### Failures (R30, R31, R330 to R333) -/

/-- The spare of a kind has failed (R333): what it covered returns or goes out of service, and no failure is covered. -/
def State.spareLost (s : State) (k : Kind) : State :=
  let x := s.rotor k
  let s1 := s.setRotor k { x with spareFailed := true }
  let s2 := match s.coveredPort k, x.xfer with
    | some p, none => if s.spareReason k = 2 then (s1.portOut p).showSpare k p 3 else (s1.endRotation k).showSpare k p 3
    | some p, some t =>
      -- R329: it fails within a return; in step 3 the return is given up, and the port is out of service until its next seam
      if t.start + 80 < s.now ∧ s.now ≤ t.start + 140 then (((s1.dropXfer k).endRotation k).portOut p).showSpare k p 3
      else (s1.setRotor k { s1.rotor k with xfer := some { t with fellAt := some s.now } }).showSpare k p 3
    | none, some t =>
      -- R329: it fails as the incoming slice of a handover; until step 4 the port keeps its own
      if t.start + 140 < s.now then s1.showSpare k 0xFF 3
      else
        let s3 := ((s1.dropXfer k).endRotation k).showSpare k 0xFF 3
        if t.cover then s3.portOut t.port else s3
    | none, none => (s1.endRotation k).showSpare k 0xFF 3
  (x.waiting.foldl (fun s p => s.portOut p) s2).setWaiting k []

/-- A failed port takes its place among those that wait: after the ones of earlier ticks, in identifier order among those of its
own (R331). -/
def State.waitIn (s : State) (p : Nat) : List Nat → List Nat
  | [] => [p]
  | q :: l => if (s.slice q).failedAt = s.now ∧ p < q then p :: q :: l else q :: State.waitIn s p l

/-- The slice of a port has failed while the port was its own (R29, R331): the port waits for the spare, and is out of service
when the spare covers another port, is being handed over, or has failed (notes/assumptions/38.md). -/
def State.portFailed (s : State) (k : Kind) (p : Nat) : State :=
  let x := s.rotor k
  let taken := x.spareFailed || (s.coveredPort k).isSome || x.xfer.isSome || !x.waiting.isEmpty
  let s1 := if x.spareFailed then s else (s.setWaiting k (s.waitIn p x.waiting)).endRotation k
  if taken then s1.portOut p else s1

/-- The own slice of a port that the spare covers has failed, on its load or in a return that is given up: the spare keeps the
port as a failure cover (R329, R337). -/
def State.keepCover (s : State) (k : Kind) (n : Nat) : State :=
  let s1 := s.dropXfer k
  let s2 := s1.setRotor k { s1.rotor k with rot := none }
  if s.spareReason k = 1 then (s2.showSpare k n 2).health n .ok 0x0102 (spareOf k) []
  else if (s.rotor k).spareFailed then s2.portOut n
  else s1

/-- A slice fails with a cause of R330. -/
def State.failSlice (s : State) (n cause : Nat) (vals : List Word) : State :=
  if (s.slice n).failed then s
  else
    let k := kindOf n
    let served := s.slice n
    let s1 := ((s.setSlice n { served with failed := true, failedAt := s.now }).setFld (R.hltSliceStatus n) F.hltSliceStatus.cause cause
      ).sliceShow n 2
    let s2 := (s1.health n .sliceSuspect 0x0101 cause []).logRec 0x40 (BitVec.ofNat 64 n :: BitVec.ofNat 64 cause :: vals)
    let port : Option Nat := if n = spareOf k then s.coveredPort k else if s.server n = n then some n else none
    let s3 := match port with
      | none => s2
      | some p => match s2.runAt p with
        | none => s2
        | some r => s2.stopRadio r .sliceSuspect
    let s4 := s3.darkSlice n
    if n = spareOf k then s4.spareLost k
    else if (s.port n).covered then
      -- from step 4 of a return on the port is its own again, and fails with it when the return completes
      (match (s4.rotor k).xfer with
       | some t => if t.start + 140 < s.now then s4 else s4.keepCover k n
       | none => s4.keepCover k n)
    else match (s4.rotor k).xfer with
      | some t => if t.port = n ∧ t.toSpare then
          -- R329: a handover becomes a failure cover
          s4.setRotor k { s4.rotor k with xfer := some { t with cover := true, fellAt := some s.now }, rot := none }
        else s4.portFailed k n
      | none => s4.portFailed k n

/-! ### Settling terms and the reserve (R55, R343) -/

/-- Nominal settling terms of a kind (R44, R72, R189), in the order of R346. -/
def nominalTerms : Kind → List Nat
  | .hf => [800, 200, 400]
  | .uhf => [3800, 400, 1200, 800, 6000, 200]

/-- What derating adds to term i of a slice (R342). -/
def State.termDerate (s : State) (n i : Nat) : Nat :=
  if isHf n then (if i = 0 then 200 * s.derate n else 0) else (if i = 3 then 400 * s.derate n else 0)

/-- Term i in HLT_TERMSn. -/
def termReg (n i : Nat) : Nat := if i < 4 then R.hltTermsA n else R.hltTermsB n
def termFld (i : Nat) : Fld := (16 * (i % 4) + 15, 16 * (i % 4))

/-- Length of a term that the last agreeing calibration of a slice gave, 0 when none has (R343). -/
def State.ownTerm (s : State) (n i : Nat) : Nat := (s.slice n).terms.getD i 0

/-- What a slice gives for a term: measured, or nominal, each with its derate addition (R343). -/
def State.sliceTerm (s : State) (n i : Nat) : Nat :=
  if s.ownTerm n i = 0 then (nominalTerms (kindOf n)).getD i 0 + s.termDerate n i else s.ownTerm n i

/-- Measured length of a term of a port: the larger of its own slice's and the spare's. -/
def State.portTerm (s : State) (p i : Nat) : Nat := max (s.sliceTerm p i) (s.sliceTerm (spareOf (kindOf p)) i)

/-- HLT_TERMSn shows the measured length of a term: 0 while neither the slice nor the spare of its kind has given one (R343). -/
def State.showTerm (s : State) (n i : Nat) : State :=
  s.setFld (termReg n i) (termFld i)
    (if s.ownTerm n i = 0 ∧ s.ownTerm (spareOf (kindOf n)) i = 0 then 0 else min 0xFFFF (s.portTerm n i))

/-- The terms of a slice have changed: those of a spare show at every port of its kind (R343). -/
def State.showTerms (s : State) (n : Nat) : State :=
  s.each (if n = spareOf (kindOf n) then kindSlices (kindOf n) else [n]) fun s m =>
    s.each (List.range (nominalTerms (kindOf n)).length) fun s i => s.showTerm m i

/-- The settling terms of a template (R44). DESIGN CHOICE (notes/assumptions/72.md): the term of a channel change, which R44's
formulas do not hold, does not count in E. -/
def templateTerms (t : Nat) (group : Bool) : List Nat :=
  let own : List Nat :=
    if t = 0x0A then [1]
    else if hfTemplate t then [0]
    else if t = 0x10 ∨ t = 0x11 then [0, 2, 3, 5]
    else if t = 0x12 then [0, 1, 5]
    else []
  if group then List.append own [2] else own

/-- Excess E of a stake's port for its template (R55). DESIGN CHOICE (notes/assumptions/73.md): of a GROUP stake, the terms of
port 4k alone. -/
def State.excess (s : State) (k : Stake) : Nat :=
  let t := innerOf k.template (s.blockOf s.activeBank k)
  ((templateTerms t k.group).map fun i => s.portTerm k.port i - (nominalTerms (kindOf k.port)).getD i 0).sum

/-- Reserve g − E of every stake, in index order. -/
def State.reserves (s : State) : List (Int × Stake) :=
  s.planStakes.map fun k => ((k.guard : Int) - (s.excess k : Int), k)

/-- The lowest reserve, the first stake that has it. -/
def lowestReserve : List (Int × Stake) → Option (Int × Stake)
  | [] => none
  | x :: l => match lowestReserve l with
    | none => some x
    | some y => if y.1 < x.1 then some y else some x

/-- A reserve lies below the alert (R55). -/
def State.belowAlert (s : State) (x : Int × Stake) : Bool :=
  decide (256 * x.1 < (s.fld R.schReserveAlert F.schReserveAlert.alert * x.2.guard : Nat))

/-- SCH_RESERVE_MIN, and the reason REPLAN: raised when a reserve lies below the alert and it is not raised yet, cleared only
by a swapped plan under which none does (R55). -/
def State.updateReserve (s : State) (swap : Bool) : State :=
  let l := s.reserves
  match lowestReserve l with
  | none => s
  | some (v, k) =>
    let s1 := (s.setFld R.schReserveMin F.schReserveMin.reserve
      (BitVec.ofInt 16 (max (-32768) (min 32767 v))).toNat).setFld R.schReserveMin F.schReserveMin.stake k.idx
    match l.find? s.belowAlert with
    | none => if swap then s1.setSch { s1.sch with replan := false } else s1
    | some (w, j) =>
      if s1.sch.replan then s1
      else
        let s2 := (s1.setSch { s1.sch with replan := true }).setBit R.schStatus F.schStatus.replan true
        let s3 := s2.health 0xFF .ok 0x010C j.idx [BitVec.ofInt 64 w]
        s3.logRec 0x41 [BitVec.ofNat 64 j.idx, BitVec.ofNat 64 j.guard, BitVec.ofNat 64 (s.excess j),
          BitVec.ofNat 64 (s.planId s.activeBank)]

/-! ### A new plan (R334) -/

/-- What a plan that becomes active changes for a kind's spare. -/
def State.rotorSwap (s : State) (k : Kind) : State :=
  let s1 := match s.coveredPort k with
    | some p =>
      if s.spareReason k = 2 ∧ !s.planHasPort p then
        (((s.modPort p fun x => { x with covered := false }).portOut p).showSpare k 0xFF 0
          ).sliceShow (spareOf k) 3 |>.health p .ok 0x0103 (spareOf k) []
      else s
    | none => s
  if s1.planHasCal k then s1 else s1.endRotation k

def State.hltSwap (s : State) : State := ((s.rotorSwap .hf).rotorSwap .uhf).updateReserve true

end Sys2Proof.Machine
end

