-- ==== Sys2Proof/Machine/Image.lean ====
section
/-! DEFINITION. The configuration image (R361): its sections, the REG pairs that give registers their image values, and
the power state (R351). -/

namespace Sys2Proof.Machine

/-- A section: type, argument, body (R361). -/
structure Section where
  type : Nat
  arg : Nat
  body : List Word
  deriving DecidableEq, Repr

/-- The sections that follow the header, n of them. -/
def sectionsFrom : Nat → List Word → List Section
  | 0, _ => []
  | _ + 1, [] => []
  | n + 1, w :: l =>
    let len := Word.get w (31, 0)
    { type := Word.get w (63, 56), arg := Word.get w (55, 48), body := l.take len } :: sectionsFrom n (l.drop len)

def imageSections (img : List Word) : List Section :=
  sectionsFrom (Word.get (img.getD 0 0) (15, 0)) (img.drop 8)

/-- Pairs of offset and value of a REG body. -/
def regPairs : List Word → List (Nat × Word)
  | a :: v :: l => (a.toNat, v) :: regPairs l
  | _ => []

def imageRegs (img : List Word) : List (Nat × Word) :=
  ((imageSections img).filter fun x => x.type = 0x02).flatMap fun x => regPairs x.body

/-- The value that the applied image gives a register, none when it has no pair for it. -/
def State.imageValue (s : State) (off : Nat) : Option Word :=
  if !s.boot.applied then none
  else match s.boot.image with
    | none => none
    | some i => ((imageRegs i.1).filter fun x => x.1 = off).getLast?.map (·.2)

/-- Code of a power state (R351). -/
def PowerState.code : PowerState → Nat
  | .off => 0 | .hibernate => 1 | .watch => 2 | .ready => 3 | .run => 4

/-- A power state is entered: the POWER trace record (R394). -/
def State.enterPower (s : State) (p : PowerState) : State :=
  if s.boot.power = p then s
  else
    let s1 := s.trace 0x09 0xFF p.code
    s1.setBoot { s1.boot with power := p }

end Sys2Proof.Machine
end

