-- ==== Sys2Proof/Machine/Picc.lean ====
section
/-! DEFINITION. Awning's sessions and live images (R221 to R224, R228 to R231): which stake listens for an instance, the
fields of its image, the end of a session, and the seam hold. -/

namespace Sys2Proof.Machine

def State.awn (s : State) (i : Nat) : Awning := SMap.look Awning.dflt s.awning i
def State.setAwn (s : State) (i : Nat) (x : Awning) : State := s.setAwning (SMap.put Awning.dflt s.awning i x)
def State.modAwn (s : State) (i : Nat) (f : Awning → Awning) : State := s.setAwn i (f (s.awn i))

/-- Instance and check unit of an AWNING_LISTEN block (R221). -/
def blkInst (b : List Word) : Nat := bf b 2 63 62
def blkAwnChk (b : List Word) : Nat := bf b 2 61 56

/-- Depth of the load modulation of an AWNING_LISTEN block (R221, R225). -/
def blkDepth (b : List Word) : Nat := bf b 2 55 50

/-- The stake that listens for an instance: its front is over and its slice is in LISTEN (R222). -/
def State.listener (s : State) (i : Nat) : Option Run :=
  if !s.awnOn i then none
  else s.runs.find? fun r => decide (r.inner = 0x0A) && decide (blkInst r.block = i) && decide (r.phase = .active) &&
    r.inert.isNone && decide ((s.slice (s.server r.port)).st = .hfListen)

/-! ### The live image (R228) -/

/-- First byte of the region of an instance. -/
def State.awnBase (s : State) (i : Nat) : Nat := (s.awnRegion i).1

/-- A word of an image that starts at a byte address. -/
def State.imgWord (s : State) (base w : Nat) : Word := s.word (base + 8 * w)
def State.liveFld (s : State) (i w : Nat) (f : Fld) : Nat := Word.get (s.imgWord (s.awnBase i) w) f

def State.awnGen (s : State) (i : Nat) : Nat := s.liveFld i 0 (31, 0)
def State.ndefMax (s : State) (i : Nat) : Nat := s.liveFld i 4 (63, 48)

/-- First byte of the NDEF file. -/
def State.ndefBase (s : State) (i : Nat) : Nat := s.awnBase i + 0x40

/-- NLEN, most significant byte first. -/
def State.nlen (s : State) (i : Nat) : Nat := (s.byte (s.ndefBase i)).toNat * 256 + (s.byte (s.ndefBase i + 1)).toNat

/-- An EVENT of an instance (R221, R319). -/
def State.awnEvent (s : State) (i reason detail : Nat) (data : List Word) : State :=
  s.event (s.awn i).fifo (s.awnPitch i) ((s.awn i).port.getD 0xFF) .ok reason detail data

/-- IMAGE_ECC: a word of the live image is uncorrectable (R257). -/
def State.imageEcc (s : State) (i : Nat) : State := s.awnEvent i 0x0013 i []

/-- A word of the live image as Awning reads it: corrected, or recorded with IMAGE_ECC, and then free (R256, R257). -/
def State.liveLoad (s : State) (i w : Nat) : State × Word :=
  let a := s.awnBase i + 8 * w
  if s.isUe a then
    let s1 := (s.recordUe a).imageEcc i
    (s1.skip 1, Config.freeWord s1.fresh)
  else (s.correct a, s.word a)

/-- gen advances by 2 (R231); its odd value within an apply is not seen, since the apply is one step. -/
def State.bumpGen (s : State) (i : Nat) : State :=
  let w := s.liveLoad i 0
  w.1.setWord (s.awnBase i) (Word.put w.2 (31, 0) (Word.get w.2 (31, 0) + 2))

/-! ### The end of a session (R223, R231) -/

/-- The writes of a field log to the live image of an instance that is on; each lies in the NDEF file (R227, R230), and goes
word by word (R258). -/
def State.applyLog (s : State) (i : Nat) (l : List (Nat × List Byte)) : State :=
  if s.awnOn i then
    (s.each (l.filter fun x => decide (x.1 + x.2.length ≤ 0x2000)) fun s x =>
      s.storeRun (s.ndefBase i + x.1) (x.2.length / 8 + 2) x.2).bumpGen i
  else s

/-- The field log is applied to the live image: AWNING_WRITE. -/
def State.fieldApply (s : State) (i : Nat) : State :=
  match (s.awn i).log with
  | [] => s
  | l =>
    let s1 := s.applyLog i l
    let s2 := (s1.liveLoad i 8).1.modAwn i fun x => { x with log := [] }
    s2.awnEvent i 0x0010 (s2.awnGen i) [BitVec.ofNat 64 (s2.nlen i)]

/-- The session ends, and the PICC takes a state. -/
def State.sessionEnd (s : State) (i : Nat) (st : PiccState) : State :=
  let s1 := (s.fieldApply i).setBit (R.awnStatus i) F.awnStatus.verified false
  s1.modAwn i fun x => { x with
    session := false, picc := st, halted := decide (st = .halt), level := 1, appSelected := false, file := 0
    last := [], chain := [], block := false, holdUntil := none }

/-- The field is gone: the session ends and the PICC is at POWER_OFF, where a random UID is drawn anew (R225). -/
def State.awnPowerOff (s : State) (i : Nat) : State :=
  let s1 := s.sessionEnd i .powerOff
  (s1.modAwn i fun x => { x with
    field := false, port := none, randomUid := (Config.freeWord s1.fresh).setWidth 32 }).skip 1

/-! ### Seams (R223) -/

/-- An AWNING_LISTEN stake ends: the session and the state that the PICC has in a phone's field are held for seam_hold_ms, in which a
stake of the same port and instance can continue them (notes/assumptions/95.md). What is held already was not continued by this
stake, and ends when that hold does. -/
def State.awnStop (s : State) (r : Run) : State :=
  let i := blkInst r.block
  let x := s.awn i
  if r.inner ≠ 0x0A ∨ x.port ≠ some r.port ∨ x.holdUntil.isSome then s
  else if x.session ∨ x.field then
    s.setAwn i { x with holdUntil := some (r.stop + msTicks (max 1 (r.fld R.awnCfg F.awnCfg.seamHoldMs))) }
  else s.awnPowerOff i

/-- A stake of the same port and instance starts in time and finds the field present: it goes on with what is held. -/
def State.awnResume (s : State) (r : Run) : State :=
  let i := blkInst r.block
  let x := s.awn i
  if r.inner ≠ 0x0A then s
  else
    let s1 := s.setAwn i { x with fifo := blkFifo r.block }
    match x.holdUntil with
    | none => s1
    | some t =>
      if x.port = some r.port ∧ r.start ≤ t ∧ x.field then s1.modAwn i fun x => { x with holdUntil := none } else s1

/-- Every session ends as at field loss (R224). -/
def State.awnInhibit (s : State) : State :=
  s.each ((List.range 4).filter fun i => (s.awn i).field || (s.awn i).session) fun s i => s.awnPowerOff i

end Sys2Proof.Machine
end

