-- ==== Sys2Proof/Machine/Requests.lean ====
section
/-! DEFINITION. Host requests: taking one from a dir 1 FIFO and admitting it (R310 to R314, R289, R435), starting it in a
HOST_REQ stake (R59, R60, R62), and its expiry (R61). -/

namespace Sys2Proof.Machine

/-- Requests that the dir 1 FIFOs of a pitch hold together (R310). -/
def State.requestRoom (s : State) (q : Nat) : Nat :=
  (((List.range 64).filter fun n => s.ownsFifo q n && s.fifoDir1 n).map s.fifoDepth).sum

/-- Requests that a pitch holds: queued and running. -/
def State.requestsHeld (s : State) (q : Nat) : Nat :=
  (s.requests.filter fun r => r.pitch = q).length +
    (s.runs.filter fun r => match r.request with
      | some x => decide (x.pitch = q)
      | none => false).length

/-- The port of the pitch's type of request: HF for all but GEN2_REQ (R312 to R314). -/
def reqPortOk (ws : List Word) : Bool := if reqType ws = 0x04 then isUhfPort (reqPort ws) else isHfPort (reqPort ws)

/-- The master number that a pitch's record carries for a pushed message (R290, notes/assumptions/21.md). -/
def pitchMaster (q : Nat) : Nat := if q = 0 then 1 else 3 + q

/-- What becomes of a request when SCH takes it: a status at once with the violation to record (R289, R310, R186, R60,
R435), or none when it is queued. -/
def State.admission (s : State) (q : Nat) (ue : Bool) (ws : List Word) : Option (Status × Option (Nat × Nat)) :=
  if ue then some (.abandoned, none)
  else if bf ws 1 63 32 ≠ s.clock.epoch.toNat then some (.abandoned, none)
  else if bf ws 0 55 48 ≠ q then some (.badParam, some (0x06, bf ws 0 55 48))
  else if !reqLenOk ws then some (.badLength, none)
  else if !reqFieldsOk ws then some (.badParam, none)
  else if !s.ownsPort q (reqPort ws) then some (.badParam, some (0x03, reqPort ws))
  else if !reqPortOk ws then some (.badParam, none)
  else if reqKeyed ws ∧ !s.ownsKey q (reqKey ws) then some (.badParam, some (0x05, reqKey ws))
  else if s.requestRoom q ≤ s.requestsHeld q then some (.queueFull, none)
  else if reqType ws = 0x01 ∧ s.bit R.schStatus F.schStatus.loaded ∧ (s.matching q ws).isEmpty then some (.badParam, none)
  else if s.tooLong q ws then some (.tooLong, none)
  else none

/-- A request ends at once, or without running (R61). -/
def State.refuseRequest (s : State) (q : Nat) (ws : List Word) (st : Status) : State :=
  s.requestDone q (reqPort ws) st (reqType ws) 0 (ws.getD 0 0) (ws.getD 1 0) false 0 0 []

/-- Packet p of FIFO n was appended before packet x of FIFO k: in an earlier cycle, or in the same one to a FIFO of a lower number
(R310). -/
def Packet.before (p : Packet) (n : Nat) (x : Packet) (k : Nat) : Bool :=
  decide (p.at_ < x.at_) || (decide (p.at_ = x.at_) && (decide (p.cycle < x.cycle) || (decide (p.cycle = x.cycle) && decide (n < k))))

/-- Packet p at the head of dir 1 FIFO n is the one of its pitch that was appended first (R310). -/
def State.firstAppended (s : State) (n : Nat) (p : Packet) : Bool :=
  (List.range 64).all fun k =>
    decide (k = n) || !s.ownsFifo (s.fifoPitch n) k || !s.fifoDir1 k || ((s.fifo k).packets.take 1).all fun x => p.before n x k

/-- SCH takes the head packet of a dir 1 FIFO when its type is one of `mine` and its pitch has no earlier one: it is popped with
free at 1 and admitted (R310). A pitch without a done FIFO has its requests dropped (R321). -/
def State.takeRequest (s : State) (n : Nat) (mine : Nat → Bool) : State :=
  if !s.up || !s.fifoOn n || !s.fifoDir1 n then s
  else match (s.fifo n).packets with
    | [] => s
    | p :: _ =>
      let ws := s.readChain p.chain p.length
      let q := s.fifoPitch n
      let ue := s.chainUe p.chain p.length
      if !mine (reqType ws) || !s.firstAppended n p then s
      else
        let s1 := (s.touchAll (chainAddrs p.chain p.length)).popHead n .free
        if (s1.doneFifo q).isNone then s1
        else match s1.admission q ue ws with
          | some (st, v) =>
            let s2 := match v with
              | none => s1
              | some (kind, d) => s1.violation q (pitchMaster q) kind d
            s2.refuseRequest q ws st
          | none =>
            s1.setRequests (s1.requests ++ [{ pitch := q, port := reqPort ws, type := reqType ws, words := ws
                                              commitAt := s1.now, cycles := 0 }])

/-- The types of R311 that have a row of their own. -/
def knownRequest (t : Nat) : Bool := decide (1 ≤ t) && decide (t ≤ 4)

/-- The first queued request of a pitch for a port (R60). -/
def State.firstRequest (s : State) (q p : Nat) : Option Request :=
  s.requests.find? fun x => decide (x.pitch = q) && decide (x.port = p)

/-- Take one request out of the queue: the first of its pitch and port. -/
def dropFirst (q p : Nat) : List Request → List Request
  | [] => []
  | x :: l => if x.pitch = q ∧ x.port = p then l else x :: dropFirst q p l

/-- The action that carries a request out. -/
def Run.requestAction (r : Run) (ws : List Word) : Action :=
  { Action.fresh (reqIdent ws) 8 (reqCmds ws) false with
    key := SMap.look 0 r.keys (reqKey ws)
    apduOut := if reqType ws = 0x03 then apduBytes ws else [] }

/-- REQUEST_START (R59, R60, R62): the first request of the port's queue starts when R43 allows, front included; in a
stake that performs no radio action it ends with the stake's status. -/
def State.requestStart (s : State) (p : Nat) : State :=
  match s.runAt p with
  | none => s
  | some r =>
    match s.firstRequest r.pitch p with
    | none => s
    | some q =>
      if (r.template ≠ 0x09 ∧ r.template ≠ 0x11) ∨ r.request.isSome ∨ s.now < r.start + 16 ∨
          (r.phase ≠ .idle ∧ r.phase ≠ .active) ∨ r.tailAt ≤ s.now ∨ !serves r.stake r.block r.pitch q.words then s
      else
        let s1 := s.setRequests (dropFirst r.pitch p s.requests)
        match (if s.inhibited then some Status.inhibited else r.inert) with
        | some st => s1.refuseRequest r.pitch q.words st
        | none =>
          let on := decide (r.phase = .active) && s.fieldUp r
          let f := if on then 0 else reqFront r.block q.words
          if r.tailAt < s.now + f + reqTicks r.block q.words then s
          else
            let r1 : Run := { r with request := some q, action := some (r.requestAction q.words), readyAt := s.now }
            if on then s1.putRun r1 else s1.startFront r1 s1.now

/-- REQUEST_WAIT_EXPIRED (R61): requests of a pitch for a port that have seen SCH_REQ_WAIT cycle boundaries end. DESIGN CHOICE
(notes/assumptions/104.md): a major cycle of waiting is a boundary passed since the request was queued, and SCH_REQ_WAIT 0 acts as 1. -/
def State.requestExpire (s : State) (q p : Nat) : State :=
  let wait := max 1 (s.cfg R.schReqWait F.schReqWait.cycles)
  let old := s.requests.filter fun x => decide (x.pitch = q) && decide (x.port = p) && decide (wait ≤ x.cycles)
  let s1 := s.setRequests (s.requests.filter fun x =>
    !(decide (x.pitch = q) && decide (x.port = p) && decide (wait ≤ x.cycles)))
  s1.each old fun s x => s.refuseRequest q x.words .abandoned

/-! ### The commands -/

def execKrvReq (n : Fin 64) (s : State) : Host.Outcome State Fault Refusal :=
  .next (s.takeRequest n.val fun t => decide (t = 0x01))

def execHfFrame (n : Fin 64) (s : State) : Host.Outcome State Fault Refusal :=
  .next (s.takeRequest n.val fun t => decide (t = 0x02))

def execHfApdu (n : Fin 64) (s : State) : Host.Outcome State Fault Refusal :=
  .next (s.takeRequest n.val fun t => decide (t = 0x03))

def execGen2Req (n : Fin 64) (s : State) : Host.Outcome State Fault Refusal :=
  .next (s.takeRequest n.val fun t => decide (t = 0x04))

def execReservedTypeRequest (n : Fin 64) (s : State) : Host.Outcome State Fault Refusal :=
  .next (s.takeRequest n.val fun t => !knownRequest t)

def execRequestStart (port : Nat) (s : State) : Host.Outcome State Fault Refusal :=
  if isPort port then .next (s.requestStart port) else .fault .noSuchResource

def execRequestWaitExpired (pitch : Nat) (port : Nat) (s : State) : Host.Outcome State Fault Refusal :=
  if pitch ≤ 8 ∧ isPort port then .next (s.requestExpire pitch port) else .fault .noSuchResource

end Sys2Proof.Machine
end

