-- ==== Sys2Proof/Machine/Plan.lean ====
section
/-! DEFINITION. SCH: the plan checker's runs, swaps and the major cycle (R33, R50, R65 to R68), and the stakes from their
start to their end (R36 to R40, R46, R57, R63, R64, R69). -/

namespace Sys2Proof.Machine

/-! ### Trigger latches (R63, R390) -/

/-- CAB_TRIG_LATCH shows a trigger latched when any latch of a pair is set. -/
def State.showLatches (s : State) : State :=
  s.setReg R.cabTrigLatch ((s.sch.latches.filter fun l => l.latched && decide (l.port ≠ 255)).foldl
    (fun w l => w ||| BitVec.ofNat 64 (2 ^ l.trig)) 0)

/-- The pairs of trigger and port that TRIGGER_INV stakes of the active plan name. -/
def State.planPairs (s : State) : List (Nat × Nat) :=
  ((s.planStakes.filter fun k => k.template = 0x30).map fun k => (blkTrig (s.blockOf s.activeBank k), k.port)).dedup

/-- Edges latched for a pair, none when its latch is clear. -/
def State.latchOf (s : State) (t p : Nat) : Option Nat :=
  (s.sch.latches.find? fun l => decide (l.trig = t) && decide (l.port = p) && l.latched).map (·.count)

def State.clearLatch (s : State) (t p : Nat) : State :=
  (s.setSch { s.sch with latches := s.sch.latches.filter fun l => !(decide (l.trig = t) && decide (l.port = p)) }).showLatches

/-- An edge sets the latch of a pair. -/
def State.setLatch (s : State) (t p : Nat) : State :=
  let n := (s.latchOf t p).getD 0
  let rest := s.sch.latches.filter fun l => !(decide (l.trig = t) && decide (l.port = p))
  (s.setSch { s.sch with latches := rest ++ [{ trig := t, port := p, latched := true, count := n + 1 }] }).showLatches

/-- Latches under a plan that becomes active (R390, R366): pairs that it names keep theirs, and take the edges kept from
before any plan. -/
def State.swapLatches (s : State) : State :=
  let pairs := s.planPairs
  let kept := pairs.flatMap fun x =>
    let n := (s.latchOf x.1 x.2).getD 0 + (s.latchOf x.1 255).getD 0
    if n = 0 then [] else [({ trig := x.1, port := x.2, latched := true, count := n } : TrigLatch)]
  (s.setSch { s.sch with latches := kept }).showLatches

/-! ### A plan becomes active (R58, R61, R65, R67) -/

/-- Save records whose key the new plan does not hold are dropped (R58). -/
def State.dropRecords (s : State) : State :=
  let keep (x : SaveRecord) : Bool := s.planStakes.any fun k =>
    decide (k.port = x.port) && decide (k.pitch = x.pitch) && decide (k.template = x.template)
  let gone := s.records.filter fun x => !keep x
  (s.setRecords (s.records.filter keep)).each gone fun s x => s.event x.fifo x.pitch x.port .abandoned 0x0001 0 []

/-- Requests for a port on which the plan holds no matching stake end (R61). DESIGN CHOICE (notes/assumptions/74.md): the
others are not tested again for TOO_LONG (R60) under the new plan, and wait. -/
def State.dropRequests (s : State) : State :=
  let keep (x : Request) : Bool := !(s.matching x.pitch x.words).isEmpty
  let gone := s.requests.filter fun x => !keep x
  (s.setRequests (s.requests.filter keep)).each gone fun s x => s.refuseRequest x.pitch x.words .abandoned

/-- The plan of a bank becomes the active one. -/
def State.activate (s : State) (b : Bool) : State :=
  let s1 := (s.setBit R.schStatus F.schStatus.activeBank b).setBit R.schStatus F.schStatus.loaded true
  let pk := s1.peak b
  let s2 := (s1.setReg R.schPeakMw (Word.put (Word.put 0 F.schPeakMw.peak pk.1) F.schPeakMw.offset pk.2)).setReg
    R.schCycleTicks (BitVec.ofNat 64 (s1.planCycle b))
  let s3 := s2.setReg R.schPlanId (Word.put 0 F.schPlanId.active (s1.planId b))
  s3.swapLatches.dropRecords.dropRequests.hltSwap

/-- The pending plan becomes active (R65). -/
def State.takeSwap (s : State) : State :=
  let s1 := (s.setBit R.schStatus F.schStatus.swapPending false).setSch { s.sch with swapAt := none }
  let s2 := s1.activate (!s.activeBank)
  ((s2.setCxp { s2.cxp with lead := [] }).trace 0x0C 0xFF (s2.planId s2.activeBank)).driveCxp

/-- A pending plan that may become active now. -/
def State.swapDue (s : State) : Bool :=
  match s.sch.swapAt with
  | none => false
  | some t => decide (t ≤ s.now)

/-! ### Cycles (R33, R65, R68) -/

/-- A major cycle starts at a tick. -/
def State.beginCycle (s : State) (at_ : Nat) : State :=
  let s1 := (s.setReg R.schCycleStart (BitVec.ofNat 64 at_)).setSch
    { s.sch with next := 0, lastBoundary := at_, railPorts := [], railStakes := [], capPorts := [] }
  let s2 := s1.setCab { s1.cab with pulseUntil := at_ + 40 }
  if s2.bit R.guyStatus F.guyStatus.isMaster ∧ s2.guy.retryAt.isNone then
    s2.setGuy { s2.guy with txAt := some at_ }
  else s2

/-- A Guyline master with no plan running beacons every 4,000,000 ticks (R376): the next time 4,000,000 ticks after the last, or now
when the cycle that has ended was longer. -/
def State.idleBeacon (s : State) : State :=
  match s.guy.last with
  | none => s
  | some b =>
    if s.bit R.guyStatus F.guyStatus.isMaster ∧ s.guy.retryAt.isNone ∧ s.guy.txAt.isNone then
      s.setGuy { s.guy with txAt := some (max s.now (b.at_ - 128 + 4000000)) }
    else s

/-- The plan stops (R68): no stake is in its lead interval any more (R212). -/
def State.stopPlan (s : State) : State :=
  let s1 := (s.setBit R.schStatus F.schStatus.running false).trace 0x0C 0xFF (2 ^ 40 + s.planId s.activeBank)
  (((s1.setCxp { s1.cxp with lead := [] }).driveCxp).enterPower .ready).idleBeacon

/-- MAJOR_CYCLE_BOUNDARY: every stake of the cycle has ended, and the next cycle starts on the following tick. -/
def State.boundary (s : State) : State :=
  if !s.up || !s.running || !s.runs.isEmpty || decide (s.sch.next ≠ s.planCount s.activeBank) ||
      decide (s.now < s.cycleEnd) then s
  else
    let at_ := s.cycleEnd
    let s1 := (s.bump R.schCycleCnt F.schCycleCnt.count).setRequests
      (s.requests.map fun x => { x with cycles := x.cycles + 1 })
    let s2 := if s1.swapDue then s1.takeSwap else s1
    let s3 := s2.setSch { s2.sch with lastBoundary := at_ }
    if !s3.bit R.schCtrl F.schCtrl.run || s3.boot.entering.isSome then s3.stopPlan else s3.beginCycle at_

/-- PLAN_START (R68): 4,000 ticks after the check at load, or after run; with no plan running, and so no stake active, a pending
plan starts when it may become active and run is 1 (notes/assumptions/23.md). -/
def State.planStart (s : State) : State :=
  let due : Option Nat := match s.sch.startAt with
    | some t => some t
    | none => if s.bit R.schStatus F.schStatus.swapPending then s.sch.swapAt else none
  match due with
  | none => s
  | some t =>
    if !s.up || s.running || !s.runs.isEmpty || s.now < t || !s.bit R.schCtrl F.schCtrl.run || s.boot.entering.isSome ||
        s.boot.scanHeld then s
    else
      let s1 := if s.swapDue then s.takeSwap else s
      let s2 := s1.setSch { s1.sch with startAt := none }
      if !s2.bit R.schStatus F.schStatus.loaded then s2
      else
        let s3 := ((s2.setBit R.schStatus F.schStatus.running true).trace 0x0C 0xFF
          (2 * 2 ^ 40 + s2.planId s2.activeBank)).enterPower .run
        s3.beginCycle t

/-- SCH_CTRL.swap written 1 (R65, R66). -/
def State.schSwap (s : State) : State :=
  if !s.up || s.bit R.schStatus F.schStatus.checking || s.bit R.schStatus F.schStatus.swapPending then s
  else ((s.setBit R.schStatus F.schStatus.checking true).setBit R.schCtrl F.schCtrl.swap true).setSch
    { s.sch with check := some { bank := !s.activeBank, atLoad := false } }

/-- The pending plan is withdrawn (R66). -/
def State.withdraw (s : State) : State :=
  ((s.setBit R.schStatus F.schStatus.swapPending false).setFld R.schPlanId F.schPlanId.pending 0).setSch
    { s.sch with swapAt := none }

/-- SCH_CTRL.cancel written 1 (R66): no effect in the tick of the boundary that takes the plan. -/
def State.schCancel (s : State) : State :=
  if !s.up || !s.bit R.schStatus F.schStatus.swapPending then s
  else if s.running ∧ s.cycleEnd ≤ s.now ∧ s.swapDue then s
  else s.withdraw

/-- SCH_CTRL.run written (R68): a plan that does not run starts 4,000 ticks after a 1, if one is loaded by then. -/
def State.schRun (s : State) (run : Bool) : State :=
  if !s.up then s
  else
    let s1 := s.setBit R.schCtrl F.schCtrl.run run
    if !run then s1.setSch { s1.sch with startAt := none }
    else if s1.running ∨ s1.sch.startAt.isSome then s1
    else s1.setSch { s1.sch with startAt := some (s1.now + 4000) }

/-- The checker stops (R65). DESIGN CHOICE (notes/assumptions/118.md): SCH_CTRL.swap reads 0 from here on, and not from the swap at the
boundary. -/
def State.endCheck (s : State) : State :=
  ((s.setBit R.schStatus F.schStatus.checking false).setBit R.schCtrl F.schCtrl.swap false).setSch
    { s.sch with check := none }

/-- A check without an uncorrectable word ends: its result, and what follows a pass (R49, R65, R68). -/
def State.checkResult (s : State) (c : Check) : State :=
  let v := s.checkPlan c.bank
  let w := Word.put (Word.put (Word.put 0 F.schCheckResult.code v.code) F.schCheckResult.stake v.stake)
    F.schCheckResult.offset v.offset
  let s2 := s.setReg R.schCheckResult w
  if v.code ≠ 0 then s2
  else if c.atLoad then
    let s3 := s2.activate c.bank
    if s3.bit R.schCtrl F.schCtrl.run then s3.setSch { s3.sch with startAt := some (s3.now + 4000) } else s3
  else
    ((s2.setBit R.schStatus F.schStatus.swapPending true).setFld R.schPlanId F.schPlanId.pending
      (s2.planId c.bank)).setSch { s2.sch with swapAt := some (s2.now + 4000) }

/-- PLAN_CHECK_DONE (R49, R50, R65, R68, R257). A swap that the image asked for follows the check at load
(notes/assumptions/101.md). -/
def State.checkDone (s : State) : State :=
  match s.sch.check with
  | none => s
  | some c =>
    let s1 := s.endCheck
    let hi := bankBase c.bank + 8 * min 131072 (max 4 (s1.planLen c.bank))
    -- the words in error that the checker reads, up to an uncorrectable one (R256, R257)
    let errs := s1.errsIn (bankBase c.bank) hi
    match s1.ueIn (bankBase c.bank) hi with
    | some a =>
      let s2 := s1.touchAll (errs.filter fun x => decide (x ≤ a))
      if c.atLoad then s2.eccCritical else s2.setBit R.gshEccStatus F.gshEccStatus.planUe true
    | none =>
      let s2 := (s1.touchAll errs).checkResult c
      if c.atLoad ∧ s.bit R.schCtrl F.schCtrl.swap then s2.schSwap else s2

/-! ### What SCH settles at S -/

/-- A PA fault port returns at its next stake start once the pin is high and fault is clear (R208). -/
def State.paReturn (s : State) (p : Nat) : State :=
  let x := s.port p
  if x.paFault ∧ !x.faultLow ∧ !s.bit (R.uhaPaStatus (uhfIdx p)) F.uhaPaStatus.fault then
    s.modPort p fun y => { y with paFault := false }
  else s

/-- A retry timer that has run out by S has expired (R95). -/
def State.retryOver (s : State) (p : Nat) : State :=
  match (s.port p).retryUntil with
  | none => s
  | some t => if t ≤ s.now then s.modPort p fun y => { y with retryUntil := none, deciding := true } else s

/-- A host has written a register in this tick. -/
def State.wroteNow (s : State) (off : Nat) : Bool := (SMap.find s.tick.wrote off).isSome

/-- Load coefficient j of a port from the image; that of a neighbour which does not exist is 0 (R85). -/
def State.loadCoef (s : State) (p j : Nat) : State :=
  let v := if (neighbourAt p j).isNone then 0 else ((s.imageValue (R.hfaCancelCoef p j)).getD 0) &&& 0x000000000FFF0FFF
  s.setCfg (R.hfaCancelCoef p j) v

/-- Coefficients reload their image values at the stake start (R88, R96) when that was asked for before this tick, and the marks
of host writes go back to those of this tick, which take effect at the next start (R25). -/
def State.loadCoefs (s : State) (p : Nat) : State :=
  let asked := SMap.find s.tick.reloads p
  let s1 :=
    if (s.port p).reloadCoef ∧ asked.getD true ∧ isHfPort p then
      (s.each (List.range 4) fun s j => s.loadCoef p j).setBit (R.hfaCancelCfg p) F.hfaCancelCfg.reload asked.isSome
    else s
  let coef := isHfPort p && (List.range 4).any fun j => s1.wroteNow (R.hfaCancelCoef p j)
  let seeds := if isUhfPort p then (List.range 64).filter fun b => s1.wroteNow (R.uhaSjcSeed (uhfIdx p) b) else []
  s1.modPort p fun x => { x with coefWritten := coef, seedsWritten := seeds, reloadCoef := asked.isSome }

/-- Why a port takes no part (R29, R95, R208, R331). -/
def State.portBlock (s : State) (t p : Nat) : Option Status :=
  let x := s.port p
  if x.out ∨ x.paFault ∨ (s.slice (s.server p)).failed then some .sliceSuspect
  else if x.retryUntil.isSome ∧ t ≠ 0x21 then some .headAbsent
  else none


/-- The status of a stake that performs no radio action from S on, none when it has the radio: its ports, the inhibit and
the return from it (R69), the held carrier (R200), its lane (R380), and the grant (R39); the last may be waited for. -/
def State.stakeBlock (s : State) (k : Stake) (held : Bool) : Option Status :=
  if k.template = 0x20 ∨ k.template = 0x3F then none
  else
    let ports := if k.group ∧ k.ports.any (fun p => (s.portBlock k.template p).isNone) then [] else k.ports
    match ports.findSome? (s.portBlock k.template) with
    | some st => some st
    | none =>
      if s.inhibited ∨ (isUhfPort k.port ∧ s.cab.restoreAt.isSome) then some .inhibited
      else if held ∧ (s.port k.port).timedOut then some .txTimeout
      else if !s.laneOk k then some .coexDenied
      else none

/-- A claim meets a host run: one started in this tick is refused, an older one may still complete in it (R251). -/
def State.claimRun (s : State) (n : Nat) (h : HostRun) : State :=
  if h.at_ = s.now then
    (((s.setHostRuns (SMap.del n s.hostRuns)).setBit (R.chkStatus n) F.chkStatus.busy false).setBit (R.chkRun n)
      F.chkRun.start false).setBit (R.chkStatus n) F.chkStatus.runRefused true
  else
    let s1 := s.setHostRuns (SMap.ins n { h with claimed := true } s.hostRuns)
    if h.tried = some s.now then s1.setBit (R.chkStatus n) F.chkStatus.runRefused true else s1

/-- The check units and the decoder that the stake claims from S (R249 to R251, R187). -/
def State.claim (s : State) (k : Stake) : State :=
  let units := (List.range 48).filter fun n => decide (k.chkMask / 2 ^ n % 2 = 1)
  let s1 := s.each units fun s n =>
    let s1 := s.setBit (R.chkStatus n) F.chkStatus.claimed true
    match SMap.find s1.hostRuns n with
    | none => s1
    | some h => s1.claimRun n h
  if k.decoder = 1 then s1.setFld R.wrdStatus F.wrdStatus.dec0Port k.port
  else if k.decoder = 2 then s1.setFld R.wrdStatus F.wrdStatus.dec1Port k.port
  else s1

/-- The claims end with the active ticks. -/
def State.unclaim (s : State) (k : Stake) : State :=
  let units := (List.range 48).filter fun n => decide (k.chkMask / 2 ^ n % 2 = 1)
  let s1 := s.each units fun s n => s.setBit (R.chkStatus n) F.chkStatus.claimed false
  if k.decoder = 1 then s1.setFld R.wrdStatus F.wrdStatus.dec0Port 0x3F
  else if k.decoder = 2 then s1.setFld R.wrdStatus F.wrdStatus.dec1Port 0x3F
  else s1

/-! ### Starting work -/

/-- A Krovrel walk that goes on with its top entry: the one in hand, or the first of the stack. -/
def Walk.goOn (w : Walk) : Walk :=
  match w.cur, w.stack with
  | some (v, l), _ => { w with resumeBegin := false, next := some (.kWalk l v) }
  | none, (v, l) :: rest => { w with resumeBegin := false, cur := some (v, l), stack := rest, next := some (.kWalk l v) }
  | none, [] => { w with resumeBegin := false, next := none }

/-- The BEGIN with which a record resumes: its mode, its Q, its target and its mask (R142). -/
def SaveRecord.begin_ (x : SaveRecord) : Cmd :=
  .kBegin x.walk.slotted (if x.walk.slotted then x.walk.q else 0) x.target x.mask.1 x.mask.2.1 x.mask.2.2

/-- How a Krovrel walk goes on from its record (R142): `kept` when the tags have kept the field, and with it their state. DESIGN CHOICE
(notes/assumptions/108.md): a slotted record goes on there with NEXT_SLOT, or with the BEGIN or REROUND that was due, at its slot. -/
def SaveRecord.resumeKrv (x : SaveRecord) (w : Walk) (kept : Bool) : Walk :=
  if kept then
    (if w.slotted then
      { w with next := some (match w.next with
        | some (.kBegin s q t a l m) => .kBegin s q t a l m
        | some (.kReround q) => .kReround q
        | _ => .kNextSlot) }
     else w.goOn)
  else if w.slotted then { w with slot := 0, collided := 0, next := some x.begin_ }
  else { w with resumeBegin := true, next := some x.begin_ }

/-- How a walk of another protocol goes on from its record: Gen2 with Query at the saved Q (R144), ISO/IEC with a fresh request
at the saved slot code, or on the top entry of the saved stack (R149). -/
def Run.resumeIso (r : Run) (w fresh : Walk) : Walk :=
  if r.inner = 0x10 then
    let v : Walk := { fresh with windows := w.windows, started := true, q := w.q, qfp := w.qfp, target := w.target }
    { v with next := some (firstCmd r.inner r.block w.pol v) }
  else if r.inner = 0x04 then
    match w.isoStack with
    | [] => { fresh with windows := w.windows, started := true }
    | (m, l, _) :: rest =>
      let sixteen := w.slotted || decide (bf r.block 8 54 52 = 4)
      { fresh with windows := w.windows, started := true, slotted := sixteen, isoStack := (m, l, 0) :: rest,
                   next := some (blkInventory r.block m l sixteen) }
  else
    let v : Walk := { fresh with windows := w.windows, started := true, q := w.q, rounds := w.rounds }
    { v with next := some (firstCmd r.inner r.block w.pol v) }

/-- The walk of a stake that starts work, from its save record, which stays until the tail, or afresh (R57, R142). -/
def State.openWalk (s : State) (r : Run) : State × Walk :=
  let fresh := freshWalk r.inner r.block (s.polOf r) false false
  match s.records.find? fun x => decide (x.port = r.port) && decide (x.pitch = r.pitch) &&
      decide (x.template = r.template) with
  | none => (s, fresh)
  | some x =>
    let s1 := s.setRecords (s.records.filter fun y => !(decide (y.port = r.port) && decide (y.pitch = r.pitch) &&
      decide (y.template = r.template)))
    if !r.stake.resumable then (s1, fresh)
    else if max 1 (r.walkFld F.sngWalkCfg.maxWindows) ≤ x.walk.windows then
      (s1.bump R.sngRecordDropCnt F.sngRecordDropCnt.count, fresh)
    else
      let w : Walk := { x.walk with
        windows := x.walk.windows + 1, identified := false, emptyReported := false, origin := some (x.target, x.mask) }
      (s, if krovrelInner r.inner then x.resumeKrv w (x.heldField && r.onHold) else r.resumeIso w fresh)

/-- The front of a stake starts at a tick, or its exchanges do when the field is on (R44, R46). -/
def State.startWork (s : State) (r : Run) (from_ : Nat) : State :=
  let ow : State × Walk := if r.inventory then s.openWalk r else (s, r.walk)
  let r1 : Run := { r with walk := ow.2 }
  if r.onHold then (ow.1.putRun { r1 with phase := .active, readyAt := from_ }).heldDrive r1
  else ow.1.startFront r1 from_

/-- A TRIGGER_INV stake lets the field of its predecessor fall when it starts unlatched (R63). -/
def State.idleTrigger (s : State) (r : Run) : State :=
  (if r.onHold then s.lowerField r r.rampTicks else s).putRun { r with phase := .idle, onHold := false }

/-- The stake begins what its template does, from a tick on (R40, R47, R62, R63). -/
def State.beginWork (s : State) (r : Run) (from_ : Nat) : State :=
  let t := r.template
  if t = 0x20 ∨ t = 0x3F then s
  else if t = 0x0B then s.putRun { r with phase := .active, readyAt := from_ }
  else if t = 0x09 ∨ t = 0x11 then
    (if r.onHold then (s.putRun { r with phase := .active, readyAt := from_ }).heldDrive r else s.putRun { r with phase := .idle })
  else if t = 0x30 then
    (if (s.latchOf (blkTrig r.block) r.port).isSome then s.putRun { r with phase := .dispatched, readyAt := from_ }
     else s.idleTrigger r)
  else (s.awnResume r).startWork r from_

/-- The slice that a CAL_SLICE stake of a kind calibrates (R325, R332). -/
def State.calTarget (s : State) (k : Kind) (start : Nat) : Option Nat :=
  match (s.rotor k).rot with
  | none => none
  | some r =>
    if s.spareReason k = 2 ∨ r.calibrated then none
    else if r.slice = spareOf k then
      (if (s.coveredPort k).isNone ∧ (s.rotor k).xfer.isNone then some r.slice else none)
    else if r.handed ∧ r.handedAt + 240 ≤ start ∧ (s.rotor k).xfer.isNone then some r.slice
    else none

/-- HLT takes the slice for the runs of a CAL_SLICE stake at S + 16 (R335); a UHF slice that an RF inhibit keeps in OFF stays there
(R188). -/
def State.calStart (s : State) (r : Run) : State :=
  match s.calTarget (kindOf r.port) r.start with
  | none => s
  | some n => if (s.slice n).st = calState n ∨ (!isHf n ∧ s.inhibited) then s else s.sendFrom n 0 r.start false [calState n]

/-- The stake performs no radio action from S on: what it gives (R39, R69, R95, R384). -/
def State.startInert (s : State) (r : Run) (st : Status) : State :=
  let r1 : Run := { r with inert := some st, lastStatus := st, phase := .idle }
  let s1 := (s.lowerField r r.rampTicks).putRun r1
  let s2 := if st = .coexDenied then s1.countDenied else s1
  if r.template = 0x30 then
    match s2.latchOf (blkTrig r.block) r.port with
    | none => s2
    | some _ => (if st = .inhibited then s2.clearLatch (blkTrig r.block) r.port else s2).inertReport r1 st
  else s2.inertReport r1 st

/-- Stakes that wait for the grant and have it now proceed (R39). -/
def State.wakeWaiting (s : State) : State :=
  s.each (s.runs.filter fun r => decide (r.phase = .waiting) && r.inert.isNone) fun s r =>
    match s.runAt r.port with
    | none => s
    | some x =>
      if !s.granted x then s
      else if s.inhibited then s.startInert x .inhibited
      else s.beginWork x (max s.now (x.start + 16))

/-- What a held field of a port keeps, none where the field is no longer on (R46). -/
def State.heldField (s : State) (p : Nat) : Option (List Word) :=
  let x := s.slice (s.server p)
  if !x.path.isEmpty || x.st.ready then (s.port p).hold else none

/-- The stake as SCH hands it over at S (R25, R40, R46, R77, R82). -/
def State.openRun (s : State) (k : Stake) (start : Nat) : Run :=
  let all := s.planStakes
  let b0 := s.blockOf s.activeBank k
  let hold : Option (List Word) := if heldBefore all k then k.ports.findSome? s.heldField else none
  let b := match hold with
    | none => b0
    | some h => heldBlock (isHfPort k.port) h b0
  let inner := innerOf k.template b0
  { stake := k, inner := inner, start := start
    stop := start + (activeEnd all k - k.start)
    tailAt := start + k.dur - tailOf inner b0 k.hold k.resumable
    block := b, cfg := s.cfgNow, keys := s.keysNow, phase := .dispatched, inert := none, onHold := hold.isSome
    readyAt := start + 16, exch := none, exchCount := 0
    setBase := match hold with
      | none => 0
      | some h => (h.getD 5 0).toNat
    lastStatus := .ok, walk := Walk.dflt, action := none, request := none, absorbed := 0, workAt := none
    missing := if k.group then k.ports.filter fun p =>
      (s.portBlock k.template p).isSome || (hold.isSome && (s.port p).deciding) else []
    detuned := false, sjcLow := false, lastSeen := none, lastBit := start, nb := false, flagged := (0, false, 0) }

/-- HEAD class of a port is DETUNED (R93). -/
def State.headDetuned (s : State) (p : Nat) : Bool :=
  decide ((if isHfPort p then s.fld (R.hfaHeadStatus p) F.hfaHeadStatus.cls
    else s.fld (R.uhaHeadStatus (uhfIdx p)) F.uhaHeadStatus.cls) = 2)

/-- The words of the active bank that SCH reads for a stake: its four words and its parameter block. -/
def State.stakeAddrs (s : State) (k : Stake) : List Nat :=
  let own : List Nat := (List.range 4).map fun i => bankBase s.activeBank + 8 * (4 + 4 * k.idx + i)
  let blk : List Nat := (List.range (s.blockOf s.activeBank k).length).map fun i => bankBase s.activeBank + 8 * (k.param + i)
  own ++ blk

/-- The state in which a stake's Run is opened: SCH has read its words, the ports are back from PA_FAULT and head retries,
their coefficients are loaded, and its units are claimed (R40, R88, R95, R208, R249). -/
def State.beforeStake (s : State) (k : Stake) : State :=
  let s0 := s.touchAll (s.stakeAddrs k)
  let s1 := (s0.setSch { s0.sch with next := k.idx + 1 }).setCxp { s0.cxp with lead := s0.cxp.lead.filter (· ≠ k.idx) }
  let s2 := s1.each k.ports fun s p => (if isUhfPort p then s.paReturn p else s).retryOver p
  (s2.each k.ports fun s p => s.loadCoefs p).claim k

/-- The Run of a stake that starts (R25, R40), with the detuned heads of R93. -/
def State.stakeRun (s : State) (k : Stake) (start : Nat) : Run :=
  { s.openRun k start with detuned := k.ports.any s.headDetuned }

/-- The Run is entered: held fields of its ports pass to it, the trace records it, and CXP drives its wires. A grant that falls for it
wakes the stakes that wait (R39, R214). -/
def State.addStake (s : State) (k : Stake) (r : Run) : State :=
  let held := heldBefore s.planStakes k
  let s0 := s.each k.ports fun s p => s.modPort p fun x => { x with hold := none, timedOut := x.timedOut && held }
  let s1 := (s0.hopLengths r).setRuns (s.runs ++ [r])
  (((s1.trace 0x01 k.port (k.idx * 2 ^ 32 + k.template * 2 ^ 24 + k.pitch * 2 ^ 16)).protectStart k).driveCxp).wakeWaiting

/-- What the stake does from S on: its work, a wait for the grant, or no radio action (R39, R211, R325). -/
def State.launch (s : State) (k : Stake) (r : Run) : State :=
  match s.stakeBlock k (heldBefore s.planStakes k) with
  | some st => s.startInert r st
  | none =>
    if k.template = 0x20 then s.calStart r
    else if s.granted r then s.beginWork r (r.start + 16)
    else if k.denyWait then s.putRun { r with phase := .waiting }
    else s.startInert r .coexDenied

/-- STAKE_START (R40): the stakes of the cycle start in index order, each at its S. An uncorrectable word of the active
plan bank is critical (R257). -/
def State.stakeStart (s : State) (idx : Nat) : State :=
  let k := s.planStake idx
  let start := s.fld R.schCycleStart F.schCycleStart.start + k.start
  if !s.up || !s.running || decide (idx ≠ s.sch.next) || decide (s.planCount s.activeBank ≤ idx) ||
      decide (s.now < start) || k.ports.any (fun p => (s.runAt p).isSome) then s
  else if (s.stakeAddrs k).any s.isUe then (s.touchAll (s.stakeAddrs k)).eccCritical
  else
    let s1 := s.beforeStake k
    let r := s1.stakeRun k start
    (s1.addStake k r).launch k r

/-- TRIGGER_RUN_START (R63, R64, R384): the work of a TRIGGER_INV stake starts and its latch clears. -/
def State.triggerStart (s : State) (p : Nat) : State :=
  match s.runAt p with
  | none => s
  | some r =>
    match s.latchOf (blkTrig r.block) r.port with
    | none => s
    | some n =>
      if r.template ≠ 0x30 ∨ r.phase ≠ .dispatched ∨ r.inert.isSome ∨ s.now < r.readyAt then s
      else if s.inhibited then s.startInert r .inhibited
      else
        let s1 := s.clearLatch (blkTrig r.block) r.port
        let r1 : Run := { r with absorbed := n, workAt := some s.now, readyAt := s.now }
        s1.startWork r1 s.now

/-! ### The end of a stake -/

/-- After the CAL_SLICE stake of a rotation: one that was not handed over, or the spare itself, leaves its load, which takes the
port switch 80 ticks (R72), and ends its rotation here; a covered one stays on its load until its return (R325). -/
def State.calEnd (s : State) (r : Run) : State :=
  let k := kindOf r.port
  match (s.rotor k).rot with
  | none => s
  | some x =>
    if x.calibrated ∧ s.coveredPort k ≠ some x.slice ∧ x.calAt = some r.stop then
      (s.setRotor k { s.rotor k with rot := none }).offLoad k x.slice
    else if x.slice = spareOf k then s.offLoad k x.slice
    else s

/-- The running coefficients return to the registers, unless a host has written one since S (R88). DESIGN CHOICE
(notes/assumptions/75.md): a host's write of one coefficient holds back all four of the port. -/
def State.storeCoefs (s : State) (r : Run) : State :=
  s.each (r.stake.ports.filter isHfPort) fun s p =>
    if (s.port p).coefWritten then s
    else s.each (List.range 4) fun s j =>
      s.setReg (R.hfaCancelCoef p j) (SMap.look (resetWord (R.hfaCancelCoef p j)) r.cfg (R.hfaCancelCoef p j))

/-- The ports of the stake that continues the field of a stake, the next one on its port (R46). -/
def State.heldPorts (s : State) (k : Stake) : List Nat :=
  match nextOnPort s.planStakes k with
  | some x => x.ports
  | none => []

/-- STAKE_END (R40, R88, R249): the active ticks end. A field that is held stays for the stake that continues it. -/
def State.stakeEnd (s : State) (p : Nat) : State :=
  match s.runAt p with
  | none => s
  | some r0 =>
    if s.now < r0.stop then s
    else
      let s1 := if r0.phase = .tail then s else s.beginTail r0
      let r := (s1.runAt p).getD r0
      let s2 := (((s1.unclaim r.stake).storeCoefs r).dropRun r0).awnStop r
      let s3 := s2.trace 0x02 p (r.stake.idx * 2 ^ 32 + r.lastStatus.code * 2 ^ 24 + r.exchCount % 65536)
      let s4 := if r.template = 0x20 then (s3.calEnd r).updateReserve false else s3
      let next := s4.heldPorts r.stake
      let s5 := s4.each r.stake.ports fun s q =>
        if !isPort q ∨ ((s.port q).hold.isSome ∧ q ∈ next) then s
        else
          let s1 := (s.modPort q fun x => { x with hold := none }).settleSlice q r.rampTicks
          -- the pins of a port at rest stand at the safe levels of the register again (R25, R207)
          if isUhfPort q ∧ ((s1.slice (s1.server q)).st = .standby ∨ (s1.slice (s1.server q)).st = .off) then s1.pinsSafe q else s1
      s5.driveCxp

/-! ### The commands -/

def execMajorCycleBoundary (s : State) : Host.Outcome State Fault Refusal := .next s.boundary

def execPlanStart (s : State) : Host.Outcome State Fault Refusal := .next s.planStart

def execSchSwap (_m : PMaster) (s : State) : Host.Outcome State Fault Refusal := .next s.schSwap

def execSchCancel (_m : PMaster) (s : State) : Host.Outcome State Fault Refusal := .next s.schCancel

def execSchRunWrite (_m : PMaster) (run : Bool) (s : State) : Host.Outcome State Fault Refusal := .next (s.schRun run)

def execPlanCheckDone (s : State) : Host.Outcome State Fault Refusal := .next s.checkDone

def execStakeStart (idx : Nat) (s : State) : Host.Outcome State Fault Refusal :=
  if idx < 8192 then .next (s.stakeStart idx) else .fault .noSuchResource

def execTriggerRunStart (port : Nat) (s : State) : Host.Outcome State Fault Refusal :=
  if isPort port then .next (s.triggerStart port) else .fault .noSuchResource

def execStakeEnd (port : Nat) (s : State) : Host.Outcome State Fault Refusal :=
  if isSlice port then .next (s.stakeEnd port) else .fault .noSuchResource

end Sys2Proof.Machine
end

