-- ==== Sys2Proof/Machine/Heads.lean ====
section
/-! DEFINITION. Antenna heads (R92 to R96, R210): what a measurement shows, a head lost, a head that returns, and the
result of a HEAD_CHECK stake. -/

namespace Sys2Proof.Machine

/-- The head class shown for a port. -/
def State.headCls (s : State) (p : Nat) : Nat := s.fld (headReg p) (headFld p F.hfaHeadStatus.cls F.uhaHeadStatus.cls)

/-- Retry time left, in ms, rounded up. -/
def State.retryLeft (s : State) (p : Nat) : Nat :=
  match (s.port p).retryUntil with
  | none => 0
  | some t => (t - s.now + 39999) / 40000

/-- The head status word as it reads: retry_left_ms is live (R98). -/
def State.headWord (s : State) (p : Nat) : Word :=
  Word.put (s.reg (headReg p)) F.hfaHeadStatus.retryLeftMs (s.retryLeft p)

/-- Ticks of the retry timer of a port, as the stake that loses its head has it (R25, HFA_HEAD_CFG, UHA_HEAD_CFG). -/
def Run.retryTicks (r : Run) (p : Nat) : Nat :=
  msTicks (clamp 100 10000 (if isHfPort p then r.fld R.hfaHeadCfg F.hfaHeadCfg.retryMs
    else r.fld R.uhaHeadCfg F.uhaHeadCfg.retryMs))

/-- A measurement is shown: |Z| or return loss, phase and class, with `changed` when the class differs (R92, R98). -/
def State.headShown (s : State) (p : Nat) (o : HeadObs) : State :=
  let w := Word.put (Word.put (Word.put (s.reg (headReg p)) F.hfaHeadStatus.zMag (min 0xFFFF o.mag)) F.hfaHeadStatus.zPhase
    o.phase.toNat) F.hfaHeadStatus.cls (headClass p o)
  let s1 := (s.setReg (headReg p) w).stamp (s.server p)
  if headClass p o = s.headCls p then s1 else s1.setBit (headReg p) F.hfaHeadStatus.changed true

/-- A measurement is shown, and a change into or out of DETUNED goes to pitch 0 (R93); `told` when another HEALTH packet says
that the head has gone (R94). -/
def State.showHead (s : State) (p : Nat) (o : HeadObs) (told : Bool) : State :=
  let old := s.headCls p
  let cls := headClass p o
  let s1 := s.headShown p o
  if cls ≠ old ∧ (cls = 2 ∨ old = 2) ∧ !(told && headGone cls) then s1.health p .ok 0x010E cls [] else s1

/-- Site time of the first of the bad samples that run (R95), now when none has come before. -/
def State.badFrom (s : State) (p : Nat) : Nat :=
  let x := s.port p
  if x.badSamples = 0 then s.now else x.badSince

/-- The save records of a port are dropped because its head has gone (R94). -/
def State.dropPortRecords (s : State) (p : Nat) : State :=
  let gone := s.records.filter fun x => decide (x.port = p)
  (s.setRecords (s.records.filter fun x => decide (x.port ≠ p))).each gone fun s x =>
    s.event x.fifo x.pitch x.port .headAbsent 0x0001 0 []

/-- A slice goes to OFF without ramp, and is there by a tick: on UHF within 5 µs of the first bad sample (R210). -/
def State.darkBy (s : State) (n due : Nat) : State := (s.darkSlice n).modSlice n fun x => { x with due := min x.due due }

/-- A head is lost in a stake (R94, R95): the slice goes to OFF without ramp, the stake's radio action ends, the packets
go out, and the retry timer runs from the first bad sample. -/
def State.headLost (s : State) (r : Run) (p since cls : Nat) : State :=
  let s1 := s.cutExch r .headAbsent
  let s2 := s1.modRun p fun x => { x with inert := some .headAbsent, lastStatus := .headAbsent }
  let s3 := s2.each (r.stake.ports.map s2.server) fun s n => s.darkBy n (if isHf n then s.now + 200 else since + 200)
  let s4 := (s3.each r.stake.ports fun s q => s.modPort q fun x => { x with hold := none }).modPort p fun x => { x with
    retryUntil := some (since + r.retryTicks p), deciding := false, badSamples := 0 }
  let s5 := s4.event (blkFifo r.block) r.pitch p .headAbsent 0x0002 0 []
  (s5.health p .ok 0x010E cls []).dropPortRecords p

/-- A port is back in service from this stake on (R95, R96, R210). -/
def State.headReturn (s : State) (r : Run) (p : Nat) : State :=
  let s1 := s.modPort p fun x => { x with deciding := false }
  let s2 :=
    if isHfPort p then s1.each (p :: neighbours p) fun s q => s.modPort q fun x => { x with reloadCoef := true }
    else s1.each (List.range 64) fun s b => s.setBit (R.uhaSjcSeed (uhfIdx p) b) F.uhaSjcSeed.valid false
  s2.event (blkFifo r.block) r.pitch p .ok 0x0003 0 []

/-- A GROUP stake runs on without a member whose head has gone: its amplitude is 0 (R84). Its pitch and pitch 0 hear of it,
and its timer runs (R94, R95; notes/assumptions/76.md). -/
def State.memberLost (s : State) (r : Run) (p since cls : Nat) : State :=
  let s1 := (s.darkSlice (s.server p)).modPort p fun x => { x with
    retryUntil := some (since + r.retryTicks p), deciding := false, badSamples := 0, hold := none }
  let s2 := s1.modRun p fun x => { x with missing := List.append x.missing [p] }
  ((s2.event (blkFifo r.block) r.pitch p .headAbsent 0x0002 0 []).health p .ok 0x010E cls []).dropPortRecords p

/-- The head is measured at the up-ramp of a field-raising stake (R92, R94, R95). -/
def State.rampHead (s : State) (r : Run) (p : Nat) (o : HeadObs) : State :=
  let cls := headClass p o
  let s1 := s.showHead p o true
  if headGone cls then
    if r.stake.group ∧ (r.stake.ports.filter fun q => decide (q ∉ r.missing)) ≠ [p] then s1.memberLost r p (s.badFrom p) cls
    else s1.headLost r p (s.badFrom p) cls
  else
    let s2 := if (s1.port p).deciding then s1.headReturn r p else s1
    s2.modRun p fun x => { x with detuned := r.stake.ports.any s2.headDetuned }

/-- The result of a HEAD_CHECK stake (R93, R95, R210): its EVENT, the return of the port, or the start of its timer. -/
def State.headResult (s : State) (r : Run) (p since : Nat) (o : HeadObs) : State :=
  let cls := headClass p o
  let running := (s.port p).retryUntil.isSome
  let s1 := s.showHead p o !running
  let s2 := s1.event (blkFifo r.block) r.pitch p .ok 0x0004 cls [s1.headWord p]
  if headGone cls then (if running then s2 else s2.headLost r p since cls)
  else if (s2.port p).deciding then s2.headReturn r p
  else s2

/-- A sample of a field that is up: four bad ones running take the head for lost, and end the whole stake, a GROUP stake too
(R94, R210; notes/assumptions/76.md). In a HEAD_CHECK that has
not measured yet they are its result, and the field goes (R93, R95). -/
def State.headSample (s : State) (r : Run) (p : Nat) (o : HeadObs) : State :=
  let cls := headClass p o
  if !headGone cls then s.modPort p fun x => { x with badSamples := 0 }
  else
    let x := s.port p
    let since := s.badFrom p
    let s1 := s.modPort p fun x => { x with badSamples := x.badSamples + 1, badSince := since }
    let y := s.slice (s.server p)
    if x.badSamples + 1 < 4 then s1
    else if r.template = 0x21 ∧ y.st ≠ .rampDown ∧ y.st ≠ .uRampDown ∧ y.path ≠ [.off] then
      let t := s1.headResult r p since o
      if x.retryUntil.isSome then t.darkSlice (t.server p) else t
    else if x.retryUntil.isSome then s1
    else (s1.showHead p o true).headLost r p since cls

def execHeadRetryExpired (port : Nat) (s : State) : Host.Outcome State Fault Refusal :=
  if isPort port then .next (s.retryOver port) else .fault .noSuchResource

end Sys2Proof.Machine
end

