-- ==== Sys2Proof/Machine/HfField.lean ====
section
/-! DEFINITION. HF slices: their timed transitions (R71 to R76), the load monitor (R94), and the cancellation coefficients
(R86 to R88). -/

namespace Sys2Proof.Machine

/-- The port that a slice serves now (R11, R27). -/
def State.portOf (s : State) (n : Nat) : Option Nat :=
  if n = spareOf (kindOf n) then
    (match s.coveredPort (kindOf n) with
     | some p => if s.server p = n then some p else none
     | none => none)
  else if s.server n = n then some n else none

/-- The running stake that a slice works for. -/
def State.runOf (s : State) (n : Nat) : Option Run :=
  match s.portOf n with
  | none => none
  | some p => s.runAt p

/-- A stake's front is over when every slice of it is up: its exchanges may start after the guard time (R44). -/
def State.frontDone (s : State) (p : Nat) : State :=
  match s.runAt p with
  | none => s
  | some r =>
    if r.phase = .front ∧ s.fieldUp r then
      s.putRun { r with phase := .active, readyAt := s.now + r.guardTime }
    else s

/-- A slice has reached FIELD in a stake; a HEAD_CHECK measures for 20 µs and lowers it (R93). -/
def State.fieldArrived (s : State) (r : Run) (n p : Nat) (o : SliceObs) : State :=
  let s1 := s.showDrive r n p o
  if r.template = 0x21 then
    let r1 : Run := { r with phase := .active }
    (s1.putRun r1).modSlice n fun x => { x with path := [.rampDown, .armed, .quiet], due := s.now + 800 }
  else (s1.rampHead r p o.head).frontDone p

/-- A slice whose field is down delivers nothing (R81, R98). -/
def State.driveRest (s : State) (n : Nat) : State := if (s.slice n).st.hot then s else s.driveNone n

/-- HF_STATE_TRANSITION_DONE (R72). -/
def State.hfDone (s : State) (n : Nat) (o : SliceObs) : State :=
  if !s.sliceDue n then s
  else
    match s.portOf n, s.runOf n with
    | some p, some r =>
      let old := (s.slice n).st
      let s1 := s.arrive n r.rampTicks r.alt
      let st := (s1.slice n).st
      let s2 :=
        if st = .field ∧ old ≠ .field then s1.fieldArrived r n p o
        else if st = .rampDown ∧ old = .field ∧ r.template = 0x21 then s1.headResult r p (s1.badFrom p) o.head
        else if st = .armed ∧ (s1.slice n).path = [] ∧ r.ampOf p = 0 then s1.frontDone p
        else if st = .hfListen then s1.putRun { r with phase := if r.phase = .front then .active else r.phase }
        else s1
      (s2.driveRest n).driveCxp
    | _, _ => ((s.arrive n 0 false).driveRest n).driveCxp

/-- LOAD_MONITOR_SAMPLE (R94): while the port's field is up or ramping in a stake. -/
def State.loadSample (s : State) (p : Nat) (o : HeadObs) : State :=
  let n := s.server p
  if !s.up ∨ !(s.slice n).st.hot then s
  else
    match s.runAt p with
    | none => s
    | some r =>
      let w := Word.put (Word.put (s.reg (R.hfaDriveStatus n)) F.hfaDriveStatus.zMag (min 0xFFFF o.mag))
        F.hfaDriveStatus.zPhase o.phase.toNat
      (((s.setReg (R.hfaDriveStatus n) w).stamp n).remeasured r n p (s.lastMag n) o).headSample r p o

/-! ### Cancellation (R85 to R88) -/

/-- mu_shift of a port: 0 to 3 act as 4. -/
def Run.muShift (r : Run) (p : Nat) : Nat := max 4 (r.fld (R.hfaCancelCfg p) F.hfaCancelCfg.muShift)

/-- One part of a coefficient after an update: the exact value in 1/2,048, rounded to a neighbouring code and free
where it leaves the format: the manual states neither (notes/assumptions/24.md). `inc` is in 1/2,048^3. -/
def adaptPart (seed shift : Nat) (c inc : Int) : Int :=
  let k : Int := 2 ^ (22 + shift)
  let q := c + inc / k
  let v := if inc % k = 0 then q else q + (Config.freeNat seed % 2 : Nat)
  if -2048 ≤ v ∧ v ≤ 2047 then v else (BitVec.ofNat 12 (Config.freeNat (seed + 1))).toInt

/-- Earliest reply start that the protocol allows, in fc after the command: 2,044 of Krovrel, and of the standards of R12 the
frame delay times (notes/assumptions/89.md). -/
def Run.earliest (r : Run) (c : Cmd) : Nat :=
  let proto := match r.request with
    | some q => reqProto q.words
    | none => r.inner
  if c.krovrel then 2044 else if proto = 2 then 1172 else if proto = 3 then 1024 else if proto = 4 then 4320 else 32768

/-- The step of 16 fc of an exchange's quiet interval that a tick lies in, none outside the interval: from 256 fc after the
frame to 64 fc before the earliest reply start (R87). -/
def Run.quietStep (r : Run) (x : Exch) (now : Nat) : Option Nat :=
  let t := 339 * (now - x.start)
  let a := 1000 * (x.zero + 256)
  if x.seen.isSome ∨ t < a ∨ 1000 * (x.zero + r.earliest x.cmd - 64) < t then none else some ((t - a) / 16000)

/-- Coefficient j of a port moves by 2^−mu_shift · y · conj(d) (R87). -/
def State.adaptCoef (s : State) (r : Run) (p : Nat) (y : Int × Int) (left : List Nat) (cfg : SMap Word) (j : Nat) :
    SMap Word :=
  let d := s.driveOf p left j
  if d = (0, 0) then cfg
  else
    let off := R.hfaCancelCoef p j
    let w := SMap.look (resetWord off) cfg off
    let z := cmul y (d.1, -d.2)
    let re := adaptPart (s.fresh + 4 * j) (r.muShift p) (coefPart w F.hfaCancelCoef.re) z.1
    let im := adaptPart (s.fresh + 4 * j + 2) (r.muShift p) (coefPart w F.hfaCancelCoef.im) z.2
    SMap.put (resetWord off) cfg off (Word.put (Word.put w F.hfaCancelCoef.re (BitVec.ofInt 12 re).toNat)
      F.hfaCancelCoef.im (BitVec.ofInt 12 im).toNat)

/-- CANCEL_ADAPT (R86, R87): x is the receiver's complex baseband input on a port, in 1/2,048, and `left` what modulation leaves
of each neighbour's drive; once every 16 fc of the quiet
interval of an exchange each coefficient whose neighbour drives moves. -/
def State.cancelAdapt (s : State) (p : Nat) (x : Int × Int) (left : List Nat) : State :=
  match s.runAt p with
  | none => s
  | some r =>
    match r.exch with
    | none => s
    | some e =>
      match r.quietStep e s.now with
      | none => s
      | some k =>
        if !r.bit (R.hfaCancelCfg p) F.hfaCancelCfg.adapt ∨ p ∈ r.missing ∨ k < SMap.look 0 e.adapted p then s
        else
          (s.skip 16).putRun { r with
            cfg := (List.range 4).foldl (s.adaptCoef r p (r.cancelled p x (s.driveOf p left)) left) r.cfg
            exch := some { e with adapted := SMap.ins p (k + 1) e.adapted } }

/-- CANCEL_RELOAD (R88): slice 32 has no coefficients of its own (R98). -/
def State.cancelReload (s : State) (p : Nat) : State :=
  if !s.up ∨ p = 32 then s
  else
    let s1 := match SMap.find s.tick.reloads p with
      | some _ => s
      | none => s.setTick { s.tick with reloads := SMap.ins p (s.port p).reloadCoef s.tick.reloads }
    (s1.setBit (R.hfaCancelCfg p) F.hfaCancelCfg.reload true).modPort p fun x => { x with reloadCoef := true }

/-! ### The commands -/

def execHfStateTransitionDone (slice : Nat) (obs : SliceObs) (s : State) : Host.Outcome State Fault Refusal :=
  if isHfSlice slice then .next (s.hfDone slice obs) else .fault .noSuchResource

def execLoadMonitorSample (port : Nat) (obs : HeadObs) (s : State) : Host.Outcome State Fault Refusal :=
  if isHfPort port then .next (s.loadSample port obs) else .fault .noSuchResource

def execCancelAdapt (port : Nat) (x : Int × Int) (left : List Nat) (s : State) :
    Host.Outcome State Fault Refusal :=
  if isHfPort port then .next (s.cancelAdapt port x left) else .fault .noSuchResource

def execCancelReload (_m : PMaster) (port : Nat) (s : State) : Host.Outcome State Fault Refusal :=
  if isHfSlice port then .next (s.cancelReload port) else .fault .noSuchResource

end Sys2Proof.Machine
end

