-- ==== Sys2Proof/Machine/UhfRadio.lean ====
section
/-! DEFINITION. UHF slices: their timed transitions (R188 to R192, R203), the external amplifier (R207 to R209), lock
failures and channel changes (R194, R198), the transmit timeout (R200), and the Γ samples of the coupler (R210). -/

namespace Sys2Proof.Machine

/-! ### The external amplifier (R207 to R209) -/

/-- PAn_FAULT_N takes a port out of service (R208): OFF, pins safe, SLICE_SUSPECT, HEALTH. -/
def State.paFaultHit (s : State) (p : Nat) : State :=
  let s1 := match s.runAt p with
    | none => s
    | some r => s.stopRadio r .sliceSuspect
  let s2 := (s1.sliceTo (s1.server p) .off).pinsSafe p
  let s3 := (s2.setBit (R.uhaPaStatus (uhfIdx p)) F.uhaPaStatus.fault true).modPort p fun x =>
    { x with paFault := true, hold := none }
  s3.health p .ok 0x0111 0 []

/-- Entry into SYNTH → RAMP_UP: the sequence starts with PAn_BIAS, or stops at a low PAn_FAULT_N (R207). -/
def State.paStart (s : State) (p : Nat) : State :=
  if !s.paExt p then s.pinsSafe p
  else if (s.port p).faultLow then s.paFaultHit p
  else (s.setPins p (s.paActive p) 1).modPort p fun x => { x with paStep := some 2, paSince := s.now }

/-- Tick at which step k of the sequence falls. -/
def State.paDue (s : State) (p k : Nat) : Nat :=
  let d1 := Word.get (s.paWord p) F.uhaPaCfg.d1Us
  let d2 := Word.get (s.paWord p) F.uhaPaCfg.d2Us
  let d3 := Word.get (s.paWord p) F.uhaPaCfg.d3Us
  (s.port p).paSince + usTicks (if k = 2 then d1 else if k = 3 then d1 + d2 else d1 + d2 + d3)

/-- Level of PAn_MODE: pa_mode of the block. A HEAD_CHECK block has none, and the level is free
(notes/assumptions/25.md). -/
def State.paMode (s : State) (p : Nat) : Bool :=
  match s.runAt p with
  | some r => if r.template = 0x21 then decide (Config.freeNat s.fresh % 2 = 1) else decide (bf r.block 2 29 29 = 1)
  | none => false

/-- PA_SEQUENCE_STEP (R207): EN at d1, MODE at d1 + d2, drive allowed at d1 + d2 + d3. -/
def State.paSequence (s : State) (p : Nat) : State :=
  match (s.port p).paStep with
  | none => s
  | some k =>
    if s.now < s.paDue p k then s
    else if k = 2 then (s.setPins p (s.paActive p) 2).modPort p fun x => { x with paStep := some 3 }
    else if k = 3 then
      ((s.setPins p (if s.paMode p then 4 else 0) 4).skip 1).modPort p fun x => { x with paStep := some 4 }
    else s.modPort p fun x => { x with paStep := none }

/-- PA_FAULT (R208): a filtered level of PAn_FAULT_N. -/
def State.paFaultPin (s : State) (p : Nat) (low : Bool) : State :=
  let s1 := (s.modPort p fun x => { x with faultLow := low }).setBit (R.uhaPaStatus (uhfIdx p)) F.uhaPaStatus.faultPin low
  if low ∧ s.up ∧ s.paExt p ∧ (s.port p).paPins.getLsbD 0 = (s.paActive p).getLsbD 0 ∧ (s.runAt p).isSome then
    s1.paFaultHit p
  else s1

/-- PA_FAULT_CLEAR (R208): only while the pin is high. -/
def State.paFaultClear (s : State) (p : Nat) : State :=
  if !s.up ∨ p = 80 ∨ (s.port p).faultLow then s
  else s.setBit (R.uhaPaStatus (uhfIdx p)) F.uhaPaStatus.fault false

/-- UHA_PA_CFG_WRITE (R6, R207): refused when d1 + d2 + d3 exceeds 30 µs. -/
def State.paCfgWrite (s : State) (p : Nat) (v : Word) : State :=
  if !s.up ∨ p = 80 ∨ s.locked then s
  else if 30 < Word.get v F.uhaPaCfg.d1Us + Word.get v F.uhaPaCfg.d2Us + Word.get v F.uhaPaCfg.d3Us then
    s.setBit (R.uhaPaStatus (uhfIdx p)) F.uhaPaStatus.cfgRefused true
  else
    let s1 := s.hostWrite (R.uhaPaCfg (uhfIdx p)) v
    -- outside a stake the pins rest at the new safe levels
    if (s.runAt p).isNone ∧ ((s.slice (s.server p)).st = .off ∨ (s.slice (s.server p)).st = .standby) then
      s1.modPort p fun x => { x with
        paPins := BitVec.ofNat 3 (Word.get (s1.reg (R.uhaPaCfg (uhfIdx p))) F.uhaPaCfg.safe), paStep := none }
    else s1

/-! ### Transitions -/

/-- Measured power as a tx_pwr code: held within ±0.5 dB of the set power into a head of class PRESENT, on the spare within
±0.25 dB (R28), and not regulated with an external amplifier (R190). -/
def State.txMeasured (s : State) (r : Run) (p : Nat) (o : SliceObs) : Nat :=
  let set := s.txPower r
  let d := if (s.port p).covered then 1 else 2
  if r.paExt ∨ uhfHead o.head ≠ 1 then o.power.toNat else clamp (set - d) (set + d) o.power.toNat

/-- The slice shows its transmitter at a sample (R26, R219). -/
def State.txShown (s : State) (r : Run) (n p : Nat) (o : SliceObs) : State :=
  (s.setFld (R.uhaTxStatus (uhfIdx n)) F.uhaTxStatus.tx (s.txMeasured r p o)).stamp n

/-- The self-jammer canceller at a sample: the vector, and what UHA_SJC_STATUS shows (R202, R203). -/
def State.sjcShown (s : State) (n p : Nat) (o : SliceObs) : State :=
  let st := R.uhaSjcStatus (uhfIdx n)
  ((s.setFld st F.uhaSjcStatus.rejDb o.rejDb.toNat).setFld st F.uhaSjcStatus.converged o.sjcConverged.toNat).modPort p
    fun x => { x with sjcW := o.sjcW, sjcConverged := o.sjcConverged }

/-- Convergence that came after the front: HLT counts the extra time as growth of the settling term, the fourth of R346
(R203, notes/assumptions/90.md). -/
def State.sjcGrown (s : State) (n p : Nat) : State :=
  match (s.port p).sjcLate with
  | none => s
  | some t =>
    if !(s.port p).sjcConverged then s
    else
      let v := 800 + 400 * s.derate n + (s.now - t)
      let grown : List Nat := (List.range 6).map fun i => if i = 3 then max (s.ownTerm n 3) (min 0xFFFF v) else s.ownTerm n i
      ((s.modSlice n fun x => { x with terms := grown }).showTerms n).modPort p fun x => { x with sjcLate := none }

/-- What the slice shows of a carrier that has come up (R203, R219, R342). -/
def State.showTx (s : State) (r : Run) (n p : Nat) (o : SliceObs) : State :=
  let s1 := ((s.txShown r n p o).sjcShown n p o).modPort p fun x => { x with
    sjcLate := if o.sjcConverged then none else some s.now }
  let s2 := if o.sjcConverged then s1 else s1.setBit (R.uhaSjcStatus (uhfIdx n)) F.uhaSjcStatus.sjcLow true
  if s.txCap r n < bf r.block 2 63 56 then s2.capHealth p (s.txCap r n) else s2

/-- A slice has reached CARRIER in a stake. -/
def State.carrierArrived (s : State) (r : Run) (n p : Nat) (o : SliceObs) : State :=
  if r.template = 0x21 then
    let r1 : Run := { r with phase := .active }
    ((s.txShown r n p o).putRun r1).modSlice n fun x => { x with path := [.uRampDown, .synth, .standby], due := s.now + 1600 }
  else
    let s1 := s.showTx r n p o
    let r1 : Run := { r with sjcLow := r.sjcLow || !o.sjcConverged }
    ((s1.putRun r1).rampHead r1 p o.head).frontDone p

/-- A transition that waits for its own event, or for step 4 of the PA sequence, which allows the drive (R198, R207). -/
def State.uhfHeld (s : State) (n : Nat) : Bool :=
  let x := s.slice n
  (decide (x.st = .hop) && decide (x.path = [.carrier])) ||
  (decide (x.path.head? = some .uRampUp) && match s.portOf n with
    | some p => (s.port p).paStep.isSome
    | none => false)

/-- A slice that has left OFF shows the channel of its port again (R26). -/
def State.chanBack (s : State) (old : SliceState) (n p : Nat) : State :=
  if old = .off ∧ (s.slice n).st ≠ .off then s.showChan n p else s

/-- UHF_STATE_TRANSITION_DONE (R189): all but a channel change, which has its own event. -/
def State.uhfDone (s : State) (n : Nat) (o : SliceObs) : State :=
  if !s.sliceDue n ∨ s.uhfHeld n then s
  else
    match s.portOf n, s.runOf n with
    | some p, some r =>
      let old := (s.slice n).st
      let s1 := (s.arrive n r.rampTicks r.alt).chanBack old n p
      let st := (s1.slice n).st
      let goesUp := decide ((s1.slice n).path.head? = some .uRampUp)
      let s2 :=
        if st = .synth then
          (if goesUp then s1.paStart p else s1.setPins p (s1.paSafe p) 6)
        else if st = .uRampUp then
          (s1.startDwell n p s.now).sjcLoad r
        else if st = .carrier then s1.carrierArrived r n p o
        else if st = .uRampDown ∧ old = .carrier ∧ r.template = 0x21 then s1.headResult r p (s1.badFrom p) o.head
        else if st = .listen then s1.putRun { r with phase := if r.phase = .front then .active else r.phase }
        else if st = .standby ∨ st = .off then s1.pinsSafe p
        else s1
      s2.driveCxp
    | some p, none =>
      let s1 := (s.arrive n 0 false).chanBack (s.slice n).st n p
      (if (s1.slice n).st = .standby ∨ (s1.slice n).st = .off then s1.pinsSafe p
       else if (s1.slice n).st = .synth then s1.setPins p (s1.paSafe p) 6 else s1).driveCxp
    | none, _ => s.arrive n 0 false

/-- SYNTH_LOCK_TIMEOUT (R194): 4 × 55 µs after the band calibration started, at STANDBY → SYNTH or in a channel change. -/
def State.lockTimeout (s : State) (p : Nat) : State :=
  let n := s.server p
  let x := s.slice n
  let late := if x.st = .hop then decide (x.due + 3400 ≤ s.now)
    else decide (x.st = .standby) && decide (x.path.head? = some .synth) && decide (x.due + 5000 ≤ s.now)
  if !late ∨ (s.runAt p).isNone then s else (s.failSlice n 1 []).pinsSafe p

/-- CHANNEL_CHANGE_DONE (R198): CARRIER on the new channel; SNG begins a new round with the current Q. DESIGN CHOICE
(notes/assumptions/125.md): a running request goes on with its sequence. -/
def State.hopDone (s : State) (p : Nat) (o : SliceObs) : State :=
  let n := s.server p
  match s.runAt p with
  | none => s
  | some r =>
    if (s.slice n).st ≠ .hop ∨ (s.slice n).path ≠ [.carrier] ∨ !s.sliceDue n then s
    else
      let s1 := ((s.sliceTo n .carrier).sjcLoad r).showTx r n p o
      let r1 : Run := { r with sjcLow := r.sjcLow || !o.sjcConverged }
      if r.request.isSome ∨ r.inner ≠ 0x10 ∨ r.inert.isSome then s1.putRun r1
      else
        let s2 := s1.endWork r1 .abandoned false
        let r2 := (s2.runAt p).getD r1
        let w : Walk := { r2.walk with slot := 0 }
        s2.putRun { r2 with action := none, walk := { w with next := some (firstCmd r2.inner r2.block w.pol w) } }

/-- UHA_TX_TIMEOUT.limit_ms as the stake has it (R25): 1 to 4,000 (R219). -/
def Run.txLimit (r : Run) : Nat := msTicks (clamp 1 4000 (r.fld R.uhaTxTimeout F.uhaTxTimeout.limitMs))

/-- TX_TIMEOUT (R200): a carrier that is already on its way to OFF is not timed out. -/
def State.txTimeout (s : State) (p : Nat) : State :=
  let n := s.server p
  match s.runAt p with
  | none => s
  | some r =>
    if ((s.slice n).st ≠ .carrier ∧ (s.slice n).st ≠ .uRampUp) ∨ (s.slice n).path.head? = some .off ∨
        s.now < (s.port p).chanStart + r.txLimit then s
    -- a channel change due in the same tick takes its place (R201)
    else if s.hopNow r then s.startHop r
    else
      let s1 := (s.sjcDown n p).stopRadio r .txTimeout
      let s2 := s1.sendFrom n 600 s1.now false [.uRampDown, .synth]
      let s3 := (s2.modPort p fun x => { x with timedOut := true }).bump R.uhaTxtoCnt F.uhaTxtoCnt.count
      (s3.health p .ok 0x0110 0 []).driveCxp

/-- The canceller adapts while the slice transmits, and holds w from the end of the command, T1 minimum before the earliest reply
start, to the end of the exchange (R203, notes/assumptions/90.md). -/
def Run.sjcFrozen (r : Run) (now : Nat) : Bool :=
  match r.exch with
  | some x => decide (x.start + x.zero ≤ now)
  | none => false

/-- UHF_GAMMA_SAMPLE (R203, R210): what the slice measures in CARRIER. -/
def State.gammaSample (s : State) (p : Nat) (o : SliceObs) : State :=
  let n := s.server p
  if !s.up ∨ (s.slice n).st ≠ .carrier then s
  else
    match s.runAt p with
    | none => s
    | some r =>
      let s1 := s.txShown r n p o
      (if r.sjcFrozen s.now ∨ r.template = 0x21 then s1 else (s1.sjcShown n p o).sjcGrown n p).headSample r p o.head

/-! ### The commands -/

def execUhfStateTransitionDone (slice : Nat) (obs : SliceObs) (s : State) : Host.Outcome State Fault Refusal :=
  if isUhfSlice slice then .next (s.uhfDone slice obs) else .fault .noSuchResource

def execUhfGammaSample (port : Nat) (obs : SliceObs) (s : State) : Host.Outcome State Fault Refusal :=
  if isUhfPort port then .next (s.gammaSample port obs) else .fault .noSuchResource

def execSynthLockTimeout (port : Nat) (s : State) : Host.Outcome State Fault Refusal :=
  if isUhfPort port then .next (s.lockTimeout port) else .fault .noSuchResource

def execChannelChangeDone (port : Nat) (obs : SliceObs) (s : State) : Host.Outcome State Fault Refusal :=
  if isUhfPort port then .next (s.hopDone port obs) else .fault .noSuchResource

def execTxTimeout (port : Nat) (s : State) : Host.Outcome State Fault Refusal :=
  if isUhfPort port then .next (s.txTimeout port) else .fault .noSuchResource

def execPaSequenceStep (port : Nat) (s : State) : Host.Outcome State Fault Refusal :=
  if isUhfPort port then .next (s.paSequence port) else .fault .noSuchResource

def execPaFault (port : Nat) (low : Bool) (s : State) : Host.Outcome State Fault Refusal :=
  if isUhfPort port then .next (s.paFaultPin port low) else .fault .noSuchResource

def execPaFaultClear (_m : PMaster) (port : Nat) (s : State) : Host.Outcome State Fault Refusal :=
  if isUhfSlice port then .next (s.paFaultClear port) else .fault .noSuchResource

def execUhaPaCfgWrite (_m : PMaster) (port : Nat) (v : Word) (s : State) : Host.Outcome State Fault Refusal :=
  if isUhfSlice port then .next (s.paCfgWrite port v) else .fault .noSuchResource

end Sys2Proof.Machine
end

