-- ==== Sys2Proof/Machine/MinSum.lean ====
section
/-! DEFINITION. The arithmetic of WRD: the bit pairs and patterns of Wide Reply (R161, R163), the channel taps, the sync metric
and the SNR (R172, R173), the likelihoods (R174), and the layered normalised min-sum decoder (R176, R177). Bins are complex
integers; taps stand times 2√2 and the noise times 16, so that every value is a ratio of integers. -/

namespace Sys2Proof.Machine

/-! ### Bit pairs and patterns (R161, R163) -/

/-- √2 · X of a bit pair (R161). -/
def bitPair (i q : Bool) : Int × Int := (if i then -1 else 1, if q then -1 else 1)

/-- √2 · X^T of subcarriers 4 to 11 (R163); the sync symbol carries −X^T. -/
def trainPattern : List (Int × Int) :=
  [bitPair false false, bitPair true false, bitPair true true, bitPair false true, bitPair false false, bitPair false true,
    bitPair true true, bitPair true false]

/-! ### Channel and noise (R172) -/

/-- 2√2 · Ĥ of each subcarrier: (Y0 + Y1) · conj(√2 X^T), or 2 · Y1 · conj(√2 X^T) when training symbol 0 is not used. `y0` is
scaled by `d`, and so is what comes back. -/
def wideTaps (single : Bool) (d : Int) (y0 y1 : List (Int × Int)) : List (Int × Int) :=
  (List.range 8).map fun k =>
    let a := y0.getD k (0, 0)
    let b := y1.getD k (0, 0)
    cmul (if single then (2 * d * b.1, 2 * d * b.2) else (a.1 + d * b.1, a.2 + d * b.2)) (conj (trainPattern.getD k (0, 0)))

/-- 16 · σ̂²: Σ |Y0 − Y1|², or 2 Σ |Y2 + Y1|² when training symbol 0 is not used, where Ĥ X^S = −Y1. -/
def wideNoise (single : Bool) (d : Int) (y0 y1 y2 : List (Int × Int)) : Int :=
  ((List.range 8).map fun k =>
    let a := y0.getD k (0, 0)
    let b := y1.getD k (0, 0)
    let c := y2.getD k (0, 0)
    if single then 2 * d * d * norm2 (c.1 + b.1, c.2 + b.2) else norm2 (a.1 - d * b.1, a.2 - d * b.2)).sum

/-- SNR_k = |Ĥ|² ÷ σ̂² (R172). -/
def snrOf (tap : Rat × Rat) (sigma : Rat) : Rat := 2 * (tap.1 * tap.1 + tap.2 * tap.2) / sigma

/-- ρ of R173: the mean over the subcarriers of Re(conj(X^S) · X̂). A tap of 0 divides by 0, and that term is free
(notes/assumptions/91.md). -/
def syncMetric (seed : Nat) (taps : List (Rat × Rat)) (y2 : List (Int × Int)) : Rat :=
  ((List.range 8).map fun k =>
    let t := taps.getD k (0, 0)
    let z := cmul (conj (trainPattern.getD k (0, 0))) (y2.getD k (0, 0))
    let e := t.1 * t.1 + t.2 * t.2
    if e = 0 then ((Config.freeWord (seed + k)).toInt : Rat) / 65536
    else -2 * (z.1 * t.1 + z.2 * t.2) / e).sum / 8

/-! ### Decibels and codes (R174, R183) -/

/-- The greatest n of 0 to 255 with 10^(k n) ≤ x^m · 10^a: x, raised by a ÷ m of a decade, in steps of k ÷ m of a decade. -/
def decades (m k a : Nat) (x : Rat) : Nat :=
  match (List.range 256).reverse.find? fun n => decide (10 ^ (k * n) * x.den ^ m ≤ x.num.toNat ^ m * 10 ^ a) with
  | some n => n
  | none => 0

/-- A value between n and n + 1 is shown as one of the two (notes/assumptions/91.md). -/
def nearCode (exact : Bool) (x : Rat) (n : Nat) : BitVec 8 :=
  BitVec.ofNat 8 (if exact ∨ 255 ≤ n ∨ !Config.roundUp x then n else n + 1)

/-- A power ratio, raised by a half-dB steps, in 0.5 dB steps: 0 at or below 0 dB, saturating at 255 (R183). -/
def dbCode (a : Nat) (x : Rat) : BitVec 8 :=
  let n := decades 20 1 a x
  if x.num.toNat ^ 20 * 10 ^ a ≤ x.den ^ 20 then 0
  else nearCode (decide (10 ^ n * x.den ^ 20 = x.num.toNat ^ 20 * 10 ^ a)) x n

/-- Mean in dB of eight power ratios, on the scale of `dbCode`: 10^(2n) against the fifth power of their product (R183). -/
def dbMean (l : List Rat) : BitVec 8 :=
  let x := l.foldl (· * ·) 1
  let n := decades 5 2 0 x
  if x ≤ 1 then 0 else nearCode (decide (10 ^ (2 * n) * x.den ^ 5 = x.num.toNat ^ 5)) x n

/-- RSSI in 0.5 dB steps below 0 dBm of a mean energy of the bins (R173): `ref` is the energy that 0 dBm gives at gain code 0, and
each gain code is 6 dB (R171), twelve of the steps. No energy at all reads as the lowest power. -/
def wideRssi (ref : Nat) (gain : Nat) (mean : Rat) : BitVec 8 := if mean ≤ 0 then 255 else dbCode (12 * gain) ((ref : Rat) / mean)

/-- A subcarrier is erased: its SNR lies below the threshold in 0.5 dB steps, which 0 turns off (R174, R187). -/
def erasedAt (least : Nat) (snr : Rat) : Bool := decide (least ≠ 0) && decide (snr.num.toNat ^ 20 < 10 ^ least * snr.den ^ 20)

/-- Keep within ±n. -/
def satTo (n : Int) (x : Int) : Int := max (-n) (min n x)

/-- The two likelihoods of a subcarrier in steps of 0.5, of 6 bits (R174): L = 2√2 · Re(Y · conj(Ĥ)) ÷ σ̂², and the imaginary
part. -/
def likelihoods (tap : Rat × Rat) (sigma : Rat) (y : Int × Int) : List Int :=
  [satTo 31 (quant (32 * (y.1 * tap.1 + y.2 * tap.2) / sigma)), satTo 31 (quant (32 * (y.2 * tap.1 - y.1 * tap.2) / sigma))]

/-- The sixteen likelihoods of a data symbol, subcarrier by subcarrier, I before Q: the order of its bits in the codeword
(R169, R174). -/
def symbolLlr (w : Wide) (y : List (Int × Int)) : List Int :=
  (List.range 8).flatMap fun k =>
    if w.erased.getD k false then [0, 0] else likelihoods (w.taps.getD k (0, 0)) w.sigma (y.getD k (0, 0))

/-! ### The decoder (R176, R177) -/

/-- A decoder's posteriors of the 1,040 bits, and the messages of each of the 208 checks, in the order of its bits. -/
structure MinSum where
  post : List Int
  msgs : List (List Int)
  deriving DecidableEq, Repr

/-- Before the first iteration: the likelihoods, and no messages. -/
def MinSum.start (llr : List Int) : MinSum :=
  { post := (List.range 1040).map fun i => llr.getD i 0, msgs := List.replicate 208 [] }

/-- The bits of check i of row r (R167). -/
def checkBits (r i : Nat) : List Nat := (baseRow r).map fun x => 52 * x.1 + (i + x.2) % 52

/-- A magnitude scaled by norm ÷ 16, held in 6 bits (R176); between two values, one of them (notes/assumptions/91.md). -/
def scaled (norm v : Nat) : Nat := min 31 (quant ((v * norm : Nat) / (16 : Rat))).toNat

/-- The message to one bit of a check: the sign of the product and the least magnitude of what the others say, scaled. -/
def checkMsg (norm : Nat) (q : List Int) (j : Nat) : Int :=
  let o := q.eraseIdx j
  let least := o.foldl (fun a x => min a x.natAbs) 255
  let neg := o.foldl (fun a x => a != decide (x < 0)) false
  if neg then -(scaled norm least : Int) else scaled norm least

/-- One check of a layer: what its bits say without its old messages, its new ones, and the posteriors of 8 bits (R176). -/
def MinSum.check (norm r : Nat) (m : MinSum) (i : Nat) : MinSum :=
  let bits := checkBits r i
  let old := m.msgs.getD (52 * r + i) []
  let q := (List.range bits.length).map fun j => m.post.getD (bits.getD j 0) 0 - old.getD j 0
  let new := (List.range bits.length).map (checkMsg norm q)
  { post := (List.range bits.length).foldl (fun l j =>
      l.set (bits.getD j 0) (max (-128) (min 127 (q.getD j 0 + new.getD j 0)))) m.post
    msgs := m.msgs.set (52 * r + i) new }

/-- One iteration: rows 0 to 3 in order, 52 checks each (R176). -/
def MinSum.iterate (norm : Nat) (m : MinSum) : MinSum :=
  (List.range 4).foldl (fun m r => (List.range 52).foldl (MinSum.check norm r) m) m

/-- Hard decisions: 1 where the posterior is negative (R176). -/
def MinSum.bits (m : MinSum) : BitVec 1040 := BitVec.ofNat 1040 (bitsVal (m.post.map fun x => decide (x < 0)))

/-- At most n iterations more, k done: with early stop a test that finds the codeword converged ends them (R177). -/
def MinSum.run (norm : Nat) (early : Bool) : Nat → Nat → MinSum → Nat × MinSum
  | 0, k, m => (k, m)
  | n + 1, k, m => if early && converged m.bits then (k, m) else MinSum.run norm early n (k + 1) (m.iterate norm)

/-- A codeword decoded: converged, iterations, bits whose decision differs from the sign of their likelihood, and info bits
(R176, R177, R183). DESIGN CHOICE (notes/assumptions/124.md): a likelihood of 0 counts as the sign of bit 0. -/
def decodeWord (norm : Nat) (early : Bool) (most : Nat) (llr : List Int) : Bool × Nat × Nat × BitVec 832 :=
  let e := MinSum.run norm early most 0 (MinSum.start llr)
  let v := e.2.bits
  let flips := (List.range 1040).countP fun i => v.getLsbD i != decide (llr.getD i 0 < 0)
  (converged v, e.1, min 1023 flips, v.setWidth 832)

end Sys2Proof.Machine
end

