-- ==== Sys2Proof/Machine/WideReply.lean ====
section
/-! DEFINITION. The receiver and the decoders of Wide Reply (R170 to R178): the end of the sync window, of each symbol
window, and the start and end of each codeword. -/

namespace Sys2Proof.Machine

/-- The exchange is a READ_WIDE of m codewords whose reply has been seen on time. -/
def Exch.wideM (x : Exch) : Option Nat :=
  match x.cmd, x.seen with
  | .kReadWide _ m, some o => if o.offTime then none else some m
  | _, _ => none

/-- The window of symbol j of a reply has ended: 70 fc after t̂ + 72 j, counted on the carrier (R4, R170). -/
def State.windowOver (s : State) (x : Exch) (l : Latched) (j : Nat) : Bool :=
  decide (1000 * (x.zero + l.offset + 72 * j + 70) ≤ 339 * (s.now - x.start))

/-- ρ passes the sync limit, which 0 turns off (R173, R187). -/
def Run.syncOk (r : Run) (rho : Rat) : Bool :=
  decide (r.fld R.wrdCfg F.wrdCfg.syncMin = 0) || decide ((r.fld R.wrdCfg F.wrdCfg.syncMin : Rat) ≤ 256 * rho)

/-- Ratio of the gains after and before the step of the fast AGC of a slice, in 1/65,536: 1 when there was no step (R171). -/
def gainStep (n : Nat) (l : Latched) : Int := if l.startGain = l.gain then 65536 else Config.gainRatio n l.startGain.toNat l.gain.toNat

/-- A window of a receiver times a number. -/
def scaleSample (g : Int) (w : Sample) : Sample :=
  { x := (g * w.x.1, g * w.x.2), drive := w.drive.map fun d => (g * d.1, g * d.2) }

/-- Training symbol 0: the samples before the step of the fast AGC are rescaled by the ratio of the two gains of the slice that
took them (R171); the bins come in 1/65,536. -/
def State.trainZero (s : State) (r : Run) (l : Latched) (before after : List (List Sample)) : List (Int × Int) :=
  let old := r.bins l.phases ((List.range before.length).map fun i =>
    (before.getD i []).map fun w => scaleSample (gainStep (s.server (r.port + i)) l) w)
  let new := r.bins l.phases after
  (List.range 8).map fun k =>
    let a := old.getD k (0, 0)
    let b := new.getD k (0, 0)
    (a.1 + 65536 * b.1, a.2 + 65536 * b.2)

/-- What WRD estimates from the training symbols and the sync symbol (R172 to R174), fixed for the rest of the reply. -/
def State.wideEstimate (s : State) (r : Run) (l : Latched) (w : Wide) (o : WideObs) : Wide :=
  let n := r.rxPorts.map s.server
  let d : Int := 65536
  let y0 := s.trainZero r l o.before o.after
  let y1 := r.bins l.phases o.train
  let y2 := r.bins l.phases o.sync
  let taps := (wideTaps w.singleTrain d y0 y1).map fun a => ((a.1 : Rat) / d, (a.2 : Rat) / d)
  let sigma := max ((Config.wideFloor n : Rat) + 1) ((wideNoise w.singleTrain d y0 y1 y2 : Rat) / (d * d))
  let snr := taps.map fun t => snrOf t sigma
  let e0 := (energyOf y0 : Rat) / (d * d)
  { w with
    syncDone := true, rho := syncMetric s.fresh taps y2, taps := taps, sigma := sigma
    energy := if w.singleTrain then energyOf y1 else (e0 + energyOf y1) / 2
    rssi := wideRssi (Config.wideRef n + 1) l.gain.toNat ((energyOf y2 : Rat) / 8)
    snr := snr.map (dbCode 0), snrMean := dbMean snr, erased := snr.map (erasedAt (r.fld R.wrdCfg F.wrdCfg.eraseSnr)) }

/-- WIDE_SYNC_END (R171 to R174): the bins of the training symbols and of the sync symbol are in; ρ below the limit is
counted. -/
def State.wideSync (s : State) (p : Nat) (o : WideObs) : State :=
  match s.runAt p with
  | none => s
  | some r =>
    match r.exch with
    | none => s
    | some x =>
      match x.wideM, x.seen with
      | some _, some l =>
        if x.wide.syncDone ∨ !s.windowOver x l 2 then s
        else
          let w := s.wideEstimate r l x.wide o
          let l1 : Latched := { l with rssi := w.rssi }
          let s1 := ((s.skip 8).showReply r l1).putRun { r with exch := some { x with seen := some l1, wide := w } }
          if r.syncOk w.rho then s1 else s1.bump R.wrdSyncFailCnt F.wrdSyncFailCnt.count
      | _, _ => s

/-- A data symbol lies more than 15 dB below the mean energy of the training symbols used (R175). -/
def Wide.low (w : Wide) (y : List (Int × Int)) : Bool :=
  decide (((energyOf y : Rat) * energyOf y) * 1000 < w.energy * w.energy)

/-- WIDE_SYMBOL_WINDOW_END (R174, R175): the bins of a data symbol become likelihoods; a low symbol ends the reply. -/
def State.wideSymbol (s : State) (p : Nat) (bins : List (List Sample)) : State :=
  match s.runAt p with
  | none => s
  | some r =>
    match r.exch with
    | none => s
    | some x =>
      match x.wideM, x.seen with
      | some m, some l =>
        if !x.wide.syncDone ∨ !r.syncOk x.wide.rho ∨ x.wide.early ∨ 65 * m ≤ x.wide.symbols ∨
            !s.windowOver x l (3 + x.wide.symbols) then s
        else
          let y := r.bins l.phases bins
          let w : Wide := if x.wide.low y then { x.wide with early := true }
            else { x.wide with symbols := x.wide.symbols + 1, llr := x.wide.llr ++ symbolLlr x.wide y }
          s.putRun { r with exch := some { x with wide := w } }
      | _, _ => s

/-- Fields of WRD_STATUS of a decoder. -/
def decBusy (d : Nat) : Fld := if d = 0 then F.wrdStatus.dec0Busy else F.wrdStatus.dec1Busy
def decCw (d : Nat) : Fld := if d = 0 then F.wrdStatus.dec0Cw else F.wrdStatus.dec1Cw

/-- The running stake that holds a decoder. -/
def State.decoderRun (s : State) (d : Nat) : Option Run := s.runs.find? fun r => decide (r.stake.decoder = d + 1)

/-- WRD_CODEWORD_START (R178): the next codeword, once its 65 symbols are in. -/
def State.codewordStart (s : State) (d : Nat) : State :=
  match s.decoderRun d with
  | none => s
  | some r =>
    match r.exch with
    | none => s
    | some x =>
      match x.wideM with
      | none => s
      | some m =>
        let c := x.wide.done.length
        if (SMap.find s.decoders d).isSome ∨ !x.wide.syncDone ∨ !r.syncOk x.wide.rho ∨ m ≤ c ∨
            x.wide.symbols < 65 * (c + 1) then s
        else
          ((s.setBit R.wrdStatus (decBusy d) true).setFld R.wrdStatus (decCw d) c).setDecoders
            (SMap.ins d { port := some r.port, cw := c } s.decoders)

/-- WRD_CODEWORD_DONE (R176, R177): the decoder has decoded the oldest codeword of likelihoods in its buffer. -/
def State.codewordDone (s : State) (d : Nat) : State :=
  match SMap.find s.decoders d, s.decoderRun d with
  | some _, some r =>
    match r.exch with
    | none => s
    | some x =>
      let norm := max 8 (r.fld R.wrdCfg F.wrdCfg.norm)
      let out := decodeWord norm (decide (bf r.block 11 58 58 = 1)) (bf r.block 11 63 59) (x.wide.llr.take 1040)
      let w : Wide := { x.wide with done := List.append x.wide.done [out], llr := x.wide.llr.drop 1040 }
      let s1 := (s.setBit R.wrdStatus (decBusy d) false).setDecoders (SMap.del d s.decoders)
      let s2 := s1.bump R.wrdCwCnt F.wrdCwCnt.count
      let s3 := if out.1 then s2 else s2.bump R.wrdCwFailCnt F.wrdCwFailCnt.count
      s3.putRun { r with exch := some { x with wide := w } }
  | _, _ => s

/-! ### The commands -/

def execWideSyncEnd (port : Nat) (obs : WideObs) (s : State) : Host.Outcome State Fault Refusal :=
  if isHfPort port then .next (s.wideSync port obs) else .fault .noSuchResource

def execWideSymbolWindowEnd (port : Nat) (bins : List (List Sample)) (s : State) : Host.Outcome State Fault Refusal :=
  if isHfPort port then .next (s.wideSymbol port bins) else .fault .noSuchResource

def execWrdCodewordStart (dec : Fin 2) (s : State) : Host.Outcome State Fault Refusal :=
  .next (s.codewordStart dec.val)

def execWrdCodewordDone (dec : Fin 2) (s : State) : Host.Outcome State Fault Refusal :=
  .next (s.codewordDone dec.val)

end Sys2Proof.Machine
end

