-- ==== Sys2Proof/Machine/Coex.lean ====
section
/-! DEFINITION. The events of CXP (R39, R211 to R214): lead intervals, waits, and the wires of the other radio. -/

namespace Sys2Proof.Machine

/-- COEX_LEAD_START (R212): 400 · lead ticks before S, in this cycle or, for a stake that has run in it, before the next
one; not across a swap or a stop. -/
def State.leadStart (s : State) (idx : Nat) : State :=
  let k := s.planStake idx
  if !s.up || !s.running || decide (s.planCount s.activeBank ≤ idx) || decide (k.coexClass = 0) ||
      decide (idx ∈ s.cxp.lead) || decide (s.now < s.leadAt k) || !s.leadServed k then s
  else
    let s1 := s.setCxp { s.cxp with lead := s.cxp.lead ++ [idx] }
    ((s1.protectStart k).driveCxp).wakeWaiting

/-- COEX_WAIT_EXPIRED (R39): S + g has come without the grant. -/
def State.waitExpired (s : State) (p : Nat) : State :=
  match s.runAt p with
  | none => s
  | some r =>
    if r.phase ≠ .waiting ∨ s.now < r.start + r.stake.guard then s
    else (s.startInert r .coexDenied).driveCxp

/-- The other radio's grant rises (R39, R212). -/
def State.gntRise (s : State) : State :=
  if s.cxpMode ≠ 1 then s else ((s.setCxp { s.cxp with gnt := true }).showWires).wakeWaiting

/-- The other radio's grant falls (R213). -/
def State.gntFall (s : State) : State :=
  if s.cxpMode ≠ 1 then s
  else
    let s1 := (s.setCxp { s.cxp with gnt := false }).showWires
    (s1.takeMedium (s1.runs.filter fun r =>
      decide (1 ≤ r.stake.coexClass) && decide (r.phase ≠ .waiting) && decide (r.cxpMode = 1))).driveCxp

/-- The other radio's request rises, with the level of CX_PRI (R214). -/
def State.reqRise (s : State) (pri : Bool) : State :=
  if s.cxpMode ≠ 2 then s else ((s.setCxp { s.cxp with req := true, pri := pri }).driveCxp).wakeWaiting

/-- The other radio's request falls (R214). -/
def State.reqFall (s : State) (pri : Bool) : State :=
  if s.cxpMode ≠ 2 then s else ((s.setCxp { s.cxp with req := false, pri := pri }).driveCxp).wakeWaiting

/-- CX_PRI rises while the request is high (R214). -/
def State.priRise (s : State) : State :=
  if s.cxpMode ≠ 2 then s else ((s.setCxp { s.cxp with pri := true }).driveCxp).wakeWaiting

/-! ### The commands -/

def execCoexLeadStart (idx : Nat) (s : State) : Host.Outcome State Fault Refusal :=
  if idx < 8192 then .next (s.leadStart idx) else .fault .noSuchResource

def execCoexWaitExpired (port : Nat) (s : State) : Host.Outcome State Fault Refusal :=
  if isPort port then .next (s.waitExpired port) else .fault .noSuchResource

def execCxGntRise (s : State) : Host.Outcome State Fault Refusal := .next s.gntRise

def execCxGntFall (s : State) : Host.Outcome State Fault Refusal := .next s.gntFall

def execCxReqRise (pri : Bool) (s : State) : Host.Outcome State Fault Refusal := .next (s.reqRise pri)

def execCxReqFall (pri : Bool) (s : State) : Host.Outcome State Fault Refusal := .next (s.reqFall pri)

def execCxPriRise (s : State) : Host.Outcome State Fault Refusal := .next s.priRise

end Sys2Proof.Machine
end

