-- ==== Sys2Proof/Machine/Awning.lean ====
section
/-! DEFINITION. Awning (R221 to R235): the field of a phone, the frames of the emulated PICC, the APDUs it serves, writes
from the field, the field PIN, and host commits. -/

namespace Sys2Proof.Machine

/-! ### What the PICC sends -/

/-- Bytes of the UID that word 1 of a live image gives (R228): random ones begin 0x08; with the reserved uid_mode they are
free. -/
def piccUid (u : Word) (rnd : BitVec 32) : List Byte :=
  match Word.get u (57, 56) with
  | 0 => (Word.bytes u).take 4
  | 1 => (Word.bytes u).take 7
  | 2 => 0x08 :: ((Word.bytes (rnd.setWidth 64)).drop 1).take 3
  | _ => (Word.bytes (rnd.setWidth 64)).take 4

/-- The UID of an instance as it reads it. -/
def State.uidLoad (s : State) (i : Nat) : State × List Byte :=
  let x := s.liveLoad i 1
  (x.1, piccUid x.2 (s.awn i).randomUid)

/-- Cascade levels of a UID. -/
def uidLevels (u : List Byte) : Nat := if u.length = 7 then 2 else 1

/-- The four bytes of a cascade level, and its check byte (ISO/IEC 14443-3). -/
def uidAt (u : List Byte) (level : Nat) : List Byte :=
  if u.length = 7 then (if level = 1 then 0x88 :: u.take 3 else u.drop 3) else u
def withBcc (l : List Byte) : List Byte := l ++ [l.foldl (· ^^^ ·) 0]

/-- Bits of bytes in air order. -/
def airBits (l : List Byte) : List Bool := l.flatMap fun b => (List.range 8).map fun i => b.getLsbD i

/-- Depth of the load modulation of the stake that listens for an instance. -/
def State.lmDepth (s : State) (i : Nat) : Nat :=
  match s.listener i with
  | some r => blkDepth r.block
  | none => 0

/-- The PICC answers with bytes, at the depth of the stake that listens (R225). -/
def State.piccSend (s : State) (i : Nat) (l : List Byte) : State := s.emit (.picc i (s.lmDepth i) l)

/-- A host commit is being applied: the PICC answers no frame (R226). -/
def State.applying (s : State) (i : Nat) : Bool := decide (s.now < (s.awn i).applyUntil)

/-- The state that the PICC falls back to when it is not meant. -/
def restState (x : Awning) : PiccState := if x.halted then .halt else .idle

/-- The CRC_A of a frame's bytes is the field received after them (R247, R248). -/
def crcAOk (bytes : List Byte) (crc : BitVec 16) : Bool := decide (crcOf presetCrcA (airBits bytes) = crc.toNat)

/-- The check unit of the stake gives its verdict on a frame (R221, R248). -/
def State.chkFrame (s : State) (r : Run) (bytes : List Byte) (crc : BitVec 16) : State :=
  s.chkResult (blkAwnChk r.block) r.port (crcOf presetCrcA (airBits bytes)) (crcAOk bytes crc) false

/-- A frame with a CRC_A: it has its verdict in every state of the PICC (R248); the PICC takes it, in the states that `takes` says, when
that is a pass and no host commit is being applied (R226). After a fail one in READY or ACTIVE falls back to rest, and one in
PROTOCOL stays as it is (ISO/IEC 14443, notes/assumptions/94.md). -/
def State.framed (s : State) (i : Nat) (r : Run) (takes : Bool) (bytes : List Byte) (crc : BitVec 16) (f : State → State) :
    State :=
  let s1 := s.chkFrame r bytes crc
  if !takes || s.applying i then s1
  else if crcAOk bytes crc then f s1
  else if (s.awn i).picc = .ready ∨ (s.awn i).picc = .active then s1.modAwn i fun x => { x with picc := restState x }
  else s1

/-! ### The field (R222) -/

/-- The slice takes a carrier for a phone's field: after cancellation with the port's own coefficients it lies detect_db above
the noise floor, and within 13.56 MHz ± 7 kHz for 64 periods (R222). -/
def State.carrierOk (s : State) (r : Run) (o : CarrierObs) : Bool :=
  let y := r.cancelled r.port o.x (s.driveOf r.port o.left)
  let db := clamp 6 30 (r.fld R.awnCfg F.awnCfg.detectDb)
  decide (y ≠ (0, 0)) && decide (10 ^ db * (2048 * o.noise) ^ 20 ≤ (y.1 * y.1 + y.2 * y.2).toNat ^ 10) &&
    decide (o.offHz.natAbs ≤ 7000) && decide (64 ≤ o.periods)

/-- AWNING_FIELD_DETECT. -/
def State.fieldDetect (s : State) (i : Nat) (o : CarrierObs) : State :=
  match s.listener i with
  | none => s
  | some r =>
    if !s.carrierOk r o then s
    else
      -- a session still held that this stake did not continue ends before the new field counts (notes/assumptions/95.md)
      let s1 := if (s.awn i).holdUntil.isSome then s.awnPowerOff i else s
      s1.modAwn i fun x => { x with
      field := true, port := some r.port, fifo := blkFifo r.block
      picc := if x.picc = .powerOff then .idle else x.picc }

/-- AWNING_FIELD_LOST: the carrier has been absent for so many ticks, and 100 µs of it are the loss of the field (R222). While the port listens, the session ends; in a seam the next stake finds no field. -/
def State.fieldLost (s : State) (i absent : Nat) : State :=
  if !(s.awn i).field ∨ absent < usTicks 100 then s
  else if (s.listener i).isSome then s.awnPowerOff i
  else s.modAwn i fun x => { x with field := false }

/-- AWNING_SEAM_HOLD_EXPIRED (R223). -/
def State.holdOver (s : State) (i : Nat) : State :=
  match (s.awn i).holdUntil with
  | none => s
  | some t => if t ≤ s.now then s.awnPowerOff i else s

/-! ### ISO/IEC 14443-3 (R225, R226) -/

/-- The PICC hears a frame: its stake, while the field is present. -/
def State.hears (s : State) (i : Nat) : Option Run := if (s.awn i).field then s.listener i else none

/-- REQA or WUPA: WUPA also wakes a PICC in HALT; the session opens with the first that is answered (R223). -/
def State.request (s : State) (i : Nat) (wake : Bool) : State :=
  match s.hears i with
  | none => s
  | some _ =>
    let x := s.awn i
    if s.applying i then s
    else if x.picc = .idle ∨ (x.picc = .halt ∧ wake) then
      let w := s.liveLoad i 2
      let a := Word.get w.2 (15, 0)
      (w.1.setAwn i { x with picc := .ready, session := true, level := 1, halted := decide (x.picc = .halt) }).piccSend i
        [BitVec.ofNat 8 (a % 256), BitVec.ofNat 8 (a / 256)]
    else if x.picc = .ready ∨ x.picc = .active then s.setAwn i { x with picc := restState x }
    else s

/-- ANTICOLLISION: the bytes from the first one that the reader does not know in full. -/
def State.anticoll (s : State) (i level : Nat) (known : List Bool) : State :=
  match s.hears i with
  | none => s
  | some _ =>
    let x := s.awn i
    let u := s.uidLoad i
    let frame := withBcc (uidAt u.2 level)
    if x.picc ≠ .ready ∨ s.applying i then s
    else if x.level = level ∧ known.isPrefixOf (airBits frame) then u.1.piccSend i (frame.drop (known.length / 8))
    else u.1

/-- SELECT: the SAK, with only its cascade bit while the UID is not complete. -/
def State.selectUid (s : State) (i level : Nat) (uid : List Byte) (crc : BitVec 16) : State :=
  match s.hears i with
  | none => s
  | some r =>
    let sel : Byte := BitVec.ofNat 8 (0x91 + 2 * level)
    s.framed i r (decide ((s.awn i).picc = .ready)) (sel :: 0x70 :: withBcc uid) crc fun s =>
      let x := s.awn i
      let u := s.uidLoad i
      if x.level = level ∧ uid = uidAt u.2 level then
        (if level < uidLevels u.2 then (u.1.setAwn i { x with level := level + 1 }).piccSend i [0x04]
         else
           let w := u.1.liveLoad i 2
           (w.1.setAwn i { x with picc := .active }).piccSend i [BitVec.ofNat 8 (Word.get w.2 (23, 16))])
      else u.1.setAwn i { x with picc := restState x }

/-- HLTA. -/
def State.halt (s : State) (i : Nat) (crc : BitVec 16) : State :=
  match s.hears i with
  | none => s
  | some r =>
    s.framed i r (decide ((s.awn i).picc = .active) || decide ((s.awn i).picc = .ready)) [0x50, 0x00] crc fun s =>
      let x := s.awn i
      if x.picc = .active then s.setAwn i { x with picc := .halt, halted := true }
      else s.setAwn i { x with picc := restState x }

/-! ### ISO/IEC 14443-4 (R225) -/

/-- Frame size of FSDI 0 to 8. -/
def fsdOf (i : Nat) : Nat := ([16, 24, 32, 40, 48, 64, 96, 128, 256] : List Nat).getD i 256

/-- The ATS that words 2 and 3 of the image give: format byte with TB and TC, no TA (notes/assumptions/26.md). -/
def atsOf (w hist : Word) : List Byte :=
  let h := (Word.bytes hist).take (Word.get w (40, 37))
  let t0 : Byte := BitVec.ofNat 8 (0x60 + Word.get w (27, 24))
  let tb : Byte := BitVec.ofNat 8 (Word.get w (31, 28) * 16 + Word.get w (35, 32))
  let tc : Byte := BitVec.ofNat 8 (2 * Word.get w (36, 36))
  BitVec.ofNat 8 (4 + h.length) :: t0 :: tb :: tc :: h

/-- RATS. -/
def State.doRats (s : State) (i fsdi cid : Nat) (crc : BitVec 16) : State :=
  match s.hears i with
  | none => s
  | some r =>
    s.framed i r (decide ((s.awn i).picc = .active) && decide (fsdi ≤ 8) && decide (cid ≤ 14))
        [0xE0, BitVec.ofNat 8 (16 * fsdi + cid)] crc fun s =>
      let a := s.liveLoad i 2
      let b := a.1.liveLoad i 3
      let ats := atsOf a.2 b.2
      (b.1.modAwn i fun x => { x with
        picc := .protocol, fsd := fsdOf fsdi, cid := if Word.get a.2 (36, 36) = 1 then cid else 0, block := true
        last := ats, chain := [], appSelected := false, file := 0 }).piccSend i ats

/-- The PICC is in PROTOCOL. -/
def State.inProtocol (s : State) (i : Nat) : Bool := decide ((s.awn i).picc = .protocol)

/-- PPS: answered for DSI = DRI = 0 only. -/
def State.doPps (s : State) (i dsi dri : Nat) (crc : BitVec 16) : State :=
  match s.hears i with
  | none => s
  | some r =>
    let ppss : Byte := BitVec.ofNat 8 (0xD0 + (s.awn i).cid)
    s.framed i r (s.inProtocol i) [ppss, 0x11, BitVec.ofNat 8 (4 * dsi + dri)] crc fun s =>
      if dsi = 0 ∧ dri = 0 then (s.modAwn i fun x => { x with last := [ppss] }).piccSend i [ppss] else s

/-- The head of a block: PCB, and the CID where one is in use. -/
def pcbHead (x : Awning) (pcb : Nat) : List Byte :=
  if x.cid = 0 then [BitVec.ofNat 8 pcb] else [BitVec.ofNat 8 (pcb + 8), BitVec.ofNat 8 x.cid]

/-- Send the next I-block of an answer; what does not fit the reader's frame stays to be sent. -/
def State.sendBlock (s : State) (i : Nat) (block : Bool) (rest : List Byte) : State :=
  let x := s.awn i
  let room := x.fsd - 3 - (if x.cid = 0 then 0 else 1)
  let more := rest.drop room
  let pcb := 0x02 + block.toNat + (if more.isEmpty then 0 else 0x10)
  let frame := pcbHead x pcb ++ rest.take room
  (s.setAwn i { x with block := block, last := frame, chain := more }).piccSend i frame

/-- R(ACK): the next block of a chained answer, or the last one again. -/
def State.doRAck (s : State) (i : Nat) (block : Bool) (crc : BitVec 16) : State :=
  match s.hears i with
  | none => s
  | some r =>
    s.framed i r (s.inProtocol i) (pcbHead (s.awn i) (0xA2 + block.toNat)) crc fun s =>
      let x := s.awn i
      if block = x.block then s.piccSend i x.last
      else if x.chain.isEmpty then s
      else s.sendBlock i block x.chain

/-- R(NAK): the last block again, or R(ACK) when the reader missed an earlier one. -/
def State.doRNak (s : State) (i : Nat) (block : Bool) (crc : BitVec 16) : State :=
  match s.hears i with
  | none => s
  | some r =>
    s.framed i r (s.inProtocol i) (pcbHead (s.awn i) (0xB2 + block.toNat)) crc fun s =>
      let x := s.awn i
      if block = x.block then s.piccSend i x.last else s.piccSend i (pcbHead x (0xA2 + x.block.toNat))

/-- S(DESELECT): answered, and the session ends (R223). -/
def State.deselect (s : State) (i : Nat) (crc : BitVec 16) : State :=
  match s.hears i with
  | none => s
  | some r =>
    s.framed i r (s.inProtocol i) (pcbHead (s.awn i) 0xC2) crc fun s =>
      (s.piccSend i (pcbHead (s.awn i) 0xC2)).sessionEnd i .halt

/-! ### APDUs (R227, R230, R234) -/

/-- The answer to an APDU: data and status word. -/
def State.answer (s : State) (i : Nat) (data : List Byte) (sw : Nat) : State :=
  let x := s.awn i
  s.sendBlock i (!x.block) (data ++ [BitVec.ofNat 8 (sw / 256), BitVec.ofNat 8 (sw % 256)])

/-- A status word that the manual does not give: free (notes/assumptions/26.md). -/
def State.answerFree (s : State) (i : Nat) : State := (s.skip 1).answer i [] ((Config.freeWord s.fresh).toNat % 65536)

/-- The I-blocks of an APDU, one after the other: each with its verdict; the phone's block number is the one that follows the
PICC's; one before the last is answered with R(ACK), and one that fails, or that the PICC does not take, with nothing (R225, R226,
R248). -/
def State.blocks (s : State) (i : Nat) (r : Run) (f : State → Run → State) : List IBlock → State
  | [] => s
  | b :: l =>
    let x := s.awn i
    let bytes := pcbHead x (0x02 + (!x.block).toNat + (if l.isEmpty then 0 else 0x10)) ++ b.inf
    let s1 := s.chkFrame r bytes b.crc
    if !crcAOk bytes b.crc || !s.inProtocol i || s.applying i then s1
    else if l.isEmpty then f s1 r
    else
      let frame := pcbHead x (0xA2 + (!x.block).toNat)
      State.blocks ((s1.setAwn i { x with block := !x.block, last := frame, chain := [] }).piccSend i frame) i r f l

/-- An APDU reaches the PICC in the last of its I-blocks. -/
def State.apdu (s : State) (i : Nat) (blocks : List IBlock) (f : State → Run → State) : State :=
  match s.hears i with
  | none => s
  | some r => s.blocks i r f blocks

/-- Words a to b − 1 bytes of the live image are read for an APDU: single errors are corrected; an uncorrectable word is
recorded and answered 0x6F00 with IMAGE_ECC (R257). -/
def State.liveRead (s : State) (i a b : Nat) (f : State → State) : State :=
  let base := s.awnBase i
  match s.ueIn (base + a) (base + b) with
  | some u => ((s.recordUe u).imageEcc i).answer i [] 0x6F00
  | none => f (s.touchAll (s.errsIn (base + a) (base + b)))

/-- AID of the NDEF Tag Application. -/
def ndefAid : List Byte := [0xD2, 0x76, 0x00, 0x00, 0x85, 0x01, 0x01]

def State.byName (s : State) (i : Nat) (aid : List Byte) (blocks : List IBlock) : State :=
  s.apdu i blocks fun s _ =>
    if aid = ndefAid then (s.modAwn i fun x => { x with appSelected := true, file := 0 }).answer i [] 0x9000
    else s.answer i [] 0x6A82

def State.byFileId (s : State) (i : Nat) (id : BitVec 16) (blocks : List IBlock) : State :=
  s.apdu i blocks fun s _ => s.liveRead i 32 40 fun s =>
    if !(s.awn i).appSelected then s.answer i [] 0x6A82
    else if id = 0xE103 then (s.modAwn i fun x => { x with file := 1 }).answer i [] 0x9000
    else if id.toNat = s.liveFld i 4 (47, 32) then (s.modAwn i fun x => { x with file := 2 }).answer i [] 0x9000
    else s.answer i [] 0x6A82

/-- Two bytes, most significant first. -/
def be16 (n : Nat) : List Byte := [BitVec.ofNat 8 (n / 256), BitVec.ofNat 8 (n % 256)]

/-- The CC file (R229). -/
def State.ccFile (s : State) (i : Nat) : List Byte :=
  let head : List Byte := [0x00, 0x0F, 0x20]
  let tail : List Byte := [0x00, BitVec.ofNat 8 (s.liveFld i 5 (7, 0))]
  [head, be16 (s.liveFld i 4 (15, 0)), be16 (s.liveFld i 4 (31, 16)), [0x04, 0x06], be16 (s.liveFld i 4 (47, 32)),
   be16 (s.liveFld i 4 (63, 48)), tail].flatten

/-- Byte k of the NDEF file as the session sees it: the newest log entry that covers it, else the live image (R230). -/
def State.ndefByte (s : State) (i k : Nat) : Byte :=
  match ((s.awn i).log.filter fun x => decide (x.1 ≤ k) && decide (k < x.1 + x.2.length)).getLast? with
  | some x => x.2.getD (k - x.1) 0
  | none => s.byte (s.ndefBase i + k)

/-- READ BINARY: at most Le bytes, never past the end of the file. -/
def State.readBin (s : State) (i off le : Nat) (blocks : List IBlock) : State :=
  s.apdu i blocks fun s _ =>
    if (s.awn i).file = 0 then s.answerFree i
    else
      let cc := decide ((s.awn i).file = 1)
      s.liveRead i 32 48 fun s =>
        let len := if cc then 15 else s.ndefMax i
        if len < off then s.answer i [] 0x6B00
        else
          let n := min le (len - off)
          if cc then s.answer i (((s.ccFile i).drop off).take n) 0x9000
          else s.liveRead i (0x40 + off) (0x40 + off + n) fun s =>
            s.answer i ((List.range n).map fun k => s.ndefByte i (off + k)) 0x9000

/-- Bytes of the field log: 8 and the data rounded up to 8 bytes, per entry. -/
def logSize (l : List (Nat × List Byte)) : Nat := (l.map fun x => 8 + (x.2.length + 7) / 8 * 8).sum

/-- Write access allows an UPDATE BINARY (R228, R234). -/
def State.mayUpdate (s : State) (i : Nat) : Bool :=
  let wa := s.liveFld i 5 (7, 0)
  decide (wa = 0) || (decide (wa = 0x80) && s.bit (R.awnStatus i) F.awnStatus.verified)

/-- UPDATE BINARY (R230). A write that access forbids and that runs past the file takes one of the two answers, free
(notes/assumptions/26.md). -/
def State.updateBin (s : State) (i off : Nat) (data : List Byte) (blocks : List IBlock) : State :=
  s.apdu i blocks fun s _ =>
    if (s.awn i).file ≠ 2 then s.answerFree i
    else s.liveRead i 32 48 fun s =>
      let past := decide (s.ndefMax i < off + data.length)
      let may := s.mayUpdate i
      let both := past && !may
      if both then
        (s.skip 1).answer i [] (if Config.freeNat s.fresh % 2 = 0 then 0x6700 else 0x6982)
      else if past then s.answer i [] 0x6700
      else if !may then s.answer i [] 0x6982
      else
        let log := List.append (s.awn i).log [(off, data)]
        if 8192 < logSize log then (s.setBit (R.awnStatus i) F.awnStatus.logFull true).answer i [] 0x6A84
        else (s.modAwn i fun x => { x with log := log }).answer i [] 0x9000

/-- pin_tries of a word of AWN_CFG, and pin_lock_s of the stake that listens (R25, R235). -/
def pinTries (cfg : Word) : Nat := max 1 (Word.get cfg F.awnCfg.pinTries)
def Run.pinTries (r : Run) : Nat := max 1 (r.fld R.awnCfg F.awnCfg.pinTries)
def Run.pinLock (r : Run) : Nat := sTicks (max 10 (r.fld R.awnCfg F.awnCfg.pinLockS))

/-- pin_tries at the end of a lockout: that of the stake that listens for the instance, else as the register stands. -/
def State.pinTries (s : State) (i : Nat) : Nat :=
  match s.listener i with
  | some r => r.pinTries
  | none => Sys2Proof.Machine.pinTries (s.cfgReg R.awnCfg)
def State.triesLeft (s : State) (i : Nat) : Nat := s.fld (R.awnStatus i) F.awnStatus.triesLeft

/-- VERIFY (R234): the first 64 bits of the PIN slot, first byte in [7:0]; a slot that the pitch does not own matches
nothing. The slot is taken as it stands when the VERIFY arrives; a load of the same tick comes after it (R292). -/
def State.verify (s : State) (i : Nat) (data : List Byte) (blocks : List IBlock) : State :=
  s.apdu i blocks fun s r =>
    let slot := r.fld (R.awnImg i) F.awnImg.pinSlot
    let pin : Word := (s.checkKey slot).1.setWidth 64
    let tries := s.triesLeft i
    if data.length ≠ 8 then s.answer i [] 0x6700
    else if (s.awn i).lockUntil.isSome then s.answer i [] 0x6983
    else if s.ownsKey (s.awnPitch i) slot ∧ wordOfBytes data = pin then
      ((s.setFld (R.awnStatus i) F.awnStatus.triesLeft r.pinTries).setBit (R.awnStatus i) F.awnStatus.verified true).answer
        i [] 0x9000
    else if 1 < tries then
      (s.setFld (R.awnStatus i) F.awnStatus.triesLeft (tries - 1)).answer i [] (0x63C0 + (tries - 1))
    else
      let s1 := (s.setFld (R.awnStatus i) F.awnStatus.triesLeft 0).modAwn i fun x => { x with
        lockUntil := some (s.now + r.pinLock) }
      (s1.awnEvent i 0x0012 i []).answer i [] 0x6983

/-- PIN_LOCK_EXPIRED. -/
def State.lockOver (s : State) (i : Nat) : State :=
  match (s.awn i).lockUntil with
  | none => s
  | some t =>
    if t ≤ s.now then
      (s.modAwn i fun x => { x with lockUntil := none }).setFld (R.awnStatus i) F.awnStatus.triesLeft (s.pinTries i)
    else s

/-- Any other INS, or any other P1 and P2 of an INS that is served (R227). -/
def State.otherApdu (s : State) (i : Nat) (ins : Byte) (p1p2 : BitVec 16) (blocks : List IBlock) : State :=
  s.apdu i blocks fun s _ =>
    let served := decide (ins ∈ ([0xA4, 0xB0, 0xD6, 0x20] : List Byte))
    let known := (decide (ins = 0xA4) && (decide (p1p2 = 0x0400) || decide (p1p2 = 0x000C))) || decide (ins = 0xB0) ||
      decide (ins = 0xD6) || (decide (ins = 0x20) && decide (p1p2 = 0x0080))
    if !served then s.answer i [] 0x6D00
    else if known then s.answerFree i
    else s.answer i [] 0x6A86

/-! ### Host commits (R232, R233) -/

/-- A host commit waits. -/
def State.commitPending (s : State) (i : Nat) : Bool := s.bit (R.awnCtrl i) F.awnCtrl.commit

/-- A write of AWN_CTRLn: expect_gen and force, and a commit that becomes pending or is dropped. -/
def State.awnCtrlWrite (s : State) (i : Nat) (v : Word) : State :=
  let pending := s.commitPending i
  let want := decide (Word.get v F.awnCtrl.commit = 1)
  let s1 := s.setReg (R.awnCtrl i) (Word.put (Word.put (s.reg (R.awnCtrl i)) F.awnCtrl.expectGen
    (Word.get v F.awnCtrl.expectGen)) F.awnCtrl.force (Word.get v F.awnCtrl.force))
  if !want then s1
  else if pending then s1.setBit (R.awnStatus i) F.awnStatus.hostWriteDropped true
  else if !s.awnOn i then s1
  else s1.setBit (R.awnCtrl i) F.awnCtrl.commit true

/-- The header of a host image lies within R228. -/
def headerOk (w : Nat → Word) : Bool :=
  let f (i : Nat) (x : Fld) : Nat := Word.get (w i) x
  decide (f 1 (57, 56) ≠ 3) && decide (f 2 (21, 21) = 1) && decide (f 2 (27, 24) ≤ 8) && decide (4 ≤ f 2 (31, 28)) &&
  decide (f 2 (31, 28) ≤ 14) && decide (f 2 (35, 32) ≤ 14) && decide (f 2 (40, 37) ≤ 8) &&
  decide (0x000F ≤ f 4 (15, 0)) && decide (f 4 (15, 0) ≤ 0x0400) && decide (1 ≤ f 4 (31, 16)) &&
  decide (f 4 (31, 16) ≤ 0x0400) &&
  decide (f 4 (47, 32) ∉ ([0x0000, 0x3F00, 0x3FFF, 0xE102, 0xE103, 0xFFFF] : List Nat)) &&
  decide (5 ≤ f 4 (63, 48)) && decide (f 4 (63, 48) ≤ 0x2000) &&
  (decide (f 5 (7, 0) = 0) || decide (f 5 (7, 0) = 0x80) || decide (f 5 (7, 0) = 0xFF))

/-- The commit is refused: COMMIT_REFUSED. -/
def State.commitRefuse (s : State) (i : Nat) (f : Fld) (why : Nat) : State :=
  (s.setBit (R.awnStatus i) f true).awnEvent i 0x0011 (s.awnGen i) [BitVec.ofNat 64 why]

/-- The host image becomes the live image, words 1 to 1,031, with gen advanced by 2. The apply lasts at most 200 µs, for a time that
the manual leaves open (R226, R232, notes/assumptions/113.md). -/
def State.commitCopy (s : State) (i gen : Nat) : State :=
  let base := s.awnBase i
  let x := s.loadWords (base + 0x3000) 1032
  ((x.1.setWords base (Word.put (x.2.headD 0) (31, 0) (gen + 2) :: x.2.drop 1)).modAwn i fun y => { y with
    applyUntil := s.now + Config.freeNat x.1.fresh % (usTicks 200 + 1) }).skip 1

/-- AWNING_COMMIT_APPLY (R232): when picc_state is POWER_OFF, IDLE or HALT and no field apply is due. -/
def State.commitApply (s : State) (i : Nat) : State :=
  let x := s.awn i
  let rest := decide (x.picc = .powerOff) || decide (x.picc = .idle) || decide (x.picc = .halt)
  if !s.commitPending i || !s.awnOn i || !rest || !x.log.isEmpty then s
  else
    let w := (s.setBit (R.awnCtrl i) F.awnCtrl.commit false).liveLoad i 0
    let gen := Word.get w.2 (31, 0)
    if s.fld (R.awnCtrl i) F.awnCtrl.force = 0 ∧ gen ≠ s.fld (R.awnCtrl i) F.awnCtrl.expectGen then
      w.1.commitRefuse i F.awnStatus.conflict 1
    else
      let h := w.1.loadWords (s.awnBase i + 0x3000) 6
      if !headerOk (fun k => h.2.getD k 0) then h.1.commitRefuse i F.awnStatus.imageBad 2
      else h.1.commitCopy i gen

/-- AWN_STATUSn as it reads: gen, lockout time, state, field, pending and bad_region are live. -/
def PiccState.code : PiccState → Nat
  | .powerOff => 0 | .idle => 1 | .ready => 2 | .active => 3 | .protocol => 4 | .halt => 5

def State.awnStatusWord (s : State) (i : Nat) : Word :=
  let x := s.awn i
  let left := match x.lockUntil with
    | none => 0
    | some t => (t - s.now + sTicks 1 - 1) / sTicks 1
  let w1 := Word.put (Word.put (s.reg (R.awnStatus i)) F.awnStatus.gen (if s.awnOn i then s.awnGen i else 0))
    F.awnStatus.lockLeftS left
  let w2 := Word.put (Word.put w1 F.awnStatus.piccState (PiccState.code x.picc)) F.awnStatus.field_ x.field.toNat
  let bad := s.bit (R.awnImg i) F.awnImg.enable && s.awnBadRegion i
  Word.put (Word.put w2 F.awnStatus.commitPending (s.commitPending i).toNat) F.awnStatus.badRegion bad.toNat

/-! ### The commands -/

def execAwningFieldDetect (inst : Fin 4) (obs : CarrierObs) (s : State) : Host.Outcome State Fault Refusal :=
  .next (s.fieldDetect inst obs)

def execAwningFieldLost (inst : Fin 4) (absent : Nat) (s : State) : Host.Outcome State Fault Refusal :=
  .next (s.fieldLost inst absent)

def execAwningSeamHoldExpired (inst : Fin 4) (s : State) : Host.Outcome State Fault Refusal := .next (s.holdOver inst)

def execReqa (inst : Fin 4) (s : State) : Host.Outcome State Fault Refusal := .next (s.request inst false)

def execWupa (inst : Fin 4) (s : State) : Host.Outcome State Fault Refusal := .next (s.request inst true)

def execAnticollision (inst : Fin 4) (level : Nat) (known : List Bool) (s : State) :
    Host.Outcome State Fault Refusal := .next (s.anticoll inst level known)

def execSelect (f : PiccFrame) (level : Nat) (uid : List Byte) (s : State) : Host.Outcome State Fault Refusal :=
  .next (s.selectUid f.inst level uid f.crc)

def execHlta (f : PiccFrame) (s : State) : Host.Outcome State Fault Refusal := .next (s.halt f.inst f.crc)

def execRats (f : PiccFrame) (fsdi cid : Nat) (s : State) : Host.Outcome State Fault Refusal :=
  .next (s.doRats f.inst fsdi cid f.crc)

def execPps (f : PiccFrame) (dsi dri : Nat) (s : State) : Host.Outcome State Fault Refusal :=
  .next (s.doPps f.inst dsi dri f.crc)

def execRAck (f : PiccFrame) (block : Bool) (s : State) : Host.Outcome State Fault Refusal :=
  .next (s.doRAck f.inst block f.crc)

def execRNak (f : PiccFrame) (block : Bool) (s : State) : Host.Outcome State Fault Refusal :=
  .next (s.doRNak f.inst block f.crc)

def execSDeselect (f : PiccFrame) (s : State) : Host.Outcome State Fault Refusal := .next (s.deselect f.inst f.crc)

def execSelectByName (inst : Fin 4) (aid : List Byte) (blocks : List IBlock) (s : State) : Host.Outcome State Fault Refusal :=
  .next (s.byName inst aid blocks)

def execSelectByFileId (inst : Fin 4) (id : BitVec 16) (blocks : List IBlock) (s : State) :
    Host.Outcome State Fault Refusal := .next (s.byFileId inst id blocks)

def execReadBinary (inst : Fin 4) (offset le : Nat) (blocks : List IBlock) (s : State) : Host.Outcome State Fault Refusal :=
  .next (s.readBin inst offset le blocks)

def execUpdateBinary (inst : Fin 4) (offset : Nat) (data : List Byte) (blocks : List IBlock) (s : State) :
    Host.Outcome State Fault Refusal := .next (s.updateBin inst offset data blocks)

def execVerify (inst : Fin 4) (data : List Byte) (blocks : List IBlock) (s : State) : Host.Outcome State Fault Refusal :=
  .next (s.verify inst data blocks)

def execPinLockExpired (inst : Fin 4) (s : State) : Host.Outcome State Fault Refusal := .next (s.lockOver inst)

def execOtherInsApdu (inst : Fin 4) (ins : Byte) (p1p2 : BitVec 16) (blocks : List IBlock) (s : State) :
    Host.Outcome State Fault Refusal := .next (s.otherApdu inst ins p1p2 blocks)

def execAwningCommitApply (inst : Fin 4) (s : State) : Host.Outcome State Fault Refusal := .next (s.commitApply inst)

end Sys2Proof.Machine
end

