-- ==== Sys2Proof/Machine/Groundsheet.lean ====
section
/-! DEFINITION. Groundsheet as hosts and the scrubber meet it: the responses to uncorrectable words (R256 to R260), the
windows (R254, R285, R287, R288, R434), the buffer pool and the packet FIFOs (R261 to R272), and the wheels of Ridgepole
(R274 to R276, R280). -/

namespace Sys2Proof.Machine

/-! ### Uncorrectable words (R257) -/

/-- A check or a pending plan ends because of a word of its bank. -/
def State.planUe (s : State) : State :=
  let s1 := ((s.setBit R.schStatus F.schStatus.checking false).setBit R.schCtrl F.schCtrl.swap false).setSch
    { s.sch with check := none }
  (if s1.bit R.schStatus F.schStatus.swapPending then s1.withdraw else s1).setBit R.gshEccStatus F.gshEccStatus.planUe true

/-- One save record is lost; the manual does not say where a record lies (notes/assumptions/29.md). -/
def State.recordLost (s : State) : State :=
  match s.records[Config.freeNat s.fresh % (s.records.length + 1)]? with
  | none => s.skip 1
  | some x =>
    ((s.skip 1).setRecords (s.records.filter fun y => decide (y ≠ x))).event x.fifo x.pitch x.port .abandoned 0x0001 0 []

/-- The plan checker reads a bank (R50, R65). -/
def State.checks (s : State) (bank : Bool) : Bool :=
  match s.sch.check with
  | none => false
  | some c => decide (c.bank = bank)

/-- The area's response to an uncorrectable word that a read finds (R257, R259). Packets, APDUs and host reads give theirs where
they are read. -/
def State.ueResponse (s : State) (a : Nat) : State :=
  if a < 0x01000000 then
    match s.awnAt a with
    | none => s
    | some i => if a - (s.awnRegion i).1 < 0x2040 then s.imageEcc i else s
  else if a < 0x01400000 then s.eccCritical
  else if a < 0x01C00000 then
    let i := (a - 0x01400000) / 32
    match s.tablePitch i with
    | none => s
    | some q => if s.entryFld i E.state = 0 then s else s.freeEntry q i
  else if a < 0x01E00000 then
    let bank := decide (0x01D00000 ≤ a)
    if bank = s.activeBank then s.eccCritical
    else if s.checks bank || s.bit R.schStatus F.schStatus.swapPending then s.planUe
    else s
  else if a < 0x01F00000 then s.recordLost
  else s

/-- A read of a word by a host, a check unit or the scrubber: corrected, or recorded with its area's response. -/
def State.readAt (s : State) (a : Nat) : State :=
  if s.isUe a then (s.recordUe a).ueResponse a else s.correct a

/-- SCRUB_VISIT (R259): the scrubber reads a word, whose bits named by `upset` have flipped. -/
def State.scrub (s : State) (word : Nat) (upset : Word) : State :=
  if !s.up || !s.bit R.gshScrubCfg F.gshScrubCfg.enable then s
  else (s.setUpset (8 * word) (s.upset (8 * word) ^^^ upset)).readAt (8 * word)

/-- GSH_ECC_INJECT written (R279). -/
def State.injectWrite (s : State) (v : Word) : State :=
  if !s.up then s
  else
    let s1 := s.hostWrite R.gshEccInject v
    if v.getLsbD 63 then s1.setBit R.gshEccInject F.gshEccInject.arm true else s1

/-! ### What a word reads as -/

/-- The contents of the word are undefined: FIFO rings and save records, whose layout the manual does not give, and FREE
or WRITING buffers (R254, R434). -/
def State.vague (s : State) (a : Nat) : Bool :=
  (decide (0x01000000 ≤ a) && decide (a < 0x01400000)) || (decide (0x01E00000 ≤ a) && decide (a < 0x01F00000)) ||
  ((s.bufPitch (a / 256)).isSome && decide (a < 0x01000000) &&
    (decide (s.buf (a / 256) = .free) || decide (s.buf (a / 256) = .writing)))

/-- A word as a reader gets it, and whether it is uncorrectable: then, and where its contents are undefined, it is
free. -/
def State.fetch (s : State) (a : Nat) : State × Word × Bool :=
  if s.isUe a then ((s.readAt a).skip 1, Config.freeWord s.fresh, true)
  else if s.vague a then ((s.readAt a).skip 1, Config.freeWord s.fresh, false)
  else (s.readAt a, s.word a, false)

/-- A host read of the word at a Groundsheet byte (R254, R434, the tag image table of 08). -/
def State.hostLoad (s : State) (a : Nat) : State × Word × Bool :=
  if 0x01000000 ≤ a ∧ a < 0x01400000 then (s, 0, false)
  else match s.awnAt a with
    | some i =>
      let o := a - (s.awnRegion i).1
      if 0x6000 ≤ o then (s, 0, false)
      else if o < 0x2040 ∨ (0x3000 ≤ o ∧ o < 0x5040) then s.fetch a
      else (s.skip 1, Config.freeWord s.fresh, false)
    | none => s.fetch a

/-- A host write of bytes within one word (R254, R434, R66, R233). -/
def State.hostStore (s : State) (a : Nat) (l : List Byte) : State :=
  if a < 0x01000000 then
    match s.awnAt a with
    | some i =>
      let o := a - (s.awnRegion i).1
      if o < 0x3000 ∨ 0x5040 ≤ o then s
      else if s.commitPending i then
        s.setBit (R.awnStatus i) F.awnStatus.hostWriteDropped true
      else s.storeBytes a l
    | none =>
      match s.bufPitch (a / 256) with
      | some _ => if s.buf (a / 256) = .held then s.storeBytes a l else s
      | none => s.storeBytes a l
  else if 0x01C00000 ≤ a ∧ a < 0x01E00000 then
    if decide (0x01D00000 ≤ a) = s.activeBank ∨ s.checks (decide (0x01D00000 ≤ a)) ∨
        s.bit R.schStatus F.schStatus.swapPending then s.setBit R.schStatus F.schStatus.bankWrite true
    else s.storeBytes a l
  else s

/-! ### Masters and their views (R284, R285, R293) -/

/-- The Ethernet endpoint of a pitch is in use (R302, R322). -/
def State.epOn (s : State) (q : Nat) : Bool :=
  decide (q ≤ 8) && s.bit (R.hifEpCfg q) F.hifEpCfg.enable && s.bit (R.pitCfg q) F.pitCfg.eth &&
  s.ownsKey q (s.fld (R.hifEpCfg q) F.hifEpCfg.keySlot)

/-- A master whose accesses reach the part now. -/
def State.masterOn (s : State) (m : Master) : Bool :=
  s.up && (if m.val = 0 then true else if m.val = 1 then s.hif.pcieUp else if m.val < 4 then s.epOn 0 else s.vfOn (masterPitch m) || s.epOn (masterPitch m))

/-- A privileged master (R284). -/
def privileged (m : Master) : Bool := decide (m.val < 4)

/-- The completion that a master gets. -/
def State.respond (s : State) (m : Master) (x : Resp) : State := s.setResp (SMap.ins m.val x s.resp)

/-- A pitch steps outside what it owns (R289); a privileged access is refused instead, without a record (R290). -/
def State.outside (s : State) (m : Master) (kind detail : Nat) (read : Bool) : State :=
  let zero : List Word := if read then [0] else []
  if privileged m then s.respond m { data := zero, ue := false, bad := true }
  else (s.violation (masterPitch m) m.val kind detail).respond m { data := zero, ue := false, bad := false }

/-- Where a view offset leads in Groundsheet. -/
inductive View where
  | word (a : Nat) | readOnly (a : Nat) | zero | none_
  deriving DecidableEq, Repr

def State.viewOf (s : State) (m : Master) (off : Nat) : View :=
  if privileged m then
    if 0x02000000 ≤ off ∧ off < 0x04000000 then .word (off - 0x02000000) else .none_
  else
    let q := masterPitch m
    if 0x400000 ≤ off ∧ off < 0x800000 then
      let a := (s.region q).1 + (off - 0x400000)
      if a < (s.region q).2 then .word a else .none_
    else if 0x200000 ≤ off ∧ off < 0x400000 then
      let e := 65536 * (SMap.look 0 s.pit.ptPage q).toNat + (off - 0x200000) / 32
      let t := s.table q
      if t.1 + e < t.2 then .readOnly (entryAddr (t.1 + e) + (off - 0x200000) % 32) else .zero
    else .none_

/-- A host read of the word at a view offset (R254, R287 to R289). -/
def State.viewLoad (s : State) (m : Master) (off : Nat) : State × Word × Bool :=
  match s.viewOf m off with
  | .word a => s.hostLoad a
  | .readOnly a => s.fetch a
  | .zero => (s, 0, false)
  | .none_ => (s.outside m 0x01 off true, 0, false)

/-- A host write of bytes within one word at a view offset. -/
def State.viewStore (s : State) (m : Master) (off : Nat) (l : List Byte) : State :=
  match s.viewOf m off with
  | .word a => s.hostStore a l
  | .readOnly _ => s
  | .zero => s
  | .none_ => s.outside m 0x02 off false

/-- Read n words at view offsets, the first one that which holds the offset: the words read, and whether one is uncorrectable. -/
def State.viewLoads (s : State) (m : Master) (off : Nat) : Nat → State × List Word × Bool
  | 0 => (s, [], false)
  | n + 1 =>
    let x := s.viewLoad m off
    let y := State.viewLoads x.1 m (off / 8 * 8 + 8) n
    (y.1, x.2.1 :: y.2.1, x.2.2 || y.2.2)

/-- GROUNDSHEET_READ (R256, R257, R295). -/
def State.gshRead (s : State) (m : Master) (off n : Nat) : State :=
  if !s.masterOn m then s
  else
    let x := s.viewLoads m off ((off % 8 + n + 7) / 8)
    let bad := decide (s.viewOf m off = .none_) && privileged m
    x.1.respond m { data := x.2.1, ue := x.2.2, bad := bad }

/-- The bytes of a write, word by word; `n` bounds the number of words. -/
def State.gshStores (s : State) (m : Master) (off : Nat) : Nat → List Byte → State
  | 0, _ => s
  | _ + 1, [] => s
  | n + 1, l =>
    let k := 8 - off % 8
    State.gshStores (s.viewStore m off (l.take k)) m (off + k) n (l.drop k)

/-- GROUNDSHEET_WRITE. -/
def State.gshWrite (s : State) (m : Master) (off : Nat) (bytes : List Byte) : State :=
  if !s.masterOn m then s else s.gshStores m off (bytes.length / 8 + 2) bytes

/-! ### Buffers (R262, R263) -/

/-- A master reaches the pool registers of a pitch: every one in the privileged view, its own in a pitch view (R279). -/
def reachesPitch (m : Master) (q : Nat) : Bool := privileged m || decide (masterPitch m = q)

/-- BUF_ALLOC (R262). The words of a buffer that was FREE are undefined, so they are free values from here on. -/
def State.alloc (s : State) (q : Nat) : State × Word :=
  match pick s.fresh (s.freeBufs q) with
  | none => (s.setBit (R.gshBufStatus q) F.gshBufStatus.allocEmpty true, 0)
  | some b =>
    let s1 := (s.skip 1).setBytes (256 * b) ((List.range 32).flatMap fun i => Word.bytes (Config.freeWord (s.fresh + 1 + i)))
    ((s1.skip 32).setBuf b .held, BitVec.ofNat 64 (2 ^ 63 + b))

def State.allocRead (s : State) (m : Master) (q : Nat) : State :=
  if !s.masterOn m || !reachesPitch m q then s
  else
    let x := s.alloc q
    x.1.respond m { data := [x.2], ue := false, bad := false }

/-- BUF_FREE (R263). -/
def State.free (s : State) (m : Master) (q b : Nat) : State :=
  if !s.inRange q b then s.outside m 0x04 b false
  else match s.buf b with
    | .held => s.setBuf b .free
    | .free => s.bumpSat (R.gshBufStatus q) F.gshBufStatus.doubleFree 1
    | _ => s.setBit (R.gshBufStatus q) F.gshBufStatus.queuedFree true

def State.freeWrite (s : State) (m : Master) (q : Nat) (v : Word) : State :=
  if !s.masterOn m || !reachesPitch m q then s else s.free m q (v.toNat % 65536)

/-! ### Packet FIFOs (R266 to R272) -/

/-- View offset of a register of FIFO n in a pitch view (R285). -/
def fifoView (n r : Nat) : Nat := 0x2000 + n * 0x40 + r

/-- What walking a pushed chain finds. -/
inductive Chain where
  | ok (l : List Nat) | foreign (b : Nat) | bad
  deriving DecidableEq, Repr

/-- Walk n buffers of a chain: all HELD and in the range, none twice, and last set in the final one only (R266). -/
def State.pushChain (s : State) (q : Nat) : Nat → Nat → List Nat → Chain
  | 0, _, _ => .bad
  | n + 1, b, seen =>
    if !s.inRange q b then .foreign b
    else if s.buf b ≠ .held ∨ b ∈ seen ∨ s.isUe (256 * b + 248) then .bad
    else
      let w := s.word (256 * b + 248)
      if n = 0 then (if w.getLsbD 16 then .ok (seen ++ [b]) else .bad)
      else if w.getLsbD 16 then .bad
      else State.pushChain s q n (w.toNat % 65536) (seen ++ [b])

/-- Append a validated packet of a host (R266). -/
def State.appendHost (s : State) (n : Nat) (chain : List Nat) (len : Nat) : State :=
  let s1 := (s.setBufList chain .queued).setFifo n
    { s.fifo n with packets := (s.fifo n).packets ++ [s.descriptor chain len] }
  s1.takeSeq n

def State.pushRefused (s : State) (n : Nat) : State := s.setBit (R.gshFifoStatus n) F.gshFifoStatus.pushRefused true

/-- The link words that the walk of a pushed chain reads. -/
def State.pushLinks (s : State) (q : Nat) : Nat → Nat → List Nat → List Nat
  | 0, _, _ => []
  | n + 1, b, seen =>
    let w := s.word (256 * b + 248)
    if !s.inRange q b ∨ s.buf b ≠ .held ∨ b ∈ seen then []
    else if s.isUe (256 * b + 248) ∨ n = 0 ∨ w.getLsbD 16 then [256 * b + 248]
    else (256 * b + 248) :: State.pushLinks s q n (w.toNat % 65536) (seen ++ [b])

/-- FIFO_PUSH (R266). -/
def State.push (s0 : State) (m : Master) (n : Nat) (v : Word) : State :=
  let len := Word.get v F.gshFifoPush.length
  let s := if s0.fifoOn n && s0.fifoDir1 n && decide (len ≤ 4096) then
      s0.touchAll (s0.pushLinks (s0.fifoPitch n) (chainLen len) (Word.get v F.gshFifoPush.first) [])
    else s0
  if !s.fifoOn n || !s.fifoDir1 n || decide (len = 0) || decide (4096 < len) then s.pushRefused n
  else match s.pushChain (s.fifoPitch n) (chainLen len) (Word.get v F.gshFifoPush.first) [] with
    | .bad => s.pushRefused n
    | .foreign b => (s.pushRefused n).outside m 0x04 b false
    | .ok l => if s.fifoFull n then s.pushRefused n else s.appendHost n l len

/-- FIFO_POP (R268). -/
def State.pop (s : State) (n : Nat) (v : Word) : State :=
  match (s.fifo n).packets with
  | [] => s.setBit (R.gshFifoStatus n) F.gshFifoStatus.popRefused true
  | p :: _ =>
    if p.chain.head? ≠ some (Word.get v F.gshFifoPop.first) ∨ s.fifoDir1 n ∨ s.fifoHif n then
      s.setBit (R.gshFifoStatus n) F.gshFifoStatus.popRefused true
    else s.popHead n (if v.getLsbD 63 then .free else .held)

/-- The FIFO operations of a master: its own FIFOs in a pitch view. -/
def State.onFifo (s : State) (m : Master) (n r : Nat) (f : State → State) : State :=
  if !s.masterOn m then s
  else if privileged m ∨ s.ownsFifo (masterPitch m) n then f s
  else s.outside m 0x02 (fifoView n r) false

/-- An Ethernet endpoint, and its update. -/
def State.ep (s : State) (q : Nat) : Endpoint := SMap.look Endpoint.dflt s.hif.eps q
def State.setEp (s : State) (q : Nat) (e : Endpoint) : State :=
  s.setHif { s.hif with eps := SMap.put Endpoint.dflt s.hif.eps q e }

/-- Packets of an endpoint that wait for acknowledgement. -/
def Endpoint.waiting (e : Endpoint) : Nat := (e.flight.map fun x => x.2).sum

/-- HIF_EPp_STATUS.waiting follows the endpoint. -/
def State.showWaiting (s : State) (q : Nat) : State :=
  s.setFld (R.hifEpStatus q) F.hifEpStatus.waiting (s.ep q).waiting

/-- FIFO_FLUSH (R272): HIF has nothing of the FIFO to deliver any more (R322). -/
def State.flush (s : State) (n : Nat) : State :=
  if !s.up then s
  else
    let l := (s.fifo n).packets
    let s1 := (s.setFifo n { s.fifo n with packets := [] }).setBufList (l.flatMap (·.chain)) .free
    let s2 := s1.setFld (R.gshFifoStatus n) F.gshFifoStatus.dropped
      (s1.fld (R.gshFifoStatus n) F.gshFifoStatus.dropped + l.length)
    let q := s2.fifoPitch n
    let s3 := if (SMap.find (s2.ep q).flight n).isSome then
        (s2.setEp q { s2.ep q with flight := SMap.del n (s2.ep q).flight }).showWaiting q
      else s2
    s3.driveInt

/-- HELD_PACKET_COMMIT (R270). -/
def State.commitHeld (s : State) (n : Nat) : State :=
  match (s.fifo n).held with
  | [] => s
  | ws :: l =>
    if !s.up || !s.fifoOn n then s
    else match s.chainFor n ws.length with
      | none => s
      | some c => (s.setFifo n { s.fifo n with held := l }).append n c ws

/-! ### The wheels (R275, R276, R280) -/

/-- The order in which a stake takes entries: 10-bit indices reversed bit for bit. -/
def reversed10 (i : Nat) : Nat := (List.range 10).foldl (fun a k => if i / 2 ^ k % 2 = 1 then a + 2 ^ (9 - k) else a) 0

/-- What an entry holds for a stake: its start and index, plus one. -/
def Run.wheelTag (r : Run) : Nat := r.start * 8192 + r.stake.idx + 1

/-- The stake is active, so it holds its entries. -/
def State.holdsWheel (s : State) (r : Run) : Bool := decide (r.start ≤ s.now) && decide (s.now < r.stop)

/-- Assign a stake's entries at its target, unless it holds them already. -/
def State.assignWheel (s : State) (r : Run) : State :=
  let t := r.stake.wheelTarget
  if s.wheel.any fun x => decide (x.2 = r.wheelTag) then s
  else
    let free := ((List.range 1024).map reversed10).filter fun e => (SMap.find s.wheel (1024 * t + e)).isNone
    s.setWheel ((free.take r.stake.wheelCount).foldl (fun w e => SMap.ins (1024 * t + e) r.wheelTag w) s.wheel)

/-- RDP_WHEEL_USEt shows the entries of the turn. -/
def State.showWheel (s : State) (t : Nat) : State :=
  let n := (s.wheel.filter fun x => decide (x.1 / 1024 = t)).length
  let s1 := s.setFld (R.rdpWheelUse t) F.rdpWheelUse.assigned n
  s1.setFld (R.rdpWheelUse t) F.rdpWheelUse.peak (max n (s1.fld (R.rdpWheelUse t) F.rdpWheelUse.peak))

/-- RDP_RR_WAIT keeps the longest wait (R280). -/
def State.rrWait (s : State) (wait target : Nat) : State :=
  if s.fld R.rdpRrWait F.rdpRrWait.maxCycles < wait then
    s.setReg R.rdpRrWait (Word.put (Word.put 0 F.rdpRrWait.maxCycles wait) F.rdpRrWait.target target)
  else s

/-- WHEEL_TURN_START (R275): releases first, then assignments in stake index order, which is the order of the running
stakes. `wait` is the longest round-robin
wait of the turn that ends, at `target`. -/
def State.turnStart (s : State) (wait target : Nat) : State :=
  if !s.up then s
  else
    let live := s.runs.filter s.holdsWheel
    let s1 := s.setWheel (s.wheel.filter fun x => live.any fun r => decide (r.wheelTag = x.2))
    ((s1.each live State.assignWheel).each (List.range 20) State.showWheel).rrWait wait target

/-! ### The commands -/

def execPresenceSweep (idx : Nat) (s : State) : Host.Outcome State Fault Refusal :=
  if idx < 262144 then .next (if s.up then s.sweep idx else s) else .fault .noSuchResource

def execScrubVisit (word : Nat) (upset : Word) (s : State) : Host.Outcome State Fault Refusal :=
  if word < 4194304 then .next (s.scrub word upset) else .fault .noSuchResource

def execEccInjectArm (_m : PMaster) (v : Word) (s : State) : Host.Outcome State Fault Refusal := .next (s.injectWrite v)

def execBufAlloc (m : Master) (p : Fin 9) (s : State) : Host.Outcome State Fault Refusal := .next (s.allocRead m p.val)

def execBufFree (m : Master) (p : Fin 9) (v : Word) (s : State) : Host.Outcome State Fault Refusal :=
  .next (s.freeWrite m p.val v)

def execFifoPush (m : Master) (n : Fin 64) (v : Word) (s : State) : Host.Outcome State Fault Refusal :=
  .next (s.newCycle.onFifo m n.val 0x18 fun s => s.push m n.val v)

def execFifoPop (m : Master) (n : Fin 64) (v : Word) (s : State) : Host.Outcome State Fault Refusal :=
  .next (s.onFifo m n.val 0x20 fun s => s.pop n.val v)

def execFifoFlush (_m : PMaster) (n : Fin 64) (s : State) : Host.Outcome State Fault Refusal := .next (s.flush n.val)

def execHeldPacketCommit (n : Fin 64) (s : State) : Host.Outcome State Fault Refusal := .next (s.commitHeld n.val)

def execWheelTurnStart (wait : BitVec 16) (target : BitVec 5) (s : State) : Host.Outcome State Fault Refusal :=
  if target.toNat < 20 then .next (s.turnStart wait.toNat target.toNat) else .fault .noSuchResource

def execRrWaitClear (_m : PMaster) (s : State) : Host.Outcome State Fault Refusal :=
  .next (if s.up then s.setReg R.rdpRrWait 0 else s)

end Sys2Proof.Machine
end

