-- ==== Sys2Proof/Machine/Checks.lean ====
section
/-! DEFINITION. The host side of the check units (R250 to R253): starting a run, its completion, and writes to its
parameters. -/

namespace Sys2Proof.Machine

/-- The parameters of unit n (R253). -/
def State.chkParams (s : State) (n : Nat) : CrcCfg :=
  { w := s.fld (R.chkCfg n) F.chkCfg.width, poly := s.fld (R.chkPoly n) F.chkPoly.value
    init := s.fld (R.chkInit n) F.chkInit.value, refin := s.bit (R.chkCfg n) F.chkCfg.refin
    refout := s.bit (R.chkCfg n) F.chkCfg.refout, xorout := s.fld (R.chkXorout n) F.chkXorout.value }

/-- Beats of a run: words that hold its range (R250). -/
def runBeats (w : Word) : Nat := (Word.get w F.chkRun.addr % 8 + Word.get w F.chkRun.length + 7) / 8

/-- First byte of the first word of a run. -/
def runBase (w : Word) : Nat := Word.get w F.chkRun.addr / 8 * 8

/-- CHK_HOST_RUN_START: CHKn_RUN written (R250, R251). -/
def State.chkStart (s : State) (n : Nat) (v : Word) : State :=
  if !s.up then s
  else
    let s1 := s.hostWrite (R.chkRun n) v
    if !v.getLsbD 63 then s1
    else if s1.chkClaimed n ∨ 0x02000000 < Word.get v F.chkRun.addr + Word.get v F.chkRun.length then
      s1.setBit (R.chkStatus n) F.chkStatus.runRefused true
    else match SMap.find s1.hostRuns n with
      | some h => s1.setHostRuns (SMap.ins n { h with tried := some s1.now } s1.hostRuns)
      | none =>
        let h : HostRun := { run := v, at_ := s1.now, words := s1.words (runBase v) (runBeats v), past := [], from_ := s1.tick.stores.length
                             tried := none, claimed := false }
        ((s1.setHostRuns (SMap.ins n h s1.hostRuns)).setBit (R.chkStatus n) F.chkStatus.busy true).setBit (R.chkRun n)
          F.chkRun.start true

/-- The contents of a range of words from index lo on as they stood after each of a list of stores, the oldest first: `ws` are the
contents after the newest store, which is the list's first. -/
def rangeTrail (lo : Nat) (ws : List Word) : List (Nat × Word) → List (List Word)
  | [] => [ws]
  | x :: l => List.append (rangeTrail lo (if lo ≤ x.1 then ws.set (x.1 - lo) x.2 else ws) l) [ws]

/-- A run sees the words of its range: contents that have changed since it saw them last are kept (R250). -/
def HostRun.see (h : HostRun) (ws : List Word) : HostRun :=
  if h.words = ws then h else { h with words := ws, past := List.append h.past [h.words] }

/-- A run sees its words after each store of the tick since its start (R250, R277). -/
def HostRun.follow (h : HostRun) (s : State) : HostRun :=
  (rangeTrail (runBase h.run / 8) (s.words (runBase h.run) (runBeats h.run))
    (s.tick.stores.take (s.tick.stores.length - h.from_))).foldl HostRun.see h

/-- Offset of a parameter register of unit n. -/
def chkReg (n : Nat) : ChkReg → Nat
  | .cfg => R.chkCfg n
  | .poly => R.chkPoly n
  | .init => R.chkInit n
  | .xorout => R.chkXorout n

/-- A parameter write to a unit whose run is in progress is dropped; one that the tick's completion overtakes is kept for it (R251). -/
def State.refuseCfg (s : State) (n : Nat) (r : ChkReg) (v : Word) : State :=
  let x := SMap.look (s.bit (R.chkStatus n) F.chkStatus.cfgRefused, []) s.tick.late n
  (s.setTick { s.tick with late := SMap.ins n (x.1, List.append x.2 [(r, v)]) s.tick.late }).setBit (R.chkStatus n)
    F.chkStatus.cfgRefused true

/-- CHK_CFG_WRITE (R251): dropped while a run is in progress, and with a width of 0 or above 64. -/
def State.chkWrite (s : State) (n : Nat) (r : ChkReg) (v : Word) : State :=
  if !s.up then s
  else
    let w := Word.get v F.chkCfg.width
    if (SMap.find s.hostRuns n).isSome then s.refuseCfg n r v
    else if r = .cfg ∧ (w = 0 ∨ 64 < w) then s.setBit (R.chkStatus n) F.chkStatus.cfgRefused true
    else s.hostWrite (chkReg n r) v

/-- A run has completed: the parameter writes of the same tick are taken after it (R251). -/
def State.takeLate (s : State) (n : Nat) : State :=
  match SMap.find s.tick.late n with
  | none => s
  | some x =>
    (((s.setTick { s.tick with late := SMap.del n s.tick.late }).setFld (R.chkStatus n) F.chkStatus.cfgRefused x.1.toNat).each
      x.2 fun s y => s.chkWrite n y.1 y.2)

/-- Read n words of a run from an address on, ascending: word k at the granting of its beat. `past` holds the contents of the range
before each change since the start; which of them a beat meets is free, but none of an earlier time than the beat before it
(R250, R277, notes/assumptions/30.md). `j` counts the changes that the beat before has met. -/
def State.runWords (s : State) (past : List (List Word)) (a k j : Nat) : Nat → State × List Word
  | 0 => (s, [])
  | n + 1 =>
    let x := s.fetch a
    let open_ := s.isUe a || s.vague a
    let c := j + Config.freeNat x.1.fresh % (past.length + 1 - j)
    let w := if open_ ∨ past.length ≤ c then x.2.1 else (past.getD c []).getD k 0
    let y := State.runWords (if past.isEmpty then x.1 else x.1.skip 1) past (a + 8) (k + 1) c n
    (y.1, w :: y.2)

/-- CHK_HOST_RUN_DONE (R246, R250, R252), also in the tick of S of a claim (R251). -/
def State.chkDone (s : State) (n : Nat) : State :=
  match SMap.find s.hostRuns n with
  | none => s
  | some h0 =>
    if !s.up then s
    else
      let h := h0.follow s
      let x := s.runWords h.past (runBase h.run) 0 0 (runBeats h.run)
      if !x.1.up then x.1
      else
        let bytes := ((x.2.flatMap Word.bytes).drop (Word.get h.run F.chkRun.addr % 8)).take
          (Word.get h.run F.chkRun.length)
        let c := x.1.chkParams n
        let r := crcOf c (bytes.flatMap (byteBits c.refin))
        let s1 := ((x.1.setHostRuns (SMap.del n x.1.hostRuns)).setReg (R.chkResult n) (BitVec.ofNat 64 (r % 2 ^ c.w))).setBit
          (R.chkRun n) F.chkRun.start false
        let s2 := ((s1.setBit (R.chkStatus n) F.chkStatus.busy false).bump (R.chkStatus n) F.chkStatus.results).setFld
          (R.chkStatus n) F.chkStatus.port 0xFF
        (s2.setBit (R.chkStatus n) F.chkStatus.empty (decide (bytes = []))).takeLate n

/-- A tick ends for the host runs: those that a claim met in it and that have not completed are aborted (R251), and the others see
their words (R250). -/
def State.runsTick (s : State) : State :=
  let s1 := s.each (s.hostRuns.filter fun x => x.2.claimed) fun s x =>
    (((s.setHostRuns (SMap.del x.1 s.hostRuns)).setBit (R.chkStatus x.1) F.chkStatus.busy false).setBit (R.chkRun x.1)
      F.chkRun.start false).setBit (R.chkStatus x.1) F.chkStatus.runAborted true
  s1.setHostRuns (s1.hostRuns.map fun x => (x.1, { x.2.follow s1 with from_ := 0 }))

/-! ### The commands -/

def execChkHostRunStart (_m : PMaster) (n : Fin 48) (v : Word) (s : State) : Host.Outcome State Fault Refusal :=
  .next (s.chkStart n.val v)

def execChkHostRunDone (n : Fin 48) (s : State) : Host.Outcome State Fault Refusal := .next (s.chkDone n.val)

def execChkCfgWrite (_m : PMaster) (n : Fin 48) (r : ChkReg) (v : Word) (s : State) :
    Host.Outcome State Fault Refusal := .next (s.chkWrite n.val r v)

end Sys2Proof.Machine
end

