-- ==== Sys2Proof/Machine/Clocking.lean ====
section
/-! DEFINITION. What passes while no command waits: one tick (notes/assumptions/1.md). -/

namespace Sys2Proof.Machine

/-- A tick ends: the host runs of check units that a claim has met end (R251), the trace ring takes its records (R395), site time
counts in READY and RUN (R5), the always-on count behind PWR_RTC counts in every state except OFF (R353), and the wires of CXP
follow (R212). -/
def State.idle (s : State) : State :=
  ((s.runsTick.traceFlow.setClock { s.clock with
    site := if s.up then s.clock.site + 1 else s.clock.site
    aon := if s.boot.power = .off then s.clock.aon else s.clock.aon + 1 }).setTick Tick.dflt).cxTick

end Sys2Proof.Machine
end

