-- ==== Sys2Proof/Machine/Lantern.lean ====
section
/-! DEFINITION. Lantern (R236 to R243): pings of a running plan and of WATCH, the baseline and the state of an entry, and
the wake. -/

namespace Sys2Proof.Machine

/-! ### A ping and its baseline (R237, R238) -/

/-- Δφ in −128 to 127. -/
def phaseDelta (phase : BitVec 8) (base : Word) : Int := (phase - BitVec.ofNat 8 (Word.get base F.lntBase.phase)).toInt
def ampDelta (amp : BitVec 12) (base : Word) : Int := (amp.toNat : Int) - Word.get base F.lntBase.amp

/-- A ping is detected against a valid baseline. -/
def pingDetected (port base : Word) (amp : BitVec 12) (phase : BitVec 8) : Bool :=
  decide (Word.get base F.lntBase.valid = 1) &&
  (decide (max 1 (Word.get port F.lntPort.thrAmp) ≤ (ampDelta amp base).natAbs) ||
   decide (max 1 (Word.get port F.lntPort.thrPhase) ≤ (phaseDelta phase base).natAbs))

/-- d ÷ 2^k, rounded away from zero. -/
def awayDiv (d : Int) (k : Nat) : Int :=
  let q : Int := (d.natAbs + 2 ^ k - 1) / 2 ^ k
  if d < 0 then -q else q

/-- A word of LNT_BASEn with valid 1. -/
def baseWord (amp phase : Int) : Word :=
  Word.put (Word.put (Word.put 0 F.lntBase.valid 1) F.lntBase.amp (BitVec.ofInt 12 amp).toNat) F.lntBase.phase
    (BitVec.ofInt 8 phase).toNat

/-- The baseline after a ping: set by the first one, tracked after an undetected one taken while CLEAR. -/
def nextBase (port base : Word) (near : Bool) (amp : BitVec 12) (phase : BitVec 8) : Word :=
  let k := clamp 2 12 (Word.get port F.lntPort.trackShift)
  if Word.get base F.lntBase.valid = 0 then baseWord amp.toNat phase.toNat
  else if pingDetected port base amp phase ∨ near then base
  else baseWord (Word.get base F.lntBase.amp + awayDiv (ampDelta amp base) k)
    (Word.get base F.lntBase.phase + awayDiv (phaseDelta phase base) k)

/-- The entry after a ping (R238): NEAR or CLEAR, and the pings that count toward the other state. -/
def nextNear (confirm near detected : Bool) (runs : Nat) : Bool × Nat :=
  if detected = near then (near, 0)
  else if runs + 1 < (if confirm then 2 else 1) then (near, runs + 1)
  else (!near, 0)

/-! ### Measurements -/

/-- What the ping of an entry took when it started. -/
def State.pingOf (s : State) (e : Nat) : PingLatch :=
  (SMap.find s.lantern.pings e).getD { cfg := s.lnt 0, port := s.lnt (1 + e), base := s.lnt (5 + e), at_ := 0 }

/-- A ping moves the baseline; one that a host has written since the ping started stands (R243, notes/assumptions/92.md). -/
def State.setBase (s : State) (e : Nat) (old w : Word) : State :=
  if !s.watching && decide (s.reg (R.lntBase e) ≠ old) then s else s.setLnt (5 + e) w

/-- Take a measurement of an entry: its baseline, its state and LNT_LASTn, by what its ping took when it started (R237, R238). -/
def State.takePing (s : State) (e : Nat) (amp : BitVec 12) (phase : BitVec 8) : State :=
  let l := s.pingOf e
  let base := if e ∈ s.lantern.rebase then Word.put l.base F.lntBase.valid 0 else l.base
  let confirm := decide (Word.get l.cfg F.lntCfg.confirm = 1)
  let near := s.lntNear e
  let n := nextNear confirm near (pingDetected l.port base amp phase) (SMap.look 0 s.lantern.runs e)
  let last := Word.put (baseWord amp.toNat phase.toNat) F.lntLast.near n.1.toNat
  let s1 := (s.setBase e l.base (nextBase l.port base near amp phase)).setLnt (9 + e) last
  (s1.setLantern { s1.lantern with
    runs := SMap.put 0 s1.lantern.runs e n.2, rebase := s1.lantern.rebase.filter (· ≠ e)
    pings := SMap.del e s1.lantern.pings }).bump R.lntStatus F.lntStatus.pings

/-! ### WATCH (R239, R388) -/

/-- The inhibit, or boundary scan that holds the balls, keeps Lantern silent (R388, R400). -/
def State.quiet (s : State) : Bool :=
  s.cab.a || s.cab.b || s.bit R.cabRfoffStatus F.cabRfoffStatus.latched || s.boot.scanHeld

/-- Length in µs that LNT_PORTn gives the pings of its entry: 0 acts as 64 (R236, R243). -/
def pingUs (port : Word) : Nat :=
  let v := Word.get port F.lntPort.pingUs
  if v = 0 then 64 else v

/-- The burst of an entry starts: its slice shows PING (R71, R236). -/
def State.burst (s : State) (e p : Nat) : State :=
  let s1 := s.latchPing e s.clock.aon
  ((s1.setLantern { s1.lantern with burst := some e }).sliceTo (s.server p) .ping).emit
    (.air p (.ping (pingUs (s1.pingOf e).port)) [] 0 [])

/-- The burst that runs is over, or removed by an inhibit: its slice is dark again. -/
def State.burstOver (s : State) : State :=
  let s1 := s.setLantern { s.lantern with burst := none }
  match s.lantern.burst.bind s.lntPort with
  | some p => s1.sliceTo (s.server p) .off
  | none => s1

/-- The burst of the next entry of the round starts; under an inhibit the rest of the round is not pinged (R388). -/
def State.nextBurst (s : State) : State :=
  if s.quiet then s.setLantern { s.lantern with queue := [] }
  else match s.lantern.queue.filter fun e => (s.lntPort e).isSome with
    | [] => s.setLantern { s.lantern with queue := [] }
    | e :: l => match s.lntPort e with
      | none => s
      | some p => (s.setLantern { s.lantern with queue := l }).burst e p

/-- WATCH_ROUND: the entries with watch 1 that name a port, in ascending order. -/
def State.watchRound (s : State) : State :=
  let x := s.lantern
  if !s.watching || x.burst.isSome || !x.queue.isEmpty || decide (s.clock.aon < x.roundAt) then s
  else
    let es := (List.range 4).filter fun e =>
      decide (Word.get (s.lnt (1 + e)) F.lntPort.watch = 1) && (s.lntPort e).isSome
    let next := s.clock.aon + msTicks (clamp 50 2000 (Word.get (s.lnt 0) F.lntCfg.intervalMs))
    if s.quiet then s.setLantern { x with roundAt := next }
    else (s.setLantern { x with roundAt := next, queue := es }).nextBurst

/-- LANTERN_CONFIRM_PING: 1 ms after a detected ping. -/
def State.confirmPing (s : State) (e : Nat) : State :=
  let x := s.lantern
  match x.confirm.find? fun c => decide (c.1 = e) && decide (c.2 ≤ s.clock.aon) with
  | none => s
  | some c =>
    if !s.watching || x.burst.isSome then s
    else
      let rest := x.confirm.filter fun d => decide (d ≠ c)
      if s.quiet then s.setLantern { x with confirm := rest }
      else match s.lntPort e with
        | none => s.setLantern { x with confirm := rest }
        | some p => (s.setLantern { x with confirm := rest }).burst e p

/-- A ping of WATCH ends: an entry that becomes NEAR wakes the DN4810; one that is detected for the first time is pinged
again. -/
def State.watchPing (s : State) (e : Nat) (amp : BitVec 12) (phase : BitVec 8) : State :=
  let s2 := (s.takePing e amp phase).burstOver
  if s2.lntNear e ∧ !s2.quiet then
    ((s2.setBit R.lntStatus F.lntStatus.wakeCard true).setFld R.lntStatus F.lntStatus.wakeEntries (2 ^ e)).takeReset .wake
  else if SMap.look 0 s2.lantern.runs e ≠ 0 then
    (s2.setLantern { s2.lantern with confirm := s2.lantern.confirm ++ [(e, s2.clock.aon + msTicks 1)] }).nextBurst
  else s2.nextBurst

/-- An RF inhibit begins in WATCH: the burst is removed, and no ping of the round follows (R15, R388). -/
def State.lanternInhibit (s : State) : State :=
  let s1 := s.burstOver
  s1.setLantern { s1.lantern with queue := [], confirm := [] }

/-! ### A running plan (R242) -/

/-- LANTERN_PING_DONE (R237): the burst of WATCH has lasted ping_us of its entry, that of a stake p µs of its block (R47, R236). -/
def State.pingDone (s : State) (e : Nat) (amp : BitVec 12) (phase : BitVec 8) : State :=
  let l := s.pingOf e
  if s.watching then
    (if s.lantern.burst = some e ∧ l.at_ + usTicks (pingUs l.port) ≤ s.clock.aon then s.watchPing e amp phase else s)
  else
    let p := Word.get l.port F.lntPort.port
    match s.runAt p with
    | none => s
    | some r =>
      let pinging : Bool := match r.exch with
        | some x => x.cmd.isPing && decide (x.start + usTicks (bf r.block 2 5 0) ≤ s.now)
        | none => false
      if !pinging ∨ (SMap.find s.lantern.pings e).isNone then s
      else
        let old := s.lntNear e
        let s1 := s.takePing e amp phase
        let now := s1.lntNear e
        let s2 := if now = old then s1
          else s1.event (blkFifo r.block) r.pitch p .ok (if now then 0x0021 else 0x0022) e [s1.lnt (9 + e)]
        s2.pingOver r

/-! ### The commands -/

def execWatchRound (s : State) : Host.Outcome State Fault Refusal := .next s.watchRound

def execLanternConfirmPing (e : Fin 4) (s : State) : Host.Outcome State Fault Refusal := .next (s.confirmPing e)

def execLanternPingDone (e : Fin 4) (amp : BitVec 12) (phase : BitVec 8) (s : State) :
    Host.Outcome State Fault Refusal := .next (s.pingDone e amp phase)

/-- LNT_STATUS written (R239, R411): a 1 to wake_card clears it and wake_entries, and HOST_WAKE_N returns high. -/
def State.lntStatusWrite (s : State) (v : Word) : State :=
  if Word.get v F.lntStatus.wakeCard = 1 then
    (s.setBit R.lntStatus F.lntStatus.wakeCard false).setFld R.lntStatus F.lntStatus.wakeEntries 0
  else s

/-- WAKE_CARD_CLEAR: pitch 0 clears wake_card. -/
def execWakeCardClear (_m : PMaster) (s : State) : Host.Outcome State Fault Refusal :=
  .next (if s.up then s.lntStatusWrite 1 else s)

end Sys2Proof.Machine
end

