-- ==== Sys2Proof/Machine/Cabinet.lean ====
section
/-! DEFINITION. CAB (R69, R76, R383 to R392): the RF inhibit and its discrepancy latch, triggers, and the GPIO balls. -/

namespace Sys2Proof.Machine

/-! ### The RF inhibit (R69, R76, R384, R385) -/

/-- An HF slice falls on an inhibit: from its present amplitude in min(r, 50) µs; a ramp down ends as it stands or in 50 µs,
whichever is first (R76). -/
def State.hfInhibit (s : State) (n : Nat) : State :=
  let x := s.slice n
  let ramp := match s.runOf n with
    | some r => min r.rampTicks 2000
    | none => 2000
  let fall (t : Nat) : Slice := { x.take true .rampDown t s.now with path := [.quiet], due := s.now + t }
  match x.st with
  | .rampUp => s.setSlice n (fall ramp)
  | .field => s.setSlice n (fall ramp)
  | .rampDown => s.setSlice n (if x.due ≤ s.now + 2000 then { x with path := [.quiet] } else fall 2000)
  | .armed => s.restSlice n 0
  | .hfListen => s.restSlice n 0
  | .ping => s.sliceTo n .quiet
  | _ => if (s.slice n).path.any fun y => decide (y = .armed) || decide (y = .hfListen) then
      s.modSlice n fun y => { y with path := y.path.take (if y.st = .off then 1 else 0) } else s

/-- The stake has radio work of its own in progress. -/
def Run.radiating (r : Run) : Bool :=
  r.inert.isNone && (decide (r.phase = .front) || decide (r.phase = .active)) && decide (r.template ≠ 0x20) &&
  decide (r.template ≠ 0x3F)

/-- A UHF slice goes to OFF on an inhibit, and stays there until the inhibit is over (R69, R188): one on its way out of OFF stays. -/
def State.uhfInhibit (s : State) (n : Nat) : State :=
  let x := s.slice n
  if x.st = .off then s.modSlice n fun y => { y with path := [] }
  else if x.path.head? = some .off then s.modSlice n fun y => { y with path := [.off] }
  else s.darkSlice n

/-- The inhibit begins. -/
def State.inhibitOn (s : State) : State :=
  let s1 := s.each (s.runs.filter Run.radiating) fun s r =>
    match s.runAt r.port with
    | none => s
    | some x => s.stopRadio x .inhibited
  let s2 := s1.each ((kindSlices .uhf).filter fun n => decide ((s1.slice n).st ≠ .off ∨ (s1.slice n).path ≠ [])) fun s n =>
    s.uhfInhibit n
  let s3 := s2.each ((List.range 16).map (· + 64)) fun s p => s.pinsSafe p
  let s4 := s3.awnInhibit
  let s5 := s4.each (kindSlices .hf) fun s n => s.hfInhibit n
  let s6 := s5.each (s5.ports.map (·.1)) fun s p => s.modPort p fun x => { x with hold := none }
  (s6.setCab { s6.cab with restoreAt := none }).driveCxp

/-- RFOFF_A indicates inhibit when high, and an open one reads high (R383, R420). -/
def wireA (w : Wire) : Bool := decide (w ≠ .low)

/-- RFOFF_B_N indicates inhibit when low, and an open one reads low (R383, R420). -/
def wireB (w : Wire) : Bool := decide (w ≠ .high)

/-- The channels, after their filters, take levels: an inhibit begins or ends. -/
def State.setInhibit (s : State) (a b : Bool) : State :=
  if s.boot.power = .off then s
  else
    let was := s.inhibited
    let s1 := (s.setCab { s.cab with a := a, b := b }).showInhibit
    let bits := s1.fld R.cabRfoffStatus (3, 0)
    if s1.inhibited = was then s1
    else if s1.inhibited then
      let s2 := (s1.bumpSat R.cabRfoffStatus F.cabRfoffStatus.inhibits 1).trace 0x05 0xFF bits
      if s2.up then s2.inhibitOn else if s2.watching then s2.lanternInhibit else s2
    else
      let s2 := s1.trace 0x05 0xFF bits
      if s2.up then s2.setCab { s2.cab with restoreAt := some (s2.now + 7200) } else s2

/-- UHF_STANDBY_RESTORED (R69): 180 µs after release. -/
def State.uhfRestored (s : State) : State :=
  match s.cab.restoreAt with
  | none => s
  | some t =>
    if s.now < t then s
    else
      let ns := (kindSlices .uhf).filter fun n => decide ((s.slice n).st = .off) &&
        !s.staysOff ((s.portOf n).getD n) n
      (s.each ns fun s n => s.sliceTo n (if s.onLoad n then .cal else .standby)).setCab { s.cab with restoreAt := none }

/-- RFOFF_SAMPLE (R386, R387): every 100 µs, or every 122 µs in HIBERNATE and WATCH (R388). -/
def State.rfoffSample (s : State) : State :=
  if s.boot.power = .off then s
  else if s.cab.a = s.cab.b then
    let s1 := s.setFld R.cabRfoffStatus F.cabRfoffStatus.discCount 0
    if s.cab.a then (s1.setBit R.cabRfoffStatus F.cabRfoffStatus.latched false).showInhibit else s1
  else
    let n := min (Fld.top F.cabRfoffStatus.discCount) (s.fld R.cabRfoffStatus F.cabRfoffStatus.discCount + 1)
    let limit := 10 * clamp 10 1000 (s.cfg R.cabRfoffCfg F.cabRfoffCfg.discMs) + 1
    let s1 := (s.setFld R.cabRfoffStatus F.cabRfoffStatus.discCount n).setBit R.cabRfoffStatus F.cabRfoffStatus.discSeen
      true
    if limit ≤ n then (s1.setBit R.cabRfoffStatus F.cabRfoffStatus.latched true).showInhibit else s1

/-! ### GPIO (R391, R392) -/

/-- CAB_GPIO_IN as it reads. -/
def State.gpioIn (s : State) : Word :=
  (List.range 64).foldl (fun w n => if s.ballLevel n then w ||| BitVec.ofNat 64 (2 ^ n) else w) 0

/-- GPIO_CFG_WRITE: the ball takes its function one tick later (R392, `State.ballFunc`);
a ball that leaves an output function is released to its pull. -/
def State.gpioCfg (s : State) (n : Nat) (v : Word) : State :=
  if !s.up then s
  else
    let s1 := s.hostWrite (R.cabGpioCfg n) v
    if s.ballFunc n ∈ ([1, 2, 3, 4, 5] : List Nat) then
      s1.setCab { s1.cab with ext := SMap.del n s1.cab.ext }
    else s1

def State.gpioSetBits (s : State) (v : Word) : State :=
  if s.up then s.setReg R.cabGpioOut (s.reg R.cabGpioOut ||| v) else s

def State.gpioClrBits (s : State) (v : Word) : State :=
  if s.up then s.setReg R.cabGpioOut (s.reg R.cabGpioOut &&& ~~~v) else s

/-! ### Triggers (R63, R64, R389, R390) -/

/-- An accepted edge at a pair of the active plan: it starts the work of an idle run that has the time, is absorbed by a
run that starts work in this tick (R390), or sets the latch. -/
def State.edgeAt (s : State) (t p : Nat) : State :=
  match s.runAt p with
  | none => s.setLatch t p
  | some r =>
    let named := decide (r.template = 0x30) && decide (blkTrig r.block = t)
    let mine := named && r.inert.isNone
    let left := r.start + r.stake.dur - s.now
    let need := 16 + frontOf r.inner r.block r.stake.group + blkU r.block +
      tailOf r.inner r.block r.stake.hold r.stake.resumable + r.stake.guard
    if mine ∧ r.phase = .idle ∧ need ≤ left then
      (s.setLatch t p).putRun { r with phase := .dispatched, readyAt := s.now + 16 }
    -- the work that it would start during the inhibit gives INHIBITED and clears the latch (R384)
    else if named ∧ r.inert = some .inhibited ∧ r.phase = .idle ∧ s.inhibited ∧ need ≤ left then
      (s.inertReport r .inhibited).putRun { r with phase := .dispatched }
    else if mine ∧ r.workAt = some s.now ∧ 0 < r.absorbed then s.putRun { r with absorbed := r.absorbed + 1 }
    else s.setLatch t p

/-- An accepted edge: counted, traced, holdoff started, and given to every pair of the trigger. -/
def State.acceptEdge (s : State) (t : Nat) (sw : Bool) : State :=
  let pin := s.cfg (R.cabTrig t) F.cabTrig.pin
  let hold := s.now + msTicks (s.cfg (R.cabTrig t) F.cabTrig.holdoffMs)
  let s1 := (s.bump (R.cabTrig t) F.cabTrig.edges).trace 0x06 t (pin + 256 * sw.toNat)
  let s2 := s1.setCab { s1.cab with holdoff := SMap.put 0 s1.cab.holdoff t hold }
  if s2.bit R.schStatus F.schStatus.loaded then
    (s2.planPairs.filter fun x => decide (x.1 = t)).foldl (fun s x => s.edgeAt t x.2) s2
  else s2.setLatch t 255

/-- Edges are seen from step 7 of the reset sequence on (R366). -/
def State.seesEdges (s : State) : Bool :=
  s.up || (match s.boot.seq with
    | some q => decide (7 ≤ q.step)
    | none => false)

/-- The new level has held at the output of the 2-tick synchroniser for filter_us (R389). -/
def State.edgeFiltered (s : State) (t : Nat) (o : EdgeObs) : Bool :=
  decide (2 + usTicks (s.cfg (R.cabTrig t) F.cabTrig.filterUs) ≤ o.held)

/-- The edge of a trigger is one of those that it watches. -/
def State.edgeChosen (s : State) (t : Nat) (level : Bool) : Bool :=
  let edge := s.cfg (R.cabTrig t) F.cabTrig.edge
  decide (edge = 3) || (if level then decide (edge = 1) else decide (edge = 2))

/-- TRIGGER_EDGE: the ball of a trigger has taken a new level. A ball that the DN4810 drives has the level it drives (R391). -/
def State.triggerEdge (s : State) (t : Nat) (o : EdgeObs) : State :=
  let pin := s.cfg (R.cabTrig t) F.cabTrig.pin
  if !s.seesEdges || ((s.ballDriven pin).isSome && decide (s.ballLevel pin ≠ o.level)) then s
  else
    let s1 := if (s.ballDriven pin).isSome then s else s.setCab { s.cab with ext := SMap.ins pin o.level s.cab.ext }
    if !s.edgeFiltered t o || !s.edgeChosen t o.level || decide (s.now < SMap.look 0 s.cab.holdoff t) then s1
    else s1.acceptEdge t false

/-- TRIGGER_SW: an accepted edge at the tick of the write, whatever the pin and the holdoff. -/
def State.triggerSw (s : State) (t : Nat) : State := if s.up then s.acceptEdge t true else s

/-! ### The commands -/

/-- RF_INHIBIT: the filters of the channels accept levels. -/
def execRfInhibit (a b : Wire) (s : State) : Host.Outcome State Fault Refusal := .next (s.setInhibit (wireA a) (wireB b))

def execRfInhibitRelease (a b : Wire) (s : State) : Host.Outcome State Fault Refusal := .next (s.setInhibit (wireA a) (wireB b))

def execUhfStandbyRestored (s : State) : Host.Outcome State Fault Refusal := .next s.uhfRestored

def execRfoffSample (s : State) : Host.Outcome State Fault Refusal := .next s.rfoffSample

def execTriggerEdge (t : Fin 16) (o : EdgeObs) (s : State) : Host.Outcome State Fault Refusal :=
  .next (s.triggerEdge t o)

def execTriggerSw (_m : PMaster) (t : Fin 16) (s : State) : Host.Outcome State Fault Refusal := .next (s.triggerSw t)

def execGpioCfgWrite (_m : PMaster) (n : Fin 64) (v : Word) (s : State) : Host.Outcome State Fault Refusal :=
  .next (s.gpioCfg n v)

def execGpioSet (_m : PMaster) (v : Word) (s : State) : Host.Outcome State Fault Refusal := .next (s.gpioSetBits v)

def execGpioClr (_m : PMaster) (v : Word) (s : State) : Host.Outcome State Fault Refusal := .next (s.gpioClrBits v)

end Sys2Proof.Machine
end

