-- ==== Sys2Proof/Machine/Spare.lean ====
section
/-! DEFINITION. HLT's work on the spares (R324 to R339): rotation, handover, return and checkpoints, failures and link
failures, the comparison of calibration runs, and slewing. -/

namespace Sys2Proof.Machine

/-! ### Rotation (R324, R346) -/

/-- HLT_CFG.rot_hf or rot_uhf. -/
def State.rotates (s : State) (k : Kind) : Bool := match k with
  | .hf => s.cfgBit R.hltCfg F.hltCfg.rotHf
  | .uhf => s.cfgBit R.hltCfg F.hltCfg.rotUhf

/-- Ticks of rot_period_s ÷ N, rounded up. -/
def State.rotTicks (s : State) (k : Kind) : Nat :=
  let n := (kindSlices k).length
  (sTicks (max 30 (s.cfg R.hltCfg F.hltCfg.rotPeriodS)) + n - 1) / n

/-- The slice whose turn it is: from HLT_SPARE.next on in rotation order, failed slices skipped. -/
def State.turnOf (s : State) (k : Kind) : Option Nat :=
  let v := s.spareReg k F.hltSpare.next
  let l := kindSlices k
  ((l.filter fun n => decide (v ≤ n)) ++ l.filter fun n => decide (n < v)).find? fun n => !(s.slice n).failed

/-- The slice after n in rotation order. -/
def nextTurn (k : Kind) (n : Nat) : Nat := if n = spareOf k then (kindSlices k).headD 0 else n + 1

/-- ROTATION_DUE (R324): a slice whose port has no stake in the plan goes to its load at once, and the port switch matrix takes
80 ticks for it (R72, R325): its calibration may start then. -/
def State.rotationDue (s : State) (k : Kind) : State :=
  let x := s.rotor k
  let covering : Bool := match x.xfer with
    | some t => t.cover
    | none => false
  if !s.up || !s.rotates k || !s.planHasCal k || x.rot.isSome || x.spareFailed || decide (s.spareReason k = 2) ||
      covering || !x.waiting.isEmpty || !(x.due || decide (x.lastStart + s.rotTicks k ≤ s.now)) then s
  else
    match s.turnOf k with
    | none => s
    | some n =>
      let alone := decide (n ≠ spareOf k) && !s.planHasPort n
      let r : Rotation := { slice := n, handed := alone, handedAt := s.now - 160, calibrated := false, calAt := none }
      let s1 := (s.setRotor k { x with rot := some r, dueAt := s.now, lastStart := s.now, due := false }).setSpare k
        F.hltSpare.next (nextTurn k n)
      if alone then s1.toLoad n 80 else s1

/-- A write of HLT_CTRL: rotate makes slice id the next of its kind. -/
def State.hltCtrl (s : State) (v : Word) : State :=
  let id := Word.get v F.hltCtrl.id
  let k := kindOf id
  let s1 := s.setFld R.hltCtrl F.hltCtrl.id id
  if Word.get v F.hltCtrl.rotate = 0 ∨ !isSlice id ∨ (s.slice id).failed then s1
  else (s1.setSpare k F.hltSpare.next id).setRotor k { s1.rotor k with due := true }

/-! ### Checkpoints (R327) -/

/-- CHECKPOINT (R327): at a qualifying seam of an in-service port with no transfer, once per seam. -/
def State.checkpoint (s : State) (p : Nat) (live : List Word) : State :=
  let busy : Bool := match (s.rotor (kindOf p)).xfer with
    | some t => decide (t.port = p)
    | none => false
  let done : Bool := match s.seamNow p, s.bestSlot p with
    | some (a, _), some x => decide (a ≤ (x.words.getD 30 0).toNat) && decide (0 < (x.words.getD 30 0).toNat)
    | _, _ => false
  if !s.up || busy || done || !s.inService p || !s.qualifies p 0 then s
  else s.saveSlot p s.now (s.liveWords p live)

/-! ### Handover and return (R325 to R327, R331) -/

/-- A transfer starts. -/
def State.startXfer (s : State) (k : Kind) (p : Nat) (toSpare cover : Bool) : State :=
  s.setRotor k { s.rotor k with
    xfer := some { port := p, toSpare := toSpare, start := s.now, cover := cover, fellAt := none } }

/-- SPARE_HANDOVER: the first waiting failed port, else the port of the rotation that is due. -/
def State.handover (s : State) (k : Kind) : State :=
  let x := s.rotor k
  if !s.up || x.xfer.isSome || x.spareFailed || (s.coveredPort k).isSome then s
  else
    match x.waiting with
    | p :: l => if s.qualifies p 0 then (s.setWaiting k l).startXfer k p true true else s
    | [] =>
      match x.rot with
      | none => s
      | some r =>
        if r.handed ∨ r.calibrated ∨ r.slice = spareOf k ∨ !s.qualifies r.slice x.dueAt then s
        else
          (s.setRotor k { x with rot := some { r with handed := true, handedAt := s.now }, lastStart := s.now }).startXfer k
            r.slice true false

/-- SPARE_RETURN: the rotated port, in a seam that begins after its calibration. -/
def State.giveBack (s : State) (k : Kind) : State :=
  let x := s.rotor k
  match x.rot, s.coveredPort k with
  | some r, some p =>
    match r.calAt with
    | none => s
    | some t =>
      if !s.up || x.xfer.isSome || !r.calibrated || decide (r.slice ≠ p) || decide (s.spareReason k = 2) ||
          (s.slice p).failed || !s.qualifies p t then s
      else s.startXfer k p false false
  | _, _ => s

/-- The words of both slots of a port. -/
def ckWords (p : Nat) : List Nat := (List.range 64).map fun i => ckAddr (2 * p) + 8 * i

/-- Steps 1 and 2 of a transfer: the live state read from the outgoing slice goes into the older slot; the write of a slice that
fails in step 2 stops part way, and a failed slice cannot be read (R327 to R329). -/
def State.saveXfer (s : State) (t : Transfer) (live : List Word) : State :=
  let out := if t.toSpare then t.port else spareOf (kindOf t.port)
  let save := s.saveSlot t.port t.start (s.liveWords t.port live)
  match t.fellAt with
  | some u => if t.start + 80 < u then save else if t.start + 40 ≤ u then s.breakSlot t.port else s
  | none => if (s.slice out).failed then s else save

/-- Step 3: the valid slot with the higher generation is loaded into the incoming slice. Without one it starts with the head class
UNKNOWN and the drive level of its own corrections (R329). -/
def State.loadSlice (s : State) (t : Transfer) (live : List Word) : State :=
  let inc := if t.toSpare then spareOf (kindOf t.port) else t.port
  let fell : Bool := match t.fellAt with
    | some u => decide (u ≤ t.start + 80)
    | none => false
  let s1 := (s.saveXfer t live).touchAll (ckWords t.port)
  match s1.bestSlot t.port with
  | some x =>
    let s2 := s1.modSlice inc fun y => { y with live := Config.loadLive t.port t.toSpare (x.words.take 30) }
    let s3 := (s2.headBack t.port (x.words.getD 0 0)).modPort t.port fun y => { y with
      aerial := (x.words.getD 1 0).getLsbD 0 }
    if fell then s3.health t.port .ok 0x0106 x.gen [] else s3
  | none => ((s1.modSlice inc fun y => { y with live := [] }).setFld (headReg t.port) F.hfaHeadStatus.cls 0).health t.port .ok
      0x0107 0 []

/-- The spare serves a port from now on. A spare that has failed since step 4 gives it up at once (R333). -/
def State.onSpare (s : State) (k : Kind) (t : Transfer) : State :=
  let sp := spareOf k
  let s0 := (s.modPort t.port fun x => { x with covered := true }).showSpare k t.port (if t.cover then 2 else 1)
  let s1 := if (s.slice sp).failed then s0 else s0.sliceShow sp 0
  let s2 := if (s.slice t.port).failed then s1 else s1.toLoad t.port 0
  let s3 := if t.cover then
      ((((s2.modSlice sp fun x => { x with corr := if x.target.isEmpty then x.corr else x.target }).setBit
        (R.hltSliceStatus sp) F.hltSliceStatus.slewing false).health t.port .ok 0x0102 sp []).portBack t.port)
    else s2
  if (s.rotor k).spareFailed then s3.spareLost k else s3

/-- The port's own slice serves it again, and the rotation has ended. One that has failed since step 4 leaves it as R331 says. -/
def State.onOwn (s : State) (k : Kind) (t : Transfer) : State :=
  let sp := spareOf k
  let failed := (s.rotor k).spareFailed
  let s1 := (s.modPort t.port fun x => { x with covered := false }).showSpare k 0xFF (if failed then 3 else 0)
  let s2 := if failed then s1 else s1.sliceShow sp 3
  let s3 := s2.setRotor k { s2.rotor k with rot := none }
  if (s.slice t.port).failed then s3.portFailed k t.port
  else
    let s4 := if (s.slice t.port).st = calState t.port then s3.sliceTo t.port (sliceRest t.port) else s3
    (s4.sliceShow t.port 0).portBack t.port

/-- SPARE_TRANSFER_DONE (R327): 240 ticks after the start, the new slice serves the port. -/
def State.transferDone (s : State) (k : Kind) (live : List Word) : State :=
  match (s.rotor k).xfer with
  | none => s
  | some t =>
    if !s.up ∨ s.now < t.start + 240 then s
    else
      let s1 := (s.loadSlice t live).setRotor k { s.rotor k with xfer := none }
      let s2 := if t.toSpare then s1.onSpare k t else s1.onOwn k t
      let how := if t.cover then 2 else if t.toSpare then 0 else 1
      (s2.trace 0x08 t.port (s2.server t.port * 2 ^ 40 + how * 2 ^ 32)).driveCxp

/-! ### Calibration (R335 to R338, R342) -/

/-- A quantity of R336: its row, its agreement, its range about the factory value (none for any), and its period when it
is an angle. Gains are in 0.01 dB, angles in 10⁻⁵ degrees, scales in 0.01 %, offsets in LSB. -/
structure Quantity where
  row : Nat
  tol : Nat
  range : Option Nat
  period : Option Nat
  deriving DecidableEq, Repr

def Quantity.gain (row tol range : Nat) : Quantity := { row := row, tol := tol, range := some range, period := none }
def Quantity.angle (row tol : Nat) (range : Option Nat) : Quantity :=
  { row := row, tol := tol, range := range, period := some 36000000 }

/-- The quantities of a kind in the order of R336, the eight gain codes together, the settling terms left out. -/
def quantities : Kind → List Quantity
  | .hf =>
    [[Quantity.gain 1 10 300, Quantity.angle 2 140625 none], List.replicate 8 (Quantity.gain 3 20 200),
     [Quantity.gain 4 5 100, Quantity.angle 5 50000 (some 500000), Quantity.gain 6 8 512, Quantity.gain 6 8 512,
      Quantity.gain 7 100 1000, Quantity.angle 8 140625 (some 1125000)]].flatten
  | .uhf =>
    [[Quantity.gain 1 10 300], List.replicate 8 (Quantity.gain 3 20 200),
     [Quantity.gain 4 5 100, Quantity.angle 5 50000 (some 500000), Quantity.gain 6 8 512, Quantity.gain 6 8 512,
      Quantity.gain 9 4 256, Quantity.gain 9 4 256, Quantity.gain 10 5 100, Quantity.angle 10 50000 (some 500000),
      Quantity.gain 11 20 300, Quantity.angle 11 200000 none, Quantity.gain 12 20 200]].flatten

/-- Distance of two values of a quantity. -/
def Quantity.dist (q : Quantity) (a b : Int) : Nat :=
  match q.period with
  | none => (a - b).natAbs
  | some p => min ((a - b) % p).natAbs ((b - a) % p).natAbs

/-- Value i of a run about its factory value lies in range. -/
def Quantity.inRange (q : Quantity) (f v : Int) : Bool :=
  match q.range with
  | none => true
  | some r => decide (q.dist v f ≤ r)

/-- The values of a run that lie outside their range about the factory values (R336); terms are at most 4 × nominal. -/
def State.outOfRange (s : State) (n : Nat) (run : List Int) : List Int :=
  let k := kindOf n
  let qs := quantities k
  let vals := ((List.range qs.length).zip qs).filterMap fun x =>
    let v := run.getD x.1 0
    if x.2.inRange (Config.factoryValue s.boot.factory n x.1) v then none else some v
  let terms := ((List.range (nominalTerms k).length).zip (nominalTerms k)).filterMap fun x =>
    let v := run.getD (qs.length + x.1) 0
    if v ≤ 4 * (x.2 : Int) then none else some v
  List.append vals terms

/-- Every value of a run lies in its range. -/
def State.runInRange (s : State) (n : Nat) (run : List Int) : Bool := (s.outOfRange n run).isEmpty

/-- The values of two runs that failed, as far as a SLICE_FAILED record has words for them (R345). -/
def State.badValues (s : State) (n : Nat) (a b : List Int) : List Word :=
  ((List.append (s.outOfRange n a) (s.outOfRange n b)).take 3).map fun v => BitVec.ofInt 64 v

/-- The first quantity on which two runs disagree: its row and the two values. -/
def firstDisagreement (k : Kind) (a b : List Int) : Option (Nat × Int × Int) :=
  let qs := quantities k
  let l := ((List.range qs.length).zip qs).filterMap fun x =>
    let u := a.getD x.1 0
    let v := b.getD x.1 0
    if x.2.dist u v ≤ x.2.tol then none else some (x.2.row, u, v)
  let m := (List.range (nominalTerms k).length).filterMap fun i =>
    let u := a.getD (qs.length + i) 0
    let v := b.getD (qs.length + i) 0
    if 10 * (u - v).natAbs ≤ u.natAbs ∨ (u - v).natAbs ≤ 40 then none else some (13, u, v)
  (List.append l m).head?

/-- The measured terms of an agreeing calibration with the derate addition of the slice, saturating (R342, R343;
notes/assumptions/100.md). -/
def State.setTerms (s : State) (n : Nat) (vals : List Int) : State :=
  (s.modSlice n fun x => { x with
    terms := (List.range (nominalTerms (kindOf n)).length).map fun i => min 0xFFFF ((vals.getD i 0).toNat + s.termDerate n i) }).showTerms n

/-- Corrections replace the old ones in one update, or become the target (R338). -/
def State.correctSlice (s : State) (n : Nat) (vals : List Int) (step : Bool) : State :=
  if step then (s.modSlice n fun x => { x with corr := vals, target := vals }).setBit (R.hltSliceStatus n)
    F.hltSliceStatus.slewing false
  else (s.modSlice n fun x => { x with target := vals }).setBit (R.hltSliceStatus n) F.hltSliceStatus.slewing
    (decide ((s.slice n).corr ≠ vals))

/-- Headroom and the derate step (R342), under HLT_DERATE_CFG as the calibration has it (R25). -/
def State.headroom (s : State) (n : Nat) (h : Int) (cfg : Word) : State :=
  let d := s.derate n
  let thr : Int := Word.get cfg F.hltDerateCfg.headroomDb
  let s1 := s.setFld (R.hltSliceStatus n) F.hltSliceStatus.headroom (BitVec.ofInt 16 h).toNat
  let d1 := if Word.get cfg F.hltDerateCfg.enable = 0 then d
    else if h < thr then min 3 (d + 1) else if thr + 10 < h then d - 1 else d
  if d1 = d then s1
  else
    let s2 := (s1.setFld (R.hltSliceStatus n) F.hltSliceStatus.derate d1).health n .ok 0x0109 d1 [BitVec.ofInt 64 h]
    s2.logRec 0x43 [BitVec.ofNat 64 n, BitVec.ofNat 64 d1, BitVec.ofInt 64 h]

/-- An agreeing calibration of a slice (R336, R338, R342, R343). -/
def State.calAgree (s : State) (n : Nat) (a b : List Int) (h : Int) (cfg : Word) (step : Bool) : State :=
  let v := Config.calResult a b
  let m := (quantities (kindOf n)).length
  let s1 := (s.setFld (R.hltSliceStatus n) F.hltSliceStatus.disagree 0).bump (R.hltSliceStatus n) F.hltSliceStatus.cals
  let s2 := (s1.setReg (R.hltCalTime n) (BitVec.ofNat 64 s.now)).headroom n h cfg
  (s2.setTerms n (v.drop m)).correctSlice n (v.take m) step

/-- The rotation's calibration is over: its port may return in a seam that begins after the stake. -/
def State.calOver (s : State) (k : Kind) (stop : Nat) : State :=
  let x := s.rotor k
  match x.rot with
  | none => s
  | some r => s.setRotor k { x with rot := some { r with calibrated := true, calAt := some stop } }

/-- Ticks from S to the comparison (R335). -/
def calTicks : Kind → Nat
  | .hf => 160016
  | .uhf => 400016

/-- CAL_COMPARE (R336, R337): in the CAL_SLICE stake of a kind, whose slice stands in CAL for the runs (R71, R188, R335). -/
def State.calCompare (s : State) (k : Kind) (a b : List Int) (h : Int) : State :=
  match s.runAt (spareOf k) with
  | none => s
  | some run =>
    match s.calTarget k run.start with
    | none => s
    | some n =>
      if !s.up ∨ run.template ≠ 0x20 ∨ s.now < run.start + calTicks k ∨ (s.slice n).st ≠ calState n then s
      else
        if !s.runInRange n a || !s.runInRange n b then s.failSlice n 2 (s.badValues n a b)
        else match firstDisagreement k a b with
          | some (row, u, v) =>
            let d := s.fld (R.hltSliceStatus n) F.hltSliceStatus.disagree + 1
            let s2 := (s.setFld (R.hltSliceStatus n) F.hltSliceStatus.disagree (min 15 d)).health n .ok 0x0108 row
              [BitVec.ofInt 64 u, BitVec.ofInt 64 v]
            if max 1 (run.fld R.hltCfg F.hltCfg.disagreeMax) ≤ d then
              s2.failSlice n 3 [BitVec.ofInt 64 u, BitVec.ofInt 64 v]
            else (s2.calOver k run.stop).setSpare k F.hltSpare.next n
          | none =>
            let step := run.bit R.hltCfg F.hltCfg.stepMode || !(s.port n).covered
            (s.calAgree n a b h (run.reg R.hltDerateCfg) step).calOver k run.stop

/-- One quantity of a slew (R339). -/
def slewStep (c t : Int) : Int :=
  let d := Int.tdiv (t - c) 16
  if d ≠ 0 then c + d else if c < t then c + 1 else if t < c then c - 1 else c

/-- CORRECTION_SLEW (R339): at tick multiples of 40,000, while a stake on the slice's port is active. -/
def State.slew (s : State) (n : Nat) : State :=
  let x := s.slice n
  if !s.up ∨ s.now % 40000 ≠ 0 ∨ x.slewAt = some s.now ∨ x.corr = x.target ∨ (s.runOf n).isNone then s
  else
    let corr := (List.range x.target.length).map fun i => slewStep (x.corr.getD i 0) (x.target.getD i 0)
    (s.setSlice n { x with corr := corr, slewAt := some s.now }).setBit (R.hltSliceStatus n) F.hltSliceStatus.slewing
      (decide (corr ≠ x.target))

/-! ### Failures (R30, R31, R330) -/

/-- SLICE_FAILED: the cause of R330; 0 is none. -/
def State.sliceFailed (s : State) (n cause : Nat) : State := if !s.up ∨ cause = 0 then s else s.failSlice n cause []

/-- The slices of a die, the spare first (R13): 0 HA, 1 HB, 2 UA, 3 UB, 4 UC. -/
def dieSlices : Nat → List Nat
  | 0 => 32 :: List.range 16
  | 1 => (List.range 16).map (· + 16)
  | 2 => (List.range 6).map (· + 64)
  | 3 => (List.range 6).map (· + 70)
  | 4 => 80 :: (List.range 4).map (· + 76)
  | _ => []

/-- LINK_FAIL (R30, R31): 5 is the power die. -/
def State.linkFail (s : State) (die : Nat) : State :=
  if die = 5 then (if s.boot.power = .ready ∨ s.boot.power = .run then s.eccCritical else s)
  else if !s.up then s
  else (s.health 0xFF .ok 0x010F die []).each (dieSlices die) fun s n => s.failSlice n 5 []

/-! ### The commands -/

def execRotationDue (k : Kind) (s : State) : Host.Outcome State Fault Refusal := .next (s.rotationDue k)

/-- ROTATE: a write of HLT_CTRL by pitch 0. -/
def execRotate (_m : PMaster) (v : Word) (s : State) : Host.Outcome State Fault Refusal :=
  .next (if s.up then s.hltCtrl v else s)

def execSpareHandover (k : Kind) (s : State) : Host.Outcome State Fault Refusal := .next (s.handover k)

def execSpareReturn (k : Kind) (s : State) : Host.Outcome State Fault Refusal := .next (s.giveBack k)

def execCheckpoint (port : Nat) (live : List Word) (s : State) : Host.Outcome State Fault Refusal :=
  if isPort port then .next (s.checkpoint port live) else .fault .noSuchResource

def execSpareTransferDone (k : Kind) (live : List Word) (s : State) : Host.Outcome State Fault Refusal :=
  .next (s.transferDone k live)

def execCalCompare (k : Kind) (a b : List Int) (headroom : Int) (s : State) : Host.Outcome State Fault Refusal :=
  .next (s.calCompare k a b headroom)

def execSliceFailed (slice : Nat) (cause : Fin 7) (s : State) : Host.Outcome State Fault Refusal :=
  if isSlice slice then .next (s.sliceFailed slice cause) else .fault .noSuchResource

def execLinkFail (die : Fin 6) (s : State) : Host.Outcome State Fault Refusal := .next (s.linkFail die)

def execCorrectionSlew (slice : Nat) (s : State) : Host.Outcome State Fault Refusal :=
  if isSlice slice then .next (s.slew slice) else .fault .noSuchResource

end Sys2Proof.Machine
end

