-- ==== Sys2Proof/Machine/Ageing.lean ====
section
/-! DEFINITION. Ageing (R340, R341, R345): the ring oscillators, the core voltage, and the timed logbook records. -/

namespace Sys2Proof.Machine

/-- 10⁶ × (1 − stressed ÷ reference), saturating; a part of a ppm falls either way, and a stressed ring that runs faster
or a reference that does not run gives a free value (notes/assumptions/28.md). -/
def degrPpm (seed : Nat) (c : Nat × Nat) : Nat :=
  if c.2 = 0 ∨ c.2 < c.1 then (Config.freeWord seed).toNat % 2 ^ 24
  else
    let n := 1000000 * (c.2 - c.1)
    min 0xFFFFFF (n / c.2 + (if n % c.2 = 0 then 0 else Config.freeNat seed % 2))

/-- Whole periods of site time that have passed (notes/assumptions/28.md). -/
def State.periods (s : State) (ticks : Nat) : Nat := s.now / ticks

/-- AGE_MEASURE (R340): the counts of both rings of monitors 0 to 7, once every 10 s of site time. -/
def State.ageMeasure (s : State) (counts : List (Nat × Nat)) : State :=
  if !s.up ∨ s.periods (sTicks 10) ≤ s.hlt.ageDone then s
  else
    let s1 := s.setHlt { s.hlt with ageDone := s.periods (sTicks 10) }
    (s1.each (List.range 8) fun t m =>
      t.setReg (R.hltAge m) (Word.put (Word.put 0 F.hltAge.valid 1) F.hltAge.degrPpm
        (degrPpm (s.fresh + m) (counts.getD m (0, 0))))).skip 8

/-- HLT_AVS.lo and hi in ppm; a lo at or above hi acts as hi − 1. -/
def State.avsHi (s : State) : Int := 1000 * (s.cfg R.hltAvs F.hltAvs.hi : Int)
def State.avsLo (s : State) : Int :=
  let lo := s.cfg R.hltAvs F.hltAvs.lo
  let hi := s.cfg R.hltAvs F.hltAvs.hi
  if hi ≤ lo then 1000 * ((hi : Int) - 1) else 1000 * (lo : Int)

def State.avsCode (s : State) : Nat := s.fld R.hltAvs F.hltAvs.code

/-- The code moves to c: the highest value in force is kept, and an AVS record is due (R345, R346). -/
def State.setAvs (s : State) (c : Nat) (mu : Int) : State :=
  let top := max (max c s.avsCode) (s.fld R.hltAvs F.hltAvs.codeMax)
  let s1 := (s.setFld R.hltAvs F.hltAvs.code c).setFld R.hltAvs F.hltAvs.codeMax top
  s1.logRec 0x42 [BitVec.ofNat 64 c, BitVec.ofInt 64 mu, BitVec.ofNat 64 top]

/-- The code is 28 and μ still lies below lo: AVS_LIMIT at most once per hour. -/
def State.avsLimit (s : State) (mu : Int) : State :=
  let s1 := s.setBit R.hltAvs F.hltAvs.atLimit true
  let soon : Bool := match s.hlt.avsLimitAt with
    | none => false
    | some t => decide (s.now < t + sTicks 3600)
  if soon then s1
  else (s1.setHlt { s1.hlt with avsLimitAt := some s.now }).health 0xFF .ok 0x010B (BitVec.ofInt 32 mu).toNat []

/-- AVS (R341): once every 10 ms. -/
def State.avs (s : State) (mu : Int) : State :=
  if !s.up ∨ s.periods (msTicks 10) ≤ s.hlt.avsDone then s
  else
    let c := s.avsCode
    let s0 := (s.setHlt { s.hlt with avsDone := s.periods (msTicks 10) }).setFld R.hltAvs F.hltAvs.muPpm (BitVec.ofInt 24 mu).toNat
    let s1 := s0.setFld R.hltAvs F.hltAvs.codeMax (max c (s0.fld R.hltAvs F.hltAvs.codeMax))
    if mu < s.avsLo then (if 28 ≤ c then s1.avsLimit mu else s1.setAvs (c + 1) mu)
    else if s.avsHi < mu then (if c = 0 then s1 else s1.setAvs (c - 1) mu)
    else s1

/-- AGE_SUMMARY (R345): degr_ppm of the monitors, two to a word, once every 24 h of site time. -/
def State.ageSummary (s : State) : State :=
  if !s.up ∨ s.periods (sTicks 86400) ≤ s.hlt.summaryDone then s
  else
    let d (m : Nat) : Nat := s.fld (R.hltAge m) F.hltAge.degrPpm
    (s.setHlt { s.hlt with summaryDone := s.periods (sTicks 86400) }).logRec 0x44 ((List.range 4).map fun i => word2 (d (2 * i + 1)) (d (2 * i)))

/-- LOG_RATE_WINDOW_END (R345): the deferred record of a type is written with its newest values. -/
def State.rateWindowEnd (s : State) (type : BitVec 8) : State :=
  let mine := s.hlt.deferred.filter fun x => decide (x.type = type)
  let open_ : Bool := match SMap.find s.hlt.lastLog type.toNat with
    | none => false
    | some t => decide (s.now < t + sTicks 60)
  if !s.up || open_ || mine.isEmpty then s
  else s.setHlt { s.hlt with
    deferred := s.hlt.deferred.filter fun x => decide (x.type ≠ type)
    logQueue := s.hlt.logQueue ++ mine
    lastLog := SMap.ins type.toNat s.now s.hlt.lastLog }

/-! ### The commands -/

def execAgeMeasure (counts : List (Nat × Nat)) (s : State) : Host.Outcome State Fault Refusal :=
  .next (s.ageMeasure counts)

def execAvs (mu : Int) (s : State) : Host.Outcome State Fault Refusal := .next (s.avs mu)

def execAgeSummary (s : State) : Host.Outcome State Fault Refusal := .next s.ageSummary

def execLogRateWindowEnd (type : BitVec 8) (s : State) : Host.Outcome State Fault Refusal :=
  .next (s.rateWindowEnd type)

end Sys2Proof.Machine
end

