-- ==== Sys2Proof/Machine/Keys.lean ====
section
/-! DEFINITION. The key slots of SEC (R291, R292, R365). -/

namespace Sys2Proof.Machine

/-- Where the pending key data of a pitch, or of SEC_KEY_DATA, lie. -/
def dataKey (pitch : Option Nat) (i : Nat) : Nat := match pitch with
  | none => i
  | some p => 4 + 4 * p + i

/-- The key that four data words spell: the low 128 bits of it for a 128-bit key. -/
def State.dataValue (s : State) (pitch : Option Nat) (long : Bool) : BitVec 256 :=
  let w (i : Nat) : Nat := (SMap.look 0 s.sec.keyData (dataKey pitch i)).toNat
  let lo := w 0 + w 1 * 2 ^ 64
  BitVec.ofNat 256 (if long then lo + w 2 * 2 ^ 128 + w 3 * 2 ^ 192 else lo)

/-- A slot takes a key; the one before it is remembered with the tick, and so is what the checks of this tick still take
(R291, R292). -/
def State.loadKey (s : State) (slot : Nat) (key : BitVec 256) (long : Bool) : State :=
  let old := (SMap.look 0 s.sec.keys slot, SMap.look false s.sec.long slot)
  let s1 := match SMap.find s.tick.keys slot with
    | some _ => s
    | none =>
      let was : OldKey := { key := old.1, long := old.2, prev := SMap.find s.sec.prev slot }
      s.setTick { s.tick with keys := SMap.ins slot was s.tick.keys }
  s1.setSec { s.sec with
    keys := SMap.put 0 s.sec.keys slot key, long := SMap.put false s.sec.long slot long
    prev := SMap.ins slot (old.1, old.2, s.now) s.sec.prev }

/-- The four data registers are cleared. -/
def State.clearData (s : State) (pitch : Option Nat) : State :=
  s.setSec { s.sec with
    keyData := (List.range 4).foldl (fun m i => SMap.del (dataKey pitch i) m) s.sec.keyData }

/-- A word of the key data is written. -/
def State.writeData (s : State) (pitch : Option Nat) (i : Nat) (w : Word) : State :=
  s.setSec { s.sec with keyData := SMap.put 0 s.sec.keyData (dataKey pitch i) w }

/-- The bytes of a slot's key, first byte first. -/
def keyBytes (key : BitVec 256) (long : Bool) : List Byte := bytesOf (if long then 32 else 16) key.toNat

/-- The key of a slot as it stands: outbound datagrams are tagged under it (R292). -/
def State.slotKey (s : State) (slot : Nat) : List Byte :=
  keyBytes (SMap.look 0 s.sec.keys slot) (SMap.look false s.sec.long slot)

/-- The key of a slot as a check takes it (R292). -/
def State.checkBytes (s : State) (slot : Nat) : List Byte := keyBytes (s.checkKey slot).1 (s.checkKey slot).2

/-- The key that a slot held before a load of the last second (R292). -/
def State.oldKey (s : State) (slot : Nat) : Option (List Byte) :=
  match s.prevKey slot with
  | none => none
  | some (k, long, t) => if s.now ≤ t + sTicks 1 then some (keyBytes k long) else none

/-- What PIT_KEY_CMD and SEC_KEY_LOAD keep: slot and len256. -/
def keyCmdWord (v : Word) : Word := v &&& 0x13F

/-- KEY_LOAD: PIT_KEY_CMD written in the view of a pitch (R289, R291). -/
def State.pitKeyCmd (s : State) (q : Nat) (v : Word) : State :=
  let m : Master := ⟨(3 + q) % 12, Nat.mod_lt _ (by decide)⟩
  if q = 0 ∨ 8 < q ∨ !s.masterOn m then s
  else
    let s1 := s.setPit { s.pit with keyCmd := SMap.put 0 s.pit.keyCmd q (keyCmdWord v) }
    let slot := v.toNat % 64
    if !v.getLsbD 63 then s1
    else if s1.ownsKey q slot then
      (s1.loadKey slot (s1.dataValue (some q) (v.getLsbD 8)) (v.getLsbD 8)).clearData (some q)
    else s1.violation q m.val 0x05 slot

/-- SEC_KEY_LOAD: any slot (R365). -/
def State.secKeyCmd (s : State) (v : Word) : State :=
  if !s.up then s
  else
    let s1 := s.setReg R.secKeyLoad (keyCmdWord v)
    if !v.getLsbD 63 then s1
    else (s1.loadKey (v.toNat % 64) (s1.dataValue none (v.getLsbD 8)) (v.getLsbD 8)).clearData none

/-! ### The commands -/

def execKeyLoad (p : Fin 9) (v : Word) (s : State) : Host.Outcome State Fault Refusal := .next (s.pitKeyCmd p.val v)

def execSecKeyLoad (_m : PMaster) (v : Word) (s : State) : Host.Outcome State Fault Refusal := .next (s.secKeyCmd v)

end Sys2Proof.Machine
end

