-- ==== Sys2Proof/Machine/Pcie.lean ====
section
/-! DEFINITION. PCIe (R293, R294, R296 to R299): the delivery rings, doorbells, fetches of request packets, MSI-X messages
and virtual functions. -/

namespace Sys2Proof.Machine

/-! ### The endpoint (R293, R294) -/

/-- PERST_N: the endpoint, its configuration space and every HIF_RINGn are reset, also while only PF0's windows without an image
are served (R294). -/
def State.perst (s : State) : State :=
  if !s.up ∧ !s.boot.windowsOnly then s
  else
    let s1 := s.each (List.range 64) fun s n => s.setReg (R.hifRing n) 0
    s1.setHif { s1.hif with
      ringP := [], ringC := [], fetches := [], msixTab := [], msixPend := [], numVfs := 0, vfEnable := false }

/-- VF_ENABLE_WRITE: configuration writes are answered in READY and RUN; without an image TotalVFs is 0 (R294). -/
def State.vfWrite (s : State) (n : Nat) (enable : Bool) : State :=
  if !s.up || !s.hif.pcieUp then s else s.setHif { s.hif with numVfs := n, vfEnable := enable }

/-- A word of a function's MSI-X table is written: unmasking a pending vector sends its message (R298). -/
def State.msixWrite (s : State) (fn k : Nat) (w : Word) : State :=
  let key := 128 * fn + k
  let s1 := s.setHif { s.hif with msixTab := SMap.put (msixReset key) s.hif.msixTab key w }
  let vec := k / 2
  if k % 2 = 1 ∧ !w.getLsbD 32 ∧ SMap.look false s.hif.msixPend (64 * fn + vec) then
    (s1.setHif { s1.hif with msixPend := SMap.put false s1.hif.msixPend (64 * fn + vec) false }).msixSend fn vec
  else s1

/-- MSIX_UNMASK: the mask bit of a vector is cleared. -/
def State.unmask (s : State) (fn vec : Nat) : State :=
  if !s.up || !s.fnOn fn then s
  else s.msixWrite fn (2 * vec + 1) (s.msixWord (128 * fn + 2 * vec + 1) &&& ~~~0x100000000)

/-! ### Delivery rings (R296) -/

/-- N: words of the ring of FIFO n. -/
def State.ringSize (s : State) (n : Nat) : Nat := 2 ^ (9 + min 12 (s.fld (R.hifRing n) F.hifRing.size))

def State.ringBase (s : State) (n : Nat) : Nat := 4096 * s.fld (R.hifRing n) F.hifRing.base
def State.prodIdx (s : State) (n : Nat) : Nat := SMap.look 0 s.hif.ringP n
def State.consIdx (s : State) (n : Nat) : Nat := SMap.look 0 s.hif.ringC n

/-- RING_WRITE: HIF_RINGn is written, and P and C become 0. -/
def State.ringSet (s : State) (n : Nat) (v : Word) : State :=
  let s1 := s.hostWrite (R.hifRing n) v
  s1.setHif { s1.hif with ringP := SMap.put 0 s1.hif.ringP n 0, ringC := SMap.put 0 s1.hif.ringC n 0 }

/-- Words that fit: (C − P − 1) mod (N − 1). -/
def State.ringRoom (s : State) (n : Nat) : Nat :=
  (s.consIdx n + 2 * (s.ringSize n - 1) - s.prodIdx n - 1) % (s.ringSize n - 1)

/-- The writes into host memory of a packet, split where the ring wraps, and then of P. -/
def State.ringEmit (s : State) (n : Nat) (ws : List Word) (p : Nat) : State :=
  let size := s.ringSize n
  let base := s.ringBase n
  let at_ (i : Nat) : Word := BitVec.ofNat 64 (base + 8 * i)
  let first := ws.take (size - 1 - p)
  let rest := ws.drop (size - 1 - p)
  let s1 := s.emit (.pcieWrite (at_ p) first)
  let s2 := if rest.isEmpty then s1 else s1.emit (.pcieWrite (at_ 0) rest)
  let next := (p + ws.length) % (size - 1)
  (s2.emit (.pcieWrite (at_ (size - 1)) [BitVec.ofNat 64 next])).setHif
    { s2.hif with ringP := SMap.put 0 s2.hif.ringP n next }

/-- A packet that HIF was to deliver has an uncorrectable word: it is dropped under R269 (R257). -/
def State.ueDrop (s : State) (n : Nat) (p : Packet) : State :=
  (((s.touchAll (chainAddrs p.chain p.length)).popHead n .free).dropPacket n).setBit (R.gshFifoStatus n)
    F.gshFifoStatus.ueDrop true

/-- FIFO n is delivered through its ring. -/
def State.ringOn (s : State) (n : Nat) : Bool :=
  s.up && s.fifoOn n && !s.fifoDir1 n && s.fifoHif n && s.bit (R.hifRing n) F.hifRing.ring && s.fnOn (s.fifoPitch n)

/-- RING_DELIVER: the head packet, when it fits. -/
def State.ringDeliver (s : State) (n : Nat) : State :=
  match (s.fifo n).packets with
  | [] => s
  | p :: _ =>
    if !s.ringOn n || decide (s.ringRoom n < p.length) then s
    else if s.chainUe p.chain p.length then s.ueDrop n p
    else
      let s1 := s.touchAll (chainAddrs p.chain p.length)
      let s2 := s1.ringEmit n (s1.readChain p.chain p.length) (s1.prodIdx n)
      (s2.popHead n .free).fifoMsi n true

/-! ### Doorbells and fetches (R297, R299) -/

/-- C would pass P. -/
def State.passes (s : State) (n c : Nat) : Bool :=
  let m := s.ringSize n - 1
  decide (m ≤ c) || decide ((s.prodIdx n + m - s.consIdx n) % m < (c + m - s.consIdx n) % m)

/-- View offset of a doorbell in a pitch view. -/
def bellView (n : Nat) : Nat := 0x010000 + 8 * n

/-- DOORBELL: in the view of a pitch that owns the FIFO. -/
def State.doorbell (s : State) (m : Master) (n : Nat) (v : Word) : State :=
  if !s.masterOn m || privileged m then s
  else if !s.ownsFifo (masterPitch m) n then s.outside m 0x02 (bellView n) false
  else if s.fifoDir1 n then
    s.setHif { s.hif with fetches := s.hif.fetches ++ [(n, BitVec.ofNat 64 (v.toNat / 8 * 8))] }
  else if !s.fifoHif n || !s.bit (R.hifRing n) F.hifRing.ring then s
  else if s.passes n (v.toNat % 2 ^ 32) then s.outside m 0x02 (bellView n) false
  else s.setHif { s.hif with ringC := SMap.put 0 s.hif.ringC n (v.toNat % 2 ^ 32) }

/-- Drop the first fetch of a FIFO. -/
def dropFetch (n : Nat) : List (Nat × Word) → List (Nat × Word)
  | [] => []
  | x :: l => if x.1 = n then l else x :: dropFetch n l

/-- The link words that the walk of a chain reads: none beyond an uncorrectable one. -/
def State.linkReads (s : State) : List Nat → List Nat
  | [] => []
  | b :: l => (256 * b + 248) :: if s.isUe (256 * b + 248) then [] else State.linkReads s l

/-- A chain that HIF has written is validated (R256, R266): appended, or refused where a link word is uncorrectable. -/
def State.pushChecked (s : State) (n : Nat) (chain : List Nat) (len : Nat) : State :=
  let s1 := s.touchAll (s.linkReads chain)
  if chain.any fun b => s.isUe (256 * b + 248) then s1.pushRefused n else s1.newCycle.appendHost n chain len

/-- Write the words of a request that a transport brings into buffers of the free list and push them under R266; when
the FIFO does not take them they are rewound (R267) and push_refused sets. -/
def State.pushWords (s : State) (n : Nat) (ws : List Word) : State :=
  if !s.fifoOn n || !s.fifoDir1 n || s.fifoFull n || decide (ws.length = 0) || decide (4096 < ws.length) then s.pushRefused n
  else match pickMany s.fresh (chainLen ws.length) (s.freeBufs (s.fifoPitch n)) with
    | none => s.pushRefused n
    | some c => ((s.skip c.length).writeChain c ws).pushChecked n c ws.length

/-- REQUEST_FETCH_DONE: the oldest fetch of a FIFO completes with the words that the read returned. -/
def State.fetchDone (s : State) (n : Nat) (ok : Bool) (ws : List Word) : State :=
  if !s.up || !s.hif.fetches.any (fun x => decide (x.1 = n)) then s
  else
    let s1 := s.setHif { s.hif with fetches := dropFetch n s.hif.fetches }
    let len := Word.get (ws.getD 0 0) (47, 32)
    if !ok || decide (ws.length < len) then s1.pushRefused n else s1.pushWords n (ws.take len)

/-! ### The commands -/

def execPerst (s : State) : Host.Outcome State Fault Refusal := .next s.perst

def execRingWrite (m : Master) (n : Fin 64) (v : Word) (s : State) : Host.Outcome State Fault Refusal :=
  .next (s.onFifo m n.val 0x38 fun s => s.ringSet n.val v)

def execRingDeliver (n : Fin 64) (s : State) : Host.Outcome State Fault Refusal := .next (s.ringDeliver n.val)

def execDoorbell (m : Master) (n : Fin 64) (v : Word) (s : State) : Host.Outcome State Fault Refusal :=
  .next (s.doorbell m n.val v)

def execRequestFetchDone (n : Fin 64) (ok : Bool) (words : List Word) (s : State) :
    Host.Outcome State Fault Refusal := .next (s.fetchDone n.val ok words)

def execMsixUnmask (fn : Fin 9) (vec : Fin 64) (s : State) : Host.Outcome State Fault Refusal :=
  .next (s.unmask fn.val vec.val)

def execVfEnableWrite (numVfs : BitVec 16) (enable : Bool) (s : State) : Host.Outcome State Fault Refusal :=
  .next (s.vfWrite numVfs.toNat enable)

end Sys2Proof.Machine
end

