-- ==== Sys2Proof/Machine/Flash.lean ====
section
/-! DEFINITION. The QSPI flash (R360, R367 to R370): the logbook, and the commands of a host. -/

namespace Sys2Proof.Machine

/-! ### Bytes and pages -/

/-- A flash byte; an unlisted one is erased (notes/assumptions/9.md). -/
def State.flashByte (s : State) (a : Nat) : Byte := SMap.look 0xFF s.flash a

def State.flashBytes (s : State) (a n : Nat) : List Byte := (List.range n).map fun i => s.flashByte (a + i)

/-- The word at a flash byte address. -/
def State.flashWord (s : State) (a : Nat) : Word := wordOfBytes (s.flashBytes a 8)

/-- Program bytes from an address on. -/
def State.flashPut (s : State) (a : Nat) : List Byte → State
  | [] => s
  | b :: l => State.flashPut (s.setFlash (SMap.put 0xFF s.flash a b)) (a + 1) l

/-- Erase the bytes of a range. -/
def State.flashErase (s : State) (lo hi : Nat) : State :=
  s.setFlash (s.flash.filter fun x => !(decide (lo ≤ x.1) && decide (x.1 < hi)))

/-- A 64-byte page reads 0xFF throughout. -/
def State.blankPage (s : State) (a : Nat) : Bool := (s.flashBytes a 64).all fun b => decide (b = 0xFF)

/-- First byte of the logbook, and the bytes of slot i (R360, R367). -/
def logBase : Nat := 0x00800000
def logEnd : Nat := 0x00840000
def logAddr (i : Nat) : Nat := logBase + 64 * i

/-- No logbook flash (R360). -/
def State.noLog (s : State) : Bool := s.bit R.cfgStatus F.cfgStatus.noLog

/-! ### Logbook records (R367, R368) -/

/-- Words 0 to 6 of a record. -/
def State.logWords (s : State) (x : LogRec) : List Word :=
  let epoch := match s.boot.seq with
    | some q => q.epoch
    | none => s.clock.epoch
  let head : List Word := [BitVec.ofNat 64 (x.type.toNat * 2 ^ 56 + s.hlt.logSeq.toNat),
    word2 epoch.toNat (min 0xFFFFFFFF (s.now / 40000))]
  List.append head ((List.range 5).map fun i => x.payload.getD i 0)

/-- Word 7: CRC-32C and the commit marker. -/
def commitWord (ws : List Word) : Word := word2 (crc32cWords ws) 0x5A5AC3C3

/-- The next blank slot from a slot on, in ascending order, the sectors wrapping. -/
def State.blankSlot (s : State) : Nat → Nat → Option Nat
  | 0, _ => none
  | n + 1, i => if s.blankPage (logAddr (i % 4096)) then some (i % 4096) else State.blankSlot s n (i + 1)

/-- The EPOCH record (R367): rollback floor, RST_CAUSE, source and slot. -/
def State.epochRec (s : State) : LogRec :=
  let src := s.fld R.cfgStatus F.cfgStatus.source
  { type := 0x01, payload := [s.boot.floor.setWidth 64, s.reg R.rstCause, BitVec.ofNat 64 src, BitVec.ofNat 64 src]
    tries := 0 }

/-- The record to write next: the EPOCH record, then the waiting ones, oldest first. -/
def State.nextLog (s : State) : Option LogRec := if s.hlt.epochDue then some s.epochRec else s.hlt.logQueue.head?

/-- The record at the head has been committed, or is given up. -/
def State.logOver (s : State) (written : Bool) : State :=
  if s.hlt.epochDue then
    if written then (s.setHlt { s.hlt with epochDue := false }).setBit R.cfgStatus F.cfgStatus.logFail false else s
  else s.setHlt { s.hlt with logQueue := s.hlt.logQueue.tail }

/-- CFG may write the logbook: once an image has been read (step 6 of the reset sequence), and while no flash command of an earlier
tick runs: one that falls due in this tick comes after it (R368). -/
def State.logReady (s : State) : Bool :=
  !s.noLog && (!s.bit R.cfgFlashStatus F.cfgFlashStatus.busy || s.tick.flash) && (s.up || (match s.boot.seq with
    | some q => decide (6 ≤ q.step)
    | none => false))

/-- LOGBOOK_WRITE (R368): words 0 to 6 are programmed and read back; word 7 follows only when they match. -/
def State.logWrite (s : State) (good : Bool) : State :=
  match s.nextLog with
  | none => s
  | some x =>
    match s.blankSlot 4096 s.hlt.logSlot with
    | none => s
    | some i =>
      if !s.logReady then s
      else
        let ws := s.logWords x
        let next := (i + 1) % 4096
        if good then
          let s1 := s.flashPut (logAddr i) ((ws ++ [commitWord ws]).flatMap Word.bytes)
          (s1.setHlt { s1.hlt with logSeq := s1.hlt.logSeq + 1, logSlot := next }).logOver true
        else
          let junk : List Byte := (List.range 7).flatMap fun k => Word.bytes (Config.freeWord (s.fresh + k))
          let s1 := (s.flashPut (logAddr i) junk).skip 7
          let s2 := s1.setHlt { s1.hlt with logSlot := next }
          if s2.hlt.epochDue then s2
          else if 4 ≤ x.tries + 1 then s2.logOver false
          else s2.setHlt { s2.hlt with logQueue := { x with tries := x.tries + 1 } :: s2.hlt.logQueue.tail }

/-- LOGBOOK_ERASE (R368): the sector after the current one. -/
def State.logErase (s : State) : State :=
  if !s.up || s.noLog then s
  else
    let sector := (s.hlt.logSlot / 64 + 1) % 64
    s.flashErase (logBase + 4096 * sector) (logBase + 4096 * sector + 4096)

/-! ### Reading the logbook (R369) -/

/-- The words of a valid record in a slot. -/
def State.recordAt (s : State) (i : Nat) : Option (List Word) :=
  let ws := (List.range 8).map fun k => s.flashWord (logAddr i + 8 * k)
  if ws.getD 7 0 = commitWord (ws.take 7) then some ws else none

/-- The slots with a byte that is not erased. -/
def State.usedSlots (s : State) : List Nat :=
  let inLog := (s.flash.filter fun x => decide (logBase ≤ x.1) && decide (x.1 < logEnd)).map fun x => (x.1 - logBase) / 64
  inLog.foldr (fun i l => if l.head? = some i then l else i :: l) []

/-- The valid records with their slots. -/
def State.logRecords (s : State) : List (Nat × List Word) :=
  s.usedSlots.filterMap fun i => (s.recordAt i).map fun ws => (i, ws)

/-- Record sequence, and which of two is later (R278). -/
def logSeqOf (ws : List Word) : BitVec 32 := (ws.getD 0 0).setWidth 32
def seqLater (a b : BitVec 32) : Bool := decide (1 ≤ (a - b).toNat) && decide ((a - b).toNat < 2 ^ 31)

/-- The newest record of a list. -/
def newestOf (l : List (Nat × List Word)) : Option (Nat × List Word) :=
  l.foldl (fun best x => match best with
    | none => some x
    | some y => if seqLater (logSeqOf x.2) (logSeqOf y.2) then some x else some y) none

def newestType (l : List (Nat × List Word)) (t : Nat) : Option (List Word) :=
  (newestOf (l.filter fun x => decide (Word.get (x.2.getD 0 0) (63, 56) = t))).map (·.2)

/-- The scan of step 5 (R341, R363, R369): next slot and sequence, rollback floor, AVS code, and the epoch chosen. code_max counts
the codes in force from here on (R346, notes/assumptions/116.md). -/
def State.logScan (s : State) (sfdp : Bool) : State × BitVec 32 :=
  let l := if sfdp then s.logRecords else []
  let s1 := match newestOf l with
    | none => s
    | some x => s.setHlt { s.hlt with logSlot := (x.1 + 1) % 4096, logSeq := logSeqOf x.2 + 1 }
  let floor : BitVec 32 := match newestType l 0x01 with
    | none => 0
    | some ws => (ws.getD 2 0).setWidth 32
  let code := match newestType l 0x42 with
    | none => 28
    | some ws => min 28 (ws.getD 2 0).toNat
  let logged : BitVec 32 := match newestType l 0x01 with
    | none => 0
    | some ws => ((ws.getD 1 0) >>> 32).setWidth 32
  let old := if logged.toNat < s.clock.aonEpoch.toNat then s.clock.aonEpoch else logged
  let s2 := ((s1.setBoot { s1.boot with floor := floor }).setFld R.hltAvs F.hltAvs.code code).setFld R.hltAvs F.hltAvs.codeMax
    (max code (s1.fld R.hltAvs F.hltAvs.codeMax))
  (s2.setBit R.cfgStatus F.cfgStatus.noLog (!sfdp), old + 1)

/-! ### Commands of a host (R370) -/

/-- The CFG window is served: in READY and RUN, and when no image has been applied (R364). -/
def State.cfgServed (s : State) : Bool := s.up || s.boot.windowsOnly

/-- It is served to a privileged master: without an image, to PF0 and the SPI target only (R364). -/
def State.cfgServedTo (s : State) (m : PMaster) : Bool := s.up || (s.boot.windowsOnly && decide (m.val < 2))

/-- A flash command is written to CFG_FLASH_CMD. -/
def State.flashCmd (s : State) (op : Nat) (addr : BitVec 32) : State :=
  let a := addr.toNat
  let s1 := s.setReg R.cfgFlashCmd (Word.put (Word.put (s.reg R.cfgFlashCmd) F.cfgFlashCmd.op op) F.cfgFlashCmd.addr a)
  if !s.cfgServed then s
  else if s.bit R.cfgFlashStatus F.cfgFlashStatus.busy then s.setBit R.cfgFlashStatus F.cfgFlashStatus.cmdRefused true
  else if op = 0 then s1
  else if op ≠ 1 ∧ logBase ≤ a ∧ a < logEnd then s1.setBit R.cfgFlashStatus F.cfgFlashStatus.regionRefused true
  else
    let s2 := (s1.setBoot { s1.boot with flashCmd := some (op, a) }).setTick { s1.tick with flash := true }
    (s2.setBit R.cfgFlashStatus F.cfgFlashStatus.busy true).setBit R.cfgFlashCmd F.cfgFlashCmd.go true

/-- The page data of CFG_FLASH_DATA. -/
def State.pageData (s : State) : List Byte := (List.range 8).flatMap fun i => Word.bytes (s.reg (R.cfgFlashData i))

/-- FLASH_CMD_DONE: the command completes; `good` is the read-back of a PROGRAM. -/
def State.flashDone (s : State) (good : Bool) : State :=
  match s.boot.flashCmd with
  | none => s
  | some (op, a) =>
    let page := a / 64 * 64
    let s0 := s.setBoot { s.boot with flashCmd := none }
    let s1 := (s0.setBit R.cfgFlashStatus F.cfgFlashStatus.busy false).setBit R.cfgFlashCmd F.cfgFlashCmd.go false
    if op = 1 then s1.each (List.range 8) fun s i => s.setReg (R.cfgFlashData i) (s.flashWord (page + 8 * i))
    else if op = 3 then s1.flashErase (a / 4096 * 4096) (a / 4096 * 4096 + 4096)
    else if !s1.blankPage page then s1.setBit R.cfgFlashStatus F.cfgFlashStatus.notBlank true
    else if good then s1.flashPut page s1.pageData
    else
      let junk : List Byte := (List.range 8).flatMap fun k => Word.bytes (Config.freeWord (s.fresh + k))
      ((s1.flashPut page junk).skip 8).setBit R.cfgFlashStatus F.cfgFlashStatus.verifyFail true

/-! ### The commands -/

def execFlashRead (m : PMaster) (addr : BitVec 32) (s : State) : Host.Outcome State Fault Refusal :=
  .next (if s.cfgServedTo m then s.flashCmd 1 addr else s)

def execFlashProgram (m : PMaster) (addr : BitVec 32) (s : State) : Host.Outcome State Fault Refusal :=
  .next (if s.cfgServedTo m then s.flashCmd 2 addr else s)

def execFlashErase (m : PMaster) (addr : BitVec 32) (s : State) : Host.Outcome State Fault Refusal :=
  .next (if s.cfgServedTo m then s.flashCmd 3 addr else s)

def execFlashCmdDone (good : Bool) (s : State) : Host.Outcome State Fault Refusal := .next (s.flashDone good)

def execLogbookWrite (good : Bool) (s : State) : Host.Outcome State Fault Refusal := .next (s.logWrite good)

def execLogbookErase (s : State) : Host.Outcome State Fault Refusal := .next s.logErase

end Sys2Proof.Machine
end

