-- ==== Sys2Proof/Machine/Guyline.lean ====
section
/-! DEFINITION. GUY (R372 to R382): BEACONs and ACKs, choosing the master, granting lanes, and the lanes a node holds. -/

namespace Sys2Proof.Machine

/-! ### The node -/

def State.nodeId (s : State) : Nat := s.fld R.guyCfg F.guyCfg.nodeId
def State.guyMaster (s : State) : Bool := s.bit R.guyStatus F.guyStatus.isMaster

/-- Guyline runs in READY and RUN while GUY_CFG.enable is 1 (R401). -/
def State.guyOn (s : State) : Bool := s.up && s.bit R.guyCfg F.guyCfg.enable

/-- A BEACON of 98 bytes lasts 3,136 ticks, and its delimiter ends 128 ticks after its start (R372 to R374). -/
def beaconTicks : Nat := 3136
def delimTicks : Nat := 128

/-- Three times the period of the last valid BEACON, or 300 ms (R377). -/
def State.guyTimeout (s : State) : Nat := match s.guy.last with
  | none => msTicks 300
  | some b => 3 * (b.nextTicks + 128)

/-- The tick from which the timeout runs: the end of the last valid BEACON, or the enable. -/
def State.guyBase (s : State) : Nat := match s.guy.last with
  | none => s.guy.enabledAt
  | some b => b.endAt

/-- GUY_STATUS.beacon_ok: a valid BEACON within the timeout. -/
def State.beaconOk (s : State) : Bool := s.guy.last.isSome && decide (s.now ≤ s.guyBase + s.guyTimeout)

/-- A GUYLINE trace record (R394): node, frame type, and 0 valid, 1 CRC fail, 2 void. -/
def State.guyTrace (s : State) (node type how : Nat) : State := s.trace 0x07 node (type % 256 * 2 ^ 40 + how * 2 ^ 32)

/-! ### Frames (R373, R374) -/

/-- A frame: the preamble, the delimiter, the type, the source, the body, and CRC-32C over type, source and body. -/
def guyFrame (type src : Byte) (body : List Byte) : List Byte :=
  let inner := type :: src :: body
  [0xAA, 0xAA, 0xAA, 0xB7] ++ inner ++ bytesOf 4 (crc32c inner)

def beaconBytes (f : BeaconFrame) : List Byte :=
  guyFrame 0x01 (f.src.setWidth 8) (bytesOf 8 f.siteTime.toNat ++ bytesOf 4 f.epoch.toNat ++ bytesOf 4 f.number.toNat ++
    bytesOf 4 f.nextTicks.toNat ++ bytesOf 4 f.roll.toNat ++ f.grants)

def ackBytes (f : AckFrame) : List Byte :=
  guyFrame 0x02 (f.src.setWidth 8) (bytesOf 4 f.siteTime.toNat ++ bytesOf 2 f.number.toNat ++ bytesOf 8 f.lanes.toNat ++
    [if f.masterOk then 1 else 0])

/-- The CRC that ends a received frame is that of its type, its source and its body; `rest` is what follows the source. -/
def guyCrcOk (type src : Byte) (rest : List Byte) : Bool :=
  let n := rest.length - 4
  decide (4 ≤ rest.length) && decide (rest.drop n = bytesOf 4 (crc32c (type :: src :: rest.take n)))

/-! ### Lanes held (R379, R380) -/

/-- The node's holdings change: stakes that obey a lane now lost have the medium withdrawn. -/
def State.setLanes (s : State) (new : Word) : State :=
  let lost := s.reg R.guyLaneHeld &&& ~~~new
  let hit (r : Run) : Bool := obeysLane r.template && r.stake.ports.any fun p => match r.laneOf p with
    | none => false
    | some l => lost.getLsbD l
  let s1 := s.setReg R.guyLaneHeld new
  (s1.each (s1.runs.filter hit) fun s r => match s.runAt r.port with
    | none => s
    | some x => s.mediumLost x 0).driveCxp

/-- Every lane is lost. -/
def State.dropLanes (s : State) : State := (s.setGuy { s.guy with grantAt := none }).setLanes 0

/-- The lanes that a BEACON grants to a node. -/
def grantedTo (grants : List Byte) (node : Nat) : Word :=
  (List.range 64).foldl (fun w l =>
    if (grants.getD l 0xFF).toNat = node then w ||| BitVec.ofNat 64 (2 ^ l) else w) 0

/-- A valid BEACON, received or sent, ends (R379): ungranted lanes are lost, granted ones are held 500 µs later. -/
def State.followBeacon (s : State) (src at_ endAt nextTicks : Nat) (number : BitVec 32) (roll : BitVec 32)
    (grants : List Byte) : State :=
  let g := grantedTo grants s.nodeId
  let last : LastBeacon :=
    { src := src, at_ := at_, endAt := endAt, nextTicks := nextTicks, number := number, grants := grants }
  let st := Word.put (Word.put (Word.put (s.reg R.guyStatus) F.guyStatus.roll roll.toNat) F.guyStatus.master src)
    F.guyStatus.soloActive 0
  let s1 := (s.setGuy { s.guy with
    last := some last, number := number, grantAt := some (endAt + usTicks 500, g), soloAt := none }).setReg
    R.guyStatus st
  s1.setLanes (s1.reg R.guyLaneHeld &&& g)

/-- Every node whose ACK has been heard is one BEACON older (R378). -/
def State.ageAcks (s : State) : State :=
  s.setGuy { s.guy with acks := s.guy.acks.map fun x => (x.1, { x.2 with missed := x.2.missed + 1 }) }

/-- The roll but for this node, of a BEACON that starts at a tick: nodes whose ACK was heard in the last three periods, which a
new master counts from the period of the last valid BEACON (R377, R378). -/
def State.present (s : State) (start : Nat) : List (Nat × Word) :=
  let recent (a : AckInfo) : Bool := !s.guy.newMaster || decide (start ≤ a.heardAt + s.guyTimeout)
  (s.guy.acks.filter fun x => decide (x.2.missed < 3) && recent x.2 && decide (x.1 ≠ s.nodeId)).map fun x => (x.1, x.2.lanes)

/-! ### Receiving (R376, R377, R382) -/

/-- BEACON: a frame of type 0x01 with a good CRC has ended; it is valid when its length is that of a BEACON (R373). -/
def State.hearBeacon (s : State) (f : BeaconFrame) : State :=
  if !s.guyOn || decide ((beaconBytes f).length ≠ 98) then s
  else
    let src := f.src.toNat
    let id := s.nodeId
    let demoted := s.guyMaster && decide (src < id)
    let s1 := if demoted then s.setBit R.guyStatus F.guyStatus.isMaster false else s
    let slave := !s1.guyMaster
    let own : BitVec 64 := BitVec.ofNat 64 (s.now - (beaconTicks - delimTicks))
    let s2 := if slave then s1.setReg R.guySync (f.siteTime - own) else s1
    let s3 := (s2.guyTrace src 0x01 0).ageAcks.followBeacon src (s.now - (beaconTicks - delimTicks)) s.now
      f.nextTicks.toNat f.number f.roll f.grants
    let takeover := slave && decide (id < src) && s.cfgBit R.guyCfg F.guyCfg.masterOk
    let g := s3.guy
    let txAt := if takeover ∧ g.txAt = none then some (s.now + usTicks 1820) else if src < id then none else g.txAt
    let retryAt := if src < id then none else g.retryAt
    s3.setGuy { g with
      txAt := txAt, retryAt := retryAt, newMaster := decide (id ≤ src) && (takeover || g.newMaster)
      ackAt := if slave then some (s.now + usTicks (20 + 25 * id)) else none }

/-- GUYLINE_ACK: a valid ACK has been heard (R377, R378). -/
def State.hearAck (s : State) (f : AckFrame) : State :=
  if !s.guyOn || decide (f.src.toNat = s.nodeId) then s
  else
    let a : AckInfo := { lanes := f.lanes, masterOk := f.masterOk, heardAt := s.now, missed := 0 }
    let s1 := s.guyTrace f.src.toNat 0x02 0
    s1.setGuy { s1.guy with acks := SMap.ins f.src.toNat a s1.guy.acks }

/-- GUYLINE_FRAME_CRC_FAIL: a frame whose CRC does not pass is counted; one of another type or length whose CRC passes is
discarded (R373, R374). -/
def State.badFrame (s : State) (type src : Byte) (rest : List Byte) : State :=
  if !s.guyOn || guyCrcOk type src rest then s
  else (s.bumpSat R.guyStatus F.guyStatus.crcErr 1).guyTrace src.toNat type.toNat 1

/-! ### Sending (R375 to R378) -/

/-- The grant of a lane (R378): `req` the nodes of the roll, this one among them, with their requests; `h` the holder in
the previous BEACON. -/
def grantLane (req : List (Nat × Word)) (h l : Nat) : Byte :=
  let want := (req.filter fun x => x.2.getLsbD l).map (·.1)
  match want.min? with
  | none => 0xFF
  | some lowest =>
    if want = [h] then BitVec.ofNat 8 h
    else if h = 0xFF ∨ h ∉ req.map (·.1) then BitVec.ofNat 8 lowest
    else match (want.filter fun n => decide (h < n)).min? with
      | some n => BitVec.ofNat 8 n
      | none => BitVec.ofNat 8 lowest

/-- The grants of the node's next BEACON, which starts at a tick: its first one as a new master carries those of the last BEACON
that it heard within its timeout (R377), every other one answers the requests (R378). -/
def State.nextGrants (s : State) (start : Nat) : List Byte :=
  let free : List Byte := List.replicate 64 0xFF
  let prev : List Byte := match s.guy.last with
    | none => free
    | some b => b.grants
  if s.guy.newMaster then (if start ≤ s.guyBase + s.guyTimeout then prev else free)
  else
    let req : List (Nat × Word) := (s.nodeId, s.reg R.guyLaneReq) :: s.present start
    (List.range 64).map fun l => grantLane req (prev.getD l 0xFF).toNat l

/-- next_ticks of a BEACON that starts at a tick (R376, R377). -/
def State.beaconNext (s : State) (start : Nat) : Nat :=
  if s.running then s.cycleEnd - (start + delimTicks) else 4000000 - delimTicks

/-- The BEACON that a node sends from a tick (R374, R376 to R378). -/
def State.ownBeacon (s : State) (start : Nat) : BeaconFrame :=
  { src := BitVec.ofNat 5 s.nodeId, siteTime := BitVec.ofNat 64 (start + delimTicks), epoch := s.clock.epoch
    number := s.guy.number + 1, nextTicks := BitVec.ofNat 32 (s.beaconNext start)
    roll := ((s.nodeId, (0 : Word)) :: s.present start).foldl (fun r x => r ||| BitVec.ofNat 32 (2 ^ x.1)) 0
    grants := s.nextGrants start }

/-- The start of the next BEACON that no cycle start sets: with no plan running one comes every 4,000,000 ticks (R376). -/
def State.beaconAfter (s : State) (start : Nat) : Option Nat := if s.running then none else some (start + 4000000)

/-- A BEACON that meets a busy bus is not sent in that cycle (R375). -/
def State.beaconSkip (s : State) (start : Nat) : State :=
  s.setGuy { s.guy with txAt := if s.guyMaster then s.beaconAfter start else none }

/-- A BEACON that is void: counted, and tried again 20 ms + node_id ms after its start (R375, R377). -/
def State.beaconVoid (s : State) (start : Nat) : State :=
  let s1 := ((s.setBit R.guyStatus F.guyStatus.isMaster true).bumpSat R.guyStatus F.guyStatus.collisions 1).guyTrace
    s.nodeId 0x01 2
  s1.setGuy { s1.guy with txAt := none, retryAt := some (start + msTicks (20 + s.nodeId)), newMaster := true }

/-- A BEACON that was sent whole: the node is master and follows its own grants (R377, R379). -/
def State.beaconSent (s : State) (start : Nat) : State :=
  let f := s.ownBeacon start
  let s1 := ((s.setBit R.guyStatus F.guyStatus.isMaster true).emit (.guyFrame (beaconBytes f))).guyTrace s.nodeId 0x01 0
  let s2 := s1.setGuy { s1.guy with txAt := s.beaconAfter start, ackAt := none, newMaster := false }
  (s2.followBeacon s.nodeId (start + delimTicks) (start + beaconTicks) f.nextTicks.toNat f.number f.roll f.grants).ageAcks

/-- BEACON_TRANSMIT: the node's BEACON ends, was void, or met a busy bus (R375). -/
def State.sendBeacon (s : State) (bus : BusSeen) : State :=
  match s.guy.txAt with
  | none => s
  | some t =>
    if !s.guyOn || decide (s.now < (if bus = .idle then t + beaconTicks else t)) then s
    else match bus with
      | .busy => s.beaconSkip t
      | .mismatch => s.beaconVoid t
      | .idle => s.beaconSent t

/-- ACK_SLOT: the node's slot starts and it sends its ACK, unless the bus is busy (R375, R376). -/
def State.sendAck (s : State) (bus : BusSeen) : State :=
  match s.guy.ackAt with
  | none => s
  | some t =>
    if !s.guyOn || decide (s.now < t) then s
    else
      let number : BitVec 16 := match s.guy.last with
        | none => 0
        | some b => b.number.setWidth 16
      let s1 := s.setGuy { s.guy with ackAt := none }
      match bus with
      | .busy => s1
      | .mismatch =>
        ((s1.bumpSat R.guyStatus F.guyStatus.collisions 1).setBit R.guyStatus F.guyStatus.idClash true).guyTrace s.nodeId
          0x02 2
      | .idle =>
        (s1.emit (.guyFrame (ackBytes
          { src := BitVec.ofNat 5 s.nodeId, siteTime := BitVec.ofNat 32 (s.now + delimTicks), number := number
            lanes := s.reg R.guyLaneReq, masterOk := s.cfgBit R.guyCfg F.guyCfg.masterOk }))).guyTrace s.nodeId 0x02 0

/-! ### Deadlines (R377, R379, R381) -/

/-- MASTER_TIMEOUT: a master_ok node sends a BEACON at once and is master; a solo node holds its lanes 500 µs later. -/
def State.masterTimeout (s : State) : State :=
  let due := s.guyBase + s.guyTimeout
  if !s.guyOn || s.guyMaster then s
  else if s.cfgBit R.guyCfg F.guyCfg.masterOk then
    (if s.now < due + msTicks s.nodeId ∨ s.guy.retryAt.isSome ∨ s.guy.txAt.isSome then s
     else (s.setBit R.guyStatus F.guyStatus.isMaster true).setGuy { s.guy with txAt := some s.now, newMaster := true })
  else if s.bit R.guyCfg F.guyCfg.solo ∧ !s.bit R.guyStatus F.guyStatus.soloActive ∧ due ≤ s.now then
    s.setGuy { s.guy with soloAt := some (due + usTicks 500) }
  else s

/-- BEACON_RETRY: 20 ms + node_id ms after the start of a void BEACON (R377). -/
def State.beaconRetry (s : State) : State :=
  match s.guy.retryAt with
  | none => s
  | some t => if !s.guyOn || decide (s.now < t) then s
    else s.setGuy { s.guy with retryAt := none, txAt := some t, newMaster := true }

/-- The lanes that the last BEACON granted are held from their tick on (R379). -/
def State.holdGranted (s : State) : State :=
  match s.guy.grantAt with
  | none => s
  | some (t, w) =>
    if s.now < t then s
    else (s.setGuy { s.guy with grantAt := none }).setReg R.guyLaneHeld (s.reg R.guyLaneHeld ||| w)

/-- A solo node holds the lanes of GUY_LANE_REQ from their tick on, and solo_active reads 1 (R381). -/
def State.holdSolo (s : State) : State :=
  match s.guy.soloAt with
  | none => s
  | some t =>
    if s.now < t then s
    else ((s.setGuy { s.guy with soloAt := none }).setBit R.guyStatus F.guyStatus.soloActive true).setReg R.guyLaneHeld
      (s.reg R.guyLaneHeld ||| s.reg R.guyLaneReq)

/-- LANE_GRANT_START: 500 µs after the end of the BEACON, or after a solo node's timeout (R379, R381). -/
def State.grantStart (s : State) : State := if s.guyOn then s.holdGranted.holdSolo else s

/-- LANE_DEADLINE: no valid BEACON by next_ticks + 8,000 ticks (R379). -/
def State.laneDeadline (s : State) : State :=
  match s.guy.last with
  | none => s
  | some b =>
    if !s.guyOn || s.bit R.guyStatus F.guyStatus.soloActive || decide (s.now < b.at_ + b.nextTicks + 8000) then s
    else s.dropLanes

/-! ### Register writes and the block reset (R359, R401) -/

/-- GUY_CFG written: enabling starts the timeout, disabling holds no lane and sends nothing. -/
def State.guyCfgWrite (s : State) (v : Word) : State :=
  let was := s.bit R.guyCfg F.guyCfg.enable
  let s1 := s.hostWrite R.guyCfg v
  let now := s1.bit R.guyCfg F.guyCfg.enable
  if now ∧ !was then s1.setGuy { Guy.dflt with enabledAt := s1.now }
  else if !now ∧ was then
    ((s1.dropLanes.setGuy Guy.dflt).setBit R.guyStatus F.guyStatus.isMaster false).setBit R.guyStatus
      F.guyStatus.soloActive false
  else if !s1.bit R.guyCfg F.guyCfg.solo then
    let s2 := s1.setGuy { s1.guy with soloAt := none }
    if s2.bit R.guyStatus F.guyStatus.soloActive then s2.dropLanes.setBit R.guyStatus F.guyStatus.soloActive false else s2
  else s1

/-- GUY_LANE_REQ written: a solo node holds what it requests (R381). -/
def State.laneReqWrite (s : State) (v : Word) : State :=
  let s1 := s.hostWrite R.guyLaneReq v
  if s1.bit R.guyStatus F.guyStatus.soloActive then s1.setLanes (s1.reg R.guyLaneReq) else s1

/-! ### The commands -/

def execBeacon (f : BeaconFrame) (s : State) : Host.Outcome State Fault Refusal := .next (s.hearBeacon f)

def execBeaconTransmit (bus : BusSeen) (s : State) : Host.Outcome State Fault Refusal := .next (s.sendBeacon bus)

def execGuylineAck (f : AckFrame) (s : State) : Host.Outcome State Fault Refusal := .next (s.hearAck f)

def execAckSlot (bus : BusSeen) (s : State) : Host.Outcome State Fault Refusal := .next (s.sendAck bus)

def execMasterTimeout (s : State) : Host.Outcome State Fault Refusal := .next s.masterTimeout

def execBeaconRetry (s : State) : Host.Outcome State Fault Refusal := .next s.beaconRetry

def execLaneGrantStart (s : State) : Host.Outcome State Fault Refusal := .next s.grantStart

def execLaneDeadline (s : State) : Host.Outcome State Fault Refusal := .next s.laneDeadline

def execGuylineFrameCrcFail (type src : Byte) (rest : List Byte) (s : State) : Host.Outcome State Fault Refusal :=
  .next (s.badFrame type src rest)

end Sys2Proof.Machine
end

