-- ==== Sys2Proof/Machine/TraceTap.lean ====
section
/-! DEFINITION. The trace port (R396), TRL's registers (R403), and the test access port (R398 to R400). -/

namespace Sys2Proof.Machine

/-! ### Trace -/

/-- The 17 bytes of a record on TRC_D. -/
def traceBytes (t : TraceRec) : List Byte := 0xA5 :: (Word.bytes t.w0 ++ Word.bytes t.w1)

/-- TRACE_PORT_OUT: with the port turned on, the oldest record that the ring has taken goes out and leaves the buffer (R396). -/
def State.traceOut (s : State) : State :=
  match s.trl.buf with
  | [] => s
  | t :: l =>
    if s.up && s.bit R.trlCfg F.trlCfg.port && t.rung then (s.setTrl { s.trl with buf := l }).emit (.trc (traceBytes t)) else s

/-- The buffer is drained to the ring and the port (R397). -/
def State.traceDrain (s : State) : State :=
  let s0 := s.traceFlow
  let s1 := s0.each s0.trl.buf fun s t => s.emit (.trc (traceBytes t))
  s1.setTrl { s1.trl with buf := [] }

/-- TRL_CFG written: mask bits 10 and 11 read 1, bit 0 reads 0; the records that the ring has taken
leave the buffer when the port is turned off. -/
def State.trlCfgWrite (s : State) (v : Word) : State :=
  let s1 := s.hostWrite R.trlCfg v
  let mask := (s1.fld R.trlCfg F.trlCfg.mask ||| 0xC00) &&& 0x1FFE
  let s2 := s1.setFld R.trlCfg F.trlCfg.mask mask
  if s2.bit R.trlCfg F.trlCfg.port then s2 else s2.setTrl { s2.trl with buf := s2.trl.buf.filter fun t => !t.rung }

/-! ### The test access port -/

/-- The IDCODE (R398). -/
def tapIdcode : BitVec 32 := BitVec.ofNat 32 (0x14810000 + 2 * Config.jedecId.toNat + 1)

/-- The instruction of an 8-bit value of the instruction register: others act as BYPASS (R398). -/
def tapOfIr (v : BitVec 8) : TapInstr :=
  match v.toNat with
  | 0x00 => .extest
  | 0x01 => .idcode
  | 0x02 => .samplePreload
  | 0x03 => .extestPulse
  | 0x04 => .extestTrain
  | 0x05 => .highz
  | 0x06 => .clamp
  | _ => .bypass

/-- The register that an instruction selects: 0 boundary, 1 IDCODE, 2 bypass. -/
def TapInstr.selects : TapInstr → Nat
  | .extest => 0 | .samplePreload => 0 | .extestPulse => 0 | .extestTrain => 0
  | .idcode => 1
  | .highz => 2 | .clamp => 2 | .bypass => 2

/-- The instruction gives the boundary register the balls: 0x00 and 0x03 to 0x06 (R400). -/
def TapInstr.takesBalls : TapInstr → Bool
  | .extest => true | .extestPulse => true | .extestTrain => true | .highz => true | .clamp => true | _ => false

/-- The TAP is powered (R398). -/
def State.tapOn (s : State) : Bool :=
  decide (s.boot.power ≠ .off) && decide (s.boot.power ≠ .hibernate) && decide (s.boot.power ≠ .watch)

/-! ### The boundary register (R399) -/

/-- Input, output and enable cell of a ball of the first row: its level, and what the DN4810 drives on it. -/
def cells3 (level : Bool) (driven : Option Bool) : List (Option Bool) := [some level, driven, some driven.isSome]

/-- A ball of the first row whose levels the model does not hold. -/
def cellsOpen : List (Option Bool) := [none, none, none]

/-- Level of ball k of CX_GNT, CX_PRI and CX_REQ: what boundary scan drives, and where it leaves the ball open the outside, or the weak
pull-down of a ball that the part would drive (R398, R420). -/
def State.cxLevel (s : State) (k : Nat) (wire ours : Bool) : Bool := (s.scanLevel (3 * k + 1) (wire && !ours)).getD wire

/-- The cells of the first row: CX_GNT, CX_PRI and CX_REQ, GP0 to GP63, the Guyline driver, I2C SCL and SDA, and QSPI IO0 to IO3
(R211, R399). -/
def State.cellsA (s : State) : List (Option Bool) :=
  let drives (b : Bool) (v : Bool) : Option Bool := if b then some v else none
  [cells3 (s.cxLevel 0 s.cxp.gnt (decide (s.cxpMode = 2))) (drives (decide (s.cxpMode = 2)) s.cxp.gnt),
   cells3 (s.cxLevel 1 s.cxp.pri (decide (s.cxpMode < 2))) (drives (decide (s.cxpMode < 2)) s.cxp.pri),
   cells3 (s.cxLevel 2 s.cxp.req (decide (s.cxpMode < 2))) (drives (decide (s.cxpMode < 2)) s.cxp.req),
   (List.range 64).flatMap (fun n => cells3 (s.ballLevel n) (s.ballDriven n)),
   (List.range 7).flatMap (fun _ => cellsOpen)].flatten

/-- Output and enable cell of an open-drain ball. -/
def cellsDrain (level : Bool) : List (Option Bool) := [if level then none else some false, some !level]

/-- The cells of the second row: HOST_WAKE_N, INT_N, PA0_BIAS to PA15_MODE, QSPI clock and chip select, RSTOUT_N, SPI MISO, TRC_CLK
and TRC_D0 to TRC_D7. Amplifier pins are high-impedance until a cold reset has its image (R209). -/
def State.cellsB (s : State) : List (Option Bool) :=
  let pa := decide (s.bootBalls ≠ some true)
  [cellsDrain s.hostWakeN, [some s.hif.spi.intN, some true],
   (List.range 16).flatMap (fun i => (List.range 3).flatMap fun b =>
     [if pa then some ((s.port (64 + i)).paPins.getLsbD b) else none, some pa]),
   [none, none, none, none], cellsDrain s.boot.rstoutN, [none, none],
   (List.range 9).flatMap (fun _ => [some false, some true])].flatten

/-- The cells of the last two rows: PA0_FAULT_N to PA15_FAULT_N, REF10_IN, RESET_N, RFOFF_A, RFOFF_B_N, SPI CS_N, MOSI and SCK, WAKE,
and the transmit and receive pairs. -/
def State.cellsC (s : State) : List (Option Bool) :=
  let resetLow := match s.boot.seq with
    | some q => decide (Cause.resetPin ∈ q.held)
    | none => false
  [(List.range 16).map (fun i => some !(s.port (64 + i)).faultLow),
   [none, if resetLow then some false else none, some s.cab.a, some !s.cab.b, none, none, none, none],
   (List.range 24).map fun _ => none].flatten

/-- The 396 cells as the balls stand, in the order of R399 from TDI on; none of a ball whose level the model does not hold. -/
def State.scanCells (s : State) : List (Option Bool) := [s.cellsA, s.cellsB, s.cellsC].flatten

/-- Cell i captures the level of a ball: not what the DN4810 drives, nor an enable (R399). -/
def isInputCell (i : Nat) : Bool := (decide (i < 222) && decide (i % 3 = 0)) || (decide (348 ≤ i) && decide (i < 372))

/-- The boundary register captures the balls, every cell, or the input cells alone; what the model does not hold is free
(notes/assumptions/31.md). -/
def State.tapCapture (s : State) (all : Bool) : State :=
  let cell (i : Nat) : Bool :=
    if all || isInputCell i then (match s.scanCells.getD i none with
      | some b => b
      | none => (Config.freeWord (s.fresh + i / 64)).getLsbD (i % 64))
    else s.tap.boundary.getLsbD i
  (s.setTap { s.tap with boundary := BitVec.ofNat 396 (((List.range 396).map fun i => (cell i).toNat * 2 ^ i).sum) }).skip 7

/-- The output cells of the first two rows of R399, an enable cell after each. -/
def outCells : List Nat := List.append ((List.range 74).map fun i => 3 * i + 1) ((List.range 63).map fun i => 222 + 2 * i)

/-- What the boundary register drives on every ball that has an output cell, in the order of R399, goes out: EXTEST, CLAMP and HIGHZ
have the CX, PA, TRC, RSTOUT_N and INT_N balls as they have the GP balls (R398). -/
def State.scanOut (s : State) : State :=
  if s.tap.ir.takesBalls then s.emit (.scan (outCells.map fun c => (s.scanDrive c).getD none)) else s

/-- The scan ends: what came in on TDI stands in the boundary register. The command brings no bits of TDI, so they are free
(R398, notes/assumptions/31.md). -/
def State.tapShift (s : State) : State :=
  let bits := ((List.range 7).map fun k => (Config.freeWord (s.fresh + k)).toNat * 2 ^ (64 * k)).sum
  (s.setTap { s.tap with boundary := BitVec.ofNat 396 bits }).skip 7

/-- What a scan of the register that an instruction selects shows on TDO: the cell nearest TDO first, the IDCODE from bit 0 on, and
a 0 from the bypass register. -/
def State.tapOut (s : State) (i : TapInstr) : List Bool :=
  match i.selects with
  | 0 => (List.range 396).map fun k => s.tap.boundary.getLsbD (395 - k)
  | 1 => (List.range 32).map fun k => tapIdcode.getLsbD k
  | _ => [false]

/-- A stake performs no further radio action while boundary scan has the balls (R400). -/
def Run.scanned (r : Run) : Run :=
  { r with inert := some (r.inert.getD .inhibited), phase := if r.phase = .waiting then .idle else r.phase }

/-- The boundary register has the balls (R400): every field is removed, the plan stops, PCIe and Ethernet go down, until
a RESET_PIN or a cold reset. -/
def State.scanTake (s : State) : State :=
  if s.boot.scanHeld then s
  else
    let s1 := s.setBoot { s.boot with scanHeld := true }
    let s2 := if s1.up then s1.inhibitOn else s1
    let s3 := if s2.running then s2.stopPlan else s2
    let s4 := (s3.setSch { s3.sch with startAt := none }).setHif { s3.hif with pcieUp := false }
    (s4.each [0, 1] fun s x => s.setFld (R.hifEthStatus x) F.hifEthStatus.speed 0).setRuns (s4.runs.map Run.scanned)

/-- An instruction becomes current and its register is scanned once: captured, shifted and updated (R398 to R400). -/
def State.tapTo (s : State) (i : TapInstr) : State :=
  if !s.tapOn then s
  else
    let s1 := if i.takesBalls then s.scanTake else s
    let s2 := s1.setTap { s1.tap with ir := i }
    let s3 := s2.scanOut
    if i.selects = 0 then
      let s4 := s3.tapCapture (decide (i = .samplePreload))
      ((s4.emit (.tdo (s4.tapOut i))).tapShift).scanOut
    else s3.emit (.tdo (s3.tapOut i))

/-- Test-Logic-Reset loads IDCODE (R398). -/
def State.tapReset (s : State) : State := if s.tapOn then s.setTap { s.tap with ir := .idcode } else s

/-! ### The commands -/

def execTracePortOut (s : State) : Host.Outcome State Fault Refusal := .next s.traceOut

def execTapReset (s : State) : Host.Outcome State Fault Refusal := .next s.tapReset

def execExtest (s : State) : Host.Outcome State Fault Refusal := .next (s.tapTo (tapOfIr 0x00))

def execIdcode (s : State) : Host.Outcome State Fault Refusal := .next (s.tapTo (tapOfIr 0x01))

def execSamplePreload (s : State) : Host.Outcome State Fault Refusal := .next (s.tapTo (tapOfIr 0x02))

def execExtestPulse (s : State) : Host.Outcome State Fault Refusal := .next (s.tapTo (tapOfIr 0x03))

def execExtestTrain (s : State) : Host.Outcome State Fault Refusal := .next (s.tapTo (tapOfIr 0x04))

def execHighz (s : State) : Host.Outcome State Fault Refusal := .next (s.tapTo (tapOfIr 0x05))

def execClamp (s : State) : Host.Outcome State Fault Refusal := .next (s.tapTo (tapOfIr 0x06))

def execBypass (s : State) : Host.Outcome State Fault Refusal := .next (s.tapTo (tapOfIr 0xFF))

end Sys2Proof.Machine
end

