-- ==== Sys2Proof/Machine/Power.lean ====
section
/-! DEFINITION. PWR and RST at run time: the input power and the ceiling (R52, R350), the HF rails (R349), the low-power
states (R351 to R353), the reset sources (R354, R355), and the resets of one block (R359). -/

namespace Sys2Proof.Machine

/-! ### Input power (R350), the ceiling (R52) and the rails (R349) -/

/-- PWR_CEIL: 5,000 to 45,000 mW, values outside act as the nearer limit. -/
def State.ceiling (s : State) : Nat := clamp 5000 45000 (s.fld R.pwrCeil F.pwrCeil.ceilMw)

/-- POWER_WINDOW: the window of 10 µs that ends has a measured power. -/
def State.powerWindow (s : State) (mw : Nat) : State :=
  if !s.up then s
  else
    let s1 := s.setFld R.pwrStatus F.pwrStatus.inputMw mw
    if s.ceiling < mw then (s1.setBit R.pwrStatus F.pwrStatus.over true).bump R.pwrOverCnt F.pwrOverCnt.count else s1

/-- PWR_CEIL written (R52): refused below the peak of the active plan or of a pending one. -/
def State.ceilWrite (s : State) (v : Word) : State :=
  if !s.up then s
  else
    let new := clamp 5000 45000 (Word.get v F.pwrCeil.ceilMw)
    let active := s.bit R.schStatus F.schStatus.loaded && decide (new < s.fld R.schPeakMw F.schPeakMw.peak)
    let pending := s.bit R.schStatus F.schStatus.swapPending && decide (new < (s.peak (!s.activeBank)).1)
    if active || pending then s.setBit R.schStatus F.schStatus.ceilRefused true else s.hostWrite R.pwrCeil v

/-- PWR_HF_RAIL written: no effect while a plan runs. -/
def State.railWrite (s : State) (v : Word) : State := if !s.up || s.running then s else s.hostWrite R.pwrHfRail v

/-! ### Low-power states (R352, R353) -/

/-- PWR_CTRL.enter written 1 with a target: the entry begins. -/
def State.enter (s : State) (target : Nat) : State :=
  if !s.up then s
  else
    let s1 := s.setFld R.pwrCtrl F.pwrCtrl.target target
    let p : Option PowerState := if target = 1 then some .hibernate else if target = 2 then some .watch else none
    if p.isNone ∨ s.boot.entering.isSome then s1
    else ((s1.setBoot { s1.boot with entering := p }).setBit R.pwrCtrl F.pwrCtrl.enter true).setSch
      { s1.sch with startAt := none }

/-- The Lantern registers are copied into the always-on domain (R240): every entry CLEAR, the first round one interval
later. -/
def State.lanternEnter (s : State) : State :=
  let cfg := s.reg R.lntCfg
  let words : List Word := [[cfg], (List.range 4).map fun e => s.reg (R.lntPort e), (List.range 4).map fun e => s.reg (R.lntBase e),
    List.replicate 4 0].flatten
  s.setLantern { Lantern.dflt with
    aon := words
    rebase := if Word.get cfg F.lntCfg.rebase = 1 then List.range 4 else []
    roundAt := s.clock.aon + msTicks (clamp 50 2000 (Word.get cfg F.lntCfg.intervalMs)) }

/-- LOW_POWER_ENTRY_DONE: the plan has stopped, the slices go to OFF, logbook writes and flash commands are complete, trace
is drained (R397), and every rail but VAON switches off. -/
def State.lowPowerDone (s : State) : State :=
  match s.boot.entering with
  | none => s
  | some p =>
    let logs := !s.noLog && (s.hlt.epochDue || !s.hlt.logQueue.isEmpty)
    if !s.up || s.running || !s.runs.isEmpty || logs || s.bit R.cfgFlashStatus F.cfgFlashStatus.busy then s
    else
      let s1 := (s.setSlices []).enterPower p
      let s2 := s1.traceDrain
      let s3 := if p = .watch then s2.lanternEnter else s2
      let s4 := s3.setHif { s3.hif with pcieUp := false }
      (s4.setBoot { s4.boot with entering := none, rstoutN := false }).setTap State.reset.tap

/-- In HIBERNATE or WATCH. -/
def State.asleep (s : State) : Bool := decide (s.boot.power = .hibernate) || decide (s.boot.power = .watch)

/-- What WATCH keeps of Lantern comes back after a Lantern wake only (R411). -/
def State.dropLantern (s : State) : State := s.setLantern { s.lantern with aon := [] }

/-- WAKE: held high for 1 ms. -/
def State.wakePin (s : State) : State := if s.asleep then s.dropLantern.takeReset .wake else s

/-- PWR_RTC (R353). -/
def State.rtc (s : State) : Nat := s.clock.aon / 40000000 % 2 ^ 32

/-- RTC_ALARM: PWR_RTC reaches a non-zero PWR_RTC_ALARM. -/
def State.rtcAlarm (s : State) : State :=
  let a := s.fld R.pwrRtcAlarm F.pwrRtcAlarm.alarm
  if s.asleep ∧ a ≠ 0 ∧ s.rtc = a then s.dropLantern.takeReset .wake else s

/-! ### Reset sources (R354) -/

/-- The part has power and clocks: a reset sequence runs, or it is in READY or RUN. -/
def State.awake (s : State) : Bool := s.boot.seq.isSome || s.up

/-- BROWNOUT: in HIBERNATE and WATCH VIN ceases to be valid and the part is OFF (R353). -/
def State.brownout (s : State) : State :=
  if s.asleep then (s.setBoot { s.boot with power := .off }).setTap State.reset.tap else if s.awake then s.takeReset .brownout else s

/-- A warm source while the part has power. -/
def State.warm (s : State) (c : Cause) : State := if s.awake then s.takeReset c else s

/-- WATCHDOG: no cycle boundary for the longer of 4 major cycles and 100 ms. -/
def State.watchdog (s : State) : State :=
  let limit := max (4 * s.fld R.schCycleTicks F.schCycleTicks.ticks) (msTicks 100)
  if s.up ∧ s.running ∧ s.sch.lastBoundary + limit ≤ s.now then s.takeReset .watchdog else s

/-- END_OF_CAUSE: a source that held the part ends; the sequence runs from time zero when none is left (R357). -/
def State.causeEnds (s : State) (c : Cause) : State :=
  match s.boot.seq with
  | none => s
  | some q => s.setBoot { s.boot with seq := some { q with held := q.held.filter (· ≠ c) } }

/-! ### RST_CTRL (R354, R359) -/

/-- Block i is idle (R359). SPI commands are whole, so CS_N is high between them. -/
def State.blockIdle (s : State) (i : Nat) : Bool :=
  match i with
  | 0 => s.runs.all fun r => decide (r.stake.decoder = 0)
  | 1 => decide (s.reg R.guyLaneHeld = 0) && !s.guyMaster
  | 2 => !s.bit R.trlCfg F.trlCfg.enable
  | 3 => !s.bit (R.hifEthCfg 0) F.hifEthCfg.enable
  | 4 => !s.bit (R.hifEthCfg 1) F.hifEthCfg.enable
  | 5 => true
  | 6 => s.runs.all fun r => decide (r.template ≠ 0x0B)
  | _ => s.hostRuns.isEmpty && s.runs.all fun r => decide (r.stake.chkMask = 0)

/-- The internal state of block i returns to what it was after step 7. Check units and the Ethernet ports have none beside
registers when they are idle. -/
def State.blockClear (s : State) (i : Nat) : State :=
  match i with
  | 0 => s.setDecoders []
  | 1 => s.setGuy { Guy.dflt with enabledAt := s.now }
  | 2 => s.setTrl { buf := [], lost := 0 }
  | 5 => s.setHif { s.hif with spi := { s.hif.spi with nonce := none, lastFailed := false } }
  | 6 => s.setLantern { s.lantern with runs := [], queue := [], confirm := [], burst := none, pings := [] }
  | _ => s

/-- BLOCK_RESET: each bit of RST_CTRL.block written 1. -/
def State.blockReset (s : State) (v : Word) : State :=
  if !s.up then s
  else
    let s1 := s.hostWrite R.rstCtrl v
    s1.each ((List.range 8).filter fun i => v.getLsbD i) fun s i =>
      if s.blockIdle i then s.blockClear i else s.setBit R.rstCtrl F.rstCtrl.blockRefused true

/-- The key of a SOFTWARE reset. -/
def softKey (v : Word) : Bool := decide (Word.get v F.rstCtrl.key = 0x5752) && decide (Word.get v F.rstCtrl.swReset = 1)

/-- RST_CTRL written: a SOFTWARE reset, or block resets. -/
def State.rstCtrl (s : State) (v : Word) : State :=
  if softKey v then (if s.cfgServed then s.takeReset .software else s) else s.blockReset v

/-! ### The commands -/

def execPowerWindow (mw : BitVec 32) (s : State) : Host.Outcome State Fault Refusal := .next (s.powerWindow mw.toNat)

def execPwrCeilWrite (_m : PMaster) (v : Word) (s : State) : Host.Outcome State Fault Refusal := .next (s.ceilWrite v)

def execPwrHfRailWrite (_m : PMaster) (v : Word) (s : State) : Host.Outcome State Fault Refusal := .next (s.railWrite v)

def execEnterHibernate (_m : PMaster) (s : State) : Host.Outcome State Fault Refusal := .next (s.enter 1)

def execEnterWatch (_m : PMaster) (s : State) : Host.Outcome State Fault Refusal := .next (s.enter 2)

def execLowPowerEntryDone (s : State) : Host.Outcome State Fault Refusal := .next s.lowPowerDone

def execWake (s : State) : Host.Outcome State Fault Refusal := .next s.wakePin

def execRtcAlarm (s : State) : Host.Outcome State Fault Refusal := .next s.rtcAlarm

/-- POR: VIN becomes valid while VAON is down. -/
def execPor (s : State) : Host.Outcome State Fault Refusal := .next (s.takeReset .por)

def execBrownout (s : State) : Host.Outcome State Fault Refusal := .next s.brownout

def execResetPin (s : State) : Host.Outcome State Fault Refusal := .next (s.warm .resetPin)

def execWatchdog (s : State) : Host.Outcome State Fault Refusal := .next s.watchdog

def execSoftware (m : PMaster) (v : Word) (s : State) : Host.Outcome State Fault Refusal :=
  .next (if s.cfgServedTo m then s.rstCtrl v else s)

def execThermal (s : State) : Host.Outcome State Fault Refusal := .next (s.warm .thermal)

def execEndOfCause (c : Cause) (s : State) : Host.Outcome State Fault Refusal := .next (s.causeEnds c)

def execBlockReset (m : PMaster) (v : Word) (s : State) : Host.Outcome State Fault Refusal :=
  .next (if s.cfgServedTo m then s.rstCtrl v else s)

end Sys2Proof.Machine
end

