-- ==== Sys2Proof/Machine/Capability.lean ====
section
/-! DEFINITION. The capability list of a view (R404 to R408). -/

namespace Sys2Proof.Machine

/-- A mask of the indices below n that satisfy a test. -/
def maskOf (n : Nat) (f : Nat → Bool) : Nat := (List.range n).foldl (fun a i => if f i then a + 2 ^ i else a) 0

/-- Number of the indices below n that satisfy a test. -/
def countOf (n : Nat) (f : Nat → Bool) : Nat := (List.range n).countP f

/-- A capability: its ID and its parameter words. -/
structure Cap where
  id : Nat
  words : List Nat

/-- What an entry shows of the ports of a kind: `mine` says which the view may use. -/
def State.capHf (s : State) (mine : Nat → Bool) (spare : Bool) : Cap :=
  { id := 0x0010
    words := [maskOf 32 (fun p => mine p && s.inService p) + (spare && !(s.slice 32).failed).toNat * 2 ^ 32 + 8 * 2 ^ 40,
      1500 + 5 * 2 ^ 16 + 200 * 2 ^ 24 + s.fld R.pwrHfRail F.pwrHfRail.haDv * 2 ^ 32 +
        s.fld R.pwrHfRail F.pwrHfRail.hbDv * 2 ^ 40] }

def capKrovrel : Cap := { id := 0x0011, words := [0x01 + 0xF * 2 ^ 8 + 64 * 2 ^ 16 + 15 * 2 ^ 24] }
def capWide : Cap := { id := 0x0012, words := [16 + 2 * 2 ^ 8 + 16 * 2 ^ 16 + 52 * 2 ^ 24 + 832 * 2 ^ 32] }
def capHfStandards : Cap := { id := 0x0013, words := [0x3F + 0xF * 2 ^ 8 + 3 * 2 ^ 12] }

def State.capUhf (s : State) (mine : Nat → Bool) (spare : Bool) : Cap :=
  { id := 0x0020
    words := [maskOf 16 (fun i => mine (64 + i) && s.inService (64 + i)) +
        (spare && !(s.slice 80).failed).toNat * 2 ^ 16 +
        countOf 16 (fun i => mine (64 + i) && s.bit (R.uhaPaCfg i) F.uhaPaCfg.ext) * 2 ^ 24,
      132 + 180 * 2 ^ 8 + 4800 * 2 ^ 16 + 8 * 2 ^ 32 + 64 * 2 ^ 40] }

def capGen2 : Cap := { id := 0x0021, words := [0x21 + 7 * 2 ^ 8 + 0xF * 2 ^ 12 + 640 * 2 ^ 16 + 40 * 2 ^ 32] }

def State.capAwning (s : State) (mine : Nat → Bool) : Cap :=
  { id := 0x0030, words := [maskOf 4 (fun i => mine i && s.awnOn i) + 0x20 * 2 ^ 8 + 0x2000 * 2 ^ 16] }

/-- DEVICE: the device ID of the function, and the pitch of the view. -/
def State.capDevice (s : State) (q devId : Nat) : Cap :=
  { id := 0x0001
    words := [0x4810 * 2 ^ 48 + 0xB0 * 2 ^ 40 + devId * 2 ^ 16 + Config.vendorId.toNat,
      if s.boot.applied then (s.boot.factory.getD 0 0).toNat else 0,
      s.clock.epoch.toNat * 2 ^ 32 + s.fld R.cfgStatus F.cfgStatus.serial,
      q * 2 ^ 16 + s.locked.toNat * 2 ^ 8 + s.fld R.cfgStatus F.cfgStatus.result] }

/-- The UDP ports of HOST_ETH. -/
def State.capUdp (s : State) : Nat :=
  s.fld (R.hifEthIp 0) F.hifEthIp.udp * 2 ^ 16 + s.fld (R.hifEthIp 1) F.hifEthIp.udp * 2 ^ 32

/-- HOST_PCIE, for a number of VFs. -/
def capPcie (vfs : Nat) : Cap := { id := 0x0070, words := [vfs + 4 * 2 ^ 4 + 4 * 2 ^ 8 + 64 * 2 ^ 16 + 0x0F * 2 ^ 24] }

/-- The privileged list: DEVICE alone before an image has been applied (R407). -/
def State.capsPrivileged (s : State) : List Cap :=
  let every : Nat → Bool := fun _ => true
  let dev := s.capDevice 0 0x4810
  if !s.boot.applied then [dev]
  else
    let radio : List Cap := [s.capHf every true, capKrovrel, capWide, capHfStandards, s.capUhf every true, capGen2,
      s.capAwning every]
    let lnt := maskOf 4 fun e => decide (s.fld (R.lntPort e) F.lntPort.port < 32)
    let units : List Cap := [
      { id := 0x0031, words := [lnt + 64 * 2 ^ 8 + 50 * 2 ^ 16 + 2000 * 2 ^ 32] },
      { id := 0x0040, words := [48 + 64 * 2 ^ 8 + 6 * 2 ^ 16] },
      { id := 0x0050, words := [0x02000000 + 16 * 2 ^ 32 + 64 * 2 ^ 40, 65536 + 262144 * 2 ^ 32] },
      { id := 0x0060, words := [maskOf 9 s.pitchOn + 64 * 2 ^ 16] }]
    let spiLocked := s.bit R.hifSpiStatus F.hifSpiStatus.locked
    let hosts : List Cap := [
      capPcie 8,
      { id := 0x0071, words := [maskOf 2 (fun x => s.bit (R.hifEthCfg x) F.hifEthCfg.enable) + s.capUdp] },
      { id := 0x0072, words := [50 + (s.bit R.hifSpiCfg F.hifSpiCfg.auth).toNat * 2 ^ 8 + spiLocked.toNat * 2 ^ 9] }]
    let classes := maskOf 16 fun n => decide (1 ≤ n) && s.bit (R.cxpClass (n - 1)) F.cxpClass.enable
    let site : List Cap := [
      { id := 0x0080
        words := [s.fld R.guyCfg F.guyCfg.nodeId + (s.bit R.guyCfg F.guyCfg.masterOk).toNat * 2 ^ 5 +
          (s.bit R.guyCfg F.guyCfg.enable).toNat * 2 ^ 6 + 64 * 2 ^ 8 + 32 * 2 ^ 16] },
      { id := 0x0081, words := [s.fld R.cxpCfg F.cxpCfg.mode + classes * 2 ^ 16] },
      { id := 0x0090
        words := [(s.bit R.hltCfg F.hltCfg.rotHf).toNat + (s.bit R.hltCfg F.hltCfg.rotUhf).toNat * 2 + 8 * 2 ^ 8 +
          28 * 2 ^ 24] },
      { id := 0x00A0
        words := [65536 + Config.tracePortFitted.toNat * 2 ^ 32 + (s.bit R.trlCfg F.trlCfg.enable).toNat * 2 ^ 33] }]
    [[dev], radio, units, hosts, site].flatten

/-- The entries that a pitch's list takes at step 7 (R407): 1 HF, 2 UHF, 4 AWNING, 8 HOST_ETH. -/
def State.capBits (s : State) (q : Nat) : Nat :=
  (decide ((s.ownPorts q).toNat % 2 ^ 32 ≠ 0)).toNat + 2 * (decide ((s.ownPorts q).toNat / 2 ^ 32 % 2 ^ 16 ≠ 0)).toNat +
  4 * ((List.range 4).any fun i => s.awnOn i && decide (s.awnPitch i = q)).toNat +
  8 * (s.bit (R.pitCfg q) F.pitCfg.eth).toNat

/-- The list of pitch q, over Ethernet or from its virtual function. -/
def State.capsPitch (s : State) (q : Nat) (eth : Bool) : List Cap :=
  let has : Nat → Bool := fun b => decide (SMap.look 0 s.pit.caps q / b % 2 = 1)
  let mine : Nat → Bool := s.ownsPort q
  let hf : List Cap := if has 1 then [s.capHf mine false, capKrovrel, capWide, capHfStandards] else []
  let uhf : List Cap := if has 2 then [s.capUhf mine false, capGen2] else []
  let awn : List Cap := if has 4 then [s.capAwning fun i => decide (s.awnPitch i = q)] else []
  let bytes := (s.region q).2 - (s.region q).1
  let own : List Cap := [
    { id := 0x0050
      words := [bytes + 16 * 2 ^ 32 + countOf 64 (s.ownsFifo q) * 2 ^ 40,
        s.fld (R.gshBufRange q) F.gshBufRange.count + s.fld (R.sngPtRegion q) F.sngPtRegion.size * 2 ^ 32] },
    { id := 0x0060, words := [(s.pitchOn q).toNat * 2 ^ q + countOf 64 (s.ownsKey q) * 2 ^ 16] }]
  let pcie : List Cap := if eth then [] else [capPcie 0]
  let net : List Cap :=
    if has 8 then
      [{ id := 0x0071
         words := [s.fld (R.hifEpCfg q) F.hifEpCfg.ports + (s.epOn q).toNat * 2 ^ 8 + s.capUdp] }]
    else []
  [[s.capDevice q (if eth then 0x4810 else 0x4811)], hf, uhf, awn, own, pcie, net].flatten

/-- The words of a list whose entries follow one another from a byte offset on (R404, R405; notes/assumptions/33.md). -/
def capLayout : Nat → List Cap → List Word
  | _, [] => []
  | off, c :: l =>
    let size := c.words.length + 1
    let next := if l.isEmpty then 0 else off + 8 * size
    let head : Word := BitVec.ofNat 64 (c.id * 2 ^ 48 + 0x01 * 2 ^ 40 + size * 2 ^ 32 + next)
    List.append (head :: c.words.map (BitVec.ofNat 64)) (capLayout (off + 8 * size) l)

/-- Word i of the list in a view; words past the entries read zero. -/
def State.capWord (s : State) (q : Nat) (eth : Bool) (i : Nat) : Word :=
  (capLayout 0 (if q = 0 then s.capsPrivileged else s.capsPitch q eth)).getD i 0

end Sys2Proof.Machine
end

