-- ==== Sys2Proof/Machine/Access.lean ====
section
/-! DEFINITION. Registers as hosts meet them: what a register reads as where its value is computed, and what a write of it
does. CFG_CTRL.load is in Machine/Boot.lean. -/

namespace Sys2Proof.Machine

/-! ### Which register an offset names -/

/-- Index of a register in an array. -/
def arr (base stride n off : Nat) : Option Nat :=
  if base ≤ off ∧ (off - base) % stride = 0 ∧ (off - base) / stride < n then some ((off - base) / stride) else none

/-- Index n2·i + j of a register in an array of arrays. -/
def arr2 (base s1 n1 s2 n2 off : Nat) : Option Nat :=
  if base ≤ off ∧ (off - base) / s1 < n1 ∧ (off - base) % s1 % s2 = 0 ∧ (off - base) % s1 / s2 < n2 then
    some ((off - base) / s1 * n2 + (off - base) % s1 / s2)
  else none

/-- One register. -/
def one (base off : Nat) : Option Nat := if off = base then some 0 else none

/-- The first entry of a table of registers that names an offset, with its index. -/
def hookAt {α : Type} (l : List ((Nat → Option Nat) × α)) (off : Nat) : Option (Nat × α) :=
  l.findSome? fun x => (x.1 off).map fun i => (i, x.2)

/-! ### What registers read as -/

/-- Codes of R71 and R188. -/
def SliceState.code : SliceState → Nat
  | .off => 0
  | .quiet => 1 | .armed => 2 | .rampUp => 3 | .field => 4 | .rampDown => 5 | .hfListen => 6 | .hfCal => 7 | .ping => 8
  | .standby => 1 | .synth => 2 | .listen => 3 | .uRampUp => 4 | .carrier => 5 | .uRampDown => 6 | .hop => 7 | .cal => 8

/-- The state that a slice shows. -/
def State.shownState (s : State) (n : Nat) : Nat := SliceState.code (s.slice n).st

/-- HFA_STATE and UHA_STATE of slice n (R98, R219). DESIGN CHOICE (notes/assumptions/105.md): the spare shows the template of a stake on
its own identifier, and covered 0, also while it covers a port. -/
def State.sliceWord (s : State) (n : Nat) : Word :=
  let tmpl := match s.runAt n with
    | none => 0
    | some r => r.template
  BitVec.ofNat 64 (tmpl % 256 * 2 ^ 16 + s.server n % 256 * 2 ^ 8 + (s.port n).covered.toNat * 2 ^ 5 +
    (s.inService n).toNat * 2 ^ 4 + s.shownState n)

/-- UHA_TX_STATUS: the dwell elapsed at the last sample (R26, R219). -/
def State.txWord (s : State) (i : Nat) : Word :=
  let x := s.slice (64 + i)
  let dwell := if x.dwellAt = 0 then 0 else (x.sampled - x.dwellAt) / 40000
  Word.put (s.reg (R.uhaTxStatus i)) F.uhaTxStatus.dwellMs (min 0xFFFF dwell)

/-- HFA_CANCEL_COEFj of slice n: the neighbour it is for; of one that does not exist the coefficient is 0 (R85, R98). -/
def State.coefWord (s : State) (n j : Nat) : Word :=
  match neighbourAt n j with
  | some q => Word.put (s.reg (R.hfaCancelCoef n j)) F.hfaCancelCoef.neighbour q
  | none => Word.put 0 F.hfaCancelCoef.neighbour 0xFF

/-- HFA_SAMPLE_TIME and UHA_SAMPLE_TIME of slice n (R26). -/
def State.sampleWord (s : State) (n : Nat) : Word := BitVec.ofNat 64 (s.slice n).sampled

def State.bufStatusWord (s : State) (q : Nat) : Word :=
  Word.put (Word.put (s.reg (R.gshBufStatus q)) F.gshBufStatus.free (s.freeBufs q).length) F.gshBufStatus.badRange
    (s.badRange q).toNat

def State.fifoStatusWord (s : State) (n : Nat) : Word :=
  Word.put (Word.put (Word.put (s.reg (R.gshFifoStatus n)) F.gshFifoStatus.full (s.fifoFull n).toNat) F.gshFifoStatus.held
    (!(s.fifo n).held.isEmpty).toNat) F.gshFifoStatus.depth (s.fifo n).packets.length

def State.fifoHeadWord (s : State) (n : Nat) : Word :=
  match (s.fifo n).packets with
  | [] => 0
  | p :: _ => Word.put (Word.put (Word.put 0 F.gshFifoHead.valid 1) F.gshFifoHead.length p.length) F.gshFifoHead.first
      (p.chain.headD 0)

def State.pitStatusWord (s : State) (q : Nat) : Word :=
  let lostPorts := decide (s.ownPorts q ≠ s.reg (R.pitPorts q))
  let lostKeys := decide (s.ownKeys q ≠ s.reg (R.pitKeys q))
  Word.put (Word.put (Word.put (Word.put (s.reg (R.pitStatus q)) F.pitStatus.portsLost lostPorts.toNat)
    F.pitStatus.keysLost lostKeys.toNat) F.pitStatus.badRegion (s.badRegion q).toNat) F.pitStatus.vfEnabled (s.vfOn q).toNat

/-- A register whose value is computed, and how. -/
abbrev ReadHook := (Nat → Option Nat) × (State → Nat → Word)

/-- Registers of the site whose value is computed. -/
def readHooks0 : List ReadHook :=
  [(one R.clkSiteTime, fun s _ => BitVec.ofNat 64 s.now),
   (one R.pwrRtc, fun s _ => BitVec.ofNat 64 s.rtc),
   (one R.pwrStatus, fun s _ => Word.put (s.reg R.pwrStatus) F.pwrStatus.state s.boot.power.code),
   (arr (R.gshBufStatus 0) 0x20 9, State.bufStatusWord),
   (arr (R.gshFifoStatus 0) 0x40 64, State.fifoStatusWord),
   (arr (R.gshFifoHead 0) 0x40 64, State.fifoHeadWord),
   (arr (R.sngPtStatus 0) 0x20 9, fun s q => Word.put (s.reg (R.sngPtStatus q)) F.sngPtStatus.badRegion (s.badTable q).toNat),
   (one (R.pitCfg 0), fun s _ => Word.put (s.reg (R.pitCfg 0)) F.pitCfg.enable 1),
   (one (R.pitRegion 0), fun _ _ => 0),
   (arr (R.pitStatus 0) 0x1000 9, State.pitStatusWord),
   (arr (R.awnStatus 0) 0x20 4, State.awnStatusWord),
   (one R.guyStatus, fun s _ => Word.put (s.reg R.guyStatus) F.guyStatus.beaconOk s.beaconOk.toNat),
   (one R.cabGpioIn, fun s _ => s.gpioIn)]

/-- Registers of slices whose value is computed; those of the spares that read zero (R98, R219). -/
def readHooks1 : List ReadHook :=
  [(arr (R.hfaState 0) 0x1000 33, State.sliceWord),
   (arr (R.hfaHeadStatus 0) 0x1000 33, fun s n => if n = 32 then 0 else s.headWord n),
   (arr (R.hfaSampleTime 0) 0x1000 33, State.sampleWord),
   (arr (R.uhaSampleTime 0) 0x1000 17, fun s i => s.sampleWord (64 + i)),
   (one (R.hfaCancelCfg 32), fun _ _ => 0),
   (arr2 (R.hfaCancelCoef 0 0) 0x1000 33 8 4, fun s k => if k / 4 = 32 then 0 else s.coefWord (k / 4) (k % 4)),
   (arr (R.uhaState 0) 0x1000 17, fun s i => s.sliceWord (64 + i)),
   (arr (R.uhaTxStatus 0) 0x1000 17, State.txWord),
   (arr (R.uhaHeadStatus 0) 0x1000 17, fun s i => if i = 16 then 0 else s.headWord (64 + i)),
   (one (R.uhaPaCfg 16), fun _ _ => 0),
   (one (R.uhaPaStatus 16), fun _ _ => 0),
   (one (R.uhaHopState 16), fun _ _ => 0)]

/-- The word that a register of PF0 BAR0 reads as. -/
def State.regWord (s : State) (off : Nat) : Word :=
  match hookAt (List.append readHooks0 readHooks1) off with
  | some (i, f) => f s i
  | none => s.reg off

/-! ### What a write of a register does -/

/-- The plain write; from a pitch view, rwl fields are ro (R286). -/
def State.plainWrite (s : State) (m : Master) (off : Nat) (v : Word) : State :=
  s.writeReg (s.locked || !privileged m) off v

/-- PWR_CTRL. -/
def State.pwrCtrlWrite (s : State) (v : Word) : State :=
  if Word.get v F.pwrCtrl.enter = 1 then s.enter (Word.get v F.pwrCtrl.target) else s.hostWrite R.pwrCtrl v

/-- SCH_CTRL: run, then cancel, then swap. -/
def State.schCtrlWrite (s : State) (v : Word) : State :=
  let s1 := s.schRun (decide (Word.get v F.schCtrl.run = 1))
  let s2 := if Word.get v F.schCtrl.cancel = 1 then s1.schCancel else s1
  if Word.get v F.schCtrl.swap = 1 then s2.schSwap else s2

/-- CFG_FLASH_CMD. -/
def State.flashCmdWrite (s : State) (v : Word) : State :=
  if Word.get v F.cfgFlashCmd.go = 1 then
    s.flashCmd (Word.get v F.cfgFlashCmd.op) (BitVec.ofNat 32 (Word.get v F.cfgFlashCmd.addr))
  else s.hostWrite R.cfgFlashCmd v

/-- Host staging of an image (R364): restage starts it anew, and CFG_STAGE appends a word. -/
def State.restage (s : State) : State := (s.setBoot { s.boot with staged := [] }).setReg R.cfgStagePtr 0

def State.stageWord (s : State) (w : Word) : State :=
  (s.setBoot { s.boot with staged := s.boot.staged ++ [w] }).bump R.cfgStagePtr F.cfgStagePtr.words

def State.cancelCfgWrite (s : State) (p : Nat) (v : Word) : State :=
  if p = 32 then s
  else
    let s1 := s.hostWrite (R.hfaCancelCfg p) v
    if Word.get v F.hfaCancelCfg.reload = 1 then s1.cancelReload p else s1

/-- A coefficient write stands until the next adaptation; it ends the adaptation of the running stake (R88). -/
def State.coefWrite (s : State) (p j : Nat) (v : Word) : State :=
  if p = 32 ∨ (neighbourAt p j).isNone then s
  else (s.hostWrite (R.hfaCancelCoef p j) v).modPort p fun x => { x with coefWritten := true }

/-- A seed write (R202). -/
def State.seedWrite (s : State) (i b : Nat) (v : Word) : State :=
  let s1 := s.hostWrite (R.uhaSjcSeed i b) v
  if i = 16 then s1 else s1.modPort (64 + i) fun x => { x with seedsWritten := b :: x.seedsWritten.filter (· ≠ b) }

/-- UHA_PA_STATUS: cfg_refused, and fault (R208). -/
def State.paStatusWrite (s : State) (i : Nat) (v : Word) : State :=
  if i = 16 then s
  else
    let s1 := s.hostWrite (R.uhaPaStatus i) (Word.put v F.uhaPaStatus.fault 0)
    if Word.get v F.uhaPaStatus.fault = 1 then s1.paFaultClear (64 + i) else s1

def State.cabTrigWrite (s : State) (t : Nat) (v : Word) : State :=
  let s1 := s.hostWrite (R.cabTrig t) v
  if Word.get v F.cabTrig.sw = 1 then s1.triggerSw t else s1

/-- A register whose write does more, or other, than the plain write. -/
abbrev WriteHook := (Nat → Option Nat) × (State → Master → Nat → Word → State)

def writeHooks0 : List WriteHook :=
  [(one R.pwrCtrl, fun s _ _ v => s.pwrCtrlWrite v),
   (one R.pwrCeil, fun s _ _ v => s.ceilWrite v),
   (one R.pwrHfRail, fun s _ _ v => s.railWrite v),
   (one R.rstCtrl, fun s _ _ v => s.rstCtrl v),
   (one R.cfgCtrl, fun s _ _ v => if Word.get v F.cfgCtrl.restage = 1 then s.restage else s),
   (one R.cfgStage, fun s _ _ v => s.stageWord v),
   (one R.cfgFlashCmd, fun s _ _ v => s.flashCmdWrite v),
   (one R.schCtrl, fun s _ _ v => s.schCtrlWrite v),
   (one (R.hfaHeadStatus 32), fun s _ _ _ => s),
   (arr (R.hfaCancelCfg 0) 0x1000 33, fun s _ p v => s.cancelCfgWrite p v),
   (arr2 (R.hfaCancelCoef 0 0) 0x1000 33 8 4, fun s _ k v => s.coefWrite (k / 4) (k % 4) v),
   (one (R.uhaHeadStatus 16), fun s _ _ _ => s),
   (arr2 (R.uhaSjcSeed 0 0) 0x1000 17 8 64, fun s _ k v => s.seedWrite (k / 64) (k % 64) v),
   (arr (R.uhaPaCfg 0) 0x1000 17, fun s _ i v => s.paCfgWrite (64 + i) v),
   (arr (R.uhaPaStatus 0) 0x1000 17, fun s _ i v => s.paStatusWrite i v)]

def writeHooks1 : List WriteHook :=
  [(arr (R.chkCfg 0) 0x40 48, fun s _ n v => s.chkWrite n .cfg v),
   (arr (R.chkPoly 0) 0x40 48, fun s _ n v => s.chkWrite n .poly v),
   (arr (R.chkInit 0) 0x40 48, fun s _ n v => s.chkWrite n .init v),
   (arr (R.chkXorout 0) 0x40 48, fun s _ n v => s.chkWrite n .xorout v),
   (arr (R.chkRun 0) 0x40 48, fun s _ n v => s.chkStart n v),
   (one R.gshEccInject, fun s _ _ v => s.injectWrite v),
   (arr (R.gshBufFree 0) 0x20 9, fun s m q v => s.freeWrite m q v),
   (arr (R.gshFifoCfg 0) 0x40 64, fun s m n v => (s.plainWrite m (R.gshFifoCfg n) v).driveInt),
   (arr (R.gshFifoPush 0) 0x40 64, fun s m n v => s.onFifo m n 0x18 fun s => s.push m n v),
   (arr (R.gshFifoPop 0) 0x40 64, fun s m n v => s.onFifo m n 0x20 fun s => s.pop n v),
   (arr (R.gshFifoCtrl 0) 0x40 64, fun s _ n v => if Word.get v F.gshFifoCtrl.flush = 1 then s.flush n else s),
   (one R.rdpRrWait, fun s _ _ v => if Word.get v F.rdpRrWait.clear = 1 then s.setReg R.rdpRrWait 0 else s),
   (one R.hifSpiIntMask, fun s _ _ v => (s.hostWrite R.hifSpiIntMask v).driveInt),
   (arr (R.hifRing 0) 8 64, fun s m n v => s.onFifo m n 0x38 fun s => s.ringSet n v),
   (one R.secKeyLoad, fun s _ _ v => s.secKeyCmd v),
   (arr (R.secKeyData 0) 8 4, fun s _ i v => s.writeData none i v)]

def writeHooks2 : List WriteHook :=
  [(arr (R.awnCtrl 0) 0x20 4, fun s _ i v => s.awnCtrlWrite i v),
   (one R.lntStatus, fun s _ _ v => s.lntStatusWrite v),
   (one R.hltCtrl, fun s _ _ v => s.hltCtrl v),
   (one R.guyCfg, fun s _ _ v => s.guyCfgWrite v),
   (one R.guyLaneReq, fun s _ _ v => s.laneReqWrite v),
   (one R.cxpCfg, fun s _ _ v => (s.hostWrite R.cxpCfg v).driveCxp),
   (arr (R.cabGpioCfg 0) 8 64, fun s _ n v => s.gpioCfg n v),
   (one R.cabGpioSet, fun s _ _ v => s.gpioSetBits v),
   (one R.cabGpioClr, fun s _ _ v => s.gpioClrBits v),
   (arr (R.cabTrig 0) 8 16, fun s _ t v => s.cabTrigWrite t v),
   (one R.trlCfg, fun s _ _ v => s.trlCfgWrite v),
   (arr (R.sngPtRegion 0) 0x20 9, fun s m q v => (s.plainWrite m (R.sngPtRegion q) v).countTables)]

/-- A write of 64 bits to the register at an offset of PF0 BAR0. -/
def State.regWrite (s : State) (m : Master) (off : Nat) (v : Word) : State :=
  match hookAt [writeHooks0, writeHooks1, writeHooks2].flatten off with
  | some (i, f) => f s m i v
  | none => s.plainWrite m off v

end Sys2Proof.Machine
end

