-- ==== Sys2Proof/Machine/Boot.lean ====
section
/-! DEFINITION. The reset sequence (R355 to R358), the configuration image (R360 to R364), and READY (R5, R15, R58, R68,
R239, R240, R335, R369). -/

namespace Sys2Proof.Machine

/-! ### Sources of an image (R358, R360, R363) -/

/-- Codes of R363. -/
def codeOk : Nat := 1
def codeNoSource : Nat := 2

/-- Magic and format of a header. -/
def magicOk (ws : List Word) : Bool := decide (Word.get (ws.getD 0 0) (63, 16) = 0x444E4D470001)

/-- L of a header, in bytes. -/
def imageBytes (ws : List Word) : Nat := Word.get (ws.getD 1 0) (31, 0)
def imageSerial (ws : List Word) : Nat := Word.get (ws.getD 1 0) (63, 32)

/-- Words that the source gives: the header, and the image that it announces, at most `limit` bytes; none when the source
does not answer or the image is longer than it allows. A header without its magic announces nothing. -/
def imageRead (word : Nat → Word) (limit : Nat) : Option (List Word) :=
  let head := (List.range 8).map word
  if !magicOk head then some head
  else if limit < imageBytes head then none
  else some ((List.range (max 8 (imageBytes head / 8))).map word)

/-- The image of a source: 0 and 1 the slots, 2 the I2C EEPROM, 3 the staging area. -/
def State.sourceImage (s : State) (sfdp : Bool) (eeprom : List Word) (src : Nat) : Option (List Word) :=
  match src with
  | 0 => if sfdp then imageRead (fun i => s.flashWord (8 * i)) 4194304 else none
  | 1 => if sfdp then imageRead (fun i => s.flashWord (0x400000 + 8 * i)) 4194304 else none
  | 2 => match imageRead (fun i => eeprom.getD i 0) 65536 with
    | some ws => if eeprom.length < ws.length then none else some ws
    | none => none
  | _ => if s.boot.staged.isEmpty ∨ (magicOk s.boot.staged ∧ 4194304 < imageBytes s.boot.staged) then none
    else some s.boot.staged

/-! ### The checks of R363 -/

/-- HEADER: count, L and the reserved bits. -/
def headerFits (ws : List Word) : Bool :=
  let n := imageBytes ws
  let count := Word.get (ws.getD 0 0) (15, 0)
  magicOk ws && decide (1 ≤ count) && decide (count ≤ 64) && decide (n % 8 = 0) && decide (32968 ≤ n) &&
  decide (n ≤ 4194304) && decide (ws.length = n / 8) && decide (Word.get (ws.getD 2 0) (63, 2) = 0) &&
  ((List.range 5).all fun i => decide (ws.getD (3 + i) 0 = 0))

/-- The key and the signature, and the words that are signed. -/
def imageKey (ws : List Word) : List Word := (ws.drop (ws.length - 16)).take 8
def imageSig (ws : List Word) : List Word := ws.drop (ws.length - 8)
def imageSigned (ws : List Word) : List Word := ws.take (ws.length - 8)

/-- n sections fit within the words before the key block, and their header words have zero in [47:32]. -/
def sectionsFit : Nat → List Word → Bool
  | 0, _ => true
  | _ + 1, [] => false
  | n + 1, w :: l =>
    decide (Word.get w (47, 32) = 0) && decide (Word.get w (31, 0) ≤ l.length) && sectionsFit n (l.drop (Word.get w (31, 0)))

/-- An offset within the register windows of R409. -/
def inWindows (off : Nat) : Bool :=
  decide (off < 0x060000) || (decide (0x080000 ≤ off) && decide (off < 0x1D0000))

/-- What a section of a type may hold. -/
def sectionFits (x : Section) : Bool :=
  match x.type with
  | 0x01 => true
  | 0x02 => decide (x.body.length % 2 = 0) && (regPairs x.body).all fun p => inWindows p.1
  | 0x03 => decide (x.body.length % 6 = 0)
  | 0x04 => decide (x.body.length ≤ 131072)
  | 0x05 => decide (x.arg < 4) && decide (x.body.length ≤ 1032)
  | _ => false

def sectionsOk (ws : List Word) : Bool :=
  let l := imageSections ws
  let awn := (l.filter fun x => decide (x.type = 0x05)).map fun x => x.arg
  sectionsFit (Word.get (ws.getD 0 0) (15, 0)) ((ws.take (ws.length - 16)).drop 8) && l.all sectionFits && decide awn.Nodup

/-- FACTORY: one, of 4,096 words, with the serial of this device. -/
def factoryOk (ws : List Word) : Bool :=
  match (imageSections ws).filter fun x => decide (x.type = 0x01) with
  | [x] => decide (x.body.length = 4096) && decide (x.body.getD 0 0 = Config.deviceSerial)
  | _ => false

/-- Entries of six words of a KEYS body; `n` bounds their number. -/
def keyEntries : Nat → List Word → List (List Word)
  | 0, _ => []
  | n + 1, l => if l.length < 6 then [] else l.take 6 :: keyEntries n (l.drop 6)

def imageKeys (ws : List Word) : List (List Word) :=
  ((imageSections ws).filter fun x => decide (x.type = 0x03)).flatMap fun x => keyEntries x.body.length x.body

def keysOk (ws : List Word) : Bool := (imageKeys ws).all fun e => (unwrap (e.drop 1)).isSome

/-- What step 6 finds of a source: the structure of its header (R357). -/
def structCode (image : Option (List Word)) : Nat :=
  match image with
  | none => codeNoSource
  | some ws => if headerFits ws then codeOk else 3

/-- The code of R363 for the words of a source, its checks in order. -/
def State.imageCode (s : State) (image : Option (List Word)) : Nat :=
  match image with
  | none => codeNoSource
  | some ws =>
    if !headerFits ws then 3
    else if !keyHashOk (imageKey ws) then 4
    else if !signatureOk (imageSigned ws) (imageKey ws) (imageSig ws) then 5
    else if imageSerial ws < s.boot.floor.toNat then 6
    else if !sectionsOk ws then 7
    else if !factoryOk ws then 8
    else if !keysOk ws then 9
    else codeOk

/-! ### Applying an image (R362) -/

/-- Bodies of the sections of a type, in order, with their arguments. -/
def imageBodies (ws : List Word) (t : Nat) : List (Nat × List Word) :=
  ((imageSections ws).filter fun x => decide (x.type = t)).map fun x => (x.arg, x.body)

/-- Registers kept by a warm reset until here take their reset values first (R411). -/
def State.dropKept (s : State) : State :=
  let l : List Nat := [[R.cabGpioOut, R.cxpCfg], (List.range 64).map R.cabGpioCfg, (List.range 17).map R.uhaPaCfg].flatten
  s.each l fun s off => s.setReg off (resetWord off)

/-- A REG pair, as written by PF0, a word of its MSI-X table included; writes of SCH_CTRL are held back, and PWR_CTRL starts no
entry before READY (R352). A reset that a pair starts ends the load. -/
def State.applyPair (s : State) (p : Nat × Word) : State :=
  if s.boot.seq.isSome ∨ p.1 = R.schCtrl then s
  else if p.1 = R.pwrCtrl then s.hostWrite R.pwrCtrl p.2
  else if 0xF000 ≤ p.1 ∧ p.1 < 0xF400 ∧ p.1 % 8 = 0 then s.msixWrite 0 ((p.1 - 0xF000) / 8) p.2
  else s.regWrite 1 p.1 p.2

/-- The held SCH_CTRL value: run is loaded; no plan is pending that cancel could withdraw; a swap waits for the check at load
(notes/assumptions/101.md). -/
def State.heldCtrl (s : State) (v : Word) : State :=
  let s1 := s.setFld R.schCtrl F.schCtrl.run (Word.get v F.schCtrl.run)
  if Word.get v F.schCtrl.swap = 1 then s1.setBit R.schCtrl F.schCtrl.swap true else s1

/-- A KEYS entry. -/
def State.applyKey (s : State) (e : List Word) : State :=
  let w := e.getD 0 0
  let long := w.getLsbD 8
  match unwrap (e.drop 1) with
  | none => s
  | some k =>
    let key : BitVec 256 := if long then k else (k.setWidth 128).setWidth 256
    s.setSec { s.sec with
      keys := SMap.put 0 s.sec.keys (w.toNat % 64) key, long := SMap.put false s.sec.long (w.toNat % 64) long }

/-- An AWNING body, with gen 0 (R229). -/
def State.applyAwning (s : State) (x : Nat × List Word) : State :=
  match x.2 with
  | [] => s
  | w :: l => s.setWords (s.awnRegion x.1).1 (Word.put w (31, 0) 0 :: l)

/-- Every instance stands at POWER_OFF after a reset: its random UID is drawn (R225). -/
def State.drawUids (s : State) : State :=
  s.each (List.range 4) fun s i =>
    (s.modAwn i fun x => { x with randomUid := (Config.freeWord s.fresh).setWidth 32 }).skip 1

/-- The FACTORY record and the register pairs of an image, in the order of the image (R362). -/
def State.applyRegs (s : State) (ws : List Word) : State :=
  let factory := ((imageBodies ws 0x01).map (·.2)).headD []
  (s.setBoot { s.boot with factory := factory }).dropKept.each (imageRegs ws) State.applyPair

/-! ### Start-up calibration (R335) -/

/-- Every slice. -/
def allSlices : List Nat := List.append (kindSlices .hf) (kindSlices .uhf)

/-- The start-up runs of a slice; a slice of which none are given has measured nothing: all its values are 0. -/
def calOf (l : List CalRun) (n : Nat) : CalRun :=
  (l.find? fun c => decide (c.slice = n)).getD { slice := n, a := [], b := [], headroom := 0 }

/-- The start-up runs of a slice end: they are compared. The 6 is cause START. -/
def State.compareCal (s : State) (c : CalRun) : State :=
  match firstDisagreement (kindOf c.slice) c.a c.b with
  | some (_, u, v) => s.failSlice c.slice 6 [BitVec.ofInt 64 u, BitVec.ofInt 64 v]
  | none => s

/-- The start-up values of a slice whose runs agree are tested against the ranges of the FACTORY record, and applied. -/
def State.startCal (s : State) (c : CalRun) : State :=
  if (s.slice c.slice).failed then s
  else if !s.runInRange c.slice c.a || !s.runInRange c.slice c.b then s.failSlice c.slice 6 (s.badValues c.slice c.a c.b)
  else s.calAgree c.slice c.a c.b c.headroom (s.reg R.hltDerateCfg) true

/-- The order of R362, from the FACTORY record to configuration lock, the start-up values before the lock (R335). Step 7 lasts many
ticks: what the pairs have written is in force for them. -/
def State.applySections (s : State) (ws : List Word) (cal : List CalRun) : State :=
  let s1 := s.applyRegs ws
  if s1.boot.seq.isSome then s1
  else
    let s2 := (s1.setTick Tick.dflt).each allSlices fun s n => s.startCal (calOf cal n)
    let s3 := s2.each (imageKeys ws) State.applyKey
    let s4 := s3.each (imageBodies ws 0x04) fun s x => s.setWords (bankBase false) x.2
    let s5 := (s4.each (imageBodies ws 0x05) State.applyAwning).drawUids
    let held := ((imageRegs ws).filter fun x => decide (x.1 = R.schCtrl)).getLast?.map (·.2)
    let s6 := match held with
      | none => s5
      | some v => s5.heldCtrl v
    if Word.get (ws.getD 2 0) (0, 0) = 1 then s6.setBit R.cfgStatus F.cfgStatus.locked true else s6

/-- Pins take their image functions: the amplifiers stand at their safe levels (R209, R356). -/
def State.imagePins (s : State) : State :=
  (s.each (List.range 16) fun s i => s.pinsSafe (64 + i)).driveCxp

/-- A verified image is applied: step 7 is done. -/
def State.applyImage (s : State) (ws : List Word) (src : Nat) : State :=
  match s.boot.seq with
  | none => s
  | some q =>
    let floor : BitVec 32 :=
      if Word.get (ws.getD 2 0) (1, 1) = 1 then BitVec.ofNat 32 (imageSerial ws) else s.boot.floor
    let s1 := (s.setBoot { s.boot with seq := none, floor := floor }).applySections ws q.cal
    if s1.boot.seq.isSome then s1
    else
      let s2 := ((s1.setFld R.cfgStatus F.cfgStatus.serial (imageSerial ws)).setFld R.cfgStatus F.cfgStatus.source src).setFld
        R.cfgStatus F.cfgStatus.result codeOk
      let s3 := s2.imagePins.setBoot { s2.boot with
        seq := some { q with step := 7 }, applied := true, windowsOnly := false, image := some (ws, src) }
      let caps := (List.range 9).foldl (fun m p => SMap.put 0 m p (s3.capBits p)) []
      (s3.setPit { s3.pit with caps := caps }).setHlt { s3.hlt with epochDue := true }

/-! ### Trying the sources (R358, R363, R364) -/

/-- The sources of a strap setting, in order. -/
def bootSources : Nat → List Nat
  | 0 => [0, 1]
  | 1 => [1, 0]
  | 2 => [2]
  | _ => []

/-- An image fails: its code is shown, and an IMAGE_FAIL record is due (R367). -/
def State.imageFail (s : State) (code src serial : Nat) : State :=
  let payload : List Word := [BitVec.ofNat 64 code, BitVec.ofNat 64 src, BitVec.ofNat 64 serial]
  (s.setFld R.cfgStatus F.cfgStatus.result code).logRec 0x02 payload

/-- The words of a source are read into the staging area (R357). -/
def State.stageImage (s : State) (ws : List Word) : State :=
  (s.setBoot { s.boot with staged := ws }).setFld R.cfgStagePtr F.cfgStagePtr.words ws.length

/-- Read the sources in order (step 6): the first one whose structure is right is kept. -/
def State.trySources (s : State) (sfdp : Bool) (eeprom : List Word) : List Nat → State
  | [] => s
  | src :: l =>
    let image := s.sourceImage sfdp eeprom src
    let code := structCode image
    let s1 := s.stageImage (image.getD [])
    if code = codeOk then s1.setBoot { s1.boot with image := image.map fun ws => (ws, src) }
    else State.trySources (s1.imageFail code src (imageSerial (image.getD []))) sfdp eeprom l

/-! ### READY -/

/-- The READY event on the event FIFO of each pitch (R319). -/
def State.readyEvents (s : State) : State :=
  s.each ((List.range 9).filter s.pitchOn) fun s q => s.pitchEvent q 0xFF .ok 0x0030 s.clock.epoch.toNat []

/-- The HEALTH packets of the reset sequence follow (R319, R344). -/
def State.earlyHealth (s : State) : State :=
  (s.setHif { s.hif with early := [] }).each s.hif.early fun s x => s.health x.port x.status x.reason x.detail x.data

/-- Save records discarded by the reset give their events (R58). -/
def State.recordEvents (s : State) : State :=
  (s.setRecords []).each s.records fun s x => s.event x.fifo x.pitch x.port .abandoned 0x0001 0 []

/-- The always-on words are copied back, and entries that woke the part give CARD_WAKE (R239, R240). -/
def State.lanternBack (s : State) : State :=
  if s.lantern.aon.isEmpty then s
  else
    let w (k : Nat) : Word := s.lantern.aon.getD k 0
    let s1 := s.each (List.range 8) fun s i => s.setReg (lntReg (5 + i)) (w (5 + i))
    let woke := (List.range 4).filter fun e => decide (Word.get (w (9 + e)) F.lntLast.near = 1)
    let s2 := s1.each woke fun s e =>
      let p := Word.get (w (1 + e)) F.lntPort.port
      let s3 := s.pitchEvent 0 p .ok 0x0020 e [w (9 + e)]
      match s.pitchOfPort p with
      | none => s3
      | some q => if q = 0 then s3 else s3.pitchEvent q p .ok 0x0020 e [w (9 + e)]
    s2.setLantern Lantern.dflt

/-- The slices stand powered, none radiating, the failed ones in OFF (R15, R27, R69, R71, R188); a spare is free (R346). -/
def State.slicesUp (s : State) : State :=
  let on := allSlices.filter fun n => !(s.slice n).failed
  (s.each on fun s n => s.sliceTo n (if !isHf n ∧ s.inhibited then .off else sliceRest n)).each
    (on.filter fun n => decide (n = spareOf (kindOf n))) fun s n => s.sliceShow n 3

/-- Ports begin with their start-up state in the checkpoint slots (R327, R328): the head class UNKNOWN (R92) and aerial A (R206) as
the reset has left them. -/
def State.startSlots (s : State) : State :=
  s.each (List.append (List.range 32) ((List.range 16).map (· + 64))) fun s p =>
    let live := s.liveWords p (Config.startLive p)
    let s1 := (s.putCkSlot (2 * p) (slotWords live 0 1)).putCkSlot (2 * p + 1) (slotWords live 0 0)
    s1.setHlt { s1.hlt with gens := SMap.put 0 s1.hlt.gens p 1 }

/-- READY (step 9): site time starts at 0 with the new epoch, and the plan checker starts. -/
def State.makeReady (s : State) (q : ResetSeq) : State :=
  let s1 := s.setBoot { s.boot with seq := none, power := .ready, rstoutN := true }
  let s2 := s1.setClock { s1.clock with site := 0, epoch := q.epoch, aonEpoch := q.epoch }
  let s3 := (s2.setHif { s2.hif with pcieUp := !s2.boot.scanHeld }).setBit R.cfgStatus F.cfgStatus.logFail s2.hlt.epochDue
  let s4 := s3.trace 0x0A 0xFF (Word.get (s3.reg R.rstCause) F.rstCause.cause * 2 ^ 32 + q.epoch.toNat)
  let s5 := s4.slicesUp.readyEvents.earlyHealth.recordEvents.lanternBack
  let s6 := s5.startSlots
  let s7 := s6.each (List.range 4) fun s i => s.setFld (R.awnStatus i) F.awnStatus.triesLeft (Sys2Proof.Machine.pinTries (s.reg R.awnCfg))
  let s8 := s7.setBit R.hifSpiStatus F.hifSpiStatus.locked (s7.bit R.hifSpiCfg F.hifSpiCfg.auth)
  let s9 := (s8.setBit R.schStatus F.schStatus.checking true).setSch
    { s8.sch with check := some { bank := false, atLoad := true } }
  s9.driveCxp.driveInt

/-! ### The steps (R357) -/

/-- Straps are sampled on GP0 to GP3 when they are due, after POR, BROWNOUT, WAKE or RESET_PIN (R358, R421): what the outside drives,
or the weak pull-down. -/
def State.sampleStraps (s : State) (due : Bool) (v : List (Option Bool)) : State :=
  if !due then s
  else
    let ext := [0, 1, 2, 3].foldl (fun m n => match v.getD n none with
      | some b => SMap.ins n b m
      | none => SMap.del n m) s.cab.ext
    let s1 := s.setCab { s.cab with ext := ext }
    s1.setReg R.rstStraps (BitVec.ofNat 64 (([0, 1, 2, 3] : List Nat).map fun n => (s1.ballLevel n).toNat * 2 ^ n).sum)

/-- Step 4: a cold reset writes zero to all of Groundsheet (R260); the start-up calibration of all 50 slices runs, and its runs are
compared when they end (R335). -/
def State.step4 (s : State) (q : ResetSeq) (i : BootInput) : State :=
  let s1 := if q.cold then (s.setMem []).setEcc [] else s
  (s1.setBoot { s1.boot with seq := some { q with step := 4, zeroed := q.zeroed || q.cold, cal := i.cal } }).each allSlices
    fun s n => s.compareCal (calOf i.cal n)

/-- Step 5: the logbook is scanned, the AVS code taken and the epoch chosen (R341, R369). DESIGN CHOICE (notes/assumptions/117.md): a
sequence that restarts after its EPOCH record takes the record for the newest, and R369's formula moves the epoch by 2. -/
def State.step5 (s : State) (q : ResetSeq) (i : BootInput) : State :=
  let x := s.logScan i.sfdp
  x.1.setBoot { x.1.boot with seq := some { q with step := 5, epoch := x.2, sfdp := i.sfdp } }

/-- Step 6: the image sources of BOOTSEL are read, and their structure is checked. -/
def State.step6 (s : State) (q : ResetSeq) (i : BootInput) : State :=
  let s1 := s.setBoot { s.boot with seq := some { q with step := 6 } }
  s1.trySources q.sfdp i.eeprom (bootSources (s1.fld R.rstStraps F.rstStraps.bootsel))

/-- The sources of BOOTSEL after one. -/
def State.laterSources (s : State) (src : Nat) : List Nat :=
  ((bootSources (s.fld R.rstStraps F.rstStraps.bootsel)).dropWhile fun x => decide (x ≠ src)).drop 1

/-- Step 7: the image that step 6 has read is verified and applied; when it fails, the next source is read (R364). Without an image
the sequence waits for a host load. -/
def State.step7 (s : State) (q : ResetSeq) (i : BootInput) : State :=
  match s.boot.image with
  | none => s
  | some x =>
    let code := s.imageCode (some x.1)
    if code = codeOk then s.applyImage x.1 x.2
    else
      let s1 := s.imageFail code x.2 (imageSerial x.1)
      (s1.setBoot { s1.boot with image := none }).trySources q.sfdp i.eeprom (s1.laterSources x.2)

/-- RESET_SEQUENCE_STEP_DONE: the next step is complete. -/
def State.stepDone (s : State) (i : BootInput) : State :=
  match s.boot.seq with
  | none => s
  | some q =>
    if !q.held.isEmpty then s
    else match q.step with
      | 0 => s.setBoot { s.boot with seq := some { q with step := 1 } }
      | 1 => s.setBoot { s.boot with seq := some { q with step := 2 } }
      | 2 => (s.setBoot { s.boot with seq := some { q with step := 3 } }).sampleStraps q.samples i.straps
      -- after a warm reset step 4 begins once the rails have returned to 12.0 V, which is after step 5
      | 3 => if q.cold then s.step4 q i else s.step5 q i
      | 4 => if q.cold then s.step5 q i else s.step6 q i
      | 5 => if q.cold then s.step6 q i else s.step4 q i
      | 6 => s.step7 q i
      | 7 => s.setBoot { s.boot with seq := some { q with step := 8 } }
      | _ => s.makeReady q

/-! ### Host load (R364) -/

/-- IMAGE_TIMEOUT: no image has been applied 1 s after VIN became valid. -/
def State.imageTimeout (s : State) : State :=
  if s.boot.seq.isNone ∨ s.boot.applied then s else s.setBoot { s.boot with windowsOnly := true }

/-- CFG_CTRL.load: the staged image is checked and applied, and the sequence goes on from step 8. -/
def State.load (s : State) : State :=
  let waits : Bool := match s.boot.seq with
    | none => false
    | some q => decide (q.step = 6)
  if !s.boot.windowsOnly || !waits || decide (s.fld R.cfgStatus F.cfgStatus.result = codeOk) then s
  else
    let image := s.sourceImage false [] 3
    let code := s.imageCode image
    if code = codeOk then s.applyImage (image.getD []) 3 else s.imageFail code 3 (imageSerial (image.getD []))

/-- CFG_CTRL written. -/
def State.cfgCtrlWrite (s : State) (v : Word) : State :=
  let s1 := if Word.get v F.cfgCtrl.restage = 1 then s.restage else s
  if Word.get v F.cfgCtrl.load = 1 then s1.load else s1

/-! ### The commands -/

def execResetSequenceStepDone (i : BootInput) (s : State) : Host.Outcome State Fault Refusal := .next (s.stepDone i)

def execImageTimeout (s : State) : Host.Outcome State Fault Refusal := .next s.imageTimeout

def execRestage (m : PMaster) (s : State) : Host.Outcome State Fault Refusal :=
  .next (if s.cfgServedTo m then s.restage else s)

def execCfgStage (m : PMaster) (w : Word) (s : State) : Host.Outcome State Fault Refusal :=
  .next (if s.cfgServedTo m then s.stageWord w else s)

def execLoad (m : PMaster) (s : State) : Host.Outcome State Fault Refusal :=
  .next (if s.cfgServedTo m then s.load else s)

end Sys2Proof.Machine
end

