-- ==== Sys2Proof/Machine/Bus.lean ====
section
/-! DEFINITION. Register accesses of the masters: the two views (R284 to R288, R409), narrow accesses (R413, R414), and
writes of several masters in one cycle (R320). -/

namespace Sys2Proof.Machine

/-! ### Views (R284 to R286, R409) -/

/-- What an 8-byte aligned offset of a view names. -/
inductive Place where
  | cap (i : Nat)
  | self | ports | keys | region | time | page | fifos
  | keyData (i : Nat)
  | keyCmd
  | reg (off : Nat)
  | msix (k : Nat)
  | pba
  | bell (n : Nat)
  | hole
  | window
  | outside
  deriving DecidableEq, Repr

/-- The privileged view: PF0 BAR0. -/
def placePrivileged (off : Nat) : Place :=
  if off < 0x1000 then .cap (off / 8)
  else if 0xF000 ≤ off ∧ off < 0xF400 then .msix ((off - 0xF000) / 8)
  else if off = 0xF800 then .pba
  else if 0x02000000 ≤ off ∧ off < 0x04000000 then .window
  else if (regAt off).isSome then .reg off
  else .outside

/-- The registers of offsets 0x1000 to 0x1FFF of pitch q (R285). -/
def State.placePitch1 (s : State) (q off : Nat) : Place :=
  match hookAt
    [(one 0x1000, fun _ => Place.self), (one 0x1008, fun _ => .ports), (one 0x1010, fun _ => .keys),
     (one 0x1018, fun _ => .region), (one 0x1020, fun _ => .time), (one 0x1028, fun _ => .page), (one 0x1030, fun _ => .fifos),
     (one 0x1040, fun _ => .reg (R.gshBufAlloc q)), (one 0x1048, fun _ => .reg (R.gshBufFree q)),
     (one 0x1050, fun _ => .reg (R.gshBufStatus q)), (one 0x1060, fun _ => .reg (R.sngPtRegion q)),
     (one 0x1068, fun _ => .reg (R.sngPtCfg q)), (one 0x1070, fun _ => .reg (R.sngPtStatus q)),
     (arr 0x1080 0x10 4, fun i => if s.awnPitch i = q then .reg (R.awnCtrl i) else .outside),
     (arr 0x1088 0x10 4, fun i => if s.awnPitch i = q then .reg (R.awnStatus i) else .outside),
     (arr 0x1100 8 4, fun i => .keyData i), (one 0x1120, fun _ => .keyCmd)] off with
  | some (i, f) => f i
  | none => .hole

/-- The registers of FIFO n in the view of pitch q. -/
def State.placeFifo (s : State) (q n r : Nat) : Place :=
  if !s.ownsFifo q n then .outside
  else match r with
    | 0x00 => .reg (R.gshFifoCfg n)
    | 0x08 => .reg (R.gshFifoStatus n)
    | 0x10 => .reg (R.gshFifoHead n)
    | 0x18 => .reg (R.gshFifoPush n)
    | 0x20 => .reg (R.gshFifoPop n)
    | 0x30 => .reg (R.gshFifoSeq n)
    | 0x38 => .reg (R.hifRing n)
    | _ => .outside

/-- The view of pitch q. -/
def State.placePitch (s : State) (q off : Nat) : Place :=
  if off < 0x1000 then .cap (off / 8)
  else if off < 0x2000 then s.placePitch1 q off
  else if off < 0x3000 then s.placeFifo q ((off - 0x2000) / 0x40) ((off - 0x2000) % 0x40)
  else if 0xF000 ≤ off ∧ off < 0xF400 then .msix ((off - 0xF000) / 8)
  else if off = 0xF800 then .pba
  else if 0x10000 ≤ off ∧ off < 0x10200 then
    (if s.ownsFifo q ((off - 0x10000) / 8) then .bell ((off - 0x10000) / 8) else .outside)
  else if 0x200000 ≤ off ∧ off < 0x800000 then .window
  else .outside

def State.place (s : State) (m : Master) (off : Nat) : Place :=
  if privileged m then placePrivileged off else s.placePitch (masterPitch m) off

/-- The CAP, RST and CFG windows, which PF0 and SPI serve when no image has been applied (R294, R364). -/
def bootWindow (off : Nat) : Bool :=
  decide (off < 0x10000) || (decide (0x030000 ≤ off) && decide (off < 0x050000))

/-- The access of a master is served. -/
def State.serves (s : State) (m : Master) (off : Nat) : Bool :=
  s.masterOn m || (s.boot.windowsOnly && decide (m.val < 2) && bootWindow off)

/-- Pending bits of a function, as one word. -/
def State.pbaWord (s : State) (fn : Nat) : Word :=
  BitVec.ofNat 64 (maskOf 64 fun v => SMap.look false s.hif.msixPend (64 * fn + v))

/-- The word of a read, with what goes with it: an uncorrectable word, an access that is not supported. -/
structure Got where
  word : Word
  ue : Bool
  bad : Bool

def Got.ok (w : Word) : Got := { word := w, ue := false, bad := false }

/-- A 64-bit read at an aligned offset of a view (R285, R289, R290, R409, R412). -/
def State.busRead (s : State) (m : Master) (eth : Bool) (off : Nat) : State × Got :=
  let q := masterPitch m
  match s.place m off with
  | .cap i => (s, .ok (s.capWord q eth i))
  | .self => (s, .ok (BitVec.ofNat 64 (s.clock.epoch.toNat * 2 ^ 32 + q)))
  | .ports => (s, .ok (s.ownPorts q))
  | .keys => (s, .ok (s.ownKeys q))
  | .region => (s, .ok (s.reg (R.pitRegion q)))
  | .time => (s, .ok (BitVec.ofNat 64 s.now))
  | .page => (s, .ok ((SMap.look 0 s.pit.ptPage q).setWidth 64))
  | .fifos => (s, .ok (BitVec.ofNat 64 (maskOf 64 (s.ownsFifo q))))
  | .keyData _ => (s, .ok 0)
  | .keyCmd => (s, .ok (SMap.look 0 s.pit.keyCmd q))
  | .reg r =>
    match arr (R.gshBufAlloc 0) 0x20 9 r with
    | some p => let x := s.alloc p; (x.1, .ok x.2)
    | none => (s, .ok (s.regWord r))
  | .msix k => (s, .ok (s.msixWord (128 * q + k)))
  | .pba => (s, .ok (s.pbaWord q))
  | .bell _ => (s, .ok 0)
  | .hole => (s, .ok 0)
  | .window => let x := s.viewLoad m off; (x.1, { word := x.2.1, ue := x.2.2, bad := false })
  | .outside => (s.outside m 0x01 off true, { word := 0, ue := false, bad := privileged m })

/-- A 64-bit write at an aligned offset: ignored where the place is the view's own, recorded where it is not (R289). -/
def State.busWrite64 (s : State) (m : Master) (off : Nat) (v : Word) : State :=
  let q := masterPitch m
  match s.place m off with
  | .page => s.setPit { s.pit with ptPage := SMap.put 0 s.pit.ptPage q (BitVec.ofNat 2 (v.toNat % 4)) }
  | .keyData i => s.writeData (some q) i v
  | .keyCmd => s.pitKeyCmd q v
  | .reg r => if r = R.cfgCtrl then s.cfgCtrlWrite v else s.regWrite m r v
  | .msix k => s.msixWrite q k v
  | .bell n => s.doorbell m n v
  | .window => s.gshWrite m off (Word.bytes v)
  | .hole => s.outside m 0x02 off false
  | .outside => s.outside m 0x02 off false
  | _ => s

/-! ### Narrow accesses (R413, R414) -/

/-- Lower and upper half of a word. -/
def loHalf (w : Word) : Word := BitVec.ofNat 64 (w.toNat % 2 ^ 32)
def hiHalf (w : Word) : BitVec 32 := (w >>> 32).setWidth 32

/-- A read snapshot or a write stage belongs to a register, which the offset names (R413, R414). -/
def Place.isReg : Place → Bool
  | .window => false
  | .outside => false
  | .hole => false
  | _ => true

/-- The live upper half: without the side effect of an allocation. -/
def State.upperRead (s : State) (m : Master) (x : Nat) : State :=
  match s.place m x with
  | .reg r => s.respond m { data := [(hiHalf (s.regWord r)).setWidth 64], ue := false, bad := false }
  | .outside => s.outside m 0x01 (x + 4) true
  | .window =>
    let y := s.viewLoad m (x + 4)
    y.1.respond m { data := [(hiHalf y.2.1).setWidth 64], ue := y.2.2, bad := false }
  | _ =>
    let g := s.busRead m false x
    g.1.respond m { data := [(hiHalf g.2.word).setWidth 64], ue := g.2.ue, bad := g.2.bad }

/-- A 32-bit read: the lower half of a register snapshots the upper one. -/
def State.narrowRead (s : State) (m : Master) (off : Nat) : State :=
  let x := off / 8 * 8
  let tagged : Option (BitVec 32) := match SMap.find s.pit.snap m.val with
    | some (t, hi) => if t = x then some hi else none
    | none => none
  if !s.serves m off then s
  else if off % 4 ≠ 0 then s.outside m 0x07 off true
  else if off % 8 = 0 then
    let g := s.busRead m false x
    let s1 := if (s.place m x).isReg then
        g.1.setPit { g.1.pit with snap := SMap.ins m.val (x, hiHalf g.2.word) g.1.pit.snap }
      else g.1
    s1.respond m { data := [loHalf g.2.word], ue := g.2.ue, bad := g.2.bad }
  else match tagged with
    | some hi => (s.setPit { s.pit with snap := SMap.del m.val s.pit.snap }).respond m
        { data := [hi.setWidth 64], ue := false, bad := false }
    | none => s.upperRead m x

/-- A 64-bit read of a register (R295). -/
def State.wideRead (s : State) (m : Master) (off : Nat) : State :=
  let g := s.busRead m false off
  g.1.respond m { data := [g.2.word], ue := g.2.ue, bad := g.2.bad }

/-- The sizes of R295 for an access to a window: 1 to 8 bytes within one word, or whole words. -/
def windowSize (off n : Nat) : Bool :=
  decide (0 < n) && (decide (off % 8 + n ≤ 8) || (decide (off % 8 = 0) && decide (n % 8 = 0)))

/-- A host read of n bytes at a view offset: of a window, or of a register, which takes 4 or 8 aligned bytes (R289, R295). A
window access of another size counts as BAD_SIZE too (notes/assumptions/93.md). -/
def State.viewRead (s : State) (m : Master) (off n : Nat) : State :=
  match s.place m (off / 8 * 8) with
  | .window => if windowSize off n || !s.masterOn m then s.gshRead m off n else s.outside m 0x07 off true
  | .outside => if s.serves m off then s.outside m 0x01 off true else s
  | .hole => if s.serves m off then s.respond m { data := [0], ue := false, bad := false } else s
  | _ =>
    if !s.serves m off then s
    else if n = 4 ∧ off % 4 = 0 then s.narrowRead m off
    else if n = 8 ∧ off % 8 = 0 then s.wideRead m off
    else s.outside m 0x07 off true

/-- The upper half that a 32-bit write of the lower one takes: the staged one, else the present rw and rwl fields, with
w1c, sc and wo as 0. -/
def State.upperHalf (s : State) (m : Master) (x : Nat) : BitVec 32 :=
  let kept : BitVec 32 := match s.place m x with
    | .reg r => match regAt r with
      | some d => hiHalf (s.regWord r &&& d.accMask fun a => decide (a = .rw) || decide (a = .rwl))
      | none => 0
    | _ => 0
  match SMap.find s.pit.stage m.val with
  | some (t, hi) => if t = x then hi else kept
  | none => kept

/-- The full word of a host write, none for one that is only staged or has a bad size. -/
def State.fullData (s : State) (w : HostWrite) : Option Word :=
  if w.size = 8 ∧ w.off % 8 = 0 then some w.data
  else if w.size = 4 ∧ w.off % 8 = 0 then some (word2 (s.upperHalf w.master w.off).toNat w.data.toNat)
  else none

/-- The window and the MSI-X table take narrow writes as they stand (R295). -/
def Place.bytewise : Place → Bool
  | .window => true
  | .msix _ => true
  | _ => false

/-- A narrow write of a word of an MSI-X table: one half of it. -/
def State.msixHalf (s : State) (m : Master) (k : Nat) (upper : Bool) (v : Nat) : State :=
  let old := s.msixWord (128 * masterPitch m + k)
  let w := if upper then word2 v old.toNat else word2 (hiHalf old).toNat v
  s.msixWrite (masterPitch m) k w

/-- One host write (R289, R295, R414); `data` is the full word that a write of the lower half or of 8 bytes makes. -/
def State.oneWrite (s : State) (w : HostWrite) (data : Word → Word) : State :=
  let x := w.off / 8 * 8
  let pl := s.place w.master x
  if !s.serves w.master w.off then s
  else if pl = .window then
    (if windowSize w.off w.size ∧ w.size ≤ 8 then s.gshWrite w.master w.off ((Word.bytes w.data).take w.size)
     else s.outside w.master 0x07 w.off false)
  else if pl = .outside ∨ pl = .hole then s.outside w.master 0x02 w.off false
  else if (w.size ≠ 4 ∧ w.size ≠ 8) ∨ w.off % w.size ≠ 0 then s.outside w.master 0x07 w.off false
  else if w.size = 4 ∧ pl.bytewise then
    (match pl with
     | .msix k => s.msixHalf w.master k (decide (w.off % 8 = 4)) w.data.toNat
     | _ => s)
  else if w.size = 4 ∧ w.off % 8 = 4 then
    s.setPit { s.pit with stage := SMap.ins w.master.val (x, w.data.setWidth 32) s.pit.stage }
  else
    let v := (s.fullData w).getD 0
    let s1 := if w.size = 4 then s.setPit { s.pit with stage := SMap.del w.master.val s.pit.stage } else s
    s1.busWrite64 w.master x (data v)

/-! ### Several masters in one cycle (R320) -/

/-- The register that a host write writes in this cycle: a register of PF0 BAR0, or a word of PF0's MSI-X table. -/
def State.writes (s : State) (w : HostWrite) : Option Nat :=
  if !s.serves w.master w.off then none
  else match s.place w.master (w.off / 8 * 8) with
    | .reg r => if (s.fullData w).isNone then none else some r
    | .msix k =>
      if masterPitch w.master = 0 ∧ (w.size = 4 ∨ w.size = 8) ∧ w.off % w.size = 0 then some (0xF000 + 8 * k) else none
    | _ => none

/-- A register whose writes all apply: the bits of CAB_GPIO_SET and CAB_GPIO_CLR (R392), and pops, which R271 takes one after
the other in the master order. -/
def allApply (r : Nat) : Bool :=
  decide (r = R.cabGpioSet) || decide (r = R.cabGpioClr) || (arr (R.gshFifoPop 0) 0x40 64 r).isSome

/-- A write of the list is lost to one of a lower-numbered master. -/
def State.loses (s : State) (ws : List HostWrite) (w : HostWrite) : Bool :=
  match s.writes w with
  | none => false
  | some r => !allApply r && ws.any fun x => decide (x.master.val < w.master.val) && decide (s.writes x = some r)

/-- The ones that the losing writes of a cycle bring to w1c and sc bits of the register that a write writes: they are applied
with it (R320). -/
def State.loserOnes (s : State) (ws : List HostWrite) (w : HostWrite) : Word :=
  match (s.writes w).bind regAt with
  | none => 0
  | some d => ((ws.filter fun x => s.loses ws x && decide (s.writes x = s.writes w)).foldl
      (fun a x => a ||| (s.fullData x).getD 0) 0) &&& d.accMask fun a => decide (a = .w1c) || decide (a = .sc)

/-- One write of a cycle: the lowest-numbered master's with the ones of the others, whose own write only uses up its stage, which
a word of an MSI-X table does not have (R295, R414). -/
def State.cycleWrite (s : State) (lost : Bool) (more : Word) (w : HostWrite) : State :=
  if !lost then s.oneWrite w fun v => v ||| more
  else if w.size = 4 ∧ w.off % 8 = 0 ∧ !(s.place w.master w.off).bytewise then s.setPit { s.pit with stage := SMap.del w.master.val s.pit.stage }
  else s

/-- The writes of a cycle in descending master number, the master order of R320. -/
def byMaster (ws : List HostWrite) : List HostWrite :=
  (List.range 12).flatMap fun i => ws.filter fun w => decide (w.master.val = 11 - i)

/-- The writes of a cycle in ascending order of the Ridgepole initiators: PCIe, ETH0, ETH1 and SPI, as the table
of initiators in 01_how_the_parts_lean.md lists them. -/
def byInitiator (ws : List HostWrite) : List HostWrite :=
  [1, 4, 5, 6, 7, 8, 9, 10, 11, 2, 3, 0].flatMap fun i => ws.filter fun w => decide (w.master.val = i)

/-- The place of a write of register r among those of its cycle: flushes, pops, frees, all others and CAB_GPIO_OUT, CAB_GPIO_CLR
after CAB_GPIO_SET (R392), and then pushes (R271). -/
def cycleRank : Option Nat → Nat
  | none => 3
  | some r =>
    match hookAt
      [(arr (R.gshFifoCtrl 0) 0x40 64, 0), (arr (R.gshFifoPop 0) 0x40 64, 1), (arr (R.gshBufFree 0) 0x20 9, 2),
       (arr (R.gshFifoPush 0) 0x40 64, 6), (one R.cabGpioOut, 4), (one R.cabGpioSet, 4), (one R.cabGpioClr, 5)] r with
    | some (_, k) => k
    | none => 3

/-- PIT_CONTEND counts the losing writes, and keeps the highest-numbered master that lost. -/
def State.contend (s : State) (losers : List HostWrite) : State :=
  if losers.isEmpty then s
  else (s.bumpSat R.pitContend F.pitContend.count losers.length).setFld R.pitContend F.pitContend.master
    ((losers.map fun w => w.master.val).foldl max 0)

/-- REGISTER_WRITE: the host writes of one core cycle (R271, R320, R433). -/
def State.cycleWrites (s : State) (ws : List HostWrite) : State :=
  let l := List.append ((List.range 6).flatMap fun k => (byMaster ws).filter fun w => decide (cycleRank (s.writes w) = k))
    ((byInitiator ws).filter fun w => decide (cycleRank (s.writes w) = 6))
  let marked := l.map fun w => (s.loses l w, s.loserOnes l w, w)
  (s.newCycle.each marked fun s x => s.cycleWrite x.1 x.2.1 x.2.2).contend (l.filter (s.loses l))

/-- A host write of bytes at a view offset: of a window, or of a register (R289, R295). -/
def State.viewWrite (s : State) (m : Master) (off : Nat) (l : List Byte) : State :=
  match s.place m (off / 8 * 8) with
  | .window => if windowSize off l.length || !s.masterOn m then s.gshWrite m off l else s.outside m 0x07 off false
  | _ => s.cycleWrites [{ master := m, off := off, size := l.length, data := wordOfBytes l }]

/-! ### The commands -/

def execRegisterWrite (ws : List HostWrite) (s : State) : Host.Outcome State Fault Refusal := .next (s.cycleWrites ws)

/-- UPPER_HALF_WRITE: `off` is the offset of the upper half; any other 32-bit write is an ordinary one. -/
def execUpperHalfWrite (m : Master) (off : Nat) (data : BitVec 32) (s : State) : Host.Outcome State Fault Refusal :=
  .next (s.cycleWrites [{ master := m, off := off, size := 4, data := data.setWidth 64 }])

def execGroundsheetWrite (m : Master) (off : Nat) (bytes : List Byte) (s : State) : Host.Outcome State Fault Refusal :=
  .next (s.viewWrite m off bytes)

def execGroundsheetRead (m : Master) (off : Nat) (n : Nat) (s : State) : Host.Outcome State Fault Refusal :=
  .next (s.viewRead m off n)

def execLowerHalfRead (m : Master) (off : Nat) (s : State) : Host.Outcome State Fault Refusal := .next (s.narrowRead m off)

/-- AWNING_COMMIT: AWN_CTRLn written by the pitch that owns the instance, or by pitch 0. -/
def execAwningCommit (m : Master) (inst : Fin 4) (v : Word) (s : State) : Host.Outcome State Fault Refusal :=
  .next (if !s.masterOn m then s
    else if privileged m ∨ s.awnPitch inst = masterPitch m then s.awnCtrlWrite inst v
    else s.outside m 0x02 (0x1080 + 0x10 * inst.val) false)

end Sys2Proof.Machine
end

