-- ==== Sys2Proof/Machine/Ethernet.lean ====
section
/-! DEFINITION. Ethernet (R292, R300 to R305, R315): inbound datagrams and their sources, the messages that HIF executes
itself, and the delivery of FIFOs to a peer. -/

namespace Sys2Proof.Machine

/-! ### Endpoints and ports -/

/-- The port is enabled and its link is up (R300). -/
def State.ethUp (s : State) (x : Nat) : Bool :=
  s.up && s.bit (R.hifEthCfg x) F.hifEthCfg.enable && s.bit (R.hifEthStatus x) F.hifEthStatus.speed

/-- Bytes of an IPv4 packet on a port (R300). -/
def State.ethMtu (s : State) (x : Nat) : Nat := clamp 1280 9000 (s.fld (R.hifEthCfg x) F.hifEthCfg.mtu)

/-- Bit x of HIF_EPp_CFG.ports. -/
def State.epPort (s : State) (q x : Nat) : Bool := decide (s.fld (R.hifEpCfg q) F.hifEpCfg.ports / 2 ^ x % 2 = 1)

/-- The tag of a datagram whose words but the last are `ws` (R301). -/
def ethTag (key : List Byte) (ws : List Word) : Word := (cmac key (ws.flatMap Word.bytes)).setWidth 64

/-! ### Failing sources (R303) -/

/-- The entry still counts or still blocks. -/
def Source.live (e : Source) (now : Nat) : Bool :=
  match e.blockedAt with
  | some t => decide (now < t + sTicks 60)
  | none => decide (now < e.openedAt + sTicks 60)

/-- A failure is counted; the 16th blocks. -/
def Source.fail (e : Source) (now : Nat) : Source :=
  { e with fails := e.fails + 1, blockedAt := if e.fails + 1 = 16 then some now else e.blockedAt }

/-- Drop the first entry that does not block, which is the oldest. -/
def dropOldest : List Source → List Source
  | [] => []
  | e :: l => if e.blockedAt.isNone then l else e :: dropOldest l

/-- The entries after a failure of a source. -/
def failSource (ip : BitVec 32) (now : Nat) (l : List Source) : List Source :=
  let live := l.filter fun e => e.live now
  let fresh : Source := { ip := ip, fails := 1, openedAt := now, blockedAt := none }
  if live.any fun e => decide (e.ip = ip) then live.map fun e => if e.ip = ip then e.fail now else e
  else if live.length < 64 then List.append live [fresh]
  else if live.all fun e => e.blockedAt.isSome then live
  else List.append (dropOldest live) [fresh]

/-- Store the entries; HIF_ETH_AUTH.blocked counts the blocked ones. -/
def State.setSources (s : State) (l : List Source) : State :=
  (s.setHif { s.hif with sources := l }).setFld R.hifEthAuth F.hifEthAuth.blocked
    (l.filter fun e => e.blockedAt.isSome).length

/-- A datagram fails to authenticate. -/
def State.ethFail (s : State) (ip : BitVec 32) : State :=
  (s.bump R.hifEthAuth F.hifEthAuth.fail).setSources (failSource ip s.now s.hif.sources)

/-- The source is blocked. -/
def State.ethBlocked (s : State) (ip : BitVec 32) : Bool :=
  s.hif.sources.any fun e => decide (e.ip = ip) && e.blockedAt.isSome && e.live s.now

/-- ETH_SOURCE_ENTRY_EXPIRED: the entry of a source clears when its block or counting time has ended. -/
def State.sourceExpire (s : State) (ip : BitVec 32) : State :=
  s.setSources (s.hif.sources.filter fun e => decide (e.ip ≠ ip) || e.live s.now)

/-! ### Datagrams out (R300, R301) -/

/-- Message words that fit one datagram of a port, three framing words aside. -/
def State.ethRoom (s : State) (x : Nat) : Nat := (s.ethMtu x - 28) / 8 - 3

/-- One datagram to the peer under the next outbound count. -/
def State.ethSend (s : State) (q x : Nat) (more : Bool) (ws : List Word) : State :=
  let e := s.ep q
  let w0 : Word := BitVec.ofNat 64 (0x01 * 2 ^ 56 + q * 2 ^ 48 + more.toNat * 2 ^ 40)
  let body : List Word := List.append [w0, word2 s.clock.epoch.toNat e.outNext] ws
  let tag := ethTag (s.slotKey (s.fld (R.hifEpCfg q) F.hifEpCfg.keySlot)) body
  let mac := (s.reg (R.hifEpPeerMac q)).setWidth 48
  let ip := (s.reg (R.hifEpPeer q)).setWidth 32
  let udp := BitVec.ofNat 16 (s.fld (R.hifEpPeer q) F.hifEpPeer.udp)
  (s.emit (.eth x mac ip udp (List.append body [tag]))).setEp q { e with outNext := e.outNext + 1, port := x }

/-- A message that is longer than a datagram, cut under more; `n` bounds the number of pieces. -/
def cutMessage (room : Nat) : Nat → List Word → List (Bool × List Word)
  | 0, _ => []
  | n + 1, ws => if ws.length ≤ room then [(false, ws)] else (true, ws.take room) :: cutMessage room n (ws.drop room)

/-- Messages packed into datagrams in order, each with its more. -/
def packMessages (room : Nat) : List Word → List (List Word) → List (Bool × List Word)
  | cur, [] => if cur.isEmpty then [] else [(false, cur)]
  | cur, m :: l =>
    if cur.length + m.length ≤ room then packMessages room (List.append cur m) l
    else
      let before : List (Bool × List Word) := if cur.isEmpty then [] else [(false, cur)]
      List.append before
        (if m.length ≤ room then packMessages room m l
         else List.append (cutMessage room m.length m) (packMessages room [] l))

/-- Messages go out to the peer of pitch q on port x. -/
def State.ethSendAll (s : State) (q x : Nat) (ms : List (List Word)) : State :=
  s.each (packMessages (s.ethRoom x) [] ms) fun s d => s.ethSend q x d.1 d.2

/-! ### Delivery (R305) -/

/-- The FIFOs that HIF delivers to the peer of pitch q. -/
def State.ethFifos (s : State) (q : Nat) : List Nat :=
  (List.range 64).filter fun n =>
    s.ownsFifo q n && !s.fifoDir1 n && s.fifoHif n && !s.bit (R.hifRing n) F.hifRing.ring

/-- Packet i of FIFO n has an uncorrectable word: it is dropped under R269 (R257). -/
def State.ueDropAt (s : State) (n i : Nat) (p : Packet) : State :=
  let s1 := s.touchAll (chainAddrs p.chain p.length)
  let s2 := (s1.setFifo n { s1.fifo n with packets := (s1.fifo n).packets.eraseIdx i }).setBufList p.chain .free
  (s2.driveInt.dropPacket n).setBit (R.gshFifoStatus n) F.gshFifoStatus.ueDrop true

/-- What HIF has gathered for sending: the messages, the packets in flight with them, and whether the datagram is full. -/
structure Gather where
  s : State
  msgs : List (List Word)
  flight : SMap Nat
  full : Bool

def Gather.words (g : Gather) : Nat := (g.msgs.map List.length).sum

/-- Take packet i of FIFO n into the gathering. -/
def Gather.take (g : Gather) (room n i : Nat) (p : Packet) : Gather :=
  if room < g.words + p.length ∧ g.msgs ≠ [] then { g with full := true }
  else
    let s1 := g.s.touchAll (chainAddrs p.chain p.length)
    { s := s1, msgs := List.append g.msgs [s1.readChain p.chain p.length]
      flight := SMap.put 0 g.flight n (i + 1), full := decide (room < p.length) }

/-- Gather the packets of FIFO n from the first one not in flight on, within a window and a datagram; `k` bounds the
number of packets looked at. -/
def Gather.fifo (room window n : Nat) : Nat → Gather → Gather
  | 0, g => g
  | k + 1, g =>
    let i := SMap.look 0 g.flight n
    if g.full ∨ window ≤ (g.flight.map fun x => x.2).sum then g
    else match (g.s.fifo n).packets[i]? with
      | none => g
      | some p =>
        if g.s.chainUe p.chain p.length then Gather.fifo room window n k { g with s := g.s.ueDropAt n i p }
        else Gather.fifo room window n k (g.take room n i p)

/-- ETH_TRANSMIT: one datagram, or one packet cut under more, while the window allows. -/
def State.ethTransmit (s : State) (q x : Nat) : State :=
  if !s.epOn q || !s.epPort q x || !s.ethUp x then s
  else
    let e := s.ep q
    let window := max 1 (s.fld (R.hifEpCfg q) F.hifEpCfg.window)
    let g0 : Gather := { s := s, msgs := [], flight := e.flight, full := false }
    let g := (s.ethFifos q).foldl (fun g n => Gather.fifo (s.ethRoom x) window n (s.fifo n).packets.length g) g0
    if g.msgs.isEmpty then g.s
    else
      let first := decide (e.waiting = 0)
      let s1 := g.s.setEp q { g.s.ep q with
        flight := g.flight, sends := if first then 1 else e.sends, lastTx := if first then s.now else e.lastTx }
      (s1.ethSendAll q x g.msgs).showWaiting q

/-- Gather the packets of FIFO n that are in flight, without those that have become uncorrectable; `i` have been
gathered. -/
def State.regather (s : State) (n i : Nat) : Nat → State × List (List Word)
  | 0 => (s, [])
  | k + 1 => match (s.fifo n).packets[i]? with
    | none => (s, [])
    | some p =>
      if s.chainUe p.chain p.length then State.regather (s.ueDropAt n i p) n i k
      else
        let s1 := s.touchAll (chainAddrs p.chain p.length)
        let r := State.regather s1 n (i + 1) k
        (r.1, s1.readChain p.chain p.length :: r.2)

/-- Send every packet in flight again under new counts. -/
def State.ethResend (s : State) (q x : Nat) : State :=
  let e := s.ep q
  let r : State × SMap Nat × List (List Word) := e.flight.foldl (fun (a : State × SMap Nat × List (List Word)) f =>
    let y := a.1.regather f.1 0 f.2
    (y.1, SMap.put 0 a.2.1 f.1 y.2.length, List.append a.2.2 y.2)) (s, [], [])
  let s1 := r.1.setEp q { r.1.ep q with flight := r.2.1, sends := e.sends + 1, lastTx := s.now }
  (s1.ethSendAll q x r.2.2).showWaiting q

/-- Pop the first k packets of FIFO n. -/
def State.popMany (s : State) (n : Nat) : Nat → State
  | 0 => s
  | k + 1 => State.popMany (s.popHead n .free) n k

/-- After 8 sends the packets in flight are popped and counted as lost. -/
def State.ethLose (s : State) (q : Nat) : State :=
  let e := s.ep q
  let s1 := s.each e.flight fun s f => s.popMany f.1 f.2
  let s2 := s1.setEp q { s1.ep q with flight := [], sends := 0 }
  let s3 := s2.setFld (R.hifEpStatus q) F.hifEpStatus.lost (s2.fld (R.hifEpStatus q) F.hifEpStatus.lost + e.waiting)
  (s3.setBit (R.hifEpStatus q) F.hifEpStatus.peerLost true).showWaiting q

/-- The port that a resend takes: the last one used, else the other. -/
def State.resendPort (s : State) (q : Nat) : Option Nat :=
  let x := (s.ep q).port
  [x, 1 - x].find? fun y => s.epPort q y && s.ethUp y

/-- ETH_RETX_TIMEOUT. -/
def State.ethTimeout (s : State) (q : Nat) : State :=
  let e := s.ep q
  let wait := msTicks (max 1 (s.fld (R.hifEpCfg q) F.hifEpCfg.retxMs))
  if !s.epOn q || decide (e.waiting = 0) || decide (s.now < e.lastTx + wait) then s
  else if 8 ≤ e.sends then s.ethLose q
  else match s.resendPort q with
    | none => s
    | some x => s.ethResend q x

/-! ### Datagrams in (R300 to R304) -/

/-- The datagram is addressed to the port. -/
def State.ethMine (s : State) (x : Nat) (d : Datagram) : Bool :=
  decide (d.dstMac = (s.reg (R.hifEthMac x)).setWidth 48) && decide (d.dstIp = (s.reg (R.hifEthIp x)).setWidth 32) &&
  decide (d.dstUdp.toNat = s.fld (R.hifEthIp x) F.hifEthIp.udp)

/-- The tag verifies, under the key of the endpoint or for 1 s under the one before it (R292, R302). -/
def State.tagOk (s : State) (q : Nat) (ws : List Word) : Bool :=
  let slot := s.fld (R.hifEpCfg q) F.hifEpCfg.keySlot
  let body := ws.dropLast
  let tag := ws.getLast?
  let old : Bool := match s.oldKey slot with
    | none => false
    | some k => decide (tag = some (ethTag k body))
  decide (tag = some (ethTag (s.checkBytes slot) body)) || old

/-- How a datagram fares (R302). -/
inductive Auth where
  | good (q : Nat) | stale (q : Nat) | bad
  deriving DecidableEq, Repr

def State.auth (s : State) (x : Nat) (ws : List Word) : Auth :=
  let w0 := ws.getD 0 0
  let w1 := ws.getD 1 0
  let q := Word.get w0 (55, 48)
  let ep := Word.get w1 (63, 32)
  if ws.length < 3 ∨ Word.get w0 (63, 56) ≠ 1 then .bad
  else if !s.epOn q || !s.epPort q x || !s.tagOk q ws then .bad
  else if ep < s.clock.epoch.toNat then .stale q
  else if ep = s.clock.epoch.toNat ∧ (s.ep q).inHigh < Word.get w1 (31, 0) then .good q
  else .bad

/-- Cut the messages out of a datagram by their length fields; none where they do not fill it. `n` bounds their number. -/
def splitMessages : Nat → List Word → Option (List (List Word))
  | _, [] => some []
  | 0, _ :: _ => none
  | n + 1, w :: l =>
    let len := Word.get w (47, 32)
    if len < 2 ∨ (w :: l).length < len then none
    else (splitMessages n ((w :: l).drop len)).map fun ms => (w :: l).take len :: ms

/-- The type of a message. -/
def msgType (ws : List Word) : Nat := bf ws 0 63 56

/-- HIF handles the message itself (R304). -/
def hifOwn (ws : List Word) : Bool :=
  decide (msgType ws = 0x08) || decide (msgType ws = 0x09) || decide (msgType ws = 0x1F)

/-- A message goes where it belongs: to the endpoint, which holds it in buffers of the pitch until it is handled, or to its request
FIFO; without one, requests are disabled (R265, R304). -/
def State.takeMessage (s : State) (q x : Nat) (ws : List Word) : State :=
  let n := s.fld (R.hifEpCfg q) F.hifEpCfg.reqFifo
  if hifOwn ws then
    match pickMany s.fresh (chainLen ws.length) (s.freeBufs q) with
    | none => s
    | some c =>
      let s1 := ((s.skip c.length).writeChain c ws).setBufList c .writing
      s1.setEp q { s1.ep q with inbox := List.append (s1.ep q).inbox [{ src := x, chain := c, words := ws }] }
  else if s.ownsFifo q n && s.fifoDir1 n then s.pushWords n ws
  else s

/-- The messages of an authenticated datagram; all are rewound where they are not whole messages with more at 0, or
the free list cannot hold them. -/
def State.takeMessages (s : State) (q x : Nat) (ws : List Word) : State :=
  let body := (ws.drop 2).dropLast
  let clean := (ws.getD 0 0) &&& 0xFFFFFFFFFFFF = 0
  match splitMessages body.length body with
  | none => s
  | some ms =>
    if !clean || decide ((s.freeBufs q).length < (ms.map fun m => chainLen m.length).sum) then s
    else s.each ms fun s m => s.takeMessage q x m

/-- An authenticated datagram: its count, its source as the peer (R302), and its messages. -/
def State.ethAccept (s : State) (q x : Nat) (d : Datagram) : State :=
  let s1 := s.setEp q { s.ep q with inHigh := Word.get (d.words.getD 1 0) (31, 0) }
  let s2 := s1.setReg (R.hifEpPeer q) (BitVec.ofNat 64 (d.srcUdp.toNat * 2 ^ 32 + d.srcIp.toNat))
  (s2.setReg (R.hifEpPeerMac q) (d.srcMac.setWidth 64)).takeMessages q x d.words

/-- The answer to a stale epoch: an EVENT datagram of reason EPOCH, at most once per 100 ms. -/
def State.ethEpoch (s : State) (q x : Nat) : State :=
  let e := s.ep q
  let soon : Bool := match e.epochAt with
    | none => false
    | some t => decide (s.now < t + msTicks 100)
  if soon then s
  else
    let head : Word := word4 0xFF 0 0x0031 s.clock.epoch.toNat
    let msg := seqWords (Config.freeWord s.fresh).toNat (s.packet 0x30 q 0 [head, BitVec.ofNat 64 s.now])
    ((s.skip 1).setEp q { e with epochAt := some s.now }).ethSend q x false msg

/-- ETH_DATAGRAM_RX. -/
def State.ethRx (s : State) (x : Nat) (d : Datagram) : State :=
  if !s.ethUp x || !s.ethMine x d then s
  else if d.malformed ∨ s.ethMtu x < 8 * d.words.length + 28 then s.bump (R.hifEthStatus x) F.hifEthStatus.dropped
  else if s.ethBlocked d.srcIp then s
  else match s.auth x d.words with
    | .good q => s.ethAccept q x d
    | .stale q => s.ethEpoch q x
    | .bad => s.ethFail d.srcIp

/-! ### Messages that HIF executes (R315) -/

/-- The master of an endpoint (R320). -/
def epMaster (q x : Nat) : Master := if q = 0 then ⟨2 + x % 2, by omega⟩ else ⟨(3 + q) % 12, Nat.mod_lt _ (by decide)⟩

/-- Take the first message of an endpoint: its words are read (R256), and its buffers are free again. -/
def State.popInbox (s : State) (q : Nat) : State :=
  let s1 := match (s.ep q).inbox with
    | [] => s
    | m :: _ => (s.touchAll (chainAddrs m.chain m.words.length)).setBufList m.chain .free
  s1.setEp q { s1.ep q with inbox := (s1.ep q).inbox.drop 1 }

/-- A word of the first message of an endpoint is uncorrectable (R257). -/
def State.inboxUe (s : State) (q : Nat) : Bool :=
  match (s.ep q).inbox with
  | [] => false
  | m :: _ => s.chainUe m.chain m.words.length

/-- The REQUEST_DONE of a REG_READ or REG_WRITE; the manual gives its port field no value. -/
def State.regDone (s : State) (q : Nat) (ws : List Word) (st : Status) (ue : Bool) (body : List Word) : State :=
  (s.skip 1).requestDone q (Config.freeNat s.fresh % 256) st (msgType ws) 0 (ws.getD 0 0) (ws.getD 1 0) ue 0
    body.length body

/-- Read n words as a master: the words, and whether one is uncorrectable or not supported. -/
def State.busReads (s : State) (m : Master) (off : Nat) : Nat → State × List Word × Bool × Bool
  | 0 => (s, [], false, false)
  | n + 1 =>
    if !s.up then (s, [], false, false)
    else if off % 8 ≠ 0 then
      let y := State.busReads (s.outside m 0x07 off true) m (off + 8) n
      (y.1, 0 :: y.2.1, y.2.2.1, privileged m || y.2.2.2)
    else
      let x := s.busRead m true off
      let y := State.busReads x.1 m (off + 8) n
      (y.1, x.2.word :: y.2.1, x.2.ue || y.2.2.1, x.2.bad || y.2.2.2)

/-- A write at an offset of a view that leads nowhere or is not aligned (R409). -/
def State.badWrite (s : State) (m : Master) (off : Nat) : Bool :=
  privileged m && (decide (off % 8 ≠ 0) || decide (s.place m off = .outside))

/-- Write words as a master; whether one of the places is not supported. -/
def State.busWrites (s : State) (m : Master) (off : Nat) : List Word → State × Bool
  | [] => (s, false)
  | w :: l =>
    if !s.up then (s, false)
    else
      let bad := s.badWrite m off
      let s1 := if off % 8 ≠ 0 then s.outside m 0x07 off false else s.newCycle.busWrite64 m off w
      let y := State.busWrites s1 m (off + 8) l
      (y.1, bad || y.2)

/-- The word count and the offset of a register message. -/
def regCount (ws : List Word) : Nat := bf ws 2 47 32
def regOff (ws : List Word) : Nat := bf ws 2 31 0

/-- What is wrong with a register message of pitch q, before it is executed (R289, R315). -/
def regFault (q : Nat) (ws : List Word) (len : Nat) : Option Status :=
  if bf ws 0 55 48 ≠ q then some .badParam
  else if ws.length < 3 then some .badLength
  else if regCount ws = 0 ∨ 256 < regCount ws then some .badParam
  else if ws.length ≠ len then some .badLength
  else none

/-- The violation record of a message whose pitch field is another's (R289). -/
def State.foreignPitch (s : State) (q x : Nat) (ws : List Word) : State :=
  if bf ws 0 55 48 = q then s else s.violation q (epMaster q x).val 0x06 (bf ws 0 55 48)

/-- The first message of the endpoint, when it is of a type. -/
def State.firstMessage (s : State) (q type : Nat) : Option (Nat × List Word) :=
  if !s.epOn q || !s.up then none
  else match (s.ep q).inbox with
    | [] => none
    | m :: _ => if msgType m.words = type then some (m.src, m.words) else none

/-- REG_READ. -/
def State.regReadMsg (s : State) (q : Nat) : State :=
  match s.firstMessage q 0x08 with
  | none => s
  | some (x, ws) =>
    let s1 := s.popInbox q
    if s.inboxUe q then s1.regDone q ws .abandoned false []
    else match regFault q ws 3 with
    | some st => (s1.foreignPitch q x ws).regDone q ws st false []
    | none =>
      let r := s1.busReads (epMaster q x) (regOff ws) (regCount ws)
      if !r.1.up then r.1
      else if r.2.2.2 then r.1.regDone q ws .badParam r.2.2.1 []
      else r.1.regDone q ws .ok r.2.2.1 r.2.1

/-- REG_WRITE. -/
def State.regWriteMsg (s : State) (q : Nat) : State :=
  match s.firstMessage q 0x09 with
  | none => s
  | some (x, ws) =>
    let s1 := s.popInbox q
    if s.inboxUe q then s1.regDone q ws .abandoned false []
    else match regFault q ws (3 + regCount ws) with
    | some st => (s1.foreignPitch q x ws).regDone q ws st false []
    | none =>
      let r := s1.busWrites (epMaster q x) (regOff ws) (ws.drop 3)
      if !r.1.up then r.1 else r.1.regDone q ws (if r.2 then .badParam else .ok) false []

/-- The sequence number of a packet, which lies in the first word of its first buffer (R265). -/
def State.packetSeq (s : State) (p : Packet) : BitVec 32 := (s.word (256 * p.chain.headD 0)).setWidth 32

/-- The packets at the head of a FIFO, of those in flight, that a number acknowledges (R278). -/
def State.acked (s : State) (seq : BitVec 32) : Nat → List Packet → Nat
  | 0, _ => 0
  | _ + 1, [] => 0
  | k + 1, p :: l => if seqLater (s.packetSeq p) seq then 0 else State.acked s seq k l + 1

/-- ACK. One with an uncorrectable word is dropped: it is no request, and has no answer (R257, notes/assumptions/114.md). -/
def State.ackMsg (s : State) (q : Nat) : State :=
  match s.firstMessage q 0x1F with
  | none => s
  | some (x, ws) =>
    let s1 := s.popInbox q
    let n := bf ws 2 63 58
    let flying := SMap.look 0 (s1.ep q).flight n
    if s.inboxUe q then s1
    else if bf ws 0 55 48 ≠ q then s1.foreignPitch q x ws
    else if ws.length ≠ 3 ∨ !s1.ownsFifo q n then s1
    else
      let k := s1.acked (BitVec.ofNat 32 (bf ws 2 31 0)) flying (s1.fifo n).packets
      let s2 := s1.popMany n k
      let e := s2.ep q
      if k = 0 then s2
      else (s2.setEp q { e with
        flight := SMap.put 0 e.flight n (flying - k), sends := 1, lastTx := s.now }).showWaiting q

/-! ### Links -/

/-- ETH_LINK_UP and ETH_LINK_DOWN. -/
def State.linkUp (s : State) (x : Nat) (speed : Nat) : State :=
  if !s.up || s.boot.scanHeld || !s.bit (R.hifEthCfg x) F.hifEthCfg.enable || decide (speed = 0) || decide (4 < speed) then s
  else s.setFld (R.hifEthStatus x) F.hifEthStatus.speed speed

def State.linkDown (s : State) (x : Nat) : State :=
  if s.up then s.setFld (R.hifEthStatus x) F.hifEthStatus.speed 0 else s

/-! ### The commands -/

def execEthDatagramRx (x : Fin 2) (d : Datagram) (s : State) : Host.Outcome State Fault Refusal := .next (s.ethRx x.val d)

def execRegRead (p : Fin 9) (s : State) : Host.Outcome State Fault Refusal := .next (s.regReadMsg p.val)

def execRegWrite (p : Fin 9) (s : State) : Host.Outcome State Fault Refusal := .next (s.regWriteMsg p.val)

def execAck (p : Fin 9) (s : State) : Host.Outcome State Fault Refusal := .next (s.ackMsg p.val)

def execEthSourceEntryExpired (ip : BitVec 32) (s : State) : Host.Outcome State Fault Refusal := .next (s.sourceExpire ip)

def execEthTransmit (p : Fin 9) (x : Fin 2) (s : State) : Host.Outcome State Fault Refusal :=
  .next (s.ethTransmit p.val x.val)

def execEthRetxTimeout (p : Fin 9) (s : State) : Host.Outcome State Fault Refusal := .next (s.ethTimeout p.val)

def execEthLinkDown (x : Fin 2) (s : State) : Host.Outcome State Fault Refusal := .next (s.linkDown x.val)

def execEthLinkUp (x : Fin 2) (speed : BitVec 3) (s : State) : Host.Outcome State Fault Refusal :=
  .next (s.linkUp x.val speed.toNat)

end Sys2Proof.Machine
end

