-- ==== Sys2Proof/Machine/Spi.lean ====
section
/-! DEFINITION. The SPI target (R306, R307). -/

namespace Sys2Proof.Machine

/-- The SPI target answers: not before READY (R366), but for the windows of R364. -/
def State.spiOn (s : State) : Bool := s.up || s.boot.windowsOnly

def spiMaster : Master := 0

def State.spiLocked (s : State) : Bool := s.bit R.hifSpiStatus F.hifSpiStatus.locked

def State.setSpi (s : State) (x : Spi) : State := s.setHif { s.hif with spi := x }

/-- Bytes that the target sends. -/
def State.spiSend (s : State) (l : List Byte) : State := s.emit (.spi l)

/-! ### WRITE and READ (R306) -/

/-- The bytes of a WRITE before its CRC. -/
def spiWriteBytes (addr : Nat) (ws : List Word) : List Byte :=
  [[BitVec.ofNat 8 0x02], bytesOf 4 addr, bytesOf 1 (ws.length - 1), ws.flatMap Word.bytes].flatten

/-- Words are written in address order, while the target answers. -/
def State.spiStores (s : State) (off : Nat) : List Word → State
  | [] => s
  | w :: l => State.spiStores (if s.serves spiMaster off then s.newCycle.busWrite64 spiMaster off w else s) (off + 8) l

/-- SPI_WRITE: a WRITE whose last byte is followed by the rise of CS_N. -/
def State.spiWrite (s : State) (addr : Nat) (ws : List Word) (crc : BitVec 32) : State :=
  if !s.spiOn || decide (2 ^ 32 ≤ addr) || ws.isEmpty || decide (64 < ws.length) then s
  else
    let ok := decide (crc.toNat = crc32c (spiWriteBytes addr ws))
    let s1 := s.setSpi { s.hif.spi with lastFailed := !ok }
    if !ok || s.spiLocked || decide (addr % 8 ≠ 0) then s1 else s1.spiStores addr ws

/-- Read n words: the words, and whether one is uncorrectable or out of range. -/
def State.spiLoads (s : State) (off : Nat) : Nat → State × List Word × Bool × Bool
  | 0 => (s, [], false, false)
  | n + 1 =>
    if !s.serves spiMaster off then
      let y := State.spiLoads s (off + 8) n
      (y.1, 0 :: y.2.1, y.2.2.1, true)
    else
      let x := s.busRead spiMaster false off
      let y := State.spiLoads x.1 (off + 8) n
      (y.1, x.2.word :: y.2.1, x.2.ue || y.2.2.1, x.2.bad || y.2.2.2)

/-- Data, status byte and CRC-32C of a READ. -/
def State.spiReply (s : State) (ws : List Word) (status : Nat) : State :=
  let body := List.append (ws.flatMap Word.bytes) (bytesOf 1 status)
  s.spiSend (List.append body (bytesOf 4 (crc32c body)))

/-- SPI_READ. While the target is locked, the CAP window alone is read; what stands for the data of a refused READ is
free. -/
def State.spiRead (s : State) (addr n : Nat) : State :=
  if !s.spiOn || decide (2 ^ 32 ≤ addr) || decide (n = 0) || decide (512 < n) then s
  else if s.spiLocked && decide (0x10000 < addr + 8 * n) then
    (s.skip n).spiReply ((List.range n).map fun i => Config.freeWord (s.fresh + i)) 4
  else if addr % 8 ≠ 0 then s.spiReply (List.replicate n 0) 2
  else
    let r := s.spiLoads addr n
    if !r.1.spiOn then r.1 else r.1.spiReply r.2.1 (r.2.2.1.toNat + 2 * r.2.2.2.toNat)

/-- SPI_STATUS: reading clears [0]. -/
def State.spiStatus (s : State) : State :=
  if !s.spiOn then s
  else
    let b := s.hif.spi.lastFailed.toNat + 2 * s.spiLocked.toNat + 4 * (!s.hif.spi.intN).toNat +
      8 * (s.bit R.hifSpiStatus F.hifSpiStatus.blocked).toNat
    (s.spiSend (bytesOf 1 b)).setSpi { s.hif.spi with lastFailed := false }

/-! ### CHALLENGE, UNLOCK and LOCK (R307) -/

/-- CHALLENGE: a new nonce replaces the one before. -/
def State.spiChallenge (s : State) : State :=
  if !s.spiOn then s
  else
    let nonce := Config.freeWord s.fresh
    ((s.skip 1).spiSend (Word.bytes nonce)).setSpi { s.hif.spi with nonce := some nonce }

/-- The tag that unlocks. -/
def State.unlockTag (s : State) (nonce : Word) : Word :=
  let key := s.checkBytes (s.fld R.hifSpiCfg F.hifSpiCfg.keySlot)
  (cmac key (List.append (Word.bytes nonce) [0x53, 0x50, 0x49, 0x55])).setWidth 64

/-- UNLOCK: refused while blocked; else it uses up the nonce, and succeeds or counts a failure. -/
def State.spiUnlock (s : State) (tag : Word) : State :=
  if !s.spiOn || s.bit R.hifSpiStatus F.hifSpiStatus.blocked then s
  else
    let good : Bool := match s.hif.spi.nonce with
      | none => false
      | some x => decide (tag = s.unlockTag x)
    let s1 := s.setSpi { s.hif.spi with nonce := none }
    if good then (s1.setBit R.hifSpiStatus F.hifSpiStatus.locked false).setFld R.hifSpiStatus F.hifSpiStatus.failed 0
    else
      let s2 := s1.bumpSat R.hifSpiStatus F.hifSpiStatus.failed 1
      if s2.fld R.hifSpiStatus F.hifSpiStatus.failed < 4 then s2
      else (s2.setBit R.hifSpiStatus F.hifSpiStatus.blocked true).setSpi { s2.hif.spi with blockedAt := some s.now }

def State.spiLock (s : State) : State :=
  if s.spiOn then s.setBit R.hifSpiStatus F.hifSpiStatus.locked true else s

/-- SPI_UNLOCK_BLOCK_EXPIRED. -/
def State.spiUnblock (s : State) : State :=
  match s.hif.spi.blockedAt with
  | none => s
  | some t =>
    if s.now < t + sTicks 60 then s
    else (s.setBit R.hifSpiStatus F.hifSpiStatus.blocked false).setSpi { s.hif.spi with blockedAt := none }

/-! ### The commands -/

def execSpiWrite (addr : Nat) (words : List Word) (crc : BitVec 32) (s : State) : Host.Outcome State Fault Refusal :=
  .next (s.spiWrite addr words crc)

def execSpiRead (addr : Nat) (count : Nat) (s : State) : Host.Outcome State Fault Refusal := .next (s.spiRead addr count)

def execSpiStatus (s : State) : Host.Outcome State Fault Refusal := .next s.spiStatus

def execChallenge (s : State) : Host.Outcome State Fault Refusal := .next s.spiChallenge

def execUnlock (tag : Word) (s : State) : Host.Outcome State Fault Refusal := .next (s.spiUnlock tag)

def execLock (s : State) : Host.Outcome State Fault Refusal := .next s.spiLock

def execSpiUnlockBlockExpired (s : State) : Host.Outcome State Fault Refusal := .next s.spiUnblock

end Sys2Proof.Machine
end

