-- ==== Sys2Proof/Machine/Dispatch.lean ====
section
/-! DEFINITION. `exec`: one arm per command, each a direct call of its meaning. -/

namespace Sys2Proof.Machine

open Sys2Proof

def exec (i : Instr) (s : State) : Host.Outcome State Fault Refusal :=
  match i with
  | .majorCycleBoundary => Sys2Proof.Machine.execMajorCycleBoundary s
  | .planStart => Sys2Proof.Machine.execPlanStart s
  | .schSwap m => Sys2Proof.Machine.execSchSwap m s
  | .schCancel m => Sys2Proof.Machine.execSchCancel m s
  | .schRunWrite m run => Sys2Proof.Machine.execSchRunWrite m run s
  | .planCheckDone => Sys2Proof.Machine.execPlanCheckDone s
  | .stakeStart idx => Sys2Proof.Machine.execStakeStart idx s
  | .triggerRunStart port => Sys2Proof.Machine.execTriggerRunStart port s
  | .exchangeStart port => Sys2Proof.Machine.execExchangeStart port s
  | .replyStartDetected port obs => Sys2Proof.Machine.execReplyStartDetected port obs s
  | .checkVerdict port span field => Sys2Proof.Machine.execCheckVerdict port span field s
  | .exchangeEnd port r => Sys2Proof.Machine.execExchangeEnd port r s
  | .exchangeTimeout port o => Sys2Proof.Machine.execExchangeTimeout port o s
  | .budgetEntryExpired pitch uid => Sys2Proof.Machine.execBudgetEntryExpired pitch uid s
  | .stakeTailStart port => Sys2Proof.Machine.execStakeTailStart port s
  | .stakeEnd port => Sys2Proof.Machine.execStakeEnd port s
  | .hfStateTransitionDone slice obs => Sys2Proof.Machine.execHfStateTransitionDone slice obs s
  | .uhfStateTransitionDone slice obs => Sys2Proof.Machine.execUhfStateTransitionDone slice obs s
  | .loadMonitorSample port obs => Sys2Proof.Machine.execLoadMonitorSample port obs s
  | .uhfGammaSample port obs => Sys2Proof.Machine.execUhfGammaSample port obs s
  | .headRetryExpired port => Sys2Proof.Machine.execHeadRetryExpired port s
  | .cancelAdapt port x drive => Sys2Proof.Machine.execCancelAdapt port x drive s
  | .cancelReload m port => Sys2Proof.Machine.execCancelReload m port s
  | .wideSyncEnd port obs => Sys2Proof.Machine.execWideSyncEnd port obs s
  | .wideSymbolWindowEnd port bins => Sys2Proof.Machine.execWideSymbolWindowEnd port bins s
  | .wrdCodewordStart dec => Sys2Proof.Machine.execWrdCodewordStart dec s
  | .wrdCodewordDone dec => Sys2Proof.Machine.execWrdCodewordDone dec s
  | .synthLockTimeout port => Sys2Proof.Machine.execSynthLockTimeout port s
  | .channelChangeDone port obs => Sys2Proof.Machine.execChannelChangeDone port obs s
  | .txTimeout port => Sys2Proof.Machine.execTxTimeout port s
  | .paSequenceStep port => Sys2Proof.Machine.execPaSequenceStep port s
  | .paFault port low => Sys2Proof.Machine.execPaFault port low s
  | .paFaultClear m port => Sys2Proof.Machine.execPaFaultClear m port s
  | .uhaPaCfgWrite m port v => Sys2Proof.Machine.execUhaPaCfgWrite m port v s
  | .coexLeadStart idx => Sys2Proof.Machine.execCoexLeadStart idx s
  | .coexWaitExpired port => Sys2Proof.Machine.execCoexWaitExpired port s
  | .cxGntRise => Sys2Proof.Machine.execCxGntRise s
  | .cxGntFall => Sys2Proof.Machine.execCxGntFall s
  | .cxReqRise pri => Sys2Proof.Machine.execCxReqRise pri s
  | .cxReqFall pri => Sys2Proof.Machine.execCxReqFall pri s
  | .rfInhibit a b => Sys2Proof.Machine.execRfInhibit a b s
  | .rfInhibitRelease a b => Sys2Proof.Machine.execRfInhibitRelease a b s
  | .uhfStandbyRestored => Sys2Proof.Machine.execUhfStandbyRestored s
  | .rfoffSample => Sys2Proof.Machine.execRfoffSample s
  | .powerWindow mw => Sys2Proof.Machine.execPowerWindow mw s
  | .pwrCeilWrite m v => Sys2Proof.Machine.execPwrCeilWrite m v s
  | .pwrHfRailWrite m v => Sys2Proof.Machine.execPwrHfRailWrite m v s
  | .triggerEdge t o => Sys2Proof.Machine.execTriggerEdge t o s
  | .triggerSw m t => Sys2Proof.Machine.execTriggerSw m t s
  | .gpioCfgWrite m n v => Sys2Proof.Machine.execGpioCfgWrite m n v s
  | .gpioSet m v => Sys2Proof.Machine.execGpioSet m v s
  | .gpioClr m v => Sys2Proof.Machine.execGpioClr m v s
  | .awningFieldDetect inst obs => Sys2Proof.Machine.execAwningFieldDetect inst obs s
  | .awningFieldLost inst absent => Sys2Proof.Machine.execAwningFieldLost inst absent s
  | .awningSeamHoldExpired inst => Sys2Proof.Machine.execAwningSeamHoldExpired inst s
  | .reqa inst => Sys2Proof.Machine.execReqa inst s
  | .wupa inst => Sys2Proof.Machine.execWupa inst s
  | .anticollision inst level known => Sys2Proof.Machine.execAnticollision inst level known s
  | .select f level uid => Sys2Proof.Machine.execSelect f level uid s
  | .hlta f => Sys2Proof.Machine.execHlta f s
  | .rats f fsdi cid => Sys2Proof.Machine.execRats f fsdi cid s
  | .pps f dsi dri => Sys2Proof.Machine.execPps f dsi dri s
  | .rAck f block => Sys2Proof.Machine.execRAck f block s
  | .rNak f block => Sys2Proof.Machine.execRNak f block s
  | .sDeselect f => Sys2Proof.Machine.execSDeselect f s
  | .selectByName inst aid blocks => Sys2Proof.Machine.execSelectByName inst aid blocks s
  | .selectByFileId inst id blocks => Sys2Proof.Machine.execSelectByFileId inst id blocks s
  | .readBinary inst offset le blocks => Sys2Proof.Machine.execReadBinary inst offset le blocks s
  | .updateBinary inst offset data blocks => Sys2Proof.Machine.execUpdateBinary inst offset data blocks s
  | .verify inst data blocks => Sys2Proof.Machine.execVerify inst data blocks s
  | .pinLockExpired inst => Sys2Proof.Machine.execPinLockExpired inst s
  | .awningCommit m inst v => Sys2Proof.Machine.execAwningCommit m inst v s
  | .awningCommitApply inst => Sys2Proof.Machine.execAwningCommitApply inst s
  | .watchRound => Sys2Proof.Machine.execWatchRound s
  | .lanternConfirmPing e => Sys2Proof.Machine.execLanternConfirmPing e s
  | .lanternPingDone e amp phase => Sys2Proof.Machine.execLanternPingDone e amp phase s
  | .wakeCardClear m => Sys2Proof.Machine.execWakeCardClear m s
  | .presenceSweep idx => Sys2Proof.Machine.execPresenceSweep idx s
  | .chkHostRunStart m n v => Sys2Proof.Machine.execChkHostRunStart m n v s
  | .chkHostRunDone n => Sys2Proof.Machine.execChkHostRunDone n s
  | .chkCfgWrite m n r v => Sys2Proof.Machine.execChkCfgWrite m n r v s
  | .scrubVisit word upset => Sys2Proof.Machine.execScrubVisit word upset s
  | .eccInjectArm m v => Sys2Proof.Machine.execEccInjectArm m v s
  | .groundsheetWrite m off bytes => Sys2Proof.Machine.execGroundsheetWrite m off bytes s
  | .bufAlloc m p => Sys2Proof.Machine.execBufAlloc m p s
  | .bufFree m p v => Sys2Proof.Machine.execBufFree m p v s
  | .fifoPush m n v => Sys2Proof.Machine.execFifoPush m n v s
  | .fifoPop m n v => Sys2Proof.Machine.execFifoPop m n v s
  | .fifoFlush m n => Sys2Proof.Machine.execFifoFlush m n s
  | .heldPacketCommit n => Sys2Proof.Machine.execHeldPacketCommit n s
  | .wheelTurnStart wait target => Sys2Proof.Machine.execWheelTurnStart wait target s
  | .rrWaitClear m => Sys2Proof.Machine.execRrWaitClear m s
  | .krvReq n => Sys2Proof.Machine.execKrvReq n s
  | .hfFrame n => Sys2Proof.Machine.execHfFrame n s
  | .hfApdu n => Sys2Proof.Machine.execHfApdu n s
  | .gen2Req n => Sys2Proof.Machine.execGen2Req n s
  | .requestStart port => Sys2Proof.Machine.execRequestStart port s
  | .requestWaitExpired pitch port => Sys2Proof.Machine.execRequestWaitExpired pitch port s
  | .keyLoad p v => Sys2Proof.Machine.execKeyLoad p v s
  | .secKeyLoad m v => Sys2Proof.Machine.execSecKeyLoad m v s
  | .registerWrite ws => Sys2Proof.Machine.execRegisterWrite ws s
  | .lowerHalfRead m off => Sys2Proof.Machine.execLowerHalfRead m off s
  | .upperHalfWrite m off data => Sys2Proof.Machine.execUpperHalfWrite m off data s
  | .perst => Sys2Proof.Machine.execPerst s
  | .ringWrite m n v => Sys2Proof.Machine.execRingWrite m n v s
  | .ringDeliver n => Sys2Proof.Machine.execRingDeliver n s
  | .doorbell m n v => Sys2Proof.Machine.execDoorbell m n v s
  | .requestFetchDone n ok words => Sys2Proof.Machine.execRequestFetchDone n ok words s
  | .msixUnmask fn vec => Sys2Proof.Machine.execMsixUnmask fn vec s
  | .ethDatagramRx x d => Sys2Proof.Machine.execEthDatagramRx x d s
  | .regRead p => Sys2Proof.Machine.execRegRead p s
  | .regWrite p => Sys2Proof.Machine.execRegWrite p s
  | .ack p => Sys2Proof.Machine.execAck p s
  | .ethSourceEntryExpired ip => Sys2Proof.Machine.execEthSourceEntryExpired ip s
  | .ethTransmit p x => Sys2Proof.Machine.execEthTransmit p x s
  | .ethRetxTimeout p => Sys2Proof.Machine.execEthRetxTimeout p s
  | .spiWrite addr words crc => Sys2Proof.Machine.execSpiWrite addr words crc s
  | .spiRead addr count => Sys2Proof.Machine.execSpiRead addr count s
  | .spiStatus => Sys2Proof.Machine.execSpiStatus s
  | .challenge => Sys2Proof.Machine.execChallenge s
  | .unlock tag => Sys2Proof.Machine.execUnlock tag s
  | .lock => Sys2Proof.Machine.execLock s
  | .spiUnlockBlockExpired => Sys2Proof.Machine.execSpiUnlockBlockExpired s
  | .rotationDue k => Sys2Proof.Machine.execRotationDue k s
  | .rotate m v => Sys2Proof.Machine.execRotate m v s
  | .spareHandover k => Sys2Proof.Machine.execSpareHandover k s
  | .spareReturn k => Sys2Proof.Machine.execSpareReturn k s
  | .checkpoint port live => Sys2Proof.Machine.execCheckpoint port live s
  | .spareTransferDone k live => Sys2Proof.Machine.execSpareTransferDone k live s
  | .calCompare k a b headroom => Sys2Proof.Machine.execCalCompare k a b headroom s
  | .sliceFailed slice cause => Sys2Proof.Machine.execSliceFailed slice cause s
  | .linkFail die => Sys2Proof.Machine.execLinkFail die s
  | .correctionSlew slice => Sys2Proof.Machine.execCorrectionSlew slice s
  | .ageMeasure counts => Sys2Proof.Machine.execAgeMeasure counts s
  | .avs mu => Sys2Proof.Machine.execAvs mu s
  | .ageSummary => Sys2Proof.Machine.execAgeSummary s
  | .logRateWindowEnd type => Sys2Proof.Machine.execLogRateWindowEnd type s
  | .enterHibernate m => Sys2Proof.Machine.execEnterHibernate m s
  | .enterWatch m => Sys2Proof.Machine.execEnterWatch m s
  | .lowPowerEntryDone => Sys2Proof.Machine.execLowPowerEntryDone s
  | .wake => Sys2Proof.Machine.execWake s
  | .rtcAlarm => Sys2Proof.Machine.execRtcAlarm s
  | .por => Sys2Proof.Machine.execPor s
  | .brownout => Sys2Proof.Machine.execBrownout s
  | .resetPin => Sys2Proof.Machine.execResetPin s
  | .watchdog => Sys2Proof.Machine.execWatchdog s
  | .software m v => Sys2Proof.Machine.execSoftware m v s
  | .thermal => Sys2Proof.Machine.execThermal s
  | .blockReset m v => Sys2Proof.Machine.execBlockReset m v s
  | .imageTimeout => Sys2Proof.Machine.execImageTimeout s
  | .restage m => Sys2Proof.Machine.execRestage m s
  | .cfgStage m w => Sys2Proof.Machine.execCfgStage m w s
  | .load m => Sys2Proof.Machine.execLoad m s
  | .flashRead m addr => Sys2Proof.Machine.execFlashRead m addr s
  | .flashProgram m addr => Sys2Proof.Machine.execFlashProgram m addr s
  | .flashErase m addr => Sys2Proof.Machine.execFlashErase m addr s
  | .flashCmdDone good => Sys2Proof.Machine.execFlashCmdDone good s
  | .logbookWrite good => Sys2Proof.Machine.execLogbookWrite good s
  | .logbookErase => Sys2Proof.Machine.execLogbookErase s
  | .beacon f => Sys2Proof.Machine.execBeacon f s
  | .beaconTransmit bus => Sys2Proof.Machine.execBeaconTransmit bus s
  | .guylineAck f => Sys2Proof.Machine.execGuylineAck f s
  | .ackSlot bus => Sys2Proof.Machine.execAckSlot bus s
  | .masterTimeout => Sys2Proof.Machine.execMasterTimeout s
  | .beaconRetry => Sys2Proof.Machine.execBeaconRetry s
  | .laneGrantStart => Sys2Proof.Machine.execLaneGrantStart s
  | .laneDeadline => Sys2Proof.Machine.execLaneDeadline s
  | .tracePortOut => Sys2Proof.Machine.execTracePortOut s
  | .tapReset => Sys2Proof.Machine.execTapReset s
  | .extest => Sys2Proof.Machine.execExtest s
  | .idcode => Sys2Proof.Machine.execIdcode s
  | .samplePreload => Sys2Proof.Machine.execSamplePreload s
  | .extestPulse => Sys2Proof.Machine.execExtestPulse s
  | .extestTrain => Sys2Proof.Machine.execExtestTrain s
  | .highz => Sys2Proof.Machine.execHighz s
  | .clamp => Sys2Proof.Machine.execClamp s
  | .bypass => Sys2Proof.Machine.execBypass s
  | .endOfCause c => Sys2Proof.Machine.execEndOfCause c s
  | .resetSequenceStepDone qi => Sys2Proof.Machine.execResetSequenceStepDone qi s
  | .reservedTypeRequest n => Sys2Proof.Machine.execReservedTypeRequest n s
  | .otherInsApdu inst ins p1p2 blocks => Sys2Proof.Machine.execOtherInsApdu inst ins p1p2 blocks s
  | .cxPriRise => Sys2Proof.Machine.execCxPriRise s
  | .ethLinkDown x => Sys2Proof.Machine.execEthLinkDown x s
  | .ethLinkUp x speed => Sys2Proof.Machine.execEthLinkUp x speed s
  | .groundsheetRead m off n => Sys2Proof.Machine.execGroundsheetRead m off n s
  | .guylineFrameCrcFail type src rest => Sys2Proof.Machine.execGuylineFrameCrcFail type src rest s
  | .vfEnableWrite numVfs enable => Sys2Proof.Machine.execVfEnableWrite numVfs enable s

end Sys2Proof.Machine
end

