-- ==== Sys2Proof/Safety.lean ====
section
/-! DEFINITION. The words in which claims speak of a run: canonical data, and what a command leaves as it was. -/

namespace Sys2Proof.Machine

/-- Registers, Groundsheet, its errors and the flash are in canonical form: strictly rising keys, no entry equal to what
its unlisted key reads as (State is plain data, R260, R360, R410). -/
def State.canonical (s : State) : Bool :=
  SMap.wf resetWord s.regs && SMap.wf (fun _ => (0 : Byte)) s.mem && SMap.wf (fun _ => (0 : Word)) s.ecc &&
    SMap.wf (fun _ => (0xFF : Byte)) s.flash

/-- The block window that holds a byte of PF0 BAR0, by the 64 KiB step it starts at (R409): HFA is 8, UHA 11, and
every byte outside the windows of blocks 28. -/
def regWindow (off : Nat) : Nat :=
  if off / 65536 = 9 ∨ off / 65536 = 10 then 8
  else if off / 65536 = 12 then 11
  else if off / 65536 = 0 ∨ off / 65536 = 6 ∨ off / 65536 = 7 ∨ 28 ≤ off / 65536 then 28
  else off / 65536

/-- The areas of Groundsheet that the DN4810 writes on its own account: the pool, the internal area, the presence tables, the
trace ring; `mem` is the rest of it (R254). -/
inductive Area where
  | pool | inner | tables | ring | mem
  deriving DecidableEq, Repr

def areaOf (a : Nat) : Area :=
  if a < 0x01000000 then .pool
  else if a < 0x01400000 then .inner
  else if a < 0x01C00000 then .tables
  else if 0x01F00000 ≤ a ∧ a < 0x02000000 then .ring
  else .mem

/-- Where SCH stands in its cycle, apart from what a cycle collects: the next stake, the check under way, the ticks at
which a start and a swap are due, and the last boundary (R40, R65, R68). -/
def Sch.cycle (x : Sch) : Nat × Option Check × Option Nat × Option Nat × Nat :=
  (x.next, x.check, x.startAt, x.swapAt, x.lastBoundary)

/-- The indices of the stakes in their active ticks, in the order they started (R40). -/
def State.active (s : State) : List Nat := s.runs.map fun r => r.stake.idx

/-- The active stakes stand in the order of their indices, each once, and before the stake that is next (R40). -/
def State.inOrder (s : State) : Prop := s.active.Pairwise (· < ·) ∧ ∀ i ∈ s.active, i < s.sch.next

/-- The parts of the state that a frame names; `stakes` is which stakes are active, `cycle` where SCH stands in its cycle;
`busy` is every buffer that is not FREE, its state and its bytes (R261). `regs w` is every register of block window w:
1 PWR, 2 CLK, 3 RST, 4 CFG, 5 SCH, 8 HFA, 11 UHA, 13 FRM, 14 SNG, 15 WRD, 16 CHK, 17 GSH, 18 RDP, 19 HIF, 20 PIT, 21 SEC,
22 AWN, 23 LNT, 24 HLT, 25 GUY, 26 CXP, 27 CAB, 28 TRL (R409). The model's own record of what this tick has seen
(`tick`, log 40) is no part that a frame names: any command may write it. -/
inductive Part where
  | clock | pool | busy | inner | tables | ring | mem | ecc | bufs | fifos | boot | sch | cycle | runs | stakes | ports | slices | records | polarity | requests | sec | decoders
  | hostRuns | awning | lantern | hif | pit | hlt | flash | guy | cxp | cab | trl | tap | wheel | resp | out | fresh
  | regs (w : Nat)
  deriving DecidableEq, Repr

/-- A part of the state is as it was; Groundsheet and the flash byte by byte, a window register by register. -/
def Part.same (s t : State) : Part → Prop
  | .clock => t.clock = s.clock
  | .pool => ∀ a, areaOf a = .pool → t.byte a = s.byte a
  | .busy => ∀ b, b < 65536 → s.buf b ≠ .free →
      t.buf b = s.buf b ∧ ∀ i, i < 256 → t.byte (256 * b + i) = s.byte (256 * b + i)
  | .inner => ∀ a, areaOf a = .inner → t.byte a = s.byte a
  | .tables => ∀ a, areaOf a = .tables → t.byte a = s.byte a
  | .ring => ∀ a, areaOf a = .ring → t.byte a = s.byte a
  | .mem => ∀ a, areaOf a = .mem → t.byte a = s.byte a
  | .ecc => ∀ a, t.upset a = s.upset a
  | .bufs => t.bufs = s.bufs
  | .fifos => t.fifos = s.fifos
  | .boot => t.boot = s.boot
  | .sch => t.sch = s.sch
  | .cycle => t.sch.cycle = s.sch.cycle
  | .runs => t.runs = s.runs
  | .stakes => t.active = s.active
  | .ports => t.ports = s.ports
  | .slices => t.slices = s.slices
  | .records => t.records = s.records
  | .polarity => t.polarity = s.polarity
  | .requests => t.requests = s.requests
  | .sec => t.sec = s.sec
  | .decoders => t.decoders = s.decoders
  | .hostRuns => t.hostRuns = s.hostRuns
  | .awning => t.awning = s.awning
  | .lantern => t.lantern = s.lantern
  | .hif => t.hif = s.hif
  | .pit => t.pit = s.pit
  | .hlt => t.hlt = s.hlt
  | .flash => t.flash = s.flash
  | .guy => t.guy = s.guy
  | .cxp => t.cxp = s.cxp
  | .cab => t.cab = s.cab
  | .trl => t.trl = s.trl
  | .tap => t.tap = s.tap
  | .wheel => t.wheel = s.wheel
  | .resp => t.resp = s.resp
  | .out => t.out = s.out
  | .fresh => t.fresh = s.fresh
  | .regs w => ∀ off, regWindow off = w → t.reg off = s.reg off

/-- Everything but the parts listed is as it was. -/
def sameBut (l : List Part) (s t : State) : Prop := ∀ p, p ∉ l → p.same s t

/-- A host may write the word that holds a byte of Groundsheet (R66, R233, R254, R434): scratch memory, a HELD buffer, the host
image of an Awning region while no commit of it waits, and a plan bank that is neither active, nor under the checker, nor pending. -/
def State.hostMayWrite (s : State) (a : Nat) : Prop :=
  (a < 0x01000000 ∧ s.awnAt a = none ∧ (s.bufPitch (a / 256) = none ∨ s.buf (a / 256) = .held)) ∨
  (∃ i, a < 0x01000000 ∧ s.awnAt a = some i ∧ 0x3000 ≤ a - (s.awnRegion i).1 ∧ a - (s.awnRegion i).1 < 0x5040 ∧
    s.commitPending i = false) ∨
  (0x01C00000 ≤ a ∧ a < 0x01E00000 ∧ decide (0x01D00000 ≤ a) ≠ s.activeBank ∧
    s.checks (decide (0x01D00000 ≤ a)) = false ∧ s.bit R.schStatus F.schStatus.swapPending = false)

/-! ### What each command may change -/

/-- What the radio work of a stake changes: runs, ports and slices and the drive of a held field, its messages, keys and decoders,
the trace and the wires. -/
def stakeParts : List Part :=
  [.pool, .ecc, .bufs, .fifos, .sch, .runs, .ports, .slices, .records, .sec, .decoders, .hif, .cxp, .trl, .out,
   .fresh, .regs 5, .regs 8, .regs 11, .regs 15, .regs 17, .regs 21, .regs 26, .regs 28]

/-- What a reply changes: the run, its messages, SEC and the trace. -/
def replyParts : List Part :=
  [.pool, .ecc, .bufs, .fifos, .runs, .sec, .decoders, .hif, .trl, .out, .fresh, .regs 15, .regs 17,
   .regs 21, .regs 28]

/-- What the response to an uncorrectable word changes (R257): messages, an entry, SCH and its records. -/
def resetParts : List Part :=
  [.pool, .tables, .ecc, .bufs, .fifos, .sch, .records, .hif, .out, .fresh, .regs 5, .regs 14, .regs 17]

/-- What a message changes: FREE buffers of its pitch, its FIFO, the host lines, and GSH registers. -/
def msgParts : List Part :=
  [.pool, .ecc, .bufs, .fifos, .hif, .out, .fresh, .regs 17]

/-- What a trace record changes. -/
def traceParts : List Part :=
  [.trl, .regs 28]

/-- Every part. -/
def everything : List Part :=
  [.clock, .pool, .busy, .inner, .tables, .ring, .mem, .ecc, .bufs, .fifos, .boot, .sch, .cycle, .runs, .stakes, .ports,
   .slices, .records, .polarity, .requests, .sec, .decoders, .hostRuns, .awning, .lantern, .hif, .pit, .hlt,
   .flash, .guy, .cxp, .cab, .trl, .tap, .wheel, .resp, .out, .fresh] ++
    (List.range 29).map .regs

/-- The parts that a command may change. -/
def touches : Instr → List Part
  | .majorCycleBoundary =>
      stakeParts ++ [.boot, .cycle, .requests, .hlt, .guy, .cab, .regs 24, .regs 27]
  | .planStart =>
      stakeParts ++ [.boot, .cycle, .requests, .hlt, .guy, .cab, .regs 24, .regs 27]
  | .schSwap _ => [.sch, .cycle, .regs 5]
  | .schCancel _ => [.sch, .cycle, .regs 5]
  | .schRunWrite _ _ => [.sch, .cycle, .regs 5]
  | .planCheckDone =>
      msgParts ++ traceParts ++ [.sch, .cycle, .ports, .records, .requests, .hlt, .regs 5, .regs 24, .regs 27, .slices]
  | .stakeStart _ => stakeParts ++ [.cycle, .stakes, .hostRuns, .awning, .regs 14, .regs 16, .regs 27]
  | .triggerRunStart _ => msgParts ++ [.sch, .runs, .ports, .slices, .records, .regs 11, .regs 14, .regs 26, .regs 27, .regs 8]
  | .exchangeStart _ => replyParts ++ [.ports, .slices, .records, .polarity, .regs 5, .regs 11, .regs 14, .lantern, .sch, .regs 8]
  | .replyStartDetected _ _ => [.runs, .ports, .slices, .regs 8, .regs 11]
  | .checkVerdict _ _ _ => [.runs, .regs 16]
  | .exchangeEnd _ _ => replyParts ++ [.tables, .slices, .polarity, .regs 13, .regs 14, .regs 8, .sch]
  | .exchangeTimeout _ _ => replyParts ++ [.tables, .slices, .polarity, .regs 13, .regs 14, .regs 8, .sch]
  | .budgetEntryExpired _ _ => [.sec, .regs 21]
  | .stakeTailStart _ => replyParts ++ [.ports, .slices, .records, .regs 5, .regs 11, .regs 26, .sch, .regs 8]
  | .stakeEnd _ => stakeParts ++ [.busy, .stakes, .awning, .hlt, .regs 16, .regs 22, .regs 24]
  | .hfStateTransitionDone _ _ => stakeParts
  | .uhfStateTransitionDone _ _ => stakeParts
  | .loadMonitorSample _ _ => replyParts ++ [.ports, .slices, .records, .regs 5, .regs 8, .regs 11, .sch]
  | .uhfGammaSample _ _ => replyParts ++ [.ports, .slices, .records, .regs 5, .regs 8, .regs 11, .regs 24, .sch]
  | .headRetryExpired _ => [.ports]
  | .cancelAdapt _ _ _ => [.runs, .fresh]
  | .cancelReload _ _ => [.ports, .regs 8]
  | .wideSyncEnd _ _ => [.fresh, .runs, .ports, .slices, .regs 8, .regs 11, .regs 15]
  | .wideSymbolWindowEnd _ _ => [.runs]
  | .wrdCodewordStart _ => [.decoders, .regs 15]
  | .wrdCodewordDone _ => [.runs, .decoders, .regs 15]
  | .synthLockTimeout _ => replyParts ++ [.ports, .slices, .hlt, .regs 5, .regs 24, .inner, .sch, .regs 8]
  | .channelChangeDone _ _ => msgParts ++ traceParts ++ [.sch, .runs, .ports, .slices, .regs 11]
  | .txTimeout _ => stakeParts
  | .paSequenceStep _ => [.ports, .fresh]
  | .paFault _ _ => replyParts ++ [.ports, .slices, .regs 5, .regs 11, .sch, .regs 8]
  | .paFaultClear _ _ => [.regs 11]
  | .uhaPaCfgWrite _ _ _ => [.ports, .regs 11]
  | .coexLeadStart _ => stakeParts ++ [.awning, .regs 14, .regs 27]
  | .coexWaitExpired _ => stakeParts ++ [.regs 27]
  | .cxGntRise =>
      msgParts ++ [.sch, .runs, .ports, .slices, .records, .awning, .cxp, .regs 11, .regs 14, .regs 26, .regs 27, .regs 8]
  | .cxGntFall => stakeParts
  | .cxReqRise _ => stakeParts ++ [.awning, .regs 14, .regs 27]
  | .cxReqFall _ => stakeParts ++ [.awning, .regs 14, .regs 27]
  | .rfInhibit _ _ => stakeParts ++ [.busy, .awning, .lantern, .cab, .regs 22, .regs 27]
  | .rfInhibitRelease _ _ => stakeParts ++ [.busy, .awning, .lantern, .cab, .regs 22, .regs 27]
  | .uhfStandbyRestored => [.slices, .cab]
  | .rfoffSample => [.regs 27]
  | .powerWindow _ => [.regs 1]
  | .pwrCeilWrite _ _ => [.regs 1, .regs 5]
  | .pwrHfRailWrite _ _ => [.regs 1]
  | .triggerEdge _ _ => traceParts ++ [.sch, .runs, .cab, .regs 27, .bufs, .ecc, .fifos, .fresh, .hif, .out, .pool, .regs 17]
  | .triggerSw _ _ => traceParts ++ [.sch, .runs, .cab, .regs 27, .bufs, .ecc, .fifos, .fresh, .hif, .out, .pool, .regs 17]
  | .gpioCfgWrite _ _ _ => [.cab, .regs 27]
  | .gpioSet _ _ => [.regs 27]
  | .gpioClr _ _ => [.regs 27]
  | .awningFieldDetect _ _ => [.awning, .bufs, .busy, .ecc, .fifos, .fresh, .hif, .out, .pool, .regs 17, .regs 22]
  | .awningFieldLost _ _ => msgParts ++ [.busy, .awning, .regs 22]
  | .awningSeamHoldExpired _ => msgParts ++ [.busy, .awning, .regs 22]
  | .reqa _ => [.awning, .out, .bufs, .ecc, .fifos, .fresh, .hif, .pool, .regs 17]
  | .wupa _ => [.awning, .out, .bufs, .ecc, .fifos, .fresh, .hif, .pool, .regs 17]
  | .anticollision _ _ _ => [.out, .bufs, .ecc, .fifos, .fresh, .hif, .pool, .regs 17]
  | .select _ _ _ => [.awning, .out, .regs 16, .bufs, .ecc, .fifos, .fresh, .hif, .pool, .regs 17]
  | .hlta _ => [.awning, .regs 16]
  | .rats _ _ _ => [.awning, .out, .regs 16, .bufs, .ecc, .fifos, .fresh, .hif, .pool, .regs 17]
  | .pps _ _ _ => [.awning, .out, .regs 16]
  | .rAck _ _ => [.awning, .out, .regs 16]
  | .rNak _ _ => [.out, .regs 16, .awning]
  | .sDeselect _ => msgParts ++ [.busy, .awning, .regs 16, .regs 22]
  | .selectByName _ _ _ => [.awning, .out, .regs 16]
  | .selectByFileId _ _ _ => msgParts ++ [.awning, .regs 16]
  | .readBinary _ _ _ _ => msgParts ++ [.awning, .regs 16]
  | .updateBinary _ _ _ _ => msgParts ++ [.awning, .regs 16, .regs 22]
  | .verify _ _ _ => msgParts ++ [.awning, .regs 16, .regs 22]
  | .pinLockExpired _ => [.awning, .regs 22]
  | .awningCommit _ _ _ => [.resp, .regs 20, .regs 22]
  | .awningCommitApply _ => msgParts ++ [.busy, .regs 22, .awning]
  | .watchRound => [.slices, .lantern, .out]
  | .lanternConfirmPing _ => [.slices, .lantern, .out]
  | .lanternPingDone _ _ _ => msgParts ++ traceParts ++ [.runs, .slices, .lantern, .regs 23]
  | .wakeCardClear _ => [.regs 23]
  | .presenceSweep _ => msgParts ++ [.tables, .regs 14]
  | .chkHostRunStart _ _ _ => [.hostRuns, .regs 16]
  | .chkHostRunDone _ => resetParts ++ [.cycle, .hostRuns, .regs 16]
  | .chkCfgWrite _ _ _ _ => [.regs 16]
  | .scrubVisit _ _ => resetParts ++ [.cycle]
  | .eccInjectArm _ _ => [.regs 17]
  | .groundsheetWrite _ _ _ => everything
  | .bufAlloc _ _ => [.pool, .bufs, .resp, .fresh, .regs 17]
  | .bufFree _ _ _ => [.busy, .bufs, .resp, .regs 17, .regs 20]
  | .fifoPush _ _ _ => [.busy, .bufs, .fifos, .resp, .regs 17, .regs 20, .ecc]
  | .fifoPop _ _ _ => [.busy, .bufs, .fifos, .hif, .resp, .regs 17, .regs 20]
  | .fifoFlush _ _ => [.busy, .bufs, .fifos, .hif, .regs 17, .regs 19, .regs 20, .resp]
  | .heldPacketCommit _ => msgParts
  | .wheelTurnStart _ _ => [.wheel, .regs 18]
  | .rrWaitClear _ => [.regs 18]
  | .krvReq _ => msgParts ++ traceParts ++ [.busy, .requests, .regs 20]
  | .hfFrame _ => msgParts ++ traceParts ++ [.busy, .requests, .regs 20]
  | .hfApdu _ => msgParts ++ traceParts ++ [.busy, .requests, .regs 20]
  | .gen2Req _ => msgParts ++ traceParts ++ [.busy, .requests, .regs 20]
  | .requestStart _ => msgParts ++ traceParts ++ [.runs, .ports, .slices, .requests, .regs 11]
  | .requestWaitExpired _ _ => msgParts ++ traceParts ++ [.requests]
  | .keyLoad _ _ => [.sec, .pit, .regs 20]
  | .secKeyLoad _ _ => [.sec, .regs 21]
  | .registerWrite _ => everything
  | .lowerHalfRead _ _ => resetParts ++ [.cycle, .pit, .resp, .regs 20]
  | .upperHalfWrite _ _ _ => everything
  | .perst => [.hif, .regs 19]
  | .ringWrite _ _ _ => [.hif, .resp, .regs 19, .regs 20]
  | .ringDeliver _ => [.busy, .ecc, .bufs, .fifos, .hif, .out, .regs 17]
  | .doorbell _ _ _ => [.hif, .resp, .regs 20]
  | .requestFetchDone _ _ _ => [.pool, .ecc, .bufs, .fifos, .hif, .fresh, .regs 17]
  | .msixUnmask _ _ => [.hif, .out]
  | .ethDatagramRx _ _ => msgParts ++ [.regs 19]
  | .regRead _ => resetParts ++ traceParts ++ [.cycle, .resp, .regs 20, .busy]
  | .regWrite _ => everything
  | .ack _ => [.busy, .bufs, .fifos, .hif, .regs 19, .regs 20, .regs 17, .resp, .ecc]
  | .ethSourceEntryExpired _ => [.hif, .regs 19]
  | .ethTransmit _ _ => [.busy, .ecc, .bufs, .fifos, .hif, .out, .regs 17, .regs 19]
  | .ethRetxTimeout _ => [.busy, .ecc, .bufs, .fifos, .hif, .out, .regs 17, .regs 19]
  | .spiWrite _ _ _ => everything
  | .spiRead _ _ => resetParts ++ [.cycle, .resp, .regs 20]
  | .spiStatus => [.hif, .out]
  | .challenge => [.hif, .out, .fresh]
  | .unlock _ => [.hif, .regs 19]
  | .lock => [.regs 19]
  | .spiUnlockBlockExpired => [.hif, .regs 19]
  | .rotationDue _ => [.hlt, .regs 24, .slices]
  | .rotate _ _ => [.hlt, .regs 24]
  | .spareHandover _ => [.hlt, .regs 24]
  | .spareReturn _ => [.hlt]
  | .checkpoint _ _ => [.hlt, .ecc, .inner, .regs 17]
  | .spareTransferDone _ _ => stakeParts ++ [.hlt, .regs 24, .inner]
  | .calCompare _ _ _ _ => replyParts ++ [.ports, .slices, .hlt, .regs 5, .regs 24, .inner, .sch, .regs 8]
  | .sliceFailed _ _ => replyParts ++ [.ports, .slices, .hlt, .regs 5, .regs 24, .inner, .sch, .regs 8]
  | .linkFail _ => replyParts ++ [.ports, .slices, .hlt, .regs 5, .regs 24, .inner, .sch, .regs 8]
  | .correctionSlew _ => [.slices, .regs 24]
  | .ageMeasure _ => [.fresh, .regs 24, .hlt]
  | .avs _ => msgParts ++ [.hlt, .regs 24]
  | .ageSummary => [.hlt]
  | .logRateWindowEnd _ => [.hlt]
  | .enterHibernate _ => [.boot, .sch, .cycle, .regs 1]
  | .enterWatch _ => [.boot, .sch, .cycle, .regs 1]
  | .lowPowerEntryDone => traceParts ++ [.boot, .slices, .lantern, .hif, .out, .ecc, .regs 17, .ring, .tap]
  | .wake => [.lantern]
  | .rtcAlarm => [.lantern]
  | .por => []
  | .brownout => [.boot, .tap]
  | .resetPin => []
  | .watchdog => []
  | .software _ _ => [.decoders, .lantern, .hif, .guy, .trl, .regs 3]
  | .thermal => []
  | .blockReset _ _ => [.decoders, .lantern, .hif, .guy, .trl, .regs 3]
  | .imageTimeout => [.boot]
  | .restage _ => [.boot, .regs 4]
  | .cfgStage _ _ => [.boot, .regs 4]
  | .load _ => everything
  | .flashRead _ _ => [.boot, .regs 4]
  | .flashProgram _ _ => [.boot, .regs 4]
  | .flashErase _ _ => [.boot, .regs 4]
  | .flashCmdDone _ => [.boot, .flash, .fresh, .regs 4]
  | .logbookWrite _ => [.hlt, .flash, .fresh, .regs 4]
  | .logbookErase => [.flash]
  | .beacon _ => stakeParts ++ [.guy, .regs 25]
  | .beaconTransmit _ => stakeParts ++ [.guy, .regs 25]
  | .guylineAck _ => traceParts ++ [.guy]
  | .ackSlot _ => traceParts ++ [.guy, .out, .regs 25]
  | .masterTimeout => [.guy, .regs 25]
  | .beaconRetry => [.guy]
  | .laneGrantStart => [.guy, .regs 25]
  | .laneDeadline => stakeParts ++ [.guy, .regs 25]
  | .tracePortOut => [.trl, .out]
  | .tapReset => [.tap]
  | .extest => stakeParts ++ [.busy, .boot, .cycle, .awning, .guy, .cab, .tap, .regs 19, .regs 22]
  | .idcode => [.tap, .fresh, .out]
  | .samplePreload => [.tap, .fresh, .out]
  | .extestPulse => stakeParts ++ [.busy, .boot, .cycle, .awning, .guy, .cab, .tap, .regs 19, .regs 22]
  | .extestTrain => stakeParts ++ [.busy, .boot, .cycle, .awning, .guy, .cab, .tap, .regs 19, .regs 22]
  | .highz => stakeParts ++ [.busy, .boot, .cycle, .awning, .guy, .cab, .tap, .regs 19, .regs 22]
  | .clamp => stakeParts ++ [.busy, .boot, .cycle, .awning, .guy, .cab, .tap, .regs 19, .regs 22]
  | .bypass => [.tap, .fresh, .out]
  | .endOfCause _ => [.boot]
  | .resetSequenceStepDone _ => everything
  | .reservedTypeRequest _ => msgParts ++ traceParts ++ [.busy, .requests, .regs 20]
  | .otherInsApdu _ _ _ _ => [.awning, .out, .fresh, .regs 16]
  | .cxPriRise => stakeParts ++ [.awning, .regs 14, .regs 27]
  | .ethLinkDown _ => [.regs 19]
  | .ethLinkUp _ _ => [.regs 19]
  | .groundsheetRead _ _ _ => resetParts ++ [.cycle, .resp, .regs 20, .pit]
  | .guylineFrameCrcFail _ _ _ => traceParts ++ [.regs 25]
  | .vfEnableWrite _ _ => [.hif]

/-- The commands that may take a reset source: one of their own, or an uncorrectable word (R257, R354). -/
def mayReset : Instr → Bool
  | .majorCycleBoundary => false
  | .planStart => false
  | .schSwap _ => false
  | .schCancel _ => false
  | .schRunWrite _ _ => false
  | .planCheckDone => true
  | .stakeStart _ => true
  | .triggerRunStart _ => false
  | .exchangeStart _ => false
  | .replyStartDetected _ _ => false
  | .checkVerdict _ _ _ => false
  | .exchangeEnd _ _ => false
  | .exchangeTimeout _ _ => false
  | .budgetEntryExpired _ _ => false
  | .stakeTailStart _ => false
  | .stakeEnd _ => false
  | .hfStateTransitionDone _ _ => false
  | .uhfStateTransitionDone _ _ => false
  | .loadMonitorSample _ _ => false
  | .uhfGammaSample _ _ => false
  | .headRetryExpired _ => false
  | .cancelAdapt _ _ _ => false
  | .cancelReload _ _ => false
  | .wideSyncEnd _ _ => false
  | .wideSymbolWindowEnd _ _ => false
  | .wrdCodewordStart _ => false
  | .wrdCodewordDone _ => false
  | .synthLockTimeout _ => false
  | .channelChangeDone _ _ => false
  | .txTimeout _ => false
  | .paSequenceStep _ => false
  | .paFault _ _ => false
  | .paFaultClear _ _ => false
  | .uhaPaCfgWrite _ _ _ => false
  | .coexLeadStart _ => false
  | .coexWaitExpired _ => false
  | .cxGntRise => false
  | .cxGntFall => false
  | .cxReqRise _ => false
  | .cxReqFall _ => false
  | .rfInhibit _ _ => false
  | .rfInhibitRelease _ _ => false
  | .uhfStandbyRestored => false
  | .rfoffSample => false
  | .powerWindow _ => false
  | .pwrCeilWrite _ _ => false
  | .pwrHfRailWrite _ _ => false
  | .triggerEdge _ _ => false
  | .triggerSw _ _ => false
  | .gpioCfgWrite _ _ _ => false
  | .gpioSet _ _ => false
  | .gpioClr _ _ => false
  | .awningFieldDetect _ _ => false
  | .awningFieldLost _ _ => false
  | .awningSeamHoldExpired _ => false
  | .reqa _ => false
  | .wupa _ => false
  | .anticollision _ _ _ => false
  | .select _ _ _ => false
  | .hlta _ => false
  | .rats _ _ _ => false
  | .pps _ _ _ => false
  | .rAck _ _ => false
  | .rNak _ _ => false
  | .sDeselect _ => false
  | .selectByName _ _ _ => false
  | .selectByFileId _ _ _ => false
  | .readBinary _ _ _ _ => false
  | .updateBinary _ _ _ _ => false
  | .verify _ _ _ => false
  | .pinLockExpired _ => false
  | .awningCommit _ _ _ => false
  | .awningCommitApply _ => false
  | .watchRound => false
  | .lanternConfirmPing _ => false
  | .lanternPingDone _ _ _ => true
  | .wakeCardClear _ => false
  | .presenceSweep _ => false
  | .chkHostRunStart _ _ _ => false
  | .chkHostRunDone _ => true
  | .chkCfgWrite _ _ _ _ => false
  | .scrubVisit _ _ => true
  | .eccInjectArm _ _ => false
  | .groundsheetWrite _ _ _ => true
  | .bufAlloc _ _ => false
  | .bufFree _ _ _ => false
  | .fifoPush _ _ _ => false
  | .fifoPop _ _ _ => false
  | .fifoFlush _ _ => false
  | .heldPacketCommit _ => false
  | .wheelTurnStart _ _ => false
  | .rrWaitClear _ => false
  | .krvReq _ => false
  | .hfFrame _ => false
  | .hfApdu _ => false
  | .gen2Req _ => false
  | .requestStart _ => false
  | .requestWaitExpired _ _ => false
  | .keyLoad _ _ => false
  | .secKeyLoad _ _ => false
  | .registerWrite _ => true
  | .lowerHalfRead _ _ => true
  | .upperHalfWrite _ _ _ => true
  | .perst => false
  | .ringWrite _ _ _ => false
  | .ringDeliver _ => false
  | .doorbell _ _ _ => false
  | .requestFetchDone _ _ _ => false
  | .msixUnmask _ _ => false
  | .ethDatagramRx _ _ => false
  | .regRead _ => true
  | .regWrite _ => true
  | .ack _ => false
  | .ethSourceEntryExpired _ => false
  | .ethTransmit _ _ => false
  | .ethRetxTimeout _ => false
  | .spiWrite _ _ _ => true
  | .spiRead _ _ => true
  | .spiStatus => false
  | .challenge => false
  | .unlock _ => false
  | .lock => false
  | .spiUnlockBlockExpired => false
  | .rotationDue _ => false
  | .rotate _ _ => false
  | .spareHandover _ => false
  | .spareReturn _ => false
  | .checkpoint _ _ => false
  | .spareTransferDone _ _ => false
  | .calCompare _ _ _ _ => false
  | .sliceFailed _ _ => false
  | .linkFail _ => true
  | .correctionSlew _ => false
  | .ageMeasure _ => false
  | .avs _ => false
  | .ageSummary => false
  | .logRateWindowEnd _ => false
  | .enterHibernate _ => false
  | .enterWatch _ => false
  | .lowPowerEntryDone => false
  | .wake => true
  | .rtcAlarm => true
  | .por => true
  | .brownout => true
  | .resetPin => true
  | .watchdog => true
  | .software _ _ => true
  | .thermal => true
  | .blockReset _ _ => true
  | .imageTimeout => false
  | .restage _ => false
  | .cfgStage _ _ => false
  | .load _ => true
  | .flashRead _ _ => false
  | .flashProgram _ _ => false
  | .flashErase _ _ => false
  | .flashCmdDone _ => false
  | .logbookWrite _ => false
  | .logbookErase => false
  | .beacon _ => false
  | .beaconTransmit _ => false
  | .guylineAck _ => false
  | .ackSlot _ => false
  | .masterTimeout => false
  | .beaconRetry => false
  | .laneGrantStart => false
  | .laneDeadline => false
  | .tracePortOut => false
  | .tapReset => false
  | .extest => false
  | .idcode => false
  | .samplePreload => false
  | .extestPulse => false
  | .extestTrain => false
  | .highz => false
  | .clamp => false
  | .bypass => false
  | .endOfCause _ => false
  | .resetSequenceStepDone _ => true
  | .reservedTypeRequest _ => false
  | .otherInsApdu _ _ _ _ => false
  | .cxPriRise => false
  | .ethLinkDown _ => false
  | .ethLinkUp _ _ => false
  | .groundsheetRead _ _ _ => true
  | .guylineFrameCrcFail _ _ _ => false
  | .vfEnableWrite _ _ => false

/-- The I-block in which the PICC sends the first part of an answer: block number toggled, CID where one is in use, chained
when the answer does not fit the reader's frame (R225). -/
def State.iBlock (s : State) (i : Nat) (answer : List Byte) : List Byte :=
  let x := s.awn i
  let room := x.fsd - 3 - (if x.cid = 0 then 0 else 1)
  pcbHead x (0x02 + (!x.block).toNat + (if answer.length ≤ room then 0 else 0x10)) ++ answer.take room

end Sys2Proof.Machine
end

