-- ==== Sys2Proof/Certificates/Slice0/Obligations.lean ====
section
/-! DEFINITION. The statements about the model, for the provers: each is a proposition, with the rules of the manual that
it says. A statement that rests on a choice of the model names its row of notes/assumptions. -/

section Slice0

open Sys2Proof Sys2Proof.Machine

/-! ### The queue, the tick, reset, and what every command leaves -/

/-- A step takes the command at the front of the queue and runs it on the state with the queue's rest. -/
def Obligations.StepRunsFront : Prop :=
  ∀ (c : Instr) (rest : List Instr) (s : State), s.pending = c :: rest →
    step s = exec c { s with pending := rest }

/-- A command leaves the queue to the step: whatever runs, exactly the front command is gone. -/
def Obligations.QueueInOrder : Prop :=
  ∀ (c : Instr) (rest : List Instr) (s t : State), s.pending = c :: rest → step s = .next t → t.pending = rest

/-- With no command waiting one tick passes (the model's choice, notes/assumptions/1.md): site time counts in READY and
RUN alone (R5), and the count behind PWR_RTC in every state but OFF (R353). What ends with a tick happens: host runs of check
units (R250, R251), trace records (R395), and the wires of the other radio (R212); a tick that has none of them to do
changes the clock alone. -/
def Obligations.TickPasses : Prop :=
  ∀ s : State, s.pending = [] → ∃ t, step s = .next t ∧
    t.clock.site = (if s.up then s.clock.site + 1 else s.clock.site) ∧
    t.clock.aon = (if s.boot.power = .off then s.clock.aon else s.clock.aon + 1) ∧
    t.clock.epoch = s.clock.epoch ∧ t.pending = [] ∧
    sameBut (stakeParts ++ [.clock, .ring, .hostRuns, .regs 16]) s t ∧
    (s.hostRuns = [] → s.trl.buf = [] → (∀ r ∈ s.runs, r.rampless = false) → sameBut [.clock] s t)

/-- Reset: every register but RST_CAUSE reads its Reset value (R410), RST_CAUSE shows por (R354), Groundsheet reads zero
and holds no error (R260), every buffer is FREE and every FIFO empty (R260, R261), no stake runs, and the reset sequence
of a POR has begun (R354, R357). That the state after reset is the one at the start of a POR is the model's choice
(notes/assumptions/4.md). It is canonical, and its active stakes stand in order: the two invariants below hold of it. -/
def Obligations.ResetState : Prop :=
  (∀ off, off ≠ R.rstCause → State.reset.reg off = resetWord off) ∧
  State.reset.reg R.rstCause = 1 ∧
  (∀ a, State.reset.byte a = 0 ∧ State.reset.upset a = 0) ∧
  (∀ b, State.reset.buf b = .free) ∧ (∀ n, (State.reset.fifo n).packets = []) ∧
  State.reset.runs = [] ∧ State.reset.pending = [] ∧ State.reset.up = false ∧
  (∃ q, State.reset.boot.seq = some q ∧ q.cold = true ∧ q.causes = [.por]) ∧
  State.reset.canonical = true ∧ State.reset.inOrder

/-- Every well-formed command completes, whatever the state; a command that names a resource that no rule assigns stops
with `noSuchResource`; none is refused. That such a command stops, and with this name, is the model's choice
(notes/assumptions/65.md, 6.md): R9, R13 and R32 say only which resources there are. -/
def Obligations.CompletesOrFaults : Prop :=
  ∀ (c : Instr) (s : State),
    (c.wf = true → ∃ t, exec c s = .next t) ∧ (c.wf = false → exec c s = .fault .noSuchResource)

/-- Every step keeps the active stakes in the order of the plan (R40): their indices rise, so no two running stakes have one
index, and all of them come before the stake that SCH takes next. -/
def Obligations.StakesInOrder : Prop :=
  ∀ s t : State, s.inOrder → step s = .next t → t.inOrder

/-- Every step from a canonical state gives a canonical state: registers, Groundsheet, its errors and the flash keep
strictly rising keys, and list no value that an unlisted key reads as. -/
def Obligations.CanonicalKept : Prop :=
  ∀ s t : State, s.canonical = true → step s = .next t → t.canonical = true

/-- The frame of every command: the parts of the state that `touches` does not list for it are as they were, Groundsheet
byte by byte and every block window register by register. A command that may take a reset source (an uncorrectable word
that is critical, or a source of R354) is held to its frame when no reset sequence has begun. For GROUNDSHEET_WRITE,
REGISTER_WRITE, UPPER_HALF_WRITE, REG_WRITE, SPI_WRITE, LOAD and RESET_SEQUENCE_STEP_DONE, which may write any register, `touches` is
everything: what they leave is said in `WritesOfBadWords`, `HostAccess`, `RegisterAccesses`, `SpiTarget` and `BootSequence`. -/
def Obligations.FrameOfEveryCommand : Prop :=
  ∀ (c : Instr) (s t : State), exec c s = .next t → (mayReset c = true → t.boot.seq = none) → sameBut (touches c) s t

/-- The plan banks of Groundsheet (R254), and every buffer that is not FREE, its state and its bytes (R261), are out of
reach of all that happens on the air, of messages, of trace and of checks. The commands that do reach the banks are writes of
hosts, the load of an image, and the reset sequence; those that reach a buffer that is not FREE are the ones that `touches`
lists with `busy`: hosts, deliveries, and what gives a packet back. -/
def Obligations.BanksOutOfReach : Prop :=
  (∀ c : Instr, .mem ∈ touches c →
    c matches .resetSequenceStepDone _ | .load _ | .upperHalfWrite _ _ _ | .registerWrite _ | .regWrite _ |
      .spiWrite _ _ _ | .groundsheetWrite _ _ _) ∧
  ∀ (c : Instr) (s t : State), (mayReset c = true → t.boot.seq = none) → exec c s = .next t →
    (.mem ∉ touches c → ∀ a, 0x01C00000 ≤ a → a < 0x01E00000 → t.byte a = s.byte a) ∧
    (.busy ∉ touches c → ∀ b, b < 65536 → s.buf b ≠ .free →
      t.buf b = s.buf b ∧ ∀ i, i < 256 → t.byte (256 * b + i) = s.byte (256 * b + i))

/-! ### SCH: plans and cycles (R33, R40, R50, R63 to R68) -/

/-- SCH_SWAP and SCH_CANCEL (R65, R66): a swap starts the checker on the inactive bank while the plan runs on; it has no
effect while the checker runs or a plan is pending; a cancel withdraws the pending plan, and has no effect in the tick of
the boundary that takes it. -/
def Obligations.SwapAndCancel : Prop :=
  ∀ (m : PMaster) (s : State), s.up = true →
    (s.bit R.schStatus F.schStatus.checking = false → s.bit R.schStatus F.schStatus.swapPending = false →
      ∃ t, exec (.schSwap m) s = .next t ∧ t.bit R.schStatus F.schStatus.checking = true ∧
        t.bit R.schCtrl F.schCtrl.swap = true ∧ t.sch.check = some { bank := !s.activeBank, atLoad := false } ∧
        t.running = s.running ∧ t.activeBank = s.activeBank ∧ t.sch.next = s.sch.next) ∧
    (s.bit R.schStatus F.schStatus.checking = true ∨ s.bit R.schStatus F.schStatus.swapPending = true →
      exec (.schSwap m) s = .next s) ∧
    (s.bit R.schStatus F.schStatus.swapPending = true → ¬ (s.running = true ∧ s.cycleEnd ≤ s.now ∧ s.swapDue = true) →
      ∃ t, exec (.schCancel m) s = .next t ∧ t.bit R.schStatus F.schStatus.swapPending = false ∧
        t.fld R.schPlanId F.schPlanId.pending = 0 ∧ t.sch.swapAt = none ∧ t.running = s.running ∧
        t.activeBank = s.activeBank) ∧
    (s.running = true ∧ s.cycleEnd ≤ s.now ∧ s.swapDue = true → exec (.schCancel m) s = .next s)

/-- SCH_CTRL.run (R68): 0 is noted and the plan runs on to its cycle boundary; 1 while no plan runs makes the start due
4,000 ticks later (`startAt`), and is noted otherwise. The cycle boundary of a running plan
whose stakes have all ended (R33, R65, R68): the cycle count goes on, the next cycle starts on the tick after the last one
with stake 0 next; with run 0, or a low-power state being entered (R352), the plan stops instead; a pending plan that may
become active does. PLAN_START (R68): a loaded plan whose start is due starts its first cycle at the tick it was due, with
stake 0 next, once no stake of an earlier plan is active any more. -/
def Obligations.PlanRuns : Prop :=
  (∀ (m : PMaster) (s : State), s.up = true →
     (∃ t, exec (.schRunWrite m false) s = .next t ∧ t.bit R.schCtrl F.schCtrl.run = false ∧ t.sch.startAt = none ∧
       t.reg R.schStatus = s.reg R.schStatus) ∧
     (∃ t, exec (.schRunWrite m true) s = .next t ∧ t.bit R.schCtrl F.schCtrl.run = true ∧
       t.reg R.schStatus = s.reg R.schStatus ∧
       t.sch.startAt = (if s.running = false ∧ s.sch.startAt = none then some (s.now + 4000) else s.sch.startAt))) ∧
  (∀ s : State, s.up = true → s.running = true → s.runs = [] → s.sch.next = s.planCount s.activeBank →
     s.cycleEnd ≤ s.now → s.cycleEnd < 2 ^ 64 →
     ∃ t, exec .majorCycleBoundary s = .next t ∧
       t.fld R.schCycleCnt F.schCycleCnt.count = (s.fld R.schCycleCnt F.schCycleCnt.count + 1) % 2 ^ 64 ∧
       t.activeBank = (if s.swapDue then !s.activeBank else s.activeBank) ∧
       (s.swapDue = true → t.bit R.schStatus F.schStatus.swapPending = false ∧ t.sch.swapAt = none ∧
         t.fld R.schPlanId F.schPlanId.active = s.planId (!s.activeBank)) ∧
       (s.bit R.schCtrl F.schCtrl.run = true → s.boot.entering = none → t.running = true ∧ t.sch.next = 0 ∧
         t.fld R.schCycleStart F.schCycleStart.start = s.cycleEnd) ∧
       (s.bit R.schCtrl F.schCtrl.run = false ∨ s.boot.entering ≠ none → t.running = false)) ∧
  (∀ (s : State) (at_ : Nat), s.up = true → s.running = false → s.runs = [] → s.sch.startAt = some at_ → at_ ≤ s.now → at_ < 2 ^ 64 →
     s.bit R.schCtrl F.schCtrl.run = true → s.boot.entering = none → s.boot.scanHeld = false →
     s.bit R.schStatus F.schStatus.loaded = true →
     ∃ t, exec .planStart s = .next t ∧ t.running = true ∧ t.sch.next = 0 ∧ t.sch.startAt = none ∧
       t.fld R.schCycleStart F.schCycleStart.start = at_ ∧ t.boot.power = .run)

/-! ### Stakes, exchanges and replies (R40, R42, R43, R104, R110, R126, R248) -/

/-- STAKE_START (R40): the next stake of the cycle whose start has come, and whose ports no active stake claims, becomes
active, and the stake after it is next; its words and its block are read, and an uncorrectable one of them resets the part
(R257, ECC_CRITICAL, warm). STAKE_TAIL_START (R42, R43): at the tail of a stake whose radio works, what runs is cut and
the stake is in its tail: no exchange runs. STAKE_END (R40): when its active ticks are over, a stake is active no more;
the stakes of other indices are as they were. -/
def Obligations.StakesRun : Prop :=
  (∀ (idx : Nat) (s : State), idx < 8192 → s.up = true → s.running = true → idx = s.sch.next →
     idx < s.planCount s.activeBank →
     s.fld R.schCycleStart F.schCycleStart.start + (s.planStake idx).start ≤ s.now →
     (∀ p ∈ (s.planStake idx).ports, s.runAt p = none) →
     ((∀ a ∈ s.stakeAddrs (s.planStake idx), s.isUe a = false) →
       ∃ t, exec (.stakeStart idx) s = .next t ∧ t.active = s.active ++ [idx] ∧ t.sch.next = idx + 1) ∧
     ((∃ a ∈ s.stakeAddrs (s.planStake idx), s.isUe a = true) →
       ∃ t q, exec (.stakeStart idx) s = .next t ∧ t.boot.seq = some q ∧ q.cold = false ∧ .eccCritical ∈ q.causes)) ∧
  (∀ (p : Nat) (r : Run) (s : State), isSlice p = true → s.runAt p = some r → s.runAt r.port = some r →
     (r.phase = .active ∨ r.phase = .front) → r.tailAt ≤ s.now →
     ∃ t r', exec (.stakeTailStart p) s = .next t ∧ t.runAt p = some r' ∧ r'.stake = r.stake ∧ r'.phase = .tail ∧
       r'.exch = none ∧ t.active = s.active) ∧
  (∀ (p : Nat) (r : Run) (s : State), isSlice p = true → s.runAt p = some r → r.stop ≤ s.now →
     ∃ t, exec (.stakeEnd p) s = .next t ∧ t.active = s.active.filter fun i => decide (i ≠ r.stake.idx))

/-- TRIGGER_RUN_START (R63, R64): a TRIGGER_INV stake whose trigger is latched starts its work when it is due, takes the
edges that the latch has absorbed, and clears the latch. -/
def Obligations.TriggeredRunStarts : Prop :=
  ∀ (p : Nat) (r : Run) (n : Nat) (s : State), isPort p = true → s.runAt p = some r → r.template = 0x30 →
    r.phase = .dispatched → r.inert = none → r.readyAt ≤ s.now → s.inhibited = false →
    s.latchOf (blkTrig r.block) r.port = some n →
    ∃ t r', exec (.triggerRunStart p) s = .next t ∧ t.latchOf (blkTrig r.block) r.port = none ∧
      t.runAt p = some r' ∧ r'.stake = r.stake ∧ r'.absorbed = n ∧ (r'.phase = .front ∨ r'.phase = .active)

/-- EXCHANGE_START (R43): a stake with a command to send, its field up and no exchange running, sends it when t + U fits
before the tail, with what its drivers drive (R81, R190) and, of a Krovrel command, its cells (R100, R101). A frame longer
than the block's b_d (R132), a spent failure budget (R126) and a dwell that would end within it (R197) are the forms that
send nothing. -/
def Obligations.ExchangeStarts : Prop :=
  ∀ (p : Nat) (r : Run) (c : Cmd) (s : State), isPort p = true → s.runAt p = some r → r.inner ≠ 0x0B →
    r.nextCmd = some c → s.maySend r = true → s.now + r.exchTicks c ≤ r.tailAt → r.frameTooLong c = false →
    (c.keyed = true → (∃ u, c = .kAuth2 u) ∨ s.budgetSpent r.attempts r.budgetKey.1 r.budgetKey.2 = false) →
    s.dwellOver r (r.exchTicks c) = false →
    ∃ t r' x, exec (.exchangeStart p) s = .next t ∧ t.runAt p = some r' ∧ r'.stake = r.stake ∧ r'.exch = some x ∧
      x.start = s.now ∧ x.limit = s.now + r.exchTicks c ∧ x.seen = none ∧
      (r.action = none → x.cmd = c ∧
        t.out = .air r.port c (s.airDrives r) (if c.krovrel then blkCell r.block else 0) (r.airCells c) :: s.out) ∧
      (∀ a, r.action = some a → x.cmd = (s.fillCmd a c).1 ∧
        t.out = .air r.port x.cmd (s.airDrives r) (if c.krovrel then blkCell r.block else 0)
          (Run.airCells { r with action := some (s.fillCmd a c).2.1 } x.cmd) :: s.out)

/-- REPLY_START_DETECTED (R90, R91, R104, R216): the strongest component that the receivers of the stake see within the
wait (for Krovrel 2,016 to 2,080 fc, above thr_db of the noise) is latched, once per exchange, and shown in the status
registers of the slices that receive, with the time of the sample (R26), unless it is a Wide Reply's (R173). A start of
which no component is seen changes nothing. -/
def Obligations.ReplyStartLatched : Prop :=
  ∀ (p : Nat) (o : StartObs) (r : Run) (x : Exch) (s : State), isPort p = true → s.runAt p = some r →
    r.exch = some x → x.seen = none → x.cmd.isPing = false → x.start ≤ s.now → s.now ≤ x.limit →
    (∀ top, strongest (r.compEnergy x.cmd.isWide o.phases) (r.seenStart x.cmd o) = some top →
      ∃ t r' x', exec (.replyStartDetected p o) s = .next t ∧ t.runAt p = some r' ∧ r'.stake = r.stake ∧
        r'.exch = some x' ∧ x'.seen = some (s.latch r x.cmd o top) ∧ x'.cmd = x.cmd ∧
        (isHfPort r.port = true → x'.limit = x.limit) ∧
        (isHfPort r.port = true → x.cmd.isWide = false → ∀ n ∈ r.rxPorts.map s.server,
          t.fld (R.hfaRxStatus n) F.hfaRxStatus.rssi = o.rssi.toNat ∧ (t.slice n).sampled = s.now)) ∧
    (strongest (r.compEnergy x.cmd.isWide o.phases) (r.seenStart x.cmd o) = none → exec (.replyStartDetected p o) s = .next s)

/-- CHECK_VERDICT (R248, R249, R252): the claimed unit computes its result over the span that the framer feeds, with the
UID prefix of R112 before it; it passes when the span is not empty and the result is the field received. The unit's
RESULT shows the result, and CHK_FAIL_CNT counts a failure. -/
def Obligations.CheckVerdicts : Prop :=
  ∀ (p : Nat) (span : List Bool) (field : Word) (r : Run) (x : Exch) (cfg : CrcCfg) (s : State),
    isPort p = true → s.runAt p = some r → r.exch = some x → x.seen.isSome = true → x.verdict = none →
    (∀ a n, x.cmd ≠ .kReadWide a n) → r.preset x.cmd = some cfg → r.unit false < 48 →
    ∃ t r' x', exec (.checkVerdict p span field) s = .next t ∧ t.runAt p = some r' ∧ r'.stake = r.stake ∧
      r'.exch = some x' ∧
      x'.verdict = some (!span.isEmpty && decide (crcOf cfg (prefixBits x.cmd ++ span) = field.toNat)) ∧
      t.reg (R.chkResult (r.unit false)) = BitVec.ofNat 64 (crcOf cfg (prefixBits x.cmd ++ span)) ∧
      t.fld R.chkFailCnt F.chkFailCnt.count = (s.fld R.chkFailCnt F.chkFailCnt.count +
        (if x'.verdict = some true then 0 else 1)) % 2 ^ 32

/-- EXCHANGE_END and EXCHANGE_TIMEOUT (R43, R110): an exchange ends, with its reply, when the wait for one is over, or when it
has lasted U; the stake counts it, and the WRD decoder that the stake claims is idle again: what it was decoding is given up (R180).
One whose medium was withdrawn has until its allowance is over, when its tail cuts it (R213). -/
def Obligations.ExchangeEnds : Prop :=
  ∀ (p : Nat) (r : Run) (x : Exch) (s : State), isPort p = true → s.runAt p = some r → s.runAt r.port = some r →
    r.exch = some x → x.cmd.isPing = false → r.allowanceOver s.now = false →
    (∀ o : ReplyObs, s.now ≤ x.limit → (x.seen = none → x.cmd.unanswered = true ∨ s.waitOver r x = true) →
      ∃ t r', exec (.exchangeEnd p o) s = .next t ∧ t.runAt p = some r' ∧ r'.stake = r.stake ∧ r'.exch = none ∧
        r'.exchCount = r.exchCount + 1 ∧ t.active = s.active ∧
        ∀ d, d < 2 → r.stake.decoder = d + 1 →
          SMap.find t.decoders d = none ∧ t.bit R.wrdStatus (decBusy d) = false) ∧
    (∀ o : LateObs, x.limit ≤ s.now →
      ∃ t r', exec (.exchangeTimeout p o) s = .next t ∧ t.runAt p = some r' ∧ r'.stake = r.stake ∧
        r'.exch = none ∧ r'.exchCount = r.exchCount + 1 ∧ t.active = s.active ∧
        ∀ d, d < 2 → r.stake.decoder = d + 1 →
          SMap.find t.decoders d = none ∧ t.bit R.wrdStatus (decBusy d) = false)

/-! ### Slices, heads and the radio of a stake (R71 to R96, R170 to R215) -/

/-- HF_STATE_TRANSITION_DONE and UHF_STATE_TRANSITION_DONE (R72, R189): a due transition takes the slice into its state.
One that works for no stake comes to rest; one on its way up starts its next transition, of the length of R72 or R189 (on
UHF the up-ramp waits for step 4 of the PA sequence, R207, and starts the count of R200); in FIELD or CARRIER, with its head there, the stake's exchanges may start after
the guard time (R44). As arbiter of the medium (CXP mode 2) the same tick may hand the medium away (R214). -/
def Obligations.SlicesArrive : Prop :=
  ∀ (n : Nat) (o : SliceObs) (c : Instr) (st : SliceState) (l : List SliceState) (s : State),
    (isHfSlice n = true ∧ c = .hfStateTransitionDone n o ∨
      isUhfSlice n = true ∧ s.uhfHeld n = false ∧ c = .uhfStateTransitionDone n o) →
    (s.slice n).path = st :: l → (s.slice n).due ≤ s.now → s.cxpMode ≠ 2 →
    (s.runOf n = none → l = [] → ∃ t, exec c s = .next t ∧ (t.slice n).st = st ∧ (t.slice n).path = []) ∧
    (∀ r p st2 l2, s.runOf n = some r → s.portOf n = some p → l = st2 :: l2 →
      (st = .armed ∨ st = .rampUp ∨ st = .uRampUp) → delayOf st st2 r.rampTicks (s.derate n) r.alt ≠ 0 →
      ∃ t, exec c s = .next t ∧ (t.slice n).st = st ∧ (t.slice n).path = l ∧
        (t.slice n).due = s.now + delayOf st st2 r.rampTicks (s.derate n) r.alt ∧
        (isUhfSlice n = true → st = .uRampUp → (t.port p).chanStart = s.now)) ∧
    (∀ r p, s.runOf n = some r → s.portOf n = some p → l = [] → (s.slice n).st ≠ st →
      (st = .field ∧ isHfSlice n = true ∨ st = .carrier ∧ isUhfSlice n = true) →
      r.template ≠ 0x21 → r.phase = .front → r.stake.ports = [p] → r.missing = [] → headGone (headClass p o.head) = false →
      ∃ t r', exec c s = .next t ∧ (t.slice n).st = st ∧ (t.slice n).path = [] ∧ t.runAt p = some r' ∧
        r'.phase = .active ∧ r'.readyAt = s.now + r.guardTime)

/-- LOAD_MONITOR_SAMPLE, UHF_GAMMA_SAMPLE and HEAD_RETRY_EXPIRED (R94, R95, R210): a good sample ends a series; a bad one
counts; at the fourth running the head is lost: the stake gives HEAD_ABSENT and performs no further radio action, and the
retry timer runs from the first bad sample. When it has run out, the next measurement decides. That a GROUP stake ends whole when
one member's head is lost is the model's choice (notes/assumptions/76.md, R84 against R94). -/
def Obligations.HeadSamples : Prop :=
  (∀ (p : Nat) (o : SliceObs) (c : Instr) (r : Run) (s : State), s.up = true → s.runAt p = some r →
    (isHfPort p = true ∧ (s.slice (s.server p)).st.hot = true ∧ c = .loadMonitorSample p o.head ∨
      isUhfPort p = true ∧ (s.slice (s.server p)).st = .carrier ∧ c = .uhfGammaSample p o) →
    (headGone (headClass p o.head) = false →
      ∃ t, exec c s = .next t ∧ (t.port p).badSamples = 0 ∧ t.runs = s.runs) ∧
    (headGone (headClass p o.head) = true → (s.port p).badSamples < 3 →
      ∃ t, exec c s = .next t ∧ (t.port p).badSamples = (s.port p).badSamples + 1 ∧ t.runs = s.runs) ∧
    (headGone (headClass p o.head) = true → 3 ≤ (s.port p).badSamples → (s.port p).retryUntil = none → r.template ≠ 0x21 →
      ∃ t r', exec c s = .next t ∧ t.runAt p = some r' ∧ r'.inert = some .headAbsent ∧ r'.exch = none ∧
        (t.port p).retryUntil = some ((s.port p).badSince + r.retryTicks p) ∧ (t.port p).hold = none)) ∧
  ∀ (p at_ : Nat) (s : State), isPort p = true → (s.port p).retryUntil = some at_ →
    (at_ ≤ s.now →
      ∃ t, exec (.headRetryExpired p) s = .next t ∧ (t.port p).retryUntil = none ∧ (t.port p).deciding = true) ∧
    (s.now < at_ → exec (.headRetryExpired p) s = .next s)

/-- CANCEL_ADAPT and CANCEL_RELOAD (R85 to R88): y is the receiver's input less the sum of the coefficients times the drives
of the neighbours, with enable; once every 16 fc of the quiet interval (R87) the coefficient of each neighbour that drives
moves by 2^−mu_shift · y · conj(d), that of one that does not drive or does not exist stays; outside the interval nothing
moves. The step is exact where the format holds it (where it does not, and where a coefficient leaves the format, is
notes/assumptions/24.md). A reload is noted for the next stake start. -/
def Obligations.CancelCoefficients : Prop :=
  (∀ (p : Nat) (x : Int × Int) (left : List Nat) (r : Run) (e : Exch) (s : State), isHfPort p = true →
    s.runAt p = some r → r.exch = some e →
    (∀ k, r.quietStep e s.now = some k → SMap.look 0 e.adapted p ≤ k → p ∉ r.missing →
      r.bit (R.hfaCancelCfg p) F.hfaCancelCfg.adapt = true →
      ∃ t r' e', exec (.cancelAdapt p x left) s = .next t ∧ t.runAt p = some r' ∧ r'.stake = r.stake ∧
        r'.exch = some e' ∧ SMap.look 0 e'.adapted p = k + 1 ∧
        ∀ j, j < 4 →
          (s.driveOf p left j ≠ (0, 0) →
            r'.fld (R.hfaCancelCoef p j) F.hfaCancelCoef.re =
              (BitVec.ofInt 12 (adaptPart (s.fresh + 4 * j) (r.muShift p) (r.coef p j).1
                ((r.cancelled p x (s.driveOf p left)).1 * (s.driveOf p left j).1 +
                  (r.cancelled p x (s.driveOf p left)).2 * (s.driveOf p left j).2))).toNat ∧
            r'.fld (R.hfaCancelCoef p j) F.hfaCancelCoef.im =
              (BitVec.ofInt 12 (adaptPart (s.fresh + 4 * j + 2) (r.muShift p) (r.coef p j).2
                ((r.cancelled p x (s.driveOf p left)).2 * (s.driveOf p left j).1 -
                  (r.cancelled p x (s.driveOf p left)).1 * (s.driveOf p left j).2))).toNat) ∧
          (s.driveOf p left j = (0, 0) → r'.coef p j = r.coef p j)) ∧
    (r.quietStep e s.now = none → exec (.cancelAdapt p x left) s = .next s)) ∧
  (∀ (p : Nat) (x : Int × Int) (d : Nat → Int × Int) (r : Run), r.bit (R.hfaCancelCfg p) F.hfaCancelCfg.enable = true →
    r.cancelled p x d =
      (2048 * x.1 - ((List.range 4).map fun j => (cmul (r.coef p j) (d j)).1).sum,
       2048 * x.2 - ((List.range 4).map fun j => (cmul (r.coef p j) (d j)).2).sum)) ∧
  (∀ (p : Nat) (left : List Nat) (j : Nat) (s : State),
    (neighbourAt p j = none → s.driveOf p left j = (0, 0)) ∧
    (∀ q, neighbourAt p j = some q → s.drives q = false → s.driveOf p left j = (0, 0)) ∧
    (∀ q, neighbourAt p j = some q → s.drives q = true → s.driveOf p left j = s.driveNow q (left.getD j 2048))) ∧
  (∀ (seed shift : Nat) (c inc : Int), inc % 2 ^ (22 + shift) = 0 → -2048 ≤ c + inc / 2 ^ (22 + shift) →
    c + inc / 2 ^ (22 + shift) ≤ 2047 → adaptPart seed shift c inc = c + inc / 2 ^ (22 + shift)) ∧
  ∀ (m : PMaster) (p : Nat) (s : State), isHfSlice p = true → s.up = true →
    (p ≠ 32 → ∃ t, exec (.cancelReload m p) s = .next t ∧ (t.port p).reloadCoef = true ∧
      t.bit (R.hfaCancelCfg p) F.hfaCancelCfg.reload = true) ∧
    (p = 32 → exec (.cancelReload m p) s = .next s)

/-- SYNTH_LOCK_TIMEOUT, CHANNEL_CHANGE_DONE and TX_TIMEOUT (R194, R198, R200, R201): a lock that fails takes the slice out
with its pins safe; a channel change that has not been cut ends in CARRIER, and a Gen2 inventory begins a new round there; a
carrier that has been on for limit_ms ends the stake's radio work, and is counted, unless a channel change is due in the same
tick, which starts in its place. -/
def Obligations.CarrierTimes : Prop :=
  ∀ (p : Nat) (o : SliceObs) (r : Run) (s : State), isUhfPort p = true → s.runAt p = some r →
    ((s.slice (s.server p)).st = .hop ∧ (s.slice (s.server p)).due + 3400 ≤ s.now ∨
      (s.slice (s.server p)).st = .standby ∧ (s.slice (s.server p)).path.head? = some .synth ∧
        (s.slice (s.server p)).due + 5000 ≤ s.now →
      ∃ t, exec (.synthLockTimeout p) s = .next t ∧ (t.slice (s.server p)).failed = true ∧
        (t.port p).paPins = t.paSafe p) ∧
    ((s.slice (s.server p)).st = .hop → (s.slice (s.server p)).path = [.carrier] → s.sliceDue (s.server p) = true →
      ∃ t r', exec (.channelChangeDone p o) s = .next t ∧ (t.slice (s.server p)).st = .carrier ∧
        (t.slice (s.server p)).path = [] ∧ t.runAt p = some r' ∧ r'.stake = r.stake ∧
        (r.request = none → r.inner = 0x10 → r.inert = none → r'.action = none ∧
          r'.walk.next = some (firstCmd 0x10 r.block r.walk.pol { r.walk with slot := 0 }))) ∧
    ((s.slice (s.server p)).st = .carrier ∨ (s.slice (s.server p)).st = .uRampUp →
      (s.slice (s.server p)).path.head? ≠ some .off → (s.port p).chanStart + r.txLimit ≤ s.now → s.cxpMode ≠ 2 → s.runAt r.port = some r →
      (s.hopNow r = true → exec (.txTimeout p) s = .next (s.startHop r)) ∧
      (s.hopNow r = false →
      ∃ t r', exec (.txTimeout p) s = .next t ∧ t.runAt p = some r' ∧ r'.stake = r.stake ∧ r'.inert = some .txTimeout ∧
        r'.exch = none ∧ (t.port p).timedOut = true ∧
        t.fld R.uhaTxtoCnt F.uhaTxtoCnt.count = (s.fld R.uhaTxtoCnt F.uhaTxtoCnt.count + 1) % 2 ^ 32))

/-- PA_SEQUENCE_STEP, PA_FAULT, PA_FAULT_CLEAR and UHA_PA_CFG_WRITE (R207, R208): the steps of the sequence fall at d1,
d1 + d2 and d1 + d2 + d3; a low PAn_FAULT_N while BIAS is active in a stake puts the pins to their safe levels and the
port out of service; pitch 0 clears fault only while the pin is high; delays above 30 µs together are refused. -/
def Obligations.PaPins : Prop :=
  (∀ (p k : Nat) (s : State), isUhfPort p = true → (s.port p).paStep = some k → (k = 2 ∨ k = 3 ∨ k = 4) →
    (s.paDue p k ≤ s.now → ∃ t, exec (.paSequenceStep p) s = .next t ∧
      (t.port p).paStep = (if k = 4 then none else some (k + 1)) ∧
      (k = 2 → (t.port p).paPins = maskPins (s.port p).paPins (s.paActive p) 2) ∧
      (k = 3 → (t.port p).paPins = maskPins (s.port p).paPins (if s.paMode p then 4 else 0) 4) ∧
      (k = 4 → (t.port p).paPins = (s.port p).paPins)) ∧
    (s.now < s.paDue p k → exec (.paSequenceStep p) s = .next s)) ∧
  (∀ (p : Nat) (r : Run) (s : State), isUhfPort p = true → s.up = true → s.runAt p = some r → s.runAt r.port = some r →
    s.paExt p = true → (s.port p).paPins.getLsbD 0 = (s.paActive p).getLsbD 0 →
    ∃ t r', exec (.paFault p true) s = .next t ∧ (t.port p).paPins = s.paSafe p ∧ (t.port p).paFault = true ∧
      t.bit (R.uhaPaStatus (uhfIdx p)) F.uhaPaStatus.fault = true ∧ t.runAt p = some r' ∧
      r'.inert = some .sliceSuspect ∧ (t.slice (s.server p)).st = .off) ∧
  (∀ (p : Nat) (s : State), isUhfPort p = true →
    ∃ t, exec (.paFault p false) s = .next t ∧ (t.port p).faultLow = false ∧ t.runs = s.runs) ∧
  ∀ (m : PMaster) (p : Nat) (v : Word) (s : State), isUhfPort p = true → s.up = true →
    ((s.port p).faultLow = false → ∃ t, exec (.paFaultClear m p) s = .next t ∧
      t.bit (R.uhaPaStatus (uhfIdx p)) F.uhaPaStatus.fault = false) ∧
    ((s.port p).faultLow = true → exec (.paFaultClear m p) s = .next s) ∧
    (s.locked = false → 30 < Word.get v F.uhaPaCfg.d1Us + Word.get v F.uhaPaCfg.d2Us + Word.get v F.uhaPaCfg.d3Us →
      ∃ t, exec (.uhaPaCfgWrite m p v) s = .next t ∧
        t.bit (R.uhaPaStatus (uhfIdx p)) F.uhaPaStatus.cfgRefused = true ∧
        t.reg (R.uhaPaCfg (uhfIdx p)) = s.reg (R.uhaPaCfg (uhfIdx p))) ∧
    (s.locked = false → Word.get v F.uhaPaCfg.d1Us + Word.get v F.uhaPaCfg.d2Us + Word.get v F.uhaPaCfg.d3Us ≤ 30 →
      ∃ t d, exec (.uhaPaCfgWrite m p v) s = .next t ∧ regAt (R.uhaPaCfg (uhfIdx p)) = some d ∧
        t.reg (R.uhaPaCfg (uhfIdx p)) = mergeWrite false d (s.reg (R.uhaPaCfg (uhfIdx p)))
          (s.taken d (R.uhaPaCfg (uhfIdx p)) v))

/-- WIDE_SYNC_END, WIDE_SYMBOL_WINDOW_END, WRD_CODEWORD_START and WRD_CODEWORD_DONE (R171 to R178): the sync window fixes
what WRD estimates, ρ, the RSSI and the SNR of a READ_WIDE, and the RSSI is shown; its symbol windows, each when it is over
(R170), are counted, and become likelihoods, until one lies too low; a codeword whose 65 symbols are in is taken by a decoder, and what the decoder makes of
the 1,040 likelihoods is kept. -/
def Obligations.WideReplies : Prop :=
  ∀ (p m : Nat) (r : Run) (x : Exch) (l : Latched) (s : State), isHfPort p = true → s.runAt p = some r →
    r.exch = some x → x.wideM = some m → x.seen = some l →
    (∀ o : WideObs, x.wide.syncDone = false → s.windowOver x l 2 = true →
      ∃ t r' x', exec (.wideSyncEnd p o) s = .next t ∧ t.runAt p = some r' ∧ r'.exch = some x' ∧
        x'.wide = s.wideEstimate r l x.wide o ∧ x'.wide.syncDone = true ∧
        (isHfPort r.port = true → ∀ n ∈ r.rxPorts.map s.server,
          t.fld (R.hfaRxStatus n) F.hfaRxStatus.rssi = x'.wide.rssi.toNat) ∧
        t.fld R.wrdSyncFailCnt F.wrdSyncFailCnt.count =
          (s.fld R.wrdSyncFailCnt F.wrdSyncFailCnt.count + (if r.syncOk x'.wide.rho then 0 else 1)) % 2 ^ 32) ∧
    (∀ bins : List (List Sample), x.wide.syncDone = true → r.syncOk x.wide.rho = true → x.wide.early = false →
      x.wide.symbols < 65 * m → s.windowOver x l (3 + x.wide.symbols) = true →
      ∃ t r' x', exec (.wideSymbolWindowEnd p bins) s = .next t ∧ t.runAt p = some r' ∧ r'.exch = some x' ∧
        x'.wide.early = x.wide.low (r.bins l.phases bins) ∧
        x'.wide.symbols = x.wide.symbols + (if x'.wide.early then 0 else 1) ∧
        x'.wide.llr = x.wide.llr ++
          (if x'.wide.early then [] else symbolLlr x.wide (r.bins l.phases bins))) ∧
    (∀ d : Fin 2, s.decoderRun d.val = some r → SMap.find s.decoders d.val = none → x.wide.syncDone = true →
      r.syncOk x.wide.rho = true → x.wide.done.length < m → 65 * (x.wide.done.length + 1) ≤ x.wide.symbols →
      ∃ t, exec (.wrdCodewordStart d) s = .next t ∧
        SMap.find t.decoders d.val = some { port := some r.port, cw := x.wide.done.length } ∧
        t.bit R.wrdStatus (decBusy d.val) = true) ∧
    (∀ (d : Fin 2) (y : Decoder), s.decoderRun d.val = some r → SMap.find s.decoders d.val = some y →
      ∃ t r' x', exec (.wrdCodewordDone d) s = .next t ∧ t.runAt p = some r' ∧ r'.exch = some x' ∧
        SMap.find t.decoders d.val = none ∧
        x'.wide.done = x.wide.done ++ [decodeWord (max 8 (r.fld R.wrdCfg F.wrdCfg.norm))
          (decide (bf r.block 11 58 58 = 1)) (bf r.block 11 63 59) (x.wide.llr.take 1040)] ∧
        t.fld R.wrdCwCnt F.wrdCwCnt.count = (s.fld R.wrdCwCnt F.wrdCwCnt.count + 1) % 2 ^ 32)

/-- COEX_LEAD_START, COEX_WAIT_EXPIRED and the wires of the other radio (R39, R211 to R214): as requester CX_REQ is driven
from the start of a stake's lead, in this cycle or back from the next one; a wait for the grant ends after g with COEX_DENIED; the part follows the wires of the
other radio in the mode that has them (mode 1 CX_GNT, mode 2 CX_REQ and CX_PRI), and nothing happens at them in the others. Until a
warm reset has applied its image the wires of this part stay as they were held (R356). -/
def Obligations.CoexWires : Prop :=
  ∀ s : State,
    (∀ idx, idx < 8192 → s.up = true → s.running = true → idx < s.planCount s.activeBank →
      (s.planStake idx).coexClass ≠ 0 → idx ∉ s.cxp.lead → s.cxpMode = 1 →
      (s.sch.next ≤ idx ∧
        s.fld R.schCycleStart F.schCycleStart.start + (s.planStake idx).start ≤ s.now + (s.planStake idx).lead ∨
       idx < s.sch.next ∧ (s.planStake idx).start < (s.planStake idx).lead ∧
        s.swapsNext = false ∧ s.bit R.schCtrl F.schCtrl.run = true ∧ s.boot.entering = none ∧ s.cycleEnd + (s.planStake idx).start ≤ s.now + (s.planStake idx).lead) →
      ∃ t, exec (.coexLeadStart idx) s = .next t ∧ t.cxp.lead = s.cxp.lead ++ [idx] ∧ t.cxp.req = true) ∧
    (∀ p r, isPort p = true → s.runAt p = some r → r.phase = .waiting → r.start + r.stake.guard ≤ s.now →
      s.cxpMode ≠ 2 → s.runAt r.port = some r →
      ∃ t r', exec (.coexWaitExpired p) s = .next t ∧ t.runAt p = some r' ∧ r'.stake = r.stake ∧
        r'.inert = some .coexDenied ∧ r'.phase = .idle) ∧
    (s.cxpMode = 1 → (∃ t, exec .cxGntRise s = .next t ∧ t.cxp.gnt = true ∧ t.cxp.req = s.cxp.req) ∧
      (∃ t, exec .cxGntFall s = .next t ∧ t.cxp.gnt = false)) ∧
    (s.cxpMode = 2 → ∀ pri : Bool,
      (∃ t, exec (.cxReqRise pri) s = .next t ∧ t.cxp.req = true ∧ t.cxp.pri = pri) ∧
      (∃ t, exec (.cxReqFall pri) s = .next t ∧ t.cxp.req = false ∧ (s.bootBalls = none → t.cxp.gnt = false)) ∧
      (∃ t, exec .cxPriRise s = .next t ∧ t.cxp.pri = true ∧ (s.cxp.req = true → s.bootBalls = none → t.cxp.gnt = true))) ∧
    (s.cxpMode ≠ 1 → exec .cxGntRise s = .next s ∧ exec .cxGntFall s = .next s) ∧
    (s.cxpMode ≠ 2 → (∀ pri, exec (.cxReqRise pri) s = .next s ∧ exec (.cxReqFall pri) s = .next s) ∧
      exec .cxPriRise s = .next s)

/-! ### The plan checker's end, the cabinet and the input power (R49, R50, R52, R63 to R69, R349, R350, R383 to R392) -/

/-- PLAN_CHECK_DONE (R49, R50, R65, R66, R68, R257): with no uncorrectable word in the plan the checker's verdict on what it
has read, `k`, is shown; on PASS a plan becomes pending, and at load it becomes active; on another code nothing else changes.
A swap noted during the check at load starts the checker on the inactive bank: that is read from the SCH_CTRL of an image and is
the model's choice (notes/assumptions/101.md, R66 gives a swap written while the checker runs no effect). What the verdict is says
`CheckerAnswers`. An uncorrectable word keeps the last result
and sets plan_ue, and at load resets the part. -/
def Obligations.PlanChecked : Prop :=
  ∀ (c : Check) (k s : State), s.sch.check = some c →
    k = s.endCheck.touchAll
      (s.endCheck.errsIn (bankBase c.bank) (bankBase c.bank + 8 * min 131072 (max 4 (s.endCheck.planLen c.bank)))) →
    (s.endCheck.ueIn (bankBase c.bank) (bankBase c.bank + 8 * min 131072 (max 4 (s.endCheck.planLen c.bank))) = none →
      ∃ t, exec .planCheckDone s = .next t ∧
        t.fld R.schCheckResult F.schCheckResult.code = (k.checkPlan c.bank).code % 2 ^ 8 ∧
        t.fld R.schCheckResult F.schCheckResult.stake = (k.checkPlan c.bank).stake % 2 ^ 13 ∧
        t.fld R.schCheckResult F.schCheckResult.offset = (k.checkPlan c.bank).offset % 2 ^ 32 ∧
        ((c.atLoad = true → s.bit R.schCtrl F.schCtrl.swap = false) →
          t.bit R.schStatus F.schStatus.checking = false ∧ t.sch.check = none) ∧
        (c.atLoad = true → s.bit R.schCtrl F.schCtrl.swap = true → s.up = true →
          s.bit R.schStatus F.schStatus.swapPending = false →
          t.bit R.schStatus F.schStatus.checking = true ∧
            t.sch.check = some { bank := !t.activeBank, atLoad := false }) ∧
        ((k.checkPlan c.bank).code = 0 → c.atLoad = false →
          t.bit R.schStatus F.schStatus.swapPending = true ∧ t.sch.swapAt = some (s.now + 4000) ∧
          t.activeBank = s.activeBank ∧ t.fld R.schPlanId F.schPlanId.pending = k.planId c.bank % 2 ^ 32) ∧
        ((k.checkPlan c.bank).code = 0 → c.atLoad = true →
          t.activeBank = c.bank ∧ t.bit R.schStatus F.schStatus.loaded = true ∧
          (s.bit R.schCtrl F.schCtrl.run = true → t.sch.startAt = some (s.now + 4000))) ∧
        ((k.checkPlan c.bank).code ≠ 0 →
          t.bit R.schStatus F.schStatus.swapPending = s.bit R.schStatus F.schStatus.swapPending ∧
          t.activeBank = s.activeBank)) ∧
    (∀ a, s.endCheck.ueIn (bankBase c.bank) (bankBase c.bank + 8 * min 131072 (max 4 (s.endCheck.planLen c.bank))) = some a →
      ∃ t, exec .planCheckDone s = .next t ∧
        (c.atLoad = false → t.bit R.gshEccStatus F.gshEccStatus.planUe = true ∧ t.sch.check = none ∧
          t.bit R.schStatus F.schStatus.checking = false ∧ t.reg R.schCheckResult = s.reg R.schCheckResult) ∧
        (c.atLoad = true → ∃ q, t.boot.seq = some q ∧ q.step = 1 ∧ Cause.eccCritical ∈ q.causes))

/-- RF_INHIBIT (R69, R76, R383, R384): a channel that indicates inhibit while none was in effect puts it in effect: it is
counted, the radio work of a running stake ends with INHIBITED and without its exchange, UHF slices are ordered to OFF and
one in OFF stays there, and the field of an HF slice ramps down from its present amplitude within 50 µs. An open wire
indicates inhibit (R420). -/
def Obligations.InhibitBegins : Prop :=
  ∀ (a b : Wire) (s : State), s.up = true → s.inhibited = false → (a ≠ .low ∨ b ≠ .high) → s.cxpMode ≠ 2 →
    ∃ t, exec (.rfInhibit a b) s = .next t ∧ t.inhibited = true ∧
      t.bit R.cabRfoffStatus F.cabRfoffStatus.aInhibit = decide (a ≠ .low) ∧
      t.bit R.cabRfoffStatus F.cabRfoffStatus.bInhibit = decide (b ≠ .high) ∧ t.cab.restoreAt = none ∧
      t.fld R.cabRfoffStatus F.cabRfoffStatus.inhibits =
        min (2 ^ 32 - 1) (s.fld R.cabRfoffStatus F.cabRfoffStatus.inhibits + 1) ∧
      ((∀ x ∈ s.runs, s.runAt x.port = some x ∧ ∀ y ∈ s.runs, x.stake.idx = y.stake.idx → x = y) →
        ∀ r ∈ s.runs, r.radiating = true →
        ∃ r', t.runAt r.port = some r' ∧ r'.stake = r.stake ∧ r'.inert = some .inhibited ∧ r'.exch = none) ∧
      (∀ n, isUhfSlice n = true →
        ((s.slice n).st ≠ .off → (t.slice n).path = [.off] ∧
          (t.slice n).due = if (s.slice n).path.head? = some .off then (s.slice n).due else s.now + 200) ∧
        ((s.slice n).st = .off → (t.slice n).st = .off ∧ (t.slice n).path = [])) ∧
      (∀ n, isHfSlice n = true → (s.slice n).st = .field →
        (t.slice n).st = .rampDown ∧ (t.slice n).path = [.quiet] ∧ (t.slice n).due ≤ s.now + 2000 ∧
        (t.slice n).ramp = { from_ := (s.slice n).level true s.now, goal := 0, at_ := s.now,
                             ticks := (t.slice n).due - s.now })

/-- RF_INHIBIT_RELEASE and UHF_STANDBY_RESTORED (R69, R385): with both channels released and the latch clear the inhibit
ends, and 180 µs later the UHF slices that stand in OFF are in STANDBY, or back on their load; a channel that still indicates
inhibit, or the latch, keeps it in effect. A slice that R188 keeps in OFF (failed, or its port out of service) stays there; that one whose
retry timer runs leaves OFF is the model's choice (notes/assumptions/86.md, R188 against R95). -/
def Obligations.InhibitEnds : Prop :=
  (∀ s : State, s.up = true → s.inhibited = true → s.bit R.cabRfoffStatus F.cabRfoffStatus.latched = false →
    ∃ t, exec (.rfInhibitRelease .low .high) s = .next t ∧ t.inhibited = false ∧
      t.cab.restoreAt = some (s.now + 7200) ∧ t.runs = s.runs ∧ t.slices = s.slices) ∧
  (∀ (a b : Wire) (s : State), s.up = true → s.inhibited = true →
    (a ≠ .low ∨ b ≠ .high ∨ s.bit R.cabRfoffStatus F.cabRfoffStatus.latched = true) →
    ∃ t, exec (.rfInhibitRelease a b) s = .next t ∧ t.inhibited = true ∧ t.runs = s.runs ∧ t.slices = s.slices ∧
      t.cab.restoreAt = s.cab.restoreAt) ∧
  ∀ (at_ : Nat) (s : State), s.cab.restoreAt = some at_ →
    (at_ ≤ s.now → ∃ t, exec .uhfStandbyRestored s = .next t ∧ t.cab.restoreAt = none ∧
      ∀ n, isUhfSlice n = true → (s.slice n).st = .off →
        (s.staysOff ((s.portOf n).getD n) n = false → (t.slice n).st = (if s.onLoad n then .cal else .standby) ∧ (t.slice n).path = []) ∧
        (s.staysOff ((s.portOf n).getD n) n = true → t.slice n = s.slice n)) ∧
    (s.now < at_ → exec .uhfStandbyRestored s = .next s)

/-- RFOFF_SAMPLE (R386, R387): a sample at which the channels disagree sets disc_seen and counts; with disc_ms × 10 + 1
of them running the latch sets and the inhibit is in effect; a sample at which they agree starts the count again, and
clears the latch where both indicate inhibit. -/
def Obligations.RfoffSamples : Prop :=
  ∀ s : State, s.boot.power ≠ .off →
    (s.cab.a ≠ s.cab.b → s.fld R.cabRfoffStatus F.cabRfoffStatus.discCount < 2 ^ 14 - 1 →
      ∃ t, exec .rfoffSample s = .next t ∧ t.bit R.cabRfoffStatus F.cabRfoffStatus.discSeen = true ∧
        t.fld R.cabRfoffStatus F.cabRfoffStatus.discCount = s.fld R.cabRfoffStatus F.cabRfoffStatus.discCount + 1 ∧
        t.bit R.cabRfoffStatus F.cabRfoffStatus.latched = (s.bit R.cabRfoffStatus F.cabRfoffStatus.latched ||
          decide (10 * clamp 10 1000 (s.cfg R.cabRfoffCfg F.cabRfoffCfg.discMs) + 1 ≤
            s.fld R.cabRfoffStatus F.cabRfoffStatus.discCount + 1)) ∧
        (t.bit R.cabRfoffStatus F.cabRfoffStatus.latched = true → s.bit R.cabRfoffStatus F.cabRfoffStatus.latched = false →
          t.inhibited = true)) ∧
    (s.cab.a = s.cab.b →
      ∃ t, exec .rfoffSample s = .next t ∧ t.fld R.cabRfoffStatus F.cabRfoffStatus.discCount = 0 ∧
        t.bit R.cabRfoffStatus F.cabRfoffStatus.discSeen = s.bit R.cabRfoffStatus F.cabRfoffStatus.discSeen ∧
        t.bit R.cabRfoffStatus F.cabRfoffStatus.latched =
          (if s.cab.a then false else s.bit R.cabRfoffStatus F.cabRfoffStatus.latched))

/-- TRIGGER_EDGE and TRIGGER_SW (R63, R64, R366, R389 to R391): an edge is accepted when its level has held for the
synchroniser and filter_us, is selected, comes after the holdoff, and is the ball's own where the part drives it. It is counted and starts the holdoff;
it starts the work of an idle triggered stake 16 ticks later if its time is left, and sets the latch of a pair whose port
has no stake; an edge that is not accepted does neither. CAB_GPIO_SET, CAB_GPIO_CLR and CAB_GPIOn_CFG (R391, R392): set and
clear change only the bits written as 1; a ball's function is written, and a ball that leaves an output function is
released. -/
def Obligations.TriggersAndGpio : Prop :=
  ((∀ (m : PMaster) (t : Fin 16) (o : EdgeObs) (c : Instr) (s : State),
     (c = .triggerSw m t ∧ s.up = true ∨
       c = .triggerEdge t o ∧ s.seesEdges = true ∧ SMap.look 0 s.cab.holdoff t.val ≤ s.now ∧
         2 + usTicks (s.cfg (R.cabTrig t) F.cabTrig.filterUs) ≤ o.held ∧
         (s.ballDriven (s.cfg (R.cabTrig t) F.cabTrig.pin) = none ∨
           s.ballLevel (s.cfg (R.cabTrig t) F.cabTrig.pin) = o.level) ∧
         (s.cfg (R.cabTrig t) F.cabTrig.edge = 3 ∨ s.cfg (R.cabTrig t) F.cabTrig.edge = (if o.level then 1 else 2))) →
     ∃ u, exec c s = .next u ∧
       u.fld (R.cabTrig t) F.cabTrig.edges = (s.fld (R.cabTrig t) F.cabTrig.edges + 1) % 2 ^ 16 ∧
       SMap.look 0 u.cab.holdoff t.val = s.now + msTicks (s.cfg (R.cabTrig t) F.cabTrig.holdoffMs) ∧
       (s.bit R.schStatus F.schStatus.loaded = true → ∀ p, (t.val, p) ∈ s.planPairs →
         (∀ r, s.runAt p = some r → r.port = p → r.template = 0x30 → blkTrig r.block = t.val → r.inert = none →
           r.phase = .idle →
           16 + frontOf r.inner r.block r.stake.group + blkU r.block + tailOf r.inner r.block r.stake.hold r.stake.resumable +
             r.stake.guard ≤ r.start + r.stake.dur - s.now →
           ∃ r', u.runAt p = some r' ∧ r'.stake = r.stake ∧ r'.phase = .dispatched ∧ r'.readyAt = s.now + 16) ∧
         (s.runAt p = none → (u.latchOf t p).isSome = true))) ∧
   ∀ (t : Fin 16) (o : EdgeObs) (s : State), s.seesEdges = true →
     (s.now < SMap.look 0 s.cab.holdoff t.val ∨ o.held < 2 + usTicks (s.cfg (R.cabTrig t) F.cabTrig.filterUs) ∨
       (s.ballDriven (s.cfg (R.cabTrig t) F.cabTrig.pin)).isSome = true ∧
         s.ballLevel (s.cfg (R.cabTrig t) F.cabTrig.pin) ≠ o.level ∨
       s.cfg (R.cabTrig t) F.cabTrig.edge ≠ 3 ∧ s.cfg (R.cabTrig t) F.cabTrig.edge ≠ (if o.level then 1 else 2)) →
     ∃ u, exec (.triggerEdge t o) s = .next u ∧ u.runs = s.runs ∧ u.sch = s.sch ∧ u.regs = s.regs ∧
       u.cab.holdoff = s.cab.holdoff) ∧
  (∀ (m : PMaster) (v : Word) (s : State), s.up = true →
     (∃ t, exec (.gpioSet m v) s = .next t ∧ t.reg R.cabGpioOut = s.reg R.cabGpioOut ||| v) ∧
     (∃ t, exec (.gpioClr m v) s = .next t ∧ t.reg R.cabGpioOut = s.reg R.cabGpioOut &&& ~~~v) ∧
     ∀ n : Fin 64, ∃ t, exec (.gpioCfgWrite m n v) s = .next t ∧
       t.fld (R.cabGpioCfg n) F.cabGpioCfg.func = Word.get v F.cabGpioCfg.func ∧
       t.fld (R.cabGpioCfg n) F.cabGpioCfg.pull = Word.get v F.cabGpioCfg.pull ∧
       (0 < s.ballFunc n → s.ballFunc n < 6 → SMap.find t.cab.ext n.val = none))

/-! ### Check units, Groundsheet and Ridgepole (R244 to R251, R254 to R280) -/

/-- CHK_HOST_RUN_START and CHK_CFG_WRITE (R250, R251): pitch 0 starts a free unit over a range of Groundsheet, and it is
busy; a start while a stake claims the unit has no effect and sets run_refused; a write to the parameters while a run is
in progress, or with a width of 0 or above 64, has no effect and sets cfg_refused. CHK_HOST_RUN_DONE (R244 to R246, R250,
R252): over a range whose words are without error and have not changed since the start nor in this tick, the result is the CRC of the bytes
of the range under the unit's parameters, with the bits above its width zero; busy clears, results counts it, and empty
shows a range of no bytes. A computation over zero bits gives the initial value, reflected if refout, XOR xorout. -/
def Obligations.HostRuns : Prop :=
  (∀ (m : PMaster) (n : Fin 48) (v : Word) (s : State), s.up = true →
     (SMap.find s.hostRuns n.val = none → v.getLsbD 63 = true → s.chkClaimed n = false →
       Word.get v F.chkRun.addr + Word.get v F.chkRun.length ≤ 0x02000000 →
       ∃ t h, exec (.chkHostRunStart m n v) s = .next t ∧ SMap.find t.hostRuns n.val = some h ∧ h.run = v ∧ h.at_ = s.now ∧
         h.words = s.words (runBase v) (runBeats v) ∧ t.bit (R.chkStatus n) F.chkStatus.busy = true ∧
         t.bit (R.chkRun n) F.chkRun.start = true) ∧
     (SMap.find s.hostRuns n.val = none → v.getLsbD 63 = true → s.chkClaimed n = true →
       ∃ t, exec (.chkHostRunStart m n v) s = .next t ∧ t.bit (R.chkStatus n) F.chkStatus.runRefused = true ∧
         t.hostRuns = s.hostRuns) ∧
     (∀ r : ChkReg, (SMap.find s.hostRuns n.val).isSome = true ∨
         r = .cfg ∧ (Word.get v F.chkCfg.width = 0 ∨ 64 < Word.get v F.chkCfg.width) →
       ∃ t, exec (.chkCfgWrite m n r v) s = .next t ∧ t.bit (R.chkStatus n) F.chkStatus.cfgRefused = true ∧
         t.chkParams n = s.chkParams n) ∧
     (SMap.find s.hostRuns n.val = none →
       (∀ r : ChkReg, ∃ t, exec (.chkCfgWrite m n r v) s = .next t ∧ t.hostRuns = s.hostRuns) ∧
       (∃ t, exec (.chkCfgWrite m n .poly v) s = .next t ∧ (t.chkParams n).poly = v.toNat) ∧
       (∃ t, exec (.chkCfgWrite m n .init v) s = .next t ∧ (t.chkParams n).init = v.toNat) ∧
       (∃ t, exec (.chkCfgWrite m n .xorout v) s = .next t ∧ (t.chkParams n).xorout = v.toNat))) ∧
  ((∀ (n : Fin 48) (h : HostRun) (s : State), s.up = true → SMap.find s.hostRuns n.val = some h →
     h.words = s.words (runBase h.run) (runBeats h.run) → h.past = [] → s.tick.stores.length ≤ h.from_ →
     SMap.find s.tick.late n.val = none →
     (∀ i, i < runBeats h.run → s.upset (runBase h.run + 8 * i) = 0 ∧ s.vague (runBase h.run + 8 * i) = false) →
     ∃ t, exec (.chkHostRunDone n) s = .next t ∧ SMap.find t.hostRuns n.val = none ∧
       t.reg (R.chkResult n) = BitVec.ofNat 64 (crcOf (s.chkParams n)
         ((((h.words.flatMap Word.bytes).drop (Word.get h.run F.chkRun.addr % 8)).take (Word.get h.run F.chkRun.length)).flatMap
           (byteBits (s.chkParams n).refin)) % 2 ^ (s.chkParams n).w) ∧
       t.bit (R.chkStatus n) F.chkStatus.busy = false ∧ t.bit (R.chkRun n) F.chkRun.start = false ∧
       t.fld (R.chkStatus n) F.chkStatus.results = (s.fld (R.chkStatus n) F.chkStatus.results + 1) % 2 ^ 32 ∧
       (Word.get h.run F.chkRun.length = 0 → t.bit (R.chkStatus n) F.chkStatus.empty = true)) ∧
   ∀ c : CrcCfg, c.init < 2 ^ c.w → c.xorout < 2 ^ c.w →
     crcOf c [] = (if c.refout then reflectW c.w c.init else c.init) ^^^ c.xorout)

/-- SCRUB_VISIT and ECC_INJECT_ARM (R256, R257, R259, R279): a word found with one bit in error is corrected and counted;
one with more is counted and recorded, and a word of the internal area or of the active plan bank resets the part; a word
without error is left. Arming names the word and the bits. WHEEL_TURN_START and RR_WAIT_CLEAR (R275, R280): at a turn
start the entries of stakes that are over are free, an active stake that held entries keeps them, and RDP_RR_WAIT keeps
the longest wait with its target; pitch 0 clears it. -/
def Obligations.ScrubberAndWheel : Prop :=
  ((∀ (word : Nat) (x : Word) (s : State), word < 4194304 → s.up = true →
     s.bit R.gshScrubCfg F.gshScrubCfg.enable = true →
     (ones (s.upset (8 * word) ^^^ x) = 1 →
       ∃ t, exec (.scrubVisit word x) s = .next t ∧ t.upset (8 * word) = 0 ∧ t.mem = s.mem ∧
         t.fld R.gshEccCeCnt F.gshEccCeCnt.count = (s.fld R.gshEccCeCnt F.gshEccCeCnt.count + 1) % 2 ^ 32 ∧
         t.bit R.gshEccStatus F.gshEccStatus.ce = true ∧ t.fld R.gshEccStatus F.gshEccStatus.addr = 8 * word) ∧
     (2 ≤ ones (s.upset (8 * word) ^^^ x) → 8 * word < 0x01000000 →
       (∀ i, s.awnAt (8 * word) = some i → 0x2040 ≤ 8 * word - (s.awnRegion i).1) →
       ∃ t, exec (.scrubVisit word x) s = .next t ∧ t.upset (8 * word) = s.upset (8 * word) ^^^ x ∧ t.mem = s.mem ∧
         t.fld R.gshEccUeCnt F.gshEccUeCnt.count = (s.fld R.gshEccUeCnt F.gshEccUeCnt.count + 1) % 2 ^ 32 ∧
         t.bit R.gshEccStatus F.gshEccStatus.ue = true ∧ t.fld R.gshEccStatus F.gshEccStatus.addr = 8 * word) ∧
     (2 ≤ ones (s.upset (8 * word) ^^^ x) →
       (0x01000000 ≤ 8 * word ∧ 8 * word < 0x01400000 ∨
         0x01C00000 ≤ 8 * word ∧ 8 * word < 0x01E00000 ∧ decide (0x01D00000 ≤ 8 * word) = s.activeBank) →
       ∃ t q, exec (.scrubVisit word x) s = .next t ∧ t.boot.seq = some q ∧ q.step = 1 ∧ Cause.eccCritical ∈ q.causes) ∧
     (s.upset (8 * word) ^^^ x = 0 → ∃ t, exec (.scrubVisit word x) s = .next t ∧ t.upset (8 * word) = 0 ∧ t.regs = s.regs)) ∧
   ∀ (m : PMaster) (v : Word) (s : State), s.up = true → v.getLsbD 63 = true →
     ∃ t, exec (.eccInjectArm m v) s = .next t ∧ t.bit R.gshEccInject F.gshEccInject.arm = true ∧
       t.fld R.gshEccInject F.gshEccInject.addr = Word.get v F.gshEccInject.addr ∧
       t.fld R.gshEccInject F.gshEccInject.kind = Word.get v F.gshEccInject.kind) ∧
  ((∀ (wait : BitVec 16) (target : BitVec 5) (s : State), target.toNat < 20 → s.up = true →
     ∃ t, exec (.wheelTurnStart wait target) s = .next t ∧ t.runs = s.runs ∧
       (∀ x ∈ t.wheel, ∃ r ∈ s.runs, r.wheelTag = x.2 ∧ r.start ≤ s.now ∧ s.now < r.stop) ∧
       (∀ x ∈ s.wheel, (∃ r ∈ s.runs, r.wheelTag = x.2 ∧ r.start ≤ s.now ∧ s.now < r.stop) → x ∈ t.wheel) ∧
       t.fld R.rdpRrWait F.rdpRrWait.maxCycles = max wait.toNat (s.fld R.rdpRrWait F.rdpRrWait.maxCycles) ∧
       (s.fld R.rdpRrWait F.rdpRrWait.maxCycles < wait.toNat →
         t.fld R.rdpRrWait F.rdpRrWait.target = target.toNat)) ∧
   ∀ (m : PMaster) (s : State), s.up = true →
     ∃ t, exec (.rrWaitClear m) s = .next t ∧ t.fld R.rdpRrWait F.rdpRrWait.maxCycles = 0 ∧
       t.fld R.rdpRrWait F.rdpRrWait.target = 0)

/-- R258: a write of fewer than 8 bytes to a word with an uncorrectable error has no effect and is counted in
GSH_ECC_UE_CNT; a full 64-bit write replaces the word and clears the error, and the injector, where it is armed for the word,
puts its own (R279). Said of every word that hosts may write, through the privileged window and a pitch's region window alike
(R434), with the whole frame: a completed write leaves every other byte of Groundsheet, and every error of another word, as it was. -/
def Obligations.WritesOfBadWords : Prop :=
  ∀ (m : Master) (x a : Nat) (l : List Byte) (s : State), s.masterOn m = true → s.viewOf m x = .word a →
    s.hostMayWrite a → s.isUe a = true →
    (0 < l.length → l.length < 8 → x % 8 + l.length ≤ 8 →
      ∃ t, exec (.groundsheetWrite m x l) s = .next t ∧ sameBut [.regs 17] s t ∧
        (∀ o, o ≠ R.gshEccUeCnt → t.reg o = s.reg o) ∧
        t.fld R.gshEccUeCnt F.gshEccUeCnt.count = (s.fld R.gshEccUeCnt F.gshEccUeCnt.count + 1) % 2 ^ 32) ∧
    (l.length = 8 → x % 8 = 0 →
      ∃ t, exec (.groundsheetWrite m x l) s = .next t ∧ t.word a = wordOfBytes l ∧
        t.upset a = s.injectMask a ∧ (∀ b, b < a ∨ a + 8 ≤ b → t.byte b = s.byte b) ∧
        (∀ b, b / 8 ≠ a / 8 → t.upset b = s.upset b) ∧ t.bufs = s.bufs ∧
        sameBut [.pool, .busy, .mem, .ecc, .regs 17] s t ∧ ∀ o, o ≠ R.gshEccInject → t.reg o = s.reg o)

/-- GROUNDSHEET_READ and GROUNDSHEET_WRITE (R254, R256, R287, R434): a word without error is read as it is, by a privileged
master and by a pitch in its region, and one of two bits in error comes with the mark of an uncorrectable word; a write
into a buffer that is not HELD has no effect; a write into the active plan bank sets bank_write (R66). -/
def Obligations.HostAccess : Prop :=
  ∀ (m : Master) (a : Nat) (s : State), s.masterOn m = true → a % 8 = 0 →
    (m.val < 4 → a < 0x02000000 → (a < 0x01000000 ∨ 0x01400000 ≤ a) → s.awnAt a = none → s.vague a = false → s.upset a = 0 →
      ∃ t, exec (.groundsheetRead m (0x02000000 + a) 8) s = .next t ∧
        SMap.find t.resp m.val = some { data := [s.word a], ue := false, bad := false } ∧ t.mem = s.mem ∧ t.ecc = s.ecc) ∧
    (4 ≤ m.val → (s.region (masterPitch m)).1 ≤ a → a < (s.region (masterPitch m)).2 →
      a - (s.region (masterPitch m)).1 < 0x400000 → (s.region (masterPitch m)).1 % 8 = 0 →
      (a < 0x01000000 ∨ 0x01400000 ≤ a) → s.awnAt a = none → s.vague a = false → s.upset a = 0 →
      ∃ t, exec (.groundsheetRead m (0x400000 + (a - (s.region (masterPitch m)).1)) 8) s = .next t ∧
        SMap.find t.resp m.val = some { data := [s.word a], ue := false, bad := false }) ∧
    (m.val < 4 → a < 0x01000000 → s.awnAt a = none → s.isUe a = true →
      ∃ t w, exec (.groundsheetRead m (0x02000000 + a) 8) s = .next t ∧
        SMap.find t.resp m.val = some { data := [w], ue := true, bad := false } ∧
        t.fld R.gshEccUeCnt F.gshEccUeCnt.count = (s.fld R.gshEccUeCnt F.gshEccUeCnt.count + 1) % 2 ^ 32) ∧
    (∀ l : List Byte, m.val < 4 → a < 0x01000000 → l.length = 8 → s.awnAt a = none →
      (s.bufPitch (a / 256)).isSome = true →
      (s.buf (a / 256) ≠ .held → exec (.groundsheetWrite m (0x02000000 + a) l) s = .next s) ∧
      (s.buf (a / 256) = .held → ∃ t, exec (.groundsheetWrite m (0x02000000 + a) l) s = .next t ∧
        t.word a = wordOfBytes l ∧ t.bufs = s.bufs ∧ sameBut [.pool, .busy, .ecc, .regs 17] s t ∧
        ∀ b, b < a ∨ a + 8 ≤ b → t.byte b = s.byte b)) ∧
    (∀ l : List Byte, m.val < 4 → l.length = 8 → 0x01C00000 ≤ a → a < 0x01E00000 →
      decide (0x01D00000 ≤ a) = s.activeBank →
      ∃ t, exec (.groundsheetWrite m (0x02000000 + a) l) s = .next t ∧ sameBut [.regs 5] s t ∧
        t.bit R.schStatus F.schStatus.bankWrite = true) ∧
    (∀ l : List Byte, m.val < 4 → a < 0x02000000 → ∀ k, k < 8 →
      ∃ t, exec (.groundsheetWrite m (0x02000000 + a + k) l) s = .next t ∧
        ∀ b, b < a + k ∨ a + k + l.length ≤ b → t.byte b = s.byte b) ∧
    ∀ (l : List Byte) (d : Nat), 4 ≤ m.val → d < 0x400000 →
      ∃ t, exec (.groundsheetWrite m (0x400000 + d) l) s = .next t ∧
        ∀ b, b < (s.region (masterPitch m)).1 + d ∨ (s.region (masterPitch m)).1 + d + l.length ≤ b → t.byte b = s.byte b

/-- BUF_ALLOC and BUF_FREE (R262, R263): an allocation takes a FREE buffer of the pitch, makes it HELD and returns it with
valid at 1; with none it returns valid 0 and sets alloc_empty. A free makes a HELD buffer of the range FREE; of a FREE one
it counts a double free, of a QUEUED or WRITING one it sets queued_free, and of one outside the pitch's range it leaves a
violation record for pitch 0; none of these has another effect. A read of only the upper half of GSH_BUF_ALLOC takes no buffer. That
a privileged master gets an error response and no record for a buffer in no range of the pitch is the model's choice (R290,
notes/assumptions/43.md). -/
def Obligations.BuffersAllocated : Prop :=
  ∀ (m : Master) (q : Fin 9) (s : State), s.masterOn m = true → reachesPitch m q = true →
    (s.freeBufs q ≠ [] →
      ∃ t b, exec (.bufAlloc m q) s = .next t ∧ b ∈ s.freeBufs q ∧ t.buf b = .held ∧
        (∀ c, c ≠ b → t.buf c = s.buf c) ∧
        SMap.find t.resp m.val = some { data := [BitVec.ofNat 64 (2 ^ 63 + b)], ue := false, bad := false }) ∧
    (s.freeBufs q = [] →
      ∃ t, exec (.bufAlloc m q) s = .next t ∧ t.bit (R.gshBufStatus q) F.gshBufStatus.allocEmpty = true ∧
        t.bufs = s.bufs ∧ SMap.find t.resp m.val = some { data := [0], ue := false, bad := false }) ∧
    ∀ v : Word, (s.inRange q (v.toNat % 65536) = true →
      (s.buf (v.toNat % 65536) = .held → ∃ t, exec (.bufFree m q v) s = .next t ∧ t.buf (v.toNat % 65536) = .free ∧
        sameBut [.bufs, .busy] s t ∧ ∀ c, c ≠ v.toNat % 65536 → t.buf c = s.buf c) ∧
      (s.buf (v.toNat % 65536) = .free → ∃ t, exec (.bufFree m q v) s = .next t ∧ sameBut [.regs 17] s t ∧
        t.fld (R.gshBufStatus q) F.gshBufStatus.doubleFree =
          min 65535 (s.fld (R.gshBufStatus q) F.gshBufStatus.doubleFree + 1)) ∧
      (s.buf (v.toNat % 65536) = .queued ∨ s.buf (v.toNat % 65536) = .writing →
        ∃ t, exec (.bufFree m q v) s = .next t ∧ sameBut [.regs 17] s t ∧
          t.bit (R.gshBufStatus q) F.gshBufStatus.queuedFree = true)) ∧
      (s.inRange q (v.toNat % 65536) = false →
        (privileged m = true → ∃ t, exec (.bufFree m q v) s = .next t ∧ sameBut [.resp] s t ∧
          SMap.find t.resp m.val = some { data := [], ue := false, bad := true }) ∧
        (privileged m = false → ∃ t, exec (.bufFree m q v) s = .next t ∧ sameBut [.resp, .regs 20] s t ∧
          t.reg (R.pitViolRec (s.fld R.pitViolIdx F.pitViolIdx.index % 64) 0) = BitVec.ofNat 64 s.now ∧
          t.reg (R.pitViolRec (s.fld R.pitViolIdx F.pitViolIdx.index % 64) 1) = BitVec.ofNat 64
            (masterPitch m * 2 ^ 60 + m.val * 2 ^ 56 + 4 * 2 ^ 48 + v.toNat % 65536) ∧
          t.fld R.pitViolIdx F.pitViolIdx.index = (s.fld R.pitViolIdx F.pitViolIdx.index + 1) % 2 ^ 32)) ∧
    ∀ x, s.serves m (x + 4) = true → x % 8 = 0 → s.place m x = .reg (R.gshBufAlloc q) →
      (∀ hi, SMap.find s.pit.snap m.val ≠ some (x, hi)) →
      ∃ t, exec (.lowerHalfRead m (x + 4)) s = .next t ∧ sameBut [.resp] s t ∧ SMap.find t.resp m.val =
        some { data := [s.regWord (R.gshBufAlloc q) >>> 32], ue := false, bad := false }

/-- FIFO_POP and FIFO_FLUSH (R268, R272): a pop that names the first buffer of the oldest packet removes it, its buffers
FREE or HELD as the write says; one that does not, or of a FIFO of dir 1, of one with hif, or of an empty one, has no
effect and sets pop_refused. Pitch 0 empties a FIFO: a flush removes every committed packet and counts it in dropped, and its
buffers become FREE; held REQUEST_DONE packets stay held; a commit in the same cycle as the flush survives it, whichever of the two
writes of the cycle is named first. -/
def Obligations.FifosDrained : Prop :=
  (∀ (m : Master) (n : Fin 64) (v : Word) (s : State), s.masterOn m = true →
    (m.val < 4 ∨ s.ownsFifo (masterPitch m) n = true) →
    (∀ p l, (s.fifo n).packets = p :: l → p.chain.head? = some (Word.get v F.gshFifoPop.first) → s.fifoDir1 n = false →
      s.fifoHif n = false →
      ∃ t, exec (.fifoPop m n v) s = .next t ∧ (t.fifo n).packets = l ∧ (t.fifo n).held = (s.fifo n).held ∧
        (∀ b ∈ p.chain, t.buf b = if v.getLsbD 63 then .free else .held) ∧ (∀ b, b ∉ p.chain → t.buf b = s.buf b) ∧
        t.regs = s.regs) ∧
    ((s.fifo n).packets = [] ∨ s.fifoDir1 n = true ∨ s.fifoHif n = true ∨
        ((s.fifo n).packets.head?.bind fun p => p.chain.head?) ≠ some (Word.get v F.gshFifoPop.first) →
      ∃ t, exec (.fifoPop m n v) s = .next t ∧ t.bit (R.gshFifoStatus n) F.gshFifoStatus.popRefused = true ∧
        t.fifos = s.fifos ∧ t.bufs = s.bufs)) ∧
  (∀ (m : PMaster) (n : Fin 64) (s : State), s.up = true →
    ∃ t, exec (.fifoFlush m n) s = .next t ∧ (t.fifo n).packets = [] ∧ (t.fifo n).held = (s.fifo n).held ∧
      (∀ p ∈ (s.fifo n).packets, ∀ b ∈ p.chain, t.buf b = .free) ∧
      t.fld (R.gshFifoStatus n) F.gshFifoStatus.dropped =
        (s.fld (R.gshFifoStatus n) F.gshFifoStatus.dropped + (s.fifo n).packets.length) % 2 ^ 32) ∧
  ∀ (m b : Master) (n : Fin 64) (y : Nat) (v w : Word) (f p : HostWrite) (cs : List HostWrite) (l : List Nat) (s u : State),
    s.masterOn m = true → m.val < 4 → s.masterOn b = true → s.place b y = .reg (R.gshFifoPush n) → y % 8 = 0 →
    Word.get w F.gshFifoCtrl.flush = 1 → f = { master := m, off := R.gshFifoCtrl n, size := 8, data := w } →
    p = { master := b, off := y, size := 8, data := v } → cs = [f, p] ∨ cs = [p, f] → u = s.newCycle.flush n →
    (b.val < 4 ∨ s.ownsFifo (masterPitch b) n = true) → s.fifoOn n = true → s.fifoDir1 n = true →
    1 ≤ Word.get v F.gshFifoPush.length → Word.get v F.gshFifoPush.length ≤ 4096 →
    u.pushChain (u.fifoPitch n) (chainLen (Word.get v F.gshFifoPush.length)) (Word.get v F.gshFifoPush.first) [] = .ok l →
    u.fifoFull n = false →
    ∃ t, exec (.registerWrite cs) s = .next t ∧
      (t.fifo n).packets = [u.descriptor l (Word.get v F.gshFifoPush.length)] ∧ (t.fifo n).held = (s.fifo n).held ∧
      (∀ b ∈ l, t.buf b = .queued) ∧ (∀ p ∈ (s.fifo n).packets, ∀ b ∈ p.chain, b ∉ l → t.buf b = .free) ∧
      t.fld (R.gshFifoStatus n) F.gshFifoStatus.dropped =
        (s.fld (R.gshFifoStatus n) F.gshFifoStatus.dropped + (s.fifo n).packets.length) % 2 ^ 32

/-- FIFO_PUSH and HELD_PACKET_COMMIT (R266, R270): a push whose chain is valid, to a dir 1 FIFO that is not full, appends
the packet, makes its buffers QUEUED and counts it; any other has no effect on the FIFO and sets push_refused; where the chain
names a buffer of another pitch, the pitch that pushes also gets a violation record, and a privileged master an error response
(R289, R290). The oldest
held packet is committed once the FIFO and the free list have room, and not before. -/
def Obligations.FifosFilled : Prop :=
  (∀ (m : Master) (n : Fin 64) (v : Word) (s : State), s.masterOn m = true →
    (m.val < 4 ∨ s.ownsFifo (masterPitch m) n = true) →
    (∀ l, s.fifoOn n = true → s.fifoDir1 n = true → 1 ≤ Word.get v F.gshFifoPush.length →
      Word.get v F.gshFifoPush.length ≤ 4096 →
      s.pushChain (s.fifoPitch n) (chainLen (Word.get v F.gshFifoPush.length)) (Word.get v F.gshFifoPush.first) [] = .ok l →
      s.fifoFull n = false →
      ∃ t, exec (.fifoPush m n v) s = .next t ∧
        (t.fifo n).packets = (s.fifo n).packets ++ [s.newCycle.descriptor l (Word.get v F.gshFifoPush.length)] ∧
        (∀ b ∈ l, t.buf b = .queued) ∧ (∀ b, b ∉ l → t.buf b = s.buf b) ∧ t.mem = s.mem ∧
        t.fld (R.gshFifoSeq n) F.gshFifoSeq.seq = (s.fld (R.gshFifoSeq n) F.gshFifoSeq.seq + 1) % 2 ^ 32) ∧
    (s.fifoOn n = false ∨ s.fifoDir1 n = false ∨ Word.get v F.gshFifoPush.length = 0 ∨
        4096 < Word.get v F.gshFifoPush.length ∨
        s.pushChain (s.fifoPitch n) (chainLen (Word.get v F.gshFifoPush.length)) (Word.get v F.gshFifoPush.first) [] = .bad ∨
        s.fifoFull n = true ∧ (∃ l, s.pushChain (s.fifoPitch n) (chainLen (Word.get v F.gshFifoPush.length))
          (Word.get v F.gshFifoPush.first) [] = .ok l) →
      ∃ t, exec (.fifoPush m n v) s = .next t ∧ t.bit (R.gshFifoStatus n) F.gshFifoStatus.pushRefused = true ∧
        t.fifos = s.fifos ∧ t.bufs = s.bufs) ∧
    (∀ b, s.fifoOn n = true → s.fifoDir1 n = true → 1 ≤ Word.get v F.gshFifoPush.length →
      Word.get v F.gshFifoPush.length ≤ 4096 →
      s.pushChain (s.fifoPitch n) (chainLen (Word.get v F.gshFifoPush.length)) (Word.get v F.gshFifoPush.first) [] =
        .foreign b →
      ∃ t, exec (.fifoPush m n v) s = .next t ∧ t.bit (R.gshFifoStatus n) F.gshFifoStatus.pushRefused = true ∧
        t.fifos = s.fifos ∧ t.bufs = s.bufs ∧
        (privileged m = true → SMap.find t.resp m.val = some { data := [], ue := false, bad := true } ∧
          ∀ o, regWindow o = 20 → t.reg o = s.reg o) ∧
        (privileged m = false →
          t.reg (R.pitViolRec (s.fld R.pitViolIdx F.pitViolIdx.index % 64) 0) = BitVec.ofNat 64 s.now ∧
          t.reg (R.pitViolRec (s.fld R.pitViolIdx F.pitViolIdx.index % 64) 1) = BitVec.ofNat 64
            (masterPitch m * 2 ^ 60 + m.val * 2 ^ 56 + 4 * 2 ^ 48 + b) ∧
          t.fld R.pitViolIdx F.pitViolIdx.index = (s.fld R.pitViolIdx F.pitViolIdx.index + 1) % 2 ^ 32))) ∧
  ∀ (n : Fin 64) (ws : List Word) (l : List (List Word)) (s : State), s.up = true → s.fifoOn n = true →
    (s.fifo n).held = ws :: l →
    (∀ c, s.chainFor n ws.length = some c →
      ∃ t, exec (.heldPacketCommit n) s = .next t ∧ (t.fifo n).held = l ∧
        (t.fifo n).packets = (s.fifo n).packets ++ [s.descriptor c ws.length] ∧
        ∀ b ∈ c, t.buf b = .queued) ∧
    (s.chainFor n ws.length = none → exec (.heldPacketCommit n) s = .next s)

/-! ### Requests and keys (R59 to R62, R126, R289, R310 to R321) -/

/-- KRV_REQ, HF_FRAME, HF_APDU, GEN2_REQ and a request of a reserved type (R310, R311, R318, R321): SCH pops the head packet
of a dir 1 FIFO, once it is the one of its pitch that was appended first. A request that passes the tests is queued with its buffers FREE; one that fails ends at once in a
REQUEST_DONE with the status of the first test it fails (said here of a done FIFO that already holds one back, where the
words can be seen), and one of a pitch without a done FIFO is dropped. The tests come in the order of R310. -/
def Obligations.RequestsTaken : Prop :=
  (∀ (c : Instr) (n : Fin 64) (p : Packet) (l : List Packet) (ws : List Word) (q : Nat) (ue : Bool) (s : State),
    s.up = true → s.fifoOn n = true → s.fifoDir1 n = true → (s.fifo n).packets = p :: l → s.firstAppended n p = true →
    ws = s.readChain p.chain p.length → q = s.fifoPitch n → ue = s.chainUe p.chain p.length →
    (c = .krvReq n ∧ bf ws 0 63 56 = 1 ∨ c = .hfFrame n ∧ bf ws 0 63 56 = 2 ∨ c = .hfApdu n ∧ bf ws 0 63 56 = 3 ∨
      c = .gen2Req n ∧ bf ws 0 63 56 = 4 ∨ c = .reservedTypeRequest n ∧ (bf ws 0 63 56 = 0 ∨ 4 < bf ws 0 63 56)) →
    ∃ t, exec c s = .next t ∧ (t.fifo n).packets = l ∧
      (s.doneFifo q = none → t.requests = s.requests) ∧
      ((s.doneFifo q).isSome = true → s.admission q ue ws = none → (∀ b ∈ p.chain, t.buf b = .free) ∧
        t.requests = s.requests ++
          [{ pitch := q, port := bf ws 2 63 56, type := bf ws 0 63 56, words := ws, commitAt := s.now, cycles := 0 }]) ∧
      (∀ st v d, s.doneFifo q = some d → s.fifoOn d = true → (s.fifo d).held ≠ [] →
        s.admission q ue ws = some (st, v) → t.requests = s.requests ∧
        ∃ w, (t.fifo d).held = (s.fifo d).held ++ [w] ∧ bf w 0 63 56 = 0x24 ∧ bf w 1 31 0 = bf ws 1 31 0 ∧
          bf w 2 63 56 = bf ws 2 63 56 ∧ bf w 2 55 48 = st.code ∧ bf w 2 47 40 = bf ws 0 63 56 ∧
          bf w 2 31 0 = bf ws 0 31 0 ∧ bf w 3 63 0 = s.now % 2 ^ 64)) ∧
  (∀ (c : Instr) (n : Fin 64) (p : Packet) (l : List Packet) (s : State), (s.fifo n).packets = p :: l →
    s.firstAppended n p = false →
    c = .krvReq n ∨ c = .hfFrame n ∨ c = .hfApdu n ∨ c = .gen2Req n ∨ c = .reservedTypeRequest n → exec c s = .next s) ∧
  ∀ (q : Nat) (ws : List Word) (s : State),
    (bf ws 1 63 32 ≠ s.clock.epoch.toNat → s.admission q false ws = some (.abandoned, none)) ∧
    (bf ws 1 63 32 = s.clock.epoch.toNat → bf ws 0 55 48 ≠ q → s.admission q false ws = some (.badParam, some (6, bf ws 0 55 48))) ∧
    (bf ws 1 63 32 = s.clock.epoch.toNat → bf ws 0 55 48 = q → ws.length < 3 ∨ 72 < ws.length →
      s.admission q false ws = some (.badLength, none)) ∧
    (bf ws 1 63 32 = s.clock.epoch.toNat → bf ws 0 55 48 = q → 3 ≤ ws.length → ws.length ≤ 72 →
      bf ws 0 47 32 = ws.length → bf ws 0 63 56 = 0 ∨ 4 < bf ws 0 63 56 → s.admission q false ws = some (.badParam, none)) ∧
    (bf ws 1 63 32 = s.clock.epoch.toNat → bf ws 0 55 48 = q → reqLenOk ws = true → reqFieldsOk ws = true →
      (s.ownsPort q (bf ws 2 63 56) = false → s.admission q false ws = some (.badParam, some (3, bf ws 2 63 56))) ∧
      (s.ownsPort q (bf ws 2 63 56) = true → reqPortOk ws = true → (reqKeyed ws = true → s.ownsKey q (reqKey ws) = true) →
        s.requestRoom q ≤ s.requestsHeld q → s.admission q false ws = some (.queueFull, none)))

/-- REQUEST_START and REQUEST_WAIT_EXPIRED (R59 to R62): in a HOST_REQ stake that serves it, the first request of the port
starts when it fits before the tail, and waits when it does not; in a stake that performs no radio action it ends. Requests
of the port that have waited SCH_REQ_WAIT cycles leave the queue, and no other. That SCH_REQ_WAIT 0 acts as 1 and that the cycles are
counted at the boundaries passed (notes/assumptions/104.md), and that a request ends in a stake without radio action
(notes/assumptions/58.md), is the model's choice. -/
def Obligations.RequestsServed : Prop :=
  (∀ (p : Nat) (r : Run) (x : Request) (f : Nat) (s : State), isPort p = true → s.runAt p = some r →
    s.firstRequest r.pitch p = some x → (r.template = 0x09 ∨ r.template = 0x11) → r.request = none →
    r.start + 16 ≤ s.now → (r.phase = .idle ∨ r.phase = .active) → s.now < r.tailAt →
    serves r.stake r.block r.pitch x.words = true → s.inhibited = false →
    f = (if r.phase = .active ∧ s.fieldUp r = true then 0 else reqFront r.block x.words) →
    (r.inert = none → s.now + f + reqTicks r.block x.words ≤ r.tailAt →
      ∃ t r', exec (.requestStart p) s = .next t ∧ t.runAt p = some r' ∧ r'.stake = r.stake ∧ r'.request = some x ∧
        t.requests = dropFirst r.pitch p s.requests) ∧
    (r.inert = none → r.tailAt < s.now + f + reqTicks r.block x.words → exec (.requestStart p) s = .next s) ∧
    (r.inert.isSome = true →
      ∃ t, exec (.requestStart p) s = .next t ∧ t.runs = s.runs ∧ t.requests = dropFirst r.pitch p s.requests)) ∧
  ∀ (q p : Nat) (s : State), q ≤ 8 → isPort p = true →
    ∃ t, exec (.requestWaitExpired q p) s = .next t ∧
      (∀ x, x ∈ t.requests ↔ x ∈ s.requests ∧
        ¬ (x.pitch = q ∧ x.port = p ∧ max 1 (s.cfg R.schReqWait F.schReqWait.cycles) ≤ x.cycles)) ∧
      ((∀ x ∈ s.requests, x.pitch = q → x.port = p → x.cycles < max 1 (s.cfg R.schReqWait F.schReqWait.cycles)) → t = s)

/-- BUDGET_ENTRY_EXPIRED (R126): the entry of a pitch and an identifier clears once window_s seconds, at least 60, have
passed since it opened, and not before. KEY_LOAD and SEC_KEY_LOAD (R289, R291, R365): with go set, a slot that the pitch
owns takes the key from the pitch's data registers, the least significant word first, the low 128 bits of it for a 128-bit
key (that the high half of the slot is then zero is the model's choice, notes/assumptions/44.md), and the data registers are cleared; a slot it does not own is a violation and nothing is loaded. Pitch 0 loads any
slot. -/
def Obligations.BudgetAndKeys : Prop :=
  (∀ (q : Nat) (id : BitVec 128) (e : BudgetEntry) (s : State), q ≤ 8 → s.budgetEntry q id = some e →
     (e.openedAt + sTicks (max 60 (s.cfg R.secKrvBudget F.secKrvBudget.windowS)) ≤ s.now →
       ∃ t, exec (.budgetEntryExpired q id) s = .next t ∧ t.budgetEntry q id = none ∧ t.sec.keys = s.sec.keys) ∧
     (s.now < e.openedAt + sTicks (max 60 (s.cfg R.secKrvBudget F.secKrvBudget.windowS)) →
       exec (.budgetEntryExpired q id) s = .next s)) ∧
  ((∀ (p : Fin 9) (m : Master) (v : Word) (s : State), p.val ≠ 0 → m.val = 3 + p.val → s.masterOn m = true →
     v.getLsbD 63 = true →
     (s.ownsKey p (v.toNat % 64) = true →
       ∃ t, exec (.keyLoad p v) s = .next t ∧
         (∀ i, i < 4 → (v.getLsbD 8 = true ∨ i < 2) →
           ((SMap.look 0 t.sec.keys (v.toNat % 64)) >>> (64 * i)).setWidth 64 = SMap.look 0 s.sec.keyData (4 + 4 * p + i)) ∧
         (v.getLsbD 8 = false → (SMap.look 0 t.sec.keys (v.toNat % 64)) >>> 128 = 0) ∧
         SMap.look false t.sec.long (v.toNat % 64) = v.getLsbD 8 ∧
         (∀ k, k ≠ v.toNat % 64 → SMap.look 0 t.sec.keys k = SMap.look 0 s.sec.keys k) ∧
         ∀ i, i < 4 → SMap.look 0 t.sec.keyData (4 + 4 * p + i) = 0) ∧
     (s.ownsKey p (v.toNat % 64) = false →
       ∃ t, exec (.keyLoad p v) s = .next t ∧ t.sec = s.sec ∧
         t.fld (R.pitStatus p) F.pitStatus.violations =
           min 0xFFFFFFFF (s.fld (R.pitStatus p) F.pitStatus.violations + 1) ∧
         t.reg (R.pitViolRec (s.fld R.pitViolIdx F.pitViolIdx.index % 64) 1) =
           BitVec.ofNat 64 (p * 2 ^ 60 + m.val * 2 ^ 56 + 5 * 2 ^ 48 + v.toNat % 64))) ∧
   ∀ (m : PMaster) (v : Word) (s : State), s.up = true → v.getLsbD 63 = true →
     ∃ t, exec (.secKeyLoad m v) s = .next t ∧
       (∀ i, i < 4 → (v.getLsbD 8 = true ∨ i < 2) →
         ((SMap.look 0 t.sec.keys (v.toNat % 64)) >>> (64 * i)).setWidth 64 = SMap.look 0 s.sec.keyData i) ∧
       (∀ k, k ≠ v.toNat % 64 → SMap.look 0 t.sec.keys k = SMap.look 0 s.sec.keys k) ∧
       ∀ i, i < 4 → SMap.look 0 t.sec.keyData i = 0)

/-! ### Pitches and hosts (R6, R286 to R306, R413) -/

/-- Accesses to registers (R6, R286, R413, R414, R320, R315). A 32-bit read of a lower half snapshots the upper half, which
the master's read of the upper half then takes; under another tag it reads the live bits. A write of an upper half alone
changes nothing but the stage, and the write of the lower half that follows writes all 64 bits. A plain register takes its
rw fields, its w1c fields are cleared by ones unless the part has set them in this tick, and its rwl fields are ro after
lock and in a pitch view; of two masters that
write it in one cycle the lower wins, and PIT_CONTEND counts the other. REG_READ and REG_WRITE act as the endpoint's master
and end in a REQUEST_DONE (said of a done FIFO that holds one back); one with an uncorrectable word in its buffers is not executed
and ends in ABANDONED (R257). -/
def Obligations.RegisterAccesses : Prop :=
  (∀ (m : Master) (x r : Nat) (s : State), s.serves m x = true → s.serves m (x + 4) = true → x % 8 = 0 →
    s.place m x = .reg r → arr (R.gshBufAlloc 0) 0x20 9 r = none →
    (∃ t, exec (.lowerHalfRead m x) s = .next t ∧ t.regs = s.regs ∧
      SMap.find t.resp m.val = some { data := [s.regWord r &&& 0xFFFFFFFF], ue := false, bad := false } ∧
      SMap.find t.pit.snap m.val = some (x, (s.regWord r >>> 32).setWidth 32)) ∧
    (∀ hi, SMap.find s.pit.snap m.val = some (x, hi) →
      ∃ t, exec (.lowerHalfRead m (x + 4)) s = .next t ∧ SMap.find t.pit.snap m.val = none ∧
        SMap.find t.resp m.val = some { data := [hi.setWidth 64], ue := false, bad := false }) ∧
    ((∀ hi, SMap.find s.pit.snap m.val ≠ some (x, hi)) →
      ∃ t, exec (.lowerHalfRead m (x + 4)) s = .next t ∧ t.pit = s.pit ∧
        SMap.find t.resp m.val = some { data := [s.regWord r >>> 32], ue := false, bad := false }) ∧
    ∀ v : BitVec 32, ∃ t, exec (.upperHalfWrite m (x + 4) v) s = .next t ∧ sameBut [.pit] s t ∧
      SMap.find t.pit.stage m.val = some (x, v)) ∧
  (∀ (m : Master) (r x : Nat) (d : RegDesc) (v : Word) (s : State), s.serves m x = true → x % 8 = 0 →
    s.place m x = .reg r → regAt r = some d → hookAt [writeHooks0, writeHooks1, writeHooks2].flatten r = none →
    (∃ t, exec (.registerWrite [{ master := m, off := x, size := 8, data := v }]) s = .next t ∧
      t.reg r = mergeWrite (s.locked || !privileged m) d (s.reg r) (s.taken d r v) ∧ ∀ o, o ≠ r → t.reg o = s.reg o) ∧
    (∀ hi, SMap.find s.pit.stage m.val = some (x, hi) →
      ∃ t, exec (.registerWrite [{ master := m, off := x, size := 4, data := v }]) s = .next t ∧
        t.reg r = mergeWrite (s.locked || !privileged m) d (s.reg r)
          (s.taken d r (((hi.setWidth 64) <<< 32) ||| (v &&& 0xFFFFFFFF))) ∧
        SMap.find t.pit.stage m.val = none) ∧
    (∀ (b : Master) (y : Nat) (u : Word), m.val < b.val → s.serves b y = true → y % 8 = 0 → s.place b y = .reg r →
      d.accMask (fun a => decide (a = .w1c) || decide (a = .sc)) = 0 → r ≠ R.pitContend →
      ∃ t, exec (.registerWrite [{ master := b, off := y, size := 8, data := u },
          { master := m, off := x, size := 8, data := v }]) s = .next t ∧
        t.reg r = mergeWrite (s.locked || !privileged m) d (s.reg r) v ∧
        t.fld R.pitContend F.pitContend.count = min 0xFFFFFFFF (s.fld R.pitContend F.pitContend.count + 1) ∧
        t.fld R.pitContend F.pitContend.master = b.val)) ∧
  ∀ (q : Fin 9) (x r n : Nat) (ws : List Word) (m : Master) (s : State), bf ws 0 55 48 = q → bf ws 2 47 32 = 1 →
    m = epMaster q x → bf ws 2 31 0 % 8 = 0 → (s.popInbox q).place m (bf ws 2 31 0) = .reg r → s.doneFifo q = some n →
    s.fifoOn n = true → (s.fifo n).held ≠ [] →
    (s.firstMessage q 0x08 = some (x, ws) → s.inboxUe q = false → ws.length = 3 → arr (R.gshBufAlloc 0) 0x20 9 r = none →
      ∃ t w, exec (.regRead q) s = .next t ∧ (t.ep q).inbox = (s.ep q).inbox.drop 1 ∧
        (t.fifo n).held = (s.fifo n).held ++ [w] ∧ bf w 0 63 56 = 0x24 ∧ bf w 2 55 48 = 0 ∧ bf w 2 47 40 = 0x08 ∧
        bf w 4 15 0 = 1 ∧ w.getD 5 0 = (s.popInbox q).regWord r) ∧
    (∀ c type, (c, type) ∈ [(Instr.regRead q, 0x08), (.regWrite q, 0x09)] → s.firstMessage q type = some (x, ws) →
      s.inboxUe q = true →
      ∃ t w, exec c s = .next t ∧ (t.ep q).inbox = (s.ep q).inbox.drop 1 ∧
        (t.fifo n).held = (s.fifo n).held ++ [w] ∧ bf w 0 63 56 = 0x24 ∧ bf w 2 55 48 = 0x10 ∧ bf w 2 47 40 = type ∧
        bf w 4 15 0 = 0 ∧ ∀ o, regWindow o ∉ [17, 28] → t.reg o = s.reg o) ∧
    (∀ d v, s.firstMessage q 0x09 = some (x, ws) → s.inboxUe q = false → ws.length = 4 → v = ws.getD 3 0 → regAt r = some d →
      hookAt [writeHooks0, writeHooks1, writeHooks2].flatten r = none → regWindow r ∉ [17, 20, 28] →
      ∃ t w, exec (.regWrite q) s = .next t ∧ (t.ep q).inbox = (s.ep q).inbox.drop 1 ∧
        t.reg r = mergeWrite (s.locked || !privileged m) d (s.reg r) (s.taken d r v) ∧
        (t.fifo n).held = (s.fifo n).held ++ [w] ∧ bf w 2 55 48 = 0 ∧ bf w 2 47 40 = 0x09 ∧ bf w 4 15 0 = 0)

/-- RING_WRITE, RING_DELIVER, PERST, MSIX_UNMASK and VF_ENABLE_WRITE (R257, R293, R294, R296, R298): a ring register is
written and P and C are 0; the head packet is written into the ring where it fits, split where the ring wraps, with the new
P in its last word, and popped with its buffers FREE; one that does not fit waits, and one with an uncorrectable word is
dropped with ue_drop. PERST_N resets the endpoint and the ring registers, while plans and FIFOs run on. Unmasking a vector sends its
pending message, once; the layout of an MSI-X entry is that of PCI Express (notes/assumptions/32.md). -/
def Obligations.PcieRings : Prop :=
  (∀ (m : Master) (n : Fin 64) (v : Word) (s : State), s.masterOn m = true →
    (m.val < 4 ∨ s.ownsFifo (masterPitch m) n = true) →
    ∃ t, exec (.ringWrite m n v) s = .next t ∧ t.reg (R.hifRing n) = v ∧ t.prodIdx n = 0 ∧ t.consIdx n = 0 ∧
      t.fifos = s.fifos) ∧
  (∀ (n : Fin 64) (p : Packet) (l : List Packet) (N P : Nat) (s : State), s.ringOn n = true →
    (s.fifo n).packets = p :: l → N = s.ringSize n → P = s.prodIdx n →
    (s.chainUe p.chain p.length = false → (s.readChain p.chain p.length).length = p.length →
      p.length ≤ (s.consIdx n + 2 * (N - 1) - P - 1) % (N - 1) →
      ∃ t, exec (.ringDeliver n) s = .next t ∧ (t.fifo n).packets = l ∧ t.prodIdx n = (P + p.length) % (N - 1) ∧
        t.consIdx n = s.consIdx n ∧ (∀ b ∈ p.chain, t.buf b = .free) ∧
        (s.bit (R.hifRing n) F.hifRing.irq = false → t.out =
          .pcieWrite (BitVec.ofNat 64 (s.ringBase n + 8 * (N - 1))) [BitVec.ofNat 64 ((P + p.length) % (N - 1))] ::
          ((if p.length ≤ N - 1 - P then []
            else [.pcieWrite (BitVec.ofNat 64 (s.ringBase n)) ((s.readChain p.chain p.length).drop (N - 1 - P))]) ++
           (.pcieWrite (BitVec.ofNat 64 (s.ringBase n + 8 * P)) ((s.readChain p.chain p.length).take (N - 1 - P)) ::
            s.out)))) ∧
    ((s.consIdx n + 2 * (N - 1) - P - 1) % (N - 1) < p.length → exec (.ringDeliver n) s = .next s) ∧
    (s.chainUe p.chain p.length = true → p.length ≤ (s.consIdx n + 2 * (N - 1) - P - 1) % (N - 1) →
      ∃ t, exec (.ringDeliver n) s = .next t ∧ (t.fifo n).packets = l ∧ t.prodIdx n = P ∧ t.out = s.out ∧
        t.fld (R.gshFifoStatus n) F.gshFifoStatus.dropped =
          (s.fld (R.gshFifoStatus n) F.gshFifoStatus.dropped + 1) % 2 ^ 32 ∧
        t.bit (R.gshFifoStatus n) F.gshFifoStatus.overrun = true ∧
        t.bit (R.gshFifoStatus n) F.gshFifoStatus.ueDrop = true)) ∧
  (∀ s : State, s.up = true → ∃ t, exec .perst s = .next t ∧
    (∀ n : Fin 64, t.reg (R.hifRing n) = 0 ∧ t.prodIdx n = 0 ∧ t.consIdx n = 0) ∧ t.hif.numVfs = 0 ∧
    t.hif.vfEnable = false ∧ t.fifos = s.fifos ∧ t.sch = s.sch ∧ t.runs = s.runs ∧ t.boot = s.boot) ∧
  (∀ (fn : Fin 9) (vec : Fin 64) (s : State), s.up = true → s.fnOn fn = true →
    ∃ t, exec (.msixUnmask fn vec) s = .next t ∧ (t.msixWord (128 * fn + 2 * vec + 1)).getLsbD 32 = false ∧
      SMap.look false t.hif.msixPend (64 * fn + vec) = false ∧
      (SMap.look false s.hif.msixPend (64 * fn + vec) = false → t.out = s.out) ∧
      (SMap.look false s.hif.msixPend (64 * fn + vec) = true → t.out = .msix fn vec (s.msixWord (128 * fn + 2 * vec))
        ((s.msixWord (128 * fn + 2 * vec + 1)).setWidth 32) :: s.out)) ∧
  ∀ (k : BitVec 16) (on : Bool) (s : State),
    (s.up = true → s.hif.pcieUp = true → ∃ t, exec (.vfEnableWrite k on) s = .next t ∧ t.hif.numVfs = k.toNat ∧
      t.hif.vfEnable = on ∧ ∀ q, t.vfOn q = (decide (1 ≤ q) && decide (q ≤ 8) && decide (q ≤ k.toNat) && on &&
        s.bit (R.pitCfg q) F.pitCfg.enable && s.bit (R.pitCfg q) F.pitCfg.pcie)) ∧
    (s.up = false ∨ s.hif.pcieUp = false → exec (.vfEnableWrite k on) s = .next s)

/-- DOORBELL and REQUEST_FETCH_DONE (R297, R299), in the view of a pitch that owns the FIFO. Dir 0 with ring 1: the write
sets C to bits [31:0], but a C that would pass P has no effect and is recorded as WRITE_OUTSIDE. Dir 0 with hif 0: it has no
effect. Dir 1: it names a host address, and HIF fetches a packet from there: the words of the length that word 0 gives go
into buffers of the pitch's free list and are pushed; with a length of 0 or above 4,096, without buffers, when the read
fails, or when the injector makes a link word uncorrectable, nothing is pushed and push_refused sets. That a C outside the ring counts
as passing P, and that the buffers are taken within REQUEST_FETCH_DONE (notes/assumptions/48.md), is the model's reading. -/
def Obligations.Doorbells : Prop :=
  (∀ (m : Master) (n : Fin 64) (v : Word) (M P C : Nat) (s : State), s.masterOn m = true → 4 ≤ m.val →
    s.ownsFifo (masterPitch m) n = true → M = s.ringSize n - 1 → P = s.prodIdx n → C = s.consIdx n →
    (s.fifoDir1 n = false → s.fifoHif n = true → s.bit (R.hifRing n) F.hifRing.ring = true →
      (v.toNat % 2 ^ 32 < M → (v.toNat % 2 ^ 32 + M - C) % M ≤ (P + M - C) % M →
        ∃ t, exec (.doorbell m n v) s = .next t ∧ t.consIdx n = v.toNat % 2 ^ 32 ∧ t.prodIdx n = P ∧ sameBut [.hif] s t) ∧
      (M ≤ v.toNat % 2 ^ 32 ∨ (P + M - C) % M < (v.toNat % 2 ^ 32 + M - C) % M →
        ∃ t, exec (.doorbell m n v) s = .next t ∧ sameBut [.resp, .regs 20] s t ∧
          t.reg (R.pitViolRec (s.fld R.pitViolIdx F.pitViolIdx.index % 64) 1) = BitVec.ofNat 64
            (masterPitch m * 2 ^ 60 + m.val * 2 ^ 56 + 2 * 2 ^ 48 + (0x010000 + 8 * n)) ∧
          t.fld R.pitViolIdx F.pitViolIdx.index = (s.fld R.pitViolIdx F.pitViolIdx.index + 1) % 2 ^ 32)) ∧
    (s.fifoDir1 n = false → s.fifoHif n = false → exec (.doorbell m n v) s = .next s) ∧
    (s.fifoDir1 n = true → ∃ t, exec (.doorbell m n v) s = .next t ∧
      t.hif.fetches = s.hif.fetches ++ [(n.val, v &&& ~~~7)] ∧ t.regs = s.regs ∧ t.fifos = s.fifos)) ∧
  ∀ (n : Fin 64) (a : Word) (l : List (Nat × Word)) (ok : Bool) (ws : List Word) (len : Nat) (s : State), s.up = true →
    s.hif.fetches = (n.val, a) :: l → len = bf ws 0 47 32 → s.fifoDir1 n = true →
    (∀ c, ok = true → len ≤ ws.length → 1 ≤ len → len ≤ 4096 → s.fifoOn n = true → s.fifoFull n = false →
      pickMany s.fresh (chainLen len) (s.freeBufs (s.fifoPitch n)) = some c →
      ((∀ b ∈ c, ones (s.injectMask (256 * b + 248)) < 2) →
        ∃ t, exec (.requestFetchDone n ok ws) s = .next t ∧ t.hif.fetches = l ∧
          (t.fifo n).packets = (s.fifo n).packets ++ [s.newCycle.descriptor c len] ∧ ∀ b ∈ c, t.buf b = .queued) ∧
      ((∃ b ∈ c, 2 ≤ ones (s.injectMask (256 * b + 248))) →
        ∃ t, exec (.requestFetchDone n ok ws) s = .next t ∧ t.hif.fetches = l ∧ t.fifos = s.fifos ∧ t.bufs = s.bufs ∧
          t.bit (R.gshFifoStatus n) F.gshFifoStatus.pushRefused = true)) ∧
    (ok = false ∨ len = 0 ∨ 4096 < len ∨ ws.length < len ∨
        pickMany s.fresh (chainLen len) (s.freeBufs (s.fifoPitch n)) = none →
      ∃ t, exec (.requestFetchDone n ok ws) s = .next t ∧ t.hif.fetches = l ∧ t.fifos = s.fifos ∧ t.bufs = s.bufs ∧
        t.bit (R.gshFifoStatus n) F.gshFifoStatus.pushRefused = true)

/-- ETH_DATAGRAM_RX and the source entries (R300 to R303). A datagram to the port that is malformed or longer than the MTU
is dropped unread and counted; one from a blocked source is dropped. An enabled endpoint, a tag that verifies, the current
epoch and a count above the highest accepted authenticate it, and its sender becomes the peer; a stale epoch is answered at
most once per 100 ms; any other is a failure, counted in HIF_ETH_AUTH.fail and against its source, and the 16th blocks. An
entry clears when its block or its counting time of 60 s has ended. -/
def Obligations.EthernetReception : Prop :=
  (∀ (x : Fin 2) (d : Datagram) (s : State), s.ethUp x = true → s.ethMine x d = true →
    (d.malformed = true ∨ s.ethMtu x < 8 * d.words.length + 28 →
      ∃ t, exec (.ethDatagramRx x d) s = .next t ∧ t.hif = s.hif ∧
        t.fld (R.hifEthStatus x) F.hifEthStatus.dropped = (s.fld (R.hifEthStatus x) F.hifEthStatus.dropped + 1) % 2 ^ 32) ∧
    (d.malformed = false → 8 * d.words.length + 28 ≤ s.ethMtu x →
      (s.ethBlocked d.srcIp = true → exec (.ethDatagramRx x d) s = .next s) ∧
      (s.ethBlocked d.srcIp = false → 3 ≤ d.words.length → bf d.words 0 63 56 = 1 → ∀ q, q = bf d.words 0 55 48 →
        s.epOn q = true → s.epPort q x = true →
        (s.tagOk q d.words = true → bf d.words 1 63 32 = s.clock.epoch.toNat → (s.ep q).inHigh < bf d.words 1 31 0 →
          ∃ t, exec (.ethDatagramRx x d) s = .next t ∧ (t.ep q).inHigh = bf d.words 1 31 0 ∧
            t.reg (R.hifEpPeer q) = BitVec.ofNat 64 (d.srcUdp.toNat * 2 ^ 32 + d.srcIp.toNat) ∧
            t.reg (R.hifEpPeerMac q) = d.srcMac.setWidth 64 ∧ t.hif.sources = s.hif.sources) ∧
        (s.tagOk q d.words = true → bf d.words 1 63 32 < s.clock.epoch.toNat →
          (∀ a, (s.ep q).epochAt = some a → s.now < a + 4000000 → exec (.ethDatagramRx x d) s = .next s) ∧
          ((s.ep q).epochAt = none → ∃ t, exec (.ethDatagramRx x d) s = .next t ∧ (t.ep q).epochAt = some s.now ∧
            t.hif.sources = s.hif.sources ∧ ∃ ws, t.out = .eth x ((s.reg (R.hifEpPeerMac q)).setWidth 48)
              ((s.reg (R.hifEpPeer q)).setWidth 32) (BitVec.ofNat 16 (s.fld (R.hifEpPeer q) F.hifEpPeer.udp)) ws :: s.out ∧
              bf ws 2 63 56 = 0x30 ∧ bf ws 4 47 32 = 0x31)) ∧
        (s.tagOk q d.words = false ∨
            bf d.words 1 63 32 = s.clock.epoch.toNat ∧ bf d.words 1 31 0 ≤ (s.ep q).inHigh →
          ∃ t, exec (.ethDatagramRx x d) s = .next t ∧ t.hif.eps = s.hif.eps ∧
            t.fld R.hifEthAuth F.hifEthAuth.fail = (s.fld R.hifEthAuth F.hifEthAuth.fail + 1) % 2 ^ 32 ∧
            (s.hif.sources = [] →
              t.hif.sources = [{ ip := d.srcIp, fails := 1, openedAt := s.now, blockedAt := none }]) ∧
            (∀ a, s.hif.sources = [{ ip := d.srcIp, fails := 15, openedAt := a, blockedAt := none }] →
              s.now < a + 2400000000 → t.ethBlocked d.srcIp = true))))) ∧
  ∀ (ip : BitVec 32) (s : State), ∃ t, exec (.ethSourceEntryExpired ip) s = .next t ∧
    ∀ e, e ∈ t.hif.sources ↔
      e ∈ s.hif.sources ∧ (e.ip = ip → s.now < e.blockedAt.getD e.openedAt + 2400000000)

/-- ETH_TRANSMIT, ACK, ETH_RETX_TIMEOUT and the links (R301, R305, R315, R322): a packet goes to the peer in one datagram under
the next outbound count, with its tag, and waits for acknowledgement; an ACK pops the packets it covers; after retx_ms the
packets go out again, and after 8 sends they are popped, counted as lost, and peer_lost sets. That an endpoint has one timer, which
counts from its last datagram, is the model's reading (notes/assumptions/47.md). An ACK whose buffers hold an uncorrectable word is
dropped without effect on the FIFO (notes/assumptions/114.md). -/
def Obligations.EthernetDelivery : Prop :=
  (∀ (q : Fin 9) (x : Fin 2) (n : Nat) (p : Packet) (s : State), s.epOn q = true → s.epPort q x = true →
    s.ethUp x = true → s.ethFifos q = [n] → (s.fifo n).packets = [p] → (s.ep q).flight = [] →
    s.chainUe p.chain p.length = false → (s.readChain p.chain p.length).length = p.length → 1 ≤ p.length →
    p.length ≤ s.ethRoom x →
    ∃ t body, exec (.ethTransmit q x) s = .next t ∧
      body = [BitVec.ofNat 64 (2 ^ 56 + q * 2 ^ 48), word2 s.clock.epoch.toNat (s.ep q).outNext] ++
        s.readChain p.chain p.length ∧
      t.out = .eth x ((s.reg (R.hifEpPeerMac q)).setWidth 48) ((s.reg (R.hifEpPeer q)).setWidth 32)
        (BitVec.ofNat 16 (s.fld (R.hifEpPeer q) F.hifEpPeer.udp))
        (body ++ [(cmac (s.slotKey (s.fld (R.hifEpCfg q) F.hifEpCfg.keySlot))
          (body.flatMap Word.bytes)).setWidth 64]) :: s.out ∧
      (t.ep q).outNext = (s.ep q).outNext + 1 ∧ (t.ep q).flight = [(n, 1)] ∧ (t.ep q).sends = 1 ∧
      t.fld (R.hifEpStatus q) F.hifEpStatus.waiting = 1 ∧ t.fifos = s.fifos) ∧
  (∀ (q : Fin 9) (x n k f : Nat) (ws : List Word) (s : State), s.firstMessage q 0x1F = some (x, ws) →
    bf ws 0 55 48 = q → ws.length = 3 → n = bf ws 2 63 58 → s.ownsFifo q n = true → f = SMap.look 0 (s.ep q).flight n →
    k = (if s.inboxUe q then 0 else s.acked (BitVec.ofNat 32 (bf ws 2 31 0)) f (s.fifo n).packets) →
    ∃ t, exec (.ack q) s = .next t ∧ (t.fifo n).packets = (s.fifo n).packets.drop k ∧
      (t.ep q).inbox = (s.ep q).inbox.drop 1 ∧ SMap.look 0 (t.ep q).flight n = f - k) ∧
  (∀ (q : Fin 9) (s : State), s.epOn q = true → (s.ep q).waiting ≠ 0 →
    (s.now < (s.ep q).lastTx + 40000 * max 1 (s.fld (R.hifEpCfg q) F.hifEpCfg.retxMs) →
      exec (.ethRetxTimeout q) s = .next s) ∧
    ((s.ep q).lastTx + 40000 * max 1 (s.fld (R.hifEpCfg q) F.hifEpCfg.retxMs) ≤ s.now →
      (∀ x, (s.ep q).sends < 8 → s.resendPort q = some x → ∃ t, exec (.ethRetxTimeout q) s = .next t ∧
        (t.ep q).sends = (s.ep q).sends + 1 ∧ (t.ep q).lastTx = s.now) ∧
      (8 ≤ (s.ep q).sends → ∃ t, exec (.ethRetxTimeout q) s = .next t ∧ (t.ep q).flight = [] ∧
        t.fld (R.hifEpStatus q) F.hifEpStatus.lost =
          (s.fld (R.hifEpStatus q) F.hifEpStatus.lost + (s.ep q).waiting) % 2 ^ 32 ∧
        t.fld (R.hifEpStatus q) F.hifEpStatus.waiting = 0 ∧
        t.bit (R.hifEpStatus q) F.hifEpStatus.peerLost = true))) ∧
  ∀ (x : Fin 2) (s : State), s.up = true →
    (∃ t, exec (.ethLinkDown x) s = .next t ∧ t.fld (R.hifEthStatus x) F.hifEthStatus.speed = 0) ∧
    ∀ v : BitVec 3, s.boot.scanHeld = false → s.bit (R.hifEthCfg x) F.hifEthCfg.enable = true → 1 ≤ v.toNat →
      v.toNat ≤ 4 → ∃ t, exec (.ethLinkUp x v) s = .next t ∧ t.fld (R.hifEthStatus x) F.hifEthStatus.speed = v.toNat

/-- The SPI target (R306, R307, R364; that an UNLOCK without a nonce counts as a failure, that any count of 4 or more blocks, that
the data of a refused READ are free, and that last_failed follows the CRC of a refused WRITE too, is the model's reading,
notes/assumptions/49.md). STATUS shows the flags; CHALLENGE gives a nonce, and UNLOCK with its CMAC unlocks
and clears the failures, while another tag counts one, the fourth blocks for 60 s; a write whose CRC fails writes nothing and
is shown in the next status, and while locked no write has effect and reads past the capability list give the locked status. -/
def Obligations.SpiTarget : Prop :=
  ∀ s : State, s.up = true →
    (∃ t b, exec .spiStatus s = .next t ∧ t.out = .spi [b] :: s.out ∧ b.getLsbD 0 = s.hif.spi.lastFailed ∧
      b.getLsbD 1 = s.bit R.hifSpiStatus F.hifSpiStatus.locked ∧ b.getLsbD 2 = !s.hif.spi.intN ∧
      b.getLsbD 3 = s.bit R.hifSpiStatus F.hifSpiStatus.blocked ∧ t.hif.spi.lastFailed = false ∧ t.regs = s.regs) ∧
    (∃ t x, exec .challenge s = .next t ∧ t.hif.spi.nonce = some x ∧ t.out = .spi (Word.bytes x) :: s.out) ∧
    (∃ t, exec .lock s = .next t ∧ t.bit R.hifSpiStatus F.hifSpiStatus.locked = true) ∧
    (∀ tag : Word,
      (s.bit R.hifSpiStatus F.hifSpiStatus.blocked = true → exec (.unlock tag) s = .next s) ∧
      (∀ x, s.bit R.hifSpiStatus F.hifSpiStatus.blocked = false → s.hif.spi.nonce = some x →
        tag = (cmac (s.checkBytes (s.fld R.hifSpiCfg F.hifSpiCfg.keySlot))
          (Word.bytes x ++ [0x53, 0x50, 0x49, 0x55])).setWidth 64 →
        ∃ t, exec (.unlock tag) s = .next t ∧ t.bit R.hifSpiStatus F.hifSpiStatus.locked = false ∧
          t.fld R.hifSpiStatus F.hifSpiStatus.failed = 0 ∧ t.hif.spi.nonce = none) ∧
      (s.bit R.hifSpiStatus F.hifSpiStatus.blocked = false →
        (∀ x, s.hif.spi.nonce = some x → tag ≠ (cmac (s.checkBytes (s.fld R.hifSpiCfg F.hifSpiCfg.keySlot))
          (Word.bytes x ++ [0x53, 0x50, 0x49, 0x55])).setWidth 64) →
        ∃ t, exec (.unlock tag) s = .next t ∧ t.hif.spi.nonce = none ∧
          t.bit R.hifSpiStatus F.hifSpiStatus.locked = s.bit R.hifSpiStatus F.hifSpiStatus.locked ∧
          t.fld R.hifSpiStatus F.hifSpiStatus.failed =
            min (Fld.top F.hifSpiStatus.failed) (s.fld R.hifSpiStatus F.hifSpiStatus.failed + 1) ∧
          (3 ≤ s.fld R.hifSpiStatus F.hifSpiStatus.failed →
            t.bit R.hifSpiStatus F.hifSpiStatus.blocked = true ∧ t.hif.spi.blockedAt = some s.now) ∧
          (s.fld R.hifSpiStatus F.hifSpiStatus.failed < 3 → t.bit R.hifSpiStatus F.hifSpiStatus.blocked = false))) ∧
    (∀ at_, s.hif.spi.blockedAt = some at_ →
      (at_ + sTicks 60 ≤ s.now → ∃ t, exec .spiUnlockBlockExpired s = .next t ∧ t.hif.spi.blockedAt = none ∧
        t.bit R.hifSpiStatus F.hifSpiStatus.blocked = false) ∧
      (s.now < at_ + sTicks 60 → exec .spiUnlockBlockExpired s = .next s)) ∧
    (∀ (addr : Nat) (ws : List Word) (crc : BitVec 32), addr < 2 ^ 32 → 1 ≤ ws.length → ws.length ≤ 64 →
      (crc.toNat ≠ crc32c (0x02 :: (bytesOf 4 addr ++ bytesOf 1 (ws.length - 1) ++ ws.flatMap Word.bytes)) →
        ∃ t, exec (.spiWrite addr ws crc) s = .next t ∧ t.hif.spi.lastFailed = true ∧ sameBut [.hif] s t) ∧
      (crc.toNat = crc32c (0x02 :: (bytesOf 4 addr ++ bytesOf 1 (ws.length - 1) ++ ws.flatMap Word.bytes)) →
        (s.bit R.hifSpiStatus F.hifSpiStatus.locked = true →
          ∃ t, exec (.spiWrite addr ws crc) s = .next t ∧ t.hif.spi.lastFailed = false ∧ sameBut [.hif] s t) ∧
        (∀ w d, s.bit R.hifSpiStatus F.hifSpiStatus.locked = false → addr % 8 = 0 → ws = [w] →
          placePrivileged addr = .reg addr → regAt addr = some d →
          hookAt [writeHooks0, writeHooks1, writeHooks2].flatten addr = none →
          ∃ t, exec (.spiWrite addr ws crc) s = .next t ∧ t.reg addr = mergeWrite s.locked d (s.reg addr) (s.taken d addr w) ∧
            ∀ o, o ≠ addr → t.reg o = s.reg o))) ∧
    (∀ addr n : Nat, addr < 2 ^ 32 → 1 ≤ n → n ≤ 512 →
      (s.bit R.hifSpiStatus F.hifSpiStatus.locked = true → 0x10000 < addr + 8 * n →
        ∃ t data, exec (.spiRead addr n) s = .next t ∧ data.length = 8 * n ∧ t.regs = s.regs ∧
          t.out = .spi (data ++ [0x04] ++ bytesOf 4 (crc32c (data ++ [0x04]))) :: s.out) ∧
      (s.bit R.hifSpiStatus F.hifSpiStatus.locked = false → addr % 8 ≠ 0 →
        ∃ t data, exec (.spiRead addr n) s = .next t ∧ data = (List.replicate n (0 : Word)).flatMap Word.bytes ∧
          t.out = .spi (data ++ [0x02] ++ bytesOf 4 (crc32c (data ++ [0x02]))) :: s.out) ∧
      (addr % 8 = 0 → addr < 0x1000 → n = 1 →
        ∃ t data, exec (.spiRead addr n) s = .next t ∧ data = Word.bytes (s.capWord 0 false (addr / 8)) ∧
          t.out = .spi (data ++ [0x00] ++ bytesOf 4 (crc32c (data ++ [0x00]))) :: s.out) ∧
      (s.bit R.hifSpiStatus F.hifSpiStatus.locked = false → addr % 8 = 0 → n = 1 → placePrivileged addr = .reg addr →
        arr (R.gshBufAlloc 0) 0x20 9 addr = none →
        ∃ t data, exec (.spiRead addr n) s = .next t ∧ data = Word.bytes (s.regWord addr) ∧ t.regs = s.regs ∧
          t.out = .spi (data ++ [0x00] ++ bytesOf 4 (crc32c (data ++ [0x00]))) :: s.out))

/-! ### Awning, Lantern and presence (R152 to R154, R222 to R242) -/

/-- The PICC of an instance in READY, ACTIVE and HALT (R222, R223, R225): a carrier that passes the tests of R222 is a field
detected in LISTEN (a session that is still held ends there, notes/assumptions/95.md), and 100 µs without it its loss; REQA and
WUPA, of which WUPA alone wakes a PICC in HALT, and the first that is answered opens the session; ANTICOLLISION and SELECT
at the cascade level reached; HLTA. When the seam hold of a session has run out it ends as at field loss, and not before.
The PICC in ISO/IEC 14443-4 (R223, R225): RATS with FSDI 0 to 8 enters PROTOCOL and is answered with the ATS of the image;
PPS is answered for DSI = DRI = 0 only; R(ACK) and R(NAK) with the number of the last block have it sent again, an R(ACK)
with the other number the next block of a chained answer, an R(NAK) with the other number R(ACK); S(DESELECT) is answered
and the session ends. A frame with a CRC is taken when it passes (R247, R248); what the PICC sends it modulates at the depth of the
stake that listens (R225); while a host commit is being applied it answers no frame, and stays as it is (R226); the words of the image
that are read are said to be readable here (R257). The bytes of RATS, PPS, blocks and BCC (notes/assumptions/87.md), the format of the
ATS (notes/assumptions/26.md), and the fall back to IDLE or HALT after a frame that fails (notes/assumptions/94.md) are those of the
standards that R12 names, and so the model's choice. -/
def Obligations.PiccSessions : Prop :=
  ((∀ (i : Fin 4) (o : CarrierObs) (r : Run) (s : State), s.listener i = some r →
     (s.carrierOk r o = true →
       ∃ t, exec (.awningFieldDetect i o) s = .next t ∧ (t.awn i).field = true ∧ (t.awn i).port = some r.port ∧
         ((s.awn i).holdUntil = none →
           (t.awn i).picc = if (s.awn i).picc = .powerOff then .idle else (s.awn i).picc) ∧
         ((s.awn i).holdUntil.isSome = true → (t.awn i).picc = .idle ∧ (t.awn i).session = false ∧
           (t.awn i).holdUntil = none)) ∧
     (s.carrierOk r o = false → exec (.awningFieldDetect i o) s = .next s)) ∧
   (∀ (i : Fin 4) (r : Run) (u : List Byte) (s : State), s.hears i = some r →
     (∀ k, k < 4 → s.isUe (s.awnBase i + 8 * k) = false) →
     u = piccUid (s.imgWord (s.awnBase i) 1) (s.awn i).randomUid →
     (s.applying i = true → ∀ c : Instr,
       (c = .reqa i ∨ c = .wupa i ∨ (∃ l k, c = .anticollision i l k) ∨
         ∃ crc, c = .hlta ⟨i, crc⟩ ∨ c = .sDeselect ⟨i, crc⟩ ∨ (∃ l u, c = .select ⟨i, crc⟩ l u) ∨
           (∃ x y, c = .rats ⟨i, crc⟩ x y ∨ c = .pps ⟨i, crc⟩ x y) ∨ ∃ n, c = .rAck ⟨i, crc⟩ n ∨ c = .rNak ⟨i, crc⟩ n) →
       ∃ t, exec c s = .next t ∧ t.out = s.out ∧ t.awning = s.awning) ∧
     (∀ absent : Nat,
       (4000 ≤ absent → ∃ t, exec (.awningFieldLost i absent) s = .next t ∧ (t.awn i).field = false ∧
         (t.awn i).picc = .powerOff ∧ (t.awn i).session = false ∧ (t.awn i).log = []) ∧
       (absent < 4000 → exec (.awningFieldLost i absent) s = .next s)) ∧
     (s.applying i = false → ∀ c, c = .reqa i ∧ (s.awn i).picc = .idle ∨ c = .wupa i ∧ ((s.awn i).picc = .idle ∨ (s.awn i).picc = .halt) →
       ∃ t, exec c s = .next t ∧ (t.awn i).picc = .ready ∧ (t.awn i).session = true ∧ (t.awn i).level = 1 ∧
         t.out = .picc i (s.lmDepth i) [(s.imgWord (s.awnBase i) 2).setWidth 8, ((s.imgWord (s.awnBase i) 2) >>> 8).setWidth 8] ::
           s.out) ∧
     ((s.awn i).picc = .halt → exec (.reqa i) s = .next s) ∧
     ((s.awn i).picc = .ready → s.applying i = false → ∀ level : Nat,
       (∀ known, (s.awn i).level = level → known.isPrefixOf (airBits (withBcc (uidAt u level))) = true →
         ∃ t, exec (.anticollision i level known) s = .next t ∧ t.awning = s.awning ∧
           t.out = .picc i (s.lmDepth i) ((withBcc (uidAt u level)).drop (known.length / 8)) :: s.out) ∧
       (∀ crc, (s.awn i).level = level → crcAOk (BitVec.ofNat 8 (0x91 + 2 * level) :: 0x70 :: withBcc (uidAt u level)) crc =
           true →
         (level < uidLevels u →
           ∃ t, exec (.select ⟨i, crc⟩ level (uidAt u level)) s = .next t ∧ (t.awn i).picc = .ready ∧
             (t.awn i).level = level + 1 ∧ t.out = .picc i (s.lmDepth i) [0x04] :: s.out) ∧
         (uidLevels u ≤ level →
           ∃ t, exec (.select ⟨i, crc⟩ level (uidAt u level)) s = .next t ∧ (t.awn i).picc = .active ∧
             t.out = .picc i (s.lmDepth i) [((s.imgWord (s.awnBase i) 2) >>> 16).setWidth 8] :: s.out)) ∧
       (∀ uid crc, (s.awn i).level ≠ level ∨ uid ≠ uidAt u level ∨
           crcAOk (BitVec.ofNat 8 (0x91 + 2 * level) :: 0x70 :: withBcc uid) crc = false →
         ∃ t, exec (.select ⟨i, crc⟩ level uid) s = .next t ∧ t.out = s.out ∧
           (t.awn i).picc = (if (s.awn i).halted then .halt else .idle))) ∧
     ((s.awn i).picc = .active → s.applying i = false → ∀ crc,
       (crcAOk [0x50, 0x00] crc = true → ∃ t, exec (.hlta ⟨i, crc⟩) s = .next t ∧ (t.awn i).picc = .halt ∧
         (t.awn i).session = (s.awn i).session ∧ t.out = s.out) ∧
       (crcAOk [0x50, 0x00] crc = false → ∃ t, exec (.hlta ⟨i, crc⟩) s = .next t ∧ t.out = s.out ∧
         (t.awn i).picc = (if (s.awn i).halted then .halt else .idle) ∧
         (blkAwnChk r.block < 48 →
           t.fld R.chkFailCnt F.chkFailCnt.count = (s.fld R.chkFailCnt F.chkFailCnt.count + 1) % 2 ^ 32)))) ∧
   ∀ (i : Fin 4) (at_ : Nat) (s : State), (s.awn i).holdUntil = some at_ →
     (at_ ≤ s.now → ∃ t, exec (.awningSeamHoldExpired i) s = .next t ∧ (t.awn i).picc = .powerOff ∧
       (t.awn i).session = false ∧ (t.awn i).field = false ∧ (t.awn i).holdUntil = none ∧ (t.awn i).log = []) ∧
     (s.now < at_ → exec (.awningSeamHoldExpired i) s = .next s)) ∧
  (∀ (i : Fin 4) (r : Run) (s : State), s.hears i = some r →
     ((s.awn i).picc = .active → s.applying i = false → s.isUe (s.awnBase i + 16) = false → s.isUe (s.awnBase i + 24) = false →
       ∀ (fsdi cid : Nat) (crc : BitVec 16),
       (fsdi ≤ 8 → cid ≤ 14 → crcAOk [0xE0, BitVec.ofNat 8 (16 * fsdi + cid)] crc = true →
         ∃ t, exec (.rats ⟨i, crc⟩ fsdi cid) s = .next t ∧ (t.awn i).picc = .protocol ∧ (t.awn i).appSelected = false ∧
           (t.awn i).fsd = ([16, 24, 32, 40, 48, 64, 96, 128, 256] : List Nat).getD fsdi 0 ∧
           (t.awn i).cid = (if (s.imgWord (s.awnBase i) 2).getLsbD 36 then cid else 0) ∧
           t.out = .picc i (s.lmDepth i) (atsOf (s.imgWord (s.awnBase i) 2) (s.imgWord (s.awnBase i) 3)) :: s.out) ∧
       (8 < fsdi ∨ 14 < cid →
         ∃ t, exec (.rats ⟨i, crc⟩ fsdi cid) s = .next t ∧ t.out = s.out ∧ t.awning = s.awning)) ∧
     ((s.awn i).picc = .protocol → s.applying i = false → ∀ crc : BitVec 16,
       (crcAOk [BitVec.ofNat 8 (0xD0 + (s.awn i).cid), 0x11, 0x00] crc = true →
         ∃ t, exec (.pps ⟨i, crc⟩ 0 0) s = .next t ∧ (t.awn i).picc = .protocol ∧
           t.out = .picc i (s.lmDepth i) [BitVec.ofNat 8 (0xD0 + (s.awn i).cid)] :: s.out) ∧
       (∀ dsi dri : Nat, dsi ≠ 0 ∨ dri ≠ 0 →
         ∃ t, exec (.pps ⟨i, crc⟩ dsi dri) s = .next t ∧ t.out = s.out ∧ t.awning = s.awning) ∧
       (∀ n : Bool,
         (crcAOk (pcbHead (s.awn i) (0xA2 + n.toNat)) crc = true →
           (n = (s.awn i).block → ∃ t, exec (.rAck ⟨i, crc⟩ n) s = .next t ∧ t.out = .picc i (s.lmDepth i) (s.awn i).last :: s.out ∧
             t.awning = s.awning) ∧
           (n = (!(s.awn i).block) → (s.awn i).chain ≠ [] →
             ∃ t, exec (.rAck ⟨i, crc⟩ n) s = .next t ∧ (t.awn i).block = n ∧
               t.out = .picc i (s.lmDepth i) (s.iBlock i (s.awn i).chain) :: s.out ∧
               (t.awn i).chain = (s.awn i).chain.drop ((s.awn i).fsd - 3 - (if (s.awn i).cid = 0 then 0 else 1)))) ∧
         (crcAOk (pcbHead (s.awn i) (0xA2 + n.toNat)) crc = false →
           ∃ t, exec (.rAck ⟨i, crc⟩ n) s = .next t ∧ t.out = s.out ∧ t.awning = s.awning) ∧
         (crcAOk (pcbHead (s.awn i) (0xB2 + n.toNat)) crc = true →
           ∃ t, exec (.rNak ⟨i, crc⟩ n) s = .next t ∧ t.awning = s.awning ∧
             t.out = .picc i (s.lmDepth i) (if n = (s.awn i).block then (s.awn i).last
               else pcbHead (s.awn i) (0xA2 + (s.awn i).block.toNat)) :: s.out) ∧
         (crcAOk (pcbHead (s.awn i) (0xB2 + n.toNat)) crc = false →
           ∃ t, exec (.rNak ⟨i, crc⟩ n) s = .next t ∧ t.out = s.out ∧ t.awning = s.awning)) ∧
       (crcAOk (pcbHead (s.awn i) 0xC2) crc = true → ∃ t, exec (.sDeselect ⟨i, crc⟩) s = .next t ∧
         (t.awn i).picc = .halt ∧ (t.awn i).session = false ∧
         (t.awn i).log = [] ∧ ((s.awn i).log = [] → t.out = .picc i (s.lmDepth i) (pcbHead (s.awn i) 0xC2) :: s.out)) ∧
       (crcAOk (pcbHead (s.awn i) 0xC2) crc = false →
         ∃ t, exec (.sDeselect ⟨i, crc⟩) s = .next t ∧ t.out = s.out ∧ t.awning = s.awning)))

/-- The APDUs in PROTOCOL (R227, R229, R230, R234), each answered in an I-block in the state `s` that its own I-blocks leave: a
verdict on each, and an R(ACK) to each before the last (R225, R248); one that fails its check, or comes while a host commit is being
applied (R226), ends the APDU unanswered: the selections; reads of the CC file and of the NDEF file with the session's log over it;
updates, of which the live image sees nothing; VERIFY, its count of tries and its lockout, which ends when its time is over;
0x6F00 where a word of the image is uncorrectable (R257). Where the manual gives no status word one is sent, of any value
(notes/assumptions/26.md). The bytes of I-blocks and of R(ACK) are those of ISO/IEC 14443-4 (notes/assumptions/87.md), and that the
I-blocks spell the APDU is the model's choice (notes/assumptions/94.md). -/
def Obligations.PiccApdus : Prop :=
  (∀ (i : Fin 4) (r : Run) (x : IBlock) (l : List IBlock) (bytes : List Byte) (b : State), b.hears i = some r →
    (b.awn i).picc = .protocol →
    bytes = pcbHead (b.awn i) (0x02 + (!(b.awn i).block).toNat + (if l = [] then 0 else 0x10)) ++ x.inf →
    (crcAOk bytes x.crc = true → b.applying i = false → l = [] → ∀ f, b.blocks i r f (x :: l) = f (b.chkFrame r bytes x.crc) r) ∧
    (crcAOk bytes x.crc = true → b.applying i = false → l ≠ [] →
      ∃ c : State, (∀ f, b.blocks i r f (x :: l) = c.blocks i r f l) ∧ (c.awn i).block = (!(b.awn i).block) ∧
        c.out = .picc i (b.lmDepth i) (pcbHead (b.awn i) (0xA2 + (!(b.awn i).block).toNat)) :: b.out) ∧
    (crcAOk bytes x.crc = false ∨ b.applying i = true → ∀ aid : List Byte,
      ∃ t, exec (.selectByName i aid (x :: l)) b = .next t ∧ t.out = b.out ∧ t.awning = b.awning ∧
        (crcAOk bytes x.crc = false → blkAwnChk r.block < 48 →
          t.fld R.chkFailCnt F.chkFailCnt.count = (b.fld R.chkFailCnt F.chkFailCnt.count + 1) % 2 ^ 32))) ∧
  (∀ (i : Fin 4) (r : Run) (bs : List IBlock) (b s : State), b.hears i = some r → (b.awn i).picc = .protocol →
    (∀ f, b.blocks i r f bs = f s r) →
    (∃ t, exec (.selectByName i [0xD2, 0x76, 0x00, 0x00, 0x85, 0x01, 0x01] bs) b = .next t ∧ (t.awn i).appSelected = true ∧
      t.out = .picc i (s.lmDepth i) (s.iBlock i [0x90, 0x00]) :: s.out) ∧
    (∀ aid : List Byte, aid ≠ [0xD2, 0x76, 0x00, 0x00, 0x85, 0x01, 0x01] →
      ∃ t, exec (.selectByName i aid bs) b = .next t ∧ (t.awn i).appSelected = (s.awn i).appSelected ∧
        t.out = .picc i (s.lmDepth i) (s.iBlock i [0x6A, 0x82]) :: s.out) ∧
    (∀ id : BitVec 16, (s.ueIn (s.awnBase i + 32) (s.awnBase i + 40) = none →
      ∃ t, exec (.selectByFileId i id bs) b = .next t ∧
        (t.awn i).file = (if (s.awn i).appSelected = false then (s.awn i).file else if id = 0xE103 then 1
          else if id.toNat = s.liveFld i 4 (47, 32) then 2 else (s.awn i).file) ∧
        t.out = .picc i (s.lmDepth i) (s.iBlock i (if (s.awn i).appSelected = true ∧ (id = 0xE103 ∨ id.toNat = s.liveFld i 4 (47, 32))
          then [0x90, 0x00] else [0x6A, 0x82])) :: s.out) ∧
      (s.ueIn (s.awnBase i + 32) (s.awnBase i + 40) ≠ none →
        ∃ t, exec (.selectByFileId i id bs) b = .next t ∧ (t.awn i).file = (s.awn i).file ∧
          t.out.head? = some (.picc i (s.lmDepth i) (s.iBlock i [0x6F, 0x00])))) ∧
    (∀ off le : Nat, (s.awn i).file = 0 →
      ∃ t w, exec (.readBinary i off le bs) b = .next t ∧ w < 2 ^ 16 ∧
        t.out = .picc i (s.lmDepth i) (s.iBlock i [BitVec.ofNat 8 (w / 256), BitVec.ofNat 8 (w % 256)]) :: s.out) ∧
    (∀ (off le : Nat) (data : List Byte), s.ueIn (s.awnBase i + 32) (s.awnBase i + 48) ≠ none →
      ((s.awn i).file ≠ 0 → ∃ t, exec (.readBinary i off le bs) b = .next t ∧
        t.out.head? = some (.picc i (s.lmDepth i) (s.iBlock i [0x6F, 0x00]))) ∧
      ((s.awn i).file = 2 → ∃ t, exec (.updateBinary i off data bs) b = .next t ∧ (t.awn i).log = (s.awn i).log ∧
        t.out.head? = some (.picc i (s.lmDepth i) (s.iBlock i [0x6F, 0x00])))) ∧
    (∀ off le : Nat, s.ueIn (s.awnBase i + 32) (s.awnBase i + 48) = none →
      ((s.awn i).file = 1 →
        ∃ t, exec (.readBinary i off le bs) b = .next t ∧ t.out = .picc i (s.lmDepth i) (s.iBlock i (if 15 < off then [0x6B, 0x00]
          else ((s.ccFile i).drop off).take (min le (15 - off)) ++ [0x90, 0x00])) :: s.out) ∧
      ((s.awn i).file = 2 → (s.ndefMax i < off →
        ∃ t, exec (.readBinary i off le bs) b = .next t ∧ t.out = .picc i (s.lmDepth i) (s.iBlock i [0x6B, 0x00]) :: s.out) ∧
        (off ≤ s.ndefMax i → s.ueIn (s.awnBase i + (0x40 + off))
            (s.awnBase i + (0x40 + off + min le (s.ndefMax i - off))) = none →
          ∃ t, exec (.readBinary i off le bs) b = .next t ∧ t.out = .picc i (s.lmDepth i) (s.iBlock i
            ((List.range (min le (s.ndefMax i - off))).map (fun k => s.ndefByte i (off + k)) ++ [0x90, 0x00])) :: s.out) ∧
        (off ≤ s.ndefMax i → s.ueIn (s.awnBase i + (0x40 + off))
            (s.awnBase i + (0x40 + off + min le (s.ndefMax i - off))) ≠ none →
          ∃ t, exec (.readBinary i off le bs) b = .next t ∧ t.out.head? = some (.picc i (s.lmDepth i) (s.iBlock i [0x6F, 0x00]))))) ∧
    (∀ (off : Nat) (data : List Byte), (s.awn i).file ≠ 2 →
      ∃ t w, exec (.updateBinary i off data bs) b = .next t ∧ w < 2 ^ 16 ∧ (t.awn i).log = (s.awn i).log ∧
        t.out = .picc i (s.lmDepth i) (s.iBlock i [BitVec.ofNat 8 (w / 256), BitVec.ofNat 8 (w % 256)]) :: s.out) ∧
    (∀ (off : Nat) (data : List Byte), (s.awn i).file = 2 → s.ueIn (s.awnBase i + 32) (s.awnBase i + 48) = none →
      (off + data.length ≤ s.ndefMax i → s.mayUpdate i = true → logSize ((s.awn i).log ++ [(off, data)]) ≤ 8192 →
        ∃ t, exec (.updateBinary i off data bs) b = .next t ∧ (t.awn i).log = (s.awn i).log ++ [(off, data)] ∧
          t.mem = s.mem ∧ t.out = .picc i (s.lmDepth i) (s.iBlock i [0x90, 0x00]) :: s.out) ∧
      (off + data.length ≤ s.ndefMax i → s.mayUpdate i = true → 8192 < logSize ((s.awn i).log ++ [(off, data)]) →
        ∃ t, exec (.updateBinary i off data bs) b = .next t ∧ (t.awn i).log = (s.awn i).log ∧
          t.bit (R.awnStatus i) F.awnStatus.logFull = true ∧ t.out = .picc i (s.lmDepth i) (s.iBlock i [0x6A, 0x84]) :: s.out) ∧
      (s.ndefMax i < off + data.length → s.mayUpdate i = true →
        ∃ t, exec (.updateBinary i off data bs) b = .next t ∧ (t.awn i).log = (s.awn i).log ∧
          t.out = .picc i (s.lmDepth i) (s.iBlock i [0x67, 0x00]) :: s.out) ∧
      (off + data.length ≤ s.ndefMax i → s.mayUpdate i = false →
        ∃ t, exec (.updateBinary i off data bs) b = .next t ∧ (t.awn i).log = (s.awn i).log ∧
          t.out = .picc i (s.lmDepth i) (s.iBlock i [0x69, 0x82]) :: s.out) ∧
      (s.ndefMax i < off + data.length → s.mayUpdate i = false →
        ∃ t, exec (.updateBinary i off data bs) b = .next t ∧ (t.awn i).log = (s.awn i).log ∧
          (t.out = .picc i (s.lmDepth i) (s.iBlock i [0x67, 0x00]) :: s.out ∨ t.out = .picc i (s.lmDepth i) (s.iBlock i [0x69, 0x82]) :: s.out))) ∧
    (∀ data : List Byte, data.length ≠ 8 →
      ∃ t, exec (.verify i data bs) b = .next t ∧ t.reg (R.awnStatus i) = s.reg (R.awnStatus i) ∧
        t.out = .picc i (s.lmDepth i) (s.iBlock i [0x67, 0x00]) :: s.out) ∧
    (∀ data : List Byte, data.length = 8 →
      ((s.awn i).lockUntil.isSome = true →
        ∃ t, exec (.verify i data bs) b = .next t ∧ t.reg (R.awnStatus i) = s.reg (R.awnStatus i) ∧
          t.out = .picc i (s.lmDepth i) (s.iBlock i [0x69, 0x83]) :: s.out) ∧
      ((s.awn i).lockUntil = none → ∀ m : Bool, m = (s.ownsKey (s.awnPitch i) (r.fld (R.awnImg i) F.awnImg.pinSlot) &&
          decide (wordOfBytes data = (s.checkKey (r.fld (R.awnImg i) F.awnImg.pinSlot)).1.setWidth 64)) →
        (m = true →
          ∃ t, exec (.verify i data bs) b = .next t ∧ t.bit (R.awnStatus i) F.awnStatus.verified = true ∧
            t.fld (R.awnStatus i) F.awnStatus.triesLeft = r.pinTries ∧
            t.out = .picc i (s.lmDepth i) (s.iBlock i [0x90, 0x00]) :: s.out) ∧
        (m = false → 2 ≤ s.triesLeft i →
          ∃ t, exec (.verify i data bs) b = .next t ∧
            t.fld (R.awnStatus i) F.awnStatus.triesLeft = s.triesLeft i - 1 ∧
            t.bit (R.awnStatus i) F.awnStatus.verified = s.bit (R.awnStatus i) F.awnStatus.verified ∧
            t.out = .picc i (s.lmDepth i) (s.iBlock i [0x63, BitVec.ofNat 8 (0xC0 + (s.triesLeft i - 1))]) :: s.out) ∧
        (m = false → s.triesLeft i ≤ 1 →
          ∃ t, exec (.verify i data bs) b = .next t ∧ t.fld (R.awnStatus i) F.awnStatus.triesLeft = 0 ∧
            (t.awn i).lockUntil = some (s.now + r.pinLock) ∧
            t.out.head? = some (.picc i (s.lmDepth i) (s.iBlock i [0x69, 0x83]))))) ∧
    (∀ (ins : Byte) (p1p2 : BitVec 16),
      (ins ∉ ([0xA4, 0xB0, 0xD6, 0x20] : List Byte) →
        ∃ t, exec (.otherInsApdu i ins p1p2 bs) b = .next t ∧ t.out = .picc i (s.lmDepth i) (s.iBlock i [0x6D, 0x00]) :: s.out) ∧
      (ins = 0xA4 ∧ p1p2 ≠ 0x0400 ∧ p1p2 ≠ 0x000C ∨ ins = 0x20 ∧ p1p2 ≠ 0x0080 →
        ∃ t, exec (.otherInsApdu i ins p1p2 bs) b = .next t ∧ t.out = .picc i (s.lmDepth i) (s.iBlock i [0x6A, 0x86]) :: s.out) ∧
      (ins = 0xA4 ∧ (p1p2 = 0x0400 ∨ p1p2 = 0x000C) ∨ ins = 0x20 ∧ p1p2 = 0x0080 ∨ ins = 0xB0 ∨ ins = 0xD6 →
        ∃ t w, exec (.otherInsApdu i ins p1p2 bs) b = .next t ∧ w < 2 ^ 16 ∧
          t.out = .picc i (s.lmDepth i) (s.iBlock i [BitVec.ofNat 8 (w / 256), BitVec.ofNat 8 (w % 256)]) :: s.out))) ∧
  ∀ (i : Fin 4) (at_ : Nat) (s : State), (s.awn i).lockUntil = some at_ →
    (at_ ≤ s.now → ∃ t, exec (.pinLockExpired i) s = .next t ∧ (t.awn i).lockUntil = none ∧
      t.fld (R.awnStatus i) F.awnStatus.triesLeft = s.pinTries i) ∧
    (s.now < at_ → exec (.pinLockExpired i) s = .next s)

/-- Host commits of Awning (R232, R233): a 1 to commit becomes pending, and has no effect but host_write_dropped while one
is pending; as long as it is, writes of hosts to the host image have no effect but host_write_dropped. A pending commit is applied in POWER_OFF, IDLE or HALT with no field apply due: refused as a conflict unless
force is set or the live gen is expect_gen, refused for a header outside R228, else the host image becomes the live image
and gen advances by 2, and for at most 200 µs from here the PICC answers no frame (R226; how long is a free value,
notes/assumptions/113.md); in another state it stays pending. Said of images whose words are readable (R257). -/
def Obligations.AwningCommits : Prop :=
  (∀ (m : Master) (i : Fin 4) (v : Word) (s : State), s.masterOn m = true →
    (privileged m = true ∨ s.awnPitch i = masterPitch m) → s.awnOn i = true → v.getLsbD 0 = true →
    (s.commitPending i = false → ∃ t, exec (.awningCommit m i v) s = .next t ∧ t.commitPending i = true ∧
      t.fld (R.awnCtrl i) F.awnCtrl.expectGen = Word.get v F.awnCtrl.expectGen ∧
      t.fld (R.awnCtrl i) F.awnCtrl.force = Word.get v F.awnCtrl.force) ∧
    (s.commitPending i = true → ∃ t, exec (.awningCommit m i v) s = .next t ∧ t.commitPending i = true ∧
      t.bit (R.awnStatus i) F.awnStatus.hostWriteDropped = true ∧ t.mem = s.mem)) ∧
  (∀ (m : Master) (x a i : Nat) (l : List Byte) (s : State), s.masterOn m = true → s.viewOf m x = .word a → a < 0x01000000 →
    s.awnAt a = some i → 0x3000 ≤ a - (s.awnRegion i).1 → a - (s.awnRegion i).1 < 0x5040 → s.commitPending i = true →
    0 < l.length → x % 8 + l.length ≤ 8 →
    ∃ t, exec (.groundsheetWrite m x l) s = .next t ∧ sameBut [.regs 22] s t ∧
      t.bit (R.awnStatus i) F.awnStatus.hostWriteDropped = true) ∧
  ∀ (i : Fin 4) (s : State), s.commitPending i = true → s.awnOn i = true → s.isUe (s.awnBase i) = false →
    (∀ k, k < 1032 → s.isUe (s.awnBase i + 0x3000 + 8 * k) = false) →
    (((s.awn i).picc = .powerOff ∨ (s.awn i).picc = .idle ∨ (s.awn i).picc = .halt) → (s.awn i).log = [] →
      (s.fld (R.awnCtrl i) F.awnCtrl.force = 0 → s.awnGen i ≠ s.fld (R.awnCtrl i) F.awnCtrl.expectGen →
        ∃ t, exec (.awningCommitApply i) s = .next t ∧ t.commitPending i = false ∧
          t.bit (R.awnStatus i) F.awnStatus.conflict = true) ∧
      (s.fld (R.awnCtrl i) F.awnCtrl.force = 1 ∨ s.awnGen i = s.fld (R.awnCtrl i) F.awnCtrl.expectGen →
        (headerOk (s.imgWord (s.awnBase i + 0x3000)) = false →
          ∃ t, exec (.awningCommitApply i) s = .next t ∧ t.commitPending i = false ∧
            t.bit (R.awnStatus i) F.awnStatus.imageBad = true) ∧
        (headerOk (s.imgWord (s.awnBase i + 0x3000)) = true →
          ∃ t, exec (.awningCommitApply i) s = .next t ∧ t.commitPending i = false ∧
            t.awnGen i = (s.awnGen i + 2) % 2 ^ 32 ∧ s.now ≤ (t.awn i).applyUntil ∧ (t.awn i).applyUntil ≤ s.now + 8000 ∧
            ∀ k, k < 1031 → t.word (s.awnBase i + 8 * (k + 1)) = s.word (s.awnBase i + 0x3008 + 8 * k)))) ∧
    (((s.awn i).picc = .ready ∨ (s.awn i).picc = .active ∨ (s.awn i).picc = .protocol) →
      exec (.awningCommitApply i) s = .next s)

/-- Lantern (R237 to R239, R242). In WATCH a due round pings the watched entries in ascending order, an inhibit keeps it
silent (R388), and an entry to be confirmed is pinged again when its time has come. A ping acts by the words it took when it started
(R243), and one of WATCH lasts ping_us. It is detected when an amplitude or phase difference reaches its threshold against a
valid baseline; the first one sets the baseline, and none moves it while the entry is NEAR, nor where a host has written it
since the ping started (notes/assumptions/92.md). With confirm 1 two pings in a row decide the state, with 0 one; an entry
that becomes NEAR in WATCH wakes the part with HOST_WAKE_N low, and pitch 0 clears wake_card. -/
def Obligations.LanternPings : Prop :=
  (∀ s : State, s.watching = true → s.lantern.burst = none → s.lantern.queue = [] →
    (s.clock.aon < s.lantern.roundAt → exec .watchRound s = .next s) ∧
    (s.lantern.roundAt ≤ s.clock.aon →
      ∃ t, exec .watchRound s = .next t ∧
        t.lantern.roundAt = s.clock.aon + 40000 * max 50 (min 2000 (Word.get (s.lnt 0) F.lntCfg.intervalMs)) ∧
        (s.quiet = true → t.out = s.out ∧ t.lantern.burst = none) ∧
        (∀ e l p, s.quiet = false → s.lntPort e = some p →
          ((List.range 4).filter fun e => (s.lnt (1 + e)).getLsbD 63 && (s.lntPort e).isSome) = e :: l →
          t.lantern.burst = some e ∧ t.lantern.queue = l ∧ (t.slice (s.server p)).st = .ping ∧
            SMap.find t.lantern.pings e =
              some { cfg := s.lnt 0, port := s.lnt (1 + e), base := s.lnt (5 + e), at_ := s.clock.aon } ∧
            t.out = .air p (.ping (pingUs (s.lnt (1 + e)))) [] 0 [] :: s.out))) ∧
  (∀ (e : Fin 4) (at_ p : Nat) (s : State), s.watching = true → s.lantern.burst = none → s.quiet = false →
    s.lntPort e = some p → s.lantern.confirm = [(e.val, at_)] →
    (at_ ≤ s.clock.aon → ∃ t, exec (.lanternConfirmPing e) s = .next t ∧ t.lantern.burst = some e.val ∧
      t.lantern.confirm = [] ∧ (t.slice (s.server p)).st = .ping ∧
      t.out = .air p (.ping (pingUs (s.lnt (1 + e)))) [] 0 [] :: s.out) ∧
    (s.clock.aon < at_ → exec (.lanternConfirmPing e) s = .next s)) ∧
  (∀ (e : Fin 4) (amp : BitVec 12) (phase : BitVec 8) (l : PingLatch) (d : Bool) (s : State),
    SMap.find s.lantern.pings e.val = some l → e.val ∉ s.lantern.rebase →
    d = (l.base.getLsbD 63 &&
      (decide (max 1 (Word.get l.port F.lntPort.thrAmp) ≤ ((amp.toNat : Int) - Word.get l.base F.lntBase.amp).natAbs) ||
       decide (max 1 (Word.get l.port F.lntPort.thrPhase) ≤
         (phase - BitVec.ofNat 8 (Word.get l.base F.lntBase.phase)).toInt.natAbs))) →
    (∀ p r x, s.watching = false → p = Word.get l.port F.lntPort.port → s.runAt p = some r →
      r.exch = some x → x.cmd.isPing = true → x.start + usTicks (bf r.block 2 5 0) ≤ s.now →
      ∃ t, exec (.lanternPingDone e amp phase) s = .next t ∧
        Word.get (t.lnt (9 + e)) F.lntBase.amp = amp.toNat ∧ Word.get (t.lnt (9 + e)) F.lntBase.phase = phase.toNat ∧
        t.lntNear e = (if d = s.lntNear e then d
          else if Word.get l.cfg F.lntCfg.confirm = 1 ∧ SMap.look 0 s.lantern.runs e.val = 0 then !d else d) ∧
        (s.lnt (5 + e) ≠ l.base → t.lnt (5 + e) = s.lnt (5 + e)) ∧
        (s.lnt (5 + e) = l.base → l.base.getLsbD 63 = false → (t.lnt (5 + e)).getLsbD 63 = true ∧
          Word.get (t.lnt (5 + e)) F.lntBase.amp = amp.toNat ∧ Word.get (t.lnt (5 + e)) F.lntBase.phase = phase.toNat) ∧
        (s.lnt (5 + e) = l.base → l.base.getLsbD 63 = true → d = true ∨ s.lntNear e = true → t.lnt (5 + e) = l.base)) ∧
    (s.watching = true → s.lantern.burst = some e.val → s.clock.aon < l.at_ + usTicks (pingUs l.port) →
      exec (.lanternPingDone e amp phase) s = .next s) ∧
    (s.watching = true → s.lantern.aon.length = 13 → s.lantern.burst = some e.val → s.lntNear e = false →
      s.quiet = false → d = true → l.at_ + usTicks (pingUs l.port) ≤ s.clock.aon →
      (Word.get l.cfg F.lntCfg.confirm = 1 → SMap.look 0 s.lantern.runs e.val = 0 →
        ∃ t, exec (.lanternPingDone e amp phase) s = .next t ∧ t.lntNear e = false ∧
          t.lantern.confirm = s.lantern.confirm ++ [(e.val, s.clock.aon + 40000)]) ∧
      (Word.get l.cfg F.lntCfg.confirm = 0 ∨ SMap.look 0 s.lantern.runs e.val = 1 →
        ∃ t q, exec (.lanternPingDone e amp phase) s = .next t ∧ t.boot.seq = some q ∧ .wake ∈ q.causes ∧
          q.cold = true ∧ t.hostWakeN = false ∧ t.bit R.lntStatus F.lntStatus.wakeCard = true ∧
          t.fld R.lntStatus F.lntStatus.wakeEntries = 2 ^ e.val))) ∧
  ∀ (m : PMaster) (s : State), s.up = true →
    ∃ t, exec (.wakeCardClear m) s = .next t ∧ t.bit R.lntStatus F.lntStatus.wakeCard = false ∧ t.hostWakeN = true ∧
      t.fld R.lntStatus F.lntStatus.wakeEntries = 0

/-- PRESENCE_SWEEP (R152, R154, R256, R257): an entry whose last_seen + depart_ms has not passed, and a FREE one, stays as it
is; single errors of its words are corrected. One that has departed becomes FREE, its ver advanced by 2 and its words 0 to 2
as they were (the model's reading, notes/assumptions/13.md); a PRESENT one commits a DEPARTURE where the pitch's event FIFO has room, and a CANDIDATE no packet. One with an
uncorrectable word becomes FREE without a packet. -/
def Obligations.PresenceSwept : Prop :=
  ∀ (i q : Nat) (s : State), i < 262144 → s.up = true → s.tablePitch i = some q →
    (s.entryUe i = true → s.entryFld i E.state ≠ 0 →
      ∃ t, exec (.presenceSweep i) s = .next t ∧ t.entryFld i E.state = 0 ∧ t.fifos = s.fifos) ∧
    (s.entryUe i = false → s.entryFld i E.state = 0 ∨ s.now ≤ (s.entryW i 2).toNat + s.depart q →
      ∃ t, exec (.presenceSweep i) s = .next t ∧ t.mem = s.mem ∧ t.fifos = s.fifos ∧
        (∀ w, w < 4 → t.upset (entryAddr i + 8 * w) = 0) ∧
        ((∀ w, w < 4 → s.upset (entryAddr i + 8 * w) = 0) → t = s)) ∧
    (s.entryUe i = false → s.entryFld i E.state ≠ 0 → (s.entryW i 2).toNat + s.depart q < s.now →
      ∃ t, exec (.presenceSweep i) s = .next t ∧ t.entryFld i E.state = 0 ∧
        t.entryFld i E.ver = (s.entryFld i E.ver + 2) % 256 ∧ (∀ w, w < 3 → t.entryW i w = s.entryW i w) ∧
        t.fld (R.sngPtStatus q) F.sngPtStatus.inUse = s.fld (R.sngPtStatus q) F.sngPtStatus.inUse - 1 ∧
        (s.entryFld i E.state ≠ 2 → t.fifos = s.fifos) ∧
        (∀ n c, s.entryFld i E.state = 2 → s.eventFifo q = some n → s.fifoOn n = true → (s.fifo n).held = [] →
          s.chainFor n 6 = some c →
          (t.fifo n).packets = (s.fifo n).packets ++ [s.descriptor c 6]))

/-! ### Spares, ageing and flash (R324 to R345, R367 to R370) -/

/-- The spares (R324 to R328, R331): a rotation that is due takes the next slice in turn; a write of HLT_CTRL.rotate makes a
slice the next; the spare takes the first waiting failed port, else the port of the rotation, in a seam that qualifies, and
gives the rotated port back after its calibration; 240 ticks after a transfer began the port is served by the new slice (a
spare that has failed meanwhile gives it up, R333). A checkpoint is written once per seam, into the slot that does not hold
the port's last generation, under the next one, whatever slots are valid; a seam whose checkpoint is in the better slot is
left, and so is a port that is out of service. -/
def Obligations.SparesMove : Prop :=
  (∀ (k : Kind) (n : Nat) (x : Rotor) (s : State), s.up = true → s.rotor k = x → s.rotates k = true →
    s.planHasCal k = true → x.rot = none → x.xfer = none → x.waiting = [] → x.spareFailed = false →
    s.spareReason k ≠ 2 → s.turnOf k = some n →
    (x.due = true ∨ x.lastStart + s.rotTicks k ≤ s.now →
      ∃ t r, exec (.rotationDue k) s = .next t ∧ (t.rotor k).rot = some r ∧ r.slice = n ∧ r.calibrated = false ∧
        (t.rotor k).dueAt = s.now ∧ (t.rotor k).due = false ∧
        (r.handed = true ↔ n ≠ spareOf k ∧ s.planHasPort n = false)) ∧
    (x.due = false → s.now < x.lastStart + s.rotTicks k → exec (.rotationDue k) s = .next s)) ∧
  (∀ (m : PMaster) (v : Word) (id : Nat) (s : State), s.up = true → id = Word.get v F.hltCtrl.id → isSlice id = true →
    (s.slice id).failed = false →
    (v.getLsbD 63 = true → ∃ t, exec (.rotate m v) s = .next t ∧ t.spareReg (kindOf id) F.hltSpare.next = id ∧
      (t.rotor (kindOf id)).due = true) ∧
    (v.getLsbD 63 = false → ∃ t, exec (.rotate m v) s = .next t ∧ t.hlt = s.hlt)) ∧
  (∀ (k : Kind) (x : Rotor) (s : State), s.up = true → s.rotor k = x → x.xfer = none → x.spareFailed = false →
    s.coveredPort k = none →
    (∀ p l, x.waiting = p :: l →
      (s.qualifies p 0 = true → ∃ t, exec (.spareHandover k) s = .next t ∧ (t.rotor k).waiting = l ∧
        (t.rotor k).xfer = some { port := p, toSpare := true, start := s.now, cover := true, fellAt := none }) ∧
      (s.qualifies p 0 = false → exec (.spareHandover k) s = .next s)) ∧
    (∀ r, x.waiting = [] → x.rot = some r → r.handed = false → r.calibrated = false → r.slice ≠ spareOf k →
      (s.qualifies r.slice x.dueAt = true → ∃ t, exec (.spareHandover k) s = .next t ∧
        (t.rotor k).xfer = some { port := r.slice, toSpare := true, start := s.now, cover := false, fellAt := none } ∧
        (t.rotor k).rot = some { r with handed := true, handedAt := s.now }) ∧
      (s.qualifies r.slice x.dueAt = false → exec (.spareHandover k) s = .next s))) ∧
  (∀ (k : Kind) (r : Rotation) (at_ : Nat) (s : State), s.up = true → (s.rotor k).rot = some r →
    s.coveredPort k = some r.slice → r.calAt = some at_ → r.calibrated = true → (s.rotor k).xfer = none →
    s.spareReason k ≠ 2 →
    (s.qualifies r.slice at_ = true → (s.slice r.slice).failed = false → ∃ t, exec (.spareReturn k) s = .next t ∧
      (t.rotor k).xfer = some { port := r.slice, toSpare := false, start := s.now, cover := false, fellAt := none }) ∧
    (s.qualifies r.slice at_ = false ∨ (s.slice r.slice).failed = true → exec (.spareReturn k) s = .next s)) ∧
  (∀ (k : Kind) (x : Transfer) (live : List Word) (s : State), s.up = true → (s.rotor k).xfer = some x →
    isPort x.port = true → kindOf x.port = k →
    (s.now < x.start + 240 → exec (.spareTransferDone k live) s = .next s) ∧
    (x.start + 240 ≤ s.now → ∃ t, exec (.spareTransferDone k live) s = .next t ∧ (t.rotor k).xfer = none ∧
      (x.toSpare = true → t.server x.port = spareOf k ∧ t.coveredPort k = some x.port ∧
        t.spareReason k = (if (s.rotor k).spareFailed then 3 else if x.cover then 2 else 1)) ∧
      (x.toSpare = false → t.server x.port = x.port ∧ t.coveredPort k = none ∧ (t.rotor k).rot = none))) ∧
  ∀ (p a b : Nat) (live : List Word) (s : State), s.up = true → isPort p = true →
    (∀ x, (s.rotor (kindOf p)).xfer = some x → x.port ≠ p) → s.inService p = true → s.qualifies p 0 = true →
    s.seamNow p = some (a, b) →
    ((∀ x, s.bestSlot p = some x → (x.words.getD 30 0).toNat = 0 ∨ (x.words.getD 30 0).toNat < a) →
      ∃ t i j, exec (.checkpoint p live) s = .next t ∧ (i, j) ∈ [(2 * p, 2 * p + 1), (2 * p + 1, 2 * p)] ∧
        (i = 2 * p ↔ (s.ckSlot (2 * p)).gen ≠ (s.ckGen p).toNat) ∧ t.ckGen p = s.ckGen p + 1 ∧
        (t.ckSlot i).words = slotWords (s.liveWords p live) s.now (s.ckGen p + 1).toNat ∧ t.ckSlot j = s.ckSlot j) ∧
    (∀ x, s.bestSlot p = some x → 0 < (x.words.getD 30 0).toNat → a ≤ (x.words.getD 30 0).toNat →
      exec (.checkpoint p live) s = .next s)

/-- Failures and calibration of slices (R30, R31, R330, R336 to R339): a slice that fails keeps the cause; the slices of a
die whose link fails fail with it, and the power die's resets the part; a calibration whose runs agree within their ranges
is taken, in one update or as a target (which of the two values is an opaque function of both runs, notes/assumptions/3.md, 66.md); one out of range fails the slice; one that disagrees is discarded and the slice is
rotated again next, until disagree_max fails it. A slew moves each quantity by a sixteenth of the way, by at least one. -/
def Obligations.SlicesFail : Prop :=
  (∀ (n : Nat) (c : Fin 7) (s : State), isSlice n = true → s.up = true →
    (c.val ≠ 0 → (s.slice n).failed = false → ∃ t, exec (.sliceFailed n c) s = .next t ∧ (t.slice n).failed = true ∧
      t.fld (R.hltSliceStatus n) F.hltSliceStatus.cause = c.val) ∧
    (c.val = 0 ∨ (s.slice n).failed = true → exec (.sliceFailed n c) s = .next s)) ∧
  (∀ (d : Fin 6) (s : State), s.up = true →
    (d.val = 5 → ∃ t q, exec (.linkFail d) s = .next t ∧ t.boot.seq = some q ∧ q.cold = false ∧ .eccCritical ∈ q.causes) ∧
    (d.val ≠ 5 → ∃ t, exec (.linkFail d) s = .next t ∧ (∀ n ∈ dieSlices d, (t.slice n).failed = true ∧
      ((s.slice n).failed = false → t.fld (R.hltSliceStatus n) F.hltSliceStatus.cause = 5)))) ∧
  (∀ (k : Kind) (a b : List Int) (h : Int) (run : Run) (n : Nat) (s : State), s.up = true →
    s.runAt (spareOf k) = some run → run.template = 0x20 → s.calTarget k run.start = some n →
    run.start + (match k with | .hf => 160016 | .uhf => 400016) ≤ s.now → isSlice n = true → kindOf n = k →
    (s.slice n).st = calState n →
    (s.slice n).failed = false →
    (s.runInRange n a = true → s.runInRange n b = true → firstDisagreement k a b = none →
      ∃ t, exec (.calCompare k a b h) s = .next t ∧ t.fld (R.hltSliceStatus n) F.hltSliceStatus.disagree = 0 ∧
        t.reg (R.hltCalTime n) = BitVec.ofNat 64 s.now ∧
        (t.slice n).target = (Config.calResult a b).take (quantities k).length ∧
        (run.bit R.hltCfg F.hltCfg.stepMode = true ∨ (s.port n).covered = false → (t.slice n).corr = (t.slice n).target) ∧
        (run.bit R.hltCfg F.hltCfg.stepMode = false → (s.port n).covered = true → (t.slice n).corr = (s.slice n).corr)) ∧
    (s.runInRange n a = false ∨ s.runInRange n b = false →
      ∃ t, exec (.calCompare k a b h) s = .next t ∧ (t.slice n).failed = true ∧
        t.fld (R.hltSliceStatus n) F.hltSliceStatus.cause = 2) ∧
    (∀ y d, s.runInRange n a = true → s.runInRange n b = true → firstDisagreement k a b = some y →
      d = s.fld (R.hltSliceStatus n) F.hltSliceStatus.disagree + 1 →
      (d < max 1 (run.fld R.hltCfg F.hltCfg.disagreeMax) → ∃ t, exec (.calCompare k a b h) s = .next t ∧
        t.fld (R.hltSliceStatus n) F.hltSliceStatus.disagree = d ∧ t.slices = s.slices ∧
        t.spareReg k F.hltSpare.next = n) ∧
      (max 1 (run.fld R.hltCfg F.hltCfg.disagreeMax) ≤ d → ∃ t, exec (.calCompare k a b h) s = .next t ∧
        (t.slice n).failed = true ∧ t.fld (R.hltSliceStatus n) F.hltSliceStatus.cause = 3))) ∧
  ∀ (n : Nat) (s : State), isSlice n = true → s.up = true →
    (s.now % 40000 = 0 → (s.slice n).slewAt ≠ some s.now → (s.slice n).corr ≠ (s.slice n).target →
      (s.runOf n).isSome = true →
      ∃ t, exec (.correctionSlew n) s = .next t ∧ (t.slice n).target = (s.slice n).target ∧
        (t.slice n).corr.length = (s.slice n).target.length ∧
        (∀ i c g : _, i < (s.slice n).target.length → c = (s.slice n).corr.getD i 0 → g = (s.slice n).target.getD i 0 →
          (t.slice n).corr.getD i 0 = (if Int.tdiv (g - c) 16 ≠ 0 then c + Int.tdiv (g - c) 16 else if c < g then c + 1
            else if g < c then c - 1 else c)) ∧
        t.bit (R.hltSliceStatus n) F.hltSliceStatus.slewing = decide ((t.slice n).corr ≠ (s.slice n).target)) ∧
    (s.now % 40000 ≠ 0 ∨ (s.slice n).corr = (s.slice n).target ∨ s.runOf n = none → exec (.correctionSlew n) s = .next s)

/-- Ageing and the logbook (R340, R341, R345, R367, R368): a measurement every 10 s, an AVS step every 10 ms and a summary every
24 h of site time, each once in its period (the periods count from the start of site time, notes/assumptions/28.md). degr_ppm is 10^6 × (1 − f_stressed ÷ f_reference), to either side
of it where that is no whole number; AVS moves the code by one below lo and above hi; the summary and the deferred records
join those that wait; a record takes the next blank slot with its CRC and commit marker, and a mismatch leaves the slot
without a commit word and tries again, up to 4 slots; the sector after the current one is erased. -/
def Obligations.AgeingAndLogbook : Prop :=
  (∀ (l : List (Nat × Nat)) (s : State), s.up = true →
    (s.hlt.ageDone < s.periods (sTicks 10) → ∃ t, exec (.ageMeasure l) s = .next t ∧
      t.hlt.ageDone = s.periods (sTicks 10) ∧ ∀ m : Fin 8,
      t.fld (R.hltAge m) F.hltAge.valid = 1 ∧ ∀ a b d, l.getD m (0, 0) = (a, b) → 0 < b → a ≤ b →
        d = t.fld (R.hltAge m) F.hltAge.degrPpm →
        d = 1000000 * (b - a) / b ∨ 1000000 * (b - a) % b ≠ 0 ∧ d = 1000000 * (b - a) / b + 1) ∧
    (s.periods (sTicks 10) ≤ s.hlt.ageDone → exec (.ageMeasure l) s = .next s)) ∧
  (∀ (mu : Int) (s : State), s.up = true → s.periods (msTicks 10) ≤ s.hlt.avsDone → exec (.avs mu) s = .next s) ∧
  (∀ (mu : Int) (s : State) (c lo hi : Nat), s.up = true → s.hlt.avsDone < s.periods (msTicks 10) →
    c = s.fld R.hltAvs F.hltAvs.code → lo = s.cfg R.hltAvs F.hltAvs.lo → hi = s.cfg R.hltAvs F.hltAvs.hi →
    (mu < 1000 * (if hi ≤ lo then (hi : Int) - 1 else lo) →
      (c < 28 → ∃ t, exec (.avs mu) s = .next t ∧ t.fld R.hltAvs F.hltAvs.code = c + 1 ∧
        t.fld R.hltAvs F.hltAvs.codeMax = max (c + 1) (s.fld R.hltAvs F.hltAvs.codeMax)) ∧
      (28 ≤ c → ∃ t, exec (.avs mu) s = .next t ∧ t.fld R.hltAvs F.hltAvs.code = c ∧
        t.fld R.hltAvs F.hltAvs.codeMax = max c (s.fld R.hltAvs F.hltAvs.codeMax) ∧ t.bit R.hltAvs F.hltAvs.atLimit = true)) ∧
    (1000 * (if hi ≤ lo then (hi : Int) - 1 else lo) ≤ mu →
      ∃ t, exec (.avs mu) s = .next t ∧ t.fld R.hltAvs F.hltAvs.code = (if 1000 * (hi : Int) < mu then c - 1 else c) ∧
        t.fld R.hltAvs F.hltAvs.codeMax = max c (s.fld R.hltAvs F.hltAvs.codeMax) ∧
        t.bit R.hltAvs F.hltAvs.atLimit = s.bit R.hltAvs F.hltAvs.atLimit)) ∧
  (∀ s : State, s.up = true →
    (s.hlt.summaryDone < s.periods (sTicks 86400) → ∃ t, ∃ p : List Word, exec .ageSummary s = .next t ∧ p.length = 4 ∧
      t.hlt.logQueue = s.hlt.logQueue ++ [{ type := 0x44, payload := p, tries := 0 }] ∧
      ∀ m : Fin 8, ((p.getD (m / 2) 0) >>> (32 * (m.val % 2))).setWidth 32 =
        BitVec.ofNat 32 (s.fld (R.hltAge m) F.hltAge.degrPpm)) ∧
    (s.periods (sTicks 86400) ≤ s.hlt.summaryDone → exec .ageSummary s = .next s)) ∧
  (∀ (k : BitVec 8) (x : LogRec) (at_ : Nat) (s : State), s.up = true → s.hlt.deferred = [x] → x.type = k →
    SMap.find s.hlt.lastLog k.toNat = some at_ →
    (at_ + 2400000000 ≤ s.now → ∃ t, exec (.logRateWindowEnd k) s = .next t ∧ t.hlt.deferred = [] ∧
      t.hlt.logQueue = s.hlt.logQueue ++ [x] ∧ SMap.find t.hlt.lastLog k.toNat = some s.now) ∧
    (s.now < at_ + 2400000000 → exec (.logRateWindowEnd k) s = .next s)) ∧
  (∀ (x : LogRec) (i : Nat) (ws : List Word) (s : State), s.logReady = true → s.nextLog = some x →
    s.blankSlot 4096 s.hlt.logSlot = some i → ws = [BitVec.ofNat 64 (x.type.toNat * 2 ^ 56 + s.hlt.logSeq.toNat),
      word2 (match s.boot.seq with | some q => q.epoch.toNat | none => s.clock.epoch.toNat)
        (min 0xFFFFFFFF (s.now / 40000))] ++ (List.range 5).map (fun j => x.payload.getD j 0) →
    (∃ t, exec (.logbookWrite true) s = .next t ∧ t.hlt.logSeq = s.hlt.logSeq + 1 ∧ t.hlt.logSlot = (i + 1) % 4096 ∧
      (∀ j, j < 7 → t.flashWord (0x00800000 + 64 * i + 8 * j) = ws.getD j 0) ∧
      t.flashWord (0x00800000 + 64 * i + 56) = word2 (crc32cWords ws) 0x5A5AC3C3 ∧ t.hlt.epochDue = false ∧
      t.hlt.logQueue = (if s.hlt.epochDue then s.hlt.logQueue else s.hlt.logQueue.tail)) ∧
    (s.hlt.epochDue = false → ∃ t, exec (.logbookWrite false) s = .next t ∧ t.hlt.logSeq = s.hlt.logSeq ∧
      t.hlt.logSlot = (i + 1) % 4096 ∧ t.flashWord (0x00800000 + 64 * i + 56) = 0xFFFFFFFFFFFFFFFF ∧
      t.hlt.logQueue = (if 4 ≤ x.tries + 1 then s.hlt.logQueue.tail
        else { x with tries := x.tries + 1 } :: s.hlt.logQueue.tail))) ∧
  ∀ (sector : Nat) (s : State), s.up = true → s.noLog = false → sector = (s.hlt.logSlot / 64 + 1) % 64 →
    ∃ t, exec .logbookErase s = .next t ∧ ∀ a, t.flashByte a =
      (if 0x00800000 + 4096 * sector ≤ a ∧ a < 0x00800000 + 4096 * (sector + 1) then 0xFF else s.flashByte a)

/-- FLASH_READ, FLASH_PROGRAM, FLASH_ERASE and FLASH_CMD_DONE (R370): a command is taken when none is busy, and refused with
cmd_refused else; a PROGRAM or ERASE of the logbook is refused with region_refused. READ fills CFG_FLASH_DATA from the
64-byte page (that an address within a page is rounded down to it is the model's reading, notes/assumptions/52.md), ERASE sets the 4 KiB sector to 0xFF, PROGRAM writes a page that is blank, and sets not_blank on any other. -/
def Obligations.FlashCommands : Prop :=
  (∀ (c : Instr) (op : Nat) (m : PMaster) (addr : BitVec 32) (s : State), s.cfgServedTo m = true →
    (c, op) ∈ [(.flashRead m addr, 1), (.flashProgram m addr, 2), (.flashErase m addr, 3)] →
    (s.bit R.cfgFlashStatus F.cfgFlashStatus.busy = true →
      ∃ t, exec c s = .next t ∧ t.boot = s.boot ∧ t.flash = s.flash ∧
        t.bit R.cfgFlashStatus F.cfgFlashStatus.cmdRefused = true ∧ ∀ o, o ≠ R.cfgFlashStatus → t.reg o = s.reg o) ∧
    (s.bit R.cfgFlashStatus F.cfgFlashStatus.busy = false →
      (op = 1 ∨ addr.toNat < 0x00800000 ∨ 0x00840000 ≤ addr.toNat →
        ∃ t, exec c s = .next t ∧ t.boot.flashCmd = some (op, addr.toNat) ∧
          t.bit R.cfgFlashStatus F.cfgFlashStatus.busy = true ∧ t.flash = s.flash) ∧
      (op ≠ 1 → 0x00800000 ≤ addr.toNat → addr.toNat < 0x00840000 →
        ∃ t, exec c s = .next t ∧ t.boot = s.boot ∧
          t.bit R.cfgFlashStatus F.cfgFlashStatus.regionRefused = true ∧ t.flash = s.flash))) ∧
  ∀ (op a page : Nat) (s : State), s.boot.flashCmd = some (op, a) → page = a / 64 * 64 →
    (op = 1 → ∀ good, ∃ t, exec (.flashCmdDone good) s = .next t ∧ t.boot.flashCmd = none ∧
      t.bit R.cfgFlashStatus F.cfgFlashStatus.busy = false ∧ t.flash = s.flash ∧
      ∀ i, i < 8 → t.reg (R.cfgFlashData i) = s.flashWord (page + 8 * i)) ∧
    (op = 3 → ∀ good, ∃ t, exec (.flashCmdDone good) s = .next t ∧ t.boot.flashCmd = none ∧
      t.bit R.cfgFlashStatus F.cfgFlashStatus.busy = false ∧
      ∀ b, t.flashByte b = (if b / 4096 = a / 4096 then 0xFF else s.flashByte b)) ∧
    (op = 2 → s.blankPage page = false → ∀ good, ∃ t, exec (.flashCmdDone good) s = .next t ∧ t.boot.flashCmd = none ∧
      t.bit R.cfgFlashStatus F.cfgFlashStatus.busy = false ∧ t.flash = s.flash ∧
      t.bit R.cfgFlashStatus F.cfgFlashStatus.notBlank = true) ∧
    (op = 2 → s.blankPage page = true →
      (∃ t, exec (.flashCmdDone true) s = .next t ∧ t.boot.flashCmd = none ∧
        (∀ i, i < 8 → t.flashWord (page + 8 * i) = s.reg (R.cfgFlashData i)) ∧
        ∀ b, b / 64 ≠ a / 64 → t.flashByte b = s.flashByte b) ∧
      (∃ t, exec (.flashCmdDone false) s = .next t ∧ t.boot.flashCmd = none ∧
        t.bit R.cfgFlashStatus F.cfgFlashStatus.verifyFail = true ∧
        ∀ b, b / 64 ≠ a / 64 → t.flashByte b = s.flashByte b))

/-! ### The plan checker (R49 to R51, R53) -/

/-- What the plan checker answers (R49 to R51, R53). Its first pass takes the header, codes 0x01 to 0x03 in order, with index and
offset 0, and then the stakes in index order: the first one that fails any of 0x04 to 0x0F is reported with its first code, its index
and its start (said with the conditions of ORDER, EXTENT and TEMPLATE). Its second pass sweeps the cycle: of the ticks at which two stakes
share a port, a check unit or a decoder, a target has more wheel entries than SCH_WHEEL_LIMIT, and the windows of 400 ticks whose claims
exceed PWR_CEIL, the verdict names the lowest offset, and there the lowest code; a SLICE_OVERLAP names the lower stake of its pair, a
WHEEL or POWER failure the lowest stake active there. Where the sweep finds nothing, NO_SEAM is reported for the lowest port that lacks a
seam, with the lowest stake on it and offset 0, and a plan that has all its seams passes. -/
def Obligations.CheckerAnswers : Prop :=
  ∀ (s : State) (b : Bool) (all : List Stake) (v : Verdict) (header cycle count : Prop), all = s.stakes b → v = s.checkPlan b →
    (header ↔ Word.get (s.planWord b 0) (63, 32) ≠ 0x53504C4E ∨ Word.get (s.planWord b 0) (31, 16) ≠ 1 ∨
      Word.get (s.planWord b 1) (63, 32) ≠ 0 ∨ s.planWord b 3 ≠ 0 ∨ 131072 < s.planLen b) →
    (cycle ↔ s.planCycle b < 40000 ∨ 40000000 < s.planCycle b ∨ s.planCycle b % 400 ≠ 0) →
    (count ↔ s.planCount b = 0 ∨ 8192 < s.planCount b ∨ s.planLen b < 4 * s.planCount b + 4) →
    (header → v = { code := 0x01, stake := 0, offset := 0 }) ∧
    (¬ header → cycle → v = { code := 0x02, stake := 0, offset := 0 }) ∧
    (¬ header → ¬ cycle → count → v = { code := 0x03, stake := 0, offset := 0 }) ∧
    (∀ (before : List Stake) (k : Stake),
      ((∃ e, before.getLast? = some e ∧ (k.start < e.start ∨ k.start = e.start ∧ k.port < e.port)) ↔
        s.stakeCode b all before k = 0x04) ∧
      (s.stakeCode b all before k ≠ 0x04 →
        (k.dur = 0 ∨ s.planCycle b < k.start + k.dur → s.stakeCode b all before k = 0x05) ∧
        (0 < k.dur → k.start + k.dur ≤ s.planCycle b → templateAllows k.template k.port = false →
          s.stakeCode b all before k = 0x06))) ∧
    (¬ header → ¬ cycle → ¬ count →
      (∀ before k after, all = before ++ k :: after →
        (∀ l x m, before = l ++ x :: m → s.stakeCode b all l x = 0) → s.stakeCode b all before k ≠ 0 →
        v = { code := s.stakeCode b all before k, stake := k.idx, offset := k.start }) ∧
      ((∀ l x m, all = l ++ x :: m → s.stakeCode b all l x = 0) →
        (∀ x ∈ all, ∀ y ∈ all, x.idx < y.idx → x.start < activeEnd all y → y.start < activeEnd all x →
          ((∃ p ∈ x.ports, p ∈ y.ports) → v.code ≠ 0 ∧ v.offset ≤ max x.start y.start ∧
            (v.offset = max x.start y.start → v.code = 0x10 ∧ v.stake ≤ x.idx)) ∧
          (x.chkMask &&& y.chkMask ≠ 0 → v.code ≠ 0 ∧ v.offset ≤ max x.start y.start ∧
            (v.offset = max x.start y.start → v.code ≤ 0x11)) ∧
          (x.decoder ≠ 0 → x.decoder = y.decoder → v.code ≠ 0 ∧ v.offset ≤ max x.start y.start ∧
            (v.offset = max x.start y.start → v.code ≤ 0x12))) ∧
        (∀ target t, s.fld R.schWheelLimit F.schWheelLimit.limit < wheelSum all target t →
          v.code ≠ 0 ∧ v.offset ≤ t ∧ (v.offset = t → v.code ≤ 0x13)) ∧
        (∀ w, s.ceil < s.windowSum all w → v.code ≠ 0 ∧ v.offset ≤ 400 * w ∧ (v.offset = 400 * w → v.code ≤ 0x14)) ∧
        (v.code = 0x10 → ∃ x ∈ all, ∃ y ∈ all, x.idx < y.idx ∧ (∃ p ∈ x.ports, p ∈ y.ports) ∧
          x.start < activeEnd all y ∧ y.start < activeEnd all x ∧ v.offset = max x.start y.start ∧ v.stake = x.idx) ∧
        (v.code = 0x13 → (∃ target, s.fld R.schWheelLimit F.schWheelLimit.limit < wheelSum all target v.offset) ∧
          v.stake = firstActive all v.offset (v.offset + 1)) ∧
        (v.code = 0x14 → ∃ w, v.offset = 400 * w ∧ s.ceil < s.windowSum all w ∧
          v.stake = firstActive all (400 * w) (400 * w + 400)) ∧
        ((∀ x ∈ all, ∀ y ∈ all, x.idx < y.idx → x.start < activeEnd all y → y.start < activeEnd all x →
            (∀ p ∈ x.ports, p ∉ y.ports) ∧ x.chkMask &&& y.chkMask = 0 ∧ (x.decoder = 0 ∨ x.decoder ≠ y.decoder)) →
          (∀ target t, wheelSum all target t ≤ s.fld R.schWheelLimit F.schWheelLimit.limit) →
          (∀ w, s.windowSum all w ≤ s.ceil) → ∀ seamless : Nat → Prop,
          (∀ p, seamless p ↔ isPort p = true ∧ s.rotOn p = true ∧ (∃ k ∈ all, p ∈ k.ports) ∧
            longestGap (s.planCycle b) (spansOf all p) < s.seamMin) →
          ((∀ p, ¬ seamless p) → v = { code := 0, stake := 0, offset := 0 }) ∧
          ∀ p, seamless p → (∀ p', p' < p → ¬ seamless p') →
            v.code = 0x15 ∧ v.offset = 0 ∧ ∃ k ∈ all, p ∈ k.ports ∧ v.stake = k.idx ∧
              ∀ x ∈ all, p ∈ x.ports → k.idx ≤ x.idx)))

/-! ### Power, reset and boot (R52, R349 to R364) -/

/-- PWR_CEIL_WRITE (R52): a ceiling below the peak of the active plan, or below that of a plan that is pending a swap, has no
effect and sets SCH_STATUS.ceil_refused; any other ceiling is taken. That the ceiling that acts, 5,000 to 45,000 mW, is the one compared
is the model's reading (notes/assumptions/53.md).
POWER_WINDOW, PWR_HF_RAIL_WRITE, ENTER_HIBERNATE, ENTER_WATCH and LOW_POWER_ENTRY_DONE (R240, R349, R350, R352): the last
window is shown, and one above the ceiling is flagged and counted, with no action on stakes; the rails are not written while
a plan runs; a low-power entry begins in READY or RUN and stops the plan, and it is complete when nothing runs, the logbook
has no write left and no flash command is busy: every slice is OFF, and for WATCH the Lantern registers are copied. -/
def Obligations.PowerStates : Prop :=
  (∀ (m : PMaster) (v : Word) (new : Nat) (s : State), s.up = true → new = clamp 5000 45000 (Word.get v F.pwrCeil.ceilMw) →
    (s.bit R.schStatus F.schStatus.loaded = true ∧ new < s.fld R.schPeakMw F.schPeakMw.peak ∨
      s.bit R.schStatus F.schStatus.swapPending = true ∧ new < (s.peak (!s.activeBank)).1 →
      exec (.pwrCeilWrite m v) s = .next (s.setBit R.schStatus F.schStatus.ceilRefused true)) ∧
    ((s.bit R.schStatus F.schStatus.loaded = true → s.fld R.schPeakMw F.schPeakMw.peak ≤ new) →
      (s.bit R.schStatus F.schStatus.swapPending = true → (s.peak (!s.activeBank)).1 ≤ new) →
      ∃ t, exec (.pwrCeilWrite m v) s = .next t ∧ t.fld R.pwrCeil F.pwrCeil.ceilMw = Word.get v F.pwrCeil.ceilMw ∧
        ∀ o, o ≠ R.pwrCeil → t.reg o = s.reg o)) ∧
  (∀ (m : PMaster) (mw : BitVec 32) (v : Word) (s : State), s.up = true →
    (∃ t, exec (.powerWindow mw) s = .next t ∧ t.fld R.pwrStatus F.pwrStatus.inputMw = mw.toNat ∧ t.runs = s.runs ∧
      (s.ceiling < mw.toNat → t.bit R.pwrStatus F.pwrStatus.over = true ∧
        t.fld R.pwrOverCnt F.pwrOverCnt.count = (s.fld R.pwrOverCnt F.pwrOverCnt.count + 1) % 2 ^ 32) ∧
      (mw.toNat ≤ s.ceiling → t.bit R.pwrStatus F.pwrStatus.over = s.bit R.pwrStatus F.pwrStatus.over ∧
        t.reg R.pwrOverCnt = s.reg R.pwrOverCnt)) ∧
    (s.running = true → exec (.pwrHfRailWrite m v) s = .next s) ∧
    (s.running = false → s.locked = false → ∃ t, exec (.pwrHfRailWrite m v) s = .next t ∧
      t.fld R.pwrHfRail F.pwrHfRail.haDv = Word.get v F.pwrHfRail.haDv ∧
      t.fld R.pwrHfRail F.pwrHfRail.hbDv = Word.get v F.pwrHfRail.hbDv)) ∧
  (∀ (m : PMaster) (c : Instr) (p : PowerState) (n : Nat) (s : State),
    (c, p, n) ∈ [(.enterHibernate m, .hibernate, 1), (.enterWatch m, .watch, 2)] →
    (s.up = false → exec c s = .next s) ∧
    (s.up = true → s.boot.entering = none → ∃ t, exec c s = .next t ∧ t.boot = { s.boot with entering := some p } ∧
      t.sch = { s.sch with startAt := none } ∧ t.fld R.pwrCtrl F.pwrCtrl.target = n ∧
      t.bit R.pwrCtrl F.pwrCtrl.enter = true)) ∧
  ∀ (p : PowerState) (s : State), p = .hibernate ∨ p = .watch → s.boot.entering = some p →
    (s.up = true → s.running = false → s.runs = [] →
      (s.noLog = true ∨ s.hlt.epochDue = false ∧ s.hlt.logQueue = []) →
      s.bit R.cfgFlashStatus F.cfgFlashStatus.busy = false →
      ∃ t, exec .lowPowerEntryDone s = .next t ∧ t.boot.power = p ∧ t.boot.entering = none ∧ t.boot.rstoutN = false ∧
        t.up = false ∧ t.hif.pcieUp = false ∧ (∀ n, (t.slice n).st = .off) ∧ t.tap.ir = .idcode ∧
        (p = .hibernate → t.lantern = s.lantern) ∧
        (p = .watch → t.lantern.aon.getD 0 0 = s.reg R.lntCfg ∧
          (∀ e, e < 4 → t.lantern.aon.getD (1 + e) 0 = s.reg (R.lntPort e) ∧
            t.lantern.aon.getD (5 + e) 0 = s.reg (R.lntBase e) ∧ t.lantern.aon.getD (9 + e) 0 = 0) ∧
          t.lantern.roundAt = s.clock.aon + 40000 * clamp 50 2000 (s.fld R.lntCfg F.lntCfg.intervalMs))) ∧
    (s.running = true ∨ s.runs ≠ [] ∨ s.bit R.cfgFlashStatus F.cfgFlashStatus.busy = true ∨
        s.noLog = false ∧ (s.hlt.epochDue = true ∨ s.hlt.logQueue ≠ []) →
      exec .lowPowerEntryDone s = .next s)

/-- POR, BROWNOUT, WAKE, RTC_ALARM, RESET_PIN, WATCHDOG, SOFTWARE, THERMAL, END_OF_CAUSE and BLOCK_RESET (R353 to R356, R359,
R410, R411): a source resets the logic and starts the sequence at step 1, cold for POR, BROWNOUT and WAKE and when a cold
sequence is interrupted before the zeroing; RST_CAUSE shows it; registers take their reset values but for those of R411; at a POR VIN is valid; no
byte outside the presence tables changes. BROWNOUT, RESET_PIN and THERMAL hold the part until they end. A block that is idle
is reset, and one that is not sets block_refused. Straps are to be sampled after POR, BROWNOUT, WAKE and RESET_PIN, and when the
sequence that is interrupted had still to sample them (R355, R358); the discrepancy latch outlasts all but a POR (R387). A
cold sequence that is restarted warm holds the weak pull-downs of its balls (R355, R356). That a BROWNOUT while the part sleeps switches
it off and that RTC_ALARM wakes at equality (notes/assumptions/53.md), and that the SPI block is always idle for a block reset
(notes/assumptions/54.md), is the model's reading. -/
def Obligations.ResetSources : Prop :=
  (∀ (c : Instr) (w : Cause) (m : PMaster) (v : Word) (s : State),
    (c = .por ∧ w = .por ∨
      (c = .wake ∨ c = .rtcAlarm ∧ s.fld R.pwrRtcAlarm F.pwrRtcAlarm.alarm ≠ 0 ∧
        s.clock.aon / 40000000 % 2 ^ 32 = s.fld R.pwrRtcAlarm F.pwrRtcAlarm.alarm) ∧ w = .wake ∧
        (s.boot.power = .hibernate ∨ s.boot.power = .watch) ∨
      (c = .brownout ∧ w = .brownout ∧ s.asleep = false ∨ c = .resetPin ∧ w = .resetPin ∨ c = .thermal ∧ w = .thermal) ∧
        (s.boot.seq.isSome = true ∨ s.up = true) ∨
      c = .watchdog ∧ w = .watchdog ∧ s.up = true ∧ s.running = true ∧
        s.sch.lastBoundary + max (4 * s.fld R.schCycleTicks F.schCycleTicks.ticks) 4000000 ≤ s.now ∨
      (c = .software m v ∨ c = .blockReset m v) ∧ w = .software ∧ (s.up = true ∨ s.boot.windowsOnly = true ∧ m.val < 2) ∧
        Word.get v F.rstCtrl.key = 0x5752 ∧ Word.get v F.rstCtrl.swReset = 1) →
    ∃ t q, exec c s = .next t ∧ t.boot.seq = some q ∧ q.step = 1 ∧ q.zeroed = false ∧
      (q.cold = true ↔ w ∈ [.por, .brownout, .wake] ∨ ∃ q', s.boot.seq = some q' ∧ q'.cold = true ∧ q'.zeroed = false) ∧
      (∀ x, x ∈ q.held ↔ x = w ∧ w ∈ [.brownout, .resetPin, .thermal] ∨
        ∃ q', s.boot.seq = some q' ∧ x ∈ q'.held ∧ (w = .por → x ≠ .brownout)) ∧
      w ∈ q.causes ∧ (∀ x, (t.reg R.rstCause).getLsbD (causeBit x) = true ↔ x ∈ q.causes) ∧
      t.runs = [] ∧ t.requests = [] ∧ t.decoders = [] ∧ t.slices = State.reset.slices ∧ t.bufs = State.reset.bufs ∧
      t.fifos = State.reset.fifos ∧ t.sec = State.reset.sec ∧ t.flash = s.flash ∧ t.clock.site = 0 ∧
      t.clock.aon = (if w = .por then 0 else s.clock.aon) ∧
      (∀ a, t.byte a = if inPresence a then 0 else s.byte a) ∧
      (∀ o, o ∉ [R.rstCause, R.rstStraps, R.pwrRtcAlarm, R.cabRfoffStatus, R.lntStatus, R.hltAvs, R.cabGpioOut, R.cxpCfg] →
        (∀ n, n < 64 → o ≠ R.cabGpioCfg n) → (∀ n, n < 17 → o ≠ R.uhaPaCfg n) → t.reg o = resetWord o) ∧
      (w ≠ .por → t.reg R.pwrRtcAlarm = s.reg R.pwrRtcAlarm) ∧
      (∀ n, n < 17 → t.reg (R.uhaPaCfg n) = (if q.cold then resetWord (R.uhaPaCfg n) else s.reg (R.uhaPaCfg n))) ∧
      (q.cold = false → w ≠ .resetPin → s.bootBalls ≠ some true → ∀ n, n < 64 →
        t.reg (R.cabGpioCfg n) = s.reg (R.cabGpioCfg n)) ∧
      (q.cold = false → s.bootBalls = some true → ∀ n, n < 64 →
        t.reg (R.cabGpioCfg n) = Word.put 0 F.cabGpioCfg.pull 1) ∧
      (q.samples = true ↔ w ∈ [.por, .brownout, .wake, .resetPin] ∨
        ∃ q', s.boot.seq = some q' ∧ q'.samples = true ∧ q'.step < 3) ∧
      t.bit R.cabRfoffStatus F.cabRfoffStatus.latched =
        (!decide (w = .por) && s.bit R.cabRfoffStatus F.cabRfoffStatus.latched) ∧
      (w ≠ .por → t.reg R.rstStraps = s.reg R.rstStraps)) ∧
  (∀ (s : State), (s.asleep = true →
      exec .brownout s = .next ((s.setBoot { s.boot with power := .off }).setTap State.reset.tap)) ∧
    (s.sch.lastBoundary + max (4 * s.fld R.schCycleTicks F.schCycleTicks.ticks) 4000000 > s.now →
      exec .watchdog s = .next s) ∧
    ∀ q w, s.boot.seq = some q →
      ∃ t q', exec (.endOfCause w) s = .next t ∧ t.boot.seq = some q' ∧ q'.step = q.step ∧
        ∀ x, x ∈ q'.held ↔ x ∈ q.held ∧ x ≠ w) ∧
  ∀ (m : PMaster) (v : Word) (c : Instr) (s : State), c = .blockReset m v ∨ c = .software m v → s.up = true →
    (Word.get v F.rstCtrl.key ≠ 0x5752 ∨ Word.get v F.rstCtrl.swReset = 0) →
    ∃ t, exec c s = .next t ∧ t.boot = s.boot ∧ t.clock = s.clock ∧ (∀ o, o ≠ R.rstCtrl → t.reg o = s.reg o) ∧
      ((∃ i, i < 8 ∧ v.getLsbD i = true ∧ s.blockIdle i = false) → t.bit R.rstCtrl F.rstCtrl.blockRefused = true) ∧
      t.decoders = (if v.getLsbD 0 = true ∧ (∀ r ∈ s.runs, r.stake.decoder = 0) then [] else s.decoders) ∧
      t.guy = (if v.getLsbD 1 = true ∧ s.reg R.guyLaneHeld = 0 ∧ s.bit R.guyStatus F.guyStatus.isMaster = false then
        { Guy.dflt with enabledAt := s.now } else s.guy) ∧
      t.trl = (if v.getLsbD 2 = true ∧ s.bit R.trlCfg F.trlCfg.enable = false then { buf := [], lost := 0 } else s.trl) ∧
      (v.getLsbD 5 = true → t.hif.spi.nonce = none ∧ t.hif.spi.lastFailed = false) ∧
      (v.getLsbD 6 = true → (∀ r ∈ s.runs, r.template ≠ 0x0B) → t.lantern.runs = [] ∧ t.lantern.queue = [] ∧
        t.lantern.confirm = [] ∧ t.lantern.burst = none ∧ t.lantern.pings = [])

/-- RESET_SEQUENCE_STEP_DONE, IMAGE_TIMEOUT, RESTAGE, CFG_STAGE and LOAD (R260, R341, R355, R357, R358, R360 to R364, R369): a
held sequence waits; else each step follows the one before it, but that a warm reset runs step 4 after step 5. Step 3 samples the levels of GP0 to GP3, step 4 zeroes
Groundsheet on a cold reset and compares the runs of the start-up calibration (a slice whose runs disagree fails), step 5
chooses the epoch, step 6 reads the sources of BOOTSEL in order into the staging area and keeps the first one whose structure is right, step 7
verifies it, goes on to the next source when it fails, and applies it, in a state that follows its REG pairs, unless one of
them starts a reset, which ends the application; the serial floor is said of an image whose pairs name plain registers; and
READY starts site time at 0 with the plan checker. A host load waits for the timeout, a staged image that fails shows its code, and before the sequence waits for an image, or
once one has been applied, a load has no effect. What of an image step 6 checks and what step 7, and that a load works in
windows-only mode while the sequence waits at step 6 alone, is the model's reading (notes/assumptions/50.md). -/
def Obligations.BootSequence : Prop :=
  (∀ (i : BootInput) (q : ResetSeq) (s : State), s.boot.seq = some q →
    (q.held ≠ [] → exec (.resetSequenceStepDone i) s = .next s) ∧
    (q.held = [] → ∃ t, exec (.resetSequenceStepDone i) s = .next t ∧
      (q.step = 0 → t.boot.seq = some { q with step := 1 } ∧ t.mem = s.mem) ∧
      (q.step = 1 → t.boot.seq = some { q with step := 2 } ∧ t.mem = s.mem) ∧
      (q.step = 2 → t.boot.seq = some { q with step := 3 } ∧
        (q.samples = false → t.reg R.rstStraps = s.reg R.rstStraps) ∧
        (q.samples = true → ∀ n, n < 64 → (t.reg R.rstStraps).getLsbD n = (decide (n < 4) && t.ballLevel n) ∧
          (n < 4 → SMap.find t.cab.ext n = i.straps.getD n none))) ∧
      (q.cold = true ∧ q.step = 3 ∨ q.cold = false ∧ q.step = 5 → t.boot.seq = some { q with step := 4, zeroed := q.zeroed || q.cold, cal := i.cal } ∧
        ∀ (u : State) (bad : Nat → Option (Nat × Int × Int)),
          u = ((if q.cold then (s.setMem []).setEcc [] else s).setBoot t.boot) →
          (∀ n, bad n = firstDisagreement (kindOf (calOf i.cal n).slice) (calOf i.cal n).a (calOf i.cal n).b) →
          ((∀ n ∈ allSlices, bad n = none) → t = u) ∧
          ∀ n x y z, n ∈ allSlices → bad n = some (x, y, z) → (∀ n' ∈ allSlices, n' ≠ n → bad n' = none) →
            t = u.failSlice (calOf i.cal n).slice 6 [BitVec.ofInt 64 y, BitVec.ofInt 64 z]) ∧
      (q.cold = true ∧ q.step = 4 ∨ q.cold = false ∧ q.step = 3 → ∃ e, t.boot.seq = some { q with step := 5, epoch := e, sfdp := i.sfdp } ∧
        (i.sfdp = false ∨ newestType s.logRecords 0x01 = none → e = s.clock.aonEpoch + 1 ∧ t.boot.floor = 0) ∧
        (∀ ws, i.sfdp = true → newestType s.logRecords 0x01 = some ws →
          e.toNat = (max s.clock.aonEpoch.toNat (bf ws 1 63 32) + 1) % 2 ^ 32 ∧ t.boot.floor.toNat = bf ws 2 31 0) ∧
        (i.sfdp = false → t.fld R.hltAvs F.hltAvs.code = 28 ∧ t.bit R.cfgStatus F.cfgStatus.noLog = true)) ∧
      (q.cold = true ∧ q.step = 5 ∨ q.cold = false ∧ q.step = 4 → t.boot.seq = some { q with step := 6 } ∧
        ∀ b img, b = s.fld R.rstStraps F.rstStraps.bootsel → img = s.sourceImage q.sfdp i.eeprom →
          (b = 3 → t.boot.image = s.boot.image ∧ t.regs = s.regs) ∧
          (b = 2 → t.boot.staged = (img 2).getD [] ∧
            t.fld R.cfgStagePtr F.cfgStagePtr.words = ((img 2).getD []).length %
              2 ^ (F.cfgStagePtr.words.1 + 1 - F.cfgStagePtr.words.2) ∧
            (structCode (img 2) = 1 → t.boot.image = (img 2).map fun ws => (ws, 2)) ∧
            (structCode (img 2) ≠ 1 → t.boot.image = s.boot.image ∧
              t.fld R.cfgStatus F.cfgStatus.result = structCode (img 2))) ∧
          (b < 2 → (structCode (img b) = 1 → t.boot.image = (img b).map (fun ws => (ws, b)) ∧
              t.boot.staged = (img b).getD []) ∧
            (structCode (img b) ≠ 1 → t.boot.staged = (img (1 - b)).getD []) ∧
            (structCode (img b) ≠ 1 → structCode (img (1 - b)) = 1 →
              t.boot.image = (img (1 - b)).map fun ws => (ws, 1 - b)) ∧
            (structCode (img b) ≠ 1 → structCode (img (1 - b)) ≠ 1 → t.boot.image = s.boot.image ∧
              t.fld R.cfgStatus F.cfgStatus.result = structCode (img (1 - b))))) ∧
      (q.step = 6 → s.boot.image = none → t = s) ∧
      (∀ ws src next, q.step = 6 → s.boot.image = some (ws, src) → s.imageCode (some ws) ≠ 1 →
        next = s.sourceImage q.sfdp i.eeprom (1 - src) →
        t.boot.seq = some q ∧ t.boot.applied = s.boot.applied ∧ t.boot.floor = s.boot.floor ∧
        (s.fld R.rstStraps F.rstStraps.bootsel = src → src < 2 → structCode next = 1 →
          t.boot.image = next.map (fun ws => (ws, 1 - src)) ∧
          t.fld R.cfgStatus F.cfgStatus.result = s.imageCode (some ws)) ∧
        (s.fld R.rstStraps F.rstStraps.bootsel = src → src < 2 → structCode next ≠ 1 →
          t.boot.image = none ∧ t.fld R.cfgStatus F.cfgStatus.result = structCode next) ∧
        (s.fld R.rstStraps F.rstStraps.bootsel ≠ src ∨ 2 ≤ src → s.fld R.rstStraps F.rstStraps.bootsel ≤ 2 →
          src ≤ 2 → (s.fld R.rstStraps F.rstStraps.bootsel < 2 ↔ src < 2) →
          t.boot.image = none ∧ t.fld R.cfgStatus F.cfgStatus.result = s.imageCode (some ws))) ∧
      (∀ ws src f u, q.step = 6 → s.boot.image = some (ws, src) → s.imageCode (some ws) = 1 → src < 4 →
        f = (if Word.get (ws.getD 2 0) (1, 1) = 1 then BitVec.ofNat 32 (imageSerial ws) else s.boot.floor) →
        u = (s.setBoot { s.boot with seq := none, floor := f }).applyRegs ws →
        (u.boot.seq.isSome = true → t = u) ∧
        (u.boot.seq = none → t.boot.seq = some { q with step := 7 } ∧ t.boot.applied = true ∧ t.boot.windowsOnly = false ∧
          t.fld R.cfgStatus F.cfgStatus.result = 1 ∧ t.fld R.cfgStatus F.cfgStatus.source = src ∧
          t.fld R.cfgStatus F.cfgStatus.serial = imageSerial ws ∧ t.hlt.epochDue = true ∧
          (Word.get (ws.getD 2 0) (0, 0) = 1 → t.locked = true) ∧
          ((∀ p ∈ imageRegs ws, hookAt [writeHooks0, writeHooks1, writeHooks2].flatten p.1 = none) →
            t.boot.floor = f))) ∧
      (q.step = 7 → t.boot.seq = some { q with step := 8 }) ∧
      (q.step = 8 → t.up = true ∧ t.boot.power = .ready ∧ t.boot.rstoutN = true ∧ t.clock.site = 0 ∧
        t.clock.epoch = q.epoch ∧ t.bit R.schStatus F.schStatus.checking = true ∧
        t.sch.check = some { bank := false, atLoad := true }))) ∧
  ∀ (m : PMaster) (w : Word) (s : State),
    (s.boot.seq.isSome = true → s.boot.applied = false →
      ∃ t, exec .imageTimeout s = .next t ∧ t.boot = { s.boot with windowsOnly := true }) ∧
    (s.boot.seq = none ∨ s.boot.applied = true → exec .imageTimeout s = .next s) ∧
    (s.up = true ∨ s.boot.windowsOnly = true ∧ m.val < 2 →
      (∃ t, exec (.restage m) s = .next t ∧ t.boot.staged = [] ∧ t.fld R.cfgStagePtr F.cfgStagePtr.words = 0) ∧
      ∃ t, exec (.cfgStage m w) s = .next t ∧ t.boot.staged = s.boot.staged ++ [w] ∧
        t.fld R.cfgStagePtr F.cfgStagePtr.words = (s.fld R.cfgStagePtr F.cfgStagePtr.words + 1) %
          2 ^ (F.cfgStagePtr.words.1 + 1 - F.cfgStagePtr.words.2)) ∧
    (s.up = false → s.boot.windowsOnly = false ∨ 2 ≤ m.val →
      exec (.restage m) s = .next s ∧ exec (.cfgStage m w) s = .next s) ∧
    (s.boot.windowsOnly = false ∨ 2 ≤ m.val ∨ (∀ q, s.boot.seq = some q → q.step ≠ 6) ∨
        s.fld R.cfgStatus F.cfgStatus.result = 1 →
      exec (.load m) s = .next s) ∧
    (s.boot.windowsOnly = true → m.val < 2 → s.fld R.cfgStatus F.cfgStatus.result ≠ 1 → ∀ q img, s.boot.seq = some q → q.step = 6 →
      img = s.sourceImage false [] 3 →
      (s.imageCode img ≠ 1 → ∃ t, exec (.load m) s = .next t ∧ t.boot = s.boot ∧
        t.fld R.cfgStatus F.cfgStatus.result = s.imageCode img) ∧
      (∀ ws f u, img = some ws → s.imageCode img = 1 →
        f = (if Word.get (ws.getD 2 0) (1, 1) = 1 then BitVec.ofNat 32 (imageSerial ws) else s.boot.floor) →
        u = (s.setBoot { s.boot with seq := none, floor := f }).applyRegs ws →
        (u.boot.seq.isSome = true → exec (.load m) s = .next u) ∧
        (u.boot.seq = none →
          ∃ t, exec (.load m) s = .next t ∧ t.boot.seq = some { q with step := 7 } ∧ t.boot.applied = true ∧
            t.boot.windowsOnly = false ∧ t.boot.image = some (ws, 3) ∧ t.fld R.cfgStatus F.cfgStatus.result = 1 ∧
            t.fld R.cfgStatus F.cfgStatus.source = 3 ∧ t.fld R.cfgStatus F.cfgStatus.serial = imageSerial ws ∧
            (Word.get (ws.getD 2 0) (0, 0) = 1 → t.locked = true))))

/-! ### Guyline, trace and test (R375 to R400) -/

/-- Guyline (R373 to R382, R401). A BEACON of 98 bytes sets the sync, drops the lanes that it does not grant, and makes a
node of a higher identifier give way; the master's own carries its site time, its epoch and the grants, as the bytes of R374;
one that meets a busy bus is not sent in its cycle, and one with a collision is tried again later. An ACK is noted; the node
answers in its slot. A silent master is replaced after the timeout, and a node that may not be master holds its lanes alone
500 µs after it, where it may (that a takeover that is pending is not put off by a later BEACON, and that the first BEACON of a master
after a retry is the first of a new master, is the model's reading, notes/assumptions/103.md). Grants start at their time and end at the lane deadline; a frame whose CRC fails is counted.
With Guyline off none of these does anything. -/
def Obligations.GuylineNode : Prop :=
  ∀ s : State,
    (s.guyOn = true →
      (∀ f : BeaconFrame, f.grants.length ≠ 64 → exec (.beacon f) s = .next s) ∧
      (∀ f : BeaconFrame, f.grants.length = 64 → ∃ t, exec (.beacon f) s = .next t ∧
        t.guy.last = some { src := f.src.toNat, at_ := s.now - 3008, endAt := s.now, nextTicks := f.nextTicks.toNat,
                            number := f.number, grants := f.grants } ∧
        t.reg R.guyLaneHeld = s.reg R.guyLaneHeld &&& grantedTo f.grants s.nodeId ∧
        t.guy.grantAt = some (s.now + 20000, grantedTo f.grants s.nodeId) ∧ t.guy.soloAt = none ∧
        t.bit R.guyStatus F.guyStatus.soloActive = false ∧
        t.guyMaster = (s.guyMaster && !decide (f.src.toNat < s.nodeId)) ∧
        (s.guyMaster = false ∨ f.src.toNat < s.nodeId →
          t.reg R.guySync = f.siteTime - BitVec.ofNat 64 (s.now - 3008) ∧
          t.guy.ackAt = some (s.now + 800 + 1000 * s.nodeId)) ∧
        (f.src.toNat < s.nodeId → t.guy.txAt = none ∧ t.guy.retryAt = none) ∧
        (s.guyMaster = false → s.nodeId < f.src.toNat → s.cfgBit R.guyCfg F.guyCfg.masterOk = true →
          t.guy.txAt = some (s.guy.txAt.getD (s.now + 72800)))) ∧
      (∀ at_, s.guy.txAt = some at_ →
        (at_ + 3136 ≤ s.now → ∃ t f, exec (.beaconTransmit .idle) s = .next t ∧ t.guyMaster = true ∧
          f.src.toNat = s.nodeId ∧ f.siteTime = BitVec.ofNat 64 (at_ + 128) ∧ f.epoch = s.clock.epoch ∧
          f.number = s.guy.number + 1 ∧ f.grants = s.nextGrants at_ ∧ t.guy.number = f.number ∧
          f.nextTicks = BitVec.ofNat 32 (if s.running then s.cycleEnd - (at_ + 128) else 4000000 - 128) ∧
          t.reg R.guyLaneHeld = s.reg R.guyLaneHeld &&& grantedTo f.grants s.nodeId ∧
          t.guy.grantAt = some (at_ + 3136 + 20000, grantedTo f.grants s.nodeId) ∧
          t.guy.txAt = (if s.running then none else some (at_ + 4000000)) ∧
          (s.runs = [] → s.cxpMode ≠ 2 → t.out = .guyFrame (beaconBytes f) :: s.out)) ∧
        (at_ ≤ s.now → ∃ t, exec (.beaconTransmit .busy) s = .next t ∧
          t.guy.txAt = (if s.guyMaster && !s.running then some (at_ + 4000000) else none) ∧
          t.guyMaster = s.guyMaster ∧ t.guy.last = s.guy.last ∧ t.out = s.out) ∧
        (at_ ≤ s.now → ∃ t, exec (.beaconTransmit .mismatch) s = .next t ∧
          t.fld R.guyStatus F.guyStatus.collisions = min 63 (s.fld R.guyStatus F.guyStatus.collisions + 1) ∧
          t.guy.txAt = none ∧ t.guy.retryAt = some (at_ + 40000 * (20 + s.nodeId)) ∧
          t.reg R.guyLaneHeld = s.reg R.guyLaneHeld ∧ t.out = s.out)) ∧
      (∀ f : AckFrame, f.src.toNat ≠ s.nodeId → ∃ t, exec (.guylineAck f) s = .next t ∧
        SMap.find t.guy.acks f.src.toNat =
          some { lanes := f.lanes, masterOk := f.masterOk, heardAt := s.now, missed := 0 } ∧
        t.guy.last = s.guy.last) ∧
      (∀ at_ b, s.guy.ackAt = some at_ → at_ ≤ s.now → s.guy.last = some b →
        (∃ t, exec (.ackSlot .idle) s = .next t ∧ t.guy.ackAt = none ∧
          t.out = .guyFrame (ackBytes
            { src := BitVec.ofNat 5 s.nodeId, siteTime := BitVec.ofNat 32 (s.now + 128), number := b.number.setWidth 16,
              lanes := s.reg R.guyLaneReq, masterOk := s.cfgBit R.guyCfg F.guyCfg.masterOk }) :: s.out) ∧
        (∃ t, exec (.ackSlot .busy) s = .next t ∧ t.guy.ackAt = none ∧ t.out = s.out ∧
          t.reg R.guyStatus = s.reg R.guyStatus) ∧
        (∃ t, exec (.ackSlot .mismatch) s = .next t ∧ t.bit R.guyStatus F.guyStatus.idClash = true ∧ t.out = s.out ∧
          t.fld R.guyStatus F.guyStatus.collisions = min 63 (s.fld R.guyStatus F.guyStatus.collisions + 1))) ∧
      (s.guyMaster = false →
        (s.cfgBit R.guyCfg F.guyCfg.masterOk = true → s.guy.txAt = none → s.guy.retryAt = none →
          s.guyBase + s.guyTimeout + 40000 * s.nodeId ≤ s.now →
          ∃ t, exec .masterTimeout s = .next t ∧ t.guyMaster = true ∧ t.guy.txAt = some s.now) ∧
        (s.cfgBit R.guyCfg F.guyCfg.masterOk = false → s.bit R.guyCfg F.guyCfg.solo = true →
          s.bit R.guyStatus F.guyStatus.soloActive = false → s.guyBase + s.guyTimeout ≤ s.now →
          ∃ t, exec .masterTimeout s = .next t ∧ t.bit R.guyStatus F.guyStatus.soloActive = false ∧
            t.reg R.guyLaneHeld = s.reg R.guyLaneHeld ∧
            t.guy.soloAt = some (s.guyBase + s.guyTimeout + 20000)) ∧
        (s.now < s.guyBase + s.guyTimeout → exec .masterTimeout s = .next s)) ∧
      (∀ at_, s.guy.retryAt = some at_ →
        (at_ ≤ s.now → ∃ t, exec .beaconRetry s = .next t ∧ t.guy.retryAt = none ∧ t.guy.txAt = some at_) ∧
        (s.now < at_ → exec .beaconRetry s = .next s)) ∧
      (∀ at_ w, s.guy.grantAt = some (at_, w) → s.guy.soloAt = none →
        (at_ ≤ s.now → ∃ t, exec .laneGrantStart s = .next t ∧ t.guy.grantAt = none ∧
          t.reg R.guyLaneHeld = s.reg R.guyLaneHeld ||| w) ∧
        (s.now < at_ → exec .laneGrantStart s = .next s)) ∧
      (∀ at_, s.guy.soloAt = some at_ → s.guy.grantAt = none →
        (at_ ≤ s.now → ∃ t, exec .laneGrantStart s = .next t ∧ t.guy.soloAt = none ∧
          t.bit R.guyStatus F.guyStatus.soloActive = true ∧
          t.reg R.guyLaneHeld = s.reg R.guyLaneHeld ||| s.reg R.guyLaneReq) ∧
        (s.now < at_ → exec .laneGrantStart s = .next s)) ∧
      (∀ b, s.guy.last = some b → s.bit R.guyStatus F.guyStatus.soloActive = false →
        (b.at_ + b.nextTicks + 8000 ≤ s.now → ∃ t, exec .laneDeadline s = .next t ∧ t.reg R.guyLaneHeld = 0 ∧
          t.guy.grantAt = none) ∧
        (s.now < b.at_ + b.nextTicks + 8000 → exec .laneDeadline s = .next s)) ∧
      (∀ (type src : Byte) (rest : List Byte),
        (guyCrcOk type src rest = false → ∃ t, exec (.guylineFrameCrcFail type src rest) s = .next t ∧
          t.fld R.guyStatus F.guyStatus.crcErr = min 65535 (s.fld R.guyStatus F.guyStatus.crcErr + 1) ∧
          t.guy = s.guy) ∧
        (guyCrcOk type src rest = true → exec (.guylineFrameCrcFail type src rest) s = .next s))) ∧
    (s.guyOn = false → ∀ c : Instr, (c matches .beacon _ | .beaconTransmit _ | .guylineAck _ | .ackSlot _ | .masterTimeout |
      .beaconRetry | .laneGrantStart | .laneDeadline | .guylineFrameCrcFail _ _ _) → exec c s = .next s)

/-- TRACE_PORT_OUT and the commands of the TAP (R396, R398, R400): with the trace port turned on the oldest buffered record
that the ring has taken goes out as the byte 0xA5 and the bytes of its words, least significant first. TAP_RESET loads IDCODE;
an instruction shifts the register that it selects out on TDO, SAMPLE/PRELOAD what the balls stand at, the cell nearest TDO first; one that gives the boundary register the balls removes every
field as R384 does, puts on every ball with an output cell what the register drives there, stops the plan, takes the links down and ends the radio work of every stake, and stays in effect when
another becomes current; SAMPLE/PRELOAD, IDCODE and BYPASS leave the part running. In HIBERNATE and WATCH the TAP is
unpowered. -/
def Obligations.TraceAndTap : Prop :=
  (∀ s : State,
    (∀ t l, s.up = true → s.bit R.trlCfg F.trlCfg.port = true → s.trl.buf = t :: l → t.rung = true →
      ∃ u, exec .tracePortOut s = .next u ∧ u.trl.buf = l ∧ u.trl.lost = s.trl.lost ∧
        u.out = .trc (0xA5 :: (Word.bytes t.w0 ++ Word.bytes t.w1)) :: s.out) ∧
    (s.up = false ∨ s.bit R.trlCfg F.trlCfg.port = false ∨ (∀ t ∈ s.trl.buf, t.rung = false) →
      exec .tracePortOut s = .next s)) ∧
  ∀ (c : Instr) (i : TapInstr) (s : State),
    (c = .tapReset → s.tapOn = true →
      ∃ t, exec c s = .next t ∧ t.tap.ir = .idcode ∧ t.tap.boundary = s.tap.boundary ∧ sameBut [.tap] s t) ∧
    (c = .idcode → s.tapOn = true → ∃ t, exec c s = .next t ∧ t.tap.ir = .idcode ∧ t.tap.boundary = s.tap.boundary ∧
      t.out = .tdo ((List.range 32).map fun k => tapIdcode.getLsbD k) :: s.out ∧ sameBut [.tap, .out] s t) ∧
    (c = .bypass → s.tapOn = true → ∃ t, exec c s = .next t ∧ t.tap.ir = .bypass ∧ t.tap.boundary = s.tap.boundary ∧
      t.out = .tdo [false] :: s.out ∧ sameBut [.tap, .out] s t) ∧
    (c = .samplePreload → s.tapOn = true → ∃ t bits, exec c s = .next t ∧ t.tap.ir = .samplePreload ∧
      t.out = .tdo bits :: s.out ∧ bits.length = 396 ∧
      (∀ k v, k < 396 → (s.setTap { s.tap with ir := .samplePreload }).scanCells.getD k none = some v →
        bits.getD (395 - k) false = v) ∧
      sameBut [.tap, .fresh, .out] s t) ∧
    (c = .tapReset ∨ c = .idcode ∨ c = .bypass ∨ c = .samplePreload → s.tapOn = false → exec c s = .next s) ∧
    ((c, i) ∈ [(.extest, .extest), (.extestPulse, .extestPulse), (.extestTrain, .extestTrain), (.highz, .highz),
        (.clamp, .clamp)] →
      (s.tapOn = true → s.boot.scanHeld = false →
        ∃ t, exec c s = .next t ∧ t.tap.ir = i ∧ t.boot.scanHeld = true ∧
          .scan (outCells.map fun k => (t.scanDrive k).getD none) ∈ t.out ∧ t.running = false ∧ t.sch.startAt = none ∧
          t.hif.pcieUp = false ∧ (∀ x : Fin 2, t.fld (R.hifEthStatus x) F.hifEthStatus.speed = 0) ∧
          (∀ r ∈ t.runs, r.inert ≠ none) ∧
          (s.up = true → s.cxpMode ≠ 2 →
            (∀ n, isUhfSlice n = true →
              ((s.slice n).st ≠ .off → (t.slice n).path = [.off] ∧
                (t.slice n).due = if (s.slice n).path.head? = some .off then (s.slice n).due else s.now + 200) ∧
              ((s.slice n).st = .off → (t.slice n).st = .off ∧ (t.slice n).path = [])) ∧
            (∀ n, isHfSlice n = true → (s.slice n).st = .field →
              (t.slice n).st = .rampDown ∧ (t.slice n).path = [.quiet] ∧ (t.slice n).due ≤ s.now + 2000))) ∧
      (s.tapOn = true → s.boot.scanHeld = true →
        ∃ t, exec c s = .next t ∧ t.tap.ir = i ∧ sameBut [.tap, .fresh, .out] s t) ∧
      (s.tapOn = false → exec c s = .next s))

end Slice0
end

