-- ==== Sys2Proof/Laws/State.lean ====
section
/-! SUPPORT. What each update leaves: one lemma per field per update, all by rfl. -/

namespace Sys2Proof.Machine

@[simp] theorem State.setPending_pending (s : State) (v : List Instr) : (s.setPending v).pending = v := rfl
@[simp] theorem State.setPending_clock (s : State) (v : List Instr) : (s.setPending v).clock = s.clock := rfl
@[simp] theorem State.setPending_tick (s : State) (v : List Instr) : (s.setPending v).tick = s.tick := rfl
@[simp] theorem State.setPending_regs (s : State) (v : List Instr) : (s.setPending v).regs = s.regs := rfl
@[simp] theorem State.setPending_mem (s : State) (v : List Instr) : (s.setPending v).mem = s.mem := rfl
@[simp] theorem State.setPending_ecc (s : State) (v : List Instr) : (s.setPending v).ecc = s.ecc := rfl
@[simp] theorem State.setPending_bufs (s : State) (v : List Instr) : (s.setPending v).bufs = s.bufs := rfl
@[simp] theorem State.setPending_fifos (s : State) (v : List Instr) : (s.setPending v).fifos = s.fifos := rfl
@[simp] theorem State.setPending_boot (s : State) (v : List Instr) : (s.setPending v).boot = s.boot := rfl
@[simp] theorem State.setPending_sch (s : State) (v : List Instr) : (s.setPending v).sch = s.sch := rfl
@[simp] theorem State.setPending_runs (s : State) (v : List Instr) : (s.setPending v).runs = s.runs := rfl
@[simp] theorem State.setPending_ports (s : State) (v : List Instr) : (s.setPending v).ports = s.ports := rfl
@[simp] theorem State.setPending_slices (s : State) (v : List Instr) : (s.setPending v).slices = s.slices := rfl
@[simp] theorem State.setPending_records (s : State) (v : List Instr) : (s.setPending v).records = s.records := rfl
@[simp] theorem State.setPending_polarity (s : State) (v : List Instr) : (s.setPending v).polarity = s.polarity := rfl
@[simp] theorem State.setPending_requests (s : State) (v : List Instr) : (s.setPending v).requests = s.requests := rfl
@[simp] theorem State.setPending_sec (s : State) (v : List Instr) : (s.setPending v).sec = s.sec := rfl
@[simp] theorem State.setPending_decoders (s : State) (v : List Instr) : (s.setPending v).decoders = s.decoders := rfl
@[simp] theorem State.setPending_hostRuns (s : State) (v : List Instr) : (s.setPending v).hostRuns = s.hostRuns := rfl
@[simp] theorem State.setPending_awning (s : State) (v : List Instr) : (s.setPending v).awning = s.awning := rfl
@[simp] theorem State.setPending_lantern (s : State) (v : List Instr) : (s.setPending v).lantern = s.lantern := rfl
@[simp] theorem State.setPending_hif (s : State) (v : List Instr) : (s.setPending v).hif = s.hif := rfl
@[simp] theorem State.setPending_pit (s : State) (v : List Instr) : (s.setPending v).pit = s.pit := rfl
@[simp] theorem State.setPending_hlt (s : State) (v : List Instr) : (s.setPending v).hlt = s.hlt := rfl
@[simp] theorem State.setPending_flash (s : State) (v : List Instr) : (s.setPending v).flash = s.flash := rfl
@[simp] theorem State.setPending_guy (s : State) (v : List Instr) : (s.setPending v).guy = s.guy := rfl
@[simp] theorem State.setPending_cxp (s : State) (v : List Instr) : (s.setPending v).cxp = s.cxp := rfl
@[simp] theorem State.setPending_cab (s : State) (v : List Instr) : (s.setPending v).cab = s.cab := rfl
@[simp] theorem State.setPending_trl (s : State) (v : List Instr) : (s.setPending v).trl = s.trl := rfl
@[simp] theorem State.setPending_tap (s : State) (v : List Instr) : (s.setPending v).tap = s.tap := rfl
@[simp] theorem State.setPending_wheel (s : State) (v : List Instr) : (s.setPending v).wheel = s.wheel := rfl
@[simp] theorem State.setPending_resp (s : State) (v : List Instr) : (s.setPending v).resp = s.resp := rfl
@[simp] theorem State.setPending_out (s : State) (v : List Instr) : (s.setPending v).out = s.out := rfl
@[simp] theorem State.setPending_fresh (s : State) (v : List Instr) : (s.setPending v).fresh = s.fresh := rfl
@[simp] theorem State.setClock_pending (s : State) (v : Clock) : (s.setClock v).pending = s.pending := rfl
@[simp] theorem State.setClock_clock (s : State) (v : Clock) : (s.setClock v).clock = v := rfl
@[simp] theorem State.setClock_tick (s : State) (v : Clock) : (s.setClock v).tick = s.tick := rfl
@[simp] theorem State.setClock_regs (s : State) (v : Clock) : (s.setClock v).regs = s.regs := rfl
@[simp] theorem State.setClock_mem (s : State) (v : Clock) : (s.setClock v).mem = s.mem := rfl
@[simp] theorem State.setClock_ecc (s : State) (v : Clock) : (s.setClock v).ecc = s.ecc := rfl
@[simp] theorem State.setClock_bufs (s : State) (v : Clock) : (s.setClock v).bufs = s.bufs := rfl
@[simp] theorem State.setClock_fifos (s : State) (v : Clock) : (s.setClock v).fifos = s.fifos := rfl
@[simp] theorem State.setClock_boot (s : State) (v : Clock) : (s.setClock v).boot = s.boot := rfl
@[simp] theorem State.setClock_sch (s : State) (v : Clock) : (s.setClock v).sch = s.sch := rfl
@[simp] theorem State.setClock_runs (s : State) (v : Clock) : (s.setClock v).runs = s.runs := rfl
@[simp] theorem State.setClock_ports (s : State) (v : Clock) : (s.setClock v).ports = s.ports := rfl
@[simp] theorem State.setClock_slices (s : State) (v : Clock) : (s.setClock v).slices = s.slices := rfl
@[simp] theorem State.setClock_records (s : State) (v : Clock) : (s.setClock v).records = s.records := rfl
@[simp] theorem State.setClock_polarity (s : State) (v : Clock) : (s.setClock v).polarity = s.polarity := rfl
@[simp] theorem State.setClock_requests (s : State) (v : Clock) : (s.setClock v).requests = s.requests := rfl
@[simp] theorem State.setClock_sec (s : State) (v : Clock) : (s.setClock v).sec = s.sec := rfl
@[simp] theorem State.setClock_decoders (s : State) (v : Clock) : (s.setClock v).decoders = s.decoders := rfl
@[simp] theorem State.setClock_hostRuns (s : State) (v : Clock) : (s.setClock v).hostRuns = s.hostRuns := rfl
@[simp] theorem State.setClock_awning (s : State) (v : Clock) : (s.setClock v).awning = s.awning := rfl
@[simp] theorem State.setClock_lantern (s : State) (v : Clock) : (s.setClock v).lantern = s.lantern := rfl
@[simp] theorem State.setClock_hif (s : State) (v : Clock) : (s.setClock v).hif = s.hif := rfl
@[simp] theorem State.setClock_pit (s : State) (v : Clock) : (s.setClock v).pit = s.pit := rfl
@[simp] theorem State.setClock_hlt (s : State) (v : Clock) : (s.setClock v).hlt = s.hlt := rfl
@[simp] theorem State.setClock_flash (s : State) (v : Clock) : (s.setClock v).flash = s.flash := rfl
@[simp] theorem State.setClock_guy (s : State) (v : Clock) : (s.setClock v).guy = s.guy := rfl
@[simp] theorem State.setClock_cxp (s : State) (v : Clock) : (s.setClock v).cxp = s.cxp := rfl
@[simp] theorem State.setClock_cab (s : State) (v : Clock) : (s.setClock v).cab = s.cab := rfl
@[simp] theorem State.setClock_trl (s : State) (v : Clock) : (s.setClock v).trl = s.trl := rfl
@[simp] theorem State.setClock_tap (s : State) (v : Clock) : (s.setClock v).tap = s.tap := rfl
@[simp] theorem State.setClock_wheel (s : State) (v : Clock) : (s.setClock v).wheel = s.wheel := rfl
@[simp] theorem State.setClock_resp (s : State) (v : Clock) : (s.setClock v).resp = s.resp := rfl
@[simp] theorem State.setClock_out (s : State) (v : Clock) : (s.setClock v).out = s.out := rfl
@[simp] theorem State.setClock_fresh (s : State) (v : Clock) : (s.setClock v).fresh = s.fresh := rfl
@[simp] theorem State.setTick_pending (s : State) (v : Tick) : (s.setTick v).pending = s.pending := rfl
@[simp] theorem State.setTick_clock (s : State) (v : Tick) : (s.setTick v).clock = s.clock := rfl
@[simp] theorem State.setTick_tick (s : State) (v : Tick) : (s.setTick v).tick = v := rfl
@[simp] theorem State.setTick_regs (s : State) (v : Tick) : (s.setTick v).regs = s.regs := rfl
@[simp] theorem State.setTick_mem (s : State) (v : Tick) : (s.setTick v).mem = s.mem := rfl
@[simp] theorem State.setTick_ecc (s : State) (v : Tick) : (s.setTick v).ecc = s.ecc := rfl
@[simp] theorem State.setTick_bufs (s : State) (v : Tick) : (s.setTick v).bufs = s.bufs := rfl
@[simp] theorem State.setTick_fifos (s : State) (v : Tick) : (s.setTick v).fifos = s.fifos := rfl
@[simp] theorem State.setTick_boot (s : State) (v : Tick) : (s.setTick v).boot = s.boot := rfl
@[simp] theorem State.setTick_sch (s : State) (v : Tick) : (s.setTick v).sch = s.sch := rfl
@[simp] theorem State.setTick_runs (s : State) (v : Tick) : (s.setTick v).runs = s.runs := rfl
@[simp] theorem State.setTick_ports (s : State) (v : Tick) : (s.setTick v).ports = s.ports := rfl
@[simp] theorem State.setTick_slices (s : State) (v : Tick) : (s.setTick v).slices = s.slices := rfl
@[simp] theorem State.setTick_records (s : State) (v : Tick) : (s.setTick v).records = s.records := rfl
@[simp] theorem State.setTick_polarity (s : State) (v : Tick) : (s.setTick v).polarity = s.polarity := rfl
@[simp] theorem State.setTick_requests (s : State) (v : Tick) : (s.setTick v).requests = s.requests := rfl
@[simp] theorem State.setTick_sec (s : State) (v : Tick) : (s.setTick v).sec = s.sec := rfl
@[simp] theorem State.setTick_decoders (s : State) (v : Tick) : (s.setTick v).decoders = s.decoders := rfl
@[simp] theorem State.setTick_hostRuns (s : State) (v : Tick) : (s.setTick v).hostRuns = s.hostRuns := rfl
@[simp] theorem State.setTick_awning (s : State) (v : Tick) : (s.setTick v).awning = s.awning := rfl
@[simp] theorem State.setTick_lantern (s : State) (v : Tick) : (s.setTick v).lantern = s.lantern := rfl
@[simp] theorem State.setTick_hif (s : State) (v : Tick) : (s.setTick v).hif = s.hif := rfl
@[simp] theorem State.setTick_pit (s : State) (v : Tick) : (s.setTick v).pit = s.pit := rfl
@[simp] theorem State.setTick_hlt (s : State) (v : Tick) : (s.setTick v).hlt = s.hlt := rfl
@[simp] theorem State.setTick_flash (s : State) (v : Tick) : (s.setTick v).flash = s.flash := rfl
@[simp] theorem State.setTick_guy (s : State) (v : Tick) : (s.setTick v).guy = s.guy := rfl
@[simp] theorem State.setTick_cxp (s : State) (v : Tick) : (s.setTick v).cxp = s.cxp := rfl
@[simp] theorem State.setTick_cab (s : State) (v : Tick) : (s.setTick v).cab = s.cab := rfl
@[simp] theorem State.setTick_trl (s : State) (v : Tick) : (s.setTick v).trl = s.trl := rfl
@[simp] theorem State.setTick_tap (s : State) (v : Tick) : (s.setTick v).tap = s.tap := rfl
@[simp] theorem State.setTick_wheel (s : State) (v : Tick) : (s.setTick v).wheel = s.wheel := rfl
@[simp] theorem State.setTick_resp (s : State) (v : Tick) : (s.setTick v).resp = s.resp := rfl
@[simp] theorem State.setTick_out (s : State) (v : Tick) : (s.setTick v).out = s.out := rfl
@[simp] theorem State.setTick_fresh (s : State) (v : Tick) : (s.setTick v).fresh = s.fresh := rfl
@[simp] theorem State.setRegs_pending (s : State) (v : SMap Word) : (s.setRegs v).pending = s.pending := rfl
@[simp] theorem State.setRegs_clock (s : State) (v : SMap Word) : (s.setRegs v).clock = s.clock := rfl
@[simp] theorem State.setRegs_tick (s : State) (v : SMap Word) : (s.setRegs v).tick = s.tick := rfl
@[simp] theorem State.setRegs_regs (s : State) (v : SMap Word) : (s.setRegs v).regs = v := rfl
@[simp] theorem State.setRegs_mem (s : State) (v : SMap Word) : (s.setRegs v).mem = s.mem := rfl
@[simp] theorem State.setRegs_ecc (s : State) (v : SMap Word) : (s.setRegs v).ecc = s.ecc := rfl
@[simp] theorem State.setRegs_bufs (s : State) (v : SMap Word) : (s.setRegs v).bufs = s.bufs := rfl
@[simp] theorem State.setRegs_fifos (s : State) (v : SMap Word) : (s.setRegs v).fifos = s.fifos := rfl
@[simp] theorem State.setRegs_boot (s : State) (v : SMap Word) : (s.setRegs v).boot = s.boot := rfl
@[simp] theorem State.setRegs_sch (s : State) (v : SMap Word) : (s.setRegs v).sch = s.sch := rfl
@[simp] theorem State.setRegs_runs (s : State) (v : SMap Word) : (s.setRegs v).runs = s.runs := rfl
@[simp] theorem State.setRegs_ports (s : State) (v : SMap Word) : (s.setRegs v).ports = s.ports := rfl
@[simp] theorem State.setRegs_slices (s : State) (v : SMap Word) : (s.setRegs v).slices = s.slices := rfl
@[simp] theorem State.setRegs_records (s : State) (v : SMap Word) : (s.setRegs v).records = s.records := rfl
@[simp] theorem State.setRegs_polarity (s : State) (v : SMap Word) : (s.setRegs v).polarity = s.polarity := rfl
@[simp] theorem State.setRegs_requests (s : State) (v : SMap Word) : (s.setRegs v).requests = s.requests := rfl
@[simp] theorem State.setRegs_sec (s : State) (v : SMap Word) : (s.setRegs v).sec = s.sec := rfl
@[simp] theorem State.setRegs_decoders (s : State) (v : SMap Word) : (s.setRegs v).decoders = s.decoders := rfl
@[simp] theorem State.setRegs_hostRuns (s : State) (v : SMap Word) : (s.setRegs v).hostRuns = s.hostRuns := rfl
@[simp] theorem State.setRegs_awning (s : State) (v : SMap Word) : (s.setRegs v).awning = s.awning := rfl
@[simp] theorem State.setRegs_lantern (s : State) (v : SMap Word) : (s.setRegs v).lantern = s.lantern := rfl
@[simp] theorem State.setRegs_hif (s : State) (v : SMap Word) : (s.setRegs v).hif = s.hif := rfl
@[simp] theorem State.setRegs_pit (s : State) (v : SMap Word) : (s.setRegs v).pit = s.pit := rfl
@[simp] theorem State.setRegs_hlt (s : State) (v : SMap Word) : (s.setRegs v).hlt = s.hlt := rfl
@[simp] theorem State.setRegs_flash (s : State) (v : SMap Word) : (s.setRegs v).flash = s.flash := rfl
@[simp] theorem State.setRegs_guy (s : State) (v : SMap Word) : (s.setRegs v).guy = s.guy := rfl
@[simp] theorem State.setRegs_cxp (s : State) (v : SMap Word) : (s.setRegs v).cxp = s.cxp := rfl
@[simp] theorem State.setRegs_cab (s : State) (v : SMap Word) : (s.setRegs v).cab = s.cab := rfl
@[simp] theorem State.setRegs_trl (s : State) (v : SMap Word) : (s.setRegs v).trl = s.trl := rfl
@[simp] theorem State.setRegs_tap (s : State) (v : SMap Word) : (s.setRegs v).tap = s.tap := rfl
@[simp] theorem State.setRegs_wheel (s : State) (v : SMap Word) : (s.setRegs v).wheel = s.wheel := rfl
@[simp] theorem State.setRegs_resp (s : State) (v : SMap Word) : (s.setRegs v).resp = s.resp := rfl
@[simp] theorem State.setRegs_out (s : State) (v : SMap Word) : (s.setRegs v).out = s.out := rfl
@[simp] theorem State.setRegs_fresh (s : State) (v : SMap Word) : (s.setRegs v).fresh = s.fresh := rfl
@[simp] theorem State.setMem_pending (s : State) (v : SMap Byte) : (s.setMem v).pending = s.pending := rfl
@[simp] theorem State.setMem_clock (s : State) (v : SMap Byte) : (s.setMem v).clock = s.clock := rfl
@[simp] theorem State.setMem_tick (s : State) (v : SMap Byte) : (s.setMem v).tick = s.tick := rfl
@[simp] theorem State.setMem_regs (s : State) (v : SMap Byte) : (s.setMem v).regs = s.regs := rfl
@[simp] theorem State.setMem_mem (s : State) (v : SMap Byte) : (s.setMem v).mem = v := rfl
@[simp] theorem State.setMem_ecc (s : State) (v : SMap Byte) : (s.setMem v).ecc = s.ecc := rfl
@[simp] theorem State.setMem_bufs (s : State) (v : SMap Byte) : (s.setMem v).bufs = s.bufs := rfl
@[simp] theorem State.setMem_fifos (s : State) (v : SMap Byte) : (s.setMem v).fifos = s.fifos := rfl
@[simp] theorem State.setMem_boot (s : State) (v : SMap Byte) : (s.setMem v).boot = s.boot := rfl
@[simp] theorem State.setMem_sch (s : State) (v : SMap Byte) : (s.setMem v).sch = s.sch := rfl
@[simp] theorem State.setMem_runs (s : State) (v : SMap Byte) : (s.setMem v).runs = s.runs := rfl
@[simp] theorem State.setMem_ports (s : State) (v : SMap Byte) : (s.setMem v).ports = s.ports := rfl
@[simp] theorem State.setMem_slices (s : State) (v : SMap Byte) : (s.setMem v).slices = s.slices := rfl
@[simp] theorem State.setMem_records (s : State) (v : SMap Byte) : (s.setMem v).records = s.records := rfl
@[simp] theorem State.setMem_polarity (s : State) (v : SMap Byte) : (s.setMem v).polarity = s.polarity := rfl
@[simp] theorem State.setMem_requests (s : State) (v : SMap Byte) : (s.setMem v).requests = s.requests := rfl
@[simp] theorem State.setMem_sec (s : State) (v : SMap Byte) : (s.setMem v).sec = s.sec := rfl
@[simp] theorem State.setMem_decoders (s : State) (v : SMap Byte) : (s.setMem v).decoders = s.decoders := rfl
@[simp] theorem State.setMem_hostRuns (s : State) (v : SMap Byte) : (s.setMem v).hostRuns = s.hostRuns := rfl
@[simp] theorem State.setMem_awning (s : State) (v : SMap Byte) : (s.setMem v).awning = s.awning := rfl
@[simp] theorem State.setMem_lantern (s : State) (v : SMap Byte) : (s.setMem v).lantern = s.lantern := rfl
@[simp] theorem State.setMem_hif (s : State) (v : SMap Byte) : (s.setMem v).hif = s.hif := rfl
@[simp] theorem State.setMem_pit (s : State) (v : SMap Byte) : (s.setMem v).pit = s.pit := rfl
@[simp] theorem State.setMem_hlt (s : State) (v : SMap Byte) : (s.setMem v).hlt = s.hlt := rfl
@[simp] theorem State.setMem_flash (s : State) (v : SMap Byte) : (s.setMem v).flash = s.flash := rfl
@[simp] theorem State.setMem_guy (s : State) (v : SMap Byte) : (s.setMem v).guy = s.guy := rfl
@[simp] theorem State.setMem_cxp (s : State) (v : SMap Byte) : (s.setMem v).cxp = s.cxp := rfl
@[simp] theorem State.setMem_cab (s : State) (v : SMap Byte) : (s.setMem v).cab = s.cab := rfl
@[simp] theorem State.setMem_trl (s : State) (v : SMap Byte) : (s.setMem v).trl = s.trl := rfl
@[simp] theorem State.setMem_tap (s : State) (v : SMap Byte) : (s.setMem v).tap = s.tap := rfl
@[simp] theorem State.setMem_wheel (s : State) (v : SMap Byte) : (s.setMem v).wheel = s.wheel := rfl
@[simp] theorem State.setMem_resp (s : State) (v : SMap Byte) : (s.setMem v).resp = s.resp := rfl
@[simp] theorem State.setMem_out (s : State) (v : SMap Byte) : (s.setMem v).out = s.out := rfl
@[simp] theorem State.setMem_fresh (s : State) (v : SMap Byte) : (s.setMem v).fresh = s.fresh := rfl
@[simp] theorem State.setEcc_pending (s : State) (v : SMap Word) : (s.setEcc v).pending = s.pending := rfl
@[simp] theorem State.setEcc_clock (s : State) (v : SMap Word) : (s.setEcc v).clock = s.clock := rfl
@[simp] theorem State.setEcc_tick (s : State) (v : SMap Word) : (s.setEcc v).tick = s.tick := rfl
@[simp] theorem State.setEcc_regs (s : State) (v : SMap Word) : (s.setEcc v).regs = s.regs := rfl
@[simp] theorem State.setEcc_mem (s : State) (v : SMap Word) : (s.setEcc v).mem = s.mem := rfl
@[simp] theorem State.setEcc_ecc (s : State) (v : SMap Word) : (s.setEcc v).ecc = v := rfl
@[simp] theorem State.setEcc_bufs (s : State) (v : SMap Word) : (s.setEcc v).bufs = s.bufs := rfl
@[simp] theorem State.setEcc_fifos (s : State) (v : SMap Word) : (s.setEcc v).fifos = s.fifos := rfl
@[simp] theorem State.setEcc_boot (s : State) (v : SMap Word) : (s.setEcc v).boot = s.boot := rfl
@[simp] theorem State.setEcc_sch (s : State) (v : SMap Word) : (s.setEcc v).sch = s.sch := rfl
@[simp] theorem State.setEcc_runs (s : State) (v : SMap Word) : (s.setEcc v).runs = s.runs := rfl
@[simp] theorem State.setEcc_ports (s : State) (v : SMap Word) : (s.setEcc v).ports = s.ports := rfl
@[simp] theorem State.setEcc_slices (s : State) (v : SMap Word) : (s.setEcc v).slices = s.slices := rfl
@[simp] theorem State.setEcc_records (s : State) (v : SMap Word) : (s.setEcc v).records = s.records := rfl
@[simp] theorem State.setEcc_polarity (s : State) (v : SMap Word) : (s.setEcc v).polarity = s.polarity := rfl
@[simp] theorem State.setEcc_requests (s : State) (v : SMap Word) : (s.setEcc v).requests = s.requests := rfl
@[simp] theorem State.setEcc_sec (s : State) (v : SMap Word) : (s.setEcc v).sec = s.sec := rfl
@[simp] theorem State.setEcc_decoders (s : State) (v : SMap Word) : (s.setEcc v).decoders = s.decoders := rfl
@[simp] theorem State.setEcc_hostRuns (s : State) (v : SMap Word) : (s.setEcc v).hostRuns = s.hostRuns := rfl
@[simp] theorem State.setEcc_awning (s : State) (v : SMap Word) : (s.setEcc v).awning = s.awning := rfl
@[simp] theorem State.setEcc_lantern (s : State) (v : SMap Word) : (s.setEcc v).lantern = s.lantern := rfl
@[simp] theorem State.setEcc_hif (s : State) (v : SMap Word) : (s.setEcc v).hif = s.hif := rfl
@[simp] theorem State.setEcc_pit (s : State) (v : SMap Word) : (s.setEcc v).pit = s.pit := rfl
@[simp] theorem State.setEcc_hlt (s : State) (v : SMap Word) : (s.setEcc v).hlt = s.hlt := rfl
@[simp] theorem State.setEcc_flash (s : State) (v : SMap Word) : (s.setEcc v).flash = s.flash := rfl
@[simp] theorem State.setEcc_guy (s : State) (v : SMap Word) : (s.setEcc v).guy = s.guy := rfl
@[simp] theorem State.setEcc_cxp (s : State) (v : SMap Word) : (s.setEcc v).cxp = s.cxp := rfl
@[simp] theorem State.setEcc_cab (s : State) (v : SMap Word) : (s.setEcc v).cab = s.cab := rfl
@[simp] theorem State.setEcc_trl (s : State) (v : SMap Word) : (s.setEcc v).trl = s.trl := rfl
@[simp] theorem State.setEcc_tap (s : State) (v : SMap Word) : (s.setEcc v).tap = s.tap := rfl
@[simp] theorem State.setEcc_wheel (s : State) (v : SMap Word) : (s.setEcc v).wheel = s.wheel := rfl
@[simp] theorem State.setEcc_resp (s : State) (v : SMap Word) : (s.setEcc v).resp = s.resp := rfl
@[simp] theorem State.setEcc_out (s : State) (v : SMap Word) : (s.setEcc v).out = s.out := rfl
@[simp] theorem State.setEcc_fresh (s : State) (v : SMap Word) : (s.setEcc v).fresh = s.fresh := rfl
@[simp] theorem State.setBufs_pending (s : State) (v : SMap BufState) : (s.setBufs v).pending = s.pending := rfl
@[simp] theorem State.setBufs_clock (s : State) (v : SMap BufState) : (s.setBufs v).clock = s.clock := rfl
@[simp] theorem State.setBufs_tick (s : State) (v : SMap BufState) : (s.setBufs v).tick = s.tick := rfl
@[simp] theorem State.setBufs_regs (s : State) (v : SMap BufState) : (s.setBufs v).regs = s.regs := rfl
@[simp] theorem State.setBufs_mem (s : State) (v : SMap BufState) : (s.setBufs v).mem = s.mem := rfl
@[simp] theorem State.setBufs_ecc (s : State) (v : SMap BufState) : (s.setBufs v).ecc = s.ecc := rfl
@[simp] theorem State.setBufs_bufs (s : State) (v : SMap BufState) : (s.setBufs v).bufs = v := rfl
@[simp] theorem State.setBufs_fifos (s : State) (v : SMap BufState) : (s.setBufs v).fifos = s.fifos := rfl
@[simp] theorem State.setBufs_boot (s : State) (v : SMap BufState) : (s.setBufs v).boot = s.boot := rfl
@[simp] theorem State.setBufs_sch (s : State) (v : SMap BufState) : (s.setBufs v).sch = s.sch := rfl
@[simp] theorem State.setBufs_runs (s : State) (v : SMap BufState) : (s.setBufs v).runs = s.runs := rfl
@[simp] theorem State.setBufs_ports (s : State) (v : SMap BufState) : (s.setBufs v).ports = s.ports := rfl
@[simp] theorem State.setBufs_slices (s : State) (v : SMap BufState) : (s.setBufs v).slices = s.slices := rfl
@[simp] theorem State.setBufs_records (s : State) (v : SMap BufState) : (s.setBufs v).records = s.records := rfl
@[simp] theorem State.setBufs_polarity (s : State) (v : SMap BufState) : (s.setBufs v).polarity = s.polarity := rfl
@[simp] theorem State.setBufs_requests (s : State) (v : SMap BufState) : (s.setBufs v).requests = s.requests := rfl
@[simp] theorem State.setBufs_sec (s : State) (v : SMap BufState) : (s.setBufs v).sec = s.sec := rfl
@[simp] theorem State.setBufs_decoders (s : State) (v : SMap BufState) : (s.setBufs v).decoders = s.decoders := rfl
@[simp] theorem State.setBufs_hostRuns (s : State) (v : SMap BufState) : (s.setBufs v).hostRuns = s.hostRuns := rfl
@[simp] theorem State.setBufs_awning (s : State) (v : SMap BufState) : (s.setBufs v).awning = s.awning := rfl
@[simp] theorem State.setBufs_lantern (s : State) (v : SMap BufState) : (s.setBufs v).lantern = s.lantern := rfl
@[simp] theorem State.setBufs_hif (s : State) (v : SMap BufState) : (s.setBufs v).hif = s.hif := rfl
@[simp] theorem State.setBufs_pit (s : State) (v : SMap BufState) : (s.setBufs v).pit = s.pit := rfl
@[simp] theorem State.setBufs_hlt (s : State) (v : SMap BufState) : (s.setBufs v).hlt = s.hlt := rfl
@[simp] theorem State.setBufs_flash (s : State) (v : SMap BufState) : (s.setBufs v).flash = s.flash := rfl
@[simp] theorem State.setBufs_guy (s : State) (v : SMap BufState) : (s.setBufs v).guy = s.guy := rfl
@[simp] theorem State.setBufs_cxp (s : State) (v : SMap BufState) : (s.setBufs v).cxp = s.cxp := rfl
@[simp] theorem State.setBufs_cab (s : State) (v : SMap BufState) : (s.setBufs v).cab = s.cab := rfl
@[simp] theorem State.setBufs_trl (s : State) (v : SMap BufState) : (s.setBufs v).trl = s.trl := rfl
@[simp] theorem State.setBufs_tap (s : State) (v : SMap BufState) : (s.setBufs v).tap = s.tap := rfl
@[simp] theorem State.setBufs_wheel (s : State) (v : SMap BufState) : (s.setBufs v).wheel = s.wheel := rfl
@[simp] theorem State.setBufs_resp (s : State) (v : SMap BufState) : (s.setBufs v).resp = s.resp := rfl
@[simp] theorem State.setBufs_out (s : State) (v : SMap BufState) : (s.setBufs v).out = s.out := rfl
@[simp] theorem State.setBufs_fresh (s : State) (v : SMap BufState) : (s.setBufs v).fresh = s.fresh := rfl
@[simp] theorem State.setFifos_pending (s : State) (v : SMap Fifo) : (s.setFifos v).pending = s.pending := rfl
@[simp] theorem State.setFifos_clock (s : State) (v : SMap Fifo) : (s.setFifos v).clock = s.clock := rfl
@[simp] theorem State.setFifos_tick (s : State) (v : SMap Fifo) : (s.setFifos v).tick = s.tick := rfl
@[simp] theorem State.setFifos_regs (s : State) (v : SMap Fifo) : (s.setFifos v).regs = s.regs := rfl
@[simp] theorem State.setFifos_mem (s : State) (v : SMap Fifo) : (s.setFifos v).mem = s.mem := rfl
@[simp] theorem State.setFifos_ecc (s : State) (v : SMap Fifo) : (s.setFifos v).ecc = s.ecc := rfl
@[simp] theorem State.setFifos_bufs (s : State) (v : SMap Fifo) : (s.setFifos v).bufs = s.bufs := rfl
@[simp] theorem State.setFifos_fifos (s : State) (v : SMap Fifo) : (s.setFifos v).fifos = v := rfl
@[simp] theorem State.setFifos_boot (s : State) (v : SMap Fifo) : (s.setFifos v).boot = s.boot := rfl
@[simp] theorem State.setFifos_sch (s : State) (v : SMap Fifo) : (s.setFifos v).sch = s.sch := rfl
@[simp] theorem State.setFifos_runs (s : State) (v : SMap Fifo) : (s.setFifos v).runs = s.runs := rfl
@[simp] theorem State.setFifos_ports (s : State) (v : SMap Fifo) : (s.setFifos v).ports = s.ports := rfl
@[simp] theorem State.setFifos_slices (s : State) (v : SMap Fifo) : (s.setFifos v).slices = s.slices := rfl
@[simp] theorem State.setFifos_records (s : State) (v : SMap Fifo) : (s.setFifos v).records = s.records := rfl
@[simp] theorem State.setFifos_polarity (s : State) (v : SMap Fifo) : (s.setFifos v).polarity = s.polarity := rfl
@[simp] theorem State.setFifos_requests (s : State) (v : SMap Fifo) : (s.setFifos v).requests = s.requests := rfl
@[simp] theorem State.setFifos_sec (s : State) (v : SMap Fifo) : (s.setFifos v).sec = s.sec := rfl
@[simp] theorem State.setFifos_decoders (s : State) (v : SMap Fifo) : (s.setFifos v).decoders = s.decoders := rfl
@[simp] theorem State.setFifos_hostRuns (s : State) (v : SMap Fifo) : (s.setFifos v).hostRuns = s.hostRuns := rfl
@[simp] theorem State.setFifos_awning (s : State) (v : SMap Fifo) : (s.setFifos v).awning = s.awning := rfl
@[simp] theorem State.setFifos_lantern (s : State) (v : SMap Fifo) : (s.setFifos v).lantern = s.lantern := rfl
@[simp] theorem State.setFifos_hif (s : State) (v : SMap Fifo) : (s.setFifos v).hif = s.hif := rfl
@[simp] theorem State.setFifos_pit (s : State) (v : SMap Fifo) : (s.setFifos v).pit = s.pit := rfl
@[simp] theorem State.setFifos_hlt (s : State) (v : SMap Fifo) : (s.setFifos v).hlt = s.hlt := rfl
@[simp] theorem State.setFifos_flash (s : State) (v : SMap Fifo) : (s.setFifos v).flash = s.flash := rfl
@[simp] theorem State.setFifos_guy (s : State) (v : SMap Fifo) : (s.setFifos v).guy = s.guy := rfl
@[simp] theorem State.setFifos_cxp (s : State) (v : SMap Fifo) : (s.setFifos v).cxp = s.cxp := rfl
@[simp] theorem State.setFifos_cab (s : State) (v : SMap Fifo) : (s.setFifos v).cab = s.cab := rfl
@[simp] theorem State.setFifos_trl (s : State) (v : SMap Fifo) : (s.setFifos v).trl = s.trl := rfl
@[simp] theorem State.setFifos_tap (s : State) (v : SMap Fifo) : (s.setFifos v).tap = s.tap := rfl
@[simp] theorem State.setFifos_wheel (s : State) (v : SMap Fifo) : (s.setFifos v).wheel = s.wheel := rfl
@[simp] theorem State.setFifos_resp (s : State) (v : SMap Fifo) : (s.setFifos v).resp = s.resp := rfl
@[simp] theorem State.setFifos_out (s : State) (v : SMap Fifo) : (s.setFifos v).out = s.out := rfl
@[simp] theorem State.setFifos_fresh (s : State) (v : SMap Fifo) : (s.setFifos v).fresh = s.fresh := rfl
@[simp] theorem State.setBoot_pending (s : State) (v : Boot) : (s.setBoot v).pending = s.pending := rfl
@[simp] theorem State.setBoot_clock (s : State) (v : Boot) : (s.setBoot v).clock = s.clock := rfl
@[simp] theorem State.setBoot_tick (s : State) (v : Boot) : (s.setBoot v).tick = s.tick := rfl
@[simp] theorem State.setBoot_regs (s : State) (v : Boot) : (s.setBoot v).regs = s.regs := rfl
@[simp] theorem State.setBoot_mem (s : State) (v : Boot) : (s.setBoot v).mem = s.mem := rfl
@[simp] theorem State.setBoot_ecc (s : State) (v : Boot) : (s.setBoot v).ecc = s.ecc := rfl
@[simp] theorem State.setBoot_bufs (s : State) (v : Boot) : (s.setBoot v).bufs = s.bufs := rfl
@[simp] theorem State.setBoot_fifos (s : State) (v : Boot) : (s.setBoot v).fifos = s.fifos := rfl
@[simp] theorem State.setBoot_boot (s : State) (v : Boot) : (s.setBoot v).boot = v := rfl
@[simp] theorem State.setBoot_sch (s : State) (v : Boot) : (s.setBoot v).sch = s.sch := rfl
@[simp] theorem State.setBoot_runs (s : State) (v : Boot) : (s.setBoot v).runs = s.runs := rfl
@[simp] theorem State.setBoot_ports (s : State) (v : Boot) : (s.setBoot v).ports = s.ports := rfl
@[simp] theorem State.setBoot_slices (s : State) (v : Boot) : (s.setBoot v).slices = s.slices := rfl
@[simp] theorem State.setBoot_records (s : State) (v : Boot) : (s.setBoot v).records = s.records := rfl
@[simp] theorem State.setBoot_polarity (s : State) (v : Boot) : (s.setBoot v).polarity = s.polarity := rfl
@[simp] theorem State.setBoot_requests (s : State) (v : Boot) : (s.setBoot v).requests = s.requests := rfl
@[simp] theorem State.setBoot_sec (s : State) (v : Boot) : (s.setBoot v).sec = s.sec := rfl
@[simp] theorem State.setBoot_decoders (s : State) (v : Boot) : (s.setBoot v).decoders = s.decoders := rfl
@[simp] theorem State.setBoot_hostRuns (s : State) (v : Boot) : (s.setBoot v).hostRuns = s.hostRuns := rfl
@[simp] theorem State.setBoot_awning (s : State) (v : Boot) : (s.setBoot v).awning = s.awning := rfl
@[simp] theorem State.setBoot_lantern (s : State) (v : Boot) : (s.setBoot v).lantern = s.lantern := rfl
@[simp] theorem State.setBoot_hif (s : State) (v : Boot) : (s.setBoot v).hif = s.hif := rfl
@[simp] theorem State.setBoot_pit (s : State) (v : Boot) : (s.setBoot v).pit = s.pit := rfl
@[simp] theorem State.setBoot_hlt (s : State) (v : Boot) : (s.setBoot v).hlt = s.hlt := rfl
@[simp] theorem State.setBoot_flash (s : State) (v : Boot) : (s.setBoot v).flash = s.flash := rfl
@[simp] theorem State.setBoot_guy (s : State) (v : Boot) : (s.setBoot v).guy = s.guy := rfl
@[simp] theorem State.setBoot_cxp (s : State) (v : Boot) : (s.setBoot v).cxp = s.cxp := rfl
@[simp] theorem State.setBoot_cab (s : State) (v : Boot) : (s.setBoot v).cab = s.cab := rfl
@[simp] theorem State.setBoot_trl (s : State) (v : Boot) : (s.setBoot v).trl = s.trl := rfl
@[simp] theorem State.setBoot_tap (s : State) (v : Boot) : (s.setBoot v).tap = s.tap := rfl
@[simp] theorem State.setBoot_wheel (s : State) (v : Boot) : (s.setBoot v).wheel = s.wheel := rfl
@[simp] theorem State.setBoot_resp (s : State) (v : Boot) : (s.setBoot v).resp = s.resp := rfl
@[simp] theorem State.setBoot_out (s : State) (v : Boot) : (s.setBoot v).out = s.out := rfl
@[simp] theorem State.setBoot_fresh (s : State) (v : Boot) : (s.setBoot v).fresh = s.fresh := rfl
@[simp] theorem State.setSch_pending (s : State) (v : Sch) : (s.setSch v).pending = s.pending := rfl
@[simp] theorem State.setSch_clock (s : State) (v : Sch) : (s.setSch v).clock = s.clock := rfl
@[simp] theorem State.setSch_tick (s : State) (v : Sch) : (s.setSch v).tick = s.tick := rfl
@[simp] theorem State.setSch_regs (s : State) (v : Sch) : (s.setSch v).regs = s.regs := rfl
@[simp] theorem State.setSch_mem (s : State) (v : Sch) : (s.setSch v).mem = s.mem := rfl
@[simp] theorem State.setSch_ecc (s : State) (v : Sch) : (s.setSch v).ecc = s.ecc := rfl
@[simp] theorem State.setSch_bufs (s : State) (v : Sch) : (s.setSch v).bufs = s.bufs := rfl
@[simp] theorem State.setSch_fifos (s : State) (v : Sch) : (s.setSch v).fifos = s.fifos := rfl
@[simp] theorem State.setSch_boot (s : State) (v : Sch) : (s.setSch v).boot = s.boot := rfl
@[simp] theorem State.setSch_sch (s : State) (v : Sch) : (s.setSch v).sch = v := rfl
@[simp] theorem State.setSch_runs (s : State) (v : Sch) : (s.setSch v).runs = s.runs := rfl
@[simp] theorem State.setSch_ports (s : State) (v : Sch) : (s.setSch v).ports = s.ports := rfl
@[simp] theorem State.setSch_slices (s : State) (v : Sch) : (s.setSch v).slices = s.slices := rfl
@[simp] theorem State.setSch_records (s : State) (v : Sch) : (s.setSch v).records = s.records := rfl
@[simp] theorem State.setSch_polarity (s : State) (v : Sch) : (s.setSch v).polarity = s.polarity := rfl
@[simp] theorem State.setSch_requests (s : State) (v : Sch) : (s.setSch v).requests = s.requests := rfl
@[simp] theorem State.setSch_sec (s : State) (v : Sch) : (s.setSch v).sec = s.sec := rfl
@[simp] theorem State.setSch_decoders (s : State) (v : Sch) : (s.setSch v).decoders = s.decoders := rfl
@[simp] theorem State.setSch_hostRuns (s : State) (v : Sch) : (s.setSch v).hostRuns = s.hostRuns := rfl
@[simp] theorem State.setSch_awning (s : State) (v : Sch) : (s.setSch v).awning = s.awning := rfl
@[simp] theorem State.setSch_lantern (s : State) (v : Sch) : (s.setSch v).lantern = s.lantern := rfl
@[simp] theorem State.setSch_hif (s : State) (v : Sch) : (s.setSch v).hif = s.hif := rfl
@[simp] theorem State.setSch_pit (s : State) (v : Sch) : (s.setSch v).pit = s.pit := rfl
@[simp] theorem State.setSch_hlt (s : State) (v : Sch) : (s.setSch v).hlt = s.hlt := rfl
@[simp] theorem State.setSch_flash (s : State) (v : Sch) : (s.setSch v).flash = s.flash := rfl
@[simp] theorem State.setSch_guy (s : State) (v : Sch) : (s.setSch v).guy = s.guy := rfl
@[simp] theorem State.setSch_cxp (s : State) (v : Sch) : (s.setSch v).cxp = s.cxp := rfl
@[simp] theorem State.setSch_cab (s : State) (v : Sch) : (s.setSch v).cab = s.cab := rfl
@[simp] theorem State.setSch_trl (s : State) (v : Sch) : (s.setSch v).trl = s.trl := rfl
@[simp] theorem State.setSch_tap (s : State) (v : Sch) : (s.setSch v).tap = s.tap := rfl
@[simp] theorem State.setSch_wheel (s : State) (v : Sch) : (s.setSch v).wheel = s.wheel := rfl
@[simp] theorem State.setSch_resp (s : State) (v : Sch) : (s.setSch v).resp = s.resp := rfl
@[simp] theorem State.setSch_out (s : State) (v : Sch) : (s.setSch v).out = s.out := rfl
@[simp] theorem State.setSch_fresh (s : State) (v : Sch) : (s.setSch v).fresh = s.fresh := rfl
@[simp] theorem State.setRuns_pending (s : State) (v : List Run) : (s.setRuns v).pending = s.pending := rfl
@[simp] theorem State.setRuns_clock (s : State) (v : List Run) : (s.setRuns v).clock = s.clock := rfl
@[simp] theorem State.setRuns_tick (s : State) (v : List Run) : (s.setRuns v).tick = s.tick := rfl
@[simp] theorem State.setRuns_regs (s : State) (v : List Run) : (s.setRuns v).regs = s.regs := rfl
@[simp] theorem State.setRuns_mem (s : State) (v : List Run) : (s.setRuns v).mem = s.mem := rfl
@[simp] theorem State.setRuns_ecc (s : State) (v : List Run) : (s.setRuns v).ecc = s.ecc := rfl
@[simp] theorem State.setRuns_bufs (s : State) (v : List Run) : (s.setRuns v).bufs = s.bufs := rfl
@[simp] theorem State.setRuns_fifos (s : State) (v : List Run) : (s.setRuns v).fifos = s.fifos := rfl
@[simp] theorem State.setRuns_boot (s : State) (v : List Run) : (s.setRuns v).boot = s.boot := rfl
@[simp] theorem State.setRuns_sch (s : State) (v : List Run) : (s.setRuns v).sch = s.sch := rfl
@[simp] theorem State.setRuns_runs (s : State) (v : List Run) : (s.setRuns v).runs = v := rfl
@[simp] theorem State.setRuns_ports (s : State) (v : List Run) : (s.setRuns v).ports = s.ports := rfl
@[simp] theorem State.setRuns_slices (s : State) (v : List Run) : (s.setRuns v).slices = s.slices := rfl
@[simp] theorem State.setRuns_records (s : State) (v : List Run) : (s.setRuns v).records = s.records := rfl
@[simp] theorem State.setRuns_polarity (s : State) (v : List Run) : (s.setRuns v).polarity = s.polarity := rfl
@[simp] theorem State.setRuns_requests (s : State) (v : List Run) : (s.setRuns v).requests = s.requests := rfl
@[simp] theorem State.setRuns_sec (s : State) (v : List Run) : (s.setRuns v).sec = s.sec := rfl
@[simp] theorem State.setRuns_decoders (s : State) (v : List Run) : (s.setRuns v).decoders = s.decoders := rfl
@[simp] theorem State.setRuns_hostRuns (s : State) (v : List Run) : (s.setRuns v).hostRuns = s.hostRuns := rfl
@[simp] theorem State.setRuns_awning (s : State) (v : List Run) : (s.setRuns v).awning = s.awning := rfl
@[simp] theorem State.setRuns_lantern (s : State) (v : List Run) : (s.setRuns v).lantern = s.lantern := rfl
@[simp] theorem State.setRuns_hif (s : State) (v : List Run) : (s.setRuns v).hif = s.hif := rfl
@[simp] theorem State.setRuns_pit (s : State) (v : List Run) : (s.setRuns v).pit = s.pit := rfl
@[simp] theorem State.setRuns_hlt (s : State) (v : List Run) : (s.setRuns v).hlt = s.hlt := rfl
@[simp] theorem State.setRuns_flash (s : State) (v : List Run) : (s.setRuns v).flash = s.flash := rfl
@[simp] theorem State.setRuns_guy (s : State) (v : List Run) : (s.setRuns v).guy = s.guy := rfl
@[simp] theorem State.setRuns_cxp (s : State) (v : List Run) : (s.setRuns v).cxp = s.cxp := rfl
@[simp] theorem State.setRuns_cab (s : State) (v : List Run) : (s.setRuns v).cab = s.cab := rfl
@[simp] theorem State.setRuns_trl (s : State) (v : List Run) : (s.setRuns v).trl = s.trl := rfl
@[simp] theorem State.setRuns_tap (s : State) (v : List Run) : (s.setRuns v).tap = s.tap := rfl
@[simp] theorem State.setRuns_wheel (s : State) (v : List Run) : (s.setRuns v).wheel = s.wheel := rfl
@[simp] theorem State.setRuns_resp (s : State) (v : List Run) : (s.setRuns v).resp = s.resp := rfl
@[simp] theorem State.setRuns_out (s : State) (v : List Run) : (s.setRuns v).out = s.out := rfl
@[simp] theorem State.setRuns_fresh (s : State) (v : List Run) : (s.setRuns v).fresh = s.fresh := rfl
@[simp] theorem State.setPorts_pending (s : State) (v : SMap Port) : (s.setPorts v).pending = s.pending := rfl
@[simp] theorem State.setPorts_clock (s : State) (v : SMap Port) : (s.setPorts v).clock = s.clock := rfl
@[simp] theorem State.setPorts_tick (s : State) (v : SMap Port) : (s.setPorts v).tick = s.tick := rfl
@[simp] theorem State.setPorts_regs (s : State) (v : SMap Port) : (s.setPorts v).regs = s.regs := rfl
@[simp] theorem State.setPorts_mem (s : State) (v : SMap Port) : (s.setPorts v).mem = s.mem := rfl
@[simp] theorem State.setPorts_ecc (s : State) (v : SMap Port) : (s.setPorts v).ecc = s.ecc := rfl
@[simp] theorem State.setPorts_bufs (s : State) (v : SMap Port) : (s.setPorts v).bufs = s.bufs := rfl
@[simp] theorem State.setPorts_fifos (s : State) (v : SMap Port) : (s.setPorts v).fifos = s.fifos := rfl
@[simp] theorem State.setPorts_boot (s : State) (v : SMap Port) : (s.setPorts v).boot = s.boot := rfl
@[simp] theorem State.setPorts_sch (s : State) (v : SMap Port) : (s.setPorts v).sch = s.sch := rfl
@[simp] theorem State.setPorts_runs (s : State) (v : SMap Port) : (s.setPorts v).runs = s.runs := rfl
@[simp] theorem State.setPorts_ports (s : State) (v : SMap Port) : (s.setPorts v).ports = v := rfl
@[simp] theorem State.setPorts_slices (s : State) (v : SMap Port) : (s.setPorts v).slices = s.slices := rfl
@[simp] theorem State.setPorts_records (s : State) (v : SMap Port) : (s.setPorts v).records = s.records := rfl
@[simp] theorem State.setPorts_polarity (s : State) (v : SMap Port) : (s.setPorts v).polarity = s.polarity := rfl
@[simp] theorem State.setPorts_requests (s : State) (v : SMap Port) : (s.setPorts v).requests = s.requests := rfl
@[simp] theorem State.setPorts_sec (s : State) (v : SMap Port) : (s.setPorts v).sec = s.sec := rfl
@[simp] theorem State.setPorts_decoders (s : State) (v : SMap Port) : (s.setPorts v).decoders = s.decoders := rfl
@[simp] theorem State.setPorts_hostRuns (s : State) (v : SMap Port) : (s.setPorts v).hostRuns = s.hostRuns := rfl
@[simp] theorem State.setPorts_awning (s : State) (v : SMap Port) : (s.setPorts v).awning = s.awning := rfl
@[simp] theorem State.setPorts_lantern (s : State) (v : SMap Port) : (s.setPorts v).lantern = s.lantern := rfl
@[simp] theorem State.setPorts_hif (s : State) (v : SMap Port) : (s.setPorts v).hif = s.hif := rfl
@[simp] theorem State.setPorts_pit (s : State) (v : SMap Port) : (s.setPorts v).pit = s.pit := rfl
@[simp] theorem State.setPorts_hlt (s : State) (v : SMap Port) : (s.setPorts v).hlt = s.hlt := rfl
@[simp] theorem State.setPorts_flash (s : State) (v : SMap Port) : (s.setPorts v).flash = s.flash := rfl
@[simp] theorem State.setPorts_guy (s : State) (v : SMap Port) : (s.setPorts v).guy = s.guy := rfl
@[simp] theorem State.setPorts_cxp (s : State) (v : SMap Port) : (s.setPorts v).cxp = s.cxp := rfl
@[simp] theorem State.setPorts_cab (s : State) (v : SMap Port) : (s.setPorts v).cab = s.cab := rfl
@[simp] theorem State.setPorts_trl (s : State) (v : SMap Port) : (s.setPorts v).trl = s.trl := rfl
@[simp] theorem State.setPorts_tap (s : State) (v : SMap Port) : (s.setPorts v).tap = s.tap := rfl
@[simp] theorem State.setPorts_wheel (s : State) (v : SMap Port) : (s.setPorts v).wheel = s.wheel := rfl
@[simp] theorem State.setPorts_resp (s : State) (v : SMap Port) : (s.setPorts v).resp = s.resp := rfl
@[simp] theorem State.setPorts_out (s : State) (v : SMap Port) : (s.setPorts v).out = s.out := rfl
@[simp] theorem State.setPorts_fresh (s : State) (v : SMap Port) : (s.setPorts v).fresh = s.fresh := rfl
@[simp] theorem State.setSlices_pending (s : State) (v : SMap Slice) : (s.setSlices v).pending = s.pending := rfl
@[simp] theorem State.setSlices_clock (s : State) (v : SMap Slice) : (s.setSlices v).clock = s.clock := rfl
@[simp] theorem State.setSlices_tick (s : State) (v : SMap Slice) : (s.setSlices v).tick = s.tick := rfl
@[simp] theorem State.setSlices_regs (s : State) (v : SMap Slice) : (s.setSlices v).regs = s.regs := rfl
@[simp] theorem State.setSlices_mem (s : State) (v : SMap Slice) : (s.setSlices v).mem = s.mem := rfl
@[simp] theorem State.setSlices_ecc (s : State) (v : SMap Slice) : (s.setSlices v).ecc = s.ecc := rfl
@[simp] theorem State.setSlices_bufs (s : State) (v : SMap Slice) : (s.setSlices v).bufs = s.bufs := rfl
@[simp] theorem State.setSlices_fifos (s : State) (v : SMap Slice) : (s.setSlices v).fifos = s.fifos := rfl
@[simp] theorem State.setSlices_boot (s : State) (v : SMap Slice) : (s.setSlices v).boot = s.boot := rfl
@[simp] theorem State.setSlices_sch (s : State) (v : SMap Slice) : (s.setSlices v).sch = s.sch := rfl
@[simp] theorem State.setSlices_runs (s : State) (v : SMap Slice) : (s.setSlices v).runs = s.runs := rfl
@[simp] theorem State.setSlices_ports (s : State) (v : SMap Slice) : (s.setSlices v).ports = s.ports := rfl
@[simp] theorem State.setSlices_slices (s : State) (v : SMap Slice) : (s.setSlices v).slices = v := rfl
@[simp] theorem State.setSlices_records (s : State) (v : SMap Slice) : (s.setSlices v).records = s.records := rfl
@[simp] theorem State.setSlices_polarity (s : State) (v : SMap Slice) : (s.setSlices v).polarity = s.polarity := rfl
@[simp] theorem State.setSlices_requests (s : State) (v : SMap Slice) : (s.setSlices v).requests = s.requests := rfl
@[simp] theorem State.setSlices_sec (s : State) (v : SMap Slice) : (s.setSlices v).sec = s.sec := rfl
@[simp] theorem State.setSlices_decoders (s : State) (v : SMap Slice) : (s.setSlices v).decoders = s.decoders := rfl
@[simp] theorem State.setSlices_hostRuns (s : State) (v : SMap Slice) : (s.setSlices v).hostRuns = s.hostRuns := rfl
@[simp] theorem State.setSlices_awning (s : State) (v : SMap Slice) : (s.setSlices v).awning = s.awning := rfl
@[simp] theorem State.setSlices_lantern (s : State) (v : SMap Slice) : (s.setSlices v).lantern = s.lantern := rfl
@[simp] theorem State.setSlices_hif (s : State) (v : SMap Slice) : (s.setSlices v).hif = s.hif := rfl
@[simp] theorem State.setSlices_pit (s : State) (v : SMap Slice) : (s.setSlices v).pit = s.pit := rfl
@[simp] theorem State.setSlices_hlt (s : State) (v : SMap Slice) : (s.setSlices v).hlt = s.hlt := rfl
@[simp] theorem State.setSlices_flash (s : State) (v : SMap Slice) : (s.setSlices v).flash = s.flash := rfl
@[simp] theorem State.setSlices_guy (s : State) (v : SMap Slice) : (s.setSlices v).guy = s.guy := rfl
@[simp] theorem State.setSlices_cxp (s : State) (v : SMap Slice) : (s.setSlices v).cxp = s.cxp := rfl
@[simp] theorem State.setSlices_cab (s : State) (v : SMap Slice) : (s.setSlices v).cab = s.cab := rfl
@[simp] theorem State.setSlices_trl (s : State) (v : SMap Slice) : (s.setSlices v).trl = s.trl := rfl
@[simp] theorem State.setSlices_tap (s : State) (v : SMap Slice) : (s.setSlices v).tap = s.tap := rfl
@[simp] theorem State.setSlices_wheel (s : State) (v : SMap Slice) : (s.setSlices v).wheel = s.wheel := rfl
@[simp] theorem State.setSlices_resp (s : State) (v : SMap Slice) : (s.setSlices v).resp = s.resp := rfl
@[simp] theorem State.setSlices_out (s : State) (v : SMap Slice) : (s.setSlices v).out = s.out := rfl
@[simp] theorem State.setSlices_fresh (s : State) (v : SMap Slice) : (s.setSlices v).fresh = s.fresh := rfl
@[simp] theorem State.setRecords_pending (s : State) (v : List SaveRecord) : (s.setRecords v).pending = s.pending := rfl
@[simp] theorem State.setRecords_clock (s : State) (v : List SaveRecord) : (s.setRecords v).clock = s.clock := rfl
@[simp] theorem State.setRecords_tick (s : State) (v : List SaveRecord) : (s.setRecords v).tick = s.tick := rfl
@[simp] theorem State.setRecords_regs (s : State) (v : List SaveRecord) : (s.setRecords v).regs = s.regs := rfl
@[simp] theorem State.setRecords_mem (s : State) (v : List SaveRecord) : (s.setRecords v).mem = s.mem := rfl
@[simp] theorem State.setRecords_ecc (s : State) (v : List SaveRecord) : (s.setRecords v).ecc = s.ecc := rfl
@[simp] theorem State.setRecords_bufs (s : State) (v : List SaveRecord) : (s.setRecords v).bufs = s.bufs := rfl
@[simp] theorem State.setRecords_fifos (s : State) (v : List SaveRecord) : (s.setRecords v).fifos = s.fifos := rfl
@[simp] theorem State.setRecords_boot (s : State) (v : List SaveRecord) : (s.setRecords v).boot = s.boot := rfl
@[simp] theorem State.setRecords_sch (s : State) (v : List SaveRecord) : (s.setRecords v).sch = s.sch := rfl
@[simp] theorem State.setRecords_runs (s : State) (v : List SaveRecord) : (s.setRecords v).runs = s.runs := rfl
@[simp] theorem State.setRecords_ports (s : State) (v : List SaveRecord) : (s.setRecords v).ports = s.ports := rfl
@[simp] theorem State.setRecords_slices (s : State) (v : List SaveRecord) : (s.setRecords v).slices = s.slices := rfl
@[simp] theorem State.setRecords_records (s : State) (v : List SaveRecord) : (s.setRecords v).records = v := rfl
@[simp] theorem State.setRecords_polarity (s : State) (v : List SaveRecord) : (s.setRecords v).polarity = s.polarity := rfl
@[simp] theorem State.setRecords_requests (s : State) (v : List SaveRecord) : (s.setRecords v).requests = s.requests := rfl
@[simp] theorem State.setRecords_sec (s : State) (v : List SaveRecord) : (s.setRecords v).sec = s.sec := rfl
@[simp] theorem State.setRecords_decoders (s : State) (v : List SaveRecord) : (s.setRecords v).decoders = s.decoders := rfl
@[simp] theorem State.setRecords_hostRuns (s : State) (v : List SaveRecord) : (s.setRecords v).hostRuns = s.hostRuns := rfl
@[simp] theorem State.setRecords_awning (s : State) (v : List SaveRecord) : (s.setRecords v).awning = s.awning := rfl
@[simp] theorem State.setRecords_lantern (s : State) (v : List SaveRecord) : (s.setRecords v).lantern = s.lantern := rfl
@[simp] theorem State.setRecords_hif (s : State) (v : List SaveRecord) : (s.setRecords v).hif = s.hif := rfl
@[simp] theorem State.setRecords_pit (s : State) (v : List SaveRecord) : (s.setRecords v).pit = s.pit := rfl
@[simp] theorem State.setRecords_hlt (s : State) (v : List SaveRecord) : (s.setRecords v).hlt = s.hlt := rfl
@[simp] theorem State.setRecords_flash (s : State) (v : List SaveRecord) : (s.setRecords v).flash = s.flash := rfl
@[simp] theorem State.setRecords_guy (s : State) (v : List SaveRecord) : (s.setRecords v).guy = s.guy := rfl
@[simp] theorem State.setRecords_cxp (s : State) (v : List SaveRecord) : (s.setRecords v).cxp = s.cxp := rfl
@[simp] theorem State.setRecords_cab (s : State) (v : List SaveRecord) : (s.setRecords v).cab = s.cab := rfl
@[simp] theorem State.setRecords_trl (s : State) (v : List SaveRecord) : (s.setRecords v).trl = s.trl := rfl
@[simp] theorem State.setRecords_tap (s : State) (v : List SaveRecord) : (s.setRecords v).tap = s.tap := rfl
@[simp] theorem State.setRecords_wheel (s : State) (v : List SaveRecord) : (s.setRecords v).wheel = s.wheel := rfl
@[simp] theorem State.setRecords_resp (s : State) (v : List SaveRecord) : (s.setRecords v).resp = s.resp := rfl
@[simp] theorem State.setRecords_out (s : State) (v : List SaveRecord) : (s.setRecords v).out = s.out := rfl
@[simp] theorem State.setRecords_fresh (s : State) (v : List SaveRecord) : (s.setRecords v).fresh = s.fresh := rfl
@[simp] theorem State.setPolarity_pending (s : State) (v : List (Nat × Nat × Nat)) : (s.setPolarity v).pending = s.pending := rfl
@[simp] theorem State.setPolarity_clock (s : State) (v : List (Nat × Nat × Nat)) : (s.setPolarity v).clock = s.clock := rfl
@[simp] theorem State.setPolarity_tick (s : State) (v : List (Nat × Nat × Nat)) : (s.setPolarity v).tick = s.tick := rfl
@[simp] theorem State.setPolarity_regs (s : State) (v : List (Nat × Nat × Nat)) : (s.setPolarity v).regs = s.regs := rfl
@[simp] theorem State.setPolarity_mem (s : State) (v : List (Nat × Nat × Nat)) : (s.setPolarity v).mem = s.mem := rfl
@[simp] theorem State.setPolarity_ecc (s : State) (v : List (Nat × Nat × Nat)) : (s.setPolarity v).ecc = s.ecc := rfl
@[simp] theorem State.setPolarity_bufs (s : State) (v : List (Nat × Nat × Nat)) : (s.setPolarity v).bufs = s.bufs := rfl
@[simp] theorem State.setPolarity_fifos (s : State) (v : List (Nat × Nat × Nat)) : (s.setPolarity v).fifos = s.fifos := rfl
@[simp] theorem State.setPolarity_boot (s : State) (v : List (Nat × Nat × Nat)) : (s.setPolarity v).boot = s.boot := rfl
@[simp] theorem State.setPolarity_sch (s : State) (v : List (Nat × Nat × Nat)) : (s.setPolarity v).sch = s.sch := rfl
@[simp] theorem State.setPolarity_runs (s : State) (v : List (Nat × Nat × Nat)) : (s.setPolarity v).runs = s.runs := rfl
@[simp] theorem State.setPolarity_ports (s : State) (v : List (Nat × Nat × Nat)) : (s.setPolarity v).ports = s.ports := rfl
@[simp] theorem State.setPolarity_slices (s : State) (v : List (Nat × Nat × Nat)) : (s.setPolarity v).slices = s.slices := rfl
@[simp] theorem State.setPolarity_records (s : State) (v : List (Nat × Nat × Nat)) : (s.setPolarity v).records = s.records := rfl
@[simp] theorem State.setPolarity_polarity (s : State) (v : List (Nat × Nat × Nat)) : (s.setPolarity v).polarity = v := rfl
@[simp] theorem State.setPolarity_requests (s : State) (v : List (Nat × Nat × Nat)) : (s.setPolarity v).requests = s.requests := rfl
@[simp] theorem State.setPolarity_sec (s : State) (v : List (Nat × Nat × Nat)) : (s.setPolarity v).sec = s.sec := rfl
@[simp] theorem State.setPolarity_decoders (s : State) (v : List (Nat × Nat × Nat)) : (s.setPolarity v).decoders = s.decoders := rfl
@[simp] theorem State.setPolarity_hostRuns (s : State) (v : List (Nat × Nat × Nat)) : (s.setPolarity v).hostRuns = s.hostRuns := rfl
@[simp] theorem State.setPolarity_awning (s : State) (v : List (Nat × Nat × Nat)) : (s.setPolarity v).awning = s.awning := rfl
@[simp] theorem State.setPolarity_lantern (s : State) (v : List (Nat × Nat × Nat)) : (s.setPolarity v).lantern = s.lantern := rfl
@[simp] theorem State.setPolarity_hif (s : State) (v : List (Nat × Nat × Nat)) : (s.setPolarity v).hif = s.hif := rfl
@[simp] theorem State.setPolarity_pit (s : State) (v : List (Nat × Nat × Nat)) : (s.setPolarity v).pit = s.pit := rfl
@[simp] theorem State.setPolarity_hlt (s : State) (v : List (Nat × Nat × Nat)) : (s.setPolarity v).hlt = s.hlt := rfl
@[simp] theorem State.setPolarity_flash (s : State) (v : List (Nat × Nat × Nat)) : (s.setPolarity v).flash = s.flash := rfl
@[simp] theorem State.setPolarity_guy (s : State) (v : List (Nat × Nat × Nat)) : (s.setPolarity v).guy = s.guy := rfl
@[simp] theorem State.setPolarity_cxp (s : State) (v : List (Nat × Nat × Nat)) : (s.setPolarity v).cxp = s.cxp := rfl
@[simp] theorem State.setPolarity_cab (s : State) (v : List (Nat × Nat × Nat)) : (s.setPolarity v).cab = s.cab := rfl
@[simp] theorem State.setPolarity_trl (s : State) (v : List (Nat × Nat × Nat)) : (s.setPolarity v).trl = s.trl := rfl
@[simp] theorem State.setPolarity_tap (s : State) (v : List (Nat × Nat × Nat)) : (s.setPolarity v).tap = s.tap := rfl
@[simp] theorem State.setPolarity_wheel (s : State) (v : List (Nat × Nat × Nat)) : (s.setPolarity v).wheel = s.wheel := rfl
@[simp] theorem State.setPolarity_resp (s : State) (v : List (Nat × Nat × Nat)) : (s.setPolarity v).resp = s.resp := rfl
@[simp] theorem State.setPolarity_out (s : State) (v : List (Nat × Nat × Nat)) : (s.setPolarity v).out = s.out := rfl
@[simp] theorem State.setPolarity_fresh (s : State) (v : List (Nat × Nat × Nat)) : (s.setPolarity v).fresh = s.fresh := rfl
@[simp] theorem State.setRequests_pending (s : State) (v : List Request) : (s.setRequests v).pending = s.pending := rfl
@[simp] theorem State.setRequests_clock (s : State) (v : List Request) : (s.setRequests v).clock = s.clock := rfl
@[simp] theorem State.setRequests_tick (s : State) (v : List Request) : (s.setRequests v).tick = s.tick := rfl
@[simp] theorem State.setRequests_regs (s : State) (v : List Request) : (s.setRequests v).regs = s.regs := rfl
@[simp] theorem State.setRequests_mem (s : State) (v : List Request) : (s.setRequests v).mem = s.mem := rfl
@[simp] theorem State.setRequests_ecc (s : State) (v : List Request) : (s.setRequests v).ecc = s.ecc := rfl
@[simp] theorem State.setRequests_bufs (s : State) (v : List Request) : (s.setRequests v).bufs = s.bufs := rfl
@[simp] theorem State.setRequests_fifos (s : State) (v : List Request) : (s.setRequests v).fifos = s.fifos := rfl
@[simp] theorem State.setRequests_boot (s : State) (v : List Request) : (s.setRequests v).boot = s.boot := rfl
@[simp] theorem State.setRequests_sch (s : State) (v : List Request) : (s.setRequests v).sch = s.sch := rfl
@[simp] theorem State.setRequests_runs (s : State) (v : List Request) : (s.setRequests v).runs = s.runs := rfl
@[simp] theorem State.setRequests_ports (s : State) (v : List Request) : (s.setRequests v).ports = s.ports := rfl
@[simp] theorem State.setRequests_slices (s : State) (v : List Request) : (s.setRequests v).slices = s.slices := rfl
@[simp] theorem State.setRequests_records (s : State) (v : List Request) : (s.setRequests v).records = s.records := rfl
@[simp] theorem State.setRequests_polarity (s : State) (v : List Request) : (s.setRequests v).polarity = s.polarity := rfl
@[simp] theorem State.setRequests_requests (s : State) (v : List Request) : (s.setRequests v).requests = v := rfl
@[simp] theorem State.setRequests_sec (s : State) (v : List Request) : (s.setRequests v).sec = s.sec := rfl
@[simp] theorem State.setRequests_decoders (s : State) (v : List Request) : (s.setRequests v).decoders = s.decoders := rfl
@[simp] theorem State.setRequests_hostRuns (s : State) (v : List Request) : (s.setRequests v).hostRuns = s.hostRuns := rfl
@[simp] theorem State.setRequests_awning (s : State) (v : List Request) : (s.setRequests v).awning = s.awning := rfl
@[simp] theorem State.setRequests_lantern (s : State) (v : List Request) : (s.setRequests v).lantern = s.lantern := rfl
@[simp] theorem State.setRequests_hif (s : State) (v : List Request) : (s.setRequests v).hif = s.hif := rfl
@[simp] theorem State.setRequests_pit (s : State) (v : List Request) : (s.setRequests v).pit = s.pit := rfl
@[simp] theorem State.setRequests_hlt (s : State) (v : List Request) : (s.setRequests v).hlt = s.hlt := rfl
@[simp] theorem State.setRequests_flash (s : State) (v : List Request) : (s.setRequests v).flash = s.flash := rfl
@[simp] theorem State.setRequests_guy (s : State) (v : List Request) : (s.setRequests v).guy = s.guy := rfl
@[simp] theorem State.setRequests_cxp (s : State) (v : List Request) : (s.setRequests v).cxp = s.cxp := rfl
@[simp] theorem State.setRequests_cab (s : State) (v : List Request) : (s.setRequests v).cab = s.cab := rfl
@[simp] theorem State.setRequests_trl (s : State) (v : List Request) : (s.setRequests v).trl = s.trl := rfl
@[simp] theorem State.setRequests_tap (s : State) (v : List Request) : (s.setRequests v).tap = s.tap := rfl
@[simp] theorem State.setRequests_wheel (s : State) (v : List Request) : (s.setRequests v).wheel = s.wheel := rfl
@[simp] theorem State.setRequests_resp (s : State) (v : List Request) : (s.setRequests v).resp = s.resp := rfl
@[simp] theorem State.setRequests_out (s : State) (v : List Request) : (s.setRequests v).out = s.out := rfl
@[simp] theorem State.setRequests_fresh (s : State) (v : List Request) : (s.setRequests v).fresh = s.fresh := rfl
@[simp] theorem State.setSec_pending (s : State) (v : Sec) : (s.setSec v).pending = s.pending := rfl
@[simp] theorem State.setSec_clock (s : State) (v : Sec) : (s.setSec v).clock = s.clock := rfl
@[simp] theorem State.setSec_tick (s : State) (v : Sec) : (s.setSec v).tick = s.tick := rfl
@[simp] theorem State.setSec_regs (s : State) (v : Sec) : (s.setSec v).regs = s.regs := rfl
@[simp] theorem State.setSec_mem (s : State) (v : Sec) : (s.setSec v).mem = s.mem := rfl
@[simp] theorem State.setSec_ecc (s : State) (v : Sec) : (s.setSec v).ecc = s.ecc := rfl
@[simp] theorem State.setSec_bufs (s : State) (v : Sec) : (s.setSec v).bufs = s.bufs := rfl
@[simp] theorem State.setSec_fifos (s : State) (v : Sec) : (s.setSec v).fifos = s.fifos := rfl
@[simp] theorem State.setSec_boot (s : State) (v : Sec) : (s.setSec v).boot = s.boot := rfl
@[simp] theorem State.setSec_sch (s : State) (v : Sec) : (s.setSec v).sch = s.sch := rfl
@[simp] theorem State.setSec_runs (s : State) (v : Sec) : (s.setSec v).runs = s.runs := rfl
@[simp] theorem State.setSec_ports (s : State) (v : Sec) : (s.setSec v).ports = s.ports := rfl
@[simp] theorem State.setSec_slices (s : State) (v : Sec) : (s.setSec v).slices = s.slices := rfl
@[simp] theorem State.setSec_records (s : State) (v : Sec) : (s.setSec v).records = s.records := rfl
@[simp] theorem State.setSec_polarity (s : State) (v : Sec) : (s.setSec v).polarity = s.polarity := rfl
@[simp] theorem State.setSec_requests (s : State) (v : Sec) : (s.setSec v).requests = s.requests := rfl
@[simp] theorem State.setSec_sec (s : State) (v : Sec) : (s.setSec v).sec = v := rfl
@[simp] theorem State.setSec_decoders (s : State) (v : Sec) : (s.setSec v).decoders = s.decoders := rfl
@[simp] theorem State.setSec_hostRuns (s : State) (v : Sec) : (s.setSec v).hostRuns = s.hostRuns := rfl
@[simp] theorem State.setSec_awning (s : State) (v : Sec) : (s.setSec v).awning = s.awning := rfl
@[simp] theorem State.setSec_lantern (s : State) (v : Sec) : (s.setSec v).lantern = s.lantern := rfl
@[simp] theorem State.setSec_hif (s : State) (v : Sec) : (s.setSec v).hif = s.hif := rfl
@[simp] theorem State.setSec_pit (s : State) (v : Sec) : (s.setSec v).pit = s.pit := rfl
@[simp] theorem State.setSec_hlt (s : State) (v : Sec) : (s.setSec v).hlt = s.hlt := rfl
@[simp] theorem State.setSec_flash (s : State) (v : Sec) : (s.setSec v).flash = s.flash := rfl
@[simp] theorem State.setSec_guy (s : State) (v : Sec) : (s.setSec v).guy = s.guy := rfl
@[simp] theorem State.setSec_cxp (s : State) (v : Sec) : (s.setSec v).cxp = s.cxp := rfl
@[simp] theorem State.setSec_cab (s : State) (v : Sec) : (s.setSec v).cab = s.cab := rfl
@[simp] theorem State.setSec_trl (s : State) (v : Sec) : (s.setSec v).trl = s.trl := rfl
@[simp] theorem State.setSec_tap (s : State) (v : Sec) : (s.setSec v).tap = s.tap := rfl
@[simp] theorem State.setSec_wheel (s : State) (v : Sec) : (s.setSec v).wheel = s.wheel := rfl
@[simp] theorem State.setSec_resp (s : State) (v : Sec) : (s.setSec v).resp = s.resp := rfl
@[simp] theorem State.setSec_out (s : State) (v : Sec) : (s.setSec v).out = s.out := rfl
@[simp] theorem State.setSec_fresh (s : State) (v : Sec) : (s.setSec v).fresh = s.fresh := rfl
@[simp] theorem State.setDecoders_pending (s : State) (v : SMap Decoder) : (s.setDecoders v).pending = s.pending := rfl
@[simp] theorem State.setDecoders_clock (s : State) (v : SMap Decoder) : (s.setDecoders v).clock = s.clock := rfl
@[simp] theorem State.setDecoders_tick (s : State) (v : SMap Decoder) : (s.setDecoders v).tick = s.tick := rfl
@[simp] theorem State.setDecoders_regs (s : State) (v : SMap Decoder) : (s.setDecoders v).regs = s.regs := rfl
@[simp] theorem State.setDecoders_mem (s : State) (v : SMap Decoder) : (s.setDecoders v).mem = s.mem := rfl
@[simp] theorem State.setDecoders_ecc (s : State) (v : SMap Decoder) : (s.setDecoders v).ecc = s.ecc := rfl
@[simp] theorem State.setDecoders_bufs (s : State) (v : SMap Decoder) : (s.setDecoders v).bufs = s.bufs := rfl
@[simp] theorem State.setDecoders_fifos (s : State) (v : SMap Decoder) : (s.setDecoders v).fifos = s.fifos := rfl
@[simp] theorem State.setDecoders_boot (s : State) (v : SMap Decoder) : (s.setDecoders v).boot = s.boot := rfl
@[simp] theorem State.setDecoders_sch (s : State) (v : SMap Decoder) : (s.setDecoders v).sch = s.sch := rfl
@[simp] theorem State.setDecoders_runs (s : State) (v : SMap Decoder) : (s.setDecoders v).runs = s.runs := rfl
@[simp] theorem State.setDecoders_ports (s : State) (v : SMap Decoder) : (s.setDecoders v).ports = s.ports := rfl
@[simp] theorem State.setDecoders_slices (s : State) (v : SMap Decoder) : (s.setDecoders v).slices = s.slices := rfl
@[simp] theorem State.setDecoders_records (s : State) (v : SMap Decoder) : (s.setDecoders v).records = s.records := rfl
@[simp] theorem State.setDecoders_polarity (s : State) (v : SMap Decoder) : (s.setDecoders v).polarity = s.polarity := rfl
@[simp] theorem State.setDecoders_requests (s : State) (v : SMap Decoder) : (s.setDecoders v).requests = s.requests := rfl
@[simp] theorem State.setDecoders_sec (s : State) (v : SMap Decoder) : (s.setDecoders v).sec = s.sec := rfl
@[simp] theorem State.setDecoders_decoders (s : State) (v : SMap Decoder) : (s.setDecoders v).decoders = v := rfl
@[simp] theorem State.setDecoders_hostRuns (s : State) (v : SMap Decoder) : (s.setDecoders v).hostRuns = s.hostRuns := rfl
@[simp] theorem State.setDecoders_awning (s : State) (v : SMap Decoder) : (s.setDecoders v).awning = s.awning := rfl
@[simp] theorem State.setDecoders_lantern (s : State) (v : SMap Decoder) : (s.setDecoders v).lantern = s.lantern := rfl
@[simp] theorem State.setDecoders_hif (s : State) (v : SMap Decoder) : (s.setDecoders v).hif = s.hif := rfl
@[simp] theorem State.setDecoders_pit (s : State) (v : SMap Decoder) : (s.setDecoders v).pit = s.pit := rfl
@[simp] theorem State.setDecoders_hlt (s : State) (v : SMap Decoder) : (s.setDecoders v).hlt = s.hlt := rfl
@[simp] theorem State.setDecoders_flash (s : State) (v : SMap Decoder) : (s.setDecoders v).flash = s.flash := rfl
@[simp] theorem State.setDecoders_guy (s : State) (v : SMap Decoder) : (s.setDecoders v).guy = s.guy := rfl
@[simp] theorem State.setDecoders_cxp (s : State) (v : SMap Decoder) : (s.setDecoders v).cxp = s.cxp := rfl
@[simp] theorem State.setDecoders_cab (s : State) (v : SMap Decoder) : (s.setDecoders v).cab = s.cab := rfl
@[simp] theorem State.setDecoders_trl (s : State) (v : SMap Decoder) : (s.setDecoders v).trl = s.trl := rfl
@[simp] theorem State.setDecoders_tap (s : State) (v : SMap Decoder) : (s.setDecoders v).tap = s.tap := rfl
@[simp] theorem State.setDecoders_wheel (s : State) (v : SMap Decoder) : (s.setDecoders v).wheel = s.wheel := rfl
@[simp] theorem State.setDecoders_resp (s : State) (v : SMap Decoder) : (s.setDecoders v).resp = s.resp := rfl
@[simp] theorem State.setDecoders_out (s : State) (v : SMap Decoder) : (s.setDecoders v).out = s.out := rfl
@[simp] theorem State.setDecoders_fresh (s : State) (v : SMap Decoder) : (s.setDecoders v).fresh = s.fresh := rfl
@[simp] theorem State.setHostRuns_pending (s : State) (v : SMap HostRun) : (s.setHostRuns v).pending = s.pending := rfl
@[simp] theorem State.setHostRuns_clock (s : State) (v : SMap HostRun) : (s.setHostRuns v).clock = s.clock := rfl
@[simp] theorem State.setHostRuns_tick (s : State) (v : SMap HostRun) : (s.setHostRuns v).tick = s.tick := rfl
@[simp] theorem State.setHostRuns_regs (s : State) (v : SMap HostRun) : (s.setHostRuns v).regs = s.regs := rfl
@[simp] theorem State.setHostRuns_mem (s : State) (v : SMap HostRun) : (s.setHostRuns v).mem = s.mem := rfl
@[simp] theorem State.setHostRuns_ecc (s : State) (v : SMap HostRun) : (s.setHostRuns v).ecc = s.ecc := rfl
@[simp] theorem State.setHostRuns_bufs (s : State) (v : SMap HostRun) : (s.setHostRuns v).bufs = s.bufs := rfl
@[simp] theorem State.setHostRuns_fifos (s : State) (v : SMap HostRun) : (s.setHostRuns v).fifos = s.fifos := rfl
@[simp] theorem State.setHostRuns_boot (s : State) (v : SMap HostRun) : (s.setHostRuns v).boot = s.boot := rfl
@[simp] theorem State.setHostRuns_sch (s : State) (v : SMap HostRun) : (s.setHostRuns v).sch = s.sch := rfl
@[simp] theorem State.setHostRuns_runs (s : State) (v : SMap HostRun) : (s.setHostRuns v).runs = s.runs := rfl
@[simp] theorem State.setHostRuns_ports (s : State) (v : SMap HostRun) : (s.setHostRuns v).ports = s.ports := rfl
@[simp] theorem State.setHostRuns_slices (s : State) (v : SMap HostRun) : (s.setHostRuns v).slices = s.slices := rfl
@[simp] theorem State.setHostRuns_records (s : State) (v : SMap HostRun) : (s.setHostRuns v).records = s.records := rfl
@[simp] theorem State.setHostRuns_polarity (s : State) (v : SMap HostRun) : (s.setHostRuns v).polarity = s.polarity := rfl
@[simp] theorem State.setHostRuns_requests (s : State) (v : SMap HostRun) : (s.setHostRuns v).requests = s.requests := rfl
@[simp] theorem State.setHostRuns_sec (s : State) (v : SMap HostRun) : (s.setHostRuns v).sec = s.sec := rfl
@[simp] theorem State.setHostRuns_decoders (s : State) (v : SMap HostRun) : (s.setHostRuns v).decoders = s.decoders := rfl
@[simp] theorem State.setHostRuns_hostRuns (s : State) (v : SMap HostRun) : (s.setHostRuns v).hostRuns = v := rfl
@[simp] theorem State.setHostRuns_awning (s : State) (v : SMap HostRun) : (s.setHostRuns v).awning = s.awning := rfl
@[simp] theorem State.setHostRuns_lantern (s : State) (v : SMap HostRun) : (s.setHostRuns v).lantern = s.lantern := rfl
@[simp] theorem State.setHostRuns_hif (s : State) (v : SMap HostRun) : (s.setHostRuns v).hif = s.hif := rfl
@[simp] theorem State.setHostRuns_pit (s : State) (v : SMap HostRun) : (s.setHostRuns v).pit = s.pit := rfl
@[simp] theorem State.setHostRuns_hlt (s : State) (v : SMap HostRun) : (s.setHostRuns v).hlt = s.hlt := rfl
@[simp] theorem State.setHostRuns_flash (s : State) (v : SMap HostRun) : (s.setHostRuns v).flash = s.flash := rfl
@[simp] theorem State.setHostRuns_guy (s : State) (v : SMap HostRun) : (s.setHostRuns v).guy = s.guy := rfl
@[simp] theorem State.setHostRuns_cxp (s : State) (v : SMap HostRun) : (s.setHostRuns v).cxp = s.cxp := rfl
@[simp] theorem State.setHostRuns_cab (s : State) (v : SMap HostRun) : (s.setHostRuns v).cab = s.cab := rfl
@[simp] theorem State.setHostRuns_trl (s : State) (v : SMap HostRun) : (s.setHostRuns v).trl = s.trl := rfl
@[simp] theorem State.setHostRuns_tap (s : State) (v : SMap HostRun) : (s.setHostRuns v).tap = s.tap := rfl
@[simp] theorem State.setHostRuns_wheel (s : State) (v : SMap HostRun) : (s.setHostRuns v).wheel = s.wheel := rfl
@[simp] theorem State.setHostRuns_resp (s : State) (v : SMap HostRun) : (s.setHostRuns v).resp = s.resp := rfl
@[simp] theorem State.setHostRuns_out (s : State) (v : SMap HostRun) : (s.setHostRuns v).out = s.out := rfl
@[simp] theorem State.setHostRuns_fresh (s : State) (v : SMap HostRun) : (s.setHostRuns v).fresh = s.fresh := rfl
@[simp] theorem State.setAwning_pending (s : State) (v : SMap Awning) : (s.setAwning v).pending = s.pending := rfl
@[simp] theorem State.setAwning_clock (s : State) (v : SMap Awning) : (s.setAwning v).clock = s.clock := rfl
@[simp] theorem State.setAwning_tick (s : State) (v : SMap Awning) : (s.setAwning v).tick = s.tick := rfl
@[simp] theorem State.setAwning_regs (s : State) (v : SMap Awning) : (s.setAwning v).regs = s.regs := rfl
@[simp] theorem State.setAwning_mem (s : State) (v : SMap Awning) : (s.setAwning v).mem = s.mem := rfl
@[simp] theorem State.setAwning_ecc (s : State) (v : SMap Awning) : (s.setAwning v).ecc = s.ecc := rfl
@[simp] theorem State.setAwning_bufs (s : State) (v : SMap Awning) : (s.setAwning v).bufs = s.bufs := rfl
@[simp] theorem State.setAwning_fifos (s : State) (v : SMap Awning) : (s.setAwning v).fifos = s.fifos := rfl
@[simp] theorem State.setAwning_boot (s : State) (v : SMap Awning) : (s.setAwning v).boot = s.boot := rfl
@[simp] theorem State.setAwning_sch (s : State) (v : SMap Awning) : (s.setAwning v).sch = s.sch := rfl
@[simp] theorem State.setAwning_runs (s : State) (v : SMap Awning) : (s.setAwning v).runs = s.runs := rfl
@[simp] theorem State.setAwning_ports (s : State) (v : SMap Awning) : (s.setAwning v).ports = s.ports := rfl
@[simp] theorem State.setAwning_slices (s : State) (v : SMap Awning) : (s.setAwning v).slices = s.slices := rfl
@[simp] theorem State.setAwning_records (s : State) (v : SMap Awning) : (s.setAwning v).records = s.records := rfl
@[simp] theorem State.setAwning_polarity (s : State) (v : SMap Awning) : (s.setAwning v).polarity = s.polarity := rfl
@[simp] theorem State.setAwning_requests (s : State) (v : SMap Awning) : (s.setAwning v).requests = s.requests := rfl
@[simp] theorem State.setAwning_sec (s : State) (v : SMap Awning) : (s.setAwning v).sec = s.sec := rfl
@[simp] theorem State.setAwning_decoders (s : State) (v : SMap Awning) : (s.setAwning v).decoders = s.decoders := rfl
@[simp] theorem State.setAwning_hostRuns (s : State) (v : SMap Awning) : (s.setAwning v).hostRuns = s.hostRuns := rfl
@[simp] theorem State.setAwning_awning (s : State) (v : SMap Awning) : (s.setAwning v).awning = v := rfl
@[simp] theorem State.setAwning_lantern (s : State) (v : SMap Awning) : (s.setAwning v).lantern = s.lantern := rfl
@[simp] theorem State.setAwning_hif (s : State) (v : SMap Awning) : (s.setAwning v).hif = s.hif := rfl
@[simp] theorem State.setAwning_pit (s : State) (v : SMap Awning) : (s.setAwning v).pit = s.pit := rfl
@[simp] theorem State.setAwning_hlt (s : State) (v : SMap Awning) : (s.setAwning v).hlt = s.hlt := rfl
@[simp] theorem State.setAwning_flash (s : State) (v : SMap Awning) : (s.setAwning v).flash = s.flash := rfl
@[simp] theorem State.setAwning_guy (s : State) (v : SMap Awning) : (s.setAwning v).guy = s.guy := rfl
@[simp] theorem State.setAwning_cxp (s : State) (v : SMap Awning) : (s.setAwning v).cxp = s.cxp := rfl
@[simp] theorem State.setAwning_cab (s : State) (v : SMap Awning) : (s.setAwning v).cab = s.cab := rfl
@[simp] theorem State.setAwning_trl (s : State) (v : SMap Awning) : (s.setAwning v).trl = s.trl := rfl
@[simp] theorem State.setAwning_tap (s : State) (v : SMap Awning) : (s.setAwning v).tap = s.tap := rfl
@[simp] theorem State.setAwning_wheel (s : State) (v : SMap Awning) : (s.setAwning v).wheel = s.wheel := rfl
@[simp] theorem State.setAwning_resp (s : State) (v : SMap Awning) : (s.setAwning v).resp = s.resp := rfl
@[simp] theorem State.setAwning_out (s : State) (v : SMap Awning) : (s.setAwning v).out = s.out := rfl
@[simp] theorem State.setAwning_fresh (s : State) (v : SMap Awning) : (s.setAwning v).fresh = s.fresh := rfl
@[simp] theorem State.setLantern_pending (s : State) (v : Lantern) : (s.setLantern v).pending = s.pending := rfl
@[simp] theorem State.setLantern_clock (s : State) (v : Lantern) : (s.setLantern v).clock = s.clock := rfl
@[simp] theorem State.setLantern_tick (s : State) (v : Lantern) : (s.setLantern v).tick = s.tick := rfl
@[simp] theorem State.setLantern_regs (s : State) (v : Lantern) : (s.setLantern v).regs = s.regs := rfl
@[simp] theorem State.setLantern_mem (s : State) (v : Lantern) : (s.setLantern v).mem = s.mem := rfl
@[simp] theorem State.setLantern_ecc (s : State) (v : Lantern) : (s.setLantern v).ecc = s.ecc := rfl
@[simp] theorem State.setLantern_bufs (s : State) (v : Lantern) : (s.setLantern v).bufs = s.bufs := rfl
@[simp] theorem State.setLantern_fifos (s : State) (v : Lantern) : (s.setLantern v).fifos = s.fifos := rfl
@[simp] theorem State.setLantern_boot (s : State) (v : Lantern) : (s.setLantern v).boot = s.boot := rfl
@[simp] theorem State.setLantern_sch (s : State) (v : Lantern) : (s.setLantern v).sch = s.sch := rfl
@[simp] theorem State.setLantern_runs (s : State) (v : Lantern) : (s.setLantern v).runs = s.runs := rfl
@[simp] theorem State.setLantern_ports (s : State) (v : Lantern) : (s.setLantern v).ports = s.ports := rfl
@[simp] theorem State.setLantern_slices (s : State) (v : Lantern) : (s.setLantern v).slices = s.slices := rfl
@[simp] theorem State.setLantern_records (s : State) (v : Lantern) : (s.setLantern v).records = s.records := rfl
@[simp] theorem State.setLantern_polarity (s : State) (v : Lantern) : (s.setLantern v).polarity = s.polarity := rfl
@[simp] theorem State.setLantern_requests (s : State) (v : Lantern) : (s.setLantern v).requests = s.requests := rfl
@[simp] theorem State.setLantern_sec (s : State) (v : Lantern) : (s.setLantern v).sec = s.sec := rfl
@[simp] theorem State.setLantern_decoders (s : State) (v : Lantern) : (s.setLantern v).decoders = s.decoders := rfl
@[simp] theorem State.setLantern_hostRuns (s : State) (v : Lantern) : (s.setLantern v).hostRuns = s.hostRuns := rfl
@[simp] theorem State.setLantern_awning (s : State) (v : Lantern) : (s.setLantern v).awning = s.awning := rfl
@[simp] theorem State.setLantern_lantern (s : State) (v : Lantern) : (s.setLantern v).lantern = v := rfl
@[simp] theorem State.setLantern_hif (s : State) (v : Lantern) : (s.setLantern v).hif = s.hif := rfl
@[simp] theorem State.setLantern_pit (s : State) (v : Lantern) : (s.setLantern v).pit = s.pit := rfl
@[simp] theorem State.setLantern_hlt (s : State) (v : Lantern) : (s.setLantern v).hlt = s.hlt := rfl
@[simp] theorem State.setLantern_flash (s : State) (v : Lantern) : (s.setLantern v).flash = s.flash := rfl
@[simp] theorem State.setLantern_guy (s : State) (v : Lantern) : (s.setLantern v).guy = s.guy := rfl
@[simp] theorem State.setLantern_cxp (s : State) (v : Lantern) : (s.setLantern v).cxp = s.cxp := rfl
@[simp] theorem State.setLantern_cab (s : State) (v : Lantern) : (s.setLantern v).cab = s.cab := rfl
@[simp] theorem State.setLantern_trl (s : State) (v : Lantern) : (s.setLantern v).trl = s.trl := rfl
@[simp] theorem State.setLantern_tap (s : State) (v : Lantern) : (s.setLantern v).tap = s.tap := rfl
@[simp] theorem State.setLantern_wheel (s : State) (v : Lantern) : (s.setLantern v).wheel = s.wheel := rfl
@[simp] theorem State.setLantern_resp (s : State) (v : Lantern) : (s.setLantern v).resp = s.resp := rfl
@[simp] theorem State.setLantern_out (s : State) (v : Lantern) : (s.setLantern v).out = s.out := rfl
@[simp] theorem State.setLantern_fresh (s : State) (v : Lantern) : (s.setLantern v).fresh = s.fresh := rfl
@[simp] theorem State.setHif_pending (s : State) (v : Hif) : (s.setHif v).pending = s.pending := rfl
@[simp] theorem State.setHif_clock (s : State) (v : Hif) : (s.setHif v).clock = s.clock := rfl
@[simp] theorem State.setHif_tick (s : State) (v : Hif) : (s.setHif v).tick = s.tick := rfl
@[simp] theorem State.setHif_regs (s : State) (v : Hif) : (s.setHif v).regs = s.regs := rfl
@[simp] theorem State.setHif_mem (s : State) (v : Hif) : (s.setHif v).mem = s.mem := rfl
@[simp] theorem State.setHif_ecc (s : State) (v : Hif) : (s.setHif v).ecc = s.ecc := rfl
@[simp] theorem State.setHif_bufs (s : State) (v : Hif) : (s.setHif v).bufs = s.bufs := rfl
@[simp] theorem State.setHif_fifos (s : State) (v : Hif) : (s.setHif v).fifos = s.fifos := rfl
@[simp] theorem State.setHif_boot (s : State) (v : Hif) : (s.setHif v).boot = s.boot := rfl
@[simp] theorem State.setHif_sch (s : State) (v : Hif) : (s.setHif v).sch = s.sch := rfl
@[simp] theorem State.setHif_runs (s : State) (v : Hif) : (s.setHif v).runs = s.runs := rfl
@[simp] theorem State.setHif_ports (s : State) (v : Hif) : (s.setHif v).ports = s.ports := rfl
@[simp] theorem State.setHif_slices (s : State) (v : Hif) : (s.setHif v).slices = s.slices := rfl
@[simp] theorem State.setHif_records (s : State) (v : Hif) : (s.setHif v).records = s.records := rfl
@[simp] theorem State.setHif_polarity (s : State) (v : Hif) : (s.setHif v).polarity = s.polarity := rfl
@[simp] theorem State.setHif_requests (s : State) (v : Hif) : (s.setHif v).requests = s.requests := rfl
@[simp] theorem State.setHif_sec (s : State) (v : Hif) : (s.setHif v).sec = s.sec := rfl
@[simp] theorem State.setHif_decoders (s : State) (v : Hif) : (s.setHif v).decoders = s.decoders := rfl
@[simp] theorem State.setHif_hostRuns (s : State) (v : Hif) : (s.setHif v).hostRuns = s.hostRuns := rfl
@[simp] theorem State.setHif_awning (s : State) (v : Hif) : (s.setHif v).awning = s.awning := rfl
@[simp] theorem State.setHif_lantern (s : State) (v : Hif) : (s.setHif v).lantern = s.lantern := rfl
@[simp] theorem State.setHif_hif (s : State) (v : Hif) : (s.setHif v).hif = v := rfl
@[simp] theorem State.setHif_pit (s : State) (v : Hif) : (s.setHif v).pit = s.pit := rfl
@[simp] theorem State.setHif_hlt (s : State) (v : Hif) : (s.setHif v).hlt = s.hlt := rfl
@[simp] theorem State.setHif_flash (s : State) (v : Hif) : (s.setHif v).flash = s.flash := rfl
@[simp] theorem State.setHif_guy (s : State) (v : Hif) : (s.setHif v).guy = s.guy := rfl
@[simp] theorem State.setHif_cxp (s : State) (v : Hif) : (s.setHif v).cxp = s.cxp := rfl
@[simp] theorem State.setHif_cab (s : State) (v : Hif) : (s.setHif v).cab = s.cab := rfl
@[simp] theorem State.setHif_trl (s : State) (v : Hif) : (s.setHif v).trl = s.trl := rfl
@[simp] theorem State.setHif_tap (s : State) (v : Hif) : (s.setHif v).tap = s.tap := rfl
@[simp] theorem State.setHif_wheel (s : State) (v : Hif) : (s.setHif v).wheel = s.wheel := rfl
@[simp] theorem State.setHif_resp (s : State) (v : Hif) : (s.setHif v).resp = s.resp := rfl
@[simp] theorem State.setHif_out (s : State) (v : Hif) : (s.setHif v).out = s.out := rfl
@[simp] theorem State.setHif_fresh (s : State) (v : Hif) : (s.setHif v).fresh = s.fresh := rfl
@[simp] theorem State.setPit_pending (s : State) (v : Pit) : (s.setPit v).pending = s.pending := rfl
@[simp] theorem State.setPit_clock (s : State) (v : Pit) : (s.setPit v).clock = s.clock := rfl
@[simp] theorem State.setPit_tick (s : State) (v : Pit) : (s.setPit v).tick = s.tick := rfl
@[simp] theorem State.setPit_regs (s : State) (v : Pit) : (s.setPit v).regs = s.regs := rfl
@[simp] theorem State.setPit_mem (s : State) (v : Pit) : (s.setPit v).mem = s.mem := rfl
@[simp] theorem State.setPit_ecc (s : State) (v : Pit) : (s.setPit v).ecc = s.ecc := rfl
@[simp] theorem State.setPit_bufs (s : State) (v : Pit) : (s.setPit v).bufs = s.bufs := rfl
@[simp] theorem State.setPit_fifos (s : State) (v : Pit) : (s.setPit v).fifos = s.fifos := rfl
@[simp] theorem State.setPit_boot (s : State) (v : Pit) : (s.setPit v).boot = s.boot := rfl
@[simp] theorem State.setPit_sch (s : State) (v : Pit) : (s.setPit v).sch = s.sch := rfl
@[simp] theorem State.setPit_runs (s : State) (v : Pit) : (s.setPit v).runs = s.runs := rfl
@[simp] theorem State.setPit_ports (s : State) (v : Pit) : (s.setPit v).ports = s.ports := rfl
@[simp] theorem State.setPit_slices (s : State) (v : Pit) : (s.setPit v).slices = s.slices := rfl
@[simp] theorem State.setPit_records (s : State) (v : Pit) : (s.setPit v).records = s.records := rfl
@[simp] theorem State.setPit_polarity (s : State) (v : Pit) : (s.setPit v).polarity = s.polarity := rfl
@[simp] theorem State.setPit_requests (s : State) (v : Pit) : (s.setPit v).requests = s.requests := rfl
@[simp] theorem State.setPit_sec (s : State) (v : Pit) : (s.setPit v).sec = s.sec := rfl
@[simp] theorem State.setPit_decoders (s : State) (v : Pit) : (s.setPit v).decoders = s.decoders := rfl
@[simp] theorem State.setPit_hostRuns (s : State) (v : Pit) : (s.setPit v).hostRuns = s.hostRuns := rfl
@[simp] theorem State.setPit_awning (s : State) (v : Pit) : (s.setPit v).awning = s.awning := rfl
@[simp] theorem State.setPit_lantern (s : State) (v : Pit) : (s.setPit v).lantern = s.lantern := rfl
@[simp] theorem State.setPit_hif (s : State) (v : Pit) : (s.setPit v).hif = s.hif := rfl
@[simp] theorem State.setPit_pit (s : State) (v : Pit) : (s.setPit v).pit = v := rfl
@[simp] theorem State.setPit_hlt (s : State) (v : Pit) : (s.setPit v).hlt = s.hlt := rfl
@[simp] theorem State.setPit_flash (s : State) (v : Pit) : (s.setPit v).flash = s.flash := rfl
@[simp] theorem State.setPit_guy (s : State) (v : Pit) : (s.setPit v).guy = s.guy := rfl
@[simp] theorem State.setPit_cxp (s : State) (v : Pit) : (s.setPit v).cxp = s.cxp := rfl
@[simp] theorem State.setPit_cab (s : State) (v : Pit) : (s.setPit v).cab = s.cab := rfl
@[simp] theorem State.setPit_trl (s : State) (v : Pit) : (s.setPit v).trl = s.trl := rfl
@[simp] theorem State.setPit_tap (s : State) (v : Pit) : (s.setPit v).tap = s.tap := rfl
@[simp] theorem State.setPit_wheel (s : State) (v : Pit) : (s.setPit v).wheel = s.wheel := rfl
@[simp] theorem State.setPit_resp (s : State) (v : Pit) : (s.setPit v).resp = s.resp := rfl
@[simp] theorem State.setPit_out (s : State) (v : Pit) : (s.setPit v).out = s.out := rfl
@[simp] theorem State.setPit_fresh (s : State) (v : Pit) : (s.setPit v).fresh = s.fresh := rfl
@[simp] theorem State.setHlt_pending (s : State) (v : Hlt) : (s.setHlt v).pending = s.pending := rfl
@[simp] theorem State.setHlt_clock (s : State) (v : Hlt) : (s.setHlt v).clock = s.clock := rfl
@[simp] theorem State.setHlt_tick (s : State) (v : Hlt) : (s.setHlt v).tick = s.tick := rfl
@[simp] theorem State.setHlt_regs (s : State) (v : Hlt) : (s.setHlt v).regs = s.regs := rfl
@[simp] theorem State.setHlt_mem (s : State) (v : Hlt) : (s.setHlt v).mem = s.mem := rfl
@[simp] theorem State.setHlt_ecc (s : State) (v : Hlt) : (s.setHlt v).ecc = s.ecc := rfl
@[simp] theorem State.setHlt_bufs (s : State) (v : Hlt) : (s.setHlt v).bufs = s.bufs := rfl
@[simp] theorem State.setHlt_fifos (s : State) (v : Hlt) : (s.setHlt v).fifos = s.fifos := rfl
@[simp] theorem State.setHlt_boot (s : State) (v : Hlt) : (s.setHlt v).boot = s.boot := rfl
@[simp] theorem State.setHlt_sch (s : State) (v : Hlt) : (s.setHlt v).sch = s.sch := rfl
@[simp] theorem State.setHlt_runs (s : State) (v : Hlt) : (s.setHlt v).runs = s.runs := rfl
@[simp] theorem State.setHlt_ports (s : State) (v : Hlt) : (s.setHlt v).ports = s.ports := rfl
@[simp] theorem State.setHlt_slices (s : State) (v : Hlt) : (s.setHlt v).slices = s.slices := rfl
@[simp] theorem State.setHlt_records (s : State) (v : Hlt) : (s.setHlt v).records = s.records := rfl
@[simp] theorem State.setHlt_polarity (s : State) (v : Hlt) : (s.setHlt v).polarity = s.polarity := rfl
@[simp] theorem State.setHlt_requests (s : State) (v : Hlt) : (s.setHlt v).requests = s.requests := rfl
@[simp] theorem State.setHlt_sec (s : State) (v : Hlt) : (s.setHlt v).sec = s.sec := rfl
@[simp] theorem State.setHlt_decoders (s : State) (v : Hlt) : (s.setHlt v).decoders = s.decoders := rfl
@[simp] theorem State.setHlt_hostRuns (s : State) (v : Hlt) : (s.setHlt v).hostRuns = s.hostRuns := rfl
@[simp] theorem State.setHlt_awning (s : State) (v : Hlt) : (s.setHlt v).awning = s.awning := rfl
@[simp] theorem State.setHlt_lantern (s : State) (v : Hlt) : (s.setHlt v).lantern = s.lantern := rfl
@[simp] theorem State.setHlt_hif (s : State) (v : Hlt) : (s.setHlt v).hif = s.hif := rfl
@[simp] theorem State.setHlt_pit (s : State) (v : Hlt) : (s.setHlt v).pit = s.pit := rfl
@[simp] theorem State.setHlt_hlt (s : State) (v : Hlt) : (s.setHlt v).hlt = v := rfl
@[simp] theorem State.setHlt_flash (s : State) (v : Hlt) : (s.setHlt v).flash = s.flash := rfl
@[simp] theorem State.setHlt_guy (s : State) (v : Hlt) : (s.setHlt v).guy = s.guy := rfl
@[simp] theorem State.setHlt_cxp (s : State) (v : Hlt) : (s.setHlt v).cxp = s.cxp := rfl
@[simp] theorem State.setHlt_cab (s : State) (v : Hlt) : (s.setHlt v).cab = s.cab := rfl
@[simp] theorem State.setHlt_trl (s : State) (v : Hlt) : (s.setHlt v).trl = s.trl := rfl
@[simp] theorem State.setHlt_tap (s : State) (v : Hlt) : (s.setHlt v).tap = s.tap := rfl
@[simp] theorem State.setHlt_wheel (s : State) (v : Hlt) : (s.setHlt v).wheel = s.wheel := rfl
@[simp] theorem State.setHlt_resp (s : State) (v : Hlt) : (s.setHlt v).resp = s.resp := rfl
@[simp] theorem State.setHlt_out (s : State) (v : Hlt) : (s.setHlt v).out = s.out := rfl
@[simp] theorem State.setHlt_fresh (s : State) (v : Hlt) : (s.setHlt v).fresh = s.fresh := rfl
@[simp] theorem State.setFlash_pending (s : State) (v : SMap Byte) : (s.setFlash v).pending = s.pending := rfl
@[simp] theorem State.setFlash_clock (s : State) (v : SMap Byte) : (s.setFlash v).clock = s.clock := rfl
@[simp] theorem State.setFlash_tick (s : State) (v : SMap Byte) : (s.setFlash v).tick = s.tick := rfl
@[simp] theorem State.setFlash_regs (s : State) (v : SMap Byte) : (s.setFlash v).regs = s.regs := rfl
@[simp] theorem State.setFlash_mem (s : State) (v : SMap Byte) : (s.setFlash v).mem = s.mem := rfl
@[simp] theorem State.setFlash_ecc (s : State) (v : SMap Byte) : (s.setFlash v).ecc = s.ecc := rfl
@[simp] theorem State.setFlash_bufs (s : State) (v : SMap Byte) : (s.setFlash v).bufs = s.bufs := rfl
@[simp] theorem State.setFlash_fifos (s : State) (v : SMap Byte) : (s.setFlash v).fifos = s.fifos := rfl
@[simp] theorem State.setFlash_boot (s : State) (v : SMap Byte) : (s.setFlash v).boot = s.boot := rfl
@[simp] theorem State.setFlash_sch (s : State) (v : SMap Byte) : (s.setFlash v).sch = s.sch := rfl
@[simp] theorem State.setFlash_runs (s : State) (v : SMap Byte) : (s.setFlash v).runs = s.runs := rfl
@[simp] theorem State.setFlash_ports (s : State) (v : SMap Byte) : (s.setFlash v).ports = s.ports := rfl
@[simp] theorem State.setFlash_slices (s : State) (v : SMap Byte) : (s.setFlash v).slices = s.slices := rfl
@[simp] theorem State.setFlash_records (s : State) (v : SMap Byte) : (s.setFlash v).records = s.records := rfl
@[simp] theorem State.setFlash_polarity (s : State) (v : SMap Byte) : (s.setFlash v).polarity = s.polarity := rfl
@[simp] theorem State.setFlash_requests (s : State) (v : SMap Byte) : (s.setFlash v).requests = s.requests := rfl
@[simp] theorem State.setFlash_sec (s : State) (v : SMap Byte) : (s.setFlash v).sec = s.sec := rfl
@[simp] theorem State.setFlash_decoders (s : State) (v : SMap Byte) : (s.setFlash v).decoders = s.decoders := rfl
@[simp] theorem State.setFlash_hostRuns (s : State) (v : SMap Byte) : (s.setFlash v).hostRuns = s.hostRuns := rfl
@[simp] theorem State.setFlash_awning (s : State) (v : SMap Byte) : (s.setFlash v).awning = s.awning := rfl
@[simp] theorem State.setFlash_lantern (s : State) (v : SMap Byte) : (s.setFlash v).lantern = s.lantern := rfl
@[simp] theorem State.setFlash_hif (s : State) (v : SMap Byte) : (s.setFlash v).hif = s.hif := rfl
@[simp] theorem State.setFlash_pit (s : State) (v : SMap Byte) : (s.setFlash v).pit = s.pit := rfl
@[simp] theorem State.setFlash_hlt (s : State) (v : SMap Byte) : (s.setFlash v).hlt = s.hlt := rfl
@[simp] theorem State.setFlash_flash (s : State) (v : SMap Byte) : (s.setFlash v).flash = v := rfl
@[simp] theorem State.setFlash_guy (s : State) (v : SMap Byte) : (s.setFlash v).guy = s.guy := rfl
@[simp] theorem State.setFlash_cxp (s : State) (v : SMap Byte) : (s.setFlash v).cxp = s.cxp := rfl
@[simp] theorem State.setFlash_cab (s : State) (v : SMap Byte) : (s.setFlash v).cab = s.cab := rfl
@[simp] theorem State.setFlash_trl (s : State) (v : SMap Byte) : (s.setFlash v).trl = s.trl := rfl
@[simp] theorem State.setFlash_tap (s : State) (v : SMap Byte) : (s.setFlash v).tap = s.tap := rfl
@[simp] theorem State.setFlash_wheel (s : State) (v : SMap Byte) : (s.setFlash v).wheel = s.wheel := rfl
@[simp] theorem State.setFlash_resp (s : State) (v : SMap Byte) : (s.setFlash v).resp = s.resp := rfl
@[simp] theorem State.setFlash_out (s : State) (v : SMap Byte) : (s.setFlash v).out = s.out := rfl
@[simp] theorem State.setFlash_fresh (s : State) (v : SMap Byte) : (s.setFlash v).fresh = s.fresh := rfl
@[simp] theorem State.setGuy_pending (s : State) (v : Guy) : (s.setGuy v).pending = s.pending := rfl
@[simp] theorem State.setGuy_clock (s : State) (v : Guy) : (s.setGuy v).clock = s.clock := rfl
@[simp] theorem State.setGuy_tick (s : State) (v : Guy) : (s.setGuy v).tick = s.tick := rfl
@[simp] theorem State.setGuy_regs (s : State) (v : Guy) : (s.setGuy v).regs = s.regs := rfl
@[simp] theorem State.setGuy_mem (s : State) (v : Guy) : (s.setGuy v).mem = s.mem := rfl
@[simp] theorem State.setGuy_ecc (s : State) (v : Guy) : (s.setGuy v).ecc = s.ecc := rfl
@[simp] theorem State.setGuy_bufs (s : State) (v : Guy) : (s.setGuy v).bufs = s.bufs := rfl
@[simp] theorem State.setGuy_fifos (s : State) (v : Guy) : (s.setGuy v).fifos = s.fifos := rfl
@[simp] theorem State.setGuy_boot (s : State) (v : Guy) : (s.setGuy v).boot = s.boot := rfl
@[simp] theorem State.setGuy_sch (s : State) (v : Guy) : (s.setGuy v).sch = s.sch := rfl
@[simp] theorem State.setGuy_runs (s : State) (v : Guy) : (s.setGuy v).runs = s.runs := rfl
@[simp] theorem State.setGuy_ports (s : State) (v : Guy) : (s.setGuy v).ports = s.ports := rfl
@[simp] theorem State.setGuy_slices (s : State) (v : Guy) : (s.setGuy v).slices = s.slices := rfl
@[simp] theorem State.setGuy_records (s : State) (v : Guy) : (s.setGuy v).records = s.records := rfl
@[simp] theorem State.setGuy_polarity (s : State) (v : Guy) : (s.setGuy v).polarity = s.polarity := rfl
@[simp] theorem State.setGuy_requests (s : State) (v : Guy) : (s.setGuy v).requests = s.requests := rfl
@[simp] theorem State.setGuy_sec (s : State) (v : Guy) : (s.setGuy v).sec = s.sec := rfl
@[simp] theorem State.setGuy_decoders (s : State) (v : Guy) : (s.setGuy v).decoders = s.decoders := rfl
@[simp] theorem State.setGuy_hostRuns (s : State) (v : Guy) : (s.setGuy v).hostRuns = s.hostRuns := rfl
@[simp] theorem State.setGuy_awning (s : State) (v : Guy) : (s.setGuy v).awning = s.awning := rfl
@[simp] theorem State.setGuy_lantern (s : State) (v : Guy) : (s.setGuy v).lantern = s.lantern := rfl
@[simp] theorem State.setGuy_hif (s : State) (v : Guy) : (s.setGuy v).hif = s.hif := rfl
@[simp] theorem State.setGuy_pit (s : State) (v : Guy) : (s.setGuy v).pit = s.pit := rfl
@[simp] theorem State.setGuy_hlt (s : State) (v : Guy) : (s.setGuy v).hlt = s.hlt := rfl
@[simp] theorem State.setGuy_flash (s : State) (v : Guy) : (s.setGuy v).flash = s.flash := rfl
@[simp] theorem State.setGuy_guy (s : State) (v : Guy) : (s.setGuy v).guy = v := rfl
@[simp] theorem State.setGuy_cxp (s : State) (v : Guy) : (s.setGuy v).cxp = s.cxp := rfl
@[simp] theorem State.setGuy_cab (s : State) (v : Guy) : (s.setGuy v).cab = s.cab := rfl
@[simp] theorem State.setGuy_trl (s : State) (v : Guy) : (s.setGuy v).trl = s.trl := rfl
@[simp] theorem State.setGuy_tap (s : State) (v : Guy) : (s.setGuy v).tap = s.tap := rfl
@[simp] theorem State.setGuy_wheel (s : State) (v : Guy) : (s.setGuy v).wheel = s.wheel := rfl
@[simp] theorem State.setGuy_resp (s : State) (v : Guy) : (s.setGuy v).resp = s.resp := rfl
@[simp] theorem State.setGuy_out (s : State) (v : Guy) : (s.setGuy v).out = s.out := rfl
@[simp] theorem State.setGuy_fresh (s : State) (v : Guy) : (s.setGuy v).fresh = s.fresh := rfl
@[simp] theorem State.setCxp_pending (s : State) (v : Cxp) : (s.setCxp v).pending = s.pending := rfl
@[simp] theorem State.setCxp_clock (s : State) (v : Cxp) : (s.setCxp v).clock = s.clock := rfl
@[simp] theorem State.setCxp_tick (s : State) (v : Cxp) : (s.setCxp v).tick = s.tick := rfl
@[simp] theorem State.setCxp_regs (s : State) (v : Cxp) : (s.setCxp v).regs = s.regs := rfl
@[simp] theorem State.setCxp_mem (s : State) (v : Cxp) : (s.setCxp v).mem = s.mem := rfl
@[simp] theorem State.setCxp_ecc (s : State) (v : Cxp) : (s.setCxp v).ecc = s.ecc := rfl
@[simp] theorem State.setCxp_bufs (s : State) (v : Cxp) : (s.setCxp v).bufs = s.bufs := rfl
@[simp] theorem State.setCxp_fifos (s : State) (v : Cxp) : (s.setCxp v).fifos = s.fifos := rfl
@[simp] theorem State.setCxp_boot (s : State) (v : Cxp) : (s.setCxp v).boot = s.boot := rfl
@[simp] theorem State.setCxp_sch (s : State) (v : Cxp) : (s.setCxp v).sch = s.sch := rfl
@[simp] theorem State.setCxp_runs (s : State) (v : Cxp) : (s.setCxp v).runs = s.runs := rfl
@[simp] theorem State.setCxp_ports (s : State) (v : Cxp) : (s.setCxp v).ports = s.ports := rfl
@[simp] theorem State.setCxp_slices (s : State) (v : Cxp) : (s.setCxp v).slices = s.slices := rfl
@[simp] theorem State.setCxp_records (s : State) (v : Cxp) : (s.setCxp v).records = s.records := rfl
@[simp] theorem State.setCxp_polarity (s : State) (v : Cxp) : (s.setCxp v).polarity = s.polarity := rfl
@[simp] theorem State.setCxp_requests (s : State) (v : Cxp) : (s.setCxp v).requests = s.requests := rfl
@[simp] theorem State.setCxp_sec (s : State) (v : Cxp) : (s.setCxp v).sec = s.sec := rfl
@[simp] theorem State.setCxp_decoders (s : State) (v : Cxp) : (s.setCxp v).decoders = s.decoders := rfl
@[simp] theorem State.setCxp_hostRuns (s : State) (v : Cxp) : (s.setCxp v).hostRuns = s.hostRuns := rfl
@[simp] theorem State.setCxp_awning (s : State) (v : Cxp) : (s.setCxp v).awning = s.awning := rfl
@[simp] theorem State.setCxp_lantern (s : State) (v : Cxp) : (s.setCxp v).lantern = s.lantern := rfl
@[simp] theorem State.setCxp_hif (s : State) (v : Cxp) : (s.setCxp v).hif = s.hif := rfl
@[simp] theorem State.setCxp_pit (s : State) (v : Cxp) : (s.setCxp v).pit = s.pit := rfl
@[simp] theorem State.setCxp_hlt (s : State) (v : Cxp) : (s.setCxp v).hlt = s.hlt := rfl
@[simp] theorem State.setCxp_flash (s : State) (v : Cxp) : (s.setCxp v).flash = s.flash := rfl
@[simp] theorem State.setCxp_guy (s : State) (v : Cxp) : (s.setCxp v).guy = s.guy := rfl
@[simp] theorem State.setCxp_cxp (s : State) (v : Cxp) : (s.setCxp v).cxp = v := rfl
@[simp] theorem State.setCxp_cab (s : State) (v : Cxp) : (s.setCxp v).cab = s.cab := rfl
@[simp] theorem State.setCxp_trl (s : State) (v : Cxp) : (s.setCxp v).trl = s.trl := rfl
@[simp] theorem State.setCxp_tap (s : State) (v : Cxp) : (s.setCxp v).tap = s.tap := rfl
@[simp] theorem State.setCxp_wheel (s : State) (v : Cxp) : (s.setCxp v).wheel = s.wheel := rfl
@[simp] theorem State.setCxp_resp (s : State) (v : Cxp) : (s.setCxp v).resp = s.resp := rfl
@[simp] theorem State.setCxp_out (s : State) (v : Cxp) : (s.setCxp v).out = s.out := rfl
@[simp] theorem State.setCxp_fresh (s : State) (v : Cxp) : (s.setCxp v).fresh = s.fresh := rfl
@[simp] theorem State.setCab_pending (s : State) (v : Cab) : (s.setCab v).pending = s.pending := rfl
@[simp] theorem State.setCab_clock (s : State) (v : Cab) : (s.setCab v).clock = s.clock := rfl
@[simp] theorem State.setCab_tick (s : State) (v : Cab) : (s.setCab v).tick = s.tick := rfl
@[simp] theorem State.setCab_regs (s : State) (v : Cab) : (s.setCab v).regs = s.regs := rfl
@[simp] theorem State.setCab_mem (s : State) (v : Cab) : (s.setCab v).mem = s.mem := rfl
@[simp] theorem State.setCab_ecc (s : State) (v : Cab) : (s.setCab v).ecc = s.ecc := rfl
@[simp] theorem State.setCab_bufs (s : State) (v : Cab) : (s.setCab v).bufs = s.bufs := rfl
@[simp] theorem State.setCab_fifos (s : State) (v : Cab) : (s.setCab v).fifos = s.fifos := rfl
@[simp] theorem State.setCab_boot (s : State) (v : Cab) : (s.setCab v).boot = s.boot := rfl
@[simp] theorem State.setCab_sch (s : State) (v : Cab) : (s.setCab v).sch = s.sch := rfl
@[simp] theorem State.setCab_runs (s : State) (v : Cab) : (s.setCab v).runs = s.runs := rfl
@[simp] theorem State.setCab_ports (s : State) (v : Cab) : (s.setCab v).ports = s.ports := rfl
@[simp] theorem State.setCab_slices (s : State) (v : Cab) : (s.setCab v).slices = s.slices := rfl
@[simp] theorem State.setCab_records (s : State) (v : Cab) : (s.setCab v).records = s.records := rfl
@[simp] theorem State.setCab_polarity (s : State) (v : Cab) : (s.setCab v).polarity = s.polarity := rfl
@[simp] theorem State.setCab_requests (s : State) (v : Cab) : (s.setCab v).requests = s.requests := rfl
@[simp] theorem State.setCab_sec (s : State) (v : Cab) : (s.setCab v).sec = s.sec := rfl
@[simp] theorem State.setCab_decoders (s : State) (v : Cab) : (s.setCab v).decoders = s.decoders := rfl
@[simp] theorem State.setCab_hostRuns (s : State) (v : Cab) : (s.setCab v).hostRuns = s.hostRuns := rfl
@[simp] theorem State.setCab_awning (s : State) (v : Cab) : (s.setCab v).awning = s.awning := rfl
@[simp] theorem State.setCab_lantern (s : State) (v : Cab) : (s.setCab v).lantern = s.lantern := rfl
@[simp] theorem State.setCab_hif (s : State) (v : Cab) : (s.setCab v).hif = s.hif := rfl
@[simp] theorem State.setCab_pit (s : State) (v : Cab) : (s.setCab v).pit = s.pit := rfl
@[simp] theorem State.setCab_hlt (s : State) (v : Cab) : (s.setCab v).hlt = s.hlt := rfl
@[simp] theorem State.setCab_flash (s : State) (v : Cab) : (s.setCab v).flash = s.flash := rfl
@[simp] theorem State.setCab_guy (s : State) (v : Cab) : (s.setCab v).guy = s.guy := rfl
@[simp] theorem State.setCab_cxp (s : State) (v : Cab) : (s.setCab v).cxp = s.cxp := rfl
@[simp] theorem State.setCab_cab (s : State) (v : Cab) : (s.setCab v).cab = v := rfl
@[simp] theorem State.setCab_trl (s : State) (v : Cab) : (s.setCab v).trl = s.trl := rfl
@[simp] theorem State.setCab_tap (s : State) (v : Cab) : (s.setCab v).tap = s.tap := rfl
@[simp] theorem State.setCab_wheel (s : State) (v : Cab) : (s.setCab v).wheel = s.wheel := rfl
@[simp] theorem State.setCab_resp (s : State) (v : Cab) : (s.setCab v).resp = s.resp := rfl
@[simp] theorem State.setCab_out (s : State) (v : Cab) : (s.setCab v).out = s.out := rfl
@[simp] theorem State.setCab_fresh (s : State) (v : Cab) : (s.setCab v).fresh = s.fresh := rfl
@[simp] theorem State.setTrl_pending (s : State) (v : Trl) : (s.setTrl v).pending = s.pending := rfl
@[simp] theorem State.setTrl_clock (s : State) (v : Trl) : (s.setTrl v).clock = s.clock := rfl
@[simp] theorem State.setTrl_tick (s : State) (v : Trl) : (s.setTrl v).tick = s.tick := rfl
@[simp] theorem State.setTrl_regs (s : State) (v : Trl) : (s.setTrl v).regs = s.regs := rfl
@[simp] theorem State.setTrl_mem (s : State) (v : Trl) : (s.setTrl v).mem = s.mem := rfl
@[simp] theorem State.setTrl_ecc (s : State) (v : Trl) : (s.setTrl v).ecc = s.ecc := rfl
@[simp] theorem State.setTrl_bufs (s : State) (v : Trl) : (s.setTrl v).bufs = s.bufs := rfl
@[simp] theorem State.setTrl_fifos (s : State) (v : Trl) : (s.setTrl v).fifos = s.fifos := rfl
@[simp] theorem State.setTrl_boot (s : State) (v : Trl) : (s.setTrl v).boot = s.boot := rfl
@[simp] theorem State.setTrl_sch (s : State) (v : Trl) : (s.setTrl v).sch = s.sch := rfl
@[simp] theorem State.setTrl_runs (s : State) (v : Trl) : (s.setTrl v).runs = s.runs := rfl
@[simp] theorem State.setTrl_ports (s : State) (v : Trl) : (s.setTrl v).ports = s.ports := rfl
@[simp] theorem State.setTrl_slices (s : State) (v : Trl) : (s.setTrl v).slices = s.slices := rfl
@[simp] theorem State.setTrl_records (s : State) (v : Trl) : (s.setTrl v).records = s.records := rfl
@[simp] theorem State.setTrl_polarity (s : State) (v : Trl) : (s.setTrl v).polarity = s.polarity := rfl
@[simp] theorem State.setTrl_requests (s : State) (v : Trl) : (s.setTrl v).requests = s.requests := rfl
@[simp] theorem State.setTrl_sec (s : State) (v : Trl) : (s.setTrl v).sec = s.sec := rfl
@[simp] theorem State.setTrl_decoders (s : State) (v : Trl) : (s.setTrl v).decoders = s.decoders := rfl
@[simp] theorem State.setTrl_hostRuns (s : State) (v : Trl) : (s.setTrl v).hostRuns = s.hostRuns := rfl
@[simp] theorem State.setTrl_awning (s : State) (v : Trl) : (s.setTrl v).awning = s.awning := rfl
@[simp] theorem State.setTrl_lantern (s : State) (v : Trl) : (s.setTrl v).lantern = s.lantern := rfl
@[simp] theorem State.setTrl_hif (s : State) (v : Trl) : (s.setTrl v).hif = s.hif := rfl
@[simp] theorem State.setTrl_pit (s : State) (v : Trl) : (s.setTrl v).pit = s.pit := rfl
@[simp] theorem State.setTrl_hlt (s : State) (v : Trl) : (s.setTrl v).hlt = s.hlt := rfl
@[simp] theorem State.setTrl_flash (s : State) (v : Trl) : (s.setTrl v).flash = s.flash := rfl
@[simp] theorem State.setTrl_guy (s : State) (v : Trl) : (s.setTrl v).guy = s.guy := rfl
@[simp] theorem State.setTrl_cxp (s : State) (v : Trl) : (s.setTrl v).cxp = s.cxp := rfl
@[simp] theorem State.setTrl_cab (s : State) (v : Trl) : (s.setTrl v).cab = s.cab := rfl
@[simp] theorem State.setTrl_trl (s : State) (v : Trl) : (s.setTrl v).trl = v := rfl
@[simp] theorem State.setTrl_tap (s : State) (v : Trl) : (s.setTrl v).tap = s.tap := rfl
@[simp] theorem State.setTrl_wheel (s : State) (v : Trl) : (s.setTrl v).wheel = s.wheel := rfl
@[simp] theorem State.setTrl_resp (s : State) (v : Trl) : (s.setTrl v).resp = s.resp := rfl
@[simp] theorem State.setTrl_out (s : State) (v : Trl) : (s.setTrl v).out = s.out := rfl
@[simp] theorem State.setTrl_fresh (s : State) (v : Trl) : (s.setTrl v).fresh = s.fresh := rfl
@[simp] theorem State.setTap_pending (s : State) (v : Tap) : (s.setTap v).pending = s.pending := rfl
@[simp] theorem State.setTap_clock (s : State) (v : Tap) : (s.setTap v).clock = s.clock := rfl
@[simp] theorem State.setTap_tick (s : State) (v : Tap) : (s.setTap v).tick = s.tick := rfl
@[simp] theorem State.setTap_regs (s : State) (v : Tap) : (s.setTap v).regs = s.regs := rfl
@[simp] theorem State.setTap_mem (s : State) (v : Tap) : (s.setTap v).mem = s.mem := rfl
@[simp] theorem State.setTap_ecc (s : State) (v : Tap) : (s.setTap v).ecc = s.ecc := rfl
@[simp] theorem State.setTap_bufs (s : State) (v : Tap) : (s.setTap v).bufs = s.bufs := rfl
@[simp] theorem State.setTap_fifos (s : State) (v : Tap) : (s.setTap v).fifos = s.fifos := rfl
@[simp] theorem State.setTap_boot (s : State) (v : Tap) : (s.setTap v).boot = s.boot := rfl
@[simp] theorem State.setTap_sch (s : State) (v : Tap) : (s.setTap v).sch = s.sch := rfl
@[simp] theorem State.setTap_runs (s : State) (v : Tap) : (s.setTap v).runs = s.runs := rfl
@[simp] theorem State.setTap_ports (s : State) (v : Tap) : (s.setTap v).ports = s.ports := rfl
@[simp] theorem State.setTap_slices (s : State) (v : Tap) : (s.setTap v).slices = s.slices := rfl
@[simp] theorem State.setTap_records (s : State) (v : Tap) : (s.setTap v).records = s.records := rfl
@[simp] theorem State.setTap_polarity (s : State) (v : Tap) : (s.setTap v).polarity = s.polarity := rfl
@[simp] theorem State.setTap_requests (s : State) (v : Tap) : (s.setTap v).requests = s.requests := rfl
@[simp] theorem State.setTap_sec (s : State) (v : Tap) : (s.setTap v).sec = s.sec := rfl
@[simp] theorem State.setTap_decoders (s : State) (v : Tap) : (s.setTap v).decoders = s.decoders := rfl
@[simp] theorem State.setTap_hostRuns (s : State) (v : Tap) : (s.setTap v).hostRuns = s.hostRuns := rfl
@[simp] theorem State.setTap_awning (s : State) (v : Tap) : (s.setTap v).awning = s.awning := rfl
@[simp] theorem State.setTap_lantern (s : State) (v : Tap) : (s.setTap v).lantern = s.lantern := rfl
@[simp] theorem State.setTap_hif (s : State) (v : Tap) : (s.setTap v).hif = s.hif := rfl
@[simp] theorem State.setTap_pit (s : State) (v : Tap) : (s.setTap v).pit = s.pit := rfl
@[simp] theorem State.setTap_hlt (s : State) (v : Tap) : (s.setTap v).hlt = s.hlt := rfl
@[simp] theorem State.setTap_flash (s : State) (v : Tap) : (s.setTap v).flash = s.flash := rfl
@[simp] theorem State.setTap_guy (s : State) (v : Tap) : (s.setTap v).guy = s.guy := rfl
@[simp] theorem State.setTap_cxp (s : State) (v : Tap) : (s.setTap v).cxp = s.cxp := rfl
@[simp] theorem State.setTap_cab (s : State) (v : Tap) : (s.setTap v).cab = s.cab := rfl
@[simp] theorem State.setTap_trl (s : State) (v : Tap) : (s.setTap v).trl = s.trl := rfl
@[simp] theorem State.setTap_tap (s : State) (v : Tap) : (s.setTap v).tap = v := rfl
@[simp] theorem State.setTap_wheel (s : State) (v : Tap) : (s.setTap v).wheel = s.wheel := rfl
@[simp] theorem State.setTap_resp (s : State) (v : Tap) : (s.setTap v).resp = s.resp := rfl
@[simp] theorem State.setTap_out (s : State) (v : Tap) : (s.setTap v).out = s.out := rfl
@[simp] theorem State.setTap_fresh (s : State) (v : Tap) : (s.setTap v).fresh = s.fresh := rfl
@[simp] theorem State.setWheel_pending (s : State) (v : SMap Nat) : (s.setWheel v).pending = s.pending := rfl
@[simp] theorem State.setWheel_clock (s : State) (v : SMap Nat) : (s.setWheel v).clock = s.clock := rfl
@[simp] theorem State.setWheel_tick (s : State) (v : SMap Nat) : (s.setWheel v).tick = s.tick := rfl
@[simp] theorem State.setWheel_regs (s : State) (v : SMap Nat) : (s.setWheel v).regs = s.regs := rfl
@[simp] theorem State.setWheel_mem (s : State) (v : SMap Nat) : (s.setWheel v).mem = s.mem := rfl
@[simp] theorem State.setWheel_ecc (s : State) (v : SMap Nat) : (s.setWheel v).ecc = s.ecc := rfl
@[simp] theorem State.setWheel_bufs (s : State) (v : SMap Nat) : (s.setWheel v).bufs = s.bufs := rfl
@[simp] theorem State.setWheel_fifos (s : State) (v : SMap Nat) : (s.setWheel v).fifos = s.fifos := rfl
@[simp] theorem State.setWheel_boot (s : State) (v : SMap Nat) : (s.setWheel v).boot = s.boot := rfl
@[simp] theorem State.setWheel_sch (s : State) (v : SMap Nat) : (s.setWheel v).sch = s.sch := rfl
@[simp] theorem State.setWheel_runs (s : State) (v : SMap Nat) : (s.setWheel v).runs = s.runs := rfl
@[simp] theorem State.setWheel_ports (s : State) (v : SMap Nat) : (s.setWheel v).ports = s.ports := rfl
@[simp] theorem State.setWheel_slices (s : State) (v : SMap Nat) : (s.setWheel v).slices = s.slices := rfl
@[simp] theorem State.setWheel_records (s : State) (v : SMap Nat) : (s.setWheel v).records = s.records := rfl
@[simp] theorem State.setWheel_polarity (s : State) (v : SMap Nat) : (s.setWheel v).polarity = s.polarity := rfl
@[simp] theorem State.setWheel_requests (s : State) (v : SMap Nat) : (s.setWheel v).requests = s.requests := rfl
@[simp] theorem State.setWheel_sec (s : State) (v : SMap Nat) : (s.setWheel v).sec = s.sec := rfl
@[simp] theorem State.setWheel_decoders (s : State) (v : SMap Nat) : (s.setWheel v).decoders = s.decoders := rfl
@[simp] theorem State.setWheel_hostRuns (s : State) (v : SMap Nat) : (s.setWheel v).hostRuns = s.hostRuns := rfl
@[simp] theorem State.setWheel_awning (s : State) (v : SMap Nat) : (s.setWheel v).awning = s.awning := rfl
@[simp] theorem State.setWheel_lantern (s : State) (v : SMap Nat) : (s.setWheel v).lantern = s.lantern := rfl
@[simp] theorem State.setWheel_hif (s : State) (v : SMap Nat) : (s.setWheel v).hif = s.hif := rfl
@[simp] theorem State.setWheel_pit (s : State) (v : SMap Nat) : (s.setWheel v).pit = s.pit := rfl
@[simp] theorem State.setWheel_hlt (s : State) (v : SMap Nat) : (s.setWheel v).hlt = s.hlt := rfl
@[simp] theorem State.setWheel_flash (s : State) (v : SMap Nat) : (s.setWheel v).flash = s.flash := rfl
@[simp] theorem State.setWheel_guy (s : State) (v : SMap Nat) : (s.setWheel v).guy = s.guy := rfl
@[simp] theorem State.setWheel_cxp (s : State) (v : SMap Nat) : (s.setWheel v).cxp = s.cxp := rfl
@[simp] theorem State.setWheel_cab (s : State) (v : SMap Nat) : (s.setWheel v).cab = s.cab := rfl
@[simp] theorem State.setWheel_trl (s : State) (v : SMap Nat) : (s.setWheel v).trl = s.trl := rfl
@[simp] theorem State.setWheel_tap (s : State) (v : SMap Nat) : (s.setWheel v).tap = s.tap := rfl
@[simp] theorem State.setWheel_wheel (s : State) (v : SMap Nat) : (s.setWheel v).wheel = v := rfl
@[simp] theorem State.setWheel_resp (s : State) (v : SMap Nat) : (s.setWheel v).resp = s.resp := rfl
@[simp] theorem State.setWheel_out (s : State) (v : SMap Nat) : (s.setWheel v).out = s.out := rfl
@[simp] theorem State.setWheel_fresh (s : State) (v : SMap Nat) : (s.setWheel v).fresh = s.fresh := rfl
@[simp] theorem State.setResp_pending (s : State) (v : SMap Resp) : (s.setResp v).pending = s.pending := rfl
@[simp] theorem State.setResp_clock (s : State) (v : SMap Resp) : (s.setResp v).clock = s.clock := rfl
@[simp] theorem State.setResp_tick (s : State) (v : SMap Resp) : (s.setResp v).tick = s.tick := rfl
@[simp] theorem State.setResp_regs (s : State) (v : SMap Resp) : (s.setResp v).regs = s.regs := rfl
@[simp] theorem State.setResp_mem (s : State) (v : SMap Resp) : (s.setResp v).mem = s.mem := rfl
@[simp] theorem State.setResp_ecc (s : State) (v : SMap Resp) : (s.setResp v).ecc = s.ecc := rfl
@[simp] theorem State.setResp_bufs (s : State) (v : SMap Resp) : (s.setResp v).bufs = s.bufs := rfl
@[simp] theorem State.setResp_fifos (s : State) (v : SMap Resp) : (s.setResp v).fifos = s.fifos := rfl
@[simp] theorem State.setResp_boot (s : State) (v : SMap Resp) : (s.setResp v).boot = s.boot := rfl
@[simp] theorem State.setResp_sch (s : State) (v : SMap Resp) : (s.setResp v).sch = s.sch := rfl
@[simp] theorem State.setResp_runs (s : State) (v : SMap Resp) : (s.setResp v).runs = s.runs := rfl
@[simp] theorem State.setResp_ports (s : State) (v : SMap Resp) : (s.setResp v).ports = s.ports := rfl
@[simp] theorem State.setResp_slices (s : State) (v : SMap Resp) : (s.setResp v).slices = s.slices := rfl
@[simp] theorem State.setResp_records (s : State) (v : SMap Resp) : (s.setResp v).records = s.records := rfl
@[simp] theorem State.setResp_polarity (s : State) (v : SMap Resp) : (s.setResp v).polarity = s.polarity := rfl
@[simp] theorem State.setResp_requests (s : State) (v : SMap Resp) : (s.setResp v).requests = s.requests := rfl
@[simp] theorem State.setResp_sec (s : State) (v : SMap Resp) : (s.setResp v).sec = s.sec := rfl
@[simp] theorem State.setResp_decoders (s : State) (v : SMap Resp) : (s.setResp v).decoders = s.decoders := rfl
@[simp] theorem State.setResp_hostRuns (s : State) (v : SMap Resp) : (s.setResp v).hostRuns = s.hostRuns := rfl
@[simp] theorem State.setResp_awning (s : State) (v : SMap Resp) : (s.setResp v).awning = s.awning := rfl
@[simp] theorem State.setResp_lantern (s : State) (v : SMap Resp) : (s.setResp v).lantern = s.lantern := rfl
@[simp] theorem State.setResp_hif (s : State) (v : SMap Resp) : (s.setResp v).hif = s.hif := rfl
@[simp] theorem State.setResp_pit (s : State) (v : SMap Resp) : (s.setResp v).pit = s.pit := rfl
@[simp] theorem State.setResp_hlt (s : State) (v : SMap Resp) : (s.setResp v).hlt = s.hlt := rfl
@[simp] theorem State.setResp_flash (s : State) (v : SMap Resp) : (s.setResp v).flash = s.flash := rfl
@[simp] theorem State.setResp_guy (s : State) (v : SMap Resp) : (s.setResp v).guy = s.guy := rfl
@[simp] theorem State.setResp_cxp (s : State) (v : SMap Resp) : (s.setResp v).cxp = s.cxp := rfl
@[simp] theorem State.setResp_cab (s : State) (v : SMap Resp) : (s.setResp v).cab = s.cab := rfl
@[simp] theorem State.setResp_trl (s : State) (v : SMap Resp) : (s.setResp v).trl = s.trl := rfl
@[simp] theorem State.setResp_tap (s : State) (v : SMap Resp) : (s.setResp v).tap = s.tap := rfl
@[simp] theorem State.setResp_wheel (s : State) (v : SMap Resp) : (s.setResp v).wheel = s.wheel := rfl
@[simp] theorem State.setResp_resp (s : State) (v : SMap Resp) : (s.setResp v).resp = v := rfl
@[simp] theorem State.setResp_out (s : State) (v : SMap Resp) : (s.setResp v).out = s.out := rfl
@[simp] theorem State.setResp_fresh (s : State) (v : SMap Resp) : (s.setResp v).fresh = s.fresh := rfl
@[simp] theorem State.setOut_pending (s : State) (v : List Emission) : (s.setOut v).pending = s.pending := rfl
@[simp] theorem State.setOut_clock (s : State) (v : List Emission) : (s.setOut v).clock = s.clock := rfl
@[simp] theorem State.setOut_tick (s : State) (v : List Emission) : (s.setOut v).tick = s.tick := rfl
@[simp] theorem State.setOut_regs (s : State) (v : List Emission) : (s.setOut v).regs = s.regs := rfl
@[simp] theorem State.setOut_mem (s : State) (v : List Emission) : (s.setOut v).mem = s.mem := rfl
@[simp] theorem State.setOut_ecc (s : State) (v : List Emission) : (s.setOut v).ecc = s.ecc := rfl
@[simp] theorem State.setOut_bufs (s : State) (v : List Emission) : (s.setOut v).bufs = s.bufs := rfl
@[simp] theorem State.setOut_fifos (s : State) (v : List Emission) : (s.setOut v).fifos = s.fifos := rfl
@[simp] theorem State.setOut_boot (s : State) (v : List Emission) : (s.setOut v).boot = s.boot := rfl
@[simp] theorem State.setOut_sch (s : State) (v : List Emission) : (s.setOut v).sch = s.sch := rfl
@[simp] theorem State.setOut_runs (s : State) (v : List Emission) : (s.setOut v).runs = s.runs := rfl
@[simp] theorem State.setOut_ports (s : State) (v : List Emission) : (s.setOut v).ports = s.ports := rfl
@[simp] theorem State.setOut_slices (s : State) (v : List Emission) : (s.setOut v).slices = s.slices := rfl
@[simp] theorem State.setOut_records (s : State) (v : List Emission) : (s.setOut v).records = s.records := rfl
@[simp] theorem State.setOut_polarity (s : State) (v : List Emission) : (s.setOut v).polarity = s.polarity := rfl
@[simp] theorem State.setOut_requests (s : State) (v : List Emission) : (s.setOut v).requests = s.requests := rfl
@[simp] theorem State.setOut_sec (s : State) (v : List Emission) : (s.setOut v).sec = s.sec := rfl
@[simp] theorem State.setOut_decoders (s : State) (v : List Emission) : (s.setOut v).decoders = s.decoders := rfl
@[simp] theorem State.setOut_hostRuns (s : State) (v : List Emission) : (s.setOut v).hostRuns = s.hostRuns := rfl
@[simp] theorem State.setOut_awning (s : State) (v : List Emission) : (s.setOut v).awning = s.awning := rfl
@[simp] theorem State.setOut_lantern (s : State) (v : List Emission) : (s.setOut v).lantern = s.lantern := rfl
@[simp] theorem State.setOut_hif (s : State) (v : List Emission) : (s.setOut v).hif = s.hif := rfl
@[simp] theorem State.setOut_pit (s : State) (v : List Emission) : (s.setOut v).pit = s.pit := rfl
@[simp] theorem State.setOut_hlt (s : State) (v : List Emission) : (s.setOut v).hlt = s.hlt := rfl
@[simp] theorem State.setOut_flash (s : State) (v : List Emission) : (s.setOut v).flash = s.flash := rfl
@[simp] theorem State.setOut_guy (s : State) (v : List Emission) : (s.setOut v).guy = s.guy := rfl
@[simp] theorem State.setOut_cxp (s : State) (v : List Emission) : (s.setOut v).cxp = s.cxp := rfl
@[simp] theorem State.setOut_cab (s : State) (v : List Emission) : (s.setOut v).cab = s.cab := rfl
@[simp] theorem State.setOut_trl (s : State) (v : List Emission) : (s.setOut v).trl = s.trl := rfl
@[simp] theorem State.setOut_tap (s : State) (v : List Emission) : (s.setOut v).tap = s.tap := rfl
@[simp] theorem State.setOut_wheel (s : State) (v : List Emission) : (s.setOut v).wheel = s.wheel := rfl
@[simp] theorem State.setOut_resp (s : State) (v : List Emission) : (s.setOut v).resp = s.resp := rfl
@[simp] theorem State.setOut_out (s : State) (v : List Emission) : (s.setOut v).out = v := rfl
@[simp] theorem State.setOut_fresh (s : State) (v : List Emission) : (s.setOut v).fresh = s.fresh := rfl
@[simp] theorem State.setFresh_pending (s : State) (v : Nat) : (s.setFresh v).pending = s.pending := rfl
@[simp] theorem State.setFresh_clock (s : State) (v : Nat) : (s.setFresh v).clock = s.clock := rfl
@[simp] theorem State.setFresh_tick (s : State) (v : Nat) : (s.setFresh v).tick = s.tick := rfl
@[simp] theorem State.setFresh_regs (s : State) (v : Nat) : (s.setFresh v).regs = s.regs := rfl
@[simp] theorem State.setFresh_mem (s : State) (v : Nat) : (s.setFresh v).mem = s.mem := rfl
@[simp] theorem State.setFresh_ecc (s : State) (v : Nat) : (s.setFresh v).ecc = s.ecc := rfl
@[simp] theorem State.setFresh_bufs (s : State) (v : Nat) : (s.setFresh v).bufs = s.bufs := rfl
@[simp] theorem State.setFresh_fifos (s : State) (v : Nat) : (s.setFresh v).fifos = s.fifos := rfl
@[simp] theorem State.setFresh_boot (s : State) (v : Nat) : (s.setFresh v).boot = s.boot := rfl
@[simp] theorem State.setFresh_sch (s : State) (v : Nat) : (s.setFresh v).sch = s.sch := rfl
@[simp] theorem State.setFresh_runs (s : State) (v : Nat) : (s.setFresh v).runs = s.runs := rfl
@[simp] theorem State.setFresh_ports (s : State) (v : Nat) : (s.setFresh v).ports = s.ports := rfl
@[simp] theorem State.setFresh_slices (s : State) (v : Nat) : (s.setFresh v).slices = s.slices := rfl
@[simp] theorem State.setFresh_records (s : State) (v : Nat) : (s.setFresh v).records = s.records := rfl
@[simp] theorem State.setFresh_polarity (s : State) (v : Nat) : (s.setFresh v).polarity = s.polarity := rfl
@[simp] theorem State.setFresh_requests (s : State) (v : Nat) : (s.setFresh v).requests = s.requests := rfl
@[simp] theorem State.setFresh_sec (s : State) (v : Nat) : (s.setFresh v).sec = s.sec := rfl
@[simp] theorem State.setFresh_decoders (s : State) (v : Nat) : (s.setFresh v).decoders = s.decoders := rfl
@[simp] theorem State.setFresh_hostRuns (s : State) (v : Nat) : (s.setFresh v).hostRuns = s.hostRuns := rfl
@[simp] theorem State.setFresh_awning (s : State) (v : Nat) : (s.setFresh v).awning = s.awning := rfl
@[simp] theorem State.setFresh_lantern (s : State) (v : Nat) : (s.setFresh v).lantern = s.lantern := rfl
@[simp] theorem State.setFresh_hif (s : State) (v : Nat) : (s.setFresh v).hif = s.hif := rfl
@[simp] theorem State.setFresh_pit (s : State) (v : Nat) : (s.setFresh v).pit = s.pit := rfl
@[simp] theorem State.setFresh_hlt (s : State) (v : Nat) : (s.setFresh v).hlt = s.hlt := rfl
@[simp] theorem State.setFresh_flash (s : State) (v : Nat) : (s.setFresh v).flash = s.flash := rfl
@[simp] theorem State.setFresh_guy (s : State) (v : Nat) : (s.setFresh v).guy = s.guy := rfl
@[simp] theorem State.setFresh_cxp (s : State) (v : Nat) : (s.setFresh v).cxp = s.cxp := rfl
@[simp] theorem State.setFresh_cab (s : State) (v : Nat) : (s.setFresh v).cab = s.cab := rfl
@[simp] theorem State.setFresh_trl (s : State) (v : Nat) : (s.setFresh v).trl = s.trl := rfl
@[simp] theorem State.setFresh_tap (s : State) (v : Nat) : (s.setFresh v).tap = s.tap := rfl
@[simp] theorem State.setFresh_wheel (s : State) (v : Nat) : (s.setFresh v).wheel = s.wheel := rfl
@[simp] theorem State.setFresh_resp (s : State) (v : Nat) : (s.setFresh v).resp = s.resp := rfl
@[simp] theorem State.setFresh_out (s : State) (v : Nat) : (s.setFresh v).out = s.out := rfl
@[simp] theorem State.setFresh_fresh (s : State) (v : Nat) : (s.setFresh v).fresh = v := rfl

end Sys2Proof.Machine
end

