-- ==== Sys2Proof/Laws/RegOf.lean ====
section
/-! SUPPORT. What a write of a register leaves of the other fields of State, and what an update of another field leaves
of the registers: all by rfl, but for a one-bit field, whose write may be noted in the tick (R6). -/

namespace Sys2Proof.Machine

@[simp] theorem State.setPending_reg (s : State) (v : List Instr) (o : Nat) : (s.setPending v).reg o = s.reg o := rfl
@[simp] theorem State.setPending_fld (s : State) (v : List Instr) (o : Nat) (g : Fld) : (s.setPending v).fld o g = s.fld o g := rfl
@[simp] theorem State.setPending_bit (s : State) (v : List Instr) (o : Nat) (g : Fld) : (s.setPending v).bit o g = s.bit o g := rfl
@[simp] theorem State.setClock_reg (s : State) (v : Clock) (o : Nat) : (s.setClock v).reg o = s.reg o := rfl
@[simp] theorem State.setClock_fld (s : State) (v : Clock) (o : Nat) (g : Fld) : (s.setClock v).fld o g = s.fld o g := rfl
@[simp] theorem State.setClock_bit (s : State) (v : Clock) (o : Nat) (g : Fld) : (s.setClock v).bit o g = s.bit o g := rfl
@[simp] theorem State.setTick_reg (s : State) (v : Tick) (o : Nat) : (s.setTick v).reg o = s.reg o := rfl
@[simp] theorem State.setTick_fld (s : State) (v : Tick) (o : Nat) (g : Fld) : (s.setTick v).fld o g = s.fld o g := rfl
@[simp] theorem State.setTick_bit (s : State) (v : Tick) (o : Nat) (g : Fld) : (s.setTick v).bit o g = s.bit o g := rfl
@[simp] theorem State.setMem_reg (s : State) (v : SMap Byte) (o : Nat) : (s.setMem v).reg o = s.reg o := rfl
@[simp] theorem State.setMem_fld (s : State) (v : SMap Byte) (o : Nat) (g : Fld) : (s.setMem v).fld o g = s.fld o g := rfl
@[simp] theorem State.setMem_bit (s : State) (v : SMap Byte) (o : Nat) (g : Fld) : (s.setMem v).bit o g = s.bit o g := rfl
@[simp] theorem State.setEcc_reg (s : State) (v : SMap Word) (o : Nat) : (s.setEcc v).reg o = s.reg o := rfl
@[simp] theorem State.setEcc_fld (s : State) (v : SMap Word) (o : Nat) (g : Fld) : (s.setEcc v).fld o g = s.fld o g := rfl
@[simp] theorem State.setEcc_bit (s : State) (v : SMap Word) (o : Nat) (g : Fld) : (s.setEcc v).bit o g = s.bit o g := rfl
@[simp] theorem State.setBufs_reg (s : State) (v : SMap BufState) (o : Nat) : (s.setBufs v).reg o = s.reg o := rfl
@[simp] theorem State.setBufs_fld (s : State) (v : SMap BufState) (o : Nat) (g : Fld) : (s.setBufs v).fld o g = s.fld o g := rfl
@[simp] theorem State.setBufs_bit (s : State) (v : SMap BufState) (o : Nat) (g : Fld) : (s.setBufs v).bit o g = s.bit o g := rfl
@[simp] theorem State.setFifos_reg (s : State) (v : SMap Fifo) (o : Nat) : (s.setFifos v).reg o = s.reg o := rfl
@[simp] theorem State.setFifos_fld (s : State) (v : SMap Fifo) (o : Nat) (g : Fld) : (s.setFifos v).fld o g = s.fld o g := rfl
@[simp] theorem State.setFifos_bit (s : State) (v : SMap Fifo) (o : Nat) (g : Fld) : (s.setFifos v).bit o g = s.bit o g := rfl
@[simp] theorem State.setBoot_reg (s : State) (v : Boot) (o : Nat) : (s.setBoot v).reg o = s.reg o := rfl
@[simp] theorem State.setBoot_fld (s : State) (v : Boot) (o : Nat) (g : Fld) : (s.setBoot v).fld o g = s.fld o g := rfl
@[simp] theorem State.setBoot_bit (s : State) (v : Boot) (o : Nat) (g : Fld) : (s.setBoot v).bit o g = s.bit o g := rfl
@[simp] theorem State.setSch_reg (s : State) (v : Sch) (o : Nat) : (s.setSch v).reg o = s.reg o := rfl
@[simp] theorem State.setSch_fld (s : State) (v : Sch) (o : Nat) (g : Fld) : (s.setSch v).fld o g = s.fld o g := rfl
@[simp] theorem State.setSch_bit (s : State) (v : Sch) (o : Nat) (g : Fld) : (s.setSch v).bit o g = s.bit o g := rfl
@[simp] theorem State.setRuns_reg (s : State) (v : List Run) (o : Nat) : (s.setRuns v).reg o = s.reg o := rfl
@[simp] theorem State.setRuns_fld (s : State) (v : List Run) (o : Nat) (g : Fld) : (s.setRuns v).fld o g = s.fld o g := rfl
@[simp] theorem State.setRuns_bit (s : State) (v : List Run) (o : Nat) (g : Fld) : (s.setRuns v).bit o g = s.bit o g := rfl
@[simp] theorem State.setPorts_reg (s : State) (v : SMap Port) (o : Nat) : (s.setPorts v).reg o = s.reg o := rfl
@[simp] theorem State.setPorts_fld (s : State) (v : SMap Port) (o : Nat) (g : Fld) : (s.setPorts v).fld o g = s.fld o g := rfl
@[simp] theorem State.setPorts_bit (s : State) (v : SMap Port) (o : Nat) (g : Fld) : (s.setPorts v).bit o g = s.bit o g := rfl
@[simp] theorem State.setSlices_reg (s : State) (v : SMap Slice) (o : Nat) : (s.setSlices v).reg o = s.reg o := rfl
@[simp] theorem State.setSlices_fld (s : State) (v : SMap Slice) (o : Nat) (g : Fld) : (s.setSlices v).fld o g = s.fld o g := rfl
@[simp] theorem State.setSlices_bit (s : State) (v : SMap Slice) (o : Nat) (g : Fld) : (s.setSlices v).bit o g = s.bit o g := rfl
@[simp] theorem State.setRecords_reg (s : State) (v : List SaveRecord) (o : Nat) : (s.setRecords v).reg o = s.reg o := rfl
@[simp] theorem State.setRecords_fld (s : State) (v : List SaveRecord) (o : Nat) (g : Fld) : (s.setRecords v).fld o g = s.fld o g := rfl
@[simp] theorem State.setRecords_bit (s : State) (v : List SaveRecord) (o : Nat) (g : Fld) : (s.setRecords v).bit o g = s.bit o g := rfl
@[simp] theorem State.setPolarity_reg (s : State) (v : List (Nat × Nat × Nat)) (o : Nat) : (s.setPolarity v).reg o = s.reg o := rfl
@[simp] theorem State.setPolarity_fld (s : State) (v : List (Nat × Nat × Nat)) (o : Nat) (g : Fld) : (s.setPolarity v).fld o g = s.fld o g := rfl
@[simp] theorem State.setPolarity_bit (s : State) (v : List (Nat × Nat × Nat)) (o : Nat) (g : Fld) : (s.setPolarity v).bit o g = s.bit o g := rfl
@[simp] theorem State.setRequests_reg (s : State) (v : List Request) (o : Nat) : (s.setRequests v).reg o = s.reg o := rfl
@[simp] theorem State.setRequests_fld (s : State) (v : List Request) (o : Nat) (g : Fld) : (s.setRequests v).fld o g = s.fld o g := rfl
@[simp] theorem State.setRequests_bit (s : State) (v : List Request) (o : Nat) (g : Fld) : (s.setRequests v).bit o g = s.bit o g := rfl
@[simp] theorem State.setSec_reg (s : State) (v : Sec) (o : Nat) : (s.setSec v).reg o = s.reg o := rfl
@[simp] theorem State.setSec_fld (s : State) (v : Sec) (o : Nat) (g : Fld) : (s.setSec v).fld o g = s.fld o g := rfl
@[simp] theorem State.setSec_bit (s : State) (v : Sec) (o : Nat) (g : Fld) : (s.setSec v).bit o g = s.bit o g := rfl
@[simp] theorem State.setDecoders_reg (s : State) (v : SMap Decoder) (o : Nat) : (s.setDecoders v).reg o = s.reg o := rfl
@[simp] theorem State.setDecoders_fld (s : State) (v : SMap Decoder) (o : Nat) (g : Fld) : (s.setDecoders v).fld o g = s.fld o g := rfl
@[simp] theorem State.setDecoders_bit (s : State) (v : SMap Decoder) (o : Nat) (g : Fld) : (s.setDecoders v).bit o g = s.bit o g := rfl
@[simp] theorem State.setHostRuns_reg (s : State) (v : SMap HostRun) (o : Nat) : (s.setHostRuns v).reg o = s.reg o := rfl
@[simp] theorem State.setHostRuns_fld (s : State) (v : SMap HostRun) (o : Nat) (g : Fld) : (s.setHostRuns v).fld o g = s.fld o g := rfl
@[simp] theorem State.setHostRuns_bit (s : State) (v : SMap HostRun) (o : Nat) (g : Fld) : (s.setHostRuns v).bit o g = s.bit o g := rfl
@[simp] theorem State.setAwning_reg (s : State) (v : SMap Awning) (o : Nat) : (s.setAwning v).reg o = s.reg o := rfl
@[simp] theorem State.setAwning_fld (s : State) (v : SMap Awning) (o : Nat) (g : Fld) : (s.setAwning v).fld o g = s.fld o g := rfl
@[simp] theorem State.setAwning_bit (s : State) (v : SMap Awning) (o : Nat) (g : Fld) : (s.setAwning v).bit o g = s.bit o g := rfl
@[simp] theorem State.setLantern_reg (s : State) (v : Lantern) (o : Nat) : (s.setLantern v).reg o = s.reg o := rfl
@[simp] theorem State.setLantern_fld (s : State) (v : Lantern) (o : Nat) (g : Fld) : (s.setLantern v).fld o g = s.fld o g := rfl
@[simp] theorem State.setLantern_bit (s : State) (v : Lantern) (o : Nat) (g : Fld) : (s.setLantern v).bit o g = s.bit o g := rfl
@[simp] theorem State.setHif_reg (s : State) (v : Hif) (o : Nat) : (s.setHif v).reg o = s.reg o := rfl
@[simp] theorem State.setHif_fld (s : State) (v : Hif) (o : Nat) (g : Fld) : (s.setHif v).fld o g = s.fld o g := rfl
@[simp] theorem State.setHif_bit (s : State) (v : Hif) (o : Nat) (g : Fld) : (s.setHif v).bit o g = s.bit o g := rfl
@[simp] theorem State.setPit_reg (s : State) (v : Pit) (o : Nat) : (s.setPit v).reg o = s.reg o := rfl
@[simp] theorem State.setPit_fld (s : State) (v : Pit) (o : Nat) (g : Fld) : (s.setPit v).fld o g = s.fld o g := rfl
@[simp] theorem State.setPit_bit (s : State) (v : Pit) (o : Nat) (g : Fld) : (s.setPit v).bit o g = s.bit o g := rfl
@[simp] theorem State.setHlt_reg (s : State) (v : Hlt) (o : Nat) : (s.setHlt v).reg o = s.reg o := rfl
@[simp] theorem State.setHlt_fld (s : State) (v : Hlt) (o : Nat) (g : Fld) : (s.setHlt v).fld o g = s.fld o g := rfl
@[simp] theorem State.setHlt_bit (s : State) (v : Hlt) (o : Nat) (g : Fld) : (s.setHlt v).bit o g = s.bit o g := rfl
@[simp] theorem State.setFlash_reg (s : State) (v : SMap Byte) (o : Nat) : (s.setFlash v).reg o = s.reg o := rfl
@[simp] theorem State.setFlash_fld (s : State) (v : SMap Byte) (o : Nat) (g : Fld) : (s.setFlash v).fld o g = s.fld o g := rfl
@[simp] theorem State.setFlash_bit (s : State) (v : SMap Byte) (o : Nat) (g : Fld) : (s.setFlash v).bit o g = s.bit o g := rfl
@[simp] theorem State.setGuy_reg (s : State) (v : Guy) (o : Nat) : (s.setGuy v).reg o = s.reg o := rfl
@[simp] theorem State.setGuy_fld (s : State) (v : Guy) (o : Nat) (g : Fld) : (s.setGuy v).fld o g = s.fld o g := rfl
@[simp] theorem State.setGuy_bit (s : State) (v : Guy) (o : Nat) (g : Fld) : (s.setGuy v).bit o g = s.bit o g := rfl
@[simp] theorem State.setCxp_reg (s : State) (v : Cxp) (o : Nat) : (s.setCxp v).reg o = s.reg o := rfl
@[simp] theorem State.setCxp_fld (s : State) (v : Cxp) (o : Nat) (g : Fld) : (s.setCxp v).fld o g = s.fld o g := rfl
@[simp] theorem State.setCxp_bit (s : State) (v : Cxp) (o : Nat) (g : Fld) : (s.setCxp v).bit o g = s.bit o g := rfl
@[simp] theorem State.setCab_reg (s : State) (v : Cab) (o : Nat) : (s.setCab v).reg o = s.reg o := rfl
@[simp] theorem State.setCab_fld (s : State) (v : Cab) (o : Nat) (g : Fld) : (s.setCab v).fld o g = s.fld o g := rfl
@[simp] theorem State.setCab_bit (s : State) (v : Cab) (o : Nat) (g : Fld) : (s.setCab v).bit o g = s.bit o g := rfl
@[simp] theorem State.setTrl_reg (s : State) (v : Trl) (o : Nat) : (s.setTrl v).reg o = s.reg o := rfl
@[simp] theorem State.setTrl_fld (s : State) (v : Trl) (o : Nat) (g : Fld) : (s.setTrl v).fld o g = s.fld o g := rfl
@[simp] theorem State.setTrl_bit (s : State) (v : Trl) (o : Nat) (g : Fld) : (s.setTrl v).bit o g = s.bit o g := rfl
@[simp] theorem State.setTap_reg (s : State) (v : Tap) (o : Nat) : (s.setTap v).reg o = s.reg o := rfl
@[simp] theorem State.setTap_fld (s : State) (v : Tap) (o : Nat) (g : Fld) : (s.setTap v).fld o g = s.fld o g := rfl
@[simp] theorem State.setTap_bit (s : State) (v : Tap) (o : Nat) (g : Fld) : (s.setTap v).bit o g = s.bit o g := rfl
@[simp] theorem State.setWheel_reg (s : State) (v : SMap Nat) (o : Nat) : (s.setWheel v).reg o = s.reg o := rfl
@[simp] theorem State.setWheel_fld (s : State) (v : SMap Nat) (o : Nat) (g : Fld) : (s.setWheel v).fld o g = s.fld o g := rfl
@[simp] theorem State.setWheel_bit (s : State) (v : SMap Nat) (o : Nat) (g : Fld) : (s.setWheel v).bit o g = s.bit o g := rfl
@[simp] theorem State.setResp_reg (s : State) (v : SMap Resp) (o : Nat) : (s.setResp v).reg o = s.reg o := rfl
@[simp] theorem State.setResp_fld (s : State) (v : SMap Resp) (o : Nat) (g : Fld) : (s.setResp v).fld o g = s.fld o g := rfl
@[simp] theorem State.setResp_bit (s : State) (v : SMap Resp) (o : Nat) (g : Fld) : (s.setResp v).bit o g = s.bit o g := rfl
@[simp] theorem State.setOut_reg (s : State) (v : List Emission) (o : Nat) : (s.setOut v).reg o = s.reg o := rfl
@[simp] theorem State.setOut_fld (s : State) (v : List Emission) (o : Nat) (g : Fld) : (s.setOut v).fld o g = s.fld o g := rfl
@[simp] theorem State.setOut_bit (s : State) (v : List Emission) (o : Nat) (g : Fld) : (s.setOut v).bit o g = s.bit o g := rfl
@[simp] theorem State.setFresh_reg (s : State) (v : Nat) (o : Nat) : (s.setFresh v).reg o = s.reg o := rfl
@[simp] theorem State.setFresh_fld (s : State) (v : Nat) (o : Nat) (g : Fld) : (s.setFresh v).fld o g = s.fld o g := rfl
@[simp] theorem State.setFresh_bit (s : State) (v : Nat) (o : Nat) (g : Fld) : (s.setFresh v).bit o g = s.bit o g := rfl
@[simp] theorem State.setReg_pending (s : State) (o : Nat) (v : Word) : (s.setReg o v).pending = s.pending := rfl
@[simp] theorem State.setReg_clock (s : State) (o : Nat) (v : Word) : (s.setReg o v).clock = s.clock := rfl
@[simp] theorem State.setReg_tick (s : State) (o : Nat) (v : Word) : (s.setReg o v).tick = s.tick := rfl
@[simp] theorem State.setReg_mem (s : State) (o : Nat) (v : Word) : (s.setReg o v).mem = s.mem := rfl
@[simp] theorem State.setReg_ecc (s : State) (o : Nat) (v : Word) : (s.setReg o v).ecc = s.ecc := rfl
@[simp] theorem State.setReg_bufs (s : State) (o : Nat) (v : Word) : (s.setReg o v).bufs = s.bufs := rfl
@[simp] theorem State.setReg_fifos (s : State) (o : Nat) (v : Word) : (s.setReg o v).fifos = s.fifos := rfl
@[simp] theorem State.setReg_boot (s : State) (o : Nat) (v : Word) : (s.setReg o v).boot = s.boot := rfl
@[simp] theorem State.setReg_sch (s : State) (o : Nat) (v : Word) : (s.setReg o v).sch = s.sch := rfl
@[simp] theorem State.setReg_runs (s : State) (o : Nat) (v : Word) : (s.setReg o v).runs = s.runs := rfl
@[simp] theorem State.setReg_ports (s : State) (o : Nat) (v : Word) : (s.setReg o v).ports = s.ports := rfl
@[simp] theorem State.setReg_slices (s : State) (o : Nat) (v : Word) : (s.setReg o v).slices = s.slices := rfl
@[simp] theorem State.setReg_records (s : State) (o : Nat) (v : Word) : (s.setReg o v).records = s.records := rfl
@[simp] theorem State.setReg_polarity (s : State) (o : Nat) (v : Word) : (s.setReg o v).polarity = s.polarity := rfl
@[simp] theorem State.setReg_requests (s : State) (o : Nat) (v : Word) : (s.setReg o v).requests = s.requests := rfl
@[simp] theorem State.setReg_sec (s : State) (o : Nat) (v : Word) : (s.setReg o v).sec = s.sec := rfl
@[simp] theorem State.setReg_decoders (s : State) (o : Nat) (v : Word) : (s.setReg o v).decoders = s.decoders := rfl
@[simp] theorem State.setReg_hostRuns (s : State) (o : Nat) (v : Word) : (s.setReg o v).hostRuns = s.hostRuns := rfl
@[simp] theorem State.setReg_awning (s : State) (o : Nat) (v : Word) : (s.setReg o v).awning = s.awning := rfl
@[simp] theorem State.setReg_lantern (s : State) (o : Nat) (v : Word) : (s.setReg o v).lantern = s.lantern := rfl
@[simp] theorem State.setReg_hif (s : State) (o : Nat) (v : Word) : (s.setReg o v).hif = s.hif := rfl
@[simp] theorem State.setReg_pit (s : State) (o : Nat) (v : Word) : (s.setReg o v).pit = s.pit := rfl
@[simp] theorem State.setReg_hlt (s : State) (o : Nat) (v : Word) : (s.setReg o v).hlt = s.hlt := rfl
@[simp] theorem State.setReg_flash (s : State) (o : Nat) (v : Word) : (s.setReg o v).flash = s.flash := rfl
@[simp] theorem State.setReg_guy (s : State) (o : Nat) (v : Word) : (s.setReg o v).guy = s.guy := rfl
@[simp] theorem State.setReg_cxp (s : State) (o : Nat) (v : Word) : (s.setReg o v).cxp = s.cxp := rfl
@[simp] theorem State.setReg_cab (s : State) (o : Nat) (v : Word) : (s.setReg o v).cab = s.cab := rfl
@[simp] theorem State.setReg_trl (s : State) (o : Nat) (v : Word) : (s.setReg o v).trl = s.trl := rfl
@[simp] theorem State.setReg_tap (s : State) (o : Nat) (v : Word) : (s.setReg o v).tap = s.tap := rfl
@[simp] theorem State.setReg_wheel (s : State) (o : Nat) (v : Word) : (s.setReg o v).wheel = s.wheel := rfl
@[simp] theorem State.setReg_resp (s : State) (o : Nat) (v : Word) : (s.setReg o v).resp = s.resp := rfl
@[simp] theorem State.setReg_out (s : State) (o : Nat) (v : Word) : (s.setReg o v).out = s.out := rfl
@[simp] theorem State.setReg_fresh (s : State) (o : Nat) (v : Word) : (s.setReg o v).fresh = s.fresh := rfl
@[simp] theorem State.setFld_pending (s : State) (o : Nat) (g : Fld) (v : Nat) : (s.setFld o g v).pending = s.pending := rfl
@[simp] theorem State.setFld_clock (s : State) (o : Nat) (g : Fld) (v : Nat) : (s.setFld o g v).clock = s.clock := rfl
@[simp] theorem State.setFld_tick (s : State) (o : Nat) (g : Fld) (v : Nat) : (s.setFld o g v).tick = s.tick := rfl
@[simp] theorem State.setFld_mem (s : State) (o : Nat) (g : Fld) (v : Nat) : (s.setFld o g v).mem = s.mem := rfl
@[simp] theorem State.setFld_ecc (s : State) (o : Nat) (g : Fld) (v : Nat) : (s.setFld o g v).ecc = s.ecc := rfl
@[simp] theorem State.setFld_bufs (s : State) (o : Nat) (g : Fld) (v : Nat) : (s.setFld o g v).bufs = s.bufs := rfl
@[simp] theorem State.setFld_fifos (s : State) (o : Nat) (g : Fld) (v : Nat) : (s.setFld o g v).fifos = s.fifos := rfl
@[simp] theorem State.setFld_boot (s : State) (o : Nat) (g : Fld) (v : Nat) : (s.setFld o g v).boot = s.boot := rfl
@[simp] theorem State.setFld_sch (s : State) (o : Nat) (g : Fld) (v : Nat) : (s.setFld o g v).sch = s.sch := rfl
@[simp] theorem State.setFld_runs (s : State) (o : Nat) (g : Fld) (v : Nat) : (s.setFld o g v).runs = s.runs := rfl
@[simp] theorem State.setFld_ports (s : State) (o : Nat) (g : Fld) (v : Nat) : (s.setFld o g v).ports = s.ports := rfl
@[simp] theorem State.setFld_slices (s : State) (o : Nat) (g : Fld) (v : Nat) : (s.setFld o g v).slices = s.slices := rfl
@[simp] theorem State.setFld_records (s : State) (o : Nat) (g : Fld) (v : Nat) : (s.setFld o g v).records = s.records := rfl
@[simp] theorem State.setFld_polarity (s : State) (o : Nat) (g : Fld) (v : Nat) : (s.setFld o g v).polarity = s.polarity := rfl
@[simp] theorem State.setFld_requests (s : State) (o : Nat) (g : Fld) (v : Nat) : (s.setFld o g v).requests = s.requests := rfl
@[simp] theorem State.setFld_sec (s : State) (o : Nat) (g : Fld) (v : Nat) : (s.setFld o g v).sec = s.sec := rfl
@[simp] theorem State.setFld_decoders (s : State) (o : Nat) (g : Fld) (v : Nat) : (s.setFld o g v).decoders = s.decoders := rfl
@[simp] theorem State.setFld_hostRuns (s : State) (o : Nat) (g : Fld) (v : Nat) : (s.setFld o g v).hostRuns = s.hostRuns := rfl
@[simp] theorem State.setFld_awning (s : State) (o : Nat) (g : Fld) (v : Nat) : (s.setFld o g v).awning = s.awning := rfl
@[simp] theorem State.setFld_lantern (s : State) (o : Nat) (g : Fld) (v : Nat) : (s.setFld o g v).lantern = s.lantern := rfl
@[simp] theorem State.setFld_hif (s : State) (o : Nat) (g : Fld) (v : Nat) : (s.setFld o g v).hif = s.hif := rfl
@[simp] theorem State.setFld_pit (s : State) (o : Nat) (g : Fld) (v : Nat) : (s.setFld o g v).pit = s.pit := rfl
@[simp] theorem State.setFld_hlt (s : State) (o : Nat) (g : Fld) (v : Nat) : (s.setFld o g v).hlt = s.hlt := rfl
@[simp] theorem State.setFld_flash (s : State) (o : Nat) (g : Fld) (v : Nat) : (s.setFld o g v).flash = s.flash := rfl
@[simp] theorem State.setFld_guy (s : State) (o : Nat) (g : Fld) (v : Nat) : (s.setFld o g v).guy = s.guy := rfl
@[simp] theorem State.setFld_cxp (s : State) (o : Nat) (g : Fld) (v : Nat) : (s.setFld o g v).cxp = s.cxp := rfl
@[simp] theorem State.setFld_cab (s : State) (o : Nat) (g : Fld) (v : Nat) : (s.setFld o g v).cab = s.cab := rfl
@[simp] theorem State.setFld_trl (s : State) (o : Nat) (g : Fld) (v : Nat) : (s.setFld o g v).trl = s.trl := rfl
@[simp] theorem State.setFld_tap (s : State) (o : Nat) (g : Fld) (v : Nat) : (s.setFld o g v).tap = s.tap := rfl
@[simp] theorem State.setFld_wheel (s : State) (o : Nat) (g : Fld) (v : Nat) : (s.setFld o g v).wheel = s.wheel := rfl
@[simp] theorem State.setFld_resp (s : State) (o : Nat) (g : Fld) (v : Nat) : (s.setFld o g v).resp = s.resp := rfl
@[simp] theorem State.setFld_out (s : State) (o : Nat) (g : Fld) (v : Nat) : (s.setFld o g v).out = s.out := rfl
@[simp] theorem State.setFld_fresh (s : State) (o : Nat) (g : Fld) (v : Nat) : (s.setFld o g v).fresh = s.fresh := rfl
@[simp] theorem State.bump_pending (s : State) (o : Nat) (g : Fld) : (s.bump o g).pending = s.pending := rfl
@[simp] theorem State.bump_clock (s : State) (o : Nat) (g : Fld) : (s.bump o g).clock = s.clock := rfl
@[simp] theorem State.bump_tick (s : State) (o : Nat) (g : Fld) : (s.bump o g).tick = s.tick := rfl
@[simp] theorem State.bump_mem (s : State) (o : Nat) (g : Fld) : (s.bump o g).mem = s.mem := rfl
@[simp] theorem State.bump_ecc (s : State) (o : Nat) (g : Fld) : (s.bump o g).ecc = s.ecc := rfl
@[simp] theorem State.bump_bufs (s : State) (o : Nat) (g : Fld) : (s.bump o g).bufs = s.bufs := rfl
@[simp] theorem State.bump_fifos (s : State) (o : Nat) (g : Fld) : (s.bump o g).fifos = s.fifos := rfl
@[simp] theorem State.bump_boot (s : State) (o : Nat) (g : Fld) : (s.bump o g).boot = s.boot := rfl
@[simp] theorem State.bump_sch (s : State) (o : Nat) (g : Fld) : (s.bump o g).sch = s.sch := rfl
@[simp] theorem State.bump_runs (s : State) (o : Nat) (g : Fld) : (s.bump o g).runs = s.runs := rfl
@[simp] theorem State.bump_ports (s : State) (o : Nat) (g : Fld) : (s.bump o g).ports = s.ports := rfl
@[simp] theorem State.bump_slices (s : State) (o : Nat) (g : Fld) : (s.bump o g).slices = s.slices := rfl
@[simp] theorem State.bump_records (s : State) (o : Nat) (g : Fld) : (s.bump o g).records = s.records := rfl
@[simp] theorem State.bump_polarity (s : State) (o : Nat) (g : Fld) : (s.bump o g).polarity = s.polarity := rfl
@[simp] theorem State.bump_requests (s : State) (o : Nat) (g : Fld) : (s.bump o g).requests = s.requests := rfl
@[simp] theorem State.bump_sec (s : State) (o : Nat) (g : Fld) : (s.bump o g).sec = s.sec := rfl
@[simp] theorem State.bump_decoders (s : State) (o : Nat) (g : Fld) : (s.bump o g).decoders = s.decoders := rfl
@[simp] theorem State.bump_hostRuns (s : State) (o : Nat) (g : Fld) : (s.bump o g).hostRuns = s.hostRuns := rfl
@[simp] theorem State.bump_awning (s : State) (o : Nat) (g : Fld) : (s.bump o g).awning = s.awning := rfl
@[simp] theorem State.bump_lantern (s : State) (o : Nat) (g : Fld) : (s.bump o g).lantern = s.lantern := rfl
@[simp] theorem State.bump_hif (s : State) (o : Nat) (g : Fld) : (s.bump o g).hif = s.hif := rfl
@[simp] theorem State.bump_pit (s : State) (o : Nat) (g : Fld) : (s.bump o g).pit = s.pit := rfl
@[simp] theorem State.bump_hlt (s : State) (o : Nat) (g : Fld) : (s.bump o g).hlt = s.hlt := rfl
@[simp] theorem State.bump_flash (s : State) (o : Nat) (g : Fld) : (s.bump o g).flash = s.flash := rfl
@[simp] theorem State.bump_guy (s : State) (o : Nat) (g : Fld) : (s.bump o g).guy = s.guy := rfl
@[simp] theorem State.bump_cxp (s : State) (o : Nat) (g : Fld) : (s.bump o g).cxp = s.cxp := rfl
@[simp] theorem State.bump_cab (s : State) (o : Nat) (g : Fld) : (s.bump o g).cab = s.cab := rfl
@[simp] theorem State.bump_trl (s : State) (o : Nat) (g : Fld) : (s.bump o g).trl = s.trl := rfl
@[simp] theorem State.bump_tap (s : State) (o : Nat) (g : Fld) : (s.bump o g).tap = s.tap := rfl
@[simp] theorem State.bump_wheel (s : State) (o : Nat) (g : Fld) : (s.bump o g).wheel = s.wheel := rfl
@[simp] theorem State.bump_resp (s : State) (o : Nat) (g : Fld) : (s.bump o g).resp = s.resp := rfl
@[simp] theorem State.bump_out (s : State) (o : Nat) (g : Fld) : (s.bump o g).out = s.out := rfl
@[simp] theorem State.bump_fresh (s : State) (o : Nat) (g : Fld) : (s.bump o g).fresh = s.fresh := rfl
@[simp] theorem State.bumpSat_pending (s : State) (o : Nat) (g : Fld) (n : Nat) : (s.bumpSat o g n).pending = s.pending := rfl
@[simp] theorem State.bumpSat_clock (s : State) (o : Nat) (g : Fld) (n : Nat) : (s.bumpSat o g n).clock = s.clock := rfl
@[simp] theorem State.bumpSat_tick (s : State) (o : Nat) (g : Fld) (n : Nat) : (s.bumpSat o g n).tick = s.tick := rfl
@[simp] theorem State.bumpSat_mem (s : State) (o : Nat) (g : Fld) (n : Nat) : (s.bumpSat o g n).mem = s.mem := rfl
@[simp] theorem State.bumpSat_ecc (s : State) (o : Nat) (g : Fld) (n : Nat) : (s.bumpSat o g n).ecc = s.ecc := rfl
@[simp] theorem State.bumpSat_bufs (s : State) (o : Nat) (g : Fld) (n : Nat) : (s.bumpSat o g n).bufs = s.bufs := rfl
@[simp] theorem State.bumpSat_fifos (s : State) (o : Nat) (g : Fld) (n : Nat) : (s.bumpSat o g n).fifos = s.fifos := rfl
@[simp] theorem State.bumpSat_boot (s : State) (o : Nat) (g : Fld) (n : Nat) : (s.bumpSat o g n).boot = s.boot := rfl
@[simp] theorem State.bumpSat_sch (s : State) (o : Nat) (g : Fld) (n : Nat) : (s.bumpSat o g n).sch = s.sch := rfl
@[simp] theorem State.bumpSat_runs (s : State) (o : Nat) (g : Fld) (n : Nat) : (s.bumpSat o g n).runs = s.runs := rfl
@[simp] theorem State.bumpSat_ports (s : State) (o : Nat) (g : Fld) (n : Nat) : (s.bumpSat o g n).ports = s.ports := rfl
@[simp] theorem State.bumpSat_slices (s : State) (o : Nat) (g : Fld) (n : Nat) : (s.bumpSat o g n).slices = s.slices := rfl
@[simp] theorem State.bumpSat_records (s : State) (o : Nat) (g : Fld) (n : Nat) : (s.bumpSat o g n).records = s.records := rfl
@[simp] theorem State.bumpSat_polarity (s : State) (o : Nat) (g : Fld) (n : Nat) : (s.bumpSat o g n).polarity = s.polarity := rfl
@[simp] theorem State.bumpSat_requests (s : State) (o : Nat) (g : Fld) (n : Nat) : (s.bumpSat o g n).requests = s.requests := rfl
@[simp] theorem State.bumpSat_sec (s : State) (o : Nat) (g : Fld) (n : Nat) : (s.bumpSat o g n).sec = s.sec := rfl
@[simp] theorem State.bumpSat_decoders (s : State) (o : Nat) (g : Fld) (n : Nat) : (s.bumpSat o g n).decoders = s.decoders := rfl
@[simp] theorem State.bumpSat_hostRuns (s : State) (o : Nat) (g : Fld) (n : Nat) : (s.bumpSat o g n).hostRuns = s.hostRuns := rfl
@[simp] theorem State.bumpSat_awning (s : State) (o : Nat) (g : Fld) (n : Nat) : (s.bumpSat o g n).awning = s.awning := rfl
@[simp] theorem State.bumpSat_lantern (s : State) (o : Nat) (g : Fld) (n : Nat) : (s.bumpSat o g n).lantern = s.lantern := rfl
@[simp] theorem State.bumpSat_hif (s : State) (o : Nat) (g : Fld) (n : Nat) : (s.bumpSat o g n).hif = s.hif := rfl
@[simp] theorem State.bumpSat_pit (s : State) (o : Nat) (g : Fld) (n : Nat) : (s.bumpSat o g n).pit = s.pit := rfl
@[simp] theorem State.bumpSat_hlt (s : State) (o : Nat) (g : Fld) (n : Nat) : (s.bumpSat o g n).hlt = s.hlt := rfl
@[simp] theorem State.bumpSat_flash (s : State) (o : Nat) (g : Fld) (n : Nat) : (s.bumpSat o g n).flash = s.flash := rfl
@[simp] theorem State.bumpSat_guy (s : State) (o : Nat) (g : Fld) (n : Nat) : (s.bumpSat o g n).guy = s.guy := rfl
@[simp] theorem State.bumpSat_cxp (s : State) (o : Nat) (g : Fld) (n : Nat) : (s.bumpSat o g n).cxp = s.cxp := rfl
@[simp] theorem State.bumpSat_cab (s : State) (o : Nat) (g : Fld) (n : Nat) : (s.bumpSat o g n).cab = s.cab := rfl
@[simp] theorem State.bumpSat_trl (s : State) (o : Nat) (g : Fld) (n : Nat) : (s.bumpSat o g n).trl = s.trl := rfl
@[simp] theorem State.bumpSat_tap (s : State) (o : Nat) (g : Fld) (n : Nat) : (s.bumpSat o g n).tap = s.tap := rfl
@[simp] theorem State.bumpSat_wheel (s : State) (o : Nat) (g : Fld) (n : Nat) : (s.bumpSat o g n).wheel = s.wheel := rfl
@[simp] theorem State.bumpSat_resp (s : State) (o : Nat) (g : Fld) (n : Nat) : (s.bumpSat o g n).resp = s.resp := rfl
@[simp] theorem State.bumpSat_out (s : State) (o : Nat) (g : Fld) (n : Nat) : (s.bumpSat o g n).out = s.out := rfl
@[simp] theorem State.bumpSat_fresh (s : State) (o : Nat) (g : Fld) (n : Nat) : (s.bumpSat o g n).fresh = s.fresh := rfl

@[simp] theorem State.noteRaised_reg (s : State) (o : Nat) (g : Fld) (b : Bool) (q : Nat) : (s.noteRaised o g b).reg q = s.reg q := by cases b <;> rfl
@[simp] theorem State.noteRaised_fld (s : State) (o : Nat) (g : Fld) (b : Bool) (q : Nat) (k : Fld) : (s.noteRaised o g b).fld q k = s.fld q k := by cases b <;> rfl
@[simp] theorem State.noteRaised_bit (s : State) (o : Nat) (g : Fld) (b : Bool) (q : Nat) (k : Fld) : (s.noteRaised o g b).bit q k = s.bit q k := by cases b <;> rfl
/-- A bit that is set is noted in the tick; nothing else is touched by the note. -/
@[simp] theorem State.noteRaised_pending (s : State) (o : Nat) (g : Fld) (b : Bool) : (s.noteRaised o g b).pending = s.pending := by cases b <;> rfl
@[simp] theorem State.noteRaised_clock (s : State) (o : Nat) (g : Fld) (b : Bool) : (s.noteRaised o g b).clock = s.clock := by cases b <;> rfl
@[simp] theorem State.noteRaised_regs (s : State) (o : Nat) (g : Fld) (b : Bool) : (s.noteRaised o g b).regs = s.regs := by cases b <;> rfl
@[simp] theorem State.noteRaised_mem (s : State) (o : Nat) (g : Fld) (b : Bool) : (s.noteRaised o g b).mem = s.mem := by cases b <;> rfl
@[simp] theorem State.noteRaised_ecc (s : State) (o : Nat) (g : Fld) (b : Bool) : (s.noteRaised o g b).ecc = s.ecc := by cases b <;> rfl
@[simp] theorem State.noteRaised_bufs (s : State) (o : Nat) (g : Fld) (b : Bool) : (s.noteRaised o g b).bufs = s.bufs := by cases b <;> rfl
@[simp] theorem State.noteRaised_fifos (s : State) (o : Nat) (g : Fld) (b : Bool) : (s.noteRaised o g b).fifos = s.fifos := by cases b <;> rfl
@[simp] theorem State.noteRaised_boot (s : State) (o : Nat) (g : Fld) (b : Bool) : (s.noteRaised o g b).boot = s.boot := by cases b <;> rfl
@[simp] theorem State.noteRaised_sch (s : State) (o : Nat) (g : Fld) (b : Bool) : (s.noteRaised o g b).sch = s.sch := by cases b <;> rfl
@[simp] theorem State.noteRaised_runs (s : State) (o : Nat) (g : Fld) (b : Bool) : (s.noteRaised o g b).runs = s.runs := by cases b <;> rfl
@[simp] theorem State.noteRaised_ports (s : State) (o : Nat) (g : Fld) (b : Bool) : (s.noteRaised o g b).ports = s.ports := by cases b <;> rfl
@[simp] theorem State.noteRaised_slices (s : State) (o : Nat) (g : Fld) (b : Bool) : (s.noteRaised o g b).slices = s.slices := by cases b <;> rfl
@[simp] theorem State.noteRaised_records (s : State) (o : Nat) (g : Fld) (b : Bool) : (s.noteRaised o g b).records = s.records := by cases b <;> rfl
@[simp] theorem State.noteRaised_polarity (s : State) (o : Nat) (g : Fld) (b : Bool) : (s.noteRaised o g b).polarity = s.polarity := by cases b <;> rfl
@[simp] theorem State.noteRaised_requests (s : State) (o : Nat) (g : Fld) (b : Bool) : (s.noteRaised o g b).requests = s.requests := by cases b <;> rfl
@[simp] theorem State.noteRaised_sec (s : State) (o : Nat) (g : Fld) (b : Bool) : (s.noteRaised o g b).sec = s.sec := by cases b <;> rfl
@[simp] theorem State.noteRaised_decoders (s : State) (o : Nat) (g : Fld) (b : Bool) : (s.noteRaised o g b).decoders = s.decoders := by cases b <;> rfl
@[simp] theorem State.noteRaised_hostRuns (s : State) (o : Nat) (g : Fld) (b : Bool) : (s.noteRaised o g b).hostRuns = s.hostRuns := by cases b <;> rfl
@[simp] theorem State.noteRaised_awning (s : State) (o : Nat) (g : Fld) (b : Bool) : (s.noteRaised o g b).awning = s.awning := by cases b <;> rfl
@[simp] theorem State.noteRaised_lantern (s : State) (o : Nat) (g : Fld) (b : Bool) : (s.noteRaised o g b).lantern = s.lantern := by cases b <;> rfl
@[simp] theorem State.noteRaised_hif (s : State) (o : Nat) (g : Fld) (b : Bool) : (s.noteRaised o g b).hif = s.hif := by cases b <;> rfl
@[simp] theorem State.noteRaised_pit (s : State) (o : Nat) (g : Fld) (b : Bool) : (s.noteRaised o g b).pit = s.pit := by cases b <;> rfl
@[simp] theorem State.noteRaised_hlt (s : State) (o : Nat) (g : Fld) (b : Bool) : (s.noteRaised o g b).hlt = s.hlt := by cases b <;> rfl
@[simp] theorem State.noteRaised_flash (s : State) (o : Nat) (g : Fld) (b : Bool) : (s.noteRaised o g b).flash = s.flash := by cases b <;> rfl
@[simp] theorem State.noteRaised_guy (s : State) (o : Nat) (g : Fld) (b : Bool) : (s.noteRaised o g b).guy = s.guy := by cases b <;> rfl
@[simp] theorem State.noteRaised_cxp (s : State) (o : Nat) (g : Fld) (b : Bool) : (s.noteRaised o g b).cxp = s.cxp := by cases b <;> rfl
@[simp] theorem State.noteRaised_cab (s : State) (o : Nat) (g : Fld) (b : Bool) : (s.noteRaised o g b).cab = s.cab := by cases b <;> rfl
@[simp] theorem State.noteRaised_trl (s : State) (o : Nat) (g : Fld) (b : Bool) : (s.noteRaised o g b).trl = s.trl := by cases b <;> rfl
@[simp] theorem State.noteRaised_tap (s : State) (o : Nat) (g : Fld) (b : Bool) : (s.noteRaised o g b).tap = s.tap := by cases b <;> rfl
@[simp] theorem State.noteRaised_wheel (s : State) (o : Nat) (g : Fld) (b : Bool) : (s.noteRaised o g b).wheel = s.wheel := by cases b <;> rfl
@[simp] theorem State.noteRaised_resp (s : State) (o : Nat) (g : Fld) (b : Bool) : (s.noteRaised o g b).resp = s.resp := by cases b <;> rfl
@[simp] theorem State.noteRaised_out (s : State) (o : Nat) (g : Fld) (b : Bool) : (s.noteRaised o g b).out = s.out := by cases b <;> rfl
@[simp] theorem State.noteRaised_fresh (s : State) (o : Nat) (g : Fld) (b : Bool) : (s.noteRaised o g b).fresh = s.fresh := by cases b <;> rfl
@[simp] theorem State.setBit_pending (s : State) (o : Nat) (g : Fld) (b : Bool) : (s.setBit o g b).pending = s.pending := by cases b <;> rfl
@[simp] theorem State.setBit_clock (s : State) (o : Nat) (g : Fld) (b : Bool) : (s.setBit o g b).clock = s.clock := by cases b <;> rfl
@[simp] theorem State.setBit_mem (s : State) (o : Nat) (g : Fld) (b : Bool) : (s.setBit o g b).mem = s.mem := by cases b <;> rfl
@[simp] theorem State.setBit_ecc (s : State) (o : Nat) (g : Fld) (b : Bool) : (s.setBit o g b).ecc = s.ecc := by cases b <;> rfl
@[simp] theorem State.setBit_bufs (s : State) (o : Nat) (g : Fld) (b : Bool) : (s.setBit o g b).bufs = s.bufs := by cases b <;> rfl
@[simp] theorem State.setBit_fifos (s : State) (o : Nat) (g : Fld) (b : Bool) : (s.setBit o g b).fifos = s.fifos := by cases b <;> rfl
@[simp] theorem State.setBit_boot (s : State) (o : Nat) (g : Fld) (b : Bool) : (s.setBit o g b).boot = s.boot := by cases b <;> rfl
@[simp] theorem State.setBit_sch (s : State) (o : Nat) (g : Fld) (b : Bool) : (s.setBit o g b).sch = s.sch := by cases b <;> rfl
@[simp] theorem State.setBit_runs (s : State) (o : Nat) (g : Fld) (b : Bool) : (s.setBit o g b).runs = s.runs := by cases b <;> rfl
@[simp] theorem State.setBit_ports (s : State) (o : Nat) (g : Fld) (b : Bool) : (s.setBit o g b).ports = s.ports := by cases b <;> rfl
@[simp] theorem State.setBit_slices (s : State) (o : Nat) (g : Fld) (b : Bool) : (s.setBit o g b).slices = s.slices := by cases b <;> rfl
@[simp] theorem State.setBit_records (s : State) (o : Nat) (g : Fld) (b : Bool) : (s.setBit o g b).records = s.records := by cases b <;> rfl
@[simp] theorem State.setBit_polarity (s : State) (o : Nat) (g : Fld) (b : Bool) : (s.setBit o g b).polarity = s.polarity := by cases b <;> rfl
@[simp] theorem State.setBit_requests (s : State) (o : Nat) (g : Fld) (b : Bool) : (s.setBit o g b).requests = s.requests := by cases b <;> rfl
@[simp] theorem State.setBit_sec (s : State) (o : Nat) (g : Fld) (b : Bool) : (s.setBit o g b).sec = s.sec := by cases b <;> rfl
@[simp] theorem State.setBit_decoders (s : State) (o : Nat) (g : Fld) (b : Bool) : (s.setBit o g b).decoders = s.decoders := by cases b <;> rfl
@[simp] theorem State.setBit_hostRuns (s : State) (o : Nat) (g : Fld) (b : Bool) : (s.setBit o g b).hostRuns = s.hostRuns := by cases b <;> rfl
@[simp] theorem State.setBit_awning (s : State) (o : Nat) (g : Fld) (b : Bool) : (s.setBit o g b).awning = s.awning := by cases b <;> rfl
@[simp] theorem State.setBit_lantern (s : State) (o : Nat) (g : Fld) (b : Bool) : (s.setBit o g b).lantern = s.lantern := by cases b <;> rfl
@[simp] theorem State.setBit_hif (s : State) (o : Nat) (g : Fld) (b : Bool) : (s.setBit o g b).hif = s.hif := by cases b <;> rfl
@[simp] theorem State.setBit_pit (s : State) (o : Nat) (g : Fld) (b : Bool) : (s.setBit o g b).pit = s.pit := by cases b <;> rfl
@[simp] theorem State.setBit_hlt (s : State) (o : Nat) (g : Fld) (b : Bool) : (s.setBit o g b).hlt = s.hlt := by cases b <;> rfl
@[simp] theorem State.setBit_flash (s : State) (o : Nat) (g : Fld) (b : Bool) : (s.setBit o g b).flash = s.flash := by cases b <;> rfl
@[simp] theorem State.setBit_guy (s : State) (o : Nat) (g : Fld) (b : Bool) : (s.setBit o g b).guy = s.guy := by cases b <;> rfl
@[simp] theorem State.setBit_cxp (s : State) (o : Nat) (g : Fld) (b : Bool) : (s.setBit o g b).cxp = s.cxp := by cases b <;> rfl
@[simp] theorem State.setBit_cab (s : State) (o : Nat) (g : Fld) (b : Bool) : (s.setBit o g b).cab = s.cab := by cases b <;> rfl
@[simp] theorem State.setBit_trl (s : State) (o : Nat) (g : Fld) (b : Bool) : (s.setBit o g b).trl = s.trl := by cases b <;> rfl
@[simp] theorem State.setBit_tap (s : State) (o : Nat) (g : Fld) (b : Bool) : (s.setBit o g b).tap = s.tap := by cases b <;> rfl
@[simp] theorem State.setBit_wheel (s : State) (o : Nat) (g : Fld) (b : Bool) : (s.setBit o g b).wheel = s.wheel := by cases b <;> rfl
@[simp] theorem State.setBit_resp (s : State) (o : Nat) (g : Fld) (b : Bool) : (s.setBit o g b).resp = s.resp := by cases b <;> rfl
@[simp] theorem State.setBit_out (s : State) (o : Nat) (g : Fld) (b : Bool) : (s.setBit o g b).out = s.out := by cases b <;> rfl
@[simp] theorem State.setBit_fresh (s : State) (o : Nat) (g : Fld) (b : Bool) : (s.setBit o g b).fresh = s.fresh := by cases b <;> rfl

end Sys2Proof.Machine
end

