-- ==== Sys2Proof/Laws/SMap.lean ====
section
/-! SUPPORT. Sparse maps: a read after a write, and the canonical form that every write keeps. -/

namespace Sys2Proof.Machine

variable {α : Type}

theorem SMap.look_ins (d : α) (m : List (Nat × α)) (q : Nat) (x : α) (k : Nat) :
    SMap.look d (SMap.ins q x m) k = if k = q then x else SMap.look d m k := by
  induction m with
  | nil => simp [SMap.ins, SMap.look]
  | cons p m ih =>
    obtain ⟨a, v⟩ := p
    simp only [SMap.ins]
    split
    · simp [SMap.look]
    · split <;> simp only [SMap.look, ih] <;> split_ifs <;> first | rfl | omega

theorem SMap.look_del (d : α) (m : List (Nat × α)) (q k : Nat) :
    SMap.look d (SMap.del q m) k = if k = q then d else SMap.look d m k := by
  induction m with
  | nil => simp [SMap.del, SMap.look]
  | cons p m ih =>
    obtain ⟨a, v⟩ := p
    simp only [SMap.del]
    split <;> simp only [SMap.look, ih] <;> split_ifs <;> first | rfl | omega

/-- A read after a write. -/
theorem SMap.look_put [DecidableEq α] (d : α) (m : List (Nat × α)) (q : Nat) (x : α) (k : Nat) :
    SMap.look d (SMap.put d m q x) k = if k = q then x else SMap.look d m k := by
  unfold SMap.put
  split
  · subst_vars; exact SMap.look_del ..
  · exact SMap.look_ins ..

theorem SMap.look_put_self [DecidableEq α] (d : α) (m : List (Nat × α)) (q : Nat) (x : α) :
    SMap.look d (SMap.put d m q x) q = x := by rw [SMap.look_put, if_pos rfl]

theorem SMap.look_put_ne [DecidableEq α] (d d' : α) (m : List (Nat × α)) (q : Nat) (x : α) {k : Nat} (h : k ≠ q) :
    SMap.look d (SMap.put d' m q x) k = SMap.look d m k := by
  unfold SMap.put
  split
  · rw [SMap.look_del, if_neg h]
  · rw [SMap.look_ins, if_neg h]

/-! ### The canonical form -/

theorem SMap.find_ins_self (m : List (Nat × α)) (q : Nat) (x : α) : SMap.find (SMap.ins q x m) q = some x := by
  induction m with
  | nil => simp [SMap.ins, SMap.find]
  | cons y m ih =>
    unfold SMap.ins
    split
    · simp [SMap.find]
    · split
      · simp [SMap.find]
      · rename_i h; simp [SMap.find, h, ih]

theorem SMap.find_del_self (m : List (Nat × α)) (q : Nat) : SMap.find (SMap.del q m) q = none := by
  induction m with
  | nil => rfl
  | cons y m ih =>
    unfold SMap.del
    split
    · exact ih
    · rename_i h; simp [SMap.find, h, ih]

theorem SMap.rising_mono (m : List (Nat × α)) {lo hi : Nat} (h : SMap.rising hi m = true) (hl : lo ≤ hi) :
    SMap.rising lo m = true := by
  cases m with
  | nil => rfl
  | cons p m =>
    obtain ⟨a, v⟩ := p
    simp only [SMap.rising, Bool.and_eq_true, decide_eq_true_eq] at h ⊢
    exact ⟨by omega, h.2⟩

theorem SMap.rising_filter (m : List (Nat × α)) (p : Nat × α → Bool) {lo : Nat} (h : SMap.rising lo m = true) :
    SMap.rising lo (m.filter p) = true := by
  induction m generalizing lo with
  | nil => rfl
  | cons x m ih =>
    obtain ⟨a, v⟩ := x
    simp only [SMap.rising, Bool.and_eq_true, decide_eq_true_eq] at h
    simp only [List.filter]
    split
    · simp only [SMap.rising, Bool.and_eq_true, decide_eq_true_eq]; exact ⟨h.1, ih h.2⟩
    · exact SMap.rising_mono _ (ih h.2) (by omega)

theorem SMap.rising_ins (q : Nat) (x : α) (m : List (Nat × α)) {lo : Nat} (h : SMap.rising lo m = true) (hq : lo ≤ q) :
    SMap.rising lo (SMap.ins q x m) = true := by
  induction m generalizing lo with
  | nil => simpa [SMap.ins, SMap.rising] using hq
  | cons p m ih =>
    obtain ⟨a, v⟩ := p
    simp only [SMap.rising, Bool.and_eq_true, decide_eq_true_eq] at h
    simp only [SMap.ins]
    split_ifs with h1 h2 <;> simp only [SMap.rising, Bool.and_eq_true, decide_eq_true_eq]
    · exact ⟨hq, by omega, h.2⟩
    · exact ⟨hq, h2 ▸ h.2⟩
    · exact ⟨h.1, ih h.2 (by omega)⟩

theorem SMap.rising_del (q : Nat) (m : List (Nat × α)) {lo : Nat} (h : SMap.rising lo m = true) :
    SMap.rising lo (SMap.del q m) = true := by
  induction m generalizing lo with
  | nil => rfl
  | cons p m ih =>
    obtain ⟨a, v⟩ := p
    simp only [SMap.rising, Bool.and_eq_true, decide_eq_true_eq] at h
    simp only [SMap.del]
    split
    · exact SMap.rising_mono _ (ih h.2) (by omega)
    · simp only [SMap.rising, Bool.and_eq_true, decide_eq_true_eq]; exact ⟨h.1, ih h.2⟩

theorem SMap.all_ins (p : Nat × α → Bool) (q : Nat) (x : α) (m : List (Nat × α)) (h : m.all p = true)
    (hx : p (q, x) = true) : (SMap.ins q x m).all p = true := by
  induction m with
  | nil => simp [SMap.ins, hx]
  | cons y m ih =>
    obtain ⟨a, v⟩ := y
    simp only [List.all_cons, Bool.and_eq_true] at h
    simp only [SMap.ins]
    split_ifs <;> simp only [List.all_cons, Bool.and_eq_true]
    · exact ⟨hx, h⟩
    · exact ⟨hx, h.2⟩
    · exact ⟨h.1, ih h.2⟩

theorem SMap.all_del (p : Nat × α → Bool) (q : Nat) (m : List (Nat × α)) (h : m.all p = true) :
    (SMap.del q m).all p = true := by
  induction m with
  | nil => rfl
  | cons y m ih =>
    obtain ⟨a, v⟩ := y
    simp only [List.all_cons, Bool.and_eq_true] at h
    simp only [SMap.del]
    split
    · exact ih h.2
    · simp only [List.all_cons, Bool.and_eq_true]; exact ⟨h.1, ih h.2⟩

theorem SMap.wf_ins [DecidableEq α] (d : Nat → α) (m : List (Nat × α)) (q : Nat) (x : α) (h : SMap.wf d m = true)
    (hx : x ≠ d q) : SMap.wf d (SMap.ins q x m) = true := by
  simp only [SMap.wf, Bool.and_eq_true] at h ⊢
  exact ⟨SMap.rising_ins q x m h.1 (Nat.zero_le _), SMap.all_ins _ q x m h.2 (by simpa using hx)⟩

theorem SMap.wf_del [DecidableEq α] (d : Nat → α) (m : List (Nat × α)) (q : Nat) (h : SMap.wf d m = true) :
    SMap.wf d (SMap.del q m) = true := by
  simp only [SMap.wf, Bool.and_eq_true] at h ⊢
  exact ⟨SMap.rising_del q m h.1, SMap.all_del _ q m h.2⟩

/-- A write keeps the canonical form. -/
theorem SMap.wf_put [DecidableEq α] (d : Nat → α) (m : List (Nat × α)) (q : Nat) (x : α) (h : SMap.wf d m = true) :
    SMap.wf d (SMap.put (d q) m q x) = true := by
  unfold SMap.put
  split
  · exact SMap.wf_del d m q h
  · exact SMap.wf_ins d m q x h ‹_›

theorem SMap.wf_filter [DecidableEq α] (d : Nat → α) (m : List (Nat × α)) (p : Nat × α → Bool) (h : SMap.wf d m = true) :
    SMap.wf d (m.filter p) = true := by
  simp only [SMap.wf, Bool.and_eq_true] at h ⊢
  refine ⟨SMap.rising_filter m p h.1, ?_⟩
  simp only [List.all_eq_true, List.mem_filter] at *
  exact fun x hx => h.2 x hx.1

end Sys2Proof.Machine
end

