-- ==== Sys2Proof/Laws/Windows.lean ====
section
/-! SUPPORT. The block window of each register (R409). -/

namespace Sys2Proof.Machine

theorem regWindow_pwrCtrl : regWindow R.pwrCtrl = 1 := rfl
theorem regWindow_pwrStatus : regWindow R.pwrStatus = 1 := rfl
theorem regWindow_pwrCeil : regWindow R.pwrCeil = 1 := rfl
theorem regWindow_pwrHfRail : regWindow R.pwrHfRail = 1 := rfl
theorem regWindow_pwrOverCnt : regWindow R.pwrOverCnt = 1 := rfl
theorem regWindow_pwrRtc : regWindow R.pwrRtc = 1 := rfl
theorem regWindow_pwrRtcAlarm : regWindow R.pwrRtcAlarm = 1 := rfl
theorem regWindow_clkSiteTime : regWindow R.clkSiteTime = 2 := rfl
theorem regWindow_rstCause : regWindow R.rstCause = 3 := rfl
theorem regWindow_rstCtrl : regWindow R.rstCtrl = 3 := rfl
theorem regWindow_rstStraps : regWindow R.rstStraps = 3 := rfl
theorem regWindow_cfgStatus : regWindow R.cfgStatus = 4 := rfl
theorem regWindow_cfgCtrl : regWindow R.cfgCtrl = 4 := rfl
theorem regWindow_cfgStage : regWindow R.cfgStage = 4 := rfl
theorem regWindow_cfgStagePtr : regWindow R.cfgStagePtr = 4 := rfl
theorem regWindow_cfgFlashCmd : regWindow R.cfgFlashCmd = 4 := rfl
theorem regWindow_cfgFlashStatus : regWindow R.cfgFlashStatus = 4 := rfl
theorem regWindow_cfgFlashData (i : Nat) : regWindow (R.cfgFlashData i) = 4 := by
  unfold regWindow R.cfgFlashData famOff; split_ifs <;> first | omega | simp_all
theorem regWindow_schCtrl : regWindow R.schCtrl = 5 := rfl
theorem regWindow_schStatus : regWindow R.schStatus = 5 := rfl
theorem regWindow_schCheckResult : regWindow R.schCheckResult = 5 := rfl
theorem regWindow_schCycleTicks : regWindow R.schCycleTicks = 5 := rfl
theorem regWindow_schCycleCnt : regWindow R.schCycleCnt = 5 := rfl
theorem regWindow_schCycleStart : regWindow R.schCycleStart = 5 := rfl
theorem regWindow_schPeakMw : regWindow R.schPeakMw = 5 := rfl
theorem regWindow_schBaseMw : regWindow R.schBaseMw = 5 := rfl
theorem regWindow_schSeamMin : regWindow R.schSeamMin = 5 := rfl
theorem regWindow_schWheelLimit : regWindow R.schWheelLimit = 5 := rfl
theorem regWindow_schReserveAlert : regWindow R.schReserveAlert = 5 := rfl
theorem regWindow_schReserveMin : regWindow R.schReserveMin = 5 := rfl
theorem regWindow_schReqWait : regWindow R.schReqWait = 5 := rfl
theorem regWindow_schOverrunCnt : regWindow R.schOverrunCnt = 5 := rfl
theorem regWindow_schPlanId : regWindow R.schPlanId = 5 := rfl
theorem regWindow_hfaState (i : Nat) : regWindow (R.hfaState i) = 8 := by
  unfold regWindow R.hfaState famOff; split_ifs <;> first | omega | simp_all
theorem regWindow_hfaDriveStatus (i : Nat) : regWindow (R.hfaDriveStatus i) = 8 := by
  unfold regWindow R.hfaDriveStatus famOff; split_ifs <;> first | omega | simp_all
theorem regWindow_hfaHeadStatus (i : Nat) : regWindow (R.hfaHeadStatus i) = 8 := by
  unfold regWindow R.hfaHeadStatus famOff; split_ifs <;> first | omega | simp_all
theorem regWindow_hfaRxStatus (i : Nat) : regWindow (R.hfaRxStatus i) = 8 := by
  unfold regWindow R.hfaRxStatus famOff; split_ifs <;> first | omega | simp_all
theorem regWindow_hfaSampleTime (i : Nat) : regWindow (R.hfaSampleTime i) = 8 := by
  unfold regWindow R.hfaSampleTime famOff; split_ifs <;> first | omega | simp_all
theorem regWindow_hfaCancelCfg (i : Nat) : regWindow (R.hfaCancelCfg i) = 8 := by
  unfold regWindow R.hfaCancelCfg famOff; split_ifs <;> first | omega | simp_all
theorem regWindow_hfaCancelCoef (i j : Nat) : regWindow (R.hfaCancelCoef i j) = 8 := by
  unfold regWindow R.hfaCancelCoef famOff2; split_ifs <;> first | omega | simp_all
theorem regWindow_hfaHeadCfg : regWindow R.hfaHeadCfg = 8 := rfl
theorem regWindow_hfaRailLimitCnt : regWindow R.hfaRailLimitCnt = 8 := rfl
theorem regWindow_uhaState (i : Nat) : regWindow (R.uhaState i) = 11 := by
  unfold regWindow R.uhaState famOff; split_ifs <;> first | omega | simp_all
theorem regWindow_uhaTxStatus (i : Nat) : regWindow (R.uhaTxStatus i) = 11 := by
  unfold regWindow R.uhaTxStatus famOff; split_ifs <;> first | omega | simp_all
theorem regWindow_uhaHeadStatus (i : Nat) : regWindow (R.uhaHeadStatus i) = 11 := by
  unfold regWindow R.uhaHeadStatus famOff; split_ifs <;> first | omega | simp_all
theorem regWindow_uhaRxStatus (i : Nat) : regWindow (R.uhaRxStatus i) = 11 := by
  unfold regWindow R.uhaRxStatus famOff; split_ifs <;> first | omega | simp_all
theorem regWindow_uhaSampleTime (i : Nat) : regWindow (R.uhaSampleTime i) = 11 := by
  unfold regWindow R.uhaSampleTime famOff; split_ifs <;> first | omega | simp_all
theorem regWindow_uhaSjcStatus (i : Nat) : regWindow (R.uhaSjcStatus i) = 11 := by
  unfold regWindow R.uhaSjcStatus famOff; split_ifs <;> first | omega | simp_all
theorem regWindow_uhaPaCfg (i : Nat) : regWindow (R.uhaPaCfg i) = 11 := by
  unfold regWindow R.uhaPaCfg famOff; split_ifs <;> first | omega | simp_all
theorem regWindow_uhaPaStatus (i : Nat) : regWindow (R.uhaPaStatus i) = 11 := by
  unfold regWindow R.uhaPaStatus famOff; split_ifs <;> first | omega | simp_all
theorem regWindow_uhaHopState (i : Nat) : regWindow (R.uhaHopState i) = 11 := by
  unfold regWindow R.uhaHopState famOff; split_ifs <;> first | omega | simp_all
theorem regWindow_uhaSjcSeed (i j : Nat) : regWindow (R.uhaSjcSeed i j) = 11 := by
  unfold regWindow R.uhaSjcSeed famOff2; split_ifs <;> first | omega | simp_all
theorem regWindow_uhaTxTimeout : regWindow R.uhaTxTimeout = 11 := rfl
theorem regWindow_uhaHeadCfg : regWindow R.uhaHeadCfg = 11 := rfl
theorem regWindow_uhaTxtoCnt : regWindow R.uhaTxtoCnt = 11 := rfl
theorem regWindow_uhaChtLen : regWindow R.uhaChtLen = 11 := rfl
theorem regWindow_uhaCht (i j : Nat) : regWindow (R.uhaCht i j) = 11 := by
  unfold regWindow R.uhaCht famOff2; split_ifs <;> first | omega | simp_all
theorem regWindow_frmKrvCfg : regWindow R.frmKrvCfg = 13 := rfl
theorem regWindow_frmKrvSkewCnt : regWindow R.frmKrvSkewCnt = 13 := rfl
theorem regWindow_sngWalkCfg : regWindow R.sngWalkCfg = 14 := rfl
theorem regWindow_sngSlotCfg : regWindow R.sngSlotCfg = 14 := rfl
theorem regWindow_sngFallbackCnt : regWindow R.sngFallbackCnt = 14 := rfl
theorem regWindow_sngRecordDropCnt : regWindow R.sngRecordDropCnt = 14 := rfl
theorem regWindow_sngPtRegion (i : Nat) : regWindow (R.sngPtRegion i) = 14 := by
  unfold regWindow R.sngPtRegion famOff; split_ifs <;> first | omega | simp_all
theorem regWindow_sngPtCfg (i : Nat) : regWindow (R.sngPtCfg i) = 14 := by
  unfold regWindow R.sngPtCfg famOff; split_ifs <;> first | omega | simp_all
theorem regWindow_sngPtStatus (i : Nat) : regWindow (R.sngPtStatus i) = 14 := by
  unfold regWindow R.sngPtStatus famOff; split_ifs <;> first | omega | simp_all
theorem regWindow_wrdCfg : regWindow R.wrdCfg = 15 := rfl
theorem regWindow_wrdStatus : regWindow R.wrdStatus = 15 := rfl
theorem regWindow_wrdCwCnt : regWindow R.wrdCwCnt = 15 := rfl
theorem regWindow_wrdCwFailCnt : regWindow R.wrdCwFailCnt = 15 := rfl
theorem regWindow_wrdSyncFailCnt : regWindow R.wrdSyncFailCnt = 15 := rfl
theorem regWindow_chkCfg (i : Nat) : regWindow (R.chkCfg i) = 16 := by
  unfold regWindow R.chkCfg famOff; split_ifs <;> first | omega | simp_all
theorem regWindow_chkPoly (i : Nat) : regWindow (R.chkPoly i) = 16 := by
  unfold regWindow R.chkPoly famOff; split_ifs <;> first | omega | simp_all
theorem regWindow_chkInit (i : Nat) : regWindow (R.chkInit i) = 16 := by
  unfold regWindow R.chkInit famOff; split_ifs <;> first | omega | simp_all
theorem regWindow_chkXorout (i : Nat) : regWindow (R.chkXorout i) = 16 := by
  unfold regWindow R.chkXorout famOff; split_ifs <;> first | omega | simp_all
theorem regWindow_chkRun (i : Nat) : regWindow (R.chkRun i) = 16 := by
  unfold regWindow R.chkRun famOff; split_ifs <;> first | omega | simp_all
theorem regWindow_chkResult (i : Nat) : regWindow (R.chkResult i) = 16 := by
  unfold regWindow R.chkResult famOff; split_ifs <;> first | omega | simp_all
theorem regWindow_chkStatus (i : Nat) : regWindow (R.chkStatus i) = 16 := by
  unfold regWindow R.chkStatus famOff; split_ifs <;> first | omega | simp_all
theorem regWindow_chkFailCnt : regWindow R.chkFailCnt = 16 := rfl
theorem regWindow_gshEccStatus : regWindow R.gshEccStatus = 17 := rfl
theorem regWindow_gshEccCeCnt : regWindow R.gshEccCeCnt = 17 := rfl
theorem regWindow_gshEccUeCnt : regWindow R.gshEccUeCnt = 17 := rfl
theorem regWindow_gshScrubCfg : regWindow R.gshScrubCfg = 17 := rfl
theorem regWindow_gshEccInject : regWindow R.gshEccInject = 17 := rfl
theorem regWindow_gshBufRange (i : Nat) : regWindow (R.gshBufRange i) = 17 := by
  unfold regWindow R.gshBufRange famOff; split_ifs <;> first | omega | simp_all
theorem regWindow_gshBufAlloc (i : Nat) : regWindow (R.gshBufAlloc i) = 17 := by
  unfold regWindow R.gshBufAlloc famOff; split_ifs <;> first | omega | simp_all
theorem regWindow_gshBufFree (i : Nat) : regWindow (R.gshBufFree i) = 17 := by
  unfold regWindow R.gshBufFree famOff; split_ifs <;> first | omega | simp_all
theorem regWindow_gshBufStatus (i : Nat) : regWindow (R.gshBufStatus i) = 17 := by
  unfold regWindow R.gshBufStatus famOff; split_ifs <;> first | omega | simp_all
theorem regWindow_gshFifoCfg (i : Nat) : regWindow (R.gshFifoCfg i) = 17 := by
  unfold regWindow R.gshFifoCfg famOff; split_ifs <;> first | omega | simp_all
theorem regWindow_gshFifoStatus (i : Nat) : regWindow (R.gshFifoStatus i) = 17 := by
  unfold regWindow R.gshFifoStatus famOff; split_ifs <;> first | omega | simp_all
theorem regWindow_gshFifoHead (i : Nat) : regWindow (R.gshFifoHead i) = 17 := by
  unfold regWindow R.gshFifoHead famOff; split_ifs <;> first | omega | simp_all
theorem regWindow_gshFifoPush (i : Nat) : regWindow (R.gshFifoPush i) = 17 := by
  unfold regWindow R.gshFifoPush famOff; split_ifs <;> first | omega | simp_all
theorem regWindow_gshFifoPop (i : Nat) : regWindow (R.gshFifoPop i) = 17 := by
  unfold regWindow R.gshFifoPop famOff; split_ifs <;> first | omega | simp_all
theorem regWindow_gshFifoCtrl (i : Nat) : regWindow (R.gshFifoCtrl i) = 17 := by
  unfold regWindow R.gshFifoCtrl famOff; split_ifs <;> first | omega | simp_all
theorem regWindow_gshFifoSeq (i : Nat) : regWindow (R.gshFifoSeq i) = 17 := by
  unfold regWindow R.gshFifoSeq famOff; split_ifs <;> first | omega | simp_all
theorem regWindow_rdpWheelUse (i : Nat) : regWindow (R.rdpWheelUse i) = 18 := by
  unfold regWindow R.rdpWheelUse famOff; split_ifs <;> first | omega | simp_all
theorem regWindow_rdpRrWait : regWindow R.rdpRrWait = 18 := rfl
theorem regWindow_hifEthMac (i : Nat) : regWindow (R.hifEthMac i) = 19 := by
  unfold regWindow R.hifEthMac famOff; split_ifs <;> first | omega | simp_all
theorem regWindow_hifEthIp (i : Nat) : regWindow (R.hifEthIp i) = 19 := by
  unfold regWindow R.hifEthIp famOff; split_ifs <;> first | omega | simp_all
theorem regWindow_hifEthCfg (i : Nat) : regWindow (R.hifEthCfg i) = 19 := by
  unfold regWindow R.hifEthCfg famOff; split_ifs <;> first | omega | simp_all
theorem regWindow_hifEthStatus (i : Nat) : regWindow (R.hifEthStatus i) = 19 := by
  unfold regWindow R.hifEthStatus famOff; split_ifs <;> first | omega | simp_all
theorem regWindow_hifEpCfg (i : Nat) : regWindow (R.hifEpCfg i) = 19 := by
  unfold regWindow R.hifEpCfg famOff; split_ifs <;> first | omega | simp_all
theorem regWindow_hifEpPeer (i : Nat) : regWindow (R.hifEpPeer i) = 19 := by
  unfold regWindow R.hifEpPeer famOff; split_ifs <;> first | omega | simp_all
theorem regWindow_hifEpPeerMac (i : Nat) : regWindow (R.hifEpPeerMac i) = 19 := by
  unfold regWindow R.hifEpPeerMac famOff; split_ifs <;> first | omega | simp_all
theorem regWindow_hifEpStatus (i : Nat) : regWindow (R.hifEpStatus i) = 19 := by
  unfold regWindow R.hifEpStatus famOff; split_ifs <;> first | omega | simp_all
theorem regWindow_hifEthAuth : regWindow R.hifEthAuth = 19 := rfl
theorem regWindow_hifSpiCfg : regWindow R.hifSpiCfg = 19 := rfl
theorem regWindow_hifSpiIntMask : regWindow R.hifSpiIntMask = 19 := rfl
theorem regWindow_hifSpiStatus : regWindow R.hifSpiStatus = 19 := rfl
theorem regWindow_hifRing (i : Nat) : regWindow (R.hifRing i) = 19 := by
  unfold regWindow R.hifRing famOff; split_ifs <;> first | omega | simp_all
theorem regWindow_pitCfg (i : Nat) : regWindow (R.pitCfg i) = 20 := by
  unfold regWindow R.pitCfg famOff; split_ifs <;> first | omega | simp_all
theorem regWindow_pitPorts (i : Nat) : regWindow (R.pitPorts i) = 20 := by
  unfold regWindow R.pitPorts famOff; split_ifs <;> first | omega | simp_all
theorem regWindow_pitKeys (i : Nat) : regWindow (R.pitKeys i) = 20 := by
  unfold regWindow R.pitKeys famOff; split_ifs <;> first | omega | simp_all
theorem regWindow_pitRegion (i : Nat) : regWindow (R.pitRegion i) = 20 := by
  unfold regWindow R.pitRegion famOff; split_ifs <;> first | omega | simp_all
theorem regWindow_pitStatus (i : Nat) : regWindow (R.pitStatus i) = 20 := by
  unfold regWindow R.pitStatus famOff; split_ifs <;> first | omega | simp_all
theorem regWindow_pitViolIdx : regWindow R.pitViolIdx = 20 := rfl
theorem regWindow_pitContend : regWindow R.pitContend = 20 := rfl
theorem regWindow_pitViolRec (i j : Nat) : regWindow (R.pitViolRec i j) = 20 := by
  unfold regWindow R.pitViolRec famOff2; split_ifs <;> first | omega | simp_all
theorem regWindow_secKeyLoad : regWindow R.secKeyLoad = 21 := rfl
theorem regWindow_secKeyData (i : Nat) : regWindow (R.secKeyData i) = 21 := by
  unfold regWindow R.secKeyData famOff; split_ifs <;> first | omega | simp_all
theorem regWindow_secKrvBudget : regWindow R.secKrvBudget = 21 := rfl
theorem regWindow_secKrvBudgetStatus : regWindow R.secKrvBudgetStatus = 21 := rfl
theorem regWindow_awnCfg : regWindow R.awnCfg = 22 := rfl
theorem regWindow_awnImg (i : Nat) : regWindow (R.awnImg i) = 22 := by
  unfold regWindow R.awnImg famOff; split_ifs <;> first | omega | simp_all
theorem regWindow_awnCtrl (i : Nat) : regWindow (R.awnCtrl i) = 22 := by
  unfold regWindow R.awnCtrl famOff; split_ifs <;> first | omega | simp_all
theorem regWindow_awnStatus (i : Nat) : regWindow (R.awnStatus i) = 22 := by
  unfold regWindow R.awnStatus famOff; split_ifs <;> first | omega | simp_all
theorem regWindow_lntCfg : regWindow R.lntCfg = 23 := rfl
theorem regWindow_lntStatus : regWindow R.lntStatus = 23 := rfl
theorem regWindow_lntPort (i : Nat) : regWindow (R.lntPort i) = 23 := by
  unfold regWindow R.lntPort famOff; split_ifs <;> first | omega | simp_all
theorem regWindow_lntBase (i : Nat) : regWindow (R.lntBase i) = 23 := by
  unfold regWindow R.lntBase famOff; split_ifs <;> first | omega | simp_all
theorem regWindow_lntLast (i : Nat) : regWindow (R.lntLast i) = 23 := by
  unfold regWindow R.lntLast famOff; split_ifs <;> first | omega | simp_all
theorem regWindow_hltCfg : regWindow R.hltCfg = 24 := rfl
theorem regWindow_hltCtrl : regWindow R.hltCtrl = 24 := rfl
theorem regWindow_hltSpare (i : Nat) : regWindow (R.hltSpare i) = 24 := by
  unfold regWindow R.hltSpare famOff; split_ifs <;> first | omega | simp_all
theorem regWindow_hltAvs : regWindow R.hltAvs = 24 := rfl
theorem regWindow_hltDerateCfg : regWindow R.hltDerateCfg = 24 := rfl
theorem regWindow_hltAge (i : Nat) : regWindow (R.hltAge i) = 24 := by
  unfold regWindow R.hltAge famOff; split_ifs <;> first | omega | simp_all
theorem regWindow_hltSliceStatus (i : Nat) : regWindow (R.hltSliceStatus i) = 24 := by
  unfold regWindow R.hltSliceStatus famOff; split_ifs <;> first | omega | simp_all
theorem regWindow_hltTermsA (i : Nat) : regWindow (R.hltTermsA i) = 24 := by
  unfold regWindow R.hltTermsA famOff; split_ifs <;> first | omega | simp_all
theorem regWindow_hltTermsB (i : Nat) : regWindow (R.hltTermsB i) = 24 := by
  unfold regWindow R.hltTermsB famOff; split_ifs <;> first | omega | simp_all
theorem regWindow_hltCalTime (i : Nat) : regWindow (R.hltCalTime i) = 24 := by
  unfold regWindow R.hltCalTime famOff; split_ifs <;> first | omega | simp_all
theorem regWindow_guyCfg : regWindow R.guyCfg = 25 := rfl
theorem regWindow_guyStatus : regWindow R.guyStatus = 25 := rfl
theorem regWindow_guySync : regWindow R.guySync = 25 := rfl
theorem regWindow_guyLaneReq : regWindow R.guyLaneReq = 25 := rfl
theorem regWindow_guyLaneHeld : regWindow R.guyLaneHeld = 25 := rfl
theorem regWindow_guyPortLane (i : Nat) : regWindow (R.guyPortLane i) = 25 := by
  unfold regWindow R.guyPortLane famOff; split_ifs <;> first | omega | simp_all
theorem regWindow_cxpCfg : regWindow R.cxpCfg = 26 := rfl
theorem regWindow_cxpStatus : regWindow R.cxpStatus = 26 := rfl
theorem regWindow_cxpClass (i : Nat) : regWindow (R.cxpClass i) = 26 := by
  unfold regWindow R.cxpClass famOff; split_ifs <;> first | omega | simp_all
theorem regWindow_cabRfoffCfg : regWindow R.cabRfoffCfg = 27 := rfl
theorem regWindow_cabRfoffStatus : regWindow R.cabRfoffStatus = 27 := rfl
theorem regWindow_cabGpioIn : regWindow R.cabGpioIn = 27 := rfl
theorem regWindow_cabGpioOut : regWindow R.cabGpioOut = 27 := rfl
theorem regWindow_cabGpioSet : regWindow R.cabGpioSet = 27 := rfl
theorem regWindow_cabGpioClr : regWindow R.cabGpioClr = 27 := rfl
theorem regWindow_cabTrigLatch : regWindow R.cabTrigLatch = 27 := rfl
theorem regWindow_cabGpioCfg (i : Nat) : regWindow (R.cabGpioCfg i) = 27 := by
  unfold regWindow R.cabGpioCfg famOff; split_ifs <;> first | omega | simp_all
theorem regWindow_cabTrig (i : Nat) : regWindow (R.cabTrig i) = 27 := by
  unfold regWindow R.cabTrig famOff; split_ifs <;> first | omega | simp_all
theorem regWindow_trlCfg : regWindow R.trlCfg = 28 := rfl
theorem regWindow_trlWptr : regWindow R.trlWptr = 28 := rfl
theorem regWindow_trlLost : regWindow R.trlLost = 28 := rfl

end Sys2Proof.Machine
end

