-- ==== Sys2Proof/Laws/Fields.lean ====
section
/-! SUPPORT. Fields of words and of registers: what a read finds after a write, of the same field, of another field of
the same register, and of another register. -/

namespace Sys2Proof.Machine

/-- A field that lies in a word. -/
def Fld.ok (f : Fld) : Bool := decide (f.1 < 64) && decide (f.2 ≤ f.1)

/-- Two fields that share no bit. -/
def Fld.apart (f g : Fld) : Bool := decide (f.1 < g.2) || decide (g.1 < f.2)

theorem Word.testBit_get (w : Word) (f : Fld) (i : Nat) :
    (Word.get w f).testBit i = (decide (i < f.1 + 1 - f.2) && w.getLsbD (f.2 + i)) := by
  unfold Word.get
  rw [Nat.testBit_mod_two_pow, Nat.testBit_div_two_pow, Nat.add_comm i f.2]
  rfl

theorem Fld.getLsbD_mask (f : Fld) (h : f.ok = true) (i : Nat) :
    f.mask.getLsbD i = (decide (f.2 ≤ i) && decide (i ≤ f.1)) := by
  simp only [Fld.ok, Bool.and_eq_true, decide_eq_true_eq] at h
  unfold Fld.mask
  rw [BitVec.getLsbD_ofNat, Nat.testBit_mul_two_pow, Nat.testBit_two_pow_sub_one]
  by_cases h1 : f.2 ≤ i <;> by_cases h2 : i ≤ f.1 <;> simp [h1, h2] <;> omega

theorem Word.getLsbD_put (w : Word) (f : Fld) (v : Nat) (h : f.ok = true) (i : Nat) :
    (Word.put w f v).getLsbD i =
      if f.2 ≤ i ∧ i ≤ f.1 then v.testBit (i - f.2) else w.getLsbD i := by
  have hm := Fld.getLsbD_mask f h i
  simp only [Fld.ok, Bool.and_eq_true, decide_eq_true_eq] at h
  unfold Word.put
  rw [BitVec.getLsbD_or, BitVec.getLsbD_and, BitVec.getLsbD_not, hm, BitVec.getLsbD_ofNat, Nat.testBit_mul_two_pow,
    Nat.testBit_mod_two_pow]
  by_cases h1 : f.2 ≤ i <;> by_cases h2 : i ≤ f.1
  · have : i < 64 := by omega
    have : i - f.2 < f.1 + 1 - f.2 := by omega
    simp [h1, h2, *]
  · have : ¬ (i - f.2 < f.1 + 1 - f.2) := by omega
    simp only [h1, h2, this, decide_false, decide_true, and_false, Bool.and_false, if_false, Bool.not_false, Bool.and_true,
      Bool.false_and, Bool.or_false]
    by_cases h3 : i < 64
    · simp [h3]
    · simp [h3, BitVec.getLsbD_of_ge w i (by omega)]
  · have : i < 64 := by omega
    simp [h1, this]
  · omega

theorem Word.get_put_self (w : Word) (f : Fld) (v : Nat) (h : f.ok = true) :
    Word.get (Word.put w f v) f = v % 2 ^ (f.1 + 1 - f.2) := by
  apply Nat.eq_of_testBit_eq
  intro i
  rw [Word.testBit_get, Word.getLsbD_put w f v h, Nat.testBit_mod_two_pow]
  simp only [Fld.ok, Bool.and_eq_true, decide_eq_true_eq] at h
  by_cases h1 : i < f.1 + 1 - f.2
  · rw [if_pos (by omega), Nat.add_sub_cancel_left]
  · simp [h1]

theorem Word.get_put_apart (w : Word) (f g : Fld) (v : Nat) (h : f.ok = true) (hg : Fld.apart f g = true) :
    Word.get (Word.put w f v) g = Word.get w g := by
  apply Nat.eq_of_testBit_eq
  intro i
  simp only [Fld.apart, Bool.or_eq_true, decide_eq_true_eq] at hg
  rw [Word.testBit_get, Word.testBit_get, Word.getLsbD_put w f v h]
  by_cases h1 : i < g.1 + 1 - g.2
  · rw [if_neg (by omega)]
  · simp [h1]

theorem State.setReg_reg_self (s : State) (off : Nat) (w : Word) : (s.setReg off w).reg off = w :=
  SMap.look_put_self _ _ _ _

theorem State.setReg_reg_ne (s : State) (w : Word) {off o : Nat} (h : o ≠ off) : (s.setReg off w).reg o = s.reg o := by
  unfold State.reg State.setReg
  simp only [State.setRegs_regs]
  rw [SMap.look_put_ne _ _ _ _ _ h]

theorem State.fld_setReg_self (s : State) (off : Nat) (w : Word) (f : Fld) : (s.setReg off w).fld off f = Word.get w f := by
  unfold State.fld; rw [State.setReg_reg_self]

theorem State.fld_setReg_ne (s : State) (w : Word) (f : Fld) {off o : Nat} (h : o ≠ off) :
    (s.setReg off w).fld o f = s.fld o f := by
  unfold State.fld; rw [State.setReg_reg_ne _ _ h]

theorem State.fld_setFld_self (s : State) (off : Nat) (f : Fld) (v : Nat) (h : f.ok = true) :
    (s.setFld off f v).fld off f = v % 2 ^ (f.1 + 1 - f.2) := by
  unfold State.setFld; rw [State.fld_setReg_self, Word.get_put_self _ _ _ h]

theorem State.fld_setFld_apart (s : State) (off : Nat) (f g : Fld) (v : Nat) (h : f.ok = true) (hg : Fld.apart f g = true) :
    (s.setFld off f v).fld off g = s.fld off g := by
  unfold State.setFld; rw [State.fld_setReg_self, Word.get_put_apart _ _ _ _ h hg]; rfl

theorem State.fld_setFld_ne (s : State) (f g : Fld) (v : Nat) {off o : Nat} (h : o ≠ off) :
    (s.setFld off f v).fld o g = s.fld o g := by
  unfold State.setFld; rw [State.fld_setReg_ne _ _ _ h]

theorem State.setFld_reg_ne (s : State) (f : Fld) (v : Nat) {off o : Nat} (h : o ≠ off) :
    (s.setFld off f v).reg o = s.reg o := State.setReg_reg_ne _ _ h

theorem State.setBit_reg_ne (s : State) (f : Fld) (b : Bool) {off o : Nat} (h : o ≠ off) :
    (s.setBit off f b).reg o = s.reg o := by
  unfold State.setBit; rw [State.noteRaised_reg, State.setFld_reg_ne _ _ _ h]

theorem State.fld_setBit_self (s : State) (off : Nat) (f : Fld) (b : Bool) (h : f.ok = true) :
    (s.setBit off f b).fld off f = b.toNat := by
  unfold State.setBit
  rw [State.noteRaised_fld, State.fld_setFld_self _ _ _ _ h]
  simp only [Fld.ok, Bool.and_eq_true, decide_eq_true_eq] at h
  apply Nat.mod_eq_of_lt
  have : 1 < 2 ^ (f.1 + 1 - f.2) := Nat.one_lt_two_pow (by omega)
  cases b <;> simp <;> omega

theorem State.bit_setBit_self (s : State) (off : Nat) (f : Fld) (b : Bool) (h : f.ok = true) :
    (s.setBit off f b).bit off f = b := by
  unfold State.bit; rw [State.fld_setBit_self _ _ _ _ h]; cases b <;> rfl

theorem State.bit_setBit_apart (s : State) (off : Nat) (f g : Fld) (b : Bool) (h : f.ok = true) (hg : Fld.apart f g = true) :
    (s.setBit off f b).bit off g = s.bit off g := by
  unfold State.bit State.setBit; rw [State.noteRaised_fld, State.fld_setFld_apart _ _ _ _ _ h hg]

theorem State.bit_setBit_ne (s : State) (f g : Fld) (b : Bool) {off o : Nat} (h : o ≠ off) :
    (s.setBit off f b).bit o g = s.bit o g := by
  unfold State.bit State.setBit; rw [State.noteRaised_fld, State.fld_setFld_ne _ _ _ _ h]

/-- A state update that leaves the registers leaves every field. -/
theorem State.reg_of_regs {s t : State} (h : t.regs = s.regs) (off : Nat) : t.reg off = s.reg off := by
  unfold State.reg; rw [h]

theorem State.fld_setBit_ne (s : State) (f g : Fld) (b : Bool) {off o : Nat} (h : o ≠ off) :
    (s.setBit off f b).fld o g = s.fld o g := by
  unfold State.setBit; rw [State.noteRaised_fld, State.fld_setFld_ne _ _ _ _ h]

end Sys2Proof.Machine
end

