-- ==== Sys2Proof/Laws/Keeps.lean ====
section
/-! SUPPORT. The frame relation behind every frame lemma: `Keeps w s t` says that t is s but for the parts that the
mask w names, that the queue is s's, and that canonical data stay canonical. Bits 0 to 30 of a mask are the fields of
State in order (mem: Groundsheet outside the pool, the internal area, the presence tables and the trace ring, which are bits 41, 61, 42 and 44;
bit 31: buffers that are not FREE; bits 38 and 39: which stakes are active, and where SCH stands; bit 32: the active stakes may leave
their order), bit 32 + b the registers of block window b; bit 63 says that a reset source may be taken (R354), after
which no part is claimed, and bit 62 that a reset sequence may end. Each operation has one lemma `State.<name>_keeps`. -/

namespace Sys2Proof.Machine

set_option linter.unreachableTactic false
set_option linter.unusedTactic false

/-- Every part of mask v is in mask w. -/
def sub (v w : Nat) : Bool := Nat.beq (Nat.land v w) v

/-- A mask that frames compose over. -/
def solid (w : Nat) : Bool := !(w.testBit 62 && w.testBit 63) || Nat.beq (w ||| 0x100000000) 0xFFFFFFFFFFFFFFFF

/-- t is s but for the parts in w. -/
structure Keeps (w : Nat) (s t : State) : Prop where
  pending : t.pending = s.pending
  wfRegs : SMap.wf resetWord s.regs = true → SMap.wf resetWord t.regs = true
  wfMem : SMap.wf (fun _ => (0 : Byte)) s.mem = true → SMap.wf (fun _ => (0 : Byte)) t.mem = true
  wfEcc : SMap.wf (fun _ => (0 : Word)) s.ecc = true → SMap.wf (fun _ => (0 : Word)) t.ecc = true
  wfFlash : SMap.wf (fun _ => (0xFF : Byte)) s.flash = true → SMap.wf (fun _ => (0xFF : Byte)) t.flash = true
  up : w.testBit 62 = false → t.boot.seq = none → s.boot.seq = none
  order : w.testBit 32 = false → s.inOrder → t.inOrder
  mem : (w.testBit 63 = false ∨ t.boot.seq = none) → w.testBit 1 = false → ∀ a, areaOf a = .mem → t.byte a = s.byte a
  pool : (w.testBit 63 = false ∨ t.boot.seq = none) → w.testBit 41 = false → ∀ a, areaOf a = .pool → t.byte a = s.byte a
  inner : (w.testBit 63 = false ∨ t.boot.seq = none) → w.testBit 61 = false → ∀ a, areaOf a = .inner → t.byte a = s.byte a
  tables : (w.testBit 63 = false ∨ t.boot.seq = none) → w.testBit 42 = false → ∀ a, areaOf a = .tables → t.byte a = s.byte a
  ring : (w.testBit 63 = false ∨ t.boot.seq = none) → w.testBit 44 = false → ∀ a, areaOf a = .ring → t.byte a = s.byte a
  busy : (w.testBit 63 = false ∨ t.boot.seq = none) → w.testBit 31 = false → ∀ b, b < 65536 → s.buf b ≠ .free →
    t.buf b = s.buf b ∧ ∀ i, i < 256 → t.byte (256 * b + i) = s.byte (256 * b + i)
  stakes : (w.testBit 63 = false ∨ t.boot.seq = none) → w.testBit 38 = false → t.active = s.active
  cycle : (w.testBit 63 = false ∨ t.boot.seq = none) → w.testBit 39 = false → t.sch.cycle = s.sch.cycle
  clock : (w.testBit 63 = false ∨ t.boot.seq = none) → w.testBit 0 = false → t.clock = s.clock
  ecc : (w.testBit 63 = false ∨ t.boot.seq = none) → w.testBit 2 = false → t.ecc = s.ecc
  bufs : (w.testBit 63 = false ∨ t.boot.seq = none) → w.testBit 3 = false → t.bufs = s.bufs
  fifos : (w.testBit 63 = false ∨ t.boot.seq = none) → w.testBit 4 = false → t.fifos = s.fifos
  boot : (w.testBit 63 = false ∨ t.boot.seq = none) → w.testBit 5 = false → t.boot = s.boot
  sch : (w.testBit 63 = false ∨ t.boot.seq = none) → w.testBit 6 = false → t.sch = s.sch
  runs : (w.testBit 63 = false ∨ t.boot.seq = none) → w.testBit 7 = false → t.runs = s.runs
  ports : (w.testBit 63 = false ∨ t.boot.seq = none) → w.testBit 8 = false → t.ports = s.ports
  slices : (w.testBit 63 = false ∨ t.boot.seq = none) → w.testBit 9 = false → t.slices = s.slices
  records : (w.testBit 63 = false ∨ t.boot.seq = none) → w.testBit 10 = false → t.records = s.records
  polarity : (w.testBit 63 = false ∨ t.boot.seq = none) → w.testBit 11 = false → t.polarity = s.polarity
  requests : (w.testBit 63 = false ∨ t.boot.seq = none) → w.testBit 12 = false → t.requests = s.requests
  sec : (w.testBit 63 = false ∨ t.boot.seq = none) → w.testBit 13 = false → t.sec = s.sec
  decoders : (w.testBit 63 = false ∨ t.boot.seq = none) → w.testBit 14 = false → t.decoders = s.decoders
  hostRuns : (w.testBit 63 = false ∨ t.boot.seq = none) → w.testBit 15 = false → t.hostRuns = s.hostRuns
  awning : (w.testBit 63 = false ∨ t.boot.seq = none) → w.testBit 16 = false → t.awning = s.awning
  lantern : (w.testBit 63 = false ∨ t.boot.seq = none) → w.testBit 17 = false → t.lantern = s.lantern
  hif : (w.testBit 63 = false ∨ t.boot.seq = none) → w.testBit 18 = false → t.hif = s.hif
  pit : (w.testBit 63 = false ∨ t.boot.seq = none) → w.testBit 19 = false → t.pit = s.pit
  hlt : (w.testBit 63 = false ∨ t.boot.seq = none) → w.testBit 20 = false → t.hlt = s.hlt
  flash : (w.testBit 63 = false ∨ t.boot.seq = none) → w.testBit 21 = false → t.flash = s.flash
  guy : (w.testBit 63 = false ∨ t.boot.seq = none) → w.testBit 22 = false → t.guy = s.guy
  cxp : (w.testBit 63 = false ∨ t.boot.seq = none) → w.testBit 23 = false → t.cxp = s.cxp
  cab : (w.testBit 63 = false ∨ t.boot.seq = none) → w.testBit 24 = false → t.cab = s.cab
  trl : (w.testBit 63 = false ∨ t.boot.seq = none) → w.testBit 25 = false → t.trl = s.trl
  tap : (w.testBit 63 = false ∨ t.boot.seq = none) → w.testBit 26 = false → t.tap = s.tap
  wheel : (w.testBit 63 = false ∨ t.boot.seq = none) → w.testBit 27 = false → t.wheel = s.wheel
  resp : (w.testBit 63 = false ∨ t.boot.seq = none) → w.testBit 28 = false → t.resp = s.resp
  out : (w.testBit 63 = false ∨ t.boot.seq = none) → w.testBit 29 = false → t.out = s.out
  fresh : (w.testBit 63 = false ∨ t.boot.seq = none) → w.testBit 30 = false → t.fresh = s.fresh
  regs : (w.testBit 63 = false ∨ t.boot.seq = none) → ∀ off, w.testBit (32 + regWindow off) = false → t.reg off = s.reg off

theorem Keeps.refl (w : Nat) (s : State) : Keeps w s s := by
  constructor <;> simp

theorem sub_bit {v w : Nat} (h : sub v w = true) {i : Nat} (hi : w.testBit i = false) : v.testBit i = false := by
  have h : v &&& w = v := Nat.eq_of_beq_eq_true h
  rw [← h, Nat.testBit_and, hi, Bool.and_false]

/-- The empty mask is in every mask. -/
theorem zero_sub (w : Nat) : sub 0 w = true := by simp [sub]

theorem sub_trans {u v w : Nat} (h : sub u v = true) (g : sub v w = true) : sub u w = true := by
  have h : u &&& v = u := Nat.eq_of_beq_eq_true h
  have g : v &&& w = v := Nat.eq_of_beq_eq_true g
  have k : u &&& w = u := by rw [← h, Nat.and_assoc, g]
  show Nat.beq (u &&& w) u = true
  rw [k]; exact Nat.beq_refl u

theorem Keeps.mono {v w : Nat} {s t : State} (h : Keeps v s t) (hv : sub v w = true) : Keeps w s t where
  pending := h.pending
  wfRegs := h.wfRegs
  wfMem := h.wfMem
  wfEcc := h.wfEcc
  wfFlash := h.wfFlash
  up hw := h.up (sub_bit hv hw)
  order hw := h.order (sub_bit hv hw)
  clock hr hw := h.clock (hr.imp_left (sub_bit hv)) (sub_bit hv hw)
  mem hr hw := h.mem (hr.imp_left (sub_bit hv)) (sub_bit hv hw)
  ecc hr hw := h.ecc (hr.imp_left (sub_bit hv)) (sub_bit hv hw)
  bufs hr hw := h.bufs (hr.imp_left (sub_bit hv)) (sub_bit hv hw)
  fifos hr hw := h.fifos (hr.imp_left (sub_bit hv)) (sub_bit hv hw)
  boot hr hw := h.boot (hr.imp_left (sub_bit hv)) (sub_bit hv hw)
  sch hr hw := h.sch (hr.imp_left (sub_bit hv)) (sub_bit hv hw)
  runs hr hw := h.runs (hr.imp_left (sub_bit hv)) (sub_bit hv hw)
  ports hr hw := h.ports (hr.imp_left (sub_bit hv)) (sub_bit hv hw)
  slices hr hw := h.slices (hr.imp_left (sub_bit hv)) (sub_bit hv hw)
  records hr hw := h.records (hr.imp_left (sub_bit hv)) (sub_bit hv hw)
  polarity hr hw := h.polarity (hr.imp_left (sub_bit hv)) (sub_bit hv hw)
  requests hr hw := h.requests (hr.imp_left (sub_bit hv)) (sub_bit hv hw)
  sec hr hw := h.sec (hr.imp_left (sub_bit hv)) (sub_bit hv hw)
  decoders hr hw := h.decoders (hr.imp_left (sub_bit hv)) (sub_bit hv hw)
  hostRuns hr hw := h.hostRuns (hr.imp_left (sub_bit hv)) (sub_bit hv hw)
  awning hr hw := h.awning (hr.imp_left (sub_bit hv)) (sub_bit hv hw)
  lantern hr hw := h.lantern (hr.imp_left (sub_bit hv)) (sub_bit hv hw)
  hif hr hw := h.hif (hr.imp_left (sub_bit hv)) (sub_bit hv hw)
  pit hr hw := h.pit (hr.imp_left (sub_bit hv)) (sub_bit hv hw)
  hlt hr hw := h.hlt (hr.imp_left (sub_bit hv)) (sub_bit hv hw)
  flash hr hw := h.flash (hr.imp_left (sub_bit hv)) (sub_bit hv hw)
  guy hr hw := h.guy (hr.imp_left (sub_bit hv)) (sub_bit hv hw)
  cxp hr hw := h.cxp (hr.imp_left (sub_bit hv)) (sub_bit hv hw)
  cab hr hw := h.cab (hr.imp_left (sub_bit hv)) (sub_bit hv hw)
  trl hr hw := h.trl (hr.imp_left (sub_bit hv)) (sub_bit hv hw)
  tap hr hw := h.tap (hr.imp_left (sub_bit hv)) (sub_bit hv hw)
  wheel hr hw := h.wheel (hr.imp_left (sub_bit hv)) (sub_bit hv hw)
  resp hr hw := h.resp (hr.imp_left (sub_bit hv)) (sub_bit hv hw)
  out hr hw := h.out (hr.imp_left (sub_bit hv)) (sub_bit hv hw)
  fresh hr hw := h.fresh (hr.imp_left (sub_bit hv)) (sub_bit hv hw)
  pool hr hw := h.pool (hr.imp_left (sub_bit hv)) (sub_bit hv hw)
  inner hr hw := h.inner (hr.imp_left (sub_bit hv)) (sub_bit hv hw)
  tables hr hw := h.tables (hr.imp_left (sub_bit hv)) (sub_bit hv hw)
  ring hr hw := h.ring (hr.imp_left (sub_bit hv)) (sub_bit hv hw)
  busy hr hw := h.busy (hr.imp_left (sub_bit hv)) (sub_bit hv hw)
  stakes hr hw := h.stakes (hr.imp_left (sub_bit hv)) (sub_bit hv hw)
  cycle hr hw := h.cycle (hr.imp_left (sub_bit hv)) (sub_bit hv hw)
  regs hr off hw := h.regs (hr.imp_left (sub_bit hv)) off (sub_bit hv hw)

theorem full_bit {w i : Nat} (h : w ||| 0x100000000 = 0xFFFFFFFFFFFFFFFF) (hi : i < 64) (ho : i ≠ 32) :
    w.testBit i = true := by
  have k : (w ||| 0x100000000).testBit i = true := by rw [h]; interval_cases i <;> decide
  rw [Nat.testBit_or] at k
  have z : (0x100000000 : Nat).testBit i = false := by interval_cases i <;> first | decide | contradiction
  rwa [z, Bool.or_false] at k

theorem regWindow_lt (off : Nat) : 32 + regWindow off < 64 ∧ 32 + regWindow off ≠ 32 := by
  unfold regWindow; split_ifs <;> omega

theorem solid_cases {w : Nat} (h : solid w = true) :
    w.testBit 63 = false ∨ w.testBit 62 = false ∨ ∀ i, i < 64 → i ≠ 32 → w.testBit i = true := by
  simp only [solid, Bool.or_eq_true, Bool.not_eq_true', Bool.and_eq_false_iff] at h
  rcases h with (h | h) | h
  · exact .inr (.inl h)
  · exact .inl h
  · exact .inr (.inr fun i hi => full_bit (Nat.eq_of_beq_eq_true h) hi)

/-- What composing two frames needs of the middle state. -/
theorem Keeps.mid {w : Nat} {t u : State} (hw : solid w = true) (g : Keeps w t u) {i : Nat} (hi : i < 64 ∧ i ≠ 32)
    (hb : w.testBit i = false) (hr : w.testBit 63 = false ∨ u.boot.seq = none) :
    w.testBit 63 = false ∨ t.boot.seq = none := by
  rcases solid_cases hw with h | h | h
  · exact .inl h
  · exact hr.imp_right (g.up h)
  · rw [h i hi.1 hi.2] at hb; cases hb

theorem Keeps.trans {w : Nat} {s t u : State} (hw : solid w = true) (h : Keeps w s t) (g : Keeps w t u) : Keeps w s u where
  pending := g.pending.trans h.pending
  wfRegs := g.wfRegs ∘ h.wfRegs
  wfMem := g.wfMem ∘ h.wfMem
  wfEcc := g.wfEcc ∘ h.wfEcc
  wfFlash := g.wfFlash ∘ h.wfFlash
  up hu := h.up hu ∘ g.up hu
  order ho := g.order ho ∘ h.order ho
  mem hr hb a ha := (g.mem hr hb a ha).trans (h.mem (g.mid hw (by decide) hb hr) hb a ha)
  pool hr hb a ha := (g.pool hr hb a ha).trans (h.pool (g.mid hw (by decide) hb hr) hb a ha)
  inner hr hb a ha := (g.inner hr hb a ha).trans (h.inner (g.mid hw (by decide) hb hr) hb a ha)
  tables hr hb a ha := (g.tables hr hb a ha).trans (h.tables (g.mid hw (by decide) hb hr) hb a ha)
  ring hr hb a ha := (g.ring hr hb a ha).trans (h.ring (g.mid hw (by decide) hb hr) hb a ha)
  busy hr hb b hl hn :=
    have k := h.busy (g.mid hw (by decide) hb hr) hb b hl hn
    have j := g.busy hr hb b hl (by rw [k.1]; exact hn)
    ⟨j.1.trans k.1, fun i hi => (j.2 i hi).trans (k.2 i hi)⟩
  clock hr hb := (g.clock hr hb).trans (h.clock (g.mid hw (by decide) hb hr) hb)
  ecc hr hb := (g.ecc hr hb).trans (h.ecc (g.mid hw (by decide) hb hr) hb)
  bufs hr hb := (g.bufs hr hb).trans (h.bufs (g.mid hw (by decide) hb hr) hb)
  fifos hr hb := (g.fifos hr hb).trans (h.fifos (g.mid hw (by decide) hb hr) hb)
  boot hr hb := (g.boot hr hb).trans (h.boot (g.mid hw (by decide) hb hr) hb)
  sch hr hb := (g.sch hr hb).trans (h.sch (g.mid hw (by decide) hb hr) hb)
  runs hr hb := (g.runs hr hb).trans (h.runs (g.mid hw (by decide) hb hr) hb)
  ports hr hb := (g.ports hr hb).trans (h.ports (g.mid hw (by decide) hb hr) hb)
  slices hr hb := (g.slices hr hb).trans (h.slices (g.mid hw (by decide) hb hr) hb)
  records hr hb := (g.records hr hb).trans (h.records (g.mid hw (by decide) hb hr) hb)
  polarity hr hb := (g.polarity hr hb).trans (h.polarity (g.mid hw (by decide) hb hr) hb)
  requests hr hb := (g.requests hr hb).trans (h.requests (g.mid hw (by decide) hb hr) hb)
  sec hr hb := (g.sec hr hb).trans (h.sec (g.mid hw (by decide) hb hr) hb)
  decoders hr hb := (g.decoders hr hb).trans (h.decoders (g.mid hw (by decide) hb hr) hb)
  hostRuns hr hb := (g.hostRuns hr hb).trans (h.hostRuns (g.mid hw (by decide) hb hr) hb)
  awning hr hb := (g.awning hr hb).trans (h.awning (g.mid hw (by decide) hb hr) hb)
  lantern hr hb := (g.lantern hr hb).trans (h.lantern (g.mid hw (by decide) hb hr) hb)
  hif hr hb := (g.hif hr hb).trans (h.hif (g.mid hw (by decide) hb hr) hb)
  pit hr hb := (g.pit hr hb).trans (h.pit (g.mid hw (by decide) hb hr) hb)
  hlt hr hb := (g.hlt hr hb).trans (h.hlt (g.mid hw (by decide) hb hr) hb)
  flash hr hb := (g.flash hr hb).trans (h.flash (g.mid hw (by decide) hb hr) hb)
  guy hr hb := (g.guy hr hb).trans (h.guy (g.mid hw (by decide) hb hr) hb)
  cxp hr hb := (g.cxp hr hb).trans (h.cxp (g.mid hw (by decide) hb hr) hb)
  cab hr hb := (g.cab hr hb).trans (h.cab (g.mid hw (by decide) hb hr) hb)
  trl hr hb := (g.trl hr hb).trans (h.trl (g.mid hw (by decide) hb hr) hb)
  tap hr hb := (g.tap hr hb).trans (h.tap (g.mid hw (by decide) hb hr) hb)
  wheel hr hb := (g.wheel hr hb).trans (h.wheel (g.mid hw (by decide) hb hr) hb)
  resp hr hb := (g.resp hr hb).trans (h.resp (g.mid hw (by decide) hb hr) hb)
  out hr hb := (g.out hr hb).trans (h.out (g.mid hw (by decide) hb hr) hb)
  fresh hr hb := (g.fresh hr hb).trans (h.fresh (g.mid hw (by decide) hb hr) hb)
  stakes hr hb := (g.stakes hr hb).trans (h.stakes (g.mid hw (by decide) hb hr) hb)
  cycle hr hb := (g.cycle hr hb).trans (h.cycle (g.mid hw (by decide) hb hr) hb)
  regs hr off hb := (g.regs hr off hb).trans (h.regs (g.mid hw (regWindow_lt off) hb hr) off hb)

/-- One more operation at the end. -/
theorem Keeps.step {v w : Nat} {s t u : State} (g : Keeps v t u) (hw : solid w = true) (hv : sub v w = true)
    (h : Keeps w s t) : Keeps w s u := h.trans hw (g.mono hv)

theorem Keeps.ite {w : Nat} {s a b : State} {c : Prop} [Decidable c] (ha : Keeps w s a) (hb : Keeps w s b) :
    Keeps w s (if c then a else b) := by split <;> assumption

theorem Keeps.each {w : Nat} {s t : State} {α : Type} {l : List α} {f : State → α → State} (hw : solid w = true)
    (h : Keeps w s t) (hf : ∀ u x, Keeps w u (f u x)) : Keeps w s (t.each l f) := by
  unfold State.each
  induction l generalizing t with
  | nil => exact h
  | cons x l ih => exact ih (h.trans hw (hf t x))

theorem Keeps.foldl {w : Nat} {s t : State} {α : Type} {l : List α} {f : State → α → State} (hw : solid w = true)
    (h : Keeps w s t) (hf : ∀ u x, Keeps w u (f u x)) : Keeps w s (l.foldl f t) := Keeps.each hw h hf

/-- A fold over data that carry a state. -/
theorem Keeps.foldWith {w : Nat} {s : State} {α β : Type} (g : β → State) {l : List α} {f : β → α → β} {b : β}
    (hw : solid w = true) (h : Keeps w s (g b)) (hf : ∀ b x, Keeps w (g b) (g (f b x))) : Keeps w s (g (l.foldl f b)) := by
  induction l generalizing b with
  | nil => exact h
  | cons x l ih => exact ih (h.trans hw (hf b x))

theorem Keeps.fst {α : Type} {w : Nat} {s t : State} {x : State × α} {y : α} (h : Keeps w s x.1) (e : x = (t, y)) :
    Keeps w s t := by subst e; exact h

theorem State.setClock_keeps (s : State) (v : Clock) : Keeps 0x1 s (s.setClock v) := by
  constructor <;> intros <;> first | rfl | assumption | exact ⟨rfl, fun _ _ => rfl⟩ | (rename_i h; exact absurd h (by decide)) | (rename_i h _ _; exact absurd h (by decide)) | (rename_i h _ _ _; exact absurd h (by decide))
theorem State.setClock_step {w : Nat} {s0 s : State} (v : Clock) (hs : solid w = true) (hv : sub 0x1 w = true)
    (h : Keeps w s0 s) : Keeps w s0 (s.setClock v) := (s.setClock_keeps v).step hs hv h

theorem State.setTick_keeps (s : State) (v : Tick) : Keeps 0x0 s (s.setTick v) := by
  constructor <;> intros <;> first | rfl | assumption | exact ⟨rfl, fun _ _ => rfl⟩ | (rename_i h; exact absurd h (by decide)) | (rename_i h _ _; exact absurd h (by decide)) | (rename_i h _ _ _; exact absurd h (by decide))
theorem State.setTick_step {w : Nat} {s0 s : State} (v : Tick) (hs : solid w = true) (hv : sub 0x0 w = true)
    (h : Keeps w s0 s) : Keeps w s0 (s.setTick v) := (s.setTick_keeps v).step hs hv h

theorem State.setBufs_keeps (s : State) (v : SMap BufState) : Keeps 0x80000008 s (s.setBufs v) := by
  constructor <;> intros <;> first | rfl | assumption | exact ⟨rfl, fun _ _ => rfl⟩ | (rename_i h; exact absurd h (by decide)) | (rename_i h _ _; exact absurd h (by decide)) | (rename_i h _ _ _; exact absurd h (by decide))
theorem State.setBufs_step {w : Nat} {s0 s : State} (v : SMap BufState) (hs : solid w = true) (hv : sub 0x80000008 w = true)
    (h : Keeps w s0 s) : Keeps w s0 (s.setBufs v) := (s.setBufs_keeps v).step hs hv h

theorem State.setFifos_keeps (s : State) (v : SMap Fifo) : Keeps 0x10 s (s.setFifos v) := by
  constructor <;> intros <;> first | rfl | assumption | exact ⟨rfl, fun _ _ => rfl⟩ | (rename_i h; exact absurd h (by decide)) | (rename_i h _ _; exact absurd h (by decide)) | (rename_i h _ _ _; exact absurd h (by decide))
theorem State.setFifos_step {w : Nat} {s0 s : State} (v : SMap Fifo) (hs : solid w = true) (hv : sub 0x10 w = true)
    (h : Keeps w s0 s) : Keeps w s0 (s.setFifos v) := (s.setFifos_keeps v).step hs hv h

theorem State.setSch_keeps (s : State) (v : Sch) : Keeps 0x8100000040 s (s.setSch v) := by
  constructor <;> intros <;> first | (rename_i h _; exact absurd h (by decide)) | rfl | assumption | exact ⟨rfl, fun _ _ => rfl⟩ | (rename_i h; exact absurd h (by decide)) | (rename_i h _ _; exact absurd h (by decide)) | (rename_i h _ _ _; exact absurd h (by decide))
theorem State.setSch_step {w : Nat} {s0 s : State} (v : Sch) (hs : solid w = true) (hv : sub 0x8100000040 w = true)
    (h : Keeps w s0 s) : Keeps w s0 (s.setSch v) := (s.setSch_keeps v).step hs hv h

theorem State.setRuns_keeps (s : State) (v : List Run) : Keeps 0x4100000080 s (s.setRuns v) := by
  constructor <;> intros <;> first | (rename_i h _; exact absurd h (by decide)) | rfl | assumption | exact ⟨rfl, fun _ _ => rfl⟩ | (rename_i h; exact absurd h (by decide)) | (rename_i h _ _; exact absurd h (by decide)) | (rename_i h _ _ _; exact absurd h (by decide))
theorem State.setRuns_step {w : Nat} {s0 s : State} (v : List Run) (hs : solid w = true) (hv : sub 0x4100000080 w = true)
    (h : Keeps w s0 s) : Keeps w s0 (s.setRuns v) := (s.setRuns_keeps v).step hs hv h

theorem State.setPorts_keeps (s : State) (v : SMap Port) : Keeps 0x100 s (s.setPorts v) := by
  constructor <;> intros <;> first | rfl | assumption | exact ⟨rfl, fun _ _ => rfl⟩ | (rename_i h; exact absurd h (by decide)) | (rename_i h _ _; exact absurd h (by decide)) | (rename_i h _ _ _; exact absurd h (by decide))
theorem State.setPorts_step {w : Nat} {s0 s : State} (v : SMap Port) (hs : solid w = true) (hv : sub 0x100 w = true)
    (h : Keeps w s0 s) : Keeps w s0 (s.setPorts v) := (s.setPorts_keeps v).step hs hv h

theorem State.setSlices_keeps (s : State) (v : SMap Slice) : Keeps 0x200 s (s.setSlices v) := by
  constructor <;> intros <;> first | rfl | assumption | exact ⟨rfl, fun _ _ => rfl⟩ | (rename_i h; exact absurd h (by decide)) | (rename_i h _ _; exact absurd h (by decide)) | (rename_i h _ _ _; exact absurd h (by decide))
theorem State.setSlices_step {w : Nat} {s0 s : State} (v : SMap Slice) (hs : solid w = true) (hv : sub 0x200 w = true)
    (h : Keeps w s0 s) : Keeps w s0 (s.setSlices v) := (s.setSlices_keeps v).step hs hv h

theorem State.setRecords_keeps (s : State) (v : List SaveRecord) : Keeps 0x400 s (s.setRecords v) := by
  constructor <;> intros <;> first | rfl | assumption | exact ⟨rfl, fun _ _ => rfl⟩ | (rename_i h; exact absurd h (by decide)) | (rename_i h _ _; exact absurd h (by decide)) | (rename_i h _ _ _; exact absurd h (by decide))
theorem State.setRecords_step {w : Nat} {s0 s : State} (v : List SaveRecord) (hs : solid w = true) (hv : sub 0x400 w = true)
    (h : Keeps w s0 s) : Keeps w s0 (s.setRecords v) := (s.setRecords_keeps v).step hs hv h

theorem State.setPolarity_keeps (s : State) (v : List (Nat × Nat × Nat)) : Keeps 0x800 s (s.setPolarity v) := by
  constructor <;> intros <;> first | rfl | assumption | exact ⟨rfl, fun _ _ => rfl⟩ | (rename_i h; exact absurd h (by decide)) | (rename_i h _ _; exact absurd h (by decide)) | (rename_i h _ _ _; exact absurd h (by decide))
theorem State.setPolarity_step {w : Nat} {s0 s : State} (v : List (Nat × Nat × Nat)) (hs : solid w = true) (hv : sub 0x800 w = true)
    (h : Keeps w s0 s) : Keeps w s0 (s.setPolarity v) := (s.setPolarity_keeps v).step hs hv h

theorem State.setRequests_keeps (s : State) (v : List Request) : Keeps 0x1000 s (s.setRequests v) := by
  constructor <;> intros <;> first | rfl | assumption | exact ⟨rfl, fun _ _ => rfl⟩ | (rename_i h; exact absurd h (by decide)) | (rename_i h _ _; exact absurd h (by decide)) | (rename_i h _ _ _; exact absurd h (by decide))
theorem State.setRequests_step {w : Nat} {s0 s : State} (v : List Request) (hs : solid w = true) (hv : sub 0x1000 w = true)
    (h : Keeps w s0 s) : Keeps w s0 (s.setRequests v) := (s.setRequests_keeps v).step hs hv h

theorem State.setSec_keeps (s : State) (v : Sec) : Keeps 0x2000 s (s.setSec v) := by
  constructor <;> intros <;> first | rfl | assumption | exact ⟨rfl, fun _ _ => rfl⟩ | (rename_i h; exact absurd h (by decide)) | (rename_i h _ _; exact absurd h (by decide)) | (rename_i h _ _ _; exact absurd h (by decide))
theorem State.setSec_step {w : Nat} {s0 s : State} (v : Sec) (hs : solid w = true) (hv : sub 0x2000 w = true)
    (h : Keeps w s0 s) : Keeps w s0 (s.setSec v) := (s.setSec_keeps v).step hs hv h

theorem State.setDecoders_keeps (s : State) (v : SMap Decoder) : Keeps 0x4000 s (s.setDecoders v) := by
  constructor <;> intros <;> first | rfl | assumption | exact ⟨rfl, fun _ _ => rfl⟩ | (rename_i h; exact absurd h (by decide)) | (rename_i h _ _; exact absurd h (by decide)) | (rename_i h _ _ _; exact absurd h (by decide))
theorem State.setDecoders_step {w : Nat} {s0 s : State} (v : SMap Decoder) (hs : solid w = true) (hv : sub 0x4000 w = true)
    (h : Keeps w s0 s) : Keeps w s0 (s.setDecoders v) := (s.setDecoders_keeps v).step hs hv h

theorem State.setHostRuns_keeps (s : State) (v : SMap HostRun) : Keeps 0x8000 s (s.setHostRuns v) := by
  constructor <;> intros <;> first | rfl | assumption | exact ⟨rfl, fun _ _ => rfl⟩ | (rename_i h; exact absurd h (by decide)) | (rename_i h _ _; exact absurd h (by decide)) | (rename_i h _ _ _; exact absurd h (by decide))
theorem State.setHostRuns_step {w : Nat} {s0 s : State} (v : SMap HostRun) (hs : solid w = true) (hv : sub 0x8000 w = true)
    (h : Keeps w s0 s) : Keeps w s0 (s.setHostRuns v) := (s.setHostRuns_keeps v).step hs hv h

theorem State.setAwning_keeps (s : State) (v : SMap Awning) : Keeps 0x10000 s (s.setAwning v) := by
  constructor <;> intros <;> first | rfl | assumption | exact ⟨rfl, fun _ _ => rfl⟩ | (rename_i h; exact absurd h (by decide)) | (rename_i h _ _; exact absurd h (by decide)) | (rename_i h _ _ _; exact absurd h (by decide))
theorem State.setAwning_step {w : Nat} {s0 s : State} (v : SMap Awning) (hs : solid w = true) (hv : sub 0x10000 w = true)
    (h : Keeps w s0 s) : Keeps w s0 (s.setAwning v) := (s.setAwning_keeps v).step hs hv h

theorem State.setLantern_keeps (s : State) (v : Lantern) : Keeps 0x20000 s (s.setLantern v) := by
  constructor <;> intros <;> first | rfl | assumption | exact ⟨rfl, fun _ _ => rfl⟩ | (rename_i h; exact absurd h (by decide)) | (rename_i h _ _; exact absurd h (by decide)) | (rename_i h _ _ _; exact absurd h (by decide))
theorem State.setLantern_step {w : Nat} {s0 s : State} (v : Lantern) (hs : solid w = true) (hv : sub 0x20000 w = true)
    (h : Keeps w s0 s) : Keeps w s0 (s.setLantern v) := (s.setLantern_keeps v).step hs hv h

theorem State.setHif_keeps (s : State) (v : Hif) : Keeps 0x40000 s (s.setHif v) := by
  constructor <;> intros <;> first | rfl | assumption | exact ⟨rfl, fun _ _ => rfl⟩ | (rename_i h; exact absurd h (by decide)) | (rename_i h _ _; exact absurd h (by decide)) | (rename_i h _ _ _; exact absurd h (by decide))
theorem State.setHif_step {w : Nat} {s0 s : State} (v : Hif) (hs : solid w = true) (hv : sub 0x40000 w = true)
    (h : Keeps w s0 s) : Keeps w s0 (s.setHif v) := (s.setHif_keeps v).step hs hv h

theorem State.setPit_keeps (s : State) (v : Pit) : Keeps 0x80000 s (s.setPit v) := by
  constructor <;> intros <;> first | rfl | assumption | exact ⟨rfl, fun _ _ => rfl⟩ | (rename_i h; exact absurd h (by decide)) | (rename_i h _ _; exact absurd h (by decide)) | (rename_i h _ _ _; exact absurd h (by decide))
theorem State.setPit_step {w : Nat} {s0 s : State} (v : Pit) (hs : solid w = true) (hv : sub 0x80000 w = true)
    (h : Keeps w s0 s) : Keeps w s0 (s.setPit v) := (s.setPit_keeps v).step hs hv h

theorem State.setHlt_keeps (s : State) (v : Hlt) : Keeps 0x100000 s (s.setHlt v) := by
  constructor <;> intros <;> first | rfl | assumption | exact ⟨rfl, fun _ _ => rfl⟩ | (rename_i h; exact absurd h (by decide)) | (rename_i h _ _; exact absurd h (by decide)) | (rename_i h _ _ _; exact absurd h (by decide))
theorem State.setHlt_step {w : Nat} {s0 s : State} (v : Hlt) (hs : solid w = true) (hv : sub 0x100000 w = true)
    (h : Keeps w s0 s) : Keeps w s0 (s.setHlt v) := (s.setHlt_keeps v).step hs hv h

theorem State.setGuy_keeps (s : State) (v : Guy) : Keeps 0x400000 s (s.setGuy v) := by
  constructor <;> intros <;> first | rfl | assumption | exact ⟨rfl, fun _ _ => rfl⟩ | (rename_i h; exact absurd h (by decide)) | (rename_i h _ _; exact absurd h (by decide)) | (rename_i h _ _ _; exact absurd h (by decide))
theorem State.setGuy_step {w : Nat} {s0 s : State} (v : Guy) (hs : solid w = true) (hv : sub 0x400000 w = true)
    (h : Keeps w s0 s) : Keeps w s0 (s.setGuy v) := (s.setGuy_keeps v).step hs hv h

theorem State.setCxp_keeps (s : State) (v : Cxp) : Keeps 0x800000 s (s.setCxp v) := by
  constructor <;> intros <;> first | rfl | assumption | exact ⟨rfl, fun _ _ => rfl⟩ | (rename_i h; exact absurd h (by decide)) | (rename_i h _ _; exact absurd h (by decide)) | (rename_i h _ _ _; exact absurd h (by decide))
theorem State.setCxp_step {w : Nat} {s0 s : State} (v : Cxp) (hs : solid w = true) (hv : sub 0x800000 w = true)
    (h : Keeps w s0 s) : Keeps w s0 (s.setCxp v) := (s.setCxp_keeps v).step hs hv h

theorem State.setCab_keeps (s : State) (v : Cab) : Keeps 0x1000000 s (s.setCab v) := by
  constructor <;> intros <;> first | rfl | assumption | exact ⟨rfl, fun _ _ => rfl⟩ | (rename_i h; exact absurd h (by decide)) | (rename_i h _ _; exact absurd h (by decide)) | (rename_i h _ _ _; exact absurd h (by decide))
theorem State.setCab_step {w : Nat} {s0 s : State} (v : Cab) (hs : solid w = true) (hv : sub 0x1000000 w = true)
    (h : Keeps w s0 s) : Keeps w s0 (s.setCab v) := (s.setCab_keeps v).step hs hv h

theorem State.setTrl_keeps (s : State) (v : Trl) : Keeps 0x2000000 s (s.setTrl v) := by
  constructor <;> intros <;> first | rfl | assumption | exact ⟨rfl, fun _ _ => rfl⟩ | (rename_i h; exact absurd h (by decide)) | (rename_i h _ _; exact absurd h (by decide)) | (rename_i h _ _ _; exact absurd h (by decide))
theorem State.setTrl_step {w : Nat} {s0 s : State} (v : Trl) (hs : solid w = true) (hv : sub 0x2000000 w = true)
    (h : Keeps w s0 s) : Keeps w s0 (s.setTrl v) := (s.setTrl_keeps v).step hs hv h

theorem State.setTap_keeps (s : State) (v : Tap) : Keeps 0x4000000 s (s.setTap v) := by
  constructor <;> intros <;> first | rfl | assumption | exact ⟨rfl, fun _ _ => rfl⟩ | (rename_i h; exact absurd h (by decide)) | (rename_i h _ _; exact absurd h (by decide)) | (rename_i h _ _ _; exact absurd h (by decide))
theorem State.setTap_step {w : Nat} {s0 s : State} (v : Tap) (hs : solid w = true) (hv : sub 0x4000000 w = true)
    (h : Keeps w s0 s) : Keeps w s0 (s.setTap v) := (s.setTap_keeps v).step hs hv h

theorem State.setWheel_keeps (s : State) (v : SMap Nat) : Keeps 0x8000000 s (s.setWheel v) := by
  constructor <;> intros <;> first | rfl | assumption | exact ⟨rfl, fun _ _ => rfl⟩ | (rename_i h; exact absurd h (by decide)) | (rename_i h _ _; exact absurd h (by decide)) | (rename_i h _ _ _; exact absurd h (by decide))
theorem State.setWheel_step {w : Nat} {s0 s : State} (v : SMap Nat) (hs : solid w = true) (hv : sub 0x8000000 w = true)
    (h : Keeps w s0 s) : Keeps w s0 (s.setWheel v) := (s.setWheel_keeps v).step hs hv h

theorem State.setResp_keeps (s : State) (v : SMap Resp) : Keeps 0x10000000 s (s.setResp v) := by
  constructor <;> intros <;> first | rfl | assumption | exact ⟨rfl, fun _ _ => rfl⟩ | (rename_i h; exact absurd h (by decide)) | (rename_i h _ _; exact absurd h (by decide)) | (rename_i h _ _ _; exact absurd h (by decide))
theorem State.setResp_step {w : Nat} {s0 s : State} (v : SMap Resp) (hs : solid w = true) (hv : sub 0x10000000 w = true)
    (h : Keeps w s0 s) : Keeps w s0 (s.setResp v) := (s.setResp_keeps v).step hs hv h

theorem State.setOut_keeps (s : State) (v : List Emission) : Keeps 0x20000000 s (s.setOut v) := by
  constructor <;> intros <;> first | rfl | assumption | exact ⟨rfl, fun _ _ => rfl⟩ | (rename_i h; exact absurd h (by decide)) | (rename_i h _ _; exact absurd h (by decide)) | (rename_i h _ _ _; exact absurd h (by decide))
theorem State.setOut_step {w : Nat} {s0 s : State} (v : List Emission) (hs : solid w = true) (hv : sub 0x20000000 w = true)
    (h : Keeps w s0 s) : Keeps w s0 (s.setOut v) := (s.setOut_keeps v).step hs hv h

theorem State.setFresh_keeps (s : State) (v : Nat) : Keeps 0x40000000 s (s.setFresh v) := by
  constructor <;> intros <;> first | rfl | assumption | exact ⟨rfl, fun _ _ => rfl⟩ | (rename_i h; exact absurd h (by decide)) | (rename_i h _ _; exact absurd h (by decide)) | (rename_i h _ _ _; exact absurd h (by decide))
theorem State.setFresh_step {w : Nat} {s0 s : State} (v : Nat) (hs : solid w = true) (hv : sub 0x40000000 w = true)
    (h : Keeps w s0 s) : Keeps w s0 (s.setFresh v) := (s.setFresh_keeps v).step hs hv h


theorem State.inOrder_of {s t : State} (ha : t.active = s.active) (hn : t.sch.next = s.sch.next) (h : s.inOrder) :
    t.inOrder := by
  unfold State.inOrder
  rw [ha, hn]; exact h

theorem State.inOrder_idle {s : State} (h : s.runs = []) : s.inOrder := by simp [State.inOrder, State.active, h]

/-- Runs replaced one by one: the same stakes are active. -/
theorem State.setRuns_same (s : State) (v : List Run) (h : (v.map fun r => r.stake.idx) = s.active) :
    Keeps 0x80 s (s.setRuns v) := by
  constructor <;> intros <;> first | rfl | exact h | assumption | (refine State.inOrder_of (s := s) h rfl ?_; assumption) | exact ⟨rfl, fun _ _ => rfl⟩ | (rename_i h; exact absurd h (by decide))

theorem State.setRuns_sameStep {w : Nat} {s0 s : State} (v : List Run) (h : (v.map fun r => r.stake.idx) = s.active)
    (hs : solid w = true) (hv : sub 0x80 w = true) (hk : Keeps w s0 s) : Keeps w s0 (s.setRuns v) :=
  (s.setRuns_same v h).step hs hv hk

/-- Some stakes are active no more; those that stay keep their order. -/
theorem State.setRuns_sub (s : State) (v : List Run) (h : v.Sublist s.runs) : Keeps 0x4000000080 s (s.setRuns v) := by
  constructor <;> intros <;> first | rfl | assumption | exact ⟨rfl, fun _ _ => rfl⟩ | (rename_i h; exact absurd h (by decide)) | (rename_i h _ _; exact absurd h (by decide)) | (rename_i h _ _ _; exact absurd h (by decide)) | skip
  rename_i o
  have k : (s.setRuns v).active.Sublist s.active := h.map _
  exact ⟨o.1.sublist k, fun i hi => o.2 i (k.subset hi)⟩

/-- SCH goes on in its cycle with the same stake next. -/
theorem State.setSch_nextStep {w : Nat} {s0 s : State} (v : Sch) (h : v.next = s.sch.next) (hs : solid w = true)
    (hv : sub 0x8000000040 w = true) (hk : Keeps w s0 s) : Keeps w s0 (s.setSch v) := by
  refine Keeps.step (v := 0x8000000040) ?_ hs hv hk
  constructor <;> intros <;> first | rfl | assumption | exact ⟨rfl, fun _ _ => rfl⟩ | (refine State.inOrder_of (s := s) rfl h ?_; assumption) | (rename_i h; exact absurd h (by decide)) | (rename_i h _ _; exact absurd h (by decide)) | (rename_i h _ _ _; exact absurd h (by decide))

/-- The same, with the new value field by field. -/
theorem State.setSch_mkStep {w : Nat} {s0 s : State} {n : Nat} {check startAt swapAt lastBoundary latches railPorts railStakes
    capPorts replan} (h : n = s.sch.next) (hs : solid w = true) (hv : sub 0x8000000040 w = true) (hk : Keeps w s0 s) :
    Keeps w s0 (s.setSch ⟨n, check, startAt, swapAt, lastBoundary, latches, railPorts, railStakes, capPorts, replan⟩) :=
  State.setSch_nextStep _ h hs hv hk

/-- A frame in which no stake starts and none is active keeps their order. -/
theorem Keeps.ordered {v w : Nat} {s t : State} (h : Keeps v s t) (hv : sub v (w ||| 0x100000000) = true)
    (ho : s.inOrder → t.inOrder) : Keeps w s t := by
  have key : ∀ {i : Nat}, (0x100000000 : Nat).testBit i = false → w.testBit i = false → v.testBit i = false := by
    intro i hi hw
    apply sub_bit hv
    rw [Nat.testBit_or, hi, hw, Bool.or_false]
  have up : w.testBit 63 = false ∨ t.boot.seq = none → v.testBit 63 = false ∨ t.boot.seq = none :=
    Or.imp_left (key (by decide))
  exact {
    pending := h.pending
    wfRegs := h.wfRegs
    wfMem := h.wfMem
    wfEcc := h.wfEcc
    wfFlash := h.wfFlash
    up := fun g => h.up (key (by decide) g)
    order := fun _ => ho
    mem := fun hr g => h.mem (up hr) (key (by decide) g)
    pool := fun hr g => h.pool (up hr) (key (by decide) g)
    inner := fun hr g => h.inner (up hr) (key (by decide) g)
    tables := fun hr g => h.tables (up hr) (key (by decide) g)
    ring := fun hr g => h.ring (up hr) (key (by decide) g)
    busy := fun hr g => h.busy (up hr) (key (by decide) g)
    clock := fun hr g => h.clock (up hr) (key (by decide) g)
    ecc := fun hr g => h.ecc (up hr) (key (by decide) g)
    bufs := fun hr g => h.bufs (up hr) (key (by decide) g)
    fifos := fun hr g => h.fifos (up hr) (key (by decide) g)
    boot := fun hr g => h.boot (up hr) (key (by decide) g)
    sch := fun hr g => h.sch (up hr) (key (by decide) g)
    runs := fun hr g => h.runs (up hr) (key (by decide) g)
    ports := fun hr g => h.ports (up hr) (key (by decide) g)
    slices := fun hr g => h.slices (up hr) (key (by decide) g)
    records := fun hr g => h.records (up hr) (key (by decide) g)
    polarity := fun hr g => h.polarity (up hr) (key (by decide) g)
    requests := fun hr g => h.requests (up hr) (key (by decide) g)
    sec := fun hr g => h.sec (up hr) (key (by decide) g)
    decoders := fun hr g => h.decoders (up hr) (key (by decide) g)
    hostRuns := fun hr g => h.hostRuns (up hr) (key (by decide) g)
    awning := fun hr g => h.awning (up hr) (key (by decide) g)
    lantern := fun hr g => h.lantern (up hr) (key (by decide) g)
    hif := fun hr g => h.hif (up hr) (key (by decide) g)
    pit := fun hr g => h.pit (up hr) (key (by decide) g)
    hlt := fun hr g => h.hlt (up hr) (key (by decide) g)
    flash := fun hr g => h.flash (up hr) (key (by decide) g)
    guy := fun hr g => h.guy (up hr) (key (by decide) g)
    cxp := fun hr g => h.cxp (up hr) (key (by decide) g)
    cab := fun hr g => h.cab (up hr) (key (by decide) g)
    trl := fun hr g => h.trl (up hr) (key (by decide) g)
    tap := fun hr g => h.tap (up hr) (key (by decide) g)
    wheel := fun hr g => h.wheel (up hr) (key (by decide) g)
    resp := fun hr g => h.resp (up hr) (key (by decide) g)
    out := fun hr g => h.out (up hr) (key (by decide) g)
    fresh := fun hr g => h.fresh (up hr) (key (by decide) g)
    stakes := fun hr g => h.stakes (up hr) (key (by decide) g)
    cycle := fun hr g => h.cycle (up hr) (key (by decide) g)
    regs := fun hr off g => h.regs (up hr) off (key (by
      have h1 := regWindow_lt off
      generalize 32 + regWindow off = b at h1
      obtain ⟨h1, h2⟩ := h1
      interval_cases b <;> first | decide | contradiction) g) }

/-- What happens with no stake active, and is nothing with one, keeps the order of the stakes. -/
theorem Keeps.idle {v w : Nat} {s t : State} (h : Keeps v s t) (hv : sub v (w ||| 0x100000000) = true)
    (hr : v.testBit 63 = false) (hs : v.testBit 38 = false) (ht : s.runs ≠ [] → t = s) : Keeps w s t := by
  refine h.ordered hv fun o => ?_
  by_cases hn : s.runs = []
  · have k : t.active = [] := by rw [h.stakes (.inl hr) hs]; simp [State.active, hn]
    simp [State.inOrder, k]
  · rw [ht hn]; exact o

/-- What a cycle collects changes. -/
theorem State.setSch_same (s : State) (v : Sch) (h : v.cycle = s.sch.cycle) : Keeps 0x40 s (s.setSch v) := by
  constructor <;> intros <;> first | rfl | exact h | assumption | (refine State.inOrder_of (s := s) rfl (congrArg Prod.fst h) ?_; assumption) | exact ⟨rfl, fun _ _ => rfl⟩ | (rename_i h; exact absurd h (by decide))
theorem State.setSch_sameStep {w : Nat} {s0 s : State} (v : Sch) (h : v.cycle = s.sch.cycle) (hs : solid w = true)
    (hv : sub 0x40 w = true) (hk : Keeps w s0 s) : Keeps w s0 (s.setSch v) := (s.setSch_same v h).step hs hv hk

theorem State.setBoot_keeps (s : State) (v : Boot) (h : v.seq = none → s.boot.seq = none) : Keeps 0x20 s (s.setBoot v) := by
  constructor <;> intros <;> first | rfl | assumption | exact ⟨rfl, fun _ _ => rfl⟩ | (apply h; assumption) | (rename_i h; exact absurd h (by decide)) | (rename_i h _ _; exact absurd h (by decide)) | (rename_i h _ _ _; exact absurd h (by decide))

theorem State.setBoot_keeps_up (s : State) (v : Boot) : Keeps 0x4000000000000020 s (s.setBoot v) := by
  constructor <;> intros <;> first | rfl | assumption | exact ⟨rfl, fun _ _ => rfl⟩ | (rename_i h; exact absurd h (by decide)) | (rename_i h _ _; exact absurd h (by decide)) | (rename_i h _ _ _; exact absurd h (by decide)) | (rename_i h _; exact absurd h (by decide))

theorem State.setMem_keeps (s : State) (v : SMap Byte)
    (h : SMap.wf (fun _ => (0 : Byte)) s.mem = true → SMap.wf (fun _ => (0 : Byte)) v = true) : Keeps 0x2000160080000002 s (s.setMem v) := by
  constructor <;> intros <;> first | rfl | assumption | exact ⟨rfl, fun _ _ => rfl⟩ | (apply h; assumption) | (rename_i h; exact absurd h (by decide)) | (rename_i h _ _; exact absurd h (by decide)) | (rename_i h _ _ _; exact absurd h (by decide))

theorem State.setEcc_keeps (s : State) (v : SMap Word)
    (h : SMap.wf (fun _ => (0 : Word)) s.ecc = true → SMap.wf (fun _ => (0 : Word)) v = true) : Keeps 0x4 s (s.setEcc v) := by
  constructor <;> intros <;> first | rfl | assumption | exact ⟨rfl, fun _ _ => rfl⟩ | (apply h; assumption) | (rename_i h; exact absurd h (by decide)) | (rename_i h _ _; exact absurd h (by decide)) | (rename_i h _ _ _; exact absurd h (by decide))

theorem State.setFlash_keeps (s : State) (v : SMap Byte)
    (h : SMap.wf (fun _ => (0xFF : Byte)) s.flash = true → SMap.wf (fun _ => (0xFF : Byte)) v = true) :
    Keeps 0x200000 s (s.setFlash v) := by
  constructor <;> intros <;> first | rfl | assumption | exact ⟨rfl, fun _ _ => rfl⟩ | (apply h; assumption) | (rename_i h; exact absurd h (by decide)) | (rename_i h _ _; exact absurd h (by decide)) | (rename_i h _ _ _; exact absurd h (by decide))

theorem State.setBoot_step {w : Nat} {s0 s : State} (v : Boot) (h : v.seq = none → s.boot.seq = none)
    (hs : solid w = true) (hv : sub 0x20 w = true) (hk : Keeps w s0 s) : Keeps w s0 (s.setBoot v) :=
  (s.setBoot_keeps v h).step hs hv hk

theorem State.setBoot_upStep {w : Nat} {s0 s : State} (v : Boot) (hs : solid w = true)
    (hv : sub 0x4000000000000020 w = true) (hk : Keeps w s0 s) : Keeps w s0 (s.setBoot v) :=
  (s.setBoot_keeps_up v).step hs hv hk

theorem State.setMem_step {w : Nat} {s0 s : State} (v : SMap Byte)
    (h : SMap.wf (fun _ => (0 : Byte)) s.mem = true → SMap.wf (fun _ => (0 : Byte)) v = true)
    (hs : solid w = true) (hv : sub 0x2000160080000002 w = true) (hk : Keeps w s0 s) : Keeps w s0 (s.setMem v) :=
  (s.setMem_keeps v h).step hs hv hk

theorem State.setEcc_step {w : Nat} {s0 s : State} (v : SMap Word)
    (h : SMap.wf (fun _ => (0 : Word)) s.ecc = true → SMap.wf (fun _ => (0 : Word)) v = true)
    (hs : solid w = true) (hv : sub 0x4 w = true) (hk : Keeps w s0 s) : Keeps w s0 (s.setEcc v) :=
  (s.setEcc_keeps v h).step hs hv hk

theorem State.setFlash_step {w : Nat} {s0 s : State} (v : SMap Byte)
    (h : SMap.wf (fun _ => (0xFF : Byte)) s.flash = true → SMap.wf (fun _ => (0xFF : Byte)) v = true)
    (hs : solid w = true) (hv : sub 0x200000 w = true) (hk : Keeps w s0 s) : Keeps w s0 (s.setFlash v) :=
  (s.setFlash_keeps v h).step hs hv hk

/-- Storing one register changes that register alone. -/
theorem State.reg_setReg (s : State) (off off' : Nat) (v : Word) :
    (s.setReg off v).reg off' = if off' = off then v else s.reg off' := by
  simp only [State.reg, State.setReg, State.setRegs_regs]
  by_cases h : off' = off
  · subst h; rw [SMap.look_put_self, if_pos rfl]
  · rw [SMap.look_put_ne _ _ _ _ _ h, if_neg h]

theorem State.setReg_keeps {b w : Nat} (s : State) (off : Nat) (v : Word) (hb : regWindow off = b)
    (hw : w.testBit (32 + b) = true) : Keeps w s (s.setReg off v) where
  pending := rfl
  wfRegs h := SMap.wf_put resetWord _ _ _ h
  wfMem := id
  wfEcc := id
  wfFlash := id
  up _ := id
  order _ := id
  mem _ _ _ _ := rfl
  pool _ _ _ _ := rfl
  inner _ _ _ _ := rfl
  tables _ _ _ _ := rfl
  ring _ _ _ _ := rfl
  busy _ _ _ _ _ := ⟨rfl, fun _ _ => rfl⟩
  clock _ _ := rfl
  ecc _ _ := rfl
  bufs _ _ := rfl
  fifos _ _ := rfl
  boot _ _ := rfl
  sch _ _ := rfl
  runs _ _ := rfl
  ports _ _ := rfl
  slices _ _ := rfl
  records _ _ := rfl
  polarity _ _ := rfl
  requests _ _ := rfl
  sec _ _ := rfl
  decoders _ _ := rfl
  hostRuns _ _ := rfl
  awning _ _ := rfl
  lantern _ _ := rfl
  hif _ _ := rfl
  pit _ _ := rfl
  hlt _ _ := rfl
  flash _ _ := rfl
  guy _ _ := rfl
  cxp _ _ := rfl
  cab _ _ := rfl
  trl _ _ := rfl
  tap _ _ := rfl
  wheel _ _ := rfl
  resp _ _ := rfl
  out _ _ := rfl
  fresh _ _ := rfl
  stakes _ _ := rfl
  cycle _ _ := rfl
  regs _ off' h := by
    rw [State.reg_setReg]; split
    · subst_vars; rw [hw] at h; cases h
    · rfl

theorem Keeps.setReg {b w : Nat} {s t : State} {off : Nat} {v : Word} (hb : regWindow off = b)
    (hw : w.testBit (32 + b) = true) (hs : solid w = true) (h : Keeps w s t) : Keeps w s (t.setReg off v) :=
  h.trans hs (t.setReg_keeps off _ hb hw)

theorem Keeps.setFld {b w : Nat} {s t : State} {off : Nat} {f : Fld} {v : Nat} (hb : regWindow off = b)
    (hw : w.testBit (32 + b) = true) (hs : solid w = true) (h : Keeps w s t) : Keeps w s (t.setFld off f v) :=
  h.trans hs (t.setReg_keeps off _ hb hw)

theorem Keeps.setBit {b w : Nat} {s t : State} {off : Nat} {f : Fld} {v : Bool} (hb : regWindow off = b)
    (hw : w.testBit (32 + b) = true) (hs : solid w = true) (h : Keeps w s t) : Keeps w s (t.setBit off f v) := by
  cases v
  · exact h.trans hs (t.setReg_keeps off _ hb hw)
  · exact State.setTick_step _ hs (zero_sub w) (h.trans hs (t.setReg_keeps off _ hb hw))

theorem Keeps.bump {b w : Nat} {s t : State} {off : Nat} {f : Fld} (hb : regWindow off = b)
    (hw : w.testBit (32 + b) = true) (hs : solid w = true) (h : Keeps w s t) : Keeps w s (t.bump off f) :=
  h.trans hs (t.setReg_keeps off _ hb hw)

theorem Keeps.bumpSat {b w : Nat} {s t : State} {off : Nat} {f : Fld} {n : Nat} (hb : regWindow off = b)
    (hw : w.testBit (32 + b) = true) (hs : solid w = true) (h : Keeps w s t) : Keeps w s (t.bumpSat off f n) :=
  h.trans hs (t.setReg_keeps off _ hb hw)

theorem Keeps.setCfg {b w : Nat} {s t : State} {off : Nat} {v : Word} (hb : regWindow off = b)
    (hw : w.testBit (32 + b) = true) (hs : solid w = true) (hk : sub 0x0 w = true) (h : Keeps w s t) :
    Keeps w s (t.setCfg off v) := by
  unfold State.setCfg
  split
  · exact Keeps.setReg hb hw hs h
  · exact State.setTick_step _ hs hk h

theorem Keeps.hostWrite {b w : Nat} {s t : State} {off : Nat} {v : Word} (hb : regWindow off = b)
    (hw : w.testBit (32 + b) = true) (hs : solid w = true) (h : Keeps w s t) : Keeps w s (t.hostWrite off v) := by
  unfold State.hostWrite State.writeReg
  split
  · exact h
  · refine Keeps.setReg hb hw hs ?_
    unfold State.noteWrote
    split
    · exact h
    · exact State.setTick_step _ hs (zero_sub w) h

/-- The mask of every register window. -/
def anyReg : Nat := 0x1FFFE93E00000000

theorem anyReg_bit (off : Nat) : anyReg.testBit (32 + regWindow off) = true := by
  have h : regWindow off < 29 ∧ regWindow off ≠ 0 ∧ regWindow off ≠ 6 ∧ regWindow off ≠ 7 ∧ regWindow off ≠ 9 ∧ regWindow off ≠ 10 ∧ regWindow off ≠ 12 := by
    unfold regWindow; split_ifs <;> omega
  generalize regWindow off = b at h
  obtain ⟨h, h2, h3, h4, h5, h6, h7⟩ := h
  interval_cases b <;> first | decide | contradiction

theorem State.setReg_any (s : State) (off : Nat) (v : Word) : Keeps anyReg s (s.setReg off v) :=
  s.setReg_keeps off v rfl (anyReg_bit off)


theorem State.setReg_anyStep {w : Nat} {s0 s : State} (off : Nat) (v : Word) (hs : solid w = true)
    (hv : sub anyReg w = true) (h : Keeps w s0 s) : Keeps w s0 (s.setReg off v) := (s.setReg_any off v).step hs hv h

/-- The bits of the parts of the state. -/
def partBits : List (Nat × Part) :=
  [(0, .clock),
   (1, .mem),
   (2, .ecc),
   (3, .bufs),
   (4, .fifos),
   (5, .boot),
   (6, .sch),
   (7, .runs),
   (8, .ports),
   (9, .slices),
   (10, .records),
   (11, .polarity),
   (12, .requests),
   (13, .sec),
   (14, .decoders),
   (15, .hostRuns),
   (16, .awning),
   (17, .lantern),
   (18, .hif),
   (19, .pit),
   (20, .hlt),
   (21, .flash),
   (22, .guy),
   (23, .cxp),
   (24, .cab),
   (25, .trl),
   (26, .tap),
   (27, .wheel),
   (28, .resp),
   (29, .out),
   (30, .fresh),
   (41, .pool),
   (42, .tables),
   (61, .inner),
   (44, .ring),
   (31, .busy),
   (38, .stakes),
   (39, .cycle)] ++
    ((List.range 29).filter fun b => b ≠ 0 ∧ b ≠ 6 ∧ b ≠ 7 ∧ b ≠ 9 ∧ b ≠ 10 ∧ b ≠ 12).map fun b => (32 + b, .regs b)

/-- A list of parts holds every part of a mask. -/
def covers (w : Nat) (l : List Part) : Bool := partBits.all fun x => !w.testBit x.1 || l.contains x.2

theorem Keeps.sameBut {w : Nat} {s t : State} (h : Keeps w s t) (hr : w.testBit 63 = false ∨ t.boot.seq = none)
    (l : List Part) (hl : covers w l = true := by rfl) : sameBut l s t := by
  have key : ∀ {i : Nat} {p : Part}, (i, p) ∈ partBits → p ∉ l → w.testBit i = false := by
    intro i p hm hp
    have := List.all_eq_true.mp hl _ hm
    cases hi : w.testBit i with
    | false => rfl
    | true =>
      rw [hi] at this
      exact absurd (List.contains_iff_mem.mp (by simpa using this)) hp
  intro p hp
  cases p with
  | clock => exact h.clock hr (key (by decide) hp)
  | mem => exact h.mem hr (key (by decide) hp)
  | ecc => intro a; simp only [State.upset, h.ecc hr (key (by decide) hp)]
  | bufs => exact h.bufs hr (key (by decide) hp)
  | fifos => exact h.fifos hr (key (by decide) hp)
  | boot => exact h.boot hr (key (by decide) hp)
  | sch => exact h.sch hr (key (by decide) hp)
  | runs => exact h.runs hr (key (by decide) hp)
  | ports => exact h.ports hr (key (by decide) hp)
  | slices => exact h.slices hr (key (by decide) hp)
  | records => exact h.records hr (key (by decide) hp)
  | polarity => exact h.polarity hr (key (by decide) hp)
  | requests => exact h.requests hr (key (by decide) hp)
  | sec => exact h.sec hr (key (by decide) hp)
  | decoders => exact h.decoders hr (key (by decide) hp)
  | hostRuns => exact h.hostRuns hr (key (by decide) hp)
  | awning => exact h.awning hr (key (by decide) hp)
  | lantern => exact h.lantern hr (key (by decide) hp)
  | hif => exact h.hif hr (key (by decide) hp)
  | pit => exact h.pit hr (key (by decide) hp)
  | hlt => exact h.hlt hr (key (by decide) hp)
  | flash => exact h.flash hr (key (by decide) hp)
  | guy => exact h.guy hr (key (by decide) hp)
  | cxp => exact h.cxp hr (key (by decide) hp)
  | cab => exact h.cab hr (key (by decide) hp)
  | trl => exact h.trl hr (key (by decide) hp)
  | tap => exact h.tap hr (key (by decide) hp)
  | wheel => exact h.wheel hr (key (by decide) hp)
  | resp => exact h.resp hr (key (by decide) hp)
  | out => exact h.out hr (key (by decide) hp)
  | fresh => exact h.fresh hr (key (by decide) hp)
  | pool => exact h.pool hr (key (by decide) hp)
  | tables => exact h.tables hr (key (by decide) hp)
  | inner => exact h.inner hr (key (by decide) hp)
  | ring => exact h.ring hr (key (by decide) hp)
  | busy => exact h.busy hr (key (by decide) hp)
  | stakes => exact h.stakes hr (key (by decide) hp)
  | cycle => exact h.cycle hr (key (by decide) hp)
  | regs b =>
    intro off hb
    apply h.regs hr
    rw [hb]
    by_cases h30 : b < 29
    · have h3 : b ≠ 0 ∧ b ≠ 6 ∧ b ≠ 7 ∧ b ≠ 9 ∧ b ≠ 10 ∧ b ≠ 12 := by rw [← hb]; unfold regWindow; split_ifs <;> omega
      refine key (List.mem_append_right _ (List.mem_map.mpr ⟨b, List.mem_filter.mpr ⟨List.mem_range.mpr h30, ?_⟩, rfl⟩)) hp
      exact decide_eq_true h3
    · exact absurd hb (by unfold regWindow; split_ifs <;> omega)


/-- A frame of Groundsheet found byte by byte takes the place of a coarser one. -/
theorem Keeps.cut {v w : Nat} {s t : State} (h : Keeps w s t) (hv : sub w (v ||| 0x2000160080000002) = true)
    (mem : v.testBit 1 = false → ∀ a, areaOf a = .mem → t.byte a = s.byte a)
    (pool : v.testBit 41 = false → ∀ a, areaOf a = .pool → t.byte a = s.byte a)
    (tables : v.testBit 42 = false → ∀ a, areaOf a = .tables → t.byte a = s.byte a)
    (inner : v.testBit 61 = false → ∀ a, areaOf a = .inner → t.byte a = s.byte a)
    (ring : v.testBit 44 = false → ∀ a, areaOf a = .ring → t.byte a = s.byte a)
    (busy : v.testBit 31 = false → ∀ b, b < 65536 → s.buf b ≠ .free →
      t.buf b = s.buf b ∧ ∀ i, i < 256 → t.byte (256 * b + i) = s.byte (256 * b + i)) : Keeps v s t := by
  have key : ∀ {i : Nat}, (0x2000160080000002 : Nat).testBit i = false → v.testBit i = false → w.testBit i = false := by
    intro i hi hv'
    apply sub_bit hv
    rw [Nat.testBit_or, hi, hv', Bool.or_false]
  have up : v.testBit 63 = false ∨ t.boot.seq = none → w.testBit 63 = false ∨ t.boot.seq = none :=
    Or.imp_left (key (by decide))
  exact {
    pending := h.pending
    wfRegs := h.wfRegs
    wfMem := h.wfMem
    wfEcc := h.wfEcc
    wfFlash := h.wfFlash
    up := fun g => h.up (key (by decide) g)
    order := fun g => h.order (key (by decide) g)
    mem := fun _ => mem
    pool := fun _ => pool
    tables := fun _ => tables
    inner := fun _ => inner
    ring := fun _ => ring
    busy := fun _ => busy
    clock := fun hr g => h.clock (up hr) (key (by decide) g)
    ecc := fun hr g => h.ecc (up hr) (key (by decide) g)
    bufs := fun hr g => h.bufs (up hr) (key (by decide) g)
    fifos := fun hr g => h.fifos (up hr) (key (by decide) g)
    boot := fun hr g => h.boot (up hr) (key (by decide) g)
    sch := fun hr g => h.sch (up hr) (key (by decide) g)
    runs := fun hr g => h.runs (up hr) (key (by decide) g)
    ports := fun hr g => h.ports (up hr) (key (by decide) g)
    slices := fun hr g => h.slices (up hr) (key (by decide) g)
    records := fun hr g => h.records (up hr) (key (by decide) g)
    polarity := fun hr g => h.polarity (up hr) (key (by decide) g)
    requests := fun hr g => h.requests (up hr) (key (by decide) g)
    sec := fun hr g => h.sec (up hr) (key (by decide) g)
    decoders := fun hr g => h.decoders (up hr) (key (by decide) g)
    hostRuns := fun hr g => h.hostRuns (up hr) (key (by decide) g)
    awning := fun hr g => h.awning (up hr) (key (by decide) g)
    lantern := fun hr g => h.lantern (up hr) (key (by decide) g)
    hif := fun hr g => h.hif (up hr) (key (by decide) g)
    pit := fun hr g => h.pit (up hr) (key (by decide) g)
    hlt := fun hr g => h.hlt (up hr) (key (by decide) g)
    flash := fun hr g => h.flash (up hr) (key (by decide) g)
    guy := fun hr g => h.guy (up hr) (key (by decide) g)
    cxp := fun hr g => h.cxp (up hr) (key (by decide) g)
    cab := fun hr g => h.cab (up hr) (key (by decide) g)
    trl := fun hr g => h.trl (up hr) (key (by decide) g)
    tap := fun hr g => h.tap (up hr) (key (by decide) g)
    wheel := fun hr g => h.wheel (up hr) (key (by decide) g)
    resp := fun hr g => h.resp (up hr) (key (by decide) g)
    out := fun hr g => h.out (up hr) (key (by decide) g)
    fresh := fun hr g => h.fresh (up hr) (key (by decide) g)
    stakes := fun hr g => h.stakes (up hr) (key (by decide) g)
    cycle := fun hr g => h.cycle (up hr) (key (by decide) g)
    regs := fun hr off g => h.regs (up hr) off (key (by
      have h1 : regWindow off < 29 := by unfold regWindow; split_ifs <;> omega
      have h3 : regWindow off ≠ 0 ∧ regWindow off ≠ 6 ∧ regWindow off ≠ 7 ∧ regWindow off ≠ 9 ∧ regWindow off ≠ 10 ∧ regWindow off ≠ 12 := by unfold regWindow; split_ifs <;> omega
      generalize regWindow off = b at h1 h3
      obtain ⟨h2, h3, h4, h5, h6, h7⟩ := h3
      interval_cases b <;> first | decide | contradiction) g) }

end Sys2Proof.Machine
end

