-- ==== Sys2Proof/Laws/Pool.lean ====
section
/-! SUPPORT. Where writes of Groundsheet land: bytes, words, and the buffers of a chain; and where a pitch's free
buffers lie (R254, R261, R264). -/

namespace Sys2Proof.Machine

theorem State.byte_setByte (s : State) (a x : Nat) (b : Byte) :
    (s.setByte a b).byte x = if x = a then b else s.byte x := by
  unfold State.byte State.setByte
  simp only [State.setMem_mem]
  by_cases h : x = a
  · subst h; rw [SMap.look_put_self, if_pos rfl]
  · rw [SMap.look_put_ne _ _ _ _ _ h, if_neg h]

theorem State.byte_setBytes_out (l : List Byte) (s : State) (a x : Nat) (h : x < a ∨ a + l.length ≤ x) :
    (s.setBytes a l).byte x = s.byte x := by
  induction l generalizing s a with
  | nil => rfl
  | cons b l ih =>
    simp only [List.length_cons] at h
    show ((s.setByte a b).setBytes (a + 1) l).byte x = _
    rw [ih _ _ (by omega), State.byte_setByte, if_neg (by omega)]

theorem State.byte_of_mem {s t : State} (h : t.mem = s.mem) (x : Nat) : t.byte x = s.byte x := by
  unfold State.byte; rw [h]

theorem Word.bytes_length (w : Word) : (Word.bytes w).length = 8 := by simp [Word.bytes]

theorem State.byte_setWord_out (s : State) (a x : Nat) (w : Word) (h : x < a / 8 * 8 ∨ a / 8 * 8 + 8 ≤ x) :
    (s.setWord a w).byte x = s.byte x := by
  have k : ((s.setBytes (a / 8 * 8) (Word.bytes w)).setUpset a (s.injectMask a)).byte x = s.byte x :=
    (State.byte_of_mem rfl x).trans (s.byte_setBytes_out _ _ x (by rw [Word.bytes_length]; exact h))
  unfold State.setWord
  dsimp only
  split
  · exact (State.byte_of_mem rfl x).trans k
  · exact k

theorem State.byte_setWords_out (l : List Word) (s : State) (a x : Nat) (ha : 8 ∣ a) (h : x < a ∨ a + 8 * l.length ≤ x) :
    (s.setWords a l).byte x = s.byte x := by
  induction l generalizing s a with
  | nil => rfl
  | cons w l ih =>
    simp only [List.length_cons] at h
    show ((s.setWord a w).setWords (a + 8) l).byte x = _
    rw [ih _ _ (by omega) (by omega), State.byte_setWord_out _ _ _ _ (by omega)]

theorem bufWords_length (seed : Nat) (ws : List Word) (next : Option Nat) : (bufWords seed ws next).length = 32 := by
  simp [bufWords]; omega

theorem State.byte_writeChain_out (c : List Nat) (s : State) (ws : List Word) (x : Nat)
    (h : ∀ b ∈ c, x < 256 * b ∨ 256 * b + 256 ≤ x) : (s.writeChain c ws).byte x = s.byte x := by
  induction c generalizing s ws with
  | nil => rfl
  | cons b l ih =>
    show (((s.setWords (256 * b) (bufWords s.fresh ws l.head?)).skip (31 - ws.length)).writeChain l (ws.drop 31)).byte x = _
    rw [ih _ _ fun y hy => h y (List.mem_cons_of_mem _ hy)]
    refine (State.byte_of_mem (s := s.setWords (256 * b) (bufWords s.fresh ws l.head?)) rfl x).trans ?_
    apply State.byte_setWords_out
    · omega
    · rw [bufWords_length]; have := h b List.mem_cons_self; omega

theorem State.buf_setBufList (l : List Nat) (s : State) (x : BufState) {b : Nat} (h : b ∉ l) :
    (s.setBufList l x).buf b = s.buf b := by
  unfold State.setBufList State.each
  induction l generalizing s with
  | nil => rfl
  | cons y l ih =>
    rw [List.mem_cons, not_or] at h
    rw [List.foldl_cons, ih _ h.2]
    unfold State.buf State.setBuf
    simp only [State.setBufs_bufs]
    rw [SMap.look_put_ne _ _ _ _ _ h.1]

theorem State.mem_setBufList (l : List Nat) (s : State) (x : BufState) : (s.setBufList l x).mem = s.mem := by
  unfold State.setBufList State.each
  induction l generalizing s with
  | nil => rfl
  | cons y l ih => rw [List.foldl_cons, ih]; rfl

theorem pick_mem (n : Nat) (l : List Nat) (b : Nat) (h : pick n l = some b) : b ∈ l := by
  unfold pick at h
  split at h
  · cases h
  · simp only [Option.some.injEq] at h; subst h; simp
  · simp only [Option.some.injEq] at h
    subst h
    rename_i b0 l0 _
    rw [List.getD_eq_getElem?_getD]
    have hlt : Config.freeNat n % (l0.length + 1) < (b0 :: l0).length := by
      rw [List.length_cons]; exact Nat.mod_lt _ (Nat.succ_pos _)
    rw [List.getElem?_eq_getElem hlt]
    exact List.getElem_mem hlt

theorem pickMany_mem (seed n : Nat) (l c : List Nat) (h : pickMany seed n l = some c) : ∀ b ∈ c, b ∈ l := by
  induction n generalizing l c with
  | zero => simp only [pickMany, Option.some.injEq] at h; subst h; simp
  | succ n ih =>
    unfold pickMany at h
    split at h
    · cases h
    · rename_i b hb
      have hbl : b ∈ l := pick_mem _ _ _ hb
      obtain ⟨c', hc, rfl⟩ := Option.map_eq_some_iff.mp h
      intro y hy
      rcases List.mem_cons.mp hy with rfl | hy
      · exact hbl
      · exact (List.mem_filter.mp (ih _ _ hc y hy)).1

theorem State.regionsTo_le (s : State) (n : Nat) : ∀ x ∈ s.regionsTo n, x.2.2 ≤ 0x01000000 := by
  induction n with
  | zero => intro x hx; cases hx
  | succ n ih =>
    intro x hx
    unfold State.regionsTo at hx
    dsimp only at hx
    split at hx
    · rcases List.mem_append.mp hx with h | h
      · exact ih x h
      · rw [List.mem_singleton] at h; subst h; rename_i g; exact g.1
    · exact ih x hx

theorem State.region_le (s : State) (q : Nat) : (s.region q).2 ≤ 0x01000000 := by
  unfold State.region
  split
  · exact Nat.le_refl _
  · split
    · rename_i x h
      exact s.regionsTo_le 8 x (List.mem_of_find?_eq_some h)
    · exact Nat.zero_le _

theorem State.rangesTo_le (s : State) (n : Nat) : ∀ x ∈ s.rangesTo n, x.2.2 * 256 ≤ 0x01000000 := by
  induction n with
  | zero => intro x hx; cases hx
  | succ n ih =>
    intro x hx
    unfold State.rangesTo at hx
    dsimp only at hx
    split at hx
    · rcases List.mem_append.mp hx with h | h
      · exact ih x h
      · rw [List.mem_singleton] at h; subst h
        rename_i g
        have g1 := g.1
        simp only [inside, Bool.and_eq_true, decide_eq_true_eq] at g1
        exact Nat.le_trans g1.2 (s.region_le n)
    · exact ih x hx

theorem State.freeBufs_mem (s : State) (q : Nat) : ∀ b ∈ s.freeBufs q, s.buf b = .free ∧ b < 65536 := by
  intro b hb
  unfold State.freeBufs at hb
  split at hb
  · cases hb
  · rename_i r hr
    obtain ⟨hb, hf⟩ := List.mem_filter.mp hb
    obtain ⟨i, hi, rfl⟩ := List.mem_map.mp hb
    rw [List.mem_range] at hi
    refine ⟨of_decide_eq_true hf, ?_⟩
    unfold State.range at hr
    obtain ⟨x, hx, rfl⟩ := Option.map_eq_some_iff.mp hr
    have := s.rangesTo_le 9 x (List.mem_of_find?_eq_some hx)
    omega

theorem State.chainFor_mem (s : State) (n len : Nat) (c : List Nat) (h : s.chainFor n len = some c) :
    ∀ b ∈ c, s.buf b = .free ∧ b < 65536 := by
  unfold State.chainFor at h
  split at h
  · cases h
  · exact fun b hb => s.freeBufs_mem _ b (pickMany_mem _ _ _ _ h b hb)

/-- A frame of an operation that writes the bytes of buffers that were FREE, and nothing else of Groundsheet. -/
theorem Keeps.free {v w : Nat} {s t : State} {c : List Nat} (h : Keeps w s t) (hv : sub w (v ||| 0x2000160080000002) = true)
    (hp : v.testBit 41 = true) (hc : ∀ b ∈ c, s.buf b = .free ∧ b < 65536)
    (hm : ∀ x, (∀ b ∈ c, x < 256 * b ∨ 256 * b + 256 ≤ x) → t.byte x = s.byte x)
    (hb : ∀ b, b ∉ c → t.buf b = s.buf b) : Keeps v s t := by
  have out : ∀ x, areaOf x ≠ .pool → t.byte x = s.byte x := by
    intro x hx
    apply hm
    intro b hb
    have h1 := (hc b hb).2
    have h2 : ¬ x < 0x01000000 := fun h => hx (if_pos h)
    omega
  refine h.cut hv (fun _ a ha => out a ?_) (fun hn => ?_) (fun _ a ha => out a ?_) (fun _ a ha => out a ?_)
    (fun _ a ha => out a ?_) ?_
  · rw [ha]; decide
  · rw [hp] at hn; cases hn
  · rw [ha]; decide
  · rw [ha]; decide
  · rw [ha]; decide
  · intro _ b _ hn
    have hbc : b ∉ c := fun hh => hn (hc b hh).1
    refine ⟨hb b hbc, fun i hi => hm _ fun y hy => ?_⟩
    have : b ≠ y := fun e => hbc (e ▸ hy)
    omega

/-- A frame of an operation that writes one area of Groundsheet alone, beside the pool and the rest. -/
theorem Keeps.within {v w : Nat} {s t : State} {lo hi : Nat} {r : Area} (h : Keeps w s t)
    (hv : sub w (v ||| 0x2000160080000002) = true)
    (hr : (r = .ring ∧ v.testBit 44 = true) ∨ (r = .tables ∧ v.testBit 42 = true) ∨ (r = .inner ∧ v.testBit 61 = true))
    (hlo : 0x01000000 ≤ lo) (hin : ∀ x, lo ≤ x → x < hi → areaOf x = r)
    (hm : ∀ x, x < lo ∨ hi ≤ x → t.byte x = s.byte x) (hb : t.bufs = s.bufs) : Keeps v s t := by
  have out : ∀ x, areaOf x ≠ r → t.byte x = s.byte x := by
    intro x hx
    apply hm
    by_contra hc
    exact hx (hin x (by omega) (by omega))
  have hne : r ≠ .mem ∧ r ≠ .pool := by
    rcases hr with ⟨rfl, _⟩ | ⟨rfl, _⟩ | ⟨rfl, _⟩ <;> constructor <;> decide
  have other (q : Area) (n : Nat) (hn : v.testBit n = false) (hq : r = q → v.testBit n = true) (a : Nat)
      (ha : areaOf a = q) : t.byte a = s.byte a := by
    refine out a fun e => ?_
    rw [ha] at e
    rw [hq e.symm] at hn
    cases hn
  refine h.cut hv (fun _ a ha => out a ?_) (fun _ a ha => out a ?_)
    (fun hn => other .tables 42 hn ?_) (fun hn => other .inner 61 hn ?_) (fun hn => other .ring 44 hn ?_) ?_
  · rw [ha]; exact hne.1.symm
  · rw [ha]; exact hne.2.symm
  all_goals first
    | (rcases hr with ⟨rfl, g⟩ | ⟨rfl, g⟩ | ⟨rfl, g⟩ <;> first | (intro _; exact g) | (intro e; cases e))
    | skip
  · intro _ b hlt _
    refine ⟨by unfold State.buf; rw [hb], fun i hi => hm _ (.inl (by omega))⟩

/-- A frame that leaves Groundsheet leaves every byte. -/
theorem Keeps.byte {w : Nat} {s t : State} (h : Keeps w s t) (hr : w.testBit 63 = false ∨ t.boot.seq = none)
    (h1 : w.testBit 1 = false) (h41 : w.testBit 41 = false) (h42 : w.testBit 42 = false) (h44 : w.testBit 44 = false)
    (h61 : w.testBit 61 = false) (x : Nat) : t.byte x = s.byte x := by
  cases g : areaOf x with
  | pool => exact h.pool hr h41 x g
  | tables => exact h.tables hr h42 x g
  | inner => exact h.inner hr h61 x g
  | ring => exact h.ring hr h44 x g
  | mem => exact h.mem hr h1 x g

/-- A frame of an operation that writes the pool alone of Groundsheet. -/
theorem Keeps.pooled {v w : Nat} {s t : State} (h : Keeps w s t) (hv : sub w (v ||| 0x2000160080000002) = true)
    (hp : v.testBit 41 = true) (hb : v.testBit 31 = true) (hm : ∀ x, 0x01000000 ≤ x → t.byte x = s.byte x) :
    Keeps v s t := by
  have out : ∀ x, areaOf x ≠ .pool → t.byte x = s.byte x := by
    intro x hx
    apply hm
    by_contra hc
    exact hx (if_pos (by omega))
  refine h.cut hv (fun _ a ha => out a ?_) (fun hn => ?_) (fun _ a ha => out a ?_) (fun _ a ha => out a ?_)
    (fun _ a ha => out a ?_) (fun hn => ?_)
  · rw [ha]; decide
  · rw [hp] at hn; cases hn
  · rw [ha]; decide
  · rw [ha]; decide
  · rw [ha]; decide
  · rw [hb] at hn; cases hn

/-- Bytes above the pool, of a frame that gives none of their areas. -/
theorem Keeps.high {w : Nat} {s t : State} (k : Keeps w s t) (h63 : w.testBit 63 = false) (h1 : w.testBit 1 = false)
    (h42 : w.testBit 42 = false) (h44 : w.testBit 44 = false) (h61 : w.testBit 61 = false) {x : Nat} (hx : 0x01000000 ≤ x) : t.byte x = s.byte x := by
  cases g : areaOf x with
  | pool => exact absurd g (by unfold areaOf; rw [if_neg (by omega)]; split_ifs <;> decide)
  | tables => exact k.tables (.inl h63) h42 x g
  | inner => exact k.inner (.inl h63) h61 x g
  | ring => exact k.ring (.inl h63) h44 x g
  | mem => exact k.mem (.inl h63) h1 x g

/-- The region of an instance that is on lies in the pool (R235). -/
theorem State.awnOn_region (s : State) (i : Nat) (h : s.awnOn i = true) :
    (s.awnRegion i).2 ≤ 0x01000000 ∧ (s.awnRegion i).2 = (s.awnRegion i).1 + 32768 ∧ 8 ∣ (s.awnRegion i).1 := by
  simp only [State.awnOn, State.awnBadRegion, Bool.and_eq_true, Bool.not_not, inside, decide_eq_true_eq] at h
  refine ⟨Nat.le_trans h.2.2.2 (s.region_le _), rfl, ?_⟩
  unfold State.awnRegion
  omega

theorem Word.get_lt (w : Word) (f : Fld) : Word.get w f < 2 ^ (f.1 + 1 - f.2) :=
  Nat.mod_lt _ (Nat.two_pow_pos _)

end Sys2Proof.Machine
end

