-- ==== Sys2Proof/Laws/KeepsOps.lean ====
section
/-! SUPPORT. What each operation of Machine/Ops.lean may change (Laws/Keeps.lean reads the masks). -/

namespace Sys2Proof.Machine

set_option linter.unreachableTactic false
set_option linter.unusedTactic false

theorem State.writeReg_step {msk : Nat} {base s : State} (locked : Bool) (off : Nat) (data : Word) (hSolid : solid msk = true)
    (hSub : sub 0x1FFFE93E00000000 msk = true) (hBase : Keeps msk base s) : Keeps msk base (s.writeReg locked off data) := by
  refine Keeps.step (v := 0x1FFFE93E00000000) ?_ hSolid hSub hBase
  unfold State.writeReg State.noteWrote
  split
  · exact Keeps.refl _ _
  · refine State.setReg_anyStep _ _ rfl rfl ?_
    split
    · exact Keeps.refl _ _
    · exact State.setTick_step _ rfl rfl (Keeps.refl _ _)

theorem State.hostWrite_step {msk : Nat} {base s : State} (off : Nat) (data : Word) (hSolid : solid msk = true)
    (hSub : sub 0x1FFFE93E00000000 msk = true) (hBase : Keeps msk base s) : Keeps msk base (State.hostWrite s off data) :=
  State.writeReg_step _ off data hSolid hSub hBase

theorem State.setPort_step {msk : Nat} {base s : State} (p : ℕ) (x : Port) (hSolid : solid msk = true)
    (hSub : sub 0x100 msk = true) (hBase : Keeps msk base s) : Keeps msk base (State.setPort s p x) := by
  refine Keeps.step (v := 0x100) ?_ hSolid hSub hBase
  clear hSolid hSub hBase
  unfold State.setPort
  try dsimp only
  repeat' first
    | (with_reducible rfl)
    | (with_reducible exact Keeps.refl _ _)
    | (with_reducible apply Keeps.ite)
    | (with_reducible assumption)
    | (with_reducible apply State.setPorts_step)
    | intro _
    | (exact (rfl : true = true))
    | split

theorem State.modPort_step {msk : Nat} {base s : State} (p : ℕ) (f : Port → Port) (hSolid : solid msk = true)
    (hSub : sub 0x100 msk = true) (hBase : Keeps msk base s) : Keeps msk base (State.modPort s p f) := by
  refine Keeps.step (v := 0x100) ?_ hSolid hSub hBase
  clear hSolid hSub hBase
  unfold State.modPort
  try dsimp only
  repeat' first
    | (with_reducible rfl)
    | (with_reducible exact Keeps.refl _ _)
    | (with_reducible apply Keeps.ite)
    | (with_reducible assumption)
    | (with_reducible apply State.setPort_step)
    | intro _
    | (exact (rfl : true = true))
    | split

theorem State.setSlice_step {msk : Nat} {base s : State} (n : ℕ) (x : Slice) (hSolid : solid msk = true)
    (hSub : sub 0x200 msk = true) (hBase : Keeps msk base s) : Keeps msk base (State.setSlice s n x) := by
  refine Keeps.step (v := 0x200) ?_ hSolid hSub hBase
  clear hSolid hSub hBase
  unfold State.setSlice
  try dsimp only
  repeat' first
    | (with_reducible rfl)
    | (with_reducible exact Keeps.refl _ _)
    | (with_reducible apply Keeps.ite)
    | (with_reducible assumption)
    | (with_reducible apply State.setSlices_step)
    | intro _
    | (exact (rfl : true = true))
    | split

theorem State.modSlice_step {msk : Nat} {base s : State} (n : ℕ) (f : Slice → Slice) (hSolid : solid msk = true)
    (hSub : sub 0x200 msk = true) (hBase : Keeps msk base s) : Keeps msk base (State.modSlice s n f) := by
  refine Keeps.step (v := 0x200) ?_ hSolid hSub hBase
  clear hSolid hSub hBase
  unfold State.modSlice
  try dsimp only
  repeat' first
    | (with_reducible rfl)
    | (with_reducible exact Keeps.refl _ _)
    | (with_reducible apply Keeps.ite)
    | (with_reducible assumption)
    | (with_reducible apply State.setSlice_step)
    | intro _
    | (exact (rfl : true = true))
    | split

theorem State.setFifo_step {msk : Nat} {base s : State} (n : ℕ) (x : Fifo) (hSolid : solid msk = true)
    (hSub : sub 0x10 msk = true) (hBase : Keeps msk base s) : Keeps msk base (State.setFifo s n x) := by
  refine Keeps.step (v := 0x10) ?_ hSolid hSub hBase
  clear hSolid hSub hBase
  unfold State.setFifo
  try dsimp only
  repeat' first
    | (with_reducible rfl)
    | (with_reducible exact Keeps.refl _ _)
    | (with_reducible apply Keeps.ite)
    | (with_reducible assumption)
    | (with_reducible apply State.setFifos_step)
    | intro _
    | (exact (rfl : true = true))
    | split

theorem State.emit_step {msk : Nat} {base s : State} (e : Emission) (hSolid : solid msk = true)
    (hSub : sub 0x20000000 msk = true) (hBase : Keeps msk base s) : Keeps msk base (State.emit s e) := by
  refine Keeps.step (v := 0x20000000) ?_ hSolid hSub hBase
  clear hSolid hSub hBase
  unfold State.emit
  try dsimp only
  repeat' first
    | (with_reducible rfl)
    | (with_reducible exact Keeps.refl _ _)
    | (with_reducible apply Keeps.ite)
    | (with_reducible assumption)
    | (with_reducible apply State.setOut_step)
    | intro _
    | (exact (rfl : true = true))
    | split

theorem State.skip_step {msk : Nat} {base s : State} (n : ℕ) (hSolid : solid msk = true)
    (hSub : sub 0x40000000 msk = true) (hBase : Keeps msk base s) : Keeps msk base (State.skip s n) := by
  refine Keeps.step (v := 0x40000000) ?_ hSolid hSub hBase
  clear hSolid hSub hBase
  unfold State.skip
  try dsimp only
  repeat' first
    | (with_reducible rfl)
    | (with_reducible exact Keeps.refl _ _)
    | (with_reducible apply Keeps.ite)
    | (with_reducible assumption)
    | (with_reducible apply State.setFresh_step)
    | intro _
    | (exact (rfl : true = true))
    | split

theorem State.setByte_step {msk : Nat} {base s : State} (a : ℕ) (b : Byte) (hSolid : solid msk = true)
    (hSub : sub 0x2000160080000002 msk = true) (hBase : Keeps msk base s) : Keeps msk base (State.setByte s a b) := by
  refine Keeps.step (v := 0x2000160080000002) ?_ hSolid hSub hBase
  clear hSolid hSub hBase
  unfold State.setByte
  try dsimp only
  repeat' first
    | (with_reducible rfl)
    | (with_reducible exact Keeps.refl _ _)
    | (with_reducible apply Keeps.ite)
    | (with_reducible assumption)
    | (with_reducible apply State.setMem_step _ (fun h => (SMap.wf_put (fun _ => (0 : Byte)) _ _ _ h)))
    | (with_reducible apply State.setMem_step _ (fun h => (SMap.wf_filter _ _ _ h)))
    | (with_reducible apply State.setMem_step _ (fun _ => rfl))
    | intro _
    | (exact (rfl : true = true))
    | split

theorem State.setBytes_step {msk : Nat} {base s : State} (a : ℕ) (x2 : List Byte) (hSolid : solid msk = true)
    (hSub : sub 0x2000160080000002 msk = true) (hBase : Keeps msk base s) : Keeps msk base (State.setBytes s a x2) := by
  refine Keeps.step (v := 0x2000160080000002) ?_ hSolid hSub hBase
  clear hSolid hSub hBase
  fun_induction State.setBytes s a x2
  all_goals
    try dsimp only
    repeat' first
      | (with_reducible rfl)
      | (with_reducible exact Keeps.refl _ _)
      | (with_reducible apply Keeps.ite)
      | (with_reducible assumption)
      | (with_reducible refine Keeps.trans ?_ ?_ (by assumption))
      | (with_reducible apply State.setByte_step)
      | intro _
      | (exact (rfl : true = true))
      | split

theorem State.setUpset_step {msk : Nat} {base s : State} (a : ℕ) (w : Word) (hSolid : solid msk = true)
    (hSub : sub 0x4 msk = true) (hBase : Keeps msk base s) : Keeps msk base (State.setUpset s a w) := by
  refine Keeps.step (v := 0x4) ?_ hSolid hSub hBase
  clear hSolid hSub hBase
  unfold State.setUpset
  try dsimp only
  repeat' first
    | (with_reducible rfl)
    | (with_reducible exact Keeps.refl _ _)
    | (with_reducible apply Keeps.ite)
    | (with_reducible assumption)
    | (with_reducible apply State.setEcc_step _ (fun h => (SMap.wf_put (fun _ => (0 : Word)) _ _ _ h)))
    | (with_reducible apply State.setEcc_step _ (fun h => (SMap.wf_filter _ _ _ h)))
    | (with_reducible apply State.setEcc_step _ (fun _ => rfl))
    | intro _
    | (exact (rfl : true = true))
    | split

theorem State.noteStore_step {msk : Nat} {base s : State} (a : Nat) (hSolid : solid msk = true)
    (hSub : sub 0x0 msk = true) (hBase : Keeps msk base s) : Keeps msk base (State.noteStore s a) := by
  refine Keeps.step (v := 0x0) ?_ hSolid hSub hBase
  clear hSolid hSub hBase
  unfold State.noteStore
  try dsimp only
  repeat' first
    | (with_reducible rfl)
    | (with_reducible exact Keeps.refl _ _)
    | (with_reducible apply Keeps.ite)
    | (with_reducible assumption)
    | (with_reducible apply State.setTick_step)
    | intro _
    | (exact (rfl : true = true))
    | split

theorem State.setWord_step {msk : Nat} {base s : State} (a : Nat) (w : Word) (hSolid : solid msk = true)
    (hSub : sub 0x2002160080000006 msk = true) (hBase : Keeps msk base s) : Keeps msk base (State.setWord s a w) := by
  refine Keeps.step (v := 0x2002160080000006) ?_ hSolid hSub hBase
  clear hSolid hSub hBase
  unfold State.setWord
  try dsimp only
  repeat' first
    | (with_reducible rfl)
    | (with_reducible exact Keeps.refl _ _)
    | (with_reducible apply Keeps.ite)
    | (with_reducible assumption)
    | (with_reducible apply State.noteStore_step)
    | (with_reducible apply State.setBytes_step)
    | (with_reducible apply State.setUpset_step)
    | (with_reducible apply Keeps.setBit regWindow_gshEccInject)
    | intro _
    | (exact (rfl : true = true))
    | split

theorem State.setWords_step {msk : Nat} {base s : State} (a : ℕ) (x2 : List Word) (hSolid : solid msk = true)
    (hSub : sub 0x2002160080000006 msk = true) (hBase : Keeps msk base s) : Keeps msk base (State.setWords s a x2) := by
  refine Keeps.step (v := 0x2002160080000006) ?_ hSolid hSub hBase
  clear hSolid hSub hBase
  fun_induction State.setWords s a x2
  all_goals
    try dsimp only
    repeat' first
      | (with_reducible rfl)
      | (with_reducible exact Keeps.refl _ _)
      | (with_reducible apply Keeps.ite)
      | (with_reducible assumption)
      | (with_reducible refine Keeps.trans ?_ ?_ (by assumption))
      | (with_reducible apply State.setWord_step)
      | intro _
      | (exact (rfl : true = true))
      | split

theorem State.setBuf_step {msk : Nat} {base s : State} (b : ℕ) (x : BufState) (hSolid : solid msk = true)
    (hSub : sub 0x80000008 msk = true) (hBase : Keeps msk base s) : Keeps msk base (State.setBuf s b x) := by
  refine Keeps.step (v := 0x80000008) ?_ hSolid hSub hBase
  clear hSolid hSub hBase
  unfold State.setBuf
  try dsimp only
  repeat' first
    | (with_reducible rfl)
    | (with_reducible exact Keeps.refl _ _)
    | (with_reducible apply Keeps.ite)
    | (with_reducible assumption)
    | (with_reducible apply State.setBufs_step)
    | intro _
    | (exact (rfl : true = true))
    | split

theorem State.setBufList_step {msk : Nat} {base s : State} (l : List ℕ) (x : BufState) (hSolid : solid msk = true)
    (hSub : sub 0x80000008 msk = true) (hBase : Keeps msk base s) : Keeps msk base (State.setBufList s l x) := by
  refine Keeps.step (v := 0x80000008) ?_ hSolid hSub hBase
  clear hSolid hSub hBase
  unfold State.setBufList
  try dsimp only
  repeat' first
    | (with_reducible rfl)
    | (with_reducible exact Keeps.refl _ _)
    | (with_reducible apply Keeps.ite)
    | (with_reducible assumption)
    | (with_reducible apply State.setBuf_step)
    | (with_reducible apply Keeps.each)
    | intro _
    | (exact (rfl : true = true))
    | split

theorem State.writeChain_step {msk : Nat} {base s : State} (x1 : List ℕ) (x2 : List Word) (hSolid : solid msk = true)
    (hSub : sub 0x20021600C0000006 msk = true) (hBase : Keeps msk base s) : Keeps msk base (State.writeChain s x1 x2) := by
  refine Keeps.step (v := 0x20021600C0000006) ?_ hSolid hSub hBase
  clear hSolid hSub hBase
  fun_induction State.writeChain s x1 x2
  all_goals
    try dsimp only
    repeat' first
      | (with_reducible rfl)
      | (with_reducible exact Keeps.refl _ _)
      | (with_reducible apply Keeps.ite)
      | (with_reducible assumption)
      | (with_reducible refine Keeps.trans ?_ ?_ (by assumption))
      | (with_reducible apply State.skip_step)
      | (with_reducible apply State.setWords_step)
      | intro _
      | (exact (rfl : true = true))
      | split

theorem State.driveInt_step {msk : Nat} {base s : State}  (hSolid : solid msk = true)
    (hSub : sub 0x40000 msk = true) (hBase : Keeps msk base s) : Keeps msk base (State.driveInt s) := by
  refine Keeps.step (v := 0x40000) ?_ hSolid hSub hBase
  clear hSolid hSub hBase
  unfold State.driveInt
  try dsimp only
  repeat' first
    | (with_reducible rfl)
    | (with_reducible exact Keeps.refl _ _)
    | (with_reducible apply Keeps.ite)
    | (with_reducible assumption)
    | (with_reducible apply State.setHif_step)
    | intro _
    | (exact (rfl : true = true))
    | split

theorem State.msixSend_step {msk : Nat} {base s : State} (fn : ℕ) (vec : ℕ) (hSolid : solid msk = true)
    (hSub : sub 0x20000000 msk = true) (hBase : Keeps msk base s) : Keeps msk base (State.msixSend s fn vec) := by
  refine Keeps.step (v := 0x20000000) ?_ hSolid hSub hBase
  clear hSolid hSub hBase
  unfold State.msixSend
  try dsimp only
  repeat' first
    | (with_reducible rfl)
    | (with_reducible exact Keeps.refl _ _)
    | (with_reducible apply Keeps.ite)
    | (with_reducible assumption)
    | (with_reducible apply State.emit_step)
    | intro _
    | (exact (rfl : true = true))
    | split

theorem State.msi_step {msk : Nat} {base s : State} (fn : ℕ) (vec : ℕ) (hSolid : solid msk = true)
    (hSub : sub 0x20040000 msk = true) (hBase : Keeps msk base s) : Keeps msk base (State.msi s fn vec) := by
  refine Keeps.step (v := 0x20040000) ?_ hSolid hSub hBase
  clear hSolid hSub hBase
  unfold State.msi
  try dsimp only
  repeat' first
    | (with_reducible rfl)
    | (with_reducible exact Keeps.refl _ _)
    | (with_reducible apply Keeps.ite)
    | (with_reducible assumption)
    | (with_reducible apply State.setHif_step)
    | (with_reducible apply State.msixSend_step)
    | intro _
    | (exact (rfl : true = true))
    | split

theorem State.fifoMsi_step {msk : Nat} {base s : State} (n : ℕ) (ring : Bool) (hSolid : solid msk = true)
    (hSub : sub 0x20040000 msk = true) (hBase : Keeps msk base s) : Keeps msk base (State.fifoMsi s n ring) := by
  refine Keeps.step (v := 0x20040000) ?_ hSolid hSub hBase
  clear hSolid hSub hBase
  unfold State.fifoMsi
  try dsimp only
  repeat' first
    | (with_reducible rfl)
    | (with_reducible exact Keeps.refl _ _)
    | (with_reducible apply Keeps.ite)
    | (with_reducible assumption)
    | (with_reducible apply State.msi_step)
    | intro _
    | (exact (rfl : true = true))
    | split

theorem State.takeSeq_step {msk : Nat} {base s : State} (n : ℕ) (hSolid : solid msk = true)
    (hSub : sub 0x2000000000000 msk = true) (hBase : Keeps msk base s) : Keeps msk base (State.takeSeq s n) := by
  refine Keeps.step (v := 0x2000000000000) ?_ hSolid hSub hBase
  clear hSolid hSub hBase
  unfold State.takeSeq
  try dsimp only
  repeat' first
    | (with_reducible rfl)
    | (with_reducible exact Keeps.refl _ _)
    | (with_reducible apply Keeps.ite)
    | (with_reducible assumption)
    | (with_reducible apply Keeps.bump (regWindow_gshFifoSeq _))
    | intro _
    | (exact (rfl : true = true))
    | split

theorem State.newCycle_step {msk : Nat} {base s : State}  (hSolid : solid msk = true)
    (hSub : sub 0x0 msk = true) (hBase : Keeps msk base s) : Keeps msk base (State.newCycle s) := by
  refine Keeps.step (v := 0x0) ?_ hSolid hSub hBase
  clear hSolid hSub hBase
  unfold State.newCycle
  try dsimp only
  repeat' first
    | (with_reducible rfl)
    | (with_reducible exact Keeps.refl _ _)
    | (with_reducible apply Keeps.ite)
    | (with_reducible assumption)
    | (with_reducible apply State.setTick_step)
    | intro _
    | (exact (rfl : true = true))
    | split

theorem State.append_step {msk : Nat} {base s : State} (n : Nat) (chain : List Nat) (ws : List Word) (hSolid : solid msk = true)
    (hSub : sub 0x20021600E004001E msk = true) (hBase : Keeps msk base s) : Keeps msk base (State.append s n chain ws) := by
  refine Keeps.step (v := 0x20021600E004001E) ?_ hSolid hSub hBase
  clear hSolid hSub hBase
  unfold State.append
  try dsimp only
  repeat' first
    | (with_reducible rfl)
    | (with_reducible exact Keeps.refl _ _)
    | (with_reducible apply Keeps.ite)
    | (with_reducible assumption)
    | (with_reducible apply State.skip_step)
    | (with_reducible apply State.writeChain_step)
    | (with_reducible apply State.setBufList_step)
    | (with_reducible apply State.setFifo_step)
    | (with_reducible apply State.fifo_step)
    | (with_reducible apply State.fifoMsi_step)
    | (with_reducible apply State.driveInt_step)
    | intro _
    | (exact (rfl : true = true))
    | split

theorem State.dropPacket_step {msk : Nat} {base s : State} (n : ℕ) (hSolid : solid msk = true)
    (hSub : sub 0x2000000000000 msk = true) (hBase : Keeps msk base s) : Keeps msk base (State.dropPacket s n) := by
  refine Keeps.step (v := 0x2000000000000) ?_ hSolid hSub hBase
  clear hSolid hSub hBase
  unfold State.dropPacket
  try dsimp only
  repeat' first
    | (with_reducible rfl)
    | (with_reducible exact Keeps.refl _ _)
    | (with_reducible apply Keeps.ite)
    | (with_reducible assumption)
    | (with_reducible apply Keeps.bump (regWindow_gshFifoStatus _))
    | (with_reducible apply Keeps.setBit (regWindow_gshFifoStatus _))
    | intro _
    | (exact (rfl : true = true))
    | split

theorem State.append_out (s : State) (n : Nat) (chain : List Nat) (ws : List Word) :
    (∀ x, (∀ b ∈ chain, x < 256 * b ∨ 256 * b + 256 ≤ x) → (s.append n chain ws).byte x = s.byte x) ∧
      ∀ b, b ∉ chain → (s.append n chain ws).buf b = s.buf b := by
  unfold State.append
  dsimp only
  generalize hs1 : ((s.skip chain.length).writeChain chain ws).setBufList chain .queued = s1
  generalize hs2 : s1.setFifo n { s1.fifo n with packets := (s1.fifo n).packets ++ [s.descriptor chain ws.length] } = s2
  have k : Keeps 0x20040000 s2 ((s2.fifoMsi n false).driveInt) :=
    State.driveInt_step rfl rfl (State.fifoMsi_step n false rfl rfl (Keeps.refl _ _))
  have kw : Keeps 0x20021600C0000006 (s.skip chain.length) ((s.skip chain.length).writeChain chain ws) :=
    (State.writeChain_step chain ws (msk := 0x20021600C0000006) rfl rfl (Keeps.refl _ _)).mono rfl
  constructor
  · intro x hx
    rw [k.byte (.inl rfl) rfl rfl rfl rfl rfl, ← hs2, ← hs1]
    refine (State.byte_of_mem (s := ((s.skip chain.length).writeChain chain ws).setBufList chain .queued) rfl x).trans ?_
    rw [State.byte_of_mem (State.mem_setBufList _ _ _) x, State.byte_writeChain_out _ _ _ _ hx]
    rfl
  · intro b hb
    have e : ((s2.fifoMsi n false).driveInt).bufs = s2.bufs := k.bufs (.inl rfl) rfl
    unfold State.buf
    rw [e, ← hs2, ← hs1]
    have h1 := State.buf_setBufList chain ((s.skip chain.length).writeChain chain ws) .queued hb
    unfold State.buf at h1
    refine h1.trans ?_
    rw [kw.bufs (.inl rfl) rfl]
    rfl

theorem State.appendFree_step {msk : Nat} {base s : State} (n : Nat) (chain : List Nat) (ws : List Word)
    (hc : ∀ b ∈ chain, s.buf b = .free ∧ b < 65536) (hSolid : solid msk = true)
    (hSub : sub 0x202006004001C msk = true) (hBase : Keeps msk base s) : Keeps msk base (s.append n chain ws) :=
  Keeps.step (v := 0x202006004001C) (Keeps.free (State.append_step n chain ws (msk := 0x20021600E004001E) rfl rfl (Keeps.refl _ _)) rfl rfl hc
    (s.append_out n chain ws).1 (s.append_out n chain ws).2) hSolid hSub hBase

theorem State.commit_step {msk : Nat} {base s : State} (n : Nat) (ws : List Word) (hSolid : solid msk = true)
    (hSub : sub 0x202006004001C msk = true) (hBase : Keeps msk base s) : Keeps msk base (State.commit s n ws) := by
  refine Keeps.step (v := 0x202006004001C) ?_ hSolid hSub hBase
  clear hSolid hSub hBase
  unfold State.commit
  try dsimp only
  repeat' first
    | (with_reducible rfl)
    | (with_reducible exact Keeps.refl _ _)
    | (with_reducible apply Keeps.ite)
    | (with_reducible assumption)
    | (with_reducible apply State.takeSeq_step)
    | (with_reducible apply State.dropPacket_step)
    | (with_reducible apply State.setFifo_step)
    | (with_reducible refine State.appendFree_step _ _ _ (State.chainFor_mem _ _ _ _ (by assumption)) ?_ ?_ ?_)
    | intro _
    | (exact (rfl : true = true))
    | split

theorem State.commitDone_step {msk : Nat} {base s : State} (n : Nat) (ws : List Word) (hSolid : solid msk = true)
    (hSub : sub 0x202006004001C msk = true) (hBase : Keeps msk base s) : Keeps msk base (State.commitDone s n ws) := by
  refine Keeps.step (v := 0x202006004001C) ?_ hSolid hSub hBase
  clear hSolid hSub hBase
  unfold State.commitDone
  try dsimp only
  repeat' first
    | (with_reducible rfl)
    | (with_reducible exact Keeps.refl _ _)
    | (with_reducible apply Keeps.ite)
    | (with_reducible assumption)
    | (with_reducible apply State.takeSeq_step)
    | (with_reducible apply State.dropPacket_step)
    | (with_reducible apply State.setFifo_step)
    | (with_reducible refine State.appendFree_step _ _ _ (State.chainFor_mem _ _ _ _ (by assumption)) ?_ ?_ ?_)
    | intro _
    | (exact (rfl : true = true))
    | split

theorem State.popHead_step {msk : Nat} {base s : State} (n : ℕ) (st : BufState) (hSolid : solid msk = true)
    (hSub : sub 0x80040018 msk = true) (hBase : Keeps msk base s) : Keeps msk base (State.popHead s n st) := by
  refine Keeps.step (v := 0x80040018) ?_ hSolid hSub hBase
  clear hSolid hSub hBase
  unfold State.popHead
  try dsimp only
  repeat' first
    | (with_reducible rfl)
    | (with_reducible exact Keeps.refl _ _)
    | (with_reducible apply Keeps.ite)
    | (with_reducible assumption)
    | (with_reducible apply State.driveInt_step)
    | (with_reducible apply State.setBufList_step)
    | (with_reducible apply State.setFifo_step)
    | intro _
    | (exact (rfl : true = true))
    | split

theorem State.event_step {msk : Nat} {base s : State} (fifo : ℕ) (pitch : ℕ) (port : ℕ) (st : Status) (reason : ℕ) (detail : ℕ) (data : List Word) (hSolid : solid msk = true)
    (hSub : sub 0x202006004001C msk = true) (hBase : Keeps msk base s) : Keeps msk base (State.event s fifo pitch port st reason detail data) := by
  refine Keeps.step (v := 0x202006004001C) ?_ hSolid hSub hBase
  clear hSolid hSub hBase
  unfold State.event
  try dsimp only
  repeat' first
    | (with_reducible rfl)
    | (with_reducible exact Keeps.refl _ _)
    | (with_reducible apply Keeps.ite)
    | (with_reducible assumption)
    | (with_reducible apply State.commit_step)
    | intro _
    | (exact (rfl : true = true))
    | split

theorem State.pitchEvent_step {msk : Nat} {base s : State} (q : ℕ) (port : ℕ) (st : Status) (reason : ℕ) (detail : ℕ) (data : List Word) (hSolid : solid msk = true)
    (hSub : sub 0x202006004001C msk = true) (hBase : Keeps msk base s) : Keeps msk base (State.pitchEvent s q port st reason detail data) := by
  refine Keeps.step (v := 0x202006004001C) ?_ hSolid hSub hBase
  clear hSolid hSub hBase
  unfold State.pitchEvent
  try dsimp only
  repeat' first
    | (with_reducible rfl)
    | (with_reducible exact Keeps.refl _ _)
    | (with_reducible apply Keeps.ite)
    | (with_reducible assumption)
    | (with_reducible apply State.event_step)
    | intro _
    | (exact (rfl : true = true))
    | split

theorem State.health_step {msk : Nat} {base s : State} (port : Nat) (st : Status) (reason detail : Nat) (data : List Word) (hSolid : solid msk = true)
    (hSub : sub 0x202006004001C msk = true) (hBase : Keeps msk base s) : Keeps msk base (State.health s port st reason detail data) := by
  refine Keeps.step (v := 0x202006004001C) ?_ hSolid hSub hBase
  clear hSolid hSub hBase
  unfold State.health
  try dsimp only
  repeat' first
    | (with_reducible rfl)
    | (with_reducible exact Keeps.refl _ _)
    | (with_reducible apply Keeps.ite)
    | (with_reducible assumption)
    | (with_reducible apply State.setHif_step)
    | (with_reducible apply State.commit_step)
    | intro _
    | (exact (rfl : true = true))
    | split

theorem State.violation_step {msk : Nat} {base s : State} (q : ℕ) (m : ℕ) (kind : ℕ) (detail : ℕ) (hSolid : solid msk = true)
    (hSub : sub 0x10000000000000 msk = true) (hBase : Keeps msk base s) : Keeps msk base (State.violation s q m kind detail) := by
  refine Keeps.step (v := 0x10000000000000) ?_ hSolid hSub hBase
  clear hSolid hSub hBase
  unfold State.violation
  try dsimp only
  repeat' first
    | (with_reducible rfl)
    | (with_reducible exact Keeps.refl _ _)
    | (with_reducible apply Keeps.ite)
    | (with_reducible assumption)
    | (with_reducible apply Keeps.setReg (regWindow_pitViolRec _ _))
    | (with_reducible apply Keeps.bump regWindow_pitViolIdx)
    | (with_reducible apply Keeps.bumpSat (regWindow_pitStatus _))
    | intro _
    | (exact (rfl : true = true))
    | split

theorem State.traceRing_wide {msk : Nat} {base s : State} (t : TraceRec) (hSolid : solid msk = true)
    (hSub : sub 0x3002160080000006 msk = true) (hBase : Keeps msk base s) : Keeps msk base (State.traceRing s t) := by
  refine Keeps.step (v := 0x3002160080000006) ?_ hSolid hSub hBase
  clear hSolid hSub hBase
  unfold State.traceRing
  try dsimp only
  repeat' first
    | (with_reducible rfl)
    | (with_reducible exact Keeps.refl _ _)
    | (with_reducible apply Keeps.ite)
    | (with_reducible assumption)
    | (with_reducible apply State.setWords_step)
    | (with_reducible apply Keeps.bump regWindow_trlWptr)
    | (with_reducible apply Keeps.setBit regWindow_trlWptr)
    | (with_reducible apply Keeps.setFld regWindow_trlWptr)
    | intro _
    | (exact (rfl : true = true))
    | split

theorem State.traceRing_step {msk : Nat} {base s : State} (t : TraceRec) (hSolid : solid msk = true)
    (hSub : sub 0x1002100000000004 msk = true) (hBase : Keeps msk base s) : Keeps msk base (State.traceRing s t) := by
  refine Keeps.step (v := 0x1002100000000004) ?_ hSolid hSub hBase
  have hi : s.fld R.trlWptr F.trlWptr.next < 65536 := Word.get_lt _ _
  have kw : Keeps 0x2002160080000006 s (s.setWords (0x1F00000 + 16 * s.fld R.trlWptr F.trlWptr.next) [t.w0, t.w1]) :=
    State.setWords_step _ _ rfl rfl (Keeps.refl _ _)
  have e : (s.setWords (0x1F00000 + 16 * s.fld R.trlWptr F.trlWptr.next) [t.w0, t.w1]).bufs = s.bufs :=
    kw.bufs (.inl rfl) rfl
  have hm : ∀ x, x < 0x1F00000 ∨ 0x2000000 ≤ x →
      (s.setWords (0x1F00000 + 16 * s.fld R.trlWptr F.trlWptr.next) [t.w0, t.w1]).byte x = s.byte x := by
    intro x hx
    apply State.byte_setWords_out
    · omega
    · simp only [List.length_cons, List.length_nil]; omega
  refine Keeps.within (State.traceRing_wide t (msk := 0x3002160080000006) rfl rfl (Keeps.refl _ _)) rfl (lo := 0x1F00000) (hi := 0x2000000)
    (r := .ring) (.inl ⟨rfl, rfl⟩) (by decide) (fun x h1 h2 => ?_) (fun x hx => ?_) ?_
  · unfold areaOf
    rw [if_neg (by omega), if_neg (by omega), if_neg (by omega), if_pos ⟨h1, h2⟩]
  · unfold State.traceRing
    dsimp only
    split_ifs <;> first | rfl | exact hm x hx
  · unfold State.traceRing
    dsimp only
    split_ifs <;> first | rfl | exact e

theorem State.tracePush_step {msk : Nat} {base s : State} (t : TraceRec) (hSolid : solid msk = true)
    (hSub : sub 0x1000000002000000 msk = true) (hBase : Keeps msk base s) : Keeps msk base (State.tracePush s t) := by
  refine Keeps.step (v := 0x1000000002000000) ?_ hSolid hSub hBase
  clear hSolid hSub hBase
  unfold State.tracePush
  try dsimp only
  repeat' first
    | (with_reducible rfl)
    | (with_reducible exact Keeps.refl _ _)
    | (with_reducible apply Keeps.ite)
    | (with_reducible assumption)
    | (with_reducible apply State.setTrl_step)
    | (with_reducible apply Keeps.bumpSat regWindow_trlLost)
    | intro _
    | (exact (rfl : true = true))
    | split

theorem State.traceLost_step {msk : Nat} {base s : State}  (hSolid : solid msk = true)
    (hSub : sub 0x1000000002000000 msk = true) (hBase : Keeps msk base s) : Keeps msk base (State.traceLost s) := by
  refine Keeps.step (v := 0x1000000002000000) ?_ hSolid hSub hBase
  clear hSolid hSub hBase
  unfold State.traceLost
  try dsimp only
  repeat' first
    | (with_reducible rfl)
    | (with_reducible exact Keeps.refl _ _)
    | (with_reducible apply Keeps.ite)
    | (with_reducible assumption)
    | (with_reducible apply State.tracePush_step)
    | (with_reducible apply State.setTrl_step)
    | intro _
    | (exact (rfl : true = true))
    | split

theorem State.traceFlow_step {msk : Nat} {base s : State}  (hSolid : solid msk = true)
    (hSub : sub 0x1002100002000004 msk = true) (hBase : Keeps msk base s) : Keeps msk base (State.traceFlow s) := by
  refine Keeps.step (v := 0x1002100002000004) ?_ hSolid hSub hBase
  clear hSolid hSub hBase
  unfold State.traceFlow
  try dsimp only
  repeat' first
    | (with_reducible rfl)
    | (with_reducible exact Keeps.refl _ _)
    | (with_reducible apply Keeps.ite)
    | (with_reducible assumption)
    | (with_reducible apply Keeps.each)
    | (with_reducible apply State.traceRing_step)
    | (with_reducible apply State.setTrl_step)
    | intro _
    | (exact (rfl : true = true))
    | split

theorem State.trace_step {msk : Nat} {base s : State} (type src detail : Nat) (hSolid : solid msk = true)
    (hSub : sub 0x1000000002000000 msk = true) (hBase : Keeps msk base s) : Keeps msk base (State.trace s type src detail) := by
  refine Keeps.step (v := 0x1000000002000000) ?_ hSolid hSub hBase
  clear hSolid hSub hBase
  unfold State.trace
  try dsimp only
  repeat' first
    | (with_reducible rfl)
    | (with_reducible exact Keeps.refl _ _)
    | (with_reducible apply Keeps.ite)
    | (with_reducible assumption)
    | (with_reducible apply State.traceLost_step)
    | (with_reducible apply State.tracePush_step)
    | intro _
    | (exact (rfl : true = true))
    | split

end Sys2Proof.Machine
end

