-- ==== Sys2Proof/Laws/KeepsPings.lean ====
section
/-! SUPPORT. What each operation of Machine/Pings.lean may change (Laws/Keeps.lean reads the masks). -/

namespace Sys2Proof.Machine

set_option linter.unreachableTactic false
set_option linter.unusedTactic false

theorem State.latchPing_step {msk : Nat} {base s : State} (e at_ : Nat) (hSolid : solid msk = true)
    (hSub : sub 0x20000 msk = true) (hBase : Keeps msk base s) : Keeps msk base (State.latchPing s e at_) := by
  refine Keeps.step (v := 0x20000) ?_ hSolid hSub hBase
  clear hSolid hSub hBase
  unfold State.latchPing
  try dsimp only
  repeat' first
    | (with_reducible rfl)
    | (with_reducible exact Keeps.refl _ _)
    | (with_reducible apply Keeps.ite)
    | (with_reducible assumption)
    | (with_reducible apply State.setLantern_step)
    | intro _
    | (exact (rfl : true = true))
    | split

end Sys2Proof.Machine
end

