-- ==== Sys2Proof/Laws/KeepsEcc.lean ====
section
/-! SUPPORT. What each operation of Machine/Ecc.lean may change (Laws/Keeps.lean reads the masks). -/

namespace Sys2Proof.Machine

set_option linter.unreachableTactic false
set_option linter.unusedTactic false

theorem State.eccAt_step {msk : Nat} {base s : State} (a : ℕ) (hSolid : solid msk = true)
    (hSub : sub 0x2000000000000 msk = true) (hBase : Keeps msk base s) : Keeps msk base (State.eccAt s a) := by
  refine Keeps.step (v := 0x2000000000000) ?_ hSolid hSub hBase
  clear hSolid hSub hBase
  unfold State.eccAt
  try dsimp only
  repeat' first
    | (with_reducible rfl)
    | (with_reducible exact Keeps.refl _ _)
    | (with_reducible apply Keeps.ite)
    | (with_reducible assumption)
    | (with_reducible apply Keeps.setFld regWindow_gshEccStatus)
    | intro _
    | (exact (rfl : true = true))
    | split

theorem State.recordCe_step {msk : Nat} {base s : State} (a : ℕ) (hSolid : solid msk = true)
    (hSub : sub 0x2000000000000 msk = true) (hBase : Keeps msk base s) : Keeps msk base (State.recordCe s a) := by
  refine Keeps.step (v := 0x2000000000000) ?_ hSolid hSub hBase
  clear hSolid hSub hBase
  unfold State.recordCe
  try dsimp only
  repeat' first
    | (with_reducible rfl)
    | (with_reducible exact Keeps.refl _ _)
    | (with_reducible apply Keeps.ite)
    | (with_reducible assumption)
    | (with_reducible apply State.eccAt_step)
    | (with_reducible apply Keeps.setBit regWindow_gshEccStatus)
    | (with_reducible apply Keeps.bump regWindow_gshEccCeCnt)
    | intro _
    | (exact (rfl : true = true))
    | split

theorem State.recordUe_step {msk : Nat} {base s : State} (a : ℕ) (hSolid : solid msk = true)
    (hSub : sub 0x2000000000000 msk = true) (hBase : Keeps msk base s) : Keeps msk base (State.recordUe s a) := by
  refine Keeps.step (v := 0x2000000000000) ?_ hSolid hSub hBase
  clear hSolid hSub hBase
  unfold State.recordUe
  try dsimp only
  repeat' first
    | (with_reducible rfl)
    | (with_reducible exact Keeps.refl _ _)
    | (with_reducible apply Keeps.ite)
    | (with_reducible assumption)
    | (with_reducible apply State.eccAt_step)
    | (with_reducible apply Keeps.setBit regWindow_gshEccStatus)
    | (with_reducible apply Keeps.bump regWindow_gshEccUeCnt)
    | intro _
    | (exact (rfl : true = true))
    | split

theorem State.correct_step {msk : Nat} {base s : State} (a : ℕ) (hSolid : solid msk = true)
    (hSub : sub 0x2000000000004 msk = true) (hBase : Keeps msk base s) : Keeps msk base (State.correct s a) := by
  refine Keeps.step (v := 0x2000000000004) ?_ hSolid hSub hBase
  clear hSolid hSub hBase
  unfold State.correct
  try dsimp only
  repeat' first
    | (with_reducible rfl)
    | (with_reducible exact Keeps.refl _ _)
    | (with_reducible apply Keeps.ite)
    | (with_reducible assumption)
    | (with_reducible apply State.setUpset_step)
    | (with_reducible apply State.recordCe_step)
    | intro _
    | (exact (rfl : true = true))
    | split

theorem State.touch_step {msk : Nat} {base s : State} (a : ℕ) (hSolid : solid msk = true)
    (hSub : sub 0x2000000000004 msk = true) (hBase : Keeps msk base s) : Keeps msk base (State.touch s a) := by
  refine Keeps.step (v := 0x2000000000004) ?_ hSolid hSub hBase
  clear hSolid hSub hBase
  unfold State.touch
  try dsimp only
  repeat' first
    | (with_reducible rfl)
    | (with_reducible exact Keeps.refl _ _)
    | (with_reducible apply Keeps.ite)
    | (with_reducible assumption)
    | (with_reducible apply State.recordUe_step)
    | (with_reducible apply State.correct_step)
    | intro _
    | (exact (rfl : true = true))
    | split

theorem State.storeBytes_step {msk : Nat} {base s : State} (a : ℕ) (l : List Byte) (hSolid : solid msk = true)
    (hSub : sub 0x2002160080000006 msk = true) (hBase : Keeps msk base s) : Keeps msk base (State.storeBytes s a l) := by
  refine Keeps.step (v := 0x2002160080000006) ?_ hSolid hSub hBase
  clear hSolid hSub hBase
  unfold State.storeBytes
  try dsimp only
  repeat' first
    | (with_reducible rfl)
    | (with_reducible exact Keeps.refl _ _)
    | (with_reducible apply Keeps.ite)
    | (with_reducible assumption)
    | (with_reducible apply State.setWord_step)
    | (with_reducible apply State.setBytes_step)
    | (with_reducible apply State.noteStore_step)
    | (with_reducible apply State.correct_step)
    | (with_reducible apply Keeps.bump regWindow_gshEccUeCnt)
    | intro _
    | (exact (rfl : true = true))
    | split

theorem State.storeRun_step {msk : Nat} {base s : State} (a n : Nat) (l : List Byte) (hSolid : solid msk = true)
    (hSub : sub 0x2002160080000006 msk = true) (hBase : Keeps msk base s) : Keeps msk base (State.storeRun s a n l) := by
  induction n generalizing s a l with
  | zero => exact hBase
  | succ n ih =>
    cases l with
    | nil => exact hBase
    | cons b l => exact ih _ _ (State.storeBytes_step _ _ hSolid hSub hBase)

theorem State.loadWord_step {msk : Nat} {base s : State} (a : Nat) (hSolid : solid msk = true)
    (hSub : sub 0x2000040000004 msk = true) (hBase : Keeps msk base s) : Keeps msk base (State.loadWord s a).1 := by
  refine Keeps.step (v := 0x2000040000004) ?_ hSolid hSub hBase
  clear hSolid hSub hBase
  unfold State.loadWord
  try dsimp only
  repeat' first
    | (with_reducible rfl)
    | (with_reducible exact Keeps.refl _ _)
    | (with_reducible apply Keeps.ite)
    | (with_reducible assumption)
    | (with_reducible apply State.recordUe_step)
    | (with_reducible apply State.skip_step)
    | (with_reducible apply State.correct_step)
    | intro _
    | (exact (rfl : true = true))
    | split

theorem State.loadWords_step {msk : Nat} {base s : State} (a n : Nat) (hSolid : solid msk = true)
    (hSub : sub 0x2000040000004 msk = true) (hBase : Keeps msk base s) : Keeps msk base (State.loadWords s a n).1 := by
  induction n generalizing s a with
  | zero => exact hBase
  | succ n ih => exact ih _ (State.loadWord_step _ hSolid hSub hBase)

theorem State.touchAll_step {msk : Nat} {base s : State} (l : List ℕ) (hSolid : solid msk = true)
    (hSub : sub 0x2000000000004 msk = true) (hBase : Keeps msk base s) : Keeps msk base (State.touchAll s l) := by
  refine Keeps.step (v := 0x2000000000004) ?_ hSolid hSub hBase
  clear hSolid hSub hBase
  unfold State.touchAll
  try dsimp only
  repeat' first
    | (with_reducible rfl)
    | (with_reducible exact Keeps.refl _ _)
    | (with_reducible apply Keeps.ite)
    | (with_reducible assumption)
    | (with_reducible apply State.touch_step)
    | (with_reducible apply Keeps.each)
    | intro _
    | (exact (rfl : true = true))
    | split

/-! ### Memory (R256, R258) -/

theorem State.byte_correct (s : State) (a x : Nat) : (s.correct a).byte x = s.byte x := by
  unfold State.correct; split <;> rfl

theorem State.byte_storeBytes_out (s : State) (a x : Nat) (l : List Byte) (hl : l.length ≤ 8 - a % 8)
    (h : x < a ∨ a + l.length ≤ x) : (s.storeBytes a l).byte x = s.byte x := by
  unfold State.storeBytes
  split
  · exact State.byte_setWord_out _ _ _ _ (by omega)
  · split
    · rfl
    · rw [State.byte_setBytes_out _ _ _ _ h]
      exact State.byte_correct _ _ _

theorem State.byte_storeRun_out (n : Nat) (s : State) (a x : Nat) (l : List Byte) (h : x < a ∨ a + l.length ≤ x) :
    (s.storeRun a n l).byte x = s.byte x := by
  induction n generalizing s a l with
  | zero => rfl
  | succ n ih =>
    cases l with
    | nil => rfl
    | cons b l =>
      have hlen : ((b :: l).take (8 - a % 8)).length ≤ 8 - a % 8 ∧ ((b :: l).take (8 - a % 8)).length ≤ (b :: l).length := by
        rw [List.length_take]; omega
      have hd : ((b :: l).drop (8 - a % 8)).length = (b :: l).length - (8 - a % 8) := List.length_drop
      show (State.storeRun _ _ n _).byte x = _
      by_cases hc : a + (b :: l).length ≤ x ∨ x < a + (8 - a % 8)
      · rw [ih, State.byte_storeBytes_out _ _ _ _ hlen.1 (by omega)]
        omega
      · omega

end Sys2Proof.Machine
end

