-- ==== Sys2Proof/Laws/KeepsRuns.lean ====
section
/-! SUPPORT. What each operation of Machine/Runs.lean may change (Laws/Keeps.lean reads the masks). -/

namespace Sys2Proof.Machine

set_option linter.unreachableTactic false
set_option linter.unusedTactic false

theorem State.putRun_step {msk : Nat} {base s : State} (r : Run) (hSolid : solid msk = true)
    (hSub : sub 0x80 msk = true) (hBase : Keeps msk base s) : Keeps msk base (State.putRun s r) := by
  refine Keeps.step (v := 0x80) (s.setRuns_same _ ?_) hSolid hSub hBase
  rw [List.map_map]
  refine List.map_congr_left fun x _ => ?_
  dsimp only [Function.comp]
  split
  · rename_i h; exact h.symm
  · rfl

theorem State.dropRun_step {msk : Nat} {base s : State} (r : Run) (hSolid : solid msk = true)
    (hSub : sub 0x4000000080 msk = true) (hBase : Keeps msk base s) : Keeps msk base (State.dropRun s r) :=
  (s.setRuns_sub _ List.filter_sublist).step hSolid hSub hBase

theorem State.modRun_step {msk : Nat} {base s : State} (p : ℕ) (f : Run → Run) (hSolid : solid msk = true)
    (hSub : sub 0x80 msk = true) (hBase : Keeps msk base s) : Keeps msk base (State.modRun s p f) := by
  refine Keeps.step (v := 0x80) ?_ hSolid hSub hBase
  clear hSolid hSub hBase
  unfold State.modRun
  try dsimp only
  repeat' first
    | (with_reducible rfl)
    | (with_reducible exact Keeps.refl _ _)
    | (with_reducible apply Keeps.ite)
    | (with_reducible assumption)
    | (with_reducible apply State.putRun_step)
    | intro _
    | (exact (rfl : true = true))
    | split

theorem State.sendFrom_step {msk : Nat} {base s : State} (n : ℕ) (ramp : ℕ) (from_ : ℕ) (alt : Bool) (x5 : List SliceState) (hSolid : solid msk = true)
    (hSub : sub 0x200 msk = true) (hBase : Keeps msk base s) : Keeps msk base (State.sendFrom s n ramp from_ alt x5) := by
  refine Keeps.step (v := 0x200) ?_ hSolid hSub hBase
  clear hSolid hSub hBase
  fun_induction State.sendFrom s n ramp from_ alt x5
  all_goals
    try dsimp only
    repeat' first
      | (with_reducible rfl)
      | (with_reducible exact Keeps.refl _ _)
      | (with_reducible apply Keeps.ite)
      | (with_reducible assumption)
      | (with_reducible refine Keeps.trans ?_ ?_ (by assumption))
      | (with_reducible apply State.modSlice_step)
      | intro _
      | (exact (rfl : true = true))
      | split

theorem State.arrive_step {msk : Nat} {base s : State} (n : Nat) (ramp : Nat) (alt : Bool) (hSolid : solid msk = true)
    (hSub : sub 0x200 msk = true) (hBase : Keeps msk base s) : Keeps msk base (State.arrive s n ramp alt) := by
  refine Keeps.step (v := 0x200) ?_ hSolid hSub hBase
  clear hSolid hSub hBase
  unfold State.arrive
  try dsimp only
  repeat' first
    | (with_reducible rfl)
    | (with_reducible exact Keeps.refl _ _)
    | (with_reducible apply Keeps.ite)
    | (with_reducible assumption)
    | (with_reducible apply State.sendFrom_step)
    | (with_reducible apply State.modSlice_step)
    | intro _
    | (exact (rfl : true = true))
    | split

theorem State.sliceTo_step {msk : Nat} {base s : State} (n : Nat) (st : SliceState) (hSolid : solid msk = true)
    (hSub : sub 0x200 msk = true) (hBase : Keeps msk base s) : Keeps msk base (State.sliceTo s n st) := by
  refine Keeps.step (v := 0x200) ?_ hSolid hSub hBase
  clear hSolid hSub hBase
  unfold State.sliceTo
  try dsimp only
  repeat' first
    | (with_reducible rfl)
    | (with_reducible exact Keeps.refl _ _)
    | (with_reducible apply Keeps.ite)
    | (with_reducible assumption)
    | (with_reducible apply State.modSlice_step)
    | intro _
    | (exact (rfl : true = true))
    | split

theorem State.stamp_step {msk : Nat} {base s : State} (n : Nat) (hSolid : solid msk = true)
    (hSub : sub 0x200 msk = true) (hBase : Keeps msk base s) : Keeps msk base (State.stamp s n) := by
  refine Keeps.step (v := 0x200) ?_ hSolid hSub hBase
  clear hSolid hSub hBase
  unfold State.stamp
  try dsimp only
  repeat' first
    | (with_reducible rfl)
    | (with_reducible exact Keeps.refl _ _)
    | (with_reducible apply Keeps.ite)
    | (with_reducible assumption)
    | (with_reducible apply State.modSlice_step)
    | intro _
    | (exact (rfl : true = true))
    | split

theorem State.restSlice_step {msk : Nat} {base s : State} (n ramp : Nat) (hSolid : solid msk = true)
    (hSub : sub 0x200 msk = true) (hBase : Keeps msk base s) : Keeps msk base (State.restSlice s n ramp) := by
  refine Keeps.step (v := 0x200) ?_ hSolid hSub hBase
  clear hSolid hSub hBase
  unfold State.restSlice
  try dsimp only
  repeat' first
    | (with_reducible rfl)
    | (with_reducible exact Keeps.refl _ _)
    | (with_reducible apply Keeps.ite)
    | (with_reducible assumption)
    | (with_reducible apply State.sendFrom_step)
    | intro _
    | (exact (rfl : true = true))
    | split

theorem State.settleSlice_step {msk : Nat} {base s : State} (p ramp : Nat) (hSolid : solid msk = true)
    (hSub : sub 0x200 msk = true) (hBase : Keeps msk base s) : Keeps msk base (State.settleSlice s p ramp) := by
  refine Keeps.step (v := 0x200) ?_ hSolid hSub hBase
  clear hSolid hSub hBase
  unfold State.settleSlice
  try dsimp only
  repeat' first
    | (with_reducible rfl)
    | (with_reducible exact Keeps.refl _ _)
    | (with_reducible apply Keeps.ite)
    | (with_reducible assumption)
    | (with_reducible apply State.sendFrom_step)
    | (with_reducible apply State.modSlice_step)
    | (with_reducible apply State.restSlice_step)
    | intro _
    | (exact (rfl : true = true))
    | split

end Sys2Proof.Machine
end

