-- ==== Sys2Proof/Laws/KeepsReports.lean ====
section
/-! SUPPORT. What each operation of Machine/Reports.lean may change (Laws/Keeps.lean reads the masks). -/

namespace Sys2Proof.Machine

set_option linter.unreachableTactic false
set_option linter.unusedTactic false

theorem State.writeEntry_wide {msk : Nat} {base s : State} (i : Nat) (ws : List Word) (w3 : Word) (hSolid : solid msk = true)
    (hSub : sub 0x2002160080000006 msk = true) (hBase : Keeps msk base s) : Keeps msk base (State.writeEntry s i ws w3) := by
  refine Keeps.step (v := 0x2002160080000006) ?_ hSolid hSub hBase
  clear hSolid hSub hBase
  unfold State.writeEntry
  try dsimp only
  repeat' first
    | (with_reducible rfl)
    | (with_reducible exact Keeps.refl _ _)
    | (with_reducible apply Keeps.ite)
    | (with_reducible assumption)
    | (with_reducible apply State.setWord_step)
    | (with_reducible apply State.setWords_step)
    | intro _
    | (exact (rfl : true = true))
    | split

theorem State.writeEntry_step {msk : Nat} {base s : State} (i : Nat) (ws : List Word) (w3 : Word) (hSolid : solid msk = true)
    (hSub : sub 0x2040000000004 msk = true) (hBase : Keeps msk base s) : Keeps msk base (State.writeEntry s i ws w3) := by
  refine Keeps.step (v := 0x2040000000004) ?_ hSolid hSub hBase
  refine Keeps.within (State.writeEntry_wide i ws w3 (msk := 0x2002160080000006) rfl rfl (Keeps.refl _ _)) rfl (lo := 0x1400000) (hi := 0x1C00000)
    (r := .tables) (.inr (.inl ⟨rfl, rfl⟩)) (by decide) (fun x h1 h2 => ?_) (fun x hx => ?_) ?_
  · unfold areaOf
    rw [if_neg (by omega), if_neg (by omega), if_pos h2]
  · have hi : i % 262144 < 262144 := Nat.mod_lt _ (by decide)
    have hl : (ws.take 3).length ≤ 3 := List.length_take_le 3 ws
    unfold State.writeEntry
    dsimp only
    rw [State.byte_setWord_out, State.byte_setWords_out, State.byte_setWord_out]
    all_goals unfold entryAddr; omega
  · exact (State.setWord_step _ _ rfl rfl (State.setWords_step _ _ rfl rfl (State.setWord_step _ _ rfl rfl
      (Keeps.refl 0x2002160080000006 s)))).bufs (.inl rfl) rfl

theorem State.putEntry_step {msk : Nat} {base s : State} (i : Nat) (k : PKey) (seen : Nat) (w3 : Word) (hSolid : solid msk = true)
    (hSub : sub 0x2040000000004 msk = true) (hBase : Keeps msk base s) : Keeps msk base (State.putEntry s i k seen w3) := by
  refine Keeps.step (v := 0x2040000000004) ?_ hSolid hSub hBase
  clear hSolid hSub hBase
  unfold State.putEntry
  try dsimp only
  repeat' first
    | (with_reducible rfl)
    | (with_reducible exact Keeps.refl _ _)
    | (with_reducible apply Keeps.ite)
    | (with_reducible assumption)
    | (with_reducible apply State.writeEntry_step)
    | intro _
    | (exact (rfl : true = true))
    | split

theorem State.freeEntry_step {msk : Nat} {base s : State} (q i : Nat) (hSolid : solid msk = true)
    (hSub : sub 0x2440000000004 msk = true) (hBase : Keeps msk base s) : Keeps msk base (State.freeEntry s q i) := by
  refine Keeps.step (v := 0x2440000000004) ?_ hSolid hSub hBase
  clear hSolid hSub hBase
  unfold State.freeEntry
  try dsimp only
  repeat' first
    | (with_reducible rfl)
    | (with_reducible exact Keeps.refl _ _)
    | (with_reducible apply Keeps.ite)
    | (with_reducible assumption)
    | (with_reducible apply State.writeEntry_step)
    | (with_reducible apply Keeps.setFld (regWindow_sngPtStatus ..))
    | intro _
    | (exact (rfl : true = true))
    | split

theorem State.countTables_step {msk : Nat} {base s : State}  (hSolid : solid msk = true)
    (hSub : sub 0x400000000000 msk = true) (hBase : Keeps msk base s) : Keeps msk base (State.countTables s) := by
  refine Keeps.step (v := 0x400000000000) ?_ hSolid hSub hBase
  clear hSolid hSub hBase
  unfold State.countTables
  try dsimp only
  repeat' first
    | (with_reducible rfl)
    | (with_reducible exact Keeps.refl _ _)
    | (with_reducible apply Keeps.ite)
    | (with_reducible assumption)
    | (with_reducible apply Keeps.each)
    | (with_reducible apply Keeps.setFld (regWindow_sngPtStatus ..))
    | intro _
    | (exact (rfl : true = true))
    | split

theorem State.presencePacket_step {msk : Nat} {base s : State} (q : ℕ) (type : ℕ) (i : ℕ) (hSolid : solid msk = true)
    (hSub : sub 0x202006004001C msk = true) (hBase : Keeps msk base s) : Keeps msk base (State.presencePacket s q type i) := by
  refine Keeps.step (v := 0x202006004001C) ?_ hSolid hSub hBase
  clear hSolid hSub hBase
  unfold State.presencePacket
  try dsimp only
  repeat' first
    | (with_reducible rfl)
    | (with_reducible exact Keeps.refl _ _)
    | (with_reducible apply Keeps.ite)
    | (with_reducible assumption)
    | (with_reducible apply State.commit_step)
    | intro _
    | (exact (rfl : true = true))
    | split

theorem State.ueEntry_step {msk : Nat} {base s : State} (q i : Nat) (hSolid : solid msk = true)
    (hSub : sub 0x2440000000004 msk = true) (hBase : Keeps msk base s) : Keeps msk base (State.ueEntry s q i) := by
  refine Keeps.step (v := 0x2440000000004) ?_ hSolid hSub hBase
  clear hSolid hSub hBase
  unfold State.ueEntry
  try dsimp only
  repeat' first
    | (with_reducible rfl)
    | (with_reducible exact Keeps.refl _ _)
    | (with_reducible apply Keeps.ite)
    | (with_reducible assumption)
    | (with_reducible apply State.freeEntry_step)
    | intro _
    | (exact (rfl : true = true))
    | split

theorem State.readEntries_step {msk : Nat} {base s : State} (q lo hi : Nat) (hSolid : solid msk = true)
    (hSub : sub 0x2440000000004 msk = true) (hBase : Keeps msk base s) : Keeps msk base (State.readEntries s q lo hi) := by
  refine Keeps.step (v := 0x2440000000004) ?_ hSolid hSub hBase
  clear hSolid hSub hBase
  unfold State.readEntries
  try dsimp only
  repeat' first
    | (with_reducible rfl)
    | (with_reducible exact Keeps.refl _ _)
    | (with_reducible apply Keeps.ite)
    | (with_reducible assumption)
    | (with_reducible apply State.touchAll_step)
    | (with_reducible apply Keeps.each)
    | (with_reducible apply State.ueEntry_step)
    | intro _
    | (exact (rfl : true = true))
    | split

theorem State.lookTable_step {msk : Nat} {base s : State} (q : Nat) (k : PKey) (hSolid : solid msk = true)
    (hSub : sub 0x2440000000004 msk = true) (hBase : Keeps msk base s) : Keeps msk base (State.lookTable s q k) := by
  refine Keeps.step (v := 0x2440000000004) ?_ hSolid hSub hBase
  clear hSolid hSub hBase
  unfold State.lookTable
  try dsimp only
  repeat' first
    | (with_reducible rfl)
    | (with_reducible exact Keeps.refl _ _)
    | (with_reducible apply Keeps.ite)
    | (with_reducible assumption)
    | (with_reducible apply State.readEntries_step)
    | intro _
    | (exact (rfl : true = true))
    | split

theorem State.countEntry_step {msk : Nat} {base s : State} (q port : Nat) (k : PKey) (rssi : Nat) (hSolid : solid msk = true)
    (hSub : sub 0x246006004001C msk = true) (hBase : Keeps msk base s) : Keeps msk base (State.countEntry s q port k rssi).1 := by
  refine Keeps.step (v := 0x246006004001C) ?_ hSolid hSub hBase
  clear hSolid hSub hBase
  unfold State.countEntry
  try dsimp only
  repeat' first
    | (with_reducible rfl)
    | (with_reducible exact Keeps.refl _ _)
    | (with_reducible apply Keeps.ite)
    | (with_reducible assumption)
    | (with_reducible apply State.putEntry_step)
    | (with_reducible apply State.presencePacket_step)
    | (with_reducible apply Keeps.bump (regWindow_sngPtStatus ..))
    | (with_reducible apply Keeps.setBit (regWindow_sngPtStatus ..))
    | (with_reducible apply Keeps.bumpSat (regWindow_sngPtStatus ..))
    | intro _
    | (exact (rfl : true = true))
    | split

theorem State.countRead_step {msk : Nat} {base s : State} (q port : Nat) (k : PKey) (rssi : Nat) (hSolid : solid msk = true)
    (hSub : sub 0x246006004001C msk = true) (hBase : Keeps msk base s) : Keeps msk base (State.countRead s q port k rssi).1 := by
  refine Keeps.step (v := 0x246006004001C) ?_ hSolid hSub hBase
  clear hSolid hSub hBase
  unfold State.countRead
  try dsimp only
  repeat' first
    | (with_reducible rfl)
    | (with_reducible exact Keeps.refl _ _)
    | (with_reducible apply Keeps.ite)
    | (with_reducible assumption)
    | (with_reducible apply State.lookTable_step)
    | (with_reducible apply State.countEntry_step)
    | (with_reducible refine Keeps.fst (State.countEntry_step (by assumption) ?_ ?_ ?_) (by assumption))
    | intro _
    | (exact (rfl : true = true))
    | split

theorem State.sweep_step {msk : Nat} {base s : State} (i : Nat) (hSolid : solid msk = true)
    (hSub : sub 0x246006004001C msk = true) (hBase : Keeps msk base s) : Keeps msk base (State.sweep s i) := by
  refine Keeps.step (v := 0x246006004001C) ?_ hSolid hSub hBase
  clear hSolid hSub hBase
  unfold State.sweep
  try dsimp only
  repeat' first
    | (with_reducible rfl)
    | (with_reducible exact Keeps.refl _ _)
    | (with_reducible apply Keeps.ite)
    | (with_reducible assumption)
    | (with_reducible apply State.touchAll_step)
    | (with_reducible apply State.ueEntry_step)
    | (with_reducible apply State.presencePacket_step)
    | (with_reducible apply State.freeEntry_step)
    | intro _
    | (exact (rfl : true = true))
    | split

theorem State.tagReport_step {msk : Nat} {base s : State} (r : Run) (i : TagInfo) (hSolid : solid msk = true)
    (hSub : sub 0x202006004001C msk = true) (hBase : Keeps msk base s) : Keeps msk base (State.tagReport s r i) := by
  refine Keeps.step (v := 0x202006004001C) ?_ hSolid hSub hBase
  clear hSolid hSub hBase
  unfold State.tagReport
  try dsimp only
  repeat' first
    | (with_reducible rfl)
    | (with_reducible exact Keeps.refl _ _)
    | (with_reducible apply Keeps.ite)
    | (with_reducible assumption)
    | (with_reducible apply State.commit_step)
    | intro _
    | (exact (rfl : true = true))
    | split

theorem State.requestDone_step {msk : Nat} {base s : State} (q : ℕ) (port : ℕ) (st : Status) (type : ℕ) (exch : ℕ) (hdr0 : Word) (hdr1 : Word) (ue : Bool) (replyBits : ℕ) (d : ℕ) (body : List Word) (hSolid : solid msk = true)
    (hSub : sub 0x100202006204001C msk = true) (hBase : Keeps msk base s) : Keeps msk base (State.requestDone s q port st type exch hdr0 hdr1 ue replyBits d body) := by
  refine Keeps.step (v := 0x100202006204001C) ?_ hSolid hSub hBase
  clear hSolid hSub hBase
  unfold State.requestDone
  try dsimp only
  repeat' first
    | (with_reducible rfl)
    | (with_reducible exact Keeps.refl _ _)
    | (with_reducible apply Keeps.ite)
    | (with_reducible assumption)
    | (with_reducible apply State.commitDone_step)
    | (with_reducible apply State.trace_step)
    | intro _
    | (exact (rfl : true = true))
    | split

theorem State.setBudget_step {msk : Nat} {base s : State} (l : List BudgetEntry) (hSolid : solid msk = true)
    (hSub : sub 0x20000000002000 msk = true) (hBase : Keeps msk base s) : Keeps msk base (State.setBudget s l) := by
  refine Keeps.step (v := 0x20000000002000) ?_ hSolid hSub hBase
  clear hSolid hSub hBase
  unfold State.setBudget
  try dsimp only
  repeat' first
    | (with_reducible rfl)
    | (with_reducible exact Keeps.refl _ _)
    | (with_reducible apply Keeps.ite)
    | (with_reducible assumption)
    | (with_reducible apply State.setSec_step)
    | (with_reducible apply Keeps.setFld regWindow_secKrvBudgetStatus)
    | intro _
    | (exact (rfl : true = true))
    | split

theorem State.budgetRefuse_step {msk : Nat} {base s : State} (q : ℕ) (id : BitVec 128) (hSolid : solid msk = true)
    (hSub : sub 0x20000000000000 msk = true) (hBase : Keeps msk base s) : Keeps msk base (State.budgetRefuse s q id) := by
  refine Keeps.step (v := 0x20000000000000) ?_ hSolid hSub hBase
  clear hSolid hSub hBase
  unfold State.budgetRefuse
  try dsimp only
  repeat' first
    | (with_reducible rfl)
    | (with_reducible exact Keeps.refl _ _)
    | (with_reducible apply Keeps.ite)
    | (with_reducible assumption)
    | (with_reducible apply Keeps.setBit regWindow_secKrvBudgetStatus)
    | (with_reducible apply Keeps.bumpSat regWindow_secKrvBudgetStatus)
    | intro _
    | (exact (rfl : true = true))
    | split

theorem State.budgetFail_step {msk : Nat} {base s : State} (q : ℕ) (id : BitVec 128) (hSolid : solid msk = true)
    (hSub : sub 0x20000000002000 msk = true) (hBase : Keeps msk base s) : Keeps msk base (State.budgetFail s q id) := by
  refine Keeps.step (v := 0x20000000002000) ?_ hSolid hSub hBase
  clear hSolid hSub hBase
  unfold State.budgetFail
  try dsimp only
  repeat' first
    | (with_reducible rfl)
    | (with_reducible exact Keeps.refl _ _)
    | (with_reducible apply Keeps.ite)
    | (with_reducible assumption)
    | (with_reducible apply State.setBudget_step)
    | (with_reducible apply Keeps.setBit regWindow_secKrvBudgetStatus)
    | intro _
    | (exact (rfl : true = true))
    | split

theorem State.budgetClear_step {msk : Nat} {base s : State} (q : ℕ) (id : BitVec 128) (hSolid : solid msk = true)
    (hSub : sub 0x20000000002000 msk = true) (hBase : Keeps msk base s) : Keeps msk base (State.budgetClear s q id) := by
  refine Keeps.step (v := 0x20000000002000) ?_ hSolid hSub hBase
  clear hSolid hSub hBase
  unfold State.budgetClear
  try dsimp only
  repeat' first
    | (with_reducible rfl)
    | (with_reducible exact Keeps.refl _ _)
    | (with_reducible apply Keeps.ite)
    | (with_reducible assumption)
    | (with_reducible apply State.setBudget_step)
    | intro _
    | (exact (rfl : true = true))
    | split

end Sys2Proof.Machine
end

