-- ==== Sys2Proof/Laws/KeepsSingulate.lean ====
section
/-! SUPPORT. What each operation of Machine/Singulate.lean may change (Laws/Keeps.lean reads the masks). -/

namespace Sys2Proof.Machine

set_option linter.unreachableTactic false
set_option linter.unusedTactic false

theorem State.flipPol_step {msk : Nat} {base s : State} (k : ℕ × ℕ × ℕ) (hSolid : solid msk = true)
    (hSub : sub 0x800 msk = true) (hBase : Keeps msk base s) : Keeps msk base (State.flipPol s k) := by
  refine Keeps.step (v := 0x800) ?_ hSolid hSub hBase
  clear hSolid hSub hBase
  unfold State.flipPol
  try dsimp only
  repeat' first
    | (with_reducible rfl)
    | (with_reducible exact Keeps.refl _ _)
    | (with_reducible apply Keeps.ite)
    | (with_reducible assumption)
    | (with_reducible apply State.setPolarity_step)
    | intro _
    | (exact (rfl : true = true))
    | split

theorem State.completeWalk_step {msk : Nat} {base s : State} (r : Run) (hSolid : solid msk = true)
    (hSub : sub 0x202006004089C msk = true) (hBase : Keeps msk base s) : Keeps msk base (State.completeWalk s r) := by
  refine Keeps.step (v := 0x202006004089C) ?_ hSolid hSub hBase
  clear hSolid hSub hBase
  unfold State.completeWalk
  try dsimp only
  repeat' first
    | (with_reducible rfl)
    | (with_reducible exact Keeps.refl _ _)
    | (with_reducible apply Keeps.ite)
    | (with_reducible assumption)
    | (with_reducible apply State.tagReport_step)
    | (with_reducible apply State.flipPol_step)
    | (with_reducible apply State.putRun_step)
    | intro _
    | (exact (rfl : true = true))
    | split

theorem State.reportEnd_step {msk : Nat} {base s : State} (r : Run) (st : Status) (again : Bool) (hSolid : solid msk = true)
    (hSub : sub 0x202006004009C msk = true) (hBase : Keeps msk base s) : Keeps msk base (State.reportEnd s r st again) := by
  refine Keeps.step (v := 0x202006004009C) ?_ hSolid hSub hBase
  clear hSolid hSub hBase
  unfold State.reportEnd
  try dsimp only
  repeat' first
    | (with_reducible rfl)
    | (with_reducible exact Keeps.refl _ _)
    | (with_reducible apply Keeps.ite)
    | (with_reducible assumption)
    | (with_reducible apply State.tagReport_step)
    | (with_reducible apply State.putRun_step)
    | intro _
    | (exact (rfl : true = true))
    | split

theorem State.topEntry_step {msk : Nat} {base s : State} (r : Run) (hSolid : solid msk = true)
    (hSub : sub 0x202006004089C msk = true) (hBase : Keeps msk base s) : Keeps msk base (State.topEntry s r) := by
  refine Keeps.step (v := 0x202006004089C) ?_ hSolid hSub hBase
  clear hSolid hSub hBase
  unfold State.topEntry
  try dsimp only
  repeat' first
    | (with_reducible rfl)
    | (with_reducible exact Keeps.refl _ _)
    | (with_reducible apply Keeps.ite)
    | (with_reducible assumption)
    | (with_reducible apply State.putRun_step)
    | (with_reducible apply State.completeWalk_step)
    | intro _
    | (exact (rfl : true = true))
    | split

theorem State.fallback_step {msk : Nat} {base s : State} (r : Run) (hSolid : solid msk = true)
    (hSub : sub 0x400000000080 msk = true) (hBase : Keeps msk base s) : Keeps msk base (State.fallback s r) := by
  refine Keeps.step (v := 0x400000000080) ?_ hSolid hSub hBase
  clear hSolid hSub hBase
  unfold State.fallback
  try dsimp only
  repeat' first
    | (with_reducible rfl)
    | (with_reducible exact Keeps.refl _ _)
    | (with_reducible apply Keeps.ite)
    | (with_reducible assumption)
    | (with_reducible apply Keeps.bump regWindow_sngFallbackCnt)
    | (with_reducible apply State.putRun_step)
    | intro _
    | (exact (rfl : true = true))
    | split

theorem State.nextSlot_step {msk : Nat} {base s : State} (r : Run) (col : Bool) (hSolid : solid msk = true)
    (hSub : sub 0x202006004089C msk = true) (hBase : Keeps msk base s) : Keeps msk base (State.nextSlot s r col) := by
  refine Keeps.step (v := 0x202006004089C) ?_ hSolid hSub hBase
  clear hSolid hSub hBase
  unfold State.nextSlot
  try dsimp only
  repeat' first
    | (with_reducible rfl)
    | (with_reducible exact Keeps.refl _ _)
    | (with_reducible apply Keeps.ite)
    | (with_reducible assumption)
    | (with_reducible apply State.putRun_step)
    | (with_reducible apply State.completeWalk_step)
    | intro _
    | (exact (rfl : true = true))
    | split

theorem State.isoRound_step {msk : Nat} {base s : State} (r : Run) (col : Bool) (hSolid : solid msk = true)
    (hSub : sub 0x202006004089C msk = true) (hBase : Keeps msk base s) : Keeps msk base (State.isoRound s r col) := by
  refine Keeps.step (v := 0x202006004089C) ?_ hSolid hSub hBase
  clear hSolid hSub hBase
  unfold State.isoRound
  try dsimp only
  repeat' first
    | (with_reducible rfl)
    | (with_reducible exact Keeps.refl _ _)
    | (with_reducible apply Keeps.ite)
    | (with_reducible assumption)
    | (with_reducible apply State.putRun_step)
    | (with_reducible apply State.reportEnd_step)
    | (with_reducible apply State.completeWalk_step)
    | intro _
    | (exact (rfl : true = true))
    | split

theorem State.isoDescend_step {msk : Nat} {base s : State} (r : Run) (hSolid : solid msk = true)
    (hSub : sub 0x202006004089C msk = true) (hBase : Keeps msk base s) : Keeps msk base (State.isoDescend s r) := by
  refine Keeps.step (v := 0x202006004089C) ?_ hSolid hSub hBase
  clear hSolid hSub hBase
  unfold State.isoDescend
  try dsimp only
  repeat' first
    | (with_reducible rfl)
    | (with_reducible exact Keeps.refl _ _)
    | (with_reducible apply Keeps.ite)
    | (with_reducible assumption)
    | (with_reducible apply State.completeWalk_step)
    | (with_reducible apply State.putRun_step)
    | intro _
    | (exact (rfl : true = true))
    | split

theorem State.isoSlot_step {msk : Nat} {base s : State} (r : Run) (sixteen : Bool) (hSolid : solid msk = true)
    (hSub : sub 0x202006004089C msk = true) (hBase : Keeps msk base s) : Keeps msk base (State.isoSlot s r sixteen) := by
  refine Keeps.step (v := 0x202006004089C) ?_ hSolid hSub hBase
  clear hSolid hSub hBase
  unfold State.isoSlot
  try dsimp only
  repeat' first
    | (with_reducible rfl)
    | (with_reducible exact Keeps.refl _ _)
    | (with_reducible apply Keeps.ite)
    | (with_reducible assumption)
    | (with_reducible apply State.putRun_step)
    | (with_reducible apply State.isoDescend_step)
    | intro _
    | (exact (rfl : true = true))
    | split

theorem State.gen2Slot_step {msk : Nat} {base s : State} (r : Run) (empty col : Bool) (hSolid : solid msk = true)
    (hSub : sub 0x202006004089C msk = true) (hBase : Keeps msk base s) : Keeps msk base (State.gen2Slot s r empty col) := by
  refine Keeps.step (v := 0x202006004089C) ?_ hSolid hSub hBase
  clear hSolid hSub hBase
  unfold State.gen2Slot
  try dsimp only
  repeat' first
    | (with_reducible rfl)
    | (with_reducible exact Keeps.refl _ _)
    | (with_reducible apply Keeps.ite)
    | (with_reducible assumption)
    | (with_reducible apply State.completeWalk_step)
    | (with_reducible apply State.modRun_step)
    | (with_reducible apply State.putRun_step)
    | intro _
    | (exact (rfl : true = true))
    | split

theorem State.walkOn_step {msk : Nat} {base s : State} (r : Run) (paired : Bool) (hSolid : solid msk = true)
    (hSub : sub 0x202006004089C msk = true) (hBase : Keeps msk base s) : Keeps msk base (State.walkOn s r paired) := by
  refine Keeps.step (v := 0x202006004089C) ?_ hSolid hSub hBase
  clear hSolid hSub hBase
  unfold State.walkOn
  try dsimp only
  repeat' first
    | (with_reducible rfl)
    | (with_reducible exact Keeps.refl _ _)
    | (with_reducible apply Keeps.ite)
    | (with_reducible assumption)
    | (with_reducible apply State.putRun_step)
    | (with_reducible apply State.nextSlot_step)
    | (with_reducible apply State.topEntry_step)
    | (with_reducible apply State.isoRound_step)
    | (with_reducible apply State.isoSlot_step)
    | (with_reducible apply State.isoDescend_step)
    | (with_reducible apply State.gen2Slot_step)
    | intro _
    | (exact (rfl : true = true))
    | split

theorem State.actionReport_step {msk : Nat} {base s : State} (r : Run) (a : Action) (hSolid : solid msk = true)
    (hSub : sub 0x202006004001C msk = true) (hBase : Keeps msk base s) : Keeps msk base (State.actionReport s r a) := by
  refine Keeps.step (v := 0x202006004001C) ?_ hSolid hSub hBase
  clear hSolid hSub hBase
  unfold State.actionReport
  try dsimp only
  repeat' first
    | (with_reducible rfl)
    | (with_reducible exact Keeps.refl _ _)
    | (with_reducible apply Keeps.ite)
    | (with_reducible assumption)
    | (with_reducible apply State.tagReport_step)
    | intro _
    | (exact (rfl : true = true))
    | split

theorem State.finishTag_step {msk : Nat} {base s : State} (r : Run) (a : Action) (hSolid : solid msk = true)
    (hSub : sub 0x202006004089C msk = true) (hBase : Keeps msk base s) : Keeps msk base (State.finishTag s r a) := by
  refine Keeps.step (v := 0x202006004089C) ?_ hSolid hSub hBase
  clear hSolid hSub hBase
  unfold State.finishTag
  try dsimp only
  repeat' first
    | (with_reducible rfl)
    | (with_reducible exact Keeps.refl _ _)
    | (with_reducible apply Keeps.ite)
    | (with_reducible assumption)
    | (with_reducible apply State.actionReport_step)
    | (with_reducible apply State.putRun_step)
    | (with_reducible apply State.walkOn_step)
    | intro _
    | (exact (rfl : true = true))
    | split

theorem State.identify_step {msk : Nat} {base s : State} (r : Run) (o : ReplyObs) (uid : Word) (hSolid : solid msk = true)
    (hSub : sub 0x246006004089C msk = true) (hBase : Keeps msk base s) : Keeps msk base (State.identify s r o uid) := by
  refine Keeps.step (v := 0x246006004089C) ?_ hSolid hSub hBase
  clear hSolid hSub hBase
  unfold State.identify
  try dsimp only
  repeat' first
    | (with_reducible rfl)
    | (with_reducible exact Keeps.refl _ _)
    | (with_reducible apply Keeps.ite)
    | (with_reducible assumption)
    | (with_reducible apply State.countRead_step)
    | (with_reducible refine Keeps.fst (State.countRead_step (by assumption) ?_ ?_ ?_) (by assumption))
    | (with_reducible apply State.finishTag_step)
    | (with_reducible apply State.putRun_step)
    | intro _
    | (exact (rfl : true = true))
    | split

theorem State.krovrelEnd_step {msk : Nat} {base s : State} (r : Run) (c : Cmd) (cls : XClass) (o : ReplyObs) (hSolid : solid msk = true)
    (hSub : sub 0x246006004089C msk = true) (hBase : Keeps msk base s) : Keeps msk base (State.krovrelEnd s r c cls o) := by
  refine Keeps.step (v := 0x246006004089C) ?_ hSolid hSub hBase
  clear hSolid hSub hBase
  unfold State.krovrelEnd
  try dsimp only
  repeat' first
    | (with_reducible rfl)
    | (with_reducible exact Keeps.refl _ _)
    | (with_reducible apply Keeps.ite)
    | (with_reducible assumption)
    | (with_reducible apply State.nextSlot_step)
    | (with_reducible apply State.identify_step)
    | (with_reducible apply State.completeWalk_step)
    | (with_reducible apply State.topEntry_step)
    | (with_reducible apply State.putRun_step)
    | (with_reducible apply State.fallback_step)
    | intro _
    | (exact (rfl : true = true))
    | split

theorem State.retryA_step {msk : Nat} {base s : State} (r : Run) (c : Cmd) (hSolid : solid msk = true)
    (hSub : sub 0x202006004009C msk = true) (hBase : Keeps msk base s) : Keeps msk base (State.retryA s r c) := by
  refine Keeps.step (v := 0x202006004009C) ?_ hSolid hSub hBase
  clear hSolid hSub hBase
  unfold State.retryA
  try dsimp only
  repeat' first
    | (with_reducible rfl)
    | (with_reducible exact Keeps.refl _ _)
    | (with_reducible apply Keeps.ite)
    | (with_reducible assumption)
    | (with_reducible apply State.reportEnd_step)
    | (with_reducible apply State.putRun_step)
    | intro _
    | (exact (rfl : true = true))
    | split

theorem State.typeAEnd_step {msk : Nat} {base s : State} (r : Run) (c : Cmd) (cls : XClass) (o : ReplyObs) (hSolid : solid msk = true)
    (hSub : sub 0x246006004089C msk = true) (hBase : Keeps msk base s) : Keeps msk base (State.typeAEnd s r c cls o) := by
  refine Keeps.step (v := 0x246006004089C) ?_ hSolid hSub hBase
  clear hSolid hSub hBase
  unfold State.typeAEnd
  try dsimp only
  repeat' first
    | (with_reducible rfl)
    | (with_reducible exact Keeps.refl _ _)
    | (with_reducible apply Keeps.ite)
    | (with_reducible assumption)
    | (with_reducible apply State.putRun_step)
    | (with_reducible apply State.completeWalk_step)
    | (with_reducible apply State.retryA_step)
    | (with_reducible apply State.identify_step)
    | intro _
    | (exact (rfl : true = true))
    | split

theorem State.isoEnd_step {msk : Nat} {base s : State} (r : Run) (cls : XClass) (o : ReplyObs) (hSolid : solid msk = true)
    (hSub : sub 0x246006004089C msk = true) (hBase : Keeps msk base s) : Keeps msk base (State.isoEnd s r cls o) := by
  refine Keeps.step (v := 0x246006004089C) ?_ hSolid hSub hBase
  clear hSolid hSub hBase
  unfold State.isoEnd
  try dsimp only
  repeat' first
    | (with_reducible rfl)
    | (with_reducible exact Keeps.refl _ _)
    | (with_reducible apply Keeps.ite)
    | (with_reducible assumption)
    | (with_reducible apply State.isoRound_step)
    | (with_reducible apply State.identify_step)
    | intro _
    | (exact (rfl : true = true))
    | split

theorem State.vEnd_step {msk : Nat} {base s : State} (r : Run) (c : Cmd) (cls : XClass) (o : ReplyObs) (hSolid : solid msk = true)
    (hSub : sub 0x246006004089C msk = true) (hBase : Keeps msk base s) : Keeps msk base (State.vEnd s r c cls o) := by
  refine Keeps.step (v := 0x246006004089C) ?_ hSolid hSub hBase
  clear hSolid hSub hBase
  unfold State.vEnd
  try dsimp only
  repeat' first
    | (with_reducible rfl)
    | (with_reducible exact Keeps.refl _ _)
    | (with_reducible apply Keeps.ite)
    | (with_reducible assumption)
    | (with_reducible apply State.identify_step)
    | (with_reducible apply State.isoDescend_step)
    | (with_reducible apply State.isoSlot_step)
    | (with_reducible apply State.completeWalk_step)
    | (with_reducible apply State.putRun_step)
    | (with_reducible apply State.tagReport_step)
    | intro _
    | (exact (rfl : true = true))
    | split

theorem State.gen2End_step {msk : Nat} {base s : State} (r : Run) (c : Cmd) (cls : XClass) (o : ReplyObs) (hSolid : solid msk = true)
    (hSub : sub 0x246006004089C msk = true) (hBase : Keeps msk base s) : Keeps msk base (State.gen2End s r c cls o) := by
  refine Keeps.step (v := 0x246006004089C) ?_ hSolid hSub hBase
  clear hSolid hSub hBase
  unfold State.gen2End
  try dsimp only
  repeat' first
    | (with_reducible rfl)
    | (with_reducible exact Keeps.refl _ _)
    | (with_reducible apply Keeps.ite)
    | (with_reducible assumption)
    | (with_reducible apply State.putRun_step)
    | (with_reducible apply State.identify_step)
    | (with_reducible apply State.gen2Slot_step)
    | intro _
    | (exact (rfl : true = true))
    | split

theorem State.walkEnd_step {msk : Nat} {base s : State} (r : Run) (c : Cmd) (cls : XClass) (o : ReplyObs) (hSolid : solid msk = true)
    (hSub : sub 0x246006004089C msk = true) (hBase : Keeps msk base s) : Keeps msk base (State.walkEnd s r c cls o) := by
  refine Keeps.step (v := 0x246006004089C) ?_ hSolid hSub hBase
  clear hSolid hSub hBase
  unfold State.walkEnd
  try dsimp only
  repeat' first
    | (with_reducible rfl)
    | (with_reducible exact Keeps.refl _ _)
    | (with_reducible apply Keeps.ite)
    | (with_reducible assumption)
    | (with_reducible apply State.krovrelEnd_step)
    | (with_reducible apply State.typeAEnd_step)
    | (with_reducible apply State.isoEnd_step)
    | (with_reducible apply State.vEnd_step)
    | (with_reducible apply State.gen2End_step)
    | intro _
    | (exact (rfl : true = true))
    | split

theorem State.budgetNote_step {msk : Nat} {base s : State} (q : ℕ) (id : BitVec 128) (x3 : Option Bool) (hSolid : solid msk = true)
    (hSub : sub 0x20000000002000 msk = true) (hBase : Keeps msk base s) : Keeps msk base (State.budgetNote s q id x3) := by
  refine Keeps.step (v := 0x20000000002000) ?_ hSolid hSub hBase
  clear hSolid hSub hBase
  unfold State.budgetNote
  try dsimp only
  repeat' first
    | (with_reducible rfl)
    | (with_reducible exact Keeps.refl _ _)
    | (with_reducible apply Keeps.ite)
    | (with_reducible assumption)
    | (with_reducible apply State.budgetClear_step)
    | (with_reducible apply State.budgetFail_step)
    | intro _
    | (exact (rfl : true = true))
    | split

end Sys2Proof.Machine
end

