-- ==== Sys2Proof/Laws/KeepsRadio.lean ====
section
/-! SUPPORT. What each operation of Machine/Radio.lean may change (Laws/Keeps.lean reads the masks). -/

namespace Sys2Proof.Machine

set_option linter.unreachableTactic false
set_option linter.unusedTactic false

theorem State.showChan_step {msk : Nat} {base s : State} (n p : Nat) (hSolid : solid msk = true)
    (hSub : sub 0x80000000000 msk = true) (hBase : Keeps msk base s) : Keeps msk base (State.showChan s n p) := by
  refine Keeps.step (v := 0x80000000000) ?_ hSolid hSub hBase
  clear hSolid hSub hBase
  unfold State.showChan
  try dsimp only
  repeat' first
    | (with_reducible rfl)
    | (with_reducible exact Keeps.refl _ _)
    | (with_reducible apply Keeps.ite)
    | (with_reducible assumption)
    | (with_reducible apply Keeps.setFld (regWindow_uhaTxStatus ..))
    | intro _
    | (exact (rfl : true = true))
    | split

theorem State.setChan_step {msk : Nat} {base s : State} (r : Run) (t e : Nat) (hSolid : solid msk = true)
    (hSub : sub 0x80000000300 msk = true) (hBase : Keeps msk base s) : Keeps msk base (State.setChan s r t e) := by
  refine Keeps.step (v := 0x80000000300) ?_ hSolid hSub hBase
  clear hSolid hSub hBase
  unfold State.setChan
  try dsimp only
  repeat' first
    | (with_reducible rfl)
    | (with_reducible exact Keeps.refl _ _)
    | (with_reducible apply Keeps.ite)
    | (with_reducible assumption)
    | (with_reducible apply State.modPort_step)
    | (with_reducible apply State.showChan_step)
    | (with_reducible apply State.stamp_step)
    | intro _
    | (exact (rfl : true = true))
    | split

theorem State.sjcSave_step {msk : Nat} {base s : State} (p : Nat) (hSolid : solid msk = true)
    (hSub : sub 0x80000000000 msk = true) (hBase : Keeps msk base s) : Keeps msk base (State.sjcSave s p) := by
  refine Keeps.step (v := 0x80000000000) ?_ hSolid hSub hBase
  clear hSolid hSub hBase
  unfold State.sjcSave
  try dsimp only
  repeat' first
    | (with_reducible rfl)
    | (with_reducible exact Keeps.refl _ _)
    | (with_reducible apply Keeps.ite)
    | (with_reducible assumption)
    | (with_reducible apply Keeps.setReg (regWindow_uhaSjcSeed ..))
    | intro _
    | (exact (rfl : true = true))
    | split

theorem State.sjcLoad_step {msk : Nat} {base s : State} (r : Run) (hSolid : solid msk = true)
    (hSub : sub 0x100 msk = true) (hBase : Keeps msk base s) : Keeps msk base (State.sjcLoad s r) := by
  refine Keeps.step (v := 0x100) ?_ hSolid hSub hBase
  clear hSolid hSub hBase
  unfold State.sjcLoad
  try dsimp only
  repeat' first
    | (with_reducible rfl)
    | (with_reducible exact Keeps.refl _ _)
    | (with_reducible apply Keeps.ite)
    | (with_reducible assumption)
    | (with_reducible apply State.modPort_step)
    | intro _
    | (exact (rfl : true = true))
    | split

theorem State.tune_step {msk : Nat} {base s : State} (r : Run) (t e pos : Nat) (hSolid : solid msk = true)
    (hSub : sub 0x80000000300 msk = true) (hBase : Keeps msk base s) : Keeps msk base (State.tune s r t e pos) := by
  refine Keeps.step (v := 0x80000000300) ?_ hSolid hSub hBase
  clear hSolid hSub hBase
  unfold State.tune
  try dsimp only
  repeat' first
    | (with_reducible rfl)
    | (with_reducible exact Keeps.refl _ _)
    | (with_reducible apply Keeps.ite)
    | (with_reducible assumption)
    | (with_reducible apply State.modPort_step)
    | (with_reducible apply State.setChan_step)
    | (with_reducible apply Keeps.setFld (regWindow_uhaHopState ..))
    | intro _
    | (exact (rfl : true = true))
    | split

theorem State.hopLength_step {msk : Nat} {base s : State} (r : Run) (t : Nat) (hSolid : solid msk = true)
    (hSub : sub 0x80000000100 msk = true) (hBase : Keeps msk base s) : Keeps msk base (State.hopLength s r t) := by
  refine Keeps.step (v := 0x80000000100) ?_ hSolid hSub hBase
  clear hSolid hSub hBase
  unfold State.hopLength
  try dsimp only
  repeat' first
    | (with_reducible rfl)
    | (with_reducible exact Keeps.refl _ _)
    | (with_reducible apply Keeps.ite)
    | (with_reducible assumption)
    | (with_reducible apply State.modPort_step)
    | (with_reducible apply Keeps.setFld (regWindow_uhaHopState ..))
    | intro _
    | (exact (rfl : true = true))
    | split

theorem State.hopLengths_step {msk : Nat} {base s : State} (r : Run) (hSolid : solid msk = true)
    (hSub : sub 0x80000000100 msk = true) (hBase : Keeps msk base s) : Keeps msk base (State.hopLengths s r) := by
  refine Keeps.step (v := 0x80000000100) ?_ hSolid hSub hBase
  clear hSolid hSub hBase
  unfold State.hopLengths
  try dsimp only
  repeat' first
    | (with_reducible rfl)
    | (with_reducible exact Keeps.refl _ _)
    | (with_reducible apply Keeps.ite)
    | (with_reducible assumption)
    | (with_reducible apply Keeps.each)
    | (with_reducible apply State.hopLength_step)
    | intro _
    | (exact (rfl : true = true))
    | split

theorem State.newPass_step {msk : Nat} {base s : State} (r : Run) (t : Nat) (last : Option Nat) (hSolid : solid msk = true)
    (hSub : sub 0x80040000300 msk = true) (hBase : Keeps msk base s) : Keeps msk base (State.newPass s r t last) := by
  refine Keeps.step (v := 0x80040000300) ?_ hSolid hSub hBase
  clear hSolid hSub hBase
  unfold State.newPass
  try dsimp only
  repeat' first
    | (with_reducible rfl)
    | (with_reducible exact Keeps.refl _ _)
    | (with_reducible apply Keeps.ite)
    | (with_reducible assumption)
    | (with_reducible apply State.modPort_step)
    | (with_reducible apply State.skip_step)
    | (with_reducible apply State.tune_step)
    | intro _
    | (exact (rfl : true = true))
    | split

theorem State.nextChannel_step {msk : Nat} {base s : State} (r : Run) (hSolid : solid msk = true)
    (hSub : sub 0x80040000300 msk = true) (hBase : Keeps msk base s) : Keeps msk base (State.nextChannel s r) := by
  refine Keeps.step (v := 0x80040000300) ?_ hSolid hSub hBase
  clear hSolid hSub hBase
  unfold State.nextChannel
  try dsimp only
  repeat' first
    | (with_reducible rfl)
    | (with_reducible exact Keeps.refl _ _)
    | (with_reducible apply Keeps.ite)
    | (with_reducible assumption)
    | (with_reducible apply State.tune_step)
    | (with_reducible apply State.newPass_step)
    | intro _
    | (exact (rfl : true = true))
    | split

theorem State.setPins_step {msk : Nat} {base s : State} (p : ℕ) (v : BitVec 3) (mask : BitVec 3) (hSolid : solid msk = true)
    (hSub : sub 0x100 msk = true) (hBase : Keeps msk base s) : Keeps msk base (State.setPins s p v mask) := by
  refine Keeps.step (v := 0x100) ?_ hSolid hSub hBase
  clear hSolid hSub hBase
  unfold State.setPins
  try dsimp only
  repeat' first
    | (with_reducible rfl)
    | (with_reducible exact Keeps.refl _ _)
    | (with_reducible apply Keeps.ite)
    | (with_reducible assumption)
    | (with_reducible apply State.modPort_step)
    | intro _
    | (exact (rfl : true = true))
    | split

theorem State.pinsSafe_step {msk : Nat} {base s : State} (p : ℕ) (hSolid : solid msk = true)
    (hSub : sub 0x100 msk = true) (hBase : Keeps msk base s) : Keeps msk base (State.pinsSafe s p) := by
  refine Keeps.step (v := 0x100) ?_ hSolid hSub hBase
  clear hSolid hSub hBase
  unfold State.pinsSafe
  try dsimp only
  repeat' first
    | (with_reducible rfl)
    | (with_reducible exact Keeps.refl _ _)
    | (with_reducible apply Keeps.ite)
    | (with_reducible assumption)
    | (with_reducible apply State.modPort_step)
    | intro _
    | (exact (rfl : true = true))
    | split

theorem State.takeDrive_step {msk : Nat} {base s : State} (r : Run) (n : Nat) (slew : Bool) (hSolid : solid msk = true)
    (hSub : sub 0x200 msk = true) (hBase : Keeps msk base s) : Keeps msk base (State.takeDrive s r n slew) := by
  refine Keeps.step (v := 0x200) ?_ hSolid hSub hBase
  clear hSolid hSub hBase
  unfold State.takeDrive
  try dsimp only
  repeat' first
    | (with_reducible rfl)
    | (with_reducible exact Keeps.refl _ _)
    | (with_reducible apply Keeps.ite)
    | (with_reducible assumption)
    | (with_reducible apply State.modSlice_step)
    | intro _
    | (exact (rfl : true = true))
    | split

theorem State.regulate_step {msk : Nat} {base s : State} (r : Run) (n z : Nat) (hSolid : solid msk = true)
    (hSub : sub 0x200 msk = true) (hBase : Keeps msk base s) : Keeps msk base (State.regulate s r n z) := by
  refine Keeps.step (v := 0x200) ?_ hSolid hSub hBase
  clear hSolid hSub hBase
  unfold State.regulate
  try dsimp only
  repeat' first
    | (with_reducible rfl)
    | (with_reducible exact Keeps.refl _ _)
    | (with_reducible apply Keeps.ite)
    | (with_reducible assumption)
    | (with_reducible apply State.modSlice_step)
    | intro _
    | (exact (rfl : true = true))
    | split

theorem State.frontChannel_step {msk : Nat} {base s : State} (r : Run) (hSolid : solid msk = true)
    (hSub : sub 0x80040000300 msk = true) (hBase : Keeps msk base s) : Keeps msk base (State.frontChannel s r) := by
  refine Keeps.step (v := 0x80040000300) ?_ hSolid hSub hBase
  clear hSolid hSub hBase
  unfold State.frontChannel
  try dsimp only
  repeat' first
    | (with_reducible rfl)
    | (with_reducible exact Keeps.refl _ _)
    | (with_reducible apply Keeps.ite)
    | (with_reducible assumption)
    | (with_reducible apply State.setChan_step)
    | (with_reducible apply State.nextChannel_step)
    | intro _
    | (exact (rfl : true = true))
    | split

theorem State.startFront_step {msk : Nat} {base s : State} (r : Run) (from_ : Nat) (hSolid : solid msk = true)
    (hSub : sub 0x80040000380 msk = true) (hBase : Keeps msk base s) : Keeps msk base (State.startFront s r from_) := by
  refine Keeps.step (v := 0x80040000380) ?_ hSolid hSub hBase
  clear hSolid hSub hBase
  unfold State.startFront
  try dsimp only
  repeat' first
    | (with_reducible rfl)
    | (with_reducible exact Keeps.refl _ _)
    | (with_reducible apply Keeps.ite)
    | (with_reducible assumption)
    | (with_reducible apply State.frontChannel_step)
    | (with_reducible apply Keeps.each)
    | (with_reducible apply State.takeDrive_step)
    | (with_reducible apply State.modPort_step)
    | (with_reducible apply State.sendFrom_step)
    | (with_reducible apply State.putRun_step)
    | intro _
    | (exact (rfl : true = true))
    | split

theorem State.railHealth_step {msk : Nat} {base s : State} (p : ℕ) (hSolid : solid msk = true)
    (hSub : sub 0x202006004005C msk = true) (hBase : Keeps msk base s) : Keeps msk base (State.railHealth s p) := by
  refine Keeps.step (v := 0x202006004005C) ?_ hSolid hSub hBase
  clear hSolid hSub hBase
  unfold State.railHealth
  try dsimp only
  repeat' first
    | (with_reducible rfl)
    | (with_reducible exact Keeps.refl _ _)
    | (with_reducible apply Keeps.ite)
    | (with_reducible assumption)
    | (with_reducible apply State.health_step)
    | (with_reducible refine State.setSch_sameStep _ (by simp only [Sch.cycle, State.setFld_sch, State.setBit_sch]) ?_ ?_ ?_)
    | intro _
    | (exact (rfl : true = true))
    | split

theorem State.capHealth_step {msk : Nat} {base s : State} (p : ℕ) (cap : ℕ) (hSolid : solid msk = true)
    (hSub : sub 0x202006004005C msk = true) (hBase : Keeps msk base s) : Keeps msk base (State.capHealth s p cap) := by
  refine Keeps.step (v := 0x202006004005C) ?_ hSolid hSub hBase
  clear hSolid hSub hBase
  unfold State.capHealth
  try dsimp only
  repeat' first
    | (with_reducible rfl)
    | (with_reducible exact Keeps.refl _ _)
    | (with_reducible apply Keeps.ite)
    | (with_reducible assumption)
    | (with_reducible apply State.health_step)
    | (with_reducible refine State.setSch_sameStep _ (by simp only [Sch.cycle, State.setFld_sch, State.setBit_sch]) ?_ ?_ ?_)
    | intro _
    | (exact (rfl : true = true))
    | split

theorem State.driveShown_step {msk : Nat} {base s : State} (r : Run) (n p : Nat) (o : SliceObs) (hSolid : solid msk = true)
    (hSub : sub 0x10000000200 msk = true) (hBase : Keeps msk base s) : Keeps msk base (State.driveShown s r n p o) := by
  refine Keeps.step (v := 0x10000000200) ?_ hSolid hSub hBase
  clear hSolid hSub hBase
  unfold State.driveShown
  try dsimp only
  repeat' first
    | (with_reducible rfl)
    | (with_reducible exact Keeps.refl _ _)
    | (with_reducible apply Keeps.ite)
    | (with_reducible assumption)
    | (with_reducible apply Keeps.setReg (regWindow_hfaDriveStatus ..))
    | (with_reducible apply State.stamp_step)
    | intro _
    | (exact (rfl : true = true))
    | split

theorem State.railLimited_step {msk : Nat} {base s : State} (r : Run) (n p : Nat) (hSolid : solid msk = true)
    (hSub : sub 0x203006004005C msk = true) (hBase : Keeps msk base s) : Keeps msk base (State.railLimited s r n p) := by
  refine Keeps.step (v := 0x203006004005C) ?_ hSolid hSub hBase
  clear hSolid hSub hBase
  unfold State.railLimited
  try dsimp only
  repeat' first
    | (with_reducible rfl)
    | (with_reducible exact Keeps.refl _ _)
    | (with_reducible apply Keeps.ite)
    | (with_reducible assumption)
    | (with_reducible apply Keeps.setBit (regWindow_hfaDriveStatus ..))
    | (with_reducible apply Keeps.bumpSat regWindow_hfaRailLimitCnt)
    | (with_reducible apply State.railHealth_step)
    | (with_reducible refine State.setSch_sameStep _ (by simp only [Sch.cycle, State.setFld_sch, State.setBit_sch]) ?_ ?_ ?_)
    | intro _
    | (exact (rfl : true = true))
    | split

theorem State.driveTold_step {msk : Nat} {base s : State} (r : Run) (n p z : Nat) (hSolid : solid msk = true)
    (hSub : sub 0x203006004005C msk = true) (hBase : Keeps msk base s) : Keeps msk base (State.driveTold s r n p z) := by
  refine Keeps.step (v := 0x203006004005C) ?_ hSolid hSub hBase
  clear hSolid hSub hBase
  unfold State.driveTold
  try dsimp only
  repeat' first
    | (with_reducible rfl)
    | (with_reducible exact Keeps.refl _ _)
    | (with_reducible apply Keeps.ite)
    | (with_reducible assumption)
    | (with_reducible apply State.railLimited_step)
    | (with_reducible apply State.capHealth_step)
    | intro _
    | (exact (rfl : true = true))
    | split

theorem State.showDrive_step {msk : Nat} {base s : State} (r : Run) (n p : Nat) (o : SliceObs) (hSolid : solid msk = true)
    (hSub : sub 0x203006004025C msk = true) (hBase : Keeps msk base s) : Keeps msk base (State.showDrive s r n p o) := by
  refine Keeps.step (v := 0x203006004025C) ?_ hSolid hSub hBase
  clear hSolid hSub hBase
  unfold State.showDrive
  try dsimp only
  repeat' first
    | (with_reducible rfl)
    | (with_reducible exact Keeps.refl _ _)
    | (with_reducible apply Keeps.ite)
    | (with_reducible assumption)
    | (with_reducible apply State.regulate_step)
    | (with_reducible apply State.driveShown_step)
    | (with_reducible apply State.driveTold_step)
    | intro _
    | (exact (rfl : true = true))
    | split

theorem State.driveNone_step {msk : Nat} {base s : State} (n : Nat) (hSolid : solid msk = true)
    (hSub : sub 0x10000000000 msk = true) (hBase : Keeps msk base s) : Keeps msk base (State.driveNone s n) := by
  refine Keeps.step (v := 0x10000000000) ?_ hSolid hSub hBase
  clear hSolid hSub hBase
  unfold State.driveNone
  try dsimp only
  repeat' first
    | (with_reducible rfl)
    | (with_reducible exact Keeps.refl _ _)
    | (with_reducible apply Keeps.ite)
    | (with_reducible assumption)
    | (with_reducible apply Keeps.setFld (regWindow_hfaDriveStatus ..))
    | intro _
    | (exact (rfl : true = true))
    | split

theorem State.heldDrive_step {msk : Nat} {base s : State} (r : Run) (hSolid : solid msk = true)
    (hSub : sub 0x203006004005C msk = true) (hBase : Keeps msk base s) : Keeps msk base (State.heldDrive s r) := by
  refine Keeps.step (v := 0x203006004005C) ?_ hSolid hSub hBase
  clear hSolid hSub hBase
  unfold State.heldDrive
  try dsimp only
  repeat' first
    | (with_reducible rfl)
    | (with_reducible exact Keeps.refl _ _)
    | (with_reducible apply Keeps.ite)
    | (with_reducible assumption)
    | (with_reducible apply Keeps.each)
    | (with_reducible apply State.driveTold_step)
    | intro _
    | (exact (rfl : true = true))
    | split

theorem State.remeasured_step {msk : Nat} {base s : State} (r : Run) (n p z0 : Nat) (o : HeadObs) (hSolid : solid msk = true)
    (hSub : sub 0x203006004025C msk = true) (hBase : Keeps msk base s) : Keeps msk base (State.remeasured s r n p z0 o) := by
  refine Keeps.step (v := 0x203006004025C) ?_ hSolid hSub hBase
  clear hSolid hSub hBase
  unfold State.remeasured
  try dsimp only
  repeat' first
    | (with_reducible rfl)
    | (with_reducible exact Keeps.refl _ _)
    | (with_reducible apply Keeps.ite)
    | (with_reducible assumption)
    | (with_reducible apply State.regulate_step)
    | (with_reducible apply State.driveTold_step)
    | (with_reducible apply State.driveShown_step)
    | (with_reducible apply State.skip_step)
    | intro _
    | (exact (rfl : true = true))
    | split

theorem State.nextSetting_step {msk : Nat} {base s : State} (r : Run) (n : Nat) (hSolid : solid msk = true)
    (hSub : sub 0x203006004025C msk = true) (hBase : Keeps msk base s) : Keeps msk base (State.nextSetting s r n) := by
  refine Keeps.step (v := 0x203006004025C) ?_ hSolid hSub hBase
  clear hSolid hSub hBase
  unfold State.nextSetting
  try dsimp only
  repeat' first
    | (with_reducible rfl)
    | (with_reducible exact Keeps.refl _ _)
    | (with_reducible apply Keeps.ite)
    | (with_reducible assumption)
    | (with_reducible apply State.takeDrive_step)
    | (with_reducible apply State.modSlice_step)
    | (with_reducible apply State.driveNone_step)
    | (with_reducible apply State.sliceTo_step)
    | (with_reducible apply State.showDrive_step)
    | (with_reducible apply State.skip_step)
    | intro _
    | (exact (rfl : true = true))
    | split

theorem State.driveSetting_step {msk : Nat} {base s : State} (r : Run) (hSolid : solid msk = true)
    (hSub : sub 0x203006004025C msk = true) (hBase : Keeps msk base s) : Keeps msk base (State.driveSetting s r) := by
  refine Keeps.step (v := 0x203006004025C) ?_ hSolid hSub hBase
  clear hSolid hSub hBase
  unfold State.driveSetting
  try dsimp only
  repeat' first
    | (with_reducible rfl)
    | (with_reducible exact Keeps.refl _ _)
    | (with_reducible apply Keeps.ite)
    | (with_reducible assumption)
    | (with_reducible apply Keeps.each)
    | (with_reducible apply State.nextSetting_step)
    | intro _
    | (exact (rfl : true = true))
    | split

theorem State.sjcDown_step {msk : Nat} {base s : State} (n p : Nat) (hSolid : solid msk = true)
    (hSub : sub 0x80000000000 msk = true) (hBase : Keeps msk base s) : Keeps msk base (State.sjcDown s n p) := by
  refine Keeps.step (v := 0x80000000000) ?_ hSolid hSub hBase
  clear hSolid hSub hBase
  unfold State.sjcDown
  try dsimp only
  repeat' first
    | (with_reducible rfl)
    | (with_reducible exact Keeps.refl _ _)
    | (with_reducible apply Keeps.ite)
    | (with_reducible assumption)
    | (with_reducible apply State.sjcSave_step)
    | intro _
    | (exact (rfl : true = true))
    | split

theorem State.lowerField_step {msk : Nat} {base s : State} (r : Run) (ramp : ℕ) (hSolid : solid msk = true)
    (hSub : sub 0x80000000200 msk = true) (hBase : Keeps msk base s) : Keeps msk base (State.lowerField s r ramp) := by
  refine Keeps.step (v := 0x80000000200) ?_ hSolid hSub hBase
  clear hSolid hSub hBase
  unfold State.lowerField
  try dsimp only
  repeat' first
    | (with_reducible rfl)
    | (with_reducible exact Keeps.refl _ _)
    | (with_reducible apply Keeps.ite)
    | (with_reducible assumption)
    | (with_reducible apply State.restSlice_step)
    | (with_reducible apply State.sjcDown_step)
    | (with_reducible apply Keeps.each)
    | intro _
    | (exact (rfl : true = true))
    | split

theorem State.startDwell_step {msk : Nat} {base s : State} (n p at_ : Nat) (hSolid : solid msk = true)
    (hSub : sub 0x300 msk = true) (hBase : Keeps msk base s) : Keeps msk base (State.startDwell s n p at_) := by
  refine Keeps.step (v := 0x300) ?_ hSolid hSub hBase
  clear hSolid hSub hBase
  unfold State.startDwell
  try dsimp only
  repeat' first
    | (with_reducible rfl)
    | (with_reducible exact Keeps.refl _ _)
    | (with_reducible apply Keeps.ite)
    | (with_reducible assumption)
    | (with_reducible apply State.modSlice_step)
    | (with_reducible apply State.modPort_step)
    | intro _
    | (exact (rfl : true = true))
    | split

theorem State.startHop_step {msk : Nat} {base s : State} (r : Run) (hSolid : solid msk = true)
    (hSub : sub 0x80040000300 msk = true) (hBase : Keeps msk base s) : Keeps msk base (State.startHop s r) := by
  refine Keeps.step (v := 0x80040000300) ?_ hSolid hSub hBase
  clear hSolid hSub hBase
  unfold State.startHop
  try dsimp only
  repeat' first
    | (with_reducible rfl)
    | (with_reducible exact Keeps.refl _ _)
    | (with_reducible apply Keeps.ite)
    | (with_reducible assumption)
    | (with_reducible apply State.sjcSave_step)
    | (with_reducible apply State.nextChannel_step)
    | (with_reducible apply State.modSlice_step)
    | (with_reducible apply State.startDwell_step)
    | intro _
    | (exact (rfl : true = true))
    | split

theorem State.darkSlice_step {msk : Nat} {base s : State} (n : ℕ) (hSolid : solid msk = true)
    (hSub : sub 0x200 msk = true) (hBase : Keeps msk base s) : Keeps msk base (State.darkSlice s n) := by
  refine Keeps.step (v := 0x200) ?_ hSolid hSub hBase
  clear hSolid hSub hBase
  unfold State.darkSlice
  try dsimp only
  repeat' first
    | (with_reducible rfl)
    | (with_reducible exact Keeps.refl _ _)
    | (with_reducible apply Keeps.ite)
    | (with_reducible assumption)
    | (with_reducible apply State.sendFrom_step)
    | intro _
    | (exact (rfl : true = true))
    | split

end Sys2Proof.Machine
end

