-- ==== Sys2Proof/Laws/KeepsReset.lean ====
section
/-! SUPPORT. What each operation of Machine/Reset.lean may change (Laws/Keeps.lean reads the masks). -/

namespace Sys2Proof.Machine

set_option linter.unreachableTactic false
set_option linter.unusedTactic false

theorem State.setRegList_step {msk : Nat} {base s : State} (l : List (ℕ × Word)) (hSolid : solid msk = true)
    (hSub : sub 0x1FFFE93E00000000 msk = true) (hBase : Keeps msk base s) : Keeps msk base (State.setRegList s l) := by
  refine Keeps.step (v := 0x1FFFE93E00000000) ?_ hSolid hSub hBase
  clear hSolid hSub hBase
  unfold State.setRegList
  try dsimp only
  repeat' first
    | (with_reducible rfl)
    | (with_reducible exact Keeps.refl _ _)
    | (with_reducible apply Keeps.ite)
    | (with_reducible assumption)
    | (with_reducible apply State.setReg_anyStep)
    | (with_reducible apply Keeps.each)
    | intro _
    | (exact (rfl : true = true))
    | split

theorem State.pullDown_step {msk : Nat} {base s : State} (l : List Nat) (hSolid : solid msk = true)
    (hSub : sub 0x1FFFE93E00000000 msk = true) (hBase : Keeps msk base s) : Keeps msk base (State.pullDown s l) := by
  refine Keeps.step (v := 0x1FFFE93E00000000) ?_ hSolid hSub hBase
  clear hSolid hSub hBase
  unfold State.pullDown
  try dsimp only
  repeat' first
    | (with_reducible rfl)
    | (with_reducible exact Keeps.refl _ _)
    | (with_reducible apply Keeps.ite)
    | (with_reducible assumption)
    | (with_reducible apply State.setRegList_step)
    | intro _
    | (exact (rfl : true = true))
    | split

theorem State.holdPulls_step {msk : Nat} {base s : State} (held : Bool) (hSolid : solid msk = true)
    (hSub : sub 0x1FFFE93E00000000 msk = true) (hBase : Keeps msk base s) : Keeps msk base (State.holdPulls s held) := by
  refine Keeps.step (v := 0x1FFFE93E00000000) ?_ hSolid hSub hBase
  clear hSolid hSub hBase
  unfold State.holdPulls
  try dsimp only
  repeat' first
    | (with_reducible rfl)
    | (with_reducible exact Keeps.refl _ _)
    | (with_reducible apply Keeps.ite)
    | (with_reducible assumption)
    | (with_reducible apply State.pullDown_step)
    | intro _
    | (exact (rfl : true = true))
    | split

theorem State.releaseStraps_step {msk : Nat} {base s : State} (c : Cause) (hSolid : solid msk = true)
    (hSub : sub 0x1FFFE93E01000000 msk = true) (hBase : Keeps msk base s) : Keeps msk base (State.releaseStraps s c) := by
  unfold State.releaseStraps
  split
  · exact State.setCab_step _ hSolid (sub_trans rfl hSub) (State.setRegList_step _ hSolid (sub_trans rfl hSub) hBase)
  · exact hBase

theorem State.showInhibit_step {msk : Nat} {base s : State}  (hSolid : solid msk = true)
    (hSub : sub 0x800000000000000 msk = true) (hBase : Keeps msk base s) : Keeps msk base (State.showInhibit s) := by
  refine Keeps.step (v := 0x800000000000000) ?_ hSolid hSub hBase
  clear hSolid hSub hBase
  unfold State.showInhibit
  try dsimp only
  repeat' first
    | (with_reducible rfl)
    | (with_reducible exact Keeps.refl _ _)
    | (with_reducible apply Keeps.ite)
    | (with_reducible assumption)
    | (with_reducible apply Keeps.setBit regWindow_cabRfoffStatus)
    | intro _
    | (exact (rfl : true = true))
    | split

theorem State.takeReset_step {msk : Nat} {base s : State} (c : Cause) (hSolid : solid msk = true)
    (hSub : sub 0x8000000000000000 msk = true) (hBase : Keeps msk base s) : Keeps msk base (s.takeReset c) := by
  have hb : msk.testBit 63 = true := by
    cases h : msk.testBit 63 with
    | true => rfl
    | false => exact absurd (sub_bit hSub h) (by decide)
  have k : Keeps 0x1FFFFFFE01000000 (s.logicReset c) (s.takeReset c) := by
    unfold State.takeReset
    apply State.showInhibit_step (by decide) (by decide)
    apply State.releaseStraps_step _ (by decide) (by decide)
    apply State.holdPulls_step _ (by decide) (by decide)
    apply State.setRegList_step _ (by decide) (by decide)
    exact Keeps.refl _ _
  have hseq : (s.takeReset c).boot.seq ≠ none := by rw [k.boot (.inl (by decide)) (by decide)]; exact Option.some_ne_none _
  have no : ∀ {P : Prop}, (msk.testBit 63 = false ∨ (s.takeReset c).boot.seq = none) → P := by
    rintro P (h | h)
    · rw [hb] at h; cases h
    · exact absurd h hseq
  exact {
    pending := by rw [k.pending]; exact hBase.pending
    wfRegs := fun _ => k.wfRegs rfl
    wfMem := fun h => k.wfMem (SMap.wf_filter _ _ _ (hBase.wfMem h))
    wfEcc := fun h => k.wfEcc (SMap.wf_filter _ _ _ (hBase.wfEcc h))
    wfFlash := fun h => k.wfFlash (hBase.wfFlash h)
    up := fun _ h => absurd h hseq
    order := fun _ _ => k.order rfl (State.inOrder_idle rfl)
    clock := fun h _ => no h
    ecc := fun h _ => no h
    bufs := fun h _ => no h
    fifos := fun h _ => no h
    boot := fun h _ => no h
    sch := fun h _ => no h
    runs := fun h _ => no h
    ports := fun h _ => no h
    slices := fun h _ => no h
    records := fun h _ => no h
    polarity := fun h _ => no h
    requests := fun h _ => no h
    sec := fun h _ => no h
    decoders := fun h _ => no h
    hostRuns := fun h _ => no h
    awning := fun h _ => no h
    lantern := fun h _ => no h
    hif := fun h _ => no h
    pit := fun h _ => no h
    hlt := fun h _ => no h
    flash := fun h _ => no h
    guy := fun h _ => no h
    cxp := fun h _ => no h
    cab := fun h _ => no h
    trl := fun h _ => no h
    tap := fun h _ => no h
    wheel := fun h _ => no h
    resp := fun h _ => no h
    out := fun h _ => no h
    fresh := fun h _ => no h
    mem := fun h _ => no h
    pool := fun h _ => no h
    tables := fun h _ => no h
    inner := fun h _ => no h
    ring := fun h _ => no h
    busy := fun h _ => no h
    stakes := fun h _ => no h
    cycle := fun h _ => no h
    regs := fun h _ _ => no h }

theorem State.eccCritical_step {msk : Nat} {base s : State}  (hSolid : solid msk = true)
    (hSub : sub 0x8000000000000000 msk = true) (hBase : Keeps msk base s) : Keeps msk base (State.eccCritical s) := by
  refine Keeps.step (v := 0x8000000000000000) ?_ hSolid hSub hBase
  clear hSolid hSub hBase
  unfold State.eccCritical
  try dsimp only
  repeat' first
    | (with_reducible rfl)
    | (with_reducible exact Keeps.refl _ _)
    | (with_reducible apply Keeps.ite)
    | (with_reducible assumption)
    | (with_reducible apply State.takeReset_step)
    | intro _
    | (exact (rfl : true = true))
    | split

end Sys2Proof.Machine
end

