-- ==== Sys2Proof/Laws/KeepsExchange.lean ====
section
/-! SUPPORT. What each operation of Machine/Exchange.lean may change (Laws/Keeps.lean reads the masks). -/

namespace Sys2Proof.Machine

set_option linter.unreachableTactic false
set_option linter.unusedTactic false

theorem State.freeDecoder_step {msk : Nat} {base s : State} (r : Run) (hSolid : solid msk = true)
    (hSub : sub 0x800000004000 msk = true) (hBase : Keeps msk base s) : Keeps msk base (State.freeDecoder s r) := by
  refine Keeps.step (v := 0x800000004000) ?_ hSolid hSub hBase
  clear hSolid hSub hBase
  unfold State.freeDecoder
  try dsimp only
  repeat' first
    | (with_reducible rfl)
    | (with_reducible exact Keeps.refl _ _)
    | (with_reducible apply Keeps.ite)
    | (with_reducible assumption)
    | (with_reducible apply State.setDecoders_step)
    | (with_reducible apply Keeps.setBit regWindow_wrdStatus)
    | intro _
    | (exact (rfl : true = true))
    | split

theorem State.traceExch_step {msk : Nat} {base s : State} (r : Run) (c : Option Cmd) (cls : XClass) (st : Status) (hSolid : solid msk = true)
    (hSub : sub 0x1000000002000000 msk = true) (hBase : Keeps msk base s) : Keeps msk base (State.traceExch s r c cls st) := by
  refine Keeps.step (v := 0x1000000002000000) ?_ hSolid hSub hBase
  clear hSolid hSub hBase
  unfold State.traceExch
  try dsimp only
  repeat' first
    | (with_reducible rfl)
    | (with_reducible exact Keeps.refl _ _)
    | (with_reducible apply Keeps.ite)
    | (with_reducible assumption)
    | (with_reducible apply State.trace_step)
    | intro _
    | (exact (rfl : true = true))
    | split

theorem State.finishRequest_step {msk : Nat} {base s : State} (r : Run) (q : Request) (a : Action) (hSolid : solid msk = true)
    (hSub : sub 0x100202006204009C msk = true) (hBase : Keeps msk base s) : Keeps msk base (State.finishRequest s r q a) := by
  refine Keeps.step (v := 0x100202006204009C) ?_ hSolid hSub hBase
  clear hSolid hSub hBase
  unfold State.finishRequest
  try dsimp only
  repeat' first
    | (with_reducible rfl)
    | (with_reducible exact Keeps.refl _ _)
    | (with_reducible apply Keeps.ite)
    | (with_reducible assumption)
    | (with_reducible apply State.putRun_step)
    | (with_reducible apply State.requestDone_step)
    | intro _
    | (exact (rfl : true = true))
    | split

theorem State.endWork_step {msk : Nat} {base s : State} (r : Run) (st : Status) (cut : Bool) (hSolid : solid msk = true)
    (hSub : sub 0x100202006204009C msk = true) (hBase : Keeps msk base s) : Keeps msk base (State.endWork s r st cut) := by
  refine Keeps.step (v := 0x100202006204009C) ?_ hSolid hSub hBase
  clear hSolid hSub hBase
  unfold State.endWork
  try dsimp only
  repeat' first
    | (with_reducible rfl)
    | (with_reducible exact Keeps.refl _ _)
    | (with_reducible apply Keeps.ite)
    | (with_reducible assumption)
    | (with_reducible apply State.finishRequest_step)
    | (with_reducible apply State.actionReport_step)
    | (with_reducible apply State.tagReport_step)
    | (with_reducible apply State.putRun_step)
    | intro _
    | (exact (rfl : true = true))
    | split

theorem State.cutExch_step {msk : Nat} {base s : State} (r : Run) (st : Status) (hSolid : solid msk = true)
    (hSub : sub 0x10228320620462DC msk = true) (hBase : Keeps msk base s) : Keeps msk base (State.cutExch s r st) := by
  refine Keeps.step (v := 0x10228320620462DC) ?_ hSolid hSub hBase
  clear hSolid hSub hBase
  unfold State.cutExch
  try dsimp only
  repeat' first
    | (with_reducible rfl)
    | (with_reducible exact Keeps.refl _ _)
    | (with_reducible apply Keeps.ite)
    | (with_reducible assumption)
    | (with_reducible apply State.endWork_step)
    | (with_reducible apply Keeps.bumpSat regWindow_schOverrunCnt)
    | (with_reducible apply State.traceExch_step)
    | (with_reducible apply State.budgetNote_step)
    | (with_reducible apply State.freeDecoder_step)
    | (with_reducible apply State.driveSetting_step)
    | intro _
    | (exact (rfl : true = true))
    | split

theorem State.stopRadio_step {msk : Nat} {base s : State} (r : Run) (st : Status) (hSolid : solid msk = true)
    (hSub : sub 0x10228320620462DC msk = true) (hBase : Keeps msk base s) : Keeps msk base (State.stopRadio s r st) := by
  refine Keeps.step (v := 0x10228320620462DC) ?_ hSolid hSub hBase
  clear hSolid hSub hBase
  unfold State.stopRadio
  try dsimp only
  repeat' first
    | (with_reducible rfl)
    | (with_reducible exact Keeps.refl _ _)
    | (with_reducible apply Keeps.ite)
    | (with_reducible assumption)
    | (with_reducible apply State.modRun_step)
    | (with_reducible apply State.cutExch_step)
    | intro _
    | (exact (rfl : true = true))
    | split

theorem State.saveWalk_step {msk : Nat} {base s : State} (r : Run) (hSolid : solid msk = true)
    (hSub : sub 0x400 msk = true) (hBase : Keeps msk base s) : Keeps msk base (State.saveWalk s r) := by
  refine Keeps.step (v := 0x400) ?_ hSolid hSub hBase
  clear hSolid hSub hBase
  unfold State.saveWalk
  try dsimp only
  repeat' first
    | (with_reducible rfl)
    | (with_reducible exact Keeps.refl _ _)
    | (with_reducible apply Keeps.ite)
    | (with_reducible assumption)
    | (with_reducible apply State.setRecords_step)
    | intro _
    | (exact (rfl : true = true))
    | split

theorem State.beginTail_step {msk : Nat} {base s : State} (r : Run) (hSolid : solid msk = true)
    (hSub : sub 0x10228B20620467DC msk = true) (hBase : Keeps msk base s) : Keeps msk base (State.beginTail s r) := by
  refine Keeps.step (v := 0x10228B20620467DC) ?_ hSolid hSub hBase
  clear hSolid hSub hBase
  unfold State.beginTail
  try dsimp only
  repeat' first
    | (with_reducible rfl)
    | (with_reducible exact Keeps.refl _ _)
    | (with_reducible apply Keeps.ite)
    | (with_reducible assumption)
    | (with_reducible apply State.cutExch_step)
    | (with_reducible apply State.saveWalk_step)
    | (with_reducible apply State.putRun_step)
    | (with_reducible apply Keeps.each)
    | (with_reducible apply State.modPort_step)
    | (with_reducible apply State.lowerField_step)
    | intro _
    | (exact (rfl : true = true))
    | split

theorem State.notSent_step {msk : Nat} {base s : State} (r : Run) (c : Cmd) (st : Status) (hSolid : solid msk = true)
    (hSub : sub 0x100242006204089C msk = true) (hBase : Keeps msk base s) : Keeps msk base (State.notSent s r c st) := by
  refine Keeps.step (v := 0x100242006204089C) ?_ hSolid hSub hBase
  clear hSolid hSub hBase
  unfold State.notSent
  try dsimp only
  repeat' first
    | (with_reducible rfl)
    | (with_reducible exact Keeps.refl _ _)
    | (with_reducible apply Keeps.ite)
    | (with_reducible assumption)
    | (with_reducible apply State.traceExch_step)
    | (with_reducible apply State.finishRequest_step)
    | (with_reducible apply State.finishTag_step)
    | (with_reducible apply State.putRun_step)
    | (with_reducible apply State.fallback_step)
    | (with_reducible apply State.reportEnd_step)
    | intro _
    | (exact (rfl : true = true))
    | split

theorem State.send_step {msk : Nat} {base s : State} (r : Run) (c : Cmd) (u : Nat) (hSolid : solid msk = true)
    (hSub : sub 0x60000080 msk = true) (hBase : Keeps msk base s) : Keeps msk base (State.send s r c u) := by
  refine Keeps.step (v := 0x60000080) ?_ hSolid hSub hBase
  clear hSolid hSub hBase
  unfold State.send
  try dsimp only
  repeat' first
    | (with_reducible rfl)
    | (with_reducible exact Keeps.refl _ _)
    | (with_reducible apply Keeps.ite)
    | (with_reducible assumption)
    | (with_reducible apply State.skip_step)
    | (with_reducible apply State.emit_step)
    | (with_reducible apply State.putRun_step)
    | intro _
    | (exact (rfl : true = true))
    | split

theorem State.pingStart_step {msk : Nat} {base s : State} (r : Run) (hSolid : solid msk = true)
    (hSub : sub 0x20020280 msk = true) (hBase : Keeps msk base s) : Keeps msk base (State.pingStart s r) := by
  refine Keeps.step (v := 0x20020280) ?_ hSolid hSub hBase
  clear hSolid hSub hBase
  unfold State.pingStart
  try dsimp only
  repeat' first
    | (with_reducible rfl)
    | (with_reducible exact Keeps.refl _ _)
    | (with_reducible apply Keeps.ite)
    | (with_reducible assumption)
    | (with_reducible apply State.latchPing_step)
    | (with_reducible apply State.sliceTo_step)
    | (with_reducible apply State.emit_step)
    | (with_reducible apply State.putRun_step)
    | intro _
    | (exact (rfl : true = true))
    | split

theorem State.pingOver_step {msk : Nat} {base s : State} (r : Run) (hSolid : solid msk = true)
    (hSub : sub 0x1000000002000280 msk = true) (hBase : Keeps msk base s) : Keeps msk base (State.pingOver s r) := by
  refine Keeps.step (v := 0x1000000002000280) ?_ hSolid hSub hBase
  clear hSolid hSub hBase
  unfold State.pingOver
  try dsimp only
  repeat' first
    | (with_reducible rfl)
    | (with_reducible exact Keeps.refl _ _)
    | (with_reducible apply Keeps.ite)
    | (with_reducible assumption)
    | (with_reducible apply State.traceExch_step)
    | (with_reducible apply State.sliceTo_step)
    | (with_reducible apply State.putRun_step)
    | intro _
    | (exact (rfl : true = true))
    | split

theorem State.exchangeStart_step {msk : Nat} {base s : State} (p : Nat) (hSolid : solid msk = true)
    (hSub : sub 0x1022CB2062066FDC msk = true) (hBase : Keeps msk base s) : Keeps msk base (State.exchangeStart s p) := by
  refine Keeps.step (v := 0x1022CB2062066FDC) ?_ hSolid hSub hBase
  clear hSolid hSub hBase
  unfold State.exchangeStart
  try dsimp only
  repeat' first
    | (with_reducible rfl)
    | (with_reducible exact Keeps.refl _ _)
    | (with_reducible apply Keeps.ite)
    | (with_reducible assumption)
    | (with_reducible apply State.pingStart_step)
    | (with_reducible apply State.notSent_step)
    | (with_reducible apply State.budgetRefuse_step)
    | (with_reducible apply State.startHop_step)
    | (with_reducible apply State.beginTail_step)
    | (with_reducible apply State.send_step)
    | intro _
    | (exact (rfl : true = true))
    | split

theorem State.showReply_step {msk : Nat} {base s : State} (r : Run) (o : Latched) (hSolid : solid msk = true)
    (hSub : sub 0x90000000300 msk = true) (hBase : Keeps msk base s) : Keeps msk base (State.showReply s r o) := by
  refine Keeps.step (v := 0x90000000300) ?_ hSolid hSub hBase
  clear hSolid hSub hBase
  unfold State.showReply
  try dsimp only
  repeat' first
    | (with_reducible rfl)
    | (with_reducible exact Keeps.refl _ _)
    | (with_reducible apply Keeps.ite)
    | (with_reducible assumption)
    | (with_reducible apply Keeps.each)
    | (with_reducible apply Keeps.setReg (regWindow_hfaRxStatus ..))
    | (with_reducible apply Keeps.setReg (regWindow_uhaRxStatus ..))
    | (with_reducible apply State.stamp_step)
    | (with_reducible apply State.modPort_step)
    | intro _
    | (exact (rfl : true = true))
    | split

theorem State.replyStart_step {msk : Nat} {base s : State} (p : Nat) (o : StartObs) (hSolid : solid msk = true)
    (hSub : sub 0x90000000380 msk = true) (hBase : Keeps msk base s) : Keeps msk base (State.replyStart s p o) := by
  refine Keeps.step (v := 0x90000000380) ?_ hSolid hSub hBase
  clear hSolid hSub hBase
  unfold State.replyStart
  try dsimp only
  repeat' first
    | (with_reducible rfl)
    | (with_reducible exact Keeps.refl _ _)
    | (with_reducible apply Keeps.ite)
    | (with_reducible assumption)
    | (with_reducible apply State.showReply_step)
    | (with_reducible apply State.putRun_step)
    | intro _
    | (exact (rfl : true = true))
    | split

theorem State.chkResult_step {msk : Nat} {base s : State} (n : ℕ) (port : ℕ) (result : ℕ) (pass : Bool) (empty : Bool) (hSolid : solid msk = true)
    (hSub : sub 0x1000000000000 msk = true) (hBase : Keeps msk base s) : Keeps msk base (State.chkResult s n port result pass empty) := by
  refine Keeps.step (v := 0x1000000000000) ?_ hSolid hSub hBase
  clear hSolid hSub hBase
  unfold State.chkResult
  try dsimp only
  repeat' first
    | (with_reducible rfl)
    | (with_reducible exact Keeps.refl _ _)
    | (with_reducible apply Keeps.ite)
    | (with_reducible assumption)
    | (with_reducible apply Keeps.bump regWindow_chkFailCnt)
    | (with_reducible apply Keeps.setReg (regWindow_chkResult _))
    | (with_reducible apply Keeps.setReg (regWindow_chkStatus _))
    | intro _
    | (exact (rfl : true = true))
    | split

theorem State.checkVerdict_step {msk : Nat} {base s : State} (p : Nat) (span : List Bool) (field : Word) (hSolid : solid msk = true)
    (hSub : sub 0x1000000000080 msk = true) (hBase : Keeps msk base s) : Keeps msk base (State.checkVerdict s p span field) := by
  refine Keeps.step (v := 0x1000000000080) ?_ hSolid hSub hBase
  clear hSolid hSub hBase
  unfold State.checkVerdict
  try dsimp only
  repeat' first
    | (with_reducible rfl)
    | (with_reducible exact Keeps.refl _ _)
    | (with_reducible apply Keeps.ite)
    | (with_reducible assumption)
    | (with_reducible apply State.chkResult_step)
    | (with_reducible apply State.putRun_step)
    | intro _
    | (exact (rfl : true = true))
    | split

theorem State.requestStep_step {msk : Nat} {base s : State} (r : Run) (q : Request) (a : Action) (x : Exch) (k : XClass × Status) (o : ReplyObs) (hSolid : solid msk = true)
    (hSub : sub 0x102202006204209C msk = true) (hBase : Keeps msk base s) : Keeps msk base (State.requestStep s r q a x k o) := by
  refine Keeps.step (v := 0x102202006204209C) ?_ hSolid hSub hBase
  clear hSolid hSub hBase
  unfold State.requestStep
  try dsimp only
  repeat' first
    | (with_reducible rfl)
    | (with_reducible exact Keeps.refl _ _)
    | (with_reducible apply Keeps.ite)
    | (with_reducible assumption)
    | (with_reducible apply State.traceExch_step)
    | (with_reducible apply State.budgetNote_step)
    | (with_reducible apply State.finishRequest_step)
    | (with_reducible apply State.putRun_step)
    | intro _
    | (exact (rfl : true = true))
    | split

theorem State.pairRead_step {msk : Nat} {base s : State} (r : Run) (a : Action) (x : Exch) (hSolid : solid msk = true)
    (hSub : sub 0x246006004001C msk = true) (hBase : Keeps msk base s) : Keeps msk base (State.pairRead s r a x).1 := by
  refine Keeps.step (v := 0x246006004001C) ?_ hSolid hSub hBase
  clear hSolid hSub hBase
  unfold State.pairRead
  try dsimp only
  repeat' first
    | (with_reducible rfl)
    | (with_reducible exact Keeps.refl _ _)
    | (with_reducible apply Keeps.ite)
    | (with_reducible assumption)
    | (with_reducible apply State.countRead_step)
    | (with_reducible refine Keeps.fst (State.countRead_step (by assumption) ?_ ?_ ?_) (by assumption))
    | intro _
    | (exact (rfl : true = true))
    | split

theorem State.tagStep_step {msk : Nat} {base s : State} (r : Run) (a : Action) (x : Exch) (k : XClass × Status) (o : ReplyObs) (hSolid : solid msk = true)
    (hSub : sub 0x102246006204289C msk = true) (hBase : Keeps msk base s) : Keeps msk base (State.tagStep s r a x k o) := by
  refine Keeps.step (v := 0x102246006204289C) ?_ hSolid hSub hBase
  clear hSolid hSub hBase
  unfold State.tagStep
  try dsimp only
  repeat' first
    | (with_reducible rfl)
    | (with_reducible exact Keeps.refl _ _)
    | (with_reducible apply Keeps.ite)
    | (with_reducible assumption)
    | (with_reducible apply State.traceExch_step)
    | (with_reducible apply State.budgetNote_step)
    | (with_reducible apply State.pairRead_step)
    | (with_reducible refine Keeps.fst (State.pairRead_step (by assumption) ?_ ?_ ?_) (by assumption))
    | (with_reducible apply State.finishTag_step)
    | (with_reducible apply State.putRun_step)
    | intro _
    | (exact (rfl : true = true))
    | split

theorem State.closeExch_step {msk : Nat} {base s : State} (r : Run) (x : Exch) (k : XClass × Status) (o : ReplyObs) (hSolid : solid msk = true)
    (hSub : sub 0x1022E70062046ADC msk = true) (hBase : Keeps msk base s) : Keeps msk base (State.closeExch s r x k o) := by
  refine Keeps.step (v := 0x1022E70062046ADC) ?_ hSolid hSub hBase
  clear hSolid hSub hBase
  unfold State.closeExch
  try dsimp only
  repeat' first
    | (with_reducible rfl)
    | (with_reducible exact Keeps.refl _ _)
    | (with_reducible apply Keeps.ite)
    | (with_reducible assumption)
    | (with_reducible apply Keeps.bump regWindow_frmKrvSkewCnt)
    | (with_reducible apply State.freeDecoder_step)
    | (with_reducible apply State.driveSetting_step)
    | (with_reducible apply State.requestStep_step)
    | (with_reducible apply State.tagStep_step)
    | (with_reducible apply State.traceExch_step)
    | (with_reducible apply State.walkEnd_step)
    | intro _
    | (exact (rfl : true = true))
    | split

theorem State.exchangeEnd_step {msk : Nat} {base s : State} (p : Nat) (o : ReplyObs) (hSolid : solid msk = true)
    (hSub : sub 0x1022E70062046ADC msk = true) (hBase : Keeps msk base s) : Keeps msk base (State.exchangeEnd s p o) := by
  refine Keeps.step (v := 0x1022E70062046ADC) ?_ hSolid hSub hBase
  clear hSolid hSub hBase
  unfold State.exchangeEnd
  try dsimp only
  repeat' first
    | (with_reducible rfl)
    | (with_reducible exact Keeps.refl _ _)
    | (with_reducible apply Keeps.ite)
    | (with_reducible assumption)
    | (with_reducible apply State.closeExch_step)
    | intro _
    | (exact (rfl : true = true))
    | split

theorem State.exchangeTimeout_step {msk : Nat} {base s : State} (p : Nat) (o : LateObs) (hSolid : solid msk = true)
    (hSub : sub 0x1022E70062046ADC msk = true) (hBase : Keeps msk base s) : Keeps msk base (State.exchangeTimeout s p o) := by
  refine Keeps.step (v := 0x1022E70062046ADC) ?_ hSolid hSub hBase
  clear hSolid hSub hBase
  unfold State.exchangeTimeout
  try dsimp only
  repeat' first
    | (with_reducible rfl)
    | (with_reducible exact Keeps.refl _ _)
    | (with_reducible apply Keeps.ite)
    | (with_reducible assumption)
    | (with_reducible apply State.pingOver_step)
    | (with_reducible apply State.closeExch_step)
    | intro _
    | (exact (rfl : true = true))
    | split

theorem State.budgetExpire_step {msk : Nat} {base s : State} (q : Nat) (id : BitVec 128) (hSolid : solid msk = true)
    (hSub : sub 0x20000000002000 msk = true) (hBase : Keeps msk base s) : Keeps msk base (State.budgetExpire s q id) := by
  refine Keeps.step (v := 0x20000000002000) ?_ hSolid hSub hBase
  clear hSolid hSub hBase
  unfold State.budgetExpire
  try dsimp only
  repeat' first
    | (with_reducible rfl)
    | (with_reducible exact Keeps.refl _ _)
    | (with_reducible apply Keeps.ite)
    | (with_reducible assumption)
    | (with_reducible apply State.budgetClear_step)
    | intro _
    | (exact (rfl : true = true))
    | split

theorem State.countDenied_step {msk : Nat} {base s : State}  (hSolid : solid msk = true)
    (hSub : sub 0x400000000000000 msk = true) (hBase : Keeps msk base s) : Keeps msk base (State.countDenied s) := by
  refine Keeps.step (v := 0x400000000000000) ?_ hSolid hSub hBase
  clear hSolid hSub hBase
  unfold State.countDenied
  try dsimp only
  repeat' first
    | (with_reducible rfl)
    | (with_reducible exact Keeps.refl _ _)
    | (with_reducible apply Keeps.ite)
    | (with_reducible assumption)
    | (with_reducible apply Keeps.bumpSat regWindow_cxpStatus)
    | intro _
    | (exact (rfl : true = true))
    | split

theorem State.tailStart_step {msk : Nat} {base s : State} (p : ℕ) (hSolid : solid msk = true)
    (hSub : sub 0x14228B20620467DC msk = true) (hBase : Keeps msk base s) : Keeps msk base (State.tailStart s p) := by
  refine Keeps.step (v := 0x14228B20620467DC) ?_ hSolid hSub hBase
  clear hSolid hSub hBase
  unfold State.tailStart
  try dsimp only
  repeat' first
    | (with_reducible rfl)
    | (with_reducible exact Keeps.refl _ _)
    | (with_reducible apply Keeps.ite)
    | (with_reducible assumption)
    | (with_reducible apply State.beginTail_step)
    | (with_reducible apply State.countDenied_step)
    | intro _
    | (exact (rfl : true = true))
    | split

end Sys2Proof.Machine
end

