-- ==== Sys2Proof/Laws/KeepsMedium.lean ====
section
/-! SUPPORT. What each operation of Machine/Medium.lean may change (Laws/Keeps.lean reads the masks). -/

namespace Sys2Proof.Machine

set_option linter.unreachableTactic false
set_option linter.unusedTactic false

theorem State.showWires_step {msk : Nat} {base s : State}  (hSolid : solid msk = true)
    (hSub : sub 0x400000000000000 msk = true) (hBase : Keeps msk base s) : Keeps msk base (State.showWires s) := by
  refine Keeps.step (v := 0x400000000000000) ?_ hSolid hSub hBase
  clear hSolid hSub hBase
  unfold State.showWires
  try dsimp only
  repeat' first
    | (with_reducible rfl)
    | (with_reducible exact Keeps.refl _ _)
    | (with_reducible apply Keeps.ite)
    | (with_reducible assumption)
    | (with_reducible apply Keeps.setFld regWindow_cxpStatus)
    | intro _
    | (exact (rfl : true = true))
    | split

theorem State.inertReport_step {msk : Nat} {base s : State} (r : Run) (st : Status) (hSolid : solid msk = true)
    (hSub : sub 0x202006004001C msk = true) (hBase : Keeps msk base s) : Keeps msk base (State.inertReport s r st) := by
  refine Keeps.step (v := 0x202006004001C) ?_ hSolid hSub hBase
  clear hSolid hSub hBase
  unfold State.inertReport
  try dsimp only
  repeat' first
    | (with_reducible rfl)
    | (with_reducible exact Keeps.refl _ _)
    | (with_reducible apply Keeps.ite)
    | (with_reducible assumption)
    | (with_reducible apply State.tagReport_step)
    | intro _
    | (exact (rfl : true = true))
    | split

theorem State.mediumLost_step {msk : Nat} {base s : State} (r : Run) (finish : Nat) (hSolid : solid msk = true)
    (hSub : sub 0x14228B20620467DC msk = true) (hBase : Keeps msk base s) : Keeps msk base (State.mediumLost s r finish) := by
  refine Keeps.step (v := 0x14228B20620467DC) ?_ hSolid hSub hBase
  clear hSolid hSub hBase
  unfold State.mediumLost
  try dsimp only
  repeat' first
    | (with_reducible rfl)
    | (with_reducible exact Keeps.refl _ _)
    | (with_reducible apply Keeps.ite)
    | (with_reducible assumption)
    | (with_reducible apply Keeps.each)
    | (with_reducible apply State.modPort_step)
    | (with_reducible apply State.lowerField_step)
    | (with_reducible apply State.putRun_step)
    | (with_reducible apply State.beginTail_step)
    | (with_reducible apply State.countDenied_step)
    | (with_reducible apply State.inertReport_step)
    | intro _
    | (exact (rfl : true = true))
    | split

theorem State.takeMedium_step {msk : Nat} {base s : State} (l : List Run) (hSolid : solid msk = true)
    (hSub : sub 0x14228B20620467DC msk = true) (hBase : Keeps msk base s) : Keeps msk base (State.takeMedium s l) := by
  refine Keeps.step (v := 0x14228B20620467DC) ?_ hSolid hSub hBase
  clear hSolid hSub hBase
  unfold State.takeMedium
  try dsimp only
  repeat' first
    | (with_reducible rfl)
    | (with_reducible exact Keeps.refl _ _)
    | (with_reducible apply Keeps.ite)
    | (with_reducible assumption)
    | (with_reducible apply Keeps.each)
    | (with_reducible apply State.mediumLost_step)
    | intro _
    | (exact (rfl : true = true))
    | split

theorem State.yieldAll_step {msk : Nat} {base s : State}  (hSolid : solid msk = true)
    (hSub : sub 0x14228B20620467DC msk = true) (hBase : Keeps msk base s) : Keeps msk base (State.yieldAll s) := by
  refine Keeps.step (v := 0x14228B20620467DC) ?_ hSolid hSub hBase
  clear hSolid hSub hBase
  unfold State.yieldAll
  try dsimp only
  repeat' first
    | (with_reducible rfl)
    | (with_reducible exact Keeps.refl _ _)
    | (with_reducible apply Keeps.ite)
    | (with_reducible assumption)
    | (with_reducible apply State.takeMedium_step)
    | intro _
    | (exact (rfl : true = true))
    | split

theorem State.countOverridden_step {msk : Nat} {base s : State}  (hSolid : solid msk = true)
    (hSub : sub 0x400000000800000 msk = true) (hBase : Keeps msk base s) : Keeps msk base (State.countOverridden s) := by
  refine Keeps.step (v := 0x400000000800000) ?_ hSolid hSub hBase
  clear hSolid hSub hBase
  unfold State.countOverridden
  try dsimp only
  repeat' first
    | (with_reducible rfl)
    | (with_reducible exact Keeps.refl _ _)
    | (with_reducible apply Keeps.ite)
    | (with_reducible assumption)
    | (with_reducible apply Keeps.bumpSat regWindow_cxpStatus)
    | (with_reducible apply State.setCxp_step)
    | intro _
    | (exact (rfl : true = true))
    | split

theorem State.driveCxp_step {msk : Nat} {base s : State}  (hSolid : solid msk = true)
    (hSub : sub 0x14228B20628467DC msk = true) (hBase : Keeps msk base s) : Keeps msk base (State.driveCxp s) := by
  refine Keeps.step (v := 0x14228B20628467DC) ?_ hSolid hSub hBase
  clear hSolid hSub hBase
  unfold State.driveCxp
  try dsimp only
  repeat' first
    | (with_reducible rfl)
    | (with_reducible exact Keeps.refl _ _)
    | (with_reducible apply Keeps.ite)
    | (with_reducible assumption)
    | (with_reducible apply State.showWires_step)
    | (with_reducible apply State.setCxp_step)
    | (with_reducible apply State.countOverridden_step)
    | (with_reducible apply State.yieldAll_step)
    | intro _
    | (exact (rfl : true = true))
    | split

theorem State.cxTick_step {msk : Nat} {base s : State}  (hSolid : solid msk = true)
    (hSub : sub 0x14228B20628467DC msk = true) (hBase : Keeps msk base s) : Keeps msk base (State.cxTick s) := by
  refine Keeps.step (v := 0x14228B20628467DC) ?_ hSolid hSub hBase
  clear hSolid hSub hBase
  unfold State.cxTick
  try dsimp only
  repeat' first
    | (with_reducible rfl)
    | (with_reducible exact Keeps.refl _ _)
    | (with_reducible apply Keeps.ite)
    | (with_reducible assumption)
    | (with_reducible apply State.driveCxp_step)
    | intro _
    | (exact (rfl : true = true))
    | split

theorem State.protectStart_step {msk : Nat} {base s : State} (k : Stake) (hSolid : solid msk = true)
    (hSub : sub 0x400000000800000 msk = true) (hBase : Keeps msk base s) : Keeps msk base (State.protectStart s k) := by
  refine Keeps.step (v := 0x400000000800000) ?_ hSolid hSub hBase
  clear hSolid hSub hBase
  unfold State.protectStart
  try dsimp only
  repeat' first
    | (with_reducible rfl)
    | (with_reducible exact Keeps.refl _ _)
    | (with_reducible apply Keeps.ite)
    | (with_reducible assumption)
    | (with_reducible apply State.setCxp_step)
    | (with_reducible apply State.showWires_step)
    | intro _
    | (exact (rfl : true = true))
    | split

end Sys2Proof.Machine
end

