-- ==== Sys2Proof/Laws/KeepsCover.lean ====
section
/-! SUPPORT. What each operation of Machine/Cover.lean may change (Laws/Keeps.lean reads the masks). -/

namespace Sys2Proof.Machine

set_option linter.unreachableTactic false
set_option linter.unusedTactic false

theorem regWindow_termReg (n i : Nat) : regWindow (termReg n i) = 24 := by
  unfold termReg; split <;> simp only [regWindow_hltTermsA, regWindow_hltTermsB]

theorem State.logRec_step {msk : Nat} {base s : State} (type : BitVec 8) (payload : List Word) (hSolid : solid msk = true)
    (hSub : sub 0x100000 msk = true) (hBase : Keeps msk base s) : Keeps msk base (State.logRec s type payload) := by
  refine Keeps.step (v := 0x100000) ?_ hSolid hSub hBase
  clear hSolid hSub hBase
  unfold State.logRec
  try dsimp only
  repeat' first
    | (with_reducible rfl)
    | (with_reducible exact Keeps.refl _ _)
    | (with_reducible apply Keeps.ite)
    | (with_reducible assumption)
    | (with_reducible apply State.setHlt_step)
    | intro _
    | (exact (rfl : true = true))
    | split

theorem State.setRotor_step {msk : Nat} {base s : State} (k : Kind) (x : Rotor) (hSolid : solid msk = true)
    (hSub : sub 0x100000 msk = true) (hBase : Keeps msk base s) : Keeps msk base (State.setRotor s k x) := by
  refine Keeps.step (v := 0x100000) ?_ hSolid hSub hBase
  clear hSolid hSub hBase
  unfold State.setRotor
  try dsimp only
  repeat' first
    | (with_reducible rfl)
    | (with_reducible exact Keeps.refl _ _)
    | (with_reducible apply Keeps.ite)
    | (with_reducible assumption)
    | (with_reducible apply State.setHlt_step)
    | intro _
    | (exact (rfl : true = true))
    | split

theorem State.setSpare_step {msk : Nat} {base s : State} (k : Kind) (f : Fld) (v : ℕ) (hSolid : solid msk = true)
    (hSub : sub 0x100000000000000 msk = true) (hBase : Keeps msk base s) : Keeps msk base (State.setSpare s k f v) := by
  refine Keeps.step (v := 0x100000000000000) ?_ hSolid hSub hBase
  clear hSolid hSub hBase
  unfold State.setSpare
  try dsimp only
  repeat' first
    | (with_reducible rfl)
    | (with_reducible exact Keeps.refl _ _)
    | (with_reducible apply Keeps.ite)
    | (with_reducible assumption)
    | (with_reducible apply Keeps.setFld (regWindow_hltSpare _))
    | intro _
    | (exact (rfl : true = true))
    | split

theorem State.showSpare_step {msk : Nat} {base s : State} (k : Kind) (port : ℕ) (reason : ℕ) (hSolid : solid msk = true)
    (hSub : sub 0x100000000000000 msk = true) (hBase : Keeps msk base s) : Keeps msk base (State.showSpare s k port reason) := by
  refine Keeps.step (v := 0x100000000000000) ?_ hSolid hSub hBase
  clear hSolid hSub hBase
  unfold State.showSpare
  try dsimp only
  repeat' first
    | (with_reducible rfl)
    | (with_reducible exact Keeps.refl _ _)
    | (with_reducible apply Keeps.ite)
    | (with_reducible assumption)
    | (with_reducible apply State.setSpare_step)
    | intro _
    | (exact (rfl : true = true))
    | split

theorem State.setWaiting_step {msk : Nat} {base s : State} (k : Kind) (l : List ℕ) (hSolid : solid msk = true)
    (hSub : sub 0x100000000100000 msk = true) (hBase : Keeps msk base s) : Keeps msk base (State.setWaiting s k l) := by
  refine Keeps.step (v := 0x100000000100000) ?_ hSolid hSub hBase
  clear hSolid hSub hBase
  unfold State.setWaiting
  try dsimp only
  repeat' first
    | (with_reducible rfl)
    | (with_reducible exact Keeps.refl _ _)
    | (with_reducible apply Keeps.ite)
    | (with_reducible assumption)
    | (with_reducible apply State.setSpare_step)
    | (with_reducible apply State.setRotor_step)
    | intro _
    | (exact (rfl : true = true))
    | split

theorem State.sliceShow_step {msk : Nat} {base s : State} (n : ℕ) (st : ℕ) (hSolid : solid msk = true)
    (hSub : sub 0x100000000000000 msk = true) (hBase : Keeps msk base s) : Keeps msk base (State.sliceShow s n st) := by
  refine Keeps.step (v := 0x100000000000000) ?_ hSolid hSub hBase
  clear hSolid hSub hBase
  unfold State.sliceShow
  try dsimp only
  repeat' first
    | (with_reducible rfl)
    | (with_reducible exact Keeps.refl _ _)
    | (with_reducible apply Keeps.ite)
    | (with_reducible assumption)
    | (with_reducible apply Keeps.setFld (regWindow_hltSliceStatus _))
    | intro _
    | (exact (rfl : true = true))
    | split

theorem State.toLoad_step {msk : Nat} {base s : State} (n wait : Nat) (hSolid : solid msk = true)
    (hSub : sub 0x100000000000200 msk = true) (hBase : Keeps msk base s) : Keeps msk base (State.toLoad s n wait) := by
  refine Keeps.step (v := 0x100000000000200) ?_ hSolid hSub hBase
  clear hSolid hSub hBase
  unfold State.toLoad
  try dsimp only
  repeat' first
    | (with_reducible rfl)
    | (with_reducible exact Keeps.refl _ _)
    | (with_reducible apply Keeps.ite)
    | (with_reducible assumption)
    | (with_reducible apply State.sliceShow_step)
    | (with_reducible apply State.sliceTo_step)
    | (with_reducible apply State.modSlice_step)
    | intro _
    | (exact (rfl : true = true))
    | split

theorem State.offLoad_step {msk : Nat} {base s : State} (k : Kind) (n : Nat) (hSolid : solid msk = true)
    (hSub : sub 0x100000000000200 msk = true) (hBase : Keeps msk base s) : Keeps msk base (State.offLoad s k n) := by
  refine Keeps.step (v := 0x100000000000200) ?_ hSolid hSub hBase
  clear hSolid hSub hBase
  unfold State.offLoad
  try dsimp only
  repeat' first
    | (with_reducible rfl)
    | (with_reducible exact Keeps.refl _ _)
    | (with_reducible apply Keeps.ite)
    | (with_reducible assumption)
    | (with_reducible apply State.sendFrom_step)
    | (with_reducible apply State.sliceShow_step)
    | intro _
    | (exact (rfl : true = true))
    | split

theorem State.portOut_step {msk : Nat} {base s : State} (p : ℕ) (hSolid : solid msk = true)
    (hSub : sub 0x202006004011C msk = true) (hBase : Keeps msk base s) : Keeps msk base (State.portOut s p) := by
  refine Keeps.step (v := 0x202006004011C) ?_ hSolid hSub hBase
  clear hSolid hSub hBase
  unfold State.portOut
  try dsimp only
  repeat' first
    | (with_reducible rfl)
    | (with_reducible exact Keeps.refl _ _)
    | (with_reducible apply Keeps.ite)
    | (with_reducible assumption)
    | (with_reducible apply State.health_step)
    | (with_reducible apply State.modPort_step)
    | intro _
    | (exact (rfl : true = true))
    | split

theorem State.portBack_step {msk : Nat} {base s : State} (p : ℕ) (hSolid : solid msk = true)
    (hSub : sub 0x202006004011C msk = true) (hBase : Keeps msk base s) : Keeps msk base (State.portBack s p) := by
  refine Keeps.step (v := 0x202006004011C) ?_ hSolid hSub hBase
  clear hSolid hSub hBase
  unfold State.portBack
  try dsimp only
  repeat' first
    | (with_reducible rfl)
    | (with_reducible exact Keeps.refl _ _)
    | (with_reducible apply Keeps.ite)
    | (with_reducible assumption)
    | (with_reducible apply State.health_step)
    | (with_reducible apply State.modPort_step)
    | intro _
    | (exact (rfl : true = true))
    | split

theorem State.endRotation_step {msk : Nat} {base s : State} (k : Kind) (hSolid : solid msk = true)
    (hSub : sub 0x100000000100200 msk = true) (hBase : Keeps msk base s) : Keeps msk base (State.endRotation s k) := by
  refine Keeps.step (v := 0x100000000100200) ?_ hSolid hSub hBase
  clear hSolid hSub hBase
  unfold State.endRotation
  try dsimp only
  repeat' first
    | (with_reducible rfl)
    | (with_reducible exact Keeps.refl _ _)
    | (with_reducible apply Keeps.ite)
    | (with_reducible assumption)
    | (with_reducible apply State.setRotor_step)
    | (with_reducible apply State.offLoad_step)
    | intro _
    | (exact (rfl : true = true))
    | split

theorem Keeps.setHead {w : Nat} {s t : State} {p : Nat} {v : Word} (h8 : w.testBit 40 = true)
    (h11 : w.testBit 43 = true) (hs : solid w = true) (h : Keeps w s t) : Keeps w s (t.setReg (headReg p) v) := by
  unfold headReg
  split
  · exact Keeps.setReg (regWindow_hfaHeadStatus p) h8 hs h
  · exact Keeps.setReg (regWindow_uhaHeadStatus (uhfIdx p)) h11 hs h

theorem Keeps.setHeadBit {w : Nat} {s t : State} {p : Nat} {f : Fld} {b : Bool} (h8 : w.testBit 40 = true)
    (h11 : w.testBit 43 = true) (hs : solid w = true) (h : Keeps w s t) : Keeps w s (t.setBit (headReg p) f b) := by
  unfold headReg
  split
  · exact Keeps.setBit (regWindow_hfaHeadStatus p) h8 hs h
  · exact Keeps.setBit (regWindow_uhaHeadStatus (uhfIdx p)) h11 hs h

theorem Keeps.setHeadFld {w : Nat} {s t : State} {p : Nat} {f : Fld} {v : Nat} (h8 : w.testBit 40 = true)
    (h11 : w.testBit 43 = true) (hs : solid w = true) (h : Keeps w s t) : Keeps w s (t.setFld (headReg p) f v) := by
  unfold headReg
  split
  · exact Keeps.setFld (regWindow_hfaHeadStatus p) h8 hs h
  · exact Keeps.setFld (regWindow_uhaHeadStatus (uhfIdx p)) h11 hs h

/-- A checkpoint slot lies in the internal area (R270). -/
theorem State.putCkSlot_step {msk : Nat} {base s : State} (i : Nat) (ws : List Word) (hw : ws.length = 32)
    (hSolid : solid msk = true) (hSub : sub 0x2002000000000004 msk = true) (hBase : Keeps msk base s) :
    Keeps msk base (State.putCkSlot s i ws) := by
  refine Keeps.step (v := 0x2002000000000004) ?_ hSolid hSub hBase
  have k : Keeps 0x2002160080000006 s (s.putCkSlot i ws) := State.setWords_step _ _ rfl rfl (Keeps.refl _ _)
  refine Keeps.within k rfl (lo := 0x1000000) (hi := 0x1400000) (r := .inner) (.inr (.inr ⟨rfl, rfl⟩)) (by decide)
    (fun x h1 h2 => ?_) (fun x hx => ?_) (k.bufs (.inl rfl) rfl)
  · unfold areaOf
    rw [if_neg (by omega), if_pos h2]
  · unfold State.putCkSlot ckAddr
    have hi : i % 256 < 256 := Nat.mod_lt _ (by decide)
    exact State.byte_setWords_out _ _ _ _ (by omega) (by omega)

theorem slotWords_length (live : List Word) (time gen : Nat) : (slotWords live time gen).length = 32 := by
  simp [slotWords]

theorem State.saveSlot_step {msk : Nat} {base s : State} (p time : Nat) (live : List Word) (hSolid : solid msk = true)
    (hSub : sub 0x2002000000100004 msk = true) (hBase : Keeps msk base s) : Keeps msk base (State.saveSlot s p time live) :=
  State.setHlt_step _ hSolid (sub_trans rfl hSub)
    (State.putCkSlot_step _ _ (slotWords_length _ _ _) hSolid (sub_trans rfl hSub) hBase)

theorem State.breakSlot_step {msk : Nat} {base s : State} (p : Nat) (hSolid : solid msk = true)
    (hSub : sub 0x2002000040000004 msk = true) (hBase : Keeps msk base s) : Keeps msk base (State.breakSlot s p) :=
  State.putCkSlot_step _ _ (by simp) hSolid (sub_trans rfl hSub) (State.skip_step _ hSolid (sub_trans rfl hSub) hBase)

theorem State.headBack_step {msk : Nat} {base s : State} (p : Nat) (w : Word) (hSolid : solid msk = true)
    (hSub : sub 0x90000000000 msk = true) (hBase : Keeps msk base s) : Keeps msk base (State.headBack s p w) := by
  refine Keeps.step (v := 0x90000000000) ?_ hSolid hSub hBase
  exact Keeps.foldl rfl (Keeps.refl _ _) fun _ _ => Keeps.setHeadFld rfl rfl rfl (Keeps.refl _ _)

theorem State.dropXfer_step {msk : Nat} {base s : State} (k : Kind) (hSolid : solid msk = true)
    (hSub : sub 0x2002000040100004 msk = true) (hBase : Keeps msk base s) : Keeps msk base (State.dropXfer s k) := by
  refine Keeps.step (v := 0x2002000040100004) ?_ hSolid hSub hBase
  clear hSolid hSub hBase
  unfold State.dropXfer
  try dsimp only
  repeat' first
    | (with_reducible rfl)
    | (with_reducible exact Keeps.refl _ _)
    | (with_reducible apply Keeps.ite)
    | (with_reducible assumption)
    | (with_reducible apply State.skip_step)
    | (with_reducible apply State.saveSlot_step)
    | (with_reducible apply State.breakSlot_step)
    | (with_reducible apply State.setRotor_step)
    | intro _
    | (exact (rfl : true = true))
    | split

theorem State.spareLost_step {msk : Nat} {base s : State} (k : Kind) (hSolid : solid msk = true)
    (hSub : sub 0x210202006014031C msk = true) (hBase : Keeps msk base s) : Keeps msk base (State.spareLost s k) := by
  refine Keeps.step (v := 0x210202006014031C) ?_ hSolid hSub hBase
  clear hSolid hSub hBase
  unfold State.spareLost
  try dsimp only
  repeat' first
    | (with_reducible rfl)
    | (with_reducible exact Keeps.refl _ _)
    | (with_reducible apply Keeps.ite)
    | (with_reducible assumption)
    | (with_reducible apply State.setRotor_step)
    | (with_reducible apply State.portOut_step)
    | (with_reducible apply State.showSpare_step)
    | (with_reducible apply State.endRotation_step)
    | (with_reducible apply State.dropXfer_step)
    | (with_reducible apply Keeps.foldl)
    | (with_reducible apply State.setWaiting_step)
    | intro _
    | (exact (rfl : true = true))
    | split

theorem State.portFailed_step {msk : Nat} {base s : State} (k : Kind) (p : Nat) (hSolid : solid msk = true)
    (hSub : sub 0x10202006014031C msk = true) (hBase : Keeps msk base s) : Keeps msk base (State.portFailed s k p) := by
  refine Keeps.step (v := 0x10202006014031C) ?_ hSolid hSub hBase
  clear hSolid hSub hBase
  unfold State.portFailed
  try dsimp only
  repeat' first
    | (with_reducible rfl)
    | (with_reducible exact Keeps.refl _ _)
    | (with_reducible apply Keeps.ite)
    | (with_reducible assumption)
    | (with_reducible apply State.setWaiting_step)
    | (with_reducible apply State.endRotation_step)
    | (with_reducible apply State.portOut_step)
    | intro _
    | (exact (rfl : true = true))
    | split

theorem State.keepCover_step {msk : Nat} {base s : State} (k : Kind) (n : Nat) (hSolid : solid msk = true)
    (hSub : sub 0x210202006014011C msk = true) (hBase : Keeps msk base s) : Keeps msk base (State.keepCover s k n) := by
  refine Keeps.step (v := 0x210202006014011C) ?_ hSolid hSub hBase
  clear hSolid hSub hBase
  unfold State.keepCover
  try dsimp only
  repeat' first
    | (with_reducible rfl)
    | (with_reducible exact Keeps.refl _ _)
    | (with_reducible apply Keeps.ite)
    | (with_reducible assumption)
    | (with_reducible apply State.dropXfer_step)
    | (with_reducible apply State.setRotor_step)
    | (with_reducible apply State.showSpare_step)
    | (with_reducible apply State.health_step)
    | (with_reducible apply State.portOut_step)
    | intro _
    | (exact (rfl : true = true))
    | split

theorem State.failSlice_step {msk : Nat} {base s : State} (n cause : Nat) (vals : List Word) (hSolid : solid msk = true)
    (hSub : sub 0x31228320621463DC msk = true) (hBase : Keeps msk base s) : Keeps msk base (State.failSlice s n cause vals) := by
  refine Keeps.step (v := 0x31228320621463DC) ?_ hSolid hSub hBase
  clear hSolid hSub hBase
  unfold State.failSlice
  try dsimp only
  repeat' first
    | (with_reducible rfl)
    | (with_reducible exact Keeps.refl _ _)
    | (with_reducible apply Keeps.ite)
    | (with_reducible assumption)
    | (with_reducible apply State.setSlice_step)
    | (with_reducible apply Keeps.setFld (regWindow_hltSliceStatus ..))
    | (with_reducible apply State.sliceShow_step)
    | (with_reducible apply State.health_step)
    | (with_reducible apply State.logRec_step)
    | (with_reducible apply State.stopRadio_step)
    | (with_reducible apply State.darkSlice_step)
    | (with_reducible apply State.spareLost_step)
    | (with_reducible apply State.keepCover_step)
    | (with_reducible apply State.setRotor_step)
    | (with_reducible apply State.portFailed_step)
    | intro _
    | (exact (rfl : true = true))
    | split

theorem State.showTerm_step {msk : Nat} {base s : State} (n i : Nat) (hSolid : solid msk = true)
    (hSub : sub 0x100000000000000 msk = true) (hBase : Keeps msk base s) : Keeps msk base (State.showTerm s n i) := by
  refine Keeps.step (v := 0x100000000000000) ?_ hSolid hSub hBase
  clear hSolid hSub hBase
  unfold State.showTerm
  try dsimp only
  repeat' first
    | (with_reducible rfl)
    | (with_reducible exact Keeps.refl _ _)
    | (with_reducible apply Keeps.ite)
    | (with_reducible assumption)
    | (with_reducible apply Keeps.setFld (regWindow_termReg ..))
    | intro _
    | (exact (rfl : true = true))
    | split

theorem State.showTerms_step {msk : Nat} {base s : State} (n : Nat) (hSolid : solid msk = true)
    (hSub : sub 0x100000000000000 msk = true) (hBase : Keeps msk base s) : Keeps msk base (State.showTerms s n) := by
  refine Keeps.step (v := 0x100000000000000) ?_ hSolid hSub hBase
  clear hSolid hSub hBase
  unfold State.showTerms
  try dsimp only
  repeat' first
    | (with_reducible rfl)
    | (with_reducible exact Keeps.refl _ _)
    | (with_reducible apply Keeps.ite)
    | (with_reducible assumption)
    | (with_reducible apply Keeps.each)
    | (with_reducible apply State.showTerm_step)
    | intro _
    | (exact (rfl : true = true))
    | split

theorem State.updateReserve_step {msk : Nat} {base s : State} (swap : Bool) (hSolid : solid msk = true)
    (hSub : sub 0x202206014005C msk = true) (hBase : Keeps msk base s) : Keeps msk base (State.updateReserve s swap) := by
  refine Keeps.step (v := 0x202206014005C) ?_ hSolid hSub hBase
  clear hSolid hSub hBase
  unfold State.updateReserve
  try dsimp only
  repeat' first
    | (with_reducible rfl)
    | (with_reducible exact Keeps.refl _ _)
    | (with_reducible apply Keeps.ite)
    | (with_reducible assumption)
    | (with_reducible apply Keeps.setFld regWindow_schReserveMin)
    | (with_reducible apply Keeps.setBit regWindow_schStatus)
    | (with_reducible apply State.health_step)
    | (with_reducible apply State.logRec_step)
    | (with_reducible refine State.setSch_sameStep _ (by simp only [Sch.cycle, State.setFld_sch, State.setBit_sch]) ?_ ?_ ?_)
    | intro _
    | (exact (rfl : true = true))
    | split

theorem State.rotorSwap_step {msk : Nat} {base s : State} (k : Kind) (hSolid : solid msk = true)
    (hSub : sub 0x10202006014031C msk = true) (hBase : Keeps msk base s) : Keeps msk base (State.rotorSwap s k) := by
  refine Keeps.step (v := 0x10202006014031C) ?_ hSolid hSub hBase
  clear hSolid hSub hBase
  unfold State.rotorSwap
  try dsimp only
  repeat' first
    | (with_reducible rfl)
    | (with_reducible exact Keeps.refl _ _)
    | (with_reducible apply Keeps.ite)
    | (with_reducible assumption)
    | (with_reducible apply State.health_step)
    | (with_reducible apply State.sliceShow_step)
    | (with_reducible apply State.showSpare_step)
    | (with_reducible apply State.portOut_step)
    | (with_reducible apply State.modPort_step)
    | (with_reducible apply State.endRotation_step)
    | intro _
    | (exact (rfl : true = true))
    | split

theorem State.hltSwap_step {msk : Nat} {base s : State}  (hSolid : solid msk = true)
    (hSub : sub 0x10202206014035C msk = true) (hBase : Keeps msk base s) : Keeps msk base (State.hltSwap s) := by
  refine Keeps.step (v := 0x10202206014035C) ?_ hSolid hSub hBase
  clear hSolid hSub hBase
  unfold State.hltSwap
  try dsimp only
  repeat' first
    | (with_reducible rfl)
    | (with_reducible exact Keeps.refl _ _)
    | (with_reducible apply Keeps.ite)
    | (with_reducible assumption)
    | (with_reducible apply State.rotorSwap_step)
    | (with_reducible apply State.updateReserve_step)
    | intro _
    | (exact (rfl : true = true))
    | split

end Sys2Proof.Machine
end

