-- ==== Sys2Proof/Laws/KeepsImage.lean ====
section
/-! SUPPORT. What each operation of Machine/Image.lean may change (Laws/Keeps.lean reads the masks). -/

namespace Sys2Proof.Machine

set_option linter.unreachableTactic false
set_option linter.unusedTactic false

theorem State.enterPower_step {msk : Nat} {base s : State} (p : PowerState) (hSolid : solid msk = true)
    (hSub : sub 0x1000000002000020 msk = true) (hBase : Keeps msk base s) : Keeps msk base (State.enterPower s p) := by
  refine Keeps.step (v := 0x1000000002000020) ?_ hSolid hSub hBase
  clear hSolid hSub hBase
  unfold State.enterPower
  try dsimp only
  repeat' first
    | (with_reducible rfl)
    | (with_reducible exact Keeps.refl _ _)
    | (with_reducible apply Keeps.ite)
    | (with_reducible assumption)
    | (with_reducible apply State.trace_step)
    | (with_reducible apply State.setBoot_step _ (fun h => h))
    | (with_reducible apply State.setBoot_step _ (by simp))
    | intro _
    | (exact (rfl : true = true))
    | split

end Sys2Proof.Machine
end

