-- ==== Sys2Proof/Laws/KeepsPicc.lean ====
section
/-! SUPPORT. What each operation of Machine/Picc.lean may change (Laws/Keeps.lean reads the masks). -/

namespace Sys2Proof.Machine

set_option linter.unreachableTactic false
set_option linter.unusedTactic false

theorem State.setAwn_step {msk : Nat} {base s : State} (i : ℕ) (x : Awning) (hSolid : solid msk = true)
    (hSub : sub 0x10000 msk = true) (hBase : Keeps msk base s) : Keeps msk base (State.setAwn s i x) := by
  refine Keeps.step (v := 0x10000) ?_ hSolid hSub hBase
  clear hSolid hSub hBase
  unfold State.setAwn
  try dsimp only
  repeat' first
    | (with_reducible rfl)
    | (with_reducible exact Keeps.refl _ _)
    | (with_reducible apply Keeps.ite)
    | (with_reducible assumption)
    | (with_reducible apply State.setAwning_step)
    | intro _
    | (exact (rfl : true = true))
    | split

theorem State.modAwn_step {msk : Nat} {base s : State} (i : ℕ) (f : Awning → Awning) (hSolid : solid msk = true)
    (hSub : sub 0x10000 msk = true) (hBase : Keeps msk base s) : Keeps msk base (State.modAwn s i f) := by
  refine Keeps.step (v := 0x10000) ?_ hSolid hSub hBase
  clear hSolid hSub hBase
  unfold State.modAwn
  try dsimp only
  repeat' first
    | (with_reducible rfl)
    | (with_reducible exact Keeps.refl _ _)
    | (with_reducible apply Keeps.ite)
    | (with_reducible assumption)
    | (with_reducible apply State.setAwn_step)
    | intro _
    | (exact (rfl : true = true))
    | split

theorem State.awnEvent_step {msk : Nat} {base s : State} (i : ℕ) (reason : ℕ) (detail : ℕ) (data : List Word) (hSolid : solid msk = true)
    (hSub : sub 0x202006004001C msk = true) (hBase : Keeps msk base s) : Keeps msk base (State.awnEvent s i reason detail data) := by
  refine Keeps.step (v := 0x202006004001C) ?_ hSolid hSub hBase
  clear hSolid hSub hBase
  unfold State.awnEvent
  try dsimp only
  repeat' first
    | (with_reducible rfl)
    | (with_reducible exact Keeps.refl _ _)
    | (with_reducible apply Keeps.ite)
    | (with_reducible assumption)
    | (with_reducible apply State.event_step)
    | intro _
    | (exact (rfl : true = true))
    | split

theorem State.imageEcc_step {msk : Nat} {base s : State} (i : Nat) (hSolid : solid msk = true)
    (hSub : sub 0x202006004001C msk = true) (hBase : Keeps msk base s) : Keeps msk base (State.imageEcc s i) := by
  refine Keeps.step (v := 0x202006004001C) ?_ hSolid hSub hBase
  clear hSolid hSub hBase
  unfold State.imageEcc
  try dsimp only
  repeat' first
    | (with_reducible rfl)
    | (with_reducible exact Keeps.refl _ _)
    | (with_reducible apply Keeps.ite)
    | (with_reducible assumption)
    | (with_reducible apply State.awnEvent_step)
    | intro _
    | (exact (rfl : true = true))
    | split

theorem State.liveLoad_step {msk : Nat} {base s : State} (i w : Nat) (hSolid : solid msk = true)
    (hSub : sub 0x202006004001C msk = true) (hBase : Keeps msk base s) : Keeps msk base (State.liveLoad s i w).1 := by
  refine Keeps.step (v := 0x202006004001C) ?_ hSolid hSub hBase
  clear hSolid hSub hBase
  unfold State.liveLoad
  try dsimp only
  repeat' first
    | (with_reducible rfl)
    | (with_reducible exact Keeps.refl _ _)
    | (with_reducible apply Keeps.ite)
    | (with_reducible assumption)
    | (with_reducible apply State.recordUe_step)
    | (with_reducible apply State.imageEcc_step)
    | (with_reducible apply State.skip_step)
    | (with_reducible apply State.correct_step)
    | intro _
    | (exact (rfl : true = true))
    | split

theorem State.bumpGen_wide {msk : Nat} {base s : State} (i : Nat) (hSolid : solid msk = true)
    (hSub : sub 0x20021600E004001E msk = true) (hBase : Keeps msk base s) : Keeps msk base (State.bumpGen s i) :=
  State.setWord_step _ _ hSolid (sub_trans rfl hSub) (State.liveLoad_step i 0 hSolid (sub_trans rfl hSub) hBase)

theorem State.applyLog_wide {msk : Nat} {base s : State} (i : ℕ) (l : List (ℕ × List Byte)) (hSolid : solid msk = true)
    (hSub : sub 0x20021600E004001E msk = true) (hBase : Keeps msk base s) : Keeps msk base (State.applyLog s i l) := by
  refine Keeps.step (v := 0x20021600E004001E) ?_ hSolid hSub hBase
  unfold State.applyLog
  split
  · exact State.bumpGen_wide _ rfl rfl (Keeps.each rfl (Keeps.refl _ _) fun _ _ => State.storeRun_step _ _ _ rfl rfl (Keeps.refl _ _))
  · exact Keeps.refl _ _

/-- Writes to the NDEF file of an instance that is on stay in the pool. -/
theorem State.storeRun_log (i : Nat) (l : List (Nat × List Byte)) (s : State) (h : s.awnOn i = true)
    (hl : ∀ x ∈ l, x.1 + x.2.length ≤ 0x2000) :
    Keeps 0x2002160080000006 s (s.each l fun s x => s.storeRun (s.ndefBase i + x.1) (x.2.length / 8 + 2) x.2) ∧
      ∀ y, 0x1000000 ≤ y →
        (s.each l fun s x => s.storeRun (s.ndefBase i + x.1) (x.2.length / 8 + 2) x.2).byte y = s.byte y := by
  obtain ⟨h1, h2, h3⟩ := s.awnOn_region i h
  have hreg : ∀ u : State, Keeps 0x2002160080000006 s u → u.ndefBase i = s.ndefBase i := by
    intro u k
    unfold State.ndefBase State.awnBase State.awnRegion State.fld
    rw [k.regs (.inl rfl) _ (by rw [regWindow_awnImg]; rfl)]
  suffices ∀ u : State, Keeps 0x2002160080000006 s u → (∀ y, 0x1000000 ≤ y → u.byte y = s.byte y) →
      Keeps 0x2002160080000006 s (u.each l fun s x => s.storeRun (s.ndefBase i + x.1) (x.2.length / 8 + 2) x.2) ∧
      ∀ y, 0x1000000 ≤ y →
        (u.each l fun s x => s.storeRun (s.ndefBase i + x.1) (x.2.length / 8 + 2) x.2).byte y = s.byte y from
    this s (Keeps.refl _ _) fun _ _ => rfl
  induction l with
  | nil => intro u k hu; exact ⟨k, hu⟩
  | cons x l ih =>
    intro u k hu
    have hx := hl x List.mem_cons_self
    refine ih (fun y hy => hl y (List.mem_cons_of_mem _ hy)) (u.storeRun (u.ndefBase i + x.1) (x.2.length / 8 + 2) x.2)
      (State.storeRun_step _ _ _ rfl rfl k) fun y hy => ?_
    rw [State.byte_storeRun_out, hu y hy]
    rw [hreg u k]
    unfold State.ndefBase State.awnBase
    omega

theorem State.applyLog_step {msk : Nat} {base s : State} (i : Nat) (l : List (Nat × List Byte)) (hSolid : solid msk = true)
    (hSub : sub 0x20200E004001C msk = true) (hBase : Keeps msk base s) : Keeps msk base (State.applyLog s i l) := by
  refine Keeps.step (v := 0x20200E004001C) ?_ hSolid hSub hBase
  refine Keeps.pooled (State.applyLog_wide i l (msk := 0x20021600E004001E) rfl rfl (Keeps.refl _ _)) rfl rfl rfl fun x hx => ?_
  unfold State.applyLog
  split
  · rename_i h
    obtain ⟨h1, h2, h3⟩ := s.awnOn_region i h
    obtain ⟨k, hb⟩ := State.storeRun_log i (l.filter fun x => decide (x.1 + x.2.length ≤ 0x2000)) s h
      fun y hy => of_decide_eq_true (List.mem_filter.mp hy).2
    generalize (s.each (l.filter fun x => decide (x.1 + x.2.length ≤ 0x2000)) fun s x =>
      s.storeRun (s.ndefBase i + x.1) (x.2.length / 8 + 2) x.2) = u at k hb
    have e : u.awnBase i = s.awnBase i := by
      unfold State.awnBase State.awnRegion State.fld
      rw [k.regs (.inl rfl) _ (by rw [regWindow_awnImg]; rfl)]
    have q : Keeps 0x202006004001C u (u.liveLoad i 0).1 := State.liveLoad_step i 0 rfl rfl (Keeps.refl _ _)
    unfold State.bumpGen
    dsimp only
    rw [State.byte_setWord_out, q.high rfl rfl rfl rfl rfl hx, hb x hx]
    rw [e]
    unfold State.awnBase
    omega
  · rfl

theorem State.fieldApply_step {msk : Nat} {base s : State} (i : Nat) (hSolid : solid msk = true)
    (hSub : sub 0x20200E005001C msk = true) (hBase : Keeps msk base s) : Keeps msk base (State.fieldApply s i) := by
  refine Keeps.step (v := 0x20200E005001C) ?_ hSolid hSub hBase
  clear hSolid hSub hBase
  unfold State.fieldApply
  try dsimp only
  repeat' first
    | (with_reducible rfl)
    | (with_reducible exact Keeps.refl _ _)
    | (with_reducible apply Keeps.ite)
    | (with_reducible assumption)
    | (with_reducible apply State.applyLog_step)
    | (with_reducible apply State.liveLoad_step)
    | (with_reducible refine Keeps.fst (State.liveLoad_step (by assumption) ?_ ?_ ?_) (by assumption))
    | (with_reducible apply State.modAwn_step)
    | (with_reducible apply State.awnEvent_step)
    | intro _
    | (exact (rfl : true = true))
    | split

theorem State.sessionEnd_step {msk : Nat} {base s : State} (i : ℕ) (st : PiccState) (hSolid : solid msk = true)
    (hSub : sub 0x420200E005001C msk = true) (hBase : Keeps msk base s) : Keeps msk base (State.sessionEnd s i st) := by
  refine Keeps.step (v := 0x420200E005001C) ?_ hSolid hSub hBase
  clear hSolid hSub hBase
  unfold State.sessionEnd
  try dsimp only
  repeat' first
    | (with_reducible rfl)
    | (with_reducible exact Keeps.refl _ _)
    | (with_reducible apply Keeps.ite)
    | (with_reducible assumption)
    | (with_reducible apply State.fieldApply_step)
    | (with_reducible apply State.modAwn_step)
    | (with_reducible apply Keeps.setBit (regWindow_awnStatus _))
    | intro _
    | (exact (rfl : true = true))
    | split

theorem State.awnPowerOff_step {msk : Nat} {base s : State} (i : ℕ) (hSolid : solid msk = true)
    (hSub : sub 0x420200E005001C msk = true) (hBase : Keeps msk base s) : Keeps msk base (State.awnPowerOff s i) := by
  refine Keeps.step (v := 0x420200E005001C) ?_ hSolid hSub hBase
  clear hSolid hSub hBase
  unfold State.awnPowerOff
  try dsimp only
  repeat' first
    | (with_reducible rfl)
    | (with_reducible exact Keeps.refl _ _)
    | (with_reducible apply Keeps.ite)
    | (with_reducible assumption)
    | (with_reducible apply State.sessionEnd_step)
    | (with_reducible apply State.skip_step)
    | (with_reducible apply State.modAwn_step)
    | intro _
    | (exact (rfl : true = true))
    | split

theorem State.awnStop_step {msk : Nat} {base s : State} (r : Run) (hSolid : solid msk = true)
    (hSub : sub 0x420200E005001C msk = true) (hBase : Keeps msk base s) : Keeps msk base (State.awnStop s r) := by
  refine Keeps.step (v := 0x420200E005001C) ?_ hSolid hSub hBase
  clear hSolid hSub hBase
  unfold State.awnStop
  try dsimp only
  repeat' first
    | (with_reducible rfl)
    | (with_reducible exact Keeps.refl _ _)
    | (with_reducible apply Keeps.ite)
    | (with_reducible assumption)
    | (with_reducible apply State.setAwn_step)
    | (with_reducible apply State.awnPowerOff_step)
    | intro _
    | (exact (rfl : true = true))
    | split

theorem State.awnResume_step {msk : Nat} {base s : State} (r : Run) (hSolid : solid msk = true)
    (hSub : sub 0x10000 msk = true) (hBase : Keeps msk base s) : Keeps msk base (State.awnResume s r) := by
  refine Keeps.step (v := 0x10000) ?_ hSolid hSub hBase
  clear hSolid hSub hBase
  unfold State.awnResume
  try dsimp only
  repeat' first
    | (with_reducible rfl)
    | (with_reducible exact Keeps.refl _ _)
    | (with_reducible apply Keeps.ite)
    | (with_reducible assumption)
    | (with_reducible apply State.setAwn_step)
    | (with_reducible apply State.modAwn_step)
    | intro _
    | (exact (rfl : true = true))
    | split

theorem State.awnInhibit_step {msk : Nat} {base s : State}  (hSolid : solid msk = true)
    (hSub : sub 0x420200E005001C msk = true) (hBase : Keeps msk base s) : Keeps msk base (State.awnInhibit s) := by
  refine Keeps.step (v := 0x420200E005001C) ?_ hSolid hSub hBase
  clear hSolid hSub hBase
  unfold State.awnInhibit
  try dsimp only
  repeat' first
    | (with_reducible rfl)
    | (with_reducible exact Keeps.refl _ _)
    | (with_reducible apply Keeps.ite)
    | (with_reducible assumption)
    | (with_reducible apply State.awnPowerOff_step)
    | (with_reducible apply Keeps.each)
    | intro _
    | (exact (rfl : true = true))
    | split

end Sys2Proof.Machine
end

