-- ==== Sys2Proof/Laws/KeepsRequests.lean ====
section
/-! SUPPORT. What each operation of Machine/Requests.lean may change (Laws/Keeps.lean reads the masks). -/

namespace Sys2Proof.Machine

set_option linter.unreachableTactic false
set_option linter.unusedTactic false

theorem State.refuseRequest_step {msk : Nat} {base s : State} (q : ℕ) (ws : List Word) (st : Status) (hSolid : solid msk = true)
    (hSub : sub 0x100202006204001C msk = true) (hBase : Keeps msk base s) : Keeps msk base (State.refuseRequest s q ws st) := by
  refine Keeps.step (v := 0x100202006204001C) ?_ hSolid hSub hBase
  clear hSolid hSub hBase
  unfold State.refuseRequest
  try dsimp only
  repeat' first
    | (with_reducible rfl)
    | (with_reducible exact Keeps.refl _ _)
    | (with_reducible apply Keeps.ite)
    | (with_reducible assumption)
    | (with_reducible apply State.requestDone_step)
    | intro _
    | (exact (rfl : true = true))
    | split

theorem State.takeRequest_step {msk : Nat} {base s : State} (n : Nat) (mine : Nat → Bool) (hSolid : solid msk = true)
    (hSub : sub 0x10120200E204101C msk = true) (hBase : Keeps msk base s) : Keeps msk base (State.takeRequest s n mine) := by
  refine Keeps.step (v := 0x10120200E204101C) ?_ hSolid hSub hBase
  clear hSolid hSub hBase
  unfold State.takeRequest
  try dsimp only
  repeat' first
    | (with_reducible rfl)
    | (with_reducible exact Keeps.refl _ _)
    | (with_reducible apply Keeps.ite)
    | (with_reducible assumption)
    | (with_reducible apply State.fifo_step)
    | (with_reducible apply State.touchAll_step)
    | (with_reducible apply State.popHead_step)
    | (with_reducible apply State.violation_step)
    | (with_reducible apply State.refuseRequest_step)
    | (with_reducible apply State.setRequests_step)
    | intro _
    | (exact (rfl : true = true))
    | split

theorem State.requestStart_step {msk : Nat} {base s : State} (p : ℕ) (hSolid : solid msk = true)
    (hSub : sub 0x10020A006204139C msk = true) (hBase : Keeps msk base s) : Keeps msk base (State.requestStart s p) := by
  refine Keeps.step (v := 0x10020A006204139C) ?_ hSolid hSub hBase
  clear hSolid hSub hBase
  unfold State.requestStart
  try dsimp only
  repeat' first
    | (with_reducible rfl)
    | (with_reducible exact Keeps.refl _ _)
    | (with_reducible apply Keeps.ite)
    | (with_reducible assumption)
    | (with_reducible apply State.setRequests_step)
    | (with_reducible apply State.refuseRequest_step)
    | (with_reducible apply State.putRun_step)
    | (with_reducible apply State.startFront_step)
    | intro _
    | (exact (rfl : true = true))
    | split

theorem State.requestExpire_step {msk : Nat} {base s : State} (q p : Nat) (hSolid : solid msk = true)
    (hSub : sub 0x100202006204101C msk = true) (hBase : Keeps msk base s) : Keeps msk base (State.requestExpire s q p) := by
  refine Keeps.step (v := 0x100202006204101C) ?_ hSolid hSub hBase
  clear hSolid hSub hBase
  unfold State.requestExpire
  try dsimp only
  repeat' first
    | (with_reducible rfl)
    | (with_reducible exact Keeps.refl _ _)
    | (with_reducible apply Keeps.ite)
    | (with_reducible assumption)
    | (with_reducible apply State.setRequests_step)
    | (with_reducible apply Keeps.each)
    | (with_reducible apply State.refuseRequest_step)
    | intro _
    | (exact (rfl : true = true))
    | split

end Sys2Proof.Machine
end

