-- ==== Sys2Proof/Laws/KeepsPlan.lean ====
section
/-! SUPPORT. What each operation of Machine/Plan.lean may change (Laws/Keeps.lean reads the masks). -/

namespace Sys2Proof.Machine

set_option linter.unreachableTactic false
set_option linter.unusedTactic false

theorem State.showLatches_step {msk : Nat} {base s : State}  (hSolid : solid msk = true)
    (hSub : sub 0x800000000000000 msk = true) (hBase : Keeps msk base s) : Keeps msk base (State.showLatches s) := by
  refine Keeps.step (v := 0x800000000000000) ?_ hSolid hSub hBase
  clear hSolid hSub hBase
  unfold State.showLatches
  try dsimp only
  repeat' first
    | (with_reducible rfl)
    | (with_reducible exact Keeps.refl _ _)
    | (with_reducible apply Keeps.ite)
    | (with_reducible assumption)
    | (with_reducible apply Keeps.setReg regWindow_cabTrigLatch)
    | (with_reducible apply Keeps.foldl)
    | intro _
    | (exact (rfl : true = true))
    | split

theorem State.clearLatch_step {msk : Nat} {base s : State} (t : ℕ) (p : ℕ) (hSolid : solid msk = true)
    (hSub : sub 0x800000000000040 msk = true) (hBase : Keeps msk base s) : Keeps msk base (State.clearLatch s t p) := by
  refine Keeps.step (v := 0x800000000000040) ?_ hSolid hSub hBase
  clear hSolid hSub hBase
  unfold State.clearLatch
  try dsimp only
  repeat' first
    | (with_reducible rfl)
    | (with_reducible exact Keeps.refl _ _)
    | (with_reducible apply Keeps.ite)
    | (with_reducible assumption)
    | (with_reducible apply State.showLatches_step)
    | (with_reducible refine State.setSch_sameStep _ (by simp only [Sch.cycle, State.setFld_sch, State.setBit_sch]) ?_ ?_ ?_)
    | intro _
    | (exact (rfl : true = true))
    | split

theorem State.setLatch_step {msk : Nat} {base s : State} (t : ℕ) (p : ℕ) (hSolid : solid msk = true)
    (hSub : sub 0x800000000000040 msk = true) (hBase : Keeps msk base s) : Keeps msk base (State.setLatch s t p) := by
  refine Keeps.step (v := 0x800000000000040) ?_ hSolid hSub hBase
  clear hSolid hSub hBase
  unfold State.setLatch
  try dsimp only
  repeat' first
    | (with_reducible rfl)
    | (with_reducible exact Keeps.refl _ _)
    | (with_reducible apply Keeps.ite)
    | (with_reducible assumption)
    | (with_reducible apply State.showLatches_step)
    | (with_reducible refine State.setSch_sameStep _ (by simp only [Sch.cycle, State.setFld_sch, State.setBit_sch]) ?_ ?_ ?_)
    | intro _
    | (exact (rfl : true = true))
    | split

theorem State.swapLatches_step {msk : Nat} {base s : State}  (hSolid : solid msk = true)
    (hSub : sub 0x800000000000040 msk = true) (hBase : Keeps msk base s) : Keeps msk base (State.swapLatches s) := by
  refine Keeps.step (v := 0x800000000000040) ?_ hSolid hSub hBase
  clear hSolid hSub hBase
  unfold State.swapLatches
  try dsimp only
  repeat' first
    | (with_reducible rfl)
    | (with_reducible exact Keeps.refl _ _)
    | (with_reducible apply Keeps.ite)
    | (with_reducible assumption)
    | (with_reducible apply State.showLatches_step)
    | (with_reducible refine State.setSch_sameStep _ (by simp only [Sch.cycle, State.setFld_sch, State.setBit_sch]) ?_ ?_ ?_)
    | intro _
    | (exact (rfl : true = true))
    | split

theorem State.dropRecords_step {msk : Nat} {base s : State}  (hSolid : solid msk = true)
    (hSub : sub 0x202006004041C msk = true) (hBase : Keeps msk base s) : Keeps msk base (State.dropRecords s) := by
  refine Keeps.step (v := 0x202006004041C) ?_ hSolid hSub hBase
  clear hSolid hSub hBase
  unfold State.dropRecords
  try dsimp only
  repeat' first
    | (with_reducible rfl)
    | (with_reducible exact Keeps.refl _ _)
    | (with_reducible apply Keeps.ite)
    | (with_reducible assumption)
    | (with_reducible apply State.setRecords_step)
    | (with_reducible apply State.event_step)
    | (with_reducible apply Keeps.each)
    | intro _
    | (exact (rfl : true = true))
    | split

theorem State.dropRequests_step {msk : Nat} {base s : State}  (hSolid : solid msk = true)
    (hSub : sub 0x100202006204101C msk = true) (hBase : Keeps msk base s) : Keeps msk base (State.dropRequests s) := by
  refine Keeps.step (v := 0x100202006204101C) ?_ hSolid hSub hBase
  clear hSolid hSub hBase
  unfold State.dropRequests
  try dsimp only
  repeat' first
    | (with_reducible rfl)
    | (with_reducible exact Keeps.refl _ _)
    | (with_reducible apply Keeps.ite)
    | (with_reducible assumption)
    | (with_reducible apply State.setRequests_step)
    | (with_reducible apply State.refuseRequest_step)
    | (with_reducible apply Keeps.each)
    | intro _
    | (exact (rfl : true = true))
    | split

theorem State.activate_step {msk : Nat} {base s : State} (b : Bool) (hSolid : solid msk = true)
    (hSub : sub 0x190202206214175C msk = true) (hBase : Keeps msk base s) : Keeps msk base (State.activate s b) := by
  refine Keeps.step (v := 0x190202206214175C) ?_ hSolid hSub hBase
  clear hSolid hSub hBase
  unfold State.activate
  try dsimp only
  repeat' first
    | (with_reducible rfl)
    | (with_reducible exact Keeps.refl _ _)
    | (with_reducible apply Keeps.ite)
    | (with_reducible assumption)
    | (with_reducible apply State.hltSwap_step)
    | (with_reducible apply State.dropRequests_step)
    | (with_reducible apply State.dropRecords_step)
    | (with_reducible apply State.swapLatches_step)
    | (with_reducible apply Keeps.setBit regWindow_schStatus)
    | (with_reducible apply Keeps.setReg regWindow_schPeakMw)
    | (with_reducible apply Keeps.setReg regWindow_schCycleTicks)
    | (with_reducible apply Keeps.setReg regWindow_schPlanId)
    | intro _
    | (exact (rfl : true = true))
    | split

theorem State.takeSwap_step {msk : Nat} {base s : State}  (hSolid : solid msk = true)
    (hSub : sub 0x1D228BA0629477DC msk = true) (hBase : Keeps msk base s) : Keeps msk base (State.takeSwap s) := by
  refine Keeps.step (v := 0x1D228BA0629477DC) ?_ hSolid hSub hBase
  clear hSolid hSub hBase
  unfold State.takeSwap
  try dsimp only
  repeat' first
    | (with_reducible rfl)
    | (with_reducible exact Keeps.refl _ _)
    | (with_reducible apply Keeps.ite)
    | (with_reducible assumption)
    | (with_reducible apply Keeps.setBit regWindow_schStatus)
    | (with_reducible apply State.activate_step)
    | (with_reducible apply State.setCxp_step)
    | (with_reducible apply State.trace_step)
    | (with_reducible apply State.driveCxp_step)
    | (with_reducible refine State.setSch_nextStep _ (by simp) ?_ ?_ ?_)
    | intro _
    | (exact (rfl : true = true))
    | split

theorem State.beginCycle_step {msk : Nat} {base s : State} (at_ : Nat) (hSolid : solid msk = true)
    (hSub : sub 0xA101400040 msk = true) (hBase : Keeps msk base s) : Keeps msk base (State.beginCycle s at_) := by
  refine Keeps.step (v := 0xA101400040) ?_ hSolid hSub hBase
  clear hSolid hSub hBase
  unfold State.beginCycle
  try dsimp only
  repeat' first
    | (with_reducible rfl)
    | (with_reducible exact Keeps.refl _ _)
    | (with_reducible apply Keeps.ite)
    | (with_reducible assumption)
    | (with_reducible apply Keeps.setReg regWindow_schCycleStart)
    | (with_reducible apply State.setCab_step)
    | (with_reducible apply State.setGuy_step)
    | (with_reducible apply State.setSch_step)
    | intro _
    | (exact (rfl : true = true))
    | split

theorem State.idleBeacon_step {msk : Nat} {base s : State}  (hSolid : solid msk = true)
    (hSub : sub 0x400000 msk = true) (hBase : Keeps msk base s) : Keeps msk base (State.idleBeacon s) := by
  refine Keeps.step (v := 0x400000) ?_ hSolid hSub hBase
  clear hSolid hSub hBase
  unfold State.idleBeacon
  try dsimp only
  repeat' first
    | (with_reducible rfl)
    | (with_reducible exact Keeps.refl _ _)
    | (with_reducible apply Keeps.ite)
    | (with_reducible assumption)
    | (with_reducible apply State.setGuy_step)
    | intro _
    | (exact (rfl : true = true))
    | split

theorem State.stopPlan_step {msk : Nat} {base s : State}  (hSolid : solid msk = true)
    (hSub : sub 0x14228B2062C467FC msk = true) (hBase : Keeps msk base s) : Keeps msk base (State.stopPlan s) := by
  refine Keeps.step (v := 0x14228B2062C467FC) ?_ hSolid hSub hBase
  clear hSolid hSub hBase
  unfold State.stopPlan
  try dsimp only
  repeat' first
    | (with_reducible rfl)
    | (with_reducible exact Keeps.refl _ _)
    | (with_reducible apply Keeps.ite)
    | (with_reducible assumption)
    | (with_reducible apply Keeps.setBit regWindow_schStatus)
    | (with_reducible apply State.trace_step)
    | (with_reducible apply State.setCxp_step)
    | (with_reducible apply State.driveCxp_step)
    | (with_reducible apply State.enterPower_step)
    | (with_reducible apply State.idleBeacon_step)
    | intro _
    | (exact (rfl : true = true))
    | split

theorem State.boundary_step {msk : Nat} {base s : State}  (hSolid : solid msk = true)
    (hSub : sub 0x1D228BA063D477FC msk = true) (hBase : Keeps msk base s) : Keeps msk base (State.boundary s) := by
  have k : Keeps 0x1D228BA163D477FC s (State.boundary s) := by
    unfold State.boundary
    try dsimp only
    repeat' first
      | (with_reducible rfl)
      | (with_reducible exact Keeps.refl _ _)
      | (with_reducible apply Keeps.ite)
      | (with_reducible assumption)
      | (with_reducible apply State.setRequests_step)
      | (with_reducible apply State.takeSwap_step)
      | (with_reducible refine State.setSch_nextStep _ (by simp) ?_ ?_ ?_)
      | (with_reducible apply State.stopPlan_step)
      | (with_reducible apply State.beginCycle_step)
      | (with_reducible apply Keeps.bump regWindow_schCycleCnt)
      | intro _
      | (exact (rfl : true = true))
      | split
  refine (k.idle (w := 0x1D228BA063D477FC) (by decide) (by decide) (by decide) fun hn => ?_).step hSolid hSub hBase
  unfold State.boundary
  simp [List.isEmpty_iff, hn]

theorem State.planStart_step {msk : Nat} {base s : State}  (hSolid : solid msk = true)
    (hSub : sub 0x1D228BA063D477FC msk = true) (hBase : Keeps msk base s) : Keeps msk base (State.planStart s) := by
  have k : Keeps 0x1D228BA163D477FC s (State.planStart s) := by
    unfold State.planStart
    try dsimp only
    repeat' first
      | (with_reducible rfl)
      | (with_reducible exact Keeps.refl _ _)
      | (with_reducible apply Keeps.ite)
      | (with_reducible assumption)
      | (with_reducible apply State.takeSwap_step)
      | (with_reducible refine State.setSch_nextStep _ (by simp) ?_ ?_ ?_)
      | (with_reducible apply State.enterPower_step)
      | (with_reducible apply State.trace_step)
      | (with_reducible apply State.beginCycle_step)
      | (with_reducible apply Keeps.setBit regWindow_schStatus)
      | intro _
      | (exact (rfl : true = true))
      | split
  refine (k.idle (w := 0x1D228BA063D477FC) (by decide) (by decide) (by decide) fun hn => ?_).step hSolid hSub hBase
  unfold State.planStart
  dsimp only
  split
  · rfl
  · simp [List.isEmpty_iff, hn]

theorem State.schSwap_step {msk : Nat} {base s : State}  (hSolid : solid msk = true)
    (hSub : sub 0xA000000040 msk = true) (hBase : Keeps msk base s) : Keeps msk base (State.schSwap s) := by
  refine Keeps.step (v := 0xA000000040) ?_ hSolid hSub hBase
  clear hSolid hSub hBase
  unfold State.schSwap
  try dsimp only
  repeat' first
    | (with_reducible rfl)
    | (with_reducible exact Keeps.refl _ _)
    | (with_reducible apply Keeps.ite)
    | (with_reducible assumption)
    | (with_reducible refine State.setSch_nextStep _ (by simp) ?_ ?_ ?_)
    | (with_reducible apply Keeps.setBit regWindow_schStatus)
    | (with_reducible apply Keeps.setBit regWindow_schCtrl)
    | intro _
    | (exact (rfl : true = true))
    | split

theorem State.withdraw_step {msk : Nat} {base s : State}  (hSolid : solid msk = true)
    (hSub : sub 0xA000000040 msk = true) (hBase : Keeps msk base s) : Keeps msk base (State.withdraw s) := by
  refine Keeps.step (v := 0xA000000040) ?_ hSolid hSub hBase
  clear hSolid hSub hBase
  unfold State.withdraw
  try dsimp only
  repeat' first
    | (with_reducible rfl)
    | (with_reducible exact Keeps.refl _ _)
    | (with_reducible apply Keeps.ite)
    | (with_reducible assumption)
    | (with_reducible refine State.setSch_nextStep _ (by simp) ?_ ?_ ?_)
    | (with_reducible apply Keeps.setBit regWindow_schStatus)
    | (with_reducible apply Keeps.setFld regWindow_schPlanId)
    | intro _
    | (exact (rfl : true = true))
    | split

theorem State.schCancel_step {msk : Nat} {base s : State}  (hSolid : solid msk = true)
    (hSub : sub 0xA000000040 msk = true) (hBase : Keeps msk base s) : Keeps msk base (State.schCancel s) := by
  refine Keeps.step (v := 0xA000000040) ?_ hSolid hSub hBase
  clear hSolid hSub hBase
  unfold State.schCancel
  try dsimp only
  repeat' first
    | (with_reducible rfl)
    | (with_reducible exact Keeps.refl _ _)
    | (with_reducible apply Keeps.ite)
    | (with_reducible assumption)
    | (with_reducible apply State.withdraw_step)
    | intro _
    | (exact (rfl : true = true))
    | split

theorem State.schRun_step {msk : Nat} {base s : State} (run : Bool) (hSolid : solid msk = true)
    (hSub : sub 0xA000000040 msk = true) (hBase : Keeps msk base s) : Keeps msk base (State.schRun s run) := by
  refine Keeps.step (v := 0xA000000040) ?_ hSolid hSub hBase
  clear hSolid hSub hBase
  unfold State.schRun
  try dsimp only
  repeat' first
    | (with_reducible rfl)
    | (with_reducible exact Keeps.refl _ _)
    | (with_reducible apply Keeps.ite)
    | (with_reducible assumption)
    | (with_reducible apply Keeps.setBit regWindow_schCtrl)
    | (with_reducible refine State.setSch_nextStep _ (by simp) ?_ ?_ ?_)
    | intro _
    | (exact (rfl : true = true))
    | split

theorem State.endCheck_step {msk : Nat} {base s : State}  (hSolid : solid msk = true)
    (hSub : sub 0xA000000040 msk = true) (hBase : Keeps msk base s) : Keeps msk base (State.endCheck s) := by
  refine Keeps.step (v := 0xA000000040) ?_ hSolid hSub hBase
  clear hSolid hSub hBase
  unfold State.endCheck
  try dsimp only
  repeat' first
    | (with_reducible rfl)
    | (with_reducible exact Keeps.refl _ _)
    | (with_reducible apply Keeps.ite)
    | (with_reducible assumption)
    | (with_reducible refine State.setSch_nextStep _ (by simp) ?_ ?_ ?_)
    | (with_reducible apply Keeps.setBit regWindow_schStatus)
    | (with_reducible apply Keeps.setBit regWindow_schCtrl)
    | intro _
    | (exact (rfl : true = true))
    | split

theorem State.checkResult_step {msk : Nat} {base s : State} (c : Check) (hSolid : solid msk = true)
    (hSub : sub 0x190202A06214175C msk = true) (hBase : Keeps msk base s) : Keeps msk base (State.checkResult s c) := by
  refine Keeps.step (v := 0x190202A06214175C) ?_ hSolid hSub hBase
  clear hSolid hSub hBase
  unfold State.checkResult
  generalize s.checkPlan c.bank = v
  dsimp only
  have k2 : Keeps 0x190202A06214175C s (s.setReg R.schCheckResult (Word.put (Word.put (Word.put 0 F.schCheckResult.code v.code)
      F.schCheckResult.stake v.stake) F.schCheckResult.offset v.offset)) :=
    Keeps.setReg regWindow_schCheckResult rfl rfl (Keeps.refl _ _)
  revert k2
  generalize s.setReg R.schCheckResult _ = s2
  intro k2
  repeat' first
    | (with_reducible assumption)
    | (with_reducible apply Keeps.ite)
    | (with_reducible apply State.activate_step)
    | (with_reducible apply Keeps.setBit regWindow_schStatus)
    | (with_reducible apply Keeps.setFld regWindow_schPlanId)
    | (with_reducible refine State.setSch_nextStep _ (by first | rfl | rw [State.setFld_sch, State.setBit_sch]) ?_ ?_ ?_)
    | (exact (rfl : true = true))

theorem State.checkDone_step {msk : Nat} {base s : State}  (hSolid : solid msk = true)
    (hSub : sub 0x990202A06214175C msk = true) (hBase : Keeps msk base s) : Keeps msk base (State.checkDone s) := by
  refine Keeps.step (v := 0x990202A06214175C) ?_ hSolid hSub hBase
  clear hSolid hSub hBase
  unfold State.checkDone
  try dsimp only
  repeat' first
    | (with_reducible rfl)
    | (with_reducible exact Keeps.refl _ _)
    | (with_reducible apply Keeps.ite)
    | (with_reducible assumption)
    | (with_reducible apply State.endCheck_step)
    | (with_reducible apply State.touchAll_step)
    | (with_reducible apply State.eccCritical_step)
    | (with_reducible apply Keeps.setBit regWindow_gshEccStatus)
    | (with_reducible apply State.planUe_step)
    | (with_reducible apply State.checkResult_step)
    | (with_reducible apply State.schSwap_step)
    | (with_reducible refine State.setSch_nextStep _ (by simp) ?_ ?_ ?_)
    | intro _
    | (exact (rfl : true = true))
    | split

theorem State.paReturn_step {msk : Nat} {base s : State} (p : ℕ) (hSolid : solid msk = true)
    (hSub : sub 0x100 msk = true) (hBase : Keeps msk base s) : Keeps msk base (State.paReturn s p) := by
  refine Keeps.step (v := 0x100) ?_ hSolid hSub hBase
  clear hSolid hSub hBase
  unfold State.paReturn
  try dsimp only
  repeat' first
    | (with_reducible rfl)
    | (with_reducible exact Keeps.refl _ _)
    | (with_reducible apply Keeps.ite)
    | (with_reducible assumption)
    | (with_reducible apply State.modPort_step)
    | intro _
    | (exact (rfl : true = true))
    | split

theorem State.retryOver_step {msk : Nat} {base s : State} (p : ℕ) (hSolid : solid msk = true)
    (hSub : sub 0x100 msk = true) (hBase : Keeps msk base s) : Keeps msk base (State.retryOver s p) := by
  refine Keeps.step (v := 0x100) ?_ hSolid hSub hBase
  clear hSolid hSub hBase
  unfold State.retryOver
  try dsimp only
  repeat' first
    | (with_reducible rfl)
    | (with_reducible exact Keeps.refl _ _)
    | (with_reducible apply Keeps.ite)
    | (with_reducible assumption)
    | (with_reducible apply State.modPort_step)
    | intro _
    | (exact (rfl : true = true))
    | split

theorem State.loadCoef_step {msk : Nat} {base s : State} (p j : Nat) (hSolid : solid msk = true)
    (hSub : sub 0x10000000000 msk = true) (hBase : Keeps msk base s) : Keeps msk base (State.loadCoef s p j) := by
  refine Keeps.step (v := 0x10000000000) ?_ hSolid hSub hBase
  clear hSolid hSub hBase
  unfold State.loadCoef
  try dsimp only
  repeat' first
    | (with_reducible rfl)
    | (with_reducible exact Keeps.refl _ _)
    | (with_reducible apply Keeps.ite)
    | (with_reducible assumption)
    | (with_reducible apply Keeps.setCfg (regWindow_hfaCancelCoef ..))
    | intro _
    | (exact (rfl : true = true))
    | split

theorem State.loadCoefs_step {msk : Nat} {base s : State} (p : Nat) (hSolid : solid msk = true)
    (hSub : sub 0x10000000100 msk = true) (hBase : Keeps msk base s) : Keeps msk base (State.loadCoefs s p) := by
  refine Keeps.step (v := 0x10000000100) ?_ hSolid hSub hBase
  clear hSolid hSub hBase
  unfold State.loadCoefs
  try dsimp only
  repeat' first
    | (with_reducible rfl)
    | (with_reducible exact Keeps.refl _ _)
    | (with_reducible apply Keeps.ite)
    | (with_reducible assumption)
    | (with_reducible apply Keeps.each)
    | (with_reducible apply State.loadCoef_step)
    | (with_reducible apply Keeps.setBit (regWindow_hfaCancelCfg ..))
    | (with_reducible apply State.modPort_step)
    | intro _
    | (exact (rfl : true = true))
    | split

theorem State.claimRun_step {msk : Nat} {base s : State} (n : Nat) (h : HostRun) (hSolid : solid msk = true)
    (hSub : sub 0x1000000008000 msk = true) (hBase : Keeps msk base s) : Keeps msk base (State.claimRun s n h) := by
  refine Keeps.step (v := 0x1000000008000) ?_ hSolid hSub hBase
  clear hSolid hSub hBase
  unfold State.claimRun
  try dsimp only
  repeat' first
    | (with_reducible rfl)
    | (with_reducible exact Keeps.refl _ _)
    | (with_reducible apply Keeps.ite)
    | (with_reducible assumption)
    | (with_reducible apply State.setHostRuns_step)
    | (with_reducible apply Keeps.setBit (regWindow_chkStatus ..))
    | (with_reducible apply Keeps.setBit (regWindow_chkRun ..))
    | intro _
    | (exact (rfl : true = true))
    | split

theorem State.claim_step {msk : Nat} {base s : State} (k : Stake) (hSolid : solid msk = true)
    (hSub : sub 0x1800000008000 msk = true) (hBase : Keeps msk base s) : Keeps msk base (State.claim s k) := by
  refine Keeps.step (v := 0x1800000008000) ?_ hSolid hSub hBase
  clear hSolid hSub hBase
  unfold State.claim
  try dsimp only
  repeat' first
    | (with_reducible rfl)
    | (with_reducible exact Keeps.refl _ _)
    | (with_reducible apply Keeps.ite)
    | (with_reducible assumption)
    | (with_reducible apply Keeps.each)
    | (with_reducible apply Keeps.setBit (regWindow_chkStatus ..))
    | (with_reducible apply State.claimRun_step)
    | (with_reducible apply Keeps.setFld regWindow_wrdStatus)
    | intro _
    | (exact (rfl : true = true))
    | split

theorem State.unclaim_step {msk : Nat} {base s : State} (k : Stake) (hSolid : solid msk = true)
    (hSub : sub 0x1800000000000 msk = true) (hBase : Keeps msk base s) : Keeps msk base (State.unclaim s k) := by
  refine Keeps.step (v := 0x1800000000000) ?_ hSolid hSub hBase
  clear hSolid hSub hBase
  unfold State.unclaim
  try dsimp only
  repeat' first
    | (with_reducible rfl)
    | (with_reducible exact Keeps.refl _ _)
    | (with_reducible apply Keeps.ite)
    | (with_reducible assumption)
    | (with_reducible apply Keeps.setBit (regWindow_chkStatus _))
    | (with_reducible apply Keeps.setFld regWindow_wrdStatus)
    | (with_reducible apply Keeps.each)
    | intro _
    | (exact (rfl : true = true))
    | split

theorem State.openWalk_step {msk : Nat} {base s : State} (r : Run) (hSolid : solid msk = true)
    (hSub : sub 0x400000000400 msk = true) (hBase : Keeps msk base s) : Keeps msk base (State.openWalk s r).1 := by
  refine Keeps.step (v := 0x400000000400) ?_ hSolid hSub hBase
  clear hSolid hSub hBase
  unfold State.openWalk
  try dsimp only
  repeat' first
    | (with_reducible rfl)
    | (with_reducible exact Keeps.refl _ _)
    | (with_reducible apply Keeps.ite)
    | (with_reducible assumption)
    | (with_reducible apply State.setRecords_step)
    | (with_reducible apply Keeps.bump regWindow_sngRecordDropCnt)
    | intro _
    | (exact (rfl : true = true))
    | split

theorem State.startWork_step {msk : Nat} {base s : State} (r : Run) (from_ : Nat) (hSolid : solid msk = true)
    (hSub : sub 0x24B00600407DC msk = true) (hBase : Keeps msk base s) : Keeps msk base (State.startWork s r from_) := by
  refine Keeps.step (v := 0x24B00600407DC) ?_ hSolid hSub hBase
  clear hSolid hSub hBase
  unfold State.startWork
  try dsimp only
  repeat' first
    | (with_reducible rfl)
    | (with_reducible exact Keeps.refl _ _)
    | (with_reducible apply Keeps.ite)
    | (with_reducible assumption)
    | (with_reducible apply State.openWalk_step)
    | (with_reducible refine Keeps.fst (State.openWalk_step (by assumption) ?_ ?_ ?_) (by assumption))
    | (with_reducible apply State.putRun_step)
    | (with_reducible apply State.heldDrive_step)
    | (with_reducible apply State.startFront_step)
    | intro _
    | (exact (rfl : true = true))
    | split

theorem State.idleTrigger_step {msk : Nat} {base s : State} (r : Run) (hSolid : solid msk = true)
    (hSub : sub 0x80000000280 msk = true) (hBase : Keeps msk base s) : Keeps msk base (State.idleTrigger s r) := by
  refine Keeps.step (v := 0x80000000280) ?_ hSolid hSub hBase
  clear hSolid hSub hBase
  unfold State.idleTrigger
  try dsimp only
  repeat' first
    | (with_reducible rfl)
    | (with_reducible exact Keeps.refl _ _)
    | (with_reducible apply Keeps.ite)
    | (with_reducible assumption)
    | (with_reducible apply State.putRun_step)
    | (with_reducible apply State.lowerField_step)
    | intro _
    | (exact (rfl : true = true))
    | split

theorem State.beginWork_step {msk : Nat} {base s : State} (r : Run) (from_ : Nat) (hSolid : solid msk = true)
    (hSub : sub 0x24B00600507DC msk = true) (hBase : Keeps msk base s) : Keeps msk base (State.beginWork s r from_) := by
  refine Keeps.step (v := 0x24B00600507DC) ?_ hSolid hSub hBase
  clear hSolid hSub hBase
  unfold State.beginWork
  try dsimp only
  repeat' first
    | (with_reducible rfl)
    | (with_reducible exact Keeps.refl _ _)
    | (with_reducible apply Keeps.ite)
    | (with_reducible assumption)
    | (with_reducible apply State.putRun_step)
    | (with_reducible apply State.heldDrive_step)
    | (with_reducible apply State.idleTrigger_step)
    | (with_reducible apply State.awnResume_step)
    | (with_reducible apply State.startWork_step)
    | intro _
    | (exact (rfl : true = true))
    | split

theorem State.calStart_step {msk : Nat} {base s : State} (r : Run) (hSolid : solid msk = true)
    (hSub : sub 0x200 msk = true) (hBase : Keeps msk base s) : Keeps msk base (State.calStart s r) := by
  refine Keeps.step (v := 0x200) ?_ hSolid hSub hBase
  clear hSolid hSub hBase
  unfold State.calStart
  try dsimp only
  repeat' first
    | (with_reducible rfl)
    | (with_reducible exact Keeps.refl _ _)
    | (with_reducible apply Keeps.ite)
    | (with_reducible assumption)
    | (with_reducible apply State.sendFrom_step)
    | intro _
    | (exact (rfl : true = true))
    | split

theorem State.startInert_step {msk : Nat} {base s : State} (r : Run) (st : Status) (hSolid : solid msk = true)
    (hSub : sub 0xC020A00600402DC msk = true) (hBase : Keeps msk base s) : Keeps msk base (State.startInert s r st) := by
  refine Keeps.step (v := 0xC020A00600402DC) ?_ hSolid hSub hBase
  clear hSolid hSub hBase
  unfold State.startInert
  try dsimp only
  repeat' first
    | (with_reducible rfl)
    | (with_reducible exact Keeps.refl _ _)
    | (with_reducible apply Keeps.ite)
    | (with_reducible assumption)
    | (with_reducible apply State.putRun_step)
    | (with_reducible apply State.lowerField_step)
    | (with_reducible apply State.countDenied_step)
    | (with_reducible apply State.inertReport_step)
    | (with_reducible apply State.clearLatch_step)
    | intro _
    | (exact (rfl : true = true))
    | split

theorem State.wakeWaiting_step {msk : Nat} {base s : State}  (hSolid : solid msk = true)
    (hSub : sub 0xC024B00600507DC msk = true) (hBase : Keeps msk base s) : Keeps msk base (State.wakeWaiting s) := by
  refine Keeps.step (v := 0xC024B00600507DC) ?_ hSolid hSub hBase
  clear hSolid hSub hBase
  unfold State.wakeWaiting
  try dsimp only
  repeat' first
    | (with_reducible rfl)
    | (with_reducible exact Keeps.refl _ _)
    | (with_reducible apply Keeps.ite)
    | (with_reducible assumption)
    | (with_reducible apply Keeps.each)
    | (with_reducible apply State.startInert_step)
    | (with_reducible apply State.beginWork_step)
    | intro _
    | (exact (rfl : true = true))
    | split

theorem State.beforeStake_step {msk : Nat} {base s : State} (k : Stake) (hSolid : solid msk = true)
    (hSub : sub 0x3818100808144 msk = true) (hBase : Keeps msk base s) : Keeps msk base (State.beforeStake s k) := by
  refine Keeps.step (v := 0x3818100808144) ?_ hSolid hSub hBase
  clear hSolid hSub hBase
  unfold State.beforeStake
  try dsimp only
  repeat' first
    | (with_reducible rfl)
    | (with_reducible exact Keeps.refl _ _)
    | (with_reducible apply Keeps.ite)
    | (with_reducible assumption)
    | (with_reducible apply State.touchAll_step)
    | (with_reducible apply State.setCxp_step)
    | (with_reducible apply State.setSch_step)
    | (with_reducible apply State.retryOver_step)
    | (with_reducible apply State.paReturn_step)
    | (with_reducible apply State.claim_step)
    | (with_reducible apply State.loadCoefs_step)
    | (with_reducible apply Keeps.each)
    | intro _
    | (exact (rfl : true = true))
    | split

theorem State.addStake_step {msk : Nat} {base s : State} (k : Stake) (r : Run) (hSolid : solid msk = true)
    (hSub : sub 0x1C22CB61628567DC msk = true) (hBase : Keeps msk base s) : Keeps msk base (State.addStake s k r) := by
  refine Keeps.step (v := 0x1C22CB61628567DC) ?_ hSolid hSub hBase
  clear hSolid hSub hBase
  unfold State.addStake
  try dsimp only
  repeat' first
    | (with_reducible rfl)
    | (with_reducible exact Keeps.refl _ _)
    | (with_reducible apply Keeps.ite)
    | (with_reducible assumption)
    | (with_reducible apply Keeps.each)
    | (with_reducible apply State.modPort_step)
    | (with_reducible apply State.hopLengths_step)
    | (with_reducible apply State.setRuns_step)
    | (with_reducible apply State.trace_step)
    | (with_reducible apply State.protectStart_step)
    | (with_reducible apply State.driveCxp_step)
    | (with_reducible apply State.wakeWaiting_step)
    | intro _
    | (exact (rfl : true = true))
    | split

theorem State.launch_step {msk : Nat} {base s : State} (k : Stake) (r : Run) (hSolid : solid msk = true)
    (hSub : sub 0xC024B00600507DC msk = true) (hBase : Keeps msk base s) : Keeps msk base (State.launch s k r) := by
  refine Keeps.step (v := 0xC024B00600507DC) ?_ hSolid hSub hBase
  clear hSolid hSub hBase
  unfold State.launch
  try dsimp only
  repeat' first
    | (with_reducible rfl)
    | (with_reducible exact Keeps.refl _ _)
    | (with_reducible apply Keeps.ite)
    | (with_reducible assumption)
    | (with_reducible apply State.startInert_step)
    | (with_reducible apply State.calStart_step)
    | (with_reducible apply State.beginWork_step)
    | (with_reducible apply State.putRun_step)
    | intro _
    | (exact (rfl : true = true))
    | split

theorem State.stakeStart_step {msk : Nat} {base s : State} (idx : ℕ) (hSolid : solid msk = true)
    (hSub : sub 0x9C23CBE16285E7DC msk = true) (hBase : Keeps msk base s) : Keeps msk base (State.stakeStart s idx) := by
  refine Keeps.step (v := 0x9C23CBE16285E7DC) ?_ hSolid hSub hBase
  clear hSolid hSub hBase
  unfold State.stakeStart
  try dsimp only
  repeat' first
    | (with_reducible rfl)
    | (with_reducible exact Keeps.refl _ _)
    | (with_reducible apply Keeps.ite)
    | (with_reducible assumption)
    | (with_reducible apply State.eccCritical_step)
    | (with_reducible apply State.touchAll_step)
    | (with_reducible apply State.beforeStake_step)
    | (with_reducible apply State.launch_step)
    | (with_reducible apply State.addStake_step)
    | intro _
    | (exact (rfl : true = true))
    | split

theorem State.triggerStart_step {msk : Nat} {base s : State} (p : Nat) (hSolid : solid msk = true)
    (hSub : sub 0xC024B00600407DC msk = true) (hBase : Keeps msk base s) : Keeps msk base (State.triggerStart s p) := by
  refine Keeps.step (v := 0xC024B00600407DC) ?_ hSolid hSub hBase
  clear hSolid hSub hBase
  unfold State.triggerStart
  try dsimp only
  repeat' first
    | (with_reducible rfl)
    | (with_reducible exact Keeps.refl _ _)
    | (with_reducible apply Keeps.ite)
    | (with_reducible assumption)
    | (with_reducible apply State.startInert_step)
    | (with_reducible apply State.clearLatch_step)
    | (with_reducible apply State.startWork_step)
    | intro _
    | (exact (rfl : true = true))
    | split

theorem State.calEnd_step {msk : Nat} {base s : State} (r : Run) (hSolid : solid msk = true)
    (hSub : sub 0x100000000100200 msk = true) (hBase : Keeps msk base s) : Keeps msk base (State.calEnd s r) := by
  refine Keeps.step (v := 0x100000000100200) ?_ hSolid hSub hBase
  clear hSolid hSub hBase
  unfold State.calEnd
  try dsimp only
  repeat' first
    | (with_reducible rfl)
    | (with_reducible exact Keeps.refl _ _)
    | (with_reducible apply Keeps.ite)
    | (with_reducible assumption)
    | (with_reducible apply State.setRotor_step)
    | (with_reducible apply State.offLoad_step)
    | intro _
    | (exact (rfl : true = true))
    | split

theorem State.storeCoefs_step {msk : Nat} {base s : State} (r : Run) (hSolid : solid msk = true)
    (hSub : sub 0x10000000000 msk = true) (hBase : Keeps msk base s) : Keeps msk base (State.storeCoefs s r) := by
  refine Keeps.step (v := 0x10000000000) ?_ hSolid hSub hBase
  clear hSolid hSub hBase
  unfold State.storeCoefs
  try dsimp only
  repeat' first
    | (with_reducible rfl)
    | (with_reducible exact Keeps.refl _ _)
    | (with_reducible apply Keeps.ite)
    | (with_reducible assumption)
    | (with_reducible apply Keeps.setReg (regWindow_hfaCancelCoef _ _))
    | (with_reducible apply Keeps.each)
    | intro _
    | (exact (rfl : true = true))
    | split

theorem State.stakeEnd_step {msk : Nat} {base s : State} (p : Nat) (hSolid : solid msk = true)
    (hSub : sub 0x15638B60E29567DC msk = true) (hBase : Keeps msk base s) : Keeps msk base (State.stakeEnd s p) := by
  refine Keeps.step (v := 0x15638B60E29567DC) ?_ hSolid hSub hBase
  clear hSolid hSub hBase
  unfold State.stakeEnd
  try dsimp only
  repeat' first
    | (with_reducible rfl)
    | (with_reducible exact Keeps.refl _ _)
    | (with_reducible apply Keeps.ite)
    | (with_reducible assumption)
    | (with_reducible apply State.beginTail_step)
    | (with_reducible apply State.unclaim_step)
    | (with_reducible apply State.storeCoefs_step)
    | (with_reducible apply State.dropRun_step)
    | (with_reducible apply State.awnStop_step)
    | (with_reducible apply State.trace_step)
    | (with_reducible apply State.calEnd_step)
    | (with_reducible apply State.updateReserve_step)
    | (with_reducible apply Keeps.each)
    | (with_reducible apply State.modPort_step)
    | (with_reducible apply State.settleSlice_step)
    | (with_reducible apply State.pinsSafe_step)
    | (with_reducible apply State.driveCxp_step)
    | intro _
    | (exact (rfl : true = true))
    | split

end Sys2Proof.Machine
end

