-- ==== Sys2Proof/Laws/KeepsHeads.lean ====
section
/-! SUPPORT. What each operation of Machine/Heads.lean may change (Laws/Keeps.lean reads the masks). -/

namespace Sys2Proof.Machine

set_option linter.unreachableTactic false
set_option linter.unusedTactic false

theorem State.headShown_step {msk : Nat} {base s : State} (p : Nat) (o : HeadObs) (hSolid : solid msk = true)
    (hSub : sub 0x90000000200 msk = true) (hBase : Keeps msk base s) : Keeps msk base (State.headShown s p o) := by
  refine Keeps.step (v := 0x90000000200) ?_ hSolid hSub hBase
  clear hSolid hSub hBase
  unfold State.headShown
  try dsimp only
  repeat' first
    | (with_reducible rfl)
    | (with_reducible exact Keeps.refl _ _)
    | (with_reducible apply Keeps.ite)
    | (with_reducible assumption)
    | (with_reducible apply Keeps.setHead)
    | (with_reducible apply State.stamp_step)
    | (with_reducible apply Keeps.setHeadBit)
    | intro _
    | (exact (rfl : true = true))
    | split

theorem State.showHead_step {msk : Nat} {base s : State} (p : Nat) (o : HeadObs) (told : Bool) (hSolid : solid msk = true)
    (hSub : sub 0x20B006004021C msk = true) (hBase : Keeps msk base s) : Keeps msk base (State.showHead s p o told) := by
  refine Keeps.step (v := 0x20B006004021C) ?_ hSolid hSub hBase
  clear hSolid hSub hBase
  unfold State.showHead
  try dsimp only
  repeat' first
    | (with_reducible rfl)
    | (with_reducible exact Keeps.refl _ _)
    | (with_reducible apply Keeps.ite)
    | (with_reducible assumption)
    | (with_reducible apply State.headShown_step)
    | (with_reducible apply State.health_step)
    | intro _
    | (exact (rfl : true = true))
    | split

theorem State.dropPortRecords_step {msk : Nat} {base s : State} (p : ℕ) (hSolid : solid msk = true)
    (hSub : sub 0x202006004041C msk = true) (hBase : Keeps msk base s) : Keeps msk base (State.dropPortRecords s p) := by
  refine Keeps.step (v := 0x202006004041C) ?_ hSolid hSub hBase
  clear hSolid hSub hBase
  unfold State.dropPortRecords
  try dsimp only
  repeat' first
    | (with_reducible rfl)
    | (with_reducible exact Keeps.refl _ _)
    | (with_reducible apply Keeps.ite)
    | (with_reducible assumption)
    | (with_reducible apply State.setRecords_step)
    | (with_reducible apply State.event_step)
    | (with_reducible apply Keeps.each)
    | intro _
    | (exact (rfl : true = true))
    | split

theorem State.darkBy_step {msk : Nat} {base s : State} (n due : Nat) (hSolid : solid msk = true)
    (hSub : sub 0x200 msk = true) (hBase : Keeps msk base s) : Keeps msk base (State.darkBy s n due) := by
  refine Keeps.step (v := 0x200) ?_ hSolid hSub hBase
  clear hSolid hSub hBase
  unfold State.darkBy
  try dsimp only
  repeat' first
    | (with_reducible rfl)
    | (with_reducible exact Keeps.refl _ _)
    | (with_reducible apply Keeps.ite)
    | (with_reducible assumption)
    | (with_reducible apply State.darkSlice_step)
    | (with_reducible apply State.modSlice_step)
    | intro _
    | (exact (rfl : true = true))
    | split

theorem State.headLost_step {msk : Nat} {base s : State} (r : Run) (p since cls : Nat) (hSolid : solid msk = true)
    (hSub : sub 0x10228320620467DC msk = true) (hBase : Keeps msk base s) : Keeps msk base (State.headLost s r p since cls) := by
  refine Keeps.step (v := 0x10228320620467DC) ?_ hSolid hSub hBase
  clear hSolid hSub hBase
  unfold State.headLost
  try dsimp only
  repeat' first
    | (with_reducible rfl)
    | (with_reducible exact Keeps.refl _ _)
    | (with_reducible apply Keeps.ite)
    | (with_reducible assumption)
    | (with_reducible apply State.cutExch_step)
    | (with_reducible apply State.modRun_step)
    | (with_reducible apply Keeps.each)
    | (with_reducible apply State.darkBy_step)
    | (with_reducible apply State.modPort_step)
    | (with_reducible apply State.event_step)
    | (with_reducible apply State.health_step)
    | (with_reducible apply State.dropPortRecords_step)
    | intro _
    | (exact (rfl : true = true))
    | split

theorem State.headReturn_step {msk : Nat} {base s : State} (r : Run) (p : ℕ) (hSolid : solid msk = true)
    (hSub : sub 0x20A006004011C msk = true) (hBase : Keeps msk base s) : Keeps msk base (State.headReturn s r p) := by
  refine Keeps.step (v := 0x20A006004011C) ?_ hSolid hSub hBase
  clear hSolid hSub hBase
  unfold State.headReturn
  try dsimp only
  repeat' first
    | (with_reducible rfl)
    | (with_reducible exact Keeps.refl _ _)
    | (with_reducible apply Keeps.ite)
    | (with_reducible assumption)
    | (with_reducible apply State.modPort_step)
    | (with_reducible apply State.event_step)
    | (with_reducible apply Keeps.setBit (regWindow_uhaSjcSeed _ _))
    | (with_reducible apply Keeps.each)
    | intro _
    | (exact (rfl : true = true))
    | split

theorem State.memberLost_step {msk : Nat} {base s : State} (r : Run) (p since cls : Nat) (hSolid : solid msk = true)
    (hSub : sub 0x202006004079C msk = true) (hBase : Keeps msk base s) : Keeps msk base (State.memberLost s r p since cls) := by
  refine Keeps.step (v := 0x202006004079C) ?_ hSolid hSub hBase
  clear hSolid hSub hBase
  unfold State.memberLost
  try dsimp only
  repeat' first
    | (with_reducible rfl)
    | (with_reducible exact Keeps.refl _ _)
    | (with_reducible apply Keeps.ite)
    | (with_reducible assumption)
    | (with_reducible apply State.darkSlice_step)
    | (with_reducible apply State.modPort_step)
    | (with_reducible apply State.modRun_step)
    | (with_reducible apply State.event_step)
    | (with_reducible apply State.health_step)
    | (with_reducible apply State.dropPortRecords_step)
    | intro _
    | (exact (rfl : true = true))
    | split

theorem State.rampHead_step {msk : Nat} {base s : State} (r : Run) (p : Nat) (o : HeadObs) (hSolid : solid msk = true)
    (hSub : sub 0x10228B20620467DC msk = true) (hBase : Keeps msk base s) : Keeps msk base (State.rampHead s r p o) := by
  refine Keeps.step (v := 0x10228B20620467DC) ?_ hSolid hSub hBase
  clear hSolid hSub hBase
  unfold State.rampHead
  try dsimp only
  repeat' first
    | (with_reducible rfl)
    | (with_reducible exact Keeps.refl _ _)
    | (with_reducible apply Keeps.ite)
    | (with_reducible assumption)
    | (with_reducible apply State.showHead_step)
    | (with_reducible apply State.memberLost_step)
    | (with_reducible apply State.headLost_step)
    | (with_reducible apply State.headReturn_step)
    | (with_reducible apply State.modRun_step)
    | intro _
    | (exact (rfl : true = true))
    | split

theorem State.headResult_step {msk : Nat} {base s : State} (r : Run) (p since : Nat) (o : HeadObs) (hSolid : solid msk = true)
    (hSub : sub 0x10228B20620467DC msk = true) (hBase : Keeps msk base s) : Keeps msk base (State.headResult s r p since o) := by
  refine Keeps.step (v := 0x10228B20620467DC) ?_ hSolid hSub hBase
  clear hSolid hSub hBase
  unfold State.headResult
  try dsimp only
  repeat' first
    | (with_reducible rfl)
    | (with_reducible exact Keeps.refl _ _)
    | (with_reducible apply Keeps.ite)
    | (with_reducible assumption)
    | (with_reducible apply State.showHead_step)
    | (with_reducible apply State.event_step)
    | (with_reducible apply State.headLost_step)
    | (with_reducible apply State.headReturn_step)
    | intro _
    | (exact (rfl : true = true))
    | split

theorem State.headSample_step {msk : Nat} {base s : State} (r : Run) (p : Nat) (o : HeadObs) (hSolid : solid msk = true)
    (hSub : sub 0x10228B20620467DC msk = true) (hBase : Keeps msk base s) : Keeps msk base (State.headSample s r p o) := by
  refine Keeps.step (v := 0x10228B20620467DC) ?_ hSolid hSub hBase
  clear hSolid hSub hBase
  unfold State.headSample
  try dsimp only
  repeat' first
    | (with_reducible rfl)
    | (with_reducible exact Keeps.refl _ _)
    | (with_reducible apply Keeps.ite)
    | (with_reducible assumption)
    | (with_reducible apply State.modPort_step)
    | (with_reducible apply State.headResult_step)
    | (with_reducible apply State.darkSlice_step)
    | (with_reducible apply State.showHead_step)
    | (with_reducible apply State.headLost_step)
    | intro _
    | (exact (rfl : true = true))
    | split

end Sys2Proof.Machine
end

