-- ==== Sys2Proof/Laws/KeepsHfField.lean ====
section
/-! SUPPORT. What each operation of Machine/HfField.lean may change (Laws/Keeps.lean reads the masks). -/

namespace Sys2Proof.Machine

set_option linter.unreachableTactic false
set_option linter.unusedTactic false

theorem State.frontDone_step {msk : Nat} {base s : State} (p : ℕ) (hSolid : solid msk = true)
    (hSub : sub 0x80 msk = true) (hBase : Keeps msk base s) : Keeps msk base (State.frontDone s p) := by
  refine Keeps.step (v := 0x80) ?_ hSolid hSub hBase
  clear hSolid hSub hBase
  unfold State.frontDone
  try dsimp only
  repeat' first
    | (with_reducible rfl)
    | (with_reducible exact Keeps.refl _ _)
    | (with_reducible apply Keeps.ite)
    | (with_reducible assumption)
    | (with_reducible apply State.putRun_step)
    | intro _
    | (exact (rfl : true = true))
    | split

theorem State.fieldArrived_step {msk : Nat} {base s : State} (r : Run) (n : ℕ) (p : ℕ) (o : SliceObs) (hSolid : solid msk = true)
    (hSub : sub 0x10228B20620467DC msk = true) (hBase : Keeps msk base s) : Keeps msk base (State.fieldArrived s r n p o) := by
  refine Keeps.step (v := 0x10228B20620467DC) ?_ hSolid hSub hBase
  clear hSolid hSub hBase
  unfold State.fieldArrived
  try dsimp only
  repeat' first
    | (with_reducible rfl)
    | (with_reducible exact Keeps.refl _ _)
    | (with_reducible apply Keeps.ite)
    | (with_reducible assumption)
    | (with_reducible apply State.showDrive_step)
    | (with_reducible apply State.modSlice_step)
    | (with_reducible apply State.putRun_step)
    | (with_reducible apply State.frontDone_step)
    | (with_reducible apply State.rampHead_step)
    | intro _
    | (exact (rfl : true = true))
    | split

theorem State.driveRest_step {msk : Nat} {base s : State} (n : Nat) (hSolid : solid msk = true)
    (hSub : sub 0x10000000000 msk = true) (hBase : Keeps msk base s) : Keeps msk base (State.driveRest s n) := by
  refine Keeps.step (v := 0x10000000000) ?_ hSolid hSub hBase
  clear hSolid hSub hBase
  unfold State.driveRest
  try dsimp only
  repeat' first
    | (with_reducible rfl)
    | (with_reducible exact Keeps.refl _ _)
    | (with_reducible apply Keeps.ite)
    | (with_reducible assumption)
    | (with_reducible apply State.driveNone_step)
    | intro _
    | (exact (rfl : true = true))
    | split

theorem State.hfDone_step {msk : Nat} {base s : State} (n : Nat) (o : SliceObs) (hSolid : solid msk = true)
    (hSub : sub 0x14228B20628467DC msk = true) (hBase : Keeps msk base s) : Keeps msk base (State.hfDone s n o) := by
  refine Keeps.step (v := 0x14228B20628467DC) ?_ hSolid hSub hBase
  clear hSolid hSub hBase
  unfold State.hfDone
  try dsimp only
  repeat' first
    | (with_reducible rfl)
    | (with_reducible exact Keeps.refl _ _)
    | (with_reducible apply Keeps.ite)
    | (with_reducible assumption)
    | (with_reducible apply State.arrive_step)
    | (with_reducible apply State.fieldArrived_step)
    | (with_reducible apply State.headResult_step)
    | (with_reducible apply State.frontDone_step)
    | (with_reducible apply State.putRun_step)
    | (with_reducible apply State.driveRest_step)
    | (with_reducible apply State.driveCxp_step)
    | intro _
    | (exact (rfl : true = true))
    | split

theorem State.loadSample_step {msk : Nat} {base s : State} (p : Nat) (o : HeadObs) (hSolid : solid msk = true)
    (hSub : sub 0x10228B20620467DC msk = true) (hBase : Keeps msk base s) : Keeps msk base (State.loadSample s p o) := by
  refine Keeps.step (v := 0x10228B20620467DC) ?_ hSolid hSub hBase
  clear hSolid hSub hBase
  unfold State.loadSample
  try dsimp only
  repeat' first
    | (with_reducible rfl)
    | (with_reducible exact Keeps.refl _ _)
    | (with_reducible apply Keeps.ite)
    | (with_reducible assumption)
    | (with_reducible apply Keeps.setReg (regWindow_hfaDriveStatus ..))
    | (with_reducible apply State.stamp_step)
    | (with_reducible apply State.remeasured_step)
    | (with_reducible apply State.headSample_step)
    | intro _
    | (exact (rfl : true = true))
    | split

theorem State.cancelAdapt_step {msk : Nat} {base s : State} (p : Nat) (x : Int × Int) (left : List Nat) (hSolid : solid msk = true)
    (hSub : sub 0x40000080 msk = true) (hBase : Keeps msk base s) : Keeps msk base (State.cancelAdapt s p x left) := by
  refine Keeps.step (v := 0x40000080) ?_ hSolid hSub hBase
  clear hSolid hSub hBase
  unfold State.cancelAdapt
  try dsimp only
  repeat' first
    | (with_reducible rfl)
    | (with_reducible exact Keeps.refl _ _)
    | (with_reducible apply Keeps.ite)
    | (with_reducible assumption)
    | (with_reducible apply State.skip_step)
    | (with_reducible apply State.putRun_step)
    | (with_reducible apply Keeps.foldl)
    | intro _
    | (exact (rfl : true = true))
    | split

theorem State.cancelReload_step {msk : Nat} {base s : State} (p : Nat) (hSolid : solid msk = true)
    (hSub : sub 0x10000000100 msk = true) (hBase : Keeps msk base s) : Keeps msk base (State.cancelReload s p) := by
  refine Keeps.step (v := 0x10000000100) ?_ hSolid hSub hBase
  clear hSolid hSub hBase
  unfold State.cancelReload
  try dsimp only
  repeat' first
    | (with_reducible rfl)
    | (with_reducible exact Keeps.refl _ _)
    | (with_reducible apply Keeps.ite)
    | (with_reducible assumption)
    | (with_reducible apply State.setTick_step)
    | (with_reducible apply Keeps.setBit (regWindow_hfaCancelCfg ..))
    | (with_reducible apply State.modPort_step)
    | intro _
    | (exact (rfl : true = true))
    | split

end Sys2Proof.Machine
end

