-- ==== Sys2Proof/Laws/KeepsUhfRadio.lean ====
section
/-! SUPPORT. What each operation of Machine/UhfRadio.lean may change (Laws/Keeps.lean reads the masks). -/

namespace Sys2Proof.Machine

set_option linter.unreachableTactic false
set_option linter.unusedTactic false

theorem State.paFaultHit_step {msk : Nat} {base s : State} (p : Nat) (hSolid : solid msk = true)
    (hSub : sub 0x10228B20620463DC msk = true) (hBase : Keeps msk base s) : Keeps msk base (State.paFaultHit s p) := by
  refine Keeps.step (v := 0x10228B20620463DC) ?_ hSolid hSub hBase
  clear hSolid hSub hBase
  unfold State.paFaultHit
  try dsimp only
  repeat' first
    | (with_reducible rfl)
    | (with_reducible exact Keeps.refl _ _)
    | (with_reducible apply Keeps.ite)
    | (with_reducible assumption)
    | (with_reducible apply State.stopRadio_step)
    | (with_reducible apply State.sliceTo_step)
    | (with_reducible apply State.pinsSafe_step)
    | (with_reducible apply Keeps.setBit (regWindow_uhaPaStatus ..))
    | (with_reducible apply State.modPort_step)
    | (with_reducible apply State.health_step)
    | intro _
    | (exact (rfl : true = true))
    | split

theorem State.paStart_step {msk : Nat} {base s : State} (p : ℕ) (hSolid : solid msk = true)
    (hSub : sub 0x10228B20620463DC msk = true) (hBase : Keeps msk base s) : Keeps msk base (State.paStart s p) := by
  refine Keeps.step (v := 0x10228B20620463DC) ?_ hSolid hSub hBase
  clear hSolid hSub hBase
  unfold State.paStart
  try dsimp only
  repeat' first
    | (with_reducible rfl)
    | (with_reducible exact Keeps.refl _ _)
    | (with_reducible apply Keeps.ite)
    | (with_reducible assumption)
    | (with_reducible apply State.pinsSafe_step)
    | (with_reducible apply State.paFaultHit_step)
    | (with_reducible apply State.modPort_step)
    | (with_reducible apply State.setPins_step)
    | intro _
    | (exact (rfl : true = true))
    | split

theorem State.paSequence_step {msk : Nat} {base s : State} (p : ℕ) (hSolid : solid msk = true)
    (hSub : sub 0x40000100 msk = true) (hBase : Keeps msk base s) : Keeps msk base (State.paSequence s p) := by
  refine Keeps.step (v := 0x40000100) ?_ hSolid hSub hBase
  clear hSolid hSub hBase
  unfold State.paSequence
  try dsimp only
  repeat' first
    | (with_reducible rfl)
    | (with_reducible exact Keeps.refl _ _)
    | (with_reducible apply Keeps.ite)
    | (with_reducible assumption)
    | (with_reducible apply State.modPort_step)
    | (with_reducible apply State.setPins_step)
    | (with_reducible apply State.skip_step)
    | intro _
    | (exact (rfl : true = true))
    | split

theorem State.paFaultPin_step {msk : Nat} {base s : State} (p : ℕ) (low : Bool) (hSolid : solid msk = true)
    (hSub : sub 0x10228B20620463DC msk = true) (hBase : Keeps msk base s) : Keeps msk base (State.paFaultPin s p low) := by
  refine Keeps.step (v := 0x10228B20620463DC) ?_ hSolid hSub hBase
  clear hSolid hSub hBase
  unfold State.paFaultPin
  try dsimp only
  repeat' first
    | (with_reducible rfl)
    | (with_reducible exact Keeps.refl _ _)
    | (with_reducible apply Keeps.ite)
    | (with_reducible assumption)
    | (with_reducible apply State.modPort_step)
    | (with_reducible apply State.paFaultHit_step)
    | (with_reducible apply Keeps.setBit (regWindow_uhaPaStatus _))
    | intro _
    | (exact (rfl : true = true))
    | split

theorem State.paFaultClear_step {msk : Nat} {base s : State} (p : ℕ) (hSolid : solid msk = true)
    (hSub : sub 0x80000000000 msk = true) (hBase : Keeps msk base s) : Keeps msk base (State.paFaultClear s p) := by
  refine Keeps.step (v := 0x80000000000) ?_ hSolid hSub hBase
  clear hSolid hSub hBase
  unfold State.paFaultClear
  try dsimp only
  repeat' first
    | (with_reducible rfl)
    | (with_reducible exact Keeps.refl _ _)
    | (with_reducible apply Keeps.ite)
    | (with_reducible assumption)
    | (with_reducible apply Keeps.setBit (regWindow_uhaPaStatus _))
    | intro _
    | (exact (rfl : true = true))
    | split

theorem State.paCfgWrite_step {msk : Nat} {base s : State} (p : Nat) (v : Word) (hSolid : solid msk = true)
    (hSub : sub 0x80000000100 msk = true) (hBase : Keeps msk base s) : Keeps msk base (State.paCfgWrite s p v) := by
  refine Keeps.step (v := 0x80000000100) ?_ hSolid hSub hBase
  clear hSolid hSub hBase
  unfold State.paCfgWrite
  try dsimp only
  repeat' first
    | (with_reducible rfl)
    | (with_reducible exact Keeps.refl _ _)
    | (with_reducible apply Keeps.ite)
    | (with_reducible assumption)
    | (with_reducible apply Keeps.setBit (regWindow_uhaPaStatus ..))
    | (with_reducible apply Keeps.hostWrite (regWindow_uhaPaCfg ..))
    | (with_reducible apply State.modPort_step)
    | intro _
    | (exact (rfl : true = true))
    | split

theorem State.txShown_step {msk : Nat} {base s : State} (r : Run) (n p : Nat) (o : SliceObs) (hSolid : solid msk = true)
    (hSub : sub 0x80000000200 msk = true) (hBase : Keeps msk base s) : Keeps msk base (State.txShown s r n p o) := by
  refine Keeps.step (v := 0x80000000200) ?_ hSolid hSub hBase
  clear hSolid hSub hBase
  unfold State.txShown
  try dsimp only
  repeat' first
    | (with_reducible rfl)
    | (with_reducible exact Keeps.refl _ _)
    | (with_reducible apply Keeps.ite)
    | (with_reducible assumption)
    | (with_reducible apply Keeps.setFld (regWindow_uhaTxStatus ..))
    | (with_reducible apply State.stamp_step)
    | intro _
    | (exact (rfl : true = true))
    | split

theorem State.sjcShown_step {msk : Nat} {base s : State} (n p : Nat) (o : SliceObs) (hSolid : solid msk = true)
    (hSub : sub 0x80000000100 msk = true) (hBase : Keeps msk base s) : Keeps msk base (State.sjcShown s n p o) := by
  refine Keeps.step (v := 0x80000000100) ?_ hSolid hSub hBase
  clear hSolid hSub hBase
  unfold State.sjcShown
  try dsimp only
  repeat' first
    | (with_reducible rfl)
    | (with_reducible exact Keeps.refl _ _)
    | (with_reducible apply Keeps.ite)
    | (with_reducible assumption)
    | (with_reducible apply Keeps.setFld (regWindow_uhaSjcStatus ..))
    | (with_reducible apply State.modPort_step)
    | intro _
    | (exact (rfl : true = true))
    | split

theorem State.sjcGrown_step {msk : Nat} {base s : State} (n p : Nat) (hSolid : solid msk = true)
    (hSub : sub 0x100000000000300 msk = true) (hBase : Keeps msk base s) : Keeps msk base (State.sjcGrown s n p) := by
  refine Keeps.step (v := 0x100000000000300) ?_ hSolid hSub hBase
  clear hSolid hSub hBase
  unfold State.sjcGrown
  try dsimp only
  repeat' first
    | (with_reducible rfl)
    | (with_reducible exact Keeps.refl _ _)
    | (with_reducible apply Keeps.ite)
    | (with_reducible assumption)
    | (with_reducible apply State.modSlice_step)
    | (with_reducible apply State.showTerms_step)
    | (with_reducible apply State.modPort_step)
    | intro _
    | (exact (rfl : true = true))
    | split

theorem State.showTx_step {msk : Nat} {base s : State} (r : Run) (n p : Nat) (o : SliceObs) (hSolid : solid msk = true)
    (hSub : sub 0x20A006004035C msk = true) (hBase : Keeps msk base s) : Keeps msk base (State.showTx s r n p o) := by
  refine Keeps.step (v := 0x20A006004035C) ?_ hSolid hSub hBase
  clear hSolid hSub hBase
  unfold State.showTx
  try dsimp only
  repeat' first
    | (with_reducible rfl)
    | (with_reducible exact Keeps.refl _ _)
    | (with_reducible apply Keeps.ite)
    | (with_reducible assumption)
    | (with_reducible apply State.txShown_step)
    | (with_reducible apply State.sjcShown_step)
    | (with_reducible apply State.modPort_step)
    | (with_reducible apply Keeps.setBit (regWindow_uhaSjcStatus ..))
    | (with_reducible apply State.capHealth_step)
    | intro _
    | (exact (rfl : true = true))
    | split

theorem State.carrierArrived_step {msk : Nat} {base s : State} (r : Run) (n p : Nat) (o : SliceObs) (hSolid : solid msk = true)
    (hSub : sub 0x10228B20620467DC msk = true) (hBase : Keeps msk base s) : Keeps msk base (State.carrierArrived s r n p o) := by
  refine Keeps.step (v := 0x10228B20620467DC) ?_ hSolid hSub hBase
  clear hSolid hSub hBase
  unfold State.carrierArrived
  try dsimp only
  repeat' first
    | (with_reducible rfl)
    | (with_reducible exact Keeps.refl _ _)
    | (with_reducible apply Keeps.ite)
    | (with_reducible assumption)
    | (with_reducible apply State.txShown_step)
    | (with_reducible apply State.putRun_step)
    | (with_reducible apply State.modSlice_step)
    | (with_reducible apply State.showTx_step)
    | (with_reducible apply State.rampHead_step)
    | (with_reducible apply State.frontDone_step)
    | intro _
    | (exact (rfl : true = true))
    | split

theorem State.chanBack_step {msk : Nat} {base s : State} (old : SliceState) (n p : Nat) (hSolid : solid msk = true)
    (hSub : sub 0x80000000000 msk = true) (hBase : Keeps msk base s) : Keeps msk base (State.chanBack s old n p) := by
  refine Keeps.step (v := 0x80000000000) ?_ hSolid hSub hBase
  clear hSolid hSub hBase
  unfold State.chanBack
  try dsimp only
  repeat' first
    | (with_reducible rfl)
    | (with_reducible exact Keeps.refl _ _)
    | (with_reducible apply Keeps.ite)
    | (with_reducible assumption)
    | (with_reducible apply State.showChan_step)
    | intro _
    | (exact (rfl : true = true))
    | split

theorem State.uhfDone_step {msk : Nat} {base s : State} (n : Nat) (o : SliceObs) (hSolid : solid msk = true)
    (hSub : sub 0x14228B20628467DC msk = true) (hBase : Keeps msk base s) : Keeps msk base (State.uhfDone s n o) := by
  refine Keeps.step (v := 0x14228B20628467DC) ?_ hSolid hSub hBase
  clear hSolid hSub hBase
  unfold State.uhfDone
  try dsimp only
  repeat' first
    | (with_reducible rfl)
    | (with_reducible exact Keeps.refl _ _)
    | (with_reducible apply Keeps.ite)
    | (with_reducible assumption)
    | (with_reducible apply State.arrive_step)
    | (with_reducible apply State.chanBack_step)
    | (with_reducible apply State.paStart_step)
    | (with_reducible apply State.setPins_step)
    | (with_reducible apply State.startDwell_step)
    | (with_reducible apply State.sjcLoad_step)
    | (with_reducible apply State.carrierArrived_step)
    | (with_reducible apply State.headResult_step)
    | (with_reducible apply State.putRun_step)
    | (with_reducible apply State.pinsSafe_step)
    | (with_reducible apply State.driveCxp_step)
    | intro _
    | (exact (rfl : true = true))
    | split

theorem State.lockTimeout_step {msk : Nat} {base s : State} (p : ℕ) (hSolid : solid msk = true)
    (hSub : sub 0x31228320621463DC msk = true) (hBase : Keeps msk base s) : Keeps msk base (State.lockTimeout s p) := by
  refine Keeps.step (v := 0x31228320621463DC) ?_ hSolid hSub hBase
  clear hSolid hSub hBase
  unfold State.lockTimeout
  try dsimp only
  repeat' first
    | (with_reducible rfl)
    | (with_reducible exact Keeps.refl _ _)
    | (with_reducible apply Keeps.ite)
    | (with_reducible assumption)
    | (with_reducible apply State.pinsSafe_step)
    | (with_reducible apply State.failSlice_step)
    | intro _
    | (exact (rfl : true = true))
    | split

theorem State.hopDone_step {msk : Nat} {base s : State} (p : Nat) (o : SliceObs) (hSolid : solid msk = true)
    (hSub : sub 0x10020A00620403DC msk = true) (hBase : Keeps msk base s) : Keeps msk base (State.hopDone s p o) := by
  refine Keeps.step (v := 0x10020A00620403DC) ?_ hSolid hSub hBase
  clear hSolid hSub hBase
  unfold State.hopDone
  try dsimp only
  repeat' first
    | (with_reducible rfl)
    | (with_reducible exact Keeps.refl _ _)
    | (with_reducible apply Keeps.ite)
    | (with_reducible assumption)
    | (with_reducible apply State.sliceTo_step)
    | (with_reducible apply State.sjcLoad_step)
    | (with_reducible apply State.showTx_step)
    | (with_reducible apply State.putRun_step)
    | (with_reducible apply State.endWork_step)
    | intro _
    | (exact (rfl : true = true))
    | split

theorem State.txTimeout_step {msk : Nat} {base s : State} (p : Nat) (hSolid : solid msk = true)
    (hSub : sub 0x14228B20628467DC msk = true) (hBase : Keeps msk base s) : Keeps msk base (State.txTimeout s p) := by
  refine Keeps.step (v := 0x14228B20628467DC) ?_ hSolid hSub hBase
  clear hSolid hSub hBase
  unfold State.txTimeout
  try dsimp only
  repeat' first
    | (with_reducible rfl)
    | (with_reducible exact Keeps.refl _ _)
    | (with_reducible apply Keeps.ite)
    | (with_reducible assumption)
    | (with_reducible apply State.startHop_step)
    | (with_reducible apply State.sjcDown_step)
    | (with_reducible apply State.stopRadio_step)
    | (with_reducible apply State.sendFrom_step)
    | (with_reducible apply State.modPort_step)
    | (with_reducible apply Keeps.bump regWindow_uhaTxtoCnt)
    | (with_reducible apply State.health_step)
    | (with_reducible apply State.driveCxp_step)
    | intro _
    | (exact (rfl : true = true))
    | split

theorem State.gammaSample_step {msk : Nat} {base s : State} (p : Nat) (o : SliceObs) (hSolid : solid msk = true)
    (hSub : sub 0x11228B20620467DC msk = true) (hBase : Keeps msk base s) : Keeps msk base (State.gammaSample s p o) := by
  refine Keeps.step (v := 0x11228B20620467DC) ?_ hSolid hSub hBase
  clear hSolid hSub hBase
  unfold State.gammaSample
  try dsimp only
  repeat' first
    | (with_reducible rfl)
    | (with_reducible exact Keeps.refl _ _)
    | (with_reducible apply Keeps.ite)
    | (with_reducible assumption)
    | (with_reducible apply State.txShown_step)
    | (with_reducible apply State.sjcShown_step)
    | (with_reducible apply State.sjcGrown_step)
    | (with_reducible apply State.headSample_step)
    | intro _
    | (exact (rfl : true = true))
    | split

end Sys2Proof.Machine
end

