-- ==== Sys2Proof/Laws/KeepsWideReply.lean ====
section
/-! SUPPORT. What each operation of Machine/WideReply.lean may change (Laws/Keeps.lean reads the masks). -/

namespace Sys2Proof.Machine

set_option linter.unreachableTactic false
set_option linter.unusedTactic false

theorem State.wideSync_step {msk : Nat} {base s : State} (p : Nat) (o : WideObs) (hSolid : solid msk = true)
    (hSub : sub 0x890040000380 msk = true) (hBase : Keeps msk base s) : Keeps msk base (State.wideSync s p o) := by
  refine Keeps.step (v := 0x890040000380) ?_ hSolid hSub hBase
  clear hSolid hSub hBase
  unfold State.wideSync
  try dsimp only
  repeat' first
    | (with_reducible rfl)
    | (with_reducible exact Keeps.refl _ _)
    | (with_reducible apply Keeps.ite)
    | (with_reducible assumption)
    | (with_reducible apply State.skip_step)
    | (with_reducible apply State.showReply_step)
    | (with_reducible apply State.putRun_step)
    | (with_reducible apply Keeps.bump regWindow_wrdSyncFailCnt)
    | intro _
    | (exact (rfl : true = true))
    | split

theorem State.wideSymbol_step {msk : Nat} {base s : State} (p : Nat) (bins : List (List Sample)) (hSolid : solid msk = true)
    (hSub : sub 0x80 msk = true) (hBase : Keeps msk base s) : Keeps msk base (State.wideSymbol s p bins) := by
  refine Keeps.step (v := 0x80) ?_ hSolid hSub hBase
  clear hSolid hSub hBase
  unfold State.wideSymbol
  try dsimp only
  repeat' first
    | (with_reducible rfl)
    | (with_reducible exact Keeps.refl _ _)
    | (with_reducible apply Keeps.ite)
    | (with_reducible assumption)
    | (with_reducible apply State.putRun_step)
    | intro _
    | (exact (rfl : true = true))
    | split

theorem State.codewordStart_step {msk : Nat} {base s : State} (d : ℕ) (hSolid : solid msk = true)
    (hSub : sub 0x800000004000 msk = true) (hBase : Keeps msk base s) : Keeps msk base (State.codewordStart s d) := by
  refine Keeps.step (v := 0x800000004000) ?_ hSolid hSub hBase
  clear hSolid hSub hBase
  unfold State.codewordStart
  try dsimp only
  repeat' first
    | (with_reducible rfl)
    | (with_reducible exact Keeps.refl _ _)
    | (with_reducible apply Keeps.ite)
    | (with_reducible assumption)
    | (with_reducible apply State.setDecoders_step)
    | (with_reducible apply Keeps.setBit regWindow_wrdStatus)
    | (with_reducible apply Keeps.setFld regWindow_wrdStatus)
    | intro _
    | (exact (rfl : true = true))
    | split

theorem State.codewordDone_step {msk : Nat} {base s : State} (d : Nat) (hSolid : solid msk = true)
    (hSub : sub 0x800000004080 msk = true) (hBase : Keeps msk base s) : Keeps msk base (State.codewordDone s d) := by
  refine Keeps.step (v := 0x800000004080) ?_ hSolid hSub hBase
  clear hSolid hSub hBase
  unfold State.codewordDone
  try dsimp only
  repeat' first
    | (with_reducible rfl)
    | (with_reducible exact Keeps.refl _ _)
    | (with_reducible apply Keeps.ite)
    | (with_reducible assumption)
    | (with_reducible apply Keeps.setBit regWindow_wrdStatus)
    | (with_reducible apply State.setDecoders_step)
    | (with_reducible apply Keeps.bump regWindow_wrdCwCnt)
    | (with_reducible apply Keeps.bump regWindow_wrdCwFailCnt)
    | (with_reducible apply State.putRun_step)
    | intro _
    | (exact (rfl : true = true))
    | split

end Sys2Proof.Machine
end

