-- ==== Sys2Proof/Laws/KeepsCoex.lean ====
section
/-! SUPPORT. What each operation of Machine/Coex.lean may change (Laws/Keeps.lean reads the masks). -/

namespace Sys2Proof.Machine

set_option linter.unreachableTactic false
set_option linter.unusedTactic false

theorem State.leadStart_step {msk : Nat} {base s : State} (idx : Nat) (hSolid : solid msk = true)
    (hSub : sub 0x1C22CB20628567DC msk = true) (hBase : Keeps msk base s) : Keeps msk base (State.leadStart s idx) := by
  refine Keeps.step (v := 0x1C22CB20628567DC) ?_ hSolid hSub hBase
  clear hSolid hSub hBase
  unfold State.leadStart
  try dsimp only
  repeat' first
    | (with_reducible rfl)
    | (with_reducible exact Keeps.refl _ _)
    | (with_reducible apply Keeps.ite)
    | (with_reducible assumption)
    | (with_reducible apply State.setCxp_step)
    | (with_reducible apply State.protectStart_step)
    | (with_reducible apply State.driveCxp_step)
    | (with_reducible apply State.wakeWaiting_step)
    | intro _
    | (exact (rfl : true = true))
    | split

theorem State.waitExpired_step {msk : Nat} {base s : State} (p : ℕ) (hSolid : solid msk = true)
    (hSub : sub 0x1C228B20628467DC msk = true) (hBase : Keeps msk base s) : Keeps msk base (State.waitExpired s p) := by
  refine Keeps.step (v := 0x1C228B20628467DC) ?_ hSolid hSub hBase
  clear hSolid hSub hBase
  unfold State.waitExpired
  try dsimp only
  repeat' first
    | (with_reducible rfl)
    | (with_reducible exact Keeps.refl _ _)
    | (with_reducible apply Keeps.ite)
    | (with_reducible assumption)
    | (with_reducible apply State.driveCxp_step)
    | (with_reducible apply State.startInert_step)
    | intro _
    | (exact (rfl : true = true))
    | split

theorem State.gntRise_step {msk : Nat} {base s : State}  (hSolid : solid msk = true)
    (hSub : sub 0xC024B00608507DC msk = true) (hBase : Keeps msk base s) : Keeps msk base (State.gntRise s) := by
  refine Keeps.step (v := 0xC024B00608507DC) ?_ hSolid hSub hBase
  clear hSolid hSub hBase
  unfold State.gntRise
  try dsimp only
  repeat' first
    | (with_reducible rfl)
    | (with_reducible exact Keeps.refl _ _)
    | (with_reducible apply Keeps.ite)
    | (with_reducible assumption)
    | (with_reducible apply State.wakeWaiting_step)
    | (with_reducible apply State.showWires_step)
    | (with_reducible apply State.setCxp_step)
    | intro _
    | (exact (rfl : true = true))
    | split

theorem State.gntFall_step {msk : Nat} {base s : State}  (hSolid : solid msk = true)
    (hSub : sub 0x14228B20628467DC msk = true) (hBase : Keeps msk base s) : Keeps msk base (State.gntFall s) := by
  refine Keeps.step (v := 0x14228B20628467DC) ?_ hSolid hSub hBase
  clear hSolid hSub hBase
  unfold State.gntFall
  try dsimp only
  repeat' first
    | (with_reducible rfl)
    | (with_reducible exact Keeps.refl _ _)
    | (with_reducible apply Keeps.ite)
    | (with_reducible assumption)
    | (with_reducible apply State.setCxp_step)
    | (with_reducible apply State.showWires_step)
    | (with_reducible apply State.takeMedium_step)
    | (with_reducible apply State.driveCxp_step)
    | intro _
    | (exact (rfl : true = true))
    | split

theorem State.reqRise_step {msk : Nat} {base s : State} (pri : Bool) (hSolid : solid msk = true)
    (hSub : sub 0x1C22CB20628567DC msk = true) (hBase : Keeps msk base s) : Keeps msk base (State.reqRise s pri) := by
  refine Keeps.step (v := 0x1C22CB20628567DC) ?_ hSolid hSub hBase
  clear hSolid hSub hBase
  unfold State.reqRise
  try dsimp only
  repeat' first
    | (with_reducible rfl)
    | (with_reducible exact Keeps.refl _ _)
    | (with_reducible apply Keeps.ite)
    | (with_reducible assumption)
    | (with_reducible apply State.wakeWaiting_step)
    | (with_reducible apply State.driveCxp_step)
    | (with_reducible apply State.setCxp_step)
    | intro _
    | (exact (rfl : true = true))
    | split

theorem State.reqFall_step {msk : Nat} {base s : State} (pri : Bool) (hSolid : solid msk = true)
    (hSub : sub 0x1C22CB20628567DC msk = true) (hBase : Keeps msk base s) : Keeps msk base (State.reqFall s pri) := by
  refine Keeps.step (v := 0x1C22CB20628567DC) ?_ hSolid hSub hBase
  clear hSolid hSub hBase
  unfold State.reqFall
  try dsimp only
  repeat' first
    | (with_reducible rfl)
    | (with_reducible exact Keeps.refl _ _)
    | (with_reducible apply Keeps.ite)
    | (with_reducible assumption)
    | (with_reducible apply State.wakeWaiting_step)
    | (with_reducible apply State.driveCxp_step)
    | (with_reducible apply State.setCxp_step)
    | intro _
    | (exact (rfl : true = true))
    | split

theorem State.priRise_step {msk : Nat} {base s : State}  (hSolid : solid msk = true)
    (hSub : sub 0x1C22CB20628567DC msk = true) (hBase : Keeps msk base s) : Keeps msk base (State.priRise s) := by
  refine Keeps.step (v := 0x1C22CB20628567DC) ?_ hSolid hSub hBase
  clear hSolid hSub hBase
  unfold State.priRise
  try dsimp only
  repeat' first
    | (with_reducible rfl)
    | (with_reducible exact Keeps.refl _ _)
    | (with_reducible apply Keeps.ite)
    | (with_reducible assumption)
    | (with_reducible apply State.wakeWaiting_step)
    | (with_reducible apply State.driveCxp_step)
    | (with_reducible apply State.setCxp_step)
    | intro _
    | (exact (rfl : true = true))
    | split

end Sys2Proof.Machine
end

