-- ==== Sys2Proof/Laws/KeepsAwning.lean ====
section
/-! SUPPORT. What each operation of Machine/Awning.lean may change (Laws/Keeps.lean reads the masks). -/

namespace Sys2Proof.Machine

set_option linter.unreachableTactic false
set_option linter.unusedTactic false

theorem State.uidLoad_step {msk : Nat} {base s : State} (i : Nat) (hSolid : solid msk = true)
    (hSub : sub 0x202006004001C msk = true) (hBase : Keeps msk base s) : Keeps msk base (State.uidLoad s i).1 := by
  refine Keeps.step (v := 0x202006004001C) ?_ hSolid hSub hBase
  clear hSolid hSub hBase
  unfold State.uidLoad
  try dsimp only
  repeat' first
    | (with_reducible rfl)
    | (with_reducible exact Keeps.refl _ _)
    | (with_reducible apply Keeps.ite)
    | (with_reducible assumption)
    | (with_reducible apply State.liveLoad_step)
    | (with_reducible refine Keeps.fst (State.liveLoad_step (by assumption) ?_ ?_ ?_) (by assumption))
    | intro _
    | (exact (rfl : true = true))
    | split

theorem State.piccSend_step {msk : Nat} {base s : State} (i : Nat) (l : List Byte) (hSolid : solid msk = true)
    (hSub : sub 0x20000000 msk = true) (hBase : Keeps msk base s) : Keeps msk base (State.piccSend s i l) := by
  refine Keeps.step (v := 0x20000000) ?_ hSolid hSub hBase
  clear hSolid hSub hBase
  unfold State.piccSend
  try dsimp only
  repeat' first
    | (with_reducible rfl)
    | (with_reducible exact Keeps.refl _ _)
    | (with_reducible apply Keeps.ite)
    | (with_reducible assumption)
    | (with_reducible apply State.emit_step)
    | intro _
    | (exact (rfl : true = true))
    | split

theorem State.chkFrame_step {msk : Nat} {base s : State} (r : Run) (bytes : List Byte) (crc : BitVec 16) (hSolid : solid msk = true)
    (hSub : sub 0x1000000000000 msk = true) (hBase : Keeps msk base s) : Keeps msk base (State.chkFrame s r bytes crc) := by
  refine Keeps.step (v := 0x1000000000000) ?_ hSolid hSub hBase
  clear hSolid hSub hBase
  unfold State.chkFrame
  try dsimp only
  repeat' first
    | (with_reducible rfl)
    | (with_reducible exact Keeps.refl _ _)
    | (with_reducible apply Keeps.ite)
    | (with_reducible assumption)
    | (with_reducible apply State.chkResult_step)
    | intro _
    | (exact (rfl : true = true))
    | split

theorem State.framed_step {msk : Nat} {base s : State} (i : Nat) (r : Run) (takes : Bool) (bytes : List Byte) (crc : BitVec 16)
    (f : State → State) (hSolid : solid msk = true) (hSub : sub 0x1000000010000 msk = true) (hBase : Keeps msk base s)
    (hF : ∀ u0, Keeps msk u0 (f u0)) : Keeps msk base (State.framed s i r takes bytes crc f) := by
  have k : Keeps msk base (s.chkFrame r bytes crc) := State.chkFrame_step _ _ _ hSolid (sub_trans (by rfl) hSub) hBase
  unfold State.framed
  dsimp only
  split
  · exact k
  · split
    · exact Keeps.trans hSolid k (hF _)
    · split
      · exact State.modAwn_step _ _ hSolid (sub_trans (by rfl) hSub) k
      · exact k

theorem State.fieldDetect_step {msk : Nat} {base s : State} (i : Nat) (o : CarrierObs) (hSolid : solid msk = true)
    (hSub : sub 0x420200E005001C msk = true) (hBase : Keeps msk base s) : Keeps msk base (State.fieldDetect s i o) := by
  refine Keeps.step (v := 0x420200E005001C) ?_ hSolid hSub hBase
  clear hSolid hSub hBase
  unfold State.fieldDetect
  try dsimp only
  repeat' first
    | (with_reducible rfl)
    | (with_reducible exact Keeps.refl _ _)
    | (with_reducible apply Keeps.ite)
    | (with_reducible assumption)
    | (with_reducible apply State.awnPowerOff_step)
    | (with_reducible apply State.modAwn_step)
    | intro _
    | (exact (rfl : true = true))
    | split

theorem State.fieldLost_step {msk : Nat} {base s : State} (i absent : Nat) (hSolid : solid msk = true)
    (hSub : sub 0x420200E005001C msk = true) (hBase : Keeps msk base s) : Keeps msk base (State.fieldLost s i absent) := by
  refine Keeps.step (v := 0x420200E005001C) ?_ hSolid hSub hBase
  clear hSolid hSub hBase
  unfold State.fieldLost
  try dsimp only
  repeat' first
    | (with_reducible rfl)
    | (with_reducible exact Keeps.refl _ _)
    | (with_reducible apply Keeps.ite)
    | (with_reducible assumption)
    | (with_reducible apply State.awnPowerOff_step)
    | (with_reducible apply State.modAwn_step)
    | intro _
    | (exact (rfl : true = true))
    | split

theorem State.holdOver_step {msk : Nat} {base s : State} (i : ℕ) (hSolid : solid msk = true)
    (hSub : sub 0x420200E005001C msk = true) (hBase : Keeps msk base s) : Keeps msk base (State.holdOver s i) := by
  refine Keeps.step (v := 0x420200E005001C) ?_ hSolid hSub hBase
  clear hSolid hSub hBase
  unfold State.holdOver
  try dsimp only
  repeat' first
    | (with_reducible rfl)
    | (with_reducible exact Keeps.refl _ _)
    | (with_reducible apply Keeps.ite)
    | (with_reducible assumption)
    | (with_reducible apply State.awnPowerOff_step)
    | intro _
    | (exact (rfl : true = true))
    | split

theorem State.request_step {msk : Nat} {base s : State} (i : Nat) (wake : Bool) (hSolid : solid msk = true)
    (hSub : sub 0x202006005001C msk = true) (hBase : Keeps msk base s) : Keeps msk base (State.request s i wake) := by
  refine Keeps.step (v := 0x202006005001C) ?_ hSolid hSub hBase
  clear hSolid hSub hBase
  unfold State.request
  try dsimp only
  repeat' first
    | (with_reducible rfl)
    | (with_reducible exact Keeps.refl _ _)
    | (with_reducible apply Keeps.ite)
    | (with_reducible assumption)
    | (with_reducible apply State.liveLoad_step)
    | (with_reducible refine Keeps.fst (State.liveLoad_step (by assumption) ?_ ?_ ?_) (by assumption))
    | (with_reducible apply State.setAwn_step)
    | (with_reducible apply State.piccSend_step)
    | intro _
    | (exact (rfl : true = true))
    | split

theorem State.anticoll_step {msk : Nat} {base s : State} (i level : Nat) (known : List Bool) (hSolid : solid msk = true)
    (hSub : sub 0x202006004001C msk = true) (hBase : Keeps msk base s) : Keeps msk base (State.anticoll s i level known) := by
  refine Keeps.step (v := 0x202006004001C) ?_ hSolid hSub hBase
  clear hSolid hSub hBase
  unfold State.anticoll
  try dsimp only
  repeat' first
    | (with_reducible rfl)
    | (with_reducible exact Keeps.refl _ _)
    | (with_reducible apply Keeps.ite)
    | (with_reducible assumption)
    | (with_reducible apply State.uidLoad_step)
    | (with_reducible refine Keeps.fst (State.uidLoad_step (by assumption) ?_ ?_ ?_) (by assumption))
    | (with_reducible apply State.piccSend_step)
    | intro _
    | (exact (rfl : true = true))
    | split

theorem State.selectUid_step {msk : Nat} {base s : State} (i level : Nat) (uid : List Byte) (crc : BitVec 16) (hSolid : solid msk = true)
    (hSub : sub 0x302006005001C msk = true) (hBase : Keeps msk base s) : Keeps msk base (State.selectUid s i level uid crc) := by
  refine Keeps.step (v := 0x302006005001C) ?_ hSolid hSub hBase
  clear hSolid hSub hBase
  unfold State.selectUid
  try dsimp only
  repeat' first
    | (with_reducible rfl)
    | (with_reducible exact Keeps.refl _ _)
    | (with_reducible apply Keeps.ite)
    | (with_reducible assumption)
    | (with_reducible apply State.framed_step)
    | (with_reducible apply State.uidLoad_step)
    | (with_reducible refine Keeps.fst (State.uidLoad_step (by assumption) ?_ ?_ ?_) (by assumption))
    | (with_reducible apply State.setAwn_step)
    | (with_reducible apply State.piccSend_step)
    | (with_reducible apply State.liveLoad_step)
    | (with_reducible refine Keeps.fst (State.liveLoad_step (by assumption) ?_ ?_ ?_) (by assumption))
    | intro _
    | (exact (rfl : true = true))
    | split

theorem State.halt_step {msk : Nat} {base s : State} (i : Nat) (crc : BitVec 16) (hSolid : solid msk = true)
    (hSub : sub 0x1000000010000 msk = true) (hBase : Keeps msk base s) : Keeps msk base (State.halt s i crc) := by
  refine Keeps.step (v := 0x1000000010000) ?_ hSolid hSub hBase
  clear hSolid hSub hBase
  unfold State.halt
  try dsimp only
  repeat' first
    | (with_reducible rfl)
    | (with_reducible exact Keeps.refl _ _)
    | (with_reducible apply Keeps.ite)
    | (with_reducible assumption)
    | (with_reducible apply State.framed_step)
    | (with_reducible apply State.setAwn_step)
    | intro _
    | (exact (rfl : true = true))
    | split

theorem State.doRats_step {msk : Nat} {base s : State} (i fsdi cid : Nat) (crc : BitVec 16) (hSolid : solid msk = true)
    (hSub : sub 0x302006005001C msk = true) (hBase : Keeps msk base s) : Keeps msk base (State.doRats s i fsdi cid crc) := by
  refine Keeps.step (v := 0x302006005001C) ?_ hSolid hSub hBase
  clear hSolid hSub hBase
  unfold State.doRats
  try dsimp only
  repeat' first
    | (with_reducible rfl)
    | (with_reducible exact Keeps.refl _ _)
    | (with_reducible apply Keeps.ite)
    | (with_reducible assumption)
    | (with_reducible apply State.framed_step)
    | (with_reducible apply State.liveLoad_step)
    | (with_reducible refine Keeps.fst (State.liveLoad_step (by assumption) ?_ ?_ ?_) (by assumption))
    | (with_reducible apply State.modAwn_step)
    | (with_reducible apply State.piccSend_step)
    | intro _
    | (exact (rfl : true = true))
    | split

theorem State.doPps_step {msk : Nat} {base s : State} (i dsi dri : Nat) (crc : BitVec 16) (hSolid : solid msk = true)
    (hSub : sub 0x1000020010000 msk = true) (hBase : Keeps msk base s) : Keeps msk base (State.doPps s i dsi dri crc) := by
  refine Keeps.step (v := 0x1000020010000) ?_ hSolid hSub hBase
  clear hSolid hSub hBase
  unfold State.doPps
  try dsimp only
  repeat' first
    | (with_reducible rfl)
    | (with_reducible exact Keeps.refl _ _)
    | (with_reducible apply Keeps.ite)
    | (with_reducible assumption)
    | (with_reducible apply State.framed_step)
    | (with_reducible apply State.modAwn_step)
    | (with_reducible apply State.piccSend_step)
    | intro _
    | (exact (rfl : true = true))
    | split

theorem State.sendBlock_step {msk : Nat} {base s : State} (i : ℕ) (block : Bool) (rest : List Byte) (hSolid : solid msk = true)
    (hSub : sub 0x20010000 msk = true) (hBase : Keeps msk base s) : Keeps msk base (State.sendBlock s i block rest) := by
  refine Keeps.step (v := 0x20010000) ?_ hSolid hSub hBase
  clear hSolid hSub hBase
  unfold State.sendBlock
  try dsimp only
  repeat' first
    | (with_reducible rfl)
    | (with_reducible exact Keeps.refl _ _)
    | (with_reducible apply Keeps.ite)
    | (with_reducible assumption)
    | (with_reducible apply State.piccSend_step)
    | (with_reducible apply State.setAwn_step)
    | intro _
    | (exact (rfl : true = true))
    | split

theorem State.doRAck_step {msk : Nat} {base s : State} (i : Nat) (block : Bool) (crc : BitVec 16) (hSolid : solid msk = true)
    (hSub : sub 0x1000020010000 msk = true) (hBase : Keeps msk base s) : Keeps msk base (State.doRAck s i block crc) := by
  refine Keeps.step (v := 0x1000020010000) ?_ hSolid hSub hBase
  clear hSolid hSub hBase
  unfold State.doRAck
  try dsimp only
  repeat' first
    | (with_reducible rfl)
    | (with_reducible exact Keeps.refl _ _)
    | (with_reducible apply Keeps.ite)
    | (with_reducible assumption)
    | (with_reducible apply State.framed_step)
    | (with_reducible apply State.piccSend_step)
    | (with_reducible apply State.sendBlock_step)
    | intro _
    | (exact (rfl : true = true))
    | split

theorem State.doRNak_step {msk : Nat} {base s : State} (i : Nat) (block : Bool) (crc : BitVec 16) (hSolid : solid msk = true)
    (hSub : sub 0x1000020010000 msk = true) (hBase : Keeps msk base s) : Keeps msk base (State.doRNak s i block crc) := by
  refine Keeps.step (v := 0x1000020010000) ?_ hSolid hSub hBase
  clear hSolid hSub hBase
  unfold State.doRNak
  try dsimp only
  repeat' first
    | (with_reducible rfl)
    | (with_reducible exact Keeps.refl _ _)
    | (with_reducible apply Keeps.ite)
    | (with_reducible assumption)
    | (with_reducible apply State.framed_step)
    | (with_reducible apply State.piccSend_step)
    | intro _
    | (exact (rfl : true = true))
    | split

theorem State.deselect_step {msk : Nat} {base s : State} (i : Nat) (crc : BitVec 16) (hSolid : solid msk = true)
    (hSub : sub 0x430200E005001C msk = true) (hBase : Keeps msk base s) : Keeps msk base (State.deselect s i crc) := by
  refine Keeps.step (v := 0x430200E005001C) ?_ hSolid hSub hBase
  clear hSolid hSub hBase
  unfold State.deselect
  try dsimp only
  repeat' first
    | (with_reducible rfl)
    | (with_reducible exact Keeps.refl _ _)
    | (with_reducible apply Keeps.ite)
    | (with_reducible assumption)
    | (with_reducible apply State.framed_step)
    | (with_reducible apply State.piccSend_step)
    | (with_reducible apply State.sessionEnd_step)
    | intro _
    | (exact (rfl : true = true))
    | split

theorem State.answer_step {msk : Nat} {base s : State} (i : ℕ) (data : List Byte) (sw : ℕ) (hSolid : solid msk = true)
    (hSub : sub 0x20010000 msk = true) (hBase : Keeps msk base s) : Keeps msk base (State.answer s i data sw) := by
  refine Keeps.step (v := 0x20010000) ?_ hSolid hSub hBase
  clear hSolid hSub hBase
  unfold State.answer
  try dsimp only
  repeat' first
    | (with_reducible rfl)
    | (with_reducible exact Keeps.refl _ _)
    | (with_reducible apply Keeps.ite)
    | (with_reducible assumption)
    | (with_reducible apply State.sendBlock_step)
    | intro _
    | (exact (rfl : true = true))
    | split

theorem State.answerFree_step {msk : Nat} {base s : State} (i : ℕ) (hSolid : solid msk = true)
    (hSub : sub 0x60010000 msk = true) (hBase : Keeps msk base s) : Keeps msk base (State.answerFree s i) := by
  refine Keeps.step (v := 0x60010000) ?_ hSolid hSub hBase
  clear hSolid hSub hBase
  unfold State.answerFree
  try dsimp only
  repeat' first
    | (with_reducible rfl)
    | (with_reducible exact Keeps.refl _ _)
    | (with_reducible apply Keeps.ite)
    | (with_reducible assumption)
    | (with_reducible apply State.answer_step)
    | (with_reducible apply State.skip_step)
    | intro _
    | (exact (rfl : true = true))
    | split

theorem State.blocks_step {msk : Nat} {base s : State} (i : Nat) (r : Run) (f : State → Run → State) (l : List IBlock)
    (hSolid : solid msk = true) (hSub : sub 0x1000020010000 msk = true) (hBase : Keeps msk base s)
    (hF : ∀ u0 u1, Keeps msk u0 (f u0 u1)) : Keeps msk base (State.blocks s i r f l) := by
  induction l generalizing s with
  | nil => exact hBase
  | cons b l ih =>
    unfold State.blocks
    dsimp only
    have k (y : List Byte) : Keeps msk base (s.chkFrame r y b.crc) :=
      State.chkFrame_step _ _ _ hSolid (sub_trans (by rfl) hSub) hBase
    refine Keeps.ite (k _) (Keeps.ite (Keeps.trans hSolid (k _) (hF _ _)) ?_)
    exact ih (State.piccSend_step _ _ hSolid (sub_trans (by rfl) hSub)
      (State.setAwn_step _ _ hSolid (sub_trans (by rfl) hSub) (k _)))

theorem State.apdu_step {msk : Nat} {base s : State} (i : Nat) (blocks : List IBlock) (f : State → Run → State) (hSolid : solid msk = true)
    (hSub : sub 0x1000020010000 msk = true) (hBase : Keeps msk base s) (hF : ∀ u0 u1, Keeps msk u0 (f u0 u1)) :
    Keeps msk base (State.apdu s i blocks f) := by
  unfold State.apdu
  split
  · exact hBase
  · exact State.blocks_step _ _ _ _ hSolid hSub hBase hF

theorem State.liveRead_step {msk : Nat} {base s : State} (i : ℕ) (a : ℕ) (b : ℕ) (f : State → State) (hSolid : solid msk = true)
    (hSub : sub 0x202006005001C msk = true) (hBase : Keeps msk base s) (hF : ∀ u0, Keeps msk u0 (f u0)) : Keeps msk base (State.liveRead s i a b f) := by
  unfold State.liveRead
  dsimp only
  split
  · exact State.answer_step _ _ _ hSolid (sub_trans (by rfl) hSub) (State.imageEcc_step _ hSolid (sub_trans (by rfl) hSub)
      (State.recordUe_step _ hSolid (sub_trans (by rfl) hSub) hBase))
  · exact Keeps.trans hSolid (State.touchAll_step _ hSolid (sub_trans (by rfl) hSub) hBase) (hF _)

theorem State.byName_step {msk : Nat} {base s : State} (i : Nat) (aid : List Byte) (blocks : List IBlock) (hSolid : solid msk = true)
    (hSub : sub 0x1000020010000 msk = true) (hBase : Keeps msk base s) : Keeps msk base (State.byName s i aid blocks) := by
  refine Keeps.step (v := 0x1000020010000) ?_ hSolid hSub hBase
  clear hSolid hSub hBase
  unfold State.byName
  try dsimp only
  repeat' first
    | (with_reducible rfl)
    | (with_reducible exact Keeps.refl _ _)
    | (with_reducible apply Keeps.ite)
    | (with_reducible assumption)
    | (with_reducible apply State.apdu_step)
    | (with_reducible apply State.modAwn_step)
    | (with_reducible apply State.answer_step)
    | intro _
    | (exact (rfl : true = true))
    | split

theorem State.byFileId_step {msk : Nat} {base s : State} (i : Nat) (id : BitVec 16) (blocks : List IBlock) (hSolid : solid msk = true)
    (hSub : sub 0x302006005001C msk = true) (hBase : Keeps msk base s) : Keeps msk base (State.byFileId s i id blocks) := by
  refine Keeps.step (v := 0x302006005001C) ?_ hSolid hSub hBase
  clear hSolid hSub hBase
  unfold State.byFileId
  try dsimp only
  repeat' first
    | (with_reducible rfl)
    | (with_reducible exact Keeps.refl _ _)
    | (with_reducible apply Keeps.ite)
    | (with_reducible assumption)
    | (with_reducible apply State.apdu_step)
    | (with_reducible apply State.liveRead_step)
    | (with_reducible apply State.answer_step)
    | (with_reducible apply State.modAwn_step)
    | intro _
    | (exact (rfl : true = true))
    | split

theorem State.readBin_step {msk : Nat} {base s : State} (i off le : Nat) (blocks : List IBlock) (hSolid : solid msk = true)
    (hSub : sub 0x302006005001C msk = true) (hBase : Keeps msk base s) : Keeps msk base (State.readBin s i off le blocks) := by
  refine Keeps.step (v := 0x302006005001C) ?_ hSolid hSub hBase
  clear hSolid hSub hBase
  unfold State.readBin
  try dsimp only
  repeat' first
    | (with_reducible rfl)
    | (with_reducible exact Keeps.refl _ _)
    | (with_reducible apply Keeps.ite)
    | (with_reducible assumption)
    | (with_reducible apply State.apdu_step)
    | (with_reducible apply State.answerFree_step)
    | (with_reducible apply State.liveRead_step)
    | (with_reducible apply State.answer_step)
    | intro _
    | (exact (rfl : true = true))
    | split

theorem State.updateBin_step {msk : Nat} {base s : State} (i off : Nat) (data : List Byte) (blocks : List IBlock) (hSolid : solid msk = true)
    (hSub : sub 0x4302006005001C msk = true) (hBase : Keeps msk base s) : Keeps msk base (State.updateBin s i off data blocks) := by
  refine Keeps.step (v := 0x4302006005001C) ?_ hSolid hSub hBase
  clear hSolid hSub hBase
  unfold State.updateBin
  try dsimp only
  repeat' first
    | (with_reducible rfl)
    | (with_reducible exact Keeps.refl _ _)
    | (with_reducible apply Keeps.ite)
    | (with_reducible assumption)
    | (with_reducible apply State.apdu_step)
    | (with_reducible apply State.answerFree_step)
    | (with_reducible apply State.liveRead_step)
    | (with_reducible apply State.skip_step)
    | (with_reducible apply State.answer_step)
    | (with_reducible apply Keeps.setBit (regWindow_awnStatus ..))
    | (with_reducible apply State.modAwn_step)
    | intro _
    | (exact (rfl : true = true))
    | split

theorem State.verify_step {msk : Nat} {base s : State} (i : Nat) (data : List Byte) (blocks : List IBlock) (hSolid : solid msk = true)
    (hSub : sub 0x4302006005001C msk = true) (hBase : Keeps msk base s) : Keeps msk base (State.verify s i data blocks) := by
  refine Keeps.step (v := 0x4302006005001C) ?_ hSolid hSub hBase
  clear hSolid hSub hBase
  unfold State.verify
  try dsimp only
  repeat' first
    | (with_reducible rfl)
    | (with_reducible exact Keeps.refl _ _)
    | (with_reducible apply Keeps.ite)
    | (with_reducible assumption)
    | (with_reducible apply State.apdu_step)
    | (with_reducible apply State.answer_step)
    | (with_reducible apply Keeps.setFld (regWindow_awnStatus ..))
    | (with_reducible apply Keeps.setBit (regWindow_awnStatus ..))
    | (with_reducible apply State.modAwn_step)
    | (with_reducible apply State.awnEvent_step)
    | intro _
    | (exact (rfl : true = true))
    | split

theorem State.lockOver_step {msk : Nat} {base s : State} (i : Nat) (hSolid : solid msk = true)
    (hSub : sub 0x40000000010000 msk = true) (hBase : Keeps msk base s) : Keeps msk base (State.lockOver s i) := by
  refine Keeps.step (v := 0x40000000010000) ?_ hSolid hSub hBase
  clear hSolid hSub hBase
  unfold State.lockOver
  try dsimp only
  repeat' first
    | (with_reducible rfl)
    | (with_reducible exact Keeps.refl _ _)
    | (with_reducible apply Keeps.ite)
    | (with_reducible assumption)
    | (with_reducible apply State.modAwn_step)
    | (with_reducible apply Keeps.setFld (regWindow_awnStatus ..))
    | intro _
    | (exact (rfl : true = true))
    | split

theorem State.otherApdu_step {msk : Nat} {base s : State} (i : Nat) (ins : Byte) (p1p2 : BitVec 16) (blocks : List IBlock) (hSolid : solid msk = true)
    (hSub : sub 0x1000060010000 msk = true) (hBase : Keeps msk base s) : Keeps msk base (State.otherApdu s i ins p1p2 blocks) := by
  refine Keeps.step (v := 0x1000060010000) ?_ hSolid hSub hBase
  clear hSolid hSub hBase
  unfold State.otherApdu
  try dsimp only
  repeat' first
    | (with_reducible rfl)
    | (with_reducible exact Keeps.refl _ _)
    | (with_reducible apply Keeps.ite)
    | (with_reducible assumption)
    | (with_reducible apply State.apdu_step)
    | (with_reducible apply State.answer_step)
    | (with_reducible apply State.answerFree_step)
    | intro _
    | (exact (rfl : true = true))
    | split

theorem State.awnCtrlWrite_step {msk : Nat} {base s : State} (i : ℕ) (v : Word) (hSolid : solid msk = true)
    (hSub : sub 0x40000000000000 msk = true) (hBase : Keeps msk base s) : Keeps msk base (State.awnCtrlWrite s i v) := by
  refine Keeps.step (v := 0x40000000000000) ?_ hSolid hSub hBase
  clear hSolid hSub hBase
  unfold State.awnCtrlWrite
  try dsimp only
  repeat' first
    | (with_reducible rfl)
    | (with_reducible exact Keeps.refl _ _)
    | (with_reducible apply Keeps.ite)
    | (with_reducible assumption)
    | (with_reducible apply Keeps.setBit (regWindow_awnCtrl _))
    | (with_reducible apply Keeps.setBit (regWindow_awnStatus _))
    | (with_reducible apply Keeps.setReg (regWindow_awnCtrl _))
    | intro _
    | (exact (rfl : true = true))
    | split

theorem State.commitRefuse_step {msk : Nat} {base s : State} (i : ℕ) (f : Fld) (why : ℕ) (hSolid : solid msk = true)
    (hSub : sub 0x4202006004001C msk = true) (hBase : Keeps msk base s) : Keeps msk base (State.commitRefuse s i f why) := by
  refine Keeps.step (v := 0x4202006004001C) ?_ hSolid hSub hBase
  clear hSolid hSub hBase
  unfold State.commitRefuse
  try dsimp only
  repeat' first
    | (with_reducible rfl)
    | (with_reducible exact Keeps.refl _ _)
    | (with_reducible apply Keeps.ite)
    | (with_reducible assumption)
    | (with_reducible apply State.awnEvent_step)
    | (with_reducible apply Keeps.setBit (regWindow_awnStatus _))
    | intro _
    | (exact (rfl : true = true))
    | split

theorem State.byte_skip (s : State) (n x : Nat) : (s.skip n).byte x = s.byte x := rfl

theorem State.byte_modAwn (s : State) (i : Nat) (f : Awning → Awning) (x : Nat) : (s.modAwn i f).byte x = s.byte x := rfl

theorem State.commitCopy_step {msk : Nat} {base s : State} (i gen : Nat) (hSolid : solid msk = true)
    (hSub : sub 0x20021600C0010006 msk = true) (hBase : Keeps msk base s) : Keeps msk base (State.commitCopy s i gen) := by
  refine State.skip_step _ hSolid (sub_trans rfl hSub) (State.modAwn_step _ _ hSolid (sub_trans rfl hSub) ?_)
  exact State.setWords_step _ _ hSolid (sub_trans rfl hSub) (State.loadWords_step _ _ hSolid (sub_trans rfl hSub) hBase)

theorem State.commitApply_wide {msk : Nat} {base s : State} (i : ℕ) (hSolid : solid msk = true)
    (hSub : sub 0x20421600E005001E msk = true) (hBase : Keeps msk base s) : Keeps msk base (State.commitApply s i) := by
  refine Keeps.step (v := 0x20421600E005001E) ?_ hSolid hSub hBase
  have k0 : Keeps 0x20421600E005001E s ((s.setBit (R.awnCtrl i) F.awnCtrl.commit false).liveLoad i 0).1 :=
    State.liveLoad_step _ _ rfl rfl (Keeps.setBit (regWindow_awnCtrl _) rfl rfl (Keeps.refl _ _))
  have k1 := State.loadWords_step (s.awnBase i + 0x3000) 6 rfl rfl k0
  unfold State.commitApply
  dsimp only
  split
  · exact Keeps.refl _ _
  · split
    · exact State.commitRefuse_step _ _ _ rfl rfl k0
    · split
      · exact State.commitRefuse_step _ _ _ rfl rfl k1
      · exact State.commitCopy_step _ _ rfl rfl k1

theorem State.commitApply_step {msk : Nat} {base s : State} (i : ℕ) (hSolid : solid msk = true)
    (hSub : sub 0x420200E005001C msk = true) (hBase : Keeps msk base s) : Keeps msk base (State.commitApply s i) := by
  refine Keeps.step (v := 0x420200E005001C) ?_ hSolid hSub hBase
  refine Keeps.pooled (State.commitApply_wide i (msk := 0x20421600E005001E) rfl rfl (Keeps.refl _ _)) rfl rfl rfl fun x hx => ?_
  have k0 : Keeps 0x4202006004001C s ((s.setBit (R.awnCtrl i) F.awnCtrl.commit false).liveLoad i 0).1 :=
    State.liveLoad_step _ _ rfl rfl (Keeps.setBit (regWindow_awnCtrl _) rfl rfl (Keeps.refl _ _))
  have k1 := State.loadWords_step (s.awnBase i + 0x3000) 6 rfl rfl k0
  unfold State.commitApply
  dsimp only
  split
  · rfl
  · rename_i hg
    split
    · exact (State.commitRefuse_step _ _ _ rfl rfl k0).high rfl rfl rfl rfl rfl hx
    · split
      · exact (State.commitRefuse_step _ _ _ rfl rfl k1).high rfl rfl rfl rfl rfl hx
      · have hon : s.awnOn i = true := by
          by_contra hc
          simp [hc] at hg
        obtain ⟨h1, h2, h3⟩ := s.awnOn_region i hon
        have hi : i < 4 := by
          simp only [State.awnOn, Bool.and_eq_true, decide_eq_true_eq] at hon
          exact hon.1.1
        have e (u : State) (k : Keeps 0x202006004001C (s.setBit (R.awnCtrl i) F.awnCtrl.commit false) u) :
            u.awnRegion i = s.awnRegion i := by
          unfold State.awnRegion State.fld
          rw [k.regs (.inl rfl) _ (by rw [regWindow_awnImg]; rfl)]
          rw [State.setBit_reg_ne]
          unfold R.awnImg R.awnCtrl famOff
          split_ifs <;> omega
        have q0 : Keeps 0x202006004001C (s.setBit (R.awnCtrl i) F.awnCtrl.commit false)
            ((s.setBit (R.awnCtrl i) F.awnCtrl.commit false).liveLoad i 0).1 := State.liveLoad_step _ _ rfl rfl (Keeps.refl _ _)
        have q1 := State.loadWords_step (s.awnBase i + 0x3000) 6 rfl rfl q0
        generalize (((s.setBit (R.awnCtrl i) F.awnCtrl.commit false).liveLoad i 0).1.loadWords (s.awnBase i + 0x3000) 6).1 = u at k1 q1
        have q2 := State.loadWords_step (u.awnBase i + 0x3000) 1032 rfl rfl q1
        have k2 := State.loadWords_step (u.awnBase i + 0x3000) 1032 rfl rfl k1
        unfold State.commitCopy
        dsimp only
        rw [State.byte_skip, State.byte_modAwn]
        rw [State.byte_setWords_out, k2.high rfl rfl rfl rfl rfl hx]
        · unfold State.awnBase; rw [e u q1]; exact h3
        · right
          have hlen : ∀ n (v : State) a, (v.loadWords a n).2.length = n := by
            intro n
            induction n with
            | zero => intros; rfl
            | succ n ih => intro v a; show (_ :: _).length = _; rw [List.length_cons]; exact congrArg (· + 1) (ih _ _)
          simp only [List.length_cons, List.length_drop, hlen]
          unfold State.awnBase; rw [e u q1]; omega

end Sys2Proof.Machine
end

