-- ==== Sys2Proof/Laws/KeepsGroundsheet.lean ====
section
/-! SUPPORT. What each operation of Machine/Groundsheet.lean may change (Laws/Keeps.lean reads the masks). -/

namespace Sys2Proof.Machine

set_option linter.unreachableTactic false
set_option linter.unusedTactic false

theorem State.planUe_step {msk : Nat} {base s : State}  (hSolid : solid msk = true)
    (hSub : sub 0x200A000000040 msk = true) (hBase : Keeps msk base s) : Keeps msk base (State.planUe s) := by
  refine Keeps.step (v := 0x200A000000040) ?_ hSolid hSub hBase
  clear hSolid hSub hBase
  unfold State.planUe
  try dsimp only
  repeat' first
    | (with_reducible rfl)
    | (with_reducible exact Keeps.refl _ _)
    | (with_reducible apply Keeps.ite)
    | (with_reducible assumption)
    | (with_reducible refine State.setSch_nextStep _ (by simp) ?_ ?_ ?_)
    | (with_reducible apply State.withdraw_step)
    | (with_reducible apply Keeps.setBit regWindow_schStatus)
    | (with_reducible apply Keeps.setBit regWindow_schCtrl)
    | (with_reducible apply Keeps.setBit regWindow_gshEccStatus)
    | intro _
    | (exact (rfl : true = true))
    | split

theorem State.recordLost_step {msk : Nat} {base s : State}  (hSolid : solid msk = true)
    (hSub : sub 0x202006004041C msk = true) (hBase : Keeps msk base s) : Keeps msk base (State.recordLost s) := by
  refine Keeps.step (v := 0x202006004041C) ?_ hSolid hSub hBase
  clear hSolid hSub hBase
  unfold State.recordLost
  try dsimp only
  repeat' first
    | (with_reducible rfl)
    | (with_reducible exact Keeps.refl _ _)
    | (with_reducible apply Keeps.ite)
    | (with_reducible assumption)
    | (with_reducible apply State.skip_step)
    | (with_reducible apply State.event_step)
    | (with_reducible apply State.setRecords_step)
    | intro _
    | (exact (rfl : true = true))
    | split

theorem State.ueResponse_step {msk : Nat} {base s : State} (a : Nat) (hSolid : solid msk = true)
    (hSub : sub 0x800246A06004045C msk = true) (hBase : Keeps msk base s) : Keeps msk base (State.ueResponse s a) := by
  refine Keeps.step (v := 0x800246A06004045C) ?_ hSolid hSub hBase
  clear hSolid hSub hBase
  unfold State.ueResponse
  try dsimp only
  repeat' first
    | (with_reducible rfl)
    | (with_reducible exact Keeps.refl _ _)
    | (with_reducible apply Keeps.ite)
    | (with_reducible assumption)
    | (with_reducible apply State.imageEcc_step)
    | (with_reducible apply State.eccCritical_step)
    | (with_reducible apply State.freeEntry_step)
    | (with_reducible apply State.planUe_step)
    | (with_reducible apply State.recordLost_step)
    | intro _
    | (exact (rfl : true = true))
    | split

theorem State.readAt_step {msk : Nat} {base s : State} (a : ℕ) (hSolid : solid msk = true)
    (hSub : sub 0x800246A06004045C msk = true) (hBase : Keeps msk base s) : Keeps msk base (State.readAt s a) := by
  refine Keeps.step (v := 0x800246A06004045C) ?_ hSolid hSub hBase
  clear hSolid hSub hBase
  unfold State.readAt
  try dsimp only
  repeat' first
    | (with_reducible rfl)
    | (with_reducible exact Keeps.refl _ _)
    | (with_reducible apply Keeps.ite)
    | (with_reducible assumption)
    | (with_reducible apply State.ueResponse_step)
    | (with_reducible apply State.recordUe_step)
    | (with_reducible apply State.correct_step)
    | intro _
    | (exact (rfl : true = true))
    | split

theorem State.scrub_step {msk : Nat} {base s : State} (word : ℕ) (upset : Word) (hSolid : solid msk = true)
    (hSub : sub 0x800246A06004045C msk = true) (hBase : Keeps msk base s) : Keeps msk base (State.scrub s word upset) := by
  refine Keeps.step (v := 0x800246A06004045C) ?_ hSolid hSub hBase
  clear hSolid hSub hBase
  unfold State.scrub
  try dsimp only
  repeat' first
    | (with_reducible rfl)
    | (with_reducible exact Keeps.refl _ _)
    | (with_reducible apply Keeps.ite)
    | (with_reducible assumption)
    | (with_reducible apply State.readAt_step)
    | (with_reducible apply State.setUpset_step)
    | intro _
    | (exact (rfl : true = true))
    | split

theorem State.injectWrite_step {msk : Nat} {base s : State} (v : Word) (hSolid : solid msk = true)
    (hSub : sub 0x2000000000000 msk = true) (hBase : Keeps msk base s) : Keeps msk base (State.injectWrite s v) := by
  refine Keeps.step (v := 0x2000000000000) ?_ hSolid hSub hBase
  clear hSolid hSub hBase
  unfold State.injectWrite
  try dsimp only
  repeat' first
    | (with_reducible rfl)
    | (with_reducible exact Keeps.refl _ _)
    | (with_reducible apply Keeps.ite)
    | (with_reducible assumption)
    | (with_reducible apply Keeps.hostWrite regWindow_gshEccInject)
    | (with_reducible apply Keeps.setBit regWindow_gshEccInject)
    | intro _
    | (exact (rfl : true = true))
    | split

theorem State.fetch_step {msk : Nat} {base s : State} (a : ℕ) (hSolid : solid msk = true)
    (hSub : sub 0x800246A06004045C msk = true) (hBase : Keeps msk base s) : Keeps msk base (State.fetch s a).1 := by
  refine Keeps.step (v := 0x800246A06004045C) ?_ hSolid hSub hBase
  clear hSolid hSub hBase
  unfold State.fetch
  try dsimp only
  repeat' first
    | (with_reducible rfl)
    | (with_reducible exact Keeps.refl _ _)
    | (with_reducible apply Keeps.ite)
    | (with_reducible assumption)
    | (with_reducible apply State.skip_step)
    | (with_reducible apply State.readAt_step)
    | intro _
    | (exact (rfl : true = true))
    | split

theorem State.hostLoad_step {msk : Nat} {base s : State} (a : ℕ) (hSolid : solid msk = true)
    (hSub : sub 0x800246A06004045C msk = true) (hBase : Keeps msk base s) : Keeps msk base (State.hostLoad s a).1 := by
  refine Keeps.step (v := 0x800246A06004045C) ?_ hSolid hSub hBase
  clear hSolid hSub hBase
  unfold State.hostLoad
  try dsimp only
  repeat' first
    | (with_reducible rfl)
    | (with_reducible exact Keeps.refl _ _)
    | (with_reducible apply Keeps.ite)
    | (with_reducible assumption)
    | (with_reducible apply State.fetch_step)
    | (with_reducible refine Keeps.fst (State.fetch_step (by assumption) ?_ ?_ ?_) (by assumption))
    | (with_reducible apply State.skip_step)
    | intro _
    | (exact (rfl : true = true))
    | split

theorem State.hostStore_step {msk : Nat} {base s : State} (a : Nat) (l : List Byte) (hSolid : solid msk = true)
    (hSub : sub 0x2042162080000006 msk = true) (hBase : Keeps msk base s) : Keeps msk base (State.hostStore s a l) := by
  refine Keeps.step (v := 0x2042162080000006) ?_ hSolid hSub hBase
  clear hSolid hSub hBase
  unfold State.hostStore
  try dsimp only
  repeat' first
    | (with_reducible rfl)
    | (with_reducible exact Keeps.refl _ _)
    | (with_reducible apply Keeps.ite)
    | (with_reducible assumption)
    | (with_reducible apply Keeps.setBit (regWindow_awnStatus ..))
    | (with_reducible apply Keeps.setBit regWindow_schStatus)
    | (with_reducible apply State.storeBytes_step)
    | intro _
    | (exact (rfl : true = true))
    | split

theorem State.respond_step {msk : Nat} {base s : State} (m : Master) (x : Resp) (hSolid : solid msk = true)
    (hSub : sub 0x10000000 msk = true) (hBase : Keeps msk base s) : Keeps msk base (State.respond s m x) := by
  refine Keeps.step (v := 0x10000000) ?_ hSolid hSub hBase
  clear hSolid hSub hBase
  unfold State.respond
  try dsimp only
  repeat' first
    | (with_reducible rfl)
    | (with_reducible exact Keeps.refl _ _)
    | (with_reducible apply Keeps.ite)
    | (with_reducible assumption)
    | (with_reducible apply State.setResp_step)
    | intro _
    | (exact (rfl : true = true))
    | split

theorem State.outside_step {msk : Nat} {base s : State} (m : Master) (kind : ℕ) (detail : ℕ) (read : Bool) (hSolid : solid msk = true)
    (hSub : sub 0x10000010000000 msk = true) (hBase : Keeps msk base s) : Keeps msk base (State.outside s m kind detail read) := by
  refine Keeps.step (v := 0x10000010000000) ?_ hSolid hSub hBase
  clear hSolid hSub hBase
  unfold State.outside
  try dsimp only
  repeat' first
    | (with_reducible rfl)
    | (with_reducible exact Keeps.refl _ _)
    | (with_reducible apply Keeps.ite)
    | (with_reducible assumption)
    | (with_reducible apply State.respond_step)
    | (with_reducible apply State.violation_step)
    | intro _
    | (exact (rfl : true = true))
    | split

theorem State.viewLoad_step {msk : Nat} {base s : State} (m : Master) (off : ℕ) (hSolid : solid msk = true)
    (hSub : sub 0x801246A07004045C msk = true) (hBase : Keeps msk base s) : Keeps msk base (State.viewLoad s m off).1 := by
  refine Keeps.step (v := 0x801246A07004045C) ?_ hSolid hSub hBase
  clear hSolid hSub hBase
  unfold State.viewLoad
  try dsimp only
  repeat' first
    | (with_reducible rfl)
    | (with_reducible exact Keeps.refl _ _)
    | (with_reducible apply Keeps.ite)
    | (with_reducible assumption)
    | (with_reducible apply State.hostLoad_step)
    | (with_reducible refine Keeps.fst (State.hostLoad_step (by assumption) ?_ ?_ ?_) (by assumption))
    | (with_reducible apply State.fetch_step)
    | (with_reducible refine Keeps.fst (State.fetch_step (by assumption) ?_ ?_ ?_) (by assumption))
    | (with_reducible apply State.outside_step)
    | intro _
    | (exact (rfl : true = true))
    | split

theorem State.viewStore_step {msk : Nat} {base s : State} (m : Master) (off : ℕ) (l : List Byte) (hSolid : solid msk = true)
    (hSub : sub 0x2052162090000006 msk = true) (hBase : Keeps msk base s) : Keeps msk base (State.viewStore s m off l) := by
  refine Keeps.step (v := 0x2052162090000006) ?_ hSolid hSub hBase
  clear hSolid hSub hBase
  unfold State.viewStore
  try dsimp only
  repeat' first
    | (with_reducible rfl)
    | (with_reducible exact Keeps.refl _ _)
    | (with_reducible apply Keeps.ite)
    | (with_reducible assumption)
    | (with_reducible apply State.hostStore_step)
    | (with_reducible apply State.outside_step)
    | intro _
    | (exact (rfl : true = true))
    | split

theorem State.viewLoads_step {msk : Nat} {base s : State} (m : Master) (off : ℕ) (x3 : ℕ) (hSolid : solid msk = true)
    (hSub : sub 0x801246A07004045C msk = true) (hBase : Keeps msk base s) : Keeps msk base (State.viewLoads s m off x3).1 := by
  refine Keeps.step (v := 0x801246A07004045C) ?_ hSolid hSub hBase
  clear hSolid hSub hBase
  fun_induction State.viewLoads s m off x3
  all_goals
    try dsimp only
    repeat' first
      | (with_reducible rfl)
      | (with_reducible exact Keeps.refl _ _)
      | (with_reducible apply Keeps.ite)
      | (with_reducible assumption)
      | (with_reducible refine Keeps.trans ?_ ?_ (by assumption))
      | (with_reducible apply State.viewLoad_step)
      | (with_reducible refine Keeps.fst (State.viewLoad_step (by assumption) ?_ ?_ ?_) (by assumption))
      | intro _
      | (exact (rfl : true = true))
      | split

theorem State.gshRead_step {msk : Nat} {base s : State} (m : Master) (off n : Nat) (hSolid : solid msk = true)
    (hSub : sub 0x801246A07004045C msk = true) (hBase : Keeps msk base s) : Keeps msk base (State.gshRead s m off n) := by
  refine Keeps.step (v := 0x801246A07004045C) ?_ hSolid hSub hBase
  clear hSolid hSub hBase
  unfold State.gshRead
  try dsimp only
  repeat' first
    | (with_reducible rfl)
    | (with_reducible exact Keeps.refl _ _)
    | (with_reducible apply Keeps.ite)
    | (with_reducible assumption)
    | (with_reducible apply State.viewLoads_step)
    | (with_reducible apply State.respond_step)
    | intro _
    | (exact (rfl : true = true))
    | split

theorem State.gshStores_step {msk : Nat} {base s : State} (m : Master) (off : ℕ) (x3 : ℕ) (x4 : List Byte) (hSolid : solid msk = true)
    (hSub : sub 0x2052162090000006 msk = true) (hBase : Keeps msk base s) : Keeps msk base (State.gshStores s m off x3 x4) := by
  refine Keeps.step (v := 0x2052162090000006) ?_ hSolid hSub hBase
  clear hSolid hSub hBase
  fun_induction State.gshStores s m off x3 x4
  all_goals
    try dsimp only
    repeat' first
      | (with_reducible rfl)
      | (with_reducible exact Keeps.refl _ _)
      | (with_reducible apply Keeps.ite)
      | (with_reducible assumption)
      | (with_reducible refine Keeps.trans ?_ ?_ (by assumption))
      | (with_reducible apply State.viewStore_step)
      | intro _
      | (exact (rfl : true = true))
      | split

theorem State.gshWrite_step {msk : Nat} {base s : State} (m : Master) (off : ℕ) (bytes : List Byte) (hSolid : solid msk = true)
    (hSub : sub 0x2052162090000006 msk = true) (hBase : Keeps msk base s) : Keeps msk base (State.gshWrite s m off bytes) := by
  refine Keeps.step (v := 0x2052162090000006) ?_ hSolid hSub hBase
  clear hSolid hSub hBase
  unfold State.gshWrite
  try dsimp only
  repeat' first
    | (with_reducible rfl)
    | (with_reducible exact Keeps.refl _ _)
    | (with_reducible apply Keeps.ite)
    | (with_reducible assumption)
    | (with_reducible apply State.gshStores_step)
    | intro _
    | (exact (rfl : true = true))
    | split

/-- The words of a FREE buffer are written, and it becomes HELD. -/
theorem State.take_step (s : State) (b : Nat) (l : List Byte) (hl : l.length = 256) (hb : s.buf b = .free ∧ b < 65536) :
    Keeps 0x2020040000008 s (((s.setBytes (256 * b) l).skip 32).setBuf b .held) := by
  have kb : Keeps 0x2000160080000002 s (s.setBytes (256 * b) l) := State.setBytes_step _ _ rfl rfl (Keeps.refl _ _)
  have hbu : (s.setBytes (256 * b) l).bufs = s.bufs := kb.bufs (.inl rfl) rfl
  have hby := State.byte_setBytes_out l s (256 * b)
  have hw : Keeps 0x20021600C000000A s (((s.setBytes (256 * b) l).skip 32).setBuf b .held) :=
    State.setBuf_step _ _ rfl rfl (State.skip_step _ rfl rfl (kb.mono rfl))
  generalize s.setBytes (256 * b) l = u at hbu hby hw
  refine Keeps.free (c := [b]) hw rfl rfl (fun y hy => by rw [List.mem_singleton] at hy; subst hy; exact hb) (fun x hx => ?_)
    fun y hy => ?_
  · have h := hx b (List.mem_singleton.mpr rfl)
    exact (State.byte_of_mem (s := u) rfl x).trans (hby x (by omega))
  · rw [List.mem_singleton] at hy
    show SMap.look BufState.free (SMap.put BufState.free (u.skip 32).bufs b .held) y = _
    rw [SMap.look_put_ne _ _ _ _ _ hy]
    exact congrArg (fun m => SMap.look BufState.free m y) hbu

theorem State.alloc_step {msk : Nat} {base s : State} (q : Nat) (hSolid : solid msk = true)
    (hSub : sub 0x2020040000008 msk = true) (hBase : Keeps msk base s) : Keeps msk base (State.alloc s q).1 := by
  refine Keeps.step (v := 0x2020040000008) ?_ hSolid hSub hBase
  cases hp : pick s.fresh (s.freeBufs q) with
  | none =>
    have e : (s.alloc q).1 = s.setBit (R.gshBufStatus q) F.gshBufStatus.allocEmpty true := by unfold State.alloc; rw [hp]
    rw [e]
    exact Keeps.setBit (regWindow_gshBufStatus q) rfl rfl (Keeps.refl _ _)
  | some b =>
    have hb := s.freeBufs_mem q b (pick_mem _ _ _ hp)
    have e : (s.alloc q).1 = (((s.skip 1).setBytes (256 * b)
        ((List.range 32).flatMap fun i => Word.bytes (Config.freeWord (s.fresh + 1 + i)))).skip 32).setBuf b .held := by
      unfold State.alloc; rw [hp]
    rw [e]
    exact Keeps.trans rfl (State.skip_step 1 rfl rfl (Keeps.refl _ s))
      (State.take_step (s.skip 1) b _ (by simp [List.length_flatMap, Word.bytes_length]) hb)

theorem State.allocRead_step {msk : Nat} {base s : State} (m : Master) (q : ℕ) (hSolid : solid msk = true)
    (hSub : sub 0x2020050000008 msk = true) (hBase : Keeps msk base s) : Keeps msk base (State.allocRead s m q) := by
  refine Keeps.step (v := 0x2020050000008) ?_ hSolid hSub hBase
  clear hSolid hSub hBase
  unfold State.allocRead
  try dsimp only
  repeat' first
    | (with_reducible rfl)
    | (with_reducible exact Keeps.refl _ _)
    | (with_reducible apply Keeps.ite)
    | (with_reducible assumption)
    | (with_reducible apply State.alloc_step)
    | (with_reducible refine Keeps.fst (State.alloc_step (by assumption) ?_ ?_ ?_) (by assumption))
    | (with_reducible apply State.respond_step)
    | intro _
    | (exact (rfl : true = true))
    | split

theorem State.free_step {msk : Nat} {base s : State} (m : Master) (q : ℕ) (b : ℕ) (hSolid : solid msk = true)
    (hSub : sub 0x12000090000008 msk = true) (hBase : Keeps msk base s) : Keeps msk base (State.free s m q b) := by
  refine Keeps.step (v := 0x12000090000008) ?_ hSolid hSub hBase
  clear hSolid hSub hBase
  unfold State.free
  try dsimp only
  repeat' first
    | (with_reducible rfl)
    | (with_reducible exact Keeps.refl _ _)
    | (with_reducible apply Keeps.ite)
    | (with_reducible assumption)
    | (with_reducible apply State.outside_step)
    | (with_reducible apply State.setBuf_step)
    | (with_reducible apply Keeps.setBit (regWindow_gshBufStatus _))
    | (with_reducible apply Keeps.bumpSat (regWindow_gshBufStatus _))
    | intro _
    | (exact (rfl : true = true))
    | split

theorem State.freeWrite_step {msk : Nat} {base s : State} (m : Master) (q : ℕ) (v : Word) (hSolid : solid msk = true)
    (hSub : sub 0x12000090000008 msk = true) (hBase : Keeps msk base s) : Keeps msk base (State.freeWrite s m q v) := by
  refine Keeps.step (v := 0x12000090000008) ?_ hSolid hSub hBase
  clear hSolid hSub hBase
  unfold State.freeWrite
  try dsimp only
  repeat' first
    | (with_reducible rfl)
    | (with_reducible exact Keeps.refl _ _)
    | (with_reducible apply Keeps.ite)
    | (with_reducible assumption)
    | (with_reducible apply State.free_step)
    | intro _
    | (exact (rfl : true = true))
    | split

theorem State.appendHost_step {msk : Nat} {base s : State} (n : Nat) (chain : List Nat) (len : Nat) (hSolid : solid msk = true)
    (hSub : sub 0x2000080000018 msk = true) (hBase : Keeps msk base s) : Keeps msk base (State.appendHost s n chain len) := by
  refine Keeps.step (v := 0x2000080000018) ?_ hSolid hSub hBase
  clear hSolid hSub hBase
  unfold State.appendHost
  try dsimp only
  repeat' first
    | (with_reducible rfl)
    | (with_reducible exact Keeps.refl _ _)
    | (with_reducible apply Keeps.ite)
    | (with_reducible assumption)
    | (with_reducible apply State.setBufList_step)
    | (with_reducible apply State.setFifo_step)
    | (with_reducible apply State.fifo_step)
    | (with_reducible apply State.takeSeq_step)
    | intro _
    | (exact (rfl : true = true))
    | split

theorem State.pushRefused_step {msk : Nat} {base s : State} (n : ℕ) (hSolid : solid msk = true)
    (hSub : sub 0x2000000000000 msk = true) (hBase : Keeps msk base s) : Keeps msk base (State.pushRefused s n) := by
  refine Keeps.step (v := 0x2000000000000) ?_ hSolid hSub hBase
  clear hSolid hSub hBase
  unfold State.pushRefused
  try dsimp only
  repeat' first
    | (with_reducible rfl)
    | (with_reducible exact Keeps.refl _ _)
    | (with_reducible apply Keeps.ite)
    | (with_reducible assumption)
    | (with_reducible apply Keeps.setBit (regWindow_gshFifoStatus _))
    | intro _
    | (exact (rfl : true = true))
    | split

theorem State.push_step {msk : Nat} {base s : State} (m : Master) (n : Nat) (v : Word) (hSolid : solid msk = true)
    (hSub : sub 0x1200009000001C msk = true) (hBase : Keeps msk base s) : Keeps msk base (State.push s m n v) := by
  refine Keeps.step (v := 0x1200009000001C) ?_ hSolid hSub hBase
  clear hSolid hSub hBase
  unfold State.push
  try dsimp only
  repeat' first
    | (with_reducible rfl)
    | (with_reducible exact Keeps.refl _ _)
    | (with_reducible apply Keeps.ite)
    | (with_reducible assumption)
    | (with_reducible apply State.touchAll_step)
    | (with_reducible apply State.pushRefused_step)
    | (with_reducible apply State.outside_step)
    | (with_reducible apply State.appendHost_step)
    | intro _
    | (exact (rfl : true = true))
    | split

theorem State.pop_step {msk : Nat} {base s : State} (n : ℕ) (v : Word) (hSolid : solid msk = true)
    (hSub : sub 0x2000080040018 msk = true) (hBase : Keeps msk base s) : Keeps msk base (State.pop s n v) := by
  refine Keeps.step (v := 0x2000080040018) ?_ hSolid hSub hBase
  clear hSolid hSub hBase
  unfold State.pop
  try dsimp only
  repeat' first
    | (with_reducible rfl)
    | (with_reducible exact Keeps.refl _ _)
    | (with_reducible apply Keeps.ite)
    | (with_reducible assumption)
    | (with_reducible apply State.popHead_step)
    | (with_reducible apply Keeps.setBit (regWindow_gshFifoStatus _))
    | intro _
    | (exact (rfl : true = true))
    | split

theorem State.onFifo_step {msk : Nat} {base s : State} (m : Master) (n : ℕ) (r : ℕ) (f : State → State) (hSolid : solid msk = true)
    (hSub : sub 0x10000010000000 msk = true) (hBase : Keeps msk base s) (hF : ∀ u0, Keeps msk u0 (f u0)) : Keeps msk base (State.onFifo s m n r f) := by
  unfold State.onFifo
  try dsimp only
  repeat' first
    | (with_reducible exact hSolid)
    | (with_reducible exact Keeps.refl _ _)
    | (with_reducible exact hBase)
    | (with_reducible apply Keeps.ite)
    | (with_reducible refine Keeps.trans hSolid ?_ (hF ..))
    | (with_reducible apply State.outside_step)
    | intro _
    | (exact sub_trans (by rfl) hSub)
    | split

theorem State.setEp_step {msk : Nat} {base s : State} (q : ℕ) (e : Endpoint) (hSolid : solid msk = true)
    (hSub : sub 0x40000 msk = true) (hBase : Keeps msk base s) : Keeps msk base (State.setEp s q e) := by
  refine Keeps.step (v := 0x40000) ?_ hSolid hSub hBase
  clear hSolid hSub hBase
  unfold State.setEp
  try dsimp only
  repeat' first
    | (with_reducible rfl)
    | (with_reducible exact Keeps.refl _ _)
    | (with_reducible apply Keeps.ite)
    | (with_reducible assumption)
    | (with_reducible apply State.setHif_step)
    | intro _
    | (exact (rfl : true = true))
    | split

theorem State.showWaiting_step {msk : Nat} {base s : State} (q : ℕ) (hSolid : solid msk = true)
    (hSub : sub 0x8000000000000 msk = true) (hBase : Keeps msk base s) : Keeps msk base (State.showWaiting s q) := by
  refine Keeps.step (v := 0x8000000000000) ?_ hSolid hSub hBase
  clear hSolid hSub hBase
  unfold State.showWaiting
  try dsimp only
  repeat' first
    | (with_reducible rfl)
    | (with_reducible exact Keeps.refl _ _)
    | (with_reducible apply Keeps.ite)
    | (with_reducible assumption)
    | (with_reducible apply Keeps.setFld (regWindow_hifEpStatus _))
    | intro _
    | (exact (rfl : true = true))
    | split

theorem State.flush_step {msk : Nat} {base s : State} (n : Nat) (hSolid : solid msk = true)
    (hSub : sub 0x1A000090040018 msk = true) (hBase : Keeps msk base s) : Keeps msk base (State.flush s n) := by
  refine Keeps.step (v := 0x1A000090040018) ?_ hSolid hSub hBase
  clear hSolid hSub hBase
  unfold State.flush
  try dsimp only
  repeat' first
    | (with_reducible rfl)
    | (with_reducible exact Keeps.refl _ _)
    | (with_reducible apply Keeps.ite)
    | (with_reducible assumption)
    | (with_reducible apply State.fifo_step)
    | (with_reducible apply State.setFifo_step)
    | (with_reducible apply State.setBufList_step)
    | (with_reducible apply State.free_step)
    | (with_reducible apply Keeps.setFld (regWindow_gshFifoStatus ..))
    | (with_reducible apply State.setEp_step)
    | (with_reducible apply State.showWaiting_step)
    | (with_reducible apply State.driveInt_step)
    | intro _
    | (exact (rfl : true = true))
    | split

theorem State.commitHeld_step {msk : Nat} {base s : State} (n : Nat) (hSolid : solid msk = true)
    (hSub : sub 0x202006004001C msk = true) (hBase : Keeps msk base s) : Keeps msk base (State.commitHeld s n) := by
  refine Keeps.step (v := 0x202006004001C) ?_ hSolid hSub hBase
  clear hSolid hSub hBase
  unfold State.commitHeld
  split
  · exact Keeps.refl _ _
  · split
    · exact Keeps.refl _ _
    · split
      · exact Keeps.refl _ _
      · rename_i hc
        exact State.appendFree_step _ _ _ (fun b hb => State.chainFor_mem s n _ _ hc b hb) rfl rfl
          (State.setFifo_step _ _ rfl rfl (Keeps.refl _ _))

theorem State.assignWheel_step {msk : Nat} {base s : State} (r : Run) (hSolid : solid msk = true)
    (hSub : sub 0x8000000 msk = true) (hBase : Keeps msk base s) : Keeps msk base (State.assignWheel s r) := by
  refine Keeps.step (v := 0x8000000) ?_ hSolid hSub hBase
  clear hSolid hSub hBase
  unfold State.assignWheel
  try dsimp only
  repeat' first
    | (with_reducible rfl)
    | (with_reducible exact Keeps.refl _ _)
    | (with_reducible apply Keeps.ite)
    | (with_reducible assumption)
    | (with_reducible apply State.setWheel_step)
    | (with_reducible apply Keeps.foldl)
    | intro _
    | (exact (rfl : true = true))
    | split

theorem State.showWheel_step {msk : Nat} {base s : State} (t : ℕ) (hSolid : solid msk = true)
    (hSub : sub 0x4000000000000 msk = true) (hBase : Keeps msk base s) : Keeps msk base (State.showWheel s t) := by
  refine Keeps.step (v := 0x4000000000000) ?_ hSolid hSub hBase
  clear hSolid hSub hBase
  unfold State.showWheel
  try dsimp only
  repeat' first
    | (with_reducible rfl)
    | (with_reducible exact Keeps.refl _ _)
    | (with_reducible apply Keeps.ite)
    | (with_reducible assumption)
    | (with_reducible apply Keeps.setFld (regWindow_rdpWheelUse _))
    | intro _
    | (exact (rfl : true = true))
    | split

theorem State.rrWait_step {msk : Nat} {base s : State} (wait : ℕ) (target : ℕ) (hSolid : solid msk = true)
    (hSub : sub 0x4000000000000 msk = true) (hBase : Keeps msk base s) : Keeps msk base (State.rrWait s wait target) := by
  refine Keeps.step (v := 0x4000000000000) ?_ hSolid hSub hBase
  clear hSolid hSub hBase
  unfold State.rrWait
  try dsimp only
  repeat' first
    | (with_reducible rfl)
    | (with_reducible exact Keeps.refl _ _)
    | (with_reducible apply Keeps.ite)
    | (with_reducible assumption)
    | (with_reducible apply Keeps.setReg regWindow_rdpRrWait)
    | intro _
    | (exact (rfl : true = true))
    | split

theorem State.turnStart_step {msk : Nat} {base s : State} (wait : ℕ) (target : ℕ) (hSolid : solid msk = true)
    (hSub : sub 0x4000008000000 msk = true) (hBase : Keeps msk base s) : Keeps msk base (State.turnStart s wait target) := by
  refine Keeps.step (v := 0x4000008000000) ?_ hSolid hSub hBase
  clear hSolid hSub hBase
  unfold State.turnStart
  try dsimp only
  repeat' first
    | (with_reducible rfl)
    | (with_reducible exact Keeps.refl _ _)
    | (with_reducible apply Keeps.ite)
    | (with_reducible assumption)
    | (with_reducible apply State.setWheel_step)
    | (with_reducible apply State.rrWait_step)
    | (with_reducible apply State.assignWheel_step)
    | (with_reducible apply State.showWheel_step)
    | (with_reducible apply Keeps.each)
    | intro _
    | (exact (rfl : true = true))
    | split

end Sys2Proof.Machine
end

