-- ==== Sys2Proof/Laws/KeepsKeys.lean ====
section
/-! SUPPORT. What each operation of Machine/Keys.lean may change (Laws/Keeps.lean reads the masks). -/

namespace Sys2Proof.Machine

set_option linter.unreachableTactic false
set_option linter.unusedTactic false

theorem State.loadKey_step {msk : Nat} {base s : State} (slot : Nat) (key : BitVec 256) (long : Bool) (hSolid : solid msk = true)
    (hSub : sub 0x2000 msk = true) (hBase : Keeps msk base s) : Keeps msk base (State.loadKey s slot key long) := by
  refine Keeps.step (v := 0x2000) ?_ hSolid hSub hBase
  clear hSolid hSub hBase
  unfold State.loadKey
  try dsimp only
  repeat' first
    | (with_reducible rfl)
    | (with_reducible exact Keeps.refl _ _)
    | (with_reducible apply Keeps.ite)
    | (with_reducible assumption)
    | (with_reducible apply State.setTick_step)
    | (with_reducible apply State.setSec_step)
    | intro _
    | (exact (rfl : true = true))
    | split

theorem State.clearData_step {msk : Nat} {base s : State} (pitch : Option ℕ) (hSolid : solid msk = true)
    (hSub : sub 0x2000 msk = true) (hBase : Keeps msk base s) : Keeps msk base (State.clearData s pitch) := by
  refine Keeps.step (v := 0x2000) ?_ hSolid hSub hBase
  clear hSolid hSub hBase
  unfold State.clearData
  try dsimp only
  repeat' first
    | (with_reducible rfl)
    | (with_reducible exact Keeps.refl _ _)
    | (with_reducible apply Keeps.ite)
    | (with_reducible assumption)
    | (with_reducible apply State.setSec_step)
    | (with_reducible apply Keeps.foldl)
    | intro _
    | (exact (rfl : true = true))
    | split

theorem State.writeData_step {msk : Nat} {base s : State} (pitch : Option ℕ) (i : ℕ) (w : Word) (hSolid : solid msk = true)
    (hSub : sub 0x2000 msk = true) (hBase : Keeps msk base s) : Keeps msk base (State.writeData s pitch i w) := by
  refine Keeps.step (v := 0x2000) ?_ hSolid hSub hBase
  clear hSolid hSub hBase
  unfold State.writeData
  try dsimp only
  repeat' first
    | (with_reducible rfl)
    | (with_reducible exact Keeps.refl _ _)
    | (with_reducible apply Keeps.ite)
    | (with_reducible assumption)
    | (with_reducible apply State.setSec_step)
    | intro _
    | (exact (rfl : true = true))
    | split

theorem State.pitKeyCmd_step {msk : Nat} {base s : State} (q : ℕ) (v : Word) (hSolid : solid msk = true)
    (hSub : sub 0x10000000082000 msk = true) (hBase : Keeps msk base s) : Keeps msk base (State.pitKeyCmd s q v) := by
  refine Keeps.step (v := 0x10000000082000) ?_ hSolid hSub hBase
  clear hSolid hSub hBase
  unfold State.pitKeyCmd
  try dsimp only
  repeat' first
    | (with_reducible rfl)
    | (with_reducible exact Keeps.refl _ _)
    | (with_reducible apply Keeps.ite)
    | (with_reducible assumption)
    | (with_reducible apply State.setPit_step)
    | (with_reducible apply State.clearData_step)
    | (with_reducible apply State.loadKey_step)
    | (with_reducible apply State.violation_step)
    | intro _
    | (exact (rfl : true = true))
    | split

theorem State.secKeyCmd_step {msk : Nat} {base s : State} (v : Word) (hSolid : solid msk = true)
    (hSub : sub 0x20000000002000 msk = true) (hBase : Keeps msk base s) : Keeps msk base (State.secKeyCmd s v) := by
  refine Keeps.step (v := 0x20000000002000) ?_ hSolid hSub hBase
  clear hSolid hSub hBase
  unfold State.secKeyCmd
  try dsimp only
  repeat' first
    | (with_reducible rfl)
    | (with_reducible exact Keeps.refl _ _)
    | (with_reducible apply Keeps.ite)
    | (with_reducible assumption)
    | (with_reducible apply State.clearData_step)
    | (with_reducible apply State.loadKey_step)
    | (with_reducible apply Keeps.setReg regWindow_secKeyLoad)
    | intro _
    | (exact (rfl : true = true))
    | split

end Sys2Proof.Machine
end

