-- ==== Sys2Proof/Laws/KeepsPcie.lean ====
section
/-! SUPPORT. What each operation of Machine/Pcie.lean may change (Laws/Keeps.lean reads the masks). -/

namespace Sys2Proof.Machine

set_option linter.unreachableTactic false
set_option linter.unusedTactic false

theorem State.perst_step {msk : Nat} {base s : State}  (hSolid : solid msk = true)
    (hSub : sub 0x8000000040000 msk = true) (hBase : Keeps msk base s) : Keeps msk base (State.perst s) := by
  refine Keeps.step (v := 0x8000000040000) ?_ hSolid hSub hBase
  clear hSolid hSub hBase
  unfold State.perst
  try dsimp only
  repeat' first
    | (with_reducible rfl)
    | (with_reducible exact Keeps.refl _ _)
    | (with_reducible apply Keeps.ite)
    | (with_reducible assumption)
    | (with_reducible apply Keeps.each)
    | (with_reducible apply Keeps.setReg (regWindow_hifRing ..))
    | (with_reducible apply State.setHif_step)
    | intro _
    | (exact (rfl : true = true))
    | split

theorem State.vfWrite_step {msk : Nat} {base s : State} (n : ℕ) (enable : Bool) (hSolid : solid msk = true)
    (hSub : sub 0x40000 msk = true) (hBase : Keeps msk base s) : Keeps msk base (State.vfWrite s n enable) := by
  refine Keeps.step (v := 0x40000) ?_ hSolid hSub hBase
  clear hSolid hSub hBase
  unfold State.vfWrite
  try dsimp only
  repeat' first
    | (with_reducible rfl)
    | (with_reducible exact Keeps.refl _ _)
    | (with_reducible apply Keeps.ite)
    | (with_reducible assumption)
    | (with_reducible apply State.setHif_step)
    | intro _
    | (exact (rfl : true = true))
    | split

theorem State.msixWrite_step {msk : Nat} {base s : State} (fn : ℕ) (k : ℕ) (w : Word) (hSolid : solid msk = true)
    (hSub : sub 0x20040000 msk = true) (hBase : Keeps msk base s) : Keeps msk base (State.msixWrite s fn k w) := by
  refine Keeps.step (v := 0x20040000) ?_ hSolid hSub hBase
  clear hSolid hSub hBase
  unfold State.msixWrite
  try dsimp only
  repeat' first
    | (with_reducible rfl)
    | (with_reducible exact Keeps.refl _ _)
    | (with_reducible apply Keeps.ite)
    | (with_reducible assumption)
    | (with_reducible apply State.setHif_step)
    | (with_reducible apply State.msixSend_step)
    | intro _
    | (exact (rfl : true = true))
    | split

theorem State.unmask_step {msk : Nat} {base s : State} (fn : ℕ) (vec : ℕ) (hSolid : solid msk = true)
    (hSub : sub 0x20040000 msk = true) (hBase : Keeps msk base s) : Keeps msk base (State.unmask s fn vec) := by
  refine Keeps.step (v := 0x20040000) ?_ hSolid hSub hBase
  clear hSolid hSub hBase
  unfold State.unmask
  try dsimp only
  repeat' first
    | (with_reducible rfl)
    | (with_reducible exact Keeps.refl _ _)
    | (with_reducible apply Keeps.ite)
    | (with_reducible assumption)
    | (with_reducible apply State.msixWrite_step)
    | intro _
    | (exact (rfl : true = true))
    | split

theorem State.ringSet_step {msk : Nat} {base s : State} (n : ℕ) (v : Word) (hSolid : solid msk = true)
    (hSub : sub 0x8000000040000 msk = true) (hBase : Keeps msk base s) : Keeps msk base (State.ringSet s n v) := by
  refine Keeps.step (v := 0x8000000040000) ?_ hSolid hSub hBase
  clear hSolid hSub hBase
  unfold State.ringSet
  try dsimp only
  repeat' first
    | (with_reducible rfl)
    | (with_reducible exact Keeps.refl _ _)
    | (with_reducible apply Keeps.ite)
    | (with_reducible assumption)
    | (with_reducible apply State.setHif_step)
    | (with_reducible apply Keeps.hostWrite (regWindow_hifRing _))
    | intro _
    | (exact (rfl : true = true))
    | split

theorem State.ringEmit_step {msk : Nat} {base s : State} (n : ℕ) (ws : List Word) (p : ℕ) (hSolid : solid msk = true)
    (hSub : sub 0x20040000 msk = true) (hBase : Keeps msk base s) : Keeps msk base (State.ringEmit s n ws p) := by
  refine Keeps.step (v := 0x20040000) ?_ hSolid hSub hBase
  clear hSolid hSub hBase
  unfold State.ringEmit
  try dsimp only
  repeat' first
    | (with_reducible rfl)
    | (with_reducible exact Keeps.refl _ _)
    | (with_reducible apply Keeps.ite)
    | (with_reducible assumption)
    | (with_reducible apply State.emit_step)
    | (with_reducible apply State.setHif_step)
    | intro _
    | (exact (rfl : true = true))
    | split

theorem State.ueDrop_step {msk : Nat} {base s : State} (n : ℕ) (p : Packet) (hSolid : solid msk = true)
    (hSub : sub 0x200008004001C msk = true) (hBase : Keeps msk base s) : Keeps msk base (State.ueDrop s n p) := by
  refine Keeps.step (v := 0x200008004001C) ?_ hSolid hSub hBase
  clear hSolid hSub hBase
  unfold State.ueDrop
  try dsimp only
  repeat' first
    | (with_reducible rfl)
    | (with_reducible exact Keeps.refl _ _)
    | (with_reducible apply Keeps.ite)
    | (with_reducible assumption)
    | (with_reducible apply State.dropPacket_step)
    | (with_reducible apply State.popHead_step)
    | (with_reducible apply State.touchAll_step)
    | (with_reducible apply Keeps.setBit (regWindow_gshFifoStatus _))
    | intro _
    | (exact (rfl : true = true))
    | split

theorem State.ringDeliver_step {msk : Nat} {base s : State} (n : ℕ) (hSolid : solid msk = true)
    (hSub : sub 0x20000A004001C msk = true) (hBase : Keeps msk base s) : Keeps msk base (State.ringDeliver s n) := by
  refine Keeps.step (v := 0x20000A004001C) ?_ hSolid hSub hBase
  clear hSolid hSub hBase
  unfold State.ringDeliver
  try dsimp only
  repeat' first
    | (with_reducible rfl)
    | (with_reducible exact Keeps.refl _ _)
    | (with_reducible apply Keeps.ite)
    | (with_reducible assumption)
    | (with_reducible apply State.ueDrop_step)
    | (with_reducible apply State.touchAll_step)
    | (with_reducible apply State.ringEmit_step)
    | (with_reducible apply State.fifoMsi_step)
    | (with_reducible apply State.popHead_step)
    | intro _
    | (exact (rfl : true = true))
    | split

theorem State.doorbell_step {msk : Nat} {base s : State} (m : Master) (n : ℕ) (v : Word) (hSolid : solid msk = true)
    (hSub : sub 0x10000010040000 msk = true) (hBase : Keeps msk base s) : Keeps msk base (State.doorbell s m n v) := by
  refine Keeps.step (v := 0x10000010040000) ?_ hSolid hSub hBase
  clear hSolid hSub hBase
  unfold State.doorbell
  try dsimp only
  repeat' first
    | (with_reducible rfl)
    | (with_reducible exact Keeps.refl _ _)
    | (with_reducible apply Keeps.ite)
    | (with_reducible assumption)
    | (with_reducible apply State.outside_step)
    | (with_reducible apply State.setHif_step)
    | intro _
    | (exact (rfl : true = true))
    | split

theorem State.pushChecked_step {msk : Nat} {base s : State} (n : Nat) (chain : List Nat) (len : Nat) (hSolid : solid msk = true)
    (hSub : sub 0x200008000001C msk = true) (hBase : Keeps msk base s) : Keeps msk base (State.pushChecked s n chain len) := by
  refine Keeps.step (v := 0x200008000001C) ?_ hSolid hSub hBase
  clear hSolid hSub hBase
  unfold State.pushChecked
  try dsimp only
  repeat' first
    | (with_reducible rfl)
    | (with_reducible exact Keeps.refl _ _)
    | (with_reducible apply Keeps.ite)
    | (with_reducible assumption)
    | (with_reducible apply State.touchAll_step)
    | (with_reducible apply State.pushRefused_step)
    | (with_reducible apply State.newCycle_step)
    | (with_reducible apply State.appendHost_step)
    | intro _
    | (exact (rfl : true = true))
    | split

theorem State.pushFree_step {msk : Nat} {base s : State} (n : Nat) (c : List Nat) (ws : List Word) (len : Nat)
    (hc : ∀ b ∈ c, s.buf b = .free ∧ b < 65536) (hSolid : solid msk = true) (hSub : sub 0x202004000001C msk = true)
    (hBase : Keeps msk base s) : Keeps msk base (((s.skip c.length).writeChain c ws).pushChecked n c len) := by
  refine Keeps.step (v := 0x202004000001C) ?_ hSolid hSub hBase
  have kw : Keeps 0x20021600C0000006 (s.skip c.length) ((s.skip c.length).writeChain c ws) := State.writeChain_step c ws rfl rfl (Keeps.refl _ _)
  have kp := State.pushChecked_step n c len (msk := 0x200008000001C) rfl rfl (Keeps.refl _ ((s.skip c.length).writeChain c ws))
  refine Keeps.free (c := c) (w := 0x20021600C000001E) (State.pushChecked_step _ _ _ rfl rfl (State.writeChain_step _ _ rfl rfl
    (State.skip_step _ rfl rfl (Keeps.refl _ _)))) rfl rfl hc ?_ ?_
  · intro x hx
    rw [kp.byte (.inl rfl) rfl rfl rfl rfl rfl, State.byte_writeChain_out _ _ _ _ hx]
    rfl
  · intro b hb
    refine Eq.trans ?_ (congrArg (SMap.look BufState.free · b) (kw.bufs (.inl rfl) rfl))
    generalize (s.skip c.length).writeChain c ws = u
    have kt : Keeps 0x2000000000004 u (u.touchAll (u.linkReads c)) := State.touchAll_step _ rfl rfl (Keeps.refl _ _)
    have ht := congrArg (SMap.look BufState.free · b) (kt.bufs (.inl rfl) rfl)
    unfold State.pushChecked
    dsimp only
    split
    · exact ht
    · refine Eq.trans ?_ ht
      unfold State.appendHost State.takeSeq
      dsimp only
      exact State.buf_setBufList c (u.touchAll (u.linkReads c)).newCycle .queued hb

theorem State.pushWords_step {msk : Nat} {base s : State} (n : Nat) (ws : List Word) (hSolid : solid msk = true)
    (hSub : sub 0x202004000001C msk = true) (hBase : Keeps msk base s) : Keeps msk base (State.pushWords s n ws) := by
  refine Keeps.step (v := 0x202004000001C) ?_ hSolid hSub hBase
  clear hSolid hSub hBase
  unfold State.pushWords
  split
  · exact State.pushRefused_step _ rfl rfl (Keeps.refl _ _)
  · split
    · exact State.pushRefused_step _ rfl rfl (Keeps.refl _ _)
    · rename_i c hc
      exact State.pushFree_step _ _ _ _ (fun b hb => s.freeBufs_mem _ b (pickMany_mem _ _ _ _ hc b hb)) rfl rfl
        (Keeps.refl _ _)

theorem State.fetchDone_step {msk : Nat} {base s : State} (n : ℕ) (ok : Bool) (ws : List Word) (hSolid : solid msk = true)
    (hSub : sub 0x202004004001C msk = true) (hBase : Keeps msk base s) : Keeps msk base (State.fetchDone s n ok ws) := by
  refine Keeps.step (v := 0x202004004001C) ?_ hSolid hSub hBase
  clear hSolid hSub hBase
  unfold State.fetchDone
  try dsimp only
  repeat' first
    | (with_reducible rfl)
    | (with_reducible exact Keeps.refl _ _)
    | (with_reducible apply Keeps.ite)
    | (with_reducible assumption)
    | (with_reducible apply State.setHif_step)
    | (with_reducible apply State.pushRefused_step)
    | (with_reducible apply State.pushWords_step)
    | intro _
    | (exact (rfl : true = true))
    | split

end Sys2Proof.Machine
end

