-- ==== Sys2Proof/Laws/KeepsChecks.lean ====
section
/-! SUPPORT. What each operation of Machine/Checks.lean may change (Laws/Keeps.lean reads the masks). -/

namespace Sys2Proof.Machine

set_option linter.unreachableTactic false
set_option linter.unusedTactic false

theorem regWindow_chkReg (n : Nat) (r : ChkReg) : regWindow (chkReg n r) = 16 := by
  cases r <;> simp only [chkReg, regWindow_chkCfg, regWindow_chkPoly, regWindow_chkInit, regWindow_chkXorout]

theorem State.chkStart_step {msk : Nat} {base s : State} (n : Nat) (v : Word) (hSolid : solid msk = true)
    (hSub : sub 0x1000000008000 msk = true) (hBase : Keeps msk base s) : Keeps msk base (State.chkStart s n v) := by
  refine Keeps.step (v := 0x1000000008000) ?_ hSolid hSub hBase
  clear hSolid hSub hBase
  unfold State.chkStart
  try dsimp only
  repeat' first
    | (with_reducible rfl)
    | (with_reducible exact Keeps.refl _ _)
    | (with_reducible apply Keeps.ite)
    | (with_reducible assumption)
    | (with_reducible apply Keeps.hostWrite (regWindow_chkRun ..))
    | (with_reducible apply Keeps.setBit (regWindow_chkStatus ..))
    | (with_reducible apply Keeps.setBit (regWindow_chkRun ..))
    | (with_reducible apply State.setHostRuns_step)
    | intro _
    | (exact (rfl : true = true))
    | split

theorem State.refuseCfg_step {msk : Nat} {base s : State} (n : Nat) (r : ChkReg) (v : Word) (hSolid : solid msk = true)
    (hSub : sub 0x1000000000000 msk = true) (hBase : Keeps msk base s) : Keeps msk base (State.refuseCfg s n r v) := by
  refine Keeps.step (v := 0x1000000000000) ?_ hSolid hSub hBase
  clear hSolid hSub hBase
  unfold State.refuseCfg
  try dsimp only
  repeat' first
    | (with_reducible rfl)
    | (with_reducible exact Keeps.refl _ _)
    | (with_reducible apply Keeps.ite)
    | (with_reducible assumption)
    | (with_reducible apply State.setTick_step)
    | (with_reducible apply Keeps.setBit (regWindow_chkStatus ..))
    | intro _
    | (exact (rfl : true = true))
    | split

theorem State.chkWrite_step {msk : Nat} {base s : State} (n : Nat) (r : ChkReg) (v : Word) (hSolid : solid msk = true)
    (hSub : sub 0x1000000000000 msk = true) (hBase : Keeps msk base s) : Keeps msk base (State.chkWrite s n r v) := by
  refine Keeps.step (v := 0x1000000000000) ?_ hSolid hSub hBase
  clear hSolid hSub hBase
  unfold State.chkWrite
  try dsimp only
  repeat' first
    | (with_reducible rfl)
    | (with_reducible exact Keeps.refl _ _)
    | (with_reducible apply Keeps.ite)
    | (with_reducible assumption)
    | (with_reducible apply State.refuseCfg_step)
    | (with_reducible apply Keeps.setBit (regWindow_chkStatus ..))
    | (with_reducible apply Keeps.hostWrite (regWindow_chkReg ..))
    | intro _
    | (exact (rfl : true = true))
    | split

theorem State.takeLate_step {msk : Nat} {base s : State} (n : Nat) (hSolid : solid msk = true)
    (hSub : sub 0x1000000000000 msk = true) (hBase : Keeps msk base s) : Keeps msk base (State.takeLate s n) := by
  refine Keeps.step (v := 0x1000000000000) ?_ hSolid hSub hBase
  clear hSolid hSub hBase
  unfold State.takeLate
  try dsimp only
  repeat' first
    | (with_reducible rfl)
    | (with_reducible exact Keeps.refl _ _)
    | (with_reducible apply Keeps.ite)
    | (with_reducible assumption)
    | (with_reducible apply State.setTick_step)
    | (with_reducible apply Keeps.setFld (regWindow_chkStatus ..))
    | (with_reducible apply Keeps.each)
    | (with_reducible apply State.chkWrite_step)
    | intro _
    | (exact (rfl : true = true))
    | split

theorem State.runWords_step {msk : Nat} {base s : State} (past : List (List Word)) (a k j n : Nat) (hSolid : solid msk = true)
    (hSub : sub 0x800246A06004045C msk = true) (hBase : Keeps msk base s) :
    Keeps msk base (State.runWords s past a k j n).1 := by
  induction n generalizing s a k j with
  | zero => exact hBase
  | succ n ih =>
    have h := State.fetch_step a hSolid hSub hBase
    unfold State.runWords
    dsimp only
    split
    · exact ih _ _ _ h
    · exact ih _ _ _ (State.skip_step _ hSolid (sub_trans rfl hSub) h)

theorem State.chkDone_step {msk : Nat} {base s : State} (n : Nat) (hSolid : solid msk = true)
    (hSub : sub 0x800346A06004845C msk = true) (hBase : Keeps msk base s) : Keeps msk base (State.chkDone s n) := by
  refine Keeps.step (v := 0x800346A06004845C) ?_ hSolid hSub hBase
  clear hSolid hSub hBase
  unfold State.chkDone
  try dsimp only
  repeat' first
    | (with_reducible rfl)
    | (with_reducible exact Keeps.refl _ _)
    | (with_reducible apply Keeps.ite)
    | (with_reducible assumption)
    | (with_reducible apply State.runWords_step)
    | (with_reducible apply State.setHostRuns_step)
    | (with_reducible apply Keeps.setReg (regWindow_chkResult ..))
    | (with_reducible apply State.chkResult_step)
    | (with_reducible apply Keeps.setBit (regWindow_chkRun ..))
    | (with_reducible apply Keeps.setBit (regWindow_chkStatus ..))
    | (with_reducible apply Keeps.bump (regWindow_chkStatus ..))
    | (with_reducible apply Keeps.setFld (regWindow_chkStatus ..))
    | (with_reducible apply State.takeLate_step)
    | intro _
    | (exact (rfl : true = true))
    | split

theorem State.runsTick_step {msk : Nat} {base s : State}  (hSolid : solid msk = true)
    (hSub : sub 0x1000000008000 msk = true) (hBase : Keeps msk base s) : Keeps msk base (State.runsTick s) := by
  refine Keeps.step (v := 0x1000000008000) ?_ hSolid hSub hBase
  clear hSolid hSub hBase
  unfold State.runsTick
  try dsimp only
  repeat' first
    | (with_reducible rfl)
    | (with_reducible exact Keeps.refl _ _)
    | (with_reducible apply Keeps.ite)
    | (with_reducible assumption)
    | (with_reducible apply Keeps.each)
    | (with_reducible apply State.setHostRuns_step)
    | (with_reducible apply Keeps.setBit (regWindow_chkStatus ..))
    | (with_reducible apply Keeps.setBit (regWindow_chkRun ..))
    | intro _
    | (exact (rfl : true = true))
    | split

end Sys2Proof.Machine
end

