-- ==== Sys2Proof/Laws/KeepsLantern.lean ====
section
/-! SUPPORT. What each operation of Machine/Lantern.lean may change (Laws/Keeps.lean reads the masks). -/

namespace Sys2Proof.Machine

set_option linter.unreachableTactic false
set_option linter.unusedTactic false

theorem regWindow_lntReg (k : Nat) : regWindow (lntReg k) = 23 := by
  unfold lntReg; split_ifs <;> simp only [regWindow_lntCfg, regWindow_lntPort, regWindow_lntBase, regWindow_lntLast]

theorem State.setLnt_step {msk : Nat} {base s : State} (k : ℕ) (w : Word) (hSolid : solid msk = true)
    (hSub : sub 0x80000000020000 msk = true) (hBase : Keeps msk base s) : Keeps msk base (State.setLnt s k w) := by
  refine Keeps.step (v := 0x80000000020000) ?_ hSolid hSub hBase
  clear hSolid hSub hBase
  unfold State.setLnt
  try dsimp only
  repeat' first
    | (with_reducible rfl)
    | (with_reducible exact Keeps.refl _ _)
    | (with_reducible apply Keeps.ite)
    | (with_reducible assumption)
    | (with_reducible apply State.setLantern_step)
    | (with_reducible apply Keeps.setReg (regWindow_lntReg ..))
    | intro _
    | (exact (rfl : true = true))
    | split

theorem State.setBase_step {msk : Nat} {base s : State} (e : Nat) (old w : Word) (hSolid : solid msk = true)
    (hSub : sub 0x80000000020000 msk = true) (hBase : Keeps msk base s) : Keeps msk base (State.setBase s e old w) := by
  refine Keeps.step (v := 0x80000000020000) ?_ hSolid hSub hBase
  clear hSolid hSub hBase
  unfold State.setBase
  try dsimp only
  repeat' first
    | (with_reducible rfl)
    | (with_reducible exact Keeps.refl _ _)
    | (with_reducible apply Keeps.ite)
    | (with_reducible assumption)
    | (with_reducible apply State.setLnt_step)
    | intro _
    | (exact (rfl : true = true))
    | split

theorem State.takePing_step {msk : Nat} {base s : State} (e : Nat) (amp : BitVec 12) (phase : BitVec 8) (hSolid : solid msk = true)
    (hSub : sub 0x80000000020000 msk = true) (hBase : Keeps msk base s) : Keeps msk base (State.takePing s e amp phase) := by
  refine Keeps.step (v := 0x80000000020000) ?_ hSolid hSub hBase
  clear hSolid hSub hBase
  unfold State.takePing
  try dsimp only
  repeat' first
    | (with_reducible rfl)
    | (with_reducible exact Keeps.refl _ _)
    | (with_reducible apply Keeps.ite)
    | (with_reducible assumption)
    | (with_reducible apply State.setBase_step)
    | (with_reducible apply State.setLnt_step)
    | (with_reducible apply State.setLantern_step)
    | (with_reducible apply Keeps.bump regWindow_lntStatus)
    | intro _
    | (exact (rfl : true = true))
    | split

theorem State.burst_step {msk : Nat} {base s : State} (e p : Nat) (hSolid : solid msk = true)
    (hSub : sub 0x20020200 msk = true) (hBase : Keeps msk base s) : Keeps msk base (State.burst s e p) := by
  refine Keeps.step (v := 0x20020200) ?_ hSolid hSub hBase
  clear hSolid hSub hBase
  unfold State.burst
  try dsimp only
  repeat' first
    | (with_reducible rfl)
    | (with_reducible exact Keeps.refl _ _)
    | (with_reducible apply Keeps.ite)
    | (with_reducible assumption)
    | (with_reducible apply State.latchPing_step)
    | (with_reducible apply State.setLantern_step)
    | (with_reducible apply State.sliceTo_step)
    | (with_reducible apply State.emit_step)
    | intro _
    | (exact (rfl : true = true))
    | split

theorem State.burstOver_step {msk : Nat} {base s : State}  (hSolid : solid msk = true)
    (hSub : sub 0x20020200 msk = true) (hBase : Keeps msk base s) : Keeps msk base (State.burstOver s) := by
  refine Keeps.step (v := 0x20020200) ?_ hSolid hSub hBase
  clear hSolid hSub hBase
  unfold State.burstOver
  try dsimp only
  repeat' first
    | (with_reducible rfl)
    | (with_reducible exact Keeps.refl _ _)
    | (with_reducible apply Keeps.ite)
    | (with_reducible assumption)
    | (with_reducible apply State.setLantern_step)
    | (with_reducible apply State.burst_step)
    | (with_reducible apply State.sliceTo_step)
    | intro _
    | (exact (rfl : true = true))
    | split

theorem State.nextBurst_step {msk : Nat} {base s : State}  (hSolid : solid msk = true)
    (hSub : sub 0x20020200 msk = true) (hBase : Keeps msk base s) : Keeps msk base (State.nextBurst s) := by
  refine Keeps.step (v := 0x20020200) ?_ hSolid hSub hBase
  clear hSolid hSub hBase
  unfold State.nextBurst
  try dsimp only
  repeat' first
    | (with_reducible rfl)
    | (with_reducible exact Keeps.refl _ _)
    | (with_reducible apply Keeps.ite)
    | (with_reducible assumption)
    | (with_reducible apply State.setLantern_step)
    | (with_reducible apply State.burst_step)
    | intro _
    | (exact (rfl : true = true))
    | split

theorem State.watchRound_step {msk : Nat} {base s : State}  (hSolid : solid msk = true)
    (hSub : sub 0x20020200 msk = true) (hBase : Keeps msk base s) : Keeps msk base (State.watchRound s) := by
  refine Keeps.step (v := 0x20020200) ?_ hSolid hSub hBase
  clear hSolid hSub hBase
  unfold State.watchRound
  try dsimp only
  repeat' first
    | (with_reducible rfl)
    | (with_reducible exact Keeps.refl _ _)
    | (with_reducible apply Keeps.ite)
    | (with_reducible assumption)
    | (with_reducible apply State.setLantern_step)
    | (with_reducible apply State.nextBurst_step)
    | intro _
    | (exact (rfl : true = true))
    | split

theorem State.confirmPing_step {msk : Nat} {base s : State} (e : Nat) (hSolid : solid msk = true)
    (hSub : sub 0x20020200 msk = true) (hBase : Keeps msk base s) : Keeps msk base (State.confirmPing s e) := by
  refine Keeps.step (v := 0x20020200) ?_ hSolid hSub hBase
  clear hSolid hSub hBase
  unfold State.confirmPing
  try dsimp only
  repeat' first
    | (with_reducible rfl)
    | (with_reducible exact Keeps.refl _ _)
    | (with_reducible apply Keeps.ite)
    | (with_reducible assumption)
    | (with_reducible apply State.burst_step)
    | (with_reducible apply State.setLantern_step)
    | intro _
    | (exact (rfl : true = true))
    | split

theorem State.watchPing_step {msk : Nat} {base s : State} (e : Nat) (amp : BitVec 12) (phase : BitVec 8) (hSolid : solid msk = true)
    (hSub : sub 0x8080000020020200 msk = true) (hBase : Keeps msk base s) : Keeps msk base (State.watchPing s e amp phase) := by
  refine Keeps.step (v := 0x8080000020020200) ?_ hSolid hSub hBase
  clear hSolid hSub hBase
  unfold State.watchPing
  try dsimp only
  repeat' first
    | (with_reducible rfl)
    | (with_reducible exact Keeps.refl _ _)
    | (with_reducible apply Keeps.ite)
    | (with_reducible assumption)
    | (with_reducible apply State.takePing_step)
    | (with_reducible apply State.burstOver_step)
    | (with_reducible apply Keeps.setBit regWindow_lntStatus)
    | (with_reducible apply Keeps.setFld regWindow_lntStatus)
    | (with_reducible apply State.takeReset_step)
    | (with_reducible apply State.setLantern_step)
    | (with_reducible apply State.nextBurst_step)
    | intro _
    | (exact (rfl : true = true))
    | split

theorem State.lanternInhibit_step {msk : Nat} {base s : State}  (hSolid : solid msk = true)
    (hSub : sub 0x20020200 msk = true) (hBase : Keeps msk base s) : Keeps msk base (State.lanternInhibit s) := by
  refine Keeps.step (v := 0x20020200) ?_ hSolid hSub hBase
  clear hSolid hSub hBase
  unfold State.lanternInhibit
  try dsimp only
  repeat' first
    | (with_reducible rfl)
    | (with_reducible exact Keeps.refl _ _)
    | (with_reducible apply Keeps.ite)
    | (with_reducible assumption)
    | (with_reducible apply State.burstOver_step)
    | (with_reducible apply State.setLantern_step)
    | intro _
    | (exact (rfl : true = true))
    | split

theorem State.pingDone_step {msk : Nat} {base s : State} (e : Nat) (amp : BitVec 12) (phase : BitVec 8) (hSolid : solid msk = true)
    (hSub : sub 0x908202006206029C msk = true) (hBase : Keeps msk base s) : Keeps msk base (State.pingDone s e amp phase) := by
  refine Keeps.step (v := 0x908202006206029C) ?_ hSolid hSub hBase
  clear hSolid hSub hBase
  unfold State.pingDone
  try dsimp only
  repeat' first
    | (with_reducible rfl)
    | (with_reducible exact Keeps.refl _ _)
    | (with_reducible apply Keeps.ite)
    | (with_reducible assumption)
    | (with_reducible apply State.burst_step)
    | (with_reducible apply State.watchPing_step)
    | (with_reducible apply State.takePing_step)
    | (with_reducible apply State.event_step)
    | (with_reducible apply State.pingOver_step)
    | intro _
    | (exact (rfl : true = true))
    | split

theorem State.lntStatusWrite_step {msk : Nat} {base s : State} (v : Word) (hSolid : solid msk = true)
    (hSub : sub 0x80000000000000 msk = true) (hBase : Keeps msk base s) : Keeps msk base (State.lntStatusWrite s v) := by
  refine Keeps.step (v := 0x80000000000000) ?_ hSolid hSub hBase
  clear hSolid hSub hBase
  unfold State.lntStatusWrite
  try dsimp only
  repeat' first
    | (with_reducible rfl)
    | (with_reducible exact Keeps.refl _ _)
    | (with_reducible apply Keeps.ite)
    | (with_reducible assumption)
    | (with_reducible apply Keeps.setBit regWindow_lntStatus)
    | (with_reducible apply Keeps.setFld regWindow_lntStatus)
    | intro _
    | (exact (rfl : true = true))
    | split

end Sys2Proof.Machine
end

