-- ==== Sys2Proof/Laws/KeepsCabinet.lean ====
section
/-! SUPPORT. What each operation of Machine/Cabinet.lean may change (Laws/Keeps.lean reads the masks). -/

namespace Sys2Proof.Machine

set_option linter.unreachableTactic false
set_option linter.unusedTactic false

theorem State.hfInhibit_step {msk : Nat} {base s : State} (n : Nat) (hSolid : solid msk = true)
    (hSub : sub 0x200 msk = true) (hBase : Keeps msk base s) : Keeps msk base (State.hfInhibit s n) := by
  refine Keeps.step (v := 0x200) ?_ hSolid hSub hBase
  clear hSolid hSub hBase
  unfold State.hfInhibit
  try dsimp only
  repeat' first
    | (with_reducible rfl)
    | (with_reducible exact Keeps.refl _ _)
    | (with_reducible apply Keeps.ite)
    | (with_reducible assumption)
    | (with_reducible apply State.setSlice_step)
    | (with_reducible apply State.restSlice_step)
    | (with_reducible apply State.sliceTo_step)
    | (with_reducible apply State.modSlice_step)
    | intro _
    | (exact (rfl : true = true))
    | split

theorem State.uhfInhibit_step {msk : Nat} {base s : State} (n : Nat) (hSolid : solid msk = true)
    (hSub : sub 0x200 msk = true) (hBase : Keeps msk base s) : Keeps msk base (State.uhfInhibit s n) := by
  refine Keeps.step (v := 0x200) ?_ hSolid hSub hBase
  clear hSolid hSub hBase
  unfold State.uhfInhibit
  try dsimp only
  repeat' first
    | (with_reducible rfl)
    | (with_reducible exact Keeps.refl _ _)
    | (with_reducible apply Keeps.ite)
    | (with_reducible assumption)
    | (with_reducible apply State.modSlice_step)
    | (with_reducible apply State.darkSlice_step)
    | intro _
    | (exact (rfl : true = true))
    | split

theorem State.inhibitOn_step {msk : Nat} {base s : State}  (hSolid : solid msk = true)
    (hSub : sub 0x14628B20E38567DC msk = true) (hBase : Keeps msk base s) : Keeps msk base (State.inhibitOn s) := by
  refine Keeps.step (v := 0x14628B20E38567DC) ?_ hSolid hSub hBase
  clear hSolid hSub hBase
  unfold State.inhibitOn
  try dsimp only
  repeat' first
    | (with_reducible rfl)
    | (with_reducible exact Keeps.refl _ _)
    | (with_reducible apply Keeps.ite)
    | (with_reducible assumption)
    | (with_reducible apply Keeps.each)
    | (with_reducible apply State.stopRadio_step)
    | (with_reducible apply State.uhfInhibit_step)
    | (with_reducible apply State.pinsSafe_step)
    | (with_reducible apply State.awnInhibit_step)
    | (with_reducible apply State.hfInhibit_step)
    | (with_reducible apply State.modPort_step)
    | (with_reducible apply State.setCab_step)
    | (with_reducible apply State.driveCxp_step)
    | intro _
    | (exact (rfl : true = true))
    | split

theorem State.setInhibit_step {msk : Nat} {base s : State} (a b : Bool) (hSolid : solid msk = true)
    (hSub : sub 0x1C628B20E38767DC msk = true) (hBase : Keeps msk base s) : Keeps msk base (State.setInhibit s a b) := by
  refine Keeps.step (v := 0x1C628B20E38767DC) ?_ hSolid hSub hBase
  clear hSolid hSub hBase
  unfold State.setInhibit
  try dsimp only
  repeat' first
    | (with_reducible rfl)
    | (with_reducible exact Keeps.refl _ _)
    | (with_reducible apply Keeps.ite)
    | (with_reducible assumption)
    | (with_reducible apply State.setCab_step)
    | (with_reducible apply State.showInhibit_step)
    | (with_reducible apply Keeps.bumpSat regWindow_cabRfoffStatus)
    | (with_reducible apply State.trace_step)
    | (with_reducible apply State.inhibitOn_step)
    | (with_reducible apply State.lanternInhibit_step)
    | intro _
    | (exact (rfl : true = true))
    | split

theorem State.uhfRestored_step {msk : Nat} {base s : State}  (hSolid : solid msk = true)
    (hSub : sub 0x1000200 msk = true) (hBase : Keeps msk base s) : Keeps msk base (State.uhfRestored s) := by
  refine Keeps.step (v := 0x1000200) ?_ hSolid hSub hBase
  clear hSolid hSub hBase
  unfold State.uhfRestored
  try dsimp only
  repeat' first
    | (with_reducible rfl)
    | (with_reducible exact Keeps.refl _ _)
    | (with_reducible apply Keeps.ite)
    | (with_reducible assumption)
    | (with_reducible apply Keeps.each)
    | (with_reducible apply State.sliceTo_step)
    | (with_reducible apply State.setCab_step)
    | intro _
    | (exact (rfl : true = true))
    | split

theorem State.rfoffSample_step {msk : Nat} {base s : State}  (hSolid : solid msk = true)
    (hSub : sub 0x800000000000000 msk = true) (hBase : Keeps msk base s) : Keeps msk base (State.rfoffSample s) := by
  refine Keeps.step (v := 0x800000000000000) ?_ hSolid hSub hBase
  clear hSolid hSub hBase
  unfold State.rfoffSample
  try dsimp only
  repeat' first
    | (with_reducible rfl)
    | (with_reducible exact Keeps.refl _ _)
    | (with_reducible apply Keeps.ite)
    | (with_reducible assumption)
    | (with_reducible apply Keeps.setFld regWindow_cabRfoffStatus)
    | (with_reducible apply Keeps.setBit regWindow_cabRfoffStatus)
    | (with_reducible apply State.showInhibit_step)
    | intro _
    | (exact (rfl : true = true))
    | split

theorem State.gpioCfg_step {msk : Nat} {base s : State} (n : Nat) (v : Word) (hSolid : solid msk = true)
    (hSub : sub 0x800000001000000 msk = true) (hBase : Keeps msk base s) : Keeps msk base (State.gpioCfg s n v) := by
  refine Keeps.step (v := 0x800000001000000) ?_ hSolid hSub hBase
  clear hSolid hSub hBase
  unfold State.gpioCfg
  try dsimp only
  repeat' first
    | (with_reducible rfl)
    | (with_reducible exact Keeps.refl _ _)
    | (with_reducible apply Keeps.ite)
    | (with_reducible assumption)
    | (with_reducible apply Keeps.hostWrite (regWindow_cabGpioCfg ..))
    | (with_reducible apply State.setCab_step)
    | intro _
    | (exact (rfl : true = true))
    | split

theorem State.gpioSetBits_step {msk : Nat} {base s : State} (v : Word) (hSolid : solid msk = true)
    (hSub : sub 0x800000000000000 msk = true) (hBase : Keeps msk base s) : Keeps msk base (State.gpioSetBits s v) := by
  refine Keeps.step (v := 0x800000000000000) ?_ hSolid hSub hBase
  clear hSolid hSub hBase
  unfold State.gpioSetBits
  try dsimp only
  repeat' first
    | (with_reducible rfl)
    | (with_reducible exact Keeps.refl _ _)
    | (with_reducible apply Keeps.ite)
    | (with_reducible assumption)
    | (with_reducible apply Keeps.setReg regWindow_cabGpioOut)
    | intro _
    | (exact (rfl : true = true))
    | split

theorem State.gpioClrBits_step {msk : Nat} {base s : State} (v : Word) (hSolid : solid msk = true)
    (hSub : sub 0x800000000000000 msk = true) (hBase : Keeps msk base s) : Keeps msk base (State.gpioClrBits s v) := by
  refine Keeps.step (v := 0x800000000000000) ?_ hSolid hSub hBase
  clear hSolid hSub hBase
  unfold State.gpioClrBits
  try dsimp only
  repeat' first
    | (with_reducible rfl)
    | (with_reducible exact Keeps.refl _ _)
    | (with_reducible apply Keeps.ite)
    | (with_reducible assumption)
    | (with_reducible apply Keeps.setReg regWindow_cabGpioOut)
    | intro _
    | (exact (rfl : true = true))
    | split

theorem State.edgeAt_step {msk : Nat} {base s : State} (t p : Nat) (hSolid : solid msk = true)
    (hSub : sub 0x8020200600400DC msk = true) (hBase : Keeps msk base s) : Keeps msk base (State.edgeAt s t p) := by
  refine Keeps.step (v := 0x8020200600400DC) ?_ hSolid hSub hBase
  clear hSolid hSub hBase
  unfold State.edgeAt
  try dsimp only
  repeat' first
    | (with_reducible rfl)
    | (with_reducible exact Keeps.refl _ _)
    | (with_reducible apply Keeps.ite)
    | (with_reducible assumption)
    | (with_reducible apply State.setLatch_step)
    | (with_reducible apply State.putRun_step)
    | (with_reducible apply State.inertReport_step)
    | intro _
    | (exact (rfl : true = true))
    | split

theorem State.acceptEdge_step {msk : Nat} {base s : State} (t : Nat) (sw : Bool) (hSolid : solid msk = true)
    (hSub : sub 0x18020200630400DC msk = true) (hBase : Keeps msk base s) : Keeps msk base (State.acceptEdge s t sw) := by
  refine Keeps.step (v := 0x18020200630400DC) ?_ hSolid hSub hBase
  clear hSolid hSub hBase
  unfold State.acceptEdge
  try dsimp only
  repeat' first
    | (with_reducible rfl)
    | (with_reducible exact Keeps.refl _ _)
    | (with_reducible apply Keeps.ite)
    | (with_reducible assumption)
    | (with_reducible apply Keeps.bump (regWindow_cabTrig ..))
    | (with_reducible apply State.trace_step)
    | (with_reducible apply State.setCab_step)
    | (with_reducible apply Keeps.foldl)
    | (with_reducible apply State.edgeAt_step)
    | (with_reducible apply State.setLatch_step)
    | intro _
    | (exact (rfl : true = true))
    | split

theorem State.triggerEdge_step {msk : Nat} {base s : State} (t : Nat) (o : EdgeObs) (hSolid : solid msk = true)
    (hSub : sub 0x18020200630400DC msk = true) (hBase : Keeps msk base s) : Keeps msk base (State.triggerEdge s t o) := by
  refine Keeps.step (v := 0x18020200630400DC) ?_ hSolid hSub hBase
  clear hSolid hSub hBase
  unfold State.triggerEdge
  try dsimp only
  repeat' first
    | (with_reducible rfl)
    | (with_reducible exact Keeps.refl _ _)
    | (with_reducible apply Keeps.ite)
    | (with_reducible assumption)
    | (with_reducible apply State.setCab_step)
    | (with_reducible apply State.acceptEdge_step)
    | intro _
    | (exact (rfl : true = true))
    | split

theorem State.triggerSw_step {msk : Nat} {base s : State} (t : ℕ) (hSolid : solid msk = true)
    (hSub : sub 0x18020200630400DC msk = true) (hBase : Keeps msk base s) : Keeps msk base (State.triggerSw s t) := by
  refine Keeps.step (v := 0x18020200630400DC) ?_ hSolid hSub hBase
  clear hSolid hSub hBase
  unfold State.triggerSw
  try dsimp only
  repeat' first
    | (with_reducible rfl)
    | (with_reducible exact Keeps.refl _ _)
    | (with_reducible apply Keeps.ite)
    | (with_reducible assumption)
    | (with_reducible apply State.acceptEdge_step)
    | intro _
    | (exact (rfl : true = true))
    | split

end Sys2Proof.Machine
end

