-- ==== Sys2Proof/Laws/KeepsSpare.lean ====
section
/-! SUPPORT. What each operation of Machine/Spare.lean may change (Laws/Keeps.lean reads the masks). -/

namespace Sys2Proof.Machine

set_option linter.unreachableTactic false
set_option linter.unusedTactic false

theorem State.rotationDue_step {msk : Nat} {base s : State} (k : Kind) (hSolid : solid msk = true)
    (hSub : sub 0x100000000100200 msk = true) (hBase : Keeps msk base s) : Keeps msk base (State.rotationDue s k) := by
  refine Keeps.step (v := 0x100000000100200) ?_ hSolid hSub hBase
  clear hSolid hSub hBase
  unfold State.rotationDue
  try dsimp only
  repeat' first
    | (with_reducible rfl)
    | (with_reducible exact Keeps.refl _ _)
    | (with_reducible apply Keeps.ite)
    | (with_reducible assumption)
    | (with_reducible apply State.setRotor_step)
    | (with_reducible apply State.setSpare_step)
    | (with_reducible apply State.toLoad_step)
    | intro _
    | (exact (rfl : true = true))
    | split

theorem State.hltCtrl_step {msk : Nat} {base s : State} (v : Word) (hSolid : solid msk = true)
    (hSub : sub 0x100000000100000 msk = true) (hBase : Keeps msk base s) : Keeps msk base (State.hltCtrl s v) := by
  refine Keeps.step (v := 0x100000000100000) ?_ hSolid hSub hBase
  clear hSolid hSub hBase
  unfold State.hltCtrl
  try dsimp only
  repeat' first
    | (with_reducible rfl)
    | (with_reducible exact Keeps.refl _ _)
    | (with_reducible apply Keeps.ite)
    | (with_reducible assumption)
    | (with_reducible apply State.setRotor_step)
    | (with_reducible apply State.setSpare_step)
    | (with_reducible apply Keeps.setFld regWindow_hltCtrl)
    | intro _
    | (exact (rfl : true = true))
    | split

theorem State.checkpoint_step {msk : Nat} {base s : State} (p : Nat) (live : List Word) (hSolid : solid msk = true)
    (hSub : sub 0x2002000000100004 msk = true) (hBase : Keeps msk base s) : Keeps msk base (State.checkpoint s p live) := by
  refine Keeps.step (v := 0x2002000000100004) ?_ hSolid hSub hBase
  clear hSolid hSub hBase
  unfold State.checkpoint
  try dsimp only
  repeat' first
    | (with_reducible rfl)
    | (with_reducible exact Keeps.refl _ _)
    | (with_reducible apply Keeps.ite)
    | (with_reducible assumption)
    | (with_reducible apply State.saveSlot_step)
    | intro _
    | (exact (rfl : true = true))
    | split

theorem State.startXfer_step {msk : Nat} {base s : State} (k : Kind) (p : ℕ) (toSpare : Bool) (cover : Bool) (hSolid : solid msk = true)
    (hSub : sub 0x100000 msk = true) (hBase : Keeps msk base s) : Keeps msk base (State.startXfer s k p toSpare cover) := by
  refine Keeps.step (v := 0x100000) ?_ hSolid hSub hBase
  clear hSolid hSub hBase
  unfold State.startXfer
  try dsimp only
  repeat' first
    | (with_reducible rfl)
    | (with_reducible exact Keeps.refl _ _)
    | (with_reducible apply Keeps.ite)
    | (with_reducible assumption)
    | (with_reducible apply State.setRotor_step)
    | intro _
    | (exact (rfl : true = true))
    | split

theorem State.handover_step {msk : Nat} {base s : State} (k : Kind) (hSolid : solid msk = true)
    (hSub : sub 0x100000000100000 msk = true) (hBase : Keeps msk base s) : Keeps msk base (State.handover s k) := by
  refine Keeps.step (v := 0x100000000100000) ?_ hSolid hSub hBase
  clear hSolid hSub hBase
  unfold State.handover
  try dsimp only
  repeat' first
    | (with_reducible rfl)
    | (with_reducible exact Keeps.refl _ _)
    | (with_reducible apply Keeps.ite)
    | (with_reducible assumption)
    | (with_reducible apply State.startXfer_step)
    | (with_reducible apply State.setWaiting_step)
    | (with_reducible apply State.setRotor_step)
    | intro _
    | (exact (rfl : true = true))
    | split

theorem State.giveBack_step {msk : Nat} {base s : State} (k : Kind) (hSolid : solid msk = true)
    (hSub : sub 0x100000 msk = true) (hBase : Keeps msk base s) : Keeps msk base (State.giveBack s k) := by
  refine Keeps.step (v := 0x100000) ?_ hSolid hSub hBase
  clear hSolid hSub hBase
  unfold State.giveBack
  try dsimp only
  repeat' first
    | (with_reducible rfl)
    | (with_reducible exact Keeps.refl _ _)
    | (with_reducible apply Keeps.ite)
    | (with_reducible assumption)
    | (with_reducible apply State.startXfer_step)
    | intro _
    | (exact (rfl : true = true))
    | split

theorem State.saveXfer_step {msk : Nat} {base s : State} (t : Transfer) (live : List Word) (hSolid : solid msk = true)
    (hSub : sub 0x2002000040100004 msk = true) (hBase : Keeps msk base s) : Keeps msk base (State.saveXfer s t live) := by
  refine Keeps.step (v := 0x2002000040100004) ?_ hSolid hSub hBase
  clear hSolid hSub hBase
  unfold State.saveXfer
  try dsimp only
  repeat' first
    | (with_reducible rfl)
    | (with_reducible exact Keeps.refl _ _)
    | (with_reducible apply Keeps.ite)
    | (with_reducible assumption)
    | (with_reducible apply State.saveSlot_step)
    | (with_reducible apply State.breakSlot_step)
    | intro _
    | (exact (rfl : true = true))
    | split

theorem State.loadSlice_step {msk : Nat} {base s : State} (t : Transfer) (live : List Word) (hSolid : solid msk = true)
    (hSub : sub 0x20020B006014031C msk = true) (hBase : Keeps msk base s) : Keeps msk base (State.loadSlice s t live) := by
  refine Keeps.step (v := 0x20020B006014031C) ?_ hSolid hSub hBase
  clear hSolid hSub hBase
  unfold State.loadSlice
  try dsimp only
  repeat' first
    | (with_reducible rfl)
    | (with_reducible exact Keeps.refl _ _)
    | (with_reducible apply Keeps.ite)
    | (with_reducible assumption)
    | (with_reducible apply State.saveXfer_step)
    | (with_reducible apply State.touchAll_step)
    | (with_reducible apply State.modSlice_step)
    | (with_reducible apply State.headBack_step)
    | (with_reducible apply State.modPort_step)
    | (with_reducible apply State.health_step)
    | (with_reducible apply Keeps.setHeadFld)
    | intro _
    | (exact (rfl : true = true))
    | split

theorem State.onSpare_step {msk : Nat} {base s : State} (k : Kind) (t : Transfer) (hSolid : solid msk = true)
    (hSub : sub 0x210202006014031C msk = true) (hBase : Keeps msk base s) : Keeps msk base (State.onSpare s k t) := by
  refine Keeps.step (v := 0x210202006014031C) ?_ hSolid hSub hBase
  clear hSolid hSub hBase
  unfold State.onSpare
  try dsimp only
  repeat' first
    | (with_reducible rfl)
    | (with_reducible exact Keeps.refl _ _)
    | (with_reducible apply Keeps.ite)
    | (with_reducible assumption)
    | (with_reducible apply State.modPort_step)
    | (with_reducible apply State.showSpare_step)
    | (with_reducible apply State.sliceShow_step)
    | (with_reducible apply State.toLoad_step)
    | (with_reducible apply State.modSlice_step)
    | (with_reducible apply Keeps.setBit (regWindow_hltSliceStatus ..))
    | (with_reducible apply State.health_step)
    | (with_reducible apply State.portBack_step)
    | (with_reducible apply State.spareLost_step)
    | intro _
    | (exact (rfl : true = true))
    | split

theorem State.onOwn_step {msk : Nat} {base s : State} (k : Kind) (t : Transfer) (hSolid : solid msk = true)
    (hSub : sub 0x10202006014031C msk = true) (hBase : Keeps msk base s) : Keeps msk base (State.onOwn s k t) := by
  refine Keeps.step (v := 0x10202006014031C) ?_ hSolid hSub hBase
  clear hSolid hSub hBase
  unfold State.onOwn
  try dsimp only
  repeat' first
    | (with_reducible rfl)
    | (with_reducible exact Keeps.refl _ _)
    | (with_reducible apply Keeps.ite)
    | (with_reducible assumption)
    | (with_reducible apply State.modPort_step)
    | (with_reducible apply State.showSpare_step)
    | (with_reducible apply State.sliceShow_step)
    | (with_reducible apply State.setRotor_step)
    | (with_reducible apply State.portFailed_step)
    | (with_reducible apply State.sliceTo_step)
    | (with_reducible apply State.portBack_step)
    | intro _
    | (exact (rfl : true = true))
    | split

theorem State.transferDone_step {msk : Nat} {base s : State} (k : Kind) (live : List Word) (hSolid : solid msk = true)
    (hSub : sub 0x35228B20629467DC msk = true) (hBase : Keeps msk base s) : Keeps msk base (State.transferDone s k live) := by
  refine Keeps.step (v := 0x35228B20629467DC) ?_ hSolid hSub hBase
  clear hSolid hSub hBase
  unfold State.transferDone
  try dsimp only
  repeat' first
    | (with_reducible rfl)
    | (with_reducible exact Keeps.refl _ _)
    | (with_reducible apply Keeps.ite)
    | (with_reducible assumption)
    | (with_reducible apply State.setRotor_step)
    | (with_reducible apply State.loadSlice_step)
    | (with_reducible apply State.onSpare_step)
    | (with_reducible apply State.onOwn_step)
    | (with_reducible apply State.driveCxp_step)
    | (with_reducible apply State.trace_step)
    | intro _
    | (exact (rfl : true = true))
    | split

theorem State.setTerms_step {msk : Nat} {base s : State} (n : Nat) (vals : List Int) (hSolid : solid msk = true)
    (hSub : sub 0x100000000000200 msk = true) (hBase : Keeps msk base s) : Keeps msk base (State.setTerms s n vals) := by
  refine Keeps.step (v := 0x100000000000200) ?_ hSolid hSub hBase
  clear hSolid hSub hBase
  unfold State.setTerms
  try dsimp only
  repeat' first
    | (with_reducible rfl)
    | (with_reducible exact Keeps.refl _ _)
    | (with_reducible apply Keeps.ite)
    | (with_reducible assumption)
    | (with_reducible apply State.modSlice_step)
    | (with_reducible apply State.showTerms_step)
    | intro _
    | (exact (rfl : true = true))
    | split

theorem State.correctSlice_step {msk : Nat} {base s : State} (n : ℕ) (vals : List ℤ) (step : Bool) (hSolid : solid msk = true)
    (hSub : sub 0x100000000000200 msk = true) (hBase : Keeps msk base s) : Keeps msk base (State.correctSlice s n vals step) := by
  refine Keeps.step (v := 0x100000000000200) ?_ hSolid hSub hBase
  clear hSolid hSub hBase
  unfold State.correctSlice
  try dsimp only
  repeat' first
    | (with_reducible rfl)
    | (with_reducible exact Keeps.refl _ _)
    | (with_reducible apply Keeps.ite)
    | (with_reducible assumption)
    | (with_reducible apply State.modSlice_step)
    | (with_reducible apply Keeps.setBit (regWindow_hltSliceStatus _))
    | intro _
    | (exact (rfl : true = true))
    | split

theorem State.headroom_step {msk : Nat} {base s : State} (n : Nat) (h : Int) (cfg : Word) (hSolid : solid msk = true)
    (hSub : sub 0x10202006014001C msk = true) (hBase : Keeps msk base s) : Keeps msk base (State.headroom s n h cfg) := by
  refine Keeps.step (v := 0x10202006014001C) ?_ hSolid hSub hBase
  clear hSolid hSub hBase
  unfold State.headroom
  try dsimp only
  repeat' first
    | (with_reducible rfl)
    | (with_reducible exact Keeps.refl _ _)
    | (with_reducible apply Keeps.ite)
    | (with_reducible assumption)
    | (with_reducible apply Keeps.setFld (regWindow_hltSliceStatus ..))
    | (with_reducible apply State.health_step)
    | (with_reducible apply State.logRec_step)
    | intro _
    | (exact (rfl : true = true))
    | split

theorem State.calAgree_step {msk : Nat} {base s : State} (n : Nat) (a b : List Int) (h : Int) (cfg : Word) (step : Bool) (hSolid : solid msk = true)
    (hSub : sub 0x10202006014021C msk = true) (hBase : Keeps msk base s) : Keeps msk base (State.calAgree s n a b h cfg step) := by
  refine Keeps.step (v := 0x10202006014021C) ?_ hSolid hSub hBase
  clear hSolid hSub hBase
  unfold State.calAgree
  try dsimp only
  repeat' first
    | (with_reducible rfl)
    | (with_reducible exact Keeps.refl _ _)
    | (with_reducible apply Keeps.ite)
    | (with_reducible assumption)
    | (with_reducible apply Keeps.setFld (regWindow_hltSliceStatus ..))
    | (with_reducible apply Keeps.bump (regWindow_hltSliceStatus ..))
    | (with_reducible apply Keeps.setReg (regWindow_hltCalTime ..))
    | (with_reducible apply State.headroom_step)
    | (with_reducible apply State.setTerms_step)
    | (with_reducible apply State.correctSlice_step)
    | intro _
    | (exact (rfl : true = true))
    | split

theorem State.calOver_step {msk : Nat} {base s : State} (k : Kind) (stop : ℕ) (hSolid : solid msk = true)
    (hSub : sub 0x100000 msk = true) (hBase : Keeps msk base s) : Keeps msk base (State.calOver s k stop) := by
  refine Keeps.step (v := 0x100000) ?_ hSolid hSub hBase
  clear hSolid hSub hBase
  unfold State.calOver
  try dsimp only
  repeat' first
    | (with_reducible rfl)
    | (with_reducible exact Keeps.refl _ _)
    | (with_reducible apply Keeps.ite)
    | (with_reducible assumption)
    | (with_reducible apply State.setRotor_step)
    | intro _
    | (exact (rfl : true = true))
    | split

theorem State.calCompare_step {msk : Nat} {base s : State} (k : Kind) (a b : List Int) (h : Int) (hSolid : solid msk = true)
    (hSub : sub 0x31228320621463DC msk = true) (hBase : Keeps msk base s) : Keeps msk base (State.calCompare s k a b h) := by
  refine Keeps.step (v := 0x31228320621463DC) ?_ hSolid hSub hBase
  clear hSolid hSub hBase
  unfold State.calCompare
  try dsimp only
  repeat' first
    | (with_reducible rfl)
    | (with_reducible exact Keeps.refl _ _)
    | (with_reducible apply Keeps.ite)
    | (with_reducible assumption)
    | (with_reducible apply State.failSlice_step)
    | (with_reducible apply Keeps.setFld (regWindow_hltSliceStatus ..))
    | (with_reducible apply State.health_step)
    | (with_reducible apply State.calOver_step)
    | (with_reducible apply State.setSpare_step)
    | (with_reducible apply State.calAgree_step)
    | intro _
    | (exact (rfl : true = true))
    | split

theorem State.slew_step {msk : Nat} {base s : State} (n : ℕ) (hSolid : solid msk = true)
    (hSub : sub 0x100000000000200 msk = true) (hBase : Keeps msk base s) : Keeps msk base (State.slew s n) := by
  refine Keeps.step (v := 0x100000000000200) ?_ hSolid hSub hBase
  clear hSolid hSub hBase
  unfold State.slew
  try dsimp only
  repeat' first
    | (with_reducible rfl)
    | (with_reducible exact Keeps.refl _ _)
    | (with_reducible apply Keeps.ite)
    | (with_reducible assumption)
    | (with_reducible apply State.setSlice_step)
    | (with_reducible apply Keeps.setBit (regWindow_hltSliceStatus _))
    | intro _
    | (exact (rfl : true = true))
    | split

theorem State.sliceFailed_step {msk : Nat} {base s : State} (n : ℕ) (cause : ℕ) (hSolid : solid msk = true)
    (hSub : sub 0x31228320621463DC msk = true) (hBase : Keeps msk base s) : Keeps msk base (State.sliceFailed s n cause) := by
  refine Keeps.step (v := 0x31228320621463DC) ?_ hSolid hSub hBase
  clear hSolid hSub hBase
  unfold State.sliceFailed
  try dsimp only
  repeat' first
    | (with_reducible rfl)
    | (with_reducible exact Keeps.refl _ _)
    | (with_reducible apply Keeps.ite)
    | (with_reducible assumption)
    | (with_reducible apply State.failSlice_step)
    | intro _
    | (exact (rfl : true = true))
    | split

theorem State.linkFail_step {msk : Nat} {base s : State} (die : ℕ) (hSolid : solid msk = true)
    (hSub : sub 0xB1228320621463DC msk = true) (hBase : Keeps msk base s) : Keeps msk base (State.linkFail s die) := by
  refine Keeps.step (v := 0xB1228320621463DC) ?_ hSolid hSub hBase
  clear hSolid hSub hBase
  unfold State.linkFail
  try dsimp only
  repeat' first
    | (with_reducible rfl)
    | (with_reducible exact Keeps.refl _ _)
    | (with_reducible apply Keeps.ite)
    | (with_reducible assumption)
    | (with_reducible apply State.eccCritical_step)
    | (with_reducible apply State.health_step)
    | (with_reducible apply State.failSlice_step)
    | (with_reducible apply Keeps.each)
    | intro _
    | (exact (rfl : true = true))
    | split

end Sys2Proof.Machine
end

