-- ==== Sys2Proof/Laws/KeepsAgeing.lean ====
section
/-! SUPPORT. What each operation of Machine/Ageing.lean may change (Laws/Keeps.lean reads the masks). -/

namespace Sys2Proof.Machine

set_option linter.unreachableTactic false
set_option linter.unusedTactic false

theorem State.ageMeasure_step {msk : Nat} {base s : State} (counts : List (Nat × Nat)) (hSolid : solid msk = true)
    (hSub : sub 0x100000040100000 msk = true) (hBase : Keeps msk base s) : Keeps msk base (State.ageMeasure s counts) := by
  refine Keeps.step (v := 0x100000040100000) ?_ hSolid hSub hBase
  clear hSolid hSub hBase
  unfold State.ageMeasure
  try dsimp only
  repeat' first
    | (with_reducible rfl)
    | (with_reducible exact Keeps.refl _ _)
    | (with_reducible apply Keeps.ite)
    | (with_reducible assumption)
    | (with_reducible apply State.setHlt_step)
    | (with_reducible apply Keeps.each)
    | (with_reducible apply Keeps.setReg (regWindow_hltAge ..))
    | (with_reducible apply State.skip_step)
    | intro _
    | (exact (rfl : true = true))
    | split

theorem State.setAvs_step {msk : Nat} {base s : State} (c : Nat) (mu : Int) (hSolid : solid msk = true)
    (hSub : sub 0x100000000100000 msk = true) (hBase : Keeps msk base s) : Keeps msk base (State.setAvs s c mu) := by
  refine Keeps.step (v := 0x100000000100000) ?_ hSolid hSub hBase
  clear hSolid hSub hBase
  unfold State.setAvs
  try dsimp only
  repeat' first
    | (with_reducible rfl)
    | (with_reducible exact Keeps.refl _ _)
    | (with_reducible apply Keeps.ite)
    | (with_reducible assumption)
    | (with_reducible apply Keeps.setFld regWindow_hltAvs)
    | (with_reducible apply State.logRec_step)
    | intro _
    | (exact (rfl : true = true))
    | split

theorem State.avsLimit_step {msk : Nat} {base s : State} (mu : ℤ) (hSolid : solid msk = true)
    (hSub : sub 0x10202006014001C msk = true) (hBase : Keeps msk base s) : Keeps msk base (State.avsLimit s mu) := by
  refine Keeps.step (v := 0x10202006014001C) ?_ hSolid hSub hBase
  clear hSolid hSub hBase
  unfold State.avsLimit
  try dsimp only
  repeat' first
    | (with_reducible rfl)
    | (with_reducible exact Keeps.refl _ _)
    | (with_reducible apply Keeps.ite)
    | (with_reducible assumption)
    | (with_reducible apply State.health_step)
    | (with_reducible apply State.setHlt_step)
    | (with_reducible apply Keeps.setBit regWindow_hltAvs)
    | intro _
    | (exact (rfl : true = true))
    | split

theorem State.avs_step {msk : Nat} {base s : State} (mu : Int) (hSolid : solid msk = true)
    (hSub : sub 0x10202006014001C msk = true) (hBase : Keeps msk base s) : Keeps msk base (State.avs s mu) := by
  refine Keeps.step (v := 0x10202006014001C) ?_ hSolid hSub hBase
  clear hSolid hSub hBase
  unfold State.avs
  try dsimp only
  repeat' first
    | (with_reducible rfl)
    | (with_reducible exact Keeps.refl _ _)
    | (with_reducible apply Keeps.ite)
    | (with_reducible assumption)
    | (with_reducible apply State.setHlt_step)
    | (with_reducible apply Keeps.setFld regWindow_hltAvs)
    | (with_reducible apply State.avsLimit_step)
    | (with_reducible apply State.setAvs_step)
    | intro _
    | (exact (rfl : true = true))
    | split

theorem State.ageSummary_step {msk : Nat} {base s : State}  (hSolid : solid msk = true)
    (hSub : sub 0x100000 msk = true) (hBase : Keeps msk base s) : Keeps msk base (State.ageSummary s) := by
  refine Keeps.step (v := 0x100000) ?_ hSolid hSub hBase
  clear hSolid hSub hBase
  unfold State.ageSummary
  try dsimp only
  repeat' first
    | (with_reducible rfl)
    | (with_reducible exact Keeps.refl _ _)
    | (with_reducible apply Keeps.ite)
    | (with_reducible assumption)
    | (with_reducible apply State.setHlt_step)
    | (with_reducible apply State.logRec_step)
    | intro _
    | (exact (rfl : true = true))
    | split

theorem State.rateWindowEnd_step {msk : Nat} {base s : State} (type : BitVec 8) (hSolid : solid msk = true)
    (hSub : sub 0x100000 msk = true) (hBase : Keeps msk base s) : Keeps msk base (State.rateWindowEnd s type) := by
  refine Keeps.step (v := 0x100000) ?_ hSolid hSub hBase
  clear hSolid hSub hBase
  unfold State.rateWindowEnd
  try dsimp only
  repeat' first
    | (with_reducible rfl)
    | (with_reducible exact Keeps.refl _ _)
    | (with_reducible apply Keeps.ite)
    | (with_reducible assumption)
    | (with_reducible apply State.setHlt_step)
    | intro _
    | (exact (rfl : true = true))
    | split

end Sys2Proof.Machine
end

