-- ==== Sys2Proof/Laws/KeepsFlash.lean ====
section
/-! SUPPORT. What each operation of Machine/Flash.lean may change (Laws/Keeps.lean reads the masks). -/

namespace Sys2Proof.Machine

set_option linter.unreachableTactic false
set_option linter.unusedTactic false

theorem State.flashPut_step {msk : Nat} {base s : State} (a : ℕ) (x2 : List Byte) (hSolid : solid msk = true)
    (hSub : sub 0x200000 msk = true) (hBase : Keeps msk base s) : Keeps msk base (State.flashPut s a x2) := by
  refine Keeps.step (v := 0x200000) ?_ hSolid hSub hBase
  clear hSolid hSub hBase
  fun_induction State.flashPut s a x2
  all_goals
    try dsimp only
    repeat' first
      | (with_reducible rfl)
      | (with_reducible exact Keeps.refl _ _)
      | (with_reducible apply Keeps.ite)
      | (with_reducible assumption)
      | (with_reducible refine Keeps.trans ?_ ?_ (by assumption))
      | (with_reducible apply State.setFlash_step _ (fun h => (SMap.wf_put (fun _ => (0xFF : Byte)) _ _ _ h)))
      | (with_reducible apply State.setFlash_step _ (fun h => (SMap.wf_filter _ _ _ h)))
      | (with_reducible apply State.setFlash_step _ (fun _ => rfl))
      | intro _
      | (exact (rfl : true = true))
      | split

theorem State.flashErase_step {msk : Nat} {base s : State} (lo : ℕ) (hi : ℕ) (hSolid : solid msk = true)
    (hSub : sub 0x200000 msk = true) (hBase : Keeps msk base s) : Keeps msk base (State.flashErase s lo hi) := by
  refine Keeps.step (v := 0x200000) ?_ hSolid hSub hBase
  clear hSolid hSub hBase
  unfold State.flashErase
  try dsimp only
  repeat' first
    | (with_reducible rfl)
    | (with_reducible exact Keeps.refl _ _)
    | (with_reducible apply Keeps.ite)
    | (with_reducible assumption)
    | (with_reducible apply State.setFlash_step _ (fun h => (SMap.wf_put (fun _ => (0xFF : Byte)) _ _ _ h)))
    | (with_reducible apply State.setFlash_step _ (fun h => (SMap.wf_filter _ _ _ h)))
    | (with_reducible apply State.setFlash_step _ (fun _ => rfl))
    | intro _
    | (exact (rfl : true = true))
    | split

theorem State.logOver_step {msk : Nat} {base s : State} (written : Bool) (hSolid : solid msk = true)
    (hSub : sub 0x1000100000 msk = true) (hBase : Keeps msk base s) : Keeps msk base (State.logOver s written) := by
  refine Keeps.step (v := 0x1000100000) ?_ hSolid hSub hBase
  clear hSolid hSub hBase
  unfold State.logOver
  try dsimp only
  repeat' first
    | (with_reducible rfl)
    | (with_reducible exact Keeps.refl _ _)
    | (with_reducible apply Keeps.ite)
    | (with_reducible assumption)
    | (with_reducible apply State.setHlt_step)
    | (with_reducible apply Keeps.setBit regWindow_cfgStatus)
    | intro _
    | (exact (rfl : true = true))
    | split

theorem State.logWrite_step {msk : Nat} {base s : State} (good : Bool) (hSolid : solid msk = true)
    (hSub : sub 0x1040300000 msk = true) (hBase : Keeps msk base s) : Keeps msk base (State.logWrite s good) := by
  refine Keeps.step (v := 0x1040300000) ?_ hSolid hSub hBase
  clear hSolid hSub hBase
  unfold State.logWrite
  try dsimp only
  repeat' first
    | (with_reducible rfl)
    | (with_reducible exact Keeps.refl _ _)
    | (with_reducible apply Keeps.ite)
    | (with_reducible assumption)
    | (with_reducible apply State.flashPut_step)
    | (with_reducible apply State.logOver_step)
    | (with_reducible apply State.setHlt_step)
    | (with_reducible apply State.skip_step)
    | intro _
    | (exact (rfl : true = true))
    | split

theorem State.logErase_step {msk : Nat} {base s : State}  (hSolid : solid msk = true)
    (hSub : sub 0x200000 msk = true) (hBase : Keeps msk base s) : Keeps msk base (State.logErase s) := by
  refine Keeps.step (v := 0x200000) ?_ hSolid hSub hBase
  clear hSolid hSub hBase
  unfold State.logErase
  try dsimp only
  repeat' first
    | (with_reducible rfl)
    | (with_reducible exact Keeps.refl _ _)
    | (with_reducible apply Keeps.ite)
    | (with_reducible assumption)
    | (with_reducible apply State.flashErase_step)
    | intro _
    | (exact (rfl : true = true))
    | split

theorem State.logScan_step {msk : Nat} {base s : State} (sfdp : Bool) (hSolid : solid msk = true)
    (hSub : sub 0x100001000100020 msk = true) (hBase : Keeps msk base s) : Keeps msk base (State.logScan s sfdp).1 := by
  refine Keeps.step (v := 0x100001000100020) ?_ hSolid hSub hBase
  clear hSolid hSub hBase
  unfold State.logScan
  try dsimp only
  repeat' first
    | (with_reducible rfl)
    | (with_reducible exact Keeps.refl _ _)
    | (with_reducible apply Keeps.ite)
    | (with_reducible assumption)
    | (with_reducible apply State.setHlt_step)
    | (with_reducible apply Keeps.setFld regWindow_hltAvs)
    | (with_reducible apply Keeps.setBit regWindow_cfgStatus)
    | (with_reducible apply State.setBoot_step _ (fun h => h))
    | (with_reducible apply State.setBoot_step _ (by simp))
    | intro _
    | (exact (rfl : true = true))
    | split

theorem State.flashCmd_step {msk : Nat} {base s : State} (op : Nat) (addr : BitVec 32) (hSolid : solid msk = true)
    (hSub : sub 0x1000000020 msk = true) (hBase : Keeps msk base s) : Keeps msk base (State.flashCmd s op addr) := by
  refine Keeps.step (v := 0x1000000020) ?_ hSolid hSub hBase
  clear hSolid hSub hBase
  unfold State.flashCmd
  try dsimp only
  repeat' first
    | (with_reducible rfl)
    | (with_reducible exact Keeps.refl _ _)
    | (with_reducible apply Keeps.ite)
    | (with_reducible assumption)
    | (with_reducible apply Keeps.setReg regWindow_cfgFlashCmd)
    | (with_reducible apply Keeps.setBit regWindow_cfgFlashStatus)
    | (with_reducible apply Keeps.setBit regWindow_cfgFlashCmd)
    | (with_reducible apply State.setTick_step)
    | (with_reducible apply State.setBoot_step _ (fun h => h))
    | (with_reducible apply State.setBoot_step _ (by simp))
    | intro _
    | (exact (rfl : true = true))
    | split

theorem State.flashDone_step {msk : Nat} {base s : State} (good : Bool) (hSolid : solid msk = true)
    (hSub : sub 0x1040200020 msk = true) (hBase : Keeps msk base s) : Keeps msk base (State.flashDone s good) := by
  refine Keeps.step (v := 0x1040200020) ?_ hSolid hSub hBase
  clear hSolid hSub hBase
  unfold State.flashDone
  try dsimp only
  repeat' first
    | (with_reducible rfl)
    | (with_reducible exact Keeps.refl _ _)
    | (with_reducible apply Keeps.ite)
    | (with_reducible assumption)
    | (with_reducible apply State.setBoot_step _ (fun h => h))
    | (with_reducible apply State.setBoot_step _ (by simp))
    | (with_reducible apply State.flashErase_step)
    | (with_reducible apply State.flashPut_step)
    | (with_reducible apply State.skip_step)
    | (with_reducible apply Keeps.setReg (regWindow_cfgFlashData _))
    | (with_reducible apply Keeps.setBit regWindow_cfgFlashStatus)
    | (with_reducible apply Keeps.setBit regWindow_cfgFlashCmd)
    | (with_reducible apply Keeps.each)
    | intro _
    | (exact (rfl : true = true))
    | split

end Sys2Proof.Machine
end

