-- ==== Sys2Proof/Laws/KeepsGuyline.lean ====
section
/-! SUPPORT. What each operation of Machine/Guyline.lean may change (Laws/Keeps.lean reads the masks). -/

namespace Sys2Proof.Machine

set_option linter.unreachableTactic false
set_option linter.unusedTactic false

theorem State.guyTrace_step {msk : Nat} {base s : State} (node : ℕ) (type : ℕ) (how : ℕ) (hSolid : solid msk = true)
    (hSub : sub 0x1000000002000000 msk = true) (hBase : Keeps msk base s) : Keeps msk base (State.guyTrace s node type how) := by
  refine Keeps.step (v := 0x1000000002000000) ?_ hSolid hSub hBase
  clear hSolid hSub hBase
  unfold State.guyTrace
  try dsimp only
  repeat' first
    | (with_reducible rfl)
    | (with_reducible exact Keeps.refl _ _)
    | (with_reducible apply Keeps.ite)
    | (with_reducible assumption)
    | (with_reducible apply State.trace_step)
    | intro _
    | (exact (rfl : true = true))
    | split

theorem State.setLanes_step {msk : Nat} {base s : State} (new : Word) (hSolid : solid msk = true)
    (hSub : sub 0x16228B20628467DC msk = true) (hBase : Keeps msk base s) : Keeps msk base (State.setLanes s new) := by
  refine Keeps.step (v := 0x16228B20628467DC) ?_ hSolid hSub hBase
  clear hSolid hSub hBase
  unfold State.setLanes
  try dsimp only
  repeat' first
    | (with_reducible rfl)
    | (with_reducible exact Keeps.refl _ _)
    | (with_reducible apply Keeps.ite)
    | (with_reducible assumption)
    | (with_reducible apply Keeps.setReg regWindow_guyLaneHeld)
    | (with_reducible apply Keeps.each)
    | (with_reducible apply State.mediumLost_step)
    | (with_reducible apply State.driveCxp_step)
    | intro _
    | (exact (rfl : true = true))
    | split

theorem State.dropLanes_step {msk : Nat} {base s : State}  (hSolid : solid msk = true)
    (hSub : sub 0x16228B2062C467DC msk = true) (hBase : Keeps msk base s) : Keeps msk base (State.dropLanes s) := by
  refine Keeps.step (v := 0x16228B2062C467DC) ?_ hSolid hSub hBase
  clear hSolid hSub hBase
  unfold State.dropLanes
  try dsimp only
  repeat' first
    | (with_reducible rfl)
    | (with_reducible exact Keeps.refl _ _)
    | (with_reducible apply Keeps.ite)
    | (with_reducible assumption)
    | (with_reducible apply State.setLanes_step)
    | (with_reducible apply State.setGuy_step)
    | intro _
    | (exact (rfl : true = true))
    | split

theorem State.followBeacon_step {msk : Nat} {base s : State} (src at_ endAt nextTicks : Nat) (number : BitVec 32) (roll : BitVec 32) (grants : List Byte) (hSolid : solid msk = true)
    (hSub : sub 0x16228B2062C467DC msk = true) (hBase : Keeps msk base s) : Keeps msk base (State.followBeacon s src at_ endAt nextTicks number roll grants) := by
  refine Keeps.step (v := 0x16228B2062C467DC) ?_ hSolid hSub hBase
  clear hSolid hSub hBase
  unfold State.followBeacon
  try dsimp only
  repeat' first
    | (with_reducible rfl)
    | (with_reducible exact Keeps.refl _ _)
    | (with_reducible apply Keeps.ite)
    | (with_reducible assumption)
    | (with_reducible apply State.setGuy_step)
    | (with_reducible apply Keeps.setReg regWindow_guyStatus)
    | (with_reducible apply State.setLanes_step)
    | intro _
    | (exact (rfl : true = true))
    | split

theorem State.ageAcks_step {msk : Nat} {base s : State}  (hSolid : solid msk = true)
    (hSub : sub 0x400000 msk = true) (hBase : Keeps msk base s) : Keeps msk base (State.ageAcks s) := by
  refine Keeps.step (v := 0x400000) ?_ hSolid hSub hBase
  clear hSolid hSub hBase
  unfold State.ageAcks
  try dsimp only
  repeat' first
    | (with_reducible rfl)
    | (with_reducible exact Keeps.refl _ _)
    | (with_reducible apply Keeps.ite)
    | (with_reducible assumption)
    | (with_reducible apply State.setGuy_step)
    | intro _
    | (exact (rfl : true = true))
    | split

theorem State.hearBeacon_step {msk : Nat} {base s : State} (f : BeaconFrame) (hSolid : solid msk = true)
    (hSub : sub 0x16228B2062C467DC msk = true) (hBase : Keeps msk base s) : Keeps msk base (State.hearBeacon s f) := by
  refine Keeps.step (v := 0x16228B2062C467DC) ?_ hSolid hSub hBase
  clear hSolid hSub hBase
  unfold State.hearBeacon
  try dsimp only
  repeat' first
    | (with_reducible rfl)
    | (with_reducible exact Keeps.refl _ _)
    | (with_reducible apply Keeps.ite)
    | (with_reducible assumption)
    | (with_reducible apply Keeps.setBit regWindow_guyStatus)
    | (with_reducible apply Keeps.setReg regWindow_guySync)
    | (with_reducible apply State.guyTrace_step)
    | (with_reducible apply State.ageAcks_step)
    | (with_reducible apply State.followBeacon_step)
    | (with_reducible apply State.setGuy_step)
    | intro _
    | (exact (rfl : true = true))
    | split

theorem State.hearAck_step {msk : Nat} {base s : State} (f : AckFrame) (hSolid : solid msk = true)
    (hSub : sub 0x1000000002400000 msk = true) (hBase : Keeps msk base s) : Keeps msk base (State.hearAck s f) := by
  refine Keeps.step (v := 0x1000000002400000) ?_ hSolid hSub hBase
  clear hSolid hSub hBase
  unfold State.hearAck
  try dsimp only
  repeat' first
    | (with_reducible rfl)
    | (with_reducible exact Keeps.refl _ _)
    | (with_reducible apply Keeps.ite)
    | (with_reducible assumption)
    | (with_reducible apply State.guyTrace_step)
    | (with_reducible apply State.setGuy_step)
    | intro _
    | (exact (rfl : true = true))
    | split

theorem State.badFrame_step {msk : Nat} {base s : State} (type src : Byte) (rest : List Byte) (hSolid : solid msk = true)
    (hSub : sub 0x1200000002000000 msk = true) (hBase : Keeps msk base s) : Keeps msk base (State.badFrame s type src rest) := by
  refine Keeps.step (v := 0x1200000002000000) ?_ hSolid hSub hBase
  clear hSolid hSub hBase
  unfold State.badFrame
  try dsimp only
  repeat' first
    | (with_reducible rfl)
    | (with_reducible exact Keeps.refl _ _)
    | (with_reducible apply Keeps.ite)
    | (with_reducible assumption)
    | (with_reducible apply Keeps.bumpSat regWindow_guyStatus)
    | (with_reducible apply State.guyTrace_step)
    | intro _
    | (exact (rfl : true = true))
    | split

theorem State.beaconSkip_step {msk : Nat} {base s : State} (start : Nat) (hSolid : solid msk = true)
    (hSub : sub 0x400000 msk = true) (hBase : Keeps msk base s) : Keeps msk base (State.beaconSkip s start) := by
  refine Keeps.step (v := 0x400000) ?_ hSolid hSub hBase
  clear hSolid hSub hBase
  unfold State.beaconSkip
  try dsimp only
  repeat' first
    | (with_reducible rfl)
    | (with_reducible exact Keeps.refl _ _)
    | (with_reducible apply Keeps.ite)
    | (with_reducible assumption)
    | (with_reducible apply State.setGuy_step)
    | intro _
    | (exact (rfl : true = true))
    | split

theorem State.beaconVoid_step {msk : Nat} {base s : State} (start : Nat) (hSolid : solid msk = true)
    (hSub : sub 0x1200000002400000 msk = true) (hBase : Keeps msk base s) : Keeps msk base (State.beaconVoid s start) := by
  refine Keeps.step (v := 0x1200000002400000) ?_ hSolid hSub hBase
  clear hSolid hSub hBase
  unfold State.beaconVoid
  try dsimp only
  repeat' first
    | (with_reducible rfl)
    | (with_reducible exact Keeps.refl _ _)
    | (with_reducible apply Keeps.ite)
    | (with_reducible assumption)
    | (with_reducible apply Keeps.setBit regWindow_guyStatus)
    | (with_reducible apply Keeps.bumpSat regWindow_guyStatus)
    | (with_reducible apply State.guyTrace_step)
    | (with_reducible apply State.setGuy_step)
    | intro _
    | (exact (rfl : true = true))
    | split

theorem State.beaconSent_step {msk : Nat} {base s : State} (start : Nat) (hSolid : solid msk = true)
    (hSub : sub 0x16228B2062C467DC msk = true) (hBase : Keeps msk base s) : Keeps msk base (State.beaconSent s start) := by
  refine Keeps.step (v := 0x16228B2062C467DC) ?_ hSolid hSub hBase
  clear hSolid hSub hBase
  unfold State.beaconSent
  try dsimp only
  repeat' first
    | (with_reducible rfl)
    | (with_reducible exact Keeps.refl _ _)
    | (with_reducible apply Keeps.ite)
    | (with_reducible assumption)
    | (with_reducible apply Keeps.setBit regWindow_guyStatus)
    | (with_reducible apply State.emit_step)
    | (with_reducible apply State.guyTrace_step)
    | (with_reducible apply State.setGuy_step)
    | (with_reducible apply State.followBeacon_step)
    | (with_reducible apply State.ageAcks_step)
    | intro _
    | (exact (rfl : true = true))
    | split

theorem State.sendBeacon_step {msk : Nat} {base s : State} (bus : BusSeen) (hSolid : solid msk = true)
    (hSub : sub 0x16228B2062C467DC msk = true) (hBase : Keeps msk base s) : Keeps msk base (State.sendBeacon s bus) := by
  refine Keeps.step (v := 0x16228B2062C467DC) ?_ hSolid hSub hBase
  clear hSolid hSub hBase
  unfold State.sendBeacon
  try dsimp only
  repeat' first
    | (with_reducible rfl)
    | (with_reducible exact Keeps.refl _ _)
    | (with_reducible apply Keeps.ite)
    | (with_reducible assumption)
    | (with_reducible apply State.beaconSkip_step)
    | (with_reducible apply State.beaconVoid_step)
    | (with_reducible apply State.beaconSent_step)
    | intro _
    | (exact (rfl : true = true))
    | split

theorem State.sendAck_step {msk : Nat} {base s : State} (bus : BusSeen) (hSolid : solid msk = true)
    (hSub : sub 0x1200000022400000 msk = true) (hBase : Keeps msk base s) : Keeps msk base (State.sendAck s bus) := by
  refine Keeps.step (v := 0x1200000022400000) ?_ hSolid hSub hBase
  clear hSolid hSub hBase
  unfold State.sendAck
  try dsimp only
  repeat' first
    | (with_reducible rfl)
    | (with_reducible exact Keeps.refl _ _)
    | (with_reducible apply Keeps.ite)
    | (with_reducible assumption)
    | (with_reducible apply State.setGuy_step)
    | (with_reducible apply Keeps.bumpSat regWindow_guyStatus)
    | (with_reducible apply Keeps.setBit regWindow_guyStatus)
    | (with_reducible apply State.guyTrace_step)
    | (with_reducible apply State.emit_step)
    | intro _
    | (exact (rfl : true = true))
    | split

theorem State.masterTimeout_step {msk : Nat} {base s : State}  (hSolid : solid msk = true)
    (hSub : sub 0x200000000400000 msk = true) (hBase : Keeps msk base s) : Keeps msk base (State.masterTimeout s) := by
  refine Keeps.step (v := 0x200000000400000) ?_ hSolid hSub hBase
  clear hSolid hSub hBase
  unfold State.masterTimeout
  try dsimp only
  repeat' first
    | (with_reducible rfl)
    | (with_reducible exact Keeps.refl _ _)
    | (with_reducible apply Keeps.ite)
    | (with_reducible assumption)
    | (with_reducible apply Keeps.setBit regWindow_guyStatus)
    | (with_reducible apply State.setGuy_step)
    | intro _
    | (exact (rfl : true = true))
    | split

theorem State.beaconRetry_step {msk : Nat} {base s : State}  (hSolid : solid msk = true)
    (hSub : sub 0x400000 msk = true) (hBase : Keeps msk base s) : Keeps msk base (State.beaconRetry s) := by
  refine Keeps.step (v := 0x400000) ?_ hSolid hSub hBase
  clear hSolid hSub hBase
  unfold State.beaconRetry
  try dsimp only
  repeat' first
    | (with_reducible rfl)
    | (with_reducible exact Keeps.refl _ _)
    | (with_reducible apply Keeps.ite)
    | (with_reducible assumption)
    | (with_reducible apply State.setGuy_step)
    | intro _
    | (exact (rfl : true = true))
    | split

theorem State.holdGranted_step {msk : Nat} {base s : State}  (hSolid : solid msk = true)
    (hSub : sub 0x200000000400000 msk = true) (hBase : Keeps msk base s) : Keeps msk base (State.holdGranted s) := by
  refine Keeps.step (v := 0x200000000400000) ?_ hSolid hSub hBase
  clear hSolid hSub hBase
  unfold State.holdGranted
  try dsimp only
  repeat' first
    | (with_reducible rfl)
    | (with_reducible exact Keeps.refl _ _)
    | (with_reducible apply Keeps.ite)
    | (with_reducible assumption)
    | (with_reducible apply State.setGuy_step)
    | (with_reducible apply Keeps.setReg regWindow_guyLaneHeld)
    | intro _
    | (exact (rfl : true = true))
    | split

theorem State.holdSolo_step {msk : Nat} {base s : State}  (hSolid : solid msk = true)
    (hSub : sub 0x200000000400000 msk = true) (hBase : Keeps msk base s) : Keeps msk base (State.holdSolo s) := by
  refine Keeps.step (v := 0x200000000400000) ?_ hSolid hSub hBase
  clear hSolid hSub hBase
  unfold State.holdSolo
  try dsimp only
  repeat' first
    | (with_reducible rfl)
    | (with_reducible exact Keeps.refl _ _)
    | (with_reducible apply Keeps.ite)
    | (with_reducible assumption)
    | (with_reducible apply State.setGuy_step)
    | (with_reducible apply Keeps.setBit regWindow_guyStatus)
    | (with_reducible apply Keeps.setReg regWindow_guyLaneHeld)
    | intro _
    | (exact (rfl : true = true))
    | split

theorem State.grantStart_step {msk : Nat} {base s : State}  (hSolid : solid msk = true)
    (hSub : sub 0x200000000400000 msk = true) (hBase : Keeps msk base s) : Keeps msk base (State.grantStart s) := by
  refine Keeps.step (v := 0x200000000400000) ?_ hSolid hSub hBase
  clear hSolid hSub hBase
  unfold State.grantStart
  try dsimp only
  repeat' first
    | (with_reducible rfl)
    | (with_reducible exact Keeps.refl _ _)
    | (with_reducible apply Keeps.ite)
    | (with_reducible assumption)
    | (with_reducible apply State.holdGranted_step)
    | (with_reducible apply State.holdSolo_step)
    | intro _
    | (exact (rfl : true = true))
    | split

theorem State.laneDeadline_step {msk : Nat} {base s : State}  (hSolid : solid msk = true)
    (hSub : sub 0x16228B2062C467DC msk = true) (hBase : Keeps msk base s) : Keeps msk base (State.laneDeadline s) := by
  refine Keeps.step (v := 0x16228B2062C467DC) ?_ hSolid hSub hBase
  clear hSolid hSub hBase
  unfold State.laneDeadline
  try dsimp only
  repeat' first
    | (with_reducible rfl)
    | (with_reducible exact Keeps.refl _ _)
    | (with_reducible apply Keeps.ite)
    | (with_reducible assumption)
    | (with_reducible apply State.dropLanes_step)
    | intro _
    | (exact (rfl : true = true))
    | split

theorem State.guyCfgWrite_step {msk : Nat} {base s : State} (v : Word) (hSolid : solid msk = true)
    (hSub : sub 0x16228B2062C467DC msk = true) (hBase : Keeps msk base s) : Keeps msk base (State.guyCfgWrite s v) := by
  refine Keeps.step (v := 0x16228B2062C467DC) ?_ hSolid hSub hBase
  clear hSolid hSub hBase
  unfold State.guyCfgWrite
  try dsimp only
  repeat' first
    | (with_reducible rfl)
    | (with_reducible exact Keeps.refl _ _)
    | (with_reducible apply Keeps.ite)
    | (with_reducible assumption)
    | (with_reducible apply Keeps.hostWrite regWindow_guyCfg)
    | (with_reducible apply State.setGuy_step)
    | (with_reducible apply State.dropLanes_step)
    | (with_reducible apply Keeps.setBit regWindow_guyStatus)
    | intro _
    | (exact (rfl : true = true))
    | split

theorem State.laneReqWrite_step {msk : Nat} {base s : State} (v : Word) (hSolid : solid msk = true)
    (hSub : sub 0x16228B20628467DC msk = true) (hBase : Keeps msk base s) : Keeps msk base (State.laneReqWrite s v) := by
  refine Keeps.step (v := 0x16228B20628467DC) ?_ hSolid hSub hBase
  clear hSolid hSub hBase
  unfold State.laneReqWrite
  try dsimp only
  repeat' first
    | (with_reducible rfl)
    | (with_reducible exact Keeps.refl _ _)
    | (with_reducible apply Keeps.ite)
    | (with_reducible assumption)
    | (with_reducible apply Keeps.hostWrite regWindow_guyLaneReq)
    | (with_reducible apply State.setLanes_step)
    | intro _
    | (exact (rfl : true = true))
    | split

end Sys2Proof.Machine
end

