-- ==== Sys2Proof/Laws/KeepsTraceTap.lean ====
section
/-! SUPPORT. What each operation of Machine/TraceTap.lean may change (Laws/Keeps.lean reads the masks). -/

namespace Sys2Proof.Machine

set_option linter.unreachableTactic false
set_option linter.unusedTactic false

theorem State.traceOut_step {msk : Nat} {base s : State}  (hSolid : solid msk = true)
    (hSub : sub 0x22000000 msk = true) (hBase : Keeps msk base s) : Keeps msk base (State.traceOut s) := by
  refine Keeps.step (v := 0x22000000) ?_ hSolid hSub hBase
  clear hSolid hSub hBase
  unfold State.traceOut
  try dsimp only
  repeat' first
    | (with_reducible rfl)
    | (with_reducible exact Keeps.refl _ _)
    | (with_reducible apply Keeps.ite)
    | (with_reducible assumption)
    | (with_reducible apply State.setTrl_step)
    | (with_reducible apply State.emit_step)
    | intro _
    | (exact (rfl : true = true))
    | split

theorem State.traceDrain_step {msk : Nat} {base s : State}  (hSolid : solid msk = true)
    (hSub : sub 0x1002100022000004 msk = true) (hBase : Keeps msk base s) : Keeps msk base (State.traceDrain s) := by
  refine Keeps.step (v := 0x1002100022000004) ?_ hSolid hSub hBase
  clear hSolid hSub hBase
  unfold State.traceDrain
  try dsimp only
  repeat' first
    | (with_reducible rfl)
    | (with_reducible exact Keeps.refl _ _)
    | (with_reducible apply Keeps.ite)
    | (with_reducible assumption)
    | (with_reducible apply State.traceFlow_step)
    | (with_reducible apply Keeps.each)
    | (with_reducible apply State.emit_step)
    | (with_reducible apply State.setTrl_step)
    | intro _
    | (exact (rfl : true = true))
    | split

theorem State.trlCfgWrite_step {msk : Nat} {base s : State} (v : Word) (hSolid : solid msk = true)
    (hSub : sub 0x1000000002000000 msk = true) (hBase : Keeps msk base s) : Keeps msk base (State.trlCfgWrite s v) := by
  refine Keeps.step (v := 0x1000000002000000) ?_ hSolid hSub hBase
  clear hSolid hSub hBase
  unfold State.trlCfgWrite
  try dsimp only
  repeat' first
    | (with_reducible rfl)
    | (with_reducible exact Keeps.refl _ _)
    | (with_reducible apply Keeps.ite)
    | (with_reducible assumption)
    | (with_reducible apply Keeps.hostWrite regWindow_trlCfg)
    | (with_reducible apply Keeps.setFld regWindow_trlCfg)
    | (with_reducible apply State.setTrl_step)
    | intro _
    | (exact (rfl : true = true))
    | split

theorem State.tapCapture_step {msk : Nat} {base s : State} (all : Bool) (hSolid : solid msk = true)
    (hSub : sub 0x44000000 msk = true) (hBase : Keeps msk base s) : Keeps msk base (State.tapCapture s all) := by
  refine Keeps.step (v := 0x44000000) ?_ hSolid hSub hBase
  clear hSolid hSub hBase
  unfold State.tapCapture
  try dsimp only
  repeat' first
    | (with_reducible rfl)
    | (with_reducible exact Keeps.refl _ _)
    | (with_reducible apply Keeps.ite)
    | (with_reducible assumption)
    | (with_reducible apply State.setTap_step)
    | (with_reducible apply State.skip_step)
    | intro _
    | (exact (rfl : true = true))
    | split

theorem State.scanOut_step {msk : Nat} {base s : State}  (hSolid : solid msk = true)
    (hSub : sub 0x20000000 msk = true) (hBase : Keeps msk base s) : Keeps msk base (State.scanOut s) := by
  refine Keeps.step (v := 0x20000000) ?_ hSolid hSub hBase
  clear hSolid hSub hBase
  unfold State.scanOut
  try dsimp only
  repeat' first
    | (with_reducible rfl)
    | (with_reducible exact Keeps.refl _ _)
    | (with_reducible apply Keeps.ite)
    | (with_reducible assumption)
    | (with_reducible apply State.emit_step)
    | intro _
    | (exact (rfl : true = true))
    | split

theorem State.tapShift_step {msk : Nat} {base s : State}  (hSolid : solid msk = true)
    (hSub : sub 0x44000000 msk = true) (hBase : Keeps msk base s) : Keeps msk base (State.tapShift s) := by
  refine Keeps.step (v := 0x44000000) ?_ hSolid hSub hBase
  clear hSolid hSub hBase
  unfold State.tapShift
  try dsimp only
  repeat' first
    | (with_reducible rfl)
    | (with_reducible exact Keeps.refl _ _)
    | (with_reducible apply Keeps.ite)
    | (with_reducible assumption)
    | (with_reducible apply State.setTap_step)
    | (with_reducible apply State.skip_step)
    | intro _
    | (exact (rfl : true = true))
    | split

theorem State.scanTake_step {msk : Nat} {base s : State}  (hSolid : solid msk = true)
    (hSub : sub 0x146A8BA0E3C567FC msk = true) (hBase : Keeps msk base s) : Keeps msk base (State.scanTake s) := by
  refine Keeps.step (v := 0x146A8BA0E3C567FC) ?_ hSolid hSub hBase
  clear hSolid hSub hBase
  unfold State.scanTake
  try dsimp only
  repeat' first
    | (with_reducible rfl)
    | (with_reducible exact Keeps.refl _ _)
    | (with_reducible apply Keeps.ite)
    | (with_reducible assumption)
    | (with_reducible apply State.inhibitOn_step)
    | (with_reducible apply State.stopPlan_step)
    | (with_reducible apply State.setHif_step)
    | (with_reducible apply Keeps.each)
    | (with_reducible apply Keeps.setFld (regWindow_hifEthStatus ..))
    | (with_reducible refine State.setRuns_sameStep _ (by simp [State.active, State.each, Run.scanned, Function.comp_def]) ?_ ?_ ?_)
    | (with_reducible refine State.setSch_nextStep _ (by simp) ?_ ?_ ?_)
    | (with_reducible apply State.setBoot_step _ (fun h => h))
    | (with_reducible apply State.setBoot_step _ (by simp))
    | intro _
    | (exact (rfl : true = true))
    | split

theorem State.tapTo_step {msk : Nat} {base s : State} (i : TapInstr) (hSolid : solid msk = true)
    (hSub : sub 0x146A8BA0E7C567FC msk = true) (hBase : Keeps msk base s) : Keeps msk base (State.tapTo s i) := by
  refine Keeps.step (v := 0x146A8BA0E7C567FC) ?_ hSolid hSub hBase
  clear hSolid hSub hBase
  unfold State.tapTo
  try dsimp only
  repeat' first
    | (with_reducible rfl)
    | (with_reducible exact Keeps.refl _ _)
    | (with_reducible apply Keeps.ite)
    | (with_reducible assumption)
    | (with_reducible apply State.scanTake_step)
    | (with_reducible apply State.setTap_step)
    | (with_reducible apply State.scanOut_step)
    | (with_reducible apply State.tapCapture_step)
    | (with_reducible apply State.emit_step)
    | (with_reducible apply State.tapShift_step)
    | intro _
    | (exact (rfl : true = true))
    | split

/-- An instruction that leaves the balls to the part changes the TAP alone, beside what it shifts out (R398, R400). -/
theorem State.tapQuiet_step {msk : Nat} {base s : State} (i : TapInstr) (hi : i.takesBalls = false) (hSolid : solid msk = true)
    (hSub : sub 0x64000000 msk = true) (hBase : Keeps msk base s) : Keeps msk base (State.tapTo s i) := by
  unfold State.tapTo
  dsimp only
  rw [hi]
  have k : Keeps msk base (s.setTap { s.tap with ir := i }).scanOut :=
    State.scanOut_step hSolid (sub_trans rfl hSub) (State.setTap_step _ hSolid (sub_trans rfl hSub) hBase)
  split
  · exact hBase
  · split
    · refine State.scanOut_step hSolid (sub_trans rfl hSub) (State.tapShift_step hSolid (sub_trans rfl hSub) ?_)
      exact State.emit_step _ hSolid (sub_trans rfl hSub) (State.tapCapture_step _ hSolid (sub_trans rfl hSub) k)
    · exact State.emit_step _ hSolid (sub_trans rfl hSub) k

theorem State.tapReset_step {msk : Nat} {base s : State}  (hSolid : solid msk = true)
    (hSub : sub 0x4000000 msk = true) (hBase : Keeps msk base s) : Keeps msk base (State.tapReset s) := by
  refine Keeps.step (v := 0x4000000) ?_ hSolid hSub hBase
  clear hSolid hSub hBase
  unfold State.tapReset
  try dsimp only
  repeat' first
    | (with_reducible rfl)
    | (with_reducible exact Keeps.refl _ _)
    | (with_reducible apply Keeps.ite)
    | (with_reducible assumption)
    | (with_reducible apply State.setTap_step)
    | intro _
    | (exact (rfl : true = true))
    | split

end Sys2Proof.Machine
end

