-- ==== Sys2Proof/Laws/KeepsPower.lean ====
section
/-! SUPPORT. What each operation of Machine/Power.lean may change (Laws/Keeps.lean reads the masks). -/

namespace Sys2Proof.Machine

set_option linter.unreachableTactic false
set_option linter.unusedTactic false

theorem State.powerWindow_step {msk : Nat} {base s : State} (mw : ℕ) (hSolid : solid msk = true)
    (hSub : sub 0x200000000 msk = true) (hBase : Keeps msk base s) : Keeps msk base (State.powerWindow s mw) := by
  refine Keeps.step (v := 0x200000000) ?_ hSolid hSub hBase
  clear hSolid hSub hBase
  unfold State.powerWindow
  try dsimp only
  repeat' first
    | (with_reducible rfl)
    | (with_reducible exact Keeps.refl _ _)
    | (with_reducible apply Keeps.ite)
    | (with_reducible assumption)
    | (with_reducible apply Keeps.setFld regWindow_pwrStatus)
    | (with_reducible apply Keeps.setBit regWindow_pwrStatus)
    | (with_reducible apply Keeps.bump regWindow_pwrOverCnt)
    | intro _
    | (exact (rfl : true = true))
    | split

theorem State.ceilWrite_step {msk : Nat} {base s : State} (v : Word) (hSolid : solid msk = true)
    (hSub : sub 0x2200000000 msk = true) (hBase : Keeps msk base s) : Keeps msk base (State.ceilWrite s v) := by
  refine Keeps.step (v := 0x2200000000) ?_ hSolid hSub hBase
  clear hSolid hSub hBase
  unfold State.ceilWrite
  try dsimp only
  repeat' first
    | (with_reducible rfl)
    | (with_reducible exact Keeps.refl _ _)
    | (with_reducible apply Keeps.ite)
    | (with_reducible assumption)
    | (with_reducible apply Keeps.hostWrite regWindow_pwrCeil)
    | (with_reducible apply Keeps.setBit regWindow_schStatus)
    | intro _
    | (exact (rfl : true = true))
    | split

theorem State.railWrite_step {msk : Nat} {base s : State} (v : Word) (hSolid : solid msk = true)
    (hSub : sub 0x200000000 msk = true) (hBase : Keeps msk base s) : Keeps msk base (State.railWrite s v) := by
  refine Keeps.step (v := 0x200000000) ?_ hSolid hSub hBase
  clear hSolid hSub hBase
  unfold State.railWrite
  try dsimp only
  repeat' first
    | (with_reducible rfl)
    | (with_reducible exact Keeps.refl _ _)
    | (with_reducible apply Keeps.ite)
    | (with_reducible assumption)
    | (with_reducible apply Keeps.hostWrite regWindow_pwrHfRail)
    | intro _
    | (exact (rfl : true = true))
    | split

theorem State.enter_step {msk : Nat} {base s : State} (target : ℕ) (hSolid : solid msk = true)
    (hSub : sub 0x8200000060 msk = true) (hBase : Keeps msk base s) : Keeps msk base (State.enter s target) := by
  refine Keeps.step (v := 0x8200000060) ?_ hSolid hSub hBase
  clear hSolid hSub hBase
  unfold State.enter
  try dsimp only
  repeat' first
    | (with_reducible rfl)
    | (with_reducible exact Keeps.refl _ _)
    | (with_reducible apply Keeps.ite)
    | (with_reducible assumption)
    | (with_reducible refine State.setSch_nextStep _ (by simp) ?_ ?_ ?_)
    | (with_reducible apply State.setBoot_step _ (fun h => h))
    | (with_reducible apply State.setBoot_step _ (by simp))
    | (with_reducible apply Keeps.setBit regWindow_pwrCtrl)
    | (with_reducible apply Keeps.setFld regWindow_pwrCtrl)
    | intro _
    | (exact (rfl : true = true))
    | split

theorem State.lanternEnter_step {msk : Nat} {base s : State}  (hSolid : solid msk = true)
    (hSub : sub 0x20000 msk = true) (hBase : Keeps msk base s) : Keeps msk base (State.lanternEnter s) := by
  refine Keeps.step (v := 0x20000) ?_ hSolid hSub hBase
  clear hSolid hSub hBase
  unfold State.lanternEnter
  try dsimp only
  repeat' first
    | (with_reducible rfl)
    | (with_reducible exact Keeps.refl _ _)
    | (with_reducible apply Keeps.ite)
    | (with_reducible assumption)
    | (with_reducible apply State.setLantern_step)
    | intro _
    | (exact (rfl : true = true))
    | split

theorem State.lowPowerDone_step {msk : Nat} {base s : State}  (hSolid : solid msk = true)
    (hSub : sub 0x1002100026060224 msk = true) (hBase : Keeps msk base s) : Keeps msk base (State.lowPowerDone s) := by
  refine Keeps.step (v := 0x1002100026060224) ?_ hSolid hSub hBase
  clear hSolid hSub hBase
  unfold State.lowPowerDone
  try dsimp only
  repeat' first
    | (with_reducible rfl)
    | (with_reducible exact Keeps.refl _ _)
    | (with_reducible apply Keeps.ite)
    | (with_reducible assumption)
    | (with_reducible apply State.setSlices_step)
    | (with_reducible apply State.enterPower_step)
    | (with_reducible apply State.traceDrain_step)
    | (with_reducible apply State.lanternEnter_step)
    | (with_reducible apply State.setHif_step)
    | (with_reducible apply State.setTap_step)
    | (with_reducible apply State.setBoot_step _ (fun h => h))
    | (with_reducible apply State.setBoot_step _ (by simp))
    | intro _
    | (exact (rfl : true = true))
    | split

theorem State.dropLantern_step {msk : Nat} {base s : State}  (hSolid : solid msk = true)
    (hSub : sub 0x20000 msk = true) (hBase : Keeps msk base s) : Keeps msk base (State.dropLantern s) := by
  refine Keeps.step (v := 0x20000) ?_ hSolid hSub hBase
  clear hSolid hSub hBase
  unfold State.dropLantern
  try dsimp only
  repeat' first
    | (with_reducible rfl)
    | (with_reducible exact Keeps.refl _ _)
    | (with_reducible apply Keeps.ite)
    | (with_reducible assumption)
    | (with_reducible apply State.setLantern_step)
    | intro _
    | (exact (rfl : true = true))
    | split

theorem State.wakePin_step {msk : Nat} {base s : State}  (hSolid : solid msk = true)
    (hSub : sub 0x8000000000020000 msk = true) (hBase : Keeps msk base s) : Keeps msk base (State.wakePin s) := by
  refine Keeps.step (v := 0x8000000000020000) ?_ hSolid hSub hBase
  clear hSolid hSub hBase
  unfold State.wakePin
  try dsimp only
  repeat' first
    | (with_reducible rfl)
    | (with_reducible exact Keeps.refl _ _)
    | (with_reducible apply Keeps.ite)
    | (with_reducible assumption)
    | (with_reducible apply State.dropLantern_step)
    | (with_reducible apply State.takeReset_step)
    | intro _
    | (exact (rfl : true = true))
    | split

theorem State.rtcAlarm_step {msk : Nat} {base s : State}  (hSolid : solid msk = true)
    (hSub : sub 0x8000000000020000 msk = true) (hBase : Keeps msk base s) : Keeps msk base (State.rtcAlarm s) := by
  refine Keeps.step (v := 0x8000000000020000) ?_ hSolid hSub hBase
  clear hSolid hSub hBase
  unfold State.rtcAlarm
  try dsimp only
  repeat' first
    | (with_reducible rfl)
    | (with_reducible exact Keeps.refl _ _)
    | (with_reducible apply Keeps.ite)
    | (with_reducible assumption)
    | (with_reducible apply State.dropLantern_step)
    | (with_reducible apply State.takeReset_step)
    | intro _
    | (exact (rfl : true = true))
    | split

theorem State.brownout_step {msk : Nat} {base s : State}  (hSolid : solid msk = true)
    (hSub : sub 0x8000000004000020 msk = true) (hBase : Keeps msk base s) : Keeps msk base (State.brownout s) := by
  refine Keeps.step (v := 0x8000000004000020) ?_ hSolid hSub hBase
  clear hSolid hSub hBase
  unfold State.brownout
  try dsimp only
  repeat' first
    | (with_reducible rfl)
    | (with_reducible exact Keeps.refl _ _)
    | (with_reducible apply Keeps.ite)
    | (with_reducible assumption)
    | (with_reducible apply State.setTap_step)
    | (with_reducible apply State.takeReset_step)
    | (with_reducible apply State.setBoot_step _ (fun h => h))
    | (with_reducible apply State.setBoot_step _ (by simp))
    | intro _
    | (exact (rfl : true = true))
    | split

theorem State.warm_step {msk : Nat} {base s : State} (c : Cause) (hSolid : solid msk = true)
    (hSub : sub 0x8000000000000000 msk = true) (hBase : Keeps msk base s) : Keeps msk base (State.warm s c) := by
  refine Keeps.step (v := 0x8000000000000000) ?_ hSolid hSub hBase
  clear hSolid hSub hBase
  unfold State.warm
  try dsimp only
  repeat' first
    | (with_reducible rfl)
    | (with_reducible exact Keeps.refl _ _)
    | (with_reducible apply Keeps.ite)
    | (with_reducible assumption)
    | (with_reducible apply State.takeReset_step)
    | intro _
    | (exact (rfl : true = true))
    | split

theorem State.watchdog_step {msk : Nat} {base s : State}  (hSolid : solid msk = true)
    (hSub : sub 0x8000000000000000 msk = true) (hBase : Keeps msk base s) : Keeps msk base (State.watchdog s) := by
  refine Keeps.step (v := 0x8000000000000000) ?_ hSolid hSub hBase
  clear hSolid hSub hBase
  unfold State.watchdog
  try dsimp only
  repeat' first
    | (with_reducible rfl)
    | (with_reducible exact Keeps.refl _ _)
    | (with_reducible apply Keeps.ite)
    | (with_reducible assumption)
    | (with_reducible apply State.takeReset_step)
    | intro _
    | (exact (rfl : true = true))
    | split

theorem State.causeEnds_step {msk : Nat} {base s : State} (c : Cause) (hSolid : solid msk = true)
    (hSub : sub 0x20 msk = true) (hBase : Keeps msk base s) : Keeps msk base (State.causeEnds s c) := by
  refine Keeps.step (v := 0x20) ?_ hSolid hSub hBase
  clear hSolid hSub hBase
  unfold State.causeEnds
  try dsimp only
  repeat' first
    | (with_reducible rfl)
    | (with_reducible exact Keeps.refl _ _)
    | (with_reducible apply Keeps.ite)
    | (with_reducible assumption)
    | (with_reducible apply State.setBoot_step _ (fun h => h))
    | (with_reducible apply State.setBoot_step _ (by simp))
    | intro _
    | (exact (rfl : true = true))
    | split

theorem State.blockClear_step {msk : Nat} {base s : State} (i : Nat) (hSolid : solid msk = true)
    (hSub : sub 0x2464000 msk = true) (hBase : Keeps msk base s) : Keeps msk base (State.blockClear s i) := by
  refine Keeps.step (v := 0x2464000) ?_ hSolid hSub hBase
  clear hSolid hSub hBase
  unfold State.blockClear
  try dsimp only
  repeat' first
    | (with_reducible rfl)
    | (with_reducible exact Keeps.refl _ _)
    | (with_reducible apply Keeps.ite)
    | (with_reducible assumption)
    | (with_reducible apply State.setDecoders_step)
    | (with_reducible apply State.setGuy_step)
    | (with_reducible apply State.setTrl_step)
    | (with_reducible apply State.setHif_step)
    | (with_reducible apply State.setLantern_step)
    | intro _
    | (exact (rfl : true = true))
    | split

theorem State.blockReset_step {msk : Nat} {base s : State} (v : Word) (hSolid : solid msk = true)
    (hSub : sub 0x802464000 msk = true) (hBase : Keeps msk base s) : Keeps msk base (State.blockReset s v) := by
  refine Keeps.step (v := 0x802464000) ?_ hSolid hSub hBase
  clear hSolid hSub hBase
  unfold State.blockReset
  try dsimp only
  repeat' first
    | (with_reducible rfl)
    | (with_reducible exact Keeps.refl _ _)
    | (with_reducible apply Keeps.ite)
    | (with_reducible assumption)
    | (with_reducible apply State.blockClear_step)
    | (with_reducible apply Keeps.setBit regWindow_rstCtrl)
    | (with_reducible apply Keeps.hostWrite regWindow_rstCtrl)
    | (with_reducible apply Keeps.each)
    | intro _
    | (exact (rfl : true = true))
    | split

theorem State.rstCtrl_step {msk : Nat} {base s : State} (v : Word) (hSolid : solid msk = true)
    (hSub : sub 0x8000000802464000 msk = true) (hBase : Keeps msk base s) : Keeps msk base (State.rstCtrl s v) := by
  refine Keeps.step (v := 0x8000000802464000) ?_ hSolid hSub hBase
  clear hSolid hSub hBase
  unfold State.rstCtrl
  try dsimp only
  repeat' first
    | (with_reducible rfl)
    | (with_reducible exact Keeps.refl _ _)
    | (with_reducible apply Keeps.ite)
    | (with_reducible assumption)
    | (with_reducible apply State.takeReset_step)
    | (with_reducible apply State.blockReset_step)
    | intro _
    | (exact (rfl : true = true))
    | split

end Sys2Proof.Machine
end

