-- ==== Sys2Proof/Laws/KeepsAccess.lean ====
section
/-! SUPPORT. What each operation of Machine/Access.lean may change (Laws/Keeps.lean reads the masks). -/

namespace Sys2Proof.Machine

set_option linter.unreachableTactic false
set_option linter.unusedTactic false

theorem State.plainWrite_step {msk : Nat} {base s : State} (m : Master) (off : Nat) (v : Word) (hSolid : solid msk = true)
    (hSub : sub 0x1FFFE93E00000000 msk = true) (hBase : Keeps msk base s) : Keeps msk base (State.plainWrite s m off v) := by
  refine Keeps.step (v := 0x1FFFE93E00000000) ?_ hSolid hSub hBase
  clear hSolid hSub hBase
  unfold State.plainWrite
  try dsimp only
  repeat' first
    | (with_reducible rfl)
    | (with_reducible exact Keeps.refl _ _)
    | (with_reducible apply Keeps.ite)
    | (with_reducible assumption)
    | (with_reducible apply State.writeReg_step)
    | intro _
    | (exact (rfl : true = true))
    | split

theorem State.pwrCtrlWrite_step {msk : Nat} {base s : State} (v : Word) (hSolid : solid msk = true)
    (hSub : sub 0x8200000060 msk = true) (hBase : Keeps msk base s) : Keeps msk base (State.pwrCtrlWrite s v) := by
  refine Keeps.step (v := 0x8200000060) ?_ hSolid hSub hBase
  clear hSolid hSub hBase
  unfold State.pwrCtrlWrite
  try dsimp only
  repeat' first
    | (with_reducible rfl)
    | (with_reducible exact Keeps.refl _ _)
    | (with_reducible apply Keeps.ite)
    | (with_reducible assumption)
    | (with_reducible apply State.enter_step)
    | (with_reducible apply Keeps.hostWrite regWindow_pwrCtrl)
    | intro _
    | (exact (rfl : true = true))
    | split

theorem State.schCtrlWrite_step {msk : Nat} {base s : State} (v : Word) (hSolid : solid msk = true)
    (hSub : sub 0xA000000040 msk = true) (hBase : Keeps msk base s) : Keeps msk base (State.schCtrlWrite s v) := by
  refine Keeps.step (v := 0xA000000040) ?_ hSolid hSub hBase
  clear hSolid hSub hBase
  unfold State.schCtrlWrite
  try dsimp only
  repeat' first
    | (with_reducible rfl)
    | (with_reducible exact Keeps.refl _ _)
    | (with_reducible apply Keeps.ite)
    | (with_reducible assumption)
    | (with_reducible apply State.schRun_step)
    | (with_reducible apply State.schCancel_step)
    | (with_reducible apply State.schSwap_step)
    | intro _
    | (exact (rfl : true = true))
    | split

theorem State.flashCmdWrite_step {msk : Nat} {base s : State} (v : Word) (hSolid : solid msk = true)
    (hSub : sub 0x1000000020 msk = true) (hBase : Keeps msk base s) : Keeps msk base (State.flashCmdWrite s v) := by
  refine Keeps.step (v := 0x1000000020) ?_ hSolid hSub hBase
  clear hSolid hSub hBase
  unfold State.flashCmdWrite
  try dsimp only
  repeat' first
    | (with_reducible rfl)
    | (with_reducible exact Keeps.refl _ _)
    | (with_reducible apply Keeps.ite)
    | (with_reducible assumption)
    | (with_reducible apply State.flashCmd_step)
    | (with_reducible apply Keeps.hostWrite regWindow_cfgFlashCmd)
    | intro _
    | (exact (rfl : true = true))
    | split

theorem State.restage_step {msk : Nat} {base s : State}  (hSolid : solid msk = true)
    (hSub : sub 0x1000000020 msk = true) (hBase : Keeps msk base s) : Keeps msk base (State.restage s) := by
  refine Keeps.step (v := 0x1000000020) ?_ hSolid hSub hBase
  clear hSolid hSub hBase
  unfold State.restage
  try dsimp only
  repeat' first
    | (with_reducible rfl)
    | (with_reducible exact Keeps.refl _ _)
    | (with_reducible apply Keeps.ite)
    | (with_reducible assumption)
    | (with_reducible apply State.setBoot_step _ (fun h => h))
    | (with_reducible apply State.setBoot_step _ (by simp))
    | (with_reducible apply Keeps.setReg regWindow_cfgStagePtr)
    | intro _
    | (exact (rfl : true = true))
    | split

theorem State.stageWord_step {msk : Nat} {base s : State} (w : Word) (hSolid : solid msk = true)
    (hSub : sub 0x1000000020 msk = true) (hBase : Keeps msk base s) : Keeps msk base (State.stageWord s w) := by
  refine Keeps.step (v := 0x1000000020) ?_ hSolid hSub hBase
  clear hSolid hSub hBase
  unfold State.stageWord
  try dsimp only
  repeat' first
    | (with_reducible rfl)
    | (with_reducible exact Keeps.refl _ _)
    | (with_reducible apply Keeps.ite)
    | (with_reducible assumption)
    | (with_reducible apply State.setBoot_step _ (fun h => h))
    | (with_reducible apply State.setBoot_step _ (by simp))
    | (with_reducible apply Keeps.bump regWindow_cfgStagePtr)
    | intro _
    | (exact (rfl : true = true))
    | split

theorem State.cancelCfgWrite_step {msk : Nat} {base s : State} (p : ℕ) (v : Word) (hSolid : solid msk = true)
    (hSub : sub 0x10000000100 msk = true) (hBase : Keeps msk base s) : Keeps msk base (State.cancelCfgWrite s p v) := by
  refine Keeps.step (v := 0x10000000100) ?_ hSolid hSub hBase
  clear hSolid hSub hBase
  unfold State.cancelCfgWrite
  try dsimp only
  repeat' first
    | (with_reducible rfl)
    | (with_reducible exact Keeps.refl _ _)
    | (with_reducible apply Keeps.ite)
    | (with_reducible assumption)
    | (with_reducible apply State.cancelReload_step)
    | (with_reducible apply Keeps.hostWrite (regWindow_hfaCancelCfg _))
    | intro _
    | (exact (rfl : true = true))
    | split

theorem State.coefWrite_step {msk : Nat} {base s : State} (p j : Nat) (v : Word) (hSolid : solid msk = true)
    (hSub : sub 0x10000000100 msk = true) (hBase : Keeps msk base s) : Keeps msk base (State.coefWrite s p j v) := by
  refine Keeps.step (v := 0x10000000100) ?_ hSolid hSub hBase
  clear hSolid hSub hBase
  unfold State.coefWrite
  try dsimp only
  repeat' first
    | (with_reducible rfl)
    | (with_reducible exact Keeps.refl _ _)
    | (with_reducible apply Keeps.ite)
    | (with_reducible assumption)
    | (with_reducible apply Keeps.hostWrite (regWindow_hfaCancelCoef ..))
    | (with_reducible apply State.modPort_step)
    | intro _
    | (exact (rfl : true = true))
    | split

theorem State.seedWrite_step {msk : Nat} {base s : State} (i : ℕ) (b : ℕ) (v : Word) (hSolid : solid msk = true)
    (hSub : sub 0x80000000100 msk = true) (hBase : Keeps msk base s) : Keeps msk base (State.seedWrite s i b v) := by
  refine Keeps.step (v := 0x80000000100) ?_ hSolid hSub hBase
  clear hSolid hSub hBase
  unfold State.seedWrite
  try dsimp only
  repeat' first
    | (with_reducible rfl)
    | (with_reducible exact Keeps.refl _ _)
    | (with_reducible apply Keeps.ite)
    | (with_reducible assumption)
    | (with_reducible apply State.modPort_step)
    | (with_reducible apply Keeps.hostWrite (regWindow_uhaSjcSeed _ _))
    | intro _
    | (exact (rfl : true = true))
    | split

theorem State.paStatusWrite_step {msk : Nat} {base s : State} (i : ℕ) (v : Word) (hSolid : solid msk = true)
    (hSub : sub 0x80000000000 msk = true) (hBase : Keeps msk base s) : Keeps msk base (State.paStatusWrite s i v) := by
  refine Keeps.step (v := 0x80000000000) ?_ hSolid hSub hBase
  clear hSolid hSub hBase
  unfold State.paStatusWrite
  try dsimp only
  repeat' first
    | (with_reducible rfl)
    | (with_reducible exact Keeps.refl _ _)
    | (with_reducible apply Keeps.ite)
    | (with_reducible assumption)
    | (with_reducible apply State.paFaultClear_step)
    | (with_reducible apply Keeps.hostWrite (regWindow_uhaPaStatus _))
    | intro _
    | (exact (rfl : true = true))
    | split

theorem State.cabTrigWrite_step {msk : Nat} {base s : State} (t : ℕ) (v : Word) (hSolid : solid msk = true)
    (hSub : sub 0x18020200630400DC msk = true) (hBase : Keeps msk base s) : Keeps msk base (State.cabTrigWrite s t v) := by
  refine Keeps.step (v := 0x18020200630400DC) ?_ hSolid hSub hBase
  clear hSolid hSub hBase
  unfold State.cabTrigWrite
  try dsimp only
  repeat' first
    | (with_reducible rfl)
    | (with_reducible exact Keeps.refl _ _)
    | (with_reducible apply Keeps.ite)
    | (with_reducible assumption)
    | (with_reducible apply State.triggerSw_step)
    | (with_reducible apply Keeps.hostWrite (regWindow_cabTrig _))
    | intro _
    | (exact (rfl : true = true))
    | split

theorem writeHooks0_keeps : ∀ x ∈ writeHooks0, ∀ s m i v, Keeps 0x9FFFFBBEF3D7E7FC s (x.2 s m i v) := by
  unfold writeHooks0
  simp only [List.forall_mem_cons]
  refine ⟨?_, ?_, ?_, ?_, ?_, ?_, ?_, ?_, ?_, ?_, ?_, ?_, ?_, ?_, ?_, fun _ h => absurd h List.not_mem_nil⟩ <;> intro s m i v <;> try dsimp only
  all_goals repeat' first
    | (with_reducible rfl)
    | (with_reducible exact Keeps.refl _ _)
    | (with_reducible apply Keeps.ite)
    | (with_reducible apply State.pwrCtrlWrite_step)
    | (with_reducible apply State.ceilWrite_step)
    | (with_reducible apply State.railWrite_step)
    | (with_reducible apply State.rstCtrl_step)
    | (with_reducible apply State.restage_step)
    | (with_reducible apply State.stageWord_step)
    | (with_reducible apply State.flashCmdWrite_step)
    | (with_reducible apply State.schCtrlWrite_step)
    | (with_reducible apply State.cancelCfgWrite_step)
    | (with_reducible apply State.coefWrite_step)
    | (with_reducible apply State.seedWrite_step)
    | (with_reducible apply State.paCfgWrite_step)
    | (with_reducible apply State.paStatusWrite_step)
    | intro _
    | (exact (rfl : true = true))
    | split

theorem writeHooks1_keeps : ∀ x ∈ writeHooks1, ∀ s m i v, Keeps 0x9FFFFBBEF3D7E7FC s (x.2 s m i v) := by
  unfold writeHooks1
  simp only [List.forall_mem_cons]
  refine ⟨?_, ?_, ?_, ?_, ?_, ?_, ?_, ?_, ?_, ?_, ?_, ?_, ?_, ?_, ?_, ?_, fun _ h => absurd h List.not_mem_nil⟩ <;> intro s m i v <;> try dsimp only
  all_goals repeat' first
    | (with_reducible rfl)
    | (with_reducible exact Keeps.refl _ _)
    | (with_reducible apply Keeps.ite)
    | (with_reducible apply State.chkWrite_step)
    | (with_reducible apply State.chkStart_step)
    | (with_reducible apply State.injectWrite_step)
    | (with_reducible apply State.freeWrite_step)
    | (with_reducible apply State.driveInt_step)
    | (with_reducible apply State.plainWrite_step)
    | (with_reducible apply State.onFifo_step)
    | (with_reducible apply State.push_step)
    | (with_reducible apply State.pop_step)
    | (with_reducible apply State.flush_step)
    | (with_reducible apply State.ringSet_step)
    | (with_reducible apply State.secKeyCmd_step)
    | (with_reducible apply State.writeData_step)
    | (with_reducible apply Keeps.hostWrite regWindow_hifSpiIntMask)
    | (with_reducible apply Keeps.setReg regWindow_rdpRrWait)
    | intro _
    | (exact (rfl : true = true))
    | split

theorem writeHooks2_keeps : ∀ x ∈ writeHooks2, ∀ s m i v, Keeps 0x9FFFFBBEF3D7E7FC s (x.2 s m i v) := by
  unfold writeHooks2
  simp only [List.forall_mem_cons]
  refine ⟨?_, ?_, ?_, ?_, ?_, ?_, ?_, ?_, ?_, ?_, ?_, ?_, fun _ h => absurd h List.not_mem_nil⟩ <;> intro s m i v <;> try dsimp only
  all_goals repeat' first
    | (with_reducible rfl)
    | (with_reducible exact Keeps.refl _ _)
    | (with_reducible apply Keeps.ite)
    | (with_reducible apply State.awnCtrlWrite_step)
    | (with_reducible apply State.countTables_step)
    | (with_reducible apply State.plainWrite_step)
    | (with_reducible apply State.lntStatusWrite_step)
    | (with_reducible apply State.hltCtrl_step)
    | (with_reducible apply State.guyCfgWrite_step)
    | (with_reducible apply State.laneReqWrite_step)
    | (with_reducible apply State.driveCxp_step)
    | (with_reducible apply State.gpioCfg_step)
    | (with_reducible apply State.gpioSetBits_step)
    | (with_reducible apply State.gpioClrBits_step)
    | (with_reducible apply State.cabTrigWrite_step)
    | (with_reducible apply State.trlCfgWrite_step)
    | (with_reducible apply Keeps.hostWrite regWindow_cxpCfg)
    | intro _
    | (exact (rfl : true = true))
    | split

theorem hookAt_mem {l : List WriteHook} {off i : Nat} {f : State → Master → Nat → Word → State}
    (h : hookAt l off = some (i, f)) : ∃ p, (p, f) ∈ l := by
  unfold hookAt at h
  obtain ⟨x, hx, hy⟩ := List.exists_of_findSome?_eq_some h
  cases hz : x.1 off with
  | none => rw [hz] at hy; cases hy
  | some k =>
    rw [hz] at hy
    simp only [Option.map_some, Option.some.injEq, Prod.mk.injEq] at hy
    exact ⟨x.1, by rw [← hy.2]; exact hx⟩

theorem State.regWrite_step {msk : Nat} {base s : State} (m : Master) (off : Nat) (v : Word) (hSolid : solid msk = true)
    (hSub : sub 0x9FFFFBBEF3D7E7FC msk = true) (hBase : Keeps msk base s) : Keeps msk base (s.regWrite m off v) := by
  refine Keeps.step (v := 0x9FFFFBBEF3D7E7FC) ?_ hSolid hSub hBase
  clear hSolid hSub hBase
  unfold State.regWrite
  split
  · rename_i i f h
    obtain ⟨p, hp⟩ := hookAt_mem h
    simp only [List.flatten_cons, List.flatten_nil, List.append_nil, List.mem_append] at hp
    rcases hp with hp | hp | hp
    · exact writeHooks0_keeps _ hp s m i v
    · exact writeHooks1_keeps _ hp s m i v
    · exact writeHooks2_keeps _ hp s m i v
  · exact State.plainWrite_step m off v rfl rfl (Keeps.refl _ _)

end Sys2Proof.Machine
end

