-- ==== Sys2Proof/Laws/KeepsBoot.lean ====
section
/-! SUPPORT. What each operation of Machine/Boot.lean may change (Laws/Keeps.lean reads the masks). -/

namespace Sys2Proof.Machine

set_option linter.unreachableTactic false
set_option linter.unusedTactic false

theorem State.dropKept_step {msk : Nat} {base s : State}  (hSolid : solid msk = true)
    (hSub : sub 0x1FFFE93E00000000 msk = true) (hBase : Keeps msk base s) : Keeps msk base (State.dropKept s) := by
  refine Keeps.step (v := 0x1FFFE93E00000000) ?_ hSolid hSub hBase
  clear hSolid hSub hBase
  unfold State.dropKept
  try dsimp only
  repeat' first
    | (with_reducible rfl)
    | (with_reducible exact Keeps.refl _ _)
    | (with_reducible apply Keeps.ite)
    | (with_reducible assumption)
    | (with_reducible apply State.setReg_anyStep)
    | (with_reducible apply Keeps.each)
    | intro _
    | (exact (rfl : true = true))
    | split

theorem State.applyPair_step {msk : Nat} {base s : State} (p : Nat × Word) (hSolid : solid msk = true)
    (hSub : sub 0x9FFFFBBEF3D7E7FC msk = true) (hBase : Keeps msk base s) : Keeps msk base (State.applyPair s p) := by
  refine Keeps.step (v := 0x9FFFFBBEF3D7E7FC) ?_ hSolid hSub hBase
  clear hSolid hSub hBase
  unfold State.applyPair
  try dsimp only
  repeat' first
    | (with_reducible rfl)
    | (with_reducible exact Keeps.refl _ _)
    | (with_reducible apply Keeps.ite)
    | (with_reducible assumption)
    | (with_reducible apply Keeps.hostWrite regWindow_pwrCtrl)
    | (with_reducible apply State.msixWrite_step)
    | (with_reducible apply State.regWrite_step)
    | intro _
    | (exact (rfl : true = true))
    | split

theorem State.heldCtrl_step {msk : Nat} {base s : State} (v : Word) (hSolid : solid msk = true)
    (hSub : sub 0x2000000000 msk = true) (hBase : Keeps msk base s) : Keeps msk base (State.heldCtrl s v) := by
  refine Keeps.step (v := 0x2000000000) ?_ hSolid hSub hBase
  clear hSolid hSub hBase
  unfold State.heldCtrl
  try dsimp only
  repeat' first
    | (with_reducible rfl)
    | (with_reducible exact Keeps.refl _ _)
    | (with_reducible apply Keeps.ite)
    | (with_reducible assumption)
    | (with_reducible apply Keeps.setFld regWindow_schCtrl)
    | (with_reducible apply Keeps.setBit regWindow_schCtrl)
    | intro _
    | (exact (rfl : true = true))
    | split

theorem State.applyKey_step {msk : Nat} {base s : State} (e : List Word) (hSolid : solid msk = true)
    (hSub : sub 0x2000 msk = true) (hBase : Keeps msk base s) : Keeps msk base (State.applyKey s e) := by
  refine Keeps.step (v := 0x2000) ?_ hSolid hSub hBase
  clear hSolid hSub hBase
  unfold State.applyKey
  try dsimp only
  repeat' first
    | (with_reducible rfl)
    | (with_reducible exact Keeps.refl _ _)
    | (with_reducible apply Keeps.ite)
    | (with_reducible assumption)
    | (with_reducible apply State.setSec_step)
    | intro _
    | (exact (rfl : true = true))
    | split

theorem State.applyAwning_step {msk : Nat} {base s : State} (x : ℕ × List Word) (hSolid : solid msk = true)
    (hSub : sub 0x2002160080000006 msk = true) (hBase : Keeps msk base s) : Keeps msk base (State.applyAwning s x) := by
  refine Keeps.step (v := 0x2002160080000006) ?_ hSolid hSub hBase
  clear hSolid hSub hBase
  unfold State.applyAwning
  try dsimp only
  repeat' first
    | (with_reducible rfl)
    | (with_reducible exact Keeps.refl _ _)
    | (with_reducible apply Keeps.ite)
    | (with_reducible assumption)
    | (with_reducible apply State.setWords_step)
    | intro _
    | (exact (rfl : true = true))
    | split

theorem State.drawUids_step {msk : Nat} {base s : State}  (hSolid : solid msk = true)
    (hSub : sub 0x40010000 msk = true) (hBase : Keeps msk base s) : Keeps msk base (State.drawUids s) := by
  refine Keeps.step (v := 0x40010000) ?_ hSolid hSub hBase
  clear hSolid hSub hBase
  unfold State.drawUids
  try dsimp only
  repeat' first
    | (with_reducible rfl)
    | (with_reducible exact Keeps.refl _ _)
    | (with_reducible apply Keeps.ite)
    | (with_reducible assumption)
    | (with_reducible apply Keeps.each)
    | (with_reducible apply State.modAwn_step)
    | (with_reducible apply State.skip_step)
    | intro _
    | (exact (rfl : true = true))
    | split

theorem State.applyRegs_step {msk : Nat} {base s : State} (ws : List Word) (hSolid : solid msk = true)
    (hSub : sub 0x9FFFFBBEF3D7E7FC msk = true) (hBase : Keeps msk base s) : Keeps msk base (State.applyRegs s ws) := by
  refine Keeps.step (v := 0x9FFFFBBEF3D7E7FC) ?_ hSolid hSub hBase
  clear hSolid hSub hBase
  unfold State.applyRegs
  try dsimp only
  repeat' first
    | (with_reducible rfl)
    | (with_reducible exact Keeps.refl _ _)
    | (with_reducible apply Keeps.ite)
    | (with_reducible assumption)
    | (with_reducible apply State.setBoot_step _ (fun h => h))
    | (with_reducible apply State.setBoot_step _ (by simp))
    | (with_reducible apply State.dropKept_step)
    | (with_reducible apply Keeps.each)
    | (with_reducible apply State.applyPair_step)
    | intro _
    | (exact (rfl : true = true))
    | split

theorem State.compareCal_step {msk : Nat} {base s : State} (c : CalRun) (hSolid : solid msk = true)
    (hSub : sub 0x31228320621463DC msk = true) (hBase : Keeps msk base s) : Keeps msk base (State.compareCal s c) := by
  refine Keeps.step (v := 0x31228320621463DC) ?_ hSolid hSub hBase
  clear hSolid hSub hBase
  unfold State.compareCal
  try dsimp only
  repeat' first
    | (with_reducible rfl)
    | (with_reducible exact Keeps.refl _ _)
    | (with_reducible apply Keeps.ite)
    | (with_reducible assumption)
    | (with_reducible apply State.failSlice_step)
    | intro _
    | (exact (rfl : true = true))
    | split

theorem State.startCal_step {msk : Nat} {base s : State} (c : CalRun) (hSolid : solid msk = true)
    (hSub : sub 0x31228320621463DC msk = true) (hBase : Keeps msk base s) : Keeps msk base (State.startCal s c) := by
  refine Keeps.step (v := 0x31228320621463DC) ?_ hSolid hSub hBase
  clear hSolid hSub hBase
  unfold State.startCal
  try dsimp only
  repeat' first
    | (with_reducible rfl)
    | (with_reducible exact Keeps.refl _ _)
    | (with_reducible apply Keeps.ite)
    | (with_reducible assumption)
    | (with_reducible apply State.failSlice_step)
    | (with_reducible apply State.calAgree_step)
    | (with_reducible apply State.headroom_step)
    | intro _
    | (exact (rfl : true = true))
    | split

theorem State.applySections_step {msk : Nat} {base s : State} (ws : List Word) (cal : List CalRun) (hSolid : solid msk = true)
    (hSub : sub 0xBFFFFFBEF3D7E7FE msk = true) (hBase : Keeps msk base s) : Keeps msk base (State.applySections s ws cal) := by
  refine Keeps.step (v := 0xBFFFFFBEF3D7E7FE) ?_ hSolid hSub hBase
  clear hSolid hSub hBase
  unfold State.applySections
  try dsimp only
  repeat' first
    | (with_reducible rfl)
    | (with_reducible exact Keeps.refl _ _)
    | (with_reducible apply Keeps.ite)
    | (with_reducible assumption)
    | (with_reducible apply State.applyRegs_step)
    | (with_reducible apply State.setTick_step)
    | (with_reducible apply Keeps.each)
    | (with_reducible apply State.startCal_step)
    | (with_reducible apply State.applyKey_step)
    | (with_reducible apply State.setWords_step)
    | (with_reducible apply State.applyAwning_step)
    | (with_reducible apply State.drawUids_step)
    | (with_reducible apply State.heldCtrl_step)
    | (with_reducible apply Keeps.setBit regWindow_cfgStatus)
    | (with_reducible apply State.setBoot_step _ (fun h => h))
    | (with_reducible apply State.setBoot_step _ (by simp))
    | intro _
    | (exact (rfl : true = true))
    | split

theorem State.imagePins_step {msk : Nat} {base s : State}  (hSolid : solid msk = true)
    (hSub : sub 0x14228B20628467DC msk = true) (hBase : Keeps msk base s) : Keeps msk base (State.imagePins s) := by
  refine Keeps.step (v := 0x14228B20628467DC) ?_ hSolid hSub hBase
  clear hSolid hSub hBase
  unfold State.imagePins
  try dsimp only
  repeat' first
    | (with_reducible rfl)
    | (with_reducible exact Keeps.refl _ _)
    | (with_reducible apply Keeps.ite)
    | (with_reducible assumption)
    | (with_reducible apply State.driveCxp_step)
    | (with_reducible apply State.pinsSafe_step)
    | (with_reducible apply Keeps.each)
    | intro _
    | (exact (rfl : true = true))
    | split

theorem State.applyImage_step {msk : Nat} {base s : State} (ws : List Word) (src : Nat) (hSolid : solid msk = true)
    (hSub : sub 0xFFFFFFFEFFFFFFFF msk = true) (hBase : Keeps msk base s) : Keeps msk base (State.applyImage s ws src) := by
  refine Keeps.step (v := 0xFFFFFFFEFFFFFFFF) ?_ hSolid hSub hBase
  clear hSolid hSub hBase
  unfold State.applyImage
  try dsimp only
  repeat' first
    | (with_reducible rfl)
    | (with_reducible exact Keeps.refl _ _)
    | (with_reducible apply Keeps.ite)
    | (with_reducible assumption)
    | (with_reducible apply State.applySections_step)
    | (with_reducible apply Keeps.setFld regWindow_cfgStatus)
    | (with_reducible apply State.imagePins_step)
    | (with_reducible apply Keeps.foldl)
    | (with_reducible apply State.setPit_step)
    | (with_reducible apply State.setHlt_step)
    | (with_reducible apply State.setBoot_upStep)
    | intro _
    | (exact (rfl : true = true))
    | split

theorem State.imageFail_step {msk : Nat} {base s : State} (code : ℕ) (src : ℕ) (serial : ℕ) (hSolid : solid msk = true)
    (hSub : sub 0x1000100000 msk = true) (hBase : Keeps msk base s) : Keeps msk base (State.imageFail s code src serial) := by
  refine Keeps.step (v := 0x1000100000) ?_ hSolid hSub hBase
  clear hSolid hSub hBase
  unfold State.imageFail
  try dsimp only
  repeat' first
    | (with_reducible rfl)
    | (with_reducible exact Keeps.refl _ _)
    | (with_reducible apply Keeps.ite)
    | (with_reducible assumption)
    | (with_reducible apply State.logRec_step)
    | (with_reducible apply Keeps.setFld regWindow_cfgStatus)
    | intro _
    | (exact (rfl : true = true))
    | split

theorem State.stageImage_step {msk : Nat} {base s : State} (ws : List Word) (hSolid : solid msk = true)
    (hSub : sub 0x1000000020 msk = true) (hBase : Keeps msk base s) : Keeps msk base (State.stageImage s ws) := by
  refine Keeps.step (v := 0x1000000020) ?_ hSolid hSub hBase
  clear hSolid hSub hBase
  unfold State.stageImage
  try dsimp only
  repeat' first
    | (with_reducible rfl)
    | (with_reducible exact Keeps.refl _ _)
    | (with_reducible apply Keeps.ite)
    | (with_reducible assumption)
    | (with_reducible apply State.setBoot_step _ (fun h => h))
    | (with_reducible apply State.setBoot_step _ (by simp))
    | (with_reducible apply Keeps.setFld regWindow_cfgStagePtr)
    | intro _
    | (exact (rfl : true = true))
    | split

theorem State.trySources_step {msk : Nat} {base s : State} (sfdp : Bool) (eeprom : List Word) (l : List Nat) (hSolid : solid msk = true)
    (hSub : sub 0x1000100020 msk = true) (hBase : Keeps msk base s) : Keeps msk base (State.trySources s sfdp eeprom l) := by
  induction l generalizing s with
  | nil => exact hBase
  | cons src l ih =>
    unfold State.trySources
    dsimp only
    have k := State.stageImage_step ((s.sourceImage sfdp eeprom src).getD []) hSolid (sub_trans rfl hSub) hBase
    split
    · exact State.setBoot_step _ (fun h => h) hSolid (sub_trans rfl hSub) k
    · exact ih (State.imageFail_step _ _ _ hSolid (sub_trans rfl hSub) k)

theorem State.readyEvents_step {msk : Nat} {base s : State}  (hSolid : solid msk = true)
    (hSub : sub 0x202006004001C msk = true) (hBase : Keeps msk base s) : Keeps msk base (State.readyEvents s) := by
  refine Keeps.step (v := 0x202006004001C) ?_ hSolid hSub hBase
  clear hSolid hSub hBase
  unfold State.readyEvents
  try dsimp only
  repeat' first
    | (with_reducible rfl)
    | (with_reducible exact Keeps.refl _ _)
    | (with_reducible apply Keeps.ite)
    | (with_reducible assumption)
    | (with_reducible apply State.pitchEvent_step)
    | (with_reducible apply Keeps.each)
    | intro _
    | (exact (rfl : true = true))
    | split

theorem State.earlyHealth_step {msk : Nat} {base s : State}  (hSolid : solid msk = true)
    (hSub : sub 0x202006004001C msk = true) (hBase : Keeps msk base s) : Keeps msk base (State.earlyHealth s) := by
  refine Keeps.step (v := 0x202006004001C) ?_ hSolid hSub hBase
  clear hSolid hSub hBase
  unfold State.earlyHealth
  try dsimp only
  repeat' first
    | (with_reducible rfl)
    | (with_reducible exact Keeps.refl _ _)
    | (with_reducible apply Keeps.ite)
    | (with_reducible assumption)
    | (with_reducible apply State.setHif_step)
    | (with_reducible apply Keeps.each)
    | (with_reducible apply State.health_step)
    | intro _
    | (exact (rfl : true = true))
    | split

theorem State.recordEvents_step {msk : Nat} {base s : State}  (hSolid : solid msk = true)
    (hSub : sub 0x202006004041C msk = true) (hBase : Keeps msk base s) : Keeps msk base (State.recordEvents s) := by
  refine Keeps.step (v := 0x202006004041C) ?_ hSolid hSub hBase
  clear hSolid hSub hBase
  unfold State.recordEvents
  try dsimp only
  repeat' first
    | (with_reducible rfl)
    | (with_reducible exact Keeps.refl _ _)
    | (with_reducible apply Keeps.ite)
    | (with_reducible assumption)
    | (with_reducible apply State.setRecords_step)
    | (with_reducible apply State.event_step)
    | (with_reducible apply Keeps.each)
    | intro _
    | (exact (rfl : true = true))
    | split

theorem State.lanternBack_step {msk : Nat} {base s : State}  (hSolid : solid msk = true)
    (hSub : sub 0x8202006006001C msk = true) (hBase : Keeps msk base s) : Keeps msk base (State.lanternBack s) := by
  refine Keeps.step (v := 0x8202006006001C) ?_ hSolid hSub hBase
  clear hSolid hSub hBase
  unfold State.lanternBack
  try dsimp only
  repeat' first
    | (with_reducible rfl)
    | (with_reducible exact Keeps.refl _ _)
    | (with_reducible apply Keeps.ite)
    | (with_reducible assumption)
    | (with_reducible apply State.pitchEvent_step)
    | (with_reducible apply State.setLantern_step)
    | (with_reducible apply Keeps.setReg (regWindow_lntReg ..))
    | (with_reducible apply Keeps.each)
    | intro _
    | (exact (rfl : true = true))
    | split

theorem State.slicesUp_step {msk : Nat} {base s : State}  (hSolid : solid msk = true)
    (hSub : sub 0x100000000000200 msk = true) (hBase : Keeps msk base s) : Keeps msk base (State.slicesUp s) := by
  refine Keeps.step (v := 0x100000000000200) ?_ hSolid hSub hBase
  clear hSolid hSub hBase
  unfold State.slicesUp
  try dsimp only
  repeat' first
    | (with_reducible rfl)
    | (with_reducible exact Keeps.refl _ _)
    | (with_reducible apply Keeps.ite)
    | (with_reducible assumption)
    | (with_reducible apply Keeps.each)
    | (with_reducible apply State.sliceTo_step)
    | (with_reducible apply State.sliceShow_step)
    | intro _
    | (exact (rfl : true = true))
    | split

theorem State.startSlots_step {msk : Nat} {base s : State}  (hSolid : solid msk = true)
    (hSub : sub 0x2002000000100004 msk = true) (hBase : Keeps msk base s) : Keeps msk base (State.startSlots s) := by
  refine Keeps.step (v := 0x2002000000100004) ?_ hSolid hSub hBase
  clear hSolid hSub hBase
  unfold State.startSlots
  try dsimp only
  repeat' first
    | (with_reducible rfl)
    | (with_reducible exact Keeps.refl _ _)
    | (with_reducible apply Keeps.ite)
    | (with_reducible assumption)
    | (with_reducible exact slotWords_length _ _ _)
    | (with_reducible apply State.putCkSlot_step)
    | (with_reducible apply State.setHlt_step)
    | (with_reducible apply Keeps.each)
    | intro _
    | (exact (rfl : true = true))
    | split

theorem State.makeReady_step {msk : Nat} {base s : State} (q : ResetSeq) (hSolid : solid msk = true)
    (hSub : sub 0x75EA8BB0629667FD msk = true) (hBase : Keeps msk base s) : Keeps msk base (State.makeReady s q) := by
  refine Keeps.step (v := 0x75EA8BB0629667FD) ?_ hSolid hSub hBase
  clear hSolid hSub hBase
  unfold State.makeReady
  try dsimp only
  repeat' first
    | (with_reducible rfl)
    | (with_reducible exact Keeps.refl _ _)
    | (with_reducible apply Keeps.ite)
    | (with_reducible assumption)
    | (with_reducible apply State.setClock_step)
    | (with_reducible apply State.setHif_step)
    | (with_reducible apply Keeps.setBit regWindow_cfgStatus)
    | (with_reducible apply Keeps.setBit regWindow_hifSpiStatus)
    | (with_reducible apply Keeps.setBit regWindow_schStatus)
    | (with_reducible apply State.trace_step)
    | (with_reducible apply State.slicesUp_step)
    | (with_reducible apply State.readyEvents_step)
    | (with_reducible apply State.earlyHealth_step)
    | (with_reducible apply State.recordEvents_step)
    | (with_reducible apply State.lanternBack_step)
    | (with_reducible apply State.startSlots_step)
    | (with_reducible apply Keeps.each)
    | (with_reducible apply Keeps.setFld (regWindow_awnStatus ..))
    | (with_reducible apply State.driveCxp_step)
    | (with_reducible apply State.driveInt_step)
    | (with_reducible refine State.setSch_mkStep (congrArg Sch.next (State.setBit_sch _ _ _ _)).symm ?_ ?_ ?_)
    | (with_reducible apply State.setBoot_upStep)
    | intro _
    | (exact (rfl : true = true))
    | split

theorem State.sampleStraps_step {msk : Nat} {base s : State} (due : Bool) (v : List (Option Bool)) (hSolid : solid msk = true)
    (hSub : sub 0x801000000 msk = true) (hBase : Keeps msk base s) : Keeps msk base (State.sampleStraps s due v) := by
  refine Keeps.step (v := 0x801000000) ?_ hSolid hSub hBase
  clear hSolid hSub hBase
  unfold State.sampleStraps
  try dsimp only
  repeat' first
    | (with_reducible rfl)
    | (with_reducible exact Keeps.refl _ _)
    | (with_reducible apply Keeps.ite)
    | (with_reducible assumption)
    | (with_reducible apply Keeps.foldl)
    | (with_reducible apply State.setCab_step)
    | (with_reducible apply Keeps.setReg regWindow_rstStraps)
    | intro _
    | (exact (rfl : true = true))
    | split

theorem State.step4_step {msk : Nat} {base s : State} (q : ResetSeq) (i : BootInput) (hSolid : solid msk = true)
    (hSub : sub 0x31229720E21463FE msk = true) (hBase : Keeps msk base s) : Keeps msk base (State.step4 s q i) := by
  refine Keeps.step (v := 0x31229720E21463FE) ?_ hSolid hSub hBase
  clear hSolid hSub hBase
  unfold State.step4
  try dsimp only
  repeat' first
    | (with_reducible rfl)
    | (with_reducible exact Keeps.refl _ _)
    | (with_reducible apply Keeps.ite)
    | (with_reducible assumption)
    | (with_reducible apply Keeps.each)
    | (with_reducible apply State.compareCal_step)
    | (with_reducible apply State.setBoot_step _ (fun h => h))
    | (with_reducible apply State.setBoot_step _ (by simp))
    | (with_reducible apply State.setMem_step _ (fun h => (SMap.wf_put (fun _ => (0 : Byte)) _ _ _ h)))
    | (with_reducible apply State.setMem_step _ (fun h => (SMap.wf_filter _ _ _ h)))
    | (with_reducible apply State.setMem_step _ (fun _ => rfl))
    | (with_reducible apply State.setEcc_step _ (fun h => (SMap.wf_put (fun _ => (0 : Word)) _ _ _ h)))
    | (with_reducible apply State.setEcc_step _ (fun h => (SMap.wf_filter _ _ _ h)))
    | (with_reducible apply State.setEcc_step _ (fun _ => rfl))
    | intro _
    | (exact (rfl : true = true))
    | split

theorem State.step5_step {msk : Nat} {base s : State} (q : ResetSeq) (i : BootInput) (hSolid : solid msk = true)
    (hSub : sub 0x100001000100020 msk = true) (hBase : Keeps msk base s) : Keeps msk base (State.step5 s q i) := by
  refine Keeps.step (v := 0x100001000100020) ?_ hSolid hSub hBase
  clear hSolid hSub hBase
  unfold State.step5
  try dsimp only
  repeat' first
    | (with_reducible rfl)
    | (with_reducible exact Keeps.refl _ _)
    | (with_reducible apply Keeps.ite)
    | (with_reducible assumption)
    | (with_reducible apply State.logScan_step)
    | (with_reducible refine Keeps.fst (State.logScan_step (by assumption) ?_ ?_ ?_) (by assumption))
    | (with_reducible apply State.setBoot_step _ (fun h => h))
    | (with_reducible apply State.setBoot_step _ (by simp))
    | intro _
    | (exact (rfl : true = true))
    | split

theorem State.step6_step {msk : Nat} {base s : State} (q : ResetSeq) (i : BootInput) (hSolid : solid msk = true)
    (hSub : sub 0x1000100020 msk = true) (hBase : Keeps msk base s) : Keeps msk base (State.step6 s q i) := by
  refine Keeps.step (v := 0x1000100020) ?_ hSolid hSub hBase
  clear hSolid hSub hBase
  unfold State.step6
  try dsimp only
  repeat' first
    | (with_reducible rfl)
    | (with_reducible exact Keeps.refl _ _)
    | (with_reducible apply Keeps.ite)
    | (with_reducible assumption)
    | (with_reducible apply State.setBoot_step _ (fun h => h))
    | (with_reducible apply State.setBoot_step _ (by simp))
    | (with_reducible apply State.trySources_step)
    | intro _
    | (exact (rfl : true = true))
    | split

theorem State.step7_step {msk : Nat} {base s : State} (q : ResetSeq) (i : BootInput) (hSolid : solid msk = true)
    (hSub : sub 0xFFFFFFFEFFFFFFFF msk = true) (hBase : Keeps msk base s) : Keeps msk base (State.step7 s q i) := by
  refine Keeps.step (v := 0xFFFFFFFEFFFFFFFF) ?_ hSolid hSub hBase
  clear hSolid hSub hBase
  unfold State.step7
  try dsimp only
  repeat' first
    | (with_reducible rfl)
    | (with_reducible exact Keeps.refl _ _)
    | (with_reducible apply Keeps.ite)
    | (with_reducible assumption)
    | (with_reducible apply State.applyImage_step)
    | (with_reducible apply State.imageFail_step)
    | (with_reducible apply State.trySources_step)
    | (with_reducible apply State.setBoot_step _ (fun h => h))
    | (with_reducible apply State.setBoot_step _ (by simp))
    | intro _
    | (exact (rfl : true = true))
    | split

theorem State.stepDone_step {msk : Nat} {base s : State} (i : BootInput) (hSolid : solid msk = true)
    (hSub : sub 0xFFFFFFFEFFFFFFFF msk = true) (hBase : Keeps msk base s) : Keeps msk base (State.stepDone s i) := by
  refine Keeps.step (v := 0xFFFFFFFEFFFFFFFF) ?_ hSolid hSub hBase
  clear hSolid hSub hBase
  unfold State.stepDone
  try dsimp only
  repeat' first
    | (with_reducible rfl)
    | (with_reducible exact Keeps.refl _ _)
    | (with_reducible apply Keeps.ite)
    | (with_reducible assumption)
    | (with_reducible apply State.sampleStraps_step)
    | (with_reducible apply State.step4_step)
    | (with_reducible apply State.step5_step)
    | (with_reducible apply State.step6_step)
    | (with_reducible apply State.step7_step)
    | (with_reducible apply State.makeReady_step)
    | (with_reducible apply State.setBoot_upStep)
    | intro _
    | (exact (rfl : true = true))
    | split

theorem State.imageTimeout_step {msk : Nat} {base s : State}  (hSolid : solid msk = true)
    (hSub : sub 0x20 msk = true) (hBase : Keeps msk base s) : Keeps msk base (State.imageTimeout s) := by
  refine Keeps.step (v := 0x20) ?_ hSolid hSub hBase
  clear hSolid hSub hBase
  unfold State.imageTimeout
  try dsimp only
  repeat' first
    | (with_reducible rfl)
    | (with_reducible exact Keeps.refl _ _)
    | (with_reducible apply Keeps.ite)
    | (with_reducible assumption)
    | (with_reducible apply State.setBoot_step _ (fun h => h))
    | (with_reducible apply State.setBoot_step _ (by simp))
    | intro _
    | (exact (rfl : true = true))
    | split

theorem State.load_step {msk : Nat} {base s : State}  (hSolid : solid msk = true)
    (hSub : sub 0xFFFFFFFEFFFFFFFF msk = true) (hBase : Keeps msk base s) : Keeps msk base (State.load s) := by
  refine Keeps.step (v := 0xFFFFFFFEFFFFFFFF) ?_ hSolid hSub hBase
  clear hSolid hSub hBase
  unfold State.load
  try dsimp only
  repeat' first
    | (with_reducible rfl)
    | (with_reducible exact Keeps.refl _ _)
    | (with_reducible apply Keeps.ite)
    | (with_reducible assumption)
    | (with_reducible apply State.applyImage_step)
    | (with_reducible apply State.imageFail_step)
    | intro _
    | (exact (rfl : true = true))
    | split

theorem State.cfgCtrlWrite_step {msk : Nat} {base s : State} (v : Word) (hSolid : solid msk = true)
    (hSub : sub 0xFFFFFFFEFFFFFFFF msk = true) (hBase : Keeps msk base s) : Keeps msk base (State.cfgCtrlWrite s v) := by
  refine Keeps.step (v := 0xFFFFFFFEFFFFFFFF) ?_ hSolid hSub hBase
  clear hSolid hSub hBase
  unfold State.cfgCtrlWrite
  try dsimp only
  repeat' first
    | (with_reducible rfl)
    | (with_reducible exact Keeps.refl _ _)
    | (with_reducible apply Keeps.ite)
    | (with_reducible assumption)
    | (with_reducible apply State.restage_step)
    | (with_reducible apply State.load_step)
    | intro _
    | (exact (rfl : true = true))
    | split

end Sys2Proof.Machine
end

