-- ==== Sys2Proof/Laws/KeepsBus.lean ====
section
/-! SUPPORT. What each operation of Machine/Bus.lean may change (Laws/Keeps.lean reads the masks). -/

namespace Sys2Proof.Machine

set_option linter.unreachableTactic false
set_option linter.unusedTactic false

theorem State.busRead_step {msk : Nat} {base s : State} (m : Master) (eth : Bool) (off : ℕ) (hSolid : solid msk = true)
    (hSub : sub 0x801246A07004045C msk = true) (hBase : Keeps msk base s) : Keeps msk base (State.busRead s m eth off).1 := by
  refine Keeps.step (v := 0x801246A07004045C) ?_ hSolid hSub hBase
  clear hSolid hSub hBase
  unfold State.busRead
  try dsimp only
  repeat' first
    | (with_reducible rfl)
    | (with_reducible exact Keeps.refl _ _)
    | (with_reducible apply Keeps.ite)
    | (with_reducible assumption)
    | (with_reducible apply State.alloc_step)
    | (with_reducible refine Keeps.fst (State.alloc_step (by assumption) ?_ ?_ ?_) (by assumption))
    | (with_reducible apply State.viewLoad_step)
    | (with_reducible refine Keeps.fst (State.viewLoad_step (by assumption) ?_ ?_ ?_) (by assumption))
    | (with_reducible apply State.outside_step)
    | intro _
    | (exact (rfl : true = true))
    | split

theorem State.busWrite64_step {msk : Nat} {base s : State} (m : Master) (off : ℕ) (v : Word) (hSolid : solid msk = true)
    (hSub : sub 0xFFFFFFFEFFFFFFFF msk = true) (hBase : Keeps msk base s) : Keeps msk base (State.busWrite64 s m off v) := by
  refine Keeps.step (v := 0xFFFFFFFEFFFFFFFF) ?_ hSolid hSub hBase
  clear hSolid hSub hBase
  unfold State.busWrite64
  try dsimp only
  repeat' first
    | (with_reducible rfl)
    | (with_reducible exact Keeps.refl _ _)
    | (with_reducible apply Keeps.ite)
    | (with_reducible assumption)
    | (with_reducible apply State.setPit_step)
    | (with_reducible apply State.writeData_step)
    | (with_reducible apply State.pitKeyCmd_step)
    | (with_reducible apply State.cfgCtrlWrite_step)
    | (with_reducible apply State.regWrite_step)
    | (with_reducible apply State.msixWrite_step)
    | (with_reducible apply State.doorbell_step)
    | (with_reducible apply State.gshWrite_step)
    | (with_reducible apply State.outside_step)
    | intro _
    | (exact (rfl : true = true))
    | split

theorem State.upperRead_step {msk : Nat} {base s : State} (m : Master) (x : Nat) (hSolid : solid msk = true)
    (hSub : sub 0x801246A07004045C msk = true) (hBase : Keeps msk base s) : Keeps msk base (State.upperRead s m x) := by
  refine Keeps.step (v := 0x801246A07004045C) ?_ hSolid hSub hBase
  clear hSolid hSub hBase
  unfold State.upperRead
  try dsimp only
  repeat' first
    | (with_reducible rfl)
    | (with_reducible exact Keeps.refl _ _)
    | (with_reducible apply Keeps.ite)
    | (with_reducible assumption)
    | (with_reducible apply State.respond_step)
    | (with_reducible apply State.outside_step)
    | (with_reducible apply State.viewLoad_step)
    | (with_reducible refine Keeps.fst (State.viewLoad_step (by assumption) ?_ ?_ ?_) (by assumption))
    | (with_reducible apply State.busRead_step)
    | (with_reducible refine Keeps.fst (State.busRead_step (by assumption) ?_ ?_ ?_) (by assumption))
    | intro _
    | (exact (rfl : true = true))
    | split

theorem State.narrowRead_step {msk : Nat} {base s : State} (m : Master) (off : Nat) (hSolid : solid msk = true)
    (hSub : sub 0x801246A0700C045C msk = true) (hBase : Keeps msk base s) : Keeps msk base (State.narrowRead s m off) := by
  refine Keeps.step (v := 0x801246A0700C045C) ?_ hSolid hSub hBase
  clear hSolid hSub hBase
  unfold State.narrowRead
  try dsimp only
  repeat' first
    | (with_reducible rfl)
    | (with_reducible exact Keeps.refl _ _)
    | (with_reducible apply Keeps.ite)
    | (with_reducible assumption)
    | (with_reducible apply State.outside_step)
    | (with_reducible apply State.busRead_step)
    | (with_reducible refine Keeps.fst (State.busRead_step (by assumption) ?_ ?_ ?_) (by assumption))
    | (with_reducible apply State.setPit_step)
    | (with_reducible apply State.respond_step)
    | (with_reducible apply State.upperRead_step)
    | intro _
    | (exact (rfl : true = true))
    | split

theorem State.wideRead_step {msk : Nat} {base s : State} (m : Master) (off : Nat) (hSolid : solid msk = true)
    (hSub : sub 0x801246A07004045C msk = true) (hBase : Keeps msk base s) : Keeps msk base (State.wideRead s m off) := by
  refine Keeps.step (v := 0x801246A07004045C) ?_ hSolid hSub hBase
  clear hSolid hSub hBase
  unfold State.wideRead
  try dsimp only
  repeat' first
    | (with_reducible rfl)
    | (with_reducible exact Keeps.refl _ _)
    | (with_reducible apply Keeps.ite)
    | (with_reducible assumption)
    | (with_reducible apply State.busRead_step)
    | (with_reducible refine Keeps.fst (State.busRead_step (by assumption) ?_ ?_ ?_) (by assumption))
    | (with_reducible apply State.respond_step)
    | intro _
    | (exact (rfl : true = true))
    | split

theorem State.viewRead_step {msk : Nat} {base s : State} (m : Master) (off n : Nat) (hSolid : solid msk = true)
    (hSub : sub 0x801246A0700C045C msk = true) (hBase : Keeps msk base s) : Keeps msk base (State.viewRead s m off n) := by
  refine Keeps.step (v := 0x801246A0700C045C) ?_ hSolid hSub hBase
  clear hSolid hSub hBase
  unfold State.viewRead
  try dsimp only
  repeat' first
    | (with_reducible rfl)
    | (with_reducible exact Keeps.refl _ _)
    | (with_reducible apply Keeps.ite)
    | (with_reducible assumption)
    | (with_reducible apply State.gshRead_step)
    | (with_reducible apply State.outside_step)
    | (with_reducible apply State.respond_step)
    | (with_reducible apply State.narrowRead_step)
    | (with_reducible apply State.wideRead_step)
    | intro _
    | (exact (rfl : true = true))
    | split

theorem State.msixHalf_step {msk : Nat} {base s : State} (m : Master) (k : ℕ) (upper : Bool) (v : ℕ) (hSolid : solid msk = true)
    (hSub : sub 0x20040000 msk = true) (hBase : Keeps msk base s) : Keeps msk base (State.msixHalf s m k upper v) := by
  refine Keeps.step (v := 0x20040000) ?_ hSolid hSub hBase
  clear hSolid hSub hBase
  unfold State.msixHalf
  try dsimp only
  repeat' first
    | (with_reducible rfl)
    | (with_reducible exact Keeps.refl _ _)
    | (with_reducible apply Keeps.ite)
    | (with_reducible assumption)
    | (with_reducible apply State.msixWrite_step)
    | intro _
    | (exact (rfl : true = true))
    | split

theorem State.oneWrite_step {msk : Nat} {base s : State} (w : HostWrite) (data : Word → Word) (hSolid : solid msk = true)
    (hSub : sub 0xFFFFFFFEFFFFFFFF msk = true) (hBase : Keeps msk base s) : Keeps msk base (State.oneWrite s w data) := by
  refine Keeps.step (v := 0xFFFFFFFEFFFFFFFF) ?_ hSolid hSub hBase
  clear hSolid hSub hBase
  unfold State.oneWrite
  try dsimp only
  repeat' first
    | (with_reducible rfl)
    | (with_reducible exact Keeps.refl _ _)
    | (with_reducible apply Keeps.ite)
    | (with_reducible assumption)
    | (with_reducible apply State.gshWrite_step)
    | (with_reducible apply State.outside_step)
    | (with_reducible apply State.msixHalf_step)
    | (with_reducible apply State.setPit_step)
    | (with_reducible apply State.busWrite64_step)
    | intro _
    | (exact (rfl : true = true))
    | split

theorem State.cycleWrite_step {msk : Nat} {base s : State} (lost : Bool) (more : Word) (w : HostWrite) (hSolid : solid msk = true)
    (hSub : sub 0xFFFFFFFEFFFFFFFF msk = true) (hBase : Keeps msk base s) : Keeps msk base (State.cycleWrite s lost more w) := by
  refine Keeps.step (v := 0xFFFFFFFEFFFFFFFF) ?_ hSolid hSub hBase
  clear hSolid hSub hBase
  unfold State.cycleWrite
  try dsimp only
  repeat' first
    | (with_reducible rfl)
    | (with_reducible exact Keeps.refl _ _)
    | (with_reducible apply Keeps.ite)
    | (with_reducible assumption)
    | (with_reducible apply State.oneWrite_step)
    | (with_reducible apply State.setPit_step)
    | intro _
    | (exact (rfl : true = true))
    | split

theorem State.contend_step {msk : Nat} {base s : State} (losers : List HostWrite) (hSolid : solid msk = true)
    (hSub : sub 0x10000000000000 msk = true) (hBase : Keeps msk base s) : Keeps msk base (State.contend s losers) := by
  refine Keeps.step (v := 0x10000000000000) ?_ hSolid hSub hBase
  clear hSolid hSub hBase
  unfold State.contend
  try dsimp only
  repeat' first
    | (with_reducible rfl)
    | (with_reducible exact Keeps.refl _ _)
    | (with_reducible apply Keeps.ite)
    | (with_reducible assumption)
    | (with_reducible apply Keeps.bumpSat regWindow_pitContend)
    | (with_reducible apply Keeps.setFld regWindow_pitContend)
    | (with_reducible apply Keeps.foldl)
    | intro _
    | (exact (rfl : true = true))
    | split

theorem State.cycleWrites_step {msk : Nat} {base s : State} (ws : List HostWrite) (hSolid : solid msk = true)
    (hSub : sub 0xFFFFFFFEFFFFFFFF msk = true) (hBase : Keeps msk base s) : Keeps msk base (State.cycleWrites s ws) := by
  refine Keeps.step (v := 0xFFFFFFFEFFFFFFFF) ?_ hSolid hSub hBase
  clear hSolid hSub hBase
  unfold State.cycleWrites
  try dsimp only
  repeat' first
    | (with_reducible rfl)
    | (with_reducible exact Keeps.refl _ _)
    | (with_reducible apply Keeps.ite)
    | (with_reducible assumption)
    | (with_reducible apply State.newCycle_step)
    | (with_reducible apply Keeps.each)
    | (with_reducible apply State.cycleWrite_step)
    | (with_reducible apply State.contend_step)
    | intro _
    | (exact (rfl : true = true))
    | split

theorem State.viewWrite_step {msk : Nat} {base s : State} (m : Master) (off : Nat) (l : List Byte) (hSolid : solid msk = true)
    (hSub : sub 0xFFFFFFFEFFFFFFFF msk = true) (hBase : Keeps msk base s) : Keeps msk base (State.viewWrite s m off l) := by
  refine Keeps.step (v := 0xFFFFFFFEFFFFFFFF) ?_ hSolid hSub hBase
  clear hSolid hSub hBase
  unfold State.viewWrite
  try dsimp only
  repeat' first
    | (with_reducible rfl)
    | (with_reducible exact Keeps.refl _ _)
    | (with_reducible apply Keeps.ite)
    | (with_reducible assumption)
    | (with_reducible apply State.gshWrite_step)
    | (with_reducible apply State.outside_step)
    | (with_reducible apply State.cycleWrites_step)
    | intro _
    | (exact (rfl : true = true))
    | split

end Sys2Proof.Machine
end

