-- ==== Sys2Proof/Laws/KeepsClocking.lean ====
section
/-! SUPPORT. What each operation of Machine/Clocking.lean may change (Laws/Keeps.lean reads the masks). -/

namespace Sys2Proof.Machine

set_option linter.unreachableTactic false
set_option linter.unusedTactic false

theorem State.idle_step {msk : Nat} {base s : State}  (hSolid : solid msk = true)
    (hSub : sub 0x14239B206284E7DD msk = true) (hBase : Keeps msk base s) : Keeps msk base (State.idle s) := by
  refine Keeps.step (v := 0x14239B206284E7DD) ?_ hSolid hSub hBase
  clear hSolid hSub hBase
  unfold State.idle
  try dsimp only
  repeat' first
    | (with_reducible rfl)
    | (with_reducible exact Keeps.refl _ _)
    | (with_reducible apply Keeps.ite)
    | (with_reducible assumption)
    | (with_reducible apply State.runsTick_step)
    | (with_reducible apply State.traceFlow_step)
    | (with_reducible apply State.setClock_step)
    | (with_reducible apply State.setTick_step)
    | (with_reducible apply State.cxTick_step)
    | intro _
    | (exact (rfl : true = true))
    | split

end Sys2Proof.Machine
end

