-- ==== Sys2Proof/Laws/KeepsEthernet.lean ====
section
/-! SUPPORT. What each operation of Machine/Ethernet.lean may change (Laws/Keeps.lean reads the masks). -/

namespace Sys2Proof.Machine

set_option linter.unreachableTactic false
set_option linter.unusedTactic false

theorem State.setSources_step {msk : Nat} {base s : State} (l : List Source) (hSolid : solid msk = true)
    (hSub : sub 0x8000000040000 msk = true) (hBase : Keeps msk base s) : Keeps msk base (State.setSources s l) := by
  refine Keeps.step (v := 0x8000000040000) ?_ hSolid hSub hBase
  clear hSolid hSub hBase
  unfold State.setSources
  try dsimp only
  repeat' first
    | (with_reducible rfl)
    | (with_reducible exact Keeps.refl _ _)
    | (with_reducible apply Keeps.ite)
    | (with_reducible assumption)
    | (with_reducible apply State.setHif_step)
    | (with_reducible apply Keeps.setFld regWindow_hifEthAuth)
    | intro _
    | (exact (rfl : true = true))
    | split

theorem State.ethFail_step {msk : Nat} {base s : State} (ip : BitVec 32) (hSolid : solid msk = true)
    (hSub : sub 0x8000000040000 msk = true) (hBase : Keeps msk base s) : Keeps msk base (State.ethFail s ip) := by
  refine Keeps.step (v := 0x8000000040000) ?_ hSolid hSub hBase
  clear hSolid hSub hBase
  unfold State.ethFail
  try dsimp only
  repeat' first
    | (with_reducible rfl)
    | (with_reducible exact Keeps.refl _ _)
    | (with_reducible apply Keeps.ite)
    | (with_reducible assumption)
    | (with_reducible apply State.setSources_step)
    | (with_reducible apply Keeps.bump regWindow_hifEthAuth)
    | intro _
    | (exact (rfl : true = true))
    | split

theorem State.sourceExpire_step {msk : Nat} {base s : State} (ip : BitVec 32) (hSolid : solid msk = true)
    (hSub : sub 0x8000000040000 msk = true) (hBase : Keeps msk base s) : Keeps msk base (State.sourceExpire s ip) := by
  refine Keeps.step (v := 0x8000000040000) ?_ hSolid hSub hBase
  clear hSolid hSub hBase
  unfold State.sourceExpire
  try dsimp only
  repeat' first
    | (with_reducible rfl)
    | (with_reducible exact Keeps.refl _ _)
    | (with_reducible apply Keeps.ite)
    | (with_reducible assumption)
    | (with_reducible apply State.setSources_step)
    | intro _
    | (exact (rfl : true = true))
    | split

theorem State.ethSend_step {msk : Nat} {base s : State} (q : ℕ) (x : ℕ) (more : Bool) (ws : List Word) (hSolid : solid msk = true)
    (hSub : sub 0x20040000 msk = true) (hBase : Keeps msk base s) : Keeps msk base (State.ethSend s q x more ws) := by
  refine Keeps.step (v := 0x20040000) ?_ hSolid hSub hBase
  clear hSolid hSub hBase
  unfold State.ethSend
  try dsimp only
  repeat' first
    | (with_reducible rfl)
    | (with_reducible exact Keeps.refl _ _)
    | (with_reducible apply Keeps.ite)
    | (with_reducible assumption)
    | (with_reducible apply State.setEp_step)
    | (with_reducible apply State.emit_step)
    | intro _
    | (exact (rfl : true = true))
    | split

theorem State.ethSendAll_step {msk : Nat} {base s : State} (q : ℕ) (x : ℕ) (ms : List (List Word)) (hSolid : solid msk = true)
    (hSub : sub 0x20040000 msk = true) (hBase : Keeps msk base s) : Keeps msk base (State.ethSendAll s q x ms) := by
  refine Keeps.step (v := 0x20040000) ?_ hSolid hSub hBase
  clear hSolid hSub hBase
  unfold State.ethSendAll
  try dsimp only
  repeat' first
    | (with_reducible rfl)
    | (with_reducible exact Keeps.refl _ _)
    | (with_reducible apply Keeps.ite)
    | (with_reducible assumption)
    | (with_reducible apply State.ethSend_step)
    | (with_reducible apply Keeps.each)
    | intro _
    | (exact (rfl : true = true))
    | split

theorem State.ueDropAt_step {msk : Nat} {base s : State} (n : ℕ) (i : ℕ) (p : Packet) (hSolid : solid msk = true)
    (hSub : sub 0x200008004001C msk = true) (hBase : Keeps msk base s) : Keeps msk base (State.ueDropAt s n i p) := by
  refine Keeps.step (v := 0x200008004001C) ?_ hSolid hSub hBase
  clear hSolid hSub hBase
  unfold State.ueDropAt
  try dsimp only
  repeat' first
    | (with_reducible rfl)
    | (with_reducible exact Keeps.refl _ _)
    | (with_reducible apply Keeps.ite)
    | (with_reducible assumption)
    | (with_reducible apply State.touchAll_step)
    | (with_reducible apply State.setBufList_step)
    | (with_reducible apply State.setFifo_step)
    | (with_reducible apply State.dropPacket_step)
    | (with_reducible apply State.driveInt_step)
    | (with_reducible apply Keeps.setBit (regWindow_gshFifoStatus _))
    | intro _
    | (exact (rfl : true = true))
    | split

theorem Gather.take_step {msk : Nat} {base : State} {g : Gather} (room n i : Nat) (p : Packet) (hSolid : solid msk = true)
    (hSub : sub 0x2000000000004 msk = true) (hBase : Keeps msk base g.s) : Keeps msk base (g.take room n i p).s := by
  refine Keeps.step (v := 0x2000000000004) ?_ hSolid hSub hBase
  unfold Gather.take
  split
  · exact Keeps.refl _ _
  · exact State.touchAll_step _ rfl rfl (Keeps.refl _ _)

theorem Gather.fifo_step {msk : Nat} {base : State} (room window n k : Nat) (g : Gather) (hSolid : solid msk = true)
    (hSub : sub 0x200008004001C msk = true) (hBase : Keeps msk base g.s) : Keeps msk base (Gather.fifo room window n k g).s := by
  refine Keeps.step (v := 0x200008004001C) ?_ hSolid hSub hBase
  clear hSolid hSub hBase
  induction k generalizing g with
  | zero => exact Keeps.refl _ _
  | succ k ih =>
    unfold Gather.fifo
    dsimp only
    split
    · exact Keeps.refl _ _
    · split
      · exact Keeps.refl _ _
      · rename_i p _
        split
        · exact Keeps.trans rfl (State.ueDropAt_step _ _ _ rfl rfl (Keeps.refl _ _))
            (ih { g with s := g.s.ueDropAt n (SMap.look 0 g.flight n) p })
        · exact Keeps.trans rfl (Gather.take_step room n (SMap.look 0 g.flight n) p rfl rfl (Keeps.refl _ _))
            (ih (g.take room n (SMap.look 0 g.flight n) p))

theorem State.ethTransmit_step {msk : Nat} {base s : State} (q : ℕ) (x : ℕ) (hSolid : solid msk = true)
    (hSub : sub 0xA0000A004001C msk = true) (hBase : Keeps msk base s) : Keeps msk base (State.ethTransmit s q x) := by
  refine Keeps.step (v := 0xA0000A004001C) ?_ hSolid hSub hBase
  clear hSolid hSub hBase
  unfold State.ethTransmit
  try dsimp only
  repeat' first
    | (with_reducible rfl)
    | (with_reducible exact Keeps.refl _ _)
    | (with_reducible apply Keeps.ite)
    | (with_reducible assumption)
    | (with_reducible apply Gather.fifo_step)
    | (with_reducible refine Keeps.fst (Gather.fifo_step (by assumption) ?_ ?_ ?_) (by assumption))
    | (with_reducible apply State.setEp_step)
    | (with_reducible apply State.showWaiting_step)
    | (with_reducible apply State.ethSendAll_step)
    | (with_reducible apply Keeps.foldWith Gather.s)
    | (with_reducible apply Keeps.foldl)
    | intro _
    | (exact (rfl : true = true))
    | split

theorem State.regather_step {msk : Nat} {base s : State} (n : ℕ) (i : ℕ) (x3 : ℕ) (hSolid : solid msk = true)
    (hSub : sub 0x200008004001C msk = true) (hBase : Keeps msk base s) : Keeps msk base (State.regather s n i x3).1 := by
  refine Keeps.step (v := 0x200008004001C) ?_ hSolid hSub hBase
  clear hSolid hSub hBase
  fun_induction State.regather s n i x3
  all_goals
    try dsimp only
    repeat' first
      | (with_reducible rfl)
      | (with_reducible exact Keeps.refl _ _)
      | (with_reducible apply Keeps.ite)
      | (with_reducible assumption)
      | (with_reducible refine Keeps.trans ?_ ?_ (by assumption))
      | (with_reducible apply State.ueDropAt_step)
      | (with_reducible apply State.touchAll_step)
      | intro _
      | (exact (rfl : true = true))
      | split

theorem State.ethResend_step {msk : Nat} {base s : State} (q : ℕ) (x : ℕ) (hSolid : solid msk = true)
    (hSub : sub 0xA0000A004001C msk = true) (hBase : Keeps msk base s) : Keeps msk base (State.ethResend s q x) := by
  refine Keeps.step (v := 0xA0000A004001C) ?_ hSolid hSub hBase
  clear hSolid hSub hBase
  unfold State.ethResend
  try dsimp only
  repeat' first
    | (with_reducible rfl)
    | (with_reducible exact Keeps.refl _ _)
    | (with_reducible apply Keeps.ite)
    | (with_reducible assumption)
    | (with_reducible apply State.regather_step)
    | (with_reducible refine Keeps.fst (State.regather_step (by assumption) ?_ ?_ ?_) (by assumption))
    | (with_reducible apply State.setEp_step)
    | (with_reducible apply State.showWaiting_step)
    | (with_reducible apply State.ethSendAll_step)
    | (with_reducible apply Keeps.foldWith Prod.fst)
    | (with_reducible apply Keeps.foldl)
    | intro _
    | (exact (rfl : true = true))
    | split

theorem State.popMany_step {msk : Nat} {base s : State} (n : ℕ) (x2 : ℕ) (hSolid : solid msk = true)
    (hSub : sub 0x80040018 msk = true) (hBase : Keeps msk base s) : Keeps msk base (State.popMany s n x2) := by
  refine Keeps.step (v := 0x80040018) ?_ hSolid hSub hBase
  clear hSolid hSub hBase
  fun_induction State.popMany s n x2
  all_goals
    try dsimp only
    repeat' first
      | (with_reducible rfl)
      | (with_reducible exact Keeps.refl _ _)
      | (with_reducible apply Keeps.ite)
      | (with_reducible assumption)
      | (with_reducible refine Keeps.trans ?_ ?_ (by assumption))
      | (with_reducible apply State.popHead_step)
      | intro _
      | (exact (rfl : true = true))
      | split

theorem State.ethLose_step {msk : Nat} {base s : State} (q : ℕ) (hSolid : solid msk = true)
    (hSub : sub 0x8000080040018 msk = true) (hBase : Keeps msk base s) : Keeps msk base (State.ethLose s q) := by
  refine Keeps.step (v := 0x8000080040018) ?_ hSolid hSub hBase
  clear hSolid hSub hBase
  unfold State.ethLose
  try dsimp only
  repeat' first
    | (with_reducible rfl)
    | (with_reducible exact Keeps.refl _ _)
    | (with_reducible apply Keeps.ite)
    | (with_reducible assumption)
    | (with_reducible apply State.popMany_step)
    | (with_reducible apply State.setEp_step)
    | (with_reducible apply State.showWaiting_step)
    | (with_reducible apply Keeps.setFld (regWindow_hifEpStatus _))
    | (with_reducible apply Keeps.setBit (regWindow_hifEpStatus _))
    | (with_reducible apply Keeps.each)
    | intro _
    | (exact (rfl : true = true))
    | split

theorem State.ethTimeout_step {msk : Nat} {base s : State} (q : ℕ) (hSolid : solid msk = true)
    (hSub : sub 0xA0000A004001C msk = true) (hBase : Keeps msk base s) : Keeps msk base (State.ethTimeout s q) := by
  refine Keeps.step (v := 0xA0000A004001C) ?_ hSolid hSub hBase
  clear hSolid hSub hBase
  unfold State.ethTimeout
  try dsimp only
  repeat' first
    | (with_reducible rfl)
    | (with_reducible exact Keeps.refl _ _)
    | (with_reducible apply Keeps.ite)
    | (with_reducible assumption)
    | (with_reducible apply State.ethLose_step)
    | (with_reducible apply State.ethResend_step)
    | intro _
    | (exact (rfl : true = true))
    | split

/-- Words go into buffers that were FREE, which take a state. -/
theorem State.fillFree_step {msk : Nat} {base s : State} (k : Nat) (c : List Nat) (ws : List Word) (x : BufState)
    (hc : ∀ b ∈ c, s.buf b = .free ∧ b < 65536) (hSolid : solid msk = true) (hSub : sub 0x202004000000C msk = true)
    (hBase : Keeps msk base s) : Keeps msk base (((s.skip k).writeChain c ws).setBufList c x) := by
  have kw : Keeps 0x20021600C0000006 s ((s.skip k).writeChain c ws) :=
    State.writeChain_step c ws rfl rfl (State.skip_step k rfl rfl (Keeps.refl _ _))
  have hw : Keeps 0x20021600C000000E s (((s.skip k).writeChain c ws).setBufList c x) :=
    State.setBufList_step _ _ rfl rfl (kw.mono rfl)
  have hb := fun b (h : b ∉ c) => State.buf_setBufList c ((s.skip k).writeChain c ws) x h
  have hm := State.mem_setBufList c ((s.skip k).writeChain c ws) x
  have ho := fun y h => State.byte_writeChain_out c (s.skip k) ws y h
  have hs : ((s.skip k).writeChain c ws).bufs = s.bufs := kw.bufs (.inl rfl) rfl
  refine Keeps.step (v := 0x202004000000C) ?_ hSolid hSub hBase
  generalize (s.skip k).writeChain c ws = u at hw hb hm ho hs
  generalize u.setBufList c x = t at hw hb hm
  refine Keeps.free hw rfl rfl hc (fun y hy => ?_) fun b h => ?_
  · exact (State.byte_of_mem hm y).trans ((ho y hy).trans (State.byte_of_mem rfl y))
  · rw [hb b h]; unfold State.buf; rw [hs]

theorem State.takeMessage_step {msk : Nat} {base s : State} (q x : Nat) (ws : List Word) (hSolid : solid msk = true)
    (hSub : sub 0x202006004001C msk = true) (hBase : Keeps msk base s) : Keeps msk base (State.takeMessage s q x ws) := by
  unfold State.takeMessage
  dsimp only
  split
  · split
    · exact hBase
    · rename_i c hp
      exact State.setEp_step _ _ hSolid (sub_trans rfl hSub) (State.fillFree_step _ c ws .writing
        (fun b hb => s.freeBufs_mem q b (pickMany_mem _ _ _ _ hp b hb)) hSolid (sub_trans rfl hSub) hBase)
  · split
    · exact State.pushWords_step _ _ hSolid (sub_trans rfl hSub) hBase
    · exact hBase

theorem State.takeMessages_step {msk : Nat} {base s : State} (q : ℕ) (x : ℕ) (ws : List Word) (hSolid : solid msk = true)
    (hSub : sub 0x202006004001C msk = true) (hBase : Keeps msk base s) : Keeps msk base (State.takeMessages s q x ws) := by
  refine Keeps.step (v := 0x202006004001C) ?_ hSolid hSub hBase
  clear hSolid hSub hBase
  unfold State.takeMessages
  try dsimp only
  repeat' first
    | (with_reducible rfl)
    | (with_reducible exact Keeps.refl _ _)
    | (with_reducible apply Keeps.ite)
    | (with_reducible assumption)
    | (with_reducible apply State.takeMessage_step)
    | (with_reducible apply Keeps.each)
    | intro _
    | (exact (rfl : true = true))
    | split

theorem State.ethAccept_step {msk : Nat} {base s : State} (q : ℕ) (x : ℕ) (d : Datagram) (hSolid : solid msk = true)
    (hSub : sub 0xA02006004001C msk = true) (hBase : Keeps msk base s) : Keeps msk base (State.ethAccept s q x d) := by
  refine Keeps.step (v := 0xA02006004001C) ?_ hSolid hSub hBase
  clear hSolid hSub hBase
  unfold State.ethAccept
  try dsimp only
  repeat' first
    | (with_reducible rfl)
    | (with_reducible exact Keeps.refl _ _)
    | (with_reducible apply Keeps.ite)
    | (with_reducible assumption)
    | (with_reducible apply State.setEp_step)
    | (with_reducible apply State.takeMessages_step)
    | (with_reducible apply Keeps.setReg (regWindow_hifEpPeer _))
    | (with_reducible apply Keeps.setReg (regWindow_hifEpPeerMac _))
    | intro _
    | (exact (rfl : true = true))
    | split

theorem State.ethEpoch_step {msk : Nat} {base s : State} (q : ℕ) (x : ℕ) (hSolid : solid msk = true)
    (hSub : sub 0x60040000 msk = true) (hBase : Keeps msk base s) : Keeps msk base (State.ethEpoch s q x) := by
  refine Keeps.step (v := 0x60040000) ?_ hSolid hSub hBase
  clear hSolid hSub hBase
  unfold State.ethEpoch
  try dsimp only
  repeat' first
    | (with_reducible rfl)
    | (with_reducible exact Keeps.refl _ _)
    | (with_reducible apply Keeps.ite)
    | (with_reducible assumption)
    | (with_reducible apply State.ethSend_step)
    | (with_reducible apply State.setEp_step)
    | (with_reducible apply State.skip_step)
    | intro _
    | (exact (rfl : true = true))
    | split

theorem State.ethRx_step {msk : Nat} {base s : State} (x : ℕ) (d : Datagram) (hSolid : solid msk = true)
    (hSub : sub 0xA02006004001C msk = true) (hBase : Keeps msk base s) : Keeps msk base (State.ethRx s x d) := by
  refine Keeps.step (v := 0xA02006004001C) ?_ hSolid hSub hBase
  clear hSolid hSub hBase
  unfold State.ethRx
  try dsimp only
  repeat' first
    | (with_reducible rfl)
    | (with_reducible exact Keeps.refl _ _)
    | (with_reducible apply Keeps.ite)
    | (with_reducible assumption)
    | (with_reducible apply State.ethAccept_step)
    | (with_reducible apply State.ethEpoch_step)
    | (with_reducible apply State.ethFail_step)
    | (with_reducible apply Keeps.bump (regWindow_hifEthStatus _))
    | intro _
    | (exact (rfl : true = true))
    | split

theorem State.popInbox_step {msk : Nat} {base s : State} (q : Nat) (hSolid : solid msk = true)
    (hSub : sub 0x1200009004000C msk = true) (hBase : Keeps msk base s) : Keeps msk base (State.popInbox s q) := by
  refine Keeps.step (v := 0x1200009004000C) ?_ hSolid hSub hBase
  clear hSolid hSub hBase
  unfold State.popInbox
  try dsimp only
  repeat' first
    | (with_reducible rfl)
    | (with_reducible exact Keeps.refl _ _)
    | (with_reducible apply Keeps.ite)
    | (with_reducible assumption)
    | (with_reducible apply State.touchAll_step)
    | (with_reducible apply State.setBufList_step)
    | (with_reducible apply State.free_step)
    | (with_reducible apply State.setEp_step)
    | intro _
    | (exact (rfl : true = true))
    | split

theorem State.regDone_step {msk : Nat} {base s : State} (q : ℕ) (ws : List Word) (st : Status) (ue : Bool) (body : List Word) (hSolid : solid msk = true)
    (hSub : sub 0x100202006204001C msk = true) (hBase : Keeps msk base s) : Keeps msk base (State.regDone s q ws st ue body) := by
  refine Keeps.step (v := 0x100202006204001C) ?_ hSolid hSub hBase
  clear hSolid hSub hBase
  unfold State.regDone
  try dsimp only
  repeat' first
    | (with_reducible rfl)
    | (with_reducible exact Keeps.refl _ _)
    | (with_reducible apply Keeps.ite)
    | (with_reducible assumption)
    | (with_reducible apply State.requestDone_step)
    | (with_reducible apply State.skip_step)
    | intro _
    | (exact (rfl : true = true))
    | split

theorem State.busReads_step {msk : Nat} {base s : State} (m : Master) (off : ℕ) (x3 : ℕ) (hSolid : solid msk = true)
    (hSub : sub 0x801246A07004045C msk = true) (hBase : Keeps msk base s) : Keeps msk base (State.busReads s m off x3).1 := by
  refine Keeps.step (v := 0x801246A07004045C) ?_ hSolid hSub hBase
  clear hSolid hSub hBase
  fun_induction State.busReads s m off x3
  all_goals
    try dsimp only
    repeat' first
      | (with_reducible rfl)
      | (with_reducible exact Keeps.refl _ _)
      | (with_reducible apply Keeps.ite)
      | (with_reducible assumption)
      | (with_reducible refine Keeps.trans ?_ ?_ (by assumption))
      | (with_reducible apply State.outside_step)
      | (with_reducible apply State.busRead_step)
      | (with_reducible refine Keeps.fst (State.busRead_step (by assumption) ?_ ?_ ?_) (by assumption))
      | intro _
      | (exact (rfl : true = true))
      | split

theorem State.busWrites_step {msk : Nat} {base s : State} (m : Master) (off : ℕ) (x3 : List Word) (hSolid : solid msk = true)
    (hSub : sub 0xFFFFFFFEFFFFFFFF msk = true) (hBase : Keeps msk base s) : Keeps msk base (State.busWrites s m off x3).1 := by
  refine Keeps.step (v := 0xFFFFFFFEFFFFFFFF) ?_ hSolid hSub hBase
  clear hSolid hSub hBase
  fun_induction State.busWrites s m off x3
  all_goals
    try dsimp only
    repeat' first
      | (with_reducible rfl)
      | (with_reducible exact Keeps.refl _ _)
      | (with_reducible apply Keeps.ite)
      | (with_reducible assumption)
      | (with_reducible apply State.newCycle_step)
      | (with_reducible refine Keeps.trans ?_ ?_ (by assumption))
      | (with_reducible apply State.outside_step)
      | (with_reducible apply State.busWrite64_step)
      | intro _
      | (exact (rfl : true = true))
      | split

theorem State.foreignPitch_step {msk : Nat} {base s : State} (q : ℕ) (x : ℕ) (ws : List Word) (hSolid : solid msk = true)
    (hSub : sub 0x10000000000000 msk = true) (hBase : Keeps msk base s) : Keeps msk base (State.foreignPitch s q x ws) := by
  refine Keeps.step (v := 0x10000000000000) ?_ hSolid hSub hBase
  clear hSolid hSub hBase
  unfold State.foreignPitch
  try dsimp only
  repeat' first
    | (with_reducible rfl)
    | (with_reducible exact Keeps.refl _ _)
    | (with_reducible apply Keeps.ite)
    | (with_reducible assumption)
    | (with_reducible apply State.violation_step)
    | intro _
    | (exact (rfl : true = true))
    | split

theorem State.regReadMsg_step {msk : Nat} {base s : State} (q : Nat) (hSolid : solid msk = true)
    (hSub : sub 0x901246A0F204045C msk = true) (hBase : Keeps msk base s) : Keeps msk base (State.regReadMsg s q) := by
  refine Keeps.step (v := 0x901246A0F204045C) ?_ hSolid hSub hBase
  clear hSolid hSub hBase
  unfold State.regReadMsg
  try dsimp only
  repeat' first
    | (with_reducible rfl)
    | (with_reducible exact Keeps.refl _ _)
    | (with_reducible apply Keeps.ite)
    | (with_reducible assumption)
    | (with_reducible apply State.popInbox_step)
    | (with_reducible apply State.regDone_step)
    | (with_reducible apply State.foreignPitch_step)
    | (with_reducible apply State.busReads_step)
    | intro _
    | (exact (rfl : true = true))
    | split

theorem State.regWriteMsg_step {msk : Nat} {base s : State} (q : Nat) (hSolid : solid msk = true)
    (hSub : sub 0xFFFFFFFEFFFFFFFF msk = true) (hBase : Keeps msk base s) : Keeps msk base (State.regWriteMsg s q) := by
  refine Keeps.step (v := 0xFFFFFFFEFFFFFFFF) ?_ hSolid hSub hBase
  clear hSolid hSub hBase
  unfold State.regWriteMsg
  try dsimp only
  repeat' first
    | (with_reducible rfl)
    | (with_reducible exact Keeps.refl _ _)
    | (with_reducible apply Keeps.ite)
    | (with_reducible assumption)
    | (with_reducible apply State.popInbox_step)
    | (with_reducible apply State.regDone_step)
    | (with_reducible apply State.foreignPitch_step)
    | (with_reducible apply State.busWrites_step)
    | intro _
    | (exact (rfl : true = true))
    | split

theorem State.ackMsg_step {msk : Nat} {base s : State} (q : Nat) (hSolid : solid msk = true)
    (hSub : sub 0x1A00009004001C msk = true) (hBase : Keeps msk base s) : Keeps msk base (State.ackMsg s q) := by
  refine Keeps.step (v := 0x1A00009004001C) ?_ hSolid hSub hBase
  clear hSolid hSub hBase
  unfold State.ackMsg
  try dsimp only
  repeat' first
    | (with_reducible rfl)
    | (with_reducible exact Keeps.refl _ _)
    | (with_reducible apply Keeps.ite)
    | (with_reducible assumption)
    | (with_reducible apply State.popInbox_step)
    | (with_reducible apply State.foreignPitch_step)
    | (with_reducible apply State.fifo_step)
    | (with_reducible apply State.popMany_step)
    | (with_reducible apply State.setEp_step)
    | (with_reducible apply State.showWaiting_step)
    | intro _
    | (exact (rfl : true = true))
    | split

theorem State.linkUp_step {msk : Nat} {base s : State} (x : ℕ) (speed : ℕ) (hSolid : solid msk = true)
    (hSub : sub 0x8000000000000 msk = true) (hBase : Keeps msk base s) : Keeps msk base (State.linkUp s x speed) := by
  refine Keeps.step (v := 0x8000000000000) ?_ hSolid hSub hBase
  clear hSolid hSub hBase
  unfold State.linkUp
  try dsimp only
  repeat' first
    | (with_reducible rfl)
    | (with_reducible exact Keeps.refl _ _)
    | (with_reducible apply Keeps.ite)
    | (with_reducible assumption)
    | (with_reducible apply Keeps.setFld (regWindow_hifEthStatus _))
    | intro _
    | (exact (rfl : true = true))
    | split

theorem State.linkDown_step {msk : Nat} {base s : State} (x : ℕ) (hSolid : solid msk = true)
    (hSub : sub 0x8000000000000 msk = true) (hBase : Keeps msk base s) : Keeps msk base (State.linkDown s x) := by
  refine Keeps.step (v := 0x8000000000000) ?_ hSolid hSub hBase
  clear hSolid hSub hBase
  unfold State.linkDown
  try dsimp only
  repeat' first
    | (with_reducible rfl)
    | (with_reducible exact Keeps.refl _ _)
    | (with_reducible apply Keeps.ite)
    | (with_reducible assumption)
    | (with_reducible apply Keeps.setFld (regWindow_hifEthStatus _))
    | intro _
    | (exact (rfl : true = true))
    | split

end Sys2Proof.Machine
end

