-- ==== Sys2Proof/Laws/KeepsSpi.lean ====
section
/-! SUPPORT. What each operation of Machine/Spi.lean may change (Laws/Keeps.lean reads the masks). -/

namespace Sys2Proof.Machine

set_option linter.unreachableTactic false
set_option linter.unusedTactic false

theorem State.setSpi_step {msk : Nat} {base s : State} (x : Spi) (hSolid : solid msk = true)
    (hSub : sub 0x40000 msk = true) (hBase : Keeps msk base s) : Keeps msk base (State.setSpi s x) := by
  refine Keeps.step (v := 0x40000) ?_ hSolid hSub hBase
  clear hSolid hSub hBase
  unfold State.setSpi
  try dsimp only
  repeat' first
    | (with_reducible rfl)
    | (with_reducible exact Keeps.refl _ _)
    | (with_reducible apply Keeps.ite)
    | (with_reducible assumption)
    | (with_reducible apply State.setHif_step)
    | intro _
    | (exact (rfl : true = true))
    | split

theorem State.spiSend_step {msk : Nat} {base s : State} (l : List Byte) (hSolid : solid msk = true)
    (hSub : sub 0x20000000 msk = true) (hBase : Keeps msk base s) : Keeps msk base (State.spiSend s l) := by
  refine Keeps.step (v := 0x20000000) ?_ hSolid hSub hBase
  clear hSolid hSub hBase
  unfold State.spiSend
  try dsimp only
  repeat' first
    | (with_reducible rfl)
    | (with_reducible exact Keeps.refl _ _)
    | (with_reducible apply Keeps.ite)
    | (with_reducible assumption)
    | (with_reducible apply State.emit_step)
    | intro _
    | (exact (rfl : true = true))
    | split

theorem State.spiStores_step {msk : Nat} {base s : State} (off : ℕ) (x2 : List Word) (hSolid : solid msk = true)
    (hSub : sub 0xFFFFFFFEFFFFFFFF msk = true) (hBase : Keeps msk base s) : Keeps msk base (State.spiStores s off x2) := by
  refine Keeps.step (v := 0xFFFFFFFEFFFFFFFF) ?_ hSolid hSub hBase
  clear hSolid hSub hBase
  fun_induction State.spiStores s off x2
  all_goals
    try dsimp only
    repeat' first
      | (with_reducible rfl)
      | (with_reducible exact Keeps.refl _ _)
      | (with_reducible apply Keeps.ite)
      | (with_reducible assumption)
      | (with_reducible apply State.newCycle_step)
      | (with_reducible refine Keeps.trans ?_ ?_ (by assumption))
      | (with_reducible apply State.busWrite64_step)
      | intro _
      | (exact (rfl : true = true))
      | split

theorem State.spiWrite_step {msk : Nat} {base s : State} (addr : ℕ) (ws : List Word) (crc : BitVec 32) (hSolid : solid msk = true)
    (hSub : sub 0xFFFFFFFEFFFFFFFF msk = true) (hBase : Keeps msk base s) : Keeps msk base (State.spiWrite s addr ws crc) := by
  refine Keeps.step (v := 0xFFFFFFFEFFFFFFFF) ?_ hSolid hSub hBase
  clear hSolid hSub hBase
  unfold State.spiWrite
  try dsimp only
  repeat' first
    | (with_reducible rfl)
    | (with_reducible exact Keeps.refl _ _)
    | (with_reducible apply Keeps.ite)
    | (with_reducible assumption)
    | (with_reducible apply State.setSpi_step)
    | (with_reducible apply State.spiStores_step)
    | intro _
    | (exact (rfl : true = true))
    | split

theorem State.spiLoads_step {msk : Nat} {base s : State} (off : ℕ) (x2 : ℕ) (hSolid : solid msk = true)
    (hSub : sub 0x801246A07004045C msk = true) (hBase : Keeps msk base s) : Keeps msk base (State.spiLoads s off x2).1 := by
  refine Keeps.step (v := 0x801246A07004045C) ?_ hSolid hSub hBase
  clear hSolid hSub hBase
  fun_induction State.spiLoads s off x2
  all_goals
    try dsimp only
    repeat' first
      | (with_reducible rfl)
      | (with_reducible exact Keeps.refl _ _)
      | (with_reducible apply Keeps.ite)
      | (with_reducible assumption)
      | (with_reducible refine Keeps.trans ?_ ?_ (by assumption))
      | (with_reducible apply State.busRead_step)
      | (with_reducible refine Keeps.fst (State.busRead_step (by assumption) ?_ ?_ ?_) (by assumption))
      | intro _
      | (exact (rfl : true = true))
      | split

theorem State.spiReply_step {msk : Nat} {base s : State} (ws : List Word) (status : ℕ) (hSolid : solid msk = true)
    (hSub : sub 0x20000000 msk = true) (hBase : Keeps msk base s) : Keeps msk base (State.spiReply s ws status) := by
  refine Keeps.step (v := 0x20000000) ?_ hSolid hSub hBase
  clear hSolid hSub hBase
  unfold State.spiReply
  try dsimp only
  repeat' first
    | (with_reducible rfl)
    | (with_reducible exact Keeps.refl _ _)
    | (with_reducible apply Keeps.ite)
    | (with_reducible assumption)
    | (with_reducible apply State.spiSend_step)
    | intro _
    | (exact (rfl : true = true))
    | split

theorem State.spiRead_step {msk : Nat} {base s : State} (addr : ℕ) (n : ℕ) (hSolid : solid msk = true)
    (hSub : sub 0x801246A07004045C msk = true) (hBase : Keeps msk base s) : Keeps msk base (State.spiRead s addr n) := by
  refine Keeps.step (v := 0x801246A07004045C) ?_ hSolid hSub hBase
  clear hSolid hSub hBase
  unfold State.spiRead
  try dsimp only
  repeat' first
    | (with_reducible rfl)
    | (with_reducible exact Keeps.refl _ _)
    | (with_reducible apply Keeps.ite)
    | (with_reducible assumption)
    | (with_reducible apply State.spiReply_step)
    | (with_reducible apply State.skip_step)
    | (with_reducible apply State.spiLoads_step)
    | (with_reducible refine Keeps.fst (State.spiLoads_step (by assumption) ?_ ?_ ?_) (by assumption))
    | intro _
    | (exact (rfl : true = true))
    | split

theorem State.spiStatus_step {msk : Nat} {base s : State}  (hSolid : solid msk = true)
    (hSub : sub 0x20040000 msk = true) (hBase : Keeps msk base s) : Keeps msk base (State.spiStatus s) := by
  refine Keeps.step (v := 0x20040000) ?_ hSolid hSub hBase
  clear hSolid hSub hBase
  unfold State.spiStatus
  try dsimp only
  repeat' first
    | (with_reducible rfl)
    | (with_reducible exact Keeps.refl _ _)
    | (with_reducible apply Keeps.ite)
    | (with_reducible assumption)
    | (with_reducible apply State.setSpi_step)
    | (with_reducible apply State.spiSend_step)
    | intro _
    | (exact (rfl : true = true))
    | split

theorem State.spiChallenge_step {msk : Nat} {base s : State}  (hSolid : solid msk = true)
    (hSub : sub 0x60040000 msk = true) (hBase : Keeps msk base s) : Keeps msk base (State.spiChallenge s) := by
  refine Keeps.step (v := 0x60040000) ?_ hSolid hSub hBase
  clear hSolid hSub hBase
  unfold State.spiChallenge
  try dsimp only
  repeat' first
    | (with_reducible rfl)
    | (with_reducible exact Keeps.refl _ _)
    | (with_reducible apply Keeps.ite)
    | (with_reducible assumption)
    | (with_reducible apply State.setSpi_step)
    | (with_reducible apply State.spiSend_step)
    | (with_reducible apply State.skip_step)
    | intro _
    | (exact (rfl : true = true))
    | split

theorem State.spiUnlock_step {msk : Nat} {base s : State} (tag : Word) (hSolid : solid msk = true)
    (hSub : sub 0x8000000040000 msk = true) (hBase : Keeps msk base s) : Keeps msk base (State.spiUnlock s tag) := by
  refine Keeps.step (v := 0x8000000040000) ?_ hSolid hSub hBase
  clear hSolid hSub hBase
  unfold State.spiUnlock
  try dsimp only
  repeat' first
    | (with_reducible rfl)
    | (with_reducible exact Keeps.refl _ _)
    | (with_reducible apply Keeps.ite)
    | (with_reducible assumption)
    | (with_reducible apply State.setSpi_step)
    | (with_reducible apply Keeps.bumpSat regWindow_hifSpiStatus)
    | (with_reducible apply Keeps.setBit regWindow_hifSpiStatus)
    | (with_reducible apply Keeps.setFld regWindow_hifSpiStatus)
    | intro _
    | (exact (rfl : true = true))
    | split

theorem State.spiLock_step {msk : Nat} {base s : State}  (hSolid : solid msk = true)
    (hSub : sub 0x8000000000000 msk = true) (hBase : Keeps msk base s) : Keeps msk base (State.spiLock s) := by
  refine Keeps.step (v := 0x8000000000000) ?_ hSolid hSub hBase
  clear hSolid hSub hBase
  unfold State.spiLock
  try dsimp only
  repeat' first
    | (with_reducible rfl)
    | (with_reducible exact Keeps.refl _ _)
    | (with_reducible apply Keeps.ite)
    | (with_reducible assumption)
    | (with_reducible apply Keeps.setBit regWindow_hifSpiStatus)
    | intro _
    | (exact (rfl : true = true))
    | split

theorem State.spiUnblock_step {msk : Nat} {base s : State}  (hSolid : solid msk = true)
    (hSub : sub 0x8000000040000 msk = true) (hBase : Keeps msk base s) : Keeps msk base (State.spiUnblock s) := by
  refine Keeps.step (v := 0x8000000040000) ?_ hSolid hSub hBase
  clear hSolid hSub hBase
  unfold State.spiUnblock
  try dsimp only
  repeat' first
    | (with_reducible rfl)
    | (with_reducible exact Keeps.refl _ _)
    | (with_reducible apply Keeps.ite)
    | (with_reducible assumption)
    | (with_reducible apply State.setSpi_step)
    | (with_reducible apply Keeps.setBit regWindow_hifSpiStatus)
    | intro _
    | (exact (rfl : true = true))
    | split

end Sys2Proof.Machine
end

