-- ==== Sys2Proof/Laws/KeepsExec.lean ====
section
/-! SUPPORT. What each command may change (Laws/Keeps.lean reads the masks). -/

namespace Sys2Proof.Machine

set_option linter.unreachableTactic false
set_option linter.unusedTactic false

theorem execAgeMeasure_keeps (counts : List (ℕ × ℕ)) {s fin : State} (h : execAgeMeasure counts s = .next fin) :
    Keeps 0x100000040100000 s fin := by
  unfold execAgeMeasure at h
  try dsimp only at h
  repeat' split at h
  all_goals
    cases h
    try dsimp only
    repeat' first
      | (with_reducible rfl)
      | (with_reducible exact Keeps.refl _ _)
      | (with_reducible apply Keeps.ite)
      | (with_reducible assumption)
      | (with_reducible apply State.ageMeasure_step)
      | intro _
      | (exact (rfl : true = true))
      | split

theorem execAgeSummary_keeps {s fin : State} (h : execAgeSummary s = .next fin) :
    Keeps 0x100000 s fin := by
  unfold execAgeSummary at h
  try dsimp only at h
  repeat' split at h
  all_goals
    cases h
    try dsimp only
    repeat' first
      | (with_reducible rfl)
      | (with_reducible exact Keeps.refl _ _)
      | (with_reducible apply Keeps.ite)
      | (with_reducible assumption)
      | (with_reducible apply State.ageSummary_step)
      | intro _
      | (exact (rfl : true = true))
      | split

theorem execAvs_keeps (mu : ℤ) {s fin : State} (h : execAvs mu s = .next fin) :
    Keeps 0x10202006014001C s fin := by
  unfold execAvs at h
  try dsimp only at h
  repeat' split at h
  all_goals
    cases h
    try dsimp only
    repeat' first
      | (with_reducible rfl)
      | (with_reducible exact Keeps.refl _ _)
      | (with_reducible apply Keeps.ite)
      | (with_reducible assumption)
      | (with_reducible apply State.avs_step)
      | intro _
      | (exact (rfl : true = true))
      | split

theorem execLogRateWindowEnd_keeps (type : BitVec 8) {s fin : State} (h : execLogRateWindowEnd type s = .next fin) :
    Keeps 0x100000 s fin := by
  unfold execLogRateWindowEnd at h
  try dsimp only at h
  repeat' split at h
  all_goals
    cases h
    try dsimp only
    repeat' first
      | (with_reducible rfl)
      | (with_reducible exact Keeps.refl _ _)
      | (with_reducible apply Keeps.ite)
      | (with_reducible assumption)
      | (with_reducible apply State.rateWindowEnd_step)
      | intro _
      | (exact (rfl : true = true))
      | split

theorem execAnticollision_keeps (inst : Fin 4) (level : ℕ) (known : List Bool) {s fin : State} (h : execAnticollision inst level known s = .next fin) :
    Keeps 0x202006004001C s fin := by
  unfold execAnticollision at h
  try dsimp only at h
  repeat' split at h
  all_goals
    cases h
    try dsimp only
    repeat' first
      | (with_reducible rfl)
      | (with_reducible exact Keeps.refl _ _)
      | (with_reducible apply Keeps.ite)
      | (with_reducible assumption)
      | (with_reducible apply State.anticoll_step)
      | intro _
      | (exact (rfl : true = true))
      | split

theorem execAwningCommitApply_keeps (inst : Fin 4) {s fin : State} (h : execAwningCommitApply inst s = .next fin) :
    Keeps 0x420200E005001C s fin := by
  unfold execAwningCommitApply at h
  try dsimp only at h
  repeat' split at h
  all_goals
    cases h
    try dsimp only
    repeat' first
      | (with_reducible rfl)
      | (with_reducible exact Keeps.refl _ _)
      | (with_reducible apply Keeps.ite)
      | (with_reducible assumption)
      | (with_reducible apply State.commitApply_step)
      | intro _
      | (exact (rfl : true = true))
      | split

theorem execAwningFieldDetect_keeps (inst : Fin 4) (obs : CarrierObs) {s fin : State} (h : execAwningFieldDetect inst obs s = .next fin) :
    Keeps 0x420200E005001C s fin := by
  unfold execAwningFieldDetect at h
  try dsimp only at h
  repeat' split at h
  all_goals
    cases h
    try dsimp only
    repeat' first
      | (with_reducible rfl)
      | (with_reducible exact Keeps.refl _ _)
      | (with_reducible apply Keeps.ite)
      | (with_reducible assumption)
      | (with_reducible apply State.fieldDetect_step)
      | intro _
      | (exact (rfl : true = true))
      | split

theorem execAwningFieldLost_keeps (inst : Fin 4) (absent : Nat) {s fin : State} (h : execAwningFieldLost inst absent s = .next fin) :
    Keeps 0x420200E005001C s fin := by
  unfold execAwningFieldLost at h
  try dsimp only at h
  repeat' split at h
  all_goals
    cases h
    try dsimp only
    repeat' first
      | (with_reducible rfl)
      | (with_reducible exact Keeps.refl _ _)
      | (with_reducible apply Keeps.ite)
      | (with_reducible assumption)
      | (with_reducible apply State.fieldLost_step)
      | intro _
      | (exact (rfl : true = true))
      | split

theorem execAwningSeamHoldExpired_keeps (inst : Fin 4) {s fin : State} (h : execAwningSeamHoldExpired inst s = .next fin) :
    Keeps 0x420200E005001C s fin := by
  unfold execAwningSeamHoldExpired at h
  try dsimp only at h
  repeat' split at h
  all_goals
    cases h
    try dsimp only
    repeat' first
      | (with_reducible rfl)
      | (with_reducible exact Keeps.refl _ _)
      | (with_reducible apply Keeps.ite)
      | (with_reducible assumption)
      | (with_reducible apply State.holdOver_step)
      | intro _
      | (exact (rfl : true = true))
      | split

theorem execHlta_keeps (f : PiccFrame) {s fin : State} (h : execHlta f s = .next fin) :
    Keeps 0x1000000010000 s fin := by
  unfold execHlta at h
  try dsimp only at h
  repeat' split at h
  all_goals
    cases h
    try dsimp only
    repeat' first
      | (with_reducible rfl)
      | (with_reducible exact Keeps.refl _ _)
      | (with_reducible apply Keeps.ite)
      | (with_reducible assumption)
      | (with_reducible apply State.halt_step)
      | intro _
      | (exact (rfl : true = true))
      | split

theorem execOtherInsApdu_keeps (inst : Fin 4) (ins : Byte) (p1p2 : BitVec 16) (blocks : List IBlock) {s fin : State} (h : execOtherInsApdu inst ins p1p2 blocks s = .next fin) :
    Keeps 0x1000060010000 s fin := by
  unfold execOtherInsApdu at h
  try dsimp only at h
  repeat' split at h
  all_goals
    cases h
    try dsimp only
    repeat' first
      | (with_reducible rfl)
      | (with_reducible exact Keeps.refl _ _)
      | (with_reducible apply Keeps.ite)
      | (with_reducible assumption)
      | (with_reducible apply State.otherApdu_step)
      | intro _
      | (exact (rfl : true = true))
      | split

theorem execPinLockExpired_keeps (inst : Fin 4) {s fin : State} (h : execPinLockExpired inst s = .next fin) :
    Keeps 0x40000000010000 s fin := by
  unfold execPinLockExpired at h
  try dsimp only at h
  repeat' split at h
  all_goals
    cases h
    try dsimp only
    repeat' first
      | (with_reducible rfl)
      | (with_reducible exact Keeps.refl _ _)
      | (with_reducible apply Keeps.ite)
      | (with_reducible assumption)
      | (with_reducible apply State.lockOver_step)
      | intro _
      | (exact (rfl : true = true))
      | split

theorem execPps_keeps (f : PiccFrame) (dsi dri : Nat) {s fin : State} (h : execPps f dsi dri s = .next fin) :
    Keeps 0x1000020010000 s fin := by
  unfold execPps at h
  try dsimp only at h
  repeat' split at h
  all_goals
    cases h
    try dsimp only
    repeat' first
      | (with_reducible rfl)
      | (with_reducible exact Keeps.refl _ _)
      | (with_reducible apply Keeps.ite)
      | (with_reducible assumption)
      | (with_reducible apply State.doPps_step)
      | intro _
      | (exact (rfl : true = true))
      | split

theorem execRAck_keeps (f : PiccFrame) (block : Bool) {s fin : State} (h : execRAck f block s = .next fin) :
    Keeps 0x1000020010000 s fin := by
  unfold execRAck at h
  try dsimp only at h
  repeat' split at h
  all_goals
    cases h
    try dsimp only
    repeat' first
      | (with_reducible rfl)
      | (with_reducible exact Keeps.refl _ _)
      | (with_reducible apply Keeps.ite)
      | (with_reducible assumption)
      | (with_reducible apply State.doRAck_step)
      | intro _
      | (exact (rfl : true = true))
      | split

theorem execRNak_keeps (f : PiccFrame) (block : Bool) {s fin : State} (h : execRNak f block s = .next fin) :
    Keeps 0x1000020010000 s fin := by
  unfold execRNak at h
  try dsimp only at h
  repeat' split at h
  all_goals
    cases h
    try dsimp only
    repeat' first
      | (with_reducible rfl)
      | (with_reducible exact Keeps.refl _ _)
      | (with_reducible apply Keeps.ite)
      | (with_reducible assumption)
      | (with_reducible apply State.doRNak_step)
      | intro _
      | (exact (rfl : true = true))
      | split

theorem execRats_keeps (f : PiccFrame) (fsdi cid : Nat) {s fin : State} (h : execRats f fsdi cid s = .next fin) :
    Keeps 0x302006005001C s fin := by
  unfold execRats at h
  try dsimp only at h
  repeat' split at h
  all_goals
    cases h
    try dsimp only
    repeat' first
      | (with_reducible rfl)
      | (with_reducible exact Keeps.refl _ _)
      | (with_reducible apply Keeps.ite)
      | (with_reducible assumption)
      | (with_reducible apply State.doRats_step)
      | intro _
      | (exact (rfl : true = true))
      | split

theorem execReadBinary_keeps (inst : Fin 4) (offset le : Nat) (blocks : List IBlock) {s fin : State} (h : execReadBinary inst offset le blocks s = .next fin) :
    Keeps 0x302006005001C s fin := by
  unfold execReadBinary at h
  try dsimp only at h
  repeat' split at h
  all_goals
    cases h
    try dsimp only
    repeat' first
      | (with_reducible rfl)
      | (with_reducible exact Keeps.refl _ _)
      | (with_reducible apply Keeps.ite)
      | (with_reducible assumption)
      | (with_reducible apply State.readBin_step)
      | intro _
      | (exact (rfl : true = true))
      | split

theorem execReqa_keeps (inst : Fin 4) {s fin : State} (h : execReqa inst s = .next fin) :
    Keeps 0x202006005001C s fin := by
  unfold execReqa at h
  try dsimp only at h
  repeat' split at h
  all_goals
    cases h
    try dsimp only
    repeat' first
      | (with_reducible rfl)
      | (with_reducible exact Keeps.refl _ _)
      | (with_reducible apply Keeps.ite)
      | (with_reducible assumption)
      | (with_reducible apply State.request_step)
      | intro _
      | (exact (rfl : true = true))
      | split

theorem execSDeselect_keeps (f : PiccFrame) {s fin : State} (h : execSDeselect f s = .next fin) :
    Keeps 0x430200E005001C s fin := by
  unfold execSDeselect at h
  try dsimp only at h
  repeat' split at h
  all_goals
    cases h
    try dsimp only
    repeat' first
      | (with_reducible rfl)
      | (with_reducible exact Keeps.refl _ _)
      | (with_reducible apply Keeps.ite)
      | (with_reducible assumption)
      | (with_reducible apply State.deselect_step)
      | intro _
      | (exact (rfl : true = true))
      | split

theorem execSelect_keeps (f : PiccFrame) (level : Nat) (uid : List Byte) {s fin : State} (h : execSelect f level uid s = .next fin) :
    Keeps 0x302006005001C s fin := by
  unfold execSelect at h
  try dsimp only at h
  repeat' split at h
  all_goals
    cases h
    try dsimp only
    repeat' first
      | (with_reducible rfl)
      | (with_reducible exact Keeps.refl _ _)
      | (with_reducible apply Keeps.ite)
      | (with_reducible assumption)
      | (with_reducible apply State.selectUid_step)
      | intro _
      | (exact (rfl : true = true))
      | split

theorem execSelectByFileId_keeps (inst : Fin 4) (id : BitVec 16) (blocks : List IBlock) {s fin : State} (h : execSelectByFileId inst id blocks s = .next fin) :
    Keeps 0x302006005001C s fin := by
  unfold execSelectByFileId at h
  try dsimp only at h
  repeat' split at h
  all_goals
    cases h
    try dsimp only
    repeat' first
      | (with_reducible rfl)
      | (with_reducible exact Keeps.refl _ _)
      | (with_reducible apply Keeps.ite)
      | (with_reducible assumption)
      | (with_reducible apply State.byFileId_step)
      | intro _
      | (exact (rfl : true = true))
      | split

theorem execSelectByName_keeps (inst : Fin 4) (aid : List Byte) (blocks : List IBlock) {s fin : State} (h : execSelectByName inst aid blocks s = .next fin) :
    Keeps 0x1000020010000 s fin := by
  unfold execSelectByName at h
  try dsimp only at h
  repeat' split at h
  all_goals
    cases h
    try dsimp only
    repeat' first
      | (with_reducible rfl)
      | (with_reducible exact Keeps.refl _ _)
      | (with_reducible apply Keeps.ite)
      | (with_reducible assumption)
      | (with_reducible apply State.byName_step)
      | intro _
      | (exact (rfl : true = true))
      | split

theorem execUpdateBinary_keeps (inst : Fin 4) (offset : Nat) (data : List Byte) (blocks : List IBlock) {s fin : State} (h : execUpdateBinary inst offset data blocks s = .next fin) :
    Keeps 0x4302006005001C s fin := by
  unfold execUpdateBinary at h
  try dsimp only at h
  repeat' split at h
  all_goals
    cases h
    try dsimp only
    repeat' first
      | (with_reducible rfl)
      | (with_reducible exact Keeps.refl _ _)
      | (with_reducible apply Keeps.ite)
      | (with_reducible assumption)
      | (with_reducible apply State.updateBin_step)
      | intro _
      | (exact (rfl : true = true))
      | split

theorem execVerify_keeps (inst : Fin 4) (data : List Byte) (blocks : List IBlock) {s fin : State} (h : execVerify inst data blocks s = .next fin) :
    Keeps 0x4302006005001C s fin := by
  unfold execVerify at h
  try dsimp only at h
  repeat' split at h
  all_goals
    cases h
    try dsimp only
    repeat' first
      | (with_reducible rfl)
      | (with_reducible exact Keeps.refl _ _)
      | (with_reducible apply Keeps.ite)
      | (with_reducible assumption)
      | (with_reducible apply State.verify_step)
      | intro _
      | (exact (rfl : true = true))
      | split

theorem execWupa_keeps (inst : Fin 4) {s fin : State} (h : execWupa inst s = .next fin) :
    Keeps 0x202006005001C s fin := by
  unfold execWupa at h
  try dsimp only at h
  repeat' split at h
  all_goals
    cases h
    try dsimp only
    repeat' first
      | (with_reducible rfl)
      | (with_reducible exact Keeps.refl _ _)
      | (with_reducible apply Keeps.ite)
      | (with_reducible assumption)
      | (with_reducible apply State.request_step)
      | intro _
      | (exact (rfl : true = true))
      | split

theorem execCfgStage_keeps (m : PMaster) (w : Word) {s fin : State} (h : execCfgStage m w s = .next fin) :
    Keeps 0x1000000020 s fin := by
  unfold execCfgStage at h
  try dsimp only at h
  repeat' split at h
  all_goals
    cases h
    try dsimp only
    repeat' first
      | (with_reducible rfl)
      | (with_reducible exact Keeps.refl _ _)
      | (with_reducible apply Keeps.ite)
      | (with_reducible assumption)
      | (with_reducible apply State.stageWord_step)
      | intro _
      | (exact (rfl : true = true))
      | split

theorem execImageTimeout_keeps {s fin : State} (h : execImageTimeout s = .next fin) :
    Keeps 0x20 s fin := by
  unfold execImageTimeout at h
  try dsimp only at h
  repeat' split at h
  all_goals
    cases h
    try dsimp only
    repeat' first
      | (with_reducible rfl)
      | (with_reducible exact Keeps.refl _ _)
      | (with_reducible apply Keeps.ite)
      | (with_reducible assumption)
      | (with_reducible apply State.imageTimeout_step)
      | intro _
      | (exact (rfl : true = true))
      | split

theorem execLoad_keeps (m : PMaster) {s fin : State} (h : execLoad m s = .next fin) :
    Keeps 0xFFFFFFFEFFFFFFFF s fin := by
  unfold execLoad at h
  try dsimp only at h
  repeat' split at h
  all_goals
    cases h
    try dsimp only
    repeat' first
      | (with_reducible rfl)
      | (with_reducible exact Keeps.refl _ _)
      | (with_reducible apply Keeps.ite)
      | (with_reducible assumption)
      | (with_reducible apply State.load_step)
      | intro _
      | (exact (rfl : true = true))
      | split

theorem execResetSequenceStepDone_keeps (i : BootInput) {s fin : State} (h : execResetSequenceStepDone i s = .next fin) :
    Keeps 0xFFFFFFFEFFFFFFFF s fin := by
  unfold execResetSequenceStepDone at h
  try dsimp only at h
  repeat' split at h
  all_goals
    cases h
    try dsimp only
    repeat' first
      | (with_reducible rfl)
      | (with_reducible exact Keeps.refl _ _)
      | (with_reducible apply Keeps.ite)
      | (with_reducible assumption)
      | (with_reducible apply State.stepDone_step)
      | intro _
      | (exact (rfl : true = true))
      | split

theorem execRestage_keeps (m : PMaster) {s fin : State} (h : execRestage m s = .next fin) :
    Keeps 0x1000000020 s fin := by
  unfold execRestage at h
  try dsimp only at h
  repeat' split at h
  all_goals
    cases h
    try dsimp only
    repeat' first
      | (with_reducible rfl)
      | (with_reducible exact Keeps.refl _ _)
      | (with_reducible apply Keeps.ite)
      | (with_reducible assumption)
      | (with_reducible apply State.restage_step)
      | intro _
      | (exact (rfl : true = true))
      | split

theorem execAwningCommit_keeps (m : Master) (inst : Fin 4) (v : Word) {s fin : State} (h : execAwningCommit m inst v s = .next fin) :
    Keeps 0x50000010000000 s fin := by
  unfold execAwningCommit at h
  try dsimp only at h
  repeat' split at h
  all_goals
    cases h
    try dsimp only
    repeat' first
      | (with_reducible rfl)
      | (with_reducible exact Keeps.refl _ _)
      | (with_reducible apply Keeps.ite)
      | (with_reducible assumption)
      | (with_reducible apply State.awnCtrlWrite_step)
      | (with_reducible apply State.outside_step)
      | intro _
      | (exact (rfl : true = true))
      | split

theorem execLowerHalfRead_keeps (m : Master) (off : ℕ) {s fin : State} (h : execLowerHalfRead m off s = .next fin) :
    Keeps 0x801246A0700C045C s fin := by
  unfold execLowerHalfRead at h
  try dsimp only at h
  repeat' split at h
  all_goals
    cases h
    try dsimp only
    repeat' first
      | (with_reducible rfl)
      | (with_reducible exact Keeps.refl _ _)
      | (with_reducible apply Keeps.ite)
      | (with_reducible assumption)
      | (with_reducible apply State.narrowRead_step)
      | intro _
      | (exact (rfl : true = true))
      | split

theorem execRegisterWrite_keeps (ws : List HostWrite) {s fin : State} (h : execRegisterWrite ws s = .next fin) :
    Keeps 0xFFFFFFFEFFFFFFFF s fin := by
  unfold execRegisterWrite at h
  try dsimp only at h
  repeat' split at h
  all_goals
    cases h
    try dsimp only
    repeat' first
      | (with_reducible rfl)
      | (with_reducible exact Keeps.refl _ _)
      | (with_reducible apply Keeps.ite)
      | (with_reducible assumption)
      | (with_reducible apply State.cycleWrites_step)
      | intro _
      | (exact (rfl : true = true))
      | split

theorem execUpperHalfWrite_keeps (m : Master) (off : ℕ) (data : BitVec 32) {s fin : State} (h : execUpperHalfWrite m off data s = .next fin) :
    Keeps 0xFFFFFFFEFFFFFFFF s fin := by
  unfold execUpperHalfWrite at h
  try dsimp only at h
  repeat' split at h
  all_goals
    cases h
    try dsimp only
    repeat' first
      | (with_reducible rfl)
      | (with_reducible exact Keeps.refl _ _)
      | (with_reducible apply Keeps.ite)
      | (with_reducible assumption)
      | (with_reducible apply State.cycleWrites_step)
      | intro _
      | (exact (rfl : true = true))
      | split

theorem execGpioCfgWrite_keeps (_m : PMaster) (n : Fin 64) (v : Word) {s fin : State} (h : execGpioCfgWrite _m n v s = .next fin) :
    Keeps 0x800000001000000 s fin := by
  unfold execGpioCfgWrite at h
  try dsimp only at h
  repeat' split at h
  all_goals
    cases h
    try dsimp only
    repeat' first
      | (with_reducible rfl)
      | (with_reducible exact Keeps.refl _ _)
      | (with_reducible apply Keeps.ite)
      | (with_reducible assumption)
      | (with_reducible apply State.gpioCfg_step)
      | intro _
      | (exact (rfl : true = true))
      | split

theorem execGpioClr_keeps (_m : PMaster) (v : Word) {s fin : State} (h : execGpioClr _m v s = .next fin) :
    Keeps 0x800000000000000 s fin := by
  unfold execGpioClr at h
  try dsimp only at h
  repeat' split at h
  all_goals
    cases h
    try dsimp only
    repeat' first
      | (with_reducible rfl)
      | (with_reducible exact Keeps.refl _ _)
      | (with_reducible apply Keeps.ite)
      | (with_reducible assumption)
      | (with_reducible apply State.gpioClrBits_step)
      | intro _
      | (exact (rfl : true = true))
      | split

theorem execGpioSet_keeps (_m : PMaster) (v : Word) {s fin : State} (h : execGpioSet _m v s = .next fin) :
    Keeps 0x800000000000000 s fin := by
  unfold execGpioSet at h
  try dsimp only at h
  repeat' split at h
  all_goals
    cases h
    try dsimp only
    repeat' first
      | (with_reducible rfl)
      | (with_reducible exact Keeps.refl _ _)
      | (with_reducible apply Keeps.ite)
      | (with_reducible assumption)
      | (with_reducible apply State.gpioSetBits_step)
      | intro _
      | (exact (rfl : true = true))
      | split

theorem execRfInhibit_keeps (a b : Wire) {s fin : State} (h : execRfInhibit a b s = .next fin) :
    Keeps 0x1C628B20E38767DC s fin := by
  unfold execRfInhibit at h
  try dsimp only at h
  repeat' split at h
  all_goals
    cases h
    try dsimp only
    repeat' first
      | (with_reducible rfl)
      | (with_reducible exact Keeps.refl _ _)
      | (with_reducible apply Keeps.ite)
      | (with_reducible assumption)
      | (with_reducible apply State.setInhibit_step)
      | intro _
      | (exact (rfl : true = true))
      | split

theorem execRfInhibitRelease_keeps (a b : Wire) {s fin : State} (h : execRfInhibitRelease a b s = .next fin) :
    Keeps 0x1C628B20E38767DC s fin := by
  unfold execRfInhibitRelease at h
  try dsimp only at h
  repeat' split at h
  all_goals
    cases h
    try dsimp only
    repeat' first
      | (with_reducible rfl)
      | (with_reducible exact Keeps.refl _ _)
      | (with_reducible apply Keeps.ite)
      | (with_reducible assumption)
      | (with_reducible apply State.setInhibit_step)
      | intro _
      | (exact (rfl : true = true))
      | split

theorem execRfoffSample_keeps {s fin : State} (h : execRfoffSample s = .next fin) :
    Keeps 0x800000000000000 s fin := by
  unfold execRfoffSample at h
  try dsimp only at h
  repeat' split at h
  all_goals
    cases h
    try dsimp only
    repeat' first
      | (with_reducible rfl)
      | (with_reducible exact Keeps.refl _ _)
      | (with_reducible apply Keeps.ite)
      | (with_reducible assumption)
      | (with_reducible apply State.rfoffSample_step)
      | intro _
      | (exact (rfl : true = true))
      | split

theorem execTriggerEdge_keeps (t : Fin 16) (o : EdgeObs) {s fin : State} (h : execTriggerEdge t o s = .next fin) :
    Keeps 0x18020200630400DC s fin := by
  unfold execTriggerEdge at h
  try dsimp only at h
  repeat' split at h
  all_goals
    cases h
    try dsimp only
    repeat' first
      | (with_reducible rfl)
      | (with_reducible exact Keeps.refl _ _)
      | (with_reducible apply Keeps.ite)
      | (with_reducible assumption)
      | (with_reducible apply State.triggerEdge_step)
      | intro _
      | (exact (rfl : true = true))
      | split

theorem execTriggerSw_keeps (_m : PMaster) (t : Fin 16) {s fin : State} (h : execTriggerSw _m t s = .next fin) :
    Keeps 0x18020200630400DC s fin := by
  unfold execTriggerSw at h
  try dsimp only at h
  repeat' split at h
  all_goals
    cases h
    try dsimp only
    repeat' first
      | (with_reducible rfl)
      | (with_reducible exact Keeps.refl _ _)
      | (with_reducible apply Keeps.ite)
      | (with_reducible assumption)
      | (with_reducible apply State.triggerSw_step)
      | intro _
      | (exact (rfl : true = true))
      | split

theorem execUhfStandbyRestored_keeps {s fin : State} (h : execUhfStandbyRestored s = .next fin) :
    Keeps 0x1000200 s fin := by
  unfold execUhfStandbyRestored at h
  try dsimp only at h
  repeat' split at h
  all_goals
    cases h
    try dsimp only
    repeat' first
      | (with_reducible rfl)
      | (with_reducible exact Keeps.refl _ _)
      | (with_reducible apply Keeps.ite)
      | (with_reducible assumption)
      | (with_reducible apply State.uhfRestored_step)
      | intro _
      | (exact (rfl : true = true))
      | split

theorem execChkCfgWrite_keeps (_m : PMaster) (n : Fin 48) (r : ChkReg) (v : Word) {s fin : State} (h : execChkCfgWrite _m n r v s = .next fin) :
    Keeps 0x1000000000000 s fin := by
  unfold execChkCfgWrite at h
  try dsimp only at h
  repeat' split at h
  all_goals
    cases h
    try dsimp only
    repeat' first
      | (with_reducible rfl)
      | (with_reducible exact Keeps.refl _ _)
      | (with_reducible apply Keeps.ite)
      | (with_reducible assumption)
      | (with_reducible apply State.chkWrite_step)
      | intro _
      | (exact (rfl : true = true))
      | split

theorem execChkHostRunDone_keeps (n : Fin 48) {s fin : State} (h : execChkHostRunDone n s = .next fin) :
    Keeps 0x800346A06004845C s fin := by
  unfold execChkHostRunDone at h
  try dsimp only at h
  repeat' split at h
  all_goals
    cases h
    try dsimp only
    repeat' first
      | (with_reducible rfl)
      | (with_reducible exact Keeps.refl _ _)
      | (with_reducible apply Keeps.ite)
      | (with_reducible assumption)
      | (with_reducible apply State.chkDone_step)
      | intro _
      | (exact (rfl : true = true))
      | split

theorem execChkHostRunStart_keeps (_m : PMaster) (n : Fin 48) (v : Word) {s fin : State} (h : execChkHostRunStart _m n v s = .next fin) :
    Keeps 0x1000000008000 s fin := by
  unfold execChkHostRunStart at h
  try dsimp only at h
  repeat' split at h
  all_goals
    cases h
    try dsimp only
    repeat' first
      | (with_reducible rfl)
      | (with_reducible exact Keeps.refl _ _)
      | (with_reducible apply Keeps.ite)
      | (with_reducible assumption)
      | (with_reducible apply State.chkStart_step)
      | intro _
      | (exact (rfl : true = true))
      | split

theorem execCoexLeadStart_keeps (idx : ℕ) {s fin : State} (h : execCoexLeadStart idx s = .next fin) :
    Keeps 0x1C22CB20628567DC s fin := by
  unfold execCoexLeadStart at h
  try dsimp only at h
  repeat' split at h
  all_goals
    cases h
    try dsimp only
    repeat' first
      | (with_reducible rfl)
      | (with_reducible exact Keeps.refl _ _)
      | (with_reducible apply Keeps.ite)
      | (with_reducible assumption)
      | (with_reducible apply State.leadStart_step)
      | intro _
      | (exact (rfl : true = true))
      | split

theorem execCoexWaitExpired_keeps (port : ℕ) {s fin : State} (h : execCoexWaitExpired port s = .next fin) :
    Keeps 0x1C228B20628467DC s fin := by
  unfold execCoexWaitExpired at h
  try dsimp only at h
  repeat' split at h
  all_goals
    cases h
    try dsimp only
    repeat' first
      | (with_reducible rfl)
      | (with_reducible exact Keeps.refl _ _)
      | (with_reducible apply Keeps.ite)
      | (with_reducible assumption)
      | (with_reducible apply State.waitExpired_step)
      | intro _
      | (exact (rfl : true = true))
      | split

theorem execCxGntFall_keeps {s fin : State} (h : execCxGntFall s = .next fin) :
    Keeps 0x14228B20628467DC s fin := by
  unfold execCxGntFall at h
  try dsimp only at h
  repeat' split at h
  all_goals
    cases h
    try dsimp only
    repeat' first
      | (with_reducible rfl)
      | (with_reducible exact Keeps.refl _ _)
      | (with_reducible apply Keeps.ite)
      | (with_reducible assumption)
      | (with_reducible apply State.gntFall_step)
      | intro _
      | (exact (rfl : true = true))
      | split

theorem execCxGntRise_keeps {s fin : State} (h : execCxGntRise s = .next fin) :
    Keeps 0xC024B00608507DC s fin := by
  unfold execCxGntRise at h
  try dsimp only at h
  repeat' split at h
  all_goals
    cases h
    try dsimp only
    repeat' first
      | (with_reducible rfl)
      | (with_reducible exact Keeps.refl _ _)
      | (with_reducible apply Keeps.ite)
      | (with_reducible assumption)
      | (with_reducible apply State.gntRise_step)
      | intro _
      | (exact (rfl : true = true))
      | split

theorem execCxPriRise_keeps {s fin : State} (h : execCxPriRise s = .next fin) :
    Keeps 0x1C22CB20628567DC s fin := by
  unfold execCxPriRise at h
  try dsimp only at h
  repeat' split at h
  all_goals
    cases h
    try dsimp only
    repeat' first
      | (with_reducible rfl)
      | (with_reducible exact Keeps.refl _ _)
      | (with_reducible apply Keeps.ite)
      | (with_reducible assumption)
      | (with_reducible apply State.priRise_step)
      | intro _
      | (exact (rfl : true = true))
      | split

theorem execCxReqFall_keeps (pri : Bool) {s fin : State} (h : execCxReqFall pri s = .next fin) :
    Keeps 0x1C22CB20628567DC s fin := by
  unfold execCxReqFall at h
  try dsimp only at h
  repeat' split at h
  all_goals
    cases h
    try dsimp only
    repeat' first
      | (with_reducible rfl)
      | (with_reducible exact Keeps.refl _ _)
      | (with_reducible apply Keeps.ite)
      | (with_reducible assumption)
      | (with_reducible apply State.reqFall_step)
      | intro _
      | (exact (rfl : true = true))
      | split

theorem execCxReqRise_keeps (pri : Bool) {s fin : State} (h : execCxReqRise pri s = .next fin) :
    Keeps 0x1C22CB20628567DC s fin := by
  unfold execCxReqRise at h
  try dsimp only at h
  repeat' split at h
  all_goals
    cases h
    try dsimp only
    repeat' first
      | (with_reducible rfl)
      | (with_reducible exact Keeps.refl _ _)
      | (with_reducible apply Keeps.ite)
      | (with_reducible assumption)
      | (with_reducible apply State.reqRise_step)
      | intro _
      | (exact (rfl : true = true))
      | split

theorem execAck_keeps (p : Fin 9) {s fin : State} (h : execAck p s = .next fin) :
    Keeps 0x1A00009004001C s fin := by
  unfold execAck at h
  try dsimp only at h
  repeat' split at h
  all_goals
    cases h
    try dsimp only
    repeat' first
      | (with_reducible rfl)
      | (with_reducible exact Keeps.refl _ _)
      | (with_reducible apply Keeps.ite)
      | (with_reducible assumption)
      | (with_reducible apply State.ackMsg_step)
      | intro _
      | (exact (rfl : true = true))
      | split

theorem execEthDatagramRx_keeps (x : Fin 2) (d : Datagram) {s fin : State} (h : execEthDatagramRx x d s = .next fin) :
    Keeps 0xA02006004001C s fin := by
  unfold execEthDatagramRx at h
  try dsimp only at h
  repeat' split at h
  all_goals
    cases h
    try dsimp only
    repeat' first
      | (with_reducible rfl)
      | (with_reducible exact Keeps.refl _ _)
      | (with_reducible apply Keeps.ite)
      | (with_reducible assumption)
      | (with_reducible apply State.ethRx_step)
      | intro _
      | (exact (rfl : true = true))
      | split

theorem execEthLinkDown_keeps (x : Fin 2) {s fin : State} (h : execEthLinkDown x s = .next fin) :
    Keeps 0x8000000000000 s fin := by
  unfold execEthLinkDown at h
  try dsimp only at h
  repeat' split at h
  all_goals
    cases h
    try dsimp only
    repeat' first
      | (with_reducible rfl)
      | (with_reducible exact Keeps.refl _ _)
      | (with_reducible apply Keeps.ite)
      | (with_reducible assumption)
      | (with_reducible apply State.linkDown_step)
      | intro _
      | (exact (rfl : true = true))
      | split

theorem execEthLinkUp_keeps (x : Fin 2) (speed : BitVec 3) {s fin : State} (h : execEthLinkUp x speed s = .next fin) :
    Keeps 0x8000000000000 s fin := by
  unfold execEthLinkUp at h
  try dsimp only at h
  repeat' split at h
  all_goals
    cases h
    try dsimp only
    repeat' first
      | (with_reducible rfl)
      | (with_reducible exact Keeps.refl _ _)
      | (with_reducible apply Keeps.ite)
      | (with_reducible assumption)
      | (with_reducible apply State.linkUp_step)
      | intro _
      | (exact (rfl : true = true))
      | split

theorem execEthRetxTimeout_keeps (p : Fin 9) {s fin : State} (h : execEthRetxTimeout p s = .next fin) :
    Keeps 0xA0000A004001C s fin := by
  unfold execEthRetxTimeout at h
  try dsimp only at h
  repeat' split at h
  all_goals
    cases h
    try dsimp only
    repeat' first
      | (with_reducible rfl)
      | (with_reducible exact Keeps.refl _ _)
      | (with_reducible apply Keeps.ite)
      | (with_reducible assumption)
      | (with_reducible apply State.ethTimeout_step)
      | intro _
      | (exact (rfl : true = true))
      | split

theorem execEthSourceEntryExpired_keeps (ip : BitVec 32) {s fin : State} (h : execEthSourceEntryExpired ip s = .next fin) :
    Keeps 0x8000000040000 s fin := by
  unfold execEthSourceEntryExpired at h
  try dsimp only at h
  repeat' split at h
  all_goals
    cases h
    try dsimp only
    repeat' first
      | (with_reducible rfl)
      | (with_reducible exact Keeps.refl _ _)
      | (with_reducible apply Keeps.ite)
      | (with_reducible assumption)
      | (with_reducible apply State.sourceExpire_step)
      | intro _
      | (exact (rfl : true = true))
      | split

theorem execEthTransmit_keeps (p : Fin 9) (x : Fin 2) {s fin : State} (h : execEthTransmit p x s = .next fin) :
    Keeps 0xA0000A004001C s fin := by
  unfold execEthTransmit at h
  try dsimp only at h
  repeat' split at h
  all_goals
    cases h
    try dsimp only
    repeat' first
      | (with_reducible rfl)
      | (with_reducible exact Keeps.refl _ _)
      | (with_reducible apply Keeps.ite)
      | (with_reducible assumption)
      | (with_reducible apply State.ethTransmit_step)
      | intro _
      | (exact (rfl : true = true))
      | split

theorem execRegRead_keeps (p : Fin 9) {s fin : State} (h : execRegRead p s = .next fin) :
    Keeps 0x901246A0F204045C s fin := by
  unfold execRegRead at h
  try dsimp only at h
  repeat' split at h
  all_goals
    cases h
    try dsimp only
    repeat' first
      | (with_reducible rfl)
      | (with_reducible exact Keeps.refl _ _)
      | (with_reducible apply Keeps.ite)
      | (with_reducible assumption)
      | (with_reducible apply State.regReadMsg_step)
      | intro _
      | (exact (rfl : true = true))
      | split

theorem execRegWrite_keeps (p : Fin 9) {s fin : State} (h : execRegWrite p s = .next fin) :
    Keeps 0xFFFFFFFEFFFFFFFF s fin := by
  unfold execRegWrite at h
  try dsimp only at h
  repeat' split at h
  all_goals
    cases h
    try dsimp only
    repeat' first
      | (with_reducible rfl)
      | (with_reducible exact Keeps.refl _ _)
      | (with_reducible apply Keeps.ite)
      | (with_reducible assumption)
      | (with_reducible apply State.regWriteMsg_step)
      | intro _
      | (exact (rfl : true = true))
      | split

theorem execBudgetEntryExpired_keeps (pitch : ℕ) (uid : BitVec 128) {s fin : State} (h : execBudgetEntryExpired pitch uid s = .next fin) :
    Keeps 0x20000000002000 s fin := by
  unfold execBudgetEntryExpired at h
  try dsimp only at h
  repeat' split at h
  all_goals
    cases h
    try dsimp only
    repeat' first
      | (with_reducible rfl)
      | (with_reducible exact Keeps.refl _ _)
      | (with_reducible apply Keeps.ite)
      | (with_reducible assumption)
      | (with_reducible apply State.budgetExpire_step)
      | intro _
      | (exact (rfl : true = true))
      | split

theorem execCheckVerdict_keeps (port : ℕ) (span : List Bool) (field : Word) {s fin : State} (h : execCheckVerdict port span field s = .next fin) :
    Keeps 0x1000000000080 s fin := by
  unfold execCheckVerdict at h
  try dsimp only at h
  repeat' split at h
  all_goals
    cases h
    try dsimp only
    repeat' first
      | (with_reducible rfl)
      | (with_reducible exact Keeps.refl _ _)
      | (with_reducible apply Keeps.ite)
      | (with_reducible assumption)
      | (with_reducible apply State.checkVerdict_step)
      | intro _
      | (exact (rfl : true = true))
      | split

theorem execExchangeEnd_keeps (port : ℕ) (r : ReplyObs) {s fin : State} (h : execExchangeEnd port r s = .next fin) :
    Keeps 0x1022E70062046ADC s fin := by
  unfold execExchangeEnd at h
  try dsimp only at h
  repeat' split at h
  all_goals
    cases h
    try dsimp only
    repeat' first
      | (with_reducible rfl)
      | (with_reducible exact Keeps.refl _ _)
      | (with_reducible apply Keeps.ite)
      | (with_reducible assumption)
      | (with_reducible apply State.exchangeEnd_step)
      | intro _
      | (exact (rfl : true = true))
      | split

theorem execExchangeStart_keeps (port : ℕ) {s fin : State} (h : execExchangeStart port s = .next fin) :
    Keeps 0x1022CB2062066FDC s fin := by
  unfold execExchangeStart at h
  try dsimp only at h
  repeat' split at h
  all_goals
    cases h
    try dsimp only
    repeat' first
      | (with_reducible rfl)
      | (with_reducible exact Keeps.refl _ _)
      | (with_reducible apply Keeps.ite)
      | (with_reducible assumption)
      | (with_reducible apply State.exchangeStart_step)
      | intro _
      | (exact (rfl : true = true))
      | split

theorem execExchangeTimeout_keeps (port : Nat) (o : LateObs) {s fin : State} (h : execExchangeTimeout port o s = .next fin) :
    Keeps 0x1022E70062046ADC s fin := by
  unfold execExchangeTimeout at h
  try dsimp only at h
  repeat' split at h
  all_goals
    cases h
    try dsimp only
    repeat' first
      | (with_reducible rfl)
      | (with_reducible exact Keeps.refl _ _)
      | (with_reducible apply Keeps.ite)
      | (with_reducible assumption)
      | (with_reducible apply State.exchangeTimeout_step)
      | intro _
      | (exact (rfl : true = true))
      | split

theorem execReplyStartDetected_keeps (port : ℕ) (obs : StartObs) {s fin : State} (h : execReplyStartDetected port obs s = .next fin) :
    Keeps 0x90000000380 s fin := by
  unfold execReplyStartDetected at h
  try dsimp only at h
  repeat' split at h
  all_goals
    cases h
    try dsimp only
    repeat' first
      | (with_reducible rfl)
      | (with_reducible exact Keeps.refl _ _)
      | (with_reducible apply Keeps.ite)
      | (with_reducible assumption)
      | (with_reducible apply State.replyStart_step)
      | intro _
      | (exact (rfl : true = true))
      | split

theorem execStakeTailStart_keeps (port : ℕ) {s fin : State} (h : execStakeTailStart port s = .next fin) :
    Keeps 0x14228B20620467DC s fin := by
  unfold execStakeTailStart at h
  try dsimp only at h
  repeat' split at h
  all_goals
    cases h
    try dsimp only
    repeat' first
      | (with_reducible rfl)
      | (with_reducible exact Keeps.refl _ _)
      | (with_reducible apply Keeps.ite)
      | (with_reducible assumption)
      | (with_reducible apply State.tailStart_step)
      | intro _
      | (exact (rfl : true = true))
      | split

theorem execFlashCmdDone_keeps (good : Bool) {s fin : State} (h : execFlashCmdDone good s = .next fin) :
    Keeps 0x1040200020 s fin := by
  unfold execFlashCmdDone at h
  try dsimp only at h
  repeat' split at h
  all_goals
    cases h
    try dsimp only
    repeat' first
      | (with_reducible rfl)
      | (with_reducible exact Keeps.refl _ _)
      | (with_reducible apply Keeps.ite)
      | (with_reducible assumption)
      | (with_reducible apply State.flashDone_step)
      | intro _
      | (exact (rfl : true = true))
      | split

theorem execFlashErase_keeps (m : PMaster) (addr : BitVec 32) {s fin : State} (h : execFlashErase m addr s = .next fin) :
    Keeps 0x1000000020 s fin := by
  unfold execFlashErase at h
  try dsimp only at h
  repeat' split at h
  all_goals
    cases h
    try dsimp only
    repeat' first
      | (with_reducible rfl)
      | (with_reducible exact Keeps.refl _ _)
      | (with_reducible apply Keeps.ite)
      | (with_reducible assumption)
      | (with_reducible apply State.flashCmd_step)
      | intro _
      | (exact (rfl : true = true))
      | split

theorem execFlashProgram_keeps (m : PMaster) (addr : BitVec 32) {s fin : State} (h : execFlashProgram m addr s = .next fin) :
    Keeps 0x1000000020 s fin := by
  unfold execFlashProgram at h
  try dsimp only at h
  repeat' split at h
  all_goals
    cases h
    try dsimp only
    repeat' first
      | (with_reducible rfl)
      | (with_reducible exact Keeps.refl _ _)
      | (with_reducible apply Keeps.ite)
      | (with_reducible assumption)
      | (with_reducible apply State.flashCmd_step)
      | intro _
      | (exact (rfl : true = true))
      | split

theorem execFlashRead_keeps (m : PMaster) (addr : BitVec 32) {s fin : State} (h : execFlashRead m addr s = .next fin) :
    Keeps 0x1000000020 s fin := by
  unfold execFlashRead at h
  try dsimp only at h
  repeat' split at h
  all_goals
    cases h
    try dsimp only
    repeat' first
      | (with_reducible rfl)
      | (with_reducible exact Keeps.refl _ _)
      | (with_reducible apply Keeps.ite)
      | (with_reducible assumption)
      | (with_reducible apply State.flashCmd_step)
      | intro _
      | (exact (rfl : true = true))
      | split

theorem execLogbookErase_keeps {s fin : State} (h : execLogbookErase s = .next fin) :
    Keeps 0x200000 s fin := by
  unfold execLogbookErase at h
  try dsimp only at h
  repeat' split at h
  all_goals
    cases h
    try dsimp only
    repeat' first
      | (with_reducible rfl)
      | (with_reducible exact Keeps.refl _ _)
      | (with_reducible apply Keeps.ite)
      | (with_reducible assumption)
      | (with_reducible apply State.logErase_step)
      | intro _
      | (exact (rfl : true = true))
      | split

theorem execLogbookWrite_keeps (good : Bool) {s fin : State} (h : execLogbookWrite good s = .next fin) :
    Keeps 0x1040300000 s fin := by
  unfold execLogbookWrite at h
  try dsimp only at h
  repeat' split at h
  all_goals
    cases h
    try dsimp only
    repeat' first
      | (with_reducible rfl)
      | (with_reducible exact Keeps.refl _ _)
      | (with_reducible apply Keeps.ite)
      | (with_reducible assumption)
      | (with_reducible apply State.logWrite_step)
      | intro _
      | (exact (rfl : true = true))
      | split

theorem execBufAlloc_keeps (m : Master) (p : Fin 9) {s fin : State} (h : execBufAlloc m p s = .next fin) :
    Keeps 0x2020050000008 s fin := by
  unfold execBufAlloc at h
  try dsimp only at h
  repeat' split at h
  all_goals
    cases h
    try dsimp only
    repeat' first
      | (with_reducible rfl)
      | (with_reducible exact Keeps.refl _ _)
      | (with_reducible apply Keeps.ite)
      | (with_reducible assumption)
      | (with_reducible apply State.allocRead_step)
      | intro _
      | (exact (rfl : true = true))
      | split

theorem execBufFree_keeps (m : Master) (p : Fin 9) (v : Word) {s fin : State} (h : execBufFree m p v s = .next fin) :
    Keeps 0x12000090000008 s fin := by
  unfold execBufFree at h
  try dsimp only at h
  repeat' split at h
  all_goals
    cases h
    try dsimp only
    repeat' first
      | (with_reducible rfl)
      | (with_reducible exact Keeps.refl _ _)
      | (with_reducible apply Keeps.ite)
      | (with_reducible assumption)
      | (with_reducible apply State.freeWrite_step)
      | intro _
      | (exact (rfl : true = true))
      | split

theorem execEccInjectArm_keeps (_m : PMaster) (v : Word) {s fin : State} (h : execEccInjectArm _m v s = .next fin) :
    Keeps 0x2000000000000 s fin := by
  unfold execEccInjectArm at h
  try dsimp only at h
  repeat' split at h
  all_goals
    cases h
    try dsimp only
    repeat' first
      | (with_reducible rfl)
      | (with_reducible exact Keeps.refl _ _)
      | (with_reducible apply Keeps.ite)
      | (with_reducible assumption)
      | (with_reducible apply State.injectWrite_step)
      | intro _
      | (exact (rfl : true = true))
      | split

theorem execFifoFlush_keeps (_m : PMaster) (n : Fin 64) {s fin : State} (h : execFifoFlush _m n s = .next fin) :
    Keeps 0x1A000090040018 s fin := by
  unfold execFifoFlush at h
  try dsimp only at h
  repeat' split at h
  all_goals
    cases h
    try dsimp only
    repeat' first
      | (with_reducible rfl)
      | (with_reducible exact Keeps.refl _ _)
      | (with_reducible apply Keeps.ite)
      | (with_reducible assumption)
      | (with_reducible apply State.flush_step)
      | intro _
      | (exact (rfl : true = true))
      | split

theorem execFifoPop_keeps (m : Master) (n : Fin 64) (v : Word) {s fin : State} (h : execFifoPop m n v s = .next fin) :
    Keeps 0x12000090040018 s fin := by
  unfold execFifoPop at h
  try dsimp only at h
  repeat' split at h
  all_goals
    cases h
    try dsimp only
    repeat' first
      | (with_reducible rfl)
      | (with_reducible exact Keeps.refl _ _)
      | (with_reducible apply Keeps.ite)
      | (with_reducible assumption)
      | (with_reducible apply State.onFifo_step)
      | (with_reducible apply State.pop_step)
      | intro _
      | (exact (rfl : true = true))
      | split

theorem execFifoPush_keeps (m : Master) (n : Fin 64) (v : Word) {s fin : State} (h : execFifoPush m n v s = .next fin) :
    Keeps 0x1200009000001C s fin := by
  unfold execFifoPush at h
  try dsimp only at h
  repeat' split at h
  all_goals
    cases h
    try dsimp only
    repeat' first
      | (with_reducible rfl)
      | (with_reducible exact Keeps.refl _ _)
      | (with_reducible apply Keeps.ite)
      | (with_reducible assumption)
      | (with_reducible apply State.newCycle_step)
      | (with_reducible apply State.onFifo_step)
      | (with_reducible apply State.push_step)
      | intro _
      | (exact (rfl : true = true))
      | split

theorem execGroundsheetRead_keeps (m : Master) (off : Nat) (n : Nat) {s fin : State} (h : execGroundsheetRead m off n s = .next fin) :
    Keeps 0x801246A0700C045C s fin := by
  unfold execGroundsheetRead at h
  try dsimp only at h
  repeat' split at h
  all_goals
    cases h
    try dsimp only
    repeat' first
      | (with_reducible rfl)
      | (with_reducible exact Keeps.refl _ _)
      | (with_reducible apply Keeps.ite)
      | (with_reducible assumption)
      | (with_reducible apply State.viewRead_step)
      | intro _
      | (exact (rfl : true = true))
      | split

theorem execGroundsheetWrite_keeps (m : Master) (off : Nat) (bytes : List Byte) {s fin : State} (h : execGroundsheetWrite m off bytes s = .next fin) :
    Keeps 0xFFFFFFFEFFFFFFFF s fin := by
  unfold execGroundsheetWrite at h
  try dsimp only at h
  repeat' split at h
  all_goals
    cases h
    try dsimp only
    repeat' first
      | (with_reducible rfl)
      | (with_reducible exact Keeps.refl _ _)
      | (with_reducible apply Keeps.ite)
      | (with_reducible assumption)
      | (with_reducible apply State.viewWrite_step)
      | intro _
      | (exact (rfl : true = true))
      | split

theorem execHeldPacketCommit_keeps (n : Fin 64) {s fin : State} (h : execHeldPacketCommit n s = .next fin) :
    Keeps 0x202006004001C s fin := by
  unfold execHeldPacketCommit at h
  try dsimp only at h
  repeat' split at h
  all_goals
    cases h
    try dsimp only
    repeat' first
      | (with_reducible rfl)
      | (with_reducible exact Keeps.refl _ _)
      | (with_reducible apply Keeps.ite)
      | (with_reducible assumption)
      | (with_reducible apply State.commitHeld_step)
      | intro _
      | (exact (rfl : true = true))
      | split

theorem execPresenceSweep_keeps (idx : ℕ) {s fin : State} (h : execPresenceSweep idx s = .next fin) :
    Keeps 0x246006004001C s fin := by
  unfold execPresenceSweep at h
  try dsimp only at h
  repeat' split at h
  all_goals
    cases h
    try dsimp only
    repeat' first
      | (with_reducible rfl)
      | (with_reducible exact Keeps.refl _ _)
      | (with_reducible apply Keeps.ite)
      | (with_reducible assumption)
      | (with_reducible apply State.sweep_step)
      | intro _
      | (exact (rfl : true = true))
      | split

theorem execRrWaitClear_keeps (_m : PMaster) {s fin : State} (h : execRrWaitClear _m s = .next fin) :
    Keeps 0x4000000000000 s fin := by
  unfold execRrWaitClear at h
  try dsimp only at h
  repeat' split at h
  all_goals
    cases h
    try dsimp only
    repeat' first
      | (with_reducible rfl)
      | (with_reducible exact Keeps.refl _ _)
      | (with_reducible apply Keeps.ite)
      | (with_reducible assumption)
      | (with_reducible apply Keeps.setReg regWindow_rdpRrWait)
      | intro _
      | (exact (rfl : true = true))
      | split

theorem execScrubVisit_keeps (word : ℕ) (upset : Word) {s fin : State} (h : execScrubVisit word upset s = .next fin) :
    Keeps 0x800246A06004045C s fin := by
  unfold execScrubVisit at h
  try dsimp only at h
  repeat' split at h
  all_goals
    cases h
    try dsimp only
    repeat' first
      | (with_reducible rfl)
      | (with_reducible exact Keeps.refl _ _)
      | (with_reducible apply Keeps.ite)
      | (with_reducible assumption)
      | (with_reducible apply State.scrub_step)
      | intro _
      | (exact (rfl : true = true))
      | split

theorem execWheelTurnStart_keeps (wait : BitVec 16) (target : BitVec 5) {s fin : State} (h : execWheelTurnStart wait target s = .next fin) :
    Keeps 0x4000008000000 s fin := by
  unfold execWheelTurnStart at h
  try dsimp only at h
  repeat' split at h
  all_goals
    cases h
    try dsimp only
    repeat' first
      | (with_reducible rfl)
      | (with_reducible exact Keeps.refl _ _)
      | (with_reducible apply Keeps.ite)
      | (with_reducible assumption)
      | (with_reducible apply State.turnStart_step)
      | intro _
      | (exact (rfl : true = true))
      | split

theorem execAckSlot_keeps (bus : BusSeen) {s fin : State} (h : execAckSlot bus s = .next fin) :
    Keeps 0x1200000022400000 s fin := by
  unfold execAckSlot at h
  try dsimp only at h
  repeat' split at h
  all_goals
    cases h
    try dsimp only
    repeat' first
      | (with_reducible rfl)
      | (with_reducible exact Keeps.refl _ _)
      | (with_reducible apply Keeps.ite)
      | (with_reducible assumption)
      | (with_reducible apply State.sendAck_step)
      | intro _
      | (exact (rfl : true = true))
      | split

theorem execBeacon_keeps (f : BeaconFrame) {s fin : State} (h : execBeacon f s = .next fin) :
    Keeps 0x16228B2062C467DC s fin := by
  unfold execBeacon at h
  try dsimp only at h
  repeat' split at h
  all_goals
    cases h
    try dsimp only
    repeat' first
      | (with_reducible rfl)
      | (with_reducible exact Keeps.refl _ _)
      | (with_reducible apply Keeps.ite)
      | (with_reducible assumption)
      | (with_reducible apply State.hearBeacon_step)
      | intro _
      | (exact (rfl : true = true))
      | split

theorem execBeaconRetry_keeps {s fin : State} (h : execBeaconRetry s = .next fin) :
    Keeps 0x400000 s fin := by
  unfold execBeaconRetry at h
  try dsimp only at h
  repeat' split at h
  all_goals
    cases h
    try dsimp only
    repeat' first
      | (with_reducible rfl)
      | (with_reducible exact Keeps.refl _ _)
      | (with_reducible apply Keeps.ite)
      | (with_reducible assumption)
      | (with_reducible apply State.beaconRetry_step)
      | intro _
      | (exact (rfl : true = true))
      | split

theorem execBeaconTransmit_keeps (bus : BusSeen) {s fin : State} (h : execBeaconTransmit bus s = .next fin) :
    Keeps 0x16228B2062C467DC s fin := by
  unfold execBeaconTransmit at h
  try dsimp only at h
  repeat' split at h
  all_goals
    cases h
    try dsimp only
    repeat' first
      | (with_reducible rfl)
      | (with_reducible exact Keeps.refl _ _)
      | (with_reducible apply Keeps.ite)
      | (with_reducible assumption)
      | (with_reducible apply State.sendBeacon_step)
      | intro _
      | (exact (rfl : true = true))
      | split

theorem execGuylineAck_keeps (f : AckFrame) {s fin : State} (h : execGuylineAck f s = .next fin) :
    Keeps 0x1000000002400000 s fin := by
  unfold execGuylineAck at h
  try dsimp only at h
  repeat' split at h
  all_goals
    cases h
    try dsimp only
    repeat' first
      | (with_reducible rfl)
      | (with_reducible exact Keeps.refl _ _)
      | (with_reducible apply Keeps.ite)
      | (with_reducible assumption)
      | (with_reducible apply State.hearAck_step)
      | intro _
      | (exact (rfl : true = true))
      | split

theorem execGuylineFrameCrcFail_keeps (type src : Byte) (rest : List Byte) {s fin : State} (h : execGuylineFrameCrcFail type src rest s = .next fin) :
    Keeps 0x1200000002000000 s fin := by
  unfold execGuylineFrameCrcFail at h
  try dsimp only at h
  repeat' split at h
  all_goals
    cases h
    try dsimp only
    repeat' first
      | (with_reducible rfl)
      | (with_reducible exact Keeps.refl _ _)
      | (with_reducible apply Keeps.ite)
      | (with_reducible assumption)
      | (with_reducible apply State.badFrame_step)
      | intro _
      | (exact (rfl : true = true))
      | split

theorem execLaneDeadline_keeps {s fin : State} (h : execLaneDeadline s = .next fin) :
    Keeps 0x16228B2062C467DC s fin := by
  unfold execLaneDeadline at h
  try dsimp only at h
  repeat' split at h
  all_goals
    cases h
    try dsimp only
    repeat' first
      | (with_reducible rfl)
      | (with_reducible exact Keeps.refl _ _)
      | (with_reducible apply Keeps.ite)
      | (with_reducible assumption)
      | (with_reducible apply State.laneDeadline_step)
      | intro _
      | (exact (rfl : true = true))
      | split

theorem execLaneGrantStart_keeps {s fin : State} (h : execLaneGrantStart s = .next fin) :
    Keeps 0x200000000400000 s fin := by
  unfold execLaneGrantStart at h
  try dsimp only at h
  repeat' split at h
  all_goals
    cases h
    try dsimp only
    repeat' first
      | (with_reducible rfl)
      | (with_reducible exact Keeps.refl _ _)
      | (with_reducible apply Keeps.ite)
      | (with_reducible assumption)
      | (with_reducible apply State.grantStart_step)
      | intro _
      | (exact (rfl : true = true))
      | split

theorem execMasterTimeout_keeps {s fin : State} (h : execMasterTimeout s = .next fin) :
    Keeps 0x200000000400000 s fin := by
  unfold execMasterTimeout at h
  try dsimp only at h
  repeat' split at h
  all_goals
    cases h
    try dsimp only
    repeat' first
      | (with_reducible rfl)
      | (with_reducible exact Keeps.refl _ _)
      | (with_reducible apply Keeps.ite)
      | (with_reducible assumption)
      | (with_reducible apply State.masterTimeout_step)
      | intro _
      | (exact (rfl : true = true))
      | split

theorem execHeadRetryExpired_keeps (port : ℕ) {s fin : State} (h : execHeadRetryExpired port s = .next fin) :
    Keeps 0x100 s fin := by
  unfold execHeadRetryExpired at h
  try dsimp only at h
  repeat' split at h
  all_goals
    cases h
    try dsimp only
    repeat' first
      | (with_reducible rfl)
      | (with_reducible exact Keeps.refl _ _)
      | (with_reducible apply Keeps.ite)
      | (with_reducible assumption)
      | (with_reducible apply State.retryOver_step)
      | intro _
      | (exact (rfl : true = true))
      | split

theorem execCancelAdapt_keeps (port : Nat) (x : Int × Int) (left : List Nat) {s fin : State} (h : execCancelAdapt port x left s = .next fin) :
    Keeps 0x40000080 s fin := by
  unfold execCancelAdapt at h
  try dsimp only at h
  repeat' split at h
  all_goals
    cases h
    try dsimp only
    repeat' first
      | (with_reducible rfl)
      | (with_reducible exact Keeps.refl _ _)
      | (with_reducible apply Keeps.ite)
      | (with_reducible assumption)
      | (with_reducible apply State.cancelAdapt_step)
      | intro _
      | (exact (rfl : true = true))
      | split

theorem execCancelReload_keeps (_m : PMaster) (port : ℕ) {s fin : State} (h : execCancelReload _m port s = .next fin) :
    Keeps 0x10000000100 s fin := by
  unfold execCancelReload at h
  try dsimp only at h
  repeat' split at h
  all_goals
    cases h
    try dsimp only
    repeat' first
      | (with_reducible rfl)
      | (with_reducible exact Keeps.refl _ _)
      | (with_reducible apply Keeps.ite)
      | (with_reducible assumption)
      | (with_reducible apply State.cancelReload_step)
      | intro _
      | (exact (rfl : true = true))
      | split

theorem execHfStateTransitionDone_keeps (slice : ℕ) (obs : SliceObs) {s fin : State} (h : execHfStateTransitionDone slice obs s = .next fin) :
    Keeps 0x14228B20628467DC s fin := by
  unfold execHfStateTransitionDone at h
  try dsimp only at h
  repeat' split at h
  all_goals
    cases h
    try dsimp only
    repeat' first
      | (with_reducible rfl)
      | (with_reducible exact Keeps.refl _ _)
      | (with_reducible apply Keeps.ite)
      | (with_reducible assumption)
      | (with_reducible apply State.hfDone_step)
      | intro _
      | (exact (rfl : true = true))
      | split

theorem execLoadMonitorSample_keeps (port : ℕ) (obs : HeadObs) {s fin : State} (h : execLoadMonitorSample port obs s = .next fin) :
    Keeps 0x10228B20620467DC s fin := by
  unfold execLoadMonitorSample at h
  try dsimp only at h
  repeat' split at h
  all_goals
    cases h
    try dsimp only
    repeat' first
      | (with_reducible rfl)
      | (with_reducible exact Keeps.refl _ _)
      | (with_reducible apply Keeps.ite)
      | (with_reducible assumption)
      | (with_reducible apply State.loadSample_step)
      | intro _
      | (exact (rfl : true = true))
      | split

theorem execKeyLoad_keeps (p : Fin 9) (v : Word) {s fin : State} (h : execKeyLoad p v s = .next fin) :
    Keeps 0x10000000082000 s fin := by
  unfold execKeyLoad at h
  try dsimp only at h
  repeat' split at h
  all_goals
    cases h
    try dsimp only
    repeat' first
      | (with_reducible rfl)
      | (with_reducible exact Keeps.refl _ _)
      | (with_reducible apply Keeps.ite)
      | (with_reducible assumption)
      | (with_reducible apply State.pitKeyCmd_step)
      | intro _
      | (exact (rfl : true = true))
      | split

theorem execSecKeyLoad_keeps (_m : PMaster) (v : Word) {s fin : State} (h : execSecKeyLoad _m v s = .next fin) :
    Keeps 0x20000000002000 s fin := by
  unfold execSecKeyLoad at h
  try dsimp only at h
  repeat' split at h
  all_goals
    cases h
    try dsimp only
    repeat' first
      | (with_reducible rfl)
      | (with_reducible exact Keeps.refl _ _)
      | (with_reducible apply Keeps.ite)
      | (with_reducible assumption)
      | (with_reducible apply State.secKeyCmd_step)
      | intro _
      | (exact (rfl : true = true))
      | split

theorem execLanternConfirmPing_keeps (e : Fin 4) {s fin : State} (h : execLanternConfirmPing e s = .next fin) :
    Keeps 0x20020200 s fin := by
  unfold execLanternConfirmPing at h
  try dsimp only at h
  repeat' split at h
  all_goals
    cases h
    try dsimp only
    repeat' first
      | (with_reducible rfl)
      | (with_reducible exact Keeps.refl _ _)
      | (with_reducible apply Keeps.ite)
      | (with_reducible assumption)
      | (with_reducible apply State.confirmPing_step)
      | intro _
      | (exact (rfl : true = true))
      | split

theorem execLanternPingDone_keeps (e : Fin 4) (amp : BitVec 12) (phase : BitVec 8) {s fin : State} (h : execLanternPingDone e amp phase s = .next fin) :
    Keeps 0x908202006206029C s fin := by
  unfold execLanternPingDone at h
  try dsimp only at h
  repeat' split at h
  all_goals
    cases h
    try dsimp only
    repeat' first
      | (with_reducible rfl)
      | (with_reducible exact Keeps.refl _ _)
      | (with_reducible apply Keeps.ite)
      | (with_reducible assumption)
      | (with_reducible apply State.pingDone_step)
      | intro _
      | (exact (rfl : true = true))
      | split

theorem execWakeCardClear_keeps (_m : PMaster) {s fin : State} (h : execWakeCardClear _m s = .next fin) :
    Keeps 0x80000000000000 s fin := by
  unfold execWakeCardClear at h
  try dsimp only at h
  repeat' split at h
  all_goals
    cases h
    try dsimp only
    repeat' first
      | (with_reducible rfl)
      | (with_reducible exact Keeps.refl _ _)
      | (with_reducible apply Keeps.ite)
      | (with_reducible assumption)
      | (with_reducible apply State.lntStatusWrite_step)
      | intro _
      | (exact (rfl : true = true))
      | split

theorem execWatchRound_keeps {s fin : State} (h : execWatchRound s = .next fin) :
    Keeps 0x20020200 s fin := by
  unfold execWatchRound at h
  try dsimp only at h
  repeat' split at h
  all_goals
    cases h
    try dsimp only
    repeat' first
      | (with_reducible rfl)
      | (with_reducible exact Keeps.refl _ _)
      | (with_reducible apply Keeps.ite)
      | (with_reducible assumption)
      | (with_reducible apply State.watchRound_step)
      | intro _
      | (exact (rfl : true = true))
      | split

theorem execDoorbell_keeps (m : Master) (n : Fin 64) (v : Word) {s fin : State} (h : execDoorbell m n v s = .next fin) :
    Keeps 0x10000010040000 s fin := by
  unfold execDoorbell at h
  try dsimp only at h
  repeat' split at h
  all_goals
    cases h
    try dsimp only
    repeat' first
      | (with_reducible rfl)
      | (with_reducible exact Keeps.refl _ _)
      | (with_reducible apply Keeps.ite)
      | (with_reducible assumption)
      | (with_reducible apply State.doorbell_step)
      | intro _
      | (exact (rfl : true = true))
      | split

theorem execMsixUnmask_keeps (fn : Fin 9) (vec : Fin 64) {s fin : State} (h : execMsixUnmask fn vec s = .next fin) :
    Keeps 0x20040000 s fin := by
  unfold execMsixUnmask at h
  try dsimp only at h
  repeat' split at h
  all_goals
    cases h
    try dsimp only
    repeat' first
      | (with_reducible rfl)
      | (with_reducible exact Keeps.refl _ _)
      | (with_reducible apply Keeps.ite)
      | (with_reducible assumption)
      | (with_reducible apply State.unmask_step)
      | intro _
      | (exact (rfl : true = true))
      | split

theorem execPerst_keeps {s fin : State} (h : execPerst s = .next fin) :
    Keeps 0x8000000040000 s fin := by
  unfold execPerst at h
  try dsimp only at h
  repeat' split at h
  all_goals
    cases h
    try dsimp only
    repeat' first
      | (with_reducible rfl)
      | (with_reducible exact Keeps.refl _ _)
      | (with_reducible apply Keeps.ite)
      | (with_reducible assumption)
      | (with_reducible apply State.perst_step)
      | intro _
      | (exact (rfl : true = true))
      | split

theorem execRequestFetchDone_keeps (n : Fin 64) (ok : Bool) (words : List Word) {s fin : State} (h : execRequestFetchDone n ok words s = .next fin) :
    Keeps 0x202004004001C s fin := by
  unfold execRequestFetchDone at h
  try dsimp only at h
  repeat' split at h
  all_goals
    cases h
    try dsimp only
    repeat' first
      | (with_reducible rfl)
      | (with_reducible exact Keeps.refl _ _)
      | (with_reducible apply Keeps.ite)
      | (with_reducible assumption)
      | (with_reducible apply State.fetchDone_step)
      | intro _
      | (exact (rfl : true = true))
      | split

theorem execRingDeliver_keeps (n : Fin 64) {s fin : State} (h : execRingDeliver n s = .next fin) :
    Keeps 0x20000A004001C s fin := by
  unfold execRingDeliver at h
  try dsimp only at h
  repeat' split at h
  all_goals
    cases h
    try dsimp only
    repeat' first
      | (with_reducible rfl)
      | (with_reducible exact Keeps.refl _ _)
      | (with_reducible apply Keeps.ite)
      | (with_reducible assumption)
      | (with_reducible apply State.ringDeliver_step)
      | intro _
      | (exact (rfl : true = true))
      | split

theorem execRingWrite_keeps (m : Master) (n : Fin 64) (v : Word) {s fin : State} (h : execRingWrite m n v s = .next fin) :
    Keeps 0x18000010040000 s fin := by
  unfold execRingWrite at h
  try dsimp only at h
  repeat' split at h
  all_goals
    cases h
    try dsimp only
    repeat' first
      | (with_reducible rfl)
      | (with_reducible exact Keeps.refl _ _)
      | (with_reducible apply Keeps.ite)
      | (with_reducible assumption)
      | (with_reducible apply State.onFifo_step)
      | (with_reducible apply State.ringSet_step)
      | intro _
      | (exact (rfl : true = true))
      | split

theorem execVfEnableWrite_keeps (numVfs : BitVec 16) (enable : Bool) {s fin : State} (h : execVfEnableWrite numVfs enable s = .next fin) :
    Keeps 0x40000 s fin := by
  unfold execVfEnableWrite at h
  try dsimp only at h
  repeat' split at h
  all_goals
    cases h
    try dsimp only
    repeat' first
      | (with_reducible rfl)
      | (with_reducible exact Keeps.refl _ _)
      | (with_reducible apply Keeps.ite)
      | (with_reducible assumption)
      | (with_reducible apply State.vfWrite_step)
      | intro _
      | (exact (rfl : true = true))
      | split

theorem execMajorCycleBoundary_keeps {s fin : State} (h : execMajorCycleBoundary s = .next fin) :
    Keeps 0x1D228BA063D477FC s fin := by
  unfold execMajorCycleBoundary at h
  try dsimp only at h
  repeat' split at h
  all_goals
    cases h
    try dsimp only
    repeat' first
      | (with_reducible rfl)
      | (with_reducible exact Keeps.refl _ _)
      | (with_reducible apply Keeps.ite)
      | (with_reducible assumption)
      | (with_reducible apply State.boundary_step)
      | intro _
      | (exact (rfl : true = true))
      | split

theorem execPlanCheckDone_keeps {s fin : State} (h : execPlanCheckDone s = .next fin) :
    Keeps 0x990202A06214175C s fin := by
  unfold execPlanCheckDone at h
  try dsimp only at h
  repeat' split at h
  all_goals
    cases h
    try dsimp only
    repeat' first
      | (with_reducible rfl)
      | (with_reducible exact Keeps.refl _ _)
      | (with_reducible apply Keeps.ite)
      | (with_reducible assumption)
      | (with_reducible apply State.checkDone_step)
      | intro _
      | (exact (rfl : true = true))
      | split

theorem execPlanStart_keeps {s fin : State} (h : execPlanStart s = .next fin) :
    Keeps 0x1D228BA063D477FC s fin := by
  unfold execPlanStart at h
  try dsimp only at h
  repeat' split at h
  all_goals
    cases h
    try dsimp only
    repeat' first
      | (with_reducible rfl)
      | (with_reducible exact Keeps.refl _ _)
      | (with_reducible apply Keeps.ite)
      | (with_reducible assumption)
      | (with_reducible apply State.planStart_step)
      | intro _
      | (exact (rfl : true = true))
      | split

theorem execSchCancel_keeps (_m : PMaster) {s fin : State} (h : execSchCancel _m s = .next fin) :
    Keeps 0xA000000040 s fin := by
  unfold execSchCancel at h
  try dsimp only at h
  repeat' split at h
  all_goals
    cases h
    try dsimp only
    repeat' first
      | (with_reducible rfl)
      | (with_reducible exact Keeps.refl _ _)
      | (with_reducible apply Keeps.ite)
      | (with_reducible assumption)
      | (with_reducible apply State.schCancel_step)
      | intro _
      | (exact (rfl : true = true))
      | split

theorem execSchRunWrite_keeps (_m : PMaster) (run : Bool) {s fin : State} (h : execSchRunWrite _m run s = .next fin) :
    Keeps 0xA000000040 s fin := by
  unfold execSchRunWrite at h
  try dsimp only at h
  repeat' split at h
  all_goals
    cases h
    try dsimp only
    repeat' first
      | (with_reducible rfl)
      | (with_reducible exact Keeps.refl _ _)
      | (with_reducible apply Keeps.ite)
      | (with_reducible assumption)
      | (with_reducible apply State.schRun_step)
      | intro _
      | (exact (rfl : true = true))
      | split

theorem execSchSwap_keeps (_m : PMaster) {s fin : State} (h : execSchSwap _m s = .next fin) :
    Keeps 0xA000000040 s fin := by
  unfold execSchSwap at h
  try dsimp only at h
  repeat' split at h
  all_goals
    cases h
    try dsimp only
    repeat' first
      | (with_reducible rfl)
      | (with_reducible exact Keeps.refl _ _)
      | (with_reducible apply Keeps.ite)
      | (with_reducible assumption)
      | (with_reducible apply State.schSwap_step)
      | intro _
      | (exact (rfl : true = true))
      | split

theorem execStakeEnd_keeps (port : ℕ) {s fin : State} (h : execStakeEnd port s = .next fin) :
    Keeps 0x15638B60E29567DC s fin := by
  unfold execStakeEnd at h
  try dsimp only at h
  repeat' split at h
  all_goals
    cases h
    try dsimp only
    repeat' first
      | (with_reducible rfl)
      | (with_reducible exact Keeps.refl _ _)
      | (with_reducible apply Keeps.ite)
      | (with_reducible assumption)
      | (with_reducible apply State.stakeEnd_step)
      | intro _
      | (exact (rfl : true = true))
      | split

theorem execStakeStart_keeps (idx : ℕ) {s fin : State} (h : execStakeStart idx s = .next fin) :
    Keeps 0x9C23CBE16285E7DC s fin := by
  unfold execStakeStart at h
  try dsimp only at h
  repeat' split at h
  all_goals
    cases h
    try dsimp only
    repeat' first
      | (with_reducible rfl)
      | (with_reducible exact Keeps.refl _ _)
      | (with_reducible apply Keeps.ite)
      | (with_reducible assumption)
      | (with_reducible apply State.stakeStart_step)
      | intro _
      | (exact (rfl : true = true))
      | split

theorem execTriggerRunStart_keeps (port : ℕ) {s fin : State} (h : execTriggerRunStart port s = .next fin) :
    Keeps 0xC024B00600407DC s fin := by
  unfold execTriggerRunStart at h
  try dsimp only at h
  repeat' split at h
  all_goals
    cases h
    try dsimp only
    repeat' first
      | (with_reducible rfl)
      | (with_reducible exact Keeps.refl _ _)
      | (with_reducible apply Keeps.ite)
      | (with_reducible assumption)
      | (with_reducible apply State.triggerStart_step)
      | intro _
      | (exact (rfl : true = true))
      | split

theorem execBlockReset_keeps (m : PMaster) (v : Word) {s fin : State} (h : execBlockReset m v s = .next fin) :
    Keeps 0x8000000802464000 s fin := by
  unfold execBlockReset at h
  try dsimp only at h
  repeat' split at h
  all_goals
    cases h
    try dsimp only
    repeat' first
      | (with_reducible rfl)
      | (with_reducible exact Keeps.refl _ _)
      | (with_reducible apply Keeps.ite)
      | (with_reducible assumption)
      | (with_reducible apply State.rstCtrl_step)
      | intro _
      | (exact (rfl : true = true))
      | split

theorem execBrownout_keeps {s fin : State} (h : execBrownout s = .next fin) :
    Keeps 0x8000000004000020 s fin := by
  unfold execBrownout at h
  try dsimp only at h
  repeat' split at h
  all_goals
    cases h
    try dsimp only
    repeat' first
      | (with_reducible rfl)
      | (with_reducible exact Keeps.refl _ _)
      | (with_reducible apply Keeps.ite)
      | (with_reducible assumption)
      | (with_reducible apply State.brownout_step)
      | intro _
      | (exact (rfl : true = true))
      | split

theorem execEndOfCause_keeps (c : Cause) {s fin : State} (h : execEndOfCause c s = .next fin) :
    Keeps 0x20 s fin := by
  unfold execEndOfCause at h
  try dsimp only at h
  repeat' split at h
  all_goals
    cases h
    try dsimp only
    repeat' first
      | (with_reducible rfl)
      | (with_reducible exact Keeps.refl _ _)
      | (with_reducible apply Keeps.ite)
      | (with_reducible assumption)
      | (with_reducible apply State.causeEnds_step)
      | intro _
      | (exact (rfl : true = true))
      | split

theorem execEnterHibernate_keeps (_m : PMaster) {s fin : State} (h : execEnterHibernate _m s = .next fin) :
    Keeps 0x8200000060 s fin := by
  unfold execEnterHibernate at h
  try dsimp only at h
  repeat' split at h
  all_goals
    cases h
    try dsimp only
    repeat' first
      | (with_reducible rfl)
      | (with_reducible exact Keeps.refl _ _)
      | (with_reducible apply Keeps.ite)
      | (with_reducible assumption)
      | (with_reducible apply State.enter_step)
      | intro _
      | (exact (rfl : true = true))
      | split

theorem execEnterWatch_keeps (_m : PMaster) {s fin : State} (h : execEnterWatch _m s = .next fin) :
    Keeps 0x8200000060 s fin := by
  unfold execEnterWatch at h
  try dsimp only at h
  repeat' split at h
  all_goals
    cases h
    try dsimp only
    repeat' first
      | (with_reducible rfl)
      | (with_reducible exact Keeps.refl _ _)
      | (with_reducible apply Keeps.ite)
      | (with_reducible assumption)
      | (with_reducible apply State.enter_step)
      | intro _
      | (exact (rfl : true = true))
      | split

theorem execLowPowerEntryDone_keeps {s fin : State} (h : execLowPowerEntryDone s = .next fin) :
    Keeps 0x1002100026060224 s fin := by
  unfold execLowPowerEntryDone at h
  try dsimp only at h
  repeat' split at h
  all_goals
    cases h
    try dsimp only
    repeat' first
      | (with_reducible rfl)
      | (with_reducible exact Keeps.refl _ _)
      | (with_reducible apply Keeps.ite)
      | (with_reducible assumption)
      | (with_reducible apply State.lowPowerDone_step)
      | intro _
      | (exact (rfl : true = true))
      | split

theorem execPor_keeps {s fin : State} (h : execPor s = .next fin) :
    Keeps 0x8000000000000000 s fin := by
  unfold execPor at h
  try dsimp only at h
  repeat' split at h
  all_goals
    cases h
    try dsimp only
    repeat' first
      | (with_reducible rfl)
      | (with_reducible exact Keeps.refl _ _)
      | (with_reducible apply Keeps.ite)
      | (with_reducible assumption)
      | (with_reducible apply State.takeReset_step)
      | intro _
      | (exact (rfl : true = true))
      | split

theorem execPowerWindow_keeps (mw : BitVec 32) {s fin : State} (h : execPowerWindow mw s = .next fin) :
    Keeps 0x200000000 s fin := by
  unfold execPowerWindow at h
  try dsimp only at h
  repeat' split at h
  all_goals
    cases h
    try dsimp only
    repeat' first
      | (with_reducible rfl)
      | (with_reducible exact Keeps.refl _ _)
      | (with_reducible apply Keeps.ite)
      | (with_reducible assumption)
      | (with_reducible apply State.powerWindow_step)
      | intro _
      | (exact (rfl : true = true))
      | split

theorem execPwrCeilWrite_keeps (_m : PMaster) (v : Word) {s fin : State} (h : execPwrCeilWrite _m v s = .next fin) :
    Keeps 0x2200000000 s fin := by
  unfold execPwrCeilWrite at h
  try dsimp only at h
  repeat' split at h
  all_goals
    cases h
    try dsimp only
    repeat' first
      | (with_reducible rfl)
      | (with_reducible exact Keeps.refl _ _)
      | (with_reducible apply Keeps.ite)
      | (with_reducible assumption)
      | (with_reducible apply State.ceilWrite_step)
      | intro _
      | (exact (rfl : true = true))
      | split

theorem execPwrHfRailWrite_keeps (_m : PMaster) (v : Word) {s fin : State} (h : execPwrHfRailWrite _m v s = .next fin) :
    Keeps 0x200000000 s fin := by
  unfold execPwrHfRailWrite at h
  try dsimp only at h
  repeat' split at h
  all_goals
    cases h
    try dsimp only
    repeat' first
      | (with_reducible rfl)
      | (with_reducible exact Keeps.refl _ _)
      | (with_reducible apply Keeps.ite)
      | (with_reducible assumption)
      | (with_reducible apply State.railWrite_step)
      | intro _
      | (exact (rfl : true = true))
      | split

theorem execResetPin_keeps {s fin : State} (h : execResetPin s = .next fin) :
    Keeps 0x8000000000000000 s fin := by
  unfold execResetPin at h
  try dsimp only at h
  repeat' split at h
  all_goals
    cases h
    try dsimp only
    repeat' first
      | (with_reducible rfl)
      | (with_reducible exact Keeps.refl _ _)
      | (with_reducible apply Keeps.ite)
      | (with_reducible assumption)
      | (with_reducible apply State.warm_step)
      | intro _
      | (exact (rfl : true = true))
      | split

theorem execRtcAlarm_keeps {s fin : State} (h : execRtcAlarm s = .next fin) :
    Keeps 0x8000000000020000 s fin := by
  unfold execRtcAlarm at h
  try dsimp only at h
  repeat' split at h
  all_goals
    cases h
    try dsimp only
    repeat' first
      | (with_reducible rfl)
      | (with_reducible exact Keeps.refl _ _)
      | (with_reducible apply Keeps.ite)
      | (with_reducible assumption)
      | (with_reducible apply State.rtcAlarm_step)
      | intro _
      | (exact (rfl : true = true))
      | split

theorem execSoftware_keeps (m : PMaster) (v : Word) {s fin : State} (h : execSoftware m v s = .next fin) :
    Keeps 0x8000000802464000 s fin := by
  unfold execSoftware at h
  try dsimp only at h
  repeat' split at h
  all_goals
    cases h
    try dsimp only
    repeat' first
      | (with_reducible rfl)
      | (with_reducible exact Keeps.refl _ _)
      | (with_reducible apply Keeps.ite)
      | (with_reducible assumption)
      | (with_reducible apply State.rstCtrl_step)
      | intro _
      | (exact (rfl : true = true))
      | split

theorem execThermal_keeps {s fin : State} (h : execThermal s = .next fin) :
    Keeps 0x8000000000000000 s fin := by
  unfold execThermal at h
  try dsimp only at h
  repeat' split at h
  all_goals
    cases h
    try dsimp only
    repeat' first
      | (with_reducible rfl)
      | (with_reducible exact Keeps.refl _ _)
      | (with_reducible apply Keeps.ite)
      | (with_reducible assumption)
      | (with_reducible apply State.warm_step)
      | intro _
      | (exact (rfl : true = true))
      | split

theorem execWake_keeps {s fin : State} (h : execWake s = .next fin) :
    Keeps 0x8000000000020000 s fin := by
  unfold execWake at h
  try dsimp only at h
  repeat' split at h
  all_goals
    cases h
    try dsimp only
    repeat' first
      | (with_reducible rfl)
      | (with_reducible exact Keeps.refl _ _)
      | (with_reducible apply Keeps.ite)
      | (with_reducible assumption)
      | (with_reducible apply State.wakePin_step)
      | intro _
      | (exact (rfl : true = true))
      | split

theorem execWatchdog_keeps {s fin : State} (h : execWatchdog s = .next fin) :
    Keeps 0x8000000000000000 s fin := by
  unfold execWatchdog at h
  try dsimp only at h
  repeat' split at h
  all_goals
    cases h
    try dsimp only
    repeat' first
      | (with_reducible rfl)
      | (with_reducible exact Keeps.refl _ _)
      | (with_reducible apply Keeps.ite)
      | (with_reducible assumption)
      | (with_reducible apply State.watchdog_step)
      | intro _
      | (exact (rfl : true = true))
      | split

theorem execGen2Req_keeps (n : Fin 64) {s fin : State} (h : execGen2Req n s = .next fin) :
    Keeps 0x10120200E204101C s fin := by
  unfold execGen2Req at h
  try dsimp only at h
  repeat' split at h
  all_goals
    cases h
    try dsimp only
    repeat' first
      | (with_reducible rfl)
      | (with_reducible exact Keeps.refl _ _)
      | (with_reducible apply Keeps.ite)
      | (with_reducible assumption)
      | (with_reducible apply State.takeRequest_step)
      | intro _
      | (exact (rfl : true = true))
      | split

theorem execHfApdu_keeps (n : Fin 64) {s fin : State} (h : execHfApdu n s = .next fin) :
    Keeps 0x10120200E204101C s fin := by
  unfold execHfApdu at h
  try dsimp only at h
  repeat' split at h
  all_goals
    cases h
    try dsimp only
    repeat' first
      | (with_reducible rfl)
      | (with_reducible exact Keeps.refl _ _)
      | (with_reducible apply Keeps.ite)
      | (with_reducible assumption)
      | (with_reducible apply State.takeRequest_step)
      | intro _
      | (exact (rfl : true = true))
      | split

theorem execHfFrame_keeps (n : Fin 64) {s fin : State} (h : execHfFrame n s = .next fin) :
    Keeps 0x10120200E204101C s fin := by
  unfold execHfFrame at h
  try dsimp only at h
  repeat' split at h
  all_goals
    cases h
    try dsimp only
    repeat' first
      | (with_reducible rfl)
      | (with_reducible exact Keeps.refl _ _)
      | (with_reducible apply Keeps.ite)
      | (with_reducible assumption)
      | (with_reducible apply State.takeRequest_step)
      | intro _
      | (exact (rfl : true = true))
      | split

theorem execKrvReq_keeps (n : Fin 64) {s fin : State} (h : execKrvReq n s = .next fin) :
    Keeps 0x10120200E204101C s fin := by
  unfold execKrvReq at h
  try dsimp only at h
  repeat' split at h
  all_goals
    cases h
    try dsimp only
    repeat' first
      | (with_reducible rfl)
      | (with_reducible exact Keeps.refl _ _)
      | (with_reducible apply Keeps.ite)
      | (with_reducible assumption)
      | (with_reducible apply State.takeRequest_step)
      | intro _
      | (exact (rfl : true = true))
      | split

theorem execRequestStart_keeps (port : ℕ) {s fin : State} (h : execRequestStart port s = .next fin) :
    Keeps 0x10020A006204139C s fin := by
  unfold execRequestStart at h
  try dsimp only at h
  repeat' split at h
  all_goals
    cases h
    try dsimp only
    repeat' first
      | (with_reducible rfl)
      | (with_reducible exact Keeps.refl _ _)
      | (with_reducible apply Keeps.ite)
      | (with_reducible assumption)
      | (with_reducible apply State.requestStart_step)
      | intro _
      | (exact (rfl : true = true))
      | split

theorem execRequestWaitExpired_keeps (pitch : ℕ) (port : ℕ) {s fin : State} (h : execRequestWaitExpired pitch port s = .next fin) :
    Keeps 0x100202006204101C s fin := by
  unfold execRequestWaitExpired at h
  try dsimp only at h
  repeat' split at h
  all_goals
    cases h
    try dsimp only
    repeat' first
      | (with_reducible rfl)
      | (with_reducible exact Keeps.refl _ _)
      | (with_reducible apply Keeps.ite)
      | (with_reducible assumption)
      | (with_reducible apply State.requestExpire_step)
      | intro _
      | (exact (rfl : true = true))
      | split

theorem execReservedTypeRequest_keeps (n : Fin 64) {s fin : State} (h : execReservedTypeRequest n s = .next fin) :
    Keeps 0x10120200E204101C s fin := by
  unfold execReservedTypeRequest at h
  try dsimp only at h
  repeat' split at h
  all_goals
    cases h
    try dsimp only
    repeat' first
      | (with_reducible rfl)
      | (with_reducible exact Keeps.refl _ _)
      | (with_reducible apply Keeps.ite)
      | (with_reducible assumption)
      | (with_reducible apply State.takeRequest_step)
      | intro _
      | (exact (rfl : true = true))
      | split

theorem execCalCompare_keeps (k : Kind) (a : List ℤ) (b : List ℤ) (headroom : ℤ) {s fin : State} (h : execCalCompare k a b headroom s = .next fin) :
    Keeps 0x31228320621463DC s fin := by
  unfold execCalCompare at h
  try dsimp only at h
  repeat' split at h
  all_goals
    cases h
    try dsimp only
    repeat' first
      | (with_reducible rfl)
      | (with_reducible exact Keeps.refl _ _)
      | (with_reducible apply Keeps.ite)
      | (with_reducible assumption)
      | (with_reducible apply State.calCompare_step)
      | intro _
      | (exact (rfl : true = true))
      | split

theorem execCheckpoint_keeps (port : ℕ) (live : List Word) {s fin : State} (h : execCheckpoint port live s = .next fin) :
    Keeps 0x2002000000100004 s fin := by
  unfold execCheckpoint at h
  try dsimp only at h
  repeat' split at h
  all_goals
    cases h
    try dsimp only
    repeat' first
      | (with_reducible rfl)
      | (with_reducible exact Keeps.refl _ _)
      | (with_reducible apply Keeps.ite)
      | (with_reducible assumption)
      | (with_reducible apply State.checkpoint_step)
      | intro _
      | (exact (rfl : true = true))
      | split

theorem execCorrectionSlew_keeps (slice : ℕ) {s fin : State} (h : execCorrectionSlew slice s = .next fin) :
    Keeps 0x100000000000200 s fin := by
  unfold execCorrectionSlew at h
  try dsimp only at h
  repeat' split at h
  all_goals
    cases h
    try dsimp only
    repeat' first
      | (with_reducible rfl)
      | (with_reducible exact Keeps.refl _ _)
      | (with_reducible apply Keeps.ite)
      | (with_reducible assumption)
      | (with_reducible apply State.slew_step)
      | intro _
      | (exact (rfl : true = true))
      | split

theorem execLinkFail_keeps (die : Fin 6) {s fin : State} (h : execLinkFail die s = .next fin) :
    Keeps 0xB1228320621463DC s fin := by
  unfold execLinkFail at h
  try dsimp only at h
  repeat' split at h
  all_goals
    cases h
    try dsimp only
    repeat' first
      | (with_reducible rfl)
      | (with_reducible exact Keeps.refl _ _)
      | (with_reducible apply Keeps.ite)
      | (with_reducible assumption)
      | (with_reducible apply State.linkFail_step)
      | intro _
      | (exact (rfl : true = true))
      | split

theorem execRotate_keeps (_m : PMaster) (v : Word) {s fin : State} (h : execRotate _m v s = .next fin) :
    Keeps 0x100000000100000 s fin := by
  unfold execRotate at h
  try dsimp only at h
  repeat' split at h
  all_goals
    cases h
    try dsimp only
    repeat' first
      | (with_reducible rfl)
      | (with_reducible exact Keeps.refl _ _)
      | (with_reducible apply Keeps.ite)
      | (with_reducible assumption)
      | (with_reducible apply State.hltCtrl_step)
      | intro _
      | (exact (rfl : true = true))
      | split

theorem execRotationDue_keeps (k : Kind) {s fin : State} (h : execRotationDue k s = .next fin) :
    Keeps 0x100000000100200 s fin := by
  unfold execRotationDue at h
  try dsimp only at h
  repeat' split at h
  all_goals
    cases h
    try dsimp only
    repeat' first
      | (with_reducible rfl)
      | (with_reducible exact Keeps.refl _ _)
      | (with_reducible apply Keeps.ite)
      | (with_reducible assumption)
      | (with_reducible apply State.rotationDue_step)
      | intro _
      | (exact (rfl : true = true))
      | split

theorem execSliceFailed_keeps (slice : ℕ) (cause : Fin 7) {s fin : State} (h : execSliceFailed slice cause s = .next fin) :
    Keeps 0x31228320621463DC s fin := by
  unfold execSliceFailed at h
  try dsimp only at h
  repeat' split at h
  all_goals
    cases h
    try dsimp only
    repeat' first
      | (with_reducible rfl)
      | (with_reducible exact Keeps.refl _ _)
      | (with_reducible apply Keeps.ite)
      | (with_reducible assumption)
      | (with_reducible apply State.sliceFailed_step)
      | intro _
      | (exact (rfl : true = true))
      | split

theorem execSpareHandover_keeps (k : Kind) {s fin : State} (h : execSpareHandover k s = .next fin) :
    Keeps 0x100000000100000 s fin := by
  unfold execSpareHandover at h
  try dsimp only at h
  repeat' split at h
  all_goals
    cases h
    try dsimp only
    repeat' first
      | (with_reducible rfl)
      | (with_reducible exact Keeps.refl _ _)
      | (with_reducible apply Keeps.ite)
      | (with_reducible assumption)
      | (with_reducible apply State.handover_step)
      | intro _
      | (exact (rfl : true = true))
      | split

theorem execSpareReturn_keeps (k : Kind) {s fin : State} (h : execSpareReturn k s = .next fin) :
    Keeps 0x100000 s fin := by
  unfold execSpareReturn at h
  try dsimp only at h
  repeat' split at h
  all_goals
    cases h
    try dsimp only
    repeat' first
      | (with_reducible rfl)
      | (with_reducible exact Keeps.refl _ _)
      | (with_reducible apply Keeps.ite)
      | (with_reducible assumption)
      | (with_reducible apply State.giveBack_step)
      | intro _
      | (exact (rfl : true = true))
      | split

theorem execSpareTransferDone_keeps (k : Kind) (live : List Word) {s fin : State} (h : execSpareTransferDone k live s = .next fin) :
    Keeps 0x35228B20629467DC s fin := by
  unfold execSpareTransferDone at h
  try dsimp only at h
  repeat' split at h
  all_goals
    cases h
    try dsimp only
    repeat' first
      | (with_reducible rfl)
      | (with_reducible exact Keeps.refl _ _)
      | (with_reducible apply Keeps.ite)
      | (with_reducible assumption)
      | (with_reducible apply State.transferDone_step)
      | intro _
      | (exact (rfl : true = true))
      | split

theorem execChallenge_keeps {s fin : State} (h : execChallenge s = .next fin) :
    Keeps 0x60040000 s fin := by
  unfold execChallenge at h
  try dsimp only at h
  repeat' split at h
  all_goals
    cases h
    try dsimp only
    repeat' first
      | (with_reducible rfl)
      | (with_reducible exact Keeps.refl _ _)
      | (with_reducible apply Keeps.ite)
      | (with_reducible assumption)
      | (with_reducible apply State.spiChallenge_step)
      | intro _
      | (exact (rfl : true = true))
      | split

theorem execLock_keeps {s fin : State} (h : execLock s = .next fin) :
    Keeps 0x8000000000000 s fin := by
  unfold execLock at h
  try dsimp only at h
  repeat' split at h
  all_goals
    cases h
    try dsimp only
    repeat' first
      | (with_reducible rfl)
      | (with_reducible exact Keeps.refl _ _)
      | (with_reducible apply Keeps.ite)
      | (with_reducible assumption)
      | (with_reducible apply State.spiLock_step)
      | intro _
      | (exact (rfl : true = true))
      | split

theorem execSpiRead_keeps (addr : ℕ) (count : ℕ) {s fin : State} (h : execSpiRead addr count s = .next fin) :
    Keeps 0x801246A07004045C s fin := by
  unfold execSpiRead at h
  try dsimp only at h
  repeat' split at h
  all_goals
    cases h
    try dsimp only
    repeat' first
      | (with_reducible rfl)
      | (with_reducible exact Keeps.refl _ _)
      | (with_reducible apply Keeps.ite)
      | (with_reducible assumption)
      | (with_reducible apply State.spiRead_step)
      | intro _
      | (exact (rfl : true = true))
      | split

theorem execSpiStatus_keeps {s fin : State} (h : execSpiStatus s = .next fin) :
    Keeps 0x20040000 s fin := by
  unfold execSpiStatus at h
  try dsimp only at h
  repeat' split at h
  all_goals
    cases h
    try dsimp only
    repeat' first
      | (with_reducible rfl)
      | (with_reducible exact Keeps.refl _ _)
      | (with_reducible apply Keeps.ite)
      | (with_reducible assumption)
      | (with_reducible apply State.spiStatus_step)
      | intro _
      | (exact (rfl : true = true))
      | split

theorem execSpiUnlockBlockExpired_keeps {s fin : State} (h : execSpiUnlockBlockExpired s = .next fin) :
    Keeps 0x8000000040000 s fin := by
  unfold execSpiUnlockBlockExpired at h
  try dsimp only at h
  repeat' split at h
  all_goals
    cases h
    try dsimp only
    repeat' first
      | (with_reducible rfl)
      | (with_reducible exact Keeps.refl _ _)
      | (with_reducible apply Keeps.ite)
      | (with_reducible assumption)
      | (with_reducible apply State.spiUnblock_step)
      | intro _
      | (exact (rfl : true = true))
      | split

theorem execSpiWrite_keeps (addr : ℕ) (words : List Word) (crc : BitVec 32) {s fin : State} (h : execSpiWrite addr words crc s = .next fin) :
    Keeps 0xFFFFFFFEFFFFFFFF s fin := by
  unfold execSpiWrite at h
  try dsimp only at h
  repeat' split at h
  all_goals
    cases h
    try dsimp only
    repeat' first
      | (with_reducible rfl)
      | (with_reducible exact Keeps.refl _ _)
      | (with_reducible apply Keeps.ite)
      | (with_reducible assumption)
      | (with_reducible apply State.spiWrite_step)
      | intro _
      | (exact (rfl : true = true))
      | split

theorem execUnlock_keeps (tag : Word) {s fin : State} (h : execUnlock tag s = .next fin) :
    Keeps 0x8000000040000 s fin := by
  unfold execUnlock at h
  try dsimp only at h
  repeat' split at h
  all_goals
    cases h
    try dsimp only
    repeat' first
      | (with_reducible rfl)
      | (with_reducible exact Keeps.refl _ _)
      | (with_reducible apply Keeps.ite)
      | (with_reducible assumption)
      | (with_reducible apply State.spiUnlock_step)
      | intro _
      | (exact (rfl : true = true))
      | split

theorem execBypass_keeps {s fin : State} (h : execBypass s = .next fin) : Keeps 0x64000000 s fin := by
  cases h
  exact State.tapQuiet_step _ rfl rfl rfl (Keeps.refl _ _)

theorem execClamp_keeps {s fin : State} (h : execClamp s = .next fin) :
    Keeps 0x146A8BA0E7C567FC s fin := by
  unfold execClamp at h
  try dsimp only at h
  repeat' split at h
  all_goals
    cases h
    try dsimp only
    repeat' first
      | (with_reducible rfl)
      | (with_reducible exact Keeps.refl _ _)
      | (with_reducible apply Keeps.ite)
      | (with_reducible assumption)
      | (with_reducible apply State.tapTo_step)
      | intro _
      | (exact (rfl : true = true))
      | split

theorem execExtest_keeps {s fin : State} (h : execExtest s = .next fin) :
    Keeps 0x146A8BA0E7C567FC s fin := by
  unfold execExtest at h
  try dsimp only at h
  repeat' split at h
  all_goals
    cases h
    try dsimp only
    repeat' first
      | (with_reducible rfl)
      | (with_reducible exact Keeps.refl _ _)
      | (with_reducible apply Keeps.ite)
      | (with_reducible assumption)
      | (with_reducible apply State.tapTo_step)
      | intro _
      | (exact (rfl : true = true))
      | split

theorem execExtestPulse_keeps {s fin : State} (h : execExtestPulse s = .next fin) :
    Keeps 0x146A8BA0E7C567FC s fin := by
  unfold execExtestPulse at h
  try dsimp only at h
  repeat' split at h
  all_goals
    cases h
    try dsimp only
    repeat' first
      | (with_reducible rfl)
      | (with_reducible exact Keeps.refl _ _)
      | (with_reducible apply Keeps.ite)
      | (with_reducible assumption)
      | (with_reducible apply State.tapTo_step)
      | intro _
      | (exact (rfl : true = true))
      | split

theorem execExtestTrain_keeps {s fin : State} (h : execExtestTrain s = .next fin) :
    Keeps 0x146A8BA0E7C567FC s fin := by
  unfold execExtestTrain at h
  try dsimp only at h
  repeat' split at h
  all_goals
    cases h
    try dsimp only
    repeat' first
      | (with_reducible rfl)
      | (with_reducible exact Keeps.refl _ _)
      | (with_reducible apply Keeps.ite)
      | (with_reducible assumption)
      | (with_reducible apply State.tapTo_step)
      | intro _
      | (exact (rfl : true = true))
      | split

theorem execHighz_keeps {s fin : State} (h : execHighz s = .next fin) :
    Keeps 0x146A8BA0E7C567FC s fin := by
  unfold execHighz at h
  try dsimp only at h
  repeat' split at h
  all_goals
    cases h
    try dsimp only
    repeat' first
      | (with_reducible rfl)
      | (with_reducible exact Keeps.refl _ _)
      | (with_reducible apply Keeps.ite)
      | (with_reducible assumption)
      | (with_reducible apply State.tapTo_step)
      | intro _
      | (exact (rfl : true = true))
      | split

theorem execIdcode_keeps {s fin : State} (h : execIdcode s = .next fin) : Keeps 0x64000000 s fin := by
  cases h
  exact State.tapQuiet_step _ rfl rfl rfl (Keeps.refl _ _)

theorem execSamplePreload_keeps {s fin : State} (h : execSamplePreload s = .next fin) : Keeps 0x64000000 s fin := by
  cases h
  exact State.tapQuiet_step _ rfl rfl rfl (Keeps.refl _ _)

theorem execTapReset_keeps {s fin : State} (h : execTapReset s = .next fin) :
    Keeps 0x4000000 s fin := by
  unfold execTapReset at h
  try dsimp only at h
  repeat' split at h
  all_goals
    cases h
    try dsimp only
    repeat' first
      | (with_reducible rfl)
      | (with_reducible exact Keeps.refl _ _)
      | (with_reducible apply Keeps.ite)
      | (with_reducible assumption)
      | (with_reducible apply State.tapReset_step)
      | intro _
      | (exact (rfl : true = true))
      | split

theorem execTracePortOut_keeps {s fin : State} (h : execTracePortOut s = .next fin) :
    Keeps 0x22000000 s fin := by
  unfold execTracePortOut at h
  try dsimp only at h
  repeat' split at h
  all_goals
    cases h
    try dsimp only
    repeat' first
      | (with_reducible rfl)
      | (with_reducible exact Keeps.refl _ _)
      | (with_reducible apply Keeps.ite)
      | (with_reducible assumption)
      | (with_reducible apply State.traceOut_step)
      | intro _
      | (exact (rfl : true = true))
      | split

theorem execChannelChangeDone_keeps (port : ℕ) (obs : SliceObs) {s fin : State} (h : execChannelChangeDone port obs s = .next fin) :
    Keeps 0x10020A00620403DC s fin := by
  unfold execChannelChangeDone at h
  try dsimp only at h
  repeat' split at h
  all_goals
    cases h
    try dsimp only
    repeat' first
      | (with_reducible rfl)
      | (with_reducible exact Keeps.refl _ _)
      | (with_reducible apply Keeps.ite)
      | (with_reducible assumption)
      | (with_reducible apply State.hopDone_step)
      | intro _
      | (exact (rfl : true = true))
      | split

theorem execPaFault_keeps (port : ℕ) (low : Bool) {s fin : State} (h : execPaFault port low s = .next fin) :
    Keeps 0x10228B20620463DC s fin := by
  unfold execPaFault at h
  try dsimp only at h
  repeat' split at h
  all_goals
    cases h
    try dsimp only
    repeat' first
      | (with_reducible rfl)
      | (with_reducible exact Keeps.refl _ _)
      | (with_reducible apply Keeps.ite)
      | (with_reducible assumption)
      | (with_reducible apply State.paFaultPin_step)
      | intro _
      | (exact (rfl : true = true))
      | split

theorem execPaFaultClear_keeps (_m : PMaster) (port : ℕ) {s fin : State} (h : execPaFaultClear _m port s = .next fin) :
    Keeps 0x80000000000 s fin := by
  unfold execPaFaultClear at h
  try dsimp only at h
  repeat' split at h
  all_goals
    cases h
    try dsimp only
    repeat' first
      | (with_reducible rfl)
      | (with_reducible exact Keeps.refl _ _)
      | (with_reducible apply Keeps.ite)
      | (with_reducible assumption)
      | (with_reducible apply State.paFaultClear_step)
      | intro _
      | (exact (rfl : true = true))
      | split

theorem execPaSequenceStep_keeps (port : ℕ) {s fin : State} (h : execPaSequenceStep port s = .next fin) :
    Keeps 0x40000100 s fin := by
  unfold execPaSequenceStep at h
  try dsimp only at h
  repeat' split at h
  all_goals
    cases h
    try dsimp only
    repeat' first
      | (with_reducible rfl)
      | (with_reducible exact Keeps.refl _ _)
      | (with_reducible apply Keeps.ite)
      | (with_reducible assumption)
      | (with_reducible apply State.paSequence_step)
      | intro _
      | (exact (rfl : true = true))
      | split

theorem execSynthLockTimeout_keeps (port : ℕ) {s fin : State} (h : execSynthLockTimeout port s = .next fin) :
    Keeps 0x31228320621463DC s fin := by
  unfold execSynthLockTimeout at h
  try dsimp only at h
  repeat' split at h
  all_goals
    cases h
    try dsimp only
    repeat' first
      | (with_reducible rfl)
      | (with_reducible exact Keeps.refl _ _)
      | (with_reducible apply Keeps.ite)
      | (with_reducible assumption)
      | (with_reducible apply State.lockTimeout_step)
      | intro _
      | (exact (rfl : true = true))
      | split

theorem execTxTimeout_keeps (port : ℕ) {s fin : State} (h : execTxTimeout port s = .next fin) :
    Keeps 0x14228B20628467DC s fin := by
  unfold execTxTimeout at h
  try dsimp only at h
  repeat' split at h
  all_goals
    cases h
    try dsimp only
    repeat' first
      | (with_reducible rfl)
      | (with_reducible exact Keeps.refl _ _)
      | (with_reducible apply Keeps.ite)
      | (with_reducible assumption)
      | (with_reducible apply State.txTimeout_step)
      | intro _
      | (exact (rfl : true = true))
      | split

theorem execUhaPaCfgWrite_keeps (_m : PMaster) (port : ℕ) (v : Word) {s fin : State} (h : execUhaPaCfgWrite _m port v s = .next fin) :
    Keeps 0x80000000100 s fin := by
  unfold execUhaPaCfgWrite at h
  try dsimp only at h
  repeat' split at h
  all_goals
    cases h
    try dsimp only
    repeat' first
      | (with_reducible rfl)
      | (with_reducible exact Keeps.refl _ _)
      | (with_reducible apply Keeps.ite)
      | (with_reducible assumption)
      | (with_reducible apply State.paCfgWrite_step)
      | intro _
      | (exact (rfl : true = true))
      | split

theorem execUhfGammaSample_keeps (port : Nat) (obs : SliceObs) {s fin : State} (h : execUhfGammaSample port obs s = .next fin) :
    Keeps 0x11228B20620467DC s fin := by
  unfold execUhfGammaSample at h
  try dsimp only at h
  repeat' split at h
  all_goals
    cases h
    try dsimp only
    repeat' first
      | (with_reducible rfl)
      | (with_reducible exact Keeps.refl _ _)
      | (with_reducible apply Keeps.ite)
      | (with_reducible assumption)
      | (with_reducible apply State.gammaSample_step)
      | intro _
      | (exact (rfl : true = true))
      | split

theorem execUhfStateTransitionDone_keeps (slice : ℕ) (obs : SliceObs) {s fin : State} (h : execUhfStateTransitionDone slice obs s = .next fin) :
    Keeps 0x14228B20628467DC s fin := by
  unfold execUhfStateTransitionDone at h
  try dsimp only at h
  repeat' split at h
  all_goals
    cases h
    try dsimp only
    repeat' first
      | (with_reducible rfl)
      | (with_reducible exact Keeps.refl _ _)
      | (with_reducible apply Keeps.ite)
      | (with_reducible assumption)
      | (with_reducible apply State.uhfDone_step)
      | intro _
      | (exact (rfl : true = true))
      | split

theorem execWideSymbolWindowEnd_keeps (port : Nat) (bins : List (List Sample)) {s fin : State} (h : execWideSymbolWindowEnd port bins s = .next fin) :
    Keeps 0x80 s fin := by
  unfold execWideSymbolWindowEnd at h
  try dsimp only at h
  repeat' split at h
  all_goals
    cases h
    try dsimp only
    repeat' first
      | (with_reducible rfl)
      | (with_reducible exact Keeps.refl _ _)
      | (with_reducible apply Keeps.ite)
      | (with_reducible assumption)
      | (with_reducible apply State.wideSymbol_step)
      | intro _
      | (exact (rfl : true = true))
      | split

theorem execWideSyncEnd_keeps (port : Nat) (obs : WideObs) {s fin : State} (h : execWideSyncEnd port obs s = .next fin) :
    Keeps 0x890040000380 s fin := by
  unfold execWideSyncEnd at h
  try dsimp only at h
  repeat' split at h
  all_goals
    cases h
    try dsimp only
    repeat' first
      | (with_reducible rfl)
      | (with_reducible exact Keeps.refl _ _)
      | (with_reducible apply Keeps.ite)
      | (with_reducible assumption)
      | (with_reducible apply State.wideSync_step)
      | intro _
      | (exact (rfl : true = true))
      | split

theorem execWrdCodewordDone_keeps (dec : Fin 2) {s fin : State} (h : execWrdCodewordDone dec s = .next fin) :
    Keeps 0x800000004080 s fin := by
  unfold execWrdCodewordDone at h
  try dsimp only at h
  repeat' split at h
  all_goals
    cases h
    try dsimp only
    repeat' first
      | (with_reducible rfl)
      | (with_reducible exact Keeps.refl _ _)
      | (with_reducible apply Keeps.ite)
      | (with_reducible assumption)
      | (with_reducible apply State.codewordDone_step)
      | intro _
      | (exact (rfl : true = true))
      | split

theorem execWrdCodewordStart_keeps (dec : Fin 2) {s fin : State} (h : execWrdCodewordStart dec s = .next fin) :
    Keeps 0x800000004000 s fin := by
  unfold execWrdCodewordStart at h
  try dsimp only at h
  repeat' split at h
  all_goals
    cases h
    try dsimp only
    repeat' first
      | (with_reducible rfl)
      | (with_reducible exact Keeps.refl _ _)
      | (with_reducible apply Keeps.ite)
      | (with_reducible assumption)
      | (with_reducible apply State.codewordStart_step)
      | intro _
      | (exact (rfl : true = true))
      | split

end Sys2Proof.Machine
end

