-- ==== Sys2Proof/Laws/KeepsReg.lean ====
section
/-! SUPPORT. Fields of registers that a frame leaves as they were. -/

namespace Sys2Proof.Machine

theorem Keeps.fld {w : Nat} {s t : State} (h : Keeps w s t) {off : Nat} {f : Fld}
    (hr : w.testBit 63 = false ∨ t.boot.seq = none) (hw : w.testBit (32 + regWindow off) = false) :
    t.fld off f = s.fld off f := by
  unfold State.fld; rw [h.regs hr off hw]

theorem Keeps.bit {w : Nat} {s t : State} (h : Keeps w s t) {off : Nat} {f : Fld}
    (hr : w.testBit 63 = false ∨ t.boot.seq = none) (hw : w.testBit (32 + regWindow off) = false) :
    t.bit off f = s.bit off f := by
  unfold State.bit; rw [h.fld hr hw]

theorem Keeps.byte_of_areas {w : Nat} {s t : State} (h : Keeps w s t) (hr : w.testBit 63 = false ∨ t.boot.seq = none)
    (h1 : w.testBit 1 = false) {a : Nat} (ha : areaOf a = .mem) : t.byte a = s.byte a := h.mem hr h1 a ha

end Sys2Proof.Machine
end

