-- ==== Sys2Proof/Laws/Look.lean ====
section
/-! SUPPORT. Reading back what was written: ports, slices, FIFOs and registers, and what a frame leaves of each. -/

namespace Sys2Proof.Machine

theorem State.setPort_port_self (s : State) (p : Nat) (x : Port) : (s.setPort p x).port p = x :=
  SMap.look_put_self _ _ _ _

theorem State.setPort_port_ne (s : State) (x : Port) {p q : Nat} (h : q ≠ p) : (s.setPort p x).port q = s.port q := by
  unfold State.setPort State.port
  simp only [State.setPorts_ports]
  rw [SMap.look_put_ne _ _ _ _ _ h]

theorem State.modPort_port_self (s : State) (p : Nat) (f : Port → Port) : (s.modPort p f).port p = f (s.port p) :=
  State.setPort_port_self _ _ _

theorem State.modPort_port_ne (s : State) (f : Port → Port) {p q : Nat} (h : q ≠ p) : (s.modPort p f).port q = s.port q :=
  State.setPort_port_ne _ _ h

/-- A property of every port that an update keeps. -/
theorem State.modPort_port (s : State) (p q : Nat) (f : Port → Port) :
    (s.modPort p f).port q = if q = p then f (s.port q) else s.port q := by
  split
  · subst_vars; exact State.modPort_port_self _ _ _
  · exact State.modPort_port_ne _ _ ‹_›

theorem State.setSlice_slice_self (s : State) (n : Nat) (x : Slice) : (s.setSlice n x).slice n = x :=
  SMap.look_put_self _ _ _ _

theorem State.setSlice_slice_ne (s : State) (x : Slice) {n m : Nat} (h : m ≠ n) : (s.setSlice n x).slice m = s.slice m := by
  unfold State.setSlice State.slice
  simp only [State.setSlices_slices]
  rw [SMap.look_put_ne _ _ _ _ _ h]

theorem State.modSlice_slice_self (s : State) (n : Nat) (f : Slice → Slice) : (s.modSlice n f).slice n = f (s.slice n) :=
  State.setSlice_slice_self _ _ _

theorem State.modSlice_slice_ne (s : State) (f : Slice → Slice) {n m : Nat} (h : m ≠ n) :
    (s.modSlice n f).slice m = s.slice m := State.setSlice_slice_ne _ _ h

theorem State.modSlice_slice (s : State) (n m : Nat) (f : Slice → Slice) :
    (s.modSlice n f).slice m = if m = n then f (s.slice m) else s.slice m := by
  split
  · subst_vars; exact State.modSlice_slice_self _ _ _
  · exact State.modSlice_slice_ne _ _ ‹_›

theorem State.setFifo_fifo_self (s : State) (n : Nat) (x : Fifo) : (s.setFifo n x).fifo n = x :=
  SMap.look_put_self _ _ _ _

theorem State.setFifo_fifo_ne (s : State) (x : Fifo) {n m : Nat} (h : m ≠ n) : (s.setFifo n x).fifo m = s.fifo m := by
  unfold State.setFifo State.fifo
  simp only [State.setFifos_fifos]
  rw [SMap.look_put_ne _ _ _ _ _ h]

theorem State.fld_setBit_apart (s : State) (off : Nat) (f g : Fld) (b : Bool) (h : f.ok = true) (hg : Fld.apart f g = true) :
    (s.setBit off f b).fld off g = s.fld off g := by
  unfold State.setBit; rw [State.noteRaised_fld, State.fld_setFld_apart _ _ _ _ _ h hg]

theorem State.bit_of_reg {s t : State} {o : Nat} (h : t.reg o = s.reg o) (f : Fld) : t.bit o f = s.bit o f := by
  unfold State.bit State.fld; rw [h]

theorem State.fld_of_reg {s t : State} {o : Nat} (h : t.reg o = s.reg o) (f : Fld) : t.fld o f = s.fld o f := by
  unfold State.fld; rw [h]

theorem State.fld_bump_self (s : State) (off : Nat) (f : Fld) (h : f.ok = true) :
    (s.bump off f).fld off f = (s.fld off f + 1) % 2 ^ (f.1 + 1 - f.2) := State.fld_setFld_self _ _ _ _ h

theorem State.bit_setFld_ne (s : State) (f g : Fld) (v : Nat) {off o : Nat} (h : o ≠ off) :
    (s.setFld off f v).bit o g = s.bit o g := by
  unfold State.bit; rw [State.fld_setFld_ne _ _ _ _ h]

/-! ### What a frame leaves -/

section
variable {w : Nat} {s t : State}

theorem Keeps.port_eq (h : Keeps w s t) (p : Nat) (h1 : w.testBit 63 = false := by rfl) (h2 : w.testBit 8 = false := by rfl) :
    t.port p = s.port p := by unfold State.port; rw [h.ports (.inl h1) h2]

theorem Keeps.server_eq (h : Keeps w s t) (p : Nat) (h1 : w.testBit 63 = false := by rfl) (h2 : w.testBit 8 = false := by rfl) :
    t.server p = s.server p := by unfold State.server; rw [h.port_eq p h1 h2]

theorem Keeps.slice_eq (h : Keeps w s t) (n : Nat) (h1 : w.testBit 63 = false := by rfl) (h2 : w.testBit 9 = false := by rfl) :
    t.slice n = s.slice n := by unfold State.slice; rw [h.slices (.inl h1) h2]

theorem Keeps.fifo_eq (h : Keeps w s t) (n : Nat) (h1 : w.testBit 63 = false := by rfl) (h2 : w.testBit 4 = false := by rfl) :
    t.fifo n = s.fifo n := by unfold State.fifo; rw [h.fifos (.inl h1) h2]

theorem Keeps.runs_eq (h : Keeps w s t) (h1 : w.testBit 63 = false := by rfl) (h2 : w.testBit 7 = false := by rfl) :
    t.runs = s.runs := h.runs (.inl h1) h2

theorem Keeps.runAt_eq (h : Keeps w s t) (p : Nat) (h1 : w.testBit 63 = false := by rfl) (h2 : w.testBit 7 = false := by rfl) :
    t.runAt p = s.runAt p := by unfold State.runAt; rw [h.runs (.inl h1) h2]

theorem Keeps.now_eq (h : Keeps w s t) (h1 : w.testBit 63 = false := by rfl) (h2 : w.testBit 0 = false := by rfl) :
    t.now = s.now := by unfold State.now; rw [h.clock (.inl h1) h2]

theorem Keeps.up_eq (h : Keeps w s t) (h1 : w.testBit 63 = false := by rfl) (h2 : w.testBit 5 = false := by rfl) :
    t.up = s.up := by unfold State.up; rw [h.boot (.inl h1) h2]

theorem Keeps.reg_eq (h : Keeps w s t) {off b : Nat} (hb : regWindow off = b) (h1 : w.testBit 63 = false := by rfl)
    (h2 : w.testBit (32 + b) = false := by rfl) : t.reg off = s.reg off := h.regs (.inl h1) off (by rw [hb]; exact h2)

theorem Keeps.fld_eq (h : Keeps w s t) {off b : Nat} (hb : regWindow off = b) (f : Fld) (h1 : w.testBit 63 = false := by rfl)
    (h2 : w.testBit (32 + b) = false := by rfl) : t.fld off f = s.fld off f := State.fld_of_reg (h.reg_eq hb h1 h2) f

theorem Keeps.bit_eq (h : Keeps w s t) {off b : Nat} (hb : regWindow off = b) (f : Fld) (h1 : w.testBit 63 = false := by rfl)
    (h2 : w.testBit (32 + b) = false := by rfl) : t.bit off f = s.bit off f := State.bit_of_reg (h.reg_eq hb h1 h2) f

end

/-! ### Slices on their way -/

/-- A slice sent on its way: what it shows, whatever the states passed at once. -/
theorem State.sendFrom_slice_ne (s : State) (n ramp from_ : Nat) (alt : Bool) (l : List SliceState) {m : Nat} (h : m ≠ n) :
    (s.sendFrom n ramp from_ alt l).slice m = s.slice m := by
  induction l generalizing s with
  | nil => exact State.modSlice_slice_ne _ _ h
  | cons st l ih =>
    unfold State.sendFrom
    dsimp only
    split
    · rw [ih, State.modSlice_slice_ne _ _ h]
    · exact State.modSlice_slice_ne _ _ h

theorem State.sendFrom_failed (s : State) (n ramp from_ : Nat) (alt : Bool) (l : List SliceState) (m : Nat) :
    ((s.sendFrom n ramp from_ alt l).slice m).failed = (s.slice m).failed := by
  induction l generalizing s with
  | nil => unfold State.sendFrom; rw [State.modSlice_slice]; split <;> rfl
  | cons st l ih =>
    unfold State.sendFrom
    dsimp only
    split
    · rw [ih, State.modSlice_slice]; split <;> rfl
    · rw [State.modSlice_slice]; split <;> rfl

/-- A transition of some length starts. -/
theorem State.sendFrom_start (s : State) (n ramp from_ : Nat) (alt : Bool) (st : SliceState) (l : List SliceState)
    (h : delayOf (s.slice n).st st ramp (s.derate n) alt ≠ 0) :
    (s.sendFrom n ramp from_ alt (st :: l)).slice n =
      { s.slice n with path := st :: l, due := from_ + delayOf (s.slice n).st st ramp (s.derate n) alt } := by
  unfold State.sendFrom
  dsimp only
  rw [if_neg h, State.modSlice_slice_self]

theorem State.modSlice_derate (s : State) (n m : Nat) (f : Slice → Slice) : (s.modSlice n f).derate m = s.derate m := rfl

/-- The last transition of a path completes. -/
theorem State.arrive_last (s : State) (n ramp : Nat) (alt : Bool) (st : SliceState) (h : (s.slice n).path = [st]) :
    (s.arrive n ramp alt).slice n = (s.slice n).take (isHf n) st ramp s.now := by
  unfold State.arrive
  rw [h]
  unfold State.sendFrom
  simp only [State.modSlice_slice_self]
  rfl

/-- A transition completes, and the next one starts. -/
theorem State.arrive_next (s : State) (n ramp : Nat) (alt : Bool) (st st2 : SliceState) (l : List SliceState)
    (h : (s.slice n).path = st :: st2 :: l) (hd : delayOf st st2 ramp (s.derate n) alt ≠ 0) :
    (s.arrive n ramp alt).slice n =
      { (s.slice n).take (isHf n) st ramp s.now with path := st2 :: l, due := s.now + delayOf st st2 ramp (s.derate n) alt } := by
  unfold State.arrive
  rw [h]
  dsimp only
  have e : (s.modSlice n fun x => x.take (isHf n) st ramp s.now).slice n = (s.slice n).take (isHf n) st ramp s.now :=
    State.modSlice_slice_self _ _ _
  rw [State.sendFrom_start, e]
  · rfl
  · rw [e]; exact hd

end Sys2Proof.Machine
end

