-- ==== Sys2Proof/Laws/Runs.lean ====
section
/-! SUPPORT. What replacing the run of a stake does to the stakes (Machine/Runs.lean), and that every path through the
procedures of SNG leaves the exchange of a stake as it found it. -/

namespace Sys2Proof.Machine

set_option linter.unreachableTactic false
set_option linter.unusedTactic false

/-- u holds the runs of s, but for a run of stake k with property P in the place of k's. -/
def Put (k : Stake) (P : Run → Prop) (s u : State) : Prop :=
  ∃ r, r.stake = k ∧ P r ∧ u.runs = s.runs.map fun x => if x.stake.idx = k.idx then r else x

theorem Put.of {k : Stake} {P : Run → Prop} {s u : State} (r : Run) (h : u.runs = s.runs) (hk : r.stake = k) (hp : P r) :
    Put k P s (u.putRun r) := by
  refine ⟨r, hk, hp, ?_⟩
  subst hk; unfold State.putRun; simp [h]

/-- One more replacement. -/
theorem Put.put {k : Stake} {P : Run → Prop} {s u : State} (r : Run) {Q : Run → Prop} (h : Put k Q s u) (hk : r.stake = k)
    (hp : P r) : Put k P s (u.putRun r) := by
  obtain ⟨x, hx, -, h⟩ := h
  refine ⟨r, hk, hp, ?_⟩
  unfold State.putRun
  simp only [State.setRuns_runs, h, List.map_map, hk]
  apply List.map_congr_left
  intro y _
  simp only [Function.comp]
  by_cases h1 : y.stake.idx = k.idx <;> simp_all

theorem Put.weaken {k : Stake} {P Q : Run → Prop} {s u : State} (h : Put k P s u) (hq : ∀ r, P r → Q r) : Put k Q s u :=
  let ⟨r, a, b, c⟩ := h
  ⟨r, a, hq r b, c⟩

theorem Put.ite {k : Stake} {P : Run → Prop} {s a b : State} {c : Prop} [Decidable c] (ha : Put k P s a) (hb : Put k P s b) :
    Put k P s (if c then a else b) := by split <;> assumption

/-- The runs stand as the last replacement left them. -/
theorem Put.keep {k : Stake} {P : Run → Prop} {s u v : State} (h : Put k P s u) (e : v.runs = u.runs) : Put k P s v := by
  obtain ⟨r, a, b, c⟩ := h
  exact ⟨r, a, b, e.trans c⟩

theorem Put.from {k : Stake} {P : Run → Prop} {s t u : State} (e : t.runs = s.runs) (h : Put k P t u) : Put k P s u := by
  obtain ⟨r, a, b, c⟩ := h
  exact ⟨r, a, b, by rw [c, e]⟩

theorem Put.after {k : Stake} {P Q : Run → Prop} {s t u : State} (h : Put k P s t) (g : Put k Q t u) : Put k Q s u := by
  obtain ⟨r, a, b, c⟩ := h
  obtain ⟨r', a', b', c'⟩ := g
  refine ⟨r', a', b', ?_⟩
  rw [c', c, List.map_map]
  apply List.map_congr_left
  intro y _
  simp only [Function.comp]
  by_cases h1 : y.stake.idx = k.idx <;> simp_all

theorem Put.active {k : Stake} {P : Run → Prop} {s u : State} (h : Put k P s u) : u.active = s.active := by
  obtain ⟨r, a, -, c⟩ := h
  unfold State.active
  rw [c, List.map_map]
  apply List.map_congr_left
  intro y _
  simp only [Function.comp]
  split <;> simp_all

/-- The stake on a port is the same one, with the new run. -/
theorem Put.runAt {k : Stake} {P : Run → Prop} {s u : State} (h : Put k P s u) {p : Nat} {r : Run} (hr : s.runAt p = some r)
    (hk : r.stake = k) : ∃ r', u.runAt p = some r' ∧ r'.stake = r.stake ∧ P r' := by
  obtain ⟨r', a, b, c⟩ := h
  subst hk
  refine ⟨r', ?_, a, b⟩
  unfold State.runAt at hr ⊢
  rw [c]
  generalize s.runs = l at hr
  induction l with
  | nil => cases hr
  | cons x l ih =>
    simp only [List.map_cons]
    by_cases hx : p ∈ x.stake.ports
    · simp only [List.find?_cons, hx, decide_true, Option.some.injEq] at hr
      subst hr
      simp [a, hx]
    · simp only [List.find?_cons, hx, decide_false] at hr
      have hp : p ∈ r.stake.ports := by simpa using List.find?_some hr
      by_cases hi : x.stake.idx = r.stake.idx
      · simp [hi, a, hp]
      · simp only [hi, if_false, List.find?_cons, hx, decide_false]
        exact ih hr

theorem State.runs_of {s t : State} (h : Keeps 0x3FFFFFFFFFFFFF7F s t) : t.runs = s.runs := h.runs (.inl rfl) rfl

theorem State.modRun_put {k : Stake} {P : Run → Prop} {s : State} {p : Nat} {f : Run → Run} {r : Run}
    (hr : s.runAt p = some r) (hk : r.stake = k) (hf : (f r).stake = r.stake) (hp : P (f r)) : Put k P s (s.modRun p f) := by
  unfold State.modRun
  rw [hr]
  exact Put.of _ rfl (hf.trans hk) hp

/-- The exchange of a stake stands, and its count and phase. -/
def Same (x : Option Exch) (n : Nat × Phase) (r : Run) : Prop := r.exch = x ∧ (r.exchCount, r.phase) = n

section
variable {s : State} {k : Stake} {r : Run} {x : Option Exch} {n : Nat × Phase}

/-- The runs of a state that differs in other parts, and the run put into it. -/
theorem Put.set {u : State} {r' : Run} (hk : Keeps 0x3FFFFFFFFFFFFF7F s u) (h : r'.stake = k) (hx : Same x n r') :
    Put k (Same x n) s (u.putRun r') := Put.of r' (State.runs_of hk) h hx

theorem Put.over {u v : State} (hk : Keeps 0x3FFFFFFFFFFFFF7F s u) (h : Put k (Same x n) u v) :
    Put k (Same x n) s v := h.from (State.runs_of hk)

theorem State.completeWalk_put (e : r.stake = k) (h : Same x n r) : Put k (Same x n) s (s.completeWalk r) := by
  unfold State.completeWalk
  refine Put.set ?_ e h
  refine Keeps.ite (State.flipPol_step _ rfl rfl ?_) ?_ <;>
    exact Keeps.ite (State.tagReport_step _ _ rfl rfl (Keeps.refl _ _)) (Keeps.refl _ _)

theorem State.reportEnd_put (st : Status) (again : Bool) (e : r.stake = k) (h : Same x n r) :
    Put k (Same x n) s (s.reportEnd r st again) :=
  Put.set (State.tagReport_step _ _ rfl rfl (Keeps.refl _ _)) e h

theorem State.topEntry_put (e : r.stake = k) (h : Same x n r) : Put k (Same x n) s (s.topEntry r) := by
  unfold State.topEntry
  dsimp only
  split
  · exact Put.set (Keeps.refl _ _) e h
  · exact Put.set (Keeps.refl _ _) e h
  · exact State.completeWalk_put e h

theorem State.fallback_put (e : r.stake = k) (h : Same x n r) : Put k (Same x n) s (s.fallback r) :=
  Put.set (Keeps.bump regWindow_sngFallbackCnt rfl rfl (Keeps.refl _ _)) e h

theorem State.nextSlot_put (col : Bool) (e : r.stake = k) (h : Same x n r) : Put k (Same x n) s (s.nextSlot r col) := by
  unfold State.nextSlot
  dsimp only
  repeat' apply Put.ite
  · exact Put.set (Keeps.refl _ _) e h
  · exact State.completeWalk_put e h
  · exact Put.set (Keeps.refl _ _) e h

theorem State.isoRound_put (col : Bool) (e : r.stake = k) (h : Same x n r) : Put k (Same x n) s (s.isoRound r col) := by
  unfold State.isoRound
  dsimp only
  repeat' with_reducible apply Put.ite
  all_goals first
    | with_reducible exact State.completeWalk_put e h
    | with_reducible exact State.reportEnd_put _ _ e h
    | ((with_reducible refine Put.set (Keeps.refl _ _) ?_ ?_) <;> first | exact e | exact h)

theorem State.isoDescend_put (e : r.stake = k) (h : Same x n r) : Put k (Same x n) s (s.isoDescend r) := by
  unfold State.isoDescend
  repeat' split
  all_goals first
    | exact State.completeWalk_put e h
    | exact State.completeWalk_put e h
    | exact Put.set (Keeps.refl _ _) e h

theorem State.isoSlot_put (b : Bool) (e : r.stake = k) (h : Same x n r) : Put k (Same x n) s (s.isoSlot r b) := by
  unfold State.isoSlot
  exact Put.ite (Put.set (Keeps.refl _ _) e h) (State.isoDescend_put e h)

/-- The stake stands on its first port. -/
def At (s : State) (k : Stake) : Prop := ∃ r, s.runAt k.port = some r ∧ r.stake = k

theorem At.from {u : State} {k : Stake} (h : At s k) (e : Keeps 0x3FFFFFFFFFFFFF7F s u) : At u k := by
  obtain ⟨r, a, b⟩ := h
  exact ⟨r, by unfold State.runAt at a ⊢; rw [State.runs_of e]; exact a, b⟩

theorem Put.modRun {k : Stake} {u : State} {f : Run → Run} (a : At s k) (h : Put k (Same x n) s u)
    (hf : ∀ r, (f r).stake = r.stake ∧ (f r).exch = r.exch ∧ (f r).exchCount = r.exchCount ∧ (f r).phase = r.phase) :
    Put k (Same x n) s (u.modRun k.port f) := by
  obtain ⟨r0, a, b⟩ := a
  obtain ⟨r', c, d, e⟩ := h.runAt a b
  have k1 : r'.stake = k := d.trans b
  exact h.after (State.modRun_put c k1 (hf r').1 ⟨(hf r').2.1.trans e.1, by rw [(hf r').2.2.1, (hf r').2.2.2]; exact e.2⟩)

theorem State.gen2Slot_put (empty col : Bool) (a : At s k) (e : r.stake = k) (h : Same x n r) :
    Put k (Same x n) s (s.gen2Slot r empty col) := by
  unfold State.gen2Slot
  dsimp only
  subst e
  repeat' with_reducible apply Put.ite
  · refine Put.modRun a ?_ ?_
    · exact State.completeWalk_put rfl h
    · intro; exact ⟨rfl, rfl, rfl, rfl⟩
  all_goals exact Put.set (Keeps.refl _ _) rfl h

theorem State.walkOn_put (b : Bool) (a : At s k) (e : r.stake = k) (h : Same x n r) :
    Put k (Same x n) s (s.walkOn r b) := by
  unfold State.walkOn
  repeat' with_reducible apply Put.ite
  · split
    · exact Put.set (Keeps.refl _ _) e h
    · repeat' with_reducible apply Put.ite
      · exact State.nextSlot_put _ e h
      · exact State.topEntry_put e h
      · exact State.topEntry_put e h
  · exact Put.set (Keeps.refl _ _) e h
  · exact State.isoRound_put _ e h
  · exact State.isoSlot_put _ e h
  · exact State.isoDescend_put e h
  · exact State.gen2Slot_put _ _ a e h

theorem State.finishTag_put (b : Action) (a : At s k) (e : r.stake = k) (h : Same x n r) :
    Put k (Same x n) s (s.finishTag r b) := by
  unfold State.finishTag
  dsimp only
  have g : Keeps 0x3FFFFFFFFFFFFF7F s (if b.pairSel ∧ !b.selected then s else s.actionReport { r with action := none } b) :=
    Keeps.ite (Keeps.refl _ _) (State.actionReport_step _ _ rfl rfl (Keeps.refl _ _))
  refine Put.over g ?_
  exact Put.ite (Put.set (Keeps.refl _ _) e h) (State.walkOn_put _ (a.from g) e h)

theorem State.identify_put (o : ReplyObs) (uid : Word) (a : At s k) (e : r.stake = k) (h : Same x n r) :
    Put k (Same x n) s (s.identify r o uid) := by
  unfold State.identify
  dsimp only
  have g : Keeps 0x3FFFFFFFFFFFFF7F s (s.countRead r.pitch r.port (keyOf r.inner o) r.rssi).1 :=
    State.countRead_step _ _ _ _ rfl rfl (Keeps.refl _ _)
  exact Put.ite (Put.over g (State.finishTag_put _ (a.from g) e h)) (Put.set g e h)

theorem State.krovrelEnd_put (c : Cmd) (cls : XClass) (o : ReplyObs) (a : At s k) (e : r.stake = k) (h : Same x n r) :
    Put k (Same x n) s (s.krovrelEnd r c cls o) := by
  unfold State.krovrelEnd
  dsimp only
  repeat' split
  all_goals first
    | exact State.nextSlot_put _ e h
    | exact State.identify_put _ _ a e h
    | exact State.completeWalk_put e h
    | exact State.topEntry_put e h
    | exact State.topEntry_put e h
    | exact State.fallback_put e h
    | exact Put.set (Keeps.refl _ _) e h

theorem State.retryA_put (c : Cmd) (e : r.stake = k) (h : Same x n r) : Put k (Same x n) s (s.retryA r c) := by
  unfold State.retryA
  exact Put.ite (State.reportEnd_put _ _ e h) (Put.set (Keeps.refl _ _) e h)

theorem State.typeAEnd_put (c : Cmd) (cls : XClass) (o : ReplyObs) (a : At s k) (e : r.stake = k) (h : Same x n r) :
    Put k (Same x n) s (s.typeAEnd r c cls o) := by
  unfold State.typeAEnd
  dsimp only
  repeat' split
  all_goals first
    | exact State.completeWalk_put e h
    | exact State.retryA_put _ e h
    | exact Put.set (Keeps.refl _ _) e h
    | exact State.identify_put _ _ a e h
    | exact Put.set (Keeps.refl _ _) e h

theorem State.isoEnd_put (cls : XClass) (o : ReplyObs) (a : At s k) (e : r.stake = k) (h : Same x n r) :
    Put k (Same x n) s (s.isoEnd r cls o) := by
  unfold State.isoEnd
  repeat' with_reducible apply Put.ite
  · exact State.isoRound_put _ e h
  · exact State.identify_put _ _ a e h
  · exact State.isoRound_put _ e h

theorem State.vEnd_put (c : Cmd) (cls : XClass) (o : ReplyObs) (a : At s k) (e : r.stake = k) (h : Same x n r) :
    Put k (Same x n) s (s.vEnd r c cls o) := by
  unfold State.vEnd
  dsimp only
  repeat' with_reducible apply Put.ite
  · exact State.identify_put _ _ a e h
  · exact State.isoDescend_put e h
  · exact State.isoSlot_put _ e h
  · split
    · exact State.completeWalk_put e h
    · repeat' with_reducible apply Put.ite
      · exact Put.set (Keeps.refl _ _) e h
      · exact (State.isoSlot_put _ e h).over (State.tagReport_step _ _ rfl rfl (Keeps.refl _ _))
      · exact State.isoSlot_put _ e h

theorem State.gen2End_put (c : Cmd) (cls : XClass) (o : ReplyObs) (a : At s k) (e : r.stake = k) (h : Same x n r) :
    Put k (Same x n) s (s.gen2End r c cls o) := by
  unfold State.gen2End
  repeat' split
  all_goals first
    | exact State.identify_put _ _ a e h
    | exact State.gen2Slot_put _ _ a e h
    | exact Put.set (Keeps.refl _ _) e h

theorem State.walkEnd_put (c : Cmd) (cls : XClass) (o : ReplyObs) (a : At s k) (e : r.stake = k) (h : Same x n r) :
    Put k (Same x n) s (s.walkEnd r c cls o) := by
  unfold State.walkEnd
  repeat' with_reducible apply Put.ite
  · exact State.krovrelEnd_put _ _ _ a e h
  · exact State.typeAEnd_put _ _ _ a e h
  · exact State.isoEnd_put _ _ a e h
  · exact State.vEnd_put _ _ _ a e h
  · exact State.gen2End_put _ _ _ a e h

theorem State.finishRequest_put (q : Request) (b : Action) (e : r.stake = k) (h : Same x n r) :
    Put k (Same x n) s (s.finishRequest r q b) := by
  unfold State.finishRequest
  exact Put.set (State.requestDone_step _ _ _ _ _ _ _ _ _ _ _ rfl rfl (Keeps.refl _ _)) e h

theorem State.requestStep_put (q : Request) (b : Action) (y : Exch) (cs : XClass × Status) (o : ReplyObs) (e : r.stake = k) (h : Same x n r) :
    Put k (Same x n) s (s.requestStep r q b y cs o) := by
  unfold State.requestStep
  dsimp only
  have g (st : Status) : Keeps 0x3FFFFFFFFFFFFF7F s
      ((s.budgetNote r.budgetKey.1 r.budgetKey.2 (actStep r b y cs.1 cs.2 o false).budget).traceExch r (some y.cmd) cs.1 st) :=
    State.traceExch_step _ _ _ _ rfl rfl (State.budgetNote_step _ _ _ rfl rfl (Keeps.refl _ _))
  repeat' with_reducible apply Put.ite
  · exact Put.over (g _) (by exact State.finishRequest_put _ _ e h)
  · exact Put.set (g _) e h

theorem State.pairRead_keeps (b : Action) (y : Exch) {u : State} (h : Keeps 0x3FFFFFFFFFFFFF7F u s) :
    Keeps 0x3FFFFFFFFFFFFF7F u (s.pairRead r b y).1 := by
  unfold State.pairRead
  split
  · split
    · exact State.countRead_step _ _ _ _ rfl rfl h
    · exact h
  · exact h

theorem State.tagStep_put (b : Action) (y : Exch) (cs : XClass × Status) (o : ReplyObs) (a : At s k) (e : r.stake = k) (h : Same x n r) :
    Put k (Same x n) s (s.tagStep r b y cs o) := by
  unfold State.tagStep
  dsimp only
  have g (c : Action) (st : Status) : Keeps 0x3FFFFFFFFFFFFF7F s
      ((((s.budgetNote r.budgetKey.1 r.budgetKey.2 (actStep r b y cs.1 cs.2 o true).budget).traceExch r (some y.cmd) cs.1 st).pairRead r c y).1) :=
    State.pairRead_keeps _ _ (State.traceExch_step _ _ _ _ rfl rfl (State.budgetNote_step _ _ _ rfl rfl (Keeps.refl _ _)))
  repeat' with_reducible apply Put.ite
  · exact Put.over (g _ _) (by exact State.finishTag_put _ (a.from (g _ _)) e h)
  · exact Put.set (g _ _) e h

theorem State.runAfter_stake (s : State) (r : Run) (y : Exch) (o : ReplyObs) : (s.runAfter r y o).stake = r.stake := by
  unfold State.runAfter; dsimp only; split <;> rfl

theorem State.runAfter_same (s : State) (r : Run) (y : Exch) (o : ReplyObs) :
    Same none (r.exchCount + 1, r.phase) (s.runAfter r y o) := by
  unfold State.runAfter; dsimp only; split <;> exact ⟨rfl, rfl⟩

theorem State.closeExch_put (y : Exch) (cs : XClass × Status) (o : ReplyObs) (a : At s r.stake) :
    Put r.stake (Same none (r.exchCount + 1, r.phase)) s (s.closeExch r y cs o) := by
  unfold State.closeExch
  dsimp only
  have g : Keeps 0x3FFFFFFFFFFFFF7F s (((if y.cmd.krovrel ∧ cs.1 = .skewed then s.bump R.frmKrvSkewCnt F.frmKrvSkewCnt.count else s).freeDecoder
      (s.runAfter r y o)).driveSetting (s.runAfter r y o)) :=
    State.driveSetting_step _ rfl rfl (State.freeDecoder_step _ rfl rfl
      (Keeps.ite (Keeps.bump regWindow_frmKrvSkewCnt rfl rfl (Keeps.refl _ _)) (Keeps.refl _ _)))
  split
  · split
    · refine Put.over g ?_
      exact State.requestStep_put _ _ _ _ _ (s.runAfter_stake r y o) (s.runAfter_same r y o)
    · refine Put.over g ?_
      exact State.tagStep_put _ _ _ _ (a.from g) (s.runAfter_stake r y o) (s.runAfter_same r y o)
  · have g2 := State.traceExch_step (s.runAfter r y o) (some y.cmd) cs.1 cs.2 rfl rfl g
    refine Put.over g2 ?_
    exact State.walkEnd_put _ _ _ (a.from g2) (s.runAfter_stake r y o) (s.runAfter_same r y o)

theorem State.endWork_put (st : Status) (cut : Bool) (e : r.stake = k) (h : Same x n r) : Put k (Same x n) s (s.endWork r st cut) := by
  unfold State.endWork
  dsimp only
  split
  · split
    · exact State.finishRequest_put _ _ e h
    · refine Put.set ?_ e h
      repeat' with_reducible apply Keeps.ite
      · exact State.actionReport_step _ _ rfl rfl (Keeps.refl _ _)
      · exact State.tagReport_step _ _ rfl rfl (Keeps.refl _ _)
      · exact Keeps.refl _ _
  · refine Put.set ?_ e h
    exact Keeps.ite (State.tagReport_step _ _ rfl rfl (Keeps.refl _ _)) (Keeps.refl _ _)

/-- A cut leaves the stake and its phase, ends the exchange and counts it. -/
theorem State.runCut_kept (x : Exch) (st : Status) : (s.runCut r x st).stake = r.stake ∧ (s.runCut r x st).exch = none ∧
    (s.runCut r x st).exchCount = r.exchCount + 1 ∧ (s.runCut r x st).phase = r.phase := by
  unfold State.runCut
  dsimp only
  split <;> exact ⟨rfl, rfl, rfl, rfl⟩

theorem State.cutExch_put (st : Status) : Put r.stake (fun r' => r'.exch = none ∧ r'.phase = r.phase) s (s.cutExch r st) := by
  unfold State.cutExch
  dsimp only
  split
  · rename_i h
    exact (State.endWork_put st false rfl (x := none) (n := (r.exchCount, r.phase)) ⟨h, rfl⟩).weaken fun _ a => ⟨a.1, congrArg Prod.snd a.2⟩
  · rename_i x _
    obtain ⟨h1, h2, h3, h4⟩ := State.runCut_kept (s := s) (r := r) x st
    refine Put.weaken (Put.over (x := none) (n := (r.exchCount + 1, r.phase)) ?_
      (State.endWork_put st true h1 ⟨h2, Prod.ext h3 h4⟩)) fun _ a => ⟨a.1, congrArg Prod.snd a.2⟩
    refine State.driveSetting_step _ rfl rfl (State.freeDecoder_step _ rfl rfl
      (Keeps.ite (State.budgetNote_step _ _ _ rfl rfl ?_) ?_)) <;>
      exact State.traceExch_step _ _ _ _ rfl rfl (Keeps.bumpSat regWindow_schOverrunCnt rfl rfl (Keeps.refl _ _))

end
end Sys2Proof.Machine
end

