-- ==== Sys2Proof/Tests/Slice0.lean ====
section
/-! SUPPORT. An ill-formed command for each check of WellFormed; for every statement with hypotheses, states and operands
that meet them, each clause at the ends of its range; the example of R248; and a few commands at the edge of a rule. -/

namespace Sys2Proof.Tests

open Sys2Proof Sys2Proof.Machine

-- One theorem at a time: the check of a theorem takes a thread of its own otherwise.
set_option Elab.async false

/-! ### Small states -/

/-- READY, at site time 0, with nothing configured. -/
def ready : State := State.reset.setBoot { State.reset.boot with seq := none }

/-- A state at a tick. -/
def atTick (s : State) (n : Nat) : State := s.setClock { s.clock with site := n, aon := n }

/-- A stake of one port: pitch 0, no flags, 1,000 ticks. -/
def stakeOf (idx template port : Nat) : Stake :=
  { idx := idx, w0 := 1000, w1 := BitVec.ofNat 64 (template * 2 ^ 56 + port * 2 ^ 40), w2 := 0, w3 := 0 }

/-- A stake that runs since tick 0, with its tail at tick 900. -/
def runOf' (k : Stake) (inner : Nat) (ph : Phase) : Run :=
  { stake := k, inner := inner, start := 0, stop := 1000, tailAt := 900, block := [], cfg := [], keys := [], phase := ph,
    inert := none, onHold := false, readyAt := 0, exch := none, exchCount := 0, setBase := 0, lastStatus := .ok,
    walk := Walk.dflt, action := none, request := none, absorbed := 0, workAt := none, missing := [], detuned := false, sjcLow := false,
    lastSeen := none, lastBit := 0, nb := false, flagged := (0, false, 0) }

/-- A running exchange from tick 0 to tick 100. -/
def exchOf (c : Cmd) : Exch :=
  { start := 0, limit := 100, cmd := c, seen := none, verdict := none, zero := 0, fed := [], adapted := [], wide := Wide.dflt }

/-- An amplitude with no neighbour beside it. -/
def amp (n : Int) : Sample := { x := (n, 0), drive := [] }

def obs0 : StartObs :=
  { comps := [{ offset := 2048, amps := [amp 2000], bins := [] }], noise := 1, phases := [0], rssi := 40, gain := 0, peak := 100, metricA := 0, metricB := 0,
    fullScale := false }

/-- A reply on time. -/
def seen0 : Latched :=
  { offset := 2048, offTime := false, clear := true, noise := 1, phases := [0], rssi := 40, gain := 0, startGain := 0, aerial := false,
    metricA := 0, metricB := 0 }

def bins0 : WideObs := { before := [], after := [], train := [], sync := [] }

/-- A reply of which nothing has come. -/
def reply0 : ReplyObs :=
  { halves := [], fault := false, len := .exact, flags := 0, flagUid := none, ident := 0, identLen := 0, identRest := [],
    status := 0, data := [], mac := 0, code := 0, bits := 0, endedAt := 0 }

def goodHead : HeadObs := { mag := 500, phase := 0 }
def lostHead : HeadObs := { mag := 20000, phase := 0 }

def sliceObs (h : HeadObs) : SliceObs :=
  { head := h, power := 0, sjcConverged := true, rejDb := 60, sjcW := 0 }

/-- A slice in a state, on its way through others from tick 0. -/
def sliceIn (st : SliceState) (path : List SliceState) : Slice := { Slice.dflt with st := st, path := path }

/-- A plan of one stake in bank 0, loaded; it runs. -/
def planned (k : Stake) : State :=
  (((ready.setWords 0x01C00000 [1, 1000, 0, 0, k.w0, k.w1, k.w2, k.w3]).setBit R.schStatus F.schStatus.loaded true).setBit
    R.schStatus F.schStatus.running true).setFld R.schCycleTicks F.schCycleTicks.ticks 1000

/-! ### An ill-formed command for each check of WellFormed -/

theorem test_wf_refuses : [Instr.stakeStart 8192, .triggerRunStart 32, .exchangeStart 32, .replyStartDetected 80 obs0,
    .checkVerdict 63 [] 0, .exchangeTimeout 81 { arriving := true, reply := reply0 }, .budgetEntryExpired 9 0, .stakeTailStart 33, .stakeEnd 63,
    .hfStateTransitionDone 33 (sliceObs goodHead), .uhfStateTransitionDone 81 (sliceObs goodHead),
    .loadMonitorSample 64 goodHead, .uhfGammaSample 31 (sliceObs goodHead), .headRetryExpired 32, .cancelAdapt 32 (0, 0) [],
    .cancelReload 0 33, .wideSyncEnd 64 bins0, .wideSymbolWindowEnd 64 [], .synthLockTimeout 0,
    .channelChangeDone 80 (sliceObs goodHead), .txTimeout 63, .paSequenceStep 80, .paFault 80 true, .paFaultClear 0 81,
    .uhaPaCfgWrite 0 63 0, .coexLeadStart 8192, .coexWaitExpired 32, .presenceSweep 262144, .scrubVisit 4194304 0,
    .wheelTurnStart 0 20, .requestStart 80, .requestWaitExpired 9 0, .requestWaitExpired 0 32, .checkpoint 32 [],
    .sliceFailed 81 0, .correctionSlew 33].all (fun c => !c.wf) = true := by decide +kernel

theorem test_wf_refuses_exchangeEnd (o : ReplyObs) : (Instr.exchangeEnd 32 o).wf = false := rfl

theorem test_ill_formed_faults : exec (.stakeStart 8192) ready = .fault .noSuchResource := rfl

theorem test_wf_accepts : [Instr.stakeStart 8191, .triggerRunStart 31, .exchangeStart 64, .stakeTailStart 80, .stakeEnd 32,
    .hfStateTransitionDone 32 (sliceObs goodHead), .uhfStateTransitionDone 80 (sliceObs goodHead), .txTimeout 79,
    .presenceSweep 262143, .scrubVisit 4194303 0, .wheelTurnStart 0 19, .requestWaitExpired 8 79].all Instr.wf = true := by
  decide +kernel

/-! ### The example of R248: nine ASCII bytes under the presets -/

/-- "123456789" as a host run feeds it: each byte in the order that refin says. -/
def nine (refin : Bool) : List Bool :=
  ([0x31, 0x32, 0x33, 0x34, 0x35, 0x36, 0x37, 0x38, 0x39] : List Byte).flatMap (byteBits refin)

theorem test_crcA : crcOf presetCrcA (nine presetCrcA.refin) = 0xBF05 := by decide +kernel
theorem test_crcB : crcOf presetCrcB (nine presetCrcB.refin) = 0x906E := by decide +kernel
theorem test_felica : crcOf presetFelica (nine presetFelica.refin) = 0x31C3 := by decide +kernel
theorem test_gen2 : crcOf presetGen2 (nine presetGen2.refin) = 0xD64E := by decide +kernel
theorem test_crc32c : crc32c [0x31, 0x32, 0x33, 0x34, 0x35, 0x36, 0x37, 0x38, 0x39] = 0xE3069283 := by decide +kernel

/-! ### The queue and the tick -/

theorem test_StepRunsFront : (ready.setPending [.cxGntRise]).pending = [.cxGntRise] := by decide +kernel

theorem test_QueueInOrder : (ready.setPending [.cxGntRise, .wake]).pending = .cxGntRise :: [.wake] ∧
    (match step (ready.setPending [.cxGntRise, .wake]) with | .next t => decide (t.pending = [.wake]) | _ => false) = true := by
  decide +kernel

theorem test_TickPasses : ready.pending = [] ∧
    (match step ready with | .next t => decide (t.clock.site = 1) | _ => false) = true := by decide +kernel

theorem test_CompletesOrFaults : (Instr.stakeEnd 32).wf = true ∧ (Instr.stakeEnd 33).wf = false := by decide +kernel

theorem test_CanonicalKept : State.reset.canonical = true ∧
    (match step State.reset with | .next _ => true | _ => false) = true := by decide +kernel

/-- Stake 0 of a plan starts: one active stake, and the next index after it. -/
theorem test_StakesInOrder : let s := (planned (stakeOf 0 0x3F 0)).setPending [.stakeStart 0]
    (s.active.Pairwise (· < ·) ∧ ∀ i ∈ s.active, i < s.sch.next) ∧
      (match step s with | .next t => decide (t.active = [0]) && decide (t.sch.next = 1) | _ => false) = true := by decide +kernel

/-- A POR leaves a sequence, so the guarded form is witnessed by a command that may reset and does not. -/
theorem test_FrameOfEveryCommand : mayReset (.scrubVisit 0 0) = true ∧
    (match exec (.scrubVisit 0 0) ready with | .next t => decide (t.boot.seq = none) | _ => false) = true := by decide +kernel

theorem test_BanksOutOfReach : (Part.mem ∉ touches .cxGntRise) ∧ (Part.mem ∈ touches (.load 0)) ∧
    (match exec .cxGntRise ready with | .next t => decide (t.boot.seq = none) | _ => false) = true := by decide +kernel

/-! ### SCH -/

theorem test_SwapAndCancel_idle : ready.up = true ∧ ready.bit R.schStatus F.schStatus.checking = false ∧
    ready.bit R.schStatus F.schStatus.swapPending = false := by decide +kernel

def swapping : State := (ready.setBit R.schStatus F.schStatus.swapPending true).setSch { Sch.dflt with swapAt := some 5 }

theorem test_SwapAndCancel_pending : swapping.up = true ∧ swapping.bit R.schStatus F.schStatus.swapPending = true ∧
    ¬ (swapping.running = true ∧ swapping.cycleEnd ≤ swapping.now ∧ swapping.swapDue = true) := by decide +kernel

/-- The tick of the boundary that takes the pending plan, at the boundary of the third clause. -/
def taking : State := atTick (swapping.setBit R.schStatus F.schStatus.running true) 5

theorem test_SwapAndCancel_taken : taking.up = true ∧ taking.running = true ∧ taking.cycleEnd ≤ taking.now ∧
    taking.swapDue = true := by decide +kernel

theorem test_PlanRuns_boundary : let s := (atTick (planned (stakeOf 0 0x01 0)) 1000).setSch { Sch.dflt with next := 1 }
    s.up = true ∧ s.running = true ∧ s.runs = [] ∧ s.sch.next = s.planCount s.activeBank ∧ s.cycleEnd ≤ s.now ∧
      s.cycleEnd < 2 ^ 64 ∧ s.boot.entering = none ∧ s.bit R.schCtrl F.schCtrl.run = false ∧
      (s.setBit R.schCtrl F.schCtrl.run true).bit R.schCtrl F.schCtrl.run = true ∧
      (s.setBoot { s.boot with entering := some .hibernate }).boot.entering ≠ none := by decide +kernel

theorem test_PlanRuns_start : let s := (((atTick ready 4000).setSch { Sch.dflt with startAt := some 4000 }).setBit R.schCtrl
      F.schCtrl.run true).setBit R.schStatus F.schStatus.loaded true
    s.up = true ∧ s.running = false ∧ s.runs = [] ∧ s.sch.startAt = some 4000 ∧ 4000 ≤ s.now ∧ s.bit R.schCtrl F.schCtrl.run = true ∧
      s.boot.entering = none ∧ s.boot.scanHeld = false ∧ s.bit R.schStatus F.schStatus.loaded = true := by decide +kernel

theorem test_StakesRun_start : let s := planned (stakeOf 0 0x01 0)
    s.up = true ∧ s.running = true ∧ s.sch.next = 0 ∧ 0 < s.planCount s.activeBank ∧
      s.fld R.schCycleStart F.schCycleStart.start + (s.planStake 0).start ≤ s.now ∧
      (∀ p ∈ (s.planStake 0).ports, s.runAt p = none) ∧ (∀ a ∈ s.stakeAddrs (s.planStake 0), s.isUe a = false) := by
  decide +kernel

theorem test_StakesRun_ue : let s := (planned (stakeOf 0 0x01 0)).setEcc [(0x01C00020 / 8, 3)]
    s.up = true ∧ s.running = true ∧ s.sch.next = 0 ∧ 0 < s.planCount s.activeBank ∧
      s.fld R.schCycleStart F.schCycleStart.start + (s.planStake 0).start ≤ s.now ∧
      (∀ p ∈ (s.planStake 0).ports, s.runAt p = none) ∧ (∃ a ∈ s.stakeAddrs (s.planStake 0), s.isUe a = true) := by
  decide +kernel

/-- A state in which one stake runs. -/
def running1 (r : Run) (t : Nat) : State := (atTick ready t).setRuns [r]

theorem test_StakesRun_tail : let r := runOf' (stakeOf 0 0x01 0) 0x01 .active
    isSlice 0 = true ∧ (running1 r 900).runAt 0 = some r ∧ (running1 r 900).runAt r.port = some r ∧ r.phase = .active ∧
      r.tailAt ≤ (running1 r 900).now := by decide +kernel

theorem test_StakesRun_end : let r := runOf' (stakeOf 0 0x01 0) 0x01 .tail
    isSlice 0 = true ∧ (running1 r 1000).runAt 0 = some r ∧ r.stop ≤ (running1 r 1000).now := by decide +kernel

theorem test_TriggeredRunStarts : let r := { runOf' (stakeOf 0 0x30 3) 0x01 .dispatched with readyAt := 16, block := [2] }
    let s := (running1 r 16).setSch { Sch.dflt with latches := [{ trig := 2, port := 3, latched := true, count := 4 }] }
    isPort 3 = true ∧ s.runAt 3 = some r ∧ r.template = 0x30 ∧ r.phase = .dispatched ∧ r.inert = none ∧ r.readyAt ≤ s.now ∧
      s.inhibited = false ∧ s.latchOf (blkTrig r.block) r.port = some 4 := by decide +kernel

theorem test_ExchangeStarts : let r := { runOf' (stakeOf 0 0x01 0) 0x01 .active with
      walk := { Walk.dflt with next := some .kNextSlot }, block := [0, 100, 1000] }
    let s := (running1 r 800).setSlices [(0, sliceIn .field [])]
    isPort 0 = true ∧ s.runAt 0 = some r ∧ r.inner ≠ 0x0B ∧ r.nextCmd = some .kNextSlot ∧ s.maySend r = true ∧
      s.now + r.exchTicks .kNextSlot ≤ r.tailAt ∧ r.frameTooLong .kNextSlot = false ∧ Cmd.kNextSlot.keyed = false ∧
      s.dwellOver r (r.exchTicks .kNextSlot) = false := by decide +kernel

/-- An action on a tag that has a SLEEP still to send. -/
theorem test_ExchangeStarts_action : let c : Cmd := .kSleep false
    let r := { runOf' (stakeOf 0 0x01 0) 0x01 .active with action := some (Action.fresh 5 8 [c] false), block := [0, 100, 1000] }
    let s := (running1 r 800).setSlices [(0, sliceIn .field [])]
    s.runAt 0 = some r ∧ r.nextCmd = some c ∧ s.maySend r = true ∧ s.now + r.exchTicks c ≤ r.tailAt ∧
      r.frameTooLong c = false ∧ s.dwellOver r (r.exchTicks c) = false ∧
      s.budgetSpent r.attempts r.budgetKey.1 r.budgetKey.2 = false := by decide +kernel

def krvExch : Run := { runOf' (stakeOf 0 0x01 0) 0x01 .active with exch := some (exchOf .kNextSlot) }

/-- The first and the last tick of the search window: 2,016 and 2,080 fc; a component outside it is not seen. -/
theorem test_ReplyStartLatched : isPort 0 = true ∧ (running1 krvExch 100).runAt 0 = some krvExch ∧
    krvExch.exch = some (exchOf .kNextSlot) ∧ (exchOf .kNextSlot).seen = none ∧ (exchOf .kNextSlot).cmd.isPing = false ∧
    (exchOf .kNextSlot).start ≤ (running1 krvExch 100).now ∧ (running1 krvExch 100).now ≤ (exchOf .kNextSlot).limit ∧
    isHfPort krvExch.port = true ∧ (exchOf .kNextSlot).cmd.isWide = false ∧
    [2016, 2048, 2080].all (fun n => (strongest (krvExch.compEnergy false [0]) (krvExch.seenStart .kNextSlot
      { obs0 with comps := [{ offset := n, amps := [amp 2000], bins := [] }] })).isSome) = true ∧
    [2015, 2081].all (fun n => (strongest (krvExch.compEnergy false [0]) (krvExch.seenStart .kNextSlot
      { obs0 with comps := [{ offset := n, amps := [amp 2000], bins := [] }] })).isNone) = true := by decide +kernel

theorem test_CheckVerdicts : let x := { exchOf .kNextSlot with seen := some seen0 }
    let r := { krvExch with exch := some x, stake := { stakeOf 0 0x01 0 with w2 := 0x10 } }
    isPort 0 = true ∧ (running1 r 50).runAt 0 = some r ∧ r.exch = some x ∧ x.seen.isSome = true ∧ x.verdict = none ∧
      r.preset x.cmd = some presetKrovrel ∧ r.unit false = 4 := by decide +kernel

theorem test_CheckVerdicts_narrow (a : BitVec 16) (n : Nat) : (exchOf .kNextSlot).cmd ≠ .kReadWide a n := nofun

theorem test_ExchangeEnds : isPort 0 = true ∧ (running1 krvExch 100).runAt 0 = some krvExch ∧
    (running1 krvExch 100).runAt krvExch.port = some krvExch ∧ krvExch.exch = some (exchOf .kNextSlot) ∧
    (exchOf .kNextSlot).cmd.isPing = false ∧ krvExch.allowanceOver (running1 krvExch 100).now = false ∧
    (running1 krvExch 100).now ≤ (exchOf .kNextSlot).limit ∧ (exchOf .kNextSlot).limit ≤ (running1 krvExch 100).now := by decide +kernel

/-- A stake that claims decoder 1 or 2, which decodes for it. -/
theorem test_ExchangeEnds_decoder : [1, 2].all (fun d =>
      decide ({ stakeOf 0 0x08 0 with w2 := BitVec.ofNat 64 (d * 2 ^ 48) }.decoder = d)) = true ∧
    (SMap.find (ready.setDecoders [(1, { port := some 0, cw := 0 })]).decoders 1).isSome = true := by decide +kernel

/-- The wait of a Krovrel command is over 2,080 fc after time zero: at tick 6,136 of the exchange, 6,135.7 rounded up. -/
theorem test_ExchangeEnds_wait : let x := { exchOf .kNextSlot with limit := 6136 }
    let r := { krvExch with exch := some x, tailAt := 9000, stop := 10000 }
    (running1 r 6136).runAt 0 = some r ∧ x.seen = none ∧ (running1 r 6136).waitOver r x = true ∧
      (running1 r 6135).waitOver r x = false ∧ (running1 r 6136).now ≤ x.limit ∧ r.allowanceOver 6136 = false ∧
      Cmd.unanswered .aHlta = true := by decide +kernel

/-! ### Slices, heads and the radio of a stake -/

theorem test_SlicesArrive_rest : let s := ready.setSlices [(0, sliceIn .off [.quiet])]
    isHfSlice 0 = true ∧ (s.slice 0).path = .quiet :: [] ∧ (s.slice 0).due ≤ s.now ∧ s.cxpMode ≠ 2 ∧ s.runOf 0 = none := by
  decide +kernel

theorem test_SlicesArrive_uhf : let r := runOf' (stakeOf 0 0x10 64) 0x10 .front
    let s := (running1 r 0).setSlices [(64, sliceIn .synth [.uRampUp, .carrier])]
    isUhfSlice 64 = true ∧ s.uhfHeld 64 = false ∧ (s.slice 64).path = .uRampUp :: [.carrier] ∧ (s.slice 64).due ≤ s.now ∧
      s.cxpMode ≠ 2 ∧ s.runOf 64 = some r ∧ s.portOf 64 = some 64 ∧
      delayOf .uRampUp .carrier r.rampTicks (s.derate 64) r.alt ≠ 0 := by decide +kernel

theorem test_SlicesArrive_field : let r := runOf' (stakeOf 0 0x01 0) 0x01 .front
    let s := (running1 r 0).setSlices [(0, sliceIn .rampUp [.field])]
    (s.slice 0).path = .field :: [] ∧ (s.slice 0).due ≤ s.now ∧ s.runOf 0 = some r ∧ s.portOf 0 = some 0 ∧
      (s.slice 0).st ≠ .field ∧ r.template ≠ 0x21 ∧ r.phase = .front ∧ r.stake.ports = [0] ∧ r.missing = [] ∧
      headGone (headClass 0 (sliceObs goodHead).head) = false := by decide +kernel

def sampled (bad : Nat) : State := ((running1 (runOf' (stakeOf 0 0x01 0) 0x01 .active) 10).setSlices
    [(0, sliceIn .field [])]).setPorts [(0, { Port.dflt with badSamples := bad })]

theorem test_HeadSamples_good : (sampled 3).up = true ∧ (sampled 3).runAt 0 = some (runOf' (stakeOf 0 0x01 0) 0x01 .active) ∧
    isHfPort 0 = true ∧ ((sampled 3).slice ((sampled 3).server 0)).st.hot = true ∧
    headGone (headClass 0 goodHead) = false := by decide +kernel

/-- The third bad sample only counts, the fourth loses the head. -/
theorem test_HeadSamples_bad : headGone (headClass 0 lostHead) = true ∧ ((sampled 2).port 0).badSamples < 3 ∧
    3 ≤ ((sampled 3).port 0).badSamples ∧ ((sampled 3).port 0).retryUntil = none ∧
    (runOf' (stakeOf 0 0x01 0) 0x01 .active).template ≠ 0x21 := by decide +kernel

theorem test_HeadSamples_uhf : let r := runOf' (stakeOf 0 0x10 64) 0x10 .active
    let s := (running1 r 10).setSlices [(64, sliceIn .carrier [])]
    s.up = true ∧ s.runAt 64 = some r ∧ isUhfPort 64 = true ∧
      (s.slice (s.server 64)).st = .carrier := by decide +kernel

theorem test_HeadSamples_gamma : headGone (headClass 64 { mag := 200, phase := 0 }) = false ∧
    headGone (headClass 64 { mag := 0, phase := 0 }) = true := by decide +kernel

theorem test_HeadSamples_retry : let s := (atTick ready 7).setPorts [(0, { Port.dflt with retryUntil := some 7 })]
    isPort 0 = true ∧ (s.port 0).retryUntil = some 7 ∧ 7 ≤ s.now ∧ (atTick s 6).now < 7 := by decide +kernel

/-- A slice in FIELD at 1.5 W and phase 0. -/
def driving : Slice :=
  { sliceIn .field [] with
    power := 5953500, vec := { from_ := (0, 0), goal := (63 * 2 ^ 24, 0), at_ := 0 }
    ramp := { from_ := 0, goal := 1023, at_ := 0, ticks := 0 } }

/-- The quiet interval of a NEXT_SLOT runs from 256 fc after its command to 64 fc before the earliest reply, 2,044 fc: its
first tick is 756 and its last 5,840. A neighbour of port 1 drives, and one does not. -/
theorem test_CancelCoefficients : let k := stakeOf 0 0x01 1
    let r := { runOf' k 0x01 .active with exch := some (exchOf .kNextSlot), cfg := [(R.hfaCancelCfg 1,
      Word.put (Word.put 0 F.hfaCancelCfg.adapt 1) F.hfaCancelCfg.enable 1)] }
    let e := exchOf .kNextSlot
    let s := (running1 r 756).setSlices [(0, driving)]
    isHfPort 1 = true ∧ s.runAt 1 = some r ∧ r.exch = some e ∧ r.quietStep e s.now = some 0 ∧ SMap.look 0 e.adapted 1 ≤ 0 ∧
      r.missing = [] ∧ r.bit (R.hfaCancelCfg 1) F.hfaCancelCfg.adapt = true ∧
      r.bit (R.hfaCancelCfg 1) F.hfaCancelCfg.enable = true ∧ r.quietStep e 755 = none ∧ (r.quietStep e 5840).isSome = true ∧
      r.quietStep e 5841 = none ∧
      (List.range 4).any (fun j => decide (s.driveOf 1 [] j ≠ (0, 0))) = true ∧
      (List.range 4).any (fun j => decide (s.driveOf 1 [] j = (0, 0))) = true ∧
      neighbourAt 0 0 = none ∧ neighbourAt 1 1 = some 0 ∧ s.drives 0 = true ∧ s.drives 2 = false := by decide +kernel

theorem test_CancelCoefficients_exact : (2 ^ 26 : Int) % 2 ^ (22 + 4) = 0 ∧ (-2048 : Int) ≤ 2046 + 2 ^ 26 / 2 ^ (22 + 4) ∧
    (2046 : Int) + 2 ^ 26 / 2 ^ (22 + 4) ≤ 2047 ∧ isHfSlice 32 = true ∧ isHfSlice 31 = true := by decide +kernel

def uhfRun (st : SliceState) (path : List SliceState) (t : Nat) : State :=
  (running1 (runOf' (stakeOf 0 0x10 64) 0x10 .active) t).setSlices [(64, sliceIn st path)]

theorem test_CarrierTimes_lock : isUhfPort 64 = true ∧
    (uhfRun .hop [.carrier] 3400).runAt 64 = some (runOf' (stakeOf 0 0x10 64) 0x10 .active) ∧
    ((uhfRun .hop [.carrier] 3400).slice ((uhfRun .hop [.carrier] 3400).server 64)).st = .hop ∧
    ((uhfRun .hop [.carrier] 3400).slice 64).due + 3400 ≤ (uhfRun .hop [.carrier] 3400).now ∧
    ((uhfRun .hop [.carrier] 3400).slice 64).path = [.carrier] ∧ (uhfRun .hop [.carrier] 3400).sliceDue 64 = true ∧
    (runOf' (stakeOf 0 0x10 64) 0x10 .active).request = none ∧ (runOf' (stakeOf 0 0x10 64) 0x10 .active).inert = none ∧
    ((uhfRun .standby [.synth] 5000).slice 64).path.head? = some .synth ∧
    ((uhfRun .standby [.synth] 5000).slice 64).due + 5000 ≤ (uhfRun .standby [.synth] 5000).now := by decide +kernel

theorem test_CarrierTimes_timeout : let s := uhfRun .carrier [] 160000000
    (s.slice (s.server 64)).st = .carrier ∧ (s.port 64).chanStart + (runOf' (stakeOf 0 0x10 64) 0x10 .active).txLimit ≤ s.now ∧ s.cxpMode ≠ 2 ∧
      (s.slice (s.server 64)).path.head? ≠ some .off ∧
      s.hopNow (runOf' (stakeOf 0 0x10 64) 0x10 .active) = false ∧ s.runAt (runOf' (stakeOf 0 0x10 64) 0x10 .active).port = some (runOf' (stakeOf 0 0x10 64) 0x10 .active) := by decide +kernel

/-- A change that the next exchange needs is due in the tick of the limit. -/
theorem test_CarrierTimes_hopNow : let r := { runOf' (stakeOf 0 0x10 64) 0x10 .active with
      walk := { Walk.dflt with next := some (firstCmd 0x10 [] false Walk.dflt) }, tailAt := 160100000, stop := 160200000
      block := [0, 0, 0, 0, BitVec.ofNat 64 (2 ^ 59)] }
    let s := (running1 r 160000000).setSlices [(64, sliceIn .carrier [])]
    (s.slice (s.server 64)).st = .carrier ∧ (s.port 64).chanStart + r.txLimit ≤ s.now ∧ s.cxpMode ≠ 2 ∧
      (s.slice (s.server 64)).path.head? ≠ some .off ∧ s.runAt 64 = some r ∧ s.runAt r.port = some r ∧ s.hopNow r = true := by decide +kernel

theorem test_PaPins_step : let s := (atTick ready 400).setPorts [(64, { Port.dflt with paStep := some 2 })]
    isUhfPort 64 = true ∧ (s.port 64).paStep = some 2 ∧ s.paDue 64 2 ≤ s.now ∧ (atTick s 399).now < s.paDue 64 2 := by
  decide +kernel

theorem test_PaPins_fault : let r := { runOf' (stakeOf 0 0x10 64) 0x10 .active with
      cfg := [(R.uhaPaCfg 0, Word.put (Word.put 0 F.uhaPaCfg.ext 1) F.uhaPaCfg.active 7)] }
    let s := (running1 r 400).setPorts [(64, { Port.dflt with paPins := 7, faultLow := true })]
    isUhfPort 64 = true ∧ s.up = true ∧ s.runAt 64 = some r ∧ s.runAt r.port = some r ∧ s.paExt 64 = true ∧
      (s.port 64).paPins.getLsbD 0 = (s.paActive 64).getLsbD 0 ∧ (s.port 64).faultLow = true ∧
      (ready.port 64).faultLow = false := by decide +kernel

/-- 31 µs are refused, 30 µs are taken. -/
theorem test_PaPins_delays : ready.locked = false ∧
    (let v := Word.put (Word.put (Word.put 0 F.uhaPaCfg.d1Us 10) F.uhaPaCfg.d2Us 10) F.uhaPaCfg.d3Us 11
     30 < Word.get v F.uhaPaCfg.d1Us + Word.get v F.uhaPaCfg.d2Us + Word.get v F.uhaPaCfg.d3Us) ∧
    (let v := Word.put (Word.put (Word.put 0 F.uhaPaCfg.d1Us 10) F.uhaPaCfg.d2Us 10) F.uhaPaCfg.d3Us 10
     Word.get v F.uhaPaCfg.d1Us + Word.get v F.uhaPaCfg.d2Us + Word.get v F.uhaPaCfg.d3Us ≤ 30) := by decide +kernel

def wideExch (w : Wide) : Exch := { exchOf (.kReadWide 0 1) with seen := some seen0, wide := w }
def wideRun (w : Wide) : Run :=
  { runOf' { stakeOf 0 0x08 0 with w2 := 1 <<< 48 } 0x08 .active with exch := some (wideExch w) }

/-- The sync window of a reply that starts 2,048 fc after time zero ends 2,262 fc after it, in tick 6,673; the window of symbol 0
one symbol later. -/
theorem test_WideReplies_windows : let x := wideExch Wide.dflt
    (running1 (wideRun Wide.dflt) 6673).windowOver x seen0 2 = true ∧
      (running1 (wideRun Wide.dflt) 6672).windowOver x seen0 2 = false ∧
      (running1 (wideRun Wide.dflt) 6673).windowOver x seen0 3 = false ∧
      (running1 (wideRun Wide.dflt) 6886).windowOver x seen0 3 = true := by decide +kernel

theorem test_WideReplies_sync : isHfPort 0 = true ∧ (running1 (wideRun Wide.dflt) 9).runAt 0 = some (wideRun Wide.dflt) ∧
    (wideRun Wide.dflt).exch = some (wideExch Wide.dflt) ∧ (wideExch Wide.dflt).wideM = some 1 ∧
    (wideExch Wide.dflt).seen = some seen0 ∧ (wideExch Wide.dflt).wide.syncDone = false := by decide +kernel

/-- The last symbol of a reply of one codeword, and the codeword when all 65 are in. -/
theorem test_WideReplies_symbols : let w := { Wide.dflt with syncDone := true, rho := 1, symbols := 64 }
    (wideExch w).wideM = some 1 ∧ (wideRun w).syncOk w.rho = true ∧ w.early = false ∧ w.symbols < 65 * 1 := by decide +kernel

theorem test_WideReplies_codeword : let w := { Wide.dflt with syncDone := true, rho := 1, symbols := 65 }
    let s := running1 (wideRun w) 9
    s.decoderRun 0 = some (wideRun w) ∧ SMap.find s.decoders 0 = none ∧ w.done.length < 1 ∧
      65 * (w.done.length + 1) ≤ w.symbols ∧ s.runAt 0 = some (wideRun w) ∧
      (SMap.find (s.setDecoders [(0, { port := some 0, cw := 0 })]).decoders 0) = some { port := some 0, cw := 0 } := by
  decide +kernel

theorem test_CoexWires_lead : let s := (planned { stakeOf 0 0x01 0 with w3 := BitVec.ofNat 64 (2 ^ 48 + 2 ^ 56) }).setFld R.cxpCfg F.cxpCfg.mode 1
    s.up = true ∧ s.running = true ∧ 0 < s.planCount s.activeBank ∧ s.sch.next ≤ 0 ∧ s.cxpMode = 1 ∧ 0 ∉ s.cxp.lead ∧
      (s.planStake 0).coexClass ≠ 0 ∧
      s.fld R.schCycleStart F.schCycleStart.start + (s.planStake 0).start ≤ s.now + (s.planStake 0).lead := by decide +kernel

/-- A lead of 50 µs from the first tick of the next cycle reaches back into this one, whose stakes have begun. -/
theorem test_CoexWires_next : let k := { stakeOf 0 0x01 0 with w0 := 1000, w3 := BitVec.ofNat 64 (2 ^ 48 + 2 ^ 56) }
    let s := ((atTick ((planned k).setFld R.cxpCfg F.cxpCfg.mode 1) 999).setBit R.schCtrl F.schCtrl.run true).setSch
      { Sch.dflt with next := 1 }
    s.up = true ∧ s.running = true ∧ 0 < s.planCount s.activeBank ∧ (s.planStake 0).coexClass ≠ 0 ∧ 0 ∉ s.cxp.lead ∧
      s.cxpMode = 1 ∧ 0 < s.sch.next ∧ (s.planStake 0).start < (s.planStake 0).lead ∧
      s.swapsNext = false ∧ s.bit R.schCtrl F.schCtrl.run = true ∧ s.boot.entering = none ∧
      s.cycleEnd + (s.planStake 0).start ≤ s.now + (s.planStake 0).lead := by decide +kernel

theorem test_CoexWires_wait : let r := runOf' (stakeOf 0 0x01 0) 0x01 .waiting
    isPort 0 = true ∧ (running1 r 1).runAt 0 = some r ∧ r.phase = .waiting ∧ r.start + r.stake.guard ≤ (running1 r 1).now ∧
      (running1 r 1).cxpMode = 0 ∧ (running1 r 1).runAt r.port = some r ∧
      ((running1 r 1).setFld R.cxpCfg F.cxpCfg.mode 2).cxpMode = 2 := by decide +kernel

/-- The wires in each mode, outside the sequence of a reset. -/
theorem test_CoexWires_modes : ready.cxpMode = 0 ∧ (ready.setFld R.cxpCfg F.cxpCfg.mode 1).cxpMode = 1 ∧
    (ready.setFld R.cxpCfg F.cxpCfg.mode 2).cxpMode = 2 ∧ (ready.setFld R.cxpCfg F.cxpCfg.mode 2).bootBalls = none ∧
    (ready.setCxp { ready.cxp with req := true }).cxp.req = true := by decide +kernel

/-! ### The plan checker -/

/-- The header of a plan of n stakes in bank 0. -/
def planHead (n cycle len : Nat) : List Word :=
  [BitVec.ofNat 64 (0x53504C4E * 2 ^ 32 + 2 ^ 16 + n), BitVec.ofNat 64 cycle, BitVec.ofNat 64 (len * 2 ^ 32), 0]

/-- An IDLE_GUARD stake of pitch 0, with what it claims. -/
def guardOf (start dur port : Nat) (claims seam : Word) : Stake :=
  { idx := 0, w0 := BitVec.ofNat 64 (start * 2 ^ 24 + dur), w1 := BitVec.ofNat 64 (0x3F * 2 ^ 56 + port * 2 ^ 40), w2 := claims, w3 := seam }

/-- A plan in bank 0 with a cycle of 40,000 ticks. -/
def checked (ks : List Stake) : State :=
  ready.setWords 0x01C00000 (planHead ks.length 40000 (4 * ks.length + 4) ++ ks.flatMap fun k => [k.w0, k.w1, k.w2, k.w3])

/-- The verdict on a plan in bank 0: its code, stake and offset. -/
def verdictOf (s : State) : Nat × Nat × Nat := ((s.checkPlan false).code, (s.checkPlan false).stake, (s.checkPlan false).offset)

/-- The header of another plan format, and lengths, cycles and counts at the ends of their ranges. -/
theorem test_CheckerAnswers_header :
    let h (l : List Word) := ready.setWords 0x01C00000 l
    verdictOf (h [0, 40000, BitVec.ofNat 64 (8 * 2 ^ 32), 0]) = (0x01, 0, 0) ∧
      131072 < (h (planHead 1 40000 131073)).planLen false ∧ (h (planHead 1 40000 131072)).planLen false = 131072 ∧
      [39600, 40001, 40000400].all (fun c => decide (verdictOf (h (planHead 1 c 8)) = (0x02, 0, 0))) = true ∧
      [40000, 40000000].all (fun c => decide ((h (planHead 1 c 8)).headerCode false = 0)) = true ∧
      verdictOf (h (planHead 0 40000 8)) = (0x03, 0, 0) ∧ verdictOf (h (planHead 1 40000 7)) = (0x03, 0, 0) ∧
      verdictOf (h (planHead 8193 40000 131072)) = (0x03, 0, 0) ∧
      (h (planHead 8192 40000 32772)).headerCode false = 0 := by decide +kernel

/-- A second stake that starts earlier, or at the same tick on a lower port; a stake that ends past the cycle; one without ticks;
one of a template on a port that it is not for. -/
theorem test_CheckerAnswers_stakes :
    verdictOf (checked [guardOf 400 10 0 0 0, guardOf 399 10 1 0 0]) = (0x04, 1, 399) ∧
    verdictOf (checked [guardOf 400 10 1 0 0, guardOf 400 10 0 0 0]) = (0x04, 1, 400) ∧
    (checked [guardOf 400 10 0 0 0, guardOf 400 10 1 0 0]).stakeCode false [] [guardOf 400 10 0 0 0] (guardOf 400 10 1 0 0) = 0 ∧
    verdictOf (checked [guardOf 39990 11 0 0 0]) = (0x05, 0, 39990) ∧ verdictOf (checked [guardOf 0 0 0 0 0]) = (0x05, 0, 0) ∧
    verdictOf (checked [guardOf 39990 10 0 0 0]) = (0, 0, 0) ∧ verdictOf (checked [guardOf 0 10 32 0 0]) = (0x06, 0, 0) ∧
    templateAllows 0x3F 32 = false := by decide +kernel

/-- A property of each stake of two and those before it. -/
theorem splits_two (a b : Stake) (P : List Stake → Stake → Prop) (h0 : P [] a) (h1 : P [a] b) :
    ∀ l x m, [a, b] = l ++ x :: m → P l x := by
  intro l x m h
  match l, h with
  | [], h => simp at h; exact h.1 ▸ h0
  | [c], h => simp at h; exact h.1 ▸ h.2.1 ▸ h1
  | c :: d :: l, h => simp at h

/-- Both stakes of a plan pass the first pass, so the sweep and the seams decide. -/
theorem test_CheckerAnswers_passOne : let s := checked [guardOf 0 1000 0 0 0, guardOf 1000 1000 0 0 0]
    ∀ l x m, s.stakes false = l ++ x :: m → s.stakeCode false (s.stakes false) l x = 0 := by
  intro s
  have h : s.stakes false = [s.stakeAt false 0, s.stakeAt false 1] := by
    simp [State.stakes, show s.planCount false = 2 by decide +kernel, List.range_succ]
  rw [h]
  exact splits_two _ _ _ (by decide +kernel) (by decide +kernel)

/-- The second stake starts on the last tick of the first, and on the tick after it: on one port, with a check unit and with a
decoder in common. -/
theorem test_CheckerAnswers_pairs :
    verdictOf (checked [guardOf 0 1000 0 0 0, guardOf 999 1000 0 0 0]) = (0x10, 0, 999) ∧
    verdictOf (checked [guardOf 0 1000 0 0 0, guardOf 1000 1000 0 0 0]) = (0, 0, 0) ∧
    verdictOf (checked [guardOf 0 1000 0 (BitVec.ofNat 64 (2 ^ 47)) 0, guardOf 999 1000 1 (BitVec.ofNat 64 (2 ^ 47)) 0]) = (0x11, 0, 999) ∧
    verdictOf (checked [guardOf 0 1000 0 (BitVec.ofNat 64 (2 ^ 49)) 0, guardOf 999 1000 1 (BitVec.ofNat 64 (2 ^ 49)) 0]) = (0x12, 0, 999) ∧
    verdictOf (checked [guardOf 0 1000 0 (BitVec.ofNat 64 (2 ^ 49)) 0, guardOf 999 1000 1 (BitVec.ofNat 64 (2 ^ 48)) 0]) = (0, 0, 0) := by
  decide +kernel

/-- As many wheel entries as the limit and one more; claims that reach the ceiling and one mW more; a gap of the seam and one of
a tick less. -/
theorem test_CheckerAnswers_sweep :
    let e (n : Nat) := (checked [guardOf 0 1000 0 0 (BitVec.ofNat 64 (19 * 2 ^ 43 + 5 * 2 ^ 32)),
      guardOf 999 1000 1 0 (BitVec.ofNat 64 (19 * 2 ^ 43 + 6 * 2 ^ 32))]).setFld R.schWheelLimit F.schWheelLimit.limit n
    let p (n : Nat) := ((checked [guardOf 399 2 0 0 4000, guardOf 400 10 1 0 (BitVec.ofNat 64 n)]).setFld R.pwrCeil
      F.pwrCeil.ceilMw 5000).setFld R.schBaseMw F.schBaseMw.base 500
    let g (n : Nat) := ((checked [guardOf 0 30000 0 0 0]).setFld R.schSeamMin F.schSeamMin.seam n).setBit R.hltCfg F.hltCfg.rotHf true
    verdictOf (e 11) = (0, 0, 0) ∧ verdictOf (e 10) = (0x13, 0, 999) ∧
      verdictOf (p 500) = (0, 0, 0) ∧ verdictOf (p 501) = (0x14, 0, 400) ∧
      verdictOf (g 10000) = (0, 0, 0) ∧ verdictOf (g 10001) = (0x15, 0, 0) := by decide +kernel

/-! ### The plan checker's end, the cabinet and the input power -/

theorem test_PlanChecked : let c : Check := { bank := true, atLoad := false }
    let s := ready.setSch { Sch.dflt with check := some c }
    s.sch.check = some c ∧ s.endCheck.ueIn (bankBase c.bank) (bankBase c.bank +
      8 * min 131072 (max 4 (s.endCheck.planLen c.bank))) = none ∧ (s.endCheck.checkPlan c.bank).code ≠ 0 := by decide +kernel

theorem test_PlanChecked_ue : let c : Check := { bank := true, atLoad := true }
    let s := (ready.setSch { Sch.dflt with check := some c }).setEcc [(0x01D00000 / 8, 3)]
    s.sch.check = some c ∧ (s.endCheck.ueIn (bankBase c.bank) (bankBase c.bank +
      8 * min 131072 (max 4 (s.endCheck.planLen c.bank)))).isSome = true := by decide +kernel

theorem test_InhibitBegins : let s := (uhfRun .carrier [] 10)
    s.up = true ∧ s.inhibited = false ∧ s.cxpMode ≠ 2 ∧ (∀ x ∈ s.runs, s.runAt x.port = some x ∧
      ∀ y ∈ s.runs, x.stake.idx = y.stake.idx → x = y) ∧ (∃ r ∈ s.runs, r.radiating = true) ∧ (s.slice 64).st ≠ .off := by
  decide +kernel

theorem test_InhibitBegins_field : let s := (running1 (runOf' (stakeOf 0 0x01 0) 0x01 .active) 10).setSlices [(0, sliceIn .field [])]
    s.up = true ∧ s.inhibited = false ∧ s.cxpMode ≠ 2 ∧ isHfSlice 0 = true ∧ (s.slice 0).st = .field := by decide +kernel

theorem test_InhibitEnds : let s := ready.setBit R.cabRfoffStatus F.cabRfoffStatus.inhibit true
    let t := (atTick ready 9).setCab { ready.cab with restoreAt := some 9 }
    s.up = true ∧ s.inhibited = true ∧ s.bit R.cabRfoffStatus F.cabRfoffStatus.latched = false ∧
      (s.setBit R.cabRfoffStatus F.cabRfoffStatus.latched true).bit R.cabRfoffStatus F.cabRfoffStatus.latched = true ∧
      t.cab.restoreAt = some 9 ∧ 9 ≤ t.now ∧ (atTick t 8).now < 9 ∧ (t.slice 64).st = .off ∧
      t.staysOff ((t.portOf 64).getD 64) 64 = false ∧
      (t.setPorts [(64, { Port.dflt with paFault := true })]).staysOff ((t.portOf 64).getD 64) 64 = true := by decide +kernel

theorem test_RfoffSamples : ready.boot.power ≠ .off ∧ ready.cab.a = ready.cab.b ∧
    (ready.setCab { ready.cab with a := true }).cab.a ≠ (ready.setCab { ready.cab with a := true }).cab.b ∧
    (ready.setFld R.cabRfoffStatus F.cabRfoffStatus.discCount (2 ^ 14 - 2)).fld R.cabRfoffStatus F.cabRfoffStatus.discCount <
      2 ^ 14 - 1 := by decide +kernel

/-- A plan whose stake is a TRIGGER_INV of trigger 2 on port 3. -/
def triggered : State :=
  (planned { stakeOf 0 0x30 3 with w1 := BitVec.ofNat 64 (0x30 * 2 ^ 56 + 3 * 2 ^ 40 + 8) }).setWords 0x01C00040 [2 * 2 ^ 48 + 2, 0]

theorem test_TriggersAndGpio_edge : let s := triggered.setFld (R.cabTrig 2) F.cabTrig.edge 3
    triggered.up = true ∧ s.seesEdges = true ∧ SMap.look 0 s.cab.holdoff 2 ≤ s.now ∧
      s.cfg (R.cabTrig 2) F.cabTrig.edge = 3 ∧ s.bit R.schStatus F.schStatus.loaded = true ∧
      (2, 3) ∈ s.planPairs ∧ s.runAt 3 = none := by decide +kernel

/-- A level that the ball has held for filter_us and the synchroniser is accepted, one tick less is not; a ball that the part
drives gives its own level alone. -/
theorem test_TriggersAndGpio_filter : let s := triggered.setFld (R.cabTrig 2) F.cabTrig.filterUs 5
    let d := s.setFld (R.cabGpioCfg 0) F.cabGpioCfg.func 1
    2 + usTicks (s.cfg (R.cabTrig 2) F.cabTrig.filterUs) = 202 ∧ s.ballDriven (s.cfg (R.cabTrig 2) F.cabTrig.pin) = none ∧
      d.ballDriven (d.cfg (R.cabTrig 2) F.cabTrig.pin) = some false ∧ d.ballLevel (d.cfg (R.cabTrig 2) F.cabTrig.pin) = false := by
  decide +kernel

theorem test_TriggersAndGpio_idle : let k := { stakeOf 0 0x30 3 with w0 := 1000000 }
    let r := { runOf' k 0x01 .idle with block := [2, 0] }
    let s := triggered.setRuns [r]
    s.runAt 3 = some r ∧ r.port = 3 ∧ r.template = 0x30 ∧ blkTrig r.block = 2 ∧ r.inert = none ∧ r.phase = .idle ∧
      16 + frontOf r.inner r.block r.stake.group + blkU r.block + tailOf r.inner r.block r.stake.hold r.stake.resumable +
        r.stake.guard ≤ r.start + r.stake.dur - s.now := by decide +kernel

theorem test_TriggersAndGpio_dropped : let s := ready.setCab { ready.cab with holdoff := [(2, 1)] }
    s.seesEdges = true ∧ s.now < SMap.look 0 s.cab.holdoff 2 ∧ (ready.cfg (R.cabTrig 2) F.cabTrig.edge ≠ 3 ∧
      ready.cfg (R.cabTrig 2) F.cabTrig.edge ≠ (if true then 1 else 2)) := by decide +kernel

theorem test_TriggersAndGpio_leaves : let s := ready.setFld (R.cabGpioCfg 63) F.cabGpioCfg.func 5
    0 < s.ballFunc 63 ∧ s.ballFunc 63 < 6 := by decide +kernel

/-! ### Check units, Groundsheet, FIFOs -/

/-- CHKn_RUN with start, over 16 bytes that end at the last byte of Groundsheet. -/
def lastRun : Word := Word.put (Word.put (Word.put 0 F.chkRun.addr 0x01FFFFF0) F.chkRun.length 16) F.chkRun.start 1

theorem test_HostRuns_start : ready.up = true ∧ SMap.find ready.hostRuns 47 = none ∧ lastRun.getLsbD 63 = true ∧
    ready.chkClaimed 47 = false ∧ Word.get lastRun F.chkRun.addr + Word.get lastRun F.chkRun.length ≤ 0x02000000 ∧
    (running1 (runOf' { stakeOf 0 0x01 0 with w2 := BitVec.ofNat 64 (2 ^ 47) } 0x01 .active) 0).chkClaimed 47 = true := by
  decide +kernel

theorem test_HostRuns_done : let h : HostRun := { HostRun.dflt with run := lastRun, words := [0, 0] }
    let s := ready.setHostRuns [(47, h)]
    s.up = true ∧ SMap.find s.hostRuns 47 = some h ∧ h.past = [] ∧ s.tick.stores.length ≤ h.from_ ∧
      SMap.find s.tick.late 47 = none ∧ h.words = s.words (runBase h.run) (runBeats h.run) ∧
      (∀ i, i < runBeats h.run → s.upset (runBase h.run + 8 * i) = 0 ∧ s.vague (runBase h.run + 8 * i) = false) ∧
      (SMap.find s.hostRuns 47).isSome = true := by decide +kernel

/-- Widths 0 and 65 are refused. -/
theorem test_HostRuns_width : Word.get 0 F.chkCfg.width = 0 ∧ 64 < Word.get (Word.put 0 F.chkCfg.width 65) F.chkCfg.width ∧
    presetCrcA.init < 2 ^ presetCrcA.w ∧ presetCrcA.xorout < 2 ^ presetCrcA.w := by decide +kernel

theorem test_ScrubberAndWheel_words : ready.up = true ∧ ready.bit R.gshScrubCfg F.gshScrubCfg.enable = true ∧
    ones (ready.upset (8 * 4194303) ^^^ 1) = 1 ∧ 2 ≤ ones (ready.upset (8 * 0x1FFFFF) ^^^ 3) ∧ ready.awnAt (8 * 0x1FFFFF) = none ∧ 8 * 0x1FFFFF < 0x01000000 ∧
    0x01000000 ≤ 8 * 0x200000 ∧ 8 * 0x200000 < 0x01400000 ∧ 0x01C00000 ≤ 8 * 0x380000 ∧ 8 * 0x380000 < 0x01E00000 ∧
    decide (0x01D00000 ≤ 8 * 0x380000) = ready.activeBank ∧ ready.upset 0 ^^^ 0 = 0 ∧
    (BitVec.ofNat 64 (2 ^ 63)).getLsbD 63 = true ∧ (19 : BitVec 5).toNat < 20 ∧
    ready.fld R.rdpRrWait F.rdpRrWait.maxCycles < (1 : BitVec 16).toNat := by decide +kernel

/-- The entry of a stake that is active, on its last tick, and that of one that is over. -/
theorem test_ScrubberAndWheel_wheel : let r := runOf' (stakeOf 5 0x01 0) 0x01 .active
    let s := (running1 r 999).setWheel [(19 * 1024 + 1023, r.wheelTag), (0, 7)]
    s.up = true ∧ (19 * 1024 + 1023, r.wheelTag) ∈ s.wheel ∧ r ∈ s.runs ∧ r.start ≤ s.now ∧ s.now < r.stop ∧ r.wheelTag ≠ 7 := by
  decide +kernel

/-- Words that hosts may write, the first and the last of each kind: of no buffer, of a buffer that is HELD, of the host image of an
instance, of a plan bank. -/
theorem test_WritesOfBadWords : let s := ready.setEcc [(0x00FFFFF8 / 8, 3), (0x01D00000 / 8, 3), (0x01DFFFF8 / 8, 3)]
    s.masterOn 0 = true ∧ s.viewOf 0 0x02FFFFF8 = .word 0x00FFFFF8 ∧ s.hostMayWrite 0x00FFFFF8 ∧ s.isUe 0x00FFFFF8 = true ∧
      0x02FFFFF8 % 8 + ([1, 2, 3, 4, 5, 6, 7] : List Byte).length ≤ 8 ∧
      s.viewOf 0 0x03D00000 = .word 0x01D00000 ∧ s.hostMayWrite 0x01D00000 ∧ s.isUe 0x01D00000 = true ∧
      s.hostMayWrite 0x01DFFFF8 ∧ s.isUe 0x01DFFFF8 = true :=
  ⟨by decide +kernel, by decide +kernel, .inl (by decide +kernel), by decide +kernel, by decide +kernel, by decide +kernel,
    .inr (.inr (by decide +kernel)), by decide +kernel, .inr (.inr (by decide +kernel)), by decide +kernel⟩

/-- Pitch 1 has the region 0 to 0x10000 and the buffers 0 and 1, and a VF. -/
def pitched : State :=
  ((((((ready.setFld (R.pitRegion 1) F.pitRegion.size 1).setFld (R.gshBufRange 1) F.gshBufRange.count 2).setBit (R.pitCfg 1)
    F.pitCfg.enable true).setBit (R.pitCfg 1) F.pitCfg.pcie true).setBit (R.pitCfg 1) F.pitCfg.eth true).setFld (R.pitKeys 1)
    (63, 0) 3).setHif { Hif.dflt with numVfs := 1, vfEnable := true, pcieUp := true }

theorem test_WritesOfBadWords_held : let s := (pitched.setBuf 1 .held).setEcc [(32, 3)]
    s.masterOn 4 = true ∧ s.viewOf 4 0x400100 = .word 0x100 ∧ s.hostMayWrite 0x100 ∧ s.isUe 0x100 = true :=
  ⟨by decide +kernel, by decide +kernel, .inl (by decide +kernel), by decide +kernel⟩

theorem test_HostAccess : (ready.masterOn 0 = true ∧ ready.awnAt 0x01FFFFF8 = none ∧ ready.vague 0x01FFFFF8 = false ∧
      ready.upset 0x01FFFFF8 = 0) ∧
    (pitched.masterOn 4 = true ∧ (pitched.region (masterPitch 4)) = (0, 65536) ∧ pitched.awnAt 0xFFF8 = none ∧
      pitched.vague 0xFFF8 = false ∧ pitched.upset 0xFFF8 = 0) ∧
    ((ready.setEcc [(0, 3)]).isUe 0 = true ∧ (ready.setEcc [(0, 3)]).awnAt 0 = none) ∧
    ((pitched.bufPitch 1).isSome = true ∧ pitched.buf 1 ≠ .held ∧ (pitched.setBuf 1 .held).buf 1 = .held) ∧
    decide (0x01D00000 ≤ 0x01C00000) = ready.activeBank := by decide +kernel

theorem test_BuffersAllocated : pitched.masterOn 4 = true ∧ reachesPitch 4 1 = true ∧ pitched.freeBufs 1 ≠ [] ∧
    ((pitched.setBuf 0 .held).setBuf 1 .held).freeBufs 1 = [] ∧ pitched.inRange 1 1 = true ∧ pitched.inRange 1 2 = false ∧
    (pitched.setBuf 1 .held).buf 1 = .held ∧ pitched.buf 1 = .free ∧ (pitched.setBuf 1 .queued).buf 1 = .queued ∧
    (pitched.setBuf 1 .writing).buf 1 = .writing ∧ privileged 4 = false ∧ privileged 3 = true ∧ reachesPitch 0 1 = true ∧
    pitched.masterOn 0 = true := by decide +kernel

theorem test_BuffersAllocated_upper : pitched.serves 0 (R.gshBufAlloc 1 + 4) = true ∧ R.gshBufAlloc 1 % 8 = 0 ∧
    pitched.place 0 (R.gshBufAlloc 1) = .reg (R.gshBufAlloc 1) ∧ SMap.find pitched.pit.snap 0 = none := by decide +kernel

/-- A packet appended in tick 0. -/
def packet (chain : List Nat) (length : Nat) : Packet := { chain := chain, length := length, at_ := 0, cycle := 0 }

/-- FIFO 5 of pitch 1, dir 0 or 1, with the packets given. -/
def fifoed (dir : Bool) (l : List Packet) (h : List (List Word)) : State :=
  (((pitched.setBit (R.gshFifoCfg 5) F.gshFifoCfg.enable true).setBit (R.gshFifoCfg 5) F.gshFifoCfg.dir dir).setFld
    (R.gshFifoCfg 5) F.gshFifoCfg.pitch 1).setFifos [(5, { packets := l, held := h })]

theorem test_FifosDrained : let s := fifoed false [packet [1] 3] []
    s.masterOn 4 = true ∧ s.ownsFifo (masterPitch 4) 5 = true ∧ (s.fifo 5).packets = packet [1] 3 :: [] ∧
      [1].head? = some (Word.get (Word.put 0 F.gshFifoPop.first 1) F.gshFifoPop.first) ∧ s.fifoDir1 5 = false ∧
      s.fifoHif 5 = false ∧ ((fifoed false [] []).fifo 5).packets = [] ∧ (fifoed true [] []).fifoDir1 5 = true ∧
      ((s.fifo 5).packets.head?.bind fun p => p.chain.head?) ≠ some (Word.get 0 F.gshFifoPop.first) := by decide +kernel

/-- A flush by the SPI host and a push by a VF in one cycle; the FIFO holds a packet. -/
theorem test_FifosDrained_cycle : let s := ((fifoed true [packet [0] 1] []).setBuf 1 .held).setWord (256 + 248) 0x10000
    let v := Word.put (Word.put 0 F.gshFifoPush.first 1) F.gshFifoPush.length 31
    let u := s.newCycle.flush 5
    s.masterOn 0 = true ∧ s.masterOn 1 = true ∧ s.place 1 (R.gshFifoPush 5) = .reg (R.gshFifoPush 5) ∧ R.gshFifoPush 5 % 8 = 0 ∧
      Word.get (Word.put 0 F.gshFifoCtrl.flush 1) F.gshFifoCtrl.flush = 1 ∧ s.fifoOn 5 = true ∧ s.fifoDir1 5 = true ∧
      Word.get v F.gshFifoPush.length = 31 ∧
      u.pushChain (u.fifoPitch 5) (chainLen 31) (Word.get v F.gshFifoPush.first) [] = .ok [1] ∧ u.fifoFull 5 = false := by
  decide +kernel

/-- A push of the longest packet of one buffer, whose link word says last. -/
def pushed : State := ((fifoed true [] []).setBuf 1 .held).setWord (256 + 248) 0x10000
def push31 : Word := Word.put (Word.put 0 F.gshFifoPush.first 1) F.gshFifoPush.length 31

theorem test_FifosFilled_push : pushed.masterOn 4 = true ∧ pushed.ownsFifo (masterPitch 4) 5 = true ∧ pushed.fifoOn 5 = true ∧
    pushed.fifoDir1 5 = true ∧ Word.get push31 F.gshFifoPush.length = 31 ∧
    pushed.pushChain (pushed.fifoPitch 5) (chainLen 31) (Word.get push31 F.gshFifoPush.first) [] = .ok [1] ∧
    pushed.fifoFull 5 = false := by decide +kernel

/-- One word more needs a second buffer, and a length of 4,097 is too long; neither names a buffer of another pitch. -/
theorem test_FifosFilled_bad : pushed.pushChain 1 (chainLen 32) 1 [] = .bad ∧
    Word.get (Word.put 0 F.gshFifoPush.length 4097) F.gshFifoPush.length = 4097 ∧ (pushed.setBuf 0 .held).pushChain 1 0 0 [] =
      .bad ∧ (∀ b, (Chain.bad : Chain) ≠ .foreign b) := ⟨by decide +kernel, by decide +kernel, by decide +kernel, nofun⟩

/-- The first buffer of pitch 2 in a chain of pitch 1, and a FIFO that is full. -/
theorem test_FifosFilled_foreign : pushed.pushChain (pushed.fifoPitch 5) (chainLen 31) 2 [] = .foreign 2 ∧ privileged 4 = false ∧
    privileged 0 = true ∧ pushed.masterOn 0 = true ∧
    (pushed.setFifo 5 { packets := List.replicate (pushed.fifoDepth 5) (packet [0] 1), held := [] }).fifoFull 5 = true := by
  decide +kernel

theorem test_FifosFilled_held : let s := (fifoed false [] [[7]]).setBuf 0 .held
    s.up = true ∧ s.fifoOn 5 = true ∧ (s.fifo 5).held = [7] :: [] ∧ s.chainFor 5 1 = some [1] ∧
      (s.setBuf 1 .held).chainFor 5 1 = none := by decide +kernel

/-! ### Requests and keys -/

/-- A KRV_REQ of pitch 1 for HF0: READ of one unit. -/
def krvReq : List Word :=
  [BitVec.ofNat 64 (2 ^ 56 + 2 ^ 48 + 5 * 2 ^ 32), 9, BitVec.ofNat 64 (2 ^ 32), 0, 0]

/-- FIFO 5 holds the request; FIFO 6 is the done FIFO, which holds one packet back; pitch 1 owns HF0. -/
def requesting : State :=
  ((((((fifoed true [packet [1] 5] []).setBuf 1 .queued).setWords 256 krvReq).setBit (R.gshFifoCfg 6)
    F.gshFifoCfg.enable true).setFld (R.gshFifoCfg 6) F.gshFifoCfg.pitch 1).setFld (R.pitCfg 1) F.pitCfg.doneFifo 6).setFld
    (R.pitPorts 1) (47, 0) 1

theorem test_RequestsTaken : requesting.up = true ∧ requesting.fifoOn 5 = true ∧ requesting.fifoDir1 5 = true ∧
    (requesting.fifo 5).packets = packet [1] 5 :: [] ∧ requesting.firstAppended 5 (packet [1] 5) = true ∧ requesting.readChain [1] 5 = krvReq ∧
    requesting.fifoPitch 5 = 1 ∧ requesting.chainUe [1] 5 = false ∧ bf krvReq 0 63 56 = 1 ∧
    requesting.doneFifo 1 = some 6 ∧ requesting.admission 1 false krvReq = none := by decide +kernel

theorem test_RequestsTaken_refused : let s := (requesting.setFld (R.pitPorts 1) (47, 0) 0).setFifo 6 { packets := [], held := [[7]] }
    s.doneFifo 1 = some 6 ∧ s.fifoOn 6 = true ∧ (s.fifo 6).held ≠ [] ∧ s.admission 1 false krvReq = some (.badParam, some (3, 0)) := by
  decide +kernel

theorem test_RequestsTaken_order : let s := requesting
    bf krvReq 1 63 32 = s.clock.epoch.toNat ∧ bf krvReq 0 55 48 = 1 ∧ reqLenOk krvReq = true ∧ reqFieldsOk krvReq = true ∧
      s.ownsPort 1 0 = true ∧ s.ownsPort 1 1 = false ∧ reqPortOk krvReq = true ∧ reqKeyed krvReq = false ∧
      (fifoed false [] []).requestRoom 1 ≤ (fifoed false [] []).requestsHeld 1 ∧
      bf [0, BitVec.ofNat 64 (2 ^ 32), 0] 1 63 32 ≠ s.clock.epoch.toNat ∧ (krvReq.take 2).length < 3 ∧
      bf [BitVec.ofNat 64 (5 * 2 ^ 56 + 2 ^ 48 + 3 * 2 ^ 32), 0, 0] 0 47 32 = 3 := by decide +kernel

/-- A packet in a lower FIFO of the pitch goes first when both were appended in one cycle, and one in a higher FIFO when it was
appended in an earlier one. -/
theorem test_RequestsTaken_first : let s (k : Nat) (p : Packet) := (((requesting.setBit (R.gshFifoCfg k) F.gshFifoCfg.enable true).setBit
      (R.gshFifoCfg k) F.gshFifoCfg.dir true).setFld (R.gshFifoCfg k) F.gshFifoCfg.pitch 1).setFifo k { packets := [p], held := [] }
    (s 4 (packet [0] 1)).firstAppended 5 (packet [1] 5) = false ∧ (s 7 (packet [0] 1)).firstAppended 5 (packet [1] 5) = true ∧
      (s 7 (packet [0] 1)).firstAppended 5 { packet [1] 5 with cycle := 1 } = false := by decide +kernel

/-- A HOST_REQ stake that serves the request. -/
def hostRun (ph : Phase) (tail : Nat) (inert : Option Status) : Run :=
  { runOf' { stakeOf 0 0x09 0 with w1 := BitVec.ofNat 64 (0x09 * 2 ^ 56 + 2 ^ 48) } 0x09 ph with
    tailAt := tail, inert := inert, block := [0, 0, BitVec.ofNat 64 (0xFF * 2 ^ 32), BitVec.ofNat 64 (2080 * 2 ^ 24)] }

def krvQueued : Request := { pitch := 1, port := 0, type := 1, words := krvReq, commitAt := 0, cycles := 1 }

theorem test_RequestsServed : let r := hostRun .idle 100000000 none
    let s := (running1 r 16).setRequests [krvQueued]
    isPort 0 = true ∧ s.runAt 0 = some r ∧ s.firstRequest r.pitch 0 = some krvQueued ∧ r.template = 0x09 ∧ r.request = none ∧
      r.start + 16 ≤ s.now ∧ r.phase = .idle ∧ s.now < r.tailAt ∧ serves r.stake r.block r.pitch krvReq = true ∧
      s.inhibited = false ∧ s.now + reqFront r.block krvReq + reqTicks r.block krvReq ≤ r.tailAt ∧
      (hostRun .idle 17 none).tailAt < s.now + reqFront r.block krvReq + reqTicks r.block krvReq ∧
      (hostRun .idle 17 (some .headAbsent)).inert.isSome = true := by decide +kernel

/-- SCH_REQ_WAIT of 0 acts as 1. -/
theorem test_RequestsServed_wait : max 1 ((ready.setFld R.schReqWait F.schReqWait.cycles 0).cfg R.schReqWait
    F.schReqWait.cycles) ≤ krvQueued.cycles ∧ isPort 79 = true := by decide +kernel

theorem test_BudgetAndKeys_entry : let e : BudgetEntry := { pitch := 8, ident := 5, fails := 1, openedAt := 0 }
    let s := (atTick ready 2400000000).setSec { ready.sec with budget := [e] }
    let t := s.setFld R.secKrvBudget F.secKrvBudget.windowS 0
    s.budgetEntry 8 5 = some e ∧ t.budgetEntry 8 5 = some e ∧
      e.openedAt + sTicks (max 60 (t.cfg R.secKrvBudget F.secKrvBudget.windowS)) ≤ t.now ∧
      (atTick t 2399999999).now < e.openedAt + sTicks (max 60 (t.cfg R.secKrvBudget F.secKrvBudget.windowS)) := by
  decide +kernel

theorem test_BudgetAndKeys_load : pitched.masterOn 4 = true ∧ (BitVec.ofNat 64 (2 ^ 63 + 1)).getLsbD 63 = true ∧
    pitched.ownsKey 1 1 = true ∧ pitched.ownsKey 1 2 = false := by decide +kernel

/-! ### Hosts -/

theorem test_RegisterAccesses_halves : let s := ready.setPit { ready.pit with snap := [(0, 0x050008, 7)] }
    ready.serves 0 0x050008 = true ∧ ready.serves 0 0x05000C = true ∧ ready.place 0 0x050008 = .reg 0x050008 ∧
      arr (R.gshBufAlloc 0) 0x20 9 0x050008 = none ∧ SMap.find s.pit.snap 0 = some (0x050008, 7) ∧
      SMap.find ready.pit.snap 0 = none := by decide +kernel

theorem test_RegisterAccesses_write : ready.serves 0 R.schReqWait = true ∧ R.schReqWait % 8 = 0 ∧
    ready.place 0 R.schReqWait = .reg R.schReqWait ∧ (regAt R.schReqWait).isSome = true ∧
    (hookAt [writeHooks0, writeHooks1, writeHooks2].flatten R.schReqWait).isNone = true ∧
    SMap.find (ready.setPit { ready.pit with stage := [(0, R.schReqWait, 7)] }).pit.stage 0 = some (R.schReqWait, 7) ∧
    pitched.serves 1 R.schReqWait = true ∧
    ((regAt R.schReqWait).all fun d => decide (d.accMask (fun a => decide (a = .w1c) || decide (a = .sc)) = 0)) = true ∧
    R.schReqWait ≠ R.pitContend ∧ regWindow R.schReqWait ∉ [17, 20, 28] := by decide +kernel

/-- The endpoint of pitch 0 on ETH1, with a message in its inbox, and a done FIFO that holds one back. -/
def messaged (ws : List Word) : State :=
  ((((((((ready.setBit (R.hifEpCfg 0) F.hifEpCfg.enable true).setBit (R.pitCfg 0) F.pitCfg.eth true).setFld (R.pitKeys 0)
    (63, 0) 1).setBit (R.gshFifoCfg 6) F.gshFifoCfg.enable true).setFld (R.pitCfg 0) F.pitCfg.doneFifo 6).setFifos
    [(6, { packets := [], held := [[7]] })]).setFld (R.hifEpCfg 0) F.hifEpCfg.ports 3).setHif
    { Hif.dflt with eps := [(0, { Endpoint.dflt with inbox := [{ src := 1, chain := [], words := ws }] })] })

def regMsg (type : Nat) (l : List Word) : List Word :=
  [BitVec.ofNat 64 (type * 2 ^ 56), 0, BitVec.ofNat 64 (2 ^ 32 + R.schReqWait)] ++ l

theorem test_RegisterAccesses_messages : let s := messaged (regMsg 0x08 [])
    let t := messaged (regMsg 0x09 [5])
    bf (regMsg 0x08 []) 0 55 48 = 0 ∧ bf (regMsg 0x08 []) 2 47 32 = 1 ∧ bf (regMsg 0x08 []) 2 31 0 % 8 = 0 ∧
      epMaster 0 1 = 3 ∧ (s.popInbox 0).place 3 (bf (regMsg 0x08 []) 2 31 0) = .reg R.schReqWait ∧ s.doneFifo 0 = some 6 ∧
      s.fifoOn 6 = true ∧ (s.fifo 6).held ≠ [] ∧ s.firstMessage 0 0x08 = some (1, regMsg 0x08 []) ∧
      t.firstMessage 0 0x09 = some (1, regMsg 0x09 [5]) ∧ (regMsg 0x09 [5]).length = 4 ∧
      s.inboxUe 0 = false ∧ t.inboxUe 0 = false := by decide +kernel

/-- A message whose buffer holds a word of two bits in error. -/
theorem test_RegisterAccesses_ue : let s := ((messaged []).setHif { Hif.dflt with eps := [(0, { Endpoint.dflt with
      inbox := [{ src := 1, chain := [1], words := regMsg 0x08 [] }] })] }).setEcc [(34, 3)]
    s.firstMessage 0 0x08 = some (1, regMsg 0x08 []) ∧ s.inboxUe 0 = true := by decide +kernel

/-- FIFO 5 of pitch 1 is delivered into a ring of 512 words. -/
def ringed (P C : Nat) (l : List Packet) : State :=
  (((fifoed false l []).setBit (R.gshFifoCfg 5) F.gshFifoCfg.hif true).setBit (R.hifRing 5) F.hifRing.ring true).setHif
    { Hif.dflt with numVfs := 1, vfEnable := true, pcieUp := true, ringP := [(5, P)], ringC := [(5, C)] }

/-- A packet of 3 words that fits exactly, across the wrap, and one that does not fit by one word. -/
theorem test_PcieRings_deliver : let p := packet [1] 3
    let s := ringed 509 2 [p]
    s.masterOn 4 = true ∧ s.ownsFifo (masterPitch 4) 5 = true ∧ s.ringOn 5 = true ∧ (s.fifo 5).packets = p :: [] ∧
      s.ringSize 5 = 512 ∧ s.chainUe [1] 3 = false ∧ (s.readChain [1] 3).length = 3 ∧
      3 ≤ (s.consIdx 5 + 2 * (512 - 1) - s.prodIdx 5 - 1) % (512 - 1) ∧
      ((ringed 509 1 [p]).consIdx 5 + 2 * (512 - 1) - (ringed 509 1 [p]).prodIdx 5 - 1) % (512 - 1) < 3 ∧
      (s.setEcc [(32, 3)]).chainUe [1] 3 = true := by decide +kernel

theorem test_PcieRings_vectors : pitched.up = true ∧ pitched.fnOn 1 = true ∧ pitched.hif.pcieUp = true ∧
    ready.hif.pcieUp = false ∧
    SMap.look false (pitched.setHif { pitched.hif with msixPend := [(64, true)] }).hif.msixPend (64 * 1 + 0) = true := by
  decide +kernel

/-- C may move up to P and not past it; M − 1 is the highest index. -/
theorem test_Doorbells_ring : let s := ringed 3 0 []
    s.masterOn 4 = true ∧ s.ownsFifo (masterPitch 4) 5 = true ∧ s.fifoDir1 5 = false ∧ s.fifoHif 5 = true ∧
      s.bit (R.hifRing 5) F.hifRing.ring = true ∧ (3 + 511 - s.consIdx 5) % 511 ≤ (s.prodIdx 5 + 511 - s.consIdx 5) % 511 ∧
      (s.prodIdx 5 + 511 - s.consIdx 5) % 511 < (4 + 511 - s.consIdx 5) % 511 ∧ (fifoed false [] []).fifoHif 5 = false ∧
      (fifoed true [] []).fifoDir1 5 = true := by decide +kernel

theorem test_Doorbells_fetch : let s := (((fifoed true [] []).setBuf 0 .held).setHif { Hif.dflt with fetches := [(5, 64)] })
    s.up = true ∧ s.hif.fetches = (5, 64) :: [] ∧ bf [BitVec.ofNat 64 (2 ^ 32)] 0 47 32 = 1 ∧ s.fifoDir1 5 = true ∧
      s.fifoOn 5 = true ∧ s.fifoFull 5 = false ∧ pickMany s.fresh (chainLen 1) (s.freeBufs (s.fifoPitch 5)) = some [1] ∧
      bf [BitVec.ofNat 64 (4097 * 2 ^ 32)] 0 47 32 = 4097 ∧
      pickMany s.fresh (chainLen 32) (s.freeBufs (s.fifoPitch 5)) = none := by decide +kernel

/-- The injector armed with two bits for the link word of buffer 1, and with one. -/
theorem test_Doorbells_inject : let s (n : Nat) := ready.setReg R.gshEccInject (Word.put (Word.put (Word.put 0 F.gshEccInject.arm 1)
      F.gshEccInject.addr (256 + 248)) F.gshEccInject.kind n)
    2 ≤ ones ((s 2).injectMask (256 * 1 + 248)) ∧ ones ((s 1).injectMask (256 * 1 + 248)) < 2 := by decide +kernel

/-! ### Ethernet and SPI -/

/-- ETH0 up, and the endpoint of pitch 0 on it. -/
def linked (e : Endpoint) : State :=
  ((messaged []).setBit (R.hifEthCfg 0) F.hifEthCfg.enable true).setFld (R.hifEthStatus 0) F.hifEthStatus.speed 4
    |>.setHif { Hif.dflt with eps := [(0, e)] }

def datagram (words : List Word) : Datagram :=
  { dstMac := 0, dstIp := 0, dstUdp := BitVec.ofNat 16 (ready.fld (R.hifEthIp 0) F.hifEthIp.udp), srcMac := 7, srcIp := 8,
    srcUdp := 9, malformed := false, words := words }

/-- The longest datagram of the default MTU is read, one word more is not. -/
theorem test_EthernetReception_mtu : let s := linked Endpoint.dflt
    s.ethUp 0 = true ∧ s.ethMine 0 (datagram []) = true ∧
      8 * (List.replicate ((s.ethMtu 0 - 28) / 8) (0 : Word)).length + 28 ≤ s.ethMtu 0 ∧
      s.ethMtu 0 < 8 * (List.replicate ((s.ethMtu 0 - 28) / 8 + 1) (0 : Word)).length + 28 := by decide +kernel

theorem test_EthernetReception_blocked : let s := (linked Endpoint.dflt).setHif { Hif.dflt with
      sources := [{ ip := 8, fails := 16, openedAt := 0, blockedAt := some 0 }] }
    s.ethBlocked 8 = true ∧ (atTick s 2400000000).ethBlocked 8 = false ∧ (linked Endpoint.dflt).ethBlocked 8 = false := by
  decide +kernel

/-- A count equal to the highest accepted is a failure. -/
theorem test_EthernetReception_count : let s := linked { Endpoint.dflt with inHigh := 5 }
    let d := datagram [BitVec.ofNat 64 (2 ^ 56), 5, 0]
    s.ethMine 0 d = true ∧ d.malformed = false ∧ 8 * d.words.length + 28 ≤ s.ethMtu 0 ∧ s.ethBlocked d.srcIp = false ∧
      3 ≤ d.words.length ∧ bf d.words 0 63 56 = 1 ∧ bf d.words 0 55 48 = 0 ∧ s.epOn 0 = true ∧ s.epPort 0 0 = true ∧
      bf d.words 1 63 32 = s.clock.epoch.toNat ∧ bf d.words 1 31 0 ≤ (s.ep 0).inHigh ∧
      s.hif.sources = [] := by decide +kernel

/-- The sixteenth failure of a source. -/
theorem test_EthernetReception_sixteenth : let l : List Source := [{ ip := 8, fails := 15, openedAt := 0, blockedAt := none }]
    ((linked Endpoint.dflt).setHif { Hif.dflt with sources := l }).hif.sources = l ∧ ready.now < 0 + 2400000000 ∧
      ((linked Endpoint.dflt).setHif { Hif.dflt with sources := l }).ethBlocked 8 = false := by decide +kernel

/-- A tag that verifies: the CMAC of the words before it, under the endpoint's key. -/
theorem test_EthernetReception_tag (body : List Word) (s : State) :
    s.tagOk 0 (body ++ [ethTag (s.checkBytes (s.fld (R.hifEpCfg 0) F.hifEpCfg.keySlot)) body]) = true := by
  simp [State.tagOk]

/-- R301: a tag that is not the key's, so that the forms for a wrong tag are met too. -/
theorem test_EthernetReception_wrongTag : (linked Endpoint.dflt).tagOk 0 [BitVec.ofNat 64 (2 ^ 56), 5, 0] = false := by
  decide +kernel

/-- A count above the highest, the epoch current or stale. -/
theorem test_EthernetReception_epochs : let s := (linked { Endpoint.dflt with inHigh := 5 })
    let t := s.setClock { s.clock with epoch := 1 }
    (s.ep 0).inHigh < bf [BitVec.ofNat 64 (2 ^ 56), 6] 1 31 0 ∧ bf [BitVec.ofNat 64 (2 ^ 56), 6] 1 63 32 = s.clock.epoch.toNat ∧
      bf [BitVec.ofNat 64 (2 ^ 56), 6] 1 63 32 < t.clock.epoch.toNat ∧ (t.ep 0).epochAt = none ∧
      ((linked { Endpoint.dflt with epochAt := some 0 }).ep 0).epochAt = some 0 ∧ t.now < 0 + 4000000 := by decide +kernel

/-- FIFO 5 of pitch 0 goes out on Ethernet. -/
def mailing (e : Endpoint) (l : List Packet) : State :=
  ((((linked e).setBit (R.gshFifoCfg 5) F.gshFifoCfg.enable true).setBit (R.gshFifoCfg 5) F.gshFifoCfg.hif true).setFifos
    [(5, { packets := l, held := [] })]).setBit (R.gshFifoCfg 6) F.gshFifoCfg.enable false

theorem test_EthernetDelivery_send : let p := packet [1] 3
    let s := mailing Endpoint.dflt [p]
    s.epOn 0 = true ∧ s.epPort 0 0 = true ∧ s.ethUp 0 = true ∧ s.ethFifos 0 = [5] ∧ (s.fifo 5).packets = [p] ∧
      (s.ep 0).flight = [] ∧ s.chainUe [1] 3 = false ∧ (s.readChain [1] 3).length = 3 ∧ 3 ≤ s.ethRoom 0 := by decide +kernel

theorem test_EthernetDelivery_ack : let ws : List Word := [BitVec.ofNat 64 (0x1F * 2 ^ 56), 0, BitVec.ofNat 64 (5 * 2 ^ 58)]
    let s := mailing { Endpoint.dflt with inbox := [{ src := 0, chain := [], words := ws }], flight := [(5, 1)] } [packet [1] 3]
    s.firstMessage 0 0x1F = some (0, ws) ∧ s.inboxUe 0 = false ∧ bf ws 0 55 48 = 0 ∧ ws.length = 3 ∧ bf ws 2 63 58 = 5 ∧ s.ownsFifo 0 5 = true ∧
      SMap.look 0 (s.ep 0).flight 5 = 1 ∧ s.acked (BitVec.ofNat 32 (bf ws 2 31 0)) 1 (s.fifo 5).packets = 1 := by decide +kernel

/-- The eighth send is the last. -/
theorem test_EthernetDelivery_again : let s (n : Nat) := mailing { Endpoint.dflt with flight := [(5, 1)], sends := n } []
    let after := 40000 * max 1 ((s 7).fld (R.hifEpCfg 0) F.hifEpCfg.retxMs)
    ((s 7).ep 0).waiting ≠ 0 ∧ ((s 7).ep 0).lastTx + after ≤ (atTick (s 7) after).now ∧
      (atTick (s 7) (after - 1)).now < ((s 7).ep 0).lastTx + after ∧ ((s 7).ep 0).sends < 8 ∧ (s 7).resendPort 0 = some 0 ∧
      8 ≤ ((s 8).ep 0).sends ∧ (s 7).boot.scanHeld = false ∧ (s 7).bit (R.hifEthCfg 0) F.hifEthCfg.enable = true := by
  decide +kernel

def spiLocked : State := ready.setBit R.hifSpiStatus F.hifSpiStatus.locked true
def spiBlocked : State := (ready.setBit R.hifSpiStatus F.hifSpiStatus.blocked true).setHif
  { Hif.dflt with spi := { Spi.dflt with blockedAt := some 0 } }

theorem test_SpiTarget_locks : ready.bit R.hifSpiStatus F.hifSpiStatus.blocked = false ∧ spiBlocked.up = true ∧
    spiBlocked.bit R.hifSpiStatus F.hifSpiStatus.blocked = true ∧ spiBlocked.hif.spi.blockedAt = some 0 ∧
    0 + sTicks 60 ≤ (atTick spiBlocked 2400000000).now ∧ (atTick spiBlocked 2399999999).now < 0 + sTicks 60 ∧
    3 ≤ (ready.setFld R.hifSpiStatus F.hifSpiStatus.failed 3).fld R.hifSpiStatus F.hifSpiStatus.failed ∧
    (ready.setFld R.hifSpiStatus F.hifSpiStatus.failed 2).fld R.hifSpiStatus F.hifSpiStatus.failed < 3 := by decide +kernel

/-- With no nonce every tag is another tag, and with one the CMAC is the tag. -/
theorem test_SpiTarget_tags : (∀ x, ready.hif.spi.nonce ≠ some x) ∧
    (ready.setHif { Hif.dflt with spi := { Spi.dflt with nonce := some 5 } }).hif.spi.nonce = some 5 := ⟨nofun, rfl⟩

/-- R306: a tag of 0 is wrong under the key of the reset state. -/
theorem test_SpiTarget_wrongTag : (cmac (ready.checkBytes (ready.fld R.hifSpiCfg F.hifSpiCfg.keySlot))
    (Word.bytes 5 ++ [0x53, 0x50, 0x49, 0x55])).setWidth 64 ≠ (0 : Word) := by decide +kernel

theorem test_SpiTarget_writes : let addr := R.schReqWait
    let crc := crc32c (0x02 :: (bytesOf 4 addr ++ bytesOf 1 0 ++ [(7 : Word)].flatMap Word.bytes))
    addr < 2 ^ 32 ∧ (BitVec.ofNat 32 crc).toNat = crc ∧ (BitVec.ofNat 32 (crc + 1)).toNat ≠ crc ∧ addr % 8 = 0 ∧
      ready.bit R.hifSpiStatus F.hifSpiStatus.locked = false ∧ placePrivileged addr = .reg addr ∧ (regAt addr).isSome = true ∧
      (hookAt [writeHooks0, writeHooks1, writeHooks2].flatten addr).isNone = true ∧ spiLocked.up = true ∧
      spiLocked.bit R.hifSpiStatus F.hifSpiStatus.locked = true := by decide +kernel

/-- While locked a read may end at 0x10000 and not past it. -/
theorem test_SpiTarget_reads : 0x10000 < 0xFFF8 + 8 * 2 ∧ ¬ 0x10000 < 0xFFF8 + 8 * 1 ∧ 0x050009 % 8 ≠ 0 ∧ 0xFF8 < 0x1000 ∧
    placePrivileged R.schReqWait = .reg R.schReqWait ∧ arr (R.gshBufAlloc 0) 0x20 9 R.schReqWait = none := by decide +kernel

/-! ### Awning, Lantern and presence -/

/-- Instance 1 listens on HF0 with its image in the region of pitch 1, in a state of the PICC. -/
def listening (x : Awning) : State :=
  ((((((running1 { runOf' (stakeOf 0 0x0A 0) 0x0A .active with block := [0, 0, BitVec.ofNat 64 (2 ^ 62)] } 10).setFld
    (R.pitRegion 1) F.pitRegion.size 1).setFld (R.awnImg 1) F.awnImg.pitch 1).setBit (R.awnImg 1) F.awnImg.enable true).setSlices
    [(0, sliceIn .hfListen [])]).setAwning [(1, x)]).setWords 0
    [3, BitVec.ofNat 64 (2 ^ 56), 0, 0, BitVec.ofNat 64 (16 * 2 ^ 48 + 0xE104 * 2 ^ 32), 0]

def inState (p : PiccState) : Awning := { Awning.dflt with field := true, picc := p, level := 1, chain := [5] }

theorem test_PiccSessions_hears : ((listening (inState .idle)).listener 1).isSome = true ∧
    ((listening (inState .idle)).hears 1).isSome = true ∧ ((listening (inState .idle)).awn 1).picc = .idle ∧
    ((listening (inState .halt)).awn 1).picc = .halt ∧ ((listening (inState .active)).awn 1).picc = .active ∧
    ((listening (inState .protocol)).awn 1).picc = .protocol ∧ ((listening (inState .protocol)).awn 1).chain ≠ [] := by
  decide +kernel

/-- 7 kHz beside 13.56 MHz for 64 periods is a field; 1 Hz more, or a period fewer, is none. -/
theorem test_PiccSessions_carrier : let s := listening Awning.dflt
    let o (hz : Int) (n : Nat) : CarrierObs := { x := (2000, 0), left := [], noise := 1, offHz := hz, periods := n }
    (s.listener 1).map (fun r => (s.carrierOk r (o 7000 64), s.carrierOk r (o 7001 64), s.carrierOk r (o 0 63))) =
      some (true, false, false) := by decide +kernel

/-- A UID of seven bytes has two cascade levels; the words read are without error. -/
theorem test_PiccSessions_levels : let s := listening (inState .ready)
    let t := listening { inState .ready with level := 2 }
    let u := piccUid (s.imgWord (s.awnBase 1) 1) (s.awn 1).randomUid
    (∀ k, k < 4 → s.isUe (s.awnBase 1 + 8 * k) = false) ∧
    (s.awn 1).picc = .ready ∧ (s.awn 1).level = 1 ∧ (airBits (withBcc (uidAt u 1))).isPrefixOf
      (airBits (withBcc (uidAt u 1))) = true ∧ 1 < uidLevels u ∧ (t.awn 1).level = 2 ∧
      uidLevels u ≤ 2 ∧ (s.awn 1).level ≠ 2 ∧ [] ≠ uidAt u 1 := by decide +kernel

/-- The CRC_A of a frame's bytes. -/
def crcA (l : List Byte) : BitVec 16 := BitVec.ofNat 16 (crcOf presetCrcA (airBits l))

/-- ISO/IEC 14443-3: HLTA is 50 00 57 CD on the air; a bit in error does not pass. -/
theorem test_PiccSessions_crc : crcA [0x50, 0x00] = 0xCD57 ∧ crcAOk [0x50, 0x00] 0xCD57 = true ∧
    crcAOk [0x50, 0x00] 0xCD56 = false ∧ crcAOk [0xE0, 0x80] (crcA [0xE0, 0x80]) = true ∧
    crcAOk [0xD0, 0x11, 0x00] (crcA [0xD0, 0x11, 0x00]) = true ∧ crcAOk [0xA2] (crcA [0xA2]) = true ∧
    crcAOk [0xA3] (crcA [0xA3]) = true ∧ crcAOk [0xB2] (crcA [0xB2]) = true ∧ crcAOk [0xC2] (crcA [0xC2]) = true ∧
    pcbHead (inState .protocol) 0xA2 = [0xA2] ∧ (inState .protocol).cid = 0 ∧
    (listening (inState .active)).isUe 16 = false ∧ (listening (inState .active)).isUe 24 = false := by decide +kernel

/-- A host commit that is being applied up to the tick before. -/
theorem test_PiccSessions_applying : (listening (inState .ready)).applying 1 = false ∧
    (listening { inState .ready with applyUntil := 11 }).applying 1 = true ∧
    (listening { inState .ready with applyUntil := 10 }).applying 1 = false ∧
    ((listening { inState .protocol with applyUntil := 11 }).hears 1).isSome = true := by decide +kernel

theorem test_PiccSessions_seam : let s := listening { inState .idle with holdUntil := some 10 }
    (s.awn 1).holdUntil = some 10 ∧ 10 ≤ s.now ∧ (atTick s 9).now < 10 := by decide +kernel

/-- The NDEF file of 16 bytes: an update that ends at its end and one that ends past it. -/
theorem test_PiccApdus_files : let s := listening { inState .protocol with file := 2 }
    (s.hears 1).isSome = true ∧ (s.awn 1).picc = .protocol ∧ s.ueIn (s.awnBase 1 + 32) (s.awnBase 1 + 48) = none ∧
      (s.awn 1).file = 2 ∧ s.ndefMax 1 = 16 ∧ s.ueIn (s.awnBase 1 + (0x40 + 16)) (s.awnBase 1 + (0x40 + 16 + 0)) = none ∧
      s.mayUpdate 1 = true ∧ logSize ((s.awn 1).log ++ [(8, [1, 2, 3, 4, 5, 6, 7, 8])]) ≤ 8192 ∧
      8 + ([1, 2, 3, 4, 5, 6, 7, 8] : List Byte).length ≤ s.ndefMax 1 ∧ s.ndefMax 1 < 9 + 8 ∧
      8192 < logSize (List.replicate 512 (0, [0]) ++ [(0, [0])]) ∧
      (s.setWord 40 0xFF).mayUpdate 1 = false := by decide +kernel

/-- One I-block that passes, whatever it asks for. -/
def oneBlock : IBlock := { inf := [0x00], crc := crcA [0x03, 0x00] }

theorem test_PiccApdus_blocks (f : State → Run → State) (r : Run) :
    (listening (inState .protocol)).blocks 1 r f [oneBlock] =
      f ((listening (inState .protocol)).chkFrame r [0x03, 0x00] oneBlock.crc) r := by
  have h : crcAOk [0x03, 0x00] oneBlock.crc = true := by decide +kernel
  have e : pcbHead ((listening (inState .protocol)).awn 1) (0x02 + (!((listening (inState .protocol)).awn 1).block).toNat + 0) ++
      oneBlock.inf = [0x03, 0x00] := by decide +kernel
  have a : (listening (inState .protocol)).applying 1 = false := by decide +kernel
  have p : (listening (inState .protocol)).inProtocol 1 = true := by decide +kernel
  simp only [State.blocks, List.isEmpty_nil, if_true, e, h, a, p]
  simp

/-- A block before the last, one that fails, and an update that is past the file and forbidden. -/
theorem test_PiccApdus_chained : let b := listening { inState .protocol with file := 2 }
    (b.hears 1).isSome = true ∧ (b.awn 1).picc = .protocol ∧
      crcAOk (pcbHead (b.awn 1) (0x02 + (!(b.awn 1).block).toNat + 0x10) ++ [0x00]) (crcA [0x13, 0x00]) = true ∧
      crcAOk (pcbHead (b.awn 1) (0x02 + (!(b.awn 1).block).toNat) ++ [0x00]) 0 = false ∧
      (b.hears 1).any (fun r => decide (blkAwnChk r.block < 48)) = true ∧
      b.ndefMax 1 < 9 + 8 ∧ (b.setWord 40 0xFF).mayUpdate 1 = false ∧ (b.setWord 40 0xFF).ndefMax 1 < 9 + 8 := by
  decide +kernel

/-- No file selected, the CC file, and words of the image that are uncorrectable. -/
theorem test_PiccApdus_others : let s := listening (inState .protocol)
    let t := (listening { inState .protocol with file := 2 }).setEcc [(4, 3), (8, 3)]
    (s.awn 1).file = 0 ∧ ((listening { inState .protocol with file := 1 }).awn 1).file = 1 ∧ (t.awn 1).file = 2 ∧
      t.ueIn (t.awnBase 1 + 32) (t.awnBase 1 + 40) ≠ none ∧ t.ueIn (t.awnBase 1 + 32) (t.awnBase 1 + 48) ≠ none ∧
      (t.setEcc [(8, 3)]).ueIn (t.awnBase 1 + 32) (t.awnBase 1 + 48) = none ∧
      (t.setEcc [(8, 3)]).ueIn (t.awnBase 1 + (0x40 + 0)) (t.awnBase 1 + (0x40 + 0 + min 4 (t.ndefMax 1 - 0))) ≠ none := by
  decide +kernel

theorem test_PiccApdus_pin : let s := listening (inState .protocol)
    let t := listening { inState .protocol with lockUntil := some 10 }
    (s.awn 1).lockUntil = none ∧ (t.awn 1).lockUntil.isSome = true ∧ 10 ≤ t.now ∧ (atTick t 9).now < 10 ∧
      s.ownsKey (s.awnPitch 1) (s.fld (R.awnImg 1) F.awnImg.pinSlot) = false ∧
      2 ≤ (s.setFld (R.awnStatus 1) F.awnStatus.triesLeft 2).triesLeft 1 ∧
      (s.setFld (R.awnStatus 1) F.awnStatus.triesLeft 1).triesLeft 1 ≤ 1 ∧
      (s.setFld (R.pitKeys 1) (63, 0) 1).ownsKey (s.awnPitch 1) (s.fld (R.awnImg 1) F.awnImg.pinSlot) = true ∧
      wordOfBytes (List.replicate 8 0) = (SMap.look 0 s.sec.keys 0).setWidth 64 ∧
      (0xA3 : Byte) ∉ ([0xA4, 0xB0, 0xD6, 0x20] : List Byte) := by decide +kernel

def committing (p : PiccState) (v : Nat) : State := (listening (inState p)).setFld (R.awnCtrl 1) F.awnCtrl.commit v

theorem test_AwningCommits_write : let s := committing .idle 0
    s.masterOn 0 = true ∧ privileged 0 = true ∧ s.awnOn 1 = true ∧ (1 : Word).getLsbD 0 = true ∧ s.commitPending 1 = false ∧
      (committing .idle 1).commitPending 1 = true := by decide +kernel

/-- The first and the last word of the host image, while a commit is pending, in the privileged window and in the pitch's. -/
theorem test_AwningCommits_dropped : let s := ((((committing .idle 1).setBit (R.pitCfg 1) F.pitCfg.enable true).setBit (R.pitCfg 1)
      F.pitCfg.pcie true).setHif { Hif.dflt with numVfs := 1, vfEnable := true, pcieUp := true })
    s.masterOn 0 = true ∧ s.masterOn 4 = true ∧ s.viewOf 0 0x02003000 = .word 0x3000 ∧ s.viewOf 4 0x405038 = .word 0x5038 ∧
      s.awnAt 0x3000 = some 1 ∧ s.awnAt 0x5038 = some 1 ∧ (s.awnRegion 1).1 = 0 ∧ s.commitPending 1 = true := by decide +kernel

/-- Without errors in Groundsheet every word of an image is readable. -/
theorem test_AwningCommits_readable (a : Nat) : (committing .idle 1).ecc = [] ∧ State.reset.isUe a = false :=
  ⟨by decide +kernel, by simp [State.isUe, State.upset, State.reset, SMap.look, ones]⟩

/-- The live gen is 3: a commit that expects it, and one that does not. -/
theorem test_AwningCommits_apply : let s := committing .idle 1
    (s.awn 1).picc = .idle ∧ (s.awn 1).log = [] ∧ s.fld (R.awnCtrl 1) F.awnCtrl.force = 0 ∧
      s.awnGen 1 ≠ s.fld (R.awnCtrl 1) F.awnCtrl.expectGen ∧
      s.awnGen 1 = (s.setFld (R.awnCtrl 1) F.awnCtrl.expectGen 3).fld (R.awnCtrl 1) F.awnCtrl.expectGen ∧
      headerOk (s.imgWord (s.awnBase 1 + 0x3000)) = false ∧ ((committing .ready 1).awn 1).picc = .ready := by decide +kernel

/-- A header of R228 at the ends of its ranges. -/
theorem test_AwningCommits_header : headerOk ((listening (inState .idle)).setWords 0x3000 [0, 0,
    BitVec.ofNat 64 (2 ^ 21 + 8 * 2 ^ 24 + 4 * 2 ^ 28), 0,
    BitVec.ofNat 64 (5 * 2 ^ 48 + 0xE104 * 2 ^ 32 + 2 ^ 16 + 0xF), 0x80] |>.imgWord 0x3000) = true := by decide +kernel

/-- In WATCH with entry 2 alone watched, on HF3. -/
def watchful (l : Lantern) : State :=
  (atTick (ready.setBoot { ready.boot with power := .watch }) 7).setLantern { l with
    aon := [0, 63, 63, BitVec.ofNat 64 (2 ^ 63) ||| Word.put 0 F.lntPort.port 3, 63, 0, 0, BitVec.ofNat 64 (2 ^ 63), 0, 0, 0, 0, 0] }

theorem test_LanternPings_round : let s := watchful { Lantern.dflt with roundAt := 7 }
    s.watching = true ∧ s.lantern.burst = none ∧ s.lantern.queue = [] ∧ s.lantern.roundAt ≤ s.clock.aon ∧
      (atTick s 6).clock.aon < s.lantern.roundAt ∧ s.quiet = false ∧ s.lntPort 2 = some 3 ∧
      ((List.range 4).filter fun e => (s.lnt (1 + e)).getLsbD 63 && (s.lntPort e).isSome) = 2 :: [] := by decide +kernel

theorem test_LanternPings_confirm : let s := watchful { Lantern.dflt with confirm := [(2, 7)] }
    s.watching = true ∧ s.lantern.burst = none ∧ s.quiet = false ∧ s.lntPort 2 = some 3 ∧ s.lantern.confirm = [(2, 7)] ∧
      7 ≤ s.clock.aon ∧ (atTick s 6).clock.aon < 7 := by decide +kernel

/-- Words that a ping of entry 2 took: a valid baseline of 0 and thresholds of 1. -/
def pinged (at_ : Nat) : PingLatch :=
  { cfg := 0, port := BitVec.ofNat 64 (2 ^ 63) ||| Word.put 0 F.lntPort.port 3, base := BitVec.ofNat 64 (2 ^ 63), at_ := at_ }

/-- In WATCH, in tick 9,000, a burst of entry 2 that began in a tick. -/
def bursting (at_ : Nat) : State :=
  atTick (watchful { Lantern.dflt with burst := some 2, pings := [(2, pinged at_)] }) 9000

/-- An amplitude that differs by the threshold of 1 is detected; a ping lasts ping_us, to the tick. -/
theorem test_LanternPings_near : let s := bursting 0
    let l := pinged 0
    s.watching = true ∧ s.lantern.aon.length = 13 ∧ s.lantern.burst = some 2 ∧ s.lntNear 2 = false ∧ 2 ∉ s.lantern.rebase ∧
      s.quiet = false ∧ SMap.find s.lantern.pings 2 = some l ∧
      (l.base.getLsbD 63 && (decide (max 1 (Word.get l.port F.lntPort.thrAmp) ≤
        (((1 : BitVec 12).toNat : Int) - Word.get l.base F.lntBase.amp).natAbs))) = true ∧
      Word.get l.cfg F.lntCfg.confirm = 0 ∧ Word.get (Word.put l.cfg F.lntCfg.confirm 1) F.lntCfg.confirm = 1 ∧
      SMap.look 0 s.lantern.runs 2 = 0 ∧ usTicks (pingUs l.port) ≤ s.clock.aon ∧
      (bursting (9001 - usTicks (pingUs l.port))).clock.aon <
        (9001 - usTicks (pingUs l.port)) + usTicks (pingUs l.port) := by decide +kernel

/-- A ping of 64 µs of a stake that ends now, of an entry without a baseline, and a baseline that a host has written since. -/
theorem test_LanternPings_stake : let x := exchOf (.ping 64)
    let r := { runOf' (stakeOf 0 0x0B 3) 0x0B .active with exch := some x, block := [0, 0, 64] }
    let l := { pinged 0 with base := 0 }
    let s := (running1 r 2560).setLantern { Lantern.dflt with pings := [(2, l)] }
    let t := s.setReg (R.lntBase 2) (BitVec.ofNat 64 (2 ^ 63))
    SMap.find s.lantern.pings 2 = some l ∧ s.watching = false ∧ Word.get l.port F.lntPort.port = 3 ∧ s.runAt 3 = some r ∧
      2 ∉ s.lantern.rebase ∧ r.exch = some x ∧ x.cmd.isPing = true ∧ x.start + usTicks (bf r.block 2 5 0) ≤ s.now ∧
      s.lnt (5 + 2) = l.base ∧ l.base.getLsbD 63 = false ∧ t.lnt (5 + 2) ≠ l.base ∧ t.lnt (5 + 2) = (pinged 0).base ∧
      (pinged 0).base.getLsbD 63 = true := by decide +kernel

/-- Entry 0 of the table of pitch 0, PRESENT since tick 0, at the last tick that it stays and at the next. -/
def presence (state tick : Nat) : State :=
  atTick ((ready.setFld (R.sngPtRegion 0) F.sngPtRegion.size 1).setWord (entryAddr 0 + 24) (Word.put 0 E.state state)) tick

theorem test_PresenceSwept : let last := (ready.depart 0)
    (presence 2 last).up = true ∧ (presence 2 last).tablePitch 0 = some 0 ∧ (presence 2 last).entryUe 0 = false ∧
      (presence 2 last).now ≤ ((presence 2 last).entryW 0 2).toNat + (presence 2 last).depart 0 ∧
      ((presence 2 (last + 1)).entryW 0 2).toNat + (presence 2 (last + 1)).depart 0 < (presence 2 (last + 1)).now ∧
      (presence 2 (last + 1)).entryFld 0 E.state = 2 ∧ (presence 1 (last + 1)).entryFld 0 E.state ≠ 2 ∧
      (presence 0 (last + 1)).entryFld 0 E.state = 0 ∧
      ((presence 2 0).setEcc [(entryAddr 0 / 8, 3)]).entryUe 0 = true := by decide +kernel

/-! ### Spares, ageing and flash -/

/-- A loaded plan with a calibration stake on the HF spare; rotation is on, and HF has this rotor. -/
def rotating (x : Rotor) (t : Nat) : State :=
  (((atTick ((planned (stakeOf 0 0x20 32)).setBit R.schStatus F.schStatus.running false) t).setBit R.hltCfg F.hltCfg.rotHf
    true).setHlt { Hlt.dflt with hf := x }).setSpare .hf F.hltSpare.port 0xFF

theorem test_SparesMove_due : let s := rotating Rotor.dflt 0
    let after := s.rotTicks .hf
    s.up = true ∧ s.rotor .hf = Rotor.dflt ∧ s.rotates .hf = true ∧ s.planHasCal .hf = true ∧ s.spareReason .hf ≠ 2 ∧
      s.turnOf .hf = some 0 ∧ Rotor.dflt.lastStart + after ≤ (atTick s after).now ∧
      (atTick s (after - 1)).now < Rotor.dflt.lastStart + after := by decide +kernel

theorem test_SparesMove_rotate : isSlice (Word.get (Word.put 0 F.hltCtrl.id 80) F.hltCtrl.id) = true ∧
    (ready.slice 80).failed = false ∧ (BitVec.ofNat 64 (2 ^ 63)).getLsbD 63 = true ∧ (0 : Word).getLsbD 63 = false := by
  decide +kernel

/-- A seam of 240 ticks ends in the tick of the handover, and one that is a tick too long ago does not qualify. -/
theorem test_SparesMove_handover : let r : Rotation := { slice := 4, handed := false, handedAt := 0, calibrated := false, calAt := none }
    let s := rotating { Rotor.dflt with waiting := [3] } 100
    let t := rotating { Rotor.dflt with rot := some r } 100
    s.coveredPort .hf = none ∧ (s.rotor .hf).xfer = none ∧ (s.rotor .hf).spareFailed = false ∧
      (s.rotor .hf).waiting = 3 :: [] ∧ s.qualifies 3 0 = true ∧ (t.rotor .hf).rot = some r ∧ r.slice ≠ spareOf .hf ∧
      t.qualifies 4 0 = true ∧ t.qualifies 4 1 = false ∧
      (s.setFld R.schSeamMin F.schSeamMin.seam 65535).qualifies 3 0 = true ∧
      ((planned (stakeOf 0 0x01 3)).qualifies 3 0) = false := by decide +kernel

theorem test_SparesMove_return : let r : Rotation := { slice := 4, handed := true, handedAt := 0, calibrated := true, calAt := some 0 }
    let s := (rotating { Rotor.dflt with rot := some r } 100).setSpare .hf F.hltSpare.port 4
    (s.rotor .hf).rot = some r ∧ s.coveredPort .hf = some r.slice ∧ (s.rotor .hf).xfer = none ∧ s.spareReason .hf ≠ 2 ∧
      s.qualifies r.slice 0 = true ∧ s.qualifies r.slice 1 = false ∧ (s.slice r.slice).failed = false ∧
      ((s.setSlices [(4, { Slice.dflt with failed := true })]).slice r.slice).failed = true := by decide +kernel

theorem test_SparesMove_transfer : let x : Transfer := { port := 4, toSpare := true, start := 0, cover := false, fellAt := none }
    let s := rotating { Rotor.dflt with xfer := some x } 240
    (s.rotor .hf).xfer = some x ∧ isPort x.port = true ∧ kindOf x.port = .hf ∧ x.start + 240 ≤ s.now ∧
      (atTick s 239).now < x.start + 240 := by decide +kernel

/-- The register of CRC-32C after words. -/
def crcRun (r : Nat) (l : List Word) : Nat :=
  ((l.flatMap Word.bytes).flatMap (byteBits true)).foldl (crcBit 32 0x1EDC6F41) r

theorem crcRun_append (r : Nat) (a b : List Word) : crcRun r (a ++ b) = crcRun (crcRun r a) b := by
  simp [crcRun, List.flatMap_append, List.foldl_append]

/-- A slot saved in tick 5 under generation 1. -/
def saved : Slot := { words := List.replicate 30 0 ++ [5, 0x1BAF0CBE8] }

theorem saved_valid : saved.valid = true := by
  have h1 : crcRun 0xFFFFFFFF (List.replicate 8 0) = 422112319 := by decide +kernel
  have h2 : crcRun 422112319 (List.replicate 8 0) = 618208239 := by decide +kernel
  have h3 : crcRun 618208239 (List.replicate 8 0) = 4091630545 := by decide +kernel
  have h4 : crcRun 4091630545 (List.replicate 6 0 ++ [5]) = 3895259298 := by decide +kernel
  have hs : saved.words.take 31 = List.replicate 8 0 ++ (List.replicate 8 0 ++ (List.replicate 8 0 ++
      (List.replicate 6 0 ++ [5]))) := by decide +kernel
  have hr : crcRun 0xFFFFFFFF (saved.words.take 31) = 3895259298 := by
    rw [hs, crcRun_append, h1, crcRun_append, h2, crcRun_append, h3, h4]
  have hc : crc32cWords (saved.words.take 31) = 3136343016 := by
    have e : ∀ l, crc32cWords l = reflectW 32 (crcRun 0xFFFFFFFF l) ^^^ 0xFFFFFFFF := fun _ => rfl
    rw [e, hr]; decide +kernel
  have hw : Word.get (saved.words.getD 31 0) (31, 0) = 3136343016 := by decide +kernel
  have hl : saved.words.length = 32 := by decide +kernel
  rw [Slot.valid, hw, hc, hl]; decide

/-- Port 64 with that slot as its slot A; slot B has an uncorrectable word, and so has A where `bad`. -/
def slotted (bad : Bool) (seam : Nat) : State :=
  (((((atTick ready 1000).putCkSlot 128 saved.words).setHlt { Hlt.dflt with gens := [(64, 1)] }).setEcc
    ((if bad then [(ckAddr 128 / 8, 3)] else []) ++ [(ckAddr 129 / 8, 3)])).setSch { Sch.dflt with lastBoundary := seam })

theorem slotted_valid (bad : Bool) (seam : Nat) :
    (slotted bad seam).ckValid 128 = !bad ∧ (slotted bad seam).ckValid 129 = false := by
  have h0 : ∀ b, (slotted b 0).ckSlot 128 = saved := by decide +kernel
  have u0 : ∀ b, (slotted b 0).anyUe (ckAddr 128) 32 = b := by decide +kernel
  have v0 : ∀ b, (slotted b 0).anyUe (ckAddr 129) 32 = true := by decide +kernel
  have h : (slotted bad seam).ckSlot 128 = saved := h0 bad
  have u : (slotted bad seam).anyUe (ckAddr 128) 32 = bad := u0 bad
  have v : (slotted bad seam).anyUe (ckAddr 129) 32 = true := v0 bad
  simp [State.ckValid, h, u, v, saved_valid]

/-- No valid slot; one that is of an earlier seam, and one of the present seam. -/
theorem test_SparesMove_slots (bad : Bool) (seam : Nat) :
    (slotted bad seam).bestSlot 64 = if bad then none else some saved := by
  have h0 : ∀ b, (slotted b 0).ckSlot 128 = saved := by decide +kernel
  have h : (slotted bad seam).ckSlot 128 = saved := h0 bad
  have w := slotted_valid bad seam
  cases bad <;> simp_all [State.bestSlot]

theorem test_SparesMove_checkpoint : let s (a : Nat) := slotted false a
    (s 9).up = true ∧ isPort 64 = true ∧ ((s 9).rotor (kindOf 64)).xfer = none ∧ (s 9).inService 64 = true ∧
      (s 9).qualifies 64 0 = true ∧ (s 9).seamNow 64 = some (9, 40001000) ∧ (saved.words.getD 30 0).toNat < 9 ∧
      (s 5).seamNow 64 = some (5, 40001000) ∧ 0 < (saved.words.getD 30 0).toNat ∧ 5 ≤ (saved.words.getD 30 0).toNat := by
  decide +kernel

theorem test_SlicesFail_fail : isSlice 80 = true ∧ (ready.slice 80).failed = false ∧
    ((ready.setSlices [(80, { Slice.dflt with failed := true })]).slice 80).failed = true := by decide +kernel

/-- The calibration stake of the HF spare on itself, at the tick at which its two runs have ended. -/
def calibrating : State :=
  let r : Rotation := { slice := 32, handed := false, handedAt := 0, calibrated := false, calAt := none }
  ((rotating { Rotor.dflt with rot := some r } 160016).setRuns [runOf' (stakeOf 0 0x20 32) 0x20 .active]).setSlices
    [(32, sliceIn .hfCal [])]

theorem test_SlicesFail_runs : calibrating.up = true ∧
    calibrating.runAt (spareOf .hf) = some (runOf' (stakeOf 0 0x20 32) 0x20 .active) ∧
    (runOf' (stakeOf 0 0x20 32) 0x20 .active).template = 0x20 ∧ calibrating.calTarget .hf 0 = some 32 ∧
    0 + 160016 ≤ calibrating.now ∧ isSlice 32 = true ∧ kindOf 32 = .hf ∧ (calibrating.slice 32).failed = false ∧
    (calibrating.slice 32).st = calState 32 := by
  decide +kernel

/-- The factory values of a slice as the quantities of a run, with settling terms. -/
def factoryRun (n : Nat) (terms : List Int) : List Int :=
  ((List.range 16).map (Config.factoryValue [] n)) ++ terms

theorem factoryRun_getD (n : Nat) (l : List Int) (i : Nat) (h : i < 16) : (factoryRun n l).getD i 0 = Config.factoryValue [] n i := by
  interval_cases i <;> rfl

theorem dist_self (q : Quantity) (a : Int) : q.dist a a = 0 := by
  cases h : q.period <;> simp [Quantity.dist, h]

theorem inRange_self (q : Quantity) (a : Int) : q.inRange a a = true := by
  cases h : q.range <;> simp [Quantity.inRange, h, dist_self]

theorem hf_index : ∀ x ∈ (List.range 16).zip (quantities .hf), x.1 < 16 := by decide +kernel

/-- Only the settling terms of such a run can lie outside their range. -/
theorem outOfRange_factory (t : Int) : ready.outOfRange 32 (factoryRun 32 [t]) = if t ≤ 3200 then [] else [t] := by
  have h : (((List.range 16).zip (quantities .hf)).filterMap fun x =>
      if x.2.inRange (Config.factoryValue [] 32 x.1) ((factoryRun 32 [t]).getD x.1 0) then none
      else some ((factoryRun 32 [t]).getD x.1 0)) = [] :=
    List.filterMap_eq_nil_iff.mpr fun x hx => by rw [factoryRun_getD 32 [t] x.1 (hf_index x hx), inRange_self]; rfl
  refine (congrArg (fun l => List.append l _) h).trans ?_
  show (([(0, 800), (1, 200), (2, 400)] : List (Nat × Nat)).filterMap fun x =>
    if (factoryRun 32 [t]).getD (16 + x.1) 0 ≤ 4 * (x.2 : Int) then none else some ((factoryRun 32 [t]).getD (16 + x.1) 0)) = _
  have e : ∀ i, (factoryRun 32 [t]).getD (16 + i) 0 = [t].getD i 0 := fun i => by
    simp only [factoryRun, List.getD_eq_getElem?_getD]
    rw [List.getElem?_append_right (by simp)]; simp
  simp only [e]
  by_cases ht : t ≤ 3200 <;> simp [ht]

/-- A settling term up to four times its nominal value, and one above. -/
theorem test_SlicesFail_inRange (t : Int) (ht : t ≤ 3200) : ready.runInRange 32 (factoryRun 32 [t]) = true := by
  simp [State.runInRange, outOfRange_factory, ht]

theorem test_SlicesFail_outOfRange : ready.runInRange 32 (factoryRun 32 [3201]) = false := by
  simp [State.runInRange, outOfRange_factory]

theorem quantities_agree (t u : Int) : (((List.range 16).zip (quantities .hf)).filterMap fun x =>
    if x.2.dist ((factoryRun 32 [t]).getD x.1 0) ((factoryRun 32 [u]).getD x.1 0) ≤ x.2.tol then none
    else some (x.2.row, (factoryRun 32 [t]).getD x.1 0, (factoryRun 32 [u]).getD x.1 0)) = [] :=
  List.filterMap_eq_nil_iff.mpr fun x hx => by
    rw [factoryRun_getD 32 [t] x.1 (hf_index x hx), factoryRun_getD 32 [u] x.1 (hf_index x hx), dist_self]; simp

/-- Settling terms of 0 and 40 agree, and of 0 and 41 do not. -/
theorem test_SlicesFail_agree : firstDisagreement .hf (factoryRun 32 [0]) (factoryRun 32 [40]) = none ∧
    firstDisagreement .hf (factoryRun 32 [0]) (factoryRun 32 [41]) = some (13, 0, 41) := by
  constructor
  · exact (congrArg (fun l => (List.append l _).head?) (quantities_agree 0 40)).trans (by decide +kernel)
  · exact (congrArg (fun l => (List.append l _).head?) (quantities_agree 0 41)).trans (by decide +kernel)

/-- The stake's own disagree_max and step_mode count (R25). -/
theorem test_SlicesFail_limit : let run := { runOf' (stakeOf 0 0x20 32) 0x20 .active with
      cfg := [(R.hltCfg, Word.put 0 F.hltCfg.disagreeMax 2)] }
    let s (d : Nat) := calibrating.setFld (R.hltSliceStatus 32) F.hltSliceStatus.disagree d
    (s 0).fld (R.hltSliceStatus 32) F.hltSliceStatus.disagree + 1 < max 1 (run.fld R.hltCfg F.hltCfg.disagreeMax) ∧
      max 1 (run.fld R.hltCfg F.hltCfg.disagreeMax) ≤ (s 1).fld (R.hltSliceStatus 32) F.hltSliceStatus.disagree + 1 ∧
      run.bit R.hltCfg F.hltCfg.stepMode = false := by
  decide +kernel

theorem test_SlicesFail_slew : let r := runOf' (stakeOf 0 0x01 0) 0x01 .active
    let s := (running1 r 40000).setSlices [(0, { sliceIn .field [] with corr := [0], target := [1] })]
    s.now % 40000 = 0 ∧ (s.slice 0).slewAt ≠ some s.now ∧ (s.slice 0).corr ≠ (s.slice 0).target ∧ (s.runOf 0).isSome = true ∧
      (atTick s 40001).now % 40000 ≠ 0 ∧ ready.runOf 0 = none := by decide +kernel

/-- Counts that leave a whole number and one that does not. -/
theorem test_AgeingAndLogbook_counts : [((999999 : Nat), (1000000 : Nat))].getD 0 (0, 0) = (999999, 1000000) ∧ 0 < 1000000 ∧
    1000000 * (1000000 - 999999) % 1000000 = 0 ∧ 1000000 * (3 - 2) % 3 ≠ 0 := by decide +kernel

/-- The first period of 10 s, of 10 ms and of 24 h ends at its last tick. -/
theorem test_AgeingAndLogbook_periods : [sTicks 10, msTicks 10, sTicks 86400].all (fun n =>
    decide ((atTick ready n).periods n = 1) && decide ((atTick ready (n - 1)).periods n = 0)) = true ∧
    ready.hlt.ageDone = 0 ∧ ready.hlt.avsDone = 0 ∧ ready.hlt.summaryDone = 0 := by decide +kernel

/-- Code 27 moves, code 28 stays; lo not below hi acts as hi − 1. -/
theorem test_AgeingAndLogbook_avs : let s := (ready.setFld R.hltAvs F.hltAvs.lo 5).setFld R.hltAvs F.hltAvs.hi 5
    (s.setFld R.hltAvs F.hltAvs.code 27).fld R.hltAvs F.hltAvs.code < 28 ∧
      28 ≤ (s.setFld R.hltAvs F.hltAvs.code 28).fld R.hltAvs F.hltAvs.code ∧
      (3999 : Int) < 1000 * (if s.fld R.hltAvs F.hltAvs.hi ≤ s.fld R.hltAvs F.hltAvs.lo
        then (s.fld R.hltAvs F.hltAvs.hi : Int) - 1 else s.fld R.hltAvs F.hltAvs.lo) ∧
      1000 * (if s.fld R.hltAvs F.hltAvs.hi ≤ s.fld R.hltAvs F.hltAvs.lo
        then (s.fld R.hltAvs F.hltAvs.hi : Int) - 1 else s.fld R.hltAvs F.hltAvs.lo) ≤ (4000 : Int) := by decide +kernel

def rec42 : LogRec := { type := 0x42, payload := [28], tries := 0 }

theorem test_AgeingAndLogbook_deferred : let s := (atTick ready 2400000000).setHlt { Hlt.dflt with deferred := [rec42], lastLog := [(0x42, 0)] }
    s.up = true ∧ s.hlt.deferred = [rec42] ∧ rec42.type = 0x42 ∧ SMap.find s.hlt.lastLog (0x42 : BitVec 8).toNat = some 0 ∧
      0 + 2400000000 ≤ s.now ∧ (atTick s 2399999999).now < 0 + 2400000000 := by decide +kernel

/-- The last slot of the logbook is blank, and the sector after the one it lies in is the first. -/
theorem test_AgeingAndLogbook_log : let s := ready.setHlt { Hlt.dflt with logQueue := [rec42], logSlot := 4095 }
    s.logReady = true ∧ s.nextLog = some rec42 ∧ s.blankSlot 4096 s.hlt.logSlot = some 4095 ∧ s.hlt.epochDue = false ∧
      s.noLog = false ∧ (s.hlt.logSlot / 64 + 1) % 64 = 0 := by decide +kernel

/-- The bytes on either side of the logbook may be programmed, its first and last may not. -/
theorem test_FlashCommands_regions : ready.cfgServedTo 3 = true ∧ ready.bit R.cfgFlashStatus F.cfgFlashStatus.busy = false ∧
    (ready.setBit R.cfgFlashStatus F.cfgFlashStatus.busy true).bit R.cfgFlashStatus F.cfgFlashStatus.busy = true ∧
    (0x007FFFFF : BitVec 32).toNat < 0x00800000 ∧ 0x00840000 ≤ (0x00840000 : BitVec 32).toNat ∧
    0x00800000 ≤ (0x00800000 : BitVec 32).toNat ∧ (0x0083FFFF : BitVec 32).toNat < 0x00840000 ∧
    (Instr.flashErase 0 5, 3) ∈ [(Instr.flashRead 0 5, 1), (.flashProgram 0 5, 2), (.flashErase 0 5, 3)] := by decide +kernel

theorem test_FlashCommands_done : let s := ready.setBoot { ready.boot with flashCmd := some (2, 100) }
    s.boot.flashCmd = some (2, 100) ∧ s.blankPage 64 = true ∧ (s.setFlash [(127, 0)]).blankPage 64 = false ∧
      (s.setFlash [(128, 0)]).blankPage 64 = true ∧ 64 = 100 / 64 * 64 := by decide +kernel

/-! ### Power, reset and boot -/

def peaked : State := (ready.setBit R.schStatus F.schStatus.loaded true).setFld R.schPeakMw F.schPeakMw.peak 6000

/-- A ceiling equal to the peak is taken, and one below it is refused. -/
theorem test_PowerStates_ceiling : peaked.up = true ∧ peaked.bit R.schStatus F.schStatus.loaded = true ∧
    clamp 5000 45000 (Word.get (Word.put 0 F.pwrCeil.ceilMw 5999) F.pwrCeil.ceilMw) < peaked.fld R.schPeakMw F.schPeakMw.peak ∧
    peaked.fld R.schPeakMw F.schPeakMw.peak ≤ clamp 5000 45000 (Word.get (Word.put 0 F.pwrCeil.ceilMw 6000) F.pwrCeil.ceilMw) ∧
    peaked.bit R.schStatus F.schStatus.swapPending = false := by decide +kernel

theorem test_PowerStates_window : ready.ceiling < (45001 : BitVec 32).toNat ∧ (5000 : BitVec 32).toNat ≤ ready.ceiling ∧
    ready.running = false ∧ ready.locked = false ∧ peaked.boot.entering = none ∧
    (ready.setBit R.schStatus F.schStatus.running true).running = true ∧ State.reset.up = false := by decide +kernel

theorem test_PowerStates_entry : let s := ready.setBoot { ready.boot with entering := some .watch }
    s.boot.entering = some .watch ∧ s.up = true ∧ s.running = false ∧ s.runs = [] ∧ s.hlt.epochDue = false ∧
      s.hlt.logQueue = [] ∧ s.bit R.cfgFlashStatus F.cfgFlashStatus.busy = false ∧
      (s.setHlt { Hlt.dflt with epochDue := true }).noLog = false := by decide +kernel

def asleepAt (p : PowerState) : State := atTick (ready.setBoot { ready.boot with power := p }) 40000000

theorem test_ResetSources_sleep : (asleepAt .hibernate).boot.power = .hibernate ∧ (asleepAt .watch).asleep = true ∧
    (let s := (asleepAt .watch).setFld R.pwrRtcAlarm F.pwrRtcAlarm.alarm 1
     s.fld R.pwrRtcAlarm F.pwrRtcAlarm.alarm ≠ 0 ∧ s.clock.aon / 40000000 % 2 ^ 32 = s.fld R.pwrRtcAlarm F.pwrRtcAlarm.alarm) ∧
    ready.asleep = false ∧ State.reset.boot.seq.isSome = true := by decide +kernel

/-- The longer of 4 major cycles and 100 ms, at its last tick and the one before. -/
theorem test_ResetSources_watchdog : let s := (planned (stakeOf 0 0x01 0)).setFld R.schCycleTicks F.schCycleTicks.ticks 1000001
    s.up = true ∧ s.running = true ∧ s.sch.lastBoundary + max (4 * s.fld R.schCycleTicks F.schCycleTicks.ticks) 4000000 ≤
      (atTick s 4000004).now ∧
      s.sch.lastBoundary + max (4 * s.fld R.schCycleTicks F.schCycleTicks.ticks) 4000000 > (atTick s 4000003).now := by
  decide +kernel

def softWord : Word := Word.put (Word.put 0 F.rstCtrl.key 0x5752) F.rstCtrl.swReset 1

theorem test_ResetSources_software : Word.get softWord F.rstCtrl.key = 0x5752 ∧ Word.get softWord F.rstCtrl.swReset = 1 ∧
    Word.get (0xFF : Word) F.rstCtrl.key ≠ 0x5752 := by decide +kernel

/-- All eight blocks idle, and a Guyline node that holds a lane. -/
theorem test_ResetSources_blocks : (List.range 8).all (fun i => ready.blockIdle i && (0xFF : Word).getLsbD i) = true ∧
    (ready.setReg R.guyLaneHeld 1).blockIdle 1 = false := by decide +kernel

def seqAt (n : Nat) : ResetSeq :=
  { cold := true, step := n, zeroed := false, held := [], cal := [], epoch := 5, sfdp := true, at_ := 0, causes := [.por], samples := true }

def booting (n : Nat) : State := State.reset.setBoot { State.reset.boot with seq := some (seqAt n) }

/-- A cold sequence before and after its image, a warm one, and no sequence; a sequence that has still to sample the straps, and one
that has. -/
theorem test_ResetSources_balls : (booting 6).bootBalls = some true ∧ (booting 7).bootBalls = none ∧
    ((booting 6).setBoot { (booting 6).boot with seq := some { seqAt 6 with cold := false } }).bootBalls = some false ∧
    ready.bootBalls = none ∧ (seqAt 2).samples = true ∧ (seqAt 2).step < 3 ∧ ¬ (seqAt 3).step < 3 := by decide +kernel

theorem test_BootSequence_steps : (booting 3).boot.seq = some (seqAt 3) ∧ (seqAt 3).held = [] ∧
    (booting 8).boot.seq = some (seqAt 8) ∧ [Cause.thermal] ≠ [] ∧ (seqAt 2).samples = true ∧
    ({ seqAt 2 with samples := false } : ResetSeq).samples = false := by decide +kernel

/-- The order of steps 4 and 5, cold and warm. -/
theorem test_BootSequence_order : (seqAt 3).cold = true ∧ ({ seqAt 5 with cold := false } : ResetSeq).cold = false ∧
    ({ seqAt 5 with cold := false } : ResetSeq).step = 5 := by decide +kernel

/-- Runs that agree: those of a slice of which none are given. -/
theorem test_BootSequence_agree : ∀ n ∈ allSlices,
    firstDisagreement (kindOf (calOf [] n).slice) (calOf [] n).a (calOf [] n).b = none := by decide +kernel

/-- The settling terms of slice 0 disagree, and those of no other slice. -/
theorem test_BootSequence_disagree :
    let l : List CalRun := [{ slice := 0, a := List.replicate 16 0 ++ [41], b := [], headroom := 0 }]
    let bad (n : Nat) := firstDisagreement (kindOf (calOf l n).slice) (calOf l n).a (calOf l n).b
    0 ∈ allSlices ∧ bad 0 = some (13, 41, 0) ∧ allSlices.all (fun n => decide (n = 0) || (bad n).isNone) = true := by
  decide +kernel

/-- With BOOTSEL 0 to 3 an empty flash and an empty EEPROM give no image that passes. -/
theorem test_BootSequence_sources : (booting 5).fld R.rstStraps F.rstStraps.bootsel = 0 ∧
    ((booting 5).setFld R.rstStraps F.rstStraps.bootsel 3).fld R.rstStraps F.rstStraps.bootsel = 3 ∧
    structCode ((booting 5).sourceImage true [] 0) ≠ 1 ∧ structCode ((booting 5).sourceImage true [] 1) ≠ 1 ∧
    structCode ((booting 5).sourceImage true [] 2) ≠ 1 := by decide +kernel

/-- A header of the least size whose structure is right; its image is short of a FACTORY record. -/
def leastImage : List Word :=
  [BitVec.ofNat 64 (0x444E4D470001 * 2 ^ 16 + 1), 32968, 0, 0, 0, 0, 0, 0] ++ List.replicate 4113 0

theorem test_BootSequence_structure : magicOk leastImage = true ∧ imageBytes leastImage = 32968 ∧
    leastImage.length = 32968 / 8 := by decide +kernel

/-- An image that fails with BOOTSEL on its source, and with BOOTSEL on the other slot. -/
theorem test_BootSequence_fails : let s := (booting 6).setBoot { (booting 6).boot with image := some ([0, 0, 3], 0) }
    s.boot.image = some ([0, 0, 3], 0) ∧ s.imageCode (some [0, 0, 3]) ≠ 1 ∧ s.fld R.rstStraps F.rstStraps.bootsel = 0 ∧
      structCode (s.sourceImage true [] 1) ≠ 1 ∧
      (s.setFld R.rstStraps F.rstStraps.bootsel 1).fld R.rstStraps F.rstStraps.bootsel = 1 := by decide +kernel

/-- An image without sections; one that keeps every check rests on the verdicts of Config. -/
theorem test_BootSequence_apply : let s := (booting 6).setBoot { (booting 6).boot with image := some ([0, 0, 3], 1) }
    s.boot.image = some ([0, 0, 3], 1) ∧ imageRegs [0, 0, 3] = [] ∧ Word.get (([0, 0, 3] : List Word).getD 2 0) (0, 0) = 1 := by
  decide +kernel

/-- An image of one REG pair: one that starts a reset, and one that does not. -/
def pairImage (off : Nat) (v : Word) : List Word :=
  [1, 0, 3, 0, 0, 0, 0, 0, BitVec.ofNat 64 (2 * 2 ^ 56 + 2), BitVec.ofNat 64 off, v]

theorem test_BootSequence_pairs :
    let s (ws : List Word) := ((booting 6).setBoot { (booting 6).boot with image := some (ws, 1), seq := none }).applyRegs ws
    (s (pairImage R.rstCtrl softWord)).boot.seq.isSome = true ∧ (s (pairImage R.schReqWait 5)).boot.seq = none ∧
      (s (pairImage R.schReqWait 5)).reg R.schReqWait = 5 ∧
      (imageRegs (pairImage R.schReqWait 5)).all (fun p =>
        (hookAt [writeHooks0, writeHooks1, writeHooks2].flatten p.1).isNone) = true := by decide +kernel

theorem test_BootSequence_epoch : newestType (booting 4).logRecords 0x01 = none := by decide +kernel

theorem test_BootSequence_load : let s := (booting 6).setBoot { (booting 6).boot with windowsOnly := true }
    s.boot.windowsOnly = true ∧ s.fld R.cfgStatus F.cfgStatus.result ≠ 1 ∧ s.imageCode (s.sourceImage false [] 3) ≠ 1 ∧
      (s.setFld R.cfgStatus F.cfgStatus.result 1).fld R.cfgStatus F.cfgStatus.result = 1 ∧ s.boot.applied = false ∧
      (booting 6).up = false ∧ (booting 6).boot.windowsOnly = false ∧ (seqAt 5).step ≠ 6 ∧
      (1 : PMaster).val < 2 ∧ 2 ≤ (3 : PMaster).val := by
  decide +kernel

/-! ### Guyline, trace and test -/

def guylined (g : Guy) (t : Nat) : State :=
  (((atTick ready t).setBit R.guyCfg F.guyCfg.enable true).setFld R.guyCfg F.guyCfg.nodeId 3).setGuy g

def beaconOf (src : BitVec 5) : BeaconFrame :=
  { src := src, siteTime := 0, epoch := 0, number := 0, nextTicks := 4000000, roll := 0, grants := List.replicate 64 3 }

def heard : LastBeacon := { src := 1, at_ := 0, endAt := 3008, nextTicks := 1000, number := 1, grants := [3] }

/-- A BEACON of a lower node, of this one's own identifier, and of a higher one. -/
theorem test_GuylineNode_on : let s := guylined Guy.dflt 0
    s.guyOn = true ∧ s.guyMaster = false ∧ s.nodeId = 3 ∧ (beaconOf 2).src.toNat < s.nodeId ∧ s.nodeId < (beaconOf 4).src.toNat ∧
      (beaconOf 3).src.toNat = s.nodeId ∧ (s.setBit R.guyCfg F.guyCfg.masterOk true).cfgBit R.guyCfg F.guyCfg.masterOk = true ∧
      (beaconOf 3).grants.length = 64 ∧ ({ beaconOf 3 with grants := [] } : BeaconFrame).grants.length ≠ 64 ∧
      ready.guyOn = false := by decide +kernel

/-- A frame of type 0x03 without a body whose CRC-32C passes, and one whose CRC has a bit in error. -/
theorem test_GuylineNode_crc : guyCrcOk 0x03 0x01 (bytesOf 4 (crc32c [0x03, 0x01])) = true ∧
    guyCrcOk 0x03 0x01 (bytesOf 4 (crc32c [0x03, 0x01] ^^^ 1)) = false ∧ guyCrcOk 0x03 0x01 [] = false := by decide +kernel

/-- A BEACON is 98 bytes from its preamble on, and an ACK 25 (R374). -/
theorem test_GuylineNode_lengths : (beaconBytes (beaconOf 3)).length = 98 ∧
    (ackBytes { src := 3, siteTime := 0, number := 0, lanes := 0, masterOk := true }).length = 25 := by decide +kernel

theorem test_GuylineNode_due :
    let g := { Guy.dflt with txAt := some 0, ackAt := some 3136, last := some heard, retryAt := some 3136, grantAt := some (3136, 1) }
    let s := guylined g 3136
    s.guy.txAt = some 0 ∧ 0 + 3136 ≤ s.now ∧ s.guy.ackAt = some 3136 ∧ s.guy.last = some heard ∧ s.guy.retryAt = some 3136 ∧
      s.guy.grantAt = some (3136, 1) ∧ s.guy.soloAt = none ∧
      (s.setGuy { Guy.dflt with soloAt := some 3136 }).guy.soloAt = some 3136 ∧ Guy.dflt.grantAt = none ∧ 3136 ≤ s.now ∧ (atTick s 3135).now < 3136 ∧ s.runs = [] ∧ s.cxpMode ≠ 2 := by
  decide +kernel

/-- The timeout with no BEACON heard is 300 ms, and node 3 waits 3 ms more. -/
theorem test_GuylineNode_timeouts : let s := (guylined Guy.dflt 0).setBit R.guyCfg F.guyCfg.masterOk true
    let t := (guylined Guy.dflt 0).setBit R.guyCfg F.guyCfg.solo true
    let u := guylined { Guy.dflt with last := some heard } 9000
    s.guyBase + s.guyTimeout + 40000 * s.nodeId ≤ (atTick s 12120000).now ∧ s.guy.txAt = none ∧ s.guy.retryAt = none ∧
      t.cfgBit R.guyCfg F.guyCfg.masterOk = false ∧ s.cfgBit R.guyCfg F.guyCfg.masterOk = true ∧ t.bit R.guyCfg F.guyCfg.solo = true ∧
      t.bit R.guyStatus F.guyStatus.soloActive = false ∧ t.guyBase + t.guyTimeout ≤ (atTick t 12000000).now ∧
      (atTick t 11999999).now < t.guyBase + t.guyTimeout ∧ heard.at_ + heard.nextTicks + 8000 ≤ u.now ∧
      (atTick u 8999).now < heard.at_ + heard.nextTicks + 8000 := by decide +kernel

theorem test_TraceAndTap : let s := (ready.setTrl { buf := [{ w0 := 1, w1 := 2, rung := true }], lost := 0 }).setBit R.trlCfg F.trlCfg.port true
    s.up = true ∧ s.bit R.trlCfg F.trlCfg.port = true ∧ s.trl.buf = { w0 := 1, w1 := 2, rung := true } :: [] ∧
      (s.setBit R.trlCfg F.trlCfg.port false).bit R.trlCfg F.trlCfg.port = false ∧ ready.tapOn = true ∧
      ready.boot.scanHeld = false ∧ ready.cxpMode ≠ 2 ∧ (booting 3).tapOn = true ∧ (booting 3).boot.scanHeld = false ∧
      (ready.setBoot { ready.boot with scanHeld := true }).boot.scanHeld = true ∧ (asleepAt .watch).tapOn = false ∧
      (Instr.clamp, TapInstr.clamp) ∈ [(Instr.extest, TapInstr.extest), (.extestPulse, .extestPulse),
        (.extestTrain, .extestTrain), (.highz, .highz), (.clamp, .clamp)] := by decide +kernel

/-- The ring of the boundary register has 396 cells; that of GP0 with its input reads what the outside gives the ball. -/
theorem test_TraceAndTap_cells : let s := (ready.setCab { ready.cab with ext := [(0, true)] }).setTap { ready.tap with ir := .samplePreload }
    s.scanCells.length = 396 ∧ s.scanCells.any (fun v => decide (v = some true)) = true := by decide +kernel

/-! ### Cryptography: the example vectors of the standards -/

/-- FIPS 197, C.1: AES-128 of 00112233…FF under 000102…0F. -/
theorem test_aes : aesBytes (List.range 16) ((List.range 16).map (17 * ·)) =
    beBytes 16 0x69C4E0D86A7B0430D8CDB78070B4C55A := by decide +kernel

/-- NIST SP 800-38B, D.1: AES-CMAC of the empty message. -/
theorem test_cmac : cmacBytes (beBytes 16 0x2B7E151628AED2A6ABF7158809CF4F3C) [] =
    beBytes 16 0xBB1D6929E95937287FA37D129B756746 := by decide +kernel

/-- FIPS 180-4: SHA-256 of "abc". -/
theorem test_sha256 : sha256 [0x61, 0x62, 0x63] =
    0xBA7816BF8F01CFEA414140DE5DAE2223B00361A396177A9CB410FF61F20015AD := by decide +kernel

/-! ### Commands at the edge of a rule -/

/-- What a command leaves, where it completes. -/
def after (c : Instr) (s : State) (f : State → Bool) : Bool := match exec c s with
  | .next t => f t
  | _ => false

/-- R52: a ceiling one below the peak is refused, the peak itself is taken. -/
theorem test_pwrCeilWrite : after (.pwrCeilWrite 1 5999) peaked (fun t => t.bit R.schStatus F.schStatus.ceilRefused &&
      decide (t.reg R.pwrCeil = peaked.reg R.pwrCeil)) = true ∧
    after (.pwrCeilWrite 1 6000) peaked (fun t => decide (t.fld R.pwrCeil F.pwrCeil.ceilMw = 6000)) = true := by decide +kernel

/-- R263: a free of a buffer that is FREE counts a double free; one outside the range leaves a record. -/
theorem test_bufFree : after (.bufFree 4 1 1) pitched (fun t =>
      decide (t.fld (R.gshBufStatus 1) F.gshBufStatus.doubleFree = 1)) = true ∧
    after (.bufFree 4 1 2) pitched (fun t => decide (t.fld R.pitViolIdx F.pitViolIdx.index = 1) &&
      decide (t.reg (R.pitViolRec 0 1) = 0x1404000000000002)) = true := by decide +kernel

/-- R297: a C that would pass P by one is refused. -/
theorem test_doorbell : after (.doorbell 4 5 3) (ringed 3 0 []) (fun t => decide (t.consIdx 5 = 3)) = true ∧
    after (.doorbell 4 5 4) (ringed 3 0 []) (fun t => decide (t.consIdx 5 = 0) &&
      decide (t.fld R.pitViolIdx F.pitViolIdx.index = 1)) = true := by decide +kernel

/-- R354: a WATCHDOG reset is warm and keeps the PA settings; R359: a block that is not idle is left. -/
theorem test_resets : after .watchdog (atTick (planned (stakeOf 0 0x01 0)) 4000000) (fun t =>
      decide (t.reg R.rstCause = 0x10) && t.boot.seq.any fun q => !q.cold && decide (q.step = 1)) = true ∧
    after (.blockReset 0 2) (ready.setReg R.guyLaneHeld 1) (fun t => t.bit R.rstCtrl F.rstCtrl.blockRefused) = true := by
  decide +kernel

/-- R260: step 4 of a cold reset zeroes Groundsheet; R358, R421: straps that nothing drives read 0. -/
theorem test_stepDone : after (.resetSequenceStepDone { straps := [], sfdp := true, eeprom := [], cal := [] })
      ((booting 3).setWord 0 7) (fun t => decide (t.word 0 = 0)) = true ∧
    after (.resetSequenceStepDone { straps := [none, some true, none, some false], sfdp := true, eeprom := [], cal := [] })
      (booting 2) (fun t => decide (t.reg R.rstStraps = 2)) = true := by decide +kernel

/-- R391, R392: set and clear change only the bits written as 1. -/
theorem test_gpio : after (.gpioSet 1 6) (ready.setReg R.cabGpioOut 1) (fun t => decide (t.reg R.cabGpioOut = 7)) = true ∧
    after (.gpioClr 1 6) (ready.setReg R.cabGpioOut 7) (fun t => decide (t.reg R.cabGpioOut = 1)) = true := by decide +kernel

/-- R368: a record that fails its check moves on to the next slot and is tried again. -/
theorem test_logbookWrite : after (.logbookWrite false) (ready.setHlt { Hlt.dflt with logQueue := [rec42] }) (fun t =>
    decide (t.hlt.logSlot = 1) && decide (t.hlt.logQueue = [{ rec42 with tries := 1 }])) = true := by decide +kernel

end Sys2Proof.Tests
end

section
/-! SUPPORT. What every command does with the queue, and when it completes: the arms of `exec` taken together. -/

namespace Sys2Proof.Machine

/-! ### The frame of a command (R433) -/

/-- Every command has a frame; Laws/KeepsExec.lean says which. -/
theorem exec_keeps : ∀ {c : Instr} {s t : State}, exec c s = .next t → ∃ w, Keeps w s t
  | .majorCycleBoundary, _, _, h => ⟨_, execMajorCycleBoundary_keeps h⟩
  | .planStart, _, _, h => ⟨_, execPlanStart_keeps h⟩
  | .schSwap m, _, _, h => ⟨_, execSchSwap_keeps m h⟩
  | .schCancel m, _, _, h => ⟨_, execSchCancel_keeps m h⟩
  | .schRunWrite m run, _, _, h => ⟨_, execSchRunWrite_keeps m run h⟩
  | .planCheckDone, _, _, h => ⟨_, execPlanCheckDone_keeps h⟩
  | .stakeStart idx, _, _, h => ⟨_, execStakeStart_keeps idx h⟩
  | .triggerRunStart port, _, _, h => ⟨_, execTriggerRunStart_keeps port h⟩
  | .exchangeStart port, _, _, h => ⟨_, execExchangeStart_keeps port h⟩
  | .replyStartDetected port obs, _, _, h => ⟨_, execReplyStartDetected_keeps port obs h⟩
  | .checkVerdict port span field, _, _, h => ⟨_, execCheckVerdict_keeps port span field h⟩
  | .exchangeEnd port r, _, _, h => ⟨_, execExchangeEnd_keeps port r h⟩
  | .exchangeTimeout port o, _, _, h => ⟨_, execExchangeTimeout_keeps port o h⟩
  | .budgetEntryExpired pitch uid, _, _, h => ⟨_, execBudgetEntryExpired_keeps pitch uid h⟩
  | .stakeTailStart port, _, _, h => ⟨_, execStakeTailStart_keeps port h⟩
  | .stakeEnd port, _, _, h => ⟨_, execStakeEnd_keeps port h⟩
  | .hfStateTransitionDone slice obs, _, _, h => ⟨_, execHfStateTransitionDone_keeps slice obs h⟩
  | .uhfStateTransitionDone slice obs, _, _, h => ⟨_, execUhfStateTransitionDone_keeps slice obs h⟩
  | .loadMonitorSample port obs, _, _, h => ⟨_, execLoadMonitorSample_keeps port obs h⟩
  | .uhfGammaSample port obs, _, _, h => ⟨_, execUhfGammaSample_keeps port obs h⟩
  | .headRetryExpired port, _, _, h => ⟨_, execHeadRetryExpired_keeps port h⟩
  | .cancelAdapt port x drive, _, _, h => ⟨_, execCancelAdapt_keeps port x drive h⟩
  | .cancelReload m port, _, _, h => ⟨_, execCancelReload_keeps m port h⟩
  | .wideSyncEnd port obs, _, _, h => ⟨_, execWideSyncEnd_keeps port obs h⟩
  | .wideSymbolWindowEnd port bins, _, _, h => ⟨_, execWideSymbolWindowEnd_keeps port bins h⟩
  | .wrdCodewordStart dec, _, _, h => ⟨_, execWrdCodewordStart_keeps dec h⟩
  | .wrdCodewordDone dec, _, _, h => ⟨_, execWrdCodewordDone_keeps dec h⟩
  | .synthLockTimeout port, _, _, h => ⟨_, execSynthLockTimeout_keeps port h⟩
  | .channelChangeDone port obs, _, _, h => ⟨_, execChannelChangeDone_keeps port obs h⟩
  | .txTimeout port, _, _, h => ⟨_, execTxTimeout_keeps port h⟩
  | .paSequenceStep port, _, _, h => ⟨_, execPaSequenceStep_keeps port h⟩
  | .paFault port low, _, _, h => ⟨_, execPaFault_keeps port low h⟩
  | .paFaultClear m port, _, _, h => ⟨_, execPaFaultClear_keeps m port h⟩
  | .uhaPaCfgWrite m port v, _, _, h => ⟨_, execUhaPaCfgWrite_keeps m port v h⟩
  | .coexLeadStart idx, _, _, h => ⟨_, execCoexLeadStart_keeps idx h⟩
  | .coexWaitExpired port, _, _, h => ⟨_, execCoexWaitExpired_keeps port h⟩
  | .cxGntRise, _, _, h => ⟨_, execCxGntRise_keeps h⟩
  | .cxGntFall, _, _, h => ⟨_, execCxGntFall_keeps h⟩
  | .cxReqRise pri, _, _, h => ⟨_, execCxReqRise_keeps pri h⟩
  | .cxReqFall pri, _, _, h => ⟨_, execCxReqFall_keeps pri h⟩
  | .rfInhibit a b, _, _, h => ⟨_, execRfInhibit_keeps a b h⟩
  | .rfInhibitRelease a b, _, _, h => ⟨_, execRfInhibitRelease_keeps a b h⟩
  | .uhfStandbyRestored, _, _, h => ⟨_, execUhfStandbyRestored_keeps h⟩
  | .rfoffSample, _, _, h => ⟨_, execRfoffSample_keeps h⟩
  | .powerWindow mw, _, _, h => ⟨_, execPowerWindow_keeps mw h⟩
  | .pwrCeilWrite m v, _, _, h => ⟨_, execPwrCeilWrite_keeps m v h⟩
  | .pwrHfRailWrite m v, _, _, h => ⟨_, execPwrHfRailWrite_keeps m v h⟩
  | .triggerEdge t o, _, _, h => ⟨_, execTriggerEdge_keeps t o h⟩
  | .triggerSw m t, _, _, h => ⟨_, execTriggerSw_keeps m t h⟩
  | .gpioCfgWrite m n v, _, _, h => ⟨_, execGpioCfgWrite_keeps m n v h⟩
  | .gpioSet m v, _, _, h => ⟨_, execGpioSet_keeps m v h⟩
  | .gpioClr m v, _, _, h => ⟨_, execGpioClr_keeps m v h⟩
  | .awningFieldDetect inst obs, _, _, h => ⟨_, execAwningFieldDetect_keeps inst obs h⟩
  | .awningFieldLost inst absent, _, _, h => ⟨_, execAwningFieldLost_keeps inst absent h⟩
  | .awningSeamHoldExpired inst, _, _, h => ⟨_, execAwningSeamHoldExpired_keeps inst h⟩
  | .reqa inst, _, _, h => ⟨_, execReqa_keeps inst h⟩
  | .wupa inst, _, _, h => ⟨_, execWupa_keeps inst h⟩
  | .anticollision inst level known, _, _, h => ⟨_, execAnticollision_keeps inst level known h⟩
  | .select f level uid, _, _, h => ⟨_, execSelect_keeps f level uid h⟩
  | .hlta f, _, _, h => ⟨_, execHlta_keeps f h⟩
  | .rats f fsdi cid, _, _, h => ⟨_, execRats_keeps f fsdi cid h⟩
  | .pps f dsi dri, _, _, h => ⟨_, execPps_keeps f dsi dri h⟩
  | .rAck f block, _, _, h => ⟨_, execRAck_keeps f block h⟩
  | .rNak f block, _, _, h => ⟨_, execRNak_keeps f block h⟩
  | .sDeselect f, _, _, h => ⟨_, execSDeselect_keeps f h⟩
  | .selectByName inst aid blocks, _, _, h => ⟨_, execSelectByName_keeps inst aid blocks h⟩
  | .selectByFileId inst id blocks, _, _, h => ⟨_, execSelectByFileId_keeps inst id blocks h⟩
  | .readBinary inst offset le blocks, _, _, h => ⟨_, execReadBinary_keeps inst offset le blocks h⟩
  | .updateBinary inst offset data blocks, _, _, h => ⟨_, execUpdateBinary_keeps inst offset data blocks h⟩
  | .verify inst data blocks, _, _, h => ⟨_, execVerify_keeps inst data blocks h⟩
  | .pinLockExpired inst, _, _, h => ⟨_, execPinLockExpired_keeps inst h⟩
  | .awningCommit m inst v, _, _, h => ⟨_, execAwningCommit_keeps m inst v h⟩
  | .awningCommitApply inst, _, _, h => ⟨_, execAwningCommitApply_keeps inst h⟩
  | .watchRound, _, _, h => ⟨_, execWatchRound_keeps h⟩
  | .lanternConfirmPing e, _, _, h => ⟨_, execLanternConfirmPing_keeps e h⟩
  | .lanternPingDone e amp phase, _, _, h => ⟨_, execLanternPingDone_keeps e amp phase h⟩
  | .wakeCardClear m, _, _, h => ⟨_, execWakeCardClear_keeps m h⟩
  | .presenceSweep idx, _, _, h => ⟨_, execPresenceSweep_keeps idx h⟩
  | .chkHostRunStart m n v, _, _, h => ⟨_, execChkHostRunStart_keeps m n v h⟩
  | .chkHostRunDone n, _, _, h => ⟨_, execChkHostRunDone_keeps n h⟩
  | .chkCfgWrite m n r v, _, _, h => ⟨_, execChkCfgWrite_keeps m n r v h⟩
  | .scrubVisit word upset, _, _, h => ⟨_, execScrubVisit_keeps word upset h⟩
  | .eccInjectArm m v, _, _, h => ⟨_, execEccInjectArm_keeps m v h⟩
  | .groundsheetWrite m off bytes, _, _, h => ⟨_, execGroundsheetWrite_keeps m off bytes h⟩
  | .bufAlloc m p, _, _, h => ⟨_, execBufAlloc_keeps m p h⟩
  | .bufFree m p v, _, _, h => ⟨_, execBufFree_keeps m p v h⟩
  | .fifoPush m n v, _, _, h => ⟨_, execFifoPush_keeps m n v h⟩
  | .fifoPop m n v, _, _, h => ⟨_, execFifoPop_keeps m n v h⟩
  | .fifoFlush m n, _, _, h => ⟨_, execFifoFlush_keeps m n h⟩
  | .heldPacketCommit n, _, _, h => ⟨_, execHeldPacketCommit_keeps n h⟩
  | .wheelTurnStart wait target, _, _, h => ⟨_, execWheelTurnStart_keeps wait target h⟩
  | .rrWaitClear m, _, _, h => ⟨_, execRrWaitClear_keeps m h⟩
  | .krvReq n, _, _, h => ⟨_, execKrvReq_keeps n h⟩
  | .hfFrame n, _, _, h => ⟨_, execHfFrame_keeps n h⟩
  | .hfApdu n, _, _, h => ⟨_, execHfApdu_keeps n h⟩
  | .gen2Req n, _, _, h => ⟨_, execGen2Req_keeps n h⟩
  | .requestStart port, _, _, h => ⟨_, execRequestStart_keeps port h⟩
  | .requestWaitExpired pitch port, _, _, h => ⟨_, execRequestWaitExpired_keeps pitch port h⟩
  | .keyLoad p v, _, _, h => ⟨_, execKeyLoad_keeps p v h⟩
  | .secKeyLoad m v, _, _, h => ⟨_, execSecKeyLoad_keeps m v h⟩
  | .registerWrite ws, _, _, h => ⟨_, execRegisterWrite_keeps ws h⟩
  | .lowerHalfRead m off, _, _, h => ⟨_, execLowerHalfRead_keeps m off h⟩
  | .upperHalfWrite m off data, _, _, h => ⟨_, execUpperHalfWrite_keeps m off data h⟩
  | .perst, _, _, h => ⟨_, execPerst_keeps h⟩
  | .ringWrite m n v, _, _, h => ⟨_, execRingWrite_keeps m n v h⟩
  | .ringDeliver n, _, _, h => ⟨_, execRingDeliver_keeps n h⟩
  | .doorbell m n v, _, _, h => ⟨_, execDoorbell_keeps m n v h⟩
  | .requestFetchDone n ok words, _, _, h => ⟨_, execRequestFetchDone_keeps n ok words h⟩
  | .msixUnmask fn vec, _, _, h => ⟨_, execMsixUnmask_keeps fn vec h⟩
  | .ethDatagramRx x d, _, _, h => ⟨_, execEthDatagramRx_keeps x d h⟩
  | .regRead p, _, _, h => ⟨_, execRegRead_keeps p h⟩
  | .regWrite p, _, _, h => ⟨_, execRegWrite_keeps p h⟩
  | .ack p, _, _, h => ⟨_, execAck_keeps p h⟩
  | .ethSourceEntryExpired ip, _, _, h => ⟨_, execEthSourceEntryExpired_keeps ip h⟩
  | .ethTransmit p x, _, _, h => ⟨_, execEthTransmit_keeps p x h⟩
  | .ethRetxTimeout p, _, _, h => ⟨_, execEthRetxTimeout_keeps p h⟩
  | .spiWrite addr words crc, _, _, h => ⟨_, execSpiWrite_keeps addr words crc h⟩
  | .spiRead addr count, _, _, h => ⟨_, execSpiRead_keeps addr count h⟩
  | .spiStatus, _, _, h => ⟨_, execSpiStatus_keeps h⟩
  | .challenge, _, _, h => ⟨_, execChallenge_keeps h⟩
  | .unlock tag, _, _, h => ⟨_, execUnlock_keeps tag h⟩
  | .lock, _, _, h => ⟨_, execLock_keeps h⟩
  | .spiUnlockBlockExpired, _, _, h => ⟨_, execSpiUnlockBlockExpired_keeps h⟩
  | .rotationDue k, _, _, h => ⟨_, execRotationDue_keeps k h⟩
  | .rotate m v, _, _, h => ⟨_, execRotate_keeps m v h⟩
  | .spareHandover k, _, _, h => ⟨_, execSpareHandover_keeps k h⟩
  | .spareReturn k, _, _, h => ⟨_, execSpareReturn_keeps k h⟩
  | .checkpoint port live, _, _, h => ⟨_, execCheckpoint_keeps port live h⟩
  | .spareTransferDone k live, _, _, h => ⟨_, execSpareTransferDone_keeps k live h⟩
  | .calCompare k a b headroom, _, _, h => ⟨_, execCalCompare_keeps k a b headroom h⟩
  | .sliceFailed slice cause, _, _, h => ⟨_, execSliceFailed_keeps slice cause h⟩
  | .linkFail die, _, _, h => ⟨_, execLinkFail_keeps die h⟩
  | .correctionSlew slice, _, _, h => ⟨_, execCorrectionSlew_keeps slice h⟩
  | .ageMeasure counts, _, _, h => ⟨_, execAgeMeasure_keeps counts h⟩
  | .avs mu, _, _, h => ⟨_, execAvs_keeps mu h⟩
  | .ageSummary, _, _, h => ⟨_, execAgeSummary_keeps h⟩
  | .logRateWindowEnd type, _, _, h => ⟨_, execLogRateWindowEnd_keeps type h⟩
  | .enterHibernate m, _, _, h => ⟨_, execEnterHibernate_keeps m h⟩
  | .enterWatch m, _, _, h => ⟨_, execEnterWatch_keeps m h⟩
  | .lowPowerEntryDone, _, _, h => ⟨_, execLowPowerEntryDone_keeps h⟩
  | .wake, _, _, h => ⟨_, execWake_keeps h⟩
  | .rtcAlarm, _, _, h => ⟨_, execRtcAlarm_keeps h⟩
  | .por, _, _, h => ⟨_, execPor_keeps h⟩
  | .brownout, _, _, h => ⟨_, execBrownout_keeps h⟩
  | .resetPin, _, _, h => ⟨_, execResetPin_keeps h⟩
  | .watchdog, _, _, h => ⟨_, execWatchdog_keeps h⟩
  | .software m v, _, _, h => ⟨_, execSoftware_keeps m v h⟩
  | .thermal, _, _, h => ⟨_, execThermal_keeps h⟩
  | .blockReset m v, _, _, h => ⟨_, execBlockReset_keeps m v h⟩
  | .imageTimeout, _, _, h => ⟨_, execImageTimeout_keeps h⟩
  | .restage m, _, _, h => ⟨_, execRestage_keeps m h⟩
  | .cfgStage m w, _, _, h => ⟨_, execCfgStage_keeps m w h⟩
  | .load m, _, _, h => ⟨_, execLoad_keeps m h⟩
  | .flashRead m addr, _, _, h => ⟨_, execFlashRead_keeps m addr h⟩
  | .flashProgram m addr, _, _, h => ⟨_, execFlashProgram_keeps m addr h⟩
  | .flashErase m addr, _, _, h => ⟨_, execFlashErase_keeps m addr h⟩
  | .flashCmdDone good, _, _, h => ⟨_, execFlashCmdDone_keeps good h⟩
  | .logbookWrite good, _, _, h => ⟨_, execLogbookWrite_keeps good h⟩
  | .logbookErase, _, _, h => ⟨_, execLogbookErase_keeps h⟩
  | .beacon f, _, _, h => ⟨_, execBeacon_keeps f h⟩
  | .beaconTransmit bus, _, _, h => ⟨_, execBeaconTransmit_keeps bus h⟩
  | .guylineAck f, _, _, h => ⟨_, execGuylineAck_keeps f h⟩
  | .ackSlot bus, _, _, h => ⟨_, execAckSlot_keeps bus h⟩
  | .masterTimeout, _, _, h => ⟨_, execMasterTimeout_keeps h⟩
  | .beaconRetry, _, _, h => ⟨_, execBeaconRetry_keeps h⟩
  | .laneGrantStart, _, _, h => ⟨_, execLaneGrantStart_keeps h⟩
  | .laneDeadline, _, _, h => ⟨_, execLaneDeadline_keeps h⟩
  | .tracePortOut, _, _, h => ⟨_, execTracePortOut_keeps h⟩
  | .tapReset, _, _, h => ⟨_, execTapReset_keeps h⟩
  | .extest, _, _, h => ⟨_, execExtest_keeps h⟩
  | .idcode, _, _, h => ⟨_, execIdcode_keeps h⟩
  | .samplePreload, _, _, h => ⟨_, execSamplePreload_keeps h⟩
  | .extestPulse, _, _, h => ⟨_, execExtestPulse_keeps h⟩
  | .extestTrain, _, _, h => ⟨_, execExtestTrain_keeps h⟩
  | .highz, _, _, h => ⟨_, execHighz_keeps h⟩
  | .clamp, _, _, h => ⟨_, execClamp_keeps h⟩
  | .bypass, _, _, h => ⟨_, execBypass_keeps h⟩
  | .endOfCause c, _, _, h => ⟨_, execEndOfCause_keeps c h⟩
  | .resetSequenceStepDone qi, _, _, h => ⟨_, execResetSequenceStepDone_keeps qi h⟩
  | .reservedTypeRequest n, _, _, h => ⟨_, execReservedTypeRequest_keeps n h⟩
  | .otherInsApdu inst ins p1p2 blocks, _, _, h => ⟨_, execOtherInsApdu_keeps inst ins p1p2 blocks h⟩
  | .cxPriRise, _, _, h => ⟨_, execCxPriRise_keeps h⟩
  | .ethLinkDown x, _, _, h => ⟨_, execEthLinkDown_keeps x h⟩
  | .ethLinkUp x speed, _, _, h => ⟨_, execEthLinkUp_keeps x speed h⟩
  | .groundsheetRead m off n, _, _, h => ⟨_, execGroundsheetRead_keeps m off n h⟩
  | .guylineFrameCrcFail type src rest, _, _, h => ⟨_, execGuylineFrameCrcFail_keeps type src rest h⟩
  | .vfEnableWrite numVfs enable, _, _, h => ⟨_, execVfEnableWrite_keeps numVfs enable h⟩

/-- A command leaves the queue as the step has set it. -/
theorem exec_pending {c : Instr} {s t : State} (h : exec c s = .next t) : t.pending = s.pending :=
  let ⟨_, k⟩ := exec_keeps h
  k.pending

theorem step_cons {c : Instr} {rest : List Instr} {s : State} (h : s.pending = c :: rest) :
    step s = exec c (s.setPending rest) := by unfold step; rw [h]

theorem step_nil {s : State} (h : s.pending = []) : step s = .next s.idle := by unfold step; rw [h]

/-! ### Completion (R9, R13, R32) -/

/-- An outcome completes where the command is well formed, and is the fault of a resource that is not there where it is not. -/
def Settles (wf : Bool) (o : Host.Outcome State Fault Refusal) : Prop :=
  (wf = true → ∃ t, o = .next t) ∧ (wf = false → o = .fault .noSuchResource)

/-- A command without a resource operand. -/
theorem settles_next (t : State) : Settles true (.next t) := ⟨fun _ => ⟨t, rfl⟩, nofun⟩

/-- A command that tests its operand first, as `Instr.wf` does. -/
theorem settles_guard {wf : Bool} {p : Prop} [Decidable p] {t : State} (h : wf = true ↔ p) :
    Settles wf (if p then .next t else .fault .noSuchResource) := by
  constructor
  · intro hw
    exact ⟨t, if_pos (h.mp hw)⟩
  · intro hw
    exact if_neg fun hp => Bool.false_ne_true (hw.symm.trans (h.mpr hp))

/-- Every command settles: the named ones test a port, a slice, a stake or an entry. -/
theorem exec_settles (c : Instr) (s : State) : Settles c.wf (exec c s) := by
  cases c with
  | triggerRunStart | exchangeStart | replyStartDetected | checkVerdict | exchangeEnd | exchangeTimeout | stakeTailStart
  | stakeEnd | hfStateTransitionDone | uhfStateTransitionDone | loadMonitorSample | uhfGammaSample | headRetryExpired
  | cancelAdapt | cancelReload | wideSyncEnd | wideSymbolWindowEnd | synthLockTimeout | channelChangeDone | txTimeout
  | paSequenceStep | paFault | paFaultClear | uhaPaCfgWrite | coexWaitExpired | requestStart | checkpoint | sliceFailed
  | correctionSlew => exact settles_guard Iff.rfl
  | stakeStart | budgetEntryExpired | coexLeadStart | presenceSweep | scrubVisit | wheelTurnStart =>
    exact settles_guard decide_eq_true_iff
  | requestWaitExpired => exact settles_guard (by simp [Instr.wf])
  | _ => exact settles_next _

end Sys2Proof.Machine
end

section
/-! SUPPORT. The tick of an empty queue: what it leaves, and when none of its work is there to do. -/

namespace Sys2Proof.Machine

theorem State.idle_keeps (s : State) : Keeps 0x14239B206284E7DD s s.idle := State.idle_step rfl rfl (Keeps.refl _ s)

/-- The wires of CXP follow after the clock has moved, and leave it. -/
theorem State.idle_clock (s : State) : s.idle.clock = { s.clock with
    site := if s.up then s.clock.site + 1 else s.clock.site
    aon := if s.boot.power = .off then s.clock.aon else s.clock.aon + 1 } :=
  (State.cxTick_step (msk := 0x14228B20628467DC) rfl rfl (Keeps.refl _ _)).clock (.inl rfl) rfl

/-- No host run of a check unit is there to end or to follow (R250, R251). -/
theorem State.runsTick_nil {s : State} (h : s.hostRuns = []) : s.runsTick = s := by
  cases s
  cases h
  rfl

/-- No trace record waits for the ring (R395). -/
theorem State.traceFlow_nil {s : State} (h : s.trl.buf = []) : s.traceFlow = s := by
  have hbuf : (if s.bit R.trlCfg F.trlCfg.port then s.trl.buf.map fun t => { t with rung := true } else []) = s.trl.buf := by
    rw [h]; exact ite_self _
  have hnone : s.each (s.trl.buf.filter fun t => !t.rung) State.traceRing = s := by rw [h]; rfl
  unfold State.traceFlow
  rw [hnone, hbuf]
  rfl

/-- No stake without a ramp ends in this tick, so the wires of CXP stay (R212). -/
theorem State.cxTick_of_ramps {s : State} (h : ∀ r ∈ s.runs, r.rampless = false) : s.cxTick = s := by
  refine if_neg ?_
  rw [List.any_eq_true]
  rintro ⟨r, hr, hend⟩
  rw [h r hr, Bool.false_and] at hend
  exact Bool.false_ne_true hend

/-- A tick with nothing to do changes the clock, and its own record of the tick begins anew. -/
theorem State.idle_quiet {s : State} (hr : s.hostRuns = []) (hb : s.trl.buf = []) (hx : ∀ r ∈ s.runs, r.rampless = false) :
    ∃ c, s.idle = (s.setClock c).setTick Tick.dflt := by
  unfold State.idle
  rw [State.runsTick_nil hr, State.traceFlow_nil hb]
  exact ⟨_, State.cxTick_of_ramps hx⟩

end Sys2Proof.Machine
end

section
/-! SUPPORT. Register accesses of one master (Machine/Bus.lean): what a read answers, and what a write leaves, where the offset of
the view names a register (R413, R414). -/

namespace Sys2Proof.Machine

/-! ### Halves of a word -/

theorem loHalf_eq (w : Word) : loHalf w = w &&& 0xFFFFFFFF := by
  apply BitVec.eq_of_toNat_eq
  rw [BitVec.toNat_and]
  show w.toNat % 2 ^ 32 % 2 ^ 64 = w.toNat &&& (2 ^ 32 - 1)
  rw [Nat.and_two_pow_sub_one_eq_mod]
  omega

theorem hiHalf_setWidth (w : Word) : (hiHalf w).setWidth 64 = w >>> 32 := by
  apply BitVec.eq_of_toNat_eq
  have := w.isLt
  simp only [hiHalf, BitVec.toNat_setWidth, BitVec.toNat_ushiftRight, Nat.shiftRight_eq_div_pow]
  omega

theorem word2_eq (hi : BitVec 32) (v : Word) : word2 hi.toNat v.toNat = (hi.setWidth 64 <<< 32) ||| (v &&& 0xFFFFFFFF) := by
  apply BitVec.eq_of_toNat_eq
  have hhi := hi.isLt
  have hlow : v.toNat % 2 ^ 32 < 2 ^ 32 := Nat.mod_lt _ (by decide)
  have hmask : (v &&& 0xFFFFFFFF).toNat = v.toNat % 2 ^ 32 := Nat.and_two_pow_sub_one_eq_mod v.toNat 32
  have hshift : (hi.setWidth 64 <<< 32).toNat = hi.toNat <<< 32 := by
    simp only [BitVec.toNat_shiftLeft, BitVec.toNat_setWidth, Nat.shiftLeft_eq]
    omega
  rw [BitVec.toNat_or, hmask, hshift, ← Nat.shiftLeft_add_eq_or_of_lt hlow, Nat.shiftLeft_eq]
  simp only [word2, BitVec.toNat_ofNat]
  omega

/-! ### Reads -/

/-- A read of the upper half under the tag of the snapshot takes it and uses it up. -/
theorem State.narrowRead_tagged {s : State} {m : Master} {x : Nat} {hi : BitVec 32} (hx : x % 8 = 0)
    (hserves : s.serves m (x + 4) = true)
    (hsnap : SMap.find s.pit.snap m.val = some (x, hi)) :
    s.narrowRead m (x + 4) = (s.setPit { s.pit with snap := SMap.del m.val s.pit.snap }).respond m
      { data := [hi.setWidth 64], ue := false, bad := false } := by
  have h8 : (x + 4) / 8 * 8 = x := by omega
  have h4 : (x + 4) % 4 = 0 := by omega
  have hup : (x + 4) % 8 ≠ 0 := by omega
  unfold State.narrowRead
  simp [h8, hserves, h4, hup, hsnap]

section
variable {s : State} {m : Master} {x r : Nat} (hplace : s.place m x = .reg r)
include hplace

theorem State.busRead_reg (eth : Bool) (halloc : arr (R.gshBufAlloc 0) 0x20 9 r = none) :
    s.busRead m eth x = (s, .ok (s.regWord r)) := by
  unfold State.busRead
  simp only [hplace, halloc]

/-- A 32-bit read of a lower half answers it and snapshots the upper one (R413). -/
theorem State.narrowRead_lower (hx : x % 8 = 0) (halloc : arr (R.gshBufAlloc 0) 0x20 9 r = none) (hserves : s.serves m x = true) :
    s.narrowRead m x = (s.setPit { s.pit with snap := SMap.ins m.val (x, hiHalf (s.regWord r)) s.pit.snap }).respond m
      { data := [loHalf (s.regWord r)], ue := false, bad := false } := by
  have h8 : x / 8 * 8 = x := by omega
  have h4 : x % 4 = 0 := by omega
  unfold State.narrowRead
  simp only [h8, hserves, h4, hx, hplace, State.busRead_reg hplace false halloc]
  rfl

/-- A read of the upper half under another tag reads the live bits. -/
theorem State.narrowRead_live (hx : x % 8 = 0) (hserves : s.serves m (x + 4) = true)
    (hsnap : ∀ hi, SMap.find s.pit.snap m.val ≠ some (x, hi)) :
    s.narrowRead m (x + 4) = s.respond m { data := [s.regWord r >>> 32], ue := false, bad := false } := by
  have h8 : (x + 4) / 8 * 8 = x := by omega
  have h4 : (x + 4) % 4 = 0 := by omega
  have hup : (x + 4) % 8 ≠ 0 := by omega
  have hlive : s.upperRead m x = s.respond m { data := [s.regWord r >>> 32], ue := false, bad := false } := by
    unfold State.upperRead
    simp only [hplace, hiHalf_setWidth]
  unfold State.narrowRead
  cases hfind : SMap.find s.pit.snap m.val with
  | none => simp [h8, hserves, h4, hup, hlive]
  | some tag =>
    have htag : tag.1 ≠ x := fun h => hsnap tag.2 (by rw [hfind, ← h])
    simp [h8, hserves, h4, hup, htag, hlive]

end

/-! ### One write of a register -/

/-- No entry of a table names a register that the table has no entry for; i is the place of the entry in the table. -/
theorem hookAt_none {α : Type} {l : List ((Nat → Option Nat) × α)} {off : Nat} (h : hookAt l off = none) (i : Nat)
    (hi : i < l.length) : l[i].1 off = none := by
  have hnone := List.findSome?_eq_none_iff.mp h l[i] (List.getElem_mem hi)
  exact Option.map_eq_none_iff.mp hnone

/-- The registers whose write does more, or other, than the plain write. -/
abbrev writeHooks : List WriteHook := [writeHooks0, writeHooks1, writeHooks2].flatten

theorem one_none {base off : Nat} (h : one base off = none) : off ≠ base := by
  intro heq
  rw [one, if_pos heq] at h
  cases h

/-- The write of a register without a hook is the plain one. -/
theorem State.busWrite64_plain {s : State} {m : Master} {x r : Nat} (v : Word) (hplace : s.place m x = .reg r)
    (hplain : hookAt writeHooks r = none) : s.busWrite64 m x v = s.plainWrite m r v := by
  have hcfg : r ≠ R.cfgCtrl := one_none (hookAt_none hplain 4 (by decide))
  unfold State.busWrite64
  simp only [hplace, if_neg hcfg]
  unfold State.regWrite
  simp only [hplain]

theorem State.noteWrote_tick (s : State) (r : Nat) : ∃ x, s.noteWrote r = s.setTick x := by
  unfold State.noteWrote
  split
  · exact ⟨s.tick, rfl⟩
  · exact ⟨_, rfl⟩

/-- A plain write stores into one register, and notes what stood there. -/
theorem State.plainWrite_eq {s : State} {r : Nat} {d : RegDesc} (m : Master) (v : Word) (hreg : regAt r = some d) :
    ∃ x, s.plainWrite m r v =
      (s.setTick x).setReg r (mergeWrite (s.locked || !privileged m) d (s.reg r) (s.taken d r v)) := by
  obtain ⟨x, hx⟩ := s.noteWrote_tick r
  refine ⟨x, ?_⟩
  unfold State.plainWrite State.writeReg
  simp only [hreg, hx]

section
variable {s : State} {r : Nat} {d : RegDesc} (m : Master) (v : Word) (hreg : regAt r = some d)
include hreg

/-- What a plain write leaves: `taken` keeps the w1c bits that the part has set in this tick (R6). -/
theorem State.plainWrite_reg : (s.plainWrite m r v).reg r =
    mergeWrite (s.locked || !privileged m) d (s.reg r) (s.taken d r v) := by
  obtain ⟨x, hx⟩ := State.plainWrite_eq (s := s) m v hreg
  rw [hx, State.setReg_reg_self]

theorem State.plainWrite_reg_ne {o : Nat} (h : o ≠ r) : (s.plainWrite m r v).reg o = s.reg o := by
  obtain ⟨x, hx⟩ := State.plainWrite_eq (s := s) m v hreg
  rw [hx, State.setReg_reg_ne _ _ h]
  rfl

theorem State.plainWrite_pit : (s.plainWrite m r v).pit = s.pit := by
  obtain ⟨x, hx⟩ := State.plainWrite_eq (s := s) m v hreg
  rw [hx]
  rfl

theorem State.plainWrite_hif : (s.plainWrite m r v).hif = s.hif := by
  obtain ⟨x, hx⟩ := State.plainWrite_eq (s := s) m v hreg
  rw [hx]
  rfl

theorem State.plainWrite_fifos : (s.plainWrite m r v).fifos = s.fifos := by
  obtain ⟨x, hx⟩ := State.plainWrite_eq (s := s) m v hreg
  rw [hx]
  rfl

theorem State.plainWrite_up : (s.plainWrite m r v).up = s.up := by
  obtain ⟨x, hx⟩ := State.plainWrite_eq (s := s) m v hreg
  rw [hx]
  rfl

end

section
variable {s : State} {m : Master} {x r : Nat} (hplace : s.place m x = .reg r) (hx : x % 8 = 0)
include hplace hx

theorem State.oneWrite_wide (v : Word) (f : Word → Word) (hserves : s.serves m x = true) :
    s.oneWrite { master := m, off := x, size := 8, data := v } f = s.busWrite64 m x (f v) := by
  have h8 : x / 8 * 8 = x := by omega
  unfold State.oneWrite State.fullData
  simp [h8, hserves, hplace, hx]

/-- A write of the lower half takes the staged upper half, and uses it up (R414). -/
theorem State.oneWrite_staged {hi : BitVec 32} (v : Word) (f : Word → Word) (hserves : s.serves m x = true)
    (hstage : SMap.find s.pit.stage m.val = some (x, hi)) :
    s.oneWrite { master := m, off := x, size := 4, data := v } f =
      (s.setPit { s.pit with stage := SMap.del m.val s.pit.stage }).busWrite64 m x
        (f ((hi.setWidth 64 <<< 32) ||| (v &&& 0xFFFFFFFF))) := by
  have h8 : x / 8 * 8 = x := by omega
  have h4 : x % 4 = 0 := by omega
  unfold State.oneWrite State.fullData State.upperHalf
  simp [h8, h4, hserves, hplace, hx, hstage, Place.bytewise, word2_eq]

/-- A write of the upper half is staged (R414). -/
theorem State.oneWrite_upper (v : Word) (f : Word → Word) (hserves : s.serves m (x + 4) = true) :
    s.oneWrite { master := m, off := x + 4, size := 4, data := v } f =
      s.setPit { s.pit with stage := SMap.ins m.val (x, v.setWidth 32) s.pit.stage } := by
  have h8 : (x + 4) / 8 * 8 = x := by omega
  have h4 : (x + 4) % 4 = 0 := by omega
  have hup : (x + 4) % 8 = 4 := by omega
  unfold State.oneWrite
  simp [h8, h4, hup, hserves, hplace, Place.bytewise]

end

end Sys2Proof.Machine
end

section
/-! SUPPORT. The host writes of one cycle (Machine/Bus.lean): the order they are taken in, and who loses (R320). -/

namespace Sys2Proof.Machine

/-! ### The master order -/

/-- In a list sorted by a key, the elements of a key stand after those of the smaller keys. -/
theorem filter_lt_append_filter_eq {α : Type} {key : α → Nat} {l : List α} (hsorted : l.Pairwise fun a b => key a ≤ key b)
    (n : Nat) : (l.filter fun a => decide (key a < n)) ++ (l.filter fun a => decide (key a = n)) =
      l.filter fun a => decide (key a < n + 1) := by
  induction l with
  | nil => rfl
  | cons a l ih =>
    obtain ⟨hfirst, hrest⟩ := List.pairwise_cons.mp hsorted
    have ih := ih hrest
    rcases Nat.lt_or_ge (key a) n with hlt | hge
    · simpa [hlt, hlt.ne, hlt.le, Order.lt_add_one_iff] using ih
    · have hnone : l.filter (fun b => decide (key b < n)) = [] := by
        refine List.filter_eq_nil_iff.mpr fun b hb => ?_
        have := hfirst b hb
        simp only [decide_eq_true_eq]
        omega
      have hsame : decide (key a = n) = decide (key a < n + 1) := decide_eq_decide.mpr (by omega)
      rw [hnone, List.nil_append] at ih
      simp only [List.filter_cons, decide_eq_true_eq, if_neg hge.not_gt, hnone, List.nil_append, hsame, ih]

/-- Grouping a list by a key, one key after the other, leaves a list that is in that order already as it is. -/
theorem flatMap_range_filter {α : Type} {key : α → Nat} {l : List α} (hsorted : l.Pairwise fun a b => key a ≤ key b)
    (n : Nat) : ((List.range n).flatMap fun i => l.filter fun a => decide (key a = i)) =
      l.filter fun a => decide (key a < n) := by
  induction n with
  | zero => simp
  | succ n ih => rw [List.range_succ, List.flatMap_append, ih, List.flatMap_singleton, filter_lt_append_filter_eq hsorted]

/-- Writes listed from the highest master number down are in the master order. -/
theorem byMaster_of_sorted {ws : List HostWrite} (h : ws.Pairwise fun a b => b.master.val ≤ a.master.val) :
    byMaster ws = ws := by
  have hkey : ∀ (w : HostWrite) (i : Nat), i ∈ List.range 12 → (w.master.val = 11 - i ↔ 11 - w.master.val = i) := by
    intro w i hi
    have hm := w.master.isLt
    have hi := List.mem_range.mp hi
    omega
  have hgroup := flatMap_range_filter (key := fun w : HostWrite => 11 - w.master.val) (h.imp fun hab => by omega) 12
  unfold byMaster
  calc ((List.range 12).flatMap fun i => ws.filter fun w => decide (w.master.val = 11 - i))
      = (List.range 12).flatMap fun i => ws.filter fun w => decide (11 - w.master.val = i) :=
        List.flatMap_congr fun i hi => List.filter_congr fun w _ => decide_eq_decide.mpr (hkey w i hi)
    _ = ws.filter fun w => decide (11 - w.master.val < 12) := hgroup
    _ = ws := List.filter_eq_self.mpr fun w _ => decide_eq_true (by omega)

/-- Only a push has rank 6. -/
theorem cycleRank_lt {o : Option Nat} (h : ∀ r, o = some r → hookAt writeHooks r = none) : cycleRank o < 6 := by
  unfold cycleRank
  split
  · decide
  · rename_i r
    have hpush : arr (R.gshFifoPush 0) 0x40 64 r = none := hookAt_none (h r rfl) 23 (by decide)
    split
    · rename_i i k hfound
      obtain ⟨x, hx, hmap⟩ := List.exists_of_findSome?_eq_some hfound
      obtain ⟨j, hj, heq⟩ := Option.map_eq_some_iff.mp hmap
      obtain ⟨-, rfl⟩ := Prod.mk.inj heq
      simp only [List.mem_cons, List.not_mem_nil, or_false] at hx
      rcases hx with rfl | rfl | rfl | rfl | rfl | rfl | rfl
      case inr.inr.inr.inl => exact absurd (hpush.symm.trans hj) nofun
      all_goals decide
    · decide

/-- The writes of a cycle that are listed from the highest master number down, all of one rank, and that are no pushes, are taken as
they are listed. -/
theorem State.cycleWrites_of_sorted {s : State} {ws : List HostWrite} {k : Nat} (hk : k < 6)
    (hsorted : ws.Pairwise fun a b => b.master.val ≤ a.master.val) (hrank : ∀ w ∈ ws, cycleRank (s.writes w) = k) :
    s.cycleWrites ws = (s.newCycle.each (ws.map fun w => (s.loses ws w, s.loserOnes ws w, w)) fun s x =>
      s.cycleWrite x.1 x.2.1 x.2.2).contend (ws.filter (s.loses ws)) := by
  have hranked : ((List.range 6).flatMap fun k => (byMaster ws).filter fun w => decide (cycleRank (s.writes w) = k)) = ws := by
    have hsame : ws.Pairwise fun a b => cycleRank (s.writes a) ≤ cycleRank (s.writes b) :=
      List.pairwise_of_forall_mem_list fun a ha b hb => by rw [hrank a ha, hrank b hb]
    rw [byMaster_of_sorted hsorted, flatMap_range_filter hsame]
    exact List.filter_eq_self.mpr fun w hw => decide_eq_true (by rw [hrank w hw]; exact hk)
  have hpushes : (byInitiator ws).filter (fun w => decide (cycleRank (s.writes w) = 6)) = [] := by
    refine List.filter_eq_nil_iff.mpr fun w hw => ?_
    obtain ⟨i, -, hi⟩ := List.mem_flatMap.mp hw
    simp only [hrank w (List.mem_of_mem_filter hi), decide_eq_true_eq]
    omega
  unfold State.cycleWrites
  simp only [hranked, hpushes, List.append_eq, List.append_nil]

/-! ### Who loses -/

/-- A write loses to no write of a higher master number. -/
theorem State.loses_of_lowest {s : State} {ws : List HostWrite} {w : HostWrite} (h : ∀ x ∈ ws, w.master.val ≤ x.master.val) :
    s.loses ws w = false := by
  unfold State.loses
  split
  · rfl
  · rw [Bool.and_eq_false_iff]
    refine .inr (List.any_eq_false.mpr fun x hx => ?_)
    simp [Nat.not_lt.mpr (h x hx)]

/-- A write of a register without a hook loses to one of the same register by a lower master. -/
theorem State.loses_of_lower {s : State} {ws : List HostWrite} {w x : HostWrite} {r : Nat} (hx : x ∈ ws)
    (hlt : x.master.val < w.master.val) (hw : s.writes w = some r) (hxr : s.writes x = some r)
    (hplain : hookAt writeHooks r = none) : s.loses ws w = true := by
  have hset : r ≠ R.cabGpioSet := one_none (hookAt_none hplain 38 (by decide))
  have hclr : r ≠ R.cabGpioClr := one_none (hookAt_none hplain 39 (by decide))
  have hpop : arr (R.gshFifoPop 0) 0x40 64 r = none := hookAt_none hplain 24 (by decide)
  have hone : allApply r = false := by simp [allApply, hset, hclr, hpop]
  unfold State.loses
  rw [hw]
  simp only [hone, Bool.not_false, Bool.true_and]
  exact List.any_eq_true.mpr ⟨x, hx, by simp [hlt, hxr]⟩

/-- Where no write loses, none brings its ones. -/
theorem State.loserOnes_of_none {s : State} {ws : List HostWrite} (w : HostWrite) (h : ∀ x ∈ ws, s.loses ws x = false) :
    s.loserOnes ws w = 0 := by
  have hfilter : ws.filter (fun x => s.loses ws x && decide (s.writes x = s.writes w)) = [] :=
    List.filter_eq_nil_iff.mpr fun x hx => by simp [h x hx]
  unfold State.loserOnes
  rw [hfilter]
  split
  · rfl
  · exact BitVec.zero_and

/-- A register without w1c and sc bits takes no ones of the losers. -/
theorem State.loserOnes_of_acc {s : State} {w : HostWrite} {r : Nat} {d : RegDesc} (ws : List HostWrite)
    (hw : s.writes w = some r) (hreg : regAt r = some d)
    (hacc : d.accMask (fun a => decide (a = .w1c) || decide (a = .sc)) = 0) : s.loserOnes ws w = 0 := by
  unfold State.loserOnes
  simp only [hw, Option.bind_some, hreg, hacc]
  exact BitVec.and_zero

/-- A single write that is no push. -/
theorem State.cycleWrites_single {s : State} {w : HostWrite} (hplain : ∀ r, s.writes w = some r → hookAt writeHooks r = none) :
    s.cycleWrites [w] = s.newCycle.oneWrite w id := by
  have hwins : s.loses [w] w = false := State.loses_of_lowest (by simp)
  have hones : s.loserOnes [w] w = 0 := State.loserOnes_of_none w (by simp [hwins])
  rw [State.cycleWrites_of_sorted (cycleRank_lt hplain) (List.pairwise_singleton _ w) (by simp)]
  simp [hwins, hones, State.each, State.cycleWrite, State.contend, Function.id_def]

/-- The register that a write of 8 bytes or of a lower half writes. -/
theorem State.writes_reg {s : State} {m : Master} {x r n : Nat} {v : Word} (hserves : s.serves m x = true) (hx : x % 8 = 0)
    (hplace : s.place m x = .reg r) (hn : n = 8 ∨ n = 4) :
    s.writes { master := m, off := x, size := n, data := v } = some r := by
  have h8 : x / 8 * 8 = x := by omega
  unfold State.writes State.fullData
  rcases hn with rfl | rfl <;> simp [hserves, h8, hplace, hx]

/-- A write of an upper half alone writes no register (R414). -/
theorem State.writes_upper {s : State} {m : Master} {x r : Nat} {v : Word} (hx : x % 8 = 0) (hplace : s.place m x = .reg r) :
    s.writes { master := m, off := x + 4, size := 4, data := v } = none := by
  have h8 : (x + 4) / 8 * 8 = x := by omega
  have hup : (x + 4) % 8 = 4 := by omega
  unfold State.writes State.fullData
  simp [h8, hplace, hup]

/-! ### Two masters write one register -/

/-- The write of the lower master is taken and the other is counted. -/
theorem State.cycleWrites_pair {s : State} {wa wb : HostWrite} {r : Nat} {d : RegDesc} (hlt : wa.master.val < wb.master.val)
    (ha : s.writes wa = some r) (hb : s.writes wb = some r) (hwide : wb.size = 8) (hreg : regAt r = some d)
    (hplain : hookAt writeHooks r = none) (hacc : d.accMask (fun a => decide (a = .w1c) || decide (a = .sc)) = 0) :
    s.cycleWrites [wb, wa] = (s.newCycle.oneWrite wa id).contend [wb] := by
  have hloses : s.loses [wb, wa] wb = true := State.loses_of_lower (x := wa) (by simp) hlt hb ha hplain
  have hwins : s.loses [wb, wa] wa = false := State.loses_of_lowest (by simpa using hlt.le)
  have hones : s.loserOnes [wb, wa] wa = 0 := State.loserOnes_of_acc _ ha hreg hacc
  have hrank : cycleRank (some r) < 6 := cycleRank_lt fun r' h => Option.some.inj h ▸ hplain
  rw [State.cycleWrites_of_sorted hrank (by simpa using hlt.le) (by simp [ha, hb])]
  simp [hloses, hwins, hones, State.each, State.cycleWrite, hwide, Function.id_def]

theorem State.contend_reg_ne (s : State) (l : List HostWrite) {o : Nat} (h : o ≠ R.pitContend) :
    (s.contend l).reg o = s.reg o := by
  unfold State.contend State.bumpSat
  split
  · rfl
  · rw [State.setFld_reg_ne _ _ _ h, State.setFld_reg_ne _ _ _ h]

/-- PIT_CONTEND after one lost write. -/
theorem State.contend_one (s : State) (w : HostWrite) :
    (s.contend [w]).fld R.pitContend F.pitContend.count = min 0xFFFFFFFF (s.fld R.pitContend F.pitContend.count + 1) ∧
    (s.contend [w]).fld R.pitContend F.pitContend.master = w.master.val := by
  have hm := w.master.isLt
  constructor
  · show ((s.bumpSat _ _ _).setFld _ _ _).fld _ _ = _
    rw [State.fld_setFld_apart _ _ _ _ _ (by decide) (by decide)]
    unfold State.bumpSat
    rw [State.fld_setFld_self _ _ _ _ (by decide)]
    show min (2 ^ 32 - 1) (_ + 1) % 2 ^ 32 = _
    omega
  · show ((s.bumpSat _ _ _).setFld _ _ _).fld _ _ = _
    rw [State.fld_setFld_self _ _ _ _ (by decide)]
    show max 0 w.master.val % 2 ^ 4 = _
    omega

/-! ### Masks of the access codes -/

theorem RegDesc.getLsbD_accMask (d : RegDesc) (p : Acc → Bool) (i : Nat) :
    (d.accMask p).getLsbD i = d.fields.any fun x => p x.2.1 && x.1.mask.getLsbD i := by
  have hfold : ∀ (l : List (Fld × Acc × Nat)) (w : Word),
      (l.foldl (fun w x => if p x.2.1 then w ||| x.1.mask else w) w).getLsbD i =
        (w.getLsbD i || l.any fun x => p x.2.1 && x.1.mask.getLsbD i) := by
    intro l
    induction l with
    | nil => simp
    | cons x l ih =>
      intro w
      rw [List.foldl_cons, ih, List.any_cons]
      cases p x.2.1 <;> simp [Bool.or_assoc]
  exact (hfold d.fields 0).trans (by simp)

/-- A register with no bit of some codes has none of fewer codes. -/
theorem RegDesc.accMask_eq_zero_of_imp {d : RegDesc} {p q : Acc → Bool} (hpq : ∀ a, p a = true → q a = true)
    (h : d.accMask q = 0) : d.accMask p = 0 := by
  apply BitVec.eq_of_getLsbD_eq
  intro i _
  have hq : (d.accMask q).getLsbD i = false := by rw [h]; exact BitVec.getLsbD_zero
  rw [RegDesc.getLsbD_accMask, List.any_eq_false] at hq
  refine (RegDesc.getLsbD_accMask d p i).trans (Eq.trans ?_ BitVec.getLsbD_zero.symm)
  refine List.any_eq_false.mpr fun x hx hp => ?_
  rw [Bool.and_eq_true] at hp
  exact hq x hx (by rw [hpq _ hp.1, hp.2]; rfl)

/-- Without w1c bits a write is taken whole. -/
theorem State.taken_of_acc {s : State} {d : RegDesc} {r : Nat} {v : Word} (h : d.accMask (fun a => decide (a = .w1c)) = 0) :
    s.taken d r v = v := by
  unfold State.taken
  rw [h]
  show v &&& ~~~(0#64 &&& _) = v
  rw [BitVec.zero_and, BitVec.not_zero, BitVec.and_allOnes]

end Sys2Proof.Machine
end

section
/-! SUPPORT. The messages of registers (Machine/Ethernet.lean): taking the first message of an endpoint, and the REQUEST_DONE that
answers it (R257, R304, R315). -/

namespace Sys2Proof.Machine

/-! ### One register, and the bits of it that the part has set in this tick -/

/-- Register o, and the record of the bits of it that the part has set in this tick, are as they were. -/
def RegKept (o : Nat) (s t : State) : Prop :=
  t.reg o = s.reg o ∧ SMap.look 0 t.tick.raised o = SMap.look 0 s.tick.raised o

theorem RegKept.refl (o : Nat) (s : State) : RegKept o s s := ⟨rfl, rfl⟩

theorem RegKept.trans {o : Nat} {s t u : State} (h : RegKept o s t) (g : RegKept o t u) : RegKept o s u :=
  ⟨g.1.trans h.1, g.2.trans h.2⟩

theorem RegKept.of_eq {o : Nat} {s t : State} (hregs : t.regs = s.regs) (htick : t.tick = s.tick) : RegKept o s t :=
  ⟨State.reg_of_regs hregs o, by rw [htick]⟩

theorem RegKept.setFld {o off : Nat} (s : State) (f : Fld) (v : Nat) (h : o ≠ off) : RegKept o s (s.setFld off f v) :=
  ⟨State.setFld_reg_ne _ _ _ h, rfl⟩

theorem RegKept.setBit {o off : Nat} (s : State) (f : Fld) (b : Bool) (h : o ≠ off) : RegKept o s (s.setBit off f b) := by
  cases b
  · exact .setFld s f _ h
  · exact ⟨State.setBit_reg_ne _ _ _ h, SMap.look_put_ne _ _ _ _ _ h⟩

theorem RegKept.setEp (o : Nat) (s : State) (q : Nat) (e : Endpoint) : RegKept o s (s.setEp q e) := .of_eq rfl rfl

theorem RegKept.setBuf (o : Nat) (s : State) (b : Nat) (x : BufState) : RegKept o s (s.setBuf b x) := .of_eq rfl rfl

theorem RegKept.each {α : Type} {o : Nat} (l : List α) {f : State → α → State} (h : ∀ s x, RegKept o s (f s x))
    (s : State) : RegKept o s (s.each l f) := by
  unfold State.each
  induction l generalizing s with
  | nil => exact .refl o s
  | cons x l ih => exact (h s x).trans (ih _)

theorem RegKept.taken {o : Nat} {s t : State} (h : RegKept o s t) (d : RegDesc) (v : Word) : t.taken d o v = s.taken d o v := by
  unfold State.taken; rw [h.2]

/-- No register of the errors of Groundsheet (R256). -/
def EccFree (o : Nat) : Prop := o ≠ R.gshEccStatus ∧ o ≠ R.gshEccCeCnt ∧ o ≠ R.gshEccUeCnt

theorem eccFree_of_window {o : Nat} (h : regWindow o ≠ 17) : EccFree o :=
  ⟨fun e => h (e ▸ rfl), fun e => h (e ▸ rfl), fun e => h (e ▸ rfl)⟩

theorem eccFree_gshFifoCfg (n : Nat) : EccFree (R.gshFifoCfg n) := by
  unfold EccFree R.gshFifoCfg R.gshEccStatus R.gshEccCeCnt R.gshEccUeCnt famOff
  split <;> omega

section
variable {o : Nat} (h : EccFree o)
include h

theorem RegKept.eccAt (s : State) (a : Nat) : RegKept o s (s.eccAt a) :=
  (RegKept.setFld s _ _ h.1).trans (.setFld _ _ _ h.1)

theorem RegKept.recordCe (s : State) (a : Nat) : RegKept o s (s.recordCe a) :=
  ((RegKept.eccAt h s a).trans (.setBit _ _ _ h.1)).trans (.setFld _ _ _ h.2.1)

theorem RegKept.recordUe (s : State) (a : Nat) : RegKept o s (s.recordUe a) :=
  ((RegKept.eccAt h s a).trans (.setBit _ _ _ h.1)).trans (.setFld _ _ _ h.2.2)

/-- A read of a word records its errors in the registers for them alone. -/
theorem RegKept.touch (s : State) (a : Nat) : RegKept o s (s.touch a) := by
  unfold State.touch State.correct
  split
  · exact .recordUe h s a
  · split
    · exact (RegKept.recordCe h s a).trans (.of_eq rfl rfl)
    · exact .refl o s

/-- Taking a message reads its words and frees its buffers. -/
theorem RegKept.popInbox (s : State) (q : Nat) : RegKept o s (s.popInbox q) := by
  unfold State.popInbox
  dsimp only
  refine RegKept.trans ?_ (.setEp o _ q _)
  split
  · exact .refl o s
  · exact (RegKept.each _ (RegKept.touch h) s).trans (.each _ (fun s b => .setBuf o s b .free) _)

end

/-! ### Taking a message -/

theorem State.popInbox_keeps (s : State) (q : Nat) : Keeps 0x1200009004000C s (s.popInbox q) :=
  State.popInbox_step q rfl rfl (Keeps.refl _ s)

theorem State.ep_setEp_self (s : State) (q : Nat) (e : Endpoint) : (s.setEp q e).ep q = e := SMap.look_put_self _ _ _ _

theorem State.ep_of_hif {s t : State} (h : t.hif = s.hif) (q : Nat) : t.ep q = s.ep q := by
  unfold State.ep; rw [h]

theorem State.popInbox_inbox (s : State) (q : Nat) : ((s.popInbox q).ep q).inbox = (s.ep q).inbox.drop 1 := by
  unfold State.popInbox
  dsimp only
  rw [State.ep_setEp_self]
  split
  · rfl
  · rw [State.ep_of_hif]
    exact (State.setBufList_step (msk := 0x200008000000C) _ _ rfl rfl
      (State.touchAll_step _ rfl rfl (Keeps.refl _ s))).hif (.inl rfl) rfl

/-- What a message that is to be executed tells of the part. -/
theorem State.firstMessage_some {s : State} {q type x : Nat} {ws : List Word} (h : s.firstMessage q type = some (x, ws)) :
    s.up = true ∧ msgType ws = type := by
  unfold State.firstMessage at h
  split at h
  · cases h
  · rename_i hon
    split at h
    · cases h
    · split at h
      · rename_i htype
        obtain ⟨-, rfl⟩ := Prod.mk.inj (Option.some.inj h)
        simp only [Bool.or_eq_true, Bool.not_eq_true', not_or, Bool.not_eq_false] at hon
        exact ⟨hon.2, htype⟩
      · cases h

/-! ### The done FIFO -/

theorem State.doneFifo_some {s : State} {q n : Nat} (h : s.doneFifo q = some n) :
    s.fifoOn n = true ∧ s.fifoDir1 n = false := by
  unfold State.doneFifo at h
  dsimp only at h
  split at h
  · rename_i hown
    cases h
    obtain ⟨hown, hdir⟩ := hown
    unfold State.ownsFifo at hown
    rw [Bool.and_eq_true] at hown
    exact ⟨hown.1, by simpa using hdir⟩
  · cases h

theorem State.doneFifo_of_regs {s t : State} {q : Nat} (hpit : t.reg (R.pitCfg q) = s.reg (R.pitCfg q))
    (hfifo : ∀ n, t.reg (R.gshFifoCfg n) = s.reg (R.gshFifoCfg n)) : t.doneFifo q = s.doneFifo q := by
  unfold State.doneFifo State.ownsFifo State.fifoOn State.fifoPitch State.fifoDir1 State.bit State.fld
  simp only [hpit, hfifo]

/-! ### The REQUEST_DONE -/

theorem Status.code_lt (st : Status) : st.code < 256 := by cases st <;> decide

/-- The fields of word 2 of a REQUEST_DONE (R318). -/
theorem doneWord_fields (port code type exch tag : Nat) (hcode : code < 256) (htag : tag < 2 ^ 32) :
    Word.get (BitVec.ofNat 64 (port % 256 * 2 ^ 56 + code * 2 ^ 48 + type % 256 * 2 ^ 40 + exch % 256 * 2 ^ 32 + tag)) (55, 48)
      = code ∧
    Word.get (BitVec.ofNat 64 (port % 256 * 2 ^ 56 + code * 2 ^ 48 + type % 256 * 2 ^ 40 + exch % 256 * 2 ^ 32 + tag)) (47, 40)
      = type % 256 := by
  unfold Word.get
  simp only [BitVec.toNat_ofNat]
  omega

/-- Word w is a REQUEST_DONE with this status, type and body, whatever its other fields. -/
structure IsDone (w : List Word) (st : Status) (type : Nat) (body : List Word) : Prop where
  kind : bf w 0 63 56 = 0x24
  status : bf w 2 55 48 = st.code
  type_ : bf w 2 47 40 = type % 256
  count : bf w 4 15 0 = body.length % 65536
  word : ∀ i, w.getD (i + 5) 0 = body.getD i 0

theorem word4_top (a b c d : Nat) : Word.get (word4 a b c d) (63, 56) = a % 256 := by
  unfold Word.get word4
  simp only [BitVec.toNat_ofNat]
  omega

theorem countWord_low (a b n : Nat) : Word.get (BitVec.ofNat 64 (a * 2 ^ 32 + b * 2 ^ 16 + n % 65536)) (15, 0) = n % 65536 := by
  unfold Word.get
  simp only [BitVec.toNat_ofNat]
  omega

theorem State.takeSeq_reg_ne (s : State) {n o : Nat} (h : o ≠ R.gshFifoSeq n) : (s.takeSeq n).reg o = s.reg o :=
  State.setFld_reg_ne s _ _ h

/-- A packet for a FIFO that holds one back is held too, with its sequence number taken (R270). -/
theorem State.commitDone_held {s : State} {n : Nat} (ws : List Word) (hon : s.fifoOn n = true) (hdir : s.fifoDir1 n = false)
    (hheld : (s.fifo n).held ≠ []) :
    s.commitDone n ws = (s.takeSeq n).setFifo n { (s.takeSeq n).fifo n with
      held := ((s.takeSeq n).fifo n).held ++ [seqWords (s.nextSeq n) ws] } := by
  unfold State.commitDone
  simp [hon, hdir, hheld]

theorem State.trace_keeps (s : State) (type src detail : Nat) : Keeps 0x1000000002000000 s (s.trace type src detail) :=
  State.trace_step type src detail rfl rfl (Keeps.refl _ s)

/-- A trace record leaves the registers outside TRL. -/
theorem State.trace_reg (s : State) (type src detail : Nat) {o : Nat} (h : regWindow o ≠ 28) :
    (s.trace type src detail).reg o = s.reg o := by
  refine (State.trace_keeps s type src detail).regs (.inl rfl) o ?_
  show (2 ^ 60 ||| 2 ^ 25 : Nat).testBit (32 + regWindow o) = false
  rw [Nat.testBit_or, Nat.testBit_two_pow, Nat.testBit_two_pow, Bool.or_eq_false_iff, decide_eq_false_iff_not,
    decide_eq_false_iff_not]
  omega

/-- The end of a register message whose done FIFO holds a REQUEST_DONE back. -/
structure Answered (q n : Nat) (st : Status) (type : Nat) (body : List Word) (s t : State) : Prop where
  held : ∃ w, (t.fifo n).held = (s.fifo n).held ++ [w] ∧ IsDone w st type body
  hif : t.hif = s.hif
  reg : ∀ o, regWindow o ∉ [17, 28] → t.reg o = s.reg o

theorem State.regDone_answered {s : State} {q n : Nat} (ws : List Word) (st : Status) (body : List Word)
    (hdone : s.doneFifo q = some n) (hheld : (s.fifo n).held ≠ []) :
    Answered q n st (msgType ws) body s (s.regDone q ws st false body) := by
  obtain ⟨hon, hdir⟩ := State.doneFifo_some hdone
  have hdone1 : (s.skip 1).doneFifo q = some n := hdone
  unfold State.regDone State.requestDone
  simp only [hdone1]
  rw [State.commitDone_held (s := s.skip 1) _ hon hdir hheld]
  refine ⟨⟨?w, ?held, ?packet⟩, ?hif, fun o ho => ?reg⟩
  case held =>
    rw [(State.trace_keeps _ _ _ _).fifo_eq n, State.setFifo_fifo_self]
    rfl
  case packet =>
    have hfields := doneWord_fields (Config.freeNat s.fresh % 256) st.code (msgType ws) 0 (Word.get (ws.getD 0 0) (31, 0))
      st.code_lt (Word.get_lt _ _)
    exact {
      kind := (Word.get_put_apart _ _ _ _ (by decide) (by decide)).trans (word4_top _ _ _ _)
      status := hfields.1
      type_ := hfields.2
      count := countWord_low _ _ _
      word := fun _ => rfl }
  case hif => exact (State.trace_keeps _ _ _ _).hif (.inl rfl) rfl
  case reg =>
    simp only [List.mem_cons, List.not_mem_nil, or_false, not_or] at ho
    obtain ⟨hgsh, htrl⟩ := ho
    have hseq : o ≠ R.gshFifoSeq n := fun e => hgsh (e ▸ regWindow_gshFifoSeq n)
    rw [State.trace_reg _ _ _ _ htrl]
    exact State.takeSeq_reg_ne (s.skip 1) hseq

end Sys2Proof.Machine
end

section
/-! SUPPORT. REG_READ and REG_WRITE of one register (R304, R315), and of a message that cannot be read (R257). -/

namespace Sys2Proof.Machine

/-! ### What a message that has been taken leaves -/

theorem State.popInbox_up (s : State) (q : Nat) : (s.popInbox q).up = s.up := (s.popInbox_keeps q).up_eq

theorem State.popInbox_fifos (s : State) (q : Nat) : (s.popInbox q).fifos = s.fifos :=
  (s.popInbox_keeps q).fifos (.inl rfl) rfl

theorem State.popInbox_locked (s : State) (q : Nat) : (s.popInbox q).locked = s.locked :=
  (s.popInbox_keeps q).bit_eq regWindow_cfgStatus _

theorem State.popInbox_doneFifo (s : State) (q p : Nat) : (s.popInbox q).doneFifo p = s.doneFifo p :=
  State.doneFifo_of_regs
    (RegKept.popInbox (eccFree_of_window (by rw [regWindow_pitCfg]; decide)) s q).1
    (fun n => (RegKept.popInbox (eccFree_gshFifoCfg n) s q).1)

/-- The answer of a message of endpoint q, from a state u in which it has been taken and executed. -/
theorem State.regDone_message {s u : State} {q n : Nat} (ws : List Word) (st : Status) (body : List Word)
    (hhif : u.hif = (s.popInbox q).hif) (hfifos : u.fifos = s.fifos) (hdone : u.doneFifo q = some n)
    (hheld : (s.fifo n).held ≠ []) :
    ∃ w, ((u.regDone q ws st false body).ep q).inbox = (s.ep q).inbox.drop 1 ∧
      ((u.regDone q ws st false body).fifo n).held = (s.fifo n).held ++ [w] ∧ IsDone w st (msgType ws) body ∧
      ∀ o, regWindow o ∉ [17, 28] → (u.regDone q ws st false body).reg o = u.reg o := by
  have hfifo : u.fifo n = s.fifo n := by unfold State.fifo; rw [hfifos]
  obtain ⟨⟨w, happend, hpacket⟩, hkept, hreg⟩ := State.regDone_answered ws st body hdone (hfifo ▸ hheld)
  refine ⟨w, ?_, hfifo ▸ happend, hpacket, hreg⟩
  rw [State.ep_of_hif (hkept.trans hhif), State.popInbox_inbox]

/-! ### A message with an uncorrectable word (R257) -/

theorem State.regReadMsg_ue {s : State} {q x : Nat} {ws : List Word} (hfirst : s.firstMessage q 0x08 = some (x, ws))
    (hue : s.inboxUe q = true) : s.regReadMsg q = (s.popInbox q).regDone q ws .abandoned false [] := by
  unfold State.regReadMsg
  simp only [hfirst, hue, if_true]

theorem State.regWriteMsg_ue {s : State} {q x : Nat} {ws : List Word} (hfirst : s.firstMessage q 0x09 = some (x, ws))
    (hue : s.inboxUe q = true) : s.regWriteMsg q = (s.popInbox q).regDone q ws .abandoned false [] := by
  unfold State.regWriteMsg
  simp only [hfirst, hue, if_true]

/-! ### One register -/

theorem regFault_none {q len : Nat} {ws : List Word} (hpitch : bf ws 0 55 48 = q) (hcount : regCount ws = 1)
    (hlen : ws.length = len) (h3 : 3 ≤ len) : regFault q ws len = none := by
  simp [regFault, hpitch, hcount, hlen, Nat.not_lt.mpr h3]

theorem State.busReads_one {s : State} {m : Master} {off r : Nat} (hup : s.up = true) (hoff : off % 8 = 0)
    (hplace : s.place m off = .reg r) (halloc : arr (R.gshBufAlloc 0) 0x20 9 r = none) :
    s.busReads m off 1 = (s, [s.regWord r], false, false) := by
  simp [State.busReads, hup, hoff, State.busRead_reg hplace true halloc, Got.ok]

theorem State.busWrites_one {s : State} {m : Master} {off r : Nat} (v : Word) (hup : s.up = true) (hoff : off % 8 = 0)
    (hplace : s.place m off = .reg r) : s.busWrites m off [v] = (s.newCycle.busWrite64 m off v, false) := by
  simp [State.busWrites, State.badWrite, hup, hoff, hplace]

section
variable {s : State} {q x r : Nat} {ws : List Word} (hpitch : bf ws 0 55 48 = q) (hcount : regCount ws = 1)
  (hoff : regOff ws % 8 = 0) (hplace : (s.popInbox q).place (epMaster q x) (regOff ws) = .reg r) (hue : s.inboxUe q = false)
include hpitch hcount hoff hplace hue

theorem State.regReadMsg_one (hfirst : s.firstMessage q 0x08 = some (x, ws)) (hlen : ws.length = 3)
    (halloc : arr (R.gshBufAlloc 0) 0x20 9 r = none) :
    s.regReadMsg q = (s.popInbox q).regDone q ws .ok false [(s.popInbox q).regWord r] := by
  have hup : (s.popInbox q).up = true := (s.popInbox_up q).trans (State.firstMessage_some hfirst).1
  unfold State.regReadMsg
  simp [hfirst, hue, regFault_none hpitch hcount hlen, hcount, State.busReads_one hup hoff hplace halloc, hup]

theorem State.regWriteMsg_one {d : RegDesc} (hfirst : s.firstMessage q 0x09 = some (x, ws)) (hlen : ws.length = 4)
    (hreg : regAt r = some d) (hplain : hookAt writeHooks r = none) :
    s.regWriteMsg q =
      ((s.popInbox q).newCycle.plainWrite (epMaster q x) r (ws.getD 3 0)).regDone q ws .ok false [] := by
  have hup : (s.popInbox q).up = true := (s.popInbox_up q).trans (State.firstMessage_some hfirst).1
  have hdata : ws.drop 3 = [ws.getD 3 0] := by
    rw [List.drop_eq_getElem_cons (by omega), List.drop_eq_nil_of_le (by omega), List.getD_eq_getElem _ _ (by omega)]
  have hwrite := State.busWrite64_plain (s := (s.popInbox q).newCycle) (ws.getD 3 0) hplace hplain
  have hupAfter := (State.plainWrite_up (s := (s.popInbox q).newCycle) (epMaster q x) (ws.getD 3 0) hreg).trans hup
  unfold State.regWriteMsg
  simp only [hfirst, hue, hcount, regFault_none hpitch hcount hlen (by decide), hdata, State.busWrites_one _ hup hoff hplace,
    hwrite, hupAfter]
  rfl

end

end Sys2Proof.Machine
end

section
/-! SUPPORT. The commands that access one register: UPPER_HALF_WRITE, REGISTER_WRITE, REG_READ and REG_WRITE. -/

namespace Sys2Proof.Machine

/-! ### Writes of one cycle (R6, R286, R320, R414) -/

/-- The word at offset x of the view of master m is register r, and the access is served. -/
structure Reaches (s : State) (m : Master) (x r : Nat) : Prop where
  serves : s.serves m x = true
  aligned : x % 8 = 0
  place : s.place m x = .reg r

theorem Reaches.writes {s : State} {m : Master} {x r n : Nat} (h : Reaches s m x r) (v : Word) (hn : n = 8 ∨ n = 4) :
    s.writes { master := m, off := x, size := n, data := v } = some r := State.writes_reg h.serves h.aligned h.place hn

/-- A write of an upper half alone is staged, and nothing else changes (R414). -/
theorem exec_upperHalfWrite_stages {m : Master} {x r : Nat} {s : State} (v : BitVec 32) (hserves : s.serves m (x + 4) = true)
    (hx : x % 8 = 0) (hplace : s.place m x = .reg r) :
    ∃ t, exec (.upperHalfWrite m (x + 4) v) s = .next t ∧ sameBut [.pit] s t ∧
      SMap.find t.pit.stage m.val = some (x, v) := by
  have hcycle := State.cycleWrites_single (s := s) (w := ⟨m, x + 4, 4, v.setWidth 64⟩) (by
    rw [State.writes_upper hx hplace]; exact nofun)
  rw [State.oneWrite_upper (s := s.newCycle) hplace hx _ _ hserves] at hcycle
  have hframe : Keeps 0x80000 s (s.cycleWrites [⟨m, x + 4, 4, v.setWidth 64⟩]) := by
    rw [hcycle]
    exact State.setPit_step _ rfl rfl (State.newCycle_step rfl rfl (Keeps.refl _ s))
  refine ⟨_, rfl, hframe.sameBut (.inl rfl) _, ?_⟩
  rw [hcycle]
  refine (SMap.find_ins_self _ _ _).trans ?_
  rw [BitVec.setWidth_setWidth_of_le v (by decide), BitVec.setWidth_eq]

/-- A plain write of 8 bytes, alone in its cycle (R6). -/
theorem exec_registerWrite_wide {m : Master} {r x : Nat} {d : RegDesc} (v : Word) {s : State} (h : Reaches s m x r)
    (hreg : regAt r = some d) (hplain : hookAt writeHooks r = none) :
    ∃ t, exec (.registerWrite [{ master := m, off := x, size := 8, data := v }]) s = .next t ∧
      t.reg r = mergeWrite (s.locked || !privileged m) d (s.reg r) (s.taken d r v) ∧ ∀ o, o ≠ r → t.reg o = s.reg o := by
  have hcycle : s.cycleWrites [⟨m, x, 8, v⟩] = s.newCycle.plainWrite m r v := by
    rw [State.cycleWrites_single (by rw [h.writes v (.inl rfl)]; rintro _ ⟨⟩; exact hplain),
      State.oneWrite_wide (s := s.newCycle) h.place h.aligned _ _ h.serves]
    exact State.busWrite64_plain (s := s.newCycle) v h.place hplain
  refine ⟨_, rfl, ?_, fun o ho => ?_⟩
  · rw [hcycle]
    exact State.plainWrite_reg (s := s.newCycle) m v hreg
  · rw [hcycle]
    exact State.plainWrite_reg_ne (s := s.newCycle) m v hreg ho

/-- A plain write of a lower half takes the staged upper one (R414). -/
theorem exec_registerWrite_staged {m : Master} {r x : Nat} {d : RegDesc} (v : Word) {hi : BitVec 32} {s : State}
    (h : Reaches s m x r) (hreg : regAt r = some d) (hplain : hookAt writeHooks r = none)
    (hstage : SMap.find s.pit.stage m.val = some (x, hi)) :
    ∃ t, exec (.registerWrite [{ master := m, off := x, size := 4, data := v }]) s = .next t ∧
      t.reg r = mergeWrite (s.locked || !privileged m) d (s.reg r)
        (s.taken d r (((hi.setWidth 64) <<< 32) ||| (v &&& 0xFFFFFFFF))) ∧
      SMap.find t.pit.stage m.val = none := by
  let u := s.newCycle.setPit { s.pit with stage := SMap.del m.val s.pit.stage }
  have hcycle : s.cycleWrites [⟨m, x, 4, v⟩] = u.plainWrite m r (((hi.setWidth 64) <<< 32) ||| (v &&& 0xFFFFFFFF)) := by
    rw [State.cycleWrites_single (by rw [h.writes v (.inr rfl)]; rintro _ ⟨⟩; exact hplain),
      State.oneWrite_staged (s := s.newCycle) h.place h.aligned _ _ h.serves hstage]
    exact State.busWrite64_plain (s := u) _ h.place hplain
  refine ⟨_, rfl, ?_, ?_⟩
  · rw [hcycle]
    exact State.plainWrite_reg (s := u) m _ hreg
  · rw [hcycle, State.plainWrite_pit m _ hreg]
    exact SMap.find_del_self _ _

/-- Two masters write one register in one cycle: the lower wins, and the other is counted (R320). -/
theorem exec_registerWrite_contended {m b : Master} {r x y : Nat} {d : RegDesc} (v u : Word) {s : State}
    (h : Reaches s m x r) (hreg : regAt r = some d) (hplain : hookAt writeHooks r = none) (hlt : m.val < b.val)
    (hb : Reaches s b y r) (hacc : d.accMask (fun a => decide (a = .w1c) || decide (a = .sc)) = 0)
    (hr : r ≠ R.pitContend) :
    ∃ t, exec (.registerWrite [{ master := b, off := y, size := 8, data := u },
        { master := m, off := x, size := 8, data := v }]) s = .next t ∧
      t.reg r = mergeWrite (s.locked || !privileged m) d (s.reg r) v ∧
      t.fld R.pitContend F.pitContend.count = min 0xFFFFFFFF (s.fld R.pitContend F.pitContend.count + 1) ∧
      t.fld R.pitContend F.pitContend.master = b.val := by
  have hw1c : d.accMask (fun a => decide (a = .w1c)) = 0 :=
    RegDesc.accMask_eq_zero_of_imp (fun a ha => by rw [ha]; rfl) hacc
  have hcycle : s.cycleWrites [⟨b, y, 8, u⟩, ⟨m, x, 8, v⟩] = (s.newCycle.plainWrite m r v).contend [⟨b, y, 8, u⟩] := by
    rw [State.cycleWrites_pair hlt (h.writes v (.inl rfl)) (hb.writes u (.inl rfl)) rfl hreg hplain hacc,
      State.oneWrite_wide (s := s.newCycle) h.place h.aligned _ _ h.serves]
    exact congrArg (State.contend · _) (State.busWrite64_plain (s := s.newCycle) v h.place hplain)
  obtain ⟨hcount, hmaster⟩ := State.contend_one (s.newCycle.plainWrite m r v) ⟨b, y, 8, u⟩
  refine ⟨_, rfl, ?_, ?_, ?_⟩
  · rw [hcycle, State.contend_reg_ne _ _ hr, State.plainWrite_reg m v hreg, State.taken_of_acc hw1c]
    rfl
  · rw [hcycle, hcount, State.fld_of_reg (State.plainWrite_reg_ne m v hreg hr.symm)]
    rfl
  · rw [hcycle, hmaster]

/-! ### Messages (R257, R304, R315) -/

/-- A message of endpoint q about register r alone, from port x, where the done FIFO n holds a REQUEST_DONE back. -/
structure RegMessage (s : State) (q x n : Nat) (ws : List Word) (r : Nat) : Prop where
  pitch : bf ws 0 55 48 = q
  count : regCount ws = 1
  aligned : regOff ws % 8 = 0
  place : (s.popInbox q).place (epMaster q x) (regOff ws) = .reg r
  done : s.doneFifo q = some n
  held : (s.fifo n).held ≠ []

/-- REG_READ of one register (R304, R315). -/
theorem exec_regRead_done {q : Fin 9} {x r n : Nat} {ws : List Word} {s : State} (h : RegMessage s q x n ws r)
    (hfirst : s.firstMessage q 0x08 = some (x, ws)) (hue : s.inboxUe q = false) (hlen : ws.length = 3)
    (halloc : arr (R.gshBufAlloc 0) 0x20 9 r = none) :
    ∃ t w, exec (.regRead q) s = .next t ∧ (t.ep q).inbox = (s.ep q).inbox.drop 1 ∧
      (t.fifo n).held = (s.fifo n).held ++ [w] ∧ bf w 0 63 56 = 0x24 ∧ bf w 2 55 48 = 0 ∧ bf w 2 47 40 = 0x08 ∧
      bf w 4 15 0 = 1 ∧ w.getD 5 0 = (s.popInbox q).regWord r := by
  obtain ⟨-, htype⟩ := State.firstMessage_some hfirst
  have hmsg := State.regReadMsg_one h.pitch h.count h.aligned h.place hue hfirst hlen halloc
  obtain ⟨w, hinbox, happend, hpacket, -⟩ := State.regDone_message ws .ok [(s.popInbox q).regWord r] rfl
    (s.popInbox_fifos q) ((s.popInbox_doneFifo q q).trans h.done) h.held
  rw [← hmsg] at hinbox happend
  exact ⟨_, w, rfl, hinbox, happend, hpacket.kind, hpacket.status, hpacket.type_.trans (by rw [htype]), hpacket.count,
    hpacket.word 0⟩

/-- A register message with an uncorrectable word is not executed (R257). -/
theorem exec_regMessage_abandoned {q : Fin 9} {x n type : Nat} {ws : List Word} {s : State} {c : Instr}
    (hc : (c, type) ∈ [(Instr.regRead q, 0x08), (.regWrite q, 0x09)]) (hdone : s.doneFifo q = some n)
    (hheld : (s.fifo n).held ≠ []) (hfirst : s.firstMessage q type = some (x, ws)) (hue : s.inboxUe q = true) :
    ∃ t w, exec c s = .next t ∧ (t.ep q).inbox = (s.ep q).inbox.drop 1 ∧
      (t.fifo n).held = (s.fifo n).held ++ [w] ∧ bf w 0 63 56 = 0x24 ∧ bf w 2 55 48 = 0x10 ∧ bf w 2 47 40 = type ∧
      bf w 4 15 0 = 0 ∧ ∀ o, regWindow o ∉ [17, 28] → t.reg o = s.reg o := by
  obtain ⟨-, htype⟩ := State.firstMessage_some hfirst
  have hexec : exec c s = .next ((s.popInbox q).regDone q ws .abandoned false []) ∧ type < 256 := by
    simp only [List.mem_cons, Prod.mk.injEq, List.not_mem_nil, or_false] at hc
    rcases hc with ⟨rfl, rfl⟩ | ⟨rfl, rfl⟩
    · exact ⟨congrArg Host.Outcome.next (State.regReadMsg_ue hfirst hue), by decide⟩
    · exact ⟨congrArg Host.Outcome.next (State.regWriteMsg_ue hfirst hue), by decide⟩
  obtain ⟨w, hinbox, happend, hpacket, hreg⟩ := State.regDone_message ws .abandoned [] rfl
    (s.popInbox_fifos q) ((s.popInbox_doneFifo q q).trans hdone) hheld
  refine ⟨_, w, hexec.1, hinbox, happend, hpacket.kind, hpacket.status, ?_, hpacket.count, fun o ho => ?_⟩
  · rw [hpacket.type_, htype, Nat.mod_eq_of_lt hexec.2]
  · rw [hreg o ho]
    exact (RegKept.popInbox (eccFree_of_window fun h => ho (by simp [h])) s q).1

/-- REG_WRITE of one register (R304, R315). -/
theorem exec_regWrite_done {q : Fin 9} {x r n : Nat} {ws : List Word} {s : State} {d : RegDesc} (h : RegMessage s q x n ws r)
    (hfirst : s.firstMessage q 0x09 = some (x, ws)) (hue : s.inboxUe q = false) (hlen : ws.length = 4)
    (hreg : regAt r = some d) (hplain : hookAt writeHooks r = none) (hwindow : regWindow r ∉ [17, 20, 28]) :
    ∃ t w, exec (.regWrite q) s = .next t ∧ (t.ep q).inbox = (s.ep q).inbox.drop 1 ∧
      t.reg r = mergeWrite (s.locked || !privileged (epMaster q x)) d (s.reg r) (s.taken d r (ws.getD 3 0)) ∧
      (t.fifo n).held = (s.fifo n).held ++ [w] ∧ bf w 2 55 48 = 0 ∧ bf w 2 47 40 = 0x09 ∧ bf w 4 15 0 = 0 := by
  simp only [List.mem_cons, List.not_mem_nil, or_false, not_or] at hwindow
  obtain ⟨hgsh, hpit, htrl⟩ := hwindow
  obtain ⟨-, htype⟩ := State.firstMessage_some hfirst
  have hkept : RegKept r s (s.popInbox q) := RegKept.popInbox (eccFree_of_window hgsh) s q
  have hmsg := State.regWriteMsg_one h.pitch h.count h.aligned h.place hue hfirst hlen hreg hplain
  let u := (s.popInbox q).newCycle.plainWrite (epMaster q x) r (ws.getD 3 0)
  have hother : ∀ o, o ≠ r → u.reg o = (s.popInbox q).reg o := fun o ho =>
    State.plainWrite_reg_ne (s := (s.popInbox q).newCycle) _ _ hreg ho
  have hdoneAfter : u.doneFifo q = some n := by
    rw [← h.done, ← s.popInbox_doneFifo q q]
    exact State.doneFifo_of_regs (hother _ fun heq => hpit (heq ▸ regWindow_pitCfg q))
      fun i => hother _ fun heq => hgsh (heq ▸ regWindow_gshFifoCfg i)
  have hwritten : u.reg r =
      mergeWrite (s.locked || !privileged (epMaster q x)) d (s.reg r) (s.taken d r (ws.getD 3 0)) := by
    rw [← hkept.1, ← hkept.taken, ← s.popInbox_locked q]
    exact State.plainWrite_reg (s := (s.popInbox q).newCycle) _ _ hreg
  obtain ⟨w, hinbox, happend, hpacket, hregs⟩ := State.regDone_message (s := s) (u := u) ws .ok []
    (State.plainWrite_hif (s := (s.popInbox q).newCycle) _ _ hreg)
    ((State.plainWrite_fifos (s := (s.popInbox q).newCycle) _ _ hreg).trans (s.popInbox_fifos q)) hdoneAfter h.held
  have hafter := (hregs r (by simp [hgsh, htrl])).trans hwritten
  rw [← hmsg] at hinbox happend hafter
  exact ⟨_, w, rfl, hinbox, hafter, happend, hpacket.status, hpacket.type_.trans (by rw [htype]), hpacket.count⟩

end Sys2Proof.Machine
end

section
/-! The statements of 00_scope.md, settled. -/

open Sys2Proof Sys2Proof.Machine

/-- Settles O1: the first arm of a step on a queue that is not empty. -/
theorem stepRunsFront : Obligations.StepRunsFront := by
  intro c rest s h
  exact step_cons h

/-- Settles O2: the step takes the front command off, and no command puts one on or takes one off (`exec_pending`). -/
theorem queueInOrder : Obligations.QueueInOrder := by
  intro c rest s t hq ht
  rw [step_cons hq] at ht
  exact exec_pending ht

/-- Settles O5: a command either tests its operand as `Instr.wf` does, or always completes (`exec_settles`). -/
theorem completesOrFaults : Obligations.CompletesOrFaults := exec_settles

/-- Settles O3: the frame of the tick, its clock, and the tick without work. -/
theorem tickPasses : Obligations.TickPasses := by
  intro s hq
  have hframe := s.idle_keeps
  refine ⟨s.idle, step_nil hq, ?_, ?_, ?_, hframe.pending.trans hq, hframe.sameBut (.inl rfl) _, ?_⟩
  · rw [s.idle_clock]
  · rw [s.idle_clock]
  · rw [s.idle_clock]
  · intro hr hb hx
    obtain ⟨c, hidle⟩ := State.idle_quiet hr hb hx
    have hclock : Keeps 0x1 s ((s.setClock c).setTick Tick.dflt) :=
      State.setTick_step _ rfl rfl (s.setClock_keeps c)
    rw [hidle]
    exact hclock.sameBut (.inl rfl) _

/-- Settles O40: reads and staged writes of halves, plain writes with their w1c, rwl and contended forms, and the register
messages of an endpoint. -/
theorem registerAccesses : Obligations.RegisterAccesses := by
  refine ⟨?halves, ?writes, ?messages⟩
  case halves =>
    intro m x r s hserves hserves4 hx hplace halloc
    refine ⟨?lower, fun hi hsnap => ?tagged, fun hsnap => ?live, fun v => exec_upperHalfWrite_stages v hserves4 hx hplace⟩
    case lower =>
      refine ⟨_, congrArg Host.Outcome.next (State.narrowRead_lower hplace hx halloc hserves), rfl, ?_,
        SMap.find_ins_self _ _ _⟩
      rw [← loHalf_eq]
      exact SMap.find_ins_self _ _ _
    case tagged =>
      exact ⟨_, congrArg Host.Outcome.next (State.narrowRead_tagged hx hserves4 hsnap), SMap.find_del_self _ _,
        SMap.find_ins_self _ _ _⟩
    case live =>
      exact ⟨_, congrArg Host.Outcome.next (State.narrowRead_live hplace hx hserves4 hsnap), rfl, SMap.find_ins_self _ _ _⟩
  case writes =>
    intro m r x d v s hserves hx hplace hreg hplain
    have h : Reaches s m x r := ⟨hserves, hx, hplace⟩
    refine ⟨exec_registerWrite_wide v h hreg hplain, fun hi hstage => exec_registerWrite_staged v h hreg hplain hstage, ?_⟩
    intro b y u hlt hservesB hy hplaceB hacc hr
    exact exec_registerWrite_contended v u h hreg hplain hlt ⟨hservesB, hy, hplaceB⟩ hacc hr
  case messages =>
    rintro q x r n ws _ s hpitch hcount rfl hoff hplace hdone - hheld
    have h : RegMessage s q x n ws r := ⟨hpitch, hcount, hoff, hplace, hdone, hheld⟩
    refine ⟨?read, ?abandoned, ?write⟩
    case read =>
      intro hfirst hue hlen halloc
      exact exec_regRead_done h hfirst hue hlen halloc
    case abandoned =>
      intro c type hc hfirst hue
      exact exec_regMessage_abandoned hc hdone hheld hfirst hue
    case write =>
      rintro d _ hfirst hue hlen rfl hreg hplain hwindow
      exact exec_regWrite_done h hfirst hue hlen hreg hplain hwindow

end

section
/-! SUPPORT. What a reply start leaves (Machine/Exchange.lean): what it latches in its stake, and what it shows of the sample (R26, R90,
R98, R104). -/

namespace Sys2Proof.Machine

/-! ### An update of each element of a list -/

/-- What an update gives its own element, and keeps of the others, it has given every element of the list. -/
theorem State.each_mem {α : Type} {P : State → α → Prop} {f : State → α → State} (hself : ∀ s x, P (f s x) x)
    (hkeep : ∀ s x y, P s x → P (f s y) x) {l : List α} {x : α} (hx : x ∈ l) (s : State) : P (s.each l f) x := by
  have hstand (l : List α) : ∀ s : State, P s x → P (s.each l f) x := by
    induction l with
    | nil => exact fun _ h => h
    | cons y l ih => exact fun s h => ih _ (hkeep s x y h)
  induction l generalizing s with
  | nil => cases hx
  | cons y l ih =>
    rcases List.mem_cons.mp hx with rfl | hmem
    · exact hstand l _ (hself s x)
    · exact ih hmem _

/-! ### The status of the slices that receive -/

theorem State.stamp_sampled (s : State) (n m : Nat) :
    ((s.stamp n).slice m).sampled = if m = n then s.now else (s.slice m).sampled := by
  unfold State.stamp
  rw [State.modSlice_slice]
  split <;> rfl

/-- An HF slice shows word w of a reply, with the present tick as the time of its sample (R26). -/
def Shows (w : Word) (s : State) (n : Nat) : Prop := s.reg (R.hfaRxStatus n) = w ∧ (s.slice n).sampled = s.now

/-- The update of one slice that receives. -/
def State.showRx (w : Word) (s : State) (n : Nat) : State := (s.setReg (R.hfaRxStatus n) w).stamp n

theorem State.showRx_self (w : Word) (s : State) (n : Nat) : Shows w (s.showRx w n) n :=
  ⟨State.setReg_reg_self _ _ _, ((s.setReg _ w).stamp_sampled n n).trans (if_pos rfl)⟩

/-- Another slice that receives shows the same word. -/
theorem State.showRx_other (w : Word) (s : State) (n m : Nat) (h : Shows w s n) : Shows w (s.showRx w m) n := by
  obtain ⟨hreg, hsampled⟩ := h
  constructor
  · by_cases hoff : R.hfaRxStatus n = R.hfaRxStatus m
    · rw [hoff]
      exact State.setReg_reg_self _ _ _
    · exact (State.setReg_reg_ne _ _ hoff).trans hreg
  · refine ((s.setReg _ w).stamp_sampled m n).trans ?_
    split
    · rfl
    · exact hsampled

/-- Every slice that receives on HF shows the level of the reply and the time of the sample. -/
theorem State.showReply_shows {s : State} {r : Run} (l : Latched) (hhf : isHfPort r.port = true) {n : Nat}
    (hn : n ∈ r.rxPorts.map s.server) :
    (s.showReply r l).fld (R.hfaRxStatus n) F.hfaRxStatus.rssi = l.rssi.toNat ∧ ((s.showReply r l).slice n).sampled = s.now := by
  let w := Word.put (Word.put 0 F.hfaRxStatus.rssi l.rssi.toNat) F.hfaRxStatus.gain l.gain.toNat
  have heach : s.showReply r l = s.each (r.rxPorts.map s.server) (State.showRx w) := if_pos hhf
  have hnow : (s.showReply r l).now = s.now :=
    (State.showReply_step (msk := 0x90000000300) r l rfl rfl (Keeps.refl _ s)).now_eq
  obtain ⟨hreg, hsampled⟩ : Shows w (s.showReply r l) n := by
    rw [heach]
    exact State.each_mem (State.showRx_self w) (State.showRx_other w) hn s
  refine ⟨?_, hsampled.trans hnow⟩
  unfold State.fld
  rw [hreg, Word.get_put_apart _ _ _ _ (by decide) (by decide), Word.get_put_self _ _ _ (by decide)]
  exact Nat.mod_eq_of_lt l.rssi.isLt

/-! ### The start of a reply -/

/-- The exchange waits for a reply: none has started, and the tick lies within it (R104). -/
structure Waits (s : State) (x : Exch) : Prop where
  unseen : x.seen = none
  noPing : x.cmd.isPing = false
  started : x.start ≤ s.now
  lasts : s.now ≤ x.limit

section
variable {s : State} {p : Nat} {o : StartObs} {r : Run} {x : Exch} (hrun : s.runAt p = some r) (hexch : r.exch = some x)
  (hwaits : Waits s x)
include hrun hexch hwaits

/-- No component is seen: nothing changes. -/
theorem State.replyStart_unseen (hnone : strongest (r.compEnergy x.cmd.isWide o.phases) (r.seenStart x.cmd o) = none) :
    s.replyStart p o = s := by
  obtain ⟨hunseen, hping, hstart, hlimit⟩ := hwaits
  unfold State.replyStart
  simp [hrun, hexch, hunseen, hping, Nat.not_lt.mpr hstart, Nat.not_lt.mpr hlimit, hnone]

/-- A component is seen: the stake latches the strongest one, and what receives shows the reply, a Wide Reply's excepted (R173). -/
theorem State.replyStart_seen {top : Component}
    (htop : strongest (r.compEnergy x.cmd.isWide o.phases) (r.seenStart x.cmd o) = some top) :
    ∃ r', s.replyStart p o = (if x.cmd.isWide then s else s.showReply r (s.latch r x.cmd o top)).putRun r' ∧
      r'.stake = r.stake ∧ ∃ x', r'.exch = some x' ∧ x'.seen = some (s.latch r x.cmd o top) ∧ x'.cmd = x.cmd ∧
      x'.limit = s.replyLimit r x (s.latch r x.cmd o top) := by
  obtain ⟨hunseen, hping, hstart, hlimit⟩ := hwaits
  unfold State.replyStart
  simp only [hrun, hexch, hunseen, hping, Nat.not_lt.mpr hstart, Nat.not_lt.mpr hlimit, htop, Option.isSome_none,
    Bool.false_eq_true, or_self, if_false]
  exact ⟨_, rfl, rfl, _, rfl, rfl, rfl, rfl⟩

end

end Sys2Proof.Machine
end

section
/-! SUPPORT. The failure of a slice (Machine/Cover.lean): its mark and the cause that it shows, and what follows on the failure and
leaves both as they were (R330 to R333). -/

namespace Sys2Proof.Machine

/-! ### Registers of HLT -/

theorem isSlice_lt {n : Nat} (h : isSlice n = true) : n < 81 := by
  simp only [isSlice, isHfSlice, isUhfSlice, Bool.or_eq_true, Bool.and_eq_true, decide_eq_true_eq] at h
  omega

theorem hltSliceStatus_ne_hltSpare (m : Nat) (k : Kind) : R.hltSliceStatus m ≠ R.hltSpare (kindIdx k) := by
  have hk : kindIdx k < 2 := by cases k <;> decide
  unfold R.hltSliceStatus R.hltSpare famOff
  rw [if_pos hk]
  split <;> omega

/-! ### What follows on a failure -/

/-- The marks of failed slices stand, and the causes that the slices show (R330). -/
structure FailKept (s t : State) : Prop where
  failed : ∀ m, (t.slice m).failed = (s.slice m).failed
  cause : ∀ m, t.fld (R.hltSliceStatus m) F.hltSliceStatus.cause = s.fld (R.hltSliceStatus m) F.hltSliceStatus.cause

theorem FailKept.refl (s : State) : FailKept s s := ⟨fun _ => rfl, fun _ => rfl⟩

theorem FailKept.trans {s t u : State} (h : FailKept s t) (g : FailKept t u) : FailKept s u :=
  ⟨fun m => (g.failed m).trans (h.failed m), fun m => (g.cause m).trans (h.cause m)⟩

/-- An operation that names neither the slices nor the registers of HLT. -/
theorem FailKept.of_keeps {w : Nat} {s t : State} (h : Keeps w s t) (hreset : w.testBit 63 = false := by rfl)
    (hslices : w.testBit 9 = false := by rfl) (hhlt : w.testBit 56 = false := by rfl) : FailKept s t :=
  ⟨fun m => congrArg Slice.failed (h.slice_eq m hreset hslices),
    fun m => h.fld_eq (regWindow_hltSliceStatus m) _ hreset hhlt⟩

/-- An update of one slice that says nothing of its failure. -/
theorem FailKept.modSlice (s : State) (n : Nat) {f : Slice → Slice} (hf : ∀ x, (f x).failed = x.failed := by exact fun _ => rfl) :
    FailKept s (s.modSlice n f) := by
  refine ⟨fun m => ?_, fun _ => rfl⟩
  rw [State.modSlice_slice]
  split
  · exact hf _
  · rfl

theorem FailKept.sliceTo (s : State) (n : Nat) (st : SliceState) : FailKept s (s.sliceTo n st) := .modSlice s n

theorem FailKept.sendFrom (s : State) (n ramp from_ : Nat) (alt : Bool) (l : List SliceState) :
    FailKept s (s.sendFrom n ramp from_ alt l) :=
  ⟨s.sendFrom_failed n ramp from_ alt l, fun m =>
    (State.sendFrom_step (msk := 0x200) n ramp from_ alt l rfl rfl (Keeps.refl _ s)).fld_eq (regWindow_hltSliceStatus m) _⟩

/-- A write of another register of HLT. -/
theorem FailKept.setFld_ne (s : State) {off : Nat} (f : Fld) (v : Nat) (h : ∀ m, R.hltSliceStatus m ≠ off) :
    FailKept s (s.setFld off f v) := ⟨fun _ => rfl, fun m => State.fld_setFld_ne s f _ v (h m)⟩

/-- A write of another field of a slice's status. -/
theorem FailKept.setFld_apart (s : State) (n : Nat) (f : Fld) (v : Nat) (hf : f.ok = true)
    (hapart : Fld.apart f F.hltSliceStatus.cause = true) : FailKept s (s.setFld (R.hltSliceStatus n) f v) := by
  refine ⟨fun _ => rfl, fun m => ?_⟩
  by_cases hoff : R.hltSliceStatus m = R.hltSliceStatus n
  · rw [hoff]
    exact State.fld_setFld_apart s _ _ _ v hf hapart
  · exact State.fld_setFld_ne s f _ v hoff

theorem FailKept.each {α : Type} (l : List α) {f : State → α → State} (h : ∀ s x, FailKept s (f s x)) (s : State) :
    FailKept s (s.each l f) := by
  unfold State.each
  induction l generalizing s with
  | nil => exact .refl s
  | cons x l ih => exact (h s x).trans (ih _)

theorem FailKept.ite {s t u : State} {c : Prop} [Decidable c] (ht : FailKept s t) (hu : FailKept s u) :
    FailKept s (if c then t else u) := by split <;> assumption

theorem FailKept.sliceShow (s : State) (n st : Nat) : FailKept s (s.sliceShow n st) :=
  .setFld_apart s n _ st (by decide) (by decide)

theorem FailKept.setRotor (s : State) (k : Kind) (x : Rotor) : FailKept s (s.setRotor k x) :=
  .of_keeps (State.setRotor_step (msk := 0x100000) k x rfl rfl (Keeps.refl _ s))

theorem FailKept.setSpare (s : State) (k : Kind) (f : Fld) (v : Nat) : FailKept s (s.setSpare k f v) :=
  .setFld_ne s f v fun m => hltSliceStatus_ne_hltSpare m k

theorem FailKept.showSpare (s : State) (k : Kind) (port reason : Nat) : FailKept s (s.showSpare k port reason) :=
  (FailKept.setSpare s k _ port).trans (.setSpare _ k _ reason)

theorem FailKept.setWaiting (s : State) (k : Kind) (l : List Nat) : FailKept s (s.setWaiting k l) :=
  (FailKept.setRotor s k _).trans (.setSpare _ k _ l.length)

theorem FailKept.health (s : State) (port : Nat) (st : Status) (reason detail : Nat) (data : List Word) :
    FailKept s (s.health port st reason detail data) :=
  .of_keeps (State.health_step (msk := 0x202006004001C) port st reason detail data rfl rfl (Keeps.refl _ s))

theorem FailKept.logRec (s : State) (type : BitVec 8) (payload : List Word) : FailKept s (s.logRec type payload) :=
  .of_keeps (State.logRec_step (msk := 0x100000) type payload rfl rfl (Keeps.refl _ s))

theorem FailKept.portOut (s : State) (p : Nat) : FailKept s (s.portOut p) :=
  .of_keeps (State.portOut_step (msk := 0x202006004011C) p rfl rfl (Keeps.refl _ s))

theorem FailKept.dropXfer (s : State) (k : Kind) : FailKept s (s.dropXfer k) :=
  .of_keeps (State.dropXfer_step (msk := 0x2002000040100004) k rfl rfl (Keeps.refl _ s))

theorem FailKept.offLoad (s : State) (k : Kind) (n : Nat) : FailKept s (s.offLoad k n) :=
  .ite (.refl s) ((FailKept.ite (.sendFrom s n 0 s.now false _) (.refl s)).trans (.sliceShow _ n _))

theorem FailKept.endRotation (s : State) (k : Kind) : FailKept s (s.endRotation k) := by
  unfold State.endRotation
  dsimp only
  split
  · exact .refl s
  · exact .ite (.setRotor s k _) ((FailKept.ite (.offLoad s k _) (.refl s)).trans (.setRotor _ k _))

/-! ### The radio of the stake on its port -/

theorem FailKept.takeDrive (s : State) (r : Run) (n : Nat) (slew : Bool) : FailKept s (s.takeDrive r n slew) := by
  unfold State.takeDrive
  exact .modSlice s n

theorem FailKept.regulate (s : State) (r : Run) (n z : Nat) : FailKept s (s.regulate r n z) := by
  unfold State.regulate
  exact .modSlice s n

theorem FailKept.stamp (s : State) (n : Nat) : FailKept s (s.stamp n) := .modSlice s n

theorem FailKept.driveShown (s : State) (r : Run) (n p : Nat) (o : SliceObs) : FailKept s (s.driveShown r n p o) :=
  (FailKept.of_keeps (Keeps.setReg (w := 0x10000000000) (regWindow_hfaDriveStatus n) rfl rfl (Keeps.refl _ s))).trans
    (.stamp _ n)

theorem FailKept.driveTold (s : State) (r : Run) (n p z : Nat) : FailKept s (s.driveTold r n p z) :=
  .of_keeps (State.driveTold_step (msk := 0x203006004005C) r n p z rfl rfl (Keeps.refl _ s))

theorem FailKept.driveNone (s : State) (n : Nat) : FailKept s (s.driveNone n) :=
  .of_keeps (State.driveNone_step (msk := 0x10000000000) n rfl rfl (Keeps.refl _ s))

theorem FailKept.skip (s : State) (n : Nat) : FailKept s (s.skip n) :=
  .of_keeps (State.skip_step (msk := 0x40000000) n rfl rfl (Keeps.refl _ s))

theorem FailKept.showDrive (s : State) (r : Run) (n p : Nat) (o : SliceObs) : FailKept s (s.showDrive r n p o) :=
  ((FailKept.regulate s r n _).trans (.driveShown _ r n p o)).trans (.driveTold _ r n p _)

theorem FailKept.nextSetting (s : State) (r : Run) (n : Nat) : FailKept s (s.nextSetting r n) := by
  have hdrive := FailKept.takeDrive s r n true
  unfold State.nextSetting
  dsimp only
  refine .ite (.refl s) (.ite ?none ?some)
  case none => exact (hdrive.trans (.ite (.modSlice _ n) (.refl _))).trans (.driveNone _ n)
  case some =>
    exact ((hdrive.trans (.ite (.sliceTo _ n .field) (.modSlice _ n))).trans (.showDrive _ r n _ _)).trans (.skip _ 1)

theorem FailKept.driveSetting (s : State) (r : Run) : FailKept s (s.driveSetting r) :=
  .ite (.refl s) (.each _ (fun s n => .nextSetting s r n) s)

theorem FailKept.endWork (s : State) (r : Run) (st : Status) (cut : Bool) : FailKept s (s.endWork r st cut) :=
  .of_keeps (State.endWork_step (msk := 0x100202006204009C) r st cut rfl rfl (Keeps.refl _ s))

theorem FailKept.cutExch (s : State) (r : Run) (st : Status) : FailKept s (s.cutExch r st) := by
  unfold State.cutExch
  dsimp only
  split
  · exact .endWork s r st false
  · refine ((FailKept.of_keeps (w := 0x1020802002006000) ?_).trans (.driveSetting _ _)).trans (.endWork _ _ st true)
    refine State.freeDecoder_step _ rfl rfl (Keeps.ite (State.budgetNote_step _ _ _ rfl rfl ?_) ?_) <;>
      exact State.traceExch_step _ _ _ _ rfl rfl (Keeps.bumpSat regWindow_schOverrunCnt rfl rfl (Keeps.refl _ _))

theorem FailKept.stopRadio (s : State) (r : Run) (st : Status) : FailKept s (s.stopRadio r st) :=
  (FailKept.cutExch s r st).trans (.of_keeps (State.modRun_step (msk := 0x80) _ _ rfl rfl (Keeps.refl _ _)))

/-! ### The spare -/

theorem FailKept.portsOut (l : List Nat) (s : State) : FailKept s (l.foldl (fun s p => s.portOut p) s) :=
  .each l (fun s p => .portOut s p) s

theorem FailKept.spareLost (s : State) (k : Kind) : FailKept s (s.spareLost k) := by
  have hmark := FailKept.setRotor s k { s.rotor k with spareFailed := true }
  have hdrop := (hmark.trans (.dropXfer _ k)).trans (.endRotation _ k)
  unfold State.spareLost
  dsimp only
  refine FailKept.trans ?_ ((FailKept.portsOut _ _).trans (.setWaiting _ k []))
  split
  · exact .ite ((hmark.trans (.portOut _ _)).trans (.showSpare _ k _ 3))
      ((hmark.trans (.endRotation _ k)).trans (.showSpare _ k _ 3))
  · exact .ite ((hdrop.trans (.portOut _ _)).trans (.showSpare _ k _ 3))
      ((hmark.trans (.setRotor _ k _)).trans (.showSpare _ k _ 3))
  · exact .ite (hmark.trans (.showSpare _ k _ 3))
      (.ite ((hdrop.trans (.showSpare _ k _ 3)).trans (.portOut _ _)) (hdrop.trans (.showSpare _ k _ 3)))
  · exact (hmark.trans (.endRotation _ k)).trans (.showSpare _ k _ 3)

theorem FailKept.portFailed (s : State) (k : Kind) (p : Nat) : FailKept s (s.portFailed k p) := by
  have hwait : FailKept s (if (s.rotor k).spareFailed then s
      else (s.setWaiting k (s.waitIn p (s.rotor k).waiting)).endRotation k) :=
    .ite (.refl s) ((FailKept.setWaiting s k _).trans (.endRotation _ k))
  exact .ite (hwait.trans (.portOut _ p)) hwait

theorem FailKept.keepCover (s : State) (k : Kind) (n : Nat) : FailKept s (s.keepCover k n) := by
  have hdrop := FailKept.dropXfer s k
  have hend := hdrop.trans (.setRotor _ k { (s.dropXfer k).rotor k with rot := none })
  exact .ite ((hend.trans (.showSpare _ k n 2)).trans (.health _ n .ok 0x0102 _ []))
    (.ite (hend.trans (.portOut _ n)) hdrop)

/-! ### The failure -/

/-- The mark of a slice that fails in this tick, and its cause. -/
def State.markFailed (s : State) (n cause : Nat) : State :=
  (s.setSlice n { s.slice n with failed := true, failedAt := s.now }).setFld (R.hltSliceStatus n) F.hltSliceStatus.cause cause

theorem State.markFailed_failed (s : State) (n cause m : Nat) :
    ((s.markFailed n cause).slice m).failed = (decide (m = n) || (s.slice m).failed) := by
  by_cases h : m = n
  · subst h
    rw [decide_eq_true rfl]
    exact congrArg Slice.failed (s.setSlice_slice_self m _)
  · rw [decide_eq_false h]
    exact congrArg Slice.failed (s.setSlice_slice_ne _ h)

theorem State.markFailed_cause (s : State) {n cause m : Nat} (hcause : cause < 16) :
    (s.markFailed n cause).fld (R.hltSliceStatus m) F.hltSliceStatus.cause =
      if R.hltSliceStatus m = R.hltSliceStatus n then cause else s.fld (R.hltSliceStatus m) F.hltSliceStatus.cause := by
  split
  · rename_i h
    rw [h]
    exact (State.fld_setFld_self _ _ _ _ (by decide)).trans (Nat.mod_eq_of_lt hcause)
  · exact State.fld_setFld_ne _ _ _ _ ‹_›

/-- A slice that has failed fails no more. -/
theorem State.failSlice_failed {s : State} {n : Nat} (cause : Nat) (vals : List Word) (h : (s.slice n).failed = true) :
    s.failSlice n cause vals = s := if_pos h

/-- What follows on the mark of a failure leaves every mark and cause. -/
theorem State.failSlice_marks {s : State} {n : Nat} (cause : Nat) (vals : List Word) (h : (s.slice n).failed = false) :
    FailKept (s.markFailed n cause) (s.failSlice n cause vals) := by
  unfold State.failSlice
  rw [if_neg (by rw [h]; exact Bool.false_ne_true)]
  extract_lets k served s1 s2 port s3 s4
  have htold : FailKept (s.markFailed n cause) s2 :=
    ((FailKept.sliceShow _ n 2).trans (.health _ n .sliceSuspect 0x0101 cause [])).trans (.logRec _ 0x40 _)
  have hstopped : FailKept s2 s3 := by
    dsimp only [s3]
    generalize port = q
    cases q with
    | none => exact .refl s2
    | some p =>
      dsimp only
      split
      · exact .refl s2
      · exact .stopRadio s2 _ .sliceSuspect
  have hdark : FailKept (s.markFailed n cause) s4 :=
    (htold.trans hstopped).trans (.sendFrom s3 n 0 s3.now false [.off])
  refine .ite (hdark.trans (.spareLost s4 k)) (.ite ?covered ?own)
  case covered =>
    split
    · exact .ite hdark (hdark.trans (.keepCover s4 k n))
    · exact hdark.trans (.keepCover s4 k n)
  case own =>
    split
    · exact .ite (hdark.trans (.setRotor s4 k _)) (hdark.trans (.portFailed s4 k n))
    · exact hdark.trans (.portFailed s4 k n)

/-- Between s and t slices have failed with one cause only: no mark is taken away, every new one shows that cause, and so does
every slice that showed it before. -/
structure FailsWith (cause : Nat) (s t : State) : Prop where
  stays : ∀ m, (s.slice m).failed = true → (t.slice m).failed = true
  showed : ∀ m, s.fld (R.hltSliceStatus m) F.hltSliceStatus.cause = cause →
    t.fld (R.hltSliceStatus m) F.hltSliceStatus.cause = cause
  new : ∀ m, (s.slice m).failed = false → (t.slice m).failed = true →
    t.fld (R.hltSliceStatus m) F.hltSliceStatus.cause = cause

theorem FailsWith.of_kept {cause : Nat} {s t : State} (h : FailKept s t) : FailsWith cause s t where
  stays m hm := (h.failed m).trans hm
  showed m hm := (h.cause m).trans hm
  new m hs ht := by rw [h.failed, hs] at ht; cases ht

theorem FailsWith.trans {cause : Nat} {s t u : State} (h : FailsWith cause s t) (g : FailsWith cause t u) :
    FailsWith cause s u where
  stays m hm := g.stays m (h.stays m hm)
  showed m hm := g.showed m (h.showed m hm)
  new m hs hu := by
    cases ht : (t.slice m).failed with
    | true => exact g.showed m (h.new m hs ht)
    | false => exact g.new m ht hu

theorem FailsWith.each {α : Type} {cause : Nat} (l : List α) {f : State → α → State}
    (h : ∀ s x, FailsWith cause s (f s x)) (s : State) : FailsWith cause s (s.each l f) := by
  unfold State.each
  induction l generalizing s with
  | nil => exact .of_kept (.refl s)
  | cons x l ih => exact (h s x).trans (ih _)

theorem FailsWith.markFailed (s : State) (n : Nat) {cause : Nat} (hcause : cause < 16) :
    FailsWith cause s (s.markFailed n cause) where
  stays m hm := by rw [State.markFailed_failed, hm, Bool.or_true]
  showed m hm := by rw [State.markFailed_cause s hcause, hm, ite_self]
  new m hs ht := by
    rw [State.markFailed_failed, hs, Bool.or_false, decide_eq_true_eq] at ht
    rw [State.markFailed_cause s hcause, if_pos (congrArg _ ht)]

theorem FailsWith.failSlice (s : State) (n : Nat) {cause : Nat} (vals : List Word) (hcause : cause < 16) :
    FailsWith cause s (s.failSlice n cause vals) := by
  cases h : (s.slice n).failed with
  | true =>
    rw [State.failSlice_failed cause vals h]
    exact .of_kept (.refl s)
  | false => exact (FailsWith.markFailed s n hcause).trans (.of_kept (State.failSlice_marks cause vals h))

/-- A slice that fails is marked, whatever follows. -/
theorem State.failSlice_self (s : State) (n cause : Nat) (vals : List Word) :
    ((s.failSlice n cause vals).slice n).failed = true := by
  cases h : (s.slice n).failed with
  | true => rw [State.failSlice_failed cause vals h, h]
  | false => rw [(State.failSlice_marks cause vals h).failed, State.markFailed_failed, decide_eq_true rfl, Bool.true_or]

/-- A slice in order fails: its mark, and the cause that it shows. -/
theorem State.failSlice_fails {s : State} {n cause : Nat} (vals : List Word) (hcause : cause < 16)
    (h : (s.slice n).failed = false) : ((s.failSlice n cause vals).slice n).failed = true ∧
      (s.failSlice n cause vals).fld (R.hltSliceStatus n) F.hltSliceStatus.cause = cause :=
  have hself := s.failSlice_self n cause vals
  ⟨hself, (FailsWith.failSlice s n vals hcause).new n h hself⟩

theorem State.sliceFailed_cause {s : State} (n : Nat) {cause : Nat} (hup : s.up = true) (hcause : cause ≠ 0) :
    s.sliceFailed n cause = s.failSlice n cause [] := if_neg (by simp [hup, hcause])

theorem State.sliceFailed_none {s : State} {n cause : Nat} (h : cause = 0 ∨ (s.slice n).failed = true) :
    s.sliceFailed n cause = s := by
  unfold State.sliceFailed
  split
  · rfl
  · rename_i hcause
    exact State.failSlice_failed cause [] (h.resolve_left fun hzero => hcause (.inr hzero))

/-! ### The failure of a link (R30, R31) -/

/-- The slices of a die whose link fails fail with it. -/
theorem State.linkFail_die {s : State} {die n : Nat} (hup : s.up = true) (hdie : die ≠ 5) (hn : n ∈ dieSlices die) :
    ((s.linkFail die).slice n).failed = true ∧ ((s.slice n).failed = false →
      (s.linkFail die).fld (R.hltSliceStatus n) F.hltSliceStatus.cause = 5) := by
  let told := s.health 0xFF .ok 0x010F die []
  have hnext : s.linkFail die = told.each (dieSlices die) fun s m => s.failSlice m 5 [] := by
    unfold State.linkFail
    rw [if_neg hdie, hup]
    rfl
  have hmark : ((s.linkFail die).slice n).failed = true := by
    rw [hnext]
    exact State.each_mem (P := fun u m => (u.slice m).failed = true) (fun u m => u.failSlice_self m 5 [])
      (fun u m k h => (FailsWith.failSlice u k [] (by decide)).stays m h) hn told
  have hwith : FailsWith 5 s (s.linkFail die) := by
    rw [hnext]
    exact (FailsWith.of_kept (.health s _ _ _ _ _)).trans
      (.each _ (fun u m => .failSlice u m [] (by decide)) told)
  exact ⟨hmark, fun h => hwith.new n h hmark⟩

/-- The logic is at its reset value when a reset source has been taken: what follows writes registers and balls. -/
theorem State.takeReset_boot (s : State) (c : Cause) : (s.takeReset c).boot = (s.logicReset c).boot := by
  have hframe : Keeps 0x1FFFFFFE01000000 (s.logicReset c) (s.takeReset c) :=
    State.showInhibit_step rfl rfl (State.releaseStraps_step _ rfl rfl (State.holdPulls_step _ rfl rfl
      (State.setRegList_step _ rfl rfl (Keeps.refl _ _))))
  exact hframe.boot (.inl rfl) rfl

theorem State.up_boot {s : State} (h : s.up = true) :
    s.boot.seq = none ∧ (s.boot.power = .ready ∨ s.boot.power = .run) := by
  simpa [State.up] using h

/-- An ECC_CRITICAL reset of a part that is up is warm, and says what caused it. -/
theorem State.eccCritical_seq {s : State} (h : s.up = true) :
    ∃ q, s.eccCritical.boot.seq = some q ∧ q.cold = false ∧ .eccCritical ∈ q.causes := by
  obtain ⟨hseq, -⟩ := State.up_boot h
  refine ⟨_, congrArg Boot.seq (s.takeReset_boot .eccCritical), ?_, List.mem_dedup.mpr List.mem_cons_self⟩
  show s.resetCold .eccCritical = false
  unfold State.resetCold
  rw [hseq]
  rfl

/-- The link of the power die fails: the part is reset. -/
theorem State.linkFail_power {s : State} (h : s.up = true) : s.linkFail 5 = s.eccCritical :=
  (if_pos rfl).trans (if_pos (State.up_boot h).2)

end Sys2Proof.Machine
end

section
/-! SUPPORT. The calibration of a slice and the slew of its corrections (Machine/Spare.lean): what a comparison of two runs takes over,
rejects or discards (R336 to R339). -/

namespace Sys2Proof.Machine

/-! ### Registers of a slice -/

theorem hltSliceStatus_ne_termReg {n : Nat} (hn : n < 81) (m i : Nat) : R.hltSliceStatus n ≠ termReg m i := by
  unfold termReg R.hltSliceStatus R.hltTermsA R.hltTermsB famOff
  split_ifs <;> omega

theorem hltCalTime_ne_termReg {n : Nat} (hn : n < 81) (m i : Nat) : R.hltCalTime n ≠ termReg m i := by
  unfold termReg R.hltCalTime R.hltTermsA R.hltTermsB famOff
  split_ifs <;> omega

theorem hltCalTime_ne_hltSliceStatus {n : Nat} (hn : n < 81) : R.hltCalTime n ≠ R.hltSliceStatus n := by
  unfold R.hltCalTime R.hltSliceStatus famOff
  rw [if_pos hn, if_pos hn]
  omega

theorem State.setBit_slice (s : State) (off : Nat) (f : Fld) (b : Bool) (n : Nat) : (s.setBit off f b).slice n = s.slice n := by
  unfold State.slice
  rw [State.setBit_slices]

/-! ### What an agreeing calibration shows (R336, R338, R342, R343) -/

/-- The settling terms of a calibration are shown in registers of their own. -/
theorem State.setTerms_reg (s : State) (n : Nat) (vals : List Int) {o : Nat} (ho : ∀ m i, o ≠ termReg m i) :
    (s.setTerms n vals).reg o = s.reg o :=
  (RegKept.each _ (fun s m => .each _ (fun s i => .setFld s _ _ (ho m i)) s) _).1

/-- The settling terms of a calibration stand beside the corrections of the slice. -/
theorem State.setTerms_slice (s : State) (n : Nat) (vals : List Int) :
    ∃ terms, (s.setTerms n vals).slice n = { s.slice n with terms := terms } :=
  ⟨_, ((State.showTerms_step (msk := 0x100000000000000) n rfl rfl (Keeps.refl _ _)).slice_eq n).trans
    (s.modSlice_slice_self n _)⟩

theorem State.correctSlice_reg (s : State) (n : Nat) (vals : List Int) (step : Bool) {o : Nat} (ho : o ≠ R.hltSliceStatus n) :
    (s.correctSlice n vals step).reg o = s.reg o := by
  unfold State.correctSlice
  split <;> exact State.setBit_reg_ne _ _ _ ho

theorem State.correctSlice_disagree (s : State) (n : Nat) (vals : List Int) (step : Bool) :
    (s.correctSlice n vals step).fld (R.hltSliceStatus n) F.hltSliceStatus.disagree =
      s.fld (R.hltSliceStatus n) F.hltSliceStatus.disagree := by
  unfold State.correctSlice
  split <;> exact State.fld_setBit_apart _ _ _ _ _ (by decide) (by decide)

/-- Corrections become the target; in step mode they are taken in the same update (R338). -/
theorem State.correctSlice_slice (s : State) (n : Nat) (vals : List Int) (step : Bool) : (s.correctSlice n vals step).slice n =
    { s.slice n with target := vals, corr := if step then vals else (s.slice n).corr } := by
  unfold State.correctSlice
  cases step <;> exact (State.setBit_slice _ _ _ _ n).trans (s.modSlice_slice_self n _)

/-- The headroom of a calibration shows in its own field, and a derate step that it moves in that one; what else it does is a
HEALTH packet and a record (R342). -/
theorem State.headroom_shows (s : State) (n : Nat) (h : Int) (cfg : Word) : ∃ u v d,
    (u = s.setFld (R.hltSliceStatus n) F.hltSliceStatus.headroom v ∨
      u = (s.setFld (R.hltSliceStatus n) F.hltSliceStatus.headroom v).setFld (R.hltSliceStatus n) F.hltSliceStatus.derate d) ∧
    Keeps 0x202006014001C u (s.headroom n h cfg) := by
  unfold State.headroom
  extract_lets d thr s1 d1 s2
  split
  · exact ⟨s1, _, 0, .inl rfl, Keeps.refl _ s1⟩
  · exact ⟨_, _, d1, .inr rfl, State.logRec_step _ _ rfl rfl (State.health_step _ _ _ _ _ rfl rfl (Keeps.refl _ _))⟩

theorem State.headroom_disagree (s : State) (n : Nat) (h : Int) (cfg : Word) :
    (s.headroom n h cfg).fld (R.hltSliceStatus n) F.hltSliceStatus.disagree =
      s.fld (R.hltSliceStatus n) F.hltSliceStatus.disagree := by
  obtain ⟨u, v, d, hu, hkept⟩ := s.headroom_shows n h cfg
  rw [hkept.fld_eq (regWindow_hltSliceStatus n)]
  have hhead := State.fld_setFld_apart s (R.hltSliceStatus n) F.hltSliceStatus.headroom F.hltSliceStatus.disagree v
    (by decide) (by decide)
  rcases hu with rfl | rfl
  · exact hhead
  · exact (State.fld_setFld_apart _ _ _ _ d (by decide) (by decide)).trans hhead

theorem State.headroom_calTime (s : State) {n : Nat} (hn : n < 81) (h : Int) (cfg : Word) :
    (s.headroom n h cfg).reg (R.hltCalTime n) = s.reg (R.hltCalTime n) := by
  obtain ⟨u, v, d, hu, hkept⟩ := s.headroom_shows n h cfg
  rw [hkept.reg_eq (regWindow_hltCalTime n)]
  have hne := hltCalTime_ne_hltSliceStatus hn
  rcases hu with rfl | rfl
  · exact State.setFld_reg_ne _ _ _ hne
  · exact (State.setFld_reg_ne _ _ d hne).trans (State.setFld_reg_ne _ _ _ hne)

/-- What an agreeing calibration shows before it corrects the slice: no disagreement, one calibration more, its tick, and the
headroom. -/
def State.calShown (s : State) (n : Nat) (h : Int) (cfg : Word) : State :=
  (((s.setFld (R.hltSliceStatus n) F.hltSliceStatus.disagree 0).bump (R.hltSliceStatus n) F.hltSliceStatus.cals).setReg
    (R.hltCalTime n) (BitVec.ofNat 64 s.now)).headroom n h cfg

theorem State.calAgree_eq (s : State) (n : Nat) (a b : List Int) (h : Int) (cfg : Word) (step : Bool) :
    s.calAgree n a b h cfg step = ((s.calShown n h cfg).setTerms n ((Config.calResult a b).drop (quantities (kindOf n)).length)
      ).correctSlice n ((Config.calResult a b).take (quantities (kindOf n)).length) step := rfl

theorem State.calShown_slice (s : State) (n : Nat) (h : Int) (cfg : Word) : (s.calShown n h cfg).slice n = s.slice n :=
  (State.headroom_step (msk := 0x10202006014001C) n h cfg rfl rfl (Keeps.refl _ _)).slice_eq n

theorem State.calShown_disagree (s : State) {n : Nat} (hn : n < 81) (h : Int) (cfg : Word) :
    (s.calShown n h cfg).fld (R.hltSliceStatus n) F.hltSliceStatus.disagree = 0 := by
  unfold State.calShown
  rw [State.headroom_disagree, State.fld_setReg_ne _ _ _ (hltCalTime_ne_hltSliceStatus hn).symm]
  exact (State.fld_setFld_apart _ _ _ _ _ (by decide) (by decide)).trans (State.fld_setFld_self _ _ _ _ (by decide))

theorem State.calShown_calTime (s : State) {n : Nat} (hn : n < 81) (h : Int) (cfg : Word) :
    (s.calShown n h cfg).reg (R.hltCalTime n) = BitVec.ofNat 64 s.now := by
  unfold State.calShown
  rw [State.headroom_calTime _ hn, State.setReg_reg_self]

section
variable (s : State) {n : Nat} (a b : List Int) (h : Int) (cfg : Word) (step : Bool)

/-- An agreeing calibration clears the count of those that disagreed (R337). -/
theorem State.calAgree_disagree (hn : n < 81) :
    (s.calAgree n a b h cfg step).fld (R.hltSliceStatus n) F.hltSliceStatus.disagree = 0 := by
  rw [State.calAgree_eq, State.correctSlice_disagree,
    State.fld_of_reg (State.setTerms_reg _ _ _ (hltSliceStatus_ne_termReg hn)), State.calShown_disagree s hn]

/-- The tick of an agreeing calibration is the slice's HLT_CALTIME. -/
theorem State.calAgree_calTime (hn : n < 81) :
    (s.calAgree n a b h cfg step).reg (R.hltCalTime n) = BitVec.ofNat 64 s.now := by
  rw [State.calAgree_eq, State.correctSlice_reg _ _ _ _ (hltCalTime_ne_hltSliceStatus hn),
    State.setTerms_reg _ _ _ (hltCalTime_ne_termReg hn), State.calShown_calTime s hn]

/-- The corrections of an agreeing calibration (R338), beside its settling terms. -/
theorem State.calAgree_slice : ∃ terms, (s.calAgree n a b h cfg step).slice n = { s.slice n with
    terms := terms
    target := (Config.calResult a b).take (quantities (kindOf n)).length
    corr := if step then (Config.calResult a b).take (quantities (kindOf n)).length else (s.slice n).corr } := by
  obtain ⟨terms, hterms⟩ := (s.calShown n h cfg).setTerms_slice n
    ((Config.calResult a b).drop (quantities (kindOf n)).length)
  refine ⟨terms, ?_⟩
  rw [State.calAgree_eq, State.correctSlice_slice, hterms, State.calShown_slice]

end

/-! ### The comparison (R335 to R337) -/

/-- The count of a disagreement, and its HEALTH packet (R337). -/
def State.noteDisagree (s : State) (n : Nat) (y : Nat × Int × Int) : State :=
  (s.setFld (R.hltSliceStatus n) F.hltSliceStatus.disagree (min 15 (s.fld (R.hltSliceStatus n) F.hltSliceStatus.disagree + 1))
    ).health n .ok 0x0108 y.1 [BitVec.ofInt 64 y.2.1, BitVec.ofInt 64 y.2.2]

/-- Two runs that disagree are discarded, and their slice is rotated again next (R337). -/
def State.discardRuns (s : State) (k : Kind) (n stop : Nat) (y : Nat × Int × Int) : State :=
  ((s.noteDisagree n y).calOver k stop).setSpare k F.hltSpare.next n

/-- Two runs that agree are taken over (R338). -/
def State.takeRuns (s : State) (k : Kind) (n : Nat) (a b : List Int) (h : Int) (run : Run) : State :=
  (s.calAgree n a b h (run.reg R.hltDerateCfg) (run.bit R.hltCfg F.hltCfg.stepMode || !(s.port n).covered)).calOver k run.stop

/-- A comparison of slice n is due in the CAL_SLICE stake of its kind. -/
structure CalDue (s : State) (k : Kind) (run : Run) (n : Nat) : Prop where
  up : s.up = true
  runAt : s.runAt (spareOf k) = some run
  template : run.template = 0x20
  target : s.calTarget k run.start = some n
  due : run.start + calTicks k ≤ s.now
  onLoad : (s.slice n).st = calState n

section
variable {s : State} {k : Kind} {run : Run} {n : Nat} {a b : List Int} (h : Int) (hdue : CalDue s k run n)
include hdue

theorem State.calCompare_outOfRange (hrange : s.runInRange n a = false ∨ s.runInRange n b = false) :
    s.calCompare k a b h = s.failSlice n 2 (s.badValues n a b) := by
  obtain ⟨hup, hrun, htemplate, htarget, htime, hst⟩ := hdue
  unfold State.calCompare
  simp [hrun, htarget, hup, htemplate, Nat.not_lt.mpr htime, hst, hrange]

variable (ha : s.runInRange n a = true) (hb : s.runInRange n b = true)
include ha hb

theorem State.calCompare_agree (hagree : firstDisagreement k a b = none) :
    s.calCompare k a b h = s.takeRuns k n a b h run := by
  obtain ⟨hup, hrun, htemplate, htarget, htime, hst⟩ := hdue
  unfold State.calCompare State.takeRuns
  simp [hrun, htarget, hup, htemplate, Nat.not_lt.mpr htime, hst, ha, hb, hagree]

theorem State.calCompare_disagree {y : Nat × Int × Int} (hagree : firstDisagreement k a b = some y) :
    s.calCompare k a b h =
      if max 1 (run.fld R.hltCfg F.hltCfg.disagreeMax) ≤ s.fld (R.hltSliceStatus n) F.hltSliceStatus.disagree + 1 then
        (s.noteDisagree n y).failSlice n 3 [BitVec.ofInt 64 y.2.1, BitVec.ofInt 64 y.2.2]
      else s.discardRuns k n run.stop y := by
  obtain ⟨hup, hrun, htemplate, htarget, htime, hst⟩ := hdue
  unfold State.calCompare State.discardRuns State.noteDisagree
  simp [hrun, htarget, hup, htemplate, Nat.not_lt.mpr htime, hst, ha, hb, hagree]

end

theorem FailKept.noteDisagree (s : State) (n : Nat) (y : Nat × Int × Int) : FailKept s (s.noteDisagree n y) :=
  (FailKept.setFld_apart s n _ _ (by decide) (by decide)).trans (.health _ _ _ _ _ _)

theorem State.calOver_keeps (s : State) (k : Kind) (stop : Nat) : Keeps 0x100000 s (s.calOver k stop) :=
  State.calOver_step k stop rfl rfl (Keeps.refl _ s)

/-- A disagreement below the limit is counted, and its slice is rotated again next. -/
theorem State.discardRuns_shows {s : State} {n limit : Nat} (k : Kind) (stop : Nat) (y : Nat × Int × Int) (hn : n < 81)
    (hlimit : limit < 16) (hbelow : s.fld (R.hltSliceStatus n) F.hltSliceStatus.disagree + 1 < max 1 limit) :
    (s.discardRuns k n stop y).fld (R.hltSliceStatus n) F.hltSliceStatus.disagree =
      s.fld (R.hltSliceStatus n) F.hltSliceStatus.disagree + 1 ∧
    (s.discardRuns k n stop y).slices = s.slices ∧ (s.discardRuns k n stop y).spareReg k F.hltSpare.next = n := by
  have hframe : Keeps 0x202006014001C (s.setFld (R.hltSliceStatus n) F.hltSliceStatus.disagree
      (min 15 (s.fld (R.hltSliceStatus n) F.hltSliceStatus.disagree + 1))) ((s.noteDisagree n y).calOver k stop) :=
    State.calOver_step k stop rfl rfl (State.health_step _ _ _ _ _ rfl rfl (Keeps.refl _ _))
  refine ⟨?count, hframe.slices (.inl rfl) rfl, ?next⟩
  case count =>
    refine (State.fld_setFld_ne _ _ _ _ (hltSliceStatus_ne_hltSpare n k)).trans ?_
    rw [hframe.fld_eq (regWindow_hltSliceStatus n), State.fld_setFld_self _ _ _ _ (by decide)]
    show min 15 _ % 16 = _
    omega
  case next =>
    refine (State.fld_setFld_self _ _ _ _ (by decide)).trans (Nat.mod_eq_of_lt ?_)
    show n < 256
    omega

/-- A calibration whose runs agree is taken: what it shows, and its corrections, in one update or as a target (R336, R338). -/
theorem State.takeRuns_shows {s : State} {n : Nat} (hn : n < 81) (a b : List Int) (h : Int) (run : Run) {t : State}
    (ht : t = s.takeRuns (kindOf n) n a b h run) :
    t.fld (R.hltSliceStatus n) F.hltSliceStatus.disagree = 0 ∧ t.reg (R.hltCalTime n) = BitVec.ofNat 64 s.now ∧
      (t.slice n).target = (Config.calResult a b).take (quantities (kindOf n)).length ∧
      (run.bit R.hltCfg F.hltCfg.stepMode = true ∨ (s.port n).covered = false → (t.slice n).corr = (t.slice n).target) ∧
      (run.bit R.hltCfg F.hltCfg.stepMode = false → (s.port n).covered = true → (t.slice n).corr = (s.slice n).corr) := by
  subst ht
  have hover : Keeps 0x100000 _ (s.takeRuns (kindOf n) n a b h run) := State.calOver_keeps _ (kindOf n) run.stop
  obtain ⟨terms, hslice⟩ := s.calAgree_slice (n := n) a b h (run.reg R.hltDerateCfg)
    (run.bit R.hltCfg F.hltCfg.stepMode || !(s.port n).covered)
  rw [hover.fld_eq (regWindow_hltSliceStatus n), hover.reg_eq (regWindow_hltCalTime n), hover.slice_eq n, hslice]
  refine ⟨s.calAgree_disagree a b h _ _ hn, s.calAgree_calTime a b h _ _ hn, rfl, fun hnow => if_pos ?_,
    fun hmode hcovered => if_neg ?_⟩
  · rcases hnow with hmode | hcovered
    · exact Bool.or_eq_true_iff.mpr (.inl hmode)
    · exact Bool.or_eq_true_iff.mpr (.inr (by rw [hcovered]; rfl))
  · simp [hmode, hcovered]

/-! ### The slew (R339) -/

/-- The corrections of a slice after one slew. -/
def Slice.slewed (x : Slice) : List Int := (List.range x.target.length).map fun i => slewStep (x.corr.getD i 0) (x.target.getD i 0)

theorem Slice.slewed_length (x : Slice) : x.slewed.length = x.target.length := by simp [Slice.slewed]

theorem Slice.slewed_getD (x : Slice) {i : Nat} (hi : i < x.target.length) :
    x.slewed.getD i 0 = slewStep (x.corr.getD i 0) (x.target.getD i 0) := by
  simp [Slice.slewed, hi]

/-- No slew is due. -/
theorem State.slew_rests {s : State} {n : Nat}
    (h : s.now % 40000 ≠ 0 ∨ (s.slice n).corr = (s.slice n).target ∨ s.runOf n = none) : s.slew n = s := by
  refine if_pos ?_
  rcases h with h | h | h
  · exact .inr (.inl h)
  · exact .inr (.inr (.inr (.inl h)))
  · exact .inr (.inr (.inr (.inr (by rw [h]; rfl))))

/-- A slew that is due moves the corrections, and the status says whether they have arrived. -/
theorem State.slew_moves {s : State} {n : Nat} (hup : s.up = true) (hnow : s.now % 40000 = 0)
    (hfirst : (s.slice n).slewAt ≠ some s.now) (hway : (s.slice n).corr ≠ (s.slice n).target)
    (hrun : (s.runOf n).isSome = true) :
    (s.slew n).slice n = { s.slice n with corr := (s.slice n).slewed, slewAt := some s.now } ∧
    (s.slew n).bit (R.hltSliceStatus n) F.hltSliceStatus.slewing = decide ((s.slice n).slewed ≠ (s.slice n).target) := by
  have hnext : s.slew n = (s.setSlice n { s.slice n with corr := (s.slice n).slewed, slewAt := some s.now }).setBit
      (R.hltSliceStatus n) F.hltSliceStatus.slewing (decide ((s.slice n).slewed ≠ (s.slice n).target)) := by
    refine if_neg ?_
    simp [hup, hnow, hfirst, hway, Option.isSome_iff_ne_none.mp hrun]
  rw [hnext]
  exact ⟨(State.setBit_slice _ _ _ _ n).trans (s.setSlice_slice_self n _), State.bit_setBit_self _ _ _ _ (by decide)⟩

end Sys2Proof.Machine
end

section
/-! The statements of 01_how_the_parts_lean.md, settled. -/

open Sys2Proof Sys2Proof.Machine

/-- Settles O15: the strongest component seen is latched into the run of the stake, and every slice that receives shows it. -/
theorem replyStartLatched : Obligations.ReplyStartLatched := by
  intro p o r x s hport hrun hexch hunseen hping hstart hlimit
  have hwaits : Waits s x := ⟨hunseen, hping, hstart, hlimit⟩
  have hexec : exec (.replyStartDetected p o) s = .next (s.replyStart p o) := if_pos hport
  rw [hexec]
  refine ⟨fun top htop => ?seen, fun hnone => congrArg Host.Outcome.next (State.replyStart_unseen hrun hexch hwaits hnone)⟩
  case seen =>
    obtain ⟨r', hnext, hstake, x', hexch', hlatched, hcmd, hlimit'⟩ := State.replyStart_seen hrun hexch hwaits htop
    have hruns : (if x.cmd.isWide then s else s.showReply r (s.latch r x.cmd o top)).runs = s.runs :=
      (Keeps.ite (Keeps.refl 0x90000000300 s) (State.showReply_step r _ rfl rfl (Keeps.refl _ s))).runs_eq
    have hput : Put r.stake (fun q => q.exch = some x') s (s.replyStart p o) := hnext ▸ .of r' hruns hstake hexch'
    obtain ⟨q, hat, hstakeAt, hexchAt⟩ := hput.runAt hrun rfl
    refine ⟨_, q, x', rfl, hat, hstakeAt, hexchAt, hlatched, hcmd, fun hhf => ?limit, fun hhf hwide n hn => ?shown⟩
    case limit => exact hlimit'.trans (if_pos hhf)
    case shown =>
      rw [hnext, hwide]
      exact State.showReply_shows (s.latch r x.cmd o top) hhf hn

/-- Settles O52: a slice that fails is marked, and all that follows on it leaves marks and causes (`FailKept`); a comparison of two
runs ends in one of three ways (`CalDue`). -/
theorem slicesFail : Obligations.SlicesFail := by
  refine ⟨?fails, ?link, ?calibration, ?slew⟩
  case fails =>
    intro n c s hn hup
    have hexec : exec (.sliceFailed n c) s = .next (s.sliceFailed n c) := if_pos hn
    rw [hexec]
    refine ⟨fun hcause hok => ⟨_, rfl, ?_⟩, fun hnone => congrArg Host.Outcome.next (State.sliceFailed_none hnone)⟩
    rw [State.sliceFailed_cause n hup hcause]
    exact State.failSlice_fails [] (by omega) hok
  case link =>
    intro d s hup
    refine ⟨fun hpower => ?_, fun hdie => ⟨_, rfl, fun n hn => State.linkFail_die hup hdie hn⟩⟩
    obtain ⟨q, hseq, hcold, hcause⟩ := State.eccCritical_seq hup
    refine ⟨_, q, rfl, ?_, hcold, hcause⟩
    rw [hpower, State.linkFail_power hup]
    exact hseq
  case calibration =>
    intro k a b h run n s hup hrun htemplate htarget htime hn hkind hst hok
    have hlt := isSlice_lt hn
    have hdue : CalDue s k run n := ⟨hup, hrun, htemplate, htarget, by cases k <;> exact htime, hst⟩
    have hexec : exec (.calCompare k a b h) s = .next (s.calCompare k a b h) := rfl
    rw [hexec]
    refine ⟨fun ha hb hagree => ⟨_, rfl, ?_⟩, fun hrange => ⟨_, rfl, ?_⟩, ?disagree⟩
    · subst hkind
      rw [State.calCompare_agree h hdue ha hb hagree]
      exact State.takeRuns_shows hlt a b h run rfl
    · rw [State.calCompare_outOfRange h hdue hrange]
      exact State.failSlice_fails _ (by decide) hok
    case disagree =>
      rintro y d ha hb hagree rfl
      rw [State.calCompare_disagree h hdue ha hb hagree]
      refine ⟨fun hbelow => ⟨_, rfl, ?_⟩, fun hlimit => ⟨_, rfl, ?_⟩⟩
      · rw [if_neg (Nat.not_le.mpr hbelow)]
        exact State.discardRuns_shows k run.stop y hlt (Word.get_lt _ _) hbelow
      · rw [if_pos hlimit]
        exact State.failSlice_fails _ (by decide) (((FailKept.noteDisagree s n y).failed n).trans hok)
  case slew =>
    intro n s hn hup
    have hexec : exec (.correctionSlew n) s = .next (s.slew n) := if_pos hn
    rw [hexec]
    refine ⟨fun hnow hfirst hway hrun => ⟨_, rfl, ?_⟩, fun hrest => congrArg Host.Outcome.next (State.slew_rests hrest)⟩
    obtain ⟨hslice, hslewing⟩ := State.slew_moves hup hnow hfirst hway hrun
    rw [hslewing, hslice]
    refine ⟨rfl, Slice.slewed_length _, ?_, rfl⟩
    rintro i _ _ hi rfl rfl
    exact Slice.slewed_getD _ hi

end

section
/-! SUPPORT. The frame of every command, taken from the frames of the commands (Laws/KeepsExec.lean) at once: what it may change, and
that the active stakes keep their order. -/

namespace Sys2Proof.Machine

/-- STAKE_START is the one command that makes a stake active. -/
def startsStake : Instr → Bool
  | .stakeStart _ => true
  | _ => false

/-- The mask of a frame is one that command c may have: it names parts that `touches` lists, a reset only where `mayReset` says
so, and only the start of a stake puts a new one among the active stakes. -/
def frames (c : Instr) (w : Nat) : Bool :=
  covers w (touches c) && (mayReset c || !w.testBit 63) && (startsStake c || !w.testBit 32)

/-- Every command has a frame within what `touches` and `mayReset` say of it. -/
theorem exec_framed : ∀ {c : Instr} {s t : State}, exec c s = .next t → ∃ w, Keeps w s t ∧ frames c w = true
  | .majorCycleBoundary, _, _, h => ⟨_, execMajorCycleBoundary_keeps h, rfl⟩
  | .planStart, _, _, h => ⟨_, execPlanStart_keeps h, rfl⟩
  | .schSwap m, _, _, h => ⟨_, execSchSwap_keeps m h, rfl⟩
  | .schCancel m, _, _, h => ⟨_, execSchCancel_keeps m h, rfl⟩
  | .schRunWrite m run, _, _, h => ⟨_, execSchRunWrite_keeps m run h, rfl⟩
  | .planCheckDone, _, _, h => ⟨_, execPlanCheckDone_keeps h, rfl⟩
  | .stakeStart idx, _, _, h => ⟨_, execStakeStart_keeps idx h, rfl⟩
  | .triggerRunStart port, _, _, h => ⟨_, execTriggerRunStart_keeps port h, rfl⟩
  | .exchangeStart port, _, _, h => ⟨_, execExchangeStart_keeps port h, rfl⟩
  | .replyStartDetected port obs, _, _, h => ⟨_, execReplyStartDetected_keeps port obs h, rfl⟩
  | .checkVerdict port span field, _, _, h => ⟨_, execCheckVerdict_keeps port span field h, rfl⟩
  | .exchangeEnd port r, _, _, h => ⟨_, execExchangeEnd_keeps port r h, rfl⟩
  | .exchangeTimeout port o, _, _, h => ⟨_, execExchangeTimeout_keeps port o h, rfl⟩
  | .budgetEntryExpired pitch uid, _, _, h => ⟨_, execBudgetEntryExpired_keeps pitch uid h, rfl⟩
  | .stakeTailStart port, _, _, h => ⟨_, execStakeTailStart_keeps port h, rfl⟩
  | .stakeEnd port, _, _, h => ⟨_, execStakeEnd_keeps port h, rfl⟩
  | .hfStateTransitionDone slice obs, _, _, h => ⟨_, execHfStateTransitionDone_keeps slice obs h, rfl⟩
  | .uhfStateTransitionDone slice obs, _, _, h => ⟨_, execUhfStateTransitionDone_keeps slice obs h, rfl⟩
  | .loadMonitorSample port obs, _, _, h => ⟨_, execLoadMonitorSample_keeps port obs h, rfl⟩
  | .uhfGammaSample port obs, _, _, h => ⟨_, execUhfGammaSample_keeps port obs h, rfl⟩
  | .headRetryExpired port, _, _, h => ⟨_, execHeadRetryExpired_keeps port h, rfl⟩
  | .cancelAdapt port x drive, _, _, h => ⟨_, execCancelAdapt_keeps port x drive h, rfl⟩
  | .cancelReload m port, _, _, h => ⟨_, execCancelReload_keeps m port h, rfl⟩
  | .wideSyncEnd port obs, _, _, h => ⟨_, execWideSyncEnd_keeps port obs h, rfl⟩
  | .wideSymbolWindowEnd port bins, _, _, h => ⟨_, execWideSymbolWindowEnd_keeps port bins h, rfl⟩
  | .wrdCodewordStart dec, _, _, h => ⟨_, execWrdCodewordStart_keeps dec h, rfl⟩
  | .wrdCodewordDone dec, _, _, h => ⟨_, execWrdCodewordDone_keeps dec h, rfl⟩
  | .synthLockTimeout port, _, _, h => ⟨_, execSynthLockTimeout_keeps port h, rfl⟩
  | .channelChangeDone port obs, _, _, h => ⟨_, execChannelChangeDone_keeps port obs h, rfl⟩
  | .txTimeout port, _, _, h => ⟨_, execTxTimeout_keeps port h, rfl⟩
  | .paSequenceStep port, _, _, h => ⟨_, execPaSequenceStep_keeps port h, rfl⟩
  | .paFault port low, _, _, h => ⟨_, execPaFault_keeps port low h, rfl⟩
  | .paFaultClear m port, _, _, h => ⟨_, execPaFaultClear_keeps m port h, rfl⟩
  | .uhaPaCfgWrite m port v, _, _, h => ⟨_, execUhaPaCfgWrite_keeps m port v h, rfl⟩
  | .coexLeadStart idx, _, _, h => ⟨_, execCoexLeadStart_keeps idx h, rfl⟩
  | .coexWaitExpired port, _, _, h => ⟨_, execCoexWaitExpired_keeps port h, rfl⟩
  | .cxGntRise, _, _, h => ⟨_, execCxGntRise_keeps h, rfl⟩
  | .cxGntFall, _, _, h => ⟨_, execCxGntFall_keeps h, rfl⟩
  | .cxReqRise pri, _, _, h => ⟨_, execCxReqRise_keeps pri h, rfl⟩
  | .cxReqFall pri, _, _, h => ⟨_, execCxReqFall_keeps pri h, rfl⟩
  | .rfInhibit a b, _, _, h => ⟨_, execRfInhibit_keeps a b h, rfl⟩
  | .rfInhibitRelease a b, _, _, h => ⟨_, execRfInhibitRelease_keeps a b h, rfl⟩
  | .uhfStandbyRestored, _, _, h => ⟨_, execUhfStandbyRestored_keeps h, rfl⟩
  | .rfoffSample, _, _, h => ⟨_, execRfoffSample_keeps h, rfl⟩
  | .powerWindow mw, _, _, h => ⟨_, execPowerWindow_keeps mw h, rfl⟩
  | .pwrCeilWrite m v, _, _, h => ⟨_, execPwrCeilWrite_keeps m v h, rfl⟩
  | .pwrHfRailWrite m v, _, _, h => ⟨_, execPwrHfRailWrite_keeps m v h, rfl⟩
  | .triggerEdge t o, _, _, h => ⟨_, execTriggerEdge_keeps t o h, rfl⟩
  | .triggerSw m t, _, _, h => ⟨_, execTriggerSw_keeps m t h, rfl⟩
  | .gpioCfgWrite m n v, _, _, h => ⟨_, execGpioCfgWrite_keeps m n v h, rfl⟩
  | .gpioSet m v, _, _, h => ⟨_, execGpioSet_keeps m v h, rfl⟩
  | .gpioClr m v, _, _, h => ⟨_, execGpioClr_keeps m v h, rfl⟩
  | .awningFieldDetect inst obs, _, _, h => ⟨_, execAwningFieldDetect_keeps inst obs h, rfl⟩
  | .awningFieldLost inst absent, _, _, h => ⟨_, execAwningFieldLost_keeps inst absent h, rfl⟩
  | .awningSeamHoldExpired inst, _, _, h => ⟨_, execAwningSeamHoldExpired_keeps inst h, rfl⟩
  | .reqa inst, _, _, h => ⟨_, execReqa_keeps inst h, rfl⟩
  | .wupa inst, _, _, h => ⟨_, execWupa_keeps inst h, rfl⟩
  | .anticollision inst level known, _, _, h => ⟨_, execAnticollision_keeps inst level known h, rfl⟩
  | .select f level uid, _, _, h => ⟨_, execSelect_keeps f level uid h, rfl⟩
  | .hlta f, _, _, h => ⟨_, execHlta_keeps f h, rfl⟩
  | .rats f fsdi cid, _, _, h => ⟨_, execRats_keeps f fsdi cid h, rfl⟩
  | .pps f dsi dri, _, _, h => ⟨_, execPps_keeps f dsi dri h, rfl⟩
  | .rAck f block, _, _, h => ⟨_, execRAck_keeps f block h, rfl⟩
  | .rNak f block, _, _, h => ⟨_, execRNak_keeps f block h, rfl⟩
  | .sDeselect f, _, _, h => ⟨_, execSDeselect_keeps f h, rfl⟩
  | .selectByName inst aid blocks, _, _, h => ⟨_, execSelectByName_keeps inst aid blocks h, rfl⟩
  | .selectByFileId inst id blocks, _, _, h => ⟨_, execSelectByFileId_keeps inst id blocks h, rfl⟩
  | .readBinary inst offset le blocks, _, _, h => ⟨_, execReadBinary_keeps inst offset le blocks h, rfl⟩
  | .updateBinary inst offset data blocks, _, _, h => ⟨_, execUpdateBinary_keeps inst offset data blocks h, rfl⟩
  | .verify inst data blocks, _, _, h => ⟨_, execVerify_keeps inst data blocks h, rfl⟩
  | .pinLockExpired inst, _, _, h => ⟨_, execPinLockExpired_keeps inst h, rfl⟩
  | .awningCommit m inst v, _, _, h => ⟨_, execAwningCommit_keeps m inst v h, rfl⟩
  | .awningCommitApply inst, _, _, h => ⟨_, execAwningCommitApply_keeps inst h, rfl⟩
  | .watchRound, _, _, h => ⟨_, execWatchRound_keeps h, rfl⟩
  | .lanternConfirmPing e, _, _, h => ⟨_, execLanternConfirmPing_keeps e h, rfl⟩
  | .lanternPingDone e amp phase, _, _, h => ⟨_, execLanternPingDone_keeps e amp phase h, rfl⟩
  | .wakeCardClear m, _, _, h => ⟨_, execWakeCardClear_keeps m h, rfl⟩
  | .presenceSweep idx, _, _, h => ⟨_, execPresenceSweep_keeps idx h, rfl⟩
  | .chkHostRunStart m n v, _, _, h => ⟨_, execChkHostRunStart_keeps m n v h, rfl⟩
  | .chkHostRunDone n, _, _, h => ⟨_, execChkHostRunDone_keeps n h, rfl⟩
  | .chkCfgWrite m n r v, _, _, h => ⟨_, execChkCfgWrite_keeps m n r v h, rfl⟩
  | .scrubVisit word upset, _, _, h => ⟨_, execScrubVisit_keeps word upset h, rfl⟩
  | .eccInjectArm m v, _, _, h => ⟨_, execEccInjectArm_keeps m v h, rfl⟩
  | .groundsheetWrite m off bytes, _, _, h => ⟨_, execGroundsheetWrite_keeps m off bytes h, rfl⟩
  | .bufAlloc m p, _, _, h => ⟨_, execBufAlloc_keeps m p h, rfl⟩
  | .bufFree m p v, _, _, h => ⟨_, execBufFree_keeps m p v h, rfl⟩
  | .fifoPush m n v, _, _, h => ⟨_, execFifoPush_keeps m n v h, rfl⟩
  | .fifoPop m n v, _, _, h => ⟨_, execFifoPop_keeps m n v h, rfl⟩
  | .fifoFlush m n, _, _, h => ⟨_, execFifoFlush_keeps m n h, rfl⟩
  | .heldPacketCommit n, _, _, h => ⟨_, execHeldPacketCommit_keeps n h, rfl⟩
  | .wheelTurnStart wait target, _, _, h => ⟨_, execWheelTurnStart_keeps wait target h, rfl⟩
  | .rrWaitClear m, _, _, h => ⟨_, execRrWaitClear_keeps m h, rfl⟩
  | .krvReq n, _, _, h => ⟨_, execKrvReq_keeps n h, rfl⟩
  | .hfFrame n, _, _, h => ⟨_, execHfFrame_keeps n h, rfl⟩
  | .hfApdu n, _, _, h => ⟨_, execHfApdu_keeps n h, rfl⟩
  | .gen2Req n, _, _, h => ⟨_, execGen2Req_keeps n h, rfl⟩
  | .requestStart port, _, _, h => ⟨_, execRequestStart_keeps port h, rfl⟩
  | .requestWaitExpired pitch port, _, _, h => ⟨_, execRequestWaitExpired_keeps pitch port h, rfl⟩
  | .keyLoad p v, _, _, h => ⟨_, execKeyLoad_keeps p v h, rfl⟩
  | .secKeyLoad m v, _, _, h => ⟨_, execSecKeyLoad_keeps m v h, rfl⟩
  | .registerWrite ws, _, _, h => ⟨_, execRegisterWrite_keeps ws h, rfl⟩
  | .lowerHalfRead m off, _, _, h => ⟨_, execLowerHalfRead_keeps m off h, rfl⟩
  | .upperHalfWrite m off data, _, _, h => ⟨_, execUpperHalfWrite_keeps m off data h, rfl⟩
  | .perst, _, _, h => ⟨_, execPerst_keeps h, rfl⟩
  | .ringWrite m n v, _, _, h => ⟨_, execRingWrite_keeps m n v h, rfl⟩
  | .ringDeliver n, _, _, h => ⟨_, execRingDeliver_keeps n h, rfl⟩
  | .doorbell m n v, _, _, h => ⟨_, execDoorbell_keeps m n v h, rfl⟩
  | .requestFetchDone n ok words, _, _, h => ⟨_, execRequestFetchDone_keeps n ok words h, rfl⟩
  | .msixUnmask fn vec, _, _, h => ⟨_, execMsixUnmask_keeps fn vec h, rfl⟩
  | .ethDatagramRx x d, _, _, h => ⟨_, execEthDatagramRx_keeps x d h, rfl⟩
  | .regRead p, _, _, h => ⟨_, execRegRead_keeps p h, rfl⟩
  | .regWrite p, _, _, h => ⟨_, execRegWrite_keeps p h, rfl⟩
  | .ack p, _, _, h => ⟨_, execAck_keeps p h, rfl⟩
  | .ethSourceEntryExpired ip, _, _, h => ⟨_, execEthSourceEntryExpired_keeps ip h, rfl⟩
  | .ethTransmit p x, _, _, h => ⟨_, execEthTransmit_keeps p x h, rfl⟩
  | .ethRetxTimeout p, _, _, h => ⟨_, execEthRetxTimeout_keeps p h, rfl⟩
  | .spiWrite addr words crc, _, _, h => ⟨_, execSpiWrite_keeps addr words crc h, rfl⟩
  | .spiRead addr count, _, _, h => ⟨_, execSpiRead_keeps addr count h, rfl⟩
  | .spiStatus, _, _, h => ⟨_, execSpiStatus_keeps h, rfl⟩
  | .challenge, _, _, h => ⟨_, execChallenge_keeps h, rfl⟩
  | .unlock tag, _, _, h => ⟨_, execUnlock_keeps tag h, rfl⟩
  | .lock, _, _, h => ⟨_, execLock_keeps h, rfl⟩
  | .spiUnlockBlockExpired, _, _, h => ⟨_, execSpiUnlockBlockExpired_keeps h, rfl⟩
  | .rotationDue k, _, _, h => ⟨_, execRotationDue_keeps k h, rfl⟩
  | .rotate m v, _, _, h => ⟨_, execRotate_keeps m v h, rfl⟩
  | .spareHandover k, _, _, h => ⟨_, execSpareHandover_keeps k h, rfl⟩
  | .spareReturn k, _, _, h => ⟨_, execSpareReturn_keeps k h, rfl⟩
  | .checkpoint port live, _, _, h => ⟨_, execCheckpoint_keeps port live h, rfl⟩
  | .spareTransferDone k live, _, _, h => ⟨_, execSpareTransferDone_keeps k live h, rfl⟩
  | .calCompare k a b headroom, _, _, h => ⟨_, execCalCompare_keeps k a b headroom h, rfl⟩
  | .sliceFailed slice cause, _, _, h => ⟨_, execSliceFailed_keeps slice cause h, rfl⟩
  | .linkFail die, _, _, h => ⟨_, execLinkFail_keeps die h, rfl⟩
  | .correctionSlew slice, _, _, h => ⟨_, execCorrectionSlew_keeps slice h, rfl⟩
  | .ageMeasure counts, _, _, h => ⟨_, execAgeMeasure_keeps counts h, rfl⟩
  | .avs mu, _, _, h => ⟨_, execAvs_keeps mu h, rfl⟩
  | .ageSummary, _, _, h => ⟨_, execAgeSummary_keeps h, rfl⟩
  | .logRateWindowEnd type, _, _, h => ⟨_, execLogRateWindowEnd_keeps type h, rfl⟩
  | .enterHibernate m, _, _, h => ⟨_, execEnterHibernate_keeps m h, rfl⟩
  | .enterWatch m, _, _, h => ⟨_, execEnterWatch_keeps m h, rfl⟩
  | .lowPowerEntryDone, _, _, h => ⟨_, execLowPowerEntryDone_keeps h, rfl⟩
  | .wake, _, _, h => ⟨_, execWake_keeps h, rfl⟩
  | .rtcAlarm, _, _, h => ⟨_, execRtcAlarm_keeps h, rfl⟩
  | .por, _, _, h => ⟨_, execPor_keeps h, rfl⟩
  | .brownout, _, _, h => ⟨_, execBrownout_keeps h, rfl⟩
  | .resetPin, _, _, h => ⟨_, execResetPin_keeps h, rfl⟩
  | .watchdog, _, _, h => ⟨_, execWatchdog_keeps h, rfl⟩
  | .software m v, _, _, h => ⟨_, execSoftware_keeps m v h, rfl⟩
  | .thermal, _, _, h => ⟨_, execThermal_keeps h, rfl⟩
  | .blockReset m v, _, _, h => ⟨_, execBlockReset_keeps m v h, rfl⟩
  | .imageTimeout, _, _, h => ⟨_, execImageTimeout_keeps h, rfl⟩
  | .restage m, _, _, h => ⟨_, execRestage_keeps m h, rfl⟩
  | .cfgStage m w, _, _, h => ⟨_, execCfgStage_keeps m w h, rfl⟩
  | .load m, _, _, h => ⟨_, execLoad_keeps m h, rfl⟩
  | .flashRead m addr, _, _, h => ⟨_, execFlashRead_keeps m addr h, rfl⟩
  | .flashProgram m addr, _, _, h => ⟨_, execFlashProgram_keeps m addr h, rfl⟩
  | .flashErase m addr, _, _, h => ⟨_, execFlashErase_keeps m addr h, rfl⟩
  | .flashCmdDone good, _, _, h => ⟨_, execFlashCmdDone_keeps good h, rfl⟩
  | .logbookWrite good, _, _, h => ⟨_, execLogbookWrite_keeps good h, rfl⟩
  | .logbookErase, _, _, h => ⟨_, execLogbookErase_keeps h, rfl⟩
  | .beacon f, _, _, h => ⟨_, execBeacon_keeps f h, rfl⟩
  | .beaconTransmit bus, _, _, h => ⟨_, execBeaconTransmit_keeps bus h, rfl⟩
  | .guylineAck f, _, _, h => ⟨_, execGuylineAck_keeps f h, rfl⟩
  | .ackSlot bus, _, _, h => ⟨_, execAckSlot_keeps bus h, rfl⟩
  | .masterTimeout, _, _, h => ⟨_, execMasterTimeout_keeps h, rfl⟩
  | .beaconRetry, _, _, h => ⟨_, execBeaconRetry_keeps h, rfl⟩
  | .laneGrantStart, _, _, h => ⟨_, execLaneGrantStart_keeps h, rfl⟩
  | .laneDeadline, _, _, h => ⟨_, execLaneDeadline_keeps h, rfl⟩
  | .tracePortOut, _, _, h => ⟨_, execTracePortOut_keeps h, rfl⟩
  | .tapReset, _, _, h => ⟨_, execTapReset_keeps h, rfl⟩
  | .extest, _, _, h => ⟨_, execExtest_keeps h, rfl⟩
  | .idcode, _, _, h => ⟨_, execIdcode_keeps h, rfl⟩
  | .samplePreload, _, _, h => ⟨_, execSamplePreload_keeps h, rfl⟩
  | .extestPulse, _, _, h => ⟨_, execExtestPulse_keeps h, rfl⟩
  | .extestTrain, _, _, h => ⟨_, execExtestTrain_keeps h, rfl⟩
  | .highz, _, _, h => ⟨_, execHighz_keeps h, rfl⟩
  | .clamp, _, _, h => ⟨_, execClamp_keeps h, rfl⟩
  | .bypass, _, _, h => ⟨_, execBypass_keeps h, rfl⟩
  | .endOfCause c, _, _, h => ⟨_, execEndOfCause_keeps c h, rfl⟩
  | .resetSequenceStepDone qi, _, _, h => ⟨_, execResetSequenceStepDone_keeps qi h, rfl⟩
  | .reservedTypeRequest n, _, _, h => ⟨_, execReservedTypeRequest_keeps n h, rfl⟩
  | .otherInsApdu inst ins p1p2 blocks, _, _, h => ⟨_, execOtherInsApdu_keeps inst ins p1p2 blocks h, rfl⟩
  | .cxPriRise, _, _, h => ⟨_, execCxPriRise_keeps h, rfl⟩
  | .ethLinkDown x, _, _, h => ⟨_, execEthLinkDown_keeps x h, rfl⟩
  | .ethLinkUp x speed, _, _, h => ⟨_, execEthLinkUp_keeps x speed h, rfl⟩
  | .groundsheetRead m off n, _, _, h => ⟨_, execGroundsheetRead_keeps m off n h, rfl⟩
  | .guylineFrameCrcFail type src rest, _, _, h => ⟨_, execGuylineFrameCrcFail_keeps type src rest h, rfl⟩
  | .vfEnableWrite numVfs enable, _, _, h => ⟨_, execVfEnableWrite_keeps numVfs enable h, rfl⟩

theorem frames_iff {c : Instr} {w : Nat} : frames c w = true ↔ covers w (touches c) = true ∧
    (mayReset c = false → w.testBit 63 = false) ∧ (startsStake c = false → w.testBit 32 = false) := by
  unfold frames
  rw [Bool.and_eq_true, Bool.and_eq_true, and_assoc]
  refine and_congr_right fun _ => and_congr ?_ ?_
  · cases mayReset c <;> simp
  · cases startsStake c <;> simp

/-- The frame of every command, part by part. -/
theorem exec_sameBut {c : Instr} {s t : State} (h : exec c s = .next t) (hr : mayReset c = true → t.boot.seq = none) :
    sameBut (touches c) s t := by
  obtain ⟨w, hk, hw⟩ := exec_framed h
  obtain ⟨hcover, hreset, -⟩ := frames_iff.mp hw
  refine hk.sameBut ?_ _ hcover
  cases hm : mayReset c with
  | false => exact .inl (hreset hm)
  | true => exact .inr (hr hm)

/-- Every command but the start of a stake keeps the order of the active stakes. -/
theorem exec_inOrder {c : Instr} {s t : State} (h : exec c s = .next t) (hc : startsStake c = false)
    (ho : s.inOrder) : t.inOrder := by
  obtain ⟨w, hk, hw⟩ := exec_framed h
  exact hk.order ((frames_iff.mp hw).2.2 hc) ho

/-- The commands that reach Groundsheet outside the areas which the DN4810 writes on its own account. -/
theorem matches_of_mem_touches : ∀ c : Instr, .mem ∈ touches c →
    c matches .resetSequenceStepDone _ | .load _ | .upperHalfWrite _ _ _ | .registerWrite _ | .regWrite _ |
      .spiWrite _ _ _ | .groundsheetWrite _ _ _ := by
  intro c h
  cases c with
  | resetSequenceStepDone | load | upperHalfWrite | registerWrite | regWrite | spiWrite | groundsheetWrite => rfl
  | _ => exact Bool.noConfusion ((rfl : false = (touches _).contains .mem).trans (List.contains_iff_mem.mpr h))

end Sys2Proof.Machine
end

section
/-! SUPPORT. The start of a stake (Machine/Plan.lean): the stake that it makes active, and the one that is next (R40). -/

namespace Sys2Proof.Machine

theorem State.active_of_runs {s t : State} (h : t.runs = s.runs) : t.active = s.active := by
  unfold State.active; rw [h]

theorem State.beforeStake_runs (s : State) (k : Stake) : (s.beforeStake k).runs = s.runs :=
  (State.beforeStake_step (msk := 0x3818100808144) k rfl rfl (Keeps.refl _ s)).runs_eq

/-- The stake after the one that starts is next (R40). -/
theorem State.beforeStake_next (s : State) (k : Stake) : (s.beforeStake k).sch.next = k.idx + 1 := by
  unfold State.beforeStake
  dsimp only
  generalize hs : ((s.touchAll (s.stakeAddrs k)).setSch { (s.touchAll (s.stakeAddrs k)).sch with next := k.idx + 1 }).setCxp _ = s1
  have hk : Keeps 0x1810000808100 s1 ((((s1.each k.ports fun s p => (if isUhfPort p then s.paReturn p else s).retryOver p).each
      k.ports fun s p => s.loadCoefs p).claim k)) := by
    refine State.claim_step k rfl rfl (Keeps.each rfl (Keeps.each rfl (Keeps.refl _ _) fun u p => ?_) fun u p => ?_)
    · exact State.retryOver_step p rfl rfl (Keeps.ite (State.paReturn_step p rfl rfl (Keeps.refl _ u)) (Keeps.refl _ u))
    · exact State.loadCoefs_step p rfl rfl (Keeps.refl _ u)
  rw [hk.sch (.inl rfl) rfl, ← hs]
  rfl

/-- A stake that is entered is the last of the active ones (R40). -/
theorem State.addStake_active (s : State) (k : Stake) (r : Run) : (s.addStake k r).active = s.active ++ [r.stake.idx] := by
  unfold State.addStake
  dsimp only
  generalize hs : State.setRuns _ (s.runs ++ [r]) = s1
  have hk : Keeps 0x1C22CB20628567DC s1 (((s1.trace 0x01 k.port (k.idx * 2 ^ 32 + k.template * 2 ^ 24 + k.pitch * 2 ^ 16)).protectStart
      k).driveCxp).wakeWaiting :=
    State.wakeWaiting_step rfl rfl (State.driveCxp_step rfl rfl (State.protectStart_step k rfl rfl
      (State.trace_step _ _ _ rfl rfl (Keeps.refl _ s1))))
  rw [hk.stakes (.inl rfl) rfl, ← hs]
  exact List.map_append

theorem State.addStake_next (s : State) (k : Stake) (r : Run) : (s.addStake k r).sch.next = s.sch.next := by
  have h := (State.addStake_step (msk := 0x1C22CB61628567DC) k r rfl rfl (Keeps.refl _ s)).cycle (.inl rfl) rfl
  exact congrArg Prod.fst h

theorem State.launch_active (s : State) (k : Stake) (r : Run) : (s.launch k r).active = s.active :=
  (State.launch_step (msk := 0xC024B00600507DC) k r rfl rfl (Keeps.refl _ s)).stakes (.inl rfl) rfl

theorem State.launch_next (s : State) (k : Stake) (r : Run) : (s.launch k r).sch.next = s.sch.next :=
  congrArg Prod.fst ((State.launch_step (msk := 0xC024B00600507DC) k r rfl rfl (Keeps.refl _ s)).cycle (.inl rfl) rfl)

/-- SCH starts a stake: it is the last of the active ones, and the one after it is next. -/
theorem State.enterStake_active (s : State) (k : Stake) (start : Nat) :
    let s1 := s.beforeStake k
    let t := (s1.addStake k (s1.stakeRun k start)).launch k (s1.stakeRun k start)
    t.active = s.active ++ [k.idx] ∧ t.sch.next = k.idx + 1 := by
  intro s1 t
  constructor
  · rw [State.launch_active, State.addStake_active, State.active_of_runs (s.beforeStake_runs k)]
    rfl
  · rw [State.launch_next, State.addStake_next, State.beforeStake_next]

/-- What STAKE_START does: nothing, a reset for an uncorrectable word of the plan, or the start of the next stake. -/
theorem State.stakeStart_cases (s : State) (idx : Nat) :
    s.stakeStart idx = s ∨
    s.stakeStart idx = (s.touchAll (s.stakeAddrs (s.planStake idx))).eccCritical ∨
    idx = s.sch.next ∧ (s.stakeStart idx).active = s.active ++ [idx] ∧ (s.stakeStart idx).sch.next = idx + 1 := by
  by_cases hguard : (!s.up || !s.running || decide (idx ≠ s.sch.next) || decide (s.planCount s.activeBank ≤ idx) ||
      decide (s.now < s.fld R.schCycleStart F.schCycleStart.start + (s.planStake idx).start) ||
      (s.planStake idx).ports.any (fun p => (s.runAt p).isSome)) = true
  · exact .inl (if_pos hguard)
  by_cases hue : (s.stakeAddrs (s.planStake idx)).any s.isUe = true
  · exact .inr (.inl ((if_neg hguard).trans (if_pos hue)))
  · have hrun := s.enterStake_active (s.planStake idx) (s.fld R.schCycleStart F.schCycleStart.start + (s.planStake idx).start)
    refine .inr (.inr ⟨?_, ?_⟩)
    · simp only [Bool.or_eq_true, not_or, decide_eq_true_eq, Decidable.not_not] at hguard
      exact hguard.1.1.1.2
    · unfold State.stakeStart
      dsimp only
      rw [if_neg hguard, if_neg hue]
      exact hrun

theorem inOrder_append {s t : State} {n : Nat} (hn : n = s.sch.next) (ha : t.active = s.active ++ [n]) (hnext : t.sch.next = n + 1)
    (h : s.inOrder) : t.inOrder := by
  obtain ⟨hrise, hbelow⟩ := h
  unfold State.inOrder
  rw [ha, hnext, List.pairwise_append]
  refine ⟨⟨hrise, List.pairwise_singleton _ _, ?_⟩, ?_⟩
  · intro i hi j hj
    rw [List.mem_singleton.mp hj, hn]
    exact hbelow i hi
  · intro i hi
    rcases List.mem_append.mp hi with hi | hi
    · exact Nat.lt_succ_of_lt (hn ▸ hbelow i hi)
    · exact List.mem_singleton.mp hi ▸ Nat.lt_succ_self n

theorem State.stakeStart_inOrder {s : State} (idx : Nat) (h : s.inOrder) : (s.stakeStart idx).inOrder := by
  rcases s.stakeStart_cases idx with heq | hcrit | ⟨hidx, hactive, hnext⟩
  · rwa [heq]
  · rw [hcrit]
    have hk : Keeps 0x8002000000000004 s (s.touchAll (s.stakeAddrs (s.planStake idx))).eccCritical :=
      State.eccCritical_step rfl rfl (State.touchAll_step _ rfl rfl (Keeps.refl _ s))
    exact hk.order rfl h
  · exact inOrder_append hidx hactive hnext h

end Sys2Proof.Machine
end

section
/-! SUPPORT. SCH_CTRL (Machine/Plan.lean): a swap, its cancellation, and run written by a host (R65, R66, R68). -/

namespace Sys2Proof.Machine

/-! ### Fields of one register -/

theorem State.bit_setFld_apart (s : State) (off : Nat) (f g : Fld) (v : Nat) (h : f.ok = true) (hg : Fld.apart f g = true) :
    (s.setFld off f v).bit off g = s.bit off g := by
  unfold State.bit
  rw [State.fld_setFld_apart _ _ _ _ _ h hg]

theorem State.running_of_reg {s t : State} (h : t.reg R.schStatus = s.reg R.schStatus) : t.running = s.running :=
  State.bit_of_reg h _

theorem State.activeBank_of_reg {s t : State} (h : t.reg R.schStatus = s.reg R.schStatus) : t.activeBank = s.activeBank :=
  State.bit_of_reg h _

/-! ### Swap and cancel (R65, R66) -/

theorem State.schSwap_taken {s : State} (hup : s.up = true) (hcheck : s.bit R.schStatus F.schStatus.checking = false)
    (hpending : s.bit R.schStatus F.schStatus.swapPending = false) :
    s.schSwap = ((s.setBit R.schStatus F.schStatus.checking true).setBit R.schCtrl F.schCtrl.swap true).setSch
      { s.sch with check := some { bank := !s.activeBank, atLoad := false } } := by
  unfold State.schSwap
  simp [hup, hcheck, hpending]

theorem State.schSwap_busy {s : State}
    (h : s.bit R.schStatus F.schStatus.checking = true ∨ s.bit R.schStatus F.schStatus.swapPending = true) : s.schSwap = s := by
  unfold State.schSwap
  rcases h with h | h <;> simp [h]

theorem State.schCancel_withdraws {s : State} (hup : s.up = true) (hpending : s.bit R.schStatus F.schStatus.swapPending = true)
    (hlate : ¬ (s.running = true ∧ s.cycleEnd ≤ s.now ∧ s.swapDue = true)) : s.schCancel = s.withdraw := by
  unfold State.schCancel
  rw [if_neg hlate]
  simp [hup, hpending]

theorem State.schCancel_late {s : State} (h : s.running = true ∧ s.cycleEnd ≤ s.now ∧ s.swapDue = true) : s.schCancel = s := by
  unfold State.schCancel
  rw [if_pos h, ite_self]

/-- The start of the checker on the inactive bank: the plan runs on. -/
theorem State.startsCheck_fields (s : State) (x : Sch) :
    let t := ((s.setBit R.schStatus F.schStatus.checking true).setBit R.schCtrl F.schCtrl.swap true).setSch x
    t.bit R.schStatus F.schStatus.checking = true ∧ t.bit R.schCtrl F.schCtrl.swap = true ∧ t.sch = x ∧
      t.running = s.running ∧ t.activeBank = s.activeBank := by
  intro t
  unfold State.running State.activeBank
  simp (disch := decide) only [t, State.setSch_bit, State.bit_setBit_ne, State.bit_setBit_self, State.bit_setBit_apart,
    State.setSch_sch, true_and]

theorem State.withdraw_fields (s : State) :
    s.withdraw.bit R.schStatus F.schStatus.swapPending = false ∧ s.withdraw.fld R.schPlanId F.schPlanId.pending = 0 ∧
      s.withdraw.sch.swapAt = none ∧ s.withdraw.running = s.running ∧ s.withdraw.activeBank = s.activeBank := by
  unfold State.withdraw State.running State.activeBank
  simp (disch := decide) only [State.setSch_bit, State.setSch_fld, State.bit_setFld_ne, State.bit_setBit_self,
    State.bit_setBit_apart, State.fld_setFld_self, State.setSch_sch, Nat.zero_mod, and_self]

/-! ### SCH_CTRL.run (R68) -/

theorem State.schRun_stop {s : State} (hup : s.up = true) : s.schRun false =
    (s.setBit R.schCtrl F.schCtrl.run false).setSch { s.sch with startAt := none } := by
  unfold State.schRun
  simp [hup]

theorem State.schRun_go {s : State} (hup : s.up = true) : s.schRun true =
    (s.setBit R.schCtrl F.schCtrl.run true).setSch { s.sch with
      startAt := if s.running = false ∧ s.sch.startAt = none then some (s.now + 4000) else s.sch.startAt } := by
  have hrunning : (s.setBit R.schCtrl F.schCtrl.run true).running = s.running := State.bit_setBit_ne _ _ _ _ (by decide)
  unfold State.schRun
  rw [if_neg (by simp [hup]), if_neg (by simp), hrunning]
  by_cases hidle : s.running = false ∧ s.sch.startAt = none
  · rw [if_pos hidle, if_neg (by simp [hidle.1, hidle.2])]
    rfl
  · rw [if_neg hidle, if_pos]
    · rfl
    · rw [State.setBit_sch]
      cases hr : s.running <;> cases ha : s.sch.startAt <;> simp_all

end Sys2Proof.Machine
end

section
/-! SUPPORT. The plan that becomes active, and the major cycle (Machine/Plan.lean): what SCH shows of a plan and of a cycle, and what
the rest of their work leaves of it (R33, R65, R68). -/

namespace Sys2Proof.Machine

/-! ### What SCH shows -/

/-- t is s as SCH sees it: its registers but for the reserve and the reason REPLAN (R55), where it stands in its cycle, the stakes
that run, the time, and the low-power state that is being entered. -/
structure SchSame (s t : State) : Prop where
  regs : ∀ o, regWindow o = 5 → o ≠ R.schReserveMin → o ≠ R.schStatus → t.reg o = s.reg o
  status : ∀ f, Fld.apart F.schStatus.replan f = true → t.bit R.schStatus f = s.bit R.schStatus f
  cycle : t.sch.cycle = s.sch.cycle
  runs : t.runs = s.runs
  clock : t.clock = s.clock
  entering : t.boot.entering = s.boot.entering

theorem SchSame.refl (s : State) : SchSame s s := ⟨fun _ _ _ _ => rfl, fun _ _ => rfl, rfl, rfl, rfl, rfl⟩

theorem SchSame.trans {s t u : State} (h : SchSame s t) (g : SchSame t u) : SchSame s u where
  regs o h5 hr hs := (g.regs o h5 hr hs).trans (h.regs o h5 hr hs)
  status f hf := (g.status f hf).trans (h.status f hf)
  cycle := g.cycle.trans h.cycle
  runs := g.runs.trans h.runs
  clock := g.clock.trans h.clock
  entering := g.entering.trans h.entering

/-- A frame that leaves the registers of SCH, its cycle, the runs, the clock and the boot state. -/
theorem SchSame.of_keeps {w : Nat} {s t : State} (h : Keeps w s t) (h63 : w.testBit 63 = false := by rfl)
    (h0 : w.testBit 0 = false := by rfl) (h5 : w.testBit 5 = false := by rfl) (h7 : w.testBit 7 = false := by rfl)
    (h37 : w.testBit 37 = false := by rfl) (h39 : w.testBit 39 = false := by rfl) : SchSame s t where
  regs _ hw _ _ := h.reg_eq hw h63 h37
  status f _ := h.bit_eq regWindow_schStatus f h63 h37
  cycle := h.cycle (.inl h63) h39
  runs := h.runs_eq h63 h7
  clock := h.clock (.inl h63) h0
  entering := by rw [h.boot (.inl h63) h5]

section
variable {s t : State} (h : SchSame s t)
include h

theorem SchSame.fld {o : Nat} (f : Fld) (hw : regWindow o = 5) (hr : o ≠ R.schReserveMin := by decide)
    (hs : o ≠ R.schStatus := by decide) : t.fld o f = s.fld o f := State.fld_of_reg (h.regs o hw hr hs) f

theorem SchSame.bit {o : Nat} (f : Fld) (hw : regWindow o = 5) (hr : o ≠ R.schReserveMin := by decide)
    (hs : o ≠ R.schStatus := by decide) : t.bit o f = s.bit o f := State.bit_of_reg (h.regs o hw hr hs) f

theorem SchSame.running : t.running = s.running := h.status _ (by decide)
theorem SchSame.activeBank : t.activeBank = s.activeBank := h.status _ (by decide)
theorem SchSame.now : t.now = s.now := congrArg Clock.site h.clock
theorem SchSame.next : t.sch.next = s.sch.next := congrArg Prod.fst h.cycle
theorem SchSame.startAt : t.sch.startAt = s.sch.startAt := congrArg (·.2.2.1) h.cycle
theorem SchSame.swapAt : t.sch.swapAt = s.sch.swapAt := congrArg (·.2.2.2.1) h.cycle
theorem SchSame.check : t.sch.check = s.sch.check := congrArg (·.2.1) h.cycle

end

/-! ### The reserve (R55) and HLT's part of a swap (R334) -/

theorem SchSame.setReserve (s : State) (f : Fld) (v : Nat) : SchSame s (s.setFld R.schReserveMin f v) where
  regs _ _ hr _ := State.setFld_reg_ne _ _ _ hr
  status _ _ := State.bit_setFld_ne _ _ _ _ (by decide)
  cycle := rfl
  runs := rfl
  clock := rfl
  entering := rfl

/-- REPLAN is raised. -/
theorem SchSame.raiseReplan (s : State) : SchSame s (s.setBit R.schStatus F.schStatus.replan true) where
  regs _ _ _ hs := State.setBit_reg_ne _ _ _ hs
  status _ hf := State.bit_setBit_apart _ _ _ _ _ (by decide) hf
  cycle := rfl
  runs := rfl
  clock := rfl
  entering := rfl

theorem SchSame.updateReserve (s : State) (swap : Bool) : SchSame s (s.updateReserve swap) := by
  have hreplan (u : State) (b : Bool) : SchSame u (u.setSch { u.sch with replan := b }) := .of_keeps (u.setSch_same _ rfl)
  unfold State.updateReserve
  dsimp only
  split
  · exact .refl s
  next v k _ =>
    have hshown := (SchSame.setReserve s F.schReserveMin.reserve (BitVec.ofInt 16 (max (-32768) (min 32767 v))).toNat).trans
      (.setReserve _ F.schReserveMin.stake k.idx)
    split
    · split
      · exact hshown.trans (hreplan _ _)
      · exact hshown
    · split
      · exact hshown
      · refine ((hshown.trans (hreplan _ true)).trans (.raiseReplan _)).trans
          (.of_keeps (w := 0x202006014001C) (State.logRec_step _ _ rfl rfl (State.health_step _ _ _ _ _ rfl rfl (Keeps.refl _ _))))

theorem SchSame.hltSwap (s : State) : SchSame s s.hltSwap :=
  (SchSame.of_keeps (w := 0x10202006014031C) (State.rotorSwap_step .uhf rfl rfl
    (State.rotorSwap_step .hf rfl rfl (Keeps.refl _ s)))).trans (.updateReserve _ true)

/-! ### The wires while no stake runs (R212) -/

/-- Without a stake on the air nothing yields the medium: the wires alone follow. -/
theorem State.driveCxp_idle {s : State} (h : s.runs = []) : Keeps 0x400000000800000 s s.driveCxp := by
  have hair : ∀ u : State, u.runs = [] → u.onAir = [] := fun u hu => by unfold State.onAir; rw [hu]; rfl
  have hcount (x : Cxp) : Keeps 0x400000000800000 s (s.setCxp x).showWires.countOverridden :=
    State.countOverridden_step rfl rfl (State.showWires_step rfl rfl (State.setCxp_step x rfl rfl (Keeps.refl _ s)))
  unfold State.driveCxp
  repeat' with_reducible apply Keeps.ite
  · exact State.showWires_step rfl rfl (Keeps.refl _ s)
  · exact State.showWires_step rfl rfl (State.setCxp_step _ rfl rfl (Keeps.refl _ s))
  · exact hcount _
  · exact State.countOverridden_step rfl rfl (State.showWires_step rfl rfl (Keeps.refl _ s))
  · have hk := hcount { s.cxp with gnt := true, waiting := false }
    unfold State.yieldAll
    rw [hair _ (hk.runs_eq.trans h)]
    exact hk
  · exact hcount _
  · exact State.showWires_step rfl rfl (State.setCxp_step _ rfl rfl (Keeps.refl _ s))

/-- Another power state is none that is being entered. -/
theorem SchSame.enterPower (s : State) (p : PowerState) : SchSame s (s.enterPower p) := by
  have htrace : SchSame s (s.trace 0x09 0xFF p.code) :=
    .of_keeps (w := 0x1000000002000000) (State.trace_step _ _ _ rfl rfl (Keeps.refl _ s))
  unfold State.enterPower
  split
  · exact .refl s
  · exact htrace.trans ⟨fun _ _ _ _ => rfl, fun _ _ => rfl, rfl, rfl, rfl, rfl⟩

/-! ### A plan becomes active (R65) -/

/-- The plan of a bank is shown as the active one. -/
def State.planShown (s : State) (b : Bool) : State :=
  let s1 := (s.setBit R.schStatus F.schStatus.activeBank b).setBit R.schStatus F.schStatus.loaded true
  let pk := s1.peak b
  ((s1.setReg R.schPeakMw (Word.put (Word.put 0 F.schPeakMw.peak pk.1) F.schPeakMw.offset pk.2)).setReg
    R.schCycleTicks (BitVec.ofNat 64 (s1.planCycle b))).setReg R.schPlanId (Word.put 0 F.schPlanId.active (s1.planId b))

/-- What follows for latches, records, requests and spares leaves what SCH shows. -/
theorem SchSame.activate (s : State) (b : Bool) : SchSame (s.planShown b) (s.activate b) :=
  (SchSame.of_keeps (w := 0x180202006204145C) (State.dropRequests_step rfl rfl (State.dropRecords_step rfl rfl
    (State.swapLatches_step rfl rfl (Keeps.refl _ (s.planShown b)))))).trans (.hltSwap _)

theorem State.planId_of_mem {s t : State} (h : t.mem = s.mem) (b : Bool) : t.planId b = s.planId b := by
  unfold State.planId State.planWord State.word State.byte
  rw [h]

theorem State.bit_setReg_ne (s : State) (w : Word) (f : Fld) {off o : Nat} (h : o ≠ off) :
    (s.setReg off w).bit o f = s.bit o f := State.bit_of_reg (State.setReg_reg_ne _ _ h) f

/-- What is shown of a plan. -/
theorem State.planShown_fields (s : State) (b : Bool) :
    (s.planShown b).activeBank = b ∧ (s.planShown b).bit R.schStatus F.schStatus.loaded = true ∧
      (s.planShown b).fld R.schPlanId F.schPlanId.active = s.planId b := by
  have hid : ((s.setBit R.schStatus F.schStatus.activeBank b).setBit R.schStatus F.schStatus.loaded true).planId b = s.planId b :=
    State.planId_of_mem (by simp) b
  have hlt : s.planId b < 2 ^ 32 := Word.get_lt _ _
  unfold State.activeBank State.planShown
  simp (disch := decide) only [State.bit_setReg_ne, State.fld_setReg_self, State.bit_setBit_self,
    State.bit_setBit_apart, Word.get_put_self, hid, true_and]
  exact Nat.mod_eq_of_lt hlt

/-- What else is shown of SCH's status stands. -/
theorem State.planShown_status (s : State) (b : Bool) {f : Fld} (hb : Fld.apart F.schStatus.activeBank f = true)
    (hl : Fld.apart F.schStatus.loaded f = true) : (s.planShown b).bit R.schStatus f = s.bit R.schStatus f := by
  unfold State.planShown
  simp (disch := decide) only [State.bit_setReg_ne]
  rw [State.bit_setBit_apart _ _ _ _ _ (by decide) hl, State.bit_setBit_apart _ _ _ _ _ (by decide) hb]

theorem State.planShown_reg (s : State) (b : Bool) {o : Nat} (hstatus : o ≠ R.schStatus) (hpeak : o ≠ R.schPeakMw)
    (hcycle : o ≠ R.schCycleTicks) (hid : o ≠ R.schPlanId) : (s.planShown b).reg o = s.reg o := by
  unfold State.planShown
  dsimp only
  rw [State.setReg_reg_ne _ _ hid, State.setReg_reg_ne _ _ hcycle, State.setReg_reg_ne _ _ hpeak,
    State.setBit_reg_ne _ _ _ hstatus, State.setBit_reg_ne _ _ _ hstatus]

theorem State.planShown_keeps (s : State) (b : Bool) : Keeps 0x2000000000 s (s.planShown b) :=
  Keeps.setReg regWindow_schPlanId rfl rfl (Keeps.setReg regWindow_schCycleTicks rfl rfl (Keeps.setReg regWindow_schPeakMw rfl rfl
    (Keeps.setBit regWindow_schStatus rfl rfl (Keeps.setBit regWindow_schStatus rfl rfl (Keeps.refl _ s)))))

/-- The pending plan becomes active: what SCH shows of it, and what stands. -/
structure Swapped (s t : State) : Prop where
  bank : t.activeBank = !s.activeBank
  pending : t.bit R.schStatus F.schStatus.swapPending = false
  swapAt : t.sch.swapAt = none
  planId : t.fld R.schPlanId F.schPlanId.active = s.planId (!s.activeBank)
  loaded : t.bit R.schStatus F.schStatus.loaded = true
  running : t.running = s.running
  startAt : t.sch.startAt = s.sch.startAt
  runs : t.runs = s.runs
  now : t.now = s.now
  entering : t.boot.entering = s.boot.entering
  cycleCnt : t.reg R.schCycleCnt = s.reg R.schCycleCnt
  cycleStart : t.reg R.schCycleStart = s.reg R.schCycleStart
  ctrl : t.reg R.schCtrl = s.reg R.schCtrl

theorem State.takeSwap_swapped {s : State} (hruns : s.runs = []) : Swapped s s.takeSwap := by
  let s1 := (s.setBit R.schStatus F.schStatus.swapPending false).setSch { s.sch with swapAt := none }
  have hbank : s1.activeBank = s.activeBank := State.bit_setBit_apart _ _ _ _ _ (by decide) (by decide)
  have hact : SchSame (s1.planShown (!s.activeBank)) (s1.activate (!s.activeBank)) := .activate s1 _
  have hshown := s1.planShown_keeps (!s.activeBank)
  have hdrive : SchSame (s1.activate (!s.activeBank)) s.takeSwap := by
    refine .of_keeps (w := 0x1400000002800000) ((State.driveCxp_idle ?_).step rfl rfl (State.trace_step _ _ _ rfl rfl
      (State.setCxp_step _ rfl rfl (Keeps.refl _ _))))
    exact (State.trace_step (msk := 0x1000000002800000) _ _ _ rfl rfl (State.setCxp_step _ rfl rfl (Keeps.refl _ _))).runs_eq.trans
      (hact.runs.trans (hshown.runs_eq.trans hruns))
  have h := hact.trans hdrive
  obtain ⟨hb, hl, hid⟩ := s1.planShown_fields (!s.activeBank)
  have hreg {o : Nat} (hw : regWindow o = 5) (hr : o ≠ R.schReserveMin) (h1 : o ≠ R.schStatus) (h2 : o ≠ R.schPeakMw)
      (h3 : o ≠ R.schCycleTicks) (h4 : o ≠ R.schPlanId) : s.takeSwap.reg o = s.reg o :=
    (h.regs o hw hr h1).trans ((s1.planShown_reg _ h1 h2 h3 h4).trans (State.setBit_reg_ne _ _ _ h1))
  have hstatus {f : Fld} (h1 : Fld.apart F.schStatus.replan f = true) (h2 : Fld.apart F.schStatus.activeBank f = true)
      (h3 : Fld.apart F.schStatus.loaded f = true) : s.takeSwap.bit R.schStatus f = s1.bit R.schStatus f :=
    (h.status f h1).trans (s1.planShown_status _ h2 h3)
  exact {
    bank := h.activeBank.trans hb
    pending := (hstatus (by decide) (by decide) (by decide)).trans (State.bit_setBit_self _ _ _ _ (by decide))
    swapAt := h.swapAt.trans (congrArg Sch.swapAt (hshown.sch (.inl rfl) rfl))
    planId := (h.fld _ regWindow_schPlanId).trans (hid.trans (State.planId_of_mem (by simp [s1]) _))
    loaded := (h.status _ (by decide)).trans hl
    running := (hstatus (by decide) (by decide) (by decide)).trans (State.bit_setBit_apart _ _ _ _ _ (by decide) (by decide))
    startAt := h.startAt.trans ((congrArg Sch.startAt (hshown.sch (.inl rfl) rfl)).trans rfl)
    runs := h.runs.trans (hshown.runs_eq.trans (by simp [s1]))
    now := h.now.trans (hshown.now_eq.trans (by simp [s1, State.now]))
    entering := h.entering.trans ((congrArg Boot.entering (hshown.boot (.inl rfl) rfl)).trans (by simp [s1]))
    cycleCnt := hreg rfl (by decide) (by decide) (by decide) (by decide) (by decide)
    cycleStart := hreg rfl (by decide) (by decide) (by decide) (by decide) (by decide)
    ctrl := hreg rfl (by decide) (by decide) (by decide) (by decide) (by decide) }

/-! ### A cycle begins, or the plan stops (R33, R68) -/

/-- A major cycle begins at a tick, with stake 0 next. -/
structure CycleBegun (at_ : Nat) (s t : State) : Prop where
  regs : ∀ o, o ≠ R.schCycleStart → t.reg o = s.reg o
  start : t.reg R.schCycleStart = BitVec.ofNat 64 at_
  next : t.sch.next = 0
  startAt : t.sch.startAt = s.sch.startAt
  swapAt : t.sch.swapAt = s.sch.swapAt
  boot : t.boot = s.boot

theorem State.beginCycle_begun (s : State) (at_ : Nat) : CycleBegun at_ s (s.beginCycle at_) := by
  have hreg : ∀ o, o ≠ R.schCycleStart → (s.setReg R.schCycleStart (BitVec.ofNat 64 at_)).reg o = s.reg o :=
    fun o h => State.setReg_reg_ne _ _ h
  have hself := s.setReg_reg_self R.schCycleStart (BitVec.ofNat 64 at_)
  unfold State.beginCycle
  dsimp only
  split <;> exact ⟨hreg, hself, rfl, rfl, rfl, rfl⟩

theorem CycleBegun.startFld {at_ : Nat} {s t : State} (h : CycleBegun at_ s t) (hlt : at_ < 2 ^ 64) :
    t.fld R.schCycleStart F.schCycleStart.start = at_ := by
  unfold State.fld Word.get
  rw [h.start]
  simpa [F.schCycleStart.start] using hlt

/-- The plan stops: SCH shows the same but that it does not run. -/
theorem State.stopPlan_fields {s : State} (hruns : s.runs = []) : SchSame (s.setBit R.schStatus F.schStatus.running false) s.stopPlan := by
  let s1 := (s.setBit R.schStatus F.schStatus.running false).trace 0x0C 0xFF (2 ^ 40 + s.planId s.activeBank)
  have htrace : SchSame (s.setBit R.schStatus F.schStatus.running false) (s1.setCxp { s1.cxp with lead := [] }) :=
    .of_keeps (w := 0x1000000002800000) (State.setCxp_step _ rfl rfl (State.trace_step _ _ _ rfl rfl (Keeps.refl _ _)))
  have hdrive : SchSame (s1.setCxp { s1.cxp with lead := [] }) (s1.setCxp { s1.cxp with lead := [] }).driveCxp :=
    .of_keeps (State.driveCxp_idle (htrace.runs.trans (by simp [hruns])))
  exact (htrace.trans hdrive).trans ((SchSame.enterPower _ _).trans (.of_keeps (w := 0x400000) (State.idleBeacon_step rfl rfl (Keeps.refl _ _))))

end Sys2Proof.Machine
end

section
/-! SUPPORT. MAJOR_CYCLE_BOUNDARY and PLAN_START (Machine/Plan.lean): what each leaves where it is due (R33, R65, R68). -/

namespace Sys2Proof.Machine

/-! ### The boundary -/

/-- The cycle is counted, for SCH and for the requests that wait (R61). -/
def State.cycleCounted (s : State) : State :=
  (s.bump R.schCycleCnt F.schCycleCnt.count).setRequests (s.requests.map fun x => { x with cycles := x.cycles + 1 })

/-- A pending plan that may become active has done so, and the boundary is noted. -/
def State.atBoundary (s : State) : State :=
  let s2 := if s.swapDue then s.cycleCounted.takeSwap else s.cycleCounted
  s2.setSch { s2.sch with lastBoundary := s.cycleEnd }

theorem State.boundary_due {s : State} (hup : s.up = true) (hrun : s.running = true) (hruns : s.runs = [])
    (hnext : s.sch.next = s.planCount s.activeBank) (hend : s.cycleEnd ≤ s.now) :
    s.boundary = if !s.atBoundary.bit R.schCtrl F.schCtrl.run || s.atBoundary.boot.entering.isSome then s.atBoundary.stopPlan
      else s.atBoundary.beginCycle s.cycleEnd := by
  have hguard : (!s.up || !s.running || !s.runs.isEmpty || decide (s.sch.next ≠ s.planCount s.activeBank) ||
      decide (s.now < s.cycleEnd)) = false := by
    simp [hup, hrun, hruns, hnext, Nat.not_lt.mpr hend]
  unfold State.boundary
  rw [if_neg (by rw [hguard]; exact Bool.false_ne_true)]
  rfl

/-- What the boundary has taken over before the next cycle begins. -/
structure Bounded (s t : State) : Prop where
  count : t.fld R.schCycleCnt F.schCycleCnt.count = (s.fld R.schCycleCnt F.schCycleCnt.count + 1) % 2 ^ 64
  bank : t.activeBank = if s.swapDue then !s.activeBank else s.activeBank
  swap : s.swapDue = true → t.bit R.schStatus F.schStatus.swapPending = false ∧ t.sch.swapAt = none ∧
    t.fld R.schPlanId F.schPlanId.active = s.planId (!s.activeBank)
  running : t.running = s.running
  runs : t.runs = s.runs
  entering : t.boot.entering = s.boot.entering
  ctrl : t.reg R.schCtrl = s.reg R.schCtrl

theorem State.atBoundary_bounded {s : State} (hruns : s.runs = []) : Bounded s s.atBoundary := by
  have hcount : s.cycleCounted.fld R.schCycleCnt F.schCycleCnt.count = (s.fld R.schCycleCnt F.schCycleCnt.count + 1) % 2 ^ 64 :=
    State.fld_bump_self _ _ _ (by decide)
  have hreg : ∀ o, o ≠ R.schCycleCnt → s.cycleCounted.reg o = s.reg o := fun o h => State.setReg_reg_ne _ _ h
  have hstatus := hreg R.schStatus (by decide)
  unfold State.atBoundary
  cases hdue : s.swapDue with
  | false =>
    exact ⟨hcount, (State.activeBank_of_reg hstatus).trans (by rw [hdue]; rfl), fun h => Bool.noConfusion (hdue.symm.trans h),
      State.running_of_reg hstatus, rfl, rfl, hreg _ (by decide)⟩
  | true =>
    have h : Swapped s.cycleCounted s.cycleCounted.takeSwap := State.takeSwap_swapped hruns
    have hbank : s.cycleCounted.activeBank = s.activeBank := State.activeBank_of_reg hstatus
    refine ⟨(State.fld_of_reg h.cycleCnt _).trans hcount, h.bank.trans (by rw [hbank, hdue]; rfl), fun _ => ⟨h.pending, h.swapAt, ?_⟩,
      h.running.trans (State.running_of_reg hstatus), h.runs, h.entering, h.ctrl.trans (hreg _ (by decide))⟩
    exact h.planId.trans (by rw [hbank]; rfl)

/-! ### The start of a plan -/

/-- The pending plan that may become active has, and the plan is seen to run. -/
def State.planBegun (s : State) : State :=
  let s1 := if s.swapDue then s.takeSwap else s
  let s2 := s1.setSch { s1.sch with startAt := none }
  ((s2.setBit R.schStatus F.schStatus.running true).trace 0x0C 0xFF (2 * 2 ^ 40 + s2.planId s2.activeBank)).enterPower .run

theorem State.planStart_due {s : State} {at_ : Nat} (hup : s.up = true) (hrun : s.running = false) (hruns : s.runs = [])
    (hat : s.sch.startAt = some at_) (hnow : at_ ≤ s.now) (hctrl : s.bit R.schCtrl F.schCtrl.run = true)
    (hentering : s.boot.entering = none) (hscan : s.boot.scanHeld = false) (hloaded : s.bit R.schStatus F.schStatus.loaded = true) :
    s.planStart = s.planBegun.beginCycle at_ := by
  have hstill : (if s.swapDue then s.takeSwap else s).bit R.schStatus F.schStatus.loaded = true := by
    split
    · exact (State.takeSwap_swapped hruns).loaded
    · exact hloaded
  unfold State.planStart
  simp only [hat, hup, hrun, hruns, hctrl, hentering, hscan, decide_eq_false (Nat.not_lt.mpr hnow), List.isEmpty_nil, Bool.not_true, Bool.or_self,
    Bool.false_eq_true, if_false, Option.isSome_none, State.setSch_bit, hstill]
  rfl

theorem State.enterPower_power (s : State) (p : PowerState) : (s.enterPower p).boot.power = p := by
  unfold State.enterPower
  split
  · assumption
  · rfl

theorem State.planBegun_fields (s : State) : s.planBegun.running = true ∧ s.planBegun.sch.startAt = none ∧
    s.planBegun.boot.power = .run := by
  let s1 := if s.swapDue then s.takeSwap else s
  let s2 := s1.setSch { s1.sch with startAt := none }
  have hsame : SchSame (s2.setBit R.schStatus F.schStatus.running true) s.planBegun :=
    (SchSame.of_keeps (w := 0x1000000002000000) (State.trace_step _ _ _ rfl rfl (Keeps.refl _ _))).trans (.enterPower _ _)
  refine ⟨hsame.running.trans (State.bit_setBit_self _ _ _ _ (by decide)), hsame.startAt.trans (by simp [s2]), ?_⟩
  exact State.enterPower_power _ _

end Sys2Proof.Machine
end

section
/-! SUPPORT. How a stake starts, reaches its tail and ends (Machine/Plan.lean, Machine/Exchange.lean; R40, R42, R43), and how the work of
a triggered one starts (R63, R64). -/

namespace Sys2Proof.Machine

/-! ### The start of a stake -/

/-- The next stake may start: its start has come, and no active stake holds one of its ports. -/
theorem State.stakeStart_free {s : State} {idx : Nat} (hup : s.up = true) (hrun : s.running = true) (hnext : idx = s.sch.next)
    (hcount : idx < s.planCount s.activeBank)
    (hstart : s.fld R.schCycleStart F.schCycleStart.start + (s.planStake idx).start ≤ s.now)
    (hports : ∀ p ∈ (s.planStake idx).ports, s.runAt p = none) :
    s.stakeStart idx =
      if (s.stakeAddrs (s.planStake idx)).any s.isUe then (s.touchAll (s.stakeAddrs (s.planStake idx))).eccCritical
      else
        let s1 := s.beforeStake (s.planStake idx)
        let r := s1.stakeRun (s.planStake idx) (s.fld R.schCycleStart F.schCycleStart.start + (s.planStake idx).start)
        (s1.addStake (s.planStake idx) r).launch (s.planStake idx) r := by
  refine if_neg ?_
  have hfree : ((s.planStake idx).ports.any fun p => (s.runAt p).isSome) = false :=
    List.any_eq_false.mpr fun p hp => by simp [hports p hp]
  rw [hup, hrun, hfree, decide_eq_false (not_not_intro hnext), decide_eq_false (Nat.not_le.mpr hcount),
    decide_eq_false (Nat.not_lt.mpr hstart)]
  exact Bool.false_ne_true

theorem State.touchAll_up (s : State) (l : List Nat) : (s.touchAll l).up = s.up := by
  unfold State.up
  rw [(State.touchAll_step (msk := 0x2000000000004) l rfl rfl (Keeps.refl _ s)).boot (.inl rfl) rfl]

/-! ### The tail -/

/-- A stake whose slice begins its tail: no exchange runs, and its phase is that of the tail. -/
theorem State.beginTail_put {s : State} {r : Run} (hr : s.runAt r.port = some r) :
    Put r.stake (fun r' => r'.exch = none ∧ r'.phase = r.phase.atTail) s (s.beginTail r) := by
  have hcut := State.cutExch_put (s := s) (r := r) (r.inert.getD .abandoned)
  obtain ⟨r1, hat, hstake, hexch, hphase⟩ := hcut.runAt hr rfl
  unfold State.beginTail
  dsimp only
  rw [hat]
  have hput : Put r.stake (fun r' => r'.exch = none ∧ r'.phase = r.phase.atTail) s
      (((s.cutExch r (r.inert.getD .abandoned)).saveWalk r1).putRun { r1 with phase := r1.phase.atTail }) :=
    (hcut.keep (State.runs_of (State.saveWalk_step r1 rfl rfl (Keeps.refl _ _)))).put _ hstake
      ⟨hexch, congrArg Phase.atTail hphase⟩
  refine Put.ite (hput.keep ?_) (hput.keep ?_)
  · exact State.runs_of (Keeps.each rfl (Keeps.refl _ _) fun u p => State.modPort_step p _ rfl rfl (Keeps.refl _ u))
  · exact State.runs_of (State.lowerField_step _ _ rfl rfl (Keeps.refl _ _))

/-- At its tail a stake that works begins it, counted first where its medium was withdrawn (R213). -/
theorem State.tailStart_due {s : State} {p : Nat} {r : Run} (hr : s.runAt p = some r) (hphase : r.phase ≠ .tail)
    (htail : r.tailAt ≤ s.now) : s.tailStart p = s.beginTail r ∨ s.tailStart p = s.countDenied.beginTail r := by
  unfold State.tailStart
  rw [hr]
  dsimp only
  rw [if_neg hphase, if_neg (Nat.not_lt.mpr htail)]
  split
  · exact .inl rfl
  · split
    · exact .inr rfl
    · exact .inl rfl

theorem State.tailStart_put {s : State} {p : Nat} {r : Run} (hr : s.runAt p = some r) (hport : s.runAt r.port = some r)
    (hphase : r.phase ≠ .tail) (htail : r.tailAt ≤ s.now) :
    Put r.stake (fun r' => r'.exch = none ∧ r'.phase = r.phase.atTail) s (s.tailStart p) := by
  have hruns : s.countDenied.runs = s.runs := State.runs_of (State.countDenied_step rfl rfl (Keeps.refl _ s))
  rcases State.tailStart_due hr hphase htail with h | h <;> rw [h]
  · exact State.beginTail_put hport
  · exact Put.from hruns (State.beginTail_put ((congrArg (List.find? _) hruns).trans hport))

/-! ### The end -/

/-- What follows the end of a stake that is active no more: its trace, the calibration of a slice, its slices at rest, and the wires. -/
def State.afterEnd (s : State) (p : Nat) (r : Run) : State :=
  let s3 := s.trace 0x02 p (r.stake.idx * 2 ^ 32 + r.lastStatus.code * 2 ^ 24 + r.exchCount % 65536)
  let s4 := if r.template = 0x20 then (s3.calEnd r).updateReserve false else s3
  let next := s4.heldPorts r.stake
  (s4.each r.stake.ports fun s q =>
    if !isPort q ∨ ((s.port q).hold.isSome ∧ q ∈ next) then s
    else
      let s1 := (s.modPort q fun x => { x with hold := none }).settleSlice q r.rampTicks
      if isUhfPort q ∧ ((s1.slice (s1.server q)).st = .standby ∨ (s1.slice (s1.server q)).st = .off) then s1.pinsSafe q else s1).driveCxp

theorem State.afterEnd_active (s : State) (p : Nat) (r : Run) : (s.afterEnd p r).active = s.active := by
  have htrace := State.trace_step (msk := 0x3FFFFFBEFFFFFFFF) 0x02 p
    (r.stake.idx * 2 ^ 32 + r.lastStatus.code * 2 ^ 24 + r.exchCount % 65536) rfl rfl (Keeps.refl _ s)
  have h : Keeps 0x3FFFFFBEFFFFFFFF s (s.afterEnd p r) := by
    refine State.driveCxp_step rfl rfl (Keeps.each rfl ?_ fun u q => Keeps.ite (Keeps.refl _ u) (Keeps.ite ?_ ?_))
    · exact Keeps.ite (State.updateReserve_step _ rfl rfl (State.calEnd_step _ rfl rfl htrace)) htrace
    · exact State.pinsSafe_step _ rfl rfl (State.settleSlice_step _ _ rfl rfl (State.modPort_step _ _ rfl rfl (Keeps.refl _ u)))
    · exact State.settleSlice_step _ _ rfl rfl (State.modPort_step _ _ rfl rfl (Keeps.refl _ u))
  exact h.stakes (.inl rfl) rfl

theorem State.dropRun_active (s : State) (r : Run) :
    (s.dropRun r).active = s.active.filter fun i => decide (i ≠ r.stake.idx) := by
  unfold State.active State.dropRun
  rw [State.setRuns_runs, List.filter_map]
  rfl

/-- A stake whose active ticks are over is active no more. -/
theorem State.stakeEnd_active {s : State} {p : Nat} {r : Run} (hr : s.runAt p = some r) (hstop : r.stop ≤ s.now) :
    (s.stakeEnd p).active = s.active.filter fun i => decide (i ≠ r.stake.idx) := by
  let s1 := if r.phase = .tail then s else s.beginTail r
  let r1 := (s1.runAt p).getD r
  have hend : s.stakeEnd p = ((((s1.unclaim r1.stake).storeCoefs r1).dropRun r).awnStop r1).afterEnd p r1 := by
    unfold State.stakeEnd
    rw [hr]
    exact if_neg (Nat.not_lt.mpr hstop)
  have hbegun : s1.active = s.active := by
    have h : Keeps 0x3FFFFFBEFFFFFFFF s s1 := Keeps.ite (Keeps.refl _ s) (State.beginTail_step r rfl rfl (Keeps.refl _ s))
    exact h.stakes (.inl rfl) rfl
  have hunit : ((s1.unclaim r1.stake).storeCoefs r1).active = s1.active := by
    have h : Keeps 0x3FFFFFBEFFFFFFFF s1 ((s1.unclaim r1.stake).storeCoefs r1) :=
      State.storeCoefs_step _ rfl rfl (State.unclaim_step _ rfl rfl (Keeps.refl _ s1))
    exact h.stakes (.inl rfl) rfl
  have hawn : ∀ u : State, (u.awnStop r1).active = u.active := fun u =>
    (State.awnStop_step (msk := 0x3FFFFFBEFFFFFFFF) _ rfl rfl (Keeps.refl _ u)).stakes (.inl rfl) rfl
  rw [hend, State.afterEnd_active, hawn, State.dropRun_active, hunit, hbegun]

/-! ### The work of a triggered stake -/

/-- What the drivers report leaves the latches of the triggers. -/
theorem State.driveTold_latches (s : State) (r : Run) (n p z : Nat) : (s.driveTold r n p z).sch.latches = s.sch.latches := by
  have hhealth : ∀ (u : State) (q : Nat) (st : Status) (code x : Nat) (l : List Word), (u.health q st code x l).sch = u.sch :=
    fun u q st code x l => (State.health_step (msk := 0x202006004001C) q st code x l rfl rfl (Keeps.refl _ u)).sch (.inl rfl) rfl
  have hrail : ∀ u : State, (u.railHealth p).sch.latches = u.sch.latches := fun u => by
    unfold State.railHealth
    split
    · rfl
    · rw [hhealth]; rfl
  have hcap : ∀ (u : State) (cap : Nat), (u.capHealth p cap).sch.latches = u.sch.latches := fun u cap => by
    unfold State.capHealth
    split
    · rfl
    · rw [hhealth]; rfl
  have hlimited : (s.railLimited r n p).sch.latches = s.sch.latches := by
    unfold State.railLimited
    dsimp only
    rw [hrail]
    split
    · rw [State.setBit_sch]
    · rw [(Keeps.bumpSat (w := 0x10000000000) regWindow_hfaRailLimitCnt rfl rfl (Keeps.refl _ _)).sch (.inl rfl) rfl]; rfl
  unfold State.driveTold
  dsimp only
  split <;> [rw [hcap]; skip] <;> split <;> [exact hlimited; rfl; exact hlimited; rfl]

theorem State.startWork_latches (s : State) (r : Run) (from_ : Nat) : (s.startWork r from_).sch.latches = s.sch.latches := by
  have hwalk : (if r.inventory then s.openWalk r else (s, r.walk)).1.sch = s.sch := by
    split
    · exact (State.openWalk_step (msk := 0x400000000400) r rfl rfl (Keeps.refl _ s)).sch (.inl rfl) rfl
    · rfl
  unfold State.startWork
  dsimp only
  generalize (if r.inventory then s.openWalk r else (s, r.walk)) = ow at hwalk
  rw [← hwalk]
  split
  · exact List.foldlRecOn (motive := fun u : State => u.sch.latches = ow.1.sch.latches) _ _ rfl
      fun u hu n _ => (State.driveTold_latches u _ _ _ _).trans hu
  · rw [(State.startFront_step (msk := 0x80040000380) _ _ rfl rfl (Keeps.refl _ ow.1)).sch (.inl rfl) rfl]

theorem State.startFront_put {s u : State} {r : Run} (from_ : Nat) {P : Run → Prop} (hu : u.runs = s.runs)
    (hfront : P { r with phase := .front }) : Put r.stake P s (u.startFront r from_) := by
  refine Put.of _ (Eq.trans (State.runs_of ?_) hu) rfl hfront
  refine Keeps.each rfl (Keeps.each rfl (Keeps.each rfl (State.frontChannel_step _ rfl rfl (Keeps.refl _ u)) fun v n => ?_)
    fun v n => ?_) fun v n => ?_
  · exact State.takeDrive_step _ _ _ rfl rfl (Keeps.refl _ v)
  · exact State.modPort_step _ _ rfl rfl (Keeps.refl _ v)
  · exact State.sendFrom_step _ _ _ _ _ rfl rfl (Keeps.refl _ v)

/-- A stake whose work starts is in its front, or active on the field that it finds. -/
theorem State.startWork_put {s u : State} {r : Run} (from_ : Nat) {P : Run → Prop} (hu : u.runs = s.runs)
    (hfront : ∀ w, P { r with walk := w, phase := .front })
    (hactive : ∀ w, P { r with walk := w, phase := .active, readyAt := from_ }) : Put r.stake P s (u.startWork r from_) := by
  have hwalk : (if r.inventory then u.openWalk r else (u, r.walk)).1.runs = s.runs := by
    split
    · exact (State.runs_of (State.openWalk_step r rfl rfl (Keeps.refl _ u))).trans hu
    · exact hu
  unfold State.startWork
  dsimp only
  generalize (if r.inventory then u.openWalk r else (u, r.walk)) = ow at hwalk
  split
  · exact (Put.of _ hwalk rfl (hactive ow.2)).keep (State.runs_of (State.heldDrive_step _ rfl rfl (Keeps.refl _ _)))
  · exact State.startFront_put (r := { r with walk := ow.2 }) from_ hwalk (hfront ow.2)

theorem State.latchOf_of {s t : State} (h : t.sch.latches = s.sch.latches) (n p : Nat) : t.latchOf n p = s.latchOf n p := by
  unfold State.latchOf
  rw [h]

theorem State.clearLatch_latchOf (s : State) (n p : Nat) : (s.clearLatch n p).latchOf n p = none := by
  unfold State.latchOf
  rw [Option.map_eq_none_iff, List.find?_eq_none]
  intro l hl
  have hother := (List.mem_filter.mp hl).2
  grind

/-- The work of a stake whose trigger is latched starts at its time. -/
theorem State.triggerStart_latched {s : State} {p n : Nat} {r : Run} (hr : s.runAt p = some r) (htemplate : r.template = 0x30)
    (hphase : r.phase = .dispatched) (hinert : r.inert = none) (hready : r.readyAt ≤ s.now) (hinhibit : s.inhibited = false)
    (hlatch : s.latchOf (blkTrig r.block) r.port = some n) :
    s.triggerStart p = (s.clearLatch (blkTrig r.block) r.port).startWork
      { r with absorbed := n, workAt := some s.now, readyAt := s.now } s.now := by
  unfold State.triggerStart
  simp only [hr, hlatch, htemplate, hphase, hinert, hinhibit, Nat.not_lt.mpr hready, ne_eq, not_true_eq_false, Option.isSome_none,
    Bool.false_eq_true, or_self, if_false]

end Sys2Proof.Machine
end

section
/-! SUPPORT. How an exchange starts and ends (Machine/Exchange.lean; R43, R110, R180). -/

namespace Sys2Proof.Machine

/-! ### The start of an exchange -/

/-- An exchange that fits, of a frame that is not too long, with a budget and within the dwell, is sent. -/
theorem State.exchangeStart_sends {s : State} {p : Nat} {r : Run} {c : Cmd} (hr : s.runAt p = some r) (hping : r.inner ≠ 0x0B)
    (hcmd : r.nextCmd = some c) (hmay : s.maySend r = true) (hfits : s.now + r.exchTicks c ≤ r.tailAt)
    (hshort : r.frameTooLong c = false)
    (hbudget : c.keyed = true → (∃ u, c = .kAuth2 u) ∨ s.budgetSpent r.attempts r.budgetKey.1 r.budgetKey.2 = false)
    (hdwell : s.dwellOver r (r.exchTicks c) = false) : s.exchangeStart p = s.send r c (r.exchTicks c) := by
  unfold State.exchangeStart
  simp only [hr, if_neg hping, hcmd, hmay, Nat.not_lt.mpr hfits, hshort, hdwell, Bool.not_true, Bool.false_eq_true, or_self, if_false]
  refine if_neg fun ⟨hkeyed, hauth, hspent⟩ => ?_
  rcases hbudget hkeyed with ⟨u, rfl⟩ | hfree
  · exact absurd hauth (by simp)
  · exact absurd (hfree.symm.trans hspent) Bool.false_ne_true

/-- A command of the procedure goes on the air as it is. -/
theorem State.send_plain {s : State} {r : Run} {c : Cmd} (u : Nat) (h : r.action = none) :
    Put r.stake (fun r' => r'.exch = some (s.newExch r c u (r.airCells c))) s (s.send r c u) ∧
      (s.send r c u).out = .air r.port c (s.airDrives r) (if c.krovrel then blkCell r.block else 0) (r.airCells c) :: s.out := by
  unfold State.send
  rw [h]
  exact ⟨Put.of _ rfl rfl rfl, rfl⟩

/-- A command of an action goes on the air as the action fills it in (R124, R127). -/
theorem State.send_filled {s : State} {r : Run} {c : Cmd} {a : Action} (u : Nat) (h : r.action = some a) :
    let f := s.fillCmd a c
    let cells := Run.airCells { r with action := some f.2.1 } f.1
    Put r.stake (fun r' => r'.exch = some (s.newExch r f.1 u cells)) s (s.send r c u) ∧
      (s.send r c u).out = .air r.port f.1 (s.airDrives r) (if c.krovrel then blkCell r.block else 0) cells :: s.out := by
  unfold State.send
  rw [h]
  exact ⟨Put.of _ rfl rfl rfl, rfl⟩

/-! ### The end of an exchange -/

/-- An exchange that may end does: with its reply, or when the wait for one is over. -/
theorem State.exchangeEnd_closes {s : State} {p : Nat} {r : Run} {x : Exch} (o : ReplyObs) (hr : s.runAt p = some r)
    (hexch : r.exch = some x) (hping : x.cmd.isPing = false) (hallow : r.allowanceOver s.now = false) (hlimit : s.now ≤ x.limit)
    (hover : x.seen = none → x.cmd.unanswered = true ∨ s.waitOver r x = true) :
    s.exchangeEnd p o = s.closeExch r x (r.outcome x o) (r.read x o) := by
  unfold State.exchangeEnd
  simp only [hr, hexch]
  refine if_neg ?_
  rintro (hlate | hping' | hallow' | ⟨hseen, hanswer, hwait⟩)
  · exact Nat.not_lt.mpr hlimit hlate
  · exact Bool.false_ne_true (hping.symm.trans hping')
  · exact Bool.false_ne_true (hallow.symm.trans hallow')
  · rcases hover (Option.isNone_iff_eq_none.mp hseen) with h | h
    · simp [h] at hanswer
    · simp [h] at hwait

/-- An exchange that has lasted U ends with what its reply is by then. -/
theorem State.exchangeTimeout_closes {s : State} {p : Nat} {r : Run} {x : Exch} (o : LateObs) (hr : s.runAt p = some r)
    (hexch : r.exch = some x) (hping : x.cmd.isPing = false) (hallow : r.allowanceOver s.now = false) (hlimit : x.limit ≤ s.now) :
    ∃ k read, s.exchangeTimeout p o = s.closeExch r x k read := by
  unfold State.exchangeTimeout
  simp only [hr, hexch, hping, hallow, Nat.not_lt.mpr hlimit, Bool.false_eq_true, or_self, if_false]
  exact ⟨_, _, rfl⟩

/-- The decoder that a stake claimed decodes nothing and is not busy (R180). -/
def decoderFree (k : Stake) (t : State) : Prop :=
  ∀ d, d < 2 → k.decoder = d + 1 → SMap.find t.decoders d = none ∧ t.bit R.wrdStatus (decBusy d) = false

theorem State.freeDecoder_free (s : State) (r : Run) : decoderFree r.stake (s.freeDecoder r) := by
  intro d hd hclaim
  unfold State.freeDecoder
  rw [hclaim]
  interval_cases d
  · exact ⟨SMap.find_del_self _ _, State.bit_setBit_self _ _ _ _ (by decide)⟩
  · exact ⟨SMap.find_del_self _ _, State.bit_setBit_self _ _ _ _ (by decide)⟩

/-- What changes neither the decoders nor their status leaves a free decoder free. -/
theorem decoderFree.keep {k : Stake} {s t : State} (h : decoderFree k s) (hk : Keeps 0x3FFF7FFEFFFFBFFF s t) : decoderFree k t := by
  intro d hd hclaim
  obtain ⟨hnone, hbusy⟩ := h d hd hclaim
  exact ⟨(congrArg (SMap.find · d) (hk.decoders (.inl rfl) rfl)).trans hnone,
    (State.bit_of_reg (hk.regs (.inl rfl) _ rfl) _).trans hbusy⟩

theorem State.closeExch_free (s : State) (r : Run) (x : Exch) (k : XClass × Status) (o : ReplyObs) :
    decoderFree r.stake (s.closeExch r x k o) := by
  let r1 := s.runAfter r x o
  let s0 := if x.cmd.krovrel ∧ k.1 = .skewed then s.bump R.frmKrvSkewCnt F.frmKrvSkewCnt.count else s
  have hfree : decoderFree r.stake (s0.freeDecoder r1) := s.runAfter_stake r x o ▸ s0.freeDecoder_free r1
  have hset : Keeps 0x3FFF7FFEFFFFBFFF (s0.freeDecoder r1) ((s0.freeDecoder r1).driveSetting r1) :=
    State.driveSetting_step _ rfl rfl (Keeps.refl _ _)
  refine hfree.keep ?_
  unfold State.closeExch
  dsimp only
  split
  · split
    · exact State.requestStep_step _ _ _ _ _ _ rfl rfl hset
    · exact State.tagStep_step _ _ _ _ _ rfl rfl hset
  · exact State.walkEnd_step _ _ _ _ rfl rfl (State.traceExch_step _ _ _ _ rfl rfl hset)

/-- What is left of an exchange that has ended: it is counted, and its decoder is free. -/
theorem State.closeExch_ends {s : State} {p : Nat} {r : Run} (x : Exch) (k : XClass × Status) (o : ReplyObs) (hr : s.runAt p = some r)
    (hport : s.runAt r.port = some r) :
    ∃ r', (s.closeExch r x k o).runAt p = some r' ∧ r'.stake = r.stake ∧ r'.exch = none ∧ r'.exchCount = r.exchCount + 1 ∧
      (s.closeExch r x k o).active = s.active ∧ decoderFree r.stake (s.closeExch r x k o) := by
  have hput := State.closeExch_put x k o (s := s) ⟨r, hport, rfl⟩
  obtain ⟨r', hat, hstake, hexch, hcount⟩ := hput.runAt hr rfl
  exact ⟨r', hat, hstake, hexch, congrArg Prod.fst hcount, hput.active, s.closeExch_free r x k o⟩

end Sys2Proof.Machine
end

section
/-! SUPPORT. The operations of the radio write no register as a host does: the words that registers held before the host writes of the
tick (R25), which the mode of CXP is read from, stand. The lemmas of the setters are proved by `(rfl)` and not `rfl`: `each_wrote` needs
their proofs in its side condition. -/

namespace Sys2Proof.Machine

/-- The words that registers held before the host writes of the tick (R25). -/
def State.wrote (s : State) : SMap Word := s.tick.wrote

@[simp] theorem State.ite_wrote (c : Prop) [Decidable c] (a b : State) :
    (if c then a else b).wrote = if c then a.wrote else b.wrote := apply_ite State.wrote c a b

@[simp] theorem State.each_wrote {α : Type} {f : State → α → State} (h : ∀ u x, (f u x).wrote = u.wrote) (s : State) (l : List α) :
    (s.each l f).wrote = s.wrote :=
  List.foldlRecOn (motive := fun u : State => u.wrote = s.wrote) l f rfl fun u hu x _ => (h u x).trans hu

/-! ### Registers, memory and the other parts -/

@[simp] theorem State.noteRaised_wrote (s : State) (off : Nat) (f : Fld) (b : Bool) : (s.noteRaised off f b).wrote = s.wrote := by
  unfold State.noteRaised
  split <;> rfl

@[simp] theorem State.setRegs_wrote (s : State) (v : SMap Word) : (s.setRegs v).wrote = s.wrote := (rfl)
@[simp] theorem State.setReg_wrote (s : State) (off : Nat) (w : Word) : (s.setReg off w).wrote = s.wrote := (rfl)
@[simp] theorem State.setFld_wrote (s : State) (off : Nat) (f : Fld) (v : Nat) : (s.setFld off f v).wrote = s.wrote := (rfl)

@[simp] theorem State.setBit_wrote (s : State) (off : Nat) (f : Fld) (b : Bool) : (s.setBit off f b).wrote = s.wrote := by
  simp [State.setBit]

@[simp] theorem State.bumpSat_wrote (s : State) (off : Nat) (f : Fld) (n : Nat) : (s.bumpSat off f n).wrote = s.wrote := (rfl)
@[simp] theorem State.setSch_wrote (s : State) (v : Sch) : (s.setSch v).wrote = s.wrote := (rfl)
@[simp] theorem State.setHif_wrote (s : State) (v : Hif) : (s.setHif v).wrote = s.wrote := (rfl)
@[simp] theorem State.bump_wrote (s : State) (off : Nat) (f : Fld) : (s.bump off f).wrote = s.wrote := (rfl)

/-! ### Packets -/

@[simp] theorem State.takeSeq_wrote (s : State) (n : Nat) : (s.takeSeq n).wrote = s.wrote := (rfl)
@[simp] theorem State.dropPacket_wrote (s : State) (n : Nat) : (s.dropPacket n).wrote = s.wrote := (rfl)
@[simp] theorem State.setBufs_wrote (s : State) (v : SMap BufState) : (s.setBufs v).wrote = s.wrote := (rfl)
@[simp] theorem State.setBuf_wrote (s : State) (b : Nat) (x : BufState) : (s.setBuf b x).wrote = s.wrote := (rfl)

@[simp] theorem State.setBufList_wrote (s : State) (l : List Nat) (x : BufState) : (s.setBufList l x).wrote = s.wrote := by
  simp [State.setBufList]

@[simp] theorem State.setFresh_wrote (s : State) (v : Nat) : (s.setFresh v).wrote = s.wrote := (rfl)
@[simp] theorem State.skip_wrote (s : State) (n : Nat) : (s.skip n).wrote = s.wrote := (rfl)
@[simp] theorem State.setEcc_wrote (s : State) (v : SMap Word) : (s.setEcc v).wrote = s.wrote := (rfl)
@[simp] theorem State.setUpset_wrote (s : State) (a : Nat) (w : Word) : (s.setUpset a w).wrote = s.wrote := (rfl)
@[simp] theorem State.setMem_wrote (s : State) (v : SMap Byte) : (s.setMem v).wrote = s.wrote := (rfl)
@[simp] theorem State.setByte_wrote (s : State) (a : Nat) (b : Byte) : (s.setByte a b).wrote = s.wrote := (rfl)

@[simp] theorem State.setBytes_wrote (s : State) (a : Nat) (l : List Byte) : (s.setBytes a l).wrote = s.wrote := by
  induction l generalizing s a with
  | nil => rfl
  | cons b l ih => exact ih _ _

@[simp] theorem State.noteStore_wrote (s : State) (a : Nat) : (s.noteStore a).wrote = s.wrote := (rfl)
@[simp] theorem State.setWord_wrote (s : State) (a : Nat) (w : Word) : (s.setWord a w).wrote = s.wrote := by simp [State.setWord]

@[simp] theorem State.setWords_wrote (s : State) (a : Nat) (l : List Word) : (s.setWords a l).wrote = s.wrote := by
  induction l generalizing s a with
  | nil => rfl
  | cons w l ih => exact (ih _ _).trans (State.setWord_wrote s a w)

@[simp] theorem State.writeChain_wrote (s : State) (c : List Nat) (ws : List Word) : (s.writeChain c ws).wrote = s.wrote := by
  induction c generalizing s ws with
  | nil => rfl
  | cons b l ih => exact (ih _ _).trans (by simp)

@[simp] theorem State.setFifos_wrote (s : State) (v : SMap Fifo) : (s.setFifos v).wrote = s.wrote := (rfl)
@[simp] theorem State.setFifo_wrote (s : State) (n : Nat) (x : Fifo) : (s.setFifo n x).wrote = s.wrote := (rfl)
@[simp] theorem State.driveInt_wrote (s : State) : s.driveInt.wrote = s.wrote := (rfl)
@[simp] theorem State.setOut_wrote (s : State) (v : List Emission) : (s.setOut v).wrote = s.wrote := (rfl)
@[simp] theorem State.emit_wrote (s : State) (e : Emission) : (s.emit e).wrote = s.wrote := (rfl)
@[simp] theorem State.msixSend_wrote (s : State) (fn vec : Nat) : (s.msixSend fn vec).wrote = s.wrote := (rfl)
@[simp] theorem State.msi_wrote (s : State) (fn vec : Nat) : (s.msi fn vec).wrote = s.wrote := by simp [State.msi]

@[simp] theorem State.fifoMsi_wrote (s : State) (n : Nat) (ring : Bool) : (s.fifoMsi n ring).wrote = s.wrote := by
  simp [State.fifoMsi]

@[simp] theorem State.append_wrote (s : State) (n : Nat) (chain : List Nat) (ws : List Word) :
    (s.append n chain ws).wrote = s.wrote := by
  simp [State.append]

@[simp] theorem State.commit_wrote (s : State) (n : Nat) (ws : List Word) : (s.commit n ws).wrote = s.wrote := by
  unfold State.commit
  dsimp only
  repeat' split
  all_goals simp

@[simp] theorem State.health_wrote (s : State) (port : Nat) (st : Status) (reason detail : Nat) (data : List Word) :
    (s.health port st reason detail data).wrote = s.wrote := by
  unfold State.health
  dsimp only
  repeat' split
  all_goals simp

/-! ### Slices and heads -/

@[simp] theorem State.railHealth_wrote (s : State) (p : Nat) : (s.railHealth p).wrote = s.wrote := by simp [State.railHealth]

@[simp] theorem State.railLimited_wrote (s : State) (r : Run) (n p : Nat) : (s.railLimited r n p).wrote = s.wrote := by
  simp [State.railLimited]

@[simp] theorem State.capHealth_wrote (s : State) (p cap : Nat) : (s.capHealth p cap).wrote = s.wrote := by simp [State.capHealth]

@[simp] theorem State.driveTold_wrote (s : State) (r : Run) (n p z : Nat) : (s.driveTold r n p z).wrote = s.wrote := by
  simp [State.driveTold]

@[simp] theorem State.setSlices_wrote (s : State) (v : SMap Slice) : (s.setSlices v).wrote = s.wrote := (rfl)
@[simp] theorem State.setSlice_wrote (s : State) (n : Nat) (x : Slice) : (s.setSlice n x).wrote = s.wrote := (rfl)
@[simp] theorem State.modSlice_wrote (s : State) (n : Nat) (f : Slice → Slice) : (s.modSlice n f).wrote = s.wrote := (rfl)
@[simp] theorem State.stamp_wrote (s : State) (n : Nat) : (s.stamp n).wrote = s.wrote := (rfl)

@[simp] theorem State.driveShown_wrote (s : State) (r : Run) (n p : Nat) (o : SliceObs) :
    (s.driveShown r n p o).wrote = s.wrote := (rfl)

@[simp] theorem State.regulate_wrote (s : State) (r : Run) (n z : Nat) : (s.regulate r n z).wrote = s.wrote := (rfl)

@[simp] theorem State.showDrive_wrote (s : State) (r : Run) (n p : Nat) (o : SliceObs) : (s.showDrive r n p o).wrote = s.wrote := by
  simp [State.showDrive]

@[simp] theorem State.headShown_wrote (s : State) (p : Nat) (o : HeadObs) : (s.headShown p o).wrote = s.wrote := by
  simp [State.headShown]

@[simp] theorem State.showHead_wrote (s : State) (p : Nat) (o : HeadObs) (told : Bool) : (s.showHead p o told).wrote = s.wrote := by
  simp [State.showHead]

@[simp] theorem State.setPorts_wrote (s : State) (v : SMap Port) : (s.setPorts v).wrote = s.wrote := (rfl)
@[simp] theorem State.setPort_wrote (s : State) (p : Nat) (x : Port) : (s.setPort p x).wrote = s.wrote := (rfl)
@[simp] theorem State.modPort_wrote (s : State) (p : Nat) (f : Port → Port) : (s.modPort p f).wrote = s.wrote := (rfl)

@[simp] theorem State.sendFrom_wrote (s : State) (n ramp from_ : Nat) (alt : Bool) (l : List SliceState) :
    (s.sendFrom n ramp from_ alt l).wrote = s.wrote := by
  induction l generalizing s with
  | nil => rfl
  | cons st l ih =>
    unfold State.sendFrom
    dsimp only
    split
    · exact ih _
    · rfl

@[simp] theorem State.arrive_wrote (s : State) (n ramp : Nat) (alt : Bool) : (s.arrive n ramp alt).wrote = s.wrote := by
  unfold State.arrive
  split <;> simp

@[simp] theorem State.darkSlice_wrote (s : State) (n : Nat) : (s.darkSlice n).wrote = s.wrote := by simp [State.darkSlice]
@[simp] theorem State.setRuns_wrote (s : State) (v : List Run) : (s.setRuns v).wrote = s.wrote := (rfl)
@[simp] theorem State.putRun_wrote (s : State) (r : Run) : (s.putRun r).wrote = s.wrote := (rfl)

@[simp] theorem State.modRun_wrote (s : State) (p : Nat) (f : Run → Run) : (s.modRun p f).wrote = s.wrote := by
  unfold State.modRun
  split <;> simp

@[simp] theorem State.setRecords_wrote (s : State) (v : List SaveRecord) : (s.setRecords v).wrote = s.wrote := (rfl)

@[simp] theorem State.event_wrote (s : State) (fifo pitch port : Nat) (st : Status) (reason detail : Nat) (data : List Word) :
    (s.event fifo pitch port st reason detail data).wrote = s.wrote := by
  simp [State.event]

@[simp] theorem State.commitDone_wrote (s : State) (n : Nat) (ws : List Word) : (s.commitDone n ws).wrote = s.wrote := by
  unfold State.commitDone
  dsimp only
  repeat' split
  all_goals simp

/-! ### The work of a stake -/

@[simp] theorem State.setTrl_wrote (s : State) (v : Trl) : (s.setTrl v).wrote = s.wrote := (rfl)
@[simp] theorem State.tracePush_wrote (s : State) (t : TraceRec) : (s.tracePush t).wrote = s.wrote := by simp [State.tracePush]
@[simp] theorem State.traceLost_wrote (s : State) : s.traceLost.wrote = s.wrote := by simp [State.traceLost]

@[simp] theorem State.trace_wrote (s : State) (type src detail : Nat) : (s.trace type src detail).wrote = s.wrote := by
  simp [State.trace]

@[simp] theorem State.requestDone_wrote (s : State) (q port : Nat) (st : Status) (type exch : Nat) (hdr0 hdr1 : Word) (ue : Bool)
    (replyBits d : Nat) (body : List Word) :
    (s.requestDone q port st type exch hdr0 hdr1 ue replyBits d body).wrote = s.wrote := by
  unfold State.requestDone
  split <;> simp

@[simp] theorem State.finishRequest_wrote (s : State) (r : Run) (q : Request) (a : Action) :
    (s.finishRequest r q a).wrote = s.wrote := by
  simp [State.finishRequest]

@[simp] theorem State.tagReport_wrote (s : State) (r : Run) (i : TagInfo) : (s.tagReport r i).wrote = s.wrote := by
  simp [State.tagReport]

@[simp] theorem State.actionReport_wrote (s : State) (r : Run) (a : Action) : (s.actionReport r a).wrote = s.wrote := by
  simp [State.actionReport]

@[simp] theorem State.endWork_wrote (s : State) (r : Run) (st : Status) (cut : Bool) : (s.endWork r st cut).wrote = s.wrote := by
  unfold State.endWork
  dsimp only
  repeat' split
  all_goals simp

@[simp] theorem State.traceExch_wrote (s : State) (r : Run) (c : Option Cmd) (cls : XClass) (st : Status) :
    (s.traceExch r c cls st).wrote = s.wrote := by
  simp [State.traceExch]

@[simp] theorem State.setSec_wrote (s : State) (v : Sec) : (s.setSec v).wrote = s.wrote := (rfl)
@[simp] theorem State.setBudget_wrote (s : State) (l : List BudgetEntry) : (s.setBudget l).wrote = s.wrote := (rfl)
@[simp] theorem State.budgetClear_wrote (s : State) (q : Nat) (id : BitVec 128) : (s.budgetClear q id).wrote = s.wrote := (rfl)

@[simp] theorem State.budgetFail_wrote (s : State) (q : Nat) (id : BitVec 128) : (s.budgetFail q id).wrote = s.wrote := by
  unfold State.budgetFail
  repeat' split
  all_goals simp

@[simp] theorem State.budgetNote_wrote (s : State) (q : Nat) (id : BitVec 128) (o : Option Bool) :
    (s.budgetNote q id o).wrote = s.wrote := by
  unfold State.budgetNote
  split <;> simp

@[simp] theorem State.takeDrive_wrote (s : State) (r : Run) (n : Nat) (slew : Bool) :
    (s.takeDrive r n slew).wrote = s.wrote := (rfl)

@[simp] theorem State.driveNone_wrote (s : State) (n : Nat) : (s.driveNone n).wrote = s.wrote := (rfl)
@[simp] theorem State.sliceTo_wrote (s : State) (n : Nat) (st : SliceState) : (s.sliceTo n st).wrote = s.wrote := (rfl)

@[simp] theorem State.nextSetting_wrote (s : State) (r : Run) (n : Nat) : (s.nextSetting r n).wrote = s.wrote := by
  simp [State.nextSetting]

@[simp] theorem State.driveSetting_wrote (s : State) (r : Run) : (s.driveSetting r).wrote = s.wrote := by simp [State.driveSetting]
@[simp] theorem State.setDecoders_wrote (s : State) (v : SMap Decoder) : (s.setDecoders v).wrote = s.wrote := (rfl)
@[simp] theorem State.freeDecoder_wrote (s : State) (r : Run) : (s.freeDecoder r).wrote = s.wrote := by simp [State.freeDecoder]

@[simp] theorem State.cutExch_wrote (s : State) (r : Run) (st : Status) : (s.cutExch r st).wrote = s.wrote := by
  unfold State.cutExch
  dsimp only
  split <;> simp

@[simp] theorem State.headReturn_wrote (s : State) (r : Run) (p : Nat) : (s.headReturn r p).wrote = s.wrote := by
  simp [State.headReturn]

@[simp] theorem State.sjcShown_wrote (s : State) (n p : Nat) (o : SliceObs) : (s.sjcShown n p o).wrote = s.wrote := (rfl)
@[simp] theorem State.txShown_wrote (s : State) (r : Run) (n p : Nat) (o : SliceObs) : (s.txShown r n p o).wrote = s.wrote := (rfl)

@[simp] theorem State.showTx_wrote (s : State) (r : Run) (n p : Nat) (o : SliceObs) : (s.showTx r n p o).wrote = s.wrote := by
  simp [State.showTx]

/-! ### The inhibit and the Awning -/

@[simp] theorem State.stopRadio_wrote (s : State) (r : Run) (st : Status) : (s.stopRadio r st).wrote = s.wrote := by
  simp [State.stopRadio]

@[simp] theorem State.uhfInhibit_wrote (s : State) (n : Nat) : (s.uhfInhibit n).wrote = s.wrote := by simp [State.uhfInhibit]
@[simp] theorem State.pinsSafe_wrote (s : State) (p : Nat) : (s.pinsSafe p).wrote = s.wrote := (rfl)

@[simp] theorem State.awnEvent_wrote (s : State) (i reason detail : Nat) (data : List Word) :
    (s.awnEvent i reason detail data).wrote = s.wrote := by
  simp [State.awnEvent]

@[simp] theorem State.imageEcc_wrote (s : State) (i : Nat) : (s.imageEcc i).wrote = s.wrote := by simp [State.imageEcc]
@[simp] theorem State.eccAt_wrote (s : State) (a : Nat) : (s.eccAt a).wrote = s.wrote := (rfl)
@[simp] theorem State.recordUe_wrote (s : State) (a : Nat) : (s.recordUe a).wrote = s.wrote := (rfl)
@[simp] theorem State.recordCe_wrote (s : State) (a : Nat) : (s.recordCe a).wrote = s.wrote := (rfl)
@[simp] theorem State.correct_wrote (s : State) (a : Nat) : (s.correct a).wrote = s.wrote := by simp [State.correct]

@[simp] theorem State.liveLoad_wrote (s : State) (i w : Nat) : (s.liveLoad i w).1.wrote = s.wrote := by
  unfold State.liveLoad
  dsimp only
  split <;> simp

@[simp] theorem State.bumpGen_wrote (s : State) (i : Nat) : (s.bumpGen i).wrote = s.wrote := by simp [State.bumpGen]

@[simp] theorem State.storeBytes_wrote (s : State) (a : Nat) (l : List Byte) : (s.storeBytes a l).wrote = s.wrote := by
  simp [State.storeBytes]

@[simp] theorem State.storeRun_wrote (s : State) (a n : Nat) (l : List Byte) : (s.storeRun a n l).wrote = s.wrote := by
  induction n generalizing s a l with
  | zero => rfl
  | succ n ih =>
    cases l with
    | nil => rfl
    | cons b l => exact (ih _ _ _).trans (State.storeBytes_wrote _ _ _)

@[simp] theorem State.applyLog_wrote (s : State) (i : Nat) (l : List (Nat × List Byte)) : (s.applyLog i l).wrote = s.wrote := by
  simp [State.applyLog]

@[simp] theorem State.setAwning_wrote (s : State) (v : SMap Awning) : (s.setAwning v).wrote = s.wrote := (rfl)
@[simp] theorem State.setAwn_wrote (s : State) (i : Nat) (x : Awning) : (s.setAwn i x).wrote = s.wrote := (rfl)
@[simp] theorem State.modAwn_wrote (s : State) (i : Nat) (f : Awning → Awning) : (s.modAwn i f).wrote = s.wrote := (rfl)

@[simp] theorem State.fieldApply_wrote (s : State) (i : Nat) : (s.fieldApply i).wrote = s.wrote := by
  unfold State.fieldApply
  split <;> simp

@[simp] theorem State.sessionEnd_wrote (s : State) (i : Nat) (st : PiccState) : (s.sessionEnd i st).wrote = s.wrote := by
  simp [State.sessionEnd]

@[simp] theorem State.awnPowerOff_wrote (s : State) (i : Nat) : (s.awnPowerOff i).wrote = s.wrote := by simp [State.awnPowerOff]
@[simp] theorem State.awnInhibit_wrote (s : State) : s.awnInhibit.wrote = s.wrote := by simp [State.awnInhibit]
@[simp] theorem State.restSlice_wrote (s : State) (n ramp : Nat) : (s.restSlice n ramp).wrote = s.wrote := by simp [State.restSlice]

@[simp] theorem State.hfInhibit_wrote (s : State) (n : Nat) : (s.hfInhibit n).wrote = s.wrote := by
  unfold State.hfInhibit
  dsimp only
  split <;> simp

/-! ### The tail, and a medium that is withdrawn -/

@[simp] theorem State.sjcSave_wrote (s : State) (p : Nat) : (s.sjcSave p).wrote = s.wrote := by simp [State.sjcSave]
@[simp] theorem State.sjcDown_wrote (s : State) (n p : Nat) : (s.sjcDown n p).wrote = s.wrote := by simp [State.sjcDown]

@[simp] theorem State.lowerField_wrote (s : State) (r : Run) (ramp : Nat) : (s.lowerField r ramp).wrote = s.wrote := by
  simp [State.lowerField]

@[simp] theorem State.saveWalk_wrote (s : State) (r : Run) : (s.saveWalk r).wrote = s.wrote := by simp [State.saveWalk]

@[simp] theorem State.beginTail_wrote (s : State) (r : Run) : (s.beginTail r).wrote = s.wrote := by
  unfold State.beginTail
  dsimp only
  split <;> simp

@[simp] theorem State.setCab_wrote (s : State) (v : Cab) : (s.setCab v).wrote = s.wrote := (rfl)
@[simp] theorem State.countDenied_wrote (s : State) : s.countDenied.wrote = s.wrote := (rfl)

@[simp] theorem State.inertReport_wrote (s : State) (r : Run) (st : Status) : (s.inertReport r st).wrote = s.wrote := by
  simp [State.inertReport]

@[simp] theorem State.mediumLost_wrote (s : State) (r : Run) (finish : Nat) : (s.mediumLost r finish).wrote = s.wrote := by
  simp [State.mediumLost]

@[simp] theorem State.takeMedium_wrote (s : State) (l : List Run) : (s.takeMedium l).wrote = s.wrote :=
  State.each_wrote (fun u r => by split <;> simp) _ _

@[simp] theorem State.showLatches_wrote (s : State) : s.showLatches.wrote = s.wrote := (rfl)
@[simp] theorem State.clearLatch_wrote (s : State) (t p : Nat) : (s.clearLatch t p).wrote = s.wrote := (rfl)

@[simp] theorem State.startInert_wrote (s : State) (r : Run) (st : Status) : (s.startInert r st).wrote = s.wrote := by
  unfold State.startInert
  dsimp only
  repeat' split
  all_goals simp

@[simp] theorem State.showChan_wrote (s : State) (n p : Nat) : (s.showChan n p).wrote = s.wrote := (rfl)

end Sys2Proof.Machine
end

section
/-! SUPPORT. The wires of CXP outside of mode 2 (Machine/Medium.lean; R211, R212), and what a measurement of a head leaves of slices and
stakes (Machine/Heads.lean). -/

namespace Sys2Proof.Machine

/-! ### The mode of CXP -/

theorem State.cxpMode_of {s t : State} (hwrote : t.wrote = s.wrote) (hreg : t.reg R.cxpCfg = s.reg R.cxpCfg) :
    t.cxpMode = s.cxpMode := by
  unfold State.wrote at hwrote
  unfold State.cxpMode State.cfg State.cfgReg
  rw [hwrote, hreg]

theorem Keeps.cxpMode_eq {w : Nat} {s t : State} (h : Keeps w s t) (hwrote : t.wrote = s.wrote)
    (h1 : w.testBit 63 = false := by rfl) (h2 : w.testBit 58 = false := by rfl) : t.cxpMode = s.cxpMode :=
  State.cxpMode_of hwrote (h.reg_eq regWindow_cxpCfg h1 h2)

/-- Outside of mode 2 the wires are all that driving them changes. -/
theorem State.driveCxp_apart {s : State} (h : s.cxpMode ≠ 2) : Keeps 0x400000000800000 s s.driveCxp := by
  unfold State.driveCxp
  rw [if_neg h]
  repeat' with_reducible apply Keeps.ite
  · exact State.showWires_step rfl rfl (Keeps.refl _ s)
  · exact State.showWires_step rfl rfl (State.setCxp_step _ rfl rfl (Keeps.refl _ s))
  · exact State.showWires_step rfl rfl (State.setCxp_step _ rfl rfl (Keeps.refl _ s))

/-! ### What a measurement leaves -/

/-- What the measurement of a head leaves: where a slice stands, the slices that serve the ports, the stakes, the tick and the mode
of CXP. -/
structure Measured (n : Nat) (s t : State) : Prop where
  st : (t.slice n).st = (s.slice n).st
  path : (t.slice n).path = (s.slice n).path
  covered : ∀ p, (t.port p).covered = (s.port p).covered
  runs : t.runs = s.runs
  now : t.now = s.now
  mode : t.cxpMode = s.cxpMode

section
variable {n : Nat} {s t u : State}

theorem Measured.refl (n : Nat) (s : State) : Measured n s s := ⟨rfl, rfl, fun _ => rfl, rfl, rfl, rfl⟩

theorem Measured.trans (h : Measured n s t) (g : Measured n t u) : Measured n s u :=
  ⟨g.st.trans h.st, g.path.trans h.path, fun p => (g.covered p).trans (h.covered p), g.runs.trans h.runs, g.now.trans h.now,
    g.mode.trans h.mode⟩

theorem Measured.ite {c : Prop} [Decidable c] (h : Measured n s t) (g : Measured n s u) : Measured n s (if c then t else u) := by
  split <;> assumption

theorem Measured.each {α : Type} {f : State → α → State} (h : ∀ u x, Measured n u (f u x)) (l : List α) : Measured n s (s.each l f) :=
  List.foldlRecOn (motive := fun u : State => Measured n s u) l f (.refl n s) fun u hu x _ => hu.trans (h u x)

theorem Measured.of_keeps {w : Nat} (h : Keeps w s t) (hwrote : t.wrote = s.wrote) (h1 : w.testBit 63 = false := by rfl)
    (hslices : w.testBit 9 = false := by rfl) (hports : w.testBit 8 = false := by rfl) (hruns : w.testBit 7 = false := by rfl)
    (hclock : w.testBit 0 = false := by rfl) (hcxp : w.testBit 58 = false := by rfl) : Measured n s t :=
  ⟨by rw [h.slice_eq n h1 hslices], by rw [h.slice_eq n h1 hslices], fun p => by rw [h.port_eq p h1 hports], h.runs_eq h1 hruns,
    h.now_eq h1 hclock, h.cxpMode_eq hwrote h1 hcxp⟩

theorem Measured.modSlice (m : Nat) {f : Slice → Slice} (hf : ∀ x, (f x).st = x.st ∧ (f x).path = x.path) :
    Measured n s (s.modSlice m f) := by
  refine ⟨?_, ?_, fun _ => rfl, rfl, rfl, rfl⟩ <;> rw [State.modSlice_slice] <;> split
  · exact (hf _).1
  · rfl
  · exact (hf _).2
  · rfl

theorem Measured.modPort (q : Nat) {f : Port → Port} (hf : ∀ x, (f x).covered = x.covered) : Measured n s (s.modPort q f) := by
  refine ⟨rfl, rfl, fun p => ?_, rfl, rfl, rfl⟩
  rw [State.modPort_port]
  split
  · exact hf _
  · rfl

theorem Measured.server (h : Measured n s t) (p : Nat) : t.server p = s.server p := by
  unfold State.server
  rw [h.covered]

end

theorem Measured.stamp (n : Nat) (s : State) (m : Nat) : Measured n s (s.stamp m) := .modSlice m fun _ => ⟨rfl, rfl⟩

theorem Measured.showDrive (n : Nat) (s : State) (r : Run) (m p : Nat) (o : SliceObs) : Measured n s (s.showDrive r m p o) := by
  have hregulate : Measured n s (s.regulate r m o.head.mag) := by
    unfold State.regulate
    exact .modSlice m fun _ => ⟨rfl, rfl⟩
  have hshown (u : State) : Measured n u (u.driveShown r m p o) :=
    (Measured.of_keeps (w := 0x10000000000)
      (Keeps.setReg (regWindow_hfaDriveStatus m) rfl rfl (Keeps.refl _ u)) (by simp)).trans (.stamp n _ m)
  have htold (u : State) : Measured n u (u.driveTold r m p o.head.mag) :=
    .of_keeps (w := 0x203006004005C) (State.driveTold_step _ _ _ _ rfl rfl (Keeps.refl _ u)) (by simp)
  exact (hregulate.trans (hshown _)).trans (htold _)

theorem Measured.showHead (n : Nat) (s : State) (p : Nat) (o : HeadObs) (told : Bool) : Measured n s (s.showHead p o told) := by
  have hbit (u : State) (f : Fld) (b : Bool) : Measured n u (u.setBit (headReg p) f b) :=
    .of_keeps (w := 0x90000000000) (Keeps.setHeadBit rfl rfl rfl (Keeps.refl _ u)) (by simp)
  have hreg (u : State) (w : Word) : Measured n u (u.setReg (headReg p) w) :=
    .of_keeps (w := 0x90000000000) (Keeps.setHead rfl rfl rfl (Keeps.refl _ u)) (by simp)
  have hshown : Measured n s (s.headShown p o) :=
    .ite ((hreg s _).trans (.stamp n _ _)) (((hreg s _).trans (.stamp n _ _)).trans (hbit _ _ _))
  exact .ite (hshown.trans (.of_keeps (w := 0x202006004001C) (State.health_step _ _ _ _ _ rfl rfl (Keeps.refl _ _)) (by simp))) hshown

theorem Measured.headReturn (n : Nat) (s : State) (r : Run) (p : Nat) : Measured n s (s.headReturn r p) := by
  have hevent (u : State) : Measured n u (u.event (blkFifo r.block) r.pitch p .ok 0x0003 0 []) :=
    .of_keeps (w := 0x202006004001C) (State.event_step _ _ _ _ _ _ _ rfl rfl (Keeps.refl _ u)) (by simp)
  have hseeds (u : State) (b : Nat) : Measured n u (u.setBit (R.uhaSjcSeed (uhfIdx p) b) F.uhaSjcSeed.valid false) :=
    .of_keeps (w := 0x80000000000) (Keeps.setBit (regWindow_uhaSjcSeed _ b) rfl rfl (Keeps.refl _ u)) (by simp)
  have hcoefs (u : State) (q : Nat) : Measured n u (u.modPort q fun x => { x with reloadCoef := true }) := .modPort q fun _ => rfl
  have hdecided : Measured n s (s.modPort p fun x => { x with deciding := false }) := .modPort p fun _ => rfl
  unfold State.headReturn
  exact (hdecided.trans (.ite (.each hcoefs _) (.each hseeds _))).trans (hevent _)

theorem Measured.showTx (n : Nat) (s : State) (r : Run) (m p : Nat) (o : SliceObs) : Measured n s (s.showTx r m p o) := by
  have htx : Measured n s (s.txShown r m p o) :=
    (Measured.of_keeps (w := 0x80000000000) (Keeps.setFld (regWindow_uhaTxStatus _) rfl rfl (Keeps.refl _ s)) (by simp)).trans
      (.stamp n _ m)
  have hfld (u : State) (f : Fld) (v : Nat) : Measured n u (u.setFld (R.uhaSjcStatus (uhfIdx m)) f v) :=
    .of_keeps (w := 0x80000000000) (Keeps.setFld (regWindow_uhaSjcStatus _) rfl rfl (Keeps.refl _ u)) (by simp)
  have hbit (u : State) (b : Bool) : Measured n u (u.setBit (R.uhaSjcStatus (uhfIdx m)) F.uhaSjcStatus.sjcLow b) :=
    .of_keeps (w := 0x80000000000) (Keeps.setBit (regWindow_uhaSjcStatus _) rfl rfl (Keeps.refl _ u)) (by simp)
  have hsjc (u : State) : Measured n u (u.sjcShown m p o) :=
    ((hfld u _ _).trans (hfld _ _ _)).trans
      (.modPort p (f := fun x => { x with sjcW := o.sjcW, sjcConverged := o.sjcConverged }) fun _ => rfl)
  have hcap (u : State) (cap : Nat) : Measured n u (u.capHealth p cap) :=
    .of_keeps (w := 0x202006004005C) (State.capHealth_step _ _ rfl rfl (Keeps.refl _ u)) (by simp)
  have hshown := (htx.trans (hsjc _)).trans
    (.modPort p (f := fun x => { x with sjcLate := if o.sjcConverged then none else some s.now }) fun _ => rfl)
  unfold State.showTx
  exact .ite ((Measured.ite hshown (hshown.trans (hbit _ _))).trans (hcap _ _)) (.ite hshown (hshown.trans (hbit _ _)))

/-- A head that is there is shown, and the stake runs on. -/
theorem State.rampHead_there {s : State} {r : Run} {p : Nat} {o : HeadObs} (h : headGone (headClass p o) = false) :
    ∃ u, (∀ n, Measured n s u) ∧
      s.rampHead r p o = u.modRun p fun x => { x with detuned := r.stake.ports.any u.headDetuned } := by
  unfold State.rampHead
  dsimp only
  rw [h]
  refine ⟨_, fun n => ?_, rfl⟩
  exact .ite ((Measured.showHead n s p o true).trans (.headReturn n _ r p)) (.showHead n s p o true)

/-- The front of a stake of one port is over when its slice is up (R44). -/
theorem State.frontDone_up {s : State} {p n : Nat} {r : Run} (hr : s.runAt p = some r) (hphase : r.phase = .front)
    (hports : r.stake.ports = [p]) (hmissing : r.missing = []) (hserver : s.server p = n) (hready : (s.slice n).st.ready = true)
    (hpath : (s.slice n).path = []) : s.frontDone p = s.putRun { r with phase := .active, readyAt := s.now + r.guardTime } := by
  have hslices : s.slicesOf r = [n] := by simp [State.slicesOf, hports, hmissing, hserver]
  have hup : s.fieldUp r = true := by simp [State.fieldUp, hslices, Slice.settled, hpath, hready]
  unfold State.frontDone
  rw [hr]
  exact if_pos ⟨hphase, hup⟩

/-- The slice of a stake in its front is up, and its head is there: the stake is active after the guard time (R44). -/
theorem State.rampHead_front {s : State} {p n : Nat} {r : Run} {o : HeadObs} (hr : s.runAt p = some r) (hphase : r.phase = .front)
    (hports : r.stake.ports = [p]) (hmissing : r.missing = []) (hserver : s.server p = n) (hready : (s.slice n).st.ready = true)
    (hpath : (s.slice n).path = []) (hhead : headGone (headClass p o) = false) :
    let t := (s.rampHead r p o).frontDone p
    ∃ r', t.runAt p = some r' ∧ r'.phase = .active ∧ r'.readyAt = s.now + r.guardTime ∧ (t.slice n).st = (s.slice n).st ∧
      (t.slice n).path = [] ∧ t.cxpMode = s.cxpMode := by
  obtain ⟨u, hu, hramp⟩ := State.rampHead_there (s := s) (r := r) hhead
  have hat : u.runAt p = some r := (congrArg (List.find? _) (hu n).runs).trans hr
  intro t
  let r1 : Run := { r with detuned := r.stake.ports.any u.headDetuned }
  have hput : Put r.stake (· = r1) u (u.modRun p fun x => { x with detuned := r.stake.ports.any u.headDetuned }) :=
    State.modRun_put hat rfl rfl rfl
  obtain ⟨_, hat1, -, rfl⟩ := hput.runAt hat rfl
  have hsame := State.modRun_step (msk := 0x80) p (fun x => { x with detuned := r.stake.ports.any u.headDetuned }) rfl rfl
    (Keeps.refl _ u)
  have hdone : t = (u.modRun p fun x => { x with detuned := r.stake.ports.any u.headDetuned }).putRun
      { r1 with phase := .active, readyAt := s.now + r.guardTime } := by
    refine (congrArg (State.frontDone · p) hramp).trans ((State.frontDone_up (n := n) hat1 hphase hports hmissing ?_ ?_ ?_).trans ?_)
    · exact (hsame.server_eq p).trans (((hu n).server p).trans hserver)
    · rw [hsame.slice_eq, (hu n).st]; exact hready
    · rw [hsame.slice_eq, (hu n).path]; exact hpath
    · rw [hsame.now_eq, (hu n).now]; rfl
  have hwork : Put r.stake (fun x => x.phase = .active ∧ x.readyAt = s.now + r.guardTime) u t :=
    hdone ▸ hput.put _ rfl ⟨rfl, rfl⟩
  obtain ⟨r', hr', -, hactive, htime⟩ := hwork.runAt hat rfl
  have hslice : t.slice n = u.slice n := by rw [hdone]; exact hsame.slice_eq n
  refine ⟨r', hr', hactive, htime, ?_, ?_, ?_⟩
  · rw [hslice, (hu n).st]
  · rw [hslice, (hu n).path, hpath]
  · rw [hdone]
    exact (hsame.cxpMode_eq (by simp)).trans (hu n).mode

end Sys2Proof.Machine
end

section
/-! SUPPORT. A due transition of a slice (Machine/HfField.lean, Machine/UhfRadio.lean; R44, R72, R189, R200, R207). -/

namespace Sys2Proof.Machine

theorem State.server_of_portOf {s : State} {n p : Nat} (h : s.portOf n = some p) : s.server p = n := by
  unfold State.portOf at h
  repeat' split at h
  all_goals first | (cases h; assumption) | cases h

theorem State.runAt_of_runOf {s : State} {n p : Nat} {r : Run} (hp : s.portOf n = some p) (h : s.runOf n = some r) :
    s.runAt p = some r := by
  unfold State.runOf at h
  rwa [hp] at h

theorem State.sliceDue_path {s : State} {n : Nat} {st : SliceState} {l : List SliceState} (hpath : (s.slice n).path = st :: l)
    (hdue : (s.slice n).due ≤ s.now) : s.sliceDue n = true := by
  simp [State.sliceDue, hpath, hdue]

/-- What follows a transition of an HF slice outside of mode 2 of CXP. -/
theorem State.driveRest_driveCxp {s : State} (n : Nat) (h : s.cxpMode ≠ 2) :
    Keeps 0x400010000800000 s (s.driveRest n).driveCxp := by
  have hrest : Keeps 0x10000000000 s (s.driveRest n) := State.driveRest_step n rfl rfl (Keeps.refl _ s)
  have hmode : (s.driveRest n).cxpMode ≠ 2 := by rwa [hrest.cxpMode_eq (by simp [State.driveRest])]
  exact (State.driveCxp_apart hmode).step rfl rfl (hrest.mono rfl)

@[simp] theorem State.setPins_wrote (s : State) (p : Nat) (v mask : BitVec 3) : (s.setPins p v mask).wrote = s.wrote := (rfl)

@[simp] theorem State.chanBack_wrote (s : State) (old : SliceState) (n p : Nat) : (s.chanBack old n p).wrote = s.wrote := by
  simp [State.chanBack]

/-! ### A slice at rest -/

theorem State.hfDone_rest {s : State} {n : Nat} (o : SliceObs) {st : SliceState} (hpath : (s.slice n).path = [st])
    (hdue : (s.slice n).due ≤ s.now) (hrun : s.runOf n = none) (hmode : s.cxpMode ≠ 2) :
    ((s.hfDone n o).slice n).st = st ∧ ((s.hfDone n o).slice n).path = [] := by
  have hnext : s.hfDone n o = ((s.arrive n 0 false).driveRest n).driveCxp := by
    unfold State.hfDone
    rw [State.sliceDue_path hpath hdue, hrun]
    cases s.portOf n <;> rfl
  have harrive := State.arrive_step (msk := 0x200) n 0 false rfl rfl (Keeps.refl _ s)
  have hslice := (State.driveRest_driveCxp n (by rwa [harrive.cxpMode_eq (by simp)])).slice_eq n
  rw [hnext, hslice, State.arrive_last _ _ _ _ st hpath]
  exact ⟨rfl, rfl⟩

theorem State.uhfDone_rest {s : State} {n : Nat} (o : SliceObs) {st : SliceState} (hpath : (s.slice n).path = [st])
    (hdue : (s.slice n).due ≤ s.now) (hheld : s.uhfHeld n = false) (hrun : s.runOf n = none) (hmode : s.cxpMode ≠ 2) :
    ((s.uhfDone n o).slice n).st = st ∧ ((s.uhfDone n o).slice n).path = [] := by
  have harrive := State.arrive_step (msk := 0x200) n 0 false rfl rfl (Keeps.refl _ s)
  have hlast : ((s.arrive n 0 false).slice n).st = st ∧ ((s.arrive n 0 false).slice n).path = [] := by
    rw [State.arrive_last _ _ _ _ st hpath]
    exact ⟨rfl, rfl⟩
  unfold State.uhfDone
  rw [State.sliceDue_path hpath hdue, hheld, hrun]
  cases hport : s.portOf n with
  | none => exact hlast
  | some p =>
    let s1 := (s.arrive n 0 false).chanBack (s.slice n).st n p
    have hback : Keeps 0x80000000000 (s.arrive n 0 false) s1 := State.chanBack_step _ _ _ rfl rfl (Keeps.refl _ _)
    let s2 := if (s1.slice n).st = .standby ∨ (s1.slice n).st = .off then s1.pinsSafe p
      else if (s1.slice n).st = .synth then s1.setPins p (s1.paSafe p) 6 else s1
    have hpins : Keeps 0x80000000100 (s.arrive n 0 false) s2 :=
      Keeps.ite (State.pinsSafe_step p rfl rfl (hback.mono rfl))
        (Keeps.ite (State.setPins_step _ _ _ rfl rfl (hback.mono rfl)) (hback.mono rfl))
    have hwrote : s2.wrote = s.wrote := by simp [s2, s1]
    have hmode2 : s2.cxpMode ≠ 2 := by
      rwa [hpins.cxpMode_eq (hwrote.trans (by simp)), harrive.cxpMode_eq (by simp)]
    have hslice : (s2.driveCxp).slice n = (s.arrive n 0 false).slice n :=
      ((State.driveCxp_apart hmode2).slice_eq n).trans (hpins.slice_eq n)
    show (s2.driveCxp.slice n).st = st ∧ (s2.driveCxp.slice n).path = []
    rw [hslice]
    exact hlast

/-! ### A slice on its way up -/

/-- The state that a slice on its way up takes, and its next transition. -/
structure GoesOn (t : State) (n : Nat) (st : SliceState) (l : List SliceState) (due : Nat) : Prop where
  st : (t.slice n).st = st
  path : (t.slice n).path = l
  due : (t.slice n).due = due

theorem State.arrive_goesOn {s : State} {n ramp : Nat} {alt : Bool} {st st2 : SliceState} {l : List SliceState}
    (hpath : (s.slice n).path = st :: st2 :: l) (hdelay : delayOf st st2 ramp (s.derate n) alt ≠ 0) :
    GoesOn (s.arrive n ramp alt) n st (st2 :: l) (s.now + delayOf st st2 ramp (s.derate n) alt) := by
  have h := State.arrive_next s n ramp alt st st2 l hpath hdelay
  exact ⟨congrArg Slice.st h, congrArg Slice.path h, congrArg Slice.due h⟩

theorem State.hfDone_goesOn {s : State} {n p : Nat} {r : Run} (o : SliceObs) {st st2 : SliceState} {l : List SliceState}
    (hpath : (s.slice n).path = st :: st2 :: l) (hdue : (s.slice n).due ≤ s.now) (hrun : s.runOf n = some r)
    (hport : s.portOf n = some p) (hmode : s.cxpMode ≠ 2) (hst : st = .armed ∨ st = .rampUp ∨ st = .uRampUp)
    (hdelay : delayOf st st2 r.rampTicks (s.derate n) r.alt ≠ 0) :
    GoesOn (s.hfDone n o) n st (st2 :: l) (s.now + delayOf st st2 r.rampTicks (s.derate n) r.alt) := by
  obtain ⟨hst1, hpath1, hdue1⟩ := State.arrive_goesOn (alt := r.alt) hpath hdelay
  have hnext : s.hfDone n o = ((s.arrive n r.rampTicks r.alt).driveRest n).driveCxp := by
    unfold State.hfDone
    simp only [State.sliceDue_path hpath hdue, hrun, hport, Bool.not_true, Bool.false_eq_true, if_false, hst1, hpath1]
    rcases hst with rfl | rfl | rfl <;> simp
  have harrive := State.arrive_step (msk := 0x200) n r.rampTicks r.alt rfl rfl (Keeps.refl _ s)
  have hslice := (State.driveRest_driveCxp n (by rwa [harrive.cxpMode_eq (by simp)])).slice_eq n
  constructor <;> rw [hnext, hslice] <;> assumption

theorem GoesOn.keep {s t : State} {n : Nat} {st : SliceState} {l : List SliceState} {due : Nat} (h : GoesOn s n st l due)
    (hst : (t.slice n).st = (s.slice n).st) (hpath : (t.slice n).path = (s.slice n).path) (hdue : (t.slice n).due = (s.slice n).due) :
    GoesOn t n st l due := ⟨hst.trans h.st, hpath.trans h.path, hdue.trans h.due⟩

theorem GoesOn.of_slice {s t : State} {n : Nat} {st : SliceState} {l : List SliceState} {due : Nat} (h : GoesOn s n st l due)
    (heq : t.slice n = s.slice n) : GoesOn t n st l due := by
  apply h.keep <;> rw [heq]

/-- A slice in its up-ramp has begun its dwell, and the count of R200. -/
theorem State.uhfRamp_goesOn {s : State} {n p : Nat} (r : Run) {st : SliceState} {l : List SliceState} {due : Nat} (at_ : Nat)
    (h : GoesOn s n st l due) :
    let t := (s.startDwell n p at_).sjcLoad r
    GoesOn t n st l due ∧ (t.port p).chanStart = at_ ∧ t.wrote = s.wrote := by
  intro t
  have hdwell : ((s.startDwell n p at_).port p).chanStart = at_ := by
    unfold State.startDwell
    rw [State.modPort_port_self]
  have hload : Keeps 0x100 (s.startDwell n p at_) t := State.sjcLoad_step r rfl rfl (Keeps.refl _ _)
  have hslice : t.slice n = { s.slice n with dwellAt := at_ } := 
    (hload.slice_eq n).trans (s.modSlice_slice_self n fun x => { x with dwellAt := at_ })
  have hport : (t.port p).chanStart = ((s.startDwell n p at_).port p).chanStart := by
    unfold t State.sjcLoad
    dsimp only
    split <;> rw [State.modPort_port] <;> split <;> rfl
  refine ⟨h.keep (by rw [hslice]) (by rw [hslice]) (by rw [hslice]), hport.trans hdwell, ?_⟩
  unfold t State.sjcLoad
  dsimp only
  split <;> rfl

theorem State.uhfDone_goesOn {s : State} {n p : Nat} {r : Run} (o : SliceObs) {st st2 : SliceState} {l : List SliceState}
    (hpath : (s.slice n).path = st :: st2 :: l) (hdue : (s.slice n).due ≤ s.now) (hheld : s.uhfHeld n = false)
    (hrun : s.runOf n = some r) (hport : s.portOf n = some p) (hmode : s.cxpMode ≠ 2)
    (hst : st = .armed ∨ st = .rampUp ∨ st = .uRampUp) (hdelay : delayOf st st2 r.rampTicks (s.derate n) r.alt ≠ 0) :
    GoesOn (s.uhfDone n o) n st (st2 :: l) (s.now + delayOf st st2 r.rampTicks (s.derate n) r.alt) ∧
      (st = .uRampUp → ((s.uhfDone n o).port p).chanStart = s.now) := by
  have harrive := State.arrive_step (msk := 0x200) n r.rampTicks r.alt rfl rfl (Keeps.refl _ s)
  let s1 := (s.arrive n r.rampTicks r.alt).chanBack (s.slice n).st n p
  have hback : Keeps 0x80000000000 (s.arrive n r.rampTicks r.alt) s1 := State.chanBack_step _ _ _ rfl rfl (Keeps.refl _ _)
  have hon : GoesOn s1 n st (st2 :: l) (s.now + delayOf st st2 r.rampTicks (s.derate n) r.alt) :=
    (State.arrive_goesOn hpath hdelay).of_slice (hback.slice_eq n)
  have hmode1 : s1.cxpMode ≠ 2 := by rwa [hback.cxpMode_eq (by simp [s1]), harrive.cxpMode_eq (by simp)]
  have hnext : s.uhfDone n o =
      (if st = .uRampUp then (s1.startDwell n p s.now).sjcLoad r else s1).driveCxp := by
    unfold State.uhfDone
    simp only [State.sliceDue_path hpath hdue, hheld, hrun, hport, Bool.not_true, Bool.false_eq_true, or_self, if_false]
    rw [show ((s.arrive n r.rampTicks r.alt).chanBack (s.slice n).st n p) = s1 from rfl, hon.st]
    rcases hst with rfl | rfl | rfl <;> simp
  by_cases hramp : st = .uRampUp
  · obtain ⟨honRamp, hchan, hwrote⟩ := State.uhfRamp_goesOn (p := p) r s.now hon
    have hmode2 : ((s1.startDwell n p s.now).sjcLoad r).cxpMode ≠ 2 := by
      have hk : Keeps 0x300 s1 ((s1.startDwell n p s.now).sjcLoad r) :=
        State.sjcLoad_step r rfl rfl (State.startDwell_step _ _ _ rfl rfl (Keeps.refl _ _))
      rwa [hk.cxpMode_eq hwrote]
    have hdrive := State.driveCxp_apart hmode2
    rw [hnext, if_pos hramp]
    exact ⟨honRamp.of_slice (hdrive.slice_eq n), fun _ => by rw [hdrive.port_eq p, hchan]⟩
  · rw [hnext, if_neg hramp]
    exact ⟨hon.of_slice ((State.driveCxp_apart hmode1).slice_eq n), fun h => absurd h hramp⟩

/-! ### A field that is up -/

/-- What a stake is when its one slice has come up: active after the guard time. -/
def FieldUp (s t : State) (n p : Nat) (r : Run) (st : SliceState) : Prop :=
  ∃ r', (t.slice n).st = st ∧ (t.slice n).path = [] ∧ t.runAt p = some r' ∧ r'.phase = .active ∧
    r'.readyAt = s.now + r.guardTime

/-- A field that has come up for a stake of its own (R44, R73). -/
theorem State.fieldArrived_up {s : State} {n p : Nat} {r : Run} {o : SliceObs} (hr : s.runAt p = some r) (hphase : r.phase = .front)
    (htemplate : r.template ≠ 0x21) (hports : r.stake.ports = [p]) (hmissing : r.missing = []) (hserver : s.server p = n)
    (hready : (s.slice n).st.ready = true) (hpath : (s.slice n).path = []) (hhead : headGone (headClass p o.head) = false) :
    FieldUp s (s.fieldArrived r n p o) n p r (s.slice n).st ∧ (s.fieldArrived r n p o).cxpMode = s.cxpMode := by
  have hshow := Measured.showDrive n s r n p o
  have hfront := State.rampHead_front (s := s.showDrive r n p o) (n := n) ((congrArg (List.find? _) hshow.runs).trans hr) hphase hports
    hmissing ((hshow.server p).trans hserver) (hshow.st ▸ hready) (hshow.path.trans hpath) hhead
  obtain ⟨r', hat, hactive, htime, hst, hrest, hmode⟩ := hfront
  unfold State.fieldArrived
  dsimp only
  rw [if_neg htemplate]
  exact ⟨⟨r', hst.trans hshow.st, hrest, hat, hactive, by rw [htime, hshow.now]⟩, hmode.trans hshow.mode⟩

/-- A carrier that has come up for a stake of its own (R44, R203). -/
theorem State.carrierArrived_up {s : State} {n p : Nat} {r : Run} {o : SliceObs} (hr : s.runAt p = some r) (hphase : r.phase = .front)
    (htemplate : r.template ≠ 0x21) (hports : r.stake.ports = [p]) (hmissing : r.missing = []) (hserver : s.server p = n)
    (hready : (s.slice n).st.ready = true) (hpath : (s.slice n).path = []) (hhead : headGone (headClass p o.head) = false) :
    FieldUp s (s.carrierArrived r n p o) n p r (s.slice n).st ∧ (s.carrierArrived r n p o).cxpMode = s.cxpMode := by
  have hshow := Measured.showTx n s r n p o
  let r1 : Run := { r with sjcLow := r.sjcLow || !o.sjcConverged }
  have hshowAt : (s.showTx r n p o).runAt p = some r := (congrArg (List.find? _) hshow.runs).trans hr
  obtain ⟨_, hat1, -, rfl⟩ := (Put.of (k := r.stake) (P := (· = r1)) r1 rfl rfl rfl : Put _ _ (s.showTx r n p o) _).runAt hshowAt rfl
  have hfront := State.rampHead_front (s := (s.showTx r n p o).putRun r1) (n := n) hat1 hphase hports
    hmissing ((hshow.server p).trans hserver) (hshow.st ▸ hready) (hshow.path.trans hpath) hhead
  obtain ⟨r', hat, hactive, htime, hst, hrest, hmode⟩ := hfront
  unfold State.carrierArrived
  dsimp only
  rw [if_neg htemplate]
  exact ⟨⟨r', hst.trans hshow.st, hrest, hat, hactive, htime.trans (congrArg (· + _) hshow.now)⟩, hmode.trans hshow.mode⟩

theorem FieldUp.keep {w : Nat} {s s0 t u : State} {n p : Nat} {r : Run} {st : SliceState} (h : FieldUp s0 t n p r st) (hnow : s0.now = s.now)
    (hk : Keeps w t u) (h1 : w.testBit 63 = false := by rfl) (hruns : w.testBit 7 = false := by rfl)
    (hslices : w.testBit 9 = false := by rfl) : FieldUp s u n p r st := by
  obtain ⟨r', hst, hpath, hat, hactive, htime⟩ := h
  refine ⟨r', ?_, ?_, (hk.runAt_eq p h1 hruns).trans hat, hactive, htime.trans (congrArg (· + _) hnow)⟩
  · rw [hk.slice_eq n h1 hslices]; exact hst
  · rw [hk.slice_eq n h1 hslices]; exact hpath

theorem State.hfDone_up {s : State} {n p : Nat} {r : Run} {o : SliceObs} (hpath : (s.slice n).path = [.field])
    (hdue : (s.slice n).due ≤ s.now) (hrun : s.runOf n = some r) (hport : s.portOf n = some p) (hmode : s.cxpMode ≠ 2)
    (hold : (s.slice n).st ≠ .field) (htemplate : r.template ≠ 0x21) (hphase : r.phase = .front) (hports : r.stake.ports = [p])
    (hmissing : r.missing = []) (hhead : headGone (headClass p o.head) = false) : FieldUp s (s.hfDone n o) n p r .field := by
  let s1 := s.arrive n r.rampTicks r.alt
  have harrive : Keeps 0x200 s s1 := State.arrive_step n _ _ rfl rfl (Keeps.refl _ s)
  have hlast := State.arrive_last s n r.rampTicks r.alt .field hpath
  have hst : (s1.slice n).st = .field := congrArg Slice.st hlast
  obtain ⟨hup, hmode1⟩ := State.fieldArrived_up (s := s1) (o := o) ((harrive.runAt_eq p).trans (State.runAt_of_runOf hport hrun)) hphase
    htemplate hports hmissing ((harrive.server_eq p).trans (State.server_of_portOf hport)) (by rw [hst]; rfl) (congrArg Slice.path hlast)
    hhead
  have hnext : s.hfDone n o = ((s1.fieldArrived r n p o).driveRest n).driveCxp := by
    unfold State.hfDone
    simp only [State.sliceDue_path hpath hdue, hrun, hport, Bool.not_true, Bool.false_eq_true, if_false]
    rw [if_pos ⟨hst, hold⟩]
  rw [hnext]
  refine (hst ▸ hup).keep harrive.now_eq (State.driveRest_driveCxp n ?_)
  rwa [hmode1, harrive.cxpMode_eq (by simp [s1])]

theorem State.uhfDone_up {s : State} {n p : Nat} {r : Run} {o : SliceObs} (hpath : (s.slice n).path = [.carrier])
    (hdue : (s.slice n).due ≤ s.now) (hheld : s.uhfHeld n = false) (hrun : s.runOf n = some r) (hport : s.portOf n = some p)
    (hmode : s.cxpMode ≠ 2) (htemplate : r.template ≠ 0x21) (hphase : r.phase = .front) (hports : r.stake.ports = [p])
    (hmissing : r.missing = []) (hhead : headGone (headClass p o.head) = false) : FieldUp s (s.uhfDone n o) n p r .carrier := by
  let s1 := (s.arrive n r.rampTicks r.alt).chanBack (s.slice n).st n p
  have hk : Keeps 0x80000000200 s s1 :=
    State.chanBack_step _ _ _ rfl rfl (State.arrive_step n _ _ rfl rfl (Keeps.refl _ s))
  have hback : Keeps 0x80000000000 (s.arrive n r.rampTicks r.alt) s1 := State.chanBack_step _ _ _ rfl rfl (Keeps.refl _ _)
  have hlast := (hback.slice_eq n).trans (State.arrive_last s n r.rampTicks r.alt .carrier hpath)
  have hst : (s1.slice n).st = .carrier := congrArg Slice.st hlast
  obtain ⟨hup, hmode1⟩ := State.carrierArrived_up (s := s1) (o := o) ((hk.runAt_eq p).trans (State.runAt_of_runOf hport hrun)) hphase
    htemplate hports hmissing ((hk.server_eq p).trans (State.server_of_portOf hport)) (by rw [hst]; rfl) (congrArg Slice.path hlast)
    hhead
  have hnext : s.uhfDone n o = (s1.carrierArrived r n p o).driveCxp := by
    unfold State.uhfDone
    simp only [State.sliceDue_path hpath hdue, hheld, hrun, hport, Bool.not_true, Bool.false_eq_true, or_self, if_false]
    rw [show ((s.arrive n r.rampTicks r.alt).chanBack (s.slice n).st n p) = s1 from rfl, hst]
    rfl
  rw [hnext]
  refine (hst ▸ hup).keep hk.now_eq (State.driveCxp_apart ?_)
  rwa [hmode1, hk.cxpMode_eq (by simp [s1])]

end Sys2Proof.Machine
end

section
/-! SUPPORT. The events of CXP (Machine/Coex.lean; R39, R211 to R214): the wires that they drive, and the waits that end. -/

namespace Sys2Proof.Machine

/-! ### What driving the wires leaves of them -/

theorem State.yieldAll_cxp (s : State) : s.yieldAll.cxp = s.cxp :=
  (State.yieldAll_step (msk := 0x14228B20620467DC) rfl rfl (Keeps.refl _ s)).cxp (.inl rfl) rfl

theorem State.wakeWaiting_cxp (s : State) : s.wakeWaiting.cxp = s.cxp :=
  (State.wakeWaiting_step (msk := 0xC024B00600507DC) rfl rfl (Keeps.refl _ s)).cxp (.inl rfl) rfl

/-- As arbiter the part leaves the wires of the other radio, and gives the grant to a request that nothing holds back (R214). -/
theorem State.driveCxp_arbiter {s : State} (hmode : s.cxpMode = 2) :
    s.driveCxp.cxp.req = s.cxp.req ∧ s.driveCxp.cxp.pri = s.cxp.pri ∧
      (s.bootBalls = none → (s.cxp.req = false → s.driveCxp.cxp.gnt = false) ∧
        (s.cxp.req = true → s.cxp.pri = true → s.driveCxp.cxp.gnt = true)) := by
  have hother : ¬ s.cxpMode = 1 := by rw [hmode]; decide
  unfold State.driveCxp
  rw [if_neg hother, if_pos hmode]
  by_cases hboot : s.bootBalls.isSome = true
  · rw [if_pos hboot]
    exact ⟨rfl, rfl, fun h => by simp [h] at hboot⟩
  rw [if_neg hboot]
  cases hreq : s.cxp.req with
  | false => exact ⟨hreq, rfl, fun _ => ⟨fun _ => rfl, fun h => absurd h Bool.false_ne_true⟩⟩
  | true =>
    cases hgnt : s.cxp.gnt with
    | true => exact ⟨hreq, rfl, fun _ => ⟨fun h => absurd h.symm Bool.false_ne_true, fun _ _ => hgnt⟩⟩
    | false =>
      simp only [Bool.not_true, Bool.false_eq_true, if_false]
      split
      · rw [State.yieldAll_cxp]
        exact ⟨hreq, rfl, fun _ => ⟨fun h => absurd h.symm Bool.false_ne_true, fun _ _ => rfl⟩⟩
      · rename_i hheld
        exact ⟨hreq, rfl, fun _ => ⟨fun h => absurd h.symm Bool.false_ne_true, fun _ hpri => absurd (.inl hpri) hheld⟩⟩

/-- As requester the part asks for the medium while a stake is in its lead interval (R212). -/
theorem State.driveCxp_requester {s : State} (hmode : s.cxpMode = 1) (hboot : s.bootBalls = none) (hlead : s.leads ≠ []) :
    s.driveCxp.cxp.req = true ∧ s.driveCxp.cxp.lead = s.cxp.lead := by
  unfold State.driveCxp
  rw [hboot, if_neg (by simp), if_pos hmode]
  refine ⟨?_, rfl⟩
  show (!s.leads.isEmpty || !s.onAir.isEmpty) = true
  simp [hlead]

/-- The grant is the other radio's outside of mode 2. -/
theorem State.driveCxp_gnt {s : State} (hmode : s.cxpMode ≠ 2) : s.driveCxp.cxp.gnt = s.cxp.gnt := by
  unfold State.driveCxp
  rw [if_neg hmode]
  repeat' split
  all_goals rfl

/-! ### A lead interval begins -/

theorem State.bootBalls_of_up {s : State} (h : s.up = true) : s.bootBalls = none := by
  obtain ⟨hseq, -⟩ := State.up_boot h
  unfold State.bootBalls
  rw [hseq]

/-- A stake whose lead interval begins is the last of those in theirs, and the part asks for the medium. -/
theorem State.leadStart_asks {s : State} {idx : Nat} (hup : s.up = true) (hrun : s.running = true) (hcount : idx < s.planCount s.activeBank)
    (hclass : (s.planStake idx).coexClass ≠ 0) (hnew : idx ∉ s.cxp.lead) (hmode : s.cxpMode = 1)
    (hat : s.leadAt (s.planStake idx) ≤ s.now) (hserved : s.leadServed (s.planStake idx) = true) :
    (s.leadStart idx).cxp.lead = s.cxp.lead ++ [idx] ∧ (s.leadStart idx).cxp.req = true := by
  let s1 := s.setCxp { s.cxp with lead := s.cxp.lead ++ [idx] }
  have hstart : s.leadStart idx = s1.driveCxp.wakeWaiting := by
    have hprotect : s1.protectStart (s.planStake idx) = s1 :=
      if_neg fun h => absurd (hmode.symm.trans h.1) (by decide)
    unfold State.leadStart
    dsimp only
    rw [if_neg (by simp [hup, hrun, Nat.not_le.mpr hcount, hclass, hnew, Nat.not_lt.mpr hat, hserved])]
    exact congrArg (fun u => State.wakeWaiting (State.driveCxp u)) hprotect
  have hleads : s1.leads ≠ [] := by
    refine List.ne_nil_of_mem (a := s.planStake idx) (List.mem_filter.mpr ⟨List.mem_map.mpr ⟨idx, ?_, rfl⟩, ?_⟩)
    · exact List.mem_append_right _ (List.mem_singleton_self idx)
    · exact decide_eq_true (Nat.one_le_iff_ne_zero.mpr hclass)
  obtain ⟨hreq, hlead⟩ := State.driveCxp_requester (s := s1) hmode (State.bootBalls_of_up hup) hleads
  rw [hstart, State.wakeWaiting_cxp]
  exact ⟨hlead, hreq⟩

/-- The lead interval of a stake has begun in this cycle, or reaches back into it from the next one (R212). -/
theorem State.lead_due {s : State} {idx : Nat}
    (h : s.sch.next ≤ idx ∧
        s.fld R.schCycleStart F.schCycleStart.start + (s.planStake idx).start ≤ s.now + (s.planStake idx).lead ∨
      idx < s.sch.next ∧ (s.planStake idx).start < (s.planStake idx).lead ∧ s.swapsNext = false ∧
        s.bit R.schCtrl F.schCtrl.run = true ∧ s.boot.entering = none ∧
        s.cycleEnd + (s.planStake idx).start ≤ s.now + (s.planStake idx).lead) :
    s.leadAt (s.planStake idx) ≤ s.now ∧ s.leadServed (s.planStake idx) = true := by
  have hidx : (s.planStake idx).idx = idx := rfl
  unfold State.leadAt State.leadServed
  rw [hidx]
  rcases h with ⟨hnext, hbegun⟩ | ⟨hnext, hback, hswap, hrun, hentering, hbegun⟩
  · rw [if_pos hnext, decide_eq_true hnext]
    exact ⟨by omega, rfl⟩
  · rw [if_neg (Nat.not_le.mpr hnext), decide_eq_true hback, hswap, hrun, hentering]
    exact ⟨by omega, by simp⟩

/-! ### A stake without radio action -/

/-- A stake that performs no radio action is idle, and gives why. -/
theorem State.startInert_put {s : State} (r : Run) (st : Status) :
    Put r.stake (fun r' => r'.inert = some st ∧ r'.phase = .idle) s (s.startInert r st) := by
  let r1 : Run := { r with inert := some st, lastStatus := st, phase := .idle }
  have hput : Put r.stake (fun r' => r'.inert = some st ∧ r'.phase = .idle) s ((s.lowerField r r.rampTicks).putRun r1) :=
    Put.of r1 (State.runs_of (State.lowerField_step _ _ rfl rfl (Keeps.refl _ s))) rfl ⟨rfl, rfl⟩
  have hcount : ∀ u : State, u.countDenied.runs = u.runs := fun u =>
    State.runs_of (State.countDenied_step rfl rfl (Keeps.refl _ u))
  have hreport : ∀ u : State, (u.inertReport r1 st).runs = u.runs := fun u =>
    State.runs_of (State.inertReport_step _ _ rfl rfl (Keeps.refl _ u))
  have hclear : ∀ u : State, (u.clearLatch (blkTrig r.block) r.port).runs = u.runs := fun _ => rfl
  unfold State.startInert
  dsimp only
  have hdenied := Put.ite (c := st = .coexDenied) (hput.keep (hcount _)) hput
  refine Put.ite ?_ (hdenied.keep (hreport _))
  split
  · exact hdenied
  · exact (Put.ite (c := st = .inhibited) (hdenied.keep (hclear _)) hdenied).keep (hreport _)

theorem State.startInert_cxpMode (s : State) (r : Run) (st : Status) : (s.startInert r st).cxpMode = s.cxpMode := by
  refine State.cxpMode_of (by simp) ?_
  let r1 : Run := { r with inert := some st, lastStatus := st, phase := .idle }
  have hlower : ((s.lowerField r r.rampTicks).putRun r1).reg R.cxpCfg = s.reg R.cxpCfg :=
    (State.putRun_step (msk := 0x80000000280) r1 rfl rfl (State.lowerField_step _ _ rfl rfl (Keeps.refl _ s))).reg_eq regWindow_cxpCfg
  have hcount : ∀ u : State, u.countDenied.reg R.cxpCfg = u.reg R.cxpCfg := fun u => State.setFld_reg_ne _ _ _ (by decide)
  have hreport : ∀ u : State, (u.inertReport r1 st).reg R.cxpCfg = u.reg R.cxpCfg := fun u =>
    (State.inertReport_step (msk := 0x202006004001C) _ _ rfl rfl (Keeps.refl _ u)).reg_eq regWindow_cxpCfg
  have hclear : ∀ u : State, (u.clearLatch (blkTrig r.block) r.port).reg R.cxpCfg = u.reg R.cxpCfg := fun u =>
    (State.clearLatch_step (msk := 0x800000000000040) _ _ rfl rfl (Keeps.refl _ u)).reg_eq regWindow_cxpCfg
  have hdenied : (if st = .coexDenied then ((s.lowerField r r.rampTicks).putRun r1).countDenied
      else (s.lowerField r r.rampTicks).putRun r1).reg R.cxpCfg = s.reg R.cxpCfg := by
    split
    · exact (hcount _).trans hlower
    · exact hlower
  unfold State.startInert
  dsimp only
  split
  · split
    · exact hdenied
    · refine (hreport _).trans ?_
      split
      · exact (hclear _).trans hdenied
      · exact hdenied
  · exact (hreport _).trans hdenied

/-- The wait for the grant is over: the stake gives COEX_DENIED (R39). -/
theorem State.waitExpired_denied {s : State} {p : Nat} {r : Run} (hr : s.runAt p = some r) (hphase : r.phase = .waiting)
    (hover : r.start + r.stake.guard ≤ s.now) (hmode : s.cxpMode ≠ 2) :
    Put r.stake (fun r' => r'.inert = some .coexDenied ∧ r'.phase = .idle) s (s.waitExpired p) := by
  have hnext : s.waitExpired p = (s.startInert r .coexDenied).driveCxp := by
    unfold State.waitExpired
    rw [hr]
    exact if_neg (not_or.mpr ⟨not_not_intro hphase, Nat.not_lt.mpr hover⟩)
  have hmode1 : (s.startInert r .coexDenied).cxpMode ≠ 2 := by rwa [State.startInert_cxpMode]
  rw [hnext]
  exact (State.startInert_put r .coexDenied).keep (State.driveCxp_apart hmode1).runs_eq

/-! ### The medium is withdrawn -/

/-- A stake that loses the medium changes no configuration of CXP. -/
theorem State.mediumLost_cxpCfg (s : State) (r : Run) (finish : Nat) : (s.mediumLost r finish).reg R.cxpCfg = s.reg R.cxpCfg := by
  have htail : ∀ (u : State) (x : Run), (u.beginTail x).reg R.cxpCfg = u.reg R.cxpCfg := fun u x =>
    (State.beginTail_step (msk := 0x10228B20620467DC) x rfl rfl (Keeps.refl _ u)).reg_eq regWindow_cxpCfg
  have hcount : ∀ u : State, u.countDenied.reg R.cxpCfg = u.reg R.cxpCfg := fun u => State.setFld_reg_ne _ _ _ (by decide)
  have hreport : ∀ (u : State) (x : Run) (st : Status), (u.inertReport x st).reg R.cxpCfg = u.reg R.cxpCfg := fun u x st =>
    (State.inertReport_step (msk := 0x202006004001C) x st rfl rfl (Keeps.refl _ u)).reg_eq regWindow_cxpCfg
  have hlower : ((s.each r.stake.ports fun s p => s.modPort p fun x => { x with hold := none }).lowerField r r.rampTicks).reg R.cxpCfg =
      s.reg R.cxpCfg :=
    (State.lowerField_step (msk := 0x80000000300) _ _ rfl rfl
      (Keeps.each rfl (Keeps.refl _ s) fun u p => State.modPort_step p _ rfl rfl (Keeps.refl _ u))).reg_eq regWindow_cxpCfg
  unfold State.mediumLost
  split
  · split
    · exact hlower
    · rfl
  · split
    · rfl
    · dsimp only
      split
      · rfl
      · split
        · exact htail _ _
        · refine (htail _ _).trans ?_
          split
          · exact hcount _
          · exact (hreport _ _ _).trans (hcount _)

theorem State.takeMedium_cxpMode (s : State) (l : List Run) : (s.takeMedium l).cxpMode = s.cxpMode := by
  refine State.cxpMode_of (by simp) ?_
  refine List.foldlRecOn (motive := fun u : State => u.reg R.cxpCfg = s.reg R.cxpCfg) l _ rfl fun u hu r _ => ?_
  split
  · exact hu
  · exact (State.mediumLost_cxpCfg _ _ _).trans hu

/-- The grant falls, whatever the stakes lose with it (R213). -/
theorem State.gntFall_gnt {s : State} (hmode : s.cxpMode = 1) : s.gntFall.cxp.gnt = false := by
  let s1 := (s.setCxp { s.cxp with gnt := false }).showWires
  let l := s1.runs.filter fun r => decide (1 ≤ r.stake.coexClass) && decide (r.phase ≠ .waiting) && decide (r.cxpMode = 1)
  have hshown : s1.reg R.cxpCfg = s.reg R.cxpCfg := State.setFld_reg_ne _ _ _ (by decide)
  have hmode1 : (s1.takeMedium l).cxpMode ≠ 2 := by
    rw [State.takeMedium_cxpMode, State.cxpMode_of (s := s) (t := s1) rfl hshown, hmode]
    decide
  have hnext : s.gntFall = (s1.takeMedium l).driveCxp := if_neg (not_not_intro hmode)
  have hcxp : (s1.takeMedium l).cxp = s1.cxp :=
    (State.takeMedium_step (msk := 0x14228B20620467DC) l rfl rfl (Keeps.refl _ s1)).cxp (.inl rfl) rfl
  rw [hnext, State.driveCxp_gnt hmode1, hcxp]
  rfl

end Sys2Proof.Machine
end

section
/-! SUPPORT. The RF inhibit (Machine/Cabinet.lean; R69, R76, R383 to R385): the stakes whose radio work it ends, and where it sends the
slices. -/

namespace Sys2Proof.Machine

/-! ### The stakes whose radio work ends -/

theorem State.stopRadio_put {s : State} {r : Run} (st : Status) (hr : s.runAt r.port = some r) :
    Put r.stake (fun r' => r'.inert = some st ∧ r'.exch = none) s (s.stopRadio r st) := by
  have hcut := State.cutExch_put (s := s) (r := r) st
  obtain ⟨r1, hat, hstake, hexch, -⟩ := hcut.runAt hr rfl
  exact hcut.after (State.modRun_put hat hstake rfl ⟨rfl, hexch⟩)

/-- The runs of a state, each with the stake it had; those of a list have ended their radio work with INHIBITED. -/
def Stopped (l : List Run) (s u : State) : Prop :=
  ∃ g : Run → Run, (∀ x ∈ s.runs, (g x).stake = x.stake) ∧ u.runs = s.runs.map g ∧
    ∀ x ∈ l, (g x).inert = some .inhibited ∧ (g x).exch = none

/-- The run of a stake, where each stake stands on its first port. -/
theorem runAt_map {s u : State} {g : Run → Run} {r : Run} (hstake : ∀ x ∈ s.runs, (g x).stake = x.stake)
    (hruns : u.runs = s.runs.map g) {p : Nat} (hr : s.runAt p = some r) : u.runAt p = some (g r) := by
  unfold State.runAt at hr ⊢
  rw [hruns, List.find?_map]
  have hports : s.runs.find? ((fun x : Run => decide (p ∈ x.stake.ports)) ∘ g) = s.runs.find? fun x => decide (p ∈ x.stake.ports) := by
    refine List.find?_congr fun x hx => ?_
    simp only [Function.comp, hstake x hx]
  rw [hports, hr]
  rfl

/-- Every stake of the state stands on its first port, and has its index alone. -/
def OnePerStake (s : State) : Prop :=
  ∀ x ∈ s.runs, s.runAt x.port = some x ∧ ∀ y ∈ s.runs, x.stake.idx = y.stake.idx → x = y

/-- The radio work of one more stake ends. -/
def State.stopFor (s : State) (r : Run) : State :=
  match s.runAt r.port with
  | none => s
  | some x => s.stopRadio x .inhibited

theorem Stopped.stopFor {l : List Run} {s u : State} {r : Run} (h : Stopped l s u) (hone : OnePerStake s) (hr : r ∈ s.runs) :
    Stopped (r :: l) s (u.stopFor r) := by
  obtain ⟨g, hstake, hruns, hdone⟩ := h
  obtain ⟨hat, -⟩ := hone r hr
  have hself := hstake r hr
  have hat' : u.runAt r.port = some (g r) := runAt_map hstake hruns hat
  have hport : (g r).port = r.port := congrArg Stake.port hself
  obtain ⟨r', hr', hdone', hput⟩ := State.stopRadio_put .inhibited (hport.symm ▸ hat')
  refine ⟨fun x => if x.stake.idx = r.stake.idx then r' else g x, fun x hx => ?_, ?_, fun x hx => ?_⟩
  · dsimp only
    split
    · rename_i hidx
      rw [(hone x hx).2 r hr hidx, hr', hself]
    · exact hstake x hx
  · unfold State.stopFor
    rw [hat']
    dsimp only
    rw [hput, hruns, List.map_map]
    refine List.map_congr_left fun x hx => ?_
    simp only [Function.comp, hstake x hx, hself]
  · dsimp only
    split
    · exact hdone'
    · rename_i hidx
      rcases List.mem_cons.mp hx with rfl | hx
      · exact absurd rfl hidx
      · exact hdone x hx

theorem Stopped.each {s : State} (hone : OnePerStake s) : ∀ (l k : List Run) (u : State), Stopped k s u → l ⊆ s.runs →
    Stopped (l.reverse ++ k) s (u.each l State.stopFor)
  | [], _, _, h, _ => h
  | r :: l, k, u, h, hl => by
    obtain ⟨hr, hl⟩ := List.cons_subset.mp hl
    have hnext := Stopped.each hone l (r :: k) (u.stopFor r) (h.stopFor hone hr) hl
    rw [List.reverse_cons, List.append_assoc]
    exact hnext

/-- What a run is when the radio work of a list of stakes has ended. -/
theorem State.stopAll_runAt {s : State} {l : List Run} {r : Run} (hone : OnePerStake s) (hl : l ⊆ s.runs) (hr : r ∈ l) :
    ∃ r', (s.each l State.stopFor).runAt r.port = some r' ∧ r'.stake = r.stake ∧ r'.inert = some .inhibited ∧ r'.exch = none := by
  obtain ⟨g, hstake, hruns, hdone⟩ := Stopped.each hone l [] s ⟨id, fun _ _ => rfl, (List.map_id _).symm, fun _ h => nomatch h⟩ hl
  have hmem := hl hr
  obtain ⟨hinert, hexch⟩ := hdone r (List.mem_append_left _ (List.mem_reverse.mpr hr))
  exact ⟨g r, runAt_map hstake hruns (hone r hmem).1, hstake r hmem, hinert, hexch⟩

/-! ### What the end of a stake's work does to a slice -/

/-- A slice takes up a setting of its group, or stands as it did (R82): one in FIELD stays there with its ramp, and none sets out for
OFF. -/
def TakesSetting (x y : Slice) : Prop :=
  (y.st = x.st ∧ y.path = x.path ∧ y.due = x.due ∧ y.ramp = x.ramp) ∨
    ((x.st = .field ∨ x.st = .armed) ∧ (y.st = .field ∨ y.st = .armed) ∧ x.path.head? ≠ some .off ∧ y.path.head? ≠ some .off ∧
      (x.st = .field → y.st = .field ∧ y.ramp = x.ramp))

theorem TakesSetting.refl (x : Slice) : TakesSetting x x := .inl ⟨rfl, rfl, rfl, rfl⟩

theorem TakesSetting.trans {x y z : Slice} (h : TakesSetting x y) (g : TakesSetting y z) : TakesSetting x z := by
  rcases h with ⟨hst, hpath, hdue, hramp⟩ | ⟨hx, hy, hxoff, hyoff, hfield⟩
  · unfold TakesSetting
    rw [← hst, ← hpath, ← hdue, ← hramp]
    exact g
  · rcases g with ⟨hst, hpath, -, hramp⟩ | ⟨-, hz, -, hzoff, hfield'⟩
    · refine .inr ⟨hx, hst.symm ▸ hy, hxoff, hpath.symm ▸ hyoff, fun hf => ?_⟩
      obtain ⟨hyf, hyramp⟩ := hfield hf
      exact ⟨hst.trans hyf, hramp.trans hyramp⟩
    · refine .inr ⟨hx, hz, hxoff, hzoff, fun hf => ?_⟩
      obtain ⟨hyf, hyramp⟩ := hfield hf
      obtain ⟨hzf, hzramp⟩ := hfield' hyf
      exact ⟨hzf, hzramp.trans hyramp⟩

/-- Every slice takes up a setting or stands, and the tick is the same. -/
def Settings (s t : State) : Prop := (∀ n, TakesSetting (s.slice n) (t.slice n)) ∧ t.now = s.now

theorem Settings.refl (s : State) : Settings s s := ⟨fun _ => .refl _, rfl⟩

theorem Settings.trans {s t u : State} (h : Settings s t) (g : Settings t u) : Settings s u :=
  ⟨fun n => (h.1 n).trans (g.1 n), g.2.trans h.2⟩

theorem Settings.ite {s t u : State} {c : Prop} [Decidable c] (h : Settings s t) (g : Settings s u) :
    Settings s (if c then t else u) := by split <;> assumption

theorem Settings.each {α : Type} {f : State → α → State} (h : ∀ u x, Settings u (f u x)) (s : State) (l : List α) :
    Settings s (s.each l f) :=
  List.foldlRecOn (motive := fun u : State => Settings s u) l f (.refl s) fun u hu x _ => hu.trans (h u x)

theorem Settings.of_keeps {w : Nat} {s t : State} (h : Keeps w s t) (h1 : w.testBit 63 = false := by rfl)
    (hslices : w.testBit 9 = false := by rfl) (hclock : w.testBit 0 = false := by rfl) : Settings s t :=
  ⟨fun n => by rw [h.slice_eq n h1 hslices]; exact .refl _, h.now_eq h1 hclock⟩

theorem Settings.modSlice {s : State} {n : Nat} {f : Slice → Slice} (hf : TakesSetting (s.slice n) (f (s.slice n))) :
    Settings s (s.modSlice n f) := by
  refine ⟨fun m => ?_, rfl⟩
  by_cases hm : m = n
  · subst hm
    rw [State.modSlice_slice_self]
    exact hf
  · rw [State.modSlice_slice_ne _ _ hm]
    exact .refl _

theorem Settings.takeDrive (s : State) (r : Run) (n : Nat) (slew : Bool) : Settings s (s.takeDrive r n slew) :=
  .modSlice (.inl ⟨rfl, rfl, rfl, rfl⟩)

theorem Settings.showDrive (s : State) (r : Run) (n p : Nat) (o : SliceObs) : Settings s (s.showDrive r n p o) := by
  have hregulate : Settings s (s.regulate r n o.head.mag) := .modSlice (.inl ⟨rfl, rfl, rfl, rfl⟩)
  have hshown (u : State) : Settings u (u.driveShown r n p o) :=
    (Settings.of_keeps (w := 0x10000000000) (Keeps.setReg (regWindow_hfaDriveStatus n) rfl rfl (Keeps.refl _ u))).trans
      (.modSlice (f := fun x => { x with sampled := _ }) (.inl ⟨rfl, rfl, rfl, rfl⟩))
  have htold (u : State) : Settings u (u.driveTold r n p o.head.mag) :=
    .of_keeps (State.driveTold_step (msk := 0x203006004005C) _ _ _ _ rfl rfl (Keeps.refl _ u))
  exact (hregulate.trans (hshown _)).trans (htold _)

/-- A slice that stands at a setting is not on its way to OFF. -/
theorem Slice.settled_notOff {x : Slice} (h : x.settled = true) : x.path.head? ≠ some .off := by
  simp only [Slice.settled, Bool.or_eq_true, Bool.and_eq_true, decide_eq_true_eq, List.isEmpty_iff] at h
  rcases h with h | ⟨-, h⟩ <;> rw [h] <;> decide

theorem Settings.nextSetting (s : State) (r : Run) (n : Nat) : Settings s (s.nextSetting r n) := by
  unfold State.nextSetting
  dsimp only
  split
  · exact .refl s
  rename_i hguard
  simp only [Bool.not_eq_true', not_or, Bool.not_eq_false, not_and_or, Decidable.not_not] at hguard
  obtain ⟨hsettled, hst⟩ := hguard
  have hdrive := Settings.takeDrive s r n true
  have hoff := Slice.settled_notOff hsettled
  have hown {f : Slice → Slice} (hf : ∀ x : Slice, x.st = (s.slice n).st → x.ramp = (s.slice n).ramp →
      ((f x).st = .field ∨ (f x).st = .armed) ∧ (f x).path.head? ≠ some .off ∧
        ((s.slice n).st = .field → (f x).st = .field ∧ (f x).ramp = (s.slice n).ramp)) :
      Settings s ((s.takeDrive r n true).modSlice n f) := by
    have hx : ((s.takeDrive r n true).slice n).st = (s.slice n).st ∧ ((s.takeDrive r n true).slice n).ramp = (s.slice n).ramp := by
      unfold State.takeDrive
      rw [State.modSlice_slice_self]
      exact ⟨rfl, rfl⟩
    obtain ⟨hst', hoff', hfield⟩ := hf _ hx.1 hx.2
    refine ⟨fun m => ?_, rfl⟩
    by_cases hm : m = n
    · subst hm
      rw [State.modSlice_slice_self]
      exact .inr ⟨hst, hst', hoff, hoff', hfield⟩
    · rw [State.modSlice_slice_ne _ _ hm]
      exact hdrive.1 m
  split
  · refine Settings.trans ?_ (.of_keeps (State.driveNone_step (msk := 0x10000000000) n rfl rfl (Keeps.refl _ _)))
    refine .ite (hown fun x hx hramp => ⟨hx.symm ▸ hst, by simp, fun hf => ⟨hx.trans hf, hramp⟩⟩) hdrive
  · refine (Settings.trans ?_ (.showDrive _ r n _ _)).trans (.of_keeps (State.skip_step (msk := 0x40000000) 1 rfl rfl (Keeps.refl _ _)))
    by_cases harmed : (s.slice n).st = .armed
    · rw [if_pos harmed]
      refine hown fun x _ _ => ⟨.inl rfl, by simp [Slice.take], fun hf => absurd (harmed.symm.trans hf) (by decide)⟩
    · rw [if_neg harmed]
      exact hown fun x hx hramp => ⟨hx.symm ▸ hst, by simp, fun hf => ⟨hx.trans hf, hramp⟩⟩

theorem Settings.driveSetting (s : State) (r : Run) : Settings s (s.driveSetting r) :=
  .ite (.refl s) (.each (fun u n => .nextSetting u r n) s _)

theorem Settings.cutExch (s : State) (r : Run) (st : Status) : Settings s (s.cutExch r st) := by
  have hend (u : State) (x : Run) (cut : Bool) : Settings u (u.endWork x st cut) :=
    .of_keeps (State.endWork_step (msk := 0x100202006204009C) _ _ _ rfl rfl (Keeps.refl _ u))
  unfold State.cutExch
  dsimp only
  split
  · exact hend s r false
  · refine ((Settings.of_keeps (w := 0x1020802002006000) ?_).trans (.driveSetting _ _)).trans (hend _ _ true)
    refine State.freeDecoder_step _ rfl rfl (Keeps.ite (State.budgetNote_step _ _ _ rfl rfl ?_) ?_) <;>
      exact State.traceExch_step _ _ _ _ rfl rfl (Keeps.bumpSat regWindow_schOverrunCnt rfl rfl (Keeps.refl _ _))

theorem Settings.stopFor (s : State) (r : Run) : Settings s (s.stopFor r) := by
  unfold State.stopFor
  split
  · exact .refl s
  · exact (Settings.cutExch s _ _).trans (.of_keeps (State.modRun_step (msk := 0x80) _ _ rfl rfl (Keeps.refl _ _)))

/-! ### Where the inhibit sends the slices -/

/-- An update for each slice of a list, of that slice alone, in the same tick. -/
structure OwnSlice (f : State → Nat → State) : Prop where
  other : ∀ (u : State) (m n : Nat), n ≠ m → (f u m).slice n = u.slice n
  now : ∀ (u : State) (m : Nat), (f u m).now = u.now

theorem OwnSlice.each_ne {f : State → Nat → State} (h : OwnSlice f) {l : List Nat} {n : Nat} (hn : n ∉ l) (s : State) :
    (s.each l f).slice n = s.slice n ∧ (s.each l f).now = s.now := by
  refine List.foldlRecOn (motive := fun u : State => u.slice n = s.slice n ∧ u.now = s.now) l f ⟨rfl, rfl⟩ fun u hu m hm => ?_
  exact ⟨(h.other u m n fun heq => hn (heq ▸ hm)).trans hu.1, (h.now u m).trans hu.2⟩

/-- A slice of the list is updated once, from where it stood. -/
theorem OwnSlice.each_once {f : State → Nat → State} (h : OwnSlice f) {l : List Nat} (hl : l.Nodup) {n : Nat} (hn : n ∈ l) {s : State} :
    ∃ u : State, (∃ before, u = s.each before f) ∧ u.slice n = s.slice n ∧ u.now = s.now ∧ (s.each l f).slice n = (f u n).slice n := by
  obtain ⟨before, after, rfl⟩ := List.append_of_mem hn
  obtain ⟨-, hafter, hapart⟩ := List.nodup_append.mp hl
  have hbefore : n ∉ before := fun hmem => hapart n hmem n List.mem_cons_self rfl
  obtain ⟨hslice, hnow⟩ := h.each_ne hbefore s
  refine ⟨s.each before f, ⟨before, rfl⟩, hslice, hnow, ?_⟩
  unfold State.each
  rw [List.foldl_append, List.foldl_cons]
  exact (h.each_ne (List.nodup_cons.mp hafter).1 _).1

theorem State.uhfInhibit_own : OwnSlice State.uhfInhibit where
  other u m n hn := by
    unfold State.uhfInhibit
    dsimp only
    split
    · exact State.modSlice_slice_ne _ _ hn
    · split
      · exact State.modSlice_slice_ne _ _ hn
      · exact State.sendFrom_slice_ne _ _ _ _ _ _ hn
  now u m := (State.uhfInhibit_step (msk := 0x200) m rfl rfl (Keeps.refl _ u)).now_eq

theorem State.hfInhibit_own : OwnSlice State.hfInhibit where
  other u m n hn := by
    have hrest : (u.restSlice m 0).slice n = u.slice n := by
      unfold State.restSlice
      split
      · rfl
      · exact State.sendFrom_slice_ne _ _ _ _ _ _ hn
    have hset (x : Slice) : (u.setSlice m x).slice n = u.slice n := State.setSlice_slice_ne _ _ hn
    have hmod (f : Slice → Slice) : (u.modSlice m f).slice n = u.slice n := State.modSlice_slice_ne _ _ hn
    unfold State.hfInhibit
    dsimp only
    split
    · exact hset _
    · exact hset _
    · exact hset _
    · exact hrest
    · exact hrest
    · exact hmod _
    · split
      · exact hmod _
      · rfl
  now u m := (State.hfInhibit_step (msk := 0x200) m rfl rfl (Keeps.refl _ u)).now_eq

theorem delayOf_off (st : SliceState) (ramp d : Nat) (alt : Bool) : delayOf st .off ramp d alt = 200 := by
  cases st <;> rfl

/-- A slice in OFF stays there. -/
theorem State.uhfInhibit_off {s : State} {n : Nat} (h : (s.slice n).st = .off) :
    (s.uhfInhibit n).slice n = { s.slice n with path := [] } :=
  (congrArg (State.slice · n) (if_pos h)).trans (s.modSlice_slice_self n fun y => { y with path := [] })

/-- Any other slice goes to OFF, where it does not go already. -/
theorem State.uhfInhibit_on {s : State} {n : Nat} (h : (s.slice n).st ≠ .off) :
    ((s.uhfInhibit n).slice n).path = [.off] ∧
      ((s.uhfInhibit n).slice n).due = if (s.slice n).path.head? = some .off then (s.slice n).due else s.now + 200 := by
  unfold State.uhfInhibit
  dsimp only
  rw [if_neg h]
  split
  · rw [State.modSlice_slice_self]
    exact ⟨rfl, rfl⟩
  · unfold State.darkSlice
    rw [State.sendFrom_start _ _ _ _ _ _ _ (by rw [delayOf_off]; decide), delayOf_off]
    exact ⟨rfl, rfl⟩

theorem Slice.level_field {x : Slice} (h : x.st = .field) (hf : Bool) (now : Nat) : x.level hf now = x.ramp.level hf now :=
  if_neg fun hhop => absurd (h.symm.trans hhop.1) (by decide)

/-- A field falls from its present amplitude, within 50 µs (R76). -/
theorem State.hfInhibit_field {s : State} {n : Nat} (h : (s.slice n).st = .field) : ∃ ramp, ramp ≤ 2000 ∧
    (s.hfInhibit n).slice n = { (s.slice n).take true .rampDown ramp s.now with path := [.quiet], due := s.now + ramp } := by
  unfold State.hfInhibit
  dsimp only
  rw [h]
  refine ⟨_, ?_, State.setSlice_slice_self _ _ _⟩
  split
  · exact Nat.min_le_right _ _
  · exact Nat.le_refl _

/-! ### The inhibit begins -/

/-- The radio work of every stake has ended. -/
def State.stakesStopped (s : State) : State := s.each (s.runs.filter Run.radiating) State.stopFor

/-- The UHF slices are on their way to OFF. -/
def State.uhfOff (s : State) : State :=
  s.each ((kindSlices .uhf).filter fun n => decide ((s.slice n).st ≠ .off ∨ (s.slice n).path ≠ [])) State.uhfInhibit

/-- What the inhibit takes from the amplifiers and the Awning, before the fields fall. -/
def State.pinsAndAwning (s : State) : State := (s.each ((List.range 16).map (· + 64)) fun s p => s.pinsSafe p).awnInhibit

/-- The fields fall. -/
def State.hfOff (s : State) : State := s.each (kindSlices .hf) State.hfInhibit

/-- No field is held. -/
def State.holdNone (s : State) : State := s.each (s.ports.map (·.1)) fun s p => s.modPort p fun x => { x with hold := none }

/-- What follows the end of the fields: none is held, and the UHF slices are not to return. -/
def State.unheld (s : State) : State := s.holdNone.setCab { s.holdNone.cab with restoreAt := none }

theorem State.inhibitOn_eq (s : State) : s.inhibitOn = s.stakesStopped.uhfOff.pinsAndAwning.hfOff.unheld.driveCxp := by
  unfold State.inhibitOn
  extract_lets s1 s2 s3 s4 s5 s6 cab
  have h1 : s1 = s.stakesStopped := rfl
  have h2 : s2 = s1.uhfOff := rfl
  have h4 : s4 = s2.pinsAndAwning := rfl
  have h5 : s5 = s4.hfOff := rfl
  have h6 : s6 = s5.holdNone := rfl
  have hcab : cab = s6.cab := rfl
  rw [hcab, h6, h5, h4, h2, h1]
  dsimp only [State.unheld]

theorem State.stakesStopped_settings (s : State) : Settings s s.stakesStopped := .each Settings.stopFor s _

theorem State.stopFor_keeps (s : State) (r : Run) : Keeps 0x10228320620462DC s (s.stopFor r) := by
  unfold State.stopFor
  split
  · exact Keeps.refl _ s
  · exact State.stopRadio_step _ _ rfl rfl (Keeps.refl _ s)

@[simp] theorem State.stopFor_wrote (s : State) (r : Run) : (s.stopFor r).wrote = s.wrote := by
  unfold State.stopFor
  split <;> simp

theorem State.pinsAndAwning_keeps (s : State) : Keeps 0x420200E005011C s s.pinsAndAwning :=
  State.awnInhibit_step rfl rfl (Keeps.each rfl (Keeps.refl _ s) fun u p => State.pinsSafe_step p rfl rfl (Keeps.refl _ u))

theorem State.unheld_keeps (s : State) : Keeps 0x1000100 s s.unheld :=
  State.setCab_step _ rfl rfl (Keeps.each rfl (Keeps.refl _ s) fun u p => State.modPort_step p _ rfl rfl (Keeps.refl _ u))

/-- The inhibit leaves the mode of CXP. -/
theorem State.inhibit_cxpMode (s : State) : s.stakesStopped.uhfOff.pinsAndAwning.hfOff.unheld.cxpMode = s.cxpMode := by
  have hstop : Keeps 0x10228320620462DC s s.stakesStopped :=
    Keeps.each rfl (Keeps.refl _ s) fun u r => State.stopFor_keeps u r
  have huhf : Keeps 0x10228320620462DC s.stakesStopped s.stakesStopped.uhfOff :=
    Keeps.each rfl (Keeps.refl _ _) fun u n => State.uhfInhibit_step n rfl rfl (Keeps.refl _ u)
  have hhf (u : State) : Keeps 0x200 u u.hfOff :=
    Keeps.each rfl (Keeps.refl _ u) fun u n => State.hfInhibit_step n rfl rfl (Keeps.refl _ u)
  have hall : Keeps 0x10628320E30563DC s s.stakesStopped.uhfOff.pinsAndAwning.hfOff.unheld :=
    (State.unheld_keeps _).step rfl rfl ((hhf _).step rfl rfl ((State.pinsAndAwning_keeps _).step rfl rfl
      (huhf.step rfl rfl (hstop.mono rfl))))
  refine hall.cxpMode_eq ?_
  simp [State.stakesStopped, State.uhfOff, State.pinsAndAwning, State.hfOff, State.unheld, State.holdNone]

theorem mem_uhfSlices {n : Nat} : n ∈ kindSlices .uhf ↔ isUhfSlice n = true := by
  simp only [kindSlices, List.mem_map, List.mem_range, isUhfSlice, Bool.and_eq_true, decide_eq_true_eq]
  constructor
  · rintro ⟨i, hi, rfl⟩
    omega
  · intro h
    exact ⟨n - 64, by omega, by omega⟩

theorem mem_hfSlices {n : Nat} : n ∈ kindSlices .hf ↔ isHfSlice n = true := by
  simp only [kindSlices, List.mem_range, isHfSlice, decide_eq_true_eq]
  omega

theorem not_hf_of_uhf {n : Nat} (h : isUhfSlice n = true) : isHfSlice n = false := by
  simp only [isUhfSlice, isHfSlice, Bool.and_eq_true, decide_eq_true_eq, decide_eq_false_iff_not] at h ⊢
  omega

theorem State.uhfOff_slice {s : State} {n : Nat} (hn : isUhfSlice n = true) :
    ((s.slice n).st = .off → (s.uhfOff.slice n).st = .off ∧ (s.uhfOff.slice n).path = []) ∧
      ((s.slice n).st ≠ .off → (s.uhfOff.slice n).path = [.off] ∧
        (s.uhfOff.slice n).due = if (s.slice n).path.head? = some .off then (s.slice n).due else s.now + 200) := by
  by_cases hmove : (s.slice n).st ≠ .off ∨ (s.slice n).path ≠ []
  · have hmem : n ∈ (kindSlices .uhf).filter fun n => decide ((s.slice n).st ≠ .off ∨ (s.slice n).path ≠ []) :=
      List.mem_filter.mpr ⟨mem_uhfSlices.mpr hn, decide_eq_true hmove⟩
    have hnodup : (kindSlices .uhf).Nodup := by decide
    obtain ⟨u, -, hslice, hnow, hafter⟩ := State.uhfInhibit_own.each_once (hnodup.filter _) hmem (s := s)
    unfold State.uhfOff
    rw [hafter, ← hslice, ← hnow]
    exact ⟨fun hoff => by rw [State.uhfInhibit_off hoff]; exact ⟨hoff, rfl⟩, fun hon => State.uhfInhibit_on hon⟩
  · have hrest : s.uhfOff.slice n = s.slice n :=
      (State.uhfInhibit_own.each_ne (fun hmem => hmove (by simpa using (List.mem_filter.mp hmem).2)) s).1
    simp only [not_or, not_not] at hmove
    rw [hrest]
    exact ⟨fun _ => hmove, fun h => absurd hmove.1 h⟩

/-- Outside mode 2 the wires are told last, and nothing else follows the end of the fields. -/
theorem State.inhibitOn_fieldsOff {s : State} (hmode : s.cxpMode ≠ 2) :
    Keeps 0x400000001800100 s.stakesStopped.uhfOff.pinsAndAwning.hfOff s.inhibitOn := by
  rw [State.inhibitOn_eq]
  exact (State.driveCxp_apart (s.inhibit_cxpMode.symm ▸ hmode)).step rfl rfl ((State.unheld_keeps _).mono rfl)

theorem State.inhibitOn_restoreAt {s : State} (hmode : s.cxpMode ≠ 2) : s.inhibitOn.cab.restoreAt = none := by
  rw [State.inhibitOn_eq, (State.driveCxp_apart (s.inhibit_cxpMode.symm ▸ hmode)).cab (.inl rfl) rfl]
  rfl

theorem State.inhibitOn_runAt {s : State} (hmode : s.cxpMode ≠ 2) (hone : OnePerStake s) {r : Run} (hr : r ∈ s.runs)
    (hradiating : r.radiating = true) :
    ∃ r', s.inhibitOn.runAt r.port = some r' ∧ r'.stake = r.stake ∧ r'.inert = some .inhibited ∧ r'.exch = none := by
  have huhf : Keeps 0x200 s.stakesStopped s.stakesStopped.uhfOff :=
    Keeps.each rfl (Keeps.refl _ _) fun u n => State.uhfInhibit_step n rfl rfl (Keeps.refl _ u)
  have hhf (u : State) : Keeps 0x200 u u.hfOff :=
    Keeps.each rfl (Keeps.refl _ u) fun u n => State.hfInhibit_step n rfl rfl (Keeps.refl _ u)
  have hlast : Keeps 0x4420201E185031C s.stakesStopped s.inhibitOn :=
    (State.inhibitOn_fieldsOff hmode).step rfl rfl ((hhf _).step rfl rfl ((State.pinsAndAwning_keeps _).step rfl rfl (huhf.mono rfl)))
  rw [hlast.runAt_eq]
  exact State.stopAll_runAt hone (fun _ => List.mem_of_mem_filter) (List.mem_filter.mpr ⟨hr, hradiating⟩)

theorem State.inhibitOn_uhf {s : State} (hmode : s.cxpMode ≠ 2) {n : Nat} (hn : isUhfSlice n = true) :
    ((s.slice n).st ≠ .off → (s.inhibitOn.slice n).path = [.off] ∧
      (s.inhibitOn.slice n).due = if (s.slice n).path.head? = some .off then (s.slice n).due else s.now + 200) ∧
    ((s.slice n).st = .off → (s.inhibitOn.slice n).st = .off ∧ (s.inhibitOn.slice n).path = []) := by
  have hnotHf : n ∉ kindSlices .hf := fun h => absurd ((mem_hfSlices.mp h).symm.trans (not_hf_of_uhf hn)) (by decide)
  have hafter : s.inhibitOn.slice n = s.stakesStopped.uhfOff.slice n :=
    ((State.inhibitOn_fieldsOff hmode).slice_eq n).trans ((State.hfInhibit_own.each_ne hnotHf _).1.trans
      ((State.pinsAndAwning_keeps _).slice_eq n))
  obtain ⟨hsettings, hnow⟩ := s.stakesStopped_settings
  obtain ⟨hoff, hon⟩ := State.uhfOff_slice (s := s.stakesStopped) hn
  rw [hafter]
  rcases hsettings n with ⟨hst, hpath, hdue, -⟩ | ⟨hst, hst', hpath, hpath', -⟩
  · rw [← hst, ← hpath, ← hdue, ← hnow]
    exact ⟨hon, hoff⟩
  · have hne : ∀ {x : SliceState}, x = .field ∨ x = .armed → x ≠ .off := by rintro _ (rfl | rfl) <;> decide
    refine ⟨fun _ => ?_, fun h => absurd h (hne hst)⟩
    rw [if_neg hpath, ← hnow]
    rw [if_neg hpath'] at hon
    exact hon (hne hst')

theorem State.inhibitOn_field {s : State} (hmode : s.cxpMode ≠ 2) {n : Nat} (hn : isHfSlice n = true)
    (hfield : (s.slice n).st = .field) :
    (s.inhibitOn.slice n).st = .rampDown ∧ (s.inhibitOn.slice n).path = [.quiet] ∧ (s.inhibitOn.slice n).due ≤ s.now + 2000 ∧
      (s.inhibitOn.slice n).ramp = { from_ := (s.slice n).level true s.now, goal := 0, at_ := s.now,
                                     ticks := (s.inhibitOn.slice n).due - s.now } := by
  obtain ⟨hsettings, hstopped⟩ := s.stakesStopped_settings
  obtain ⟨hst, hramp⟩ : (s.stakesStopped.slice n).st = .field ∧ (s.stakesStopped.slice n).ramp = (s.slice n).ramp := by
    rcases hsettings n with ⟨hst, -, -, hramp⟩ | ⟨-, -, -, -, hboth⟩
    · exact ⟨hst.trans hfield, hramp⟩
    · exact hboth hfield
  have hnotUhf : n ∉ (kindSlices .uhf).filter fun m =>
      decide ((s.stakesStopped.slice m).st ≠ .off ∨ (s.stakesStopped.slice m).path ≠ []) := fun h => by
    have huhf := not_hf_of_uhf (mem_uhfSlices.mp (List.mem_of_mem_filter h))
    exact absurd (hn.symm.trans huhf) (by decide)
  obtain ⟨huhf, huhfNow⟩ := State.uhfInhibit_own.each_ne hnotUhf s.stakesStopped
  have hpins := State.pinsAndAwning_keeps s.stakesStopped.uhfOff
  have hnodup : (kindSlices .hf).Nodup := List.nodup_range
  obtain ⟨u, -, hslice, hnow, hfalls⟩ := State.hfInhibit_own.each_once hnodup (mem_hfSlices.mpr hn)
    (s := s.stakesStopped.uhfOff.pinsAndAwning)
  have hu : u.slice n = s.stakesStopped.slice n := hslice.trans ((hpins.slice_eq n).trans huhf)
  have hunow : u.now = s.now := hnow.trans (hpins.now_eq.trans (huhfNow.trans hstopped))
  obtain ⟨ramp, hle, hdown⟩ := State.hfInhibit_field (s := u) (n := n) (hu.symm ▸ hst)
  have hlevel : (u.slice n).level true s.now = (s.slice n).level true s.now := by
    rw [hu, Slice.level_field hst, Slice.level_field hfield, hramp]
  rw [(State.inhibitOn_fieldsOff hmode).slice_eq n]
  unfold State.hfOff
  rw [hfalls, hdown, hunow]
  refine ⟨rfl, rfl, Nat.add_le_add_left hle _, ?_⟩
  rw [← hlevel, Nat.add_sub_cancel_left]
  rfl

/-! ### What the channels show -/

/-- The channels have taken their levels, and CAB_RFOFF_STATUS shows them. -/
def State.channels (s : State) (a b : Bool) : State := (s.setCab { s.cab with a := a, b := b }).showInhibit

theorem State.channels_keeps (s : State) (a b : Bool) : Keeps 0x800000001000000 s (s.channels a b) :=
  State.showInhibit_step rfl rfl (State.setCab_step _ rfl rfl (Keeps.refl _ s))

theorem State.channels_inhibited (s : State) (a b : Bool) :
    (s.channels a b).inhibited = (a || b || s.bit R.cabRfoffStatus F.cabRfoffStatus.latched) :=
  State.bit_setBit_self _ _ _ _ (by decide)

theorem State.channels_aInhibit (s : State) (a b : Bool) :
    (s.channels a b).bit R.cabRfoffStatus F.cabRfoffStatus.aInhibit = a := by
  unfold State.channels State.showInhibit
  rw [State.bit_setBit_apart _ _ _ _ _ (by decide) (by decide), State.bit_setBit_apart _ _ _ _ _ (by decide) (by decide),
    State.bit_setBit_self _ _ _ _ (by decide)]
  rfl

theorem State.channels_bInhibit (s : State) (a b : Bool) :
    (s.channels a b).bit R.cabRfoffStatus F.cabRfoffStatus.bInhibit = b := by
  unfold State.channels State.showInhibit
  rw [State.bit_setBit_apart _ _ _ _ _ (by decide) (by decide), State.bit_setBit_self _ _ _ _ (by decide)]
  rfl

theorem State.channels_inhibits (s : State) (a b : Bool) :
    (s.channels a b).fld R.cabRfoffStatus F.cabRfoffStatus.inhibits = s.fld R.cabRfoffStatus F.cabRfoffStatus.inhibits := by
  unfold State.channels State.showInhibit
  rw [State.fld_setBit_apart _ _ _ _ _ (by decide) (by decide), State.fld_setBit_apart _ _ _ _ _ (by decide) (by decide),
    State.fld_setBit_apart _ _ _ _ _ (by decide) (by decide)]
  rfl

theorem State.power_of_up {s : State} (h : s.up = true) : s.boot.power ≠ .off := by
  rcases (State.up_boot h).2 with h | h <;> rw [h] <;> decide

/-- Where the inhibit is in effect as before, the channels are all that changes. -/
theorem State.setInhibit_same {s : State} (hpower : s.boot.power ≠ .off) {a b : Bool} (h : (s.channels a b).inhibited = s.inhibited) :
    s.setInhibit a b = s.channels a b :=
  (if_neg hpower).trans (if_pos h)

/-- The inhibit that begins is counted and traced. -/
def State.inhibitNoted (s : State) : State :=
  (s.bumpSat R.cabRfoffStatus F.cabRfoffStatus.inhibits 1).trace 0x05 0xFF (s.fld R.cabRfoffStatus (3, 0))

theorem State.inhibitNoted_keeps (s : State) : Keeps 0x1800000002000000 s s.inhibitNoted :=
  State.trace_step _ _ _ rfl rfl (Keeps.bumpSat regWindow_cabRfoffStatus rfl rfl (Keeps.refl _ s))

theorem State.inhibitNoted_status (s : State) : s.inhibitNoted.reg R.cabRfoffStatus =
    (s.bumpSat R.cabRfoffStatus F.cabRfoffStatus.inhibits 1).reg R.cabRfoffStatus :=
  State.trace_reg _ _ _ _ (by rw [regWindow_cabRfoffStatus]; decide)

theorem State.setInhibit_begins {s : State} (hup : s.up = true) {a b : Bool} (hnone : s.inhibited = false)
    (hsome : (s.channels a b).inhibited = true) : s.setInhibit a b = (s.channels a b).inhibitNoted.inhibitOn := by
  have hup' : (s.channels a b).inhibitNoted.up = true :=
    ((State.inhibitNoted_keeps _).up_eq).trans ((s.channels_keeps a b).up_eq.trans hup)
  have hchanged : (s.channels a b).inhibited ≠ s.inhibited := by rw [hsome, hnone]; decide
  exact (if_neg (State.power_of_up hup)).trans ((if_neg hchanged).trans ((if_pos hsome).trans (if_pos hup')))

theorem State.noted_keeps (s : State) (a b : Bool) : Keeps 0x1800000003000000 s (s.channels a b).inhibitNoted :=
  (State.inhibitNoted_keeps _).step rfl rfl ((s.channels_keeps a b).mono rfl)

theorem State.noted_cxpMode (s : State) (a b : Bool) : (s.channels a b).inhibitNoted.cxpMode = s.cxpMode :=
  (s.noted_keeps a b).cxpMode_eq (by simp [State.channels, State.inhibitNoted, State.showInhibit])

/-- CAB_RFOFF_STATUS when the inhibit has begun. -/
theorem State.begun_status (s : State) (a b : Bool) : (s.channels a b).inhibitNoted.inhibitOn.reg R.cabRfoffStatus =
    ((s.channels a b).bumpSat R.cabRfoffStatus F.cabRfoffStatus.inhibits 1).reg R.cabRfoffStatus :=
  ((State.inhibitOn_step (msk := 0x14628B20E38567DC) rfl rfl (Keeps.refl _ _)).reg_eq regWindow_cabRfoffStatus).trans
    (State.inhibitNoted_status _)

theorem State.begun_bit (s : State) (a b : Bool) {f : Fld} (h : Fld.apart F.cabRfoffStatus.inhibits f = true) :
    (s.channels a b).inhibitNoted.inhibitOn.bit R.cabRfoffStatus f = (s.channels a b).bit R.cabRfoffStatus f :=
  (State.bit_of_reg (s.begun_status a b) f).trans (State.bit_setFld_apart _ _ _ _ _ (by decide) h)

theorem State.begun_inhibits (s : State) (a b : Bool) :
    (s.channels a b).inhibitNoted.inhibitOn.fld R.cabRfoffStatus F.cabRfoffStatus.inhibits =
      min (2 ^ 32 - 1) (s.fld R.cabRfoffStatus F.cabRfoffStatus.inhibits + 1) := by
  rw [State.fld_of_reg (s.begun_status a b), State.bumpSat, State.fld_setFld_self _ _ _ _ (by decide), State.channels_inhibits]
  exact Nat.mod_eq_of_lt (Nat.lt_of_le_of_lt (Nat.min_le_left _ _) (by decide))

end Sys2Proof.Machine
end

section
/-! SUPPORT. The end of the RF inhibit (Machine/Cabinet.lean; R69, R188, R385). -/

namespace Sys2Proof.Machine

theorem State.channels_restoreAt (s : State) (a b : Bool) : (s.channels a b).cab.restoreAt = s.cab.restoreAt :=
  (congrArg Cab.restoreAt ((State.showInhibit_step (msk := 0x800000000000000) rfl rfl (Keeps.refl _ _)).cab (.inl rfl) rfl)).trans rfl

/-- The inhibit that ends is traced, and the UHF slices return 180 µs later. -/
def State.inhibitOver (s : State) : State :=
  let s2 := s.trace 0x05 0xFF (s.fld R.cabRfoffStatus (3, 0))
  s2.setCab { s2.cab with restoreAt := some (s2.now + 7200) }

theorem State.inhibitOver_keeps (s : State) : Keeps 0x1000000003000000 s s.inhibitOver :=
  State.setCab_step _ rfl rfl (State.trace_step _ _ _ rfl rfl (Keeps.refl _ s))

theorem State.inhibitOver_restoreAt (s : State) : s.inhibitOver.cab.restoreAt = some (s.now + 7200) :=
  congrArg (fun t => some (t + 7200)) (State.trace_keeps s _ _ _).now_eq

theorem State.setInhibit_ends {s : State} (hup : s.up = true) {a b : Bool} (hsome : s.inhibited = true)
    (hnone : (s.channels a b).inhibited = false) : s.setInhibit a b = (s.channels a b).inhibitOver := by
  have hup' : ((s.channels a b).trace 0x05 0xFF ((s.channels a b).fld R.cabRfoffStatus (3, 0))).up = true :=
    (State.trace_keeps _ _ _ _).up_eq.trans ((s.channels_keeps a b).up_eq.trans hup)
  have hchanged : (s.channels a b).inhibited ≠ s.inhibited := by rw [hsome, hnone]; decide
  have hover : ¬ (s.channels a b).inhibited = true := by rw [hnone]; decide
  exact (if_neg (State.power_of_up hup)).trans ((if_neg hchanged).trans ((if_neg hover).trans (if_pos hup')))

/-- A UHF slice returns from OFF: to STANDBY, or to its load (R69). -/
def State.returnSlice (s : State) (n : Nat) : State := s.sliceTo n (if s.onLoad n then .cal else .standby)

theorem State.returnSlice_own : OwnSlice State.returnSlice where
  other _ _ _ hn := State.modSlice_slice_ne _ _ hn
  now _ _ := rfl

theorem State.onLoad_of_keeps {s t : State} (h : Keeps 0x200 s t) (n : Nat) : t.onLoad n = s.onLoad n := by
  unfold State.onLoad
  rw [h.fld_eq (regWindow_hltSliceStatus n)]

theorem State.returnSlice_slice (s : State) (n : Nat) :
    ((s.returnSlice n).slice n).st = (if s.onLoad n then .cal else .standby) ∧ ((s.returnSlice n).slice n).path = [] := by
  unfold State.returnSlice State.sliceTo
  rw [State.modSlice_slice_self]
  exact ⟨rfl, rfl⟩

/-- The slices that return: those in OFF that R188 does not keep there. -/
def State.returning (s : State) : List Nat :=
  (kindSlices .uhf).filter fun n => decide ((s.slice n).st = .off) && !s.staysOff ((s.portOf n).getD n) n

theorem State.uhfRestored_due {s : State} {t : Nat} (hat : s.cab.restoreAt = some t) (hdue : t ≤ s.now) :
    s.uhfRestored = (s.each s.returning State.returnSlice).setCab { s.cab with restoreAt := none } := by
  unfold State.uhfRestored
  rw [hat]
  exact if_neg (Nat.not_lt.mpr hdue)

theorem State.uhfRestored_early {s : State} {t : Nat} (hat : s.cab.restoreAt = some t) (hearly : s.now < t) : s.uhfRestored = s := by
  unfold State.uhfRestored
  rw [hat]
  exact if_pos hearly

theorem State.returning_slice {s : State} {n : Nat} (hn : isUhfSlice n = true) (hoff : (s.slice n).st = .off) :
    (s.staysOff ((s.portOf n).getD n) n = false →
      ((s.each s.returning State.returnSlice).slice n).st = (if s.onLoad n then .cal else .standby) ∧
        ((s.each s.returning State.returnSlice).slice n).path = []) ∧
    (s.staysOff ((s.portOf n).getD n) n = true → (s.each s.returning State.returnSlice).slice n = s.slice n) := by
  constructor
  · intro hgoes
    have hmem : n ∈ s.returning := List.mem_filter.mpr ⟨mem_uhfSlices.mpr hn, by simp [hoff, hgoes]⟩
    have hnodup : s.returning.Nodup := .filter _ (show (kindSlices .uhf).Nodup by decide)
    obtain ⟨u, ⟨before, rfl⟩, -, -, hafter⟩ := State.returnSlice_own.each_once hnodup hmem (s := s)
    have hkeeps : Keeps 0x200 s (s.each before State.returnSlice) :=
      Keeps.each rfl (Keeps.refl _ s) fun u m => State.sliceTo_step m _ rfl rfl (Keeps.refl _ u)
    rw [hafter, ← State.onLoad_of_keeps hkeeps n]
    exact State.returnSlice_slice _ n
  · intro hstays
    refine (State.returnSlice_own.each_ne (fun hmem => ?_) s).1
    have hgoes := (List.mem_filter.mp hmem).2
    simp [hstays] at hgoes

end Sys2Proof.Machine
end

section
/-! SUPPORT. The edge of a trigger (Machine/Cabinet.lean; R63, R389, R390) in a state with two stakes of one index. -/

namespace Sys2Proof.Machine

/-- A stake of index 0 on a port: TRIGGER_INV on trigger 0, without a block, of 1,000 ticks. -/
def twinStake (port : Nat) : Stake :=
  { idx := 0, w0 := 1000, w1 := Word.put (Word.put 0 (63, 56) 0x30) (47, 40) port, w2 := 0, w3 := 0 }

/-- That stake in its active ticks, idle until its trigger. -/
def twin (port : Nat) : Run :=
  { stake := twinStake port, inner := 0, start := 0, stop := 1000, tailAt := 1000, block := [], cfg := [], keys := [], phase := .idle
    inert := none, onHold := false, readyAt := 0, exch := none, exchCount := 0, setBase := 0, lastStatus := .ok, walk := Walk.dflt
    action := none, request := none, absorbed := 0, workAt := none, missing := [], detuned := false, sjcLow := false, lastSeen := none
    lastBit := 0, nb := false, flagged := (0, false, 0) }

/-- The words of a plan of two stakes: TRIGGER_INV on trigger 0, on ports 1 and 0. -/
def twinPlan : List Word := [2, 0, 0, 0, (twinStake 1).w0, (twinStake 1).w1, 0, 0, (twinStake 0).w0, (twinStake 0).w1, 0, 0]

/-- A part in READY with that plan loaded, in which both stakes run under index 0. No step leads to it: `Obligations.StakesInOrder`. -/
def twinState : State :=
  let s := (State.reset.setWords (bankBase false) twinPlan).setBit R.schStatus F.schStatus.loaded true
  (s.setBoot { s.boot with seq := none }).setRuns [twin 1, twin 0]

theorem twinState_up : twinState.up = true := by decide +kernel

theorem twinState_loaded : twinState.bit R.schStatus F.schStatus.loaded = true := by decide +kernel

theorem twinState_pair : (0, 0) ∈ twinState.planPairs := by decide +kernel

theorem twinState_runAt : twinState.runAt 0 = some (twin 0) := by decide +kernel

/-- The edge starts the stake on port 1, and what it leaves of it takes the place of both: port 0 has no stake any more. -/
theorem twinState_edge : (twinState.triggerSw 0).runAt 0 = none := by decide +kernel

end Sys2Proof.Machine
end

section
/-! SUPPORT. Host requests that a HOST_REQ stake serves, and those that have waited too long (Machine/Requests.lean; R59 to R62). -/

namespace Sys2Proof.Machine

/-- The stake on a port may take a request now: it serves it, and it stands idle or is active before its tail (R59). -/
def State.mayServe (s : State) (r : Run) (x : Request) : Prop :=
  (r.template = 0x09 ∨ r.template = 0x11) ∧ r.request = none ∧ r.start + 16 ≤ s.now ∧ (r.phase = .idle ∨ r.phase = .active) ∧
    s.now < r.tailAt ∧ Machine.serves r.stake r.block r.pitch x.words = true

/-- The front of a request: none on a field that is up (R59). -/
def State.servedFront (s : State) (r : Run) (x : Request) : Nat :=
  if r.phase = .active ∧ s.fieldUp r = true then 0 else reqFront r.block x.words

/-- The run that has taken a request. -/
def State.withRequest (s : State) (r : Run) (x : Request) : Run :=
  { r with request := some x, action := some (r.requestAction x.words), readyAt := s.now }

section

variable {s : State} {p : Nat} {r : Run} {x : Request}

/-- What becomes of a request that the stake may take, outside of an inhibit. -/
theorem State.requestStart_mayServe (hrun : s.runAt p = some r) (hfirst : s.firstRequest r.pitch p = some x) (hmay : s.mayServe r x)
    (hon : s.inhibited = false) : s.requestStart p =
      match r.inert with
      | some st => (s.setRequests (dropFirst r.pitch p s.requests)).refuseRequest r.pitch x.words st
      | none =>
        if r.tailAt < s.now + s.servedFront r x + reqTicks r.block x.words then s
        else if r.phase = .active ∧ s.fieldUp r = true then
          (s.setRequests (dropFirst r.pitch p s.requests)).putRun (s.withRequest r x)
        else (s.setRequests (dropFirst r.pitch p s.requests)).startFront (s.withRequest r x) s.now := by
  obtain ⟨htemplate, hfree, hstarted, hphase, htail, hserves⟩ := hmay
  have hguard : ¬ ((r.template ≠ 0x09 ∧ r.template ≠ 0x11) ∨ r.request.isSome ∨ s.now < r.start + 16 ∨
      (r.phase ≠ .idle ∧ r.phase ≠ .active) ∨ r.tailAt ≤ s.now ∨ !Machine.serves r.stake r.block r.pitch x.words) := by
    simp only [hfree, hserves, Option.isSome_none, Bool.not_true, not_or, not_and_or, not_not, not_lt, not_le]
    exact ⟨htemplate, by decide, hstarted, hphase, htail, by decide⟩
  unfold State.requestStart
  rw [hrun]
  dsimp only
  rw [hfirst]
  dsimp only
  rw [if_neg hguard, hon]
  unfold State.servedFront State.withRequest
  cases r.inert <;> simp; rfl

theorem State.requestStart_starts (hrun : s.runAt p = some r) (hfirst : s.firstRequest r.pitch p = some x) (hmay : s.mayServe r x)
    (hon : s.inhibited = false) (hwork : r.inert = none) (hfits : s.now + s.servedFront r x + reqTicks r.block x.words ≤ r.tailAt) :
    Put r.stake (fun r' => r'.request = some x) s (s.requestStart p) ∧ (s.requestStart p).requests = dropFirst r.pitch p s.requests := by
  rw [State.requestStart_mayServe hrun hfirst hmay hon, hwork]
  dsimp only
  rw [if_neg (Nat.not_lt.mpr hfits)]
  split
  · exact ⟨Put.of (r := s.withRequest r x) rfl rfl rfl, rfl⟩
  · refine ⟨State.startFront_put (r := s.withRequest r x) _ rfl rfl, ?_⟩
    exact (State.startFront_step (msk := 0x80040000380) _ _ rfl rfl (Keeps.refl _ _)).requests (.inl rfl) rfl

theorem State.requestStart_waits (hrun : s.runAt p = some r) (hfirst : s.firstRequest r.pitch p = some x) (hmay : s.mayServe r x)
    (hon : s.inhibited = false) (hwork : r.inert = none) (hlate : r.tailAt < s.now + s.servedFront r x + reqTicks r.block x.words) :
    s.requestStart p = s := by
  rw [State.requestStart_mayServe hrun hfirst hmay hon, hwork]
  exact if_pos hlate

theorem State.refuseRequest_keeps (s : State) (q : Nat) (ws : List Word) (st : Status) :
    Keeps 0x100202006204001C s (s.refuseRequest q ws st) :=
  State.refuseRequest_step _ _ _ rfl rfl (Keeps.refl _ s)

theorem State.requestStart_ends (hrun : s.runAt p = some r) (hfirst : s.firstRequest r.pitch p = some x) (hmay : s.mayServe r x)
    (hon : s.inhibited = false) (hinert : r.inert.isSome = true) :
    (s.requestStart p).runs = s.runs ∧ (s.requestStart p).requests = dropFirst r.pitch p s.requests := by
  obtain ⟨st, hst⟩ := Option.isSome_iff_exists.mp hinert
  rw [State.requestStart_mayServe hrun hfirst hmay hon, hst]
  have hrefused := State.refuseRequest_keeps (s.setRequests (dropFirst r.pitch p s.requests)) r.pitch x.words st
  exact ⟨hrefused.runs_eq, hrefused.requests (.inl rfl) rfl⟩

end

/-- The requests of a pitch for a port that have waited that many cycles. -/
def Request.waited (q p wait : Nat) (x : Request) : Bool := decide (x.pitch = q) && decide (x.port = p) && decide (wait ≤ x.cycles)

theorem Request.waited_iff {q p wait : Nat} {x : Request} : x.waited q p wait = true ↔ x.pitch = q ∧ x.port = p ∧ wait ≤ x.cycles := by
  simp [Request.waited, and_assoc]

/-- SCH_REQ_WAIT, at least one cycle. -/
def State.reqWait (s : State) : Nat := max 1 (s.cfg R.schReqWait F.schReqWait.cycles)

/-- A request that has waited ends. -/
def State.abandonRequest (s : State) (q : Nat) (x : Request) : State := s.refuseRequest q x.words .abandoned

theorem State.requestExpire_eq (s : State) (q p : Nat) : s.requestExpire q p =
    (s.setRequests (s.requests.filter fun x => !x.waited q p s.reqWait)).each (s.requests.filter fun x => x.waited q p s.reqWait)
      fun s x => s.abandonRequest q x := by
  unfold State.requestExpire
  dsimp only [Request.waited, State.reqWait, State.abandonRequest]

theorem State.requestExpire_requests (s : State) (q p : Nat) :
    (s.requestExpire q p).requests = s.requests.filter fun x => !x.waited q p s.reqWait := by
  rw [State.requestExpire_eq]
  generalize s.requests.filter (fun x => x.waited q p s.reqWait) = old
  generalize hu : s.setRequests (s.requests.filter fun x => !x.waited q p s.reqWait) = u
  have hkeeps : Keeps 0x100202006204001C u (u.each old fun s x => s.abandonRequest q x) :=
    Keeps.each rfl (Keeps.refl _ u) fun v x => State.refuseRequest_keeps v q x.words .abandoned
  rw [hkeeps.requests (.inl rfl) rfl, ← hu]
  rfl

theorem State.requestExpire_none {s : State} {q p : Nat} (h : ∀ x ∈ s.requests, x.waited q p s.reqWait = false) :
    s.requestExpire q p = s := by
  have hold : (s.requests.filter fun x => x.waited q p s.reqWait) = [] := List.filter_eq_nil_iff.mpr fun x hx => by simp [h x hx]
  have hrest : (s.requests.filter fun x => !x.waited q p s.reqWait) = s.requests :=
    List.filter_eq_self.mpr fun x hx => by simp [h x hx]
  rw [State.requestExpire_eq, hold, hrest]
  rfl

end Sys2Proof.Machine
end

section
/-! SUPPORT. Accesses of hosts to Groundsheet through a window of their view (Machine/Groundsheet.lean, Machine/Bus.lean; R254, R256,
R285, R287, R434). -/

namespace Sys2Proof.Machine

/-! ### The words that bytes spell -/

theorem wordOfBytes_bytes (w : Word) : wordOfBytes (Word.bytes w) = w := by
  apply BitVec.eq_of_toNat_eq
  have hw := w.isLt
  simp only [wordOfBytes, Word.bytes, List.range, List.range.loop, List.map_cons, List.map_nil, List.foldr_cons, List.foldr_nil,
    BitVec.toNat_ofNat]
  omega

theorem State.byte_setBytes_in (l : List Byte) (s : State) (a i : Nat) (hi : i < l.length) :
    (s.setBytes a l).byte (a + i) = l[i] := by
  induction l generalizing s a i with
  | nil => exact absurd hi (Nat.not_lt_zero i)
  | cons b l ih =>
    show ((s.setByte a b).setBytes (a + 1) l).byte (a + i) = _
    cases i with
    | zero =>
      exact (State.byte_setBytes_out _ _ _ _ (Or.inl (Nat.lt_add_one a))).trans ((State.byte_setByte ..).trans (if_pos rfl))
    | succ i =>
      rw [show a + (i + 1) = a + 1 + i by omega, ih _ _ _ (Nat.lt_of_succ_lt_succ hi)]
      rfl

theorem State.byte_setWord (s : State) (a x : Nat) (w : Word) :
    (s.setWord a w).byte x = (s.setBytes (a / 8 * 8) (Word.bytes w)).byte x := by
  have hnoted : ((s.noteStore a).setBytes (a / 8 * 8) (Word.bytes w)).byte x = (s.setBytes (a / 8 * 8) (Word.bytes w)).byte x := by
    generalize a / 8 * 8 = b
    by_cases hx : x < b ∨ b + (Word.bytes w).length ≤ x
    · rw [State.byte_setBytes_out _ _ _ _ hx, State.byte_setBytes_out _ _ _ _ hx]
      rfl
    · obtain ⟨i, rfl⟩ := Nat.exists_eq_add_of_le (show b ≤ x by omega)
      rw [State.byte_setBytes_in _ _ _ _ (by omega), State.byte_setBytes_in _ _ _ _ (by omega)]
  unfold State.setWord
  dsimp only
  split <;> exact hnoted

theorem State.word_setWord (s : State) (a : Nat) (w : Word) : (s.setWord a w).word a = w := by
  have hbytes : ((List.range 8).map fun i => (s.setWord a w).byte (a / 8 * 8 + i)) = Word.bytes w := by
    refine List.ext_getElem (by simp [Word.bytes]) fun i hi hi' => ?_
    rw [List.getElem_map, List.getElem_range, State.byte_setWord, State.byte_setBytes_in _ _ _ _ hi']
  unfold State.word
  rw [hbytes, wordOfBytes_bytes]

/-! ### The windows -/

/-- View offset at which the window of a master begins (R254, R287). -/
def windowStart (m : Master) : Nat := if privileged m then 0x02000000 else 0x400000

/-- Groundsheet byte at which the window of a master begins. -/
def State.windowBase (s : State) (m : Master) : Nat := if privileged m then 0 else (s.region (masterPitch m)).1

theorem State.viewOf_word {s : State} {m : Master} {off a : Nat} (h : s.viewOf m off = .word a) :
    a + windowStart m = off + s.windowBase m := by
  unfold State.viewOf at h
  unfold windowStart State.windowBase
  split at h
  · rename_i hm
    rw [if_pos hm, if_pos hm]
    split at h
    · obtain rfl := View.word.inj h
      omega
    · cases h
  · rename_i hm
    rw [if_neg hm, if_neg hm]
    dsimp only at h
    split at h
    · split at h
      · obtain rfl := View.word.inj h
        omega
      · cases h
    · split at h
      · split at h <;> cases h
      · cases h

theorem State.regionsTo_aligned (s : State) (n : Nat) : ∀ x ∈ s.regionsTo n, x.2.1 % 65536 = 0 := by
  induction n with
  | zero => exact fun x hx => absurd hx List.not_mem_nil
  | succ n ih =>
    intro x hx
    unfold State.regionsTo at hx
    dsimp only at hx
    split at hx
    · rcases List.mem_append.mp hx with hx | hx
      · exact ih x hx
      · obtain rfl := List.mem_singleton.mp hx
        exact Nat.mul_mod_left _ _
    · exact ih x hx

theorem State.region_aligned (s : State) (q : Nat) : (s.region q).1 % 8 = 0 := by
  unfold State.region
  split
  · rfl
  · split
    · rename_i x hx
      have haligned := s.regionsTo_aligned 8 x (List.mem_of_find?_eq_some hx)
      omega
    · rfl

theorem State.window_aligned (s : State) (m : Master) : windowStart m % 8 = 0 ∧ s.windowBase m % 8 = 0 := by
  unfold windowStart State.windowBase
  split
  · exact ⟨rfl, rfl⟩
  · exact ⟨rfl, s.region_aligned _⟩

/-! ### What regions and instances rest on -/

theorem State.region_of {s t : State} (h : ∀ i, i ≤ 8 → t.reg (R.pitRegion i) = s.reg (R.pitRegion i)) (q : Nat) :
    t.region q = s.region q := by
  have hraw (i : Nat) (hi : i ≤ 8) : t.rawRegion i = s.rawRegion i := by
    unfold State.rawRegion State.fld
    rw [h i hi]
  have hregions : ∀ n, n ≤ 8 → t.regionsTo n = s.regionsTo n := by
    intro n hn
    induction n with
    | zero => rfl
    | succ n ih =>
      unfold State.regionsTo
      rw [ih (by omega), hraw (n + 1) hn]
  unfold State.region
  rw [hregions 8 (Nat.le_refl 8)]

theorem State.awnAt_of_keeps {w : Nat} {s t : State} (h : Keeps w s t) (h1 : w.testBit 63 = false := by rfl)
    (hpit : w.testBit 52 = false := by rfl) (hawn : w.testBit 54 = false := by rfl) (a : Nat) : t.awnAt a = s.awnAt a := by
  have hregion (q : Nat) : t.region q = s.region q := State.region_of (fun i _ => h.reg_eq (regWindow_pitRegion i) h1 hpit) q
  have himg (i : Nat) : t.reg (R.awnImg i) = s.reg (R.awnImg i) := h.reg_eq (regWindow_awnImg i) h1 hawn
  have hplace (i : Nat) : t.awnRegion i = s.awnRegion i := by
    unfold State.awnRegion State.fld
    rw [himg]
  have hon (i : Nat) : t.awnOn i = s.awnOn i := by
    unfold State.awnOn State.awnBadRegion State.awnPitch State.bit State.fld
    rw [himg, hregion, hplace]
  unfold State.awnAt
  simp only [hon, hplace]

theorem State.violation_pitRegion {q i : Nat} (hq : q ≤ 8) (hi : i ≤ 8) (s : State) (m kind detail : Nat) :
    (s.violation q m kind detail).reg (R.pitRegion i) = s.reg (R.pitRegion i) := by
  have hstatus : R.pitRegion i ≠ R.pitStatus q := by
    simp only [R.pitRegion, R.pitStatus, famOff]
    split_ifs <;> omega
  have hidx : R.pitRegion i ≠ R.pitViolIdx := by
    simp only [R.pitRegion, R.pitViolIdx, famOff]
    split_ifs <;> omega
  have hrec (k j : Nat) (hk : k < 64) (hj : j < 2) : R.pitRegion i ≠ R.pitViolRec k j := by
    simp only [R.pitRegion, R.pitViolRec, famOff, famOff2]
    split_ifs <;> omega
  have hk := Nat.mod_lt (s.fld R.pitViolIdx F.pitViolIdx.index) (show 0 < 64 by decide)
  unfold State.violation State.bumpSat State.bump
  dsimp only
  rw [State.setFld_reg_ne _ _ _ hstatus, State.setFld_reg_ne _ _ _ hidx, State.setReg_reg_ne _ _ (hrec _ 1 hk (by decide)),
    State.setReg_reg_ne _ _ (hrec _ 0 hk (by decide))]

/-! ### The bytes that a write leaves -/

theorem State.hostStore_byte_out {s : State} {a x : Nat} {l : List Byte} (hl : l.length ≤ 8 - a % 8)
    (hx : x < a ∨ a + l.length ≤ x) : (s.hostStore a l).byte x = s.byte x := by
  have hstore := State.byte_storeBytes_out s a x l hl hx
  unfold State.hostStore
  split
  · split
    · dsimp only
      split
      · rfl
      · split
        · rfl
        · exact hstore
    · split
      · split
        · exact hstore
        · rfl
      · exact hstore
  · split
    · split
      · rfl
      · exact hstore
    · rfl

theorem Keeps.byte_eq {w : Nat} {s t : State} (h : Keeps w s t) (x : Nat) (h1 : w.testBit 63 = false := by rfl)
    (hmem : w.testBit 1 = false := by rfl) (hpool : w.testBit 41 = false := by rfl) (hinner : w.testBit 61 = false := by rfl)
    (htables : w.testBit 42 = false := by rfl) (hring : w.testBit 44 = false := by rfl) : t.byte x = s.byte x := by
  cases harea : areaOf x with
  | pool => exact h.pool (.inl h1) hpool x harea
  | inner => exact h.inner (.inl h1) hinner x harea
  | tables => exact h.tables (.inl h1) htables x harea
  | ring => exact h.ring (.inl h1) hring x harea
  | mem => exact h.mem (.inl h1) hmem x harea

theorem State.outside_byte (s : State) (m : Master) (kind detail : Nat) (read : Bool) (x : Nat) :
    (s.outside m kind detail read).byte x = s.byte x :=
  (State.outside_step (msk := 0x10000010000000) m kind detail read rfl rfl (Keeps.refl _ s)).byte_eq x

theorem State.viewStore_byte_out {s : State} {m : Master} {off x : Nat} {l : List Byte} (hl : l.length ≤ 8 - off % 8)
    (hx : x + windowStart m < off + s.windowBase m ∨ off + s.windowBase m + l.length ≤ x + windowStart m) :
    (s.viewStore m off l).byte x = s.byte x := by
  unfold State.viewStore
  split
  next a hview =>
    have hat := State.viewOf_word hview
    obtain ⟨hstart, hbase⟩ := s.window_aligned m
    exact State.hostStore_byte_out (by omega) (by omega)
  · rfl
  · rfl
  · exact s.outside_byte ..

theorem masterPitch_le (m : Master) : masterPitch m ≤ 8 := by
  have hm := m.isLt
  unfold masterPitch
  split <;> omega

theorem State.respond_reg (s : State) (m : Master) (x : Resp) (o : Nat) : (s.respond m x).reg o = s.reg o := rfl

theorem State.outside_pitRegion {i : Nat} (hi : i ≤ 8) (s : State) (m : Master) (kind detail : Nat) (read : Bool) :
    (s.outside m kind detail read).reg (R.pitRegion i) = s.reg (R.pitRegion i) := by
  unfold State.outside
  dsimp only
  split
  · rw [State.respond_reg]
  · rw [State.respond_reg, State.violation_pitRegion (masterPitch_le m) hi]

theorem State.viewStore_windowBase (s : State) (m : Master) (off : Nat) (l : List Byte) :
    (s.viewStore m off l).windowBase m = s.windowBase m := by
  have hregion : (s.viewStore m off l).region (masterPitch m) = s.region (masterPitch m) := by
    refine State.region_of (fun i hi => ?_) _
    unfold State.viewStore
    split
    · exact (State.hostStore_step (msk := 0x2042162080000006) _ _ rfl rfl (Keeps.refl _ s)).reg_eq (regWindow_pitRegion i)
    · rfl
    · rfl
    · exact State.outside_pitRegion hi s m _ _ _
  unfold State.windowBase
  rw [hregion]

theorem State.gshStores_cons (s : State) (m : Master) (off n : Nat) (b : Byte) (l : List Byte) : s.gshStores m off (n + 1) (b :: l) =
    (s.viewStore m off ((b :: l).take (8 - off % 8))).gshStores m (off + (8 - off % 8)) n ((b :: l).drop (8 - off % 8)) := by
  rw [State.gshStores]
  exact List.cons_ne_nil b l

theorem State.gshStores_byte_out {m : Master} {x : Nat} : ∀ (n : Nat) {s : State} {off : Nat} {l : List Byte},
    (x + windowStart m < off + s.windowBase m ∨ off + s.windowBase m + l.length ≤ x + windowStart m) →
    (s.gshStores m off n l).byte x = s.byte x
  | 0, _, _, _, _ => rfl
  | _ + 1, _, _, [], _ => rfl
  | n + 1, s, off, b :: l, hx => by
    have hlen : ((b :: l).take (8 - off % 8)).length = min (8 - off % 8) (b :: l).length := List.length_take
    have hdrop : ((b :: l).drop (8 - off % 8)).length = (b :: l).length - (8 - off % 8) := List.length_drop
    have hbase := s.viewStore_windowBase m off ((b :: l).take (8 - off % 8))
    rw [State.gshStores_cons, State.gshStores_byte_out n (by rw [hbase]; omega), State.viewStore_byte_out (by omega) (by omega)]

/-! ### An access to one word of a window -/

theorem windowSize_word {off : Nat} (h : off % 8 = 0) : windowSize off 8 = true := by simp [windowSize, h]

theorem State.gshStores_word {s : State} {m : Master} {off : Nat} {l : List Byte} (n : Nat) (hoff : off % 8 = 0) (hl : l.length = 8) :
    s.gshStores m off (n + 2) l = s.viewStore m off l := by
  obtain ⟨b, l', rfl⟩ := List.exists_cons_of_length_eq_add_one hl
  rw [State.gshStores_cons, hoff, List.take_of_length_le (by omega), List.drop_of_length_le (by omega)]
  rfl

theorem State.viewWrite_word {s : State} {m : Master} {off : Nat} {l : List Byte} (hplace : s.place m (off / 8 * 8) = .window)
    (hon : s.masterOn m = true) (hoff : off % 8 = 0) (hl : l.length = 8) : s.viewWrite m off l = s.viewStore m off l := by
  unfold State.viewWrite State.gshWrite
  simp only [hplace, hl, windowSize_word hoff, hon, Bool.true_or, if_true, Bool.not_true, Bool.false_eq_true, if_false]
  exact State.gshStores_word 1 hoff hl

theorem State.viewWrite_byte_out {s : State} {m : Master} {off x : Nat} {l : List Byte} (hplace : s.place m (off / 8 * 8) = .window)
    (hx : x + windowStart m < off + s.windowBase m ∨ off + s.windowBase m + l.length ≤ x + windowStart m) :
    (s.viewWrite m off l).byte x = s.byte x := by
  unfold State.viewWrite State.gshWrite
  rw [hplace]
  dsimp only
  split
  · split
    · rfl
    · exact State.gshStores_byte_out _ hx
  · exact s.outside_byte ..

/-- A read of one word of a window. -/
theorem State.viewRead_word {s : State} {m : Master} {off a : Nat} (hplace : s.place m (off / 8 * 8) = .window)
    (hon : s.masterOn m = true) (hoff : off % 8 = 0) (hview : s.viewOf m off = .word a) :
    s.viewRead m off 8 = (s.hostLoad a).1.respond m { data := [(s.hostLoad a).2.1], ue := (s.hostLoad a).2.2, bad := false } := by
  have hload : s.viewLoad m off = s.hostLoad a := by
    unfold State.viewLoad
    rw [hview]
  unfold State.viewRead State.gshRead
  simp [hplace, windowSize_word hoff, hon, hoff, hview, State.viewLoads, hload]

theorem State.respond_find (s : State) (m : Master) (x : Resp) : SMap.find (s.respond m x).resp m.val = some x :=
  SMap.find_ins_self _ _ _

/-! ### What the word of an access reads as -/

theorem State.readAt_clean {s : State} {a : Nat} (h : s.upset a = 0) : s.readAt a = s := by
  have hones : ones (s.upset a) = 0 := by rw [h]; decide
  unfold State.readAt State.correct State.isUe
  simp [hones]

theorem State.hostLoad_clean {s : State} {a : Nat} (harea : a < 0x01000000 ∨ 0x01400000 ≤ a) (hawn : s.awnAt a = none)
    (hclear : s.vague a = false) (h : s.upset a = 0) : s.hostLoad a = (s, s.word a, false) := by
  have hring : ¬ (0x01000000 ≤ a ∧ a < 0x01400000) := by omega
  have hue : s.isUe a = false := by
    unfold State.isUe
    rw [h]
    decide
  unfold State.hostLoad
  rw [if_neg hring, hawn]
  unfold State.fetch
  rw [hue, hclear, State.readAt_clean h]
  rfl

theorem State.hostLoad_ue {s : State} {a : Nat} (harea : a < 0x01000000) (hawn : s.awnAt a = none) (h : s.isUe a = true) :
    s.hostLoad a = ((s.recordUe a).skip 1, Config.freeWord s.fresh, true) := by
  have hrecord : (s.recordUe a).awnAt a = none :=
    (State.awnAt_of_keeps (State.recordUe_step (msk := 0x2000000000000) a rfl rfl (Keeps.refl _ s)) (a := a)).trans hawn
  have hring : ¬ (0x01000000 ≤ a ∧ a < 0x01400000) := by omega
  have hresponse : (s.recordUe a).ueResponse a = s.recordUe a := by
    unfold State.ueResponse
    rw [if_pos harea, hrecord]
  unfold State.hostLoad
  rw [if_neg hring, hawn]
  unfold State.fetch State.readAt
  rw [if_pos h, if_pos h, hresponse]

theorem State.recordUe_count (s : State) (a : Nat) : (s.recordUe a).fld R.gshEccUeCnt F.gshEccUeCnt.count =
    (s.fld R.gshEccUeCnt F.gshEccUeCnt.count + 1) % 2 ^ 32 := by
  have hstatus : ((s.eccAt a).setBit R.gshEccStatus F.gshEccStatus.ue true).fld R.gshEccUeCnt F.gshEccUeCnt.count =
      s.fld R.gshEccUeCnt F.gshEccUeCnt.count := by
    unfold State.eccAt
    rw [State.fld_setBit_ne _ _ _ _ (by decide), State.fld_setFld_ne _ _ _ _ (by decide), State.fld_setFld_ne _ _ _ _ (by decide)]
  unfold State.recordUe
  rw [State.fld_bump_self _ _ _ (by decide), hstatus]
  rfl

theorem State.skip_fld (s : State) (n o : Nat) (f : Fld) : (s.skip n).fld o f = s.fld o f := rfl

theorem State.respond_fld (s : State) (m : Master) (x : Resp) (o : Nat) (f : Fld) : (s.respond m x).fld o f = s.fld o f := rfl

/-! ### A whole word that a host stores -/

theorem State.storeBytes_whole (s : State) (a : Nat) {l : List Byte} (hl : l.length = 8) : s.storeBytes a l = s.setWord a (wordOfBytes l) :=
  if_pos hl

/-- A host stores into a buffer that is HELD, and into no other. -/
theorem State.hostStore_pool {s : State} {a : Nat} (l : List Byte) (harea : a < 0x01000000) (hawn : s.awnAt a = none)
    (hpool : (s.bufPitch (a / 256)).isSome = true) :
    s.hostStore a l = if s.buf (a / 256) = .held then s.storeBytes a l else s := by
  obtain ⟨q, hq⟩ := Option.isSome_iff_exists.mp hpool
  unfold State.hostStore
  rw [if_pos harea, hawn]
  dsimp only
  rw [hq]

/-- The active plan bank takes no word of a host (R66). -/
theorem State.hostStore_activeBank {s : State} {a : Nat} (l : List Byte) (hlo : 0x01C00000 ≤ a) (hhi : a < 0x01E00000)
    (hactive : decide (0x01D00000 ≤ a) = s.activeBank) : s.hostStore a l = s.setBit R.schStatus F.schStatus.bankWrite true := by
  unfold State.hostStore
  rw [if_neg (by omega), if_pos ⟨hlo, hhi⟩, if_pos (Or.inl hactive)]

/-- A frame in which no byte outside of the pool has changed. -/
theorem sameBut_of_pool {l : List Part} {s t : State} (h : sameBut (l ++ [.mem, .tables, .ring, .inner]) s t)
    (hbytes : ∀ x, areaOf x ≠ .pool → t.byte x = s.byte x) : sameBut l s t := by
  have harea {d : Area} (hd : d ≠ .pool) (x : Nat) (hx : areaOf x = d) : t.byte x = s.byte x := hbytes x (hx ▸ hd)
  intro p hp
  by_cases hmem : p = .mem
  · subst hmem
    exact harea (by decide)
  by_cases htables : p = .tables
  · subst htables
    exact harea (by decide)
  by_cases hring : p = .ring
  · subst hring
    exact harea (by decide)
  by_cases hinner : p = .inner
  · subst hinner
    exact harea (by decide)
  exact h p (by simp [hp, hmem, htables, hring, hinner])

theorem State.setWord_pool {s : State} {a : Nat} (w : Word) (ha : a % 8 = 0) (harea : a < 0x01000000) :
    (s.setWord a w).bufs = s.bufs ∧ sameBut [.pool, .busy, .ecc, .regs 17] s (s.setWord a w) ∧
      ∀ b, b < a ∨ a + 8 ≤ b → (s.setWord a w).byte b = s.byte b := by
  have hkeeps := State.setWord_step (msk := 0x2002160080000006) a w rfl rfl (Keeps.refl _ s)
  have hout (b : Nat) (hb : b < a ∨ a + 8 ≤ b) : (s.setWord a w).byte b = s.byte b := State.byte_setWord_out _ _ _ _ (by omega)
  refine ⟨hkeeps.bufs (.inl rfl) rfl, sameBut_of_pool (hkeeps.sameBut (.inl rfl) _) fun x hx => hout x ?_, hout⟩
  unfold areaOf at hx
  split at hx
  · exact absurd rfl hx
  · omega

/-! ### Where the windows of a view stand -/

theorem State.place_privileged {s : State} {m : Master} (hm : m.val < 4) {off : Nat} (hlo : 0x02000000 ≤ off) (hhi : off < 0x04000000) :
    s.place m off = .window := by
  have hprivileged : privileged m = true := decide_eq_true hm
  unfold State.place placePrivileged
  rw [if_pos hprivileged, if_neg (by omega), if_neg (by omega), if_neg (by omega), if_pos ⟨hlo, hhi⟩]

theorem State.place_pitch {s : State} {m : Master} (hm : 4 ≤ m.val) {off : Nat} (hlo : 0x400000 ≤ off) (hhi : off < 0x800000) :
    s.place m off = .window := by
  have hpitch : ¬ privileged m = true := by simp [privileged, hm]
  unfold State.place State.placePitch
  rw [if_neg hpitch, if_neg (by omega), if_neg (by omega), if_neg (by omega), if_neg (by omega), if_neg (by omega), if_neg (by omega),
    if_pos ⟨by omega, hhi⟩]

theorem State.viewOf_privileged {s : State} {m : Master} (hm : m.val < 4) {a : Nat} (ha : a < 0x02000000) :
    s.viewOf m (0x02000000 + a) = .word a := by
  have hprivileged : privileged m = true := decide_eq_true hm
  unfold State.viewOf
  rw [if_pos hprivileged, if_pos ⟨by omega, by omega⟩, Nat.add_sub_cancel_left]

theorem State.viewOf_pitch {s : State} {m : Master} (hm : 4 ≤ m.val) {a : Nat} (hlo : (s.region (masterPitch m)).1 ≤ a)
    (hhi : a < (s.region (masterPitch m)).2) (hview : a - (s.region (masterPitch m)).1 < 0x400000) :
    s.viewOf m (0x400000 + (a - (s.region (masterPitch m)).1)) = .word a := by
  have hpitch : ¬ privileged m = true := by simp [privileged, hm]
  have hat : (s.region (masterPitch m)).1 + (0x400000 + (a - (s.region (masterPitch m)).1) - 0x400000) = a := by omega
  unfold State.viewOf
  rw [if_neg hpitch]
  dsimp only
  rw [if_pos ⟨by omega, by omega⟩, hat, if_pos hhi]

theorem windowStart_privileged {m : Master} (hm : m.val < 4) (s : State) : windowStart m = 0x02000000 ∧ s.windowBase m = 0 :=
  ⟨if_pos (decide_eq_true hm), if_pos (decide_eq_true hm)⟩

theorem windowStart_pitch {m : Master} (hm : 4 ≤ m.val) (s : State) :
    windowStart m = 0x400000 ∧ s.windowBase m = (s.region (masterPitch m)).1 := by
  have hpitch : ¬ privileged m = true := by simp [privileged, hm]
  exact ⟨if_neg hpitch, if_neg hpitch⟩

end Sys2Proof.Machine
end

section
/-! SUPPORT. The end of a plan check (Machine/Plan.lean; R49, R50, R65, R66, R68, R257). -/

namespace Sys2Proof.Machine

/-! ### The checker stops, and its errors are read -/

/-- The plan as the checker has read it: the checker stands, and the words in error are recorded. -/
def State.planRead (s : State) (l : List Nat) : State := s.endCheck.touchAll l

section

variable (s : State) (l : List Nat)

theorem State.planRead_keeps : Keeps 0x2000000000004 s.endCheck (s.planRead l) := State.touchAll_step _ rfl rfl (Keeps.refl _ _)

theorem State.planRead_checking : (s.planRead l).bit R.schStatus F.schStatus.checking = false := by
  rw [(s.planRead_keeps l).bit_eq regWindow_schStatus]
  unfold State.endCheck
  rw [State.setSch_bit, State.bit_setBit_ne _ _ _ _ (by decide), State.bit_setBit_self _ _ _ _ (by decide)]

theorem State.planRead_check : (s.planRead l).sch.check = none := by
  rw [(s.planRead_keeps l).sch (.inl rfl) rfl]
  rfl

theorem State.planRead_status {f : Fld} (hf : Fld.apart F.schStatus.checking f = true) :
    (s.planRead l).bit R.schStatus f = s.bit R.schStatus f := by
  rw [(s.planRead_keeps l).bit_eq regWindow_schStatus]
  unfold State.endCheck
  rw [State.setSch_bit, State.bit_setBit_ne _ _ _ _ (by decide), State.bit_setBit_apart _ _ _ _ _ (by decide) hf]

theorem State.planRead_ctrl {f : Fld} (hf : Fld.apart F.schCtrl.swap f = true) :
    (s.planRead l).bit R.schCtrl f = s.bit R.schCtrl f := by
  rw [(s.planRead_keeps l).bit_eq regWindow_schCtrl]
  unfold State.endCheck
  rw [State.setSch_bit, State.bit_setBit_apart _ _ _ _ _ (by decide) hf, State.bit_setBit_ne _ _ _ _ (by decide)]

theorem State.planRead_reg {o : Nat} (hw : regWindow o = 5) (hs : o ≠ R.schStatus) (hc : o ≠ R.schCtrl) :
    (s.planRead l).reg o = s.reg o := by
  rw [(s.planRead_keeps l).reg_eq hw]
  unfold State.endCheck
  rw [State.setSch_reg, State.setBit_reg_ne _ _ _ hc, State.setBit_reg_ne _ _ _ hs]

theorem State.endCheck_keeps : Keeps 0xA000000040 s s.endCheck :=
  State.endCheck_step rfl rfl (Keeps.refl _ s)

theorem State.planRead_up : (s.planRead l).up = s.up := (s.planRead_keeps l).up_eq.trans s.endCheck_keeps.up_eq

theorem State.planRead_now : (s.planRead l).now = s.now := (s.planRead_keeps l).now_eq.trans s.endCheck_keeps.now_eq

end

/-! ### The verdict is shown (R49) -/

/-- SCH_CHECK_RESULT of a verdict. -/
def Verdict.word (v : Verdict) : Word :=
  Word.put (Word.put (Word.put 0 F.schCheckResult.code v.code) F.schCheckResult.stake v.stake) F.schCheckResult.offset v.offset

theorem Verdict.word_fields (v : Verdict) : Word.get v.word F.schCheckResult.code = v.code % 2 ^ 8 ∧
    Word.get v.word F.schCheckResult.stake = v.stake % 2 ^ 13 ∧ Word.get v.word F.schCheckResult.offset = v.offset % 2 ^ 32 := by
  unfold Verdict.word
  refine ⟨?_, ?_, Word.get_put_self _ _ _ (by decide)⟩
  · rw [Word.get_put_apart _ _ _ _ (by decide) (by decide), Word.get_put_apart _ _ _ _ (by decide) (by decide),
      Word.get_put_self _ _ _ (by decide)]
    rfl
  · rw [Word.get_put_apart _ _ _ _ (by decide) (by decide), Word.get_put_self _ _ _ (by decide)]
    rfl

/-- The verdict stands in SCH_CHECK_RESULT. -/
def State.verdictShown (s : State) (bank : Bool) : State := s.setReg R.schCheckResult (s.checkPlan bank).word

theorem State.checkResult_fails {s : State} {c : Check} (h : (s.checkPlan c.bank).code ≠ 0) :
    s.checkResult c = s.verdictShown c.bank :=
  if_pos h

theorem State.checkResult_loads {s : State} {c : Check} (hpass : (s.checkPlan c.bank).code = 0) (hload : c.atLoad = true) :
    s.checkResult c =
      if ((s.verdictShown c.bank).activate c.bank).bit R.schCtrl F.schCtrl.run then
        ((s.verdictShown c.bank).activate c.bank).setSch { ((s.verdictShown c.bank).activate c.bank).sch with
          startAt := some (((s.verdictShown c.bank).activate c.bank).now + 4000) }
      else (s.verdictShown c.bank).activate c.bank :=
  (if_neg (not_not_intro hpass)).trans (if_pos hload)

theorem State.checkResult_passes {s : State} {c : Check} (hpass : (s.checkPlan c.bank).code = 0) (hload : c.atLoad = false) :
    s.checkResult c =
      (((s.verdictShown c.bank).setBit R.schStatus F.schStatus.swapPending true).setFld R.schPlanId F.schPlanId.pending
        ((s.verdictShown c.bank).planId c.bank)).setSch { s.sch with swapAt := some (s.now + 4000) } :=
  (if_neg (not_not_intro hpass)).trans (if_neg (by rw [hload]; decide))

/-- What a verdict leaves of SCH: the result shows it, and the checker stays as it is. -/
structure Judged (c : Check) (k t : State) : Prop where
  result : t.reg R.schCheckResult = (k.checkPlan c.bank).word
  checking : t.bit R.schStatus F.schStatus.checking = k.bit R.schStatus F.schStatus.checking
  check : t.sch.check = k.sch.check
  up : t.up = k.up
  pending : c.atLoad = true ∨ (k.checkPlan c.bank).code ≠ 0 →
    t.bit R.schStatus F.schStatus.swapPending = k.bit R.schStatus F.schStatus.swapPending

theorem State.checkResult_up (s : State) (c : Check) : (s.checkResult c).up = s.up :=
  (State.checkResult_step (msk := 0x190202A06214175C) c rfl rfl (Keeps.refl _ s)).up_eq

/-- The plan that becomes active at load. -/
theorem State.verdictShown_activate (k : State) (b : Bool) : SchSame ((k.verdictShown b).planShown b) ((k.verdictShown b).activate b) :=
  .activate _ b

theorem State.activate_result (k : State) (b : Bool) :
    ((k.verdictShown b).activate b).reg R.schCheckResult = (k.checkPlan b).word := by
  rw [(k.verdictShown_activate b).regs _ regWindow_schCheckResult (by decide) (by decide),
    State.planShown_reg _ _ (by decide) (by decide) (by decide) (by decide)]
  exact State.setReg_reg_self ..

theorem State.activate_status (k : State) (b : Bool) {f : Fld} (hr : Fld.apart F.schStatus.replan f = true)
    (hb : Fld.apart F.schStatus.activeBank f = true) (hl : Fld.apart F.schStatus.loaded f = true) :
    ((k.verdictShown b).activate b).bit R.schStatus f = k.bit R.schStatus f := by
  rw [(k.verdictShown_activate b).status f hr, State.planShown_status _ _ hb hl]
  exact State.bit_setReg_ne _ _ _ (by decide)

theorem State.activate_check (k : State) (b : Bool) : ((k.verdictShown b).activate b).sch.check = k.sch.check := by
  rw [(k.verdictShown_activate b).check, ((k.verdictShown b).planShown_keeps b).sch (.inl rfl) rfl]
  rfl

theorem State.activate_run (k : State) (b : Bool) :
    ((k.verdictShown b).activate b).bit R.schCtrl F.schCtrl.run = k.bit R.schCtrl F.schCtrl.run := by
  rw [(k.verdictShown_activate b).bit _ regWindow_schCtrl]
  refine (State.bit_of_reg (State.planShown_reg _ _ (by decide) (by decide) (by decide) (by decide)) _).trans ?_
  exact State.bit_setReg_ne _ _ _ (by decide)

theorem State.activate_now (k : State) (b : Bool) : ((k.verdictShown b).activate b).now = k.now := by
  rw [(k.verdictShown_activate b).now, ((k.verdictShown b).planShown_keeps b).now_eq]
  rfl

theorem State.checkResult_judged (k : State) (c : Check) : Judged c k (k.checkResult c) := by
  by_cases hpass : (k.checkPlan c.bank).code = 0
  · cases hload : c.atLoad with
    | true =>
      have hup := k.checkResult_up c
      rw [State.checkResult_loads hpass hload] at hup ⊢
      split at hup <;> rename_i hrun
      · rw [if_pos hrun]
        exact ⟨k.activate_result _, k.activate_status _ (by decide) (by decide) (by decide), k.activate_check _, hup,
          fun _ => k.activate_status _ (by decide) (by decide) (by decide)⟩
      · rw [if_neg hrun]
        exact ⟨k.activate_result _, k.activate_status _ (by decide) (by decide) (by decide), k.activate_check _, hup,
          fun _ => k.activate_status _ (by decide) (by decide) (by decide)⟩
    | false =>
      have hup := k.checkResult_up c
      rw [State.checkResult_passes hpass hload] at hup ⊢
      refine ⟨?_, ?_, rfl, hup, fun h => absurd h ?_⟩
      · rw [State.setSch_reg, State.setFld_reg_ne _ _ _ (by decide), State.setBit_reg_ne _ _ _ (by decide)]
        exact State.setReg_reg_self ..
      · rw [State.setSch_bit, State.bit_setFld_ne _ _ _ _ (by decide), State.bit_setBit_apart _ _ _ _ _ (by decide) (by decide)]
        exact State.bit_setReg_ne _ _ _ (by decide)
      · simp [hload, hpass]
  · rw [State.checkResult_fails hpass]
    exact ⟨State.setReg_reg_self .., State.bit_setReg_ne _ _ _ (by decide), rfl, rfl, fun _ => State.bit_setReg_ne _ _ _ (by decide)⟩

/-- A plan that passes becomes pending: it may become active 4,000 ticks later (R65). -/
theorem State.checkResult_pending {k : State} {c : Check} (hpass : (k.checkPlan c.bank).code = 0) (hload : c.atLoad = false) :
    (k.checkResult c).bit R.schStatus F.schStatus.swapPending = true ∧ (k.checkResult c).sch.swapAt = some (k.now + 4000) ∧
      (k.checkResult c).activeBank = k.activeBank ∧
      (k.checkResult c).fld R.schPlanId F.schPlanId.pending = k.planId c.bank % 2 ^ 32 := by
  rw [State.checkResult_passes hpass hload]
  refine ⟨?_, rfl, ?_, ?_⟩
  · rw [State.setSch_bit, State.bit_setFld_ne _ _ _ _ (by decide), State.bit_setBit_self _ _ _ _ (by decide)]
  · unfold State.activeBank
    rw [State.setSch_bit, State.bit_setFld_ne _ _ _ _ (by decide), State.bit_setBit_apart _ _ _ _ _ (by decide) (by decide)]
    exact State.bit_setReg_ne _ _ _ (by decide)
  · rw [State.setSch_fld, State.fld_setFld_self _ _ _ _ (by decide), State.planId_of_mem (s := k) rfl]
    rfl

/-- A plan that passes at load becomes active, and with run 1 it starts 4,000 ticks later (R68). -/
theorem State.checkResult_active {k : State} {c : Check} (hpass : (k.checkPlan c.bank).code = 0) (hload : c.atLoad = true) :
    (k.checkResult c).activeBank = c.bank ∧ (k.checkResult c).bit R.schStatus F.schStatus.loaded = true ∧
      (k.bit R.schCtrl F.schCtrl.run = true → (k.checkResult c).sch.startAt = some (k.now + 4000)) := by
  obtain ⟨hbank, hloaded, -⟩ := (k.verdictShown c.bank).planShown_fields c.bank
  have hbank' := (k.verdictShown_activate c.bank).activeBank.trans hbank
  have hloaded' := ((k.verdictShown_activate c.bank).status F.schStatus.loaded (by decide)).trans hloaded
  rw [State.checkResult_loads hpass hload, k.activate_run, k.activate_now]
  split
  · exact ⟨hbank', hloaded', fun _ => rfl⟩
  · rename_i hrun
    exact ⟨hbank', hloaded', fun h => absurd h hrun⟩

/-- A plan that fails changes nothing else. -/
theorem State.checkResult_bank {k : State} {c : Check} (hfail : (k.checkPlan c.bank).code ≠ 0) :
    (k.checkResult c).activeBank = k.activeBank := by
  rw [State.checkResult_fails hfail]
  exact State.bit_setReg_ne _ _ _ (by decide)

/-! ### A swap after the check at load (R66) -/

theorem State.schSwap_cases (s : State) : s.schSwap = s ∨
    s.schSwap = ((s.setBit R.schStatus F.schStatus.checking true).setBit R.schCtrl F.schCtrl.swap true).setSch
      { s.sch with check := some { bank := !s.activeBank, atLoad := false } } := by
  unfold State.schSwap
  split
  · exact .inl rfl
  · exact .inr rfl

theorem State.schSwap_status (s : State) {f : Fld} (hf : Fld.apart F.schStatus.checking f = true) :
    s.schSwap.bit R.schStatus f = s.bit R.schStatus f := by
  rcases s.schSwap_cases with h | h
  · rw [h]
  · rw [h, State.setSch_bit, State.bit_setBit_ne _ _ _ _ (by decide), State.bit_setBit_apart _ _ _ _ _ (by decide) hf]

theorem State.schSwap_reg (s : State) {o : Nat} (hs : o ≠ R.schStatus) (hc : o ≠ R.schCtrl) : s.schSwap.reg o = s.reg o := by
  rcases s.schSwap_cases with h | h
  · rw [h]
  · rw [h, State.setSch_reg, State.setBit_reg_ne _ _ _ hc, State.setBit_reg_ne _ _ _ hs]

theorem State.schSwap_startAt (s : State) : s.schSwap.sch.startAt = s.sch.startAt := by
  rcases s.schSwap_cases with h | h <;> rw [h]
  rfl

/-- The end of a check without an uncorrectable word: what a swap that follows it leaves of the verdict. -/
structure Swap (r t : State) : Prop where
  result : t.reg R.schCheckResult = r.reg R.schCheckResult
  status : ∀ f, Fld.apart F.schStatus.checking f = true → t.bit R.schStatus f = r.bit R.schStatus f
  startAt : t.sch.startAt = r.sch.startAt

theorem Swap.ite (r : State) (p : Prop) [Decidable p] : Swap r (if p then r.schSwap else r) := by
  split
  · exact ⟨r.schSwap_reg (by decide) (by decide), fun _ => r.schSwap_status, r.schSwap_startAt⟩
  · exact ⟨rfl, fun _ _ => rfl, rfl⟩

/-- A swap that the image asked for starts the checker on the other bank. -/
theorem State.schSwap_starts {r : State} (hup : r.up = true) (hcheck : r.bit R.schStatus F.schStatus.checking = false)
    (hpending : r.bit R.schStatus F.schStatus.swapPending = false) :
    r.schSwap.bit R.schStatus F.schStatus.checking = true ∧ r.schSwap.sch.check = some { bank := !r.schSwap.activeBank, atLoad := false } := by
  have hbank := r.schSwap_status (f := F.schStatus.activeBank) (by decide)
  obtain ⟨hchecking, -, hsch, -⟩ := r.startsCheck_fields { r.sch with check := some { bank := !r.activeBank, atLoad := false } }
  rw [State.activeBank, hbank, State.schSwap_taken hup hcheck hpending]
  exact ⟨hchecking, rfl⟩

/-! ### The end of the check -/

/-- The end of the range that the checker reads (R50). -/
def State.planEnd (s : State) (b : Bool) : Nat := bankBase b + 8 * min 131072 (max 4 (s.planLen b))

theorem State.checkDone_clean {s k : State} {c : Check} (hcheck : s.sch.check = some c)
    (hk : k = s.endCheck.touchAll (s.endCheck.errsIn (bankBase c.bank) (s.endCheck.planEnd c.bank)))
    (hue : s.endCheck.ueIn (bankBase c.bank) (s.endCheck.planEnd c.bank) = none) :
    s.checkDone = if c.atLoad ∧ s.bit R.schCtrl F.schCtrl.swap then (k.checkResult c).schSwap else k.checkResult c := by
  unfold State.planEnd at hk hue
  unfold State.checkDone
  rw [hcheck]
  dsimp only
  rw [hue, hk]

theorem State.checkDone_ue {s : State} {c : Check} {a : Nat} (hcheck : s.sch.check = some c)
    (hue : s.endCheck.ueIn (bankBase c.bank) (s.endCheck.planEnd c.bank) = some a) :
    ∃ l, s.checkDone =
      if c.atLoad then (s.planRead l).eccCritical else (s.planRead l).setBit R.gshEccStatus F.gshEccStatus.planUe true := by
  unfold State.planEnd at hue
  unfold State.checkDone
  rw [hcheck]
  dsimp only
  rw [hue]
  exact ⟨_, rfl⟩

/-- Whatever the part was in, an ECC_CRITICAL reset begins at step 1. -/
theorem State.eccCritical_step1 (s : State) : ∃ q, s.eccCritical.boot.seq = some q ∧ q.step = 1 ∧ .eccCritical ∈ q.causes :=
  ⟨_, congrArg Boot.seq (s.takeReset_boot .eccCritical), rfl, List.mem_dedup.mpr List.mem_cons_self⟩

end Sys2Proof.Machine
end

section
/-! SUPPORT. The ceiling, the rails and the low-power states (Machine/Power.lean; R52, R240, R349, R350, R352). -/

namespace Sys2Proof.Machine

/-! ### A field that a host writes -/

/-- A register has no w1c bit, and every bit of the field takes what a host writes (R6). -/
def writable (locked : Bool) (off : Nat) (f : Fld) : Bool :=
  (regAt off).any fun d => decide (d.accMask (fun a => decide (a = .w1c)) = 0) && (List.range 64).all fun i =>
    !(decide (f.2 ≤ i) && decide (i ≤ f.1)) || (d.accMask fun a => decide (a = .rw) || (decide (a = .rwl) && !locked)).getLsbD i

theorem mergeWrite_getLsbD {locked : Bool} {d : RegDesc} (old v : Word) {i : Nat} (hw1c : d.accMask (fun a => decide (a = .w1c)) = 0)
    (hrw : (d.accMask fun a => decide (a = .rw) || (decide (a = .rwl) && !locked)).getLsbD i = true) :
    (mergeWrite locked d old v).getLsbD i = v.getLsbD i := by
  unfold mergeWrite
  rw [hw1c]
  generalize (d.accMask fun a => decide (a = .rw) || (decide (a = .rwl) && !locked)) = rw at hrw ⊢
  show (((old &&& ~~~rw) ||| (v &&& rw)) &&& ~~~(v &&& 0#64)).getLsbD i = v.getLsbD i
  rw [BitVec.and_zero, BitVec.not_zero, BitVec.and_allOnes, BitVec.getLsbD_or, BitVec.getLsbD_and, BitVec.getLsbD_and,
    BitVec.getLsbD_not, hrw]
  simp

theorem State.hostWrite_reg_ne (s : State) (v : Word) {off o : Nat} (h : o ≠ off) : (s.hostWrite off v).reg o = s.reg o := by
  obtain ⟨x, hx⟩ := s.noteWrote_tick off
  unfold State.hostWrite State.writeReg
  split
  · rfl
  · rw [State.setReg_reg_ne _ _ h, hx]
    rfl

theorem State.fld_hostWrite {s : State} {off : Nat} {f : Fld} (v : Word) (h : writable s.locked off f = true) :
    (s.hostWrite off v).fld off f = Word.get v f := by
  obtain ⟨d, hd, hacc⟩ := Option.any_eq_true _ _ |>.mp h
  obtain ⟨hw1c, hbits⟩ := (Bool.and_eq_true _ _).mp hacc
  have hw1c := of_decide_eq_true hw1c
  have hwritten : (s.hostWrite off v).reg off = mergeWrite s.locked d (s.reg off) v := by
    unfold State.hostWrite State.writeReg
    rw [hd]
    dsimp only
    rw [State.setReg_reg_self, State.taken_of_acc hw1c]
  unfold State.fld
  rw [hwritten]
  apply Nat.eq_of_testBit_eq
  intro i
  rw [Word.testBit_get, Word.testBit_get]
  by_cases hi : i < f.1 + 1 - f.2
  · by_cases h64 : f.2 + i < 64
    · have hbit := List.all_eq_true.mp hbits (f.2 + i) (List.mem_range.mpr h64)
      have hin : f.2 ≤ f.2 + i ∧ f.2 + i ≤ f.1 := by omega
      simp only [hin.1, hin.2, decide_true, Bool.and_self, Bool.not_true, Bool.false_or] at hbit
      rw [mergeWrite_getLsbD _ _ hw1c hbit]
    · rw [BitVec.getLsbD_of_ge _ _ (by omega), BitVec.getLsbD_of_ge _ _ (by omega)]
  · simp [hi]

theorem pwrCeil_writable (locked : Bool) : writable locked R.pwrCeil F.pwrCeil.ceilMw = true := by
  cases locked <;> decide +kernel

theorem pwrHfRail_writable : writable false R.pwrHfRail F.pwrHfRail.haDv = true ∧ writable false R.pwrHfRail F.pwrHfRail.hbDv = true := by
  decide +kernel

/-! ### The ceiling (R52) -/

/-- A ceiling that a plan exceeds: the active one, or the pending one. -/
def State.underPeak (s : State) (new : Nat) : Prop :=
  s.bit R.schStatus F.schStatus.loaded = true ∧ new < s.fld R.schPeakMw F.schPeakMw.peak ∨
    s.bit R.schStatus F.schStatus.swapPending = true ∧ new < (s.peak (!s.activeBank)).1

theorem State.ceilWrite_eq {s : State} (hup : s.up = true) (v : Word) [Decidable (s.underPeak (clamp 5000 45000 (Word.get v F.pwrCeil.ceilMw)))] :
    s.ceilWrite v = if s.underPeak (clamp 5000 45000 (Word.get v F.pwrCeil.ceilMw)) then
      s.setBit R.schStatus F.schStatus.ceilRefused true else s.hostWrite R.pwrCeil v := by
  unfold State.ceilWrite
  rw [if_neg (by simp [hup])]
  dsimp only
  refine ite_congr (propext ?_) (fun _ => rfl) fun _ => rfl
  simp only [State.underPeak, Bool.or_eq_true, Bool.and_eq_true, decide_eq_true_eq]

/-! ### The power window and the rails (R349, R350) -/

theorem State.powerWindow_eq {s : State} (hup : s.up = true) (mw : Nat) : s.powerWindow mw =
    if s.ceiling < mw then
      ((s.setFld R.pwrStatus F.pwrStatus.inputMw mw).setBit R.pwrStatus F.pwrStatus.over true).bump R.pwrOverCnt F.pwrOverCnt.count
    else s.setFld R.pwrStatus F.pwrStatus.inputMw mw :=
  if_neg (by simp [hup])

theorem State.powerWindow_shows {s : State} (hup : s.up = true) {mw : Nat} (hmw : mw < 2 ^ 32) :
    (s.powerWindow mw).fld R.pwrStatus F.pwrStatus.inputMw = mw := by
  have hshown : (s.setFld R.pwrStatus F.pwrStatus.inputMw mw).fld R.pwrStatus F.pwrStatus.inputMw = mw := by
    rw [State.fld_setFld_self _ _ _ _ (by decide)]
    exact Nat.mod_eq_of_lt hmw
  rw [State.powerWindow_eq hup]
  split
  · unfold State.bump
    rw [State.fld_setFld_ne _ _ _ _ (by decide), State.fld_setBit_apart _ _ _ _ _ (by decide) (by decide), hshown]
  · exact hshown

theorem State.powerWindow_over {s : State} (hup : s.up = true) {mw : Nat} (h : s.ceiling < mw) :
    (s.powerWindow mw).bit R.pwrStatus F.pwrStatus.over = true ∧
      (s.powerWindow mw).fld R.pwrOverCnt F.pwrOverCnt.count = (s.fld R.pwrOverCnt F.pwrOverCnt.count + 1) % 2 ^ 32 := by
  rw [State.powerWindow_eq hup, if_pos h]
  constructor
  · unfold State.bump
    rw [State.bit_setFld_ne _ _ _ _ (by decide), State.bit_setBit_self _ _ _ _ (by decide)]
  · rw [State.fld_bump_self _ _ _ (by decide), State.fld_setBit_ne _ _ _ _ (by decide), State.fld_setFld_ne _ _ _ _ (by decide)]
    rfl

theorem State.powerWindow_within {s : State} (hup : s.up = true) {mw : Nat} (h : mw ≤ s.ceiling) :
    (s.powerWindow mw).bit R.pwrStatus F.pwrStatus.over = s.bit R.pwrStatus F.pwrStatus.over ∧
      (s.powerWindow mw).reg R.pwrOverCnt = s.reg R.pwrOverCnt := by
  rw [State.powerWindow_eq hup, if_neg (Nat.not_lt.mpr h)]
  exact ⟨State.bit_setFld_apart _ _ _ _ _ (by decide) (by decide), State.setFld_reg_ne _ _ _ (by decide)⟩

/-! ### A low-power entry begins (R352) -/

/-- The low-power state that a target names. -/
def lowPower (target : Nat) : Option PowerState :=
  if target = 1 then some .hibernate else if target = 2 then some .watch else none

theorem State.enter_begins {s : State} {n : Nat} {p : PowerState} (hup : s.up = true) (hnone : s.boot.entering = none)
    (hp : lowPower n = some p) : s.enter n =
      (((s.setFld R.pwrCtrl F.pwrCtrl.target n).setBoot { s.boot with entering := some p }).setBit R.pwrCtrl F.pwrCtrl.enter true).setSch
        { s.sch with startAt := none } := by
  have hgo : ¬ ((lowPower n).isNone ∨ s.boot.entering.isSome) := by simp [hp, hnone]
  rw [← hp]
  exact (if_neg (by simp [hup])).trans (if_neg hgo)

theorem State.enter_down {s : State} (hup : s.up = false) (n : Nat) : s.enter n = s := if_pos (by simp [hup])

theorem State.enter_shown {s : State} {n : Nat} {p : PowerState} (hup : s.up = true) (hnone : s.boot.entering = none)
    (hp : lowPower n = some p) (hn : n < 4) : (s.enter n).boot = { s.boot with entering := some p } ∧
      (s.enter n).sch = { s.sch with startAt := none } ∧ (s.enter n).fld R.pwrCtrl F.pwrCtrl.target = n ∧
        (s.enter n).bit R.pwrCtrl F.pwrCtrl.enter = true := by
  rw [State.enter_begins hup hnone hp]
  refine ⟨rfl, rfl, ?_, ?_⟩
  · rw [State.setSch_fld, State.fld_setBit_apart _ _ _ _ _ (by decide) (by decide), State.setBoot_fld,
      State.fld_setFld_self _ _ _ _ (by decide)]
    exact Nat.mod_eq_of_lt hn
  · rw [State.setSch_bit, State.bit_setBit_self _ _ _ _ (by decide)]

/-! ### The entry is complete (R352) -/

/-- What keeps a low-power entry from its end: a plan or a stake that runs, a logbook record to write, or a flash command. -/
def State.entryWaits (s : State) : Prop :=
  s.running = true ∨ s.runs ≠ [] ∨ s.bit R.cfgFlashStatus F.cfgFlashStatus.busy = true ∨
    s.noLog = false ∧ (s.hlt.epochDue = true ∨ s.hlt.logQueue ≠ [])

/-- The part with its slices in OFF and its trace drained, in a power state. -/
def State.powerLeft (s : State) (p : PowerState) : State := ((s.setSlices []).enterPower p).traceDrain

/-- What WATCH keeps for Lantern. -/
def State.lanternKept (s : State) (p : PowerState) : State := if p = .watch then s.lanternEnter else s

/-- Every rail but VAON is off. -/
def State.railsOff (s : State) : State :=
  ((s.setHif { s.hif with pcieUp := false }).setBoot { s.boot with entering := none, rstoutN := false }).setTap State.reset.tap

theorem State.lowPowerDone_waits {s : State} {p : PowerState} (hp : s.boot.entering = some p) (h : s.entryWaits) : s.lowPowerDone = s := by
  unfold State.lowPowerDone
  rw [hp]
  refine if_pos ?_
  simp only [Bool.or_eq_true, Bool.and_eq_true, Bool.not_eq_true', List.isEmpty_eq_false_iff]
  rcases h with h | h | h | ⟨hlog, h⟩
  · exact .inl (.inl (.inl (.inr h)))
  · exact .inl (.inl (.inr h))
  · exact .inr h
  · exact .inl (.inr ⟨hlog, h⟩)

theorem State.lowPowerDone_done {s : State} {p : PowerState} (hup : s.up = true) (hp : s.boot.entering = some p) (h : ¬ s.entryWaits) :
    s.lowPowerDone = ((s.powerLeft p).lanternKept p).railsOff := by
  have hidle : ¬ ((!s.up || s.running || !s.runs.isEmpty || (!s.noLog && (s.hlt.epochDue || !s.hlt.logQueue.isEmpty)) ||
      s.bit R.cfgFlashStatus F.cfgFlashStatus.busy) = true) := by
    simp only [Bool.or_eq_true, Bool.and_eq_true, Bool.not_eq_true', List.isEmpty_eq_false_iff]
    rintro ((((h' | h') | h') | ⟨hlog, h'⟩) | h')
    · exact absurd (hup.symm.trans h') (by decide)
    · exact h (.inl h')
    · exact h (.inr (.inl h'))
    · exact h (.inr (.inr (.inr ⟨hlog, h'⟩)))
    · exact h (.inr (.inr (.inl h')))
  unfold State.lowPowerDone
  rw [hp]
  exact if_neg hidle

theorem State.powerLeft_keeps (s : State) (p : PowerState) : Keeps 0x1002100022000224 s (s.powerLeft p) :=
  State.traceDrain_step rfl rfl (State.enterPower_step _ rfl rfl (State.setSlices_step _ rfl rfl (Keeps.refl _ s)))

theorem State.powerLeft_boot {s : State} {p : PowerState} (h : s.boot.power ≠ p) : (s.powerLeft p).boot = { s.boot with power := p } := by
  have hdrain := (State.traceDrain_step (msk := 0x1002100022000004) rfl rfl (Keeps.refl _ ((s.setSlices []).enterPower p))).boot (.inl rfl) rfl
  have htrace := (State.trace_keeps (s.setSlices []) 0x09 0xFF p.code).boot (.inl rfl) rfl
  have henter : (s.setSlices []).enterPower p = ((s.setSlices []).trace 0x09 0xFF p.code).setBoot
      { ((s.setSlices []).trace 0x09 0xFF p.code).boot with power := p } := if_neg h
  unfold State.powerLeft
  rw [hdrain, henter, State.setBoot_boot, htrace]
  rfl

theorem State.powerLeft_slices (s : State) (p : PowerState) : (s.powerLeft p).slices = [] := by
  unfold State.powerLeft
  rw [(State.traceDrain_step (msk := 0x1002100022000024) rfl rfl (State.enterPower_step p rfl rfl (Keeps.refl _ (s.setSlices [])))).slices
    (.inl rfl) rfl]
  rfl

theorem State.lanternKept_keeps (s : State) (p : PowerState) : Keeps 0x20000 s (s.lanternKept p) := by
  unfold State.lanternKept
  exact Keeps.ite (State.lanternEnter_step rfl rfl (Keeps.refl _ s)) (Keeps.refl _ s)

theorem not_up_of_power {s : State} {p : PowerState} (hp : p = .hibernate ∨ p = .watch) (h : s.boot.power = p) : s.up = false := by
  unfold State.up
  rw [h]
  rcases hp with rfl | rfl <;> simp

/-- What the Lantern registers leave in the always-on domain (R240). -/
theorem State.lanternEnter_aon (s : State) : s.lanternEnter.lantern.aon.getD 0 0 = s.reg R.lntCfg ∧
    (∀ e, e < 4 → s.lanternEnter.lantern.aon.getD (1 + e) 0 = s.reg (R.lntPort e) ∧
      s.lanternEnter.lantern.aon.getD (5 + e) 0 = s.reg (R.lntBase e) ∧ s.lanternEnter.lantern.aon.getD (9 + e) 0 = 0) ∧
    s.lanternEnter.lantern.roundAt = s.clock.aon + 40000 * clamp 50 2000 (s.fld R.lntCfg F.lntCfg.intervalMs) := by
  refine ⟨rfl, fun e he => ?_, rfl⟩
  interval_cases e <;> exact ⟨rfl, rfl, rfl⟩

section

variable {s : State} {p : PowerState} (hup : s.up = true) (hp : p = .hibernate ∨ p = .watch) (hentering : s.boot.entering = some p)
  (hidle : ¬ s.entryWaits)
include hup hp hentering hidle

theorem State.lowPowerDone_boot : s.lowPowerDone.boot.power = p ∧ s.lowPowerDone.boot.entering = none ∧
    s.lowPowerDone.boot.rstoutN = false ∧ s.lowPowerDone.up = false ∧ s.lowPowerDone.hif.pcieUp = false := by
  have hpower : s.boot.power ≠ p := fun heq => absurd (hup.symm.trans (not_up_of_power hp heq)) (by decide)
  have hboot : ((s.powerLeft p).lanternKept p).railsOff.boot.power = p :=
    (congrArg Boot.power (((s.powerLeft p).lanternKept_keeps p).boot (.inl rfl) rfl)).trans
      (congrArg Boot.power (State.powerLeft_boot hpower))
  rw [State.lowPowerDone_done hup hentering hidle]
  exact ⟨hboot, rfl, rfl, not_up_of_power hp hboot, rfl⟩

omit hp in
theorem State.lowPowerDone_slice (n : Nat) : (s.lowPowerDone.slice n).st = .off := by
  have hslices : ((s.powerLeft p).lanternKept p).railsOff.slices = [] :=
    (((s.powerLeft p).lanternKept_keeps p).slices (.inl rfl) rfl).trans (s.powerLeft_slices p)
  unfold State.slice
  rw [State.lowPowerDone_done hup hentering hidle, hslices]
  rfl

omit hp in
/-- HIBERNATE keeps Lantern as it is. -/
theorem State.lowPowerDone_hibernate (h : p = .hibernate) : s.lowPowerDone.lantern = s.lantern := by
  have hnone : (s.powerLeft p).lanternKept p = s.powerLeft p := if_neg (by rw [h]; decide)
  rw [State.lowPowerDone_done hup hentering hidle, hnone]
  exact (s.powerLeft_keeps p).lantern (.inl rfl) rfl

omit hp in
/-- WATCH keeps the Lantern registers (R240). -/
theorem State.lowPowerDone_watch (h : p = .watch) : s.lowPowerDone.lantern.aon.getD 0 0 = s.reg R.lntCfg ∧
    (∀ e, e < 4 → s.lowPowerDone.lantern.aon.getD (1 + e) 0 = s.reg (R.lntPort e) ∧
      s.lowPowerDone.lantern.aon.getD (5 + e) 0 = s.reg (R.lntBase e) ∧ s.lowPowerDone.lantern.aon.getD (9 + e) 0 = 0) ∧
    s.lowPowerDone.lantern.roundAt = s.clock.aon + 40000 * clamp 50 2000 (s.fld R.lntCfg F.lntCfg.intervalMs) := by
  have hleft := s.powerLeft_keeps p
  have hwatch : (s.powerLeft p).lanternKept p = (s.powerLeft p).lanternEnter := if_pos h
  have hlantern : s.lowPowerDone.lantern = (s.powerLeft p).lanternEnter.lantern := by
    rw [State.lowPowerDone_done hup hentering hidle, hwatch]
    rfl
  have hport (e : Nat) := hleft.reg_eq (regWindow_lntPort e)
  have hbase (e : Nat) := hleft.reg_eq (regWindow_lntBase e)
  rw [hlantern, ← hleft.reg_eq regWindow_lntCfg, ← hleft.clock (.inl rfl) rfl, ← hleft.fld_eq regWindow_lntCfg]
  simp only [← hport, ← hbase]
  exact (s.powerLeft p).lanternEnter_aon

end

/-- A part that runs nothing and has no logbook record or flash command left does not wait. -/
theorem State.not_entryWaits {s : State} (hrun : s.running = false) (hruns : s.runs = [])
    (hlog : s.noLog = true ∨ s.hlt.epochDue = false ∧ s.hlt.logQueue = [])
    (hflash : s.bit R.cfgFlashStatus F.cfgFlashStatus.busy = false) : ¬ s.entryWaits := by
  unfold State.entryWaits
  rw [hrun, hruns, hflash]
  rcases hlog with hlog | ⟨hepoch, hqueue⟩
  · simp [hlog]
  · simp [hepoch, hqueue]

end Sys2Proof.Machine
end

section
/-! SUPPORT. The plan checker (Machine/Checker.lean; R49 to R51, R53): its two passes, and the verdict that the sweep gives. -/

namespace Sys2Proof.Machine

/-! ### Pass 1: the header -/

/-- What the header fails with the codes 0x01 to 0x03 (R49). -/
def State.badHeader (s : State) (b : Bool) : Prop :=
  Word.get (s.planWord b 0) (63, 32) ≠ 0x53504C4E ∨ Word.get (s.planWord b 0) (31, 16) ≠ 1 ∨
    Word.get (s.planWord b 1) (63, 32) ≠ 0 ∨ s.planWord b 3 ≠ 0 ∨ 131072 < s.planLen b

def State.badCycle (s : State) (b : Bool) : Prop :=
  s.planCycle b < 40000 ∨ 40000000 < s.planCycle b ∨ s.planCycle b % 400 ≠ 0

def State.badCount (s : State) (b : Bool) : Prop :=
  s.planCount b = 0 ∨ 8192 < s.planCount b ∨ s.planLen b < 4 * s.planCount b + 4

section

variable {s : State} {b : Bool}

theorem State.headerCode_badHeader (h : s.badHeader b) : s.headerCode b = 0x01 := if_pos h

theorem State.cycleGuard_iff : (!within 40000 40000000 (s.planCycle b) ∨ s.planCycle b % 400 ≠ 0) ↔ s.badCycle b := by
  simp only [within, State.badCycle, Bool.not_eq_true', Bool.and_eq_false_iff, decide_eq_false_iff_not, Nat.not_le, or_assoc]

theorem State.headerCode_badCycle (h1 : ¬ s.badHeader b) (h : s.badCycle b) : s.headerCode b = 0x02 :=
  (if_neg h1).trans (if_pos (State.cycleGuard_iff.mpr h))

theorem State.headerCode_badCount (h1 : ¬ s.badHeader b) (h2 : ¬ s.badCycle b) (h : s.badCount b) : s.headerCode b = 0x03 :=
  (if_neg h1).trans ((if_neg fun hc => h2 (State.cycleGuard_iff.mp hc)).trans (if_pos h))

theorem State.headerCode_good (h1 : ¬ s.badHeader b) (h2 : ¬ s.badCycle b) (h3 : ¬ s.badCount b) : s.headerCode b = 0 :=
  (if_neg h1).trans ((if_neg fun hc => h2 (State.cycleGuard_iff.mp hc)).trans (if_neg h3))

theorem State.checkPlan_header (h : s.headerCode b ≠ 0) : s.checkPlan b = { code := s.headerCode b, stake := 0, offset := 0 } :=
  if_pos h

/-! ### Pass 1: the stakes -/

/-- A stake that does not stand in the order of start and port after the one before it (R49). -/
def unordered (before : List Stake) (k : Stake) : Prop :=
  ∃ e, before.getLast? = some e ∧ (k.start < e.start ∨ k.start = e.start ∧ k.port < e.port)

theorem ite_code_ne {p : Prop} [Decidable p] {a c r : Nat} (ha : a ≠ c) (hr : r ≠ c) : (if p then a else r) ≠ c := by
  split <;> assumption

/-- The codes after ORDER, of which EXTENT and TEMPLATE come first. -/
theorem code_after_order {extent template : Prop} [Decidable extent] [Decidable template] {r : Nat} (hr : r ≠ 0x04) :
    (if extent then 0x05 else if template then 0x06 else r) ≠ 0x04 ∧
      (extent → (if extent then 0x05 else if template then 0x06 else r) = 0x05) ∧
        (¬ extent → template → (if extent then 0x05 else if template then 0x06 else r) = 0x06) :=
  ⟨ite_code_ne (by decide) (ite_code_ne (by decide) hr), fun h => if_pos h, fun h g => (if_neg h).trans (if_pos g)⟩

variable {all before : List Stake} {k : Stake}

theorem State.stakeCode_unordered (h : unordered before k) : s.stakeCode b all before k = 0x04 := by
  obtain ⟨e, hlast, hlt⟩ := h
  unfold State.stakeCode
  dsimp only
  rw [hlast]
  refine if_pos ?_
  simp only [Bool.not_eq_true', Bool.or_eq_false_iff, Bool.and_eq_false_iff, decide_eq_false_iff_not]
  omega

/-- In order, a stake fails the first of the codes after ORDER, or none. -/
theorem State.stakeCode_ordered (h : ¬ unordered before k) : s.stakeCode b all before k ≠ 0x04 ∧
    (k.dur = 0 ∨ s.planCycle b < k.start + k.dur → s.stakeCode b all before k = 0x05) ∧
      (¬ (k.dur = 0 ∨ s.planCycle b < k.start + k.dur) → !templateAllows k.template k.port → s.stakeCode b all before k = 0x06) := by
  unfold State.stakeCode
  dsimp only
  cases hlast : before.getLast? with
  | none =>
    rw [if_neg (by simp)]
    refine code_after_order ?_
    repeat' refine ite_code_ne (by decide) ?_
    decide
  | some e =>
    have hordered : (decide (e.start < k.start) || (decide (e.start = k.start) && decide (e.port ≤ k.port))) = true := by
      have hnot : ¬ (k.start < e.start ∨ k.start = e.start ∧ k.port < e.port) := fun hlt => h ⟨e, hlast, hlt⟩
      simp only [Bool.or_eq_true, Bool.and_eq_true, decide_eq_true_eq]
      omega
    dsimp only
    rw [if_neg (by simp [hordered])]
    refine code_after_order ?_
    repeat' refine ite_code_ne (by decide) ?_
    decide

theorem State.stakesVerdict_none : ∀ (earlier rest : List Stake),
    (∀ l x m, earlier ++ rest = l ++ x :: m → earlier.length ≤ l.length → s.stakeCode b all l x = 0) →
    s.stakesVerdict b all earlier rest = none
  | _, [], _ => rfl
  | earlier, k :: rest, h => by
    have hk := h earlier k rest rfl (Nat.le_refl _)
    unfold State.stakesVerdict
    dsimp only
    rw [if_neg (not_not_intro hk)]
    refine State.stakesVerdict_none (earlier ++ [k]) rest fun l x m hsplit hlen => ?_
    refine h l x m (by rw [← hsplit]; simp) ?_
    rw [List.length_append] at hlen
    omega

/-- The stakes before the one that fails pass. -/
theorem State.stakesVerdict_first {after : List Stake} (hfail : s.stakeCode b all before k ≠ 0) : ∀ (earlier rest : List Stake),
    earlier ++ rest = before → (∀ l x m, before = l ++ x :: m → s.stakeCode b all l x = 0) →
    s.stakesVerdict b all earlier (rest ++ k :: after) = some { code := s.stakeCode b all before k, stake := k.idx, offset := k.start }
  | earlier, [], hsplit, _ => by
    obtain rfl : earlier = before := by rw [← hsplit, List.append_nil]
    exact if_pos hfail
  | earlier, x :: rest, hsplit, hpass => by
    have hx := hpass earlier x rest hsplit.symm
    rw [List.cons_append]
    unfold State.stakesVerdict
    dsimp only
    rw [if_neg (not_not_intro hx)]
    exact State.stakesVerdict_first hfail (earlier ++ [x]) rest (by rw [← hsplit]; simp) hpass

theorem State.checkPlan_stake {v : Verdict} (hheader : s.headerCode b = 0)
    (hv : s.stakesVerdict b (s.stakes b) [] (s.stakes b) = some v) : s.checkPlan b = v := by
  unfold State.checkPlan
  dsimp only
  rw [if_neg (not_not_intro hheader), hv]

end

/-! ### The verdict that comes first -/

/-- A verdict comes first by its offset, then by its code, then by its stake (R50). -/
theorem Verdict.before_iff {u v : Verdict} : u.before v = true ↔ u.offset ≤ v.offset ∧
    (u.offset = v.offset → u.code ≤ v.code ∧ (u.code = v.code → u.stake ≤ v.stake)) := by
  simp only [Verdict.before, Bool.or_eq_true, Bool.and_eq_true, decide_eq_true_eq]
  omega

theorem firstVerdict_none {l : List Verdict} (h : firstVerdict l = none) : l = [] := by
  cases l with
  | nil => rfl
  | cons v l =>
    unfold firstVerdict at h
    split at h
    · cases h
    · split at h <;> cases h

/-- The first verdict is one of the list, and comes before each of them. -/
theorem firstVerdict_least {l : List Verdict} {v : Verdict} (h : firstVerdict l = some v) :
    v ∈ l ∧ ∀ u ∈ l, v.before u = true := by
  induction l generalizing v with
  | nil => cases h
  | cons x l ih =>
    unfold firstVerdict at h
    split at h
    · rename_i hnone
      obtain rfl := Option.some.inj h
      rw [firstVerdict_none hnone]
      refine ⟨List.mem_cons_self, fun u hu => ?_⟩
      rw [List.mem_singleton.mp hu]
      exact Verdict.before_iff.mpr ⟨Nat.le_refl _, fun _ => ⟨Nat.le_refl _, fun _ => Nat.le_refl _⟩⟩
    · rename_i y hy
      obtain ⟨hmem, hleast⟩ := ih hy
      split at h
      · rename_i hbefore
        obtain rfl := Option.some.inj h
        refine ⟨List.mem_cons_self, fun u hu => ?_⟩
        rcases List.mem_cons.mp hu with rfl | hu
        · exact Verdict.before_iff.mpr ⟨Nat.le_refl _, fun _ => ⟨Nat.le_refl _, fun _ => Nat.le_refl _⟩⟩
        · have hnext := hleast u hu
          rw [Verdict.before_iff] at hbefore hnext ⊢
          omega
      · rename_i hbefore
        obtain rfl := Option.some.inj h
        refine ⟨List.mem_cons_of_mem _ hmem, fun u hu => ?_⟩
        rcases List.mem_cons.mp hu with rfl | hu
        · rw [Verdict.before_iff] at hbefore ⊢
          omega
        · exact hleast u hu

/-! ### Pass 2: what the sweep finds -/

/-- Stakes that share ticks, the one of the lower index first (R40). -/
def overlapping (all : List Stake) (x y : Stake) : Prop :=
  x.idx < y.idx ∧ x.start < activeEnd all y ∧ y.start < activeEnd all x

theorem sharedTick_eq_some {all : List Stake} {x y : Stake} {t : Nat} : sharedTick all x y = some t ↔
    (x.start < activeEnd all y ∧ y.start < activeEnd all x) ∧ t = max x.start y.start := by
  unfold sharedTick
  split
  · rename_i h
    rw [Option.some.injEq]
    exact ⟨fun ht => ⟨h, ht.symm⟩, fun ht => ht.2.symm⟩
  · rename_i h
    exact ⟨fun ht => (by cases ht), fun ht => absurd ht.1 h⟩

theorem mem_pairFails {all : List Stake} {v : Verdict} : v ∈ pairFails all ↔ ∃ x ∈ all, ∃ y ∈ all, overlapping all x y ∧
    v.code ∈ pairCodes x y ∧ v.stake = x.idx ∧ v.offset = max x.start y.start := by
  simp only [pairFails, List.mem_flatMap, List.mem_filter, decide_eq_true_eq]
  constructor
  · rintro ⟨x, hx, y, ⟨hy, hidx⟩, hv⟩
    split at hv
    · cases hv
    · rename_i t ht
      obtain ⟨hshare, rfl⟩ := sharedTick_eq_some.mp ht
      obtain ⟨c, hc, rfl⟩ := List.mem_map.mp hv
      exact ⟨x, hx, y, hy, ⟨hidx, hshare⟩, hc, rfl, rfl⟩
  · rintro ⟨x, hx, y, hy, ⟨hidx, hshare⟩, hcode, hstake, hoffset⟩
    refine ⟨x, hx, y, ⟨hy, hidx⟩, ?_⟩
    rw [sharedTick_eq_some.mpr ⟨hshare, rfl⟩]
    refine List.mem_map.mpr ⟨v.code, hcode, ?_⟩
    rw [← hstake, ← hoffset]

theorem mem_pairCodes {x y : Stake} {c : Nat} : c ∈ pairCodes x y ↔ (∃ p ∈ x.ports, p ∈ y.ports) ∧ c = 0x10 ∨
    x.chkMask &&& y.chkMask ≠ 0 ∧ c = 0x11 ∨ (x.decoder ≠ 0 ∧ x.decoder = y.decoder) ∧ c = 0x12 := by
  simp only [pairCodes, List.mem_append, List.mem_ite_nil_right, List.mem_singleton, List.any_eq_true, decide_eq_true_eq, or_assoc]

theorem State.mem_wheelFails {s : State} {all : List Stake} {v : Verdict} : v ∈ s.wheelFails all ↔
    ∃ k ∈ all, s.fld R.schWheelLimit F.schWheelLimit.limit < wheelSum all k.wheelTarget k.start ∧
      v = { code := 0x13, stake := firstActive all k.start (k.start + 1), offset := k.start } := by
  simp only [State.wheelFails, List.mem_map, List.mem_filter, decide_eq_true_eq]
  exact ⟨fun ⟨k, ⟨hk, hsum⟩, hv⟩ => ⟨k, hk, hsum, hv.symm⟩, fun ⟨k, hk, hsum, hv⟩ => ⟨k, ⟨hk, hsum⟩, hv.symm⟩⟩

theorem State.mem_powerFails {s : State} {all : List Stake} {v : Verdict} : v ∈ s.powerFails all ↔
    ∃ w ∈ riseWindows all, s.ceil < s.windowSum all w ∧
      v = { code := 0x14, stake := firstActive all (400 * w) (400 * w + 400), offset := 400 * w } := by
  simp only [State.powerFails, List.mem_map, List.mem_filter, decide_eq_true_eq]
  exact ⟨fun ⟨w, ⟨hw, hsum⟩, hv⟩ => ⟨w, hw, hsum, hv.symm⟩, fun ⟨w, hw, hsum, hv⟩ => ⟨w, ⟨hw, hsum⟩, hv.symm⟩⟩

/-- All that the sweep finds. -/
def State.sweepFails (s : State) (all : List Stake) : List Verdict := pairFails all ++ s.wheelFails all ++ s.powerFails all

theorem State.mem_sweepFails {s : State} {all : List Stake} {v : Verdict} :
    v ∈ s.sweepFails all ↔ v ∈ pairFails all ∨ v ∈ s.wheelFails all ∨ v ∈ s.powerFails all := by
  simp only [State.sweepFails, List.mem_append, or_assoc]

/-- A member of larger sum stands where a filter is wider. -/
theorem sum_filter_le {l : List Stake} {p q : Stake → Bool} (f : Stake → Nat) (h : ∀ k ∈ l, p k = true → q k = true) :
    ((l.filter p).map f).sum ≤ ((l.filter q).map f).sum := by
  have hsub : List.Sublist (l.filter p) (l.filter q) := by
    have heq : l.filter p = (l.filter q).filter p := by
      rw [List.filter_filter]
      exact List.filter_congr fun k hk => by
        cases hp : p k with
        | false => rfl
        | true => rw [h k hk hp]; rfl
    rw [heq]
    exact List.filter_sublist
  exact (hsub.map f).sum_le_sum fun _ _ => Nat.zero_le _

/-- A list has a member of the largest measure. -/
theorem exists_max {l : List Stake} (f : Stake → Nat) (h : l ≠ []) : ∃ k ∈ l, ∀ x ∈ l, f x ≤ f k := by
  obtain ⟨k, hk⟩ := Option.ne_none_iff_exists'.mp (mt (List.argmax_eq_none (f := f)).mp h)
  exact ⟨k, List.argmax_mem hk, fun x hx => List.le_of_mem_argmax hx hk⟩

/-- A target has most entries where a stake starts: where the wheel is over its limit at a tick, it is so at the last start before it. -/
theorem State.wheelFails_of_over {s : State} {all : List Stake} {target t : Nat}
    (h : s.fld R.schWheelLimit F.schWheelLimit.limit < wheelSum all target t) :
    ∃ v ∈ s.wheelFails all, v.code = 0x13 ∧ v.offset ≤ t := by
  have hne : (all.filter fun k => decide (k.wheelTarget = target) && decide (k.start ≤ t) && decide (t < activeEnd all k)) ≠ [] := by
    intro hnil
    unfold wheelSum at h
    rw [hnil] at h
    exact absurd h (Nat.not_lt_zero _)
  obtain ⟨k, hk, hmax⟩ := exists_max Stake.start hne
  have hactive {x : Stake} := List.mem_filter (x := x) (as := all)
    (p := fun k : Stake => decide (k.wheelTarget = target) && decide (k.start ≤ t) && decide (t < activeEnd all k))
  simp only [Bool.and_eq_true, decide_eq_true_eq] at hactive
  obtain ⟨hmem, ⟨htarget, hstart⟩, -⟩ := hactive.mp hk
  have hsum : wheelSum all target t ≤ wheelSum all k.wheelTarget k.start := by
    refine sum_filter_le _ fun x hx hp => ?_
    simp only [Bool.and_eq_true, decide_eq_true_eq] at hp ⊢
    have hle := hmax x (hactive.mpr ⟨hx, hp⟩)
    exact ⟨⟨hp.1.1.trans htarget.symm, hle⟩, Nat.lt_of_le_of_lt hstart hp.2⟩
  exact ⟨_, State.mem_wheelFails.mpr ⟨k, hmem, Nat.lt_of_lt_of_le h hsum, rfl⟩, rfl, hstart⟩

/-- A sum rises only in the first window and in those in which a stake starts (R51). -/
theorem State.powerFails_of_over {s : State} {all : List Stake} {w : Nat} (h : s.ceil < s.windowSum all w) :
    ∃ v ∈ s.powerFails all, v.code = 0x14 ∧ v.offset ≤ 400 * w := by
  have hrise : ∃ w' ∈ riseWindows all, w' ≤ w ∧ s.windowSum all w ≤ s.windowSum all w' := by
    by_cases hnil : (all.filter fun k => decide (k.start < 400 * w + 400) && decide (400 * w < activeEnd all k)) = []
    · refine ⟨0, List.mem_cons_self, Nat.zero_le w, ?_⟩
      unfold State.windowSum
      rw [hnil]
      exact Nat.le_add_right _ _
    · obtain ⟨k, hk, hmax⟩ := exists_max Stake.start hnil
      have hactive {x : Stake} := List.mem_filter (x := x) (as := all)
        (p := fun k : Stake => decide (k.start < 400 * w + 400) && decide (400 * w < activeEnd all k))
      simp only [Bool.and_eq_true, decide_eq_true_eq] at hactive
      obtain ⟨hmem, hstart, -⟩ := hactive.mp hk
      refine ⟨k.start / 400, List.mem_cons_of_mem _ (List.mem_map.mpr ⟨k, hmem, rfl⟩), by omega, ?_⟩
      refine Nat.add_le_add_left (sum_filter_le _ fun x hx hp => ?_) _
      simp only [Bool.and_eq_true, decide_eq_true_eq] at hp ⊢
      have hle := hmax x (hactive.mpr ⟨hx, hp⟩)
      omega
  obtain ⟨w', hw', hle, hsum⟩ := hrise
  exact ⟨_, State.mem_powerFails.mpr ⟨w', hw', Nat.lt_of_lt_of_le h hsum, rfl⟩, rfl, Nat.mul_le_mul_left 400 hle⟩

theorem State.sweepFails_code {s : State} {all : List Stake} {v : Verdict} (h : v ∈ s.sweepFails all) : 0x10 ≤ v.code := by
  rcases State.mem_sweepFails.mp h with h | h | h
  · obtain ⟨x, -, y, -, -, hcode, -⟩ := mem_pairFails.mp h
    rcases mem_pairCodes.mp hcode with ⟨-, hc⟩ | ⟨-, hc⟩ | ⟨-, hc⟩ <;> omega
  · obtain ⟨k, -, -, rfl⟩ := State.mem_wheelFails.mp h
    exact (by decide : 0x10 ≤ 0x13)
  · obtain ⟨w, -, -, rfl⟩ := State.mem_powerFails.mp h
    exact (by decide : 0x10 ≤ 0x14)

/-- What a SLICE_OVERLAP names. -/
theorem State.overlap_of_code {s : State} {all : List Stake} {v : Verdict} (h : v ∈ s.sweepFails all) (hcode : v.code = 0x10) :
    ∃ x ∈ all, ∃ y ∈ all, overlapping all x y ∧ (∃ p ∈ x.ports, p ∈ y.ports) ∧ v.stake = x.idx ∧ v.offset = max x.start y.start := by
  rcases State.mem_sweepFails.mp h with h | h | h
  · obtain ⟨x, hx, y, hy, hover, hpair, hstake, hoffset⟩ := mem_pairFails.mp h
    refine ⟨x, hx, y, hy, hover, ?_, hstake, hoffset⟩
    rw [hcode] at hpair
    rcases mem_pairCodes.mp hpair with ⟨hports, -⟩ | ⟨-, hc⟩ | ⟨-, hc⟩
    · exact hports
    · exact absurd hc (by decide)
    · exact absurd hc (by decide)
  · obtain ⟨k, -, -, rfl⟩ := State.mem_wheelFails.mp h
    exact absurd hcode (by decide : 0x13 ≠ 0x10)
  · obtain ⟨w, -, -, rfl⟩ := State.mem_powerFails.mp h
    exact absurd hcode (by decide : 0x14 ≠ 0x10)

theorem pairFails_code {all : List Stake} {v : Verdict} (h : v ∈ pairFails all) : v.code ≤ 0x12 := by
  obtain ⟨x, -, y, -, -, hpair, -⟩ := mem_pairFails.mp h
  rcases mem_pairCodes.mp hpair with ⟨-, hc⟩ | ⟨-, hc⟩ | ⟨-, hc⟩ <;> omega

/-- What a WHEEL failure names. -/
theorem State.wheel_of_code {s : State} {all : List Stake} {v : Verdict} (h : v ∈ s.sweepFails all) (hcode : v.code = 0x13) :
    ∃ k : Stake, s.fld R.schWheelLimit F.schWheelLimit.limit < wheelSum all k.wheelTarget k.start ∧
      v.stake = firstActive all k.start (k.start + 1) ∧ v.offset = k.start := by
  rcases State.mem_sweepFails.mp h with h | h | h
  · have hle := pairFails_code h
    omega
  · obtain ⟨k, -, hsum, rfl⟩ := State.mem_wheelFails.mp h
    exact ⟨k, hsum, rfl, rfl⟩
  · obtain ⟨w, -, -, rfl⟩ := State.mem_powerFails.mp h
    exact absurd hcode (by decide : 0x14 ≠ 0x13)

/-- What a POWER failure names. -/
theorem State.power_of_code {s : State} {all : List Stake} {v : Verdict} (h : v ∈ s.sweepFails all) (hcode : v.code = 0x14) :
    ∃ w, v.offset = 400 * w ∧ s.ceil < s.windowSum all w ∧ v.stake = firstActive all (400 * w) (400 * w + 400) := by
  rcases State.mem_sweepFails.mp h with h | h | h
  · have hle := pairFails_code h
    omega
  · obtain ⟨k, -, -, rfl⟩ := State.mem_wheelFails.mp h
    exact absurd hcode (by decide : 0x13 ≠ 0x14)
  · obtain ⟨w, -, hsum, rfl⟩ := State.mem_powerFails.mp h
    exact ⟨w, rfl, hsum, rfl⟩

/-! ### The verdict of a plan that passes the first pass -/

/-- The verdict where the sweep finds nothing: NO_SEAM, or PASS. -/
def State.seamVerdict (s : State) (b : Bool) : Verdict :=
  (s.seamFail (s.planCycle b) (s.stakes b)).getD { code := 0, stake := 0, offset := 0 }

theorem State.seamVerdict_code (s : State) (b : Bool) : (s.seamVerdict b).code = 0 ∨ (s.seamVerdict b).code = 0x15 := by
  unfold State.seamVerdict State.seamFail
  split
  · exact .inl rfl
  · exact .inr rfl

/-- The first pass finds nothing. -/
structure State.PassOne (s : State) (b : Bool) : Prop where
  header : s.headerCode b = 0
  stakes : s.stakesVerdict b (s.stakes b) [] (s.stakes b) = none

section

variable {s : State} {b : Bool} (hpass : s.PassOne b)
include hpass

theorem State.PassOne.checkPlan : s.checkPlan b = (firstVerdict (s.sweepFails (s.stakes b))).getD (s.seamVerdict b) := by
  unfold State.checkPlan
  dsimp only
  rw [if_neg (not_not_intro hpass.header), hpass.stakes]
  dsimp only
  rw [← State.sweepFails]
  cases firstVerdict (s.sweepFails (s.stakes b)) <;> rfl

/-- What the sweep finds is not passed over: the verdict comes before it. -/
theorem State.PassOne.before {u : Verdict} (hu : u ∈ s.sweepFails (s.stakes b)) :
    s.checkPlan b ∈ s.sweepFails (s.stakes b) ∧ (s.checkPlan b).before u = true := by
  rw [hpass.checkPlan]
  cases hfirst : firstVerdict (s.sweepFails (s.stakes b)) with
  | none =>
    rw [firstVerdict_none hfirst] at hu
    exact absurd hu List.not_mem_nil
  | some v =>
    obtain ⟨hmem, hleast⟩ := firstVerdict_least hfirst
    exact ⟨hmem, hleast u hu⟩

/-- The verdict's place against what the sweep finds. -/
theorem State.PassOne.place {u : Verdict} (hu : u ∈ s.sweepFails (s.stakes b)) : (s.checkPlan b).code ≠ 0 ∧
    0x10 ≤ (s.checkPlan b).code ∧ (s.checkPlan b).offset ≤ u.offset ∧ ((s.checkPlan b).offset = u.offset →
      (s.checkPlan b).code ≤ u.code ∧ ((s.checkPlan b).code = u.code → (s.checkPlan b).stake ≤ u.stake)) := by
  obtain ⟨hmem, hbefore⟩ := hpass.before hu
  have hcode := State.sweepFails_code hmem
  exact ⟨by omega, hcode, Verdict.before_iff.mp hbefore⟩

/-- A verdict with a code of the sweep is one that the sweep finds. -/
theorem State.PassOne.mem_of_code (h0 : (s.checkPlan b).code ≠ 0) (hseam : (s.checkPlan b).code ≠ 0x15) :
    s.checkPlan b ∈ s.sweepFails (s.stakes b) := by
  cases hfirst : firstVerdict (s.sweepFails (s.stakes b)) with
  | some v =>
    rw [hpass.checkPlan, hfirst]
    exact (firstVerdict_least hfirst).1
  | none =>
    have hverdict : s.checkPlan b = s.seamVerdict b := by rw [hpass.checkPlan, hfirst, Option.getD_none]
    rw [hverdict] at h0 hseam
    exact absurd (s.seamVerdict_code b) (not_or.mpr ⟨h0, hseam⟩)

/-- Where the sweep finds nothing, the seams decide. -/
theorem State.PassOne.seams (hclean : s.sweepFails (s.stakes b) = []) : s.checkPlan b = s.seamVerdict b := by
  rw [hpass.checkPlan, hclean]
  rfl

end

/-! ### Seams (R53) -/

/-- A port that lacks a seam (R49, R53). -/
def State.lacksSeam (s : State) (cycle : Nat) (all : List Stake) (p : Nat) : Prop :=
  isPort p = true ∧ s.rotOn p = true ∧ (∃ k ∈ all, p ∈ k.ports) ∧ longestGap cycle (spansOf all p) < s.seamMin

theorem spansOf_ne_nil {all : List Stake} {p : Nat} : (!(spansOf all p).isEmpty) = true ↔ ∃ k ∈ all, p ∈ k.ports := by
  simp [spansOf, List.filter_eq_nil_iff]

theorem State.lacksSeam_iff {s : State} {cycle : Nat} {all : List Stake} {p : Nat} :
    (isPort p && s.rotOn p && !(spansOf all p).isEmpty && decide (longestGap cycle (spansOf all p) < s.seamMin)) = true ↔
      s.lacksSeam cycle all p := by
  rw [Bool.and_eq_true, Bool.and_eq_true, Bool.and_eq_true, spansOf_ne_nil, decide_eq_true_eq, State.lacksSeam, and_assoc, and_assoc]

theorem isPort_lt {p : Nat} (h : isPort p = true) : p < 80 := by
  simp only [isPort, isHfPort, isUhfPort, Bool.or_eq_true, Bool.and_eq_true, decide_eq_true_eq] at h
  omega

theorem State.seamFail_none {s : State} {cycle : Nat} {all : List Stake} (h : ∀ p, ¬ s.lacksSeam cycle all p) :
    s.seamFail cycle all = none := by
  unfold State.seamFail
  rw [List.find?_eq_none.mpr fun p _ hp => h p (State.lacksSeam_iff.mp hp)]

/-- The first of a list of stakes on a port, in index order, has the lowest index there. -/
theorem firstOn_least {all : List Stake} (hsorted : all.Pairwise fun x y => x.idx < y.idx) {p : Nat} (h : ∃ k ∈ all, p ∈ k.ports) :
    ∃ k ∈ all, p ∈ k.ports ∧ (all.find? fun k => decide (p ∈ k.ports)) = some k ∧ ∀ x ∈ all, p ∈ x.ports → k.idx ≤ x.idx := by
  obtain ⟨k0, hk0, hp0⟩ := h
  obtain ⟨k, hk⟩ : ∃ k, (all.find? fun k => decide (p ∈ k.ports)) = some k :=
    Option.isSome_iff_exists.mp (List.find?_isSome.mpr ⟨k0, hk0, decide_eq_true hp0⟩)
  obtain ⟨hp, before, after, rfl, hbefore⟩ := List.find?_eq_some_iff_append.mp hk
  refine ⟨k, by simp, of_decide_eq_true hp, hk, fun x hx hpx => ?_⟩
  rcases List.mem_append.mp hx with hx | hx
  · exact absurd hpx (by simpa using hbefore x hx)
  · rcases List.mem_cons.mp hx with rfl | hx
    · exact Nat.le_refl _
    · obtain ⟨-, hafter, -⟩ := List.pairwise_append.mp hsorted
      exact Nat.le_of_lt ((List.pairwise_cons.mp hafter).1 x hx)

theorem State.stakes_sorted (s : State) (b : Bool) : (s.stakes b).Pairwise fun x y => x.idx < y.idx := by
  unfold State.stakes
  exact List.pairwise_map.mpr List.pairwise_lt_range

theorem State.seamFail_lowest {s : State} {cycle : Nat} {all : List Stake} (hsorted : all.Pairwise fun x y => x.idx < y.idx) {p : Nat}
    (hp : s.lacksSeam cycle all p) (hlow : ∀ p', p' < p → ¬ s.lacksSeam cycle all p') :
    ∃ k ∈ all, p ∈ k.ports ∧ s.seamFail cycle all = some { code := 0x15, stake := k.idx, offset := 0 } ∧
      ∀ x ∈ all, p ∈ x.ports → k.idx ≤ x.idx := by
  obtain ⟨k, hk, hpk, hfirst, hleast⟩ := firstOn_least hsorted hp.2.2.1
  have hport : ((List.range 80).find? fun p => isPort p && s.rotOn p && !(spansOf all p).isEmpty &&
      decide (longestGap cycle (spansOf all p) < s.seamMin)) = some p := by
    rw [List.find?_range_eq_some]
    exact ⟨State.lacksSeam_iff.mpr hp, List.mem_range.mpr (isPort_lt hp.1), fun p' hp' => by
      rw [Bool.not_eq_true', ← Bool.not_eq_true]
      exact fun h => hlow p' hp' (State.lacksSeam_iff.mp h)⟩
  refine ⟨k, hk, hpk, ?_, hleast⟩
  unfold State.seamFail
  rw [hport]
  dsimp only
  rw [hfirst]

/-- The sweep finds nothing where no pair shares anything and no sum is over its limit. -/
theorem State.sweepFails_nil {s : State} {all : List Stake}
    (hpairs : ∀ x ∈ all, ∀ y ∈ all, overlapping all x y →
      (∀ p ∈ x.ports, p ∉ y.ports) ∧ x.chkMask &&& y.chkMask = 0 ∧ (x.decoder = 0 ∨ x.decoder ≠ y.decoder))
    (hwheel : ∀ target t, wheelSum all target t ≤ s.fld R.schWheelLimit F.schWheelLimit.limit)
    (hpower : ∀ w, s.windowSum all w ≤ s.ceil) : s.sweepFails all = [] := by
  refine List.eq_nil_iff_forall_not_mem.mpr fun v hv => ?_
  rcases State.mem_sweepFails.mp hv with hv | hv | hv
  · obtain ⟨x, hx, y, hy, hover, hcode, -⟩ := mem_pairFails.mp hv
    obtain ⟨hports, hunits, hdecoder⟩ := hpairs x hx y hy hover
    rcases mem_pairCodes.mp hcode with ⟨⟨p, hpx, hpy⟩, -⟩ | ⟨h, -⟩ | ⟨⟨h0, h⟩, -⟩
    · exact hports p hpx hpy
    · exact h hunits
    · exact hdecoder.elim h0 fun hne => hne h
  · obtain ⟨k, -, hsum, -⟩ := State.mem_wheelFails.mp hv
    exact absurd (hwheel _ _) (Nat.not_le.mpr hsum)
  · obtain ⟨w, -, hsum, -⟩ := State.mem_powerFails.mp hv
    exact absurd (hpower _) (Nat.not_le.mpr hsum)

/-! ### The answers of each pass -/

section

variable {s : State} {b : Bool}

/-- The first stake that fails is the one that the verdict names (R50). -/
theorem State.checkPlan_first (hgood : s.headerCode b = 0) {before after : List Stake} {k : Stake} (hsplit : s.stakes b = before ++ k :: after)
    (hpasses : ∀ l x m, before = l ++ x :: m → s.stakeCode b (s.stakes b) l x = 0) (hfail : s.stakeCode b (s.stakes b) before k ≠ 0) :
    s.checkPlan b = { code := s.stakeCode b (s.stakes b) before k, stake := k.idx, offset := k.start } := by
  have hverdict := State.stakesVerdict_first (after := after) hfail [] before rfl hpasses
  rw [← hsplit] at hverdict
  exact State.checkPlan_stake hgood hverdict

variable (hpass : s.PassOne b)
include hpass

/-- The verdict against a pair that fails with a code. -/
theorem State.PassOne.pair {x y : Stake} (hx : x ∈ s.stakes b) (hy : y ∈ s.stakes b) (hover : overlapping (s.stakes b) x y) {c : Nat}
    (hc : c ∈ pairCodes x y) : (s.checkPlan b).code ≠ 0 ∧ 0x10 ≤ (s.checkPlan b).code ∧
      (s.checkPlan b).offset ≤ max x.start y.start ∧ ((s.checkPlan b).offset = max x.start y.start →
        (s.checkPlan b).code ≤ c ∧ ((s.checkPlan b).code = c → (s.checkPlan b).stake ≤ x.idx)) :=
  hpass.place (u := { code := c, stake := x.idx, offset := max x.start y.start })
    (State.mem_sweepFails.mpr (.inl (mem_pairFails.mpr ⟨x, hx, y, hy, hover, hc, rfl, rfl⟩)))

theorem State.PassOne.sharedPort {x y : Stake} (hx : x ∈ s.stakes b) (hy : y ∈ s.stakes b) (hover : overlapping (s.stakes b) x y)
    (hports : ∃ p ∈ x.ports, p ∈ y.ports) : (s.checkPlan b).code ≠ 0 ∧ (s.checkPlan b).offset ≤ max x.start y.start ∧
      ((s.checkPlan b).offset = max x.start y.start → (s.checkPlan b).code = 0x10 ∧ (s.checkPlan b).stake ≤ x.idx) := by
  obtain ⟨h0, hlow, hoffset, hat⟩ := hpass.pair hx hy hover (mem_pairCodes.mpr (.inl ⟨hports, rfl⟩))
  refine ⟨h0, hoffset, fun heq => ?_⟩
  obtain ⟨hcode, hstake⟩ := hat heq
  have h10 := Nat.le_antisymm hcode hlow
  exact ⟨h10, hstake h10⟩

/-- The verdict against a failure that the sweep finds no later than a tick. -/
theorem State.PassOne.upTo {u : Verdict} (hu : u ∈ s.sweepFails (s.stakes b)) {c t : Nat} (hcode : u.code = c) (hle : u.offset ≤ t) :
    (s.checkPlan b).code ≠ 0 ∧ (s.checkPlan b).offset ≤ t ∧ ((s.checkPlan b).offset = t → (s.checkPlan b).code ≤ c) := by
  obtain ⟨h0, -, hoffset, hat⟩ := hpass.place hu
  exact ⟨h0, hoffset.trans hle, fun heq => hcode ▸ (hat (Nat.le_antisymm hoffset (heq ▸ hle))).1⟩

theorem State.PassOne.wheel {target t : Nat} (h : s.fld R.schWheelLimit F.schWheelLimit.limit < wheelSum (s.stakes b) target t) :
    (s.checkPlan b).code ≠ 0 ∧ (s.checkPlan b).offset ≤ t ∧ ((s.checkPlan b).offset = t → (s.checkPlan b).code ≤ 0x13) := by
  obtain ⟨u, hu, hcode, hle⟩ := State.wheelFails_of_over h
  exact hpass.upTo (State.mem_sweepFails.mpr (.inr (.inl hu))) hcode hle

theorem State.PassOne.power {w : Nat} (h : s.ceil < s.windowSum (s.stakes b) w) : (s.checkPlan b).code ≠ 0 ∧
    (s.checkPlan b).offset ≤ 400 * w ∧ ((s.checkPlan b).offset = 400 * w → (s.checkPlan b).code ≤ 0x14) := by
  obtain ⟨u, hu, hcode, hle⟩ := State.powerFails_of_over h
  exact hpass.upTo (State.mem_sweepFails.mpr (.inr (.inr hu))) hcode hle

/-- A code of the sweep is one that the sweep finds. -/
theorem State.PassOne.mem_of_sweepCode {c : Nat} (hcode : (s.checkPlan b).code = c) (h0 : c ≠ 0) (hseam : c ≠ 0x15) :
    s.checkPlan b ∈ s.sweepFails (s.stakes b) :=
  hpass.mem_of_code (hcode.symm ▸ h0) (hcode.symm ▸ hseam)

theorem State.PassOne.noSeamLacks (hclean : s.sweepFails (s.stakes b) = []) (h : ∀ p, ¬ s.lacksSeam (s.planCycle b) (s.stakes b) p) :
    s.checkPlan b = { code := 0, stake := 0, offset := 0 } := by
  rw [hpass.seams hclean, State.seamVerdict, State.seamFail_none h]
  rfl

theorem State.PassOne.lowestSeam (hclean : s.sweepFails (s.stakes b) = []) {p : Nat} (hp : s.lacksSeam (s.planCycle b) (s.stakes b) p)
    (hlow : ∀ p', p' < p → ¬ s.lacksSeam (s.planCycle b) (s.stakes b) p') : (s.checkPlan b).code = 0x15 ∧ (s.checkPlan b).offset = 0 ∧
      ∃ k ∈ s.stakes b, p ∈ k.ports ∧ (s.checkPlan b).stake = k.idx ∧ ∀ x ∈ s.stakes b, p ∈ x.ports → k.idx ≤ x.idx := by
  obtain ⟨k, hk, hpk, hfail, hleast⟩ := State.seamFail_lowest (s.stakes_sorted b) hp hlow
  rw [hpass.seams hclean, State.seamVerdict, hfail]
  exact ⟨rfl, rfl, k, hk, hpk, rfl, hleast⟩

end

end Sys2Proof.Machine
end

section
/-! The statements of 02_site_plan_contract.md, settled. -/

open Sys2Proof Sys2Proof.Machine

/-- Settles O6: a tick and every command but STAKE_START keep the order (`exec_inOrder`); a stake that starts is the next one, and
becomes the last of the active ones (`State.stakeStart_cases`). -/
theorem stakesInOrder : Obligations.StakesInOrder := by
  intro s t ho h
  cases hq : s.pending with
  | nil =>
    rw [step_nil hq] at h
    cases h
    exact s.idle_keeps.order rfl ho
  | cons c rest =>
    rw [step_cons hq] at h
    have hset : (s.setPending rest).inOrder := ho
    cases hc : startsStake c with
    | false => exact exec_inOrder h hc hset
    | true =>
      cases c with
      | stakeStart idx =>
        unfold exec execStakeStart at h
        dsimp only at h
        split at h
        · cases h
          exact State.stakeStart_inOrder idx hset
        · cases h
      | _ => exact Bool.noConfusion hc

/-- Settles O9: the banks lie in the area `mem`, and the frame of every command says what it leaves (`exec_sameBut`). -/
theorem banksOutOfReach : Obligations.BanksOutOfReach := by
  refine ⟨matches_of_mem_touches, fun c s t hr h => ?_⟩
  have hsame := exec_sameBut h hr
  refine ⟨fun hmem a hlo hhi => hsame _ hmem a ?_, fun hbusy => hsame _ hbusy⟩
  unfold areaOf
  rw [if_neg (by omega), if_neg (by omega), if_neg (by omega), if_neg (by omega)]

/-- Settles O10: a swap that is taken starts the checker (`State.schSwap_taken`), a cancel withdraws (`State.schCancel_withdraws`); what
each shows is read field by field. -/
theorem swapAndCancel : Obligations.SwapAndCancel := by
  intro m s hup
  refine ⟨fun hcheck hpending => ⟨_, rfl, ?_⟩, fun h => congrArg Host.Outcome.next (State.schSwap_busy h),
    fun hpending hlate => ⟨_, rfl, ?_⟩, fun h => congrArg Host.Outcome.next (State.schCancel_late h)⟩
  · rw [State.schSwap_taken hup hcheck hpending]
    obtain ⟨hc, hs, hsch, hrun, hbank⟩ := s.startsCheck_fields { s.sch with check := some { bank := !s.activeBank, atLoad := false } }
    exact ⟨hc, hs, rfl, hrun, hbank, rfl⟩
  · rw [State.schCancel_withdraws hup hpending hlate]
    exact s.withdraw_fields

/-- Settles O11: what the boundary takes over (`State.atBoundary_bounded`) stands in the cycle that begins or in the plan that stops;
a plan that starts begins a cycle (`State.planStart_due`). -/
theorem planRuns : Obligations.PlanRuns := by
  refine ⟨fun m s hup => ?run, fun s hup hrun hruns hnext hend hlt => ?boundary,
    fun s at_ hup hrun hruns hat hnow hlt hctrl hentering hscan hloaded => ?start⟩
  case run =>
    refine ⟨⟨_, congrArg Host.Outcome.next (State.schRun_stop hup), State.bit_setBit_self _ _ _ _ (by decide), rfl, ?_⟩,
      ⟨_, congrArg Host.Outcome.next (State.schRun_go hup), State.bit_setBit_self _ _ _ _ (by decide), ?_, rfl⟩⟩ <;>
    exact State.setBit_reg_ne _ _ _ (by decide)
  case boundary =>
    have h := State.atBoundary_bounded hruns
    have hrunBit : s.atBoundary.bit R.schCtrl F.schCtrl.run = s.bit R.schCtrl F.schCtrl.run := State.bit_of_reg h.ctrl _
    refine ⟨_, congrArg Host.Outcome.next (State.boundary_due hup hrun hruns hnext hend), ?_⟩
    rw [hrunBit, h.entering]
    split
    next hstop =>
      have hsame := State.stopPlan_fields (h.runs.trans hruns)
      have hreg : ∀ o, regWindow o = 5 → o ≠ R.schReserveMin → o ≠ R.schStatus → s.atBoundary.stopPlan.reg o = s.atBoundary.reg o :=
        fun o hw hr hs => (hsame.regs o hw hr hs).trans (State.setBit_reg_ne _ _ _ hs)
      have hstatus {f : Fld} (h1 : Fld.apart F.schStatus.replan f = true) (h2 : Fld.apart F.schStatus.running f = true) :
          s.atBoundary.stopPlan.bit R.schStatus f = s.atBoundary.bit R.schStatus f :=
        (hsame.status f h1).trans (State.bit_setBit_apart _ _ _ _ _ (by decide) h2)
      refine ⟨(State.fld_of_reg (hreg _ rfl (by decide) (by decide)) _).trans h.count, (hstatus (by decide) (by decide)).trans h.bank,
        fun hdue => ?_, fun hgo hnone => ?_, fun _ => hsame.running.trans (State.bit_setBit_self _ _ _ _ (by decide))⟩
      · obtain ⟨hp, hs, hi⟩ := h.swap hdue
        exact ⟨(hstatus (by decide) (by decide)).trans hp, hsame.swapAt.trans hs,
          (State.fld_of_reg (hreg _ rfl (by decide) (by decide)) _).trans hi⟩
      · simp [hgo, hnone] at hstop
    next hgo =>
      have hbegun := s.atBoundary.beginCycle_begun s.cycleEnd
      have hreg := hbegun.regs
      have hstatus := hreg R.schStatus (by decide)
      refine ⟨(State.fld_of_reg (hreg _ (by decide)) _).trans h.count, (State.activeBank_of_reg hstatus).trans h.bank,
        fun hdue => ?_, fun _ _ => ⟨(State.running_of_reg hstatus).trans (h.running.trans hrun), hbegun.next, hbegun.startFld hlt⟩,
        fun hstop => ?_⟩
      · obtain ⟨hp, hs, hi⟩ := h.swap hdue
        exact ⟨(State.bit_of_reg hstatus _).trans hp, hbegun.swapAt.trans hs, (State.fld_of_reg (hreg _ (by decide)) _).trans hi⟩
      · rcases hstop with hstop | hstop <;> simp_all
  case start =>
    obtain ⟨hrunning, hstart, hpower⟩ := s.planBegun_fields
    have hbegun := s.planBegun.beginCycle_begun at_
    refine ⟨_, congrArg Host.Outcome.next (State.planStart_due hup hrun hruns hat hnow hctrl hentering hscan hloaded),
      (State.running_of_reg (hbegun.regs _ (by decide))).trans hrunning, hbegun.next, hbegun.startAt.trans hstart,
      hbegun.startFld hlt, by rw [hbegun.boot]; exact hpower⟩

/-- Settles O12: the start of the next stake is `State.enterStake_active`, its tail `State.tailStart_put`, its end
`State.stakeEnd_active`. -/
theorem stakesRun : Obligations.StakesRun := by
  refine ⟨fun idx s hidx hup hrun hnext hcount hstart hports => ?_, fun p r s hp hr hport hphase htail => ?_,
    fun p r s hp hr hstop => ⟨_, if_pos hp, State.stakeEnd_active hr hstop⟩⟩
  · have hexec : exec (.stakeStart idx) s = .next (s.stakeStart idx) := if_pos hidx
    have hfree := State.stakeStart_free hup hrun hnext hcount hstart hports
    refine ⟨fun hgood => ⟨_, hexec, ?_⟩, fun ⟨a, ha, hue⟩ => ?_⟩
    · rw [hfree, if_neg (by simpa using hgood)]
      exact s.enterStake_active _ _
    · obtain ⟨q, hq, hcold, hcause⟩ :=
        State.eccCritical_seq ((s.touchAll_up (s.stakeAddrs (s.planStake idx))).trans hup)
      rw [if_pos (List.any_eq_true.mpr ⟨a, ha, hue⟩)] at hfree
      exact ⟨_, q, hexec, hfree ▸ hq, hcold, hcause⟩
  · have hnot : r.phase ≠ .tail := by rcases hphase with h | h <;> rw [h] <;> decide
    have hput := State.tailStart_put hr hport hnot htail
    obtain ⟨r', hat, hstake, hexch, htail'⟩ := hput.runAt hr rfl
    refine ⟨_, r', if_pos hp, hat, hstake, ?_, hexch, hput.active⟩
    rcases hphase with h | h <;> rw [htail', h] <;> rfl

/-- Settles O13: the stake's work starts on the state whose latch is clear (`State.triggerStart_latched`), and the start of work leaves
the latches (`State.startWork_latches`). -/
theorem triggeredRunStarts : Obligations.TriggeredRunStarts := by
  intro p r n s hp hr htemplate hphase hinert hready hinhibit hlatch
  have hput : Put r.stake (fun r' => r'.absorbed = n ∧ (r'.phase = .front ∨ r'.phase = .active)) s (s.triggerStart p) := by
    rw [State.triggerStart_latched hr htemplate hphase hinert hready hinhibit hlatch]
    exact State.startWork_put (r := { r with absorbed := n, workAt := some s.now, readyAt := s.now }) s.now rfl (fun _ => ⟨rfl, .inl rfl⟩) (fun _ => ⟨rfl, .inr rfl⟩)
  obtain ⟨r', hat, hstake, habsorbed, hworks⟩ := hput.runAt hr rfl
  have hexec : exec (.triggerRunStart p) s = .next (s.triggerStart p) := if_pos hp
  refine ⟨_, r', hexec, ?_, hat, hstake, habsorbed, hworks⟩
  rw [State.triggerStart_latched hr htemplate hphase hinert hready hinhibit hlatch,
    State.latchOf_of (State.startWork_latches _ _ _)]
  exact State.clearLatch_latchOf _ _ _

/-- Settles O14: the exchange is sent (`State.exchangeStart_sends`), as the procedure gives the command, or as its action fills it in. -/
theorem exchangeStarts : Obligations.ExchangeStarts := by
  intro p r c s hp hr hping hcmd hmay hfits hshort hbudget hdwell
  have hexec : exec (.exchangeStart p) s = .next (s.send r c (r.exchTicks c)) :=
    (if_pos hp).trans (congrArg Host.Outcome.next (State.exchangeStart_sends hr hping hcmd hmay hfits hshort hbudget hdwell))
  cases haction : r.action with
  | none =>
    obtain ⟨hput, hout⟩ := State.send_plain (s := s) (c := c) (r.exchTicks c) haction
    obtain ⟨r', hat, hstake, hexch⟩ := hput.runAt hr rfl
    exact ⟨_, r', _, hexec, hat, hstake, hexch, rfl, rfl, rfl, fun _ => ⟨rfl, hout⟩, fun _ h => absurd h.symm (Option.some_ne_none _)⟩
  | some b =>
    obtain ⟨hput, hout⟩ := State.send_filled (s := s) (c := c) (r.exchTicks c) haction
    obtain ⟨r', hat, hstake, hexch⟩ := hput.runAt hr rfl
    refine ⟨_, r', _, hexec, hat, hstake, hexch, rfl, rfl, rfl, fun h => absurd h (Option.some_ne_none _), fun a h => ?_⟩
    cases h
    exact ⟨rfl, hout⟩

/-- Settles O17: both ways an exchange closes (`State.exchangeEnd_closes`, `State.exchangeTimeout_closes`), and what is left of one that
has closed (`State.closeExch_ends`). -/
theorem exchangeEnds : Obligations.ExchangeEnds := by
  intro p r x s hp hr hport hexch hping hallow
  refine ⟨fun o hlimit hover => ?_, fun o hlimit => ?_⟩
  · obtain ⟨r', hends⟩ := State.closeExch_ends x (r.outcome x o) (r.read x o) hr hport
    exact ⟨_, r', (if_pos hp).trans (congrArg Host.Outcome.next
      (State.exchangeEnd_closes o hr hexch hping hallow hlimit hover)), hends⟩
  · obtain ⟨k, read, hclose⟩ := State.exchangeTimeout_closes o hr hexch hping hallow hlimit
    obtain ⟨r', hends⟩ := State.closeExch_ends x k read hr hport
    exact ⟨_, r', (if_pos hp).trans (congrArg Host.Outcome.next hclose), hends⟩

/-- Settles O18: a slice that works for no stake comes to rest (`State.hfDone_rest`), one on its way up goes on (`State.hfDone_goesOn`), and
one that is up makes its stake active (`State.hfDone_up`); each on HF and on UHF. -/
theorem slicesArrive : Obligations.SlicesArrive := by
  intro n o c st l s hc hpath hdue hmode
  have hexec : ∃ t, exec c s = .next t ∧
      (isHfSlice n = true ∧ t = s.hfDone n o ∨ isUhfSlice n = true ∧ s.uhfHeld n = false ∧ t = s.uhfDone n o) := by
    rcases hc with ⟨hn, rfl⟩ | ⟨hn, hheld, rfl⟩
    · exact ⟨_, if_pos hn, .inl ⟨hn, rfl⟩⟩
    · exact ⟨_, if_pos hn, .inr ⟨hn, hheld, rfl⟩⟩
  obtain ⟨t, hexec, ht⟩ := hexec
  have happart : ¬ (isHfSlice n = true ∧ isUhfSlice n = true) := by
    simp only [isHfSlice, isUhfSlice, Bool.and_eq_true, decide_eq_true_eq]
    omega
  refine ⟨fun hrun hl => ⟨t, hexec, ?rest⟩, fun r p st2 l2 hrun hport hl hst hdelay => ⟨t, hexec, ?goesOn⟩,
    fun r p hrun hport hl hold hup htemplate hphase hports hmissing hhead => ?up⟩
  case rest =>
    subst hl
    rcases ht with ⟨-, rfl⟩ | ⟨-, hheld, rfl⟩
    · exact State.hfDone_rest o hpath hdue hrun hmode
    · exact State.uhfDone_rest o hpath hdue hheld hrun hmode
  case goesOn =>
    subst hl
    rcases ht with ⟨hn, rfl⟩ | ⟨-, hheld, rfl⟩
    · obtain ⟨hst', hpath', hdue'⟩ := State.hfDone_goesOn o hpath hdue hrun hport hmode hst hdelay
      exact ⟨hst', hpath', hdue', fun hn' _ => absurd ⟨hn, hn'⟩ happart⟩
    · obtain ⟨⟨hst', hpath', hdue'⟩, hchan⟩ := State.uhfDone_goesOn o hpath hdue hheld hrun hport hmode hst hdelay
      exact ⟨hst', hpath', hdue', fun _ => hchan⟩
  case up =>
    subst hl
    have hdone : FieldUp s t n p r st := by
      rcases ht with ⟨hn, rfl⟩ | ⟨hn, hheld, rfl⟩
      · obtain ⟨rfl, -⟩ | ⟨-, hn'⟩ := hup
        · exact State.hfDone_up hpath hdue hrun hport hmode hold htemplate hphase hports hmissing hhead
        · exact absurd ⟨hn, hn'⟩ happart
      · obtain ⟨-, hn'⟩ | ⟨rfl, -⟩ := hup
        · exact absurd ⟨hn', hn⟩ happart
        · exact State.uhfDone_up hpath hdue hheld hrun hport hmode htemplate hphase hports hmissing hhead
    obtain ⟨r', hst', hpath', hat, hactive, htime⟩ := hdone
    exact ⟨t, r', hexec, hst', hpath', hat, hactive, htime⟩

/-- Settles O24: the lead that begins (`State.leadStart_asks`), the wait that ends (`State.waitExpired_denied`), and what driving the wires
leaves of them in each mode (`State.driveCxp_arbiter`, `State.gntFall_gnt`). -/
theorem coexWires : Obligations.CoexWires := by
  intro s
  refine ⟨fun idx hidx hup hrun hcount hclass hnew hmode hdue => ?lead, fun p r hp hr hphase hover hmode _ => ?wait,
    fun hmode => ⟨⟨_, rfl, ?rise⟩, ⟨_, rfl, State.gntFall_gnt hmode⟩⟩,
    fun hmode pri => ⟨⟨_, rfl, ?reqRise⟩, ⟨_, rfl, ?reqFall⟩, ⟨_, rfl, ?pri⟩⟩,
    fun hmode => ⟨congrArg Host.Outcome.next (if_pos hmode), congrArg Host.Outcome.next (if_pos hmode)⟩,
    fun hmode => ⟨fun pri => ⟨congrArg Host.Outcome.next (if_pos hmode), congrArg Host.Outcome.next (if_pos hmode)⟩,
      congrArg Host.Outcome.next (if_pos hmode)⟩⟩
  case lead =>
    obtain ⟨hat, hserved⟩ := State.lead_due hdue
    exact ⟨_, if_pos hidx, State.leadStart_asks hup hrun hcount hclass hnew hmode hat hserved⟩
  case wait =>
    obtain ⟨r', hat, hstake, hinert, hidle⟩ := (State.waitExpired_denied hr hphase hover hmode).runAt hr rfl
    exact ⟨_, r', if_pos hp, hat, hstake, hinert, hidle⟩
  case rise =>
    have hnext : s.gntRise = (s.setCxp { s.cxp with gnt := true }).showWires.wakeWaiting := if_neg (not_not_intro hmode)
    rw [hnext, State.wakeWaiting_cxp]
    exact ⟨rfl, rfl⟩
  case reqRise =>
    obtain ⟨hreq, hpri, -⟩ := State.driveCxp_arbiter (s := s.setCxp { s.cxp with req := true, pri := pri }) hmode
    have hnext : s.reqRise pri = (s.setCxp { s.cxp with req := true, pri := pri }).driveCxp.wakeWaiting :=
      if_neg (not_not_intro hmode)
    rw [hnext, State.wakeWaiting_cxp]
    exact ⟨hreq, hpri⟩
  case reqFall =>
    obtain ⟨hreq, -, hgnt⟩ := State.driveCxp_arbiter (s := s.setCxp { s.cxp with req := false, pri := pri }) hmode
    have hnext : s.reqFall pri = (s.setCxp { s.cxp with req := false, pri := pri }).driveCxp.wakeWaiting :=
      if_neg (not_not_intro hmode)
    rw [hnext, State.wakeWaiting_cxp]
    exact ⟨hreq, fun hboot => (hgnt hboot).1 rfl⟩
  case pri =>
    obtain ⟨-, hpri, hgnt⟩ := State.driveCxp_arbiter (s := s.setCxp { s.cxp with pri := true }) hmode
    have hnext : s.priRise = (s.setCxp { s.cxp with pri := true }).driveCxp.wakeWaiting := if_neg (not_not_intro hmode)
    rw [hnext, State.wakeWaiting_cxp]
    exact ⟨hpri, fun hreq hboot => (hgnt hboot).2 hreq rfl⟩

/-- Settles O25: the verdict on what has been read (`State.checkResult_judged`), what follows it (`State.checkResult_pending`,
`State.checkResult_active`, `State.checkResult_bank`), and the swap after a check at load (`State.schSwap_starts`). -/
theorem planChecked : Obligations.PlanChecked := by
  intro c k s hcheck hk
  refine ⟨fun hue => ?clean, fun a hue => ?ue⟩
  case clean =>
    have hread : k = s.planRead (s.endCheck.errsIn (bankBase c.bank) (s.endCheck.planEnd c.bank)) := hk
    have hdone := State.checkDone_clean hcheck hk hue
    have hjudged := k.checkResult_judged c
    have hswap : Swap (k.checkResult c) s.checkDone := hdone ▸ .ite _ _
    have hstatus {f : Fld} (hf : Fld.apart F.schStatus.checking f = true) : k.bit R.schStatus f = s.bit R.schStatus f :=
      hread ▸ s.planRead_status _ hf
    have hbank : k.activeBank = s.activeBank := hstatus (by decide)
    have hnow : k.now = s.now := hread ▸ s.planRead_now _
    have hidle : (k.checkResult c).bit R.schStatus F.schStatus.checking = false := hjudged.checking.trans (hread ▸ s.planRead_checking _)
    obtain ⟨hcode, hstake, hoffset⟩ := (k.checkPlan c.bank).word_fields
    have hresult (f : Fld) : s.checkDone.fld R.schCheckResult f = Word.get (k.checkPlan c.bank).word f :=
      congrArg (Word.get · f) (hswap.result.trans hjudged.result)
    refine ⟨_, rfl, (hresult _).trans hcode, (hresult _).trans hstake, (hresult _).trans hoffset, fun hno => ?_, fun hload hyes hup hfree => ?_,
      fun hpass hload => ?_, fun hpass hload => ?_, fun hfail => ?_⟩
    · rw [hdone, if_neg fun h => absurd ((hno h.1).symm.trans h.2) (by decide)]
      exact ⟨hidle, hjudged.check.trans (hread ▸ s.planRead_check _)⟩
    · rw [hdone, if_pos ⟨hload, hyes⟩]
      exact State.schSwap_starts (hjudged.up.trans ((hread ▸ s.planRead_up _ : k.up = s.up).trans hup)) hidle
        ((hjudged.pending (.inl hload)).trans ((hstatus (by decide)).trans hfree))
    · obtain ⟨hpending, hswapAt, hsame, hid⟩ := State.checkResult_pending hpass hload
      rw [hdone, if_neg fun h => absurd (hload.symm.trans h.1) (by decide)]
      exact ⟨hpending, hnow ▸ hswapAt, hsame.trans hbank, hid⟩
    · obtain ⟨hactive, hloaded, hrun⟩ := State.checkResult_active hpass hload
      refine ⟨(hswap.status _ (by decide)).trans hactive, (hswap.status _ (by decide)).trans hloaded, fun h => ?_⟩
      rw [hswap.startAt, hrun (Eq.trans (hread ▸ s.planRead_ctrl _ (by decide)) h), hnow]
    · exact ⟨(hswap.status _ (by decide)).trans ((hjudged.pending (.inr hfail)).trans (hstatus (by decide))),
        (hswap.status _ (by decide)).trans ((State.checkResult_bank hfail).trans hbank)⟩
  case ue =>
    obtain ⟨l, hdone⟩ := State.checkDone_ue hcheck hue
    refine ⟨_, rfl, fun hload => ?_, fun hload => ?_⟩
    · rw [hdone, if_neg (by rw [hload]; decide)]
      refine ⟨State.bit_setBit_self _ _ _ _ (by decide), s.planRead_check l, ?_, ?_⟩
      · exact (State.bit_setBit_ne _ _ _ _ (by decide)).trans (s.planRead_checking l)
      · exact (State.setBit_reg_ne _ _ _ (by decide)).trans (s.planRead_reg l regWindow_schCheckResult (by decide) (by decide))
    · rw [hdone, if_pos hload]
      exact State.eccCritical_step1 _

/-- Settles O26: the inhibit is noted (`State.setInhibit_begins`) and begins (`State.inhibitOn_runAt`, `State.inhibitOn_uhf`,
`State.inhibitOn_field`). -/
theorem inhibitBegins : Obligations.InhibitBegins := by
  intro a b s hup hnone hab hmode
  have hwires : (wireA a || wireB b) = true := by simpa [wireA, wireB] using hab
  have hsome : (s.channels (wireA a) (wireB b)).inhibited = true := by rw [State.channels_inhibited, hwires, Bool.true_or]
  have hkeeps := s.noted_keeps (wireA a) (wireB b)
  have hmode' := (s.noted_cxpMode (wireA a) (wireB b)).symm ▸ hmode
  have hslice (n : Nat) := hkeeps.slice_eq n
  refine ⟨_, congrArg Host.Outcome.next (State.setInhibit_begins hup hnone hsome), (s.begun_bit _ _ (by decide)).trans hsome,
    (s.begun_bit _ _ (by decide)).trans (s.channels_aInhibit _ _), (s.begun_bit _ _ (by decide)).trans (s.channels_bInhibit _ _),
    State.inhibitOn_restoreAt hmode', s.begun_inhibits _ _, fun hone r hr hradiating => ?work, fun n hn => ?uhf, fun n hn hfield => ?hf⟩
  case work =>
    have hruns := hkeeps.runs_eq
    refine State.inhibitOn_runAt hmode' (fun x hx => ?_) (hruns ▸ hr) hradiating
    rw [hruns] at hx ⊢
    exact ⟨(hkeeps.runAt_eq _).trans (hone x hx).1, (hone x hx).2⟩
  case uhf =>
    rw [← hslice n, ← hkeeps.now_eq]
    exact State.inhibitOn_uhf hmode' hn
  case hf =>
    rw [← hslice n, ← hkeeps.now_eq]
    exact State.inhibitOn_field hmode' hn (hslice n ▸ hfield)

/-- Settles O27: the release (`State.setInhibit_ends`, or `State.setInhibit_same` where the inhibit stays in effect) and the return of
the slices (`State.returning_slice`). -/
theorem inhibitEnds : Obligations.InhibitEnds := by
  refine ⟨fun s hup hsome hlatched => ?release, fun a b s hup hsome hab => ?kept, fun at_ s hat => ⟨fun hdue => ?due, fun hearly =>
    congrArg Host.Outcome.next (State.uhfRestored_early hat hearly)⟩⟩
  case release =>
    have hnone : (s.channels (wireA .low) (wireB .high)).inhibited = false := by
      rw [State.channels_inhibited, hlatched]
      decide
    have hchannels := s.channels_keeps (wireA .low) (wireB .high)
    have hover := (s.channels (wireA .low) (wireB .high)).inhibitOver_keeps
    have hkeeps : Keeps 0x1800000003000000 s (s.channels (wireA .low) (wireB .high)).inhibitOver :=
      (hover.mono rfl).step (v := 0x1000000003000000) rfl rfl (hchannels.mono rfl)
    refine ⟨_, congrArg Host.Outcome.next (State.setInhibit_ends hup hsome hnone), ?_, ?_, hkeeps.runs_eq, hkeeps.slices (.inl rfl) rfl⟩
    · exact (State.bit_of_reg (hover.reg_eq regWindow_cabRfoffStatus) _).trans hnone
    · rw [State.inhibitOver_restoreAt, hchannels.now_eq]
  case kept =>
    have hkeeps := s.channels_keeps (wireA a) (wireB b)
    have hstill : (s.channels (wireA a) (wireB b)).inhibited = true := by
      rw [State.channels_inhibited]
      simpa [wireA, wireB, or_assoc] using hab
    exact ⟨_, congrArg Host.Outcome.next (State.setInhibit_same (State.power_of_up hup) (hstill.trans hsome.symm)), hstill,
      hkeeps.runs_eq, hkeeps.slices (.inl rfl) rfl, s.channels_restoreAt _ _⟩
  case due =>
    exact ⟨_, congrArg Host.Outcome.next (State.uhfRestored_due hat hdue), rfl, fun n hn hoff => State.returning_slice hn hoff⟩

/-- Refutes O29: nothing in it excludes two active stakes of one index (as `StakesInOrder` does of every step). In `twinState` such stakes
stand on ports 1 and 0, both idle until trigger 0; the edge starts the one on port 1, and a running stake is replaced by its index, so that
no stake is left on port 0. -/
theorem not_triggersAndGpio : ¬ Obligations.TriggersAndGpio := by
  intro h
  obtain ⟨⟨hedge, -⟩, -⟩ := h
  obtain ⟨u, hu, -, -, hpairs⟩ :=
    hedge 0 0 { level := true, held := 0 } (.triggerSw 0 0) twinState (.inl ⟨rfl, twinState_up⟩)
  obtain ⟨hstarts, -⟩ := hpairs twinState_loaded 0 twinState_pair
  have hleft : 16 + frontOf (twin 0).inner (twin 0).block (twin 0).stake.group + blkU (twin 0).block +
      tailOf (twin 0).inner (twin 0).block (twin 0).stake.hold (twin 0).stake.resumable + (twin 0).stake.guard ≤
        (twin 0).start + (twin 0).stake.dur - twinState.now := by
    decide +kernel
  obtain ⟨r', hat, -⟩ := hstarts (twin 0) twinState_runAt (by decide) (by decide) (by decide) rfl rfl hleft
  have hnext : u = twinState.triggerSw 0 := (Host.Outcome.next.inj hu).symm
  exact absurd ((hnext ▸ hat).symm.trans twinState_edge) (Option.some_ne_none r')

/-- Settles O33: what a word of a window reads as (`State.hostLoad_clean`, `State.hostLoad_ue`), what a whole word leaves in the pool and
in the active bank (`State.setWord_pool`, `State.hostStore_activeBank`), and the bytes that no write reaches
(`State.viewWrite_byte_out`). -/
theorem hostAccess : Obligations.HostAccess := by
  intro m a s hon ha
  have hplace (hm : m.val < 4) (harea : a < 0x02000000) : s.place m ((0x02000000 + a) / 8 * 8) = .window :=
    State.place_privileged hm (by omega) (by omega)
  have hwrite (hm : m.val < 4) (harea : a < 0x02000000) {l : List Byte} (hl : l.length = 8) :
      s.viewWrite m (0x02000000 + a) l = s.hostStore a l := by
    rw [State.viewWrite_word (hplace hm harea) hon (by omega) hl, State.viewStore, State.viewOf_privileged hm harea]
  refine ⟨fun hm harea hring hawn hclear hgood => ?read, fun hm hlo hhi hview halign hring hawn hclear hgood => ?pitchRead,
    fun hm harea hawn hue => ?readUe, fun l hm harea hl hawn hpool => ?pool, fun l hm hl hlo hhi hactive => ?bank,
    fun l hm harea k hk => ?bytes, fun l d hm hd => ?pitchBytes⟩
  case read =>
    have hload := State.hostLoad_clean hring hawn hclear hgood
    refine ⟨_, congrArg Host.Outcome.next (State.viewRead_word (hplace hm harea) hon (by omega) (State.viewOf_privileged hm harea)), ?_⟩
    rw [hload]
    exact ⟨State.respond_find .., rfl, rfl⟩
  case pitchRead =>
    have hload := State.hostLoad_clean hring hawn hclear hgood
    refine ⟨_, congrArg Host.Outcome.next (State.viewRead_word (State.place_pitch hm (by omega) (by omega)) hon (by omega)
      (State.viewOf_pitch hm hlo hhi hview)), ?_⟩
    rw [hload]
    exact State.respond_find ..
  case readUe =>
    have harea' : a < 0x02000000 := by omega
    have hload := State.hostLoad_ue harea hawn hue
    refine ⟨_, Config.freeWord s.fresh,
      congrArg Host.Outcome.next (State.viewRead_word (hplace hm harea') hon (by omega) (State.viewOf_privileged hm harea')), ?_⟩
    rw [hload]
    refine ⟨State.respond_find .., ?_⟩
    rw [State.respond_fld, State.skip_fld, State.recordUe_count]
  case pool =>
    have hstore := (hwrite hm (by omega) hl).trans (State.hostStore_pool l harea hawn hpool)
    refine ⟨fun hfree => congrArg Host.Outcome.next (hstore.trans (if_neg hfree)), fun hheld => ?_⟩
    have hword := (hstore.trans (if_pos hheld)).trans (s.storeBytes_whole a hl)
    exact ⟨_, congrArg Host.Outcome.next hword, State.word_setWord .., State.setWord_pool _ ha harea⟩
  case bank =>
    refine ⟨_, congrArg Host.Outcome.next ((hwrite hm (by omega) hl).trans (State.hostStore_activeBank l hlo hhi hactive)), ?_, ?_⟩
    · exact (Keeps.setBit (w := 0x2000000000) regWindow_schStatus rfl rfl (Keeps.refl _ s)).sameBut (.inl rfl) _
    · exact State.bit_setBit_self _ _ _ _ (by decide)
  case bytes =>
    obtain ⟨hstart, hbase⟩ := windowStart_privileged hm s
    refine ⟨_, rfl, fun b hb => State.viewWrite_byte_out (State.place_privileged hm (by omega) (by omega)) ?_⟩
    omega
  case pitchBytes =>
    obtain ⟨hstart, hbase⟩ := windowStart_pitch hm s
    refine ⟨_, rfl, fun b hb => State.viewWrite_byte_out (State.place_pitch hm (by omega) (by omega)) ?_⟩
    omega

/-- Settles O38: the request that starts, waits or ends (`State.requestStart_starts`, `State.requestStart_waits`,
`State.requestStart_ends`), and the requests that have waited (`State.requestExpire_requests`). -/
theorem requestsServed : Obligations.RequestsServed := by
  refine ⟨fun p r x f s hport hrun hfirst htemplate hfree hstarted hphase htail hserves hon hf => ?serve, fun q p s hq hport => ?expire⟩
  case serve =>
    have hmay : s.mayServe r x := ⟨htemplate, hfree, hstarted, hphase, htail, hserves⟩
    have hexec : exec (.requestStart p) s = .next (s.requestStart p) := if_pos hport
    rw [hexec, hf]
    refine ⟨fun hwork hfits => ?_, fun hwork hlate => congrArg Host.Outcome.next (State.requestStart_waits hrun hfirst hmay hon hwork hlate),
      fun hinert => ⟨_, rfl, State.requestStart_ends hrun hfirst hmay hon hinert⟩⟩
    obtain ⟨hput, hqueue⟩ := State.requestStart_starts hrun hfirst hmay hon hwork hfits
    obtain ⟨r', hat, hstake, hrequest⟩ := hput.runAt hrun rfl
    exact ⟨_, r', rfl, hat, hstake, hrequest, hqueue⟩
  case expire =>
    refine ⟨_, if_pos ⟨hq, hport⟩, fun x => ?_, fun hnone => State.requestExpire_none fun x hx => ?_⟩
    · rw [State.requestExpire_requests, List.mem_filter, ← State.reqWait, ← Request.waited_iff, Bool.not_eq_true, Bool.not_eq_true']
    · rw [← Bool.not_eq_true, Request.waited_iff]
      rintro ⟨hpitch, hport', hwaited⟩
      exact absurd (hnone x hx hpitch hport') (Nat.not_lt.mpr hwaited)

/-- Settles O55: the header (`State.headerCode_good`), the first stake that fails (`State.checkPlan_first`), the place of the verdict among
what the sweep finds (`State.PassOne.place`), and the seams (`State.PassOne.lowestSeam`). -/
theorem checkerAnswers : Obligations.CheckerAnswers := by
  intro s b all v header cycle count hall hv hheader hcycle hcount
  subst hall hv
  refine ⟨fun h => ?c1, fun h1 h => ?c2, fun h1 h2 h => ?c3, fun before k => ?code, fun h1 h2 h3 => ⟨fun before k after hsplit hpasses hfail =>
    State.checkPlan_first (State.headerCode_good (mt hheader.mpr h1) (mt hcycle.mpr h2) (mt hcount.mpr h3)) hsplit hpasses hfail,
    fun hpasses => ?sweep⟩⟩
  case c1 =>
    have hcode : s.headerCode b = 0x01 := State.headerCode_badHeader (hheader.mp h)
    rw [State.checkPlan_header (by rw [hcode]; decide), hcode]
  case c2 =>
    have hcode : s.headerCode b = 0x02 := State.headerCode_badCycle (mt hheader.mpr h1) (hcycle.mp h)
    rw [State.checkPlan_header (by rw [hcode]; decide), hcode]
  case c3 =>
    have hcode : s.headerCode b = 0x03 := State.headerCode_badCount (mt hheader.mpr h1) (mt hcycle.mpr h2) (hcount.mp h)
    rw [State.checkPlan_header (by rw [hcode]; decide), hcode]
  case code =>
    refine ⟨⟨State.stakeCode_unordered, fun hcode => by_contra fun hordered => (State.stakeCode_ordered hordered).1 hcode⟩, fun hcode => ?_⟩
    obtain ⟨-, hextent, htemplate⟩ := State.stakeCode_ordered (s := s) (b := b) (all := s.stakes b) (mt State.stakeCode_unordered hcode)
    exact ⟨hextent, fun hdur hend hallows => htemplate (by omega) (by rw [hallows]; rfl)⟩
  case sweep =>
    have hpass : s.PassOne b :=
      ⟨State.headerCode_good (mt hheader.mpr h1) (mt hcycle.mpr h2) (mt hcount.mpr h3),
        State.stakesVerdict_none [] _ fun l x m hsplit _ => hpasses l x m hsplit⟩
    refine ⟨fun x hx y hy hidx hxy hyx => ⟨hpass.sharedPort hx hy ⟨hidx, hxy, hyx⟩, fun hunits => ?unit, fun hused hdecoder => ?decoder⟩,
      fun target t => hpass.wheel, fun w => hpass.power, fun hcode => ?overlap, fun hcode => ?wheel,
      fun hcode => State.power_of_code (hpass.mem_of_sweepCode hcode (by decide) (by decide)) hcode,
      fun hpairs hwheel hpower seamless hseamless => ?seams⟩
    case unit =>
      obtain ⟨h0, -, hoffset, hat⟩ := hpass.pair hx hy ⟨hidx, hxy, hyx⟩ (mem_pairCodes.mpr (.inr (.inl ⟨hunits, rfl⟩)))
      exact ⟨h0, hoffset, fun heq => (hat heq).1⟩
    case decoder =>
      obtain ⟨h0, -, hoffset, hat⟩ := hpass.pair hx hy ⟨hidx, hxy, hyx⟩ (mem_pairCodes.mpr (.inr (.inr ⟨⟨hused, hdecoder⟩, rfl⟩)))
      exact ⟨h0, hoffset, fun heq => (hat heq).1⟩
    case overlap =>
      obtain ⟨x, hx, y, hy, ⟨hidx, hxy, hyx⟩, hports, hstake, hoffset⟩ :=
        State.overlap_of_code (hpass.mem_of_sweepCode hcode (by decide) (by decide)) hcode
      exact ⟨x, hx, y, hy, hidx, hports, hxy, hyx, hoffset, hstake⟩
    case wheel =>
      obtain ⟨k, hsum, hstake, hoffset⟩ := State.wheel_of_code (hpass.mem_of_sweepCode hcode (by decide) (by decide)) hcode
      rw [hoffset]
      exact ⟨⟨k.wheelTarget, hsum⟩, hstake⟩
    case seams =>
      have hclean : s.sweepFails (s.stakes b) = [] :=
        State.sweepFails_nil (fun x hx y hy hover => hpairs x hx y hy hover.1 hover.2.1 hover.2.2) hwheel hpower
      exact ⟨fun hnone => hpass.noSeamLacks hclean fun p hp => hnone p ((hseamless p).mpr hp), fun p hp hlow =>
        hpass.lowestSeam hclean ((hseamless p).mp hp) fun p' hlt hp' => hlow p' hlt ((hseamless p').mpr hp')⟩

/-- Settles O56: the ceiling that is refused or taken (`State.ceilWrite_eq`), the power window (`State.powerWindow_over`,
`State.powerWindow_within`), the rails, and a low-power entry from its begin (`State.enter_shown`) to its end
(`State.lowPowerDone_done`). -/
theorem powerStates : Obligations.PowerStates := by
  refine ⟨fun m v new s hup hnew => ⟨fun hunder => ?refused, fun hactive hpending => ?taken⟩,
    fun m mw v s hup => ⟨?window, fun hrun => ?railRuns, fun hrun hlock => ?rail⟩, fun m c p n s hmem => ?enter, fun p s hp hentering => ⟨fun hup hrun hruns hlog hflash => ?done, fun hwaits => ?waits⟩⟩
  case refused =>
    classical
    have hunder' : s.underPeak (clamp 5000 45000 (Word.get v F.pwrCeil.ceilMw)) := hnew ▸ hunder
    exact congrArg Host.Outcome.next ((State.ceilWrite_eq hup v).trans (if_pos hunder'))
  case taken =>
    classical
    have hover : ¬ s.underPeak (clamp 5000 45000 (Word.get v F.pwrCeil.ceilMw)) := by
      rw [← hnew]
      rintro (⟨hloaded, hlt⟩ | ⟨hswap, hlt⟩)
      · exact absurd (hactive hloaded) (Nat.not_le.mpr hlt)
      · exact absurd (hpending hswap) (Nat.not_le.mpr hlt)
    exact ⟨_, congrArg Host.Outcome.next ((State.ceilWrite_eq hup v).trans (if_neg hover)), State.fld_hostWrite v (pwrCeil_writable _),
      fun o ho => s.hostWrite_reg_ne v ho⟩
  case window =>
    exact ⟨_, rfl, State.powerWindow_shows hup mw.isLt,
      (State.powerWindow_step (msk := 0x200000000) _ rfl rfl (Keeps.refl _ s)).runs_eq, State.powerWindow_over hup,
      State.powerWindow_within hup⟩
  case railRuns => exact congrArg Host.Outcome.next (if_pos (by simp [hrun]))
  case rail =>
    obtain ⟨hha, hhb⟩ := pwrHfRail_writable
    exact ⟨_, congrArg Host.Outcome.next (if_neg (by simp [hup, hrun])), State.fld_hostWrite v (hlock.symm ▸ hha),
      State.fld_hostWrite v (hlock.symm ▸ hhb)⟩
  case enter =>
    simp only [List.mem_cons, Prod.mk.injEq, List.not_mem_nil, or_false] at hmem
    rcases hmem with ⟨rfl, rfl, rfl⟩ | ⟨rfl, rfl, rfl⟩
    · exact ⟨fun hdown => congrArg Host.Outcome.next (State.enter_down hdown 1),
        fun hup hnone => ⟨_, rfl, State.enter_shown hup hnone rfl (by decide)⟩⟩
    · exact ⟨fun hdown => congrArg Host.Outcome.next (State.enter_down hdown 2),
        fun hup hnone => ⟨_, rfl, State.enter_shown hup hnone rfl (by decide)⟩⟩
  case done =>
    have hidle := State.not_entryWaits hrun hruns hlog hflash
    obtain ⟨hpower, hnone, hrstout, hdown, hpcie⟩ := State.lowPowerDone_boot hup hp hentering hidle
    have htap : s.lowPowerDone.tap.ir = .idcode := by
      rw [State.lowPowerDone_done hup hentering hidle]
      rfl
    exact ⟨_, rfl, hpower, hnone, hrstout, hdown, hpcie, State.lowPowerDone_slice hup hentering hidle, htap,
      State.lowPowerDone_hibernate hup hentering hidle, State.lowPowerDone_watch hup hentering hidle⟩
  case waits => exact congrArg Host.Outcome.next (State.lowPowerDone_waits hentering hwaits)

end

section
/-! SUPPORT. The samples of a head (Machine/Heads.lean, Machine/HfField.lean, Machine/UhfRadio.lean; R94, R95, R210): how the series of
bad ones goes on, and what a lost head leaves of its stake and its port. -/

namespace Sys2Proof.Machine

/-! ### What a sample shows -/

/-- What a sample shows before it is judged leaves the stakes, and the series of bad samples and the retry timer of its port. -/
structure Shown (p : Nat) (s u : State) : Prop where
  runs : u.runs = s.runs
  badSamples : (u.port p).badSamples = (s.port p).badSamples
  badSince : (u.port p).badSince = (s.port p).badSince
  retryUntil : (u.port p).retryUntil = (s.port p).retryUntil

section
variable {p : Nat} {s t u : State}

theorem Shown.refl (p : Nat) (s : State) : Shown p s s := ⟨rfl, rfl, rfl, rfl⟩

theorem Shown.trans (h : Shown p s t) (g : Shown p t u) : Shown p s u :=
  ⟨g.runs.trans h.runs, g.badSamples.trans h.badSamples, g.badSince.trans h.badSince, g.retryUntil.trans h.retryUntil⟩

theorem Shown.ite {c : Prop} [Decidable c] (h : Shown p s t) (g : Shown p s u) : Shown p s (if c then t else u) := by
  split <;> assumption

theorem Shown.of_port (hruns : u.runs = s.runs) (hport : u.port p = s.port p) : Shown p s u :=
  ⟨hruns, by rw [hport], by rw [hport], by rw [hport]⟩

theorem Shown.of_keeps {w : Nat} (h : Keeps w s u) (h1 : w.testBit 63 = false := by rfl) (hports : w.testBit 8 = false := by rfl)
    (hruns : w.testBit 7 = false := by rfl) : Shown p s u :=
  .of_port (h.runs_eq h1 hruns) (h.port_eq p h1 hports)

theorem Shown.modPort {f : Port → Port} (hbad : ∀ x, (f x).badSamples = x.badSamples) (hsince : ∀ x, (f x).badSince = x.badSince)
    (hretry : ∀ x, (f x).retryUntil = x.retryUntil) : Shown p s (s.modPort p f) := by
  refine ⟨rfl, ?_, ?_, ?_⟩ <;> rw [State.modPort_port_self]
  · exact hbad _
  · exact hsince _
  · exact hretry _

end

/-- The load monitor shows what it measures, and the sample is judged (R94). -/
theorem State.loadSample_judged {s : State} {p : Nat} {r : Run} (o : HeadObs) (hup : s.up = true)
    (hhot : (s.slice (s.server p)).st.hot = true) (hr : s.runAt p = some r) :
    ∃ u, Shown p s u ∧ s.loadSample p o = u.headSample r p o := by
  unfold State.loadSample
  simp only [hup, hhot, hr, Bool.not_true, Bool.false_eq_true, or_self, if_false]
  refine ⟨_, .of_keeps (State.remeasured_step (msk := 0x203016004025C) r _ p _ o rfl rfl (State.stamp_step _ rfl rfl ?_)), rfl⟩
  exact Keeps.setReg (regWindow_hfaDriveStatus _) rfl rfl (Keeps.refl _ s)

/-- What the canceller shows at a sample leaves the series of bad samples (R203). -/
theorem Shown.sjc (s : State) (n p : Nat) (o : SliceObs) : Shown p s ((s.sjcShown n p o).sjcGrown n p) := by
  have hfields (off : Nat) (f g : Fld) (v w : Nat) : Shown p s ((s.setFld off f v).setFld off g w) := .of_port rfl rfl
  have hshown : Shown p s (s.sjcShown n p o) :=
    (hfields _ _ _ _ _).trans
      (.modPort (f := fun x => { x with sjcW := o.sjcW, sjcConverged := o.sjcConverged }) (fun _ => rfl) (fun _ => rfl) fun _ => rfl)
  refine hshown.trans ?_
  unfold State.sjcGrown
  split
  · exact .refl p _
  · refine .ite (.refl p _) (Shown.trans ?_ (.modPort (fun _ => rfl) (fun _ => rfl) fun _ => rfl))
    exact .of_keeps (State.showTerms_step (msk := 0x100000000000200) n rfl rfl (State.modSlice_step _ _ rfl rfl (Keeps.refl _ _)))

/-- The coupler shows what it measures in CARRIER, and the sample is judged (R210). -/
theorem State.gammaSample_judged {s : State} {p : Nat} {r : Run} (o : SliceObs) (hup : s.up = true)
    (hcarrier : (s.slice (s.server p)).st = .carrier) (hr : s.runAt p = some r) :
    ∃ u, Shown p s u ∧ s.gammaSample p o = u.headSample r p o.head := by
  have htx : Shown p s (s.txShown r (s.server p) p o) :=
    .of_keeps (State.txShown_step (msk := 0x80000000200) r _ p o rfl rfl (Keeps.refl _ s))
  unfold State.gammaSample
  simp only [hup, hcarrier, hr, Bool.not_true, Bool.false_eq_true, ne_eq, not_true_eq_false, or_self, if_false]
  exact ⟨_, htx.trans (.ite (.refl p _) (.sjc _ _ p o)), rfl⟩

/-! ### The series of bad samples -/

theorem State.headSample_good {s : State} (r : Run) {p : Nat} {o : HeadObs} (hgood : headGone (headClass p o) = false) :
    s.headSample r p o = s.modPort p fun x => { x with badSamples := 0 } := by
  unfold State.headSample
  simp only [hgood, Bool.not_false, if_true]

theorem State.headSample_bad {s : State} (r : Run) {p : Nat} {o : HeadObs} (hbad : headGone (headClass p o) = true)
    (hfew : (s.port p).badSamples < 3) :
    s.headSample r p o = s.modPort p fun x => { x with badSamples := x.badSamples + 1, badSince := s.badFrom p } := by
  have hcount : (s.port p).badSamples + 1 < 4 := by omega
  unfold State.headSample
  simp only [hbad, hcount, Bool.not_true, Bool.false_eq_true, if_false, if_true]

/-- The fourth bad sample running takes the head for lost, as from the first of them (R94, R95). -/
theorem State.headSample_fourth {s : State} {r : Run} {p : Nat} {o : HeadObs} (hbad : headGone (headClass p o) = true)
    (hmany : 3 ≤ (s.port p).badSamples) (hretry : (s.port p).retryUntil = none) (htemplate : r.template ≠ 0x21) :
    ∃ u : State, u.runs = s.runs ∧ s.headSample r p o = u.headLost r p (s.port p).badSince (headClass p o) := by
  have hcount : ¬ (s.port p).badSamples + 1 < 4 := by omega
  have hsince : s.badFrom p = (s.port p).badSince := if_neg (by omega)
  unfold State.headSample
  simp only [hbad, hcount, hretry, htemplate, hsince, Bool.not_true, Bool.false_eq_true, false_and, Option.isSome_none, if_false]
  refine ⟨_, ?_, rfl⟩
  exact (Measured.showHead 0 _ p o true).runs

/-! ### A lost head -/

/-- The stake of a lost head has no radio action any more. -/
def State.lostRadio (s : State) (r : Run) (p : Nat) : State :=
  (s.cutExch r .headAbsent).modRun p fun x => { x with inert := some .headAbsent, lastStatus := .headAbsent }

/-- The ports of its stake hold no field, and its own waits for the retry timer. -/
def State.lostPorts (s : State) (r : Run) (p since : Nat) : State :=
  (s.each r.stake.ports fun s q => s.modPort q fun x => { x with hold := none }).modPort p fun x => { x with
    retryUntil := some (since + r.retryTicks p), deciding := false, badSamples := 0 }

/-- Between the end of the radio action and the ports only the slices change, and after them come only packets and save records. -/
theorem State.headLost_parts (s : State) (r : Run) (p since cls : Nat) :
    ∃ u, Keeps 0x200 (s.lostRadio r p) u ∧ Keeps 0x202006004041C (u.lostPorts r p since) (s.headLost r p since cls) := by
  refine ⟨(s.lostRadio r p).each (r.stake.ports.map (s.lostRadio r p).server) fun s n =>
    s.darkBy n (if isHf n then s.now + 200 else since + 200), ?_, ?_⟩
  · exact Keeps.each rfl (Keeps.refl _ _) fun u n => State.darkBy_step n _ rfl rfl (Keeps.refl _ u)
  · exact State.dropPortRecords_step _ rfl rfl (State.health_step _ _ _ _ _ rfl rfl
      (State.event_step _ _ _ _ _ _ _ rfl rfl (Keeps.refl _ _)))

theorem State.lostPorts_runs (s : State) (r : Run) (p since : Nat) : (s.lostPorts r p since).runs = s.runs :=
  (State.modPort_step (msk := 0x100) _ _ rfl rfl (Keeps.each rfl (Keeps.refl _ s)
    fun u q => State.modPort_step q _ rfl rfl (Keeps.refl _ u))).runs_eq

theorem State.lostPorts_retry (s : State) (r : Run) (p since : Nat) :
    ((s.lostPorts r p since).port p).retryUntil = some (since + r.retryTicks p) := by
  unfold State.lostPorts
  rw [State.modPort_port_self]

theorem State.lostPorts_hold (s : State) {r : Run} {p : Nat} (since : Nat) (hp : p ∈ r.stake.ports) :
    ((s.lostPorts r p since).port p).hold = none := by
  unfold State.lostPorts
  rw [State.modPort_port_self]
  refine State.each_mem (P := fun u q => (u.port q).hold = none) (fun u q => ?_) (fun u q q' h => ?_) hp s
  · rw [State.modPort_port_self]
  · rw [State.modPort_port]
    split
    · rfl
    · exact h

theorem State.headLost_put {s : State} {r : Run} {p : Nat} (since cls : Nat) (hr : s.runAt p = some r) :
    Put r.stake (fun r' => r'.inert = some .headAbsent ∧ r'.exch = none) s (s.headLost r p since cls) := by
  obtain ⟨u, hdark, hpackets⟩ := s.headLost_parts r p since cls
  have hcut := State.cutExch_put (s := s) (r := r) .headAbsent
  obtain ⟨r1, hat, hstake, hexch, -⟩ := hcut.runAt hr rfl
  have hradio : Put r.stake (fun r' => r'.inert = some .headAbsent ∧ r'.exch = none) s (s.lostRadio r p) :=
    hcut.after (State.modRun_put hat hstake rfl ⟨rfl, hexch⟩)
  exact hradio.keep (hpackets.runs_eq.trans ((u.lostPorts_runs r p since).trans hdark.runs_eq))

theorem State.headLost_port {s : State} {r : Run} {p : Nat} (since cls : Nat) (hp : p ∈ r.stake.ports) :
    ((s.headLost r p since cls).port p).retryUntil = some (since + r.retryTicks p) ∧
      ((s.headLost r p since cls).port p).hold = none := by
  obtain ⟨u, -, hpackets⟩ := s.headLost_parts r p since cls
  rw [hpackets.port_eq p]
  exact ⟨u.lostPorts_retry r p since, u.lostPorts_hold since hp⟩

theorem State.runAt_ports {s : State} {p : Nat} {r : Run} (hr : s.runAt p = some r) : p ∈ r.stake.ports :=
  of_decide_eq_true (List.find?_some (p := fun x : Run => decide (p ∈ x.stake.ports)) hr)

/-! ### The retry timer (R95) -/

theorem State.retryOver_expired {s : State} {p at_ : Nat} (hretry : (s.port p).retryUntil = some at_) (hdue : at_ ≤ s.now) :
    s.retryOver p = s.modPort p fun x => { x with retryUntil := none, deciding := true } := by
  unfold State.retryOver
  rw [hretry]
  exact if_pos hdue

theorem State.retryOver_runs {s : State} {p at_ : Nat} (hretry : (s.port p).retryUntil = some at_) (hearly : s.now < at_) :
    s.retryOver p = s := by
  unfold State.retryOver
  rw [hretry]
  exact if_neg (Nat.not_le.mpr hearly)

end Sys2Proof.Machine
end

section
/-! SUPPORT. Cancellation (Machine/HfField.lean, R85 to R88): the step of a coefficient, and the adaptation of a port's four. -/

namespace Sys2Proof.Machine

/-! ### The step of one part of a coefficient -/

/-- A step that is a whole number of codes, and stays in the format, is exact. -/
theorem adaptPart_exact (seed : Nat) {shift : Nat} {c inc : Int} (hwhole : inc % 2 ^ (22 + shift) = 0)
    (hlow : -2048 ≤ c + inc / 2 ^ (22 + shift)) (hhigh : c + inc / 2 ^ (22 + shift) ≤ 2047) :
    adaptPart seed shift c inc = c + inc / 2 ^ (22 + shift) := by
  unfold adaptPart
  dsimp only
  rw [if_pos hwhole, if_pos ⟨hlow, hhigh⟩]

/-! ### What the receiver keeps of its input, and the drives of the neighbours (R85, R86) -/

theorem Run.cancelled_enabled {r : Run} {p : Nat} (x : Int × Int) (d : Nat → Int × Int)
    (h : r.bit (R.hfaCancelCfg p) F.hfaCancelCfg.enable = true) :
    r.cancelled p x d =
      (2048 * x.1 - ((List.range 4).map fun j => (cmul (r.coef p j) (d j)).1).sum,
       2048 * x.2 - ((List.range 4).map fun j => (cmul (r.coef p j) (d j)).2).sum) := by
  have hfold (z : Nat → Int × Int) (l : List Nat) : ∀ y : Int × Int,
      l.foldl (fun y j => (y.1 - (z j).1, y.2 - (z j).2)) y =
        (y.1 - (l.map fun j => (z j).1).sum, y.2 - (l.map fun j => (z j).2).sum) := by
    induction l with
    | nil => simp
    | cons j l ih =>
      intro y
      rw [List.foldl_cons, ih, List.map_cons, List.map_cons, List.sum_cons, List.sum_cons, Int.sub_sub, Int.sub_sub]
  unfold Run.cancelled
  rw [if_pos h]
  exact hfold (fun j => cmul (r.coef p j) (d j)) (List.range 4) _

theorem State.driveOf_nowhere {s : State} {p j : Nat} (left : List Nat) (h : neighbourAt p j = none) :
    s.driveOf p left j = (0, 0) := by
  unfold State.driveOf
  rw [h]

theorem State.driveOf_neighbour {s : State} {p j q : Nat} (left : List Nat) (h : neighbourAt p j = some q) :
    s.driveOf p left j = if s.drives q then s.driveNow q (left.getD j 2048) else (0, 0) := by
  unfold State.driveOf
  rw [h]

/-! ### The four coefficients of a port (R87) -/

/-- The four coefficients of a port have registers of their own. -/
theorem hfaCancelCoef_inj {p i j : Nat} (hp : p < 33) (hi : i < 4) (hj : j < 4) (h : R.hfaCancelCoef p i = R.hfaCancelCoef p j) :
    i = j := by
  unfold R.hfaCancelCoef famOff2 at h
  rw [if_pos ⟨hp, hi⟩, if_pos ⟨hp, hj⟩] at h
  omega

/-- Coefficient j of a port after its step, from the word that held it. -/
def State.coefStep (s : State) (r : Run) (p : Nat) (y : Int × Int) (left : List Nat) (j : Nat) (w : Word) : Word :=
  let z := cmul y ((s.driveOf p left j).1, -(s.driveOf p left j).2)
  Word.put (Word.put w F.hfaCancelCoef.re
      (BitVec.ofInt 12 (adaptPart (s.fresh + 4 * j) (r.muShift p) (coefPart w F.hfaCancelCoef.re) z.1)).toNat)
    F.hfaCancelCoef.im
      (BitVec.ofInt 12 (adaptPart (s.fresh + 4 * j + 2) (r.muShift p) (coefPart w F.hfaCancelCoef.im) z.2)).toNat

theorem State.coefStep_re (s : State) (r : Run) (p : Nat) (y : Int × Int) (left : List Nat) (j : Nat) (w : Word) :
    Word.get (s.coefStep r p y left j w) F.hfaCancelCoef.re =
      (BitVec.ofInt 12 (adaptPart (s.fresh + 4 * j) (r.muShift p) (coefPart w F.hfaCancelCoef.re)
        (y.1 * (s.driveOf p left j).1 + y.2 * (s.driveOf p left j).2))).toNat := by
  unfold State.coefStep cmul
  rw [Word.get_put_apart _ _ _ _ rfl rfl, Word.get_put_self _ _ _ rfl, Int.mul_neg, Int.sub_neg]
  exact Nat.mod_eq_of_lt (BitVec.isLt _)

theorem State.coefStep_im (s : State) (r : Run) (p : Nat) (y : Int × Int) (left : List Nat) (j : Nat) (w : Word) :
    Word.get (s.coefStep r p y left j w) F.hfaCancelCoef.im =
      (BitVec.ofInt 12 (adaptPart (s.fresh + 4 * j + 2) (r.muShift p) (coefPart w F.hfaCancelCoef.im)
        (y.2 * (s.driveOf p left j).1 - y.1 * (s.driveOf p left j).2))).toNat := by
  have hturn (a b : Int) : a * -(s.driveOf p left j).2 + b = b - a * (s.driveOf p left j).2 := by
    rw [Int.mul_neg, Int.add_comm]
    rfl
  unfold State.coefStep cmul
  rw [Word.get_put_self _ _ _ rfl, hturn]
  exact Nat.mod_eq_of_lt (BitVec.isLt _)

/-- A step of coefficient i leaves coefficient j, and one whose neighbour does not drive leaves its own as well. -/
theorem State.adaptCoef_look (s : State) (r : Run) {p : Nat} (y : Int × Int) (left : List Nat) (cfg : SMap Word) {i j : Nat}
    (hp : p < 33) (hi : i < 4) (hj : j < 4) :
    SMap.look (resetWord (R.hfaCancelCoef p j)) (s.adaptCoef r p y left cfg i) (R.hfaCancelCoef p j) =
      if i = j ∧ s.driveOf p left j ≠ (0, 0) then
        s.coefStep r p y left j (SMap.look (resetWord (R.hfaCancelCoef p j)) cfg (R.hfaCancelCoef p j))
      else SMap.look (resetWord (R.hfaCancelCoef p j)) cfg (R.hfaCancelCoef p j) := by
  unfold State.adaptCoef
  dsimp only
  by_cases hij : i = j
  · subst hij
    by_cases hdrive : s.driveOf p left i = (0, 0)
    · rw [if_pos hdrive, if_neg (not_and_of_not_right _ (not_not_intro hdrive))]
    · rw [if_neg hdrive, if_pos ⟨rfl, hdrive⟩, SMap.look_put_self]
      rfl
  · rw [if_neg (not_and_of_not_left (s.driveOf p left j ≠ (0, 0)) hij)]
    split
    · rfl
    · exact SMap.look_put_ne _ _ _ _ _ fun h => hij (hfaCancelCoef_inj hp hj hi h).symm

/-- Of the four steps a coefficient takes its own. -/
theorem State.adaptCoefs_look (s : State) (r : Run) {p : Nat} (y : Int × Int) (left : List Nat) (cfg : SMap Word) {j : Nat}
    (hp : p < 33) (hj : j < 4) :
    SMap.look (resetWord (R.hfaCancelCoef p j)) ((List.range 4).foldl (s.adaptCoef r p y left) cfg) (R.hfaCancelCoef p j) =
      if s.driveOf p left j ≠ (0, 0) then
        s.coefStep r p y left j (SMap.look (resetWord (R.hfaCancelCoef p j)) cfg (R.hfaCancelCoef p j))
      else SMap.look (resetWord (R.hfaCancelCoef p j)) cfg (R.hfaCancelCoef p j) := by
  have hown (m : SMap Word) := s.adaptCoef_look r y left m hp hj hj
  have hother (m : SMap Word) {i : Nat} (hi : i < 4) (hij : i ≠ j) :=
    (s.adaptCoef_look r y left m hp hi hj).trans (if_neg fun h => hij h.1)
  simp only [true_and] at hown
  simp only [List.range, List.range.loop, List.foldl_cons, List.foldl_nil]
  obtain rfl | rfl | rfl | rfl : j = 0 ∨ j = 1 ∨ j = 2 ∨ j = 3 := by omega
  all_goals simp [hown, hother]

/-- Outside the quiet interval nothing moves. -/
theorem State.cancelAdapt_outside {s : State} {p : Nat} {r : Run} {e : Exch} (x : Int × Int) (left : List Nat)
    (hr : s.runAt p = some r) (he : r.exch = some e) (hquiet : r.quietStep e s.now = none) : s.cancelAdapt p x left = s := by
  unfold State.cancelAdapt
  simp only [hr, he, hquiet]

/-- A stake whose port has adapted in step k of the quiet interval. -/
def State.adapted (s : State) (r : Run) (e : Exch) (p : Nat) (x : Int × Int) (left : List Nat) (k : Nat) : Run :=
  { r with
    cfg := (List.range 4).foldl (s.adaptCoef r p (r.cancelled p x (s.driveOf p left)) left) r.cfg
    exch := some { e with adapted := SMap.ins p (k + 1) e.adapted } }

theorem State.cancelAdapt_adapts {s : State} {p k : Nat} {r : Run} {e : Exch} (x : Int × Int) (left : List Nat)
    (hr : s.runAt p = some r) (he : r.exch = some e) (hquiet : r.quietStep e s.now = some k) (honce : SMap.look 0 e.adapted p ≤ k)
    (hthere : p ∉ r.missing) (hadapt : r.bit (R.hfaCancelCfg p) F.hfaCancelCfg.adapt = true) :
    s.cancelAdapt p x left = (s.skip 16).putRun (s.adapted r e p x left k) := by
  unfold State.cancelAdapt
  simp only [hr, he, hquiet, hadapt, hthere, Nat.not_lt.mpr honce, Bool.not_true, Bool.false_eq_true, or_self, if_false]
  rfl

theorem State.adapted_driven {s : State} {r : Run} {p : Nat} (e : Exch) (x : Int × Int) {left : List Nat} (k : Nat) {j : Nat}
    (hp : p < 33) (hj : j < 4) (hdrive : s.driveOf p left j ≠ (0, 0)) :
    (s.adapted r e p x left k).reg (R.hfaCancelCoef p j) =
      s.coefStep r p (r.cancelled p x (s.driveOf p left)) left j (r.reg (R.hfaCancelCoef p j)) :=
  (s.adaptCoefs_look r _ left r.cfg hp hj).trans (if_pos hdrive)

theorem State.adapted_still {s : State} {r : Run} {p : Nat} (e : Exch) (x : Int × Int) {left : List Nat} (k : Nat) {j : Nat}
    (hp : p < 33) (hj : j < 4) (hdrive : s.driveOf p left j = (0, 0)) :
    (s.adapted r e p x left k).coef p j = r.coef p j := by
  have hreg : (s.adapted r e p x left k).reg (R.hfaCancelCoef p j) = r.reg (R.hfaCancelCoef p j) :=
    (s.adaptCoefs_look r _ left r.cfg hp hj).trans (if_neg (not_not_intro hdrive))
  exact congrArg (fun w => (coefPart w F.hfaCancelCoef.re, coefPart w F.hfaCancelCoef.im)) hreg

/-! ### A reload (R88) -/

theorem State.cancelReload_noted {s : State} {p : Nat} (hup : s.up = true) (hp : p ≠ 32) :
    ((s.cancelReload p).port p).reloadCoef = true ∧ (s.cancelReload p).bit (R.hfaCancelCfg p) F.hfaCancelCfg.reload = true := by
  unfold State.cancelReload
  dsimp only
  rw [if_neg (by simp [hup, hp])]
  constructor
  · rw [State.modPort_port_self]
  · exact State.bit_setBit_self _ _ _ _ rfl

theorem State.cancelReload_spare (s : State) : s.cancelReload 32 = s := if_pos (.inr rfl)

end Sys2Proof.Machine
end

section
/-! The statements of 03_hf_field_array.md, settled. -/

open Sys2Proof Sys2Proof.Machine

/-- Settles O19: a sample is shown and then judged (`State.loadSample_judged`, `State.gammaSample_judged`); a good one ends the series,
a bad one counts, and the fourth loses the head (`State.headSample_fourth`, `State.headLost_put`, `State.headLost_port`). -/
theorem headSamples : Obligations.HeadSamples := by
  refine ⟨fun p o c r s hup hr hc => ?sample, fun p at_ s hp hretry => ⟨fun hdue => ?expired, fun hearly => ?runs⟩⟩
  case sample =>
    have hjudged : ∃ u, Shown p s u ∧ exec c s = .next (u.headSample r p o.head) := by
      rcases hc with ⟨hport, hhot, rfl⟩ | ⟨hport, hcarrier, rfl⟩
      · obtain ⟨u, hshown, heq⟩ := State.loadSample_judged o.head hup hhot hr
        exact ⟨u, hshown, heq ▸ if_pos hport⟩
      · obtain ⟨u, hshown, heq⟩ := State.gammaSample_judged o hup hcarrier hr
        exact ⟨u, hshown, heq ▸ if_pos hport⟩
    obtain ⟨u, hshown, hexec⟩ := hjudged
    refine ⟨fun hgood => ⟨_, hexec, ?_⟩, fun hbad hfew => ⟨_, hexec, ?_⟩, fun hbad hmany hretry htemplate => ?_⟩
    · rw [State.headSample_good r hgood, State.modPort_port_self]
      exact ⟨rfl, hshown.runs⟩
    · rw [State.headSample_bad r hbad (hshown.badSamples ▸ hfew), State.modPort_port_self]
      exact ⟨congrArg (· + 1) hshown.badSamples, hshown.runs⟩
    · obtain ⟨v, hruns, hlost⟩ := State.headSample_fourth hbad (hshown.badSamples ▸ hmany) (hshown.retryUntil.trans hretry) htemplate
      rw [hlost, hshown.badSince] at hexec
      have hv : v.runAt p = some r := (congrArg (List.find? _) (hruns.trans hshown.runs)).trans hr
      obtain ⟨r', hat, -, hinert, hexch⟩ := (State.headLost_put _ _ hv).runAt hv rfl
      exact ⟨_, r', hexec, hat, hinert, hexch, State.headLost_port _ _ (State.runAt_ports hr)⟩
  case expired =>
    refine ⟨_, if_pos hp, ?_⟩
    rw [State.retryOver_expired hretry hdue, State.modPort_port_self]
    exact ⟨rfl, rfl⟩
  case runs => exact (if_pos hp).trans (congrArg Host.Outcome.next (State.retryOver_runs hretry hearly))

/-- Settles O20: each coefficient takes its own step of the four (`State.adaptCoefs_look`), the step is exact in the format
(`adaptPart_exact`), and a reload is noted (`State.cancelReload_noted`). -/
theorem cancelCoefficients : Obligations.CancelCoefficients := by
  refine ⟨fun p x left r e s hp hr he => ⟨fun k hquiet honce hthere hadapt => ?adapts, fun hquiet => ?outside⟩,
    fun p x d r henable => Run.cancelled_enabled x d henable,
    fun p left j s => ⟨State.driveOf_nowhere left, fun q hq hstill => ?still, fun q hq hdrives => ?drives⟩,
    fun seed shift c inc hwhole hlow hhigh => adaptPart_exact seed hwhole hlow hhigh,
    fun m p s hp hup => ⟨fun hport => ⟨_, if_pos hp, State.cancelReload_noted hup hport⟩, fun hspare => ?spare⟩⟩
  case adapts =>
    have hslice : p < 33 := Nat.lt_of_lt_of_le (of_decide_eq_true hp) (by decide)
    let r1 := s.adapted r e p x left k
    have hexec : exec (.cancelAdapt p x left) s = .next ((s.skip 16).putRun r1) :=
      (if_pos hp).trans (congrArg Host.Outcome.next (State.cancelAdapt_adapts x left hr he hquiet honce hthere hadapt))
    obtain ⟨_, hat, -, rfl⟩ :=
      (Put.of (k := r.stake) (P := (· = r1)) r1 rfl rfl rfl : Put _ _ s ((s.skip 16).putRun r1)).runAt hr rfl
    refine ⟨_, _, _, hexec, hat, rfl, rfl, ?_, fun j hj => ⟨fun hdrive => ?_, State.adapted_still e x k hslice hj⟩⟩
    · rw [SMap.look_ins, if_pos rfl]
    · have hstep := congrArg Word.get (State.adapted_driven (r := r) e x k hslice hj hdrive)
      exact ⟨(congrFun hstep _).trans (State.coefStep_re ..), (congrFun hstep _).trans (State.coefStep_im ..)⟩
  case outside => exact (if_pos hp).trans (congrArg Host.Outcome.next (State.cancelAdapt_outside x left hr he hquiet))
  case still => rw [State.driveOf_neighbour left hq, hstill]; rfl
  case drives => rw [State.driveOf_neighbour left hq, hdrives]; rfl
  case spare =>
    subst hspare
    exact congrArg Host.Outcome.next s.cancelReload_spare

end

section
/-! SUPPORT. The verdict of the check unit of an exchange (Machine/Exchange.lean; R112, R248, R249, R252). -/

namespace Sys2Proof.Machine

/-! ### The result of a unit (R252) -/

theorem State.chkResult_runs (s : State) (n port result : Nat) (pass empty : Bool) :
    (s.chkResult n port result pass empty).runs = s.runs := by
  unfold State.chkResult
  dsimp only
  split <;> rfl

/-- RESULT shows the result: neither the status of the unit nor the count of failures stands in its place. -/
theorem State.chkResult_result {n : Nat} (hn : n < 48) (s : State) (port result : Nat) (pass empty : Bool) :
    (s.chkResult n port result pass empty).reg (R.chkResult n) = BitVec.ofNat 64 result := by
  have hstatus : R.chkResult n ≠ R.chkStatus n := by
    simp only [R.chkResult, R.chkStatus, famOff, if_pos hn]
    omega
  have hcount : R.chkResult n ≠ R.chkFailCnt := by
    simp only [R.chkResult, R.chkFailCnt, famOff, if_pos hn]
    omega
  unfold State.chkResult
  dsimp only
  split
  · rw [State.setReg_reg_ne _ _ hstatus, State.setReg_reg_self]
  · rw [State.bump, State.setFld_reg_ne _ _ _ hcount, State.setReg_reg_ne _ _ hstatus, State.setReg_reg_self]

/-- CHK_FAIL_CNT counts a failure, and nothing else. -/
theorem State.chkResult_failCnt {n : Nat} (hn : n < 48) (s : State) (port result : Nat) (pass empty : Bool) :
    (s.chkResult n port result pass empty).fld R.chkFailCnt F.chkFailCnt.count =
      (s.fld R.chkFailCnt F.chkFailCnt.count + if pass then 0 else 1) % 2 ^ 32 := by
  have hresult : R.chkFailCnt ≠ R.chkResult n := by
    simp only [R.chkResult, R.chkFailCnt, famOff, if_pos hn]
    omega
  have hstatus : R.chkFailCnt ≠ R.chkStatus n := by
    simp only [R.chkStatus, R.chkFailCnt, famOff, if_pos hn]
    omega
  unfold State.chkResult
  cases pass
  · simp only [Bool.false_eq_true, if_false]
    rw [State.fld_bump_self _ _ _ rfl, State.fld_setReg_ne _ _ _ hstatus, State.fld_setReg_ne _ _ _ hresult]
    rfl
  · simp only [if_true]
    rw [State.fld_setReg_ne _ _ _ hstatus, State.fld_setReg_ne _ _ _ hresult, Nat.add_zero]
    exact (Nat.mod_eq_of_lt (Word.get_lt _ F.chkFailCnt.count)).symm

/-! ### The verdict -/

/-- What the unit computes over the span, the UID prefix of the command before it (R112, R248). -/
def Exch.result (x : Exch) (cfg : CrcCfg) (span : List Bool) : Nat := crcOf cfg (prefixBits x.cmd ++ span)

/-- The verdict: the span is not empty, and the result is the field received. -/
def Exch.passes (x : Exch) (cfg : CrcCfg) (span : List Bool) (field : Word) : Bool :=
  !span.isEmpty && decide (x.result cfg span = field.toNat)

/-- The exchange with its verdict, and with the bits that the unit was fed. -/
def Exch.judged (x : Exch) (cfg : CrcCfg) (span : List Bool) (field : Word) : Exch :=
  { x with verdict := some (x.passes cfg span field)
           fed := span ++ (List.range cfg.w).map fun i => field.getLsbD i }

/-- The unit judges a reply that is not a Wide Reply's. -/
theorem State.checkVerdict_judges {s : State} {p : Nat} {r : Run} {x : Exch} {cfg : CrcCfg} (span : List Bool) (field : Word)
    (hr : s.runAt p = some r) (hexch : r.exch = some x) (hseen : x.seen.isSome = true) (hopen : x.verdict = none)
    (hnarrow : ∀ a n, x.cmd ≠ .kReadWide a n) (hpreset : r.preset x.cmd = some cfg) :
    s.checkVerdict p span field =
      (s.chkResult (r.unit false) r.port (x.result cfg span) (x.passes cfg span field)
        (span.isEmpty && (prefixBits x.cmd).isEmpty)).putRun { r with exch := some (x.judged cfg span field) } := by
  have hdue : ¬ (x.seen.isNone = true ∨ x.verdict.isSome = true) := by
    simp [hopen, Option.isSome_iff_ne_none.mp hseen]
  unfold State.checkVerdict
  -- `hnarrow` picks the branch of the commands whose replies are not Wide Replies.
  simp only [hr, hexch, if_neg hdue, hpreset]
  rfl

end Sys2Proof.Machine
end

section
/-! SUPPORT. The entries of the failure budget, and the loads of key slots (Machine/Reports.lean, Machine/Exchange.lean, Machine/Keys.lean; R126,
R289, R291, R365). -/

namespace Sys2Proof.Machine

/-! ### The failure budget (R126) -/

theorem State.budgetClear_entry (s : State) (q : Nat) (id : BitVec 128) : (s.budgetClear q id).budgetEntry q id = none := by
  refine List.find?_eq_none.mpr fun e he => ?_
  have hother := (List.mem_filter.mp he).2
  simpa only [Bool.not_eq_true', Bool.not_eq_true] using hother

/-- The window of an entry is over: it clears. -/
theorem State.budgetExpire_due {s : State} {q : Nat} {id : BitVec 128} {e : BudgetEntry} (he : s.budgetEntry q id = some e)
    (hover : e.openedAt + sTicks (max 60 (s.cfg R.secKrvBudget F.secKrvBudget.windowS)) ≤ s.now) :
    s.budgetExpire q id = s.budgetClear q id := by
  simp only [State.budgetExpire, he, if_pos hover]

/-- The window of an entry is not over: the entry stands. -/
theorem State.budgetExpire_early {s : State} {q : Nat} {id : BitVec 128} {e : BudgetEntry} (he : s.budgetEntry q id = some e)
    (hearly : s.now < e.openedAt + sTicks (max 60 (s.cfg R.secKrvBudget F.secKrvBudget.windowS))) : s.budgetExpire q id = s := by
  simp only [State.budgetExpire, he, if_neg (Nat.not_le.mpr hearly)]

/-! ### The key that the data registers spell (R291, R365) -/

/-- The least significant word comes first. -/
theorem State.dataValue_word (s : State) (pitch : Option Nat) {long : Bool} {i : Nat} (hi : i < 4) (hlong : long = true ∨ i < 2) :
    ((s.dataValue pitch long) >>> (64 * i)).setWidth 64 = SMap.look 0 s.sec.keyData (dataKey pitch i) := by
  have hword (j : Nat) := (SMap.look 0 s.sec.keyData (dataKey pitch j)).isLt
  have h0 := hword 0
  have h1 := hword 1
  have h2 := hword 2
  have h3 := hword 3
  apply BitVec.eq_of_toNat_eq
  simp only [State.dataValue, BitVec.toNat_setWidth, BitVec.toNat_ushiftRight, BitVec.toNat_ofNat, Nat.shiftRight_eq_div_pow]
  cases long
  · have hi2 : i < 2 := by simpa using hlong
    interval_cases i <;> simp only [Bool.false_eq_true, if_false] <;> omega
  · interval_cases i <;> simp only [if_true] <;> omega

/-- A 128-bit key has a zero high half (notes/assumptions/44.md). -/
theorem State.dataValue_high (s : State) (pitch : Option Nat) : (s.dataValue pitch false) >>> 128 = 0 := by
  have h0 := (SMap.look 0 s.sec.keyData (dataKey pitch 0)).isLt
  have h1 := (SMap.look 0 s.sec.keyData (dataKey pitch 1)).isLt
  refine BitVec.eq_of_toNat_eq (Eq.trans ?_ BitVec.toNat_zero.symm)
  simp only [State.dataValue, Bool.false_eq_true, if_false, BitVec.toNat_ushiftRight, BitVec.toNat_ofNat, Nat.shiftRight_eq_div_pow]
  omega

/-! ### A slot takes a key (R291) -/

/-- A slot takes the key of the data registers, and these are cleared. -/
def State.takeKey (s : State) (pitch : Option Nat) (v : Word) : State :=
  (s.loadKey (v.toNat % 64) (s.dataValue pitch (v.getLsbD 8)) (v.getLsbD 8)).clearData pitch

theorem State.takeKey_slot (s : State) (pitch : Option Nat) (v : Word) :
    SMap.look 0 (s.takeKey pitch v).sec.keys (v.toNat % 64) = s.dataValue pitch (v.getLsbD 8) :=
  SMap.look_put_self _ _ _ _

theorem State.takeKey_long (s : State) (pitch : Option Nat) (v : Word) :
    SMap.look false (s.takeKey pitch v).sec.long (v.toNat % 64) = v.getLsbD 8 :=
  SMap.look_put_self _ _ _ _

theorem State.takeKey_other (s : State) (pitch : Option Nat) (v : Word) {k : Nat} (h : k ≠ v.toNat % 64) :
    SMap.look 0 (s.takeKey pitch v).sec.keys k = SMap.look 0 s.sec.keys k :=
  SMap.look_put_ne _ _ _ _ _ h

theorem State.takeKey_word (s : State) (pitch : Option Nat) (v : Word) {i : Nat} (hi : i < 4) (hlong : v.getLsbD 8 = true ∨ i < 2) :
    ((SMap.look 0 (s.takeKey pitch v).sec.keys (v.toNat % 64)) >>> (64 * i)).setWidth 64 =
      SMap.look 0 s.sec.keyData (dataKey pitch i) := by
  rw [State.takeKey_slot, State.dataValue_word s pitch hi hlong]

/-- Keys that are dropped read as what unlisted keys read as. -/
theorem SMap.look_foldl_del {α : Type} (d : α) (f : Nat → Nat) {k : Nat} {l : List Nat} (h : k ∈ l.map f) (m : List (Nat × α)) :
    SMap.look d (l.foldl (fun m i => SMap.del (f i) m) m) k = d := by
  induction l using List.reverseRecOn with
  | nil => simp at h
  | append_singleton l i ih =>
    rw [List.foldl_append, List.foldl_cons, List.foldl_nil, SMap.look_del]
    split
    · rfl
    · next hne => exact ih (by simpa [hne] using h)

theorem State.takeKey_cleared (s : State) (pitch : Option Nat) (v : Word) {i : Nat} (hi : i < 4) :
    SMap.look 0 (s.takeKey pitch v).sec.keyData (dataKey pitch i) = 0 :=
  SMap.look_foldl_del _ _ (List.mem_map_of_mem (List.mem_range.mpr hi)) _

/-! ### The commands (R289, R291, R365) -/

/-- PIT_KEY_CMD is written, before its action. -/
def State.keyCmdWritten (s : State) (q : Nat) (v : Word) : State :=
  s.setPit { s.pit with keyCmd := SMap.put 0 s.pit.keyCmd q (keyCmdWord v) }

/-- go, written by a master that reaches the part, acts on the slot by who owns it. -/
theorem State.pitKeyCmd_go {s : State} {q : Nat} {m : Master} {v : Word} (hq : q ≠ 0) (hq8 : q ≤ 8) (hm : m.val = 3 + q)
    (hon : s.masterOn m = true) (hgo : v.getLsbD 63 = true) :
    s.pitKeyCmd q v = if s.ownsKey q (v.toNat % 64) = true then (s.keyCmdWritten q v).takeKey (some q) v
      else (s.keyCmdWritten q v).violation q m.val 0x05 (v.toNat % 64) := by
  obtain rfl : m = ⟨(3 + q) % 12, Nat.mod_lt _ (by decide)⟩ := Fin.ext (by dsimp only; omega)
  unfold State.pitKeyCmd
  dsimp only
  rw [if_neg (by simp [hq, hq8, hon]), if_neg (by simp [hgo])]
  rfl

theorem State.secKeyCmd_go {s : State} {v : Word} (hup : s.up = true) (hgo : v.getLsbD 63 = true) :
    s.secKeyCmd v = (s.setReg R.secKeyLoad (keyCmdWord v)).takeKey none v := by
  unfold State.secKeyCmd
  rw [if_neg (by simp [hup])]
  exact if_neg (by simp [hgo])

/-! ### The record of a violation (R289) -/

theorem State.fld_bumpSat_self (s : State) (off : Nat) (f : Fld) (n : Nat) (h : f.ok = true) :
    (s.bumpSat off f n).fld off f = min f.top (s.fld off f + n) := by
  have htop : f.top < 2 ^ (f.1 + 1 - f.2) := Nat.sub_lt (Nat.two_pow_pos _) Nat.one_pos
  rw [State.bumpSat, State.fld_setFld_self _ _ _ _ h]
  exact Nat.mod_eq_of_lt (Nat.lt_of_le_of_lt (Nat.min_le_left _ _) htop)

theorem State.violation_sec (s : State) (q m kind detail : Nat) : (s.violation q m kind detail).sec = s.sec :=
  (State.violation_step (msk := 0x10000000000000) q m kind detail rfl rfl (Keeps.refl _ s)).sec (.inl rfl) rfl

theorem R.pitViolRec_ne_pitViolIdx {k j : Nat} (hk : k < 64) (hj : j < 2) : R.pitViolRec k j ≠ R.pitViolIdx := by
  simp only [R.pitViolRec, R.pitViolIdx, famOff2, if_pos (And.intro hk hj)]
  omega

section
variable {q : Nat} (hq : q ≤ 8) (s : State) (m kind detail : Nat)
include hq

theorem R.pitStatus_apart : R.pitStatus q ≠ R.pitViolIdx ∧ ∀ k j, k < 64 → j < 2 → R.pitStatus q ≠ R.pitViolRec k j := by
  have hlt : q < 9 := by omega
  simp only [R.pitStatus, R.pitViolIdx, R.pitViolRec, famOff, famOff2, if_pos hlt]
  refine ⟨by omega, fun k j hk hj => ?_⟩
  rw [if_pos ⟨hk, hj⟩]
  omega

/-- PIT_STATUS counts the violation, up to its top value. -/
theorem State.violation_counted : (s.violation q m kind detail).fld (R.pitStatus q) F.pitStatus.violations =
    min 0xFFFFFFFF (s.fld (R.pitStatus q) F.pitStatus.violations + 1) := by
  obtain ⟨hidx, hrec⟩ := R.pitStatus_apart hq
  have hk := Nat.mod_lt (s.fld R.pitViolIdx F.pitViolIdx.index) (show 0 < 64 by decide)
  unfold State.violation State.bump
  dsimp only
  rw [State.fld_bumpSat_self _ _ _ _ rfl, State.fld_setFld_ne _ _ _ _ hidx, State.fld_setReg_ne _ _ _ (hrec _ 1 hk (by decide)),
    State.fld_setReg_ne _ _ _ (hrec _ 0 hk (by decide))]
  rfl

/-- The second word of the record says who did what. -/
theorem State.violation_record : (s.violation q m kind detail).reg (R.pitViolRec (s.fld R.pitViolIdx F.pitViolIdx.index % 64) 1) =
    BitVec.ofNat 64 (q % 16 * 2 ^ 60 + m % 16 * 2 ^ 56 + kind % 256 * 2 ^ 48 + detail % 2 ^ 48) := by
  have hk := Nat.mod_lt (s.fld R.pitViolIdx F.pitViolIdx.index) (show 0 < 64 by decide)
  have hstatus := (R.pitStatus_apart hq).2 _ 1 hk (by decide)
  have hidx := R.pitViolRec_ne_pitViolIdx hk (show 1 < 2 by decide)
  unfold State.violation State.bumpSat State.bump
  dsimp only
  rw [State.setFld_reg_ne _ _ _ hstatus.symm, State.setFld_reg_ne _ _ _ hidx, State.setReg_reg_self]

end

end Sys2Proof.Machine
end

section
/-! The verdict of the check unit, the failure budget and the key slots. -/

open Sys2Proof Sys2Proof.Machine

/-- Settles O16: the unit judges the span (`State.checkVerdict_judges`), shows its result (`State.chkResult_result`) and counts a failure
(`State.chkResult_failCnt`). -/
theorem checkVerdicts : Obligations.CheckVerdicts := by
  intro p span field r x cfg s hp hr hexch hseen hopen hnarrow hpreset hunit
  have hexec : exec (.checkVerdict p span field) s = _ := (if_pos hp).trans (congrArg Host.Outcome.next
    (State.checkVerdict_judges span field hr hexch hseen hopen hnarrow hpreset))
  have hput := Put.of (k := r.stake) (P := fun r' => r'.exch = some (x.judged cfg span field))
    { r with exch := some (x.judged cfg span field) } (s.chkResult_runs (r.unit false) r.port (x.result cfg span)
      (x.passes cfg span field) (span.isEmpty && (prefixBits x.cmd).isEmpty)) rfl rfl
  obtain ⟨r', hat, hstake, hjudged⟩ := hput.runAt hr rfl
  refine ⟨_, r', _, hexec, hat, hstake, hjudged, rfl, State.chkResult_result hunit .., ?_⟩
  simp only [Exch.judged, Option.some.injEq]
  exact State.chkResult_failCnt hunit ..

/-- Settles O39: an entry clears when its window is over (`State.budgetExpire_due`), and a key command with go loads the slot
(`State.takeKey_word`) or is a violation (`State.violation_record`). -/
theorem budgetAndKeys : Obligations.BudgetAndKeys := by
  refine ⟨fun q id e s hq he => ⟨fun hover => ?expired, fun hearly => ?stands⟩,
    fun p m v s hp hm hon hgo => ⟨fun howns => ?owned, fun hforeign => ?foreign⟩, fun m v s hup hgo => ?privileged⟩
  case expired =>
    exact ⟨_, (if_pos hq).trans (congrArg Host.Outcome.next (State.budgetExpire_due he hover)), s.budgetClear_entry q id, rfl⟩
  case stands => exact (if_pos hq).trans (congrArg Host.Outcome.next (State.budgetExpire_early he hearly))
  case owned =>
    have hload := (State.pitKeyCmd_go hp (Nat.le_of_lt_succ p.isLt) hm hon hgo).trans (if_pos howns)
    refine ⟨_, congrArg Host.Outcome.next hload, fun i hi hlong => State.takeKey_word _ (some p.val) v hi hlong, fun hshort => ?_,
      State.takeKey_long .., fun k hk => State.takeKey_other _ _ v hk, fun i hi => State.takeKey_cleared _ (some p.val) v hi⟩
    rw [State.takeKey_slot, hshort, State.dataValue_high]
  case foreign =>
    have hq : p.val ≤ 8 := Nat.le_of_lt_succ p.isLt
    have hviolates := (State.pitKeyCmd_go hp hq hm hon hgo).trans (if_neg (by simp [hforeign]))
    refine ⟨_, congrArg Host.Outcome.next hviolates, State.violation_sec .., State.violation_counted hq _ _ _ _,
      (State.violation_record hq (s.keyCmdWritten p v) m.val 5 (v.toNat % 64)).trans (congrArg (BitVec.ofNat 64) ?_)⟩
    omega
  case privileged =>
    exact ⟨_, congrArg Host.Outcome.next (State.secKeyCmd_go hup hgo), fun i hi hlong => State.takeKey_word _ none v hi hlong,
      fun k hk => State.takeKey_other _ _ v hk, fun i hi => State.takeKey_cleared _ none v hi⟩

end

section
/-! SUPPORT. Reads of Groundsheet words (Machine/Ecc.lean; R256): the errors that they correct, and what they leave as it was. -/

namespace Sys2Proof.Machine

/-! ### The errors of a word -/

theorem ones_eq_zero {w : Word} : ones w = 0 ↔ w = 0 := by
  constructor
  · intro h
    refine BitVec.eq_of_getLsbD_eq fun i hi => ?_
    simpa using List.countP_eq_zero.mp h i (List.mem_range.mpr hi)
  · rintro rfl
    decide

theorem State.upset_setUpset (s : State) (a b : Nat) (w : Word) :
    (s.setUpset a w).upset b = if b / 8 = a / 8 then w else s.upset b := SMap.look_put _ _ _ _ _

/-- A read corrects a single error of its word, and leaves all other errors. -/
theorem State.upset_touch (s : State) (a b : Nat) :
    (s.touch a).upset b = if b / 8 = a / 8 ∧ ones (s.upset a) = 1 then 0 else s.upset b := by
  unfold State.touch State.correct State.isUe
  by_cases hone : ones (s.upset a) = 1
  · have hupset : (s.recordCe a).upset b = s.upset b := rfl
    simp [hone, State.upset_setUpset, hupset]
  · simp only [hone, and_false, if_false]
    split <;> rfl

/-- A read of a word without errors does nothing. -/
theorem State.touch_clean {s : State} {a : Nat} (h : s.upset a = 0) : s.touch a = s := by
  have hones := ones_eq_zero.mpr h
  unfold State.touch State.correct State.isUe
  simp [hones]

theorem State.touch_isUe (s : State) (a b : Nat) : (s.touch a).isUe b = s.isUe b := by
  unfold State.isUe
  rw [State.upset_touch]
  split
  · next h =>
    have hword : s.upset b = s.upset a := congrArg (SMap.look 0 s.ecc) h.1
    rw [hword, h.2]
    decide
  · rfl

/-! ### Reads of several words -/

/-- What an update of each element keeps, the updates of a list keep. -/
theorem State.each_eq {α β : Type} (g : State → β) {f : State → α → State} (h : ∀ u x, g (f u x) = g u) (s : State) (l : List α) :
    g (s.each l f) = g s :=
  List.foldlRecOn (motive := fun u => g u = g s) l f rfl fun u hu x _ => (h u x).trans hu

theorem State.touchAll_clean {l : List Nat} {s : State} (h : ∀ a ∈ l, s.upset a = 0) : s.touchAll l = s := by
  refine List.foldlRecOn (motive := (· = s)) l State.touch rfl fun u hu a ha => ?_
  rw [hu]
  exact State.touch_clean (h a ha)

theorem State.touchAll_isUe (s : State) (l : List Nat) (b : Nat) : (s.touchAll l).isUe b = s.isUe b :=
  State.each_eq (State.isUe · b) (fun u a => u.touch_isUe a b) s l

/-- No word that has been read has a single error. -/
theorem State.touchAll_ones {l : List Nat} {a : Nat} (ha : a ∈ l) (s : State) : ones ((s.touchAll l).upset a) ≠ 1 := by
  refine State.each_mem (P := fun u a => ones (u.upset a) ≠ 1) (fun u x => ?_) (fun u x y hx => ?_) ha s
  · rw [State.upset_touch]
    split
    · decide
    · next h => exact fun hone => h ⟨rfl, hone⟩
  · rw [State.upset_touch]
    split
    · decide
    · exact hx

/-- A word that has been read, and that can be corrected, has no error. -/
theorem State.touchAll_corrected {l : List Nat} {a : Nat} {s : State} (ha : a ∈ l) (h : s.isUe a = false) :
    (s.touchAll l).upset a = 0 := by
  have hue := (s.touchAll_isUe l a).trans h
  have hone := State.touchAll_ones ha s
  simp only [State.isUe, decide_eq_false_iff_not] at hue
  exact ones_eq_zero.mp (by omega)

theorem State.touchAll_keeps (s : State) (l : List Nat) : Keeps 0x2000000000004 s (s.touchAll l) :=
  State.touchAll_step l rfl rfl (Keeps.refl _ s)

theorem State.touchAll_mem (s : State) (l : List Nat) : (s.touchAll l).mem = s.mem := by
  refine State.each_eq State.mem (fun u a => ?_) s l
  unfold State.touch State.correct
  repeat' split
  all_goals rfl

theorem State.touchAll_cycle (s : State) (l : List Nat) : (s.touchAll l).tick.cycle = s.tick.cycle := by
  refine State.each_eq (·.tick.cycle) (fun u a => ?_) s l
  unfold State.touch State.correct
  repeat' split
  all_goals rfl

theorem RegKept.touchAll {o : Nat} (h : EccFree o) (s : State) (l : List Nat) : RegKept o s (s.touchAll l) :=
  RegKept.each l (RegKept.touch h) s

end Sys2Proof.Machine
end

section
/-! SUPPORT. The room for a packet (R261, R264, R269): what it rests on, and a packet that is committed to a FIFO with room (R265). -/

namespace Sys2Proof.Machine

/-- The registers that say which FIFOs and buffers there are. -/
def RoomReg (o : Nat) : Prop :=
  (∃ n, o = R.gshFifoCfg n) ∨ (∃ q, o = R.gshBufRange q) ∨ (∃ q, o = R.pitRegion q) ∨ ∃ i, o = R.awnImg i

theorem RoomReg.eccFree {o : Nat} (h : RoomReg o) : EccFree o := by
  obtain ⟨n, rfl⟩ | ⟨q, rfl⟩ | ⟨q, rfl⟩ | ⟨i, rfl⟩ := h
  · exact eccFree_gshFifoCfg n
  · unfold EccFree R.gshBufRange R.gshEccStatus R.gshEccCeCnt R.gshEccUeCnt famOff
    split <;> omega
  · exact eccFree_of_window (by rw [regWindow_pitRegion]; decide)
  · exact eccFree_of_window (by rw [regWindow_awnImg]; decide)

/-- A sequence number is in no register of them. -/
theorem RoomReg.ne_gshFifoSeq {o n : Nat} (h : RoomReg o) (hn : n < 64) : o ≠ R.gshFifoSeq n := by
  have hwindow := regWindow_gshFifoSeq n
  obtain ⟨m, rfl⟩ | ⟨q, rfl⟩ | ⟨q, rfl⟩ | ⟨i, rfl⟩ := h
  · simp only [R.gshFifoCfg, R.gshFifoSeq, famOff, if_pos hn]
    split <;> omega
  · simp only [R.gshBufRange, R.gshFifoSeq, famOff, if_pos hn]
    split <;> omega
  · intro heq
    rw [← heq, regWindow_pitRegion] at hwindow
    exact absurd hwindow (by decide)
  · intro heq
    rw [← heq, regWindow_awnImg] at hwindow
    exact absurd hwindow (by decide)

/-- What the room of the FIFOs rests on is as it was. -/
structure RoomKept (s t : State) : Prop where
  regs : ∀ o, RoomReg o → t.reg o = s.reg o
  bufs : t.bufs = s.bufs
  fifos : t.fifos = s.fifos
  fresh : t.fresh = s.fresh

theorem RoomKept.trans {s t u : State} (h : RoomKept s t) (g : RoomKept t u) : RoomKept s u where
  regs o ho := (g.regs o ho).trans (h.regs o ho)
  bufs := g.bufs.trans h.bufs
  fifos := g.fifos.trans h.fifos
  fresh := g.fresh.trans h.fresh

theorem RoomKept.touchAll (s : State) (l : List Nat) : RoomKept s (s.touchAll l) where
  regs _ ho := (RegKept.touchAll ho.eccFree s l).1
  bufs := (s.touchAll_keeps l).bufs (.inl rfl) rfl
  fifos := (s.touchAll_keeps l).fifos (.inl rfl) rfl
  fresh := (s.touchAll_keeps l).fresh (.inl rfl) rfl

theorem RoomKept.takeSeq (s : State) {n : Nat} (hn : n < 64) : RoomKept s (s.takeSeq n) where
  regs _ ho := s.takeSeq_reg_ne (ho.ne_gshFifoSeq hn)
  bufs := rfl
  fifos := rfl
  fresh := rfl

section
variable {s t : State} (h : RoomKept s t)
include h

theorem RoomKept.fifoCfg (n : Nat) : t.reg (R.gshFifoCfg n) = s.reg (R.gshFifoCfg n) := h.regs _ (.inl ⟨n, rfl⟩)

theorem RoomKept.fifo (n : Nat) : t.fifo n = s.fifo n := by
  unfold State.fifo
  rw [h.fifos]

theorem RoomKept.fifoOn (n : Nat) : t.fifoOn n = s.fifoOn n := by
  unfold State.fifoOn State.bit State.fld
  rw [h.fifoCfg]

theorem RoomKept.fifoDir1 (n : Nat) : t.fifoDir1 n = s.fifoDir1 n := State.bit_of_reg (h.fifoCfg n) _

theorem RoomKept.fifoPitch (n : Nat) : t.fifoPitch n = s.fifoPitch n := State.fld_of_reg (h.fifoCfg n) _

theorem RoomKept.fifoFull (n : Nat) : t.fifoFull n = s.fifoFull n := by
  unfold State.fifoFull State.fifoDepth State.fld
  rw [h.fifoCfg, h.fifo]

theorem RoomKept.region (q : Nat) : t.region q = s.region q :=
  State.region_of (fun i _ => h.regs _ (.inr (.inr (.inl ⟨i, rfl⟩)))) q

theorem RoomKept.awnRegion (i : Nat) : t.awnRegion i = s.awnRegion i := by
  unfold State.awnRegion State.fld
  rw [h.regs _ (.inr (.inr (.inr ⟨i, rfl⟩)))]

theorem RoomKept.awnOn (i : Nat) : t.awnOn i = s.awnOn i := by
  unfold State.awnOn State.awnBadRegion State.awnPitch State.bit State.fld
  rw [h.regs _ (.inr (.inr (.inr ⟨i, rfl⟩))), h.region, h.awnRegion]

theorem RoomKept.rangesTo (n : Nat) : t.rangesTo n = s.rangesTo n := by
  induction n with
  | zero => rfl
  | succ n ih =>
    have hraw : t.rawRange n = s.rawRange n := by
      unfold State.rawRange State.fld
      rw [h.regs _ (.inr (.inl ⟨n, rfl⟩))]
    unfold State.rangesTo
    simp only [ih, hraw, h.region, h.awnOn, h.awnRegion]

theorem RoomKept.range (q : Nat) : t.range q = s.range q := by
  unfold State.range
  rw [h.rangesTo]

theorem RoomKept.freeBufs (q : Nat) : t.freeBufs q = s.freeBufs q := by
  have hbuf (b : Nat) : t.buf b = s.buf b := by
    unfold State.buf
    rw [h.bufs]
  unfold State.freeBufs
  simp only [h.range, hbuf]

theorem RoomKept.chainFor (n len : Nat) : t.chainFor n len = s.chainFor n len := by
  unfold State.chainFor
  rw [h.fifoFull, h.fifoPitch, h.freeBufs, h.fresh]

theorem RoomKept.eventFifo {q : Nat} (hcfg : t.reg (R.sngPtCfg q) = s.reg (R.sngPtCfg q)) : t.eventFifo q = s.eventFifo q := by
  unfold State.eventFifo State.ownsFifo
  simp only [State.fld_of_reg hcfg, h.fifoOn, h.fifoPitch, h.fifoDir1]

end

theorem State.fifoOn_lt {s : State} {n : Nat} (h : s.fifoOn n = true) : n < 64 := by
  unfold State.fifoOn at h
  simp only [Bool.and_eq_true, decide_eq_true_eq] at h
  exact h.1.1

theorem State.eventFifo_dir {s : State} {q n : Nat} (h : s.eventFifo q = some n) : s.fifoDir1 n = false := by
  unfold State.eventFifo at h
  dsimp only at h
  split at h
  · next hown =>
    cases h
    simpa using hown.2
  · cases h

theorem seqWords_length (seq : Nat) (ws : List Word) : (seqWords seq ws).length = ws.length := by cases ws <;> rfl

/-- A packet is appended last, with its chain and the time. -/
theorem State.append_packets (s : State) (n : Nat) (c : List Nat) (ws : List Word) :
    ((s.append n c ws).fifo n).packets = (s.fifo n).packets ++ [s.descriptor c ws.length] := by
  have hwritten : Keeps 0x20021600C000000E s (((s.skip c.length).writeChain c ws).setBufList c .queued) :=
    State.setBufList_step _ _ rfl rfl (State.writeChain_step _ _ rfl rfl (State.skip_step _ rfl rfl (Keeps.refl _ s)))
  unfold State.append
  dsimp only
  rw [Keeps.fifo_eq (w := 0x20040000) (State.driveInt_step rfl rfl (State.fifoMsi_step _ _ rfl rfl (Keeps.refl _ _))),
    State.setFifo_fifo_self, hwritten.fifo_eq]

/-- A packet for a FIFO that holds none back, and that has room for it, is appended with the next sequence number. -/
theorem State.commit_room {s : State} {n : Nat} {c : List Nat} {ws : List Word} (hon : s.fifoOn n = true) (hdir : s.fifoDir1 n = false)
    (hheld : (s.fifo n).held = []) (hroom : s.chainFor n ws.length = some c) :
    s.commit n ws = (s.takeSeq n).append n c (seqWords (s.nextSeq n) ws) := by
  have htaken := ((RoomKept.takeSeq s (State.fifoOn_lt hon)).chainFor n ws.length).trans hroom
  unfold State.commit
  simp [hon, hdir, hheld, htaken]

theorem State.commit_packets {s : State} {n : Nat} {c : List Nat} {ws : List Word} (hon : s.fifoOn n = true)
    (hdir : s.fifoDir1 n = false) (hheld : (s.fifo n).held = []) (hroom : s.chainFor n ws.length = some c) :
    ((s.commit n ws).fifo n).packets = (s.fifo n).packets ++ [s.descriptor c ws.length] := by
  rw [State.commit_room hon hdir hheld hroom, State.append_packets, seqWords_length]
  rfl

end Sys2Proof.Machine
end

section
/-! SUPPORT. The entries of the presence tables (Machine/Reports.lean; R151, R152, R154): an entry that becomes FREE, its DEPARTURE, and
the visit of the sweeper. -/

namespace Sys2Proof.Machine

/-! ### Words of Groundsheet that a write leaves -/

theorem State.word_of_bytes {s t : State} {a : Nat} (h : ∀ x, a / 8 * 8 ≤ x → x < a / 8 * 8 + 8 → t.byte x = s.byte x) :
    t.word a = s.word a := by
  unfold State.word
  refine congrArg wordOfBytes (List.map_congr_left fun i hi => h _ (Nat.le_add_right _ _) ?_)
  exact Nat.add_lt_add_left (List.mem_range.mp hi) _

theorem State.word_setWord_ne (s : State) {a b : Nat} (w : Word) (h : b / 8 ≠ a / 8) : (s.setWord a w).word b = s.word b :=
  State.word_of_bytes fun x _ _ => State.byte_setWord_out _ _ _ _ (by omega)

theorem State.word_setWords_out (s : State) {a b : Nat} {l : List Word} (ha : 8 ∣ a) (h : b < a ∨ a + 8 * l.length ≤ b) :
    (s.setWords a l).word b = s.word b :=
  State.word_of_bytes fun x _ _ => State.byte_setWords_out _ _ _ _ ha (by omega)

theorem State.word_setWords_in (l : List Word) (s : State) {a i : Nat} (ha : 8 ∣ a) (hi : i < l.length) :
    (s.setWords a l).word (a + 8 * i) = l[i] := by
  induction l generalizing s a i with
  | nil => exact absurd hi (Nat.not_lt_zero i)
  | cons w l ih =>
    show ((s.setWord a w).setWords (a + 8) l).word (a + 8 * i) = _
    cases i with
    | zero => exact (State.word_setWords_out _ (by omega) (.inl (by omega))).trans (State.word_setWord s a w)
    | succ i =>
      rw [show a + 8 * (i + 1) = a + 8 + 8 * i by omega, ih _ (by omega) (Nat.lt_of_succ_lt_succ hi)]
      rfl

/-! ### An entry -/

theorem entryAddr_aligned (i : Nat) : 8 ∣ entryAddr i := by
  unfold entryAddr
  omega

/-- What leaves the tables leaves the words of an entry. -/
theorem Keeps.entryW_eq {w : Nat} {s t : State} (h : Keeps w s t) (i : Nat) {k : Nat} (hk : k < 4)
    (h1 : w.testBit 63 = false := by rfl) (h2 : w.testBit 42 = false := by rfl) : t.entryW i k = s.entryW i k := by
  have hi : i % 262144 < 262144 := Nat.mod_lt _ (by decide)
  refine State.word_of_bytes fun x hlo hhi => h.tables (.inl h1) h2 x ?_
  unfold entryAddr at hlo hhi
  unfold areaOf
  rw [if_neg (by omega), if_neg (by omega), if_pos (by omega)]

theorem Keeps.entryFld_eq {w : Nat} {s t : State} (h : Keeps w s t) (i : Nat) (f : Fld) (h1 : w.testBit 63 = false := by rfl)
    (h2 : w.testBit 42 = false := by rfl) : t.entryFld i f = s.entryFld i f := by
  unfold State.entryFld
  rw [h.entryW_eq i (by decide) h1 h2]

/-- Words 0 to 2 of an entry that is updated. -/
theorem State.writeEntry_body (s : State) (i : Nat) (a b c w3 : Word) {k : Nat} (hk : k < 3) :
    (s.writeEntry i [a, b, c] w3).entryW i k = [a, b, c][k] := by
  have hdvd := entryAddr_aligned i
  unfold State.writeEntry State.entryW
  dsimp only
  rw [State.word_setWord_ne _ _ (by omega)]
  exact State.word_setWords_in [a, b, c] _ hdvd hk

/-- Word 3 of an entry that is updated takes its new fields, and ver advanced by 2 (R152). -/
theorem State.writeEntry_last (s : State) (i : Nat) (ws : List Word) (w3 : Word) :
    (s.writeEntry i ws w3).entryW i 3 = Word.put w3 E.ver ((s.entryFld i E.ver + 2) % 256) := State.word_setWord _ _ _

theorem State.setFld_entryW (s : State) (o : Nat) (f : Fld) (v i k : Nat) : (s.setFld o f v).entryW i k = s.entryW i k := rfl

section
variable (s : State) (q i : Nat)

theorem State.freeEntry_body {k : Nat} (hk : k < 3) : (s.freeEntry q i).entryW i k = s.entryW i k := by
  unfold State.freeEntry
  rw [State.setFld_entryW, State.writeEntry_body _ _ _ _ _ _ hk]
  match k, hk with
  | 0, _ | 1, _ | 2, _ => rfl

theorem State.freeEntry_last : (s.freeEntry q i).entryW i 3 =
    Word.put (Word.put (s.entryW i 3) E.state 0) E.ver ((s.entryFld i E.ver + 2) % 256) := s.writeEntry_last i _ _

theorem State.freeEntry_state : (s.freeEntry q i).entryFld i E.state = 0 := by
  unfold State.entryFld
  rw [State.freeEntry_last, Word.get_put_apart _ _ _ _ (by decide) (by decide), Word.get_put_self _ _ _ (by decide)]
  rfl

theorem State.freeEntry_ver : (s.freeEntry q i).entryFld i E.ver = (s.entryFld i E.ver + 2) % 256 := by
  unfold State.entryFld
  rw [State.freeEntry_last, Word.get_put_self _ _ _ (by decide)]
  exact Nat.mod_mod _ 256

/-- in_use counts the entry no more. -/
theorem State.freeEntry_inUse : (s.freeEntry q i).fld (R.sngPtStatus q) F.sngPtStatus.inUse =
    s.fld (R.sngPtStatus q) F.sngPtStatus.inUse - 1 := by
  have hlt : s.fld (R.sngPtStatus q) F.sngPtStatus.inUse < 2 ^ _ := Word.get_lt _ _
  unfold State.freeEntry
  rw [State.fld_setFld_self _ _ _ _ (by decide)]
  exact Nat.mod_eq_of_lt (by omega)

theorem State.freeEntry_keeps : Keeps 0x2440000000004 s (s.freeEntry q i) := State.freeEntry_step q i rfl rfl (Keeps.refl _ s)

theorem State.presencePacket_keeps (type : Nat) : Keeps 0x202006004001C s (s.presencePacket q type i) :=
  State.presencePacket_step q type i rfl rfl (Keeps.refl _ s)

end

/-- ARRIVAL and DEPARTURE are packets of 6 words (R317). -/
theorem State.presencePacket_packets {s : State} {q n : Nat} {c : List Nat} (type i : Nat) (hevent : s.eventFifo q = some n)
    (hon : s.fifoOn n = true) (hheld : (s.fifo n).held = []) (hroom : s.chainFor n 6 = some c) :
    ((s.presencePacket q type i).fifo n).packets = (s.fifo n).packets ++ [s.descriptor c 6] := by
  unfold State.presencePacket
  rw [hevent]
  exact State.commit_packets hon (State.eventFifo_dir hevent) hheld hroom

/-! ### The visit of the sweeper (R154) -/

/-- The addresses of the words of an entry. -/
def entryAddrs (i : Nat) : List Nat := (List.range 4).map fun w => entryAddr i + 8 * w

theorem mem_entryAddrs {i a : Nat} : a ∈ entryAddrs i ↔ ∃ w, w < 4 ∧ entryAddr i + 8 * w = a := by
  simp [entryAddrs, List.mem_map]

theorem State.entryUe_false {s : State} {i w : Nat} (h : s.entryUe i = false) (hw : w < 4) : s.isUe (entryAddr i + 8 * w) = false := by
  unfold State.entryUe State.anyUe at h
  exact Bool.eq_false_iff.mpr (List.any_eq_false.mp h w (List.mem_range.mpr hw))

section
variable {s : State} {i q : Nat} (hq : s.tablePitch i = some q)
include hq

/-- The sweeper reads the entry, and decides by what it finds. -/
theorem State.sweep_visit : s.sweep i =
    if s.entryUe i then (s.touchAll (entryAddrs i)).ueEntry q i
    else if s.entryFld i E.state = 0 ∨ s.now ≤ (s.entryW i 2).toNat + s.depart q then s.touchAll (entryAddrs i)
    else if s.entryFld i E.state = 2 then ((s.touchAll (entryAddrs i)).presencePacket q 0x23 i).freeEntry q i
    else (s.touchAll (entryAddrs i)).freeEntry q i := by
  have hread := s.touchAll_keeps (entryAddrs i)
  have hdepart : (s.touchAll (entryAddrs i)).depart q = s.depart q := by
    unfold State.depart
    rw [hread.fld_eq (regWindow_sngPtCfg q)]
  unfold State.sweep
  rw [hq, ← entryAddrs]
  dsimp only
  rw [hread.entryFld_eq, hread.now_eq, hread.entryW_eq i (by decide), hdepart]

/-- An uncorrectable entry that is not FREE becomes so (R257). -/
theorem State.sweep_ue (hue : s.entryUe i = true) (hused : s.entryFld i E.state ≠ 0) :
    s.sweep i = (s.touchAll (entryAddrs i)).freeEntry q i := by
  have hstate := (s.touchAll_keeps (entryAddrs i)).entryFld_eq i E.state
  rw [State.sweep_visit hq, if_pos hue, State.ueEntry, hstate, if_neg hused]

/-- An entry that has not departed is read, and stays. -/
theorem State.sweep_stays (hue : s.entryUe i = false) (hstay : s.entryFld i E.state = 0 ∨ s.now ≤ (s.entryW i 2).toNat + s.depart q) :
    s.sweep i = s.touchAll (entryAddrs i) := by
  rw [State.sweep_visit hq, hue, if_neg Bool.false_ne_true, if_pos hstay]

/-- An entry that has departed is read and becomes FREE, after the packet that tells of a PRESENT one. -/
theorem State.sweep_departs (hue : s.entryUe i = false) (hused : s.entryFld i E.state ≠ 0)
    (hover : (s.entryW i 2).toNat + s.depart q < s.now) : s.sweep i =
    (if s.entryFld i E.state = 2 then (s.touchAll (entryAddrs i)).presencePacket q 0x23 i else s.touchAll (entryAddrs i)).freeEntry q i := by
  rw [State.sweep_visit hq, hue, if_neg Bool.false_ne_true, if_neg (by omega)]
  split <;> rfl

end

/-- The DEPARTURE of an entry that has been read, where the event FIFO has room. -/
theorem State.departure_packets {s : State} {q n : Nat} {c : List Nat} (i : Nat) (hevent : s.eventFifo q = some n)
    (hon : s.fifoOn n = true) (hheld : (s.fifo n).held = []) (hroom : s.chainFor n 6 = some c) :
    (((s.touchAll (entryAddrs i)).presencePacket q 0x23 i).fifo n).packets = (s.fifo n).packets ++ [s.descriptor c 6] := by
  have hread := s.touchAll_keeps (entryAddrs i)
  have hkept := RoomKept.touchAll s (entryAddrs i)
  have hdescriptor : (s.touchAll (entryAddrs i)).descriptor c 6 = s.descriptor c 6 := by
    unfold State.descriptor
    rw [hread.now_eq, State.touchAll_cycle]
  have hpacket := State.presencePacket_packets 0x23 i ((hkept.eventFifo (hread.reg_eq (regWindow_sngPtCfg q))).trans hevent)
    ((hkept.fifoOn n).trans hon) ((congrArg Fifo.held (hkept.fifo n)).trans hheld) ((hkept.chainFor n 6).trans hroom)
  rw [hpacket, hdescriptor, hkept.fifo]

end Sys2Proof.Machine
end

section
/-! The statement of 05_singulation.md, settled. -/

open Sys2Proof Sys2Proof.Machine

/-- Settles O50: the sweeper reads the entry (`State.sweep_visit`) and leaves it (`State.sweep_stays`) or frees it (`State.sweep_ue`,
`State.sweep_departs`), which changes word 3 and the count alone (`State.freeEntry_body`, `State.freeEntry_last`,
`State.freeEntry_inUse`), after the packet of a PRESENT one (`State.departure_packets`). -/
theorem presenceSwept : Obligations.PresenceSwept := by
  intro i q s hi hup hq
  have hexec : exec (.presenceSweep i) s = .next (s.sweep i) :=
    (if_pos hi).trans (congrArg Host.Outcome.next (if_pos hup))
  have hread := s.touchAll_keeps (entryAddrs i)
  rw [hexec]
  refine ⟨fun hue hused => ⟨_, rfl, ?ue⟩, fun hue hstay => ⟨_, rfl, ?stays⟩, fun hue hused hover => ⟨_, rfl, ?departs⟩⟩
  case ue =>
    rw [State.sweep_ue hq hue hused]
    exact ⟨State.freeEntry_state .., ((State.freeEntry_keeps _ q i).fifos (.inl rfl) rfl).trans (hread.fifos (.inl rfl) rfl)⟩
  case stays =>
    rw [State.sweep_stays hq hue hstay]
    refine ⟨s.touchAll_mem _, hread.fifos (.inl rfl) rfl, fun w hw => ?_, fun hclean => State.touchAll_clean fun a ha => ?_⟩
    · exact State.touchAll_corrected (mem_entryAddrs.mpr ⟨w, hw, rfl⟩) (State.entryUe_false hue hw)
    · obtain ⟨w, hw, rfl⟩ := mem_entryAddrs.mp ha
      exact hclean w hw
  case departs =>
    rw [State.sweep_departs hq hue hused hover]
    have htold : Keeps 0x202006004001C s (if s.entryFld i E.state = 2 then (s.touchAll (entryAddrs i)).presencePacket q 0x23 i
        else s.touchAll (entryAddrs i)) :=
      Keeps.ite (State.presencePacket_step q 0x23 i rfl rfl (hread.mono rfl)) (hread.mono rfl)
    refine ⟨State.freeEntry_state .., ?_, fun w hw => ?_, ?_, fun hcandidate => ?_, fun n c hpresent hevent hon hheld hroom => ?_⟩
    · rw [State.freeEntry_ver, htold.entryFld_eq]
    · rw [State.freeEntry_body _ _ _ hw, htold.entryW_eq i (by omega)]
    · rw [State.freeEntry_inUse, htold.fld_eq (regWindow_sngPtStatus q)]
    · rw [if_neg hcandidate, (State.freeEntry_keeps _ q i).fifos (.inl rfl) rfl, hread.fifos (.inl rfl) rfl]
    · rw [if_pos hpresent, (State.freeEntry_keeps _ q i).fifo_eq, State.departure_packets i hevent hon hheld hroom]

end

section
/-! SUPPORT. Wide Reply (Machine/WideReply.lean; R170 to R178): what is left of a reply by its sync window, by a symbol window, and by
the start and the end of a codeword. -/

namespace Sys2Proof.Machine

/-- The run that takes the place of a stake's stands on its ports. -/
theorem State.putRun_runAt {s u : State} {p : Nat} {r r1 : Run} (hr : s.runAt p = some r) (hruns : u.runs = s.runs)
    (hstake : r1.stake = r.stake) : (u.putRun r1).runAt p = some r1 := by
  obtain ⟨_, hat, -, rfl⟩ := (Put.of (P := (· = r1)) r1 hruns hstake rfl).runAt hr rfl
  exact hat

/-! ### A count of what is not good -/

/-- Count in a register unless `good`. -/
def State.countUnless (s : State) (good : Bool) (off : Nat) (f : Fld) : State := if good then s else s.bump off f

theorem State.countUnless_fld_self (s : State) (good : Bool) (off : Nat) (f : Fld) (h : f.ok = true) :
    (s.countUnless good off f).fld off f = (s.fld off f + if good then 0 else 1) % 2 ^ (f.1 + 1 - f.2) := by
  cases good
  case false => exact s.fld_bump_self off f h
  case true => exact (Nat.mod_eq_of_lt (Word.get_lt _ f)).symm

theorem State.countUnless_reg_ne (s : State) (good : Bool) (f : Fld) {off o : Nat} (h : o ≠ off) :
    (s.countUnless good off f).reg o = s.reg o := by
  cases good
  case false => exact s.setFld_reg_ne f _ h
  case true => rfl

theorem State.countUnless_runs (s : State) (good : Bool) (off : Nat) (f : Fld) : (s.countUnless good off f).runs = s.runs := by
  cases good <;> rfl

theorem State.countUnless_decoders (s : State) (good : Bool) (off : Nat) (f : Fld) :
    (s.countUnless good off f).decoders = s.decoders := by
  cases good <;> rfl

/-! ### A data symbol (R174, R175) -/

/-- The Wide Reply after one more data symbol: a low symbol ends it, another one leaves its likelihoods. -/
def Wide.addSymbol (w : Wide) (y : List (Int × Int)) : Wide :=
  if w.low y then { w with early := true } else { w with symbols := w.symbols + 1, llr := w.llr ++ symbolLlr w y }

theorem Wide.addSymbol_early {w : Wide} (y : List (Int × Int)) (hopen : w.early = false) : (w.addSymbol y).early = w.low y := by
  cases hlow : w.low y <;> simp [Wide.addSymbol, hlow, hopen]

theorem Wide.addSymbol_symbols (w : Wide) (y : List (Int × Int)) :
    (w.addSymbol y).symbols = w.symbols + if w.low y then 0 else 1 := by
  cases hlow : w.low y <;> simp [Wide.addSymbol, hlow]

theorem Wide.addSymbol_llr (w : Wide) (y : List (Int × Int)) :
    (w.addSymbol y).llr = w.llr ++ if w.low y then [] else symbolLlr w y := by
  cases hlow : w.low y <;> simp [Wide.addSymbol, hlow]

/-! ### The sync window and the symbol windows (R171 to R175) -/

/-- The run of a stake whose exchange holds the Wide Reply w. -/
def Run.withWide (r : Run) (x : Exch) (w : Wide) : Run := { r with exch := some { x with wide := w } }

section
variable {s : State} {p m : Nat} {r : Run} {x : Exch} {l : Latched} (hr : s.runAt p = some r) (hexch : r.exch = some x)
  (hwide : x.wideM = some m) (hseen : x.seen = some l)

/-- The exchange whose latch takes the RSSI of the Wide Reply (R173). -/
def Exch.withRssi (x : Exch) (l : Latched) (w : Wide) : Exch := { x with seen := some { l with rssi := w.rssi } }

/-- The registers of a receiver and of WRD lie in two block windows. -/
theorem hfaRxStatus_ne_wrdSyncFailCnt (n : Nat) : R.hfaRxStatus n ≠ R.wrdSyncFailCnt := fun h => by
  have hwindow := congrArg regWindow h
  rw [regWindow_hfaRxStatus, regWindow_wrdSyncFailCnt] at hwindow
  exact absurd hwindow (by decide)

/-- What receives shows the RSSI of the Wide Reply, and the stake holds its estimates. -/
def State.syncTaken (s : State) (r : Run) (x : Exch) (l : Latched) (w : Wide) : State :=
  ((s.skip 8).showReply r { l with rssi := w.rssi }).putRun (r.withWide (x.withRssi l w) w)

theorem State.showSync_keeps (s : State) (r : Run) (l : Latched) : Keeps 0x90040000300 s ((s.skip 8).showReply r l) :=
  State.showReply_step r l rfl rfl (State.skip_step 8 rfl rfl (Keeps.refl _ s))

include hr in
theorem State.syncTaken_runAt (w : Wide) : (s.syncTaken r x l w).runAt p = some (r.withWide (x.withRssi l w) w) :=
  State.putRun_runAt hr (State.showSync_keeps s r _).runs_eq rfl

theorem State.syncTaken_rssi (w : Wide) (hhf : isHfPort r.port = true) {n : Nat} (hn : n ∈ r.rxPorts.map s.server) :
    (s.syncTaken r x l w).fld (R.hfaRxStatus n) F.hfaRxStatus.rssi = w.rssi.toNat :=
  (State.showReply_shows (s := s.skip 8) { l with rssi := w.rssi } hhf hn).1

theorem State.syncTaken_syncFailCnt (w : Wide) : (s.syncTaken r x l w).fld R.wrdSyncFailCnt F.wrdSyncFailCnt.count =
    s.fld R.wrdSyncFailCnt F.wrdSyncFailCnt.count :=
  (State.showSync_keeps s r { l with rssi := w.rssi }).fld_eq regWindow_wrdSyncFailCnt _

include hr hexch hwide hseen

/-- The first end of a sync window fixes the estimates, and counts a ρ below the limit. -/
theorem State.wideSync_due (o : WideObs) (hfirst : x.wide.syncDone = false) (hover : s.windowOver x l 2 = true) :
    s.wideSync p o = (s.syncTaken r x l (s.wideEstimate r l x.wide o)).countUnless
      (r.syncOk (s.wideEstimate r l x.wide o).rho) R.wrdSyncFailCnt F.wrdSyncFailCnt.count := by
  unfold State.wideSync
  simp only [hr, hexch, hwide, hseen, hfirst, hover, Bool.not_true, Bool.false_eq_true, or_self, if_false]
  rfl

/-- The end of the next symbol window of an open reply adds its symbol. -/
theorem State.wideSymbol_due (bins : List (List Sample)) (hsync : x.wide.syncDone = true) (hok : r.syncOk x.wide.rho = true)
    (hopen : x.wide.early = false) (hmore : x.wide.symbols < 65 * m) (hover : s.windowOver x l (3 + x.wide.symbols) = true) :
    s.wideSymbol p bins = s.putRun (r.withWide x (x.wide.addSymbol (r.bins l.phases bins))) := by
  unfold State.wideSymbol
  simp only [hr, hexch, hwide, hseen, hsync, hok, hopen, hover, Nat.not_le.mpr hmore, Bool.not_true, Bool.false_eq_true, or_self,
    if_false, Run.withWide, Wide.addSymbol]

end

/-! ### A codeword (R176 to R178) -/

section
variable {s : State} {d m : Nat} {r : Run} {x : Exch} (hd : s.decoderRun d = some r) (hexch : r.exch = some x)

/-- A decoder takes codeword c of a port. -/
def State.takeCodeword (s : State) (d port c : Nat) : State :=
  ((s.setBit R.wrdStatus (decBusy d) true).setFld R.wrdStatus (decCw d) c).setDecoders
    (SMap.ins d { port := some port, cw := c } s.decoders)

/-- The fields of WRD_STATUS that name the codeword and say busy are two. -/
theorem decCw_apart_decBusy (d : Nat) : (decCw d).ok = true ∧ (decBusy d).ok = true ∧ Fld.apart (decCw d) (decBusy d) = true := by
  unfold decCw decBusy
  split <;> decide

theorem State.takeCodeword_busy (s : State) (d port c : Nat) : (s.takeCodeword d port c).bit R.wrdStatus (decBusy d) = true := by
  obtain ⟨hcw, hbusy, hapart⟩ := decCw_apart_decBusy d
  unfold State.takeCodeword
  rw [State.setDecoders_bit, State.bit_setFld_apart _ _ _ _ _ hcw hapart, State.bit_setBit_self _ _ _ _ hbusy]

/-- What the decoder of a stake makes of the oldest codeword of likelihoods. -/
def Run.decoded (r : Run) (x : Exch) : Bool × Nat × Nat × BitVec 832 :=
  decodeWord (max 8 (r.fld R.wrdCfg F.wrdCfg.norm)) (decide (bf r.block 11 58 58 = 1)) (bf r.block 11 63 59) (x.wide.llr.take 1040)

/-- The Wide Reply after a codeword: its outcome is kept, and its likelihoods leave the buffer. -/
def Wide.addCodeword (w : Wide) (out : Bool × Nat × Nat × BitVec 832) : Wide :=
  { w with done := w.done ++ [out], llr := w.llr.drop 1040 }

/-- A decoder is idle again, and its codeword is counted, one that did not converge as failed too. -/
def State.codewordCounted (s : State) (d : Nat) (converged : Bool) : State :=
  (((s.setBit R.wrdStatus (decBusy d) false).setDecoders (SMap.del d s.decoders)).bump R.wrdCwCnt F.wrdCwCnt.count).countUnless
    converged R.wrdCwFailCnt F.wrdCwFailCnt.count

theorem State.codewordCounted_runs (s : State) (d : Nat) (converged : Bool) : (s.codewordCounted d converged).runs = s.runs :=
  (State.countUnless_runs ..).trans (State.setBit_runs ..)

theorem State.codewordCounted_idle (s : State) (d : Nat) (converged : Bool) :
    SMap.find (s.codewordCounted d converged).decoders d = none :=
  (congrArg (SMap.find · d) (State.countUnless_decoders ..)).trans (SMap.find_del_self _ _)

theorem State.codewordCounted_cwCnt (s : State) (d : Nat) (converged : Bool) :
    (s.codewordCounted d converged).fld R.wrdCwCnt F.wrdCwCnt.count = (s.fld R.wrdCwCnt F.wrdCwCnt.count + 1) % 2 ^ 32 := by
  unfold State.codewordCounted
  rw [State.fld_of_reg (State.countUnless_reg_ne _ _ _ (by decide)), State.fld_bump_self _ _ _ (by decide), State.setDecoders_fld,
    State.fld_setBit_ne _ _ _ _ (by decide)]
  rfl

include hd hexch

/-- An idle decoder takes the next codeword once its 65 symbols are in. -/
theorem State.codewordStart_due (hwide : x.wideM = some m) (hidle : SMap.find s.decoders d = none) (hsync : x.wide.syncDone = true)
    (hok : r.syncOk x.wide.rho = true) (hmore : x.wide.done.length < m)
    (hin : 65 * (x.wide.done.length + 1) ≤ x.wide.symbols) : s.codewordStart d = s.takeCodeword d r.port x.wide.done.length := by
  unfold State.codewordStart
  simp only [hd, hexch, hwide, hidle, hsync, hok, Nat.not_le.mpr hmore, Nat.not_lt.mpr hin, Option.isSome_none, Bool.not_true,
    Bool.false_eq_true, or_self, if_false]
  rfl

/-- A decoder that decodes keeps what it makes of its codeword. -/
theorem State.codewordDone_decodes {y : Decoder} (hbusy : SMap.find s.decoders d = some y) :
    s.codewordDone d = (s.codewordCounted d (r.decoded x).1).putRun (r.withWide x (x.wide.addCodeword (r.decoded x))) := by
  unfold State.codewordDone
  simp only [hd, hexch, hbusy]
  rfl

end

end Sys2Proof.Machine
end

section
/-! The statement of 06_wide_reply.md, settled. -/

open Sys2Proof Sys2Proof.Machine

/-- Settles O23: the sync window fixes the estimates (`State.wideSync_due`), shows the RSSI (`State.syncTaken_rssi`) and counts a ρ below
the limit (`State.countUnless_fld_self`); a symbol window adds its symbol (`State.wideSymbol_due`); a decoder takes a codeword
(`State.codewordStart_due`) and keeps what it makes of it (`State.codewordDone_decodes`). -/
theorem wideReplies : Obligations.WideReplies := by
  intro p m r x l s hp hr hexch hwide hseen
  refine ⟨fun o hfirst hover => ?sync, fun bins hsync hok hopen hmore hover => ?symbol,
    fun d hd hidle hsync hok hmore hin => ?start, fun d y hd hbusy => ?done⟩
  case sync =>
    have hexec : exec (.wideSyncEnd p o) s = _ :=
      (if_pos hp).trans (congrArg Host.Outcome.next (State.wideSync_due hr hexch hwide hseen o hfirst hover))
    refine ⟨_, _, _, hexec, (congrArg (List.find? _) (State.countUnless_runs ..)).trans (State.syncTaken_runAt hr _), rfl, rfl, rfl,
      fun hhf n hn => ?_, ?_⟩
    · exact (State.fld_of_reg (State.countUnless_reg_ne _ _ _ (hfaRxStatus_ne_wrdSyncFailCnt n)) _).trans (State.syncTaken_rssi _ hhf hn)
    · rw [State.countUnless_fld_self _ _ _ _ (by decide), State.syncTaken_syncFailCnt]
      rfl
  case symbol =>
    have hexec : exec (.wideSymbolWindowEnd p bins) s = _ := (if_pos hp).trans
      (congrArg Host.Outcome.next (State.wideSymbol_due hr hexch hwide hseen bins hsync hok hopen hmore hover))
    have hearly := Wide.addSymbol_early (r.bins l.phases bins) hopen
    refine ⟨_, _, _, hexec, State.putRun_runAt hr rfl rfl, rfl, hearly, ?_, ?_⟩
    · rw [hearly, Wide.addSymbol_symbols]
    · rw [hearly, Wide.addSymbol_llr]
  case start =>
    exact ⟨_, congrArg Host.Outcome.next (State.codewordStart_due hd hexch hwide hidle hsync hok hmore hin),
      SMap.find_ins_self _ _ _, State.takeCodeword_busy ..⟩
  case done =>
    exact ⟨_, _, _, congrArg Host.Outcome.next (State.codewordDone_decodes hd hexch hbusy),
      State.putRun_runAt hr (State.codewordCounted_runs ..) rfl, rfl, State.codewordCounted_idle .., rfl,
      State.codewordCounted_cwCnt ..⟩

end

section
/-! SUPPORT. What is left of the run of a stake whose work ends (Machine/Exchange.lean; R43, R61): all that its start took. -/

namespace Sys2Proof.Machine

/-- The action is gone, and the request where that was its own; nothing else of the run is touched. -/
theorem State.endWork_run (s : State) (r : Run) (st : Status) (cut : Bool) :
    Put r.stake (fun r' => ∃ q, r' = { r with request := q, action := none }) s (s.endWork r st cut) := by
  unfold State.endWork
  dsimp only
  split
  · split
    · exact Put.of _ (State.runs_of (State.requestDone_step _ _ _ _ _ _ _ _ _ _ _ rfl rfl (Keeps.refl _ s))) rfl ⟨none, rfl⟩
    · refine Put.of _ (State.runs_of (Keeps.ite ?_ (Keeps.ite ?_ (Keeps.refl _ s)))) rfl ⟨r.request, rfl⟩
      · exact State.actionReport_step _ _ rfl rfl (Keeps.refl _ s)
      · exact State.tagReport_step _ _ rfl rfl (Keeps.refl _ s)
  · rename_i hnone
    refine Put.of _ (State.runs_of (Keeps.ite ?_ (Keeps.refl _ s))) rfl ⟨r.request, by rw [← hnone]⟩
    exact State.tagReport_step _ _ rfl rfl (Keeps.refl _ s)

theorem State.runCut_cfg (s : State) (r : Run) (x : Exch) (st : Status) : (s.runCut r x st).cfg = r.cfg := by
  unfold State.runCut
  dsimp only
  split <;> rfl

/-- The end of the work leaves the configuration that the stake took at its start (R25). -/
theorem State.endWork_cfg (s : State) (r : Run) (st : Status) (cut : Bool) :
    Put r.stake (fun r' => r'.cfg = r.cfg) s (s.endWork r st cut) := by
  refine (s.endWork_run r st cut).weaken ?_
  rintro _ ⟨q, rfl⟩
  rfl

theorem State.cutExch_cfg (s : State) (r : Run) (st : Status) : Put r.stake (fun r' => r'.cfg = r.cfg) s (s.cutExch r st) := by
  unfold State.cutExch
  dsimp only
  split
  · exact s.endWork_cfg r st false
  · rename_i x _
    obtain ⟨hstake, -, -, -⟩ := State.runCut_kept (s := s) (r := r) x st
    have hwork (u : State) : Put r.stake (fun r' => r'.cfg = r.cfg) u (u.endWork (s.runCut r x st) st true) :=
      hstake ▸ (u.endWork_cfg (s.runCut r x st) st true).weaken fun _ hcfg => hcfg.trans (s.runCut_cfg r x st)
    refine Put.from (State.runs_of (State.driveSetting_step _ rfl rfl (State.freeDecoder_step _ rfl rfl
      (Keeps.ite (State.budgetNote_step _ _ _ rfl rfl ?_) ?_)))) (hwork _) <;>
      exact State.traceExch_step _ _ _ _ rfl rfl (Keeps.bumpSat regWindow_schOverrunCnt rfl rfl (Keeps.refl _ _))

/-- The end of a stake's radio work says why there is none, and leaves the configuration as well. -/
theorem State.stopRadio_cfg {s : State} {r : Run} (st : Status) (hr : s.runAt r.port = some r) :
    Put r.stake (fun r' => r'.inert = some st ∧ r'.cfg = r.cfg) s (s.stopRadio r st) := by
  have hcut := s.cutExch_cfg r st
  obtain ⟨r1, hat, hstake, hcfg⟩ := hcut.runAt hr rfl
  exact hcut.after (State.modRun_put hat hstake rfl ⟨rfl, hcfg⟩)

end Sys2Proof.Machine
end

section
/-! SUPPORT. The channel and the carrier of a UHF port (Machine/UhfRadio.lean; R194, R198, R200, R201): a lock that fails, a channel
change that is done, and the time limit of a carrier. -/

namespace Sys2Proof.Machine

/-! ### A lock that fails (R194) -/

/-- The slice has waited for its lock for 4 × 55 µs: in a channel change, or on its way from STANDBY to SYNTH. -/
def Slice.lockLate (x : Slice) (now : Nat) : Prop :=
  x.st = .hop ∧ x.due + 3400 ≤ now ∨ x.st = .standby ∧ x.path.head? = some .synth ∧ x.due + 5000 ≤ now

theorem State.lockTimeout_late {s : State} {p : Nat} {r : Run} (hr : s.runAt p = some r)
    (hlate : (s.slice (s.server p)).lockLate s.now) : s.lockTimeout p = (s.failSlice (s.server p) 1 []).pinsSafe p := by
  unfold State.lockTimeout
  dsimp only
  rw [hr]
  refine if_neg ?_
  rcases hlate with ⟨hst, hdue⟩ | ⟨hst, hpath, hdue⟩
  · simp [hst, hdue]
  · simp [hst, hpath, hdue]

/-- The safe levels are the configuration's, wherever the pins are. -/
theorem State.pinsSafe_pins (s : State) (p : Nat) : ((s.pinsSafe p).port p).paPins = (s.pinsSafe p).paSafe p :=
  congrArg Port.paPins (s.modPort_port_self p fun x => { x with paPins := s.paSafe p, paStep := none })

/-! ### A channel change that is done (R198) -/

/-- The slice is in CARRIER on the new channel, and shows it. -/
def State.hopArrived (s : State) (r : Run) (n p : Nat) (o : SliceObs) : State :=
  ((s.sliceTo n .carrier).sjcLoad r).showTx r n p o

theorem State.hopArrived_runs (s : State) (r : Run) (n p : Nat) (o : SliceObs) : (s.hopArrived r n p o).runs = s.runs :=
  (Measured.showTx n _ r n p o).runs.trans
    (State.runs_of (State.sjcLoad_step r rfl rfl (State.sliceTo_step n .carrier rfl rfl (Keeps.refl _ s))))

theorem State.hopArrived_carrier (s : State) (r : Run) (n p : Nat) (o : SliceObs) :
    ((s.hopArrived r n p o).slice n).st = .carrier ∧ ((s.hopArrived r n p o).slice n).path = [] := by
  have hshown := Measured.showTx n ((s.sliceTo n .carrier).sjcLoad r) r n p o
  have hload : ((s.sliceTo n .carrier).sjcLoad r).slice n = (s.slice n).take (isHf n) .carrier 0 s.now :=
    ((State.sjcLoad_step (msk := 0x100) r rfl rfl (Keeps.refl _ _)).slice_eq n).trans (s.modSlice_slice_self n _)
  exact ⟨hshown.st.trans (congrArg Slice.st hload), hshown.path.trans (congrArg Slice.path hload)⟩

/-- The stake whose channel change is done: SJC has converged, or it has not. -/
def Run.hopped (r : Run) (o : SliceObs) : Run := { r with sjcLow := r.sjcLow || !o.sjcConverged }

/-- The walk of a Gen2 inventory at a new round with the current Q. -/
def Run.newRound (r : Run) : Run :=
  let w : Walk := { r.walk with slot := 0 }
  { r with action := none, walk := { w with next := some (firstCmd r.inner r.block w.pol w) } }

section
variable {s : State} {p : Nat} {r : Run} (o : SliceObs) (hr : s.runAt p = some r)
    (hst : (s.slice (s.server p)).st = .hop) (hpath : (s.slice (s.server p)).path = [.carrier])
    (hdue : s.sliceDue (s.server p) = true)
include hr hst hpath hdue

/-- A channel change that is due and not cut: a stake that runs no Gen2 inventory goes on, and an inventory begins a new round. -/
theorem State.hopDone_due :
    let u := s.hopArrived r (s.server p) p o
    s.hopDone p o = if r.request.isSome ∨ r.inner ≠ 0x10 ∨ r.inert.isSome then u.putRun (r.hopped o)
      else (u.endWork (r.hopped o) .abandoned false).putRun
        (((u.endWork (r.hopped o) .abandoned false).runAt p).getD (r.hopped o)).newRound := by
  unfold State.hopDone
  dsimp only
  rw [hr]
  exact if_neg (by simp [hst, hpath, hdue])

theorem State.hopDone_slice (n : Nat) :
    (s.hopDone p o).slice n = (s.hopArrived r (s.server p) p o).slice n := by
  rw [State.hopDone_due o hr hst hpath hdue]
  split
  · rfl
  · exact (State.endWork_step (msk := 0x100202006204009C) _ _ _ rfl rfl (Keeps.refl _ _)).slice_eq n

theorem State.hopDone_put :
    Put r.stake (fun r' => r.request = none → r.inner = 0x10 → r.inert = none → r'.action = none ∧
      r'.walk.next = some (firstCmd 0x10 r.block r.walk.pol { r.walk with slot := 0 })) s (s.hopDone p o) := by
  have hruns := s.hopArrived_runs r (s.server p) p o
  rw [State.hopDone_due o hr hst hpath hdue]
  split
  · rename_i hother
    exact Put.of _ hruns rfl fun hreq hinner hinert => absurd hother (by simp [hreq, hinner, hinert])
  · have hend := (State.endWork_run (s.hopArrived r (s.server p) p o) (r.hopped o) .abandoned false).from hruns
    obtain ⟨r2, hat, hstake, q, rfl⟩ := hend.runAt hr rfl
    rw [hat]
    exact hend.put _ rfl fun _ hinner _ => ⟨rfl, hinner ▸ rfl⟩

end

/-! ### The time limit of a carrier (R200, R201) -/

/-- The radio work of the stake ends, its carrier falls, and the timeout is counted. -/
def State.timedOut (s : State) (r : Run) (n p : Nat) : State :=
  let t := (s.sjcDown n p).stopRadio r .txTimeout
  (((t.sendFrom n 600 t.now false [.uRampDown, .synth]).modPort p fun x => { x with timedOut := true }).bump
    R.uhaTxtoCnt F.uhaTxtoCnt.count).health p .ok 0x0110 0 []

/-- A carrier at its limit that is not on its way to OFF: a channel change that is due takes the place of the timeout. -/
theorem State.txTimeout_limit {s : State} {p : Nat} {r : Run} (hr : s.runAt p = some r)
    (hst : (s.slice (s.server p)).st = .carrier ∨ (s.slice (s.server p)).st = .uRampUp)
    (hpath : (s.slice (s.server p)).path.head? ≠ some .off) (hlimit : (s.port p).chanStart + r.txLimit ≤ s.now) :
    s.txTimeout p = if s.hopNow r then s.startHop r else (s.timedOut r (s.server p) p).driveCxp := by
  unfold State.txTimeout
  dsimp only
  rw [hr]
  refine if_neg ?_
  rintro (⟨hcarrier, hramp⟩ | hoff | hearly)
  · exact hst.elim hcarrier hramp
  · exact hpath hoff
  · exact Nat.not_lt.mpr hlimit hearly

theorem uhaTxtoCnt_ne_uhaSjcSeed (i b : Nat) : R.uhaTxtoCnt ≠ R.uhaSjcSeed i b := by
  unfold R.uhaTxtoCnt R.uhaSjcSeed famOff2
  split <;> omega

theorem State.sjcDown_txtoCnt (s : State) (n p : Nat) : (s.sjcDown n p).reg R.uhaTxtoCnt = s.reg R.uhaTxtoCnt := by
  unfold State.sjcDown State.sjcSave
  dsimp only
  split
  · split
    · rfl
    · exact State.setReg_reg_ne _ _ (uhaTxtoCnt_ne_uhaSjcSeed _ _)
  · rfl

theorem State.sjcDown_runs (s : State) (n p : Nat) : (s.sjcDown n p).runs = s.runs :=
  State.runs_of (State.sjcDown_step n p rfl rfl (Keeps.refl _ s))

theorem State.timedOut_count (s : State) (r : Run) (n p : Nat) :
    (s.timedOut r n p).fld R.uhaTxtoCnt F.uhaTxtoCnt.count = (s.fld R.uhaTxtoCnt F.uhaTxtoCnt.count + 1) % 2 ^ 32 := by
  have hbefore : Keeps 0x10228320620463DC (s.sjcDown n p)
      ((((s.sjcDown n p).stopRadio r .txTimeout).sendFrom n 600 ((s.sjcDown n p).stopRadio r .txTimeout).now false
        [.uRampDown, .synth]).modPort p fun x => { x with timedOut := true }) :=
    State.modPort_step _ _ rfl rfl (State.sendFrom_step _ _ _ _ _ rfl rfl (State.stopRadio_step _ _ rfl rfl (Keeps.refl _ _)))
  unfold State.timedOut
  rw [(State.health_step (msk := 0x202006004001C) _ _ _ _ _ rfl rfl (Keeps.refl _ _)).fld_eq regWindow_uhaTxtoCnt,
    State.fld_bump_self _ _ _ (by decide), hbefore.fld_eq regWindow_uhaTxtoCnt, State.fld_of_reg (s.sjcDown_txtoCnt n p)]
  rfl

theorem State.timedOut_port (s : State) (r : Run) (n p : Nat) : ((s.timedOut r n p).port p).timedOut = true := by
  unfold State.timedOut
  rw [(State.health_step (msk := 0x202006004001C) _ _ _ _ _ rfl rfl (Keeps.refl _ _)).port_eq p]
  exact congrArg Port.timedOut (State.modPort_port_self _ p fun x => { x with timedOut := true })

theorem State.timedOut_put {s : State} {r : Run} (n p : Nat) (hr : s.runAt r.port = some r) :
    Put r.stake (fun r' => r'.inert = some .txTimeout ∧ r'.exch = none) s (s.timedOut r n p) := by
  have hat : (s.sjcDown n p).runAt r.port = some r := (congrArg (List.find? _) (s.sjcDown_runs n p)).trans hr
  refine ((State.stopRadio_put .txTimeout hat).from (s.sjcDown_runs n p)).keep (State.runs_of ?_)
  exact State.health_step _ _ _ _ _ rfl rfl (Keeps.bump regWindow_uhaTxtoCnt rfl rfl
    (State.modPort_step _ _ rfl rfl (State.sendFrom_step _ _ _ _ _ rfl rfl (Keeps.refl _ _))))

theorem State.timedOut_cxpMode (s : State) (r : Run) (n p : Nat) : (s.timedOut r n p).cxpMode = s.cxpMode := by
  have hall : Keeps 0x10228B20620467DC s (s.timedOut r n p) :=
    State.health_step _ _ _ _ _ rfl rfl (Keeps.bump regWindow_uhaTxtoCnt rfl rfl (State.modPort_step _ _ rfl rfl
      (State.sendFrom_step _ _ _ _ _ rfl rfl (State.stopRadio_step _ _ rfl rfl (State.sjcDown_step _ _ rfl rfl (Keeps.refl _ s))))))
  exact hall.cxpMode_eq (by simp [State.timedOut])

/-- Outside of mode 2 of CXP the wires are all that follows the timeout. -/
theorem State.timedOut_driveCxp {s : State} (r : Run) (n p : Nat) (hmode : s.cxpMode ≠ 2) :
    Keeps 0x400000000800000 (s.timedOut r n p) (s.timedOut r n p).driveCxp :=
  State.driveCxp_apart (by rwa [State.timedOut_cxpMode])

end Sys2Proof.Machine
end

section
/-! SUPPORT. The pins of an external amplifier (Machine/UhfRadio.lean; R207, R208): the sequence of the pins, a fault and its clear,
and the delays that a host writes. -/

namespace Sys2Proof.Machine

/-! ### The sequence (R207) -/

section
variable {s : State} {p : Nat}

theorem State.paSequence_early {k : Nat} (hstep : (s.port p).paStep = some k) (hearly : s.now < s.paDue p k) :
    s.paSequence p = s := by
  unfold State.paSequence
  rw [hstep]
  exact if_pos hearly

/-- EN at d1. -/
theorem State.paSequence_en (hstep : (s.port p).paStep = some 2) (hdue : s.paDue p 2 ≤ s.now) :
    s.paSequence p = (s.setPins p (s.paActive p) 2).modPort p fun x => { x with paStep := some 3 } := by
  unfold State.paSequence
  rw [hstep]
  exact if_neg (Nat.not_lt.mpr hdue)

/-- MODE at d1 + d2. -/
theorem State.paSequence_mode (hstep : (s.port p).paStep = some 3) (hdue : s.paDue p 3 ≤ s.now) :
    s.paSequence p =
      ((s.setPins p (if s.paMode p then 4 else 0) 4).skip 1).modPort p fun x => { x with paStep := some 4 } := by
  unfold State.paSequence
  rw [hstep]
  exact if_neg (Nat.not_lt.mpr hdue)

/-- The drive at d1 + d2 + d3: the pins stand. -/
theorem State.paSequence_drive (hstep : (s.port p).paStep = some 4) (hdue : s.paDue p 4 ≤ s.now) :
    s.paSequence p = s.modPort p fun x => { x with paStep := none } := by
  unfold State.paSequence
  rw [hstep]
  exact if_neg (Nat.not_lt.mpr hdue)

theorem State.setPins_pins (s : State) (p : Nat) (v mask : BitVec 3) :
    ((s.setPins p v mask).port p).paPins = maskPins (s.port p).paPins v mask :=
  congrArg Port.paPins (s.modPort_port_self p fun x => { x with paPins := maskPins x.paPins v mask })

/-- The step that is due falls, and the next one waits for its delay. -/
theorem State.paSequence_due {k : Nat} (hstep : (s.port p).paStep = some k) (hk : k = 2 ∨ k = 3 ∨ k = 4)
    (hdue : s.paDue p k ≤ s.now) :
    ((s.paSequence p).port p).paStep = (if k = 4 then none else some (k + 1)) ∧
      (k = 2 → ((s.paSequence p).port p).paPins = maskPins (s.port p).paPins (s.paActive p) 2) ∧
      (k = 3 → ((s.paSequence p).port p).paPins = maskPins (s.port p).paPins (if s.paMode p then 4 else 0) 4) ∧
      (k = 4 → ((s.paSequence p).port p).paPins = (s.port p).paPins) := by
  rcases hk with rfl | rfl | rfl
  · rw [State.paSequence_en hstep hdue, State.modPort_port_self]
    exact ⟨rfl, fun _ => s.setPins_pins p _ 2, fun h => absurd h (by decide), fun h => absurd h (by decide)⟩
  · rw [State.paSequence_mode hstep hdue, State.modPort_port_self]
    exact ⟨rfl, fun h => absurd h (by decide), fun _ => s.setPins_pins p _ 4, fun h => absurd h (by decide)⟩
  · rw [State.paSequence_drive hstep hdue, State.modPort_port_self]
    exact ⟨rfl, fun h => absurd h (by decide), fun h => absurd h (by decide), fun _ => rfl⟩

end

/-! ### A fault (R208) -/

/-- In a stake an amplifier is driven by the configuration of the stake (R25). -/
theorem State.paWord_of_cfg {s t : State} {p : Nat} {r r' : Run} (hr : s.runAt p = some r) (ht : t.runAt p = some r')
    (hcfg : r'.cfg = r.cfg) : t.paWord p = s.paWord p := by
  unfold State.paWord
  rw [hr, ht]
  dsimp only
  rw [hcfg]

theorem State.paSafe_of_paWord {s t : State} {p : Nat} (h : t.paWord p = s.paWord p) : t.paSafe p = s.paSafe p := by
  unfold State.paSafe
  rw [h]

/-- The port is out of service: its slice in OFF, its pins at their safe levels, and the fault shown. -/
def State.paOut (s : State) (p : Nat) : State :=
  (((s.sliceTo (s.server p) .off).pinsSafe p).setBit (R.uhaPaStatus (uhfIdx p)) F.uhaPaStatus.fault true).modPort p fun x =>
    { x with paFault := true, hold := none }

/-- Once the slice is in OFF only its port changes, and the bit that shows the fault. -/
theorem State.paOut_keeps (s : State) (p : Nat) : Keeps 0x80000000100 (s.sliceTo (s.server p) .off) (s.paOut p) :=
  State.modPort_step _ _ rfl rfl (Keeps.setBit (regWindow_uhaPaStatus _) rfl rfl (State.pinsSafe_step _ rfl rfl (Keeps.refl _ _)))

theorem State.paOut_pins (s : State) (p : Nat) : ((s.paOut p).port p).paPins = s.paSafe p := by
  unfold State.paOut
  rw [State.modPort_port_self]
  exact (congrArg (fun l => (SMap.look Port.dflt l p).paPins) (State.setBit_ports _ _ _ _)).trans
    (congrArg Port.paPins (State.modPort_port_self _ p _))

theorem State.paOut_paFault (s : State) (p : Nat) : ((s.paOut p).port p).paFault = true :=
  congrArg Port.paFault (State.modPort_port_self _ p _)

theorem State.paOut_fault (s : State) (p : Nat) : (s.paOut p).bit (R.uhaPaStatus (uhfIdx p)) F.uhaPaStatus.fault = true :=
  ((State.modPort_step (msk := 0x100) _ _ rfl rfl (Keeps.refl _ _)).bit_eq (regWindow_uhaPaStatus _) _).trans
    (State.bit_setBit_self _ _ _ _ (by decide))

theorem State.paOut_off (s : State) (p : Nat) : ((s.paOut p).slice (s.server p)).st = .off := by
  rw [(s.paOut_keeps p).slice_eq]
  exact congrArg Slice.st (s.modSlice_slice_self _ _)

theorem State.paOut_runs (s : State) (p : Nat) : (s.paOut p).runs = s.runs := (s.paOut_keeps p).runs_eq

theorem State.paFaultHit_out {s : State} {p : Nat} {r : Run} (hr : s.runAt p = some r) :
    s.paFaultHit p = ((s.stopRadio r .sliceSuspect).paOut p).health p .ok 0x0111 0 [] := by
  unfold State.paFaultHit
  rw [hr]
  rfl

/-- What a fault in a stake leaves of its port. -/
structure PaHit (s t : State) (p : Nat) : Prop where
  pins : (t.port p).paPins = s.paSafe p
  paFault : (t.port p).paFault = true
  fault : t.bit (R.uhaPaStatus (uhfIdx p)) F.uhaPaStatus.fault = true
  stake : ∃ r', t.runAt p = some r' ∧ r'.inert = some .sliceSuspect
  off : (t.slice (s.server p)).st = .off

theorem State.paFaultHit_hit {s : State} {p : Nat} {r : Run} (hr : s.runAt p = some r) (hport : s.runAt r.port = some r) :
    PaHit s (s.paFaultHit p) p := by
  obtain ⟨r', hat, -, hinert, hcfg⟩ := (State.stopRadio_cfg .sliceSuspect hport).runAt hr rfl
  have hstop : Keeps 0x10228320620462DC s (s.stopRadio r .sliceSuspect) := State.stopRadio_step _ _ rfl rfl (Keeps.refl _ s)
  have htold : Keeps 0x202006004001C ((s.stopRadio r .sliceSuspect).paOut p) (s.paFaultHit p) := by
    rw [State.paFaultHit_out hr]
    exact State.health_step _ _ _ _ _ rfl rfl (Keeps.refl _ _)
  refine ⟨?_, ?_, ?_, ⟨r', ?_, hinert⟩, ?_⟩
  · rw [htold.port_eq p, State.paOut_pins]
    exact State.paSafe_of_paWord (State.paWord_of_cfg hr hat hcfg)
  · rw [htold.port_eq p, State.paOut_paFault]
  · rw [htold.bit_eq (regWindow_uhaPaStatus _), State.paOut_fault]
  · rw [htold.runAt_eq p]
    exact (congrArg (List.find? _) (State.paOut_runs _ p)).trans hat
  · rw [htold.slice_eq, ← hstop.server_eq p, State.paOut_off]

/-- The level of PAn_FAULT_N is taken and shown. -/
def State.paPinTaken (s : State) (p : Nat) (low : Bool) : State :=
  (s.modPort p fun x => { x with faultLow := low }).setBit (R.uhaPaStatus (uhfIdx p)) F.uhaPaStatus.faultPin low

theorem State.paPinTaken_runs (s : State) (p : Nat) (low : Bool) : (s.paPinTaken p low).runs = s.runs :=
  State.runs_of (Keeps.setBit (regWindow_uhaPaStatus _) rfl rfl (State.modPort_step _ _ rfl rfl (Keeps.refl _ s)))

theorem State.paPinTaken_port (s : State) (p : Nat) (low : Bool) :
    (s.paPinTaken p low).port p = { s.port p with faultLow := low } :=
  (congrArg (SMap.look Port.dflt · p) (State.setBit_ports _ _ _ _)).trans (s.modPort_port_self p _)

theorem State.paFaultPin_high (s : State) (p : Nat) : s.paFaultPin p false = s.paPinTaken p false := by
  unfold State.paFaultPin
  exact if_neg fun ⟨hlow, _⟩ => Bool.false_ne_true hlow

/-- A low level while BIAS is active in a stake takes the port out of service. -/
theorem State.paFaultPin_low {s : State} {p : Nat} {r : Run} (hup : s.up = true) (hr : s.runAt p = some r) (hext : s.paExt p = true)
    (hbias : (s.port p).paPins.getLsbD 0 = (s.paActive p).getLsbD 0) :
    s.paFaultPin p true = (s.paPinTaken p true).paFaultHit p :=
  if_pos ⟨rfl, hup, hext, hbias, hr ▸ rfl⟩

theorem State.paFaultPin_hit {s : State} {p : Nat} {r : Run} (hup : s.up = true) (hr : s.runAt p = some r)
    (hport : s.runAt r.port = some r) (hext : s.paExt p = true)
    (hbias : (s.port p).paPins.getLsbD 0 = (s.paActive p).getLsbD 0) : PaHit s (s.paFaultPin p true) p := by
  have hat (q : Nat) : (s.paPinTaken p true).runAt q = s.runAt q := congrArg (List.find? _) (s.paPinTaken_runs p true)
  have hhit := State.paFaultHit_hit ((hat p).trans hr) ((hat r.port).trans hport)
  have hserver : (s.paPinTaken p true).server p = s.server p := by
    unfold State.server
    rw [State.paPinTaken_port]
  rw [State.paFaultPin_low hup hr hext hbias]
  exact ⟨hhit.pins.trans (State.paSafe_of_paWord (State.paWord_of_cfg hr ((hat p).trans hr) rfl)), hhit.paFault, hhit.fault,
    hhit.stake, hserver ▸ hhit.off⟩

/-! ### What a host writes (R6, R207, R208) -/

theorem uhfPort_slice {p : Nat} (hp : isUhfPort p = true) : isUhfSlice p = true ∧ p ≠ 80 := by
  simp only [isUhfPort, isUhfSlice, Bool.and_eq_true, decide_eq_true_eq] at hp ⊢
  omega

theorem State.paFaultClear_high {s : State} {p : Nat} (hup : s.up = true) (hp : p ≠ 80) (hhigh : (s.port p).faultLow = false) :
    s.paFaultClear p = s.setBit (R.uhaPaStatus (uhfIdx p)) F.uhaPaStatus.fault false := if_neg (by simp [hup, hp, hhigh])

theorem State.paFaultClear_low {s : State} {p : Nat} (hlow : (s.port p).faultLow = true) : s.paFaultClear p = s :=
  if_pos (.inr (.inr hlow))

/-- d1 + d2 + d3 of a word, in µs. -/
def paDelays (v : Word) : Nat := Word.get v F.uhaPaCfg.d1Us + Word.get v F.uhaPaCfg.d2Us + Word.get v F.uhaPaCfg.d3Us

section
variable {s : State} {p : Nat} {v : Word} (hup : s.up = true) (hp : isUhfPort p = true) (hlocked : s.locked = false)
include hup hp hlocked

theorem State.paCfgWrite_refused (hlong : 30 < paDelays v) :
    s.paCfgWrite p v = s.setBit (R.uhaPaStatus (uhfIdx p)) F.uhaPaStatus.cfgRefused true :=
  (if_neg (by simp [hup, (uhfPort_slice hp).2, hlocked])).trans (if_pos hlong)

/-- Delays that fit are written; at most the pins of the port follow. -/
theorem State.paCfgWrite_taken (hfits : paDelays v ≤ 30) :
    (s.paCfgWrite p v).reg (R.uhaPaCfg (uhfIdx p)) = (s.hostWrite (R.uhaPaCfg (uhfIdx p)) v).reg (R.uhaPaCfg (uhfIdx p)) := by
  unfold paDelays at hfits
  unfold State.paCfgWrite
  rw [if_neg (by simp [hup, (uhfPort_slice hp).2, hlocked]), if_neg (Nat.not_lt.mpr hfits)]
  dsimp only
  split
  · exact (State.modPort_step (msk := 0x100) _ _ rfl rfl (Keeps.refl _ _)).reg_eq (regWindow_uhaPaCfg _)
  · rfl

end

theorem uhfIdx_lt {p : Nat} (hp : isUhfPort p = true) : uhfIdx p < 16 := by
  simp only [isUhfPort, Bool.and_eq_true, decide_eq_true_eq] at hp
  unfold uhfIdx
  omega

theorem uhaPaCfg_ne_uhaPaStatus {i : Nat} (hi : i < 16) : R.uhaPaCfg i ≠ R.uhaPaStatus i := by
  unfold R.uhaPaCfg R.uhaPaStatus famOff
  rw [if_pos (by omega), if_pos (by omega)]
  omega

/-- Every UHF port has its UHA_PA_CFG in the register map (R219). -/
theorem regAt_uhaPaCfg : ∀ i < 16, (regAt (R.uhaPaCfg i)).isSome = true := by decide +kernel

theorem State.hostWrite_reg_self {s : State} {off : Nat} {d : RegDesc} (v : Word) (hd : regAt off = some d) :
    (s.hostWrite off v).reg off = mergeWrite s.locked d (s.reg off) (s.taken d off v) := by
  unfold State.hostWrite State.writeReg
  rw [hd]
  exact State.setReg_reg_self _ _ _

end Sys2Proof.Machine
end

section
/-! The statements of 07_uhf_slices.md, settled. -/

open Sys2Proof Sys2Proof.Machine

/-- Settles O21: a late lock fails its slice (`State.lockTimeout_late`, `State.failSlice_self`); a channel change that is due ends in
CARRIER, an inventory with a new round (`State.hopArrived_carrier`, `State.hopDone_put`); a carrier at its limit gives way to a
channel change, or is timed out (`State.txTimeout_limit`, `State.timedOut_put`, `State.timedOut_count`). -/
theorem carrierTimes : Obligations.CarrierTimes := by
  intro p o r s hp hr
  refine ⟨fun hlate => ?lock, fun hst hpath hdue => ?hop, fun hst hpath hlimit hmode hport => ?limit⟩
  case lock =>
    exact ⟨_, (if_pos hp).trans (congrArg Host.Outcome.next (State.lockTimeout_late hr hlate)), s.failSlice_self _ 1 [],
      State.pinsSafe_pins _ p⟩
  case hop =>
    obtain ⟨r', hat, hstake, hround⟩ := (State.hopDone_put o hr hst hpath hdue).runAt hr rfl
    obtain ⟨hcarrier, hrest⟩ := s.hopArrived_carrier r (s.server p) p o
    have hslice := State.hopDone_slice o hr hst hpath hdue (s.server p)
    exact ⟨_, r', if_pos hp, hslice ▸ hcarrier, hslice ▸ hrest, hat, hstake, hround⟩
  case limit =>
    have hnext : exec (.txTimeout p) s = .next _ :=
      (if_pos hp).trans (congrArg Host.Outcome.next (State.txTimeout_limit hr hst hpath hlimit))
    refine ⟨fun hhop => hnext.trans (congrArg Host.Outcome.next (if_pos hhop)), fun hstay => ?_⟩
    have hwires := State.timedOut_driveCxp r (s.server p) p hmode
    obtain ⟨r', hat, hstake, hinert, hexch⟩ := (s.timedOut_put (s.server p) p hport).runAt hr rfl
    refine ⟨_, r', hnext.trans (congrArg Host.Outcome.next (if_neg (by simp [hstay]))), (hwires.runAt_eq p).trans hat, hstake,
      hinert, hexch, ?_, ?_⟩
    · rw [hwires.port_eq p, State.timedOut_port]
    · rw [hwires.fld_eq regWindow_uhaTxtoCnt, State.timedOut_count]

/-- Settles O22: a step of the sequence falls when it is due (`State.paSequence_due`); a fault takes the port out of service with the
safe levels of its stake (`State.paFaultPin_hit`); fault is cleared while the pin is high (`State.paFaultClear_high`); delays that are
too long are refused, others are written (`State.paCfgWrite_refused`, `State.paCfgWrite_taken`). -/
theorem paPins : Obligations.PaPins := by
  refine ⟨fun p k s hp hstep hk => ⟨fun hdue => ?due, fun hearly => ?early⟩,
    fun p r s hp hup hr hport hext hbias => ?fault, fun p s hp => ?high, fun m p v s hp hup => ?host⟩
  case due => exact ⟨_, if_pos hp, State.paSequence_due hstep hk hdue⟩
  case early => exact (if_pos hp).trans (congrArg Host.Outcome.next (State.paSequence_early hstep hearly))
  case fault =>
    obtain ⟨hpins, hpaFault, hfault, ⟨r', hat, hinert⟩, hoff⟩ := State.paFaultPin_hit hup hr hport hext hbias
    exact ⟨_, r', if_pos hp, hpins, hpaFault, hfault, hat, hinert, hoff⟩
  case high =>
    refine ⟨_, (if_pos hp).trans (congrArg Host.Outcome.next (s.paFaultPin_high p)), ?_, s.paPinTaken_runs p false⟩
    rw [State.paPinTaken_port]
  case host =>
    obtain ⟨hslice, hown⟩ := uhfPort_slice hp
    refine ⟨fun hhigh => ⟨_, (if_pos hslice).trans (congrArg Host.Outcome.next (State.paFaultClear_high hup hown hhigh)),
        State.bit_setBit_self _ _ _ _ (by decide)⟩,
      fun hlow => (if_pos hslice).trans (congrArg Host.Outcome.next (State.paFaultClear_low hlow)),
      fun hlocked hlong => ⟨_, (if_pos hslice).trans (congrArg Host.Outcome.next (State.paCfgWrite_refused hup hp hlocked hlong)),
        State.bit_setBit_self _ _ _ _ (by decide), State.setBit_reg_ne _ _ _ (uhaPaCfg_ne_uhaPaStatus (uhfIdx_lt hp))⟩,
      fun hlocked hfits => ?_⟩
    obtain ⟨d, hd⟩ := Option.isSome_iff_exists.mp (regAt_uhaPaCfg _ (uhfIdx_lt hp))
    refine ⟨_, d, if_pos hslice, hd, ?_⟩
    rw [State.paCfgWrite_taken hup hp hlocked hfits, State.hostWrite_reg_self v hd, hlocked]

end

section
/-! SUPPORT. A PICC of Awning (Machine/Picc.lean, Machine/Awning.lean; R221 to R225): the stake that listens for it, the
words of its image, its frames and its answers, and what reads of Groundsheet and verdicts leave of all these. -/

namespace Sys2Proof.Machine

/-! ### The state of a PICC -/

theorem State.setAwn_awn_self (s : State) (i : Nat) (x : Awning) : (s.setAwn i x).awn i = x := SMap.look_put_self _ _ _ _

theorem State.setAwn_out (s : State) (i : Nat) (x : Awning) : (s.setAwn i x).out = s.out := rfl

theorem State.modAwn_fld (s : State) (i : Nat) (g : Awning → Awning) (o : Nat) (f : Fld) : (s.modAwn i g).fld o f = s.fld o f := rfl

theorem State.modAwn_awn_self (s : State) (i : Nat) (f : Awning → Awning) : (s.modAwn i f).awn i = f (s.awn i) :=
  s.setAwn_awn_self i _

theorem Keeps.awn_eq {w : Nat} {s t : State} (h : Keeps w s t) (i : Nat) (h1 : w.testBit 63 = false := by rfl)
    (h2 : w.testBit 16 = false := by rfl) : t.awn i = s.awn i := by
  unfold State.awn
  rw [h.awning (.inl h1) h2]

/-! ### The stake that listens (R222) -/

/-- What the stake that listens for a PICC depends on is as it was. -/
structure ListenerKept (i : Nat) (s t : State) : Prop where
  img : t.reg (R.awnImg i) = s.reg (R.awnImg i)
  regions : ∀ q, t.reg (R.pitRegion q) = s.reg (R.pitRegion q)
  runs : t.runs = s.runs
  ports : t.ports = s.ports
  slices : t.slices = s.slices

theorem ListenerKept.of_keeps {w : Nat} {s t : State} (h : Keeps w s t) (i : Nat) (h1 : w.testBit 63 = false := by rfl)
    (hruns : w.testBit 7 = false := by rfl) (hports : w.testBit 8 = false := by rfl) (hslices : w.testBit 9 = false := by rfl)
    (hpit : w.testBit 52 = false := by rfl) (hawn : w.testBit 54 = false := by rfl) : ListenerKept i s t where
  img := h.reg_eq (regWindow_awnImg i) h1 hawn
  regions q := h.reg_eq (regWindow_pitRegion q) h1 hpit
  runs := h.runs (.inl h1) hruns
  ports := h.ports (.inl h1) hports
  slices := h.slices (.inl h1) hslices

theorem awnImg_ne_awnStatus {i : Nat} (hi : i < 4) (j : Nat) : R.awnImg i ≠ R.awnStatus j := by
  unfold R.awnImg R.awnStatus famOff
  split_ifs <;> omega

theorem awnImg_ne_awnCtrl {i : Nat} (hi : i < 4) (j : Nat) : R.awnImg i ≠ R.awnCtrl j := by
  unfold R.awnImg R.awnCtrl famOff
  split_ifs <;> omega

theorem pitRegion_ne_awnStatus (q j : Nat) : R.pitRegion q ≠ R.awnStatus j := fun h => by
  have hwindow := (regWindow_pitRegion q).symm.trans ((congrArg regWindow h).trans (regWindow_awnStatus j))
  exact absurd hwindow (by decide)

namespace ListenerKept

variable {i : Nat} {s t u : State}

theorem trans (h : ListenerKept i s t) (g : ListenerKept i t u) : ListenerKept i s u where
  img := g.img.trans h.img
  regions q := (g.regions q).trans (h.regions q)
  runs := g.runs.trans h.runs
  ports := g.ports.trans h.ports
  slices := g.slices.trans h.slices

/-- Status bits of Awning are no part of it. -/
theorem setFld_status (hi : i < 4) (s : State) (j : Nat) (f : Fld) (v : Nat) : ListenerKept i s (s.setFld (R.awnStatus j) f v) :=
  ⟨State.setFld_reg_ne _ _ _ (awnImg_ne_awnStatus hi j), fun q => State.setFld_reg_ne _ _ _ (pitRegion_ne_awnStatus q j), rfl, rfl, rfl⟩

theorem setBit_status (hi : i < 4) (s : State) (j : Nat) (f : Fld) (b : Bool) : ListenerKept i s (s.setBit (R.awnStatus j) f b) :=
  ⟨State.setBit_reg_ne _ _ _ (awnImg_ne_awnStatus hi j), fun q => State.setBit_reg_ne _ _ _ (pitRegion_ne_awnStatus q j),
    State.setBit_runs .., State.setBit_ports .., State.setBit_slices ..⟩

theorem setAwn (s : State) (j : Nat) (x : Awning) : ListenerKept i s (s.setAwn j x) := ⟨rfl, fun _ => rfl, rfl, rfl, rfl⟩

theorem modAwn (s : State) (j : Nat) (f : Awning → Awning) : ListenerKept i s (s.modAwn j f) := .setAwn s j _

variable (h : ListenerKept i s t)
include h

theorem awnRegion : t.awnRegion i = s.awnRegion i := by
  unfold State.awnRegion
  rw [State.fld_of_reg h.img]

theorem awnBase : t.awnBase i = s.awnBase i := congrArg Prod.fst h.awnRegion

theorem awnPitch : t.awnPitch i = s.awnPitch i := State.fld_of_reg h.img _

theorem awnOn : t.awnOn i = s.awnOn i := by
  unfold State.awnOn State.awnBadRegion
  rw [State.bit_of_reg h.img, h.awnPitch, h.awnRegion, State.region_of (fun q _ => h.regions q)]

theorem listener : t.listener i = s.listener i := by
  unfold State.listener State.slice State.server State.port
  rw [h.awnOn, h.runs, h.ports, h.slices]

theorem lmDepth : t.lmDepth i = s.lmDepth i := by
  unfold State.lmDepth
  rw [h.listener]

end ListenerKept

/-! ### Verdicts and reads (R248, R256) -/

/-- Words of Groundsheet have been read and verdicts given: single errors are corrected, and nothing else that the PICC sees has
changed. -/
structure Looked (s t : State) : Prop where
  keeps : Keeps 0x3000000000004 s t
  ue : ∀ a, t.isUe a = s.isUe a

theorem Looked.refl (s : State) : Looked s s := ⟨Keeps.refl _ s, fun _ => rfl⟩

theorem Looked.trans {s t u : State} (h : Looked s t) (g : Looked t u) : Looked s u :=
  ⟨h.keeps.trans rfl g.keeps, fun a => (g.ue a).trans (h.ue a)⟩

theorem Looked.touch (s : State) (a : Nat) : Looked s (s.touch a) :=
  ⟨State.touch_step a rfl rfl (Keeps.refl _ s), s.touch_isUe a⟩

theorem Looked.touchAll (s : State) (l : List Nat) : Looked s (s.touchAll l) :=
  ⟨State.touchAll_step l rfl rfl (Keeps.refl _ s), s.touchAll_isUe l⟩

theorem State.chkFrame_keeps (s : State) (r : Run) (bytes : List Byte) (crc : BitVec 16) :
    Keeps 0x1000000000000 s (s.chkFrame r bytes crc) := State.chkFrame_step r bytes crc rfl rfl (Keeps.refl _ s)

theorem Looked.chkFrame (s : State) (r : Run) (bytes : List Byte) (crc : BitVec 16) : Looked s (s.chkFrame r bytes crc) where
  keeps := (s.chkFrame_keeps r bytes crc).mono rfl
  ue a := by
    unfold State.isUe State.upset
    rw [(s.chkFrame_keeps r bytes crc).ecc (.inl rfl) rfl]

/-- A readable word that is read is corrected where it has a single error. -/
theorem State.touch_readable {s : State} {a : Nat} (h : s.isUe a = false) : s.touch a = s.correct a :=
  if_neg (by simp [h])

theorem State.liveLoad_readable {s : State} {i w : Nat} (h : s.isUe (s.awnBase i + 8 * w) = false) :
    s.liveLoad i w = (s.touch (s.awnBase i + 8 * w), s.imgWord (s.awnBase i) w) := by
  rw [State.touch_readable h]
  exact if_neg (by simp [h])

namespace Looked

variable {s t : State} (h : Looked s t)
include h

theorem awning : t.awning = s.awning := h.keeps.awning (.inl rfl) rfl

theorem awn (i : Nat) : t.awn i = s.awn i := h.keeps.awn_eq i

theorem out : t.out = s.out := h.keeps.out (.inl rfl) rfl

theorem kept (i : Nat) : ListenerKept i s t := .of_keeps h.keeps i

theorem lmDepth (i : Nat) : t.lmDepth i = s.lmDepth i := (h.kept i).lmDepth

theorem awnBase (i : Nat) : t.awnBase i = s.awnBase i := (h.kept i).awnBase

theorem word (a : Nat) : t.word a = s.word a := State.word_of_bytes fun x _ _ => h.keeps.byte_eq x

theorem imgWord (base w : Nat) : t.imgWord base w = s.imgWord base w := h.word _

/-- One more readable word of the image. -/
theorem liveLoad {i w : Nat} (hread : s.isUe (s.awnBase i + 8 * w) = false) :
    Looked s (t.liveLoad i w).1 ∧ (t.liveLoad i w).2 = s.imgWord (s.awnBase i) w := by
  rw [State.liveLoad_readable (by rw [h.ue, h.awnBase, hread]), h.awnBase]
  exact ⟨h.trans (.touch t _), h.imgWord _ w⟩

theorem uidLoad {i : Nat} (hread : s.isUe (s.awnBase i + 8 * 1) = false) :
    Looked s (t.uidLoad i).1 ∧ (t.uidLoad i).2 = piccUid (s.imgWord (s.awnBase i) 1) (s.awn i).randomUid := by
  obtain ⟨hlooked, hword⟩ := h.liveLoad hread
  refine ⟨hlooked, ?_⟩
  show piccUid (t.liveLoad i 1).2 (t.awn i).randomUid = _
  rw [hword, h.awn]

end Looked

/-! ### What the PICC sends (R225) -/

theorem State.piccSend_out (s : State) (i : Nat) (l : List Byte) : (s.piccSend i l).out = .picc i (s.lmDepth i) l :: s.out := rfl

theorem Looked.piccSend_out {s t : State} (h : Looked s t) (i : Nat) (l : List Byte) :
    (t.piccSend i l).out = .picc i (s.lmDepth i) l :: s.out := by
  rw [State.piccSend_out, h.lmDepth, h.out]

/-- The PICC sends in a state that it has just taken. -/
theorem Looked.setAwn_piccSend_out {s t : State} (h : Looked s t) (i : Nat) (x : Awning) (l : List Byte) :
    ((t.setAwn i x).piccSend i l).out = .picc i (s.lmDepth i) l :: s.out := by
  rw [State.piccSend_out, (ListenerKept.setAwn t i x).lmDepth, h.lmDepth, State.setAwn_out, h.out]

theorem State.setAwn_piccSend_awn (s : State) (i : Nat) (x : Awning) (l : List Byte) : ((s.setAwn i x).piccSend i l).awn i = x :=
  s.setAwn_awn_self i x

/-- An answer has the same frame and goes out at the same depth. -/
structure SameVoice (i : Nat) (s t : State) : Prop where
  depth : t.lmDepth i = s.lmDepth i
  block : (t.awn i).block = (s.awn i).block
  cid : (t.awn i).cid = (s.awn i).cid
  fsd : (t.awn i).fsd = (s.awn i).fsd

theorem SameVoice.trans {i : Nat} {s t u : State} (h : SameVoice i s t) (g : SameVoice i t u) : SameVoice i s u :=
  ⟨g.depth.trans h.depth, g.block.trans h.block, g.cid.trans h.cid, g.fsd.trans h.fsd⟩

theorem SameVoice.of_kept {i : Nat} {s t : State} (h : ListenerKept i s t) (hawn : t.awn i = s.awn i) : SameVoice i s t :=
  ⟨h.lmDepth, congrArg _ hawn, congrArg _ hawn, congrArg _ hawn⟩

theorem Looked.voice {s t : State} (h : Looked s t) (i : Nat) : SameVoice i s t := .of_kept (h.kept i) (h.awn i)

theorem SameVoice.iBlock {i : Nat} {s t : State} (h : SameVoice i s t) (answer : List Byte) : t.iBlock i answer = s.iBlock i answer := by
  unfold State.iBlock pcbHead
  simp only [h.block, h.cid, h.fsd]

/-- The next I-block of an answer. -/
theorem State.sendBlock_out (s : State) (i : Nat) (rest : List Byte) :
    (s.sendBlock i (!(s.awn i).block) rest).out = .picc i (s.lmDepth i) (s.iBlock i rest) :: s.out := by
  have hmore (room : Nat) : ((rest.drop room).isEmpty = true) = (rest.length ≤ room) := by
    rw [List.isEmpty_iff, List.drop_eq_nil_iff]
  unfold State.sendBlock State.iBlock
  simp only [hmore, State.piccSend_out, (ListenerKept.setAwn s i _).lmDepth, State.setAwn_out]

theorem SameVoice.sendBlock_out {i : Nat} {s t : State} (h : SameVoice i s t) (rest : List Byte) :
    (t.sendBlock i (!(s.awn i).block) rest).out = .picc i (s.lmDepth i) (s.iBlock i rest) :: t.out := by
  rw [← h.block, State.sendBlock_out, h.iBlock, h.depth]

/-- The PICC after an I-block: what does not fit the frame stays to be sent. -/
theorem State.sendBlock_awn (s : State) (i : Nat) (block : Bool) (rest : List Byte) :
    ∃ frame, (s.sendBlock i block rest).awn i = { s.awn i with
      block := block, last := frame, chain := rest.drop ((s.awn i).fsd - 3 - (if (s.awn i).cid = 0 then 0 else 1)) } :=
  ⟨_, State.setAwn_piccSend_awn ..⟩

end Sys2Proof.Machine
end

section
/-! SUPPORT. How a session of the PICC begins and ends, and the frames that it takes (Machine/Picc.lean, Machine/Awning.lean; R222, R223,
R225, R226). -/

namespace Sys2Proof.Machine

/-! ### The end of a session (R223) -/

/-- The session has ended and the PICC has taken a state: nothing is held, and the field log is empty. -/
structure Awning.Ended (x : Awning) (st : PiccState) : Prop where
  picc : x.picc = st
  session : x.session = false
  holdUntil : x.holdUntil = none
  log : x.log = []

theorem State.fieldApply_log (s : State) (i : Nat) : ((s.fieldApply i).awn i).log = [] := by
  unfold State.fieldApply
  split
  · assumption
  · dsimp only
    rw [(State.awnEvent_step (msk := 0x202006004001C) i _ _ _ rfl rfl (Keeps.refl _ _)).awn_eq i, State.modAwn_awn_self]

theorem State.sessionEnd_ended (s : State) (i : Nat) (st : PiccState) : ((s.sessionEnd i st).awn i).Ended st := by
  have hlog := s.fieldApply_log i
  unfold State.sessionEnd
  dsimp only
  rw [State.modAwn_awn_self]
  refine ⟨rfl, rfl, rfl, ?_⟩
  rw [State.awn, State.setBit_awning]
  exact hlog

/-- Without a field log the end of a session puts nothing out. -/
theorem State.sessionEnd_out {s : State} {i : Nat} (st : PiccState) (h : (s.awn i).log = []) : (s.sessionEnd i st).out = s.out := by
  have happly : s.fieldApply i = s := by
    unfold State.fieldApply
    rw [h]
  show (((s.fieldApply i).setBit _ _ _).modAwn i _).out = s.out
  rw [happly]
  exact State.setBit_out ..

/-- A PICC whose field is gone, with its next random UID. -/
def Awning.gone (rnd : BitVec 32) (x : Awning) : Awning := { x with field := false, port := none, randomUid := rnd }

theorem State.awnPowerOff_awn (s : State) (i : Nat) :
    ((s.awnPowerOff i).awn i).Ended .powerOff ∧ ((s.awnPowerOff i).awn i).field = false := by
  obtain ⟨hpicc, hsession, hhold, hlog⟩ := s.sessionEnd_ended i .powerOff
  have hawn : (s.awnPowerOff i).awn i = Awning.gone _ ((s.sessionEnd i .powerOff).awn i) :=
    State.modAwn_awn_self (s.sessionEnd i .powerOff) i (Awning.gone ((Config.freeWord (s.sessionEnd i .powerOff).fresh).setWidth 32))
  rw [hawn]
  exact ⟨⟨hpicc, hsession, hhold, hlog⟩, rfl⟩

theorem State.holdOver_due {s : State} {i at_ : Nat} (h : (s.awn i).holdUntil = some at_) (hdue : at_ ≤ s.now) :
    s.holdOver i = s.awnPowerOff i := by
  unfold State.holdOver
  rw [h]
  exact if_pos hdue

theorem State.holdOver_early {s : State} {i at_ : Nat} (h : (s.awn i).holdUntil = some at_) (hearly : s.now < at_) :
    s.holdOver i = s := by
  unfold State.holdOver
  rw [h]
  exact if_neg (Nat.not_le.mpr hearly)

/-! ### The field (R222) -/

/-- A PICC in the field that a stake has found. -/
def Awning.inField (x : Awning) (r : Run) : Awning :=
  { x with field := true, port := some r.port, fifo := blkFifo r.block, picc := if x.picc = .powerOff then .idle else x.picc }

theorem State.fieldDetect_taken {s : State} {i : Nat} {r : Run} {o : CarrierObs} (h : s.listener i = some r)
    (hok : s.carrierOk r o = true) :
    (s.fieldDetect i o).awn i = ((if (s.awn i).holdUntil.isSome then s.awnPowerOff i else s).awn i).inField r := by
  unfold State.fieldDetect
  simp only [h, hok, Bool.not_true, Bool.false_eq_true, if_false]
  exact State.modAwn_awn_self _ i (Awning.inField · r)

theorem State.fieldDetect_refused {s : State} {i : Nat} {r : Run} {o : CarrierObs} (h : s.listener i = some r)
    (hbad : s.carrierOk r o = false) : s.fieldDetect i o = s := by
  simp [State.fieldDetect, h, hbad]

theorem State.hears_some {s : State} {i : Nat} {r : Run} (h : s.hears i = some r) :
    (s.awn i).field = true ∧ s.listener i = some r := by
  unfold State.hears at h
  split at h
  · exact ⟨‹_›, h⟩
  · cases h

theorem State.fieldLost_due {s : State} {i absent : Nat} {r : Run} (h : s.hears i = some r) (hlost : 4000 ≤ absent) :
    s.fieldLost i absent = s.awnPowerOff i := by
  obtain ⟨hfield, hlistener⟩ := State.hears_some h
  have hnot : ¬ absent < usTicks 100 := Nat.not_lt.mpr hlost
  simp [State.fieldLost, hfield, hlistener, hnot]

theorem State.fieldLost_early {s : State} {i absent : Nat} (hearly : absent < 4000) : s.fieldLost i absent = s :=
  if_pos (.inr hearly)

/-! ### Frames with a CRC (R226, R247, R248) -/

/-- A frame is not answered, and leaves the PICC as it is. -/
def Unanswered (s t : State) : Prop := t.out = s.out ∧ t.awning = s.awning

theorem Looked.unanswered {s t : State} (h : Looked s t) : Unanswered s t := ⟨h.out, h.awning⟩

section
variable {s : State} {i : Nat} {r : Run} {takes : Bool} {bytes : List Byte} {crc : BitVec 16} {f : State → State}

theorem State.framed_taken (htakes : takes = true) (hfree : s.applying i = false) (hcrc : crcAOk bytes crc = true) :
    s.framed i r takes bytes crc f = f (s.chkFrame r bytes crc) := by
  simp [State.framed, htakes, hfree, hcrc]

/-- A frame that the PICC does not take has its verdict alone; one that fails leaves a PICC in PROTOCOL as it is. -/
theorem State.framed_left (h : takes = false ∨ s.applying i = true ∨ crcAOk bytes crc = false ∧ (s.awn i).picc = .protocol) :
    s.framed i r takes bytes crc f = s.chkFrame r bytes crc := by
  unfold State.framed
  rcases h with htakes | hbusy | ⟨hcrc, hpicc⟩
  · simp [htakes]
  · simp [hbusy]
  · simp [hcrc, hpicc]

theorem State.framed_unanswered (h : takes = false ∨ s.applying i = true ∨ crcAOk bytes crc = false ∧ (s.awn i).picc = .protocol) :
    Unanswered s (s.framed i r takes bytes crc f) := by
  rw [State.framed_left h]
  exact (Looked.chkFrame s r bytes crc).unanswered

/-- The PICC after a frame that fails in READY or ACTIVE. -/
def Awning.atRest (x : Awning) : Awning := { x with picc := restState x }

theorem State.framed_failed (htakes : takes = true) (hfree : s.applying i = false) (hcrc : crcAOk bytes crc = false)
    (hpicc : (s.awn i).picc = .ready ∨ (s.awn i).picc = .active) :
    s.framed i r takes bytes crc f = (s.chkFrame r bytes crc).modAwn i Awning.atRest := by
  unfold State.framed
  simp only [htakes, hfree, hcrc, hpicc, if_true, Bool.not_true, Bool.or_false, Bool.false_eq_true, if_false]
  rfl

theorem State.framed_failed_rest (htakes : takes = true) (hfree : s.applying i = false) (hcrc : crcAOk bytes crc = false)
    (hpicc : (s.awn i).picc = .ready ∨ (s.awn i).picc = .active) :
    (s.framed i r takes bytes crc f).out = s.out ∧
      ((s.framed i r takes bytes crc f).awn i).picc = if (s.awn i).halted then .halt else .idle := by
  have hlooked := Looked.chkFrame s r bytes crc
  rw [State.framed_failed htakes hfree hcrc hpicc, State.modAwn_awn_self, hlooked.awn]
  exact ⟨hlooked.out, rfl⟩

theorem State.chkFrame_failCnt (hunit : blkAwnChk r.block < 48) (hcrc : crcAOk bytes crc = false) :
    (s.chkFrame r bytes crc).fld R.chkFailCnt F.chkFailCnt.count = (s.fld R.chkFailCnt F.chkFailCnt.count + 1) % 2 ^ 32 := by
  unfold State.chkFrame
  rw [State.chkResult_failCnt hunit, hcrc]
  rfl

end

end Sys2Proof.Machine
end

section
/-! SUPPORT. The PICC in READY and ACTIVE (Machine/Awning.lean; ISO/IEC 14443-3, R223, R225): requests, ANTICOLLISION, SELECT and HLTA. -/

namespace Sys2Proof.Machine

/-! ### Bytes of word 2 of an image (R228) -/

/-- The SAK. -/
theorem sak_byte (w : Word) : (BitVec.ofNat 8 (Word.get w (23, 16)) : Byte) = (w >>> 16).setWidth 8 := by
  apply BitVec.eq_of_toNat_eq
  simp only [Word.get, BitVec.toNat_ofNat, BitVec.toNat_setWidth, BitVec.toNat_ushiftRight, Nat.shiftRight_eq_div_pow]
  omega

/-- The ATQA, its low byte first. -/
theorem atqa_bytes (w : Word) : ([BitVec.ofNat 8 (Word.get w (15, 0) % 256), BitVec.ofNat 8 (Word.get w (15, 0) / 256)] : List Byte) =
    [w.setWidth 8, (w >>> 8).setWidth 8] := by
  have hlow : (BitVec.ofNat 8 (Word.get w (15, 0) % 256) : Byte) = w.setWidth 8 := by
    apply BitVec.eq_of_toNat_eq
    simp only [Word.get, BitVec.toNat_ofNat, BitVec.toNat_setWidth]
    omega
  have hhigh : (BitVec.ofNat 8 (Word.get w (15, 0) / 256) : Byte) = (w >>> 8).setWidth 8 := by
    apply BitVec.eq_of_toNat_eq
    simp only [Word.get, BitVec.toNat_ofNat, BitVec.toNat_setWidth, BitVec.toNat_ushiftRight, Nat.shiftRight_eq_div_pow]
    omega
  rw [hlow, hhigh]

section
variable {s : State} {i : Nat} {r : Run}

/-! ### REQA and WUPA -/

/-- The PICC after the request that it answers. -/
def Awning.woken (x : Awning) : Awning :=
  { x with picc := .ready, session := true, level := 1, halted := decide (x.picc = .halt) }

theorem State.request_answered (hhears : s.hears i = some r) (hfree : s.applying i = false) {wake : Bool}
    (hwakes : (s.awn i).picc = .idle ∨ ((s.awn i).picc = .halt ∧ wake)) (hread : s.isUe (s.awnBase i + 8 * 2) = false) :
    (s.request i wake).awn i = (s.awn i).woken ∧ (s.request i wake).out =
      .picc i (s.lmDepth i) [(s.imgWord (s.awnBase i) 2).setWidth 8, ((s.imgWord (s.awnBase i) 2) >>> 8).setWidth 8] :: s.out := by
  obtain ⟨hlooked, hword⟩ := (Looked.refl s).liveLoad hread
  rw [← atqa_bytes, ← hword]
  unfold State.request
  simp only [hhears, hfree, hwakes, if_true, Bool.false_eq_true, if_false]
  exact ⟨State.setAwn_piccSend_awn .., hlooked.setAwn_piccSend_out ..⟩

theorem State.request_applying (hbusy : s.applying i = true) (wake : Bool) : s.request i wake = s := by
  unfold State.request
  split
  · rfl
  · exact if_pos hbusy

/-- REQA does not wake a PICC in HALT. -/
theorem State.request_halted (hpicc : (s.awn i).picc = .halt) : s.request i false = s := by
  unfold State.request
  split
  · rfl
  · simp [hpicc]

/-! ### ANTICOLLISION -/

/-- The UID of a PICC as its live image gives it. -/
def State.uidOf (s : State) (i : Nat) : List Byte := piccUid (s.imgWord (s.awnBase i) 1) (s.awn i).randomUid

theorem State.anticoll_answered (hhears : s.hears i = some r) (hfree : s.applying i = false) (hpicc : (s.awn i).picc = .ready)
    (hread : s.isUe (s.awnBase i + 8 * 1) = false) {level : Nat} {known : List Bool} (hlevel : (s.awn i).level = level)
    (hknown : known.isPrefixOf (airBits (withBcc (uidAt (s.uidOf i) level))) = true) :
    (s.anticoll i level known).awning = s.awning ∧ (s.anticoll i level known).out =
      .picc i (s.lmDepth i) ((withBcc (uidAt (s.uidOf i) level)).drop (known.length / 8)) :: s.out := by
  obtain ⟨hlooked, huid⟩ := (Looked.refl s).uidLoad hread
  change _ = s.uidOf i at huid
  unfold State.anticoll
  simp only [hhears, hfree, hpicc, huid, hlevel, hknown, ne_eq, not_true_eq_false, Bool.false_eq_true, or_self, and_self, if_true,
    if_false]
  exact ⟨hlooked.awning, hlooked.piccSend_out i _⟩

theorem State.anticoll_applying (hbusy : s.applying i = true) (level : Nat) (known : List Bool) : s.anticoll i level known = s := by
  unfold State.anticoll
  split
  · rfl
  · exact if_pos (.inr hbusy)

/-! ### SELECT -/

/-- The bytes of a SELECT. -/
abbrev selectBytes (level : Nat) (uid : List Byte) : List Byte := BitVec.ofNat 8 (0x91 + 2 * level) :: 0x70 :: withBcc uid

theorem State.chkFrame_awn (s : State) (r : Run) (bytes : List Byte) (crc : BitVec 16) (i : Nat) :
    (s.chkFrame r bytes crc).awn i = s.awn i := (Looked.chkFrame s r bytes crc).awn i

theorem State.chkFrame_uidLoad (bytes : List Byte) (crc : BitVec 16) (hread : s.isUe (s.awnBase i + 8 * 1) = false) :
    ((s.chkFrame r bytes crc).uidLoad i).2 = s.uidOf i := ((Looked.chkFrame s r bytes crc).uidLoad hread).2

section
variable (hhears : s.hears i = some r) (hfree : s.applying i = false) (hpicc : (s.awn i).picc = .ready)
  {level : Nat} {uid : List Byte} {crc : BitVec 16}
include hhears

include hfree hpicc

/-- SELECT of the level reached, with a UID that is not complete yet. -/
theorem State.selectUid_cascade (hread : s.isUe (s.awnBase i + 8 * 1) = false) (hlevel : (s.awn i).level = level)
    (huid : uid = uidAt (s.uidOf i) level) (hcrc : crcAOk (selectBytes level uid) crc = true) (hmore : level < uidLevels (s.uidOf i)) :
    (s.selectUid i level uid crc).awn i = { s.awn i with level := level + 1 } ∧
      (s.selectUid i level uid crc).out = .picc i (s.lmDepth i) [0x04] :: s.out := by
  unfold State.selectUid
  simp only [hhears]
  rw [State.framed_taken (decide_eq_true hpicc) hfree hcrc]
  simp only [State.chkFrame_awn, State.chkFrame_uidLoad _ crc hread, hlevel, huid, hmore, and_self, if_true]
  exact ⟨State.setAwn_piccSend_awn .., ((Looked.chkFrame s r _ crc).uidLoad hread).1.setAwn_piccSend_out ..⟩

/-- SELECT of the last level. -/
theorem State.selectUid_complete (hread : ∀ k, k < 4 → s.isUe (s.awnBase i + 8 * k) = false) (hlevel : (s.awn i).level = level)
    (huid : uid = uidAt (s.uidOf i) level) (hcrc : crcAOk (selectBytes level uid) crc = true) (hlast : uidLevels (s.uidOf i) ≤ level) :
    (s.selectUid i level uid crc).awn i = { s.awn i with picc := .active } ∧ (s.selectUid i level uid crc).out =
      .picc i (s.lmDepth i) [((s.imgWord (s.awnBase i) 2) >>> 16).setWidth 8] :: s.out := by
  have hmore : ¬ level < uidLevels (s.uidOf i) := Nat.not_lt.mpr hlast
  have hsecond (bytes : List Byte) := ((Looked.chkFrame s r bytes crc).uidLoad (hread 1 (by decide))).1.liveLoad (hread 2 (by decide))
  unfold State.selectUid
  simp only [hhears]
  rw [State.framed_taken (decide_eq_true hpicc) hfree hcrc]
  simp only [State.chkFrame_awn, State.chkFrame_uidLoad _ crc (hread 1 (by decide)), hlevel, huid, hmore, and_self, if_true, if_false,
    (hsecond _).2, sak_byte]
  exact ⟨State.setAwn_piccSend_awn .., (hsecond _).1.setAwn_piccSend_out ..⟩

/-- SELECT of another level or with another UID, and one that fails its check. -/
theorem State.selectUid_refused (hread : s.isUe (s.awnBase i + 8 * 1) = false)
    (h : (s.awn i).level ≠ level ∨ uid ≠ uidAt (s.uidOf i) level ∨ crcAOk (selectBytes level uid) crc = false) :
    (s.selectUid i level uid crc).out = s.out ∧
      ((s.selectUid i level uid crc).awn i).picc = if (s.awn i).halted then .halt else .idle := by
  unfold State.selectUid
  simp only [hhears]
  cases hcrc : crcAOk (selectBytes level uid) crc with
  | false => exact State.framed_failed_rest (decide_eq_true hpicc) hfree hcrc (.inl hpicc)
  | true =>
    have hother : ¬ ((s.awn i).level = level ∧ uid = uidAt (s.uidOf i) level) := by
      simpa [hcrc, or_iff_not_imp_left] using h
    rw [State.framed_taken (decide_eq_true hpicc) hfree hcrc]
    simp only [State.chkFrame_awn, State.chkFrame_uidLoad _ crc hread, hother, if_false, State.setAwn_awn_self]
    exact ⟨((Looked.chkFrame s r _ crc).uidLoad hread).1.out, rfl⟩

end

/-! ### HLTA -/

section
variable (hhears : s.hears i = some r) {crc : BitVec 16}
include hhears

variable (hfree : s.applying i = false) (hpicc : (s.awn i).picc = .active)
include hfree hpicc

theorem State.halt_taken (hcrc : crcAOk [0x50, 0x00] crc = true) :
    (s.halt i crc).awn i = { s.awn i with picc := .halt, halted := true } ∧ (s.halt i crc).out = s.out := by
  unfold State.halt
  simp only [hhears]
  rw [State.framed_taken (by simp [hpicc]) hfree hcrc]
  simp only [State.chkFrame_awn, hpicc, if_true, State.setAwn_awn_self, State.setAwn_out, true_and]
  exact (Looked.chkFrame s r _ crc).out

theorem State.halt_failed (hcrc : crcAOk [0x50, 0x00] crc = false) :
    (s.halt i crc).out = s.out ∧ ((s.halt i crc).awn i).picc = (if (s.awn i).halted then .halt else .idle) ∧
      (blkAwnChk r.block < 48 →
        (s.halt i crc).fld R.chkFailCnt F.chkFailCnt.count = (s.fld R.chkFailCnt F.chkFailCnt.count + 1) % 2 ^ 32) := by
  have htakes : (decide ((s.awn i).picc = .active) || decide ((s.awn i).picc = .ready)) = true := by simp [hpicc]
  unfold State.halt
  simp only [hhears]
  obtain ⟨hout, hrest⟩ := State.framed_failed_rest htakes hfree hcrc (.inr hpicc)
  refine ⟨hout, hrest, fun hunit => ?_⟩
  rw [State.framed_failed htakes hfree hcrc (.inr hpicc), State.modAwn_fld]
  exact State.chkFrame_failCnt hunit hcrc

end
end

end Sys2Proof.Machine
end

section
/-! SUPPORT. The PICC in PROTOCOL (Machine/Awning.lean; ISO/IEC 14443-4, R223, R225): RATS, PPS, R-blocks and S(DESELECT), and frames
that come while a host commit is being applied (R226). -/

namespace Sys2Proof.Machine

/-- A one-bit field is that bit. -/
theorem Word.get_bit (w : Word) (k : Nat) : Word.get w (k, k) = 1 ↔ w.getLsbD k = true := by
  have hbit := Word.testBit_get w (k, k) 0
  have hlt : Word.get w (k, k) < 2 := (Word.get_lt w (k, k)).trans_eq (by simp)
  simp only [Nat.testBit_zero, Nat.add_zero, Nat.add_sub_cancel_left, Nat.zero_lt_one, decide_true, Bool.true_and] at hbit
  rw [← hbit, decide_eq_true_iff]
  omega

theorem Word.decide_bit (w : Word) (k : Nat) : decide (Word.get w (k, k) = 1) = w.getLsbD k := by
  rw [Bool.eq_iff_iff, decide_eq_true_iff]
  exact Word.get_bit w k

theorem State.piccSend_awn (s : State) (i : Nat) (l : List Byte) (j : Nat) : (s.piccSend i l).awn j = s.awn j := rfl

theorem State.modAwn_piccSend_awn (s : State) (i : Nat) (f : Awning → Awning) (l : List Byte) :
    ((s.modAwn i f).piccSend i l).awn i = f (s.awn i) := s.modAwn_awn_self i f

theorem Looked.modAwn_piccSend_out {s t : State} (h : Looked s t) (i : Nat) (f : Awning → Awning) (l : List Byte) :
    ((t.modAwn i f).piccSend i l).out = .picc i (s.lmDepth i) l :: s.out := h.setAwn_piccSend_out i _ l

theorem State.inProtocol_of {s : State} {i : Nat} (h : (s.awn i).picc = .protocol) : s.inProtocol i = true := decide_eq_true h

section
variable {s : State} {i : Nat} {r : Run} (hhears : s.hears i = some r) {crc : BitVec 16}
include hhears

/-! ### RATS -/

omit hhears in
theorem fsdOf_le {fsdi : Nat} (h : fsdi ≤ 8) : fsdOf fsdi = ([16, 24, 32, 40, 48, 64, 96, 128, 256] : List Nat).getD fsdi 0 := by
  unfold fsdOf
  rw [List.getD_eq_getElem _ _ (Nat.lt_succ_of_le h), List.getD_eq_getElem _ _ (Nat.lt_succ_of_le h)]

theorem State.doRats_taken (hpicc : (s.awn i).picc = .active) (hfree : s.applying i = false)
    (hread2 : s.isUe (s.awnBase i + 8 * 2) = false) (hread3 : s.isUe (s.awnBase i + 8 * 3) = false) {fsdi cid : Nat}
    (hfsdi : fsdi ≤ 8) (hcid : cid ≤ 14) (hcrc : crcAOk [0xE0, BitVec.ofNat 8 (16 * fsdi + cid)] crc = true) :
    (s.doRats i fsdi cid crc).awn i = { s.awn i with
        picc := .protocol, fsd := fsdOf fsdi, cid := if Word.get (s.imgWord (s.awnBase i) 2) (36, 36) = 1 then cid else 0
        block := true, last := atsOf (s.imgWord (s.awnBase i) 2) (s.imgWord (s.awnBase i) 3), chain := [], appSelected := false
        file := 0 } ∧
      (s.doRats i fsdi cid crc).out =
        .picc i (s.lmDepth i) (atsOf (s.imgWord (s.awnBase i) 2) (s.imgWord (s.awnBase i) 3)) :: s.out := by
  have hfirst (bytes : List Byte) := (Looked.chkFrame s r bytes crc).liveLoad hread2
  have hsecond (bytes : List Byte) := (hfirst bytes).1.liveLoad hread3
  unfold State.doRats
  simp only [hhears]
  rw [State.framed_taken (by simp [hpicc, hfsdi, hcid]) hfree hcrc]
  simp only [State.modAwn_piccSend_awn, (hfirst _).2, (hsecond _).2, (hsecond _).1.awn, true_and]
  exact (hsecond _).1.modAwn_piccSend_out ..

theorem State.doRats_reserved {fsdi cid : Nat} (h : 8 < fsdi ∨ 14 < cid) : Unanswered s (s.doRats i fsdi cid crc) := by
  have htakes : (decide ((s.awn i).picc = .active) && decide (fsdi ≤ 8) && decide (cid ≤ 14)) = false := by
    simp only [Bool.and_eq_false_iff, decide_eq_false_iff_not]
    omega
  unfold State.doRats
  simp only [hhears]
  exact State.framed_unanswered (.inl htakes)

/-! ### PPS -/

section
variable (hpicc : (s.awn i).picc = .protocol)
include hpicc

theorem State.doPps_other {dsi dri : Nat} (h : dsi ≠ 0 ∨ dri ≠ 0) : Unanswered s (s.doPps i dsi dri crc) := by
  have hnot : ¬ (dsi = 0 ∧ dri = 0) := by omega
  unfold State.doPps State.framed
  simp only [hhears, hnot, if_false, hpicc, reduceCtorEq, or_self, ite_self]
  exact (Looked.chkFrame s r _ crc).unanswered

variable (hfree : s.applying i = false)
include hfree

theorem State.doPps_taken (hcrc : crcAOk [BitVec.ofNat 8 (0xD0 + (s.awn i).cid), 0x11, 0x00] crc = true) :
    (s.doPps i 0 0 crc).awn i = { s.awn i with last := [BitVec.ofNat 8 (0xD0 + (s.awn i).cid)] } ∧
      (s.doPps i 0 0 crc).out = .picc i (s.lmDepth i) [BitVec.ofNat 8 (0xD0 + (s.awn i).cid)] :: s.out := by
  change crcAOk [_, _, BitVec.ofNat 8 (4 * 0 + 0)] crc = true at hcrc
  unfold State.doPps
  simp only [hhears]
  rw [State.framed_taken (State.inProtocol_of hpicc) hfree hcrc]
  simp only [and_self, if_true, State.modAwn_piccSend_awn, State.chkFrame_awn, true_and]
  exact (Looked.chkFrame s r _ crc).modAwn_piccSend_out ..

/-! ### R-blocks -/

variable {n : Bool}

theorem State.doRAck_repeats (hcrc : crcAOk (pcbHead (s.awn i) (0xA2 + n.toNat)) crc = true) (hn : n = (s.awn i).block) :
    (s.doRAck i n crc).out = .picc i (s.lmDepth i) (s.awn i).last :: s.out ∧ (s.doRAck i n crc).awning = s.awning := by
  have hlooked (bytes : List Byte) := Looked.chkFrame s r bytes crc
  unfold State.doRAck
  simp only [hhears]
  rw [State.framed_taken (State.inProtocol_of hpicc) hfree hcrc]
  simp only [State.chkFrame_awn, hn, if_true]
  exact ⟨(hlooked _).piccSend_out .., (hlooked _).awning⟩

/-- R(ACK) with the other number has the next block of a chained answer sent. -/
theorem State.doRAck_continues (hcrc : crcAOk (pcbHead (s.awn i) (0xA2 + n.toNat)) crc = true) (hn : n = !(s.awn i).block)
    (hchain : (s.awn i).chain ≠ []) :
    ((s.doRAck i n crc).awn i).block = n ∧
      (s.doRAck i n crc).out = .picc i (s.lmDepth i) (s.iBlock i (s.awn i).chain) :: s.out ∧ ((s.doRAck i n crc).awn i).chain =
        (s.awn i).chain.drop ((s.awn i).fsd - 3 - (if (s.awn i).cid = 0 then 0 else 1)) := by
  have hother : n ≠ (s.awn i).block := by simp [hn]
  have hmore : (s.awn i).chain.isEmpty = false := by simpa using hchain
  have hlooked (bytes : List Byte) := Looked.chkFrame s r bytes crc
  unfold State.doRAck
  simp only [hhears]
  rw [State.framed_taken (State.inProtocol_of hpicc) hfree hcrc]
  simp only [State.chkFrame_awn, hother, hmore, Bool.false_eq_true, if_false]
  obtain ⟨frame, hawn⟩ := State.sendBlock_awn (s.chkFrame r _ crc) i n (s.awn i).chain
  rw [State.chkFrame_awn] at hawn
  refine ⟨congrArg Awning.block hawn, ?_, congrArg Awning.chain hawn⟩
  rw [hn, ((hlooked _).voice i).sendBlock_out, (hlooked _).out]

omit hfree in
theorem State.doRAck_failed (hcrc : crcAOk (pcbHead (s.awn i) (0xA2 + n.toNat)) crc = false) : Unanswered s (s.doRAck i n crc) := by
  unfold State.doRAck
  simp only [hhears]
  exact State.framed_unanswered (.inr (.inr ⟨hcrc, hpicc⟩))

theorem State.doRNak_taken (hcrc : crcAOk (pcbHead (s.awn i) (0xB2 + n.toNat)) crc = true) :
    (s.doRNak i n crc).awning = s.awning ∧ (s.doRNak i n crc).out = .picc i (s.lmDepth i) (if n = (s.awn i).block
      then (s.awn i).last else pcbHead (s.awn i) (0xA2 + (s.awn i).block.toNat)) :: s.out := by
  have hlooked (bytes : List Byte) := Looked.chkFrame s r bytes crc
  unfold State.doRNak
  simp only [hhears]
  rw [State.framed_taken (State.inProtocol_of hpicc) hfree hcrc]
  simp only [State.chkFrame_awn]
  split
  · exact ⟨(hlooked _).awning, (hlooked _).piccSend_out ..⟩
  · exact ⟨(hlooked _).awning, (hlooked _).piccSend_out ..⟩

omit hfree in
theorem State.doRNak_failed (hcrc : crcAOk (pcbHead (s.awn i) (0xB2 + n.toNat)) crc = false) : Unanswered s (s.doRNak i n crc) := by
  unfold State.doRNak
  simp only [hhears]
  exact State.framed_unanswered (.inr (.inr ⟨hcrc, hpicc⟩))

/-! ### S(DESELECT) -/

theorem State.deselect_taken (hcrc : crcAOk (pcbHead (s.awn i) 0xC2) crc = true) :
    ((s.deselect i crc).awn i).Ended .halt ∧ ((s.awn i).log = [] →
      (s.deselect i crc).out = .picc i (s.lmDepth i) (pcbHead (s.awn i) 0xC2) :: s.out) := by
  have hlooked (bytes : List Byte) := Looked.chkFrame s r bytes crc
  unfold State.deselect
  simp only [hhears]
  rw [State.framed_taken (State.inProtocol_of hpicc) hfree hcrc]
  simp only [State.chkFrame_awn]
  refine ⟨State.sessionEnd_ended .., fun hlog => ?_⟩
  rw [← (hlooked _).awn i, ← State.piccSend_awn] at hlog
  exact (State.sessionEnd_out _ hlog).trans ((hlooked _).piccSend_out ..)

omit hfree in
theorem State.deselect_failed (hcrc : crcAOk (pcbHead (s.awn i) 0xC2) crc = false) : Unanswered s (s.deselect i crc) := by
  unfold State.deselect
  simp only [hhears]
  exact State.framed_unanswered (.inr (.inr ⟨hcrc, hpicc⟩))

end

/-! ### While a host commit is being applied (R226) -/

/-- A state that a frame with a CRC leaves. -/
def Framed (s t : State) (i : Nat) : Prop := ∃ r takes bytes crc f, t = s.framed i r takes bytes crc f

omit hhears in
theorem Framed.unanswered {t : State} (h : Framed s t i) (hbusy : s.applying i = true) : Unanswered s t := by
  obtain ⟨r, takes, bytes, crc, f, rfl⟩ := h
  exact State.framed_unanswered (.inr (.inl hbusy))

theorem State.selectUid_framed (level : Nat) (uid : List Byte) : Framed s (s.selectUid i level uid crc) i := by
  unfold State.selectUid
  rw [hhears]
  exact ⟨_, _, _, _, _, rfl⟩

theorem State.halt_framed : Framed s (s.halt i crc) i := by
  unfold State.halt
  rw [hhears]
  exact ⟨_, _, _, _, _, rfl⟩

theorem State.doRats_framed (fsdi cid : Nat) : Framed s (s.doRats i fsdi cid crc) i := by
  unfold State.doRats
  rw [hhears]
  exact ⟨_, _, _, _, _, rfl⟩

theorem State.doPps_framed (dsi dri : Nat) : Framed s (s.doPps i dsi dri crc) i := by
  unfold State.doPps
  rw [hhears]
  exact ⟨_, _, _, _, _, rfl⟩

theorem State.doRAck_framed (n : Bool) : Framed s (s.doRAck i n crc) i := by
  unfold State.doRAck
  rw [hhears]
  exact ⟨_, _, _, _, _, rfl⟩

theorem State.doRNak_framed (n : Bool) : Framed s (s.doRNak i n crc) i := by
  unfold State.doRNak
  rw [hhears]
  exact ⟨_, _, _, _, _, rfl⟩

theorem State.deselect_framed : Framed s (s.deselect i crc) i := by
  unfold State.deselect
  rw [hhears]
  exact ⟨_, _, _, _, _, rfl⟩

end

end Sys2Proof.Machine
end

section
/-! SUPPORT. The APDUs of Awning (Machine/Awning.lean; R225 to R230, R234, R248, R257): their I-blocks, the answer, and the reads of the
live image. -/

namespace Sys2Proof.Machine

/-! ### I-blocks (R225, R248) -/

section
variable {s : State} {i : Nat} {r : Run} {b : IBlock} {l : List IBlock} {bytes : List Byte} (f : State → Run → State)

theorem State.apdu_reaches {blocks : List IBlock} {t : State} (hhears : s.hears i = some r)
    (hreach : ∀ f, s.blocks i r f blocks = f t r) : s.apdu i blocks f = f t r := by
  unfold State.apdu
  rw [hhears]
  exact hreach f

theorem State.apdu_blocks {blocks : List IBlock} (hhears : s.hears i = some r) : s.apdu i blocks f = s.blocks i r f blocks := by
  unfold State.apdu
  rw [hhears]

/-- The PICC after an I-block before the last. -/
def Awning.chained (frame : List Byte) (x : Awning) : Awning := { x with block := !x.block, last := frame, chain := [] }

variable (hpicc : (s.awn i).picc = .protocol)
  (hbytes : bytes = pcbHead (s.awn i) (0x02 + (!(s.awn i).block).toNat + (if l = [] then 0 else 0x10)) ++ b.inf)
include hbytes

/-- An I-block that fails, or that comes while a commit is being applied, ends the APDU. -/
theorem State.blocks_refused (h : crcAOk bytes b.crc = false ∨ s.applying i = true) :
    s.blocks i r f (b :: l) = s.chkFrame r bytes b.crc := by
  simp only [← List.isEmpty_iff] at hbytes
  unfold State.blocks
  dsimp only
  rw [← hbytes]
  rcases h with h | h <;> simp [h]

include hpicc

section
variable (hcrc : crcAOk bytes b.crc = true) (hfree : s.applying i = false)
include hcrc hfree

theorem State.blocks_last (hl : l = []) : s.blocks i r f (b :: l) = f (s.chkFrame r bytes b.crc) r := by
  simp only [← List.isEmpty_iff] at hbytes
  unfold State.blocks
  dsimp only
  rw [← hbytes]
  simp [hcrc, State.inProtocol_of hpicc, hfree, hl]

theorem State.blocks_chained (hl : l ≠ []) : s.blocks i r f (b :: l) =
    (((s.chkFrame r bytes b.crc).setAwn i ((s.awn i).chained (pcbHead (s.awn i) (0xA2 + (!(s.awn i).block).toNat)))).piccSend i
      (pcbHead (s.awn i) (0xA2 + (!(s.awn i).block).toNat))).blocks i r f l := by
  simp only [← List.isEmpty_iff] at hbytes
  rw [State.blocks]
  rw [← hbytes]
  simp only [hcrc, State.inProtocol_of hpicc, hfree, List.isEmpty_iff, hl, Bool.not_true, Bool.or_self, Bool.false_eq_true, if_false]
  rfl

end
end

/-! ### The answer -/

/-- The PICC after an answer, from the one that it was before. -/
def Awning.answered (last chain : List Byte) (x : Awning) : Awning := { x with block := !x.block, last := last, chain := chain }

theorem State.answer_awn (s : State) (i : Nat) (data : List Byte) (sw : Nat) :
    ∃ last chain, (s.answer i data sw).awn i = (s.awn i).answered last chain := by
  obtain ⟨last, h⟩ := s.sendBlock_awn i (!(s.awn i).block) (data ++ [BitVec.ofNat 8 (sw / 256), BitVec.ofNat 8 (sw % 256)])
  exact ⟨last, _, h⟩

/-- What an answer leaves. -/
structure AnswerLeft (i : Nat) (s t : State) : Prop where
  file : (t.awn i).file = (s.awn i).file
  log : (t.awn i).log = (s.awn i).log
  appSelected : (t.awn i).appSelected = (s.awn i).appSelected
  lockUntil : (t.awn i).lockUntil = (s.awn i).lockUntil
  regs : t.regs = s.regs
  mem : t.mem = s.mem

theorem State.answer_left (s : State) (i : Nat) (data : List Byte) (sw : Nat) : AnswerLeft i s (s.answer i data sw) := by
  obtain ⟨last, chain, h⟩ := s.answer_awn i data sw
  exact ⟨(congrArg Awning.file h :), (congrArg Awning.log h :), (congrArg Awning.appSelected h :),
    (congrArg Awning.lockUntil h :), rfl, rfl⟩

theorem SameVoice.answer_out {i : Nat} {s t : State} (h : SameVoice i s t) (data : List Byte) (sw : Nat) : (t.answer i data sw).out =
    .picc i (s.lmDepth i) (s.iBlock i (data ++ [BitVec.ofNat 8 (sw / 256), BitVec.ofNat 8 (sw % 256)])) :: t.out := by
  unfold State.answer
  dsimp only
  rw [h.block]
  exact h.sendBlock_out _

/-- A status word of any value (notes/assumptions/26.md). -/
theorem State.answerFree_out (s : State) (i : Nat) : ∃ w, w < 2 ^ 16 ∧ (s.answerFree i).out =
    .picc i (s.lmDepth i) (s.iBlock i [BitVec.ofNat 8 (w / 256), BitVec.ofNat 8 (w % 256)]) :: s.out := by
  have hvoice : SameVoice i s (s.skip 1) := .of_kept ⟨rfl, fun _ => rfl, rfl, rfl, rfl⟩ rfl
  exact ⟨_, Nat.mod_lt _ (by decide), hvoice.answer_out [] _⟩

/-! ### Reads of the live image (R256, R257) -/

theorem SMap.exists_of_look_ne {α : Type} {d : α} : ∀ {m : List (Nat × α)} {q : Nat}, SMap.look d m q ≠ d → ∃ x ∈ m, x.1 = q
  | [], _, h => absurd rfl h
  | (k, v) :: m, q, h => by
    by_cases hq : q = k
    · exact ⟨(k, v), List.mem_cons_self, hq.symm⟩
    · rw [SMap.look, if_neg hq] at h
      obtain ⟨x, hx, hk⟩ := SMap.exists_of_look_ne h
      exact ⟨x, List.mem_cons_of_mem _ hx, hk⟩

/-- A range without an uncorrectable word. -/
theorem State.ueIn_eq_none_iff {s : State} {lo hi : Nat} :
    s.ueIn lo hi = none ↔ ∀ a, lo / 8 ≤ a → 8 * a < hi → s.isUe (8 * a) = false := by
  unfold State.ueIn State.errsIn
  simp only [List.find?_eq_none, List.mem_map, List.mem_filter, Bool.and_eq_true, decide_eq_true_eq, Bool.not_eq_true,
    forall_exists_index, and_imp]
  constructor
  · intro h a hlo hhi
    by_contra hue
    have hlisted : SMap.look 0 s.ecc a ≠ 0 := fun hzero => by
      have hupset : s.upset (8 * a) = 0 := (congrArg (SMap.look 0 s.ecc) (Nat.mul_div_cancel_left a (by decide))).trans hzero
      rw [State.isUe, hupset] at hue
      exact hue (by decide)
    obtain ⟨x, hx, rfl⟩ := SMap.exists_of_look_ne hlisted
    exact hue (h _ x hx hlo hhi rfl)
  · rintro h _ x hx hlo hhi rfl
    exact h x.1 hlo hhi

theorem Looked.ueIn {s t : State} (h : Looked s t) (lo hi : Nat) : t.ueIn lo hi = none ↔ s.ueIn lo hi = none := by
  simp only [State.ueIn_eq_none_iff, h.ue]

section
variable {s : State} {i a b : Nat}

theorem State.liveRead_readable (h : s.ueIn (s.awnBase i + a) (s.awnBase i + b) = none) :
    ∃ t, Looked s t ∧ t.mem = s.mem ∧ ∀ f, s.liveRead i a b f = f t := by
  refine ⟨_, .touchAll s (s.errsIn (s.awnBase i + a) (s.awnBase i + b)), s.touchAll_mem _, fun f => ?_⟩
  unfold State.liveRead
  dsimp only
  rw [h]

theorem State.liveRead_unreadable (h : s.ueIn (s.awnBase i + a) (s.awnBase i + b) ≠ none) :
    ∃ t, SameVoice i s t ∧ t.awn i = s.awn i ∧ ∀ f, s.liveRead i a b f = t.answer i [] 0x6F00 := by
  obtain ⟨u, hu⟩ := Option.ne_none_iff_exists'.mp h
  have hkeeps : Keeps 0x302006004001C s ((s.recordUe u).imageEcc i) :=
    State.imageEcc_step _ rfl rfl (State.recordUe_step _ rfl rfl (Keeps.refl _ s))
  refine ⟨_, .of_kept (.of_keeps hkeeps i) (hkeeps.awn_eq i), hkeeps.awn_eq i, fun f => ?_⟩
  unfold State.liveRead
  dsimp only
  rw [hu]

end

/-! ### What reads leave of the files -/

namespace Looked

variable {s t : State} (h : Looked s t) (i : Nat)
include h

theorem liveFld (w : Nat) (f : Fld) : t.liveFld i w f = s.liveFld i w f := by
  unfold State.liveFld
  rw [h.awnBase, h.imgWord]

theorem ndefMax : t.ndefMax i = s.ndefMax i := h.liveFld i ..

theorem ccFile : t.ccFile i = s.ccFile i := by
  unfold State.ccFile
  simp only [h.liveFld]

theorem ndefByte (k : Nat) : t.ndefByte i k = s.ndefByte i k := by
  unfold State.ndefByte State.ndefBase
  rw [h.awn, h.awnBase, h.keeps.byte_eq]

theorem status : t.reg (R.awnStatus i) = s.reg (R.awnStatus i) := h.keeps.reg_eq (regWindow_awnStatus i)

theorem mayUpdate : t.mayUpdate i = s.mayUpdate i := by
  unfold State.mayUpdate
  rw [h.liveFld, State.bit_of_reg (h.status i)]

end Looked

end Sys2Proof.Machine
end

section
/-! SUPPORT. What the APDUs of Awning do, each in the state that its I-blocks leave (Machine/Awning.lean; R227, R229, R230, R234, R257). -/

namespace Sys2Proof.Machine

/-- The PICC has answered an APDU, with data and status word in one I-block. -/
def Answers (i : Nat) (s t : State) (answer : List Byte) : Prop := t.out = .picc i (s.lmDepth i) (s.iBlock i answer) :: s.out

/-- The last thing that the PICC has sent is the answer to an APDU: an EVENT has gone before it. -/
def AnswersLast (i : Nat) (s t : State) (answer : List Byte) : Prop :=
  t.out.head? = some (.picc i (s.lmDepth i) (s.iBlock i answer))

theorem Answers.last {i : Nat} {s t : State} {answer : List Byte} (h : Answers i s t answer) : AnswersLast i s t answer :=
  congrArg List.head? h

/-- The bytes of an answer. -/
def apduAnswer (data : List Byte) (sw : Nat) : List Byte := data ++ [BitVec.ofNat 8 (sw / 256), BitVec.ofNat 8 (sw % 256)]

section
variable {i : Nat} {data answer : List Byte} {sw : Nat} (hanswer : answer = apduAnswer data sw)
include hanswer

theorem SameVoice.answersLast {s t : State} (h : SameVoice i s t) : AnswersLast i s (t.answer i data sw) answer := by
  rw [AnswersLast, h.answer_out, hanswer]
  rfl

theorem SameVoice.answers {s t : State} (h : SameVoice i s t) (hout : t.out = s.out) : Answers i s (t.answer i data sw) answer := by
  rw [Answers, h.answer_out, hout, hanswer]
  rfl

theorem Looked.answers {s t : State} (h : Looked s t) : Answers i s (t.answer i data sw) answer :=
  (h.voice i).answers hanswer h.out

/-- An update of the PICC between a read and its answer. -/
theorem Looked.modAwn_answers {s t : State} (h : Looked s t) {f : Awning → Awning}
    (hf : ∀ x, (f x).block = x.block ∧ (f x).cid = x.cid ∧ (f x).fsd = x.fsd) :
    Answers i s ((t.modAwn i f).answer i data sw) answer := by
  obtain ⟨hblock, hcid, hfsd⟩ := hf (t.awn i)
  have hawn := t.modAwn_awn_self i f
  have hvoice : SameVoice i t (t.modAwn i f) :=
    ⟨(ListenerKept.modAwn t i f).lmDepth, (congrArg Awning.block hawn).trans hblock, (congrArg Awning.cid hawn).trans hcid,
      (congrArg Awning.fsd hawn).trans hfsd⟩
  exact ((h.voice i).trans hvoice).answers hanswer h.out

/-- An update of AWN_STATUSn between a read and its answer. -/
theorem Looked.status_answers {s t u : State} (h : Looked s t) (hkept : ListenerKept i t u) (hawning : u.awning = t.awning)
    (hout : u.out = t.out) : Answers i s (u.answer i data sw) answer := by
  have hvoice : SameVoice i t u := .of_kept hkept (by rw [State.awn, hawning, State.awn])
  exact ((h.voice i).trans hvoice).answers hanswer (hout.trans h.out)

end

/-- A file is selected. -/
def Awning.opened (file : Nat) (x : Awning) : Awning := { x with file := file }

/-- The session's log is another. -/
def Awning.withLog (log : List (Nat × List Byte)) (x : Awning) : Awning := { x with log := log }

theorem Looked.opened {s t : State} (h : Looked s t) (i file : Nat) :
    (((t.modAwn i (Awning.opened file)).answer i [] 0x9000).awn i).file = file ∧
      Answers i s ((t.modAwn i (Awning.opened file)).answer i [] 0x9000) [0x90, 0x00] := by
  rw [(State.answer_left ..).file, State.modAwn_awn_self]
  exact ⟨rfl, h.modAwn_answers rfl fun _ => ⟨rfl, rfl, rfl⟩⟩

theorem Looked.notFound {s t : State} (h : Looked s t) (i : Nat) : ((t.answer i [] 0x6A82).awn i).file = (s.awn i).file ∧
    Answers i s (t.answer i [] 0x6A82) [0x6A, 0x82] := by
  rw [(State.answer_left ..).file, h.awn]
  exact ⟨rfl, h.answers rfl⟩

section
variable {b s : State} {i : Nat} {r : Run} {bs : List IBlock} (hhears : b.hears i = some r) (hreach : ∀ f, b.blocks i r f bs = f s r)
include hhears hreach

/-! ### Selections (R227) -/

/-- The NDEF Tag Application is selected. -/
def Awning.selected (x : Awning) : Awning := { x with appSelected := true, file := 0 }

theorem State.byName_ndef : ((b.byName i ndefAid bs).awn i).appSelected = true ∧ Answers i s (b.byName i ndefAid bs) [0x90, 0x00] := by
  have happly : b.byName i ndefAid bs = (s.modAwn i Awning.selected).answer i [] 0x9000 := by
    unfold State.byName
    rw [State.apdu_reaches _ hhears hreach, if_pos rfl]
    rfl
  rw [happly, (State.answer_left ..).appSelected, State.modAwn_awn_self]
  exact ⟨rfl, (Looked.refl s).modAwn_answers rfl fun _ => ⟨rfl, rfl, rfl⟩⟩

theorem State.byName_other {aid : List Byte} (h : aid ≠ ndefAid) :
    ((b.byName i aid bs).awn i).appSelected = (s.awn i).appSelected ∧ Answers i s (b.byName i aid bs) [0x6A, 0x82] := by
  have happly : b.byName i aid bs = s.answer i [] 0x6A82 := by
    unfold State.byName
    rw [State.apdu_reaches _ hhears hreach, if_neg h]
  rw [happly, (State.answer_left ..).appSelected]
  exact ⟨rfl, (Looked.refl s).answers rfl⟩

theorem State.byFileId_readable (id : BitVec 16) (h : s.ueIn (s.awnBase i + 32) (s.awnBase i + 40) = none) :
    ((b.byFileId i id bs).awn i).file = (if (s.awn i).appSelected = false then (s.awn i).file else if id = 0xE103 then 1
        else if id.toNat = s.liveFld i 4 (47, 32) then 2 else (s.awn i).file) ∧
      Answers i s (b.byFileId i id bs) (if (s.awn i).appSelected = true ∧ (id = 0xE103 ∨ id.toNat = s.liveFld i 4 (47, 32))
        then [0x90, 0x00] else [0x6A, 0x82]) := by
  obtain ⟨t, hlooked, -, hread⟩ := State.liveRead_readable h
  unfold State.byFileId
  rw [State.apdu_reaches _ hhears hreach, hread, hlooked.awn, hlooked.liveFld]
  cases (s.awn i).appSelected with
  | false => exact hlooked.notFound i
  | true =>
    by_cases hcc : id = 0xE103
    · simp only [hcc]
      exact hlooked.opened i 1
    · by_cases hndef : id.toNat = s.liveFld i 4 (47, 32)
      · simp only [hcc, hndef]
        exact hlooked.opened i 2
      · simp only [hcc, hndef]
        exact hlooked.notFound i

theorem State.byFileId_unreadable (id : BitVec 16) (h : s.ueIn (s.awnBase i + 32) (s.awnBase i + 40) ≠ none) :
    ((b.byFileId i id bs).awn i).file = (s.awn i).file ∧ AnswersLast i s (b.byFileId i id bs) [0x6F, 0x00] := by
  obtain ⟨t, hvoice, hawn, hread⟩ := State.liveRead_unreadable h
  unfold State.byFileId
  rw [State.apdu_reaches _ hhears hreach, hread, (State.answer_left ..).file, hawn]
  exact ⟨rfl, hvoice.answersLast rfl⟩

/-! ### READ BINARY (R229, R230) -/

theorem State.readBin_closed (off le : Nat) (hfile : (s.awn i).file = 0) : b.readBin i off le bs = s.answerFree i := by
  unfold State.readBin
  rw [State.apdu_reaches _ hhears hreach, if_pos hfile]

theorem State.readBin_unreadable (off le : Nat) (hfile : (s.awn i).file ≠ 0)
    (h : s.ueIn (s.awnBase i + 32) (s.awnBase i + 48) ≠ none) : AnswersLast i s (b.readBin i off le bs) [0x6F, 0x00] := by
  obtain ⟨t, hvoice, -, hread⟩ := State.liveRead_unreadable h
  unfold State.readBin
  rw [State.apdu_reaches _ hhears hreach, if_neg hfile]
  dsimp only
  rw [hread]
  exact hvoice.answersLast rfl

theorem State.readBin_cc (off le : Nat) (hfile : (s.awn i).file = 1) (h : s.ueIn (s.awnBase i + 32) (s.awnBase i + 48) = none) :
    Answers i s (b.readBin i off le bs)
      (if 15 < off then [0x6B, 0x00] else ((s.ccFile i).drop off).take (min le (15 - off)) ++ [0x90, 0x00]) := by
  obtain ⟨t, hlooked, -, hread⟩ := State.liveRead_readable h
  unfold State.readBin
  rw [State.apdu_reaches _ hhears hreach, hfile, if_neg (by decide)]
  dsimp only
  rw [hread, hlooked.ccFile]
  simp only [decide_true, if_true]
  split
  · exact hlooked.answers rfl
  · exact hlooked.answers rfl

section
variable {off le : Nat} (hfile : (s.awn i).file = 2) (h : s.ueIn (s.awnBase i + 32) (s.awnBase i + 48) = none)
include hfile h

theorem State.readBin_past (hpast : s.ndefMax i < off) : Answers i s (b.readBin i off le bs) [0x6B, 0x00] := by
  obtain ⟨t, hlooked, -, hread⟩ := State.liveRead_readable h
  unfold State.readBin
  rw [State.apdu_reaches _ hhears hreach, hfile, if_neg (by decide)]
  dsimp only
  rw [hread, hlooked.ndefMax]
  simp only [show ¬ (2 : Nat) = 1 by decide, decide_false, Bool.false_eq_true, if_false, hpast, if_true]
  exact hlooked.answers rfl

/-- A read that begins in the NDEF file goes to its words. -/
theorem State.readBin_ndef (hin : off ≤ s.ndefMax i) : ∃ t, Looked s t ∧ b.readBin i off le bs =
    t.liveRead i (0x40 + off) (0x40 + off + min le (s.ndefMax i - off)) fun u =>
      u.answer i ((List.range (min le (s.ndefMax i - off))).map fun k => u.ndefByte i (off + k)) 0x9000 := by
  obtain ⟨t, hlooked, -, hread⟩ := State.liveRead_readable h
  refine ⟨t, hlooked, ?_⟩
  unfold State.readBin
  rw [State.apdu_reaches _ hhears hreach, hfile, if_neg (by decide)]
  dsimp only
  rw [hread, hlooked.ndefMax]
  simp only [show ¬ (2 : Nat) = 1 by decide, decide_false, Bool.false_eq_true, if_false, Nat.not_lt.mpr hin]

variable (hin : off ≤ s.ndefMax i)
include hin

theorem State.readBin_ndef_readable
    (hwords : s.ueIn (s.awnBase i + (0x40 + off)) (s.awnBase i + (0x40 + off + min le (s.ndefMax i - off))) = none) :
    Answers i s (b.readBin i off le bs)
      ((List.range (min le (s.ndefMax i - off))).map (fun k => s.ndefByte i (off + k)) ++ [0x90, 0x00]) := by
  obtain ⟨t, hlooked, hnext⟩ := State.readBin_ndef hhears hreach hfile h hin (le := le)
  obtain ⟨u, hfurther, -, hread⟩ := State.liveRead_readable (s := t) (by rw [hlooked.awnBase, hlooked.ueIn]; exact hwords)
  rw [hnext, hread]
  simp only [(hlooked.trans hfurther).ndefByte]
  exact (hlooked.trans hfurther).answers rfl

theorem State.readBin_ndef_unreadable
    (hwords : s.ueIn (s.awnBase i + (0x40 + off)) (s.awnBase i + (0x40 + off + min le (s.ndefMax i - off))) ≠ none) :
    AnswersLast i s (b.readBin i off le bs) [0x6F, 0x00] := by
  obtain ⟨t, hlooked, hnext⟩ := State.readBin_ndef hhears hreach hfile h hin (le := le)
  obtain ⟨u, hvoice, -, hread⟩ := State.liveRead_unreadable (s := t) (by rw [hlooked.awnBase, ne_eq, hlooked.ueIn]; exact hwords)
  rw [hnext, hread]
  exact ((hlooked.voice i).trans hvoice).answersLast rfl

end
/-! ### UPDATE BINARY (R230) -/

section
variable {off : Nat} {data : List Byte}

theorem State.updateBin_closed (off : Nat) (data : List Byte) (hfile : (s.awn i).file ≠ 2) :
    b.updateBin i off data bs = s.answerFree i := by
  unfold State.updateBin
  rw [State.apdu_reaches _ hhears hreach, if_pos hfile]

variable (hfile : (s.awn i).file = 2)
include hfile

theorem State.updateBin_unreadable (h : s.ueIn (s.awnBase i + 32) (s.awnBase i + 48) ≠ none) :
    ((b.updateBin i off data bs).awn i).log = (s.awn i).log ∧ AnswersLast i s (b.updateBin i off data bs) [0x6F, 0x00] := by
  obtain ⟨t, hvoice, hawn, hread⟩ := State.liveRead_unreadable h
  unfold State.updateBin
  rw [State.apdu_reaches _ hhears hreach, if_neg (not_not.mpr hfile), hread, (State.answer_left ..).log, hawn]
  exact ⟨rfl, hvoice.answersLast rfl⟩

variable (h : s.ueIn (s.awnBase i + 32) (s.awnBase i + 48) = none)
include h

/-- An update of the NDEF file, from the words of the image that it has read. -/
theorem State.updateBin_open : ∃ t, Looked s t ∧ t.mem = s.mem ∧ b.updateBin i off data bs =
    if s.ndefMax i < off + data.length ∧ s.mayUpdate i = false then
      (t.skip 1).answer i [] (if Config.freeNat t.fresh % 2 = 0 then 0x6700 else 0x6982)
    else if s.ndefMax i < off + data.length then t.answer i [] 0x6700
    else if s.mayUpdate i = false then t.answer i [] 0x6982
    else if 8192 < logSize ((s.awn i).log ++ [(off, data)]) then
      (t.setBit (R.awnStatus i) F.awnStatus.logFull true).answer i [] 0x6A84
    else (t.modAwn i (Awning.withLog ((s.awn i).log ++ [(off, data)]))).answer i [] 0x9000 := by
  obtain ⟨t, hlooked, hmem, hread⟩ := State.liveRead_readable h
  refine ⟨t, hlooked, hmem, ?_⟩
  unfold State.updateBin
  rw [State.apdu_reaches _ hhears hreach, if_neg (not_not.mpr hfile), hread]
  dsimp only
  rw [hlooked.ndefMax, hlooked.mayUpdate, hlooked.awn]
  simp only [Bool.and_eq_true, decide_eq_true_eq, Bool.not_eq_true']
  rfl

section
variable (hin : off + data.length ≤ s.ndefMax i)
include hin

theorem State.updateBin_logged (hmay : s.mayUpdate i = true) (hroom : logSize ((s.awn i).log ++ [(off, data)]) ≤ 8192) :
    ((b.updateBin i off data bs).awn i).log = (s.awn i).log ++ [(off, data)] ∧ (b.updateBin i off data bs).mem = s.mem ∧
      Answers i s (b.updateBin i off data bs) [0x90, 0x00] := by
  obtain ⟨t, hlooked, hmem, hupdate⟩ := State.updateBin_open hhears hreach hfile h (off := off) (data := data)
  rw [hupdate]
  simp only [Nat.not_lt.mpr hin, hmay, Nat.not_lt.mpr hroom, Bool.true_eq_false, false_and, if_false]
  rw [(State.answer_left ..).log, (State.answer_left ..).mem, State.modAwn_awn_self]
  exact ⟨rfl, hmem, hlooked.modAwn_answers rfl fun _ => ⟨rfl, rfl, rfl⟩⟩

theorem State.updateBin_full (hi : i < 4) (hmay : s.mayUpdate i = true)
    (hfull : 8192 < logSize ((s.awn i).log ++ [(off, data)])) :
    ((b.updateBin i off data bs).awn i).log = (s.awn i).log ∧
      (b.updateBin i off data bs).bit (R.awnStatus i) F.awnStatus.logFull = true ∧
      Answers i s (b.updateBin i off data bs) [0x6A, 0x84] := by
  obtain ⟨t, hlooked, -, hupdate⟩ := State.updateBin_open hhears hreach hfile h (off := off) (data := data)
  rw [hupdate]
  simp only [Nat.not_lt.mpr hin, hmay, hfull, Bool.true_eq_false, false_and, if_false, if_true]
  rw [(State.answer_left ..).log, State.bit_of_reg (State.reg_of_regs (State.answer_left ..).regs _)]
  refine ⟨?_, State.bit_setBit_self _ _ _ _ (by decide),
    hlooked.status_answers rfl (.setBit_status hi t i _ _) (State.setBit_awning ..) (State.setBit_out ..)⟩
  rw [State.awn, State.setBit_awning]
  exact congrArg Awning.log (hlooked.awn i)

theorem State.updateBin_forbidden (hmay : s.mayUpdate i = false) :
    ((b.updateBin i off data bs).awn i).log = (s.awn i).log ∧ Answers i s (b.updateBin i off data bs) [0x69, 0x82] := by
  obtain ⟨t, hlooked, -, hupdate⟩ := State.updateBin_open hhears hreach hfile h (off := off) (data := data)
  rw [hupdate]
  simp only [Nat.not_lt.mpr hin, hmay, false_and, if_false, if_true]
  rw [(State.answer_left ..).log, hlooked.awn]
  exact ⟨rfl, hlooked.answers rfl⟩

end

section
variable (hpast : s.ndefMax i < off + data.length)
include hpast

theorem State.updateBin_past (hmay : s.mayUpdate i = true) :
    ((b.updateBin i off data bs).awn i).log = (s.awn i).log ∧ Answers i s (b.updateBin i off data bs) [0x67, 0x00] := by
  obtain ⟨t, hlooked, -, hupdate⟩ := State.updateBin_open hhears hreach hfile h (off := off) (data := data)
  rw [hupdate]
  simp only [hpast, hmay, Bool.true_eq_false, and_false, if_false, if_true]
  rw [(State.answer_left ..).log, hlooked.awn]
  exact ⟨rfl, hlooked.answers rfl⟩

/-- Past the file and forbidden: one of the two answers (notes/assumptions/26.md). -/
theorem State.updateBin_both (hmay : s.mayUpdate i = false) : ((b.updateBin i off data bs).awn i).log = (s.awn i).log ∧
    (Answers i s (b.updateBin i off data bs) [0x67, 0x00] ∨ Answers i s (b.updateBin i off data bs) [0x69, 0x82]) := by
  obtain ⟨t, hlooked, -, hupdate⟩ := State.updateBin_open hhears hreach hfile h (off := off) (data := data)
  have hkept : ListenerKept i t (t.skip 1) := ⟨rfl, fun _ => rfl, rfl, rfl, rfl⟩
  rw [hupdate]
  simp only [hpast, hmay, and_self, if_true]
  rw [(State.answer_left ..).log]
  refine ⟨congrArg Awning.log (hlooked.awn i), ?_⟩
  split
  · exact .inl (hlooked.status_answers rfl hkept rfl rfl)
  · exact .inr (hlooked.status_answers rfl hkept rfl rfl)

end
end

end

end Sys2Proof.Machine
end

section
/-! SUPPORT. VERIFY, its lockout, and the other APDUs of Awning (Machine/Awning.lean; R227, R234, R235). -/

namespace Sys2Proof.Machine

/-! ### VERIFY (R234) -/

/-- The data of a VERIFY are the PIN of a slot that the pitch owns. -/
def State.pinMatches (s : State) (i : Nat) (r : Run) (data : List Byte) : Bool :=
  s.ownsKey (s.awnPitch i) (r.fld (R.awnImg i) F.awnImg.pinSlot) &&
    decide (wordOfBytes data = (s.checkKey (r.fld (R.awnImg i) F.awnImg.pinSlot)).1.setWidth 64)

/-- No VERIFY is taken until a tick. -/
def Awning.lockedTill (t : Option Nat) (x : Awning) : Awning := { x with lockUntil := t }

/-- The last try has failed: no VERIFY is taken for pin_lock_s. -/
def State.lockedOut (s : State) (i : Nat) (r : Run) : State :=
  (s.setFld (R.awnStatus i) F.awnStatus.triesLeft 0).modAwn i (Awning.lockedTill (some (s.now + r.pinLock)))

/-- pin_tries is a number of four bits. -/
theorem pinTries_lt (cfg : Word) : pinTries cfg < 16 :=
  max_lt (by decide) (Word.get_lt cfg F.awnCfg.pinTries)

theorem Run.pinTries_lt (r : Run) : r.pinTries < 16 := Machine.pinTries_lt (r.reg R.awnCfg)

theorem State.pinTries_lt (s : State) (i : Nat) : s.pinTries i < 16 := by
  unfold State.pinTries
  split
  · exact Run.pinTries_lt _
  · exact Machine.pinTries_lt _

theorem State.triesLeft_lt (s : State) (i : Nat) : s.triesLeft i < 16 := Word.get_lt _ F.awnStatus.triesLeft

/-- The status word 0x63Cn of n tries that are left. -/
theorem tries_answer {n : Nat} (h : n < 16) : ([0x63, BitVec.ofNat 8 (0xC0 + n)] : List Byte) = apduAnswer [] (0x63C0 + n) := by
  have hhigh : (0x63C0 + n) / 256 = 0x63 := by omega
  have hlow : (0x63C0 + n) % 256 = 0xC0 + n := by omega
  rw [apduAnswer, hhigh, hlow]
  rfl

section
variable {b s : State} {i : Nat} {r : Run} {bs : List IBlock} (hhears : b.hears i = some r) (hreach : ∀ f, b.blocks i r f bs = f s r)
include hhears hreach

theorem State.verify_length {data : List Byte} (hlen : data.length ≠ 8) :
    (b.verify i data bs).reg (R.awnStatus i) = s.reg (R.awnStatus i) ∧ Answers i s (b.verify i data bs) [0x67, 0x00] := by
  unfold State.verify
  rw [State.apdu_reaches _ hhears hreach]
  dsimp only
  rw [if_pos hlen, State.reg_of_regs (State.answer_left ..).regs]
  exact ⟨rfl, (Looked.refl s).answers rfl⟩

section
variable {data : List Byte} (hlen : data.length = 8)
include hlen

theorem State.verify_locked (hlock : (s.awn i).lockUntil.isSome = true) :
    (b.verify i data bs).reg (R.awnStatus i) = s.reg (R.awnStatus i) ∧ Answers i s (b.verify i data bs) [0x69, 0x83] := by
  unfold State.verify
  rw [State.apdu_reaches _ hhears hreach]
  dsimp only
  rw [if_neg (not_not.mpr hlen), if_pos hlock, State.reg_of_regs (State.answer_left ..).regs]
  exact ⟨rfl, (Looked.refl s).answers rfl⟩

variable (hlock : (s.awn i).lockUntil = none)
include hlock

theorem State.verify_unlocked : b.verify i data bs =
    if s.pinMatches i r data = true then
      ((s.setFld (R.awnStatus i) F.awnStatus.triesLeft r.pinTries).setBit (R.awnStatus i) F.awnStatus.verified true).answer i [] 0x9000
    else if 1 < s.triesLeft i then
      (s.setFld (R.awnStatus i) F.awnStatus.triesLeft (s.triesLeft i - 1)).answer i [] (0x63C0 + (s.triesLeft i - 1))
    else ((s.lockedOut i r).awnEvent i 0x0012 i []).answer i [] 0x6983 := by
  have hopen : ¬ (s.awn i).lockUntil.isSome = true := by simp [hlock]
  unfold State.verify State.pinMatches
  rw [State.apdu_reaches _ hhears hreach]
  dsimp only
  rw [if_neg (not_not.mpr hlen), if_neg hopen]
  simp only [Bool.and_eq_true, decide_eq_true_eq]
  rfl

theorem State.verify_matches (hi : i < 4) (h : s.pinMatches i r data = true) :
    (b.verify i data bs).bit (R.awnStatus i) F.awnStatus.verified = true ∧
      (b.verify i data bs).fld (R.awnStatus i) F.awnStatus.triesLeft = r.pinTries ∧ Answers i s (b.verify i data bs) [0x90, 0x00] := by
  have hkept : ListenerKept i s ((s.setFld (R.awnStatus i) F.awnStatus.triesLeft r.pinTries).setBit (R.awnStatus i)
      F.awnStatus.verified true) := (ListenerKept.setFld_status hi s i _ _).trans (.setBit_status hi _ i _ _)
  rw [State.verify_unlocked hhears hreach hlen hlock, if_pos h]
  refine ⟨?_, ?_, (Looked.refl s).status_answers rfl hkept (State.setBit_awning ..) (State.setBit_out ..)⟩
  · rw [State.bit_of_reg (State.reg_of_regs (State.answer_left ..).regs _)]
    exact State.bit_setBit_self _ _ _ _ (by decide)
  · rw [State.fld_of_reg (State.reg_of_regs (State.answer_left ..).regs _), State.fld_setBit_apart _ _ _ _ _ (by decide) (by decide),
      State.fld_setFld_self _ _ _ _ (by decide)]
    exact Nat.mod_eq_of_lt r.pinTries_lt

theorem State.verify_fails (hi : i < 4) (h : s.pinMatches i r data = false) (htries : 1 < s.triesLeft i) :
    (b.verify i data bs).fld (R.awnStatus i) F.awnStatus.triesLeft = s.triesLeft i - 1 ∧
      (b.verify i data bs).bit (R.awnStatus i) F.awnStatus.verified = s.bit (R.awnStatus i) F.awnStatus.verified ∧
      Answers i s (b.verify i data bs) [0x63, BitVec.ofNat 8 (0xC0 + (s.triesLeft i - 1))] := by
  have hlt : s.triesLeft i - 1 < 16 := (Nat.sub_le _ _).trans_lt (s.triesLeft_lt i)
  rw [State.verify_unlocked hhears hreach hlen hlock, h, if_neg Bool.false_ne_true, if_pos htries]
  refine ⟨?_, ?_, (Looked.refl s).status_answers (tries_answer hlt) (.setFld_status hi s i _ _) rfl rfl⟩
  · rw [State.fld_of_reg (State.reg_of_regs (State.answer_left ..).regs _), State.fld_setFld_self _ _ _ _ (by decide)]
    exact Nat.mod_eq_of_lt hlt
  · rw [State.bit_of_reg (State.reg_of_regs (State.answer_left ..).regs _)]
    exact State.bit_setFld_apart _ _ _ _ _ (by decide) (by decide)

/-- The last try fails: VERIFY is locked out. -/
theorem State.verify_locks (hi : i < 4) (h : s.pinMatches i r data = false) (htries : s.triesLeft i ≤ 1) :
    (b.verify i data bs).fld (R.awnStatus i) F.awnStatus.triesLeft = 0 ∧
      ((b.verify i data bs).awn i).lockUntil = some (s.now + r.pinLock) ∧ AnswersLast i s (b.verify i data bs) [0x69, 0x83] := by
  have hawn : (s.lockedOut i r).awn i = (s.awn i).lockedTill (some (s.now + r.pinLock)) :=
    State.modAwn_awn_self _ i (Awning.lockedTill (some (s.now + r.pinLock)))
  have hevent : Keeps 0x202006004001C (s.lockedOut i r) ((s.lockedOut i r).awnEvent i 0x0012 i []) :=
    State.awnEvent_step _ _ _ _ rfl rfl (Keeps.refl _ _)
  have hkept : ListenerKept i s (s.lockedOut i r) := (ListenerKept.setFld_status hi s i _ _).trans (.modAwn _ i _)
  have hvoice : SameVoice i s (s.lockedOut i r) :=
    ⟨hkept.lmDepth, (congrArg Awning.block hawn :), (congrArg Awning.cid hawn :), (congrArg Awning.fsd hawn :)⟩
  have htold := hvoice.trans (.of_kept (.of_keeps hevent i) (hevent.awn_eq i))
  rw [State.verify_unlocked hhears hreach hlen hlock, h, if_neg Bool.false_ne_true, if_neg (Nat.not_lt.mpr htries)]
  refine ⟨?_, ?_, htold.answersLast rfl⟩
  · rw [State.fld_of_reg (State.reg_of_regs (State.answer_left ..).regs _), hevent.fld_eq (regWindow_awnStatus i), State.lockedOut,
      State.modAwn_fld, State.fld_setFld_self _ _ _ _ (by decide), Nat.zero_mod]
  · rw [(State.answer_left ..).lockUntil, hevent.awn_eq, hawn]
    rfl

end

/-! ### Other APDUs (R227) -/

theorem State.otherApdu_unserved {ins : Byte} (p1p2 : BitVec 16) (h : ins ∉ ([0xA4, 0xB0, 0xD6, 0x20] : List Byte)) :
    Answers i s (b.otherApdu i ins p1p2 bs) [0x6D, 0x00] := by
  unfold State.otherApdu
  rw [State.apdu_reaches _ hhears hreach]
  simp only [h, decide_false, Bool.not_false, if_true]
  exact (Looked.refl s).answers rfl

theorem State.otherApdu_unknown {ins : Byte} {p1p2 : BitVec 16}
    (h : ins = 0xA4 ∧ p1p2 ≠ 0x0400 ∧ p1p2 ≠ 0x000C ∨ ins = 0x20 ∧ p1p2 ≠ 0x0080) :
    Answers i s (b.otherApdu i ins p1p2 bs) [0x6A, 0x86] := by
  have hother : b.otherApdu i ins p1p2 bs = s.answer i [] 0x6A86 := by
    unfold State.otherApdu
    rw [State.apdu_reaches _ hhears hreach]
    rcases h with ⟨rfl, hfirst, hnext⟩ | ⟨rfl, hp⟩
    · exact (if_neg (by decide)).trans (if_neg (by simpa using ⟨hfirst, hnext⟩))
    · exact (if_neg (by decide)).trans (if_neg (by simpa using hp))
  rw [hother]
  exact (Looked.refl s).answers rfl

theorem State.otherApdu_free {ins : Byte} {p1p2 : BitVec 16}
    (h : ins = 0xA4 ∧ (p1p2 = 0x0400 ∨ p1p2 = 0x000C) ∨ ins = 0x20 ∧ p1p2 = 0x0080 ∨ ins = 0xB0 ∨ ins = 0xD6) :
    b.otherApdu i ins p1p2 bs = s.answerFree i := by
  unfold State.otherApdu
  rw [State.apdu_reaches _ hhears hreach]
  rcases h with ⟨rfl, rfl | rfl⟩ | ⟨rfl, rfl⟩ | rfl | rfl <;> simp

end

/-! ### The end of the lockout (R234, R235) -/

section
variable {s : State} {i at_ : Nat} (hlock : (s.awn i).lockUntil = some at_)
include hlock

theorem State.lockOver_due (hdue : at_ ≤ s.now) : ((s.lockOver i).awn i).lockUntil = none ∧
    (s.lockOver i).fld (R.awnStatus i) F.awnStatus.triesLeft = s.pinTries i := by
  have hover : s.lockOver i =
      (s.modAwn i (Awning.lockedTill none)).setFld (R.awnStatus i) F.awnStatus.triesLeft (s.pinTries i) := by
    unfold State.lockOver
    rw [hlock]
    exact if_pos hdue
  have hawn : (s.lockOver i).awn i = (s.awn i).lockedTill none := by
    rw [hover]
    exact s.modAwn_awn_self i (Awning.lockedTill none)
  rw [hawn, hover, State.fld_setFld_self _ _ _ _ (by decide)]
  exact ⟨rfl, Nat.mod_eq_of_lt (s.pinTries_lt i)⟩

theorem State.lockOver_early (hearly : s.now < at_) : s.lockOver i = s := by
  unfold State.lockOver
  rw [hlock]
  exact if_neg (Nat.not_le.mpr hearly)

end

end Sys2Proof.Machine
end

section
/-! SUPPORT. Host commits of Awning (Machine/Awning.lean, Machine/Groundsheet.lean; R226, R232, R233): the control register, the host
image, and the apply. -/

namespace Sys2Proof.Machine

/-! ### The control register -/

theorem awnCtrl_ne_awnStatus {i : Nat} (hi : i < 4) (j : Nat) : R.awnCtrl i ≠ R.awnStatus j := by
  unfold R.awnCtrl R.awnStatus famOff
  split_ifs <;> omega

theorem pitRegion_ne_awnCtrl (q j : Nat) : R.pitRegion q ≠ R.awnCtrl j := fun h => by
  have hwindow := (regWindow_pitRegion q).symm.trans ((congrArg regWindow h).trans (regWindow_awnCtrl j))
  exact absurd hwindow (by decide)

/-- AWN_CTRLn with expect_gen and force of the data of a write. -/
def ctrlWord (w v : Word) : Word :=
  Word.put (Word.put w F.awnCtrl.expectGen (Word.get v F.awnCtrl.expectGen)) F.awnCtrl.force (Word.get v F.awnCtrl.force)

theorem ctrlWord_expectGen (w v : Word) : Word.get (ctrlWord w v) F.awnCtrl.expectGen = Word.get v F.awnCtrl.expectGen := by
  rw [ctrlWord, Word.get_put_apart _ _ _ _ (by decide) (by decide), Word.get_put_self _ _ _ (by decide)]
  exact Nat.mod_eq_of_lt (Word.get_lt _ _)

theorem ctrlWord_force (w v : Word) : Word.get (ctrlWord w v) F.awnCtrl.force = Word.get v F.awnCtrl.force := by
  rw [ctrlWord, Word.get_put_self _ _ _ (by decide)]
  exact Nat.mod_eq_of_lt (Word.get_lt _ _)

theorem ctrlWord_commit (w v : Word) : Word.get (ctrlWord w v) F.awnCtrl.commit = Word.get w F.awnCtrl.commit := by
  rw [ctrlWord, Word.get_put_apart _ _ _ _ (by decide) (by decide), Word.get_put_apart _ _ _ _ (by decide) (by decide)]

section
variable {s : State} {i : Nat} {v : Word}

/-- A commit that becomes pending. -/
theorem State.awnCtrlWrite_commits (hon : s.awnOn i = true) (hcommit : v.getLsbD 0 = true) (hfree : s.commitPending i = false) :
    s.awnCtrlWrite i v =
      (s.setReg (R.awnCtrl i) (ctrlWord (s.reg (R.awnCtrl i)) v)).setBit (R.awnCtrl i) F.awnCtrl.commit true := by
  have hwant : Word.get v F.awnCtrl.commit = 1 := (Word.get_bit v 0).mpr hcommit
  unfold State.awnCtrlWrite
  simp only [hwant, hfree, hon, decide_true, Bool.not_true, Bool.false_eq_true, if_false]
  rfl

/-- A commit while one is pending. -/
theorem State.awnCtrlWrite_drops (hcommit : v.getLsbD 0 = true) (hpending : s.commitPending i = true) :
    s.awnCtrlWrite i v =
      (s.setReg (R.awnCtrl i) (ctrlWord (s.reg (R.awnCtrl i)) v)).setBit (R.awnStatus i) F.awnStatus.hostWriteDropped true := by
  have hwant : Word.get v F.awnCtrl.commit = 1 := (Word.get_bit v 0).mpr hcommit
  unfold State.awnCtrlWrite
  simp only [hwant, hpending, decide_true, Bool.not_true, Bool.false_eq_true, if_false, if_true]
  rfl

end

/-! ### The host image while a commit is pending (R233) -/

theorem State.hostStore_dropped {s : State} {a i : Nat} (hpool : a < 0x01000000) (hawn : s.awnAt a = some i)
    (hlo : 0x3000 ≤ a - (s.awnRegion i).1) (hhi : a - (s.awnRegion i).1 < 0x5040) (hpending : s.commitPending i = true)
    (l : List Byte) : s.hostStore a l = s.setBit (R.awnStatus i) F.awnStatus.hostWriteDropped true := by
  have himage : ¬ (a - (s.awnRegion i).1 < 0x3000 ∨ 0x5040 ≤ a - (s.awnRegion i).1) := by omega
  unfold State.hostStore
  simp only [hpool, hawn, himage, hpending, if_true, if_false]

/-- The word of a view offset that leads into Groundsheet lies in the window too. -/
theorem State.place_of_view {s : State} {m : Master} {x a : Nat} (h : s.viewOf m x = .word a) : s.place m (x / 8 * 8) = .window := by
  unfold State.viewOf at h
  by_cases hm : m.val < 4
  · have hprivileged : privileged m = true := decide_eq_true hm
    rw [if_pos hprivileged] at h
    split at h
    · exact State.place_privileged hm (by omega) (by omega)
    · cases h
  · have hpitch : ¬ privileged m = true := by simpa [privileged] using hm
    rw [if_neg hpitch] at h
    dsimp only at h
    split at h
    · exact State.place_pitch (Nat.not_lt.mp hm) (by omega) (by omega)
    · split at h
      · split at h <;> cases h
      · cases h

/-- A write within one word of a window is one store. -/
theorem State.viewWrite_within {s : State} {m : Master} {x : Nat} {l : List Byte} (hplace : s.place m (x / 8 * 8) = .window)
    (hon : s.masterOn m = true) (hpos : 0 < l.length) (hlen : x % 8 + l.length ≤ 8) : s.viewWrite m x l = s.viewStore m x l := by
  have hsize : windowSize x l.length = true := by simp [windowSize, hpos, hlen]
  obtain ⟨b, rest, rfl⟩ := List.exists_cons_of_length_pos hpos
  unfold State.viewWrite State.gshWrite
  simp only [hplace, hsize, hon, Bool.true_or, if_true, Bool.not_true, Bool.false_eq_true, if_false]
  rw [State.gshStores_cons, List.take_of_length_le (by omega), List.drop_of_length_le (by omega)]
  rfl

/-! ### Reads of an image -/

/-- Readable words that are read one after the other. -/
theorem Looked.loadWords {s : State} : ∀ {n : Nat} {t : State} {a : Nat}, Looked s t → (∀ k, k < n → s.isUe (a + 8 * k) = false) →
    Looked s (t.loadWords a n).1 ∧ (t.loadWords a n).2 = s.words a n
  | 0, _, _, h, _ => ⟨h, rfl⟩
  | n + 1, t, a, h, hread => by
    have hfirst : t.isUe a = false := (h.ue a).trans (hread 0 (Nat.succ_pos n))
    have hword : t.loadWord a = (t.touch a, s.word a) := by
      rw [State.touch_readable hfirst, ← h.word a]
      exact if_neg (by simp [hfirst])
    obtain ⟨hlooked, hrest⟩ := (h.trans (.touch t a)).loadWords (n := n) (a := a + 8) fun k hk => by
      rw [Nat.add_assoc, Nat.add_comm 8]
      exact hread (k + 1) (Nat.succ_lt_succ hk)
    have hwords : s.words a (n + 1) = s.word a :: s.words (a + 8) n := by
      unfold State.words
      rw [List.range_succ_eq_map, List.map_cons, List.map_map]
      refine congrArg _ (List.map_congr_left fun k _ => congrArg s.word ?_)
      show a + 8 * (k + 1) = a + 8 + 8 * k
      omega
    unfold State.loadWords
    rw [hword, hwords, ← hrest]
    exact ⟨hlooked, rfl⟩

/-- The tests of the header are of words 1 to 5 of an image. -/
theorem headerOk_congr {f g : Nat → Word} (h : ∀ k, k < 6 → f k = g k) : headerOk f = headerOk g := by
  unfold headerOk
  simp only [h 1 (by decide), h 2 (by decide), h 4 (by decide), h 5 (by decide)]

theorem State.words_getD (s : State) (a n : Nat) {k : Nat} (hk : k < n) : (s.words a n).getD k 0 = s.word (a + 8 * k) := by
  simp [State.words, hk]

/-! ### The copy of the host image (R231, R232) -/

theorem Keeps.commitPending_eq {w : Nat} {s t : State} (h : Keeps w s t) (i : Nat) (h1 : w.testBit 63 = false := by rfl)
    (hreg : w.testBit 54 = false := by rfl) : t.commitPending i = s.commitPending i := h.bit_eq (regWindow_awnCtrl i) _ h1 hreg

/-- The words that become the live image. -/
def State.imageCopy (s : State) (i gen : Nat) : List Word :=
  Word.put ((s.words (s.awnBase i + 0x3000) 1032).headD 0) (31, 0) (gen + 2) :: (s.words (s.awnBase i + 0x3000) 1032).drop 1

theorem State.words_length (s : State) (a n : Nat) : (s.words a n).length = n := by simp [State.words]

theorem State.imageCopy_length (s : State) (i gen : Nat) : (s.imageCopy i gen).length = 1032 := by
  rw [State.imageCopy, List.length_cons, List.length_drop, State.words_length]

theorem State.imageCopy_gen (s : State) (i gen : Nat) : Word.get ((s.imageCopy i gen).getD 0 0) (31, 0) = (gen + 2) % 2 ^ 32 := by
  rw [State.imageCopy, List.getD_cons_zero]
  exact Word.get_put_self _ _ _ (by decide)

theorem State.imageCopy_word (s : State) (i gen : Nat) {k : Nat} (hk : k < 1031) :
    (s.imageCopy i gen).getD (k + 1) 0 = s.word (s.awnBase i + 0x3008 + 8 * k) := by
  have hindex : s.awnBase i + 0x3000 + 8 * (1 + k) = s.awnBase i + 0x3008 + 8 * k := by omega
  rw [State.imageCopy, List.getD_cons_succ, ← hindex, ← s.words_getD (s.awnBase i + 0x3000) 1032 (k := 1 + k) (by omega)]
  simp only [List.getD_eq_getElem?_getD, List.getElem?_drop]

/-- A PICC while a commit is being applied (R226). -/
def Awning.busyTill (t : Nat) (x : Awning) : Awning := { x with applyUntil := t }

section
variable {s : State} {i : Nat} (hhost : ∀ k, k < 1032 → s.isUe (s.awnBase i + 0x3000 + 8 * k) = false)
include hhost

/-- The copy, from the words that it has read. -/
theorem State.commitCopy_eq (gen : Nat) (hbase : 8 ∣ s.awnBase i) : ∃ u n, Keeps 0x2003160080000006 s u ∧
    (∀ k, k < 1032 → u.word (s.awnBase i + 8 * k) = (s.imageCopy i gen).getD k 0) ∧ s.commitCopy i gen =
      (u.modAwn i (Awning.busyTill (s.now + Config.freeNat n % (usTicks 200 + 1)))).skip 1 := by
  obtain ⟨hlooked, hwords⟩ := (Looked.refl s).loadWords hhost
  refine ⟨(s.loadWords (s.awnBase i + 0x3000) 1032).1.setWords (s.awnBase i) (s.imageCopy i gen),
    (s.loadWords (s.awnBase i + 0x3000) 1032).1.fresh, State.setWords_step _ _ rfl rfl (hlooked.keeps.mono rfl), fun k hk => ?_, ?_⟩
  · have hin : k < (s.imageCopy i gen).length := (s.imageCopy_length i gen).symm ▸ hk
    rw [List.getD_eq_getElem _ _ hin, State.word_setWords_in _ _ hbase hin]
  · unfold State.commitCopy State.imageCopy
    dsimp only
    rw [hwords]
    rfl

theorem State.commitCopy_live (gen : Nat) (hbase : 8 ∣ s.awnBase i) :
    (s.commitCopy i gen).awnGen i = (gen + 2) % 2 ^ 32 ∧
      (∀ k, k < 1031 → (s.commitCopy i gen).word (s.awnBase i + 8 * (k + 1)) = s.word (s.awnBase i + 0x3008 + 8 * k)) ∧
      (s.commitCopy i gen).commitPending i = s.commitPending i ∧
      s.now ≤ ((s.commitCopy i gen).awn i).applyUntil ∧ ((s.commitCopy i gen).awn i).applyUntil ≤ s.now + 8000 := by
  obtain ⟨u, n, hkeeps, hwords, hcopy⟩ := State.commitCopy_eq hhost gen hbase
  have hself : (s.commitCopy i gen).awn i = (u.awn i).busyTill (s.now + Config.freeNat n % (usTicks 200 + 1)) := by
    rw [hcopy]
    exact u.modAwn_awn_self i (Awning.busyTill _)
  have hkept : (s.commitCopy i gen).awnBase i = s.awnBase i := by
    rw [hcopy]
    exact (ListenerKept.of_keeps hkeeps i).awnBase
  have hword (k : Nat) (hk : k < 1032) : (s.commitCopy i gen).word (s.awnBase i + 8 * k) = (s.imageCopy i gen).getD k 0 := by
    rw [hcopy]
    exact hwords k hk
  have hlast : Config.freeNat n % (usTicks 200 + 1) ≤ 8000 := Nat.lt_succ_iff.mp (Nat.mod_lt _ (by decide))
  refine ⟨?_, fun k hk => (hword (k + 1) (by omega)).trans (s.imageCopy_word i gen hk), ?_, ?_, ?_⟩
  · rw [State.awnGen, State.liveFld, hkept, State.imgWord, hword 0 (by decide), State.imageCopy_gen]
  · rw [hcopy]
    exact hkeeps.commitPending_eq i
  · rw [hself]
    exact Nat.le_add_right _ _
  · rw [hself]
    exact Nat.add_le_add_left hlast _

end

/-! ### The apply (R232) -/

section
variable {s : State} {i : Nat}

/-- A commit that is being applied or refused waits no longer. -/
def State.taking (s : State) (i : Nat) : State := s.setBit (R.awnCtrl i) F.awnCtrl.commit false

theorem State.taking_pending (s : State) (i : Nat) : (s.taking i).commitPending i = false := State.bit_setBit_self _ _ _ _ (by decide)

theorem State.taking_kept (hi : i < 4) (s : State) : ListenerKept i s (s.taking i) :=
  ⟨State.setBit_reg_ne _ _ _ (awnImg_ne_awnCtrl hi i), fun q => State.setBit_reg_ne _ _ _ (pitRegion_ne_awnCtrl q i),
    State.setBit_runs .., State.setBit_ports .., State.setBit_slices ..⟩

theorem State.taking_isUe (s : State) (i a : Nat) : (s.taking i).isUe a = s.isUe a := by
  unfold State.isUe State.upset State.taking
  rw [State.setBit_ecc]

theorem State.taking_word (s : State) (i a : Nat) : (s.taking i).word a = s.word a :=
  State.word_of_bytes fun x _ _ => State.byte_of_mem (State.setBit_mem ..) x

theorem State.commitRefuse_bit (s : State) (i : Nat) {f : Fld} (hf : f.ok = true) (why : Nat) :
    (s.commitRefuse i f why).bit (R.awnStatus i) f = true := by
  unfold State.commitRefuse
  rw [(State.awnEvent_step (msk := 0x202006004001C) _ _ _ _ rfl rfl (Keeps.refl _ _)).bit_eq (regWindow_awnStatus i)]
  exact State.bit_setBit_self _ _ _ _ hf

theorem State.commitRefuse_pending (hi : i < 4) (s : State) (f : Fld) (why : Nat) :
    (s.commitRefuse i f why).commitPending i = s.commitPending i := by
  unfold State.commitRefuse
  rw [(State.awnEvent_step (msk := 0x202006004001C) _ _ _ _ rfl rfl (Keeps.refl _ _)).commitPending_eq]
  exact State.bit_of_reg (State.setBit_reg_ne _ _ _ (awnCtrl_ne_awnStatus hi i)) _

/-- In another state the commit stays pending. -/
theorem State.commitApply_busy (h : (s.awn i).picc = .ready ∨ (s.awn i).picc = .active ∨ (s.awn i).picc = .protocol) :
    s.commitApply i = s := by
  unfold State.commitApply
  rcases h with h | h | h <;> simp [h]

variable (hpending : s.commitPending i = true) (hon : s.awnOn i = true)
  (hrest : (s.awn i).picc = .powerOff ∨ (s.awn i).picc = .idle ∨ (s.awn i).picc = .halt) (hlog : (s.awn i).log = [])
include hpending hon hrest hlog

theorem State.commitApply_rest : s.commitApply i =
    if s.fld (R.awnCtrl i) F.awnCtrl.force = 0 ∧
        Word.get ((s.taking i).liveLoad i 0).2 (31, 0) ≠ s.fld (R.awnCtrl i) F.awnCtrl.expectGen then
      ((s.taking i).liveLoad i 0).1.commitRefuse i F.awnStatus.conflict 1
    else if !headerOk (fun k => (((s.taking i).liveLoad i 0).1.loadWords (s.awnBase i + 0x3000) 6).2.getD k 0) then
      (((s.taking i).liveLoad i 0).1.loadWords (s.awnBase i + 0x3000) 6).1.commitRefuse i F.awnStatus.imageBad 2
    else (((s.taking i).liveLoad i 0).1.loadWords (s.awnBase i + 0x3000) 6).1.commitCopy i
      (Word.get ((s.taking i).liveLoad i 0).2 (31, 0)) := by
  have hrests : (decide ((s.awn i).picc = .powerOff) || decide ((s.awn i).picc = .idle) || decide ((s.awn i).picc = .halt)) = true := by
    rcases hrest with h | h | h <;> simp [h]
  unfold State.commitApply
  simp only [hpending, hon, hrests, hlog, List.isEmpty_nil, Bool.not_true, Bool.or_self, Bool.false_eq_true, if_false]
  rfl

omit hpending hon hrest hlog in
/-- The live gen is read while the commit is taken. -/
theorem State.taking_gen (hi : i < 4) (hlive : s.isUe (s.awnBase i) = false) : Looked (s.taking i) ((s.taking i).liveLoad i 0).1 ∧
    Word.get ((s.taking i).liveLoad i 0).2 (31, 0) = s.awnGen i := by
  have hbase := (State.taking_kept hi s).awnBase
  obtain ⟨hlooked, hword⟩ := (Looked.refl (s.taking i)).liveLoad (i := i) (w := 0) (by
    rw [hbase, s.taking_isUe, Nat.mul_zero, Nat.add_zero, hlive])
  refine ⟨hlooked, ?_⟩
  rw [hword, hbase, State.imgWord, s.taking_word]
  rfl

variable (hi : i < 4) (hlive : s.isUe (s.awnBase i) = false)
include hi hlive

theorem State.commitApply_conflict (hforce : s.fld (R.awnCtrl i) F.awnCtrl.force = 0)
    (hgen : s.awnGen i ≠ s.fld (R.awnCtrl i) F.awnCtrl.expectGen) :
    (s.commitApply i).commitPending i = false ∧ (s.commitApply i).bit (R.awnStatus i) F.awnStatus.conflict = true := by
  obtain ⟨hlooked, hlivegen⟩ := State.taking_gen hi hlive
  rw [State.commitApply_rest hpending hon hrest hlog, hlivegen, if_pos ⟨hforce, hgen⟩, State.commitRefuse_pending hi,
    hlooked.keeps.commitPending_eq, State.taking_pending]
  exact ⟨rfl, State.commitRefuse_bit _ _ (by decide) _⟩

variable (hhost : ∀ k, k < 1032 → s.isUe (s.awnBase i + 0x3000 + 8 * k) = false)
  (hmeant : s.fld (R.awnCtrl i) F.awnCtrl.force = 1 ∨ s.awnGen i = s.fld (R.awnCtrl i) F.awnCtrl.expectGen)
include hhost hmeant

/-- The commit that is meant: its header has been read. -/
theorem State.commitApply_meant : ∃ t, Looked (s.taking i) t ∧ s.commitApply i =
    if headerOk (s.imgWord (s.awnBase i + 0x3000)) then t.commitCopy i (s.awnGen i) else t.commitRefuse i F.awnStatus.imageBad 2 := by
  have hnot : ¬ (s.fld (R.awnCtrl i) F.awnCtrl.force = 0 ∧ s.awnGen i ≠ s.fld (R.awnCtrl i) F.awnCtrl.expectGen) := by
    rintro ⟨hforce, hgen⟩
    rcases hmeant with h | h
    · exact absurd (h.symm.trans hforce) (by decide)
    · exact hgen h
  obtain ⟨hlooked, hlivegen⟩ := State.taking_gen hi hlive
  obtain ⟨hheader, hwords⟩ := hlooked.loadWords (n := 6) (a := s.awnBase i + 0x3000) fun k hk => by
    rw [s.taking_isUe]
    exact hhost k (by omega)
  have hsame : headerOk (fun k => (((s.taking i).liveLoad i 0).1.loadWords (s.awnBase i + 0x3000) 6).2.getD k 0) =
      headerOk (s.imgWord (s.awnBase i + 0x3000)) := headerOk_congr fun k hk => by
    rw [hwords, State.words_getD _ _ _ hk, s.taking_word]
    rfl
  refine ⟨_, hheader, ?_⟩
  rw [State.commitApply_rest hpending hon hrest hlog, hlivegen, if_neg hnot, hsame]
  cases headerOk (s.imgWord (s.awnBase i + 0x3000)) with
  | true => simp only [Bool.not_true, Bool.false_eq_true, if_false, if_true]
  | false => simp only [Bool.not_false, Bool.false_eq_true, if_false, if_true]

theorem State.commitApply_imageBad (hbad : headerOk (s.imgWord (s.awnBase i + 0x3000)) = false) :
    (s.commitApply i).commitPending i = false ∧ (s.commitApply i).bit (R.awnStatus i) F.awnStatus.imageBad = true := by
  obtain ⟨t, hlooked, happly⟩ := State.commitApply_meant hpending hon hrest hlog hi hlive hhost hmeant
  rw [happly, hbad, if_neg Bool.false_ne_true, State.commitRefuse_pending hi, hlooked.keeps.commitPending_eq, State.taking_pending]
  exact ⟨rfl, State.commitRefuse_bit _ _ (by decide) _⟩

theorem State.commitApply_copied (hok : headerOk (s.imgWord (s.awnBase i + 0x3000)) = true) :
    (s.commitApply i).commitPending i = false ∧ (s.commitApply i).awnGen i = (s.awnGen i + 2) % 2 ^ 32 ∧
      s.now ≤ ((s.commitApply i).awn i).applyUntil ∧ ((s.commitApply i).awn i).applyUntil ≤ s.now + 8000 ∧
      ∀ k, k < 1031 → (s.commitApply i).word (s.awnBase i + 8 * (k + 1)) = s.word (s.awnBase i + 0x3008 + 8 * k) := by
  obtain ⟨t, hlooked, happly⟩ := State.commitApply_meant hpending hon hrest hlog hi hlive hhost hmeant
  obtain ⟨-, -, haligned⟩ := s.awnOn_region i hon
  have hbase : t.awnBase i = s.awnBase i := (hlooked.awnBase i).trans (State.taking_kept hi s).awnBase
  have hnow : t.now = s.now := (hlooked.keeps.now_eq).trans (congrArg Clock.site (State.setBit_clock ..))
  obtain ⟨hgen, hwords, hwaits, hfrom, huntil⟩ := State.commitCopy_live (s := t) (i := i) (fun k hk => by
    rw [hlooked.ue, s.taking_isUe, hbase]
    exact hhost k hk) (s.awnGen i) (hbase.symm ▸ haligned)
  rw [happly, hok, if_pos rfl]
  rw [hnow] at hfrom huntil
  refine ⟨hwaits.trans ((hlooked.keeps.commitPending_eq i).trans (s.taking_pending i)), hgen, hfrom, huntil, fun k hk => ?_⟩
  rw [← hbase, hwords k hk, hlooked.word, s.taking_word]

end

end Sys2Proof.Machine
end

section
/-! SUPPORT. Lantern's words and measurements (Machine/Pings.lean, Machine/Lantern.lean; R236 to R238, R243): the words as registers or
as their always-on copies, and what a ping makes of them. -/

namespace Sys2Proof.Machine

/-! ### The words -/

theorem lntLast_ne_lntBase {e d : Nat} (he : e < 4) (hd : d < 4) : lntReg (9 + e) ≠ lntReg (5 + d) := by
  unfold lntReg R.lntCfg R.lntPort R.lntBase R.lntLast famOff
  split_ifs <;> omega

theorem lntReg_ne_lntStatus (k : Nat) : lntReg k ≠ R.lntStatus := by
  unfold lntReg R.lntStatus R.lntCfg R.lntPort R.lntBase R.lntLast famOff
  split_ifs <;> omega

theorem lntReg_base (e : Nat) (he : e < 4) : lntReg (5 + e) = R.lntBase e := by
  have hbase : 5 + e < 9 := by omega
  have hport : ¬ 5 + e < 5 := by omega
  have hcfg : ¬ 5 + e = 0 := by omega
  rw [lntReg, if_neg hcfg, if_neg hport, if_pos hbase, Nat.add_sub_cancel_left]

section
variable {s t : State}

theorem State.lnt_of (hwatch : t.watching = s.watching) (haon : t.lantern.aon = s.lantern.aon) {k : Nat}
    (hreg : t.reg (lntReg k) = s.reg (lntReg k)) : t.lnt k = s.lnt k := by
  unfold State.lnt
  rw [hwatch, haon, hreg]

theorem State.lnt_reg (hwatch : s.watching = false) (k : Nat) : s.lnt k = s.reg (lntReg k) := by
  unfold State.lnt
  rw [hwatch]
  rfl

theorem State.lnt_aon (hwatch : s.watching = true) (k : Nat) : s.lnt k = s.lantern.aon.getD k 0 := by
  unfold State.lnt
  rw [hwatch]
  rfl

/-- LNT_STATUS is none of the words. -/
theorem State.bump_lnt (s : State) (f : Fld) (k : Nat) : (s.bump R.lntStatus f).lnt k = s.lnt k :=
  State.lnt_of (s := s) (t := s.bump R.lntStatus f) rfl rfl (State.setFld_reg_ne _ _ _ (lntReg_ne_lntStatus k))

theorem State.setLantern_lnt {v : Lantern} (h : v.aon = s.lantern.aon) (k : Nat) : (s.setLantern v).lnt k = s.lnt k :=
  State.lnt_of (s := s) (t := s.setLantern v) rfl h rfl

theorem State.lntNear_of {e : Nat} (h : t.lnt (9 + e) = s.lnt (9 + e)) : t.lntNear e = s.lntNear e := by
  unfold State.lntNear
  rw [h]

theorem State.setLnt_boot (s : State) (k : Nat) (w : Word) : (s.setLnt k w).boot = s.boot := by
  unfold State.setLnt
  split <;> rfl

theorem State.setLnt_watching (s : State) (k : Nat) (w : Word) : (s.setLnt k w).watching = s.watching := by
  unfold State.watching
  rw [State.setLnt_boot]

/-- A word that the part holds: a register, or one of the thirteen always-on copies. -/
def State.holdsLnt (s : State) : Prop := s.watching = true → s.lantern.aon.length = 13

theorem State.setLnt_lnt_self (h : s.holdsLnt) {k : Nat} (hk : k < 13) (w : Word) : (s.setLnt k w).lnt k = w := by
  have hwatching := s.setLnt_watching k w
  cases hwatch : s.watching with
  | true =>
    have hlen : k < s.lantern.aon.length := (h hwatch).symm ▸ hk
    rw [State.lnt_aon (hwatching.trans hwatch), State.setLnt, hwatch, if_pos rfl]
    simp [hlen]
  | false =>
    rw [State.lnt_reg (hwatching.trans hwatch), State.setLnt, hwatch, if_neg (by decide)]
    exact State.setReg_reg_self ..

theorem State.setLnt_lnt_ne {j k : Nat} (hjk : j ≠ k) (hreg : lntReg j ≠ lntReg k) (w : Word) : (s.setLnt k w).lnt j = s.lnt j := by
  have hwatching := s.setLnt_watching k w
  cases hwatch : s.watching with
  | true =>
    rw [State.lnt_aon (hwatching.trans hwatch), State.lnt_aon hwatch, State.setLnt, hwatch, if_pos rfl]
    simp only [State.setLantern_lantern, List.getD_eq_getElem?_getD, List.getElem?_set_ne hjk.symm]
  | false =>
    rw [State.lnt_reg (hwatching.trans hwatch), State.lnt_reg hwatch, State.setLnt, hwatch, if_neg (by decide)]
    exact State.setReg_reg_ne _ _ hreg

/-- Beyond its copies Lantern stays as it is when a word is set. -/
theorem State.setLnt_lantern (s : State) (k : Nat) (w : Word) :
    ∃ aon, (s.setLnt k w).lantern = { s.lantern with aon := aon } ∧ aon.length = s.lantern.aon.length := by
  unfold State.setLnt
  split
  · exact ⟨_, rfl, List.length_set⟩
  · exact ⟨_, rfl, rfl⟩

theorem State.setLnt_holdsLnt (h : s.holdsLnt) (k : Nat) (w : Word) : (s.setLnt k w).holdsLnt := fun hwatch => by
  obtain ⟨aon, haon, hlen⟩ := s.setLnt_lantern k w
  rw [haon]
  exact hlen.trans (h ((s.setLnt_watching k w).symm.trans hwatch))

/-! ### A baseline -/

theorem baseWord_amp (amp : BitVec 12) (phase : Int) : Word.get (baseWord amp.toNat phase) F.lntBase.amp = amp.toNat := by
  unfold baseWord
  rw [Word.get_put_apart _ _ _ _ (by decide) (by decide), Word.get_put_self _ _ _ (by decide), BitVec.ofInt_natCast, BitVec.ofNat_toNat,
    BitVec.setWidth_eq]
  exact Nat.mod_eq_of_lt amp.isLt

theorem baseWord_phase (amp : Int) (phase : BitVec 8) : Word.get (baseWord amp phase.toNat) F.lntBase.phase = phase.toNat := by
  unfold baseWord
  rw [Word.get_put_self _ _ _ (by decide), BitVec.ofInt_natCast, BitVec.ofNat_toNat, BitVec.setWidth_eq]
  exact Nat.mod_eq_of_lt phase.isLt

theorem baseWord_valid (amp phase : Int) : Word.get (baseWord amp phase) F.lntBase.valid = 1 := by
  unfold baseWord
  rw [Word.get_put_apart _ _ _ _ (by decide) (by decide), Word.get_put_apart _ _ _ _ (by decide) (by decide),
    Word.get_put_self _ _ _ (by decide)]
  rfl

theorem baseWord_valid_bit (amp phase : Int) : (baseWord amp phase).getLsbD 63 = true :=
  (Word.get_bit _ 63).mp (baseWord_valid amp phase)

/-- A baseline without valid. -/
theorem valid_eq_zero {w : Word} (h : w.getLsbD 63 = false) : Word.get w F.lntBase.valid = 0 := by
  have hlt : Word.get w F.lntBase.valid < 2 := Word.get_lt w F.lntBase.valid
  have hne : ¬ Word.get w F.lntBase.valid = 1 := fun hget => Bool.false_ne_true (h.symm.trans ((Word.get_bit w 63).mp hget))
  omega

variable {port base : Word} {near : Bool} {amp : BitVec 12} {phase : BitVec 8}

theorem pingDetected_eq (port base : Word) (amp : BitVec 12) (phase : BitVec 8) : pingDetected port base amp phase =
    (base.getLsbD 63 && (decide (max 1 (Word.get port F.lntPort.thrAmp) ≤ (ampDelta amp base).natAbs) ||
      decide (max 1 (Word.get port F.lntPort.thrPhase) ≤ (phaseDelta phase base).natAbs))) := by
  have hvalid : decide (Word.get base F.lntBase.valid = 1) = base.getLsbD 63 := Word.decide_bit base 63
  unfold pingDetected
  rw [hvalid]

theorem nextBase_first (h : base.getLsbD 63 = false) : nextBase port base near amp phase = baseWord amp.toNat phase.toNat := by
  unfold nextBase
  exact if_pos (valid_eq_zero h)

theorem nextBase_stands (hvalid : base.getLsbD 63 = true) (h : pingDetected port base amp phase = true ∨ near = true) :
    nextBase port base near amp phase = base := by
  have hget : Word.get base F.lntBase.valid = 1 := (Word.get_bit base 63).mpr hvalid
  unfold nextBase
  simp only [hget, Nat.one_ne_zero, if_false, h, if_true]

/-- The state of an entry after a ping (R238). -/
theorem nextNear_fst (confirm near d : Bool) (n : Nat) :
    (nextNear confirm near d n).1 = if d = near then d else if confirm = true ∧ n = 0 then !d else d := by
  have hruns : (n + 1 < if confirm = true then 2 else 1) ↔ confirm = true ∧ n = 0 := by
    cases confirm <;> simp
  unfold nextNear
  split
  · symm
    assumption
  · have hnear : near = !d := Bool.eq_not.mpr (Ne.symm ‹_›)
    simp only [hruns, hnear, Bool.not_not]
    split <;> rfl

/-! ### A measurement -/

theorem State.pingOf_some {e : Nat} {l : PingLatch} (h : SMap.find s.lantern.pings e = some l) : s.pingOf e = l := by
  unfold State.pingOf
  rw [h]
  rfl

/-- What a ping makes of the state of its entry. -/
def PingLatch.next (l : PingLatch) (near : Bool) (amp : BitVec 12) (phase : BitVec 8) (n : Nat) : Bool × Nat :=
  nextNear (decide (Word.get l.cfg F.lntCfg.confirm = 1)) near (pingDetected l.port l.base amp phase) n

/-- LNT_LASTn of a measurement. -/
def lastWord (amp : BitVec 12) (phase : BitVec 8) (near : Bool) : Word :=
  Word.put (baseWord amp.toNat phase.toNat) F.lntLast.near near.toNat

theorem lastWord_amp (amp : BitVec 12) (phase : BitVec 8) (near : Bool) :
    Word.get (lastWord amp phase near) F.lntBase.amp = amp.toNat :=
  (Word.get_put_apart _ _ _ _ (by decide) (by decide)).trans (baseWord_amp amp _)

theorem lastWord_phase (amp : BitVec 12) (phase : BitVec 8) (near : Bool) :
    Word.get (lastWord amp phase near) F.lntBase.phase = phase.toNat :=
  (Word.get_put_apart _ _ _ _ (by decide) (by decide)).trans (baseWord_phase _ phase)

theorem lastWord_near (amp : BitVec 12) (phase : BitVec 8) (near : Bool) :
    decide (Word.get (lastWord amp phase near) F.lntLast.near = 1) = near := by
  rw [lastWord, Word.get_put_self _ _ _ (by decide)]
  cases near <;> rfl

theorem State.takePing_keeps (s : State) (e : Nat) (amp : BitVec 12) (phase : BitVec 8) :
    Keeps 0x80000000020000 s (s.takePing e amp phase) := State.takePing_step e amp phase rfl rfl (Keeps.refl _ s)

/-- The baseline after a ping: one that a host has written since stands (R243). -/
theorem State.setBase_lnt {s : State} (h : s.holdsLnt) {e : Nat} (he : e < 4) (old w : Word) :
    (s.setBase e old w).lnt (5 + e) = if s.watching = false ∧ s.lnt (5 + e) ≠ old then s.lnt (5 + e) else w := by
  have hset := State.setLnt_lnt_self h (k := 5 + e) (by omega) w
  unfold State.setBase
  cases hwatch : s.watching with
  | true => simpa [hwatch] using hset
  | false =>
    have hreg : s.lnt (5 + e) = s.reg (R.lntBase e) := (State.lnt_reg hwatch _).trans (by rw [lntReg_base e he])
    by_cases hold : s.reg (R.lntBase e) = old
    · simpa [hold, hreg] using hset
    · simp [hold, hreg]

theorem State.setBase_lantern (s : State) (e : Nat) (old w : Word) :
    ∃ aon, (s.setBase e old w).lantern = { s.lantern with aon := aon } := by
  unfold State.setBase
  split
  · exact ⟨_, rfl⟩
  · obtain ⟨aon, haon, -⟩ := s.setLnt_lantern (5 + e) w
    exact ⟨aon, haon⟩

theorem State.setBase_holdsLnt {s : State} (h : s.holdsLnt) (e : Nat) (old w : Word) : (s.setBase e old w).holdsLnt := by
  unfold State.setBase
  split
  · exact h
  · exact State.setLnt_holdsLnt h _ _

section
variable {e : Nat} {l : PingLatch} (hping : SMap.find s.lantern.pings e = some l) (hbase : e ∉ s.lantern.rebase)
  (amp : BitVec 12) (phase : BitVec 8)
include hping hbase

theorem State.takePing_eq : s.takePing e amp phase =
    (let next := l.next (s.lntNear e) amp phase (SMap.look 0 s.lantern.runs e)
     let s1 := (s.setBase e l.base (nextBase l.port l.base (s.lntNear e) amp phase)).setLnt (9 + e) (lastWord amp phase next.1)
     (s1.setLantern { s1.lantern with
       runs := SMap.put 0 s1.lantern.runs e next.2, rebase := s1.lantern.rebase.filter (· ≠ e)
       pings := SMap.del e s1.lantern.pings }).bump R.lntStatus F.lntStatus.pings) := by
  unfold State.takePing
  rw [State.pingOf_some hping]
  simp only [hbase, if_false]
  rfl

theorem State.takePing_lnt (k : Nat) : (s.takePing e amp phase).lnt k =
    ((s.setBase e l.base (nextBase l.port l.base (s.lntNear e) amp phase)).setLnt (9 + e)
      (lastWord amp phase (l.next (s.lntNear e) amp phase (SMap.look 0 s.lantern.runs e)).1)).lnt k := by
  rw [State.takePing_eq hping hbase]
  exact (State.bump_lnt _ _ k).trans (State.setLantern_lnt rfl k)

theorem State.takePing_last (hlnt : s.holdsLnt) (he : e < 4) : (s.takePing e amp phase).lnt (9 + e) =
    lastWord amp phase (l.next (s.lntNear e) amp phase (SMap.look 0 s.lantern.runs e)).1 := by
  rw [State.takePing_lnt hping hbase, State.setLnt_lnt_self (State.setBase_holdsLnt hlnt _ _ _) (by omega)]

theorem State.takePing_near (hlnt : s.holdsLnt) (he : e < 4) : (s.takePing e amp phase).lntNear e =
    (l.next (s.lntNear e) amp phase (SMap.look 0 s.lantern.runs e)).1 := by
  unfold State.lntNear
  rw [State.takePing_last hping hbase _ _ hlnt he]
  exact lastWord_near _ _ _

theorem State.takePing_base (hlnt : s.holdsLnt) (he : e < 4) : (s.takePing e amp phase).lnt (5 + e) =
    if s.watching = false ∧ s.lnt (5 + e) ≠ l.base then s.lnt (5 + e) else nextBase l.port l.base (s.lntNear e) amp phase := by
  rw [State.takePing_lnt hping hbase, State.setLnt_lnt_ne (by omega) (lntLast_ne_lntBase he he).symm, State.setBase_lnt hlnt he]

/-- Lantern after a measurement, beyond its copies: the pings counted toward the other state, and no ping of the entry. -/
theorem State.takePing_lantern : ∃ aon, (s.takePing e amp phase).lantern = { s.lantern with
    aon := aon, runs := SMap.put 0 s.lantern.runs e (l.next (s.lntNear e) amp phase (SMap.look 0 s.lantern.runs e)).2
    rebase := s.lantern.rebase.filter (· ≠ e), pings := SMap.del e s.lantern.pings } := by
  obtain ⟨first, hfirst⟩ := s.setBase_lantern e l.base (nextBase l.port l.base (s.lntNear e) amp phase)
  obtain ⟨aon, haon, -⟩ := (s.setBase e l.base (nextBase l.port l.base (s.lntNear e) amp phase)).setLnt_lantern (9 + e)
    (lastWord amp phase (l.next (s.lntNear e) amp phase (SMap.look 0 s.lantern.runs e)).1)
  rw [State.takePing_eq hping hbase]
  refine ⟨aon, ?_⟩
  simp only [State.bump_lantern, State.setLantern_lantern, haon, hfirst]

end
end

end Sys2Proof.Machine
end

section
/-! SUPPORT. Lantern's pings (Machine/Lantern.lean; R236 to R239, R242, R388): the burst of a round, the measurement of a stake, and the
wake. -/

namespace Sys2Proof.Machine

/-! ### The burst of an entry -/

section
variable {s : State}

/-- The words that a ping of an entry takes in WATCH. -/
def State.watchLatch (s : State) (e : Nat) : PingLatch :=
  { cfg := s.lnt 0, port := s.lnt (1 + e), base := s.lnt (5 + e), at_ := s.clock.aon }

theorem State.latchPing_watching (hwatch : s.watching = true) (e : Nat) : s.latchPing e s.clock.aon =
    s.setLantern { s.lantern with pings := SMap.ins e (s.watchLatch e) s.lantern.pings } := by
  unfold State.latchPing
  simp only [hwatch, if_true]
  rfl

theorem State.burst_lantern (hwatch : s.watching = true) (e p : Nat) : (s.burst e p).lantern =
    { s.lantern with burst := some e, pings := SMap.ins e (s.watchLatch e) s.lantern.pings } := by
  unfold State.burst
  rw [State.latchPing_watching hwatch]
  rfl

theorem State.sliceTo_st (s : State) (n : Nat) (st : SliceState) : ((s.sliceTo n st).slice n).st = st :=
  congrArg Slice.st (s.modSlice_slice_self n _)

theorem State.burst_slice (s : State) (e p : Nat) : ((s.burst e p).slice (s.server p)).st = .ping :=
  State.sliceTo_st ((s.latchPing e s.clock.aon).setLantern { (s.latchPing e s.clock.aon).lantern with burst := some e }) _ _

theorem State.burst_out (hwatch : s.watching = true) (e p : Nat) :
    (s.burst e p).out = .air p (.ping (pingUs (s.lnt (1 + e)))) [] 0 [] :: s.out := by
  have hping : (s.latchPing e s.clock.aon).pingOf e = s.watchLatch e := by
    rw [State.latchPing_watching hwatch]
    exact State.pingOf_some (SMap.find_ins_self ..)
  have hout : (s.burst e p).out = .air p (.ping (pingUs ((s.latchPing e s.clock.aon).pingOf e).port)) [] 0 [] :: s.out := rfl
  rw [hout, hping]
  rfl

/-- What Lantern has besides the pings that wait or run. -/
structure RoundKept (s t : State) : Prop where
  aon : t.lantern.aon = s.lantern.aon
  confirm : t.lantern.confirm = s.lantern.confirm
  roundAt : t.lantern.roundAt = s.lantern.roundAt
  watching : t.watching = s.watching

theorem RoundKept.refl (s : State) : RoundKept s s := ⟨rfl, rfl, rfl, rfl⟩

theorem RoundKept.trans {s t u : State} (h : RoundKept s t) (g : RoundKept t u) : RoundKept s u :=
  ⟨g.aon.trans h.aon, g.confirm.trans h.confirm, g.roundAt.trans h.roundAt, g.watching.trans h.watching⟩

theorem RoundKept.setQueue (s : State) (l : List Nat) : RoundKept s (s.setLantern { s.lantern with queue := l }) := ⟨rfl, rfl, rfl, rfl⟩

theorem RoundKept.burst (hwatch : s.watching = true) (e p : Nat) : RoundKept s (s.burst e p) := by
  have hlantern := State.burst_lantern hwatch e p
  constructor
  · rw [hlantern]
  · rw [hlantern]
  · rw [hlantern]
  · rfl

theorem RoundKept.nextBurst (hwatch : s.watching = true) : RoundKept s s.nextBurst := by
  unfold State.nextBurst
  split
  · exact .setQueue s _
  · split
    · exact .setQueue s _
    · next e l _ =>
      split
      · exact .refl s
      · next p _ =>
        have hqueue := RoundKept.setQueue s l
        exact hqueue.trans (.burst (hqueue.watching.trans hwatch) e p)

theorem RoundKept.lntNear {s t : State} (h : RoundKept s t) (hwatch : s.watching = true) (e : Nat) : t.lntNear e = s.lntNear e := by
  apply State.lntNear_of
  rw [State.lnt_aon (h.watching.trans hwatch), State.lnt_aon hwatch, h.aon]

/-! ### A round of WATCH (R239, R388) -/

theorem State.nextBurst_first (hquiet : s.quiet = false) {e p : Nat} {l : List Nat}
    (hqueue : (s.lantern.queue.filter fun e => (s.lntPort e).isSome) = e :: l) (hport : s.lntPort e = some p) :
    s.nextBurst = (s.setLantern { s.lantern with queue := l }).burst e p := by
  unfold State.nextBurst
  simp only [hquiet, hqueue, hport, Bool.false_eq_true, if_false]

theorem State.watchRound_early (h : s.clock.aon < s.lantern.roundAt) : s.watchRound = s := by
  unfold State.watchRound
  simp [h]

/-- The next round comes interval_ms later. -/
def State.nextRound (s : State) : Nat := s.clock.aon + 40000 * max 50 (min 2000 (Word.get (s.lnt 0) F.lntCfg.intervalMs))

/-- The entries that a round pings. -/
def State.watched (s : State) : List Nat :=
  (List.range 4).filter fun e => (s.lnt (1 + e)).getLsbD 63 && (s.lntPort e).isSome

section
variable (hwatch : s.watching = true) (hburst : s.lantern.burst = none) (hqueue : s.lantern.queue = [])
  (hdue : s.lantern.roundAt ≤ s.clock.aon)
include hwatch hburst hqueue hdue

theorem State.watchRound_due : s.watchRound = if s.quiet then s.setLantern { s.lantern with roundAt := s.nextRound }
    else (s.setLantern { s.lantern with roundAt := s.nextRound, queue := s.watched }).nextBurst := by
  have hbit (e : Nat) : decide (Word.get (s.lnt (1 + e)) F.lntPort.watch = 1) = (s.lnt (1 + e)).getLsbD 63 := Word.decide_bit _ 63
  have hnow : ¬ s.clock.aon < s.lantern.roundAt := Nat.not_lt.mpr hdue
  unfold State.watchRound State.watched State.nextRound
  simp only [hwatch, hburst, hqueue, hnow, hbit, Option.isSome_none, List.isEmpty_nil, decide_false, Bool.not_true, Bool.or_self,
    Bool.false_eq_true, if_false]
  rfl

theorem State.watchRound_roundAt : s.watchRound.lantern.roundAt = s.nextRound := by
  rw [State.watchRound_due hwatch hburst hqueue hdue]
  split
  · rfl
  · exact (RoundKept.nextBurst (s := s.setLantern { s.lantern with roundAt := s.nextRound, queue := s.watched }) hwatch).roundAt

theorem State.watchRound_quiet (hquiet : s.quiet = true) : s.watchRound.out = s.out ∧ s.watchRound.lantern.burst = none := by
  rw [State.watchRound_due hwatch hburst hqueue hdue, if_pos hquiet]
  exact ⟨rfl, hburst⟩

/-- The round begins with the first entry that is watched. -/
theorem State.watchRound_burst (hquiet : s.quiet = false) {e p : Nat} {l : List Nat} (hport : s.lntPort e = some p)
    (hes : s.watched = e :: l) : s.watchRound = (s.setLantern { s.lantern with roundAt := s.nextRound, queue := l }).burst e p := by
  have hnamed : (s.watched.filter fun e => (s.lntPort e).isSome) = s.watched := by
    apply List.filter_eq_self.mpr
    intro d hd
    exact (Bool.and_eq_true_iff.mp (List.mem_filter.mp hd).2).2
  rw [State.watchRound_due hwatch hburst hqueue hdue, if_neg (by simp [hquiet])]
  exact State.nextBurst_first (s := s.setLantern { s.lantern with roundAt := s.nextRound, queue := s.watched }) hquiet
    (hnamed.trans hes) hport

end

/-! ### The ping that confirms (R239) -/

section
variable {e at_ p : Nat} (hconfirm : s.lantern.confirm = [(e, at_)])
include hconfirm

theorem State.confirmPing_early (hearly : s.clock.aon < at_) : s.confirmPing e = s := by
  have hnot : ¬ at_ ≤ s.clock.aon := Nat.not_le.mpr hearly
  unfold State.confirmPing
  simp [hconfirm, hnot]

theorem State.confirmPing_due (hwatch : s.watching = true) (hburst : s.lantern.burst = none) (hquiet : s.quiet = false)
    (hport : s.lntPort e = some p) (hdue : at_ ≤ s.clock.aon) :
    s.confirmPing e = (s.setLantern { s.lantern with confirm := [] }).burst e p := by
  unfold State.confirmPing
  simp [hconfirm, hdue, hwatch, hburst, hquiet, hport]

end

/-! ### The measurement of a stake (R237, R242) -/

theorem Keeps.lnt_eq {w : Nat} {s t : State} (h : Keeps w s t) (k : Nat) (h1 : w.testBit 63 = false := by rfl)
    (hboot : w.testBit 5 = false := by rfl) (hlantern : w.testBit 17 = false := by rfl) (hreg : w.testBit 55 = false := by rfl) :
    t.lnt k = s.lnt k := by
  refine State.lnt_of ?_ (congrArg Lantern.aon (h.lantern (.inl h1) hlantern)) (h.reg_eq (regWindow_lntReg k) h1 hreg)
  rw [State.watching, h.boot (.inl h1) hboot, State.watching]

/-- A ping of a stake that has lasted its time. -/
theorem State.pingDone_stake (hwatch : s.watching = false) {e p : Nat} {amp : BitVec 12} {phase : BitVec 8} {l : PingLatch} {r : Run}
    {x : Exch} (hping : SMap.find s.lantern.pings e = some l) (hp : p = Word.get l.port F.lntPort.port) (hrun : s.runAt p = some r)
    (hexch : r.exch = some x) (hcmd : x.cmd.isPing = true) (hdue : x.start + usTicks (bf r.block 2 5 0) ≤ s.now) :
    Keeps 0x100202006204029C (s.takePing e amp phase) (s.pingDone e amp phase) := by
  have hover : s.pingDone e amp phase = (if (s.takePing e amp phase).lntNear e = s.lntNear e then s.takePing e amp phase
      else (s.takePing e amp phase).event (blkFifo r.block) r.pitch p .ok
        (if (s.takePing e amp phase).lntNear e then 0x0021 else 0x0022) e [(s.takePing e amp phase).lnt (9 + e)]).pingOver r := by
    unfold State.pingDone
    simp only [hwatch, State.pingOf_some hping, ← hp, hrun, hexch, hcmd, hdue, hping, Bool.false_eq_true, if_false, decide_true,
      Bool.and_true, Bool.not_true, Option.isNone_some, or_self]
  rw [hover]
  refine State.pingOver_step _ rfl rfl (Keeps.ite (Keeps.refl _ _) ?_)
  exact State.event_step _ _ _ _ _ _ _ rfl rfl (Keeps.refl _ _)

/-! ### The wake (R239, R354, R411) -/

theorem State.resetCold_wake (s : State) : s.resetCold .wake = true := rfl

/-- The cards that woke the part outlast the reset. -/
theorem State.takeReset_wake_lntStatus (s : State) : (s.takeReset .wake).reg R.lntStatus =
    Word.put (Word.put 0 F.lntStatus.wakeCard (s.fld R.lntStatus F.lntStatus.wakeCard)) F.lntStatus.wakeEntries
      (s.fld R.lntStatus F.lntStatus.wakeEntries) := by
  have hkept : s.takeReset .wake = ((s.logicReset .wake).setRegList (s.keptRegs .wake)).showInhibit := by
    unfold State.takeReset
    rw [State.resetCold_wake, Bool.not_true, Bool.and_false]
    rfl
  have hlast : s.keptRegs .wake = [(R.rstCause, causeBits (s.causesNow .wake)), (R.rstStraps, s.reg R.rstStraps),
      (R.pwrRtcAlarm, s.reg R.pwrRtcAlarm),
      (R.cabRfoffStatus, Word.put 0 F.cabRfoffStatus.latched (s.fld R.cabRfoffStatus F.cabRfoffStatus.latched))] ++
      [(R.lntStatus, Word.put (Word.put 0 F.lntStatus.wakeCard (s.fld R.lntStatus F.lntStatus.wakeCard)) F.lntStatus.wakeEntries
        (s.fld R.lntStatus F.lntStatus.wakeEntries))] := rfl
  rw [hkept, (State.showInhibit_step (msk := 0x800000000000000) rfl rfl (Keeps.refl _ _)).reg_eq regWindow_lntStatus, hlast]
  unfold State.setRegList State.each
  rw [List.foldl_append]
  exact State.setReg_reg_self ..

theorem State.takeReset_wake_fld (s : State) :
    (s.takeReset .wake).fld R.lntStatus F.lntStatus.wakeCard = s.fld R.lntStatus F.lntStatus.wakeCard ∧
      (s.takeReset .wake).fld R.lntStatus F.lntStatus.wakeEntries = s.fld R.lntStatus F.lntStatus.wakeEntries := by
  unfold State.fld
  rw [State.takeReset_wake_lntStatus, Word.get_put_apart _ _ _ _ (by decide) (by decide), Word.get_put_self _ _ _ (by decide),
    Word.get_put_self _ _ _ (by decide)]
  exact ⟨Nat.mod_eq_of_lt (Word.get_lt _ _), Nat.mod_eq_of_lt (Word.get_lt _ _)⟩

theorem State.takeReset_wake_seq (s : State) : ∃ q, (s.takeReset .wake).boot.seq = some q ∧ .wake ∈ q.causes ∧ q.cold = true :=
  ⟨_, congrArg Boot.seq (s.takeReset_boot .wake), List.mem_dedup.mpr List.mem_cons_self, rfl⟩

/-- An entry wakes the part. -/
def State.wakeFor (s : State) (e : Nat) : State :=
  ((s.setBit R.lntStatus F.lntStatus.wakeCard true).setFld R.lntStatus F.lntStatus.wakeEntries (2 ^ e)).takeReset .wake

theorem State.wakeFor_card (s : State) (e : Nat) : (s.wakeFor e).bit R.lntStatus F.lntStatus.wakeCard = true := by
  unfold State.wakeFor State.bit
  rw [(State.takeReset_wake_fld _).1, State.fld_setFld_apart _ _ _ _ _ (by decide) (by decide), State.fld_setBit_self _ _ _ _ (by decide)]
  rfl

theorem State.wakeFor_entries (s : State) {e : Nat} (he : e < 4) : (s.wakeFor e).fld R.lntStatus F.lntStatus.wakeEntries = 2 ^ e := by
  unfold State.wakeFor
  rw [(State.takeReset_wake_fld _).2, State.fld_setFld_self _ _ _ _ (by decide)]
  exact Nat.mod_eq_of_lt (Nat.pow_lt_pow_right (by decide) he)

theorem State.wakeCardClear_status (s : State) : (s.lntStatusWrite 1).bit R.lntStatus F.lntStatus.wakeCard = false ∧
    (s.lntStatusWrite 1).fld R.lntStatus F.lntStatus.wakeEntries = 0 := by
  have hwrite : s.lntStatusWrite 1 =
      (s.setBit R.lntStatus F.lntStatus.wakeCard false).setFld R.lntStatus F.lntStatus.wakeEntries 0 := if_pos (by decide)
  rw [hwrite, State.bit_setFld_apart _ _ _ _ _ (by decide) (by decide), State.fld_setFld_self _ _ _ _ (by decide)]
  exact ⟨State.bit_setBit_self _ _ _ _ (by decide), rfl⟩

/-! ### The ping of a round of WATCH (R238, R239) -/

/-- A ping of WATCH has been measured, and its burst is over. -/
def State.measured (s : State) (e : Nat) (amp : BitVec 12) (phase : BitVec 8) : State := (s.takePing e amp phase).burstOver

/-- An entry is pinged again 1 ms from here. -/
def State.confirmLater (s : State) (e : Nat) : State :=
  s.setLantern { s.lantern with confirm := s.lantern.confirm ++ [(e, s.clock.aon + msTicks 1)] }

theorem State.burstOver_lantern (s : State) : s.burstOver.lantern = { s.lantern with burst := none } := by
  unfold State.burstOver
  dsimp only
  split <;> rfl

theorem RoundKept.burstOver (s : State) : RoundKept s s.burstOver := by
  have hlantern := s.burstOver_lantern
  constructor
  · rw [hlantern]
  · rw [hlantern]
  · rw [hlantern]
  · rw [State.watching, (State.burstOver_step (msk := 0x20020200) rfl rfl (Keeps.refl _ _)).boot (.inl rfl) rfl]
    rfl

theorem Keeps.quiet_eq {w : Nat} {s t : State} (h : Keeps w s t) (h1 : w.testBit 63 = false := by rfl)
    (hboot : w.testBit 5 = false := by rfl) (hcab : w.testBit 24 = false := by rfl) (hreg : w.testBit 59 = false := by rfl) :
    t.quiet = s.quiet := by
  unfold State.quiet
  rw [h.cab (.inl h1) hcab, h.boot (.inl h1) hboot, h.bit_eq regWindow_cabRfoffStatus _ h1 hreg]

theorem State.measured_keeps (s : State) (e : Nat) (amp : BitVec 12) (phase : BitVec 8) :
    Keeps 0x80000020020200 s (s.measured e amp phase) :=
  State.burstOver_step rfl rfl ((s.takePing_keeps e amp phase).mono rfl)

section
variable {e : Nat} {amp : BitVec 12} {phase : BitVec 8} {l : PingLatch} (hping : SMap.find s.lantern.pings e = some l)
include hping

theorem State.pingDone_early (hwatch : s.watching = true) (hearly : s.clock.aon < l.at_ + usTicks (pingUs l.port)) :
    s.pingDone e amp phase = s := by
  have hnot : ¬ l.at_ + usTicks (pingUs l.port) ≤ s.clock.aon := Nat.not_le.mpr hearly
  unfold State.pingDone
  simp [hwatch, State.pingOf_some hping, hnot]

theorem State.pingDone_watch (hwatch : s.watching = true) (hburst : s.lantern.burst = some e)
    (hdue : l.at_ + usTicks (pingUs l.port) ≤ s.clock.aon) : s.pingDone e amp phase = s.watchPing e amp phase := by
  unfold State.pingDone
  simp [hwatch, State.pingOf_some hping, hburst, hdue]

variable (hbase : e ∉ s.lantern.rebase)
include hbase

theorem State.measured_near (hwatch : s.watching = true) (hlnt : s.holdsLnt) (he : e < 4) : (s.measured e amp phase).lntNear e =
    (l.next (s.lntNear e) amp phase (SMap.look 0 s.lantern.runs e)).1 := by
  have hwatching : (s.takePing e amp phase).watching = true := by
    rw [State.watching, (s.takePing_keeps e amp phase).boot (.inl rfl) rfl]
    exact hwatch
  rw [← State.takePing_near hping hbase amp phase hlnt he]
  exact (RoundKept.burstOver _).lntNear hwatching e

theorem State.measured_lantern : ∃ aon, (s.measured e amp phase).lantern = { s.lantern with
    burst := none, aon := aon, rebase := s.lantern.rebase.filter (· ≠ e), pings := SMap.del e s.lantern.pings
    runs := SMap.put 0 s.lantern.runs e (l.next (s.lntNear e) amp phase (SMap.look 0 s.lantern.runs e)).2 } := by
  obtain ⟨aon, haon⟩ := State.takePing_lantern hping hbase amp phase
  exact ⟨aon, by rw [State.measured, State.burstOver_lantern, haon]⟩

variable (hwatch : s.watching = true) (hlnt : s.holdsLnt) (he : e < 4)
include hwatch hlnt he

/-- An entry that becomes NEAR wakes the part. -/
theorem State.watchPing_wakes (hquiet : s.quiet = false)
    (hnext : (l.next (s.lntNear e) amp phase (SMap.look 0 s.lantern.runs e)).1 = true) :
    s.watchPing e amp phase = (s.measured e amp phase).wakeFor e := by
  have hnear := (State.measured_near hping hbase (amp := amp) (phase := phase) hwatch hlnt he).trans hnext
  have hstill := (s.measured_keeps e amp phase).quiet_eq.trans hquiet
  exact if_pos ⟨hnear, congrArg not hstill⟩

/-- An entry that is detected for the first time is pinged again. -/
theorem State.watchPing_confirms (hnext : l.next (s.lntNear e) amp phase (SMap.look 0 s.lantern.runs e) = (false, 1)) :
    (s.watchPing e amp phase).lntNear e = false ∧
      (s.watchPing e amp phase).lantern.confirm = s.lantern.confirm ++ [(e, s.clock.aon + 40000)] := by
  have hkeeps := s.measured_keeps e amp phase
  have hnear := State.measured_near hping hbase (amp := amp) (phase := phase) hwatch hlnt he
  obtain ⟨aon, hlantern⟩ := State.measured_lantern hping hbase (amp := amp) (phase := phase)
  rw [hnext] at hnear hlantern
  have hclear : ¬ ((s.measured e amp phase).lntNear e = true ∧ (!(s.measured e amp phase).quiet) = true) := by simp [hnear]
  have hcounts : SMap.look 0 (s.measured e amp phase).lantern.runs e ≠ 0 := by
    rw [hlantern, SMap.look_put_self]
    decide
  have hping : s.watchPing e amp phase = ((s.measured e amp phase).confirmLater e).nextBurst :=
    (if_neg hclear).trans (if_pos hcounts)
  have hwatching : ((s.measured e amp phase).confirmLater e).watching = true := by
    show decide ((s.measured e amp phase).boot.power = .watch) = true
    rw [hkeeps.boot (.inl rfl) rfl]
    exact hwatch
  have hkept := RoundKept.nextBurst hwatching
  rw [hping, hkept.lntNear hwatching, hkept.confirm]
  refine ⟨(State.lntNear_of (State.setLantern_lnt rfl _)).trans hnear, ?_⟩
  show (s.measured e amp phase).lantern.confirm ++ [(e, (s.measured e amp phase).clock.aon + msTicks 1)] = _
  rw [hlantern, hkeeps.clock (.inl rfl) rfl]
  rfl

end

end

end Sys2Proof.Machine
end

section
/-! The statements of 08_awning_and_lantern.md, settled. -/
open Sys2Proof Sys2Proof.Machine

/-- Settles O46. -/
theorem piccSessions : Obligations.PiccSessions := by
  unfold Obligations.PiccSessions
  refine ⟨⟨fun i o r s hlistener => ⟨fun hok => ?_, fun hbad => ?_⟩, fun i r u s hhears hread hu => ?_,
    fun i at_ s hhold => ⟨fun hdue => ?_, fun hearly => ?_⟩⟩, fun i r s hhears => ⟨?_, fun hpicc hfree crc => ?_⟩⟩
  · have hawn := State.fieldDetect_taken hlistener hok
    obtain ⟨hended, -⟩ := s.awnPowerOff_awn i
    refine ⟨_, rfl, congrArg Awning.field hawn, congrArg Awning.port hawn, fun hnone => ?_, fun hsome => ?_⟩
    · rw [hawn, hnone]
      rfl
    · rw [hawn, if_pos hsome]
      exact ⟨by simp [Awning.inField, hended.picc], hended.session, hended.holdUntil⟩
  · exact congrArg Host.Outcome.next (State.fieldDetect_refused hlistener hbad)
  · have huid : u = s.uidOf i := hu
    subst huid
    refine ⟨fun hbusy c hc => ?_, fun absent => ⟨fun hlost => ?_, fun hearly => ?_⟩, fun hfree c hc => ?_, fun hpicc => ?_,
      fun hpicc hfree level => ⟨fun known hlevel hknown => ?_, fun crc hlevel hcrc => ⟨fun hmore => ?_, fun hlast => ?_⟩,
        fun uid crc hother => ?_⟩, fun hpicc hfree crc => ⟨fun hcrc => ?_, fun hcrc => ?_⟩⟩
    · rcases hc with rfl | rfl | ⟨l, k, rfl⟩ | ⟨crc, rfl | rfl | ⟨l, u, rfl⟩ | ⟨x, y, rfl | rfl⟩ | ⟨n, rfl | rfl⟩⟩
      · exact ⟨s, congrArg Host.Outcome.next (State.request_applying hbusy _), rfl, rfl⟩
      · exact ⟨s, congrArg Host.Outcome.next (State.request_applying hbusy _), rfl, rfl⟩
      · exact ⟨s, congrArg Host.Outcome.next (State.anticoll_applying hbusy _ _), rfl, rfl⟩
      · exact ⟨_, rfl, (State.halt_framed hhears).unanswered hbusy⟩
      · exact ⟨_, rfl, (State.deselect_framed hhears).unanswered hbusy⟩
      · exact ⟨_, rfl, (State.selectUid_framed hhears l u).unanswered hbusy⟩
      · exact ⟨_, rfl, (State.doRats_framed hhears x y).unanswered hbusy⟩
      · exact ⟨_, rfl, (State.doPps_framed hhears x y).unanswered hbusy⟩
      · exact ⟨_, rfl, (State.doRAck_framed hhears n).unanswered hbusy⟩
      · exact ⟨_, rfl, (State.doRNak_framed hhears n).unanswered hbusy⟩
    · obtain ⟨hended, hfield⟩ := s.awnPowerOff_awn i
      exact ⟨_, congrArg Host.Outcome.next (State.fieldLost_due hhears hlost), hfield, hended.picc, hended.session, hended.log⟩
    · exact congrArg Host.Outcome.next (State.fieldLost_early hearly)
    · obtain ⟨wake, hexec, hwakes⟩ : ∃ wake : Bool, exec c s = .next (s.request i wake) ∧
          ((s.awn i).picc = .idle ∨ ((s.awn i).picc = .halt ∧ wake)) := by
        rcases hc with ⟨rfl, hidle⟩ | ⟨rfl, hpicc⟩
        · exact ⟨false, rfl, .inl hidle⟩
        · exact ⟨true, rfl, hpicc.imp_right fun h => ⟨h, rfl⟩⟩
      obtain ⟨hawn, hout⟩ := State.request_answered hhears hfree hwakes (hread 2 (by decide))
      exact ⟨_, hexec, congrArg Awning.picc hawn, congrArg Awning.session hawn, congrArg Awning.level hawn, hout⟩
    · exact congrArg Host.Outcome.next (State.request_halted hpicc)
    · exact ⟨_, rfl, State.anticoll_answered hhears hfree hpicc (hread 1 (by decide)) hlevel hknown⟩
    · obtain ⟨hawn, hout⟩ := State.selectUid_cascade hhears hfree hpicc (hread 1 (by decide)) hlevel rfl hcrc hmore
      exact ⟨_, rfl, (congrArg Awning.picc hawn).trans hpicc, congrArg Awning.level hawn, hout⟩
    · obtain ⟨hawn, hout⟩ := State.selectUid_complete hhears hfree hpicc hread hlevel rfl hcrc hlast
      exact ⟨_, rfl, congrArg Awning.picc hawn, hout⟩
    · exact ⟨_, rfl, State.selectUid_refused hhears hfree hpicc (hread 1 (by decide)) hother⟩
    · obtain ⟨hawn, hout⟩ := State.halt_taken hhears hfree hpicc hcrc
      exact ⟨_, rfl, congrArg Awning.picc hawn, (congrArg Awning.session hawn :), hout⟩
    · exact ⟨_, rfl, State.halt_failed hhears hfree hpicc hcrc⟩
  · obtain ⟨hended, hfield⟩ := s.awnPowerOff_awn i
    exact ⟨_, congrArg Host.Outcome.next (State.holdOver_due hhold hdue), hended.picc, hended.session, hfield, hended.holdUntil,
      hended.log⟩
  · exact congrArg Host.Outcome.next (State.holdOver_early hhold hearly)
  · intro hpicc hfree hread2 hread3 fsdi cid crc
    refine ⟨fun hfsdi hcid hcrc => ?_, fun hreserved => ⟨_, rfl, State.doRats_reserved hhears hreserved⟩⟩
    obtain ⟨hawn, hout⟩ := State.doRats_taken hhears hpicc hfree hread2 hread3 hfsdi hcid hcrc
    refine ⟨_, rfl, congrArg Awning.picc hawn, congrArg Awning.appSelected hawn, (congrArg Awning.fsd hawn).trans (fsdOf_le hfsdi),
      (congrArg Awning.cid hawn).trans ?_, hout⟩
    simp only [Word.get_bit]
  · refine ⟨fun hcrc => ?_, fun dsi dri hother => ⟨_, rfl, State.doPps_other hhears hpicc hother⟩, fun n => ⟨fun hcrc =>
      ⟨fun hn => ?_, fun hn hchain => ⟨_, rfl, State.doRAck_continues hhears hpicc hfree hcrc hn hchain⟩⟩,
        fun hcrc => ⟨_, rfl, State.doRAck_failed hhears hpicc hcrc⟩,
        fun hcrc => ⟨_, rfl, State.doRNak_taken hhears hpicc hfree hcrc⟩,
        fun hcrc => ⟨_, rfl, State.doRNak_failed hhears hpicc hcrc⟩⟩, fun hcrc => ?_,
      fun hcrc => ⟨_, rfl, State.deselect_failed hhears hpicc hcrc⟩⟩
    · obtain ⟨hawn, hout⟩ := State.doPps_taken hhears hpicc hfree hcrc
      exact ⟨_, rfl, (congrArg Awning.picc hawn).trans hpicc, hout⟩
    · exact ⟨_, rfl, State.doRAck_repeats hhears hpicc hfree hcrc hn⟩
    · obtain ⟨hended, hout⟩ := State.deselect_taken hhears hpicc hfree hcrc
      exact ⟨_, rfl, hended.picc, hended.session, hended.log, hout⟩

/-- Settles O47. -/
theorem piccApdus : Obligations.PiccApdus := by
  unfold Obligations.PiccApdus
  refine ⟨fun i r x l bytes b hhears hpicc hbytes => ⟨fun hcrc hfree hl f => State.blocks_last f hpicc hbytes hcrc hfree hl,
      fun hcrc hfree hl => ⟨_, fun f => State.blocks_chained f hpicc hbytes hcrc hfree hl, ?_, ?_⟩, fun h aid => ?_⟩,
    fun i r bs b s hhears hpicc hreach => ?_, fun i at_ s hlock => ⟨fun hdue => ⟨_, rfl, State.lockOver_due hlock hdue⟩,
      fun hearly => congrArg Host.Outcome.next (State.lockOver_early hlock hearly)⟩⟩
  · exact congrArg Awning.block (State.setAwn_piccSend_awn ..)
  · exact (Looked.chkFrame b r bytes x.crc).setAwn_piccSend_out ..
  · have hends : b.byName i aid (x :: l) = b.chkFrame r bytes x.crc :=
      (State.apdu_blocks _ hhears).trans (State.blocks_refused _ hbytes h)
    have hlooked := Looked.chkFrame b r bytes x.crc
    exact ⟨_, congrArg Host.Outcome.next hends, hlooked.out, hlooked.awning, fun hcrc hunit => State.chkFrame_failCnt hunit hcrc⟩
  · obtain ⟨w, hw, hout⟩ := s.answerFree_out i
    refine ⟨⟨_, rfl, State.byName_ndef hhears hreach⟩, fun aid haid => ⟨_, rfl, State.byName_other hhears hreach haid⟩,
      fun id => ⟨fun h => ⟨_, rfl, State.byFileId_readable hhears hreach id h⟩,
        fun h => ⟨_, rfl, State.byFileId_unreadable hhears hreach id h⟩⟩,
      fun off le hfile => ?_,
      fun off le data h => ⟨fun hfile => ⟨_, rfl, State.readBin_unreadable hhears hreach off le hfile h⟩,
        fun hfile => ⟨_, rfl, State.updateBin_unreadable hhears hreach hfile h⟩⟩,
      fun off le h => ⟨fun hfile => ⟨_, rfl, State.readBin_cc hhears hreach off le hfile h⟩, fun hfile =>
        ⟨fun hpast => ⟨_, rfl, State.readBin_past hhears hreach hfile h hpast⟩,
          fun hin hwords => ⟨_, rfl, State.readBin_ndef_readable hhears hreach hfile h hin hwords⟩,
          fun hin hwords => ⟨_, rfl, State.readBin_ndef_unreadable hhears hreach hfile h hin hwords⟩⟩⟩,
      fun off data hfile => ?_,
      fun off data hfile h => ⟨fun hin hmay hroom => ⟨_, rfl, State.updateBin_logged hhears hreach hfile h hin hmay hroom⟩,
        fun hin hmay hfull => ⟨_, rfl, State.updateBin_full hhears hreach hfile h hin i.isLt hmay hfull⟩,
        fun hpast hmay => ⟨_, rfl, State.updateBin_past hhears hreach hfile h hpast hmay⟩,
        fun hin hmay => ⟨_, rfl, State.updateBin_forbidden hhears hreach hfile h hin hmay⟩,
        fun hpast hmay => ⟨_, rfl, State.updateBin_both hhears hreach hfile h hpast hmay⟩⟩,
      fun data hlen => ⟨_, rfl, State.verify_length hhears hreach hlen⟩,
      fun data hlen => ⟨fun hlock => ⟨_, rfl, State.verify_locked hhears hreach hlen hlock⟩, fun hlock m hm =>
        ⟨fun h => ⟨_, rfl, State.verify_matches hhears hreach hlen hlock i.isLt (hm.symm.trans h)⟩,
          fun h htries => ⟨_, rfl, State.verify_fails hhears hreach hlen hlock i.isLt (hm.symm.trans h) htries⟩,
          fun h htries => ⟨_, rfl, State.verify_locks hhears hreach hlen hlock i.isLt (hm.symm.trans h) htries⟩⟩⟩,
      fun ins p1p2 => ⟨fun h => ⟨_, rfl, State.otherApdu_unserved hhears hreach p1p2 h⟩,
        fun h => ⟨_, rfl, State.otherApdu_unknown hhears hreach h⟩, fun h => ?_⟩⟩
    · exact ⟨_, w, congrArg Host.Outcome.next (State.readBin_closed hhears hreach off le hfile), hw, hout⟩
    · exact ⟨_, w, congrArg Host.Outcome.next (State.updateBin_closed hhears hreach off data hfile), hw, (State.answer_left ..).log,
        hout⟩
    · exact ⟨_, w, congrArg Host.Outcome.next (State.otherApdu_free hhears hreach h), hw, hout⟩

/-- Settles O48. -/
theorem awningCommits : Obligations.AwningCommits := by
  unfold Obligations.AwningCommits
  refine ⟨fun m i v s hmaster hreach hon hcommit => ?_, fun m x a i l s hmaster hview hpool hawn hlo hhi hpending hpos hlen => ?_,
    fun i s hpending hon hlive hhost => ⟨fun hrest hlog => ⟨fun hforce hgen => ⟨_, rfl, ?_⟩, fun hmeant =>
      ⟨fun hbad => ⟨_, rfl, ?_⟩, fun hok => ⟨_, rfl, ?_⟩⟩⟩, fun hbusy => congrArg Host.Outcome.next (State.commitApply_busy hbusy)⟩⟩
  · have hexec : exec (.awningCommit m i v) s = .next (s.awnCtrlWrite i v) := by
      refine congrArg Host.Outcome.next ((if_neg ?_).trans (if_pos hreach))
      rw [hmaster]
      decide
    rw [hexec]
    refine ⟨fun hfree => ⟨_, rfl, ?_⟩, fun hpending => ⟨_, rfl, ?_⟩⟩
    · rw [State.awnCtrlWrite_commits hon hcommit hfree, State.fld_setBit_apart _ _ _ _ _ (by decide) (by decide),
        State.fld_setBit_apart _ _ _ _ _ (by decide) (by decide), State.fld_setReg_self, State.fld_setReg_self]
      exact ⟨State.bit_setBit_self _ _ _ _ (by decide), ctrlWord_expectGen _ _, ctrlWord_force _ _⟩
    · rw [State.awnCtrlWrite_drops hcommit hpending]
      refine ⟨?_, State.bit_setBit_self _ _ _ _ (by decide), State.setBit_mem ..⟩
      rw [← hpending, State.commitPending, State.commitPending, State.bit_setBit_ne _ _ _ _ (awnCtrl_ne_awnStatus i.isLt i), State.bit,
        State.fld_setReg_self, ctrlWord_commit]
      rfl
  · have hstore : s.viewWrite m x l = s.setBit (R.awnStatus i) F.awnStatus.hostWriteDropped true := by
      rw [State.viewWrite_within (State.place_of_view hview) hmaster hpos hlen, State.viewStore, hview]
      exact State.hostStore_dropped hpool hawn hlo hhi hpending l
    have hkeeps : Keeps 0x40000000000000 s (s.setBit (R.awnStatus i) F.awnStatus.hostWriteDropped true) :=
      Keeps.setBit (regWindow_awnStatus i) rfl rfl (Keeps.refl _ s)
    exact ⟨_, congrArg Host.Outcome.next hstore, hkeeps.sameBut (.inl rfl) _, State.bit_setBit_self _ _ _ _ (by decide)⟩
  · exact State.commitApply_conflict hpending hon hrest hlog i.isLt hlive hforce hgen
  · exact State.commitApply_imageBad hpending hon hrest hlog i.isLt hlive hhost hmeant hbad
  · exact State.commitApply_copied hpending hon hrest hlog i.isLt hlive hhost hmeant hok

/-- Settles O49. -/
theorem lanternPings : Obligations.LanternPings := by
  unfold Obligations.LanternPings
  refine ⟨fun s hwatch hburst hqueue => ⟨fun hearly => ?_, fun hdue =>
      ⟨_, rfl, ?_, fun hquiet => ?_, fun e l p hquiet hport hes => ?_⟩⟩,
    fun e at_ p s hwatch hburst hquiet hport hconfirm => ⟨fun hdue => ?_, fun hearly => ?_⟩,
    fun e amp phase l d s hping hbase hd => ⟨fun p r x hwatch hp hrun hexch hcmd hdue => ?_, fun hwatch hburst hearly => ?_,
      fun hwatch hlen hburst hclear hquiet hdetected hdue => ?_⟩, fun m s hup => ?_⟩
  · exact congrArg Host.Outcome.next (State.watchRound_early hearly)
  · exact State.watchRound_roundAt hwatch hburst hqueue hdue
  · exact State.watchRound_quiet hwatch hburst hqueue hdue hquiet
  · have hround := State.watchRound_burst hwatch hburst hqueue hdue hquiet hport hes
    have hlantern := State.burst_lantern (s := s.setLantern { s.lantern with roundAt := s.nextRound, queue := l }) hwatch e p
    rw [hround, hlantern]
    exact ⟨rfl, rfl, State.burst_slice .., SMap.find_ins_self .., State.burst_out hwatch e p⟩
  · have hlantern := State.burst_lantern (s := s.setLantern { s.lantern with confirm := [] }) hwatch e p
    refine ⟨_, congrArg Host.Outcome.next (State.confirmPing_due hconfirm hwatch hburst hquiet hport hdue), ?_⟩
    rw [hlantern]
    exact ⟨rfl, rfl, State.burst_slice .., State.burst_out hwatch e p⟩
  · exact congrArg Host.Outcome.next (State.confirmPing_early hconfirm hearly)
  · have hnext := hd.trans (pingDetected_eq l.port l.base amp phase).symm
    have hlnt : s.holdsLnt := fun hwatching => absurd (hwatch.symm.trans hwatching) (by decide)
    have hkept := (State.pingDone_stake (amp := amp) (phase := phase) hwatch hping hp hrun hexch hcmd hdue).lnt_eq
    have hbaseline := State.takePing_base hping hbase amp phase hlnt e.isLt
    simp only [hwatch, true_and, ← hkept] at hbaseline
    refine ⟨_, rfl, ?_, ?_, ?_, fun hother => hbaseline.trans (if_pos hother), fun hsame hfirst => ?_, fun hsame hvalid hnear => ?_⟩
    · rw [hkept, State.takePing_last hping hbase _ _ hlnt e.isLt, lastWord_amp]
    · rw [hkept, State.takePing_last hping hbase _ _ hlnt e.isLt, lastWord_phase]
    · rw [State.lntNear_of (hkept _), State.takePing_near hping hbase _ _ hlnt e.isLt, PingLatch.next, nextNear_fst, ← hnext]
      simp only [decide_eq_true_eq]
    · rw [hbaseline, if_neg (not_not.mpr hsame), nextBase_first hfirst]
      exact ⟨baseWord_valid_bit .., baseWord_amp .., baseWord_phase ..⟩
    · rw [hbaseline, if_neg (not_not.mpr hsame), nextBase_stands hvalid (hnext ▸ hnear)]
  · exact congrArg Host.Outcome.next (State.pingDone_early hping hwatch hearly)
  · have hnext : l.next (s.lntNear e) amp phase = nextNear (decide (Word.get l.cfg F.lntCfg.confirm = 1)) false true := by
      have hfound : pingDetected l.port l.base amp phase = true := (pingDetected_eq ..).trans (hd.symm.trans hdetected)
      unfold PingLatch.next
      rw [hclear, hfound]
    have hlnt : s.holdsLnt := fun _ => hlen
    have hdone : exec (.lanternPingDone e amp phase) s = .next (s.watchPing e amp phase) :=
      congrArg Host.Outcome.next (State.pingDone_watch hping hwatch hburst hdue)
    refine ⟨fun hconfirm hruns => ?_, fun hdecided => ?_⟩
    · have hfirst : l.next (s.lntNear e) amp phase (SMap.look 0 s.lantern.runs e) = (false, 1) := by
        rw [hnext, hconfirm, hruns]
        rfl
      exact ⟨_, hdone, State.watchPing_confirms hping hbase hwatch hlnt e.isLt hfirst⟩
    · have hnear : (l.next (s.lntNear e) amp phase (SMap.look 0 s.lantern.runs e)).1 = true := by
        have hnot : ¬ (decide (Word.get l.cfg F.lntCfg.confirm = 1) = true ∧ SMap.look 0 s.lantern.runs e = 0) := by
          rw [decide_eq_true_iff]
          omega
        rw [hnext, nextNear_fst, if_neg (by decide), if_neg hnot]
      have hcard := (s.measured e amp phase).wakeFor_card e
      have hwakes := State.watchPing_wakes hping hbase hwatch hlnt e.isLt hquiet hnear
      obtain ⟨q, hseq, hcause, hcold⟩ := State.takeReset_wake_seq _
      exact ⟨_, q, hdone.trans (congrArg Host.Outcome.next hwakes), hseq, hcause, hcold, congrArg not hcard, hcard,
        State.wakeFor_entries _ e.isLt⟩
  · obtain ⟨hcard, hentries⟩ := s.wakeCardClear_status
    exact ⟨_, congrArg Host.Outcome.next (if_pos hup), hcard, congrArg not hcard, hentries⟩

end

section
/-! SUPPORT. Host runs of the check units (Machine/Checks.lean; R244 to R246, R250 to R252). -/

namespace Sys2Proof.Machine

/-! ### The registers of a unit (R253) -/

theorem chkReg_ne_chkStatus {n : Nat} (hn : n < 48) (r : ChkReg) : chkReg n r ≠ R.chkStatus n := by
  cases r <;> simp only [chkReg, R.chkCfg, R.chkPoly, R.chkInit, R.chkXorout, R.chkStatus, famOff, if_pos hn] <;> omega

theorem chkRun_ne_chkStatus {n : Nat} (hn : n < 48) : R.chkRun n ≠ R.chkStatus n := by
  simp only [R.chkRun, R.chkStatus, famOff, if_pos hn]
  omega

theorem chkResult_ne_chkStatus {n : Nat} (hn : n < 48) : R.chkResult n ≠ R.chkStatus n := by
  simp only [R.chkResult, R.chkStatus, famOff, if_pos hn]
  omega

theorem chkResult_ne_chkRun {n : Nat} (hn : n < 48) : R.chkResult n ≠ R.chkRun n := by
  simp only [R.chkResult, R.chkRun, famOff, if_pos hn]
  omega

/-- The parameters stand in the registers that `ChkReg` names. -/
theorem State.chkParams_of_reg {s t : State} {n : Nat} (h : ∀ r, t.reg (chkReg n r) = s.reg (chkReg n r)) :
    t.chkParams n = s.chkParams n := by
  have hcfg : t.reg (R.chkCfg n) = s.reg (R.chkCfg n) := h .cfg
  have hpoly : t.reg (R.chkPoly n) = s.reg (R.chkPoly n) := h .poly
  have hinit : t.reg (R.chkInit n) = s.reg (R.chkInit n) := h .init
  have hxorout : t.reg (R.chkXorout n) = s.reg (R.chkXorout n) := h .xorout
  simp only [State.chkParams, State.fld_of_reg hcfg, State.bit_of_reg hcfg, State.fld_of_reg hpoly, State.fld_of_reg hinit,
    State.fld_of_reg hxorout]

/-- poly, init and xorout take every bit that pitch 0 writes, before and after the lock. -/
theorem chkReg_writable : ∀ n < 48, ∀ locked : Bool, writable locked (R.chkPoly n) F.chkPoly.value = true ∧
    writable locked (R.chkInit n) F.chkInit.value = true ∧ writable locked (R.chkXorout n) F.chkXorout.value = true := by
  decide +kernel

theorem Word.get_whole (w : Word) : Word.get w (63, 0) = w.toNat := by
  show w.toNat / 2 ^ 0 % 2 ^ 64 = w.toNat
  rw [Nat.pow_zero, Nat.div_one, Nat.mod_eq_of_lt w.isLt]

/-! ### The start of a run (R250, R251) -/

/-- A host write touches the registers and the notes of the tick alone. -/
theorem State.hostWrite_parts (s : State) (off : Nat) (v : Word) : ∃ x m, s.hostWrite off v = (s.setTick x).setRegs m := by
  obtain ⟨x, hx⟩ := s.noteWrote_tick off
  unfold State.hostWrite State.writeReg
  split
  · exact ⟨s.tick, s.regs, rfl⟩
  · rw [hx]
    exact ⟨x, _, rfl⟩

/-- The run that starts now over the range of a word written to CHKn_RUN. -/
def State.newRun (s : State) (v : Word) : HostRun :=
  { run := v, at_ := s.now, words := s.words (runBase v) (runBeats v), past := [], from_ := s.tick.stores.length
    tried := none, claimed := false }

/-- Unit n is busy with a run. -/
def State.busyWith (s : State) (n : Nat) (h : HostRun) : State :=
  ((s.setHostRuns (SMap.ins n h s.hostRuns)).setBit (R.chkStatus n) F.chkStatus.busy true).setBit (R.chkRun n) F.chkRun.start true

theorem State.busyWith_hostRun (s : State) (n : Nat) (h : HostRun) : SMap.find (s.busyWith n h).hostRuns n = some h := by
  rw [State.busyWith, State.setBit_hostRuns, State.setBit_hostRuns]
  exact SMap.find_ins_self _ _ _

theorem State.busyWith_busy {n : Nat} (hn : n < 48) (s : State) (h : HostRun) :
    (s.busyWith n h).bit (R.chkStatus n) F.chkStatus.busy = true := by
  rw [State.busyWith, State.bit_setBit_ne _ _ _ _ (chkRun_ne_chkStatus hn).symm]
  exact State.bit_setBit_self _ _ _ _ rfl

theorem State.busyWith_start (s : State) (n : Nat) (h : HostRun) : (s.busyWith n h).bit (R.chkRun n) F.chkRun.start = true :=
  State.bit_setBit_self _ _ _ _ rfl

section
variable {s : State} {n : Nat} {v : Word} (hup : s.up = true) (hstart : v.getLsbD 63 = true)
include hup hstart

theorem State.chkStart_free (hfree : SMap.find s.hostRuns n = none) (hclaim : s.chkClaimed n = false)
    (hfits : Word.get v F.chkRun.addr + Word.get v F.chkRun.length ≤ 0x02000000) :
    s.chkStart n v = (s.hostWrite (R.chkRun n) v).busyWith n ((s.hostWrite (R.chkRun n) v).newRun v) := by
  obtain ⟨x, m, hwrite⟩ := s.hostWrite_parts (R.chkRun n) v
  have hclaimed : (s.hostWrite (R.chkRun n) v).chkClaimed n = false := by rw [hwrite]; exact hclaim
  have hruns : SMap.find (s.hostWrite (R.chkRun n) v).hostRuns n = none := by rw [hwrite]; exact hfree
  unfold State.chkStart
  simp only [hup, hstart, hclaimed, hruns, Nat.not_lt.mpr hfits, Bool.not_true, Bool.false_eq_true, or_self, if_false]
  rfl

theorem State.chkStart_claimed (hclaim : s.chkClaimed n = true) :
    s.chkStart n v = (s.hostWrite (R.chkRun n) v).setBit (R.chkStatus n) F.chkStatus.runRefused true := by
  obtain ⟨x, m, hwrite⟩ := s.hostWrite_parts (R.chkRun n) v
  have hclaimed : (s.hostWrite (R.chkRun n) v).chkClaimed n = true := by rw [hwrite]; exact hclaim
  unfold State.chkStart
  simp only [hup, hstart, hclaimed, Bool.not_true, Bool.false_eq_true, true_or, if_false, if_true]

end

/-- The run that starts is over the words as they stand at the write. -/
theorem State.newRun_hostWrite (s : State) (off : Nat) (v : Word) : ((s.hostWrite off v).newRun v).at_ = s.now ∧
    ((s.hostWrite off v).newRun v).words = s.words (runBase v) (runBeats v) := by
  obtain ⟨x, m, hwrite⟩ := s.hostWrite_parts off v
  rw [hwrite]
  exact ⟨rfl, rfl⟩

theorem State.hostWrite_hostRuns (s : State) (off : Nat) (v : Word) : (s.hostWrite off v).hostRuns = s.hostRuns := by
  obtain ⟨x, m, hwrite⟩ := s.hostWrite_parts off v
  rw [hwrite]
  rfl

/-! ### Writes to the parameters (R251) -/

theorem State.setBit_chkStatus_chkParams {n : Nat} (hn : n < 48) (s : State) (f : Fld) (b : Bool) :
    (s.setBit (R.chkStatus n) f b).chkParams n = s.chkParams n :=
  State.chkParams_of_reg fun r => State.setBit_reg_ne _ _ _ (chkReg_ne_chkStatus hn r)

section
variable {s : State} {n : Nat} (r : ChkReg) (v : Word) (hup : s.up = true)
include hup

/-- A write that is refused sets cfg_refused, and notes itself in the tick at most. -/
theorem State.chkWrite_refused (h : (SMap.find s.hostRuns n).isSome = true ∨
    r = .cfg ∧ (Word.get v F.chkCfg.width = 0 ∨ 64 < Word.get v F.chkCfg.width)) :
    ∃ x, s.chkWrite n r v = (s.setTick x).setBit (R.chkStatus n) F.chkStatus.cfgRefused true := by
  unfold State.chkWrite
  rw [if_neg (by simp [hup])]
  dsimp only
  split
  · exact ⟨_, rfl⟩
  · next hfree => exact ⟨s.tick, if_pos (h.resolve_left hfree)⟩

/-- A write of a register that has no width to refuse. -/
theorem State.chkWrite_taken (hfree : SMap.find s.hostRuns n = none) (hr : r ≠ .cfg) :
    s.chkWrite n r v = s.hostWrite (chkReg n r) v := by
  unfold State.chkWrite
  simp only [hup, hfree, hr, Bool.not_true, Bool.false_eq_true, Option.isSome_none, false_and, if_false]

end

/-! ### The end of a run (R250, R252) -/

theorem State.fetch_clean {s : State} {a : Nat} (hclean : s.upset a = 0) (hclear : s.vague a = false) :
    s.fetch a = (s, s.word a, false) := by
  have hue : s.isUe a = false := by
    unfold State.isUe
    rw [hclean]
    decide
  unfold State.fetch
  rw [hue, hclear, State.readAt_clean hclean]
  rfl

theorem State.words_succ (s : State) (a n : Nat) : s.words a (n + 1) = s.word a :: s.words (a + 8) n := by
  have hnext : ∀ i, a + 8 * (i + 1) = a + 8 + 8 * i := fun i => by omega
  simp only [State.words, List.range_succ_eq_map, List.map_cons, List.map_map, Function.comp_def, Nat.succ_eq_add_one, hnext,
    Nat.mul_zero, Nat.add_zero]

/-- A run over words without error that have not changed reads them as they stand, and changes nothing. -/
theorem State.runWords_clean {s : State} {n a : Nat}
    (h : ∀ i, i < n → s.upset (a + 8 * i) = 0 ∧ s.vague (a + 8 * i) = false) (k j : Nat) :
    s.runWords [] a k j n = (s, s.words a n) := by
  induction n generalizing a k j with
  | zero => rfl
  | succ n ih =>
    obtain ⟨hclean, hclear⟩ := h 0 (Nat.zero_lt_succ n)
    have hrest : ∀ i, i < n → s.upset (a + 8 + 8 * i) = 0 ∧ s.vague (a + 8 + 8 * i) = false := fun i hi => by
      have hnext := h (i + 1) (Nat.succ_lt_succ hi)
      rwa [show a + 8 * (i + 1) = a + 8 + 8 * i by omega] at hnext
    unfold State.runWords
    simp only [State.fetch_clean (a := a) hclean hclear, List.length_nil, Nat.zero_le, or_true, if_true, List.isEmpty_nil,
      ih hrest, State.words_succ]

/-- A run that has seen its words, and no store of the tick after its start, sees nothing new. -/
theorem HostRun.follow_unchanged {h : HostRun} {s : State} (hwords : h.words = s.words (runBase h.run) (runBeats h.run))
    (hstores : s.tick.stores.length ≤ h.from_) : h.follow s = h := by
  unfold HostRun.follow
  rw [Nat.sub_eq_zero_of_le hstores]
  exact if_pos hwords

/-- The bytes of the range of a run, of the words it has seen (R245, R250). -/
def HostRun.bytes (h : HostRun) : List Byte :=
  ((h.words.flatMap Word.bytes).drop (Word.get h.run F.chkRun.addr % 8)).take (Word.get h.run F.chkRun.length)

theorem HostRun.bytes_nil {h : HostRun} (hlen : Word.get h.run F.chkRun.length = 0) : h.bytes = [] := by
  unfold HostRun.bytes
  rw [hlen, List.take_zero]

/-- The result of a run under the parameters of its unit, the bits above the width zero (R244, R252). -/
def HostRun.result (h : HostRun) (c : CrcCfg) : Nat := crcOf c (h.bytes.flatMap (byteBits c.refin)) % 2 ^ c.w

/-- The update in which a unit shows the result of its run (R252). -/
def State.runEnded (s : State) (n result : Nat) (empty : Bool) : State :=
  ((((((s.setHostRuns (SMap.del n s.hostRuns)).setReg (R.chkResult n) (BitVec.ofNat 64 result)).setBit (R.chkRun n)
    F.chkRun.start false).setBit (R.chkStatus n) F.chkStatus.busy false).bump (R.chkStatus n) F.chkStatus.results).setFld
    (R.chkStatus n) F.chkStatus.port 0xFF).setBit (R.chkStatus n) F.chkStatus.empty empty

theorem State.noteRaised_late (s : State) (off : Nat) (f : Fld) (b : Bool) : (s.noteRaised off f b).tick.late = s.tick.late := by
  cases b <;> rfl

theorem State.takeLate_none {s : State} {n : Nat} (h : SMap.find s.tick.late n = none) : s.takeLate n = s := by
  unfold State.takeLate
  rw [h]

theorem State.runEnded_late (s : State) (n result : Nat) (empty : Bool) :
    (s.runEnded n result empty).tick.late = s.tick.late :=
  State.noteRaised_late _ _ _ empty

/-- A run whose words are without error and unchanged ends with the result over them. -/
theorem State.chkDone_unchanged {s : State} {n : Nat} {h : HostRun} (hup : s.up = true) (hrun : SMap.find s.hostRuns n = some h)
    (hwords : h.words = s.words (runBase h.run) (runBeats h.run)) (hpast : h.past = [])
    (hstores : s.tick.stores.length ≤ h.from_) (hlate : SMap.find s.tick.late n = none)
    (hclean : ∀ i, i < runBeats h.run → s.upset (runBase h.run + 8 * i) = 0 ∧ s.vague (runBase h.run + 8 * i) = false) :
    s.chkDone n = s.runEnded n (h.result (s.chkParams n)) (decide (h.bytes = [])) := by
  unfold State.chkDone
  simp only [hrun, hup, HostRun.follow_unchanged hwords hstores, hpast, State.runWords_clean hclean, ← hwords, Bool.not_true,
    Bool.false_eq_true, if_false]
  exact State.takeLate_none ((congrArg (SMap.find · n) (s.runEnded_late n _ _)).trans hlate)

section
variable (s : State) {n : Nat} (result : Nat) (empty : Bool)

theorem State.runEnded_hostRun : SMap.find (s.runEnded n result empty).hostRuns n = none := by
  rw [State.runEnded, State.setBit_hostRuns]
  exact SMap.find_del_self _ _

theorem State.runEnded_empty : (s.runEnded n result empty).bit (R.chkStatus n) F.chkStatus.empty = empty :=
  State.bit_setBit_self _ _ _ _ rfl

theorem State.runEnded_busy : (s.runEnded n result empty).bit (R.chkStatus n) F.chkStatus.busy = false := by
  unfold State.runEnded State.bump State.bit
  rw [State.fld_setBit_apart _ _ _ _ _ rfl rfl, State.fld_setFld_apart _ _ _ _ _ rfl rfl,
    State.fld_setFld_apart _ _ _ _ _ rfl rfl, State.fld_setBit_self _ _ _ _ rfl]
  rfl

variable (hn : n < 48)
include hn

theorem State.runEnded_result : (s.runEnded n result empty).reg (R.chkResult n) = BitVec.ofNat 64 result := by
  have hstatus := chkResult_ne_chkStatus hn
  unfold State.runEnded State.bump
  rw [State.setBit_reg_ne _ _ _ hstatus, State.setFld_reg_ne _ _ _ hstatus, State.setFld_reg_ne _ _ _ hstatus,
    State.setBit_reg_ne _ _ _ hstatus, State.setBit_reg_ne _ _ _ (chkResult_ne_chkRun hn), State.setReg_reg_self]

theorem State.runEnded_start : (s.runEnded n result empty).bit (R.chkRun n) F.chkRun.start = false := by
  have hstatus := chkRun_ne_chkStatus hn
  unfold State.runEnded State.bump
  rw [State.bit_setBit_ne _ _ _ _ hstatus, State.bit_setFld_ne _ _ _ _ hstatus, State.bit_setFld_ne _ _ _ _ hstatus,
    State.bit_setBit_ne _ _ _ _ hstatus, State.bit_setBit_self _ _ _ _ rfl]

theorem State.runEnded_results : (s.runEnded n result empty).fld (R.chkStatus n) F.chkStatus.results =
    (s.fld (R.chkStatus n) F.chkStatus.results + 1) % 2 ^ 32 := by
  unfold State.runEnded
  rw [State.fld_setBit_apart _ _ _ _ _ rfl rfl, State.fld_setFld_apart _ _ _ _ _ rfl rfl, State.fld_bump_self _ _ _ rfl,
    State.fld_setBit_apart _ _ _ _ _ rfl rfl, State.fld_setBit_ne _ _ _ _ (chkRun_ne_chkStatus hn).symm,
    State.fld_setReg_ne _ _ _ (chkResult_ne_chkStatus hn).symm]
  rfl

end

end Sys2Proof.Machine
end

section
/-! The statement of 09_check_units.md, settled. -/

open Sys2Proof Sys2Proof.Machine

/-- Settles O30: a start on a free unit makes it busy (`State.chkStart_free`), a claim refuses it (`State.chkStart_claimed`); a write to
the parameters is refused (`State.chkWrite_refused`) or is the host's plain write (`State.chkWrite_taken`); a run over words without
error that have not changed ends with the result over them (`State.chkDone_unchanged`). -/
theorem hostRuns : Obligations.HostRuns := by
  refine ⟨fun m n v s hup => ⟨fun hfree hstart hclaim hfits => ?start, fun _ hstart hclaim => ?claimed, fun r hrefused => ?refused,
    fun hfree => ?taken⟩, fun n h s hup hrun hwords hpast hstores hlate hclean => ?done, fun c hinit hxorout => ?zero⟩
  case start =>
    obtain ⟨hat, hseen⟩ := s.newRun_hostWrite (R.chkRun n) v
    exact ⟨_, _, congrArg Host.Outcome.next (State.chkStart_free hup hstart hfree hclaim hfits), State.busyWith_hostRun _ _ _, rfl,
      hat, hseen, State.busyWith_busy n.isLt _ _, State.busyWith_start _ _ _⟩
  case claimed =>
    refine ⟨_, congrArg Host.Outcome.next (State.chkStart_claimed hup hstart hclaim), State.bit_setBit_self _ _ _ _ rfl, ?_⟩
    rw [State.setBit_hostRuns, State.hostWrite_hostRuns]
  case refused =>
    obtain ⟨x, hwrite⟩ := State.chkWrite_refused r v hup hrefused
    exact ⟨_, congrArg Host.Outcome.next hwrite, State.bit_setBit_self _ _ _ _ rfl,
      State.setBit_chkStatus_chkParams n.isLt (s.setTick x) _ _⟩
  case taken =>
    obtain ⟨hpoly, hinit, hxorout⟩ := chkReg_writable n n.isLt s.locked
    have htaken (r : ChkReg) (hr : r ≠ .cfg) : exec (.chkCfgWrite m n r v) s = .next (s.hostWrite (chkReg n r) v) :=
      congrArg Host.Outcome.next (State.chkWrite_taken r v hup hfree hr)
    exact ⟨fun r => ⟨_, rfl, (State.chkWrite_step (msk := 0x1000000000000) n r v rfl rfl (Keeps.refl _ s)).hostRuns (.inl rfl) rfl⟩,
      ⟨_, htaken .poly nofun, (State.fld_hostWrite v hpoly).trans (Word.get_whole v)⟩,
      ⟨_, htaken .init nofun, (State.fld_hostWrite v hinit).trans (Word.get_whole v)⟩,
      ⟨_, htaken .xorout nofun, (State.fld_hostWrite v hxorout).trans (Word.get_whole v)⟩⟩
  case done =>
    refine ⟨_, congrArg Host.Outcome.next (State.chkDone_unchanged hup hrun hwords hpast hstores hlate hclean),
      State.runEnded_hostRun _ _ _, State.runEnded_result _ _ _ n.isLt, State.runEnded_busy _ _ _, State.runEnded_start _ _ _ n.isLt,
      State.runEnded_results _ _ _ n.isLt, fun hlen => ?_⟩
    rw [State.runEnded_empty]
    exact decide_eq_true (HostRun.bytes_nil hlen)
  case zero =>
    simp only [crcOf, List.foldl_nil, Nat.mod_eq_of_lt hinit, Nat.mod_eq_of_lt hxorout]

end

section
/-! SUPPORT. The canonical form of a state (Safety.lean; R256, R260, R410), which every frame keeps. -/

namespace Sys2Proof.Machine

theorem State.canonical_iff {s : State} : s.canonical = true ↔
    SMap.wf resetWord s.regs = true ∧ SMap.wf (fun _ => (0 : Byte)) s.mem = true ∧ SMap.wf (fun _ => (0 : Word)) s.ecc = true ∧
      SMap.wf (fun _ => (0xFF : Byte)) s.flash = true := by
  simp only [State.canonical, Bool.and_eq_true, and_assoc]

theorem Keeps.canonical {w : Nat} {s t : State} (h : Keeps w s t) (hs : s.canonical = true) : t.canonical = true := by
  obtain ⟨hregs, hmem, hecc, hflash⟩ := State.canonical_iff.mp hs
  exact State.canonical_iff.mpr ⟨h.wfRegs hregs, h.wfMem hmem, h.wfEcc hecc, h.wfFlash hflash⟩

end Sys2Proof.Machine
end

section
/-! SUPPORT. The scrubber and the injector (Machine/Groundsheet.lean, Machine/Ecc.lean; R256, R257, R259, R279). -/

namespace Sys2Proof.Machine

/-! ### What GSH_ECC_STATUS and the counters show of an error (R256) -/

section
variable {s : State} {a : Nat} (ha : a < 0x02000000)
include ha

theorem State.eccAt_addr : (s.eccAt a).fld R.gshEccStatus F.gshEccStatus.addr = a / 8 * 8 := by
  unfold State.eccAt
  rw [State.fld_setFld_apart _ _ _ _ _ (by decide) (by decide), State.fld_setFld_self _ _ _ _ (by decide)]
  show a / 8 * 8 % 2 ^ 25 = a / 8 * 8
  omega

theorem State.recordCe_addr : (s.recordCe a).fld R.gshEccStatus F.gshEccStatus.addr = a / 8 * 8 := by
  unfold State.recordCe State.bump
  rw [State.fld_setFld_ne _ _ _ _ (by decide), State.fld_setBit_apart _ _ _ _ _ (by decide) (by decide), State.eccAt_addr ha]

theorem State.recordUe_addr : (s.recordUe a).fld R.gshEccStatus F.gshEccStatus.addr = a / 8 * 8 := by
  unfold State.recordUe State.bump
  rw [State.fld_setFld_ne _ _ _ _ (by decide), State.fld_setBit_apart _ _ _ _ _ (by decide) (by decide), State.eccAt_addr ha]

end

theorem State.recordCe_ce (s : State) (a : Nat) : (s.recordCe a).bit R.gshEccStatus F.gshEccStatus.ce = true := by
  unfold State.recordCe State.bump
  rw [State.bit_setFld_ne _ _ _ _ (by decide), State.bit_setBit_self _ _ _ _ (by decide)]

theorem State.recordUe_ue (s : State) (a : Nat) : (s.recordUe a).bit R.gshEccStatus F.gshEccStatus.ue = true := by
  unfold State.recordUe State.bump
  rw [State.bit_setFld_ne _ _ _ _ (by decide), State.bit_setBit_self _ _ _ _ (by decide)]

theorem State.recordCe_count (s : State) (a : Nat) : (s.recordCe a).fld R.gshEccCeCnt F.gshEccCeCnt.count =
    (s.fld R.gshEccCeCnt F.gshEccCeCnt.count + 1) % 2 ^ 32 := by
  have hstatus : ((s.eccAt a).setBit R.gshEccStatus F.gshEccStatus.ce true).fld R.gshEccCeCnt F.gshEccCeCnt.count =
      s.fld R.gshEccCeCnt F.gshEccCeCnt.count := by
    unfold State.eccAt
    rw [State.fld_setBit_ne _ _ _ _ (by decide), State.fld_setFld_ne _ _ _ _ (by decide), State.fld_setFld_ne _ _ _ _ (by decide)]
  unfold State.recordCe
  rw [State.fld_bump_self _ _ _ (by decide), hstatus]
  rfl

theorem State.setUpset_mem (s : State) (a : Nat) (w : Word) : (s.setUpset a w).mem = s.mem := rfl

theorem State.setUpset_reg (s : State) (a : Nat) (w : Word) (o : Nat) : (s.setUpset a w).reg o = s.reg o := rfl

theorem State.recordCe_mem (s : State) (a : Nat) : (s.recordCe a).mem = s.mem := rfl

theorem State.recordUe_mem (s : State) (a : Nat) : (s.recordUe a).mem = s.mem := rfl

theorem State.recordUe_upset (s : State) (a b : Nat) : (s.recordUe a).upset b = s.upset b := rfl

/-! ### A read of a word, and the response of its area (R256, R257) -/

theorem State.readAt_corrected {s : State} {a : Nat} (h : ones (s.upset a) = 1) : s.readAt a = (s.recordCe a).setUpset a 0 := by
  unfold State.readAt State.isUe State.correct
  simp [h]

theorem State.readAt_ue {s : State} {a : Nat} (h : s.isUe a = true) : s.readAt a = (s.recordUe a).ueResponse a := if_pos h

theorem State.recordUe_keeps (s : State) (a : Nat) : Keeps 0x2000000000000 s (s.recordUe a) :=
  State.recordUe_step a rfl rfl (Keeps.refl _ s)

theorem State.awnRegion_of_reg {s t : State} {i : Nat} (h : t.reg (R.awnImg i) = s.reg (R.awnImg i)) :
    t.awnRegion i = s.awnRegion i := by
  unfold State.awnRegion State.fld
  rw [h]

/-- The pool has no response of its own but for the live images of Awning. -/
theorem State.ueResponse_pool {s : State} {a : Nat} (ha : a < 0x01000000)
    (hlive : ∀ i, s.awnAt a = some i → 0x2040 ≤ a - (s.awnRegion i).1) : (s.recordUe a).ueResponse a = s.recordUe a := by
  have hframe := s.recordUe_keeps a
  unfold State.ueResponse
  rw [if_pos ha, State.awnAt_of_keeps hframe]
  split
  · rfl
  · next i hi => rw [State.awnRegion_of_reg (hframe.reg_eq (regWindow_awnImg i)), if_neg (Nat.not_lt.mpr (hlive i hi))]

/-- An uncorrectable word of the internal area, or of the active plan bank, resets the part. -/
theorem State.ueResponse_critical {s : State} {a : Nat}
    (h : 0x01000000 ≤ a ∧ a < 0x01400000 ∨ 0x01C00000 ≤ a ∧ a < 0x01E00000 ∧ decide (0x01D00000 ≤ a) = s.activeBank) :
    s.ueResponse a = s.eccCritical := by
  unfold State.ueResponse
  dsimp only
  rcases h with ⟨hlo, hhi⟩ | ⟨hlo, hhi, hbank⟩
  · rw [if_neg (by omega), if_pos hhi]
  · rw [if_neg (by omega), if_neg (by omega), if_neg (by omega), if_pos hhi, if_pos hbank]

/-- What a read of a word with a single error shows: the error is corrected and counted. -/
theorem State.readAt_corrected_shows {s : State} {a : Nat} (ha : a < 0x02000000) (h : ones (s.upset a) = 1) :
    (s.readAt a).upset a = 0 ∧ (s.readAt a).mem = s.mem ∧
      (s.readAt a).fld R.gshEccCeCnt F.gshEccCeCnt.count = (s.fld R.gshEccCeCnt F.gshEccCeCnt.count + 1) % 2 ^ 32 ∧
      (s.readAt a).bit R.gshEccStatus F.gshEccStatus.ce = true ∧ (s.readAt a).fld R.gshEccStatus F.gshEccStatus.addr = a / 8 * 8 := by
  have hreg (o : Nat) : ((s.recordCe a).setUpset a 0).reg o = (s.recordCe a).reg o := State.setUpset_reg ..
  rw [State.readAt_corrected h, State.setUpset_mem, State.fld_of_reg (hreg _), State.bit_of_reg (hreg _), State.fld_of_reg (hreg _)]
  exact ⟨(State.upset_setUpset ..).trans (if_pos rfl), s.recordCe_mem a, s.recordCe_count a, s.recordCe_ce a, State.recordCe_addr ha⟩

/-- What a read of an uncorrectable word of the pool shows: the error is counted and recorded, and stands. -/
theorem State.readAt_ue_shows {s : State} {a : Nat} (ha : a < 0x01000000) (h : s.isUe a = true)
    (hlive : ∀ i, s.awnAt a = some i → 0x2040 ≤ a - (s.awnRegion i).1) :
    (s.readAt a).upset a = s.upset a ∧ (s.readAt a).mem = s.mem ∧
      (s.readAt a).fld R.gshEccUeCnt F.gshEccUeCnt.count = (s.fld R.gshEccUeCnt F.gshEccUeCnt.count + 1) % 2 ^ 32 ∧
      (s.readAt a).bit R.gshEccStatus F.gshEccStatus.ue = true ∧ (s.readAt a).fld R.gshEccStatus F.gshEccStatus.addr = a / 8 * 8 := by
  rw [State.readAt_ue h, State.ueResponse_pool ha hlive]
  exact ⟨s.recordUe_upset a a, s.recordUe_mem a, s.recordUe_count a, s.recordUe_ue a, State.recordUe_addr (by omega)⟩

/-- A read of an uncorrectable word of the internal area, or of the active plan bank, resets the part. -/
theorem State.readAt_critical {s : State} {a : Nat} (h : s.isUe a = true)
    (harea : 0x01000000 ≤ a ∧ a < 0x01400000 ∨ 0x01C00000 ≤ a ∧ a < 0x01E00000 ∧ decide (0x01D00000 ≤ a) = s.activeBank) :
    s.readAt a = (s.recordUe a).eccCritical := by
  have hbank : (s.recordUe a).activeBank = s.activeBank := State.activeBank_of_reg ((s.recordUe_keeps a).reg_eq regWindow_schStatus)
  rw [State.readAt_ue h, State.ueResponse_critical (by rw [hbank]; exact harea)]

/-! ### A visit of the scrubber (R259) -/

/-- A word whose bits have flipped that a visit of the scrubber brings. -/
def State.flipped (s : State) (a : Nat) (x : Word) : State := s.setUpset a (s.upset a ^^^ x)

theorem State.flipped_upset (s : State) (a : Nat) (x : Word) : (s.flipped a x).upset a = s.upset a ^^^ x :=
  (State.upset_setUpset ..).trans (if_pos rfl)

theorem State.flipped_isUe {s : State} {a : Nat} {x : Word} (h : 2 ≤ ones (s.upset a ^^^ x)) : (s.flipped a x).isUe a = true :=
  decide_eq_true (by rw [State.flipped_upset]; exact h)

theorem State.flipped_mem (s : State) (a : Nat) (x : Word) : (s.flipped a x).mem = s.mem := rfl

theorem State.flipped_regs (s : State) (a : Nat) (x : Word) : (s.flipped a x).regs = s.regs := rfl

theorem State.flipped_keeps (s : State) (a : Nat) (x : Word) : Keeps 0x4 s (s.flipped a x) :=
  State.setUpset_step a _ rfl rfl (Keeps.refl _ s)

theorem exec_scrubVisit {word : Nat} {s : State} (x : Word) (hword : word < 4194304) (hup : s.up = true)
    (hon : s.bit R.gshScrubCfg F.gshScrubCfg.enable = true) :
    exec (.scrubVisit word x) s = .next ((s.flipped (8 * word) x).readAt (8 * word)) := by
  have hscrub : s.scrub word x = (s.flipped (8 * word) x).readAt (8 * word) := by
    unfold State.scrub
    rw [if_neg (by simp [hup, hon])]
    rfl
  exact (if_pos hword).trans (congrArg Host.Outcome.next hscrub)

/-! ### The injector (R279) -/

theorem gshEccInject_writable (locked : Bool) : writable locked R.gshEccInject F.gshEccInject.addr = true ∧
    writable locked R.gshEccInject F.gshEccInject.kind = true := by
  cases locked <;> decide +kernel

theorem State.injectWrite_arms {s : State} {v : Word} (hup : s.up = true) (harm : v.getLsbD 63 = true) :
    s.injectWrite v = (s.hostWrite R.gshEccInject v).setBit R.gshEccInject F.gshEccInject.arm true := by
  unfold State.injectWrite
  rw [if_neg (by simp [hup])]
  exact if_pos harm

end Sys2Proof.Machine
end

section
/-! SUPPORT. A turn of the wheel (Machine/Groundsheet.lean; R275, R280). -/

namespace Sys2Proof.Machine

/-! ### Entries of a sparse map -/

theorem SMap.mem_ins {α : Type} {m : List (Nat × α)} {q : Nat} {v : α} {x : Nat × α} (h : x ∈ SMap.ins q v m) :
    x = (q, v) ∨ x ∈ m := by
  induction m with
  | nil => exact .inl (List.mem_singleton.mp h)
  | cons y m ih =>
    unfold SMap.ins at h
    split at h
    · exact List.mem_cons.mp h
    · split at h
      · exact (List.mem_cons.mp h).imp_right (List.mem_cons_of_mem _)
      · rcases List.mem_cons.mp h with rfl | h
        · exact .inr List.mem_cons_self
        · exact (ih h).imp_right (List.mem_cons_of_mem _)

theorem SMap.mem_ins_of_ne {α : Type} {m : List (Nat × α)} {q : Nat} (v : α) {x : Nat × α} (h : x ∈ m) (hne : x.1 ≠ q) :
    x ∈ SMap.ins q v m := by
  induction m with
  | nil => exact absurd h List.not_mem_nil
  | cons y m ih =>
    unfold SMap.ins
    split
    · exact List.mem_cons_of_mem _ h
    · rcases List.mem_cons.mp h with rfl | h
      · rw [if_neg (Ne.symm hne)]
        exact List.mem_cons_self
      · split
        · exact List.mem_cons_of_mem _ h
        · exact List.mem_cons_of_mem _ (ih h)

theorem SMap.ne_of_find_none {α : Type} {m : List (Nat × α)} {q : Nat} (h : SMap.find m q = none) {x : Nat × α} (hx : x ∈ m) :
    x.1 ≠ q := by
  induction m with
  | nil => exact absurd hx List.not_mem_nil
  | cons y m ih =>
    unfold SMap.find at h
    split at h
    · cases h
    · next hne =>
      rcases List.mem_cons.mp hx with rfl | hx
      · exact Ne.symm hne
      · exact ih h hx

/-! ### The entries of a stake (R275) -/

/-- A stake takes entries for itself. -/
theorem State.assignWheel_mem {s : State} {r : Run} {x : Nat × Nat} (h : x ∈ (s.assignWheel r).wheel) :
    x ∈ s.wheel ∨ x.2 = r.wheelTag := by
  unfold State.assignWheel at h
  dsimp only at h
  split at h
  · exact .inl h
  · refine List.foldlRecOn (motive := fun w => x ∈ w → x ∈ s.wheel ∨ x.2 = r.wheelTag) _ _ .inl (fun w hw e _ hx => ?_) h
    rcases SMap.mem_ins hx with rfl | hx
    · exact .inr rfl
    · exact hw hx

/-- A stake takes entries that are free. -/
theorem State.assignWheel_kept {s : State} (r : Run) {x : Nat × Nat} (h : x ∈ s.wheel) : x ∈ (s.assignWheel r).wheel := by
  unfold State.assignWheel
  dsimp only
  split
  · exact h
  · refine List.foldlRecOn (motive := (x ∈ ·)) _ _ h fun w hw e he => SMap.mem_ins_of_ne _ hw ?_
    have hfree := (List.mem_filter.mp (List.mem_of_mem_take he)).2
    exact SMap.ne_of_find_none (Option.isNone_iff_eq_none.mp hfree) h

/-! ### The turn (R275, R280) -/

/-- The wheel after the entries of stakes that are over have become free. -/
def State.released (s : State) : State :=
  s.setWheel (s.wheel.filter fun x => (s.runs.filter s.holdsWheel).any fun r => decide (r.wheelTag = x.2))

/-- The wheel of the turn. -/
def State.assigned (s : State) : State := s.released.each (s.runs.filter s.holdsWheel) State.assignWheel

theorem State.turnStart_eq {s : State} (hup : s.up = true) (wait target : Nat) :
    s.turnStart wait target = (s.assigned.each (List.range 20) State.showWheel).rrWait wait target := by
  unfold State.turnStart
  rw [if_neg (by simp [hup])]
  rfl

/-- A stake that is active holds the entries of its tag. -/
def State.holder (s : State) (tag : Nat) : Prop := ∃ r ∈ s.runs, r.wheelTag = tag ∧ r.start ≤ s.now ∧ s.now < r.stop

theorem State.holder_of_live {s : State} {r : Run} (h : r ∈ s.runs.filter s.holdsWheel) : s.holder r.wheelTag := by
  obtain ⟨hr, hlive⟩ := List.mem_filter.mp h
  simp only [State.holdsWheel, Bool.and_eq_true, decide_eq_true_eq] at hlive
  exact ⟨r, hr, rfl, hlive⟩

theorem State.released_mem {s : State} {x : Nat × Nat} : x ∈ s.released.wheel ↔ x ∈ s.wheel ∧ s.holder x.2 := by
  simp only [State.released, State.setWheel_wheel, List.mem_filter, List.any_eq_true, State.holdsWheel, Bool.and_eq_true,
    decide_eq_true_eq, State.holder]
  refine and_congr_right fun _ => exists_congr fun r => ?_
  tauto

theorem State.assigned_mem {s : State} {x : Nat × Nat} (h : x ∈ s.assigned.wheel) : s.holder x.2 := by
  refine List.foldlRecOn (motive := fun u => x ∈ u.wheel → s.holder x.2) _ State.assignWheel (fun hx => (State.released_mem.mp hx).2)
    (fun u hu r hr hx => ?_) h
  rcases State.assignWheel_mem hx with hx | htag
  · exact hu hx
  · rw [htag]
    exact State.holder_of_live hr

theorem State.assigned_kept {s : State} {x : Nat × Nat} (h : x ∈ s.wheel) (hx : s.holder x.2) : x ∈ s.assigned.wheel :=
  List.foldlRecOn (motive := fun u => x ∈ u.wheel) _ State.assignWheel (State.released_mem.mpr ⟨h, hx⟩)
    fun _ hu r _ => State.assignWheel_kept r hu

theorem State.showWheel_wheel (s : State) (t : Nat) : (s.showWheel t).wheel = s.wheel := rfl

theorem State.rrWait_wheel (s : State) (wait target : Nat) : (s.rrWait wait target).wheel = s.wheel := by
  unfold State.rrWait
  split <;> rfl

theorem State.turnStart_wheel {s : State} (hup : s.up = true) (wait target : Nat) : (s.turnStart wait target).wheel = s.assigned.wheel := by
  rw [State.turnStart_eq hup, State.rrWait_wheel]
  exact State.each_eq State.wheel State.showWheel_wheel _ _

/-! ### The longest wait (R280) -/

theorem State.showWheel_rrWait (s : State) (t : Nat) : (s.showWheel t).reg R.rdpRrWait = s.reg R.rdpRrWait := by
  have huse : R.rdpRrWait ≠ R.rdpWheelUse t := by
    unfold R.rdpRrWait R.rdpWheelUse famOff
    split <;> omega
  unfold State.showWheel
  rw [State.setFld_reg_ne _ _ _ huse, State.setFld_reg_ne _ _ _ huse]

theorem State.assignWheel_regs (s : State) (r : Run) : (s.assignWheel r).regs = s.regs := by
  unfold State.assignWheel
  dsimp only
  split <;> rfl

theorem State.assigned_reg (s : State) (o : Nat) : s.assigned.reg o = s.reg o :=
  State.reg_of_regs (State.each_eq State.regs State.assignWheel_regs _ _) o

/-- What RDP_RR_WAIT stands at before the wait of the turn that ends. -/
theorem State.shown_rrWait (s : State) : (s.assigned.each (List.range 20) State.showWheel).reg R.rdpRrWait = s.reg R.rdpRrWait :=
  (State.each_eq (State.reg · R.rdpRrWait) State.showWheel_rrWait _ _).trans (s.assigned_reg _)

/-- A wait that is longer than those before it is kept with its target. -/
theorem State.rrWait_longer {s : State} {wait target : Nat} (hwait : wait < 2 ^ 16) (htarget : target < 20)
    (h : s.fld R.rdpRrWait F.rdpRrWait.maxCycles < wait) :
    (s.rrWait wait target).fld R.rdpRrWait F.rdpRrWait.maxCycles = wait ∧
      (s.rrWait wait target).fld R.rdpRrWait F.rdpRrWait.target = target := by
  unfold State.rrWait
  rw [if_pos h, State.fld_setReg_self, State.fld_setReg_self, Word.get_put_apart _ _ _ _ (by decide) (by decide),
    Word.get_put_self _ _ _ (by decide), Word.get_put_self _ _ _ (by decide)]
  exact ⟨Nat.mod_eq_of_lt hwait, Nat.mod_eq_of_lt (show target < 32 by omega)⟩

theorem State.turnStart_rrWait {s : State} {wait target : Nat} (hup : s.up = true) (hwait : wait < 2 ^ 16) (htarget : target < 20) :
    (s.turnStart wait target).fld R.rdpRrWait F.rdpRrWait.maxCycles = max wait (s.fld R.rdpRrWait F.rdpRrWait.maxCycles) ∧
      (s.fld R.rdpRrWait F.rdpRrWait.maxCycles < wait → (s.turnStart wait target).fld R.rdpRrWait F.rdpRrWait.target = target) := by
  have hshown := State.fld_of_reg s.shown_rrWait F.rdpRrWait.maxCycles
  rw [State.turnStart_eq hup, ← hshown]
  by_cases hlonger : (s.assigned.each (List.range 20) State.showWheel).fld R.rdpRrWait F.rdpRrWait.maxCycles < wait
  · obtain ⟨hmax, hat⟩ := State.rrWait_longer hwait htarget hlonger
    exact ⟨hmax.trans (max_eq_left hlonger.le).symm, fun _ => hat⟩
  · refine ⟨?_, fun h => absurd h hlonger⟩
    unfold State.rrWait
    rw [if_neg hlonger, max_eq_right (Nat.not_lt.mp hlonger)]

theorem State.turnStart_runs (s : State) (wait target : Nat) : (s.turnStart wait target).runs = s.runs :=
  (State.turnStart_step (msk := 0x4000008000000) wait target rfl rfl (Keeps.refl _ s)).runs_eq

end Sys2Proof.Machine
end

section
/-! SUPPORT. Writes of hosts to words with uncorrectable errors (Machine/Groundsheet.lean, Machine/Bus.lean; R254, R258, R279, R434). -/

namespace Sys2Proof.Machine

/-! ### Where a write of a window lands -/

theorem State.word_aligned {s : State} {m : Master} {x a : Nat} (h : s.viewOf m x = .word a) : a % 8 = x % 8 := by
  have hat := State.viewOf_word h
  obtain ⟨hstart, hbase⟩ := s.window_aligned m
  omega

/-- A word that a host may write takes what it stores. -/
theorem State.hostStore_mayWrite {s : State} {a : Nat} (l : List Byte) (h : s.hostMayWrite a) : s.hostStore a l = s.storeBytes a l := by
  unfold State.hostStore
  rcases h with ⟨hpool, hawn, hbuf⟩ | ⟨i, hpool, hawn, hlo, hhi, hcommit⟩ | ⟨hlo, hhi, hbank, hcheck, hswap⟩
  · rw [if_pos hpool, hawn]
    dsimp only
    split
    · next q hq => rw [if_pos (hbuf.resolve_left (by simp [hq]))]
    · rfl
  · rw [if_pos hpool, hawn]
    dsimp only
    rw [if_neg (by omega), if_neg (by simp [hcommit])]
  · rw [if_neg (by omega), if_pos ⟨hlo, hhi⟩, if_neg (by simp [hbank, hcheck, hswap])]

/-- A write of a host to a word that it may write. -/
theorem exec_groundsheetWrite_store {s : State} {m : Master} {x a : Nat} {l : List Byte} (hon : s.masterOn m = true)
    (hview : s.viewOf m x = .word a) (hmay : s.hostMayWrite a) (hpos : 0 < l.length) (hl : x % 8 + l.length ≤ 8) :
    exec (.groundsheetWrite m x l) s = .next (s.storeBytes a l) := by
  have hstore : s.viewStore m x l = s.storeBytes a l := by
    unfold State.viewStore
    rw [hview]
    exact State.hostStore_mayWrite l hmay
  exact congrArg Host.Outcome.next ((State.viewWrite_within (State.place_of_view hview) hon hpos hl).trans hstore)

/-! ### Narrow writes (R258) -/

theorem State.storeBytes_narrow {s : State} {a : Nat} {l : List Byte} (hl : l.length ≠ 8) (h : s.isUe a = true) :
    s.storeBytes a l = s.bump R.gshEccUeCnt F.gshEccUeCnt.count := by
  unfold State.storeBytes
  rw [if_neg hl, if_pos h]

/-! ### A whole word (R258, R279) -/

theorem State.setBytes_ecc (l : List Byte) (s : State) (a : Nat) : (s.setBytes a l).ecc = s.ecc := by
  induction l generalizing s a with
  | nil => rfl
  | cons b l ih => exact (ih (s.setByte a b) (a + 1)).trans rfl

theorem State.setBytes_reg (l : List Byte) (s : State) (a o : Nat) : (s.setBytes a l).reg o = s.reg o := by
  induction l generalizing s a with
  | nil => rfl
  | cons b l ih => exact (ih (s.setByte a b) (a + 1)).trans rfl

theorem State.upset_of_ecc {s t : State} (h : t.ecc = s.ecc) (a : Nat) : t.upset a = s.upset a := by
  unfold State.upset
  rw [h]

theorem State.noteStore_ecc (s : State) (a : Nat) : (s.noteStore a).ecc = s.ecc := rfl

theorem State.noteStore_reg (s : State) (a o : Nat) : (s.noteStore a).reg o = s.reg o := rfl

/-- The errors of a whole write: those of the injector in its word, and the others as they were. -/
theorem State.upset_setWord (s : State) (a b : Nat) (w : Word) :
    (s.setWord a w).upset b = if b / 8 = a / 8 then s.injectMask a else s.upset b := by
  have hwritten : (((s.noteStore a).setBytes (a / 8 * 8) (Word.bytes w)).setUpset a (s.injectMask a)).upset b =
      if b / 8 = a / 8 then s.injectMask a else s.upset b := by
    rw [State.upset_setUpset, State.upset_of_ecc ((State.setBytes_ecc _ _ _).trans (s.noteStore_ecc a))]
  unfold State.setWord
  dsimp only
  split
  · rw [State.upset_of_ecc (State.setBit_ecc ..), hwritten]
  · exact hwritten

/-- A whole write leaves every register but the injector's. -/
theorem State.setWord_reg_ne (s : State) (a : Nat) (w : Word) {o : Nat} (h : o ≠ R.gshEccInject) :
    (s.setWord a w).reg o = s.reg o := by
  have hwritten : (((s.noteStore a).setBytes (a / 8 * 8) (Word.bytes w)).setUpset a (s.injectMask a)).reg o = s.reg o := by
    rw [State.setUpset_reg, State.setBytes_reg, State.noteStore_reg]
  unfold State.setWord
  dsimp only
  split
  · rw [State.setBit_reg_ne _ _ _ h, hwritten]
  · exact hwritten

/-- A frame in which no byte of the internal area, the presence tables and the trace ring has changed. -/
theorem sameBut_of_areas {l : List Part} {s t : State} (h : sameBut (l ++ [.inner, .tables, .ring]) s t)
    (hbytes : ∀ x, areaOf x = .inner ∨ areaOf x = .tables ∨ areaOf x = .ring → t.byte x = s.byte x) : sameBut l s t := by
  intro p hp
  by_cases hother : p ∈ [Part.inner, .tables, .ring]
  · simp only [List.mem_cons, List.not_mem_nil, or_false] at hother
    rcases hother with rfl | rfl | rfl
    · exact fun x hx => hbytes x (.inl hx)
    · exact fun x hx => hbytes x (.inr (.inl hx))
    · exact fun x hx => hbytes x (.inr (.inr hx))
  · exact h p (by simpa [hp] using hother)

theorem State.hostMayWrite_area {s : State} {a : Nat} (h : s.hostMayWrite a) :
    a < 0x01000000 ∨ 0x01C00000 ≤ a ∧ a < 0x01E00000 := by
  rcases h with ⟨hpool, -, -⟩ | ⟨-, hpool, -⟩ | ⟨hlo, hhi, -⟩
  · exact .inl hpool
  · exact .inl hpool
  · exact .inr ⟨hlo, hhi⟩

/-- The frame of a whole write in the pool or in the plan banks. -/
theorem State.setWord_frame {s : State} {a : Nat} (w : Word) (ha : a % 8 = 0)
    (harea : a < 0x01000000 ∨ 0x01C00000 ≤ a ∧ a < 0x01E00000) :
    (s.setWord a w).bufs = s.bufs ∧ sameBut [.pool, .busy, .mem, .ecc, .regs 17] s (s.setWord a w) := by
  have hkeeps := State.setWord_step (msk := 0x2002160080000006) a w rfl rfl (Keeps.refl _ s)
  refine ⟨hkeeps.bufs (.inl rfl) rfl, sameBut_of_areas (hkeeps.sameBut (.inl rfl) _) fun x hx => State.byte_setWord_out _ _ _ _ ?_⟩
  unfold areaOf at hx
  split_ifs at hx <;> simp at hx <;> omega

end Sys2Proof.Machine
end

section
/-! SUPPORT. The buffer pool (Machine/Groundsheet.lean; R262, R263), and the records of violations (R289, R290). -/

namespace Sys2Proof.Machine

/-! ### One buffer -/

theorem State.buf_setBuf (s : State) (b c : Nat) (x : BufState) : (s.setBuf b x).buf c = if c = b then x else s.buf c :=
  SMap.look_put _ _ _ _ _

theorem State.buf_of_bufs {s t : State} (h : t.bufs = s.bufs) (b : Nat) : t.buf b = s.buf b := by
  unfold State.buf
  rw [h]

/-- Every buffer of a list takes the state. -/
theorem State.buf_setBufList_mem {l : List Nat} {b : Nat} (h : b ∈ l) (s : State) (x : BufState) : (s.setBufList l x).buf b = x := by
  refine State.each_mem (P := fun u c => u.buf c = x) (fun u c => ?_) (fun u c y hc => ?_) h s
  · rw [State.buf_setBuf, if_pos rfl]
  · rw [State.buf_setBuf]
    split
    · rfl
    · exact hc

/-! ### Violations (R289, R290) -/

/-- The first word of the record of a violation is the time. -/
theorem State.violation_time {q : Nat} (hq : q ≤ 8) (s : State) (m kind detail : Nat) :
    (s.violation q m kind detail).reg (R.pitViolRec (s.fld R.pitViolIdx F.pitViolIdx.index % 64) 0) = BitVec.ofNat 64 s.now := by
  have hk := Nat.mod_lt (s.fld R.pitViolIdx F.pitViolIdx.index) (show 0 < 64 by decide)
  have hstatus := (R.pitStatus_apart hq).2 _ 0 hk (by decide)
  have hidx := R.pitViolRec_ne_pitViolIdx hk (show 0 < 2 by decide)
  have hword : R.pitViolRec (s.fld R.pitViolIdx F.pitViolIdx.index % 64) 0 ≠ R.pitViolRec (s.fld R.pitViolIdx F.pitViolIdx.index % 64) 1 := by
    simp only [R.pitViolRec, famOff2, hk, true_and]
    norm_num
  unfold State.violation State.bumpSat State.bump
  dsimp only
  rw [State.setFld_reg_ne _ _ _ hstatus.symm, State.setFld_reg_ne _ _ _ hidx, State.setReg_reg_ne _ _ hword, State.setReg_reg_self]

/-- PIT_VIOL_IDX moves on. -/
theorem State.violation_index {q : Nat} (hq : q ≤ 8) (s : State) (m kind detail : Nat) :
    (s.violation q m kind detail).fld R.pitViolIdx F.pitViolIdx.index = (s.fld R.pitViolIdx F.pitViolIdx.index + 1) % 2 ^ 32 := by
  have hk := Nat.mod_lt (s.fld R.pitViolIdx F.pitViolIdx.index) (show 0 < 64 by decide)
  have hstatus := (R.pitStatus_apart hq).1
  have hidx (j : Nat) (hj : j < 2) := (R.pitViolRec_ne_pitViolIdx hk hj).symm
  unfold State.violation State.bumpSat
  dsimp only
  rw [State.fld_setFld_ne _ _ _ _ hstatus.symm, State.fld_bump_self _ _ _ (by decide), State.fld_setReg_ne _ _ _ (hidx 1 (by decide)),
    State.fld_setReg_ne _ _ _ (hidx 0 (by decide))]
  rfl

/-- What a violation of pitch q in view of master m shows. -/
structure Violated (s t : State) (m : Master) (kind detail : Nat) : Prop where
  time : t.reg (R.pitViolRec (s.fld R.pitViolIdx F.pitViolIdx.index % 64) 0) = BitVec.ofNat 64 s.now
  word : t.reg (R.pitViolRec (s.fld R.pitViolIdx F.pitViolIdx.index % 64) 1) =
    BitVec.ofNat 64 (masterPitch m * 2 ^ 60 + m.val * 2 ^ 56 + kind * 2 ^ 48 + detail)
  index : t.fld R.pitViolIdx F.pitViolIdx.index = (s.fld R.pitViolIdx F.pitViolIdx.index + 1) % 2 ^ 32

/-- A pitch that steps outside leaves a record (R289). -/
theorem State.outside_violated {m : Master} (hm : privileged m = false) (s : State) {kind detail : Nat} (hkind : kind < 256)
    (hdetail : detail < 2 ^ 48) (read : Bool) : Violated s (s.outside m kind detail read) m kind detail := by
  have hpitch := masterPitch_le m
  have hout (o : Nat) : (s.outside m kind detail read).reg o = (s.violation (masterPitch m) m.val kind detail).reg o := by
    unfold State.outside
    dsimp only
    rw [if_neg (by simp [hm]), State.respond_reg]
  refine ⟨(hout _).trans (State.violation_time hpitch ..), (hout _).trans ((State.violation_record hpitch ..).trans ?_),
    (State.fld_of_reg (hout _) _).trans (State.violation_index hpitch ..)⟩
  rw [Nat.mod_eq_of_lt (by omega), Nat.mod_eq_of_lt (by omega), Nat.mod_eq_of_lt hkind, Nat.mod_eq_of_lt hdetail]

/-- A privileged access is refused instead (R290). -/
theorem State.outside_refused {m : Master} (hm : privileged m = true) (s : State) (kind detail : Nat) :
    s.outside m kind detail false = s.respond m { data := [], ue := false, bad := true } := by
  unfold State.outside
  dsimp only
  rw [if_pos hm]
  rfl

/-! ### Allocation (R262) -/

theorem pick_of_ne_nil (n : Nat) {l : List Nat} (h : l ≠ []) : ∃ b, pick n l = some b := by
  unfold pick
  split
  · exact absurd rfl h
  · exact ⟨_, rfl⟩
  · exact ⟨_, rfl⟩

theorem State.setBytes_bufs (l : List Byte) (s : State) (a : Nat) : (s.setBytes a l).bufs = s.bufs := by
  induction l generalizing s a with
  | nil => rfl
  | cons b l ih => exact (ih (s.setByte a b) (a + 1)).trans rfl

theorem State.skip_bufs (s : State) (n : Nat) : (s.skip n).bufs = s.bufs := rfl

/-- An allocation takes a FREE buffer. -/
theorem State.alloc_some {s : State} {q b : Nat} (h : pick s.fresh (s.freeBufs q) = some b) :
    (s.alloc q).2 = BitVec.ofNat 64 (2 ^ 63 + b) ∧ ∀ c, (s.alloc q).1.buf c = if c = b then .held else s.buf c := by
  unfold State.alloc
  rw [h]
  refine ⟨rfl, fun c => (State.buf_setBuf _ b c .held).trans ?_⟩
  rw [State.buf_of_bufs (State.skip_bufs ..), State.buf_of_bufs (State.setBytes_bufs ..), State.buf_of_bufs (State.skip_bufs ..)]

theorem State.alloc_none {s : State} {q : Nat} (h : s.freeBufs q = []) :
    s.alloc q = (s.setBit (R.gshBufStatus q) F.gshBufStatus.allocEmpty true, 0) := by
  unfold State.alloc
  rw [h]
  rfl

theorem exec_bufAlloc {m : Master} {q : Fin 9} {s : State} (hon : s.masterOn m = true) (hreach : reachesPitch m q = true) :
    exec (.bufAlloc m q) s = .next ((s.alloc q).1.respond m { data := [(s.alloc q).2], ue := false, bad := false }) := by
  refine congrArg Host.Outcome.next ?_
  unfold State.allocRead
  rw [if_neg (by simp [hon, hreach])]

/-! ### Freeing (R263) -/

theorem exec_bufFree {m : Master} {q : Fin 9} {s : State} (v : Word) (hon : s.masterOn m = true) (hreach : reachesPitch m q = true) :
    exec (.bufFree m q v) s = .next (s.free m q (v.toNat % 65536)) := by
  refine congrArg Host.Outcome.next ?_
  unfold State.freeWrite
  rw [if_neg (by simp [hon, hreach])]

theorem State.free_foreign {s : State} {q b : Nat} (m : Master) (h : s.inRange q b = false) :
    s.free m q b = s.outside m 0x04 b false := by
  unfold State.free
  rw [if_pos (by simp [h])]

/-! A free of a buffer of the range, by the state of the buffer. -/

section
variable {s : State} {q b : Nat} (m : Master) (hin : s.inRange q b = true)
include hin

theorem State.free_held (h : s.buf b = .held) : s.free m q b = s.setBuf b .free := by
  unfold State.free
  simp [hin, h]

theorem State.free_twice (h : s.buf b = .free) : s.free m q b = s.bumpSat (R.gshBufStatus q) F.gshBufStatus.doubleFree 1 := by
  unfold State.free
  simp [hin, h]

theorem State.free_queued (h : s.buf b = .queued ∨ s.buf b = .writing) :
    s.free m q b = s.setBit (R.gshBufStatus q) F.gshBufStatus.queuedFree true := by
  unfold State.free
  obtain h | h := h <;> simp [hin, h]

end

end Sys2Proof.Machine
end

section
/-! SUPPORT. Packet FIFOs (Machine/Groundsheet.lean): pops (R268), flushes (R272), pushes (R266) and held packets (R270). -/

namespace Sys2Proof.Machine

/-! ### Who reaches a FIFO -/

/-- A master reaches every FIFO in the privileged view, its own ones in a pitch view. -/
theorem State.onFifo_reaches {s : State} {m : Master} {n : Nat} (r : Nat) (f : State → State) (hon : s.masterOn m = true)
    (hreach : m.val < 4 ∨ s.ownsFifo (masterPitch m) n = true) : s.onFifo m n r f = f s := by
  unfold State.onFifo
  rw [if_neg (by simp [hon]), if_pos (by simpa [privileged] using hreach)]

/-! ### The buffers of a chain -/

theorem State.buf_setBufList_eq (s : State) (l : List Nat) (x : BufState) (b : Nat) :
    (s.setBufList l x).buf b = if b ∈ l then x else s.buf b := by
  split
  · next h => exact State.buf_setBufList_mem h s x
  · next h => exact State.buf_setBufList l s x h

theorem State.setBufList_regs (s : State) (l : List Nat) (x : BufState) : (s.setBufList l x).regs = s.regs :=
  State.each_eq (f := fun s b => s.setBuf b x) State.regs (fun _ _ => rfl) s l

theorem State.setBufList_hif (s : State) (l : List Nat) (x : BufState) : (s.setBufList l x).hif = s.hif :=
  State.each_eq (f := fun s b => s.setBuf b x) State.hif (fun _ _ => rfl) s l

theorem State.driveInt_buf (s : State) (b : Nat) : s.driveInt.buf b = s.buf b := rfl

/-! ### Pops (R268) -/

section
variable {s : State} {n : Nat} {p : Packet} {l : List Packet} (hp : (s.fifo n).packets = p :: l) (st : BufState)
include hp

theorem State.popHead_eq :
    s.popHead n st = ((s.setFifo n { s.fifo n with packets := l }).setBufList p.chain st).driveInt := by
  unfold State.popHead
  rw [hp]

theorem State.popHead_fifo : (s.popHead n st).fifo n = { s.fifo n with packets := l } := by
  rw [State.popHead_eq hp, Keeps.fifo_eq (w := 0x80040008) (State.driveInt_step rfl rfl (State.setBufList_step _ _ rfl rfl (Keeps.refl _ _))),
    State.setFifo_fifo_self]

theorem State.popHead_buf (b : Nat) : (s.popHead n st).buf b = if b ∈ p.chain then st else s.buf b := by
  rw [State.popHead_eq hp, State.driveInt_buf, State.buf_setBufList_eq]
  rfl

theorem State.popHead_regs : (s.popHead n st).regs = s.regs := by
  rw [State.popHead_eq hp]
  exact State.setBufList_regs ..

/-- A pop that names the first buffer of the oldest packet removes it. -/
theorem State.pop_takes {v : Word} (hfirst : p.chain.head? = some (Word.get v F.gshFifoPop.first)) (hdir : s.fifoDir1 n = false)
    (hhif : s.fifoHif n = false) : s.pop n v = s.popHead n (if v.getLsbD 63 then .free else .held) := by
  unfold State.pop
  simp [hp, hfirst, hdir, hhif]

end

/-- Any other pop is refused. -/
theorem State.pop_refused {s : State} {n : Nat} {v : Word} (h : (s.fifo n).packets = [] ∨ s.fifoDir1 n = true ∨ s.fifoHif n = true ∨
    ((s.fifo n).packets.head?.bind fun p => p.chain.head?) ≠ some (Word.get v F.gshFifoPop.first)) :
    s.pop n v = s.setBit (R.gshFifoStatus n) F.gshFifoStatus.popRefused true := by
  unfold State.pop
  cases hp : (s.fifo n).packets with
  | nil => rfl
  | cons p l =>
    rw [hp] at h
    obtain h | h | h | h := h
    · cases h
    · exact if_pos (.inr (.inl h))
    · exact if_pos (.inr (.inr h))
    · exact if_pos (.inl h)

/-! ### Flushes (R272) -/

/-- A FIFO without its committed packets, which are counted. -/
def State.emptied (s : State) (n : Nat) : State :=
  ((s.setFifo n { s.fifo n with packets := [] }).setBufList ((s.fifo n).packets.flatMap (·.chain)) .free).setFld
    (R.gshFifoStatus n) F.gshFifoStatus.dropped (s.fld (R.gshFifoStatus n) F.gshFifoStatus.dropped + (s.fifo n).packets.length)

theorem State.emptied_fifo (s : State) (n : Nat) : (s.emptied n).fifo n = { s.fifo n with packets := [] } := by
  unfold State.emptied
  exact (Keeps.fifo_eq (w := 0x80000008) (State.setBufList_step _ _ rfl rfl (Keeps.refl _ _)) n).trans (State.setFifo_fifo_self ..)

theorem State.emptied_buf (s : State) (n b : Nat) :
    (s.emptied n).buf b = if b ∈ (s.fifo n).packets.flatMap (·.chain) then .free else s.buf b :=
  State.buf_setBufList_eq ..

theorem State.emptied_reg_ne (s : State) {n o : Nat} (h : o ≠ R.gshFifoStatus n) : (s.emptied n).reg o = s.reg o :=
  (State.setFld_reg_ne _ _ _ h).trans (State.reg_of_regs (State.setBufList_regs ..) o)

theorem State.emptied_dropped (s : State) (n : Nat) : (s.emptied n).fld (R.gshFifoStatus n) F.gshFifoStatus.dropped =
    (s.fld (R.gshFifoStatus n) F.gshFifoStatus.dropped + (s.fifo n).packets.length) % 2 ^ 32 :=
  State.fld_setFld_self _ _ _ _ (by decide)

theorem State.emptied_hif (s : State) (n : Nat) : (s.emptied n).hif = s.hif := State.setBufList_hif ..

theorem State.setEp_hif (s : State) (q : Nat) (e : Endpoint) :
    (s.setEp q e).hif = { s.hif with eps := SMap.put Endpoint.dflt s.hif.eps q e } := rfl

theorem State.showWaiting_reg_ne (s : State) {q o : Nat} (h : o ≠ R.hifEpStatus q) : (s.showWaiting q).reg o = s.reg o :=
  State.setFld_reg_ne _ _ _ h

theorem State.setEp_reg (s : State) (q : Nat) (e : Endpoint) (o : Nat) : (s.setEp q e).reg o = s.reg o := rfl

/-- What HIF keeps for a FIFO goes with its packets: its datagrams in flight, and INT_N. -/
theorem State.flush_eq {s : State} (hup : s.up = true) (n : Nat) :
    ∃ e spi, s.flush n = (((s.emptied n).setEp ((s.emptied n).fifoPitch n) e).showWaiting ((s.emptied n).fifoPitch n)).setHif
        { ((s.emptied n).setEp ((s.emptied n).fifoPitch n) e).hif with spi := spi } ∨
      s.flush n = (s.emptied n).setHif { (s.emptied n).hif with spi := spi } := by
  have hemptied : ((s.setFifo n { s.fifo n with packets := [] }).setBufList ((s.fifo n).packets.flatMap (·.chain)) .free).setFld
      (R.gshFifoStatus n) F.gshFifoStatus.dropped
      (((s.setFifo n { s.fifo n with packets := [] }).setBufList ((s.fifo n).packets.flatMap (·.chain)) .free).fld
        (R.gshFifoStatus n) F.gshFifoStatus.dropped + (s.fifo n).packets.length) = s.emptied n := by
    rw [State.fld_of_reg (State.reg_of_regs (State.setBufList_regs ..) _)]
    rfl
  unfold State.flush
  rw [if_neg (by simp [hup])]
  dsimp only
  rw [hemptied]
  split
  · exact ⟨_, _, .inl rfl⟩
  · exact ⟨Endpoint.dflt, _, .inr rfl⟩

section
variable {s : State} (hup : s.up = true) (n : Nat)
include hup

theorem State.flush_keeps : Keeps 0x8000000040000 (s.emptied n) (s.flush n) := by
  obtain ⟨e, spi, h | h⟩ := State.flush_eq hup n
  · rw [h]
    exact State.setHif_step _ rfl rfl (State.showWaiting_step _ rfl rfl (State.setEp_step _ _ rfl rfl (Keeps.refl _ _)))
  · rw [h]
    exact State.setHif_step _ rfl rfl (Keeps.refl _ _)

theorem State.flush_fifo : (s.flush n).fifo n = { s.fifo n with packets := [] } :=
  ((State.flush_keeps hup n).fifo_eq n).trans (s.emptied_fifo n)

theorem State.flush_buf (b : Nat) : (s.flush n).buf b = if b ∈ (s.fifo n).packets.flatMap (·.chain) then .free else s.buf b :=
  (State.buf_of_bufs ((State.flush_keeps hup n).bufs (.inl rfl) rfl) b).trans (s.emptied_buf n b)

theorem State.flush_dropped : (s.flush n).fld (R.gshFifoStatus n) F.gshFifoStatus.dropped =
    (s.fld (R.gshFifoStatus n) F.gshFifoStatus.dropped + (s.fifo n).packets.length) % 2 ^ 32 :=
  ((State.flush_keeps hup n).fld_eq (regWindow_gshFifoStatus n) _).trans (s.emptied_dropped n)

/-- A flush writes the counter of its FIFO, and the status of an endpoint. -/
theorem State.flush_reg_ne {o : Nat} (hstatus : o ≠ R.gshFifoStatus n) (hep : ∀ q, o ≠ R.hifEpStatus q) :
    (s.flush n).reg o = s.reg o := by
  obtain ⟨e, spi, h | h⟩ := State.flush_eq hup n
  · rw [h, State.setHif_reg, State.showWaiting_reg_ne _ (hep _), State.setEp_reg, s.emptied_reg_ne hstatus]
  · rw [h, State.setHif_reg, s.emptied_reg_ne hstatus]

theorem State.flush_hif : ∃ eps spi, (s.flush n).hif = { s.hif with eps := eps, spi := spi } := by
  obtain ⟨e, spi, h | h⟩ := State.flush_eq hup n
  · rw [h, State.setHif_hif, State.setEp_hif, State.emptied_hif]
    exact ⟨_, _, rfl⟩
  · rw [h, State.setHif_hif, State.emptied_hif]
    exact ⟨_, _, rfl⟩

end

/-! ### Pushes (R266) -/

/-- The words that a push reads. -/
def State.pushReads (s : State) (n : Nat) (v : Word) : List Nat :=
  if s.fifoOn n && s.fifoDir1 n && decide (Word.get v F.gshFifoPush.length ≤ 4096) then
    s.pushLinks (s.fifoPitch n) (chainLen (Word.get v F.gshFifoPush.length)) (Word.get v F.gshFifoPush.first) []
  else []

/-- The walk of a chain rests on the words and buffers alone. -/
theorem State.pushChain_of {s t : State} (h : RoomKept s t) (hmem : t.mem = s.mem) (hue : ∀ a, t.isUe a = s.isUe a) (q k b : Nat)
    (seen : List Nat) : t.pushChain q k b seen = s.pushChain q k b seen := by
  have hrange (b : Nat) : t.inRange q b = s.inRange q b := by
    unfold State.inRange
    rw [h.range]
  have hword (a : Nat) : t.word a = s.word a := State.word_of_bytes fun x _ _ => State.byte_of_mem hmem x
  induction k generalizing b seen with
  | zero => rfl
  | succ k ih =>
    unfold State.pushChain
    simp only [hrange, State.buf_of_bufs h.bufs, hue, hword, ih]

theorem State.pushChain_touchAll (s : State) (l : List Nat) (q k b : Nat) (seen : List Nat) :
    (s.touchAll l).pushChain q k b seen = s.pushChain q k b seen :=
  State.pushChain_of (.touchAll s l) (s.touchAll_mem l) (s.touchAll_isUe l) q k b seen

theorem RoomKept.newCycle (s : State) : RoomKept s s.newCycle := ⟨fun _ _ => rfl, rfl, rfl, rfl⟩

theorem State.pushChain_newCycle (s : State) (q k b : Nat) (seen : List Nat) :
    s.newCycle.pushChain q k b seen = s.pushChain q k b seen :=
  State.pushChain_of (.newCycle s) rfl (fun _ => rfl) q k b seen

/-- A push of a length that a packet has, by what its chain is. -/
def State.pushFound (s : State) (m : Master) (n len : Nat) : Chain → State
  | .bad => s.pushRefused n
  | .foreign b => (s.pushRefused n).outside m 0x04 b false
  | .ok l => if s.fifoFull n then s.pushRefused n else s.appendHost n l len

section
variable {s : State} {n : Nat} {v : Word} (m : Master)

/-- A push runs on the state in which its words have been read. -/
theorem State.push_touched {t : State} (ht : t = s.touchAll (s.pushReads n v)) : s.push m n v =
    if !t.fifoOn n || !t.fifoDir1 n || decide (Word.get v F.gshFifoPush.length = 0) || decide (4096 < Word.get v F.gshFifoPush.length)
    then t.pushRefused n
    else t.pushFound m n (Word.get v F.gshFifoPush.length)
      (t.pushChain (t.fifoPitch n) (chainLen (Word.get v F.gshFifoPush.length)) (Word.get v F.gshFifoPush.first) []) := by
  have hread : (if s.fifoOn n && s.fifoDir1 n && decide (Word.get v F.gshFifoPush.length ≤ 4096) then
      s.touchAll (s.pushLinks (s.fifoPitch n) (chainLen (Word.get v F.gshFifoPush.length)) (Word.get v F.gshFifoPush.first) [])
      else s) = t := by
    rw [ht]
    unfold State.pushReads
    split <;> rfl
  unfold State.push
  dsimp only
  rw [hread]
  refine if_congr Iff.rfl rfl ?_
  cases t.pushChain (t.fifoPitch n) (chainLen (Word.get v F.gshFifoPush.length)) (Word.get v F.gshFifoPush.first) [] <;> rfl

/-- A push to a FIFO that takes none, or of a length that no packet has. -/
theorem State.push_unfit (h : s.fifoOn n = false ∨ s.fifoDir1 n = false ∨ Word.get v F.gshFifoPush.length = 0 ∨
    4096 < Word.get v F.gshFifoPush.length) : s.push m n v = (s.touchAll (s.pushReads n v)).pushRefused n := by
  have hkept := RoomKept.touchAll s (s.pushReads n v)
  rw [State.push_touched m rfl, hkept.fifoOn, hkept.fifoDir1]
  refine if_pos ?_
  obtain h | h | h | h := h <;> simp [h]

theorem State.push_fit {c : Chain} (hon : s.fifoOn n = true) (hdir : s.fifoDir1 n = true)
    (hpos : 1 ≤ Word.get v F.gshFifoPush.length) (hlen : Word.get v F.gshFifoPush.length ≤ 4096)
    (hchain : s.pushChain (s.fifoPitch n) (chainLen (Word.get v F.gshFifoPush.length)) (Word.get v F.gshFifoPush.first) [] = c) :
    s.push m n v = (s.touchAll (s.pushReads n v)).pushFound m n (Word.get v F.gshFifoPush.length) c := by
  have hkept := RoomKept.touchAll s (s.pushReads n v)
  have hwalk := (State.pushChain_touchAll s (s.pushReads n v) ..).trans hchain
  rw [State.push_touched m rfl, hkept.fifoOn, hkept.fifoDir1, hkept.fifoPitch, if_neg (by simp [hon, hdir]; omega), hwalk]

end

/-- A refused push: the words have been read, and push_refused is set. -/
structure PushRefused (s t : State) (n : Nat) : Prop where
  refused : t.bit (R.gshFifoStatus n) F.gshFifoStatus.pushRefused = true
  fifos : t.fifos = s.fifos
  bufs : t.bufs = s.bufs

theorem State.pushRefused_shows (s : State) (l : List Nat) (n : Nat) : PushRefused s ((s.touchAll l).pushRefused n) n where
  refused := State.bit_setBit_self _ _ _ _ (by decide)
  fifos := (State.setBit_fifos ..).trans (RoomKept.touchAll s l).fifos
  bufs := (State.setBit_bufs ..).trans (RoomKept.touchAll s l).bufs

/-- What a validated push leaves. -/
structure PushTaken (s t : State) (n : Nat) (l : List Nat) (len : Nat) : Prop where
  packets : (t.fifo n).packets = (s.fifo n).packets ++ [s.descriptor l len]
  held : (t.fifo n).held = (s.fifo n).held
  buf : ∀ b, t.buf b = if b ∈ l then .queued else s.buf b
  mem : t.mem = s.mem
  seq : t.fld (R.gshFifoSeq n) F.gshFifoSeq.seq = (s.fld (R.gshFifoSeq n) F.gshFifoSeq.seq + 1) % 2 ^ 32
  regs : ∀ o, o ≠ R.gshFifoSeq n → EccFree o → t.reg o = s.reg o

theorem State.appendHost_fifo (s : State) (n : Nat) (l : List Nat) (len : Nat) :
    (s.appendHost n l len).fifo n = { s.fifo n with packets := (s.fifo n).packets ++ [s.descriptor l len] } :=
  State.setFifo_fifo_self ..

theorem State.appendHost_buf (s : State) (n : Nat) (l : List Nat) (len b : Nat) :
    (s.appendHost n l len).buf b = if b ∈ l then .queued else s.buf b :=
  State.buf_setBufList_eq ..

theorem State.appendHost_mem (s : State) (n : Nat) (l : List Nat) (len : Nat) : (s.appendHost n l len).mem = s.mem :=
  State.mem_setBufList ..

theorem State.appendHost_seq (s : State) (n : Nat) (l : List Nat) (len : Nat) :
    (s.appendHost n l len).fld (R.gshFifoSeq n) F.gshFifoSeq.seq = (s.fld (R.gshFifoSeq n) F.gshFifoSeq.seq + 1) % 2 ^ 32 := by
  have hreg : ((s.setBufList l .queued).setFifo n { s.fifo n with packets := (s.fifo n).packets ++ [s.descriptor l len] }).reg
      (R.gshFifoSeq n) = s.reg (R.gshFifoSeq n) := State.reg_of_regs (State.setBufList_regs ..) _
  exact (State.fld_bump_self _ _ _ (by decide)).trans (by rw [State.fld_of_reg hreg]; rfl)

theorem State.appendHost_reg_ne (s : State) (n : Nat) (l : List Nat) (len : Nat) {o : Nat} (h : o ≠ R.gshFifoSeq n) :
    (s.appendHost n l len).reg o = s.reg o :=
  (State.setFld_reg_ne _ _ _ h).trans (State.reg_of_regs (State.setBufList_regs ..) o)

theorem State.descriptor_touchAll (s : State) (r l : List Nat) (len : Nat) : (s.touchAll r).descriptor l len = s.descriptor l len := by
  unfold State.descriptor
  rw [(s.touchAll_keeps r).now_eq, State.touchAll_cycle]

theorem eccFree_gshFifoSeq (n : Nat) : EccFree (R.gshFifoSeq n) := by
  unfold EccFree R.gshFifoSeq R.gshEccStatus R.gshEccCeCnt R.gshEccUeCnt famOff
  split <;> omega

theorem State.appendHost_shows (s : State) (r l : List Nat) (n len : Nat) :
    PushTaken s ((s.touchAll r).appendHost n l len) n l len where
  packets := by rw [State.appendHost_fifo, (RoomKept.touchAll s r).fifo, State.descriptor_touchAll]
  held := by rw [State.appendHost_fifo, (RoomKept.touchAll s r).fifo]
  buf b := by rw [State.appendHost_buf, State.buf_of_bufs (RoomKept.touchAll s r).bufs]
  mem := (State.appendHost_mem ..).trans (s.touchAll_mem r)
  seq := by rw [State.appendHost_seq, State.fld_of_reg (RegKept.touchAll (eccFree_gshFifoSeq n) s r).1]
  regs _ h hecc := (State.appendHost_reg_ne _ _ _ _ h).trans (RegKept.touchAll hecc s r).1

/-- A push whose chain is valid, to a FIFO with room. -/
theorem State.push_taken {s : State} {n : Nat} {v : Word} {l : List Nat} (m : Master) (hon : s.fifoOn n = true)
    (hdir : s.fifoDir1 n = true) (hpos : 1 ≤ Word.get v F.gshFifoPush.length) (hlen : Word.get v F.gshFifoPush.length ≤ 4096)
    (hchain : s.pushChain (s.fifoPitch n) (chainLen (Word.get v F.gshFifoPush.length)) (Word.get v F.gshFifoPush.first) [] = .ok l)
    (hroom : s.fifoFull n = false) : PushTaken s (s.push m n v) n l (Word.get v F.gshFifoPush.length) := by
  rw [State.push_fit m hon hdir hpos hlen hchain, State.pushFound, (RoomKept.touchAll ..).fifoFull, if_neg (by simp [hroom])]
  exact State.appendHost_shows ..

theorem State.push_refused {s : State} {n : Nat} {v : Word} (m : Master) (h : s.fifoOn n = false ∨ s.fifoDir1 n = false ∨
      Word.get v F.gshFifoPush.length = 0 ∨ 4096 < Word.get v F.gshFifoPush.length ∨
      s.pushChain (s.fifoPitch n) (chainLen (Word.get v F.gshFifoPush.length)) (Word.get v F.gshFifoPush.first) [] = .bad ∨
      s.fifoFull n = true ∧ (∃ l, s.pushChain (s.fifoPitch n) (chainLen (Word.get v F.gshFifoPush.length))
        (Word.get v F.gshFifoPush.first) [] = .ok l)) : PushRefused s (s.push m n v) n := by
  have hshows := s.pushRefused_shows (s.pushReads n v) n
  by_cases hunfit : s.fifoOn n = false ∨ s.fifoDir1 n = false ∨ Word.get v F.gshFifoPush.length = 0 ∨
      4096 < Word.get v F.gshFifoPush.length
  · rw [State.push_unfit m hunfit]
    exact hshows
  · have hchain := h.resolve_left fun h => hunfit (.inl h)
    simp only [not_or, Bool.not_eq_false, Nat.not_lt] at hunfit
    obtain ⟨hon, hdir, hpos, hlen⟩ := hunfit
    obtain h | h | h | hbad | ⟨hfull, l, hok⟩ := hchain
    · exact absurd h (by simp [hdir])
    · exact absurd h hpos
    · omega
    · rw [State.push_fit m hon hdir (Nat.pos_of_ne_zero hpos) hlen hbad]
      exact hshows
    · rw [State.push_fit m hon hdir (Nat.pos_of_ne_zero hpos) hlen hok, State.pushFound, (RoomKept.touchAll ..).fifoFull, if_pos hfull]
      exact hshows

/-- A push whose chain names a buffer of another pitch is refused, and the master steps outside what it owns. -/
theorem State.push_foreign {s : State} {n b : Nat} {v : Word} (m : Master) (hon : s.fifoOn n = true)
    (hdir : s.fifoDir1 n = true) (hpos : 1 ≤ Word.get v F.gshFifoPush.length) (hlen : Word.get v F.gshFifoPush.length ≤ 4096)
    (hchain : s.pushChain (s.fifoPitch n) (chainLen (Word.get v F.gshFifoPush.length)) (Word.get v F.gshFifoPush.first) [] =
      .foreign b) : ∃ u, PushRefused s u n ∧ Keeps 0x2000000000004 s u ∧ s.push m n v = u.outside m 0x04 b false :=
  ⟨_, s.pushRefused_shows (s.pushReads n v) n, State.pushRefused_step _ rfl rfl (s.touchAll_keeps _),
    State.push_fit m hon hdir hpos hlen hchain⟩

/-- A chain names its first buffer that is of another pitch; a link word names a buffer of 16 bits. -/
theorem State.pushChain_foreign_lt {s : State} {q k b f : Nat} {seen : List Nat} (hb : b < 65536)
    (h : s.pushChain q k b seen = .foreign f) : f < 65536 := by
  induction k generalizing b seen with
  | zero => cases h
  | succ k ih =>
    unfold State.pushChain at h
    dsimp only at h
    split at h
    · cases h
      exact hb
    · split at h
      · cases h
      · split at h
        · split at h <;> cases h
        · split at h
          · cases h
          · exact ih (Nat.mod_lt _ (by decide)) h

/-! ### Held packets (R270) -/

theorem State.append_fifo (s : State) (n : Nat) (c : List Nat) (ws : List Word) :
    (s.append n c ws).fifo n = { s.fifo n with packets := (s.fifo n).packets ++ [s.descriptor c ws.length] } := by
  have hwritten : Keeps 0x20021600C000000E s (((s.skip c.length).writeChain c ws).setBufList c .queued) :=
    State.setBufList_step _ _ rfl rfl (State.writeChain_step _ _ rfl rfl (State.skip_step _ rfl rfl (Keeps.refl _ s)))
  unfold State.append
  dsimp only
  rw [Keeps.fifo_eq (w := 0x20040000) (State.driveInt_step rfl rfl (State.fifoMsi_step _ _ rfl rfl (Keeps.refl _ _))),
    State.setFifo_fifo_self, hwritten.fifo_eq]

theorem State.append_queued (s : State) (n : Nat) {c : List Nat} (ws : List Word) {b : Nat} (h : b ∈ c) :
    (s.append n c ws).buf b = .queued := by
  unfold State.append
  dsimp only
  rw [State.buf_of_bufs (Keeps.bufs (w := 0x20040000) (State.driveInt_step rfl rfl (State.fifoMsi_step _ _ rfl rfl (Keeps.refl _ _)))
    (.inl rfl) rfl)]
  exact State.buf_setBufList_mem h _ _

section
variable {s : State} {n : Nat} {ws : List Word} {l : List (List Word)} (hup : s.up = true) (hon : s.fifoOn n = true)
  (hheld : (s.fifo n).held = ws :: l)
include hup hon hheld

/-- A held packet goes on once there is room for it, and not before. -/
theorem State.commitHeld_room {c : List Nat} (hroom : s.chainFor n ws.length = some c) :
    s.commitHeld n = (s.setFifo n { s.fifo n with held := l }).append n c ws := by
  unfold State.commitHeld
  simp [hup, hon, hheld, hroom]

theorem State.commitHeld_waits (hroom : s.chainFor n ws.length = none) : s.commitHeld n = s := by
  unfold State.commitHeld
  simp [hup, hon, hheld, hroom]

end

end Sys2Proof.Machine
end

section
/-! SUPPORT. A flush and a push in one cycle (Machine/Bus.lean; R271, R272): the order of the two writes, and what a flush leaves of the
views. -/

namespace Sys2Proof.Machine

/-! ### The hook of a register -/

/-- The entry of a table that names an offset, where no entry before it does. -/
theorem hookAt_of_first {α : Type} {l : List ((Nat → Option Nat) × α)} {off i k : Nat} (hk : k < l.length)
    (hbefore : ((l.take k).all fun x => (x.1 off).isNone) = true) (h : l[k].1 off = some i) : hookAt l off = some (i, l[k].2) := by
  refine List.findSome?_eq_some_iff.mpr ⟨l.take k, l[k], l.drop (k + 1), ?_, by rw [h]; rfl, fun x hx => ?_⟩
  · rw [← List.drop_eq_getElem_cons hk, List.take_append_drop]
  · rw [Option.isNone_iff_eq_none.mp (List.all_eq_true.mp hbefore x hx)]
    rfl

/-- A write of a register with a hook does what the hook says. -/
theorem State.busWrite64_hook {s : State} {m : Master} {x r i : Nat} {f : State → Master → Nat → Word → State} (v : Word)
    (hplace : s.place m x = .reg r) (hcfg : r ≠ R.cfgCtrl) (hhook : hookAt writeHooks r = some (i, f)) :
    s.busWrite64 m x v = f s m i v := by
  unfold State.busWrite64
  simp only [hplace, if_neg hcfg]
  unfold State.regWrite
  rw [hhook]

theorem writeHooks_gshFifoCtrl (n : Fin 64) : hookAt writeHooks (R.gshFifoCtrl n) =
    some (n.val, fun s _ n v => if Word.get v F.gshFifoCtrl.flush = 1 then s.flush n else s) :=
  hookAt_of_first (k := 25) (by decide)
    ((by decide +kernel : ∀ n : Fin 64, ((writeHooks.take 25).all fun x => (x.1 (R.gshFifoCtrl n)).isNone) = true) n)
    ((by decide +kernel : ∀ n : Fin 64, arr (R.gshFifoCtrl 0) 0x40 64 (R.gshFifoCtrl n) = some n.val) n)

theorem writeHooks_gshFifoPush (n : Fin 64) : hookAt writeHooks (R.gshFifoPush n) =
    some (n.val, fun s m n v => s.onFifo m n 0x18 fun s => s.push m n v) :=
  hookAt_of_first (k := 23) (by decide)
    ((by decide +kernel : ∀ n : Fin 64, ((writeHooks.take 23).all fun x => (x.1 (R.gshFifoPush n)).isNone) = true) n)
    ((by decide +kernel : ∀ n : Fin 64, arr (R.gshFifoPush 0) 0x40 64 (R.gshFifoPush n) = some n.val) n)

theorem cycleRank_gshFifoCtrl (n : Fin 64) : cycleRank (some (R.gshFifoCtrl n)) = 0 :=
  (by decide +kernel : ∀ n : Fin 64, cycleRank (some (R.gshFifoCtrl n)) = 0) n

theorem cycleRank_gshFifoPush (n : Fin 64) : cycleRank (some (R.gshFifoPush n)) = 6 :=
  (by decide +kernel : ∀ n : Fin 64, cycleRank (some (R.gshFifoPush n)) = 6) n

/-- The privileged view names GSH_FIFOn_CTRL by its own offset. -/
theorem State.place_gshFifoCtrl (s : State) {m : Master} (hm : m.val < 4) (n : Fin 64) :
    s.place m (R.gshFifoCtrl n) = .reg (R.gshFifoCtrl n) := by
  unfold State.place
  rw [if_pos (by simpa [privileged] using hm)]
  exact (by decide +kernel : ∀ n : Fin 64, placePrivileged (R.gshFifoCtrl n) = .reg (R.gshFifoCtrl n)) n

theorem gshFifoCtrl_aligned (n : Fin 64) : R.gshFifoCtrl n % 8 = 0 :=
  (by decide +kernel : ∀ n : Fin 64, R.gshFifoCtrl n % 8 = 0) n

theorem State.serves_of_masterOn {s : State} {m : Master} (h : s.masterOn m = true) (off : Nat) : s.serves m off = true := by
  unfold State.serves
  rw [h, Bool.true_or]

theorem State.up_of_masterOn {s : State} {m : Master} (h : s.masterOn m = true) : s.up = true := by
  unfold State.masterOn at h
  simp only [Bool.and_eq_true] at h
  exact h.1

/-! ### The views after a flush -/

theorem State.fifoOn_of {s t : State} {n : Nat} (h : t.reg (R.gshFifoCfg n) = s.reg (R.gshFifoCfg n)) : t.fifoOn n = s.fifoOn n := by
  unfold State.fifoOn
  rw [State.bit_of_reg h, State.fld_of_reg h]

theorem State.ownsFifo_of {s t : State} {n : Nat} (q : Nat) (h : t.reg (R.gshFifoCfg n) = s.reg (R.gshFifoCfg n)) :
    t.ownsFifo q n = s.ownsFifo q n := by
  unfold State.ownsFifo State.fifoPitch
  rw [State.fifoOn_of h, State.fld_of_reg h]

/-- A view rests on the owners of the FIFOs and of the Awning instances. -/
theorem State.place_of {s t : State} (hfifo : ∀ n, t.reg (R.gshFifoCfg n) = s.reg (R.gshFifoCfg n))
    (hawn : ∀ i, t.reg (R.awnImg i) = s.reg (R.awnImg i)) (m : Master) (off : Nat) : t.place m off = s.place m off := by
  have howns (q n : Nat) := State.ownsFifo_of (s := s) q (hfifo n)
  have hpitch (i : Nat) : t.awnPitch i = s.awnPitch i := State.fld_of_reg (hawn i) _
  unfold State.place State.placePitch State.placePitch1 State.placeFifo
  simp only [howns, hpitch]

/-- A master is on by the links and functions of HIF, and by what its pitch may use. -/
theorem State.masterOn_of {s t : State} (hup : t.up = s.up)
    (hhif : ∃ eps spi, t.hif = { s.hif with eps := eps, spi := spi }) (hcfg : ∀ q, t.reg (R.pitCfg q) = s.reg (R.pitCfg q))
    (hkeys : ∀ q, t.reg (R.pitKeys q) = s.reg (R.pitKeys q)) (hep : ∀ q ≤ 8, t.reg (R.hifEpCfg q) = s.reg (R.hifEpCfg q)) (m : Master) :
    t.masterOn m = s.masterOn m := by
  obtain ⟨eps, spi, hhif⟩ := hhif
  have howns (q k : Nat) : t.ownsKey q k = s.ownsKey q k := by
    unfold State.ownsKey State.namesKey
    simp only [State.fld_of_reg (hkeys _)]
  have hepOn {q : Nat} (hq : q ≤ 8) : t.epOn q = s.epOn q := by
    unfold State.epOn
    simp only [State.bit_of_reg (hcfg q), State.bit_of_reg (hep q hq), State.fld_of_reg (hep q hq), howns]
  have hvf (q : Nat) : t.vfOn q = s.vfOn q := by
    unfold State.vfOn
    simp only [State.bit_of_reg (hcfg q), hhif]
  unfold State.masterOn
  rw [hup, hepOn (Nat.zero_le 8), hepOn (masterPitch_le m), hvf, hhif]

section
variable {s : State} (hup : s.up = true) (n : Fin 64)
include hup

theorem State.flush_reg_of_window {o : Nat} (hgsh : regWindow o ≠ 17) (hhif : regWindow o ≠ 19) : (s.flush n).reg o = s.reg o :=
  State.flush_reg_ne hup n (fun h => hgsh (h ▸ regWindow_gshFifoStatus n)) fun q h => hhif (h ▸ regWindow_hifEpStatus q)

theorem State.flush_gshFifoCfg (k : Nat) : (s.flush n).reg (R.gshFifoCfg k) = s.reg (R.gshFifoCfg k) := by
  refine State.flush_reg_ne hup n ?_ fun q h => ?_
  · have hn := n.isLt
    simp only [R.gshFifoCfg, R.gshFifoStatus, famOff, if_pos hn]
    split <;> omega
  · have hwindow := congrArg regWindow h
    rw [regWindow_hifEpStatus, regWindow_gshFifoCfg] at hwindow
    exact absurd hwindow (by decide)

theorem State.flush_hifEpCfg {q : Nat} (hq : q ≤ 8) : (s.flush n).reg (R.hifEpCfg q) = s.reg (R.hifEpCfg q) := by
  refine State.flush_reg_ne hup n (fun h => ?_) fun k => ?_
  · have hwindow := congrArg regWindow h
    rw [regWindow_gshFifoStatus, regWindow_hifEpCfg] at hwindow
    exact absurd hwindow (by decide)
  · simp only [R.hifEpCfg, R.hifEpStatus, famOff, if_pos (show q < 9 by omega)]
    split <;> omega

theorem State.flush_place (m : Master) (off : Nat) : (s.flush n).place m off = s.place m off :=
  State.place_of (State.flush_gshFifoCfg hup n)
    (fun i => State.flush_reg_of_window hup n (by rw [regWindow_awnImg]; decide) (by rw [regWindow_awnImg]; decide)) m off

omit hup in
theorem State.flush_up : (s.flush n).up = s.up :=
  Keeps.up_eq (w := 0x1A000090040018) (State.flush_step _ rfl rfl (Keeps.refl _ s))

theorem State.flush_masterOn (m : Master) : (s.flush n).masterOn m = s.masterOn m :=
  State.masterOn_of (State.flush_up n) (State.flush_hif hup n)
    (fun q => State.flush_reg_of_window hup n (by rw [regWindow_pitCfg]; decide) (by rw [regWindow_pitCfg]; decide))
    (fun q => State.flush_reg_of_window hup n (by rw [regWindow_pitKeys]; decide) (by rw [regWindow_pitKeys]; decide))
    (fun _ hq => State.flush_hifEpCfg hup n hq) m

end

/-! ### The two writes -/

theorem gshFifoStatus_ne_seq (n : Fin 64) : R.gshFifoStatus n ≠ R.gshFifoSeq n :=
  (by decide +kernel : ∀ n : Fin 64, R.gshFifoStatus n ≠ R.gshFifoSeq n) n

theorem eccFree_gshFifoStatus (n : Nat) : EccFree (R.gshFifoStatus n) := by
  unfold EccFree R.gshFifoStatus R.gshEccStatus R.gshEccCeCnt R.gshEccUeCnt famOff
  split <;> omega

theorem byMaster_single (w : HostWrite) : byMaster [w] = [w] := byMaster_of_sorted (List.pairwise_singleton _ w)

theorem byInitiator_single (w : HostWrite) : byInitiator [w] = [w] := by
  obtain ⟨⟨k, hk⟩, off, size, data⟩ := w
  unfold byInitiator
  interval_cases k <;> rfl

/-- The writes of one rank stand in the master order among themselves. -/
theorem byMaster_filter (ws : List HostWrite) (P : HostWrite → Bool) : (byMaster ws).filter P = byMaster (ws.filter P) := by
  unfold byMaster
  rw [List.filter_flatMap]
  exact List.flatMap_congr fun i _ => List.filter_comm _ _ _

theorem byInitiator_filter (ws : List HostWrite) (P : HostWrite → Bool) :
    (byInitiator ws).filter P = byInitiator (ws.filter P) := by
  unfold byInitiator
  rw [List.filter_flatMap]
  exact List.flatMap_congr fun i _ => List.filter_comm _ _ _

/-- A flush and a push of one cycle, in either order: the flush is taken first (R271, R272). -/
theorem State.cycleWrites_flushPush {s : State} {f p : HostWrite} {cs : List HostWrite} (hcs : cs = [f, p] ∨ cs = [p, f])
    (hf : cycleRank (s.writes f) = 0) (hp : cycleRank (s.writes p) = 6) :
    s.cycleWrites cs = (s.newCycle.oneWrite f id).oneWrite p id := by
  have hrank (k : Nat) : cs.filter (fun w => decide (cycleRank (s.writes w) = k)) =
      (if k = 0 then [f] else if k = 6 then [p] else []) := by
    by_cases h0 : k = 0
    · obtain rfl | rfl := hcs <;> simp [hf, hp, h0]
    · by_cases h6 : k = 6
      · obtain rfl | rfl := hcs <;> simp [hf, hp, h6]
      · obtain rfl | rfl := hcs <;> simp [hf, hp, h0, h6, Ne.symm h0, Ne.symm h6]
  have horder : List.append ((List.range 6).flatMap fun k => (byMaster cs).filter fun w => decide (cycleRank (s.writes w) = k))
      ((byInitiator cs).filter fun w => decide (cycleRank (s.writes w) = 6)) = [f, p] := by
    simp only [byMaster_filter, byInitiator_filter, hrank]
    simp [List.range_succ, byMaster_single, byInitiator_single, show byMaster [] = [] from rfl]
  have hne : s.writes f ≠ s.writes p := fun h => absurd (hf.symm.trans ((congrArg cycleRank h).trans hp)) (by decide)
  have hwins (w : HostWrite) (hw : w ∈ [f, p]) : s.loses [f, p] w = false := by
    unfold State.loses
    split
    · rfl
    · next r hr =>
      rw [Bool.and_eq_false_iff]
      refine .inr (List.any_eq_false.mpr fun x hx => ?_)
      simp only [List.mem_cons, List.not_mem_nil, or_false] at hw hx
      simp only [Bool.and_eq_true, decide_eq_true_eq]
      rintro ⟨hlt, hxr⟩
      obtain rfl | rfl := hw <;> obtain rfl | rfl := hx
      · exact lt_irrefl _ hlt
      · exact hne (hr.trans hxr.symm)
      · exact hne (hxr.trans hr.symm)
      · exact lt_irrefl _ hlt
  have hones (w : HostWrite) : s.loserOnes [f, p] w = 0 := State.loserOnes_of_none w hwins
  unfold State.cycleWrites
  simp only [horder]
  simp [hwins, hones, State.each, State.cycleWrite, State.contend, Function.id_def]

/-- A flush and a push that are both served. -/
theorem State.cycleWrites_flushed {m b : Master} {n : Fin 64} {y : Nat} {v w : Word} {cs : List HostWrite} {f p : HostWrite} {s : State}
    (hon : s.masterOn m = true) (hm : m.val < 4) (hb : s.masterOn b = true) (hplace : s.place b y = .reg (R.gshFifoPush n))
    (hy : y % 8 = 0) (hw : Word.get w F.gshFifoCtrl.flush = 1) (hf : f = { master := m, off := R.gshFifoCtrl n, size := 8, data := w })
    (hp : p = { master := b, off := y, size := 8, data := v }) (hcs : cs = [f, p] ∨ cs = [p, f])
    (hreach : b.val < 4 ∨ s.ownsFifo (masterPitch b) n = true) : s.cycleWrites cs = (s.newCycle.flush n).push b n v := by
  have hup : s.newCycle.up = true := State.up_of_masterOn hon
  have hserves := State.serves_of_masterOn hon
  have hctrl := s.place_gshFifoCtrl hm n
  have halign := gshFifoCtrl_aligned n
  have hfirst : s.newCycle.oneWrite f id = s.newCycle.flush n := by
    rw [hf, State.oneWrite_wide (s := s.newCycle) hctrl halign w id (hserves _),
      State.busWrite64_hook (s := s.newCycle) _ hctrl
        ((by decide +kernel : ∀ n : Fin 64, R.gshFifoCtrl n ≠ R.cfgCtrl) n) (writeHooks_gshFifoCtrl n)]
    exact if_pos hw
  have hplace' := (State.flush_place (s := s.newCycle) hup n b y).trans hplace
  have hb' := (State.flush_masterOn (s := s.newCycle) hup n b).trans hb
  have hsecond : (s.newCycle.flush n).oneWrite p id = (s.newCycle.flush n).push b n v := by
    rw [hp, State.oneWrite_wide hplace' hy v id (State.serves_of_masterOn hb' y), State.busWrite64_hook _ hplace'
        ((by decide +kernel : ∀ n : Fin 64, R.gshFifoPush n ≠ R.cfgCtrl) n) (writeHooks_gshFifoPush n)]
    exact State.onFifo_reaches _ _ hb' (hreach.imp_right (State.ownsFifo_of _ (State.flush_gshFifoCfg hup n n)).trans)
  have hwf : s.writes f = some (R.gshFifoCtrl n) := hf ▸ State.writes_reg (hserves _) halign hctrl (.inl rfl)
  have hwp : s.writes p = some (R.gshFifoPush n) := hp ▸ State.writes_reg (State.serves_of_masterOn hb y) hy hplace (.inl rfl)
  rw [State.cycleWrites_flushPush hcs (by rw [hwf]; exact cycleRank_gshFifoCtrl n) (by rw [hwp]; exact cycleRank_gshFifoPush n),
    hfirst, hsecond]

end Sys2Proof.Machine
end

section
/-! SUPPORT. PCIe (Machine/Pcie.lean): the delivery rings (R257, R296), PERST_N (R294), MSI-X (R298) and virtual functions (R293). -/

namespace Sys2Proof.Machine

/-! ### HIF_RINGn and the indices of a ring -/

/-- HIF_RINGn takes a whole word, before and after lock. -/
theorem hifRing_writable (locked : Bool) (n : Fin 64) : writable locked (R.hifRing n) (63, 0) = true :=
  (by decide +kernel : ∀ (locked : Bool) (n : Fin 64), writable locked (R.hifRing n) (63, 0) = true) locked n

theorem State.ringSet_reg (s : State) (n : Fin 64) (v : Word) : (s.ringSet n v).reg (R.hifRing n) = v := by
  have hfld := State.fld_hostWrite v (hifRing_writable s.locked n)
  unfold State.fld at hfld
  rw [Word.get_whole, Word.get_whole] at hfld
  exact BitVec.eq_of_toNat_eq hfld

theorem State.ringSet_prodIdx (s : State) (n : Nat) (v : Word) : (s.ringSet n v).prodIdx n = 0 := by
  unfold State.prodIdx State.ringSet
  exact SMap.look_put_self (0 : Nat) _ n 0

theorem State.ringSet_consIdx (s : State) (n : Nat) (v : Word) : (s.ringSet n v).consIdx n = 0 := by
  unfold State.consIdx State.ringSet
  exact SMap.look_put_self (0 : Nat) _ n 0

theorem State.ringSet_fifos (s : State) (n : Nat) (v : Word) : (s.ringSet n v).fifos = s.fifos := by
  obtain ⟨x, m, hwrite⟩ := s.hostWrite_parts (R.hifRing n) v
  show (s.hostWrite (R.hifRing n) v).fifos = _
  rw [hwrite]
  rfl

/-- P and C of every ring are as they were. -/
def SameRings (s t : State) : Prop := t.hif.ringP = s.hif.ringP ∧ t.hif.ringC = s.hif.ringC

section
variable {s t : State} (h : SameRings s t) (n : Nat)
include h

theorem SameRings.trans {u : State} (g : SameRings t u) : SameRings s u := ⟨g.1.trans h.1, g.2.trans h.2⟩

theorem SameRings.prodIdx : t.prodIdx n = s.prodIdx n := by
  unfold State.prodIdx
  rw [h.1]

theorem SameRings.consIdx : t.consIdx n = s.consIdx n := by
  unfold State.consIdx
  rw [h.2]

end

theorem SameRings.of_hif {s t : State} (h : t.hif = s.hif) : SameRings s t := by
  unfold SameRings
  rw [h]
  exact ⟨rfl, rfl⟩

theorem State.popHead_sameRings {s : State} {n : Nat} {p : Packet} {l : List Packet} (hp : (s.fifo n).packets = p :: l)
    (st : BufState) : SameRings s (s.popHead n st) := by
  have hhif : ((s.setFifo n { s.fifo n with packets := l }).setBufList p.chain st).hif = s.hif := State.setBufList_hif ..
  rw [State.popHead_eq hp]
  unfold State.driveInt
  rw [hhif]
  exact ⟨rfl, rfl⟩

/-- A message leaves the rings. -/
theorem State.fifoMsi_sameRings (s : State) (n : Nat) (ring : Bool) : SameRings s (s.fifoMsi n ring) := by
  unfold State.fifoMsi State.msi
  repeat' split
  all_goals exact ⟨rfl, rfl⟩

theorem State.fifoMsi_off {s : State} {n : Nat} (h : s.bit (R.hifRing n) F.hifRing.irq = false) (ring : Bool) :
    s.fifoMsi n ring = s := by
  unfold State.fifoMsi
  rw [if_neg (by simp [h])]

/-! ### Delivery (R296) -/

theorem State.words_of_mem {s t : State} (h : t.mem = s.mem) (a n : Nat) : t.words a n = s.words a n :=
  List.map_congr_left fun _ _ => State.word_of_bytes fun x _ _ => State.byte_of_mem h x

theorem State.readChain_of_mem {s t : State} (h : t.mem = s.mem) (l : List Nat) (n : Nat) : t.readChain l n = s.readChain l n := by
  induction l generalizing n with
  | nil => rfl
  | cons b l ih =>
    unfold State.readChain
    rw [State.words_of_mem h, ih]

section
variable (s : State) (n : Nat) (ws : List Word) (p : Nat)

/-- The words up to the end of the ring, those from its start, and P. -/
theorem State.ringEmit_out : (s.ringEmit n ws p).out =
    .pcieWrite (BitVec.ofNat 64 (s.ringBase n + 8 * (s.ringSize n - 1))) [BitVec.ofNat 64 ((p + ws.length) % (s.ringSize n - 1))] ::
      ((if ws.length ≤ s.ringSize n - 1 - p then []
        else [.pcieWrite (BitVec.ofNat 64 (s.ringBase n)) (ws.drop (s.ringSize n - 1 - p))]) ++
      (.pcieWrite (BitVec.ofNat 64 (s.ringBase n + 8 * p)) (ws.take (s.ringSize n - 1 - p)) :: s.out)) := by
  have hrest : (ws.drop (s.ringSize n - 1 - p)).isEmpty = true ↔ ws.length ≤ s.ringSize n - 1 - p := by
    rw [List.isEmpty_iff, List.drop_eq_nil_iff]
  unfold State.ringEmit
  dsimp only
  by_cases hfits : ws.length ≤ s.ringSize n - 1 - p
  · rw [if_pos (hrest.mpr hfits), if_pos hfits]
    rfl
  · rw [if_neg (fun h => hfits (hrest.mp h)), if_neg hfits]
    rfl

theorem State.ringEmit_hif :
    (s.ringEmit n ws p).hif = { s.hif with ringP := SMap.put 0 s.hif.ringP n ((p + ws.length) % (s.ringSize n - 1)) } := by
  unfold State.ringEmit
  dsimp only
  split <;> rfl

theorem State.ringEmit_prodIdx : (s.ringEmit n ws p).prodIdx n = (p + ws.length) % (s.ringSize n - 1) := by
  unfold State.prodIdx
  rw [State.ringEmit_hif]
  exact SMap.look_put_self _ _ _ _

theorem State.ringEmit_consIdx : (s.ringEmit n ws p).consIdx n = s.consIdx n := by
  unfold State.consIdx
  rw [State.ringEmit_hif]

end

/-- The state in which the words of the packet stand in the ring. -/
def State.ringed (s : State) (n : Nat) (p : Packet) : State :=
  (s.touchAll (chainAddrs p.chain p.length)).ringEmit n (s.readChain p.chain p.length) (s.prodIdx n)

section
variable {s : State} {n : Nat} {p : Packet} {l : List Packet} (hon : s.ringOn n = true) (hp : (s.fifo n).packets = p :: l)
include hon hp

omit hon in
/-- A packet that does not fit waits. -/
theorem State.ringDeliver_waits (h : s.ringRoom n < p.length) : s.ringDeliver n = s := by
  unfold State.ringDeliver
  rw [hp]
  exact if_pos (by simp [h])

theorem State.ringDeliver_bad (h : p.length ≤ s.ringRoom n) (hue : s.chainUe p.chain p.length = true) :
    s.ringDeliver n = s.ueDrop n p := by
  unfold State.ringDeliver
  rw [hp]
  dsimp only
  rw [if_neg (by simp [hon, h]), if_pos hue]

theorem State.ringDeliver_fits (h : p.length ≤ s.ringRoom n) (hue : s.chainUe p.chain p.length = false) :
    s.ringDeliver n = ((s.ringed n p).popHead n .free).fifoMsi n true := by
  have hrings : SameRings s (s.touchAll (chainAddrs p.chain p.length)) := .of_hif ((s.touchAll_keeps _).hif (.inl rfl) rfl)
  unfold State.ringDeliver
  rw [hp]
  dsimp only
  rw [if_neg (by simp [hon, h]), if_neg (by simp [hue]), State.readChain_of_mem (s.touchAll_mem _), hrings.prodIdx]
  rfl

end

section
variable (s : State) (n : Nat) (p : Packet)

theorem State.ringed_keeps : Keeps 0x2000020040004 s (s.ringed n p) :=
  State.ringEmit_step _ _ _ rfl rfl (State.touchAll_step _ rfl rfl (Keeps.refl _ s))

theorem State.ringSize_touchAll (r : List Nat) : (s.touchAll r).ringSize n = s.ringSize n := by
  unfold State.ringSize
  rw [(s.touchAll_keeps r).fld_eq (regWindow_hifRing n)]

theorem State.ringBase_touchAll (r : List Nat) : (s.touchAll r).ringBase n = s.ringBase n := by
  unfold State.ringBase
  rw [(s.touchAll_keeps r).fld_eq (regWindow_hifRing n)]

theorem State.ringed_prodIdx :
    (s.ringed n p).prodIdx n = (s.prodIdx n + (s.readChain p.chain p.length).length) % (s.ringSize n - 1) := by
  unfold State.ringed
  rw [State.ringEmit_prodIdx, State.ringSize_touchAll]

theorem State.ringed_consIdx : (s.ringed n p).consIdx n = s.consIdx n :=
  (State.ringEmit_consIdx ..).trans (SameRings.consIdx (.of_hif ((s.touchAll_keeps _).hif (.inl rfl) rfl)) n)

theorem State.ringed_out : (s.ringed n p).out =
    .pcieWrite (BitVec.ofNat 64 (s.ringBase n + 8 * (s.ringSize n - 1)))
      [BitVec.ofNat 64 ((s.prodIdx n + (s.readChain p.chain p.length).length) % (s.ringSize n - 1))] ::
      ((if (s.readChain p.chain p.length).length ≤ s.ringSize n - 1 - s.prodIdx n then []
        else [.pcieWrite (BitVec.ofNat 64 (s.ringBase n)) ((s.readChain p.chain p.length).drop (s.ringSize n - 1 - s.prodIdx n))]) ++
      (.pcieWrite (BitVec.ofNat 64 (s.ringBase n + 8 * s.prodIdx n))
        ((s.readChain p.chain p.length).take (s.ringSize n - 1 - s.prodIdx n)) :: s.out)) := by
  unfold State.ringed
  rw [State.ringEmit_out, State.ringSize_touchAll, State.ringBase_touchAll, (s.touchAll_keeps _).out (.inl rfl) rfl]

end

/-! ### Dropped packets (R257, R269) -/

/-- A packet with an uncorrectable word goes undelivered: what the drop shows. -/
structure UeDropped (s t : State) (n : Nat) (p : Packet) (l : List Packet) : Prop where
  packets : (t.fifo n).packets = l
  rings : SameRings s t
  out : t.out = s.out
  dropped : t.fld (R.gshFifoStatus n) F.gshFifoStatus.dropped = (s.fld (R.gshFifoStatus n) F.gshFifoStatus.dropped + 1) % 2 ^ 32
  overrun : t.bit (R.gshFifoStatus n) F.gshFifoStatus.overrun = true
  ueDrop : t.bit (R.gshFifoStatus n) F.gshFifoStatus.ueDrop = true

theorem State.ueDrop_shows {s : State} {n : Nat} {p : Packet} {l : List Packet} (hp : (s.fifo n).packets = p :: l) :
    UeDropped s (s.ueDrop n p) n p l := by
  have hread := RoomKept.touchAll s (chainAddrs p.chain p.length)
  have htouched := s.touchAll_keeps (chainAddrs p.chain p.length)
  have hstatus := (RegKept.touchAll (eccFree_gshFifoStatus n) s (chainAddrs p.chain p.length)).1
  unfold State.ueDrop
  generalize s.touchAll (chainAddrs p.chain p.length) = a at hread htouched hstatus
  have hpa : (a.fifo n).packets = p :: l := by rw [hread.fifo, hp]
  have hpop : Keeps 0x80040018 a (a.popHead n .free) := State.popHead_step _ _ rfl rfl (Keeps.refl _ a)
  have hfifo := State.popHead_fifo hpa .free
  have hrings := State.popHead_sameRings hpa .free
  have hregs := (State.popHead_regs hpa .free)
  generalize a.popHead n .free = b at hpop hfifo hrings hregs
  have hdrop : Keeps 0x2000000000000 b ((b.dropPacket n).setBit (R.gshFifoStatus n) F.gshFifoStatus.ueDrop true) :=
    Keeps.setBit (regWindow_gshFifoStatus n) rfl rfl (State.dropPacket_step _ rfl rfl (Keeps.refl _ b))
  have hreg : b.reg (R.gshFifoStatus n) = s.reg (R.gshFifoStatus n) := (State.reg_of_regs hregs _).trans hstatus
  refine ⟨?_, ?_, ?_, ?_, ?_, State.bit_setBit_self _ _ _ _ (by decide)⟩
  · rw [hdrop.fifo_eq, hfifo]
  · exact ((SameRings.of_hif (htouched.hif (.inl rfl) rfl)).trans hrings).trans (.of_hif (hdrop.hif (.inl rfl) rfl))
  · rw [hdrop.out (.inl rfl) rfl, hpop.out (.inl rfl) rfl, htouched.out (.inl rfl) rfl]
  · rw [State.fld_setBit_apart _ _ _ _ _ (by decide) (by decide), State.dropPacket,
      State.fld_setBit_apart _ _ _ _ _ (by decide) (by decide), State.fld_bump_self _ _ _ (by decide), State.fld_of_reg hreg]
    rfl
  · rw [State.bit_setBit_apart _ _ _ _ _ (by decide) (by decide), State.dropPacket, State.bit_setBit_self _ _ _ _ (by decide)]

/-! ### PERST_N (R294) -/

theorem State.perst_eq {s : State} (hup : s.up = true) : s.perst =
    (s.each (List.range 64) fun s n => s.setReg (R.hifRing n) 0).setHif
      { (s.each (List.range 64) fun s n => s.setReg (R.hifRing n) 0).hif with
        ringP := [], ringC := [], fetches := [], msixTab := [], msixPend := [], numVfs := 0, vfEnable := false } := by
  unfold State.perst
  rw [if_neg (by simp [hup])]

theorem State.perst_ring {s : State} (hup : s.up = true) (n : Fin 64) : s.perst.reg (R.hifRing n) = 0 := by
  rw [State.perst_eq hup, State.setHif_reg]
  refine State.each_mem (P := fun u k => u.reg (R.hifRing k) = 0) (fun u k => State.setReg_reg_self _ _ _) (fun u k j hk => ?_)
    (List.mem_range.mpr n.isLt) s
  by_cases h : R.hifRing k = R.hifRing j
  · rw [h, State.setReg_reg_self]
  · rw [State.setReg_reg_ne _ _ h, hk]

/-! ### MSI-X (R298) -/

/-- A word of a vector in the table of its function. -/
theorem State.msixWrite_pending {s : State} {fn vec : Nat} {w : Word} (hmask : w.getLsbD 32 = false)
    (hpend : SMap.look false s.hif.msixPend (64 * fn + vec) = true) : s.msixWrite fn (2 * vec + 1) w =
      (s.setHif { s.hif with
        msixTab := SMap.put (msixReset (128 * fn + (2 * vec + 1))) s.hif.msixTab (128 * fn + (2 * vec + 1)) w
        msixPend := SMap.put false s.hif.msixPend (64 * fn + vec) false }).msixSend fn vec := by
  have hvec : (2 * vec + 1) / 2 = vec := by omega
  unfold State.msixWrite
  dsimp only
  rw [hvec, if_pos ⟨by omega, by simpa using hmask, hpend⟩]
  rfl

theorem State.msixWrite_quiet {s : State} {fn vec : Nat} (w : Word)
    (hpend : SMap.look false s.hif.msixPend (64 * fn + vec) = false) : s.msixWrite fn (2 * vec + 1) w =
      s.setHif { s.hif with
        msixTab := SMap.put (msixReset (128 * fn + (2 * vec + 1))) s.hif.msixTab (128 * fn + (2 * vec + 1)) w } := by
  have hvec : (2 * vec + 1) / 2 = vec := by omega
  unfold State.msixWrite
  dsimp only
  rw [hvec, if_neg (by simp [hpend])]

theorem State.msixSend_out (s : State) (fn vec : Nat) : (s.msixSend fn vec).out =
    .msix fn vec (s.msixWord (128 * fn + 2 * vec)) ((s.msixWord (128 * fn + 2 * vec + 1)).setWidth 32) :: s.out := rfl

/-- The word of a vector with its mask bit cleared. -/
def unmasked (w : Word) : Word := w &&& ~~~0x100000000

theorem unmasked_mask (w : Word) : (unmasked w).getLsbD 32 = false := by
  unfold unmasked
  rw [BitVec.getLsbD_and]
  simp

theorem unmasked_data (w : Word) : (unmasked w).setWidth 32 = w.setWidth 32 := by
  unfold unmasked
  rw [BitVec.setWidth_and]
  exact BitVec.and_allOnes

theorem State.unmask_eq {s : State} {fn : Nat} (hup : s.up = true) (hon : s.fnOn fn = true) (vec : Nat) :
    s.unmask fn vec = s.msixWrite fn (2 * vec + 1) (unmasked (s.msixWord (128 * fn + 2 * vec + 1))) := by
  unfold State.unmask
  rw [if_neg (by simp [hup, hon])]
  rfl

/-! ### Virtual functions (R293) -/

theorem State.vfWrite_on {s : State} (hup : s.up = true) (hlink : s.hif.pcieUp = true) (k : Nat) (on : Bool) :
    s.vfWrite k on = s.setHif { s.hif with numVfs := k, vfEnable := on } := by
  unfold State.vfWrite
  rw [if_neg (by simp [hup, hlink])]

theorem State.vfWrite_off {s : State} (h : s.up = false ∨ s.hif.pcieUp = false) (k : Nat) (on : Bool) : s.vfWrite k on = s := by
  unfold State.vfWrite
  exact if_pos (by obtain h | h := h <;> simp [h])

end Sys2Proof.Machine
end

section
/-! SUPPORT. Delivery over Ethernet (Machine/Ethernet.lean): a packet that goes to the peer (R301, R305), acknowledgements (R315), and
repetition (R305). -/

namespace Sys2Proof.Machine

/-! ### Endpoints -/

theorem State.ep_setFld (s : State) (o : Nat) (f : Fld) (v q : Nat) : (s.setFld o f v).ep q = s.ep q := rfl

theorem State.ep_showWaiting (s : State) (p q : Nat) : (s.showWaiting p).ep q = s.ep q := rfl

theorem State.showWaiting_fld (s : State) (q : Nat) :
    (s.showWaiting q).fld (R.hifEpStatus q) F.hifEpStatus.waiting = (s.ep q).waiting % 2 ^ 16 :=
  State.fld_setFld_self _ _ _ _ (by decide)

theorem State.ethMtu_of {s t : State} {x : Nat} (h : t.reg (R.hifEthCfg x) = s.reg (R.hifEthCfg x)) : t.ethRoom x = s.ethRoom x := by
  unfold State.ethRoom State.ethMtu
  rw [State.fld_of_reg h]

/-! ### One packet in one datagram (R301, R305) -/

theorem packMessages_one {room : Nat} {ws : List Word} (hpos : 1 ≤ ws.length) (hroom : ws.length ≤ room) :
    packMessages room [] [ws] = [(false, ws)] := by
  have hne : ws.isEmpty = false := by
    cases ws with
    | nil => exact absurd hpos (by decide)
    | cons w l => rfl
  simp [packMessages, hroom, hne]

theorem State.ethSendAll_one {s : State} {x : Nat} {ws : List Word} (q : Nat) (hpos : 1 ≤ ws.length) (hroom : ws.length ≤ s.ethRoom x) :
    s.ethSendAll q x [ws] = s.ethSend q x false ws := by
  unfold State.ethSendAll
  rw [packMessages_one hpos hroom]
  rfl

/-- The words of a datagram before its tag. -/
def State.ethBody (s : State) (q : Nat) (ws : List Word) : List Word :=
  [BitVec.ofNat 64 (2 ^ 56 + q * 2 ^ 48), word2 s.clock.epoch.toNat (s.ep q).outNext] ++ ws

theorem State.ethSend_out (s : State) (q x : Nat) (ws : List Word) : (s.ethSend q x false ws).out =
    .eth x ((s.reg (R.hifEpPeerMac q)).setWidth 48) ((s.reg (R.hifEpPeer q)).setWidth 32)
      (BitVec.ofNat 16 (s.fld (R.hifEpPeer q) F.hifEpPeer.udp))
      (s.ethBody q ws ++ [ethTag (s.slotKey (s.fld (R.hifEpCfg q) F.hifEpCfg.keySlot)) (s.ethBody q ws)]) :: s.out := by
  have hbody : List.append [BitVec.ofNat 64 (0x01 * 2 ^ 56 + q * 2 ^ 48 + false.toNat * 2 ^ 40),
      word2 s.clock.epoch.toNat (s.ep q).outNext] ws = s.ethBody q ws := by
    simp [State.ethBody]
  unfold State.ethSend
  dsimp only
  rw [hbody]
  rfl

theorem State.ethSend_ep (s : State) (q x : Nat) (more : Bool) (ws : List Word) :
    (s.ethSend q x more ws).ep q = { s.ep q with outNext := (s.ep q).outNext + 1, port := x } :=
  State.ep_setEp_self _ _ _

/-- A FIFO with one packet, before anything is in flight. -/
theorem Gather.fifo_one {s : State} {n room window : Nat} {p : Packet} (hp : (s.fifo n).packets = [p])
    (hue : s.chainUe p.chain p.length = false) (hwindow : 1 ≤ window) :
    Gather.fifo room window n 1 { s := s, msgs := [], flight := [], full := false } =
      { s := s.touchAll (chainAddrs p.chain p.length), msgs := [s.readChain p.chain p.length], flight := [(n, 1)],
        full := decide (room < p.length) } := by
  have hput : SMap.put 0 [] n 1 = [(n, 1)] := by simp [SMap.put, SMap.ins]
  have hlook : SMap.look 0 ([] : SMap Nat) n = 0 := rfl
  unfold Gather.fifo
  simp only [hlook, hp, List.getElem?_cons_zero, hue]
  rw [if_neg (by simp; omega)]
  simp only [Bool.false_eq_true, if_false, Gather.fifo, Gather.take, Nat.zero_add, hput]
  rw [if_neg (by simp), State.readChain_of_mem (s.touchAll_mem _)]
  rfl

/-- The state in which the packet is in flight, before its datagram goes out. -/
def State.inFlight (s : State) (q n : Nat) (p : Packet) : State :=
  (s.touchAll (chainAddrs p.chain p.length)).setEp q { s.ep q with flight := [(n, 1)], sends := 1, lastTx := s.now }

theorem State.inFlight_keeps (s : State) (q n : Nat) (p : Packet) : Keeps 0x2000000040004 s (s.inFlight q n p) :=
  State.setEp_step _ _ rfl rfl (State.touchAll_step _ rfl rfl (Keeps.refl _ s))

theorem State.inFlight_ep (s : State) (q n : Nat) (p : Packet) :
    (s.inFlight q n p).ep q = { s.ep q with flight := [(n, 1)], sends := 1, lastTx := s.now } :=
  State.ep_setEp_self _ _ _

theorem State.inFlight_body (s : State) (q n : Nat) (p : Packet) (ws : List Word) : (s.inFlight q n p).ethBody q ws = s.ethBody q ws := by
  unfold State.ethBody
  rw [State.inFlight_ep, (s.inFlight_keeps q n p).clock (.inl rfl) rfl]

theorem State.ethTransmit_one {s : State} {q x n : Nat} {p : Packet} (hon : s.epOn q = true) (hport : s.epPort q x = true)
    (hlink : s.ethUp x = true) (hfifos : s.ethFifos q = [n]) (hp : (s.fifo n).packets = [p]) (hflight : (s.ep q).flight = [])
    (hue : s.chainUe p.chain p.length = false) (hlength : (s.readChain p.chain p.length).length = p.length) (hpos : 1 ≤ p.length)
    (hroom : p.length ≤ s.ethRoom x) :
    s.ethTransmit q x = ((s.inFlight q n p).ethSend q x false (s.readChain p.chain p.length)).showWaiting q := by
  have hwaiting : (s.ep q).waiting = 0 := by
    unfold Endpoint.waiting
    rw [hflight]
    rfl
  have hep : (s.touchAll (chainAddrs p.chain p.length)).ep q = s.ep q := State.ep_of_hif ((s.touchAll_keeps _).hif (.inl rfl) rfl) q
  have hmtu := State.ethMtu_of ((s.inFlight_keeps q n p).reg_eq (regWindow_hifEthCfg x))
  have hgather := Gather.fifo_one (room := s.ethRoom x) hp hue
    (le_max_left 1 (s.fld (R.hifEpCfg q) F.hifEpCfg.window))
  unfold State.ethTransmit
  rw [if_neg (by simp [hon, hport, hlink])]
  simp only [hfifos, hflight, List.foldl_cons, List.foldl_nil, hp, List.length_singleton, hgather, List.isEmpty_cons,
    Bool.false_eq_true, if_false, hwaiting, decide_true, if_true, hep]
  refine congrArg (State.showWaiting · q) (State.ethSendAll_one q (by rw [hlength]; exact hpos) ?_)
  rw [hlength]
  exact hroom.trans_eq hmtu.symm

/-! ### Pops of several packets -/

theorem State.popHead_nil {s : State} {n : Nat} (h : (s.fifo n).packets = []) (st : BufState) : s.popHead n st = s := by
  unfold State.popHead
  rw [h]

/-- A pop leaves the registers and the endpoints, and drops the first packet. -/
theorem State.popHead_leaves (s : State) (n : Nat) (st : BufState) : ((s.popHead n st).fifo n).packets = (s.fifo n).packets.drop 1 ∧
    (s.popHead n st).regs = s.regs ∧ (s.popHead n st).hif.eps = s.hif.eps := by
  cases hp : (s.fifo n).packets with
  | nil =>
    rw [State.popHead_nil hp, hp]
    exact ⟨rfl, rfl, rfl⟩
  | cons p l =>
    refine ⟨by rw [State.popHead_fifo hp]; rfl, State.popHead_regs hp st, ?_⟩
    have hhif : ((s.setFifo n { s.fifo n with packets := l }).setBufList p.chain st).hif = s.hif := State.setBufList_hif ..
    rw [State.popHead_eq hp]
    unfold State.driveInt
    rw [hhif]
    rfl

theorem State.popMany_leaves (s : State) (n k : Nat) : ((s.popMany n k).fifo n).packets = (s.fifo n).packets.drop k ∧
    (s.popMany n k).regs = s.regs ∧ (s.popMany n k).hif.eps = s.hif.eps := by
  induction k generalizing s with
  | zero => exact ⟨rfl, rfl, rfl⟩
  | succ k ih =>
    obtain ⟨hpackets, hregs, heps⟩ := ih (s.popHead n .free)
    obtain ⟨hpackets', hregs', heps'⟩ := s.popHead_leaves n .free
    refine ⟨hpackets.trans ?_, hregs.trans hregs', heps.trans heps'⟩
    rw [hpackets', List.drop_drop, Nat.add_comm]

theorem State.popMany_ep (s : State) (n k q : Nat) : (s.popMany n k).ep q = s.ep q := by
  unfold State.ep
  rw [(s.popMany_leaves n k).2.2]

/-! ### Acknowledgements (R315) -/

theorem State.popInbox_mem (s : State) (q : Nat) : (s.popInbox q).mem = s.mem := by
  unfold State.popInbox
  dsimp only
  split
  · rfl
  · exact (State.mem_setBufList ..).trans (s.touchAll_mem _)

theorem State.popInbox_flight (s : State) (q : Nat) : ((s.popInbox q).ep q).flight = (s.ep q).flight := by
  unfold State.popInbox
  dsimp only
  rw [State.ep_setEp_self]
  split
  · rfl
  · rw [State.ep_of_hif]
    exact (State.setBufList_step (msk := 0x200008000000C) _ _ rfl rfl
      (State.touchAll_step _ rfl rfl (Keeps.refl _ s))).hif (.inl rfl) rfl

theorem State.acked_of_mem {s t : State} (h : t.mem = s.mem) (seq : BitVec 32) (k : Nat) (l : List Packet) :
    t.acked seq k l = s.acked seq k l := by
  have hseq (p : Packet) : t.packetSeq p = s.packetSeq p := by
    unfold State.packetSeq
    rw [State.word_of_bytes fun x _ _ => State.byte_of_mem h x]
  induction k generalizing l with
  | zero => rfl
  | succ k ih =>
    cases l with
    | nil => rfl
    | cons p l =>
      unfold State.acked
      rw [hseq, ih]

/-- k packets of FIFO n, of those in flight, are acknowledged. -/
def State.acknowledge (s : State) (q n flying k now : Nat) : State :=
  if k = 0 then s
  else (s.setEp q { s.ep q with flight := SMap.put 0 (s.ep q).flight n (flying - k), sends := 1, lastTx := now }).showWaiting q

theorem State.acknowledge_fifo (s : State) (q n flying k now : Nat) : (s.acknowledge q n flying k now).fifo n = s.fifo n := by
  unfold State.acknowledge
  split <;> rfl

theorem State.acknowledge_inbox (s : State) (q n flying k now : Nat) :
    ((s.acknowledge q n flying k now).ep q).inbox = (s.ep q).inbox := by
  unfold State.acknowledge
  split
  · rfl
  · rw [State.ep_showWaiting, State.ep_setEp_self]

theorem State.acknowledge_flight {s : State} {q n flying : Nat} (h : SMap.look 0 (s.ep q).flight n = flying) (k now : Nat) :
    SMap.look 0 ((s.acknowledge q n flying k now).ep q).flight n = flying - k := by
  unfold State.acknowledge
  split
  · next hk => rw [h, hk, Nat.sub_zero]
  · rw [State.ep_showWaiting, State.ep_setEp_self]
    exact SMap.look_put_self _ _ _ _

section
variable {s : State} {q x : Nat} {ws : List Word} (hfirst : s.firstMessage q 0x1F = some (x, ws))
include hfirst

/-- An ACK with an uncorrectable word is taken from the endpoint alone. -/
theorem State.ackMsg_unread (hue : s.inboxUe q = true) : s.ackMsg q = s.popInbox q := by
  unfold State.ackMsg
  rw [hfirst]
  exact if_pos hue

theorem State.ackMsg_read (hue : s.inboxUe q = false) (hpitch : bf ws 0 55 48 = q) (hlength : ws.length = 3)
    (howns : s.ownsFifo q (bf ws 2 63 58) = true) {n flying k : Nat} (hn : n = bf ws 2 63 58)
    (hflying : flying = SMap.look 0 (s.ep q).flight n)
    (hk : k = s.acked (BitVec.ofNat 32 (bf ws 2 31 0)) flying (s.fifo n).packets) :
    s.ackMsg q = ((s.popInbox q).popMany n k).acknowledge q n flying k s.now := by
  have hcfg := (RegKept.popInbox (eccFree_gshFifoCfg (bf ws 2 63 58)) s q).1
  have hfifo : (s.popInbox q).fifo n = s.fifo n := (s.popInbox_keeps q).fifo_eq n
  have hacked := State.acked_of_mem (s.popInbox_mem q) (BitVec.ofNat 32 (bf ws 2 31 0)) flying (s.fifo n).packets
  unfold State.ackMsg
  rw [hfirst]
  dsimp only
  rw [if_neg (by simp [hue]), if_neg (by simp [hpitch]), if_neg (by simp [hlength, State.ownsFifo_of q hcfg, howns]), ← hn,
    State.popInbox_flight, ← hflying, hfifo, hacked, ← hk]
  rfl

end

/-! ### Repetition (R305) -/

section
variable {s : State} {q : Nat} (hon : s.epOn q = true) (hwaiting : (s.ep q).waiting ≠ 0)
include hon hwaiting

omit hon hwaiting in
theorem State.ethTimeout_early (h : s.now < (s.ep q).lastTx + msTicks (max 1 (s.fld (R.hifEpCfg q) F.hifEpCfg.retxMs))) :
    s.ethTimeout q = s := by
  unfold State.ethTimeout
  exact if_pos (by simp [h])

variable (hdue : (s.ep q).lastTx + msTicks (max 1 (s.fld (R.hifEpCfg q) F.hifEpCfg.retxMs)) ≤ s.now)
include hdue

theorem State.ethTimeout_resends {x : Nat} (hsends : (s.ep q).sends < 8) (hport : s.resendPort q = some x) :
    s.ethTimeout q = s.ethResend q x := by
  unfold State.ethTimeout
  simp [hon, hwaiting, Nat.not_lt.mpr hdue, Nat.not_le.mpr hsends, hport]

theorem State.ethTimeout_loses (hsends : 8 ≤ (s.ep q).sends) : s.ethTimeout q = s.ethLose q := by
  unfold State.ethTimeout
  simp [hon, hwaiting, Nat.not_lt.mpr hdue, hsends]

end

/-- The endpoint has sent as often, and as late. -/
def SameTimer (q : Nat) (s t : State) : Prop := (t.ep q).sends = (s.ep q).sends ∧ (t.ep q).lastTx = (s.ep q).lastTx

/-- Datagrams leave the timer of their endpoint. -/
theorem State.ethSendAll_timer (s : State) (q x : Nat) (ms : List (List Word)) : SameTimer q s (s.ethSendAll q x ms) := by
  refine List.foldlRecOn (motive := SameTimer q s) (packMessages (s.ethRoom x) [] ms) _ ⟨rfl, rfl⟩ fun u hu d _ => ?_
  unfold SameTimer
  rw [State.ethSend_ep]
  exact hu

theorem State.ethResend_timer (s : State) (q x : Nat) :
    ((s.ethResend q x).ep q).sends = (s.ep q).sends + 1 ∧ ((s.ethResend q x).ep q).lastTx = s.now := by
  unfold State.ethResend
  dsimp only
  rw [State.ep_showWaiting]
  obtain ⟨hsends, hlast⟩ := State.ethSendAll_timer (State.setEp _ q _) q x _
  rw [hsends, hlast, State.ep_setEp_self]
  exact ⟨rfl, rfl⟩

/-- After the last send: the packets in flight are popped. -/
def State.unsent (s : State) (q : Nat) : State := s.each (s.ep q).flight fun s f => s.popMany f.1 f.2

theorem State.unsent_regs (s : State) (q : Nat) : (s.unsent q).regs = s.regs :=
  State.each_eq (f := fun s (f : Nat × Nat) => s.popMany f.1 f.2) State.regs (fun u f => (u.popMany_leaves f.1 f.2).2.1) s _

/-- What an endpoint shows that gives its packets up. -/
structure GivenUp (s t : State) (q : Nat) : Prop where
  flight : (t.ep q).flight = []
  lost : t.fld (R.hifEpStatus q) F.hifEpStatus.lost = (s.fld (R.hifEpStatus q) F.hifEpStatus.lost + (s.ep q).waiting) % 2 ^ 32
  waiting : t.fld (R.hifEpStatus q) F.hifEpStatus.waiting = 0
  peerLost : t.bit (R.hifEpStatus q) F.hifEpStatus.peerLost = true

theorem State.ethLose_shows (s : State) (q : Nat) : GivenUp s (s.ethLose q) q := by
  have hep (u : State) (v : Nat) : ((((u.setEp q { u.ep q with flight := [], sends := 0 }).setFld (R.hifEpStatus q) F.hifEpStatus.lost v).setBit
      (R.hifEpStatus q) F.hifEpStatus.peerLost true).ep q) = { u.ep q with flight := [], sends := 0 } := by
    rw [State.ep_of_hif (State.setBit_hif ..), State.ep_setFld, State.ep_setEp_self]
  have hlost : ((s.unsent q).setEp q { (s.unsent q).ep q with flight := [], sends := 0 }).fld (R.hifEpStatus q) F.hifEpStatus.lost =
      s.fld (R.hifEpStatus q) F.hifEpStatus.lost :=
    State.fld_of_reg ((State.setEp_reg _ _ _ _).trans (State.reg_of_regs (s.unsent_regs q) _)) _
  unfold State.ethLose
  dsimp only
  refine ⟨?_, ?_, ?_, ?_⟩
  · rw [State.ep_showWaiting, hep]
  · unfold State.showWaiting
    rw [State.fld_setFld_apart _ _ _ _ _ (by decide) (by decide), State.fld_setBit_apart _ _ _ _ _ (by decide) (by decide),
      State.fld_setFld_self _ _ _ _ (by decide)]
    exact congrArg (fun v => (v + (s.ep q).waiting) % 2 ^ 32) hlost
  · rw [State.showWaiting_fld, hep]
    rfl
  · unfold State.showWaiting
    rw [State.bit_setFld_apart _ _ _ _ _ (by decide) (by decide), State.bit_setBit_self _ _ _ _ (by decide)]

/-! ### Links -/

theorem State.linkDown_up {s : State} (hup : s.up = true) (x : Nat) :
    s.linkDown x = s.setFld (R.hifEthStatus x) F.hifEthStatus.speed 0 := if_pos hup

theorem State.linkUp_up {s : State} {x speed : Nat} (hup : s.up = true) (hscan : s.boot.scanHeld = false)
    (hon : s.bit (R.hifEthCfg x) F.hifEthCfg.enable = true) (hpos : 1 ≤ speed) (hmax : speed ≤ 4) :
    s.linkUp x speed = s.setFld (R.hifEthStatus x) F.hifEthStatus.speed speed := by
  unfold State.linkUp
  rw [if_neg (by simp [hup, hscan, hon]; omega)]

end Sys2Proof.Machine
end

section
/-! SUPPORT. Steps 1 to 5 of the reset sequence (Machine/Boot.lean; R260, R335, R341, R357, R358, R369). -/

namespace Sys2Proof.Machine

/-! ### The steps in their order (R357) -/

section
variable {s : State} {q : ResetSeq} (hseq : s.boot.seq = some q) (i : BootInput)
include hseq

theorem State.stepDone_held (h : q.held ≠ []) : s.stepDone i = s := by
  unfold State.stepDone
  rw [hseq]
  exact if_pos (by simpa using h)

variable (hheld : q.held = [])
include hheld

theorem State.stepDone_step1 (h : q.step = 0) : s.stepDone i = s.setBoot { s.boot with seq := some { q with step := 1 } } := by
  unfold State.stepDone
  simp [hseq, hheld, h]

theorem State.stepDone_step2 (h : q.step = 1) : s.stepDone i = s.setBoot { s.boot with seq := some { q with step := 2 } } := by
  unfold State.stepDone
  simp [hseq, hheld, h]

theorem State.stepDone_step3 (h : q.step = 2) :
    s.stepDone i = (s.setBoot { s.boot with seq := some { q with step := 3 } }).sampleStraps q.samples i.straps := by
  unfold State.stepDone
  simp [hseq, hheld, h]

theorem State.stepDone_step4 (h : q.cold = true ∧ q.step = 3 ∨ q.cold = false ∧ q.step = 5) : s.stepDone i = s.step4 q i := by
  unfold State.stepDone
  obtain ⟨hcold, h⟩ | ⟨hcold, h⟩ := h <;> simp [hseq, hheld, h, hcold]

theorem State.stepDone_step5 (h : q.cold = true ∧ q.step = 4 ∨ q.cold = false ∧ q.step = 3) : s.stepDone i = s.step5 q i := by
  unfold State.stepDone
  obtain ⟨hcold, h⟩ | ⟨hcold, h⟩ := h <;> simp [hseq, hheld, h, hcold]

theorem State.stepDone_step6 (h : q.cold = true ∧ q.step = 5 ∨ q.cold = false ∧ q.step = 4) : s.stepDone i = s.step6 q i := by
  unfold State.stepDone
  obtain ⟨hcold, h⟩ | ⟨hcold, h⟩ := h <;> simp [hseq, hheld, h, hcold]

theorem State.stepDone_step7 (h : q.step = 6) : s.stepDone i = s.step7 q i := by
  unfold State.stepDone
  simp [hseq, hheld, h]

theorem State.stepDone_step8 (h : q.step = 7) : s.stepDone i = s.setBoot { s.boot with seq := some { q with step := 8 } } := by
  unfold State.stepDone
  simp [hseq, hheld, h]

theorem State.stepDone_ready (h : q.step = 8) : s.stepDone i = s.makeReady q := by
  unfold State.stepDone
  simp [hseq, hheld, h]

end

/-! ### Step 3: the straps (R358) -/

theorem SMap.find_ins {α : Type} (m : List (Nat × α)) (q : Nat) (x : α) (k : Nat) :
    SMap.find (SMap.ins q x m) k = if k = q then some x else SMap.find m k := by
  induction m with
  | nil => simp [SMap.ins, SMap.find]
  | cons y m ih =>
    simp only [SMap.ins]
    split
    · simp [SMap.find]
    · split <;> simp only [SMap.find, ih] <;> split_ifs <;> first | rfl | omega

theorem SMap.find_del {α : Type} (m : List (Nat × α)) (q k : Nat) :
    SMap.find (SMap.del q m) k = if k = q then none else SMap.find m k := by
  induction m with
  | nil => simp [SMap.del, SMap.find]
  | cons y m ih =>
    simp only [SMap.del]
    split <;> simp only [SMap.find, ih] <;> split_ifs <;> first | rfl | omega

/-- What the outside is seen to give a ball. -/
def sampled (v : List (Option Bool)) (m : SMap Bool) (n : Nat) : SMap Bool :=
  match v.getD n none with
  | some b => SMap.ins n b m
  | none => SMap.del n m

theorem find_sampled (v : List (Option Bool)) (m : SMap Bool) (n k : Nat) :
    SMap.find (sampled v m n) k = if k = n then v.getD n none else SMap.find m k := by
  unfold sampled
  cases hv : v.getD n none with
  | some b => exact SMap.find_ins ..
  | none => exact SMap.find_del ..

theorem find_sampled_all (v : List (Option Bool)) (m : SMap Bool) {n : Nat} (h : n < 4) :
    SMap.find ([0, 1, 2, 3].foldl (sampled v) m) n = v.getD n none := by
  simp only [List.foldl_cons, List.foldl_nil, find_sampled]
  split_ifs <;> first | (subst_vars; rfl) | omega

/-- The word of four levels. -/
def strapWord (level : Nat → Bool) : Word := BitVec.ofNat 64 (([0, 1, 2, 3] : List Nat).map fun n => (level n).toNat * 2 ^ n).sum

theorem strapWord_bit (level : Nat → Bool) {n : Nat} (h : n < 64) : (strapWord level).getLsbD n = (decide (n < 4) && level n) := by
  have hfour (a b c d : Bool) : ([a.toNat * 2 ^ 0, b.toNat * 2 ^ 1, c.toNat * 2 ^ 2, d.toNat * 2 ^ 3] : List Nat).sum < 2 ^ 4 ∧
      ∀ k : Fin 4, Nat.testBit ([a.toNat * 2 ^ 0, b.toNat * 2 ^ 1, c.toNat * 2 ^ 2, d.toNat * 2 ^ 3] : List Nat).sum k =
        ![a, b, c, d] k := by revert a b c d; decide
  obtain ⟨hlt, hbits⟩ := hfour (level 0) (level 1) (level 2) (level 3)
  unfold strapWord
  rw [BitVec.getLsbD_ofNat, decide_eq_true h, Bool.true_and]
  by_cases hn : n < 4
  · refine (hbits ⟨n, hn⟩).trans ?_
    rw [decide_eq_true hn, Bool.true_and]
    interval_cases n <;> rfl
  · rw [decide_eq_false hn, Bool.false_and]
    exact Nat.testBit_lt_two_pow (hlt.trans_le (Nat.pow_le_pow_right (by decide) (Nat.le_of_not_lt hn)))

/-- RST_STRAPS is no part of what a ball shows. -/
theorem State.ballLevel_setStraps (s : State) (w : Word) (n : Nat) : (s.setReg R.rstStraps w).ballLevel n = s.ballLevel n := by
  have hout : (s.setReg R.rstStraps w).reg R.cabGpioOut = s.reg R.cabGpioOut := State.setReg_reg_ne _ _ (by decide)
  have hinhibit : (s.setReg R.rstStraps w).inhibited = s.inhibited := State.bit_of_reg (State.setReg_reg_ne _ _ (by decide)) _
  have hcfg : (s.setReg R.rstStraps w).cfgReg (R.cabGpioCfg n) = s.cfgReg (R.cabGpioCfg n) := by
    have hne : R.cabGpioCfg n ≠ R.rstStraps := fun h => absurd ((congrArg regWindow h).symm.trans (regWindow_cabGpioCfg n)) (by decide)
    unfold State.cfgReg
    rw [State.setReg_reg_ne _ _ hne]
    rfl
  have hopen : (s.setReg R.rstStraps w).ballOpen n = s.ballOpen n := by
    unfold State.ballOpen State.cfg
    rw [hcfg]
    rfl
  have hdriven : (s.setReg R.rstStraps w).ballDriven n = s.ballDriven n := by
    unfold State.ballDriven State.ballFunc State.cfg
    rw [hcfg, hout, hinhibit]
    rfl
  unfold State.ballLevel State.ballScan
  rw [hopen, hdriven]
  rfl

/-- The balls as they are sampled. -/
def State.seen (s : State) (v : List (Option Bool)) : State :=
  s.setCab { s.cab with ext := [0, 1, 2, 3].foldl (sampled v) s.cab.ext }

theorem State.sampleStraps_samples (s : State) (v : List (Option Bool)) :
    s.sampleStraps true v = (s.seen v).setReg R.rstStraps (strapWord (s.seen v).ballLevel) := rfl

/-- The straps show the levels of GP0 to GP3, as the outside gives them. -/
theorem State.sampleStraps_shows (s : State) (v : List (Option Bool)) {n : Nat} (h : n < 64) :
    ((s.sampleStraps true v).reg R.rstStraps).getLsbD n = (decide (n < 4) && (s.sampleStraps true v).ballLevel n) ∧
      (n < 4 → SMap.find (s.sampleStraps true v).cab.ext n = v.getD n none) := by
  rw [State.sampleStraps_samples]
  refine ⟨?_, fun hn => find_sampled_all v s.cab.ext hn⟩
  rw [State.setReg_reg_self, strapWord_bit _ h, State.ballLevel_setStraps]

/-! ### Step 4: Groundsheet and the start-up calibration (R260, R335) -/

/-- An update that changes the state for one element alone. -/
theorem State.each_single {α : Type} {f : State → α → State} {x : α} {l : List α} (hnodup : l.Nodup) (hx : x ∈ l)
    (hother : ∀ y ∈ l, y ≠ x → ∀ u, f u y = u) (s : State) : s.each l f = f s x := by
  have hnone (l : List α) (u : State) (h : ∀ y ∈ l, ∀ u, f u y = u) : u.each l f = u :=
    List.foldlRecOn (motive := (· = u)) l f rfl fun v hv y hy => (h y hy v).trans hv
  induction l generalizing s with
  | nil => cases hx
  | cons y l ih =>
    obtain ⟨hy, hl⟩ := List.nodup_cons.mp hnodup
    show (f s y).each l f = f s x
    by_cases hyx : y = x
    · subst hyx
      exact hnone l _ fun z hz => hother z (List.mem_cons_of_mem _ hz) fun h => hy (h ▸ hz)
    · rw [hother y List.mem_cons_self hyx]
      exact ih hl ((List.mem_cons.mp hx).resolve_left fun h => hyx h.symm) (fun z hz => hother z (List.mem_cons_of_mem _ hz)) s

theorem allSlices_nodup : allSlices.Nodup := by decide +kernel

theorem State.compareCal_agrees {c : CalRun} (h : firstDisagreement (kindOf c.slice) c.a c.b = none) (s : State) :
    s.compareCal c = s := by
  unfold State.compareCal
  rw [h]

theorem State.compareCal_differs {c : CalRun} {x : Nat} {y z : Int} (h : firstDisagreement (kindOf c.slice) c.a c.b = some (x, y, z))
    (s : State) : s.compareCal c = s.failSlice c.slice 6 [BitVec.ofInt 64 y, BitVec.ofInt 64 z] := by
  unfold State.compareCal
  rw [h]

/-- The state in which the runs of the start-up calibration are compared. -/
def State.calEnds (s : State) (q : ResetSeq) (i : BootInput) : State :=
  (if q.cold then (s.setMem []).setEcc [] else s).setBoot
    { s.boot with seq := some { q with step := 4, zeroed := q.zeroed || q.cold, cal := i.cal } }

theorem State.step4_eq (s : State) (q : ResetSeq) (i : BootInput) :
    s.step4 q i = (s.calEnds q i).each allSlices fun s n => s.compareCal (calOf i.cal n) := by
  unfold State.step4 State.calEnds
  split <;> rfl

theorem State.step4_boot (s : State) (q : ResetSeq) (i : BootInput) : (s.step4 q i).boot =
    { s.boot with seq := some { q with step := 4, zeroed := q.zeroed || q.cold, cal := i.cal } } := by
  rw [State.step4_eq]
  exact (Keeps.each (w := 0x31228320621463DC) rfl (Keeps.refl _ _) fun u n =>
    State.compareCal_step _ rfl rfl (Keeps.refl _ u)).boot (.inl rfl) rfl

theorem State.calEnds_eq (s : State) (q : ResetSeq) (i : BootInput) :
    s.calEnds q i = (if q.cold then (s.setMem []).setEcc [] else s).setBoot (s.step4 q i).boot := by
  rw [State.step4_boot]
  rfl

/-! ### Step 5: the logbook and the epoch (R341, R369) -/

theorem State.step5_seq (s : State) (q : ResetSeq) (i : BootInput) :
    (s.step5 q i).boot.seq = some { q with step := 5, epoch := (s.logScan i.sfdp).2, sfdp := i.sfdp } := rfl

/-- Without an EPOCH record the epoch follows the always-on one, and no serial is too low. -/
theorem State.logScan_unlogged {s : State} {sfdp : Bool} (h : sfdp = false ∨ newestType s.logRecords 0x01 = none) :
    (s.logScan sfdp).2 = s.clock.aonEpoch + 1 ∧ (s.logScan sfdp).1.boot.floor = 0 := by
  have hnone : newestType (if sfdp then s.logRecords else []) 0x01 = none := by
    obtain rfl | h := h
    · rfl
    · split
      · exact h
      · rfl
  unfold State.logScan
  dsimp only
  rw [hnone]
  refine ⟨?_, by rw [State.setBit_boot]; rfl⟩
  dsimp only
  split
  · rfl
  · next hpos =>
    have hzero : s.clock.aonEpoch = 0 := BitVec.eq_of_toNat_eq (Nat.eq_zero_of_not_pos hpos)
    rw [hzero]

/-- The newest EPOCH record gives the epoch and the floor. -/
theorem State.logScan_logged {s : State} {ws : List Word} (h : newestType s.logRecords 0x01 = some ws) :
    (s.logScan true).2.toNat = (max s.clock.aonEpoch.toNat (bf ws 1 63 32) + 1) % 2 ^ 32 ∧
      (s.logScan true).1.boot.floor.toNat = bf ws 2 31 0 := by
  have hepoch : (((ws.getD 1 0) >>> 32).setWidth 32 : BitVec 32).toNat = bf ws 1 63 32 := by
    show ((ws.getD 1 0) >>> 32).toNat % 2 ^ 32 = (ws.getD 1 0).toNat / 2 ^ 32 % 2 ^ 32
    rw [BitVec.toNat_ushiftRight, Nat.shiftRight_eq_div_pow]
  unfold State.logScan
  dsimp only
  rw [if_pos rfl, h]
  constructor
  · rw [BitVec.toNat_add, ← hepoch]
    refine congrArg (fun n => (n + 1) % 2 ^ 32) ?_
    dsimp only
    split
    · next hlt => exact (max_eq_left hlt.le).symm
    · next hge => exact (max_eq_right (Nat.le_of_not_lt hge)).symm
  · show ((ws.getD 2 0).setWidth 32 : BitVec 32).toNat = (ws.getD 2 0).toNat / 2 ^ 0 % 2 ^ 32
    rw [BitVec.toNat_setWidth, Nat.pow_zero, Nat.div_one]

/-- A logbook that cannot be read shows: the AVS code is 28, and no_log is set. -/
theorem State.logScan_unread (s : State) : (s.logScan false).1.fld R.hltAvs F.hltAvs.code = 28 ∧
    (s.logScan false).1.bit R.cfgStatus F.cfgStatus.noLog = true := by
  unfold State.logScan
  dsimp only
  refine ⟨?_, State.bit_setBit_self _ _ _ _ (by decide)⟩
  rw [State.fld_setBit_ne _ _ _ _ (by decide), State.fld_setFld_apart _ _ _ _ _ (by decide) (by decide),
    State.fld_setFld_self _ _ _ _ (by decide)]
  rfl

end Sys2Proof.Machine
end

section
/-! SUPPORT. The sources of an image (Machine/Boot.lean; R357, R358, R363, R364). -/

namespace Sys2Proof.Machine

/-! ### Codes -/

theorem structCode_lt (img : Option (List Word)) : structCode img < 16 := by
  unfold structCode
  split
  · decide
  · split <;> decide

theorem State.imageCode_lt (s : State) (img : Option (List Word)) : s.imageCode img < 16 := by
  unfold State.imageCode
  split
  · decide
  · repeat' split
    all_goals decide

/-! ### An image that fails (R363) -/

section
variable (s : State) (code src serial : Nat)

theorem State.imageFail_keeps : Keeps 0x1000100000 s (s.imageFail code src serial) :=
  State.imageFail_step _ _ _ rfl rfl (Keeps.refl _ s)

theorem State.imageFail_boot : (s.imageFail code src serial).boot = s.boot := (s.imageFail_keeps code src serial).boot (.inl rfl) rfl

theorem State.imageFail_reg {o : Nat} (h : o ≠ R.cfgStatus) (hw : regWindow o = 4) : (s.imageFail code src serial).reg o = s.reg o := by
  have hlog : Keeps 0x100000 (s.setFld R.cfgStatus F.cfgStatus.result code) (s.imageFail code src serial) := by
    unfold State.imageFail
    exact State.logRec_step _ _ rfl rfl (Keeps.refl _ _)
  exact (hlog.reg_eq hw).trans (State.setFld_reg_ne _ _ _ h)

theorem State.imageFail_result {code : Nat} (h : code < 16) :
    (s.imageFail code src serial).fld R.cfgStatus F.cfgStatus.result = code := by
  have hlog : Keeps 0x100000 (s.setFld R.cfgStatus F.cfgStatus.result code) (s.imageFail code src serial) := by
    unfold State.imageFail
    exact State.logRec_step _ _ rfl rfl (Keeps.refl _ _)
  rw [hlog.fld_eq regWindow_cfgStatus, State.fld_setFld_self _ _ _ _ (by decide)]
  exact Nat.mod_eq_of_lt h

end

/-! ### The staging area (R357, R364) -/

theorem State.stageImage_boot (s : State) (ws : List Word) : (s.stageImage ws).boot = { s.boot with staged := ws } := rfl

theorem State.stageImage_words (s : State) (ws : List Word) : (s.stageImage ws).fld R.cfgStagePtr F.cfgStagePtr.words =
    ws.length % 2 ^ (F.cfgStagePtr.words.1 + 1 - F.cfgStagePtr.words.2) :=
  State.fld_setFld_self _ _ _ _ (by decide)

theorem State.stageImage_result (s : State) (ws : List Word) :
    (s.stageImage ws).fld R.cfgStatus F.cfgStatus.result = s.fld R.cfgStatus F.cfgStatus.result :=
  State.fld_setFld_ne _ _ _ _ (by decide)

/-- A source has been read into the staging area, and its structure is wrong. -/
def State.tried (s : State) (img : Option (List Word)) (src : Nat) : State :=
  (s.stageImage (img.getD [])).imageFail (structCode img) src (imageSerial (img.getD []))

section
variable (s : State) (img : Option (List Word)) (src : Nat)

theorem State.tried_boot : (s.tried img src).boot = { s.boot with staged := img.getD [] } :=
  (State.imageFail_boot ..).trans (s.stageImage_boot _)

theorem State.tried_result : (s.tried img src).fld R.cfgStatus F.cfgStatus.result = structCode img :=
  State.imageFail_result _ _ _ (structCode_lt img)

theorem State.tried_words : (s.tried img src).fld R.cfgStagePtr F.cfgStagePtr.words =
    (img.getD []).length % 2 ^ (F.cfgStagePtr.words.1 + 1 - F.cfgStagePtr.words.2) :=
  (State.fld_of_reg (State.imageFail_reg _ _ _ _ (by decide) (by decide)) _).trans (s.stageImage_words _)

theorem State.tried_flash : (s.tried img src).flash = s.flash :=
  (State.imageFail_keeps ..).flash (.inl rfl) rfl

end

/-! ### The sources in their order (R358) -/

/-- The slots and the EEPROM are not in the staging area. -/
theorem State.sourceImage_of_flash {s t : State} (h : t.flash = s.flash) (sfdp : Bool) (eeprom : List Word) {src : Nat} (hsrc : src < 3) :
    t.sourceImage sfdp eeprom src = s.sourceImage sfdp eeprom src := by
  have hword (a : Nat) : t.flashWord a = s.flashWord a := by
    unfold State.flashWord State.flashBytes State.flashByte
    rw [h]
  unfold State.sourceImage
  simp only [hword]
  interval_cases src <;> rfl

section
variable (s : State) (sfdp : Bool) (eeprom : List Word) (src : Nat) (l : List Nat)

/-- The first source whose structure is right is kept. -/
theorem State.trySources_found (h : structCode (s.sourceImage sfdp eeprom src) = 1) : s.trySources sfdp eeprom (src :: l) =
    (s.stageImage ((s.sourceImage sfdp eeprom src).getD [])).setBoot
      { s.boot with staged := (s.sourceImage sfdp eeprom src).getD [], image := (s.sourceImage sfdp eeprom src).map fun ws => (ws, src) } := by
  unfold State.trySources
  dsimp only
  rw [codeOk, if_pos h]
  rfl

theorem State.trySources_next (h : structCode (s.sourceImage sfdp eeprom src) ≠ 1) : s.trySources sfdp eeprom (src :: l) =
    (s.tried (s.sourceImage sfdp eeprom src) src).trySources sfdp eeprom l := by
  conv_lhs => unfold State.trySources
  dsimp only
  rw [codeOk, if_neg h]
  rfl

/-- Trying sources writes the staging area and the image alone. -/
theorem State.trySources_boot (l : List Nat) :
    ∃ staged image, (s.trySources sfdp eeprom l).boot = { s.boot with staged := staged, image := image } := by
  induction l generalizing s with
  | nil => exact ⟨_, _, rfl⟩
  | cons src l ih =>
    by_cases h : structCode (s.sourceImage sfdp eeprom src) = 1
    · rw [State.trySources_found _ _ _ _ _ h]
      exact ⟨_, _, rfl⟩
    · obtain ⟨staged, image, hboot⟩ := ih (s.tried (s.sourceImage sfdp eeprom src) src)
      rw [State.trySources_next _ _ _ _ _ h, hboot, State.tried_boot]
      exact ⟨_, _, rfl⟩

end

/-- What reading one source leaves. -/
structure SourceTried (s t : State) (img : Option (List Word)) (src : Nat) : Prop where
  staged : t.boot.staged = img.getD []
  words : t.fld R.cfgStagePtr F.cfgStagePtr.words = (img.getD []).length % 2 ^ (F.cfgStagePtr.words.1 + 1 - F.cfgStagePtr.words.2)
  found : structCode img = 1 → t.boot.image = img.map (fun ws => (ws, src)) ∧
    t.fld R.cfgStatus F.cfgStatus.result = s.fld R.cfgStatus F.cfgStatus.result
  failed : structCode img ≠ 1 → t.boot.image = s.boot.image ∧ t.fld R.cfgStatus F.cfgStatus.result = structCode img

theorem State.trySources_one (s : State) (sfdp : Bool) (eeprom : List Word) (src : Nat) :
    SourceTried s (s.trySources sfdp eeprom [src]) (s.sourceImage sfdp eeprom src) src := by
  by_cases h : structCode (s.sourceImage sfdp eeprom src) = 1
  · rw [State.trySources_found _ _ _ _ _ h]
    exact ⟨rfl, s.stageImage_words _, fun _ => ⟨rfl, s.stageImage_result _⟩, fun hne => absurd h hne⟩
  · rw [State.trySources_next _ _ _ _ _ h, State.trySources]
    exact ⟨by rw [State.tried_boot], s.tried_words _ _, fun heq => absurd heq h,
      fun _ => ⟨by rw [State.tried_boot], s.tried_result _ _⟩⟩

/-- The two slots, from the one that BOOTSEL names first. -/
theorem State.trySources_two (s : State) (sfdp : Bool) (eeprom : List Word) {a b : Nat} (hb : b < 3)
    (h : structCode (s.sourceImage sfdp eeprom a) ≠ 1) :
    SourceTried (s.tried (s.sourceImage sfdp eeprom a) a) (s.trySources sfdp eeprom [a, b]) (s.sourceImage sfdp eeprom b) b := by
  have hone := (s.tried (s.sourceImage sfdp eeprom a) a).trySources_one sfdp eeprom b
  rw [State.sourceImage_of_flash (s.tried_flash _ _) _ _ hb] at hone
  rw [State.trySources_next _ _ _ _ _ h]
  exact hone

theorem bootSources_slots {b : Nat} (h : b < 2) : bootSources b = [b, 1 - b] := by
  interval_cases b <;> rfl

/-! ### Step 6 (R357, R358) -/

section
variable (s : State) (q : ResetSeq) (i : BootInput)

/-- Step 6 begins. -/
def State.step6Base : State := s.setBoot { s.boot with seq := some { q with step := 6 } }

theorem State.step6_eq : s.step6 q i =
    (s.step6Base q).trySources q.sfdp i.eeprom (bootSources (s.fld R.rstStraps F.rstStraps.bootsel)) := rfl

theorem State.step6Base_image {src : Nat} (h : src < 3) : (s.step6Base q).sourceImage q.sfdp i.eeprom src = s.sourceImage q.sfdp i.eeprom src :=
  State.sourceImage_of_flash rfl _ _ h

theorem State.step6_seq : (s.step6 q i).boot.seq = some { q with step := 6 } := by
  obtain ⟨staged, image, hboot⟩ := State.trySources_boot (s.step6Base q) q.sfdp i.eeprom (bootSources (s.fld R.rstStraps F.rstStraps.bootsel))
  rw [State.step6_eq, hboot]
  rfl

variable {s}

theorem State.step6_none (h : s.fld R.rstStraps F.rstStraps.bootsel = 3) : s.step6 q i = s.step6Base q := by
  rw [State.step6_eq, h]
  rfl

theorem State.step6_eeprom (h : s.fld R.rstStraps F.rstStraps.bootsel = 2) :
    SourceTried s (s.step6 q i) (s.sourceImage q.sfdp i.eeprom 2) 2 := by
  have hone := (s.step6Base q).trySources_one q.sfdp i.eeprom 2
  rw [State.step6Base_image _ _ _ (by decide)] at hone
  rw [State.step6_eq, h]
  exact ⟨hone.staged, hone.words, hone.found, hone.failed⟩

section
variable {b : Nat} (hb : b = s.fld R.rstStraps F.rstStraps.bootsel) (hslot : b < 2)
include hb hslot

theorem State.step6_first (h : structCode (s.sourceImage q.sfdp i.eeprom b) = 1) :
    (s.step6 q i).boot.image = (s.sourceImage q.sfdp i.eeprom b).map (fun ws => (ws, b)) ∧
      (s.step6 q i).boot.staged = (s.sourceImage q.sfdp i.eeprom b).getD [] := by
  have himg := s.step6Base_image q i (show b < 3 by omega)
  rw [State.step6_eq, ← hb, bootSources_slots hslot, State.trySources_found _ _ _ _ _ (by rw [himg]; exact h), himg]
  exact ⟨rfl, rfl⟩

theorem State.step6_second (h : structCode (s.sourceImage q.sfdp i.eeprom b) ≠ 1) :
    SourceTried ((s.step6Base q).tried (s.sourceImage q.sfdp i.eeprom b) b) (s.step6 q i) (s.sourceImage q.sfdp i.eeprom (1 - b)) (1 - b) := by
  have himg := s.step6Base_image q i (show b < 3 by omega)
  have htwo := (s.step6Base q).trySources_two q.sfdp i.eeprom (a := b) (b := 1 - b) (by omega) (by rw [himg]; exact h)
  rw [himg, State.step6Base_image _ _ _ (show 1 - b < 3 by omega)] at htwo
  rw [State.step6_eq, ← hb, bootSources_slots hslot]
  exact htwo

end

end

/-! ### Step 7 fails (R364) -/

theorem laterSources_slot {b : Nat} (h : b < 2) : ((bootSources b).dropWhile fun x => decide (x ≠ b)).drop 1 = [1 - b] := by
  interval_cases b <;> rfl

theorem laterSources_last {b src : Nat} (h : b ≠ src ∨ 2 ≤ src) (hb : b ≤ 2) (hsrc : src ≤ 2) (hkind : b < 2 ↔ src < 2) :
    ((bootSources b).dropWhile fun x => decide (x ≠ src)).drop 1 = [] := by
  interval_cases b <;> interval_cases src <;> first | rfl | omega

section
variable {s : State} {q : ResetSeq} {ws : List Word} {src : Nat} (i : BootInput) (himage : s.boot.image = some (ws, src))
  (hcode : s.imageCode (some ws) ≠ 1)

/-- The image has failed, and no other has been read. -/
def State.imageDropped (s : State) (ws : List Word) (src : Nat) : State :=
  (s.imageFail (s.imageCode (some ws)) src (imageSerial ws)).setBoot { s.boot with image := none }

theorem State.imageDropped_result (s : State) (ws : List Word) (src : Nat) :
    (s.imageDropped ws src).fld R.cfgStatus F.cfgStatus.result = s.imageCode (some ws) :=
  s.imageFail_result src (imageSerial ws) (s.imageCode_lt _)

theorem State.imageDropped_flash (s : State) (ws : List Word) (src : Nat) : (s.imageDropped ws src).flash = s.flash :=
  (s.imageFail_keeps (s.imageCode (some ws)) src (imageSerial ws)).flash (.inl rfl) rfl

theorem State.step7_waits (q : ResetSeq) (h : s.boot.image = none) : s.step7 q i = s := by
  unfold State.step7
  rw [h]

omit hcode in
include himage in
theorem State.step7_applies (q : ResetSeq) (hok : s.imageCode (some ws) = 1) : s.step7 q i = s.applyImage ws src := by
  unfold State.step7
  rw [himage]
  dsimp only
  rw [codeOk, if_pos hok]

include himage hcode

theorem State.step7_fails : s.step7 q i = (s.imageDropped ws src).trySources q.sfdp i.eeprom
    (((bootSources (s.fld R.rstStraps F.rstStraps.bootsel)).dropWhile fun x => decide (x ≠ src)).drop 1) := by
  have hstraps : (s.imageFail (s.imageCode (some ws)) src (imageSerial ws)).fld R.rstStraps F.rstStraps.bootsel =
      s.fld R.rstStraps F.rstStraps.bootsel := (State.imageFail_keeps ..).fld_eq regWindow_rstStraps _
  unfold State.step7
  rw [himage]
  dsimp only
  rw [codeOk, if_neg hcode, State.laterSources, hstraps, State.imageFail_boot]
  rfl

/-- The sequence stays where it is. -/
theorem State.step7_fails_boot : ∃ staged image, (s.step7 q i).boot = { s.boot with staged := staged, image := image } := by
  obtain ⟨staged, image, hboot⟩ := State.trySources_boot (s.imageDropped ws src) q.sfdp i.eeprom
    (((bootSources (s.fld R.rstStraps F.rstStraps.bootsel)).dropWhile fun x => decide (x ≠ src)).drop 1)
  rw [State.step7_fails i himage hcode, hboot]
  exact ⟨_, _, rfl⟩

/-- The other slot is read. -/
theorem State.step7_other (hsel : s.fld R.rstStraps F.rstStraps.bootsel = src) (hslot : src < 2) :
    SourceTried (s.imageDropped ws src) (s.step7 q i) (s.sourceImage q.sfdp i.eeprom (1 - src)) (1 - src) := by
  have hone := (s.imageDropped ws src).trySources_one q.sfdp i.eeprom (1 - src)
  rw [State.sourceImage_of_flash (s.imageDropped_flash ws src) _ _ (show 1 - src < 3 by omega)] at hone
  rw [State.step7_fails i himage hcode, hsel, laterSources_slot hslot]
  exact hone

/-- No other source is left. -/
theorem State.step7_last (h : s.fld R.rstStraps F.rstStraps.bootsel ≠ src ∨ 2 ≤ src) (hb : s.fld R.rstStraps F.rstStraps.bootsel ≤ 2)
    (hsrc : src ≤ 2) (hkind : s.fld R.rstStraps F.rstStraps.bootsel < 2 ↔ src < 2) : s.step7 q i = s.imageDropped ws src := by
  rw [State.step7_fails i himage hcode, laterSources_last h hb hsrc hkind]
  rfl

end

/-! ### Host staging (R364) -/

theorem State.restage_words (s : State) : s.restage.fld R.cfgStagePtr F.cfgStagePtr.words = 0 := by
  refine (State.fld_setReg_self ..).trans ?_
  rfl

theorem State.stageWord_words (s : State) (w : Word) : (s.stageWord w).fld R.cfgStagePtr F.cfgStagePtr.words =
    (s.fld R.cfgStagePtr F.cfgStagePtr.words + 1) % 2 ^ (F.cfgStagePtr.words.1 + 1 - F.cfgStagePtr.words.2) :=
  State.fld_bump_self _ _ _ (by decide)

theorem State.imageTimeout_due {s : State} (hseq : s.boot.seq.isSome = true) (happlied : s.boot.applied = false) :
    s.imageTimeout = s.setBoot { s.boot with windowsOnly := true } := by
  unfold State.imageTimeout
  exact if_neg (by simp [Option.isSome_iff_ne_none.mp hseq, happlied])

theorem State.imageTimeout_past {s : State} (h : s.boot.seq = none ∨ s.boot.applied = true) : s.imageTimeout = s := by
  unfold State.imageTimeout
  exact if_pos (by simpa using h)

end Sys2Proof.Machine
end

section
/-! SUPPORT. Steps 7 to 9 of the reset sequence (Machine/Boot.lean; R335, R360, R362, R369), and SCH_STATUS where CXP takes the medium
(R213, R214). -/

namespace Sys2Proof.Machine

/-! ### The register pairs of an image (R362) -/

theorem State.writeReg_boot (s : State) (locked : Bool) (o : Nat) (v : Word) : (s.writeReg locked o v).boot = s.boot := by
  obtain ⟨x, hx⟩ := s.noteWrote_tick o
  unfold State.writeReg
  rw [hx]
  split <;> rfl

theorem State.msixWrite_boot (s : State) (fn k : Nat) (w : Word) : (s.msixWrite fn k w).boot = s.boot := by
  unfold State.msixWrite
  dsimp only
  split <;> rfl

theorem State.regWrite_plain_boot {o : Nat} (h : hookAt writeHooks o = none) (s : State) (m : Master) (v : Word) :
    (s.regWrite m o v).boot = s.boot := by
  unfold State.regWrite
  simp only [h]
  exact State.writeReg_boot ..

/-- A pair that names a plain register, or a word of the MSI-X table, leaves the reset sequence and the floor. -/
theorem State.applyPair_boot {p : Nat × Word} (h : hookAt writeHooks p.1 = none) (s : State) : (s.applyPair p).boot = s.boot := by
  unfold State.applyPair
  split
  · rfl
  · split
    · exact State.writeReg_boot ..
    · split
      · exact State.msixWrite_boot ..
      · exact State.regWrite_plain_boot h s 1 p.2

theorem State.dropKept_boot (s : State) : s.dropKept.boot = s.boot :=
  State.each_eq (f := fun s off => s.setReg off (resetWord off)) State.boot (fun _ _ => rfl) s _

theorem State.applyRegs_floor {ws : List Word} (h : ∀ p ∈ imageRegs ws, hookAt writeHooks p.1 = none) (s : State) :
    (s.applyRegs ws).boot.floor = s.boot.floor := by
  refine List.foldlRecOn (motive := fun u => u.boot.floor = s.boot.floor) (imageRegs ws) State.applyPair ?_ fun u hu p hp => ?_
  · rw [State.dropKept_boot]
    rfl
  · rw [State.applyPair_boot (h p hp), hu]

/-! ### The other sections (R335, R362) -/

/-- What an image holds besides its register pairs, up to the lock. -/
def State.sectioned (u : State) (ws : List Word) (cal : List CalRun) : State :=
  let s5 := (((((u.setTick Tick.dflt).each allSlices fun s n => s.startCal (calOf cal n)).each (imageKeys ws) State.applyKey).each
    (imageBodies ws 0x04) fun s x => s.setWords (bankBase false) x.2).each (imageBodies ws 0x05) State.applyAwning).drawUids
  match ((imageRegs ws).filter fun x => decide (x.1 = R.schCtrl)).getLast?.map (·.2) with
  | none => s5
  | some v => s5.heldCtrl v

theorem State.sectioned_keeps (u : State) (ws : List Word) (cal : List CalRun) : Keeps 0x31229720E21563DE u (u.sectioned ws cal) := by
  have hsections : Keeps 0x31229720E21563DE u (((((u.setTick Tick.dflt).each allSlices fun s n => s.startCal (calOf cal n)).each
      (imageKeys ws) State.applyKey).each (imageBodies ws 0x04) fun s x => s.setWords (bankBase false) x.2).each (imageBodies ws 0x05)
      State.applyAwning).drawUids := by
    refine State.drawUids_step rfl rfl (Keeps.each rfl (Keeps.each rfl (Keeps.each rfl (Keeps.each rfl
      (State.setTick_step _ rfl rfl (Keeps.refl _ u)) ?_) ?_) ?_) ?_)
    · exact fun v n => State.startCal_step _ rfl rfl (Keeps.refl _ v)
    · exact fun v e => State.applyKey_step _ rfl rfl (Keeps.refl _ v)
    · exact fun v x => State.setWords_step _ _ rfl rfl (Keeps.refl _ v)
    · exact fun v x => State.applyAwning_step _ rfl rfl (Keeps.refl _ v)
  unfold State.sectioned
  dsimp only
  split
  · exact hsections
  · exact State.heldCtrl_step _ rfl rfl hsections

section
variable {s u : State} {ws : List Word} (hu : u = s.applyRegs ws) (cal : List CalRun)
include hu

theorem State.applySections_reset (h : u.boot.seq.isSome = true) : s.applySections ws cal = u := by
  unfold State.applySections
  rw [← hu]
  exact if_pos h

theorem State.applySections_eq (h : u.boot.seq = none) : s.applySections ws cal =
    if Word.get (ws.getD 2 0) (0, 0) = 1 then (u.sectioned ws cal).setBit R.cfgStatus F.cfgStatus.locked true else u.sectioned ws cal := by
  unfold State.applySections
  rw [← hu]
  dsimp only
  rw [if_neg (by simp [h])]
  rfl

theorem State.applySections_boot (h : u.boot.seq = none) : (s.applySections ws cal).boot = u.boot := by
  rw [State.applySections_eq hu cal h]
  split
  · rw [State.setBit_boot]
    exact (u.sectioned_keeps ws cal).boot (.inl rfl) rfl
  · exact (u.sectioned_keeps ws cal).boot (.inl rfl) rfl

theorem State.applySections_locked (h : u.boot.seq = none) (hlock : Word.get (ws.getD 2 0) (0, 0) = 1) :
    (s.applySections ws cal).locked = true := by
  rw [State.applySections_eq hu cal h, if_pos hlock]
  exact State.bit_setBit_self _ _ _ _ (by decide)

end

/-! ### Step 7 is done (R362) -/

/-- CFG_STATUS shows an image that has been applied. -/
def State.imageShown (s : State) (ws : List Word) (src : Nat) : State :=
  ((s.setFld R.cfgStatus F.cfgStatus.serial (imageSerial ws)).setFld R.cfgStatus F.cfgStatus.source src).setFld
    R.cfgStatus F.cfgStatus.result codeOk

/-- The end of step 7, from the state in which the sections have been applied. -/
def State.imageDone (s : State) (q : ResetSeq) (ws : List Word) (src : Nat) : State :=
  let s3 := (s.imageShown ws src).imagePins.setBoot { s.boot with
    seq := some { q with step := 7 }, applied := true, windowsOnly := false, image := some (ws, src) }
  let caps := (List.range 9).foldl (fun m p => SMap.put 0 m p (s3.capBits p)) []
  (s3.setPit { s3.pit with caps := caps }).setHlt { s3.hlt with epochDue := true }

theorem State.imageDone_boot (s : State) (q : ResetSeq) (ws : List Word) (src : Nat) : (s.imageDone q ws src).boot = { s.boot with
    seq := some { q with step := 7 }, applied := true, windowsOnly := false, image := some (ws, src) } := rfl

theorem State.imageDone_epochDue (s : State) (q : ResetSeq) (ws : List Word) (src : Nat) :
    (s.imageDone q ws src).hlt.epochDue = true := rfl

theorem State.imageDone_status (s : State) (q : ResetSeq) (ws : List Word) (src : Nat) :
    (s.imageDone q ws src).reg R.cfgStatus = (s.imageShown ws src).reg R.cfgStatus := by
  have hpins : Keeps 0x14228B20628467DC (s.imageShown ws src) (s.imageShown ws src).imagePins :=
    State.imagePins_step rfl rfl (Keeps.refl _ _)
  rw [← hpins.reg_eq regWindow_cfgStatus]
  rfl

section
variable (s : State) (ws : List Word) {src : Nat}

theorem State.imageShown_result : (s.imageShown ws src).fld R.cfgStatus F.cfgStatus.result = 1 :=
  State.fld_setFld_self _ _ _ _ (by decide)

theorem State.imageShown_source (h : src < 4) : (s.imageShown ws src).fld R.cfgStatus F.cfgStatus.source = src := by
  unfold State.imageShown
  rw [State.fld_setFld_apart _ _ _ _ _ (by decide) (by decide), State.fld_setFld_self _ _ _ _ (by decide)]
  exact Nat.mod_eq_of_lt h

theorem State.imageShown_serial : (s.imageShown ws src).fld R.cfgStatus F.cfgStatus.serial = imageSerial ws := by
  unfold State.imageShown
  rw [State.fld_setFld_apart _ _ _ _ _ (by decide) (by decide), State.fld_setFld_apart _ _ _ _ _ (by decide) (by decide),
    State.fld_setFld_self _ _ _ _ (by decide)]
  exact Nat.mod_eq_of_lt (Word.get_lt _ (63, 32))

theorem State.imageShown_locked : (s.imageShown ws src).locked = s.locked := by
  unfold State.locked State.imageShown
  rw [State.bit_setFld_apart _ _ _ _ _ (by decide) (by decide), State.bit_setFld_apart _ _ _ _ _ (by decide) (by decide),
    State.bit_setFld_apart _ _ _ _ _ (by decide) (by decide)]

end

/-- The floor after an image, by its flags. -/
def State.floorAfter (s : State) (ws : List Word) : BitVec 32 :=
  if Word.get (ws.getD 2 0) (1, 1) = 1 then BitVec.ofNat 32 (imageSerial ws) else s.boot.floor

/-- What an image leaves that has been applied. -/
structure ImageApplied (s u t : State) (q : ResetSeq) (ws : List Word) (src : Nat) : Prop where
  boot : t.boot = { u.boot with seq := some { q with step := 7 }, applied := true, windowsOnly := false, image := some (ws, src) }
  result : t.fld R.cfgStatus F.cfgStatus.result = 1
  source : t.fld R.cfgStatus F.cfgStatus.source = src
  serial : t.fld R.cfgStatus F.cfgStatus.serial = imageSerial ws
  epochDue : t.hlt.epochDue = true
  locked : Word.get (ws.getD 2 0) (0, 0) = 1 → t.locked = true
  floor : (∀ p ∈ imageRegs ws, hookAt writeHooks p.1 = none) → t.boot.floor = s.floorAfter ws

section
variable {s u : State} {q : ResetSeq} {ws : List Word} (hseq : s.boot.seq = some q)
  (hu : u = (s.setBoot { s.boot with seq := none, floor := s.floorAfter ws }).applyRegs ws)
include hseq hu

/-- A reset that a pair starts ends the application. -/
theorem State.applyImage_reset (src : Nat) (h : u.boot.seq.isSome = true) : s.applyImage ws src = u := by
  have hend := State.applySections_reset hu q.cal h
  unfold State.floorAfter at hend
  unfold State.applyImage
  rw [hseq]
  dsimp only
  rw [hend, if_pos h]

theorem State.applyImage_done {src : Nat} (hsrc : src < 4) (h : u.boot.seq = none) : ImageApplied s u (s.applyImage ws src) q ws src := by
  have hboot := State.applySections_boot hu q.cal h
  have hlocked := State.applySections_locked hu q.cal h
  have heq : s.applyImage ws src =
      ((s.setBoot { s.boot with seq := none, floor := s.floorAfter ws }).applySections ws q.cal).imageDone q ws src := by
    unfold State.applyImage
    rw [hseq]
    dsimp only
    unfold State.floorAfter at hboot ⊢
    rw [if_neg (by rw [hboot, h]; decide)]
    rfl
  rw [heq]
  generalize (s.setBoot { s.boot with seq := none, floor := s.floorAfter ws }).applySections ws q.cal = a at hboot hlocked
  have hstatus := a.imageDone_status q ws src
  refine ⟨?_, ?_, ?_, ?_, a.imageDone_epochDue q ws src, fun hlock => ?_, fun hplain => ?_⟩
  · rw [State.imageDone_boot, hboot]
  · rw [State.fld_of_reg hstatus, State.imageShown_result]
  · rw [State.fld_of_reg hstatus, State.imageShown_source _ _ hsrc]
  · rw [State.fld_of_reg hstatus, State.imageShown_serial]
  · exact (State.bit_of_reg hstatus _).trans ((State.imageShown_locked ..).trans (hlocked hlock))
  · rw [State.imageDone_boot, hboot, hu, State.applyRegs_floor hplain]
    rfl

end

/-! ### SCH_STATUS while the medium is taken (R213, R214) -/

theorem State.cutExch_schStatus (s : State) (r : Run) (st : Status) : (s.cutExch r st).reg R.schStatus = s.reg R.schStatus := by
  unfold State.cutExch
  split
  · exact Keeps.reg_eq (w := 0x100202006204009c) (State.endWork_step _ _ _ rfl rfl (Keeps.refl _ s)) regWindow_schStatus
  · have hcount : (s.bumpSat R.schOverrunCnt F.schOverrunCnt.count 1).reg R.schStatus = s.reg R.schStatus :=
      State.setFld_reg_ne _ _ _ (by decide)
    refine Eq.trans (Keeps.reg_eq (w := 0x10228300620462dc) (s := s.bumpSat R.schOverrunCnt F.schOverrunCnt.count 1) ?_ regWindow_schStatus) hcount
    refine State.endWork_step _ _ _ rfl rfl (State.driveSetting_step _ rfl rfl (State.freeDecoder_step _ rfl rfl (Keeps.ite ?_ ?_)))
    · exact State.budgetNote_step _ _ _ rfl rfl (State.traceExch_step _ _ _ _ rfl rfl (Keeps.refl _ _))
    · exact State.traceExch_step _ _ _ _ rfl rfl (Keeps.refl _ _)

theorem State.beginTail_schStatus (s : State) (r : Run) : (s.beginTail r).reg R.schStatus = s.reg R.schStatus := by
  have hcut := s.cutExch_schStatus r (r.inert.getD .abandoned)
  unfold State.beginTail
  dsimp only
  split
  · exact hcut
  · refine Eq.trans (Keeps.reg_eq (w := 0x80000000780) (s := s.cutExch r (r.inert.getD .abandoned)) ?_ regWindow_schStatus) hcut
    refine Keeps.ite (Keeps.each rfl ?_ fun u p => State.modPort_step _ _ rfl rfl (Keeps.refl _ u)) (State.lowerField_step _ _ rfl rfl ?_)
    all_goals exact State.putRun_step _ rfl rfl (State.saveWalk_step _ rfl rfl (Keeps.refl _ _))

theorem State.mediumLost_schStatus (s : State) (r : Run) (finish : Nat) : (s.mediumLost r finish).reg R.schStatus = s.reg R.schStatus := by
  have hreport (u : State) (x : Run) (st : Status) : (u.inertReport x st).reg R.schStatus = u.reg R.schStatus :=
    Keeps.reg_eq (w := 0x202006004001c) (State.inertReport_step _ _ rfl rfl (Keeps.refl _ u)) regWindow_schStatus
  have hdenied (u : State) : u.countDenied.reg R.schStatus = u.reg R.schStatus := State.setFld_reg_ne _ _ _ (by decide)
  unfold State.mediumLost
  dsimp only
  split
  · split
    · exact Keeps.reg_eq (w := 0x80000000300) (State.lowerField_step _ _ rfl rfl (Keeps.each rfl (Keeps.refl _ s) fun u p =>
        State.modPort_step _ _ rfl rfl (Keeps.refl _ u))) regWindow_schStatus
    · rfl
  · split
    · rfl
    · split
      · rfl
      · split
        · exact State.beginTail_schStatus ..
        · rw [State.beginTail_schStatus]
          split
          · exact hdenied _
          · exact (hreport ..).trans (hdenied _)

theorem State.yieldAll_schStatus (s : State) : s.yieldAll.reg R.schStatus = s.reg R.schStatus := by
  refine State.each_eq (State.reg · R.schStatus) (fun u r => ?_) s _
  split
  · rfl
  · exact State.mediumLost_schStatus ..

/-- CXP drives its wires and takes the medium: the plan checker goes on. -/
theorem State.driveCxp_schStatus (s : State) : s.driveCxp.reg R.schStatus = s.reg R.schStatus := by
  have hwires (u : State) : u.showWires.reg R.schStatus = u.reg R.schStatus := State.setFld_reg_ne _ _ _ (by decide)
  have hcount (u : State) : u.showWires.countOverridden.reg R.schStatus = u.reg R.schStatus :=
    (Keeps.reg_eq (w := 0x400000000800000) (State.countOverridden_step rfl rfl (Keeps.refl _ _)) regWindow_schStatus).trans (hwires u)
  unfold State.driveCxp
  split
  · exact hwires s
  · split
    · exact hwires _
    · split
      · split
        · exact hcount _
        · split
          · exact hcount s
          · split
            · exact (State.yieldAll_schStatus _).trans (hcount _)
            · exact hcount _
      · exact hwires _

/-! ### READY (R369) -/

/-- Site time starts at 0 with the new epoch. -/
def State.readyClock (s : State) (q : ResetSeq) : State :=
  (s.setBoot { s.boot with seq := none, power := .ready, rstoutN := true }).setClock
    { s.clock with site := 0, epoch := q.epoch, aonEpoch := q.epoch }

/-- The check at load begins. -/
def State.checkAtLoad (s : State) : State :=
  (s.setBit R.schStatus F.schStatus.checking true).setSch { s.sch with check := some { bank := false, atLoad := true } }

/-- What READY does between the clock and the plan checker leaves both, and the boot state. -/
theorem State.makeReady_eq (s : State) (q : ResetSeq) :
    ∃ a, Keeps 0x31CA02106216061C (s.readyClock q) a ∧ s.makeReady q = a.checkAtLoad.driveCxp.driveInt := by
  unfold State.makeReady
  dsimp only
  refine ⟨_, ?_, rfl⟩
  refine Keeps.setBit (regWindow_hifSpiStatus) rfl rfl (Keeps.each rfl (State.startSlots_step rfl rfl (State.lanternBack_step rfl rfl
    (State.recordEvents_step rfl rfl (State.earlyHealth_step rfl rfl (State.readyEvents_step rfl rfl (State.slicesUp_step rfl rfl
    (State.trace_step _ _ _ rfl rfl (Keeps.setBit regWindow_cfgStatus rfl rfl (State.setHif_step _ rfl rfl (Keeps.refl _ _)))))))))) ?_)
  exact fun u i => Keeps.setFld (regWindow_awnStatus i) rfl rfl (Keeps.refl _ u)

/-- What READY shows. -/
structure ReadyShown (t : State) (q : ResetSeq) : Prop where
  up : t.up = true
  power : t.boot.power = .ready
  rstoutN : t.boot.rstoutN = true
  site : t.clock.site = 0
  epoch : t.clock.epoch = q.epoch
  checking : t.bit R.schStatus F.schStatus.checking = true
  check : t.sch.check = some { bank := false, atLoad := true }

theorem State.makeReady_shows (s : State) (q : ResetSeq) : ReadyShown (s.makeReady q) q := by
  obtain ⟨a, hready, heq⟩ := s.makeReady_eq q
  have hdrive : Keeps 0x14228B20628467DC a.checkAtLoad a.checkAtLoad.driveCxp.driveInt :=
    State.driveInt_step rfl rfl (State.driveCxp_step rfl rfl (Keeps.refl _ _))
  have hboot : (s.makeReady q).boot = { s.boot with seq := none, power := .ready, rstoutN := true } := by
    rw [heq, hdrive.boot (.inl rfl) rfl]
    refine Eq.trans ?_ (hready.boot (.inl rfl) rfl)
    exact State.setBit_boot ..
  have hclock : (s.makeReady q).clock = { s.clock with site := 0, epoch := q.epoch, aonEpoch := q.epoch } := by
    rw [heq, hdrive.clock (.inl rfl) rfl]
    refine Eq.trans ?_ (hready.clock (.inl rfl) rfl)
    exact State.setBit_clock ..
  have hcycle := hdrive.cycle (.inl rfl) rfl
  refine ⟨?_, by rw [hboot], by rw [hboot], by rw [hclock], by rw [hclock], ?_, ?_⟩
  · unfold State.up
    rw [hboot]
    rfl
  · rw [heq]
    refine (State.bit_of_reg (State.driveCxp_schStatus _) _).trans ?_
    exact State.bit_setBit_self _ _ _ _ (by decide)
  · rw [heq]
    exact congrArg (·.2.1) hcycle

/-! ### Host load (R364) -/

section
variable {s : State} {m : PMaster}

theorem State.load_off (h : s.boot.windowsOnly = false ∨ (∀ q, s.boot.seq = some q → q.step ≠ 6) ∨
    s.fld R.cfgStatus F.cfgStatus.result = 1) : s.load = s := by
  unfold State.load
  refine if_pos ?_
  obtain h | h | h := h
  · simp [h]
  · cases hseq : s.boot.seq with
    | none => simp
    | some q => simp [h q hseq]
  · simp [h, codeOk]

theorem State.cfgServedTo_windows (hw : s.boot.windowsOnly = true) (hm : m.val < 2) : s.cfgServedTo m = true := by
  unfold State.cfgServedTo
  simp [hw, hm]

/-- A load without effect: nothing is served, or the sequence does not wait for an image. -/
theorem exec_load_off (h : s.boot.windowsOnly = false ∨ 2 ≤ m.val ∨ (∀ q, s.boot.seq = some q → q.step ≠ 6) ∨
    s.fld R.cfgStatus F.cfgStatus.result = 1) : exec (.load m) s = .next s := by
  refine congrArg Host.Outcome.next ?_
  split
  · next hserved =>
    refine State.load_off ?_
    obtain h | h | h := h
    · exact .inl h
    · have hup : s.up = true := by
        unfold State.cfgServedTo at hserved
        simpa [Nat.not_lt.mpr h] using hserved
      have hseq : s.boot.seq = none := by
        unfold State.up at hup
        simp only [Bool.and_eq_true, Option.isNone_iff_eq_none] at hup
        exact hup.1
      exact .inr (.inl fun q hq => absurd (hseq.symm.trans hq) nofun)
    · exact .inr h
  · rfl

section
variable {q : ResetSeq} (hw : s.boot.windowsOnly = true) (hresult : s.fld R.cfgStatus F.cfgStatus.result ≠ 1)
  (hseq : s.boot.seq = some q) (hstep : q.step = 6)
include hw hresult hseq hstep

theorem State.load_fails (h : s.imageCode (s.sourceImage false [] 3) ≠ 1) : s.load =
    s.imageFail (s.imageCode (s.sourceImage false [] 3)) 3 (imageSerial ((s.sourceImage false [] 3).getD [])) := by
  unfold State.load
  simp [hw, hresult, hseq, hstep, codeOk, h]

theorem State.load_applies {ws : List Word} (himg : s.sourceImage false [] 3 = some ws) (h : s.imageCode (some ws) = 1) :
    s.load = s.applyImage ws 3 := by
  unfold State.load
  simp [hw, hresult, hseq, hstep, codeOk, himg, h]

end

end

end Sys2Proof.Machine
end

section
/-! The statements of 10_groundsheet_and_ridgepole.md, settled. -/

open Sys2Proof Sys2Proof.Machine

/-- Settles O7: a tick and every command have a frame (`State.idle_keeps`, `exec_keeps`), and what has a frame keeps the canonical
form (`Keeps.canonical`). -/
theorem canonicalKept : Obligations.CanonicalKept := by
  intro s t hs h
  cases hq : s.pending with
  | nil =>
    rw [step_nil hq] at h
    cases h
    exact s.idle_keeps.canonical hs
  | cons c rest =>
    rw [step_cons hq] at h
    have hset : (s.setPending rest).canonical = true := hs
    obtain ⟨_, hframe⟩ := exec_keeps h
    exact hframe.canonical hset

/-- Settles O8: the mask of a command's frame names no more than `touches` does, and a reset only where `mayReset` says so
(`exec_framed`), so the frame holds part by part (`exec_sameBut`). -/
theorem frameOfEveryCommand : Obligations.FrameOfEveryCommand :=
  fun _ _ _ h hr => exec_sameBut h hr

/-- Settles O31: a visit of the scrubber is a read of the word with its bits flipped (`exec_scrubVisit`), whose outcome follows the
errors of the word; the wheel is that of the stakes that are active (`State.assigned_mem`, `State.assigned_kept`). -/
theorem scrubberAndWheel : Obligations.ScrubberAndWheel := by
  refine ⟨⟨fun word x s hword hup hon => ?scrub, fun m v s hup harm => ?arm⟩, fun wait target s htarget hup => ?turn,
    fun m s hup => ?clear⟩
  case scrub =>
    have hexec := exec_scrubVisit x hword hup hon
    have hframe := s.flipped_keeps (8 * word) x
    have hflip := s.flipped_upset (8 * word) x
    refine ⟨fun hone => ⟨_, hexec, ?_⟩, fun hmany hpool hlive => ⟨_, hexec, ?_⟩, fun hmany harea => ?_, fun hclean => ⟨_, hexec, ?_⟩⟩
    · obtain ⟨herr, hmem, hcount, hce, haddr⟩ := State.readAt_corrected_shows (by omega) (hflip ▸ hone)
      exact ⟨herr, hmem.trans (s.flipped_mem _ x), hcount.trans (by rw [hframe.fld_eq regWindow_gshEccCeCnt]), hce, haddr.trans (by omega)⟩
    · obtain ⟨herr, hmem, hcount, hue, haddr⟩ := State.readAt_ue_shows hpool (State.flipped_isUe hmany) fun i hi => by
        rw [State.awnRegion_of_reg (hframe.reg_eq (regWindow_awnImg i))]
        exact hlive i ((State.awnAt_of_keeps hframe (a := 8 * word)).symm.trans hi)
      exact ⟨herr.trans hflip, hmem.trans (s.flipped_mem _ x), hcount.trans (by rw [hframe.fld_eq regWindow_gshEccUeCnt]), hue,
        haddr.trans (by omega)⟩
    · have hbank : (s.flipped (8 * word) x).activeBank = s.activeBank := State.activeBank_of_reg (hframe.reg_eq regWindow_schStatus)
      obtain ⟨q, hseq, hstep, hcause⟩ := State.eccCritical_step1 ((s.flipped (8 * word) x).recordUe (8 * word))
      rw [State.readAt_critical (State.flipped_isUe hmany) (by rw [hbank]; exact harea)] at hexec
      exact ⟨_, q, hexec, hseq, hstep, hcause⟩
    · rw [State.readAt_clean (hflip.trans hclean)]
      exact ⟨hflip.trans hclean, s.flipped_regs _ x⟩
  case arm =>
    obtain ⟨haddr, hkind⟩ := gshEccInject_writable s.locked
    refine ⟨_, congrArg Host.Outcome.next (State.injectWrite_arms hup harm), State.bit_setBit_self _ _ _ _ (by decide), ?_, ?_⟩
    · rw [State.fld_setBit_apart _ _ _ _ _ (by decide) (by decide), State.fld_hostWrite _ haddr]
    · rw [State.fld_setBit_apart _ _ _ _ _ (by decide) (by decide), State.fld_hostWrite _ hkind]
  case turn =>
    have hwheel := State.turnStart_wheel hup wait.toNat target.toNat
    obtain ⟨hmax, hat⟩ := State.turnStart_rrWait hup wait.isLt htarget
    exact ⟨_, if_pos htarget, s.turnStart_runs _ _, fun x hx => State.assigned_mem (hwheel ▸ hx),
      fun x hx hlive => hwheel.symm ▸ State.assigned_kept hx hlive, hmax, hat⟩
  case clear =>
    refine ⟨_, congrArg Host.Outcome.next (if_pos hup), ?_, ?_⟩ <;> rw [State.fld_setReg_self] <;> rfl

/-- Settles O32: a write to a word that hosts may write is one store of it (`exec_groundsheetWrite_store`): a narrow one counts alone,
a whole one replaces the word and its errors (`State.upset_setWord`). -/
theorem writesOfBadWords : Obligations.WritesOfBadWords := by
  intro m x a l s hon hview hmay hue
  refine ⟨fun hpos hnarrow hwithin => ?narrow, fun hlen hx => ?whole⟩
  case narrow =>
    have hframe : Keeps 0x2000000000000 s (s.bump R.gshEccUeCnt F.gshEccUeCnt.count) :=
      Keeps.setFld regWindow_gshEccUeCnt rfl rfl (Keeps.refl _ s)
    refine ⟨_, exec_groundsheetWrite_store hon hview hmay hpos hwithin, ?_⟩
    rw [State.storeBytes_narrow hnarrow.ne hue]
    exact ⟨hframe.sameBut (.inl rfl) _, fun o ho => State.setFld_reg_ne _ _ _ ho, State.fld_bump_self _ _ _ (by decide)⟩
  case whole =>
    have ha : a % 8 = 0 := (State.word_aligned hview).trans hx
    obtain ⟨hbufs, hframe⟩ := State.setWord_frame (s := s) (wordOfBytes l) ha (State.hostMayWrite_area hmay)
    refine ⟨_, exec_groundsheetWrite_store hon hview hmay (by omega) (by omega), ?_⟩
    rw [State.storeBytes_whole s a hlen]
    exact ⟨s.word_setWord a _, (s.upset_setWord a a _).trans (if_pos rfl), fun b hb => State.byte_setWord_out _ _ _ _ (by omega),
      fun b hb => (s.upset_setWord a b _).trans (if_neg hb), hbufs, hframe, fun o ho => s.setWord_reg_ne a _ ho⟩

/-- Settles O34: an allocation picks from the FREE buffers (`State.alloc_some`), a free follows the state of its buffer
(`State.free_held` and its siblings), or is a violation (`State.outside_violated`), and an upper half reads as it stands (`State.narrowRead_live`). -/
theorem buffersAllocated : Obligations.BuffersAllocated := by
  intro m q s hon hreach
  refine ⟨fun hsome => ?takes, fun hnone => ?empty, fun v => ⟨fun hin => ⟨fun hheld => ?held, fun hfree => ?double, fun hqueued => ?queued⟩,
    fun hforeign => ⟨fun hm => ?refused, fun hm => ?violates⟩, fun x hserves hx hplace hsnap => ?upper⟩⟩
  case takes =>
    obtain ⟨b, hb⟩ := pick_of_ne_nil s.fresh hsome
    obtain ⟨hword, hbuf⟩ := State.alloc_some hb
    refine ⟨_, b, exec_bufAlloc hon hreach, pick_mem _ _ _ hb, (hbuf b).trans (if_pos rfl), fun c hc => (hbuf c).trans (if_neg hc), ?_⟩
    rw [State.respond_find, hword]
  case empty =>
    refine ⟨_, exec_bufAlloc hon hreach, ?_⟩
    rw [State.alloc_none hnone]
    exact ⟨State.bit_setBit_self _ _ _ _ (by decide), State.setBit_bufs .., State.respond_find ..⟩
  case held =>
    have hfree : s.free m q (v.toNat % 65536) = s.setBuf (v.toNat % 65536) .free := State.free_held m hin hheld
    have hframe : Keeps 0x80000008 s (s.setBuf (v.toNat % 65536) .free) := State.setBuf_step _ _ rfl rfl (Keeps.refl _ s)
    exact ⟨_, (exec_bufFree v hon hreach).trans (congrArg Host.Outcome.next hfree), (State.buf_setBuf ..).trans (if_pos rfl),
      hframe.sameBut (.inl rfl) _, fun c hc => (State.buf_setBuf ..).trans (if_neg hc)⟩
  case double =>
    have hfree : s.free m q (v.toNat % 65536) = s.bumpSat (R.gshBufStatus q) F.gshBufStatus.doubleFree 1 :=
      State.free_twice m hin hfree
    have hframe : Keeps 0x2000000000000 s (s.bumpSat (R.gshBufStatus q) F.gshBufStatus.doubleFree 1) :=
      Keeps.bumpSat (regWindow_gshBufStatus q) rfl rfl (Keeps.refl _ s)
    exact ⟨_, (exec_bufFree v hon hreach).trans (congrArg Host.Outcome.next hfree), hframe.sameBut (.inl rfl) _,
      State.fld_bumpSat_self _ _ _ _ (by decide)⟩
  case queued =>
    have hfree : s.free m q (v.toNat % 65536) = s.setBit (R.gshBufStatus q) F.gshBufStatus.queuedFree true :=
      State.free_queued m hin hqueued
    have hframe : Keeps 0x2000000000000 s (s.setBit (R.gshBufStatus q) F.gshBufStatus.queuedFree true) :=
      Keeps.setBit (regWindow_gshBufStatus q) rfl rfl (Keeps.refl _ s)
    exact ⟨_, (exec_bufFree v hon hreach).trans (congrArg Host.Outcome.next hfree), hframe.sameBut (.inl rfl) _,
      State.bit_setBit_self _ _ _ _ (by decide)⟩
  case refused =>
    have hfree := (State.free_foreign m hforeign).trans (State.outside_refused hm s 4 _)
    have hframe : Keeps 0x10000000 s (s.respond m { data := [], ue := false, bad := true }) :=
      State.respond_step _ _ rfl rfl (Keeps.refl _ s)
    exact ⟨_, (exec_bufFree v hon hreach).trans (congrArg Host.Outcome.next hfree), hframe.sameBut (.inl rfl) _, State.respond_find ..⟩
  case violates =>
    have hframe : Keeps 0x10000010000000 s (s.outside m 4 (v.toNat % 65536) false) :=
      State.outside_step _ _ _ _ rfl rfl (Keeps.refl _ s)
    obtain ⟨htime, hword, hindex⟩ := State.outside_violated hm s (kind := 4) (detail := v.toNat % 65536) (by decide) (by omega) false
    exact ⟨_, (exec_bufFree v hon hreach).trans (congrArg Host.Outcome.next (State.free_foreign m hforeign)),
      hframe.sameBut (.inl rfl) _, htime, hword, hindex⟩
  case upper =>
    have hframe : Keeps 0x10000000 s (s.respond m { data := [s.regWord (R.gshBufAlloc q) >>> 32], ue := false, bad := false }) :=
      State.respond_step _ _ rfl rfl (Keeps.refl _ s)
    exact ⟨_, congrArg Host.Outcome.next (State.narrowRead_live hplace hx hserves hsnap), hframe.sameBut (.inl rfl) _, State.respond_find ..⟩

/-- Settles O35: a pop removes the head or is refused (`State.pop_takes`, `State.pop_refused`), a flush empties the FIFO
(`State.flush_fifo`, `State.flush_buf`), and of the two writes of a cycle the flush is taken first, so the push finds the FIFO empty
(`State.cycleWrites_flushed`, `State.push_taken`). -/
theorem fifosDrained : Obligations.FifosDrained := by
  refine ⟨fun m n v s hon hreach => ?pop, fun m n s hup => ?flush, fun m b n y v w f p cs l s u hon hm hb hplace hy hw hf hp hcs hu hreach
    hfifo hdir hpos hlen hchain hroom => ?cycle⟩
  case pop =>
    have hexec : exec (.fifoPop m n v) s = .next (s.pop n v) := congrArg Host.Outcome.next (State.onFifo_reaches 0x20 _ hon hreach)
    refine ⟨fun p l hp hfirst hdir hhif => ⟨_, hexec, ?_⟩, fun hrefused => ⟨_, hexec, ?_⟩⟩
    · rw [State.pop_takes hp hfirst hdir hhif]
      exact ⟨by rw [State.popHead_fifo hp], by rw [State.popHead_fifo hp], fun b hb => (State.popHead_buf hp _ b).trans (if_pos hb),
        fun b hb => (State.popHead_buf hp _ b).trans (if_neg hb), State.popHead_regs hp _⟩
    · rw [State.pop_refused hrefused]
      exact ⟨State.bit_setBit_self _ _ _ _ (by decide), State.setBit_fifos .., State.setBit_bufs ..⟩
  case flush =>
    exact ⟨_, rfl, by rw [State.flush_fifo hup], by rw [State.flush_fifo hup],
      fun p hp b hb => (State.flush_buf hup n b).trans (if_pos (List.mem_flatMap.mpr ⟨p, hp, hb⟩)), State.flush_dropped hup n⟩
  case cycle =>
    have hup : s.newCycle.up = true := State.up_of_masterOn hon
    have hflushed := State.flush_fifo hup n
    have hbuf := State.flush_buf hup n
    have hdropped := State.flush_dropped hup n
    have hexec : exec (.registerWrite cs) s = .next (u.push b n v) :=
      congrArg Host.Outcome.next ((State.cycleWrites_flushed hon hm hb hplace hy hw hf hp hcs hreach).trans (by rw [hu]))
    rw [← hu] at hflushed hbuf hdropped
    have hcfg : u.reg (R.gshFifoCfg n) = s.reg (R.gshFifoCfg n) := by rw [hu, State.flush_gshFifoCfg hup n]; rfl
    have htaken := State.push_taken b ((State.fifoOn_of hcfg).trans hfifo) ((State.bit_of_reg hcfg _).trans hdir) hpos hlen hchain hroom
    refine ⟨_, hexec, by rw [htaken.packets, hflushed]; rfl, by rw [htaken.held, hflushed]; rfl,
      fun c hc => (htaken.buf c).trans (if_pos hc), fun q hq c hc hout => ?_, ?_⟩
    · rw [htaken.buf, if_neg hout, hbuf]
      exact if_pos (List.mem_flatMap.mpr ⟨q, hq, hc⟩)
    · rw [State.fld_of_reg (htaken.regs _ (gshFifoStatus_ne_seq n) (eccFree_gshFifoStatus n))]
      exact hdropped

/-- Settles O36: a push that fits is taken (`State.push_taken`), any other is refused (`State.push_refused`), with a record where it
names a buffer of another pitch (`State.outside_violated`); a held packet is appended once there is room (`State.commitHeld_room`). -/
theorem fifosFilled : Obligations.FifosFilled := by
  refine ⟨fun m n v s hon hreach => ?push, fun n ws l s hup hon hheld => ⟨fun c hroom => ?commits, fun hroom => ?waits⟩⟩
  case push =>
    have hexec : exec (.fifoPush m n v) s = .next (s.newCycle.push m n v) :=
      congrArg Host.Outcome.next (State.onFifo_reaches (s := s.newCycle) 0x18 _ hon hreach)
    have hchain := s.pushChain_newCycle (s.fifoPitch n) (chainLen (Word.get v F.gshFifoPush.length)) (Word.get v F.gshFifoPush.first) []
    refine ⟨fun l hfifo hdir hpos hlen hok hroom => ⟨_, hexec, ?taken⟩, fun hbad => ⟨_, hexec, ?refused⟩,
      fun b hfifo hdir hpos hlen hforeign => ?foreign⟩
    case taken =>
      have htaken := State.push_taken (s := s.newCycle) m hfifo hdir hpos hlen (hchain.trans hok) hroom
      exact ⟨htaken.packets, fun b hb => (htaken.buf b).trans (if_pos hb), fun b hb => (htaken.buf b).trans (if_neg hb), htaken.mem,
        htaken.seq⟩
    case refused =>
      have hrefused := State.push_refused (s := s.newCycle) (n := n) (v := v) m (by rw [← hchain] at hbad; exact hbad)
      exact ⟨hrefused.refused, hrefused.fifos, hrefused.bufs⟩
    case foreign =>
      obtain ⟨u, hrefused, hread, hpush⟩ := State.push_foreign (s := s.newCycle) m hfifo hdir hpos hlen (hchain.trans hforeign)
      rw [hpush] at hexec
      have hout : Keeps 0x10000010000000 u (u.outside m 4 b false) := State.outside_step _ _ _ _ rfl rfl (Keeps.refl _ u)
      refine ⟨_, hexec, (hout.bit_eq (regWindow_gshFifoStatus n) _).trans hrefused.refused, (hout.fifos (.inl rfl) rfl).trans hrefused.fifos,
        (hout.bufs (.inl rfl) rfl).trans hrefused.bufs, fun hm => ?_, fun hm => ?_⟩
      · have hrefuse := State.outside_refused hm u 4 b
        refine ⟨?_, fun o ho => ?_⟩
        · show SMap.find (u.outside m 4 b false).resp m.val = _
          rw [hrefuse]
          exact State.respond_find ..
        · show (u.outside m 4 b false).reg o = _
          rw [hrefuse]
          exact hread.reg_eq ho
      · have hb := State.pushChain_foreign_lt (Nat.mod_lt _ (by decide)) hforeign
        obtain ⟨htime, hword, hindex⟩ := State.outside_violated hm u (kind := 4) (detail := b) (by decide) (by omega) false
        have hnow : u.now = s.now := hread.now_eq
        have hat : u.fld R.pitViolIdx F.pitViolIdx.index = s.fld R.pitViolIdx F.pitViolIdx.index := hread.fld_eq regWindow_pitViolIdx _
        rw [hat] at htime hword hindex
        rw [hnow] at htime
        exact ⟨htime, hword, hindex⟩
  case commits =>
    refine ⟨_, congrArg Host.Outcome.next (State.commitHeld_room hup hon hheld hroom), ?_, ?_, fun b hb => State.append_queued _ _ _ hb⟩
    · rw [State.append_fifo, State.setFifo_fifo_self]
    · rw [State.append_fifo, State.setFifo_fifo_self]
      rfl
  case waits => exact congrArg Host.Outcome.next (State.commitHeld_waits hup hon hheld hroom)

/-- Settles O41: a packet that fits is put into the ring and popped (`State.ringDeliver_fits`, `State.ringed_out`), or dropped
(`State.ueDrop_shows`); PERST_N writes every ring register (`State.perst_ring`), and unmasking a vector writes its entry
(`State.unmask_eq`), which sends what is pending (`State.msixWrite_pending`). -/
theorem pcieRings : Obligations.PcieRings := by
  refine ⟨fun m n v s hon hreach => ?write, fun n p l N P s hon hp hN hP => ⟨fun hue hlength hfits => ?delivers, fun hlong => ?waits,
    fun hue hfits => ?drops⟩, fun s hup => ?perst, fun fn vec s hup hon => ?unmask, fun k on s => ⟨fun hup hlink => ?vf, fun hoff => ?off⟩⟩
  case write =>
    exact ⟨_, congrArg Host.Outcome.next (State.onFifo_reaches 0x38 _ hon hreach), s.ringSet_reg n v, s.ringSet_prodIdx n v,
      s.ringSet_consIdx n v, s.ringSet_fifos n v⟩
  case delivers =>
    subst hN hP
    have hput := s.ringed_keeps n p
    have hprod := s.ringed_prodIdx n p
    have hcons := s.ringed_consIdx n p
    have hout := s.ringed_out n p
    have hexec : exec (.ringDeliver n) s = .next (((s.ringed n p).popHead n .free).fifoMsi n true) :=
      congrArg Host.Outcome.next (State.ringDeliver_fits hon hp hfits hue)
    rw [hlength] at hprod hout
    generalize s.ringed n p = a at hput hprod hcons hout hexec
    have hpa : (a.fifo n).packets = p :: l := by rw [hput.fifo_eq, hp]
    have hpop : Keeps 0x80040018 a (a.popHead n .free) := State.popHead_step _ _ rfl rfl (Keeps.refl _ a)
    have hmsi : Keeps 0x20040000 (a.popHead n .free) ((a.popHead n .free).fifoMsi n true) :=
      State.fifoMsi_step _ _ rfl rfl (Keeps.refl _ _)
    have hrings := (State.popHead_sameRings hpa .free).trans (State.fifoMsi_sameRings _ n true)
    refine ⟨_, hexec, ?_, (hrings.prodIdx n).trans hprod, (hrings.consIdx n).trans hcons, fun b hb => ?_, fun hirq => ?_⟩
    · rw [hmsi.fifo_eq, State.popHead_fifo hpa]
    · rw [State.buf_of_bufs (hmsi.bufs (.inl rfl) rfl), State.popHead_buf hpa, if_pos hb]
    · have hquiet : (a.popHead n .free).bit (R.hifRing n) F.hifRing.irq = false := by
        rw [hpop.bit_eq (regWindow_hifRing n), hput.bit_eq (regWindow_hifRing n), hirq]
      rw [State.fifoMsi_off hquiet, hpop.out (.inl rfl) rfl, hout]
  case waits =>
    subst hN hP
    exact congrArg Host.Outcome.next (State.ringDeliver_waits hp hlong)
  case drops =>
    subst hN hP
    obtain ⟨hpackets, hrings, hout, hdropped, hoverrun, hue'⟩ := State.ueDrop_shows hp
    exact ⟨_, congrArg Host.Outcome.next (State.ringDeliver_bad hon hp hfits hue), hpackets, hrings.prodIdx n, hout, hdropped, hoverrun, hue'⟩
  case perst =>
    have hframe : Keeps 0x8000000040000 s s.perst := State.perst_step rfl rfl (Keeps.refl _ s)
    have hif := congrArg State.hif (State.perst_eq hup)
    rw [State.setHif_hif] at hif
    refine ⟨_, rfl, fun n => ⟨State.perst_ring hup n, ?_, ?_⟩, ?_, ?_, hframe.fifos (.inl rfl) rfl, hframe.sch (.inl rfl) rfl, hframe.runs_eq,
      hframe.boot (.inl rfl) rfl⟩
    · unfold State.prodIdx
      rw [hif]
      rfl
    · unfold State.consIdx
      rw [hif]
      rfl
    · rw [hif]
    · rw [hif]
  case unmask =>
    have hexec : exec (.msixUnmask fn vec) s = .next (s.msixWrite fn (2 * vec + 1) (unmasked (s.msixWord (128 * fn + 2 * vec + 1)))) :=
      congrArg Host.Outcome.next (State.unmask_eq hup hon vec)
    have hmask := unmasked_mask (s.msixWord (128 * fn + 2 * vec + 1))
    have hdata := unmasked_data (s.msixWord (128 * fn + 2 * vec + 1))
    generalize unmasked (s.msixWord (128 * fn + 2 * vec + 1)) = w at hexec hmask hdata
    have hself (m : SMap Word) : SMap.look (msixReset (128 * fn + 2 * vec + 1))
        (SMap.put (msixReset (128 * fn + (2 * vec + 1))) m (128 * fn + (2 * vec + 1)) w) (128 * fn + 2 * vec + 1) = w :=
      SMap.look_put_self _ _ _ _
    cases hpend : SMap.look false s.hif.msixPend (64 * fn + vec) with
    | true =>
      rw [State.msixWrite_pending hmask hpend] at hexec
      refine ⟨_, hexec, ?_, SMap.look_put_self false s.hif.msixPend (64 * fn + vec) false, nofun, fun _ => ?_⟩
      · exact (congrArg (·.getLsbD 32) (hself s.hif.msixTab)).trans hmask
      · have hother : SMap.look (msixReset (128 * fn + 2 * vec)) (SMap.put (msixReset (128 * fn + (2 * vec + 1))) s.hif.msixTab
            (128 * fn + (2 * vec + 1)) w) (128 * fn + 2 * vec) = s.msixWord (128 * fn + 2 * vec) :=
          SMap.look_put_ne _ _ _ _ _ (by omega)
        rw [State.msixSend_out]
        unfold State.msixWord at hother hdata ⊢
        rw [State.setHif_hif, State.setHif_out]
        dsimp only
        rw [hother, hself, hdata]
    | false =>
      rw [State.msixWrite_quiet w hpend] at hexec
      exact ⟨_, hexec, (congrArg (·.getLsbD 32) (hself s.hif.msixTab)).trans hmask, hpend, fun _ => rfl, nofun⟩
  case vf =>
    refine ⟨_, congrArg Host.Outcome.next (State.vfWrite_on hup hlink k.toNat on), rfl, rfl, fun q => ?_⟩
    unfold State.vfOn
    rw [State.setHif_hif, hlink, Bool.and_true]
    rfl
  case off => exact congrArg Host.Outcome.next (State.vfWrite_off hoff _ _)

/-- Settles O44: a transmit of one packet is one datagram (`State.ethTransmit_one`, `State.ethSend_out`); an ACK pops what it covers
(`State.ackMsg_read`, `State.popMany_leaves`); a timeout sends again or gives up (`State.ethResend_timer`, `State.ethLose_shows`). -/
theorem ethernetDelivery : Obligations.EthernetDelivery := by
  refine ⟨fun q x n p s hon hport hlink hfifos hp hflight hue hlength hpos hroom => ?transmit,
    fun q x n k f ws s hfirst hpitch hlength hn howns hf hk => ?ack, fun q s hon hwaiting => ⟨fun hearly => ?early, fun hdue =>
      ⟨fun x hsends hport => ?resends, fun hsends => ?loses⟩⟩, fun x s hup => ⟨?down, fun v hscan hon hpos hmax => ?up⟩⟩
  case transmit =>
    have hexec : exec (.ethTransmit q x) s = .next (((s.inFlight q n p).ethSend q x false (s.readChain p.chain p.length)).showWaiting q) :=
      congrArg Host.Outcome.next (State.ethTransmit_one hon hport hlink hfifos hp hflight hue hlength hpos hroom)
    have hkept := s.inFlight_keeps q n p
    have hep := s.inFlight_ep q n p
    have hbody := s.inFlight_body q n p (s.readChain p.chain p.length)
    generalize s.inFlight q n p = a at hexec hkept hep hbody
    have hsent : Keeps 0x8000020040000 a ((a.ethSend q x false (s.readChain p.chain p.length)).showWaiting q) :=
      State.showWaiting_step _ rfl rfl (State.ethSend_step _ _ _ _ rfl rfl (Keeps.refl _ a))
    have hsentEp : ((a.ethSend q x false (s.readChain p.chain p.length)).showWaiting q).ep q =
        { a.ep q with outNext := (a.ep q).outNext + 1, port := x } := a.ethSend_ep q x false _
    have hkey (k : Nat) : a.slotKey k = s.slotKey k := by
      unfold State.slotKey
      rw [hkept.sec (.inl rfl) rfl]
    refine ⟨_, s.ethBody q (s.readChain p.chain p.length), hexec, rfl, ?_, by rw [hsentEp, hep], by rw [hsentEp, hep], by rw [hsentEp, hep], ?_,
      (hsent.fifos (.inl rfl) rfl).trans (hkept.fifos (.inl rfl) rfl)⟩
    · refine (a.ethSend_out q x _).trans ?_
      rw [hbody, hkept.reg_eq (regWindow_hifEpPeerMac q), hkept.reg_eq (regWindow_hifEpPeer q), hkept.fld_eq (regWindow_hifEpPeer q),
        hkept.fld_eq (regWindow_hifEpCfg q), hkey, hkept.out (.inl rfl) rfl]
      rfl
    · rw [State.showWaiting_fld, a.ethSend_ep, hep]
      rfl
  case ack =>
    have hread := s.popInbox_keeps q
    have hfifo : (s.popInbox q).fifo n = s.fifo n := hread.fifo_eq n
    have hflight : SMap.look 0 ((s.popInbox q).ep q).flight n = f := by rw [State.popInbox_flight, ← hf]
    cases hue : s.inboxUe q with
    | true =>
      have hk0 : k = 0 := by simpa [hue] using hk
      refine ⟨_, congrArg Host.Outcome.next (State.ackMsg_unread hfirst hue), ?_, s.popInbox_inbox q, ?_⟩
      · rw [hfifo, hk0, List.drop_zero]
      · rw [hflight, hk0, Nat.sub_zero]
    | false =>
      have hk' : k = s.acked (BitVec.ofNat 32 (bf ws 2 31 0)) f (s.fifo n).packets := by simpa [hue] using hk
      obtain ⟨hpackets, -, -⟩ := (s.popInbox q).popMany_leaves n k
      have hep := (s.popInbox q).popMany_ep n k q
      refine ⟨_, congrArg Host.Outcome.next (State.ackMsg_read hfirst hue hpitch hlength (hn ▸ howns) hn hf hk'), ?_, ?_, ?_⟩
      · rw [State.acknowledge_fifo, hpackets, hfifo]
      · rw [State.acknowledge_inbox, hep, State.popInbox_inbox]
      · exact State.acknowledge_flight (by rw [hep, hflight]) _ _
  case early => exact congrArg Host.Outcome.next (State.ethTimeout_early hearly)
  case resends =>
    obtain ⟨htimes, hlast⟩ := s.ethResend_timer q x
    exact ⟨_, congrArg Host.Outcome.next (State.ethTimeout_resends hon hwaiting hdue hsends hport), htimes, hlast⟩
  case loses =>
    obtain ⟨hflight, hlost, hzero, hpeer⟩ := s.ethLose_shows q
    exact ⟨_, congrArg Host.Outcome.next (State.ethTimeout_loses hon hwaiting hdue hsends), hflight, hlost, hzero, hpeer⟩
  case down => exact ⟨_, congrArg Host.Outcome.next (State.linkDown_up hup x), State.fld_setFld_self _ _ _ _ (by decide)⟩
  case up =>
    refine ⟨_, congrArg Host.Outcome.next (State.linkUp_up hup hscan hon hpos hmax), (State.fld_setFld_self _ _ _ _ (by decide)).trans ?_⟩
    exact Nat.mod_eq_of_lt (by show v.toNat < 2 ^ 3; omega)

/-- Settles O58: each step of the sequence is one operation (`State.stepDone_step1` and its siblings): the straps as they are seen
(`State.sampleStraps_shows`), the runs that are compared (`State.each_single`), the scan (`State.logScan_logged`), the sources
(`State.trySources_one`), an image that is applied (`State.applyImage_done`), and READY (`State.makeReady_shows`). -/
theorem bootSequence : Obligations.BootSequence := by
  refine ⟨fun i q s hseq => ⟨fun hheld => congrArg Host.Outcome.next (State.stepDone_held hseq i hheld), fun hheld => ⟨_, rfl, ?s0, ?s1, ?s2,
    ?s4, ?s5, ?s6, ?waits, ?fails, ?applies, ?s8, ?ready⟩⟩, fun m w s => ⟨?timeout, ?past, ?staging, ?closed, exec_load_off, ?load⟩⟩
  case s0 =>
    intro hstep
    rw [State.stepDone_step1 hseq i hheld hstep]
    exact ⟨rfl, rfl⟩
  case s1 =>
    intro hstep
    rw [State.stepDone_step2 hseq i hheld hstep]
    exact ⟨rfl, rfl⟩
  case s2 =>
    intro hstep
    rw [State.stepDone_step3 hseq i hheld hstep]
    have hframe : Keeps 0x801000000 (s.setBoot { s.boot with seq := some { q with step := 3 } })
        ((s.setBoot { s.boot with seq := some { q with step := 3 } }).sampleStraps q.samples i.straps) :=
      State.sampleStraps_step _ _ rfl rfl (Keeps.refl _ _)
    refine ⟨by rw [hframe.boot (.inl rfl) rfl]; rfl, fun hoff => ?_, fun hon n hn => ?_⟩
    · rw [hoff]
      rfl
    · rw [hon]
      exact State.sampleStraps_shows _ _ hn
  case s4 =>
    intro hstep
    rw [State.stepDone_step4 hseq i hheld hstep]
    refine ⟨by rw [State.step4_boot], fun u bad hu hbad => ?_⟩
    have hbase : u = s.calEnds q i := hu.trans (s.calEnds_eq q i).symm
    rw [State.step4_eq, hbase]
    refine ⟨fun hagree => ?_, fun n x y z hn hdiffers hothers => ?_⟩
    · exact List.foldlRecOn (motive := (· = s.calEnds q i)) allSlices _ rfl fun v hv n hn => by
        rw [hv, State.compareCal_agrees ((hbad n).symm.trans (hagree n hn))]
    · rw [State.each_single allSlices_nodup hn
        (fun n' hn' hne v => State.compareCal_agrees ((hbad n').symm.trans (hothers n' hn' hne)) v)]
      exact State.compareCal_differs ((hbad n).symm.trans hdiffers) _
  case s5 =>
    intro hstep
    rw [State.stepDone_step5 hseq i hheld hstep]
    refine ⟨_, s.step5_seq q i, fun hnone => State.logScan_unlogged hnone, fun ws hread hlogged => ?_, fun hunread => ?_⟩
    · unfold State.step5
      rw [hread]
      exact State.logScan_logged hlogged
    · unfold State.step5
      rw [hunread]
      exact s.logScan_unread
  case s6 =>
    intro hstep
    rw [State.stepDone_step6 hseq i hheld hstep]
    refine ⟨s.step6_seq q i, fun b img hb himg => ?_⟩
    subst himg
    refine ⟨fun h3 => ?_, fun h2 => ?_, fun hslot => ⟨fun hgood => State.step6_first q i hb hslot hgood, fun hbad => ?_, fun hbad hgood => ?_,
      fun hbad hbad' => ?_⟩⟩
    · rw [State.step6_none q i (hb.symm.trans h3)]
      exact ⟨rfl, rfl⟩
    · obtain ⟨hstaged, hwords, hfound, hfailed⟩ := State.step6_eeprom q i (hb.symm.trans h2)
      exact ⟨hstaged, hwords, fun hgood => (hfound hgood).1, hfailed⟩
    · exact (State.step6_second q i hb hslot hbad).staged
    · exact ((State.step6_second q i hb hslot hbad).found hgood).1
    · obtain ⟨himage, hresult⟩ := (State.step6_second q i hb hslot hbad).failed hbad'
      exact ⟨himage.trans (by rw [State.tried_boot]; rfl), hresult⟩
  case waits =>
    intro hstep himage
    rw [State.stepDone_step7 hseq i hheld hstep, State.step7_waits i q himage]
  case fails =>
    intro ws src next hstep himage hcode hnext
    subst hnext
    rw [State.stepDone_step7 hseq i hheld hstep]
    obtain ⟨staged, image, hboot⟩ := State.step7_fails_boot (q := q) i himage hcode
    refine ⟨by rw [hboot, hseq], by rw [hboot], by rw [hboot], fun hsel hslot hgood => ?_, fun hsel hslot hbad => ?_,
      fun hlast hb hsrc hkind => ?_⟩
    · obtain ⟨himage', hresult⟩ := (State.step7_other (q := q) i himage hcode hsel hslot).found hgood
      exact ⟨himage', hresult.trans (s.imageDropped_result ws src)⟩
    · exact (State.step7_other (q := q) i himage hcode hsel hslot).failed hbad
    · rw [State.step7_last i himage hcode hlast hb hsrc hkind]
      exact ⟨rfl, s.imageDropped_result ws src⟩
  case applies =>
    intro ws src f u hstep himage hcode hsrc hf hu
    subst hf
    have happly : s.stepDone i = s.applyImage ws src := (State.stepDone_step7 hseq i hheld hstep).trans (State.step7_applies i himage q hcode)
    rw [happly]
    refine ⟨fun hreset => State.applyImage_reset hseq hu src hreset, fun hgoes => ?_⟩
    obtain ⟨hboot, hresult, hsource, hserial, hepoch, hlocked, hfloor⟩ := State.applyImage_done hseq hu hsrc hgoes
    exact ⟨by rw [hboot], by rw [hboot], by rw [hboot], hresult, hsource, hserial, hepoch, hlocked, hfloor⟩
  case s8 =>
    intro hstep
    rw [State.stepDone_step8 hseq i hheld hstep]
    rfl
  case ready =>
    intro hstep
    rw [State.stepDone_ready hseq i hheld hstep]
    obtain ⟨hup, hpower, hrstout, hsite, hepoch, hchecking, hcheck⟩ := s.makeReady_shows q
    exact ⟨hup, hpower, hrstout, hsite, hepoch, hchecking, hcheck⟩
  case timeout =>
    intro hsome happlied
    exact ⟨_, congrArg Host.Outcome.next (State.imageTimeout_due hsome happlied), rfl⟩
  case past => exact fun h => congrArg Host.Outcome.next (State.imageTimeout_past h)
  case staging =>
    intro h
    have hserved : s.cfgServedTo m = true := by
      unfold State.cfgServedTo
      obtain hup | ⟨hw, hm⟩ := h
      · simp [hup]
      · simp [hw, hm]
    exact ⟨⟨_, congrArg Host.Outcome.next (if_pos hserved), rfl, s.restage_words⟩, _, congrArg Host.Outcome.next (if_pos hserved), rfl,
      s.stageWord_words w⟩
  case closed =>
    intro hup h
    have hserved : s.cfgServedTo m ≠ true := by
      unfold State.cfgServedTo
      obtain hw | hm := h
      · simp [hup, hw]
      · simp [hup, Nat.not_lt.mpr hm]
    exact ⟨congrArg Host.Outcome.next (if_neg hserved), congrArg Host.Outcome.next (if_neg hserved)⟩
  case load =>
    intro hw hm hresult q img hseq hstep himg
    subst himg
    have hserved : exec (.load m) s = .next s.load := congrArg Host.Outcome.next (if_pos (State.cfgServedTo_windows hw hm))
    refine ⟨fun hcode => ?_, fun ws f u hsome hcode hf hu => ?_⟩
    · rw [State.load_fails hw hresult hseq hstep hcode] at hserved
      exact ⟨_, hserved, State.imageFail_boot .., State.imageFail_result _ _ _ (s.imageCode_lt _)⟩
    · subst hf
      rw [hsome] at hcode
      rw [State.load_applies hw hresult hseq hstep hsome hcode] at hserved
      refine ⟨fun hreset => hserved.trans (congrArg Host.Outcome.next (State.applyImage_reset hseq hu 3 hreset)), fun hgoes => ?_⟩
      obtain ⟨hboot, hresult, hsource, hserial, -, hlocked, -⟩ := State.applyImage_done hseq hu (by decide : 3 < 4) hgoes
      exact ⟨_, hserved, by rw [hboot], by rw [hboot], by rw [hboot], by rw [hboot], hresult, hsource, hserial, hlocked⟩

end
